-- ==== Sys2Proof/Word.lean ====
section
/-! DEFINITION. The plainest words of the SK192: register words, bytes, the two twins and bit fields. -/

namespace Sys2Proof

/-- A 32-bit register word (R13). -/
abbrev W32 := BitVec 32

/-- A 64-bit word: digests, TB counters, link words. -/
abbrev W64 := BitVec 64

/-- One byte of a packet, a frame or an image. -/
abbrev Byte := BitVec 8

/-- The two controllers of the device (R16, R17): twin A and twin B. -/
inductive Twin where
  | a
  | b
deriving DecidableEq, Repr

/-- The twin bit of a claim number (00_scope, Notation): A = 1, B = 0. -/
def Twin.bit : Twin → Nat
  | .a => 1
  | .b => 0

/-- The other twin. -/
def Twin.other : Twin → Twin
  | .a => .b
  | .b => .a

/-- The number 0 or 1 a result word uses for a twin (A = 0, B = 1). -/
def Twin.index : Twin → Nat
  | .a => 0
  | .b => 1

/-- A Bool as a bit. -/
def bit (b : Bool) : Nat := if b then 1 else 0

/-- Bit `i` of a number. -/
def nbit (x i : Nat) : Bool := x / 2 ^ i % 2 == 1

/-- Bits `hi` down to `lo` of a register word, as a number. -/
def bits (w : W32) (hi lo : Nat) : Nat := w.toNat / 2 ^ lo % 2 ^ (hi + 1 - lo)

/-- The word `w` with bits `hi` down to `lo` replaced by the low bits of `v`. -/
def putBits (w : W32) (hi lo : Nat) (v : Nat) : W32 :=
  BitVec.ofNat 32 (w.toNat - w.toNat / 2 ^ lo % 2 ^ (hi + 1 - lo) * 2 ^ lo + v % 2 ^ (hi + 1 - lo) * 2 ^ lo)

end Sys2Proof
end

