-- ==== Sys2Proof/Machine/Tab.lean ====
section
/-! DEFINITION. Sparse tables in one canonical form: a list of (key, value) pairs with strictly rising keys, in
which no listed value equals the default an unlisted key reads as. The register maps, the cell tables and every
other indexed piece of state are held so, and equal tables are equal data. -/

namespace Sys2Proof

/-- A sparse table of values of type `α` under numeric keys. -/
abbrev Tab (α : Type) := List (Nat × α)

/-- The value under key `k`, or the default `d` where the table lists nothing. -/
def tabGet {α : Type} (d : α) : Tab α → Nat → α
  | [], _ => d
  | (j, v) :: r, k => if j = k then v else if k < j then d else tabGet d r k

/-- Put the entry `(k, v)` into its place, or take the entry of `k` away where `keep` is false. -/
def tabPut {α : Type} (keep : Bool) : Tab α → Nat → α → Tab α
  | [], k, v => if keep then [(k, v)] else []
  | (j, w) :: r, k, v =>
    if j = k then (if keep then (k, v) :: r else r)
    else if k < j then (if keep then (k, v) :: (j, w) :: r else (j, w) :: r)
    else (j, w) :: tabPut keep r k v

/-- Write `v` under key `k`; a value equal to the default takes the entry away. -/
def tabSet {α : Type} [DecidableEq α] (d : α) (t : Tab α) (k : Nat) (v : α) : Tab α :=
  tabPut (decide (v ≠ d)) t k v

/-- Change the value under key `k` by `f`. -/
def tabMod {α : Type} [DecidableEq α] (d : α) (t : Tab α) (k : Nat) (f : α → α) : Tab α :=
  tabSet d t k (f (tabGet d t k))

/-- Every key listed is above `k`. -/
def tabAbove {α : Type} (k : Nat) (t : Tab α) : Bool := t.all (fun e => decide (k < e.1))

/-- The canonical form: strictly rising keys, and no listed value equal to what an unlisted key reads as. -/
def tabWf {α : Type} [DecidableEq α] (d : Nat → α) : Tab α → Bool
  | [] => true
  | (k, v) :: r => decide (v ≠ d k) && tabAbove k r && tabWf d r

end Sys2Proof
end

