-- ==== Sys2Proof/Machine/CanTypes.lean ====
section
/-! DEFINITION. Plain data of the CAN FD buses (10_can_bus). -/

namespace Sys2Proof

/-- A CAN frame; the identifier of a base frame stands in bits 28:18 (R342). DESIGN CHOICE, unsafe: log entry 235. -/
structure CanFrame where
  id : BitVec 29
  ide : Bool
  rtr : Bool
  fdf : Bool
  brs : Bool
  esi : Bool
  dlc : Fin 16
  data : List Byte
deriving DecidableEq, Repr

/-- The dominant bits that a controller sees after its error flag (ISO 11898-1, R352): whether the first bit after the flag is
dominant, and how many further runs of dominant bits raise its counter again. -/
structure DomBits where
  first : Bool
  runs : BitVec 8
deriving DecidableEq, Repr

/-- A reception in progress (R356): the length, the bytes so far, the next sequence number, and the consecutive frames
left in the block (0: no limit). -/
structure IsoRx where
  total : Nat
  got : List Byte
  sn : Nat
  left : Nat
deriving DecidableEq, Repr

/-- The ISO 15765-2 transport of one context on one bus (R356): the reception, the frames ready to send, the reply in
progress, those behind it and the bytes not yet framed, the next sequence number, the frames left in the block (none: no limit),
whether a flow control is awaited, and the last complete message. -/
structure IsoSt where
  rx : Option IsoRx := none
  out : List (List Byte) := []
  reply : List Byte := []
  later : List (List Byte) := []
  rest : List Byte := []
  sn : Nat := 0
  left : Option Nat := none
  waitFc : Bool := false
  message : List Byte := []
deriving DecidableEq, Repr

/-- One bus in one twin beside its registers: the error counters, the object on the bus (128: the reference message),
the objects to cancel when their attempt ends, whether EN = 0 waits for the attempt, the hold slots with their stamps,
the hold slots overwritten, the reference pending and its cycle count, that of the reference on the bus, the device time in
1/16 ns at which EN became 0, the TB tick by which the attempt on the bus has ended, and the ECP transports. -/
structure CanSt where
  tec : Nat := 0
  rxErr : Nat := 0
  active : Option Nat := none
  cancel : List Nat := []
  closing : Bool := false
  hold : Tab (CanFrame × Nat) := []
  overs : List Nat := []
  refPend : Bool := false
  refCount : Nat := 0
  refAct : Nat := 0
  closedAt : Option Int := none
  ends : Nat := 0
  iso : Tab IsoSt := []
deriving DecidableEq, Repr

end Sys2Proof
end

