-- ==== Sys2Proof/Machine/CellTypes.lean ====
section
/-! DEFINITION. The state of one cell of the array as the cell obligations of 03_tributary_link give it (R79 to R127),
and the plain data its commands carry. -/

namespace Sys2Proof

/-- The configuration record a cell has accepted (R98). Delays and asymmetries are in 2^-16 ns. -/
structure CellCfg where
  idx : Nat
  chain : Nat
  cpos : Nat
  guard : Nat
  loss : Nat
  rate : Nat
  asymU : Int
  asymD : Int
  gen : W32
  builder : W32
deriving DecidableEq, Repr

/-- How a valid frame met the cell's own time (R107): its offset, the part of it the discipline has still to remove, the
oscillator's reading at the timing reference, and whether the offset has been counted towards TIME_LOCK. -/
structure Heard where
  ofs : Int
  trim : Int
  ref : Nat
  counted : Bool
deriving DecidableEq, Repr

/-- The discipline of a cell's time (R107): at oscillator reading `since` its own time is that reading plus `adj`, and it
runs on from there at a rate corrected by `drift` in 2^-32. Times are in 1/16 ns. -/
structure CellClk where
  adj : Int := 0
  drift : Int := 0
  since : Nat := 0
deriving DecidableEq, Repr

/-- A copy kept as candidate for a window (R109), with the fields that act (R95, R110 to R114). Times are Tributary
times. -/
structure Copy where
  claim : W32
  seq : Nat
  portA : Bool
  hold : Bool
  blockAll : Bool
  apply : Nat
  tcyc : Nat
  mode : Nat
  start : Nat
  isoBlock : Bool
  faultReset : Bool
  reject : Bool
  heard : Heard
  events : List (Nat × Nat)
  iso : W32
deriving DecidableEq, Repr

/-- A window as decided (R110 to R113): what it applies, and whether it is the one that reaches LOST_COMMAND. -/
structure CWin where
  apply : Nat
  tcyc : Nat
  mode : Nat
  start : Nat
  isoBlock : Bool
  faultReset : Bool
  reject : Bool
  events : List (Nat × Nat)
  iso : W32
  lost : Bool
deriving DecidableEq, Repr

/-- The identity of a cell as its builder fixed it (R98). -/
structure CellId where
  builderId : W32 := 0
  serial : W64 := 0
  fw : W32 := 0
  caps : W32 := 0
deriving DecidableEq, Repr

/-- What a cell measures for one uplink (R96); `badge` is the builder's status byte, and `own` the builder's ten bytes of
an identity record (R98). -/
structure CellMeas where
  vcap : W32
  iarm : W32
  temp1 : W32
  temp2 : W32
  iiso : W32
  aux : W32
  gddiag : Byte
  own : BitVec 80
  badge : Byte
  invalid : Bool
deriving DecidableEq, Repr

/-- One cell. Port states are those of R127: 0 OFF, 1 EIDLE, 2 TRAIN, 3 SYNC, 4 LOS. `legs` is the 4-bit leg state,
`mode` the mode applied: 0 BLOCK, 1 RUN, 2 BYPASS. -/
structure CellSt where
  ident : CellId := {}
  powered : Bool := false
  clk : CellClk := {}
  /-- The next valid frame steps the cell's time (R92). -/
  stepNext : Bool := false
  stA : Nat := 0
  stB : Nat := 0
  k3A : Bool := false
  k3B : Bool := false
  everA : Bool := false
  everB : Bool := false
  seqA : Option Nat := none
  seqB : Option Nat := none
  linkA : Int := 0
  linkB : Int := 0
  probedA : Bool := false
  probedB : Bool := false
  cfg : Option CellCfg := none
  nslots : Nat := 0
  highest : W32 := 0
  candA : Option Copy := none
  candB : Option Copy := none
  w : Option Nat := none
  win : Option CWin := none
  cur : Option CWin := none
  todo : List (Nat × Nat) := []
  m : Nat := 0
  holds : Nat := 0
  echoSeq : Nat := 0
  echoSrc : Nat := 0
  mode : Nat := 2
  legs : Nat := 0
  isoBlocked : Bool := true
  iso : W32 := 0
  /-- A boundary of the isolation periods in force, and a command that takes effect at a later boundary (R118). -/
  isoT0 : Nat := 0
  isoNext : Option (Nat × W32) := none
  bypass : Bool := true
  closed : Bool := false
  lostCmd : Bool := false
  desat : Bool := false
  uvlo : Bool := false
  isoFault : Bool := false
  overTemp : Bool := false
  bypFail : Bool := false
  ownFault : Bool := false
  noLockRun : Bool := false
  timeLock : Bool := false
  locking : Nat := 0
  loose : Nat := 0
  fastLock : Bool := false
  mismatch : Bool := false
  reject : Bool := false
  heardCopy : Bool := false
  late : Nat := 0
  miss : Nat := 0
  crcA : Nat := 0
  crcB : Nat := 0
  ofsA : Int := 0
  ofsB : Int := 0
  downU : Bool := false
  downD : Bool := false
  noticeU : Bool := false
  noticeD : Bool := false
  endU : Option Bool := none
  endD : Option Bool := none
  outA : List Byte := []
  outB : List Byte := []
  /-- The characters of the frame on each transmitter that went out as K30.7 (R86), by their place in it. -/
  badA : List Nat := []
  badB : List Nat := []
  dead : Bool := false
deriving DecidableEq, Repr

end Sys2Proof
end

