-- ==== Sys2Proof/Machine/NetTypes.lean ====
section
/-! DEFINITION. Plain data of the station network and of device time (09_network_time). -/

namespace Sys2Proof

/-- A received frame by the fields that R303 to R310 and R333 look at: addresses, length, whether the FCS is good,
ethertype, APPID, the number in its redundancy trailer or HSR tag, and for IP whether it is a fragment and the bytes
of its payload. `tc` says that it is a PTP Sync or Follow_Up, which a transparent clock corrects (R328), `twoStep` that it is
a two-step Sync, `follow` that it is a Follow_Up, `ptpSeq` its PTP sequence number and `corr` its correction field. -/
structure NetFrame where
  dst : BitVec 48
  src : BitVec 48
  len : Nat
  fcs : Bool
  ether : BitVec 16
  appid : BitVec 16
  seq : Option (BitVec 16)
  frag : Bool
  payload : Nat
  tc : Bool
  twoStep : Bool
  corr : Int
  follow : Bool
  ptpSeq : BitVec 16
deriving DecidableEq, Repr

/-- The handler that a frame is passed to (R303), or why it is passed to none. -/
inductive NetRoute where
  | dropped | arp | ptp | supervision | sv | goose | ip | forwarded
deriving DecidableEq, Repr

/-- One map of a duplicate-discard entry (R307): h, the 256-bit map, the frames outside the window in a row. -/
structure DdMap where
  seen : Bool := false
  h : Nat := 0
  map : BitVec 256 := 0
  oow : Nat := 0
deriving DecidableEq, Repr

/-- One source entry (R307, R310): a map per direction; PRP uses the first. -/
structure DdEntry where
  src : BitVec 48
  a : DdMap := {}
  b : DdMap := {}
deriving DecidableEq, Repr

/-- What a frame of the SK192 is. -/
inductive NetKind where
  | supervision | ecp | arp | echo | sv (j : Nat) | goose (j : Nat)
  | sync | announce | pdelayReq | pdelayResp | forward
deriving DecidableEq, Repr

/-- A frame of the SK192: its kind, the number in its trailer or tag, its content by words, its time or correction
field in units of 2^-16 ns, the bytes of an ECP reply, and of a PTP message its domain and port number (R323). -/
structure OutFrame where
  kind : NetKind
  seq : Option Nat := none
  words : List W32 := []
  corr : Int := 0
  bytes : List Byte := []
  domain : Nat := 0
  port : Nat := 0
deriving DecidableEq, Repr

/-- One ASDU of a sampled-value message. -/
structure SvAsdu where
  cnt : BitVec 16
  synch : Byte
  chans : List (W32 × W32)
deriving DecidableEq, Repr

/-- A sampled-value message (R313). -/
structure SvMsg where
  dst : BitVec 48
  appid : BitVec 16
  svid : List Byte
  confRev : W32
  sim : Bool
  asdus : List SvAsdu
deriving DecidableEq, Repr

/-- A sample held as a copy (R313, R314): its sampling instant in 1/16 ns of device time and its channels with their
validity. -/
structure SvCopy where
  inst : Int
  cnt : Nat
  synch : Nat
  vals : List (W32 × Bool)
deriving DecidableEq, Repr

/-- One item of a GOOSE message: its type by the record's code (5 and above: another type), the bytes it takes and its
value. -/
structure GooseItem where
  type : Nat
  len : Nat
  value : W32
deriving DecidableEq, Repr

/-- A GOOSE message (R318); `tal` is timeAllowedToLive in milliseconds. -/
structure GooseMsg where
  gocbRef : List Byte
  confRev : W32
  ndsCom : Bool
  sim : Bool
  stNum : W32
  sqNum : W32
  tal : Nat
  items : List GooseItem
deriving DecidableEq, Repr

/-- A GOOSE message held as a copy: its numbers, the device time in nanoseconds up to which it is current, and its
items with their validity. -/
structure GooseCopy where
  st : W32
  sq : W32
  till : Int
  vals : List (W32 × Bool)
deriving DecidableEq, Repr

/-- A published control block (R319): the items last published, the interval to the next repeat in milliseconds and
the timestamp of the state. -/
structure GoosePub where
  last : Option (List W32) := none
  wait : Nat := 0
  stamp : Int := 0
  synced : Bool := false
deriving DecidableEq, Repr

/-- A subscribed stream's holding (R315): the instant last found missing and the run of missing samples. -/
structure SvHold where
  missInst : Option Int := none
  run : Nat := 0
deriving DecidableEq, Repr

/-- The network state of one twin: copies under the key 2 × stream + LAN, what its streams hold, what it publishes,
the values that published nodes took, newest first, under the key 16 × stream + channel, as (device time in
1/16 ns from which it counts, value, valid), and the last number of the trailer or tag that the twin assigned or heard (R305). -/
structure NetTw where
  sv : Tab (List SvCopy) := []
  hold : Tab SvHold := []
  gs : Tab GooseCopy := []
  gp : Tab GoosePub := []
  hist : Tab (List (Int × W32 × Bool)) := []
  seqHeard : Nat := 0
deriving DecidableEq, Repr

/-- The network state the twins share: the duplicate-discard table, most recently used first; the next number of the
trailer or tag; the ARP entries, newest first; the device seconds of recent echo replies; every frame sent, oldest first, with
its port; the leader-built frames waiting for the other twin's copy, with their builder; and the handler the last
frame was passed to; the ports that serve LAN A and LAN B and the ports that have link. `ppsOut` is the PPS_OUT pulse, and `tcAdd` holds the
additions to correction fields that two-step Syncs left to their Follow_Ups (R328), by ingress port, source and number. -/
structure NetSt where
  lanA : Option Nat := none
  lanB : Option Nat := none
  link : List Nat := []
  dd : List DdEntry := []
  seq : Nat := 0
  arp : List (W32 × BitVec 48) := []
  echo : List Int := []
  tx : List (Nat × OutFrame) := []
  relay : List (Twin × OutFrame) := []
  route : Option NetRoute := none
  ppsOut : Bool := false
  tcAdd : List (Nat × BitVec 48 × BitVec 16 × Int) := []
deriving DecidableEq, Repr

/-- A Pdelay_Req as received: its domain and sequence number (R323, R329). -/
structure PdelayReq where
  domain : Byte
  seq : BitVec 16
deriving DecidableEq, Repr

/-- An Announce message (R325, R330): its dataset, its sender and port, and what it says of UTC. -/
structure Announce where
  domain : Byte
  p1 : Byte
  cls : Byte
  acc : Byte
  var : BitVec 16
  p2 : Byte
  gm : W64
  steps : BitVec 16
  sender : W64
  port : BitVec 16
  utc : BitVec 16
  utcValid : Bool
  leap59 : Bool
  leap61 : Bool
deriving DecidableEq, Repr

/-- A PTP event message as received: domain, sender, sequence number, two-step flag, its time and correction fields and
the receive time stamp, all in units of 2^-16 ns. -/
structure PtpMsg where
  domain : Byte
  sender : W64
  seq : BitVec 16
  twoStep : Bool
  origin : Int
  corr : Int
  stamp : Int
deriving DecidableEq, Repr

/-- The peer-delay exchange of one port (R323, R329): the next sequence number, the request awaiting its response with
its send time, the response awaiting its Follow_Up (sequence number, t4 − t1 + t2 less its correction),
and the mean link delay in 2^-16 ns. -/
structure PdelaySt where
  next : Nat := 0
  sent : Option (Nat × Int) := none
  wait : Option (Nat × Int) := none
  delay : Int := 0
deriving DecidableEq, Repr

/-- The best foreign master of a port (R325). -/
abbrev Foreign := Option Announce

/-- The clock servo (R324 to R330). `rates` holds the last 16 rate words, newest first; `sel` the LAN whose port holds
the selected master; `wait` a two-step Sync that awaits its Follow_Up; `next` a rate word not yet in effect. -/
structure TimeSt where
  rf : W32 := 0
  rates : List W32 := []
  good : Nat := 0
  masters : Tab Foreign := []
  sel : Option Nat := none
  wait : Option PtpMsg := none
  next : Option W32 := none
  pdelay : Tab PdelaySt := []
deriving DecidableEq, Repr

end Sys2Proof
end

