-- ==== Sys2Proof/Machine/SafTypes.lean ====
section
/-! DEFINITION. The state of one safety-monitor domain and of a pending safety-parameter write (11_safety). -/

namespace Sys2Proof

/-- A safety-parameter write that awaits its confirm (R380): target twins (A, B), context, address, value, nonce. -/
structure SafPend where
  a : Bool
  b : Bool
  ctx : Nat
  addr : Nat
  value : W32
  nonce : BitVec 16
deriving DecidableEq, Repr

/-- One side's safety-monitor domain beside its SAF_ registers (R360 to R377): the filtered channel levels of SIN0 to
SIN7, the functions with an acknowledge outstanding since power-up, those whose channels are in full demand, those of a
FAULT that has seen full demand, the pairs whose own channel is in its off-pulse, consecutive oscillator readings out of
range, whether the two sides' vectors differ, the write that awaits its confirm, whether the side has loaded its parameters since
its reset, whether its board image carries the lock flag, and the array cycle in which the cross-check last became
available again (R384). -/
structure SafSt where
  sin : Nat := 0
  owed : Nat := 15
  full : Nat := 0
  seen : Nat := 0
  pulse : Nat := 0
  oscBad : Nat := 0
  diff : Bool := false
  pend : Option SafPend := none
  loaded : Bool := false
  lockFlag : Bool := false
  offEnd : Option Nat := none
  /-- The TB count at which the readback of each pair's own channel last fell (R375). -/
  lowAt : Tab Nat := []
deriving DecidableEq, Repr

end Sys2Proof
end

