-- ==== Sys2Proof/Machine/Types.lean ====
section
/-! DEFINITION. Plain data that commands carry and State holds: heartbeats, change entries, packets, replies. -/

namespace Sys2Proof

/-- What a write addresses (R407): one twin, or both-agreed. -/
inductive Target where
  | one (t : Twin)
  | both
deriving DecidableEq, Repr

/-- The heartbeat word of R132. -/
structure Heartbeat where
  state : Fin 8
  claim : W32
  fit : Bool
  cycle : W32
  cause : Fin 16
  arbReach : Bool
deriving DecidableEq, Repr

/-- One entry of a change (R409): new = (old AND NOT mask) OR (value AND mask). -/
structure Entry where
  addr : W32
  mask : W32
  value : W32
deriving DecidableEq, Repr

/-- The transports of R387, numbered as the TRANSPORTS bits of HST_Hh_CFG. -/
inductive Transport where
  | udp | serial | can0 | can1
deriving DecidableEq, Repr

/-- The IPv4 addresses of a received datagram (R333); they say nothing of a packet that came over another transport. -/
structure IpPair where
  src : W32
  dst : W32
deriving DecidableEq, Repr

/-- The UDP ports of a received datagram (R333). -/
structure PortPair where
  src : BitVec 16
  dst : BitVec 16
deriving DecidableEq, Repr

/-- The bit of HST_Hh_CFG.TRANSPORTS that enables a transport. -/
def Transport.index : Transport → Nat
  | .udp => 0
  | .serial => 1
  | .can0 => 2
  | .can1 => 3

/-- The domain through whose crossing a transport's packets reach the fabric (R22, R23): NW, HS or CB. -/
def Transport.domain : Transport → Fin 9
  | .udp => 4
  | .serial => 7
  | .can0 => 5
  | .can1 => 5

/-- What a twin measures for its Contact sheet (R162, R165): each lane's TRB_EYE word by lane number (0 to 11 cell lanes,
16 to 19 network lanes), the exponent of the worst error rate, the margins of VCORE and VIO in mV, and each converter's
drift word. -/
structure HealthMeas where
  lanes : List (Nat × W32)
  berExp : Byte
  vcore : BitVec 16
  vio : BitVec 16
  drift : List W32
deriving DecidableEq, Repr, Inhabited

/-- A command accepted into a context's queue (R403): its header fields, tag and parameters, the transport it came over
(none for a command given to the model as a row of its own), the source address and port of a datagram, and whether
its wait under BUSY has been counted (R405). -/
structure Queued where
  ctx : Nat
  counter : Nat
  tag : BitVec 128
  opcode : Nat
  low : Bool
  waitDev : Bool
  asap : Bool
  params : List Byte
  via : Option Transport
  ip : W32
  port : Nat
  deferred : Bool
  execAt : Option Nat
deriving DecidableEq, Repr

/-- A reply (R394, R395): its command's context, counter and opcode, the status and INFO fields, the results, and the
whole packet with its tag. -/
structure Reply where
  ctx : Nat
  counter : Nat
  opcode : Nat
  status : Nat
  info : Nat
  data : List Byte
  bytes : List Byte
deriving DecidableEq, Repr

/-- One of the last 32 accepted packets kept for retransmission (R393); no reply while the command has not executed. -/
structure Kept where
  counter : Nat
  tag : BitVec 128
  reply : Option Reply
deriving DecidableEq, Repr

/-- A pending change (R409 to R412): the command that named it, its target, its cycle and that cycle's device time in
nanoseconds, its entries, the confirmed safety-parameter write it stands for (R380), whether it is agreed and whether its reply has been sent. -/
structure Change where
  id : Nat
  cmd : Queued
  target : Target
  cycle : Nat
  due : Int
  entries : List Entry
  param : Option SafPend
  agreed : Bool
  replied : Bool
deriving DecidableEq, Repr

/-- A command that waits for Sluice leave (R446): the operation, twin and argument of its request, and the results its
reply will carry. `replied` marks the LEAVE_WAIT reply; `flashOk` says whether the flash writes of a key roll succeed (R399). -/
structure HostWait where
  op : Nat
  twin : Twin
  arg : Nat
  cmd : Queued
  data : List Byte
  replied : Bool
  flashOk : Bool
deriving DecidableEq, Repr

/-- A request for Sluice leave (R444). `op` and `cost` are those of the Sluice table; `host` marks a host
request; `arg` says what the operation works on; `waited` marks a LEAVE_WAIT reply (R446). -/
structure LeaveReq where
  op : Nat
  cost : Nat
  twin : Twin
  host : Bool
  arg : Nat
  waited : Bool
deriving DecidableEq, Repr

/-- The state of one direction of a crossing cell (R23 to R28): the value last accepted by the reader, the transfers
offered and not yet accepted, each by the samples its reader will take, the UNSETTLED and NOT_READY flags of the last read, whether the other side is in reset,
and whether the reader itself was the side in reset. -/
structure Xing where
  last : W32
  offered : List (List W32)
  unsettled : Bool
  notReady : Bool
  dead : Bool
  rdrReset : Bool
deriving DecidableEq, Repr

/-- A crossing at reset: nothing offered, reset value 0. -/
def Xing.init : Xing := ⟨0#32, [], false, false, false, false⟩

/-- A crossing whose twin is in reset: NOT_READY, and its reader comes out of reset with the reset value (R28, R433). -/
def Xing.held : Xing := ⟨0#32, [], false, true, true, true⟩

/-- The eighteen directions of a twin's crossings while the twin is in reset (R433). -/
def Xing.allHeld : Tab Xing := (List.range 18).map (fun k => (k, Xing.held))

/-- How a host serial transaction stands (R388, R389): its OP byte, and whether CS_N rose only after its last byte. -/
structure SerEnd where
  op : Byte
  complete : Bool
deriving DecidableEq, Repr

/-- A unit that a producer writes (R416), and the halfwords whose parity is bad when they are read (R419). -/
structure StreamUnit where
  bytes : List Byte
  bad : List Nat
deriving DecidableEq, Repr

/-- What a grant of the interlock executes again, by context (R154): the contexts whose last replies the new holder sends
again, and those with a command that the follower had not yet heard reported. -/
structure GrantAgain where
  resend : BitVec 5
  rerun : BitVec 5
deriving DecidableEq, Repr

/-- A scheduled bootstrap refresh of a gate-drive pair: its start, or its end REF_W later (R255). -/
structure RefreshPoint where
  pair : Fin 8
  ended : Bool
deriving DecidableEq, Repr

/-- A desaturation comparator that reaches its threshold, as each side's power edge sees it (R261, R264). -/
structure DsnPoint where
  chan : Fin 8
  onA : Bool
  onB : Bool
deriving DecidableEq, Repr

/-- The converter whose run waits for its agreement, and which of its two sequences it converts for (R281). -/
structure SeqPoint where
  conv : Fin 4
  inj : Bool
deriving DecidableEq, Repr

/-- Whether a conversion's result crossed into the fabric settled (R25, R282). -/
structure SampleAt where
  settled : Bool
deriving DecidableEq, Repr

/-- A cell that gains power: its identity, and which of its ports hears a signal (R98, R127). -/
structure CellPower where
  ident : CellId
  sigA : Bool
  sigB : Bool
deriving DecidableEq, Repr

end Sys2Proof
end

