-- ==== Sys2Proof/Syntax.lean ====
section
/-! DEFINITION. The commands of the SK192: one constructor for each row of spec/opcode_table.json, in its order. The
table gives the rows no operands; each operand is what the row's rule says the command carries or the value that the
event presents to the device. -/

namespace Sys2Proof

/-- The commands and events of the opcode table. -/
inductive Instr where
  /-- RC_READ (R9): A read of an RC field returns its value and clears it; a clear that meets an increment acts first. -/
  | rcRead (t : Twin) (addr : W32) (meets : Bool)
  /-- REGISTER_WRITE (R483): A write to a register that has no row of its own is judged field by field, with idle-only and RWL fields refused only if they would change. -/
  | registerWrite (tg : Target) (addr v : W32)
  /-- INTERLOCK_GRANT (R149): The arbiter grants a pending request; the new holder raises its epoch, enters LEADING and restores its output logic. -/
  | interlockGrant (t : Twin) (again : GrantAgain)
  /-- SHARED_PIN_SWITCH (R149): After its output-logic slice is restored, the new holder switches the shared pins to itself, outputs starting off. -/
  | sharedPinSwitch (t : Twin)
  /-- INTERLOCK_RELEASE (R16): A twin releases the interlock, or loses it by supply loss or reset of its side; the shared pins go high impedance. -/
  | interlockRelease (t : Twin) (lost : Bool)
  /-- LINK_WORD_RECEIVE (R20): A 64-bit word arrives on the inter-twin link; a word with an invalid 1-of-4 code is discarded, counted and requested again. -/
  | linkWordReceive (t : Twin) (groups : List (BitVec 4))
  /-- LINK_HANDSHAKE_TIMEOUT (R20): A link handshake does not complete within 200 ns and the receiving twin declares the inter-twin link failed. -/
  | linkHandshakeTimeout (t : Twin)
  /-- CROSSING_TRANSFER (R24): A value passes through a crossing cell between the fabric and a clocked domain, sampled under R25. -/
  | crossingTransfer (t : Twin) (d : Fin 9) (into : Bool) (samples : List W32)
  /-- DOMAIN_WAKE (R26): A transfer into a gated CB or MP domain raises a wake request and completes after the clock restarts. -/
  | domainWake (t : Twin) (d : Fin 9)
  /-- CROSSING_SIDE_RESET (R28): One side of a crossing enters reset; pending and later transfers are dropped and counted in DROPPED_AT_RESET. -/
  | crossingSideReset (t : Twin) (d : Fin 9) (fabric : Bool)
  /-- CROSSING_REHANDSHAKE (R28): The reset side leaves reset, the sides exchange one empty handshake and transfers resume. -/
  | crossingRehandshake (t : Twin) (d : Fin 9)
  /-- CYCLE_START (R29): At device time t_n each twin transmits F(n) on its chains, with the claim cut at t_n − 200 ns. -/
  | cycleStart (t : Twin) (n : W32)
  /-- AGREEMENT_CLOSE (R139): With its own inputs and the other twin's marker held, a twin applies the agreement rules and holds the agreed input set. -/
  | agreementClose (t : Twin) (gpio : BitVec 12)
  /-- RG0_RUN_COMPLETE (R34): RG0 of cycle n completes, state updates take effect, the digest is exchanged and dispatch proceeds. -/
  | rg0RunComplete (t : Twin) (time : BitVec 16)
  /-- DIGEST_COMPARE (R32): Once both digests of cycle n are present, the twins compare them. -/
  | digestCompare (k : Fin 4) (n : W32)
  /-- DISPATCH_DEADLINE (R33): Dispatch of cycle n has not completed by t_(n+1); F(n+1) goes out with HOLD and an overrun is counted. -/
  | dispatchDeadline (t : Twin)
  /-- LAW_ENGINE_FAIL (R37): A law engine fails self-test and is removed from the schedule. -/
  | lawEngineFail (t : Twin) (e : Fin 8)
  /-- ARRAY_ENABLE (R46): ENABLE = 1 develops; map checks run and the rings are brought up under Sluice leave for lane training. -/
  | arrayEnable
  /-- ARRAY_FIRST_FRAME (R46): At the first cycle start at least 1 ms after the rings report ready, F(n0) starts the array. -/
  | arrayFirstFrame (n0 : W32)
  /-- ARRAY_STOP (R485): ENABLE = 0 develops at t_k; frames stop, K28.3 × 4 is sent and the rings enter electrical idle. -/
  | arrayStop
  /-- MAP_ENTRY_WRITE (R41): A mapping entry is written and checked; a ROLE change while enabled is judged at once. -/
  | mapEntryWrite (k : Fin 192) (v : W32)
  /-- CARRIER_ROTATION (R59): ROT_K cycles after the last reassignment, ranks are reassigned cyclically or by wear. -/
  | carrierRotation (st : Fin 6)
  /-- THERMAL_UPDATE (R60): Every TH_DIV cycles each cell's loss and junction temperature model is updated. -/
  | thermalUpdate (t : Twin)
  /-- WEIGHT_UPDATE (R63): Every WEAR_DIV thermal updates the wear weights of each string are recomputed. -/
  | weightUpdate (t : Twin)
  /-- WEAR_RECORD_SAVE (R64): Every SAVE × 10 min each twin writes its wear record to boot flash; failure sets WEAR_SAVE. -/
  | wearRecordSave (t : Twin) (ok : Bool)
  /-- ESTIMATOR_RESULT (R65): After about 1 s of whole fundamental periods, capacitance and series resistance are derived and filtered. -/
  | estimatorResult (t : Twin) (st : Fin 6)
  /-- IMBALANCE_DETECTED (R66): A cell's deviation exceeds DEV_PCT for DEV_CYCLES consecutive cycles: bypass cause 5. -/
  | imbalanceDetected (k : Fin 192)
  /-- CELL_LOST_DETECTED (R66): No valid uplink on either ring for N + 1 cycles: bypass cause 7. -/
  | cellLostDetected (k : Fin 192)
  /-- CELL_BYPASS (R66): CELL_CTRL.BYPASS bypasses a cell with cause 1, or has no effect on cells without a slot. -/
  | cellBypass (k : Fin 192)
  /-- BYPASS_UNCONFIRMED (R68): No confirmation within CONFIRM frames; the whole array is blocked and the breaker trip demanded. -/
  | bypassUnconfirmed (k : Fin 192)
  /-- CELL_INSERT (R69): CELL_CTRL.INSERT names a spare to insert, subject to role, state and block checks. -/
  | cellInsert (k : Fin 192)
  /-- SPARE_INSERT_START (R70): At the first window after its chain is ready, the spare enters INSERTING in RUN at 0b1010. -/
  | spareInsertStart (k : Fin 192)
  /-- INSERT_TIMEOUT (R71): Insertion not complete within INS_TIMEOUT; the cell is bypassed with cause 8 and the next spare selected. -/
  | insertTimeout (k : Fin 192)
  /-- CELL_READMIT (R74): CELL_CTRL.READMIT returns a BYPASSED cell to STANDBY or COLD as a spare. -/
  | cellReadmit (k : Fin 192)
  /-- RING_RX_SYNC (R123): A twin's receiver gets in sync during start-up and the ring moves to CONFIG frames. -/
  | ringRxSync (t : Twin) (c : Fin 12)
  /-- RING_START_TIMEOUT (R123): A ring not READY within START_TIMEOUT becomes FAILED and sets START_FAIL. -/
  | ringStartTimeout (t : Twin) (c : Fin 12)
  /-- RING_RETRY (R123): Once per second a FAILED ring restarts at step 1. -/
  | ringRetry (t : Twin) (c : Fin 12)
  /-- RESTART (R128): TRB_CTRL.RESTART restarts a ring at step 1 of start-up. -/
  | restart (t : Twin) (c : Fin 12)
  /-- PROBE_NOW (R128): TRB_CTRL.PROBE_NOW sets PROBE in the next frame. -/
  | probeNow (t : Twin) (c : Fin 12)
  /-- FRAME_RETURN (R126): A frame returns on a twin's receive lane; framing, CRCs and slots are checked and uplinks passed to agreement. -/
  | frameReturn (t : Twin) (c : Fin 12) (bytes : List Byte) (codeErrs : BitVec 16) (framed : Bool) (arrival : BitVec 52)
  /-- RETURN_DEADLINE (R126): A frame has not returned by t_n + T_ring + 100 ns and counts in RX_MISSING. -/
  | returnDeadline (t : Twin) (c : Fin 12)
  /-- WRAPPED_FRAME_RELAY (R122): A twin receives the other twin's wrapped frame and streams it over the inter-twin link. -/
  | wrappedFrameRelay (t : Twin) (c : Fin 12) (bytes : List Byte)
  /-- PROBE_CYCLE (R106): Once per second PROBE is set in one CYCLE frame on both rings of every live chain. -/
  | probeCycle
  /-- PROBE_STALE (R106): A link pair without a probe result for 10 s sets PROBE_STALE. -/
  | probeStale (t : Twin) (c : Fin 12)
  /-- DELAY_EXCHANGE (R103): One link pair exchanges delay request, response and result and both ends set their link delays. -/
  | delayExchange (c : Fin 12) (pair : Fin 17) (t1 t4 : BitVec 40) (ta : BitVec 24)
  /-- CELL_FRAME_FORWARD (R102): A cell forwards a frame cut-through, updating CORR, HOPS and HCRC and writing its uplink record. -/
  | cellFrameForward (c : Fin 12) (p : Fin 16) (portA : Bool) (bytes : List Byte) (bad : List Nat) (r : BitVec 24) (m : CellMeas)
  /-- CELL_COPY_JUDGE (R109): At the tail pad a cell judges a copy for validity, claim and timing and keeps it as candidate. -/
  | cellCopyJudge (c : Fin 12) (p : Fin 16) (portA : Bool) (bytes : List Byte) (ok : Bool) (ref now : BitVec 40)
  /-- CELL_ACCEPTANCE_DEADLINE (R110): At APPLY − t_guard the cell takes the highest-claim candidate to set the window. -/
  | cellAcceptanceDeadline (c : Fin 12) (p : Fin 16)
  /-- CELL_WINDOW_APPLY (R114): At APPLY the cell applies MODE, START, ISO_BLOCK and FAULT_RESET. -/
  | cellWindowApply (c : Fin 12) (p : Fin 16) (gone : BitVec 5)
  /-- CELL_EVENT_EXECUTE (R116): At an event's time the cell turns switches off, then on after dead time. -/
  | cellEventExecute (c : Fin 12) (p : Fin 16)
  /-- CELL_BYPASS_TIMEOUT (R117): Bypass closure not confirmed within BYP_TIME; the cell sets BYPASS_FAIL. -/
  | cellBypassTimeout (c : Fin 12) (p : Fin 16)
  /-- CELL_SYNC_ACQUIRED (R86): A cell receiver sees three aligned K28.5 characters and enters SYNC. -/
  | cellSyncAcquired (c : Fin 12) (p : Fin 16) (portA : Bool)
  /-- CELL_SYNC_LOST (R86): Code errors, missing commas or lost signal detect make a receiver lose sync. -/
  | cellSyncLost (c : Fin 12) (p : Fin 16) (portA : Bool)
  /-- CELL_EIDLE_ENTRY (R88): A port receives K28.3 × 4, forwards them and enters electrical idle. -/
  | cellEidleEntry (c : Fin 12) (p : Fin 16) (portA : Bool)
  /-- CELL_TIME_LOCK_CLEAR (R89): An idle cell clears TIME_LOCK 1 ms after the last frame. -/
  | cellTimeLockClear (c : Fin 12) (p : Fin 16)
  /-- CELL_EIDLE_EXIT (R90): On signal detect a port starts its transmitter, sends a training burst and forwards once in sync. -/
  | cellEidleExit (c : Fin 12) (p : Fin 16) (portA : Bool)
  /-- CELL_SIDE_DOWN (R120): A side goes down and the cell wraps traffic and sends link-down notices. -/
  | cellSideDown (c : Fin 12) (p : Fin 16) (sideD : Bool)
  /-- CELL_SIDE_UP (R120): A side in sync for 1 ms without notice comes up and the cell unwraps between frames. -/
  | cellSideUp (c : Fin 12) (p : Fin 16) (sideD : Bool)
  /-- LINK_DOWN_NOTICE (R120): A cell with a down side sends a link-down notice at least once per microsecond. -/
  | linkDownNotice (c : Fin 12) (p : Fin 16) (sideD : Bool)
  /-- CELL_LOS_IDLE (R127): A port in LOS without signal for 10 ms enters EIDLE. -/
  | cellLosIdle (c : Fin 12) (p : Fin 16) (portA : Bool)
  /-- CELL_HARDWARE_BYPASS (R122): A cell whose link controller stops turns off and closes its bypass by hardware. -/
  | cellHardwareBypass (c : Fin 12) (p : Fin 16)
  /-- HEARTBEAT_SEND (R132): Every 0.5 µs a twin sends its heartbeat word over the inter-twin link. -/
  | heartbeatSend (t : Twin)
  /-- HEARTBEAT_RECEIVE (R132): A valid heartbeat arrives and updates the other twin's state, claim and cause. -/
  | heartbeatReceive (t : Twin) (hb : Heartbeat)
  /-- OTHER_LOST (R132): No valid heartbeat for 2 µs, or the link failed: OTHER_LOST, HB_LOST set and counted. -/
  | otherLost (t : Twin)
  /-- KEEPALIVE_SEND (R133): Every 0.5 µs a twin that holds or requests the interlock sends a keep-alive to its side section. -/
  | keepaliveSend (t : Twin) (acked : Bool)
  /-- KEEPALIVE_LAPSE (R133): 32 SM ticks without keep-alive clear the twin's request or hold. -/
  | keepaliveLapse (t : Twin)
  /-- ARBITER_UNREACHABLE (R134): No keep-alive acknowledge for 2 µs; the twin declares the arbiter unreachable. -/
  | arbiterUnreachable (t : Twin)
  /-- ISOLATE (R131): A follower with OTHER_LOST and no grant within 10 µs becomes ISOLATED. -/
  | isolate (t : Twin)
  /-- ISOLATED_REJOIN (R131): Link error-free for 10 ms with the other twin LEADING; the isolated twin becomes JOINING. -/
  | isolatedRejoin (t : Twin)
  /-- FAST_SELFTEST_COMPLETE (R143): The fast self-test after a mismatch ends; results are exchanged and the decision table applied. -/
  | fastSelftestComplete (passA passB : Bool) (unitA unitB : BitVec 16)
  /-- WITHDRAW (R144): TWN_CTRL.WITHDRAW withdraws the addressed twin with cause HOST. -/
  | withdraw (t : Twin)
  /-- REJOIN (R148): TWN_CTRL.REJOIN starts a rejoin of a withdrawn twin after the full self-test. -/
  | rejoin (t : Twin)
  /-- AUTO_REJOIN (R148): With AUTO_REJOIN set, a twin withdrawn with causes 3, 4, 7, 8 or 12 rejoins once the cause clears. -/
  | autoRejoin (t : Twin)
  /-- FULL_SELFTEST_COMPLETE (R148): The full self-test of a rejoin ends; on pass the twin enters JOINING. -/
  | fullSelftestComplete (t : Twin) (pass : Bool)
  /-- DIE_OVERTEMP (R144): The die sensor above 128 °C for 10 ms is withdrawal cause 7. -/
  | dieOvertemp (t : Twin) (tdie : BitVec 16)
  /-- HANDOVER_NAME (R155): The leader names a hand-over tick t_h to the follower at least 100 µs ahead. -/
  | handoverName (th : W64)
  /-- HANDOVER (R155): At t_h the arbiter passes the hold to the follower in one step, or the hand-over is abandoned. -/
  | handover (replyBusy : Bool)
  /-- HANDOVER_POSTPONE (R155): No suitable instant within 10 ms; the hand-over is postponed by 1 min and counted. -/
  | handoverPostpone
  /-- ROTATION_DUE (R157): ROT_HOURS elapsed, or the minute retry, triggers a rotation if its conditions hold. -/
  | rotationDue (t : Twin)
  /-- ROTATE_NOW (R157): TWN_CTRL.ROTATE_NOW requests a rotation at once, refused with NOT_FIT if conditions fail. -/
  | rotateNow (t : Twin)
  /-- BACKGROUND_SELFTEST_SLICE (R158): A self-test slice of at most 4.8 µs runs; corrected errors are counted, uncorrectable ones are cause 2. -/
  | backgroundSelftestSlice (t : Twin) (item : Fin 6) (corrected : W32) (uncorrectable passDone : Bool) (coverage : Fin 101)
  /-- JOIN_COMPLETE (R159): Remaining chunks all sent within one cycle; the joiner enters FOLLOWING and sets JOINED. -/
  | joinComplete (t : Twin)
  /-- JOIN_TIMEOUT (R159): A join not complete within 10 s stops and sets JOIN_FAIL. -/
  | joinTimeout (t : Twin)
  /-- JOIN_RETRY (R159): One minute after a failed join, the join is retried. -/
  | joinRetry (t : Twin)
  /-- SOAK_END (R160): The updated twin has run SOAK seconds; the leader hands over and is updated. -/
  | soakEnd (t : Twin)
  /-- CONTACT_SHEET_REFRESH (R162): Every PERIOD seconds the Contact sheet snapshot is refreshed and grades evaluated. -/
  | contactSheetRefresh (t : Twin) (m : HealthMeas)
  /-- SNAP (R162): HLT_CTRL.SNAP takes a Contact sheet snapshot at once. -/
  | snap (t : Twin) (m : HealthMeas)
  /-- RG_TRIGGER (R173): A rate-group trigger arrives from the array cycle or a PWM event; a run starts, or waits for the previous one. -/
  | rgTrigger (t : Twin) (k : Fin 3) (gpio : BitVec 12)
  /-- RG_RUN_START (R175): Agreement of an RG1 to RG3 run closes and the run starts. -/
  | rgRunStart (t : Twin) (k : Fin 3)
  /-- RG_RUN_COMPLETE (R176): A run of RG1 to RG3 completes and its state updates take effect. -/
  | rgRunComplete (t : Twin) (k : Fin 3) (time : BitVec 16)
  /-- RG_DEADLINE (R176): At a group's deadline transition copies develop, or an unfinished run counts as overrun. -/
  | rgDeadline (t : Twin) (k : Fin 3)
  /-- LOAD (R182): LAW_CTRL.LOAD reloads the graph image under Sluice leave and resets nodes, states and banks. -/
  | load (tg : Target)
  /-- COEF_WRITE (R188): A latent coefficient is written, refused if NaN, out of range or in a pending swap set. -/
  | coefWrite (tg : Target) (b : Fin 4096) (i : Fin 16) (v : W32)
  /-- SWAP (R189): LAW_CTRL.SWAP submits the named swap set for cycle n after checking limits. -/
  | swap (tg : Target)
  /-- SWAP_DEVELOP (R190): At a group's first run boundary at or after t_n the banks exchange and states are adjusted. -/
  | swapDevelop (t : Twin) (k : Fin 4)
  /-- HANDOVER_FORCED (R191): A MODE_SEL waiting for HO_TIMEOUT enters FADE. -/
  | handoverForced (t : Twin) (b : Fin 4096)
  /-- NEG_ARM (R197): NEG_CTRL.ARM arms an Exposure into FILLING, checked for rate and depth. -/
  | negArm (tg : Target) (e : Fin 4)
  /-- NEG_FIX (R198): NEG_CTRL.FIX fixes an Exposure on its next row. -/
  | negFix (tg : Target) (e : Fin 4)
  /-- NEG_DISARM (R199): NEG_CTRL.DISARM returns an Exposure to IDLE. -/
  | negDisarm (tg : Target) (e : Fin 4)
  /-- NEG_ROW_WRITE (R195): An Exposure's source fires and a row is written, after testing the trigger. -/
  | negRowWrite (t : Twin) (e : Fin 4) (time : W64) (lost : Bool)
  /-- NEG_EVENT_FIX (R198): A selected event arrives and fixes the Exposure on the next row. -/
  | negEventFix (t : Twin) (bits : BitVec 11)
  /-- NEG_REMOTE_FIX (R200): A Fix event from the other twin arrives over the link and fixes on the next row. -/
  | negRemoteFix (t : Twin) (bits : BitVec 11)
  /-- SEQUENCER_OUTPUT_APPLY (R212): At the next TB tick the sequencer's pulse block, ASC, chopper and discharge take effect. -/
  | sequencerOutputApply
  /-- DRIVE_ENABLE (R210): DRV_CTRL.ENABLE is written, checked for bindings and drives channel transitions. -/
  | driveEnable (tg : Target) (v : Bool)
  /-- CHANNEL_RUN (R210): DRV_Dd_CTRL.RUN is written to start or stop a channel. -/
  | channelRun (tg : Target) (d : Fin 2) (v : Bool)
  /-- XO_HOLD_END (R213): After ceil(20 ms ÷ Ts) runs the forced XO_REQ hold ends. -/
  | xoHoldEnd (d : Fin 2)
  /-- CATCH_MEASURE_END (R216): After K runs the permanent-magnet catch judges consistency and seeds the observer. -/
  | catchMeasureEnd (d : Fin 2)
  /-- POLARITY_TEST (R217): Each TPOL phase of the polarity test ends; the last compares peaks. -/
  | polarityTest (d : Fin 2)
  /-- CATCH_RETRY (R219): 10 ms after a failed attempt the catch restarts. -/
  | catchRetry (d : Fin 2)
  /-- OBSERVER_LOSS (R220): A loss condition holds for RES_N runs; OBS_LOST is set and the speed rule applied. -/
  | observerLoss (d : Fin 2)
  /-- ASC_EXIT (R223): Exit conditions hold for ASC_T and the channel leaves ASC for BLOCKED. -/
  | ascExit (d : Fin 2)
  /-- TMON_CMD (R225): bad_cmd holds for TMON_T; TMON_CMD is set and with REACT the torque-monitor demand raised. -/
  | tmonCmd (t : Twin) (d : Fin 2)
  /-- TMON_EST (R225): bad_est holds for TMON_T without bad_cmd; TMON_EST is set. -/
  | tmonEst (t : Twin) (d : Fin 2)
  /-- DISCHARGE (R227): DRV_CTRL.DISCHARGE stops the channels and blocks the cells' isolation feed. -/
  | discharge (tg : Target)
  /-- DISCHARGE_START (R228): No power is fed into the link any more and the discharge pair starts switching. -/
  | dischargeStart
  /-- DIS_REFUSED (R227): The no-feed condition fails within DIS_WAIT; the request ends with ARRAY_FEEDING. -/
  | disRefused
  /-- DIS_STUCK (R228): VDC has not fallen below 0.9 V0 within DIS_TIME ÷ 8; switching stops. -/
  | disStuck
  /-- DIS_DONE (R228): VDC below 60 V for 10 ms; DIS_DONE and DISCHARGED are set. -/
  | disDone
  /-- DIS_FAIL (R228): VDC not below 60 V within DIS_TIME; DIS_FAIL set and ATTN_DRIVE raised. -/
  | disFail
  /-- DISCHARGE_END (R228): After DIS_TIME × 2 a failed discharge stops switching. -/
  | dischargeEnd
  /-- CHOPPER_FAIL (R229): Chopper feedback absent for TFB; CHOPPER_FAIL latches and stage 2 starts. -/
  | chopperFail
  /-- STAGE2 (R229): VDC at or above VCH_HI for TCONF enters stage 2. -/
  | stage2
  /-- SPILL_TRIP (R229): VDC at or above V_S4 for T4, or at V_TRIP, enters stage 5 and demands breaker trip. -/
  | spillTrip
  /-- SPILLWAY_EXIT (R230): VDC below VCH_LO for T_EXIT; Spillway exits and ramps back. -/
  | spillwayExit
  /-- CLEAR (R230): DRV_CTRL.CLEAR clears SPILL_TRIP and CHOPPER_FAIL unless VDC is at or above VCH_LO. -/
  | clear (tg : Target)
  /-- ENCODER_COUNT (R233): A filtered change of ENC_A or ENC_B moves the count, or counts an illegal transition. -/
  | encoderCount (a b z : Bool) (stamp : W64)
  /-- ENCODER_INDEX (R233): A rising ENC_Z with A and B high latches the count and acts by INDEX_MODE. -/
  | encoderIndex
  /-- HALL_CHANGE (R234): A change of the Hall state updates the sector, direction and stamp, or counts an error. -/
  | hallChange (h : Fin 8) (stamp : W64)
  /-- PWM_START (R244): PWM_Pp_CTRL.START starts a pair's carrier at b0, checked for dead-time lock, period and time. -/
  | pwmStart (tg : Target) (p : Fin 8)
  /-- PWM_STOP (R244): PWM_Pp_CTRL.STOP forces both outputs off at the next tick and stops the carrier. -/
  | pwmStop (tg : Target) (p : Fin 8)
  /-- PWM_ARM (R247): PWM_Pp_CTRL.ARM copies the latent set into the pending stage, replacing any pending set. -/
  | pwmArm (tg : Target) (p : Fin 8)
  /-- RELOAD_CUTOFF (R247): At the tick at or before R − 2 ns the pending set becomes committed and is clamped. -/
  | reloadCutoff (p : Fin 8)
  /-- RELOAD (R249): At a reload event the committed set develops and DEV_SEQ and LATE are reported. -/
  | reload (p : Fin 8) (kind : Fin 3)
  /-- PERIOD_BOUNDARY (R251): A pair's period boundary fires a period event. -/
  | periodBoundary (p : Fin 8)
  /-- COMPARE_EVENT (R251): A compare offset CMPXi fires a compare event. -/
  | compareEvent (p : Fin 8) (i : Fin 4)
  /-- PWM_EDGE (R245): The switching signal changes and an output turns off, or is scheduled on after dead time. -/
  | pwmEdge (gd : Bool) (p : Fin 8) (outB rise : Bool)
  /-- DEAD_TIME_END (R245): Dead time ends and a pending turn-on reaches the output. -/
  | deadTimeEnd (k : Fin 16) (outB : Bool)
  /-- PWM_FORCE (R250): A force is written; it acts at the next tick or boundary, and a release returns to modulation. -/
  | pwmForce (tg : Target) (p : Fin 8) (fa fb : Fin 4) (atB : Bool)
  /-- DT_LOCK (R246): PWM_GCFG.DT_LOCK locks all dead times until reset. -/
  | dtLock (tg : Target)
  /-- GENERATOR_BOUNDARY (R252): A gate-drive generator boundary, where written values develop. -/
  | generatorBoundary (g : Fin 8) (settled : Bool)
  /-- GATE_UVLO (R254): A VDRVP or VDRVN under-voltage turns both channels off and sets UVLO. -/
  | gateUvlo (g : Fin 8) (neg : Bool)
  /-- UVLO_RECOVER (R254): The supply above threshold plus hysteresis for 10 µs; the pair resumes at its next on-edge. -/
  | uvloRecover (g : Fin 8) (neg : Bool)
  /-- BOOTSTRAP_REFRESH (R255): Channel A on for REF_INT; a scheduled off-pulse refreshes the bootstrap. -/
  | bootstrapRefresh (r : RefreshPoint)
  /-- FORCED_REFRESH (R255): BSTg falls below threshold while A is on; A turns off and B refreshes; BST is set. -/
  | forcedRefresh (g : Fin 8)
  /-- GPB_RUN (R256): GD_GPB.RUN starts the gate-power bridge after the stop test and soft start. -/
  | gpbRun (tg : Target)
  /-- BRIDGE_START_TEST (R370): Each side's 10 µs stop test of the bridge completes; failure sets BRIDGE_TEST. -/
  | bridgeStartTest (t : Twin) (pass : Bool)
  /-- GD_DIAG_START (R257): GD_DIAG_CTRL.START tests the named channels in order under Sluice leave. -/
  | gdDiagStart (tg : Target) (mask : BitVec 16) (itest : Fin 4)
  /-- GD_DIAG_CHANNEL_END (R257): A channel's sink and source measurements end and its result is classified. -/
  | gdDiagChannelEnd (v1 v2 vp : W32)
  /-- GD_DIAG_ABORT (R258): A trip, lock-out or source start ends a channel's test with OPEN and ABORTED. -/
  | gdDiagAbort
  /-- TRIP_LATCH (R259): A filtered trip input becomes active; the trip latches and masked outputs go to their trip states. -/
  | tripLatch (i : Fin 8) (onA onB : Bool)
  /-- TRIP_SIDE_DIFF (R261): The twins find one side latched and the other not; the unlatched side latches and SIDE_DIFF is set. -/
  | tripSideDiff
  /-- TRIP_CLEAR (R262): TRIP_CLEAR names latches to clear; active sources are refused with SOURCE_ACTIVE. -/
  | tripClear (ins scs active above : Byte)
  /-- TRIP_LOCK (R262): TRIP_GCFG.LOCK locks the trip configuration until reset. -/
  | tripLock (tg : Target)
  /-- DSN_TH2 (R263): DSNk at or above TH2 for 50 ns trips at once. -/
  | dsnTh2 (d : DsnPoint)
  /-- DSN_BLANKING_END (R263): Blanking ends; EARLY trips if still above TH1, or clears with EARLY_CLEARED. -/
  | dsnBlankingEnd (k : Fin 8) (above : Bool)
  /-- DSN_TH1 (R263): DSNk at or above TH1 after blanking for FILT × 25 ns trips. -/
  | dsnTh1 (d : DsnPoint)
  /-- SOFT_TURN_OFF_END (R253): The reduced sink step ends after (SOFT_T + 1) × 0.5 µs and ISNK takes over. -/
  | softTurnOffEnd (g : Fin 8)
  /-- ADC_TRIGGER (R275): A sequence trigger arrives and starts its delay, or is dropped as overrun. -/
  | adcTrigger (t : Twin) (q : Fin 4)
  /-- ADC_TIMER_FIRE (R278): A converter timer fires at a multiple of TPER × 12.5 ns. -/
  | adcTimerFire (t : Twin) (q : Fin 4) (inj : Bool)
  /-- ACQUISITION_START (R275): At the first AD edge after τ + DELAY acquisition of the first entry begins. -/
  | acquisitionStart (t : Twin) (q : Fin 4) (inj : Bool)
  /-- CONVERSION_COMPLETE (R274): A conversion ends; the code is corrected, flagged and written to its result register. -/
  | conversionComplete (t : Twin) (q : Fin 4) (raw : BitVec 16) (at' : SampleAt)
  /-- CHECK_CONVERSION (R295): A reference check conversion after a regular run completes and is written to CHK. -/
  | checkConversion (t : Twin) (q : Fin 4) (raw : BitVec 16)
  /-- INJECTED_TRIGGER (R281): An injected trigger interrupts the regular sequence after the conversion in flight. -/
  | injectedTrigger (t : Twin) (q : Fin 4)
  /-- RSW (R278): ADC_Cq_CTRL.RSW fires the regular sequence by software. -/
  | rsw (t : Twin) (q : Fin 4)
  /-- ISW (R278): ADC_Cq_CTRL.ISW fires the injected sequence by software. -/
  | isw (t : Twin) (q : Fin 4)
  /-- AD_UNLOCK (R277): The AD PLL loses lock; no conversion starts and triggers count as overruns. -/
  | adUnlock (t : Twin)
  /-- ADC_DISABLE (R297): EN = 0 ends the delay, discards the conversion in flight and marks the rest STALE. -/
  | adcDisable (t : Twin) (q : Fin 4)
  /-- INJ_DISABLE (R297): INJ_EN = 0 acts the same on the injected sequence. -/
  | injDisable (t : Twin) (q : Fin 4)
  /-- CONVERTER_FAIL (R296): Reference checks deviate three times, or a conversion exceeds 64 AD clocks; the converter stops. -/
  | converterFail (t : Twin) (q : Fin 4) (timeout : Bool)
  /-- AVG_OFF (R293): The array is enabled or a channel enters CATCH; AVG_EN clears. -/
  | avgOff (t : Twin)
  /-- AGREEMENT_WAIT_LIMIT (R286): A bound sequence's wait limit passes; unconverted entries count as STALE for the run. -/
  | agreementWaitLimit (t : Twin) (q : SeqPoint)
  /-- STEP_ZERO (R291): ADC_CAL_CTRL.STEP_ZERO sums 256 zero conversions into M_Z. -/
  | stepZero (t : Twin)
  /-- STEP_FULL (R291): ADC_CAL_CTRL.STEP_FULL sums M_F and computes G and O. -/
  | stepFull (t : Twin)
  /-- CAL_MEASURE_END (R291): A calibration sum completes; results are set latent or CAL_RANGE fails. -/
  | calMeasureEnd (t : Twin) (data : List (List W32)) (clipped : Bool)
  /-- COMMIT (R291): ADC_CAL_CTRL.COMMIT develops G, O and SKEW and writes them to boot flash. -/
  | commit (t : Twin) (flashOk : Bool)
  /-- ABORT (R291): ADC_CAL_CTRL.ABORT discards the calibration step in progress. -/
  | abort (t : Twin)
  /-- SKEW (R292): ADC_CAL_CTRL.SKEW runs a ramp burst and computes the interleave SKEW. -/
  | skew (t : Twin)
  /-- NET_FRAME_RECEIVE (R303): A network port receives a frame and filters it to its handlers. -/
  | netFrameReceive (p : Fin 4) (f : NetFrame) (resid : Int)
  /-- PRP_COPY_RELAY (R304): The other twin sends its LAN copy of a leader-built frame within 5 µs. -/
  | prpCopyRelay
  /-- PORT_TAKEOVER (R306): A take-over port assumes a LAN and sends a supervision frame. -/
  | portTakeover (lan : Fin 2)
  /-- PORT_RETURN (R306): After 10 ms of stable link the owning port resumes and the take-over port stops. -/
  | portReturn (lan : Fin 2)
  /-- DD_ENTRY_FORGET (R307): A duplicate-discard entry unused for FORGET is freed. -/
  | ddEntryForget (src : BitVec 48)
  /-- SUPERVISION_FRAME (R309): Every SUP_INT a PRP supervision frame is sent on both LANs. -/
  | supervisionFrame
  /-- SV_RECEIVE (R313): A subscribed sampled-value message is checked and its channels become copies. -/
  | svReceive (t : Twin) (i : Fin 8) (lan : Fin 2) (m : SvMsg)
  /-- SV_LOST (R315): HOLD_MAX missing samples or 100 ms without a message; the stream enters LOST. -/
  | svLost (i : Fin 8)
  /-- SV_PUBLISH (R316): A published sampled-value message is built and sent within T_cyc + 20 µs. -/
  | svPublish (j : Fin 4) (first : BitVec 16)
  /-- GOOSE_RECEIVE (R318): A subscribed GOOSE message is checked and its items become copies. -/
  | gooseReceive (t : Twin) (i : Fin 32) (lan : Fin 2) (m : GooseMsg)
  /-- GOOSE_LOST (R318): timeAllowedToLive expires with no current copy; the control block enters LOST. -/
  | gooseLost (i : Fin 32)
  /-- GOOSE_REPEAT (R319): A repeat interval expires and the message is sent again with sqNum incremented. -/
  | gooseRepeat (j : Fin 8)
  /-- RATE_CHANGE (R320): The rate word changes at a TB tick and OFS is adjusted for continuity. -/
  | rateChange (t : Twin)
  /-- TWIN_TIME_ALIGN (R321): Every 1 ms the follower aligns its device time to the leader's. -/
  | twinTimeAlign (resid : Fin 19)
  /-- TWIN_ALIGN (R321): The twins differ by more than 1 ns for 10 ms; TWIN_ALIGN is set. -/
  | twinAlign (t : Twin) (diff : W32)
  /-- STEP (R322): TIME_CTRL.STEP steps device time to SET at the named cycle, refused while scheduled work runs. -/
  | step (tg : Target)
  /-- TIME_SNAP (R337): TIME_SNAP.SNAP captures device time and TB counter together. -/
  | timeSnap (t : Twin)
  /-- PTP_SYNC_RECEIVE (R324): A Sync from the selected master runs the servo: step, slew or lock. -/
  | ptpSyncReceive (lan : Fin 2) (m : PtpMsg)
  /-- PTP_ANNOUNCE_RECEIVE (R325): An Announce updates the master selection, UTC offset and GM_CHANGE. -/
  | ptpAnnounceReceive (lan : Fin 2) (m : Announce)
  /-- PDELAY_REQ_SEND (R323): Every second each serving port sends Pdelay_Req. -/
  | pdelayReqSend (p : Fin 4)
  /-- PDELAY_REQ_RECEIVE (R329): A Pdelay_Req is answered in one step with the turnaround in the correction field. -/
  | pdelayReqReceive (p : Fin 4) (req : PdelayReq) (turn : Nat)
  /-- PDELAY_RESP_RECEIVE (R323): A Pdelay response updates the port's mean link delay. -/
  | pdelayRespReceive (p : Fin 4) (m : PtpMsg)
  /-- PDELAY_TIMEOUT (R329): No response for 3 intervals; the last delay is kept and PDELAY_TO counts. -/
  | pdelayTimeout (p : Fin 4)
  /-- PTP_HOLDOVER (R326): No Sync for 3 s or announce timeout; device time enters HOLDOVER. -/
  | ptpHoldover (announce : Bool) (lan : Fin 2)
  /-- PTP_FREERUN (R326): After HOLD_LIM in HOLDOVER the clock enters FREERUN. -/
  | ptpFreerun
  /-- PTP_MASTER_SEND (R327): As grandmaster the SK192 sends Sync and Announce each second. -/
  | ptpMasterSend (p : Fin 4)
  /-- LEAP (R330): At the end of a UTC day with a leap flag the UTC offset changes. -/
  | leap
  /-- PPS_IN_EDGE (R331): A PPS_IN edge is stamped, advances PPS_SEC and drives the servo. -/
  | ppsInEdge (stamp : Int)
  /-- PPS_MISS (R331): No PPS_IN edge for 1.5 s; counted and HOLDOVER starts. -/
  | ppsMiss
  /-- PPS_OUT_PULSE (R332): At each second boundary plus OUT_OFS a pulse of WIDTH is driven. -/
  | ppsOutPulse (start : Bool)
  /-- ARP_REQUEST (R334): An ARP request for the SK192's address is answered. -/
  | arpRequest (target sender : W32) (mac : BitVec 48)
  /-- ICMP_ECHO (R334): An ICMP echo request is answered within 10 per second. -/
  | icmpEcho (src : W32) (payload : List Byte)
  /-- ARP_ENTRY_EXPIRE (R334): An ARP entry older than 60 s is dropped. -/
  | arpEntryExpire (ip : W32)
  /-- CAN_FRAME_RECEIVE (R343): A received CAN frame is stored in the high-priority buffer or a receive object, or dropped. -/
  | canFrameReceive (b : Fin 2) (f : CanFrame) (stamp : BitVec 40)
  /-- CAN_DRIVE_SWITCH (R339): A new interlock holder's controller switches to driving at the next bus idle. -/
  | canDriveSwitch (b : Fin 2)
  /-- TXREQ (R348): CMD.TXREQ makes a transmit object PENDING. -/
  | txreq (tg : Target) (b : Fin 2) (m : Fin 128)
  /-- CAN_ARBITRATION (R348): At an arbitration opportunity the winning pending frame is offered and becomes ACTIVE. -/
  | canArbitration (b : Fin 2)
  /-- TX_DONE (R348): A frame reaches end of frame; TRANSMITTED, TX_OK and TX_DONE. -/
  | txDone (b : Fin 2) (stamp : BitVec 40)
  /-- CAN_ATTEMPT_ERROR (R352): An attempt ends in error; counters move, the frame is retried and NO_ACK may be raised. -/
  | canAttemptError (b : Fin 2) (code : Fin 7) (dataPhase : Bool) (dom : DomBits) (arbStuff : Bool)
  /-- CANCEL (R349): CMD.CANCEL cancels a PENDING object or marks an ACTIVE one for no retry. -/
  | cancel (tg : Target) (b : Fin 2) (m : Fin 128)
  /-- CAN_ATTEMPT_REPORT (R350): The leader reports an attempt start or outcome and the follower mirrors it. -/
  | canAttemptReport (b : Fin 2)
  /-- BUS_OFF (R353): The bus enters bus-off and stops transmitting. -/
  | busOff (b : Fin 2)
  /-- RECOVER (R353): CAN_Bb_CTRL.RECOVER starts bus-off recovery. -/
  | recover (tg : Target) (b : Fin 2)
  /-- RECOVERED (R353): 128 sequences of 11 recessive bits complete; counters reset and transmission resumes. -/
  | recovered (b : Fin 2)
  /-- CAN_ENABLE (R354): CAN_Bb_CTRL.EN written 1 starts integration, or 0 disables the bus and its pending objects. -/
  | canEnable (tg : Target) (b : Fin 2) (v : Bool)
  /-- CAN_CTL_READ (R345): A read of an object's CTL word locks the object. -/
  | canCtlRead (t : Twin) (b : Fin 2) (m : Fin 129)
  /-- CAN_LAST_WORD_READ (R345): A read of an object's last word releases the lock and moves in a held frame. -/
  | canLastWordRead (t : Twin) (b : Fin 2) (m : Fin 129)
  /-- LOCK_TIMEOUT (R345): A lock not released within LOCK_T is released and LOCK_TIMEOUT set. -/
  | lockTimeout (t : Twin) (b : Fin 2) (m : Fin 129)
  /-- REFERENCE_DUE (R355): At t_k the time-master reference message becomes pending, replacing a late one. -/
  | referenceDue (b : Fin 2)
  /-- ISOTP_RECEIVE (R356): An ISO 15765-2 frame is reassembled into an ECP packet, with flow control. -/
  | isotpReceive (b : Fin 2) (h : Fin 4) (data : List Byte)
  /-- ISOTP_TIMEOUT (R356): N_Bs or N_Cr expires; the transfer is aborted and ISOTP_ERR counts. -/
  | isotpTimeout (b : Fin 2) (h : Fin 4) (sender : Bool)
  /-- ECP_CAN_ENABLE (R357): CAN_Bb_ECPh.EN sets up the context's two internal objects. -/
  | ecpCanEnable (tg : Target) (b : Fin 2) (h : Fin 4) (v : Bool)
  /-- SAFETY_SCAN (R362): Every 0.5 ms each safety-monitor domain evaluates its functions and demands and commands its outputs. -/
  | safetyScan (t : Twin)
  /-- SIN_FILTER_CHANGE (R363): A safety channel level stable for FILT × 0.5 ms is taken. -/
  | sinFilterChange (t : Twin) (n : Fin 8) (high : Bool)
  /-- DISCREPANCY_FAULT (R364): Channels mixed for DISC × 10 ms; the function enters FAULT. -/
  | discrepancyFault (t : Twin) (k : Fin 4)
  /-- SAFETY_STATE_READ (R362): Every 1 ms each twin reads its side's state and passes pulse block and safe array block on. -/
  | safetyStateRead (t : Twin)
  /-- ACK (R365): SAF_CTRL.ACK moves a READY function to HEALTHY. -/
  | ack (tg : Target) (m : BitVec 4)
  /-- DEMAND_AGE (R366): The daily check finds a function without full demand for DEMAND_AGE days. -/
  | demandAge (t : Twin) (k : Fin 4)
  /-- INTERNAL_DEMAND (R367): A twin writes an internal demand into its side, latched for the next scan. -/
  | internalDemand (t : Twin) (k : Fin 8)
  /-- ACK_INT (R368): SAF_CTRL.ACK_INT clears internal latches whose cause has gone. -/
  | ackInt (tg : Target)
  /-- SOUT_OVERCURRENT (R373): A SOUT channel over its current limit turns off and records OVERCURRENT. -/
  | soutOvercurrent (t : Twin) (p : Fin 2)
  /-- SOUT_OFF_PULSE (R374): Every TP × 100 ms an on channel is pulsed off and its readback sampled. -/
  | soutOffPulse (t : Twin) (p : Fin 2) (high : Bool)
  /-- SOUT_READBACK_FAULT (R375): Readback wrong for 1 ms or 10 ms; the pair latches off with OUT_FAULT. -/
  | soutReadbackFault (t : Twin) (p : Fin 2) (high : Bool)
  /-- ACK_OUT (R375): SAF_CTRL.ACK_OUT clears a pair fault once both channels read low 100 ms. -/
  | ackOut (tg : Target) (low : BitVec 2)
  /-- CROSS_CHECK (R376): Every 1 ms the twins exchange and compare side state vectors. -/
  | crossCheck (t : Twin)
  /-- SM_DIFF (R376): Vectors differ for 10 ms or PCRC differs; SM_DIFF is raised. -/
  | smDiff (t : Twin)
  /-- SOLO (R376): XCHK_OFF has stood for SOLO_T hours; SOLO is raised. -/
  | solo (t : Twin)
  /-- PARAM_CHECK (R377): Every 10 ms each side checks its parameter CRC and raises PARAM on difference. -/
  | paramCheck (t : Twin)
  /-- OSC_CHECK (R377): Every 1 ms the SM oscillator is measured; three out of range raise OSC. -/
  | oscCheck (t : Twin) (khz : BitVec 16)
  /-- SAFETY_PARAM_WRITE (R380): A safety parameter write is held pending with a nonce and confirm code. -/
  | safetyParamWrite (tg : Target) (h : Fin 4) (addr v : W32)
  /-- SAFETY_CONFIRM (R380): SAF_CONFIRM with the right code develops the pending write, or is refused. -/
  | safetyConfirm (h : Fin 4) (code : BitVec 16)
  /-- CONF_TIMEOUT (R380): A pending safety write unconfirmed for 10 s is discarded. -/
  | confTimeout (t : Twin)
  /-- SAFETY_PARAM_LOAD (R383): A booting twin loads its side's safety parameters from its board image, locking if flagged. -/
  | safetyParamLoad (t : Twin)
  /-- ECP_PACKET_RECEIVE (R391): An ECP packet arrives and is checked for length, context, tag, counter and version. -/
  | ecpPacketReceive (via : Transport) (bytes : List Byte) (ip : IpPair) (port : PortPair)
  /-- PUT (R388): A host serial PUT delivers one packet, checked for CRC and length. -/
  | put (len : BitVec 16) (bytes : List Byte) (crc : BitVec 16) (fin : SerEnd)
  /-- GET (R389): A host serial GET returns the oldest queued reply, removed only on a complete read. -/
  | get (complete : Bool)
  /-- STAT (R388): A host serial STAT returns the queue count and PUT errors. -/
  | stat
  /-- COMMAND_EXECUTE (R404): The leader's processor serves a context's next command in turn. -/
  | commandExecute (load : Fin 101)
  /-- LOW_WAIT_LIMIT (R405): A LOW command has waited 1 s and executes. -/
  | lowWaitLimit (h : Fin 4)
  /-- NOP (R397): NOP polls without effect. -/
  | nop (h : Fin 4)
  /-- IDENTIFY (R413): IDENTIFY returns member, revisions, versions, MAC and serial. -/
  | identify (h : Fin 4)
  /-- STATUS (R413): STATUS returns twin states, claims and key status words. -/
  | status (h : Fin 4)
  /-- KEY_ROLL (R399): KEY_ROLL derives and stores a new context key in both flashes. -/
  | keyRoll (h : Fin 4) (salt : BitVec 128) (flashOk : Bool)
  /-- KEY_ROLL_GRACE_END (R399): 10 s after a roll, old-key retransmissions of KEY_ROLL are no longer answered. -/
  | keyRollGraceEnd (h : Fin 4)
  /-- CREDITS (R413): CREDITS returns the context's credits, queue and counter. -/
  | credits (h : Fin 4)
  /-- READ (R408): READ returns 1 to 256 consecutive words of one twin. -/
  | read (h : Fin 4) (target : Byte) (count : BitVec 16) (addr : W32)
  /-- WRITE (R409): WRITE submits a change of consecutive words for a named cycle. -/
  | write (h : Fin 4) (target : Byte) (cycle : W32) (asap waitDev : Bool) (addr : W32) (values : List W32)
  /-- MODIFY (R409): MODIFY submits a masked change of one word. -/
  | modify (h : Fin 4) (target : Byte) (cycle : W32) (asap waitDev : Bool) (addr mask value : W32)
  /-- CHANGE_SET (R409): CHANGE_SET submits up to 64 masked entries as one change. -/
  | changeSet (h : Fin 4) (target : Byte) (cycle : W32) (asap waitDev : Bool) (entries : List Entry)
  /-- CANCEL_CHANGE (R411): CANCEL_CHANGE removes a pending change before t_n − LEAD. -/
  | cancelChange (h : Fin 4) (id : BitVec 16)
  /-- LIST_CHANGES (R413): LIST_CHANGES returns the pending changes. -/
  | listChanges (h : Fin 4)
  /-- CHANGE_AGREED (R412): The follower acknowledges a both-agreed change. -/
  | changeAgreed (id : BitVec 16)
  /-- CHANGE_DEVELOP (R410): At t_n a change's refusals are checked again and its entries develop in order. -/
  | changeDevelop (id : BitVec 16)
  /-- TAKE (R401): TAKE acquires ownership groups, by force from lower ranks. -/
  | take (h : Fin 4) (groups force : Byte)
  /-- RELEASE (R401): RELEASE frees the named groups. -/
  | release (h : Fin 4) (groups : Byte)
  /-- OWNERS (R413): OWNERS returns owners and lease remaining per group. -/
  | owners (h : Fin 4)
  /-- LEASE_LAPSE (R401): No packet accepted for LEASE seconds; the context's groups lapse and pending changes cancel. -/
  | leaseLapse (h : Fin 4)
  /-- FLASH_OPEN (R414): FLASH_OPEN opens a staging session under Sluice leave. -/
  | flashOpen (h : Fin 4) (twin type : Byte) (length : W32)
  /-- FLASH_WRITE (R414): FLASH_WRITE writes data into the staging slot. -/
  | flashWrite (h : Fin 4) (session : BitVec 16) (offset : W32) (data : List Byte)
  /-- FLASH_CLOSE (R414): FLASH_CLOSE runs the image checks once every byte is written. -/
  | flashClose (h : Fin 4) (session : BitVec 16)
  /-- FLASH_ABORT (R414): FLASH_ABORT abandons the session. -/
  | flashAbort (h : Fin 4) (session : BitVec 16)
  /-- FLASH_SESSION_TIMEOUT (R414): A session without FLASH_WRITE for 60 s aborts itself. -/
  | flashSessionTimeout (t : Twin)
  /-- UPDATE (R414): UPDATE starts the live update on the follower from verified staging images. -/
  | update (h : Fin 4)
  /-- REPORT (R413): REPORT returns the Contact sheet summary and cell records. -/
  | report (h : Fin 4) (twin first count : Byte)
  /-- EVENTS (R413): EVENTS returns which blocks hold set events per attention bit. -/
  | events (h : Fin 4)
  /-- STREAM_READ (R421): STREAM_READ returns up to MAXWORDS words of a queue's drain bank. -/
  | streamRead (h : Fin 4) (twin queue : Byte) (maxWords : BitVec 16)
  /-- STREAM_FLUSH (R417): STREAM_FLUSH closes a non-empty fill bank. -/
  | streamFlush (h : Fin 4) (twin queue : Byte)
  /-- NEG_DUMP (R414): NEG_DUMP copies a FROZEN Exposure into Q4. -/
  | negDump (h : Fin 4) (twin exposure : Byte)
  /-- STREAM_DATA (R421): The UDP packetiser sends drain-bank words as a STREAM_DATA packet. -/
  | streamData (t : Twin) (q : Fin 6)
  /-- QUEUE_UNIT_WRITE (R417): A producer writes a unit, closing and exchanging banks or dropping the unit. -/
  | queueUnitWrite (t : Twin) (q : Fin 6) (unit : StreamUnit)
  /-- BANK_EXCHANGE (R417): A closed fill bank and an empty drain bank exchange roles. -/
  | bankExchange (t : Twin) (q : Fin 6)
  /-- FLUSHED (R420): Drain empty and fill non-empty for FLUSH_T × 100 µs; the fill bank closes. -/
  | flushed (t : Twin) (q : Fin 6)
  /-- QUEUE_DISABLE (R423): STQ EN = 0 discards unread words and the queue goes idle. -/
  | queueDisable (t : Twin) (q : Fin 6)
  /-- VIN_RISE (R429): VIN rises through 4.2 V and the power-up sequence runs. -/
  | vinRise
  /-- RAILS_GOOD (R429): All rails good; PGOOD released and crystals start. -/
  | railsGood
  /-- XTAL_FAIL (R429): A crystal not started within 5 ms; that twin stays in RESET. -/
  | xtalFail (t : Twin)
  /-- PFAIL (R432): VIN below THR for 10 µs; orderly power-down with wear save. -/
  | pfail
  /-- BROWN_OUT (R431): VIN below 4.0 V for 2 µs resets the whole SK192. -/
  | brownOut
  /-- CORE_RAIL_FAULT (R431): VCORE_x outside 0.60 V to 0.90 V for 5 µs resets twin x. -/
  | coreRailFault (t : Twin)
  /-- CORE_RAIL_WINDOW (R431): VCORE_x outside its window for 20 µs withdraws twin x. -/
  | coreRailWindow (t : Twin)
  /-- VIO_WINDOW (R431): VIO outside its window for 20 µs withdraws both twins. -/
  | vioWindow
  /-- RESET_N (R433): RESET_N low for at least 20 µs resets the whole SK192. -/
  | resetN
  /-- RESET_TWIN (R433): SYS_CTRL.RESET_TWIN resets a WITHDRAWN twin. -/
  | resetTwin (t : Twin)
  /-- MP_WDT (R433): The management watchdog expires after 100 ms and restarts the processor. -/
  | mpWdt (t : Twin)
  /-- TWIN_RESET_RELEASE (R451): A twin's reset is released; it samples its straps and boots. -/
  | twinResetRelease (t : Twin) (cfg : BitVec 4)
  /-- BOOT_COMPLETE (R451): Images verified and boot self-test passed; the twin leaves BOOT or sets BOOT_FAIL. -/
  | bootComplete (t : Twin) (selfTest : Bool) (ms : BitVec 16)
  /-- VCORE_LOOP (R436): Every 10 µs the slack is measured and VCORE raised or lowered. -/
  | vcoreLoop (t : Twin) (slack vin tdie : BitVec 16)
  /-- SLACK_ERROR (R437): Slack below 0 ps for 1 ms at 0.85 V; the twin withdraws with cause 2. -/
  | slackError (t : Twin)
  /-- PLL_LOCK_LOSS (R442): A PLL loses lock with the consequence of its row. -/
  | pllLockLoss (t : Twin) (p : Fin 6)
  /-- PLL_RELOCK (R442): A PLL relocks and its domain returns. -/
  | pllRelock (t : Twin) (p : Fin 5)
  /-- RAMP_START (R441): CLK_RAMP_CTRL.START runs the frequency profile under Sluice leave. -/
  | rampStart (t : Twin)
  /-- RAMP_ABORT (R441): CLK_RAMP_CTRL.ABORT stops the ramp at the current frequency. -/
  | rampAbort (t : Twin) (npts : BitVec 4)
  /-- RAMP_END (R441): The last profile point's hold ends and the leave is returned. -/
  | rampEnd (t : Twin)
  /-- SLUICE_GRANT (R444): The queue head fits the headroom and is granted leave. -/
  | sluiceGrant (t : Twin)
  /-- SLUICE_RELEASE (R444): An operation ends and returns its cost. -/
  | sluiceRelease (t : Twin) (op : Fin 8)
  /-- LEAVE_WAIT (R446): No grant within 1 ms; the command replies LEAVE_WAIT. -/
  | leaveWait (t : Twin) (op : Fin 8)
  /-- SLU_TIMEOUT (R446): A host request waiting longer than TIMEOUT is removed. -/
  | sluTimeout (t : Twin) (op : Fin 8)
  /-- RATCHET (R450): SYS_CTRL.RATCHET advances version counters to the active versions. -/
  | ratchet (types : BitVec 4)
  /-- KEY_REVOKE (R449): A write to SYS_KEYREV revokes a key slot irreversibly. -/
  | keyRevoke (t : Twin) (owner beylos : BitVec 4)
  /-- LIFECYCLE_LOCK (R453): SYS_LIFE written with 0x4C4F_434B locks the lifecycle. -/
  | lifecycleLock (v : W32)
  /-- SAFELIGHT_ENTER (R454): SYS_CTRL.SAFELIGHT = 1 enters Safelight, holding every output off. -/
  | safelightEnter
  /-- SAFELIGHT_EXIT (R455): SYS_CTRL.SAFELIGHT = 0 ends Safelight at the named cycle. -/
  | safelightExit
  /-- OVER_TEMPERATURE (R475): The power-edge die above 165 °C turns outputs off and stops the regulators. -/
  | overTemperature
  /-- OVER_TEMP_RESTART (R475): The die cools below 140 °C and the SK192 restarts as after brown-out. -/
  | overTempRestart
  /-- RING_RX_SYNC_LOST (R128): A twin's cell receive lane loses sync while its ring is READY or RUN; TRB_EVENT.LOS and DOWN are set and the ring's frames are no longer awaited. -/
  | ringRxSyncLost (t : Twin) (c : Fin 12)
  /-- PORT_LINK_CHANGE (R306): A network port gains or loses link, or completes auto-negotiation; LINK_DOWN, SPEED, AN_DONE and the LINKLOSS_T timer follow. -/
  | portLinkChange (p : Fin 4) (carrier sync an half : Bool) (mbps : Fin 3) (codes : BitVec 16)
  /-- VIN_RETURN (R432): VIN returns above THR + 0.5 V after a power fail and before a brown-out, and the SK192 resumes. -/
  | vinReturn
  /-- FORCED_REFRESH_END (R255): During a forced refresh, BSTg rises above threshold plus hysteresis after at least 2 µs; channel B turns off and A follows its source from its next on-edge. -/
  | forcedRefreshEnd (g : Fin 8)
  /-- SOUT_OFF_PULSE_END (R374): The OFFP × 20 µs off-pulse of a SOUT channel ends; the readback sample is judged and the channel turns on again unless a demand holds it off. -/
  | soutOffPulseEnd (t : Twin) (p : Fin 2)
  /-- CELL_BYPASS_CLOSED (R117): The cell's bypass feedback confirms closure and the cell sets BYPASS_CLOSED. -/
  | cellBypassClosed (c : Fin 12) (p : Fin 16)
  /-- CELL_OWN_FAULT (R97): A cell detects a fault of its own (DESAT, UVLO, ISO_FAULT, OVERTEMP or another it cannot ride through), latches it and sets FAULT. -/
  | cellOwnFault (c : Fin 12) (p : Fin 16) (kind : Fin 5)
  /-- CELL_POWER_UP (R127): A cell gains power; its ports leave OFF for TRAIN and it keeps its switches off and its bypass closed until its first accepted CYCLE copy. -/
  | cellPowerUp (c : Fin 12) (p : Fin 16) (w : CellPower)
  /-- CELL_POWER_LOSS (R127): A cell loses power; its ports enter OFF with transmitters at common mode. -/
  | cellPowerLoss (c : Fin 12) (p : Fin 16)
  /-- DEBUG_RESET (R433): A JTAG reset request in lifecycle OPEN resets twin x, recorded as cause 6. -/
  | debugReset (t : Twin)
  /-- DEBUG_KEY_INSTALL (R449): In lifecycle OPEN, context keys or owner key hashes are installed through the debug port. -/
  | debugKeyInstall (hash : Bool) (slot : Fin 4) (value : BitVec 384)
  /-- UNCORRECTABLE_ECC (R144): An uncorrectable ECC error occurs in graph, node-data, cell-table or management memory, and the twin withdraws with cause MEMORY. -/
  | uncorrectableEcc (t : Twin) (region : Fin 4)
  /-- CAN_RX_ERROR (R352): A protocol error or protocol exception is detected while the controller receives; the receive error counter, error state and PEX move. -/
  | canRxError (t : Twin) (b : Fin 2) (pex : Bool) (code : Fin 7) (dataPhase : Bool) (dom : DomBits)
  /-- CAN_INTEGRATED (R354): Bus integration completes after EN = 1 and the bus enters ERROR_ACTIVE. -/
  | canIntegrated (b : Fin 2)
  /-- FOLLOW_UP_RECEIVE (R323): A Follow_Up or Pdelay_Resp_Follow_Up of a two-step neighbour arrives and completes the time stamps for the servo or the link delay. -/
  | followUpReceive (pdelay : Bool) (p : Fin 4) (m : PtpMsg)
deriving DecidableEq, Repr

end Sys2Proof
end

