-- ==== Sys2Proof/Decode.lean ====
section
/-! DEFINITION. The command that a word of the opcode table spells. No row of spec/opcode_table.json gives bits to a
command, so no word spells one. -/

namespace Sys2Proof

/-- The command spelled by a word of the table: none, since the table gives its rows no bits.
DESIGN CHOICE, safe: log entry 4. -/
def decodeTableWord (_nbits _w : Nat) : Option Instr := none

end Sys2Proof
end

