-- ==== Sys2Proof/Machine/GraphTypes.lean ====
section
/-! DEFINITION. A control-graph image as plain data: what the sections of R180 hold, in the terms of R140, R173, R179
and R183. -/

namespace Sys2Proof

/-- One block (section 2 and 3, R183): type code, rate group, input nodes in order with the loop mark of R172, first
output node, number of outputs, initial state words, the initial banks, and the program of EXPR. -/
structure GBlock where
  type : Nat
  rg : Nat
  ins : List (Nat × Bool)
  out0 : Nat
  nout : Nat
  st : List W32
  dev : List W32
  lat : List W32
  prog : List (BitVec 16)
deriving DecidableEq, Repr, Inhabited

/-- One node (section 4): kind 0 block output, 1 agreed input, 2 host input, 3 system input; `sys` names the system
input (see `sysInput`), `range` is an input's range. -/
structure GNode where
  kind : Nat
  rg : Nat
  init : W32
  sys : Nat
  range : W32
deriving DecidableEq, Repr, Inhabited

/-- One rate group (section 1, R173). -/
structure RgRec where
  src : Nat
  pair : Nat
  cmp : Nat
  prio : Nat
  div : Nat
  deadline : W32
  ph : Nat
deriving DecidableEq, Repr, Inhabited

/-- One record of the agreement table (R140). -/
structure AgrRec where
  node : Nat
  cls : Nat
  third : Nat
  srcA : Nat
  srcB : Nat
  thirdRef : Nat
  scale : W32
  tolAbs : W32
  tolRel : W32
  tol3 : W32
  range : W32
deriving DecidableEq, Repr, Inhabited

/-- One node-to-hardware binding of the output map (section 11): kind 0 GPIO output, 1 PWM field, 2 GOOSE item,
3 sampled-value channel, 4 a role of a drive channel (R206); the unit and field it drives and the node. -/
structure BindRec where
  kind : Nat
  unit : Nat
  field : Nat
  node : Nat
deriving DecidableEq, Repr, Inhabited

/-- A graph image. `stated` gives, for each engine count from ENG_MIN to 8, T_RG of each group in units of 10 ns, and
`place` the engine of each block; `outs` the output nodes of each group in digest order; `migrate` the pairs (old block,
new block) of the migration table (R160); `tables` the lookup tables of section 6; `presets` the probe lists of
section 10. -/
structure GraphImg where
  version : W32
  buildId : W32
  hash : W32
  inputHash : List Byte
  engMin : Nat
  rgs : List RgRec
  blocks : List GBlock
  nodes : List GNode
  stated : List (List Nat)
  place : List (List Nat)
  agree : List AgrRec
  outs : List (List Nat)
  binds : List BindRec
  migrate : List (Nat × Nat)
  tables : List (List W32)
  presets : List (List W32)
deriving DecidableEq, Repr, Inhabited

/-- The state of a mode selector beside its BLK_STATUS fields (R191): the fade run j and a request held in FADE. -/
structure ModeSel where
  fade : Nat
  held : Option Nat
deriving DecidableEq, Repr

end Sys2Proof
end

