-- ==== Sys2Proof/Config.lean ====
section
/-! DEFINITION. What the spec leaves open: constants without a body, of which nothing can be proved. Each is named in
an assumption log entry. -/

namespace Sys2Proof.Config

/-- A fresh value that the spec does not state, as a 32-bit word; applied to the state's counter of free values.
DESIGN CHOICE, safe: log entry 8. -/
opaque freeWord : Nat → W32

/-- What a twin measures for its Contact sheet at a snapshot that a register write asks for (R162); applied to the
state's counter of free values. DESIGN CHOICE, safe: log entry 253. -/
opaque healthMeas : Nat → HealthMeas

/-- The bits of sin x inside its range (R169 gives the accuracy, not the algorithm). DESIGN CHOICE, safe: log entry
15. -/
opaque sinBits : W32 → W32

/-- The bits of cos x inside its range (R169). DESIGN CHOICE, safe: log entry 15. -/
opaque cosBits : W32 → W32

/-- The bits of atan2(y, x) away from the origin (R169). DESIGN CHOICE, safe: log entry 15. -/
opaque atan2Bits : W32 → W32 → W32

/-- The integer a publisher sends for node ÷ SCALE where the quotient is no number (R316, R319). DESIGN CHOICE, safe:
log entry 158. -/
opaque quotient : W32 → W32 → W32

/-- exp x in binary32 (R60, R62): the spec gives no algorithm or accuracy. DESIGN CHOICE, safe: log entry 16. -/
opaque expBits : W32 → W32

/-- x to the power y in binary32 (R62). DESIGN CHOICE, safe: log entry 16. -/
opaque powBits : W32 → W32 → W32

/-- The integer that a rounding to an integer gives for a NaN (R53, R55, R62, R191): the spec states no result.
DESIGN CHOICE, safe: log entry 239. -/
opaque nanInt : W32 → Int

/-- The configuration generation that the SK192 gives a chain's CONFIG records (R98): the spec names no value.
DESIGN CHOICE, safe: log entry 18. -/
opaque cfgGen : Nat → W32

/-- What a board image states of one cell (R98): field 0 ASYM_U, 1 ASYM_D, 2 LDEF_A, 3 LDEF_B, 4 BUILDER. DESIGN
CHOICE, safe: log entry 18. -/
opaque boardCell : List Byte → Nat → Nat → W32

/-- The rate correction that a cell's discipline takes, from the last one, an offset and the time since the offset
before it (R107): the spec leaves the law to the cell builder. DESIGN CHOICE, safe: log entry 244. -/
opaque cellRate : Int → Int → Int → Int

/-- The blocks, nodes, tables and schedules that the sections of a graph image hold; the spec gives the section types
(R180) but not their byte layout. DESIGN CHOICE, safe: log entry 17. -/
opaque graphOf : List Byte → GraphImg

/-- The sections of a board, link-table or firmware image, as (offset, length, CRC-32C): R448 has their CRCs checked,
and the spec gives no place for them. DESIGN CHOICE, safe: log entry 255. -/
opaque sectionsOf : List Byte → List (Nat × Nat × W32)

/-- The check, 1 to 8, whose code a board image with a reserved DEEMPH is refused with (R87): the spec names none.
DESIGN CHOICE, safe: log entry 256. -/
opaque boardRefusal : List Byte → Fin 8

/-- The register values that a board image or a link-table image carries (R448), whose byte layout the spec does not
give. DESIGN CHOICE, safe: log entry 17. -/
opaque boardOf : List Byte → List (Nat × W32)

/-- The bytes over which a side forms SAF_PCRC, from its safety parameters (R377): the spec gives the CRC, not the
layout of the bytes. DESIGN CHOICE, safe: log entry 121. -/
opaque paramBytes : List (Nat × W32) → List Byte

/-- The bytes of a sampled-value message with the given content, whose encoding the standards that R313 names give
and the spec does not spell out. DESIGN CHOICE, safe: log entry 267. -/
opaque svBytes : List W32 → List Byte

/-- The serial number that IDENTIFY returns (R413): the spec names no register for it.
DESIGN CHOICE, safe: log entry 19. -/
opaque serialNumber : BitVec 64

/-- The hash of a Beylos key slot, written into the one-time memory of both dies at manufacture (R449).
DESIGN CHOICE, safe: log entry 289. -/
opaque beylosHash : Nat → List Byte

/-- Whether VIN is below 2.5 V, an input that no command carries while VIN is below the power-on threshold (R430).
DESIGN CHOICE, safe: log entry 290. -/
opaque vinLow : Nat → Bool

end Sys2Proof.Config
end

