-- ==== Sys2Proof/Machine/Rc.lean ====
section
/-! DEFINITION. The result codes of R415 and R457, by the names the spec gives them. -/

namespace Sys2Proof.Rc

def OK : Nat := 0x00
def OPCODE_INVALID : Nat := 0x01
def LENGTH_INVALID : Nat := 0x02
def VERSION_INVALID : Nat := 0x03
def QUEUE_FULL : Nat := 0x04
def NOT_OWNER : Nat := 0x05
def OWNED : Nat := 0x06
def ADDR_INVALID : Nat := 0x07
def LOCKED : Nat := 0x08
def AGREED_ONLY : Nat := 0x09
def TOO_LATE : Nat := 0x0a
def CHANGE_FULL : Nat := 0x0b
def TWIN_ABSENT : Nat := 0x0c
def NO_CHANGE : Nat := 0x0d
def FLASH_STATE : Nat := 0x0e
def FLASH_FAIL : Nat := 0x0f
def CONFIRM_NEEDED : Nat := 0x10
def CONFIRM_MISMATCH : Nat := 0x11
def NOTHING_PENDING : Nat := 0x12
def PARAM_MISMATCH : Nat := 0x13
def PARAM_ORDER : Nat := 0x14
def SOURCE_ACTIVE : Nat := 0x15
def NOT_FIT : Nat := 0x16
def NOT_WITHDRAWN : Nat := 0x17
def UPDATE_INCOMPATIBLE : Nat := 0x18
def LEAVE_WAIT : Nat := 0x19
def LEAVE_TIMEOUT : Nat := 0x1a
def CANCELLED : Nat := 0x1b
def QUEUE_OFF : Nat := 0x1c
def TOPO_INVALID : Nat := 0x20
def MAP_INVALID : Nat := 0x21
def ARRAY_ACTIVE : Nat := 0x22
def CYCLE_TOO_SHORT : Nat := 0x23
def NOT_SPARE : Nat := 0x24
def NOT_BYPASSED : Nat := 0x25
def GRAPH_ACTIVE : Nat := 0x38
def COEF_INVALID : Nat := 0x39
def SWAP_PENDING : Nat := 0x3a
def NODE_RO : Nat := 0x3b
def NEG_RATE : Nat := 0x40
def NEG_DEPTH : Nat := 0x41
def NEG_ARMED : Nat := 0x42
def NEG_NOT_ARMED : Nat := 0x43
def NEG_BUSY : Nat := 0x44
def DRV_BINDING : Nat := 0x50
def PAIR_CONFLICT : Nat := 0x51
def DRIVE_ACTIVE : Nat := 0x52
def ARRAY_FEEDING : Nat := 0x53
def DT_UNLOCKED : Nat := 0x54
def PERIOD_INVALID : Nat := 0x55
def START_PAST : Nat := 0x56
def FORCE_INVALID : Nat := 0x57
def GD_ACTIVE : Nat := 0x58
def PWM_ACTIVE : Nat := 0x59
def INPUT_INVALID : Nat := 0x60
def ADC_ACTIVE : Nat := 0x61
def TRIGGER_INVALID : Nat := 0x62
def BIND_MISMATCH : Nat := 0x63
def INTERLEAVE_CONFLICT : Nat := 0x64
def CAL_MISSING : Nat := 0x65
def CAL_BUSY : Nat := 0x66
def CAL_RANGE : Nat := 0x67
def SKEW_RANGE : Nat := 0x68
def AVG_REFUSED : Nat := 0x69
def NET_ACTIVE : Nat := 0x70
def TIME_ACTIVE : Nat := 0x71
def TIME_SERVO : Nat := 0x72
def CAN_ACTIVE : Nat := 0x73
def OBJ_BUSY : Nat := 0x74
def OBJ_RESERVED : Nat := 0x75
def NOT_BUS_OFF : Nat := 0x76
def CAN_DISABLED : Nat := 0x77
def SLUICE_TOO_LARGE : Nat := 0xc0
def SAFELIGHT_ACTIVE : Nat := 0xc1
def SAFELIGHT_REFUSED : Nat := 0xc2
def LIFECYCLE_LOCKED : Nat := 0xc3
def RAMP_INVALID : Nat := 0xc4
def COUNTER_EXHAUSTED : Nat := 0xc5
def NO_STAGING : Nat := 0xc6
def NOT_SAFELIGHT : Nat := 0xc7
/-- The image checks 1 to 8 of R181 report 0x30 to 0x37 in their order. -/
def IMAGE (check : Nat) : Nat := 0x2F + check

end Sys2Proof.Rc
end

