-- ==== Sys2Proof/Machine/RegMap.lean ====
section
/-! DEFINITION. The register map of each twin (R14 and the register descriptions of every chapter): one row per
register word or indexed family of words, with the fields, access codes (R11), reset values, stated ranges (R484) and
"idle only" marks (R483) of its register table. -/

namespace Sys2Proof

/-- The access codes of R11. -/
inductive Acc where
  | rw | ro | wo | w1c | rc | rwl
deriving DecidableEq, Repr

/-- One field of a register word: its bits, access, reset value, the range a write must lie in (R484) and whether
the register table marks it "idle only" (R483). -/
structure RegField where
  hi : Nat
  lo : Nat
  acc : Acc
  rst : Nat
  mn : Nat
  mx : Nat
  idle : Bool
deriving DecidableEq, Repr

/-- A field with the usual defaults: reset 0, no range beyond its width, not idle only. -/
def fld (hi lo : Nat) (acc : Acc) (rst : Nat := 0) (mn : Nat := 0) (mx : Nat := 4294967295)
    (idle : Bool := false) : RegField := ⟨hi, lo, acc, rst, mn, mx, idle⟩

/-- One row of the register map: the word's address with every index 0, the (stride, count) of each index, and the
fields; bits no field covers are reserved (R12). -/
structure RegRow where
  base : Nat
  dims : List (Nat × Nat)
  fields : List RegField
deriving DecidableEq, Repr

/-- Whether an offset is `Σ indexᵢ × strideᵢ` with every index below its count; strides are given largest first. -/
def offsetFits : List (Nat × Nat) → Nat → Bool
  | [], o => o == 0
  | (st, n) :: r, o => if o / st < n then offsetFits r (o % st) else false

/-- Whether address `a` is a word of the row. -/
def rowHas (r : RegRow) (a : Nat) : Bool :=
  if a < r.base then false else offsetFits r.dims (a - r.base)

/-- The word at reset from the fields' reset values. DESIGN CHOICE, unsafe: log entry 9. -/
def rowReset (r : RegRow) : W32 :=
  BitVec.ofNat 32 (r.fields.foldl (fun acc f => acc + f.rst * 2 ^ f.lo) 0)

/-- Rows 0 and on of the Sys block, one per register word or indexed family of words. -/
def rowsSys0 : List RegRow := [
  -- SYS_ID
  ⟨0x0, [], [fld 31 16 .ro (rst := 0xc0), fld 15 8 .ro, fld 7 0 .ro]⟩,
  -- SYS_CTRL
  ⟨0x4, [], [fld 5 2 .wo, fld 1 1 .wo, fld 0 0 .rw]⟩,
  -- SYS_STATUS
  ⟨0x8, [], [fld 31 28 .ro, fld 27 24 .ro, fld 23 20 .ro, fld 19 16 .ro, fld 2 2 .ro, fld 1 1 .ro, fld 0 0 .ro]⟩,
  -- SYS_EVENT
  ⟨0xc, [], [fld 2 2 .w1c, fld 1 1 .w1c, fld 0 0 .w1c (rst := 0x1)]⟩,
  -- SYS_VERCNT
  ⟨0x10, [(0x4, 4)], [fld 31 0 .ro]⟩,
  -- SYS_VERSION
  ⟨0x20, [(0x4, 4)], [fld 31 0 .ro]⟩,
  -- SYS_LIFE
  ⟨0x30, [], [fld 31 0 .wo]⟩,
  -- SYS_KEYREV
  ⟨0x34, [], [fld 7 4 .w1c, fld 3 0 .w1c]⟩,
  -- SYS_ADV_LEFT
  ⟨0x38, [], [fld 31 0 .ro]⟩,
  -- SYS_RESETS
  ⟨0x3c, [], [fld 31 0 .rc]⟩,
  -- SYS_BOOT_MS
  ⟨0x40, [], [fld 15 0 .ro]⟩,
  -- SYS_OVF
  ⟨0x44, [], [fld 0 0 .w1c]⟩ ]

/-- Every register row of the Sys block. -/
def rowsSys : List RegRow := rowsSys0

/-- Rows 0 and on of the ClkPwr block, one per register word or indexed family of words. -/
def rowsClkPwr0 : List RegRow := [
  -- CLK_STATUS
  ⟨0x10000, [], [fld 7 7 .ro, fld 6 6 .ro (rst := 0x1), fld 5 5 .ro, fld 4 0 .ro]⟩,
  -- CLK_EVENT
  ⟨0x10004, [], [fld 5 5 .w1c, fld 4 0 .w1c]⟩,
  -- CLK_CFG
  ⟨0x10008, [], [fld 1 1 .rw (idle := true), fld 0 0 .rw (idle := true)]⟩,
  -- CLK_LT_SPREAD
  ⟨0x1000c, [], [fld 15 8 .rw (rst := 0x1f) (mn := 30) (mx := 33), fld 3 0 .rw (mx := 10)]⟩,
  -- CLK_SYS
  ⟨0x10010, [], [fld 31 24 .rw (rst := 0x20) (mn := 20) (mx := 60), fld 23 20 .rw (rst := 0x4) (mn := 2) (mx := 8), fld 19 18 .rw (rst := 0x1) (mx := 2)]⟩,
  -- CLK_MP_FREQ
  ⟨0x10014, [], [fld 31 0 .ro]⟩,
  -- CLK_RAMP_CTRL
  ⟨0x10018, [], [fld 31 31 .wo, fld 30 30 .wo, fld 3 0 .rw (rst := 0x1) (mn := 1) (mx := 8)]⟩,
  -- CLK_RAMP
  ⟨0x10020, [(0x4, 8)], [fld 31 23 .rw (rst := 0x190) (mn := 100) (mx := 400), fld 22 16 .rw (rst := 0xa) (mn := 1) (mx := 100), fld 15 0 .rw]⟩,
  -- CLK_XING_UNSETTLED
  ⟨0x10040, [(0x8, 9)], [fld 31 0 .rc]⟩,
  -- CLK_XING_DROPPED_AT_RESET
  ⟨0x10044, [(0x8, 9)], [fld 31 0 .rc]⟩,
  -- CLK_XING_OVF
  ⟨0x10090, [], [fld 17 0 .w1c]⟩,
  -- PWR_STATUS
  ⟨0x10100, [], [fld 9 9 .ro, fld 8 8 .ro, fld 7 0 .ro]⟩,
  -- PWR_EVENT
  ⟨0x10104, [], [fld 3 3 .w1c, fld 2 2 .w1c, fld 1 1 .w1c, fld 0 0 .w1c]⟩,
  -- PWR_PFAIL
  ⟨0x10108, [], [fld 8 0 .rw (mn := 45) (mx := 270)]⟩,
  -- PWR_VCORE
  ⟨0x1010c, [], [fld 31 31 .rw, fld 25 16 .rw (rst := 0x320) (mn := 650) (mx := 850), fld 9 0 .ro (rst := 0x320)]⟩,
  -- PWR_SLACK
  ⟨0x10110, [], [fld 31 16 .rw (rst := 0xfa) (mn := 100) (mx := 1000), fld 15 0 .ro]⟩,
  -- PWR_MEAS
  ⟨0x10114, [], [fld 31 16 .ro, fld 15 0 .ro]⟩,
  -- PWR_SLU_CFG
  ⟨0x10120, [], [fld 31 16 .rw (rst := 0xbb8) (mn := 500) (mx := 6000), fld 15 0 .rw (rst := 0xa) (mn := 1) (mx := 600)]⟩,
  -- PWR_SLU_STATUS
  ⟨0x10124, [], [fld 31 16 .ro, fld 15 8 .ro, fld 7 0 .ro]⟩,
  -- PWR_SLU_LAST
  ⟨0x10128, [], [fld 15 12 .ro, fld 8 8 .ro, fld 7 0 .ro]⟩,
  -- PWR_SLU_COST
  ⟨0x10130, [(0x4, 8)], [fld 15 0 .ro]⟩,
  -- PWR_WAITS
  ⟨0x10150, [], [fld 31 0 .rc]⟩,
  -- PWR_TIMEOUTS
  ⟨0x10154, [], [fld 31 0 .rc]⟩,
  -- PWR_OVF
  ⟨0x10158, [], [fld 1 0 .w1c]⟩ ]

/-- Every register row of the ClkPwr block. -/
def rowsClkPwr : List RegRow := rowsClkPwr0

/-- Rows 0 and on of the Trb block, one per register word or indexed family of words. -/
def rowsTrb0 : List RegRow := [
  -- TRB_CFG
  ⟨0x100000, [(0x1000, 12)], [fld 25 16 .rw, fld 1 0 .rw (rst := 0x3) (idle := true)]⟩,
  -- TRB_EQ
  ⟨0x100004, [(0x1000, 12)], [fld 11 8 .ro, fld 5 4 .ro, fld 1 0 .ro]⟩,
  -- TRB_CTRL
  ⟨0x100008, [(0x1000, 12)], [fld 1 1 .wo, fld 0 0 .wo]⟩,
  -- TRB_STATE
  ⟨0x10000c, [(0x1000, 12)], [fld 31 24 .ro, fld 23 16 .ro, fld 15 12 .ro, fld 11 11 .ro, fld 10 10 .ro, fld 2 0 .ro]⟩,
  -- TRB_EVENT
  ⟨0x100010, [(0x1000, 12)], [fld 8 8 .w1c, fld 7 7 .w1c, fld 6 6 .w1c, fld 5 5 .w1c, fld 4 4 .w1c, fld 3 3 .w1c, fld 2 2 .w1c, fld 1 1 .w1c, fld 0 0 .w1c]⟩,
  -- TRB_TFIB
  ⟨0x100014, [(0x1000, 12)], [fld 31 0 .ro]⟩,
  -- TRB_LASTHOP
  ⟨0x100018, [(0x1000, 12)], [fld 31 0 .ro]⟩,
  -- TRB_CLOSURE
  ⟨0x10001c, [(0x1000, 12)], [fld 31 0 .ro]⟩,
  -- TRB_ASYM_FIRST
  ⟨0x100020, [(0x1000, 12)], [fld 31 0 .ro]⟩,
  -- TRB_ASYM_LAST
  ⟨0x100024, [(0x1000, 12)], [fld 31 0 .ro]⟩,
  -- TRB_TX_FRAMES
  ⟨0x100040, [(0x1000, 12)], [fld 31 0 .rc]⟩,
  -- TRB_RX_OK
  ⟨0x100044, [(0x1000, 12)], [fld 31 0 .rc]⟩,
  -- TRB_RX_CODE
  ⟨0x100048, [(0x1000, 12)], [fld 31 0 .rc]⟩,
  -- TRB_RX_HCRC
  ⟨0x10004c, [(0x1000, 12)], [fld 31 0 .rc]⟩,
  -- TRB_RX_FCRC
  ⟨0x100050, [(0x1000, 12)], [fld 31 0 .rc]⟩,
  -- TRB_RX_MISSING
  ⟨0x100054, [(0x1000, 12)], [fld 31 0 .rc]⟩,
  -- TRB_SLOT_UNWRITTEN
  ⟨0x100058, [(0x1000, 12)], [fld 31 0 .rc]⟩,
  -- TRB_SLOT_CRC
  ⟨0x10005c, [(0x1000, 12)], [fld 31 0 .rc]⟩,
  -- TRB_OVF
  ⟨0x100060, [(0x1000, 12)], [fld 7 0 .w1c]⟩,
  -- TRB_EYE
  ⟨0x100064, [(0x1000, 12)], [fld 31 16 .ro, fld 15 0 .ro]⟩,
  -- TRB_POS_BUILDER_ID
  ⟨0x100100, [(0x1000, 12), (0x40, 16)], [fld 31 0 .ro]⟩,
  -- TRB_POS_SERIAL_LO
  ⟨0x100104, [(0x1000, 12), (0x40, 16)], [fld 31 0 .ro]⟩,
  -- TRB_POS_SERIAL_HI
  ⟨0x100108, [(0x1000, 12), (0x40, 16)], [fld 31 0 .ro]⟩,
  -- TRB_POS_FW_VERSION
  ⟨0x10010c, [(0x1000, 12), (0x40, 16)], [fld 31 0 .ro]⟩ ]

/-- Rows 24 and on of the Trb block, one per register word or indexed family of words. -/
def rowsTrb1 : List RegRow := [
  -- TRB_POS_CAPS
  ⟨0x100110, [(0x1000, 12), (0x40, 16)], [fld 31 0 .ro]⟩,
  -- TRB_POS_STATUS
  ⟨0x100114, [(0x1000, 12), (0x40, 16)], [fld 31 0 .ro]⟩,
  -- TRB_POS_LINK_DLY
  ⟨0x100118, [(0x1000, 12), (0x40, 16)], [fld 31 0 .ro]⟩,
  -- TRB_POS_TIME_OFS
  ⟨0x10011c, [(0x1000, 12), (0x40, 16)], [fld 15 0 .ro]⟩,
  -- TRB_POS_CRCERR
  ⟨0x100120, [(0x1000, 12), (0x40, 16)], [fld 31 0 .rc]⟩,
  -- TRB_POS_MISS
  ⟨0x100124, [(0x1000, 12), (0x40, 16)], [fld 31 0 .rc]⟩,
  -- TRB_POS_SLOTCRC
  ⟨0x100128, [(0x1000, 12), (0x40, 16)], [fld 31 0 .rc]⟩,
  -- TRB_POS_POS_OVF
  ⟨0x10012c, [(0x1000, 12), (0x40, 16)], [fld 2 0 .w1c]⟩,
  -- TRB_GCFG
  ⟨0x10f000, [], [fld 31 16 .rw (rst := 0x64) (mn := 1), fld 7 0 .rw (rst := 0x20)]⟩ ]

/-- Every register row of the Trb block. -/
def rowsTrb : List RegRow := rowsTrb0 ++ rowsTrb1

/-- Rows 0 and on of the Arr block, one per register word or indexed family of words. -/
def rowsArr0 : List RegRow := [
  -- ARR_CTRL
  ⟨0x200000, [], [fld 7 5 .rw (idle := true), fld 4 4 .rw (rst := 0x1), fld 3 3 .rw (rst := 0x1), fld 2 2 .rw (rst := 0x1), fld 1 1 .rw (rst := 0x1), fld 0 0 .rw]⟩,
  -- ARR_CYCLE
  ⟨0x200004, [], [fld 8 0 .rw (rst := 0x28) (mn := 16) (mx := 400) (idle := true)]⟩,
  -- ARR_ORIGIN_S
  ⟨0x200008, [], [fld 31 0 .rw (idle := true)]⟩,
  -- ARR_ORIGIN_SH
  ⟨0x20000c, [], [fld 15 0 .rw (idle := true)]⟩,
  -- ARR_ORIGIN_NS
  ⟨0x200010, [], [fld 31 0 .rw (mx := 999999999) (idle := true)]⟩,
  -- ARR_TIMING
  ⟨0x200014, [], [fld 15 8 .rw (rst := 0x32) (mn := 10) (mx := 200) (idle := true), fld 2 0 .rw (rst := 0x2) (idle := true)]⟩,
  -- ARR_BUDGET
  ⟨0x200018, [], [fld 24 16 .ro, fld 15 0 .ro]⟩,
  -- ARR_STATUS
  ⟨0x20001c, [], [fld 13 8 .ro, fld 1 1 .ro, fld 0 0 .ro]⟩,
  -- ARR_EVENT
  ⟨0x200020, [], [fld 8 8 .w1c, fld 7 7 .w1c, fld 6 6 .w1c, fld 5 5 .w1c, fld 4 4 .w1c, fld 3 3 .w1c, fld 2 2 .w1c, fld 1 1 .w1c, fld 0 0 .w1c]⟩,
  -- ARR_PLAUS
  ⟨0x200030, [], [fld 31 24 .rw (rst := 0xa) (mn := 1), fld 23 16 .rw (rst := 0xf) (mn := 1) (mx := 100)]⟩,
  -- ARR_OXB
  ⟨0x200034, [], [fld 15 8 .rw (rst := 0x14) (mn := 1), fld 1 0 .rw (mx := 2)]⟩,
  -- ARR_INS_RAMP
  ⟨0x200040, [], [fld 31 0 .rw (rst := 0x40000000)]⟩,
  -- ARR_INS_CFG
  ⟨0x200044, [], [fld 31 16 .rw (rst := 0x3e8) (mn := 1), fld 15 8 .rw (rst := 0x14), fld 2 2 .rw (rst := 0x1), fld 1 0 .rw (rst := 0x3)]⟩,
  -- ARR_INS_TRIMLIM
  ⟨0x200048, [], [fld 31 0 .rw (rst := 0x3e4ccccd)]⟩,
  -- ARR_INS_VISO
  ⟨0x20004c, [], [fld 31 0 .rw (rst := 0x3f000000)]⟩,
  -- ARR_INS_KEEP
  ⟨0x200050, [], [fld 31 0 .rw (rst := 0x3f733333)]⟩,
  -- ARR_TH_CFG
  ⟨0x200060, [], [fld 31 24 .rw (rst := 0x6) (mn := 1) (mx := 144), fld 23 14 .rw (rst := 0x3e8) (mn := 1), fld 9 0 .rw (rst := 0x64) (mn := 1)]⟩,
  -- ARR_DMG_A
  ⟨0x200064, [], [fld 31 0 .rw]⟩,
  -- ARR_DMG_ALPHA
  ⟨0x200068, [], [fld 31 0 .rw (rst := 0x40a00000)]⟩,
  -- ARR_DMG_BETA
  ⟨0x20006c, [], [fld 31 0 .rw]⟩,
  -- ARR_DMG_DTMIN
  ⟨0x200070, [], [fld 31 0 .rw (rst := 0x40400000)]⟩,
  -- ARR_RF_HYST
  ⟨0x200074, [], [fld 31 0 .rw (rst := 0x3f000000)]⟩,
  -- ARR_EST_CFG
  ⟨0x200078, [], [fld 31 16 .rw (rst := 0x258) (mn := 1), fld 15 0 .rw (rst := 0x5)]⟩,
  -- ARR_S_CFG
  ⟨0x200100, [(0x40, 6)], [fld 31 16 .rw (rst := 0x3e8) (mn := 1), fld 15 8 .rw, fld 1 0 .rw (rst := 0x2) (mx := 2)]⟩ ]

/-- Rows 24 and on of the Arr block, one per register word or indexed family of words. -/
def rowsArr1 : List RegRow := [
  -- ARR_S_CARRIER
  ⟨0x200104, [(0x40, 6)], [fld 31 0 .rw (rst := 0xf42400) (idle := true)]⟩,
  -- ARR_S_MINPULSE
  ⟨0x200108, [(0x40, 6)], [fld 15 0 .rw (rst := 0x64) (mx := 2000)]⟩,
  -- ARR_S_ISO
  ⟨0x20010c, [(0x40, 6)], [fld 31 22 .rw (rst := 0x190) (mn := 160) (mx := 800), fld 21 12 .rw (rst := 0x100) (mx := 256), fld 11 6 .rw, fld 5 0 .rw]⟩,
  -- ARR_S_VREQ
  ⟨0x200110, [(0x40, 6)], [fld 31 16 .rw (rst := 0x7d0), fld 7 0 .rw (rst := 0xa)]⟩,
  -- ARR_S_VNOM
  ⟨0x200114, [(0x40, 6)], [fld 31 0 .rw]⟩,
  -- ARR_S_BAL_GAIN
  ⟨0x200118, [(0x40, 6)], [fld 31 0 .rw (rst := 0x3f800000)]⟩,
  -- ARR_S_BAL_LIM
  ⟨0x20011c, [(0x40, 6)], [fld 31 0 .rw (rst := 0x3d4ccccd)]⟩,
  -- ARR_S_BAL_IDB
  ⟨0x200120, [(0x40, 6)], [fld 31 0 .rw (rst := 0x41200000)]⟩,
  -- ARR_S_WEAR_GAIN
  ⟨0x200124, [(0x40, 6)], [fld 31 0 .rw (rst := 0x3f000000)]⟩,
  -- ARR_S_WEAR_LIM
  ⟨0x200128, [(0x40, 6)], [fld 31 0 .rw (rst := 0x3dcccccd)]⟩,
  -- ARR_S_MMAX
  ⟨0x20012c, [(0x40, 6)], [fld 31 0 .rw (rst := 0x3f733333)]⟩,
  -- ARR_S_STATUS
  ⟨0x200130, [(0x40, 6)], [fld 23 16 .ro, fld 15 8 .ro, fld 7 0 .ro]⟩,
  -- ARR_S_DERATE
  ⟨0x200134, [(0x40, 6)], [fld 31 0 .ro (rst := 0x3f800000)]⟩,
  -- ARR_S_POSTPONED
  ⟨0x200138, [(0x40, 6)], [fld 31 0 .rc]⟩,
  -- ARR_MAP
  ⟨0x201000, [(0x4, 192)], [fld 31 30 .rw, fld 29 27 .rw (idle := true), fld 26 21 .rw (idle := true), fld 20 17 .rw (idle := true), fld 16 13 .rw (idle := true), fld 12 12 .rw (idle := true)]⟩ ]

/-- Every register row of the Arr block. -/
def rowsArr : List RegRow := rowsArr0 ++ rowsArr1

/-- Rows 0 and on of the Cell block, one per register word or indexed family of words. -/
def rowsCell0 : List RegRow := [
  -- CELL_CTRL
  ⟨0x300000, [(0x100, 192)], [fld 2 2 .wo, fld 1 1 .wo, fld 0 0 .wo]⟩,
  -- CELL_STATE
  ⟨0x300004, [(0x100, 192)], [fld 31 24 .ro, fld 21 16 .ro, fld 3 0 .ro]⟩,
  -- CELL_VCAP
  ⟨0x300008, [(0x100, 192)], [fld 31 0 .ro]⟩,
  -- CELL_IARM
  ⟨0x30000c, [(0x100, 192)], [fld 31 0 .ro]⟩,
  -- CELL_TEMP1
  ⟨0x300010, [(0x100, 192)], [fld 31 0 .ro]⟩,
  -- CELL_TEMP2
  ⟨0x300014, [(0x100, 192)], [fld 31 0 .ro]⟩,
  -- CELL_TJ
  ⟨0x300018, [(0x100, 192)], [fld 31 0 .ro]⟩,
  -- CELL_MREF
  ⟨0x30001c, [(0x100, 192)], [fld 31 0 .ro]⟩,
  -- CELL_WEIGHT
  ⟨0x300020, [(0x100, 192)], [fld 31 0 .ro (rst := 0x3f800000)]⟩,
  -- CELL_CAP
  ⟨0x300024, [(0x100, 192)], [fld 31 0 .ro]⟩,
  -- CELL_ESR
  ⟨0x300028, [(0x100, 192)], [fld 31 0 .ro]⟩,
  -- CELL_EST
  ⟨0x30002c, [(0x100, 192)], [fld 1 1 .ro (rst := 0x1), fld 0 0 .ro]⟩,
  -- CELL_DAMAGE_LO
  ⟨0x300030, [(0x100, 192)], [fld 31 0 .rw]⟩,
  -- CELL_DAMAGE_HI
  ⟨0x300034, [(0x100, 192)], [fld 31 0 .rw]⟩,
  -- CELL_TCYCLES
  ⟨0x300038, [(0x100, 192)], [fld 31 0 .ro]⟩,
  -- CELL_LATE
  ⟨0x30003c, [(0x100, 192)], [fld 31 0 .rc]⟩,
  -- CELL_EDGE_TRIM
  ⟨0x300040, [(0x100, 192)], [fld 31 16 .rw, fld 15 0 .rw]⟩,
  -- CELL_PHASE_TRIM
  ⟨0x300044, [(0x100, 192)], [fld 31 0 .rw]⟩,
  -- CELL_A_COND
  ⟨0x300048, [(0x100, 192)], [fld 31 0 .rw]⟩,
  -- CELL_B_COND
  ⟨0x30004c, [(0x100, 192)], [fld 31 0 .rw]⟩,
  -- CELL_C_SW
  ⟨0x300050, [(0x100, 192)], [fld 31 0 .rw]⟩,
  -- CELL_D_SW
  ⟨0x300054, [(0x100, 192)], [fld 31 0 .rw]⟩,
  -- CELL_RTH1
  ⟨0x300058, [(0x100, 192)], [fld 31 0 .rw]⟩,
  -- CELL_TAU1
  ⟨0x30005c, [(0x100, 192)], [fld 31 0 .rw (rst := 0x3f800000) (mn := 1)]⟩ ]

/-- Rows 24 and on of the Cell block, one per register word or indexed family of words. -/
def rowsCell1 : List RegRow := [
  -- CELL_RTH2
  ⟨0x300060, [(0x100, 192)], [fld 31 0 .rw]⟩,
  -- CELL_TAU2
  ⟨0x300064, [(0x100, 192)], [fld 31 0 .rw (rst := 0x3f800000) (mn := 1)]⟩,
  -- CELL_VMAX
  ⟨0x300068, [(0x100, 192)], [fld 31 0 .rw (rst := 0x7f800000)]⟩,
  -- CELL_VMIN
  ⟨0x30006c, [(0x100, 192)], [fld 31 0 .rw]⟩,
  -- CELL_TMAX
  ⟨0x300070, [(0x100, 192)], [fld 31 0 .rw (rst := 0x7f800000)]⟩ ]

/-- Every register row of the Cell block. -/
def rowsCell : List RegRow := rowsCell0 ++ rowsCell1

/-- Rows 0 and on of the Law block, one per register word or indexed family of words. -/
def rowsLaw0 : List RegRow := [
  -- LAW_CTRL
  ⟨0x400000, [], [fld 1 1 .wo, fld 0 0 .wo]⟩,
  -- LAW_IMAGE
  ⟨0x400004, [], [fld 31 0 .ro]⟩,
  -- LAW_BUILD
  ⟨0x400008, [], [fld 31 0 .ro]⟩,
  -- LAW_HASH
  ⟨0x40000c, [], [fld 31 0 .ro]⟩,
  -- LAW_STATUS
  ⟨0x400010, [], [fld 23 20 .ro, fld 19 16 .ro, fld 15 12 .ro, fld 11 8 .ro, fld 1 1 .ro, fld 0 0 .ro]⟩,
  -- LAW_EVENT
  ⟨0x400014, [], [fld 8 8 .w1c, fld 7 7 .w1c, fld 6 6 .w1c, fld 5 5 .w1c, fld 4 4 .w1c, fld 3 0 .w1c]⟩,
  -- LAW_FAULT
  ⟨0x400018, [], [fld 31 31 .ro, fld 27 16 .ro, fld 11 0 .ro]⟩,
  -- LAW_REFUSE
  ⟨0x40001c, [], [fld 7 0 .ro]⟩,
  -- LAW_OVF
  ⟨0x400020, [], [fld 3 0 .w1c]⟩,
  -- LAW_RG_CFG
  ⟨0x400040, [(0x10, 4)], [fld 31 30 .ro, fld 29 27 .ro, fld 26 25 .ro, fld 24 23 .ro, fld 15 0 .ro]⟩,
  -- LAW_RG_DEADLINE
  ⟨0x400044, [(0x10, 4)], [fld 31 0 .ro]⟩,
  -- LAW_RG_TIME
  ⟨0x400048, [(0x10, 4)], [fld 31 16 .ro, fld 15 0 .rc]⟩,
  -- LAW_RG_OVR
  ⟨0x40004c, [(0x10, 4)], [fld 31 0 .rc]⟩,
  -- LAW_RG_PH
  ⟨0x400080, [(0x4, 4)], [fld 15 0 .ro]⟩,
  -- LAW_SWAP_MAP
  ⟨0x400100, [(0x4, 128)], [fld 31 0 .rw]⟩,
  -- LAW_NODE
  ⟨0x480000, [(0x4, 4096)], [fld 31 0 .rw]⟩,
  -- LAW_BLK_HDR
  ⟨0x500000, [(0x100, 4096)], [fld 31 24 .ro, fld 23 22 .ro, fld 21 16 .ro, fld 15 12 .ro, fld 11 0 .ro]⟩,
  -- LAW_BLK_STATUS
  ⟨0x500004, [(0x100, 4096)], [fld 15 15 .w1c, fld 14 14 .ro, fld 13 13 .ro, fld 12 12 .ro, fld 11 10 .ro, fld 9 8 .ro, fld 7 6 .ro]⟩,
  -- LAW_BLK_STATE
  ⟨0x500020, [(0x100, 4096), (0x4, 8)], [fld 31 0 .ro]⟩,
  -- LAW_BLK_DEV
  ⟨0x500040, [(0x100, 4096), (0x4, 16)], [fld 31 0 .ro]⟩,
  -- LAW_BLK_LAT
  ⟨0x500080, [(0x100, 4096), (0x4, 16)], [fld 31 0 .rw]⟩ ]

/-- Every register row of the Law block. -/
def rowsLaw : List RegRow := rowsLaw0

/-- Rows 0 and on of the Neg block, one per register word or indexed family of words. -/
def rowsNeg0 : List RegRow := [
  -- NEG_CTRL
  ⟨0x800000, [], [fld 11 8 .wo, fld 7 4 .wo, fld 3 0 .wo]⟩,
  -- NEG_EVENT
  ⟨0x800008, [], [fld 7 4 .w1c, fld 3 0 .w1c]⟩,
  -- NEG_RATE
  ⟨0x80000c, [], [fld 31 0 .ro]⟩,
  -- NEG_EVT
  ⟨0x800010, [], [fld 10 0 .ro]⟩,
  -- NEG_EXP_CFG
  ⟨0x800100, [(0x40, 4)], [fld 31 29 .rw (mx := 4), fld 15 0 .rw (rst := 0x1) (mn := 1)]⟩,
  -- NEG_EXP_REGION
  ⟨0x800104, [(0x40, 4)], [fld 31 16 .rw (mx := 1023), fld 15 0 .rw]⟩,
  -- NEG_EXP_PRE
  ⟨0x800108, [(0x40, 4)], [fld 31 0 .rw]⟩,
  -- NEG_EXP_POST
  ⟨0x80010c, [(0x40, 4)], [fld 31 0 .rw (rst := 0x1)]⟩,
  -- NEG_EXP_TRIG
  ⟨0x800110, [(0x40, 4)], [fld 31 28 .rw (mx := 5), fld 11 0 .rw]⟩,
  -- NEG_EXP_LEVEL
  ⟨0x800114, [(0x40, 4)], [fld 31 0 .rw]⟩,
  -- NEG_EXP_EVENTS
  ⟨0x800118, [(0x40, 4)], [fld 31 0 .rw]⟩,
  -- NEG_EXP_STATUS
  ⟨0x80011c, [(0x40, 4)], [fld 4 4 .ro, fld 2 0 .ro]⟩,
  -- NEG_EXP_FIRST
  ⟨0x800120, [(0x40, 4)], [fld 31 0 .ro]⟩,
  -- NEG_EXP_FIXROW
  ⟨0x800124, [(0x40, 4)], [fld 31 0 .ro]⟩,
  -- NEG_EXP_ROWS
  ⟨0x800128, [(0x40, 4)], [fld 31 0 .ro]⟩,
  -- NEG_EXP_FIXTIME_S
  ⟨0x80012c, [(0x40, 4)], [fld 31 0 .ro]⟩,
  -- NEG_EXP_FIXTIME_NS
  ⟨0x800130, [(0x40, 4)], [fld 31 0 .ro]⟩,
  -- NEG_EXP_ROWSIZE
  ⟨0x800134, [(0x40, 4)], [fld 15 0 .ro (rst := 0xc)]⟩,
  -- NEG_PROBE
  ⟨0x801000, [(0x4, 64)], [fld 31 31 .rw, fld 30 29 .rw, fld 28 26 .rw (mx := 3), fld 15 0 .rw]⟩,
  -- NEG_MEM
  ⟨0xc00000, [(0x4, 1048576)], [fld 31 0 .ro]⟩ ]

/-- Every register row of the Neg block. -/
def rowsNeg : List RegRow := rowsNeg0

/-- Rows 0 and on of the Pwm block, one per register word or indexed family of words. -/
def rowsPwm0 : List RegRow := [
  -- PWM_GCFG
  ⟨0x1000000, [], [fld 0 0 .rw]⟩,
  -- PWM_EVENT
  ⟨0x1000004, [], [fld 23 16 .w1c, fld 15 8 .w1c, fld 7 0 .w1c]⟩,
  -- PWM_P_CFG
  ⟨0x1000100, [(0x80, 8)], [fld 31 31 .rw (idle := true), fld 30 30 .rw (idle := true), fld 29 28 .rw, fld 27 24 .rw, fld 23 22 .rw (rst := 0x1), fld 21 21 .rw (idle := true), fld 20 20 .rw (idle := true), fld 19 12 .rw]⟩,
  -- PWM_P_DT
  ⟨0x1000104, [(0x80, 8)], [fld 2 0 .rwl]⟩,
  -- PWM_P_START_S
  ⟨0x1000108, [(0x80, 8)], [fld 31 0 .rw]⟩,
  -- PWM_P_START_NS
  ⟨0x100010c, [(0x80, 8)], [fld 29 0 .rw (mx := 999999999)]⟩,
  -- PWM_P_START_SUB
  ⟨0x1000110, [(0x80, 8)], [fld 3 0 .rw]⟩,
  -- PWM_P_PERIOD
  ⟨0x1000114, [(0x80, 8)], [fld 31 0 .rw (mn := 1600)]⟩,
  -- PWM_P_CMPA
  ⟨0x1000118, [(0x80, 8)], [fld 31 0 .rw]⟩,
  -- PWM_P_CMPB
  ⟨0x100011c, [(0x80, 8)], [fld 31 0 .rw]⟩,
  -- PWM_P_PHASE
  ⟨0x1000120, [(0x80, 8)], [fld 31 0 .rw]⟩,
  -- PWM_P_CMPX
  ⟨0x1000124, [(0x80, 8), (0x4, 4)], [fld 31 0 .rw]⟩,
  -- PWM_P_CTRL
  ⟨0x1000134, [(0x80, 8)], [fld 2 2 .wo, fld 1 1 .wo, fld 0 0 .wo]⟩,
  -- PWM_P_RLD
  ⟨0x1000138, [(0x80, 8)], [fld 31 16 .ro, fld 1 1 .ro, fld 0 0 .ro]⟩,
  -- PWM_P_FORCE
  ⟨0x100013c, [(0x80, 8)], [fld 4 4 .rw, fld 3 2 .rw, fld 1 0 .rw]⟩,
  -- PWM_P_DEV
  ⟨0x1000140, [(0x80, 8), (0x4, 4)], [fld 31 0 .ro]⟩,
  -- PWM_P_LATE
  ⟨0x1000150, [(0x80, 8)], [fld 31 0 .rc]⟩,
  -- PWM_P_REPLACED
  ⟨0x1000154, [(0x80, 8)], [fld 31 0 .rc]⟩,
  -- PWM_P_OVF
  ⟨0x1000158, [(0x80, 8)], [fld 1 0 .w1c]⟩,
  -- PWM_P_STATUS
  ⟨0x100015c, [(0x80, 8)], [fld 31 16 .ro, fld 4 4 .ro, fld 3 3 .ro, fld 2 2 .ro, fld 1 1 .ro, fld 0 0 .ro]⟩ ]

/-- Every register row of the Pwm block. -/
def rowsPwm : List RegRow := rowsPwm0

/-- Rows 0 and on of the Gd block, one per register word or indexed family of words. -/
def rowsGd0 : List RegRow := [
  -- GD_EVENT
  ⟨0x1010000, [], [fld 23 16 .w1c, fld 15 8 .w1c, fld 1 0 .w1c]⟩,
  -- GD_DIAG_CTRL
  ⟨0x1010004, [], [fld 31 31 .wo, fld 17 16 .rw (rst := 0x1), fld 15 0 .rw]⟩,
  -- GD_DIAG_STATUS
  ⟨0x1010008, [], [fld 2 2 .w1c, fld 1 1 .w1c, fld 0 0 .ro]⟩,
  -- GD_DIAG_RES
  ⟨0x101000c, [], [fld 31 0 .ro]⟩,
  -- GD_GPB
  ⟨0x1010010, [], [fld 31 16 .rw (rst := 0x190) (mn := 200) (mx := 2000), fld 15 8 .rw (rst := 0x14) (mn := 1), fld 2 2 .rw, fld 1 1 .rw, fld 0 0 .ro (rst := 0x1)]⟩,
  -- GD_P_CFG
  ⟨0x1010100, [(0x40, 8)], [fld 31 30 .rw (rst := 0x2), fld 29 27 .rw, fld 26 24 .rwl]⟩,
  -- GD_P_DRIVE
  ⟨0x1010104, [(0x40, 8)], [fld 31 27 .rw, fld 26 22 .rw, fld 21 17 .rw, fld 16 12 .rw, fld 11 7 .rw (mx := 16), fld 6 3 .rw (rst := 0x3)]⟩,
  -- GD_P_UVLO
  ⟨0x1010108, [(0x40, 8)], [fld 31 24 .rw (rst := 0x64) (mn := 40) (mx := 200), fld 23 16 .rw, fld 15 8 .rw (rst := 0x50) (mn := 40) (mx := 200)]⟩,
  -- GD_P_GEN_PERIOD
  ⟨0x101010c, [(0x40, 8)], [fld 31 0 .rw]⟩,
  -- GD_P_GEN_ON
  ⟨0x1010110, [(0x40, 8)], [fld 31 0 .rw]⟩,
  -- GD_P_REFRESH
  ⟨0x1010114, [(0x40, 8)], [fld 31 16 .rw (rst := 0x64), fld 15 0 .rw (rst := 0x14)]⟩,
  -- GD_P_RMAX_A
  ⟨0x1010118, [(0x40, 8)], [fld 31 16 .rw (rst := 0xffff), fld 15 0 .rw]⟩,
  -- GD_P_RMAX_B
  ⟨0x101011c, [(0x40, 8)], [fld 31 16 .rw (rst := 0xffff), fld 15 0 .rw]⟩,
  -- GD_P_STATUS
  ⟨0x1010120, [(0x40, 8)], [fld 5 5 .ro, fld 4 4 .ro, fld 3 3 .ro, fld 2 2 .ro, fld 1 1 .ro, fld 0 0 .ro]⟩,
  -- GD_P_UVLO_CNT
  ⟨0x1010124, [(0x40, 8)], [fld 31 0 .rc]⟩ ]

/-- Every register row of the Gd block. -/
def rowsGd : List RegRow := rowsGd0

/-- Rows 0 and on of the Trip block, one per register word or indexed family of words. -/
def rowsTrip0 : List RegRow := [
  -- TRIP_GCFG
  ⟨0x1020000, [], [fld 0 0 .rw]⟩,
  -- TRIP_IN
  ⟨0x1020010, [(0x4, 8)], [fld 31 31 .rwl, fld 30 30 .rwl (rst := 0x1), fld 29 22 .rwl (mx := 250), fld 15 8 .rwl, fld 7 0 .rwl]⟩,
  -- TRIP_STATE_PWM
  ⟨0x1020030, [], [fld 31 0 .rwl]⟩,
  -- TRIP_STATE_GD
  ⟨0x1020034, [], [fld 31 0 .rwl]⟩,
  -- TRIP_DSN
  ⟨0x1020040, [(0x8, 8)], [fld 31 24 .rwl (rst := 0xff), fld 23 16 .rwl (rst := 0xfe), fld 15 12 .rwl (rst := 0x3), fld 11 8 .rwl (rst := 0x2), fld 7 7 .rwl, fld 6 6 .rwl]⟩,
  -- TRIP_DSN_GROUP
  ⟨0x1020044, [(0x8, 8)], [fld 7 0 .rwl]⟩,
  -- TRIP_LATCH
  ⟨0x1020080, [], [fld 23 16 .ro, fld 15 8 .ro, fld 7 0 .ro]⟩,
  -- TRIP_PAIRS
  ⟨0x1020084, [], [fld 15 8 .ro, fld 7 0 .ro]⟩,
  -- TRIP_CLEAR
  ⟨0x1020088, [], [fld 23 16 .wo, fld 7 0 .wo]⟩,
  -- TRIP_EVENT
  ⟨0x102008c, [], [fld 25 25 .w1c, fld 24 24 .w1c, fld 23 16 .w1c, fld 15 8 .w1c, fld 7 0 .w1c]⟩,
  -- TRIP_IN_CNT
  ⟨0x1020090, [(0x4, 8)], [fld 31 0 .rc]⟩,
  -- TRIP_SC_CNT
  ⟨0x10200b0, [(0x4, 8)], [fld 31 0 .rc]⟩,
  -- TRIP_OVF
  ⟨0x10200d0, [], [fld 15 0 .w1c]⟩,
  -- TRIP_LIVE
  ⟨0x10200d4, [], [fld 15 8 .ro, fld 7 0 .ro]⟩ ]

/-- Every register row of the Trip block. -/
def rowsTrip : List RegRow := rowsTrip0

/-- Rows 0 and on of the Adc block, one per register word or indexed family of words. -/
def rowsAdc0 : List RegRow := [
  -- ADC_GCFG
  ⟨0x1100000, [], [fld 15 15 .rw (rst := 0x1), fld 14 14 .rw, fld 10 0 .rw (idle := true)]⟩,
  -- ADC_STATUS
  ⟨0x1100004, [], [fld 24 24 .ro, fld 23 20 .ro, fld 19 16 .ro, fld 15 12 .ro, fld 11 8 .ro, fld 3 0 .ro]⟩,
  -- ADC_EVENT
  ⟨0x1100008, [], [fld 31 28 .w1c, fld 27 24 .w1c, fld 23 20 .w1c, fld 19 16 .w1c, fld 4 4 .w1c, fld 3 3 .w1c, fld 2 2 .w1c, fld 1 1 .w1c]⟩,
  -- ADC_WIN_LAST
  ⟨0x110000c, [], [fld 7 6 .ro, fld 4 0 .ro]⟩,
  -- ADC_CAL_CTRL
  ⟨0x1100010, [], [fld 31 31 .wo, fld 30 30 .wo, fld 29 29 .wo, fld 28 28 .wo, fld 27 27 .wo, fld 23 20 .rw, fld 4 0 .rw (mx := 15)]⟩,
  -- ADC_CAL_TGT
  ⟨0x1100014, [], [fld 31 16 .rw (rst := 0xf000), fld 15 0 .rw (rst := 0x800)]⟩,
  -- ADC_CAL_STATUS
  ⟨0x1100018, [], [fld 7 4 .ro, fld 3 3 .ro, fld 2 2 .ro, fld 1 1 .ro]⟩,
  -- ADC_SKEW
  ⟨0x110001c, [], [fld 31 16 .rw, fld 15 0 .rw]⟩,
  -- ADC_TESTV
  ⟨0x1100020, [], [fld 31 31 .rw, fld 27 16 .rw (rst := 0x800), fld 15 0 .rw (rst := 0xc8) (mn := 1) (mx := 1000)]⟩,
  -- ADC_REF_TOL
  ⟨0x1100024, [], [fld 15 0 .rw (rst := 0x40)]⟩,
  -- ADC_C_CTRL
  ⟨0x1100100, [(0x200, 4)], [fld 3 3 .wo, fld 2 2 .wo, fld 1 1 .rw, fld 0 0 .rw]⟩,
  -- ADC_C_RCFG
  ⟨0x1100104, [(0x200, 4)], [fld 31 29 .rw, fld 28 26 .rw, fld 25 24 .rw, fld 23 21 .rw (mx := 4), fld 20 20 .rw, fld 19 16 .rw, fld 4 0 .rw (rst := 0x1) (mn := 1) (mx := 16)]⟩,
  -- ADC_C_RDLY
  ⟨0x1100108, [(0x200, 4)], [fld 31 16 .rw (rst := 0x1) (mn := 1), fld 15 0 .rw]⟩,
  -- ADC_C_TIMER
  ⟨0x110010c, [(0x200, 4)], [fld 15 0 .rw (rst := 0x10) (mn := 16)]⟩,
  -- ADC_C_ICFG
  ⟨0x1100110, [(0x200, 4)], [fld 31 29 .rw, fld 28 26 .rw, fld 25 24 .rw, fld 23 21 .rw, fld 19 16 .rw, fld 1 0 .rw]⟩,
  -- ADC_C_IDLY
  ⟨0x1100114, [(0x200, 4)], [fld 15 0 .rw]⟩,
  -- ADC_C_R_STAMP_LO
  ⟨0x1100118, [(0x200, 4)], [fld 31 0 .ro]⟩,
  -- ADC_C_R_RUNS
  ⟨0x110011c, [(0x200, 4)], [fld 31 16 .ro, fld 7 0 .ro]⟩,
  -- ADC_C_I_STAMP_LO
  ⟨0x1100120, [(0x200, 4)], [fld 31 0 .ro]⟩,
  -- ADC_C_I_RUNS
  ⟨0x1100124, [(0x200, 4)], [fld 31 16 .ro, fld 7 0 .ro]⟩,
  -- ADC_C_TRIG_OVR
  ⟨0x1100128, [(0x200, 4)], [fld 31 0 .rc]⟩,
  -- ADC_C_DISCARDS
  ⟨0x110012c, [(0x200, 4)], [fld 31 0 .rc]⟩,
  -- ADC_C_OVF
  ⟨0x1100130, [(0x200, 4)], [fld 1 0 .w1c]⟩,
  -- ADC_C_REG
  ⟨0x1100140, [(0x200, 4), (0x4, 16)], [fld 31 31 .rw, fld 30 30 .rw, fld 29 29 .rw, fld 28 24 .rw, fld 23 18 .rw (rst := 0x4) (mn := 4), fld 17 14 .rw (mx := 8), fld 13 10 .rw]⟩ ]

/-- Rows 24 and on of the Adc block, one per register word or indexed family of words. -/
def rowsAdc1 : List RegRow := [
  -- ADC_C_INJ
  ⟨0x1100180, [(0x200, 4), (0x4, 4)], [fld 31 31 .rw, fld 30 30 .rw, fld 29 29 .rw, fld 28 24 .rw, fld 23 18 .rw (rst := 0x4) (mn := 4), fld 17 14 .rw (mx := 8), fld 13 10 .rw]⟩,
  -- ADC_C_RES
  ⟨0x1100190, [(0x200, 4), (0x4, 20)], [fld 31 24 .ro (rst := 0x80), fld 23 0 .ro]⟩,
  -- ADC_C_CHK
  ⟨0x11001e0, [(0x200, 4)], [fld 31 24 .ro (rst := 0x80), fld 23 0 .ro]⟩,
  -- ADC_C_WIN
  ⟨0x1100200, [(0x200, 4), (0x4, 20)], [fld 31 16 .rw (rst := 0xffff), fld 15 0 .rw]⟩,
  -- ADC_C_WHYST
  ⟨0x1100250, [(0x200, 4)], [fld 15 0 .rw (rst := 0x10)]⟩,
  -- ADC_C_SCALE
  ⟨0x1100260, [(0x200, 4), (0x8, 20)], [fld 31 0 .rw (rst := 0x3f800000)]⟩,
  -- ADC_C_OFS
  ⟨0x1100264, [(0x200, 4), (0x8, 20)], [fld 31 0 .rw]⟩,
  -- ADC_CAL
  ⟨0x1101000, [(0x40, 4), (0x4, 16)], [fld 31 16 .rw, fld 15 0 .rw]⟩ ]

/-- Every register row of the Adc block. -/
def rowsAdc : List RegRow := rowsAdc0 ++ rowsAdc1

/-- Rows 0 and on of the Net block, one per register word or indexed family of words. -/
def rowsNet0 : List RegRow := [
  -- NET_CTRL
  ⟨0x1200000, [], [fld 0 0 .rw]⟩,
  -- NET_CFG
  ⟨0x1200004, [], [fld 31 24 .rw (rst := 0xa) (mn := 1), fld 23 16 .rw (rst := 0x28), fld 15 8 .rw (rst := 0x14), fld 1 0 .rw (rst := 0x1) (mn := 1) (mx := 2) (idle := true)]⟩,
  -- NET_MAC_LO
  ⟨0x1200008, [], [fld 31 0 .ro]⟩,
  -- NET_MAC_HI
  ⟨0x120000c, [], [fld 15 0 .ro]⟩,
  -- NET_IP
  ⟨0x1200010, [], [fld 31 0 .rw (idle := true)]⟩,
  -- NET_MASK
  ⟨0x1200014, [], [fld 31 0 .rw (idle := true)]⟩,
  -- NET_GW
  ⟨0x1200018, [], [fld 31 0 .rw (idle := true)]⟩,
  -- NET_ECP
  ⟨0x120001c, [], [fld 15 0 .rw (rst := 0xe1f0) (idle := true)]⟩,
  -- NET_STATUS
  ⟨0x1200020, [], [fld 20 20 .ro, fld 19 16 .ro, fld 15 12 .ro, fld 11 0 .ro]⟩,
  -- NET_EVENT
  ⟨0x1200024, [], [fld 8 8 .w1c, fld 7 7 .w1c, fld 6 6 .w1c, fld 5 5 .w1c, fld 4 4 .w1c, fld 3 3 .w1c, fld 2 2 .w1c, fld 1 1 .w1c, fld 0 0 .w1c]⟩,
  -- NET_DD_DUP
  ⟨0x1200030, [], [fld 31 0 .rc]⟩,
  -- NET_DD_OOW
  ⟨0x1200034, [], [fld 31 0 .rc]⟩,
  -- NET_DD_EVICT
  ⟨0x1200038, [], [fld 31 0 .rc]⟩,
  -- NET_RX_FILTERED
  ⟨0x120003c, [], [fld 31 0 .rc]⟩,
  -- NET_IP_DROP
  ⟨0x1200040, [], [fld 31 0 .rc]⟩,
  -- NET_OVF
  ⟨0x1200044, [], [fld 4 0 .w1c]⟩,
  -- NET_P_CFG
  ⟨0x1200100, [(0x40, 4)], [fld 31 31 .rw (idle := true), fld 30 30 .rw (rst := 0x1) (idle := true), fld 29 28 .rw, fld 27 24 .rw, fld 23 19 .rw]⟩,
  -- NET_P_STATUS
  ⟨0x1200104, [(0x40, 4)], [fld 3 3 .ro, fld 2 2 .ro, fld 1 1 .ro, fld 0 0 .ro]⟩,
  -- NET_P_RX_OK
  ⟨0x1200108, [(0x40, 4)], [fld 31 0 .rc]⟩,
  -- NET_P_RX_FCS
  ⟨0x120010c, [(0x40, 4)], [fld 31 0 .rc]⟩,
  -- NET_P_RX_LEN
  ⟨0x1200110, [(0x40, 4)], [fld 31 0 .rc]⟩,
  -- NET_P_TX_OK
  ⟨0x1200114, [(0x40, 4)], [fld 31 0 .rc]⟩,
  -- NET_P_RX_CODE
  ⟨0x1200118, [(0x40, 4)], [fld 31 0 .rc]⟩,
  -- NET_P_OVF
  ⟨0x120011c, [(0x40, 4)], [fld 4 0 .w1c]⟩ ]

/-- Rows 24 and on of the Net block, one per register word or indexed family of words. -/
def rowsNet1 : List RegRow := [
  -- NET_SVS_STAT
  ⟨0x1200400, [(0x20, 8)], [fld 31 16 .ro, fld 3 2 .ro, fld 1 0 .ro]⟩,
  -- NET_SVS_MSGS
  ⟨0x1200404, [(0x20, 8)], [fld 31 0 .rc]⟩,
  -- NET_SVS_MISSING
  ⟨0x1200408, [(0x20, 8)], [fld 31 0 .rc]⟩,
  -- NET_SVS_REJECT
  ⟨0x120040c, [(0x20, 8)], [fld 31 0 .rc]⟩,
  -- NET_SVS_OVF
  ⟨0x1200410, [(0x20, 8)], [fld 2 0 .w1c]⟩,
  -- NET_SVP_STAT
  ⟨0x1200600, [(0x20, 4)], [fld 31 16 .ro, fld 3 2 .ro, fld 1 0 .ro]⟩,
  -- NET_SVP_MSGS
  ⟨0x1200604, [(0x20, 4)], [fld 31 0 .rc]⟩,
  -- NET_SVP_MISSING
  ⟨0x1200608, [(0x20, 4)], [fld 31 0 .rc]⟩,
  -- NET_SVP_REJECT
  ⟨0x120060c, [(0x20, 4)], [fld 31 0 .rc]⟩,
  -- NET_SVP_OVF
  ⟨0x1200610, [(0x20, 4)], [fld 2 0 .w1c]⟩,
  -- NET_GS_STNUM
  ⟨0x1200800, [(0x10, 32)], [fld 31 0 .ro]⟩,
  -- NET_GS_SQNUM
  ⟨0x1200804, [(0x10, 32)], [fld 31 0 .ro]⟩,
  -- NET_GS_STATE
  ⟨0x1200808, [(0x10, 32)], [fld 1 0 .ro]⟩,
  -- NET_GS_REJECT
  ⟨0x120080c, [(0x10, 32)], [fld 31 0 .rc]⟩,
  -- NET_GP_STNUM
  ⟨0x1200c00, [(0x10, 8)], [fld 31 0 .ro]⟩,
  -- NET_GP_SQNUM
  ⟨0x1200c04, [(0x10, 8)], [fld 31 0 .ro]⟩,
  -- NET_GP_STATE
  ⟨0x1200c08, [(0x10, 8)], [fld 1 0 .ro]⟩,
  -- NET_GP_REJECT
  ⟨0x1200c0c, [(0x10, 8)], [fld 31 0 .rc]⟩,
  -- NET_TAB
  ⟨0x1208000, [(0x4, 4096)], [fld 31 0 .ro]⟩ ]

/-- Every register row of the Net block. -/
def rowsNet : List RegRow := rowsNet0 ++ rowsNet1

/-- Rows 0 and on of the Time block, one per register word or indexed family of words. -/
def rowsTime0 : List RegRow := [
  -- TIME_CFG
  ⟨0x1210000, [], [fld 31 30 .rw (mx := 2), fld 29 28 .rw (mx := 2), fld 27 27 .rw (rst := 0x1), fld 23 16 .rw, fld 15 8 .rw (rst := 0x80), fld 7 0 .rw (rst := 0x80)]⟩,
  -- TIME_STATUS
  ⟨0x1210004, [], [fld 31 24 .ro (rst := 0xf8), fld 10 10 .ro, fld 9 9 .ro, fld 8 8 .ro, fld 2 0 .ro]⟩,
  -- TIME_EVENT
  ⟨0x1210008, [], [fld 7 7 .w1c, fld 6 6 .w1c, fld 5 5 .w1c, fld 4 4 .w1c, fld 3 3 .w1c, fld 2 2 .w1c, fld 1 1 .w1c, fld 0 0 .w1c]⟩,
  -- TIME_SNAP
  ⟨0x121000c, [], [fld 0 0 .wo]⟩,
  -- TIME_SEC_LO
  ⟨0x1210010, [], [fld 31 0 .ro]⟩,
  -- TIME_SEC_HI
  ⟨0x1210014, [], [fld 15 0 .ro]⟩,
  -- TIME_NS
  ⟨0x1210018, [], [fld 31 0 .ro]⟩,
  -- TIME_FRAC
  ⟨0x121001c, [], [fld 15 0 .ro]⟩,
  -- TIME_CNT_LO
  ⟨0x1210020, [], [fld 31 0 .ro]⟩,
  -- TIME_CNT_HI
  ⟨0x1210024, [], [fld 31 0 .ro]⟩,
  -- TIME_RATE
  ⟨0x1210028, [], [fld 31 0 .rw]⟩,
  -- TIME_SET_SEC_LO
  ⟨0x121002c, [], [fld 31 0 .rw]⟩,
  -- TIME_SET_SEC_HI
  ⟨0x1210030, [], [fld 15 0 .rw]⟩,
  -- TIME_SET_NS
  ⟨0x1210034, [], [fld 31 0 .rw (mx := 999999999)]⟩,
  -- TIME_STEP
  ⟨0x1210038, [], [fld 0 0 .wo]⟩,
  -- TIME_KP
  ⟨0x1210040, [], [fld 31 0 .rw (rst := 0x3f000000)]⟩,
  -- TIME_KI
  ⟨0x1210044, [], [fld 31 0 .rw (rst := 0x3dcccccd)]⟩,
  -- TIME_SLEW
  ⟨0x1210048, [], [fld 31 16 .rw (rst := 0x64) (mn := 1) (mx := 1000), fld 15 0 .rw (rst := 0x64) (mn := 1)]⟩,
  -- TIME_HOLD_LIM
  ⟨0x121004c, [], [fld 31 16 .rw (rst := 0x5) (mn := 1) (mx := 3600), fld 15 0 .rw (rst := 0x3e8) (mn := 1)]⟩,
  -- TIME_OFFSET
  ⟨0x1210050, [], [fld 31 0 .ro]⟩,
  -- TIME_PDELAY
  ⟨0x1210054, [], [fld 31 0 .ro]⟩,
  -- TIME_GM_ID_LO
  ⟨0x1210058, [], [fld 31 0 .ro]⟩,
  -- TIME_GM_ID_HI
  ⟨0x121005c, [], [fld 31 0 .ro]⟩,
  -- TIME_UTC
  ⟨0x1210060, [], [fld 18 18 .ro, fld 17 17 .ro, fld 16 16 .ro, fld 15 0 .ro (rst := 0x25)]⟩ ]

/-- Rows 24 and on of the Time block, one per register word or indexed family of words. -/
def rowsTime1 : List RegRow := [
  -- TIME_TWIN_DIFF
  ⟨0x1210064, [], [fld 31 0 .ro]⟩,
  -- TIME_PPS_OUT
  ⟨0x1210070, [], [fld 31 31 .rw, fld 30 30 .rw, fld 18 0 .rw (rst := 0x186a0) (mn := 1) (mx := 500000)]⟩,
  -- TIME_OUT_OFS
  ⟨0x1210074, [], [fld 31 0 .rw]⟩,
  -- TIME_PPS_SEC
  ⟨0x1210078, [], [fld 31 0 .rw]⟩,
  -- TIME_IN_STAMP
  ⟨0x121007c, [], [fld 31 0 .ro]⟩,
  -- TIME_PPS_IN
  ⟨0x1210080, [], [fld 31 31 .rw, fld 30 30 .rw, fld 15 0 .rw]⟩,
  -- TIME_SYNC_RX
  ⟨0x1210090, [], [fld 31 0 .rc]⟩,
  -- TIME_ANN_RX
  ⟨0x1210094, [], [fld 31 0 .rc]⟩,
  -- TIME_PDELAY_TO
  ⟨0x1210098, [], [fld 31 0 .rc]⟩,
  -- TIME_TWO_STEP_RX
  ⟨0x121009c, [], [fld 31 0 .rc]⟩,
  -- TIME_PPS_MISS
  ⟨0x12100a0, [], [fld 31 0 .rc]⟩,
  -- TIME_OVF
  ⟨0x12100a4, [], [fld 4 0 .w1c]⟩ ]

/-- Every register row of the Time block. -/
def rowsTime : List RegRow := rowsTime0 ++ rowsTime1

/-- Rows 0 and on of the Can block, one per register word or indexed family of words. -/
def rowsCan0 : List RegRow := [
  -- CAN_B_CTRL
  ⟨0x1300000, [(0x10000, 2)], [fld 8 8 .wo, fld 1 1 .rw (rst := 0x1) (idle := true), fld 0 0 .rw]⟩,
  -- CAN_B_NBT
  ⟨0x1300004, [(0x10000, 2)], [fld 31 24 .rw (rst := 0x1) (idle := true), fld 23 16 .rw (rst := 0x3e) (mn := 1), fld 15 9 .rw (rst := 0xf), fld 8 2 .rw (rst := 0xf)]⟩,
  -- CAN_B_DBT
  ⟨0x1300008, [(0x10000, 2)], [fld 31 27 .rw (idle := true), fld 26 22 .rw (rst := 0x1e), fld 21 18 .rw (rst := 0x7), fld 17 14 .rw (rst := 0x7), fld 13 13 .rw (rst := 0x1), fld 12 6 .rw (rst := 0x20)]⟩,
  -- CAN_B_STATUS
  ⟨0x130000c, [(0x10000, 2)], [fld 31 24 .ro, fld 23 23 .ro, fld 22 16 .ro, fld 7 7 .ro, fld 2 0 .ro]⟩,
  -- CAN_B_EVENT
  ⟨0x1300010, [(0x10000, 2)], [fld 11 11 .w1c, fld 10 10 .w1c, fld 9 9 .w1c, fld 8 8 .w1c, fld 7 7 .w1c, fld 6 6 .w1c, fld 5 5 .w1c, fld 4 4 .w1c, fld 3 3 .w1c, fld 2 2 .w1c, fld 1 1 .w1c, fld 0 0 .w1c]⟩,
  -- CAN_B_ERRCFG
  ⟨0x1300014, [(0x10000, 2)], [fld 31 16 .rw (rst := 0x3e8) (mn := 10), fld 15 0 .rw (rst := 0x20) (mn := 1)]⟩,
  -- CAN_B_LEC
  ⟨0x1300018, [(0x10000, 2)], [fld 31 16 .ro, fld 3 3 .ro, fld 2 0 .ro]⟩,
  -- CAN_B_TX_OK
  ⟨0x1300020, [(0x10000, 2)], [fld 31 0 .rc]⟩,
  -- CAN_B_RX_OK
  ⟨0x1300024, [(0x10000, 2)], [fld 31 0 .rc]⟩,
  -- CAN_B_RX_UNMATCHED
  ⟨0x1300028, [(0x10000, 2)], [fld 31 0 .rc]⟩,
  -- CAN_B_MSG_LOST
  ⟨0x130002c, [(0x10000, 2)], [fld 31 0 .rc]⟩,
  -- CAN_B_ERRORS
  ⟨0x1300030, [(0x10000, 2)], [fld 31 0 .rc]⟩,
  -- CAN_B_ACK_ERR
  ⟨0x1300034, [(0x10000, 2)], [fld 31 0 .rc]⟩,
  -- CAN_B_BUS_OFF
  ⟨0x1300038, [(0x10000, 2)], [fld 31 0 .rc]⟩,
  -- CAN_B_PEX
  ⟨0x130003c, [(0x10000, 2)], [fld 31 0 .rc]⟩,
  -- CAN_B_REF_LATE
  ⟨0x1300040, [(0x10000, 2)], [fld 31 0 .rc]⟩,
  -- CAN_B_ISOTP_ERR
  ⟨0x1300044, [(0x10000, 2)], [fld 31 0 .rc]⟩,
  -- CAN_B_OVF
  ⟨0x1300048, [(0x10000, 2)], [fld 9 0 .w1c]⟩,
  -- CAN_B_OBJ_NEW
  ⟨0x1300050, [(0x10000, 2), (0x4, 4)], [fld 31 0 .ro]⟩,
  -- CAN_B_TXDONE
  ⟨0x1300060, [(0x10000, 2), (0x4, 4)], [fld 31 0 .w1c]⟩,
  -- CAN_B_HPF_ID
  ⟨0x1300080, [(0x10000, 2), (0x8, 8)], [fld 31 31 .rw, fld 29 29 .rw, fld 28 0 .rw]⟩,
  -- CAN_B_HPF_MASK
  ⟨0x1300084, [(0x10000, 2), (0x8, 8)], [fld 28 0 .rw]⟩,
  -- CAN_B_TM
  ⟨0x1300180, [(0x10000, 2)], [fld 31 31 .rw, fld 30 30 .rw, fld 29 29 .rw, fld 28 0 .rw]⟩,
  -- CAN_B_TM_PER
  ⟨0x1300184, [(0x10000, 2)], [fld 31 29 .rw (mx := 6), fld 15 0 .rw (rst := 0x3e8) (mn := 10)]⟩ ]

/-- Rows 24 and on of the Can block, one per register word or indexed family of words. -/
def rowsCan1 : List RegRow := [
  -- CAN_B_TM_STAMP
  ⟨0x1300188, [(0x10000, 2)], [fld 31 0 .ro]⟩,
  -- CAN_B_TM_STAT
  ⟨0x130018c, [(0x10000, 2)], [fld 13 8 .ro, fld 7 0 .ro]⟩,
  -- CAN_B_TM_PHASE
  ⟨0x1300190, [(0x10000, 2)], [fld 31 0 .rw]⟩,
  -- CAN_B_ECP_REQ
  ⟨0x13001c0, [(0x10000, 2), (0x8, 4)], [fld 31 31 .rw, fld 30 30 .rw, fld 29 29 .rw (rst := 0x1), fld 28 0 .rw]⟩,
  -- CAN_B_ECP_RSP
  ⟨0x13001c4, [(0x10000, 2), (0x8, 4)], [fld 28 0 .rw]⟩,
  -- CAN_B_TPT
  ⟨0x13001e0, [(0x10000, 2)], [fld 31 24 .rw, fld 23 16 .rw, fld 15 0 .rw (rst := 0x3e8) (mn := 1)]⟩,
  -- CAN_B_HPB_ID
  ⟨0x1300200, [(0x10000, 2)], [fld 31 31 .rw, fld 30 30 .rw, fld 29 29 .rw, fld 28 0 .rw]⟩,
  -- CAN_B_HPB_MASK
  ⟨0x1300204, [(0x10000, 2)], [fld 30 30 .rw, fld 29 29 .rw, fld 28 0 .rw]⟩,
  -- CAN_B_HPB_CTL
  ⟨0x1300208, [(0x10000, 2)], [fld 31 29 .ro, fld 28 28 .w1c, fld 27 27 .ro, fld 26 26 .ro, fld 25 25 .ro, fld 24 24 .rw, fld 23 23 .rw, fld 22 22 .rw, fld 19 16 .rw]⟩,
  -- CAN_B_HPB_STAMP_LO
  ⟨0x130020c, [(0x10000, 2)], [fld 31 0 .ro]⟩,
  -- CAN_B_HPB_STAMP_HI
  ⟨0x1300210, [(0x10000, 2)], [fld 7 0 .ro]⟩,
  -- CAN_B_HPB_CMD
  ⟨0x1300214, [(0x10000, 2)], [fld 1 1 .wo, fld 0 0 .wo]⟩,
  -- CAN_B_HPB_DATA
  ⟨0x1300240, [(0x10000, 2), (0x4, 16)], [fld 31 0 .rw]⟩,
  -- CAN_B_OBJ_ID
  ⟨0x1301000, [(0x10000, 2), (0x80, 128)], [fld 31 31 .rw, fld 30 30 .rw, fld 29 29 .rw, fld 28 0 .rw]⟩,
  -- CAN_B_OBJ_MASK
  ⟨0x1301004, [(0x10000, 2), (0x80, 128)], [fld 30 30 .rw, fld 29 29 .rw, fld 28 0 .rw]⟩,
  -- CAN_B_OBJ_CTL
  ⟨0x1301008, [(0x10000, 2), (0x80, 128)], [fld 31 29 .ro, fld 28 28 .w1c, fld 27 27 .ro, fld 26 26 .ro, fld 25 25 .ro, fld 24 24 .rw, fld 23 23 .rw, fld 22 22 .rw, fld 19 16 .rw]⟩,
  -- CAN_B_OBJ_STAMP_LO
  ⟨0x130100c, [(0x10000, 2), (0x80, 128)], [fld 31 0 .ro]⟩,
  -- CAN_B_OBJ_STAMP_HI
  ⟨0x1301010, [(0x10000, 2), (0x80, 128)], [fld 7 0 .ro]⟩,
  -- CAN_B_OBJ_CMD
  ⟨0x1301014, [(0x10000, 2), (0x80, 128)], [fld 1 1 .wo, fld 0 0 .wo]⟩,
  -- CAN_B_OBJ_DATA
  ⟨0x1301040, [(0x10000, 2), (0x80, 128), (0x4, 16)], [fld 31 0 .rw]⟩ ]

/-- Every register row of the Can block. -/
def rowsCan : List RegRow := rowsCan0 ++ rowsCan1

/-- Rows 0 and on of the Saf block, one per register word or indexed family of words. -/
def rowsSaf0 : List RegRow := [
  -- SAF_CTRL
  ⟨0x1400000, [], [fld 9 9 .wo, fld 8 8 .wo, fld 3 0 .wo]⟩,
  -- SAF_GCFG
  ⟨0x1400004, [], [fld 31 31 .rwl, fld 28 28 .rwl (rst := 0x1), fld 27 19 .rwl (mx := 168), fld 18 9 .rwl (mx := 1000)]⟩,
  -- SAF_OUTCFG
  ⟨0x1400008, [], [fld 31 16 .rwl (rst := 0x64) (mn := 10) (mx := 6000), fld 4 0 .rwl (rst := 0xa) (mn := 5) (mx := 25)]⟩,
  -- SAF_F_CFG
  ⟨0x1400010, [(0x4, 4)], [fld 31 31 .rwl, fld 30 30 .rwl, fld 29 29 .rwl, fld 28 25 .rwl (rst := 0x2) (mn := 1) (mx := 10), fld 24 16 .rwl (rst := 0xa) (mn := 1) (mx := 300), fld 3 3 .rwl (rst := 0x1), fld 2 2 .rwl (rst := 0x1), fld 1 1 .rwl (rst := 0x1), fld 0 0 .rwl (rst := 0x1)]⟩,
  -- SAF_STATUS
  ⟨0x1400020, [], [fld 31 31 .ro, fld 30 30 .ro, fld 29 29 .ro, fld 28 28 .ro, fld 27 27 .ro (rst := 0x1), fld 26 26 .ro (rst := 0x1), fld 25 25 .ro (rst := 0x1), fld 24 24 .ro, fld 23 16 .ro, fld 14 12 .ro, fld 10 8 .ro, fld 6 4 .ro, fld 2 0 .ro]⟩,
  -- SAF_EVENT
  ⟨0x1400024, [], [fld 9 9 .w1c, fld 8 8 .w1c, fld 7 7 .w1c, fld 6 6 .w1c, fld 5 5 .w1c, fld 4 4 .w1c, fld 3 3 .w1c, fld 2 2 .w1c, fld 1 1 .w1c, fld 0 0 .w1c]⟩,
  -- SAF_OUT
  ⟨0x1400028, [], [fld 25 24 .ro, fld 23 20 .ro, fld 19 16 .ro, fld 15 0 .ro]⟩,
  -- SAF_PEND_ADDR
  ⟨0x1400030, [], [fld 31 0 .ro]⟩,
  -- SAF_PEND_VAL
  ⟨0x1400034, [], [fld 31 0 .ro]⟩,
  -- SAF_PEND_CODE
  ⟨0x1400038, [], [fld 31 16 .ro, fld 15 0 .ro]⟩,
  -- SAF_CONFIRM
  ⟨0x140003c, [], [fld 15 0 .wo]⟩,
  -- SAF_PCRC
  ⟨0x1400040, [], [fld 31 0 .ro]⟩,
  -- SAF_PCRC_LOCK
  ⟨0x1400044, [], [fld 31 0 .ro]⟩,
  -- SAF_DEMANDS
  ⟨0x1400050, [(0x4, 4)], [fld 31 0 .rc]⟩,
  -- SAF_DISC
  ⟨0x1400060, [], [fld 31 0 .rc]⟩,
  -- SAF_OUT_FAULTS
  ⟨0x1400064, [], [fld 31 0 .rc]⟩,
  -- SAF_OVF
  ⟨0x1400068, [], [fld 5 0 .w1c]⟩,
  -- SAF_F_LAST
  ⟨0x1400070, [(0x4, 4)], [fld 31 0 .ro]⟩,
  -- SAF_OSC
  ⟨0x1400080, [], [fld 15 0 .ro]⟩ ]

/-- Every register row of the Saf block. -/
def rowsSaf : List RegRow := rowsSaf0

/-- Rows 0 and on of the Hst block, one per register word or indexed family of words. -/
def rowsHst0 : List RegRow := [
  -- HST_G_CFG
  ⟨0x1500000, [], [fld 31 16 .rw (rst := 0x64) (mn := 50) (mx := 10000)]⟩,
  -- HST_G_STATUS
  ⟨0x1500004, [], [fld 31 24 .ro, fld 2 2 .ro, fld 1 1 .ro]⟩,
  -- HST_OWNER
  ⟨0x1500008, [], [fld 14 12 .ro (rst := 0x7), fld 11 9 .ro (rst := 0x7), fld 8 6 .ro (rst := 0x7), fld 5 3 .ro (rst := 0x7), fld 2 0 .ro (rst := 0x7)]⟩,
  -- HST_CHANGES
  ⟨0x150000c, [], [fld 6 0 .ro]⟩,
  -- HST_SER
  ⟨0x1500010, [], [fld 31 0 .rc]⟩,
  -- HST_G_OVF
  ⟨0x1500014, [], [fld 0 0 .w1c]⟩,
  -- HST_H_CFG
  ⟨0x1500100, [(0x40, 4)], [fld 31 31 .rw, fld 30 27 .rw, fld 26 24 .ro, fld 23 16 .rw (mn := 1), fld 6 0 .rw (rst := 0x7f)]⟩,
  -- HST_H_STATE
  ⟨0x1500104, [(0x40, 4)], [fld 26 22 .ro, fld 21 16 .ro, fld 13 8 .ro (rst := 0x20), fld 1 1 .ro, fld 0 0 .ro]⟩,
  -- HST_H_HIGH_CTR
  ⟨0x1500108, [(0x40, 4)], [fld 31 0 .ro]⟩,
  -- HST_H_EVENT
  ⟨0x150010c, [(0x40, 4)], [fld 5 5 .w1c, fld 4 4 .w1c, fld 3 3 .w1c, fld 2 2 .w1c, fld 1 1 .w1c, fld 0 0 .w1c]⟩,
  -- HST_H_DEV_RESULT
  ⟨0x1500110, [(0x40, 4)], [fld 31 16 .ro, fld 7 0 .ro]⟩,
  -- HST_H_COMMANDS
  ⟨0x1500114, [(0x40, 4)], [fld 31 0 .rc]⟩,
  -- HST_H_AUTH_FAIL
  ⟨0x1500118, [(0x40, 4)], [fld 31 0 .rc]⟩,
  -- HST_H_REPLAY
  ⟨0x150011c, [(0x40, 4)], [fld 31 0 .rc]⟩,
  -- HST_H_QUEUE_FULL
  ⟨0x1500120, [(0x40, 4)], [fld 31 0 .rc]⟩,
  -- HST_H_DEFERRED
  ⟨0x1500124, [(0x40, 4)], [fld 31 0 .rc]⟩,
  -- HST_H_OVF
  ⟨0x1500128, [(0x40, 4)], [fld 4 0 .w1c]⟩ ]

/-- Every register row of the Hst block. -/
def rowsHst : List RegRow := rowsHst0

/-- Rows 0 and on of the Stq block, one per register word or indexed family of words. -/
def rowsStq0 : List RegRow := [
  -- STQ_ALLOC
  ⟨0x1600000, [], [fld 8 0 .ro]⟩,
  -- STQ_Q_CFG
  ⟨0x1600100, [(0x40, 6)], [fld 31 31 .rw, fld 30 29 .rw (mx := 2), fld 23 16 .rw (rst := 0x4) (mn := 1) (mx := 64), fld 15 0 .rw (rst := 0x64)]⟩,
  -- STQ_Q_MARKS
  ⟨0x1600104, [(0x40, 6)], [fld 31 16 .rw (rst := 0x100), fld 15 0 .rw]⟩,
  -- STQ_Q_CUT
  ⟨0x1600108, [(0x40, 6)], [fld 6 0 .rw (mx := 80)]⟩,
  -- STQ_Q_DEST_IP
  ⟨0x160010c, [(0x40, 6)], [fld 31 0 .rw]⟩,
  -- STQ_Q_DEST
  ⟨0x1600110, [(0x40, 6)], [fld 17 16 .rw, fld 15 0 .rw]⟩,
  -- STQ_Q_STATUS
  ⟨0x1600114, [(0x40, 6)], [fld 31 16 .ro, fld 4 4 .ro, fld 3 3 .ro (rst := 0x1), fld 2 2 .ro (rst := 0x1), fld 1 1 .ro, fld 0 0 .ro]⟩,
  -- STQ_Q_EVENT
  ⟨0x1600118, [(0x40, 6)], [fld 5 5 .w1c, fld 4 4 .w1c, fld 3 3 .w1c, fld 2 2 .w1c, fld 1 1 .w1c, fld 0 0 .w1c]⟩,
  -- STQ_Q_SEQ
  ⟨0x160011c, [(0x40, 6)], [fld 31 0 .ro]⟩,
  -- STQ_Q_WORDS_OUT
  ⟨0x1600120, [(0x40, 6)], [fld 31 0 .rc]⟩,
  -- STQ_Q_UNITS_DROPPED
  ⟨0x1600124, [(0x40, 6)], [fld 31 0 .rc]⟩,
  -- STQ_Q_POISON
  ⟨0x1600128, [(0x40, 6)], [fld 31 0 .rc]⟩,
  -- STQ_Q_FLUSHES
  ⟨0x160012c, [(0x40, 6)], [fld 31 0 .rc]⟩,
  -- STQ_Q_DISCARDED
  ⟨0x1600130, [(0x40, 6)], [fld 31 0 .rc]⟩,
  -- STQ_Q_OVF
  ⟨0x1600134, [(0x40, 6)], [fld 4 0 .w1c]⟩,
  -- STQ_Q_DGRAM
  ⟨0x1600138, [(0x40, 6)], [fld 31 0 .ro]⟩ ]

/-- Every register row of the Stq block. -/
def rowsStq : List RegRow := rowsStq0

/-- Rows 0 and on of the Twn block, one per register word or indexed family of words. -/
def rowsTwn0 : List RegRow := [
  -- TWN_CTRL
  ⟨0x1700000, [], [fld 2 2 .wo, fld 1 1 .wo, fld 0 0 .wo]⟩,
  -- TWN_CFG
  ⟨0x1700004, [], [fld 31 22 .rw (rst := 0x18) (mx := 720), fld 21 6 .rw (rst := 0x3c) (mn := 1), fld 0 0 .rw (rst := 0x1)]⟩,
  -- TWN_STATE
  ⟨0x1700008, [], [fld 31 28 .ro, fld 27 24 .ro, fld 15 15 .ro, fld 14 14 .ro, fld 13 13 .ro, fld 12 12 .ro, fld 11 11 .ro, fld 10 10 .ro, fld 9 9 .ro, fld 8 8 .ro, fld 6 4 .ro, fld 2 0 .ro]⟩,
  -- TWN_CLAIM
  ⟨0x170000c, [], [fld 31 0 .ro]⟩,
  -- TWN_CLAIM_OTHER
  ⟨0x1700010, [], [fld 31 0 .ro]⟩,
  -- TWN_EPOCH_RES
  ⟨0x1700014, [], [fld 31 0 .ro]⟩,
  -- TWN_EPOCH_BASE
  ⟨0x1700018, [], [fld 30 0 .rwl]⟩,
  -- TWN_EVENT
  ⟨0x170001c, [], [fld 11 11 .w1c, fld 10 10 .w1c, fld 9 9 .w1c, fld 8 8 .w1c, fld 7 7 .w1c, fld 6 6 .w1c, fld 5 5 .w1c, fld 4 4 .w1c, fld 3 3 .w1c, fld 2 2 .w1c, fld 1 1 .w1c, fld 0 0 .w1c]⟩,
  -- TWN_OVERRUNS
  ⟨0x1700020, [], [fld 31 0 .rc]⟩,
  -- TWN_MISMATCH
  ⟨0x1700024, [], [fld 31 0 .rc]⟩,
  -- TWN_TAKEOVERS
  ⟨0x1700028, [], [fld 31 0 .rc]⟩,
  -- TWN_ROTATIONS
  ⟨0x170002c, [], [fld 31 0 .rc]⟩,
  -- TWN_DISCREPANCY
  ⟨0x1700030, [], [fld 31 0 .rc]⟩,
  -- TWN_HB_MISS
  ⟨0x1700034, [], [fld 31 0 .rc]⟩,
  -- TWN_ROT_POSTPONED
  ⟨0x1700038, [], [fld 31 0 .rc]⟩,
  -- TWN_OVF
  ⟨0x170003c, [], [fld 6 0 .w1c]⟩,
  -- TWN_DIS_NODE
  ⟨0x1700040, [(0x4, 8)], [fld 31 31 .ro, fld 30 30 .ro, fld 29 24 .ro, fld 11 0 .ro]⟩,
  -- TWN_DIS_CYCLE
  ⟨0x1700060, [], [fld 31 0 .ro]⟩,
  -- TWN_DIGEST_LO
  ⟨0x1700064, [], [fld 31 0 .ro]⟩,
  -- TWN_DIGEST_HI
  ⟨0x1700068, [], [fld 31 0 .ro]⟩,
  -- TWN_ST_RESULT
  ⟨0x170006c, [], [fld 31 16 .ro, fld 1 1 .ro, fld 0 0 .ro]⟩,
  -- TWN_DISC_LAST
  ⟨0x1700070, [], [fld 31 31 .ro, fld 8 0 .ro]⟩,
  -- TWN_CELL_TOL
  ⟨0x1700074, [], [fld 31 0 .rw (rst := 0x3c23d70a)]⟩ ]

/-- Every register row of the Twn block. -/
def rowsTwn : List RegRow := rowsTwn0

/-- Rows 0 and on of the Drv block, one per register word or indexed family of words. -/
def rowsDrv0 : List RegRow := [
  -- DRV_CTRL
  ⟨0x1800000, [], [fld 2 2 .wo, fld 1 1 .wo, fld 0 0 .rw]⟩,
  -- DRV_CFG
  ⟨0x1800004, [], [fld 27 25 .rw (mx := 5) (idle := true), fld 24 22 .rw (rst := 0x1) (mx := 5) (idle := true), fld 21 19 .rw (rst := 0x7) (idle := true), fld 9 8 .rw (rst := 0x1) (mn := 1) (idle := true), fld 7 7 .rw, fld 6 6 .rw (rst := 0x1), fld 5 5 .rw (idle := true), fld 2 0 .rw (idle := true)]⟩,
  -- DRV_STATUS
  ⟨0x1800008, [], [fld 7 7 .ro, fld 6 6 .ro, fld 5 5 .ro, fld 4 4 .ro, fld 2 0 .ro]⟩,
  -- DRV_EVENT
  ⟨0x180000c, [], [fld 8 8 .w1c, fld 7 7 .w1c, fld 6 6 .w1c, fld 5 5 .w1c, fld 4 4 .w1c, fld 3 3 .w1c, fld 2 2 .w1c, fld 1 1 .w1c, fld 0 0 .w1c]⟩,
  -- DRV_SPILLS
  ⟨0x1800010, [], [fld 31 0 .rc]⟩,
  -- DRV_SPILL_TRIPS
  ⟨0x1800014, [], [fld 31 0 .rc]⟩,
  -- DRV_OVF
  ⟨0x1800018, [], [fld 1 0 .w1c]⟩,
  -- DRV_REGEN_LIM
  ⟨0x180001c, [], [fld 31 0 .ro (rst := 0x3f800000)]⟩,
  -- DRV_SPILL_RET
  ⟨0x1800020, [], [fld 31 0 .ro]⟩,
  -- DRV_VCH_LO
  ⟨0x1800040, [], [fld 31 0 .rw (rst := 0x7f800000)]⟩,
  -- DRV_VCH_HI
  ⟨0x1800044, [], [fld 31 0 .rw (rst := 0x7f800000)]⟩,
  -- DRV_V_S4
  ⟨0x1800048, [], [fld 31 0 .rw (rst := 0x7f800000)]⟩,
  -- DRV_V_TRIP
  ⟨0x180004c, [], [fld 31 0 .rw (rst := 0x7f800000)]⟩,
  -- DRV_ICH_MIN
  ⟨0x1800050, [], [fld 31 0 .rw]⟩,
  -- DRV_RGN_RAMP
  ⟨0x1800054, [], [fld 31 0 .rw (rst := 0x3dcccccd)]⟩,
  -- DRV_RET_P
  ⟨0x1800058, [], [fld 31 0 .rw]⟩,
  -- DRV_SPL_T1
  ⟨0x180005c, [], [fld 31 16 .rw (rst := 0x14), fld 15 0 .rw (rst := 0x32)]⟩,
  -- DRV_SPL_T2
  ⟨0x1800060, [], [fld 31 16 .rw (rst := 0xc8), fld 15 0 .rw (rst := 0x64)]⟩,
  -- DRV_CH_PERIOD
  ⟨0x1800064, [], [fld 31 0 .rw (rst := 0x30d40)]⟩,
  -- DRV_DIS_TIME
  ⟨0x1800080, [], [fld 31 16 .rw (rst := 0x7d0) (mn := 100) (mx := 10000), fld 15 0 .rw (rst := 0x64) (mn := 1)]⟩,
  -- DRV_DIS_KEEP
  ⟨0x1800084, [], [fld 8 8 .rw, fld 6 0 .rw (rst := 0x64) (mn := 1) (mx := 100)]⟩,
  -- DRV_DIS_PERIOD
  ⟨0x1800088, [], [fld 31 0 .rw (rst := 0x186a00)]⟩,
  -- DRV_D_CTRL
  ⟨0x1800100, [(0x100, 2)], [fld 2 2 .rw (idle := true), fld 1 1 .rw (idle := true), fld 0 0 .rw]⟩,
  -- DRV_D_STATE
  ⟨0x1800104, [(0x100, 2)], [fld 12 12 .ro, fld 11 11 .ro, fld 10 10 .ro, fld 7 4 .ro, fld 2 0 .ro]⟩ ]

/-- Rows 24 and on of the Drv block, one per register word or indexed family of words. -/
def rowsDrv1 : List RegRow := [
  -- DRV_D_EVENT
  ⟨0x1800108, [(0x100, 2)], [fld 5 5 .w1c, fld 4 4 .w1c, fld 3 3 .w1c, fld 2 2 .w1c, fld 1 1 .w1c, fld 0 0 .w1c]⟩,
  -- DRV_D_OBS_LOSSES
  ⟨0x180010c, [(0x100, 2)], [fld 31 0 .rc]⟩,
  -- DRV_D_ASCS
  ⟨0x1800110, [(0x100, 2)], [fld 31 0 .rc]⟩,
  -- DRV_D_CATCHES
  ⟨0x1800114, [(0x100, 2)], [fld 31 0 .rc]⟩,
  -- DRV_D_TMON_VIOL
  ⟨0x1800118, [(0x100, 2)], [fld 31 0 .rc]⟩,
  -- DRV_D_OVF
  ⟨0x180011c, [(0x100, 2)], [fld 3 0 .w1c]⟩,
  -- DRV_D_W_HELD
  ⟨0x1800120, [(0x100, 2)], [fld 31 0 .ro]⟩,
  -- DRV_D_W_ASC
  ⟨0x1800124, [(0x100, 2)], [fld 31 0 .ro (rst := 0x7f800000)]⟩,
  -- DRV_D_T_MON
  ⟨0x1800128, [(0x100, 2)], [fld 31 0 .ro]⟩,
  -- DRV_D_TQ_SCALE
  ⟨0x180012c, [(0x100, 2)], [fld 31 0 .ro]⟩,
  -- DRV_D_VDC_MIN
  ⟨0x1800130, [(0x100, 2)], [fld 31 0 .rw (rst := 0x7f800000)]⟩,
  -- DRV_D_TQ_RAMP
  ⟨0x1800134, [(0x100, 2)], [fld 31 0 .rw (rst := 0x3f800000)]⟩,
  -- DRV_D_XO_WLO
  ⟨0x1800138, [(0x100, 2)], [fld 31 0 .rw]⟩,
  -- DRV_D_XO_WHI
  ⟨0x180013c, [(0x100, 2)], [fld 31 0 .rw (rst := 0x7f7fffff)]⟩,
  -- DRV_D_PSIM
  ⟨0x1800140, [(0x100, 2)], [fld 31 0 .rw (rst := 0x3f800000)]⟩,
  -- DRV_D_LS
  ⟨0x1800144, [(0x100, 2)], [fld 31 0 .rw]⟩,
  -- DRV_D_ASC_VLIM
  ⟨0x1800148, [(0x100, 2)], [fld 31 0 .rw]⟩,
  -- DRV_D_ASC_MARGIN
  ⟨0x180014c, [(0x100, 2)], [fld 31 0 .rw (rst := 0x3f733333)]⟩,
  -- DRV_D_ASC_HYST
  ⟨0x1800150, [(0x100, 2)], [fld 31 0 .rw (rst := 0x3dcccccd)]⟩,
  -- DRV_D_ASC_IMIN
  ⟨0x1800154, [(0x100, 2)], [fld 31 0 .rw]⟩,
  -- DRV_D_RES_THR
  ⟨0x1800158, [(0x100, 2)], [fld 31 0 .rw (rst := 0x3e4ccccd)]⟩,
  -- DRV_D_EPS_THR
  ⟨0x180015c, [(0x100, 2)], [fld 31 0 .rw (rst := 0x3f060a92)]⟩,
  -- DRV_D_WPLAUS
  ⟨0x1800160, [(0x100, 2)], [fld 31 0 .rw (rst := 0x7f7fffff)]⟩,
  -- DRV_D_CATCH_EMIN
  ⟨0x1800164, [(0x100, 2)], [fld 31 0 .rw (rst := 0x41a00000)]⟩ ]

/-- Rows 48 and on of the Drv block, one per register word or indexed family of words. -/
def rowsDrv2 : List RegRow := [
  -- DRV_D_CATCH_TOL
  ⟨0x1800168, [(0x100, 2)], [fld 31 0 .rw (rst := 0x3e800000)]⟩,
  -- DRV_D_VPOL
  ⟨0x180016c, [(0x100, 2)], [fld 31 0 .rw]⟩,
  -- DRV_D_SRCH_FMAX
  ⟨0x1800170, [(0x100, 2)], [fld 31 0 .rw]⟩,
  -- DRV_D_SRCH_RATE
  ⟨0x1800174, [(0x100, 2)], [fld 31 0 .rw]⟩,
  -- DRV_D_SRCH_I
  ⟨0x1800178, [(0x100, 2)], [fld 31 0 .rw]⟩,
  -- DRV_D_SRCH_PTH
  ⟨0x180017c, [(0x100, 2)], [fld 31 0 .rw]⟩,
  -- DRV_D_TIMING1
  ⟨0x1800180, [(0x100, 2)], [fld 31 16 .rw (rst := 0x14) (mn := 2) (mx := 1000), fld 15 8 .rw (rst := 0x8) (mn := 1), fld 2 0 .rw (rst := 0x2)]⟩,
  -- DRV_D_TIMING2
  ⟨0x1800184, [(0x100, 2)], [fld 31 16 .rw (rst := 0x64), fld 15 0 .rw (rst := 0xc8) (mn := 10) (mx := 10000)]⟩,
  -- DRV_D_KT
  ⟨0x1800190, [(0x100, 2)], [fld 31 0 .rwl]⟩,
  -- DRV_D_RS
  ⟨0x1800194, [(0x100, 2)], [fld 31 0 .rwl]⟩,
  -- DRV_D_TAU
  ⟨0x1800198, [(0x100, 2)], [fld 31 0 .rwl (rst := 0x3e4ccccd) (mn := 1)]⟩,
  -- DRV_D_TOL_ABS
  ⟨0x180019c, [(0x100, 2)], [fld 31 0 .rwl]⟩,
  -- DRV_D_TOL_REL
  ⟨0x18001a0, [(0x100, 2)], [fld 31 0 .rwl (rst := 0x3e4ccccd)]⟩,
  -- DRV_D_TC
  ⟨0x18001a4, [(0x100, 2)], [fld 31 0 .rwl (rst := 0x3c23d70a)]⟩,
  -- DRV_D_WMIN
  ⟨0x18001a8, [(0x100, 2)], [fld 31 0 .rwl (rst := 0x7f7fffff)]⟩,
  -- DRV_D_ILIM
  ⟨0x18001ac, [(0x100, 2)], [fld 31 0 .rwl (rst := 0x7f7fffff)]⟩,
  -- DRV_D_TMON_SRC
  ⟨0x18001b0, [(0x100, 2)], [fld 27 16 .rwl (rst := 0x14) (mn := 1), fld 15 15 .rwl, fld 11 8 .rwl, fld 7 4 .rwl, fld 3 0 .rwl]⟩,
  -- DRV_D_TMON_ADC
  ⟨0x18001b4, [(0x100, 2)], [fld 5 4 .rwl, fld 3 2 .rwl, fld 1 0 .rwl]⟩,
  -- DRV_ENC_CFG
  ⟨0x1800400, [], [fld 31 31 .rw, fld 30 30 .rw (idle := true), fld 29 28 .rw (mx := 2) (idle := true), fld 23 0 .rw (rst := 0x1000) (mn := 4) (idle := true)]⟩,
  -- DRV_ENC_OFS
  ⟨0x1800404, [], [fld 31 0 .rw]⟩,
  -- DRV_ENC_COUNT
  ⟨0x1800408, [], [fld 31 0 .ro]⟩,
  -- DRV_ENC_INDEX
  ⟨0x180040c, [], [fld 31 0 .ro]⟩,
  -- DRV_ENC_STATUS
  ⟨0x1800410, [], [fld 4 2 .ro, fld 1 1 .ro, fld 0 0 .ro]⟩,
  -- DRV_HALL_CFG
  ⟨0x1800414, [], [fld 31 31 .rw, fld 17 0 .rw (rst := 0x1d850) (idle := true)]⟩ ]

/-- Rows 72 and on of the Drv block, one per register word or indexed family of words. -/
def rowsDrv3 : List RegRow := [
  -- DRV_HALL_OFS
  ⟨0x1800418, [], [fld 31 0 .rw]⟩,
  -- DRV_HALL_STATUS
  ⟨0x180041c, [], [fld 6 4 .ro, fld 2 0 .ro]⟩,
  -- DRV_ENC_ERR
  ⟨0x1800420, [], [fld 31 0 .rc]⟩,
  -- DRV_HALL_ERR
  ⟨0x1800424, [], [fld 31 0 .rc]⟩,
  -- DRV_POS_OVF
  ⟨0x1800428, [], [fld 1 0 .w1c]⟩,
  -- DRV_POS_EVENT
  ⟨0x180042c, [], [fld 2 2 .w1c, fld 1 1 .w1c, fld 0 0 .w1c]⟩,
  -- DRV_GPIO_DIR
  ⟨0x1800430, [], [fld 11 0 .rw]⟩,
  -- DRV_GPIO_OUT
  ⟨0x1800434, [], [fld 11 0 .rw]⟩,
  -- DRV_GPIO_IN
  ⟨0x1800438, [], [fld 11 0 .ro]⟩ ]

/-- Every register row of the Drv block. -/
def rowsDrv : List RegRow := rowsDrv0 ++ rowsDrv1 ++ rowsDrv2 ++ rowsDrv3

/-- Rows 0 and on of the Hlt block, one per register word or indexed family of words. -/
def rowsHlt0 : List RegRow := [
  -- HLT_CTRL
  ⟨0x1900000, [], [fld 31 16 .rw (rst := 0x1) (mn := 1), fld 0 0 .wo]⟩,
  -- HLT_SUMMARY
  ⟨0x1900004, [], [fld 16 16 .ro, fld 15 8 .ro, fld 1 0 .ro]⟩,
  -- HLT_COVER
  ⟨0x1900008, [], [fld 31 24 .ro, fld 23 16 .ro, fld 15 8 .ro, fld 7 0 .ro]⟩,
  -- HLT_ECC_CORR
  ⟨0x190000c, [], [fld 31 0 .rc]⟩,
  -- HLT_ECC_UNCORR
  ⟨0x1900010, [], [fld 31 0 .rc]⟩,
  -- HLT_LANE
  ⟨0x1900014, [], [fld 31 24 .ro, fld 23 16 .ro, fld 15 0 .ro]⟩,
  -- HLT_REG
  ⟨0x1900018, [], [fld 31 16 .ro, fld 15 0 .ro]⟩,
  -- HLT_SLACK
  ⟨0x190001c, [], [fld 31 0 .ro]⟩,
  -- HLT_GD
  ⟨0x1900020, [], [fld 31 16 .ro, fld 15 0 .ro]⟩,
  -- HLT_EVENT
  ⟨0x1900024, [], [fld 0 0 .w1c]⟩,
  -- HLT_ADC_DRIFT
  ⟨0x1900030, [(0x4, 4)], [fld 31 16 .ro, fld 15 0 .ro]⟩,
  -- HLT_THR
  ⟨0x1900040, [], [fld 31 24 .rw (rst := 0x5f), fld 23 16 .rw (rst := 0x5a), fld 15 8 .rw (rst := 0x96), fld 7 0 .rw (rst := 0xc8)]⟩,
  -- HLT_CELL_CAP_REL
  ⟨0x1901000, [(0x10, 192)], [fld 31 0 .ro (rst := 0x3f800000)]⟩,
  -- HLT_CELL_ESR_REL
  ⟨0x1901004, [(0x10, 192)], [fld 31 0 .ro (rst := 0x3f800000)]⟩,
  -- HLT_CELL_DMG_HI
  ⟨0x1901008, [(0x10, 192)], [fld 31 0 .ro]⟩,
  -- HLT_CELL_GRADE
  ⟨0x190100c, [(0x10, 192)], [fld 7 4 .ro, fld 1 0 .ro]⟩ ]

/-- Every register row of the Hlt block. -/
def rowsHlt : List RegRow := rowsHlt0

/-- The register blocks of each twin by base address (R14): each extends up to the next base. -/
def regBlocks : List (Nat × List RegRow) := [
  (0x1900000, rowsHlt),
  (0x1800000, rowsDrv),
  (0x1700000, rowsTwn),
  (0x1600000, rowsStq),
  (0x1500000, rowsHst),
  (0x1400000, rowsSaf),
  (0x1300000, rowsCan),
  (0x1210000, rowsTime),
  (0x1200000, rowsNet),
  (0x1100000, rowsAdc),
  (0x1020000, rowsTrip),
  (0x1010000, rowsGd),
  (0x1000000, rowsPwm),
  (0x800000, rowsNeg),
  (0x400000, rowsLaw),
  (0x300000, rowsCell),
  (0x200000, rowsArr),
  (0x100000, rowsTrb),
  (0x10000, rowsClkPwr),
  (0x0, rowsSys) ]

/-- The rows of the block that address `a` lies in (R14). -/
def blockRows (a : Nat) : List RegRow :=
  match regBlocks.find? (fun b => decide (b.1 ≤ a)) with
  | some b => b.2
  | none => []

/-- The register row of a word address; none for a reserved address (R14). -/
def findRow (a : Nat) : Option RegRow := (blockRows a).find? (fun r => rowHas r a)

/-- Reset words that one row's fields cannot give, because they differ by index: STQ_Q5_CFG.SINK is 0b10, and the
leave costs of PWR_SLU_COSTo are those of the Sluice table (R443). DESIGN CHOICE, unsafe: log entry 10. -/
def resetSpecial : List (Nat × Nat) := [(0x1600240, 0x40040064), (0x38, 0x40404040), (0x10130, 1200), (0x10134, 1400),
  (0x10138, 600), (0x1013C, 300), (0x10140, 400), (0x10144, 250), (0x10148, 350), (0x1014C, 500)]

/-- The value of a register word at reset; 0 at a reserved address (R12). -/
def resetWord (a : Nat) : W32 :=
  match resetSpecial.find? (fun p => p.1 == a) with
  | some p => BitVec.ofNat 32 p.2
  | none =>
    match findRow a with
    | some r => rowReset r
    | none => 0#32

end Sys2Proof
end

