-- ==== Sys2Proof/Machine/RegNames.lean ====
section
/-! DEFINITION. Names of the register words and fields that the meanings use: the address with every index 0, and
the bits, from the register tables of the spec. -/

namespace Sys2Proof

/-- A field of a register word: the word's address and its bits. -/
structure Fld where
  addr : Nat
  hi : Nat
  lo : Nat
deriving DecidableEq, Repr

namespace R

def SYS_ID_DIE_REV : Fld := ⟨0x0, 15, 8⟩
def SYS_ID_PE_REV : Fld := ⟨0x0, 7, 0⟩
def SYS_CTRL : Nat := 0x4
def SYS_CTRL_SAFELIGHT : Fld := ⟨0x4, 0, 0⟩
def SYS_STATUS_CAUSE : Fld := ⟨0x8, 31, 28⟩
def SYS_STATUS_CFG : Fld := ⟨0x8, 27, 24⟩
def SYS_STATUS_SLOT : Fld := ⟨0x8, 23, 20⟩
def SYS_STATUS_TRIAL : Fld := ⟨0x8, 19, 16⟩
def SYS_STATUS_BOOT_FAIL : Fld := ⟨0x8, 2, 2⟩
def SYS_STATUS_SAFELIGHT : Fld := ⟨0x8, 1, 1⟩
def SYS_STATUS_LIFE : Fld := ⟨0x8, 0, 0⟩
def SYS_EVENT : Nat := 0xc
def SYS_EVENT_MP_WDT : Fld := ⟨0xc, 2, 2⟩
def SYS_EVENT_BOOT_FALLBACK : Fld := ⟨0xc, 1, 1⟩
def SYS_VERCNT : Nat := 0x10
def SYS_VERSION : Nat := 0x20
def SYS_LIFE : Nat := 0x30
def SYS_KEYREV : Nat := 0x34
def SYS_KEYREV_OWNER : Fld := ⟨0x34, 7, 4⟩
def SYS_KEYREV_BEYLOS : Fld := ⟨0x34, 3, 0⟩
def SYS_ADV_LEFT : Nat := 0x38
def SYS_RESETS : Nat := 0x3c
def SYS_BOOT_MS_BOOT_MS : Fld := ⟨0x40, 15, 0⟩
def SYS_OVF : Nat := 0x44
def CLK_STATUS : Nat := 0x10000
def CLK_STATUS_RAMPING : Fld := ⟨0x10000, 7, 7⟩
def CLK_STATUS_MP_RC : Fld := ⟨0x10000, 6, 6⟩
def CLK_STATUS_XTAL : Fld := ⟨0x10000, 5, 5⟩
def CLK_STATUS_LOCK : Fld := ⟨0x10000, 4, 0⟩
def CLK_EVENT : Nat := 0x10004
def CLK_EVENT_RAMP_ABORT : Fld := ⟨0x10004, 5, 5⟩
def CLK_EVENT_UNLOCK : Fld := ⟨0x10004, 4, 0⟩
def CLK_LT_SPREAD : Nat := 0x1000c
def CLK_SYS : Nat := 0x10010
def CLK_MP_FREQ : Nat := 0x10014
def CLK_RAMP_CTRL : Nat := 0x10018
def CLK_RAMP_CTRL_NPTS : Fld := ⟨0x10018, 3, 0⟩
def CLK_RAMP : Nat := 0x10020
def CLK_RAMP_TARGET : Fld := ⟨0x10020, 31, 23⟩
def CLK_RAMP_HOLD : Fld := ⟨0x10020, 15, 0⟩
def CLK_RAMP_SLOPE : Fld := ⟨0x10020, 22, 16⟩
def CLK_XING_UNSETTLED : Nat := 0x10040
def CLK_XING_DROPPED_AT_RESET : Nat := 0x10044
def PWR_STATUS : Nat := 0x10100
def PWR_STATUS_ORDERLY_DONE : Fld := ⟨0x10100, 9, 9⟩
def PWR_STATUS_XTAL_FAIL : Fld := ⟨0x10100, 8, 8⟩
def PWR_STATUS_GOOD : Fld := ⟨0x10100, 7, 0⟩
def PWR_EVENT : Nat := 0x10104
def PWR_EVENT_SLU_GRANT : Fld := ⟨0x10104, 3, 3⟩
def PWR_EVENT_SLU_TIMEOUT : Fld := ⟨0x10104, 2, 2⟩
def PWR_EVENT_SLACK_LOW : Fld := ⟨0x10104, 1, 1⟩
def PWR_EVENT_PFAIL : Fld := ⟨0x10104, 0, 0⟩
def PWR_VCORE : Nat := 0x1010c
def PWR_VCORE_MODE : Fld := ⟨0x1010c, 31, 31⟩
def PWR_VCORE_FIXED : Fld := ⟨0x1010c, 25, 16⟩
def PWR_VCORE_SETPOINT : Fld := ⟨0x1010c, 9, 0⟩
def PWR_SLACK_TGT : Fld := ⟨0x10110, 31, 16⟩
def PWR_SLACK_SLACK : Fld := ⟨0x10110, 15, 0⟩
def PWR_MEAS : Nat := 0x10114
def PWR_MEAS_VIN : Fld := ⟨0x10114, 31, 16⟩
def PWR_MEAS_TDIE : Fld := ⟨0x10114, 15, 0⟩
def PWR_SLU_CFG : Nat := 0x10120
def PWR_SLU_CFG_HEADROOM : Fld := ⟨0x10120, 31, 16⟩
def PWR_SLU_STATUS_IN_USE : Fld := ⟨0x10124, 31, 16⟩
def PWR_SLU_STATUS_QUEUED : Fld := ⟨0x10124, 15, 8⟩
def PWR_SLU_STATUS_ACTIVE : Fld := ⟨0x10124, 7, 0⟩
def PWR_SLU_LAST : Nat := 0x10128
def PWR_WAITS : Nat := 0x10150
def PWR_TIMEOUTS : Nat := 0x10154
def TRB_CFG_FIBRE : Fld := ⟨0x100000, 25, 16⟩
def TRB_CFG_RATE : Fld := ⟨0x100000, 1, 0⟩
def TRB_EQ : Nat := 0x100004
def TRB_CTRL : Nat := 0x100008
def TRB_STATE_NCFG : Fld := ⟨0x10000c, 31, 24⟩
def TRB_STATE_NLOCK : Fld := ⟨0x10000c, 23, 16⟩
def TRB_STATE_WRAP_POS : Fld := ⟨0x10000c, 15, 12⟩
def TRB_STATE_WRAPPED : Fld := ⟨0x10000c, 11, 11⟩
def TRB_STATE_RX_SYNC : Fld := ⟨0x10000c, 10, 10⟩
def TRB_STATE_RING : Fld := ⟨0x10000c, 2, 0⟩
def TRB_EVENT : Nat := 0x100010
def TRB_EVENT_CLOSURE : Fld := ⟨0x100010, 8, 8⟩
def TRB_EVENT_PROBE_STALE : Fld := ⟨0x100010, 7, 7⟩
def TRB_EVENT_WRAP : Fld := ⟨0x100010, 6, 6⟩
def TRB_EVENT_CAPS : Fld := ⟨0x100010, 5, 5⟩
def TRB_EVENT_MISWIRE : Fld := ⟨0x100010, 4, 4⟩
def TRB_EVENT_START_FAIL : Fld := ⟨0x100010, 3, 3⟩
def TRB_EVENT_LOS : Fld := ⟨0x100010, 2, 2⟩
def TRB_EVENT_READY : Fld := ⟨0x100010, 1, 1⟩
def TRB_EVENT_DOWN : Fld := ⟨0x100010, 0, 0⟩
def TRB_TFIB : Nat := 0x100014
def TRB_LASTHOP : Nat := 0x100018
def TRB_CLOSURE : Nat := 0x10001c
def TRB_ASYM_FIRST : Nat := 0x100020
def TRB_ASYM_LAST : Nat := 0x100024
def TRB_TX_FRAMES : Nat := 0x100040
def TRB_RX_OK : Nat := 0x100044
def TRB_RX_CODE : Nat := 0x100048
def TRB_RX_HCRC : Nat := 0x10004c
def TRB_RX_FCRC : Nat := 0x100050
def TRB_RX_MISSING : Nat := 0x100054
def TRB_SLOT_UNWRITTEN : Nat := 0x100058
def TRB_SLOT_CRC : Nat := 0x10005c
def TRB_EYE : Nat := 0x100064
def TRB_POS_BUILDER_ID : Nat := 0x100100
def TRB_POS_SERIAL_LO : Nat := 0x100104
def TRB_POS_SERIAL_HI : Nat := 0x100108
def TRB_POS_FW_VERSION : Nat := 0x10010c
def TRB_POS_CAPS : Nat := 0x100110
def TRB_POS_STATUS : Nat := 0x100114
def TRB_POS_LINK_DLY : Nat := 0x100118
def TRB_POS_TIME_OFS_TIME_OFS : Fld := ⟨0x10011c, 15, 0⟩
def TRB_POS_CRCERR : Nat := 0x100120
def TRB_POS_MISS : Nat := 0x100124
def TRB_POS_SLOTCRC : Nat := 0x100128
def TRB_GCFG_CLOSURE_LIM : Fld := ⟨0x10f000, 7, 0⟩
def ARR_CTRL : Nat := 0x200000
def ARR_CTRL_TOPO : Fld := ⟨0x200000, 7, 5⟩
def ARR_CTRL_BAL_EN : Fld := ⟨0x200000, 4, 4⟩
def ARR_CTRL_ROT_EN : Fld := ⟨0x200000, 3, 3⟩
def ARR_CTRL_WEAR_EN : Fld := ⟨0x200000, 2, 2⟩
def ARR_CTRL_EST_EN : Fld := ⟨0x200000, 1, 1⟩
def ARR_CTRL_ENABLE : Fld := ⟨0x200000, 0, 0⟩
def ARR_CYCLE_LEN : Fld := ⟨0x200004, 8, 0⟩
def ARR_ORIGIN_S : Nat := 0x200008
def ARR_ORIGIN_SH : Nat := 0x20000c
def ARR_ORIGIN_NS : Nat := 0x200010
def ARR_TIMING_GUARD : Fld := ⟨0x200014, 15, 8⟩
def ARR_TIMING_CMDLOSS : Fld := ⟨0x200014, 2, 0⟩
def ARR_BUDGET_MIN_LEN : Fld := ⟨0x200018, 24, 16⟩
def ARR_BUDGET_RG0_TIME : Fld := ⟨0x200018, 15, 0⟩
def ARR_STATUS : Nat := 0x20001c
def ARR_STATUS_DERATED : Fld := ⟨0x20001c, 13, 8⟩
def ARR_STATUS_BLOCKED : Fld := ⟨0x20001c, 1, 1⟩
def ARR_STATUS_RUNNING : Fld := ⟨0x20001c, 0, 0⟩
def ARR_EVENT : Nat := 0x200020
def ARR_EVENT_BELOW_NMIN : Fld := ⟨0x200020, 8, 8⟩
def ARR_EVENT_BUDGET : Fld := ⟨0x200020, 7, 7⟩
def ARR_EVENT_WEAR_SAVE : Fld := ⟨0x200020, 6, 6⟩
def ARR_EVENT_BYPASS_UNCONFIRMED : Fld := ⟨0x200020, 5, 5⟩
def ARR_EVENT_SPARE_EXHAUSTED : Fld := ⟨0x200020, 4, 4⟩
def ARR_EVENT_STRING_DERATED : Fld := ⟨0x200020, 3, 3⟩
def ARR_EVENT_INSERT_TIMEOUT : Fld := ⟨0x200020, 2, 2⟩
def ARR_EVENT_CELL_BYPASSED : Fld := ⟨0x200020, 1, 1⟩
def ARR_EVENT_CELL_LOST : Fld := ⟨0x200020, 0, 0⟩
def ARR_PLAUS_DEV_CYCLES : Fld := ⟨0x200030, 31, 24⟩
def ARR_PLAUS_DEV_PCT : Fld := ⟨0x200030, 23, 16⟩
def ARR_OXB_CONFIRM : Fld := ⟨0x200034, 15, 8⟩
def ARR_OXB_SPARE_POLICY : Fld := ⟨0x200034, 1, 0⟩
def ARR_INS_RAMP : Nat := 0x200040
def ARR_INS_CFG_INS_TOL : Fld := ⟨0x200044, 15, 8⟩
def ARR_INS_CFG_INS_KEEP_EN : Fld := ⟨0x200044, 2, 2⟩
def ARR_INS_CFG_INS_SRC : Fld := ⟨0x200044, 1, 0⟩
def ARR_INS_TRIMLIM : Nat := 0x200048
def ARR_INS_KEEP : Nat := 0x200050
def ARR_TH_CFG_TH_DIV : Fld := ⟨0x200060, 9, 0⟩
def ARR_DMG_A : Nat := 0x200064
def ARR_DMG_ALPHA : Nat := 0x200068
def ARR_DMG_BETA : Nat := 0x20006c
def ARR_DMG_DTMIN : Nat := 0x200070
def ARR_RF_HYST : Nat := 0x200074
def ARR_EST_CFG_EST_TAU : Fld := ⟨0x200078, 31, 16⟩
def ARR_EST_CFG_EST_IMIN : Fld := ⟨0x200078, 15, 0⟩
def ARR_S_CFG_ROT_K : Fld := ⟨0x200100, 31, 16⟩
def ARR_S_CFG_NMIN : Fld := ⟨0x200100, 15, 8⟩
def ARR_S_CFG_ROT_MODE : Fld := ⟨0x200100, 1, 0⟩
def ARR_S_CARRIER : Nat := 0x200104
def ARR_S_CARRIER_TTRI : Fld := ⟨0x200104, 31, 0⟩
def ARR_S_MINPULSE_MINP : Fld := ⟨0x200108, 15, 0⟩
def ARR_S_ISO : Nat := 0x20010c
def ARR_S_ISO_PHMAX : Fld := ⟨0x20010c, 21, 12⟩
def ARR_S_VREQ_VREQ_WIN : Fld := ⟨0x200110, 31, 16⟩
def ARR_S_VREQ_MARGIN : Fld := ⟨0x200110, 7, 0⟩
def ARR_S_VNOM : Nat := 0x200114
def ARR_S_BAL_GAIN : Nat := 0x200118
def ARR_S_BAL_LIM : Nat := 0x20011c
def ARR_S_BAL_IDB : Nat := 0x200120
def ARR_S_WEAR_GAIN : Nat := 0x200124
def ARR_S_WEAR_LIM : Nat := 0x200128
def ARR_S_MMAX : Nat := 0x20012c
def ARR_S_STATUS_NSPARE : Fld := ⟨0x200130, 23, 16⟩
def ARR_S_STATUS_NINS : Fld := ⟨0x200130, 15, 8⟩
def ARR_S_STATUS_NACT : Fld := ⟨0x200130, 7, 0⟩
def ARR_S_DERATE : Nat := 0x200134
def ARR_S_POSTPONED : Nat := 0x200138
def ARR_MAP : Nat := 0x201000
def CELL_CTRL : Nat := 0x300000
def CELL_STATE_CAUSE : Fld := ⟨0x300004, 31, 24⟩
def CELL_STATE_RANK : Fld := ⟨0x300004, 21, 16⟩
def CELL_STATE_STATE : Fld := ⟨0x300004, 3, 0⟩
def CELL_VCAP : Nat := 0x300008
def CELL_IARM : Nat := 0x30000c
def CELL_TEMP1 : Nat := 0x300010
def CELL_TEMP2 : Nat := 0x300014
def CELL_TJ : Nat := 0x300018
def CELL_MREF : Nat := 0x30001c
def CELL_WEIGHT : Nat := 0x300020
def CELL_CAP : Nat := 0x300024
def CELL_ESR : Nat := 0x300028
def CELL_EST_STALE : Fld := ⟨0x30002c, 1, 1⟩
def CELL_EST_VALID : Fld := ⟨0x30002c, 0, 0⟩
def CELL_DAMAGE_LO : Nat := 0x300030
def CELL_DAMAGE_HI : Nat := 0x300034
def CELL_TCYCLES : Nat := 0x300038
def CELL_LATE : Nat := 0x30003c
def CELL_EDGE_TRIM_RISE : Fld := ⟨0x300040, 31, 16⟩
def CELL_EDGE_TRIM_FALL : Fld := ⟨0x300040, 15, 0⟩
def CELL_PHASE_TRIM : Nat := 0x300044
def CELL_A_COND : Nat := 0x300048
def CELL_B_COND : Nat := 0x30004c
def CELL_C_SW : Nat := 0x300050
def CELL_D_SW : Nat := 0x300054
def CELL_RTH1 : Nat := 0x300058
def CELL_TAU1 : Nat := 0x30005c
def CELL_RTH2 : Nat := 0x300060
def CELL_TAU2 : Nat := 0x300064
def CELL_VMAX : Nat := 0x300068
def CELL_VMIN : Nat := 0x30006c
def CELL_TMAX : Nat := 0x300070
def LAW_CTRL : Nat := 0x400000
def LAW_IMAGE : Nat := 0x400004
def LAW_BUILD : Nat := 0x400008
def LAW_HASH : Nat := 0x40000c
def LAW_STATUS_ENGINES : Fld := ⟨0x400010, 23, 20⟩
def LAW_STATUS_SCHED : Fld := ⟨0x400010, 19, 16⟩
def LAW_STATUS_RG_PRESENT : Fld := ⟨0x400010, 15, 12⟩
def LAW_STATUS_RUNNING : Fld := ⟨0x400010, 11, 8⟩
def LAW_STATUS_SWAP_PENDING : Fld := ⟨0x400010, 1, 1⟩
def LAW_STATUS_IMAGE_VALID : Fld := ⟨0x400010, 0, 0⟩
def LAW_EVENT : Nat := 0x400014
def LAW_EVENT_IMAGE_REFUSED : Fld := ⟨0x400014, 8, 8⟩
def LAW_EVENT_SCHED_CHANGED : Fld := ⟨0x400014, 7, 7⟩
def LAW_EVENT_HANDOVER_FORCED : Fld := ⟨0x400014, 6, 6⟩
def LAW_EVENT_SWAP_DONE : Fld := ⟨0x400014, 5, 5⟩
def LAW_EVENT_BLOCK_FAULT : Fld := ⟨0x400014, 4, 4⟩
def LAW_EVENT_OVR_RG : Fld := ⟨0x400014, 3, 0⟩
def LAW_FAULT : Nat := 0x400018
def LAW_FAULT_VALID : Fld := ⟨0x400018, 31, 31⟩
def LAW_FAULT_LAST : Fld := ⟨0x400018, 27, 16⟩
def LAW_FAULT_FIRST : Fld := ⟨0x400018, 11, 0⟩
def LAW_REFUSE_REFUSE : Fld := ⟨0x40001c, 7, 0⟩
def LAW_RG_CFG : Nat := 0x400040
def LAW_RG_DEADLINE : Nat := 0x400044
def LAW_RG_TIME_STATED : Fld := ⟨0x400048, 31, 16⟩
def LAW_RG_TIME_MEASURED : Fld := ⟨0x400048, 15, 0⟩
def LAW_RG_OVR : Nat := 0x40004c
def LAW_RG_PH : Nat := 0x400080
def LAW_SWAP_MAP : Nat := 0x400100
def LAW_NODE : Nat := 0x480000
def LAW_BLK_HDR : Nat := 0x500000
def LAW_BLK_STATUS_NAN : Fld := ⟨0x500004, 15, 15⟩
def LAW_BLK_STATUS_SAT : Fld := ⟨0x500004, 14, 14⟩
def LAW_BLK_STATUS_LATCH : Fld := ⟨0x500004, 13, 13⟩
def LAW_BLK_STATUS_TRACKING : Fld := ⟨0x500004, 12, 12⟩
def LAW_BLK_STATUS_PHASE : Fld := ⟨0x500004, 11, 10⟩
def LAW_BLK_STATUS_ACTIVE : Fld := ⟨0x500004, 9, 8⟩
def LAW_BLK_STATUS_TARGET : Fld := ⟨0x500004, 7, 6⟩
def LAW_BLK_STATE : Nat := 0x500020
def LAW_BLK_DEV : Nat := 0x500040
def LAW_BLK_LAT : Nat := 0x500080
def NEG_CTRL : Nat := 0x800000
def NEG_EVENT : Nat := 0x800008
def NEG_EVENT_GAP : Fld := ⟨0x800008, 7, 4⟩
def NEG_EVENT_FROZEN : Fld := ⟨0x800008, 3, 0⟩
def NEG_RATE : Nat := 0x80000c
def NEG_EVT : Nat := 0x800010
def NEG_EVT_EVT : Fld := ⟨0x800010, 10, 0⟩
def NEG_EXP_CFG : Nat := 0x800100
def NEG_EXP_CFG_SRC : Fld := ⟨0x800100, 31, 29⟩
def NEG_EXP_CFG_DECIM : Fld := ⟨0x800100, 15, 0⟩
def NEG_EXP_REGION : Nat := 0x800104
def NEG_EXP_REGION_BASE : Fld := ⟨0x800104, 31, 16⟩
def NEG_EXP_REGION_SIZE : Fld := ⟨0x800104, 15, 0⟩
def NEG_EXP_PRE : Nat := 0x800108
def NEG_EXP_POST : Nat := 0x80010c
def NEG_EXP_TRIG_KIND : Fld := ⟨0x800110, 31, 28⟩
def NEG_EXP_TRIG_NODE : Fld := ⟨0x800110, 11, 0⟩
def NEG_EXP_LEVEL : Nat := 0x800114
def NEG_EXP_EVENTS : Nat := 0x800118
def NEG_EXP_EVENTS_EVENTS : Fld := ⟨0x800118, 31, 0⟩
def NEG_EXP_STATUS_PRE_SHORT : Fld := ⟨0x80011c, 4, 4⟩
def NEG_EXP_STATUS_STATE : Fld := ⟨0x80011c, 2, 0⟩
def NEG_EXP_FIRST : Nat := 0x800120
def NEG_EXP_FIXROW : Nat := 0x800124
def NEG_EXP_ROWS : Nat := 0x800128
def NEG_EXP_FIXTIME_S : Nat := 0x80012c
def NEG_EXP_FIXTIME_NS : Nat := 0x800130
def NEG_EXP_ROWSIZE_ROWSIZE : Fld := ⟨0x800134, 15, 0⟩
def NEG_PROBE : Nat := 0x801000
def NEG_PROBE_EN : Fld := ⟨0x801000, 31, 31⟩
def NEG_PROBE_EXP : Fld := ⟨0x801000, 30, 29⟩
def NEG_PROBE_KIND : Fld := ⟨0x801000, 28, 26⟩
def NEG_PROBE_INDEX : Fld := ⟨0x801000, 15, 0⟩
def PWM_GCFG : Nat := 0x1000000
def PWM_GCFG_DT_LOCK : Fld := ⟨0x1000000, 0, 0⟩
def PWM_EVENT : Nat := 0x1000004
def PWM_EVENT_CLAMPED : Fld := ⟨0x1000004, 23, 16⟩
def PWM_EVENT_REPLACED : Fld := ⟨0x1000004, 15, 8⟩
def PWM_EVENT_LATE : Fld := ⟨0x1000004, 7, 0⟩
def PWM_P_CFG : Nat := 0x1000100
def PWM_P_CFG_CARRIER : Fld := ⟨0x1000100, 31, 31⟩
def PWM_P_CFG_INDEP : Fld := ⟨0x1000100, 30, 30⟩
def PWM_P_CFG_RELOAD : Fld := ⟨0x1000100, 29, 28⟩
def PWM_P_CFG_RLD_DIV : Fld := ⟨0x1000100, 27, 24⟩
def PWM_P_CFG_SLEW : Fld := ⟨0x1000100, 23, 22⟩
def PWM_P_CFG_POL_A : Fld := ⟨0x1000100, 21, 21⟩
def PWM_P_CFG_POL_B : Fld := ⟨0x1000100, 20, 20⟩
def PWM_P_CFG_MINP : Fld := ⟨0x1000100, 19, 12⟩
def PWM_P_START_S : Nat := 0x1000108
def PWM_P_START_NS_START_NS : Fld := ⟨0x100010c, 29, 0⟩
def PWM_P_START_SUB_START_SUB : Fld := ⟨0x1000110, 3, 0⟩
def PWM_P_PERIOD : Nat := 0x1000114
def PWM_P_CMPA : Nat := 0x1000118
def PWM_P_CMPB : Nat := 0x100011c
def PWM_P_PHASE : Nat := 0x1000120
def PWM_P_CMPX : Nat := 0x1000124
def PWM_P_CTRL : Nat := 0x1000134
def PWM_P_RLD_DEV_SEQ : Fld := ⟨0x1000138, 31, 16⟩
def PWM_P_RLD_LATE : Fld := ⟨0x1000138, 1, 1⟩
def PWM_P_RLD_PENDING : Fld := ⟨0x1000138, 0, 0⟩
def PWM_P_FORCE : Nat := 0x100013c
def PWM_P_FORCE_AT_BOUNDARY : Fld := ⟨0x100013c, 4, 4⟩
def PWM_P_FORCE_FB : Fld := ⟨0x100013c, 3, 2⟩
def PWM_P_FORCE_FA : Fld := ⟨0x100013c, 1, 0⟩
def PWM_P_DEV : Nat := 0x1000140
def PWM_P_LATE : Nat := 0x1000150
def PWM_P_REPLACED : Nat := 0x1000154
def PWM_P_STATUS_RLD_SEQ : Fld := ⟨0x100015c, 31, 16⟩
def PWM_P_STATUS_TRIPPED : Fld := ⟨0x100015c, 4, 4⟩
def PWM_P_STATUS_RUNNING : Fld := ⟨0x100015c, 3, 3⟩
def PWM_P_STATUS_FORCED : Fld := ⟨0x100015c, 2, 2⟩
def PWM_P_STATUS_A_ON : Fld := ⟨0x100015c, 1, 1⟩
def PWM_P_STATUS_B_ON : Fld := ⟨0x100015c, 0, 0⟩
def GD_EVENT : Nat := 0x1010000
def GD_EVENT_SOFT : Fld := ⟨0x1010000, 23, 16⟩
def GD_EVENT_UVLO : Fld := ⟨0x1010000, 15, 8⟩
def GD_EVENT_BST : Fld := ⟨0x1010000, 1, 0⟩
def GD_DIAG_CTRL : Nat := 0x1010004
def GD_DIAG_CTRL_ITEST : Fld := ⟨0x1010004, 17, 16⟩
def GD_DIAG_CTRL_MASK : Fld := ⟨0x1010004, 15, 0⟩
def GD_DIAG_STATUS_ABORTED : Fld := ⟨0x1010008, 2, 2⟩
def GD_DIAG_STATUS_DONE : Fld := ⟨0x1010008, 1, 1⟩
def GD_DIAG_STATUS_BUSY : Fld := ⟨0x1010008, 0, 0⟩
def GD_DIAG_RES : Nat := 0x101000c
def GD_GPB : Nat := 0x1010010
def GD_GPB_PERIOD : Fld := ⟨0x1010010, 31, 16⟩
def GD_GPB_SS : Fld := ⟨0x1010010, 15, 8⟩
def GD_GPB_BRIDGE : Fld := ⟨0x1010010, 2, 2⟩
def GD_GPB_RUN : Fld := ⟨0x1010010, 1, 1⟩
def GD_GPB_STOPPED : Fld := ⟨0x1010010, 0, 0⟩
def GD_P_CFG : Nat := 0x1010100
def GD_P_CFG_SRC : Fld := ⟨0x1010100, 31, 30⟩
def GD_P_CFG_PPAIR : Fld := ⟨0x1010100, 29, 27⟩
def GD_P_CFG_DT : Fld := ⟨0x1010100, 26, 24⟩
def GD_P_DRIVE : Nat := 0x1010104
def GD_P_DRIVE_ISRC_B : Fld := ⟨0x1010104, 31, 27⟩
def GD_P_DRIVE_ISNK_B : Fld := ⟨0x1010104, 26, 22⟩
def GD_P_DRIVE_ISRC_A : Fld := ⟨0x1010104, 21, 17⟩
def GD_P_DRIVE_ISNK_A : Fld := ⟨0x1010104, 16, 12⟩
def GD_P_DRIVE_SOFT : Fld := ⟨0x1010104, 11, 7⟩
def GD_P_UVLO : Nat := 0x1010108
def GD_P_UVLO_VDRVN : Fld := ⟨0x1010108, 23, 16⟩
def GD_P_GEN_PERIOD : Nat := 0x101010c
def GD_P_GEN_ON : Nat := 0x1010110
def GD_P_RMAX_A : Nat := 0x1010118
def GD_P_RMAX_B : Nat := 0x101011c
def GD_P_STATUS_UV_P : Fld := ⟨0x1010120, 5, 5⟩
def GD_P_STATUS_UV_N : Fld := ⟨0x1010120, 4, 4⟩
def GD_P_STATUS_UV_BST : Fld := ⟨0x1010120, 3, 3⟩
def GD_P_STATUS_SOFT_ACTIVE : Fld := ⟨0x1010120, 2, 2⟩
def GD_P_STATUS_A_ON : Fld := ⟨0x1010120, 1, 1⟩
def GD_P_STATUS_B_ON : Fld := ⟨0x1010120, 0, 0⟩
def GD_P_UVLO_CNT : Nat := 0x1010124
def TRIP_GCFG : Nat := 0x1020000
def TRIP_GCFG_LOCK : Fld := ⟨0x1020000, 0, 0⟩
def TRIP_IN : Nat := 0x1020010
def TRIP_IN_EN : Fld := ⟨0x1020010, 31, 31⟩
def TRIP_IN_GDMASK : Fld := ⟨0x1020010, 15, 8⟩
def TRIP_IN_PWMMASK : Fld := ⟨0x1020010, 7, 0⟩
def TRIP_STATE_PWM : Nat := 0x1020030
def TRIP_STATE_GD : Nat := 0x1020034
def TRIP_DSN : Nat := 0x1020040
def TRIP_DSN_TARGET : Fld := ⟨0x1020040, 7, 7⟩
def TRIP_DSN_EN : Fld := ⟨0x1020040, 6, 6⟩
def TRIP_DSN_GROUP : Nat := 0x1020044
def TRIP_DSN_GROUP_GROUP : Fld := ⟨0x1020044, 7, 0⟩
def TRIP_LATCH_SC : Fld := ⟨0x1020080, 23, 16⟩
def TRIP_LATCH_EARLY : Fld := ⟨0x1020080, 15, 8⟩
def TRIP_LATCH_IN : Fld := ⟨0x1020080, 7, 0⟩
def TRIP_PAIRS_GD_PAIRS : Fld := ⟨0x1020084, 15, 8⟩
def TRIP_PAIRS_PWM_PAIRS : Fld := ⟨0x1020084, 7, 0⟩
def TRIP_CLEAR : Nat := 0x1020088
def TRIP_EVENT : Nat := 0x102008c
def TRIP_EVENT_CLEAR_REFUSED : Fld := ⟨0x102008c, 25, 25⟩
def TRIP_EVENT_SIDE_DIFF : Fld := ⟨0x102008c, 24, 24⟩
def TRIP_EVENT_SC : Fld := ⟨0x102008c, 23, 16⟩
def TRIP_EVENT_EARLY_CLEARED : Fld := ⟨0x102008c, 15, 8⟩
def TRIP_EVENT_IN : Fld := ⟨0x102008c, 7, 0⟩
def TRIP_IN_CNT : Nat := 0x1020090
def TRIP_SC_CNT : Nat := 0x10200b0
def TRIP_LIVE_DSN_ABOVE : Fld := ⟨0x10200d4, 15, 8⟩
def TRIP_LIVE_IN_ACTIVE : Fld := ⟨0x10200d4, 7, 0⟩
def ADC_GCFG : Nat := 0x1100000
def ADC_GCFG_ALIGN : Fld := ⟨0x1100000, 10, 0⟩
def ADC_GCFG_REFCHK : Fld := ⟨0x1100000, 15, 15⟩
def ADC_GCFG_AVG_EN : Fld := ⟨0x1100000, 14, 14⟩
def ADC_STATUS_AD_UNLOCK : Fld := ⟨0x1100004, 24, 24⟩
def ADC_STATUS_REMAPPED : Fld := ⟨0x1100004, 23, 20⟩
def ADC_STATUS_FAILED : Fld := ⟨0x1100004, 19, 16⟩
def ADC_STATUS_INJ_BUSY : Fld := ⟨0x1100004, 15, 12⟩
def ADC_STATUS_REG_BUSY : Fld := ⟨0x1100004, 11, 8⟩
def ADC_STATUS_ENABLED : Fld := ⟨0x1100004, 3, 0⟩
def ADC_EVENT : Nat := 0x1100008
def ADC_EVENT_WIN : Fld := ⟨0x1100008, 31, 28⟩
def ADC_EVENT_TRIG_OVR : Fld := ⟨0x1100008, 27, 24⟩
def ADC_EVENT_DISCARD : Fld := ⟨0x1100008, 23, 20⟩
def ADC_EVENT_FAILED : Fld := ⟨0x1100008, 19, 16⟩
def ADC_EVENT_AD_UNLOCK : Fld := ⟨0x1100008, 4, 4⟩
def ADC_EVENT_AVG_OFF : Fld := ⟨0x1100008, 3, 3⟩
def ADC_EVENT_CAL_FAIL : Fld := ⟨0x1100008, 2, 2⟩
def ADC_EVENT_CAL_DONE : Fld := ⟨0x1100008, 1, 1⟩
def ADC_WIN_LAST_CONV : Fld := ⟨0x110000c, 7, 6⟩
def ADC_WIN_LAST_ENTRY : Fld := ⟨0x110000c, 4, 0⟩
def ADC_CAL_CTRL : Nat := 0x1100010
def ADC_CAL_CTRL_MASK : Fld := ⟨0x1100010, 23, 20⟩
def ADC_CAL_CTRL_INPUT : Fld := ⟨0x1100010, 4, 0⟩
def ADC_CAL_TGT_FULL : Fld := ⟨0x1100014, 31, 16⟩
def ADC_CAL_TGT_ZERO : Fld := ⟨0x1100014, 15, 0⟩
def ADC_CAL_STATUS_RESULT : Fld := ⟨0x1100018, 7, 4⟩
def ADC_CAL_STATUS_PENDING : Fld := ⟨0x1100018, 3, 3⟩
def ADC_CAL_STATUS_HAVE_ZERO : Fld := ⟨0x1100018, 2, 2⟩
def ADC_CAL_STATUS_BUSY : Fld := ⟨0x1100018, 1, 1⟩
def ADC_SKEW : Nat := 0x110001c
def ADC_SKEW_SKEW3 : Fld := ⟨0x110001c, 31, 16⟩
def ADC_SKEW_SKEW1 : Fld := ⟨0x110001c, 15, 0⟩
def ADC_TESTV_MODE : Fld := ⟨0x1100020, 31, 31⟩
def ADC_REF_TOL_TOL : Fld := ⟨0x1100024, 15, 0⟩
def ADC_C_CTRL : Nat := 0x1100100
def ADC_C_CTRL_INJ_EN : Fld := ⟨0x1100100, 1, 1⟩
def ADC_C_CTRL_EN : Fld := ⟨0x1100100, 0, 0⟩
def ADC_C_RCFG : Nat := 0x1100104
def ADC_C_RCFG_SRC : Fld := ⟨0x1100104, 31, 29⟩
def ADC_C_RCFG_PAIR : Fld := ⟨0x1100104, 28, 26⟩
def ADC_C_RCFG_CMP : Fld := ⟨0x1100104, 25, 24⟩
def ADC_C_RCFG_BIND : Fld := ⟨0x1100104, 23, 21⟩
def ADC_C_RCFG_INTERLEAVE : Fld := ⟨0x1100104, 20, 20⟩
def ADC_C_RCFG_DIV : Fld := ⟨0x1100104, 19, 16⟩
def ADC_C_RCFG_LEN : Fld := ⟨0x1100104, 4, 0⟩
def ADC_C_RDLY_BURST : Fld := ⟨0x1100108, 31, 16⟩
def ADC_C_RDLY_DELAY : Fld := ⟨0x1100108, 15, 0⟩
def ADC_C_ICFG : Nat := 0x1100110
def ADC_C_ICFG_SRC : Fld := ⟨0x1100110, 31, 29⟩
def ADC_C_ICFG_PAIR : Fld := ⟨0x1100110, 28, 26⟩
def ADC_C_ICFG_CMP : Fld := ⟨0x1100110, 25, 24⟩
def ADC_C_ICFG_DIV : Fld := ⟨0x1100110, 19, 16⟩
def ADC_C_ICFG_BIND : Fld := ⟨0x1100110, 23, 21⟩
def ADC_C_TIMER_TPER : Fld := ⟨0x110010c, 15, 0⟩
def ADC_C_IDLY_DELAY : Fld := ⟨0x1100114, 15, 0⟩
def ADC_C_ICFG_LEN : Fld := ⟨0x1100110, 1, 0⟩
def ADC_C_R_STAMP_LO : Nat := 0x1100118
def ADC_C_R_RUNS_R_RUNS : Fld := ⟨0x110011c, 31, 16⟩
def ADC_C_R_RUNS_R_STAMP_HI : Fld := ⟨0x110011c, 7, 0⟩
def ADC_C_I_STAMP_LO : Nat := 0x1100120
def ADC_C_I_RUNS_I_RUNS : Fld := ⟨0x1100124, 31, 16⟩
def ADC_C_I_RUNS_I_STAMP_HI : Fld := ⟨0x1100124, 7, 0⟩
def ADC_C_TRIG_OVR : Nat := 0x1100128
def ADC_C_DISCARDS : Nat := 0x110012c
def ADC_C_REG : Nat := 0x1100140
def ADC_C_INJ : Nat := 0x1100180
def ADC_C_RES : Nat := 0x1100190
def ADC_C_CHK : Nat := 0x11001e0
def ADC_C_WIN : Nat := 0x1100200
def ADC_C_WHYST_WHYST : Fld := ⟨0x1100250, 15, 0⟩
def ADC_C_SCALE : Nat := 0x1100260
def ADC_C_OFS : Nat := 0x1100264
def ADC_CAL : Nat := 0x1101000
def NET_CTRL : Nat := 0x1200000
def NET_CTRL_EN : Fld := ⟨0x1200000, 0, 0⟩
def NET_CFG : Nat := 0x1200004
def NET_CFG_MODE : Fld := ⟨0x1200004, 1, 0⟩
def NET_MAC_LO : Nat := 0x1200008
def NET_MAC_HI_MAC_HI : Fld := ⟨0x120000c, 15, 0⟩
def NET_IP : Nat := 0x1200010
def NET_MASK : Nat := 0x1200014
def NET_GW : Nat := 0x1200018
def NET_STATUS_RING_OPEN : Fld := ⟨0x1200020, 20, 20⟩
def NET_STATUS_LAN_B : Fld := ⟨0x1200020, 19, 16⟩
def NET_STATUS_LAN_A : Fld := ⟨0x1200020, 15, 12⟩
def NET_STATUS_DD_USED : Fld := ⟨0x1200020, 11, 0⟩
def NET_EVENT : Nat := 0x1200024
def NET_EVENT_GOOSE_LAYOUT : Fld := ⟨0x1200024, 8, 8⟩
def NET_EVENT_GOOSE_LOST : Fld := ⟨0x1200024, 7, 7⟩
def NET_EVENT_SV_LOST : Fld := ⟨0x1200024, 6, 6⟩
def NET_EVENT_DD_EVICT : Fld := ⟨0x1200024, 5, 5⟩
def NET_EVENT_RING_OPEN : Fld := ⟨0x1200024, 4, 4⟩
def NET_EVENT_SPEED : Fld := ⟨0x1200024, 3, 3⟩
def NET_EVENT_LINK_DOWN : Fld := ⟨0x1200024, 2, 2⟩
def NET_EVENT_PORT_RETURN : Fld := ⟨0x1200024, 1, 1⟩
def NET_EVENT_PORT_TAKEOVER : Fld := ⟨0x1200024, 0, 0⟩
def NET_DD_DUP : Nat := 0x1200030
def NET_DD_OOW : Nat := 0x1200034
def NET_DD_EVICT : Nat := 0x1200038
def NET_RX_FILTERED : Nat := 0x120003c
def NET_IP_DROP : Nat := 0x1200040
def NET_ECP_PORT : Fld := ⟨0x120001c, 15, 0⟩
def NET_P_CFG : Nat := 0x1200100
def NET_P_CFG_SGMII : Fld := ⟨0x1200100, 31, 31⟩
def NET_P_STATUS_SERVING : Fld := ⟨0x1200104, 3, 3⟩
def NET_P_STATUS_AN_DONE : Fld := ⟨0x1200104, 2, 2⟩
def NET_P_STATUS_SYNC : Fld := ⟨0x1200104, 1, 1⟩
def NET_P_STATUS_LINK : Fld := ⟨0x1200104, 0, 0⟩
def NET_P_RX_OK : Nat := 0x1200108
def NET_P_RX_FCS : Nat := 0x120010c
def NET_P_RX_LEN : Nat := 0x1200110
def NET_P_TX_OK : Nat := 0x1200114
def NET_P_RX_CODE : Nat := 0x1200118
def NET_SVS_STAT_LAST_CNT : Fld := ⟨0x1200400, 31, 16⟩
def NET_SVS_STAT_SYNCH : Fld := ⟨0x1200400, 3, 2⟩
def NET_SVS_STAT_STATE : Fld := ⟨0x1200400, 1, 0⟩
def NET_SVS_MSGS : Nat := 0x1200404
def NET_SVS_MISSING : Nat := 0x1200408
def NET_SVS_REJECT : Nat := 0x120040c
def NET_SVP_STAT_LAST_CNT : Fld := ⟨0x1200600, 31, 16⟩
def NET_SVP_STAT_SYNCH : Fld := ⟨0x1200600, 3, 2⟩
def NET_SVP_STAT_STATE : Fld := ⟨0x1200600, 1, 0⟩
def NET_SVP_MSGS : Nat := 0x1200604
def NET_GS_STNUM : Nat := 0x1200800
def NET_GS_SQNUM : Nat := 0x1200804
def NET_GS_STATE_STATE : Fld := ⟨0x1200808, 1, 0⟩
def NET_GS_REJECT : Nat := 0x120080c
def NET_GP_STNUM : Nat := 0x1200c00
def NET_GP_SQNUM : Nat := 0x1200c04
def NET_GP_STATE_STATE : Fld := ⟨0x1200c08, 1, 0⟩
def NET_TAB : Nat := 0x1208000
def TIME_CFG : Nat := 0x1210000
def TIME_CFG_SRC : Fld := ⟨0x1210000, 31, 30⟩
def TIME_CFG_ROLE : Fld := ⟨0x1210000, 29, 28⟩
def TIME_CFG_STEP_EN : Fld := ⟨0x1210000, 27, 27⟩
def TIME_CFG_DOMAIN : Fld := ⟨0x1210000, 23, 16⟩
def TIME_CFG_PRIO1 : Fld := ⟨0x1210000, 15, 8⟩
def TIME_CFG_PRIO2 : Fld := ⟨0x1210000, 7, 0⟩
def TIME_STATUS : Nat := 0x1210004
def TIME_STATUS_CLASS : Fld := ⟨0x1210004, 31, 24⟩
def TIME_STATUS_LAN : Fld := ⟨0x1210004, 10, 10⟩
def TIME_STATUS_MASTER : Fld := ⟨0x1210004, 9, 9⟩
def TIME_STATUS_TC_ON : Fld := ⟨0x1210004, 8, 8⟩
def TIME_STATUS_STATE : Fld := ⟨0x1210004, 2, 0⟩
def TIME_EVENT : Nat := 0x1210008
def TIME_EVENT_TWIN_ALIGN : Fld := ⟨0x1210008, 7, 7⟩
def TIME_EVENT_LEAP : Fld := ⟨0x1210008, 6, 6⟩
def TIME_EVENT_STEP_BLOCKED : Fld := ⟨0x1210008, 5, 5⟩
def TIME_EVENT_STEPPED : Fld := ⟨0x1210008, 4, 4⟩
def TIME_EVENT_GM_CHANGE : Fld := ⟨0x1210008, 3, 3⟩
def TIME_EVENT_FREERUN : Fld := ⟨0x1210008, 2, 2⟩
def TIME_EVENT_LOST : Fld := ⟨0x1210008, 1, 1⟩
def TIME_EVENT_LOCKED : Fld := ⟨0x1210008, 0, 0⟩
def TIME_SNAP : Nat := 0x121000c
def TIME_SEC_LO : Nat := 0x1210010
def TIME_SEC_HI_SEC_HI : Fld := ⟨0x1210014, 15, 0⟩
def TIME_NS : Nat := 0x1210018
def TIME_FRAC_FRAC : Fld := ⟨0x121001c, 15, 0⟩
def TIME_CNT_LO : Nat := 0x1210020
def TIME_CNT_HI : Nat := 0x1210024
def TIME_RATE : Nat := 0x1210028
def TIME_SET_SEC_LO : Nat := 0x121002c
def TIME_SET_SEC_HI_SET_SEC_HI : Fld := ⟨0x1210030, 15, 0⟩
def TIME_SET_NS : Nat := 0x1210034
def TIME_STEP : Nat := 0x1210038
def TIME_KP : Nat := 0x1210040
def TIME_KI : Nat := 0x1210044
def TIME_SLEW_SLEW : Fld := ⟨0x1210048, 31, 16⟩
def TIME_SLEW_LOCK_THR : Fld := ⟨0x1210048, 15, 0⟩
def TIME_HOLD_LIM_STEP_THR : Fld := ⟨0x121004c, 15, 0⟩
def TIME_OFFSET : Nat := 0x1210050
def TIME_PDELAY : Nat := 0x1210054
def TIME_GM_ID_LO : Nat := 0x1210058
def TIME_GM_ID_HI : Nat := 0x121005c
def TIME_UTC : Nat := 0x1210060
def TIME_UTC_UTC_VALID : Fld := ⟨0x1210060, 18, 18⟩
def TIME_UTC_LEAP59 : Fld := ⟨0x1210060, 17, 17⟩
def TIME_UTC_LEAP61 : Fld := ⟨0x1210060, 16, 16⟩
def TIME_UTC_UTC : Fld := ⟨0x1210060, 15, 0⟩
def TIME_TWIN_DIFF : Nat := 0x1210064
def TIME_PPS_OUT_OUT_EN : Fld := ⟨0x1210070, 31, 31⟩
def TIME_PPS_OUT_OUT_POL : Fld := ⟨0x1210070, 30, 30⟩
def TIME_OUT_OFS : Nat := 0x1210074
def TIME_PPS_SEC : Nat := 0x1210078
def TIME_IN_STAMP : Nat := 0x121007c
def TIME_PPS_IN_IN_EN : Fld := ⟨0x1210080, 31, 31⟩
def TIME_PPS_IN_CABLE : Fld := ⟨0x1210080, 15, 0⟩
def TIME_SYNC_RX : Nat := 0x1210090
def TIME_ANN_RX : Nat := 0x1210094
def TIME_PDELAY_TO : Nat := 0x1210098
def TIME_TWO_STEP_RX : Nat := 0x121009c
def TIME_PPS_MISS : Nat := 0x12100a0
def CAN_B_CTRL : Nat := 0x1300000
def CAN_B_CTRL_FD_EN : Fld := ⟨0x1300000, 1, 1⟩
def CAN_B_CTRL_EN : Fld := ⟨0x1300000, 0, 0⟩
def CAN_B_NBT : Nat := 0x1300004
def CAN_B_DBT : Nat := 0x1300008
def CAN_B_STATUS_TEC : Fld := ⟨0x130000c, 31, 24⟩
def CAN_B_STATUS_RP : Fld := ⟨0x130000c, 23, 23⟩
def CAN_B_STATUS_REC : Fld := ⟨0x130000c, 22, 16⟩
def CAN_B_STATUS_DRIVING : Fld := ⟨0x130000c, 7, 7⟩
def CAN_B_STATUS_STATE : Fld := ⟨0x130000c, 2, 0⟩
def CAN_B_EVENT : Nat := 0x1300010
def CAN_B_EVENT_PEX : Fld := ⟨0x1300010, 11, 11⟩
def CAN_B_EVENT_ISOTP : Fld := ⟨0x1300010, 10, 10⟩
def CAN_B_EVENT_REF_LATE : Fld := ⟨0x1300010, 9, 9⟩
def CAN_B_EVENT_LOCK_TIMEOUT : Fld := ⟨0x1300010, 8, 8⟩
def CAN_B_EVENT_RECOVERED : Fld := ⟨0x1300010, 7, 7⟩
def CAN_B_EVENT_NO_ACK : Fld := ⟨0x1300010, 6, 6⟩
def CAN_B_EVENT_BUS_OFF : Fld := ⟨0x1300010, 5, 5⟩
def CAN_B_EVENT_ERR_PASSIVE : Fld := ⟨0x1300010, 4, 4⟩
def CAN_B_EVENT_MSG_LOST : Fld := ⟨0x1300010, 3, 3⟩
def CAN_B_EVENT_TX_DONE : Fld := ⟨0x1300010, 2, 2⟩
def CAN_B_EVENT_HP : Fld := ⟨0x1300010, 1, 1⟩
def CAN_B_EVENT_RX : Fld := ⟨0x1300010, 0, 0⟩
def CAN_B_ERRCFG_NOACK_LIM : Fld := ⟨0x1300014, 15, 0⟩
def CAN_B_LEC_ACK_RUN : Fld := ⟨0x1300018, 31, 16⟩
def CAN_B_LEC_DATA_PHASE : Fld := ⟨0x1300018, 3, 3⟩
def CAN_B_LEC_CODE : Fld := ⟨0x1300018, 2, 0⟩
def CAN_B_TX_OK : Nat := 0x1300020
def CAN_B_RX_OK : Nat := 0x1300024
def CAN_B_RX_UNMATCHED : Nat := 0x1300028
def CAN_B_MSG_LOST : Nat := 0x130002c
def CAN_B_ERRORS : Nat := 0x1300030
def CAN_B_ACK_ERR : Nat := 0x1300034
def CAN_B_BUS_OFF : Nat := 0x1300038
def CAN_B_PEX : Nat := 0x130003c
def CAN_B_REF_LATE : Nat := 0x1300040
def CAN_B_ISOTP_ERR : Nat := 0x1300044
def CAN_B_OBJ_NEW : Nat := 0x1300050
def CAN_B_TXDONE : Nat := 0x1300060
def CAN_B_HPF_ID_EN : Fld := ⟨0x1300080, 31, 31⟩
def CAN_B_HPF_ID_IDE : Fld := ⟨0x1300080, 29, 29⟩
def CAN_B_HPF_ID_ID : Fld := ⟨0x1300080, 28, 0⟩
def CAN_B_HPF_MASK_MASK : Fld := ⟨0x1300084, 28, 0⟩
def CAN_B_TM_EN : Fld := ⟨0x1300180, 31, 31⟩
def CAN_B_TM_FDF : Fld := ⟨0x1300180, 30, 30⟩
def CAN_B_TM_IDE : Fld := ⟨0x1300180, 29, 29⟩
def CAN_B_TM_REF_ID : Fld := ⟨0x1300180, 28, 0⟩
def CAN_B_TM_PER : Nat := 0x1300184
def CAN_B_TM_PER_CYC : Fld := ⟨0x1300184, 31, 29⟩
def CAN_B_TM_PER_PERIOD : Fld := ⟨0x1300184, 15, 0⟩
def CAN_B_TM_STAMP : Nat := 0x1300188
def CAN_B_TM_STAT_COUNT : Fld := ⟨0x130018c, 13, 8⟩
def CAN_B_TM_STAT_STAMP_HI : Fld := ⟨0x130018c, 7, 0⟩
def CAN_B_TM_PHASE : Nat := 0x1300190
def CAN_B_TM_PHASE_PHASE : Fld := ⟨0x1300190, 31, 0⟩
def CAN_B_ECP_REQ : Nat := 0x13001c0
def CAN_B_ECP_REQ_EN : Fld := ⟨0x13001c0, 31, 31⟩
def CAN_B_ECP_REQ_IDE : Fld := ⟨0x13001c0, 30, 30⟩
def CAN_B_ECP_REQ_FD : Fld := ⟨0x13001c0, 29, 29⟩
def CAN_B_ECP_REQ_REQ_ID : Fld := ⟨0x13001c0, 28, 0⟩
def CAN_B_ECP_RSP_RSP_ID : Fld := ⟨0x13001c4, 28, 0⟩
def CAN_B_TPT_BS : Fld := ⟨0x13001e0, 31, 24⟩
def CAN_B_TPT_STMIN : Fld := ⟨0x13001e0, 23, 16⟩
def CAN_B_HPB_ID : Nat := 0x1300200
def CAN_B_HPB_CMD : Nat := 0x1300214
def CAN_B_HPB_DATA : Nat := 0x1300240
def CAN_B_OBJ_ID : Nat := 0x1301000
def CAN_B_OBJ_ID_EN : Fld := ⟨0x1301000, 31, 31⟩
def CAN_B_OBJ_ID_DIR : Fld := ⟨0x1301000, 30, 30⟩
def CAN_B_OBJ_ID_IDE : Fld := ⟨0x1301000, 29, 29⟩
def CAN_B_OBJ_ID_ID : Fld := ⟨0x1301000, 28, 0⟩
def CAN_B_OBJ_MASK : Nat := 0x1301004
def CAN_B_OBJ_MASK_MRTR : Fld := ⟨0x1301004, 30, 30⟩
def CAN_B_OBJ_MASK_NOTIFY : Fld := ⟨0x1301004, 29, 29⟩
def CAN_B_OBJ_MASK_MASK : Fld := ⟨0x1301004, 28, 0⟩
def CAN_B_OBJ_CTL : Nat := 0x1301008
def CAN_B_OBJ_CTL_STAT : Fld := ⟨0x1301008, 31, 29⟩
def CAN_B_OBJ_CTL_LOST : Fld := ⟨0x1301008, 28, 28⟩
def CAN_B_OBJ_CTL_HELD : Fld := ⟨0x1301008, 27, 27⟩
def CAN_B_OBJ_CTL_LOCKED : Fld := ⟨0x1301008, 26, 26⟩
def CAN_B_OBJ_CTL_ESI : Fld := ⟨0x1301008, 25, 25⟩
def CAN_B_OBJ_CTL_FDF : Fld := ⟨0x1301008, 24, 24⟩
def CAN_B_OBJ_CTL_BRS : Fld := ⟨0x1301008, 23, 23⟩
def CAN_B_OBJ_CTL_RTR : Fld := ⟨0x1301008, 22, 22⟩
def CAN_B_OBJ_CTL_DLC : Fld := ⟨0x1301008, 19, 16⟩
def CAN_B_OBJ_STAMP_LO : Nat := 0x130100c
def CAN_B_OBJ_STAMP_HI : Nat := 0x1301010
def CAN_B_OBJ_STAMP_HI_STAMP_HI : Fld := ⟨0x1301010, 7, 0⟩
def CAN_B_OBJ_CMD : Nat := 0x1301014
def CAN_B_OBJ_DATA : Nat := 0x1301040
def SAF_CTRL : Nat := 0x1400000
def SAF_GCFG : Nat := 0x1400004
def SAF_GCFG_LOCK : Fld := ⟨0x1400004, 31, 31⟩
def SAF_GCFG_BRK_PAIR : Fld := ⟨0x1400004, 28, 28⟩
def SAF_GCFG_SOLO_T : Fld := ⟨0x1400004, 27, 19⟩
def SAF_GCFG_DEMAND_AGE : Fld := ⟨0x1400004, 18, 9⟩
def SAF_OUTCFG : Nat := 0x1400008
def SAF_F_CFG : Nat := 0x1400010
def SAF_F_CFG_EN : Fld := ⟨0x1400010, 31, 31⟩
def SAF_F_CFG_TYPE : Fld := ⟨0x1400010, 30, 30⟩
def SAF_F_CFG_RESTART : Fld := ⟨0x1400010, 29, 29⟩
def SAF_F_CFG_P1 : Fld := ⟨0x1400010, 3, 3⟩
def SAF_F_CFG_P0 : Fld := ⟨0x1400010, 2, 2⟩
def SAF_F_CFG_SAB : Fld := ⟨0x1400010, 1, 1⟩
def SAF_F_CFG_STO : Fld := ⟨0x1400010, 0, 0⟩
def SAF_STATUS : Nat := 0x1400020
def SAF_STATUS_LOCKED : Fld := ⟨0x1400020, 31, 31⟩
def SAF_STATUS_XCHK_OFF : Fld := ⟨0x1400020, 30, 30⟩
def SAF_STATUS_P1_ON : Fld := ⟨0x1400020, 29, 29⟩
def SAF_STATUS_P0_ON : Fld := ⟨0x1400020, 28, 28⟩
def SAF_STATUS_BRK : Fld := ⟨0x1400020, 27, 27⟩
def SAF_STATUS_SAB : Fld := ⟨0x1400020, 26, 26⟩
def SAF_STATUS_STO : Fld := ⟨0x1400020, 25, 25⟩
def SAF_STATUS_PENDING : Fld := ⟨0x1400020, 24, 24⟩
def SAF_STATUS_INT : Fld := ⟨0x1400020, 23, 16⟩
def SAF_EVENT : Nat := 0x1400024
def SAF_EVENT_BRIDGE_TEST : Fld := ⟨0x1400024, 9, 9⟩
def SAF_EVENT_XCHK_OFF : Fld := ⟨0x1400024, 8, 8⟩
def SAF_EVENT_DEMAND_AGE : Fld := ⟨0x1400024, 7, 7⟩
def SAF_EVENT_CONF_MISMATCH : Fld := ⟨0x1400024, 6, 6⟩
def SAF_EVENT_CONF_TIMEOUT : Fld := ⟨0x1400024, 5, 5⟩
def SAF_EVENT_SM_DIFF : Fld := ⟨0x1400024, 4, 4⟩
def SAF_EVENT_OUT_FAULT : Fld := ⟨0x1400024, 3, 3⟩
def SAF_EVENT_INTERNAL : Fld := ⟨0x1400024, 2, 2⟩
def SAF_EVENT_DISCREPANCY : Fld := ⟨0x1400024, 1, 1⟩
def SAF_EVENT_DEMAND : Fld := ⟨0x1400024, 0, 0⟩
def SAF_OUT : Nat := 0x1400028
def SAF_OUT_PAIR_FAULT : Fld := ⟨0x1400028, 25, 24⟩
def SAF_OUT_ON : Fld := ⟨0x1400028, 23, 20⟩
def SAF_OUT_RB : Fld := ⟨0x1400028, 19, 16⟩
def SAF_PEND_ADDR : Nat := 0x1400030
def SAF_PEND_VAL : Nat := 0x1400034
def SAF_PEND_CODE : Nat := 0x1400038
def SAF_PEND_CODE_NONCE : Fld := ⟨0x1400038, 31, 16⟩
def SAF_PEND_CODE_CODE : Fld := ⟨0x1400038, 15, 0⟩
def SAF_CONFIRM : Nat := 0x140003c
def SAF_PCRC : Nat := 0x1400040
def SAF_PCRC_LOCK : Nat := 0x1400044
def SAF_DEMANDS : Nat := 0x1400050
def SAF_DISC : Nat := 0x1400060
def SAF_OUT_FAULTS : Nat := 0x1400064
def SAF_F_LAST : Nat := 0x1400070
def SAF_OSC_OSC : Fld := ⟨0x1400080, 15, 0⟩
def HST_G_CFG_LEAD : Fld := ⟨0x1500000, 31, 16⟩
def HST_G_STATUS_MP_LOAD : Fld := ⟨0x1500004, 31, 24⟩
def HST_G_STATUS_FALLBACK : Fld := ⟨0x1500004, 2, 2⟩
def HST_G_STATUS_BUSY : Fld := ⟨0x1500004, 1, 1⟩
def HST_OWNER : Nat := 0x1500008
def HST_CHANGES_PENDING : Fld := ⟨0x150000c, 6, 0⟩
def HST_SER : Nat := 0x1500010
def HST_H_CFG : Nat := 0x1500100
def HST_H_CFG_RANK : Fld := ⟨0x1500100, 26, 24⟩
def HST_H_CFG_LEASE : Fld := ⟨0x1500100, 23, 16⟩
def HST_H_CFG_ATTN_MASK : Fld := ⟨0x1500100, 6, 0⟩
def HST_H_STATE_GROUPS : Fld := ⟨0x1500104, 26, 22⟩
def HST_H_STATE_QUEUED : Fld := ⟨0x1500104, 21, 16⟩
def HST_H_STATE_CREDITS : Fld := ⟨0x1500104, 13, 8⟩
def HST_H_STATE_KEY_EXHAUSTED : Fld := ⟨0x1500104, 1, 1⟩
def HST_H_STATE_DEFERRING : Fld := ⟨0x1500104, 0, 0⟩
def HST_H_HIGH_CTR : Nat := 0x1500108
def HST_H_EVENT : Nat := 0x150010c
def HST_H_EVENT_CTR_LOW : Fld := ⟨0x150010c, 5, 5⟩
def HST_H_EVENT_KEY_ROLLED : Fld := ⟨0x150010c, 4, 4⟩
def HST_H_EVENT_OWNER_LOST : Fld := ⟨0x150010c, 3, 3⟩
def HST_H_EVENT_CANCELLED : Fld := ⟨0x150010c, 2, 2⟩
def HST_H_EVENT_DEV_FAILED : Fld := ⟨0x150010c, 1, 1⟩
def HST_H_EVENT_CHANGED : Fld := ⟨0x150010c, 0, 0⟩
def HST_H_DEV_RESULT_CHANGE_ID : Fld := ⟨0x1500110, 31, 16⟩
def HST_H_DEV_RESULT_CODE : Fld := ⟨0x1500110, 7, 0⟩
def HST_H_COMMANDS : Nat := 0x1500114
def HST_H_AUTH_FAIL : Nat := 0x1500118
def HST_H_REPLAY : Nat := 0x150011c
def HST_H_QUEUE_FULL : Nat := 0x1500120
def HST_H_DEFERRED : Nat := 0x1500124
def STQ_ALLOC_ALLOC : Fld := ⟨0x1600000, 8, 0⟩
def STQ_Q_CFG : Nat := 0x1600100
def STQ_Q_CFG_EN : Fld := ⟨0x1600100, 31, 31⟩
def STQ_Q_CFG_SINK : Fld := ⟨0x1600100, 30, 29⟩
def STQ_Q_CFG_BANK : Fld := ⟨0x1600100, 23, 16⟩
def STQ_Q_CFG_FLUSH_T : Fld := ⟨0x1600100, 15, 0⟩
def STQ_Q_MARKS : Nat := 0x1600104
def STQ_Q_MARKS_HI : Fld := ⟨0x1600104, 31, 16⟩
def STQ_Q_MARKS_LO : Fld := ⟨0x1600104, 15, 0⟩
def STQ_Q_CUT_CUT : Fld := ⟨0x1600108, 6, 0⟩
def STQ_Q_DEST_IP : Nat := 0x160010c
def STQ_Q_DEST_PORT : Fld := ⟨0x1600110, 15, 0⟩
def STQ_Q_DEST_CTX : Fld := ⟨0x1600110, 17, 16⟩
def STQ_Q_STATUS_LEVEL : Fld := ⟨0x1600114, 31, 16⟩
def STQ_Q_STATUS_CLOSED_WAIT : Fld := ⟨0x1600114, 4, 4⟩
def STQ_Q_STATUS_DRAIN : Fld := ⟨0x1600114, 3, 3⟩
def STQ_Q_STATUS_LO_LIVE : Fld := ⟨0x1600114, 2, 2⟩
def STQ_Q_STATUS_HI_LIVE : Fld := ⟨0x1600114, 1, 1⟩
def STQ_Q_STATUS_ACTIVE : Fld := ⟨0x1600114, 0, 0⟩
def STQ_Q_EVENT : Nat := 0x1600118
def STQ_Q_EVENT_DISCARD : Fld := ⟨0x1600118, 5, 5⟩
def STQ_Q_EVENT_POISON : Fld := ⟨0x1600118, 4, 4⟩
def STQ_Q_EVENT_DROP : Fld := ⟨0x1600118, 3, 3⟩
def STQ_Q_EVENT_FLUSHED : Fld := ⟨0x1600118, 2, 2⟩
def STQ_Q_EVENT_LO : Fld := ⟨0x1600118, 1, 1⟩
def STQ_Q_EVENT_HI : Fld := ⟨0x1600118, 0, 0⟩
def STQ_Q_SEQ : Nat := 0x160011c
def STQ_Q_WORDS_OUT : Nat := 0x1600120
def STQ_Q_UNITS_DROPPED : Nat := 0x1600124
def STQ_Q_POISON : Nat := 0x1600128
def STQ_Q_FLUSHES : Nat := 0x160012c
def STQ_Q_DISCARDED : Nat := 0x1600130
def STQ_Q_DGRAM : Nat := 0x1600138
def TWN_CTRL : Nat := 0x1700000
def TWN_CFG_ROT_HOURS : Fld := ⟨0x1700004, 31, 22⟩
def TWN_CFG_AUTO_REJOIN : Fld := ⟨0x1700004, 0, 0⟩
def TWN_STATE : Nat := 0x1700008
def TWN_STATE_PEND_CAUSE : Fld := ⟨0x1700008, 31, 28⟩
def TWN_STATE_CAUSE : Fld := ⟨0x1700008, 27, 24⟩
def TWN_STATE_COMPARE : Fld := ⟨0x1700008, 15, 15⟩
def TWN_STATE_LAST_TWIN : Fld := ⟨0x1700008, 14, 14⟩
def TWN_STATE_SPLIT : Fld := ⟨0x1700008, 13, 13⟩
def TWN_STATE_OTHER_ARB_REACH : Fld := ⟨0x1700008, 12, 12⟩
def TWN_STATE_ARB_REACH : Fld := ⟨0x1700008, 11, 11⟩
def TWN_STATE_REDUCED_FT : Fld := ⟨0x1700008, 10, 10⟩
def TWN_STATE_HOLDS : Fld := ⟨0x1700008, 9, 9⟩
def TWN_STATE_LEADER : Fld := ⟨0x1700008, 8, 8⟩
def TWN_STATE_OTHER : Fld := ⟨0x1700008, 6, 4⟩
def TWN_STATE_STATE : Fld := ⟨0x1700008, 2, 0⟩
def TWN_CLAIM : Nat := 0x170000c
def TWN_CLAIM_OTHER : Nat := 0x1700010
def TWN_EPOCH_RES : Nat := 0x1700014
def TWN_EPOCH_BASE : Nat := 0x1700018
def TWN_EPOCH_BASE_BASE : Fld := ⟨0x1700018, 30, 0⟩
def TWN_EVENT : Nat := 0x170001c
def TWN_EVENT_EPOCH_UNSAVED : Fld := ⟨0x170001c, 11, 11⟩
def TWN_EVENT_JOIN_FAIL : Fld := ⟨0x170001c, 10, 10⟩
def TWN_EVENT_JOINED : Fld := ⟨0x170001c, 9, 9⟩
def TWN_EVENT_ROTATED : Fld := ⟨0x170001c, 8, 8⟩
def TWN_EVENT_ARB_UNREACHABLE : Fld := ⟨0x170001c, 7, 7⟩
def TWN_EVENT_SPLIT : Fld := ⟨0x170001c, 6, 6⟩
def TWN_EVENT_TAKEOVER : Fld := ⟨0x170001c, 5, 5⟩
def TWN_EVENT_WITHDRAWN : Fld := ⟨0x170001c, 4, 4⟩
def TWN_EVENT_DISAGREE_UNRESOLVED : Fld := ⟨0x170001c, 3, 3⟩
def TWN_EVENT_MISMATCH : Fld := ⟨0x170001c, 2, 2⟩
def TWN_EVENT_DISCREPANCY : Fld := ⟨0x170001c, 1, 1⟩
def TWN_EVENT_HB_LOST : Fld := ⟨0x170001c, 0, 0⟩
def TWN_OVERRUNS : Nat := 0x1700020
def TWN_MISMATCH : Nat := 0x1700024
def TWN_TAKEOVERS : Nat := 0x1700028
def TWN_ROTATIONS : Nat := 0x170002c
def TWN_DISCREPANCY : Nat := 0x1700030
def TWN_HB_MISS : Nat := 0x1700034
def TWN_ROT_POSTPONED : Nat := 0x1700038
def TWN_DIS_NODE : Nat := 0x1700040
def TWN_DIS_CYCLE : Nat := 0x1700060
def TWN_DIGEST_LO : Nat := 0x1700064
def TWN_DIGEST_HI : Nat := 0x1700068
def TWN_ST_RESULT_ST_UNIT : Fld := ⟨0x170006c, 31, 16⟩
def TWN_ST_RESULT_ST_OTHER : Fld := ⟨0x170006c, 1, 1⟩
def TWN_ST_RESULT_ST_OWN : Fld := ⟨0x170006c, 0, 0⟩
def TWN_DISC_LAST_IS_CELL : Fld := ⟨0x1700070, 31, 31⟩
def TWN_DISC_LAST_WHICH : Fld := ⟨0x1700070, 8, 0⟩
def TWN_CELL_TOL : Nat := 0x1700074
def DRV_CTRL : Nat := 0x1800000
def DRV_CTRL_ENABLE : Fld := ⟨0x1800000, 0, 0⟩
def DRV_CFG : Nat := 0x1800004
def DRV_CFG_DIS_GD : Fld := ⟨0x1800004, 27, 25⟩
def DRV_CFG_BRK_GD : Fld := ⟨0x1800004, 24, 22⟩
def DRV_CFG_BRK_PWM : Fld := ⟨0x1800004, 21, 19⟩
def DRV_CFG_RG : Fld := ⟨0x1800004, 9, 8⟩
def DRV_CFG_RETURN_EN : Fld := ⟨0x1800004, 7, 7⟩
def DRV_CFG_AUTO_RESTART : Fld := ⟨0x1800004, 6, 6⟩
def DRV_CFG_ASC_SIDE : Fld := ⟨0x1800004, 5, 5⟩
def DRV_CFG_TOPO : Fld := ⟨0x1800004, 2, 0⟩
def DRV_STATUS_DISCHARGING : Fld := ⟨0x1800008, 7, 7⟩
def DRV_STATUS_DISCHARGED : Fld := ⟨0x1800008, 6, 6⟩
def DRV_STATUS_SPILL_TRIP : Fld := ⟨0x1800008, 5, 5⟩
def DRV_STATUS_CHOPPER_FAIL : Fld := ⟨0x1800008, 4, 4⟩
def DRV_STATUS_SPILL : Fld := ⟨0x1800008, 2, 0⟩
def DRV_EVENT : Nat := 0x180000c
def DRV_EVENT_DIS_REFUSED : Fld := ⟨0x180000c, 8, 8⟩
def DRV_EVENT_DIS_STUCK : Fld := ⟨0x180000c, 7, 7⟩
def DRV_EVENT_DIS_FAIL : Fld := ⟨0x180000c, 6, 6⟩
def DRV_EVENT_DIS_DONE : Fld := ⟨0x180000c, 5, 5⟩
def DRV_EVENT_SPILL_TRIP : Fld := ⟨0x180000c, 4, 4⟩
def DRV_EVENT_RETURN_SKIPPED : Fld := ⟨0x180000c, 3, 3⟩
def DRV_EVENT_CHOPPER_FAIL : Fld := ⟨0x180000c, 2, 2⟩
def DRV_EVENT_STAGE2 : Fld := ⟨0x180000c, 1, 1⟩
def DRV_EVENT_STAGE1 : Fld := ⟨0x180000c, 0, 0⟩
def DRV_SPILLS : Nat := 0x1800010
def DRV_SPILL_TRIPS : Nat := 0x1800014
def DRV_REGEN_LIM : Nat := 0x180001c
def DRV_SPILL_RET : Nat := 0x1800020
def DRV_VCH_LO : Nat := 0x1800040
def DRV_VCH_HI : Nat := 0x1800044
def DRV_V_S4 : Nat := 0x1800048
def DRV_V_TRIP : Nat := 0x180004c
def DRV_ICH_MIN : Nat := 0x1800050
def DRV_RGN_RAMP : Nat := 0x1800054
def DRV_RET_P : Nat := 0x1800058
def DRV_CH_PERIOD : Nat := 0x1800064
def DRV_DIS_KEEP_DIS_KEEP : Fld := ⟨0x1800084, 8, 8⟩
def DRV_DIS_KEEP_DIS_DUTY : Fld := ⟨0x1800084, 6, 0⟩
def DRV_DIS_PERIOD : Nat := 0x1800088
def DRV_D_CTRL : Nat := 0x1800100
def DRV_D_CTRL_HFI_EN : Fld := ⟨0x1800100, 2, 2⟩
def DRV_D_CTRL_MACH : Fld := ⟨0x1800100, 1, 1⟩
def DRV_D_CTRL_RUN : Fld := ⟨0x1800100, 0, 0⟩
def DRV_D_STATE_MON_SOLO : Fld := ⟨0x1800104, 12, 12⟩
def DRV_D_STATE_XMODE : Fld := ⟨0x1800104, 11, 11⟩
def DRV_D_STATE_HFI_ON : Fld := ⟨0x1800104, 10, 10⟩
def DRV_D_STATE_REASON : Fld := ⟨0x1800104, 7, 4⟩
def DRV_D_STATE_STATE : Fld := ⟨0x1800104, 2, 0⟩
def DRV_D_EVENT : Nat := 0x1800108
def DRV_D_EVENT_TMON_EST : Fld := ⟨0x1800108, 5, 5⟩
def DRV_D_EVENT_TMON_CMD : Fld := ⟨0x1800108, 4, 4⟩
def DRV_D_EVENT_CATCH_FAIL : Fld := ⟨0x1800108, 3, 3⟩
def DRV_D_EVENT_CATCH_DONE : Fld := ⟨0x1800108, 2, 2⟩
def DRV_D_EVENT_ASC : Fld := ⟨0x1800108, 1, 1⟩
def DRV_D_EVENT_OBS_LOST : Fld := ⟨0x1800108, 0, 0⟩
def DRV_D_OBS_LOSSES : Nat := 0x180010c
def DRV_D_ASCS : Nat := 0x1800110
def DRV_D_CATCHES : Nat := 0x1800114
def DRV_D_TMON_VIOL : Nat := 0x1800118
def DRV_D_W_HELD : Nat := 0x1800120
def DRV_D_W_ASC : Nat := 0x1800124
def DRV_D_T_MON : Nat := 0x1800128
def DRV_D_TQ_SCALE : Nat := 0x180012c
def DRV_D_VDC_MIN : Nat := 0x1800130
def DRV_D_TQ_RAMP : Nat := 0x1800134
def DRV_D_XO_WLO : Nat := 0x1800138
def DRV_D_XO_WHI : Nat := 0x180013c
def DRV_D_PSIM : Nat := 0x1800140
def DRV_D_LS : Nat := 0x1800144
def DRV_D_ASC_VLIM : Nat := 0x1800148
def DRV_D_ASC_MARGIN : Nat := 0x180014c
def DRV_D_ASC_HYST : Nat := 0x1800150
def DRV_D_ASC_IMIN : Nat := 0x1800154
def DRV_D_RES_THR : Nat := 0x1800158
def DRV_D_EPS_THR : Nat := 0x180015c
def DRV_D_WPLAUS : Nat := 0x1800160
def DRV_D_CATCH_EMIN : Nat := 0x1800164
def DRV_D_CATCH_TOL : Nat := 0x1800168
def DRV_D_VPOL : Nat := 0x180016c
def DRV_D_SRCH_FMAX : Nat := 0x1800170
def DRV_D_SRCH_RATE : Nat := 0x1800174
def DRV_D_SRCH_I : Nat := 0x1800178
def DRV_D_SRCH_PTH : Nat := 0x180017c
def DRV_D_TIMING1_CATCH_T : Fld := ⟨0x1800180, 31, 16⟩
def DRV_D_TIMING1_RES_N : Fld := ⟨0x1800180, 15, 8⟩
def DRV_D_TIMING1_CATCH_RETRY : Fld := ⟨0x1800180, 2, 0⟩
def DRV_D_KT : Nat := 0x1800190
def DRV_D_RS : Nat := 0x1800194
def DRV_D_TAU : Nat := 0x1800198
def DRV_D_TOL_ABS : Nat := 0x180019c
def DRV_D_TOL_REL : Nat := 0x18001a0
def DRV_D_TC : Nat := 0x18001a4
def DRV_D_WMIN : Nat := 0x18001a8
def DRV_D_ILIM : Nat := 0x18001ac
def DRV_D_TMON_SRC_REACT : Fld := ⟨0x18001b0, 15, 15⟩
def DRV_D_TMON_SRC_VDC : Fld := ⟨0x18001b0, 11, 8⟩
def DRV_D_TMON_SRC_IB : Fld := ⟨0x18001b0, 7, 4⟩
def DRV_D_TMON_SRC_IA : Fld := ⟨0x18001b0, 3, 0⟩
def DRV_D_TMON_ADC : Nat := 0x18001b4
def DRV_D_TMON_ADC_VDC_ADC : Fld := ⟨0x18001b4, 5, 4⟩
def DRV_D_TMON_ADC_IB_ADC : Fld := ⟨0x18001b4, 3, 2⟩
def DRV_D_TMON_ADC_IA_ADC : Fld := ⟨0x18001b4, 1, 0⟩
def DRV_ENC_CFG : Nat := 0x1800400
def DRV_ENC_CFG_EN : Fld := ⟨0x1800400, 31, 31⟩
def DRV_ENC_CFG_DIR : Fld := ⟨0x1800400, 30, 30⟩
def DRV_ENC_CFG_INDEX_MODE : Fld := ⟨0x1800400, 29, 28⟩
def DRV_ENC_CFG_CPR : Fld := ⟨0x1800400, 23, 0⟩
def DRV_ENC_OFS : Nat := 0x1800404
def DRV_ENC_COUNT : Nat := 0x1800408
def DRV_ENC_INDEX : Nat := 0x180040c
def DRV_ENC_STATUS_LEVELS : Fld := ⟨0x1800410, 4, 2⟩
def DRV_ENC_STATUS_INDEXED : Fld := ⟨0x1800410, 1, 1⟩
def DRV_ENC_STATUS_ACTIVE : Fld := ⟨0x1800410, 0, 0⟩
def DRV_HALL_CFG : Nat := 0x1800414
def DRV_HALL_CFG_EN : Fld := ⟨0x1800414, 31, 31⟩
def DRV_HALL_CFG_SECTOR : Fld := ⟨0x1800414, 17, 0⟩
def DRV_HALL_OFS : Nat := 0x1800418
def DRV_HALL_STATUS_SECTOR : Fld := ⟨0x180041c, 6, 4⟩
def DRV_HALL_STATUS_STATE : Fld := ⟨0x180041c, 2, 0⟩
def DRV_ENC_ERR : Nat := 0x1800420
def DRV_HALL_ERR : Nat := 0x1800424
def DRV_POS_EVENT : Nat := 0x180042c
def DRV_POS_EVENT_INDEX : Fld := ⟨0x180042c, 2, 2⟩
def DRV_POS_EVENT_HALL_ERR : Fld := ⟨0x180042c, 1, 1⟩
def DRV_POS_EVENT_ENC_ERR : Fld := ⟨0x180042c, 0, 0⟩
def DRV_GPIO_DIR : Nat := 0x1800430
def DRV_GPIO_OUT : Nat := 0x1800434
def DRV_GPIO_IN_IN : Fld := ⟨0x1800438, 11, 0⟩
def HLT_CTRL : Nat := 0x1900000
def HLT_SUMMARY_ROT_OFF : Fld := ⟨0x1900004, 16, 16⟩
def HLT_SUMMARY_NCELL_G2 : Fld := ⟨0x1900004, 15, 8⟩
def HLT_SUMMARY_GRADE : Fld := ⟨0x1900004, 1, 0⟩
def HLT_COVER_SRAM : Fld := ⟨0x1900008, 31, 24⟩
def HLT_COVER_ENGINES : Fld := ⟨0x1900008, 23, 16⟩
def HLT_COVER_CONVERTERS : Fld := ⟨0x1900008, 15, 8⟩
def HLT_COVER_OUTPUT_LOGIC : Fld := ⟨0x1900008, 7, 0⟩
def HLT_ECC_CORR : Nat := 0x190000c
def HLT_ECC_UNCORR : Nat := 0x1900010
def HLT_LANE_WORST_LANE : Fld := ⟨0x1900014, 31, 24⟩
def HLT_LANE_BER_EXP : Fld := ⟨0x1900014, 23, 16⟩
def HLT_LANE_EYE_MIN : Fld := ⟨0x1900014, 15, 0⟩
def HLT_REG_VCORE_MARGIN : Fld := ⟨0x1900018, 31, 16⟩
def HLT_REG_VIO_MARGIN : Fld := ⟨0x1900018, 15, 0⟩
def HLT_SLACK : Nat := 0x190001c
def HLT_GD_GD_FAULT : Fld := ⟨0x1900020, 31, 16⟩
def HLT_GD_GD_UVLO : Fld := ⟨0x1900020, 15, 0⟩
def HLT_EVENT : Nat := 0x1900024
def HLT_EVENT_GRADE_RISE : Fld := ⟨0x1900024, 0, 0⟩
def HLT_ADC_DRIFT : Nat := 0x1900030
def HLT_THR_CAP_WATCH : Fld := ⟨0x1900040, 31, 24⟩
def HLT_THR_CAP_REPL : Fld := ⟨0x1900040, 23, 16⟩
def HLT_THR_ESR_WATCH : Fld := ⟨0x1900040, 15, 8⟩
def HLT_THR_ESR_REPL : Fld := ⟨0x1900040, 7, 0⟩
def HLT_CELL_CAP_REL : Nat := 0x1901000
def HLT_CELL_ESR_REL : Nat := 0x1901004
def HLT_CELL_DMG_HI : Nat := 0x1901008
def HLT_CELL_GRADE_STATE : Fld := ⟨0x190100c, 7, 4⟩
def HLT_CELL_GRADE_GRADE : Fld := ⟨0x190100c, 1, 0⟩

end R

end Sys2Proof
end

