-- ==== Sys2Proof/Machine/AdcTypes.lean ====
section
/-! DEFINITION. The state that 08_measurement gives one converter and the calibration unit of a twin beside the ADC_
registers. -/

namespace Sys2Proof

/-- A sequence of a converter in its delay or running (R275, R281): `due` says that its delay has ended and its
acquisition waits, `entry` the next position in its run list, `conv` and `sum` the averaging entry's conversions so far,
`limit` a raw code at a limit among them, `late` that the run is later than under R275, `codes` the codes for the raw
stream, `stamp` the sampling instant of the first entry, `avg` whether the run averages (R293), `cut` that the conversion in
flight is its last (R277), `began` the TB count at which its acquisition began, `tau` the trigger's device time in 2^-16 ns, `cal` the coefficients of its run by input
(R298). -/
structure SeqSt where
  delay : Bool := false
  run : Bool := false
  due : Bool := false
  entry : Nat := 0
  conv : Nat := 0
  sum : Nat := 0
  limit : Bool := false
  late : Bool := false
  burst : Nat := 0
  avg : Bool := false
  cut : Bool := false
  codes : List Nat := []
  stamp : Nat := 0
  began : W64 := 0
  tau : Int := 0
  cal : Tab W32 := []
deriving DecidableEq, Repr

/-- One converter. `inFlight`: 0 none, 1 regular, 2 injected, 3 check, 4 one whose result is discarded (R297). `ends` is the
device time in 2^-16 ns of the AD edge at which the conversion in flight, or the latest one, ends; in an interleaved burst
it moves on with each sample. `hist` keeps, per result register, the latest conversions as (sampling instant in Tributary
time, result word), back to the last one before two array cycles ago. `commit` holds the coefficients to develop at the next
sequence start, `unset` the slots whose latest conversion arrived with UNSETTLED (R283). -/
structure ConvSt where
  reg : SeqSt := {}
  inj : SeqSt := {}
  inFlight : Nat := 0
  ends : Int := 0
  hist : Tab (List (Nat × W32)) := []
  commit : Tab W32 := []
  chkNext : Nat := 0
  chkRef : Tab Nat := []
  chkLast : Tab Nat := []
  chkBad : Tab Nat := []
  chkDue : Bool := false
  staleRun : List Nat := []
  unset : List Nat := []
deriving DecidableEq, Repr

/-- The converters and the calibration of a twin (R291, R292): the step in progress (0 none, 1 zero, 2 full, 3 skew),
M_Z per converter, latent coefficients under 16 × converter + input, and latent SKEW values under 1 and 3. -/
structure AdcSt where
  convs : Tab ConvSt := []
  step : Nat := 0
  zero : Tab Nat := []
  lat : Tab W32 := []
  latSkew : Tab W32 := []
deriving DecidableEq, Repr

end Sys2Proof
end

