-- ==== Sys2Proof/Machine/DrvTypes.lean ====
section
/-! DEFINITION. The state that 06_drive_control gives a twin beside the DRV_ registers. -/

namespace Sys2Proof

/-- One drive channel's sequencer (R209 to R225). `mode`: 0 pulses blocked, 1 modulating, 2 active short circuit.
`fresh`: the reason needs RUN written 0 and then 1. `phase` of a catch: 0 none, 1 measuring, 2 to 4 the three phases of
the polarity test, 6 and 7 the two sweeps, 8 waiting after a failed attempt. `wsc`, `iang`: the speed estimate of
R223. -/
structure DrvCh where
  mode : Nat := 0
  fresh : Bool := false
  hfi : Bool := false
  xoReq : Bool := true
  xoHold : Bool := false
  phase : Nat := 0
  fails : Nat := 0
  done : Bool := false
  n : Nat := 0
  sumE : W32 := 0
  sumW : W32 := 0
  th : W32 := 0
  wFound : W32 := 0
  catchW : W32 := 0
  ang : W32 := 0
  peakP : W32 := 0
  peakN : W32 := 0
  srchW : W32 := 0
  srchOn : Bool := false
  loss : Nat := 0
  lost : Bool := false
  wsc : W32 := 0
  iang : Option W32 := none
  imag : W32 := 0
  neg : Bool := false
  pa : W32 := 0
  pb : W32 := 0
  tf : W32 := 0
  badCmd : Bool := false
  badEst : Bool := false
deriving DecidableEq, Repr

/-- A position record (R235): the count, the count and stamp of the last encoder change, whether one came since EN,
INDEXED, the Hall sector (6 invalid) and the last valid one, direction and stamps of the last two valid Hall changes,
their number, the GPIO levels, the trigger time and the deratings of the strings as they stood at it (R175). Stamps in
1/16 ns. -/
structure PosRec where
  c : W32 := 0
  ce : W32 := 0
  te : Int := 0
  counted : Bool := false
  indexed : Bool := false
  sector : Nat := 0
  hallSec : Nat := 0
  dir : Int := 0
  h1 : Int := 0
  h0 : Int := 0
  changes : Nat := 0
  gpio : Nat := 0
  tau : Int := 0
  derate : List W32 := []
deriving DecidableEq, Repr

/-- The position decoders of a twin (R232 to R236): the live record, those at recent cycle starts by cycle, the
records captured and agreed per rate group, those of the previous run, and ENC_OMEGA and HALL_OMEGA of the last run. -/
structure PosSt where
  now : PosRec := {}
  starts : Tab PosRec := []
  hall : Nat := 0
  cap : Tab PosRec := []
  cur : Tab PosRec := []
  prev : Tab PosRec := []
  primed : List Nat := []
  encW : Tab W32 := []
  hallW : Tab W32 := []
  diff : Tab Nat := []
deriving DecidableEq, Repr

/-- The drive control of a twin: its channels, chopper duty and the duty last armed, whether stages 2 and 3 are in
force, the discharge (0 none, 1 waiting for no feed, 2 switching, 3 done with its switch kept on, 4 failed and still switching)
with V0, whether DIS_KEEP keeps the switch on, the levels of bound GPIO outputs (R237), and the position decoders. -/
structure DrvSt where
  ch : Tab DrvCh := []
  duty : W32 := 0
  armed : W32 := 0
  falling : Bool := false
  rising : Bool := false
  dis : Nat := 0
  kept : Bool := false
  v0 : W32 := 0
  gpioOut : Nat := 0
  pos : PosSt := {}
deriving DecidableEq, Repr

end Sys2Proof
end

