-- ==== Sys2Proof/Machine/ArrayTypes.lean ====
section
/-! DEFINITION. The state that 02_array_control, 03_tributary_link and 05_law_engines give a twin beside its registers,
and the state of one cell of the array (the cell obligations of 03_tributary_link). -/

namespace Sys2Proof

/-- The six values that CELL_DISPATCH hands over for a string (R183, R51). -/
structure StrRef where
  v : W32 := 0
  i : W32 := 0
  phi : W32 := 0
  theta : W32 := 0
  omega : W32 := 0
  run : Bool := false
deriving DecidableEq, Repr

/-- The modulator's state of one cell (R55, R56): last sent state and last sent edge of each leg, the carried edges,
whether the previous window was RUN, and the phase in use. Times are 1/16 ns since the cycle origin. -/
structure ModSt where
  legA : Bool := true
  legB : Bool := true
  edgeA : Option Int := none
  edgeB : Option Int := none
  carryA : Option (Int × Bool) := none
  carryB : Option (Int × Bool) := none
  on : Bool := false
  phi : Nat := 0
deriving DecidableEq, Repr

/-- The downlink of one CYCLE slot (R95): events as (time, leg state), isolation command and mode word. -/
structure Slot where
  events : List (Nat × Nat) := []
  iso : W32 := 0
  mode : W32 := 0
deriving DecidableEq, Repr

/-- What a twin keeps of one cell beside its CELL_ block: the modulator state, the insertion target (R70), the
counts of R66 and R68, the sums and stack of R60 and R61, the estimator sums and first estimates of R65, and agreed
values that no register shows. -/
structure CellX where
  mod : ModSt := {}
  vtgt : W32 := 0
  dev : Nat := 0
  miss : Nat := 0
  bypAt : Option Nat := none
  condSum : W32 := 0
  swSum : W32 := 0
  dT1 : W32 := 0
  dT2 : W32 := 0
  dir : Nat := 0
  ext : W32 := 0
  stack : List W32 := []
  iRe : W32 := 0
  iIm : W32 := 0
  vRe : W32 := 0
  vIm : W32 := 0
  samples : Nat := 0
  tauNow : Int := 0
  tauNext : Int := 0
  tauCand : Int := 0
  faultReset : Bool := false
  iiso : W32 := 0
  status : W32 := 0
  waits : Bool := false
  cap0 : W32 := 0
  esr0 : W32 := 0
  /-- One word of CELL_DAMAGE written alone, true the high one: it develops with the other (R78). -/
  dmgLat : Option (Bool × W32) := none
deriving DecidableEq, Repr

/-- The edges that one cell's dispatched window makes: the cell, its string and rank, their number, the switching energy of
each and |i_s| (R59, R60). They count once the window is emitted. -/
structure EdgeRun where
  cell : Nat
  str : Nat
  rank : Nat
  count : Nat
  energy : W32
  amps : W32
deriving DecidableEq, Repr

/-- What a twin keeps of one string: the cells in rank order (R486), the stress sum of each rank and the cycle of the last reassignment (R59), the
recent |v*| (R75), and the samples of the estimator's window so far (R65). -/
structure StrX where
  stress : Tab W32 := []
  rotAt : Nat := 0
  vreq : List W32 := []
  ranks : List Nat := []
  ranked : Bool := false
  estN : Nat := 0
deriving DecidableEq, Repr

/-- The array control of one twin. -/
structure ArrSt where
  /-- The cycle of the last CYCLE_START. -/
  n : Nat := 0
  /-- The cycle whose agreement or run is in progress. -/
  runN : Nat := 0
  /-- Agreement of cycle `runN` has closed and its run has not completed. -/
  inRun : Bool := false
  /-- Dispatch of cycle `n` has completed. -/
  dispatched : Bool := false
  /-- F(n+1) goes out with HOLD. -/
  hold : Bool := false
  /-- The last cycle whose dispatch overran. -/
  overN : Option Nat := none
  /-- 0 stopped, 1 rings being brought up, 2 frames run. -/
  phase : Nat := 0
  /-- The cycle in which ENABLE last developed (R456). -/
  enAt : Option Nat := none
  /-- The slots dispatched for the next frame, and those of the last frame. -/
  next : Tab Slot := []
  cur : Tab Slot := []
  /-- Modulator states that the dispatched window leads to. -/
  cand : Tab ModSt := []
  /-- The edges of the dispatched window, not yet emitted. -/
  edges : List EdgeRun := []
  /-- The cells bypassed for the dispatch to come that held a rank, with the warm spare selected for each, and the ranks of
  their strings before the first of them (R70, R73). -/
  assign : List (Nat × Option Nat) := []
  ranks0 : Tab (List Nat) := []
  /-- Start of the window that the cells execute after the last frame, 1/16 ns since the origin. -/
  w0 : Int := 0
  refs : Tab StrRef := []
  strs : Tab StrX := []
  cells : Tab CellX := []
  /-- The frames sent at the last cycle start, by chain. -/
  sent : Tab (List Byte) := []
  /-- BLOCK_ALL is to be set in the frames to come (R371). -/
  safeBlock : Bool := true
  /-- The TB count at which the twin registered the demand; none where it stands since the twin's reset. -/
  safeAt : Option Nat := none
  /-- The isolation feed is suspended for a discharge request (R227), and the windows already applied so. -/
  feedStop : Bool := false
  feedWins : Nat := 0
  /-- The last cycle in which the array was RUNNING; none if it has not been since the twin's reset (R227). -/
  ranAt : Option Nat := none
  probe : List Nat := []
  /-- Engines that failed self-test, and that one failed since the last cycle start (R37). -/
  engBad : List Nat := []
  engFailed : Bool := false
deriving DecidableEq, Repr

/-- One uplink as a twin received it in the current cycle (R126). -/
structure Uplink where
  valid : Bool
  usable : Bool
  vcap : W32
  iarm : W32
  temp1 : W32
  temp2 : W32
  iiso : W32
  status : W32
deriving DecidableEq, Repr

/-- No uplink. -/
def Uplink.none : Uplink := ⟨false, false, 0, 0, 0, 0, 0, 0⟩

/-- What a twin keeps of one of its rings beside its TRB_ block (R123, R126): whether frames are awaited, the
cell counters last reported, the probe results and times. -/
structure RingX where
  awaited : Bool := false
  seq : Nat := 0
  gen : Nat := 0
  echoed : List Nat := []
  returns : Nat := 0
  crcLast : Tab Nat := []
  missLast : Tab Nat := []
  lateLast : Tab Nat := []
  pairs : List Nat := []
  wake : Bool := false
  closed : Bool := false
  /-- The positions whose latest status reports TIME_LOCK (R123). -/
  locked : List Nat := []
  /-- The slot index of the cell at which this ring's own frames wrap (R122). -/
  wrap : Option Nat := none
  /-- The last hop has had a probe result (R126). -/
  hopKnown : Bool := false
deriving DecidableEq, Repr

/-- One item of a digest (R142): its segment, whether it is a cell slot, node or cell index, and the bytes. -/
structure DigItem where
  seg : Nat
  slot : Bool
  index : Nat
  data : List Byte
deriving DecidableEq, Repr

/-- A digest formed and not yet compared (R32, R142): the cycle, the digest and its items. -/
structure DigRec where
  cycle : Nat := 0
  d : W64 := 0
  items : List DigItem := []
deriving DecidableEq, Repr

/-- One run of RG1 to RG3 from its trigger until it has completed and its deadline has passed (R175 to R177): trigger
time in 1/16 ns of device time, the transition copies as they stood, the position record captured, whether its agreement
has closed, whether it has completed, and whether its deadline passed before that. -/
structure RgRun where
  tau : Int
  snap : Tab W32
  pos : PosRec
  closed : Bool := false
  done : Bool := false
  late : Bool := false
deriving DecidableEq, Repr

/-- The law engines and the developed graph of one twin (R173 to R192). `copies` are the transition copies as
developed, `pend` those of completed runs, `snap` those a group's run reads, `queue` the runs in flight, `trig`
the time of the PWM event that last triggered a group, `runs` the runs completed, `ovrRun` the consecutive overruns. -/
structure LawSt where
  img : Option GraphImg := none
  invalid : List Nat := []
  held : List Nat := []
  bufs : Tab (List W32) := []
  ms : Tab ModeSel := []
  track : Tab W32 := []
  copies : Tab W32 := []
  pend : Tab (Tab W32) := []
  snap : Tab (Tab W32) := []
  ts : Tab W32 := []
  queue : Tab (List RgRun) := []
  trig : Tab (Option Int) := []
  ovrRun : Tab Nat := []
  runs : Tab Nat := []
  swapSet : List Nat := []
deriving DecidableEq, Repr

/-- One Exposure of Negative beside its NEG_ registers (R195 to R200): rows written since arming, a Fix waiting for
the next row, source and time in nanoseconds of the originating row of a chained Fix, the previous value of the tested
node, the rows still to be written in POST, and the first page and pages of the region it was armed with. -/
structure ExpX where
  total : Nat := 0
  fixReq : Bool := false
  chained : Option (Nat × Nat) := none
  prev : Option W32 := none
  postLeft : Nat := 0
  base : Nat := 0
  pages : Nat := 0
deriving DecidableEq, Repr

end Sys2Proof
end

