-- ==== Sys2Proof/Machine/EdgeTypes.lean ====
section
/-! DEFINITION. The state that 07_power_edge gives the power edge beside its registers. Both twins run the same edge
logic on the same settings, so one state serves the pins. -/

namespace Sys2Proof

/-- One set of a PWM pair's latent values (R247), in units of 1/16 ns. -/
structure PwmSet where
  period : Nat := 0
  cmpA : Nat := 0
  cmpB : Nat := 0
  phase : Int := 0
  x : List Nat := []
deriving DecidableEq, Repr

/-- The carrier of one PWM pair (R244 to R250). Times are device time in 1/16 ns: boundary, next boundary, centre, and
rising and falling edge of the signals of A and B in this period. `perN` counts the boundaries since the start, `cmpN` and
`cmpT` number and last time of each compare event (R251). `sA`, `sB` are the signals' levels, `gA`, `gB` those
after the minimum-pulse rule, `skA`, `skB` that the next edge is removed with one already removed. -/
structure PwmX where
  begun : Bool := false
  b : Int := 0
  nb : Int := 0
  c : Int := 0
  ra : Int := 0
  fa : Int := 0
  rb : Int := 0
  fb : Int := 0
  x : List Nat := []
  xFrom : Int := 0
  xDone : List Nat := []
  perN : Nat := 0
  cmpN : List Nat := [0, 0, 0, 0]
  cmpT : List Int := [0, 0, 0, 0]
  pend : Option PwmSet := none
  com : Option PwmSet := none
  pendLate : Bool := false
  comLate : Bool := false
  now : Bool := false
  div : Nat := 0
  delta : Int := 0
  sA : Bool := false
  sB : Bool := false
  gA : Bool := false
  gB : Bool := false
  skA : Bool := false
  skB : Bool := false
  fA : Nat := 0
  fB : Nat := 0
  wA : Nat := 0
  wB : Nat := 0
  qA : Nat := 0
  qB : Nat := 0
deriving DecidableEq, Repr

/-- The two outputs of one pair (R242, R245): state of A and B (0 off, 1 on, 2 high impedance), a turn-on that waits
for dead time, dead time running before a turn-on and whether it ends with that of the PWM pair that feeds this one, a
turn-on that waits for its next scheduled on-edge (R149, R254), a trip state kept until the next boundary (R262: 1 trip
state, 2 off), soft turn-off and blanking in progress, and the slew code of a PWM pair's last edge (R264). -/
structure OutPair where
  a : Nat := 2
  b : Nat := 2
  wantA : Bool := false
  wantB : Bool := false
  deadA : Bool := false
  deadB : Bool := false
  tiedA : Bool := false
  tiedB : Bool := false
  waitA : Bool := false
  waitB : Bool := false
  hold : Nat := 0
  soft : Bool := false
  blank : Bool := false
  slew : Nat := 1
deriving DecidableEq, Repr

/-- One gate-drive pair's generator and supply state (R252, R254, R255): whether it runs, for the bridge or for the
sequencer's discharge, the boundaries since its start, its developed period and on-time, values written and not yet
developed, channel A's signal, lock-out, and a forced or a scheduled refresh in progress. -/
structure GenX where
  run : Bool := false
  bridge : Bool := false
  count : Nat := 0
  period : Nat := 0
  on : Nat := 0
  written : Bool := false
  seq : Option (Nat × Nat) := none
  s : Bool := false
  lock : Bool := false
  refresh : Bool := false
  sched : Bool := false
deriving DecidableEq, Repr

/-- The power edge: PWM carriers, generators, outputs (PWM pair p under p, gate-drive pair g under 8 + g), the sides
that still owe the bridge's stop test (R370), whether one failed, and the off-state test of each twin (channels left). -/
structure EdgeSt where
  pwm : Tab PwmX := []
  gen : Tab GenX := []
  out : Tab OutPair := []
  bridgeOn : Bool := false
  testA : Bool := false
  testB : Bool := false
  testBad : Bool := false
  diag : List Nat := []
deriving DecidableEq, Repr

end Sys2Proof
end

