-- ==== Sys2Proof/Machine/State.lean ====
section
/-! DEFINITION. The state of the SK192 as plain data: the two twins with their register maps and the state their
chapters give them, the power-edge die, the agreed host state, and the queue of waiting commands. -/

namespace Sys2Proof.Machine

/-- Why a step stops with a fault. The spec gives this device no fault of its own: every refusal it describes is a
result code reported to the sender, which is a next state. No meaning raises it; it is kept so that the type is not
empty (safe). DESIGN CHOICE, safe: log entry 6. -/
inductive Fault where
  | none
deriving DecidableEq, Repr

/-- Why a step refuses a command. -/
inductive Refusal where
  /-- The command's meaning is not written yet; raised by `exec`'s arm for it (safe). -/
  | notModelled (mnemonic : String)
deriving DecidableEq, Repr

/-- Twin control (04_twins): what R130 to R161 keep beside the TWN_ registers. -/
structure TwnSt where
  bootBase : Nat := 0
  linkFailed : Bool := false
  linkErrors : Nat := 0
  linkAgain : Nat := 0
  linkIn : W64 := 0
  overrunRun : Nat := 0
  missRun : Nat := 0
  /-- Digests not yet compared: group k's run number r under 4 × r + k, RG0's by its cycle. -/
  dig : Tab DigRec := []
  stScheduled : Bool := false
  mismatchAt : Option Nat := none
  bgPass : Nat := 0
  handover : Option Nat := none
  rotating : Bool := false
  /-- The TB tick before which no hand-over is named: a minute after one was postponed or abandoned (R155, R157). -/
  handAfter : Nat := 0
  /-- The cycle in which an immediate cause took the lead from this twin while the other followed (R146). -/
  leftAt : Option Nat := none
  /-- The cycle in which this twin withdrew while it followed (R146). -/
  fellAt : Option Nat := none
  autoAt : List Nat := []
  rejoining : Bool := false
  compareOff : Bool := false
  joinFailed : Bool := false
  updated : Bool := false
  hbOut : Option Heartbeat := none
  hbFit : Bool := false
  hbCycle : W32 := 0
  hbCause : Nat := 0
  kaSent : Nat := 0
  fullTested : Bool := false
  /-- A full self-test has passed since TWIN_FAIL was last latched (R368). -/
  testedSince : Bool := false
  claimPrev : W32 := 0
  claimAt : Nat := 0
  uvlo : Nat := 0
  /-- Coverage of the last full pass by item of R158, not yet in the Contact sheet. -/
  cover : Tab Nat := []
  /-- Device time of the last snapshot of R162, in nanoseconds. -/
  snapAt : Int := 0
deriving DecidableEq, Repr

/-- The boot flash of one twin (R447): what each area holds. Image slots are numbered 2 × type + slot. -/
structure FlashSt where
  epochRes : Nat := 0
  keys : Tab (BitVec 256) := []
  wear : Tab (List W32) := []
  /-- The wear record's other copy, and the generation of the copy in force (R447). -/
  wearOld : Tab (List W32) := []
  wearGen : Nat := 0
  cal : Tab W32 := []
  active : Nat := 0
  /-- The directory's other copy, and the generation of the copy in force (R447). -/
  dirOld : Nat := 0
  dirGen : Nat := 0
  images : Tab (List Byte) := []
  verified : Nat := 0
  trial : Nat := 0
  session : Option Nat := none
  sessType : Nat := 0
  sessLen : Nat := 0
  sessGranted : Bool := false
  /-- The words written in the session, by offset ÷ 4. -/
  sessWords : Tab (Option W32) := []
  nextSession : Nat := 1
  /-- A trial mark was cleared: the next boot sets BOOT_FALLBACK (R452). -/
  fellBack : Bool := false
deriving DecidableEq, Repr

/-- Clocks, power and boot of one twin (13_clocks_power_reset). -/
structure PwrSt where
  xtalFail : Bool := false
  bootDone : Bool := false
  downWait : Nat := 0
  straps : Nat := 0
  fullTest : Bool := false
  lastFreq : Nat := 0
  revoked : Nat := 0
  keyHashes : Tab (List Byte) := []
  gated : List Nat := [5, 6]
  rampFrom : Nat := 0
  rampAt : W64 := 0
  rampPts : List (Nat × Nat × Nat) := []
deriving DecidableEq, Repr

/-- One stream queue of a twin (R416 to R423): the unread bytes of the fill and the drain bank, one parity flag per
byte (set where its halfword has bad parity), the bytes the fill bank has taken, whether it is closed, whether units
were dropped since the last record, and the last datagram sent. -/
structure QueueSt where
  fill : List (Byte × Bool) := []
  drain : List (Byte × Bool) := []
  fillPos : Nat := 0
  closed : Bool := false
  dropped : Bool := false
  out : List Byte := []
  dump : List (List Byte) := []
deriving DecidableEq, Repr

/-- Everything one twin keeps. -/
structure TwinSt where
  /-- The twin's register map, listed where it differs from the reset values. -/
  regs : Tab W32 := []
  /-- The TB counter (R7). -/
  tb : W64 := 0
  /-- OFS of R320, in units of 2^-16 ns. -/
  ofs : Int := 0
  twn : TwnSt := {}
  flash : FlashSt := {}
  pwr : PwrSt := {}
  arr : ArrSt := {}
  law : LawSt := {}
  rings : Tab RingX := []
  /-- The uplinks of the current cycle, and those of recent cycles whose agreement may be open, by cycle. -/
  uplinks : Tab Uplink := []
  upOld : Tab (Tab Uplink) := []
  exps : Tab ExpX := []
  adc : AdcSt := {}
  drv : DrvSt := {}
  saf : SafSt := {}
  net : NetTw := {}
  tm : TimeSt := {}
  can : Tab CanSt := []
  /-- Negative memory by 32-bit word (R194). -/
  neg : Tab W32 := []
  xings : Tab Xing := Xing.allHeld
  queues : Tab QueueSt := []
deriving DecidableEq, Repr

/-- The interlock arbiter and the shared-pin multiplexer of the power-edge die (R16 to R18, R149). -/
structure IlkSt where
  holder : Option Twin := none
  pins : Option Twin := none
  reqA : Bool := false
  reqB : Bool := false
  lapsedA : Bool := false
  lapsedB : Bool := false
deriving DecidableEq, Repr

/-- The Sluice ledger (R444): requests waiting, in order, and grants held. -/
structure SluiceSt where
  queue : List LeaveReq := []
  held : List LeaveReq := []
deriving DecidableEq, Repr

/-- One host context (R391 to R405): the counters accepted within the window of R392, the packets kept, the reply of a
KEY_ROLL still answered under the old key (R399), the commands queued, and the device time of the last acceptance in
nanoseconds. -/
structure CtxSt where
  accepted : List Nat := []
  kept : List Kept := []
  rolled : Option Kept := none
  oldKey : BitVec 256 := 0
  queue : List Queued := []
  lastAt : Int := 0
deriving DecidableEq, Repr

/-- The host interface of the device (12_host_commands): the contexts, the context whose turn is next, the pending
changes in order of execution, the commands waiting for leave, the serial reply queue with the PUT errors since the
last STAT and what the last transaction returned, the reply last built and those sent last, newest first. -/
structure HostSt where
  ctx : Tab CtxSt := []
  turn : Nat := 0
  changes : List Change := []
  nextId : Nat := 1
  waits : List HostWait := []
  serial : List Reply := []
  serErrs : Nat := 0
  serOut : List Byte := []
  lastReply : Option Reply := none
  sent : List (Queued × Reply) := []
deriving DecidableEq, Repr

/-- The whole device. -/
structure State where
  /-- The commands waiting, first in, first out. -/
  pending : List Instr := []
  a : TwinSt := {}
  b : TwinSt := {}
  ilk : IlkSt := {}
  sluice : SluiceSt := {}
  host : HostSt := {}
  edge : EdgeSt := {}
  net : NetSt := {}
  /-- The cells of the array, under the key 16 × chain + position on twin A's ring. -/
  cells : Tab CellSt := []
  /-- The result code the last command reported to its sender (R415, R457); 0 is OK. -/
  report : Nat := 0
  /-- The words the last register read returned. -/
  readOut : List W32 := []
  /-- A power fail is being handled: no new Sluice leave (R432). -/
  pfail : Bool := false
  /-- The power-edge die is above its over-temperature limit (R475). -/
  overTemp : Bool := false
  /-- Lifecycle of R453: whether it is LOCKED. -/
  lockedLife : Bool := false
  /-- The model's own count of free values drawn so far; the spec names no such counter. -/
  free : Nat := 0
deriving DecidableEq, Repr

/-- The machine right after reset. -/
def State.reset : State := {}

/-- One twin's state. -/
def State.tw (s : State) : Twin → TwinSt
  | .a => s.a
  | .b => s.b

/-- The state with one twin's state replaced. DESIGN CHOICE, safe: log entry 12. -/
def State.setTw (s : State) (t : Twin) (x : TwinSt) : State :=
  match t with
  | .a => { s with a := x }
  | .b => { s with b := x }

/-- The answer of a meaning. -/
abbrev Out := Host.Outcome State Fault Refusal

end Sys2Proof.Machine
end

