-- ==== Sys2Proof/Machine/RegOps.lean ====
section
/-! DEFINITION. The first operations every meaning is built from: reading and writing registers and fields, counters
(R8, R9), events, reports, the twin states of R130, device time and array cycles. -/

namespace Sys2Proof.Machine

/-- The word at address `a` of twin `t`. -/
def rd (s : State) (t : Twin) (a : Nat) : W32 := tabGet (resetWord a) (s.tw t).regs a

/-- Replace the word at address `a` of twin `t`, keeping the map canonical. -/
def wr (s : State) (t : Twin) (a : Nat) (v : W32) : State :=
  s.setTw t { s.tw t with regs := tabSet (resetWord a) (s.tw t).regs a v }

/-- The field of an indexed word: its address moved by `k` bytes. -/
def fo (f : Fld) (k : Nat) : Fld := ⟨f.addr + k, f.hi, f.lo⟩

/-- A field's value. -/
def rf (s : State) (t : Twin) (f : Fld) : Nat := bits (rd s t f.addr) f.hi f.lo

/-- Replace a field. -/
def wf (s : State) (t : Twin) (f : Fld) (v : Nat) : State :=
  wr s t f.addr (putBits (rd s t f.addr) f.hi f.lo v)

/-- A one-bit field as a Bool. -/
def flag (s : State) (t : Twin) (f : Fld) : Bool := rf s t f == 1

/-- Set an event bit. -/
def ev (s : State) (t : Twin) (f : Fld) : State := wf s t f 1

/-- Set bit `i` of an event field. -/
def evi (s : State) (t : Twin) (f : Fld) (i : Nat) : State :=
  wr s t f.addr (rd s t f.addr ||| BitVec.ofNat 32 (2 ^ (f.lo + i)))

/-- Clear bit `i` of a field. -/
def clri (s : State) (t : Twin) (f : Fld) (i : Nat) : State :=
  wr s t f.addr (rd s t f.addr &&& ~~~ BitVec.ofNat 32 (2 ^ (f.lo + i)))

/-- Bit `i` of a field. -/
def biti (s : State) (t : Twin) (f : Fld) (i : Nat) : Bool := nbit (rf s t f) i

/-- The overflow flags of the counters (R8), block by block: unit base, unit strides, offset of the first counter,
number of counters at 4-byte (LAW: 16-byte) steps, offset of the OVF word; counter b has flag bit b. -/
def ovfRows : List (Nat × List (Nat × Nat) × Nat × Nat × Nat × Nat) := [
  (0x0, [], 0x3C, 1, 4, 0x44), (0x10000, [], 0x40, 18, 4, 0x90), (0x10000, [], 0x150, 2, 4, 0x158),
  (0x100000, [(0x1000, 12)], 0x40, 8, 4, 0x60), (0x100100, [(0x1000, 12), (0x40, 16)], 0x20, 3, 4, 0x2C),
  (0x400000, [], 0x4C, 4, 16, 0x20), (0x1000100, [(0x80, 8)], 0x50, 2, 4, 0x58),
  (0x1020000, [], 0x90, 16, 4, 0xD0), (0x1100100, [(0x200, 4)], 0x28, 2, 4, 0x30),
  (0x1200000, [], 0x30, 5, 4, 0x44), (0x1200100, [(0x40, 4)], 8, 5, 4, 0x1C),
  (0x1200400, [(0x20, 8)], 4, 3, 4, 0x10), (0x1200600, [(0x20, 4)], 4, 3, 4, 0x10),
  (0x1210000, [], 0x90, 5, 4, 0xA4), (0x1300000, [(0x10000, 2)], 0x20, 10, 4, 0x48),
  (0x1400000, [], 0x50, 6, 4, 0x68), (0x1500000, [], 0x10, 1, 4, 0x14),
  (0x1500100, [(0x40, 4)], 0x14, 5, 4, 0x28), (0x1600100, [(0x40, 6)], 0x20, 5, 4, 0x34),
  (0x1700000, [], 0x20, 7, 4, 0x3C), (0x1800000, [], 0x10, 2, 4, 0x18),
  (0x1800100, [(0x100, 2)], 0x0C, 4, 4, 0x1C), (0x1800400, [], 0x20, 2, 4, 0x28) ]

/-- Where in a row's units address `a` is a counter: the OVF word's address and the flag bit. -/
def ovfIn : List (Nat × Nat) → Nat → Nat → Nat → Nat → Nat → Nat → Option (Nat × Nat)
  | [], u, a, first, n, st, ovf =>
    if u + first ≤ a ∧ (a - u - first) % st = 0 ∧ (a - u - first) / st < n
    then some (u + ovf, (a - u - first) / st) else none
  | (sd, m) :: r, u, a, first, n, st, ovf =>
    if u ≤ a ∧ (a - u) / sd < m then ovfIn r (u + (a - u) / sd * sd) a first n st ovf else none

/-- The overflow flag of the counter at address `a`: OVF word and bit; none where the block assigns none. -/
def counterOvf (a : Nat) : Option (Nat × Nat) :=
  ovfRows.findSome? (fun r => ovfIn r.2.1 r.1 a r.2.2.1 r.2.2.2.1 r.2.2.2.2.1 r.2.2.2.2.2)

/-- Set the overflow flag of the counter at `a`. -/
def setOvf (s : State) (t : Twin) (a : Nat) : State :=
  match counterOvf a with
  | some (w, b) => wr s t w (rd s t w ||| BitVec.ofNat 32 (2 ^ b))
  | none => s

/-- Clear the overflow flag of the counter at `a` (R9). -/
def clearOvf (s : State) (t : Twin) (a : Nat) : State :=
  match counterOvf a with
  | some (w, b) => wr s t w (rd s t w &&& ~~~ BitVec.ofNat 32 (2 ^ b))
  | none => s

/-- Add `k` to the counter at `a`, saturating at 0xFFFF_FFFF with its overflow flag (R8). -/
def cntBy (s : State) (t : Twin) (a : Nat) (k : Nat) : State :=
  if (rd s t a).toNat + k < 4294967295 then wr s t a (BitVec.ofNat 32 ((rd s t a).toNat + k))
  else setOvf (wr s t a 0xFFFFFFFF#32) t a

/-- Count one event (R8). -/
def cnt (s : State) (t : Twin) (a : Nat) : State := cntBy s t a 1

/-- The effect of reading the word at `a`: RC fields clear, with their overflow flag (R9, R11). -/
def rcClear (s : State) (t : Twin) (a : Nat) : State :=
  match findRow a with
  | none => s
  | some r =>
    if r.fields.any (fun f => f.acc == .rc) then
      clearOvf (wr s t a (r.fields.foldl (fun w f => if f.acc == .rc then putBits w f.hi f.lo 0 else w) (rd s t a))) t a
    else s

/-- What a read of the word at `a` returns: the fields the map gives it, WO fields and reserved bits as 0 (R11, R12). -/
def readWord (s : State) (t : Twin) (a : Nat) : W32 :=
  match findRow a with
  | none => 0#32
  | some r =>
    r.fields.foldl (fun w f => if f.acc == .wo then w else putBits w f.hi f.lo (bits (rd s t a) f.hi f.lo)) 0#32

/-- The bases of the blocks of R14, in its order, and the end of the last block (R425). -/
def blockBases : List Nat := [0x0, 0x10000, 0x100000, 0x200000, 0x300000, 0x400000, 0x800000, 0x1000000, 0x1010000,
  0x1020000, 0x1100000, 0x1200000, 0x1210000, 0x1300000, 0x1400000, 0x1500000, 0x1600000, 0x1700000, 0x1800000, 0x1900000]

/-- The number of the block of R14 that an address lies in; none outside the blocks. -/
def blockOf (a : Nat) : Option Nat :=
  if a < 0x1A00000 then some ((blockBases.filter (fun b => decide (b ≤ a))).length - 1) else none

/-- Whether a word address lies in a block (R14). An address in a block that no register covers reads as 0 and ignores
writes, as reserved bits do (R12). DEDUCED, unsafe: log entry 11. -/
def inBlocks (a : Nat) : Bool := a % 4 == 0 && (blockOf a).isSome

/-- Change bit `k` of a mask. -/
def setBit (m k : Nat) (v : Bool) : Nat := if nbit m k = v then m else if v then m + 2 ^ k else m - 2 ^ k

/-- The safety parameters (R380): the RWL fields of SAF_, TWN_EPOCH_BASE and the torque monitors' parameters. -/
def safetyParam (a : Nat) : Bool :=
  a == R.SAF_GCFG || a == R.SAF_OUTCFG || (R.SAF_F_CFG ≤ a && a < R.SAF_F_CFG + 16) || a == R.TWN_EPOCH_BASE
    || (R.DRV_D_KT ≤ a && a ≤ R.DRV_D_TMON_ADC) || (R.DRV_D_KT + 256 ≤ a && a ≤ R.DRV_D_TMON_ADC + 256)

/-- The code of the value `v` outside its range at address `a` (R441, R484): RAMP_INVALID for a ramp point and for NPTS of
0, which R441 names; PARAM_ORDER otherwise. DEDUCED, unsafe: log entry 187. -/
def rangeCode (a : Nat) (v : W32) : Nat :=
  if (R.CLK_RAMP ≤ a ∧ a < R.CLK_RAMP + 32) ∨ (a = R.CLK_RAMP_CTRL ∧ bits v 3 0 = 0) then Rc.RAMP_INVALID
  else Rc.PARAM_ORDER

/-- Report a result code to the command's sender. DESIGN CHOICE, unsafe: log entry 7. -/
def say (s : State) (code : Nat) : State := { s with report := code }

/-- The next free value's index: the counter advances. -/
def freeTick (s : State) : State := { s with free := s.free + 1 }

/-- Do something for twin A, then for twin B. DESIGN CHOICE, unsafe: log entry 20. -/
def onBoth (f : State → Twin → State) (s : State) : State := f (f s .a) .b

/-- Do something for the twins that a write addresses. -/
def onTarget (tg : Target) (f : State → Twin → State) (s : State) : State :=
  match tg with
  | .one t => f s t
  | .both => onBoth f s

/-- The first refusal among the twins that a write addresses. -/
def targetCode (tg : Target) (f : Twin → Nat) : Nat :=
  match tg with
  | .one t => f t
  | .both => if f .a ≠ Rc.OK then f .a else f .b

/-- Change one twin's hidden twin-control state. -/
def modTwn (s : State) (t : Twin) (f : TwnSt → TwnSt) : State :=
  s.setTw t { s.tw t with twn := f (s.tw t).twn }

/-- Change one twin's flash. -/
def modFlash (s : State) (t : Twin) (f : FlashSt → FlashSt) : State :=
  s.setTw t { s.tw t with flash := f (s.tw t).flash }

/-- Change one twin's power and boot state. -/
def modPwr (s : State) (t : Twin) (f : PwrSt → PwrSt) : State :=
  s.setTw t { s.tw t with pwr := f (s.tw t).pwr }

/-! The twin states of R130. -/

def tsReset : Nat := 0
def tsBoot : Nat := 1
def tsJoining : Nat := 2
def tsFollowing : Nat := 3
def tsLeading : Nat := 4
def tsIsolated : Nat := 5
def tsWithdrawn : Nat := 6
def tsLost : Nat := 7

/-- TWN_STATE.STATE of a twin. -/
def twState (s : State) (t : Twin) : Nat := rf s t R.TWN_STATE_STATE

/-- TWN_STATE.OTHER: the other twin's state as this twin last heard it. -/
def twOther (s : State) (t : Twin) : Nat := rf s t R.TWN_STATE_OTHER

/-- The twin that is LEADING. -/
def leader (s : State) : Option Twin :=
  if twState s .a = tsLeading then some .a else if twState s .b = tsLeading then some .b else none

/-- Whether a twin computes (R130): JOINING, FOLLOWING, LEADING or ISOLATED. -/
def computing (s : State) (t : Twin) : Bool :=
  decide (2 ≤ twState s t) && decide (twState s t ≤ 5)

/-- Whether the twin is LEADING or FOLLOWING. -/
def inPair (s : State) (t : Twin) : Bool :=
  twState s t == tsLeading || twState s t == tsFollowing

/-- Do something for each twin that computes. -/
def onComputing (f : State → Twin → State) (s : State) : State :=
  onBoth (fun s t => if computing s t then f s t else s) s

/-- A sequence-entry reference of the agreement table or a probe (R285): none, or an entry within its sequence. -/
def refOk (s : State) (t : Twin) (ref : Nat) : Bool :=
  let q := ref / 16 % 4
  ref == 65535 || (decide (ref < 128) && (if ref / 64 = 1 then decide (ref % 16 ≤ rf s t (fo R.ADC_C_ICFG_LEN (512 * q)))
    else decide (ref % 16 < rf s t (fo R.ADC_C_RCFG_LEN (512 * q)))))

/-- A read of `n` words from `a` that takes in TRIP_LIVE samples the levels of the trip and sense inputs there (R269): the
levels are those of the pins, a free value. -/
def sampleLive (s : State) (t : Twin) (a n : Nat) : State :=
  let r := R.TRIP_LIVE_IN_ACTIVE.addr
  if a ≤ r ∧ r < a + 4 * n then
    let x := Config.freeWord s.free
    wf (wf (freeTick s) t R.TRIP_LIVE_IN_ACTIVE (bits x 7 0)) t R.TRIP_LIVE_DSN_ABOVE (bits x 15 8)
  else s

/-! Crossing cells (R23 to R28). -/

/-- The key of one direction of a domain's crossing; `into` is into the fabric. -/
def xingKey (d : Fin 9) (into : Bool) : Nat := 2 * d.val + bit into

/-- One direction of a crossing. -/
def xing (s : State) (t : Twin) (k : Nat) : Xing := tabGet Xing.init (s.tw t).xings k

/-- Replace one direction of a crossing. -/
def setXing (s : State) (t : Twin) (k : Nat) (x : Xing) : State :=
  s.setTw t { s.tw t with xings := tabSet Xing.init (s.tw t).xings k x }

/-- The value the reading side accepts: the first sample equal to the one before it, in at most four comparisons;
`none` when none of the comparisons made agrees (R25). -/
def settle : Nat → List W32 → Option W32
  | 0, _ => none
  | _, [] => none
  | _, [_] => none
  | n + 1, x :: y :: r => if x = y then some y else settle n (y :: r)

/-- A transfer offered while the crossing's other side is in reset is discarded and counted (R28 2, 3). -/
def xingLost (s : State) (t : Twin) (d : Fin 9) (into : Bool) : State :=
  cnt (setXing s t (xingKey d into) { xing s t (xingKey d into) with notReady := true }) t
    (R.CLK_XING_DROPPED_AT_RESET + 8 * d.val)

/-- The reading side judges one transfer by its samples (R25): the value agreed on is accepted; four comparisons without
agreement leave the last accepted value with UNSETTLED, counted. -/
def accept (t : Twin) (d : Fin 9) (into : Bool) (s : State) (samples : List W32) : State :=
  let k := xingKey d into
  let x := xing s t k
  match settle 4 samples with
  | some v => setXing s t k { x with last := v, unsettled := false, notReady := false }
  | none =>
    if samples.length < 5 then s
    else cnt (setXing s t k { x with unsettled := true }) t (R.CLK_XING_UNSETTLED + 8 * d.val)

/-- The transfers waiting in the direction out of the fabric complete, in order (R26, R27). -/
def deliver (s : State) (t : Twin) (d : Fin 9) : State :=
  let x := xing s t (xingKey d false)
  x.offered.foldl (accept t d false) (setXing s t (xingKey d false) { x with offered := [] })

/-- The PLL whose loss stops a domain (R438, R442): TB and CB the TB PLL, AD, LT and NW their own. -/
def domainPll (d : Nat) : Option Nat :=
  match d with
  | 0 => some 0
  | 1 => some 1
  | 2 => some 2
  | 4 => some 3
  | 5 => some 0
  | _ => none

/-- Whether a transfer out of the fabric into a domain waits: the domain is gated (R26), clocked by the host alone (R27),
or its PLL is lost (R36). -/
def domainWaits (s : State) (t : Twin) (d : Fin 9) : Bool :=
  (s.tw t).pwr.gated.contains d.val || d.val == 7
    || (domainPll d.val).any (fun p => !(biti s t R.CLK_STATUS_LOCK p))

/-- A domain's clock is gated: CB and MP while idle. -/
def gate (s : State) (t : Twin) (d : Fin 9) : State :=
  modPwr s t (fun p => { p with gated := [5, 6].filter (fun k => k == d.val || p.gated.contains k) })

/-- A gated domain's clock restarts, and its waiting transfers complete. -/
def ungate (s : State) (t : Twin) (d : Fin 9) : State :=
  let s1 := modPwr s t (fun p => { p with gated := p.gated.erase d.val })
  if domainWaits s1 t d then s1 else deliver s1 t d

/-- A value of a domain reaches twin `t`'s fabric through its crossing (R23): it acts unless the crossing's other
side is in reset, when it is discarded and counted (R28). DEDUCED, unsafe: log entry 238. -/
def crossIn (s : State) (t : Twin) (d : Fin 9) (f : State → State) : State :=
  if (xing s t (xingKey d true)).dead then xingLost s t d true else f s

/-- A value that leaves twin `t`'s fabric into a domain by a row of its own (R23): it leaves unless the crossing's other
side is in reset, when it is discarded and counted (R28). DEDUCED, unsafe: log entry 238. -/
def crossOut (s : State) (t : Twin) (d : Fin 9) (f : State → State) : State :=
  if (xing s t (xingKey d false)).dead then xingLost s t d false else f s

/-! Device time and array cycles. -/

/-- Device time of a twin in units of 2^-16 ns (R320). -/
def devTime (s : State) (t : Twin) : Int :=
  let c : Int := (s.tw t).tb.toNat
  let r : Int := (rd s t R.TIME_RATE).toInt
  (s.tw t).ofs + c * 65536 + (c * r) / 16777216

/-- The rate word changes (R320): OFS takes c0 × 2^16 × (r_old − r_new) ÷ 2^40, the sum rounded towards zero to one
unit. -/
def setRate (s : State) (t : Twin) (r : W32) : State :=
  let c : Int := (s.tw t).tb.toNat
  let d : Int := (rd s t R.TIME_RATE).toInt - r.toInt
  let x := s.tw t
  wr (s.setTw t { x with ofs := (x.ofs * 16777216 + c * d).tdiv 16777216 }) t R.TIME_RATE r

/-- Device time of a twin in whole nanoseconds. -/
def devNs (s : State) (t : Twin) : Int := devTime s t / 65536

/-- The array-cycle length in nanoseconds (R45). -/
def cycNs (s : State) (t : Twin) : Nat := rf s t R.ARR_CYCLE_LEN * 250

/-- T_cyc in 1/16 ns. -/
def cyc16 (s : State) (t : Twin) : Nat := cycNs s t * 16

/-- The cycle origin t_origin in nanoseconds (R45). -/
def originNs (s : State) (t : Twin) : Int :=
  ((rd s t R.ARR_ORIGIN_S).toNat + (rd s t R.ARR_ORIGIN_SH).toNat % 65536 * 4294967296 : Nat) * 1000000000
    + ((rd s t R.ARR_ORIGIN_NS).toNat : Int)

/-- The number n of the current array cycle, counted from the origin whether or not the array runs (R407). -/
def cycleNow (s : State) (t : Twin) : Nat := ((devNs s t - originNs s t) / (cycNs s t : Int)).toNat

/-- The device time t_n of a cycle start, in nanoseconds (R29). -/
def cycleStartNs (s : State) (t : Twin) (n : Nat) : Int := originNs s t + n * (cycNs s t : Int)

/-- A Tributary time: device time in 1/16 ns, truncated to 40 bits (R3). -/
def tribTime (dev : Int) : Nat := (dev / 4096 % 1099511627776).toNat

/-- The signed difference of two Tributary times (R4). -/
def tribDiff (ev now : Nat) : Int :=
  let d := (ev + 1099511627776 - now % 1099511627776) % 1099511627776
  if d ≥ 549755813888 then (d : Int) - 1099511627776 else d

/-- The acceptance rule of 16-bit sequence numbers (R10): 0 duplicate, 1 accept, 2 outside the window. -/
def seqJudge (last : Option Nat) (got : Nat) : Nat :=
  match last with
  | none => 1
  | some l =>
    let d := (got + 65536 - l) % 65536
    if d = 0 then 0 else if d ≤ 256 then 1 else 2

end Sys2Proof.Machine
end

