-- ==== Sys2Proof/Machine/Edge.lean ====
section
/-! DEFINITION. The power edge's shared operations (07_power_edge): which source gives an output its state (R242), dead
time (R245, R260), soft turn-off (R253, R264), and what the status registers show of it. Output codes: 0 off, 1 on,
2 high impedance. -/

namespace Sys2Proof.Machine

/-- The twin whose settings the pins follow: the one that drives them, else twin A (R242: both hold equal settings).
DESIGN CHOICE, unsafe: log entry 98. -/
def edgeTwin (s : State) : Twin := s.ilk.pins.getD .a

/-- Do something in each twin that is not in RESET. -/
def onLive (f : State → Twin → State) (s : State) : State :=
  onBoth (fun s t => if twState s t = tsReset then s else f s t) s

/-- Change the power edge. -/
def modEdge (s : State) (f : EdgeSt → EdgeSt) : State := { s with edge := f s.edge }

/-- The carrier of PWM pair `p`. -/
def pwm (s : State) (p : Nat) : PwmX := tabGet {} s.edge.pwm p

/-- Change a carrier. -/
def modPwm (s : State) (p : Nat) (f : PwmX → PwmX) : State :=
  modEdge s (fun e => { e with pwm := tabMod {} e.pwm p f })

/-- The generator and supply state of gate-drive pair `g`. -/
def gen (s : State) (g : Nat) : GenX := tabGet {} s.edge.gen g

/-- Change a generator. -/
def modGen (s : State) (g : Nat) (f : GenX → GenX) : State :=
  modEdge s (fun e => { e with gen := tabMod {} e.gen g f })

/-- The outputs of pair `k`: PWM pair k below 8, gate-drive pair k − 8 from 8. -/
def outs (s : State) (k : Nat) : OutPair := tabGet {} s.edge.out k

/-- Change a pair's outputs. -/
def modOut (s : State) (k : Nat) (f : OutPair → OutPair) : State :=
  modEdge s (fun e => { e with out := tabMod {} e.out k f })

/-- A field of PWM pair `p`. -/
def pf (f : Fld) (p : Nat) : Fld := fo f (128 * p)

/-- A field of gate-drive pair `g`. -/
def gf (f : Fld) (g : Nat) : Fld := fo f (64 * g)

/-- Safe torque off in force in either side (R256, R369). -/
def stoNow (s : State) : Bool := flag s .a R.SAF_STATUS_STO || flag s .b R.SAF_STATUS_STO

/-- Safelight on (R454). -/
def safelight (s : State) : Bool := flag s .a R.SYS_STATUS_SAFELIGHT || flag s .b R.SYS_STATUS_SAFELIGHT

/-- The latched trips of the side that drives the pins (R261). -/
def tripIn (s : State) : Nat := rf s (edgeTwin s) R.TRIP_LATCH_IN
def tripSc (s : State) : Nat := rf s (edgeTwin s) R.TRIP_LATCH_SC

/-- The pair that sense input `k` guards. -/
def dsnPair (s : State) (k : Nat) : Nat := 8 * rf s (edgeTwin s) (fo R.TRIP_DSN_TARGET (8 * k)) + k

/-- A short-circuit trip is latched on pair `k` (R264). -/
def scOn (s : State) (k : Nat) : Bool := nbit (tripSc s) (k % 8) && dsnPair s (k % 8) == k

/-- Pair `k` is in a group of a latched short circuit (R264). -/
def groupOn (s : State) (k : Nat) : Bool :=
  (List.range 8).any (fun j => nbit (tripSc s) j && dsnPair s j / 8 == k / 8
    && nbit (rf s (edgeTwin s) (fo R.TRIP_DSN_GROUP_GROUP (8 * j))) (k % 8))

/-- A latched trip input masks pair `k` (R259). -/
def maskOn (s : State) (k : Nat) : Bool :=
  (List.range 8).any (fun i => nbit (tripIn s) i
    && nbit (rf s (edgeTwin s) (fo (if k < 8 then R.TRIP_IN_PWMMASK else R.TRIP_IN_GDMASK) (4 * i))) (k % 8))

/-- Whether pair `k` is in its trip state, or still keeps it after a clear (R262). -/
def tripped (s : State) (k : Nat) : Bool := maskOn s k || groupOn s k || (outs s k).hold == 1

/-- The trip state of output `x` of pair `k` (R259). -/
def tripState (s : State) (k x : Nat) : Nat :=
  let n := 2 * (k % 8) + x
  rf s (edgeTwin s) ⟨if k < 8 then R.TRIP_STATE_PWM else R.TRIP_STATE_GD, 2 * n + 1, 2 * n⟩

/-- The safer of a host force and a sequencer force, in the order off, high impedance, on (R250). -/
def saferForce (a b : Nat) : Nat :=
  if a = 1 ∨ b = 1 then 1 else if a = 3 ∨ b = 3 then 3 else if a = 2 ∨ b = 2 then 2 else 0

/-- The force on output `x` of a PWM pair. -/
def forceOf (s : State) (p x : Nat) : Nat :=
  let q := pwm s p
  if x = 0 then saferForce q.fA q.qA else saferForce q.fB q.qB

/-- The output code of a force. -/
def forceCode (f : Nat) : Nat := if f = 2 then 1 else if f = 3 then 2 else 0

/-- Whether a gate-drive pair runs as part of the bridge (R256). -/
def bridgeMode (s : State) (g : Nat) : Bool := decide (6 ≤ g) && flag s (edgeTwin s) R.GD_GPB_BRIDGE

/-- Whether a gate-drive pair drives the brake chopper (R204): the pair BRK_GD while Spillway is enabled. DEDUCED,
unsafe: log entry 258. -/
def chopperGd (s : State) (g : Nat) : Bool :=
  g == rf s (edgeTwin s) R.DRV_CFG_BRK_GD && rd s (edgeTwin s) R.DRV_VCH_LO != 0x7F800000#32

/-- The pair's switching source: 0 PWM, 1 generator, 2 off (R252); a discharge makes the sequencer's generator the
source, and the chopper's pair takes PWM pair BRK_PWM (R204). DEDUCED, unsafe: log entry 104. -/
def gdSrc (s : State) (g : Nat) : Nat :=
  if bridgeMode s g then 1
  else if (gen s g).seq.isSome then 1
  else if chopperGd s g then 0
  else rf s (edgeTwin s) (gf R.GD_P_CFG_SRC g)

/-- The PWM pair that feeds a gate-drive pair whose source is PWM. -/
def gdPair (s : State) (g : Nat) : Nat :=
  rf s (edgeTwin s) (if chopperGd s g then R.DRV_CFG_BRK_PWM else gf R.GD_P_CFG_PPAIR g)

/-- Whether PWM pair `p` feeds gate-drive pair `g`. -/
def feeds (s : State) (p g : Nat) : Bool := gdSrc s g == 0 && gdPair s g == p

/-- The modulated level of output `x` of pair `k`, by R244 and R252. -/
def modLevel (s : State) (k x : Nat) : Bool :=
  if k < 8 then
    let q := pwm s k
    if !q.begun then false
    else if x = 0 then q.gA
    else if flag s (edgeTwin s) (pf R.PWM_P_CFG_INDEP k) then q.gB else !q.gA
  else
    let g := k - 8
    match gdSrc s g with
    | 0 =>
      let o := outs s (gdPair s g)
      (if x = 0 then o.a else o.b) == 1
    | 1 => (gen s g).run && (if x = 0 then (gen s g).s else !(gen s g).s)
    | _ => false

/-- Whether a channel's currents are both 0, which makes it high impedance (R253). -/
def noDrive (s : State) (k x : Nat) : Bool :=
  decide (8 ≤ k) && (if x = 0 then rf s (edgeTwin s) (gf R.GD_P_DRIVE_ISRC_A (k - 8)) == 0
      && rf s (edgeTwin s) (gf R.GD_P_DRIVE_ISNK_A (k - 8)) == 0
    else rf s (edgeTwin s) (gf R.GD_P_DRIVE_ISRC_B (k - 8)) == 0
      && rf s (edgeTwin s) (gf R.GD_P_DRIVE_ISNK_B (k - 8)) == 0)

/-- The state that the first applicable source of R242 gives output `x` of pair `k`, and whether it is the modulation
(with its wait for the next on-edge). -/
def choose (s : State) (k x : Nat) : Nat × Bool :=
  let o := outs s k
  if s.ilk.pins = none then (2, false)
  else if 14 ≤ k ∧ (stoNow s ∨ (bridgeMode s (k - 8) ∧ flag s (edgeTwin s) R.GD_GPB_STOPPED)) then (0, false)
  else if scOn s k ∨ o.hold = 2 then (0, false)
  else if safelight s then (0, false)
  else if 8 ≤ k ∧ (gen s (k - 8)).lock then (0, false)
  else if 8 ≤ k ∧ (gen s (k - 8)).refresh ∧ x = 0 then (0, false)
  else if 8 ≤ k ∧ (gen s (k - 8)).refresh ∧ (!(tripped s k) ∨ tripState s k 0 = 1) then (1, false)
  else if tripped s k then (tripState s k x, false)
  else if k < 8 ∧ forceOf s k x ≠ 0 then (forceCode (forceOf s k x), false)
  else if 8 ≤ k ∧ (gen s (k - 8)).sched then (x, false)
  else (if modLevel s k x then (1, true) else (0, true))

/-- The chosen code with the wait for the next on-edge applied, and the wait that remains (R149). -/
def waited (c : Nat × Bool) (wait : Bool) : Nat × Bool :=
  if c.2 && c.1 == 1 then (if wait then (0, true) else (1, false)) else (c.1, c.2 && wait && c.1 == 1)

/-- One pair's outputs after choosing `ca` and `cb`: turn-offs act at once and start the other output's dead time; then a
turn-on acts unless its dead time runs or the other output is on (R245, R260). `fed` says of A and B whether the PWM pair
that feeds this one turns that output off now: the dead time that a turn-off by the modulation then starts is that pair's.
`slew` is the slew code of the edges. -/
def settleOut (o : OutPair) (ca cb : Nat × Bool) (fed : Bool × Bool) (slew : Nat) : OutPair :=
  let a := waited ca o.waitA
  let b := waited cb o.waitB
  let offA := (o.a == 1 || (o.wantA && ca.2)) && a.1 != 1
  let offB := (o.b == 1 || (o.wantB && cb.2)) && b.1 != 1
  let deadB := o.deadB || offA
  let deadA := o.deadA || offB
  let stayA := o.a == 1 && a.1 == 1
  let stayB := o.b == 1 && b.1 == 1
  let onA := stayA || (a.1 == 1 && !deadA && !stayB)
  let onB := stayB || (b.1 == 1 && !deadB && !onA)
  let turned := (onA && !stayA) || (onB && !stayB)
  { o with
    a := if onA then 1 else if a.1 = 1 then 0 else a.1
    b := if onB then 1 else if b.1 = 1 then 0 else b.1
    wantA := a.1 == 1 && !onA
    wantB := b.1 == 1 && !onB
    deadA := deadA
    deadB := deadB
    tiedA := if offB then fed.2 && cb.2 else o.tiedA
    tiedB := if offA then fed.1 && ca.2 else o.tiedB
    waitA := a.2
    waitB := b.2
    blank := o.blank || turned
    slew := if turned || offA || offB then slew else o.slew }

/-- What the registers show of pair `k`. -/
def showOut (k : Nat) (s : State) (t : Twin) : State :=
  let o := outs s k
  let tr := tripped s k || scOn s k || o.hold != 0
  let pr := if k < 8 then R.TRIP_PAIRS_PWM_PAIRS else R.TRIP_PAIRS_GD_PAIRS
  let s := if tr then evi s t pr (k % 8) else clri s t pr (k % 8)
  if k < 8 then
    let s := wf (wf s t (pf R.PWM_P_STATUS_A_ON k) (bit (o.a == 1))) t (pf R.PWM_P_STATUS_B_ON k) (bit (o.b == 1))
    let s := wf s t (pf R.PWM_P_STATUS_TRIPPED k) (bit tr)
    wf s t (pf R.PWM_P_STATUS_FORCED k) (bit (forceOf s k 0 != 0 || forceOf s k 1 != 0))
  else
    let g := k - 8
    let s := wf (wf s t (gf R.GD_P_STATUS_A_ON g) (bit (o.a == 1))) t (gf R.GD_P_STATUS_B_ON g) (bit (o.b == 1))
    wf s t (gf R.GD_P_STATUS_SOFT_ACTIVE g) (bit o.soft)

/-- The slew code of a PWM pair's edges: the slowest while a short-circuit trip is latched on it (R264). -/
def slewOf (s : State) (k : Nat) : Nat :=
  if scOn s k then 3 else if k < 8 then rf s (edgeTwin s) (pf R.PWM_P_CFG_SLEW k) else 0

/-- Settle the outputs of pair `k`; `fed` as in `settleOut`. -/
def settleFed (s : State) (k : Nat) (fed : Bool × Bool) : State :=
  let c := fun (x : Nat) =>
    let v := choose s k x
    if v.1 ≠ 2 ∧ noDrive s k x then (2, false) else v
  let s := modOut s k (fun o => settleOut o (c 0) (c 1) fed (slewOf s k))
  onLive (showOut k) s

/-- Settle the outputs of pair `k`. -/
def settle1 (s : State) (k : Nat) : State := settleFed s k (false, false)

/-- Whether outputs A and B of a pair turn off, or lose a turn-on that waits, from one state of the pair to the next. -/
def turnOffs (o o' : OutPair) : Bool × Bool :=
  ((o.a == 1 || o.wantA) && !(o'.a == 1 || o'.wantA), (o.b == 1 || o.wantB) && !(o'.b == 1 || o'.wantB))

/-- Settle pair `k` and, of a PWM pair, the gate-drive pairs it feeds. -/
def settlePair (s : State) (k : Nat) : State :=
  let s1 := settle1 s k
  let fed := turnOffs (outs s k) (outs s1 k)
  if k < 8 then (List.range 8).foldl (fun s g => if feeds s k g then settleFed s (8 + g) fed else s) s1 else s1

/-- Settle every output. -/
def settleAll (s : State) : State := (List.range 16).foldl settle1 s

/-- Every output turns on only at its next scheduled on-edge, but those of pairs that are spared (R149, R455). -/
def waitBut (spared : Nat → Bool) (s : State) : State :=
  settleAll ((List.range 16).foldl (fun s k =>
    if spared k then s else modOut s k (fun o => { o with waitA := true, waitB := true })) s)

/-- Every output turns on only at its next scheduled on-edge (R455). -/
def waitAll (s : State) : State := waitBut (fun _ => false) s

/-- The pairs that the drive sequencer switches itself: the discharge pair, the chopper's two while a stage is in force, and
a gate-drive pair fed by a PWM pair that an active short circuit holds on. -/
def sequenced (s : State) (k : Nat) : Bool :=
  (decide (8 ≤ k) && ((gen s (k - 8)).seq.isSome || chopperGd s (k - 8)))
    || (chopperGd s (rf s (edgeTwin s) R.DRV_CFG_BRK_GD) && k == rf s (edgeTwin s) R.DRV_CFG_BRK_PWM)
    || (decide (8 ≤ k) && gdSrc s (k - 8) == 0 && (let q := pwm s (gdPair s (k - 8)); q.qA == 2 || q.qB == 2))

/-- The new holder's pins at a take-over (R149, R212): outputs wait for their next scheduled on-edge; discharge and chopper
count as having theirs at the first tick. -/
def takePins (s : State) : State := waitBut (sequenced s) s

/-- The level of a PWM output's ball (R266, R267 POL_A and POL_B): none while it is high impedance, which it is while no
twin drives the pins (R242 source 1); else the output's state, inverted where the output is active low. DESIGN CHOICE, safe: log entry 277. -/
def pwmBall (s : State) (p x : Nat) : Option Bool :=
  let o := outs s p
  let v := if x = 0 then o.a else o.b
  if s.ilk.pins = none ∨ v = 2 then none
  else some ((v == 1) != flag s (edgeTwin s) (pf (if x = 0 then R.PWM_P_CFG_POL_A else R.PWM_P_CFG_POL_B) p))

/-- The gate-power bridge stops: its generators stop (R256). -/
def bridgeHalt (s : State) : State :=
  let s := modEdge s (fun e => { e with bridgeOn := false, testA := false, testB := false, testBad := false })
  let s := [6, 7].foldl (fun s g => if (gen s g).bridge || bridgeMode s g then
    modGen s g (fun x => { x with run := false, bridge := false, s := false }) else s) s
  [14, 15].foldl settle1 s

/-- A safety function stops the gate-power bridge: GD_GPB.STOPPED is set (R256, R268). -/
def bridgeStop (s : State) : State := bridgeHalt (onLive (fun s t => wf s t R.GD_GPB_STOPPED 1) s)

/-- A twin without the pins drives neither CAN bus (R339). -/
def canQuiet (s : State) (t : Twin) : State :=
  wf (wf s t R.CAN_B_STATUS_DRIVING 0) t (fo R.CAN_B_STATUS_DRIVING 65536) 0

/-- The pins change hands or lose their driver: every output is settled again (R242 source 1), and a twin without them
drives no CAN bus. -/
def setPins (s : State) (p : Option Twin) : State :=
  let s := [Twin.a, Twin.b].foldl (fun s t => if p = some t then s else canQuiet s t) s
  settleAll { s with ilk := { s.ilk with pins := p } }

end Sys2Proof.Machine
end

