-- ==== Sys2Proof/Machine/NetOps.lean ====
section
/-! DEFINITION. Which port serves each LAN, and how the SK192's own frames leave (R301 to R306, R310, R311). -/

namespace Sys2Proof.Machine

/-- Change the network state the twins share. DEDUCED, unsafe: log entry 148. -/
def modNet (s : State) (f : NetSt → NetSt) : State := { s with net := f s.net }

/-- Change one twin's network state. -/
def modNetTw (s : State) (t : Twin) (f : NetTw → NetTw) : State := s.setTw t { s.tw t with net := f (s.tw t).net }

/-- The twin whose port is NA0, NA1, NB0 or NB1. -/
def portTwin (p : Nat) : Twin := if p < 2 then .a else .b

/-- The port that owns a LAN (R153): NA0 for LAN A, NB1 for LAN B. -/
def ownPort (lan : Nat) : Nat := if lan = 0 then 0 else 3

/-- The take-over port of a LAN: NB0 for LAN A, NA1 for LAN B. -/
def backPort (lan : Nat) : Nat := if lan = 0 then 2 else 1

/-- The twin whose copy of the network settings counts: the leading twin, else one that is live. -/
def netTwin (s : State) : Twin :=
  match leader s with
  | some t => t
  | none => if twState s .a = tsReset then .b else .a

/-- A field of port `p`. -/
def npf (f : Fld) (p : Nat) : Fld := fo f (64 * p)

/-- NET_CTRL.EN. -/
def netOn (s : State) : Bool := flag s (netTwin s) R.NET_CTRL_EN

/-- NET_CFG.MODE = HSR. -/
def hsr (s : State) : Bool := rf s (netTwin s) R.NET_CFG_MODE == 2

/-- Whether port `p` has link. -/
def portLink (s : State) (p : Nat) : Bool := s.net.link.contains p

/-- The port that serves a LAN. -/
def lanPort (s : State) (lan : Nat) : Option Nat := if lan = 0 then s.net.lanA else s.net.lanB

/-- The twin whose port serves a LAN. -/
def lanTwin (s : State) (lan : Nat) : Twin := portTwin ((lanPort s lan).getD (ownPort lan))

/-- What a port's own twin shows of port `p` reaches the other twin while the inter-twin link stands; while it does not, the
other twin shows the values last heard (R336). -/
def showPort (s : State) (p : Nat) : State :=
  let o := portTwin p
  let t := o.other
  if twState s t = tsReset ∨ (s.tw t).twn.linkFailed then s
  else ((List.range 7).map (fun i => R.NET_P_CFG + 4 + 4 * i)).foldl (fun s a => wr s t (a + 64 * p) (rd s o (a + 64 * p))) s

/-- A change of what port `p` shows, made in its own twin and heard by the other (R336). -/
def onPort (p : Nat) (f : State → Twin → State) (s : State) : State :=
  if twState s (portTwin p) = tsReset then s else showPort (f s (portTwin p)) p

/-- A frame of a LAN reaches the fabric through the NW crossing of the twin whose port serves it (R23). -/
def lanIn (s : State) (lan : Nat) (f : State → State) : State := crossIn s (lanTwin s lan) 4 f

/-- A port of twin `t` serves a LAN of the enabled network, so that the twin takes the LAN's copies (R303, R308). -/
def takesLan (s : State) (t : Twin) (lan : Nat) : Bool := netOn s && (lanPort s lan).any (fun p => portTwin p == t)

/-- Whether port `p` serves a LAN or ring. DEDUCED, unsafe: log entry 149. -/
def serving (s : State) (p : Nat) : Bool := s.net.lanA == some p || s.net.lanB == some p

/-- The port that a LAN's service falls to as the twins' states stand: a take-over port keeps it while its twin is in
the pair; otherwise the owning port has it while its twin is LEADING or FOLLOWING (R304, R306). -/
def lanDue (s : State) (lan : Nat) : Option Nat :=
  if !(netOn s) then none
  else if lanPort s lan = some (backPort lan) ∧ !(hsr s) ∧ inPair s (portTwin (backPort lan)) then some (backPort lan)
  else if inPair s (portTwin (ownPort lan)) then some (ownPort lan) else none

/-- NET_STATUS and the ports' SERVING and TIME_STATUS.TC_ON show what serves. -/
def showServe (s : State) (t : Twin) : State :=
  let ring := bit (netOn s && hsr s && !(inPair s .a && inPair s .b))
  let s := wf (wf s t R.NET_STATUS_LAN_A (s.net.lanA.getD 15)) t R.NET_STATUS_LAN_B (s.net.lanB.getD 15)
  let s := wf (wf s t R.NET_STATUS_RING_OPEN ring) t R.NET_EVENT_RING_OPEN
    (if ring = 0 then 0 else if rf s t R.NET_STATUS_RING_OPEN = 0 then 1 else rf s t R.NET_EVENT_RING_OPEN)
  let s := wf s t R.TIME_STATUS_TC_ON (bit (netOn s && hsr s))
  (([0, 1, 2, 3] : List Nat).filter (fun p => portTwin p == t || !((s.tw t).twn.linkFailed))).foldl
    (fun s p => wf s t (npf R.NET_P_STATUS_SERVING p) (bit (serving s p))) s

/-- After a change of the twins' states, the mode or the enable: who serves, and whether the HSR ring is open (R311). -/
def netServe (s : State) : State :=
  let s := modNet s (fun n => { n with lanA := lanDue s 0, lanB := lanDue s 1 })
  onLive showServe s

/-- Port `p` sends a frame: only while its twin is LEADING or FOLLOWING (R304) and the port has link; it leaves through the
crossing of the NW domain (R23).
DESIGN CHOICE, unsafe: log entry 160. -/
def transmit (s : State) (f : OutFrame) (p : Nat) : State :=
  if inPair s (portTwin p) && portLink s p then
    crossOut s (portTwin p) 4 (fun s =>
      modNet (onPort p (fun s t => cnt s t (R.NET_P_TX_OK + 64 * p)) s) (fun n => { n with tx := n.tx ++ [(p, f)] }))
  else s

/-- The next number of the trailer or tag, from the one counter that the leading twin assigns from; the other twin hears it
while the inter-twin link stands (R305). -/
def takeSeq (s : State) (f : OutFrame) : State × OutFrame :=
  let q := s.net.seq
  let s := onLive (fun s t =>
    if leader s = some t ∨ !((s.tw t).twn.linkFailed) then modNetTw s t (fun n => { n with seqHeard := q }) else s) s
  (modNet s (fun n => { n with seq := (n.seq + 1) % 65536 }), { f with seq := some q })

/-- A frame that both twins build leaves on each LAN, sent by the twin that serves it (R304). -/
def sendBoth (s : State) (f : OutFrame) : State :=
  let (s, f) := takeSeq s f
  [0, 1].foldl (fun s lan => match lanPort s lan with
    | some p => transmit s f p
    | none => s) s

/-- A frame that one twin alone builds leaves on the LANs it serves, and passes to the other twin for the LANs that one
serves (R304). -/
def sendFrom (s : State) (l : Twin) (f : OutFrame) : State :=
  let (s, f) := takeSeq s f
  let s := [0, 1].foldl (fun s lan => match lanPort s lan with
    | some p => if portTwin p = l then transmit s f p else s
    | none => s) s
  if [0, 1].any (fun lan => (lanPort s lan).any (fun p => decide (portTwin p ≠ l)))
  then modNet s (fun n => { n with relay := n.relay ++ [(l, f)] }) else s

/-- A frame that only the leading twin builds (R304). -/
def sendLead (s : State) (f : OutFrame) : State :=
  match leader s with
  | none => s
  | some l => sendFrom s l f

end Sys2Proof.Machine
end

