-- ==== Sys2Proof/Machine/Budget.lean ====
section
/-! DEFINITION. The mapping table as a twin holds it (R40 to R43) and the cycle budget (R47 to R49), which is recomputed
whenever a twin starts or stops computing. -/

namespace Sys2Proof.Machine

/-! The fields of a mapping entry (R77). -/

def mapRole (w : W32) : Nat := bits w 31 30
def mapString (w : W32) : Nat := bits w 29 27
def mapSpos (w : W32) : Nat := bits w 26 21
def mapChain (w : W32) : Nat := bits w 20 17
def mapCpos (w : W32) : Nat := bits w 16 13
def mapCold (w : W32) : Nat := bits w 12 12

/-- The mapping entries that a register map lists, as (cell, entry), in ascending cell index; every unlisted entry
is 0, of role unused. -/
def mapOf (r : Tab W32) : List (Nat × W32) :=
  (r.filter (fun e => decide (R.ARR_MAP ≤ e.1) && decide (e.1 < R.ARR_MAP + 768))).map
    (fun e => ((e.1 - R.ARR_MAP) / 4, e.2))

/-- The used entries of a twin's mapping table. -/
def mapList (s : State) (t : Twin) : List (Nat × W32) := (mapOf (s.tw t).regs).filter (fun e => mapRole e.2 != 0)

/-- The cells of chain `c`, in ascending index. -/
def chainCells (s : State) (t : Twin) (c : Nat) : List (Nat × W32) := (mapList s t).filter (fun e => mapChain e.2 == c)

/-! The cycle budget. Times are in units of 1/327 680 ns, in which every term of R47 is exact. -/

/-- t_char of a TRB_CFG.RATE code: 8, 4, 3.2 or 2 ns. -/
def tChar (rate : Nat) : Nat :=
  match rate with
  | 0 => 2621440
  | 1 => 1310720
  | 2 => 1048576
  | _ => 655360

/-- LINK_DLY of position `p` on a twin's ring, in 2^-16 ns. -/
def linkDly (s : State) (t : Twin) (c p : Nat) : Nat := (rd s t (R.TRB_POS_LINK_DLY + 4096 * c + 64 * p)).toNat

/-- t_fib(c) of a twin's ring in 2^-16 ns: the probed sum, or 5 ns per metre before the first measurement (R47). -/
def tFib (s : State) (t : Twin) (c : Nat) : Nat :=
  let v := (rd s t (R.TRB_TFIB + 4096 * c)).toNat
  if v = 0 then 327680 * rf s t (fo R.TRB_CFG_FIBRE (4096 * c)) else v

/-- The fibre and lane delay of a wrapped path: forward to the wrapping cell and back to the other twin (R122). While a
delay of the path is not reported, the fibre of both rings at 5 ns per metre (R47). DESIGN CHOICE, unsafe: log entry 292. -/
def tFibWrapped (s : State) (t : Twin) (c n w : Nat) : Nat :=
  let l := (List.range (w + 1)).map (linkDly s t c) ++ (List.range w).map (fun i => linkDly s t.other c (n - 1 - i))
    ++ [(rd s t.other (R.TRB_LASTHOP + 4096 * c)).toNat]
  if l.contains 0 then 327680 * (rf s t (fo R.TRB_CFG_FIBRE (4096 * c)) + rf s t.other (fo R.TRB_CFG_FIBRE (4096 * c)))
  else l.sum

/-- T_ring(c) of R47, and of R122 for a wrapped ring, in 1/327 680 ns. -/
def tRing (s : State) (t : Twin) (c : Nat) : Nat :=
  let n := (chainCells s t c).length
  let chars := (40 + 80 * n) * tChar (rf s t (fo R.TRB_CFG_RATE (4096 * c)))
  match (tabGet {} (s.tw t).rings c).wrap with
  | some w => chars + (2 * w + 1) * 48 * 327680 + 5 * tFibWrapped s t c n w + 100 * 327680
  | none => chars + n * 48 * 327680 + 5 * tFib s t c

/-- The twin's developed graph image. -/
def graph (s : State) (t : Twin) : Option GraphImg := (s.tw t).law.img

/-- T_RG of group `k` that the image states for an engine count, in units of 10 ns; none without a schedule. -/
def stated (g : GraphImg) (engines k : Nat) : Option Nat :=
  if engines < g.engMin then none else (g.stated[engines - g.engMin]?).bind (fun l => l[k]?)

/-- T_RG0 of a twin in units of 10 ns. -/
def tRg0 (s : State) (t : Twin) : Nat :=
  match graph s t with
  | some g => (stated g (rf s t R.LAW_STATUS_SCHED) 0).getD 0
  | none => 0

/-- The larger T_RG0 of the twins that run (R48). -/
def tRg0Used (s : State) (t : Twin) : Nat :=
  if computing s t.other then max (tRg0 s t) (tRg0 s t.other) else tRg0 s t

/-- The largest T_ring over both twins' rings. -/
def tRingMax (s : State) (t : Twin) : Nat :=
  (List.range 12).foldl (fun m c =>
    if (chainCells s t c).isEmpty then m
    else max m (max (tRing s t c) (tRing s t.other c))) 0

/-- MIN_LEN of R48. -/
def minLen (s : State) (t : Twin) : Nat :=
  let ns := 327680
  let tr := tRingMax s t
  let tA := tr + 500 * ns + tRg0Used s t * 10 * ns + 100 * ns
  let tB := tr + rf s t R.ARR_TIMING_GUARD * 10 * ns
  max 16 ((max tA tB + 250 * ns - 1) / (250 * ns))

/-- Recompute MIN_LEN in the twins not in RESET (R49): published in ARR_BUDGET, and BUDGET set where it then exceeds the
developed LEN while the array is enabled. -/
def budget (s : State) : State :=
  onLive (fun s t =>
    let m := minLen s t
    let len := rf s t R.ARR_CYCLE_LEN
    let s1 := wf (wf s t R.ARR_BUDGET_MIN_LEN m) t R.ARR_BUDGET_RG0_TIME (tRg0Used s t)
    if flag s t R.ARR_CTRL_ENABLE ∧ len < m then ev s1 t R.ARR_EVENT_BUDGET else s1) s

end Sys2Proof.Machine
end

