-- ==== Sys2Proof/Machine/Ops.lean ====
section
/-! DEFINITION. Operations shared by the meanings: the flags of the twin states, the interlock, withdrawal (R144 to
R146) and Sluice leave (R443 to R446). -/

namespace Sys2Proof.Machine

/-- Both twins compute and each has declared the other lost (R152). -/
def bothLost (s : State) : Bool :=
  computing s .a && computing s .b && twOther s .a == tsLost && twOther s .b == tsLost

/-- The live flags of TWN_STATE from the states, the link and the arbiter (R146, R152, R161). -/
def twnFlags (s : State) (t : Twin) : State :=
  let st := twState s t
  let ot := twOther s t
  let pair := (st == tsLeading && ot == tsFollowing) || (st == tsFollowing && ot == tsLeading)
  let lf := (s.tw t).twn.linkFailed
  let arb := flag s t R.TWN_STATE_ARB_REACH && flag s t R.TWN_STATE_OTHER_ARB_REACH
  let s1 := wf s t R.TWN_STATE_LAST_TWIN (bit (st == tsLeading && ot != tsFollowing))
  let s2 := wf s1 t R.TWN_STATE_SPLIT (bit (lf || bothLost s))
  let s3 := wf s2 t R.TWN_STATE_REDUCED_FT (bit (computing s t && (!pair || lf || !arb)))
  let s4 := wf s3 t R.TWN_STATE_COMPARE (bit (pair && !lf && !(s.tw t).twn.compareOff))
  let aLeads := (st == tsLeading && t == .a) || (ot == tsLeading && t == .b)
  wf s4 t R.TWN_STATE_LEADER (bit aLeads)

/-- Put a twin into a state and refresh its flags, who serves the LANs, and the cycle budget, for which a twin that runs
alone takes its own figure (R48, R130, R131, R306, R311). -/
def setTwState (s : State) (t : Twin) (st : Nat) : State := budget (netServe (twnFlags (wf s t R.TWN_STATE_STATE st) t))

/-- The request line of a twin at the arbiter. -/
def ilkReq (s : State) : Twin → Bool
  | .a => s.ilk.reqA
  | .b => s.ilk.reqB

/-- Raise or drop a twin's request. -/
def setIlkReq (s : State) (t : Twin) (v : Bool) : State :=
  match t with
  | .a => { s with ilk := { s.ilk with reqA := v } }
  | .b => { s with ilk := { s.ilk with reqB := v } }

/-- Whether the arbiter cleared a twin's hold by lapse and the twin has not yet read it. -/
def ilkLapsed (s : State) : Twin → Bool
  | .a => s.ilk.lapsedA
  | .b => s.ilk.lapsedB

/-- Record or forget a lapse. -/
def setIlkLapsed (s : State) (t : Twin) (v : Bool) : State :=
  match t with
  | .a => { s with ilk := { s.ilk with lapsedA := v } }
  | .b => { s with ilk := { s.ilk with lapsedB := v } }

/-- The arbiter's side of a release or a lapse: no holder, and the shared pins go high impedance (R16, R17). -/
def ilkFree (s : State) (t : Twin) : State :=
  if s.ilk.holder = some t then setPins { s with ilk := { s.ilk with holder := none } } none else s

/-- A twin releases the interlock, and knows it. -/
def ilkRelease (s : State) (t : Twin) : State := wf (ilkFree s t) t R.TWN_STATE_HOLDS 0

/-- Whether VIN is above the power-on threshold. -/
def vinGood (s : State) : Bool := biti s .a R.PWR_STATUS_GOOD 0

/-- INTLK_OBS_A and INTLK_OBS_B (R18, R434): a level, or none while VIN is below the threshold (high impedance). -/
def intlkObs (s : State) (t : Twin) : Option Bool := if vinGood s then some (decide (s.ilk.holder = some t)) else none

/-- An open-drain output (R430, R434): `some false` low, none high impedance, which it is while VIN is below 2.5 V. -/
def openDrain (s : State) (low : Bool) : Option Bool :=
  if low && !(!(vinGood s) && !s.overTemp && Config.vinLow s.free) then some false else none

/-- FAULT_N is low while no twin is LEADING (R430). -/
def faultN (s : State) : Option Bool := openDrain s (leader s).isNone

/-- PGOOD: every rail of the leading registers' GOOD field in its window (R430). -/
def pgood (s : State) : Option Bool := openDrain s (rf s .a R.PWR_STATUS_GOOD != 255)

/-- The pins of one twin that R434 lists: the lanes are held at common mode, and the QSPI pins and TDO are high impedance,
while the twin is in RESET. -/
def pinsHeld (s : State) (t : Twin) : Bool := !(vinGood s) || twState s t == tsReset

/-- The QSPI clock that CFG1:0 set, in MHz (R435, R471). -/
def qspiMhz (s : State) (t : Twin) : Nat :=
  match (s.tw t).pwr.straps % 4 with
  | 1 => 50
  | 2 => 100
  | _ => 25

/-- The flash commands that a twin uses (R471): the opcode, the bytes that one command works on (0 where it moves as many as it
is clocked for), and the dummy clocks. -/
def qspiCommands : List (Byte × Nat × Nat) :=
  [(0x9F#8, 0, 0), (0x05#8, 0, 0), (0x06#8, 0, 0), (0x6B#8, 0, 8), (0x32#8, 256, 0), (0x20#8, 4096, 0), (0xD8#8, 65536, 0)]

/-- A twin writes internal demand `k` into its own side, where it is latched (R367); the cause of TWIN_FAIL then lasts until a
full self-test passes (R368). -/
def demand (s : State) (t : Twin) (k : Nat) : State :=
  let s := if k = 2 then onBoth (fun s u => modTwn s u (fun x => { x with testedSince := false })) s else s
  ev (evi s t R.SAF_STATUS_INT k) t R.SAF_EVENT_INTERNAL

/-- The safe array block, safe torque off and breaker trip of a twin: internal demand TWIN_FAIL, whose reactions are
"All" (R146, R147, R367). -/
def safeStop (s : State) (t : Twin) : State := demand s t 2

/-! Sluice leave. -/

/-- The cost of a Sluice operation from the table of R443; lane training costs 100 mW per chain of its argument, a mask. -/
def leaveCost (op arg : Nat) : Nat :=
  match op with
  | 0 => 100 * (List.range 12).countP (nbit arg)
  | 1 => 1400
  | 2 => 600
  | 3 => 300
  | 4 => 400
  | 5 => 250
  | 6 => 350
  | _ => 500

/-- The priority of a Sluice operation (R443), 0 the highest. -/
def leavePrio (op : Nat) : Nat :=
  match op with
  | 0 => 0
  | 1 => 1
  | 2 => 2
  | 3 => 2
  | 4 => 2
  | 5 => 3
  | 6 => 3
  | _ => 4

/-- Whether each twin keeps a ledger of its own because the inter-twin link has failed (R445).
DEDUCED, unsafe: log entry 95. -/
def splitLedger (s : State) : Bool := s.a.twn.linkFailed || s.b.twn.linkFailed

/-- The requests that share one ledger with twin `t`. -/
def sameLedger (s : State) (t : Twin) (l : List LeaveReq) : List LeaveReq :=
  if splitLedger s then l.filter (fun r => r.twin == t) else l

/-- The twin that keeps twin `t`'s ledger: the leading twin, or each its own while the link has failed (R444, R445). -/
def keeper (s : State) (t : Twin) : Twin := if splitLedger s then t else (leader s).getD t

/-- The headroom of twin `t`'s ledger: half of HEADROOM each while the link has failed (R445). -/
def headroom (s : State) (t : Twin) : Nat :=
  let h := rf s (keeper s t) R.PWR_SLU_CFG_HEADROOM
  if splitLedger s then h / 2 else h

/-- The costs granted in twin `t`'s ledger. -/
def inUse (s : State) (t : Twin) : Nat := ((sameLedger s t s.sluice.held).map (·.cost)).sum

/-- Show the ledger in the Sluice fields of a twin's PWR_ registers (R444, R459). -/
def showLedger (s : State) (t : Twin) : State :=
  let held := sameLedger s t s.sluice.held
  let act := (List.range 8).foldl (fun m o => if held.any (fun r => r.op == o) then m + 2 ^ o else m) 0
  let s := wr s t R.PWR_SLU_CFG (rd s (keeper s t) R.PWR_SLU_CFG)
  let s := wf s t R.PWR_SLU_STATUS_IN_USE (inUse s t)
  let s := wf s t R.PWR_SLU_STATUS_QUEUED (sameLedger s t s.sluice.queue).length
  wf s t R.PWR_SLU_STATUS_ACTIVE act

/-- Rank of a request among equal priorities that arrive together: twin A first, then the lower context (R444). -/
def leaveInsert (r : LeaveReq) : List LeaveReq → List LeaveReq
  | [] => [r]
  | q :: rest => if leavePrio r.op < leavePrio q.op then r :: q :: rest else q :: leaveInsert r rest

/-- Whether the first request of twin `t`'s ledger fits the headroom. -/
def headFits (s : State) (t : Twin) : Bool :=
  match sameLedger s t s.sluice.queue with
  | [] => false
  | q :: _ => decide (inUse s t + q.cost ≤ headroom s t)

/-- Grant the head of twin `t`'s ledger if it fits; a grant after a LEAVE_WAIT sets SLU_GRANT (R444, R446). -/
def grantHead (s : State) (t : Twin) : State :=
  match sameLedger s t s.sluice.queue with
  | [] => s
  | q :: _ =>
    if headFits s t then
      let s := { s with sluice := { queue := s.sluice.queue.erase q, held := s.sluice.held ++ [q] } }
      onBoth showLedger (if q.waited then ev s q.twin R.PWR_EVENT_SLU_GRANT else s)
    else s

/-- Ask for leave (R444, R445): too large a cost is refused with SLUICE_TOO_LARGE, and after a power fail new leave is refused
(R432); PWR_SLU_LAST records either. Otherwise the request joins the queue by priority, and is granted at once where it is
at the head and fits; a request ahead of it waits for its own grant. DEDUCED, unsafe: log entry 223. -/
def leaveAsk (s : State) (op : Nat) (t : Twin) (host : Bool) (arg : Nat) : State :=
  let r : LeaveReq := ⟨op, leaveCost op arg, t, host, arg, false⟩
  let code := if s.pfail then Rc.PARAM_ORDER else if headroom s t < r.cost then Rc.SLUICE_TOO_LARGE else Rc.OK
  if code ≠ Rc.OK then
    say (onBoth (fun s u => wr s u R.PWR_SLU_LAST (BitVec.ofNat 32 (op * 4096 + t.index * 256 + code))) s) code
  else
    let s := onBoth showLedger { s with sluice := { s.sluice with queue := leaveInsert r s.sluice.queue } }
    if (sameLedger s t s.sluice.queue).head? = some r then grantHead s t else s

/-- Whether an operation of a twin holds leave. -/
def leaveHeld (s : State) (op : Nat) (t : Twin) : Bool := s.sluice.held.any (fun r => r.op == op && r.twin == t)

/-- Whether an operation of a twin waits for leave. -/
def leaveWaits (s : State) (op : Nat) (t : Twin) : Bool := s.sluice.queue.any (fun r => r.op == op && r.twin == t)

/-- An operation ends and its cost returns to the ledger, or its waiting request is withdrawn (R444). -/
def leaveEnd (s : State) (op : Nat) (t : Twin) : State :=
  let s :=
    match s.sluice.held.find? (fun r => r.op == op && r.twin == t) with
    | some r => { s with sluice := { s.sluice with held := s.sluice.held.erase r } }
    | none =>
      match s.sluice.queue.find? (fun r => r.op == op && r.twin == t) with
      | some r => { s with sluice := { s.sluice with queue := s.sluice.queue.erase r } }
      | none => s
  onBoth showLedger s

/-- A request of a twin for one operation on one thing; boot-flash programming serves several (argument 0 a session,
1 the epoch reserve, 2 a calibration commit, 4 a wear record, 8 + h a key roll of context h).
DESIGN CHOICE, unsafe: log entry 220. -/
def leaveIs (op : Nat) (t : Twin) (arg : Nat) (r : LeaveReq) : Bool := r.op == op && r.twin == t && r.arg == arg

/-- Whether it is granted. -/
def leaveHeldFor (s : State) (op : Nat) (t : Twin) (arg : Nat) : Bool := s.sluice.held.any (leaveIs op t arg)

/-- Whether it waits. -/
def leaveWaitsFor (s : State) (op : Nat) (t : Twin) (arg : Nat) : Bool := s.sluice.queue.any (leaveIs op t arg)

/-- It ends, or its waiting request is withdrawn. -/
def leaveEndFor (s : State) (op : Nat) (t : Twin) (arg : Nat) : State :=
  let s :=
    match s.sluice.held.find? (leaveIs op t arg) with
    | some r => { s with sluice := { s.sluice with held := s.sluice.held.erase r } }
    | none =>
      match s.sluice.queue.find? (leaveIs op t arg) with
      | some r => { s with sluice := { s.sluice with queue := s.sluice.queue.erase r } }
      | none => s
  onBoth showLedger s

/-- One TB tick in one twin (R7): the TB counter counts one nanosecond while the TB PLL is locked (R442).
DESIGN CHOICE, unsafe: log entry 3. -/
def tick (s : State) (t : Twin) : State :=
  if biti s t R.CLK_STATUS_LOCK 0 then s.setTw t { s.tw t with tb := (s.tw t).tb + 1 } else s

/-- What the block does when no command waits: one TB tick passes. -/
def idleTick (s : State) : State := onBoth tick s

/-! The management processor's frequency (R441). -/

/-- The frequency in kHz that a ramp through points of target in MHz, slope in MHz/ms and hold in ms has reached `e`
nanoseconds after it stood at `f` kHz. DEDUCED, unsafe: log entry 269. -/
def rampWalk : List (Nat × Nat × Nat) → Nat → Nat → Nat
  | [], f, _ => f
  | (tg, sl, hold) :: r, f, e =>
    let way := if f ≤ 1000 * tg then 1000 * tg - f else f - 1000 * tg
    if e * sl < way * 1000 then (if f ≤ 1000 * tg then f + e * sl / 1000 else f - e * sl / 1000)
    else if e < way * 1000 / sl + hold * 1000000 then 1000 * tg
    else rampWalk r (1000 * tg) (e - way * 1000 / sl - hold * 1000000)

/-- The current frequency in kHz: during a ramp that of its profile, otherwise the frequency last set. -/
def mpFreq (s : State) (t : Twin) : Nat :=
  if flag s t R.CLK_STATUS_RAMPING then
    rampWalk (s.tw t).pwr.rampPts (s.tw t).pwr.rampFrom ((s.tw t).tb - (s.tw t).pwr.rampAt).toNat
  else (rd s t R.CLK_MP_FREQ).toNat

/-! Reset of one twin. -/

/-- Registers a reset of one twin leaves as they are: the side's safety monitor (R361), the trip latches of the
power-edge die, the safety parameters (R381), group ownership (R401), the one-time memory, what the rails, crystal and PLLs
show, and the last refusal of the package's Sluice ledger (R459).
DEDUCED, unsafe: log entry 36. -/
def keptOnTwinReset (a : Nat) : Bool :=
  (a / 0x100000 == 0x14 && !(R.SAF_PEND_ADDR ≤ a && a ≤ R.SAF_PEND_CODE)) || safetyParam a || a / 0x10000 == 0x102 || a == R.HST_OWNER || a / 16 == 1 || a == R.SYS_KEYREV
    || a == R.SYS_ADV_LEFT || a == R.SYS_RESETS || a == R.SYS_OVF || a == R.CLK_STATUS || a == R.PWR_STATUS
    || a == R.PWR_MEAS || a == R.PWR_SLU_LAST

/-- A twin's state after its reset, with the registers `keep` names left as they are; the flash keeps what it holds,
with an open session abandoned, and the one-time memory stays. -/
def freshTwin (x : TwinSt) (keep : Nat → Bool) : TwinSt :=
  { regs := x.regs.filter (fun e => keep e.1),
    flash := { x.flash with session := none, sessGranted := false, sessWords := [] },
    pwr := { xtalFail := x.pwr.xtalFail, revoked := x.pwr.revoked, keyHashes := x.pwr.keyHashes } }

/-- What every reset of a twin leaves: the cause, the RESET state, the reset counted, no leave held, no interlock, the
management processor on its RC oscillator with no ramp, and no orderly power-down. -/
def afterReset (s : State) (t : Twin) (cause : Nat) : State :=
  let s1 := setIlkLapsed (setIlkReq (ilkRelease s t) t false) t false
  let s2 := cnt (wf (wf s1 t R.SYS_STATUS_CAUSE cause) t R.SYS_STATUS_LIFE (bit s.lockedLife)) t R.SYS_RESETS
  let s2 := wf (wf (wf s2 t R.CLK_STATUS_RAMPING 0) t R.CLK_STATUS_MP_RC 1) t R.PWR_STATUS_ORDERLY_DONE 0
  let s3 := { s2 with sluice := { queue := s2.sluice.queue.filter (fun r => r.twin != t),
                                  held := s2.sluice.held.filter (fun r => r.twin != t) } }
  budget (netServe (onBoth showLedger s3))

/-- Reset of one twin (R433, R361): its die and its crossings; the other twin hears nothing of it until its
heartbeats stop. -/
def resetTwin (s : State) (t : Twin) (cause : Nat) : State :=
  let s1 := ilkRelease s t
  let x := s1.tw t
  let s2 := s1.setTw t { freshTwin x keptOnTwinReset with saf := { x.saf with pend := none } }
  afterReset (wf s2 t R.SAF_STATUS_PENDING 0) t cause

/-- The trial mark of a twin is cleared; its next boot uses the previous slots and sets BOOT_FALLBACK (R452). -/
def dropTrial (s : State) (t : Twin) : State :=
  modFlash (wf s t R.SYS_STATUS_TRIAL 0) t (fun f => { f with trial := 0, fellBack := f.fellBack || f.trial != 0 })

/-- Step 2 of R160: each staging slot that holds a verified image becomes a trial slot (R452), and the twin is reset with
cause 5. -/
def updateReset (s : State) (t : Twin) : State :=
  resetTwin (modFlash s t (fun f => { f with trial := f.verified })) t 5

/-- A twin enters JOINING: its device time is stepped to the leading twin's (R131, R321).
DEDUCED, unsafe: log entry 33. -/
def enterJoining (s : State) (t : Twin) : State :=
  let l := t.other
  let s := if twState s l = tsLeading then
      let s := wr s t R.TIME_RATE (rd s l R.TIME_RATE)
      s.setTw t { s.tw t with ofs := (s.tw t).ofs + (devTime s l - devTime s t) }
    else s
  setTwState (setIlkReq s t false) t tsJoining

/-! Withdrawal. -/

/-- Whether a withdrawal cause releases the interlock immediately (R144): SELFTEST, TB_PLL, VOLTAGE, MEMORY. -/
def immediateCause (c : Nat) : Bool := c == 2 || c == 5 || c == 6 || c == 11

/-- The twin enters WITHDRAWN with a cause, releasing the interlock and its request; the trial mark of a boot that has
not joined is cleared (R144, R145, R452). A twin withdrawn with cause 10 resets once a heartbeat has told of it (R132, R148,
R160). RESET wins over WITHDRAWN (R131). DEDUCED, unsafe: log entry 29. -/
def withdrawNow (s : State) (t : Twin) (cause : Nat) : State :=
  if twState s t = tsReset then s else
  let unjoined := twState s t = tsJoining ∨ twState s t = tsBoot
  let fell := if twState s t = tsFollowing then some (cycleNow s t) else (s.tw t).twn.fellAt
  let s := ilkRelease (setIlkReq (setIlkLapsed s t false) t false) t
  let s := wf (wf s t R.TWN_STATE_CAUSE cause) t R.TWN_STATE_PEND_CAUSE 0
  let s := modTwn s t (fun x => { x with
    fellAt := fell, handover := none, rotating := false, stScheduled := false, rejoining := false, overrunRun := 0, missRun := 0 })
  let s := if unjoined then dropTrial s t else s
  setTwState s t tsWithdrawn

/-- The other twin led until an immediate cause of this same cycle withdrew it: with a cause in both twins, the follower's
is taken first, so that leader is judged as the last twin (R146). -/
def leftThisCycle (s : State) (t : Twin) : Bool :=
  twState s t == tsFollowing && (s.tw t.other).twn.leftAt == some (cycleNow s t)

/-- A leading twin with an immediate cause: the last twin makes the safe stop first; one with a follower notes the cycle
(R145, R146). -/
def leaveLead (s : State) (t : Twin) (cause : Nat) : State :=
  let n := cycleNow s t
  if twOther s t = tsFollowing ∧ !(twState s t.other = tsWithdrawn ∧ (s.tw t.other).twn.fellAt = some n) then
    modTwn (withdrawNow s t cause) t (fun x => { x with leftAt := some n })
  else withdrawNow (safeStop s t) t cause

/-- A withdrawal cause arises in a twin (R144 to R146): a twin that does not lead withdraws at once; a leading twin
with an immediate cause releases and withdraws, after the safe stop if it is the last twin; with an orderly cause the
cause is held in PEND_CAUSE until the hand-over of R155 completes; causes 8 and 12 find the interlock already gone.
DEDUCED, unsafe: log entry 250. -/
def withdraw (s : State) (t : Twin) (cause : Nat) : State :=
  if twState s t = tsReset ∨ twState s t = tsWithdrawn then s
  else if twState s t ≠ tsLeading then withdrawNow (if leftThisCycle s t then safeStop s t.other else s) t cause
  else if cause = 8 ∨ cause = 12 then withdrawNow s t cause
  else if immediateCause cause then leaveLead s t cause
  else wf s t R.TWN_STATE_PEND_CAUSE cause

/-! The sample rate of the armed Exposures (R196), which follows the developed periods. -/

/-- An Exposure's field and word. -/
def ef (f : Fld) (e : Nat) : Fld := fo f (64 * e)
def ea (a e : Nat) : Nat := a + 64 * e

/-- An Exposure's state (R197). -/
def expSt (s : State) (t : Twin) (e : Nat) : Nat := rf s t (ef R.NEG_EXP_STATUS_STATE e)

/-- The probes of an Exposure, in ascending index. -/
def expProbes (s : State) (t : Twin) (e : Nat) : List Nat :=
  (List.range 64).filter (fun i => flag s t (fo R.NEG_PROBE_EN (4 * i)) && rf s t (fo R.NEG_PROBE_EXP (4 * i)) == e)

/-- Bytes of a row. -/
def rowSize (s : State) (t : Twin) (e : Nat) : Nat := 12 + 4 * (expProbes s t e).length

/-- The time between rows in 1/16 ns (R195, R173); 0 where it is not known. -/
def rowPeriod (s : State) (t : Twin) (e : Nat) : Nat :=
  let src := rf s t (ef R.NEG_EXP_CFG_SRC e)
  let dec := rf s t (ef R.NEG_EXP_CFG_DECIM e)
  if src = 4 then dec * 160
  else if src = 0 then dec * cycNs s t * 16
  else
    match (graph s t).bind (fun g => g.rgs[src]?) with
    | none => 0
    | some r => dec * r.div * (if r.src = 0 then cycNs s t * 16 else (rd s t (R.PWM_P_DEV + 128 * r.pair)).toNat)

/-- Samples per second of an Exposure (R196). DEDUCED, unsafe: log entry 141. -/
def expRate (s : State) (t : Twin) (e : Nat) : Nat :=
  let p := rowPeriod s t e
  if p = 0 then 0 else (expProbes s t e).length * 16000000000 / p

/-- Whether an Exposure is armed: FILLING, PRIMED or POST. -/
def armed (s : State) (t : Twin) (e : Nat) : Bool := expSt s t e == 1 || expSt s t e == 2 || expSt s t e == 3

/-- NEG_RATE: the samples per second of the armed Exposures. -/
def showRate (s : State) (t : Twin) : State :=
  wr s t R.NEG_RATE (BitVec.ofNat 32 (((List.range 4).filter (armed s t)).map (expRate s t)).sum)

end Sys2Proof.Machine
end

