-- ==== Sys2Proof/Machine/Pwm.lean ====
section
/-! DEFINITION. Meanings of the PWM rows of 07_power_edge: start and stop, latent, pending and committed sets, reloads,
boundaries and compare events, switching edges, forces and the dead-time lock. -/

namespace Sys2Proof.Machine

/-- A host write that must be both-agreed (R248, R268, R386): a write to one twin only is refused with AGREED_ONLY. -/
def agreedOnly (tg : Target) (s : State) (f : State → State) : State :=
  match tg with
  | .both => f (say s Rc.OK)
  | .one _ => say s Rc.AGREED_ONLY

/-- Device time in units of 1/16 ns. -/
def nowSub (s : State) (t : Twin) : Int := devTime s t / 4096

/-- A field of PWM pair `p` as the settings hold it. -/
def ps (s : State) (f : Fld) (p : Nat) : Nat := rf s (edgeTwin s) (pf f p)

/-- A word of PWM pair `p`. -/
def pw (s : State) (a p : Nat) : Nat := (rd s (edgeTwin s) (a + 128 * p)).toNat

/-- The developed PHASE of pair `p`, signed. -/
def devPhase (s : State) (p : Nat) : Int := (rd s (edgeTwin s) (R.PWM_P_DEV + 128 * p + 12)).toInt

/-- Whether pair `p`'s carrier runs. -/
def running (s : State) (p : Nat) : Bool := ps s R.PWM_P_STATUS_RUNNING p == 1

/-- PWM_Pp_RLD.PENDING: a set is pending or committed. -/
def showPending (s : State) (p : Nat) : State :=
  onLive (fun s t => wf s t (pf R.PWM_P_RLD_PENDING p) (bit ((pwm s p).pend.isSome || (pwm s p).com.isSome))) s

/-- The latent set of pair `p` in twin `t`. -/
def latentSet (s : State) (t : Twin) (p : Nat) : PwmSet :=
  let w := fun (a : Nat) => (rd s t (a + 128 * p)).toNat
  { period := w R.PWM_P_PERIOD, cmpA := w R.PWM_P_CMPA, cmpB := w R.PWM_P_CMPB,
    phase := (rd s t (R.PWM_P_PHASE + 128 * p)).toInt, x := (List.range 4).map (fun i => w (R.PWM_P_CMPX + 4 * i)) }

/-- A set clamped at commit: PERIOD to its range, CMPA and CMPB to 0 to PERIOD, PHASE to ±(PERIOD − 1) (R247). -/
def clampSet (q : PwmSet) : PwmSet :=
  let per := max 1600 (min q.period 4294967295)
  { q with period := per, cmpA := min q.cmpA per, cmpB := min q.cmpB per,
           phase := max (1 - (per : Int)) (min q.phase ((per : Int) - 1)) }

/-- A set is clamped, and CLAMPED is set where that changes it. -/
def commitSet (s : State) (p : Nat) (q : PwmSet) : State :=
  if clampSet q = q then s else onLive (fun s t => evi s t R.PWM_EVENT_CLAMPED p) s

/-- A clamped set develops: every value together, with DEV_SEQ and LATE reported (R247), and the sample rate of a group that
it times (R196). -/
def developSet (s : State) (p : Nat) (q : PwmSet) (seq : Nat) (late : Bool) : State :=
  let s := onLive (fun s t =>
    let a := R.PWM_P_DEV + 128 * p
    let s := wr (wr s t a (BitVec.ofNat 32 q.period)) t (a + 4) (BitVec.ofNat 32 q.cmpA)
    let s := wr (wr s t (a + 8) (BitVec.ofNat 32 q.cmpB)) t (a + 12) (BitVec.ofInt 32 q.phase)
    let s := wf (wf (showRate s t) t (pf R.PWM_P_RLD_DEV_SEQ p) seq) t (pf R.PWM_P_RLD_LATE p) (bit late)
    if late then evi (cnt s t (R.PWM_P_LATE + 128 * p)) t R.PWM_EVENT_LATE p else s) s
  modPwm s p (fun x => { x with x := q.x })

/-- S is 1 over [rise, fall) of the period that starts at `b` (R244). -/
def spans (edge : Bool) (b : Int) (per cmp : Nat) : Int × Int :=
  if edge then (b, b + cmp)
  else
    let c := b + (per / 2 : Nat)
    (c - (cmp / 2 : Nat), c + ((cmp - cmp / 2 : Nat) : Int))

/-- Half a period at least, or a whole PERIOD is added once (R249). -/
def stretch (from_ to_ per : Int) : Int := if 2 * (to_ - from_) < per then to_ + per else to_

/-- The first instant after `t` of the form `nb` plus a whole multiple of `per` (R249). -/
def afterTick (nb t : Int) (per : Nat) : Int := if nb ≤ t then nb + ((t - nb) / (per : Int) + 1) * (per : Int) else nb

/-- The period that starts at the carrier's boundary `b` with the developed set; the set has moved the phase by
`delta`, and `t` is the develop instant: the boundary, or with `now` a tick under IMMEDIATE (R244, R249). Every compare
offset at or after it fires once in this period. -/
def layPeriod (s : State) (p : Nat) (delta t : Int) (now : Bool) : State :=
  let edge := ps s R.PWM_P_CFG_CARRIER p == 1
  let per := pw s R.PWM_P_DEV p
  let a := pw s (R.PWM_P_DEV + 4) p
  let b := pw s (R.PWM_P_DEV + 8) p
  modPwm s p (fun x =>
    { x with
      c := x.b + (if edge then 0 else ((per / 2 : Nat) : Int))
      ra := (spans edge x.b per a).1
      fa := (spans edge x.b per a).2
      rb := (spans edge x.b per b).1
      fb := (spans edge x.b per b).2
      nb := stretch x.b (if now then afterTick (x.b + per + delta) t per else x.b + per + delta) per
      xFrom := t - x.b
      xDone := [] })

/-- A set that develops at the centre applies from there: the falling edges and the next boundary move (R249). -/
def layHalf (s : State) (p : Nat) (delta : Int) : State :=
  let per := pw s R.PWM_P_DEV p
  let a := pw s (R.PWM_P_DEV + 4) p
  let b := pw s (R.PWM_P_DEV + 8) p
  modPwm s p (fun x =>
    { x with
      fa := x.c + ((a - a / 2 : Nat) : Int)
      fb := x.c + ((b - b / 2 : Nat) : Int)
      nb := (let h := ((per - per / 2 : Nat) : Int) + delta
             if 2 * h < per then x.c + h + per else x.c + h)
      xFrom := x.c - x.b
      xDone := [] })

/-- Whether the boundary and the centre are selected as reload events (R247): in edge mode they coincide and count
once. -/
def selects (s : State) (p : Nat) : Bool × Bool :=
  let r := ps s R.PWM_P_CFG_RELOAD p
  if r = 3 then (false, false)
  else if ps s R.PWM_P_CFG_CARRIER p = 1 then (true, false)
  else (r == 0 || r == 2, r == 1 || r == 2)

/-- The instant of the edge that follows an edge of signal B (`own`) or A, falling (`rise` the edge judged) or rising in
the next period, with the set in force and a committed set whose reload falls before it (R245). -/
def edgeAfter (s : State) (p : Nat) (own rise : Bool) (t : Int) : Option Int :=
  let x := pwm s p
  let edge := ps s R.PWM_P_CFG_CARRIER p == 1
  let cmpDev := if own then pw s (R.PWM_P_DEV + 8) p else pw s (R.PWM_P_DEV + 4) p
  let cmpOf := fun (q : PwmSet) => if own then q.cmpB else q.cmpA
  if rise then
    let f := if own then x.fb else x.fa
    some (match x.com with
      | some q => if (selects s p).2 ∧ t ≤ x.c then x.c + ((cmpOf q - cmpOf q / 2 : Nat) : Int) else f
      | none => f)
  else
    let nxt := match x.com with
      | some q => if (selects s p).1 then (q.period, cmpOf q) else (pw s R.PWM_P_DEV p, cmpDev)
      | none => (pw s R.PWM_P_DEV p, cmpDev)
    if nxt.2 = 0 then none else some (spans edge x.nb nxt.1 nxt.2).1

/-- A signal of the pair takes level `v` at `t`: two consecutive edges closer than MINP × 10 ns are both removed
(R245), judged when the first falls due. -/
def signalTo (s : State) (p : Nat) (own v : Bool) (t : Int) : State :=
  let x := pwm s p
  let old := if own then x.sB else x.sA
  if old = v then s
  else
    let s := modPwm s p (fun x => if own then { x with sB := v } else { x with sA := v })
    if if own then x.skB else x.skA then
      modPwm s p (fun x => if own then { x with skB := false } else { x with skA := false })
    else
      let minp := ps s R.PWM_P_CFG_MINP p * 160
      let near := match edgeAfter s p own v t with
        | some n => decide (n - t < (minp : Int))
        | none => false
      if near then modPwm s p (fun x => if own then { x with skB := true } else { x with skA := true })
      else modPwm s p (fun x => if own then { x with gB := v } else { x with gA := v })

/-- Both signals take the levels that the laid period gives them at `t`, and the outputs follow. -/
def levelsAt (s : State) (p : Nat) (t : Int) : State :=
  let x := pwm s p
  let at_ := fun (r f : Int) => decide (r ≤ t) && decide (t < f)
  let s := signalTo s p false (at_ x.ra (min x.fa x.nb)) t
  let s := signalTo s p true (at_ x.rb (min x.fb x.nb)) t
  settlePair s p

/-- Seconds, nanoseconds and sixteenths of PWM_Pp_START, with bits 47:32 of the seconds from device time (R244).
DEDUCED, unsafe: log entry 103. -/
def startTime (s : State) (p : Nat) : Int :=
  let t := edgeTwin s
  let hi := devNs s t / 1000000000 / 4294967296 * 4294967296
  ((hi + pw s R.PWM_P_START_S p) * 1000000000 + ps s R.PWM_P_START_NS_START_NS p) * 16
    + ps s R.PWM_P_START_SUB_START_SUB p

/-- A carrier before its first boundary or after a STOP: both signals low. -/
def idleCarrier (x : PwmX) : PwmX :=
  { x with begun := false, sA := false, sB := false, gA := false, gB := false, skA := false, skB := false }

/-- START of a pair, with its refusals in the order of R244. A pair that runs starts anew.
DEDUCED, unsafe: log entry 101. -/
def pwmStart (s : State) (p : Nat) : State :=
  let b0 := startTime s p + devPhase s p
  if rf s (edgeTwin s) R.PWM_GCFG_DT_LOCK = 0 then say s Rc.DT_UNLOCKED
  else if pw s R.PWM_P_DEV p < 1600 then say s Rc.PERIOD_INVALID
  else if b0 < nowSub s (edgeTwin s) + 16000 then say s Rc.START_PAST
  else
    let s := onLive (fun s t => wf (wf s t (pf R.PWM_P_STATUS_RUNNING p) 1) t (pf R.PWM_P_STATUS_RLD_SEQ p) 0) s
    let s := modPwm s p (fun x => { idleCarrier x with
      nb := b0, c := b0, div := 0, delta := 0, perN := 0, cmpN := [0, 0, 0, 0], cmpT := [0, 0, 0, 0] })
    settlePair s p

/-- PWM_START (R244). -/
def execPwmStart (tg : Target) (p : Fin 8) (s : State) : Out := .next (agreedOnly tg s (fun s => pwmStart s p.val))

/-- STOP of a pair (R244): both outputs off at the next tick, the carrier stops, developed values are kept. A force that
waits for a boundary goes on waiting for the first one after START (R250), and an output that kept its trip state leaves
it (R262). -/
def pwmStop (s : State) (p : Nat) : State :=
  let s := onLive (fun s t => wf s t (pf R.PWM_P_STATUS_RUNNING p) 0) s
  settlePair (modOut (modPwm s p idleCarrier) p (fun o => { o with hold := 0 })) p

/-- PWM_STOP (R244). -/
def execPwmStop (tg : Target) (p : Fin 8) (s : State) : Out := .next (agreedOnly tg s (fun s => pwmStop s p.val))

/-- An ARM replaces the set that is still pending (R247). -/
def countReplaced (s : State) (p : Nat) : State :=
  if (pwm s p).pend.isSome then
    onLive (fun s t => evi (cnt s t (R.PWM_P_REPLACED + 128 * p)) t R.PWM_EVENT_REPLACED p) s
  else s

/-- A set becomes pending for a pair, replacing one that is pending (R247); `now` marks a set that develops under the
IMMEDIATE rule whatever RELOAD selects (R248). -/
def pendSet (s : State) (p : Nat) (q : PwmSet) (now : Bool) : State :=
  showPending (modPwm (countReplaced s p) p (fun x => { x with pend := some q, pendLate := false, now := now })) p

/-- ARM of a set (R247): pending, or developed at once in a stopped pair with DEV_SEQ 0 and LATE 0; a set left from before
STOP is replaced by it, one already committed too, DESIGN CHOICE, unsafe: log entry 293. -/
def armSet (s : State) (p : Nat) (q : PwmSet) (now : Bool) : State :=
  if running s p then pendSet s p q now
  else
    let s := modPwm (countReplaced s p) p (fun x => { x with
      pend := none, pendLate := false, now := false, com := none, comLate := false })
    developSet (commitSet (showPending s p) p q) p (clampSet q) 0 false

/-- ARM of the latent set. -/
def pwmArm (s : State) (p : Nat) : State := armSet s p (latentSet s (edgeTwin s) p) false

/-- PWM_ARM (R247). -/
def execPwmArm (tg : Target) (p : Fin 8) (s : State) : Out := .next (agreedOnly tg s (fun s => pwmArm s p.val))

/-- RELOAD_CUTOFF (R247): the pending set becomes committed for the next reload, and is clamped. -/
def execReloadCutoff (p : Fin 8) (s : State) : Out :=
  let x := pwm s p.val
  .next (match x.pend, x.com with
    | some q, none =>
      if !(running s p.val) ∨ x.now ∨ ps s R.PWM_P_CFG_RELOAD p.val = 3 then s
      else
        let s := commitSet s p.val q
        modPwm s p.val (fun x => { x with com := some (clampSet q), comLate := x.pendLate, pend := none,
                                          pendLate := false })
    | _, _ => s)

/-- The reload sequence counts one (R247). -/
def countReload (s : State) (p : Nat) : State :=
  onLive (fun s t => wf s t (pf R.PWM_P_STATUS_RLD_SEQ p) (rf s t (pf R.PWM_P_STATUS_RLD_SEQ p) + 1)) s

/-- A reload event of the selected kind: only every (RLD_DIV + 1)-th is a reload; there the committed set develops, and
a set still pending has missed it (R247, R249). DEDUCED, unsafe: log entry 100. -/
def reloadEvent (s : State) (p : Nat) (centre : Bool) : State :=
  let x := pwm s p
  if x.div < ps s R.PWM_P_CFG_RLD_DIV p then modPwm s p (fun x => { x with div := x.div + 1 })
  else
    let s := modPwm (countReload s p) p (fun x => { x with div := 0, pendLate := x.pendLate || x.pend.isSome })
    match x.com with
    | none => s
    | some q =>
      let delta := q.phase - devPhase s p
      let s := developSet s p q (ps s R.PWM_P_STATUS_RLD_SEQ p) x.comLate
      let s := showPending (modPwm s p (fun x => { x with com := none, comLate := false })) p
      if centre then levelsAt (layHalf s p delta) p (pwm s p).c
      else modPwm s p (fun x => { x with delta := x.delta + delta })

/-- A set develops at the next TB tick under IMMEDIATE (R249): each output takes the state that the new values give
for the elapsed part of the period. -/
def reloadNow (s : State) (p : Nat) : State :=
  let x := pwm s p
  match x.pend with
  | none => s
  | some q0 =>
    let q := clampSet q0
    let delta := q.phase - devPhase s p
    let s := countReload (commitSet s p q0) p
    let s := developSet s p q (ps s R.PWM_P_STATUS_RLD_SEQ p) false
    let s := showPending (modPwm s p (fun x => { x with pend := none, pendLate := false, now := false })) p
    let t := max x.b (nowSub s (edgeTwin s))
    if x.begun then levelsAt (layPeriod s p delta t true) p t else modPwm s p (fun x => { x with nb := x.nb + delta })

/-- RELOAD (R247, R249): a selected event of a running pair: 0 its next boundary, 1 its centre, 2 the tick of an
IMMEDIATE development. A boundary's set applies to the period that the boundary then starts. -/
def execReload (p : Fin 8) (kind : Fin 3) (s : State) : Out :=
  .next (if !(running s p.val) then s
    else if kind = 2 then
      (if (pwm s p.val).now ∨ ps s R.PWM_P_CFG_RELOAD p.val = 3 then reloadNow s p.val else s)
    else if kind = 0 then (if (selects s p.val).1 then reloadEvent s p.val false else s)
    else if (selects s p.val).2 ∧ (pwm s p.val).begun then reloadEvent s p.val true else s)

/-- Pair `k` leaves a trip state that it kept after a clear (R262). -/
def leaveHold (s : State) (k : Nat) : State := modOut s k (fun o => { o with hold := 0 })

/-- PERIOD_BOUNDARY (R244, R250, R251, R262): the next period starts, forces that waited for it act, outputs that kept
a cleared trip state leave it, and the pair's period event fires. -/
def execPeriodBoundary (p : Fin 8) (s : State) : Out :=
  .next (if !(running s p.val) then s
    else
      let t := (pwm s p.val).nb
      let delta := (pwm s p.val).delta
      let s := modPwm s p.val (fun x => { x with begun := true, b := x.nb, delta := 0, perN := x.perN + 1, wA := 0, wB := 0,
                                                 fA := if x.wA = 0 then x.fA else x.wA,
                                                 fB := if x.wB = 0 then x.fB else x.wB })
      let s := leaveHold (layPeriod s p.val delta t false) p.val
      let s := (List.range 8).foldl (fun s g =>
        if feeds s p.val g then leaveHold s (8 + g) else s) s
      levelsAt s p.val t)

/-- COMPARE_EVENT (R249, R251): CMPXi fires once in a period, unless it lies before the develop instant of this period
or at or above PERIOD. -/
def execCompareEvent (p : Fin 8) (i : Fin 4) (s : State) : Out :=
  let x := pwm s p.val
  let off : Int := x.x.getD i.val 0
  .next (if running s p.val ∧ x.begun ∧ x.xFrom ≤ off ∧ off < (pw s R.PWM_P_DEV p.val : Nat) ∧ !(x.xDone.contains i.val) then
      modPwm s p.val (fun x => { x with
        xDone := i.val :: x.xDone
        cmpN := x.cmpN.set i.val (x.cmpN.getD i.val 0 + 1)
        cmpT := x.cmpT.set i.val (x.b + off) })
    else s)

/-- PWM_EDGE (R245, R252): a switching signal reaches an edge of the period: of output A, or of B in independent mode;
for a gate-drive pair, of its generator. A turn-off acts at once, a turn-on after its dead time. -/
def execPwmEdge (gd : Bool) (p : Fin 8) (outB rise : Bool) (s : State) : Out :=
  .next (if gd then
      if (gen s p.val).run then settlePair (modGen s p.val (fun g => { g with s := rise })) (8 + p.val) else s
    else
      let x := pwm s p.val
      if running s p.val ∧ x.begun then
        let t := if outB then (if rise then x.rb else x.fb) else (if rise then x.ra else x.fa)
        settlePair (signalTo s p.val outB rise t) p.val
      else s)

/-- Dead time before a turn-on ends in the pairs that a PWM pair feeds where it is that pair's (R252). -/
def endTied (s : State) (p : Nat) (outB : Bool) : State :=
  (List.range 8).foldl (fun s g =>
    if feeds s p g then modOut s (8 + g) (fun o =>
      if outB then { o with deadB := o.deadB && !o.tiedB, tiedB := false }
      else { o with deadA := o.deadA && !o.tiedA, tiedA := false }) else s) s

/-- DEAD_TIME_END (R245, R260): the dead time before an output's turn-on ends; a turn-on that waits for it reaches the
output. `k` is the PWM pair, or 8 plus the gate-drive pair. DESIGN CHOICE, unsafe: log entry 99. -/
def execDeadTimeEnd (k : Fin 16) (outB : Bool) (s : State) : Out :=
  let s := if k.val < 8 then endTied s k.val outB else s
  .next (settlePair (modOut s k.val (fun o => if outB then { o with deadB := false, tiedB := false }
    else { o with deadA := false, tiedA := false })) k.val)

/-- One force field written: a force waits for the boundary with AT_BOUNDARY, and a release acts at the next tick (R250). The pair gives the acting and the waiting force. -/
def forceField (old : Nat) (code : Nat) (later : Bool) : Nat × Nat :=
  if later && code != 0 then (old, code) else (code, 0)

/-- A force is written (R250). DEDUCED, unsafe: log entry 102. -/
def pwmForce (s : State) (p fa fb : Nat) (atB : Bool) : State :=
  if fa = 2 ∧ fb = 2 then say s Rc.FORCE_INVALID
  else
    let s := onLive (fun s t =>
      wf (wf (wf s t (pf R.PWM_P_FORCE_FA p) fa) t (pf R.PWM_P_FORCE_FB p) fb) t (pf R.PWM_P_FORCE_AT_BOUNDARY p) (bit atB)) s
    settlePair (modPwm s p (fun x =>
      let a := forceField x.fA fa atB
      let b := forceField x.fB fb atB
      { x with fA := a.1, wA := a.2, fB := b.1, wB := b.2 })) p

/-- PWM_FORCE (R250). -/
def execPwmForce (tg : Target) (p : Fin 8) (fa fb : Fin 4) (atB : Bool) (s : State) : Out :=
  .next (agreedOnly tg s (fun s => pwmForce s p.val fa.val fb.val atB))

/-- DT_LOCK is written 1 (R246): all dead times lock until reset. -/
def dtLock (s : State) (t : Twin) : State := wf s t R.PWM_GCFG_DT_LOCK 1

/-- DT_LOCK (R246). -/
def execDtLock (tg : Target) (s : State) : Out :=
  .next (match tg with
    | .both => onLive dtLock (say s Rc.OK)
    | .one t => dtLock (say s Rc.OK) t)

end Sys2Proof.Machine
end

