-- ==== Sys2Proof/Machine/Gd.lean ====
section
/-! DEFINITION. Meanings of the gate-drive rows of 07_power_edge: generators, supply lock-outs, bootstrap refresh, the
gate-power bridge and the off-state diagnostics. -/

namespace Sys2Proof.Machine

/-- Dead time of a code in nanoseconds (R246). -/
def deadNs (code : Nat) : Nat := [100, 200, 400, 600, 800, 1200, 2000, 3200].getD code 3200

/-- A field of gate-drive pair `g` as the settings hold it. -/
def gs (s : State) (f : Fld) (g : Nat) : Nat := rf s (edgeTwin s) (gf f g)

/-- On-time of a bridge pair in the period that begins, rising from the dead time to half the period over SS ms (R256);
pair 7 runs half a period behind pair 6. -/
def bridgeOnTime (s : State) (g count : Nat) : Nat :=
  let per := rf s (edgeTwin s) R.GD_GPB_PERIOD * 160
  let half := per / 2
  let dt := min (deadNs (gs s R.GD_P_CFG_DT g) * 16) half
  let ss := rf s (edgeTwin s) R.GD_GPB_SS * 16000000
  let t := count * per + (if g = 7 then half else 0)
  if ss ≤ t then half else dt + (half - dt) * t / ss

/-- GENERATOR_BOUNDARY (R252, R256, R262): a period of the pair's generator starts. Values written develop if GEN_ON
was written at least 2 ns before (`settled`); outputs that kept a cleared trip state leave it.
DESIGN CHOICE, unsafe: log entry 105. -/
def execGeneratorBoundary (g : Fin 8) (settled : Bool) (s : State) : Out :=
  let go := fun (s : State) (per on : Nat) =>
    let s := modGen s g.val (fun x => { x with run := decide (0 < per), s := decide (0 < on) && decide (0 < per),
                                               period := per, on := min on per, count := x.count + 1 })
    settlePair (leaveHold s (8 + g.val)) (8 + g.val)
  let x := gen s g.val
  .next (if bridgeMode s g.val then
      if x.bridge && s.edge.bridgeOn then go s (rf s (edgeTwin s) R.GD_GPB_PERIOD * 160) (bridgeOnTime s g.val x.count)
      else s
    else match x.seq with
    | some q => go s q.1 q.2
    | none =>
      if gdSrc s g.val ≠ 1 then s
      else if x.written && settled then
        go (modGen s g.val (fun x => { x with written := false })) (rd s (edgeTwin s) (R.GD_P_GEN_PERIOD + 64 * g.val)).toNat
          (rd s (edgeTwin s) (R.GD_P_GEN_ON + 64 * g.val)).toNat
      else go s x.period x.on)

/-- GATE_UVLO (R254): VDRVP (or the magnitude of VDRVN, unless its code 0 disables the check) is below its threshold;
both channels turn off, UVLO is set and counted. -/
def execGateUvlo (g : Fin 8) (neg : Bool) (s : State) : Out :=
  .next (if neg ∧ gs s R.GD_P_UVLO_VDRVN g.val = 0 then s
    else
      let s := onLive (fun s t =>
        let s := wf s t (gf (if neg then R.GD_P_STATUS_UV_N else R.GD_P_STATUS_UV_P) g.val) 1
        let s := modTwn s t (fun x => { x with uvlo := x.uvlo ||| (3 * 4 ^ g.val) })
        evi (cnt s t (R.GD_P_UVLO_CNT + 64 * g.val)) t R.GD_EVENT_UVLO g.val) s
      settlePair (modGen s g.val (fun x => { x with lock := true })) (8 + g.val))

/-- UVLO_RECOVER (R254): the supply has been above its threshold plus hysteresis for 10 µs; with both supplies good the
pair resumes at the next on-edge of its source. -/
def execUvloRecover (g : Fin 8) (neg : Bool) (s : State) : Out :=
  let s := onLive (fun s t => wf s t (gf (if neg then R.GD_P_STATUS_UV_N else R.GD_P_STATUS_UV_P) g.val) 0) s
  .next (if (gen s g.val).lock ∧ gs s R.GD_P_STATUS_UV_P g.val = 0 ∧ gs s R.GD_P_STATUS_UV_N g.val = 0 then
      let s := modGen s g.val (fun x => { x with lock := false })
      settlePair (modOut s (8 + g.val) (fun o => { o with waitA := true, waitB := true })) (8 + g.val)
    else s)

/-- Channel A of pair `g` is held on by a trip state or by a force of the PWM pair that feeds it (R255). -/
def heldOn (s : State) (g : Nat) : Bool :=
  (tripped s (8 + g) && tripState s (8 + g) 0 == 1)
    || (gdSrc s g == 0 && forceOf s (gdPair s g) 0 == 2)

/-- BOOTSTRAP_REFRESH (R255): channel A has been on for REF_INT: A turns off and B, after the dead time, on; with `ended`, B
has been on for REF_W: B turns off and A, after the dead time, follows its source again. DESIGN CHOICE, unsafe: log
entry 106. -/
def execBootstrapRefresh (r : RefreshPoint) (s : State) : Out :=
  let g := r.pair.val
  .next (if r.ended then
      if (gen s g).sched then settlePair (modGen s g (fun x => { x with sched := false })) (8 + g) else s
    else if 6 ≤ g ∧ (outs s (8 + g)).a = 1 ∧ !(heldOn s g) then
      settlePair (modGen s g (fun x => { x with sched := true })) (8 + g)
    else s)

/-- FORCED_REFRESH (R242, R255, R265): BSTg is below its threshold while A is on; A turns off, and after the dead time
B turns on unless a latched trip state without A on holds the pair; BST is set. DEDUCED, unsafe: log entry 107. -/
def execForcedRefresh (g : Fin 8) (s : State) : Out :=
  .next (if 6 ≤ g.val ∧ (outs s (8 + g.val)).a = 1 then
      let s := onLive (fun s t => evi (wf s t (gf R.GD_P_STATUS_UV_BST g.val) 1) t R.GD_EVENT_BST (g.val - 6)) s
      settlePair (modGen s g.val (fun x => { x with refresh := true })) (8 + g.val)
    else s)

/-- FORCED_REFRESH_END (R255): BSTg has recovered; B turns off and A follows its source from its next on-edge. -/
def execForcedRefreshEnd (g : Fin 8) (s : State) : Out :=
  .next (if (gen s g.val).refresh then
      let s := onLive (fun s t => wf s t (gf R.GD_P_STATUS_UV_BST g.val) 0) s
      let s := modGen s g.val (fun x => { x with refresh := false })
      settlePair (modOut s (8 + g.val) (fun o => { o with waitA := true })) (8 + g.val)
    else s)

/-- RUN is written to the gate-power bridge (R256, R369, R370, R454): refused in Safelight; a bridge that a safety
function holds stays stopped; otherwise both sides owe their stop test. -/
def gpbRun (s : State) : State :=
  if safelight s then say s Rc.SAFELIGHT_ACTIVE
  else
    let s := onLive (fun s t => wf s t R.GD_GPB_RUN 1) s
    if flag s (edgeTwin s) R.GD_GPB_BRIDGE ∧ !(s.edge.bridgeOn) ∧ !(stoNow s) then
      modEdge s (fun e => { e with testA := true, testB := true, testBad := false })
    else s

/-- GPB_RUN (R256, R370). -/
def execGpbRun (tg : Target) (s : State) : Out := .next (agreedOnly tg s gpbRun)

/-- BRIDGE_START_TEST (R370): one side's stop test ends. After both the bridge starts with pairs 6 and 7 on their
generators, or stays stopped with BRIDGE_TEST set. DEDUCED, unsafe: log entry 108. -/
def execBridgeStartTest (t : Twin) (pass : Bool) (s : State) : Out :=
  let owed := match t with
    | .a => s.edge.testA
    | .b => s.edge.testB
  if !owed then .next s else
  let s := modEdge s (fun e => match t with
    | .a => { e with testA := false, testBad := e.testBad || !pass }
    | .b => { e with testB := false, testBad := e.testBad || !pass })
  .next (if s.edge.testA || s.edge.testB then s
    else if s.edge.testBad then onLive (fun s t => ev s t R.SAF_EVENT_BRIDGE_TEST) (bridgeStop s)
    else if stoNow s then s
    else
      let s := modEdge s (fun e => { e with bridgeOn := true })
      let s := [6, 7].foldl (fun s g => modGen s g (fun x => { x with run := false, bridge := true, count := 0, s := false })) s
      onLive (fun s t => wf s t R.GD_GPB_STOPPED 0) s)

/-- Whether a gate-drive pair's source is switching (R258, R268). -/
def gdSwitching (s : State) (g : Nat) : Bool :=
  (decide (6 ≤ g) && s.edge.bridgeOn)
    || (match gdSrc s g with
        | 0 => running s (gdPair s g)
        | 1 => (gen s g).run
        | _ => false)

/-- Whether channel `c` is in its off state (R258). -/
def channelOff (s : State) (c : Nat) : Bool :=
  let o := outs s (8 + c / 2)
  !(gdSwitching s (c / 2)) && (if c % 2 = 0 then o.a else o.b) != 1
    && !(tripped s (8 + c / 2) && tripState s (8 + c / 2) (c % 2) == 1)

/-- The granted test runs over the channels named, in ascending order (R257). -/
def gdDiagBegin (s : State) (t : Twin) : State :=
  let chans := (List.range 16).filter (fun c => biti s t R.GD_DIAG_CTRL_MASK c)
  let s := modEdge s (fun e => { e with diag := chans })
  onLive (fun s t => wf s t R.GD_DIAG_STATUS_BUSY 1) s

/-- START of the off-state diagnostics (R257, R258). DEDUCED, unsafe: log entry 112. -/
def gdDiagStart (s : State) (mask itest : Nat) : State :=
  if (List.range 16).any (fun c => nbit mask c && !(channelOff s c)) then say s Rc.GD_ACTIVE
  else if s.edge.diag ≠ [] ∨ mask = 0 then s
  else
    let s := onLive (fun s t => wf (wf s t R.GD_DIAG_CTRL_MASK mask) t R.GD_DIAG_CTRL_ITEST itest) s
    let t := (leader s).getD .a
    if leaveHeld s 4 t ∨ leaveWaits s 4 t then s
    else
      let s := leaveAsk s 4 t true 0
      if leaveHeld s 4 t then gdDiagBegin s t else s

/-- GD_DIAG_START (R257, R258). -/
def execGdDiagStart (tg : Target) (mask : BitVec 16) (itest : Fin 4) (s : State) : Out :=
  .next (agreedOnly tg s (fun s => gdDiagStart s mask.toNat itest.val))

/-- The test of the channel in progress ends with a result; after the last, DONE is set and the leave returns (R258). -/
def diagResult (s : State) (res : Nat) : State :=
  match s.edge.diag with
  | [] => s
  | c :: rest =>
    let s := onLive (fun s t => wf s t ⟨R.GD_DIAG_RES, 2 * c + 1, 2 * c⟩ res) s
    let s := modEdge s (fun e => { e with diag := rest })
    if rest.isEmpty then
      let s := onLive (fun s t => ev (wf s t R.GD_DIAG_STATUS_BUSY 0) t R.GD_DIAG_STATUS_DONE) s
      leaveEnd (leaveEnd s 4 .a) 4 .b
    else s

/-- The test current in µA (R257). -/
def testCurrent (code : Nat) : Nat := [50, 200, 500, 2000].getD code 50

/-- GD_DIAG_CHANNEL_END (R257): the voltages V1 and V2 at the channel and VDRVP, in millivolts, classify it. -/
def execGdDiagChannelEnd (v1 v2 vp : W32) (s : State) : Out :=
  match s.edge.diag with
  | [] => .next s
  | c :: _ =>
    let t := edgeTwin s
    let w := fun (hi lo : Nat) => bits (rd s t ((if c % 2 = 0 then R.GD_P_RMAX_A else R.GD_P_RMAX_B) + 64 * (c / 2))) hi lo
    let rmax : Int := w 31 16
    let rmin : Int := w 15 0
    let num := (v2.toInt - v1.toInt) * 10
    let den : Int := 2 * testCurrent (rf s t R.GD_DIAG_CTRL_ITEST)
    .next (diagResult s (if vp.toInt - 300 ≤ v1.toInt then 1
      else if num < rmin * den then 2
      else if rmax ≠ 65535 ∧ rmax * den < num then 3
      else 0))

/-- GD_DIAG_ABORT (R258): a trip, a lock-out or a start of the source ends the channel's test with OPEN and ABORTED. -/
def execGdDiagAbort (s : State) : Out :=
  .next (if s.edge.diag.isEmpty then s
    else diagResult (onLive (fun s t => ev s t R.GD_DIAG_STATUS_ABORTED) s) 3)

end Sys2Proof.Machine
end

