-- ==== Sys2Proof/Machine/Can.lean ====
section
/-! DEFINITION. Meanings of the CAN rows of 10_can_bus: message objects (R342 to R347), transmission (R348 to R351),
error states (R352 to R354), the time master (R355) and ECP over CAN (R356, R357). -/

namespace Sys2Proof.Machine

/-! State of a bus. -/

/-- One twin's state of bus `b`. -/
def can (s : State) (t : Twin) (b : Nat) : CanSt := tabGet {} (s.tw t).can b

/-- Change one twin's state of bus `b`. -/
def modCan (s : State) (t : Twin) (b : Nat) (f : CanSt → CanSt) : State :=
  s.setTw t { s.tw t with can := tabMod {} (s.tw t).can b f }

/-- A field of bus `b`. -/
def bfld (f : Fld) (b : Nat) : Fld := fo f (65536 * b)

/-- The address of a word of object `m` of bus `b`, from the address `a` of object 0's; the high-priority buffer is
numbered 128. -/
def objAddr (a b m : Nat) : Nat := if m = 128 then a + 65536 * b - 0xE00 else a + 65536 * b + 128 * m

/-- A field of object `m` of bus `b`. -/
def ofld (f : Fld) (b m : Nat) : Fld := ⟨objAddr f.addr b m, f.hi, f.lo⟩

/-- An event of bus `b`. -/
def cev (s : State) (t : Twin) (f : Fld) (b : Nat) : State := ev s t (bfld f b)

/-- STAT of an object. -/
def objStat (s : State) (t : Twin) (b m : Nat) : Nat := rf s t (ofld R.CAN_B_OBJ_CTL_STAT b m)

/-- Set an object's STAT. -/
def setStat (s : State) (t : Twin) (b m v : Nat) : State := wf s t (ofld R.CAN_B_OBJ_CTL_STAT b m) v

def stIdle : Nat := 0
def stPending : Nat := 1
def stActive : Nat := 2
def stTransmitted : Nat := 3
def stCancelled : Nat := 4
def stCancelLate : Nat := 5
def stDisabled : Nat := 6

/-- Whether object `m` is an enabled transmit object. -/
def isTx (s : State) (t : Twin) (b m : Nat) : Bool :=
  flag s t (ofld R.CAN_B_OBJ_ID_EN b m) && flag s t (ofld R.CAN_B_OBJ_ID_DIR b m)

def canInit : Nat := 0
def canErrActive : Nat := 1
def canErrPassive : Nat := 2
def canBusOff : Nat := 3
def canRecovering : Nat := 4
def canIntegrating : Nat := 5

/-- CAN_Bb_STATUS.STATE. -/
def canState (s : State) (t : Twin) (b : Nat) : Nat := rf s t (bfld R.CAN_B_STATUS_STATE b)

/-- The error counters shown, and the error state they give (R352): error-passive from 128, with its event on entry. -/
def showErr (s : State) (t : Twin) (b : Nat) : State :=
  let c := can s t b
  let s := wf s t (bfld R.CAN_B_STATUS_TEC b) (min c.tec 255)
  let s := wf (wf s t (bfld R.CAN_B_STATUS_REC b) (min c.rxErr 127)) t (bfld R.CAN_B_STATUS_RP b) (bit (decide (128 ≤ c.rxErr)))
  let st := canState s t b
  if st = canErrActive ∨ st = canErrPassive then
    let passive := decide (128 ≤ c.tec) || decide (128 ≤ c.rxErr)
    let s := if passive && st == canErrActive then cev s t R.CAN_B_EVENT_ERR_PASSIVE b else s
    wf s t (bfld R.CAN_B_STATUS_STATE b) (if passive then canErrPassive else canErrActive)
  else s

/-- The twin whose controller drives CAN_TX (R339). -/
def canDriver (s : State) (b : Nat) : Option Twin :=
  match s.ilk.pins with
  | some t => if flag s t (bfld R.CAN_B_STATUS_DRIVING b) then some t else none
  | none => none

/-! Frames and objects. -/

/-- The identifier bits that a format compares: all 29, or 28:18 of a base frame (R342). -/
def idMask (ide : Bool) : Nat := if ide then 0x1FFFFFFF else 0x1FFC0000

/-- Two identifiers agree under a mask. -/
def idMatch (ide : Bool) (x y m : Nat) : Bool := ((x ^^^ y) &&& m &&& idMask ide) == 0

/-- R342 for object `m`. -/
def objMatches (s : State) (t : Twin) (b : Nat) (f : CanFrame) (m : Nat) : Bool :=
  flag s t (ofld R.CAN_B_OBJ_ID_EN b m) && !(flag s t (ofld R.CAN_B_OBJ_ID_DIR b m))
    && idMatch f.ide f.id.toNat (rf s t (ofld R.CAN_B_OBJ_ID_ID b m)) (rf s t (ofld R.CAN_B_OBJ_MASK_MASK b m))
    && flag s t (ofld R.CAN_B_OBJ_ID_IDE b m) == f.ide
    && (!(flag s t (ofld R.CAN_B_OBJ_MASK_MRTR b m)) || flag s t (ofld R.CAN_B_OBJ_CTL_RTR b m) == f.rtr)

/-- Whether an enabled high-priority filter matches (R343). -/
def hpMatches (s : State) (t : Twin) (b : Nat) (f : CanFrame) : Bool :=
  (List.range 8).any (fun q =>
    let k := 65536 * b + 8 * q
    flag s t (fo R.CAN_B_HPF_ID_EN k) && flag s t (fo R.CAN_B_HPF_ID_IDE k) == f.ide
      && idMatch f.ide f.id.toNat (rf s t (fo R.CAN_B_HPF_ID_ID k)) (rf s t (fo R.CAN_B_HPF_MASK_MASK k)))

/-- The word with data bytes `4j` to `4j + 3`, byte 4j in bits 7:0; bytes beyond the frame keep their value. -/
def dataWord (old : W32) (d : List Byte) (j : Nat) : W32 :=
  (List.range 4).foldl (fun w i => match d[4 * j + i]? with
    | some v => putBits w (8 * i + 7) (8 * i) v.toNat
    | none => w) old

/-- Data bytes into an object's data words. -/
def putData (s : State) (t : Twin) (b m : Nat) (d : List Byte) : State :=
  (List.range ((d.length + 3) / 4)).foldl (fun s j =>
    let a := objAddr R.CAN_B_OBJ_DATA b m + 4 * j
    wr s t a (dataWord (rd s t a) d j)) s

/-- The stamp words of an object. -/
def putStamp (s : State) (t : Twin) (b m stamp : Nat) : State :=
  wf (wr s t (objAddr R.CAN_B_OBJ_STAMP_LO b m) (BitVec.ofNat 32 stamp)) t (ofld R.CAN_B_OBJ_STAMP_HI_STAMP_HI b m)
    (stamp / 4294967296 % 256)

/-- The object's bit in CAN_Bb_OBJ_NEW; the high-priority buffer has none. -/
def setNew (s : State) (t : Twin) (b m : Nat) (v : Bool) : State :=
  if m = 128 then s
  else wf s t ⟨R.CAN_B_OBJ_NEW + 65536 * b + 4 * (m / 32), m % 32, m % 32⟩ (bit v)

/-- A frame is stored in an object (R344, R346): it replaces the contents with STAT NEW.
DEDUCED, unsafe: log entry 172. -/
def storeFrame (s : State) (t : Twin) (b m : Nat) (f : CanFrame) (stamp : Nat) (lost : Bool) : State :=
  let s := wf (wf s t (ofld R.CAN_B_OBJ_ID_ID b m) f.id.toNat) t (ofld R.CAN_B_OBJ_ID_IDE b m) (bit f.ide)
  let s := wf (wf s t (ofld R.CAN_B_OBJ_CTL_ESI b m) (bit f.esi)) t (ofld R.CAN_B_OBJ_CTL_FDF b m) (bit f.fdf)
  let s := wf (wf s t (ofld R.CAN_B_OBJ_CTL_BRS b m) (bit f.brs)) t (ofld R.CAN_B_OBJ_CTL_RTR b m) (bit f.rtr)
  let s := wf s t (ofld R.CAN_B_OBJ_CTL_DLC b m) f.dlc.val
  let s := if lost then wf s t (ofld R.CAN_B_OBJ_CTL_LOST b m) 1 else s
  let s := setNew (setStat (putStamp (putData s t b m f.data) t b m stamp) t b m 1) t b m true
  let s := cnt s t (R.CAN_B_RX_OK + 65536 * b)
  if m = 128 then cev s t R.CAN_B_EVENT_HP b
  else if flag s t (ofld R.CAN_B_OBJ_MASK_NOTIFY b m) then cev s t R.CAN_B_EVENT_RX b else s

/-- A lost frame is counted. -/
def msgLost (s : State) (t : Twin) (b : Nat) : State :=
  cev (cnt s t (R.CAN_B_MSG_LOST + 65536 * b)) t R.CAN_B_EVENT_MSG_LOST b

/-- A new frame for an object (R346): to its hold slot while locked, else into it. -/
def takeFrame (s : State) (t : Twin) (b m : Nat) (f : CanFrame) (stamp : Nat) : State :=
  if flag s t (ofld R.CAN_B_OBJ_CTL_LOCKED b m) then
    let held := flag s t (ofld R.CAN_B_OBJ_CTL_HELD b m)
    let s := if held then msgLost s t b else s
    let s := modCan s t b (fun c => { c with hold := tabPut true c.hold m (f, stamp), overs := if held then m :: c.overs.erase m else c.overs })
    wf s t (ofld R.CAN_B_OBJ_CTL_HELD b m) 1
  else
    let lost := objStat s t b m == 1
    storeFrame (if lost then msgLost s t b else s) t b m f stamp lost

/-- The lock of an object is released (R345, R346): its bit in OBJ_NEW clears, STAT becomes READ, and a held frame
moves in. -/
def unlock (s : State) (t : Twin) (b m : Nat) : State :=
  if !(flag s t (ofld R.CAN_B_OBJ_CTL_LOCKED b m)) then s else
  let s := setNew (setStat (wf s t (ofld R.CAN_B_OBJ_CTL_LOCKED b m) 0) t b m 2) t b m false
  let c := can s t b
  match c.hold.find? (fun e => e.1 == m) with
  | none => s
  | some (_, f, stamp) =>
    let s := wf s t (ofld R.CAN_B_OBJ_CTL_HELD b m) 0
    let s := modCan s t b (fun c => { c with hold := c.hold.filter (fun e => e.1 != m), overs := c.overs.erase m })
    storeFrame s t b m f stamp (c.overs.contains m)

/-- EN = 0 has waited for the attempt: the bus enters INIT (R354); with both buses in INIT the CB domain is gated. -/
def canClose (s : State) (t : Twin) (b : Nat) : State :=
  if (can s t b).closing then
    let s := wf (modCan s t b (fun c => { c with closing := false, refPend := false })) t (bfld R.CAN_B_STATUS_STATE b) canInit
    if canState s t (1 - b) = canInit then gate s t 5 else s
  else s

/-- An attempt of the driving controller has lost arbitration to a received frame: it is pending again, or cancelled
(R348, R349). DEDUCED, unsafe: log entry 177. -/
def loseArbitration (s : State) (t : Twin) (b : Nat) : State :=
  let c := can s t b
  match c.active with
  | none => s
  | some m =>
    let again := m == 128 && !c.closing
    let s := modCan s t b (fun c => { c with active := none, cancel := c.cancel.erase m, refPend := c.refPend || again })
    canClose (if m = 128 then s
      else setStat s t b m (if c.cancel.contains m then stCancelled else if c.closing then stDisabled else stPending)) t b

/-- A good frame lowers the receive error counter of a controller and is placed (R343, R352). -/
def placeFrame (s : State) (t : Twin) (b : Nat) (f : CanFrame) (stamp : Nat) : State :=
  let s := modCan s t b (fun c => { c with rxErr := if 127 < c.rxErr then 119 + (Config.freeWord s.free).toNat % 9 else c.rxErr - 1 })
  let s := showErr s t b
  if hpMatches s t b f then takeFrame s t b 128 f stamp
  else match (List.range 128).find? (objMatches s t b f) with
    | some m => takeFrame s t b m f stamp
    | none => cnt s t (R.CAN_B_RX_UNMATCHED + 65536 * b)

/-- Whether a frame was being received when EN became 0, as its stamp tells; no frame lasts a second (R354). -/
def wasArriving (s : State) (t : Twin) (b stamp : Nat) : Bool :=
  canState s t b == canInit && (can s t b).closedAt.any (fun n =>
    decide (nowSub s t - n < 16000000000) && decide (tribDiff stamp (n % 1099511627776).toNat < 0))

/-- CAN_FRAME_RECEIVE (R343): an FD frame with FD_EN = 0 is a protocol exception (R338); a good frame is placed. Either has won
the arbitration against an attempt of the controller (R348, R349). The frame that was being received when EN became 0 is
stored still (R354). DESIGN CHOICE, safe: log entry 175. -/
def execCanFrameReceive (b : Fin 2) (f : CanFrame) (stamp : BitVec 40) (s : State) : Out :=
  .next (
    let b := b.val
    let s0 := s
    let s := onLive (fun s t => crossIn s t 5 (fun s =>
      let st := canState s t b
      let begun := wasArriving s t b stamp.toNat
      if st ≠ canErrActive ∧ st ≠ canErrPassive ∧ !begun then s
      else if f.fdf && !(flag s t (bfld R.CAN_B_CTRL_FD_EN b)) then
        let s := loseArbitration s t b
        let closed := begun || canState s t b == canInit
        wf (cev (cnt s t (R.CAN_B_PEX + 65536 * b)) t R.CAN_B_EVENT_PEX b) t (bfld R.CAN_B_STATUS_STATE b) (if closed then canInit else canIntegrating)
      else
        let s := modCan (loseArbitration s t b) t b (fun c => { c with closedAt := if begun then none else c.closedAt })
        placeFrame s t b f stamp.toNat)) s
    if 127 < (can s0 .a b).rxErr ∨ 127 < (can s0 .b b).rxErr then freeTick s else s)

/-- A read of an object's CTL word locks it in the twin read (R345); it returns the word.
DEDUCED, unsafe: log entry 173. -/
def ctlRead (s : State) (t : Twin) (b m : Nat) : State :=
  let a := objAddr R.CAN_B_OBJ_CTL b m
  let s := if m = 128 ∨ !(flag s t (ofld R.CAN_B_OBJ_ID_DIR b m)) then wf s t (ofld R.CAN_B_OBJ_CTL_LOCKED b m) 1 else s
  { s with readOut := [rd s t a] }

/-- CAN_CTL_READ (R345). -/
def execCanCtlRead (t : Twin) (b : Fin 2) (m : Fin 129) (s : State) : Out := .next (ctlRead (say s Rc.OK) t b.val m.val)

/-- The number of data bytes of a DLC (R359). -/
def dlcBytes (dlc : Nat) (fdf : Bool) : Nat :=
  if dlc ≤ 8 then dlc else if fdf then [12, 16, 20, 24, 32, 48, 64].getD (dlc - 9) 64 else 8

/-- The address of an object's last word: the data word holding the last byte of the stored frame, or STAMP_HI when the
frame has no data (R345). -/
def lastWord (s : State) (t : Twin) (b m : Nat) : Nat :=
  let n := if flag s t (ofld R.CAN_B_OBJ_CTL_RTR b m) then 0
    else dlcBytes (rf s t (ofld R.CAN_B_OBJ_CTL_DLC b m)) (flag s t (ofld R.CAN_B_OBJ_CTL_FDF b m))
  if n = 0 then objAddr R.CAN_B_OBJ_STAMP_HI b m else objAddr R.CAN_B_OBJ_DATA b m + 4 * ((n - 1) / 4)

/-- CAN_LAST_WORD_READ (R345): the word is read, then the lock released. -/
def execCanLastWordRead (t : Twin) (b : Fin 2) (m : Fin 129) (s : State) : Out :=
  .next (unlock { say s Rc.OK with readOut := [rd s t (lastWord s t b.val m.val)] } t b.val m.val)

/-- LOCK_TIMEOUT (R345): a lock not released within LOCK_T. -/
def execLockTimeout (t : Twin) (b : Fin 2) (m : Fin 129) (s : State) : Out :=
  .next (if flag s t (ofld R.CAN_B_OBJ_CTL_LOCKED b.val m.val) then
      cev (unlock s t b.val m.val) t R.CAN_B_EVENT_LOCK_TIMEOUT b.val
    else s)

/-! Transmission. -/

/-- Whether an enabled ECP context holds object `m` (R357): 127 − 2h to receive, 126 − 2h to transmit. -/
def ecpObject (s : State) (t : Twin) (b m : Nat) : Bool :=
  decide (120 ≤ m) && decide (m < 128) && flag s t (fo R.CAN_B_ECP_REQ_EN (65536 * b + 8 * ((127 - m) / 2)))

/-- A change of the present cycle writes EN = 0 to the bus: it develops before a TXREQ of that cycle (R358). -/
def enableEnds (s : State) (b : Nat) : Bool :=
  s.host.changes.any (fun c => c.agreed && c.cycle == cycleNow s (netTwin s) && c.entries.any (fun e =>
    e.addr.toNat == R.CAN_B_CTRL + 65536 * b && e.mask.getLsbD 0 && !(e.value.getLsbD 0)))

/-- CMD.TXREQ (R348). -/
def txReq (s : State) (b m : Nat) : State :=
  let t := netTwin s
  if ecpObject s t b m then say s Rc.OBJ_RESERVED
  else if !(flag s t (bfld R.CAN_B_CTRL_EN b)) ∨ enableEnds s b ∨ !(flag s t (ofld R.CAN_B_OBJ_ID_EN b m)) then
    say s Rc.CAN_DISABLED
  else if !(isTx s t b m) ∨ objStat s t b m = stPending ∨ objStat s t b m = stActive then say s Rc.OBJ_BUSY
  else onLive (fun s t => setStat s t b m stPending) s

/-- TXREQ (R348). -/
def execTxreq (tg : Target) (b : Fin 2) (m : Fin 128) (s : State) : Out :=
  .next (agreedOnly tg s (fun s => txReq s b.val m.val))

/-- The place of a frame in arbitration: the bits it sends before its data, the lowest winning. -/
def arbKey (ide rtr : Bool) (id : Nat) : Nat :=
  id / 262144 * 2097152 + (if ide then 1572864 + (id % 262144) * 2 + bit rtr else bit rtr * 1048576)

/-- The pending frames of a bus with their places: the reference message as number 128. -/
def pendingFrames (s : State) (t : Twin) (b : Nat) : List (Nat × Nat) :=
  let r := if (can s t b).refPend then
      [(arbKey (flag s t (bfld R.CAN_B_TM_IDE b)) false (rf s t (bfld R.CAN_B_TM_REF_ID b)), 128)] else []
  r ++ ((List.range 128).filter (fun m => isTx s t b m && objStat s t b m == stPending)).map (fun m =>
    (arbKey (flag s t (ofld R.CAN_B_OBJ_ID_IDE b m))
      (flag s t (ofld R.CAN_B_OBJ_CTL_RTR b m) && !(flag s t (ofld R.CAN_B_OBJ_CTL_FDF b m)))
      (rf s t (ofld R.CAN_B_OBJ_ID_ID b m)), m))

/-- The frame that wins against all others pending: the lowest place, ties to the earlier of the list.
DEDUCED, unsafe: log entry 174. -/
def winner (l : List (Nat × Nat)) : Option (Nat × Nat) :=
  l.foldl (fun w x => match w with
    | none => some x
    | some y => if x.1 < y.1 then some x else some y) none

/-- The longest that an attempt can last, in nanoseconds: the frame with every stuff bit that ISO 11898-1 allows, at
the bit times of R340. PRESUMED, unsafe: log entry 252. -/
def attemptNs (s : State) (t : Twin) (b m : Nat) : Nat :=
  let n := rd s t (R.CAN_B_NBT + 65536 * b)
  let d := rd s t (R.CAN_B_DBT + 65536 * b)
  let nom := (bits n 31 24 + 1) * (3 + bits n 23 16 + bits n 15 9) * 25
  let dat := (bits d 31 27 + 1) * (3 + bits d 26 22 + bits d 21 18) * 25
  let ref := m == 128
  let ext := if ref then flag s t (bfld R.CAN_B_TM_IDE b) else flag s t (ofld R.CAN_B_OBJ_ID_IDE b m)
  let fdf := if ref then flag s t (bfld R.CAN_B_TM_FDF b) else flag s t (ofld R.CAN_B_OBJ_CTL_FDF b m)
  let brs := !ref && flag s t (ofld R.CAN_B_OBJ_CTL_BRS b m)
  let len := if ref then 1 else dlcBytes (rf s t (ofld R.CAN_B_OBJ_CTL_DLC b m)) fdf
  let head := if ext then 37 else 18
  let body := 5 + 8 * len
  (if fdf then (head * 5 / 4 + 13) * nom + (body * 5 / 4 + 31) * (if brs then dat else nom)
    else ((head + body + 15) * 5 / 4 + 13) * nom) / 2

/-- From naming t_h until t_h the leader starts no attempt that could still be on the bus at t_h (R155). -/
def beforeHandover (s : State) (t : Twin) (b m : Nat) : Bool :=
  match (s.tw t).twn.handover with
  | some th => decide (th < (s.tw t).tb.toNat + attemptNs s t b m)
  | none => false

/-- CAN_ARBITRATION (R348): the driving controller offers the winning pending frame, which becomes ACTIVE at its start
of frame; none starts that could reach into a hand-over named (R155). -/
def execCanArbitration (b : Fin 2) (s : State) : Out :=
  .next (
    let b := b.val
    match canDriver s b with
    | none => s
    | some t =>
      let st := canState s t b
      if (st ≠ canErrActive ∧ st ≠ canErrPassive) ∨ (can s t b).active.isSome ∨ (can s t b).closing then s
      else match winner (pendingFrames s t b) with
        | none => s
        | some (_, m) =>
          if beforeHandover s t b m then s else
          crossOut s t 5 (fun s =>
          let ends := (s.tw t).tb.toNat + attemptNs s t b m
          let s := modCan s t b (fun c => { c with
            active := some m
            ends := ends
            refPend := if m = 128 then false else c.refPend
            refAct := if m = 128 then c.refCount else c.refAct })
          if m = 128 then s else setStat s t b m stActive))

/-! ECP transport (R356). -/

/-- The transport of context `h` on bus `b`. -/
def iso (s : State) (t : Twin) (b h : Nat) : IsoSt := tabGet {} (can s t b).iso h

/-- Change a transport. -/
def modIso (s : State) (t : Twin) (b h : Nat) (f : IsoSt → IsoSt) : State :=
  modCan s t b (fun c => { c with iso := tabMod {} c.iso h f })

/-- TX_DL of a context: 64 or 8 bytes. -/
def txDl (s : State) (t : Twin) (b h : Nat) : Nat := if flag s t (fo R.CAN_B_ECP_REQ_FD (65536 * b + 8 * h)) then 64 else 8

/-- The smallest DLC that holds `n` bytes. PRESUMED, unsafe: log entry 179. -/
def dlcFor (n : Nat) : Nat :=
  if n ≤ 8 then n else if n ≤ 12 then 9 else if n ≤ 16 then 10 else if n ≤ 20 then 11 else if n ≤ 24 then 12
  else if n ≤ 32 then 13 else if n ≤ 48 then 14 else 15

/-- The next frame that is ready goes into the context's transmit object, padded to its DLC with 0xCC, and is
pending. -/
def isoSend (s : State) (t : Twin) (b h : Nat) : State :=
  let m := 126 - 2 * h
  let i := iso s t b h
  if objStat s t b m = stPending ∨ objStat s t b m = stActive then s else
  match i.out with
  | [] => s
  | d :: r =>
    let s := modIso s t b h (fun i => { i with out := r })
    let dlc := dlcFor d.length
    let s := putData s t b m (d ++ List.replicate (dlcBytes dlc true - d.length) 0xCC#8)
    setStat (wf s t (ofld R.CAN_B_OBJ_CTL_DLC b m) dlc) t b m stPending

/-- Queue a frame of the transport. DEDUCED, unsafe: log entry 181. -/
def isoQueue (s : State) (t : Twin) (b h : Nat) (d : List Byte) : State :=
  isoSend (modIso s t b h (fun i => { i with out := i.out ++ [d] })) t b h

/-- An abort, timeout or sequence error is counted (R356). -/
def isoError (s : State) (t : Twin) (b : Nat) : State :=
  cev (cnt s t (R.CAN_B_ISOTP_ERR + 65536 * b)) t R.CAN_B_EVENT_ISOTP b

/-- The reply of context `h` is sent as one message on its response identifier: as a single frame where it fits, else a
first frame that awaits flow control. -/
def isoStart (s : State) (t : Twin) (b h : Nat) (d : List Byte) : State :=
  let dl := txDl s t b h
  let n := d.length
  let s := modIso s t b h (fun i => { i with reply := d, rest := [], waitFc := false })
  if n ≤ 7 then isoQueue s t b h (BitVec.ofNat 8 n :: d)
  else if n ≤ dl - 2 ∧ dl = 64 then isoQueue s t b h (0 :: BitVec.ofNat 8 n :: d)
  else
    let s := modIso s t b h (fun i => { i with rest := d.drop (dl - 2), sn := 1, waitFc := true })
    isoQueue s t b h (BitVec.ofNat 8 (16 + n / 256 % 16) :: BitVec.ofNat 8 (n % 256) :: d.take (dl - 2))

/-- A reply of context `h` is sent, after those already in progress. -/
def isoReply (s : State) (t : Twin) (b h : Nat) (d : List Byte) : State :=
  if (iso s t b h).reply.isEmpty then isoStart s t b h d else modIso s t b h (fun i => { i with later := i.later ++ [d] })

/-- The reply in progress ends or is given up, and the next one starts. -/
def isoFree (s : State) (t : Twin) (b h : Nat) : State :=
  let l := (iso s t b h).later
  let s := modIso s t b h (fun i => { i with reply := [], rest := [], waitFc := false, later := l.drop 1 })
  match l with
  | [] => s
  | d :: _ => isoStart s t b h d

/-- The next consecutive frame of a reply, unless flow control is awaited or all is sent. -/
def isoNext (s : State) (t : Twin) (b h : Nat) : State :=
  let i := iso s t b h
  if i.waitFc then s
  else if i.rest.isEmpty then (if i.reply.isEmpty then s else isoFree s t b h)
  else
    let dl := txDl s t b h
    let left := i.left.map (· - 1)
    let s := modIso s t b h (fun i => { i with
      rest := i.rest.drop (dl - 1),
      sn := (i.sn + 1) % 16,
      left := left,
      waitFc := decide (left = some 0) && !(i.rest.drop (dl - 1)).isEmpty })
    isoQueue s t b h (BitVec.ofNat 8 (32 + i.sn) :: i.rest.take (dl - 1))

/-- The flow control the SK192 sends as receiver, with BS and STMIN. -/
def flowControl (s : State) (t : Twin) (b fs : Nat) : List Byte :=
  [BitVec.ofNat 8 (48 + fs), BitVec.ofNat 8 (rf s t (bfld R.CAN_B_TPT_BS b)), BitVec.ofNat 8 (rf s t (bfld R.CAN_B_TPT_STMIN b))]

/-- A complete message. -/
def isoDone (s : State) (t : Twin) (b h : Nat) (d : List Byte) : State :=
  modIso s t b h (fun i => { i with rx := none, message := d })

/-- A single or first frame during a reception aborts that reception. -/
def isoAbortRx (s : State) (t : Twin) (b h : Nat) : State :=
  if (iso s t b h).rx.isSome then isoError (modIso s t b h (fun i => { i with rx := none })) t b else s

/-- One frame of the transport in one twin: single, first, consecutive or flow control by its upper nibble. -/
def isoFrame (s : State) (t : Twin) (b h : Nat) (data : List Byte) : State :=
  let b0 := (data.getD 0 0).toNat
  let b1 := (data.getD 1 0).toNat
  match b0 / 16 with
  | 0 =>
    let s := isoAbortRx s t b h
    let (n, rest) := if b0 % 16 ≠ 0 then (b0 % 16, data.drop 1) else if 8 < data.length then (b1, data.drop 2) else (0, [])
    if n = 0 ∨ rest.length < n then s else isoDone s t b h (rest.take n)
  | 1 =>
    let s := isoAbortRx s t b h
    let n := b0 % 16 * 256 + b1
    if n = 0 then isoQueue s t b h (flowControl s t b 2)
    else
      let bs := rf s t (bfld R.CAN_B_TPT_BS b)
      let s := modIso s t b h (fun i => { i with rx := some ⟨n, (data.drop 2).take n, 1, bs⟩ })
      isoQueue s t b h (flowControl s t b 0)
  | 2 =>
    match (iso s t b h).rx with
    | none => s
    | some r =>
      if b0 % 16 ≠ r.sn then isoError (modIso s t b h (fun i => { i with rx := none })) t b
      else
        let got := r.got ++ (data.drop 1).take (r.total - r.got.length)
        if r.total ≤ got.length then isoDone s t b h got
        else
          let bs := rf s t (bfld R.CAN_B_TPT_BS b)
          let due := r.left == 1
          let s := modIso s t b h (fun i => { i with
            rx := some ⟨r.total, got, (r.sn + 1) % 16, if due then bs else r.left - 1⟩ })
          if due then isoQueue s t b h (flowControl s t b 0) else s
  | 3 =>
    if !(iso s t b h).waitFc then s
    else match b0 % 16 with
      | 0 =>
        let s := modIso s t b h (fun i => { i with waitFc := false, left := if b1 = 0 then none else some b1 })
        isoNext s t b h
      | 1 => s
      | _ => isoError (isoFree s t b h) t b
  | _ => s

/-- ISOTP_RECEIVE (R356): both twins reassemble; a context whose transport is not enabled takes nothing. -/
def execIsotpReceive (b : Fin 2) (h : Fin 4) (data : List Byte) (s : State) : Out :=
  .next (onComputing (fun s t => crossIn s t 5 (fun s =>
    if flag s t (fo R.CAN_B_ECP_REQ_EN (65536 * b.val + 8 * h.val)) then isoFrame s t b.val h.val data else s)) s)

/-- ISOTP_TIMEOUT (R356): N_Bs as sender, N_Cr as receiver. -/
def execIsotpTimeout (b : Fin 2) (h : Fin 4) (sender : Bool) (s : State) : Out :=
  .next (onComputing (fun s t =>
    let i := iso s t b.val h.val
    if sender && i.waitFc then
      isoError (isoFree s t b.val h.val) t b.val
    else if !sender && i.rx.isSome then isoError (modIso s t b.val h.val (fun i => { i with rx := none })) t b.val
    else s) s)

/-- The controller of twin `t` takes part in the traffic of bus `b`, driving or monitoring (R339). -/
def hearsBus (s : State) (t : Twin) (b : Nat) : Bool :=
  twState s t != tsReset && (canState s t b == canErrActive || canState s t b == canErrPassive)

/-- A frame sent is stamped by the twin's own controller (R347): an object's stamp, or the reference's with its count (R355). -/
def stampSent (s : State) (t : Twin) (b m count stamp : Nat) : State :=
  if m = 128 then
    let s := wr s t (R.CAN_B_TM_STAMP + 65536 * b) (BitVec.ofNat 32 stamp)
    let s := wf s t (bfld R.CAN_B_TM_STAT_STAMP_HI b) (stamp / 4294967296)
    wf s t (bfld R.CAN_B_TM_STAT_COUNT b) count
  else putStamp s t b m stamp

/-- The reference message on the bus (R338, R355): its identifier, ESI, DLC 1, and its cycle count with Next_is_Gap = 0. -/
def referenceFrame (s : State) (t : Twin) (b : Nat) : CanFrame :=
  { id := BitVec.ofNat 29 (rf s t (bfld R.CAN_B_TM_REF_ID b)), ide := flag s t (bfld R.CAN_B_TM_IDE b), rtr := false
    fdf := flag s t (bfld R.CAN_B_TM_FDF b), brs := false, esi := canState s t b == canErrPassive, dlc := 1
    data := [BitVec.ofNat 8 ((can s t b).refAct % 64)] }

/-- The frame that transmit object `m` sends (R338, R348): ESI recessive while error-passive, and the data bytes of its DLC. -/
def objectFrame (s : State) (t : Twin) (b m : Nat) : CanFrame :=
  let fdf := flag s t (ofld R.CAN_B_OBJ_CTL_FDF b m)
  let rtr := !fdf && flag s t (ofld R.CAN_B_OBJ_CTL_RTR b m)
  let dlc := rf s t (ofld R.CAN_B_OBJ_CTL_DLC b m)
  { id := BitVec.ofNat 29 (rf s t (ofld R.CAN_B_OBJ_ID_ID b m)), ide := flag s t (ofld R.CAN_B_OBJ_ID_IDE b m), rtr := rtr, fdf := fdf
    brs := fdf && flag s t (ofld R.CAN_B_OBJ_CTL_BRS b m), esi := fdf && canState s t b == canErrPassive
    dlc := Fin.ofNat 16 dlc
    data := if rtr then [] else (List.range (dlcBytes dlc fdf)).map (fun i =>
      BitVec.ofNat 8 ((rd s t (objAddr R.CAN_B_OBJ_DATA b m + 4 * (i / 4))).toNat / 2 ^ (8 * (i % 4)))) }

/-- The frame that an attempt of number `m` sends: the reference or an object's. -/
def sentFrame (s : State) (t : Twin) (b m : Nat) : CanFrame := if m = 128 then referenceFrame s t b else objectFrame s t b m

/-- The monitoring controller receives a frame that the driving one sent, as it receives every frame of the bus (R339, R343),
and stamps it. -/
def monitorFrame (s : State) (t : Twin) (b m count stamp : Nat) (f : CanFrame) : State :=
  if hearsBus s t b then crossIn s t 5 (fun s => placeFrame (stampSent s t b m count stamp) t b f stamp) else s

/-- TX_DONE (R348): end of frame of the attempt; a reference shows its stamp and count (R355), and a transport sends
its next frame; the other twin's controller receives the frame. Log entries 171 (DEDUCED, unsafe), 178 (DEDUCED, unsafe), 279
(DEDUCED, unsafe). -/
def execTxDone (b : Fin 2) (stamp : BitVec 40) (s : State) : Out :=
  .next (
    let b := b.val
    match canDriver s b with
    | none => s
    | some t =>
      let c := can s t b
      match c.active with
      | none => s
      | some m => crossIn s t 5 (fun s =>
        let f := sentFrame s t b m
        let high := 127 < (can s t.other b).rxErr
        let s := modCan s t b (fun c => { c with active := none, cancel := c.cancel.erase m, tec := c.tec - 1 })
        let s := showErr (wf s t (bfld R.CAN_B_LEC_ACK_RUN b) 0) t b
        let s := cev (cnt s t (R.CAN_B_TX_OK + 65536 * b)) t R.CAN_B_EVENT_TX_DONE b
        let s := monitorFrame s t.other b m c.refAct stamp.toNat f
        let s := if high then freeTick s else s
        let s := stampSent s t b m c.refAct stamp.toNat
        let s :=
          if m = 128 then s
          else
            let s := setStat s t b m (if c.cancel.contains m then stCancelLate else stTransmitted)
            let s := wf s t ⟨R.CAN_B_TXDONE + 65536 * b + 4 * (m / 32), m % 32, m % 32⟩ 1
            if ecpObject s t b m && m % 2 == 0 then
              let h := (126 - m) / 2
              if (iso s t b h).out.isEmpty then isoNext s t b h else isoSend s t b h
            else s
        canClose s t b))

/-- The transmit error counter takes an error (R352): 8, but nothing for an acknowledge error of an error-passive node
that hears no dominant bit in its passive flag, nor for a stuff error that ISO 11898-1 exempts in arbitration; and 8 for
each further run of dominant bits after the error flag. PRESUMED, unsafe: log entry 176. -/
def attemptTec (c : CanSt) (passive : Bool) (code : Nat) (dom : DomBits) (arbStuff : Bool) : Nat :=
  (if (code = 3 ∧ passive ∧ !dom.first) ∨ (code = 1 ∧ arbStuff) then c.tec else c.tec + 8) + 8 * dom.runs.toNat

/-- CAN_ATTEMPT_ERROR (R352): counters, last error and the run of acknowledge errors move; the frame is retried, or
cancelled (R349), or disabled where EN = 0 waits (R354). -/
def execCanAttemptError (b : Fin 2) (code : Fin 7) (dataPhase : Bool) (dom : DomBits) (arbStuff : Bool) (s : State) : Out :=
  .next (
    let b := b.val
    match canDriver s b with
    | none => s
    | some t =>
      let c := can s t b
      match c.active with
      | none => s
      | some m => crossIn s t 5 (fun s =>
        let passive := canState s t b == canErrPassive
        let tec := attemptTec c passive code.val dom arbStuff
        let again := m == 128 && !c.closing
        let s := modCan s t b (fun c => { c with active := none, cancel := c.cancel.erase m, tec := tec, refPend := c.refPend || again })
        let s := cnt s t (R.CAN_B_ERRORS + 65536 * b)
        let s := wf (wf s t (bfld R.CAN_B_LEC_CODE b) code.val) t (bfld R.CAN_B_LEC_DATA_PHASE b) (bit dataPhase)
        let s :=
          if code.val = 3 then
            let run := min (rf s t (bfld R.CAN_B_LEC_ACK_RUN b) + 1) 65535
            let s := wf (cnt s t (R.CAN_B_ACK_ERR + 65536 * b)) t (bfld R.CAN_B_LEC_ACK_RUN b) run
            if run = rf s t (bfld R.CAN_B_ERRCFG_NOACK_LIM b) then cev s t R.CAN_B_EVENT_NO_ACK b else s
          else s
        let s := if m = 128 then s
          else setStat s t b m (if c.cancel.contains m then stCancelled else if c.closing then stDisabled else stPending)
        canClose (showErr s t b) t b))

/-- CMD.CANCEL (R349). -/
def canCancel (s : State) (b m : Nat) : State :=
  let t := netTwin s
  if ecpObject s t b m then say s Rc.OBJ_RESERVED
  else onLive (fun s t =>
    if !(flag s t (ofld R.CAN_B_OBJ_ID_DIR b m)) then s
    else if objStat s t b m = stPending then setStat s t b m stCancelled
    else if objStat s t b m = stActive then
      modCan s t b (fun c => { c with cancel := if c.cancel.contains m then c.cancel else m :: c.cancel })
    else s) s

/-- CANCEL (R349). -/
def execCancel (tg : Target) (b : Fin 2) (m : Fin 128) (s : State) : Out :=
  .next (agreedOnly tg s (fun s => canCancel s b.val m.val))

/-- CAN_ATTEMPT_REPORT (R350): the following controller mirrors the STAT of every transmit object, the transmit error
counter, bus-off and recovery, the cycle count (R355) and the transports (R357) of the leading twin. -/
def execCanAttemptReport (b : Fin 2) (s : State) : Out :=
  .next (
    let b := b.val
    match leader s with
    | none => s
    | some l =>
      let o := l.other
      if twState s o ≠ tsFollowing then s else
      let c := can s l b
      let s := modCan s o b (fun x => { x with
        tec := c.tec, cancel := c.cancel, refCount := c.refCount, 
        refAct := c.refAct, refPend := c.refPend || c.active == some 128, iso := c.iso })
      let s := (List.range 128).foldl (fun s m =>
        if isTx s o b m then
          let s := if ecpObject s o b m then
              (List.range 16).foldl (fun s j =>
                wr s o (objAddr R.CAN_B_OBJ_DATA b m + 4 * j) (rd s l (objAddr R.CAN_B_OBJ_DATA b m + 4 * j)))
                (wf s o (ofld R.CAN_B_OBJ_CTL_DLC b m) (rf s l (ofld R.CAN_B_OBJ_CTL_DLC b m)))
            else s
          setStat s o b m (objStat s l b m)
        else s) s
      let ls := canState s l b
      let os := canState s o b
      let s := if ls = canBusOff ∨ ls = canRecovering ∨ os = canBusOff ∨ os = canRecovering
        then wf s o (bfld R.CAN_B_STATUS_STATE b) ls else s
      showErr s o b)

/-- After a take-over the new holder sends afresh every object last reported PENDING or ACTIVE, a reply in progress in
full, and restarts a recovery (R351, R357, R358). -/
def canRepend (s : State) (t : Twin) : State :=
  [0, 1].foldl (fun s b =>
    let s := modCan s t b (fun c => { c with active := none })
    let s := (List.range 128).foldl (fun s m => if isTx s t b m && objStat s t b m == stActive then setStat s t b m stPending else s) s
    [0, 1, 2, 3].foldl (fun s h =>
      let i := iso s t b h
      if i.reply.isEmpty then s
      else
        let s := setStat s t b (126 - 2 * h) stIdle
        isoStart (modIso s t b h (fun i => { i with out := [] })) t b h i.reply) s) s

/-- CAN_DRIVE_SWITCH (R339): at the next bus idle the controller of the twin that holds the pins switches to driving. -/
def execCanDriveSwitch (b : Fin 2) (s : State) : Out :=
  .next (match s.ilk.pins with
    | some t => wf s t (bfld R.CAN_B_STATUS_DRIVING b.val) 1
    | none => s)

/-! Error states and enable. -/

/-- BUS_OFF (R353): the transmit error counter has passed 255; pending objects stay PENDING. -/
def execBusOff (b : Fin 2) (s : State) : Out :=
  .next (
    let b := b.val
    match canDriver s b with
    | none => s
    | some t =>
      if (can s t b).tec < 256 ∨ (canState s t b ≠ canErrActive ∧ canState s t b ≠ canErrPassive) then s
      else
        let s := wf s t (bfld R.CAN_B_STATUS_STATE b) canBusOff
        cev (cnt s t (R.CAN_B_BUS_OFF + 65536 * b)) t R.CAN_B_EVENT_BUS_OFF b)

/-- CAN_Bb_CTRL.RECOVER (R353); EN = 0 of the same cycle develops first (R358). -/
def canRecover (s : State) (b : Nat) : State :=
  if canState s (netTwin s) b = canBusOff ∧ !(enableEnds s b)
  then onLive (fun s t => wf s t (bfld R.CAN_B_STATUS_STATE b) canRecovering) s
  else say s Rc.NOT_BUS_OFF

/-- RECOVER (R353). -/
def execRecover (tg : Target) (b : Fin 2) (s : State) : Out := .next (agreedOnly tg s (fun s => canRecover s b.val))

/-- RECOVERED (R353): the counters are 0 and transmission resumes. -/
def execRecovered (b : Fin 2) (s : State) : Out :=
  .next (onLive (fun s t =>
    if canState s t b.val = canRecovering then
      let s := modCan s t b.val (fun c => { c with tec := 0, rxErr := 0 })
      showErr (wf (cev s t R.CAN_B_EVENT_RECOVERED b.val) t (bfld R.CAN_B_STATUS_STATE b.val) canErrActive) t b.val
    else s) s)

/-- CAN_Bb_CTRL.EN develops (R354), and EN = 1 wakes the CB domain. DEDUCED, unsafe: log entry 182. -/
def canEnable (s : State) (b : Nat) (v : Bool) : State :=
  onLive (fun s t =>
    let was := flag s t (bfld R.CAN_B_CTRL_EN b)
    let s := wf s t (bfld R.CAN_B_CTRL_EN b) (bit v)
    if v then
      if was then s
      else
        let s := modCan (ungate s t 5) t b (fun c => { c with tec := 0, rxErr := 0, closing := false, closedAt := none })
        showErr (wf s t (bfld R.CAN_B_STATUS_STATE b) canIntegrating) t b
    else if !was then s
    else
      let s := (List.range 128).foldl (fun s m =>
        if isTx s t b m && objStat s t b m == stPending then setStat s t b m stDisabled else s) s
      let now := nowSub s t
      let s := modCan s t b (fun c => { c with closing := true, refPend := false, closedAt := some now })
      if (can s t b).active.isSome then s else canClose s t b) s

/-- CAN_ENABLE (R354). -/
def execCanEnable (tg : Target) (b : Fin 2) (v : Bool) (s : State) : Out :=
  .next (agreedOnly tg s (fun s => canEnable s b.val v))

/-- CAN_INTEGRATED (R354): integration completes and the bus is error-active, or error-passive by its counters. -/
def execCanIntegrated (b : Fin 2) (s : State) : Out :=
  .next (onLive (fun s t =>
    if canState s t b.val = canIntegrating then showErr (wf s t (bfld R.CAN_B_STATUS_STATE b.val) canErrActive) t b.val
    else s) s)

/-- CAN_RX_ERROR (R338, R352): a protocol exception integrates and counts in PEX; a protocol error raises the receive
error counter by 1, by 8 more where the first bit after the error flag is dominant, and by 8 for each further run of
dominant bits. An attempt of the controller had lost arbitration to the frame (R348, R349). PRESUMED, unsafe: log entry 176. -/
def execCanRxError (t : Twin) (b : Fin 2) (pex : Bool) (code : Fin 7) (dataPhase : Bool) (dom : DomBits) (s : State) : Out :=
  .next (
    let b := b.val
    let st := canState s t b
    if st ≠ canErrActive ∧ st ≠ canErrPassive then s
    else crossIn s t 5 (fun s =>
    let s := loseArbitration s t b
    if pex then
      wf (cev (cnt s t (R.CAN_B_PEX + 65536 * b)) t R.CAN_B_EVENT_PEX b) t (bfld R.CAN_B_STATUS_STATE b)
        (if canState s t b = canInit then canInit else canIntegrating)
    else
      let s := modCan s t b (fun c => { c with rxErr := c.rxErr + 1 + (if dom.first then 8 else 0) + 8 * dom.runs.toNat })
      let s := wf (wf s t (bfld R.CAN_B_LEC_CODE b) code.val) t (bfld R.CAN_B_LEC_DATA_PHASE b) (bit dataPhase)
      showErr (cnt s t (R.CAN_B_ERRORS + 65536 * b)) t b))

/-! Time master and ECP enable. -/

/-- REFERENCE_DUE (R355): the next reference becomes pending; one still pending is replaced and counted late. -/
def execReferenceDue (b : Fin 2) (s : State) : Out :=
  .next (onLive (fun s t =>
    let b := b.val
    if !(flag s t (bfld R.CAN_B_TM_EN b)) ∨ !(flag s t (bfld R.CAN_B_CTRL_EN b)) then s
    else
      let c := can s t b
      let s := if c.refPend then cev (cnt s t (R.CAN_B_REF_LATE + 65536 * b)) t R.CAN_B_EVENT_REF_LATE b else s
      modCan s t b (fun c => { c with
        refPend := true, refCount := (c.refCount + 1) % 2 ^ rf s t (bfld R.CAN_B_TM_PER_CYC b) })) s)

/-- The two internal objects of a context (R357). DEDUCED, unsafe: log entry 180. -/
def ecpObjects (t : Twin) (b h : Nat) (s : State) : State :=
  let k := 65536 * b + 8 * h
  let ide := bit (flag s t (fo R.CAN_B_ECP_REQ_IDE k))
  let fd := bit (flag s t (fo R.CAN_B_ECP_REQ_FD k))
  let one (s : State) (m dir id : Nat) : State :=
    let s := wf (wf s t (ofld R.CAN_B_OBJ_ID_EN b m) 1) t (ofld R.CAN_B_OBJ_ID_DIR b m) dir
    let s := wf (wf s t (ofld R.CAN_B_OBJ_ID_IDE b m) ide) t (ofld R.CAN_B_OBJ_ID_ID b m) id
    let s := wf (wf s t (ofld R.CAN_B_OBJ_MASK_MRTR b m) 1) t (ofld R.CAN_B_OBJ_MASK_NOTIFY b m) 0
    let s := wf (wf s t (ofld R.CAN_B_OBJ_MASK_MASK b m) 0x1FFFFFFF) t (ofld R.CAN_B_OBJ_CTL_RTR b m) 0
    let s := wf (wf s t (ofld R.CAN_B_OBJ_CTL_FDF b m) fd) t (ofld R.CAN_B_OBJ_CTL_BRS b m) fd
    setStat s t b m 0
  let s := one s (127 - 2 * h) 0 (rf s t (fo R.CAN_B_ECP_REQ_REQ_ID k))
  one s (126 - 2 * h) 1 (rf s t (fo R.CAN_B_ECP_RSP_RSP_ID k))

/-- CAN_Bb_ECPh.EN develops (R357): refused with OBJ_BUSY while either object is enabled for the host. -/
def ecpEnable (s : State) (b h : Nat) (v : Bool) : State :=
  let t := netTwin s
  let k := 65536 * b + 8 * h
  let on := flag s t (fo R.CAN_B_ECP_REQ_EN k)
  if v = on then s
  else if v then
    if flag s t (ofld R.CAN_B_OBJ_ID_EN b (127 - 2 * h)) || flag s t (ofld R.CAN_B_OBJ_ID_EN b (126 - 2 * h)) then say s Rc.OBJ_BUSY
    else onLive (fun s t => modIso (wf (ecpObjects t b h s) t (fo R.CAN_B_ECP_REQ_EN k) 1) t b h (fun _ => {})) s
  else onLive (fun s t =>
    let s := wf (wf s t (ofld R.CAN_B_OBJ_ID_EN b (127 - 2 * h)) 0) t (ofld R.CAN_B_OBJ_ID_EN b (126 - 2 * h)) 0
    modIso (wf s t (fo R.CAN_B_ECP_REQ_EN k) 0) t b h (fun _ => {})) s

/-- ECP_CAN_ENABLE (R357). -/
def execEcpCanEnable (tg : Target) (b : Fin 2) (h : Fin 4) (v : Bool) (s : State) : Out :=
  .next (agreedOnly tg s (fun s => ecpEnable s b.val h.val v))

end Sys2Proof.Machine
end

