-- ==== Sys2Proof/Machine/F32.lean ====
section
/-! DEFINITION. binary32 arithmetic as the law engines and the modulator perform it (R166 to R170): round to nearest,
ties to even; a result that is subnormal after rounding and a subnormal operand are zero of the same sign; infinities
as in IEEE 754; every NaN is one value, since NaN acts only through R168. -/

namespace Sys2Proof.F32

/-- The one NaN the model writes. DEDUCED, unsafe: log entry 14. -/
def nan : W32 := 0x7FC00000#32

/-- Infinity with a sign. -/
def inf (neg : Bool) : W32 := if neg then 0xFF800000#32 else 0x7F800000#32

/-- Zero with a sign. -/
def zero (neg : Bool) : W32 := if neg then 0x80000000#32 else 0#32

/-- The sign bit. -/
def isNeg (x : W32) : Bool := x.getLsbD 31

/-- The exponent field. -/
def expo (x : W32) : Nat := x.toNat / 8388608 % 256

/-- The fraction field. -/
def frac (x : W32) : Nat := x.toNat % 8388608

def isNan (x : W32) : Bool := expo x == 255 && frac x != 0
def isInf (x : W32) : Bool := expo x == 255 && frac x == 0

/-- Zero, or a subnormal operand taken as zero (R167). -/
def isZero (x : W32) : Bool := expo x == 0

/-- The magnitude of a finite operand as an integer multiple of 2^-149. -/
def mag (x : W32) : Nat := if expo x = 0 then 0 else (8388608 + frac x) * 2 ^ (expo x - 1)

/-- A finite operand as an integer multiple of 2^-149. -/
def scaled (x : W32) : Int := if isNeg x then - (mag x : Int) else mag x

/-- Divide by 2^k, rounding half to even. -/
def shiftRne (m k : Nat) : Nat :=
  let q := m / 2 ^ k
  let r := m % 2 ^ k
  if 2 * r > 2 ^ k ∨ (2 * r = 2 ^ k ∧ q % 2 = 1) then q + 1 else q

/-- Round the exact value m × 2^e to binary32 with the given sign (R167). -/
def pack (neg : Bool) (m : Nat) (e : Int) : W32 :=
  if m = 0 then zero neg else
  let l := Nat.log2 m + 1
  let k := l - 24
  let r := shiftRne m k
  let r2 := if r = 16777216 then 8388608 else r
  let up : Int := if r = 16777216 then 1 else 0
  -- the value is now r2 × 2^(e + k + up); bring r2 to 24 bits
  let l2 := Nat.log2 r2 + 1
  let mant := r2 * 2 ^ (24 - l2)
  let ex : Int := e + k + up - ((24 - l2 : Nat) : Int) + 150
  if ex ≥ 255 then inf neg
  else if ex ≤ 0 then zero neg
  else BitVec.ofNat 32 ((if neg then 2147483648 else 0) + ex.toNat * 8388608 + (mant - 8388608))

/-- Round an integer multiple of 2^e. -/
def packInt (v : Int) (e : Int) : W32 := pack (decide (v < 0)) v.natAbs e

/-- x + y. -/
def add (x y : W32) : W32 :=
  if isNan x || isNan y then nan
  else if isInf x then (if isInf y && isNeg x != isNeg y then nan else x)
  else if isInf y then y
  else
    let s := scaled x + scaled y
    if s = 0 then zero (isNeg x && isNeg y && isZero x && isZero y) else packInt s (-149)

/-- An operand as the operations take it: a subnormal is zero of the same sign (R167), and every NaN is the one NaN. -/
def flush (x : W32) : W32 := if isNan x then nan else if isZero x then zero (isNeg x) else x

/-- −x. -/
def neg (x : W32) : W32 := if isNan x then nan else flush x ^^^ 0x80000000#32

/-- x − y. -/
def sub (x y : W32) : W32 := add x (neg y)

/-- |x|. -/
def abs (x : W32) : W32 := flush x &&& 0x7FFFFFFF#32

/-- x × y. -/
def mul (x y : W32) : W32 :=
  let n := isNeg x != isNeg y
  if isNan x || isNan y then nan
  else if isInf x || isInf y then (if isZero x || isZero y then nan else inf n)
  else pack n (mag x * mag y) (-298)

/-- x × y + z with one rounding. -/
def fma (x y z : W32) : W32 :=
  let n := isNeg x != isNeg y
  if isNan x || isNan y || isNan z then nan
  else if isInf x || isInf y then
    (if isZero x || isZero y then nan else if isInf z && isNeg z != n then nan else inf n)
  else if isInf z then z
  else
    let p : Int := if n then - ((mag x * mag y : Nat) : Int) else ((mag x * mag y : Nat) : Int)
    let s := p + scaled z * 713623846352979940529142984724747568191373312
    if s = 0 then zero (n && isNeg z) else packInt s (-298)

/-- x ÷ y, correctly rounded. -/
def div (x y : W32) : W32 :=
  let n := isNeg x != isNeg y
  if isNan x || isNan y then nan
  else if isInf x then (if isInf y then nan else inf n)
  else if isInf y then zero n
  else if isZero y then (if isZero x then nan else inf n)
  else if isZero x then zero n
  else
    let a := mag x * 2 ^ 320
    let b := mag y
    pack n (2 * (a / b) + (if a % b = 0 then 0 else 1)) (-321)

/-- The integer square root by bits from the top: `n` result bits. -/
def isqrt : Nat → Nat → Nat
  | 0, _ => 0
  | n + 1, m =>
    let r := 2 * isqrt n (m / 4)
    if (r + 1) * (r + 1) ≤ m then r + 1 else r

/-- √x, correctly rounded. -/
def sqrt (x : W32) : W32 :=
  if isNan x then nan
  else if isZero x then zero (isNeg x)
  else if isNeg x then nan
  else if isInf x then x
  else
    let m := mag x * 2 ^ 75
    let r := isqrt 200 m
    pack false (2 * r + (if r * r = m then 0 else 1)) (-113)

/-- x < y; false with a NaN. -/
def lt (x y : W32) : Bool :=
  if isNan x || isNan y then false
  else if isInf x then isNeg x && !(isInf y && isNeg y)
  else if isInf y then !(isNeg y)
  else decide (scaled x < scaled y)

/-- x = y as numbers. -/
def eq (x y : W32) : Bool :=
  if isNan x || isNan y then false
  else if isInf x || isInf y then x == y
  else scaled x == scaled y

/-- x ≤ y. -/
def le (x y : W32) : Bool := lt x y || eq x y

/-- The smaller operand (R167); a NaN operand gives NaN, and of +0 and −0 the first operand is returned. DESIGN CHOICE,
unsafe: log entry 287. -/
def min (x y : W32) : W32 := if isNan x || isNan y then nan else flush (if lt y x then y else x)

/-- The larger operand, with NaN and zeros as in `min`. DESIGN CHOICE, unsafe: log entry 287. -/
def max (x y : W32) : W32 := if isNan x || isNan y then nan else flush (if lt x y then y else x)

/-- clamp(v, lo, hi) = min(max(v, lo), hi) (R183). -/
def clamp (v lo hi : W32) : W32 := min (max v lo) hi

/-- An integer as binary32. -/
def ofInt (i : Int) : W32 := packInt i 0

/-- The ratio of two integers rounded to binary32. -/
def ofRatio (a : Int) (b : Nat) : W32 :=
  if b = 0 then nan else
  let m := a.natAbs * 2 ^ 320
  pack (decide (a < 0)) (2 * (m / b) + (if m % b = 0 then 0 else 1)) (-321)

/-- A number beyond every finite binary32 times 2^k, with a sign: what an infinity counts as before a clamp. -/
def beyond (neg : Bool) (k : Nat) : Int := if neg then -((2 ^ (128 + k) : Nat) : Int) else ((2 ^ (128 + k) : Nat) : Int)

/-- round-half-even(x × 2^k) as an integer; an infinity lies beyond every finite value, and a NaN gives a free value. -/
def toIntScaled (x : W32) (k : Nat) : Int :=
  if isNan x then Config.nanInt x
  else if isInf x then beyond (isNeg x) k
  else
    let q : Int := shiftRne (mag x * 2 ^ k) 149
    if isNeg x then -q else q

/-- floor(x) as an integer, infinities and NaN as for `toIntScaled`. -/
def floorInt (x : W32) : Int :=
  if isNan x then Config.nanInt x else if isInf x then beyond (isNeg x) 0 else scaled x / (2 ^ 149 : Nat)

/-- The sign of x: −1, 0 or +1 as binary32. -/
def sign (x : W32) : W32 := if isNan x then nan else if isZero x then 0#32 else if isNeg x then 0xBF800000#32 else 0x3F800000#32

def one : W32 := 0x3F800000#32
def two : W32 := 0x40000000#32
def half : W32 := 0x3F000000#32

/-- The sum of a list, left to right from 0. -/
def sum (l : List W32) : W32 := l.foldl add 0#32

/-- The mean of a list: its sum divided by its length. -/
def mean (l : List W32) : W32 := if l.isEmpty then 0#32 else div (sum l) (ofInt l.length)

/-- The largest magnitude of a list; 0 for none. -/
def maxAbs (l : List W32) : W32 := l.foldl (fun m x => max m (abs x)) 0#32

/-! Reference values for the accuracy of R169, as integer multiples of 2^-64, each exact to well within 2^-44. -/

/-- π × 2^64. -/
def piFix : Int := 57952155664616982739

/-- 1 − z²/((2k)(2k+1)) × (the series from k + 1), the sine series divided by z. -/
def sinTail (z2 : Int) : Nat → Nat → Int
  | 0, _ => 2 ^ 64
  | f + 1, k => 2 ^ 64 - z2 * sinTail z2 f (k + 1) / (2 ^ 64 * ((2 * k * (2 * k + 1) : Nat) : Int))

/-- The sine of an angle in 2^-64 rad. -/
def sinFix (a : Int) : Int :=
  let z := a % (2 * piFix) - piFix
  Int.neg (z * sinTail (z * z / 2 ^ 64) 16 1 / 2 ^ 64)

/-- An operand in units of 2^-64. -/
def fixed (x : W32) : Int := scaled x * 2 ^ 64 / 2 ^ 149

/-- Euler's series of the arc tangent: the sum of `fuel` terms from `term`, each 2k/(2k+1) × `u` of the one before. -/
def atanSum (u : Int) : Nat → Nat → Int → Int
  | 0, _, _ => 0
  | f + 1, k, term => term + atanSum u f (k + 1) (term * u * ((2 * k : Nat) : Int) / (2 ^ 64 * ((2 * k + 1 : Nat) : Int)))

/-- The arc tangent of m ÷ n for m ≤ n. -/
def atanFix (m n : Nat) : Int :=
  let q := m * m + n * n
  atanSum ((m * m * 2 ^ 64 / q : Nat) : Int) 60 1 ((m * n * 2 ^ 64 / q : Nat) : Int)

/-- The magnitude of an operand, with an infinity far above every finite one. -/
def bigMag (x : W32) : Nat := if isInf x then 2 ^ 400 else mag x

/-- The angle of (x, y) in (−π, π]. -/
def atan2Fix (y x : W32) : Int :=
  let m := bigMag y
  let n := bigMag x
  let a := if m ≤ n then atanFix m n else piFix / 2 - atanFix n m
  let h := if isNeg x && !(isZero x) then piFix - a else a
  if isNeg y && !(isZero y) then -h else h

/-- Bits that lie within `tol` × 2^-64 of a reference value, or else the reference value rounded: what an accuracy bound
leaves of bits that the spec does not give. -/
def within (tol : Nat) (ref : Int) (bits : W32) : W32 :=
  if !(isNan bits) && !(isInf bits) && decide ((scaled bits * 2 ^ 64 - ref * 2 ^ 149).natAbs ≤ tol * 2 ^ 149) then flush bits
  else packInt ref (-64)

/-- sin x, within 2^-22 of the sine; the algorithm's bits are not in the spec; NaN beyond 2^16 rad (R169).
DESIGN CHOICE, safe: log entry 15. -/
def sin (x : W32) : W32 :=
  if isNan x || lt 0x47800000#32 (abs x) then nan else within (2 ^ 42) (sinFix (fixed x)) (Config.sinBits (flush x))

/-- cos x, as `sin`. -/
def cos (x : W32) : W32 :=
  if isNan x || lt 0x47800000#32 (abs x) then nan
  else within (2 ^ 42) (sinFix (fixed x + piFix / 2)) (Config.cosBits (flush x))

/-- atan2(y, x): +0 at (±0, ±0), elsewhere within 2^-21 of the angle in (−π, π] (R169); the bits are not in the spec. Two
infinities are at π/4 from the axes, as IEEE 754 gives them (R167). -/
def atan2 (y x : W32) : W32 :=
  if isNan x || isNan y then nan else if isZero x && isZero y then 0#32
  else within (2 ^ 43) (atan2Fix y x) (Config.atan2Bits (flush y) (flush x))

/-- exp x: the spec gives no algorithm or accuracy (R60, R62, R65). DESIGN CHOICE, safe: log entry 16. -/
def exp (x : W32) : W32 := if isNan x then nan else Config.expBits x

/-- x to the power y (R62): the spec gives no algorithm or accuracy. -/
def pow (x y : W32) : W32 := if isNan x || isNan y then nan else Config.powBits x y

end Sys2Proof.F32
end

