-- ==== Sys2Proof/Machine/ArrayOps.lean ====
section
/-! DEFINITION. Shared operations of 02_array_control: the mapping table's checks (R39 to R43), cell states and ranks
(R486), Oxbow (R66 to R74) and the array block (R68, R76). -/

namespace Sys2Proof.Machine

/-! Cell states (R77, table "Cell states"). -/

def csUnused : Nat := 0
def csCold : Nat := 1
def csStandby : Nat := 2
def csBlocked : Nat := 3
def csInserting : Nat := 4
def csActive : Nat := 5
def csBypassing : Nat := 6
def csBypassed : Nat := 7

/-- The position of a cell on twin `t`'s ring (R42). -/
def ringPos (t : Twin) (n : Nat) (w : W32) : Nat :=
  match t with
  | .a => mapCpos w
  | .b => n - 1 - mapCpos w

/-- The number of strings of a topology (R39); none for another code. -/
def topoStrings (topo : Nat) : Option Nat :=
  match topo with
  | 0 => some 3
  | 1 => some 3
  | 2 => some 1
  | 3 => some 2
  | 4 => some 6
  | _ => none

/-- The strings in use. -/
def stringsUsed (s : State) (t : Twin) : Nat := (topoStrings (rf s t R.ARR_CTRL_TOPO)).getD 0

/-- A cell's state. -/
def cellSt (s : State) (t : Twin) (k : Nat) : Nat := rf s t (fo R.CELL_STATE_STATE (256 * k))

/-- Put a cell into a state. -/
def setCellSt (s : State) (t : Twin) (k v : Nat) : State := wf s t (fo R.CELL_STATE_STATE (256 * k)) v

/-- What a twin keeps of a cell beside its CELL_ block. -/
def cellX (s : State) (t : Twin) (k : Nat) : CellX := tabGet {} (s.tw t).arr.cells k

/-- Change one twin's array control. -/
def modArr (s : State) (t : Twin) (f : ArrSt → ArrSt) : State := s.setTw t { s.tw t with arr := f (s.tw t).arr }

/-- Change what a twin keeps of a cell. -/
def modCellX (s : State) (t : Twin) (k : Nat) (f : CellX → CellX) : State :=
  modArr s t (fun a => { a with cells := tabMod {} a.cells k f })

/-- What a twin keeps of a string. -/
def strX (s : State) (t : Twin) (st : Nat) : StrX := tabGet {} (s.tw t).arr.strs st

/-- Change what a twin keeps of a string. -/
def modStrX (s : State) (t : Twin) (st : Nat) (f : StrX → StrX) : State :=
  modArr s t (fun a => { a with strs := tabMod {} a.strs st f })

/-- The string reference last handed over. -/
def strRef (s : State) (t : Twin) (st : Nat) : StrRef := tabGet {} (s.tw t).arr.refs st

/-- What a twin keeps of a ring. -/
def ringX (s : State) (t : Twin) (c : Nat) : RingX := tabGet {} (s.tw t).rings c

/-- Change what a twin keeps of a ring. -/
def modRingX (s : State) (t : Twin) (c : Nat) (f : RingX → RingX) : State :=
  s.setTw t { s.tw t with rings := tabMod {} (s.tw t).rings c f }

/-- TRB_STATE.RING of a ring. -/
def ringSt (s : State) (t : Twin) (c : Nat) : Nat := rf s t (fo R.TRB_STATE_RING (4096 * c))

/-- Put a ring into a state; leaving READY or RUN sets DOWN (R128). A ring that is OFF, in electrical idle or at step 1 of
R123 has no receiver in sync and nothing reported of its cells. -/
def setRing (s : State) (t : Twin) (c v : Nat) : State :=
  let o := ringSt s t c
  let s := wf s t (fo R.TRB_STATE_RING (4096 * c)) v
  let s := if v < 3 then
      modRingX (wf s t (fo R.TRB_STATE_RX_SYNC (4096 * c)) 0) t c (fun r => { r with echoed := [], locked := [] })
    else s
  if (o = 4 ∨ o = 5) ∧ v ≠ 4 ∧ v ≠ 5 then ev s t (fo R.TRB_EVENT_DOWN (4096 * c)) else s

/-- A ring that is READY or RUN. -/
def ringLive (s : State) (t : Twin) (c : Nat) : Bool := ringSt s t c == 4 || ringSt s t c == 5

/-- Whether a chain has been brought out of electrical idle on a twin's ring (R43): it trains, or frames run. -/
def ringWarm (s : State) (t : Twin) (c : Nat) : Bool := decide (2 ≤ ringSt s t c)

/-- Whether a chain rests in electrical idle: no cell, or only spares of which one is marked cold (R43). -/
def chainCold (s : State) (t : Twin) (c : Nat) : Bool :=
  let l := chainCells s t c
  l.isEmpty || (l.all (fun e => mapRole e.2 == 2) && l.any (fun e => mapCold e.2 == 1))

/-- The cells of string `st` with a used entry, in ascending index. -/
def strCells (s : State) (t : Twin) (st : Nat) : List Nat :=
  ((mapList s t).filter (fun e => mapString e.2 == st)).map (·.1)

/-- The cells of string `st` in one of the given states. -/
def strIn (s : State) (t : Twin) (st : Nat) (codes : List Nat) : List Nat :=
  (strCells s t st).filter (fun k => codes.contains (cellSt s t k))

/-- A string field: its word in string block `st`. -/
def sf (f : Fld) (st : Nat) : Fld := fo f (64 * st)

/-- A string's binary32 parameter. -/
def sp (s : State) (t : Twin) (a st : Nat) : W32 := rd s t (a + 64 * st)

/-- A cell's binary32 word. -/
def cw (s : State) (t : Twin) (a k : Nat) : W32 := rd s t (a + 256 * k)

/-- The 64-bit damage of a cell (R62). -/
def damage (s : State) (t : Twin) (k : Nat) : Nat :=
  (cw s t R.CELL_DAMAGE_HI k).toNat * 4294967296 + (cw s t R.CELL_DAMAGE_LO k).toNat

/-- Put a cell's 64-bit damage: both words develop together (R78). -/
def setDamage (s : State) (t : Twin) (k v : Nat) : State :=
  wr (wr s t (R.CELL_DAMAGE_LO + 256 * k) (BitVec.ofNat 32 (v % 4294967296))) t (R.CELL_DAMAGE_HI + 256 * k)
    (BitVec.ofNat 32 (v / 4294967296))

/-- Show NACT, NINS and NSPARE of a string (R77). -/
def showString (s : State) (t : Twin) (st : Nat) : State :=
  let s := wf s t (sf R.ARR_S_STATUS_NACT st) (strIn s t st [csActive]).length
  let s := wf s t (sf R.ARR_S_STATUS_NINS st) (strIn s t st [csInserting]).length
  wf s t (sf R.ARR_S_STATUS_NSPARE st) (strIn s t st [csStandby, csCold]).length

/-- Show the ranks of a string in CELL_STATE.RANK. DEDUCED, unsafe: log entry 271. -/
def showRanks (s : State) (t : Twin) (st : Nat) : State :=
  (((strX s t st).ranks).zip (List.range 64)).foldl
    (fun s p => wf s t (fo R.CELL_STATE_RANK (256 * p.1)) p.2) s

/-- Recompute the ranks of a string (R486): cells that keep a rank keep their order and take the lowest ranks, and
the cells that need one follow in ascending index. DEDUCED, unsafe: log entry 74. -/
def rerank (s : State) (t : Twin) (st : Nat) : State :=
  let live := strIn s t st [csActive, csInserting, csBlocked]
  let kept := ((strX s t st).ranks).filter live.contains
  let fresh := live.filter (fun k => !(kept.contains k))
  showString (showRanks (modStrX s t st (fun x => { x with ranks := kept ++ fresh })) t st) t st

/-! The mapping table's checks. -/

/-- A single entry's fields (R41): no reserved role, string or chain. -/
def entryOk (w : W32) : Bool := mapRole w != 3 && decide (mapString w < 6) && decide (mapChain w < 12)

/-- No value occurs twice. -/
def distinct (l : List Nat) : Bool :=
  match l with
  | [] => true
  | x :: r => !(r.contains x) && distinct r

/-- The conditions of R39 to R41 and R43 over several entries. -/
def mapValid (m : List (Nat × W32)) (topo : Nat) : Bool :=
  match topoStrings topo with
  | none => false
  | some ns =>
    let ws := m.map (·.2)
    let chainOk := fun c =>
      let ps := (ws.filter (fun w => mapChain w == c)).map mapCpos
      distinct ps && (List.range ps.length).all ps.contains
    let strOk := fun st =>
      let l := ws.filter (fun w => mapString w == st)
      let act := (l.filter (fun w => mapRole w == 1)).length
      let act0 := (ws.filter (fun w => mapString w == 0 && mapRole w == 1)).length
      distinct (l.map mapSpos) && decide (l.length ≤ 64)
        && decide ((l.filter (fun w => mapRole w == 2)).length ≤ 4) && act == act0
    let coldOk := ws.all (fun w => mapCold w == 0 || (mapRole w == 2 &&
      (ws.filter (fun v => mapChain v == mapChain w)).all (fun v => mapRole v == 2)))
    ws.all entryOk && ws.all (fun w => decide (mapString w < ns)) && (List.range 12).all chainOk
      && (List.range ns).all strOk && coldOk

/-! Lane training. -/

/-- Rings of the chains of a mask that are marked for training start it: TRAIN, step 1 of R123. -/
def startTraining (s : State) (m : Nat) : State :=
  onBoth (fun s t => (List.range 12).foldl (fun s c =>
    if (ringX s t c).wake ∧ nbit m c ∧ twState s t ≠ tsReset ∧ twState s t ≠ tsWithdrawn then
      modRingX (setRing s t c 2) t c (fun r => { r with wake := false, echoed := [], pairs := [], awaited := false })
    else s) s) s

/-- The twin that asks for the leave of a both-agreed operation: the leader, or twin A. -/
def asker (s : State) : Twin := (leader s).getD .a

/-- Whether leave for the training of chain `c` is held. -/
def trainPaid (s : State) (c : Nat) : Bool := s.sluice.held.any (fun r => r.op == 0 && nbit r.arg c)

/-- Ask for lane-training leave for the chains of a mask (R443), and start once granted; a chain whose leave is held starts
at once. DESIGN CHOICE, unsafe: log entry 94. -/
def trainLeave (s : State) (m : Nat) (host : Bool) : State :=
  if (List.range 12).all (fun c => !(nbit m c) || trainPaid s c) then startTraining s m
  else
    let s := leaveAsk s 0 (asker s) host m
    if leaveHeldFor s 0 (asker s) m then startTraining s m else s

/-- Mark both twins' rings of the chains and train them under leave for the chains of the mask. -/
def trainChains (s : State) (cs : List Nat) (m : Nat) (host : Bool) : State :=
  trainLeave (onBoth (fun s t => cs.foldl (fun s c => modRingX s t c (fun r => { r with wake := true })) s) s) m host

/-- Lane-training leave, held or asked, returns where `done` holds of its chains (R444). -/
def dropTraining (s : State) (done : Nat → Bool) : State :=
  let keep := fun (l : List LeaveReq) => l.filter (fun r => r.op != 0 || !(done r.arg))
  onBoth showLedger { s with sluice := { s.sluice with queue := keep s.sluice.queue, held := keep s.sluice.held } }

/-! Oxbow. -/

/-- Whether safe array block holds insertions (R73). -/
def safeBlocked (s : State) (t : Twin) : Bool := (s.tw t).arr.safeBlock

/-- INSERTING cells return to STANDBY (R68, R73). -/
def dropInserting (s : State) (t : Twin) : State :=
  (List.range (stringsUsed s t)).foldl (fun s st =>
    rerank ((strIn s t st [csInserting]).foldl (fun s k => setCellSt s t k csStandby) s) t st) s

/-- The array blocks (R68, R76): BLOCKED, the event, the ARRAY demand with safe array block and breaker trip, INSERTING
cells back to STANDBY and ACTIVE cells to BLOCKED. DEDUCED, unsafe: log entry 75. -/
def blockArray (s : State) (t : Twin) (evt : Fld) : State :=
  let s := ev (wf s t R.ARR_STATUS_BLOCKED 1) t evt
  let s := demand (dropInserting s t) t 1
  (List.range (stringsUsed s t)).foldl (fun s st =>
    showString ((strIn s t st [csActive]).foldl (fun s k => setCellSt s t k csBlocked) s) t st) s

/-- The spare with the least key, ties to the lowest index. -/
def leastBy (key : Nat → Nat) : List Nat → Option Nat
  | [] => none
  | k :: r =>
    match leastBy key r with
    | none => some k
    | some j => if key j < key k then some j else some k

/-- The spare of string `st` that SPARE_POLICY selects (R69): a warm one, else a cold one. -/
def selectSpare (s : State) (t : Twin) (st : Nat) : Option Nat :=
  let key := fun k => if rf s t R.ARR_OXB_SPARE_POLICY = 0 then damage s t k else k
  let ofState := fun c => (strIn s t st [c]).filter (fun k =>
    mapRole (rd s t (R.ARR_MAP + 4 * k)) == 2 && !((cellX s t k).waits))
  match leastBy key (ofState csStandby) with
  | some k => some k
  | none => leastBy key (ofState csCold)

/-- A warm spare enters INSERTING (R70): V_tgt starts at V_k, its temperatures at 0, and the rotation count of its
string restarts (R73). With `repl` it takes over that cell's rank; the caller recomputes the ranks. -/
def insertStart (s : State) (t : Twin) (k : Nat) (repl : Option Nat) : State :=
  let st := mapString (rd s t (R.ARR_MAP + 4 * k))
  let n := (s.tw t).arr.n
  let s := modCellX (setCellSt s t k csInserting) t k
    (fun x => { x with vtgt := cw s t R.CELL_VCAP k, dT1 := 0, dT2 := 0, condSum := 0, swSum := 0, waits := false, dev := 0 })
  modStrX s t st (fun x => { x with
    ranks := match repl with
      | some j => x.ranks.map (fun c => if c = j then k else c)
      | none => x.ranks,
    rotAt := n + 2 })

/-- Insert a selected or named spare: a warm one at once, a cold one after its chain has left electrical idle (R69,
R43). -/
def insertSpare (s : State) (t : Twin) (k : Nat) (repl : Option Nat) : State :=
  if cellSt s t k = csCold then
    let c := mapChain (rd s t (R.ARR_MAP + 4 * k))
    trainChains (modCellX s t k (fun x => { x with waits := true })) [c] (2 ^ c) false
  else insertStart s t k repl

/-- One cell is bypassed with a cause (R67): BYPASSING, or BYPASSED at once for a LOST cell. -/
def bypassOne (s : State) (t : Twin) (k cause : Nat) : State :=
  let n := (s.tw t).arr.n
  let s := wf (setCellSt s t k (if cause = 7 then csBypassed else csBypassing)) t (fo R.CELL_STATE_CAUSE (256 * k)) cause
  let s := modCellX s t k (fun x => { x with bypAt := some n, waits := false })
  let s := ev s t R.ARR_EVENT_CELL_BYPASSED
  if cause = 7 then ev s t R.ARR_EVENT_CELL_LOST else s

/-- A bypassed cell that held a rank is noted with the warm spare selected for it; a spare that fails in the dispatch that
selected it is itself replaced (R73). -/
def noteSpare (s : State) (t : Twin) (k : Nat) (rank : Bool) (p : Option Nat) : State :=
  if !rank then s
  else
    modArr s t (fun a =>
      let l := if a.assign.any (fun e => e.2 == some k) then a.assign.map (fun e => if e.2 = some k then (e.1, p) else e)
        else a.assign ++ [(k, p)]
      { a with assign := l })

/-- Replace one bypassed cell under R69. -/
def replaceOne (s : State) (t : Twin) (k : Nat) : State :=
  let st := mapString (rd s t (R.ARR_MAP + 4 * k))
  if rf s t R.ARR_OXB_SPARE_POLICY ≥ 2 ∨ flag s t R.ARR_STATUS_BLOCKED ∨ safeBlocked s t then s
  else
    match selectSpare s t st with
    | some p =>
      let rank := (strX s t st).ranks.contains k
      let warm := cellSt s t p == csStandby
      noteSpare (insertSpare s t p (if rank then some k else none)) t k rank (if warm then some p else none)
    | none => noteSpare (ev s t R.ARR_EVENT_SPARE_EXHAUSTED) t k ((strX s t st).ranks.contains k) none

/-- Insert a cell in ascending index. -/
def ascending (k : Nat) : List Nat → List Nat
  | [] => [k]
  | j :: r => if k < j then k :: j :: r else j :: ascending k r

/-- The warm spares selected for string `st` in one dispatch take the ranks of the bypassed cells in ascending index of these
cells, whichever was decided first; where the warm spares do not suffice, the cells of higher index are left without one (R73). -/
def assignRanks (s : State) (t : Twin) (st : Nat) : State :=
  let l := (s.tw t).arr.assign.filter (fun e => mapString (rd s t (R.ARR_MAP + 4 * e.1)) == st)
  let ks := l.foldl (fun a e => ascending e.1 a) []
  let ps := l.filterMap (·.2)
  let base := tabGet (strX s t st).ranks (s.tw t).arr.ranks0 st
  modStrX s t st (fun x => { x with
    ranks := base.map (fun c => if ks.contains c then ps.getD (ks.findIdx (· == c)) c else c) })

/-- The ranks of string `st` before the first bypass of the dispatch to come are kept. -/
def keepRanks (t : Twin) (s : State) (st : Nat) : State :=
  modArr s t (fun a => { a with
    ranks0 := if a.ranks0.any (fun e => e.1 == st) then a.ranks0 else tabPut true a.ranks0 st (tabGet {} a.strs st).ranks })

/-- Insert a spare on its own, with the ranks recomputed (R70). -/
def insertAlone (s : State) (t : Twin) (k : Nat) : State :=
  rerank (insertSpare s t k none) t (mapString (rd s t (R.ARR_MAP + 4 * k)))

/-- Whether a string's ACTIVE count has fallen below NMIN, with 0 treated as 1 (R76). DEDUCED, unsafe: log entry 76. -/
def belowNmin (s : State) (t : Twin) (st : Nat) : Bool :=
  decide ((strIn s t st [csActive]).length < max 1 (rf s t (sf R.ARR_S_CFG_NMIN st)))

/-- Bypass decisions of one cycle, applied together (R66, R67, R73, R76): the causes are recorded, spares assigned in
ascending index of the cells they replace, with those decided earlier for the same dispatch, and a string whose ACTIVE count so falls below NMIN blocks the array. -/
def bypassCells (s : State) (t : Twin) (l : List (Nat × Nat)) : State :=
  let strs := (l.filter (fun p => cellSt s t p.1 == csActive)).map (fun p => mapString (rd s t (R.ARR_MAP + 4 * p.1)))
  let s := (l.map (fun p => mapString (rd s t (R.ARR_MAP + 4 * p.1)))).foldl (keepRanks t) s
  let s := l.foldl (fun s p => bypassOne s t p.1 p.2) s
  let s := l.foldl (fun s p => replaceOne s t p.1) s
  let s := l.foldl (fun s p =>
    let st := mapString (rd s t (R.ARR_MAP + 4 * p.1))
    rerank (assignRanks s t st) t st) s
  if strs.any (belowNmin s t) ∧ ¬ flag s t R.ARR_STATUS_BLOCKED then blockArray s t R.ARR_EVENT_BELOW_NMIN else s

/-- Bypass of one cell in a twin for a cause. -/
def bypassCell (s : State) (t : Twin) (k cause : Nat) : State := bypassCells s t [(k, cause)]

/-- Whether a cell is judged under R66: ACTIVE, INSERTING or BLOCKED. -/
def judged (s : State) (t : Twin) (k : Nat) : Bool :=
  cellSt s t k == csActive || cellSt s t k == csInserting || cellSt s t k == csBlocked

/-- V_nom etc. as binary32. -/
def vnom (s : State) (t : Twin) (st : Nat) : W32 := sp s t R.ARR_S_VNOM st

/-- The mean of V_k over the given cells. -/
def meanV (s : State) (t : Twin) (ks : List Nat) : W32 := F32.mean (ks.map (cw s t R.CELL_VCAP))

/-- T_cyc in seconds as binary32. -/
def tcycF (s : State) (t : Twin) : W32 := F32.ofRatio (cycNs s t) 1000000000

end Sys2Proof.Machine
end

