-- ==== Sys2Proof/Machine/Crypto.lean ====
section
/-! DEFINITION. The checks over bytes that the spec defines or names by their standards: CRC-16, CRC-32C and CRC-64
(R99, R142), SHA-256 and HMAC (R391), SHA-384 and ECDSA P-384 (R448). Each is written out, so that a tag or a
signature is judged and not assumed. -/

namespace Sys2Proof

/-- A number as `n` bytes, most significant byte first (R13). -/
def beBytes : Nat → Nat → List Byte
  | 0, _ => []
  | n + 1, v => BitVec.ofNat 8 (v / 256 ^ n) :: beBytes n v

/-- Bytes as a number, most significant byte first. -/
def beNat (l : List Byte) : Nat := l.foldl (fun a b => a * 256 + b.toNat) 0

/-- `len` bytes from offset `o` as a number; bytes beyond the end count as 0. -/
def beAt (l : List Byte) (o len : Nat) : Nat := (List.range len).foldl (fun a i => a * 256 + (l.getD (o + i) 0#8).toNat) 0

/-- One bit step of an unreflected CRC of width `w`. -/
def crcStep (w poly c : Nat) : Nat :=
  if c / 2 ^ (w - 1) = 1 then Nat.xor ((2 * c) % 2 ^ w) poly else 2 * c

/-- `n` bit steps. -/
def crcSteps (w poly : Nat) : Nat → Nat → Nat
  | 0, c => c
  | n + 1, c => crcSteps w poly n (crcStep w poly c)

/-- An unreflected CRC of width `w` over bytes. -/
def crcOver (w poly : Nat) (init : Nat) (l : List Byte) : Nat :=
  l.foldl (fun c b => crcSteps w poly 8 (Nat.xor c (b.toNat * 2 ^ (w - 8)))) init

/-- The CRC-16 of HCRC and SCRC (R99). PRESUMED, unsafe: log entry 13. -/
def crc16 (l : List Byte) : Nat := crcOver 16 0x1021 0xFFFF l

/-- The CRC-16 with initial value 0, used for the incremental HCRC update (R102). -/
def crc16Diff (l : List Byte) : Nat := crcOver 16 0x1021 0 l

/-- The CRC-64 of the digests (R142). -/
def crc64 (l : List Byte) : Nat := crcOver 64 0x42F0E1EBA9EA3693 0 l

/-- One bit step of the reflected CRC-32C. -/
def crcRStep (c : Nat) : Nat := if c % 2 = 1 then Nat.xor (c / 2) 0x82F63B78 else c / 2

/-- `n` reflected bit steps. -/
def crcRSteps : Nat → Nat → Nat
  | 0, c => c
  | n + 1, c => crcRSteps n (crcRStep c)

/-- CRC-32C with the parameters of R99: reflected, initial value and final XOR all ones. -/
def crc32c (l : List Byte) : Nat :=
  Nat.xor (l.foldl (fun c b => crcRSteps 8 (Nat.xor c b.toNat)) 0xFFFFFFFF) 0xFFFFFFFF

/-! The constants of SHA-2 (FIPS 180-4): the leading fraction bits of the square and cube roots of the primes. -/

/-- Trial division; exact below 23². -/
def smallPrime (n : Nat) : Bool := decide (2 ≤ n) && [2, 3, 5, 7, 11, 13, 17, 19].all (fun d => n == d || n % d != 0)

/-- The primes 2 to 409, 80 of them. -/
def primes80 : List Nat := (List.range 410).filter smallPrime

/-- The greatest `r + j`, `j` below 2^n, whose `e`-th power is at most `v`, where `r` itself is one. -/
def rootBits (e v : Nat) : Nat → Nat → Nat
  | 0, r => r
  | n + 1, r => rootBits e v n (if (r + 2 ^ n) ^ e ≤ v then r + 2 ^ n else r)

/-- The first `w` bits behind the point of the `e`-th root of a number below 8^e. -/
def rootFraction (e w v : Nat) : Nat := rootBits e (v * 2 ^ (e * w)) (w + 3) 0 % 2 ^ w

/-- The round constants of SHA-256: 64 primes, cube roots. -/
def k256 : List Nat := (primes80.take 64).map (rootFraction 3 32)

/-- The initial hash of SHA-256: the first eight primes, square roots. -/
def h256 : List Nat := (primes80.take 8).map (rootFraction 2 32)

/-- The round constants of SHA-384: 80 primes, cube roots. -/
def k512 : List Nat := primes80.map (rootFraction 3 64)

/-- The initial hash of SHA-384: the ninth to the sixteenth prime, square roots. -/
def h384 : List Nat := ((primes80.drop 8).take 8).map (rootFraction 2 64)

/-- The word width and rotation amounts that tell SHA-256 from SHA-384 (FIPS 180-4). -/
structure ShaParams where
  w : Nat
  s0 : Nat × Nat × Nat
  s1 : Nat × Nat × Nat
  b0 : Nat × Nat × Nat
  b1 : Nat × Nat × Nat

/-- SHA-256. -/
def sha256P : ShaParams := ⟨32, (7, 18, 3), (17, 19, 10), (2, 13, 22), (6, 11, 25)⟩

/-- SHA-384. -/
def sha384P : ShaParams := ⟨64, (1, 8, 7), (19, 61, 6), (28, 34, 39), (14, 18, 41)⟩

/-- Rotate right in a word of `w` bits. -/
def rotr (w x n : Nat) : Nat := x / 2 ^ n + (x % 2 ^ n) * 2 ^ (w - n)

/-- σ: two rotations and a shift. -/
def shaSmall (w : Nat) (p : Nat × Nat × Nat) (x : Nat) : Nat :=
  Nat.xor (Nat.xor (rotr w x p.1) (rotr w x p.2.1)) (x / 2 ^ p.2.2)

/-- Σ: three rotations. -/
def shaBig (w : Nat) (p : Nat × Nat × Nat) (x : Nat) : Nat :=
  Nat.xor (Nat.xor (rotr w x p.1) (rotr w x p.2.1)) (rotr w x p.2.2)

/-- The next message word from the last sixteen, newest first. -/
def shaNext (p : ShaParams) (ws : List Nat) : Nat :=
  (shaSmall p.w p.s1 (ws.getD 1 0) + ws.getD 6 0 + shaSmall p.w p.s0 (ws.getD 14 0) + ws.getD 15 0) % 2 ^ p.w

/-- The message schedule: `n` further words, newest first. -/
def shaExpand (p : ShaParams) : Nat → List Nat → List Nat
  | 0, ws => ws
  | n + 1, ws => shaExpand p n (shaNext p ws :: ws)

/-- One round over the eight working variables. -/
def shaRound (p : ShaParams) (v : List Nat) (k m : Nat) : List Nat :=
  match v with
  | [a, b, c, d, e, f, g, h] =>
    let all := 2 ^ p.w - 1
    let ch := Nat.xor (Nat.land e f) (Nat.land (all - e) g)
    let maj := Nat.xor (Nat.xor (Nat.land a b) (Nat.land a c)) (Nat.land b c)
    let t1 := h + shaBig p.w p.b1 e + ch + k + m
    let t2 := shaBig p.w p.b0 a + maj
    [(t1 + t2) % 2 ^ p.w, a, b, c, (d + t1) % 2 ^ p.w, e, f, g]
  | _ => v

/-- One block: the sixteen words of the block, first word first, against the round constants. -/
def shaBlock (p : ShaParams) (ks : List Nat) (h : List Nat) (blk : List Nat) : List Nat :=
  let ws := (shaExpand p (ks.length - 16) blk.reverse).reverse
  let v := (ks.zip ws).foldl (fun v km => shaRound p v km.1 km.2) h
  (h.zip v).map (fun x => (x.1 + x.2) % 2 ^ p.w)

/-- Cut a list into `n` pieces of `k` elements. -/
def pieces {α : Type} (k : Nat) : Nat → List α → List (List α)
  | 0, _ => []
  | n + 1, l => l.take k :: pieces k n (l.drop k)

/-- Padding to whole blocks of `16 × w` bits with the length in the last two words. -/
def shaPad (w : Nat) (l : List Byte) : List Byte :=
  let bs := 2 * w
  let z := (bs - (l.length + 1 + w / 4) % bs) % bs
  l ++ 0x80#8 :: List.replicate z 0#8 ++ beBytes (w / 4) (8 * l.length)

/-- The hash words of a message. -/
def shaWords (p : ShaParams) (ks h0 : List Nat) (l : List Byte) : List Nat :=
  let m := shaPad p.w l
  let nb := m.length / (2 * p.w)
  (pieces (2 * p.w) nb m).foldl (fun h b => shaBlock p ks h ((pieces (p.w / 8) 16 b).map beNat)) h0

/-- SHA-256 of a message, 32 bytes. -/
def sha256 (l : List Byte) : List Byte := (shaWords sha256P k256 h256 l).flatMap (beBytes 4)

/-- SHA-384 of a message, 48 bytes. -/
def sha384 (l : List Byte) : List Byte := ((shaWords sha384P k512 h384 l).flatMap (beBytes 8)).take 48

/-- HMAC-SHA-256 under a 32-byte key (RFC 2104), 32 bytes. -/
def hmac256 (key : BitVec 256) (msg : List Byte) : List Byte :=
  let k := beBytes 32 key.toNat
  let pad (x : Byte) : List Byte := k.map (fun b => b ^^^ x) ++ List.replicate 32 x
  sha256 (pad 0x5C#8 ++ sha256 (pad 0x36#8 ++ msg))

/-! ECDSA on P-384 (FIPS 186-4), in Jacobian coordinates over the naturals. -/

def p384 : Nat := 2 ^ 384 - 2 ^ 128 - 2 ^ 96 + 2 ^ 32 - 1
def n384 : Nat := 0xFFFFFFFFFFFFFFFFFFFFFFFFFFFFFFFFFFFFFFFFFFFFFFFFC7634D81F4372DDF581A0DB248B0A77AECEC196ACCC52973
def b384 : Nat := 0xB3312FA7E23EE7E4988E056BE3F82D19181D9C6EFE8141120314088F5013875AC656398D8A2ED19D2A85C8EDD3EC2AEF
def gx384 : Nat := 0xAA87CA22BE8B05378EB1C71EF320AD746E1D3B628BA79B9859F741E082542A385502F25DBF55296C3A545E3872760AB7
def gy384 : Nat := 0x3617DE4A96262C6F5D9E98BF9292DC29F8F41DBD289A147CE9DA3113B5F0B8C00A60B1CE1D7E819D7A431D7C90EA0E5F

/-- A difference in the field. -/
def fsub (a b : Nat) : Nat := (a + (p384 - b % p384)) % p384

/-- A product in the field. -/
def fmul (a b : Nat) : Nat := a * b % p384

/-- Twice a Jacobian point; z = 0 is the point at infinity. -/
def ecDouble (q : Nat × Nat × Nat) : Nat × Nat × Nat :=
  let (x, y, z) := q
  let d := fmul z z
  let g := fmul y y
  let be := fmul x g
  let al := fmul 3 (fmul (fsub x d) ((x + d) % p384))
  let x3 := fsub (fmul al al) (8 * be)
  let z3 := fsub (fsub (fmul ((y + z) % p384) ((y + z) % p384)) g) d
  (x3, fsub (fmul al (fsub (4 * be % p384) x3)) (8 * fmul g g), z3)

/-- The sum of two Jacobian points. -/
def ecAdd (q r : Nat × Nat × Nat) : Nat × Nat × Nat :=
  let (x1, y1, z1) := q
  let (x2, y2, z2) := r
  if z1 = 0 then r else if z2 = 0 then q else
  let z11 := fmul z1 z1
  let z22 := fmul z2 z2
  let u1 := fmul x1 z22
  let u2 := fmul x2 z11
  let s1 := fmul y1 (fmul z2 z22)
  let s2 := fmul y2 (fmul z1 z11)
  if u1 = u2 then (if s1 = s2 then ecDouble q else (1, 1, 0)) else
  let h := fsub u2 u1
  let rr := fsub s2 s1
  let hh := fmul h h
  let hhh := fmul h hh
  let v := fmul u1 hh
  let x3 := fsub (fsub (fmul rr rr) hhh) (2 * v)
  (x3, fsub (fmul rr (fsub v x3)) (fmul s1 hhh), fmul h (fmul z1 z2))

/-- Double and add over the low `n` bits of two scalars at once: u·G + v·Q. -/
def ecMul2 (u v : Nat) (g q gq : Nat × Nat × Nat) : Nat → Nat × Nat × Nat
  | 0 => (1, 1, 0)
  | n + 1 =>
    let acc := ecMul2 (u / 2) (v / 2) g q gq n
    let d := ecDouble acc
    if u % 2 = 1 then (if v % 2 = 1 then ecAdd d gq else ecAdd d g) else if v % 2 = 1 then ecAdd d q else d

/-- a^e mod m by squaring, over `n` bits of the exponent. -/
def powMod (m : Nat) : Nat → Nat → Nat → Nat
  | 0, _, _ => 1 % m
  | n + 1, a, e => if e % 2 = 1 then a * powMod m n (a * a % m) (e / 2) % m else powMod m n (a * a % m) (e / 2)

/-- ECDSA P-384 verification of a hash under a public key point. -/
def ecdsaVerify (hash : Nat) (qx qy r s : Nat) : Bool :=
  let onCurve := fmul qy qy == (fmul (fmul qx qx) qx + fsub b384 (3 * qx)) % p384
  if !(onCurve && decide (0 < r) && decide (r < n384) && decide (0 < s) && decide (s < n384)
      && decide (qx < p384) && decide (qy < p384)) then false
  else
    let w := powMod n384 384 s (n384 - 2)
    let u := hash * w % n384
    let v := r * w % n384
    let g := (gx384, gy384, 1)
    let q := (qx, qy, 1)
    let (x, _, z) := ecMul2 u v g q (ecAdd g q) 384
    if z = 0 then false
    else
      let zi := powMod p384 384 z (p384 - 2)
      fmul x (fmul zi zi) % n384 == r

end Sys2Proof
end

