-- ==== Sys2Proof/Machine/Modulator.lean ====
section
/-! DEFINITION. The modulator's edges (R54 to R57): from a cell's m, phase and last sent state to the events of one
window. Times are integers of 1/16 ns since the cycle origin. -/

namespace Sys2Proof.Modulator

/-- One carrier edge: its time, whether it belongs to leg B, and whether it turns the upper switch on. -/
structure Edge where
  t : Int
  b : Bool
  on : Bool
deriving DecidableEq, Repr

/-- The timing of one cell's window: T_tri, t_minp, the window, and CELL_EDGE_TRIM. -/
structure Win where
  ttri : Nat
  minp : Nat
  w0 : Int
  tcyc : Nat
  rise : Int
  fall : Int

/-- φ of the cell at rank `r` of `n` cells with the cell's phase trim (R54). -/
def phase (r n ttri : Nat) (trim : Int) : Nat :=
  if ttri = 0 ∨ n = 0 then 0 else (((r * ttri / (2 * n) : Nat) + trim) % (ttri : Int)).toNat

/-- The four edges of the carrier period that starts at valley `v`, with the trims applied (R55). -/
def valleyEdges (w : Win) (a b : Int) (v : Int) : List Edge :=
  let p : Int := w.ttri
  [⟨v + a + w.fall, false, false⟩, ⟨v + p - a + w.rise, false, true⟩,
   ⟨v + b + w.fall, true, false⟩, ⟨v + p - b + w.rise, true, true⟩]

/-- The valleys v with v + T_tri > w0 − T_tri and v < w0 + T_cyc. -/
def valleys (w : Win) (phi : Nat) : List Int :=
  let p : Int := w.ttri
  let j0 : Int := (w.w0 - 2 * p - phi) / p + 1
  (List.range 5).filterMap (fun k =>
    let v := phi + (j0 + k) * p
    if v < w.w0 + w.tcyc then some v else none)

/-- Every carrier edge near the window. -/
def carrierEdges (w : Win) (q : Int) (phi : Nat) : List Edge :=
  let a := (8388608 + q) * w.ttri / 33554432
  let b := (8388608 - q) * w.ttri / 33554432
  (valleys w phi).flatMap (valleyEdges w a b)

/-- Insert an edge by ascending time, after those of equal time. -/
def insertEdge (e : Edge) : List Edge → List Edge
  | [] => [e]
  | f :: r => if e.t < f.t then e :: f :: r else f :: insertEdge e r

/-- Edges in ascending time. -/
def sortEdges (l : List Edge) : List Edge := l.foldl (fun a e => insertEdge e a) []

/-- Drop the first edge at `t` that is not `on`. -/
def dropAt (t : Int) (on : Bool) : List Edge → List Edge
  | [] => []
  | f :: r => if f.t = t ∧ f.on ≠ on then r else f :: dropAt t on r

/-- Cancel an on and an off of one leg at the same time; the list is one leg's and `n` its length. -/
def cancel : Nat → List Edge → List Edge
  | 0, l => l
  | _, [] => []
  | n + 1, e :: r =>
    if r.any (fun f => f.t == e.t && f.on != e.on) then cancel n (dropAt e.t e.on r) else e :: cancel n r

/-- Drop edges that do not change the leg from the state `cur`. -/
def dropSame (cur : Bool) : List Edge → List Edge
  | [] => []
  | e :: r => if e.on = cur then dropSame cur r else e :: dropSame e.on r

/-- Remove both of two consecutive edges closer than t_minp, or of which the first, a carried one, reaches or passes the
second (R56). DEDUCED, unsafe: log entry 77. -/
def dropPairs (minp : Nat) : List Edge → List Edge
  | e :: f :: r => if f.t - e.t < minp then dropPairs minp r else e :: dropPairs minp (f :: r)
  | l => l

/-- The first edge's rule of R56: postponed to the last sent edge plus t_minp; with the next edge reached, both go;
at or beyond the window's end, it is carried. -/
def postpone (w : Win) (last : Option Int) (l : List Edge) : List Edge × Option (Int × Bool) :=
  match last, l with
  | some t0, e :: r =>
    let t := t0 + w.minp
    if e.t < t then
      match r with
      | f :: r2 => if f.t ≤ t then (r2, none) else ({ e with t := t } :: f :: r2, none)
      | [] => if w.w0 + w.tcyc ≤ t then ([], some (t, e.on)) else ([{ e with t := t }], none)
    else (l, none)
  | _, l => (l, none)

/-- A leg's state under a phase just before w0: that after its latest carrier edge before w0. -/
def stateBefore (w : Win) (es : List Edge) (q : Int) (b : Bool) : Bool :=
  match ((sortEdges es).filter (fun e => e.b == b && decide (e.t < w.w0))).getLast? with
  | some e => e.on
  | none => if b then decide (q < 0) else decide (0 < q)

/-- A first edge that still lies at or beyond the window's end is carried on, and not sent (R56). -/
def carryOn (w : Win) (r : List Edge × Option (Int × Bool)) : List Edge × Option (Int × Bool) :=
  match r.1 with
  | e :: l => if w.w0 + w.tcyc ≤ e.t then (l, some (e.t, e.on)) else r
  | [] => r

/-- One leg's edges in the window and its carried edge; `change` emits an event at w0 where the new phase differs
from the last sent state (R59). A carried edge of the last window stands at its postponed time as the leg's first edge,
before every other edge of this window, and takes part in every rule (R56). -/
def legEdges (w : Win) (es : List Edge) (q : Int) (b cur : Bool) (last : Option Int) (carry : Option (Int × Bool))
    (change : Bool) : List Edge × Option (Int × Bool) :=
  let inWin := sortEdges (es.filter (fun e => e.b == b && decide (w.w0 ≤ e.t) && decide (e.t < w.w0 + w.tcyc)))
  let carried := match carry with
    | some (t, on) => if w.w0 ≤ t then [⟨t, b, on⟩] else []
    | none => []
  let imp := stateBefore w es q b
  let first := if change && imp != cur then [⟨w.w0, b, imp⟩] else []
  let l0 := carried ++ first ++ inWin
  let l := cancel l0.length l0
  carryOn w (postpone w last (dropPairs w.minp (dropSame cur l)))

/-- The 4-bit leg state: bit 3 leg A upper, bit 2 lower, bit 1 leg B upper, bit 0 lower. -/
def legCode (a b : Bool) : Nat := (if a then 8 else 4) + (if b then 2 else 1)

/-- Merge ascending edges of both legs at equal times into events with the full new state. -/
def mergeEvents (a b : Bool) : List Edge → List (Int × Bool × Bool)
  | [] => []
  | e :: r =>
    let a' := if e.b then a else e.on
    let b' := if e.b then e.on else b
    match mergeEvents a' b' r with
    | (t, x) :: rest => if t = e.t then (t, x) :: rest else (e.t, a', b') :: (t, x) :: rest
    | [] => [(e.t, a', b')]

/-- The result of one window: the events (at most four are sent), the state after it, and whether more than four were
needed. -/
structure Result where
  events : List (Int × Bool × Bool)
  st : ModSt
  many : Bool

/-- The time of the last event that changes a leg. -/
def lastChange (sel : Bool × Bool → Bool) : Bool → Option Int → List (Int × Bool × Bool) → Option Int
  | _, last, [] => last
  | cur, last, (t, x) :: r => if sel x = cur then lastChange sel cur last r else lastChange sel (sel x) (some t) r

/-- One window at phase `phi` (R55 to R57). DEDUCED, unsafe: log entry 78. -/
def window (w : Win) (q : Int) (phi : Nat) (m : ModSt) (change : Bool) : Result :=
  let es := carrierEdges w q phi
  let la := legEdges w es q false m.legA m.edgeA m.carryA change
  let lb := legEdges w es q true m.legB m.edgeB m.carryB change
  let all := mergeEvents m.legA m.legB (sortEdges (la.1 ++ lb.1))
  let sent := all.take 4
  let fin := (sent.getLast?.map (·.2)).getD (m.legA, m.legB)
  let st : ModSt := { m with
      legA := fin.1, legB := fin.2, edgeA := lastChange (·.1) m.legA m.edgeA sent,
      edgeB := lastChange (·.2) m.legB m.edgeB sent, carryA := la.2, carryB := lb.2, on := true, phi := phi }
  ⟨sent, st, decide (4 < all.length)⟩

/-- A cell's window in RUN with the phase of its rank: a phase change that would need more than four events keeps the
old phase and counts one postponement; a cell entering RUN starts from 0b1010 with no event at w0 (R55, R57, R59). The
second result is the number of postponements counted. -/
def cellWindow (w : Win) (q : Int) (phi : Nat) (m : ModSt) : Result × Nat :=
  let m1 := if m.on then m else { ({} : ModSt) with phi := phi, on := true }
  if m1.phi = phi then
    let r := window w q phi m1 false
    (r, bit r.many)
  else
    let r := window w q phi m1 true
    if r.many then
      let o := window w q m1.phi m1 false
      (o, if o.many then 2 else 1)
    else (r, 0)

end Sys2Proof.Modulator
end

