-- ==== Sys2Proof/Machine/DispatchOps.lean ====
section
/-! DEFINITION. Dispatch (R30, R51 to R58, R70 to R72, R75): from the string references and the agreed cell values to
the slots of F(n+1), and the sums that thermal model, estimator and rotation take from it. -/

namespace Sys2Proof.Machine

/-- The sign of the string current outside its dead band (R58). -/
def sigma (s : State) (t : Twin) (st : Nat) (i : W32) : W32 :=
  if F32.le (sp s t R.ARR_S_BAL_IDB st) (F32.abs i) then F32.sign i else 0#32

/-- The balancing trims of a string's ACTIVE cells (R58). -/
def balTrims (s : State) (t : Twin) (st : Nat) : List (Nat × W32) :=
  let act := strIn s t st [csActive]
  if act.length < 2 ∨ rf s t R.ARR_CTRL_BAL_EN = 0 then act.map (fun k => (k, 0#32))
  else
    let vbar := meanV s t act
    let sg := sigma s t st (strRef s t st).i
    let gain := F32.neg (sp s t R.ARR_S_BAL_GAIN st)
    let raw := act.map (fun k =>
      F32.mul (F32.mul gain (F32.div (F32.sub (cw s t R.CELL_VCAP k) vbar) (vnom s t st))) sg)
    let mean := F32.mean raw
    let raw := raw.map (fun x => F32.sub x mean)
    let big := F32.maxAbs raw
    let g := if F32.isZero big then F32.one else F32.min F32.one (F32.div (sp s t R.ARR_S_BAL_LIM st) big)
    act.zip (raw.map (fun x => F32.mul g x))

/-- PHMAX of a string. -/
def phMax (s : State) (t : Twin) (st : Nat) : Int := rf s t (sf R.ARR_S_ISO_PHMAX st)

/-- The ISO charging phase towards a target (R70): −round-half-even(PHMAX × clamp(10 × (V_tgt − V_k) ÷ VNOM, 0, 1)). -/
def isoPhase (s : State) (t : Twin) (st : Nat) (vtgt v : W32) : Int :=
  let x := F32.clamp (F32.div (F32.mul 0x41200000#32 (F32.sub vtgt v)) (vnom s t st)) 0#32 F32.one
  (- F32.toIntScaled (F32.mul (F32.ofInt (phMax s t st)) x) 0)

/-- The isolation command word of a string's cell with PHASE `p` (R53). -/
def isoWord (s : State) (t : Twin) (st : Nat) (p : Int) : W32 :=
  putBits (rd s t (R.ARR_S_ISO + 64 * st)) 21 12 (p % 1024).toNat

/-- The mode word of R95. -/
def modeWord (mode start : Nat) (isoBlock faultReset : Bool) : W32 :=
  BitVec.ofNat 32 (mode * 268435456 + start * 16777216 + bit isoBlock * 8388608 + bit faultReset * 4194304)

/-- The string's target mean (R70): over its ACTIVE cells, else its BLOCKED cells, else VNOM. -/
def targetMean (s : State) (t : Twin) (st : Nat) : W32 :=
  match strIn s t st [csActive], strIn s t st [csBlocked] with
  | [], [] => vnom s t st
  | [], b => meanV s t b
  | a, _ => meanV s t a

/-- A cell enters ACTIVE with w_k = 1 (R63); what an earlier time as ACTIVE left in its estimator sums is gone (R65). -/
def enterActive (s : State) (t : Twin) (k : Nat) : State :=
  modCellX (wr (setCellSt s t k csActive) t (R.CELL_WEIGHT + 256 * k) F32.one) t k
    (fun x => { x with iRe := 0, iIm := 0, vRe := 0, vIm := 0, samples := 0 })

/-- run_s moves a string's cells between ACTIVE and BLOCKED (R51); becoming ACTIVE they start with w_k = 1 and no
temperature rise and empty sums (R60, R63), and the first time they take their ranks in ascending index (R486). ROT_K counts
first from the window of that time, t_(n+2); R59 names no start. DEDUCED, unsafe: log entry 273. -/
def applyRun (s : State) (t : Twin) (st : Nat) : State :=
  if flag s t R.ARR_STATUS_BLOCKED then s
  else if (strRef s t st).run then
    let s1 := (strIn s t st [csBlocked]).foldl (fun s k =>
      modCellX (enterActive s t k) t k (fun x => { x with dT1 := 0, dT2 := 0, condSum := 0, swSum := 0 })) s
    if (strX s t st).ranked ∨ (strIn s1 t st [csActive]).isEmpty then showString s1 t st
    else rerank (modStrX s1 t st (fun x => { x with ranks := [], ranked := true, rotAt := (s.tw t).arr.n + 2 })) t st
  else showString ((strIn s t st [csActive]).foldl (fun s k => setCellSt s t k csBlocked) s) t st

/-- V_tgt of an INSERTING cell moves towards the target mean at INS_RAMP (R70). DEDUCED, unsafe: log entry 79. -/
def rampTarget (s : State) (t : Twin) (k : Nat) (mean : W32) : State :=
  let step := F32.mul (rd s t R.ARR_INS_RAMP) (F32.ofRatio (cycNs s t) 1000000)
  modCellX s t k (fun x => { x with
    vtgt := F32.add x.vtgt (F32.clamp (F32.sub mean x.vtgt) (F32.neg step) step) })

/-- INSERTING cells ramp, and one whose target has arrived and whose voltage lies within INS_TOL of the mean becomes
ACTIVE with weight 1 (R70, R71). -/
def insertions (s : State) (t : Twin) (st : Nat) : State :=
  let mean := targetMean s t st
  let tol := F32.mul (F32.mul (F32.ofInt (rf s t R.ARR_INS_CFG_INS_TOL)) 0x3A83126F#32) (vnom s t st)
  (strIn s t st [csInserting]).foldl (fun s k =>
    let s1 := rampTarget s t k mean
    let near := F32.le (F32.abs (F32.sub (cw s t R.CELL_VCAP k) mean)) tol
    if F32.eq (cellX s1 t k).vtgt mean ∧ near then
      showString (enterActive s1 t k) t st
    else s1) s

/-- V_avail of R52. -/
def vAvail (s : State) (t : Twin) (st : Nat) : W32 :=
  F32.sum ((strIn s t st [csActive, csInserting]).map (cw s t R.CELL_VCAP))

/-- m_s of R52. -/
def mString (s : State) (t : Twin) (st : Nat) : W32 :=
  let va := vAvail s t st
  let mm := sp s t R.ARR_S_MMAX st
  if F32.le va 0#32 then 0#32 else F32.clamp (F32.div (strRef s t st).v va) (F32.neg mm) mm

/-- String derating (R75): δ_s, DERATED and STRING_DERATED. A result that is no number leaves δ_s as it stands.
DEDUCED, unsafe: log entry 69. -/
def derate (s : State) (t : Twin) (st : Nat) : State :=
  let win := rf s t (sf R.ARR_S_VREQ_VREQ_WIN st)
  let hist := (F32.abs (strRef s t st).v :: (strX s t st).vreq).take win
  let margin := F32.add F32.one (F32.div (F32.ofInt (rf s t (sf R.ARR_S_VREQ_MARGIN st))) 0x42C80000#32)
  let vreq := F32.mul margin (F32.maxAbs hist)
  let d := F32.min F32.one (F32.div (F32.mul (sp s t R.ARR_S_MMAX st) (vAvail s t st)) vreq)
  let old := rf s t R.ARR_STATUS_DERATED
  let s1 := modStrX s t st (fun x => { x with vreq := hist })
  if F32.isNan d then s1
  else
    let low := F32.lt d F32.one
    let s2 := wr s1 t (R.ARR_S_DERATE + 64 * st) d
    let s3 := if low then evi s2 t R.ARR_STATUS_DERATED st else clri s2 t R.ARR_STATUS_DERATED st
    if low ∧ ¬ nbit old st then ev s3 t R.ARR_EVENT_STRING_DERATED else s3

/-- The number of leg changes that a list of events makes from a leg state. -/
def transitions : Bool × Bool → List (Int × Bool × Bool) → Nat
  | _, [] => 0
  | c, (_, x) :: r => bit (c.1 != x.1) + bit (c.2 != x.2) + transitions x r

/-- τ₊ − τ₋ over a window (R65): time at +1 less time at −1, from `t0` to `t1`. -/
def tauOf (c : Bool × Bool) (t0 t1 : Int) : List (Int × Bool × Bool) → Int
  | [] => if c.1 == c.2 then 0 else if c.1 then t1 - t0 else t0 - t1
  | (t, x) :: r => (if c.1 == c.2 then 0 else if c.1 then t - t0 else t0 - t) + tauOf x t t1 r

/-- The carrier window of a string's cell in the dispatch of cycle `n`. -/
def cellWin (s : State) (t : Twin) (st k n : Nat) : Modulator.Win :=
  { ttri := (sp s t R.ARR_S_CARRIER st).toNat, minp := 160 * rf s t (sf R.ARR_S_MINPULSE_MINP st),
    w0 := (n + 2) * cyc16 s t, tcyc := cyc16 s t,
    rise := (BitVec.ofNat 16 (rf s t (fo R.CELL_EDGE_TRIM_RISE (256 * k)))).toInt,
    fall := (BitVec.ofNat 16 (rf s t (fo R.CELL_EDGE_TRIM_FALL (256 * k)))).toInt }

/-- Device time of an instant counted from the origin, as a Tributary time. -/
def tribOf (s : State) (t : Twin) (x : Int) : Nat := ((originNs s t * 16 + x) % 1099511627776).toNat

/-- m_k of an ACTIVE or INSERTING cell (R52, R70). -/
def mCell (s : State) (t : Twin) (st k : Nat) (ms : W32) (trims : List (Nat × W32)) : W32 :=
  let one := F32.one
  if cellSt s t k = csActive then
    F32.clamp (F32.add (F32.mul ms (cw s t R.CELL_WEIGHT k)) ((trims.find? (fun p => p.1 == k)).map (·.2) |>.getD 0#32))
      (F32.neg one) one
  else
    let lim := rd s t R.ARR_INS_TRIMLIM
    let e := F32.div (F32.sub (cw s t R.CELL_VCAP k) (cellX s t k).vtgt) (vnom s t st)
    let tr := F32.mul (F32.mul (F32.neg (sp s t R.ARR_S_BAL_GAIN st)) e) (sigma s t st (strRef s t st).i)
    let tr := if nbit (rf s t R.ARR_INS_CFG_INS_SRC) 0 then F32.clamp tr (F32.neg lim) lim else 0#32
    F32.clamp (F32.add ms tr) (F32.neg one) one

/-- PHASE of a cell that feeds or charges (R53, R70, R72), clamped to ±PHMAX. -/
def cellPhase (s : State) (t : Twin) (st k : Nat) : Int :=
  let c := cellSt s t k
  if c = csActive then
    let lim := phMax s t st
    let p := F32.toIntScaled (F32.mul (F32.mul 0x44000000#32 (strRef s t st).phi) (cw s t R.CELL_WEIGHT k)) 0
    max (-lim) (min lim p)
  else if c = csInserting then
    if nbit (rf s t R.ARR_INS_CFG_INS_SRC) 1 then isoPhase s t st (cellX s t k).vtgt (cw s t R.CELL_VCAP k) else 0
  else isoPhase s t st (F32.mul (rd s t R.ARR_INS_KEEP) (vnom s t st)) (cw s t R.CELL_VCAP k)

/-- Put a cell's slot for the next frame. -/
def putSlot (s : State) (t : Twin) (k : Nat) (x : Slot) (m : ModSt) : State :=
  modArr s t (fun a => { a with next := tabSet {} a.next k x, cand := tabSet {} a.cand k m })

/-- The slot of a cell that receives RUN, with the window's edges, which count once the window is emitted (R55 to R60). -/
def runSlot (s : State) (t : Twin) (st k n : Nat) (ms : W32) (trims : List (Nat × W32)) : State :=
  let m := mCell s t st k ms trims
  let ranks := (strX s t st).ranks
  let rank := ranks.findIdx (· == k)
  let w := cellWin s t st k n
  let trim := (rd s t (R.CELL_PHASE_TRIM + 256 * k)).toInt
  let m0 := (cellX s t k).mod
  let r := Modulator.cellWindow w (F32.toIntScaled m 23) (Modulator.phase rank ranks.length w.ttri trim) m0
  let legs := if m0.on then (m0.legA, m0.legB) else (true, true)
  let tr := transitions legs r.1.events
  let i := F32.abs (cw s t R.CELL_IARM k)
  let per := F32.div (F32.mul (F32.add (F32.mul (cw s t R.CELL_C_SW k) i) (cw s t R.CELL_D_SW k)) (cw s t R.CELL_VCAP k))
    (vnom s t st)
  let slot : Slot := ⟨r.1.events.map (fun e => (tribOf s t e.1, Modulator.legCode e.2.1 e.2.2)),
    isoWord s t st (cellPhase s t st k), modeWord 1 (Modulator.legCode legs.1 legs.2) false false⟩
  let s := wr (putSlot s t k slot r.1.st) t (R.CELL_MREF + 256 * k) m
  let s := modCellX s t k (fun x => { x with tauCand := tauOf legs w.w0 (w.w0 + w.tcyc) r.1.events })
  let s := modArr s t (fun a => { a with edges := a.edges ++ [⟨k, st, rank, tr, per, F32.abs (strRef s t st).i⟩] })
  if r.2 = 0 then s else cntBy s t (R.ARR_S_POSTPONED + 64 * st) r.2

/-- The slot of a cell that receives BLOCK or BYPASS; its modulator state leaves RUN. It has no m_k, so CELL_MREF keeps that of
the cell's last RUN slot (R78). DEDUCED, unsafe: log entry 93. -/
def stillSlot (s : State) (t : Twin) (st k mode : Nat) (phase : Int) (isoBlock faultReset : Bool) : State :=
  let slot : Slot := ⟨[], isoWord s t st phase, modeWord mode 0 isoBlock faultReset⟩
  modCellX (putSlot s t k slot { (cellX s t k).mod with on := false, carryA := none, carryB := none }) t k
    (fun x => { x with tauCand := 0 })

/-- One cell's slot by its state (table "Cell states", R51, R53, R68, R72, R73). Under the safe array block an ACTIVE cell
receives BLOCK and keeps its PHASE without the isolation-block flag (R53, R73); the cell itself then blocks (R113). DEDUCED, unsafe: log entry 240. -/
def cellSlot (s : State) (t : Twin) (st n : Nat) (ms : W32) (trims : List (Nat × W32)) (k : Nat) : State :=
  let c := cellSt s t k
  let r := (strRef s t st).run
  let blocked := flag s t R.ARR_STATUS_BLOCKED
  let feed := (s.tw t).arr.feedStop
  if c = csUnused then s
  else if c = csStandby then
    let stop := blocked || feed || rf s t R.ARR_INS_CFG_INS_KEEP_EN == 0
    stillSlot s t st k 2 (if stop then 0 else cellPhase s t st k) stop (cellX s t k).faultReset
  else if c = csBypassing ∨ c = csBypassed ∨ c = csCold then stillSlot s t st k 2 0 true false
  else if c = csBlocked ∨ blocked then stillSlot s t st k 0 0 true false
  else if safeBlocked s t then stillSlot s t st k 0 (cellPhase s t st k) false false
  else if r then runSlot s t st k n ms trims
  else if c = csInserting then stillSlot s t st k 0 (if feed then 0 else cellPhase s t st k) feed false
  else stillSlot s t st k 0 0 true false

/-- The sums of a cycle (R60, R65) over a string's cells; the estimator's start anew when EST_EN is 0. -/
def cycleSums (s : State) (t : Twin) (st : Nat) : State :=
  let th2 := F32.mul F32.two (strRef s t st).theta
  let co := F32.cos th2
  let si := F32.sin th2
  let est := rf s t R.ARR_CTRL_EST_EN = 1
  (strIn s t st [csActive, csInserting]).foldl (fun s k =>
    let i := cw s t R.CELL_IARM k
    let v := cw s t R.CELL_VCAP k
    let loss := F32.mul (F32.add (F32.mul (cw s t R.CELL_A_COND k) (F32.abs i))
      (F32.mul (cw s t R.CELL_B_COND k) (F32.mul i i))) (tcycF s t)
    let sum := est ∧ cellSt s t k = csActive
    modCellX s t k (fun x =>
      let ic := F32.div (F32.mul i (F32.ofInt x.tauNow)) (F32.ofInt (cyc16 s t : Nat))
      { x with
        condSum := F32.add x.condSum loss,
        iRe := if sum then F32.add x.iRe (F32.mul ic co) else if est then x.iRe else 0,
        iIm := if sum then F32.sub x.iIm (F32.mul ic si) else if est then x.iIm else 0,
        vRe := if sum then F32.add x.vRe (F32.mul v co) else if est then x.vRe else 0,
        vIm := if sum then F32.sub x.vIm (F32.mul v si) else if est then x.vIm else 0,
        samples := if sum then x.samples + 1 else if est then x.samples else 0 }))
    (modStrX s t st (fun x => { x with estN := if est then x.estN + 1 else 0 }))

/-- The state updates of a cycle for one string: run flag, insertions, sums, derating. -/
def stringUpdate (s : State) (t : Twin) (st : Nat) : State :=
  derate (cycleSums (insertions (applyRun s t st) t st) t st) t st

/-- The slots of one string for the window from t_(n+2). -/
def stringSlots (s : State) (t : Twin) (n st : Nat) : State :=
  let ms := mString s t st
  let trims := balTrims s t st
  (strCells s t st).foldl (fun s k => cellSlot s t st n ms trims k) s

/-- Dispatch of cycle `n` in a twin. -/
def dispatch (s : State) (t : Twin) (n : Nat) : State :=
  let sts := List.range (stringsUsed s t)
  let s := sts.foldl (fun s st => stringUpdate s t st) s
  modArr (sts.foldl (fun s st => stringSlots s t n st) s) t (fun a => { a with assign := [], ranks0 := [] })

/-- Whether a slot carries FAULT_RESET (R95). -/
def slotResets (x : Slot) : Bool := x.mode.getLsbD 22

/-- The edges of the window dispatched are emitted: its leg transitions count in the cells' switching energy (R60) and in the
stress sums of their ranks (R59). -/
def countEdges (s : State) (t : Twin) : State :=
  modArr ((s.tw t).arr.edges.foldl (fun s e =>
    modStrX (modCellX s t e.cell (fun x => { x with swSum := (List.replicate e.count e.energy).foldl F32.add x.swSum })) t e.str
      (fun x => { x with stress := tabMod 0#32 x.stress e.rank (fun v => (List.replicate e.count e.amps).foldl F32.add v) })) s)
    t (fun a => { a with edges := [] })

/-- The window that the cells execute is the one dispatched: the modulator states it leads to become the last sent
states (R55), and a FAULT_RESET that it carries has been given (R95). -/
def commitMods (s : State) (t : Twin) : State :=
  modArr (countEdges s t) t (fun a => { a with
    cells := a.cand.foldl (fun c e => tabMod {} c e.1 (fun x => { x with
      mod := e.2, tauNow := x.tauNext, tauNext := x.tauCand
      faultReset := x.faultReset && !(slotResets (tabGet {} a.next e.1)) })) a.cells,
    cand := [] })

/-- The cells repeat their window because the leader held (R55, R111): edges of the last window, and the edge it
carries on, move by T_cyc. DEDUCED, unsafe: log entry 52. -/
def repeatMods (s : State) (t : Twin) : State :=
  let w0 := (s.tw t).arr.w0
  let d : Int := cyc16 s t
  let mv := fun (e : Option Int) => e.map (fun x => if w0 ≤ x then x + d else x)
  let mc := fun (e : Option (Int × Bool)) => e.map (fun x => (x.1 + d, x.2))
  modArr s t (fun a => { a with
    cells := a.cells.foldl (fun c e => tabMod {} c e.1 (fun x =>
      { x with
        mod := { x.mod with
          edgeA := mv x.mod.edgeA, edgeB := mv x.mod.edgeB, carryA := mc x.mod.carryA, carryB := mc x.mod.carryB }
        tauNow := x.tauNext })) a.cells })

/-- The 32 downlink bytes of a CYCLE slot (R95). -/
def slotBytes (x : Slot) : List Byte :=
  let evs := (x.events.take 4).flatMap (fun e => beBytes 5 e.1 ++ beBytes 1 (e.2 * 16 + 8))
  evs ++ List.replicate (24 - evs.length) 0#8 ++ beBytes 4 x.iso.toNat ++ beBytes 4 x.mode.toNat

end Sys2Proof.Machine
end

