-- ==== Sys2Proof/Machine/Array.lean ====
section
/-! DEFINITION. Meanings of 02_array_control: enabling and stopping the array, the mapping table, rotation, the
thermal and wear model, the estimator and Oxbow. The cycle itself is in Cycle.lean. -/

namespace Sys2Proof.Machine

/-- The chains that are brought up. -/
def liveChains (s : State) (t : Twin) : List Nat := (List.range 12).filter (fun c => !(chainCold s t c))

/-- The refusal of ENABLE = 1 (R39 to R41, R49, R77): the result code, OK if it may develop.
DEDUCED, unsafe: log entry 120. -/
def enableCode (s : State) (t : Twin) : Nat :=
  let topo := rf s t R.ARR_CTRL_TOPO
  if topoStrings topo = none then Rc.TOPO_INVALID
  else if !(mapValid (mapList s t) topo) then Rc.MAP_INVALID
  else if (List.range (stringsUsed s t)).any (fun st => F32.isZero (vnom s t st)) then Rc.PARAM_ORDER
  else if rf s t R.ARR_CYCLE_LEN < minLen s t then Rc.CYCLE_TOO_SHORT
  else Rc.OK

/-- ENABLE = 1 develops (R46): the checks, MIN_LEN published, the rings of live chains brought up under lane-training
leave and the others left in electrical idle. -/
def arrayEnable (s : State) : State :=
  let s := budget s
  let code := enableCode s (asker s)
  if code ≠ Rc.OK then say s code
  else if s.pfail ∨ headroom s (asker s) < leaveCost 0 4095 then leaveAsk s 0 (asker s) true 4095
  else if flag s (asker s) R.ARR_CTRL_ENABLE ∧ (s.tw (asker s)).arr.phase ≠ 0 then say s Rc.OK
  else
    let live := liveChains s (asker s)
    let n := cycleNow s (asker s)
    let s := onBoth (fun s t =>
      let s := modArr (wf s t R.ARR_CTRL_ENABLE 1) t (fun a => { a with phase := 1, strs := [], refs := a.refs, enAt := some n })
      (List.range 12).foldl (fun s c => if live.contains c then s else setRing s t c 1) s) s
    trainChains (say s Rc.OK) live 4095 true

/-- ARRAY_ENABLE (R46). -/
def execArrayEnable (s : State) : Out := .next (arrayEnable s)

/-- ENABLE = 0 develops (R485): frames stop, READY and RUN rings enter electrical idle, RUNNING and BLOCKED clear, and
lane-training leave still held or asked returns. The cell states keep. A ring in TRAIN, CONFIG or FAILED, of which the rule
says nothing, enters electrical idle too: DESIGN CHOICE, unsafe: log entry 286. -/
def arrayStop (s : State) : State :=
  let s := onBoth (fun s0 t =>
    let s := s0
    let s := wf (wf (wf s t R.ARR_CTRL_ENABLE 0) t R.ARR_STATUS_RUNNING 0) t R.ARR_STATUS_BLOCKED 0
    let s := (List.range 12).foldl (fun s c =>
      let s := modRingX s t c (fun r => { r with wake := false, awaited := false })
      if ringSt s t c = 0 then s else setRing s t c 1) s
    let ran := if flag s0 t R.ARR_STATUS_RUNNING then some (s0.tw t).arr.n else (s0.tw t).arr.ranAt
    modArr s t (fun a => { a with
      ranAt := ran, phase := 0, next := [], cand := [], edges := [], cur := [], sent := [], hold := false
      cells := a.cells.map (fun e => (e.1, { e.2 with mod := {} })) })) s
  dropTraining s (fun _ => true)

/-- ARRAY_STOP (R485). -/
def execArrayStop (s : State) : Out := .next (if flag s (asker s) R.ARR_CTRL_ENABLE then arrayStop s else s)

/-- The judgement of a mapping-entry write (R41, R44): the result code. -/
def mapEntryCode (s : State) (t : Twin) (k : Nat) (v : W32) : Nat :=
  let old := rd s t (R.ARR_MAP + 4 * k)
  let en := flag s t R.ARR_CTRL_ENABLE
  let c := cellSt s t k
  if !(entryOk v) then Rc.MAP_INVALID
  else if en ∧ bits old 29 12 ≠ bits v 29 12 then Rc.ARRAY_ACTIVE
  else if en ∧ mapRole old ≠ mapRole v ∧ (mapRole old = 1 ∨ mapRole v = 1 ∨ (c ≠ csUnused ∧ c ≠ csBypassed)) then
    Rc.ARRAY_ACTIVE
  else if en ∧ mapRole old ≠ mapRole v ∧
      !(mapValid ((mapOf (rd' v)).filter (fun e => mapRole e.2 != 0)) (rf s t R.ARR_CTRL_TOPO)) then Rc.MAP_INVALID
  else Rc.OK
where
  /-- The register map with the entry written. -/
  rd' (v : W32) : Tab W32 := tabSet 0#32 (s.tw t).regs (R.ARR_MAP + 4 * k) v

/-- A mapping entry is written in both twins after its judgement; bits 11:0 are reserved. -/
def mapEntryWrite (s : State) (k : Nat) (v : W32) : State :=
  let code := mapEntryCode s (asker s) k v
  if code ≠ Rc.OK then say s code
  else say (onBoth (fun s t => wr s t (R.ARR_MAP + 4 * k) (v &&& 0xFFFFF000#32)) s) Rc.OK

/-- MAP_ENTRY_WRITE (R41, R44). -/
def execMapEntryWrite (k : Fin 192) (v : W32) (s : State) : Out := .next (mapEntryWrite s k.val v)

/-- Insert by descending damage and ascending index. -/
def byDamage (s : State) (t : Twin) (k : Nat) : List Nat → List Nat
  | [] => [k]
  | j :: r => if damage s t j < damage s t k then k :: j :: r else j :: byDamage s t k r

/-- Insert a rank by ascending stress and ascending rank. -/
def byStress (x : StrX) (r : Nat) : List Nat → List Nat
  | [] => [r]
  | q :: l => if F32.lt (tabGet 0#32 x.stress r) (tabGet 0#32 x.stress q) then r :: q :: l else q :: byStress x r l

/-- The cells in rank order after a reassignment of R59. -/
def rotated (s : State) (t : Twin) (st : Nat) : List Nat :=
  let x := strX s t st
  let cur := x.ranks
  let n := cur.length
  if rf s t (sf R.ARR_S_CFG_ROT_MODE st) = 1 then
    match cur.getLast? with
    | some l => l :: cur.take (n - 1)
    | none => []
  else
    let cells := ((List.range 192).filter cur.contains).foldl (fun l k => byDamage s t k l) []
    let ranks := (List.range n).foldl (fun l r => byStress x r l) []
    (List.range n).map (fun r => cells.getD (ranks.findIdx (· == r)) 0)

/-- A rotation of one string in one twin, where the conditions of R59 hold. -/
def rotate (s : State) (t : Twin) (st : Nat) : State :=
  let x := strX s t st
  let n := (s.tw t).arr.n
  let mode := rf s t (sf R.ARR_S_CFG_ROT_MODE st)
  if mode = 0 ∨ mode = 3 ∨ rf s t R.ARR_CTRL_ROT_EN = 0 ∨ n + 2 < x.rotAt + rf s t (sf R.ARR_S_CFG_ROT_K st) then s
  else
    let s := modStrX s t st (fun y => { y with ranks := rotated s t st, rotAt := n + 2, stress := if mode = 2 then [] else y.stress })
    showRanks s t st

/-- CARRIER_ROTATION (R59, R73). -/
def execCarrierRotation (st : Fin 6) (s : State) : Out := .next (onComputing (fun s t => rotate s t st.val) s)

/-- Add to a cell's damage, in units of 2^-48, saturating (R62); R8's closed and half cycles are counted. -/
def addDamage (s : State) (t : Twin) (k : Nat) (range mean : W32) (half : Bool) : State :=
  let s := cnt s t (R.CELL_TCYCLES + 256 * k)
  let a := rd s t R.ARR_DMG_A
  if F32.isZero a ∨ F32.lt range (rd s t R.ARR_DMG_DTMIN) then s
  else
    let e := F32.exp (F32.div (F32.neg (rd s t R.ARR_DMG_BETA)) (F32.add mean 0x43889333#32))
    let d := F32.div (F32.mul (F32.pow range (rd s t R.ARR_DMG_ALPHA)) e) a
    let d := if half then F32.div d F32.two else d
    setDamage s t k (min (damage s t k + (F32.toIntScaled d 48).toNat) 18446744073709551615)

/-- The closed cycles at the newest end of a stack of turning points, newest first (R61): X2 and X3 are removed while
|X2 − X3| ≤ |X1 − X2| and |X2 − X3| ≤ |X3 − X4|. The result is the stack and the cycles as (range, mean). -/
def closeCycles : Nat → List W32 → List W32 × List (W32 × W32)
  | 0, l => (l, [])
  | n + 1, x4 :: x3 :: x2 :: x1 :: r =>
    let d := F32.abs (F32.sub x2 x3)
    if F32.le d (F32.abs (F32.sub x1 x2)) ∧ F32.le d (F32.abs (F32.sub x3 x4)) then
      let m := closeCycles n (x4 :: x1 :: r)
      (m.1, (d, F32.div (F32.add x2 x3) F32.two) :: m.2)
    else (x4 :: x3 :: x2 :: x1 :: r, [])
  | _, l => (l, [])

/-- A turning point is pushed (R61). The stack is kept newest first. -/
def pushTurn (s : State) (t : Twin) (k : Nat) (v : W32) : State :=
  let st := (cellX s t k).stack
  let full := decide (32 ≤ st.length)
  let s := if full then
      let x1 := st.getD 31 0#32
      let x2 := st.getD 30 0#32
      addDamage s t k (F32.abs (F32.sub x1 x2)) (F32.div (F32.add x1 x2) F32.two) true
    else s
  let r := closeCycles 16 (v :: st.take 31)
  let s := modCellX s t k (fun x => { x with stack := r.1 })
  r.2.foldl (fun s c => addDamage s t k c.1 c.2 false) s

/-- The turning-point rule of R61 for a new T_j: the direction is 0 before the first move, 1 rising, 2 falling.
DEDUCED, unsafe: log entry 80. -/
def rainflow (s : State) (t : Twin) (k : Nat) (tj : W32) : State :=
  let x := cellX s t k
  let h := rd s t R.ARR_RF_HYST
  let up := F32.le h (F32.sub tj x.ext)
  let down := F32.le h (F32.sub x.ext tj)
  let turn := fun d => pushTurn (modCellX s t k (fun y => { y with dir := d, ext := tj })) t k x.ext
  match x.dir with
  | 0 => if up then turn 1 else if down then turn 2 else s
  | 1 => if F32.lt x.ext tj then modCellX s t k (fun y => { y with ext := tj }) else if down then turn 2 else s
  | _ => if F32.lt tj x.ext then modCellX s t k (fun y => { y with ext := tj }) else if up then turn 1 else s

/-- The thermal update of one cell (R60). -/
def thermalCell (s : State) (t : Twin) (k : Nat) : State :=
  let x := cellX s t k
  let tth := F32.mul (F32.ofInt (rf s t R.ARR_TH_CFG_TH_DIV)) (tcycF s t)
  let p := F32.div (F32.add x.condSum x.swSum) tth
  let al := fun tau => F32.sub F32.one (F32.exp (F32.div (F32.neg tth) tau))
  let st := fun d rth tau => F32.add d (F32.mul (al tau) (F32.sub (F32.mul rth p) d))
  let d1 := st x.dT1 (cw s t R.CELL_RTH1 k) (cw s t R.CELL_TAU1 k)
  let d2 := st x.dT2 (cw s t R.CELL_RTH2 k) (cw s t R.CELL_TAU2 k)
  let tj := F32.add (F32.add (cw s t R.CELL_TEMP1 k) d1) d2
  let s := modCellX s t k (fun y => { y with
    dT1 := d1, dT2 := d2, condSum := 0, swSum := 0
    ext := if y.dir = 0 ∧ y.stack.isEmpty ∧ F32.isZero y.ext then tj else y.ext })
  rainflow (wr s t (R.CELL_TJ + 256 * k) tj) t k tj

/-- THERMAL_UPDATE (R60 to R62): each ACTIVE or INSERTING cell of the twin. -/
def execThermalUpdate (t : Twin) (s : State) : Out :=
  .next ((List.range (stringsUsed s t)).foldl (fun s st =>
    (strIn s t st [csActive, csInserting]).foldl (fun s k => thermalCell s t k) s) s)

/-- D_k as binary32 (R63). -/
def damageF (s : State) (t : Twin) (k : Nat) : W32 := F32.packInt (damage s t k) (-48)

/-- The new weights of a string's ACTIVE cells (R63). -/
def weights (s : State) (t : Twin) (st : Nat) : List (Nat × W32) :=
  let act := strIn s t st [csActive]
  if rf s t R.ARR_CTRL_WEAR_EN = 0 then act.map (fun k => (k, F32.one))
  else
    let dbar := F32.mean (act.map (damageF s t))
    let den := F32.max dbar 0x35800000#32
    let gain := F32.neg (sp s t R.ARR_S_WEAR_GAIN st)
    let u := act.map (fun k => F32.div (F32.mul gain (F32.sub (damageF s t k) dbar)) den)
    let mu := F32.mean u
    let u := u.map (fun x => F32.sub x mu)
    let big := F32.maxAbs u
    let f := if F32.isZero big then F32.one else F32.min F32.one (F32.div (sp s t R.ARR_S_WEAR_LIM st) big)
    let u := u.map (fun x => F32.mul x f)
    let w := act.map (cw s t R.CELL_WEIGHT)
    let dl := (u.zip w).map (fun p => F32.sub (F32.add F32.one p.1) p.2)
    let bigd := F32.maxAbs dl
    let fd := if F32.isZero bigd then F32.one else F32.min F32.one (F32.div 0x3A83126F#32 bigd)
    let w := (w.zip dl).map (fun p => F32.add p.1 (F32.mul p.2 fd))
    let mw := F32.sub (F32.mean w) F32.one
    act.zip (w.map (fun x => F32.sub x mw))

/-- With WEAR_EN = 0 every weight is held at 1 (R63). -/
def holdWeights (s : State) (t : Twin) : State :=
  if rf s t R.ARR_CTRL_WEAR_EN = 0 then
    (mapList s t).foldl (fun s e => wr s t (R.CELL_WEIGHT + 256 * e.1) F32.one) s
  else s

/-- WEIGHT_UPDATE (R63). -/
def execWeightUpdate (t : Twin) (s : State) : Out :=
  .next ((List.range (stringsUsed s t)).foldl (fun s st =>
    (weights s t st).foldl (fun s p => wr s t (R.CELL_WEIGHT + 256 * p.1) p.2) s) s)

/-- The wear record of a twin (R64): damage, thermal cycles, capacitance and series resistance of each mapped cell. -/
def wearRecord (s : State) (t : Twin) : Tab (List W32) :=
  (mapList s t).map (fun e => (e.1, [cw s t R.CELL_DAMAGE_LO e.1, cw s t R.CELL_DAMAGE_HI e.1, cw s t R.CELL_TCYCLES e.1,
    cw s t R.CELL_CAP e.1, cw s t R.CELL_ESR e.1]))

/-- The twin writes its wear record to the fresh one of the two copies in its boot flash, its generation last; a save that
fails or is interrupted leaves the copy in force, and sets WEAR_SAVE (R64, R447, R456). DEDUCED, unsafe: log entry 226. -/
def wearWrite (s : State) (t : Twin) (ok : Bool) : State :=
  if ok then modFlash s t (fun f => { f with wear := wearRecord s t, wearOld := f.wear, wearGen := f.wearGen + 1 })
  else ev (modFlash s t (fun f => { f with wearOld := [] })) t R.ARR_EVENT_WEAR_SAVE

/-- WEAR_RECORD_SAVE (R64): the save asks for boot-flash leave (argument 4) and runs once granted; refused leave is a
failed save. -/
def execWearRecordSave (t : Twin) (ok : Bool) (s : State) : Out :=
  let s1 := leaveAsk s 5 t false 4
  .next (if s1.report ≠ Rc.OK ∧ s1.report ≠ s.report then ev s1 t R.ARR_EVENT_WEAR_SAVE
    else if leaveHeldFor s1 5 t 4 then leaveEndFor (wearWrite s1 t ok) 5 t 4
    else s1)

/-- One filtered step of an estimate towards a result over `tw` seconds (R65). DEDUCED, unsafe: log entry 81. -/
def estStep (old v tau tw : W32) : W32 := F32.add old (F32.mul (F32.div tw (F32.add tau tw)) (F32.sub v old))

/-- The estimator's result for one cell (R65); the sums start again. -/
def estCell (s : State) (t : Twin) (k : Nat) (omega : W32) : State :=
  let x := cellX s t k
  let whole := decide (x.samples = (strX s t (mapString (rd s t (R.ARR_MAP + 4 * k)))).estN)
  let den := F32.add (F32.mul x.iRe x.iRe) (F32.mul x.iIm x.iIm)
  let re := F32.div (F32.add (F32.mul x.vRe x.iRe) (F32.mul x.vIm x.iIm)) den
  let im := F32.div (F32.sub (F32.mul x.vIm x.iRe) (F32.mul x.vRe x.iIm)) den
  let amp := F32.div (F32.mul F32.two (F32.sqrt den)) (F32.ofInt x.samples)
  let good := F32.le (F32.ofInt (rf s t R.ARR_EST_CFG_EST_IMIN)) amp && F32.lt im 0#32 && !(F32.isZero omega)
  let s := modCellX s t k (fun y => { y with iRe := 0, iIm := 0, vRe := 0, vIm := 0, samples := 0 })
  if !whole then s
  else if !good then wf s t (fo R.CELL_EST_STALE (256 * k)) 1
  else
    let c := F32.div 0xBF800000#32 (F32.mul (F32.mul F32.two omega) im)
    let tw := F32.mul (F32.ofInt x.samples) (tcycF s t)
    let tau := F32.ofInt (rf s t R.ARR_EST_CFG_EST_TAU)
    let seeded := flag s t (fo R.CELL_EST_VALID (256 * k))
    let put := fun s a v => wr s t (a + 256 * k) (if seeded then estStep (cw s t a k) v tau tw else v)
    let s := put (put s R.CELL_CAP c) R.CELL_ESR re
    let s := if seeded then s else modCellX s t k (fun y => { y with cap0 := c, esr0 := re })
    wf (wf s t (fo R.CELL_EST_STALE (256 * k)) 0) t (fo R.CELL_EST_VALID (256 * k)) 1

/-- ESTIMATOR_RESULT (R65). -/
def execEstimatorResult (t : Twin) (st : Fin 6) (s : State) : Out :=
  .next (if rf s t R.ARR_CTRL_EST_EN = 0 then s
    else modStrX ((strIn s t st.val [csActive]).foldl (fun s k => estCell s t k (strRef s t st.val).omega) s) t st.val
      (fun x => { x with estN := 0 }))

/-- IMBALANCE_DETECTED (R66 cause 5): an ACTIVE cell beyond DEV_PCT for DEV_CYCLES consecutive cycles. -/
def execImbalanceDetected (k : Fin 192) (s : State) : Out :=
  .next (onComputing (fun s t =>
    if cellSt s t k.val = csActive ∧ rf s t R.ARR_PLAUS_DEV_CYCLES ≤ (cellX s t k.val).dev
    then bypassCell s t k.val 5 else s) s)

/-- CELL_LOST_DETECTED (R66 cause 7): no valid uplink on either ring for N + 1 cycles. -/
def execCellLostDetected (k : Fin 192) (s : State) : Out :=
  .next (onComputing (fun s t =>
    if judged s t k.val ∧ rf s t R.ARR_TIMING_CMDLOSS + 2 ≤ (cellX s t k.val).miss
    then bypassCell s t k.val 7 else s) s)

/-- A host BYPASS of a cell (R66 cause 1, R73): without effect, and reporting success, on a cell without a slot or one
that already holds BYPASS. DEDUCED, unsafe: log entry 83. -/
def cellBypass (s : State) (k : Nat) : State :=
  say (onComputing (fun s t => if judged s t k then bypassCell s t k 1 else s) s) Rc.OK

/-- CELL_BYPASS (R66, R73). -/
def execCellBypass (k : Fin 192) (s : State) : Out := .next (cellBypass s k.val)

/-- BYPASS_UNCONFIRMED (R68): none of the CONFIRM frames F(n + 2) to F(n + 1 + CONFIRM) reported the bypass closed. -/
def execBypassUnconfirmed (k : Fin 192) (s : State) : Out :=
  .next (onComputing (fun s t =>
    match (cellX s t k.val).bypAt with
    | some n =>
      if cellSt s t k.val = csBypassing ∧ n + 1 + rf s t R.ARR_OXB_CONFIRM ≤ (s.tw t).arr.n
      then blockArray s t R.ARR_EVENT_BYPASS_UNCONFIRMED else s
    | none => s) s)

/-- The judgement of CELL_CTRL.INSERT (R69). -/
def insertCode (s : State) (t : Twin) (k : Nat) : Nat :=
  let w := rd s t (R.ARR_MAP + 4 * k)
  let c := cellSt s t k
  if mapRole w ≠ 2 ∨ (c ≠ csStandby ∧ c ≠ csCold) ∨ stringsUsed s t ≤ mapString w ∨ ¬ flag s t R.ARR_CTRL_ENABLE then
    Rc.NOT_SPARE
  else if flag s t R.ARR_STATUS_BLOCKED ∨ safeBlocked s t then Rc.SOURCE_ACTIVE
  else Rc.OK

/-- A host INSERT of a cell. -/
def cellInsert (s : State) (k : Nat) : State :=
  let code := insertCode s (asker s) k
  if code ≠ Rc.OK then say s code else onComputing (fun s t => insertAlone s t k) (say s Rc.OK)

/-- CELL_INSERT (R69). -/
def execCellInsert (k : Fin 192) (s : State) : Out := .next (cellInsert s k.val)

/-- SPARE_INSERT_START (R70): the spare waiting for its chain enters INSERTING once a ring of it is live. -/
def execSpareInsertStart (k : Fin 192) (s : State) : Out :=
  .next (onComputing (fun s t =>
    let c := mapChain (rd s t (R.ARR_MAP + 4 * k.val))
    if (cellX s t k.val).waits ∧ (ringLive s .a c ∨ ringLive s .b c) ∧ ¬ flag s t R.ARR_STATUS_BLOCKED ∧ ¬ safeBlocked s t
    then rerank (insertStart s t k.val none) t (mapString (rd s t (R.ARR_MAP + 4 * k.val))) else s) s)

/-- INSERT_TIMEOUT (R71): an INSERTING cell whose timeout has run, which it does not while run_s is 0, is bypassed with
cause 8 and the next spare selected. -/
def execInsertTimeout (k : Fin 192) (s : State) : Out :=
  .next (onComputing (fun s t =>
    if cellSt s t k.val = csInserting ∧ (strRef s t (mapString (rd s t (R.ARR_MAP + 4 * k.val)))).run
    then bypassCell (ev s t R.ARR_EVENT_INSERT_TIMEOUT) t k.val 8 else s) s)

/-- The judgement of CELL_CTRL.READMIT (R74). -/
def readmitCode (s : State) (t : Twin) (k : Nat) : Nat :=
  let st := mapString (rd s t (R.ARR_MAP + 4 * k))
  let spares := (mapList s t).filter (fun e => mapString e.2 == st && mapRole e.2 == 2 && e.1 != k)
  if cellSt s t k ≠ csBypassed then Rc.NOT_BYPASSED
  else if 4 ≤ spares.length then Rc.MAP_INVALID
  else Rc.OK

/-- READMIT in one twin (R74): STANDBY, or COLD on a cold chain, with role spare; its first STANDBY window carries
FAULT_RESET (R95). -/
def readmitOne (s : State) (t : Twin) (k : Nat) : State :=
  let w := rd s t (R.ARR_MAP + 4 * k)
  let s := wr s t (R.ARR_MAP + 4 * k) (putBits w 31 30 2)
  let cold := chainCold s t (mapChain w) && !(ringWarm s .a (mapChain w)) && !(ringWarm s .b (mapChain w))
  let s := setCellSt s t k (if cold then csCold else csStandby)
  showString (modCellX s t k (fun x => { x with faultReset := true, bypAt := none, miss := 0, dev := 0 })) t (mapString w)

/-- A host READMIT of a cell. -/
def cellReadmit (s : State) (k : Nat) : State :=
  let code := readmitCode s (asker s) k
  if code ≠ Rc.OK then say s code else onBoth (fun s t => readmitOne s t k) (say s Rc.OK)

/-- CELL_READMIT (R74). -/
def execCellReadmit (k : Fin 192) (s : State) : Out := .next (cellReadmit s k.val)

/-- DISPATCH_DEADLINE (R33, R35, R147): dispatch of the cycle has not completed; F(n+1) carries HOLD, the overrun is
counted, a third consecutive one withdraws the twin, and an eighth miss of a last twin stops safely. -/
def execDispatchDeadline (t : Twin) (s : State) : Out :=
  if !(computing s t) || (s.tw t).arr.dispatched || (s.tw t).arr.hold then .next s else
  let n := (s.tw t).arr.n
  let s1 := modArr s t (fun a => { a with hold := true, overN := some n })
  let s2 := evi (cnt (cnt s1 t R.TWN_OVERRUNS) t R.LAW_RG_OVR) t R.LAW_EVENT_OVR_RG 0
  let s3 := modTwn s2 t (fun x => { x with overrunRun := x.overrunRun + 1, missRun := x.missRun + 1 })
  let last := twState s t == tsLeading && twOther s t != tsFollowing
  let s4 := if last ∧ 8 ≤ (s3.tw t).twn.missRun then safeStop s3 t else s3
  .next (if 3 ≤ (s3.tw t).twn.overrunRun then withdraw s4 t 4 else s4)

end Sys2Proof.Machine
end

