-- ==== Sys2Proof/Machine/Streams.lean ====
section
/-! DEFINITION. The stream queues of 12_host_commands (R416 to R423) and their commands. -/

namespace Sys2Proof.Machine

/-- A queue. -/
def queue (s : State) (t : Twin) (q : Nat) : QueueSt := tabGet {} (s.tw t).queues q

/-- Replace a queue. -/
def setQueue (s : State) (t : Twin) (q : Nat) (x : QueueSt) : State :=
  s.setTw t { s.tw t with queues := tabSet {} (s.tw t).queues q x }

/-- A queue field and word. -/
def qf (f : Fld) (q : Nat) : Fld := fo f (64 * q)
def qa (a q : Nat) : Nat := a + 64 * q

/-- Words that a number of bytes fill, a partial one counting as one (R422). -/
def wordsOf (n : Nat) : Nat := (n + 15) / 16

/-- The level of a queue (R422). -/
def queueLevel (x : QueueSt) : Nat := wordsOf x.fill.length + wordsOf x.drain.length

/-- Store a queue and show its level: HI and LO live bits, their events on the crossings, CLOSED_WAIT (R422). -/
def putQueue (s : State) (t : Twin) (q : Nat) (x : QueueSt) : State :=
  let old := queueLevel (queue s t q)
  let new := queueLevel x
  let hi := rf s t (qf R.STQ_Q_MARKS_HI q)
  let lo := rf s t (qf R.STQ_Q_MARKS_LO q)
  let s := setQueue s t q x
  let s := wf (wf s t (qf R.STQ_Q_STATUS_LEVEL q) new) t (qf R.STQ_Q_STATUS_CLOSED_WAIT q) (bit (x.closed && !x.drain.isEmpty))
  let s := wf (wf s t (qf R.STQ_Q_STATUS_HI_LIVE q) (bit (decide (hi ≤ new)))) t (qf R.STQ_Q_STATUS_LO_LIVE q)
    (bit (decide (new ≤ lo)))
  let s := if old < hi ∧ hi ≤ new then ev s t (qf R.STQ_Q_EVENT_HI q) else s
  if lo < old ∧ new ≤ lo then ev s t (qf R.STQ_Q_EVENT_LO q) else s

/-- The banks exchange roles when the fill bank is closed and the drain bank empty (R417). -/
def exchange (s : State) (t : Twin) (q : Nat) : State :=
  let x := queue s t q
  if x.closed && x.drain.isEmpty then
    let s := wf s t (qf R.STQ_Q_STATUS_DRAIN q) (1 - rf s t (qf R.STQ_Q_STATUS_DRAIN q))
    putQueue s t q { x with drain := x.fill, fill := [], fillPos := 0, closed := false }
  else s

/-- The fill bank closes, and the banks exchange if they can. -/
def closeFill (s : State) (t : Twin) (q : Nat) : State :=
  exchange (putQueue s t q { queue s t q with closed := true }) t q

/-- The bytes of a bank. -/
def bankSize (s : State) (t : Twin) (q : Nat) : Nat := rf s t (qf R.STQ_Q_CFG_BANK q) * 1024

/-- A unit with its padding byte, parity good. -/
def padUnit (u : List Byte) : List (Byte × Bool) :=
  (if u.length % 2 = 0 then u else u ++ [0#8]).map (fun b => (b, false))

/-- One read word with its tag (R418, R419): the bytes, whether poisoned. `last` marks the last word of a bank. -/
def readUnit (w : List (Byte × Bool)) (last : Bool) : List Byte × Bool :=
  let bad := w.any (·.2)
  (w.map (·.1) ++ List.replicate (16 - w.length) 0#8
    ++ [BitVec.ofNat 8 (bit bad * 128 + bit last * 64 + w.length)], bad)

/-- Up to `n` read words from the front of a bank; `closed` says that the bank's last word is the last of a closed
bank. The words, the number poisoned, and the rest. -/
def takeWords : Nat → Bool → List (Byte × Bool) → List Byte × Nat × List (Byte × Bool)
  | 0, _, l => ([], 0, l)
  | n + 1, closed, l =>
    if l.isEmpty then ([], 0, l)
    else
      let rest := l.drop 16
      let r := readUnit (l.take 16) (closed && rest.isEmpty)
      let m := takeWords n closed rest
      (r.1 ++ m.1, bit r.2 + m.2.1, m.2.2)

/-- The publisher of R316 takes the words of a complete message out of a queue whose sink is SV (R421). DESIGN
CHOICE, safe: log entry 267. -/
def svTake (s : State) (t : Twin) (q : Nat) : State :=
  if rf s t (qf R.STQ_Q_CFG_SINK q) ≠ 2 then s
  else
    let x := queue s t q
    let k := wordsOf x.fill.length
    let s := wr s t (qa R.STQ_Q_SEQ q) (rd s t (qa R.STQ_Q_SEQ q) + BitVec.ofNat 32 k)
    let bad := (takeWords k true x.fill).2.1
    let s := if bad = 0 then s else ev (cntBy s t (qa R.STQ_Q_POISON q) bad) t (qf R.STQ_Q_EVENT_POISON q)
    putQueue (cntBy s t (qa R.STQ_Q_WORDS_OUT q) k) t q { x with fill := [], dropped := false }

/-- The halfwords of a stored unit that `bad` names hold a bad parity bit (R419). -/
def spoil (bad : List Nat) (p : List (Byte × Bool)) : List (Byte × Bool) :=
  (p.zip (List.range p.length)).map (fun x => (x.1.1, bad.contains (x.2 / 2)))

/-- A producer writes a padded unit (R417): into the fill bank, into the new one after an exchange, or dropped whole. -/
def queuePut (s : State) (t : Twin) (q : Nat) (p : List (Byte × Bool)) : State :=
  if rf s t (qf R.STQ_Q_CFG_EN q) = 0 then s
  else
    let size := bankSize s t q
    let add := fun (s : State) =>
      let x := queue s t q
      svTake (putQueue s t q { x with fill := x.fill ++ p, fillPos := x.fillPos + p.length }) t q
    let x := queue s t q
    if !x.closed && decide (x.fillPos + p.length ≤ size) then add s
    else
      let s := if x.fillPos = 0 then s else closeFill s t q
      let y := queue s t q
      if !y.closed && decide (y.fillPos + p.length ≤ size) then add s
      else
        let s := cnt (setQueue s t q { y with dropped := true }) t (qa R.STQ_Q_UNITS_DROPPED q)
        ev s t (qf R.STQ_Q_EVENT_DROP q)

/-- A producer writes a unit whose parity stays good. -/
def queueUnit (s : State) (t : Twin) (q : Nat) (u : List Byte) : State := queuePut s t q (padUnit u)

/-- QUEUE_UNIT_WRITE (R417, R419). -/
def execQueueUnitWrite (t : Twin) (q : Fin 6) (unit : StreamUnit) (s : State) : Out :=
  .next (queuePut s t q.val (spoil unit.bad (padUnit unit.bytes)))

/-- Whether a queue takes a unit at once: the fill bank has room for it, or the bank that an exchange gives does. -/
def hasRoom (s : State) (t : Twin) (q : Nat) (u : List Byte) : Bool :=
  let x := queue s t q
  let n := (padUnit u).length
  (!x.closed && decide (x.fillPos + n ≤ bankSize s t q)) || x.drain.isEmpty || rf s t (qf R.STQ_Q_CFG_EN q) == 0

/-- The rows of a dump go into the queue, oldest first, until one finds no room; the fill bank is then closed, and the row
waits for the sink to empty the drain bank (R414, R417). DESIGN CHOICE, unsafe: log entry 146. -/
def dumpRows (t : Twin) (q : Nat) : List (List Byte) → State → State
  | [], s => setQueue s t q { queue s t q with dump := [] }
  | u :: r, s =>
    if hasRoom s t q u then dumpRows t q r (queueUnit s t q u)
    else
      let s := if (queue s t q).closed then s else closeFill s t q
      setQueue s t q { queue s t q with dump := u :: r }

/-- A dump that waits for room goes on. -/
def dumpGo (s : State) (t : Twin) (q : Nat) : State :=
  if (queue s t q).dump.isEmpty then s else dumpRows t q (queue s t q).dump s

/-- BANK_EXCHANGE (R417). -/
def execBankExchange (t : Twin) (q : Fin 6) (s : State) : Out := .next (dumpGo (exchange s t q.val) t q.val)

/-- FLUSHED (R420): the flush time has run with the drain bank empty and the fill bank not. -/
def execFlushed (t : Twin) (q : Fin 6) (s : State) : Out :=
  let x := queue s t q.val
  .next (if x.drain.isEmpty && !x.fill.isEmpty && rf s t (qf R.STQ_Q_CFG_FLUSH_T q.val) != 0 then
      closeFill (cnt (ev s t (qf R.STQ_Q_EVENT_FLUSHED q.val)) t (qa R.STQ_Q_FLUSHES q.val)) t q.val
    else s)

/-- Deliver up to `n` words of the drain bank, or of the fill bank with `cut` (R421): the stream record and the state. -/
def deliverWords (s : State) (t : Twin) (q n : Nat) (cut : Bool) : List Byte × State :=
  let x := queue s t q
  let src := if cut then x.fill else x.drain
  let r := takeWords n (!cut) src
  let k := r.1.length / 17
  let seq := rd s t (qa R.STQ_Q_SEQ q)
  let y := if cut then { x with fill := r.2.2, dropped := false } else { x with drain := r.2.2, dropped := false }
  let s1 := cntBy (wr s t (qa R.STQ_Q_SEQ q) (seq + BitVec.ofNat 32 k)) t (qa R.STQ_Q_WORDS_OUT q) k
  let s2 := if r.2.1 = 0 then s1 else ev (cntBy s1 t (qa R.STQ_Q_POISON q) r.2.1) t (qf R.STQ_Q_EVENT_POISON q)
  let s3 := putQueue s2 t q y
  let flags := rf s3 t (qf R.STQ_Q_STATUS_HI_LIVE q) + 2 * rf s3 t (qf R.STQ_Q_STATUS_LO_LIVE q) + 4 * bit x.dropped
  let record := beBytes 1 t.index ++ beBytes 1 q ++ beBytes 2 k ++ beBytes 4 seq.toNat ++ beBytes 1 flags ++ beBytes 3 0 ++ r.1
  (record, dumpGo (exchange s3 t q) t q)

/-- The bytes of an ECP packet (R390, R391) under a key. -/
def ecpBytes (key : BitVec 256) (ctx opcode flags counter status info : Nat) (params : List Byte) : List Byte :=
  let m := beBytes 1 1 ++ beBytes 1 ctx ++ beBytes 1 opcode ++ beBytes 1 flags ++ beBytes 4 counter
    ++ beBytes 2 params.length ++ beBytes 2 status ++ beBytes 4 info ++ params
  m ++ (hmac256 key m).take 16

/-- EN = 0 (R423): the unread words of both banks are discarded and counted, and the queue goes idle. -/
def queueDisable (s : State) (t : Twin) (q : Nat) : State :=
  let n := queueLevel (queue s t q)
  let s := cntBy (ev s t (qf R.STQ_Q_EVENT_DISCARD q)) t (qa R.STQ_Q_DISCARDED q) n
  let s := if rf s t (qf R.STQ_Q_CFG_EN q) = 1 then
      wf s t R.STQ_ALLOC_ALLOC (rf s t R.STQ_ALLOC_ALLOC - 2 * rf s t (qf R.STQ_Q_CFG_BANK q))
    else s
  putQueue (wf (wf s t (qf R.STQ_Q_CFG_EN q) 0) t (qf R.STQ_Q_STATUS_ACTIVE q) 0) t q {}

/-- QUEUE_DISABLE (R423). -/
def execQueueDisable (t : Twin) (q : Fin 6) (s : State) : Out := .next (queueDisable (say s Rc.OK) t q.val)

/-- The judgement of EN = 1 (R423): the banks of the enabled queues within 256 KiB, Q5 with 2 KiB at least. -/
def queueEnableCode (s : State) (t : Twin) (q : Nat) : Nat :=
  let need := 2 * rf s t (qf R.STQ_Q_CFG_BANK q)
  if 256 < rf s t R.STQ_ALLOC_ALLOC + need ∨ (q = 5 ∧ need < 4) then Rc.PARAM_ORDER else Rc.OK

/-- EN = 1: an empty queue, its datagram counter from 1 (R421, R423). -/
def queueEnable (s : State) (t : Twin) (q : Nat) : State :=
  let s := wf s t R.STQ_ALLOC_ALLOC (rf s t R.STQ_ALLOC_ALLOC + 2 * rf s t (qf R.STQ_Q_CFG_BANK q))
  let s := wr (wf (wf s t (qf R.STQ_Q_CFG_EN q) 1) t (qf R.STQ_Q_STATUS_ACTIVE q) 1) t (qa R.STQ_Q_DGRAM q) 0
  putQueue s t q {}

end Sys2Proof.Machine
end

