-- ==== Sys2Proof/Machine/Adc.lean ====
section
/-! DEFINITION. Meanings of 08_measurement: triggers, sequences, results, windows, checks and calibration. -/

namespace Sys2Proof.Machine

/-- A converter field and word. -/
def cf (f : Fld) (q : Nat) : Fld := fo f (512 * q)
def ca (a q : Nat) : Nat := a + 512 * q

/-- A converter's state. -/
def conv (s : State) (t : Twin) (q : Nat) : ConvSt := tabGet {} (s.tw t).adc.convs q

/-- Change the measurement state of a twin. -/
def modAdc (s : State) (t : Twin) (f : AdcSt → AdcSt) : State := s.setTw t { s.tw t with adc := f (s.tw t).adc }

/-- Change a converter. -/
def modConv (s : State) (t : Twin) (q : Nat) (f : ConvSt → ConvSt) : State :=
  modAdc s t (fun a => { a with convs := tabMod {} a.convs q f })

/-- Change one of a converter's sequences. -/
def modSeq (s : State) (t : Twin) (q : Nat) (inj : Bool) (f : SeqSt → SeqSt) : State :=
  modConv s t q (fun c => if inj then { c with inj := f c.inj } else { c with reg := f c.reg })

/-- A sequence of a converter. -/
def seqSt (s : State) (t : Twin) (q : Nat) (inj : Bool) : SeqSt := if inj then (conv s t q).inj else (conv s t q).reg

/-- INTERLEAVE is set for a converter's pair (R288). -/
def interSet (s : State) (t : Twin) (q : Nat) : Bool := flag s t (cf R.ADC_C_RCFG_INTERLEAVE (q / 2 * 2))

/-- A pair runs interleaved: set so, and neither converter has failed (R288, R299). -/
def interleaved (s : State) (t : Twin) (q : Nat) : Bool :=
  let e := q / 2 * 2
  interSet s t q && !(biti s t R.ADC_STATUS_FAILED e) && !(biti s t R.ADC_STATUS_FAILED (e + 1))

/-- The partner of a converter. -/
def partner (q : Nat) : Nat := if q % 2 = 0 then q + 1 else q - 1

/-- The configuration word of result slot `e` (0 to 15 regular, 16 to 19 injected) of converter `q`. -/
def entryWord (s : State) (t : Twin) (q e : Nat) : W32 :=
  if e < 16 then rd s t (ca R.ADC_C_REG q + 4 * e) else rd s t (ca R.ADC_C_INJ q + 4 * (e - 16))

/-- The result register of slot `e`. -/
def resAddr (q e : Nat) : Nat := ca R.ADC_C_RES q + 4 * e

/-- Set flags in a result register and in the latest conversion that it holds (R283). -/
def markRes (s : State) (t : Twin) (p : Nat × Nat) (m : W32) : State :=
  modConv (wr s t (resAddr p.1 p.2) (rd s t (resAddr p.1 p.2) ||| m)) t p.1 (fun c => { c with
    hist := tabMod [] c.hist p.2 (fun l => match l with
      | [] => []
      | e :: r => (e.1, e.2 ||| m) :: r) })

/-- Mark a result STALE (R280). -/
def markStale (s : State) (t : Twin) (p : Nat × Nat) : State := markRes s t p 0x80000000#32

/-! AD edges and sampling instants (R273 to R275), in device time of 2^-16 ns. -/

/-- One AD clock, 12.5 ns. -/
def adClk : Int := 819200

/-- The first AD edge at or after a device time (R273): the edges lie at k × 12.5 ns + ALIGN steps. -/
def adEdge (s : State) (t : Twin) (x : Int) : Int :=
  let o : Int := 400 * rf s t R.ADC_GCFG_ALIGN
  o + (x - o + adClk - 1) / adClk * adClk

/-- The AD edge at which an uninterrupted run's first acquisition begins: the first at or after τ + DELAY (R275). -/
def seqEdge (s : State) (t : Twin) (q : Nat) (inj : Bool) : Int :=
  adEdge s t ((seqSt s t q inj).tau + 65536 * rf s t (cf (if inj then R.ADC_C_IDLY_DELAY else R.ADC_C_RDLY_DELAY) q))

/-- A conversion of kind `k` starts its acquisition of `acq` AD clocks at an AD edge and ends 12 clocks after it (R274). -/
def setFlight (s : State) (t : Twin) (q k : Nat) (start : Int) (acq : Nat) : State :=
  modConv s t q (fun c => { c with inFlight := k, ends := start + (acq + 12 : Nat) * adClk })

/-- The sampling instant of the conversion in flight: the end of its acquisition (R274). -/
def flightInst (s : State) (t : Twin) (q : Nat) : Int := (conv s t q).ends - 12 * adClk

/-- The entries a run of a sequence converts, in order, as (converter of the result register, slot); a partner's
remapped entries follow its own (R299). -/
def runList (s : State) (t : Twin) (q : Nat) (inj : Bool) : List (Nat × Nat) :=
  if inj then (List.range (rf s t (cf R.ADC_C_ICFG_LEN q) + 1)).map (fun e => (q, 16 + e))
  else
    let own := (List.range (min 16 (rf s t (cf R.ADC_C_RCFG_LEN q)))).map (fun e => (q, e))
    let p := partner q
    let more := if biti s t R.ADC_STATUS_REMAPPED p then
        ((List.range (min 16 (rf s t (cf R.ADC_C_RCFG_LEN p)))).filter (fun e => (entryWord s t p e).getLsbD 30)).map
          (fun e => (p, e))
      else []
    own ++ more

/-- The acquisition, in AD clocks, of the entry that a sequence converts next; an interleaved one is forced to 4 (R274,
R288). -/
def entryAcq (s : State) (t : Twin) (q : Nat) (inj : Bool) : Nat :=
  if !inj && interleaved s t q then 4
  else match (runList s t q inj)[(seqSt s t q inj).entry]? with
    | some p => bits (entryWord s t p.1 p.2) 23 18
    | none => 4

/-- Whether converter `q` may start a sequence: enabled (the injected one too), not failed, and not the partner of an
interleaved converter; nor is it the even one of a pair whose interleaving has stopped with its partner's failure (R299). -/
def seqOn (s : State) (t : Twin) (q : Nat) (inj : Bool) : Bool :=
  flag s t (cf R.ADC_C_CTRL_EN q) && (!inj || flag s t (cf R.ADC_C_CTRL_INJ_EN q)) && !(biti s t R.ADC_STATUS_FAILED q)
    && !(q % 2 == 1 && interleaved s t q) && !(q % 2 == 0 && interSet s t q && biti s t R.ADC_STATUS_FAILED (q + 1))

/-- The busy bit of a sequence: an injected run in progress, or a regular run or delay (R300). -/
def showBusy (s : State) (t : Twin) (q : Nat) (inj : Bool) : State :=
  let x := seqSt s t q inj
  let f := if inj then R.ADC_STATUS_INJ_BUSY else R.ADC_STATUS_REG_BUSY
  if x.run || (!inj && (x.delay || x.due)) then evi s t f q else clri s t f q

/-- The source code of a sequence (R278). -/
def seqSrc (s : State) (t : Twin) (q : Nat) (inj : Bool) : Nat :=
  if inj then rf s t (cf R.ADC_C_ICFG_SRC q) else rf s t (cf R.ADC_C_RCFG_SRC q)

/-- The PWM pair and compare register of a sequence's source (R278). -/
def seqPair (s : State) (t : Twin) (q : Nat) (inj : Bool) : Nat × Nat :=
  (rf s t (cf (if inj then R.ADC_C_ICFG_PAIR else R.ADC_C_RCFG_PAIR) q),
    rf s t (cf (if inj then R.ADC_C_ICFG_CMP else R.ADC_C_RCFG_CMP) q))

/-- The device time τ of a sequence's trigger (R275, R278): a multiple of the timer's period, the array cycle start, or the
instant of the PWM event; a software trigger's is the present instant. -/
def seqTau (s : State) (t : Twin) (q : Nat) (inj : Bool) : Int :=
  let p := seqPair s t q inj
  match seqSrc s t q inj with
  | 1 =>
    let per : Int := max 1 (rf s t (cf R.ADC_C_TIMER_TPER q)) * adClk
    devTime s t / per * per
  | 2 => cycleStartNs s t (s.tw t).arr.n * 65536
  | 3 => (pwm s p.1).b * 4096
  | 4 => (pwm s p.1).cmpT.getD p.2 0 * 4096
  | _ => devTime s t

/-- A trigger reaches a sequence (R275, R277, R280). -/
def adcTrigger (s : State) (t : Twin) (q : Nat) (inj : Bool) : State :=
  let x := seqSt s t q inj
  let stale := fun (s : State) => (runList s t q inj).foldl (fun s p => markStale s t p) s
  if !(seqOn s t q inj) then s
  else if flag s t R.ADC_STATUS_AD_UNLOCK then stale (cnt s t (ca R.ADC_C_TRIG_OVR q))
  else if x.delay || x.run || x.due then
    stale (evi (cnt s t (ca R.ADC_C_TRIG_OVR q)) t R.ADC_EVENT_TRIG_OVR q)
  else
    let tau := seqTau s t q inj
    let s := modSeq s t q inj (fun _ => { ({} : SeqSt) with delay := true, tau := tau })
    showBusy ((runList s t q inj).foldl (fun s p => modConv s t p.1 (fun c => { c with
      staleRun := c.staleRun.filter (fun e => e != 32 * p.1 + p.2) })) s) t q inj

/-- The rate group, counted from 1, that a sequence is bound to; 0 none (R279). -/
def seqBind (s : State) (t : Twin) (q : Nat) (inj : Bool) : Nat :=
  if inj then rf s t (cf R.ADC_C_ICFG_BIND q) else rf s t (cf R.ADC_C_RCFG_BIND q)

/-- The number of the latest event of a sequence's PWM source since its pair's start; 0 in a pair that does not run (R251,
R278). -/
def seqEvents (s : State) (t : Twin) (q : Nat) (inj : Bool) : Nat :=
  let p := seqPair s t q inj
  if !(running s p.1) then 0
  else if seqSrc s t q inj = 3 then (pwm s p.1).perN else (pwm s p.1).cmpN.getD p.2 0

/-- Whether a sequence's source fires (R278, R279): the array cycle start, for a bound sequence those that its
group's divider and phase take; every (DIV + 1)-th event of a PWM source, for a bound sequence every D-th of its
group. DEDUCED, unsafe: log entry 263. -/
def seqDue (s : State) (t : Twin) (q : Nat) (inj : Bool) : Bool :=
  let div := if inj then rf s t (cf R.ADC_C_ICFG_DIV q) else rf s t (cf R.ADC_C_RCFG_DIV q)
  let r := if seqBind s t q inj = 0 then none else (graph s t).bind (fun g => g.rgs[seqBind s t q inj - 1]?)
  match seqSrc s t q inj with
  | 2 => r.all (fun r => (s.tw t).arr.n % max 1 r.div == r.ph)
  | 3 | 4 =>
    let n := seqEvents s t q inj
    decide (0 < n) && n % (r.elim (div + 1) (fun r => max 1 r.div)) == 0
  | _ => false

/-- ADC_TRIGGER (R275, R278, R280): the regular sequence's source fires: the array cycle start, or a PWM event as divided. -/
def execAdcTrigger (t : Twin) (q : Fin 4) (s : State) : Out :=
  .next (if seqDue s t q.val false then adcTrigger s t q.val false else s)

/-- INJECTED_TRIGGER (R278, R281): the injected sequence's source fires. -/
def execInjectedTrigger (t : Twin) (q : Fin 4) (s : State) : Out :=
  .next (if seqDue s t q.val true then adcTrigger s t q.val true else s)

/-- ADC_TIMER_FIRE (R278). -/
def execAdcTimerFire (t : Twin) (q : Fin 4) (inj : Bool) (s : State) : Out :=
  .next (if seqSrc s t q.val inj = 1 then adcTrigger s t q.val inj else s)

/-- A software trigger of a sequence (R278). -/
def adcSoft (s : State) (t : Twin) (q : Nat) (inj : Bool) : State :=
  if seqSrc s t q inj = 5 then adcTrigger s t q inj else s

/-- RSW (R278). -/
def execRsw (t : Twin) (q : Fin 4) (s : State) : Out := .next (adcSoft (say s Rc.OK) t q.val false)

/-- ISW (R278). -/
def execIsw (t : Twin) (q : Fin 4) (s : State) : Out := .next (adcSoft (say s Rc.OK) t q.val true)

/-- At a sequence start committed coefficients develop, and the run takes those of the registers: a run never mixes
coefficients, so an interrupted regular run keeps its own (R291, R298). -/
def developCal (s : State) (t : Twin) (q : Nat) (inj : Bool) : State :=
  let s := ((conv s t q).commit).foldl (fun s e => wr s t (R.ADC_CAL + 64 * q + 4 * (e.1 % 16)) e.2) s
  let now : Tab W32 := (List.range 16).foldl (fun l i => tabSet 0#32 l i (rd s t (R.ADC_CAL + 64 * q + 4 * i))) []
  modSeq (modConv s t q (fun c => { c with commit := [] })) t q inj (fun x => { x with cal := now })

/-- AVG_EN clears (R293). -/
def avgOff (s : State) (t : Twin) : State :=
  if rf s t R.ADC_GCFG_AVG_EN = 1 then ev (wf s t R.ADC_GCFG_AVG_EN 0) t R.ADC_EVENT_AVG_OFF else s

/-- The array is enabled, or a channel has left OFF, READY and BLOCKED, which it does only into CATCH (R210, R293). -/
def avgEnds (s : State) (t : Twin) : Bool :=
  flag s t R.ARR_CTRL_ENABLE || [0, 1].any (fun d => !([0, 1, 5].contains (rf s t (fo R.DRV_D_STATE_STATE (256 * d)))))

/-- AVG_OFF (R293): the array is enabled or a channel has entered CATCH while AVG_EN is 1. -/
def execAvgOff (t : Twin) (s : State) : Out := .next (if avgEnds s t then avgOff s t else s)

/-- A run of a sequence begins converting at an AD edge, with the coefficients of its converter, an interleaved one of both; AVG_EN has
cleared first where it must, and holds for the run as it stands (R288, R291, R293). -/
def beginRun (s : State) (t : Twin) (q : Nat) (inj late : Bool) (start : Int) : State :=
  let s := if avgEnds s t then avgOff s t else s
  let s := developCal s t q inj
  let s := if !inj && interleaved s t q then developCal s t (partner q) false else s
  let avg := flag s t R.ADC_GCFG_AVG_EN
  let s := modSeq s t q inj (fun x => { x with
    delay := false, due := false, run := true, late := late, avg := avg, began := (s.tw t).tb })
  showBusy (setFlight s t q (if inj then 2 else 1) start (entryAcq s t q inj)) t q inj

/-- A sequence's delay ends: it begins at once on an idle converter, or waits for what is in flight (R281, R295). An
injected sequence that reaches an AD edge together with the regular one starts first, and the regular one waits (R281,
R298). -/
def startSeq (s : State) (t : Twin) (q : Nat) (inj : Bool) : State :=
  let c := conv s t q
  if !((if inj then c.inj else c.reg).delay) then s
  else if c.inFlight = 0 then beginRun s t q inj false (seqEdge s t q inj)
  else if inj ∧ c.inFlight = 1 ∧ c.reg.entry = 0 ∧ c.reg.conv = 0 ∧ c.reg.burst = 0 ∧ c.reg.began = (s.tw t).tb then
    beginRun (modSeq s t q false (fun x => { x with run := false, due := true })) t q true false (seqEdge s t q true)
  else modSeq s t q inj (fun x => { x with delay := false, due := true })

/-- ACQUISITION_START (R275, R281). -/
def execAcquisitionStart (t : Twin) (q : Fin 4) (inj : Bool) (s : State) : Out :=
  .next (if flag s t R.ADC_STATUS_AD_UNLOCK then s else startSeq s t q.val inj)

/-- What a converter does after a conversion: a waiting injection first, late where it waited for a check, then the
rest of the regular run, then the check conversion, then a regular run that waited (R281, R295). Nothing starts while
the AD PLL is out of lock (R277). DEDUCED, unsafe: log entry 264. -/
def nextFlight (s : State) (t : Twin) (q : Nat) : State :=
  let c := conv s t q
  if c.inj.due then
    modSeq (beginRun s t q true (c.inFlight == 3) (max (seqEdge s t q true) c.ends)) t q false
      (fun x => if x.run then { x with late := true } else x)
  else if c.inj.run then setFlight s t q 2 c.ends (entryAcq s t q true)
  else if c.reg.run then setFlight s t q 1 c.ends (entryAcq s t q false)
  else if c.chkDue && rf s t R.ADC_GCFG_REFCHK == 1 && !(flag s t R.ADC_STATUS_AD_UNLOCK) then
    setFlight (modConv s t q (fun c => { c with chkDue := false })) t q 3 c.ends 4
  else if c.reg.due then beginRun s t q false true (max (seqEdge s t q false) c.ends)
  else modConv s t q (fun c => { c with inFlight := 0, chkDue := false })

/-- The corrected code of R290 by the coefficients of a run, whether it clamped, and whether no calibration holds. -/
def correct (cal : Tab W32) (input raw : Nat) : Nat × Bool × Bool :=
  if 16 ≤ input then (raw, false, false)
  else
    let w := tabGet 0#32 cal input
    let g : Int := bits w 31 16
    let o : Int := (BitVec.ofNat 16 (bits w 15 0)).toInt
    if g = 0 then (raw, false, true)
    else
      let v := ((16 * (raw : Int) - o) * g + 262144) / 524288
      ((max 0 (min 65535 v)).toNat, decide (v < 0) || decide (65535 < v), false)

/-- The window comparator of R294 on a code: the new WIN_OUT. -/
def windowOut (s : State) (t : Twin) (p : Nat × Nat) (code : Nat) : Bool :=
  if !((entryWord s t p.1 p.2).getLsbD 29) then false
  else
    let w := rd s t (ca R.ADC_C_WIN p.1 + 4 * p.2)
    let hi := bits w 31 16
    let lo := bits w 15 0
    let h := rf s t (cf R.ADC_C_WHYST_WHYST p.1)
    if hi < code ∨ code < lo then true
    else if lo + h ≤ code ∧ code + h ≤ hi then false
    else (rd s t (resAddr p.1 p.2)).getLsbD 26

/-- The conversions that a result register's history keeps: those within two array cycles before the newest, and the one
before them (R286). -/
def histTrim (now lim : Nat) : List (Nat × W32) → List (Nat × W32)
  | [] => []
  | e :: r => e :: (if tribDiff e.1 now + lim < 0 then [] else histTrim now lim r)

/-- The latest conversion of a result register is noted with its sampling instant (R286). -/
def noteConv (s : State) (t : Twin) (p : Nat × Nat) (inst : Nat) (w : W32) : State :=
  let lim := 2 * cyc16 s t
  modConv s t p.1 (fun c => { c with hist := tabMod [] c.hist p.2 (fun l => histTrim inst lim ((inst, w) :: l)) })

/-- A result whose crossing does not settle: the reader keeps the word it had, the event counts, and the copy is invalid
(R25, R283). -/
def unsettledResult (s : State) (t : Twin) (p : Nat × Nat) (inst : Nat) : State :=
  let w := rd s t (resAddr p.1 p.2) ||| 0x80000000#32
  cnt (noteConv (modConv s t p.1 (fun c => { c with unset := p.2 :: c.unset.filter (· != p.2) })) t p inst w)
    t (R.CLK_XING_UNSETTLED + 8)

/-- Write a result with its flags; a code that leaves its band sets the event and is recorded (R282, R294). -/
def writeResult (s : State) (t : Twin) (p : Nat × Nat) (code : Nat) (lim avg remap none late : Bool) (inst : Nat) : State :=
  let out := windowOut s t p code
  let was := (rd s t (resAddr p.1 p.2)).getLsbD 26
  let w := BitVec.ofNat 32 (bit lim * 2 ^ 30 + bit avg * 2 ^ 28 + bit remap * 2 ^ 27 + bit out * 2 ^ 26
    + bit none * 2 ^ 25 + bit late * 2 ^ 24 + code % 2 ^ 24)
  let s := wr s t (resAddr p.1 p.2) w
  let s := noteConv (modConv s t p.1 (fun c => { c with unset := c.unset.filter (· != p.2) })) t p inst w
  if out ∧ !was then
    wf (wf (evi s t R.ADC_EVENT_WIN p.1) t R.ADC_WIN_LAST_CONV p.1) t R.ADC_WIN_LAST_ENTRY p.2
  else s

/-- The raw-stream unit of a run (R287). -/
def streamUnit (q : Nat) (inj : Bool) (stamp : Nat) (codes : List Nat) : List Byte :=
  beBytes 2 (0xA500 + q * 64 + bit inj * 32 + codes.length % 32) ++ beBytes 6 stamp ++ codes.flatMap (fun c => beBytes 2 (c % 65536))

/-- A run ends (R287): stamp, run count, the raw-stream words, and the check that follows a regular run. -/
def seqEnd (s : State) (t : Twin) (q : Nat) (inj : Bool) : State :=
  let x := seqSt s t q inj
  let runsF := if inj then cf R.ADC_C_I_RUNS_I_RUNS q else cf R.ADC_C_R_RUNS_R_RUNS q
  let hiF := if inj then cf R.ADC_C_I_RUNS_I_STAMP_HI q else cf R.ADC_C_R_RUNS_R_STAMP_HI q
  let loA := if inj then ca R.ADC_C_I_STAMP_LO q else ca R.ADC_C_R_STAMP_LO q
  let s := wr (wf (wf s t runsF (rf s t runsF + 1)) t hiF (x.stamp / 4294967296)) t loA (BitVec.ofNat 32 (x.stamp % 4294967296))
  let s := if x.codes.isEmpty then s else queueUnit s t q (streamUnit q inj x.stamp x.codes)
  let s := modSeq s t q inj (fun _ => {})
  nextFlight (showBusy (if inj then s else modConv s t q (fun c => { c with chkDue := true })) t q inj) t q

/-- One conversion of an entry in a run of converter `q` (R274, R290, R293). -/
def takeConversion (s : State) (t : Twin) (q : Nat) (inj : Bool) (raw inst : Nat) (settled : Bool) : State :=
  let x := seqSt s t q inj
  let l := runList s t q inj
  match l[x.entry]? with
  | none => seqEnd s t q inj
  | some p =>
    let w := entryWord s t p.1 p.2
    let r := correct x.cal (bits w 28 24) raw
    let avg := if x.avg then min 8 (bits w 17 14) else 0
    let lim := x.limit || r.2.1 || raw == 0 || raw == 65535
    let sum := x.sum + r.1
    let stamp := if x.entry = 0 ∧ x.conv = 0 then inst else x.stamp
    if x.conv + 1 < 2 ^ avg ∧ x.cut then
      nextFlight (showBusy (modSeq (markStale s t p) t q inj (fun _ => {})) t q inj) t q
    else if x.conv + 1 < 2 ^ avg then
      nextFlight (modSeq s t q inj (fun x => { x with conv := x.conv + 1, sum := sum, limit := lim, stamp := stamp })) t q
    else
      let code := if avg = 0 then r.1 else sum / 2 ^ bits w 13 10
      let remap := p.1 != q
      let s := if settled then writeResult s t p code lim (avg != 0) remap r.2.2 (x.late || remap) inst
        else unsettledResult s t p inst
      let codes := if w.getLsbD 31 then x.codes ++ [code] else x.codes
      let s := modSeq s t q inj (fun x => { x with
        entry := x.entry + 1, conv := 0, sum := 0, limit := false, codes := codes, stamp := stamp })
      if x.entry + 1 = l.length then seqEnd s t q inj
      else if x.cut then nextFlight (showBusy (modSeq s t q inj (fun _ => {})) t q inj) t q
      else nextFlight s t q

/-- The sampling instant of an interleaved sample (R288, R289): samples lie 100 ns apart, the partner's offset by its SKEW in
steps of R273. -/
def interInst (s : State) (t : Twin) (q e : Nat) : Int :=
  let skew := BitVec.ofNat 16 (rf s t (if e = 0 then R.ADC_SKEW_SKEW1 else R.ADC_SKEW_SKEW3))
  flightInst s t e + (if q = e then 0 else 400 * max (-127) (min 127 skew.toInt))

/-- One sample of an interleaved burst (R288): converter `q` of the pair of the even converter `e`. -/
def takeInterleaved (s : State) (t : Twin) (q e raw : Nat) (settled : Bool) : State :=
  let x := seqSt s t e false
  let inst := tribTime (interInst s t q e)
  let w := entryWord s t e 0
  let r := correct (seqSt s t q false).cal (bits w 28 24) raw
  let s := if settled then writeResult s t (e, 0) r.1 (r.2.1 || raw == 0 || raw == 65535) false false r.2.2 x.late inst
    else unsettledResult s t (e, 0) inst
  let stamp := if x.burst = 0 then inst else x.stamp
  let s := modSeq s t e false (fun x => { x with
    burst := x.burst + 1, stamp := stamp, codes := if w.getLsbD 31 then x.codes ++ [r.1] else x.codes })
  if rf s t (cf R.ADC_C_RDLY_BURST e) ≤ x.burst + 1 then seqEnd s t e false
  else if x.cut then nextFlight (showBusy (modSeq s t e false (fun _ => {})) t e false) t e
  else modConv s t e (fun c => { c with ends := c.ends + 8 * adClk })

/-- CONVERSION_COMPLETE (R274, R281, R282, R288, R297): the conversion in flight on converter `q` ends with a raw code; `at'`
says whether its result settled. Interleaved converters sample in turn, the even one first, and the odd one's own sequences
are suspended. The result of a conversion that was cut off by a disable is discarded. -/
def execConversionComplete (t : Twin) (q : Fin 4) (raw : BitVec 16) (at' : SampleAt) (s : State) : Out :=
  let e := q.val / 2 * 2
  .next (crossIn s t 1 (fun s =>
    if interleaved s t q.val && (conv s t e).reg.run then
      if q.val = e + (conv s t e).reg.burst % 2 then takeInterleaved s t q.val e raw.toNat at'.settled else s
    else if interleaved s t q.val && q.val != e then s
    else match (conv s t q.val).inFlight with
      | 1 => takeConversion s t q.val false raw.toNat (tribTime (flightInst s t q.val)) at'.settled
      | 2 => takeConversion s t q.val true raw.toNat (tribTime (flightInst s t q.val)) at'.settled
      | 4 => nextFlight s t q.val
      | _ => s))

/-- The channel of a converter's next check (R295): 0 REFMID, 1 REFGND, 2 TESTV. DEDUCED, unsafe: log entry 134. -/
def checkChannel (s : State) (t : Twin) (n : Nat) : Nat := if twState s t = tsLeading then n % 2 else n % 3

/-- CHECK_CONVERSION (R295, R296): the code goes to CHK, and deviations from the value at the last COMMIT count. -/
def execCheckConversion (t : Twin) (q : Fin 4) (raw : BitVec 16) (s : State) : Out :=
  let c := conv s t q.val
  if c.inFlight ≠ 3 then .next s
  else .next (crossIn s t 1 (fun s =>
    let ch := checkChannel s t c.chkNext
    let ref := tabGet 0 c.chkRef ch
    let dev := ((raw.toNat : Int) - (ref - 1 : Nat)).natAbs
    let bad := ref != 0 && decide (rf s t R.ADC_REF_TOL_TOL < dev)
    let lim := raw.toNat == 0 || raw.toNat == 65535
    let s := wr s t (ca R.ADC_C_CHK q.val) (BitVec.ofNat 32 (bit lim * 2 ^ 30 + raw.toNat))
    let s := modConv s t q.val (fun c => { c with
      chkNext := c.chkNext + 1, chkLast := tabSet 0 c.chkLast ch (raw.toNat + 1)
      chkBad := tabMod 0 c.chkBad ch (fun n => if bad then n + 1 else 0) })
    nextFlight s t q.val))

/-- A sequence as no conversion starts any more (R277): the conversion in flight is its last, and the entries that no
conversion in flight serves are STALE. DEDUCED, unsafe: log entry 265. -/
def cutSeq (s : State) (t : Twin) (q : Nat) (inj : Bool) : State :=
  let c := conv s t q
  let x := seqSt s t q inj
  let l := runList s t q inj
  let stale := fun (l : List (Nat × Nat)) => l.foldl (fun s p => markStale s t p) s
  if x.run && c.inFlight == (if inj then 2 else 1) then
    modSeq (stale (l.drop (x.entry + 1))) t q inj (fun x => { x with cut := true })
  else if x.delay || x.run || x.due then showBusy (modSeq (stale (l.drop x.entry)) t q inj (fun _ => {})) t q inj
  else s

/-- The AD PLL is out of lock (R277). -/
def adUnlock (s : State) (t : Twin) : State :=
  let s := ev (wf s t R.ADC_STATUS_AD_UNLOCK 1) t R.ADC_EVENT_AD_UNLOCK
  (List.range 4).foldl (fun s q => modConv (cutSeq (cutSeq s t q false) t q true) t q (fun c => { c with chkDue := false })) s

/-- AD_UNLOCK (R277). -/
def execAdUnlock (t : Twin) (s : State) : Out := .next (adUnlock s t)

/-- A sequence ends early (R297): the conversion in flight is discarded, and the entries of a run that are not yet converted
are STALE; a pending delay ends without conversion. -/
def abandonSeq (s : State) (t : Twin) (q : Nat) (inj : Bool) : State :=
  let x := seqSt s t q inj
  let l := runList s t q inj
  let flight := (conv s t q).inFlight == (if inj then 2 else 1)
  let s := if x.run || x.due then
      match flight, l[x.entry]? with
      | true, some p =>
        let s := markRes s t p 0x20000000#32
        let s := evi (cnt s t (ca R.ADC_C_DISCARDS q)) t R.ADC_EVENT_DISCARD q
        (l.drop (x.entry + 1)).foldl (fun s p => markStale s t p) s
      | _, _ => (l.drop x.entry).foldl (fun s p => markStale s t p) s
    else s
  showBusy (modSeq s t q inj (fun _ => {})) t q inj

/-- EN = 0 of a converter: both its sequences end, and a conversion in flight completes without a result. -/
def adcDisable (s : State) (t : Twin) (q : Nat) : State :=
  let s := abandonSeq (abandonSeq s t q false) t q true
  let s := modConv s t q (fun c => { c with inFlight := if c.inFlight = 0 then 0 else 4, chkDue := false })
  let s := clri (clri s t R.ADC_STATUS_REG_BUSY q) t R.ADC_STATUS_INJ_BUSY q
  clri (wf s t (cf R.ADC_C_CTRL_EN q) 0) t R.ADC_STATUS_ENABLED q

/-- ADC_DISABLE (R297). -/
def execAdcDisable (t : Twin) (q : Fin 4) (s : State) : Out := .next (adcDisable (say s Rc.OK) t q.val)

/-- INJ_EN = 0: the injected sequence ends, and the regular one resumes when a conversion in flight has completed without a
result (R281, R297). -/
def injDisable (s : State) (t : Twin) (q : Nat) : State :=
  let s1 := wf (abandonSeq s t q true) t (cf R.ADC_C_CTRL_INJ_EN q) 0
  modConv s1 t q (fun c => { c with inFlight := if c.inFlight = 2 then 4 else c.inFlight })

/-- INJ_DISABLE (R297). -/
def execInjDisable (t : Twin) (q : Fin 4) (s : State) : Out := .next (injDisable (say s Rc.OK) t q.val)

/-- Whether two converters' regular sequences have the same source, pair, compare, divider, binding and delay (R299). -/
def sameTrigger (s : State) (t : Twin) (q p : Nat) : Bool :=
  let f := fun i => [rf s t (cf R.ADC_C_RCFG_SRC i), rf s t (cf R.ADC_C_RCFG_PAIR i), rf s t (cf R.ADC_C_RCFG_CMP i),
    rf s t (cf R.ADC_C_RCFG_DIV i), rf s t (cf R.ADC_C_RCFG_BIND i), rf s t (cf R.ADC_C_RDLY_DELAY i)]
  f q == f p

/-- CONVERTER_FAIL (R296, R298, R299): three consecutive checks of one channel out of tolerance, or a conversion that
does not complete; the converter stops, its entries are STALE, and its partner takes over those with REMAP. -/
def execConverterFail (t : Twin) (q : Fin 4) (timeout : Bool) (s : State) : Out :=
  let c := conv s t q.val
  if !(timeout || c.chkBad.any (fun e => decide (3 ≤ e.2))) || biti s t R.ADC_STATUS_FAILED q.val then .next s
  else
    let all := runList s t q.val false ++ runList s t q.val true
    let s := all.foldl (fun s p => markStale s t p) s
    let s := evi (evi s t R.ADC_STATUS_FAILED q.val) t R.ADC_EVENT_FAILED q.val
    let s := modConv s t q.val (fun c => { c with reg := {}, inj := {}, inFlight := 0, chkDue := false })
    let e := q.val / 2 * 2
    let s := if interSet s t q.val then
        modConv (modSeq (markStale s t (e, 0)) t e false (fun _ => {})) t e (fun c => { c with inFlight := 0, chkDue := false })
      else s
    let s := showBusy (showBusy (showBusy s t e false) t q.val false) t q.val true
    let s := clri s t R.ADC_STATUS_REMAPPED (partner q.val)
    let remap := sameTrigger s t q.val (partner q.val) && !(biti s t R.ADC_STATUS_FAILED (partner q.val))
      && (List.range (rf s t (cf R.ADC_C_RCFG_LEN q.val))).any (fun i => (entryWord s t q.val i).getLsbD 30)
    .next (if remap then evi s t R.ADC_STATUS_REMAPPED q.val else s)

/-- The sequence has a run in its delay or converting. -/
def seqBusy (s : State) (t : Twin) (q : Nat) (inj : Bool) : Bool :=
  let x := seqSt s t q inj
  x.delay || x.run || x.due

/-- The entries of a sequence's run not yet converted, as 32 × converter + slot. -/
def toConvert (s : State) (t : Twin) (q : Nat) (inj : Bool) : List Nat :=
  ((runList s t q inj).drop (seqSt s t q inj).entry).map (fun p => 32 * p.1 + p.2)

/-- AGREEMENT_WAIT_LIMIT (R286): the entries of a bound sequence not yet converted count as STALE for the run.
DESIGN CHOICE, unsafe: log entry 147. -/
def execAgreementWaitLimit (t : Twin) (q : SeqPoint) (s : State) : Out :=
  let k := q.conv.val
  .next (if seqBind s t k q.inj ≠ 0 ∧ seqBusy s t k q.inj then
      (toConvert s t k q.inj).foldl (fun s e => modConv s t (e / 32) (fun c => { c with staleRun := c.staleRun ++ [e] })) s
    else s)

/-- Whether a run of group `k` needs to wait for no sequence bound to it in twin `t` any longer (R286): none is busy but
those whose limit has passed. -/
def boundDone (s : State) (t : Twin) (k : Nat) : Bool :=
  (List.range 4).all (fun q => [false, true].all (fun inj =>
    seqBind s t q inj != k + 1 || !(seqBusy s t q inj)
      || (toConvert s t q inj).all (fun e => (conv s t (e / 32)).staleRun.contains e)))

/-- No conversion that a run of group `k` with trigger time `trig` waits for is in flight in twin `t` (R286): one of a sequence
not bound to the group that was sampled at or before the trigger. -/
def flightsDone (s : State) (t : Twin) (k trig : Nat) : Bool :=
  (List.range 4).all (fun q =>
    let f := (conv s t q).inFlight
    !(f == 1 || f == 2) || seqBind s t q (f == 2) == k + 1 || decide (0 < tribDiff (tribTime (flightInst s t q)) trig))

/-! The copies a run takes (R283 to R286). -/

/-- The result word that a run of group `k` with trigger at Tributary time `trig` takes for a sequence-entry
reference; none for no entry. -/
def adcWord (s : State) (t : Twin) (k trig ref : Nat) : Option W32 :=
  if 128 ≤ ref then none
  else
    let q := ref / 16 % 4
    let inj := ref / 64 == 1
    let e := if inj then 16 + ref % 16 else ref % 16
    let now := rd s t (resAddr q e)
    let c := conv s t q
    if seqBind s t q inj = k + 1 then
      some (if c.staleRun.contains (32 * q + e) ∨ c.unset.contains e then now ||| 0x80000000#32 else now)
    else
      match (tabGet [] c.hist e).find? (fun h => decide (tribDiff h.1 trig ≤ 0)) with
      | some h => some h.2
      | none => some 0x80000000#32

/-- Whether a result word is a valid copy (R283). -/
def adcValid (w : W32) : Bool := !(w.getLsbD 31) && !(w.getLsbD 30) && !(w.getLsbD 29)

/-- The value of an entry (R284). -/
def adcValue (s : State) (t : Twin) (ref : Nat) (w : W32) : W32 :=
  let q := ref / 16 % 4
  let e := if ref / 64 == 1 then 16 + ref % 16 else ref % 16
  F32.fma (rd s t (ca R.ADC_C_SCALE q + 8 * e)) (F32.ofInt (bits w 23 0)) (rd s t (ca R.ADC_C_OFS q + 8 * e))

/-! Calibration. -/

/-- The converters of MASK. -/
def calMask (s : State) (t : Twin) : List Nat := (List.range 4).filter (biti s t R.ADC_CAL_CTRL_MASK)

/-- A measuring step fails (R291, R292). -/
def calFail (s : State) (t : Twin) (result code : Nat) : State :=
  say (ev (wf s t R.ADC_CAL_STATUS_RESULT result) t R.ADC_EVENT_CAL_FAIL) code

/-- A zero or full-scale step fails with CAL_RANGE and leaves nothing latent (R291). -/
def calRange (s : State) (t : Twin) : State :=
  let s := modAdc (wf s t R.ADC_CAL_STATUS_PENDING 0) t (fun a => { a with lat := [], latSkew := [] })
  calFail s t 1 Rc.CAL_RANGE

/-- A granted measuring step begins; SKEW sets TESTV to ramp mode (R292). -/
def calRun (s : State) (t : Twin) : State :=
  let s := wf s t R.ADC_CAL_STATUS_BUSY 1
  if (s.tw t).adc.step = 3 then wf s t R.ADC_TESTV_MODE 1 else s

/-- A measuring step is requested (R291): refused with CAL_BUSY while a converter of MASK is enabled; otherwise it asks
for leave and runs once granted. -/
def calStep (s : State) (t : Twin) (step : Nat) : State :=
  if (calMask s t).any (fun q => biti s t R.ADC_STATUS_ENABLED q) then
    say (wf s t R.ADC_CAL_STATUS_RESULT 2) Rc.CAL_BUSY
  else if step = 2 ∧ !(flag s t R.ADC_CAL_STATUS_HAVE_ZERO) then calRange s t
  else
    let s := leaveAsk (say s Rc.OK) 3 t true 0
    if s.report ≠ Rc.OK then s
    else
      let s := modAdc s t (fun a => { a with step := step })
      if leaveHeld s 3 t then calRun s t else s

/-- STEP_ZERO (R291 step 2). -/
def execStepZero (t : Twin) (s : State) : Out := .next (calStep s t 1)

/-- STEP_FULL (R291 step 3). -/
def execStepFull (t : Twin) (s : State) : Out := .next (calStep s t 2)

/-- SKEW (R292): TESTV ramps and an interleaved burst runs on each pair of MASK. -/
def execSkew (t : Twin) (s : State) : Out := .next (calStep s t 3)

/-- a ÷ b rounded half to even. -/
def divRne (a b : Int) : Int :=
  if b = 0 then 0
  else
    let (a, b) := if b < 0 then (-a, -b) else (a, b)
    let q := a / b
    let r2 := 2 * (a % b)
    if b < r2 ∨ (r2 = b ∧ q % 2 = 1) then q + 1 else q

/-- G and O of R291 from the sums; none out of range. -/
def calCoef (s : State) (t : Twin) (mz mf : Nat) : Option W32 :=
  let z : Int := rf s t R.ADC_CAL_TGT_ZERO
  let f : Int := rf s t R.ADC_CAL_TGT_FULL
  let d : Int := (mf : Int) - mz
  let g := divRne (8388608 * (f - z)) d
  if d = 0 ∨ g < 16384 ∨ 65535 < g then none
  else
    let o := divRne (mz * g - z * 8388608) (16 * g)
    if o < -32768 ∨ 32767 < o then none
    else some (BitVec.ofNat 32 (g.toNat * 65536 + (o % 65536).toNat))

/-- SKEW of one pair from its burst in time order, even sample first (R292): −Δ × 32 768 ÷ k rounded half to even,
with k the least-squares slope of the even samples; none beyond ±127. -/
def skewOf (burst : List W32) : Option W32 :=
  let n := burst.length / 2
  let at' := fun i => ((burst.getD i 0).toNat : Int)
  let ev := (List.range n).map (fun j => at' (2 * j))
  let sx : Int := ((List.range n).map (fun (j : Nat) => (j : Int))).sum
  let sxx : Int := ((List.range n).map (fun (j : Nat) => (j : Int) * j)).sum
  let sy := ev.sum
  let sxy := ((List.range n).map (fun (j : Nat) => (j : Int) * at' (2 * j))).sum
  let num := n * sxy - sx * sy
  let den := n * sxx - sx * sx
  let m : Nat := n - 1
  let delta2 := ((List.range m).map (fun j => 2 * at' (2 * j + 1) - at' (2 * j) - at' (2 * j + 2))).sum
  if num = 0 ∨ m = 0 then none
  else
    let v := divRne (-(delta2 * 32768 * den)) (2 * m * num)
    if v < -127 ∨ 127 < v then none else some (BitVec.ofNat 32 (v % 65536).toNat)

/-- The pairs of MASK, by their even converter. DEDUCED, unsafe: log entry 135. -/
def maskPairs (s : State) (t : Twin) : List Nat :=
  [0, 2].filter (fun e => (calMask s t).contains e || (calMask s t).contains (e + 1))

/-- CAL_MEASURE_END (R291, R292): the measurement of the step in progress completes. `data` gives for each converter
of MASK its sum of 256 conversions, or for each pair of MASK its burst; `clipped` a conversion of 0 or 65 535. -/
def execCalMeasureEnd (t : Twin) (data : List (List W32)) (clipped : Bool) (s : State) : Out :=
  if rf s t R.ADC_CAL_STATUS_BUSY = 0 then .next s
  else .next (crossIn s t 1 (fun s =>
    let step := (s.tw t).adc.step
    let s := modAdc (leaveEnd (wf s t R.ADC_CAL_STATUS_BUSY 0) 3 t) t (fun a => { a with step := 0 })
    let qs := (calMask s t).zip data
    let i := rf s t R.ADC_CAL_CTRL_INPUT
    let sum := fun (l : List W32) => (l.headD 0).toNat
    if step = 3 then
        let r := ((maskPairs s t).zip data).map (fun p => (p.1 + 1, skewOf p.2))
        if r.any (fun p => p.2.isNone) then calFail s t 4 Rc.SKEW_RANGE
        else
          let s := modAdc s t (fun a => { a with latSkew := r.foldl (fun l p => tabPut true l p.1 (p.2.getD 0)) a.latSkew })
          wf (wf s t R.ADC_CAL_STATUS_RESULT 0) t R.ADC_CAL_STATUS_PENDING 1
      else if clipped then calRange s t
      else if step = 1 then
        let s := modAdc s t (fun a => { a with zero := qs.foldl (fun l p => tabPut true l p.1 (sum p.2)) [] })
        wf (wf s t R.ADC_CAL_STATUS_RESULT 0) t R.ADC_CAL_STATUS_HAVE_ZERO 1
      else
        let r := qs.map (fun p => (p.1, calCoef s t (tabGet 0 (s.tw t).adc.zero p.1) (sum p.2)))
        if r.any (fun p => p.2.isNone) then calRange s t
        else
          let s := modAdc s t (fun a => { a with
            lat := r.foldl (fun l p => tabPut true l (16 * p.1 + i) (p.2.getD 0)) a.lat })
          ev (wf (wf s t R.ADC_CAL_STATUS_RESULT 0) t R.ADC_CAL_STATUS_PENDING 1) t R.ADC_EVENT_CAL_DONE))

/-- The calibration of a twin as its boot flash keeps it: 16 × converter + input, and 65 and 67 for SKEW1 and SKEW3. -/
def calFlash (s : State) (t : Twin) : Tab W32 :=
  let l := (List.range 64).foldl (fun l k => tabSet 0#32 l k (rd s t (R.ADC_CAL + 64 * (k / 16) + 4 * (k % 16)))) []
  let l := (List.range 4).foldl (fun l q => (conv s t q).commit.foldl (fun l e => tabSet 0#32 l (16 * q + e.1) e.2) l) l
  tabSet 0#32 (tabSet 0#32 l 65 (BitVec.ofNat 32 (rf s t R.ADC_SKEW_SKEW1))) 67 (BitVec.ofNat 32 (rf s t R.ADC_SKEW_SKEW3))

/-- The granted flash write of a commit. DESIGN CHOICE, unsafe: log entry 137. -/
def calWrite (s : State) (t : Twin) : State := modFlash s t (fun f => { f with cal := calFlash s t })

/-- COMMIT (R291 step 4, R292, R295): the latent coefficients develop at each converter's next sequence start, SKEW at
once; the checks' reference values are taken, and the boot flash is written under leave (argument 2).
DEDUCED, unsafe: log entry 136. -/
def execCommit (t : Twin) (flashOk : Bool) (s : State) : Out :=
  if rf s t R.ADC_CAL_STATUS_PENDING = 0 then .next (say s Rc.OK)
  else
    let a := (s.tw t).adc
    let s := a.lat.foldl (fun s e => modConv s t (e.1 / 16) (fun c => { c with commit := tabPut true c.commit (e.1 % 16) e.2 })) s
    let s := a.latSkew.foldl (fun s e =>
      wf s t (if e.1 = 1 then R.ADC_SKEW_SKEW1 else R.ADC_SKEW_SKEW3) e.2.toNat) s
    let s := (List.range 4).foldl (fun s q => modConv s t q (fun c => { c with
      chkRef := c.chkLast.foldl (fun l e => tabSet 0 l e.1 e.2) c.chkRef, chkBad := [] })) s
    let s := modAdc (wf s t R.ADC_CAL_STATUS_PENDING 0) t (fun a => { a with lat := [], latSkew := [] })
    let s := leaveAsk (say s Rc.OK) 5 t true 2
    .next (if leaveHeldFor s 5 t 2 then (if flashOk then leaveEndFor (calWrite s t) 5 t 2 else say (leaveEndFor s 5 t 2) Rc.FLASH_FAIL) else s)

/-- ABORT (R291): the step in progress is discarded and its leave returns. -/
def execAbort (t : Twin) (s : State) : Out :=
  .next (if (s.tw t).adc.step = 0 then say s Rc.OK
    else
      let s := modAdc (leaveEnd (say s Rc.OK) 3 t) t (fun a => { a with step := 0 })
      wf (wf s t R.ADC_CAL_STATUS_BUSY 0) t R.ADC_CAL_STATUS_RESULT 3)

/-- The results at or beyond a sequence's LEN read STALE with code 0 (R300). -/
def adcTrim (s : State) (t : Twin) (q : Nat) : State :=
  let r := (List.range 16).filter (fun e => decide (rf s t (cf R.ADC_C_RCFG_LEN q) ≤ e))
  let i := ((List.range 4).filter (fun e => decide (rf s t (cf R.ADC_C_ICFG_LEN q) < e))).map (· + 16)
  (r ++ i).foldl (fun s e => wr s t (resAddr q e) 0x80000000#32) s

end Sys2Proof.Machine
end

