-- ==== Sys2Proof/Machine/Blocks.lean ====
section
/-! DEFINITION. The block catalogue of R183 to R187, R191 and R192 as functions of a block's inputs, state words,
developed coefficients and Ts. Derived coefficients are formed from their formula where they are used, which gives the
same bits as forming them when the bank develops (R170). -/

namespace Sys2Proof

/-- What one run of a block reads (R183, R184, R191). `x` are the wired inputs, `c` the developed coefficients, `st`
the state words, `yp` the previous outputs. -/
structure BlkIn where
  x : List W32
  c : List W32
  st : List W32
  yp : List W32
  ts : W32
  latch : Bool
  buf : List W32
  active : Nat
  target : Nat
  phase : Nat
  ms : ModeSel
  lut : List W32
  prog : List (BitVec 16)

/-- What it gives: outputs, state words, buffer and status; `fault` where dynamic limits cross (R168). -/
structure BlkOut where
  y : List W32
  st : List W32
  buf : List W32
  sat : Bool := false
  latch : Bool := false
  tracking : Bool := false
  active : Nat := 0
  target : Nat := 0
  phase : Nat := 0
  ms : ModeSel := ⟨0, none⟩
  fault : Bool := false

namespace Blk
open F32

def pi2 : W32 := 0x40C90FDB#32
def pi1 : W32 := 0x40490FDB#32
def k23 : W32 := 0x3F2AAAAB#32
def ks3 : W32 := 0x3F13CD3A#32
def k13 : W32 := 0x3EAAAAAB#32

/-- wrap(θ) of R183. -/
def wrap (th : W32) : W32 :=
  if le pi1 th then sub th pi2 else if lt th (neg pi1) then add th pi2 else th

/-- Input `i`. -/
def x (b : BlkIn) (i : Nat) : W32 := b.x.getD i 0#32

/-- Coefficient `i`. -/
def c (b : BlkIn) (i : Nat) : W32 := b.c.getD i 0#32

/-- A structural coefficient as a number. -/
def cn (b : BlkIn) (i : Nat) : Nat := (c b i).toNat

/-- State word `i`. -/
def st (b : BlkIn) (i : Nat) : W32 := b.st.getD i 0#32

/-- Previous output `i`. -/
def yp (b : BlkIn) (i : Nat) : W32 := b.yp.getD i 0#32

/-- Whether input `i` is wired. -/
def wired (b : BlkIn) (i : Nat) : Bool := decide (i < b.x.length)

/-- Outputs without state, unclamped. -/
def pureOut (b : BlkIn) (y : List W32) (sat : Bool := false) : BlkOut :=
  { y := y, st := b.st, buf := b.buf, sat := sat, latch := b.latch }

/-- Outputs with state words. -/
def withSt (b : BlkIn) (y st : List W32) (sat : Bool := false) : BlkOut := { pureOut b y sat with st := st }

/-- A truth value as 1.0 or 0.0. -/
def b1 (v : Bool) : W32 := if v then one else 0#32

/-- ADD: ((±x0 ± x1) ± x2) …; SGN bit i negates xi. -/
def addBlk (b : BlkIn) : BlkOut :=
  let xs := (b.x.zip (List.range 8)).map (fun p => if nbit (cn b 0) p.2 then neg p.1 else p.1)
  pureOut b [match xs with
    | [] => 0#32
    | h :: r => r.foldl add h]

/-- WSUM: fma(K(n−1), x(n−1), … fma(K1, x1, K0 × x0)). -/
def wsum (b : BlkIn) : BlkOut :=
  pureOut b [match b.x with
    | [] => 0#32
    | h :: r => (r.zip (b.c.drop 1)).foldl (fun a p => fma p.2 p.1 a) (mul (c b 0) h)]

/-- MINMAX, left to right. -/
def minmax (b : BlkIn) : BlkOut :=
  pureOut b [match b.x with
    | [] => 0#32
    | h :: r => r.foldl (if cn b 0 = 0 then F32.min else F32.max) h]

/-- LIMIT; wired lo and hi replace the coefficients, and limits that cross act as NaN does (R168). -/
def limit (b : BlkIn) : BlkOut :=
  let lo := if wired b 1 then x b 1 else c b 0
  let hi := if wired b 2 then x b 2 else c b 1
  let y := clamp (x b 0) lo hi
  { pureOut b [y] (y != x b 0) with fault := (wired b 1 || wired b 2) && lt hi lo }

/-- y' + clamp(x − y', −RF × Ts, RR × Ts) of RATE_LIMIT and RAMP. -/
def rate (b : BlkIn) : W32 :=
  add (yp b 0) (clamp (sub (x b 0) (yp b 0)) (neg (mul (c b 1) b.ts)) (mul (c b 0) b.ts))

/-- Whether the clamp of `rate` makes its output differ from the unclamped y' + (x − y'). -/
def rateSat (b : BlkIn) : Bool := rate b != add (yp b 0) (sub (x b 0) (yp b 0))

/-- RAMP: tracking input, done flag. -/
def ramp (b : BlkIn) : BlkOut :=
  let trk := wired b 2 && le half (x b 2)
  let y := if trk then x b 1 else rate b
  { pureOut b [y, b1 (eq y (x b 0))] (!trk && rateSat b) with tracking := trk }

/-- The integral state after one run of R184 and whether the latch stays: `u0` the sum before the update, `dI` the
increment's sign, `next` the state it would move to before the clamp. -/
def integrate (latch : Bool) (u0 dI next i lo hi : W32) : W32 × Bool :=
  let latch := latch && !(lt lo u0 && lt u0 hi)
  let hold := latch || (le hi u0 && lt 0#32 dI) || (le u0 lo && lt dI 0#32)
  (if hold then i else clamp next lo hi, latch)

/-- PI (R184, R185). Coefficients KP, KI, LO, HI; STATE0 is I. -/
def piBlk (b : BlkIn) : BlkOut :=
  let e := sub (x b 0) (x b 1)
  let p := mul (c b 0) e
  let kits := mul (c b 1) b.ts
  let lo := c b 2
  let hi := c b 3
  let trk := wired b 3 && le half (x b 3)
  let r := integrate b.latch (add p (st b 0)) (mul kits e) (fma kits e (st b 0)) (st b 0) lo hi
  let i := if trk then clamp (sub (x b 2) p) lo hi else r.1
  let u := add p i
  let y := clamp u lo hi
  { withSt b [y] [i] (y != u) with latch := !trk && r.2, tracking := trk }

/-- PID (R184, R185). Coefficients KP, KI, KD, TF, LO, HI; STATE0 I, STATE1 d, STATE2 m'.
DEDUCED, unsafe: log entry 70. -/
def pidBlk (b : BlkIn) : BlkOut :=
  let e := sub (x b 0) (x b 1)
  let p := mul (c b 0) e
  let kits := mul (c b 1) b.ts
  let ad := div (c b 3) (add (c b 3) b.ts)
  let bd := div (c b 2) (add (c b 3) b.ts)
  let d := fma ad (st b 1) (mul bd (sub (st b 2) (x b 1)))
  let lo := c b 4
  let hi := c b 5
  let trk := wired b 3 && le half (x b 3)
  let r := integrate b.latch (add (add p (st b 0)) d) (mul kits e) (fma kits e (st b 0)) (st b 0) lo hi
  let i := if trk then clamp (sub (sub (x b 2) p) d) lo hi else r.1
  let u := add (add p i) d
  let y := clamp u lo hi
  { withSt b [y] [i, d, x b 1] (y != u) with latch := !trk && r.2, tracking := trk }

/-- PR. Coefficients KP, KR, H, WC, LO, HI; STATE0 s1, STATE1 s2. -/
def prBlk (b : BlkIn) : BlkOut :=
  let e := x b 0
  let lim := div half b.ts
  let w := clamp (mul (c b 2) (x b 1)) (neg lim) lim
  let dI := mul b.ts (fma (c b 1) e (neg (fma w (st b 1) (mul (mul two (c b 3)) (st b 0)))))
  let lo := c b 4
  let hi := c b 5
  let r := integrate b.latch (add (mul (c b 0) e) (st b 0)) dI (add (st b 0) dI) (st b 0) lo hi
  let s2 := fma (mul b.ts w) r.1 (st b 1)
  let u := fma (c b 0) e r.1
  let y := clamp u lo hi
  { withSt b [y] [r.1, s2] (y != u) with latch := r.2 }

/-- BIQUAD; STATE0 z1, STATE1 z2. -/
def biquad (b : BlkIn) : BlkOut :=
  let y := fma (c b 0) (x b 0) (st b 0)
  let z1 := fma (neg (c b 3)) y (fma (c b 1) (x b 0) (st b 1))
  let z2 := fma (neg (c b 4)) y (mul (c b 2) (x b 0))
  withSt b [y] [z1, z2]

/-- Ts ÷ (T + Ts). -/
def lagAl (t ts : W32) : W32 := div ts (add t ts)

/-- One LAG1 step: fma(AL, x − y', y'). -/
def lag (al v y : W32) : W32 := fma al (sub v y) y

/-- LAG1 with its tracking input. -/
def lag1 (b : BlkIn) : BlkOut :=
  let trk := wired b 2 && le half (x b 2)
  { pureOut b [if trk then x b 1 else lag (lagAl (c b 0) b.ts) (x b 0) (yp b 0)] with tracking := trk }

/-- INTEGRATOR. Coefficients K, LO, HI. -/
def integrator (b : BlkIn) : BlkOut :=
  let rst := wired b 1 && le half (x b 1)
  let u := if rst then x b 2 else fma (mul (c b 0) b.ts) (x b 0) (yp b 0)
  let y := clamp u (c b 1) (c b 2)
  pureOut b [y] (y != u)

/-- CLARKE of two or three inputs. -/
def clarke (b : BlkIn) : BlkOut :=
  if wired b 2 then
    pureOut b [mul k23 (sub (x b 0) (mul half (add (x b 1) (x b 2)))), mul ks3 (sub (x b 1) (x b 2)),
      mul k13 (add (add (x b 0) (x b 1)) (x b 2))]
  else pureOut b [x b 0, mul ks3 (add (x b 0) (mul two (x b 1))), 0#32]

/-- (d, q) of PARK: fma(α, cos, β × sin), fma(β, cos, −(α × sin)). -/
def park (al be s co : W32) : W32 × W32 := (fma al co (mul be s), fma be co (neg (mul al s)))

/-- The PI of a phase-locked loop (R186) on error `e`: I', its output, its latch and whether it clamped. -/
def loopPi (kp ki lo hi ts e i : W32) (latch : Bool) : W32 × W32 × Bool × Bool :=
  let p := mul kp e
  let kits := mul ki ts
  let r := integrate latch (add p i) (mul kits e) (fma kits e i) i lo hi
  let u := add p r.1
  let y := clamp u lo hi
  (r.1, y, r.2, y != u)

/-- SRF_PLL (R186). STATE0 I, STATE1 θ. -/
def srfPll (b : BlkIn) : BlkOut :=
  let th := st b 1
  let s := sin th
  let co := cos th
  let v := park (x b 0) (x b 1) s co
  let r := loopPi (c b 0) (c b 1) (sub (c b 3) (c b 2)) (sub (c b 4) (c b 2)) b.ts v.2 (st b 0) b.latch
  let w := add (c b 2) r.2.1
  let thn := wrap (fma b.ts w th)
  { withSt b [thn, w, v.1, s, co] [r.1, thn] r.2.2.2 with latch := r.2.2.1 }

/-- DDSRF_PLL (R186). STATE0 I, STATE1 θ, STATE2 to STATE5 the filtered dp, qp, dn, qn. The sine and cosine of −θ'
are taken as −sin θ' and cos θ'. DESIGN CHOICE, unsafe: log entry 254. -/
def ddsrfPll (b : BlkIn) : BlkOut :=
  let th := st b 1
  let s := sin th
  let co := cos th
  let c2 := cos (mul two th)
  let s2 := sin (mul two th)
  let p := park (x b 0) (x b 1) s co
  let n := park (x b 0) (x b 1) (neg s) co
  let dp := st b 2
  let qp := st b 3
  let dn := st b 4
  let qn := st b 5
  let dps := sub (sub p.1 (mul dn c2)) (mul qn s2)
  let qps := sub (add p.2 (mul dn s2)) (mul qn c2)
  let dns := add (sub n.1 (mul dp c2)) (mul qp s2)
  let qns := sub (sub n.2 (mul dp s2)) (mul qp c2)
  let wt := mul (c b 5) b.ts
  let af := div wt (add one wt)
  let f := fun v y => fma af (sub v y) y
  let r := loopPi (c b 0) (c b 1) (sub (c b 3) (c b 2)) (sub (c b 4) (c b 2)) b.ts qps (st b 0) b.latch
  let w := add (c b 2) r.2.1
  let thn := wrap (fma b.ts w th)
  let fs := [f dps dp, f qps qp, f dns dn, f qns qn]
  { withSt b ([thn, w] ++ fs) ([r.1, thn] ++ fs) r.2.2.2 with latch := r.2.2.1 }

/-- A table axis of LUT1: the clamped u, the index i and whether it clamped. -/
def axis (v x0 dx : W32) (n : Nat) : W32 × Nat × Bool :=
  let u := mul (sub v x0) (div one dx)
  let uc := clamp u 0#32 (ofInt (n - 1 : Nat))
  (uc, Nat.min (floorInt uc).toNat (n - 2), uc != u)

/-- Interpolation between t(i) and t(i+1). -/
def lerp (u : W32) (i : Nat) (a d : W32) : W32 := fma (sub u (ofInt i)) (sub d a) a

/-- LUT1. Coefficients X0, DX, N, TAB. -/
def lut1 (b : BlkIn) (v : W32) : W32 × Bool :=
  let a := axis v (c b 0) (c b 1) (cn b 2)
  (if isNan v then nan else lerp a.1 a.2.1 (b.lut.getD a.2.1 0#32) (b.lut.getD (a.2.1 + 1) 0#32), a.2.2)

/-- LUT2. Coefficients X0, DX0, N0, X1, DX1, N1, TAB; the table is stored row by row along x0. -/
def lut2 (b : BlkIn) : BlkOut :=
  let n0 := cn b 2
  let a := axis (x b 0) (c b 0) (c b 1) n0
  let d := axis (x b 1) (c b 3) (c b 4) (cn b 5)
  let row := fun j => lerp a.1 a.2.1 (b.lut.getD (j * n0 + a.2.1) 0#32) (b.lut.getD (j * n0 + a.2.1 + 1) 0#32)
  let y := lerp d.1 d.2.1 (row d.2.1) (row (d.2.1 + 1))
  pureOut b [if isNan (x b 0) || isNan (x b 1) then nan else y] (a.2.2 || d.2.2)

/-- COMPARE by OP. -/
def compare (b : BlkIn) : BlkOut :=
  let p := x b 0
  let q := x b 1
  pureOut b [b1 (match cn b 0 with
    | 0 => lt q p
    | 1 => le q p
    | 2 => lt p q
    | 3 => le p q
    | 4 => eq p q
    | _ => !(eq p q))]

/-- MOVAVG of the input `v`: newest last in the 256-entry buffer; STATE0 is S, STATE1 the runs since S was
recomputed. -/
def movavg (b : BlkIn) (v : W32) : W32 × List W32 × List W32 :=
  let n := cn b 0
  let full := b.buf ++ List.replicate (256 - b.buf.length) 0#32
  let buf := full.drop 1 ++ [v]
  let k := (st b 1).toNat + 1
  let s := if k ≥ n then F32.sum (buf.drop (256 - n)) else sub (add (st b 0) v) (full.getD (256 - n) 0#32)
  (mul s (div one (ofInt n)), [s, BitVec.ofNat 32 (if k ≥ n then 0 else k)], buf)

/-- DELAY by K runs, with a 64-entry buffer, newest last. -/
def delay (b : BlkIn) : BlkOut :=
  let full := List.replicate (64 - b.buf.length) 0#32 ++ b.buf
  { pureOut b [full.getD (64 - cn b 0) 0#32] with buf := full.drop 1 ++ [x b 0] }

/-- |v| of a vector. DEDUCED, unsafe: log entry 72. -/
def norm (a d : W32) : W32 := sqrt (add (mul a a) (mul d d))

/-- FLUX_OBS (R187). Coefficients MACH, RS, LS, KO, PSIM, LM, LR, TR, TW; STATE0 and 1 ψ_s, STATE2 and 3 ψ_m,
STATE4 θ, STATE5 ω. -/
def fluxObs (b : BlkIn) : BlkOut :=
  let im := cn b 0 != 0
  let ia := x b 2
  let ib := x b 3
  let ls := c b 2
  let step := fun i m j => add m (mul b.ts (add (div (sub (mul (c b 5) i) m) (c b 7)) (mul (x b 4) j)))
  let ma := step ia (st b 2) (neg (st b 3))
  let mb := step ib (st b 3) (st b 2)
  let th0 := st b 4
  let ca := if im then add (mul ma (div (c b 5) (c b 6))) (mul ls ia) else add (mul ls ia) (mul (c b 4) (cos th0))
  let cb := if im then add (mul mb (div (c b 5) (c b 6))) (mul ls ib) else add (mul ls ib) (mul (c b 4) (sin th0))
  let flux := fun s v i k => add s (mul b.ts (add (sub v (mul (c b 1) i)) (mul (c b 3) (sub k s))))
  let sa := flux (st b 0) (x b 0) ia ca
  let sb := flux (st b 1) (x b 1) ib cb
  let sc := fun v => if im then mul v (div (c b 6) (c b 5)) else v
  let ra := sc (sub sa (mul ls ia))
  let rb := sc (sub sb (mul ls ib))
  let th := atan2 rb ra
  let w := lag (lagAl (c b 8) b.ts) (div (wrap (sub th th0)) b.ts) (st b 5)
  let qa := if im then ma else sub ca (mul ls ia)
  let qb := if im then mb else sub cb (mul ls ib)
  withSt b [th, w, norm ra rb, norm (sub ra qa) (sub rb qb)]
    [sa, sb, if im then ma else st b 2, if im then mb else st b 3, th, w]

/-- HFI_INJ. Coefficients VH, FH; STATE0 is θh. -/
def hfiInj (b : BlkIn) : BlkOut :=
  let th := wrap (add (st b 0) (mul (mul pi2 (c b 1)) b.ts))
  withSt b [mul (c b 0) (cos th), sin th, cos th] [th]

/-- HFI_DEMOD (R187). Coefficients TE, DL, KP, KI, WMAX; STATE0 I, STATE1 θ, STATE2 ε; the buffer holds sh of the
last runs, newest last. -/
def hfiDemod (b : BlkIn) : BlkOut :=
  let shs := (List.replicate (3 - b.buf.length) 0#32 ++ b.buf) ++ [x b 1]
  let sh := shs.getD (3 - cn b 1) 0#32
  let eps := lag (lagAl (c b 0) b.ts) (mul (x b 0) sh) (st b 2)
  let r := loopPi (c b 2) (c b 3) (neg (c b 4)) (c b 4) b.ts eps (st b 0) b.latch
  let w := add 0#32 r.2.1
  let th := wrap (fma b.ts w (st b 1))
  { withSt b [th, w, eps] [r.1, th, eps] r.2.2.2 with latch := r.2.2.1, buf := shs.drop 1 }

/-- PHASE_ADV. -/
def phaseAdv (b : BlkIn) : BlkOut :=
  let g := lut1 b (F32.abs (x b 0))
  pureOut b [neg (mul (x b 1) (sin g.1)), mul (x b 1) (cos g.1), g.1] g.2

/-- A difference of MODE_SEL, wrapped with ANGLE = 1. -/
def mdiff (b : BlkIn) (p q : W32) : W32 := if cn b 4 = 1 then wrap (sub p q) else sub p q

/-- MODE_SEL (R191). Inputs y0 to y3 and req; coefficients NM, TOL, HO_TIMEOUT, XF_TIME, ANGLE.
DEDUCED, unsafe: log entry 71. -/
def modeSel (b : BlkIn) : BlkOut :=
  let nm := cn b 0
  let r := toIntScaled (x b 4) 0
  let good := decide (0 ≤ r ∧ r < (nm : Int)) && !(isNan (x b 4))
  let req := r.toNat
  let y := fun k => x b k
  let fin := fun v act tgt ph ms =>
    { pureOut b [v, ofInt (act : Nat), ofInt (ph : Nat)] (!good) with active := act, target := tgt, phase := ph, ms := ms }
  let wait := fun tgt =>
    if le (F32.abs (mdiff b (y tgt) (y b.active))) (c b 1) then fin (y tgt) tgt tgt 0 ⟨0, none⟩
    else fin (y b.active) b.active tgt 1 ⟨0, none⟩
  match b.phase with
  | 2 =>
    let j := b.ms.fade + 1
    let lam := F32.min one (div (mul (ofInt j) b.ts) (c b 3))
    let v := fma lam (mdiff b (y b.target) (y b.active)) (y b.active)
    let v := if cn b 4 = 1 then wrap v else v
    let held := if good then some req else b.ms.held
    if eq lam one then
      match held with
      | some h => if h ≠ b.target then fin v b.target h 1 ⟨0, none⟩ else fin v b.target b.target 0 ⟨0, none⟩
      | none => fin v b.target b.target 0 ⟨0, none⟩
    else fin v b.active b.target 2 ⟨j, held⟩
  | 1 =>
    if good && req == b.active then fin (y b.active) b.active b.active 0 ⟨0, none⟩
    else wait (if good then req else b.target)
  | _ =>
    if good && req != b.active then wait req else fin (y b.active) b.active b.active 0 ⟨0, none⟩

/-- The machine of an EXPR run (R192): stack with the top first, state words and outputs. -/
structure Expr where
  stack : List W32
  s : List W32
  y : List W32

/-- One expression opcode; `none` ends the program. -/
def exprOp (b : BlkIn) (m : Expr) (w : BitVec 16) : Option Expr :=
  let op := w.toNat / 256
  let k := w.toNat % 256
  let push := fun v => some { m with stack := v :: m.stack }
  match op, m.stack with
  | 0x01, _ => push (x b k)
  | 0x02, _ => push (c b k)
  | 0x03, _ => push (m.s.getD k 0#32)
  | 0x04, a :: r => some { m with stack := r, s := m.s.set k a }
  | 0x05, a :: _ => push a
  | 0x06, a :: d :: r => some { m with stack := d :: a :: r }
  | 0x07, _ :: r => some { m with stack := r }
  | 0x08, d :: a :: r => some { m with stack := add a d :: r }
  | 0x09, d :: a :: r => some { m with stack := sub a d :: r }
  | 0x0A, d :: a :: r => some { m with stack := mul a d :: r }
  | 0x0B, d :: a :: r => some { m with stack := div a d :: r }
  | 0x0C, e :: d :: a :: r => some { m with stack := fma a d e :: r }
  | 0x0D, a :: r => some { m with stack := neg a :: r }
  | 0x0E, a :: r => some { m with stack := F32.abs a :: r }
  | 0x0F, d :: a :: r => some { m with stack := F32.min a d :: r }
  | 0x10, d :: a :: r => some { m with stack := F32.max a d :: r }
  | 0x11, a :: r => some { m with stack := sqrt a :: r }
  | 0x12, a :: r => some { m with stack := sin a :: r }
  | 0x13, a :: r => some { m with stack := cos a :: r }
  | 0x14, d :: a :: r => some { m with stack := atan2 a d :: r }
  | 0x15, d :: a :: r => some { m with stack := b1 (lt d a) :: r }
  | 0x16, d :: a :: e :: r => some { m with stack := (if eq e 0#32 then d else a) :: r }
  | 0x17, a :: r => some { m with stack := r, y := m.y.set k a }
  | _, _ => none

/-- A program from a word on. -/
def exprRun (b : BlkIn) : List (BitVec 16) → Expr → Expr
  | [], m => m
  | w :: r, m =>
    match exprOp b m w with
    | some n => exprRun b r n
    | none => m

/-- EXPR: outputs not written keep their previous values. -/
def expr (b : BlkIn) : BlkOut :=
  let s := b.st ++ List.replicate (8 - b.st.length) 0#32
  let m := exprRun b (b.prog.take 64) ⟨[], s, b.yp⟩
  { withSt b m.y m.s with fault := m.s.any isNan }

/-- One run of a block by its type code (R183). CELL_DISPATCH has no outputs: the run that executes it hands its
inputs to the modulator. -/
def run (type : Nat) (b : BlkIn) : BlkOut :=
  let y1 := fun v => pureOut b [v]
  match type with
  | 0x01 => y1 (c b 0)
  | 0x02 => addBlk b
  | 0x03 => y1 (mul (x b 0) (x b 1))
  | 0x04 => y1 (div (x b 0) (x b 1))
  | 0x05 => y1 (fma (c b 0) (x b 0) (c b 1))
  | 0x06 => wsum b
  | 0x07 => y1 (F32.abs (x b 0))
  | 0x08 => minmax b
  | 0x09 => y1 (if le half (x b 0) then x b 1 else x b 2)
  | 0x0A => limit b
  | 0x0B => pureOut b [rate b] (rateSat b)
  | 0x0C => piBlk b
  | 0x0D => pidBlk b
  | 0x0E => prBlk b
  | 0x0F => biquad b
  | 0x10 => lag1 b
  | 0x11 => integrator b
  | 0x12 => clarke b
  | 0x13 => let p := park (x b 0) (x b 1) (x b 2) (x b 3); pureOut b [p.1, p.2]
  | 0x14 => pureOut b [fma (x b 0) (x b 3) (neg (mul (x b 1) (x b 2))), fma (x b 0) (x b 2) (mul (x b 1) (x b 3))]
  | 0x15 => srfPll b
  | 0x16 => ddsrfPll b
  | 0x17 => pureOut b [sin (x b 0), cos (x b 0)]
  | 0x18 => y1 (atan2 (x b 0) (x b 1))
  | 0x19 => if cn b 0 = 1 && lt (x b 0) 0#32 then pureOut b [0#32] true else y1 (sqrt (x b 0))
  | 0x1A => let r := lut1 b (x b 0); pureOut b [r.1] r.2
  | 0x1B => lut2 b
  | 0x1C => y1 (if le (c b 0) (x b 0) then one else if le (x b 0) (c b 1) then 0#32 else yp b 0)
  | 0x1D => compare b
  | 0x1E => ramp b
  | 0x1F => delay b
  | 0x20 => let m := movavg b (x b 0); { pureOut b [m.1] with st := m.2.1, buf := m.2.2 }
  | 0x21 => let m := movavg b (mul (x b 0) (x b 0)); { pureOut b [sqrt m.1] with st := m.2.1, buf := m.2.2 }
  | 0x22 => pureOut b [mul (c b 0) (fma (x b 0) (x b 2) (mul (x b 1) (x b 3))),
      mul (c b 0) (fma (x b 1) (x b 2) (neg (mul (x b 0) (x b 3))))]
  | 0x23 => fluxObs b
  | 0x24 => hfiInj b
  | 0x25 => hfiDemod b
  | 0x26 => phaseAdv b
  | 0x27 => y1 (mul (c b 0) (fma (x b 0) (x b 3) (neg (mul (x b 1) (x b 2)))))
  | 0x29 => modeSel b
  | 0x2A => expr b
  | _ => pureOut b []

end Blk

end Sys2Proof
end

