-- ==== Sys2Proof/Machine/LawOps.lean ====
section
/-! DEFINITION. Shared operations of 05_law_engines: nodes and banks in the register map, a run of a rate group (R168
to R178, R183), the digests (R142), loading an image (R182) and coefficient swaps (R188 to R190). -/

namespace Sys2Proof.Machine

/-- Change one twin's law-engine state. -/
def modLaw (s : State) (t : Twin) (f : LawSt → LawSt) : State := s.setTw t { s.tw t with law := f (s.tw t).law }

/-- The developed value of node `n`. -/
def nodeVal (s : State) (t : Twin) (n : Nat) : W32 := rd s t (R.LAW_NODE + 4 * n)

/-- Set a node and clear its INVALID flag. -/
def setNode (s : State) (t : Twin) (n : Nat) (v : W32) : State :=
  modLaw (wr s t (R.LAW_NODE + 4 * n) v) t (fun l => { l with invalid := l.invalid.erase n })

/-- A node keeps its value and is flagged INVALID (R140, R315). -/
def nodeInvalid (s : State) (t : Twin) (n : Nat) : State :=
  modLaw s t (fun l => { l with invalid := if l.invalid.contains n then l.invalid else n :: l.invalid })

/-- A block's status field. -/
def bf (f : Fld) (b : Nat) : Fld := fo f (256 * b)

/-- The words of a block from an offset. -/
def blkWords (s : State) (t : Twin) (base b n : Nat) : List W32 := (List.range n).map (fun i => rd s t (base + 256 * b + 4 * i))

/-- Write words of a block. -/
def setBlkWords (s : State) (t : Twin) (base b : Nat) (l : List W32) : State :=
  (l.zip (List.range 16)).foldl (fun s p => wr s t (base + 256 * b + 4 * p.2) p.1) s

/-- Ts of group `k` in seconds (R173, R178): D × T_cyc, or D times the developed period of pair P. -/
def groupTs (s : State) (t : Twin) (g : GraphImg) (k : Nat) : W32 :=
  match g.rgs[k]? with
  | none => 0#32
  | some r =>
    if k = 0 then tcycF s t
    else if r.src = 0 then F32.ofRatio (r.div * cycNs s t : Nat) 1000000000
    else F32.ofRatio (r.div * (rd s t (R.PWM_P_DEV + 128 * r.pair)).toNat : Nat) 16000000000

/-- What a block of group `k` reads on an input edge (R172, R177): a host input as it stands, a node of its own group
in this run or, on a loop edge, from the previous run, and a node of another group through the transition copy its run
took. `s0` is the state at the start of the run. -/
def inputVal (s0 s : State) (t : Twin) (g : GraphImg) (k : Nat) (e : Nat × Bool) : W32 :=
  match g.nodes[e.1]? with
  | none => 0#32
  | some nd =>
    if nd.kind = 2 then nodeVal s t e.1
    else if nd.rg = k then (if e.2 then nodeVal s0 t e.1 else nodeVal s t e.1)
    else tabGet nd.init (tabGet [] (s.tw t).law.snap k) e.1

/-- A block fault (R168): NAN, BLOCK_FAULT and LAW_FAULT; outputs and states keep. -/
def blockFault (s : State) (t : Twin) (b : Nat) : State :=
  let s := ev (ev s t (bf R.LAW_BLK_STATUS_NAN b)) t R.LAW_EVENT_BLOCK_FAULT
  let s := if flag s t R.LAW_FAULT_VALID then s else wf s t R.LAW_FAULT_FIRST b
  let s := wf (wf s t R.LAW_FAULT_LAST b) t R.LAW_FAULT_VALID 1
  modLaw s t (fun l => { l with held := b :: l.held })

/-- CELL_DISPATCH hands the six values of a string to the modulator; with a NaN among them the string keeps its
previous values (R183). -/
def cellDispatch (s : State) (t : Twin) (str : Nat) (x : List W32) : State :=
  if x.any F32.isNan then s
  else
    let r : StrRef := ⟨x.getD 0 0, x.getD 1 0, x.getD 2 0, x.getD 3 0, x.getD 4 0, F32.le F32.half (x.getD 5 0)⟩
    modArr s t (fun a => { a with refs := tabSet {} a.refs str r })

/-- The tracking inputs of a block's list of inputs: the index of trk where the type has one (R185). -/
def trkIndex (type : Nat) : Option Nat :=
  match type with
  | 0x0C => some 2
  | 0x0D => some 2
  | 0x10 => some 1
  | 0x1E => some 1
  | _ => none

/-- The inputs with the tracking values that mode selectors set in earlier runs in place of trk and en (R191); `s` is the
state in which the run began. -/
def withTrack (s : State) (t : Twin) (blk : GBlock) (b : Nat) (x : List W32) : List W32 :=
  match trkIndex blk.type, (s.tw t).law.track.find? (fun e => e.1 == b) with
  | some i, some e => if i + 1 < x.length then (x.set i e.2).set (i + 1) F32.one else x
  | _, _ => x

/-- A mode selector sets the tracking values of its inactive sources for the next run; in FADE both sources run free
(R191). -/
def selectorTracks (s : State) (t : Twin) (g : GraphImg) (blk : GBlock) (o : BlkOut) : State :=
  let y := o.y.getD 0 0#32
  (blk.ins.take 4).zip (List.range 4) |>.foldl (fun s p =>
    let src := g.blocks.findIdx (fun q => decide (q.out0 ≤ p.1.1) && decide (p.1.1 < q.out0 + q.nout))
    let free := p.2 == o.active || (o.phase == 2 && p.2 == o.target)
    modLaw s t (fun l => { l with
      track := if free then l.track.filter (fun e => e.1 != src) else tabPut true l.track src y })) s

/-- The lookup table of a block with its developed coefficients (R183): TAB names one of section 6. -/
def lutOf (g : GraphImg) (type : Nat) (c : List W32) : List W32 :=
  let i := if type = 0x1B then 6 else 3
  g.tables.getD (c.getD i 0#32).toNat []

/-- One block of a run. -/
def runBlock (s0 : State) (t : Twin) (g : GraphImg) (k : Nat) (ts : W32) (s : State) (p : GBlock × Nat) : State :=
  let blk := p.1
  let b := p.2
  let x := withTrack s0 t blk b (blk.ins.map (inputVal s0 s t g k))
  let c := blkWords s t R.LAW_BLK_DEV b 16
  if blk.type = 0x28 then cellDispatch s t (c.getD 0 0).toNat x
  else
    let l := (s.tw t).law
    let yp := (List.range blk.nout).map (fun i => nodeVal s t (blk.out0 + i))
    let o := Blk.run blk.type
      { x := x, c := c, st := blkWords s t R.LAW_BLK_STATE b 8, yp := yp, ts := ts,
        latch := flag s t (bf R.LAW_BLK_STATUS_LATCH b), buf := tabGet [] l.bufs b,
        active := rf s t (bf R.LAW_BLK_STATUS_ACTIVE b), target := rf s t (bf R.LAW_BLK_STATUS_TARGET b),
        phase := rf s t (bf R.LAW_BLK_STATUS_PHASE b), ms := tabGet ⟨0, none⟩ l.ms b, lut := lutOf g blk.type c, prog := blk.prog }
    if o.fault || o.y.any F32.isNan then blockFault s t b
    else
      let s := (o.y.zip (List.range 8)).foldl (fun s q => setNode s t (blk.out0 + q.2) q.1) s
      let s := setBlkWords s t R.LAW_BLK_STATE b o.st
      let s := wf (wf s t (bf R.LAW_BLK_STATUS_SAT b) (bit o.sat)) t (bf R.LAW_BLK_STATUS_LATCH b) (bit o.latch)
      let s := wf s t (bf R.LAW_BLK_STATUS_TRACKING b) (bit o.tracking)
      let s := modLaw s t (fun l => { l with bufs := tabSet [] l.bufs b o.buf, held := l.held.filter (· != b) })
      if blk.type = 0x29 then
        let s := wf (wf s t (bf R.LAW_BLK_STATUS_PHASE b) o.phase) t (bf R.LAW_BLK_STATUS_ACTIVE b) o.active
        let s := wf s t (bf R.LAW_BLK_STATUS_TARGET b) o.target
        selectorTracks (modLaw s t (fun l => { l with ms := tabSet ⟨0, none⟩ l.ms b o.ms })) t g blk o
      else s

/-- Whether a block may start (R171): every input that it takes from this run, one on no marked edge, is the output of no
block that has yet to run. -/
def inputsDone (todo : List (GBlock × Nat)) (p : GBlock × Nat) : Bool :=
  p.1.ins.all (fun e => e.2 || !(todo.any (fun q => decide (q.1.out0 ≤ e.1) && decide (e.1 < q.1.out0 + q.1.nout))))

/-- Blocks in an order in which each starts with its inputs complete; blocks that no such order reaches are left out. -/
def runOrder : Nat → List (GBlock × Nat) → List (GBlock × Nat)
  | 0, _ => []
  | n + 1, todo =>
    let now := todo.filter (inputsDone todo)
    if now.isEmpty then [] else now ++ runOrder n (todo.filter (fun p => !(inputsDone todo p)))

/-- The blocks of group `k` with their numbers, in the order in which they run (R171). -/
def groupBlocks (g : GraphImg) (k : Nat) : List (GBlock × Nat) :=
  let mine := (g.blocks.zip (List.range g.blocks.length)).filter (fun p => p.1.rg == k)
  runOrder mine.length mine

/-- The banks of one block exchange, and its state is adjusted (R189, R190). -/
def swapBlock (s : State) (t : Twin) (blk : GBlock) (b : Nat) : State :=
  let dev := blkWords s t R.LAW_BLK_DEV b 16
  let lat := blkWords s t R.LAW_BLK_LAT b 16
  let s := setBlkWords (setBlkWords s t R.LAW_BLK_DEV b lat) t R.LAW_BLK_LAT b dev
  let lim : Option (W32 × W32) :=
    match blk.type with
    | 0x0C => some (lat.getD 2 0, lat.getD 3 0)
    | 0x0D => some (lat.getD 4 0, lat.getD 5 0)
    | 0x0E => some (lat.getD 4 0, lat.getD 5 0)
    | 0x15 => some (F32.sub (lat.getD 3 0) (lat.getD 2 0), F32.sub (lat.getD 4 0) (lat.getD 2 0))
    | 0x16 => some (F32.sub (lat.getD 3 0) (lat.getD 2 0), F32.sub (lat.getD 4 0) (lat.getD 2 0))
    | 0x25 => some (F32.neg (lat.getD 4 0), lat.getD 4 0)
    | _ => none
  match lim with
  | some (lo, hi) =>
    let i := rd s t (R.LAW_BLK_STATE + 256 * b)
    let i' := F32.clamp i lo hi
    let s := wr s t (R.LAW_BLK_STATE + 256 * b) i'
    if flag s t (bf R.LAW_BLK_STATUS_SAT b) ∨ i' ≠ i then wf s t (bf R.LAW_BLK_STATUS_LATCH b) 1 else s
  | none =>
    if blk.type = 0x20 ∨ blk.type = 0x21 then
      let n := (lat.getD 0 0).toNat
      let buf := tabGet [] (s.tw t).law.bufs b
      wr s t (R.LAW_BLK_STATE + 256 * b) (F32.sum ((buf ++ List.replicate (256 - buf.length) 0#32).drop (256 - n)))
    else s

/-- The blocks of group `k` in the pending swap set develop before the run's first operation; after the last group
SWAP_DONE is set (R189). -/
def swapGroup (s : State) (t : Twin) (g : GraphImg) (k : Nat) : State :=
  let l := (s.tw t).law
  let due := (groupBlocks g k).filter (fun p => l.swapSet.contains p.2)
  if due.isEmpty then s
  else
    let s := due.foldl (fun s p => swapBlock s t p.1 p.2) s
    let rest := l.swapSet.filter (fun b => !(due.any (fun p => p.2 == b)))
    let s := modLaw s t (fun l => { l with swapSet := rest })
    if rest.isEmpty then wf (ev s t R.LAW_EVENT_SWAP_DONE) t R.LAW_STATUS_SWAP_PENDING 0 else s

/-- A run of group `k` starts: its Ts is fixed before its first operation (R178). -/
def startTs (s : State) (t : Twin) (k : Nat) : State :=
  match graph s t with
  | none => s
  | some g => modLaw s t (fun l => { l with ts := tabSet 0#32 l.ts k (groupTs s t g k) })

/-- A run of group `k`: its blocks in order on the values and the Ts at its start. -/
def runGroup (s : State) (t : Twin) (k : Nat) : State :=
  match graph s t with
  | none => s
  | some g => (groupBlocks g k).foldl (runBlock s t g k (tabGet 0#32 (s.tw t).law.ts k)) s

/-- The values that the nodes of a completed run of group `k` leave for the transition copies (R177). -/
def leaveCopies (s : State) (t : Twin) (k : Nat) : State :=
  match graph s t with
  | none => s
  | some g =>
    let vals : Tab W32 := ((g.nodes.zip (List.range g.nodes.length)).filter (fun p => p.1.rg == k && p.1.kind != 2)).map
      (fun p => (p.2, nodeVal s t p.2))
    modLaw s t (fun l => { l with pend := tabSet [] l.pend k vals, runs := tabMod 0 l.runs k (· + 1) })

/-- The transition copies of a completed run of group `k` develop (R177). -/
def developCopies (s : State) (t : Twin) (k : Nat) : State :=
  modLaw s t (fun l => { l with
    copies := (tabGet [] l.pend k).foldl (fun c e => tabPut true c e.1 e.2) l.copies,
    pend := tabSet [] l.pend k [] })

/-- A group's run takes the copies as they stand at its trigger (R177). -/
def snapCopies (s : State) (t : Twin) (k : Nat) : State :=
  modLaw s t (fun l => { l with snap := tabSet [] l.snap k l.copies })

/-! Digests (R142). -/

/-- The items of group `k`'s digest in segment order, ascending within a segment: output nodes by index mod 52 and the
slots of chain c in segment 52 + c for RG0, output nodes by index mod 64 for the others; `extra` are further values of
segment 63 with their node. -/
def digItems (s : State) (t : Twin) (g : GraphImg) (k : Nat) (extra : List (Nat × W32)) : List DigItem :=
  let m := if k = 0 then 52 else 64
  let outs := (List.range g.nodes.length).filter (fun n => (g.outs.getD k []).contains n)
  let node := fun seg (p : Nat × W32) => (⟨seg, false, p.1, beBytes 4 p.2.toNat⟩ : DigItem)
  (List.range 64).flatMap (fun seg =>
    if k = 0 ∧ 52 ≤ seg then
      (chainCells s t (seg - 52)).map (fun e => ⟨seg, true, e.1, slotBytes (tabGet {} (s.tw t).arr.next e.1)⟩)
    else (outs.filter (fun n => n % m == seg)).map (fun n => node seg (n, nodeVal s t n))
      ++ if seg = 63 then extra.map (node 63) else [])

/-- The CRC of one segment. -/
def segCrc (l : List DigItem) (seg : Nat) : Nat := crc64 ((l.filter (fun i => i.seg == seg)).flatMap (·.data))

/-- The digest over the segment CRCs in order. -/
def digestOf (l : List DigItem) : W64 := BitVec.ofNat 64 (crc64 ((List.range 64).flatMap (fun g => beBytes 8 (segCrc l g))))

/-- The digest of run `r` of group `k` is formed and kept for the comparison (R32, R142).
DEDUCED, unsafe: log entry 63. -/
def formDigest (s : State) (t : Twin) (k r : Nat) (extra : List (Nat × W32)) : State :=
  match graph s t with
  | none => s
  | some g =>
    let l := digItems s t g k extra
    let d := digestOf l
    let s := if k = 0 then wr (wr s t R.TWN_DIGEST_LO (BitVec.ofNat 32 (d.toNat % 4294967296))) t R.TWN_DIGEST_HI
        (BitVec.ofNat 32 (d.toNat / 4294967296)) else s
    if computing s t.other then
      modTwn s t (fun x => { x with dig := tabSet {} x.dig (4 * r + k) ⟨(s.tw t).arr.runN, d, l⟩ })
    else s

/-! Loading an image. -/

/-- Show a block's registers at their image values. Derived coefficients count in no NCOEF and show in no DEV word, DESIGN
CHOICE, unsafe: log entry 288. -/
def loadBlock (t : Twin) (s : State) (p : GBlock × Nat) : State :=
  let b := p.1
  let hdr := b.type * 16777216 + b.rg * 4194304 + b.dev.length * 65536 + b.nout * 4096 + b.out0
  let s := wr s t (R.LAW_BLK_HDR + 256 * p.2) (BitVec.ofNat 32 hdr)
  setBlkWords (setBlkWords (setBlkWords s t R.LAW_BLK_STATE p.2 b.st) t R.LAW_BLK_DEV p.2 b.dev) t R.LAW_BLK_LAT p.2 b.lat

/-- Clear the words of the LAW_ block that an image shows, those of the rate groups' tables among them. -/
def clearGraph (s : State) (t : Twin) : State :=
  let s := s.setTw t { s.tw t with regs := (s.tw t).regs.filter (fun e =>
    !(decide (R.LAW_NODE ≤ e.1) && decide (e.1 < R.LAW_BLK_HDR + 1048576))) }
  (List.range 4).foldl (fun s k =>
    let s := wr (wr s t (R.LAW_RG_CFG + 16 * k) 0) t (R.LAW_RG_DEADLINE + 16 * k) 0
    wr (wf s t (fo R.LAW_RG_TIME_STATED (16 * k)) 0) t (R.LAW_RG_PH + 4 * k) 0) s

/-- Show the rate-group table (R173). -/
def loadGroup (t : Twin) (g : GraphImg) (sched : Nat) (s : State) (p : RgRec × Nat) : State :=
  let r := p.1
  let w := r.src * 1073741824 + r.pair * 134217728 + r.cmp * 33554432 + r.prio * 8388608 + r.div
  let s := wr (wr s t (R.LAW_RG_CFG + 16 * p.2) (BitVec.ofNat 32 w)) t (R.LAW_RG_DEADLINE + 16 * p.2) r.deadline
  let s := wf s t (fo R.LAW_RG_TIME_STATED (16 * p.2)) ((stated g sched p.2).getD 0)
  wr s t (R.LAW_RG_PH + 4 * p.2) (BitVec.ofNat 32 r.ph)

/-- An image develops in a twin (R182): every node, state and bank takes its initial value. The history buffers of DELAY,
MOVAVG, RMS and HFI_DEMOD start at 0, DESIGN CHOICE, unsafe: log entry 288. -/
def loadGraph (s : State) (t : Twin) (g : GraphImg) : State :=
  let s := clearGraph s t
  let s := (g.nodes.zip (List.range g.nodes.length)).foldl (fun s p => wr s t (R.LAW_NODE + 4 * p.2) p.1.init) s
  let s := (g.blocks.zip (List.range g.blocks.length)).foldl (loadBlock t) s
  let s := (g.rgs.zip (List.range 4)).foldl (loadGroup t g (rf s t R.LAW_STATUS_SCHED)) s
  let s := wr (wr (wr s t R.LAW_IMAGE g.version) t R.LAW_BUILD g.buildId) t R.LAW_HASH g.hash
  let s := wf (wf s t R.LAW_STATUS_RG_PRESENT (2 ^ g.rgs.length - 1)) t R.LAW_STATUS_IMAGE_VALID 1
  let s := wf (wf s t R.LAW_STATUS_RUNNING 0) t R.LAW_STATUS_SWAP_PENDING 0
  modLaw s t (fun _ => { img := some g })

end Sys2Proof.Machine
end

