-- ==== Sys2Proof/Machine/Trip.lean ====
section
/-! DEFINITION. Meanings of the trip rows of 07_power_edge: trip inputs, side differences, clears and lock, and the
short-circuit sense inputs. -/

namespace Sys2Proof.Machine

/-- One side latches trip input `i` (R259, R261). -/
def latchIn (s : State) (t : Twin) (i : Nat) : State :=
  let s := evi s t R.TRIP_LIVE_IN_ACTIVE i
  if !(flag s t (fo R.TRIP_IN_EN (4 * i))) ∨ biti s t R.TRIP_LATCH_IN i then s
  else cnt (evi (evi s t R.TRIP_LATCH_IN i) t R.TRIP_EVENT_IN i) t (R.TRIP_IN_CNT + 4 * i)

/-- TRIP_LATCH (R259, R261): the filtered trip input is active, as each side saw it; enabled sides latch and the masked
outputs go to their trip states, cancelling pending on-edges. -/
def execTripLatch (i : Fin 8) (onA onB : Bool) (s : State) : Out :=
  let s := if onA then latchIn s .a i.val else s
  .next (settleAll (if onB then latchIn s .b i.val else s))

/-- Every output is settled after latches have changed; a gate-drive pair that conducts and that a short circuit now holds
turns off with the SOFT step, unless it is 0 (R253, R264). -/
def settleSoft (before s : State) : State :=
  let s := (List.range 8).foldl (fun s g =>
    let o := outs s (8 + g)
    if scOn s (8 + g) && !(scOn before (8 + g)) && (o.a == 1 || o.b == 1) && gs s R.GD_P_DRIVE_SOFT g != 0 then
      onLive (fun s t => evi s t R.GD_EVENT_SOFT g) (modOut s (8 + g) (fun o => { o with soft := true }))
    else s) s
  settleAll s

/-- The twin on the unlatched side sets what the other side holds (R261). -/
def sideDiff (s : State) (t : Twin) (inO scO : Nat) : State :=
  let newIn := inO &&& (255 - rf s t R.TRIP_LATCH_IN)
  let newSc := scO &&& (255 - rf s t R.TRIP_LATCH_SC)
  if newIn = 0 ∧ newSc = 0 then s
  else
    let s := wf s t R.TRIP_LATCH_IN (rf s t R.TRIP_LATCH_IN ||| newIn)
    let s := wf s t R.TRIP_LATCH_SC (rf s t R.TRIP_LATCH_SC ||| newSc)
    ev s t R.TRIP_EVENT_SIDE_DIFF

/-- TRIP_SIDE_DIFF (R261): the twins compare their sides' latches. -/
def execTripSideDiff (s : State) : Out :=
  let a := (rf s .a R.TRIP_LATCH_IN, rf s .a R.TRIP_LATCH_SC)
  let b := (rf s .b R.TRIP_LATCH_IN, rf s .b R.TRIP_LATCH_SC)
  .next (settleSoft s (sideDiff (sideDiff s .a b.1 b.2) .b a.1 a.2))

/-- A pair that was in its trip state keeps it until its next boundary; one held off by a short circuit stays off until
then; a pair whose source does not switch leaves it at once (R262). DEDUCED, unsafe: log entry 110. -/
def keepHold (before s : State) (k : Nat) : State :=
  let moves := if k < 8 then running s k else gdSwitching s (k - 8)
  let was := if scOn before k then 2 else if tripped before k then 1 else 0
  let still := scOn s k || maskOn s k || groupOn s k
  if was != 0 && !still && moves then modOut s k (fun o => { o with hold := was })
  else if !still then modOut s k (fun o => { o with hold := if moves then o.hold else 0 }) else s

/-- TRIP_CLEAR names latches (R262, R265): one whose filtered input is active, or whose sense input is at or above TH1,
is refused; the others clear on both sides. `active` and `above` are the inputs' levels at the clear.
DEDUCED, unsafe: log entry 109. -/
def tripClear (s : State) (ins scs active above : Nat) : State :=
  let s0 := s
  let s := onBoth (fun s t => wf (wf s t R.TRIP_LIVE_IN_ACTIVE active) t R.TRIP_LIVE_DSN_ABOVE above) s
  let latIn := rf s .a R.TRIP_LATCH_IN ||| rf s .b R.TRIP_LATCH_IN
  let latSc := rf s .a R.TRIP_LATCH_SC ||| rf s .b R.TRIP_LATCH_SC
  let refused := (ins &&& latIn &&& active) ≠ 0 ∨ (scs &&& latSc &&& above) ≠ 0
  let s := if refused then say (onBoth (fun s t => ev s t R.TRIP_EVENT_CLEAR_REFUSED) s) Rc.SOURCE_ACTIVE else s
  let okIn := ins &&& (255 - active)
  let okSc := scs &&& (255 - above)
  let s := onBoth (fun s t =>
    let s := wf s t R.TRIP_LATCH_IN (rf s t R.TRIP_LATCH_IN &&& (255 - okIn))
    wf s t R.TRIP_LATCH_SC (rf s t R.TRIP_LATCH_SC &&& (255 - okSc))) s
  settleAll ((List.range 16).foldl (keepHold s0) s)

/-- TRIP_CLEAR (R262). DESIGN CHOICE, unsafe: log entry 111. -/
def execTripClear (ins scs active above : Byte) (s : State) : Out :=
  .next (tripClear (say s Rc.OK) ins.toNat scs.toNat active.toNat above.toNat)

/-- TRIP_GCFG.LOCK is written 1 (R262). -/
def tripLock (s : State) (t : Twin) : State := wf s t R.TRIP_GCFG_LOCK 1

/-- TRIP_LOCK (R262). -/
def execTripLock (tg : Target) (s : State) : Out :=
  .next (match tg with
    | .both => onLive tripLock (say s Rc.OK)
    | .one t => tripLock (say s Rc.OK) t)

/-- A side evaluates sense input `k`: enabled there, with an output of its guarded pair on (R263). -/
def dsnWatched (s : State) (t : Twin) (k : Nat) : Bool :=
  let o := outs s (dsnPair s k)
  flag s t (fo R.TRIP_DSN_EN (8 * k)) && (o.a == 1 || o.b == 1)

/-- One side latches a short circuit of sense input `k` (R261, R264). -/
def latchSc (s : State) (t : Twin) (k : Nat) : State :=
  let s := clri (evi s t R.TRIP_LIVE_DSN_ABOVE k) t R.TRIP_LATCH_EARLY k
  if biti s t R.TRIP_LATCH_SC k then s
  else cnt (evi (evi s t R.TRIP_LATCH_SC k) t R.TRIP_EVENT_SC k) t (R.TRIP_SC_CNT + 4 * k)

/-- The sides that saw something, on those of which `f` acts. -/
def onSides (onA onB : Bool) (f : State → Twin → State) (s : State) : State :=
  let s := if onA then f s .a else s
  if onB then f s .b else s

/-- Sides latch a short circuit of sense input `k`, each for itself; the pins follow the side that drives them, with soft
turn-off (R261, R264). -/
def scTrip (s : State) (k : Nat) (onA onB : Bool) : State := settleSoft s (onSides onA onB (fun s t => latchSc s t k) s)

/-- DSN_TH2 (R263): at or above TH2 for 50 ns, as each side saw it, trips at once, during blanking as well. -/
def execDsnTh2 (d : DsnPoint) (s : State) : Out :=
  let k := d.chan.val
  .next (scTrip s k (d.onA && dsnWatched s .a k) (d.onB && dsnWatched s .b k))

/-- DSN_TH1 (R263): at or above TH1, as each side saw it; during blanking EARLY is set, after it (for FILT × 25 ns) the
input trips. -/
def execDsnTh1 (d : DsnPoint) (s : State) : Out :=
  let k := d.chan.val
  let onA := d.onA && dsnWatched s .a k
  let onB := d.onB && dsnWatched s .b k
  .next (if (outs s (dsnPair s k)).blank then
      onSides onA onB (fun s t => evi (evi s t R.TRIP_LIVE_DSN_ABOVE k) t R.TRIP_LATCH_EARLY k) s
    else scTrip s k onA onB)

/-- DSN_BLANKING_END (R263): blanking ends; in a side with EARLY set the input trips if it is still at or above TH1, else
EARLY clears and EARLY_CLEARED is set. -/
def execDsnBlankingEnd (k : Fin 8) (above : Bool) (s : State) : Out :=
  let early := fun (t : Twin) => biti s t R.TRIP_LATCH_EARLY k.val
  let trips := fun (t : Twin) => early t && above && dsnWatched s t k.val
  let s1 := modOut s (dsnPair s k.val) (fun o => { o with blank := false })
  let s2 := onSides (early .a && !(trips .a)) (early .b && !(trips .b)) (fun s t =>
    evi (clri (clri s t R.TRIP_LIVE_DSN_ABOVE k.val) t R.TRIP_LATCH_EARLY k.val) t R.TRIP_EVENT_EARLY_CLEARED k.val) s1
  .next (if trips .a || trips .b then scTrip s2 k.val (trips .a) (trips .b) else s2)

/-- SOFT_TURN_OFF_END (R253): the reduced sink step has lasted (SOFT_T + 1) × 0.5 µs and ISNK takes over. -/
def execSoftTurnOffEnd (g : Fin 8) (s : State) : Out :=
  .next (settlePair (modOut s (8 + g.val) (fun o => { o with soft := false })) (8 + g.val))

end Sys2Proof.Machine
end

