-- ==== Sys2Proof/Machine/Drive.lean ====
section
/-! DEFINITION. The drive sequencer of 06_drive_control: bindings (R206), channel states (R209, R210), catching (R216 to
R219), observer loss and active short circuit (R220 to R223), torque monitor (R224) and Spillway (R229, R230), as one
run of the drive group evaluates them. -/

namespace Sys2Proof.Machine
open F32

/-! Roles of R206 as fields of a drive binding. -/

def roVdc : Nat := 0
def roTqRef : Nat := 1
def roTqEst : Nat := 2
def roW : Nat := 3
def roTh : Nat := 4
def roRes : Nat := 5
def roEps : Nat := 6
def roXo : Nat := 7
def roVta : Nat := 8
def roVtb : Nat := 9
def roIa : Nat := 10
def roIb : Nat := 11
def roMa : Nat := 12
def roMb : Nat := 13
def roP : Nat := 14
def roIchop : Nat := 15
def roPulse : Nat := 16
def roTqScale : Nat := 17
def roRegen : Nat := 18
def roRet : Nat := 19
def roXoReq : Nat := 20
def roHfi : Nat := 21
def roVd : Nat := 22
def roSrchW : Nat := 23
def roSrchI : Nat := 24
def roCatchW : Nat := 25
def roState : Nat := 26

/-- The node bound to a role; the shared roles VDC, REGEN_LIM, SPILL_RET and ICHOP are bound once. -/
def roleNode (s : State) (t : Twin) (d r : Nat) : Option Nat :=
  match graph s t with
  | none => none
  | some g =>
    let shared := r == roVdc || r == roIchop || r == roRegen || r == roRet
    (g.binds.find? (fun b => b.kind == 4 && b.field == r && (shared || b.unit == d))).map (·.node)

/-- The agreed bound value of a role. -/
def role (s : State) (t : Twin) (d r : Nat) : W32 :=
  match roleNode s t d r with
  | some n => nodeVal s t n
  | none => 0#32

/-- Write the system-input node of a role. -/
def setRole (s : State) (t : Twin) (d r : Nat) (v : W32) : State :=
  match roleNode s t d r with
  | some n => setNode s t n v
  | none => s

/-- Change a twin's drive control. -/
def modDrv (s : State) (t : Twin) (f : DrvSt → DrvSt) : State := s.setTw t { s.tw t with drv := f (s.tw t).drv }

/-- A drive channel. -/
def chan (s : State) (t : Twin) (d : Nat) : DrvCh := tabGet {} (s.tw t).drv.ch d

/-- Change a drive channel. -/
def modChan (s : State) (t : Twin) (d : Nat) (f : DrvCh → DrvCh) : State :=
  modDrv s t (fun x => { x with ch := tabMod {} x.ch d f })

/-- A field and a word of channel `d`. -/
def df (f : Fld) (d : Nat) : Fld := fo f (256 * d)
def dw (s : State) (t : Twin) (a d : Nat) : W32 := rd s t (a + 256 * d)

/-- The arrangement (R204). -/
def topo (s : State) (t : Twin) : Nat := rf s t R.DRV_CFG_TOPO

/-- The drive channels of the arrangement (R204). -/
def channels (s : State) (t : Twin) : List Nat :=
  match topo s t with
  | 1 => [0]
  | 2 => [0, 1]
  | 3 => [0]
  | 4 => [0]
  | _ => []

/-- The PWM pairs of a channel (R204). -/
def chanPairs (s : State) (t : Twin) (d : Nat) : List Nat :=
  match topo s t with
  | 2 => if d = 0 then [0, 1, 2] else [3, 4, 5]
  | 3 => [0, 1, 2, 3, 4, 5]
  | _ => [0, 1, 2]

/-- The channel drives a machine (R204). -/
def machine (s : State) (t : Twin) : Bool := topo s t != 4

/-- An induction machine (R215). -/
def induction (s : State) (t : Twin) (d : Nat) : Bool := flag s t (df R.DRV_D_CTRL_MACH d)

/-- State of a channel. -/
def chSt (s : State) (t : Twin) (d : Nat) : Nat := rf s t (df R.DRV_D_STATE_STATE d)

/-- Ts of the drive group in the last run. -/
def drvTs (s : State) (t : Twin) : W32 := tabGet 0#32 (s.tw t).law.ts (rf s t R.DRV_CFG_RG)

/-- The DC-link voltage VDC. -/
def vdc (s : State) (t : Twin) : W32 := role s t 0 roVdc

/-- The Spillway stage. -/
def stage (s : State) (t : Twin) : Nat := rf s t R.DRV_STATUS_SPILL

/-- ω_asc = ASC_MARGIN × ASC_VLIM ÷ (√3 × PSIM) (R221), shown in DRV_Dd_W_ASC whenever its inputs develop. -/
def showWasc (s : State) (t : Twin) (d : Nat) : State :=
  wr s t (R.DRV_D_W_ASC + 256 * d) (div (mul (dw s t R.DRV_D_ASC_MARGIN d) (dw s t R.DRV_D_ASC_VLIM d))
    (mul (sqrt (ofInt 3)) (dw s t R.DRV_D_PSIM d)))

/-- The held speed is at or above ω_asc (R221). -/
def fast (s : State) (t : Twin) (d : Nat) : Bool := le (dw s t R.DRV_D_W_ASC d) (abs (dw s t R.DRV_D_W_HELD d))

/-- A trip is latched on a pair of the channel (R210). -/
def chanTrip (s : State) (t : Twin) (d : Nat) : Bool := (chanPairs s t d).any (fun p => maskOn s p || groupOn s p || scOn s p)

/-- A discharge is requested or in progress (R227). -/
def discharging (s : State) (t : Twin) : Bool := let x := (s.tw t).drv.dis; x == 1 || x == 2 || x == 4

/-- A catch starts (R216, R218): a grid converter has nothing to catch. -/
def catchStart (s : State) (t : Twin) (d : Nat) : State :=
  modChan s t d (fun c => { c with
    phase := if !(machine s t) then 0 else if induction s t d then 6 else 1
    done := !(machine s t)
    n := 0
    sumE := 0#32
    sumW := 0#32
    wFound := if machine s t && induction s t d then dw s t R.DRV_D_SRCH_FMAX d else 0#32
    srchW := dw s t R.DRV_D_SRCH_FMAX d
    srchOn := false
    mode := if machine s t && induction s t d then 1 else 0 })

/-- The pulses a channel state allows (R209): CATCH sets its own. -/
def stMode (st : Nat) : Nat := if st = 3 ∨ st = 4 then 1 else if st = 6 then 2 else 0

/-- A channel enters a state; a reason where the entry has one (R209, R210). -/
def chEnter (s : State) (t : Twin) (d st : Nat) (reason : Option Nat) : State :=
  let held := dw s t R.DRV_D_W_HELD d
  let s := wf s t (df R.DRV_D_STATE_STATE d) st
  let s := match reason with
    | some r => modChan (wf s t (df R.DRV_D_STATE_REASON d) r) t d (fun c =>
        { c with fresh := r == 1 || r == 4 || r == 5 || r == 6 || r == 7 })
    | none => s
  let s := modChan s t d (fun c => { c with mode := stMode st, phase := 0, done := false })
  if st = 2 then catchStart (modChan s t d (fun c => { c with fails := 0 })) t d
  else if st = 3 then modChan s t d (fun c => { c with pa := 0#32, pb := 0#32, tf := 0#32, loss := 0, lost := false })
  else if st = 6 then
    let s := ev (cnt s t (R.DRV_D_ASCS + 256 * d)) t (df R.DRV_D_EVENT_ASC d)
    modChan s t d (fun c => { c with wsc := 0#32, iang := none, neg := isNeg held })
  else s

/-- ENABLE. -/
def enabled (s : State) (t : Twin) : Bool := flag s t R.DRV_CTRL_ENABLE

/-- The channel's RUN. -/
def runReq (s : State) (t : Twin) (d : Nat) : Bool := flag s t (df R.DRV_D_CTRL_RUN d)

/-- VDC at or above VDC_MIN. -/
def vdcOk (s : State) (t : Twin) (d : Nat) : Bool := le (dw s t R.DRV_D_VDC_MIN d) (vdc s t)

/-- Observer loss is due (R220, R222): a loss condition has held for RES_N runs of a machine channel in RUN or RAMPDOWN and
has not acted yet; a loss while it ramps down after one has no further effect. -/
def lossDue (s : State) (t : Twin) (d : Nat) : Bool :=
  let st := chSt s t d
  let c := chan s t d
  machine s t && (st == 3 || (st == 4 && rf s t (df R.DRV_D_STATE_REASON d) != 2)) && !c.lost && decide (0 < c.loss)
    && decide (rf s t (df R.DRV_D_TIMING1_RES_N d) ≤ c.loss)

/-- A loss is shown and counted (R220). -/
def noteLoss (s : State) (t : Twin) (d : Nat) : State :=
  modChan (cnt (ev s t (df R.DRV_D_EVENT_OBS_LOST d)) t (R.DRV_D_OBS_LOSSES + 256 * d)) t d (fun c => { c with lost := true })

/-- The first row of the transition table that applies (R210); `loss` says that the observer is lost in this run. Stage 4
with a loss takes the loss's row with reason 3 (R231). The ASC exit is an event of its own. -/
def firstRow (s : State) (t : Twin) (d : Nat) (loss : Bool) : State :=
  let st := chSt s t d
  let c := chan s t d
  let sto := stoNow s
  let moving := st == 2 || st == 3 || st == 4
  let stage4 := decide (4 ≤ stage s t)
  let off := !(enabled s t) || !(runReq s t d)
  let reason := rf s t (df R.DRV_D_STATE_REASON d)
  if sto || chanTrip s t d then
    let why := if sto then 5 else 4
    if st = 0 ∧ reason = why then s else chEnter s t d 0 (some why)
  else if moving && (loss || stage4 || discharging s t) && machine s t && fast s t d then
    chEnter s t d 6 (some (if stage4 then 3 else if loss then 2 else 7))
  else if moving && stage4 && !(loss && st == 3) then chEnter s t d 5 (some 3)
  else if moving && discharging s t then chEnter s t d 5 (some 7)
  else if st = 3 ∧ loss then chEnter s t d 4 (some (if stage4 then 3 else 2))
  else if st = 3 ∧ off then chEnter s t d 4 (some 1)
  else if st = 2 ∧ off then chEnter s t d 5 (some 1)
  else if st = 2 ∧ c.done then
    chEnter (ev (cnt (modChan s t d (fun c => { c with fails := 0 })) t (R.DRV_D_CATCHES + 256 * d)) t
      (df R.DRV_D_EVENT_CATCH_DONE d)) t d 3 none
  else if st = 2 ∧ rf s t (df R.DRV_D_TIMING1_CATCH_RETRY d) < c.fails then
    chEnter (modChan s t d (fun c => { c with fails := 0 })) t d 5 (some 6)
  else if st = 4 ∧ isZero (dw s t R.DRV_D_TQ_SCALE d) then chEnter s t d 5 none
  else if st = 5 ∧ !(enabled s t) then chEnter s t d 0 (some 1)
  else if st = 5 ∧ !(runReq s t d) then chEnter (modChan s t d (fun c => { c with fresh := false })) t d 1 none
  else if st = 5 ∧ (reason = 2 ∨ (reason = 3 ∧ stage s t = 0)) ∧ flag s t R.DRV_CFG_AUTO_RESTART then chEnter s t d 2 none
  else if st = 1 ∧ runReq s t d ∧ !c.fresh then chEnter s t d 2 none
  else if st = 1 ∧ (!(enabled s t) ∨ !(vdcOk s t d)) then chEnter s t d 0 none
  else if st = 0 ∧ enabled s t ∧ vdcOk s t d then chEnter s t d 1 none
  else s

/-- The transition of a run (R210, R220): a loss that is due in it is noted and takes part. -/
def transition (s : State) (t : Twin) (d : Nat) : State :=
  if lossDue s t d then firstRow (noteLoss s t d) t d true else firstRow s t d false

/-! Catching. -/

/-- A catch attempt fails (R219). -/
def catchFail (s : State) (t : Twin) (d : Nat) : State :=
  modChan (ev s t (df R.DRV_D_EVENT_CATCH_FAIL d)) t d (fun c =>
    { c with phase := 8, fails := c.fails + 1, mode := 0, wFound := 0#32 })

/-- The blocks of a type with an output bound to a role of the channel. -/
def roleBlock (s : State) (t : Twin) (d r type : Nat) : Option Nat :=
  match graph s t, roleNode s t d r with
  | some g, some n => ((g.blocks.zip (List.range g.blocks.length)).find? (fun p =>
      p.1.type == type && decide (p.1.out0 ≤ n) && decide (n < p.1.out0 + p.1.nout))).map (·.2)
  | _, _ => none

/-- A catch ends with angle `ths` and speed `w` (R216 steps 6 and 7): the seeds are written into FLUX_OBS and, where
injection applies, HFI_DEMOD, before the first operation of the next run. -/
def catchSeed (s : State) (t : Twin) (d : Nat) (ths w : W32) : State :=
  let psim := dw s t R.DRV_D_PSIM d
  let ls0 := mul (dw s t R.DRV_D_LS d) 0#32
  let s := match roleBlock s t d roRes 0x23 with
    | some b =>
      let a := R.LAW_BLK_STATE + 256 * b
      let s := wr (wr s t a (add ls0 (mul psim (cos ths)))) t (a + 4) (add ls0 (mul psim (sin ths)))
      wr (wr s t (a + 16) ths) t (a + 20) w
    | none => s
  let s := match roleBlock s t d roEps 0x25 with
    | some b =>
      if flag s t (df R.DRV_D_CTRL_HFI_EN d) ∧ lt (abs w) (dw s t R.DRV_D_XO_WHI d) then
        wr (wr s t (R.LAW_BLK_STATE + 256 * b) w) t (R.LAW_BLK_STATE + 256 * b + 4) ths
      else s
    | none => s
  modChan (setRole s t d roCatchW w) t d (fun c => { c with catchW := w, wFound := w, done := true, phase := 0, mode := 1 })

/-- K = ceil(CATCH_T ÷ Ts). -/
def catchRuns (s : State) (t : Twin) (d : Nat) : Nat :=
  let q := div (ofRatio (rf s t (df R.DRV_D_TIMING1_CATCH_T d)) 1000) (drvTs s t)
  (- floorInt (neg q)).toNat

/-- One run of a catch in progress: measuring (R216 steps 1 and 2), the peaks of the polarity test (R217), or a step of
the speed search (R218). DEDUCED, unsafe: log entry 115. -/
def catchRun (s : State) (t : Twin) (d : Nat) : State :=
  let c := chan s t d
  let ts := drvTs s t
  match c.phase with
  | 1 =>
    let th := atan2 (role s t d roVtb) (role s t d roVta)
    let e := Blk.norm (role s t d roVta) (role s t d roVtb)
    let sumW := if c.n = 0 then 0#32 else add c.sumW (Blk.wrap (sub th c.th))
    modChan s t d (fun c => { c with
      n := c.n + 1
      th := th
      sumE := add c.sumE e
      sumW := sumW
      wFound := if c.n = 0 then 0#32 else div sumW (mul (ofInt c.n) ts) })
  | 6 | 7 =>
    let p := role s t d roP
    let on := c.srchOn || le (dw s t R.DRV_D_SRCH_PTH d) p
    let w := c.srchW
    if c.srchOn && le p 0#32 && !(isZero w) then
      modChan (setRole s t d roCatchW w) t d (fun c => { c with catchW := w, wFound := w, done := true, phase := 0 })
    else
      let dwv := mul (dw s t R.DRV_D_SRCH_RATE d) ts
      let w' := if c.phase = 6 then F32.max (sub w dwv) 0#32 else F32.min (add w dwv) 0#32
      if isZero w' ∧ c.phase = 6 then
        let w0 := neg (dw s t R.DRV_D_SRCH_FMAX d)
        modChan s t d (fun c => { c with phase := 7, srchW := w0, wFound := w0, srchOn := false })
      else if isZero w' then
        modChan (setRole s t d roCatchW 0#32) t d (fun c => { c with catchW := 0#32, wFound := 0#32, srchW := 0#32,
                                                                     done := true, phase := 0 })
      else modChan s t d (fun c => { c with srchW := w', srchOn := on, wFound := w' })
  | 2 | 4 =>
    let id := abs (add (mul (role s t d roIa) (cos c.ang)) (mul (role s t d roIb) (sin c.ang)))
    modChan s t d (fun c => if c.phase = 2 then { c with peakP := F32.max c.peakP id }
      else { c with peakN := F32.max c.peakN id })
  | _ => s

/-! Each run. -/

/-- The cross-over from injection to observer (R213, R215). -/
def crossOver (s : State) (t : Twin) (d : Nat) : State :=
  let w := abs (role s t d roW)
  if !(machine s t) ∨ induction s t d ∨ !(flag s t (df R.DRV_D_CTRL_HFI_EN d)) then
    modChan s t d (fun c => { c with hfi := false, xoReq := true, xoHold := false })
  else if le w (dw s t R.DRV_D_XO_WLO d) then
    modChan s t d (fun c => { c with hfi := true, xoReq := false, xoHold := c.xoHold || !c.hfi })
  else if le (dw s t R.DRV_D_XO_WHI d) w then
    let active := le half (role s t d roXo)
    modChan s t d (fun c => { c with xoReq := true, hfi := c.hfi && !active })
  else s

/-- One of the three loss conditions of R220 holds. -/
def lossNow (s : State) (t : Twin) (d : Nat) : Bool :=
  let observer := (roleNode s t d roXo).isNone || le half (role s t d roXo)
  (if observer then lt (mul (dw s t R.DRV_D_RES_THR d) (dw s t R.DRV_D_PSIM d)) (role s t d roRes)
   else lt (dw s t R.DRV_D_EPS_THR d) (abs (role s t d roEps)))
    || lt (dw s t R.DRV_D_WPLAUS d) (abs (role s t d roW))

/-- The speed estimate of ASC (R223). -/
def ascEstimate (s : State) (t : Twin) (d : Nat) : State :=
  let ts := drvTs s t
  let th := atan2 (role s t d roIb) (role s t d roIa)
  let al := div ts (add 0x3BA3D70A#32 ts)
  modChan s t d (fun c => { c with
    wsc := (match c.iang with
      | some p => fma al (sub (div (Blk.wrap (sub th p)) ts) c.wsc) c.wsc
      | none => c.wsc)
    iang := some th
    imag := Blk.norm (role s t d roIa) (role s t d roIb) })

/-- The held speed ω_h (R220) at the end of the run. -/
def heldSpeed (s : State) (t : Twin) (d : Nat) : State :=
  let c := chan s t d
  let put := fun (v : W32) => wr s t (R.DRV_D_W_HELD + 256 * d) v
  match chSt s t d with
  | 2 => put c.wFound
  | 3 | 4 => if machine s t && lossNow s t d then s else put (role s t d roW)
  | 6 => put (if c.neg then neg (abs c.wsc) else abs c.wsc)
  | _ => put 0#32

/-- The runs in a row in which a loss condition has held (R220). DEDUCED, unsafe: log entry 117. -/
def lossCount (s : State) (t : Twin) (d : Nat) : State :=
  let on := machine s t && (chSt s t d == 3 || chSt s t d == 4) && lossNow s t d
  modChan s t d (fun c => if on then { c with loss := c.loss + 1 } else { c with loss := 0, lost := false })

/-- TQ_SCALE (R209). -/
def torqueScale (s : State) (t : Twin) (d : Nat) : State :=
  let x := dw s t R.DRV_D_TQ_SCALE d
  let step := mul (dw s t R.DRV_D_TQ_RAMP d) (drvTs s t)
  wr s t (R.DRV_D_TQ_SCALE + 256 * d) (match chSt s t d with
    | 3 => F32.min one (add x step)
    | 4 => F32.max 0#32 (sub x step)
    | _ => 0#32)

/-- This twin's own result of a monitor source (R224). -/
def monValue (s : State) (t : Twin) (adc entry : Nat) : W32 :=
  adcValue s t (16 * adc + entry) (rd s t (resAddr adc entry))

/-- The monitor torque and its verdicts (R224, R225). -/
def torqueMonitor (s : State) (t : Twin) (d : Nat) : State :=
  let c := chan s t d
  let ts := drvTs s t
  let src := fun (a e : Fld) => monValue s t (rf s t (df a d)) (rf s t (df e d))
  let ia := src R.DRV_D_TMON_ADC_IA_ADC R.DRV_D_TMON_SRC_IA
  let ib := src R.DRV_D_TMON_ADC_IB_ADC R.DRV_D_TMON_SRC_IB
  let v := src R.DRV_D_TMON_ADC_VDC_ADC R.DRV_D_TMON_SRC_VDC
  let ibe := mul (add ia (mul two ib)) Blk.ks3
  let va := mul (role s t d roMa) v
  let vb := mul (role s t d roMb) v
  let rs := dw s t R.DRV_D_RS d
  let tau := dw s t R.DRV_D_TAU d
  let pa := add c.pa (mul ts (sub (sub va (mul rs ia)) (div c.pa tau)))
  let pb := add c.pb (mul ts (sub (sub vb (mul rs ibe)) (div c.pb tau)))
  let tmon := mul (dw s t R.DRV_D_KT d) (fma pa ibe (neg (mul pb ia)))
  let al := div ts (add (dw s t R.DRV_D_TC d) ts)
  let tf := fma al (sub (mul (role s t d roTqRef) (dw s t R.DRV_D_TQ_SCALE d)) c.tf) c.tf
  let tol := add (dw s t R.DRV_D_TOL_ABS d) (mul (dw s t R.DRV_D_TOL_REL d) (F32.max (abs tmon) (abs tf)))
  let wide := le (dw s t R.DRV_D_WMIN d) (abs (role s t d roW))
  let act := chSt s t d == 3 || chSt s t d == 4
  let badCmd := if wide then lt tol (abs (sub tmon tf)) else lt (dw s t R.DRV_D_ILIM d) (Blk.norm ia ibe)
  let badEst := wide && lt tol (abs (sub tmon (role s t d roTqEst)))
  let s := wr s t (R.DRV_D_T_MON + 256 * d) tmon
  let solo := twState s t == tsLeading && twOther s t != tsFollowing
  let s := wf s t (df R.DRV_D_STATE_MON_SOLO d) (bit solo)
  modChan s t d (fun c => { c with pa := pa, pb := pb, tf := tf, badCmd := act && badCmd, badEst := act && badEst })

/-- The sequencer's output values of a channel with their roles, in the order of the table of R206. -/
def seqOutputs (s : State) (t : Twin) (d : Nat) : List (Nat × W32) :=
  let c := chan s t d
  let b := fun (v : Bool) => if v then one else 0#32
  let vd := if c.phase = 2 then dw s t R.DRV_D_VPOL d else if c.phase = 4 then neg (dw s t R.DRV_D_VPOL d) else 0#32
  let search := c.phase == 6 || c.phase == 7
  [(roPulse, b (c.mode == 1)), (roTqScale, dw s t R.DRV_D_TQ_SCALE d), (roRegen, rd s t R.DRV_REGEN_LIM),
    (roRet, rd s t R.DRV_SPILL_RET), (roXoReq, b (c.xoReq || c.xoHold)), (roHfi, b c.hfi), (roVd, vd),
    (roSrchW, if search then c.srchW else 0#32), (roSrchI, if search then dw s t R.DRV_D_SRCH_I d else 0#32),
    (roCatchW, c.catchW), (roState, ofInt (chSt s t d))]

/-- The channel's outputs to the graph and its status bits (R206, R241). -/
def chanOutputs (s : State) (t : Twin) (d : Nat) : State :=
  let hfi := (chan s t d).hfi
  let s := (seqOutputs s t d).foldl (fun s o => setRole s t d o.1 o.2) s
  wf (wf s t (df R.DRV_D_STATE_HFI_ON d) (bit hfi)) t (df R.DRV_D_STATE_XMODE d) (bit (le half (role s t d roXo)))

/-- One channel in one run. DEDUCED, unsafe: log entry 118. -/
def chanRun (t : Twin) (s : State) (d : Nat) : State :=
  let s := crossOver s t d
  let s := if chSt s t d = 2 then catchRun s t d else s
  let s := if chSt s t d = 6 then ascEstimate s t d else s
  let s := heldSpeed (lossCount s t d) t d
  let s := torqueScale (transition s t d) t d
  chanOutputs (if machine s t then torqueMonitor s t d else s) t d

/-! Spillway. -/

/-- Show a stage at least this high. -/
def raiseStage (s : State) (t : Twin) (n : Nat) : State :=
  if stage s t < n then wf s t R.DRV_STATUS_SPILL n else s

/-- Stage 2, and stage 3 in the same run (R229). -/
def stage2 (s : State) (t : Twin) : State :=
  if (s.tw t).drv.falling then s
  else
    let s := modDrv (raiseStage (ev s t R.DRV_EVENT_STAGE2) t 2) t (fun x => { x with falling := true })
    if flag s t R.DRV_CFG_RETURN_EN ∧ flag s t R.ARR_STATUS_RUNNING ∧ !(flag s t R.ARR_STATUS_BLOCKED) then
      modDrv (raiseStage s t 3) t (fun x => { x with rising := true })
    else ev s t R.DRV_EVENT_RETURN_SKIPPED

/-- Stage 5 (R229): the trip is latched, counted, and demanded from the safety monitor (R367).
DEDUCED, unsafe: log entry 119. -/
def spillTrip (s : State) (t : Twin) : State :=
  if stage s t = 5 then s
  else
    let s := wf (raiseStage s t 5) t R.DRV_STATUS_SPILL_TRIP 1
    demand (cnt (ev s t R.DRV_EVENT_SPILL_TRIP) t R.DRV_SPILL_TRIPS) t 3

/-- A value moved towards a limit by a step. -/
def ramp (x step lo hi : W32) (up : Bool) : W32 := if up then F32.min hi (add x step) else F32.max lo (sub x step)

/-- Spillway in one run (R229, R230). -/
def spillRun (s : State) (t : Twin) : State :=
  let v := vdc s t
  let lo := rd s t R.DRV_VCH_LO
  let s := if stage s t = 0 ∧ lt lo v then
      let s := wf (cnt (ev s t R.DRV_EVENT_STAGE1) t R.DRV_SPILLS) t R.DRV_STATUS_SPILL 1
      if flag s t R.DRV_STATUS_CHOPPER_FAIL then stage2 s t else s
    else s
  let s := modDrv s t (fun x => { x with
    duty := if stage s t = 0 then 0#32
      else clamp (div (sub v lo) (sub (rd s t R.DRV_VCH_HI) lo)) 0#32 one })
  let s := if 0 < stage s t ∧ le (rd s t R.DRV_V_S4) v then raiseStage s t 4 else s
  let s := if 0 < stage s t ∧ le (rd s t R.DRV_V_TRIP) v then spillTrip s t else s
  let r := mul (rd s t R.DRV_RGN_RAMP) (mul (drvTs s t) 0x447A0000#32)
  let retp := rd s t R.DRV_RET_P
  let s := wr s t R.DRV_REGEN_LIM (ramp (rd s t R.DRV_REGEN_LIM) r 0#32 one (!((s.tw t).drv.falling)))
  wr s t R.DRV_SPILL_RET (ramp (rd s t R.DRV_SPILL_RET) (mul retp r) 0#32 retp (s.tw t).drv.rising)

/-- The outputs that the channels share, which the sequencer also writes with no channel (TOPO 0) (R206). -/
def sharedOutputs (s : State) (t : Twin) : List (Nat × W32) :=
  [(roRegen, rd s t R.DRV_REGEN_LIM), (roRet, rd s t R.DRV_SPILL_RET)]

/-- The sequencer runs at the completion of a run of the drive group (R206): Spillway, then the channels. -/
def sequencerRun (s : State) (t : Twin) : State :=
  let s := spillRun s t
  let s := if flag s t R.DRV_STATUS_DISCHARGED ∧ lt 0x42700000#32 (vdc s t) then wf s t R.DRV_STATUS_DISCHARGED 0 else s
  if (channels s t).isEmpty then (sharedOutputs s t).foldl (fun s o => setRole s t 0 o.1 o.2) s
  else (channels s t).foldl (chanRun t) s

/-- The sequencer's output values of every channel with their nodes, for the digest of the drive group (R206). -/
def seqDigest (s : State) (t : Twin) : List (Nat × W32) :=
  if (channels s t).isEmpty then (sharedOutputs s t).map (fun o => ((roleNode s t 0 o.1).getD 0, o.2))
  else (channels s t).flatMap (fun d => (seqOutputs s t d).map (fun o => ((roleNode s t d o.1).getD 0, o.2)))

end Sys2Proof.Machine
end

