-- ==== Sys2Proof/Machine/DriveRows.lean ====
section
/-! DEFINITION. Meanings of the rows of 06_drive_control. -/

namespace Sys2Proof.Machine
open F32

/-- The forces of the sequencer on the pairs of a channel (R212, R223): blocked pulses force both outputs off; active
short circuit forces the switches nearest ASC_SIDE on (output A the upper, B the lower) and the others off.
DESIGN CHOICE, unsafe: log entry 113. -/
def chanForces (s : State) (t : Twin) (d : Nat) : State :=
  let m := (chan s t d).mode
  let upper := flag s t R.DRV_CFG_ASC_SIDE
  let qa := if m = 1 then 0 else if m = 2 ∧ upper then 2 else 1
  let qb := if m = 1 then 0 else if m = 2 ∧ !upper then 2 else 1
  (chanPairs s t d).foldl (fun s p => settlePair (modPwm s p (fun x => { x with qA := qa, qB := qb })) p) s

/-- A count of 1/16 ns from a binary32 value, rounded to nearest even (R167). -/
def toSub (x : W32) : Nat := (F32.toIntScaled x 0).toNat

/-- The chopper's set on pair BRK_PWM (R229, R248): armed at the tick after the run under the IMMEDIATE rule.
DEDUCED, unsafe: log entry 114. -/
def chopperSet (s : State) (t : Twin) : State :=
  let x := (s.tw t).drv
  if stage s t = 0 ∧ x.duty = x.armed then s
  else
    let p := rf s t R.DRV_CFG_BRK_PWM
    let per := rd s t R.DRV_CH_PERIOD
    let q : PwmSet := { latentSet s t p with period := per.toNat, cmpA := toSub (mul x.duty (ofInt per.toNat)) }
    modDrv (armSet s p q true) t (fun x => { x with armed := x.duty })

/-- The discharge pair's generator (R206, R228): runs at DIS_PERIOD with DIS_DUTY per cent while the discharge
switches. -/
def dischargeGen (s : State) (t : Twin) : State :=
  let g := rf s t R.DRV_CFG_DIS_GD
  let x := (s.tw t).drv.dis
  if x = 2 ∨ x = 4 ∨ (s.tw t).drv.kept then
    let per := rd s t R.DRV_DIS_PERIOD
    let on := toSub (mul (ofInt per.toNat) (ofRatio (rf s t R.DRV_DIS_KEEP_DIS_DUTY) 100))
    modGen s g (fun y => { y with seq := some (per.toNat, on) })
  else if (gen s g).seq.isSome then
    settlePair (modGen s g (fun y => { y with seq := none, run := false, s := false })) (8 + g)
  else s

/-- The PWM pairs that arrangement `topo` uses, up to its count (R204). -/
def topoPairs (topo : Nat) : Nat := if topo = 0 then 0 else if topo = 1 ∨ topo = 4 then 3 else 6

/-- A write of DRV_CFG changes the arrangement: the sequencer's forces end on the pairs that it no longer uses (R204,
R212). -/
def topoSet (s : State) (old new : Nat) : State :=
  (List.range 6).foldl (fun s p =>
    if topoPairs new ≤ p ∧ p < topoPairs old then settlePair (modPwm s p (fun x => { x with qA := 0, qB := 0 })) p else s) s

/-- The sequencer's outputs of the twin whose settings the pins follow (R206, R212). -/
def applySequencer (s : State) : State :=
  let t := edgeTwin s
  dischargeGen (chopperSet ((channels s t).foldl (fun s d => chanForces s t d) s) t) t

/-- SEQUENCER_OUTPUT_APPLY (R206, R212): at the next TB tick after the run pulse block, active short circuit, chopper
and discharge take effect. -/
def execSequencerOutputApply (s : State) : Out := .next (applySequencer s)

/-- The roles that the developed configuration of a channel needs (R207). -/
def rolesNeeded (s : State) (t : Twin) (d : Nat) : List Nat :=
  if !(machine s t) then []
  else [roVdc, roTqRef, roW, roTh, roIa, roIb, roRes]
    ++ (if !(induction s t d) ∧ flag s t (df R.DRV_D_CTRL_HFI_EN d) then [roEps] else [])
    ++ (if induction s t d then [roP] else [roVta, roVtb])

/-- A monitor source lies in its converter's regular sequence (R241). -/
def monSources (s : State) (t : Twin) (d : Nat) : Bool :=
  let ok := fun (a e : Fld) => decide (rf s t (df e d) < rf s t (cf R.ADC_C_RCFG_LEN (rf s t (df a d))))
  ok R.DRV_D_TMON_ADC_IA_ADC R.DRV_D_TMON_SRC_IA && ok R.DRV_D_TMON_ADC_IB_ADC R.DRV_D_TMON_SRC_IB
    && ok R.DRV_D_TMON_ADC_VDC_ADC R.DRV_D_TMON_SRC_VDC

/-- Every channel's roles and sources are bound (R207, R241). -/
def drvBound (s : State) (t : Twin) : Bool :=
  (channels s t).all (fun d => (rolesNeeded s t d).all (fun r => (roleNode s t d r).isSome) && (!(machine s t) || monSources s t d))

/-- DRV_CTRL.ENABLE is written (R207, R210, R228): refused with DRV_BINDING where a role or a source is missing; the
sequencer's next run takes the transitions, and a discharge switch kept on turns off. -/
def driveEnable (tg : Target) (s : State) (v : Bool) : State :=
  let code := targetCode tg (fun t => if v && !(drvBound s t) then Rc.DRV_BINDING else Rc.OK)
  if code ≠ Rc.OK then say s code
  else onTarget tg (fun s t =>
    let s := wf s t R.DRV_CTRL_ENABLE (bit v)
    if v then modDrv s t (fun x => { x with kept := false, dis := if x.dis = 3 then 0 else x.dis }) else s) (say s Rc.OK)

/-- DRIVE_ENABLE (R207, R210, R240). -/
def execDriveEnable (tg : Target) (v : Bool) (s : State) : Out := .next (agreedOnly tg s (fun s => driveEnable tg s v))

/-- DRV_Dd_CTRL.RUN is written (R210, R454): 1 is refused in Safelight; 0 makes a later 1 a fresh RUN. -/
def channelRun (tg : Target) (s : State) (d : Nat) (v : Bool) : State :=
  if v && safelight s then say s Rc.SAFELIGHT_ACTIVE
  else onTarget tg (fun s t =>
    let s := wf s t (df R.DRV_D_CTRL_RUN d) (bit v)
    if v then s else modChan s t d (fun c => { c with fresh := false })) (say s Rc.OK)

/-- CHANNEL_RUN (R210, R240). -/
def execChannelRun (tg : Target) (d : Fin 2) (v : Bool) (s : State) : Out :=
  .next (agreedOnly tg s (fun s => channelRun tg s d.val v))

/-- XO_HOLD_END (R213): the 20 ms hold of XO_REQ after a rise of HFI_EN ends. -/
def execXoHoldEnd (d : Fin 2) (s : State) : Out :=
  .next (onComputing (fun s t => modChan s t d.val (fun c => { c with xoHold := false })) s)

/-- The measurement of a permanent-magnet catch ends (R216 steps 2 to 5, R217, R219). -/
def catchMeasured (s : State) (t : Twin) (d : Nat) : State :=
  let c := chan s t d
  if c.phase ≠ 1 ∨ c.n < catchRuns s t d ∨ c.n = 0 then s
  else
    let e := div c.sumE (ofInt c.n)
    let w := c.wFound
    let emf := mul (dw s t R.DRV_D_PSIM d) (abs w)
    if lt e (dw s t R.DRV_D_CATCH_EMIN d) then
      modChan s t d (fun c => { c with phase := 2, mode := 1, wFound := 0#32, ang := role s t d roTh, peakP := 0#32,
                                       peakN := 0#32 })
    else if le (abs (sub e emf)) (mul (mul (dw s t R.DRV_D_CATCH_TOL d) (dw s t R.DRV_D_PSIM d)) (abs w)) then
      let th := Blk.wrap (sub c.th (div (mul (sign w) Blk.pi1) two))
      catchSeed s t d (Blk.wrap (add th (mul w (drvTs s t)))) w
    else catchFail s t d

/-- What a step of a catch after a run leaves in force for the next: the transition where the catch is complete, and the
channel's outputs (R206, R216 steps 6 and 7). -/
def catchShow (s : State) (t : Twin) (d : Nat) : State :=
  if chSt s t d = 2 then chanOutputs (transition s t d) t d else s

/-- CATCH_MEASURE_END (R216): K runs have been measured. -/
def execCatchMeasureEnd (d : Fin 2) (s : State) : Out :=
  .next (onComputing (fun s t => catchShow (catchMeasured s t d.val) t d.val) s)

/-- A phase of the polarity test ends; the last compares the peaks (R217). DEDUCED, unsafe: log entry 116. -/
def polarityNext (s : State) (t : Twin) (d : Nat) : State :=
  let c := chan s t d
  if c.phase = 2 ∨ c.phase = 3 then modChan s t d (fun c => { c with phase := c.phase + 1 })
  else if c.phase = 4 then
    let k := 0x3F866666#32
    if lt (mul k c.peakP) c.peakN then catchSeed s t d (Blk.wrap (add c.ang Blk.pi1)) 0#32
    else if lt (mul k c.peakN) c.peakP then catchSeed s t d c.ang 0#32
    else catchFail s t d
  else s

/-- POLARITY_TEST (R217): a TPOL phase ends. -/
def execPolarityTest (d : Fin 2) (s : State) : Out :=
  .next (onComputing (fun s t => catchShow (polarityNext s t d.val) t d.val) s)

/-- CATCH_RETRY (R219): 10 ms after a failed attempt the catch restarts, unless its retries are used up. -/
def execCatchRetry (d : Fin 2) (s : State) : Out :=
  .next (onComputing (fun s t =>
    if (chan s t d.val).phase = 8 ∧ (chan s t d.val).fails ≤ rf s t (df R.DRV_D_TIMING1_CATCH_RETRY d.val)
    then catchStart s t d.val else s) s)

/-- A loss that is due and that no run has acted on yet acts (R210, R220 to R222, R231). -/
def observerLoss (s : State) (t : Twin) (d : Nat) : State := if lossDue s t d then transition s t d else s

/-- OBSERVER_LOSS (R220): a run acts on a loss that falls due in it by itself; the row acts on one that falls due
between runs, when RES_N develops. DEDUCED, unsafe: log entry 259. -/
def execObserverLoss (d : Fin 2) (s : State) : Out := .next (onComputing (fun s t => observerLoss s t d.val) s)

/-- ASC_EXIT (R223): the exit conditions have held for ASC_T; the channel enters BLOCKED with its reason kept. -/
def ascExit (s : State) (t : Twin) (d : Nat) : State :=
  let c := chan s t d
  let slow := lt (abs c.wsc) (mul (dw s t R.DRV_D_W_ASC d) (sub one (dw s t R.DRV_D_ASC_HYST d)))
  let weak := lt c.imag (dw s t R.DRV_D_ASC_IMIN d)
  if chSt s t d = 6 ∧ (slow ∨ weak) ∧ lt (vdc s t) (rd s t R.DRV_V_S4) ∧ !(discharging s t) then chEnter s t d 5 none else s

/-- ASC_EXIT (R223): a channel held in ASC by a discharge stays there (R228). -/
def execAscExit (d : Fin 2) (s : State) : Out := .next (onComputing (fun s t => ascExit s t d.val) s)

/-- The twin that judges its torque monitor: the follower, or a leader whose other twin does not follow (R225). -/
def monJudges (s : State) (t : Twin) : Bool :=
  twState s t == tsFollowing || (twState s t == tsLeading && twOther s t != tsFollowing)

/-- TMON_CMD (R225): bad_cmd has held for TMON_T; the event is set and counted in both twins, and with REACT the
torque-monitor demand is raised in the judging twin's own side. -/
def execTmonCmd (t : Twin) (d : Fin 2) (s : State) : Out :=
  .next (if machine s t ∧ monJudges s t ∧ (chan s t d.val).badCmd then
      let s := onLive (fun s u => cnt (ev s u (df R.DRV_D_EVENT_TMON_CMD d.val)) u (R.DRV_D_TMON_VIOL + 256 * d.val)) s
      if flag s t (df R.DRV_D_TMON_SRC_REACT d.val) then demand s t 0 else s
    else s)

/-- TMON_EST (R225): bad_est has held for TMON_T with bad_cmd clear; the event is set, without a reaction. -/
def execTmonEst (t : Twin) (d : Fin 2) (s : State) : Out :=
  .next (if machine s t ∧ monJudges s t ∧ (chan s t d.val).badEst ∧ !(chan s t d.val).badCmd then ev s t (df R.DRV_D_EVENT_TMON_EST d.val)
    else s)

/-- Whether cells carry isolation blocks for a discharge. -/
def feedStop (s : State) (t : Twin) (v : Bool) : State := modArr s t (fun a => { a with feedStop := v, feedWins := 0 })

/-- DRV_CTRL.DISCHARGE is written (R227, R228): a second request has no effect. -/
def discharge (tg : Target) (s : State) : State :=
  onTarget tg (fun s t => if !(computing s t) ∨ discharging s t then s else feedStop (modDrv s t (fun x => { x with dis := 1 })) t true) (say s Rc.OK)

/-- DISCHARGE (R227). -/
def execDischarge (tg : Target) (s : State) : Out := .next (agreedOnly tg s (discharge tg))

/-- The array has not been RUNNING for N + 2 array cycles, N the cells' command-loss count (R227 step 2). -/
def arrayRested (s : State) (t : Twin) : Bool :=
  !(flag s t R.ARR_STATUS_RUNNING) && (match (s.tw t).arr.ranAt with
    | none => true
    | some r => decide (r + rf s t R.ARR_TIMING_CMDLOSS + 3 ≤ (s.tw t).arr.n))

/-- No power is fed into the link (R227 step 2): the array has rested, or isolation blocks have been in two windows already
applied. -/
def noFeed (s : State) (t : Twin) : Bool := arrayRested s t || decide (2 ≤ (s.tw t).arr.feedWins)

/-- DISCHARGE_START (R228): the discharge pair starts switching, and VDC is recorded as V0. -/
def execDischargeStart (s : State) : Out :=
  .next (onComputing (fun s t =>
    if (s.tw t).drv.dis = 1 ∧ noFeed s t then
      wf (modDrv s t (fun x => { x with dis := 2, v0 := vdc s t })) t R.DRV_STATUS_DISCHARGING 1
    else s) s)

/-- The discharge ends, its switch kept on or not, and with it the suspension of the cells' feed (R227 step 3, R228). -/
def disEnd (s : State) (t : Twin) (next : Nat) (kept : Bool) : State :=
  feedStop (wf (modDrv s t (fun x => { x with dis := next, kept := kept })) t R.DRV_STATUS_DISCHARGING 0) t false

/-- DIS_REFUSED (R227): the no-feed condition has not held within DIS_WAIT; ARRAY_FEEDING is reported. -/
def execDisRefused (s : State) : Out :=
  .next (if (s.tw (asker s)).drv.dis = 1 ∧ !(noFeed s (asker s)) then
      onComputing (fun s t => ev (disEnd s t 0 (s.tw t).drv.kept) t R.DRV_EVENT_DIS_REFUSED) (say s Rc.ARRAY_FEEDING)
    else s)

/-- DIS_STUCK (R228): VDC has not fallen below 0.9 × V0 within DIS_TIME ÷ 8; switching stops. -/
def execDisStuck (s : State) : Out :=
  .next (onComputing (fun s t =>
    let x := (s.tw t).drv
    if x.dis = 2 ∧ !(lt (vdc s t) (mul 0x3F666666#32 x.v0)) then ev (disEnd s t 0 false) t R.DRV_EVENT_DIS_STUCK else s) s)

/-- DIS_DONE (R228): VDC has stayed below 60 V for 10 ms; the switch stays on with DIS_KEEP = 1. -/
def execDisDone (s : State) : Out :=
  .next (onComputing (fun s t =>
    let x := (s.tw t).drv.dis
    if (x = 2 ∨ x = 4) ∧ lt (vdc s t) 0x42700000#32 then
      let s := wf (ev s t R.DRV_EVENT_DIS_DONE) t R.DRV_STATUS_DISCHARGED 1
      let keep := flag s t R.DRV_DIS_KEEP_DIS_KEEP
      disEnd s t (if keep then 3 else 0) keep
    else s) s)

/-- DIS_FAIL (R228): VDC is not below 60 V within DIS_TIME; switching continues. -/
def execDisFail (s : State) : Out :=
  .next (onComputing (fun s t =>
    if (s.tw t).drv.dis = 2 ∧ !(lt (vdc s t) 0x42700000#32) then
      ev (modDrv s t (fun x => { x with dis := 4 })) t R.DRV_EVENT_DIS_FAIL
    else s) s)

/-- DISCHARGE_END (R228): after DIS_TIME × 2 a failed discharge stops switching. -/
def execDischargeEnd (s : State) : Out :=
  .next (onComputing (fun s t => if (s.tw t).drv.dis = 4 then disEnd s t 0 false else s) s)

/-- CHOPPER_FAIL (R229): ICHOP, where bound, has been below ICH_MIN × d at d ≥ 0.25 for TFB: latched, and stage 2
starts. -/
def execChopperFail (s : State) : Out :=
  .next (onComputing (fun s t =>
    let d := (s.tw t).drv.duty
    if 0 < stage s t ∧ (roleNode s t 0 roIchop).isSome ∧ le 0x3E800000#32 d ∧ lt (role s t 0 roIchop) (mul (rd s t R.DRV_ICH_MIN) d)
    then stage2 (wf (ev s t R.DRV_EVENT_CHOPPER_FAIL) t R.DRV_STATUS_CHOPPER_FAIL 1) t else s) s)

/-- STAGE2 (R229): VDC has been at or above VCH_HI for TCONF. -/
def execStage2 (s : State) : Out :=
  .next (onComputing (fun s t => if 0 < stage s t ∧ le (rd s t R.DRV_VCH_HI) (vdc s t) then stage2 s t else s) s)

/-- SPILL_TRIP (R229): VDC at or above V_S4 in every run for T4, or at V_TRIP. -/
def execSpillTrip (s : State) : Out :=
  .next (onComputing (fun s t =>
    if 0 < stage s t ∧ (le (rd s t R.DRV_V_S4) (vdc s t) ∨ le (rd s t R.DRV_V_TRIP) (vdc s t)) then spillTrip s t else s) s)

/-- SPILLWAY_EXIT (R230): VDC has been below VCH_LO for T_EXIT: the duty is 0 and the limits ramp back; SPILL_TRIP and
CHOPPER_FAIL stay latched. -/
def execSpillwayExit (s : State) : Out :=
  .next (onComputing (fun s t =>
    if 0 < stage s t ∧ lt (vdc s t) (rd s t R.DRV_VCH_LO) then
      modDrv (wf s t R.DRV_STATUS_SPILL 0) t (fun x => { x with duty := 0#32, falling := false, rising := false })
    else s) s)

/-- DRV_CTRL.CLEAR is written (R230): refused with SOURCE_ACTIVE while VDC is at or above VCH_LO. -/
def drvClear (tg : Target) (s : State) : State :=
  let code := targetCode tg (fun t => if computing s t ∧ le (rd s t R.DRV_VCH_LO) (vdc s t) then Rc.SOURCE_ACTIVE
    else Rc.OK)
  if code ≠ Rc.OK then say s code
  else onTarget tg (fun s t => wf (wf s t R.DRV_STATUS_SPILL_TRIP 0) t R.DRV_STATUS_CHOPPER_FAIL 0) (say s Rc.OK)

/-- CLEAR (R230). -/
def execClear (tg : Target) (s : State) : Out := .next (agreedOnly tg s (drvClear tg))

/-! Position decoders. -/

/-- Change a twin's position decoders. -/
def modPos (s : State) (t : Twin) (f : PosSt → PosSt) : State := modDrv s t (fun x => { x with pos := f x.pos })

/-- The place of (A, B) in the forward sequence 00, 01, 11, 10 (R233). -/
def quadPlace (a b : Bool) : Nat := if a then (if b then 2 else 3) else if b then 1 else 0

/-- An encoder error (R233). -/
def encError (s : State) (t : Twin) : State := ev (cnt s t R.DRV_ENC_ERR) t R.DRV_POS_EVENT_ENC_ERR

/-- The filtered levels of A, B and Z in one twin's decoder (R232, R233): one step counts +1 or −1, both changing is an
illegal transition. DESIGN CHOICE, unsafe: log entry 130. -/
def encoderStep (s : State) (t : Twin) (a b z : Bool) (stamp : Int) : State :=
  let lv := rf s t R.DRV_ENC_STATUS_LEVELS
  let d := (quadPlace a b + 4 - quadPlace (nbit lv 0) (nbit lv 1)) % 4
  let s := wf s t R.DRV_ENC_STATUS_LEVELS (4 * bit z + 2 * bit b + bit a)
  if !(flag s t R.DRV_ENC_CFG_EN) ∨ d = 0 then s
  else if d = 2 then encError s t
  else
    let up := (d == 1) != flag s t R.DRV_ENC_CFG_DIR
    modPos s t (fun p => { p with now := { p.now with
      c := if up then p.now.c + 1 else p.now.c - 1
      ce := if up then p.now.c + 1 else p.now.c - 1
      te := stamp
      counted := true } })

/-- ENCODER_COUNT (R232, R233). -/
def execEncoderCount (a b z : Bool) (stamp : W64) (s : State) : Out :=
  .next (onLive (fun s t => encoderStep s t a b z stamp.toNat) s)

/-- An index in one twin's decoder (R233). -/
def encoderIndex (s : State) (t : Twin) : State :=
  let lv := rf s t R.DRV_ENC_STATUS_LEVELS
  if !(flag s t R.DRV_ENC_CFG_EN) ∨ !(nbit lv 0 && nbit lv 1) then s
  else
    let first := !(flag s t R.DRV_ENC_STATUS_INDEXED)
    let mode := rf s t R.DRV_ENC_CFG_INDEX_MODE
    let s := wf (wr s t R.DRV_ENC_INDEX (s.tw t).drv.pos.now.c) t R.DRV_ENC_STATUS_LEVELS (4 + lv % 4)
    let s := if mode = 1 ∨ (mode = 2 ∧ first) then modPos s t (fun p => { p with now := { p.now with c := 0#32 } }) else s
    let s := modPos s t (fun p => { p with now := { p.now with indexed := true } })
    if first then ev (wf s t R.DRV_ENC_STATUS_INDEXED 1) t R.DRV_POS_EVENT_INDEX else s

/-- ENCODER_INDEX (R233): a rising edge of ENC_Z with A and B high. -/
def execEncoderIndex (s : State) : Out := .next (onLive encoderIndex s)

/-- A Hall error (R234). -/
def hallError (s : State) (t : Twin) : State := ev (cnt s t R.DRV_HALL_ERR) t R.DRV_POS_EVENT_HALL_ERR

/-- The sector of a valid Hall state (R234). -/
def hallSector (s : State) (t : Twin) (h : Nat) : Nat := rf s t R.DRV_HALL_CFG_SECTOR / 8 ^ (h - 1) % 8

/-- The decoder is enabled with the rotor in the state that STATE shows: a valid one gives the sector, without a
change of sector; an invalid one counts (R234). DEDUCED, unsafe: log entry 260. -/
def hallStart (s : State) (t : Twin) : State :=
  let h := rf s t R.DRV_HALL_STATUS_STATE
  if h = 0 ∨ h = 7 then hallError (wf s t R.DRV_HALL_STATUS_SECTOR 6) t
  else modPos (wf s t R.DRV_HALL_STATUS_SECTOR (hallSector s t h)) t (fun p => { p with hall := hallSector s t h })

/-- The Hall state in one twin's decoder (R234). -/
def hallStep (s : State) (t : Twin) (h : Nat) (stamp : Int) : State :=
  let s := wf s t R.DRV_HALL_STATUS_STATE h
  if !(flag s t R.DRV_HALL_CFG_EN) then s
  else if h = 0 ∨ h = 7 then hallError (wf s t R.DRV_HALL_STATUS_SECTOR 6) t
  else
    let old := (s.tw t).drv.pos.hall
    let sec := hallSector s t h
    let d := (sec + 6 - old) % 6
    let s := modPos (wf s t R.DRV_HALL_STATUS_SECTOR sec) t (fun p => { p with hall := sec })
    if d = 0 then s
    else if d = 1 ∨ d = 5 then
      modPos s t (fun p => { p with now := { p.now with
        dir := if d = 1 then 1 else -1
        h0 := p.now.h1
        h1 := stamp
        changes := p.now.changes + 1 } })
    else hallError s t

/-- HALL_CHANGE (R232, R234). -/
def execHallChange (h : Fin 8) (stamp : W64) (s : State) : Out :=
  .next (onLive (fun s t => hallStep s t h.val stamp.toNat) s)

/-- The live position record of a twin with its Hall sector (R235). -/
def posRecord (s : State) (t : Twin) : PosRec :=
  let p := (s.tw t).drv.pos
  { p.now with sector := rf s t R.DRV_HALL_STATUS_SECTOR, hallSec := p.hall }

/-- The twin that owns GPIO `n` (R237). -/
def gpioOwner (n : Nat) : Twin := if n < 6 then .a else .b

/-- GPIO `n` is an output in its owner's settings (R237). -/
def gpioIsOut (s : State) (n : Nat) : Bool := nbit (rd s (gpioOwner n) R.DRV_GPIO_DIR).toNat n

/-- The output map of its owner's graph binds GPIO `n`. -/
def gpioBound (s : State) (n : Nat) : Bool :=
  (graph s (gpioOwner n)).any (fun g => g.binds.any (fun b => b.kind == 0 && b.unit == n))

/-- What GPIO `n` drives (R237): 0 low, 1 high, 2 nothing. An input is not driven, and no pin is while its twin is
RESET, BOOT or WITHDRAWN; a bound output follows its node, another DRV_GPIO_OUT. DESIGN CHOICE, safe: log entry 275. -/
def gpioPin (s : State) (n : Nat) : Nat :=
  let t := gpioOwner n
  let st := twState s t
  if !(gpioIsOut s n) ∨ st = tsReset ∨ st = tsBoot ∨ st = tsWithdrawn then 2
  else if gpioBound s n then bit (nbit (s.tw t).drv.gpioOut n)
  else bit (nbit (rd s t R.DRV_GPIO_OUT).toNat n)

/-- The levels that a capture takes (R237): those read at the inputs; of an output, what it drives. DEDUCED, unsafe:
log entry 261. -/
def gpioLevels (s : State) (gpio : Nat) : Nat :=
  (List.range 12).foldl (fun m n => m + (if gpioIsOut s n then gpioPin s n % 2 else bit (nbit gpio n)) * 2 ^ n) 0

/-- The position record captured for a run triggered at device time `tau` (R235, R237): the record as it
stood at the start of cycle `n` for RG0 and groups with the ARRAY source (R286), and as it stands for the others.
DEDUCED, unsafe: log entry 40. -/
def capture (s : State) (t : Twin) (n : Nat) (atStart : Bool) (tau : Int) (gpio : Nat) : PosRec :=
  let r := if atStart then tabGet {} (s.tw t).drv.pos.starts n else posRecord s t
  { r with gpio := gpioLevels s gpio, tau := tau, derate := (List.range 6).map (sp s t R.ARR_S_DERATE) }

end Sys2Proof.Machine
end

