-- ==== Sys2Proof/Machine/Net.lean ====
section
/-! DEFINITION. Meanings of the network rows of 09_network_time: ports and redundancy (R301 to R311), sampled values
(R312 to R316), GOOSE (R317 to R319), ARP and ICMP (R334). -/

namespace Sys2Proof.Machine

/-! Link-table records (R336), in the NET_TAB window: multi-byte values little-endian (R13), addresses and names as
byte strings. -/

/-- Byte `o` of a record at window offset `base`. -/
def recByte (s : State) (t : Twin) (base o : Nat) : Nat :=
  (rd s t (R.NET_TAB + (base + o) / 4 * 4)).toNat / 2 ^ (8 * ((base + o) % 4)) % 256

/-- A little-endian value of `n` bytes. -/
def recLe (s : State) (t : Twin) (base o n : Nat) : Nat :=
  (List.range n).foldl (fun v i => v + recByte s t base (o + i) * 256 ^ i) 0

/-- A byte string of `n` bytes. -/
def recStr (s : State) (t : Twin) (base o n : Nat) : List Byte :=
  (List.range n).map (fun i => BitVec.ofNat 8 (recByte s t base (o + i)))

/-- The record's destination MAC, first byte sent as the most significant. -/
def recMac (s : State) (t : Twin) (base : Nat) : BitVec 48 :=
  BitVec.ofNat 48 ((List.range 6).foldl (fun v i => v * 256 + recByte s t base i) 0)

def svBase (i : Nat) : Nat := 0x80 * i
def svPubBase (j : Nat) : Nat := 0x400 + 0x80 * j
def gsBase (i : Nat) : Nat := 0x1000 + 0x100 * i
def gpBase (j : Nat) : Nat := 0x3000 + 0x100 * j

/-- The bytes of a padded name up to the padding. -/
def unpad (l : List Byte) : List Byte := (l.reverse.dropWhile (fun c => c == 0)).reverse

/-- Samples per second of the record at `base` (R312). -/
def svRate (s : State) (t : Twin) (base : Nat) : Nat := if recByte s t base 10 = 1 then 14400 else 4800

/-- ASDUs per message at that rate (R312). -/
def svAsdus (s : State) (t : Twin) (base : Nat) : Nat := if recByte s t base 10 = 1 then 6 else 2

/-- The channels of the record. -/
def svChans (s : State) (t : Twin) (base : Nat) : Nat := recByte s t base 11

/-- One second in units of 1/16 ns. -/
def secSub : Nat := 16000000000

/-- The sampling instant of sample `k` in second `sec` (R314), in 1/16 ns. -/
def sampleAt (rate : Nat) (sec : Int) (k : Nat) : Int := sec * (secSub : Int) + (k * secSub / rate : Nat)

/-! Duplicate discard (R307). -/

/-- Judge number `q` against a map: 0 accepted, 1 duplicate, 2 outside the window, 3 outside the window for the
fourth time in a row, by which the entry is reset and the frame accepted. -/
def ddJudge (m : DdMap) (q : Nat) : Nat × DdMap :=
  if !m.seen then (0, { seen := true, h := q, map := 1, oow := 0 }) else
  let d := (q + 65536 - m.h) % 65536
  let b := (m.h + 65536 - q) % 65536
  if d = 0 ∨ (65281 ≤ d ∧ m.map.getLsbD b) then (1, m)
  else if d ≤ 32767 then (0, { m with h := q, map := (m.map <<< d) ||| 1, oow := 0 })
  else if 65281 ≤ d then (0, { m with map := m.map ||| (1 <<< b), oow := 0 })
  else if m.oow + 1 = 4 then (3, { seen := true, h := q, map := 1, oow := 0 })
  else (2, { m with oow := m.oow + 1 })

/-- Whether a map has accepted number `q`. -/
def ddHas (m : DdMap) (q : Nat) : Bool :=
  let b := (m.h + 65536 - q) % 65536
  m.seen && decide (b ≤ 255) && m.map.getLsbD b

/-- NET_STATUS.DD_USED shows the table's length. -/
def showDd (s : State) : State := onLive (fun s t => wf s t R.NET_STATUS_DD_USED s.net.dd.length) s

/-- Judge a frame of source `src` against its entry, by the map of its direction; a new source takes a new entry, in a
full table that of the longest unused one (R307, R310). Answers whether the frame is accepted and whether the other
direction had accepted it before. -/
def ddFrame (s : State) (src : BitVec 48) (q : Nat) (dirB : Bool) : State × Bool × Bool :=
  let e := (s.net.dd.find? (fun e => e.src == src)).getD { src := src }
  let isNew := (s.net.dd.find? (fun e => e.src == src)).isNone
  let (v, m) := ddJudge (if dirB then e.b else e.a) q
  let other := ddHas (if dirB then e.a else e.b) q
  let e' := if dirB then { e with b := m } else { e with a := m }
  let rest := s.net.dd.filter (fun e => e.src != src)
  let full := isNew && decide (2048 ≤ rest.length)
  let rest := if full then rest.take 2047 else rest
  let s := modNet s (fun n => { n with dd := e' :: rest })
  let s := if full then onLive (fun s t => ev (cnt s t R.NET_DD_EVICT) t R.NET_EVENT_DD_EVICT) s else s
  let s := if v = 1 then onLive (fun s t => cnt s t R.NET_DD_DUP) s
    else if 2 ≤ v then onLive (fun s t => cnt s t R.NET_DD_OOW) s else s
  (showDd s, v == 0 || v == 3, other)

/-- DD_ENTRY_FORGET (R307): an entry that has received no frame for NET_CFG.FORGET is freed. -/
def execDdEntryForget (src : BitVec 48) (s : State) : Out :=
  .next (showDd (modNet s (fun n => { n with dd := n.dd.filter (fun e => e.src != src) })))

/-! Frames in and out of the ports. -/

/-- The SK192's MAC address. -/
def macAddr (s : State) : BitVec 48 :=
  BitVec.ofNat 48 (rf s (netTwin s) R.NET_MAC_HI_MAC_HI * 4294967296 + (rd s (netTwin s) R.NET_MAC_LO).toNat)

/-- Whether a sampled-value or GOOSE subscription names the frame's destination and APPID (R303).
DEDUCED, unsafe: log entry 154. -/
def subscribed (s : State) (f : NetFrame) (count : Nat) (base : Nat → Nat) (items : Nat) : Bool :=
  let t := netTwin s
  (List.range count).any (fun i => recByte s t (base i) items != 0 && recMac s t (base i) == f.dst
    && recLe s t (base i) 6 2 == f.appid.toNat)

/-- The handler of a frame addressed to this node; none for every other frame (R303). -/
def routeOf (s : State) (f : NetFrame) : Option NetRoute :=
  if f.dst = macAddr s then
    some (if f.ether = 0x0800#16 then .ip else if f.ether = 0x0806#16 then .arp else if f.ether = 0x88F7#16 then .ptp
      else .dropped)
  else if f.dst = 0xFFFFFFFFFFFF#48 then if f.ether = 0x0806#16 then some .arp else none
  else if f.dst = 0x011B19000000#48 ∨ f.dst = 0x0180C200000E#48 then some .ptp
  else if f.dst.toNat / 256 = 0x01154E0001 then some .supervision
  else if f.ether = 0x88BA#16 ∧ subscribed s f 8 svBase 11 then some .sv
  else if f.ether = 0x88B8#16 ∧ subscribed s f 32 gsBase 10 then some .goose
  else none

/-- The frame reaches its handler: an IP fragment, or an IP payload above 1 472 bytes, is dropped and counted (R333). -/
def netDeliver (s : State) (r : NetRoute) (f : NetFrame) : State :=
  if r = .ip ∧ (f.frag ∨ 1472 < f.payload) then
    modNet (onLive (fun s t => cnt s t R.NET_IP_DROP) s) (fun n => { n with route := some .dropped })
  else modNet s (fun n => { n with route := some r })

/-- A ring port hands a frame to the other ring port across the inter-twin link (R310); both twins must be in the pair
(R311). A Sync leaves with its residence time and the ingress port's mean link delay added to its correction; a two-step
Sync leaves that addition to its Follow_Up (R328). DEDUCED, unsafe: log entry 278. -/
def hsrForward (s : State) (p : Nat) (f : NetFrame) (resid : Int) : State :=
  if inPair s .a && inPair s .b then
    let add := resid + (tabGet {} (s.tw (portTwin p)).tm.pdelay p).delay
    let rest := s.net.tcAdd.filter (fun e => !(e.1 == p && e.2.1 == f.src && e.2.2.1 == f.ptpSeq))
    let left := (s.net.tcAdd.find? (fun e => e.1 == p && e.2.1 == f.src && e.2.2.1 == f.ptpSeq)).elim 0 (·.2.2.2)
    let s := if f.tc && f.twoStep then modNet s (fun n => { n with tcAdd := (p, f.src, f.ptpSeq, add) :: rest })
      else if f.tc && f.follow then modNet s (fun n => { n with tcAdd := rest }) else s
    let c := if !f.tc || f.twoStep then f.corr else if f.follow then f.corr + left else f.corr + add
    transmit s { kind := .forward, seq := f.seq.map BitVec.toNat, corr := c } (3 - p)
  else s

/-- A frame on a ring port (R310). PTP bypasses the table (R308); a broadcast or multicast frame that no handler takes
counts in RX_FILTERED (R303) and is forwarded. DEDUCED, unsafe: log entry 151. -/
def hsrFrame (s : State) (p : Nat) (f : NetFrame) (resid : Int) : State :=
  if f.src = macAddr s then s else
  let r : Option NetRoute := routeOf s f
  let (s, ok, before) := match f.seq with
    | none => (s, true, false)
    | some q => if r = some NetRoute.ptp then (s, true, false) else ddFrame s f.src q.toNat (decide (p = 3))
  if !ok then s else
  let multi := f.dst.toNat / 2 ^ 40 % 2 == 1
  let s := match r with
    | some r => if before && decide (r ≠ .sv ∧ r ≠ .goose) then s else netDeliver s r f
    | none => if multi then onLive (fun s t => cnt s t R.NET_RX_FILTERED) s else s
  if f.dst = 0x0180C200000E#48 then s
  else if r.isNone || multi then
    modNet (hsrForward s p f resid) (fun n => { n with route := if r.isNone then some .forwarded else n.route })
  else s

/-- A frame on a port that serves a LAN in PRP: sampled values, GOOSE and PTP bypass the duplicate-discard table
(R308); frames without a trailer pass without a check (R307). What it drops counts where it is addressed to this node, a
frame to another node's own address not (R303). -/
def prpFrame (s : State) (f : NetFrame) : State :=
  match routeOf s f with
  | none => if f.dst.toNat / 2 ^ 40 % 2 = 1 then onLive (fun s t => cnt s t R.NET_RX_FILTERED) s else s
  | some r =>
    if r = .sv ∨ r = .goose ∨ r = .ptp then netDeliver s r f
    else match f.seq with
      | none => netDeliver s r f
      | some q =>
        let (s, ok, _) := ddFrame s f.src q.toNat false
        if ok then netDeliver s r f else s

/-- NET_FRAME_RECEIVE (R303): FCS and length first, then pause frames, then the filter of the mode.
DEDUCED, unsafe: log entry 150. -/
def execNetFrameReceive (p : Fin 4) (f : NetFrame) (resid : Int) (s : State) : Out :=
  .next (
    let p := p.val
    if !(netOn s) ∨ twState s (portTwin p) = tsReset then s else crossIn s (portTwin p) 4 (fun s =>
    let s := modNet s (fun n => { n with route := some .dropped })
    if !f.fcs ∨ f.len < 64 ∨ 1536 < f.len then
      let s := if f.fcs then s else onPort p (fun s t => cnt s t (R.NET_P_RX_FCS + 64 * p)) s
      if f.len < 64 ∨ 1536 < f.len then onPort p (fun s t => cnt s t (R.NET_P_RX_LEN + 64 * p)) s else s
    else
      let s := onPort p (fun s t => cnt s t (R.NET_P_RX_OK + 64 * p)) s
      if f.ether = 0x8808#16 then onLive (fun s t => cnt s t R.NET_RX_FILTERED) s
      else if !(serving s p) then s
      else if hsr s then hsrFrame s p f resid else prpFrame s f))

/-- PRP_COPY_RELAY (R304): the other twin sends its copy of the next leader-built frame; none if that leader has gone
(R335). -/
def execPrpCopyRelay (s : State) : Out :=
  .next (match s.net.relay with
    | [] => s
    | (by_, f) :: r =>
      let s := modNet s (fun n => { n with relay := r })
      if leader s = some by_ then
        [0, 1].foldl (fun s lan => match lanPort s lan with
          | some p => if portTwin p = by_ then s else transmit s f p
          | none => s) s
      else s)

/-- Whether a take-over port may serve the LAN now (R306): its twin is in the pair and it has link, and the owning twin
is out of the pair or the owning port has no link. -/
def mayTakeOver (s : State) (lan : Nat) : Bool :=
  netOn s && !(hsr s) && inPair s (portTwin (backPort lan)) && lanPort s lan != some (backPort lan)
    && (!(inPair s (portTwin (ownPort lan))) || (!(portLink s (ownPort lan)) && portLink s (backPort lan)))

/-- PORT_TAKEOVER (R306): the take-over port assumes the LAN and first sends one supervision frame. -/
def execPortTakeover (lan : Fin 2) (s : State) : Out :=
  .next (
    let lan := lan.val
    if mayTakeOver s lan then
      let p := backPort lan
      let s := modNet s (fun n => if lan = 0 then { n with lanA := some p } else { n with lanB := some p })
      let s := onLive (fun s t => ev (showServe s t) t R.NET_EVENT_PORT_TAKEOVER) s
      let (s, f) := takeSeq s { kind := .supervision }
      transmit s f p
    else s)

/-- PORT_RETURN (R306): both conditions have ended and the link has been stable for 10 ms; the owning port resumes.
DESIGN CHOICE, unsafe: log entry 153. -/
def execPortReturn (lan : Fin 2) (s : State) : Out :=
  .next (
    let lan := lan.val
    if lanPort s lan = some (backPort lan) ∧ inPair s (portTwin (ownPort lan)) ∧ portLink s (ownPort lan) then
      let p := ownPort lan
      let s := modNet s (fun n => if lan = 0 then { n with lanA := some p } else { n with lanB := some p })
      onLive (fun s t => ev (showServe s t) t R.NET_EVENT_PORT_RETURN) s
    else s)

/-- SUPERVISION_FRAME (R309). -/
def execSupervisionFrame (s : State) : Out := .next (sendBoth s { kind := .supervision })

/-- A port's link as it stands (R301, R306): a link that would settle at half duplex does not come up; an SGMII partner at
10 or 100 Mb/s holds it down and sets SPEED; LINK_DOWN when a serving port loses link. -/
def portLinkSet (s : State) (p : Nat) (carrier sync an half : Bool) (mbps codes : Nat) : State :=
  let slow := flag s (netTwin s) (npf R.NET_P_CFG_SGMII p) && decide (mbps < 2)
  let up := carrier && sync && !half && !slow
  let lost := serving s p && portLink s p && !up
  let link := if up then (if portLink s p then s.net.link else p :: s.net.link) else s.net.link.filter (fun q => q != p)
  let s := modNet s (fun n => { n with link := link })
  let s := onPort p (fun s t =>
    let s := wf (wf s t (npf R.NET_P_STATUS_LINK p) (bit up)) t (npf R.NET_P_STATUS_SYNC p) (bit sync)
    cntBy (wf s t (npf R.NET_P_STATUS_AN_DONE p) (bit an)) t (R.NET_P_RX_CODE + 64 * p) codes) s
  onLive (fun s t =>
    let s := if slow then ev s t R.NET_EVENT_SPEED else s
    if lost then ev s t R.NET_EVENT_LINK_DOWN else s) s

/-- PORT_LINK_CHANGE (R301, R306). -/
def execPortLinkChange (p : Fin 4) (carrier sync an half : Bool) (mbps : Fin 3) (codes : BitVec 16) (s : State) : Out :=
  .next (portLinkSet s p.val carrier sync an half mbps.val codes.toNat)

/-! Sampled values. -/

def svf (f : Fld) (i : Nat) : Fld := fo f (32 * i)

/-- The quality word's validity is invalid (01), and its test bit, as IEC 61850-7-3 lays them out.
PRESUMED, unsafe: log entry 155. -/
def qInvalid (q : W32) : Bool := q.toNat % 4 == 1
def qTest (q : W32) : Bool := nbit q.toNat 11

/-- Whether an accepted message's fields match the record (R313). -/
def svMatches (s : State) (t : Twin) (i : Nat) (m : SvMsg) : Bool :=
  let b := svBase i
  recMac s t b == m.dst && recLe s t b 6 2 == m.appid.toNat
    && recStr s t b 20 (min 44 (recByte s t b 19)) == m.svid && recLe s t b 12 4 == m.confRev.toNat
    && decide (m.asdus.length = svAsdus s t b) && m.asdus.all (fun a => decide (a.chans.length = svChans s t b))
    && (!m.sim || nbit (recByte s t b 18) 0)

/-- A channel's SCALE. -/
def svScale (s : State) (t : Twin) (base c : Nat) : W32 := BitVec.ofNat 32 (recLe s t base (64 + 4 * c) 4)

/-- The channels of one ASDU as copies: each value converted and scaled, and its validity (R313). -/
def svVals (s : State) (t : Twin) (i : Nat) (a : SvAsdu) : List (W32 × Bool) :=
  let bad := nbit (recByte s t (svBase i) 18) 1 && decide (a.synch.toNat < 2)
  (a.chans.zip (List.range 16)).map (fun p =>
    (F32.mul (F32.ofInt p.1.1.toInt) (svScale s t (svBase i) p.2),
     !(qInvalid p.1.2) && (!(qTest p.1.2) || safelight s) && !bad))

/-- The copy of one ASDU; the second of the sample is that of its arrival, less one if smpCnt is above the count that device time predicts (R314). -/
def svCopyOf (s : State) (t : Twin) (i : Nat) (a : SvAsdu) : SvCopy :=
  let b := svBase i
  let now := nowSub s t
  let sec := now / (secSub : Int)
  let here := ((now % (secSub : Int)).toNat) * svRate s t b / secSub
  let sec := if here < a.cnt.toNat then sec - 1 else sec
  ⟨sampleAt (svRate s t b) sec a.cnt.toNat, a.cnt.toNat, a.synch.toNat, svVals s t i a⟩

/-- SV_RECEIVE (R308, R313): a matching message becomes copies under the LAN it came on; the newest 64 samples are kept. The
first accepted sample ends LOST, with its run of missing samples (R315). DESIGN CHOICE, unsafe: log entry 156. -/
def execSvReceive (t : Twin) (i : Fin 8) (lan : Fin 2) (m : SvMsg) (s : State) : Out :=
  .next (
    let i := i.val
    if !(takesLan s t lan.val) then s else lanIn s lan.val (fun s =>
    if svMatches s t i m then
      let cs := m.asdus.map (svCopyOf s t i)
      let s := modNetTw s t (fun n => { n with
        sv := tabMod [] n.sv (2 * i + lan.val) (fun l => (cs.reverse ++ l).take 64),
        hold := if rf s t (svf R.NET_SVS_STAT_STATE i) = 3 then tabMod {} n.hold i (fun h => { h with run := 0 }) else n.hold })
      let synch := (m.asdus.getLast?).elim 0 (fun a => a.synch.toNat % 4)
      wf (wf (cnt s t (R.NET_SVS_MSGS + 32 * i)) t (svf R.NET_SVS_STAT_STATE i) 1) t (svf R.NET_SVS_STAT_SYNCH i) synch
    else cnt s t (R.NET_SVS_REJECT + 32 * i)))

/-- A stream enters LOST (R315). -/
def svLost (s : State) (t : Twin) (i : Nat) : State :=
  if rf s t (svf R.NET_SVS_STAT_STATE i) = 3 then s
  else ev (wf s t (svf R.NET_SVS_STAT_STATE i) 3) t R.NET_EVENT_SV_LOST

/-- SV_LOST (R315): 100 ms without a message. -/
def execSvLost (i : Fin 8) (s : State) : Out := .next (onComputing (fun s t => svLost s t i.val) s)

/-- Whether the other twin's inputs reach this one (R130, R139): it is JOINING, FOLLOWING or LEADING, the link is up, and
this twin is not ISOLATED. -/
def hearsInputs (s : State) (t : Twin) : Bool :=
  !(s.tw t).twn.linkFailed && twState s t != tsIsolated && decide (2 ≤ twOther s t) && decide (twOther s t ≤ 4)

/-- The sample of stream `i` at an instant, from the copies of both twins: the LAN A copy where both are held, with
the flag that the two differ (R139). -/
def svAt (s : State) (t : Twin) (i : Nat) (inst : Int) : Option SvCopy × Bool :=
  let look (lan : Nat) : Option SvCopy :=
    ((tabGet [] (s.tw t).net.sv (2 * i + lan)) ++
      (if hearsInputs s t then tabGet [] (s.tw t.other).net.sv (2 * i + lan) else [])).find? (fun c => c.inst == inst)
  match look 0, look 1 with
  | some a, some b => (some a, decide (a.vals ≠ b.vals))
  | some a, none => (some a, false)
  | none, b => (b, false)

/-- The instant of the sample that a run with trigger time `tau` takes (R314): the largest s_k ≤ τ − WAIT. -/
def svInst (s : State) (t : Twin) (i : Nat) (tau : Int) : Int :=
  let b := svBase i
  let x := tau - (recByte s t b 16 * 160000 : Nat)
  let y := (x % (secSub : Int)).toNat
  sampleAt (svRate s t b) (x / (secSub : Int)) (((y + 1) * svRate s t b - 1) / secSub)

/-- Stream `i`'s nodes of group `k` take their values for a run with trigger time `tau` (R139, R314, R315).
DESIGN CHOICE, unsafe: log entry 156. -/
def svAgree (s : State) (t : Twin) (g : GraphImg) (k : Nat) (tau : Int) (i : Nat) : State :=
  let bs := g.binds.filter (fun b => b.kind == 3 && b.unit == i && (g.nodes[b.node]?).any (fun n => n.rg == k))
  if bs.isEmpty ∨ svChans s t (svBase i) = 0 then s else
  let inst := svInst s t i tau
  match svAt s t i inst with
  | (some c, differ) =>
    let s := if differ then cnt s t R.TWN_DISCREPANCY else s
    let s := wf s t (svf R.NET_SVS_STAT_LAST_CNT i) c.cnt
    let s := wf (modNetTw s t (fun n => { n with hold := tabMod {} n.hold i (fun h => { h with run := 0 }) })) t
      (svf R.NET_SVS_STAT_STATE i) 1
    bs.foldl (fun s b => match c.vals[b.field]? with
      | some (v, true) => setNode s t b.node v
      | _ => nodeInvalid s t b.node) s
  | (none, _) =>
    let h := tabGet {} (s.tw t).net.hold i
    let isNew := decide (h.missInst ≠ some inst)
    let run := if isNew then h.run + 1 else h.run
    let s := if isNew then cnt s t (R.NET_SVS_MISSING + 32 * i) else s
    let s := modNetTw s t (fun n => { n with hold := tabSet {} n.hold i { missInst := some inst, run := run } })
    let s := if rf s t (svf R.NET_SVS_STAT_STATE i) = 3 then s
      else if recByte s t (svBase i) 17 ≤ run then svLost s t i
      else wf s t (svf R.NET_SVS_STAT_STATE i) 2
    bs.foldl (fun s b => nodeInvalid s t b.node) s

/-- A node is the output of a block whose update is held (R168). -/
def nodeHeld (s : State) (t : Twin) (g : GraphImg) (n : Nat) : Bool :=
  (s.tw t).law.held.any (fun q => (g.blocks[q]?).any (fun blk => decide (blk.out0 ≤ n) && decide (n < blk.out0 + blk.nout)))

/-- The values that published nodes of group `k` take count from device time `from_` (R316, R177); the newest 128 are
kept. -/
def svRecord (s : State) (t : Twin) (k : Nat) (from_ : Int) : State :=
  match graph s t with
  | none => s
  | some g =>
    (g.binds.filter (fun b => b.kind == 3 && decide (8 ≤ b.unit) && (g.nodes[b.node]?).any (fun n => n.rg == k))).foldl
      (fun s b =>
        let v := if k = 0 then nodeVal s t b.node else tabGet (nodeVal s t b.node) (s.tw t).law.copies b.node
        let ok := !((s.tw t).law.invalid.contains b.node) && !(nodeHeld s t g b.node)
        modNetTw s t (fun n => { n with
          hist := tabMod [] n.hist (16 * (b.unit - 8) + b.field) (fun h => ((from_, v, ok) :: h).take 128) })) s

/-- round-half-even of num ÷ den. -/
def rneDiv (num : Int) (den : Nat) : Int :=
  let n := num.natAbs
  let q := n / den
  let q := if 2 * (n % den) > den ∨ (2 * (n % den) = den ∧ q % 2 = 1) then q + 1 else q
  if num < 0 then -(q : Int) else q

/-- round-half-even(x ÷ scale) clamped to INT32 (R316): the exact quotient rounded once. Where the
scale is zero or either operand is not a number the spec states no result. DESIGN CHOICE, safe: log entry 158. -/
def toInt32 (x scale : W32) : W32 :=
  if F32.isInf x then if F32.isNeg x then 0x80000000#32 else 0x7FFFFFFF#32
  else if F32.isNan x ∨ F32.mag scale = 0 ∨ F32.expo scale = 255 then Config.quotient x scale
  else
    let q := rneDiv (if F32.isNeg scale then - F32.scaled x else F32.scaled x) (F32.mag scale)
    BitVec.ofInt 32 (if q < -2147483648 then -2147483648 else if 2147483647 < q then 2147483647 else q)

/-- smpSynch of published samples from the state of device time (R316). -/
def smpSynch (s : State) (t : Twin) : Nat :=
  match rf s t R.TIME_STATUS_STATE with
  | 0 => 0
  | 3 => 2
  | 4 => 2
  | _ => 1

/-- The words of one published ASDU: smpCnt, smpSynch, then each channel's value and quality. -/
def svWords (s : State) (t : Twin) (j cnt : Nat) (at_ : Int) : List W32 :=
  let b := svPubBase j
  let ws := (List.range (svChans s t b)).flatMap (fun c =>
    let h := tabGet [] (s.tw t).net.hist (16 * j + c)
    let e := (h.find? (fun e => decide (e.1 ≤ at_))).getD (0, 0#32, false)
    [toInt32 e.2.1 (svScale s t b c),
     BitVec.ofNat 32 ((if e.2.2 then 0 else 1) + (if safelight s then 2048 else 0))])
  BitVec.ofNat 32 cnt :: BitVec.ofNat 32 (smpSynch s t) :: ws

/-- SV_PUBLISH (R316): the message whose first ASDU is sample `first` of the current second, or of the last one where
that lies ahead, is built, passes each twin's queue 5 where that is enabled (R416, R421) and is sent on both LANs.
DEDUCED, unsafe: log entry 157. DESIGN CHOICE, safe: log entry 267. -/
def execSvPublish (j : Fin 4) (first : BitVec 16) (s : State) : Out :=
  .next (match leader s with
    | none => s
    | some t =>
      let j := j.val
      let b := svPubBase j
      let rate := svRate s t b
      if !(netOn s) ∨ svChans s t b = 0 ∨ rate ≤ first.toNat then s else
      let now := nowSub s t
      let sec := now / (secSub : Int)
      let sec := if now < sampleAt rate sec first.toNat then sec - 1 else sec
      let n := svAsdus s t b
      let at_ (q : Nat) : Int := sampleAt rate (sec + ((first.toNat + q) / rate : Nat)) ((first.toNat + q) % rate)
      let ws := (List.range n).flatMap (fun q => svWords s t j ((first.toNat + q) % rate) (at_ q))
      let s := sendBoth s { kind := .sv j, words := ws }
      onComputing (fun s t =>
        let s := queueUnit s t 5 (Config.svBytes ws)
        let s := wf (cnt s t (R.NET_SVP_MSGS + 32 * j)) t (svf R.NET_SVP_STAT_STATE j) 1
        wf (wf s t (svf R.NET_SVP_STAT_LAST_CNT j) ((first.toNat + n - 1) % rate)) t (svf R.NET_SVP_STAT_SYNCH j)
          (smpSynch s t)) s)

/-! GOOSE. -/

def gsf (f : Fld) (i : Nat) : Fld := fo f (16 * i)

/-- The item types of the record at `base`. -/
def gooseTypes (s : State) (t : Twin) (base : Nat) : List Nat :=
  (List.range (min 32 (recByte s t base 10))).map (fun q => recByte s t base (180 + q))

/-- The standard length of an item of a type (R318). -/
def gooseLen (type len : Nat) : Bool :=
  match type with
  | 0 => len == 3
  | 1 => decide (3 ≤ len) && decide (len ≤ 6)
  | 2 => len == 7
  | 3 => len == 5
  | 4 => len == 10
  | _ => false

/-- allData decodes to exactly the record's item types with the standard lengths. -/
def gooseLayout (s : State) (t : Twin) (i : Nat) (m : GooseMsg) : Bool :=
  m.items.map (fun x => x.type) == gooseTypes s t (gsBase i) && m.items.all (fun x => gooseLen x.type x.len)

/-- Whether a message matches its record (R318), its layout apart. -/
def gooseMatches (s : State) (t : Twin) (i : Nat) (m : GooseMsg) : Bool :=
  let b := gsBase i
  unpad (recStr s t b 20 64) == m.gocbRef && recLe s t b 12 4 == m.confRev.toNat
    && decide (m.items.length = recByte s t b 10) && !m.ndsCom && (!m.sim || nbit (recByte s t b 11) 0)

/-- The items as copies: a quality item with validity invalid makes the item before it invalid (R318). -/
def gooseVals : List GooseItem → List (W32 × Bool)
  | [] => []
  | x :: r =>
    let v := match x.type with
      | 0 => if x.value = 0#32 then 0#32 else F32.one
      | 1 => F32.ofInt x.value.toInt
      | _ => x.value
    let ok := match r with
      | y :: _ => !(y.type == 3 && qInvalid y.value)
      | [] => true
    (v, ok) :: gooseVals r

/-- GOOSE_RECEIVE (R308, R318). -/
def execGooseReceive (t : Twin) (i : Fin 32) (lan : Fin 2) (m : GooseMsg) (s : State) : Out :=
  .next (
    let i := i.val
    if !(takesLan s t lan.val) then s else lanIn s lan.val (fun s =>
    if gooseMatches s t i m && gooseLayout s t i m then
      let c : GooseCopy := ⟨m.stNum, m.sqNum, devNs s t + (m.tal * 1000000 : Nat), gooseVals m.items⟩
      wf (modNetTw s t (fun n => { n with gs := tabPut true n.gs (2 * i + lan.val) c })) t (gsf R.NET_GS_STATE_STATE i) 1
    else
      let s := cnt s t (R.NET_GS_REJECT + 16 * i)
      if gooseLayout s t i m then s else ev s t R.NET_EVENT_GOOSE_LAYOUT))

/-- The signed difference of two 32-bit numbers is positive. -/
def later32 (a b : W32) : Bool := decide (0 < (a - b).toInt)

/-- The copy of block `i` current at `ns`, from both twins: the higher stNum, then the higher sqNum, then LAN A
(R139). -/
def gooseAt (s : State) (t : Twin) (i : Nat) (ns : Int) : Option GooseCopy :=
  let look (x : TwinSt) (lan : Nat) : List GooseCopy :=
    ((x.net.gs.find? (fun e => e.1 == 2 * i + lan)).map (·.2)).toList.filter (fun c => decide (ns ≤ c.till))
  let other (lan : Nat) : List GooseCopy := if hearsInputs s t then look (s.tw t.other) lan else []
  (look (s.tw t) 0 ++ other 0 ++ look (s.tw t) 1 ++ other 1).foldl (fun best c =>
    match best with
    | none => some c
    | some b => if later32 c.st b.st || (c.st == b.st && later32 c.sq b.sq) then some c else best) none

/-- Block `i`'s nodes of group `k` take their values for a run triggered at `tau` (R139, R318). -/
def gooseAgree (s : State) (t : Twin) (g : GraphImg) (k : Nat) (tau : Int) (i : Nat) : State :=
  let bs := g.binds.filter (fun b => b.kind == 2 && b.unit == i && (g.nodes[b.node]?).any (fun n => n.rg == k))
  if bs.isEmpty ∨ recByte s t (gsBase i) 10 = 0 then s else
  match gooseAt s t i (tau / 16) with
  | some c =>
    let s := wr (wr s t (R.NET_GS_STNUM + 16 * i) c.st) t (R.NET_GS_SQNUM + 16 * i) c.sq
    let s := wf s t (gsf R.NET_GS_STATE_STATE i) 1
    bs.foldl (fun s b => match c.vals[b.field]? with
      | some (v, true) => setNode s t b.node v
      | _ => nodeInvalid s t b.node) s
  | none => bs.foldl (fun s b => nodeInvalid s t b.node) s

/-- GOOSE_LOST (R318): no current copy in either twin. -/
def execGooseLost (i : Fin 32) (s : State) : Out :=
  .next (onComputing (fun s t =>
    if (gooseAt s t i.val (devNs s t)).isSome ∨ rf s t (gsf R.NET_GS_STATE_STATE i.val) = 2 then s
    else ev (wf s t (gsf R.NET_GS_STATE_STATE i.val) 2) t R.NET_EVENT_GOOSE_LOST) s)

/-- UTC of a TAI time in nanoseconds (R330): minus the offset, 37 s where it is not valid. -/
def utcNs (s : State) (t : Twin) (tai : Int) : Int :=
  let o : Int := if flag s t R.TIME_UTC_UTC_VALID then (BitVec.ofNat 16 (rf s t R.TIME_UTC_UTC)).toInt else 37
  tai - o * 1000000000

/-- The items of published block `j` as its nodes stand (R319); its item nodes are those the output map binds to unit
32 + j. -/
def gooseItems (s : State) (t : Twin) (g : GraphImg) (j : Nat) : List W32 :=
  let node (q : Nat) : Option Nat := (g.binds.find? (fun b => b.kind == 2 && b.unit == 32 + j && b.field == q)).map (·.node)
  let types := gooseTypes s t (gpBase j)
  (types.zip (List.range 32)).map (fun p =>
    let v := (node p.2).elim 0#32 (nodeVal s t)
    match p.1 with
    | 0 => if F32.le F32.half v then 1#32 else 0#32
    | 1 => toInt32 v F32.one
    | 3 =>
      let bad := (node (p.2 - 1)).any (fun n => (s.tw t).law.invalid.contains n || nodeHeld s t g n)
      BitVec.ofNat 32 ((if bad then 1 else 0) + (if safelight s then 2048 else 0))
    | _ => v)

/-- The message of published block `j`: timeAllowedToLive of twice the interval to the next repeat, the timestamp and
its quality, stNum, sqNum and the items (R319). -/
def gooseWords (s : State) (t : Twin) (j : Nat) (p : GoosePub) : List W32 :=
  let q := (if p.synced then 0 else 32) + (if flag s t R.TIME_UTC_UTC_VALID then 128 else 0)
  [BitVec.ofNat 32 (2 * p.wait), BitVec.ofInt 32 (p.stamp / 1000000000), BitVec.ofInt 32 (p.stamp % 1000000000),
   BitVec.ofNat 32 q, rd s t (R.NET_GP_STNUM + 16 * j), rd s t (R.NET_GP_SQNUM + 16 * j)] ++ p.last.getD []

/-- stNum and sqNum advance, wrapping from 4 294 967 295 to 1 (R319). -/
def gooseNext (w : W32) : W32 := if w = 0xFFFFFFFF#32 then 1#32 else w + 1

/-- A state change of block `j` in twin `t` (R319), at a run's trigger time in nanoseconds. -/
def gooseChange (s : State) (t : Twin) (j : Nat) (items : List W32) (tau : Int) : State :=
  let st := rf s t R.TIME_STATUS_STATE
  let p : GoosePub := { last := some items, wait := recLe s t (gpBase j) 16 2, stamp := utcNs s t tau, synced := st == 3 || st == 4 }
  let s := wr (wr s t (R.NET_GP_STNUM + 16 * j) (gooseNext (rd s t (R.NET_GP_STNUM + 16 * j)))) t (R.NET_GP_SQNUM + 16 * j) 0
  let s := wf s t (gsf R.NET_GP_STATE_STATE j) 1
  modNetTw s t (fun n => { n with gp := tabSet {} n.gp j p })

/-- At the end of a run of group `k`: every published block of which an item bound to the group differs from the value
last published changes state; the twin that leads sends it, the other builds the same (R304, R319).
DEDUCED, unsafe: log entry 159. -/
def gooseRun (s : State) (t : Twin) (k : Nat) (tau : Int) : State :=
  match graph s t with
  | none => s
  | some g =>
    if !(netOn s) then s else
    (List.range 8).foldl (fun s j =>
      let items := gooseItems s t g j
      let old := (tabGet {} (s.tw t).net.gp j).last
      let mine := g.binds.any (fun b => b.kind == 2 && b.unit == 32 + j && (g.nodes[b.node]?).any (fun n => n.rg == k)
        && (old.all (fun l => decide (l.getD b.field 0 ≠ items.getD b.field 0))))
      if !mine then s
      else
        let s := gooseChange s t j items tau
        if leader s = some t then sendBoth s { kind := .goose j, words := gooseWords s t j (tabGet {} (s.tw t).net.gp j) } else s) s

/-- GOOSE_REPEAT (R319): the interval doubles up to TMAX and sqNum increments. -/
def execGooseRepeat (j : Fin 8) (s : State) : Out :=
  .next (
    let j := j.val
    let s := onComputing (fun s t =>
      let p := tabGet {} (s.tw t).net.gp j
      if p.last.isNone then s
      else
        let s := wr s t (R.NET_GP_SQNUM + 16 * j) (gooseNext (rd s t (R.NET_GP_SQNUM + 16 * j)))
        modNetTw s t (fun n => { n with gp := tabSet {} n.gp j { p with wait := min (2 * p.wait) (recLe s t (gpBase j) 18 2) } })) s
    match leader s with
    | none => s
    | some t =>
      let p := tabGet {} (s.tw t).net.gp j
      if p.last.isNone then s else sendBoth s { kind := .goose j, words := gooseWords s t j p })

/-! ARP and ICMP (R334). -/

/-- Where a packet to `ip` goes: to it on the subnet, else to the gateway (R333). -/
def nextHop (s : State) (ip : W32) : W32 :=
  let t := netTwin s
  if (ip ^^^ rd s t R.NET_IP) &&& rd s t R.NET_MASK = 0#32 then ip else rd s t R.NET_GW

/-- Enter an address: the newest of the 16 entries. DESIGN CHOICE, unsafe: log entry 161. -/
def arpLearn (s : State) (ip : W32) (mac : BitVec 48) : State :=
  modNet s (fun n => { n with arp := ((ip, mac) :: n.arp.filter (fun e => e.1 != ip)).take 16 })

/-- The address a reply to `ip` is sent to: its entry's, or 0 where none is held. -/
def arpMac (s : State) (ip : W32) : List W32 :=
  let m := ((s.net.arp.find? (fun e => e.1 == nextHop s ip)).map (·.2)).getD 0
  [BitVec.ofNat 32 (m.toNat / 4294967296), BitVec.ofNat 32 m.toNat]

/-- ARP_REQUEST: a request for the SK192's address is answered by the leading twin. -/
def execArpRequest (target sender : W32) (mac : BitVec 48) (s : State) : Out :=
  .next (if netOn s ∧ target = rd s (netTwin s) R.NET_IP then
      crossIn s (netTwin s) 4 (fun s => sendLead (arpLearn s sender mac) { kind := .arp, words := [sender, BitVec.ofNat 32 (mac.toNat / 4294967296), BitVec.ofNat 32 mac.toNat] })
    else s)

/-- ICMP_ECHO: answered within 10 per second and up to 1 472 bytes. -/
def execIcmpEcho (src : W32) (payload : List Byte) (s : State) : Out :=
  .next (
    let now := devNs s (netTwin s)
    let recent := s.net.echo.filter (fun e => decide (now - e < 1000000000))
    if !(netOn s) ∨ 1472 < payload.length ∨ 10 ≤ recent.length then s
    else crossIn s (netTwin s) 4 (fun s =>
      sendLead (modNet s (fun n => { n with echo := now :: recent })) { kind := .echo, words := src :: arpMac s src, bytes := payload }))

/-- ARP_ENTRY_EXPIRE: an entry is dropped after 60 s. -/
def execArpEntryExpire (ip : W32) (s : State) : Out :=
  .next (modNet s (fun n => { n with arp := n.arp.filter (fun e => e.1 != ip) }))

end Sys2Proof.Machine
end

