-- ==== Sys2Proof/Machine/Frames.lean ====
section
/-! DEFINITION. Tributary frames as their data characters (R93 to R100): 32 header bytes, 80 bytes a slot and the four
bytes of CRC-32C; the K characters around them are the commands' framing flags. -/

namespace Sys2Proof.Frame

/-- A field of `len` bytes at offset `o`. -/
def get (b : List Byte) (o len : Nat) : Nat := beAt b o len

/-- Replace bytes from offset `o`. -/
def put (b : List Byte) (o : Nat) (l : List Byte) : List Byte := b.take o ++ l ++ b.drop (o + l.length)

/-- NSLOTS. -/
def nslots (b : List Byte) : Nat := get b 22 1

/-- PATH.WRAPPED. -/
def wrapped (b : List Byte) : Bool := nbit (get b 29 1) 7

/-- CORR as a signed 48-bit number. -/
def corr (b : List Byte) : Int := (BitVec.ofNat 48 (get b 13 6)).toInt

/-- Bytes with `len` from `o` taken as 0. -/
def blank (b : List Byte) (o len : Nat) : List Byte := put b o (List.replicate len 0#8)

/-- The bytes CRC-32C covers (R99). -/
def covered (b : List Byte) : List Byte :=
  blank (blank (blank (b.take 32) 13 6) 23 1) 29 3
    ++ (List.range (nslots b)).flatMap (fun i => (b.drop (32 + 80 * i)).take 32)

/-- The CRC-32C bytes of a frame, least significant first. -/
def fcrcBytes (b : List Byte) : List Byte := (beBytes 4 (crc32c (covered b))).reverse

/-- Whether the frame has the length of R93. -/
def lengthOk (b : List Byte) : Bool := b.length == 36 + 80 * nslots b

/-- HCRC correct as received. -/
def hcrcOk (b : List Byte) : Bool := crc16 (b.take 30) == get b 30 2

/-- CRC-32C correct. -/
def fcrcOk (b : List Byte) : Bool := b.drop (32 + 80 * nslots b) == fcrcBytes b

/-- SCRC of a slot's first 46 uplink bytes (R99). -/
def scrc (i : Nat) (up : List Byte) : Nat := crc16 (BitVec.ofNat 8 i :: up.take 46)

/-- A full uplink area of a slot: 46 bytes and their SCRC. -/
def sealUp (i : Nat) (up : List Byte) : List Byte := up.take 46 ++ beBytes 2 (scrc i up)

/-- The uplink area the twin sends (R100): zeros and the inverse of the correct SCRC. -/
def blankUp (i : Nat) : List Byte :=
  let z := List.replicate 46 0#8
  z ++ beBytes 2 (65535 - scrc i z)

/-- The uplink area of slot `i`. -/
def uplink (b : List Byte) (i : Nat) : List Byte := (b.drop (64 + 80 * i)).take 48

/-- The downlink area of slot `i`. -/
def downlink (b : List Byte) (i : Nat) : List Byte := (b.drop (32 + 80 * i)).take 32

/-- Whether a returned slot was not written (R100). -/
def unwritten (b : List Byte) (i : Nat) : Bool := uplink b i == blankUp i

/-- Whether a returned slot passes its SCRC. -/
def slotOk (b : List Byte) (i : Nat) : Bool := get (uplink b i) 46 2 == scrc i (uplink b i)

/-- What a twin puts into a header (R94). -/
structure Head where
  type : Nat
  chain : Nat
  twin : Nat
  seq : Nat
  claim : Nat
  tx : Nat
  len : Nat
  flags : Nat
  apply : Nat

/-- A frame as the twin sends it: header with HCRC, slots with their downlinks and blank uplinks, CRC-32C. -/
def build (h : Head) (downs : List (List Byte)) : List Byte :=
  let head := beBytes 1 h.type ++ beBytes 1 (h.chain * 16 + h.twin) ++ beBytes 2 h.seq ++ beBytes 4 h.claim
    ++ beBytes 5 h.tx ++ beBytes 6 0 ++ beBytes 2 h.len ++ beBytes 1 h.flags ++ beBytes 1 downs.length ++ beBytes 1 0
    ++ beBytes 5 h.apply ++ beBytes 1 0
  let body := (downs.zip (List.range 16)).flatMap (fun p => p.1 ++ blankUp p.2)
  let b := head ++ beBytes 2 (crc16 head) ++ body
  b ++ fcrcBytes b

/-- The header with changed hop fields and HCRC updated from the difference (R102 step 4): `h` replaces bytes 0 to 29. -/
def rehead (b h : List Byte) : List Byte :=
  let diff := (h.zip b).map (fun p => p.1 ^^^ p.2)
  h ++ beBytes 2 (Nat.xor (get b 30 2) (crc16Diff diff)) ++ b.drop 32

end Sys2Proof.Frame
end

