-- ==== Sys2Proof/Machine/Trib.lean ====
section
/-! DEFINITION. Meanings of 03_tributary_link for the rings of the SK192: start-up (R123), returned frames (R122, R126)
and delay probes (R103 to R106). -/

namespace Sys2Proof.Machine

/-- A ring field. -/
def tf (f : Fld) (c : Nat) : Fld := fo f (4096 * c)

/-- The address of a word of ring block `c`. -/
def ta (a c : Nat) : Nat := a + 4096 * c

/-- The number of cells of chain `c`. -/
def chainLen (s : State) (t : Twin) (c : Nat) : Nat := (chainCells s t c).length

/-- The global index of the cell at position `p` of twin `t`'s ring; none without an entry. -/
def cellAt (s : State) (t : Twin) (c p : Nat) : Option Nat :=
  let l := chainCells s t c
  (l.find? (fun e => ringPos t l.length e.2 == p)).map (·.1)

/-- Whether a twin sends on its rings: not in RESET and not WITHDRAWN. -/
def sends (s : State) (t : Twin) : Bool := twState s t != tsReset && twState s t != tsWithdrawn

/-- Lane training of the chains of a mask has ended when none of their rings waits for it, trains or is being configured
(R443, R444). -/
def trainingOver (s : State) (m : Nat) : Bool :=
  [Twin.a, Twin.b].all (fun t => (List.range 12).all (fun c =>
    !(nbit m c) || !((ringX s t c).wake || ringSt s t c == 2 || ringSt s t c == 3)))

/-- Return the lane-training leave of the chains whose training is over. -/
def endTraining (s : State) : State :=
  if s.sluice.held.any (fun r => r.op == 0 && trainingOver s r.arg) then dropTraining s (trainingOver s) else s

/-- One ring goes to step 1 of R123, under lane-training leave for its chain. -/
def trainRing (s : State) (t : Twin) (c : Nat) : State :=
  trainLeave (modRingX s t c (fun r => { r with wake := true })) (2 ^ c) false

/-- RING_RX_SYNC (R123 step 2): the receiver is in sync and the ring sends idle, then CONFIG frames. -/
def execRingRxSync (t : Twin) (c : Fin 12) (s : State) : Out :=
  .next (if ringSt s t c.val = 2 then
      let s := wf (setRing s t c.val 3) t (tf R.TRB_STATE_RX_SYNC c.val) 1
      let s := wf (wf s t (tf R.TRB_STATE_WRAPPED c.val) 0) t (tf R.TRB_STATE_WRAP_POS c.val) 0
      modRingX s t c.val (fun r => { r with returns := 0, echoed := [], locked := [], awaited := false })
    else s)

/-- RING_START_TIMEOUT (R123): not READY within START_TIMEOUT. -/
def execRingStartTimeout (t : Twin) (c : Fin 12) (s : State) : Out :=
  .next (if ringSt s t c.val = 2 ∨ ringSt s t c.val = 3 then
      endTraining (ev (setRing s t c.val 6) t (tf R.TRB_EVENT_START_FAIL c.val))
    else s)

/-- RING_RETRY (R123): a FAILED ring restarts at step 1. -/
def execRingRetry (t : Twin) (c : Fin 12) (s : State) : Out :=
  .next (if ringSt s t c.val = 6 ∧ sends s t then trainRing s t c.val else s)

/-- A ring restarts at step 1 (R128). Chains without cells, and chains of cold spares at rest, run no step (R123). -/
def ringRestart (s : State) (t : Twin) (c : Nat) : State :=
  if sends s t ∧ 0 < chainLen s t c ∧ (chainCold s t c → ringWarm s t c) then trainRing (setRing s t c 1) t c else s

/-- RESTART (R128). -/
def execRestart (t : Twin) (c : Fin 12) (s : State) : Out := .next (ringRestart (say s Rc.OK) t c.val)

/-- PROBE goes into the next frame of a ring (R128). -/
def probeNow (s : State) (t : Twin) (c : Nat) : State :=
  modArr s t (fun a => { a with probe := if a.probe.contains c then a.probe else c :: a.probe })

/-- PROBE_NOW (R128). -/
def execProbeNow (t : Twin) (c : Fin 12) (s : State) : Out := .next (probeNow (say s Rc.OK) t c.val)

/-- PROBE_CYCLE (R106): PROBE in one CYCLE frame on both rings of every live chain; MIN_LEN is recomputed (R49). -/
def execProbeCycle (s : State) : Out :=
  .next (budget (onBoth (fun s t => (List.range 12).foldl (fun s c =>
    if ringLive s t c ∧ (s.tw t).arr.phase = 2 then probeNow s t c else s) s) s))

/-- PROBE_STALE (R106): a pair of the ring without a result for 10 s; the held values stay in use. -/
def execProbeStale (t : Twin) (c : Fin 12) (s : State) : Out :=
  .next (if ringSt s t c.val = 0 ∨ ringSt s t c.val = 1 then s else ev s t (tf R.TRB_EVENT_PROBE_STALE c.val))

/-- RING_RX_SYNC_LOST (R128, R139): LOS is set and the ring leaves READY or RUN with DOWN; its frames are no longer
awaited, and it restarts at step 1 while its twin sends. A FAILED ring whose receiver was in sync stays FAILED. DEDUCED, unsafe: log entry 89. -/
def execRingRxSyncLost (t : Twin) (c : Fin 12) (s : State) : Out :=
  if ringSt s t c.val < 3 ∨ (ringSt s t c.val = 6 ∧ !(flag s t (tf R.TRB_STATE_RX_SYNC c.val))) then .next s
  else if ringSt s t c.val = 6 then
    .next (wf (ev s t (tf R.TRB_EVENT_LOS c.val)) t (tf R.TRB_STATE_RX_SYNC c.val) 0)
  else
    let s := wf (ev s t (tf R.TRB_EVENT_LOS c.val)) t (tf R.TRB_STATE_RX_SYNC c.val) 0
    let s := modRingX s t c.val (fun r => { r with awaited := false })
    .next (ringRestart (setRing s t c.val 1) t c.val)

/-! Returned frames. -/

/-- A binary32 value that is finite. -/
def finite (v : W32) : Bool := F32.expo v != 255

/-- Count a 16-bit cell counter into its 32-bit one (R126): `last` is 0 before the first report, else one more than
the last value. -/
def diffCount (s : State) (t : Twin) (a last v : Nat) : State :=
  if last = 0 then s else cntBy s t a ((v + 65536 - (last - 1)) % 65536)

/-- The uplink of a CYCLE slot as taken (R126). -/
def uplinkOf (up : List Byte) : Uplink :=
  let w := fun o => BitVec.ofNat 32 (Frame.get up o 4)
  let st := w 16
  ⟨true, !(st.getLsbD 21) && finite (w 0) && finite (w 4) && finite (w 8) && finite (w 12) && finite (w 36),
    w 0, w 4, w 8, w 12, w 36, st⟩

/-- The bypass of a BYPASSING cell is confirmed by its uplink (R67). DEDUCED, unsafe: log entry 84. -/
def bypassConfirmed (s : State) (k : Nat) : State :=
  onComputing (fun s t =>
    if cellSt s t k = csBypassing then modCellX (setCellSt s t k csBypassed) t k (fun x => { x with bypAt := none }) else s) s

/-- A position's latest status reports TIME_LOCK, or no longer does (R123). -/
def noteLock (s : State) (t : Twin) (c i : Nat) (on : Bool) : State :=
  modRingX s t c (fun r => { r with locked := (if on then [i] else []) ++ r.locked.filter (· != i) })

/-- A CYCLE slot that passed its SCRC (R126): the position's fields, the cell's counters, the uplink for agreement. -/
def takeCycle (s : State) (t : Twin) (c i : Nat) (up : List Byte) : State :=
  let p := 4096 * c + 64 * i
  let u := uplinkOf up
  let x := ringX s t c
  let n := fun o => Frame.get up o 2
  let s := wr (wr s t (R.TRB_POS_STATUS + p) u.status) t (R.TRB_POS_LINK_DLY + p) (BitVec.ofNat 32 (Frame.get up 32 4))
  let s := wf s t (fo R.TRB_POS_TIME_OFS_TIME_OFS p) (n 30)
  let s := diffCount s t (R.TRB_POS_CRCERR + p) (tabGet 0 x.crcLast i) (n 26)
  let s := diffCount s t (R.TRB_POS_MISS + p) (tabGet 0 x.missLast i) (n 28)
  let s := modRingX s t c (fun r => { r with
    crcLast := tabSet 0 r.crcLast i (n 26 + 1), missLast := tabSet 0 r.missLast i (n 28 + 1),
    lateLast := tabSet 0 r.lateLast i (n 24 + 1) })
  let s := noteLock s t c i (u.status.getLsbD 28)
  match cellAt s t c i with
  | none => s
  | some k =>
    let s := diffCount s t (R.CELL_LATE + 256 * k) (tabGet 0 x.lateLast i) (n 24)
    let s := s.setTw t { s.tw t with uplinks := tabSet Uplink.none (s.tw t).uplinks k u }
    if u.status.getLsbD 30 then bypassConfirmed s k else s

/-- A CONFIG slot that passed its SCRC (R98, R123, R124): the identity record; CAPS where the rate is missing, MISWIRE
where the cell does not echo the generation from the second return on. DEDUCED, unsafe: log entry 86. -/
def takeConfig (s : State) (t : Twin) (c i : Nat) (up : List Byte) : State :=
  let p := 4096 * c + 64 * i
  let w := fun o => BitVec.ofNat 32 (Frame.get up o 4)
  let s := wr (wr s t (R.TRB_POS_BUILDER_ID + p) (w 0)) t (R.TRB_POS_SERIAL_HI + p) (w 4)
  let s := wr (wr s t (R.TRB_POS_SERIAL_LO + p) (w 8)) t (R.TRB_POS_FW_VERSION + p) (w 12)
  let s := wr (wr s t (R.TRB_POS_STATUS + p) (w 16)) t (R.TRB_POS_CAPS + p) (w 24)
  let s := wr (wf s t (fo R.TRB_POS_TIME_OFS_TIME_OFS p) (Frame.get up 28 2)) t (R.TRB_POS_LINK_DLY + p) (w 32)
  let s := noteLock s t c i ((w 16).getLsbD 28)
  if !((w 24).getLsbD (28 + rf s t (tf R.TRB_CFG_RATE c))) then ev s t (tf R.TRB_EVENT_CAPS c)
  else if (w 16).getLsbD 27 && w 20 == Config.cfgGen c then
    modRingX s t c (fun r => { r with echoed := if r.echoed.contains i then r.echoed else i :: r.echoed })
  else if 2 ≤ (ringX s t c).returns then ev s t (tf R.TRB_EVENT_MISWIRE c)
  else s

/-- One slot of a returned frame (R100, R126). -/
def takeSlot (s : State) (t : Twin) (c : Nat) (b : List Byte) (i : Nat) : State :=
  if Frame.unwritten b i then cnt s t (ta R.TRB_SLOT_UNWRITTEN c)
  else if !(Frame.slotOk b i) then
    cnt (cnt s t (ta R.TRB_SLOT_CRC c)) t (R.TRB_POS_SLOTCRC + 4096 * c + 64 * i)
  else if Frame.get b 0 1 = 1 then takeCycle s t c i (Frame.uplink b i)
  else takeConfig s t c i (Frame.uplink b i)

/-- Show NCFG and NLOCK from the positions' status words. -/
def showRing (s : State) (t : Twin) (c : Nat) : State :=
  let st := (List.range (chainLen s t c)).map (fun i => rd s t (R.TRB_POS_STATUS + 4096 * c + 64 * i))
  let s := wf s t (tf R.TRB_STATE_NCFG c) (st.filter (fun w => w.getLsbD 27)).length
  wf s t (tf R.TRB_STATE_NLOCK c) (st.filter (fun w => w.getLsbD 28)).length

/-- The chain's cells become warm once a ring of it is READY (R43). -/
def warmChain (s : State) (c : Nat) : State :=
  onBoth (fun s t => (chainCells s t c).foldl (fun s e =>
    if cellSt s t e.1 = csCold then showString (setCellSt s t e.1 csStandby) t (mapString e.2) else s) s) s

/-- A CONFIG ring becomes READY (R123): every position echoed in a frame of this chain to either twin; while the array
runs every cell must also report TIME_LOCK, in a frame to either twin. -/
def ringReady (s : State) (t : Twin) (c : Nat) : State :=
  let n := chainLen s t c
  let own := (ringX s t c).echoed
  let oth := ((ringX s t.other c).echoed).map (fun i => n - 1 - i)
  let all := (List.range n).all (fun i => own.contains i || oth.contains i)
  let caps := (List.range n).all (fun i =>
    own.contains i || (rd s t (R.TRB_POS_CAPS + 4096 * c + 64 * i)) == 0
      || (rd s t (R.TRB_POS_CAPS + 4096 * c + 64 * i)).getLsbD (28 + rf s t (tf R.TRB_CFG_RATE c)))
  let lock := (List.range n).all (fun i =>
    (ringX s t c).locked.contains i || (ringX s t.other c).locked.contains (n - 1 - i))
  if ringSt s t c = 3 ∧ 0 < n ∧ all ∧ caps ∧ ((s.tw t).arr.phase = 2 → lock) then
    endTraining (warmChain (ev (setRing s t c 4) t (tf R.TRB_EVENT_READY c)) c)
  else s

/-- TRB_TFIB from the reported delays and LASTHOP, once the last hop has a result (R106, R47); MIN_LEN is recomputed
where it changes (R49). -/
def showTfib (s : State) (t : Twin) (c : Nat) : State :=
  let sum := ((List.range (chainLen s t c)).map (linkDly s t c)).sum + (rd s t (ta R.TRB_LASTHOP c)).toNat
  let v := BitVec.ofNat 32 sum
  if !((ringX s t c).hopKnown) then budget s else budget (wr s t (ta R.TRB_TFIB c) v)

/-- A time modulo 2^52 read as a signed number. -/
def signed52 (v : Int) : Int := (BitVec.ofInt 52 v).toInt

/-- The time closure of an unwrapped frame (R126), in 2^-16 ns. -/
def closureCheck (s : State) (t : Twin) (c : Nat) (b : List Byte) (arrival : Nat) : State :=
  if !((ringX s t c).hopKnown) then s
  else
    let e := signed52 ((arrival : Int) - (Frame.get b 8 5 * 4096 + Frame.corr b + (rd s t (ta R.TRB_LASTHOP c)).toNat))
    let s := wr s t (ta R.TRB_CLOSURE c) (BitVec.ofInt 32 e)
    if rf s t R.TRB_GCFG_CLOSURE_LIM * 4096 < e.natAbs then ev s t (tf R.TRB_EVENT_CLOSURE c) else s

/-- WRAPPED and WRAP_POS follow the ring's own frame, and each wrapped one sets WRAP (R122); the path follows it.
DEDUCED, unsafe: log entry 88. -/
def showWrap (s : State) (t : Twin) (c : Nat) (b : List Byte) : State :=
  let w := bit (Frame.wrapped b)
  let p := if Frame.wrapped b then Frame.get b 29 1 % 16 else 0
  let s := if w = 1 then ev s t (tf R.TRB_EVENT_WRAP c) else s
  let s := modRingX s t c (fun r => { r with wrap := if w = 1 then some p else none })
  wf (wf s t (tf R.TRB_STATE_WRAPPED c) w) t (tf R.TRB_STATE_WRAP_POS c) p

/-- The slots of a frame that have arrived whole. DEDUCED, unsafe: log entry 87. -/
def takeSlots (s : State) (t : Twin) (c : Nat) (b : List Byte) : State :=
  let l := (List.range (Frame.nslots b)).filter (fun i => decide (112 + 80 * i ≤ b.length))
  showRing (l.foldl (fun s i => takeSlot s t c b i) s) t c

/-- Whether the frame is twin `t`'s own of chain `c`, by its SRC (R94). -/
def ownFrame (t : Twin) (c : Nat) (b : List Byte) : Bool :=
  Frame.get b 1 1 / 16 == c && Frame.get b 1 1 % 2 == t.bit

/-- A frame of twin `t`'s ring on chain `c` has returned, directly or relayed (R122, R126): framing, HCRC, CRC-32C and
each slot's SCRC are checked. The uplinks pass on as they arrive: a slot that passes its SCRC is taken although the frame
breaks off or fails its CRC-32C at its end. A frame of an unknown TYPE is discarded (R94), and so is one that is not the frame awaited:
it comes after its return deadline. -/
def ringReturn (s : State) (t : Twin) (c : Nat) (b : List Byte) (framed : Bool) (arrival : Option Nat) : State :=
  let x := ringX s t c
  let whole := framed && Frame.lengthOk b
  let good := whole && Frame.fcrcOk b
  if !x.awaited || (decide (32 ≤ b.length) && Frame.hcrcOk b && ownFrame t c b && Frame.get b 2 2 != x.seq) then s
  else
    let back := modRingX s t c (fun r => { r with awaited := false })
    if b.length < 32 then back
    else if !(Frame.hcrcOk b) then cnt back t (ta R.TRB_RX_HCRC c)
    else if Frame.get b 0 1 ≠ 1 ∧ Frame.get b 0 1 ≠ 2 then s
    else if !good then
      let s := if whole then cnt back t (ta R.TRB_RX_FCRC c) else back
      if ownFrame t c b then takeSlots s t c b else s
    else if !(ownFrame t c b) then ev (cnt s t (ta R.TRB_RX_OK c)) t (tf R.TRB_EVENT_MISWIRE c)
    else
      let conf := Frame.get b 0 1 == 2
      let s := cnt back t (ta R.TRB_RX_OK c)
      let s := if conf then modRingX s t c (fun r => { r with returns := r.returns + 1 }) else s
      let s := takeSlots (showWrap s t c b) t c b
      let s := match arrival with
        | some a => if Frame.wrapped b then s else closureCheck s t c b a
        | none => s
      let s := if Frame.wrapped b then budget s else showTfib s t c
      if conf then onBoth (fun s t => ringReady s t c) s else ringReady s t c

/-- Twin `t` passes the other twin's wrapped frame to it over the inter-twin link, and shows WRAPPED and WRAP in its own
block too (R122). -/
def relayWrapped (s : State) (t : Twin) (c : Nat) (b : List Byte) (framed : Bool) : State :=
  if (s.tw t).twn.linkFailed then s
  else
    let shown := ev s t (tf R.TRB_EVENT_WRAP c)
    ringReturn (wf shown t (tf R.TRB_STATE_WRAPPED c) 1) t.other c b framed none

/-- FRAME_RETURN (R126): a frame on twin `t`'s receive lane, whose code errors count there. A wrapped one is the other
twin's and is relayed (R122). `arrival` is the arrival of the timing reference in 2^-16 ns. -/
def execFrameReturn (t : Twin) (c : Fin 12) (bytes : List Byte) (codeErrs : BitVec 16) (framed : Bool)
    (arrival : BitVec 52) (s : State) : Out :=
  .next (crossIn s t 3 (fun s =>
    let s := if codeErrs = 0 then s else cntBy s t (ta R.TRB_RX_CODE c.val) codeErrs.toNat
    if Frame.wrapped bytes then relayWrapped s t c.val bytes framed
    else ringReturn s t c.val bytes framed (some arrival.toNat)))

/-- WRAPPED_FRAME_RELAY (R122): twin `t` receives the other twin's wrapped frame and passes it on. -/
def execWrappedFrameRelay (t : Twin) (c : Fin 12) (bytes : List Byte) (s : State) : Out :=
  .next (if Frame.wrapped bytes then relayWrapped s t c.val bytes true else s)

/-- RETURN_DEADLINE (R126): a frame that has not returned counts in RX_MISSING and is discarded when it comes. -/
def execReturnDeadline (t : Twin) (c : Fin 12) (s : State) : Out :=
  .next (if (ringX s t c.val).awaited then
      cnt (modRingX s t c.val (fun r => { r with awaited := false })) t (ta R.TRB_RX_MISSING c.val)
    else s)

/-! Delay probes. -/

/-- The cell at ring A position `p` takes its port A or port B delay, in 2^-16 ns (R103). -/
def setCellLink (s : State) (c p : Nat) (portA : Bool) (v : Int) : State :=
  let k := 16 * c + p
  { s with cells := tabMod {} s.cells k (fun x =>
      if portA then { x with linkA := v, probedA := true } else { x with linkB := v, probedB := true }) }

/-- The asymmetries a cell holds from its configuration (R98); before it has accepted one the spec names none, and 0 is taken.
DESIGN CHOICE, unsafe: log entry 249. -/
def cellAsym (s : State) (c p : Nat) (sideU : Bool) : Int :=
  match (tabGet {} s.cells (16 * c + p)).cfg with
  | some g => if sideU then g.asymU else g.asymD
  | none => 0

/-- A twin takes the delay of its last hop (R105). -/
def setLastHop (s : State) (t : Twin) (c : Nat) (v : Int) : State :=
  modRingX (wr s t (ta R.TRB_LASTHOP c) (BitVec.ofInt 32 v)) t c (fun r => { r with hopKnown := true })

/-- The ends of link pair `k` of a chain of `n` cells can run an exchange: the cells' controllers run, and at a pair that
the SK192 terminates both twins send and the inter-twin link passes t4 (R103, R105). -/
def pairAlive (s : State) (c n k : Nat) : Bool :=
  let up := k == n || !(tabGet {} s.cells (16 * c + k)).dead
  let down := k == 0 || !(tabGet {} s.cells (16 * c + k - 1)).dead
  let twins := sends s .a && sends s .b && !(s.a.twn.linkFailed) && !(s.b.twn.linkFailed)
  up && down && ((k != 0 && k != n) || twins)

/-- DELAY_EXCHANGE (R103 to R105): the exchange of one link pair completes: pair 0 joins the SK192 to P0, pair n the
last cell to the SK192, on ring A. It runs only in a cycle whose frames carry PROBE. `t1` and `t4` are the
initiator's times and `ta` the responder's turnaround, in 1/16 ns; half an asymmetry is rounded down. DESIGN CHOICE,
unsafe: log entry 249. -/
def execDelayExchange (c : Fin 12) (pair : Fin 17) (t1 t4 : BitVec 40) (ta : BitVec 24) (s : State) : Out :=
  let n := chainLen s .a c.val
  let sent := tabGet [] s.a.arr.sent c.val ++ tabGet [] s.b.arr.sent c.val
  if n < pair.val ∨ n = 0 ∨ !(nbit (Frame.get sent 21 1) 5) ∨ !(pairAlive s c.val n pair.val) then .next s
  else
    let rt : Int := (tribDiff t4.toNat t1.toNat - ta.toNat) * 2048
    let first := rd s .a (R.TRB_ASYM_FIRST + 4096 * c.val) |>.toInt
    let last := rd s .a (R.TRB_ASYM_LAST + 4096 * c.val) |>.toInt
    let s := if pair.val < n then setCellLink s c.val pair.val true (rt + cellAsym s c.val pair.val true / 2)
      else setLastHop s .a c.val (rt + last / 2)
    let s := if pair.val = 0 then setLastHop s .b c.val (rt - first / 2)
      else setCellLink s c.val (pair.val - 1) false (rt - cellAsym s c.val (pair.val - 1) false / 2)
    .next (budget (onBoth (fun s t => modRingX s t c.val (fun r =>
      { r with pairs := if r.pairs.contains pair.val then r.pairs else pair.val :: r.pairs })) s))

end Sys2Proof.Machine
end

