-- ==== Sys2Proof/Machine/Agree.lean ====
section
/-! DEFINITION. The agreement of inputs (R139 to R141) and the system inputs formed from it (R235, R236), as one run of
a rate group evaluates them. -/

namespace Sys2Proof.Machine

/-- SENSOR_DISCREPANCY (R141): the event and the count; a cell or agreement-table entry is recorded. -/
def sensorDiscrepancy (s : State) (t : Twin) (what : Option (Bool × Nat)) : State :=
  let s := cnt (ev s t R.TWN_EVENT_DISCREPANCY) t R.TWN_DISCREPANCY
  match what with
  | some (isCell, w) => wf (wf s t R.TWN_DISC_LAST_IS_CELL (bit isCell)) t R.TWN_DISC_LAST_WHICH w
  | none => s

/-! Cell uplinks. -/

/-- The agreed value of one measurement from the copies of ring A and ring B, with the discrepancy (R139). -/
def agreeValue (tol prev : W32) (a b : Option W32) : W32 × Bool :=
  match a, b with
  | some x, some y =>
    let big := F32.max (F32.abs x) (F32.abs y)
    if F32.le (F32.abs (F32.sub x y)) (F32.mul tol big) then (F32.mul (F32.add x y) F32.half, false)
    else
      let far := F32.lt (F32.abs (F32.sub y prev)) (F32.abs (F32.sub x prev))
      (if far then y else x, true)
  | some x, none => (x, false)
  | none, some y => (y, false)
  | none, none => (prev, false)

/-- The agreed STATUS of a cell: bits 31:16 of both copies together, bits 15:0 of ring A's (R139). -/
def agreeStatus (a b : Option W32) (prev : W32) : W32 :=
  match a, b with
  | some x, some y => x ||| (y &&& 0xFFFF0000#32)
  | some x, none => x
  | none, some y => y
  | none, none => prev

/-- The uplinks of cycle `n` that a twin received. DESIGN CHOICE, unsafe: log entry 41. -/
def uplinksOf (s : State) (o : Twin) (n : Nat) : Tab Uplink :=
  if (s.tw o).arr.n = n then (s.tw o).uplinks else tabGet [] (s.tw o).upOld n

/-- The uplink of cell `k` in cycle `n` on a twin's ring that this twin holds: its own, and the other twin's where it is heard. -/
def uplinkCopy (s : State) (t o : Twin) (n k : Nat) : Option Uplink :=
  if o = t ∨ hearsInputs s t then
    let u := tabGet Uplink.none (uplinksOf s o n) k
    if u.valid then some u else none
  else none

/-- The usable measurement of a copy. -/
def usableOf (u : Option Uplink) (f : Uplink → W32) : Option W32 :=
  match u with
  | some x => if x.usable then some (f x) else none
  | none => none

/-- The agreed values of one cell (R139): measurements, status, and the count of cycles without a valid copy.
DEDUCED, unsafe: log entry 49. -/
def agreeCell (s : State) (t : Twin) (n k : Nat) : State :=
  let a := uplinkCopy s t .a n k
  let b := uplinkCopy s t .b n k
  let tol := rd s t R.TWN_CELL_TOL
  let one := fun prev f => agreeValue tol prev (usableOf a f) (usableOf b f)
  let v := one (cw s t R.CELL_VCAP k) (·.vcap)
  let i := one (cw s t R.CELL_IARM k) (·.iarm)
  let t1 := one (cw s t R.CELL_TEMP1 k) (·.temp1)
  let t2 := one (cw s t R.CELL_TEMP2 k) (·.temp2)
  let iso := one (cellX s t k).iiso (·.iiso)
  let st := agreeStatus (a.map (·.status)) (b.map (·.status)) (cellX s t k).status
  let s := wr (wr s t (R.CELL_VCAP + 256 * k) v.1) t (R.CELL_IARM + 256 * k) i.1
  let s := wr (wr s t (R.CELL_TEMP1 + 256 * k) t1.1) t (R.CELL_TEMP2 + 256 * k) t2.1
  let s := modCellX s t k (fun x => { x with
    iiso := iso.1, status := st, miss := if a.isNone ∧ b.isNone then x.miss + 1 else 0 })
  [v, i, t1, t2, iso].foldl (fun s r => if r.2 then sensorDiscrepancy s t (some (true, k)) else s) s

/-- The count of cycles that an ACTIVE cell has been beyond DEV_PCT of its string's mean (R66 cause 5).
DEDUCED, unsafe: log entry 50. -/
def countDeviation (s : State) (t : Twin) (st : Nat) : State :=
  let act := strIn s t st [csActive]
  let mean := meanV s t act
  let lim := F32.mul (F32.div (F32.ofInt (rf s t R.ARR_PLAUS_DEV_PCT)) 0x42C80000#32) (vnom s t st)
  (strCells s t st).foldl (fun s k =>
    let off := cellSt s t k == csActive && F32.lt lim (F32.abs (F32.sub (cw s t R.CELL_VCAP k) mean))
    modCellX s t k (fun x => { x with dev := if off then x.dev + 1 else 0 })) s

/-- The lowest of the causes 2 to 7 of R66 whose condition the agreed inputs of a cell meet; 4 and 5 judge ACTIVE cells
only. -/
def causeOf (s : State) (t : Twin) (k : Nat) (active : Bool) : Option Nat :=
  let v := cw s t R.CELL_VCAP k
  let hot := fun x => F32.lt (cw s t R.CELL_TMAX k) x
  if (cellX s t k).status.getLsbD 31 then some 2
  else if F32.lt (cw s t R.CELL_VMAX k) v then some 3
  else if active && F32.lt v (cw s t R.CELL_VMIN k) then some 4
  else if active && decide (rf s t R.ARR_PLAUS_DEV_CYCLES ≤ (cellX s t k).dev) then some 5
  else if hot (cw s t R.CELL_TEMP1 k) ∨ hot (cw s t R.CELL_TEMP2 k) ∨ hot (cw s t R.CELL_TJ k) then some 6
  else if rf s t R.ARR_TIMING_CMDLOSS + 2 ≤ (cellX s t k).miss then some 7
  else none

/-- The cause of a judged cell (R66). -/
def bypassCause (s : State) (t : Twin) (k : Nat) : Option Nat :=
  if judged s t k then causeOf s t k (cellSt s t k == csActive) else none

/-- A cell whose insertion timed out earlier in this cycle records a lower cause that holds as well (R66). -/
def lowerCause (s : State) (t : Twin) (k : Nat) : State :=
  if cellSt s t k = csBypassing ∧ rf s t (fo R.CELL_STATE_CAUSE (256 * k)) = 8 ∧ (cellX s t k).bypAt = some (s.tw t).arr.n then
    match causeOf s t k false with
    | some c =>
      let s := wf s t (fo R.CELL_STATE_CAUSE (256 * k)) c
      if c = 7 then ev (setCellSt s t k csBypassed) t R.ARR_EVENT_CELL_LOST else s
    | none => s
  else s

/-- The cells whose uplinks are agreed: those with a slot. -/
def slotCells (s : State) (t : Twin) : List Nat :=
  ((mapList s t).map (·.1)).filter (fun k => cellSt s t k != csUnused && cellSt s t k != csCold)

/-- The cell uplinks of cycle `n` are agreed and every cell is judged (R139, R66). -/
def agreeCells (s : State) (t : Twin) (n : Nat) : State :=
  let ks := slotCells s t
  let s := ks.foldl (fun s k => agreeCell s t n k) s
  let s := (List.range (stringsUsed s t)).foldl (fun s st => countDeviation s t st) s
  let s := ks.foldl (fun s k => lowerCause s t k) s
  let l := ks.filterMap (fun k => (bypassCause s t k).map (fun c => (k, c)))
  if l.isEmpty then s else bypassCells s t l

/-! Position and general-purpose inputs. -/

/-- The rate groups of a system input of the graph: the nodes of kind 3 of group `k`, with their codes.
DESIGN CHOICE, unsafe: log entry 51. -/
def sysNodes (g : GraphImg) (k : Nat) : List (Nat × Nat) :=
  ((g.nodes.zip (List.range g.nodes.length)).filter (fun p => p.1.kind == 3 && p.1.rg == k)).map (fun p => (p.2, p.1.sys))

/-- The agreed position record of a run of group `k` (R139): the leading twin's where it is heard.
DEDUCED, unsafe: log entry 42. -/
def agreedPos (s : State) (t : Twin) (k : Nat) : PosRec :=
  if twState s t ≠ tsLeading ∧ twOther s t = tsLeading ∧ hearsInputs s t then tabGet {} (s.tw t.other).drv.pos.cap k
  else tabGet {} (s.tw t).drv.pos.cap k

/-- The comparison of the two twins' records (R139): the third consecutive difference is a discrepancy.
DEDUCED, unsafe: log entry 43. -/
def posCompare (s : State) (t : Twin) (k : Nat) : State :=
  if !(hearsInputs s t) then s else
  let p := tabGet {} (s.tw t).drv.pos.cap k
  let q := tabGet {} (s.tw t.other).drv.pos.cap k
  let far := decide (1 < (p.c - q.c).toInt.natAbs) || p.sector != q.sector
  let n := if far then tabGet 0 (s.tw t).drv.pos.diff k + 1 else 0
  let s1 := modPos s t (fun x => { x with diff := tabSet 0 x.diff k (if n = 3 then 0 else n) })
  if n = 3 then sensorDiscrepancy s1 t none else s1

/-- A difference of stamps in seconds (R235): 6.25e-11 times the units of 1/16 ns. -/
def stampSec (d : Int) : W32 := F32.mul (F32.ofInt d) 0x2E89705F#32

/-- The speed rule of R236: `unit` is the angle of one count, `step` the difference of counts where one came since the
previous run, `dt` the difference of the two stamps, `age` the time since the last and `prev` the speed of the previous
run. -/
def countSpeed (unit : W32) (step : Option Int) (dt age : Int) (prev : W32) : W32 :=
  match step with
  | some d => F32.div (F32.mul unit (F32.ofInt d)) (stampSec dt)
  | none => F32.mul (F32.sign prev) (F32.min (F32.abs prev) (F32.div unit (stampSec age)))

/-- The two speeds of a run (R236). DEDUCED, unsafe: log entry 45. -/
def encSpeed (cpr : Nat) (primed : Bool) (p q : PosRec) (prev : W32) : W32 :=
  let unit := F32.div Blk.pi2 (F32.ofInt cpr)
  if !primed then 0#32
  else if p.ce ≠ q.ce then countSpeed unit (some (p.ce - q.ce).toInt) (p.te - q.te) 0 prev
  else if !p.counted then 0#32
  else countSpeed unit none 0 (p.tau - p.te) prev

/-- HALL_OMEGA of a run (R236): 0 before two valid changes. DEDUCED, unsafe: log entry 44. -/
def hallSpeed (primed : Bool) (p q : PosRec) (prev : W32) : W32 :=
  let unit := F32.div Blk.pi1 0x40400000#32
  if !primed ∨ p.changes < 2 then 0#32
  else if p.changes ≠ q.changes then countSpeed unit (some p.dir) (p.h1 - p.h0) 0 prev
  else countSpeed unit none 0 (p.tau - p.h1) prev

/-- Whether the twin that owns GPIO `n` reads it for the agreement (R139, R237). -/
def gpioHeard (s : State) (t : Twin) (n : Nat) : Bool :=
  let o : Twin := if n < 6 then .a else .b
  if o = t then inPair s t else hearsInputs s t && (twOther s t == tsLeading || twOther s t == tsFollowing)

/-- The value of a system input (R75, R235) from the agreed record; none where it is absent. Codes: 1 ENC_COUNT, 2
ENC_THETA, 3 ENC_OMEGA, 4 ENC_INDEXED, 5 HALL_SECTOR, 6 HALL_THETA, 7 HALL_OMEGA, 8 + n GPIOn_IN, 32 + s the derating of
string s. -/
def sysInput (s : State) (t : Twin) (k : Nat) (p : PosRec) (code : Nat) : Option W32 :=
  let cpr := rf s t R.DRV_ENC_CFG_CPR
  let one := fun b => if b then F32.one else 0#32
  if code = 1 then some (F32.ofInt (p.c.toNat % 16777216 : Nat))
  else if code = 2 then
    let m := F32.ofInt (p.c.toInt % (cpr : Int))
    some (Blk.wrap (F32.add (F32.div (F32.mul Blk.pi2 m) (F32.ofInt cpr)) (rd s t R.DRV_ENC_OFS)))
  else if code = 3 then some (tabGet 0#32 (s.tw t).drv.pos.encW k)
  else if code = 4 then some (one p.indexed)
  else if code = 5 then some (F32.ofInt p.sector)
  else if code = 6 then
    some (Blk.wrap (F32.add (rd s t R.DRV_HALL_OFS) (F32.div (F32.mul (F32.ofInt p.hallSec) Blk.pi1) 0x40400000#32)))
  else if code = 7 then some (tabGet 0#32 (s.tw t).drv.pos.hallW k)
  else if 8 ≤ code ∧ code < 20 then if gpioHeard s t (code - 8) then some (one (nbit p.gpio (code - 8))) else none
  else if 32 ≤ code ∧ code < 38 then some (p.derate.getD (code - 32) 0#32)
  else none

/-- DRV_ENC_COUNT and DRV_GPIO_IN follow the agreed capture of the drive group (R239). -/
def showPos (s : State) (t : Twin) (k : Nat) (p : PosRec) : State :=
  if k = 0 ∨ rf s t R.DRV_CFG_RG ≠ k then s
  else
    let s := wr s t R.DRV_ENC_COUNT p.c
    (List.range 12).foldl (fun s n =>
      if gpioHeard s t n then
        if nbit p.gpio n then evi s t R.DRV_GPIO_IN_IN n else clri s t R.DRV_GPIO_IN_IN n
      else s) s

/-- The position records of a run of group `k` are agreed and its system inputs formed (R139, R235, R236). The GPIO
levels are each owning twin's own read, which the run's own record carries. -/
def agreePosition (s : State) (t : Twin) (g : GraphImg) (k : Nat) : State :=
  let own := tabGet {} (s.tw t).drv.pos.cap k
  let p := { agreedPos s t k with gpio := own.gpio, tau := own.tau }
  let x := (s.tw t).drv.pos
  let q := tabGet {} x.cur k
  let primed := x.primed.contains k
  let w := encSpeed (rf s t R.DRV_ENC_CFG_CPR) primed p q (tabGet 0#32 x.encW k)
  let h := hallSpeed primed p q (tabGet 0#32 x.hallW k)
  let s := posCompare s t k
  let s := modPos s t (fun x => { x with
    prev := tabSet {} x.prev k q, cur := tabSet {} x.cur k p, encW := tabSet 0#32 x.encW k w
    hallW := tabSet 0#32 x.hallW k h, primed := if primed then x.primed else k :: x.primed })
  (sysNodes g k).foldl (fun s e =>
    match sysInput s t k p e.2 with
    | some v => setNode s t e.1 v
    | none => nodeInvalid s t e.1) (showPos s t k p)

/-! Analogue inputs. -/

/-- A twin's copy of an agreement-table entry as the other or itself holds it (R140): valid unless its result is flagged
or lies outside RANGE. -/
def entryCopy (s : State) (t o : Twin) (k trig src : Nat) (range : W32) : Option W32 :=
  if o ≠ t ∧ !(hearsInputs s t) then none
  else
    match adcWord s o k trig src with
    | some w =>
      let v := adcValue s o src w
      if adcValid w && F32.le (F32.abs v) range then some v else none
    | none => none

/-- The third source of an entry (R140); THIRD_REF holds the stream above its low byte and the channel in it.
DESIGN CHOICE, unsafe: log entry 46. -/
def thirdValue (s : State) (t : Twin) (g : GraphImg) (r : AgrRec) : W32 :=
  match r.third with
  | 1 =>
    match g.binds.find? (fun b => b.kind == 3 && b.unit == r.thirdRef / 256 && b.field == r.thirdRef % 256) with
    | some b => nodeVal s t b.node
    | none => 0#32
  | 2 => F32.sum ((strCells s t r.thirdRef).map (cw s t R.CELL_VCAP))
  | _ => nodeVal s t r.thirdRef

/-- One entry of the agreement table (R140). DEDUCED, unsafe: log entry 47. -/
def agreeEntry (t : Twin) (g : GraphImg) (k trig : Nat) (s : State) (e : AgrRec × Nat) : State :=
  let r := e.1
  let a := if r.cls = 3 then none else entryCopy s t .a k trig r.srcA r.range
  let b := if r.cls = 2 then none else entryCopy s t .b k trig r.srcB r.range
  match a, b with
  | some x, some y =>
    let tol := F32.add r.tolAbs (F32.mul r.tolRel (F32.max (F32.abs x) (F32.abs y)))
    if F32.le (F32.abs (F32.sub x y)) tol then setNode s t r.node (F32.mul (F32.add x y) F32.half)
    else
      let th := F32.mul r.scale (thirdValue s t g r)
      let c := if F32.le (F32.abs (F32.sub x th)) (F32.abs (F32.sub y th)) then x else y
      let ok := r.third != 0 && F32.le (F32.abs (F32.sub c th)) r.tol3
      sensorDiscrepancy (if ok then setNode s t r.node c else nodeInvalid s t r.node) t (some (false, e.2))
  | some x, none => setNode s t r.node x
  | none, some y => setNode s t r.node y
  | none, none => nodeInvalid s t r.node

/-- The entries of group `k` in table order. -/
def groupEntries (g : GraphImg) (k : Nat) : List (AgrRec × Nat) :=
  (g.agree.zip (List.range g.agree.length)).filter (fun e => (g.nodes[e.1.node]?).any (fun n => n.rg == k))

/-- A joining twin receives the leader's agreed inputs over the link (R159). -/
def takesAgreed (s : State) (t : Twin) : Bool :=
  twState s t == tsJoining && twOther s t == tsLeading && !(s.tw t).twn.linkFailed

/-- The agreed set of group `k` as twin `l` holds it: the cells' values and the graph's input nodes (R159). -/
def copyAgreed (s : State) (l t : Twin) (k : Nat) : State :=
  let s := if k = 0 ∧ (s.tw t).arr.phase = 2 then (slotCells s t).foldl (fun s c =>
      let x := cellX s l c
      let s := [R.CELL_VCAP, R.CELL_IARM, R.CELL_TEMP1, R.CELL_TEMP2].foldl (fun s a => wr s t (a + 256 * c) (cw s l a c)) s
      modCellX s t c (fun y => { y with iiso := x.iiso, status := x.status, miss := x.miss, dev := x.dev })) s
    else s
  match graph s t with
  | none => s
  | some g => ((g.nodes.zip (List.range g.nodes.length)).filter (fun p => p.1.kind != 0 && p.1.rg == k)).foldl (fun s p =>
      if (s.tw l).law.invalid.contains p.2 then nodeInvalid (wr s t (R.LAW_NODE + 4 * p.2) (nodeVal s l p.2)) t p.2
      else setNode s t p.2 (nodeVal s l p.2)) s

/-- Agreement of a run of group `k` triggered at device time `tau` in 1/16 ns (R139, R175): cell uplinks with RG0 while
frames run, sampled values and GOOSE, digital inputs, and the agreement table. A joining twin takes the leader's agreed
set instead (R159). DESIGN CHOICE, unsafe: log entry 48. -/
def agreeInputs (s : State) (t : Twin) (k : Nat) (tau : Int) : State :=
  if takesAgreed s t then copyAgreed s t.other t k else
  let s := if k = 0 ∧ (s.tw t).arr.phase = 2 then agreeCells s t (s.tw t).arr.runN else s
  match graph s t with
  | none => s
  | some g =>
    let s := (List.range 8).foldl (fun s i => svAgree s t g k tau i) s
    let s := (List.range 32).foldl (fun s i => gooseAgree s t g k tau i) s
    let s := agreePosition s t g k
    (groupEntries g k).foldl (agreeEntry t g k (tau % 1099511627776).toNat) s

end Sys2Proof.Machine
end

