-- ==== Sys2Proof/Machine/Images.lean ====
section
/-! DEFINITION. The checks of R181 and R448 on an image in a boot-flash slot, and the graph an image holds. Image
types are numbered as in the boot flash: 0 firmware, 1 graph, 2 board, 3 link tables. -/

namespace Sys2Proof.Machine

/-- The bytes in slot `sl` of an image type. -/
def slotImage (s : State) (t : Twin) (ty sl : Nat) : List Byte := tabGet [] (s.tw t).flash.images (2 * ty + sl)

/-- The active slot of a type (R447). -/
def activeSlot (s : State) (t : Twin) (ty : Nat) : Nat := bit (nbit (s.tw t).flash.active ty)

/-- The board image that the twin runs on: that of the slot it has in use (R448, R452). -/
def boardImage (s : State) (t : Twin) : List Byte := slotImage s t 2 (bit (nbit (rf s t R.SYS_STATUS_SLOT) 2))

/-- MAGIC of an image type (R448). -/
def imageMagic (ty : Nat) : Nat :=
  match ty with
  | 0 => 0x53484657
  | 1 => 0x53484752
  | 2 => 0x53484244
  | _ => 0x53484C54

/-- VERSION and LENGTH of the header (R179). -/
def imageVersion (b : List Byte) : W32 := BitVec.ofNat 32 (beAt b 8 4)
def imageLength (b : List Byte) : Nat := beAt b 12 4

/-- The key hash of a class and slot in the one-time memory of a twin (R449): Beylos hashes stand there since manufacture.
DESIGN CHOICE, safe: log entry 289. -/
def keyHash (s : State) (t : Twin) (cls slot : Nat) : List Byte :=
  if cls = 0 then Config.beylosHash slot else tabGet [] (s.tw t).pwr.keyHashes (4 * cls + slot)

/-- Check 1 (R448): class, slot not revoked, key hash in the one-time memory, signature. -/
def signatureOk (s : State) (t : Twin) (ty : Nat) (b : List Byte) : Bool :=
  let n := imageLength b
  let tr := b.drop n
  let cls := beAt tr 0 1
  let slot := beAt tr 1 1
  let revoked := nbit (if cls = 0 then rf s t R.SYS_KEYREV_BEYLOS else rf s t R.SYS_KEYREV_OWNER) slot
  let key := (tr.drop 8).take 97
  decide (n + 204 ≤ b.length) && cls == (if ty = 0 then 0 else 1) && decide (slot < 4) && !revoked
    && sha384 key == keyHash s t cls slot && beAt key 0 1 == 4
    && ecdsaVerify (beNat (sha384 (b.take (n + 108)))) (beAt key 1 48) (beAt key 49 48) (beAt tr 108 48) (beAt tr 156 48)

/-- NSECT sections of a graph image (R179), as (type, offset, length, CRC-32C). -/
def graphSections (b : List Byte) : List (Nat × Nat × Nat × W32) :=
  (List.range (beAt b 26 2)).map (fun i =>
    let o := 96 + 16 * i
    (beAt b o 2, beAt b (o + 4) 4, beAt b (o + 8) 4, BitVec.ofNat 32 (beAt b (o + 12) 4)))

/-- The sections of an image of a type, as (offset, length, CRC-32C). -/
def imageSections (ty : Nat) (b : List Byte) : List (Nat × Nat × W32) :=
  if ty = 1 then (graphSections b).map (fun e => (e.2.1, e.2.2.1, e.2.2.2)) else Config.sectionsOf b

/-- Check 4: every section's CRC-32C. -/
def sectionsOk (ty : Nat) (b : List Byte) : Bool :=
  (imageSections ty b).all (fun e => crc32c ((b.drop e.1).take e.2.1) == e.2.2.toNat)

/-- The bytes in sections of some types. -/
def sectionBytes (b : List Byte) (types : List Nat) : Nat :=
  (((graphSections b).filter (fun e => types.contains e.1)).map (fun e => e.2.2.1)).sum

/-- The graph an image holds: its header's own fields, and its sections. -/
def graphImage (b : List Byte) : GraphImg :=
  { Config.graphOf b with
    version := imageVersion b
    buildId := BitVec.ofNat 32 (beAt b 16 4)
    hash := BitVec.ofNat 32 (beAt b 32 4)
    inputHash := (b.drop 64).take 32
    engMin := beAt b 25 1 }

/-- The counts of the header in their ranges (R179), and what the sections hold is as many. -/
def countsOk (b : List Byte) (g : GraphImg) : Bool :=
  let n := fun o len hi have_ => decide (1 ≤ beAt b o len) && decide (beAt b o len ≤ hi) && beAt b o len == have_
  n 20 2 4096 g.blocks.length && n 22 2 4096 g.nodes.length && n 24 1 4 g.rgs.length
    && n 26 2 16 (graphSections b).length

/-- The bytes of node data: nodes, states and both banks. -/
def nodeData (g : GraphImg) : Nat :=
  4 * (g.nodes.length + (g.blocks.map (fun k => k.st.length + k.dev.length + k.lat.length)).sum)

/-- Check 5: program, tables and schedules within 1 MiB; nodes, states and banks within 512 KiB; at most 4 096 blocks and
nodes, 512 agreement entries and four groups. -/
def graphSize (b : List Byte) (g : GraphImg) : Bool :=
  countsOk b g && decide (g.agree.length ≤ 512) && decide (sectionBytes b [5, 6, 7] ≤ 1048576)
    && decide (nodeData g ≤ 524288)

/-- Operand limit, values popped, values pushed and slots of an expression opcode (R192); none if undefined. -/
def exprCost (op : Nat) : Option (Nat × Nat × Nat × Nat) :=
  match op with
  | 0x00 => some (256, 0, 0, 0)
  | 0x01 => some (8, 0, 1, 1)
  | 0x02 => some (16, 0, 1, 1)
  | 0x03 => some (8, 0, 1, 1)
  | 0x04 => some (8, 1, 0, 1)
  | 0x05 => some (256, 1, 2, 1)
  | 0x06 => some (256, 2, 2, 1)
  | 0x07 => some (256, 1, 0, 1)
  | 0x08 => some (256, 2, 1, 1)
  | 0x09 => some (256, 2, 1, 1)
  | 0x0A => some (256, 2, 1, 1)
  | 0x0B => some (256, 2, 1, 8)
  | 0x0C => some (256, 3, 1, 1)
  | 0x0D => some (256, 1, 1, 1)
  | 0x0E => some (256, 1, 1, 1)
  | 0x0F => some (256, 2, 1, 1)
  | 0x10 => some (256, 2, 1, 1)
  | 0x11 => some (256, 1, 1, 8)
  | 0x12 => some (256, 1, 1, 12)
  | 0x13 => some (256, 1, 1, 12)
  | 0x14 => some (256, 2, 1, 16)
  | 0x15 => some (256, 2, 1, 1)
  | 0x16 => some (256, 3, 1, 1)
  | 0x17 => some (4, 1, 0, 1)
  | _ => none

/-- Check 7 on one program (R192): defined opcodes, operands in range, the stack within 0 to 16, at most 256 slots. -/
def programOk : List (BitVec 16) → Nat → Nat → Bool
  | [], _, slots => decide (slots ≤ 256)
  | w :: r, depth, slots =>
    match exprCost (w.toNat / 256) with
    | none => false
    | some (lim, pop, push, cost) =>
      if lim ≤ w.toNat % 256 ∨ depth < pop ∨ 16 < depth - pop + push then false
      else if w.toNat / 256 = 0 then decide (slots ≤ 256)
      else programOk r (depth - pop + push) (slots + cost)

/-- A block's lookup table exists and holds its points (R183). -/
def bankTableOk (g : GraphImg) (b : GBlock) (bank : List W32) : Bool :=
  let c := fun i => (bank.getD i 0#32).toNat
  match b.type with
  | 0x1A => decide (c 2 ≤ (g.tables.getD (c 3) []).length)
  | 0x1B => decide (c 2 * c 5 ≤ (g.tables.getD (c 6) []).length)
  | 0x26 => decide (c 2 ≤ (g.tables.getD (c 3) []).length)
  | _ => true

/-- Both banks of a block name tables that are there and long enough (R181, R188). -/
def tableOk (g : GraphImg) (b : GBlock) : Bool := bankTableOk g b b.dev && bankTableOk g b b.lat

/-- The slots of a program: those of its words up to END (R192). -/
def programSlots : List (BitVec 16) → Nat
  | [] => 0
  | w :: r => if w.toNat / 256 = 0 then 0
    else ((exprCost (w.toNat / 256)).map (fun e => e.2.2.2)).getD 0 + programSlots r

/-- The slots of each block type from 0x01 to 0x29 whose cost does not depend on its inputs (R183). -/
def typeSlots : List Nat :=
  [1, 0, 1, 8, 1, 0, 1, 0, 1, 2, 3, 6, 10, 10, 5, 2, 3, 4, 4, 4, 26, 60, 12, 16, 8, 6, 12, 2, 1, 3, 1, 3, 12, 4, 40, 14, 24,
    20, 2, 4, 6]

/-- The slots of a block (R183). -/
def blockSlots (k : GBlock) : Nat :=
  match k.type with
  | 0x02 => max 1 (k.ins.length - 1)
  | 0x06 => k.ins.length
  | 0x08 => k.ins.length - 1
  | 0x2A => programSlots (k.prog.take 64)
  | y => typeSlots.getD (y - 1) 0

/-- The deadline of group `k` in nanoseconds from its trigger (R173): a cycle for RG0, D cycles for an ARRAY source. -/
def rgLimit (s : State) (t : Twin) (k : Nat) (r : RgRec) : Nat :=
  if k = 0 then cycNs s t else if r.src = 0 then r.div * cycNs s t else r.deadline.toNat

/-- Check 6: a schedule for every count from ENG_MIN to 8, which gives each block an engine and, for the inputs that a block
takes from the same run, an order (R171); every block at most 256 slots; each stated time within its group's deadline.
DEDUCED, unsafe: log entry 66. -/
def graphSchedule (s : State) (t : Twin) (g : GraphImg) : Bool :=
  decide (1 ≤ g.engMin) && decide (g.engMin ≤ 8) && g.stated.length == 9 - g.engMin && g.place.length == 9 - g.engMin
    && (g.place.zip (List.range 8)).all (fun p =>
      p.1.length == g.blocks.length && p.1.all (fun e => decide (e < g.engMin + p.2)))
    && (List.range g.rgs.length).all (fun k => (groupBlocks g k).length == (g.blocks.filter (fun b => b.rg == k)).length)
    && g.blocks.all (fun k => decide (blockSlots k ≤ 256))
    && g.rgs.all (fun r => decide (r.prio ≤ 3)) && distinct (g.rgs.map (·.prio))
    && g.stated.all (fun l => l.length == g.rgs.length
      && ((l.zip g.rgs).zip (List.range 4)).all (fun p => decide (p.1.1 * 10 ≤ rgLimit s t p.2 p.1.2)))

/-- The mandatory sections of R180. -/
def mandatory : List Nat := [1, 2, 3, 4, 5, 11]

/-- The kind of a node; none where there is no such node. -/
def nodeKind (g : GraphImg) (n : Nat) : Option Nat := (g.nodes[n]?).map (·.kind)

/-- A block's references: its inputs and outputs, which are block-output nodes of its group, and its group. -/
def blockRefs (g : GraphImg) (b : GBlock) : Bool :=
  b.ins.all (fun e => (nodeKind g e.1).isSome) && decide (b.rg < g.rgs.length) && tableOk g b
    && (List.range b.nout).all (fun i => (g.nodes[b.out0 + i]?).any (fun n => n.kind == 0 && n.rg == b.rg))

/-- The twin whose sequences judge a reference to twin u's: u where it is computing, else the judging twin, whose converter
settings are the same. -/
def seqTwin (s : State) (t u : Twin) : Twin := if computing s u then u else t

/-- An entry of the agreement table: an agreed-input node, sequence entries, and a third source of its kind (R140). -/
def agreeRefs (s : State) (t : Twin) (g : GraphImg) (a : AgrRec) : Bool :=
  refOk s (seqTwin s t .a) a.srcA && refOk s (seqTwin s t .b) a.srcB && nodeKind g a.node == some 1 && decide (1 ≤ a.cls) && decide (a.cls ≤ 3)
    && (match a.third with
      | 0 => true
      | 1 => decide (a.thirdRef / 256 < 8) && decide (a.thirdRef % 256 < 16)
      | 2 => decide (a.thirdRef < 6)
      | 3 => (nodeKind g a.thirdRef).isSome
      | _ => false)

/-- A binding of the output map: the unit and field exist, and the node has the kind that the binding drives or sets. -/
def bindRefs (g : GraphImg) (b : BindRec) : Bool :=
  let kind := nodeKind g b.node
  match b.kind with
  | 0 => kind == some 0 && decide (b.unit < 12)
  | 1 => kind == some 0 && decide (b.unit < 8) && decide (b.field < 8)
  | 2 => if b.unit < 32 then kind == some 1 else kind.isSome && decide (b.unit < 40)
  | 3 => decide (b.field < 16) && (if b.unit < 8 then kind == some 1 else kind.isSome && decide (b.unit < 12))
  | 4 => decide (b.unit < 2) && (if b.field < 16 then kind.isSome else kind == some 3 && decide (b.field < 27))
  | _ => false

/-- Check 8: the mandatory sections, and every reference exists and has the right kind; CELL_DISPATCH only in RG0, at most
one per string. -/
def graphRefs (s : State) (t : Twin) (b : List Byte) (g : GraphImg) : Bool :=
  let disp := g.blocks.filter (fun b => b.type == 0x28)
  mandatory.all (fun y => (graphSections b).any (fun e => e.1 == y))
    && g.blocks.all (blockRefs g) && g.agree.all (agreeRefs s t g) && g.binds.all (bindRefs g)
    && g.outs.all (fun l => l.all (fun n => nodeKind g n == some 0))
    && disp.all (fun b => b.rg == 0) && distinct (disp.map (fun b => (b.dev.getD 0 0).toNat))

/-- A board image that gives a lane the reserved DEEMPH code (R87). -/
def badEq (b : List Byte) : Bool :=
  (Config.boardOf b).any (fun e =>
    (List.range 12).any (fun c => e.1 == R.TRB_EQ + 4096 * c) && e.2.toNat / 16 % 4 == 3)

/-- The number of the first failed check of an image, 0 if it passes (R87, R181, R448). DEDUCED, unsafe: log entry 67. -/
def imageCheck (s : State) (t : Twin) (ty : Nat) (b : List Byte) : Nat :=
  if !(signatureOk s t ty b) then 1
  else if (imageVersion b).toNat < (rd s t (R.SYS_VERCNT + 4 * ty)).toNat then 2
  else if beAt b 0 4 ≠ imageMagic ty ∨ beAt b 4 2 ≠ 1 ∨ beAt b 6 2 ≠ 0xC0 then 3
  else if !(sectionsOk ty b) then 4
  else if ty = 2 ∧ badEq b then (Config.boardRefusal b).val + 1
  else if ty ≠ 1 then 0
  else
    let g := graphImage b
    if !(graphSize b g) then 5
    else if !(graphSchedule s t g) then 6
    else if !(g.blocks.all (fun k => k.type != 0x2A || programOk (k.prog.take 64) 0 0)) then 7
    else if !(graphRefs s t b g) then 8
    else 0

/-- A failed check is recorded in LAW_REFUSE with its event (R181). -/
def recordRefusal (s : State) (t : Twin) (n : Nat) : State :=
  if n = 0 then s else ev (wf s t R.LAW_REFUSE_REFUSE n) t R.LAW_EVENT_IMAGE_REFUSED

/-- Whether a slot of an image type holds a valid image. -/
def slotValid (s : State) (t : Twin) (ty sl : Nat) : Bool :=
  let b := slotImage s t ty sl
  !b.isEmpty && imageCheck s t ty b == 0

/-- The slot that a boot tries first for a type: the trial slot, or the previous slot with CFG3 = 1 (R435, R452). -/
def firstSlot (s : State) (t : Twin) (ty : Nat) : Nat :=
  let a := activeSlot s t ty
  if nbit (s.tw t).flash.trial ty != nbit (s.tw t).pwr.straps 3 then 1 - a else a

/-- The slot that a boot uses for a type, if any holds a valid image. -/
def bootSlot (s : State) (t : Twin) (ty : Nat) : Option Nat :=
  let f := firstSlot s t ty
  if slotValid s t ty f then some f else if slotValid s t ty (1 - f) then some (1 - f) else none

end Sys2Proof.Machine
end

