-- ==== Sys2Proof/Machine/Neg.lean ====
section
/-! DEFINITION. Negative (R194 to R201): Exposures, rows, triggers and Fixes. -/

namespace Sys2Proof.Machine

/-- What a twin keeps of an Exposure. -/
def expX (s : State) (t : Twin) (e : Nat) : ExpX := tabGet {} (s.tw t).exps e

/-- Change it. -/
def modExp (s : State) (t : Twin) (e : Nat) (f : ExpX → ExpX) : State :=
  s.setTw t { s.tw t with exps := tabMod {} (s.tw t).exps e f }

/-- Put an Exposure into a state. -/
def setExpSt (s : State) (t : Twin) (e v : Nat) : State := wf s t (ef R.NEG_EXP_STATUS_STATE e) v

/-- Rows that the region holds (R195). -/
def regionRows (s : State) (t : Twin) (e : Nat) : Nat := rf s t (ef R.NEG_EXP_REGION_SIZE e) * 4096 / rowSize s t e

/-- Whether two page regions overlap. DEDUCED, unsafe: log entry 140. -/
def overlaps (s : State) (t : Twin) (e f : Nat) : Bool :=
  let b := fun i => rf s t (ef R.NEG_EXP_REGION_BASE i)
  let z := fun i => rf s t (ef R.NEG_EXP_REGION_SIZE i)
  decide (b e < b f + z f) && decide (b f < b e + z e)

/-- The judgement of ARM (R194, R196, R197). -/
def armCode (s : State) (t : Twin) (e : Nat) : Nat :=
  let rates := (((List.range 4).filter (fun f => f == e || armed s t f)).map (expRate s t)).sum
  let post := (rd s t (ea R.NEG_EXP_POST e)).toNat
  let size := rf s t (ef R.NEG_EXP_REGION_SIZE e)
  if armed s t e then Rc.NEG_ARMED
  else if post = 0 ∨ regionRows s t e < (rd s t (ea R.NEG_EXP_PRE e)).toNat + post then Rc.NEG_DEPTH
  else if 10000000 < rates then Rc.NEG_RATE
  else if 4 < rf s t (ef R.NEG_EXP_CFG_SRC e) ∨ size = 0 ∨ 1024 < rf s t (ef R.NEG_EXP_REGION_BASE e) + size
    ∨ (List.range 4).any (fun f => f != e && armed s t f && overlaps s t e f) then Rc.PARAM_ORDER
  else Rc.OK

/-- An Exposure is armed: FILLING, or PRIMED where PRE is 0. ROWSIZE shows its probes from here on and keeps its value while
probes are written, DESIGN CHOICE, unsafe: log entry 291. -/
def armOne (e : Nat) (s : State) (t : Twin) : State :=
  let s := modExp s t e (fun _ => {
    base := rf s t (ef R.NEG_EXP_REGION_BASE e), pages := rf s t (ef R.NEG_EXP_REGION_SIZE e) })
  let s := wr (wr (wr s t (ea R.NEG_EXP_ROWS e) 0) t (ea R.NEG_EXP_FIRST e)
    (BitVec.ofNat 32 (rf s t (ef R.NEG_EXP_REGION_BASE e) * 4096))) t (ea R.NEG_EXP_FIXROW e) 0
  let s := wf (wf s t (ef R.NEG_EXP_ROWSIZE_ROWSIZE e) (rowSize s t e)) t (ef R.NEG_EXP_STATUS_PRE_SHORT e) 0
  showRate (setExpSt s t e (if rd s t (ea R.NEG_EXP_PRE e) = 0 then 2 else 1)) t

/-- NEG_ARM (R196, R197, R200). -/
def execNegArm (tg : Target) (e : Fin 4) (s : State) : Out :=
  let code := targetCode tg (fun t => armCode s t e.val)
  .next (if code ≠ Rc.OK then say s code else onTarget tg (armOne e.val) (say s Rc.OK))

/-- A Fix arrives: it takes effect on the next row of a FILLING or PRIMED Exposure (R198, R199). -/
def fixNext (s : State) (t : Twin) (e : Nat) : State :=
  if expSt s t e = 1 ∨ expSt s t e = 2 then modExp s t e (fun x => { x with fixReq := true }) else s

/-- NEG_FIX (R198, R199): refused with NEG_NOT_ARMED in IDLE. -/
def execNegFix (tg : Target) (e : Fin 4) (s : State) : Out :=
  let code := targetCode tg (fun t => if expSt s t e.val = 0 then Rc.NEG_NOT_ARMED else Rc.OK)
  .next (if code ≠ Rc.OK then say s code else onTarget tg (fun s t => fixNext s t e.val) (say s Rc.OK))

/-- An Exposure returns to IDLE and keeps no rows. -/
def expIdle (s : State) (t : Twin) (e : Nat) : State :=
  let s := modExp (setExpSt s t e 0) t e (fun _ => {})
  showRate (wf (wr s t (ea R.NEG_EXP_ROWS e) 0) t (ef R.NEG_EXP_STATUS_PRE_SHORT e) 0) t

/-- NEG_DISARM (R199). -/
def execNegDisarm (tg : Target) (e : Fin 4) (s : State) : Out :=
  .next (onTarget tg (fun s t => expIdle s t e.val) (say s Rc.OK))

/-- A node in a row of source `src` (R195): the value of the run that fires the row, or what has developed at that instant
of a node of another group; a host input as it stands. -/
def rowNode (s : State) (t : Twin) (src n : Nat) : W32 :=
  match (graph s t).bind (fun g => g.nodes[n]?) with
  | none => nodeVal s t n
  | some nd =>
    if nd.kind = 2 ∨ nd.rg = src then nodeVal s t n else tabGet nd.init (s.tw t).law.copies n

/-- The value of probe `i` in a row of source `src` (R194). -/
def probeValue (s : State) (t : Twin) (src i : Nat) : W32 :=
  let idx := rf s t (fo R.NEG_PROBE_INDEX (4 * i))
  match rf s t (fo R.NEG_PROBE_KIND (4 * i)) with
  | 0 => rowNode s t src (idx % 4096)
  | 1 =>
    let e := if idx / 64 % 2 = 1 then 16 + idx % 16 else idx % 16
    if idx = 65535 then 0#32 else rd s t (resAddr (idx / 16 % 4) e) &&& 0x00FFFFFF#32
  | 2 =>
    let k := idx / 256
    match idx % 16 with
    | 0 => cw s t R.CELL_VCAP k
    | 1 => cw s t R.CELL_IARM k
    | 2 => cw s t R.CELL_TEMP1 k
    | 3 => cw s t R.CELL_TEMP2 k
    | _ => (cellX s t k).iiso
  | _ => rd s t R.NEG_EVT

/-- Whether a probed node belongs to a block held under R168. -/
def probeHeld (s : State) (t : Twin) (ps : List Nat) : Bool :=
  match graph s t with
  | none => false
  | some g =>
    ps.any (fun i => rf s t (fo R.NEG_PROBE_KIND (4 * i)) == 0 && (s.tw t).law.held.any (fun b =>
      match g.blocks[b]? with
      | some k => decide (k.out0 ≤ rf s t (fo R.NEG_PROBE_INDEX (4 * i)))
          && decide (rf s t (fo R.NEG_PROBE_INDEX (4 * i)) < k.out0 + k.nout)
      | none => false))

/-- The trigger condition of R198 on the value of this row. -/
def negTrigger (s : State) (t : Twin) (e : Nat) (v : W32) (prev : Option W32) : Bool :=
  let l := rd s t (ea R.NEG_EXP_LEVEL e)
  match rf s t (ef R.NEG_EXP_TRIG_KIND e), prev with
  | 1, _ => F32.lt l v
  | 2, _ => F32.lt v l
  | 3, some p => F32.lt p l && F32.le l v
  | 4, some p => F32.lt l p && F32.le v l
  | 5, some p => (p &&& l) != (v &&& l)
  | _, _ => false

/-- Write words into Negative memory from a byte offset. -/
def negWrite (s : State) (t : Twin) (off : Nat) (ws : List W32) : State :=
  s.setTw t { s.tw t with
    neg := (ws.zip (List.range ws.length)).foldl (fun m p => tabSet 0#32 m (off / 4 + p.2) p.1) (s.tw t).neg }

/-- The other Exposures that select bit 10 fix on the first row written after the originating one, never on one of the same
event of its source `src` at `time` (R198, R199). -/
def chainFix (s : State) (t : Twin) (e src time : Nat) : State :=
  (List.range 4).foldl (fun s f =>
    if f ≠ e ∧ biti s t (ef R.NEG_EXP_EVENTS_EVENTS f) 10 ∧ (expSt s t f = 1 ∨ expSt s t f = 2) then
      modExp s t f (fun x => { x with chained := some (src, time) })
    else s) s

/-- An Exposure freezes after its POST rows (R197). DEDUCED, unsafe: log entry 143. -/
def freeze (s : State) (t : Twin) (e : Nat) : State :=
  showRate (evi (setExpSt s t e 4) t R.NEG_EVENT_FROZEN e) t

/-- NEG_ROW_WRITE (R195, R197 to R199): the Exposure's source fires at device time `time` in nanoseconds; the trigger is
tested and the row written. `lost` says that rows were lost before it. -/
def execNegRowWrite (t : Twin) (e : Fin 4) (time : W64) (lost : Bool) (s : State) : Out :=
  let st := expSt s t e.val
  if st = 0 ∨ st = 4 then .next s
  else
    let e := e.val
    let x := expX s t e
    let ps := expProbes s t e
    let n := regionRows s t e
    let size := rowSize s t e
    let base := rf s t (ef R.NEG_EXP_REGION_BASE e) * 4096
    let pre := (rd s t (ea R.NEG_EXP_PRE e)).toNat
    let post := (rd s t (ea R.NEG_EXP_POST e)).toNat
    let src := rf s t (ef R.NEG_EXP_CFG_SRC e)
    let v := rowNode s t src (rf s t (ef R.NEG_EXP_TRIG_NODE e))
    let chained := match x.chained with
      | some c => !(c.1 == src && c.2 == time.toNat)
      | none => false
    let fix := st != 3 && (x.fixReq || chained || negTrigger s t e v x.prev)
    let sec := time.toNat / 1000000000
    let ns := time.toNat % 1000000000
    let flags := bit fix * 128 + bit lost * 64 + bit (probeHeld s t ps) * 32
    let head := [BitVec.ofNat 32 sec, BitVec.ofNat 32 ns,
      BitVec.ofNat 32 (x.total % 65536 + flags * 65536 + ps.length * 16777216)]
    let s := negWrite s t (base + (if n = 0 then 0 else x.total % n) * size) (head ++ ps.map (probeValue s t src))
    let s := if lost then evi s t R.NEG_EVENT_GAP e else s
    let held := (rd s t (ea R.NEG_EXP_ROWS e)).toNat
    let rows := if fix || st == 3 then held + 1 else min pre (held + 1)
    let s := modExp s t e (fun x => { x with
      total := x.total + 1, prev := some v, fixReq := x.fixReq && !fix && st != 3
      chained := if fix then none else x.chained, postLeft := if fix then post - 1 else x.postLeft - 1 })
    let s := wr s t (ea R.NEG_EXP_ROWS e) (BitVec.ofNat 32 rows)
    let first := if n = 0 then 0 else (x.total + 1 + n - rows % n) % n
    let s := wr s t (ea R.NEG_EXP_FIRST e) (BitVec.ofNat 32 (base + first * size))
    .next (if fix then
        let s := wr (wr s t (ea R.NEG_EXP_FIXTIME_S e) (BitVec.ofNat 32 sec)) t (ea R.NEG_EXP_FIXTIME_NS e) (BitVec.ofNat 32 ns)
        let s := wf (wr s t (ea R.NEG_EXP_FIXROW e) (BitVec.ofNat 32 held)) t (ef R.NEG_EXP_STATUS_PRE_SHORT e)
          (bit (decide (held < pre)))
        let s := chainFix s t e src time.toNat
        if post ≤ 1 then freeze s t e else setExpSt s t e 3
      else if st = 3 then (if x.postLeft ≤ 1 then freeze s t e else s)
      else if rows = pre then setExpSt s t e 2 else s)

/-- Fix events fix each Exposure that selects one of them on its next row (R198). -/
def negEvents (s : State) (t : Twin) (bits : Nat) : State :=
  (List.range 4).foldl (fun s e =>
    if (List.range 10).any (fun i => nbit bits i && biti s t (ef R.NEG_EXP_EVENTS_EVENTS e) i) then fixNext s t e else s) s

/-- NEG_EVENT_FIX (R198): the live event word of NEG_EVT becomes `bits`, and its events fix. -/
def execNegEventFix (t : Twin) (bits : BitVec 11) (s : State) : Out :=
  .next (negEvents (wf s t R.NEG_EVT_EVT bits.toNat) t bits.toNat)

/-- NEG_REMOTE_FIX (R200): Fix events of the other twin arrive over the inter-twin link. -/
def execNegRemoteFix (t : Twin) (bits : BitVec 11) (s : State) : Out := .next (negEvents s t bits.toNat)

end Sys2Proof.Machine
end

