-- ==== Sys2Proof/Machine/Law.lean ====
section
/-! DEFINITION. Meanings of 05_law_engines: the runs of RG1 to RG3 (R173 to R178), loading an image (R182), coefficient
writes and swaps (R188 to R190), the forced hand-over of a mode selector (R191) and the loss of an engine (R37); with
the comparison of digests (R32, R143). -/

namespace Sys2Proof.Machine

/-! Loading. -/

/-- LAW_CTRL.LOAD may develop in a twin (R182): the array is not enabled and the drive's pulses are blocked. -/
def loadAllowed (s : State) (t : Twin) : Bool :=
  rf s t R.ARR_CTRL_ENABLE == 0 && (channels s t).all (fun d => (chan s t d).mode == 0)

/-- The bytes of a twin's active graph slot. -/
def activeGraph (s : State) (t : Twin) : List Byte := slotImage s t 1 (activeSlot s t 1)

/-- Exposures that probe a node return to IDLE; their contents stay readable (R182). -/
def idleNodeProbes (s : State) (t : Twin) : State :=
  (List.range 4).foldl (fun s e =>
    if (expProbes s t e).any (fun i => rf s t (fo R.NEG_PROBE_KIND (4 * i)) == 0) then
      showRate (setExpSt s t e 0) t
    else s) s

/-- The active graph image develops in one twin, or is refused (R181, R182). -/
def loadTwin (s : State) (t : Twin) : State :=
  let b := activeGraph s t
  if imageCheck s t 1 b ≠ 0 then s
  else
    let s := showRate (idleNodeProbes (loadGraph s t (graphImage b)) t) t
    modPos s t (fun p => { p with primed := [] })

/-- The twins a graph-image reload works on, from the argument of its leave: 0 twin A, 1 twin B, 2 both. -/
def loadTargets (arg : Nat) : Target :=
  match arg with
  | 0 => .one .a
  | 1 => .one .b
  | _ => .both

/-- The reload under its leave: where the array and the drive still stand, the images develop and MIN_LEN is recomputed;
the leave that twin `t` asked for returns (R182, R49). -/
def loadRun (s : State) (t : Twin) (arg : Nat) : State :=
  let tg := loadTargets arg
  if targetCode tg (fun t => if loadAllowed s t then Rc.OK else Rc.GRAPH_ACTIVE) ≠ Rc.OK then
    leaveEndFor (say s Rc.GRAPH_ACTIVE) 2 t arg
  else leaveEndFor (budget (onTarget tg loadTwin s)) 2 t arg

/-- LAW_CTRL.LOAD develops (R182). DEDUCED, unsafe: log entry 62. -/
def lawLoad (tg : Target) (s : State) : State :=
  let check := fun t => imageCheck s t 1 (activeGraph s t)
  let code := targetCode tg (fun t => if check t = 0 then Rc.OK else Rc.IMAGE (check t))
  let arg := match tg with
    | .one .a => 0
    | .one .b => 1
    | .both => 2
  if targetCode tg (fun t => if loadAllowed s t then Rc.OK else Rc.GRAPH_ACTIVE) ≠ Rc.OK then say s Rc.GRAPH_ACTIVE
  else if code ≠ Rc.OK then say (onTarget tg (fun s t => recordRefusal s t (check t)) s) code
  else
    let s := leaveAsk (say s Rc.OK) 2 (asker s) true arg
    if leaveHeldFor s 2 (asker s) arg then loadRun s (asker s) arg else s

/-- LOAD (R182). -/
def execLoad (tg : Target) (s : State) : Out := .next (lawLoad tg s)

/-! Coefficients. -/

/-- A structural coefficient lies in its range (R183, R188): N, K, MODE, OP, SEL, STR, a table index and their like.
`g` gives the tables an index may name. DEDUCED, unsafe: log entry 68. -/
def coefOk (g : GraphImg) (type i : Nat) (v : W32) : Bool :=
  let n := v.toNat
  let tab := decide (n < g.tables.length)
  let within := fun lo hi => decide (lo ≤ n) && decide (n ≤ hi)
  match type, i with
  | 0x08, 0 => within 0 1
  | 0x19, 0 => within 0 1
  | 0x1A, 2 => within 2 1024
  | 0x1A, 3 => tab
  | 0x1B, 2 => within 2 64
  | 0x1B, 5 => within 2 64
  | 0x1B, 6 => tab
  | 0x1D, 0 => within 0 5
  | 0x1F, 0 => within 1 64
  | 0x20, 0 => within 1 256
  | 0x21, 0 => within 1 256
  | 0x23, 0 => within 0 1
  | 0x25, 1 => within 0 3
  | 0x26, 2 => within 2 64
  | 0x26, 3 => tab
  | 0x28, 0 => within 0 5
  | 0x29, 0 => within 1 4
  | 0x29, 4 => within 0 1
  | _, _ => true

/-- HFI_INJ's FH lies from 500 Hz to 2 000 Hz with FH × Ts at most 0.25 in the block's group `k` (R183). -/
def injFreqOk (s : State) (t : Twin) (g : GraphImg) (k : Nat) (v : W32) : Bool :=
  F32.le 0x43FA0000#32 v && F32.le v 0x44FA0000#32 && F32.le (F32.mul v (groupTs s t g k)) 0x3E800000#32

/-- The judgement of a latent coefficient write in one twin: the codes of R188, and PARAM_ORDER for an injection
frequency outside the range of its row (R183, R484). -/
def coefCode (s : State) (t : Twin) (b i : Nat) (v : W32) : Nat :=
  let blk := (graph s t).bind (fun g => (g.blocks[b]?).map (fun k => (g, k)))
  if F32.isNan v then Rc.COEF_INVALID
  else if blk.any (fun p => !(coefOk p.1 p.2.type i v)) then Rc.COEF_INVALID
  else if i = 1 ∧ blk.any (fun p => p.2.type == 0x24 && !(injFreqOk s t p.1 p.2.rg v)) then Rc.PARAM_ORDER
  else if (s.tw t).law.swapSet.contains b then Rc.SWAP_PENDING
  else Rc.OK

/-- A latent coefficient is written (R188). -/
def coefWrite (tg : Target) (b i : Nat) (v : W32) (s : State) : State :=
  let code := targetCode tg (fun t => coefCode s t b i v)
  if code ≠ Rc.OK then say s code
  else onTarget tg (fun s t => wr s t (R.LAW_BLK_LAT + 256 * b + 4 * i) v) (say s Rc.OK)

/-- COEF_WRITE (R188). -/
def execCoefWrite (tg : Target) (b : Fin 4096) (i : Fin 16) (v : W32) (s : State) : Out :=
  .next (agreedOnly tg s (coefWrite tg b.val i.val v))

/-- The blocks that LAW_SWAP_MAP names. -/
def swapMap (s : State) (t : Twin) (g : GraphImg) : List Nat :=
  (List.range g.blocks.length).filter (fun b => nbit (rd s t (R.LAW_SWAP_MAP + 4 * (b / 32))).toNat (b % 32))

/-- The limits that a block's bank orders: LO not above HI, ON above OFF (R189). -/
def bankOk (type : Nat) (c : List W32) : Bool :=
  let le := fun i j => !(F32.lt (c.getD j 0) (c.getD i 0))
  match type with
  | 0x0A => le 0 1
  | 0x0C => le 2 3
  | 0x0D => le 4 5
  | 0x0E => le 4 5
  | 0x11 => le 1 2
  | 0x15 => le 3 4
  | 0x16 => le 3 4
  | 0x1C => F32.lt (c.getD 1 0) (c.getD 0 0)
  | _ => true

/-- Whether the swap set's latent banks are in order (R189). -/
def swapCode (s : State) (t : Twin) : Nat :=
  match graph s t with
  | none => Rc.OK
  | some g =>
    if (swapMap s t g).all (fun b => bankOk ((g.blocks[b]?).map (·.type) |>.getD 0) (blkWords s t R.LAW_BLK_LAT b 16))
    then Rc.OK else Rc.COEF_INVALID

/-- The swap set becomes pending in a twin; blocks already pending stay so (R189). -/
def swapPend (s : State) (t : Twin) : State :=
  match graph s t with
  | none => s
  | some g =>
    let set := swapMap s t g
    if set.isEmpty then s
    else wf (modLaw s t (fun l => { l with swapSet := l.swapSet ++ set.filter (fun b => !(l.swapSet.contains b)) })) t
      R.LAW_STATUS_SWAP_PENDING 1

/-- LAW_CTRL.SWAP develops (R189). DESIGN CHOICE, unsafe: log entry 61. -/
def lawSwap (tg : Target) (s : State) : State :=
  let code := targetCode tg (swapCode s)
  if code ≠ Rc.OK then say s code else onTarget tg swapPend (say s Rc.OK)

/-- SWAP (R189). -/
def execSwap (tg : Target) (s : State) : Out := .next (lawSwap tg s)

/-- SWAP_DEVELOP (R189, R190): the first run boundary of a group at or after t_n. -/
def execSwapDevelop (t : Twin) (k : Fin 4) (s : State) : Out :=
  match graph s t with
  | none => .next s
  | some g => .next (swapGroup s t g k.val)

/-- HANDOVER_FORCED (R191): a selector that has waited for HO_TIMEOUT enters FADE. -/
def execHandoverForced (t : Twin) (b : Fin 4096) (s : State) : Out :=
  let b := b.val
  let isSel := (graph s t).any (fun g => (g.blocks[b]?).any (fun k => k.type == 0x29))
  .next (if isSel ∧ rf s t (bf R.LAW_BLK_STATUS_PHASE b) = 1 then
      let s := ev (wf s t (bf R.LAW_BLK_STATUS_PHASE b) 2) t R.LAW_EVENT_HANDOVER_FORCED
      modLaw s t (fun l => { l with ms := tabSet ⟨0, none⟩ l.ms b ⟨0, none⟩ })
    else s)

/-! Engines. -/

/-- LAW_ENGINE_FAIL (R37): the engine leaves the schedule; the switch follows at the next cycle start.
DEDUCED, unsafe: log entry 64. -/
def execLawEngineFail (t : Twin) (e : Fin 8) (s : State) : Out :=
  .next (if twState s t = tsReset ∨ (s.tw t).arr.engBad.contains e.val then s
    else
      let s1 := modArr s t (fun a => { a with engBad := e.val :: a.engBad, engFailed := true })
      wf s1 t R.LAW_STATUS_ENGINES (rf s t R.LAW_STATUS_ENGINES - 1))

/-- SCHEDULE_SWITCH (R37): at the cycle start after a loss the twin takes the schedule for the engines left, or
withdraws with cause ENGINES where the image holds none. -/
def scheduleSwitch (s : State) (t : Twin) : State :=
  if !((s.tw t).arr.engFailed) then s
  else
    let n := rf s t R.LAW_STATUS_ENGINES
    let s := modArr s t (fun a => { a with engFailed := false })
    match graph s t with
    | none => ev (wf s t R.LAW_STATUS_SCHED n) t R.LAW_EVENT_SCHED_CHANGED
    | some g =>
      if (stated g n 0).isNone then withdraw s t 9
      else
        let s := ev (wf s t R.LAW_STATUS_SCHED n) t R.LAW_EVENT_SCHED_CHANGED
        budget ((List.range g.rgs.length).foldl (fun s k =>
          wf s t (fo R.LAW_RG_TIME_STATED (16 * k)) ((stated g n k).getD 0)) s)

/-! Hardware outputs of a run. -/

/-- A node's value as the integer of a latent PWM register: rounded to nearest even and clamped to the register. -/
def pwmInt (v : W32) (lo hi : Int) : Int :=
  max lo (min hi (F32.toIntScaled v 0))

/-- The latent register of a PWM binding's field: 0 PERIOD, 1 CMPA, 2 CMPB, 3 PHASE, 4 to 7 CMPX0 to CMPX3.
DESIGN CHOICE, unsafe: log entry 59. -/
def pwmLatent (p field : Nat) : Nat := R.PWM_P_PERIOD + 128 * p + 4 * field

/-- The graph's PWM bindings write the latent sets of their pairs, which are armed (R248). -/
def armBindings (s : State) (t : Twin) (bs : List BindRec) : State :=
  let s := bs.foldl (fun s b =>
    let v := nodeVal s t b.node
    let n := if b.field = 3 then pwmInt v (-2147483648) 2147483647 else pwmInt v 0 4294967295
    if F32.isNan v then s else wr s t (pwmLatent b.unit b.field) (BitVec.ofInt 32 n)) s
  ((List.range 8).filter (fun p => bs.any (fun b => b.unit == p))).foldl (fun s p =>
    if edgeTwin s = t then pwmArm s p else s) s

/-- Bound GPIO outputs take their levels (R237): high while the node is at least 0.5.
DESIGN CHOICE, unsafe: log entry 60. -/
def gpioBindings (s : State) (t : Twin) (bs : List BindRec) : State :=
  bs.foldl (fun s b => modDrv s t (fun x => { x with
    gpioOut := setBit x.gpioOut b.unit (F32.le F32.half (nodeVal s t b.node)) })) s

/-- The hardware outputs of a run of group `k` that completed by its deadline (R176, R237, R248). -/
def runOutputs (s : State) (t : Twin) (k : Nat) : State :=
  match graph s t with
  | none => s
  | some g =>
    let mine := g.binds.filter (fun b => (g.nodes[b.node]?).any (fun n => n.rg == k))
    armBindings (gpioBindings s t (mine.filter (fun b => b.kind == 0))) t (mine.filter (fun b => b.kind == 1))

/-! Runs of RG1 to RG3. -/

/-- The runs of a group in flight. DEDUCED, unsafe: log entry 65. -/
def rgQueue (s : State) (t : Twin) (k : Nat) : List RgRun := tabGet [] (s.tw t).law.queue k

/-- Replace the runs of a group in flight; LAW_STATUS.RUNNING shows whether one is not complete, and the position
record captured for the first such run is the one to be agreed. -/
def setRuns (s : State) (t : Twin) (k : Nat) (l : List RgRun) : State :=
  let s := modLaw s t (fun x => { x with queue := tabSet [] x.queue k l })
  match l.find? (fun r => !r.done) with
  | none => clri s t R.LAW_STATUS_RUNNING k
  | some r => modPos (evi s t R.LAW_STATUS_RUNNING k) t (fun p => { p with cap := tabSet {} p.cap k r.pos })

/-- Change the first run of a list that a test picks. -/
def modFirst (p : RgRun → Bool) (f : RgRun → RgRun) : List RgRun → List RgRun
  | [] => []
  | r :: l => if p r then f r :: l else r :: modFirst p f l

/-- Runs that have completed and whose deadline has passed leave the list. -/
def sweep (l : List RgRun) : List RgRun := l.filter (fun r => !(r.done && r.late))

/-- A group's table entry (R173). -/
def rgRec (s : State) (t : Twin) (k : Nat) : Option RgRec := (graph s t).bind (fun g => g.rgs[k]?)

/-- The latest event of a PWM source in a running pair (R173, R251): its number since the pair's start and its device time
in 1/16 ns. -/
def rgEvent (s : State) (r : RgRec) : Nat × Int :=
  let x := pwm s r.pair
  if !(running s r.pair) then (0, 0)
  else if r.src = 1 then (x.perN, x.b) else (x.cmpN.getD r.cmp 0, x.cmpT.getD r.cmp 0)

/-- Whether a trigger of group `k` is due (R173): one with the ARRAY source at the agreement close of each cycle n
with n mod D = PH; one with a PWM source at every D-th event of its pair, once. DEDUCED, unsafe: log entry 257. -/
def rgDue (s : State) (t : Twin) (k : Nat) (r : RgRec) : Bool :=
  if r.src = 0 then (s.tw t).arr.runN % max 1 r.div == r.ph
  else
    let e := rgEvent s r
    decide (0 < e.1) && e.1 % max 1 r.div == 0 && tabGet none (s.tw t).law.trig k != some e.2

/-- A trigger of group `k` (R173, R176, R177, R235): the transition copies and the position record are taken as they
stand; the run starts, or waits for the previous one. -/
def rgTrigger (s : State) (t : Twin) (k gpio : Nat) (r : RgRec) : State :=
  let atStart := r.src == 0
  let tau := if atStart then cycleStartNs s t (s.tw t).arr.runN * 16 else (rgEvent s r).2
  let run : RgRun := { tau := tau, snap := (s.tw t).law.copies, pos := capture s t (s.tw t).arr.runN atStart tau gpio }
  setRuns (modLaw s t (fun l => { l with trig := tabSet none l.trig k (if atStart then none else some tau) })) t k
    (rgQueue s t k ++ [run])

/-- RG_TRIGGER (R173) of RG1 + `k`; `gpio` are the levels of GPIO0 to GPIO11 as their owning twins read them. -/
def execRgTrigger (t : Twin) (k : Fin 3) (gpio : BitVec 12) (s : State) : Out :=
  match rgRec s t (k.val + 1) with
  | none => .next s
  | some r => .next (if computing s t ∧ rgDue s t (k.val + 1) r then rgTrigger s t (k.val + 1) gpio.toNat r else s)

/-- A run of group `k` triggered at `tau` (1/16 ns) waits for no conversion (R175, R286): the sequences bound to the group
have completed, or their limit has passed, and so has every other conversion sampled by then, in the twin and in the one
whose inputs it uses. -/
def sampled (s : State) (t : Twin) (k : Nat) (tau : Int) : Bool :=
  let done := fun (u : Twin) => boundDone s u k && flightsDone s u k (tau % 1099511627776).toNat
  takesAgreed s t || (done t && (!(hearsInputs s t) || done t.other))

/-- RG_RUN_START (R175, R286): agreement of the run's inputs closes and the run starts on the copies of its trigger. -/
def execRgRunStart (t : Twin) (k : Fin 3) (s : State) : Out :=
  let k := k.val + 1
  match (rgQueue s t k).find? (fun r => !r.done) with
  | none => .next s
  | some r =>
    if r.closed || !(sampled s t k r.tau) then .next s
    else
      let s1 := modLaw s t (fun l => { l with snap := tabSet [] l.snap k r.snap })
      let s2 := agreeInputs (startTs s1 t k) t k r.tau
      .next (setRuns s2 t k (modFirst (fun r => !r.done) (fun r => { r with closed := true }) (rgQueue s2 t k)))

/-- The longest run of a group since the last read, in units of 10 ns. -/
def measured (s : State) (t : Twin) (k time : Nat) : State :=
  wf s t (fo R.LAW_RG_TIME_MEASURED (16 * k)) (max (rf s t (fo R.LAW_RG_TIME_MEASURED (16 * k))) time)

/-- A run's blocks, then in the drive group the sequencer; its digest and, unless it is late, its publications (R142, R176,
R206, R319). -/
def runBody (s : State) (t : Twin) (k run : Nat) (tau : Int) (late : Bool) : State :=
  let drive := k ≠ 0 ∧ rf s t R.DRV_CFG_RG = k
  let s := runGroup s t k
  let s := if drive then sequencerRun s t else s
  let s := formDigest (leaveCopies s t k) t k run (if drive then seqDigest s t else [])
  if late then s else gooseRun s t k tau

/-- RG_RUN_COMPLETE (R176, R206): the run's state updates take effect, late or not; a run that waits becomes the next
to be agreed. `time` is its length in units of 10 ns. -/
def execRgRunComplete (t : Twin) (k : Fin 3) (time : BitVec 16) (s : State) : Out :=
  let k := k.val + 1
  match (rgQueue s t k).find? (fun r => !r.done) with
  | none => .next s
  | some r =>
    if !r.closed then .next s
    else
      let s1 := measured (runBody s t k (tabGet 0 (s.tw t).law.runs k) (r.tau / 16) r.late) t k time.toNat
      .next (setRuns s1 t k (sweep (modFirst (fun r => !r.done) (fun r => { r with done := true }) (rgQueue s1 t k))))

/-- An overrun of a group (R176): counted, and the third consecutive one withdraws the twin. -/
def rgOverrun (s : State) (t : Twin) (k : Nat) : State :=
  let n := tabGet 0 (s.tw t).law.ovrRun k + 1
  let s := evi (cnt s t (R.LAW_RG_OVR + 16 * k)) t R.LAW_EVENT_OVR_RG k
  let s := modLaw s t (fun l => { l with ovrRun := tabSet 0 l.ovrRun k n })
  if n = 3 then withdraw s t 4 else s

/-- RG_DEADLINE (R176, R177): the deadline of the group's oldest run whose deadline has not passed. Copies of completed
runs develop; a completed run's hardware outputs are written, an unfinished one counts as an overrun. -/
def execRgDeadline (t : Twin) (k : Fin 3) (s : State) : Out :=
  let k := k.val + 1
  match (rgQueue s t k).find? (fun r => !r.late) with
  | none => .next s
  | some r =>
    let s1 := svRecord (developCopies s t k) t k (nowSub s t)
    let s2 := setRuns s1 t k (sweep (modFirst (fun r => !r.late) (fun r => { r with late := true }) (rgQueue s1 t k)))
    .next (if r.done then runOutputs (modLaw s2 t (fun l => { l with ovrRun := tabSet 0 l.ovrRun k 0 })) t k
      else rgOverrun s2 t k)

/-! Comparison. -/

/-- The differing items of two digests in the four lowest mismatching segments, at most eight, lowest first (R143). -/
def differing (p q : List DigItem) : List DigItem :=
  let segs := ((List.range 64).filter (fun g => segCrc p g != segCrc q g)).take 4
  (p.filter (fun i => segs.contains i.seg &&
    !(q.any (fun j => j.seg == i.seg && j.slot == i.slot && j.index == i.index && j.data == i.data)))).take 8

/-- Record the differing items and the cycle (R143). -/
def recordItems (s : State) (t : Twin) (cycle : Nat) (l : List DigItem) : State :=
  let s := wr s t R.TWN_DIS_CYCLE (BitVec.ofNat 32 cycle)
  (List.range 8).foldl (fun s i =>
    let w : Nat := match l[i]? with
      | some x => 2147483648 + bit x.slot * 1073741824 + x.seg * 16777216 + x.index
      | none => 0
    wr s t (R.TWN_DIS_NODE + 4 * i) (BitVec.ofNat 32 w)) s

/-- A mismatch in both twins (R143): the event, the count, the record, and the fast self-test from the next cycle start;
one during the test cycle is counted and starts no second test. -/
def mismatch (s : State) (cycle : Nat) (p q : List DigItem) : State :=
  let testing := s.a.twn.stScheduled || s.b.twn.stScheduled
  onBoth (fun s t =>
    let s := cnt (ev s t R.TWN_EVENT_MISMATCH) t R.TWN_MISMATCH
    let s := modTwn s t (fun x => { x with mismatchAt := some (s.tw t).tb.toNat })
    if testing then s
    else modTwn (recordItems s t cycle (differing p q)) t (fun x => { x with stScheduled := true })) s

/-- DIGEST_COMPARE (R32, R143): both digests of run `n` of group `k` are present; for RG0, `n` is the cycle. Twins that
do not compare keep nothing. -/
def execDigestCompare (k : Fin 4) (n : W32) (s : State) : Out :=
  let key := 4 * n.toNat + k.val
  match s.a.twn.dig.find? (fun e => e.1 == key), s.b.twn.dig.find? (fun e => e.1 == key) with
  | some p, some q =>
    let live := flag s .a R.TWN_STATE_COMPARE && flag s .b R.TWN_STATE_COMPARE
    let s1 := onBoth (fun s t => modTwn s t (fun x => { x with dig := x.dig.filter (fun e => e.1 != key) })) s
    .next (if live ∧ p.2.d ≠ q.2.d then mismatch s1 p.2.cycle p.2.items q.2.items else s1)
  | _, _ => .next s

end Sys2Proof.Machine
end

