-- ==== Sys2Proof/Machine/Saf.lean ====
section
/-! DEFINITION. Meanings of 11_safety: the scan of a safety-monitor domain, demands, outputs and their test, and the
cross-checks. Safety-parameter writes are in SafParam.lean. -/

namespace Sys2Proof.Machine

/-- Change one side's safety-monitor domain. -/
def modSaf (s : State) (t : Twin) (f : SafSt → SafSt) : State := s.setTw t { s.tw t with saf := f (s.tw t).saf }

/-- The state field of function `k` (R364): 0 DISABLED, 1 DEMAND, 2 READY, 3 HEALTHY, 4 FAULT. -/
def fnField (k : Nat) : Fld := ⟨R.SAF_STATUS, 4 * k + 2, 4 * k⟩
def fnSt (s : State) (t : Twin) (k : Nat) : Nat := rf s t (fnField k)

/-- The reading of a function's two channels (R363): 0 healthy, 1 full demand, 2 mixed. -/
def chanRead (s : State) (t : Twin) (k : Nat) : Nat :=
  let lv := (s.tw t).saf.sin
  let c1 := nbit lv (2 * k)
  let c2 := nbit lv (2 * k + 1) != flag s t (fo R.SAF_F_CFG_TYPE (4 * k))
  if c1 && c2 then 0 else if !c1 && !c2 then 1 else 2

/-- A function enters DEMAND (R364, R365). -/
def fnDemand (s : State) (t : Twin) (k : Nat) : State :=
  ev (cnt (wf s t (fnField k) 1) t (R.SAF_DEMANDS + 4 * k)) t R.SAF_EVENT_DEMAND

/-- Full demand, where it begins, writes the device time in seconds (R365). -/
def fnFull (s : State) (t : Twin) (k : Nat) : State :=
  let full := chanRead s t k == 1
  let s1 := if full && !(nbit (s.tw t).saf.full k) then
      wr s t (R.SAF_F_LAST + 4 * k) (BitVec.ofInt 32 (devNs s t / 1000000000))
    else s
  modSaf s1 t (fun x => { x with full := setBit x.full k full, seen := setBit x.seen k ((nbit x.seen k || full) && fnSt s t k == 4) })

/-- One function in one scan (R364): the first transition that applies. -/
def fnScan (t : Twin) (s0 : State) (k : Nat) : State :=
  let s := if flag s0 t (fo R.SAF_F_CFG_EN (4 * k)) then fnFull s0 t k else s0
  let st := fnSt s t k
  let healthy := chanRead s t k == 0
  let locked := flag s t R.SAF_STATUS_LOCKED
  let auto := flag s t (fo R.SAF_F_CFG_RESTART (4 * k))
  if !(flag s t (fo R.SAF_F_CFG_EN (4 * k))) then wf s t (fnField k) 0
  else if st = 0 then fnDemand s t k
  else if (st = 3 ∨ st = 2) ∧ !healthy then fnDemand s t k
  else if st = 1 ∧ healthy ∧ locked then wf s t (fnField k) (if auto && !(nbit (s.tw t).saf.owed k) then 3 else 2)
  else if st = 4 ∧ healthy ∧ nbit (s.tw t).saf.seen k then
    modSaf (wf s t (fnField k) 2) t (fun x => { x with seen := setBit x.seen k false })
  else s

/-- An enabled function that is not HEALTHY carries a reaction bit of its configuration (R369, R371, R372). -/
def fnReacts (s : State) (t : Twin) (f : Fld) : Bool :=
  (List.range 4).any (fun k => flag s t (fo R.SAF_F_CFG_EN (4 * k)) && fnSt s t k != 3 && flag s t (fo f (4 * k)))

/-- An internal demand with a reaction is latched (R367): masks of the demands with safe torque off, safe array block,
breaker trip and "All". -/
def intReacts (s : State) (t : Twin) (mask : Nat) : Bool := rf s t R.SAF_STATUS_INT &&& mask != 0
def mSto : Nat := 0xF5
def mSab : Nat := 0xF6
def mBrk : Nat := 0xFE
def mAll : Nat := 0xF4

/-- Every reaction is in force while SAF_STATUS.LOCKED is 0 (R382). -/
def unlocked (s : State) (t : Twin) : Bool := !(flag s t R.SAF_STATUS_LOCKED)

/-- SOUT pair `p` is on in a side (R372). -/
def pairOn (s : State) (t : Twin) (p : Nat) : Bool :=
  !(unlocked s t || fnReacts s t (if p = 0 then R.SAF_F_CFG_P0 else R.SAF_F_CFG_P1) || intReacts s t mAll
    || (rf s t R.SAF_GCFG_BRK_PAIR == p && intReacts s t mBrk) || biti s t R.SAF_OUT_PAIR_FAULT p)

/-- The number of a side's own channel of pair `p` (R360): the A-side drives SOUT0 and SOUT2.
DEDUCED, unsafe: log entry 123. -/
def ownChan (t : Twin) (p : Nat) : Nat := 2 * p + t.index

/-- A side's own channel of a pair is commanded on. -/
def chanOn (s : State) (t : Twin) (p : Nat) : Bool := biti s t R.SAF_OUT_ON (ownChan t p)

/-- SRBn as read; the TB count at which it falls is noted (R375). -/
def readback (s : State) (t : Twin) (p : Nat) (high : Bool) : State :=
  if high then evi s t R.SAF_OUT_RB (ownChan t p)
  else
    let now := (s.tw t).tb.toNat
    let fell := biti s t R.SAF_OUT_RB (ownChan t p)
    modSaf (clri s t R.SAF_OUT_RB (ownChan t p)) t (fun x => { x with
      lowAt := if fell then tabSet 0 x.lowAt p now else x.lowAt })

/-- Command a side's own channel of pair `p` (R372, R386): its readback follows where the command changes.
DEDUCED, unsafe: log entry 280. -/
def setOut (s : State) (t : Twin) (p : Nat) (v : Bool) : State :=
  if chanOn s t p = v then s
  else readback (if v then evi s t R.SAF_OUT_ON (ownChan t p) else clri s t R.SAF_OUT_ON (ownChan t p)) t p v

/-- The side commands its outputs (R369, R371, R372). DEDUCED, unsafe: log entry 122. -/
def sideOutputs (s : State) (t : Twin) : State :=
  let sto := unlocked s t || fnReacts s t R.SAF_F_CFG_STO || intReacts s t mSto
  let sab := unlocked s t || fnReacts s t R.SAF_F_CFG_SAB || intReacts s t mSab
  let p0 := pairOn s t 0
  let p1 := pairOn s t 1
  let s := wf (wf s t R.SAF_STATUS_STO (bit sto)) t R.SAF_STATUS_SAB (bit sab)
  let s := wf (wf s t R.SAF_STATUS_P0_ON (bit p0)) t R.SAF_STATUS_P1_ON (bit p1)
  let s := wf s t R.SAF_STATUS_BRK (bit !(if rf s t R.SAF_GCFG_BRK_PAIR = 0 then p0 else p1))
  let s := setOut (setOut s t 0 p0) t 1 p1
  if sto then bridgeStop s else [14, 15].foldl settle1 s

/-- SAFETY_SCAN (R362, R364, R369 to R372, R382): the side's domain evaluates its functions and demands and commands
its outputs; it does so whatever its twin's state (R361). -/
def execSafetyScan (t : Twin) (s : State) : Out := .next (sideOutputs ((List.range 4).foldl (fnScan t) s) t)

/-- SIN_FILTER_CHANGE (R363): a channel level stable for FILT × 0.5 ms is taken. -/
def execSinFilterChange (t : Twin) (n : Fin 8) (high : Bool) (s : State) : Out :=
  .next (modSaf s t (fun x => { x with sin := setBit x.sin n.val high }))

/-- DISCREPANCY_FAULT (R364, R365): the channels have been mixed for DISC × 10 ms: a function in DEMAND enters FAULT; in
FAULT the full demand seen so far no longer counts. -/
def execDiscrepancyFault (t : Twin) (k : Fin 4) (s : State) : Out :=
  .next (if chanRead s t k.val ≠ 2 ∨ !(flag s t (fo R.SAF_F_CFG_EN (4 * k.val))) then s
    else if fnSt s t k.val = 1 then
      let s := ev (cnt (wf s t (fnField k.val) 4) t R.SAF_DISC) t R.SAF_EVENT_DISCREPANCY
      sideOutputs (modSaf s t (fun x => { x with seen := setBit x.seen k.val false })) t
    else if fnSt s t k.val = 4 then modSaf s t (fun x => { x with seen := setBit x.seen k.val false })
    else s)

/-- A function may be acknowledged: READY, with healthy channels (R365, R384). DEDUCED, unsafe: log entry 124. -/
def ackable (s : State) (t : Twin) (k : Nat) : Bool := fnSt s t k == 2 && chanRead s t k == 0

/-- SAF_CTRL.ACK is written (R364, R365): a bit for a function that is not READY is refused with SOURCE_ACTIVE. -/
def safAck (s : State) (m : Nat) : State :=
  let named := (List.range 4).filter (fun k => nbit m k)
  let s := if named.any (fun k => !(ackable s .a k && ackable s .b k)) then say s Rc.SOURCE_ACTIVE else s
  let go := named.filter (fun k => ackable s .a k && ackable s .b k)
  onBoth (fun s t => sideOutputs (go.foldl (fun s k =>
    modSaf (wf s t (fnField k) 3) t (fun x => { x with owed := setBit x.owed k false })) s) t) s

/-- ACK (R365). -/
def execAck (tg : Target) (m : BitVec 4) (s : State) : Out := .next (agreedOnly tg s (fun s => safAck s m.toNat))

/-- DEMAND_AGE (R366): the daily check finds an enabled function without full demand for DEMAND_AGE days; no
reaction. DESIGN CHOICE, unsafe: log entry 125. -/
def execDemandAge (t : Twin) (k : Fin 4) (s : State) : Out :=
  let days := rf s t R.SAF_GCFG_DEMAND_AGE
  let age := ((devNs s t / 1000000000) % 4294967296 - (rd s t (R.SAF_F_LAST + 4 * k.val)).toNat) % 4294967296
  .next (if days ≠ 0 ∧ flag s t (fo R.SAF_F_CFG_EN (4 * k.val)) ∧ (days * 86400 : Nat) ≤ age then ev s t R.SAF_EVENT_DEMAND_AGE
    else s)

/-- INTERNAL_DEMAND (R367): a twin writes a demand into its own side, where it is latched for the next scan. -/
def execInternalDemand (t : Twin) (k : Fin 8) (s : State) : Out :=
  .next (if twState s t = tsReset then s else demand s t k.val)

/-- SAF_PCRC differs while both sides are locked (R376). -/
def lockedDiffer (s : State) : Bool :=
  flag s .a R.SAF_STATUS_LOCKED && flag s .b R.SAF_STATUS_LOCKED && rd s .a R.SAF_PCRC != rd s .b R.SAF_PCRC

/-- Whether the cause of a latched demand of a side holds (R368, R376, R377). -/
def demandCause (s : State) (t : Twin) (k : Nat) : Bool :=
  match k with
  | 0 => (List.range 2).any (fun d => (chan s t d).badCmd)
  | 1 => flag s t R.ARR_STATUS_BLOCKED
  | 2 => match leader s with
    | some l => !((s.tw l).twn.testedSince)
    | none => true
  | 3 => flag s t R.DRV_STATUS_SPILL_TRIP
  | 4 => (s.tw t).saf.diff || lockedDiffer s
  | 5 => rd s t R.SAF_PCRC != rd s t R.SAF_PCRC_LOCK
  | 6 => let f := rf s t R.SAF_OSC_OSC; decide (f < 15200) || decide (16800 < f)
  | _ => flag s t R.SAF_STATUS_XCHK_OFF

/-- The latches of a side whose cause has gone. -/
def goneLatches (s : State) (t : Twin) : List Nat :=
  (List.range 8).filter (fun k => biti s t R.SAF_STATUS_INT k && !(demandCause s t k))

/-- SAF_CTRL.ACK_INT is written (R368): refused with SOURCE_ACTIVE if no latch clears. -/
def safAckInt (s : State) : State :=
  if (goneLatches s .a).isEmpty && (goneLatches s .b).isEmpty then say s Rc.SOURCE_ACTIVE
  else onBoth (fun s t => sideOutputs ((goneLatches s t).foldl (fun s k => clri s t R.SAF_STATUS_INT k) s) t) s

/-- ACK_INT (R368). -/
def execAckInt (tg : Target) (s : State) : Out := .next (agreedOnly tg s safAckInt)

/-! Safety outputs. -/

/-- Record the fault of a side's own channel of pair `p` (R373, R375): both channels of the pair go off, PAIR_FAULT
latches, OUT_FAULTS counts. Codes: 1 STUCK_HIGH, 2 LOW_WHILE_ON, 3 OVERCURRENT. -/
def outFault (s : State) (t : Twin) (p code : Nat) : State :=
  let n := ownChan t p
  let s := wf s t ⟨R.SAF_OUT, 4 * n + 3, 4 * n⟩ code
  let s := ev (cnt s t R.SAF_OUT_FAULTS) t R.SAF_EVENT_OUT_FAULT
  readback (onBoth (fun s u => sideOutputs (evi s u R.SAF_OUT_PAIR_FAULT p) u) s) t p (code == 1)

/-- SOUT_OVERCURRENT (R373): a channel over its limit turns off on its own and records OVERCURRENT. -/
def execSoutOvercurrent (t : Twin) (p : Fin 2) (s : State) : Out :=
  .next (if chanOn s t p.val then outFault s t p.val 3 else s)

/-- SOUT_OFF_PULSE (R374): an on channel is pulsed off; its readback, sampled 10 µs before the end, must be low. A
channel that is off is not pulsed. -/
def execSoutOffPulse (t : Twin) (p : Fin 2) (high : Bool) (s : State) : Out :=
  .next (if !(chanOn s t p.val) then s
    else
      let s := readback (modSaf s t (fun x => { x with pulse := setBit x.pulse p.val true })) t p.val high
      if high then outFault s t p.val 1 else s)

/-- SOUT_OFF_PULSE_END (R374): the pulse ends; the channel turns on again unless a demand or a fault has come. -/
def execSoutOffPulseEnd (t : Twin) (p : Fin 2) (s : State) : Out :=
  .next (if nbit (s.tw t).saf.pulse p.val then
      readback (modSaf s t (fun x => { x with pulse := setBit x.pulse p.val false })) t p.val (chanOn s t p.val)
    else s)

/-- SOUT_READBACK_FAULT (R375): low for 1 ms while on, or high for 10 ms while off; a level that agrees with the
channel is only shown. -/
def execSoutReadbackFault (t : Twin) (p : Fin 2) (high : Bool) (s : State) : Out :=
  .next (if nbit (s.tw t).saf.pulse p.val then s
    else
      let s1 := readback s t p.val high
      if chanOn s t p.val = high then s1 else outFault s1 t p.val (if high then 1 else 2))

/-- SAF_CTRL.ACK_OUT is written (R375): clears the latch of a pair whose two channels have read low for 100 ms (`low`
names those pairs); refused with SOURCE_ACTIVE if no latch clears. DEDUCED, unsafe: log entry 129. -/
def safAckOut (s : State) (low : Nat) : State :=
  let go := (List.range 2).filter (fun p => nbit low p && (biti s .a R.SAF_OUT_PAIR_FAULT p || biti s .b R.SAF_OUT_PAIR_FAULT p))
  if go.isEmpty then say s Rc.SOURCE_ACTIVE
  else onBoth (fun s t => sideOutputs (go.foldl (fun s p =>
    wf (clri s t R.SAF_OUT_PAIR_FAULT p) t ⟨R.SAF_OUT, 8 * p + 7, 8 * p⟩ 0) s) t) s

/-- ACK_OUT (R375). -/
def execAckOut (tg : Target) (low : BitVec 2) (s : State) : Out := .next (agreedOnly tg s (fun s => safAckOut s low.toNat))

/-! Cross-checks. -/

/-- The items of a side's state vector that the 10 ms rule compares (R376): function states, channel levels, output
commands and SAF_PCRC. -/
def sideVector (s : State) (t : Twin) : List Nat :=
  (List.range 4).map (fnSt s t) ++ [(s.tw t).saf.sin, rf s t R.SAF_STATUS_P0_ON, rf s t R.SAF_STATUS_P1_ON,
    rf s t R.SAF_STATUS_STO, rf s t R.SAF_STATUS_SAB, (rd s t R.SAF_PCRC).toNat]

/-- CROSS_CHECK (R376): the twin compares the two sides' vectors; while the other twin is neither FOLLOWING nor LEADING
the check is unavailable. -/
def execCrossCheck (t : Twin) (s : State) : Out :=
  if twState s t = tsReset then .next s else
  let avail := twOther s t == tsFollowing || twOther s t == tsLeading
  let was := flag s t R.SAF_STATUS_XCHK_OFF
  let s1 := wf s t R.SAF_STATUS_XCHK_OFF (bit !avail)
  let s2 := if !avail && !was then ev s1 t R.SAF_EVENT_XCHK_OFF else s1
  let back := if avail && was then some (cycleNow s t) else (s.tw t).saf.offEnd
  .next (modSaf s2 t (fun x => { x with diff := avail && (sideVector s .a != sideVector s .b), offEnd := back }))

/-- SM_DIFF (R376): an item has differed for 10 ms, or SAF_PCRC differs while both sides are locked and the check is
available; the twin raises SM_DIFF in its own side. DEDUCED, unsafe: log entry 284. -/
def execSmDiff (t : Twin) (s : State) : Out :=
  let crc := lockedDiffer s && !(flag s t R.SAF_STATUS_XCHK_OFF)
  .next (if twState s t ≠ tsReset ∧ ((s.tw t).saf.diff ∨ crc) then ev (demand s t 4) t R.SAF_EVENT_SM_DIFF else s)

/-- XCHK_OFF stands, or has ended in this cycle (R384). DEDUCED, unsafe: log entry 285. -/
def uncheckedNow (s : State) (t : Twin) : Bool :=
  flag s t R.SAF_STATUS_XCHK_OFF || (s.tw t).saf.offEnd == some (cycleNow s t)

/-- SOLO (R376, R384): XCHK_OFF has stood for SOLO_T hours. -/
def execSolo (t : Twin) (s : State) : Out :=
  .next (if uncheckedNow s t ∧ rf s t R.SAF_GCFG_SOLO_T ≠ 0 ∧ twState s t ≠ tsReset then demand s t 7 else s)

/-- The safety parameters that a side holds, without LOCK itself (R380). -/
def sideParams (s : State) (t : Twin) : List (Nat × W32) :=
  let drv := (List.range 20).map (fun i => R.DRV_D_KT + 256 * (i / 10) + 4 * (i % 10))
  ([R.SAF_GCFG, R.SAF_OUTCFG, R.SAF_F_CFG, R.SAF_F_CFG + 4, R.SAF_F_CFG + 8, R.SAF_F_CFG + 12, R.TWN_EPOCH_BASE] ++ drv).map
    (fun a => (a, if a = R.SAF_GCFG then rd s t a &&& 0x7FFFFFFF#32 else rd s t a))

/-- SAF_PCRC of a side as computed (R377). DESIGN CHOICE, safe: log entry 121. -/
def pcrc (s : State) (t : Twin) : W32 := BitVec.ofNat 32 (crc32c (Config.paramBytes (sideParams s t)))

/-- PARAM_CHECK (R377): every 10 ms; a difference from the value recorded at lock raises PARAM. -/
def execParamCheck (t : Twin) (s : State) : Out :=
  let s1 := wr s t R.SAF_PCRC (pcrc s t)
  .next (if flag s t R.SAF_STATUS_LOCKED ∧ rd s1 t R.SAF_PCRC ≠ rd s t R.SAF_PCRC_LOCK then demand s1 t 5 else s1)

/-- OSC_CHECK (R377): the measured frequency in kHz; three consecutive readings outside 15.2 MHz to 16.8 MHz raise
OSC. -/
def execOscCheck (t : Twin) (khz : BitVec 16) (s : State) : Out :=
  if twState s t = tsReset then .next s else
  let bad := decide (khz.toNat < 15200) || decide (16800 < khz.toNat)
  let s1 := wf s t R.SAF_OSC_OSC khz.toNat
  let s2 := modSaf s1 t (fun x => { x with oscBad := if bad then x.oscBad + 1 else 0 })
  .next (if 3 ≤ (s2.tw t).saf.oscBad then demand s2 t 6 else s2)

/-- SAFETY_STATE_READ (R362, R369, R371): the twin reads its own side and hears of the other: safe torque off enters
every drive channel into OFF with reason 5 and blocks its pulses; safe array block sets BLOCK_ALL in the frames to come
and returns INSERTING cells to STANDBY (R73). -/
def execSafetyStateRead (t : Twin) (s : State) : Out :=
  if twState s t = tsReset then .next s else
  let heard := !((s.tw t).twn.linkFailed)
  let sab := flag s t R.SAF_STATUS_SAB || (heard && flag s t.other R.SAF_STATUS_SAB)
  let sto := flag s t R.SAF_STATUS_STO || (heard && flag s t.other R.SAF_STATUS_STO)
  let now := (s.tw t).tb.toNat
  let s1 := modArr s t (fun a => { a with safeBlock := sab, safeAt := if a.safeBlock then a.safeAt else some now })
  let s2 := if sab ∧ computing s t then dropInserting s1 t else s1
  let s3 := if sto then (channels s2 t).foldl (fun s d =>
      if chSt s t d = 0 ∧ rf s t (df R.DRV_D_STATE_REASON d) = 5 then s else
        let s := chEnter s t d 0 (some 5)
        if t = edgeTwin s then chanForces s t d else s) s2
    else s2
  .next s3

end Sys2Proof.Machine
end

