-- ==== Sys2Proof/Machine/Cycle.lean ====
section
/-! DEFINITION. The array cycle (R29 to R37, R46): cycle starts with their frames, the start of the array, the agreement
of RG0 and the completion of its run with dispatch. -/

namespace Sys2Proof.Machine

/-! Frames. -/

/-- The claim that a frame of the cycle starting now carries: as it stood 200 ns ago (R136). DEDUCED, unsafe: log
entry 272. -/
def frameClaim (s : State) (t : Twin) : W32 :=
  let x := (s.tw t).twn
  if (s.tw t).tb.toNat < x.claimAt + 200 then x.claimPrev else rd s t R.TWN_CLAIM

/-- The configuration record of cell `k` (R98) with its mapping entry. -/
def configRecord (s : State) (t : Twin) (k : Nat) (w : W32) : List Byte :=
  let c := mapChain w
  let board := Config.boardCell (boardImage s t) k
  beBytes 2 k ++ beBytes 1 c ++ beBytes 1 (mapCpos w) ++ beBytes 2 (rf s t R.ARR_TIMING_GUARD)
    ++ beBytes 1 (rf s t R.ARR_TIMING_CMDLOSS + 1) ++ beBytes 1 (rf s t (tf R.TRB_CFG_RATE c))
    ++ beBytes 4 (board 0).toNat ++ beBytes 4 (board 1).toNat
    ++ beBytes 4 (Config.cfgGen c).toNat ++ beBytes 4 (board 2).toNat
    ++ beBytes 4 (board 3).toNat ++ beBytes 4 (board 4).toNat

/-- The cells of chain `c` in the order of twin `t`'s ring. -/
def ringCells (s : State) (t : Twin) (c : Nat) : List (Nat × W32) :=
  let l := chainCells s t c
  (List.range l.length).filterMap (fun i => l.find? (fun e => ringPos t l.length e.2 == i))

/-- BLOCK_ALL (R371, R454): safe array block is in force and was registered before the frame's cut, 200 ns before its
start, or the device is in Safelight. -/
def blockAll (s : State) (t : Twin) : Bool :=
  (safeBlocked s t && (s.tw t).arr.safeAt.all (fun n => decide (n + 200 ≤ (s.tw t).tb.toNat))) || flag s t R.SYS_STATUS_SAFELIGHT

/-- Send one frame at cycle start `n` on ring `c` (R93, R94, R126). DEDUCED, unsafe: log entry 53. -/
def sendFrame (s : State) (t : Twin) (n c type flags : Nat) (downs : List (List Byte)) : State :=
  let seq := ((ringX s t c).seq + 1) % 65536
  let tn := cycleStartNs s t n
  let tx := ((tn * 16 + (tChar (rf s t (tf R.TRB_CFG_RATE c)) / 20480 : Nat)) % 1099511627776).toNat
  let apply := (cycleStartNs s t (n + 1) * 16 % 1099511627776).toNat
  let b := Frame.build ⟨type, c, t.bit, seq, (frameClaim s t).toNat, tx, rf s t R.ARR_CYCLE_LEN, flags, apply⟩ downs
  let s := modRingX s t c (fun r => { r with seq := seq, awaited := true })
  crossOut s t 2 (fun s => cnt (modArr s t (fun a => { a with sent := tabSet [] a.sent c b })) t (ta R.TRB_TX_FRAMES c))

/-- Whether every link pair of a chain has a result (R123 step 3). -/
def probed (s : State) (t : Twin) (c : Nat) : Bool :=
  (List.range (chainLen s t c + 1)).all (ringX s t c).pairs.contains

/-- The slot of a cell for which no dispatch has put one: BYPASS with the isolation-block flag. DEDUCED, unsafe: log
entry 240. -/
def idleSlot (s : State) (t : Twin) (k : Nat) : Slot :=
  ⟨[], isoWord s t (mapString (rd s t (R.ARR_MAP + 4 * k))) 0, modeWord 2 0 true false⟩

/-- The slot of a cell in the frame: as dispatched, or with HOLD without events (R33). -/
def frameSlot (s : State) (t : Twin) (hold : Bool) (k : Nat) : List Byte :=
  let a := (s.tw t).arr
  let x := if hold then { tabGet (idleSlot s t k) a.cur k with events := [] } else tabGet (idleSlot s t k) a.next k
  slotBytes x

/-- The frame of one ring at cycle start `n` (R29, R33, R46, R106, R123). -/
def ringFrame (t : Twin) (n : Nat) (hold : Bool) (s : State) (c : Nat) : State :=
  let cells := ringCells s t c
  let st := ringSt s t c
  let blk := bit (blockAll s t) * 64
  if cells.isEmpty then s
  else if (s.tw t).arr.phase = 2 ∧ (st = 4 ∨ st = 5) then
    let probe := (s.tw t).arr.probe.contains c
    let flags := bit hold * 128 + blk + bit probe * 32
    let s := modArr (if st = 4 then setRing s t c 5 else s) t (fun a => { a with probe := a.probe.filter (· != c) })
    sendFrame s t n c 1 flags (cells.map (fun e => frameSlot s t hold e.1))
  else if st = 3 ∨ st = 4 then
    let probe := !(probed s t c) || (s.tw t).arr.probe.contains c
    let s := modArr s t (fun a => { a with probe := a.probe.filter (· != c) })
    sendFrame s t n c 2 (blk + bit probe * 32) (cells.map (fun e => configRecord s t e.1 e.2))
  else s

/-! Cycle start. -/

/-- Whether the leading twin overran cycle `m`, so that the cells repeat their window (R33, R55). -/
def leaderHeld (s : State) (t : Twin) (m : Nat) : Bool :=
  match leader s with
  | some l => (s.tw l).arr.overN == some m
  | none => (s.tw t).arr.overN == some m

/-- The modulator states at a cycle start follow the window that the leading twin's frame sets (R55). -/
def followWindow (s : State) (t : Twin) (m : Nat) : State :=
  if leaderHeld s t m then modArr (repeatMods s t) t (fun a => { a with cand := [], edges := [] }) else commitMods s t

/-- Every slot that the cells now apply carries the isolation-block flag (R227). DEDUCED, unsafe: log entry 58. -/
def feedBlocked (s : State) (t : Twin) : Bool := (s.tw t).arr.cur.all (fun e => e.2.mode.getLsbD 23)

/-- The deadline of RG0's run of the cycle that ends (R173, R177, R237, R248): its copies develop, and its outputs are
written where it completed in time. -/
def rg0Deadline (s : State) (t : Twin) : State :=
  let s1 := developCopies s t 0
  if (s.tw t).arr.dispatched then runOutputs s1 t 0 else s1

/-- The array control moves to cycle `n`: the window, the uplinks and the position record of its start.
DEDUCED, unsafe: log entry 56. -/
def enterCycle (s : State) (t : Twin) (n : Nat) (hold : Bool) : State :=
  let o := (s.tw t).arr.n
  let s := s.setTw t { s.tw t with
    upOld := ((tabSet [] (s.tw t).upOld o (s.tw t).uplinks)).filter (fun e => decide (n ≤ e.1 + 4))
    uplinks := [] }
  let s := modPos s t (fun p => { p with starts := tabSet {} p.starts n (posRecord s t) })
  modArr s t (fun a => { a with
    n := n
    w0 := (n + 1) * cyc16 s t
    cur := if hold then a.cur else a.next
    next := []
    dispatched := false
    hold := false
    feedWins := if a.feedStop ∧ feedBlocked s t then a.feedWins + 1 else 0 })

/-- CYCLE_START (R29, R33, R37, R55, R136): at t_n the twin sends F(n) on its rings, with HOLD where its dispatch of the
last cycle is not complete or while it is JOINING. A cycle that does not follow the last one starts the runs anew.
DESIGN CHOICE, unsafe: log entry 55. -/
def cycleStart (s : State) (t : Twin) (n : Nat) : State :=
  let a := (s.tw t).arr
  let next := decide (n = a.n + 1)
  let s := if next then s else
    clri (modArr s t (fun a => { a with runN := n - 1, inRun := false, dispatched := false, hold := true })) t
      R.LAW_STATUS_RUNNING 0
  let hold := !((s.tw t).arr.dispatched) || twState s t == tsJoining
  let s := rg0Deadline (followWindow s t (n - 1)) t
  let s := (List.range 12).foldl (ringFrame t n hold) s
  scheduleSwitch (enterCycle s t n hold) t

/-- CYCLE_START (R29). -/
def execCycleStart (t : Twin) (n : W32) (s : State) : Out :=
  .next (if computing s t then cycleStart s t n.toNat else s)

/-- A cell's state when the array starts (R43, table "Cell states"). -/
def startState (s : State) (t : Twin) (w : W32) : Nat :=
  if mapRole w = 1 then csBlocked else if chainCold s t (mapChain w) then csCold else csStandby

/-- The chains that the start waits for, by the map of every twin that computes, have a READY ring (R123). -/
def ringsReady (s : State) : Bool :=
  [Twin.a, Twin.b].all (fun t => !(computing s t) || (liveChains s t).all (fun c =>
    (chainCells s t c).isEmpty || ringLive s .a c || ringLive s .b c))

/-- F(n0) starts the array in one twin (R46): frames run, cells take their first states and slots, ranks follow.
DEDUCED, unsafe: log entry 54. -/
def firstFrame (s : State) (t : Twin) : State :=
  let s := modArr (wf s t R.ARR_STATUS_RUNNING 1) t (fun a => { a with
    phase := 2, dispatched := true, hold := false, cand := [], edges := [], cur := [], next := [] })
  let s := (mapList s t).foldl (fun s e =>
    let s := modCellX (setCellSt s t e.1 (startState s t e.2)) t e.1
      (fun x => { x with mod := {}, miss := 0, dev := 0, bypAt := none, waits := false })
    if startState s t e.2 = csBlocked then stillSlot s t (mapString e.2) e.1 0 0 true false
    else if startState s t e.2 = csStandby then stillSlot s t (mapString e.2) e.1 2 0 true (cellX s t e.1).faultReset
    else s) s
  (List.range (stringsUsed s t)).foldl (fun s st => rerank s t st) s

/-- ARRAY_FIRST_FRAME (R46): the cycle start of `n0` is the first at least 1 ms after the rings report ready; the frames
themselves go out with that cycle's CYCLE_START. -/
def execArrayFirstFrame (n0 : W32) (s : State) : Out :=
  .next (if ringsReady s then
      onComputing (fun s t =>
        if (s.tw t).arr.phase = 1 then
          modArr (firstFrame s t) t (fun a => if a.n + 1 = n0.toNat then a
            else { a with n := n0.toNat - 1, runN := n0.toNat - 1, inRun := false })
        else s) s
    else s)

/-! Agreement and run of RG0. -/

/-- A twin's own inputs of the cycle are complete (R139): no frame of a READY or RUN ring is awaited. -/
def inputsComplete (s : State) (t : Twin) : Bool :=
  (List.range 12).all (fun c => !(ringLive s t c && (ringX s t c).awaited))

/-- A twin's input set of cycle `m` has ended, and its end-of-set marker has gone out (R139): a later cycle has begun, or no
frame of this one is awaited. -/
def setEnded (s : State) (o : Twin) (m : Nat) : Bool :=
  decide (m < (s.tw o).arr.n) || ((s.tw o).arr.n == m && inputsComplete s o)

/-- What a twin needs of the other before it agrees cycle `m` (R139, R159): the marker of its set while its inputs are
heard; a joining twin waits for the leader's agreed set. -/
def otherReady (s : State) (t : Twin) (m : Nat) : Bool :=
  if takesAgreed s t then decide (m ≤ (s.tw t.other).arr.runN) else !(hearsInputs s t) || setEnded s t.other m

/-- AGREEMENT_CLOSE (R139, R173, R286): with its own inputs and the other twin's marker held, the twin agrees the inputs of
the next cycle to run; RG0's run starts on the transition copies as they stand. `gpio` are the levels of GPIO0 to
GPIO11 at the capture. -/
def execAgreementClose (t : Twin) (gpio : BitVec 12) (s : State) : Out :=
  let a := (s.tw t).arr
  let m := a.runN + 1
  if !(computing s t) || a.inRun || !(setEnded s t m) || !(otherReady s t m) || !(sampled s t 0 (cycleStartNs s t m * 16)) then .next s
  else
    let tau := cycleStartNs s t m * 16
    let r := capture s t m true tau gpio.toNat
    let s := modArr s t (fun a => { a with runN := m, inRun := true })
    let s := modPos s t (fun p => { p with
      cap := tabSet {} p.cap 0 r, starts := p.starts.filter (fun e => decide (m ≤ e.1)) })
    .next (evi (agreeInputs (startTs (snapCopies s t 0) t 0) t 0 tau) t R.LAW_STATUS_RUNNING 0)

/-- Dispatch of cycle `m`, or what an overrunning run leaves of it (R30, R34, R55): its cell outputs are discarded; the
modulator states take them where the leading twin's own frame carried the same window. -/
def dispatchRun (s : State) (t : Twin) (m : Nat) : State :=
  if (s.tw t).arr.phase = 2 then dispatch s t m else s

/-- The end of dispatch (R33 to R35): in time, the count of consecutive overruns clears; late, the outputs go.
DEDUCED, unsafe: log entry 57. -/
def dispatchEnd (s : State) (t : Twin) (m : Nat) : State :=
  let a := (s.tw t).arr
  if a.n = m ∧ !a.hold then
    modTwn (modArr s t (fun a => { a with dispatched := true })) t (fun x => { x with overrunRun := 0, missRun := 0 })
  else
    let s := if leaderHeld s t m then s else commitMods s t
    modArr s t (fun a => { a with next := [], cand := [], edges := [] })

/-- RG0_RUN_COMPLETE (R30, R34, R142): the run's state updates take effect, dispatch proceeds, and the digest over
output nodes and slots goes to the other twin. `time` is the run's length in units of 10 ns. -/
def execRg0RunComplete (t : Twin) (time : BitVec 16) (s : State) : Out :=
  let a := (s.tw t).arr
  let m := a.runN
  if !a.inRun || !(computing s t) then .next s
  else
    let s := dispatchRun (runGroup s t 0) t m
    let s := formDigest (leaveCopies s t 0) t 0 m []
    let s := svRecord (gooseRun s t 0 (cycleStartNs s t m)) t 0 (cycleStartNs s t m * 16)
    let s := measured (modArr s t (fun a => { a with inRun := false })) t 0 time.toNat
    .next (dispatchEnd (clri s t R.LAW_STATUS_RUNNING 0) t m)

end Sys2Proof.Machine
end

