-- ==== Sys2Proof/Machine/Arch.lean ====
section
/-! DEFINITION. Meanings of 01_architecture: RC reads, the interlock release and pin switch, the inter-twin link and
the crossing cells. -/

namespace Sys2Proof.Machine

/-- RC_READ (R9): the word's value is returned, its RC fields clear with their overflow flag, and an increment that
meets the clear is applied to the cleared counter. An address outside the blocks is refused (R14). -/
def execRcRead (t : Twin) (addr : W32) (meets : Bool) (s : State) : Out :=
  match findRow addr.toNat with
  | none => .next (if inBlocks addr.toNat then { say s Rc.OK with readOut := [0#32] } else say s Rc.ADDR_INVALID)
  | some r =>
    let s := sampleLive s t addr.toNat 1
    let out := { say s Rc.OK with readOut := [readWord s t addr.toNat] }
    let cleared := rcClear out t addr.toNat
    .next (if meets && r.fields.any (fun f => f.acc == .rc) then cnt cleared t addr.toNat else cleared)

/-- SHARED_PIN_SWITCH (R149 step 3): the holder that is LEADING switches the shared pins to itself; every output starts
off and turns on at its next scheduled on-edge, while forces and trip states act from the first tick (R212). -/
def execSharedPinSwitch (t : Twin) (s : State) : Out :=
  .next (if s.ilk.holder = some t ∧ twState s t = tsLeading then
    (if s.ilk.pins = some t then s else takePins { s with ilk := { s.ilk with pins := some t } }) else s)

/-- INTERLOCK_RELEASE (R16, R152): the twin releases the interlock and the shared pins go high impedance; where its
side of the power-edge die lost supply or was reset, its request is gone too and a leader withdraws with cause 8. -/
def execInterlockRelease (t : Twin) (lost : Bool) (s : State) : Out :=
  let s1 := ilkRelease s t
  .next (if lost then (if twState s t = tsLeading then withdraw (setIlkReq s1 t false) t 8 else setIlkReq s1 t false)
    else s1)

/-- The 2 bits of a 1-of-4 group, or none for an invalid code (R20). -/
def group4 (g : BitVec 4) : Option Nat :=
  if g = 1#4 then some 0 else if g = 2#4 then some 1 else if g = 4#4 then some 2 else if g = 8#4 then some 3 else none

/-- The 64-bit word of 32 groups, group 0 the least significant; none if any group is invalid. -/
def groupsWord : List (BitVec 4) → Option Nat
  | [] => some 0
  | g :: r =>
    match group4 g, groupsWord r with
    | some v, some w => some (v + 4 * w)
    | _, _ => none

/-- LINK_WORD_RECEIVE (R20): a word with an invalid 1-of-4 code is discarded, counted and requested again.
DEDUCED, unsafe: log entry 22. -/
def execLinkWordReceive (t : Twin) (groups : List (BitVec 4)) (s : State) : Out :=
  .next (match groupsWord groups with
    | some w => modTwn s t (fun x => { x with linkIn := BitVec.ofNat 64 w })
    | none => modTwn s t (fun x => { x with linkErrors := min (x.linkErrors + 1) 4294967295, linkAgain := x.linkAgain + 1 }))

/-- A twin declares OTHER_LOST (R132): TWN_STATE.OTHER shows 7, HB_LOST is set and the loss is counted; where both twins
that run have lost each other SPLIT is set (R152). -/
def otherLost (s : State) (t : Twin) : State :=
  if twState s t = tsReset ∨ twOther s t = tsLost then s
  else
    let s := twnFlags (cnt (ev (wf s t R.TWN_STATE_OTHER tsLost) t R.TWN_EVENT_HB_LOST) t R.TWN_HB_MISS) t
    if bothLost s then onBoth (fun s u => twnFlags (ev s u R.TWN_EVENT_SPLIT) u) s else s

/-- LINK_HANDSHAKE_TIMEOUT (R20, R132, R152): the receiving twin declares the inter-twin link failed and the other
twin lost; with both twins alive SPLIT is set. -/
def execLinkHandshakeTimeout (t : Twin) (s : State) : Out :=
  if twState s t = tsReset then .next s else
  let alive := computing s t && computing s t.other
  let s := modTwn s t (fun x => { x with linkFailed := true })
  let s := if alive then ev s t R.TWN_EVENT_SPLIT else s
  .next (twnFlags (otherLost s t) t)

/-- CROSSING_TRANSFER (R24 to R28, R36): a transfer into a side in reset is dropped and counted and reads NOT_READY; one
out of the fabric into a domain that is gated, stopped, or clocked by the host alone waits, and asks a gated domain to
wake; otherwise the samples are judged. The delivered value is returned. -/
def execCrossingTransfer (t : Twin) (d : Fin 9) (into : Bool) (samples : List W32) (s : State) : Out :=
  let k := xingKey d into
  let x := xing s t k
  if x.dead then
    .next { xingLost s t d into with readOut := [x.last] }
  else if !into && domainWaits s t d then
    .next (setXing s t k { x with offered := x.offered ++ [samples] })
  else if (settle 4 samples).isNone && decide (samples.length < 5) then .next s
  else
    let s1 := accept t d into s samples
    .next { s1 with readOut := [(xing s1 t k).last] }

/-- DOMAIN_WAKE (R26): a gated CB or MP domain with a transfer waiting, which is its wake request, restarts its clock
and the waiting transfers complete. DESIGN CHOICE, unsafe: log entry 21. -/
def execDomainWake (t : Twin) (d : Fin 9) (s : State) : Out :=
  .next (if (s.tw t).pwr.gated.contains d.val && !(xing s t (xingKey d false)).offered.isEmpty then ungate s t d else s)

/-- One direction of a crossing when a side enters reset (R28): the transfers not yet accepted are dropped, and a reader
that is in reset, now or since an earlier reset of the other side, will come out with the reset value. -/
def xingDrop (s : State) (t : Twin) (d : Fin 9) (into fabric : Bool) : State :=
  let x := xing s t (xingKey d into)
  cntBy (setXing s t (xingKey d into)
      { x with offered := [], notReady := true, dead := true, rdrReset := x.rdrReset || into == fabric })
    t (R.CLK_XING_DROPPED_AT_RESET + 8 * d.val) x.offered.length

/-- CROSSING_SIDE_RESET (R28): the fabric's or the domain's side enters reset; pending transfers of both directions
are dropped and counted, and the crossing shows NOT_READY. -/
def execCrossingSideReset (t : Twin) (d : Fin 9) (fabric : Bool) (s : State) : Out :=
  .next (xingDrop (xingDrop s t d true fabric) t d false fabric)

/-- One direction of a crossing after the empty handshake (R28): transfers resume, and a reader that was in reset
holds the reset value until the first transfer. -/
def xingResume (s : State) (t : Twin) (d : Fin 9) (into : Bool) : State :=
  let x := xing s t (xingKey d into)
  if x.dead then
    setXing s t (xingKey d into)
      { x with dead := false, notReady := false, rdrReset := false, last := if x.rdrReset then 0#32 else x.last }
  else s

/-- CROSSING_REHANDSHAKE (R28): the sides exchange one empty handshake and transfers resume. -/
def execCrossingRehandshake (t : Twin) (d : Fin 9) (s : State) : Out :=
  .next (xingResume (xingResume s t d true) t d false)

end Sys2Proof.Machine
end

