-- ==== Sys2Proof/Machine/Twins.lean ====
section
/-! DEFINITION. Meanings of 04_twins: heartbeats and keep-alives, isolation, withdrawal and rejoin, hand-over and
rotation, background self-test. The grant of the interlock and the join are in Takeover.lean. -/

namespace Sys2Proof.Machine

/-- HEARTBEAT_SEND (R132): the word carries the twin's state, claim, fit bit, cycle number, cause and arbiter reach.
A twin in RESET sends none. A twin withdrawn with cause 10 has told of its withdrawal so and resets (R148, R160).
DEDUCED, unsafe: log entry 23. -/
def execHeartbeatSend (t : Twin) (s : State) : Out :=
  if twState s t = tsReset then .next s else
  let hb : Heartbeat := ⟨Fin.ofNat 8 (twState s t), rd s t R.TWN_CLAIM, rf s t R.TWN_STATE_PEND_CAUSE == 0,
    BitVec.ofNat 32 (cycleNow s t), Fin.ofNat 16 (rf s t R.TWN_STATE_CAUSE), flag s t R.TWN_STATE_ARB_REACH⟩
  let s1 := if twState s t = tsWithdrawn ∧ rf s t R.TWN_STATE_CAUSE = 10 then updateReset s t else s
  .next (modTwn s1 t (fun x => { x with hbOut := some hb }))

/-- What a twin keeps of a heartbeat: the other twin's state, claim, arbiter reach, fit bit, cycle and cause. -/
def hearHeartbeat (s : State) (t : Twin) (hb : Heartbeat) : State :=
  let s := wf (wr s t R.TWN_CLAIM_OTHER hb.claim) t R.TWN_STATE_OTHER hb.state.val
  let s := wf s t R.TWN_STATE_OTHER_ARB_REACH (bit hb.arbReach)
  let failed := (s.tw t).twn.linkFailed && twState s t == tsIsolated
  modTwn s t (fun x => { x with hbFit := hb.fit, hbCycle := hb.cycle, hbCause := hb.cause.val, linkFailed := failed })

/-- A rejoin starts: the full self-test asks for Sluice leave and runs once granted (R148). -/
def startRejoin (s : State) (t : Twin) (h : Bool) : State :=
  let s1 := leaveAsk (say s Rc.OK) 1 t h 0
  if s1.report = Rc.OK then
    modPwr (modTwn s1 t (fun x => { x with rejoining := true })) t (fun p => { p with fullTest := leaveHeld s1 1 t })
  else s1

/-- A twin whose boot is complete leaves BOOT where the other twin leads (R131): it joins, after an update only once the full
self-test has passed under Sluice leave (R148). -/
def bootJoin (s : State) (t : Twin) : State :=
  let s := setIlkReq s t false
  if rf s t R.SYS_STATUS_CAUSE = 5 ∧ !(s.tw t).twn.fullTested then startRejoin s t false else enterJoining s t

/-- HEARTBEAT_RECEIVE (R132, R144, R152): the other twin's state, claim and cause are taken; a withdrawal heard sets
WITHDRAWN; a leader that hears a LEADING twin with a higher claim has lost the arbiter and withdraws, cause 12; a twin
whose boot is complete hears that the other leads and joins (R131). -/
def execHeartbeatReceive (t : Twin) (hb : Heartbeat) (s : State) : Out :=
  if twState s t = tsReset then .next s else
  let old := twOther s t
  let s1 := hearHeartbeat s t hb
  let s2 := if hb.state.val = tsWithdrawn ∧ old ≠ tsWithdrawn then ev s1 t R.TWN_EVENT_WITHDRAWN else s1
  let s3 := twnFlags s2 t
  let booted := twState s t == tsBoot && (s.tw t).pwr.bootDone && !(s.tw t).twn.rejoining
  .next (if twState s t = tsLeading ∧ hb.state.val = tsLeading ∧ (rd s t R.TWN_CLAIM).toNat < hb.claim.toNat
    then withdraw s3 t 12
    else if booted ∧ hb.state.val = tsLeading then bootJoin s3 t
    else s3)

/-- OTHER_LOST (R132). -/
def execOtherLost (t : Twin) (s : State) : Out := .next (otherLost s t)

/-- Whether a twin wants the interlock: it leads, follows, is isolated, or has completed its boot. -/
def wantsInterlock (s : State) (t : Twin) : Bool :=
  let st := twState s t
  st == tsLeading || st == tsFollowing || st == tsIsolated || (st == tsBoot && (s.tw t).pwr.bootDone)

/-- The other twin holds the interlock, or would win it: it follows or is isolated and reaches the arbiter (R152). -/
def otherTakes (s : State) (t : Twin) : Bool :=
  s.ilk.holder == some t.other
    || ((twOther s t == tsFollowing || twOther s t == tsIsolated) && flag s t R.TWN_STATE_OTHER_ARB_REACH)

/-- KEEPALIVE_SEND (R133, R134, R152): a twin that holds or requests the interlock sends a keep-alive. From an
acknowledge it reads that it reaches the arbiter, whether it holds, and whether its hold lapsed. A leader so cleared
withdraws: with cause 8, or 12 where it had lost the arbiter; where no twin reached the arbiter it requests again, as
does a twin whose request has lapsed. DEDUCED, unsafe: log entry 251. -/
def execKeepaliveSend (t : Twin) (acked : Bool) (s : State) : Out :=
  if !(wantsInterlock s t) then .next s else
  let s1 := modTwn s t (fun x => { x with kaSent := x.kaSent + 1 })
  if !acked then .next s1 else
  let holds := s.ilk.holder == some t
  let s2 := wf (wf s1 t R.TWN_STATE_ARB_REACH 1) t R.TWN_STATE_HOLDS (bit holds)
  let s3 := twnFlags (setIlkLapsed s2 t false) t
  .next (if ilkLapsed s t ∧ twState s t = tsLeading ∧ flag s t R.TWN_STATE_ARB_REACH then withdraw s3 t 8
    else if ilkLapsed s t ∧ twState s t = tsLeading ∧ otherTakes s t then withdraw s3 t 12
    else if holds then s3 else setIlkReq s3 t true)

/-- KEEPALIVE_LAPSE (R133): the side section clears the twin's request or hold; a held interlock so cleared is a release
(R16), which the twin reads from its next acknowledge. DEDUCED, unsafe: log entry 24. -/
def execKeepaliveLapse (t : Twin) (s : State) : Out :=
  .next (if s.ilk.holder = some t then setIlkLapsed (ilkFree s t) t true else setIlkReq s t false)

/-- ARBITER_UNREACHABLE (R134, R152): ARB_REACH clears and ARB_UNREACHABLE is set. -/
def execArbiterUnreachable (t : Twin) (s : State) : Out :=
  if !(wantsInterlock s t) then .next s
  else .next (twnFlags (ev (wf s t R.TWN_STATE_ARB_REACH 0) t R.TWN_EVENT_ARB_UNREACHABLE) t)

/-- ISOLATE (R131): a follower that has lost the other twin and has no grant becomes ISOLATED. -/
def execIsolate (t : Twin) (s : State) : Out :=
  .next (if twState s t = tsFollowing ∧ twOther s t = tsLost ∧ s.ilk.holder ≠ some t then setTwState s t tsIsolated
    else s)

/-- ISOLATED_REJOIN (R131): with the link error-free and the other twin LEADING, the isolated twin becomes JOINING and
drops its request. The other twin's state is the one last heard (R132). -/
def execIsolatedRejoin (t : Twin) (s : State) : Out :=
  .next (if twState s t = tsIsolated ∧ twOther s t = tsLeading then
      let s1 := modTwn s t (fun x => { x with linkFailed := false, joinFailed := false })
      enterJoining (setIlkReq s1 t false) t
    else s)

/-- Record a twin's own and, where the results are exchanged, the other twin's fast self-test result (TWN_ST_RESULT). -/
def stResult (s : State) (t : Twin) (own : Bool) (other : Option Bool) (unit : Nat) : State :=
  let s := wf s t R.TWN_ST_RESULT_ST_UNIT (if own then 0 else unit)
  let s := match other with
    | some o => wf s t R.TWN_ST_RESULT_ST_OTHER (bit o)
    | none => s
  modTwn (wf s t R.TWN_ST_RESULT_ST_OWN (bit own)) t (fun x => { x with stScheduled := false })

/-- Twin `l` leads and the other follows, and each has so heard of the other (R132, R143). -/
def paired (s : State) (l : Twin) : Bool :=
  twState s l == tsLeading && twOther s l == tsFollowing && twState s l.other == tsFollowing && twOther s l.other == tsLeading

/-- The decision table of R143 for a leader and a follower that both ran the fast self-test. -/
def stDecide (s : State) (l : Twin) (lp fp : Bool) : State :=
  match lp, fp with
  | true, false => withdraw s l.other 2
  | false, true => withdraw s l 2
  | true, true => withdraw (onBoth (fun s t => ev s t R.TWN_EVENT_DISAGREE_UNRESOLVED) s) l.other 3
  | false, false => withdrawNow (safeStop (withdraw s l.other 2) l) l 2

/-- A twin whose roles have changed acts on its own result alone (R143). -/
def stAlone (s : State) (t : Twin) (pass ran : Bool) : State := if ran && !pass then withdraw s t 2 else s

/-- FAST_SELFTEST_COMPLETE (R143): the results of the twins that ran the test are exchanged and the decision table
applied; where the roles have changed, each twin acts on its own result. DEDUCED, unsafe: log entry 26. -/
def execFastSelftestComplete (passA passB : Bool) (unitA unitB : BitVec 16) (s : State) : Out :=
  let ranA := s.a.twn.stScheduled
  let ranB := s.b.twn.stScheduled
  let told := ranA && ranB && (paired s .a || paired s .b)
  let s1 := if ranA then stResult s .a passA (if told then some passB else none) unitA.toNat else s
  let s2 := if ranB then stResult s1 .b passB (if told then some passA else none) unitB.toNat else s1
  .next (if told && paired s .a then stDecide s2 .a passA passB
    else if told then stDecide s2 .b passB passA
    else stAlone (stAlone s2 .a passA ranA) .b passB ranB)

/-- WITHDRAW (R144): cause 1 arises in the addressed twin. -/
def execWithdraw (t : Twin) (s : State) : Out := .next (withdraw (say s Rc.OK) t 1)

/-- Whether a condition of a withdrawal cause still holds (R148): the TB PLL out of lock, a rail outside its window,
the die above 128 °C. -/
def causeHolds (s : State) (t : Twin) (cause : Nat) : Bool :=
  match cause with
  | 5 => !(biti s t R.CLK_STATUS_LOCK 0)
  | 6 => !(biti s t R.PWR_STATUS_GOOD 1) || !(biti s t R.PWR_STATUS_GOOD (6 + t.index))
  | 7 => decide ((BitVec.ofNat 16 (rf s t R.PWR_MEAS_TDIE)).toInt > 1280)
  | _ => false

/-- REJOIN (R148): refused with NOT_WITHDRAWN or NOT_FIT; otherwise the full self-test starts under Sluice leave. -/
def execRejoin (t : Twin) (s : State) : Out :=
  if twState s t ≠ tsWithdrawn then .next (say s Rc.NOT_WITHDRAWN)
  else if causeHolds s t (rf s t R.TWN_STATE_CAUSE) then .next (say s Rc.NOT_FIT)
  else .next (startRejoin s t true)

/-- The automatic rejoins of the last 24 h. DESIGN CHOICE, unsafe: log entry 27. -/
def recentAuto (s : State) (t : Twin) : List Nat :=
  (s.tw t).twn.autoAt.filter (fun x => decide ((s.tw t).tb.toNat < x + 86400000000000))

/-- AUTO_REJOIN (R148): with AUTO_REJOIN set, a twin withdrawn with cause 3, 4, 7, 8 or 12 rejoins once the cause has
cleared, at most three times in 24 h. -/
def execAutoRejoin (t : Twin) (s : State) : Out :=
  let c := rf s t R.TWN_STATE_CAUSE
  let ok := twState s t == tsWithdrawn && flag s t R.TWN_CFG_AUTO_REJOIN && [3, 4, 7, 8, 12].contains c
    && !(causeHolds s t c) && !(s.tw t).twn.rejoining && decide ((recentAuto s t).length < 3)
  .next (if ok then startRejoin (modTwn s t (fun x => { x with autoAt := (s.tw t).tb.toNat :: recentAuto s t })) t false
    else s)

/-- FULL_SELFTEST_COMPLETE (R148): the leave returns; on pass the twin enters JOINING with every law engine back in
the schedule and no converter failed (R296); a booted twin does so where the other leads (R131). On failure it stays
WITHDRAWN; a twin that booted its update withdraws with cause 2. -/
def execFullSelftestComplete (t : Twin) (pass : Bool) (s : State) : Out :=
  let st := twState s t
  if !((s.tw t).twn.rejoining && (s.tw t).pwr.fullTest && (st == tsWithdrawn || st == tsBoot)) then .next s else
  let s1 := modPwr (leaveEnd s 1 t) t (fun p => { p with fullTest := false })
  let s2 := modTwn s1 t (fun x => { x with
    rejoining := false, joinFailed := false, fullTested := pass, testedSince := x.testedSince || pass })
  let s3 := wf (wf s2 t R.ADC_STATUS_FAILED 0) t R.ADC_STATUS_REMAPPED 0
  let s4 := s3.setTw t { s3.tw t with arr := { (s3.tw t).arr with engBad := [], engFailed := false } }
  let s5 := wf (wf s4 t R.LAW_STATUS_ENGINES 8) t R.LAW_STATUS_SCHED 8
  .next (if pass then (if st = tsBoot ∧ twOther s t ≠ tsLeading then s5 else enterJoining s5 t)
    else if st = tsBoot then withdraw s2 t 2 else s2)

/-- DIE_OVERTEMP (R144): the die sensor above 128 °C is withdrawal cause 7. -/
def execDieOvertemp (t : Twin) (tdie : BitVec 16) (s : State) : Out :=
  let s1 := wf s t R.PWR_MEAS_TDIE tdie.toNat
  .next (if tdie.toInt > 1280 then withdraw s1 t 7 else s1)

/-- Whether the leader has a reason to hand over: a rotation or an orderly cause held in PEND_CAUSE. -/
def handoverDue (s : State) (l : Twin) : Bool := (s.tw l).twn.rotating || rf s l R.TWN_STATE_PEND_CAUSE != 0

/-- The hand-over can take place: the other twin is FOLLOWING with its request pending, and both reach the arbiter (R155). -/
def handoverFit (s : State) (l : Twin) : Bool :=
  twOther s l == tsFollowing && twState s l.other == tsFollowing && ilkReq s l.other
    && flag s l R.TWN_STATE_ARB_REACH && flag s l.other R.TWN_STATE_ARB_REACH

/-- An attempt of the leader's controllers is on a bus. -/
def onBus (s : State) (l : Twin) : Bool := [0, 1].any (fun b => (tabGet {} (s.tw l).can b).active.isSome)

/-- Every attempt on a bus has ended by the TB tick `th`, so that a hand-over there falls inside no frame (R155, R351). -/
def attemptsOver (s : State) (l : Twin) (th : Nat) : Bool :=
  [0, 1].all (fun b => (tabGet {} (s.tw l).can b).active.isNone || decide ((tabGet {} (s.tw l).can b).ends ≤ th))

/-- HANDOVER_NAME (R155): the leader names a TB tick of its own at least 100 µs ahead; after a postponement, or an abandoned
rotation, not before a minute has passed, and after another abandonment not before the hand-over can take place; no CAN attempt on a bus
lasts until then. -/
def execHandoverName (th : W64) (s : State) : Out :=
  match leader s with
  | none => .next s
  | some l =>
    .next (if handoverDue s l ∧ handoverFit s l ∧ (s.tw l).twn.handAfter ≤ (s.tw l).tb.toNat
        ∧ (s.tw l).tb.toNat + 100000 ≤ th.toNat ∧ attemptsOver s l th.toNat
      then modTwn s l (fun x => { x with handover := some th.toNat }) else s)

/-- Before its first claim a twin writes E_res = boot base + 4 096 (R137). -/
def saveEpoch (s : State) (t : Twin) : State :=
  let e := (s.tw t).twn.bootBase + 4096
  if (s.tw t).flash.epochRes < e then
    modFlash (wr s t R.TWN_EPOCH_RES (BitVec.ofNat 32 e)) t (fun f => { f with epochRes := e })
  else s

/-- A twin takes a new epoch, one more than the greatest of its own, the one last heard, TWN_EPOCH_BASE and the boot
base; at or above both reserves EPOCH_UNSAVED is set (R135, R137). -/
def takeEpoch (s : State) (t : Twin) : State :=
  let own := (rd s t R.TWN_CLAIM).toNat / 2
  let heard := (rd s t R.TWN_CLAIM_OTHER).toNat / 2
  let e := max (max own heard) (max (rf s t R.TWN_EPOCH_BASE_BASE) (s.tw t).twn.bootBase) + 1
  let s0 := modTwn s t (fun x => { x with claimPrev := rd s t R.TWN_CLAIM, claimAt := (s.tw t).tb.toNat })
  let s1 := wr s0 t R.TWN_CLAIM (BitVec.ofNat 32 (2 * e + t.bit))
  if max s.a.flash.epochRes s.b.flash.epochRes ≤ e then ev s1 t R.TWN_EVENT_EPOCH_UNSAVED
  else s1

/-- The leader writes E_res + 4 096 to both flashes (R137); where the two reserves differ the E_res meant is the
leader's own, DESIGN CHOICE, unsafe: log entry 137. -/
def writeReserve (s : State) (t : Twin) : State :=
  let e := (rd s t R.TWN_EPOCH_RES).toNat + 4096
  onBoth (fun s u => modFlash (wr s u R.TWN_EPOCH_RES (BitVec.ofNat 32 e)) u (fun f => { f with epochRes := e })) s

/-- When an epoch in use comes within 1 024 of E_res the leader asks for leave for boot-flash programming; the write
follows the grant (R137). Argument 1 of a flash leave names this write. -/
def reserveCheck (s : State) (t : Twin) : State :=
  if (rd s t R.TWN_EPOCH_RES).toNat ≤ (rd s t R.TWN_CLAIM).toNat / 2 + 1024 then
    let s1 := leaveAsk s 5 t false 1
    if leaveHeldFor s1 5 t 1 then leaveEndFor (writeReserve s1 t) 5 t 1 else s1
  else s

/-- HANDOVER (R155): at t_h the arbiter passes the hold to the follower in one step. A host-serial reply in progress
makes the leader abandon this t_h and name a new one, as does a CAN attempt still on a bus (R351); a follower no longer FOLLOWING with its request pending, or an
unreachable arbiter, abandons the hand-over. An orderly cause held is then acted on (R146), a rotation counted. -/
def execHandover (replyBusy : Bool) (s : State) : Out :=
  match leader s with
  | none => .next s
  | some l =>
    if (s.tw l).twn.handover = none then .next s
    else if replyBusy || onBus s l then .next (modTwn s l (fun x => { x with handover := none }))
    else if handoverFit s l ∧ s.ilk.holder = some l then
      let rot := (s.tw l).twn.rotating
      let cause := rf s l R.TWN_STATE_PEND_CAUSE
      let s1 := setIlkReq (setIlkReq s l.other false) l true
      let s2 := setPins { s1 with ilk := { s1.ilk with holder := some l.other } } (some l.other)
      let s3 := wf (wf s2 l R.TWN_STATE_HOLDS 0) l.other R.TWN_STATE_HOLDS 1
      let s4 := modTwn s3 l (fun x => { x with handover := none, rotating := false })
      let s5 := takeEpoch (saveEpoch s4 l.other) l.other
      let s6 := wf (wf s5 l R.TWN_STATE_OTHER tsLeading) l.other R.TWN_STATE_OTHER tsFollowing
      let s7 := setTwState (setTwState s6 l tsFollowing) l.other tsLeading
      let s8 := if rot then
          onBoth (fun s t => modTwn (ev (cnt s t R.TWN_ROTATIONS) t R.TWN_EVENT_ROTATED) t (fun x => { x with bgPass := 0 })) s7
        else s7
      let s9 := reserveCheck s8 l.other
      .next (if cause ≠ 0 then withdraw s9 l cause else s9)
    else
      let again := fun (x : TwnSt) => if x.rotating then (s.tw l).tb.toNat + 60000000000 else x.handAfter
      .next (modTwn s l (fun x => { x with handover := none, rotating := false, handAfter := again x }))

/-- HANDOVER_POSTPONE (R155): no suitable instant within 10 ms; the hand-over is postponed by a minute and counted. -/
def execHandoverPostpone (s : State) : Out :=
  match leader s with
  | none => .next s
  | some l =>
    .next (if handoverDue s l then
        let again := (s.tw l).tb.toNat + 60000000000
        cnt (modTwn s l (fun x => { x with handover := none, handAfter := again })) l R.TWN_ROT_POSTPONED
      else s)

/-- The conditions of a rotation (R157): the follower is FOLLOWING, no mismatch in the last 1 s, and the follower's
background self-test has completed a full pass since the last rotation. -/
def rotationFit (s : State) (l : Twin) : Bool :=
  let quiet := match (s.tw l).twn.mismatchAt with
    | some m => decide (m + 1000000000 ≤ (s.tw l).tb.toNat)
    | none => true
  twOther s l == tsFollowing && quiet && (s.tw l.other).twn.bgPass == 63

/-- ROTATION_DUE (R157): ROT_HOURS, or the minute retry, has elapsed on the leader; ROT_HOURS = 0 disables rotation
and sets ROT_OFF. -/
def execRotationDue (t : Twin) (s : State) : Out :=
  if rf s t R.TWN_CFG_ROT_HOURS = 0 then .next (wf s t R.HLT_SUMMARY_ROT_OFF 1)
  else
    let s1 := wf s t R.HLT_SUMMARY_ROT_OFF 0
    .next (if twState s t = tsLeading ∧ rotationFit s t then modTwn s1 t (fun x => { x with rotating := true }) else s1)

/-- ROTATE_NOW (R157): a rotation is requested at once, refused with NOT_FIT while its conditions do not hold. -/
def execRotateNow (t : Twin) (s : State) : Out :=
  if twState s t = tsLeading ∧ rotationFit s t then
    .next (modTwn (say s Rc.OK) t (fun x => { x with rotating := true }))
  else .next (say s Rc.NOT_FIT)

/-- The coverage field of HLT_COVER of a self-test item (R158): 0 SRAM, 1 engines, 2 converters, 4 output logic. -/
def coverField (item : Nat) : Option Fld :=
  match item with
  | 0 => some R.HLT_COVER_SRAM
  | 1 => some R.HLT_COVER_ENGINES
  | 2 => some R.HLT_COVER_CONVERTERS
  | 4 => some R.HLT_COVER_OUTPUT_LOGIC
  | _ => none

/-- Whether a twin has a self-test item to run now: a leading twin tests no engine and no output logic (R158), and a
follower suspends slices on its output logic from 100 µs before a hand-over named (R155). -/
def sliceRuns (s : State) (t : Twin) (item : Nat) : Bool :=
  let near := match (s.tw t.other).twn.handover with
    | some th => decide (th ≤ (s.tw t.other).tb.toNat + 100000)
    | none => false
  inPair s t && !(twState s t == tsLeading && (item == 1 || item == 4)) && !(item == 4 && near)

/-- BACKGROUND_SELFTEST_SLICE (R158): corrected errors are counted, those of memory in ECC_CORR; the coverage of a completed
pass is kept for the Contact sheet, and an error that cannot be corrected is cause 2.
DESIGN CHOICE, unsafe: log entry 37. -/
def execBackgroundSelftestSlice (t : Twin) (item : Fin 6) (corrected : W32) (uncorrectable passDone : Bool)
    (coverage : Fin 101) (s : State) : Out :=
  if !(sliceRuns s t item.val) then .next s else
  let s1 := if item.val = 0 then cntBy s t R.HLT_ECC_CORR corrected.toNat else s
  let s2 := if passDone then
      modTwn s1 t (fun x => { x with
        bgPass := x.bgPass ||| 2 ^ item.val
        cover := tabPut true x.cover item.val coverage.val })
    else s1
  .next (if uncorrectable then withdraw (if item.val = 0 then cnt s2 t R.HLT_ECC_UNCORR else s2) t 2 else s2)

/-- JOIN_TIMEOUT (R159): a join not complete within 10 s stops and sets JOIN_FAIL. DEDUCED, unsafe: log entry 28. -/
def execJoinTimeout (t : Twin) (s : State) : Out :=
  .next (if twState s t = tsJoining ∧ !(s.tw t).twn.joinFailed then
      modTwn (ev s t R.TWN_EVENT_JOIN_FAIL) t (fun x => { x with joinFailed := true }) else s)

/-- JOIN_RETRY (R159): one minute after a failed join it is retried. -/
def execJoinRetry (t : Twin) (s : State) : Out :=
  .next (if twState s t = tsJoining then modTwn s t (fun x => { x with joinFailed := false }) else s)

/-- SOAK_END (R160 step 5): the updated follower has run SOAK seconds; the leader, not yet updated, is to hand over and
withdraw with cause 10. -/
def execSoakEnd (t : Twin) (s : State) : Out :=
  .next (if twState s t = tsFollowing ∧ (s.tw t).twn.updated ∧ twState s t.other = tsLeading ∧ !(s.tw t.other).twn.updated
    then withdraw s t.other 10 else s)

/-- UNCORRECTABLE_ECC (R144): an uncorrectable ECC error is counted and is withdrawal cause 11.
DESIGN CHOICE, unsafe: log entry 25. -/
def execUncorrectableEcc (t : Twin) (_region : Fin 4) (s : State) : Out :=
  if twState s t = tsReset then .next s else .next (withdraw (cnt s t R.HLT_ECC_UNCORR) t 11)

end Sys2Proof.Machine
end

