-- ==== Sys2Proof/Machine/Health.lean ====
section
/-! DEFINITION. The Contact sheet (R162, R163, R165). What a twin measures of its lanes, rails and converters comes with
the command. -/

namespace Sys2Proof.Machine

/-- A cell's estimate over its first estimate, 1.0 before one (R165). -/
def estRatio (s : State) (t : Twin) (k a : Nat) (first : W32) : W32 :=
  if flag s t (fo R.CELL_EST_VALID (256 * k)) then F32.div (cw s t a k) first else F32.one

/-- A threshold in per cent as a ratio. -/
def pctRatio (s : State) (t : Twin) (f : Fld) : W32 := F32.div (F32.ofInt (rf s t f)) 0x42C80000#32

/-- The grade of a cell (R163): the highest of damage, capacitance, series resistance and bypass. -/
def cellGrade (s : State) (t : Twin) (k : Nat) : Nat :=
  let d := damage s t k * 10
  let unit := 281474976710656
  let dmg := if 8 * unit ≤ d then 3 else if 6 * unit ≤ d then 2 else if 4 * unit ≤ d then 1 else 0
  let cap := estRatio s t k R.CELL_CAP (cellX s t k).cap0
  let esr := estRatio s t k R.CELL_ESR (cellX s t k).esr0
  let gc := if F32.lt cap (pctRatio s t R.HLT_THR_CAP_REPL) then 3
    else if F32.lt cap (pctRatio s t R.HLT_THR_CAP_WATCH) then 1 else 0
  let ge := if F32.lt (pctRatio s t R.HLT_THR_ESR_REPL) esr then 3
    else if F32.lt (pctRatio s t R.HLT_THR_ESR_WATCH) esr then 1 else 0
  let cause := rf s t (fo R.CELL_STATE_CAUSE (256 * k))
  let gb := if cellSt s t k = csBypassed ∧ [2, 3, 6].contains cause then 3 else 0
  max (max dmg gc) (max ge gb)

/-- One cell record (R165); a grade rising to 2 or above sets HLT_EVENT (R162). -/
def cellRecord (t : Twin) (s : State) (k : Nat) : State :=
  let h := 16 * k
  let g := cellGrade s t k
  let old := rf s t (fo R.HLT_CELL_GRADE_GRADE h)
  let s := wr s t (R.HLT_CELL_CAP_REL + h) (estRatio s t k R.CELL_CAP (cellX s t k).cap0)
  let s := wr s t (R.HLT_CELL_ESR_REL + h) (estRatio s t k R.CELL_ESR (cellX s t k).esr0)
  let s := wr s t (R.HLT_CELL_DMG_HI + h) (cw s t R.CELL_DAMAGE_HI k)
  let s := wf (wf s t (fo R.HLT_CELL_GRADE_STATE h) (cellSt s t k)) t (fo R.HLT_CELL_GRADE_GRADE h) g
  if 2 ≤ g ∧ old < 2 then ev s t R.HLT_EVENT_GRADE_RISE else s

/-- The lane with the smallest vertical eye margin. -/
def worstLane : List (Nat × W32) → Option (Nat × Nat)
  | [] => none
  | p :: r =>
    let v := bits p.2 15 0
    match worstLane r with
    | some q => if q.2 < v then some q else some (p.1, v)
    | none => some (p.1, v)

/-- The lane record and the eye registers of the rings (R165). -/
def laneRecord (s : State) (t : Twin) (m : HealthMeas) : State :=
  let s := m.lanes.foldl (fun s p => if p.1 < 12 then wr s t (R.TRB_EYE + 4096 * p.1) p.2 else s) s
  match worstLane m.lanes with
  | some (l, v) => wf (wf (wf s t R.HLT_LANE_WORST_LANE l) t R.HLT_LANE_EYE_MIN v) t R.HLT_LANE_BER_EXP m.berExp.toNat
  | none => wf s t R.HLT_LANE_BER_EXP m.berExp.toNat

/-- The gate-drive record (R165): faults of the last off-state diagnostic, and lock-outs since the last snapshot. -/
def gdRecord (s : State) (t : Twin) : State :=
  let res := rd s t R.GD_DIAG_RES
  let bad := (List.range 16).foldl (fun m g => if bits res (2 * g + 1) (2 * g) = 0 then m else m + 2 ^ g) 0
  let s := wf (wf s t R.HLT_GD_GD_FAULT bad) t R.HLT_GD_GD_UVLO (s.tw t).twn.uvlo
  modTwn s t (fun x => { x with uvlo := 0 })

/-- HLT_ADC_DRIFTq (R165, R295): the offset drift is that of the REFGND check from its value at the last COMMIT, and the gain
drift, in ppm, that of the span from REFGND to REFMID, each once its checks' values are held, and before that as measured.
DEDUCED, unsafe: log entry 266. -/
def driftWord (s : State) (t : Twin) (q : Nat) (m : W32) : W32 :=
  let c := conv s t q
  let v := fun (l : Tab Nat) (i : Nat) => ((tabGet 0 l i : Nat) : Int)
  let held := fun (i : Nat) => tabGet 0 c.chkLast i != 0 && tabGet 0 c.chkRef i != 0
  let span := fun (l : Tab Nat) => v l 0 - v l 1
  let off := if held 1 then (v c.chkLast 1 - v c.chkRef 1) % 65536 else bits m 31 16
  let gain := if held 0 && held 1 && span c.chkRef != 0 then (span c.chkLast - span c.chkRef) * 1000000 / span c.chkRef % 65536
    else bits m 15 0
  BitVec.ofInt 32 (off * 65536 + gain)

/-- One consistent snapshot of a twin's Contact sheet (R162). DESIGN CHOICE, unsafe: log entry 38. -/
def contactSheet (s : State) (t : Twin) (m : HealthMeas) : State :=
  let s := (s.tw t).twn.cover.foldl (fun s e =>
    match coverField e.1 with
    | some f => wf s t f e.2
    | none => s) s
  let now := devNs s t
  let s := modTwn (gdRecord (laneRecord s t m) t) t (fun x => { x with snapAt := now })
  let s := wf (wf s t R.HLT_REG_VCORE_MARGIN m.vcore.toNat) t R.HLT_REG_VIO_MARGIN m.vio.toNat
  let s := wr s t R.HLT_SLACK (BitVec.ofInt 32 (BitVec.ofNat 16 (rf s t R.PWR_SLACK_SLACK)).toInt)
  let s := (m.drift.zip (List.range 4)).foldl (fun s p => wr s t (R.HLT_ADC_DRIFT + 4 * p.2) (driftWord s t p.2 p.1)) s
  let ks := List.range 192
  let s := ks.foldl (cellRecord t) s
  let gs := ks.map (fun k => rf s t (fo R.HLT_CELL_GRADE_GRADE (16 * k)))
  let s := wf s t R.HLT_SUMMARY_GRADE (gs.foldl max 0)
  let s := wf s t R.HLT_SUMMARY_NCELL_G2 (gs.filter (fun g => decide (2 ≤ g))).length
  wf s t R.HLT_SUMMARY_ROT_OFF (bit (rf s t R.TWN_CFG_ROT_HOURS == 0))

/-- CONTACT_SHEET_REFRESH (R162): every HLT_CTRL.PERIOD seconds. -/
def execContactSheetRefresh (t : Twin) (m : HealthMeas) (s : State) : Out :=
  .next (if twState s t = tsReset then s else contactSheet s t m)

/-- SNAP (R162): HLT_CTRL.SNAP. -/
def execSnap (t : Twin) (m : HealthMeas) (s : State) : Out :=
  .next (if twState s t = tsReset then s else contactSheet (say s Rc.OK) t m)

end Sys2Proof.Machine
end

