-- ==== Sys2Proof/Machine/SafParam.lean ====
section
/-! DEFINITION. The safety parameters of 11_safety: the two-step write, its confirm and timeout, the lock, and the load
from the board image. -/

namespace Sys2Proof.Machine

/-- The twins a write develops in (R407, R412): the one addressed, or the leading twin with the other while it is
JOINING or FOLLOWING. DEDUCED, unsafe: log entry 185. -/
def writeTwins (s : State) : Target → List Twin
  | .one t => [t]
  | .both => [Twin.a, Twin.b].filter (fun t => inPair s t || twState s t == tsJoining)

/-- A twin that takes no change (R412). -/
def absent (s : State) (t : Twin) : Bool := twState s t == tsReset || twState s t == tsWithdrawn || twState s t == tsIsolated

/-- The context that owns command group `g` (R401): 0 ARRAY, 1 DRIVE, 2 NET, 3 TRACE, 4 SAFETY; none where 0b111. -/
def groupOwner (s : State) (g : Nat) : Option Nat :=
  let v := rf s (asker s) ⟨R.HST_OWNER, 3 * g + 2, 3 * g⟩
  if v = 7 then none else some v

/-- Whether every field of a word lies in its stated range (R484). -/
def rangeOk (r : RegRow) (v : W32) : Bool :=
  r.fields.all (fun f => decide (f.mn ≤ bits v f.hi f.lo) && decide (bits v f.hi f.lo ≤ f.mx))

/-- Whether a word's RWL fields would change (R483). -/
def rwlChange (r : RegRow) (old v : W32) : Bool :=
  r.fields.any (fun f => f.acc == .rwl && bits old f.hi f.lo != bits v f.hi f.lo)

/-- The fields of a safety-parameter word that take the written value. -/
def paramWord (r : RegRow) (old v : W32) : W32 :=
  r.fields.foldl (fun w f => if f.acc == .rwl then putBits w f.hi f.lo (bits v f.hi f.lo) else w) old

/-- The judgement of a safety parameter in one twin (R138, R380, R381): LOCKED, or PARAM_ORDER for its range, for a
lower TWN_EPOCH_BASE and for a function of type 1 RESTART with emergency stop (R364). -/
def paramCode (s : State) (t : Twin) (a : Nat) (v : W32) : Nat :=
  match findRow a with
  | none => Rc.ADDR_INVALID
  | some r =>
    if flag s t R.SAF_STATUS_LOCKED && rwlChange r (rd s t a) v then Rc.LOCKED
    else if !(rangeOk r v) then Rc.PARAM_ORDER
    else if a = R.TWN_EPOCH_BASE ∧ bits v 30 0 < rf s t R.TWN_EPOCH_BASE_BASE then Rc.PARAM_ORDER
    else if R.SAF_F_CFG ≤ a ∧ a < R.SAF_F_CFG + 16 ∧ nbit v.toNat 29 ∧ !(nbit v.toNat 30) then Rc.PARAM_ORDER
    else Rc.OK

/-- The first refusal among twins. -/
def twinsCode (l : List Twin) (f : Twin → Nat) : Nat := (l.map f).find? (· != Rc.OK) |>.getD Rc.OK

/-- The confirm code of R380: the CRC-16 over address, value and nonce, most significant byte first. -/
def confirmCode (a v nonce : Nat) : Nat := crc16 (beBytes 4 a ++ beBytes 4 v ++ beBytes 2 nonce)

/-- Show or clear the pending write in SAF_PEND and SAF_STATUS.PENDING (R380, R386). -/
def showPend (s : State) (t : Twin) : State :=
  let p := (s.tw t).saf.pend
  let a := (p.map (·.addr)).getD 0
  let v := (p.map (·.value)).getD 0#32
  let n := (p.map (·.nonce)).getD 0#16
  let code := if p.isSome then confirmCode a v.toNat n.toNat else 0
  let s := wf s t R.SAF_STATUS_PENDING (bit p.isSome)
  let s := wr (wr s t R.SAF_PEND_ADDR (BitVec.ofNat 32 a)) t R.SAF_PEND_VAL v
  wf (wf s t R.SAF_PEND_CODE_NONCE n.toNat) t R.SAF_PEND_CODE_CODE code

/-- Hold or drop a twin's pending write. -/
def setPend (s : State) (t : Twin) (p : Option SafPend) : State := showPend (modSaf s t (fun x => { x with pend := p })) t

/-- Step 1 of R380: the value is held with a new nonce, a free value, in place of any held before, and the write
reports CONFIRM_NEEDED.
DESIGN CHOICE, safe: log entry 128. DEDUCED, unsafe: log entry 283. -/
def paramWrite (s : State) (tg : Target) (h a : Nat) (v : W32) : State :=
  let ts := writeTwins s tg
  let code := twinsCode ts (fun t => if absent s t then Rc.TWIN_ABSENT else paramCode s t a v)
  if !(safetyParam a) then say s Rc.ADDR_INVALID
  else if groupOwner s 4 ≠ some h then say s Rc.NOT_OWNER
  else if ts = [] then say s Rc.TWIN_ABSENT
  else if code ≠ Rc.OK then say s code
  else
    let n := (Config.freeWord s.free).setWidth 16
    let p : SafPend := ⟨ts.contains .a, ts.contains .b, h, a, v, n⟩
    say (onBoth (fun s t => if ts.contains t then setPend s t (some p) else setPend s t none) (freeTick s)) Rc.CONFIRM_NEEDED

/-- SAFETY_PARAM_WRITE (R380). -/
def execSafetyParamWrite (tg : Target) (h : Fin 4) (addr v : W32) (s : State) : Out :=
  .next (paramWrite s tg h.val addr.toNat v)

/-- A side locks (R381): the reference CRC is recorded. DEDUCED, unsafe: log entry 126. -/
def lockSide (s : State) (t : Twin) : State :=
  let s := wf (wf s t R.SAF_GCFG_LOCK 1) t R.SAF_STATUS_LOCKED 1
  sideOutputs (wr (wr s t R.SAF_PCRC (pcrc s t)) t R.SAF_PCRC_LOCK (pcrc s t)) t

/-- A side whose board image carries the lock flag locks once both sides hold parameters and their SAF_PCRC agree (R383). -/
def autoLock (s : State) : State :=
  let ready := s.a.saf.loaded && s.b.saf.loaded && pcrc s .a == pcrc s .b
  if ready then onBoth (fun s u => if (s.tw u).saf.lockFlag && unlocked s u then lockSide s u else s) s else s

/-- A confirmed value develops in the twins it was addressed to; LOCK = 1 is refused with PARAM_MISMATCH unless both
sides' CRCs are equal, and then locks both sides (R381). DEDUCED, unsafe: log entry 127. -/
def paramDevelop (s : State) (p : SafPend) : State :=
  let ts := (if p.a then [Twin.a] else []) ++ (if p.b then [Twin.b] else [])
  let code := twinsCode ts (fun t => if absent s t then Rc.TWIN_ABSENT else paramCode s t p.addr p.value)
  let locks := decide (p.addr = R.SAF_GCFG) && p.value.getLsbD 31
  let v := if p.addr = R.SAF_GCFG then p.value &&& 0x7FFFFFFF#32 else p.value
  let put := fun (s : State) (t : Twin) =>
    let keep := if p.addr = R.SAF_GCFG then rd s t p.addr &&& 0x80000000#32 else 0#32
    match findRow p.addr with
    | some r => wr s t p.addr (paramWord r (rd s t p.addr) (v ||| keep))
    | none => s
  let s1 := ts.foldl (fun s t => let s := put s t; sideOutputs (wr s t R.SAF_PCRC (pcrc s t)) t) s
  if code ≠ Rc.OK then say s code
  else if locks then
    if pcrc s1 .a ≠ pcrc s1 .b then say s Rc.PARAM_MISMATCH
    else say (onBoth (fun s t => if unlocked s t then lockSide s t else s) s1) Rc.OK
  else say (autoLock s1) Rc.OK

/-- The write that context `h` may confirm. -/
def pendOf (s : State) (h : Nat) : Option SafPend :=
  match s.a.saf.pend, s.b.saf.pend with
  | some p, some q => if p.ctx = h then some p else if q.ctx = h then some q else none
  | some p, none => if p.ctx = h then some p else none
  | none, some q => if q.ctx = h then some q else none
  | none, none => none

/-- Drop a pending write wherever it is held. -/
def dropPend (s : State) (p : SafPend) : State :=
  onBoth (fun s t => if (s.tw t).saf.pend = some p then setPend s t none else s) s

/-- Step 2 of R380: the confirm from the context of the write develops it; a wrong code discards it. -/
def safetyConfirm (s : State) (h code : Nat) : State :=
  match pendOf s h with
  | none => say s Rc.NOTHING_PENDING
  | some p =>
    let held := [Twin.a, Twin.b].filter (fun t => (s.tw t).saf.pend == some p)
    let s1 := dropPend s p
    if code ≠ confirmCode p.addr p.value.toNat p.nonce.toNat then
      say (held.foldl (fun s t => ev s t R.SAF_EVENT_CONF_MISMATCH) s1) Rc.CONFIRM_MISMATCH
    else paramDevelop s1 p

/-- SAFETY_CONFIRM (R380). -/
def execSafetyConfirm (h : Fin 4) (code : BitVec 16) (s : State) : Out := .next (safetyConfirm s h.val code.toNat)

/-- CONF_TIMEOUT (R380): a pending write has not been confirmed for 10 s. -/
def execConfTimeout (t : Twin) (s : State) : Out :=
  .next (match (s.tw t).saf.pend with
    | none => s
    | some p =>
      let held := [Twin.a, Twin.b].filter (fun u => (s.tw u).saf.pend == some p)
      held.foldl (fun s u => ev s u R.SAF_EVENT_CONF_TIMEOUT) (dropPend s p))

/-- The board image that a twin boots with (R451, R452): the slot that the boot in progress takes, none where no slot holds a
valid image, or the slot it has loaded. -/
def paramImage (s : State) (t : Twin) : List Byte :=
  if twState s t = tsBoot ∧ !(s.tw t).pwr.bootDone then ((bootSlot s t 2).map (slotImage s t 2)).getD []
  else boardImage s t

/-- SAFETY_PARAM_LOAD (R383): after a full reset, the side of a booting twin loads its safety parameters from that
twin's board image; a side whose image carries the lock flag locks once both sides hold parameters and their CRCs
agree. -/
def execSafetyParamLoad (t : Twin) (s : State) : Out :=
  if twState s t = tsReset ∨ (s.tw t).saf.loaded then .next s else
  let l := (Config.boardOf (paramImage s t)).filter (fun e => safetyParam e.1)
  let s1 := l.foldl (fun s e => match findRow e.1 with
    | some r => wr s t e.1 (paramWord r (rd s t e.1) (if e.1 = R.SAF_GCFG then e.2 &&& 0x7FFFFFFF#32 else e.2))
    | none => s) s
  let lock := l.any (fun e => e.1 == R.SAF_GCFG && e.2.getLsbD 31)
  let s2 := modSaf (wr s1 t R.SAF_PCRC (pcrc s1 t)) t (fun x => { x with loaded := true, lockFlag := lock })
  .next (autoLock s2)

end Sys2Proof.Machine
end

