-- ==== Sys2Proof/Machine/Safelight.lean ====
section
/-! DEFINITION. Safelight: its entry, its refusals and its end (R454, R455). -/

namespace Sys2Proof.Machine

/-- Whether Safelight is refused (R454): the array runs, a channel is in CATCH, RUN, RAMPDOWN or ASC, or a discharge is
in progress. -/
def safelightRefused (s : State) : Bool :=
  let t := asker s
  flag s t R.ARR_STATUS_RUNNING
    || (flag s t R.ARR_CTRL_ENABLE && (s.tw t).arr.enAt == some (cycleNow s t))
    || [0, 1].any (fun d => [2, 3, 4, 6].contains (chSt s t d))
    || discharging s t

/-- SYS_CTRL.SAFELIGHT and SYS_STATUS.SAFELIGHT of the twins out of RESET. -/
def showSafelight (s : State) (v : Bool) : State :=
  onLive (fun s t => wf (wf s t R.SYS_CTRL_SAFELIGHT (bit v)) t R.SYS_STATUS_SAFELIGHT (bit v)) s

/-- Safelight begins (R454): every PWM and gate-drive output goes off, and the gate-power bridge stops. -/
def safelightEnter (s : State) : State :=
  if safelight s then say s Rc.OK
  else if safelightRefused s then say s Rc.SAFELIGHT_REFUSED
  else bridgeStop (settleAll (showSafelight (say s Rc.OK) true))

/-- Safelight ends (R437, R455): outputs follow their modulation from their next on-edge, the core supply is adaptive
again, and the bridge needs RUN anew. -/
def safelightExit (s : State) : State :=
  if !(safelight s) then say s Rc.OK
  else
    let s := showSafelight (say s Rc.OK) false
    waitAll (onBoth (fun s t => wf s t R.PWR_VCORE_MODE 0) s)

/-- SAFELIGHT_ENTER (R454). -/
def execSafelightEnter (s : State) : Out := .next (safelightEnter s)

/-- SAFELIGHT_EXIT (R455). -/
def execSafelightExit (s : State) : Out := .next (safelightExit s)

end Sys2Proof.Machine
end

