-- ==== Sys2Proof/Machine/Time.lean ====
section
/-! DEFINITION. Meanings of the time rows of 09_network_time: device time and its rate (R320 to R322), PTP (R323 to
R330), PPS (R331, R332). -/

namespace Sys2Proof.Machine

/-- Change one twin's clock-servo state. -/
def modTm (s : State) (t : Twin) (f : TimeSt → TimeSt) : State := s.setTw t { s.tw t with tm := f (s.tw t).tm }

/-- Change the servo state that the computing twins hold alike (R321, R325). DEDUCED, unsafe: log entry 162. -/
def modTms (s : State) (f : TimeSt → TimeSt) : State := onComputing (fun s t => modTm s t f) s

/-- One nanosecond and one second in units of 2^-16 ns. -/
def nsU : Int := 65536
def secU : Int := 65536000000000

/-- Nothing scheduled in device time runs (R322): the array is not enabled, no PWM pair and no gate-drive generator
runs, and no enabled sequence is triggered by its converter's timer. -/
def timeIdle (s : State) : Bool :=
  let t := netTwin s
  !(flag s t R.ARR_CTRL_ENABLE)
    && (List.range 8).all (fun p => !(running s p) && !(gen s p).run)
    && [Twin.a, Twin.b].all (fun t => (List.range 4).all (fun q =>
        let en := flag s t (fo R.ADC_C_CTRL_EN (512 * q))
        !(en && (rf s t (fo R.ADC_C_RCFG_SRC (512 * q)) == 1
          || (flag s t (fo R.ADC_C_CTRL_INJ_EN (512 * q)) && rf s t (fo R.ADC_C_ICFG_SRC (512 * q)) == 1)))))

/-- RATE_CHANGE (R320): the rate word that the servo has formed takes effect; the last 16 are kept for R326. -/
def execRateChange (t : Twin) (s : State) : Out :=
  .next (match (s.tw t).tm.next with
    | none => s
    | some r => modTm (setRate s t r) t (fun m => { m with next := none, rates := (r :: m.rates).take 16 }))

/-- A step of device time by `e` in the computing twins. -/
def stepBy (s : State) (e : Int) : State :=
  onComputing (fun s t => ev (s.setTw t { s.tw t with ofs := (s.tw t).ofs + e }) t R.TIME_EVENT_STEPPED) s

/-- A signed value in a 32-bit register, saturating. -/
def sat32 (v : Int) : W32 := BitVec.ofInt 32 (if v < -2147483648 then -2147483648 else if 2147483647 < v then 2147483647 else v)

/-- TWIN_TIME_ALIGN (R321): the twin that does not lead, from BOOT to FOLLOWING, aligns to the leading twin; the
difference found is shown and at most 150 ps (nine units) remain. Its servo holds what the leading twin's holds.
DESIGN CHOICE, unsafe: log entry 165. -/
def execTwinTimeAlign (resid : Fin 19) (s : State) : Out :=
  .next (match leader s with
    | none => s
    | some l =>
      let o := l.other
      if twState s o < tsBoot ∨ tsFollowing < twState s o then s else
      let d := devTime s o - devTime s l
      let s := wr s o R.TIME_TWIN_DIFF (sat32 (d * 1000 / nsU))
      let s := setRate s o (rd s l R.TIME_RATE)
      let d := devTime s o - devTime s l
      let s := s.setTw o { s.tw o with ofs := (s.tw o).ofs - d + ((resid.val : Int) - 9) }
      let m := (s.tw l).tm
      let s := modTm s o (fun x => { m with pdelay := x.pdelay, next := none })
      [R.TIME_STATUS, R.TIME_GM_ID_LO, R.TIME_GM_ID_HI, R.TIME_UTC].foldl (fun s a => wr s o a (rd s l a)) s)

/-- TWIN_ALIGN (R321): the twins' device times have differed by more than 1 ns for 10 ms. -/
def execTwinAlign (t : Twin) (diff : W32) (s : State) : Out :=
  .next (
    let s := wr s t R.TIME_TWIN_DIFF diff
    if 1000 < diff.toInt.natAbs then ev s t R.TIME_EVENT_TWIN_ALIGN else s)

/-- The step target of TIME_SET in units of 2^-16 ns. -/
def setTarget (s : State) (t : Twin) : Int :=
  (((rd s t R.TIME_SET_SEC_LO).toNat + rf s t R.TIME_SET_SEC_HI_SET_SEC_HI * 4294967296 : Nat) : Int) * secU
    + ((rd s t R.TIME_SET_NS).toNat : Int) * nsU

/-- TIME_CTRL.STEP by the host (R322). DEDUCED, unsafe: log entry 166. -/
def timeStep (s : State) : State :=
  if timeIdle s then
    onComputing (fun s t => ev (s.setTw t { s.tw t with
      ofs := (s.tw t).ofs + (setTarget s t - devTime s t) }) t R.TIME_EVENT_STEPPED) s
  else say s Rc.TIME_ACTIVE

/-- STEP (R322). -/
def execStep (tg : Target) (s : State) : Out := .next (agreedOnly tg s timeStep)

/-- TIME_SNAP.SNAP (R337): device time and the TB counter are captured together. -/
def timeSnap (s : State) (t : Twin) : State :=
  let d := devTime s t
  let sec := d / secU
  let s := wr s t R.TIME_SEC_LO (BitVec.ofInt 32 sec)
  let s := wf s t R.TIME_SEC_HI_SEC_HI (sec / 4294967296 % 65536).toNat
  let s := wr s t R.TIME_NS (BitVec.ofInt 32 (d % secU / nsU))
  let s := wf s t R.TIME_FRAC_FRAC (d % nsU).toNat
  let tb := (s.tw t).tb.toNat
  wr (wr s t R.TIME_CNT_LO (BitVec.ofNat 32 tb)) t R.TIME_CNT_HI (BitVec.ofNat 32 (tb / 4294967296))

/-- TIME_SNAP (R337). -/
def execTimeSnap (t : Twin) (s : State) : Out := .next (timeSnap (say s Rc.OK) t)

/-! The servo. -/

def clkUnset : Nat := 0
def clkAcquiring : Nat := 1
def clkSlewing : Nat := 2
def clkLocked : Nat := 3
def clkHoldover : Nat := 4
def clkFreerun : Nat := 5

/-- The announced clockClass (R327). -/
def clockClass (src st : Nat) : Nat := if src = 1 ∧ st = clkLocked then 6 else if src = 1 ∧ st = clkHoldover then 7 else 248

/-- The state of device time. -/
def clkState (s : State) : Nat := rf s (netTwin s) R.TIME_STATUS_STATE

/-- Put device time into a state. DEDUCED, unsafe: log entry 164. -/
def setClk (s : State) (st : Nat) : State :=
  onComputing (fun s t => wf (wf s t R.TIME_STATUS_STATE st) t R.TIME_STATUS_CLASS (clockClass (rf s t R.TIME_CFG_SRC) st)) s

/-- An event of device time in the computing twins. -/
def clkEvent (s : State) (f : Fld) : State := onComputing (fun s t => ev s t f) s

/-- The rate word for a measured offset (R324) and the new frequency estimate, in binary32 with T_s = 1 s.
DEDUCED, unsafe: log entry 163. -/
def servoRate (s : State) (t : Twin) (rf0 : W32) (e : Int) : W32 × W32 :=
  let es := F32.ofRatio e 65536000000000
  let slew := F32.ofRatio (rf s t R.TIME_SLEW_SLEW : Nat) 1000000
  let f := F32.add rf0 (F32.mul (rd s t R.TIME_KI) es)
  let r := F32.add f (F32.clamp (F32.mul (rd s t R.TIME_KP) es) (F32.neg slew) slew)
  (f, sat32 (F32.toIntScaled r 40))

/-- The servo on a measured offset `e` (R324); `whole` is the offset with its seconds, by which a step goes. A step
that R322 forbids becomes a slew and sets STEP_BLOCKED. -/
def servo (s : State) (t : Twin) (e whole : Int) : State :=
  let st := clkState s
  let thr := rf s t R.TIME_HOLD_LIM_STEP_THR * 65536000
  let lock := rf s t R.TIME_SLEW_LOCK_THR * 65536
  let s := onComputing (fun s t => wr s t R.TIME_OFFSET (sat32 (e.tdiv nsU))) s
  let wants := decide (st ≠ clkSlewing ∧ st ≠ clkLocked) && decide (thr ≤ whole.natAbs) && flag s t R.TIME_CFG_STEP_EN
  if wants && timeIdle s then
    setClk (modTms (stepBy s whole) (fun m => { m with good := 0 })) clkAcquiring
  else
    let s := if wants then clkEvent s R.TIME_EVENT_STEP_BLOCKED else s
    let (f, r) := servoRate s t (s.tw t).tm.rf e
    let good := if e.natAbs ≤ lock then (s.tw t).tm.good + 1 else 0
    let s := modTms s (fun m => { m with rf := f, next := some r, good := good })
    if 4 ≤ good then
      if st = clkLocked then s else clkEvent (setClk s clkLocked) R.TIME_EVENT_LOCKED
    else if thr ≤ e.natAbs ∨ st = clkHoldover ∨ st = clkFreerun ∨ (st = clkLocked ∧ 4 * lock < e.natAbs) then
      setClk s clkSlewing
    else s

/-- Device time enters HOLDOVER (R326): r holds the mean of its last 16 values. -/
def holdover (s : State) : State :=
  let st := clkState s
  if st = clkUnset ∨ st = clkHoldover ∨ st = clkFreerun then s
  else
    let s := modTms s (fun m =>
      { m with next := if m.rates.isEmpty then m.next
          else some (BitVec.ofInt 32 (rneDiv ((m.rates.map BitVec.toInt).foldl (· + ·) 0) m.rates.length)), good := 0, wait := none })
    clkEvent (setClk s clkHoldover) R.TIME_EVENT_LOST

/-! Masters. -/

/-- The clockIdentity: the MAC address with 0xFFFE after its third byte (R323). -/
def clockId (s : State) : W64 :=
  let m := (macAddr s).toNat
  BitVec.ofNat 64 (m / 16777216 * 1099511627776 + 0xFFFE * 16777216 + m % 16777216)

/-- The first differing pair decides. -/
def lexLess : List Nat → List Nat → Bool
  | a :: x, b :: y => if a = b then lexLess x y else decide (a < b)
  | _, _ => false

/-- Whether dataset `a` is better than `b` (IEEE 1588): priority1, class, accuracy, variance, priority2 and identity
where the grandmasters differ; else the steps removed, the sender and its port. -/
def better (a b : Announce) : Bool :=
  if a.gm = b.gm then lexLess [a.steps.toNat, a.sender.toNat, a.port.toNat] [b.steps.toNat, b.sender.toNat, b.port.toNat]
  else lexLess [a.p1.toNat, a.cls.toNat, a.acc.toNat, a.var.toNat, a.p2.toNat, a.gm.toNat]
    [b.p1.toNat, b.cls.toNat, b.acc.toNat, b.var.toNat, b.p2.toNat, b.gm.toNat]

/-- The PTP port number of port `p` (R323): 2 where it serves LAN B, otherwise 1. -/
def ptpPort (s : State) (p : Nat) : Nat := if lanPort s 1 = some p then 2 else 1

/-- What the SK192 announces as grandmaster on port `p` (R327). PRESUMED, unsafe: log entry 169. -/
def ownAnnounce (s : State) (p : Nat) : Announce :=
  let t := netTwin s
  { domain := BitVec.ofNat 8 (rf s t R.TIME_CFG_DOMAIN), p1 := BitVec.ofNat 8 (rf s t R.TIME_CFG_PRIO1)
    cls := BitVec.ofNat 8 (rf s t R.TIME_STATUS_CLASS), acc := 0xFE, var := 0xFFFF
    p2 := BitVec.ofNat 8 (rf s t R.TIME_CFG_PRIO2), gm := clockId s, steps := 0, sender := clockId s, port := BitVec.ofNat 16 (ptpPort s p)
    utc := BitVec.ofNat 16 (rf s t R.TIME_UTC_UTC), utcValid := flag s t R.TIME_UTC_UTC_VALID
    leap59 := flag s t R.TIME_UTC_LEAP59, leap61 := flag s t R.TIME_UTC_LEAP61 }

/-- The best foreign master of a LAN's port. -/
def foreign (s : State) (lan : Nat) : Foreign := tabGet none (s.tw (netTwin s)).tm.masters lan

/-- The LAN whose port holds the better master; with the same grandmaster on both, LAN A (R325). -/
def bestLan (s : State) : Option (Nat × Announce) :=
  match foreign s 0, foreign s 1 with
  | some a, some b => if a.gm = b.gm ∨ better a b then some (0, a) else some (1, b)
  | some a, none => some (0, a)
  | none, some b => some (1, b)
  | none, none => none

/-- The mean link delay of the port that serves a LAN, in 2^-16 ns. -/
def lanDelay (s : State) (lan : Nat) : Int :=
  match lanPort s lan with
  | some p => (tabGet {} (s.tw (portTwin p)).tm.pdelay p).delay
  | none => 0

/-- The grandmaster identity shown; a new one sets GM_CHANGE (R325). -/
def showGm (s : State) (id : W64) : State :=
  onComputing (fun s t =>
    let hi := BitVec.ofNat 32 (id.toNat / 4294967296)
    let lo := BitVec.ofNat 32 id.toNat
    if rd s t R.TIME_GM_ID_HI = hi ∧ rd s t R.TIME_GM_ID_LO = lo then s
    else ev (wr (wr s t R.TIME_GM_ID_HI hi) t R.TIME_GM_ID_LO lo) t R.TIME_EVENT_GM_CHANGE) s

/-- TIME_UTC from the selected master's Announce (R330). -/
def showUtc (s : State) (m : Announce) : State :=
  onComputing (fun s t =>
    let old := rf s t R.TIME_UTC_UTC
    let s := if m.utcValid then wf s t R.TIME_UTC_UTC m.utc.toNat else s
    let s := wf (wf (wf s t R.TIME_UTC_UTC_VALID (bit m.utcValid)) t R.TIME_UTC_LEAP59 (bit m.leap59)) t R.TIME_UTC_LEAP61
      (bit m.leap61)
    if m.utcValid ∧ m.utc.toNat ≠ old then ev s t R.TIME_EVENT_LEAP else s) s

/-- The best master clock algorithm of the profile (R325, R327); `timeout`: the announce receipt timeout has passed.
DEDUCED, unsafe: log entry 168. -/
def selectMaster (s : State) (timeout : Bool) : State :=
  let role := rf s (netTwin s) R.TIME_CFG_ROLE
  let master (s : State) (v : Bool) : State := onComputing (fun s t => wf s t R.TIME_STATUS_MASTER (bit v)) s
  if role = 2 then master (modTms s (fun m => { m with sel := none, masters := [], wait := none })) false
  else match bestLan s with
    | none =>
      let s := modTms s (fun m => { m with sel := none, wait := none })
      if role = 1 ∧ timeout then showGm (master s true) (clockId s) else if role = 1 then s else master s false
    | some (lan, m) =>
      if role = 1 ∧ better (ownAnnounce s ((lanPort s lan).getD (ownPort lan))) m then
        showGm (master (modTms s (fun m => { m with sel := none, wait := none })) true) (clockId s)
      else
        let s := modTms s (fun x => { x with sel := some lan, wait := if x.sel = some lan then x.wait else none })
        let s := onComputing (fun s t =>
          wr (wf (wf s t R.TIME_STATUS_LAN lan) t R.TIME_STATUS_MASTER 0) t R.TIME_PDELAY (sat32 (lanDelay s lan / nsU))) s
        showUtc (showGm s m.gm) m

/-- Whether a PTP message is of the domain TIME_CFG.DOMAIN (R323). -/
def inDomain (s : State) (d : Byte) : Bool := decide (rf s (netTwin s) R.TIME_CFG_DOMAIN = d.toNat)

/-- A PTP message that port `p` sends, with its domain and port number (R323). -/
def ptpFrame (s : State) (p : Nat) (f : OutFrame) : OutFrame :=
  { f with domain := rf s (netTwin s) R.TIME_CFG_DOMAIN, port := ptpPort s p }

/-- Whether PTP messages of a LAN are taken: the network and PTP on, a port serving the LAN, the domain right (R323). -/
def ptpTakes (s : State) (lan : Nat) (domain : Byte) : Bool :=
  netOn s && (lanPort s lan).isSome && decide (rf s (netTwin s) R.TIME_CFG_ROLE ≠ 2)
    && inDomain s domain

/-- PTP_ANNOUNCE_RECEIVE (R325, R330). -/
def execPtpAnnounceReceive (lan : Fin 2) (m : Announce) (s : State) : Out :=
  .next (
    let lan := lan.val
    if !(ptpTakes s lan m.domain) ∨ m.sender = clockId s then s
    else lanIn s lan (fun s =>
      let s := cnt s (lanTwin s lan) R.TIME_ANN_RX
      let keep := match foreign s lan with
        | none => true
        | some b => b.sender == m.sender || better m b
      let s := if keep then modTms s (fun x => { x with masters := tabSet none x.masters lan (some m) }) else s
      selectMaster s false))

/-- The servo takes a complete Sync (R324): e is master minus device time at the receive stamp. -/
def takeSync (s : State) (lan : Nat) (t : Twin) (master stamp : Int) : State :=
  if rf s t R.TIME_CFG_SRC = 0 then
    let e := master + lanDelay s lan - stamp
    servo s t e e
  else s

/-- Whether a message comes from the selected master on the selected port (R325, R335). -/
def fromSelected (s : State) (lan : Nat) (m : PtpMsg) : Bool :=
  decide ((s.tw (netTwin s)).tm.sel = some lan) && (foreign s lan).any (fun a => a.sender == m.sender)

/-- PTP_SYNC_RECEIVE (R324): taken only from the selected master; a two-step Sync awaits its Follow_Up. -/
def execPtpSyncReceive (lan : Fin 2) (m : PtpMsg) (s : State) : Out :=
  .next (
    let lan := lan.val
    lanIn s lan (fun s =>
    if ptpTakes s lan m.domain && fromSelected s lan m then
      let t := lanTwin s lan
      let s := cnt s t R.TIME_SYNC_RX
      if m.twoStep then modTms (cnt s t R.TIME_TWO_STEP_RX) (fun x => { x with wait := some m })
      else takeSync s lan t (m.origin + m.corr) m.stamp
    else s))

/-! Peer delay. -/

/-- Change port `p`'s peer-delay exchange. -/
def modPd (s : State) (p : Nat) (f : PdelaySt → PdelaySt) : State :=
  modTm s (portTwin p) (fun m => { m with pdelay := tabMod {} m.pdelay p f })

/-- A new mean link delay of port `p` (R323), shown where the port serves the selected LAN.
DEDUCED, unsafe: log entry 170. -/
def newDelay (s : State) (p : Nat) (d : Int) : State :=
  let s := modPd s p (fun x => { x with sent := none, wait := none, delay := d })
  match (s.tw (netTwin s)).tm.sel with
  | some lan => if lanPort s lan = some p then onComputing (fun s t => wr s t R.TIME_PDELAY (sat32 (d / nsU))) s else s
  | none => s

/-- FOLLOW_UP_RECEIVE (R323): a Follow_Up completes the Sync it belongs to; a Pdelay_Resp_Follow_Up completes the link
delay ((t4 − t1) − (t3 − t2) − corrections) ÷ 2. -/
def execFollowUpReceive (pdelay : Bool) (p : Fin 4) (m : PtpMsg) (s : State) : Out :=
  .next (
    let p := p.val
    crossIn s (portTwin p) 4 (fun s =>
    if pdelay then
      match (tabGet {} (s.tw (portTwin p)).tm.pdelay p).wait with
      | some (q, v) => if q = m.seq.toNat ∧ inDomain s m.domain then newDelay s p ((v - m.origin - m.corr) / 2) else s
      | none => s
    else
      let lan := if lanPort s 0 = some p then 0 else 1
      match (s.tw (netTwin s)).tm.wait with
      | some w =>
        if lanPort s lan = some p ∧ ptpTakes s lan m.domain ∧ fromSelected s lan m ∧ w.seq = m.seq then
          takeSync (modTms s (fun x => { x with wait := none })) lan (lanTwin s lan) (m.origin + w.corr + m.corr) w.stamp
        else s
      | none => s))

/-- PDELAY_REQ_SEND (R323): a port that serves a LAN sends Pdelay_Req and keeps its send time. -/
def execPdelayReqSend (p : Fin 4) (s : State) : Out :=
  .next (
    let p := p.val
    if !(serving s p) ∨ rf s (netTwin s) R.TIME_CFG_ROLE = 2 ∨ !(inPair s (portTwin p)) then s
    else
      let q := (tabGet {} (s.tw (portTwin p)).tm.pdelay p).next
      let now := devTime s (portTwin p)
      let s := modPd s p (fun x => { x with next := (q + 1) % 65536, sent := some (q, now), wait := none })
      transmit s (ptpFrame s p { kind := .pdelayReq, words := [BitVec.ofNat 32 q] }) p)

/-- PDELAY_REQ_RECEIVE (R329): answered in one step, with a requestReceiptTimestamp of 0 and the turnaround t3 − t2 in
the correction field. DESIGN CHOICE, unsafe: log entry 152. -/
def execPdelayReqReceive (p : Fin 4) (req : PdelayReq) (turn : Nat) (s : State) : Out :=
  .next (
    if serving s p.val ∧ rf s (netTwin s) R.TIME_CFG_ROLE ≠ 2 ∧ inDomain s req.domain then
      crossIn s (portTwin p.val) 4 (fun s => transmit s (ptpFrame s p.val
        { kind := .pdelayResp, words := [BitVec.ofNat 32 req.seq.toNat, 0#32], corr := turn }) p.val)
    else s)

/-- PDELAY_RESP_RECEIVE (R323): one-step gives ((t4 − t1) − correction) ÷ 2; two-step awaits its Follow_Up. -/
def execPdelayRespReceive (p : Fin 4) (m : PtpMsg) (s : State) : Out :=
  .next (
    let p := p.val
    crossIn s (portTwin p) 4 (fun s => match (tabGet {} (s.tw (portTwin p)).tm.pdelay p).sent with
    | some (q, t1) =>
      if q ≠ m.seq.toNat ∨ !(inDomain s m.domain) then s
      else if m.twoStep then
        modPd s p (fun x => { x with sent := none, wait := some (q, m.stamp - t1 + m.origin - m.corr) })
      else newDelay s p ((m.stamp - t1 - m.corr) / 2)
    | none => s))

/-- PDELAY_TIMEOUT (R329): no response for 3 intervals; the last delay is kept. -/
def execPdelayTimeout (p : Fin 4) (s : State) : Out :=
  let x := tabGet {} (s.tw (portTwin p.val)).tm.pdelay p.val
  .next (if x.sent.isNone ∧ x.wait.isNone then s else cnt (modPd s p.val (fun x => { x with sent := none, wait := none })) (portTwin p.val) R.TIME_PDELAY_TO)

/-- PTP_HOLDOVER (R326): no Sync from the selected master for 3 s, or the announce receipt timeout of a LAN; with
another master heard, that one is selected. -/
def execPtpHoldover (announce : Bool) (lan : Fin 2) (s : State) : Out :=
  .next (
    if announce then
      let s := selectMaster (modTms s (fun x => { x with masters := tabSet none x.masters lan.val none })) true
      if (bestLan s).isNone ∧ rf s (netTwin s) R.TIME_CFG_SRC = 0 then holdover s else s
    else if rf s (netTwin s) R.TIME_CFG_SRC = 0 then holdover s else s)

/-- PTP_FREERUN (R326): HOLD_LIM has passed in HOLDOVER. -/
def execPtpFreerun (s : State) : Out :=
  .next (if clkState s = clkHoldover then clkEvent (setClk s clkFreerun) R.TIME_EVENT_FREERUN else s)

/-- PTP_MASTER_SEND (R327): as grandmaster, port `p` sends Announce and a one-step Sync with its own time: 48 bits
of seconds, then nanoseconds. -/
def execPtpMasterSend (p : Fin 4) (s : State) : Out :=
  .next (
    let p := p.val
    if flag s (netTwin s) R.TIME_STATUS_MASTER ∧ serving s p then
      let a := ownAnnounce s p
      let d := devTime s (portTwin p)
      let s := transmit s (ptpFrame s p { kind := .announce, words := [BitVec.ofNat 32 a.p1.toNat, BitVec.ofNat 32 a.cls.toNat,
        BitVec.ofNat 32 a.p2.toNat, BitVec.ofNat 32 (a.gm.toNat / 4294967296), BitVec.ofNat 32 a.gm.toNat,
        BitVec.ofNat 32 a.utc.toNat] }) p
      let sec := d / secU
      let stamp := [BitVec.ofInt 32 (sec / 4294967296 % 65536), BitVec.ofInt 32 sec, BitVec.ofInt 32 (d % secU / nsU)]
      transmit s (ptpFrame s p { kind := .sync, corr := d % nsU, words := stamp }) p
    else s)

/-- LEAP (R330): at the end of a UTC day with a leap flag set the offset changes by one second. -/
def execLeap (s : State) : Out :=
  .next (onComputing (fun s t =>
    let up := flag s t R.TIME_UTC_LEAP61
    let down := flag s t R.TIME_UTC_LEAP59
    let o := rf s t R.TIME_UTC_UTC
    if up ∨ down then ev (wf s t R.TIME_UTC_UTC ((o + (if up then 1 else 65535)) % 65536)) t R.TIME_EVENT_LEAP else s) s)

/-! PPS. -/

/-- PPS_IN_EDGE (R331): the edge's stamp less the cable delay; with SRC = PPS_IN the edge is the start of second
PPS_SEC, which then advances by 1. DEDUCED, unsafe: log entry 167. -/
def execPpsInEdge (stamp : Int) (s : State) : Out :=
  .next (
    let t := netTwin s
    if flag s t R.TIME_PPS_IN_IN_EN then
      let at_ := stamp - (rf s t R.TIME_PPS_IN_CABLE : Int) * nsU
      let s := onComputing (fun s t => wr s t R.TIME_IN_STAMP (BitVec.ofInt 32 (at_ % secU / nsU))) s
      if rf s t R.TIME_CFG_SRC = 1 then
        let f := at_ % secU
        let e := if 2 * f < secU then -f else secU - f
        let s := servo s t e ((rd s t R.TIME_PPS_SEC).toNat * secU - at_)
        onComputing (fun s t => wr s t R.TIME_PPS_SEC (rd s t R.TIME_PPS_SEC + 1)) s
      else s
    else s)

/-- PPS_MISS (R331): no edge for 1.5 s. -/
def execPpsMiss (s : State) : Out :=
  .next (
    let s := onComputing (fun s t => if flag s t R.TIME_PPS_IN_IN_EN then cnt s t R.TIME_PPS_MISS else s) s
    if rf s (netTwin s) R.TIME_CFG_SRC = 1 ∧ flag s (netTwin s) R.TIME_PPS_IN_IN_EN then holdover s else s)

/-- PPS_OUT_PULSE (R332): the pulse of the interlock holder starts or ends; none while device time is UNSET. -/
def execPpsOutPulse (start : Bool) (s : State) : Out :=
  .next (match s.ilk.pins with
    | none => modNet s (fun n => { n with ppsOut := false })
    | some t =>
      let on := start && flag s t R.TIME_PPS_OUT_OUT_EN && decide (rf s t R.TIME_STATUS_STATE ≠ clkUnset)
      modNet s (fun n => { n with ppsOut := on }))

/-- The level of the PPS_OUT ball: high impedance without a holder (R266), low while device time is UNSET or the
output is off, else the pulse in its polarity. -/
def ppsLevel (s : State) : Option Bool :=
  match s.ilk.pins with
  | none => none
  | some t =>
    if !(flag s t R.TIME_PPS_OUT_OUT_EN) ∨ rf s t R.TIME_STATUS_STATE = clkUnset then some false
    else some (s.net.ppsOut != flag s t R.TIME_PPS_OUT_OUT_POL)

end Sys2Proof.Machine
end

