-- ==== Sys2Proof/Machine/Judge.lean ====
section
/-! DEFINITION. The judgement of a register write (R44, R483, R484 and the refusals that the chapters state for their
words): one result code per twin, OK if the write may take effect. What a write starts (a request bit) is judged by the
operation it starts. -/

namespace Sys2Proof.Machine

/-- The indices of a word in its row, from its offset. -/
def rowIdx : List (Nat × Nat) → Nat → List Nat
  | [], _ => []
  | (st, _) :: r, o => o / st :: rowIdx r (o % st)

/-- The code of the first condition that holds. -/
def firstCode : List (Bool × Nat) → Nat
  | [] => Rc.OK
  | (c, e) :: r => if c then e else firstCode r

/-- Whether a field of a word would change (R483). -/
def chg (old v : W32) (hi lo : Nat) : Bool := bits old hi lo != bits v hi lo

/-- The refusal of a block's idle-only rule at address `a`; OK where the block is idle (R44, R240, R267, R273, R336,
R341). The clock selection is idle only without a code of its own: PARAM_ORDER (R484).
DEDUCED, unsafe: log entry 186. -/
def idleCode (s : State) (t : Twin) (a : Nat) : Nat :=
  match a / 0x10000 with
  | 0x1 => if flag s t R.ARR_CTRL_ENABLE ∨ flag s t R.NET_CTRL_EN then Rc.PARAM_ORDER else Rc.OK
  | 0x100 => if running s ((a - 0x1000100) / 128) then Rc.PWM_ACTIVE else Rc.OK
  | 0x110 => if rf s t R.ADC_STATUS_ENABLED ≠ 0 then Rc.ADC_ACTIVE else Rc.OK
  | 0x120 => if flag s t R.NET_CTRL_EN then Rc.NET_ACTIVE else Rc.OK
  | 0x130 => if flag s t R.CAN_B_CTRL_EN then Rc.CAN_ACTIVE else Rc.OK
  | 0x131 => if flag s t (bfld R.CAN_B_CTRL_EN 1) then Rc.CAN_ACTIVE else Rc.OK
  | 0x180 => if [0, 1].all (fun d => chSt s t d == 0) then Rc.OK else Rc.DRIVE_ACTIVE
  | _ => if flag s t R.ARR_CTRL_ENABLE then Rc.ARRAY_ACTIVE else Rc.OK

/-- Whether the lock of a word's RWL fields is set (R246, R262, R381). -/
def wordLocked (s : State) (t : Twin) (a : Nat) : Bool :=
  if safetyParam a then flag s t R.SAF_STATUS_LOCKED
  else if a / 0x10000 = 0x102 then flag s t R.TRIP_GCFG_LOCK
  else flag s t R.PWM_GCFG_DT_LOCK


/-- What every word is judged by: RWL fields under a lock, idle-only fields, ranges (R483, R484).
Log entries 73 (DEDUCED, unsafe), 82 (DEDUCED, unsafe). -/
def genericCode (s : State) (t : Twin) (r : RegRow) (a : Nat) (v : W32) : Nat :=
  let old := rd s t a
  let idle := idleCode s t a
  let out := fun (f : RegField) => decide (bits v f.hi f.lo < f.mn) || decide (f.mx < bits v f.hi f.lo)
  let kept := fun (f : RegField) => (f.idle || f.acc == .rwl) && !(chg old v f.hi f.lo)
  firstCode [
    (wordLocked s t a && rwlChange r old v, Rc.LOCKED),
    (idle != Rc.OK && r.fields.any (fun f => f.idle && chg old v f.hi f.lo), idle),
    (r.fields.any (fun f => (f.acc == .rw || f.acc == .rwl) && out f && !(kept f)), rangeCode a v)]

/-- Clocks and power (R437, R439, R440). -/
def clkCode (s : State) (t : Twin) (b : Nat) (v : W32) : Nat :=
  if b = R.CLK_LT_SPREAD then
    firstCode [((List.range 12).any (fun c => decide (2 ≤ ringSt s t c)), Rc.ARRAY_ACTIVE)]
  else if b = R.CLK_SYS then
    firstCode [(bits v 19 18 == 2 && decide (400000 * 800 < mpFreq s t * (800 + bits v 23 20)), Rc.PARAM_ORDER)]
  else if b = R.PWR_VCORE then firstCode [(v.getLsbD 31 && !(safelight s), Rc.NOT_SAFELIGHT)]
  else Rc.OK

/-- The array and the cells (R39, R54, R77, R78); TTRI, idle only, is judged where it would change (R483). DEDUCED, unsafe: log entry 270. -/
def arrCode (s : State) (t : Twin) (b k : Nat) (v : W32) : Nat :=
  if b = R.ARR_CTRL then firstCode [((topoStrings (bits v 7 5)).isNone, Rc.TOPO_INVALID)]
  else if b = R.ARR_S_CARRIER then
    firstCode [(v != rd s t (b + 64 * k) && (decide (v.toNat < 32 * cycNs s t) || decide (320000000 < v.toNat)),
      Rc.PARAM_ORDER)]
  else if b = R.CELL_TAU1 ∨ b = R.CELL_TAU2 then firstCode [(F32.isZero v, Rc.PARAM_ORDER)]
  else if b = R.CELL_PHASE_TRIM then
    let tri := rf s t (fo R.ARR_S_CARRIER_TTRI (64 * mapString (rd s t (R.ARR_MAP + 4 * k))))
    firstCode [(decide (tri ≤ v.toInt.natAbs), Rc.PARAM_ORDER)]
  else Rc.OK

/-- Host input nodes (R188's LAW_NODEn). -/
def lawCode (s : State) (t : Twin) (b k : Nat) (v : W32) : Nat :=
  if b = R.LAW_NODE then
    let host := ((graph s t).bind (fun g => g.nodes[k]?)).any (fun n => n.kind == 2)
    firstCode [(!host, Rc.NODE_RO), (F32.isNan v, Rc.PARAM_ORDER)]
  else Rc.OK

/-- Whether Exposure `e` may be configured: IDLE or FROZEN (R203). -/
def expOpen (s : State) (t : Twin) (e : Nat) : Bool := !(armed s t e)

/-- Exposures and probes (R203). DEDUCED, unsafe: log entry 142. -/
def negCode (s : State) (t : Twin) (b k : Nat) (old v : W32) : Nat :=
  if b = R.NEG_PROBE then
    let busy := fun (w : W32) => w.getLsbD 31 && !(expOpen s t (bits w 30 29))
    let i := bits v 15 0
    firstCode [(busy old || busy v, Rc.NEG_ARMED),
      (bits v 28 26 == 0 && decide (4095 < i), Rc.PARAM_ORDER),
      (bits v 28 26 == 1 && !(refOk s t i), Rc.PARAM_ORDER),
      (bits v 28 26 == 2 && (decide (191 < i / 256) || decide (4 < i % 16)), Rc.PARAM_ORDER)]
  else if R.NEG_EXP_CFG ≤ b ∧ b ≤ R.NEG_EXP_EVENTS then
    firstCode [(!(expOpen s t k), Rc.NEG_ARMED),
      (b == R.NEG_EXP_CFG && bits v 31 29 == 4 && decide (bits v 15 0 < 10), Rc.PARAM_ORDER),
      (b == R.NEG_EXP_REGION && (bits v 15 0 == 0 || decide (1024 < bits v 31 16 + bits v 15 0)), Rc.PARAM_ORDER)]
  else Rc.OK

/-- Gate drive (R252, R253, R254, R268): CFG, DRIVE and UVLO are idle only as whole words. -/
def gdCode (s : State) (b k : Nat) (old v : W32) : Nat :=
  let idle := (b == R.GD_P_CFG || b == R.GD_P_DRIVE || b == R.GD_P_UVLO) && old != v && gdSwitching s k
  firstCode [(idle, Rc.GD_ACTIVE),
    (b == R.GD_P_CFG && bits v 31 30 == 3, Rc.PARAM_ORDER),
    (b == R.GD_P_UVLO && bits v 23 16 != 0 && (decide (bits v 23 16 < 40) || decide (200 < bits v 23 16)), Rc.PARAM_ORDER),
    (b == R.GD_P_DRIVE && [31, 26, 21, 16].any (fun h => decide (16 < bits v h (h - 4))), Rc.PARAM_ORDER)]

/-- Trips (R259, R263). -/
def tripCode (b : Nat) (v : W32) : Nat :=
  if b = R.TRIP_STATE_PWM ∨ b = R.TRIP_STATE_GD then
    firstCode [((List.range 16).any (fun n => bits v (2 * n + 1) (2 * n) == 3), Rc.PARAM_ORDER),
      ((List.range 8).any (fun k => bits v (4 * k + 1) (4 * k) == 1 && bits v (4 * k + 3) (4 * k + 2) == 1), Rc.PARAM_ORDER)]
  else if b = R.TRIP_DSN then firstCode [(decide (bits v 31 24 ≤ bits v 23 16), Rc.PARAM_ORDER)]
  else Rc.OK

/-- Whether a sequence's binding differs from its group (R279): source, pair and compare. ADC sources 2, 3 and 4 are the
group sources ARRAY, PWM_PERIOD and PWM_COMPARE. DEDUCED, unsafe: log entry 132. -/
def bindDiffers (s : State) (t : Twin) (v : W32) : Bool :=
  let bnd := bits v 23 21
  if bnd = 0 then false
  else match (graph s t).bind (fun g => g.rgs[bnd - 1]?) with
    | none => true
    | some r => bits v 31 29 != r.src + 2 || (r.src != 0 && bits v 28 26 != r.pair) || (r.src == 2 && bits v 25 24 != r.cmp)

/-- The conflicts of an interleaved pair (R288) if its even converter's word RCFG were `cfg`, its entry 0 `ent`, and
injected sequences were enabled as `inj` says. DEDUCED, unsafe: log entry 131. -/
def interleaveCode (s : State) (t : Twin) (q : Nat) (cfg ent : W32) (inj : Bool) : Nat :=
  let e := q / 2 * 2
  let input := bits ent 28 24
  let uncal := fun (c : Nat) => decide (input < 16) && bits (rd s t (R.ADC_CAL + 64 * c + 4 * input)) 31 16 == 0
  if !(cfg.getLsbD 20) then Rc.OK
  else firstCode [(bits cfg 4 0 != 1 || bits ent 17 14 != 0 || inj, Rc.INTERLEAVE_CONFLICT),
    (uncal e || uncal (e + 1), Rc.CAL_MISSING)]

/-- The converters (R270, R278, R279, R288, R293, R300). -/
def adcCode (s : State) (t : Twin) (b q j : Nat) (old v : W32) : Nat :=
  let e := q / 2 * 2
  let cfg := rd s t (ca R.ADC_C_RCFG e)
  let ent := rd s t (ca R.ADC_C_REG e)
  let inj := flag s t (cf R.ADC_C_CTRL_INJ_EN e) || flag s t (cf R.ADC_C_CTRL_INJ_EN (e + 1))
  if b = R.ADC_GCFG then
    let idle := !(flag s t R.ARR_CTRL_ENABLE) && [0, 1].all (fun d => [0, 1, 5].contains (chSt s t d))
    firstCode [(v.getLsbD 14 && !(old.getLsbD 14) && !idle, Rc.AVG_REFUSED)]
  else if b = R.ADC_SKEW then
    firstCode [([31, 15].any (fun h => decide (127 < (BitVec.ofNat 16 (bits v h (h - 15))).toInt.natAbs)), Rc.PARAM_ORDER)]
  else if b = R.ADC_C_RCFG then
    firstCode [(decide (5 < bits v 31 29), Rc.TRIGGER_INVALID), (decide (4 < bits v 23 21), Rc.PARAM_ORDER),
      (bindDiffers s t v, Rc.BIND_MISMATCH), (v.getLsbD 20 && q % 2 == 1, Rc.PARAM_ORDER),
      (q % 2 == 0 && interleaveCode s t q v ent inj != Rc.OK, interleaveCode s t q v ent inj)]
  else if b = R.ADC_C_ICFG then
    firstCode [(decide (5 < bits v 31 29), Rc.TRIGGER_INVALID), (decide (4 < bits v 23 21), Rc.PARAM_ORDER),
      (bindDiffers s t v, Rc.BIND_MISMATCH)]
  else if b = R.ADC_C_REG ∨ b = R.ADC_C_INJ then
    let own := b == R.ADC_C_REG && j == 0 && q % 2 == 0
    firstCode [(decide (19 < bits v 28 24), Rc.INPUT_INVALID), (decide (bits v 17 14 < bits v 13 10), Rc.PARAM_ORDER),
      (own && interleaveCode s t q cfg v inj != Rc.OK, interleaveCode s t q cfg v inj)]
  else if b = R.ADC_C_CTRL then
    firstCode [(v.getLsbD 1 && cfg.getLsbD 20, Rc.INTERLEAVE_CONFLICT)]
  else if b = R.ADC_C_SCALE ∨ b = R.ADC_C_OFS then firstCode [(F32.isNan v, Rc.PARAM_ORDER)]
  else Rc.OK

/-- The network and device time (R302, R337). -/
def netCode (s : State) (t : Twin) (b : Nat) (old v : W32) : Nat :=
  if b = R.NET_P_CFG then firstCode [(decide (24 < bits v 27 24 + bits v 23 19), Rc.PARAM_ORDER)]
  else if b = R.TIME_RATE then firstCode [(old != v && rf s t R.TIME_CFG_SRC != 2, Rc.TIME_SERVO)]
  else if b = R.TIME_OUT_OFS then
    firstCode [(decide (v.toInt < -500000000) || decide (499999999 < v.toInt), Rc.PARAM_ORDER)]
  else Rc.OK

/-- Whether a nominal bit timing is allowed (R340). -/
def nominalOk (v : W32) : Bool :=
  decide (bits v 8 2 ≤ bits v 15 9) && decide (80 ≤ (bits v 31 24 + 1) * (1 + (bits v 23 16 + 1) + (bits v 15 9 + 1)))

/-- Whether a data bit timing is allowed (R340). -/
def dataOk (v : W32) : Bool :=
  let t := (bits v 31 27 + 1) * (1 + (bits v 26 22 + 1) + (bits v 21 18 + 1))
  decide (bits v 17 14 ≤ bits v 21 18) && decide (10 ≤ t) && (v.getLsbD 13 || decide (80 ≤ t))

/-- The CAN buses (R340, R341, R348, R355, R357). `j` is the index of an object, 128 for the high-priority buffer. -/
def canCode (s : State) (t : Twin) (b k j : Nat) (old v : W32) : Nat :=
  if b = R.CAN_B_NBT ∨ b = R.CAN_B_DBT then
    firstCode [(old != v && flag s t (bfld R.CAN_B_CTRL_EN k), Rc.CAN_ACTIVE),
      (!(if b = R.CAN_B_NBT then nominalOk v else dataOk v), Rc.PARAM_ORDER)]
  else if b = R.CAN_B_TM_PER then
    firstCode [(bits v 31 29 == 7, Rc.PARAM_ORDER),
      (decide (bits v 15 0 * 10000 ≤ rf s t (bfld R.CAN_B_TM_PHASE_PHASE k)), Rc.PARAM_ORDER)]
  else if b = R.CAN_B_TM_PHASE then
    firstCode [(decide (rf s t (bfld R.CAN_B_TM_PER_PERIOD k) * 10000 ≤ v.toNat), Rc.PARAM_ORDER)]
  else if b = R.CAN_B_OBJ_ID ∨ b = R.CAN_B_OBJ_MASK ∨ b = R.CAN_B_OBJ_CTL ∨ b = R.CAN_B_OBJ_DATA then
    firstCode [(ecpObject s t k j, Rc.OBJ_RESERVED),
      (isTx s t k j && (objStat s t k j == stPending || objStat s t k j == stActive), Rc.OBJ_BUSY)]
  else if b = R.CAN_B_OBJ_CMD then firstCode [(ecpObject s t k j, Rc.OBJ_RESERVED)]
  else Rc.OK

/-- The stream queues (R416, R422, R423): queue 5 has the sink SV alone, the others HOST or UDP. DEDUCED, unsafe: log entry 144. -/
def stqCode (s : State) (t : Twin) (b q : Nat) (old v : W32) : Nat :=
  if b = R.STQ_Q_CFG then
    firstCode [(old.getLsbD 31 && (chg old v 30 29 || chg old v 23 16), Rc.PARAM_ORDER),
      (bits v 30 29 == 3 || (bits v 30 29 == 2) != (q == 5), Rc.PARAM_ORDER),
      (v.getLsbD 31 && !(old.getLsbD 31)
        && (decide (256 < rf s t R.STQ_ALLOC_ALLOC + 2 * bits v 23 16) || (q == 5 && decide (bits v 23 16 < 2))), Rc.PARAM_ORDER)]
  else if b = R.STQ_Q_MARKS then firstCode [(decide (bits v 31 16 < bits v 15 0), Rc.PARAM_ORDER)]
  else Rc.OK

/-- The Spillway order of R229, which binds while Spillway is enabled (VCH_LO is not +infinity).
DEDUCED, unsafe: log entry 188. -/
def spillOk (lo hi s4 trip : W32) : Bool := lo == 0x7F800000#32 || (F32.lt lo hi && F32.le hi s4 && F32.lt s4 trip)

/-- The drive (R204, R213, R229, R239). -/
def drvCode (s : State) (t : Twin) (b d : Nat) (v : W32) : Nat :=
  let w := fun (a : Nat) => if b = a then v else rd s t a
  if b = R.DRV_CFG then
    firstCode [(decide (4 < bits v 2 0), Rc.TOPO_INVALID), (decide (bits v 21 19 < topoPairs (bits v 2 0)), Rc.PAIR_CONFLICT)]
  else if b = R.DRV_VCH_LO ∨ b = R.DRV_VCH_HI ∨ b = R.DRV_V_S4 ∨ b = R.DRV_V_TRIP then
    firstCode [(!(spillOk (w R.DRV_VCH_LO) (w R.DRV_VCH_HI) (w R.DRV_V_S4) (w R.DRV_V_TRIP)), Rc.PARAM_ORDER)]
  else if b = R.DRV_D_XO_WLO then firstCode [(F32.le (dw s t R.DRV_D_XO_WHI d) v, Rc.PARAM_ORDER)]
  else if b = R.DRV_D_XO_WHI then firstCode [(F32.le v (dw s t R.DRV_D_XO_WLO d), Rc.PARAM_ORDER)]
  else if b = R.DRV_ENC_CFG then firstCode [(bits v 29 28 == 3, Rc.PARAM_ORDER)]
  else if b = R.DRV_HALL_CFG then
    firstCode [((List.range 6).any (fun i => decide (5 < bits v (3 * i + 2) (3 * i))), Rc.PARAM_ORDER)]
  else Rc.OK

/-- The judgement of a write in one twin: what every word is judged by, then what its block adds. -/
def judge (s : State) (t : Twin) (r : RegRow) (a : Nat) (v : W32) : Nat :=
  let g := genericCode s t r a v
  let ix := rowIdx r.dims (a - r.base)
  let k := ix.getD 0 0
  let j := ix.getD 1 0
  let old := rd s t a
  if g ≠ Rc.OK then g
  else if safetyParam a then Rc.CONFIRM_NEEDED
  else match a / 0x10000 with
    | 0x1 => clkCode s t r.base v
    | 0x20 | 0x30 => arrCode s t r.base k v
    | 0x48 => lawCode s t r.base k v
    | 0x80 => negCode s t r.base k old v
    | 0x101 => gdCode s r.base k old v
    | 0x102 => tripCode r.base v
    | 0x110 => adcCode s t r.base k j old v
    | 0x120 | 0x121 => netCode s t r.base old v
    | 0x130 | 0x131 => canCode s t r.base k j old v
    | 0x160 => stqCode s t r.base k old v
    | 0x180 => drvCode s t r.base k v
    | _ => Rc.OK

/-- Whether a word holds a setting, an RW field. -/
def settingWord (r : RegRow) : Bool := r.fields.any (fun f => f.acc == .rw)

/-- Words that must be written both-agreed: the PWM words of R248, GD_ (R268), CAN_ (R341), SAF_ (R386), HST_ (R426),
the settings of NET_ and TIME_ (R336, R337), of ARR_ and CELL_ (R29, R44), of LAW_ (R188, R202) and of DRV_ (R240), RATCHET
and SYS_LIFE (R450, R453). DEDUCED, unsafe: log entry 183. -/
def agreedWord (r : RegRow) (a : Nat) (v : W32) : Bool :=
  let b := r.base
  match a / 0x10000 with
  | 0x0 => b == R.SYS_LIFE || (b == R.SYS_CTRL && bits v 5 2 != 0)
  | 0x100 => (decide (R.PWM_P_START_S ≤ b) && decide (b ≤ R.PWM_P_FORCE))
  | 0x120 | 0x121 => settingWord r || b == R.TIME_STEP
  | 0x20 | 0x30 | 0x180 => settingWord r
  | x => (decide (0x40 ≤ x) && decide (x < 0x80) && settingWord r) || x == 0x101 || x == 0x130 || x == 0x131 || x == 0x140 || x == 0x150

/-- Whether a write must be both-agreed: its word must, or it changes SYS_CTRL.SAFELIGHT, which R454 and R455 have as an
agreed change. DEDUCED, unsafe: log entry 183. -/
def agreedWrite (s : State) (r : RegRow) (a : Nat) (v : W32) : Bool :=
  agreedWord r a v || (r.base == R.SYS_CTRL && v.getLsbD 0 != flag s (asker s) R.SYS_CTRL_SAFELIGHT)

/-- Words and requests that name one twin (R148, R164, R427, R433). DEDUCED, unsafe: log entry 184. -/
def oneTwinWord (b : Nat) (v : W32) : Bool :=
  b / 0x10000 == 0x160 || (b == R.SYS_CTRL && v.getLsbD 1) || (b == R.TWN_CTRL && (v.getLsbD 2 || v.getLsbD 1))

end Sys2Proof.Machine
end

