-- ==== Sys2Proof/Machine/Power.lean ====
section
/-! DEFINITION. Resets, rails and the core-voltage loop of 13_clocks_power_reset, and the Sluice and one-time-memory
commands that need no other unit. -/

namespace Sys2Proof.Machine

/-- Registers a reset of the whole SK192 leaves as they are: the one-time memory; with the rails up also the count of
resets and what the rails, crystals and PLLs show. -/
def keptOnWholeReset (railsUp : Bool) (a : Nat) : Bool :=
  a / 16 == 1 || a == R.SYS_KEYREV || a == R.SYS_ADV_LEFT
    || (railsUp && (a == R.SYS_RESETS || a == R.SYS_OVF || a == R.CLK_STATUS || a == R.PWR_STATUS || a == R.PWR_MEAS))

/-- Reset of the whole SK192 (R433): both twins, both safety-monitor domains, ownership and the host interface. With the rails
down SYS_RESETS starts anew (R458) and the crystals have still to start (R429); an over-temperature lasts on (R475). DEDUCED, unsafe: log entry 281. -/
def resetWhole (s : State) (cause : Nat) (railsUp : Bool) : State :=
  let s1 := { s with a := freshTwin s.a (keptOnWholeReset railsUp), b := freshTwin s.b (keptOnWholeReset railsUp),
                     ilk := {}, sluice := {}, host := {}, edge := {}, net := {}, pfail := false }
  let s2 := afterReset (afterReset s1 .a cause) .b cause
  if railsUp then s2 else onBoth (fun s t => modPwr (wr s t R.SYS_RESETS 0) t (fun p => { p with xtalFail := false })) s2

/-- VIN_RISE (R429, R433): VIN has risen through 4.2 V; power-on reset is active with cause 1 and the power-up sequence
runs. -/
def execVinRise (s : State) : Out :=
  .next (if biti s .a R.PWR_STATUS_GOOD 0 then s
    else onBoth (fun s t => wf (wf s t R.PWR_STATUS_GOOD 1) t R.SYS_STATUS_CAUSE 1) s)

/-- RAILS_GOOD (R429): all rails are good; PGOOD is released and the crystals start. The regulators stay stopped while the
power-edge die is too hot (R475). -/
def execRailsGood (s : State) : Out :=
  .next (if biti s .a R.PWR_STATUS_GOOD 0 && !s.overTemp then onBoth (fun s t => wf s t R.PWR_STATUS_GOOD 255) s else s)

/-- XTAL_FAIL (R429): the crystal has not started; the twin stays in RESET. -/
def execXtalFail (t : Twin) (s : State) : Out :=
  .next (if twState s t = tsReset then
      modPwr (wf (wf s t R.PWR_STATUS_XTAL_FAIL 1) t R.CLK_STATUS_XTAL 0) t (fun p => { p with xtalFail := true })
    else s)

/-- BROWN_OUT (R431): the whole SK192 is reset, both safety-monitor domains included, and the rails are down. -/
def execBrownOut (s : State) : Out := .next (resetWhole s 1 false)

/-- CORE_RAIL_FAULT (R431): reset of twin x, whose core rail is no longer good. -/
def execCoreRailFault (t : Twin) (s : State) : Out :=
  .next (onBoth (fun s u => clri s u R.PWR_STATUS_GOOD (6 + t.index)) (resetTwin s t 3))

/-- CORE_RAIL_WINDOW (R431): the twin's core rail is outside its window; it withdraws with cause 6. -/
def execCoreRailWindow (t : Twin) (s : State) : Out :=
  .next (withdraw (onBoth (fun s u => clri s u R.PWR_STATUS_GOOD (6 + t.index)) s) t 6)

/-- VIO_WINDOW (R431): VIO is outside its window; both twins withdraw with cause 6, a follower first (R146). -/
def execVioWindow (s : State) : Out :=
  let s1 := onBoth (fun s u => clri s u R.PWR_STATUS_GOOD 1) s
  .next (match leader s1 with
    | some l =>
      let s2 := withdraw s1 l.other 6
      if twState s2 l.other = tsWithdrawn then withdrawNow (safeStop s2 l) l 6 else withdraw s2 l 6
    | none => onBoth (fun s t => withdraw s t 6) s1)

/-- RESET_N (R433): the whole SK192 is reset; the rails stay up. -/
def execResetN (s : State) : Out := .next (resetWhole s 2 true)

/-- RESET_TWIN (R433): a WITHDRAWN twin is reset; otherwise refused with NOT_WITHDRAWN. -/
def execResetTwin (t : Twin) (s : State) : Out :=
  if twState s t = tsWithdrawn then .next (resetTwin (say s Rc.OK) t 4) else .next (say s Rc.NOT_WITHDRAWN)

/-- DEBUG_RESET (R433, R453): a JTAG reset request resets the twin while the lifecycle is OPEN. -/
def execDebugReset (t : Twin) (s : State) : Out :=
  if s.lockedLife then .next (say s Rc.LIFECYCLE_LOCKED) else .next (resetTwin (say s Rc.OK) t 6)

/-- MP_WDT (R433): the management watchdog restarts the processor alone. DESIGN CHOICE, unsafe: log entry 39. -/
def execMpWdt (t : Twin) (s : State) : Out :=
  .next (if twState s t = tsReset then s else ev s t R.SYS_EVENT_MP_WDT)

/-- Whether a twin whose reset is released starts in Safelight (R435): as the other twin is, if that runs; otherwise by
CFG2. DEDUCED, unsafe: log entry 282. -/
def startsSafelight (s : State) (t : Twin) (cfg : BitVec 4) : Bool :=
  if twState s t.other = tsReset then cfg.getLsbD 2 else flag s t.other R.SYS_STATUS_SAFELIGHT

/-- TWIN_RESET_RELEASE (R429, R435): with the rails good and the crystal running the twin's reset is released; CLK_STATUS
shows the crystal from then on (DEDUCED, unsafe: log entry 225); the twin
samples its straps, its crossings exchange the empty handshake (R28) and it enters BOOT, in Safelight where the SK192
starts in it. -/
def execTwinResetRelease (t : Twin) (cfg : BitVec 4) (s : State) : Out :=
  if twState s t = tsReset ∧ rf s t R.PWR_STATUS_GOOD = 255 ∧ (s.tw t).pwr.xtalFail = false then
    let s1 := wf (evi (wf s t R.CLK_STATUS_XTAL 1) t R.CLK_STATUS_LOCK 0) t R.SYS_STATUS_CFG cfg.toNat
    let sl := bit (startsSafelight s t cfg)
    let s2 := wf (wf s1 t R.SYS_CTRL_SAFELIGHT sl) t R.SYS_STATUS_SAFELIGHT sl
    let s3 := modPwr s2 t (fun p => { p with straps := cfg.toNat, bootDone := false })
    .next (setTwState (s3.setTw t { s3.tw t with tb := 0, xings := [] }) t tsBoot)
  else .next s

/-- The next setpoint and down_wait of the loop of R436, in millivolts and 10 µs runs.
DEDUCED, unsafe: log entry 228. -/
def vcoreNext (v wait tgt : Nat) (slack : Int) : Nat × Nat :=
  if slack < 100 then (min 850 (v + 20), 1000)
  else if slack < tgt then (min 850 (v + 5), 1000)
  else if slack > tgt + 100 ∧ wait = 0 then (max 650 (v - 5), 100)
  else (v, wait)

/-- VCORE_LOOP (R436, R437): the slack is measured and VCORE raised or lowered; before the boot self-test has passed
it stays at 0.80 V, and in Safelight PWR_VCORE.MODE = 1 holds FIXED. A slack below SLACK_MIN sets SLACK_LOW. -/
def execVcoreLoop (t : Twin) (slack vin tdie : BitVec 16) (s : State) : Out :=
  if twState s t = tsReset then .next s else
  let s1 := wf (wf s t R.PWR_MEAS_VIN vin.toNat) t R.PWR_MEAS_TDIE tdie.toNat
  let s2 := wf s1 t R.PWR_SLACK_SLACK slack.toNat
  let s3 := if slack.toInt < 100 then ev s2 t R.PWR_EVENT_SLACK_LOW else s2
  if !(s.tw t).pwr.bootDone then .next (wf s3 t R.PWR_VCORE_SETPOINT 800)
  else if flag s t R.PWR_VCORE_MODE && flag s t R.SYS_STATUS_SAFELIGHT then .next (wf s3 t R.PWR_VCORE_SETPOINT (rf s t R.PWR_VCORE_FIXED))
  else
    let n := vcoreNext (rf s t R.PWR_VCORE_SETPOINT) ((s.tw t).pwr.downWait - 1) (rf s t R.PWR_SLACK_TGT) slack.toInt
    .next (modPwr (wf s3 t R.PWR_VCORE_SETPOINT n.1) t (fun p => { p with downWait := n.2 }))

/-- SLACK_ERROR (R437): slack below 0 ps at 0.85 V for 1 ms; the twin withdraws with cause 2. -/
def execSlackError (t : Twin) (s : State) : Out :=
  .next (if rf s t R.PWR_VCORE_SETPOINT = 850 ∧ (BitVec.ofNat 16 (rf s t R.PWR_SLACK_SLACK)).toInt < 0
    then withdraw s t 2 else s)

/-- Whether every point of the ramp profile that NPTS uses is in range (R441). -/
def rampValid (s : State) (t : Twin) : Bool :=
  let n := rf s t R.CLK_RAMP_CTRL_NPTS
  decide (1 ≤ n) && decide (n ≤ 8) && (List.range n).all (fun i =>
    let tg := rf s t (fo R.CLK_RAMP_TARGET (4 * i))
    let sl := rf s t (fo R.CLK_RAMP_SLOPE (4 * i))
    decide (100 ≤ tg) && decide (tg ≤ 400) && decide (1 ≤ sl) && decide (sl ≤ 100))

/-- The points of the ramp profile that NPTS uses. -/
def rampProfile (s : State) (t : Twin) : List (Nat × Nat × Nat) :=
  (List.range (rf s t R.CLK_RAMP_CTRL_NPTS)).map (fun i => (rf s t (fo R.CLK_RAMP_TARGET (4 * i)),
    rf s t (fo R.CLK_RAMP_SLOPE (4 * i)), rf s t (fo R.CLK_RAMP_HOLD (4 * i))))

/-- A granted ramp runs from the current frequency (R441). -/
def rampRun (s : State) (t : Twin) : State :=
  let f := mpFreq s t
  let pts := rampProfile s t
  let now := (s.tw t).tb
  modPwr (wf s t R.CLK_STATUS_RAMPING 1) t (fun p => { p with rampFrom := f, rampAt := now, rampPts := pts })

/-- RAMP_START (R441): an invalid profile is refused with RAMP_INVALID; otherwise the ramp runs under Sluice leave. -/
def execRampStart (t : Twin) (s : State) : Out :=
  if !(rampValid s t) then .next (say s Rc.RAMP_INVALID)
  else if leaveHeld s 6 t then .next (rampRun (say s Rc.OK) t)
  else
    let s1 := leaveAsk (say s Rc.OK) 6 t true 0
    .next (if leaveHeld s1 6 t then rampRun s1 t else s1)

/-- A ramp stops and its leave returns. -/
def rampStop (s : State) (t : Twin) : State :=
  leaveEnd (wf s t R.CLK_STATUS_RAMPING 0) 6 t

/-- RAMP_ABORT (R441): the write of CLK_RAMP_CTRL with ABORT carries a value of NPTS beside it, which is judged and stored as
that of any write (R441, R484); the ramp stops at the current frequency. DEDUCED, safe: log entry 276. -/
def execRampAbort (t : Twin) (npts : BitVec 4) (s : State) : Out :=
  if npts.toNat = 0 ∨ 8 < npts.toNat then .next (say s (rangeCode R.CLK_RAMP_CTRL (npts.zeroExtend 32))) else
  let s1 := wf (say s Rc.OK) t R.CLK_RAMP_CTRL_NPTS npts.toNat
  .next (if flag s t R.CLK_STATUS_RAMPING then
      wr (rampStop s1 t) t R.CLK_MP_FREQ (BitVec.ofNat 32 (mpFreq s t))
    else s1)

/-- RAMP_END (R441): the last point's hold ends; the frequency stays at its target and the leave returns. -/
def execRampEnd (t : Twin) (s : State) : Out :=
  let last := (((s.tw t).pwr.rampPts.getLast?).map (·.1)).getD 0
  .next (if flag s t R.CLK_STATUS_RAMPING then wr (rampStop s t) t R.CLK_MP_FREQ (BitVec.ofNat 32 (1000 * last)) else s)

/-- Advances left for image type `ty` (SYS_ADV_LEFT). -/
def advLeft (s : State) (t : Twin) (ty : Nat) : Nat := (rd s t R.SYS_ADV_LEFT).toNat / 2 ^ (8 * ty) % 256

/-- Whether the ratchet of one type would advance the counter of a twin. -/
def ratchetMoves (s : State) (t : Twin) (ty : Nat) : Bool :=
  decide ((rd s t (R.SYS_VERCNT + 4 * ty)).toNat < (rd s t (R.SYS_VERSION + 4 * ty)).toNat)

/-- The refusal of a ratchet of one type (R450): PARAM_MISMATCH, COUNTER_EXHAUSTED, or OK. -/
def ratchetCheck (s : State) (ty : Nat) : Nat :=
  if rd s .a (R.SYS_VERSION + 4 * ty) ≠ rd s .b (R.SYS_VERSION + 4 * ty) then Rc.PARAM_MISMATCH
  else if (ratchetMoves s .a ty && advLeft s .a ty == 0) || (ratchetMoves s .b ty && advLeft s .b ty == 0)
  then Rc.COUNTER_EXHAUSTED
  else Rc.OK

/-- The counter of one type is set to the active VERSION and one advance is used (R450). -/
def ratchetOne (ty : Nat) (s : State) (t : Twin) : State :=
  if ratchetMoves s t ty then
    let s1 := wr s t (R.SYS_VERCNT + 4 * ty) (rd s t (R.SYS_VERSION + 4 * ty))
    wf s1 t ⟨R.SYS_ADV_LEFT, 8 * ty + 7, 8 * ty⟩ (advLeft s t ty - 1)
  else s

/-- RATCHET (R450), written both-agreed: the counters of the types named advance to the active versions.
DEDUCED, unsafe: log entry 229. -/
def execRatchet (types : BitVec 4) (s : State) : Out :=
  let tys := (List.range 4).filter (fun i => types.getLsbD i)
  match tys.find? (fun ty => ratchetCheck s ty != Rc.OK) with
  | some ty => .next (say s (ratchetCheck s ty))
  | none => .next (tys.foldl (fun s ty => onBoth (ratchetOne ty) s) (say s Rc.OK))

/-- KEY_REVOKE (R449): the key slots named are revoked for good; a write that would revoke the last unrevoked slot of a
class is refused with PARAM_ORDER. -/
def execKeyRevoke (t : Twin) (owner beylos : BitVec 4) (s : State) : Out :=
  let o := rf s t R.SYS_KEYREV_OWNER ||| owner.toNat
  let b := rf s t R.SYS_KEYREV_BEYLOS ||| beylos.toNat
  if (o = 15 ∧ owner ≠ 0#4) ∨ (b = 15 ∧ beylos ≠ 0#4) then .next (say s Rc.PARAM_ORDER)
  else .next (modPwr (wf (wf (say s Rc.OK) t R.SYS_KEYREV_OWNER o) t R.SYS_KEYREV_BEYLOS b) t
    (fun p => { p with revoked := 16 * o + b }))

/-- LIFECYCLE_LOCK (R453): the value 0x4C4F_434B locks the lifecycle; any other is refused with PARAM_ORDER. -/
def execLifecycleLock (v : W32) (s : State) : Out :=
  if v = 0x4C4F434B#32 then
    .next (onBoth (fun s t => wf s t R.SYS_STATUS_LIFE 1) { say s Rc.OK with lockedLife := true })
  else .next (say s Rc.PARAM_ORDER)

/-- DEBUG_KEY_INSTALL (R398, R449, R453): with the lifecycle OPEN a context key (both flashes) or an owner key hash
(both one-time memories) is installed through the debug port; LOCKED refuses it. -/
def execDebugKeyInstall (hash : Bool) (slot : Fin 4) (value : BitVec 384) (s : State) : Out :=
  if s.lockedLife then .next (say s Rc.LIFECYCLE_LOCKED)
  else if hash then
    .next (onBoth (fun s t => modPwr s t (fun p => { p with
      keyHashes := tabSet [] p.keyHashes (4 + slot.val) ((List.range 48).map (fun i =>
        BitVec.ofNat 8 (value.toNat / 2 ^ (8 * (47 - i))))) })) (say s Rc.OK))
  else
    .next (onBoth (fun s t => modFlash s t (fun f => { f with
      keys := tabSet 0 f.keys slot.val (BitVec.ofNat 256 value.toNat) })) (say s Rc.OK))

end Sys2Proof.Machine
end

