-- ==== Sys2Proof/Machine/Reply.lean ====
section
/-! DEFINITION. The host contexts of 12_host_commands: their registers and queues, the attention bits, replies, group
ownership and the cancelling of pending changes. -/

namespace Sys2Proof.Machine

/-! Contexts. -/

/-- A field and a word of context `h`. -/
def hf (f : Fld) (h : Nat) : Fld := fo f (64 * h)
def ha (a h : Nat) : Nat := a + 64 * h

/-- What the device keeps of a context. -/
def hctx (s : State) (h : Nat) : CtxSt := tabGet {} s.host.ctx h

/-- Change the host interface. -/
def modHost (s : State) (f : HostSt → HostSt) : State := { s with host := f s.host }

/-- Change a context. -/
def modCtx (s : State) (h : Nat) (f : CtxSt → CtxSt) : State :=
  modHost s (fun x => { x with ctx := tabMod {} x.ctx h f })

/-- The key of a context (R398), from the key area of the leading twin's flash. DEDUCED, unsafe: log entry 193. -/
def ctxKey (s : State) (h : Nat) : BitVec 256 := tabGet 0 (s.tw (asker s)).flash.keys h

/-- h of R392. -/
def highCtr (s : State) (h : Nat) : Nat := (rd s (asker s) (ha R.HST_H_HIGH_CTR h)).toNat

/-- Set an event of a context in the twins (R426). -/
def hostEv (s : State) (f : Fld) (h : Nat) : State := onLive (fun s t => ev s t (hf f h)) s

/-- Count in a context's counter. -/
def hostCnt (s : State) (a h : Nat) : State := onLive (fun s t => cnt s t (ha a h)) s

/-- BUSY for a context (R405): the load condition, or more than 24 commands queued. -/
def ctxBusy (s : State) (h : Nat) : Bool :=
  flag s (asker s) R.HST_G_STATUS_BUSY || decide (24 < (hctx s h).queue.length)

/-- Commands of a context that have executed and await their reply: changes and commands waiting for leave. -/
def owing (s : State) (h : Nat) : Nat :=
  (s.host.changes.filter (fun c => c.cmd.ctx == h && !c.replied)).length
    + (s.host.waits.filter (fun w => w.cmd.ctx == h && !w.replied)).length

/-- The credits a context holds (R403). -/
def credits (s : State) (h : Nat) : Nat := 32 - (hctx s h).queue.length - owing s h

/-- The LOW commands of a context that wait (R405). -/
def deferring (s : State) (h : Nat) : Nat :=
  if ctxBusy s h then ((hctx s h).queue.filter (fun q => q.deferred)).length else 0

/-- The context that owns a group, as OWNERS and TAKE report it: 0xFF for none. -/
def ownerByte (s : State) (g : Nat) : Byte := BitVec.ofNat 8 ((groupOwner s g).getD 255)

/-- The groups a context owns, as a mask. -/
def groupsOf (s : State) (h : Nat) : Nat :=
  (List.range 5).foldl (fun m g => if groupOwner s g = some h then m + 2 ^ g else m) 0

/-- Show a context's queue, credits, deferral and groups, and the number of pending changes (R426). -/
def showCtx (s : State) (h : Nat) : State :=
  let q := (hctx s h).queue.length
  let c := credits s h
  let d := bit (deferring s h != 0)
  let g := groupsOf s h
  onLive (fun s t =>
    let s := wf (wf s t (hf R.HST_H_STATE_QUEUED h) q) t (hf R.HST_H_STATE_CREDITS h) c
    let s := wf (wf s t (hf R.HST_H_STATE_DEFERRING h) d) t (hf R.HST_H_STATE_GROUPS h) g
    wf s t R.HST_CHANGES_PENDING s.host.changes.length) s

/-! Attention (R396). -/

/-- Where the chapters assign event words: attention bit, block number of R14, first address, stride, count, and the
event bits of the word that count. -/
def attnRows : List (Nat × Nat × Nat × Nat × Nat × Nat) := [
  (6, 14, R.SAF_EVENT, 0, 1, 0xFFFFFFFF), (5, 17, R.TWN_EVENT, 0, 1, 0xFFFFFFFF),
  (4, 2, R.TRB_EVENT, 0x1000, 12, 0xFFFFFFFF), (4, 3, R.ARR_EVENT, 0, 1, 0xFFFFFFFF),
  (3, 7, R.PWM_EVENT, 0, 1, 0xFFFFFFFF), (3, 8, R.GD_EVENT, 0, 1, 0xFFFFFFFF),
  (3, 9, R.TRIP_EVENT, 0, 1, 0xFFFFFFFF), (3, 10, R.ADC_EVENT, 0, 1, 0xFF000000),
  (3, 18, R.DRV_EVENT, 0, 1, 0xFFFFFFFF), (3, 18, R.DRV_D_EVENT, 0x100, 2, 0xFFFFFFFF),
  (3, 18, R.DRV_POS_EVENT, 0, 1, 0xFFFFFFFF),
  (2, 6, R.NEG_EVENT, 0, 1, 0xFFFFFFFF), (2, 11, R.NET_EVENT, 0, 1, 0xFFFFFFFF),
  (2, 13, R.CAN_B_EVENT, 0x10000, 2, 0x50F), (2, 16, R.STQ_Q_EVENT, 0x40, 6, 0xFFFFFFFF),
  (1, 1, R.CLK_EVENT, 0, 1, 0xFFFFFFFF), (1, 1, R.PWR_EVENT, 0, 1, 0xFFFFFFFF),
  (1, 5, R.LAW_EVENT, 0, 1, 0xFFFFFFFF), (1, 10, R.ADC_EVENT, 0, 1, 0x00FFFFFF),
  (1, 12, R.TIME_EVENT, 0, 1, 0xFFFFFFFF), (1, 13, R.CAN_B_EVENT, 0x10000, 2, 0xFFFFFAF0),
  (1, 19, R.HLT_EVENT, 0, 1, 0xFFFFFFFF) ]

/-- The blocks of a twin that hold a set event assigned to an attention bit, as a mask of block numbers (R413). -/
def attnBlocks (s : State) (t : Twin) (a : Nat) : Nat :=
  attnRows.foldl (fun m r =>
    if r.1 = a ∧ (List.range r.2.2.2.2.1).any (fun i =>
        (rd s t (r.2.2.1 + r.2.2.2.1 * i) &&& BitVec.ofNat 32 r.2.2.2.2.2) != 0#32)
    then setBit m r.2.1 true else m) 0

/-- The live conditions of an attention bit in a twin (R146, R152, R161, R395, R453). -/
def attnLive (s : State) (t : Twin) (a : Nat) : Bool :=
  match a with
  | 6 => !(flag s t R.SAF_STATUS_LOCKED) || !s.lockedLife
  | 5 => flag s t R.TWN_STATE_REDUCED_FT || rf s t R.TWN_STATE_PEND_CAUSE != 0
  | 3 => inPair s t && !(flag s .a R.TWN_STATE_ARB_REACH) && !(flag s .b R.TWN_STATE_ARB_REACH)
  | _ => false

/-- ATTN_CONFIG of a context: its own events, the events of SYS_ and Safelight (R396, R454, R458). -/
def attnConfig (s : State) (h : Nat) : Bool :=
  safelight s || [Twin.a, Twin.b].any (fun t => rd s t (ha R.HST_H_EVENT h) != 0#32
    || rd s t R.SYS_EVENT != 0#32)

/-- The attention bits of a reply of context `h` (R395, R396), those of its ATTN_MASK.
Log entries 204 (DEDUCED, unsafe), 232 (DESIGN CHOICE, unsafe). -/
def attention (s : State) (h : Nat) : Nat :=
  let m := rf s (asker s) (hf R.HST_H_CFG_ATTN_MASK h)
  (List.range 7).foldl (fun v a =>
    let on := if a = 0 then attnConfig s h else
      [Twin.a, Twin.b].any (fun t => attnBlocks s t a != 0 || attnLive s t a)
    if nbit m a && on then v + 2 ^ a else v) 0

/-! Replies. -/

/-- A reply leaves over a transport (R387, R389): a datagram to the source address and port, a message on the context's
response identifier, or the serial reply queue of 128. DESIGN CHOICE, unsafe: log entry 197. -/
def emit (s : State) (via : Option Transport) (ip : W32) (port h : Nat) (r : Reply) : State :=
  match via with
  | none => s
  | some .udp => sendLead s { kind := .ecp, words := [ip, BitVec.ofNat 32 port] ++ arpMac s ip, bytes := r.bytes }
  | some .serial => modHost s (fun x => { x with serial := (x.serial ++ [r]).take 128 })
  | some .can0 => onComputing (fun s t => isoReply s t 0 h r.bytes) s
  | some .can1 => onComputing (fun s t => isoReply s t 1 h r.bytes) s

/-- The reply of a command under a key (R390, R394, R395): built as the state stands, with the cycle in which the command
executed, kept for retransmission, and sent. -/
def replyWith (key : BitVec 256) (s : State) (q : Queued) (code : Nat) (busy : Bool) (data : List Byte) : State :=
  let status := code * 256 + 128 * bit busy + attention s q.ctx
  let info := q.execAt.getD (cycleNow s (asker s)) % 4294967296
  let r : Reply := ⟨q.ctx, q.counter, q.opcode, status, info, data,
    ecpBytes key q.ctx q.opcode 0x80 q.counter status info data⟩
  let keep := fun (k : Kept) => if k.counter = q.counter ∧ k.tag = q.tag then { k with reply := some r } else k
  let s := modCtx s q.ctx (fun c => { c with kept := c.kept.map keep, rolled := c.rolled.map keep })
  let s := modHost (say s code) (fun x => { x with lastReply := some r, sent := ((q, r) :: x.sent).take 32 })
  showCtx (emit s q.via q.ip q.port q.ctx r) q.ctx

/-- The reply of a command under its context's key. -/
def reply (s : State) (q : Queued) (code : Nat) (data : List Byte) : State :=
  replyWith (ctxKey s q.ctx) s q code (ctxBusy s q.ctx) data

/-! Ownership (R400 to R402). -/

/-- The group of a register address (R400, R425); none outside the blocks. -/
def groupOf (a : Nat) : Option Nat :=
  (blockOf a).map (fun b => [4, 4, 0, 0, 0, 0, 3, 1, 1, 1, 1, 2, 2, 2, 4, 4, 3, 4, 1, 3].getD b 4)

/-- The groups that entries touch, as a mask; a safety parameter needs SAFETY as well. -/
def groupsTouched (es : List Entry) : Nat :=
  es.foldl (fun m e =>
    let m := match groupOf e.addr.toNat with
      | some g => setBit m g true
      | none => m
    if safetyParam e.addr.toNat then setBit m 4 true else m) 0

/-- Give a group to a context, or free it. -/
def setOwner (s : State) (g : Nat) (h : Option Nat) : State :=
  onLive (fun s t => wf s t ⟨R.HST_OWNER, 3 * g + 2, 3 * g⟩ (h.getD 7)) s

/-- The identity and cycle that the reply of a change carries (R413). -/
def changeIdent (c : Change) : List Byte := beBytes 2 c.id ++ beBytes 2 0 ++ beBytes 4 c.cycle

/-- A pending change is taken out; a command whose reply is still owed is answered with CANCELLED.
DEDUCED, unsafe: log entry 213. -/
def dropChange (s : State) (c : Change) : State :=
  let s := modHost s (fun x => { x with changes := x.changes.filter (fun d => d.id != c.id) })
  if c.replied then showCtx s c.cmd.ctx else reply s c.cmd Rc.CANCELLED (changeIdent c)

/-- A context loses groups by a taker or by lapse: OWNER_LOST, and its pending changes that touch them are cancelled
(R401, R402). -/
def loseGroups (s : State) (h groups : Nat) : State :=
  if groups = 0 then s else
  let s := hostEv s R.HST_H_EVENT_OWNER_LOST h
  let l := s.host.changes.filter (fun c => c.cmd.ctx == h && (groupsTouched c.entries &&& groups) != 0)
  let s := if l.isEmpty then s else hostEv s R.HST_H_EVENT_CANCELLED h
  showCtx (l.foldl dropChange s) h

/-- A context's groups lapse (R401): after LEASE seconds without a packet, or when its EN is cleared. -/
def lapse (s : State) (h : Nat) : State :=
  let m := groupsOf s h
  loseGroups ((List.range 5).foldl (fun s g => if nbit m g then setOwner s g none else s) s) h m

end Sys2Proof.Machine
end

