-- ==== Sys2Proof/Machine/Access.lean ====
section
/-! DEFINITION. A register write (R11, R12, R483): its fields are stored and what its request bits start is done, by the
operations of the chapters; a refused write changes nothing but what its refusal records. -/

namespace Sys2Proof.Machine

/-- The state an operation leaves. -/
def ran (s : State) : Out → State
  | .next s1 => s1
  | _ => s

/-- Do `f` where `c` holds and nothing has been refused yet. DEDUCED, unsafe: log entry 189. -/
def onReq (c : Bool) (f : State → State) (s : State) : State := if c && s.report == Rc.OK then f s else s

/-- The bits of a word that a plain store leaves as they are: what an operation of the word sets itself, a dead-time or
trip lock, the enable of the high-priority buffer, and data words of objects that receive. -/
def heldMask (s : State) (t : Twin) (b k j : Nat) : W32 :=
  if b = R.SYS_CTRL ∨ b = R.ARR_CTRL ∨ b = R.PWM_GCFG ∨ b = R.TRIP_GCFG ∨ b = R.DRV_CTRL ∨ b = R.DRV_D_CTRL
      ∨ b = R.CAN_B_CTRL then 1#32
  else if b = R.GD_GPB then 2#32
  else if b = R.ADC_C_CTRL then 3#32
  else if b = R.CAN_B_ECP_REQ ∨ b = R.STQ_Q_CFG ∨ b = R.CAN_B_HPB_ID then 0x80000000#32
  else if b = R.NEG_EXP_EVENTS then 0xFFFFF800#32
  else if b = R.PWM_P_FORCE ∨ b = R.TIME_RATE ∨ b = R.ARR_MAP ∨ b = R.LAW_BLK_LAT ∨ b = R.SYS_KEYREV
      ∨ b = R.CAN_B_HPB_DATA then 0xFFFFFFFF#32
  else if b = R.CAN_B_OBJ_DATA ∧ !(flag s t (ofld R.CAN_B_OBJ_ID_DIR k j)) then 0xFFFFFFFF#32
  else 0#32

/-- One field stored: RW and RWL take the value, W1C clears its ones, the others keep (R11). -/
def storeField (v w : W32) (f : RegField) : W32 :=
  match f.acc with
  | .rw | .rwl => putBits w f.hi f.lo (bits v f.hi f.lo)
  | .w1c => putBits w f.hi f.lo (bits (w &&& ~~~v) f.hi f.lo)
  | _ => w

/-- One word of CELL_DAMAGE is written: both words develop together, so the first waits for the other (R64, R78).
DEDUCED, unsafe: log entry 241. -/
def storeDamage (s : State) (t : Twin) (k : Nat) (hi : Bool) (v : W32) : State :=
  match (cellX s t k).dmgLat with
  | some (h, w) =>
    if h = hi then modCellX s t k (fun x => { x with dmgLat := some (hi, v) })
    else modCellX (setDamage s t k (if hi then v.toNat * 4294967296 + w.toNat else w.toNat * 4294967296 + v.toNat)) t k
      (fun x => { x with dmgLat := none })
  | none => modCellX s t k (fun x => { x with dmgLat := some (hi, v) })

/-- The bits of a written word that may be stored: those that a probe of a cell field reserves in its INDEX read as 0
(R12, R203). -/
def storable (b : Nat) (v : W32) : W32 := if b = R.NEG_PROBE ∧ bits v 28 26 = 2 then v &&& 0xFFFFFF0F#32 else v

/-- A word stored in one twin. -/
def storeWord (r : RegRow) (a : Nat) (v : W32) (s : State) (t : Twin) : State :=
  let ix := rowIdx r.dims (a - r.base)
  if r.base = R.CELL_DAMAGE_LO ∨ r.base = R.CELL_DAMAGE_HI then storeDamage s t (ix.getD 0 0) (r.base == R.CELL_DAMAGE_HI) v
  else
  let m := heldMask s t r.base (ix.getD 0 0) (ix.getD 1 0)
  let old := rd s t a
  wr s t a (((r.fields.foldl (storeField (storable r.base v)) old) &&& ~~~m) ||| (old &&& m))

/-- Requests of the system, clock and twin-control words. DESIGN CHOICE, unsafe: log entry 138. -/
def sysAct (s : State) (tg : Target) (ts : List Twin) (b : Nat) (old v : W32) : State :=
  let each := fun (f : Twin → State → Out) (s : State) => ts.foldl (fun s t => onReq true (fun s => ran s (f t s)) s) s
  if b = R.SYS_CTRL then
    let s := onReq (v.getLsbD 0 && !(old.getLsbD 0)) safelightEnter s
    let s := onReq (!(v.getLsbD 0) && old.getLsbD 0) safelightExit s
    let s := onReq (v.getLsbD 1) (each execResetTwin) s
    onReq (bits v 5 2 != 0) (fun s => ran s (execRatchet (BitVec.ofNat 4 (bits v 5 2)) s)) s
  else if b = R.SYS_LIFE then ran s (execLifecycleLock v s)
  else if b = R.SYS_KEYREV then each (fun t => execKeyRevoke t (BitVec.ofNat 4 (bits v 7 4)) (BitVec.ofNat 4 (bits v 3 0))) s
  else if b = R.CLK_RAMP_CTRL then
    let s := onReq (v.getLsbD 31) (each execRampStart) s
    onReq (v.getLsbD 30) (each (fun t => execRampAbort t (BitVec.ofNat 4 (bits v 3 0)))) s
  else if b = R.PWR_SLU_CFG then onBoth (fun s t => if splitLedger s ∨ ts.contains t then s else wr s t R.PWR_SLU_CFG v) s
  else if b = R.TWN_CTRL then
    let s := onReq (v.getLsbD 2) (each execWithdraw) s
    let s := onReq (v.getLsbD 1) (each execRejoin) s
    onReq (v.getLsbD 0) (fun s => ran s (execRotateNow (match tg with
      | .one t => t
      | .both => asker s) s)) s
  else s

/-- Requests of the link, array and cell words. -/
def arrAct (s : State) (ts : List Twin) (b k : Nat) (old v : W32) : State :=
  if b = R.TRB_CTRL then
    let s := onReq (v.getLsbD 0) (fun s => ts.foldl (fun s t => ringRestart s t k) s) s
    onReq (v.getLsbD 1) (fun s => ts.foldl (fun s t => probeNow s t k) s) s
  else if b = R.ARR_CTRL then
    let s := ts.foldl holdWeights s
    let s := onReq (v.getLsbD 0 && !(old.getLsbD 0)) arrayEnable s
    onReq (!(v.getLsbD 0) && old.getLsbD 0) arrayStop s
  else if b = R.ARR_CYCLE_LEN.addr then ts.foldl showRate s
  else if b = R.ARR_MAP then mapEntryWrite s k v
  else if b = R.CELL_CTRL then
    let s := onReq (v.getLsbD 0) (fun s => cellBypass s k) s
    let s := onReq (v.getLsbD 1) (fun s => cellInsert s k) s
    onReq (v.getLsbD 2) (fun s => cellReadmit s k) s
  else s

/-- Requests of the law engines and Negative. -/
def lawAct (s : State) (tg : Target) (ts : List Twin) (b k j : Nat) (v : W32) : State :=
  let bitsOf := fun (lo : Nat) => (List.range 4).filter (fun e => v.getLsbD (lo + e))
  let each := fun (l : List Nat) (f : Fin 4 → State → Out) (s : State) =>
    l.foldl (fun s e => onReq true (fun s => ran s (f (Fin.ofNat 4 e) s)) s) s
  if b = R.LAW_CTRL then
    let s := onReq (v.getLsbD 0) (lawLoad tg) s
    onReq (v.getLsbD 1) (lawSwap tg) s
  else if b = R.LAW_BLK_LAT then coefWrite tg k j v s
  else if b = R.LAW_EVENT then onReq (v.getLsbD 4) (fun s => ts.foldl (fun s t => wr s t R.LAW_FAULT 0) s) s
  else if b = R.NEG_CTRL then
    each (bitsOf 8) (execNegDisarm tg) (each (bitsOf 4) (execNegFix tg) (each (bitsOf 0) (execNegArm tg) s))
  else s

/-- Requests of the power edge; the levels that a write of TRIP_CLEAR meets at the inputs are free values. DESIGN
CHOICE, safe: log entry 262. -/
def edgeAct (s : State) (ts : List Twin) (b k : Nat) (v : W32) : State :=
  if b = R.PWM_GCFG then onReq (v.getLsbD 0) (fun s => ts.foldl dtLock s) s
  else if b = R.PWM_P_CTRL then
    let s := onReq (v.getLsbD 0) (fun s => pwmArm s k) s
    let s := onReq (v.getLsbD 1) (fun s => pwmStart s k) s
    onReq (v.getLsbD 2) (fun s => pwmStop s k) s
  else if b = R.PWM_P_FORCE then pwmForce s k (bits v 1 0) (bits v 3 2) (v.getLsbD 4)
  else if b = R.PWM_P_CFG then settlePair s k
  else if b = R.GD_DIAG_CTRL then onReq (v.getLsbD 31) (fun s => gdDiagStart s (bits v 15 0) (bits v 17 16)) s
  else if b = R.GD_GPB then
    if v.getLsbD 1 then (if v.getLsbD 2 then gpbRun s else bridgeHalt (gpbRun s))
    else bridgeHalt (ts.foldl (fun s t => wf s t R.GD_GPB_RUN 0) s)
  else if b = R.GD_P_GEN_ON then modGen s k (fun x => { x with written := true })
  else if b = R.GD_P_CFG ∨ b = R.GD_P_DRIVE then settle1 s (8 + k)
  else if b = R.TRIP_GCFG then onReq (v.getLsbD 0) (fun s => ts.foldl tripLock s) s
  else if b = R.TRIP_CLEAR then
    let x := Config.freeWord s.free
    tripClear (freeTick s) (bits v 7 0) (bits v 23 16) (bits x 7 0) (bits x 15 8)
  else if R.TRIP_IN ≤ b ∧ b ≤ R.TRIP_DSN_GROUP then settleAll s
  else s

/-- EN and INJ_EN of a converter are written (R281, R297). -/
def convCtrl (s : State) (t : Twin) (q : Nat) (v : W32) : State :=
  let en := flag s t (cf R.ADC_C_CTRL_EN q)
  let inj := flag s t (cf R.ADC_C_CTRL_INJ_EN q)
  let s := if en && !(v.getLsbD 0) then adcDisable s t q else s
  let s := if inj && !(v.getLsbD 1) then injDisable s t q else if v.getLsbD 1 then wf s t (cf R.ADC_C_CTRL_INJ_EN q) 1 else s
  if en && !(v.getLsbD 0) then s
  else if v.getLsbD 0 then evi (wf s t (cf R.ADC_C_CTRL_EN q) 1) t R.ADC_STATUS_ENABLED q
  else s

/-- Requests of the converters. DEDUCED, unsafe: log entry 133. -/
def adcAct (s : State) (ts : List Twin) (b q j : Nat) (v : W32) : State :=
  let each := fun (f : Twin → State → State) (s : State) => ts.foldl (fun s t => onReq true (f t) s) s
  if b = R.ADC_C_CTRL then
    let s := each (fun t s => convCtrl s t q v) s
    let s := onReq (v.getLsbD 2) (each (fun t s => adcSoft s t q false)) s
    onReq (v.getLsbD 3) (each (fun t s => adcSoft s t q true)) s
  else if b = R.ADC_C_RCFG ∨ b = R.ADC_C_ICFG then each (fun t s => adcTrim s t q) s
  else if b = R.ADC_C_REG ∨ b = R.ADC_C_INJ then
    let e := if b = R.ADC_C_REG then j else 16 + j
    each (fun t s => wr s t (resAddr q e) (rd s t (resAddr q e) &&& 0xFBFFFFFF#32)) s
  else if b = R.ADC_CAL_CTRL then
    let s := onReq (v.getLsbD 31) (each (fun t s => calStep s t 1)) s
    let s := onReq (v.getLsbD 30) (each (fun t s => calStep s t 2)) s
    let s := onReq (v.getLsbD 28) (each (fun t s => ran s (execSkew t s))) s
    let s := onReq (v.getLsbD 29) (each (fun t s => ran s (execCommit t true s))) s
    onReq (v.getLsbD 27) (each (fun t s => ran s (execAbort t s))) s
  else s

/-- Requests of the network, device time and the CAN buses. -/
def netAct (s : State) (ts : List Twin) (b k j : Nat) (old v : W32) : State :=
  if b = R.NET_CTRL ∨ b = R.NET_CFG then netServe s
  else if b = R.TIME_CFG then let s := selectMaster s false; setClk s (clkState s)
  else if b = R.TIME_RATE then ts.foldl (fun s t => setRate s t v) s
  else if b = R.TIME_STEP then onReq (v.getLsbD 0) timeStep s
  else if b = R.TIME_SNAP then onReq (v.getLsbD 0) (fun s => ts.foldl timeSnap s) s
  else if b = R.CAN_B_CTRL then
    let s := onReq (v.getLsbD 0 != old.getLsbD 0) (fun s => canEnable s k (v.getLsbD 0)) s
    onReq (v.getLsbD 8) (fun s => canRecover s k) s
  else if b = R.CAN_B_OBJ_CMD then
    let s := onReq (v.getLsbD 0) (fun s => txReq s k j) s
    onReq (v.getLsbD 1) (fun s => canCancel s k j) s
  else if b = R.CAN_B_HPB_CMD then
    let s := onReq (v.getLsbD 0) (fun s => txReq s k 128) s
    onReq (v.getLsbD 1) (fun s => canCancel s k 128) s
  else if b = R.CAN_B_ECP_REQ then
    onReq (v.getLsbD 31 != old.getLsbD 31) (fun s => ecpEnable s k j (v.getLsbD 31)) s
  else s

/-- A side's own channel of pair `p` has read low for 100 ms (R375). -/
def lowLong (s : State) (t : Twin) (p : Nat) : Bool :=
  !(biti s t R.SAF_OUT_RB (ownChan t p)) && decide (tabGet 0 (s.tw t).saf.lowAt p + 100000000 ≤ (s.tw t).tb.toNat)

/-- The pairs of safety outputs whose two channels have read low for 100 ms. -/
def lowPairs (s : State) : Nat :=
  (List.range 2).foldl (fun m p => if lowLong s .a p && lowLong s .b p then m + 2 ^ p else m) 0

/-- Requests of the safety, host, stream and health words; `h` is the context that writes. -/
def safAct (s : State) (ts : List Twin) (h b q : Nat) (old v : W32) : State :=
  if b = R.SAF_CTRL then
    let s := onReq (bits v 3 0 != 0) (fun s => safAck s (bits v 3 0)) s
    let s := onReq (v.getLsbD 8) safAckInt s
    onReq (v.getLsbD 9) (fun s => safAckOut s (lowPairs s)) s
  else if b = R.SAF_CONFIRM then safetyConfirm s h (bits v 15 0)
  else if b = R.HST_H_CFG then onReq (old.getLsbD 31 && !(v.getLsbD 31)) (fun s => say (lapse s q) Rc.OK) s
  else if b = R.STQ_Q_CFG then
    let s := onReq (v.getLsbD 31 && !(old.getLsbD 31)) (fun s => ts.foldl (fun s t => queueEnable s t q) s) s
    onReq (!(v.getLsbD 31) && old.getLsbD 31) (fun s => ts.foldl (fun s t => queueDisable s t q) s) s
  else if b = R.STQ_Q_MARKS then ts.foldl (fun s t => putQueue s t q (queue s t q)) s
  else if b = R.HLT_CTRL then
    onReq (v.getLsbD 0) (fun s => ts.foldl (fun s t => contactSheet (freeTick s) t (Config.healthMeas s.free)) s) s
  else s

/-- Requests of the drive. EN = 1 of a position decoder starts its values anew (R233, R236). -/
def drvAct (s : State) (tg : Target) (ts : List Twin) (b d : Nat) (old v : W32) : State :=
  let rise := v.getLsbD 31 && !(old.getLsbD 31)
  if b = R.DRV_CTRL then
    let s := onReq true (fun s => driveEnable tg s (v.getLsbD 0)) s
    let s := onReq (v.getLsbD 1) (discharge tg) s
    onReq (v.getLsbD 2) (drvClear tg) s
  else if b = R.DRV_CFG then onReq (ts.contains (edgeTwin s)) (fun s => topoSet s (bits old 2 0) (bits v 2 0)) s
  else if b = R.DRV_D_CTRL then onReq true (fun s => channelRun tg s d (v.getLsbD 0)) s
  else if b = R.DRV_D_ASC_MARGIN ∨ b = R.DRV_D_ASC_VLIM ∨ b = R.DRV_D_PSIM then ts.foldl (fun s t => showWasc s t d) s
  else if b = R.DRV_ENC_CFG then
    let s := ts.foldl (fun s t => wf s t R.DRV_ENC_STATUS_ACTIVE (bit (v.getLsbD 31))) s
    onReq rise (fun s => ts.foldl (fun s t => modPos (wf s t R.DRV_ENC_STATUS_INDEXED 0) t (fun p => { p with
      now := { p.now with counted := false, indexed := false }
      primed := [] })) s) s
  else if b = R.DRV_HALL_CFG then
    let s := onReq rise (fun s => ts.foldl (fun s t => modPos s t (fun p => { p with
      now := { p.now with changes := 0 }
      primed := [] })) s) s
    onReq rise (fun s => ts.foldl hallStart s) s
  else s

/-- What a stored word starts. -/
def act (s : State) (tg : Target) (ts : List Twin) (h : Nat) (r : RegRow) (a : Nat) (old v : W32) : State :=
  let ix := rowIdx r.dims (a - r.base)
  let k := ix.getD 0 0
  let j := ix.getD 1 0
  match a / 0x10000 with
  | 0x0 | 0x1 | 0x170 => sysAct s tg ts r.base old v
  | 0x10 | 0x20 | 0x30 => arrAct s ts r.base k old v
  | 0x100 | 0x101 | 0x102 => edgeAct s ts r.base k v
  | 0x110 => adcAct s ts r.base k j v
  | 0x120 | 0x121 | 0x130 | 0x131 => netAct s ts r.base k j old v
  | 0x140 | 0x150 | 0x160 | 0x190 => safAct s ts h r.base k old v
  | 0x180 => drvAct s tg ts r.base k old v
  | x => if 0x40 ≤ x ∧ x < 0x100 then lawAct s tg ts r.base k j v else s

/-- What a refused write leaves: the state as it was, with what the refusal itself records (R182, R380, R430's
PWR_SLU_LAST, the calibration result), and EN = 0 written together with a RECOVER that it refuses (R358). DEDUCED, unsafe: log entry 191. -/
def refused (s s1 : State) (b : Nat) : State :=
  let ended := fun (k : Nat) => flag s (netTwin s) (bfld R.CAN_B_CTRL_EN k) && !(flag s1 (netTwin s1) (bfld R.CAN_B_CTRL_EN k))
  if s1.report = Rc.OK ∨ (b = R.CAN_B_CTRL ∧ (ended 0 ∨ ended 1)) then s1
  else if b = R.TRIP_CLEAR ∨ b = R.LAW_CTRL ∨ b = R.ADC_CAL_CTRL ∨ b = R.SAF_CONFIRM then s1
  else say (onBoth (fun s t => wr s t R.PWR_SLU_LAST (rd s1 t R.PWR_SLU_LAST)) s) s1.report

/-- Whether a twin takes the write (R412); SYS_CTRL and TWN_CTRL reach a WITHDRAWN twin (R148, R433). -/
def reaches (s : State) (t : Twin) (b : Nat) : Bool :=
  !(absent s t) || (twState s t == tsWithdrawn && (b == R.SYS_CTRL || b == R.TWN_CTRL))

/-- A register write by context `h` (R11, R407, R412, R426, R483, R484): the result code is reported. `f` gives the value
for each twin, which differ where a MODIFY finds different old values (R409). -/
def writeEach (s : State) (tg : Target) (h a : Nat) (f : Twin → W32) : State :=
  let ts := writeTwins s tg
  let v := f (ts.headD .a)
  match findRow a with
  | none => say s (firstCode [(!(inBlocks a), Rc.ADDR_INVALID), (ts.isEmpty || ts.any (absent s), Rc.TWIN_ABSENT)])
  | some r =>
    let oneOnly := agreedWrite s r a v && (match tg with
      | .one _ => true
      | .both => false)
    let bothBad := oneTwinWord r.base v && (match tg with
      | .one _ => false
      | .both => true)
    let ownEn := a == ha R.HST_H_CFG h && (rd s (asker s) a).getLsbD 31 && !(v.getLsbD 31)
    let code := firstCode [(oneOnly, Rc.AGREED_ONLY), (bothBad || ownEn, Rc.PARAM_ORDER),
      (ts.isEmpty || ts.any (fun t => !(reaches s t r.base)), Rc.TWIN_ABSENT)]
    let code2 := twinsCode ts (fun t => judge s t r a (f t))
    if code ≠ Rc.OK then say s code
    else if code2 ≠ Rc.OK then say s code2
    else
      let old := rd s (ts.headD .a) a
      let s1 := ts.foldl (fun s t => storeWord r a (f t) s t) (say s Rc.OK)
      refused s (act s1 tg ts h r a old v) r.base

/-- A write of one value. -/
def writeWord (s : State) (tg : Target) (h a : Nat) (v : W32) : State := writeEach s tg h a (fun _ => v)

/-- REGISTER_WRITE (R483): a write to a register that has no row of its own, in the name of the context that owns
SAFETY. DESIGN CHOICE, unsafe: log entry 190. -/
def execRegisterWrite (tg : Target) (addr v : W32) (s : State) : Out :=
  .next (writeWord s tg ((groupOwner s 4).getD 0) addr.toNat v)

end Sys2Proof.Machine
end

