-- ==== Sys2Proof/Machine/Cells.lean ====
section
/-! DEFINITION. Meanings of 03_tributary_link for the cells (R81 to R125, R127). A cell is named by its chain and its
position on twin A's ring. -/

namespace Sys2Proof.Machine

/-- A cell of the array. -/
def cell (s : State) (c p : Nat) : CellSt := tabGet {} s.cells (16 * c + p)

/-- Change a cell. -/
def modCell (s : State) (c p : Nat) (f : CellSt → CellSt) : State :=
  { s with cells := tabMod {} s.cells (16 * c + p) f }

/-- FAULT of the status word (R97). -/
def cellFault (x : CellSt) : Bool :=
  x.lostCmd || x.desat || x.uvlo || x.isoFault || x.overTemp || x.bypFail || x.ownFault || x.noLockRun

/-- Side U is wrapped: down, and known to face a cell (R120). -/
def sideWrapU (x : CellSt) : Bool := x.downU && x.endU == some false

/-- Side D is wrapped. -/
def sideWrapD (x : CellSt) : Bool := x.downD && x.endD == some false

/-- The status word (R96). -/
def cellStatus (x : CellSt) (portA : Bool) (m : CellMeas) : Nat :=
  let other := if portA then x.stB else x.stA
  bit (cellFault x) * 2 ^ 31 + bit x.closed * 2 ^ 30 + bit x.lostCmd * 2 ^ 29 + bit x.timeLock * 2 ^ 28
    + bit x.cfg.isSome * 2 ^ 27 + bit x.desat * 2 ^ 26 + bit x.uvlo * 2 ^ 25 + bit x.isoFault * 2 ^ 24
    + bit x.overTemp * 2 ^ 23 + bit x.bypFail * 2 ^ 22 + bit m.invalid * 2 ^ 21 + bit x.mismatch * 2 ^ 20
    + bit x.reject * 2 ^ 19 + bit (other != 3) * 2 ^ 18 + bit (sideWrapU x) * 2 ^ 17 + bit (sideWrapD x) * 2 ^ 16
    + x.mode * 4096 + x.legs * 256 + m.badge.toNat

/-- A signed number saturated to ±32 767 as 16 bits. -/
def sat16 (v : Int) : Nat := ((max (-32767) (min 32767 v)) % 65536).toNat

/-- The 46 uplink bytes of a CYCLE slot (R96). -/
def cycleUp (x : CellSt) (portA : Bool) (m : CellMeas) : List Byte :=
  let gen := (x.cfg.map (fun g => g.gen.toNat)).getD 0
  beBytes 4 m.vcap.toNat ++ beBytes 4 m.iarm.toNat ++ beBytes 4 m.temp1.toNat ++ beBytes 4 m.temp2.toNat
    ++ beBytes 4 (cellStatus x portA m) ++ beBytes 2 x.echoSeq ++ beBytes 1 x.echoSrc ++ [m.gddiag] ++ beBytes 2 (x.late % 65536)
    ++ beBytes 2 ((if portA then x.crcA else x.crcB) % 65536) ++ beBytes 2 (x.miss % 65536)
    ++ beBytes 2 (sat16 (if portA then x.ofsA else x.ofsB))
    ++ beBytes 4 ((if portA then x.linkA else x.linkB) % 4294967296).toNat
    ++ beBytes 4 m.iiso.toNat ++ beBytes 4 m.aux.toNat ++ beBytes 2 (gen % 65536)

/-- The 46 uplink bytes of a CONFIG slot: the identity record (R98). -/
def configUp (x : CellSt) (portA : Bool) (m : CellMeas) : List Byte :=
  let gen := (x.cfg.map (fun g => g.gen.toNat)).getD 0
  beBytes 4 x.ident.builderId.toNat ++ beBytes 8 x.ident.serial.toNat ++ beBytes 4 x.ident.fw.toNat
    ++ beBytes 4 (cellStatus x portA m) ++ beBytes 4 gen ++ beBytes 4 x.ident.caps.toNat
    ++ beBytes 2 (sat16 (if portA then x.ofsA else x.ofsB)) ++ beBytes 2 0
    ++ beBytes 4 ((if portA then x.linkA else x.linkB) % 4294967296).toNat
    ++ beBytes 10 m.own.toNat

/-- What a frame that is not wrapped and has a correct HCRC shows of the cell's sides; a side that faces the SK192 is
never down (R120). -/
def learnEnds (x : CellSt) (portA : Bool) (hops n : Nat) : CellSt :=
  let first := hops == 0
  let last := hops + 1 == n
  let u := if portA then first else last
  let d := if portA then last else first
  { x with endU := some u, endD := some d, downU := x.downU && !u, downD := x.downD && !d }

/-- The cell's own slot index on a port (R109), or HOPS_in before it is configured. DEDUCED, unsafe: log entry 242. -/
def ownSlot (x : CellSt) (portA : Bool) (hops n : Nat) : Nat :=
  match x.cfg with
  | some g => if portA then g.cpos else n - 1 - g.cpos
  | none => hops

/-- The frame a cell sends on: CORR, HOPS, HCRC and its record (R102), and PATH where it wraps (R121). -/
def forwarded (x : CellSt) (portA wraps : Bool) (r : Nat) (m : CellMeas) (b : List Byte) : List Byte :=
  let was := Frame.wrapped b
  let hops := Frame.get b 23 1
  let link := if portA then x.linkA else x.linkB
  let corr := ((Frame.corr b + link + r) % 281474976710656).toNat
  let h1 := Frame.put (b.take 30) 13 (beBytes 6 corr)
  let h2 := if was then h1 else Frame.put h1 23 (beBytes 1 (hops + 1))
  let pos := ownSlot x portA hops (Frame.nslots b)
  let h3 := if wraps then Frame.put h2 29 (beBytes 1 (128 + pos % 16)) else h2
  let out := Frame.rehead b h3
  if !was && Frame.hcrcOk b && decide (hops < Frame.nslots b) then
    let up := if Frame.get b 0 1 = 1 then cycleUp x portA m else configUp x portA m
    Frame.put out (64 + 80 * hops) (Frame.sealUp hops up)
  else out

/-- The state of one port. -/
def portSt (x : CellSt) (portA : Bool) : Nat := if portA then x.stA else x.stB

/-- What a transmitter sends: the frame with the places of its K30.7 characters, or idle (R85, R86). -/
def sendOn (x : CellSt) (onA : Bool) (out : List Byte) (bad : List Nat) : CellSt :=
  if onA then { x with outA := out, badA := bad } else { x with outB := out, badB := bad }

/-- CELL_FRAME_FORWARD (R101, R102, R120, R121): the frame leaves on the transmitter its traffic feeds, or wrapped on
the other one while that side is down. A transmitter whose side is wrapped carries the other port's traffic alone; a
wrapped frame is never wrapped again, and idle goes out in its place; with both sides down nothing is forwarded. `bad`
lists the characters received in error, which go on as K30.7 (R86). `r` is the residence in 2^-16 ns.
DESIGN CHOICE, safe: log entry 97. -/
def execCellFrameForward (c : Fin 12) (p : Fin 16) (portA : Bool) (bytes : List Byte) (bad : List Nat) (r : BitVec 24)
    (m : CellMeas) (s : State) : Out :=
  let x := cell s c.val p.val
  if x.dead || portSt x portA != 3 then .next s else
  let was := Frame.wrapped bytes
  let x1 := if !was && Frame.hcrcOk bytes then learnEnds x portA (Frame.get bytes 23 1) (Frame.nslots bytes) else x
  let turned := if portA then sideWrapD x1 else sideWrapU x1
  let taken := if portA then sideWrapU x1 else sideWrapD x1
  .next (modCell s c.val p.val (fun _ =>
    if taken && turned then sendOn (sendOn x1 true [] []) false [] []
    else if taken then x1
    else if turned && was then sendOn x1 (!portA) [] []
    else sendOn x1 (portA != turned) (forwarded x1 portA turned r.toNat m bytes) bad))

/-- The events of a downlink area, up to the first without VALID (R95). -/
def slotEvents (d : List Byte) : List (Nat × Nat) :=
  ((List.range 4).map (fun i => (Frame.get d (6 * i) 5, Frame.get d (6 * i + 5) 1))).takeWhile (fun e => nbit e.2 3)
    |>.map (fun e => (e.1, e.2 / 16))

/-- A leg state that turns on both switches of one leg (R115). -/
def bothOn (st : Nat) : Bool := (nbit st 3 && nbit st 2) || (nbit st 1 && nbit st 0)

/-- The checks of R109 on a copy that is not wrapped, the both-on legs of R115 apart. DEDUCED, unsafe: log entry 91. -/
def copyChecks (x : CellSt) (c : Nat) (portA ok : Bool) (b : List Byte) : Bool :=
  let n := Frame.nslots b
  let hops := Frame.get b 23 1
  let type := Frame.get b 0 1
  let src := Frame.get b 1 1
  let own := match x.cfg with
    | some g => hops == (if portA then g.cpos else n - 1 - g.cpos) && src / 16 == g.chain
    | none => src / 16 == c
  ok && Frame.lengthOk b && Frame.hcrcOk b && Frame.fcrcOk b && (type == 1 || type == 2) && own
    && src % 2 == bit portA && Frame.get b 7 1 % 2 == src % 2
    && seqJudge (if portA then x.seqA else x.seqB) (Frame.get b 2 2) == 1

/-- A copy whose slot holds an event that turns on both switches of one leg (R115). -/
def tornCopy (b : List Byte) : Bool :=
  Frame.get b 0 1 == 1 && (slotEvents (Frame.downlink b (Frame.get b 23 1))).any (fun e => bothOn e.2)

/-- Whether a copy that is not wrapped is valid (R109, R115). Before a cell is configured its chain is the one it is
wired to. DEDUCED, unsafe: log entry 243. -/
def copyValid (x : CellSt) (c : Nat) (portA ok : Bool) (b : List Byte) : Bool :=
  copyChecks x c portA ok b && !(tornCopy b)

/-- The cell's own time at a reading of its oscillator (R107), in 1/16 ns. -/
def ownTime (x : CellSt) (t : Nat) : Nat :=
  (((t : Int) + x.clk.adj + x.clk.drift * tribDiff t x.clk.since / 4294967296) % 1099511627776).toNat

/-- The offset of the cell's own time at the timing reference from t_arr (R107), in 1/16 ns.
DEDUCED, unsafe: log entry 90. -/
def arrivalOffset (x : CellSt) (portA : Bool) (b : List Byte) (ref : Nat) : Int :=
  let link := if portA then x.linkA else x.linkB
  let arr : Int := Frame.get b 8 5 + (Frame.corr b + link) / 4096
  tribDiff (ownTime x ref) (arr % 1099511627776).toNat

/-- The discipline removes an offset measured at oscillator reading `ref` and corrects the rate (R107). DESIGN
CHOICE, safe: log entry 244. -/
def trimTime (x : CellSt) (ref : Nat) (ofs : Int) : CellSt :=
  let dt := tribDiff ref x.clk.since
  { x with clk := ⟨x.clk.adj + x.clk.drift * dt / 4294967296 - ofs, Config.cellRate x.clk.drift ofs dt, ref⟩ }

/-- Count an offset towards TIME_LOCK (R92, R108): `n` in a row within ±1 ns set it, four beyond ±2 ns clear it, and
a cell in RUN that clears it faults (R97). Frames count once both ports hold a probe result or the cell is
configured. DEDUCED, unsafe: log entry 245. -/
def lockStep (x : CellSt) (ofs : Int) (n : Nat) : CellSt :=
  let counts := x.cfg.isSome || (x.probedA && x.probedB)
  let near := decide (ofs.natAbs ≤ 16) && counts
  let lk := if near then x.locking + 1 else 0
  let ls := if decide (32 < ofs.natAbs) && counts then x.loose + 1 else 0
  let set := decide (n ≤ lk)
  let lock := set || (x.timeLock && decide (ls < 4))
  { x with
    locking := min lk 16, loose := min ls 4, fastLock := x.fastLock && !set, timeLock := lock
    noLockRun := x.noLockRun || (x.timeLock && !lock && x.mode == 1) }

/-- What a valid copy leaves in the cell before its claim is judged: its sequence number and the reported offset; after
electrical idle the first one steps the time, and each counts towards TIME_LOCK (R92). -/
def heard (x : CellSt) (portA : Bool) (b : List Byte) (ref : Nat) : CellSt × Heard :=
  let ofs := arrivalOffset x portA b ref
  let seq := some (Frame.get b 2 2)
  let y := if portA then { x with seqA := seq, ofsA := ofs } else { x with seqB := seq, ofsB := ofs }
  let z := if x.stepNext then { trimTime y ref ofs with stepNext := false } else y
  (if x.fastLock then lockStep z ofs 4 else z, ⟨ofs, if x.stepNext then 0 else ofs, ref, x.fastLock⟩)

/-- An accepted frame counts towards TIME_LOCK, unless it has in the fast lock after electrical idle, where each valid frame
counts (R92), and disciplines the cell's time (R107, R108). DEDUCED, unsafe: log entry 245. -/
def takeTime (x : CellSt) (h : Heard) : CellSt :=
  trimTime (if h.counted then x else lockStep x h.ofs (if x.fastLock then 4 else 16)) h.ref h.trim

/-- A CONFIG copy that passed the judgement (R124): adopted, refused in RUN with EVENT_REJECT, or left. `rate` is the
rate in use on the chain. DEDUCED, unsafe: log entry 85. -/
def judgeConfig (x : CellSt) (portA : Bool) (b : List Byte) (rate : Nat) (h : Heard) : CellSt :=
  let n := Frame.nslots b
  let hops := Frame.get b 23 1
  let d := Frame.downlink b hops
  let g : CellCfg := ⟨Frame.get d 0 2, Frame.get d 2 1, Frame.get d 3 1, Frame.get d 4 2, Frame.get d 6 1, Frame.get d 7 1,
    (BitVec.ofNat 32 (Frame.get d 8 4)).toInt, (BitVec.ofNat 32 (Frame.get d 12 4)).toInt,
    BitVec.ofNat 32 (Frame.get d 16 4), BitVec.ofNat 32 (Frame.get d 28 4)⟩
  let fits := decide (hops < n) && g.cpos == (if portA then hops else n - 1 - hops) && g.rate == rate && nbit (x.ident.caps.toNat / 2 ^ 28) g.rate
  let other := match x.cfg with
    | some o => o.gen != g.gen
    | none => false
  if !fits then x
  else if other && x.mode == 1 then { x with reject := true }
  else
    takeTime { x with
      cfg := some g, nslots := n, w := none
      linkA := if x.probedA then x.linkA else Frame.get d 20 4
      linkB := if x.probedB then x.linkB else Frame.get d 24 4 } h

/-- A CYCLE copy that passed the judgement, as a candidate (R95, R115); the number of its events already past. -/
def candidate (portA : Bool) (b : List Byte) (now : Nat) (h : Heard) : Copy × Nat :=
  let d := Frame.downlink b (Frame.get b 23 1)
  let mw := Frame.get d 28 4
  let mode := mw / 2 ^ 28
  let flags := Frame.get b 21 1
  let apply := Frame.get b 24 5
  let tcyc := Frame.get b 19 2 % 512 * 4000
  let evs := slotEvents d
  let past := evs.filter (fun e => decide (tribDiff e.1 now < 0))
  let evs := evs.filter (fun e => decide (0 ≤ tribDiff e.1 now))
  let good := evs.filter (fun e => decide (0 ≤ tribDiff e.1 apply) && decide (tribDiff e.1 apply < tcyc))
  (⟨BitVec.ofNat 32 (Frame.get b 4 4), Frame.get b 2 2, portA, nbit flags 7, nbit flags 6, apply, tcyc,
    if mode ≤ 2 then mode else 0, mw / 2 ^ 24 % 16, nbit mw 23, nbit mw 22,
    decide (2 < mode) || good.length != evs.length, h, good, BitVec.ofNat 32 (Frame.get d 24 4)⟩, past.length)

/-- A CYCLE copy at or above the highest claim: kept as candidate where its APPLY fits (R109); one whose tail pad comes
exactly at the deadline is in time (R119). -/
def judgeCycle (x : CellSt) (portA : Bool) (b : List Byte) (now : Nat) (h : Heard) : CellSt :=
  match x.cfg with
  | none => x
  | some g =>
    let r := candidate portA b now h
    let y := r.1
    let d := tribDiff y.apply now
    let fits := (x.w == none || x.w == some y.apply) && decide ((g.guard * 160 : Nat) ≤ d) && decide (d ≤ (2 * y.tcyc : Nat))
    let x := { x with late := x.late + r.2 }
    if !fits then x
    else if portA then { x with candA := some y, w := some y.apply }
    else { x with candB := some y, w := some y.apply }

/-- A copy that failed a check counts in CRCERR of its port; one refused for a both-on leg alone also sets EVENT_REJECT
(R109, R115). -/
def refuseCopy (x : CellSt) (portA torn : Bool) : CellSt :=
  let y := if portA then { x with crcA := x.crcA + 1 } else { x with crcB := x.crcB + 1 }
  { y with reject := x.reject || torn }

/-- CELL_COPY_JUDGE (R109, R107, R115, R124): at the tail pad of a copy on a port. `ok` says that framing is complete
and no code error or K30.7 came in the frame; `ref` and `now` are the readings of the cell's oscillator at the timing
reference and at the tail pad. -/
def execCellCopyJudge (c : Fin 12) (p : Fin 16) (portA : Bool) (bytes : List Byte) (ok : Bool) (ref now : BitVec 40)
    (s : State) : Out :=
  let x := cell s c.val p.val
  if x.dead || Frame.wrapped bytes then .next s else
  let rate := rf s (if portA then .a else .b) (fo R.TRB_CFG_RATE (4096 * c.val))
  .next (modCell s c.val p.val (fun x =>
    if !(copyValid x c.val portA ok bytes) then refuseCopy x portA (copyChecks x c.val portA ok bytes)
    else
      let h := heard x portA bytes ref.toNat
      let claim := BitVec.ofNat 32 (Frame.get bytes 4 4)
      if claim.toNat < x.highest.toNat then h.1
      else
        let y := { h.1 with highest := claim }
        if Frame.get bytes 0 1 = 2 then judgeConfig y portA bytes rate h.2
        else judgeCycle y portA bytes (ownTime y now.toNat) h.2))

/-- The candidate that sets the window: of those at or above the highest claim, the one with the higher claim (R110). -/
def chosen (x : CellSt) : Option Copy :=
  let fit := fun (o : Option Copy) => o.filter (fun y => decide (x.highest.toNat ≤ y.claim.toNat))
  match fit x.candA, fit x.candB with
  | some a, some b => if b.claim.toNat < a.claim.toNat then some a else some b
  | some a, none => some a
  | none, o => o

/-- A window repeated one array cycle later (R111), blocked where BLOCK_ALL came with the HOLD (R113). DEDUCED,
unsafe: log entry 246. -/
def repeatWin (w : CWin) (blocked : Bool) : CWin :=
  let sh := fun t => (t + w.tcyc) % 1099511627776
  let mode := if blocked && w.mode != 2 then 0 else w.mode
  { w with
    apply := sh w.apply, faultReset := false, reject := false, mode := mode
    events := if blocked then [] else w.events.map (fun e => (sh e.1, e.2)), isoBlock := w.isoBlock || blocked }

/-- The window a copy without HOLD sets; BLOCK_ALL makes it BLOCK, or BYPASS where its MODE is BYPASS, with the
isolation stage blocked (R113). -/
def copyWin (y : Copy) : CWin :=
  let mode := if y.blockAll && y.mode != 2 then 0 else y.mode
  ⟨y.apply, y.tcyc, mode, y.start, y.isoBlock || y.blockAll, y.faultReset, y.reject,
    if y.blockAll then [] else y.events, y.iso, false⟩

/-- The last window decided. -/
def lastWin (x : CellSt) : Option CWin := match x.win with
  | some w => some w
  | none => x.cur

/-- No copy for the window (R112): m counts; up to N the window repeats, at N + 1 the cell is to turn off, bypass and
set LOST_COMMAND, and W becomes unknown. `blocked`: a ninth HOLD copy carries BLOCK_ALL (R113). -/
def commandLoss (x : CellSt) (blocked : Bool) : CellSt :=
  match lastWin x with
  | none => x
  | some w =>
    let m := x.m + 1
    let n := (x.cfg.map (·.loss)).getD 1
    let r := repeatWin w blocked
    let lost := decide (n < m)
    let win := if lost then { r with mode := 2, events := [], isoBlock := true, lost := decide (m = n + 1) } else r
    { x with
      m := m, miss := x.miss + 1, win := some win, echoSrc := x.echoSrc / 16 * 16 + min m 9
      w := if lost then none else x.w.map (fun v => (v + w.tcyc) % 1099511627776) }

/-- A chosen copy sets the window (R110, R111, R113). A ninth HOLD copy, whose window counts as one without a copy, is an accepted
frame all the same: it disciplines the time. DEDUCED, unsafe: log entry 246. -/
def acceptCopy (x : CellSt) (y : Copy) : CellSt :=
  let x := takeTime x y.heard
  let next := (y.apply + y.tcyc) % 1099511627776
  let src := bit y.portA * 128 + bit y.hold * 64
  if y.hold then
    if 8 ≤ x.holds then { commandLoss x y.blockAll with holds := x.holds + 1 }
    else
      match lastWin x with
      | none => { x with holds := x.holds + 1, w := some next, echoSeq := y.seq, echoSrc := src + min x.m 9 }
      | some w =>
        { x with
          holds := x.holds + 1, w := some next, echoSeq := y.seq, echoSrc := src + min x.m 9
          win := some { repeatWin w y.blockAll with apply := y.apply } }
  else
    { x with
      m := 0, holds := 0, heardCopy := true, w := some next, echoSeq := y.seq, echoSrc := src
      win := some (copyWin y) }

/-- The state in which R89 makes a cell safe: each port in electrical idle entered by K28.3 or out of sync, and one of
them in idle. -/
def idleNow (x : CellSt) : Bool := (x.k3A || x.stA != 3) && (x.k3B || x.stB != 3) && (x.k3A || x.k3B)

/-- CELL_ACCEPTANCE_DEADLINE (R110 to R113, R119): the window is decided. A window without a copy ends a row of HOLD
windows; in electrical idle the loss count is suspended (R89), and a cell that has had no window since power-up waits for
its first copy. -/
def execCellAcceptanceDeadline (c : Fin 12) (p : Fin 16) (s : State) : Out :=
  .next (modCell s c.val p.val (fun x =>
    if x.dead then x
    else
      let r := match chosen x with
        | some y => acceptCopy x y
        | none => if idleNow x then x else { commandLoss x false with holds := 0 }
      { r with candA := none, candB := none }))

/-- The latched bits whose causes have gone clear in a window with FAULT_RESET (R97, R487). `gone` gives, from bit 0,
whether the cause of DESAT, UVLO, ISO_FAULT, OVERTEMP and a fault of the cell's own has gone. -/
def faultReset (x : CellSt) (gone : BitVec 5) : CellSt :=
  let g := fun i => gone.getLsbD i
  { x with
    lostCmd := x.lostCmd && !x.heardCopy, desat := x.desat && !(g 0), uvlo := x.uvlo && !(g 1)
    isoFault := x.isoFault && !(g 2), overTemp := x.overTemp && !(g 3), ownFault := x.ownFault && !(g 4)
    bypFail := x.bypFail && !x.closed }

/-- A mode applied at APPLY (R114, R117): BYPASS turns every switch off and closes the bypass; BLOCK and RUN open it;
entry to RUN sets the legs to START, and a window that continues RUN moves none and checks START. -/
def applyMode (x : CellSt) (mode : Nat) (w : CWin) : CellSt :=
  if mode = 1 then
    let cont := x.mode == 1
    { x with
      mode := 1, bypass := false, closed := false, legs := if cont then x.legs else w.start
      mismatch := cont && w.start != x.legs, todo := w.events }
  else if mode = 2 then
    { x with mode := 2, legs := 0, bypass := true, mismatch := false, todo := [] }
  else { x with mode := 0, legs := 0, bypass := false, closed := false, mismatch := false, todo := [] }

/-- The first boundary of the isolation periods at or after `t` (R118); PERIOD is in units of 62.5 ns (R53). -/
def isoEdge (x : CellSt) (t : Nat) : Nat :=
  let per := (x.iso.toNat / 2 ^ 22) * 1000
  let d := (tribDiff t x.isoT0).toNat
  if per = 0 then t else (x.isoT0 + (d + per - 1) / per * per) % 1099511627776

/-- The isolation stage at time `t`: a command whose boundary has come is in force (R118). -/
def isoReach (x : CellSt) (t : Nat) : CellSt :=
  match x.isoNext with
  | some (b, v) => if 0 ≤ tribDiff t b then { x with iso := v, isoT0 := b, isoNext := none } else x
  | none => x

/-- The isolation stage at APPLY (R118): it stops at once; after a block the first period starts at this APPLY; else the
command waits for the first boundary at or after APPLY, and the boundaries stay phase-continuous. -/
def isoApply (x : CellSt) (w : CWin) : CellSt :=
  if w.isoBlock then { x with isoBlocked := true, isoNext := none }
  else if x.isoBlocked then { x with isoBlocked := false, iso := w.iso, isoT0 := w.apply, isoNext := none }
  else
    let y := isoReach x w.apply
    let b := isoEdge y w.apply
    if b = w.apply then { y with iso := w.iso, isoT0 := b, isoNext := none } else { y with isoNext := some (b, w.iso) }

/-- CELL_WINDOW_APPLY (R112, R114, R117, R118, R97): the decided window applies; in electrical idle the cell stays as
R89 leaves it. DEDUCED, unsafe: log entry 247. -/
def execCellWindowApply (c : Fin 12) (p : Fin 16) (gone : BitVec 5) (s : State) : Out :=
  .next (modCell s c.val p.val (fun x =>
    match x.win with
    | none => x
    | some w =>
      if x.dead then x else
      if idleNow x then { x with cur := some w, win := none } else
      let x := if w.lost then { x with lostCmd := true, heardCopy := false } else x
      let x := if w.faultReset then faultReset x gone else x
      let x := { x with noLockRun := w.mode == 1 && !x.timeLock, reject := w.reject, cur := some w, win := none }
      let x := applyMode x (if cellFault x then 2 else w.mode) w
      isoApply x w))

/-- CELL_EVENT_EXECUTE (R116): the next event of the window moves the legs. -/
def execCellEventExecute (c : Fin 12) (p : Fin 16) (s : State) : Out :=
  .next (modCell s c.val p.val (fun x =>
    match x.todo with
    | [] => x
    | e :: r => if x.mode = 1 ∧ !x.dead then { x with legs := e.2, todo := r } else x))

/-- CELL_BYPASS_TIMEOUT (R117): closure not confirmed within BYP_TIME. -/
def execCellBypassTimeout (c : Fin 12) (p : Fin 16) (s : State) : Out :=
  .next (modCell s c.val p.val (fun x => if x.bypass && !x.closed then { x with bypFail := true } else x))

/-- CELL_BYPASS_CLOSED (R117): feedback confirms the closure. -/
def execCellBypassClosed (c : Fin 12) (p : Fin 16) (s : State) : Out :=
  .next (modCell s c.val p.val (fun x => if x.bypass then { x with closed := true } else x))

/-- CELL_OWN_FAULT (R97): 0 DESAT, 1 UVLO, 2 ISO_FAULT, 3 OVERTEMP, 4 another fault the cell cannot ride through. A
short circuit turns the switches off. -/
def execCellOwnFault (c : Fin 12) (p : Fin 16) (kind : Fin 5) (s : State) : Out :=
  .next (modCell s c.val p.val (fun x =>
    match kind.val with
    | 0 => { x with desat := true, legs := 0, todo := [] }
    | 1 => { x with uvlo := true }
    | 2 => { x with isoFault := true }
    | 3 => { x with overTemp := true }
    | _ => { x with ownFault := true }))

/-- Put a port into a state; `k3` says that it entered electrical idle by K28.3. -/
def setPort (x : CellSt) (portA : Bool) (st : Nat) (k3 : Bool) : CellSt :=
  if portA then { x with stA := st, k3A := k3 } else { x with stB := st, k3B := k3 }

/-- CELL_SYNC_ACQUIRED (R86, R90, R127): the receiver is in sync; its sequence window restarts. -/
def execCellSyncAcquired (c : Fin 12) (p : Fin 16) (portA : Bool) (s : State) : Out :=
  .next (modCell s c.val p.val (fun x =>
    if portSt x portA = 2 ∨ portSt x portA = 4 then
      let y := setPort x portA 3 false
      if portA then { y with seqA := none, everA := true } else { y with seqB := none, everB := true }
    else x))

/-- The cell is safe in electrical idle (R89): switches off, bypass closed, isolation stage blocked. Its windows, its
loss count, its configuration and its delays stay. -/
def idleSafe (x : CellSt) : CellSt :=
  if idleNow x then
    { x with mode := 2, legs := 0, todo := [], bypass := true, isoBlocked := true, isoNext := none }
  else x

/-- CELL_SYNC_LOST (R86, R127): SYNC to LOS. -/
def execCellSyncLost (c : Fin 12) (p : Fin 16) (portA : Bool) (s : State) : Out :=
  .next (modCell s c.val p.val (fun x => if portSt x portA = 3 then idleSafe (setPort x portA 4 false) else x))

/-- CELL_EIDLE_ENTRY (R88, R89): K28.3 × 4 received and forwarded; the port enters electrical idle. -/
def execCellEidleEntry (c : Fin 12) (p : Fin 16) (portA : Bool) (s : State) : Out :=
  .next (modCell s c.val p.val (fun x => if portSt x portA = 3 then idleSafe (setPort x portA 1 true) else x))

/-- CELL_TIME_LOCK_CLEAR (R89): 1 ms after the last frame an idle cell clears TIME_LOCK. -/
def execCellTimeLockClear (c : Fin 12) (p : Fin 16) (s : State) : Out :=
  .next (modCell s c.val p.val (fun x =>
    if x.stA != 3 && x.stB != 3 && (x.k3A || x.k3B) then { x with timeLock := false, locking := 0, loose := 0 } else x))

/-- CELL_EIDLE_EXIT (R90, R92, R127): signal is detected; the port of a powered cell leaves EIDLE or OFF for TRAIN. A
cell whose other port is not in sync so leaves electrical idle: its time steps to the first valid frame, and four
frames lock it. DEDUCED, unsafe: log entry 248. -/
def execCellEidleExit (c : Fin 12) (p : Fin 16) (portA : Bool) (s : State) : Out :=
  .next (modCell s c.val p.val (fun x =>
    if portSt x portA = 1 then
      let y := setPort x portA 2 false
      if portSt x (!portA) = 3 then y else { y with stepNext := true, fastLock := true, locking := 0, loose := 0 }
    else if portSt x portA = 0 ∧ x.powered then setPort x portA 2 false
    else x))

/-- CELL_LOS_IDLE (R127): LOS without signal for 10 ms. -/
def execCellLosIdle (c : Fin 12) (p : Fin 16) (portA : Bool) (s : State) : Out :=
  .next (modCell s c.val p.val (fun x => if portSt x portA = 4 then setPort x portA 1 false else x))

/-- CELL_SIDE_DOWN (R120): the side's receiver is out of sync or has heard a link-down notice; a side known to face the
SK192 is never down. -/
def execCellSideDown (c : Fin 12) (p : Fin 16) (sideD : Bool) (s : State) : Out :=
  .next (modCell s c.val p.val (fun x =>
    if sideD then (if (x.stB != 3 || x.noticeD) && x.endD != some true then { x with downD := true } else x)
    else if (x.stA != 3 || x.noticeU) && x.endU != some true then { x with downU := true } else x))

/-- CELL_SIDE_UP (R120): in sync for 1 ms without a notice. -/
def execCellSideUp (c : Fin 12) (p : Fin 16) (sideD : Bool) (s : State) : Out :=
  .next (modCell s c.val p.val (fun x =>
    if sideD then (if x.stB = 3 then { x with downD := false, noticeD := false } else x)
    else if x.stA = 3 then { x with downU := false, noticeU := false } else x))

/-- LINK_DOWN_NOTICE (R85, R120): a cell with a down side sends a notice on that side's transmitter, wrapped or not yet,
and the neighbour whose receiver there is in sync hears it on its facing side. -/
def execLinkDownNotice (c : Fin 12) (p : Fin 16) (sideD : Bool) (s : State) : Out :=
  let x := cell s c.val p.val
  .next (if sideD then
      (if !x.dead ∧ x.downD ∧ p.val < 15 then
        modCell s c.val (p.val + 1) (fun y => if y.stA = 3 then { y with noticeU := true } else y) else s)
    else if !x.dead ∧ x.downU ∧ 0 < p.val then
      modCell s c.val (p.val - 1) (fun y => if y.stB = 3 then { y with noticeD := true } else y) else s)

/-- CELL_HARDWARE_BYPASS (R122): the link controller has stopped; the cell turns off and closes its bypass by its own
hardware and forwards nothing. -/
def execCellHardwareBypass (c : Fin 12) (p : Fin 16) (s : State) : Out :=
  .next (modCell s c.val p.val (fun x =>
    { x with
      dead := true, mode := 2, legs := 0, todo := [], bypass := true, isoBlocked := true, stA := 0, stB := 0
      candA := none, candB := none, win := none }))

/-- CELL_POWER_UP (R127, R125): a port with signal leaves OFF for TRAIN, one without stays OFF until signal comes; switches
off and bypass closed until the first accepted CYCLE copy. DESIGN CHOICE, unsafe: log entry 96. -/
def execCellPowerUp (c : Fin 12) (p : Fin 16) (w : CellPower) (s : State) : Out :=
  .next (modCell s c.val p.val (fun x =>
    { ({} : CellSt) with ident := w.ident, powered := true, stA := 2 * bit w.sigA, stB := 2 * bit w.sigB, closed := x.closed }))

/-- CELL_POWER_LOSS (R127): the ports enter OFF, and what the cell held is lost (R120, R109).
DEDUCED, unsafe: log entry 92. -/
def execCellPowerLoss (c : Fin 12) (p : Fin 16) (s : State) : Out :=
  .next (modCell s c.val p.val (fun x => { ({} : CellSt) with ident := x.ident, closed := x.closed, bypass := x.bypass }))

end Sys2Proof.Machine
end

