-- ==== Sys2Proof/Machine/Changes.lean ====
section
/-! DEFINITION. How a command of a context runs and replies, and its changes: WRITE, MODIFY and CHANGE_SET with their
agreement and development, reads, ownership and the information opcodes (R394 to R415). -/

namespace Sys2Proof.Machine

/-! Commands. -/

/-- What executing an opcode gives: a result with its results area, the same under an old key (R399), a wait for Sluice
leave (R446), or a reply that follows later with the change (R411). -/
inductive Res where
  | done (code : Nat) (data : List Byte)
  | keyed (key : BitVec 256) (code : Nat)
  | wait (op : Nat) (t : Twin) (arg : Nat) (data : List Byte) (flashOk : Bool)
  | later

/-- A command with the cycle in which it executes (R390), for a reply that follows later. -/
def stamp (s : State) (q : Queued) : Queued := { q with execAt := some (cycleNow s (asker s)) }

/-- A command executes in the leading twin (R404): it is counted, its effect takes place, and it is answered.
DEDUCED, unsafe: log entry 192. -/
def runCmd (q : Queued) (f : State → State × Res) (s : State) : State :=
  if (leader s).isNone then s else
  let r := f (say (hostCnt s R.HST_H_COMMANDS q.ctx) Rc.OK)
  match r.2 with
  | .done code data => reply r.1 q code data
  | .keyed key code => replyWith key r.1 q code (ctxBusy r.1 q.ctx) []
  | .wait op t arg data ok => showCtx (modHost r.1 (fun x => { x with
      waits := x.waits ++ [⟨op, t, arg, stamp s q, data, false, ok⟩] })) q.ctx
  | .later => showCtx r.1 q.ctx

/-- A command of context `h` that comes as a row of its own and not out of the context's queue.
DESIGN CHOICE, unsafe: log entry 194. -/
def rowCmd (h : Fin 4) (opcode : Nat) : Queued :=
  ⟨h.val, 0, 0, opcode, false, false, false, [], none, 0, 0, false, none⟩

/-! Reads (R407, R408). -/

/-- The twin that a read addresses (R407). -/
def readTwin (s : State) (b : Nat) : Option Twin :=
  match b with
  | 0 => some .a
  | 1 => some .b
  | 2 => some (asker s)
  | _ => none

/-- Whether an address lies in the NEG_MEM window and its region is neither FROZEN nor IDLE (R201). -/
def negMemBusy (s : State) (t : Twin) (a : Nat) : Bool :=
  decide (0xC00000 ≤ a) && decide (a < 0x1000000) && (List.range 4).any (fun e =>
    let page := (a - 0xC00000) / 4096
    let base := rf s t (ef R.NEG_EXP_REGION_BASE e)
    armed s t e && decide (base ≤ page) && decide (page < base + rf s t (ef R.NEG_EXP_REGION_SIZE e)))

/-- The object a CAN word belongs to, 128 for the high-priority buffer, and the word's offset in it. -/
def canWord (a : Nat) : Option (Nat × Nat × Nat) :=
  if a < 0x1300000 ∨ 0x1320000 ≤ a then none
  else
    let b := (a - 0x1300000) / 0x10000
    let o := a % 0x10000
    if 0x1000 ≤ o ∧ o < 0x5000 then some (b, (o - 0x1000) / 128, (o - 0x1000) % 128)
    else if 0x200 ≤ o ∧ o < 0x280 then some (b, 128, o - 0x200)
    else none

/-- What reading a word does: RC fields clear (R9), and reads of an object's CTL and last word lock and release it
(R345). -/
def readEffect (s : State) (t : Twin) (a : Nat) : State :=
  match canWord a with
  | some (b, m, o) =>
    if o = 8 then ctlRead s t b m else if a = lastWord s t b m then unlock s t b m else s
  | none => rcClear s t a

/-- The value a host reads at an address (R12, R201, R441). DESIGN CHOICE, unsafe: log entry 139. -/
def hostWord (s : State) (t : Twin) (a : Nat) : W32 :=
  if 0xC00000 ≤ a ∧ a < 0x1000000 then
    (if negMemBusy s t a then 0#32 else tabGet 0#32 (s.tw t).neg ((a - 0xC00000) / 4))
  else if a = R.CLK_MP_FREQ then BitVec.ofNat 32 (mpFreq s t)
  else match canWord a with
    | some (b, m, 8) => rd (ctlRead s t b m) t a
    | _ => readWord s t a

/-- Up to 16 words from `a` as they stand at one instant, and the state that reading them leaves (R408). -/
def readGroup (t : Twin) (n a : Nat) (s : State) : List W32 × State :=
  let l := (List.range n).map (fun i => a + 4 * i)
  (l.map (hostWord s t), l.foldl (fun s b => readEffect s t b) s)

/-- `n` words from `a` in `g` groups of 16, each group at one instant. -/
def readGroups (t : Twin) : Nat → Nat → Nat → State → List W32 × State
  | 0, _, _, s => ([], s)
  | g + 1, n, a, s =>
    let r := readGroup t (min 16 n) a s
    let m := readGroups t g (n - 16) (a + 64) r.2
    (r.1 ++ m.1, m.2)

/-- `n` consecutive words from `a`, with what reading them does. -/
def readWords (t : Twin) (n a : Nat) (s : State) : List W32 × State := readGroups t ((n + 15) / 16) n a s

/-- Words as the results carry them. -/
def wordBytes (l : List W32) : List Byte := l.flatMap (fun w => beBytes 4 w.toNat)

/-- READ (R408). -/
def opRead (target count a : Nat) (s : State) : State × Res :=
  match readTwin s target with
  | none => (s, .done Rc.LENGTH_INVALID [])
  | some t =>
    if count = 0 ∨ 256 < count then (s, .done Rc.LENGTH_INVALID [])
    else if a % 4 ≠ 0 ∨ blockOf a = none ∨ blockOf (a + 4 * (count - 1)) ≠ blockOf a then (s, .done Rc.ADDR_INVALID (beBytes 4 a))
    else if absent s t then (s, .done Rc.TWIN_ABSENT [])
    else
      let r := readWords t count a (sampleLive s t a count)
      let busy := (List.range count).any (fun i => negMemBusy s t (a + 4 * i))
      ({ r.2 with readOut := r.1 }, .done (if busy then Rc.NEG_BUSY else Rc.OK) (wordBytes r.1))

/-- READ as a row. -/
def execRead (h : Fin 4) (target : Byte) (count : BitVec 16) (addr : W32) (s : State) : Out :=
  .next (runCmd (rowCmd h 0x10) (opRead target.toNat count.toNat addr.toNat) s)

/-! Changes (R409 to R412). -/

/-- The target of a write (R407). -/
def writeTarget (b : Nat) : Option Target :=
  match b with
  | 0 => some (.one .a)
  | 1 => some (.one .b)
  | 2 => some .both
  | _ => none

/-- The number that names a target. -/
def targetNumber : Target → Nat
  | .one t => t.index
  | .both => 2

/-- The value an entry writes in a twin (R409): new = (old AND NOT MASK) OR (VALUE AND MASK), W1C and WO bits outside MASK
as 0. DEDUCED, unsafe: log entry 211. -/
def entryValue (s : State) (t : Twin) (e : Entry) : W32 :=
  let a := e.addr.toNat
  let v := (rd s t a &&& ~~~e.mask) ||| (e.value &&& e.mask)
  match findRow a with
  | none => v
  | some r => r.fields.foldl (fun w f =>
      if f.acc == .w1c || f.acc == .wo then putBits w f.hi f.lo (bits (e.value &&& e.mask) f.hi f.lo) else w) v

/-- The entries of a change in order, each seeing those before it (R409). The first refusal ends them with its code and
address; then nothing of them stands but what a refused first entry records. DEDUCED, unsafe: log entry 210. -/
def runEntries (tg : Target) (h : Nat) (s0 : State) : Bool → List Entry → State → State × Option (Nat × Nat)
  | _, [], s => (s, none)
  | first, e :: r, s =>
    let a := e.addr.toNat
    let s1 := writeEach (say s Rc.OK) tg h a (fun t => entryValue s t e)
    if s1.report = Rc.OK then runEntries tg h s0 false r s1
    else (if first then s1 else say s0 s1.report, some (s1.report, a))

/-- Whether an entry writes only the ATTN_MASK of context `h` (R400). -/
def ownMask (s : State) (h : Nat) (e : Entry) : Bool :=
  e.addr.toNat == ha R.HST_H_CFG h
    && ((entryValue s (asker s) e ^^^ rd s (asker s) e.addr.toNat) &&& 0xFFFFFF80#32) == 0#32

/-- Whether a context may write an entry's address (R400). -/
def mayWrite (s : State) (h : Nat) (e : Entry) : Bool :=
  ownMask s h e || (match groupOf e.addr.toNat with
    | none => true
    | some g => groupOwner s g == some h && (!(safetyParam e.addr.toNat) || groupOwner s 4 == some h))

/-- What an entry is judged by before its block: ownership, its address, and the form of a safety-parameter write (R380,
R409). -/
def entryCode (s : State) (h : Nat) (whole : Bool) (n : Nat) (e : Entry) : Nat :=
  let a := e.addr.toNat
  firstCode [(!(mayWrite s h e), Rc.NOT_OWNER), (!(inBlocks a), Rc.ADDR_INVALID),
    (safetyParam a && (!whole || n != 1), Rc.LENGTH_INVALID)]

/-- The first refusal of the entries before their blocks, with its address. -/
def entriesCode (s : State) (h : Nat) (whole : Bool) (es : List Entry) : Option (Nat × Nat) :=
  (es.find? (fun e => entryCode s h whole es.length e != Rc.OK)).map (fun e =>
    (entryCode s h whole es.length e, e.addr.toNat))

/-- LEAD in nanoseconds (R411). -/
def leadNs (s : State) : Int := rf s (asker s) R.HST_G_CFG_LEAD * 1000

/-- The first cycle that satisfies the lead (ASAP, R411). -/
def firstCycle (s : State) : Nat :=
  let t := asker s
  let c : Int := (cycNs s t : Int) * 65536
  ((devTime s t + leadNs s * 65536 - originNs s t * 65536 + c - 1) / c).toNat

/-- The cycle that bits 31:0 name within 2^31 cycles of the current one (R407). -/
def namedCycle (s : State) (c : W32) : Int :=
  let cur := cycleNow s (asker s)
  (cur : Int) + (c - BitVec.ofNat 32 cur).toInt

/-- The first unused change identity (R411). -/
def newChangeId (s : State) : Nat :=
  let ids := (List.range 65).map (fun i => (s.host.nextId + i - 1) % 65535 + 1)
  (ids.find? (fun i => s.host.changes.all (fun c => c.id != i))).getD 1

/-- Whether the other twin takes part in agreement (R412): it is FOLLOWING or JOINING. -/
def otherAgrees (s : State) : Bool :=
  let st := twState s (asker s).other
  st == tsFollowing || st == tsJoining

/-- The address that a refusal carries (R394): that of the register that caused it, none where a twin is absent. -/
def refusalData (code a : Nat) : List Byte := if code = Rc.TWIN_ABSENT then [] else beBytes 4 a

/-- The code of the confirm a change stands for, if it is one: a single entry at SAF_CONFIRM (R380).
DEDUCED, unsafe: log entry 212. -/
def confirmOf (es : List Entry) : Option Nat :=
  match es with
  | [e] => if e.addr.toNat = R.SAF_CONFIRM then some (bits (e.value &&& e.mask) 15 0) else none
  | _ => none

/-- The judgement of a change at execution (R410) on a state that is then given up: the state a refusal leaves, and the
refusal; otherwise the confirmed safety-parameter write that the change stands for. -/
def judgeChange (s : State) (tg : Target) (h : Nat) (es : List Entry) : State × Option (Nat × Nat) × Option SafPend :=
  match confirmOf es with
  | some code =>
    if tg ≠ .both then (s, some (Rc.AGREED_ONLY, R.SAF_CONFIRM), none) else
    match pendOf s h with
    | none => (s, some (Rc.NOTHING_PENDING, R.SAF_CONFIRM), none)
    | some p =>
      if code ≠ confirmCode p.addr p.value.toNat p.nonce.toNat then
        (safetyConfirm s h code, some (Rc.CONFIRM_MISMATCH, R.SAF_CONFIRM), none)
      else
        let c := (paramDevelop (dropPend s p) p).report
        if c = Rc.OK then (dropPend s p, none, some p) else (s, some (c, p.addr), none)
  | none =>
    let r := runEntries tg h s true es s
    if r.2.isSome then (r.1, r.2, none) else (s, none, none)

/-- The target and entries that a confirmed write develops as. -/
def paramTarget (p : SafPend) : Target := if p.a && p.b then .both else if p.a then .one .a else .one .b

/-- A change that passed its judgement becomes pending; it is answered once it is agreed, or with WAIT_DEV once it has
developed (R411, R412). -/
def holdChange (s : State) (q : Queued) (tg : Target) (n : Nat) (es : List Entry) (p : Option SafPend) : State × Res :=
  let tg := (p.map paramTarget).getD tg
  let es := match p with
    | some x => [⟨BitVec.ofNat 32 x.addr, 0xFFFFFFFF#32, x.value⟩]
    | none => es
  let agreed := (match tg with
    | .one _ => true
    | .both => !(otherAgrees s))
  let id := newChangeId s
  let c : Change := ⟨id, stamp s q, tg, n, cycleStartNs s (asker s) n, es, p, agreed, agreed && !q.waitDev⟩
  let s := modHost s (fun x => { x with changes := x.changes ++ [c], nextId := id % 65535 + 1 })
  (s, if c.replied then .done Rc.OK (changeIdent c) else .later)

/-- A change of a context (R407, R409 to R412). `whole` marks a WRITE. DESIGN CHOICE, unsafe: log entry 209. -/
def opChange (q : Queued) (target : Nat) (cycle : W32) (whole : Bool) (es : List Entry) (s : State) : State × Res :=
  match writeTarget target with
  | none => (s, .done Rc.LENGTH_INVALID [])
  | some tg =>
    match entriesCode s q.ctx whole es with
    | some (c, a) => (s, .done c (beBytes 4 a))
    | none =>
      match es.find? (fun e => safetyParam e.addr.toNat) with
      | some e =>
        let s1 := paramWrite s tg q.ctx e.addr.toNat e.value
        (s1, .done s1.report (if s1.report = Rc.CONFIRM_NEEDED then [] else refusalData s1.report e.addr.toNat))
      | none =>
        let n : Int := if q.asap then (firstCycle s : Int) else namedCycle s cycle
        let t := asker s
        let due := (originNs s t + n * (cycNs s t : Int)) * 65536
        let j := judgeChange s tg q.ctx es
        match j.2.1 with
        | some (c, a) => (j.1, .done c (refusalData c a))
        | none =>
          if n < 0 ∨ due < devTime s t + leadNs s * 65536 then (s, .done Rc.TOO_LATE [])
          else if 64 ≤ s.host.changes.length then (s, .done Rc.CHANGE_FULL [])
          else holdChange j.1 q tg n.toNat es j.2.2

/-- The entries of a WRITE: consecutive words, all bits (R409). -/
def writeEntries (a : Nat) : List W32 → List Entry
  | [] => []
  | v :: r => ⟨BitVec.ofNat 32 a, 0xFFFFFFFF#32, v⟩ :: writeEntries (a + 4) r

/-- WRITE: 1 to 256 words. -/
def opWrite (q : Queued) (target : Nat) (cycle addr : W32) (vs : List W32) (s : State) : State × Res :=
  if vs.isEmpty ∨ 256 < vs.length then (s, .done Rc.LENGTH_INVALID [])
  else opChange q target cycle true (writeEntries addr.toNat vs) s

/-- CHANGE_SET: 1 to 64 entries. -/
def opChangeSet (q : Queued) (target : Nat) (cycle : W32) (es : List Entry) (s : State) : State × Res :=
  if es.isEmpty ∨ 64 < es.length then (s, .done Rc.LENGTH_INVALID []) else opChange q target cycle false es s

/-- The parameters of a change as its packet carries them (R413): target, count, cycle and the words that follow. -/
def changeParams (target : Byte) (n : Nat) (cycle : W32) (l : List W32) : List Byte :=
  target :: 0#8 :: beBytes 2 n ++ wordBytes (cycle :: l)

/-- WRITE as a row. -/
def execWrite (h : Fin 4) (target : Byte) (cycle : W32) (asap waitDev : Bool) (addr : W32) (values : List W32) (s : State) : Out :=
  let p := changeParams target values.length cycle (addr :: values)
  let q := { rowCmd h 0x11 with asap := asap, waitDev := waitDev, params := p }
  .next (runCmd q (opWrite q target.toNat cycle addr values) s)

/-- MODIFY as a row. -/
def execModify (h : Fin 4) (target : Byte) (cycle : W32) (asap waitDev : Bool) (addr mask value : W32) (s : State) : Out :=
  let p := changeParams target 0 cycle [addr, mask, value]
  let q := { rowCmd h 0x12 with asap := asap, waitDev := waitDev, params := p }
  .next (runCmd q (opChange q target.toNat cycle false [⟨addr, mask, value⟩]) s)

/-- CHANGE_SET as a row. -/
def execChangeSet (h : Fin 4) (target : Byte) (cycle : W32) (asap waitDev : Bool) (entries : List Entry) (s : State) : Out :=
  let p := changeParams target entries.length cycle (entries.flatMap (fun e => [e.addr, e.mask, e.value]))
  let q := { rowCmd h 0x13 with asap := asap, waitDev := waitDev, params := p }
  .next (runCmd q (opChangeSet q target.toNat cycle entries) s)

/-- A pending change by its identity. -/
def findChange (s : State) (id : Nat) : Option Change := s.host.changes.find? (fun c => c.id == id)

/-- Whether context `h` owns every group of a mask. -/
def ownsAll (s : State) (h m : Nat) : Bool := (List.range 5).all (fun g => !(nbit m g) || groupOwner s g == some h)

/-- CANCEL_CHANGE (R411). DEDUCED, unsafe: log entry 208. -/
def opCancel (q : Queued) (id : Nat) (s : State) : State × Res :=
  match findChange s id with
  | none => (s, .done Rc.NO_CHANGE [])
  | some c =>
    if c.cmd.ctx ≠ q.ctx ∧ !(ownsAll s q.ctx (groupsTouched c.entries)) then (s, .done Rc.NOT_OWNER [])
    else if (c.due - leadNs s) * 65536 ≤ devTime s (asker s) then (s, .done Rc.TOO_LATE [])
    else (dropChange s c, .done Rc.OK [])

/-- CANCEL_CHANGE as a row. -/
def execCancelChange (h : Fin 4) (id : BitVec 16) (s : State) : Out :=
  .next (runCmd (rowCmd h 0x14) (opCancel (rowCmd h 0x14) id.toNat) s)

/-- LIST_CHANGES (R413). -/
def opListChanges (s : State) : State × Res :=
  let one := fun (c : Change) => beBytes 2 c.id ++ beBytes 1 c.cmd.ctx ++ beBytes 1 (targetNumber c.target)
    ++ beBytes 4 c.cycle ++ beBytes 2 c.entries.length ++ beBytes 2 0
  (s, .done Rc.OK (beBytes 1 s.host.changes.length ++ beBytes 3 0 ++ s.host.changes.flatMap one))

/-- LIST_CHANGES as a row. -/
def execListChanges (h : Fin 4) (s : State) : Out := .next (runCmd (rowCmd h 0x15) opListChanges s)

/-- Replace a pending change. -/
def putChange (s : State) (c : Change) : State :=
  modHost s (fun x => { x with changes := x.changes.map (fun d => if d.id = c.id then c else d) })

/-- CHANGE_AGREED (R411, R412): the other twin acknowledges a both-agreed change; without WAIT_DEV the reply follows. -/
def execChangeAgreed (id : BitVec 16) (s : State) : Out :=
  .next (match findChange s id.toNat with
    | none => s
    | some c =>
      if c.agreed || !(otherAgrees s) then s
      else if c.cmd.waitDev then putChange s { c with agreed := true }
      else reply (putChange s { c with agreed := true, replied := true }) c.cmd Rc.OK (changeIdent c))

/-- The refusals are judged again and the change develops, or none of its entries does (R409, R410): the state and the
refusal. -/
def developChange (s : State) (c : Change) : State × Option (Nat × Nat) :=
  match c.param with
  | some p =>
    let s1 := paramDevelop s p
    if s1.report = Rc.OK then (s1, none) else (say s s1.report, some (s1.report, p.addr))
  | none => runEntries c.target c.cmd.ctx s true c.entries s

/-- DEV_FAILED and DEV_RESULT record a failed change (R410). -/
def devFailed (s : State) (c : Change) (code : Nat) : State :=
  let h := c.cmd.ctx
  onLive (fun s t => wf (wf (ev s t (hf R.HST_H_EVENT_DEV_FAILED h)) t (hf R.HST_H_DEV_RESULT_CHANGE_ID h) c.id)
    t (hf R.HST_H_DEV_RESULT_CODE h) code) s

/-- CHANGED is set for every other context that owns a group the change touches (R411). -/
def tellOwners (s : State) (c : Change) : State :=
  let m := groupsTouched c.entries
  (List.range 4).foldl (fun s h =>
    if h ≠ c.cmd.ctx ∧ (groupsOf s h &&& m) ≠ 0 then hostEv s R.HST_H_EVENT_CHANGED h else s) s

/-- Whether a change may develop: it is agreed, or the leading twin develops it alone (R412). -/
def mayDevelop (s : State) (c : Change) : Bool := c.agreed || !(otherAgrees s)

/-- The host request for leave that development has put in the queue and that still waits there (R446). -/
def newWait (s0 s1 : State) : Option LeaveReq :=
  s1.sluice.queue.find? (fun r => r.host && decide (s0.sluice.queue.count r < s1.sluice.queue.count r))

/-- The reply of a change that developed: at once, or once the leave that its operation waits for is granted (R446).
DEDUCED, unsafe: log entry 221. -/
def answerDeveloped (s0 s : State) (c : Change) : State :=
  match newWait s0 s with
  | none => reply s c.cmd Rc.OK (changeIdent c)
  | some r => showCtx (modHost s (fun x => { x with
      waits := x.waits ++ [⟨r.op, r.twin, r.arg, c.cmd, changeIdent c, false, true⟩] })) c.cmd.ctx

/-- One change develops or fails, and is answered where that is still due (R409 to R411). -/
def developOne (s : State) (c : Change) : State :=
  let d := developChange s c
  let s0 := modHost d.1 (fun x => { x with changes := x.changes.filter (fun e => e.id != c.id) })
  let s1 := match d.2 with
    | some (code, _) => devFailed s0 c code
    | none => s0
  let s2 := tellOwners s1 c
  if c.replied then showCtx s2 c.cmd.ctx
  else if !c.cmd.waitDev then reply s2 c.cmd Rc.OK (changeIdent c)
  else match d.2 with
    | some (code, a) => reply s2 c.cmd code (refusalData code a)
    | none => answerDeveloped s s2 c

/-- The changes of the same cycle that were executed before `c` and have still to develop (R412). -/
def earlierChanges (s : State) (c : Change) : List Change :=
  (s.host.changes.takeWhile (fun d => d.id != c.id)).filter (fun d => d.cycle == c.cycle && mayDevelop s d)

/-- A change develops where it is still pending (R402): an earlier one of its cycle may have cancelled it. -/
def developById (s : State) (id : Nat) : State :=
  match findChange s id with
  | none => s
  | some c => if mayDevelop s c then developOne s c else s

/-- CHANGE_DEVELOP (R409 to R412): at t_n an agreed change, or one that the leading twin develops alone, develops or
fails, after those of the same cycle that were executed before it. Log entries 214 (DEDUCED, unsafe), 215 (DESIGN CHOICE,
unsafe). -/
def execChangeDevelop (id : BitVec 16) (s : State) : Out :=
  .next (match findChange s id.toNat with
    | none => s
    | some c => if mayDevelop s c then developById (((earlierChanges s c).map (·.id)).foldl developById s) c.id else s)

/-! Ownership (R401). -/

/-- TAKE of one group: free, own, or forced from a context of lower rank; the former owner that loses it. -/
def takeOne (h : Nat) (force : Bool) (s : State) (g : Nat) : State :=
  let rank := fun k => rf s (asker s) (hf R.HST_H_CFG_RANK k)
  match groupOwner s g with
  | none => setOwner s g (some h)
  | some o => if o ≠ h ∧ force ∧ rank h < rank o then loseGroups (setOwner s g (some h)) o (2 ^ g) else s

/-- The owners of the groups ARRAY to SAFETY (R413). -/
def ownerBytes (s : State) : List Byte := (List.range 5).map (ownerByte s)

/-- TAKE (R401). -/
def opTake (h groups : Nat) (force : Bool) (s : State) : State × Res :=
  let gs := (List.range 5).filter (nbit groups)
  let s := gs.foldl (takeOne h force) s
  let code := if gs.all (fun g => groupOwner s g == some h) then Rc.OK else Rc.OWNED
  (showCtx s h, .done code (beBytes 1 (groupsOf s h) ++ ownerBytes s))

/-- TAKE as a row. DEDUCED, unsafe: log entry 205. -/
def execTake (h : Fin 4) (groups force : Byte) (s : State) : Out :=
  .next (runCmd (rowCmd h 0x20) (opTake h.val groups.toNat (force == 1#8)) s)

/-- RELEASE (R401): the groups named that the context owns become free. DEDUCED, unsafe: log entry 206. -/
def opRelease (h groups : Nat) (s : State) : State × Res :=
  let gs := (List.range 5).filter (fun g => nbit groups g && groupOwner s g == some h)
  let s := showCtx (gs.foldl (fun s g => setOwner s g none) s) h
  (s, .done Rc.OK (beBytes 1 (groupsOf s h)))

/-- RELEASE as a row. -/
def execRelease (h : Fin 4) (groups : Byte) (s : State) : Out :=
  .next (runCmd (rowCmd h 0x21) (opRelease h.val groups.toNat) s)

/-- The lease remaining of a group in seconds, 0 for a free group (R413). DEDUCED, unsafe: log entry 207. -/
def leaseLeft (s : State) (g : Nat) : Nat :=
  match groupOwner s g with
  | none => 0
  | some h =>
    let gone := ((devNs s (asker s) - (hctx s h).lastAt) / 1000000000).toNat
    rf s (asker s) (hf R.HST_H_CFG_LEASE h) - gone

/-- OWNERS (R413). -/
def opOwners (s : State) : State × Res :=
  (s, .done Rc.OK (ownerBytes s ++ (List.range 5).flatMap (fun g => beBytes 2 (leaseLeft s g))))

/-- OWNERS as a row. -/
def execOwners (h : Fin 4) (s : State) : Out := .next (runCmd (rowCmd h 0x22) opOwners s)

/-- LEASE_LAPSE (R401): a context has had no packet accepted for LEASE seconds. -/
def execLeaseLapse (h : Fin 4) (s : State) : Out := .next (lapse s h.val)

/-! Information (R413). -/

/-- NOP (R397). -/
def execNop (h : Fin 4) (s : State) : Out := .next (runCmd (rowCmd h 0x00) (fun s => (s, .done Rc.OK [])) s)

/-- IDENTIFY. -/
def opIdentify (s : State) : State × Res :=
  let t := asker s
  let rev := fun (x : Twin) => beBytes 1 (rf s x R.SYS_ID_DIE_REV)
  let ver := fun (ty : Nat) => wordBytes [rd s .a (R.SYS_VERSION + 4 * ty), rd s .b (R.SYS_VERSION + 4 * ty)]
  (s, .done Rc.OK (beBytes 2 0x00C0 ++ rev .a ++ rev .b ++ beBytes 1 (rf s t R.SYS_ID_PE_REV) ++ beBytes 1 0
    ++ ver 0 ++ ver 1 ++ beBytes 6 (macAddr s).toNat ++ beBytes 2 0 ++ beBytes 8 Config.serialNumber.toNat))

/-- IDENTIFY as a row. -/
def execIdentify (h : Fin 4) (s : State) : Out := .next (runCmd (rowCmd h 0x01) opIdentify s)

/-- STATUS. -/
def opStatus (s : State) : State × Res :=
  let t := asker s
  (s, .done Rc.OK (wordBytes [readWord s .a R.TWN_STATE, readWord s .a R.TWN_CLAIM, readWord s .b R.TWN_STATE,
    readWord s .b R.TWN_CLAIM, readWord s t R.TIME_STATUS, readWord s t R.ARR_STATUS, readWord s t R.SAF_STATUS,
    readWord s t R.HST_OWNER]))

/-- STATUS as a row. -/
def execStatus (h : Fin 4) (s : State) : Out := .next (runCmd (rowCmd h 0x02) opStatus s)

/-- CREDITS: the command that asks still holds its own credit (R403). DEDUCED, unsafe: log entry 201. -/
def opCredits (h : Nat) (s : State) : State × Res :=
  (s, .done Rc.OK (beBytes 1 (credits s h - 1) ++ beBytes 1 (hctx s h).queue.length ++ beBytes 1 (deferring s h)
    ++ beBytes 1 0 ++ beBytes 4 (highCtr s h)))

/-- CREDITS as a row. -/
def execCredits (h : Fin 4) (s : State) : Out := .next (runCmd (rowCmd h 0x04) (opCredits h.val) s)

/-- EVENTS: per twin, one word per attention bit 6 to 1. -/
def opEvents (s : State) : State × Res :=
  (s, .done Rc.OK ([Twin.a, Twin.b].flatMap (fun t => [6, 5, 4, 3, 2, 1].flatMap (fun a => beBytes 4 (attnBlocks s t a)))))

/-- EVENTS as a row. -/
def execEvents (h : Fin 4) (s : State) : Out := .next (runCmd (rowCmd h 0x41) opEvents s)

/-- REPORT (R165, R413): the snapshot's device time, the HLT_ words 0x004 to 0x040 and cell records.
DEDUCED, unsafe: log entry 216. -/
def opReport (twin first count : Nat) (s : State) : State × Res :=
  let t := if twin = 0 then Twin.a else Twin.b
  if 1 < twin ∨ 191 < first then (s, .done Rc.PARAM_ORDER [])
  else if 64 < count ∨ 192 < first + count then (s, .done Rc.LENGTH_INVALID [])
  else if absent s t then (s, .done Rc.TWIN_ABSENT [])
  else
    let at_ := (s.tw t).twn.snapAt
    let cells := (List.range (4 * count)).map (fun i => readWord s t (R.HLT_CELL_CAP_REL + 16 * first + 4 * i))
    (s, .done Rc.OK (beBytes 4 (at_ / 1000000000 % 4294967296).toNat ++ beBytes 4 (at_ % 1000000000).toNat
      ++ wordBytes ((List.range 16).map (fun i => readWord s t (R.HLT_CTRL + 4 + 4 * i)) ++ cells)))

/-- REPORT as a row. -/
def execReport (h : Fin 4) (twin first count : Byte) (s : State) : Out :=
  .next (runCmd (rowCmd h 0x40) (opReport twin.toNat first.toNat count.toNat) s)

end Sys2Proof.Machine
end

