-- ==== Sys2Proof/Machine/HostFlash.lean ====
section
/-! DEFINITION. The opcodes that need Sluice leave or work on streams: key rolls (R399), boot-flash sessions, UPDATE,
stream reads and Negative dumps (R414, R421). -/

namespace Sys2Proof.Machine

/-! Key rolls (R399). -/

/-- The key that a roll gives: HMAC-SHA-256 under the old key over "ECP key roll" and the salt. -/
def rolledKey (key : BitVec 256) (salt : BitVec 128) : BitVec 256 :=
  let text : List Byte := [0x45#8, 0x43#8, 0x50#8, 0x20#8, 0x6B#8, 0x65#8, 0x79#8, 0x20#8, 0x72#8, 0x6F#8, 0x6C#8, 0x6C#8]
  BitVec.ofNat 256 (beNat (hmac256 key (text ++ beBytes 16 salt.toNat)))

/-- Whether both flashes can be written: neither twin is in RESET. -/
def flashReady (s : State) : Bool := twState s .a != tsReset && twState s .b != tsReset

/-- A granted key roll: both flashes take the new key, or neither does. From then on h restarts at 0, and a
retransmission of the KEY_ROLL is still answered under the old key. DEDUCED, unsafe: log entry 218. -/
def keyRoll (s : State) (q : Queued) (salt : BitVec 128) (flashOk : Bool) : State :=
  let h := q.ctx
  if !flashOk || !(flashReady s) then say s Rc.FLASH_FAIL
  else
    let old := ctxKey s h
    let k := rolledKey old salt
    let s := onBoth (fun s t => modFlash s t (fun f => { f with keys := tabSet 0 f.keys h k })) s
    let s := modCtx s h (fun c => { c with
      accepted := []
      oldKey := old
      rolled := c.kept.find? (fun e => e.counter == q.counter && e.tag == q.tag) })
    let s := onLive (fun s t => wf (wr s t (ha R.HST_H_HIGH_CTR h) 0) t (hf R.HST_H_STATE_KEY_EXHAUSTED h) 0) s
    say (hostEv s R.HST_H_EVENT_KEY_ROLLED h) Rc.OK

/-- KEY_ROLL (R399): under leave for boot-flash programming, argument 8 + h. -/
def opKeyRoll (q : Queued) (salt : BitVec 128) (flashOk : Bool) (s : State) : State × Res :=
  let t := asker s
  let arg := 8 + q.ctx
  let old := ctxKey s q.ctx
  let s1 := leaveAsk s 5 t true arg
  if s1.report ≠ Rc.OK then (s1, .done s1.report [])
  else if leaveHeldFor s1 5 t arg then
    let s2 := keyRoll (leaveEndFor s1 5 t arg) q salt flashOk
    (s2, .keyed old s2.report)
  else (s1, .wait 5 t arg [] flashOk)

/-- KEY_ROLL as a row. -/
def execKeyRoll (h : Fin 4) (salt : BitVec 128) (flashOk : Bool) (s : State) : Out :=
  .next (runCmd { rowCmd h 0x03 with params := beBytes 16 salt.toNat } (fun s => opKeyRoll (rowCmd h 0x03) salt flashOk s) s)

/-- KEY_ROLL_GRACE_END (R399): 10 s after the roll. -/
def execKeyRollGraceEnd (h : Fin 4) (s : State) : Out := .next (modCtx s h.val (fun c => { c with rolled := none, oldKey := 0 }))

/-! Boot-flash sessions (R414, R447). -/

/-- The groups that a session of an image type needs, as a mask (R400). -/
def typeGroups (ty : Nat) : Nat :=
  match ty with
  | 1 => 3
  | 3 => 4
  | _ => 16

/-- The size of a slot of an image type (R447). -/
def slotSize (ty : Nat) : Nat := if ty ≤ 1 then 2097152 else 262144

/-- The twin whose open session has an identity. -/
def sessionTwin (s : State) (id : Nat) : Option Twin :=
  if s.a.flash.session = some id then some .a else if s.b.flash.session = some id then some .b else none

/-- A twin's session ends; its leave returns or its request is withdrawn. -/
def sessionEnd (s : State) (t : Twin) : State :=
  let s := modFlash s t (fun f => { f with session := none, sessGranted := false, sessWords := [] })
  leaveEndFor s 5 t 0

/-- FLASH_OPEN (R414): one session per twin, under leave for the whole session (argument 0). The staging slot of the type
holds no verified image from then on. DESIGN CHOICE, unsafe: log entry 217. -/
def opFlashOpen (q : Queued) (twin ty len : Nat) (s : State) : State × Res :=
  let t := if twin = 0 then Twin.a else Twin.b
  if 1 < twin ∨ 3 < ty ∨ slotSize ty < len then (s, .done Rc.PARAM_ORDER [])
  else if !(ownsAll s q.ctx (typeGroups ty)) then (s, .done Rc.NOT_OWNER [])
  else if twState s t = tsReset then (s, .done Rc.TWIN_ABSENT [])
  else if (s.tw t).flash.session.isSome then (s, .done Rc.FLASH_STATE [])
  else
    let s1 := leaveAsk s 5 t true 0
    let id := (s.tw t).flash.nextSession * 2 + t.index
    let held := leaveHeldFor s1 5 t 0
    if s1.report ≠ Rc.OK then (s1, .done s1.report [])
    else
      let s2 := modFlash s1 t (fun f => { f with
        session := some id, sessType := ty, sessLen := len, sessGranted := held, sessWords := []
        nextSession := f.nextSession % 32767 + 1
        verified := setBit f.verified ty false
        images := tabSet [] f.images (2 * ty + (1 - bit (nbit f.active ty))) [] })
      (s2, if held then .done Rc.OK (beBytes 2 id) else .wait 5 t 0 (beBytes 2 id) true)

/-- FLASH_OPEN as a row. -/
def execFlashOpen (h : Fin 4) (twin type : Byte) (length : W32) (s : State) : Out :=
  .next (runCmd (rowCmd h 0x30) (opFlashOpen (rowCmd h 0x30) twin.toNat type.toNat length.toNat) s)

/-- The session that an opcode names, for a context that owns its groups: the twin, or the refusal. -/
def sessionFor (s : State) (h id : Nat) : Twin × Nat :=
  match sessionTwin s id with
  | none => (.a, Rc.FLASH_STATE)
  | some t => (t, if ownsAll s h (typeGroups (s.tw t).flash.sessType) then Rc.OK else Rc.NOT_OWNER)

/-- Words of four bytes. -/
def wordsOfBytes (d : List Byte) : List W32 := (pieces 4 (d.length / 4) d).map (fun b => BitVec.ofNat 32 (beNat b))

/-- FLASH_WRITE (R414, R446): 4 to 1 024 bytes at an aligned offset within LENGTH; LEAVE_WAIT and not executed while the
session is not granted. -/
def opFlashWrite (h id off : Nat) (d : List Byte) (s : State) : State × Res :=
  let f := sessionFor s h id
  let x := (s.tw f.1).flash
  if d.length % 4 ≠ 0 ∨ d.isEmpty ∨ 1024 < d.length then (s, .done Rc.LENGTH_INVALID [])
  else if f.2 ≠ Rc.OK then (s, .done f.2 [])
  else if off % 4 ≠ 0 ∨ x.sessLen ≤ off ∨ (x.sessLen + 3) / 4 * 4 < off + d.length then (s, .done Rc.LENGTH_INVALID [])
  else if !x.sessGranted then (s, .done Rc.LEAVE_WAIT [])
  else
    let ws := wordsOfBytes d
    let put := (ws.zip (List.range ws.length)).foldl (fun m p => tabSet none m (off / 4 + p.2) (some p.1)) x.sessWords
    (modFlash s f.1 (fun y => { y with sessWords := put }), .done Rc.OK [])

/-- FLASH_WRITE as a row. -/
def execFlashWrite (h : Fin 4) (session : BitVec 16) (offset : W32) (data : List Byte) (s : State) : Out :=
  .next (runCmd (rowCmd h 0x31) (opFlashWrite h.val session.toNat offset.toNat data) s)

/-- The bytes written in a session; none until every byte has been. -/
def sessionImage (x : FlashSt) : Option (List Byte) :=
  let n := (x.sessLen + 3) / 4
  if x.sessWords.length = n then some (((x.sessWords.map (fun e => e.2.getD 0#32)).flatMap (fun w => beBytes 4 w.toNat)).take x.sessLen)
  else none

/-- FLASH_CLOSE (R414): refused with FLASH_STATE until every byte has been written; then the image is in the staging slot
and the checks of its type run; LAW_REFUSE records a graph image's failed check (R181). -/
def opFlashClose (h id : Nat) (s : State) : State × Res :=
  let f := sessionFor s h id
  let x := (s.tw f.1).flash
  if f.2 ≠ Rc.OK then (s, .done f.2 [])
  else match sessionImage x with
    | none => (s, .done Rc.FLASH_STATE [])
    | some im =>
      let ty := x.sessType
      let bad := imageCheck s f.1 ty im
      let s := if ty = 1 then recordRefusal s f.1 bad else s
      let s := modFlash (sessionEnd s f.1) f.1 (fun y => { y with
        images := tabSet [] y.images (2 * ty + (1 - bit (nbit y.active ty))) im
        verified := setBit y.verified ty (bad == 0) })
      (s, .done Rc.OK (beBytes 1 (if bad = 0 then 0 else Rc.IMAGE bad)))

/-- FLASH_CLOSE as a row. -/
def execFlashClose (h : Fin 4) (session : BitVec 16) (s : State) : Out :=
  .next (runCmd (rowCmd h 0x32) (opFlashClose h.val session.toNat) s)

/-- FLASH_ABORT (R414). -/
def opFlashAbort (h id : Nat) (s : State) : State × Res :=
  let f := sessionFor s h id
  if f.2 ≠ Rc.OK then (s, .done f.2 []) else (sessionEnd s f.1, .done Rc.OK [])

/-- FLASH_ABORT as a row. -/
def execFlashAbort (h : Fin 4) (session : BitVec 16) (s : State) : Out :=
  .next (runCmd (rowCmd h 0x33) (opFlashAbort h.val session.toNat) s)

/-- FLASH_SESSION_TIMEOUT (R414): a session has had no FLASH_WRITE for 60 s. -/
def execFlashSessionTimeout (t : Twin) (s : State) : Out :=
  .next (if (s.tw t).flash.session.isSome then sessionEnd s t else s)

/-- UPDATE (R160, R414, R452): the following twin withdraws with cause 10 and boots its staged images. -/
def opUpdate (h : Nat) (s : State) : State × Res :=
  let o := (asker s).other
  if groupOwner s 4 ≠ some h then (s, .done Rc.NOT_OWNER [])
  else if twState s o ≠ tsFollowing then (s, .done Rc.NOT_FIT [])
  else if (s.tw o).flash.verified = 0 then (s, .done Rc.NO_STAGING [])
  else (withdraw s o 10, .done Rc.OK [])

/-- UPDATE as a row. -/
def execUpdate (h : Fin 4) (s : State) : Out := .next (runCmd (rowCmd h 0x34) (opUpdate h.val) s)

/-! Streams and dumps (R201, R421). -/

/-- What the stream opcodes are judged by: ownership of TRACE, the twin and the queue or Exposure. -/
def traceCode (s : State) (h twin n max : Nat) (t : Twin) : Nat :=
  firstCode [(groupOwner s 3 != some h, Rc.NOT_OWNER), (decide (1 < twin) || decide (max < n), Rc.PARAM_ORDER),
    (absent s t, Rc.TWIN_ABSENT)]

/-- STREAM_READ (R421). -/
def opStreamRead (h twin q n : Nat) (s : State) : State × Res :=
  let t := if twin = 0 then Twin.a else Twin.b
  let c := traceCode s h twin q 5 t
  if n = 0 ∨ 80 < n then (s, .done Rc.LENGTH_INVALID [])
  else if c ≠ Rc.OK then (s, .done c [])
  else if rf s t (qf R.STQ_Q_CFG_EN q) = 0 ∨ rf s t (qf R.STQ_Q_CFG_SINK q) ≠ 0 then (s, .done Rc.QUEUE_OFF [])
  else
    let r := deliverWords s t q n false
    (r.2, .done Rc.OK r.1)

/-- STREAM_READ as a row. -/
def execStreamRead (h : Fin 4) (twin queue : Byte) (maxWords : BitVec 16) (s : State) : Out :=
  .next (runCmd (rowCmd h 0x50) (opStreamRead h.val twin.toNat queue.toNat maxWords.toNat) s)

/-- STREAM_DATA (R421): the packetiser of a UDP queue sends the words of the drain bank, or with CUT the whole words
of the fill bank, at most 80, tagged with the key of the queue's context, to the address and port of the queue's DEST
while its twin may send (R304). DEDUCED, unsafe: log entry 145. DEDUCED, unsafe: log entry 268. -/
def execStreamData (t : Twin) (q : Fin 6) (s : State) : Out :=
  let x := queue s t q.val
  let cut := rf s t (qf R.STQ_Q_CUT_CUT q.val)
  let whole := x.fill.length / 16
  let useCut := x.drain.isEmpty && cut != 0 && decide (cut ≤ whole) && !x.closed
  if rf s t (qf R.STQ_Q_CFG_EN q.val) = 0 ∨ rf s t (qf R.STQ_Q_CFG_SINK q.val) ≠ 1 ∨ (x.drain.isEmpty ∧ !useCut)
    ∨ !(netOn s) ∨ !(inPair s t) then .next s
  else
    let r := deliverWords s t q.val (if useCut then min 80 whole else 80) useCut
    let n := (rd r.2 t (qa R.STQ_Q_DGRAM q.val)).toNat + 1
    let c := rf s t (qf R.STQ_Q_DEST_CTX q.val)
    let key := tabGet 0 (s.tw t).flash.keys c
    let pkt := ecpBytes key c 0x5F 0x80 (n % 4294967296) 0 0 r.1
    let s1 := wr r.2 t (qa R.STQ_Q_DGRAM q.val) (BitVec.ofNat 32 n)
    let s2 := setQueue s1 t q.val { queue s1 t q.val with out := pkt }
    let ip := rd s t (qa R.STQ_Q_DEST_IP q.val)
    .next (sendFrom s2 t { kind := .ecp, words := [ip, BitVec.ofNat 32 (rf s t (qf R.STQ_Q_DEST_PORT q.val))] ++ arpMac s ip, bytes := pkt })

/-- STREAM_FLUSH (R417): the fill bank closes, provided it is not empty. -/
def opStreamFlush (h twin q : Nat) (s : State) : State × Res :=
  let t := if twin = 0 then Twin.a else Twin.b
  let c := traceCode s h twin q 5 t
  if c ≠ Rc.OK then (s, .done c [])
  else (if (queue s t q).fill.isEmpty then s else closeFill s t q, .done Rc.OK [])

/-- STREAM_FLUSH as a row. -/
def execStreamFlush (h : Fin 4) (twin queue : Byte) (s : State) : Out :=
  .next (runCmd (rowCmd h 0x51) (opStreamFlush h.val twin.toNat queue.toNat) s)

/-- The rows of a FROZEN Exposure, oldest first, in their stored byte order (R195, R201). -/
def frozenRows (s : State) (t : Twin) (e : Nat) : List (List Byte) :=
  let size := rf s t (ef R.NEG_EXP_ROWSIZE_ROWSIZE e)
  let base := (expX s t e).base * 4096
  let cap := (expX s t e).pages * 4096 / size
  let first := ((rd s t (ea R.NEG_EXP_FIRST e)).toNat - base) / size
  (List.range (rd s t (ea R.NEG_EXP_ROWS e)).toNat).map (fun i =>
    (List.range (size / 4)).flatMap (fun j =>
      let w := tabGet 0#32 (s.tw t).neg ((base + (first + i) % cap * size) / 4 + j)
      (beBytes 4 w.toNat).reverse))

/-- A granted dump (R201, R416): each row of an Exposure that is still FROZEN is written to Q4 as one unit, as the queue
has room.
DESIGN CHOICE, unsafe: log entry 146. -/
def dumpRun (s : State) (t : Twin) (e : Nat) : State :=
  if expSt s t e ≠ 4 then leaveEndFor s 7 t e
  else dumpGo (setQueue s t 4 { queue s t 4 with dump := (queue s t 4).dump ++ frozenRows s t e }) t 4

/-- NEG_DUMP (R201, R414): under leave for a Negative dump, argument e. -/
def opNegDump (h twin e : Nat) (s : State) : State × Res :=
  let t := if twin = 0 then Twin.a else Twin.b
  let c := traceCode s h twin e 3 t
  let rows := beBytes 4 (rd s t (ea R.NEG_EXP_ROWS e)).toNat
  if c ≠ Rc.OK then (s, .done c [])
  else if expSt s t e ≠ 4 then (s, .done Rc.NEG_BUSY [])
  else
    let s1 := leaveAsk s 7 t true e
    if s1.report ≠ Rc.OK then (s1, .done s1.report [])
    else if leaveHeldFor s1 7 t e then (dumpRun s1 t e, .done Rc.OK rows)
    else (s1, .wait 7 t e rows true)

/-- NEG_DUMP as a row. -/
def execNegDump (h : Fin 4) (twin exposure : Byte) (s : State) : Out :=
  .next (runCmd (rowCmd h 0x52) (opNegDump h.val twin.toNat exposure.toNat) s)

end Sys2Proof.Machine
end

