-- ==== Sys2Proof/Machine/Host.lean ====
section
/-! DEFINITION. Packets and their execution: the checks of R391 to R393, the host serial port (R388, R389), the context
queues and the turns of the management processor (R403 to R405). -/

namespace Sys2Proof.Machine

/-! Opcodes from a packet (R413). -/

/-- The number of parameter bytes of the opcodes that have a fixed length. -/
def opcodeLength (op : Nat) : Option Nat :=
  match op with
  | 0x00 => some 0 | 0x01 => some 0 | 0x02 => some 0 | 0x03 => some 16 | 0x04 => some 0
  | 0x10 => some 8 | 0x12 => some 20 | 0x14 => some 2 | 0x15 => some 0
  | 0x20 => some 2 | 0x21 => some 1 | 0x22 => some 0
  | 0x30 => some 8 | 0x32 => some 2 | 0x33 => some 2 | 0x34 => some 0
  | 0x40 => some 4 | 0x41 => some 0 | 0x50 => some 4 | 0x51 => some 2 | 0x52 => some 2
  | _ => none

/-- Entries of 12 bytes: address, mask, value. -/
def parseEntries (p : List Byte) (n : Nat) : List Entry :=
  (List.range n).map (fun i => ⟨BitVec.ofNat 32 (beAt p (8 + 12 * i) 4), BitVec.ofNat 32 (beAt p (12 + 12 * i) 4),
    BitVec.ofNat 32 (beAt p (16 + 12 * i) 4)⟩)

/-- A command out of a packet: its opcode with its parameters. STREAM_DATA, sent by the SK192 only, and every opcode not
listed are refused with OPCODE_INVALID; the factory opcodes 0xF0 to 0xFF with LIFECYCLE_LOCKED once the lock is set.
DEDUCED, unsafe: log entry 203. -/
def opFromPacket (q : Queued) (s : State) : State × Res :=
  let p := q.params
  let h := q.ctx
  let n := fun (o len : Nat) => beAt p o len
  let w := fun (o : Nat) => BitVec.ofNat 32 (beAt p o 4)
  let bad := (s, Res.done Rc.LENGTH_INVALID [])
  if opcodeLength q.opcode ≠ none ∧ opcodeLength q.opcode ≠ some p.length then bad
  else match q.opcode with
    | 0x00 => (s, .done Rc.OK [])
    | 0x01 => opIdentify s
    | 0x02 => opStatus s
    | 0x03 => opKeyRoll q (BitVec.ofNat 128 (n 0 16)) true s
    | 0x04 => opCredits h s
    | 0x10 => opRead (n 0 1) (n 2 2) (n 4 4) s
    | 0x11 => if p.length < 12 ∨ p.length ≠ 12 + 4 * n 2 2 then bad
              else opWrite q (n 0 1) (w 4) (w 8) (wordsOfBytes (p.drop 12)) s
    | 0x12 => opChange q (n 0 1) (w 4) false [⟨w 8, w 12, w 16⟩] s
    | 0x13 => if p.length < 8 ∨ p.length ≠ 8 + 12 * n 2 2 then bad
              else opChangeSet q (n 0 1) (w 4) (parseEntries p (n 2 2)) s
    | 0x14 => opCancel q (n 0 2) s
    | 0x15 => opListChanges s
    | 0x20 => opTake h (n 0 1) (n 1 1 == 1) s
    | 0x21 => opRelease h (n 0 1) s
    | 0x22 => opOwners s
    | 0x30 => opFlashOpen q (n 0 1) (n 1 1) (n 4 4) s
    | 0x31 => if p.length < 8 then bad else opFlashWrite h (n 0 2) (n 4 4) (p.drop 8) s
    | 0x32 => opFlashClose h (n 0 2) s
    | 0x33 => opFlashAbort h (n 0 2) s
    | 0x34 => opUpdate h s
    | 0x40 => opReport (n 0 1) (n 2 1) (n 3 1) s
    | 0x41 => opEvents s
    | 0x50 => opStreamRead h (n 0 1) (n 1 1) (n 2 2) s
    | 0x51 => opStreamFlush h (n 0 1) (n 1 1) s
    | 0x52 => opNegDump h (n 0 1) (n 1 1) s
    | op => if 0xF0 ≤ op then (s, .done (if s.lockedLife then Rc.LIFECYCLE_LOCKED else Rc.OK) [])
            else (s, .done Rc.OPCODE_INVALID [])

/-! Packets (R387, R390 to R393). -/

/-- R392: whether a context accepts a counter that it has not accepted before. -/
def counterFresh (s : State) (h c : Nat) : Bool :=
  let top := highCtr s h
  c != 0 && top != 0xFFFFFFFF
    && (decide (top < c) || (decide (c < top) && decide (top < c + 32) && !((hctx s h).accepted.contains c)))

/-- A counter is accepted (R392, R393): h, the window, CTR_LOW, and the packet kept. -/
def acceptCounter (s : State) (h c : Nat) (tag : BitVec 128) : State :=
  let old := highCtr s h
  let top := max old c
  let s := modCtx s h (fun x => { x with
    accepted := c :: x.accepted.filter (fun d => decide (top < d + 32))
    kept := (⟨c, tag, none⟩ :: x.kept).take 32
    lastAt := devNs s (asker s) })
  let s := onLive (fun s t => wf (wr s t (ha R.HST_H_HIGH_CTR h) (BitVec.ofNat 32 top)) t
    (hf R.HST_H_STATE_KEY_EXHAUSTED h) (bit (top == 0xFFFFFFFF))) s
  if old ≤ 0xF0000000 ∧ 0xF0000000 < top then hostEv s R.HST_H_EVENT_CTR_LOW h else s

/-- Whether a packet's tag is the one its bytes have under a key (R391). -/
def tagOk (key : BitVec 256) (bytes : List Byte) (body : Nat) : Bool :=
  (hmac256 key (bytes.take body)).take 16 == (bytes.drop body).take 16

/-- An accepted command joins its context's queue, or is answered with QUEUE_FULL while no credit is held (R403). -/
def enqueue (s : State) (q : Queued) : State :=
  if credits s q.ctx = 0 then replyWith (ctxKey s q.ctx) (hostCnt s R.HST_H_QUEUE_FULL q.ctx) q Rc.QUEUE_FULL true []
  else showCtx (modCtx (onLive (fun s t => ungate s t 6) s) q.ctx (fun x => { x with queue := x.queue ++ [q] })) q.ctx

/-- A packet arrives over a transport (R387, R391 to R393), from an address and port where that is UDP.
Log entries 195 (DEDUCED, unsafe), 196 (DEDUCED, unsafe). -/
def receive (s : State) (via : Transport) (bytes : List Byte) (ip : W32) (port : Nat) : State :=
  let ctxByte := beAt bytes 1 1
  let h := ctxByte % 4
  let flags := beAt bytes 3 1
  let len := beAt bytes 8 2
  let body := 16 + len
  let c := beAt bytes 4 4
  let tag := BitVec.ofNat 128 (beAt bytes body 16)
  let fail := hostCnt s R.HST_H_AUTH_FAIL h
  let cfg := rd s (asker s) (ha R.HST_H_CFG h)
  let same := fun (k : Kept) => k.counter == c && k.tag == tag
  let again := fun (k : Kept) => match k.reply with
    | some r => emit s (some via) ip port h r
    | none => s
  if (leader s).isNone ∨ bytes.length < 2 then s
  else if bytes.length ≠ 32 + len ∨ 1440 < len ∨ !(cfg.getLsbD 31) ∨ !(cfg.getLsbD (27 + via.index)) ∨ 128 ≤ flags then fail
  else match (hctx s h).rolled.filter (fun k => same k && tagOk (hctx s h).oldKey bytes body) with
    | some k => again k
    | none =>
      if !(tagOk (ctxKey s h) bytes body) then fail
      else match (hctx s h).kept.find? same with
        | some k => again k
        | none =>
          if !(counterFresh s h c) then hostCnt s R.HST_H_REPLAY h
          else
            let q : Queued := ⟨h, c, tag, beAt bytes 2 1, nbit flags 6, nbit flags 5, nbit flags 4, (bytes.drop 16).take len,
              some via, ip, port, false, none⟩
            let s := acceptCounter s h c tag
            if beAt bytes 0 1 ≠ 1 ∨ 4 ≤ ctxByte ∨ flags % 16 ≠ 0 then reply s q Rc.VERSION_INVALID [] else enqueue s q

/-- Whether a packet is for this device: a datagram must name its IP address and NET_ECP.PORT (R333). -/
def forUs (s : State) (via : Transport) (ip : W32) (port : BitVec 16) : Bool :=
  via != .udp || (ip == rd s (netTwin s) R.NET_IP && port.toNat == rf s (netTwin s) R.NET_ECP_PORT)

/-- ECP_PACKET_RECEIVE (R333, R391): it reaches the fabric through the crossing of its transport's domain (R23). -/
def execEcpPacketReceive (via : Transport) (bytes : List Byte) (ip : IpPair) (port : PortPair) (s : State) : Out :=
  .next (if forUs s via ip.dst port.dst then
      crossIn s (asker s) via.domain (fun s => receive s via bytes ip.src port.src.toNat)
    else s)

/-! The host serial port (R388, R389). -/

/-- RDY, a host-serial reply pin: high while at least one reply is queued and a twin drives the shared pins (R17, R389). -/
def serialReady (s : State) : Bool := s.ilk.pins.isSome && !s.host.serial.isEmpty

/-- The host drives CLK in a transaction: what waits in either twin's crossing towards the HS domain is delivered (R27). -/
def hsClock (s : State) : State := onBoth (fun s t => deliver s t 7) s

/-- What a transaction returns on MISO, a host-serial reply pin under R17: nothing while no twin drives the shared pins.
DEDUCED, unsafe: log entry 198. -/
def miso (s : State) (l : List Byte) : State :=
  modHost (hsClock s) (fun x => { x with serOut := if s.ilk.pins.isSome then l else [] })

/-- A PUT error (R389): counted in HST_SER, and for the next STAT. -/
def putError (s : State) : State :=
  modHost (onLive (fun s t => cnt s t R.HST_SER) s) (fun x => { x with serErrs := min 255 (x.serErrs + 1) })

/-- What a GET returns: the marker, LEN, the oldest reply and the CRC, or LEN = 0. -/
def getBytes (s : State) : List Byte :=
  let r := (s.host.serial.head?.map (·.bytes)).getD []
  let m := beBytes 2 r.length ++ r
  0xA5#8 :: m ++ beBytes 2 (crc16 m)

/-- GET (R388, R389): the oldest reply leaves the queue only when the transaction is complete. -/
def execGet (complete : Bool) (s : State) : Out :=
  let s1 := if (xing s (asker s) (xingKey 7 false)).dead then xingLost s (asker s) 7 false else miso s (getBytes s)
  .next (if complete && s.ilk.pins.isSome && !((xing s (asker s) (xingKey 7 false)).dead) then modHost s1 (fun x => { x with serial := x.serial.drop 1 }) else s1)

/-- STAT (R388): the replies queued and the PUT errors since the last STAT. -/
def execStat (s : State) : Out :=
  let s1 := miso s (beBytes 1 s.host.serial.length ++ beBytes 1 s.host.serErrs ++ beBytes 2 0)
  .next (modHost s1 (fun x => { x with serErrs := 0 }))

/-- A packet sent with OP 1 (R389): received where LEN and CRC hold and CS_N rose after the last CRC byte. -/
def putPacket (len : BitVec 16) (bytes : List Byte) (crc : BitVec 16) (complete : Bool) (s : State) : State :=
  let n := len.toNat
  let good := complete && decide (32 ≤ n) && decide (n ≤ 1472) && bytes.length == n && crc16 (beBytes 2 n ++ bytes) == crc.toNat
  crossIn (miso s (List.replicate (4 + bytes.length) 0#8)) (asker s) 7
    (fun s => if good then receive s .serial bytes 0 0 else putError s)

/-- PUT (R388, R389), the transaction of OP 1. OP 2 and 3 are a GET and a STAT; any other OP byte is ignored for the rest
of the transaction and counted in HST_SER. Log entries 198 (DEDUCED, unsafe), 199 (DEDUCED, unsafe). -/
def execPut (len : BitVec 16) (bytes : List Byte) (crc : BitVec 16) (fin : SerEnd) (s : State) : Out :=
  if fin.op = 1#8 then .next (putPacket len bytes crc fin.complete s)
  else if fin.op = 2#8 then execGet fin.complete s
  else if fin.op = 3#8 then execStat s
  else .next (crossIn (miso s []) (asker s) 7 (onLive (fun s t => cnt s t R.HST_SER)))

/-! Turns (R404, R405). -/

/-- The place in a context's queue of the command to serve: the oldest, or while BUSY the oldest without LOW. -/
def serveIdx (s : State) (h : Nat) : Option Nat :=
  let q := (hctx s h).queue
  if ctxBusy s h then q.findIdx? (fun c => !c.low) else if q.isEmpty then none else some 0

/-- While BUSY, LOW commands wait; each wait counts once in DEFERRED (R405). DEDUCED, unsafe: log entry 202. -/
def deferLow (s : State) (h : Nat) : State :=
  if !(ctxBusy s h) then (if flag s (asker s) (hf R.HST_H_STATE_DEFERRING h) then showCtx s h else s) else
  let n := ((hctx s h).queue.filter (fun c => c.low && !c.deferred)).length
  let s := onLive (fun s t => cntBy s t (ha R.HST_H_DEFERRED h) n) s
  showCtx (modCtx s h (fun x => { x with queue := x.queue.map (fun c => { c with deferred := c.deferred || c.low }) })) h

/-- The command at a place of a context's queue is taken out and executes; with no command left the MP domain is gated. -/
def serveCmd (s : State) (h i : Nat) : State :=
  match (hctx s h).queue[i]? with
  | none => s
  | some q =>
    let s := runCmd q (opFromPacket q) (modCtx s h (fun x => { x with queue := x.queue.eraseIdx i }))
    if [0, 1, 2, 3].all (fun k => (hctx s k).queue.isEmpty) then onLive (fun s t => gate s t 6) s else s

/-- The load condition of BUSY (R405): above 90 %, until below 70 %. DESIGN CHOICE, unsafe: log entry 200. -/
def showLoad (s : State) (load : Nat) : State :=
  let was := flag s (asker s) R.HST_G_STATUS_BUSY
  let now := decide (90 < load) || (was && decide (70 ≤ load))
  onLive (fun s t => wf (wf s t R.HST_G_STATUS_MP_LOAD load) t R.HST_G_STATUS_BUSY (bit now)) s

/-- COMMAND_EXECUTE (R404, R405): the leading twin's processor serves the next context in turn that has a command to
serve. `load` is its load over the last 10 ms. -/
def execCommandExecute (load : Fin 101) (s : State) : Out :=
  .next (if (leader s).isNone then s else
    let s := [0, 1, 2, 3].foldl deferLow (showLoad s load.val)
    match ([0, 1, 2, 3].map (fun i => (s.host.turn + i) % 4)).find? (fun h => (serveIdx s h).isSome) with
    | none => s
    | some h => serveCmd (modHost s (fun x => { x with turn := (h + 1) % 4 })) h ((serveIdx s h).getD 0))

/-- LOW_WAIT_LIMIT (R405): a LOW command of a context has waited 1 s and executes. -/
def execLowWaitLimit (h : Fin 4) (s : State) : Out :=
  .next (if (leader s).isNone then s else
    match (hctx s h.val).queue.findIdx? (fun c => c.low && c.deferred) with
    | some i => serveCmd s h.val i
    | none => s)

end Sys2Proof.Machine
end

