-- ==== Sys2Proof/Machine/Leave.lean ====
section
/-! DEFINITION. Sluice grants, releases and time-outs (R444 to R446), and what acts on a whole twin or on the device: loss
of lock (R442), power fail (R432) and over-temperature (R475). -/

namespace Sys2Proof.Machine

/-! Sluice leave. -/

/-- The wait of a command for a request. -/
def waitOf (s : State) (r : LeaveReq) : Option HostWait :=
  s.host.waits.find? (fun w => w.op == r.op && w.twin == r.twin && w.arg == r.arg)

/-- A wait ends. -/
def dropWait (s : State) (w : HostWait) : State :=
  modHost s (fun x => { x with waits := x.waits.erase w })

/-- Boot-flash programming under its leave, by what it writes. A session keeps its leave until it ends. -/
def flashOp (s : State) (r : LeaveReq) : State :=
  let t := r.twin
  let done := fun (s : State) => leaveEndFor s 5 t r.arg
  match r.arg with
  | 0 => modFlash s t (fun f => { f with sessGranted := f.session.isSome })
  | 1 => done (writeReserve s t)
  | 2 => done (calWrite s t)
  | 4 => done (wearWrite s t true)
  | _ =>
    match waitOf s r with
    | none => done s
    | some w => done (keyRoll s w.cmd (BitVec.ofNat 128 (beNat w.cmd.params)) w.flashOk)

/-- A granted operation starts. -/
def startOp (s : State) (r : LeaveReq) : State :=
  let t := r.twin
  match r.op with
  | 0 => startTraining s r.arg
  | 1 => modPwr s t (fun p => { p with fullTest := true })
  | 2 => loadRun s t r.arg
  | 3 => calRun s t
  | 4 => gdDiagBegin s t
  | 5 => flashOp s r
  | 6 => rampRun s t
  | _ => dumpRun s t r.arg

/-- The command that waited for a grant is answered, unless LEAVE_WAIT has answered it; a key roll's reply is tagged with the
old key (R399). -/
def answerWait (before s : State) (r : LeaveReq) : State :=
  match waitOf s r with
  | none => s
  | some w =>
    let s1 := dropWait s w
    if w.replied then s1
    else if w.cmd.opcode = 3 then replyWith (ctxKey before w.cmd.ctx) s1 w.cmd s.report (ctxBusy s1 w.cmd.ctx) []
    else reply s1 w.cmd Rc.OK w.data

/-- SLUICE_GRANT (R444, R446): the head of a twin's ledger is granted if it fits, its operation starts, and the command that
waits for it is answered; after a power fail no new leave is given (R432). -/
def execSluiceGrant (t : Twin) (s : State) : Out :=
  .next (match sameLedger s t s.sluice.queue with
    | [] => s
    | r :: _ => if headFits s t ∧ s.pfail = false then answerWait s (startOp (grantHead (say s Rc.OK) t) r) r else s)

/-- SLUICE_RELEASE (R444): an operation of a twin has ended and its cost returns.
DESIGN CHOICE, unsafe: log entry 219. -/
def execSluiceRelease (t : Twin) (op : Fin 8) (s : State) : Out :=
  .next (if leaveHeld s op.val t then leaveEnd s op.val t else s)

/-- LEAVE_WAIT (R446): no grant within 1 ms; the command replies LEAVE_WAIT with its results, and its request stays queued.
A command whose request went with a reset of its twin is answered with TWIN_ABSENT. DEDUCED, unsafe: log entry 221. -/
def execLeaveWait (t : Twin) (op : Fin 8) (s : State) : Out :=
  let due := s.host.waits.filter (fun w => w.op == op.val && w.twin == t && !w.replied)
  if leaveWaits s op.val t then
    let q := s.sluice.queue.map (fun r => if r.op == op.val && r.twin == t then { r with waited := true } else r)
    let s1 := say (cnt { s with sluice := { s.sluice with queue := q } } t R.PWR_WAITS) Rc.LEAVE_WAIT
    .next (due.foldl (fun s w => reply (modHost s (fun x => { x with
      waits := x.waits.map (fun v => if v = w then { v with replied := true } else v) })) w.cmd Rc.LEAVE_WAIT w.data) s1)
  else .next (due.foldl (fun s w => reply (dropWait s w) w.cmd Rc.TWIN_ABSENT []) s)

/-- What a host request that leaves the queue ungranted leaves behind. DEDUCED, unsafe: log entry 222. -/
def giveUp (s : State) (r : LeaveReq) : State :=
  let t := r.twin
  let s := match waitOf s r with
    | some w => dropWait s w
    | none => s
  match r.op with
  | 1 => modTwn s t (fun x => { x with rejoining := false })
  | 3 => modAdc s t (fun a => { a with step := 0 })
  | 5 => if r.arg = 0 then modFlash s t (fun f => { f with session := none, sessGranted := false, sessWords := [] }) else s
  | _ => s

/-- SLU_TIMEOUT (R446): a host request that waited longer than TIMEOUT leaves the queue; internal requests never do.
DESIGN CHOICE, unsafe: log entry 5. -/
def execSluTimeout (t : Twin) (op : Fin 8) (s : State) : Out :=
  match s.sluice.queue.find? (fun r => r.op == op.val && r.twin == t && r.host) with
  | none => .next s
  | some r =>
    let last := BitVec.ofNat 32 (op.val * 4096 + t.index * 256 + Rc.LEAVE_TIMEOUT)
    let s1 := giveUp { s with sluice := { s.sluice with queue := s.sluice.queue.erase r } } r
    let s2 := onBoth (fun s u => wr (showLedger s u) u R.PWR_SLU_LAST last) s1
    .next (cnt (ev s2 t R.PWR_EVENT_SLU_TIMEOUT) t R.PWR_TIMEOUTS)

/-! Loss of lock (R442). -/

/-- HST_G_STATUS.FALLBACK: the leading twin's processor runs on its RC oscillator. -/
def showFallback (s : State) : State :=
  let v := bit (flag s (asker s) R.CLK_STATUS_MP_RC)
  onLive (fun s t => wf s t R.HST_G_STATUS_FALLBACK v) s

/-- The system PLL loses lock: the processor runs at 50 MHz, and a ramp in progress is aborted with its leave returned. -/
def systemUnlock (s : State) (t : Twin) : State :=
  let f := mpFreq s t
  let s1 := modPwr s t (fun p => { p with lastFreq := f })
  let s2 := wr (wf s1 t R.CLK_STATUS_MP_RC 1) t R.CLK_MP_FREQ 50000#32
  showFallback (if flag s t R.CLK_STATUS_RAMPING then ev (rampStop s2 t) t R.CLK_EVENT_RAMP_ABORT else s2)

/-- The system PLL relocks: the processor returns to the frequency last held, a free value where none has been.
DESIGN CHOICE, safe: log entry 224. -/
def systemRelock (s : State) (t : Twin) : State :=
  if !(flag s t R.CLK_STATUS_MP_RC) then s else
  let f := (s.tw t).pwr.lastFreq
  let v := if f = 0 then Config.freeWord s.free else BitVec.ofNat 32 f
  let s := if f = 0 then freeTick s else s
  showFallback (wr (wf s t R.CLK_STATUS_MP_RC 0) t R.CLK_MP_FREQ v)

/-- The twin's crystal stops, and the TB PLL that it clocks loses lock with it (R438, R442). -/
def crystalLost (s : State) (t : Twin) : State := wf s t R.CLK_STATUS_XTAL 0

/-- PLL_LOCK_LOSS (R442, R144, R277): PLL 0 TB, 1 AD, 2 cell-lane, 3 network-lane, 4 system; 5 is the loss of the twin's
crystal, which acts as the loss of TB. DEDUCED, unsafe: log entry 225. -/
def execPllLockLoss (t : Twin) (x : Fin 6) (s : State) : Out :=
  let p : Fin 5 := ⟨x.val % 5, Nat.mod_lt _ (by decide)⟩
  let s := if x.val = 5 ∧ twState s t ≠ tsReset then crystalLost s t else s
  if twState s t = tsReset ∨ !(biti s t R.CLK_STATUS_LOCK p.val) then .next s else
  let s1 := evi (clri s t R.CLK_STATUS_LOCK p.val) t R.CLK_EVENT_UNLOCK p.val
  .next (match p.val with
    | 0 => withdraw s1 t 5
    | 1 => adUnlock s1 t
    | 2 => (List.range 12).foldl (fun s c => setRing s t c 0) s1
    | 3 => [0, 1].foldl (fun s k => portLinkSet s (2 * t.index + k) false false false false 2 0) s1
    | _ => systemUnlock s1 t)

/-- The domains that a PLL clocks run again, and their waiting transfers complete (R36). -/
def clockResumes (s : State) (t : Twin) (p : Nat) : State :=
  ([0, 1, 2, 4, 5] : List (Fin 9)).foldl (fun s d =>
    if domainPll d.val = some p ∧ !(domainWaits s t d) then deliver s t d else s) s

/-- PLL_RELOCK (R442, R277): TB relocks on a running crystal and its counter goes on from its last value; waiting transfers complete; conversions resume; the rings of live chains
restart under R123; the ports come back with their links (R306); the processor returns to its PLL. -/
def execPllRelock (t : Twin) (p : Fin 5) (s : State) : Out :=
  if twState s t = tsReset then .next s else
  let s0 := if p.val = 0 then wf s t R.CLK_STATUS_XTAL 1 else s
  let s1 := clockResumes (evi s0 t R.CLK_STATUS_LOCK p.val) t p.val
  .next (match p.val with
    | 1 => wf s1 t R.ADC_STATUS_AD_UNLOCK 0
    | 2 =>
      if flag s1 t R.ARR_CTRL_ENABLE then
        (liveChains s1 t).foldl (fun s c => if ringSt s t c = 0 then trainRing s t c else s) s1
      else s1
    | 4 => systemRelock s1 t
    | _ => s1)

/-! Power fail and over-temperature (R431, R432, R475). -/

/-- The twins that save their wear at an orderly power-down (R432): both while both lead or follow, otherwise the leading
twin. DEDUCED, unsafe: log entry 226. -/
def savers (s : State) : List Twin :=
  if inPair s .a && inPair s .b then [.a, .b] else (leader s).toList

/-- PFAIL (R431, R432): new leave is refused, an open session is abandoned, the wear record is written, and ORDERLY_DONE is
set. -/
def execPfail (s : State) : Out :=
  let s1 := onLive (fun s t => ev s t R.PWR_EVENT_PFAIL) { s with pfail := true }
  let s2 := onBoth (fun s t => if (s.tw t).flash.session.isSome then sessionEnd s t else s) s1
  let s3 := (savers s).foldl (fun s t => wearWrite s t true) s2
  .next (onLive (fun s t => wf s t R.PWR_STATUS_ORDERLY_DONE 1) s3)

/-- VIN_RETURN (R432): VIN is back above THR + 0.5 V before a brown-out, and the SK192 resumes.
DEDUCED, unsafe: log entry 226. -/
def execVinReturn (s : State) : Out := .next { s with pfail := false }

/-- OVER_TEMPERATURE (R475): every SOUT channel goes off, every output to high impedance, and the regulators stop: both
twins and both safety-monitor domains are in reset, and no rail but VIN is good. DEDUCED, unsafe: log entry 227. -/
def execOverTemperature (s : State) : Out :=
  let up := biti s .a R.PWR_STATUS_GOOD 0
  .next (if s.overTemp then s
    else onBoth (fun s t => wf s t R.PWR_STATUS_GOOD (bit up)) { resetWhole s 7 false with overTemp := true })

/-- OVER_TEMP_RESTART (R475): below 140 °C the SK192 restarts as after a brown-out, with cause 7. -/
def execOverTempRestart (s : State) : Out :=
  .next (if s.overTemp then onBoth (fun s t => wf s t R.SYS_STATUS_CAUSE 7) { s with overTemp := false } else s)

end Sys2Proof.Machine
end

