-- ==== Sys2Proof/Machine/Takeover.lean ====
section
/-! DEFINITION. How a twin comes into service: the end of its boot (R451, R452), the grant of the interlock (R149, R154) and
the completion of a join (R159, R160). -/

namespace Sys2Proof.Machine

/-! Boot (R451, R452). -/

/-- A word of the link-table window NET_TAB (R336), which the link-table image alone fills (R448). -/
def tabWord (a : Nat) : Bool := decide (R.NET_TAB ≤ a) && decide (a < 0x1210000)

/-- The registers that an image carries are stored, of link tables the records, of a board image every other one; the safety parameters come with SAFETY_PARAM_LOAD (R383).
DEDUCED, unsafe: log entry 231. -/
def loadImageRegs (s : State) (t : Twin) (link : Bool) (b : List Byte) : State :=
  ((Config.boardOf b).filter (fun e => (findRow e.1).isSome && !(safetyParam e.1) && tabWord e.1 == link)).foldl
    (fun s e => wr s t e.1 (if (List.range 4).any (fun h => e.1 == ha R.HST_H_CFG h) then
      (e.2 &&& 0xFFFF0000#32) ||| (rd s t e.1 &&& 0x7F#32) else e.2)) s

/-- The wear record that the twins agree at boot (R64): of each cell the greater damage and that record's other values.
DEDUCED, unsafe: log entry 230. -/
def agreedWear (own other : List W32) : List W32 :=
  let dmg := fun (l : List W32) => (l.getD 0 0#32).toNat + 4294967296 * (l.getD 1 0#32).toNat
  if dmg own < dmg other then other else own

/-- The cells' wear values are restored from the boot flashes. -/
def loadWear (s : State) (t : Twin) : State :=
  let own := (s.tw t).flash.wear
  let oth := (s.tw t.other).flash.wear
  (List.range 192).foldl (fun s k =>
    match agreedWear (tabGet [] own k) (tabGet [] oth k) with
    | [lo, hi, n, cap, esr] =>
      let s := wr (wr s t (R.CELL_DAMAGE_LO + 256 * k) lo) t (R.CELL_DAMAGE_HI + 256 * k) hi
      wr (wr (wr s t (R.CELL_TCYCLES + 256 * k) n) t (R.CELL_CAP + 256 * k) cap) t (R.CELL_ESR + 256 * k) esr
    | _ => s) s

/-- The converters' calibration is restored from the boot flash (R291, R292). -/
def loadCal (s : State) (t : Twin) : State :=
  (s.tw t).flash.cal.foldl (fun s e =>
    if e.1 < 64 then wr s t (R.ADC_CAL + 64 * (e.1 / 16) + 4 * (e.1 % 16)) e.2
    else wf s t (if e.1 = 65 then R.ADC_SKEW_SKEW1 else R.ADC_SKEW_SKEW3) e.2.toNat) s

/-- The boot base (R137): the greater of the two reserves, which a twin still in BOOT takes as well, or a twin's own reserve
where the other is in RESET. -/
def loadEpoch (s : State) (t : Twin) : State :=
  let own := (s.tw t).flash.epochRes
  let base := if twState s t.other = tsReset then own else max own (s.tw t.other).flash.epochRes
  let s := modTwn (wr s t R.TWN_EPOCH_RES (BitVec.ofNat 32 own)) t (fun x => { x with bootBase := base })
  if twState s t.other = tsBoot then modTwn s t.other (fun x => { x with bootBase := max x.bootBase base }) else s

/-- The images of the slots used are loaded (R451 step 3): versions, slots and trial marks, the board and link-table values,
the graph, and what the other areas of the boot flash hold. -/
def loadImages (s : State) (t : Twin) (slots : List Nat) : State :=
  let im := fun (ty : Nat) => slotImage s t ty (slots.getD ty 0)
  let s := [0, 1, 2, 3].foldl (fun s ty => wr s t (R.SYS_VERSION + 4 * ty) (imageVersion (im ty))) s
  let mask := fun (f : Nat → Bool) => [0, 1, 2, 3].foldl (fun m ty => if f ty then m + 2 ^ ty else m) 0
  let onTrial := fun (ty : Nat) => nbit (s.tw t).flash.trial ty && slots.getD ty 0 != activeSlot s t ty
  let s := wf (wf s t R.SYS_STATUS_SLOT (mask (fun ty => slots.getD ty 0 == 1))) t R.SYS_STATUS_TRIAL (mask onTrial)
  let s := modTwn s t (fun x => { x with updated := mask onTrial != 0 })
  let s := loadImageRegs (loadImageRegs s t false (im 2)) t true (im 3)
  let s := loadGraph s t (graphImage (im 1))
  loadEpoch (loadCal (loadWear s t) t) t

/-- BOOT_COMPLETE (R451, R452): the images are checked, those of the usable slots are loaded, and the boot self-test has run.
Without a valid image of some type BOOT_FAIL is set and the twin stays in BOOT, as it does where the self-test failed. A
slot that was tried and failed, or a trial given up, sets BOOT_FALLBACK. DEDUCED, unsafe: log entry 30. -/
def execBootComplete (t : Twin) (selfTest : Bool) (ms : BitVec 16) (s : State) : Out :=
  if twState s t ≠ tsBoot ∨ (s.tw t).pwr.bootDone then .next s else
  let pick := [0, 1, 2, 3].map (bootSlot s t)
  let fell := (s.tw t).flash.fellBack || [0, 1, 2, 3].any (fun ty => (pick.getD ty none) != some (firstSlot s t ty))
  let lost := [0, 1, 2, 3].any (fun ty => nbit (s.tw t).flash.trial ty && (pick.getD ty none) != some (firstSlot s t ty))
  let s1 := if fell then ev s t R.SYS_EVENT_BOOT_FALLBACK else s
  let s2 := modFlash s1 t (fun f => { f with fellBack := false })
  let s3 := wf s2 t R.SYS_BOOT_MS_BOOT_MS ms.toNat
  .next (if pick.any (·.isNone) then
      (if lost then dropTrial (wf s3 t R.SYS_STATUS_BOOT_FAIL 1) t else wf s3 t R.SYS_STATUS_BOOT_FAIL 1)
    else
      let s4 := loadImages s3 t (pick.map (·.getD 0))
      let s5 := if lost then modFlash (dropTrial s4 t) t (fun f => { f with fellBack := false }) else s4
      if !selfTest then (if (s5.tw t).flash.trial = 0 then s5 else dropTrial s5 t)
      else
        let s6 := modPwr s5 t (fun p => { p with bootDone := true })
        if twOther s t = tsLeading then bootJoin s6 t else s6)

/-! The grant of the interlock (R149). -/

/-- The safety-parameter write that a change confirms is pending again where none is (R380). -/
def pendAgain (s : State) (c : Change) : State :=
  match c.param with
  | none => s
  | some p => onBoth (fun s t =>
      if (if t = .a then p.a else p.b) && (s.tw t).saf.pend.isNone then setPend s t (some p) else s) s

/-- The commands that the new leader executes again, in order (R154, R412): the changes not yet agreed return to their
queues, behind the `n` commands executed last that the old leader had not reported. DESIGN CHOICE, unsafe: log entry 35. -/
def reexecute (s : State) (n : Nat) : State :=
  let undone := s.host.changes.filter (fun c => !c.agreed)
  let l := ((s.host.sent.take n).reverse.map (·.1)) ++ undone.map (·.cmd)
  let s := modHost s (fun x => { x with changes := x.changes.filter (fun c => c.agreed), sent := x.sent.drop n })
  [0, 1, 2, 3].foldl showCtx (l.reverse.foldl (fun s c =>
    if c.via.isSome || !c.params.isEmpty then modCtx s c.ctx (fun x => { x with queue := { c with execAt := none } :: x.queue })
    else s) (undone.foldl pendAgain s))

/-- The replies last sent go out again, oldest first (R154). -/
def resendReplies (s : State) (n : Nat) : State :=
  (s.host.sent.take n).reverse.foldl (fun s e => emit s e.1.via e.1.ip e.1.port e.1.ctx e.2) s

/-- The new holder takes the lead (R149 steps 1 and 2): a new epoch, LEADING, and from FOLLOWING or ISOLATED a take-over: its
event and count, sequence numbers 1 024 beyond the last one it heard (R305), CAN frames pending anew (R351), and the commands and
replies of R154. The shared pins follow with SHARED_PIN_SWITCH. DEDUCED, unsafe: log entry 34. -/
def takeLead (s : State) (t : Twin) (resend rerun : Nat) : State :=
  let over_ := twState s t = tsFollowing ∨ twState s t = tsIsolated
  let s1 := setTwState (takeEpoch (saveEpoch s t) t) t tsLeading
  let s2 := if over_ then
      let s := cnt (ev s1 t R.TWN_EVENT_TAKEOVER) t R.TWN_TAKEOVERS
      let s := modNet (canRepend s t) (fun n => { n with seq := ((s.tw t).net.seqHeard + 1024) % 65536 })
      resendReplies (reexecute s rerun) resend
    else s1
  reserveCheck s2 t

/-- A full self-test of a boot that now leads is given up, with its leave (R131). -/
def dropRejoin (s : State) (t : Twin) : State :=
  if (s.tw t).twn.rejoining then
    modPwr (modTwn (leaveEnd s 1 t) t (fun x => { x with rejoining := false })) t (fun p => { p with fullTest := false })
  else s

/-- INTERLOCK_GRANT (R149): the arbiter, free of a holder, grants a pending request of a twin that reaches it (R134). A twin
that no longer wants it releases it at once. `resend` is how many of the last replies the old leader may not have
delivered, `rerun` how many of the last commands it had not reported as executed (R154). -/
def execInterlockGrant (t : Twin) (again : GrantAgain) (s : State) : Out :=
  if s.ilk.holder.isSome ∨ !(ilkReq s t) ∨ !(flag s t R.TWN_STATE_ARB_REACH) then .next s else
  let st := twState s t
  let wants := st == tsFollowing || st == tsIsolated || st == tsLeading
    || (st == tsBoot && (s.tw t).pwr.bootDone && twOther s t != tsLeading)
  let s1 := setIlkReq s t false
  .next (if wants then
      takeLead (wf { dropRejoin s1 t with ilk := { s1.ilk with holder := some t } } t R.TWN_STATE_HOLDS 1) t again.resend.toNat
        again.rerun.toNat
    else s1)

/-! Joining (R159, R160). -/

/-- The blocks whose registers are the same in both twins: ARR_, CELL_, LAW_, PWM_, GD_, NET_, CAN_, HST_ and DRV_. -/
def sharedBlock (b : Nat) : Bool := [3, 4, 5, 7, 8, 11, 13, 15, 18].contains b

/-- The blocks of which only the settings pass to a joining twin: TRB_, NEG_, TRIP_, ADC_, TIME_, TWN_ and HLT_. -/
def settingBlock (b : Nat) : Bool := [2, 6, 9, 10, 12, 17, 19].contains b

/-- Fields of LAW_ that follow a twin's own engines, which a join leaves as they are (R37): ENGINES, SCHED and the stated
times. -/
def ownEngines (a : Nat) (f : RegField) : Bool :=
  (a == R.LAW_STATUS_SCHED.addr && decide (16 ≤ f.lo)) || ((List.range 4).any (fun k => a == R.LAW_RG_TIME_STATED.addr + 16 * k) && f.lo == R.LAW_RG_TIME_STATED.lo)

/-- Whether record `i` of the family at window offset `base`, of `size` bytes a record, differs between two twins. -/
def recDiffers (s : State) (l t : Twin) (base size i : Nat) : Bool :=
  (List.range (size / 4)).any (fun k =>
    rd s l (R.NET_TAB + base + size * i + 4 * k) != rd s t (R.NET_TAB + base + size * i + 4 * k))

/-- A register of a stream whose record a live update has changed: it restarts (R335). -/
def streamRestarts (s : State) (l t : Twin) (a : Nat) : Bool :=
  let o := a - R.NET_CTRL
  if o < 0x400 ∨ 0xC80 ≤ o then false
  else if o < 0x500 then recDiffers s l t 0 0x80 ((o - 0x400) / 0x20)
  else if o < 0x600 then false
  else if o < 0x680 then recDiffers s l t 0x400 0x80 ((o - 0x600) / 0x20)
  else if o < 0x800 then false
  else if o < 0xA00 then recDiffers s l t 0x1000 0x100 ((o - 0x800) / 0x10)
  else if o < 0xC00 then false
  else recDiffers s l t 0x3000 0x100 ((o - 0xC00) / 0x10)

/-- What a joining twin takes of the leader's network state: all but the streams whose records differ (R335). -/
def joinNet (s : State) (l t : Twin) : NetTw :=
  let n := (s.tw l).net
  { n with
    sv := n.sv.filter (fun e => !(recDiffers s l t 0 0x80 (e.1 / 2)))
    hold := n.hold.filter (fun e => !(recDiffers s l t 0 0x80 e.1))
    gs := n.gs.filter (fun e => !(recDiffers s l t 0x1000 0x100 (e.1 / 2)))
    gp := n.gp.filter (fun e => !(recDiffers s l t 0x3000 0x100 e.1))
    hist := n.hist.filter (fun e => !(recDiffers s l t 0x400 0x80 (e.1 / 16))) }

/-- A word of a joining twin: the shared blocks' values and settings, or the settings alone; events and counters stay its own but
for those of HST_, identical in both twins (R426); so do its calibration and torque monitors, LAW_ while its graph differs, the link tables and the streams whose record
differs. DEDUCED, unsafe: log entry 31. -/
def joinWord (l t : Twin) (same : Bool) (s : State) (a : Nat) : State :=
  match findRow a, blockOf a with
  | some r, some b =>
    let cal := (R.ADC_CAL ≤ a ∧ a < R.ADC_CAL + 256) ∨ a = R.ADC_SKEW
    let take := fun (f : RegField) => match f.acc with
      | .rw => true
      | .rwl => sharedBlock b || b == 9
      | .ro => sharedBlock b
      | .w1c => b == 15
      | .rc => b == 15
      | _ => false
    if !(sharedBlock b || settingBlock b) ∨ cal ∨ safetyParam a ∨ (b = 5 ∧ !same) ∨ tabWord a ∨ streamRestarts s l t a ∨ a = R.TIME_RATE then s
    else wr s t a (r.fields.foldl (fun w f => if take f && !(ownEngines a f) then putBits w f.hi f.lo (bits (rd s l a) f.hi f.lo) else w) (rd s t a))
  | _, _ => s

/-- The state of the blocks that the migration table of the new image maps (R160): their words, histories and selectors. -/
def migrateGraph (l t : Twin) (g : GraphImg) (s : State) : State :=
  g.migrate.foldl (fun s m =>
    let x := (s.tw l).law
    modLaw (setBlkWords s t R.LAW_BLK_STATE m.2 (blkWords s l R.LAW_BLK_STATE m.1 8)) t (fun y => { y with
      bufs := tabSet [] y.bufs m.2 (tabGet [] x.bufs m.1)
      ms := tabSet ⟨0, none⟩ y.ms m.2 (tabGet ⟨0, none⟩ x.ms m.1) })) s

/-- What a joining twin has loaded from the leader when its join completes (R159): the graph state of every group,
the array state, the developed configuration, and the state of the units that both twins run alike. DEDUCED, unsafe:
log entry 274. -/
def loadJoin (s : State) (l t : Twin) (same : Bool) : State :=
  let keys := ((s.tw l).regs ++ (s.tw t).regs).map (·.1)
  let s := keys.foldl (joinWord l t same) s
  let x := s.tw l
  let y := s.tw t
  let s := s.setTw t { y with arr := { x.arr with engBad := y.arr.engBad, engFailed := y.arr.engFailed }, law := if same then x.law else y.law, can := x.can, drv := x.drv, net := joinNet s l t, tm := x.tm }
  let s := if same then s else (match y.law.img with
    | some g => migrateGraph l t g s
    | none => s)
  let sl := rf s l R.SYS_STATUS_SAFELIGHT
  let s := wf (wf s t R.SYS_STATUS_SAFELIGHT sl) t R.SYS_CTRL_SAFELIGHT sl
  let s := setRate s t (rd s l R.TIME_RATE)
  wf (wr s t R.PWR_SLU_CFG (rd s l R.PWR_SLU_CFG)) t R.ADC_STATUS_ENABLED (rf s l R.ADC_STATUS_ENABLED)

/-- A trial slot becomes active when its twin reaches JOINED (R452). -/
def keepTrial (s : State) (t : Twin) : State :=
  modFlash (wf s t R.SYS_STATUS_TRIAL 0) t (fun f => { f with
    active := f.active ^^^ f.trial, dirOld := f.active, dirGen := f.dirGen + 1, verified := f.verified - (f.verified &&& f.trial), trial := 0 })

/-- Both twins run updated images: the update is over (R160 step 6). -/
def updateOver (s : State) : State :=
  if s.a.twn.updated && s.b.twn.updated then onBoth (fun s t => modTwn s t (fun x => { x with updated := false })) s else s

/-- The rings of a twin that has joined come up while the array is enabled (R123). -/
def joinRings (s : State) (t : Twin) : State :=
  if flag s t R.ARR_CTRL_ENABLE then
    (liveChains s t).foldl (fun s c => if ringSt s t c < 2 then trainRing s t c else s) s
  else s

/-- JOIN_COMPLETE (R159, R160): the remaining chunks were all sent over the inter-twin link within one cycle; the twin enters
FOLLOWING and sets JOINED. Comparison stays off where the graph differs; images of unlike agreement inputs are refused with
UPDATE_INCOMPATIBLE, and the join fails. DEDUCED, unsafe: log entry 32. -/
def execJoinComplete (t : Twin) (s : State) : Out :=
  let l := t.other
  if twState s t ≠ tsJoining ∨ twState s l ≠ tsLeading ∨ twOther s t ≠ tsLeading ∨ twOther s l = tsLost
      ∨ (s.tw t).twn.linkFailed ∨ (s.tw l).twn.linkFailed ∨ (s.tw t).twn.joinFailed then .next s else
  let gl := (s.tw l).law.img
  let gt := (s.tw t).law.img
  if gl.map (·.inputHash) ≠ gt.map (·.inputHash) then
    .next (modTwn (ev (say s Rc.UPDATE_INCOMPATIBLE) t R.TWN_EVENT_JOIN_FAIL) t (fun x => { x with joinFailed := true }))
  else
    let same := decide (gl.map (·.hash) = gt.map (·.hash)) && decide (gl.map (·.version) = gt.map (·.version))
    let s1 := keepTrial (loadJoin s l t same) t
    let s2 := modTwn s1 t (fun x => { x with compareOff := !same, dig := [], overrunRun := 0, missRun := 0, bgPass := 0 })
    let s3 := modTwn s2 l (fun x => { x with compareOff := !same })
    let s4 := updateOver (wf s3 l R.TWN_STATE_OTHER tsFollowing)
    .next (joinRings (twnFlags (setTwState (ev s4 t R.TWN_EVENT_JOINED) t tsFollowing) l) t)

end Sys2Proof.Machine
end

