-- ==== Sys2Proof/Machine/Dispatch.lean ====
section
/-! DEFINITION. One arm per command: a direct call of its meaning. -/

namespace Sys2Proof.Machine

/-- The effect of a command on everything but the queue. -/
def exec (i : Instr) (s : State) : Host.Outcome State Fault Refusal :=
  match i with
  | .rcRead t addr meets => Sys2Proof.Machine.execRcRead t addr meets s
  | .registerWrite tg addr v => Sys2Proof.Machine.execRegisterWrite tg addr v s
  | .interlockGrant t again => Sys2Proof.Machine.execInterlockGrant t again s
  | .sharedPinSwitch t => Sys2Proof.Machine.execSharedPinSwitch t s
  | .interlockRelease t lost => Sys2Proof.Machine.execInterlockRelease t lost s
  | .linkWordReceive t groups => Sys2Proof.Machine.execLinkWordReceive t groups s
  | .linkHandshakeTimeout t => Sys2Proof.Machine.execLinkHandshakeTimeout t s
  | .crossingTransfer t d into samples => Sys2Proof.Machine.execCrossingTransfer t d into samples s
  | .domainWake t d => Sys2Proof.Machine.execDomainWake t d s
  | .crossingSideReset t d fabric => Sys2Proof.Machine.execCrossingSideReset t d fabric s
  | .crossingRehandshake t d => Sys2Proof.Machine.execCrossingRehandshake t d s
  | .cycleStart t n => Sys2Proof.Machine.execCycleStart t n s
  | .agreementClose t gpio => Sys2Proof.Machine.execAgreementClose t gpio s
  | .rg0RunComplete t time => Sys2Proof.Machine.execRg0RunComplete t time s
  | .digestCompare k n => Sys2Proof.Machine.execDigestCompare k n s
  | .dispatchDeadline t => Sys2Proof.Machine.execDispatchDeadline t s
  | .lawEngineFail t e => Sys2Proof.Machine.execLawEngineFail t e s
  | .arrayEnable => Sys2Proof.Machine.execArrayEnable s
  | .arrayFirstFrame n0 => Sys2Proof.Machine.execArrayFirstFrame n0 s
  | .arrayStop => Sys2Proof.Machine.execArrayStop s
  | .mapEntryWrite k v => Sys2Proof.Machine.execMapEntryWrite k v s
  | .carrierRotation st => Sys2Proof.Machine.execCarrierRotation st s
  | .thermalUpdate t => Sys2Proof.Machine.execThermalUpdate t s
  | .weightUpdate t => Sys2Proof.Machine.execWeightUpdate t s
  | .wearRecordSave t ok => Sys2Proof.Machine.execWearRecordSave t ok s
  | .estimatorResult t st => Sys2Proof.Machine.execEstimatorResult t st s
  | .imbalanceDetected k => Sys2Proof.Machine.execImbalanceDetected k s
  | .cellLostDetected k => Sys2Proof.Machine.execCellLostDetected k s
  | .cellBypass k => Sys2Proof.Machine.execCellBypass k s
  | .bypassUnconfirmed k => Sys2Proof.Machine.execBypassUnconfirmed k s
  | .cellInsert k => Sys2Proof.Machine.execCellInsert k s
  | .spareInsertStart k => Sys2Proof.Machine.execSpareInsertStart k s
  | .insertTimeout k => Sys2Proof.Machine.execInsertTimeout k s
  | .cellReadmit k => Sys2Proof.Machine.execCellReadmit k s
  | .ringRxSync t c => Sys2Proof.Machine.execRingRxSync t c s
  | .ringStartTimeout t c => Sys2Proof.Machine.execRingStartTimeout t c s
  | .ringRetry t c => Sys2Proof.Machine.execRingRetry t c s
  | .restart t c => Sys2Proof.Machine.execRestart t c s
  | .probeNow t c => Sys2Proof.Machine.execProbeNow t c s
  | .frameReturn t c bytes codeErrs framed arrival => Sys2Proof.Machine.execFrameReturn t c bytes codeErrs framed arrival s
  | .returnDeadline t c => Sys2Proof.Machine.execReturnDeadline t c s
  | .wrappedFrameRelay t c bytes => Sys2Proof.Machine.execWrappedFrameRelay t c bytes s
  | .probeCycle => Sys2Proof.Machine.execProbeCycle s
  | .probeStale t c => Sys2Proof.Machine.execProbeStale t c s
  | .delayExchange c pair t1 t4 ta => Sys2Proof.Machine.execDelayExchange c pair t1 t4 ta s
  | .cellFrameForward c p portA bytes bad r m => Sys2Proof.Machine.execCellFrameForward c p portA bytes bad r m s
  | .cellCopyJudge c p portA bytes ok ref now => Sys2Proof.Machine.execCellCopyJudge c p portA bytes ok ref now s
  | .cellAcceptanceDeadline c p => Sys2Proof.Machine.execCellAcceptanceDeadline c p s
  | .cellWindowApply c p gone => Sys2Proof.Machine.execCellWindowApply c p gone s
  | .cellEventExecute c p => Sys2Proof.Machine.execCellEventExecute c p s
  | .cellBypassTimeout c p => Sys2Proof.Machine.execCellBypassTimeout c p s
  | .cellSyncAcquired c p portA => Sys2Proof.Machine.execCellSyncAcquired c p portA s
  | .cellSyncLost c p portA => Sys2Proof.Machine.execCellSyncLost c p portA s
  | .cellEidleEntry c p portA => Sys2Proof.Machine.execCellEidleEntry c p portA s
  | .cellTimeLockClear c p => Sys2Proof.Machine.execCellTimeLockClear c p s
  | .cellEidleExit c p portA => Sys2Proof.Machine.execCellEidleExit c p portA s
  | .cellSideDown c p sideD => Sys2Proof.Machine.execCellSideDown c p sideD s
  | .cellSideUp c p sideD => Sys2Proof.Machine.execCellSideUp c p sideD s
  | .linkDownNotice c p sideD => Sys2Proof.Machine.execLinkDownNotice c p sideD s
  | .cellLosIdle c p portA => Sys2Proof.Machine.execCellLosIdle c p portA s
  | .cellHardwareBypass c p => Sys2Proof.Machine.execCellHardwareBypass c p s
  | .heartbeatSend t => Sys2Proof.Machine.execHeartbeatSend t s
  | .heartbeatReceive t hb => Sys2Proof.Machine.execHeartbeatReceive t hb s
  | .otherLost t => Sys2Proof.Machine.execOtherLost t s
  | .keepaliveSend t acked => Sys2Proof.Machine.execKeepaliveSend t acked s
  | .keepaliveLapse t => Sys2Proof.Machine.execKeepaliveLapse t s
  | .arbiterUnreachable t => Sys2Proof.Machine.execArbiterUnreachable t s
  | .isolate t => Sys2Proof.Machine.execIsolate t s
  | .isolatedRejoin t => Sys2Proof.Machine.execIsolatedRejoin t s
  | .fastSelftestComplete passA passB unitA unitB => Sys2Proof.Machine.execFastSelftestComplete passA passB unitA unitB s
  | .withdraw t => Sys2Proof.Machine.execWithdraw t s
  | .rejoin t => Sys2Proof.Machine.execRejoin t s
  | .autoRejoin t => Sys2Proof.Machine.execAutoRejoin t s
  | .fullSelftestComplete t pass => Sys2Proof.Machine.execFullSelftestComplete t pass s
  | .dieOvertemp t tdie => Sys2Proof.Machine.execDieOvertemp t tdie s
  | .handoverName th => Sys2Proof.Machine.execHandoverName th s
  | .handover replyBusy => Sys2Proof.Machine.execHandover replyBusy s
  | .handoverPostpone => Sys2Proof.Machine.execHandoverPostpone s
  | .rotationDue t => Sys2Proof.Machine.execRotationDue t s
  | .rotateNow t => Sys2Proof.Machine.execRotateNow t s
  | .backgroundSelftestSlice t item corrected uncorrectable passDone coverage => Sys2Proof.Machine.execBackgroundSelftestSlice t item corrected uncorrectable passDone coverage s
  | .joinComplete t => Sys2Proof.Machine.execJoinComplete t s
  | .joinTimeout t => Sys2Proof.Machine.execJoinTimeout t s
  | .joinRetry t => Sys2Proof.Machine.execJoinRetry t s
  | .soakEnd t => Sys2Proof.Machine.execSoakEnd t s
  | .contactSheetRefresh t m => Sys2Proof.Machine.execContactSheetRefresh t m s
  | .snap t m => Sys2Proof.Machine.execSnap t m s
  | .rgTrigger t k gpio => Sys2Proof.Machine.execRgTrigger t k gpio s
  | .rgRunStart t k => Sys2Proof.Machine.execRgRunStart t k s
  | .rgRunComplete t k time => Sys2Proof.Machine.execRgRunComplete t k time s
  | .rgDeadline t k => Sys2Proof.Machine.execRgDeadline t k s
  | .load tg => Sys2Proof.Machine.execLoad tg s
  | .coefWrite tg b ix v => Sys2Proof.Machine.execCoefWrite tg b ix v s
  | .swap tg => Sys2Proof.Machine.execSwap tg s
  | .swapDevelop t k => Sys2Proof.Machine.execSwapDevelop t k s
  | .handoverForced t b => Sys2Proof.Machine.execHandoverForced t b s
  | .negArm tg e => Sys2Proof.Machine.execNegArm tg e s
  | .negFix tg e => Sys2Proof.Machine.execNegFix tg e s
  | .negDisarm tg e => Sys2Proof.Machine.execNegDisarm tg e s
  | .negRowWrite t e time lost => Sys2Proof.Machine.execNegRowWrite t e time lost s
  | .negEventFix t bits => Sys2Proof.Machine.execNegEventFix t bits s
  | .negRemoteFix t bits => Sys2Proof.Machine.execNegRemoteFix t bits s
  | .sequencerOutputApply => Sys2Proof.Machine.execSequencerOutputApply s
  | .driveEnable tg v => Sys2Proof.Machine.execDriveEnable tg v s
  | .channelRun tg d v => Sys2Proof.Machine.execChannelRun tg d v s
  | .xoHoldEnd d => Sys2Proof.Machine.execXoHoldEnd d s
  | .catchMeasureEnd d => Sys2Proof.Machine.execCatchMeasureEnd d s
  | .polarityTest d => Sys2Proof.Machine.execPolarityTest d s
  | .catchRetry d => Sys2Proof.Machine.execCatchRetry d s
  | .observerLoss d => Sys2Proof.Machine.execObserverLoss d s
  | .ascExit d => Sys2Proof.Machine.execAscExit d s
  | .tmonCmd t d => Sys2Proof.Machine.execTmonCmd t d s
  | .tmonEst t d => Sys2Proof.Machine.execTmonEst t d s
  | .discharge tg => Sys2Proof.Machine.execDischarge tg s
  | .dischargeStart => Sys2Proof.Machine.execDischargeStart s
  | .disRefused => Sys2Proof.Machine.execDisRefused s
  | .disStuck => Sys2Proof.Machine.execDisStuck s
  | .disDone => Sys2Proof.Machine.execDisDone s
  | .disFail => Sys2Proof.Machine.execDisFail s
  | .dischargeEnd => Sys2Proof.Machine.execDischargeEnd s
  | .chopperFail => Sys2Proof.Machine.execChopperFail s
  | .stage2 => Sys2Proof.Machine.execStage2 s
  | .spillTrip => Sys2Proof.Machine.execSpillTrip s
  | .spillwayExit => Sys2Proof.Machine.execSpillwayExit s
  | .clear tg => Sys2Proof.Machine.execClear tg s
  | .encoderCount a b z stamp => Sys2Proof.Machine.execEncoderCount a b z stamp s
  | .encoderIndex => Sys2Proof.Machine.execEncoderIndex s
  | .hallChange h stamp => Sys2Proof.Machine.execHallChange h stamp s
  | .pwmStart tg p => Sys2Proof.Machine.execPwmStart tg p s
  | .pwmStop tg p => Sys2Proof.Machine.execPwmStop tg p s
  | .pwmArm tg p => Sys2Proof.Machine.execPwmArm tg p s
  | .reloadCutoff p => Sys2Proof.Machine.execReloadCutoff p s
  | .reload p kind => Sys2Proof.Machine.execReload p kind s
  | .periodBoundary p => Sys2Proof.Machine.execPeriodBoundary p s
  | .compareEvent p ix => Sys2Proof.Machine.execCompareEvent p ix s
  | .pwmEdge gd p outB rise => Sys2Proof.Machine.execPwmEdge gd p outB rise s
  | .deadTimeEnd k outB => Sys2Proof.Machine.execDeadTimeEnd k outB s
  | .pwmForce tg p fa fb atB => Sys2Proof.Machine.execPwmForce tg p fa fb atB s
  | .dtLock tg => Sys2Proof.Machine.execDtLock tg s
  | .generatorBoundary g settled => Sys2Proof.Machine.execGeneratorBoundary g settled s
  | .gateUvlo g neg => Sys2Proof.Machine.execGateUvlo g neg s
  | .uvloRecover g neg => Sys2Proof.Machine.execUvloRecover g neg s
  | .bootstrapRefresh r => Sys2Proof.Machine.execBootstrapRefresh r s
  | .forcedRefresh g => Sys2Proof.Machine.execForcedRefresh g s
  | .gpbRun tg => Sys2Proof.Machine.execGpbRun tg s
  | .bridgeStartTest t pass => Sys2Proof.Machine.execBridgeStartTest t pass s
  | .gdDiagStart tg mask itest => Sys2Proof.Machine.execGdDiagStart tg mask itest s
  | .gdDiagChannelEnd v1 v2 vp => Sys2Proof.Machine.execGdDiagChannelEnd v1 v2 vp s
  | .gdDiagAbort => Sys2Proof.Machine.execGdDiagAbort s
  | .tripLatch ix onA onB => Sys2Proof.Machine.execTripLatch ix onA onB s
  | .tripSideDiff => Sys2Proof.Machine.execTripSideDiff s
  | .tripClear ins scs active above => Sys2Proof.Machine.execTripClear ins scs active above s
  | .tripLock tg => Sys2Proof.Machine.execTripLock tg s
  | .dsnTh2 d => Sys2Proof.Machine.execDsnTh2 d s
  | .dsnBlankingEnd k above => Sys2Proof.Machine.execDsnBlankingEnd k above s
  | .dsnTh1 d => Sys2Proof.Machine.execDsnTh1 d s
  | .softTurnOffEnd g => Sys2Proof.Machine.execSoftTurnOffEnd g s
  | .adcTrigger t q => Sys2Proof.Machine.execAdcTrigger t q s
  | .adcTimerFire t q inj => Sys2Proof.Machine.execAdcTimerFire t q inj s
  | .acquisitionStart t q inj => Sys2Proof.Machine.execAcquisitionStart t q inj s
  | .conversionComplete t q raw at' => Sys2Proof.Machine.execConversionComplete t q raw at' s
  | .checkConversion t q raw => Sys2Proof.Machine.execCheckConversion t q raw s
  | .injectedTrigger t q => Sys2Proof.Machine.execInjectedTrigger t q s
  | .rsw t q => Sys2Proof.Machine.execRsw t q s
  | .isw t q => Sys2Proof.Machine.execIsw t q s
  | .adUnlock t => Sys2Proof.Machine.execAdUnlock t s
  | .adcDisable t q => Sys2Proof.Machine.execAdcDisable t q s
  | .injDisable t q => Sys2Proof.Machine.execInjDisable t q s
  | .converterFail t q timeout => Sys2Proof.Machine.execConverterFail t q timeout s
  | .avgOff t => Sys2Proof.Machine.execAvgOff t s
  | .agreementWaitLimit t q => Sys2Proof.Machine.execAgreementWaitLimit t q s
  | .stepZero t => Sys2Proof.Machine.execStepZero t s
  | .stepFull t => Sys2Proof.Machine.execStepFull t s
  | .calMeasureEnd t data clipped => Sys2Proof.Machine.execCalMeasureEnd t data clipped s
  | .commit t flashOk => Sys2Proof.Machine.execCommit t flashOk s
  | .abort t => Sys2Proof.Machine.execAbort t s
  | .skew t => Sys2Proof.Machine.execSkew t s
  | .netFrameReceive p f resid => Sys2Proof.Machine.execNetFrameReceive p f resid s
  | .prpCopyRelay => Sys2Proof.Machine.execPrpCopyRelay s
  | .portTakeover lan => Sys2Proof.Machine.execPortTakeover lan s
  | .portReturn lan => Sys2Proof.Machine.execPortReturn lan s
  | .ddEntryForget src => Sys2Proof.Machine.execDdEntryForget src s
  | .supervisionFrame => Sys2Proof.Machine.execSupervisionFrame s
  | .svReceive t ix lan m => Sys2Proof.Machine.execSvReceive t ix lan m s
  | .svLost ix => Sys2Proof.Machine.execSvLost ix s
  | .svPublish j first => Sys2Proof.Machine.execSvPublish j first s
  | .gooseReceive t ix lan m => Sys2Proof.Machine.execGooseReceive t ix lan m s
  | .gooseLost ix => Sys2Proof.Machine.execGooseLost ix s
  | .gooseRepeat j => Sys2Proof.Machine.execGooseRepeat j s
  | .rateChange t => Sys2Proof.Machine.execRateChange t s
  | .twinTimeAlign resid => Sys2Proof.Machine.execTwinTimeAlign resid s
  | .twinAlign t diff => Sys2Proof.Machine.execTwinAlign t diff s
  | .step tg => Sys2Proof.Machine.execStep tg s
  | .timeSnap t => Sys2Proof.Machine.execTimeSnap t s
  | .ptpSyncReceive lan m => Sys2Proof.Machine.execPtpSyncReceive lan m s
  | .ptpAnnounceReceive lan m => Sys2Proof.Machine.execPtpAnnounceReceive lan m s
  | .pdelayReqSend p => Sys2Proof.Machine.execPdelayReqSend p s
  | .pdelayReqReceive p seq turn => Sys2Proof.Machine.execPdelayReqReceive p seq turn s
  | .pdelayRespReceive p m => Sys2Proof.Machine.execPdelayRespReceive p m s
  | .pdelayTimeout p => Sys2Proof.Machine.execPdelayTimeout p s
  | .ptpHoldover announce lan => Sys2Proof.Machine.execPtpHoldover announce lan s
  | .ptpFreerun => Sys2Proof.Machine.execPtpFreerun s
  | .ptpMasterSend p => Sys2Proof.Machine.execPtpMasterSend p s
  | .leap => Sys2Proof.Machine.execLeap s
  | .ppsInEdge stamp => Sys2Proof.Machine.execPpsInEdge stamp s
  | .ppsMiss => Sys2Proof.Machine.execPpsMiss s
  | .ppsOutPulse start => Sys2Proof.Machine.execPpsOutPulse start s
  | .arpRequest target sender mac => Sys2Proof.Machine.execArpRequest target sender mac s
  | .icmpEcho src payload => Sys2Proof.Machine.execIcmpEcho src payload s
  | .arpEntryExpire ip => Sys2Proof.Machine.execArpEntryExpire ip s
  | .canFrameReceive b f stamp => Sys2Proof.Machine.execCanFrameReceive b f stamp s
  | .canDriveSwitch b => Sys2Proof.Machine.execCanDriveSwitch b s
  | .txreq tg b m => Sys2Proof.Machine.execTxreq tg b m s
  | .canArbitration b => Sys2Proof.Machine.execCanArbitration b s
  | .txDone b stamp => Sys2Proof.Machine.execTxDone b stamp s
  | .canAttemptError b code dataPhase dominant arbStuff => Sys2Proof.Machine.execCanAttemptError b code dataPhase dominant arbStuff s
  | .cancel tg b m => Sys2Proof.Machine.execCancel tg b m s
  | .canAttemptReport b => Sys2Proof.Machine.execCanAttemptReport b s
  | .busOff b => Sys2Proof.Machine.execBusOff b s
  | .recover tg b => Sys2Proof.Machine.execRecover tg b s
  | .recovered b => Sys2Proof.Machine.execRecovered b s
  | .canEnable tg b v => Sys2Proof.Machine.execCanEnable tg b v s
  | .canCtlRead t b m => Sys2Proof.Machine.execCanCtlRead t b m s
  | .canLastWordRead t b m => Sys2Proof.Machine.execCanLastWordRead t b m s
  | .lockTimeout t b m => Sys2Proof.Machine.execLockTimeout t b m s
  | .referenceDue b => Sys2Proof.Machine.execReferenceDue b s
  | .isotpReceive b h data => Sys2Proof.Machine.execIsotpReceive b h data s
  | .isotpTimeout b h sender => Sys2Proof.Machine.execIsotpTimeout b h sender s
  | .ecpCanEnable tg b h v => Sys2Proof.Machine.execEcpCanEnable tg b h v s
  | .safetyScan t => Sys2Proof.Machine.execSafetyScan t s
  | .sinFilterChange t n high => Sys2Proof.Machine.execSinFilterChange t n high s
  | .discrepancyFault t k => Sys2Proof.Machine.execDiscrepancyFault t k s
  | .safetyStateRead t => Sys2Proof.Machine.execSafetyStateRead t s
  | .ack tg m => Sys2Proof.Machine.execAck tg m s
  | .demandAge t k => Sys2Proof.Machine.execDemandAge t k s
  | .internalDemand t k => Sys2Proof.Machine.execInternalDemand t k s
  | .ackInt tg => Sys2Proof.Machine.execAckInt tg s
  | .soutOvercurrent t p => Sys2Proof.Machine.execSoutOvercurrent t p s
  | .soutOffPulse t p high => Sys2Proof.Machine.execSoutOffPulse t p high s
  | .soutReadbackFault t p high => Sys2Proof.Machine.execSoutReadbackFault t p high s
  | .ackOut tg low => Sys2Proof.Machine.execAckOut tg low s
  | .crossCheck t => Sys2Proof.Machine.execCrossCheck t s
  | .smDiff t => Sys2Proof.Machine.execSmDiff t s
  | .solo t => Sys2Proof.Machine.execSolo t s
  | .paramCheck t => Sys2Proof.Machine.execParamCheck t s
  | .oscCheck t khz => Sys2Proof.Machine.execOscCheck t khz s
  | .safetyParamWrite tg h addr v => Sys2Proof.Machine.execSafetyParamWrite tg h addr v s
  | .safetyConfirm h code => Sys2Proof.Machine.execSafetyConfirm h code s
  | .confTimeout t => Sys2Proof.Machine.execConfTimeout t s
  | .safetyParamLoad t => Sys2Proof.Machine.execSafetyParamLoad t s
  | .ecpPacketReceive via bytes ip port => Sys2Proof.Machine.execEcpPacketReceive via bytes ip port s
  | .put len bytes crc fin => Sys2Proof.Machine.execPut len bytes crc fin s
  | .get complete => Sys2Proof.Machine.execGet complete s
  | .stat => Sys2Proof.Machine.execStat s
  | .commandExecute load => Sys2Proof.Machine.execCommandExecute load s
  | .lowWaitLimit h => Sys2Proof.Machine.execLowWaitLimit h s
  | .nop h => Sys2Proof.Machine.execNop h s
  | .identify h => Sys2Proof.Machine.execIdentify h s
  | .status h => Sys2Proof.Machine.execStatus h s
  | .keyRoll h salt flashOk => Sys2Proof.Machine.execKeyRoll h salt flashOk s
  | .keyRollGraceEnd h => Sys2Proof.Machine.execKeyRollGraceEnd h s
  | .credits h => Sys2Proof.Machine.execCredits h s
  | .read h target count addr => Sys2Proof.Machine.execRead h target count addr s
  | .write h target cycle asap waitDev addr values => Sys2Proof.Machine.execWrite h target cycle asap waitDev addr values s
  | .modify h target cycle asap waitDev addr mask value => Sys2Proof.Machine.execModify h target cycle asap waitDev addr mask value s
  | .changeSet h target cycle asap waitDev entries => Sys2Proof.Machine.execChangeSet h target cycle asap waitDev entries s
  | .cancelChange h id => Sys2Proof.Machine.execCancelChange h id s
  | .listChanges h => Sys2Proof.Machine.execListChanges h s
  | .changeAgreed id => Sys2Proof.Machine.execChangeAgreed id s
  | .changeDevelop id => Sys2Proof.Machine.execChangeDevelop id s
  | .take h groups force => Sys2Proof.Machine.execTake h groups force s
  | .release h groups => Sys2Proof.Machine.execRelease h groups s
  | .owners h => Sys2Proof.Machine.execOwners h s
  | .leaseLapse h => Sys2Proof.Machine.execLeaseLapse h s
  | .flashOpen h twin type length => Sys2Proof.Machine.execFlashOpen h twin type length s
  | .flashWrite h session offset data => Sys2Proof.Machine.execFlashWrite h session offset data s
  | .flashClose h session => Sys2Proof.Machine.execFlashClose h session s
  | .flashAbort h session => Sys2Proof.Machine.execFlashAbort h session s
  | .flashSessionTimeout t => Sys2Proof.Machine.execFlashSessionTimeout t s
  | .update h => Sys2Proof.Machine.execUpdate h s
  | .report h twin first count => Sys2Proof.Machine.execReport h twin first count s
  | .events h => Sys2Proof.Machine.execEvents h s
  | .streamRead h twin queue maxWords => Sys2Proof.Machine.execStreamRead h twin queue maxWords s
  | .streamFlush h twin queue => Sys2Proof.Machine.execStreamFlush h twin queue s
  | .negDump h twin exposure => Sys2Proof.Machine.execNegDump h twin exposure s
  | .streamData t q => Sys2Proof.Machine.execStreamData t q s
  | .queueUnitWrite t q unit => Sys2Proof.Machine.execQueueUnitWrite t q unit s
  | .bankExchange t q => Sys2Proof.Machine.execBankExchange t q s
  | .flushed t q => Sys2Proof.Machine.execFlushed t q s
  | .queueDisable t q => Sys2Proof.Machine.execQueueDisable t q s
  | .vinRise => Sys2Proof.Machine.execVinRise s
  | .railsGood => Sys2Proof.Machine.execRailsGood s
  | .xtalFail t => Sys2Proof.Machine.execXtalFail t s
  | .pfail => Sys2Proof.Machine.execPfail s
  | .brownOut => Sys2Proof.Machine.execBrownOut s
  | .coreRailFault t => Sys2Proof.Machine.execCoreRailFault t s
  | .coreRailWindow t => Sys2Proof.Machine.execCoreRailWindow t s
  | .vioWindow => Sys2Proof.Machine.execVioWindow s
  | .resetN => Sys2Proof.Machine.execResetN s
  | .resetTwin t => Sys2Proof.Machine.execResetTwin t s
  | .mpWdt t => Sys2Proof.Machine.execMpWdt t s
  | .twinResetRelease t cfg => Sys2Proof.Machine.execTwinResetRelease t cfg s
  | .bootComplete t selfTest ms => Sys2Proof.Machine.execBootComplete t selfTest ms s
  | .vcoreLoop t slack vin tdie => Sys2Proof.Machine.execVcoreLoop t slack vin tdie s
  | .slackError t => Sys2Proof.Machine.execSlackError t s
  | .pllLockLoss t p => Sys2Proof.Machine.execPllLockLoss t p s
  | .pllRelock t p => Sys2Proof.Machine.execPllRelock t p s
  | .rampStart t => Sys2Proof.Machine.execRampStart t s
  | .rampAbort t npts => Sys2Proof.Machine.execRampAbort t npts s
  | .rampEnd t => Sys2Proof.Machine.execRampEnd t s
  | .sluiceGrant t => Sys2Proof.Machine.execSluiceGrant t s
  | .sluiceRelease t op => Sys2Proof.Machine.execSluiceRelease t op s
  | .leaveWait t op => Sys2Proof.Machine.execLeaveWait t op s
  | .sluTimeout t op => Sys2Proof.Machine.execSluTimeout t op s
  | .ratchet types => Sys2Proof.Machine.execRatchet types s
  | .keyRevoke t owner beylos => Sys2Proof.Machine.execKeyRevoke t owner beylos s
  | .lifecycleLock v => Sys2Proof.Machine.execLifecycleLock v s
  | .safelightEnter => Sys2Proof.Machine.execSafelightEnter s
  | .safelightExit => Sys2Proof.Machine.execSafelightExit s
  | .overTemperature => Sys2Proof.Machine.execOverTemperature s
  | .overTempRestart => Sys2Proof.Machine.execOverTempRestart s
  | .ringRxSyncLost t c => Sys2Proof.Machine.execRingRxSyncLost t c s
  | .portLinkChange p carrier sync an half mbps codes => Sys2Proof.Machine.execPortLinkChange p carrier sync an half mbps codes s
  | .vinReturn => Sys2Proof.Machine.execVinReturn s
  | .forcedRefreshEnd g => Sys2Proof.Machine.execForcedRefreshEnd g s
  | .soutOffPulseEnd t p => Sys2Proof.Machine.execSoutOffPulseEnd t p s
  | .cellBypassClosed c p => Sys2Proof.Machine.execCellBypassClosed c p s
  | .cellOwnFault c p kind => Sys2Proof.Machine.execCellOwnFault c p kind s
  | .cellPowerUp c p w => Sys2Proof.Machine.execCellPowerUp c p w s
  | .cellPowerLoss c p => Sys2Proof.Machine.execCellPowerLoss c p s
  | .debugReset t => Sys2Proof.Machine.execDebugReset t s
  | .debugKeyInstall hash slot value => Sys2Proof.Machine.execDebugKeyInstall hash slot value s
  | .uncorrectableEcc t region => Sys2Proof.Machine.execUncorrectableEcc t region s
  | .canRxError t b pex code dataPhase dominant => Sys2Proof.Machine.execCanRxError t b pex code dataPhase dominant s
  | .canIntegrated b => Sys2Proof.Machine.execCanIntegrated b s
  | .followUpReceive pdelay p m => Sys2Proof.Machine.execFollowUpReceive pdelay p m s

end Sys2Proof.Machine
end

