-- ==== Sys2Proof/Safety.lean ====
section
/-! DEFINITION. What a safe run keeps, in the terms the statements use: register maps in canonical form, lifecycle
LOCKED for good, and relations that say which parts of a state a command leaves alone. -/

namespace Sys2Proof.Machine

/-- Both twins' register maps are in canonical form: addresses strictly rising, and no word listed that equals its
reset value. -/
def RegsOk (s : State) : Prop := ∀ t : Twin, tabWf resetWord (s.tw t).regs = true

/-- The sparse tables that a twin keeps beside its registers are in canonical form: keys strictly rising, and no entry
listed that equals what an unlisted key reads as. -/
structure TwinTabs (x : TwinSt) : Prop where
  rings : tabWf (fun _ => ({} : RingX)) x.rings = true
  uplinks : tabWf (fun _ => Uplink.none) x.uplinks = true
  upOld : tabWf (fun _ => []) x.upOld = true
  exps : tabWf (fun _ => ({} : ExpX)) x.exps = true
  can : tabWf (fun _ => ({} : CanSt)) x.can = true
  neg : tabWf (fun _ => 0#32) x.neg = true
  xings : tabWf (fun _ => Xing.init) x.xings = true
  queues : tabWf (fun _ => ({} : QueueSt)) x.queues = true

/-- So are both twins' tables, the cells and the host contexts. -/
structure TabsOk (s : State) : Prop where
  tw : ∀ t : Twin, TwinTabs (s.tw t)
  cells : tabWf (fun _ => ({} : CellSt)) s.cells = true
  ctx : tabWf (fun _ => ({} : CtxSt)) s.host.ctx = true

/-- Once LOCKED, the lifecycle stays LOCKED (R453). -/
def LifeKept (s s' : State) : Prop := s.lockedLife = true → s'.lockedLife = true

/-- The parts of what one twin keeps. -/
inductive TwinField where
  | regs | tb | ofs | twn | flash | pwr | arr | law | rings | uplinks | upOld | exps | adc | drv | saf | net | tm | can
  | neg | xings | queues
deriving DecidableEq, Repr

/-- One part of two twins' states is the same. -/
def TwinField.same : TwinField → TwinSt → TwinSt → Prop
  | .regs, x, y => y.regs = x.regs
  | .tb, x, y => y.tb = x.tb
  | .ofs, x, y => y.ofs = x.ofs
  | .twn, x, y => y.twn = x.twn
  | .flash, x, y => y.flash = x.flash
  | .pwr, x, y => y.pwr = x.pwr
  | .arr, x, y => y.arr = x.arr
  | .law, x, y => y.law = x.law
  | .rings, x, y => y.rings = x.rings
  | .uplinks, x, y => y.uplinks = x.uplinks
  | .upOld, x, y => y.upOld = x.upOld
  | .exps, x, y => y.exps = x.exps
  | .adc, x, y => y.adc = x.adc
  | .drv, x, y => y.drv = x.drv
  | .saf, x, y => y.saf = x.saf
  | .net, x, y => y.net = x.net
  | .tm, x, y => y.tm = x.tm
  | .can, x, y => y.can = x.can
  | .neg, x, y => y.neg = x.neg
  | .xings, x, y => y.xings = x.xings
  | .queues, x, y => y.queues = x.queues

/-- The parts of the device: what the twins share, and each part of each twin. -/
inductive Part where
  | ilk | sluice | host | edge | net | cells | pfail | overTemp | life
  | tw (t : Twin) (f : TwinField)
deriving DecidableEq, Repr

/-- A part of the device is the same in two states. -/
def Part.same : Part → State → State → Prop
  | .ilk, s, s' => s'.ilk = s.ilk
  | .sluice, s, s' => s'.sluice = s.sluice
  | .host, s, s' => s'.host = s.host
  | .edge, s, s' => s'.edge = s.edge
  | .net, s, s' => s'.net = s.net
  | .cells, s, s' => s'.cells = s.cells
  | .pfail, s, s' => s'.pfail = s.pfail
  | .overTemp, s, s' => s'.overTemp = s.overTemp
  | .life, s, s' => s'.lockedLife = s.lockedLife
  | .tw t f, s, s' => f.same (s.tw t) (s'.tw t)

/-- Every register word of twin `t` but those at the addresses named is as before. -/
def SameRegs (s s' : State) (t : Twin) (but : List Nat) : Prop := ∀ a, a ∉ but → rd s' t a = rd s t a

/-- A counter and the word of its overflow flag (R8). -/
def withOvf (a : Nat) : List Nat := a :: ((counterOvf a).map (·.1)).toList

/-- Twin `t` gets leave for operation `op` with argument `arg` at once (R443, R444): no power fail, no request waiting in
its ledger, and the cost within what is left of the headroom. -/
def leaveFree (s : State) (t : Twin) (op arg : Nat) : Bool :=
  !s.pfail && (sameLedger s t s.sluice.queue).isEmpty && decide (inUse s t + leaveCost op arg ≤ headroom s t)

/-- Every part of a twin's state. -/
def allFields : List TwinField := [.regs, .tb, .ofs, .twn, .flash, .pwr, .arr, .law, .rings, .uplinks, .upOld, .exps, .adc,
  .drv, .saf, .net, .tm, .can, .neg, .xings, .queues]

/-- Some parts of one twin. -/
def ofTwin (t : Twin) (l : List TwinField) : List Part := l.map (.tw t)

/-- Some parts of both twins. -/
def ofBoth (l : List TwinField) : List Part := ofTwin .a l ++ ofTwin .b l

/-- The parts of the device that a command can change: its row's chapter works on them, or an operation that the spec
hangs on the command does (a withdrawal resets a twin, a leave moves the Sluice ledger). Every other part it leaves as it
is. -/
def partsOf : Instr → List Part
  | .rcRead t _ _ => ofTwin t [.regs]
  | .registerWrite _ _ _ => [.ilk, .sluice, .host, .edge, .net, .life] ++ ofBoth allFields
  | .interlockGrant t _ => [.ilk, .sluice, .host, .net] ++ ofTwin t [.twn, .pwr] ++
      ofBoth [.regs, .flash, .saf, .net, .can, .xings]
  | .sharedPinSwitch _ => [.ilk, .edge] ++ ofBoth [.regs]
  | .interlockRelease t _ => [.ilk, .edge, .net] ++ ofTwin t [.flash] ++ ofBoth [.regs, .twn]
  | .linkWordReceive t _ => ofTwin t [.twn]
  | .linkHandshakeTimeout t => ofTwin t [.twn] ++ ofBoth [.regs]
  | .crossingTransfer t _ _ _ => ofTwin t [.regs, .xings]
  | .domainWake t _ => ofTwin t [.regs, .pwr, .xings]
  | .crossingSideReset t _ _ => ofTwin t [.regs, .xings]
  | .crossingRehandshake t _ => ofTwin t [.xings]
  | .cycleStart t _ => [.ilk, .edge, .net] ++ ofTwin t [.flash, .law, .uplinks, .upOld, .drv] ++
      ofBoth [.regs, .twn, .arr, .rings, .xings]
  | .agreementClose t _ => [.sluice] ++ ofTwin t [.arr, .law, .drv, .net] ++ ofBoth [.regs, .twn, .rings]
  | .rg0RunComplete t _ => [.net] ++ ofTwin t [.twn, .arr] ++ ofBoth [.regs, .law, .net, .xings]
  | .digestCompare _ _ => ofBoth [.regs, .twn]
  | .dispatchDeadline t => [.ilk, .edge, .net] ++ ofTwin t [.flash, .arr] ++ ofBoth [.regs, .twn]
  | .lawEngineFail t _ => ofTwin t [.regs, .arr]
  | .arrayEnable => [.sluice] ++ ofBoth [.regs, .arr, .rings]
  | .arrayFirstFrame _ => ofBoth [.regs, .arr]
  | .arrayStop => [.sluice] ++ ofBoth [.regs, .arr, .rings]
  | .mapEntryWrite _ _ => ofBoth [.regs]
  | .carrierRotation _ => ofBoth [.regs, .arr]
  | .thermalUpdate t => ofTwin t [.regs, .arr]
  | .weightUpdate t => ofTwin t [.regs]
  | .wearRecordSave t _ => [.sluice] ++ ofTwin t [.flash] ++ ofBoth [.regs]
  | .estimatorResult t _ => ofTwin t [.regs, .arr]
  | .imbalanceDetected _ => [.sluice] ++ ofBoth [.regs, .twn, .arr, .rings]
  | .cellLostDetected _ => [.sluice] ++ ofBoth [.regs, .twn, .arr, .rings]
  | .cellBypass _ => [.sluice] ++ ofBoth [.regs, .twn, .arr, .rings]
  | .bypassUnconfirmed _ => ofBoth [.regs, .twn, .arr]
  | .cellInsert _ => [.sluice] ++ ofBoth [.regs, .arr, .rings]
  | .spareInsertStart _ => ofBoth [.regs, .arr]
  | .insertTimeout _ => [.sluice] ++ ofBoth [.regs, .twn, .arr, .rings]
  | .cellReadmit _ => ofBoth [.regs, .arr]
  | .ringRxSync t _ => ofTwin t [.regs, .rings]
  | .ringStartTimeout t _ => [.sluice] ++ ofTwin t [.rings] ++ ofBoth [.regs]
  | .ringRetry _ _ => [.sluice] ++ ofBoth [.regs, .rings]
  | .restart _ _ => [.sluice] ++ ofBoth [.regs, .rings]
  | .probeNow t _ => ofTwin t [.arr]
  | .frameReturn t _ _ _ _ _ => [.sluice] ++ ofTwin t [.xings] ++ ofBoth [.regs, .arr, .rings, .uplinks]
  | .returnDeadline t _ => ofTwin t [.regs, .rings]
  | .wrappedFrameRelay _ _ _ => [.sluice] ++ ofBoth [.regs, .arr, .rings, .uplinks]
  | .probeCycle => ofBoth [.regs, .arr]
  | .probeStale t _ => ofTwin t [.regs]
  | .delayExchange _ _ _ _ _ => [.cells] ++ ofBoth [.regs, .rings]
  | .cellFrameForward _ _ _ _ _ _ _ => [.cells]
  | .cellCopyJudge _ _ _ _ _ _ _ => [.cells]
  | .cellAcceptanceDeadline _ _ => [.cells]
  | .cellWindowApply _ _ _ => [.cells]
  | .cellEventExecute _ _ => [.cells]
  | .cellBypassTimeout _ _ => [.cells]
  | .cellSyncAcquired _ _ _ => [.cells]
  | .cellSyncLost _ _ _ => [.cells]
  | .cellEidleEntry _ _ _ => [.cells]
  | .cellTimeLockClear _ _ => [.cells]
  | .cellEidleExit _ _ _ => [.cells]
  | .cellSideDown _ _ _ => [.cells]
  | .cellSideUp _ _ _ => [.cells]
  | .linkDownNotice _ _ _ => [.cells]
  | .cellLosIdle _ _ _ => [.cells]
  | .cellHardwareBypass _ _ => [.cells]
  | .heartbeatSend t => [.ilk, .sluice, .edge, .net] ++ ofTwin t [.tb, .ofs, .twn, .flash, .pwr, .arr, .law,
      .rings, .uplinks, .upOld, .exps, .adc, .drv, .saf, .net, .tm, .can, .neg, .xings, .queues] ++ ofBoth [.regs]
  | .heartbeatReceive t _ => [.ilk, .sluice, .edge, .net] ++ ofTwin t [.ofs, .flash, .pwr] ++ ofBoth [.regs, .twn]
  | .otherLost _ => ofBoth [.regs]
  | .keepaliveSend t _ => [.ilk, .edge, .net] ++ ofTwin t [.flash] ++ ofBoth [.regs, .twn]
  | .keepaliveLapse _ => [.ilk, .edge] ++ ofBoth [.regs]
  | .arbiterUnreachable t => ofTwin t [.regs]
  | .isolate _ => [.net] ++ ofBoth [.regs]
  | .isolatedRejoin t => [.ilk, .net] ++ ofTwin t [.ofs, .twn] ++ ofBoth [.regs]
  | .fastSelftestComplete _ _ _ _ => [.ilk, .edge, .net] ++ ofBoth [.regs, .twn, .flash]
  | .withdraw t => [.ilk, .edge, .net] ++ ofTwin t [.flash] ++ ofBoth [.regs, .twn]
  | .rejoin t => [.sluice] ++ ofTwin t [.twn, .pwr] ++ ofBoth [.regs]
  | .autoRejoin t => [.sluice] ++ ofTwin t [.twn, .pwr] ++ ofBoth [.regs]
  | .fullSelftestComplete _ _ => [.ilk, .sluice, .edge, .net] ++ ofBoth [.regs, .ofs, .twn, .flash, .pwr, .arr]
  | .dieOvertemp t _ => [.ilk, .edge, .net] ++ ofTwin t [.flash] ++ ofBoth [.regs, .twn]
  | .handoverName _ => ofBoth [.twn]
  | .handover _ => [.ilk, .sluice, .edge, .net] ++ ofBoth [.regs, .twn, .flash]
  | .handoverPostpone => ofBoth [.regs, .twn]
  | .rotationDue t => ofTwin t [.regs, .twn]
  | .rotateNow t => ofTwin t [.twn]
  | .backgroundSelftestSlice t _ _ _ _ _ => [.ilk, .edge, .net] ++ ofTwin t [.flash] ++ ofBoth [.regs, .twn]
  | .joinComplete t => [.sluice, .net] ++ ofTwin t [.ofs, .flash, .arr, .law, .drv, .net, .tm, .can] ++
      ofBoth [.regs, .twn, .rings]
  | .joinTimeout t => ofTwin t [.regs, .twn]
  | .joinRetry t => ofTwin t [.twn]
  | .soakEnd _ => [.ilk, .edge, .net] ++ ofBoth [.regs, .twn, .flash]
  | .contactSheetRefresh t _ => ofTwin t [.regs, .twn]
  | .snap t _ => ofTwin t [.regs, .twn]
  | .rgTrigger t _ _ => ofTwin t [.regs, .law, .drv]
  | .rgRunStart t _ => [.sluice] ++ ofTwin t [.arr, .law, .drv, .net] ++ ofBoth [.regs, .twn, .rings]
  | .rgRunComplete t _ _ => [.net] ++ ofTwin t [.arr] ++ ofBoth [.regs, .twn, .law, .drv, .net, .xings]
  | .rgDeadline t _ => [.ilk, .edge, .net] ++ ofTwin t [.flash, .law, .drv, .net] ++ ofBoth [.regs, .twn]
  | .load _ => [.sluice] ++ ofBoth [.regs, .law, .drv]
  | .coefWrite _ _ _ _ => ofBoth [.regs]
  | .swap _ => ofBoth [.regs, .law]
  | .swapDevelop t _ => ofTwin t [.regs, .law]
  | .handoverForced t _ => ofTwin t [.regs, .law]
  | .negArm _ _ => ofBoth [.regs, .exps]
  | .negFix _ _ => ofBoth [.exps]
  | .negDisarm _ _ => ofBoth [.regs, .exps]
  | .negRowWrite _ _ _ _ => ofBoth [.regs, .exps, .neg]
  | .negEventFix t _ => ofTwin t [.regs, .exps]
  | .negRemoteFix t _ => ofTwin t [.exps]
  | .sequencerOutputApply => [.edge] ++ ofBoth [.regs, .drv]
  | .driveEnable _ _ => ofBoth [.regs, .drv]
  | .channelRun _ _ _ => ofBoth [.regs, .drv]
  | .xoHoldEnd _ => ofBoth [.drv]
  | .catchMeasureEnd _ => ofBoth [.regs, .law, .drv]
  | .polarityTest _ => ofBoth [.regs, .law, .drv]
  | .catchRetry _ => ofBoth [.drv]
  | .observerLoss _ => ofBoth [.regs, .drv]
  | .ascExit _ => ofBoth [.regs, .drv]
  | .tmonCmd _ _ => ofBoth [.regs, .twn]
  | .tmonEst t _ => ofTwin t [.regs]
  | .discharge _ => ofBoth [.arr, .drv]
  | .dischargeStart => ofBoth [.regs, .drv]
  | .disRefused => ofBoth [.regs, .arr, .drv]
  | .disStuck => ofBoth [.regs, .arr, .drv]
  | .disDone => ofBoth [.regs, .arr, .drv]
  | .disFail => ofBoth [.regs, .drv]
  | .dischargeEnd => ofBoth [.regs, .arr, .drv]
  | .chopperFail => ofBoth [.regs, .drv]
  | .stage2 => ofBoth [.regs, .drv]
  | .spillTrip => ofBoth [.regs, .twn]
  | .spillwayExit => ofBoth [.regs, .drv]
  | .clear _ => ofBoth [.regs]
  | .encoderCount _ _ _ _ => ofBoth [.regs, .drv]
  | .encoderIndex => ofBoth [.regs, .drv]
  | .hallChange _ _ => ofBoth [.regs, .drv]
  | .pwmStart _ _ => [.edge] ++ ofBoth [.regs]
  | .pwmStop _ _ => [.edge] ++ ofBoth [.regs]
  | .pwmArm _ _ => [.edge] ++ ofBoth [.regs]
  | .reloadCutoff _ => [.edge] ++ ofBoth [.regs]
  | .reload _ _ => [.edge] ++ ofBoth [.regs]
  | .periodBoundary _ => [.edge] ++ ofBoth [.regs]
  | .compareEvent _ _ => [.edge]
  | .pwmEdge _ _ _ _ => [.edge] ++ ofBoth [.regs]
  | .deadTimeEnd _ _ => [.edge] ++ ofBoth [.regs]
  | .pwmForce _ _ _ _ _ => [.edge] ++ ofBoth [.regs]
  | .dtLock _ => ofBoth [.regs]
  | .generatorBoundary _ _ => [.edge] ++ ofBoth [.regs]
  | .gateUvlo _ _ => [.edge] ++ ofBoth [.regs, .twn]
  | .uvloRecover _ _ => [.edge] ++ ofBoth [.regs]
  | .bootstrapRefresh _ => [.edge] ++ ofBoth [.regs]
  | .forcedRefresh _ => [.edge] ++ ofBoth [.regs]
  | .gpbRun _ => [.edge] ++ ofBoth [.regs]
  | .bridgeStartTest _ _ => [.edge] ++ ofBoth [.regs]
  | .gdDiagStart _ _ _ => [.sluice, .edge] ++ ofBoth [.regs]
  | .gdDiagChannelEnd _ _ _ => [.sluice, .edge] ++ ofBoth [.regs]
  | .gdDiagAbort => [.sluice, .edge] ++ ofBoth [.regs]
  | .tripLatch _ _ _ => [.edge] ++ ofBoth [.regs]
  | .tripSideDiff => [.edge] ++ ofBoth [.regs]
  | .tripClear _ _ _ _ => [.edge] ++ ofBoth [.regs]
  | .tripLock _ => ofBoth [.regs]
  | .dsnTh2 _ => [.edge] ++ ofBoth [.regs]
  | .dsnBlankingEnd _ _ => [.edge] ++ ofBoth [.regs]
  | .dsnTh1 _ => [.edge] ++ ofBoth [.regs]
  | .softTurnOffEnd _ => [.edge] ++ ofBoth [.regs]
  | .adcTrigger _ _ => ofBoth [.regs, .adc]
  | .adcTimerFire _ _ _ => ofBoth [.regs, .adc]
  | .acquisitionStart t _ _ => ofTwin t [.regs, .adc]
  | .conversionComplete t _ _ _ => ofTwin t [.xings, .queues] ++ ofBoth [.regs, .adc]
  | .checkConversion t _ _ => ofTwin t [.regs, .adc, .xings]
  | .injectedTrigger _ _ => ofBoth [.regs, .adc]
  | .rsw _ _ => ofBoth [.regs, .adc]
  | .isw _ _ => ofBoth [.regs, .adc]
  | .adUnlock _ => ofBoth [.regs, .adc]
  | .adcDisable _ _ => ofBoth [.regs, .adc]
  | .injDisable _ _ => ofBoth [.regs, .adc]
  | .converterFail _ _ _ => ofBoth [.regs, .adc]
  | .avgOff t => ofTwin t [.regs]
  | .agreementWaitLimit t _ => ofTwin t [.adc]
  | .stepZero t => [.sluice] ++ ofTwin t [.adc] ++ ofBoth [.regs]
  | .stepFull t => [.sluice] ++ ofTwin t [.adc] ++ ofBoth [.regs]
  | .calMeasureEnd t _ _ => [.sluice] ++ ofTwin t [.adc, .xings] ++ ofBoth [.regs]
  | .commit t _ => [.sluice] ++ ofTwin t [.flash, .adc] ++ ofBoth [.regs]
  | .abort t => [.sluice] ++ ofTwin t [.adc] ++ ofBoth [.regs]
  | .skew t => [.sluice] ++ ofTwin t [.adc] ++ ofBoth [.regs]
  | .netFrameReceive _ _ _ => [.net] ++ ofBoth [.regs, .xings]
  | .prpCopyRelay => [.net] ++ ofBoth [.regs, .xings]
  | .portTakeover _ => [.net] ++ ofBoth [.regs, .net, .xings]
  | .portReturn _ => [.net] ++ ofBoth [.regs]
  | .ddEntryForget _ => [.net] ++ ofBoth [.regs]
  | .supervisionFrame => [.net] ++ ofBoth [.regs, .net, .xings]
  | .svReceive t _ _ _ => ofTwin t [.net] ++ ofBoth [.regs, .xings]
  | .svLost _ => ofBoth [.regs]
  | .svPublish _ _ => [.net] ++ ofBoth [.regs, .net, .xings, .queues]
  | .gooseReceive t _ _ _ => ofTwin t [.net] ++ ofBoth [.regs, .xings]
  | .gooseLost _ => ofBoth [.regs]
  | .gooseRepeat _ => [.net] ++ ofBoth [.regs, .net, .xings]
  | .rateChange t => ofTwin t [.regs, .ofs, .tm]
  | .twinTimeAlign _ => ofBoth [.regs, .ofs, .tm]
  | .twinAlign t _ => ofTwin t [.regs]
  | .step _ => ofBoth [.regs, .ofs]
  | .timeSnap t => ofTwin t [.regs]
  | .ptpSyncReceive _ _ => ofBoth [.regs, .ofs, .tm, .xings]
  | .ptpAnnounceReceive _ _ => ofBoth [.regs, .tm, .xings]
  | .pdelayReqSend _ => [.net] ++ ofBoth [.regs, .tm, .xings]
  | .pdelayReqReceive _ _ _ => [.net] ++ ofBoth [.regs, .xings]
  | .pdelayRespReceive _ _ => ofBoth [.regs, .tm, .xings]
  | .pdelayTimeout _ => ofBoth [.regs, .tm]
  | .ptpHoldover _ _ => ofBoth [.regs, .tm]
  | .ptpFreerun => ofBoth [.regs]
  | .ptpMasterSend _ => [.net] ++ ofBoth [.regs, .xings]
  | .leap => ofBoth [.regs]
  | .ppsInEdge _ => ofBoth [.regs, .ofs, .tm]
  | .ppsMiss => ofBoth [.regs, .tm]
  | .ppsOutPulse _ => [.net]
  | .arpRequest _ _ _ => [.net] ++ ofBoth [.regs, .net, .xings]
  | .icmpEcho _ _ => [.net] ++ ofBoth [.regs, .net, .xings]
  | .arpEntryExpire _ => [.net]
  | .canFrameReceive _ _ _ => ofBoth [.regs, .pwr, .can, .xings]
  | .canDriveSwitch _ => ofBoth [.regs]
  | .txreq _ _ _ => ofBoth [.regs]
  | .canArbitration _ => ofBoth [.regs, .can, .xings]
  | .txDone _ _ => ofBoth [.regs, .pwr, .can, .xings]
  | .canAttemptError _ _ _ _ _ => ofBoth [.regs, .pwr, .can, .xings]
  | .cancel _ _ _ => ofBoth [.regs, .can]
  | .canAttemptReport _ => ofBoth [.regs, .can]
  | .busOff _ => ofBoth [.regs]
  | .recover _ _ => ofBoth [.regs]
  | .recovered _ => ofBoth [.regs, .can]
  | .canEnable _ _ _ => ofBoth [.regs, .pwr, .can, .xings]
  | .canCtlRead t _ _ => ofTwin t [.regs]
  | .canLastWordRead t _ _ => ofTwin t [.regs, .can]
  | .lockTimeout t _ _ => ofTwin t [.regs, .can]
  | .referenceDue _ => ofBoth [.regs, .can]
  | .isotpReceive _ _ _ => ofBoth [.regs, .can, .xings]
  | .isotpTimeout _ _ _ => ofBoth [.regs, .can]
  | .ecpCanEnable _ _ _ _ => ofBoth [.regs, .can]
  | .safetyScan t => [.edge] ++ ofTwin t [.saf] ++ ofBoth [.regs]
  | .sinFilterChange t _ _ => ofTwin t [.saf]
  | .discrepancyFault t _ => [.edge] ++ ofTwin t [.saf] ++ ofBoth [.regs]
  | .safetyStateRead t => [.edge] ++ ofTwin t [.arr, .drv] ++ ofBoth [.regs]
  | .ack _ _ => [.edge] ++ ofBoth [.regs, .saf]
  | .demandAge t _ => ofTwin t [.regs]
  | .internalDemand t _ => ofTwin t [.regs] ++ ofBoth [.twn]
  | .ackInt _ => [.edge] ++ ofBoth [.regs, .saf]
  | .soutOvercurrent _ _ => [.edge] ++ ofBoth [.regs, .saf]
  | .soutOffPulse _ _ _ => [.edge] ++ ofBoth [.regs, .saf]
  | .soutReadbackFault _ _ _ => [.edge] ++ ofBoth [.regs, .saf]
  | .ackOut _ _ => [.edge] ++ ofBoth [.regs, .saf]
  | .crossCheck t => ofTwin t [.regs, .saf]
  | .smDiff t => ofTwin t [.regs] ++ ofBoth [.twn]
  | .solo t => ofTwin t [.regs] ++ ofBoth [.twn]
  | .paramCheck t => ofTwin t [.regs] ++ ofBoth [.twn]
  | .oscCheck t _ => ofTwin t [.regs, .saf] ++ ofBoth [.twn]
  | .safetyParamWrite _ _ _ _ => ofBoth [.regs, .saf]
  | .safetyConfirm _ _ => [.edge] ++ ofBoth [.regs, .saf]
  | .confTimeout _ => ofBoth [.regs, .saf]
  | .safetyParamLoad _ => [.edge] ++ ofBoth [.regs, .saf]
  | .ecpPacketReceive _ _ _ _ => [.host, .net] ++ ofBoth [.regs, .pwr, .net, .can, .xings]
  | .put _ _ _ _ => [.host, .net] ++ ofBoth [.regs, .pwr, .net, .can, .xings]
  | .get _ => [.host] ++ ofBoth [.regs, .xings]
  | .stat => [.host] ++ ofBoth [.regs, .xings]
  | .commandExecute _ => [.ilk, .sluice, .host, .edge, .net, .life] ++ ofBoth allFields
  | .lowWaitLimit _ => [.ilk, .sluice, .host, .edge, .net, .life] ++ ofBoth allFields
  | .nop _ => [.host, .net] ++ ofBoth [.regs, .net, .can, .xings]
  | .identify _ => [.host, .net] ++ ofBoth [.regs, .net, .can, .xings]
  | .status _ => [.host, .net] ++ ofBoth [.regs, .net, .can, .xings]
  | .keyRoll _ _ _ => [.sluice, .host, .net] ++ ofBoth [.regs, .flash, .net, .can, .xings]
  | .keyRollGraceEnd _ => [.host]
  | .credits _ => [.host, .net] ++ ofBoth [.regs, .net, .can, .xings]
  | .read _ _ _ _ => [.host, .net] ++ ofBoth [.regs, .net, .can, .xings]
  | .write _ _ _ _ _ _ _ => [.ilk, .sluice, .host, .edge, .net, .life] ++ ofBoth allFields
  | .modify _ _ _ _ _ _ _ _ => [.ilk, .sluice, .host, .edge, .net, .life] ++ ofBoth allFields
  | .changeSet _ _ _ _ _ _ => [.ilk, .sluice, .host, .edge, .net, .life] ++ ofBoth allFields
  | .cancelChange _ _ => [.host, .net] ++ ofBoth [.regs, .net, .can, .xings]
  | .listChanges _ => [.host, .net] ++ ofBoth [.regs, .net, .can, .xings]
  | .changeAgreed _ => [.host, .net] ++ ofBoth [.regs, .net, .can, .xings]
  | .changeDevelop _ => [.ilk, .sluice, .host, .edge, .net, .life] ++ ofBoth allFields
  | .take _ _ _ => [.host, .net] ++ ofBoth [.regs, .net, .can, .xings]
  | .release _ _ => [.host, .net] ++ ofBoth [.regs, .net, .can, .xings]
  | .owners _ => [.host, .net] ++ ofBoth [.regs, .net, .can, .xings]
  | .leaseLapse _ => [.host, .net] ++ ofBoth [.regs, .net, .can, .xings]
  | .flashOpen _ _ _ _ => [.sluice, .host, .net] ++ ofBoth [.regs, .flash, .net, .can, .xings]
  | .flashWrite _ _ _ _ => [.host, .net] ++ ofBoth [.regs, .flash, .net, .can, .xings]
  | .flashClose _ _ => [.sluice, .host, .net] ++ ofBoth [.regs, .flash, .net, .can, .xings]
  | .flashAbort _ _ => [.sluice, .host, .net] ++ ofBoth [.regs, .flash, .net, .can, .xings]
  | .flashSessionTimeout t => [.sluice] ++ ofTwin t [.flash] ++ ofBoth [.regs]
  | .update _ => [.ilk, .host, .edge, .net] ++ ofBoth [.regs, .twn, .flash, .net, .can, .xings]
  | .report _ _ _ _ => [.host, .net] ++ ofBoth [.regs, .net, .can, .xings]
  | .events _ => [.host, .net] ++ ofBoth [.regs, .net, .can, .xings]
  | .streamRead _ _ _ _ => [.host, .net] ++ ofBoth [.regs, .net, .can, .xings, .queues]
  | .streamFlush _ _ _ => [.host, .net] ++ ofBoth [.regs, .net, .can, .xings, .queues]
  | .negDump _ _ _ => [.sluice, .host, .net] ++ ofBoth [.regs, .net, .can, .xings, .queues]
  | .streamData t _ => [.net] ++ ofTwin t [.queues] ++ ofBoth [.regs, .net, .xings]
  | .queueUnitWrite t _ _ => ofTwin t [.regs, .queues]
  | .bankExchange t _ => ofTwin t [.regs, .queues]
  | .flushed t _ => ofTwin t [.regs, .queues]
  | .queueDisable t _ => ofTwin t [.regs, .queues]
  | .vinRise => ofBoth [.regs]
  | .railsGood => ofBoth [.regs]
  | .xtalFail t => ofTwin t [.regs, .pwr]
  | .pfail => [.sluice, .pfail] ++ ofBoth [.regs, .flash]
  | .brownOut => [.ilk, .sluice, .host, .edge, .net, .pfail] ++ ofBoth allFields
  | .coreRailFault t => [.ilk, .sluice, .edge, .net] ++ ofTwin t [.tb, .ofs, .twn, .flash, .pwr, .arr, .law,
      .rings, .uplinks, .upOld, .exps, .adc, .drv, .saf, .net, .tm, .can, .neg, .xings, .queues] ++ ofBoth [.regs]
  | .coreRailWindow t => [.ilk, .edge, .net] ++ ofTwin t [.flash] ++ ofBoth [.regs, .twn]
  | .vioWindow => [.ilk, .edge, .net] ++ ofBoth [.regs, .twn, .flash]
  | .resetN => [.ilk, .sluice, .host, .edge, .net, .pfail] ++ ofBoth allFields
  | .resetTwin t => [.ilk, .sluice, .edge, .net] ++ ofTwin t [.tb, .ofs, .twn, .flash, .pwr, .arr, .law, .rings,
      .uplinks, .upOld, .exps, .adc, .drv, .saf, .net, .tm, .can, .neg, .xings, .queues] ++ ofBoth [.regs]
  | .mpWdt t => ofTwin t [.regs]
  | .twinResetRelease t _ => [.net] ++ ofTwin t [.tb, .pwr, .xings] ++ ofBoth [.regs]
  | .bootComplete t _ _ => [.ilk, .sluice, .net] ++ ofTwin t [.ofs, .flash, .pwr, .law] ++ ofBoth [.regs, .twn]
  | .vcoreLoop t _ _ _ => ofTwin t [.regs, .pwr]
  | .slackError t => [.ilk, .edge, .net] ++ ofTwin t [.flash] ++ ofBoth [.regs, .twn]
  | .pllLockLoss t _ => [.ilk, .sluice, .edge, .net] ++ ofTwin t [.flash, .pwr, .rings] ++ ofBoth [.regs, .twn, .adc]
  | .pllRelock t _ => [.sluice] ++ ofTwin t [.xings] ++ ofBoth [.regs, .rings]
  | .rampStart t => [.sluice] ++ ofTwin t [.pwr] ++ ofBoth [.regs]
  | .rampAbort _ _ => [.sluice] ++ ofBoth [.regs]
  | .rampEnd _ => [.sluice] ++ ofBoth [.regs]
  | .sluiceGrant _ => [.sluice, .host, .edge, .net] ++ ofBoth [.regs, .flash, .pwr, .law, .rings, .drv, .net, .can,
      .xings, .queues]
  | .sluiceRelease _ _ => [.sluice] ++ ofBoth [.regs]
  | .leaveWait _ _ => [.sluice, .host, .net] ++ ofBoth [.regs, .net, .can, .xings]
  | .sluTimeout _ _ => [.sluice, .host] ++ ofBoth [.regs, .twn, .flash, .adc]
  | .ratchet _ => ofBoth [.regs]
  | .keyRevoke t _ _ => ofTwin t [.regs, .pwr]
  | .lifecycleLock _ => [.life] ++ ofBoth [.regs]
  | .safelightEnter => [.edge] ++ ofBoth [.regs]
  | .safelightExit => [.edge] ++ ofBoth [.regs]
  | .overTemperature => [.ilk, .sluice, .host, .edge, .net, .pfail, .overTemp] ++ ofBoth allFields
  | .overTempRestart => [.overTemp] ++ ofBoth [.regs]
  | .ringRxSyncLost _ _ => [.sluice] ++ ofBoth [.regs, .rings]
  | .portLinkChange _ _ _ _ _ _ _ => [.net] ++ ofBoth [.regs]
  | .vinReturn => [.pfail]
  | .forcedRefreshEnd _ => [.edge] ++ ofBoth [.regs]
  | .soutOffPulseEnd t _ => ofTwin t [.regs, .saf]
  | .cellBypassClosed _ _ => [.cells]
  | .cellOwnFault _ _ _ => [.cells]
  | .cellPowerUp _ _ _ => [.cells]
  | .cellPowerLoss _ _ => [.cells]
  | .debugReset t => [.ilk, .sluice, .edge, .net] ++ ofTwin t [.tb, .ofs, .twn, .flash, .pwr, .arr, .law, .rings,
      .uplinks, .upOld, .exps, .adc, .drv, .saf, .net, .tm, .can, .neg, .xings, .queues] ++ ofBoth [.regs]
  | .debugKeyInstall _ _ _ => ofBoth [.flash, .pwr]
  | .uncorrectableEcc t _ => [.ilk, .edge, .net] ++ ofTwin t [.flash] ++ ofBoth [.regs, .twn]
  | .canRxError t _ _ _ _ _ => ofTwin t [.regs, .pwr, .can, .xings]
  | .canIntegrated _ => ofBoth [.regs]
  | .followUpReceive _ _ _ => ofBoth [.regs, .ofs, .tm, .xings]

/-! Register frames. -/

/-- Only the twin that holds the interlock drives the shared pins (R17). -/
def PinsOk (s : State) : Prop := ∀ t : Twin, s.ilk.pins = some t → s.ilk.holder = some t

/-- The number, 16 · chain + position, of the one cell that a cell's own command works on. -/
def cellOf : Instr → Option Nat
  | .cellFrameForward c p _ _ _ _ _ => some (16 * c.val + p.val)
  | .cellCopyJudge c p _ _ _ _ _ => some (16 * c.val + p.val)
  | .cellAcceptanceDeadline c p => some (16 * c.val + p.val)
  | .cellWindowApply c p _ => some (16 * c.val + p.val)
  | .cellEventExecute c p => some (16 * c.val + p.val)
  | .cellBypassTimeout c p => some (16 * c.val + p.val)
  | .cellSyncAcquired c p _ => some (16 * c.val + p.val)
  | .cellSyncLost c p _ => some (16 * c.val + p.val)
  | .cellEidleEntry c p _ => some (16 * c.val + p.val)
  | .cellTimeLockClear c p => some (16 * c.val + p.val)
  | .cellEidleExit c p _ => some (16 * c.val + p.val)
  | .cellSideDown c p _ => some (16 * c.val + p.val)
  | .cellSideUp c p _ => some (16 * c.val + p.val)
  | .cellLosIdle c p _ => some (16 * c.val + p.val)
  | .cellHardwareBypass c p => some (16 * c.val + p.val)
  | .cellBypassClosed c p => some (16 * c.val + p.val)
  | .cellOwnFault c p _ => some (16 * c.val + p.val)
  | .cellPowerUp c p _ => some (16 * c.val + p.val)
  | .cellPowerLoss c p => some (16 * c.val + p.val)
  | _ => none

/-- Commands of the array, the rings, the law engines and the twins that name every register they touch by their
operands, with the blocks of R14, by number, whose registers they can change; none for the others. -/
def arrayRowBlocks : Instr → Option (List Nat)
  | .ringRxSync .. | .returnDeadline .. | .probeStale .. => some [2]
  | .mapEntryWrite .. => some [3]
  | .thermalUpdate .. | .weightUpdate .. | .estimatorResult .. => some [4]
  | .spareInsertStart .. | .cellReadmit .. => some [3, 4]
  | .lawEngineFail .. => some [5]
  | .linkHandshakeTimeout .. | .digestCompare .. | .otherLost .. | .arbiterUnreachable ..
  | .handoverPostpone .. | .joinTimeout .. => some [17]
  | .rotationDue .. => some [19]
  | .domainWake .. => some [1]
  | .linkWordReceive .. | .crossingRehandshake .. | .probeNow .. | .handoverName .. | .rotateNow ..
  | .joinRetry .. => some []
  | _ => none

/-- Commands of the power edge and the drive that name every register they touch by their operands, with the blocks
of R14, by number, whose registers they can change; none for the others. -/
def edgeRowBlocks : Instr → Option (List Nat)
  | .sharedPinSwitch .. | .pwmStart .. | .pwmStop .. | .reloadCutoff .. | .periodBoundary .. | .compareEvent ..
  | .pwmEdge .. | .deadTimeEnd .. | .pwmForce .. | .dtLock .. | .generatorBoundary .. | .gateUvlo ..
  | .uvloRecover .. | .bootstrapRefresh .. | .forcedRefresh .. | .forcedRefreshEnd .. | .gpbRun ..
  | .tripLatch .. | .tripSideDiff .. | .tripClear .. | .tripLock .. | .dsnTh2 .. | .dsnBlankingEnd ..
  | .dsnTh1 .. | .softTurnOffEnd .. => some [7, 8, 9]
  | .pwmArm .. | .reload .. | .sequencerOutputApply .. => some [6, 7, 8, 9]
  | .driveEnable .. | .channelRun .. | .observerLoss .. | .ascExit .. | .tmonEst .. | .dischargeStart ..
  | .disRefused .. | .disStuck .. | .disDone .. | .disFail .. | .dischargeEnd .. | .chopperFail .. | .stage2 ..
  | .spillwayExit .. | .clear .. | .encoderCount .. | .encoderIndex .. | .hallChange .. | .xoHoldEnd ..
  | .catchRetry .. | .discharge .. => some [18]
  | .tmonCmd .. | .spillTrip .. => some [14, 18]
  | _ => none

/-- Commands of the safety monitor, Negative, the stream queues and device time that name every register they touch
by their operands, with the blocks of R14, by number, whose registers they can change; none for the others. -/
def monitorRowBlocks : Instr → Option (List Nat)
  | .negArm .. | .negFix .. | .negDisarm .. | .negEventFix .. | .negRemoteFix .. => some [6]
  | .queueUnitWrite .. | .bankExchange .. | .flushed .. | .queueDisable .. => some [16]
  | .streamData .. => some [1, 11, 16]
  | .demandAge .. | .internalDemand .. | .crossCheck .. | .smDiff .. | .solo .. | .paramCheck .. | .oscCheck ..
  | .confTimeout .. | .soutOffPulseEnd .. | .sinFilterChange .. => some [14]
  | .safetyScan .. | .discrepancyFault .. | .ack .. | .ackInt .. | .soutOvercurrent .. | .soutOffPulse ..
  | .soutReadbackFault .. | .ackOut .. => some [7, 8, 9, 14]
  | .rateChange .. | .twinTimeAlign .. | .twinAlign .. | .step .. | .timeSnap .. | .pdelayTimeout ..
  | .ptpHoldover .. | .ptpFreerun .. | .leap .. | .ppsInEdge .. | .ppsMiss .. | .ppsOutPulse .. => some [12]
  | .ptpSyncReceive .. | .ptpAnnounceReceive .. | .pdelayRespReceive .. | .followUpReceive .. => some [1, 12]
  | _ => none

/-- Commands of the CAN buses, power, clocks, the one-time memory and the host that name every register they touch
by their operands, with the blocks of R14, by number, whose registers they can change; none for the others. -/
def systemRowBlocks : Instr → Option (List Nat)
  | .overTempRestart .. | .mpWdt .. | .ratchet .. | .keyRevoke .. | .lifecycleLock .. | .debugKeyInstall .. => some [0]
  | .vinRise .. => some [0, 1]
  | .railsGood .. | .xtalFail .. | .vcoreLoop .. | .rampStart .. | .rampAbort .. | .rampEnd ..
  | .sluiceRelease .. | .vinReturn .. | .rejoin .. | .autoRejoin .. | .flashSessionTimeout .. => some [1]
  | .canDriveSwitch .. | .txreq .. | .cancel .. | .recover .. | .recovered .. | .canCtlRead ..
  | .canLastWordRead .. | .lockTimeout .. | .referenceDue .. | .ecpCanEnable .. | .canIntegrated .. => some [13]
  | .canEnable .. | .canRxError .. => some [1, 13]
  | .get .. | .stat .. => some [1, 15]
  | .keyRollGraceEnd .. | .nop .. | .identify .. | .status .. | .credits .. | .events .. | .report ..
  | .owners .. | .listChanges .. | .release .. => some [15]
  | _ => none

end Sys2Proof.Machine
end

