-- ==== Sys2Proof/WellFormed.lean ====
section
/-! DEFINITION. When the operands of a command have the form that its rule gives them. A meaning answers on every
operand; these checks say which ones a sender or an event of the device can present. -/

namespace Sys2Proof

/-- A frame's data bytes by its DLC: 0 to 8, then 12, 16, 20, 24, 32, 48 and 64 (R359). -/
def bytesOfDlc (dlc : Nat) : Nat := [0, 1, 2, 3, 4, 5, 6, 7, 8, 12, 16, 20, 24, 32, 48, 64].getD dlc 0

/-- A CAN frame: only FD frames carry more than 8 bytes or switch the bit rate, and they are no remote frames (R359). -/
def CanFrame.wf (f : CanFrame) : Bool :=
  (if f.rtr then f.data.length == 0 else f.data.length == if f.fdf then bytesOfDlc f.dlc.val else min 8 f.dlc.val)
    && (f.fdf || !f.brs) && !(f.fdf && f.rtr)

/-- A Contact-sheet measurement: lanes 0 to 11 and 16 to 19, and the drift of at most four converters (R162). -/
def HealthMeas.wf (m : HealthMeas) : Bool :=
  m.lanes.all (fun l => decide (l.1 < 12) || (decide (16 ≤ l.1) && decide (l.1 < 20))) && decide (m.drift.length ≤ 4)

/-- Whether a command's operands have the form its rule gives: a link word has 32 groups (R20), a crossing takes two to
five samples (R25), a serial or ECP packet fits its transport
(R388, R391), a change names 1 to 64 entries (R409), an ISO-TP frame fits a CAN FD frame (R356), and the calibration
names at most four converters (R291). Other operands are fixed by their types. -/
def Instr.wf : Instr → Bool
  | .linkWordReceive _ groups => groups.length == 32
  | .crossingTransfer _ _ _ samples => decide (2 ≤ samples.length) && decide (samples.length ≤ 5)
  | .contactSheetRefresh _ m => m.wf
  | .snap _ m => m.wf
  | .put len bytes _ fin => fin.op != 1#8 || !fin.complete || bytes.length == len.toNat
  | .ecpPacketReceive _ bytes _ _ => decide (bytes.length ≤ 65535)
  | .changeSet _ _ _ _ _ entries => decide (1 ≤ entries.length) && decide (entries.length ≤ 64)
  | .canFrameReceive _ f _ => f.wf
  | .isotpReceive _ _ data => decide (1 ≤ data.length) && decide (data.length ≤ 64)
  | .calMeasureEnd _ data _ => decide (data.length ≤ 4)
  | _ => true

end Sys2Proof
end

