-- ==== Sys2Proof/Certificates/Slice0/Obligations.lean ====
section
/-! DEFINITION. The statements about the block, for the provers: what a step does with its queue, what every step keeps,
what each family of commands leaves alone, and for every command the states and operands in which it has its effect and what
that effect is. -/

open Sys2Proof Sys2Proof.Machine

/-- The queue of commands is the model's own (DESIGN CHOICE, log entry 2). -/
def Obligations.StepRunsTheFrontCommand : Prop :=
  ∀ (s : State) (c : Instr) (rest : List Instr), s.pending = c :: rest → step s = exec c { s with pending := rest }

/-- An idle step is one TB tick of both twins: DESIGN CHOICE, log entry 3. -/
def Obligations.EmptyQueueIsOneTick : Prop :=
  ∀ s : State, s.pending = [] → ∃ u, step s = .next u ∧
    (∀ t : Twin, (u.tw t).tb = if biti s t R.CLK_STATUS_LOCK 0 then (s.tw t).tb + 1 else (s.tw t).tb) ∧
    (∀ p : Part, (∀ t : Twin, p ≠ .tw t .tb) → p.same s u) ∧ u.pending = [] ∧ u.report = s.report ∧ u.free = s.free

/-- The values that the spec gives; the others are DESIGN CHOICE, log entry 9. -/
def Obligations.ResetLeavesTheResetValues : Prop :=
  RegsOk State.reset ∧ TabsOk State.reset ∧ PinsOk State.reset ∧
  (∀ (t : Twin) (a : Nat), rd State.reset t a = resetWord a) ∧ (∀ t : Twin, twState State.reset t = tsReset) ∧
  State.reset.ilk.holder = none ∧ State.reset.ilk.pins = none ∧ State.reset.pending = [] ∧
  State.reset.host.changes = [] ∧ State.reset.sluice.queue = [] ∧ State.reset.sluice.held = [] ∧
  State.reset.host.serial = [] ∧ State.reset.lockedLife = false ∧
  (∀ t : Twin, rd State.reset t R.HST_OWNER = 0x7FFF#32 ∧ rf State.reset t R.HST_G_CFG_LEAD = 100 ∧
    cycNs State.reset t = 10000)

/-- Equal register files are equal data. -/
def Obligations.RegisterMapsStayCanonical : Prop :=
  ∀ s u : State, RegsOk s → step s = .next u → RegsOk u

/-- Negative memory is the spec's addressed memory; what an unlisted word reads as is DESIGN CHOICE, log entry 139. -/
def Obligations.TablesStayCanonical : Prop :=
  ∀ s u : State, TabsOk s → step s = .next u → TabsOk u

/-- R17's invariant; the pins' electrical state beside it is not modelled. -/
def Obligations.OnlyTheHolderDrivesThePins : Prop :=
  ∀ s u : State, PinsOk s → step s = .next u → PinsOk u

/-- The last sentence of R453's rule for SYS_LIFE. -/
def Obligations.TheLockedLifecycleStaysLocked : Prop :=
  ∀ s u : State, s.lockedLife = true → step s = .next u → u.lockedLife = true

/-- The frame of every command, by part; register blocks follow in the statements below. -/
def Obligations.CommandsLeaveOtherPartsAlone : Prop :=
  ∀ (c : Instr) (s u : State) (p : Part), exec c s = .next u → p ∉ partsOf c → p.same s u

/-- Frames of register blocks. -/
def Obligations.ArrayRowsKeepOtherRegisters : Prop :=
  ∀ (c : Instr) (l : List Nat) (s u : State) (t : Twin) (a : Nat), RegsOk s → arrayRowBlocks c = some l → exec c s = .next u →
    (∀ b, blockOf a = some b → b ∉ l) → rd u t a = rd s t a

/-- Frames of register blocks. -/
def Obligations.EdgeAndDriveRowsKeepOtherRegisters : Prop :=
  ∀ (c : Instr) (l : List Nat) (s u : State) (t : Twin) (a : Nat), RegsOk s → edgeRowBlocks c = some l → exec c s = .next u →
    (∀ b, blockOf a = some b → b ∉ l) → rd u t a = rd s t a

/-- Frames of register blocks. -/
def Obligations.MonitorRowsKeepOtherRegisters : Prop :=
  ∀ (c : Instr) (l : List Nat) (s u : State) (t : Twin) (a : Nat), RegsOk s → monitorRowBlocks c = some l → exec c s = .next u →
    (∀ b, blockOf a = some b → b ∉ l) → rd u t a = rd s t a

/-- Frames of register blocks. -/
def Obligations.SystemRowsKeepOtherRegisters : Prop :=
  ∀ (c : Instr) (l : List Nat) (s u : State) (t : Twin) (a : Nat), RegsOk s → systemRowBlocks c = some l → exec c s = .next u →
    (∀ b, blockOf a = some b → b ∉ l) → rd u t a = rd s t a

/-- Frames over the cells. LINK_DOWN_NOTICE and DELAY_EXCHANGE concern the twins or several cells and are not among them. -/
def Obligations.CellCommandsTouchOneCell : Prop :=
  ∀ (c : Instr) (k j : Nat) (s u : State), TabsOk s → cellOf c = some k → j ≠ k → exec c s = .next u →
    tabGet {} u.cells j = tabGet {} s.cells j

/-- R18, for every state; R434's high impedance without VIN. -/
def Obligations.AtMostOneInterlockPinIsHigh : Prop :=
  ∀ s : State, (∀ t : Twin, biti s .a R.PWR_STATUS_GOOD 0 = true →
      (s.ilk.holder = some t → intlkObs s t = some true) ∧ (s.ilk.holder ≠ some t → intlkObs s t = some false)) ∧
    ¬(intlkObs s .a = some true ∧ intlkObs s .b = some true) ∧
    (biti s .a R.PWR_STATUS_GOOD 0 = true → s.ilk.holder = none → intlkObs s .a = some false ∧ intlkObs s .b = some false) ∧
    (biti s .a R.PWR_STATUS_GOOD 0 = false → intlkObs s .a = none ∧ intlkObs s .b = none)

/-- R392; that h restarts with a new key is stated with KEY_ROLL. -/
def Obligations.CountersAreAcceptedOnce : Prop :=
  ∀ (s : State) (t : Twin) (h : Fin 4) (y : Transport) (p : List Byte) (x : IpPair) (z : PortPair) (n c : Nat),
    forUs s y x.dst z.dst = true → (xing s (asker s) (xingKey y.domain true)).dead = false →
    RegsOk s →
    TabsOk s →
    leader s ≠ none →
    p.length = 32 + n →
    n ≤ 1440 →
    beAt p 1 1 % 4 = h.val →
    beAt p 3 1 < 128 →
    beAt p 8 2 = n →
    (rd s (asker s) (ha R.HST_H_CFG h.val)).getLsbD 31 = true →
    (rd s (asker s) (ha R.HST_H_CFG h.val)).getLsbD (27 + y.index) = true →
    (hctx s h.val).rolled = none →
    tagOk (ctxKey s h.val) p (16 + n) = true →
    (hctx s h.val).kept.all (fun k => k.counter != beAt p 4 4 || k.tag != BitVec.ofNat 128 (beAt p (16 + n) 16)) =
      true →
    twState s t ≠ tsReset →
    beAt p 4 4 = c → (rd s t (ha R.HST_H_REPLAY h.val)).toNat < 4294967294 →
    ∃ u, exec (.ecpPacketReceive y p x z) s = .next u ∧
      (c ≠ 0 ∧ highCtr s h.val ≠ 4294967295 ∧ (highCtr s h.val < c ∨
          c < highCtr s h.val ∧ highCtr s h.val < c + 32 ∧ c ∉ (hctx s h.val).accepted) →
        rd u t (ha R.HST_H_HIGH_CTR h.val) = BitVec.ofNat 32 (max (highCtr s h.val) c) ∧
        c ∈ (hctx u h.val).accepted ∧
        rd u t (ha R.HST_H_REPLAY h.val) = rd s t (ha R.HST_H_REPLAY h.val) ∧
        (highCtr s h.val ≤ 0xF0000000 ∧ 0xF0000000 < c → flag u t (hf R.HST_H_EVENT_CTR_LOW h.val) = true)) ∧
      (¬(c ≠ 0 ∧ highCtr s h.val ≠ 4294967295 ∧ (highCtr s h.val < c ∨
          c < highCtr s h.val ∧ highCtr s h.val < c + 32 ∧ c ∉ (hctx s h.val).accepted)) →
        u.host = s.host ∧ rd u t (ha R.HST_H_REPLAY h.val) = rd s t (ha R.HST_H_REPLAY h.val) + 1 ∧
        rd u t (ha R.HST_H_HIGH_CTR h.val) = rd s t (ha R.HST_H_HIGH_CTR h.val))

/-- R349. The attempt's end is that of the driving twin's controller; arbitration lost to a good frame is part of the received frame's row. -/
def Obligations.CancelActsByTheObjectsState : Prop :=
  ∀ (s : State) (t : Twin) (b : Fin 2) (m : Fin 128), RegsOk s → TabsOk s → twState s t ≠ tsReset →
    ecpObject s (netTwin s) b.val m.val = false → ecpObject s t b.val m.val = false →
    flag s t (ofld R.CAN_B_OBJ_ID_DIR b.val m.val) = true →
    ∃ u, exec (.cancel .both b m) s = .next u ∧ u.report = Rc.OK ∧
      (objStat s t b.val m.val = 1 → objStat u t b.val m.val = 4) ∧
      (objStat s t b.val m.val ≠ 1 → objStat u t b.val m.val = objStat s t b.val m.val) ∧
      (objStat s t b.val m.val = 2 → canDriver s b.val = some t → (can s t b.val).active = some m.val →
        (can s t b.val).closing = false → (xing s t (xingKey 5 true)).dead = false →
        (∀ x : BitVec 40, ∃ v, exec (.txDone b x) u = .next v ∧ objStat v t b.val m.val = 5) ∧
        (∀ (z : Fin 7) (y a : Bool) (d : DomBits), ∃ v, exec (.canAttemptError b z y d a) u = .next v ∧
          objStat v t b.val m.val = 4 ∧ (can v t b.val).active = none) ∧
        (canState s t b.val = 1 ∨ canState s t b.val = 2 → ∀ (x y : Bool) (z : Fin 7) (d : DomBits),
          ∃ v, exec (.canRxError t b x z y d) u = .next v ∧
            objStat v t b.val m.val = 4 ∧ (can v t b.val).active = none))

/-- A refused command is answered with its code, and the run goes on. -/
def Obligations.EveryStepTakesOneCommandAndGoesOn : Prop :=
  (∀ (c : Instr) (s : State), ∃ u, exec c s = .next u ∧ u.pending = s.pending) ∧
  (∀ s : State, ∃ u, step s = .next u ∧ u.pending = s.pending.tail)

/-- R8 for every counter: counterOvf gives the flag's word and bit; the sequence numbers of R10 and the difference of R4. -/
def Obligations.CountersSequencesAndTimesFollowTheCommonRules : Prop :=
  (∀ (s : State) (t : Twin) (a k j : Nat), RegsOk s →
    ((rd s t a).toNat + k < 4294967295 → rd (cntBy s t a k) t a = rd s t a + BitVec.ofNat 32 k) ∧
    (4294967295 ≤ (rd s t a).toNat + k → (∀ w b, counterOvf a = some (w, b) → w ≠ a) →
      rd (cntBy s t a k) t a = 0xFFFFFFFF#32 ∧ rd (cntBy (cntBy s t a k) t a j) t a = 0xFFFFFFFF#32 ∧
      ∀ w b, counterOvf a = some (w, b) → b < 32 → (rd (cntBy s t a k) t w).getLsbD b = true)) ∧
  (∀ got : Nat, seqJudge none got = 1) ∧
  (∀ l got : Nat, l < 65536 → got < 65536 →
    (seqJudge (some l) got = 0 ↔ got = l) ∧
    (seqJudge (some l) got = 1 ↔ ∃ d, 1 ≤ d ∧ d ≤ 256 ∧ (l + d) % 65536 = got)) ∧
  (∀ e n : Nat, e < 1099511627776 → n < 1099511627776 →
    -549755813888 ≤ tribDiff e n ∧ tribDiff e n < 549755813888 ∧
    (tribDiff e n - ((e : Int) - (n : Int))) % 1099511627776 = 0)

/-- R3's formula; device time is held in units of 2^-16 ns. -/
def Obligations.TributaryTimesTruncate : Prop :=
  ∀ s n f : Nat, tribTime (((s * 1000000000 + n) * 65536 + f : Nat) : Int) =
    ((s * 1000000000 + n) * 65536 + f) / 4096 % 1099511627776 ∧
    tribTime (((s * 1000000000 + n) * 65536 + f : Nat) : Int) < 1099511627776

/-- R342, for every object of both buses. -/
def Obligations.FramesMatchReceiveObjectsByIdentifierMask : Prop :=
  ∀ (s : State) (t : Twin) (b : Fin 2) (m : Fin 128) (f : CanFrame),
    flag s t (ofld R.CAN_B_OBJ_ID_EN b.val m.val) = true → flag s t (ofld R.CAN_B_OBJ_ID_DIR b.val m.val) = false →
    (objMatches s t b.val f m.val = true ↔
      (∀ i : Fin 29, (f.ide = true ∨ 18 ≤ i.val) → (rf s t (ofld R.CAN_B_OBJ_MASK_MASK b.val m.val)).testBit i.val = true →
        f.id.getLsbD i.val = (rf s t (ofld R.CAN_B_OBJ_ID_ID b.val m.val)).testBit i.val) ∧
      flag s t (ofld R.CAN_B_OBJ_ID_IDE b.val m.val) = f.ide ∧
      (flag s t (ofld R.CAN_B_OBJ_MASK_MRTR b.val m.val) = true →
        flag s t (ofld R.CAN_B_OBJ_CTL_RTR b.val m.val) = f.rtr))

/-- RC_READ (R9), the inter-twin link (R20) and the crossing cells (R25 to R28). -/
def Obligations.ArchitectureCommandsComplete : Prop :=
  (∀ (s : State) (t : Twin) (w : W32), RegsOk s → w.toNat ∈ [R.TWN_TAKEOVERS, R.TWN_ROTATIONS, R.TWN_HB_MISS,
    R.SYS_RESETS, R.NET_P_TX_OK] → ∃ u, exec (.rcRead t w false) s = .next u ∧ u.readOut = [rd s t w.toNat] ∧
    u.report = Rc.OK ∧ rd u t w.toNat = 0#32) ∧
  (∀ (s : State) (t : Twin) (w : W32), RegsOk s → w.toNat ∈ [R.TWN_TAKEOVERS, R.TWN_ROTATIONS, R.TWN_HB_MISS,
    R.SYS_RESETS, R.NET_P_TX_OK] → ∃ u, exec (.rcRead t w true) s = .next u ∧ u.readOut = [rd s t w.toNat] ∧ rd u t
    w.toNat = 1#32) ∧
  (∀ (s : State) (t : Twin) (g : List (BitVec 4)) (v : Nat), groupsWord g = some v → ∃ u, exec (.linkWordReceive t g)
    s = .next u ∧ (u.tw t).twn.linkIn = BitVec.ofNat 64 v ∧ (u.tw t).twn.linkErrors = (s.tw t).twn.linkErrors) ∧
  (∀ (s : State) (t : Twin) (g : List (BitVec 4)), groupsWord g = none → (s.tw t).twn.linkErrors < 4294967295 → ∃ u,
    exec (.linkWordReceive t g) s = .next u ∧ (u.tw t).twn.linkIn = (s.tw t).twn.linkIn ∧ (u.tw t).twn.linkErrors =
    (s.tw t).twn.linkErrors + 1 ∧ (u.tw t).twn.linkAgain = (s.tw t).twn.linkAgain + 1) ∧
  (∀ (s : State) (t : Twin), RegsOk s → twState s t ≠ tsReset → ∃ u, exec (.linkHandshakeTimeout t) s = .next u ∧
    (u.tw t).twn.linkFailed = true ∧ twOther u t = tsLost ∧ twState u t = twState s t ∧ flag u t R.TWN_STATE_SPLIT =
    true) ∧
  (∀ (s : State) (t : Twin) (d : Fin 9) (into : Bool) (l : List W32) (v : W32), TabsOk s → (xing s t (xingKey d
    into)).dead = false → (into = true ∨ domainWaits s t d = false) → settle 4 l = some v → ∃ u, exec
    (.crossingTransfer t d into l) s = .next u ∧ u.readOut = [v] ∧ xing u t (xingKey d into) =
    { xing s t (xingKey d into) with last := v, unsettled := false, notReady := false }) ∧
  (∀ (s : State) (t : Twin) (d : Fin 9) (into : Bool) (l : List W32), RegsOk s → TabsOk s → (xing s t (xingKey d
    into)).dead = false → (into = true ∨ domainWaits s t d = false) → settle 4 l = none → 5 ≤ l.length → (rd s t
    (R.CLK_XING_UNSETTLED + 8 * d.val)).toNat < 4294967294 → ∃ u, exec (.crossingTransfer t d into l) s = .next u ∧
    u.readOut = [(xing s t (xingKey d into)).last] ∧ xing u t (xingKey d into) =
    { xing s t (xingKey d into) with unsettled := true } ∧ rd u t (R.CLK_XING_UNSETTLED + 8 * d.val) = rd s t
    (R.CLK_XING_UNSETTLED + 8 * d.val) + 1) ∧
  (∀ (s : State) (t : Twin) (d : Fin 9) (l : List W32), TabsOk s → (xing s t (xingKey d false)).dead = false →
    domainWaits s t d = true → ∃ u, exec (.crossingTransfer t d false l) s = .next u ∧ xing u t (xingKey d false) =
    { xing s t (xingKey d false) with offered := (xing s t (xingKey d false)).offered ++ [l] }) ∧
  (∀ (s : State) (t : Twin) (d : Fin 9), TabsOk s → d.val ∈ (s.tw t).pwr.gated → (s.tw t).pwr.gated.Nodup → (xing s t
    (xingKey d false)).offered ≠ [] → domainWaits (modPwr s t (fun p => { p with gated := p.gated.erase d.val })) t d
    = false → ∃ u, exec (.domainWake t d) s = .next u ∧ d.val ∉ (u.tw t).pwr.gated ∧ (xing u t (xingKey d
    false)).offered = [] ∧ (xing u t (xingKey d false)).last = ((xing s t (xingKey d false)).offered.filterMap
    (settle 4)).getLastD (xing s t (xingKey d false)).last) ∧
  (∀ (s : State) (t : Twin) (d : Fin 9) (fabric into : Bool), TabsOk s → (xing s t (xingKey d into)).dead = false → ∃
    u, exec (.crossingSideReset t d fabric) s = .next u ∧ (xing u t (xingKey d into)).dead = true ∧ (xing u t
    (xingKey d into)).notReady = true ∧ (xing u t (xingKey d into)).offered = [] ∧ (xing u t (xingKey d into)).last =
    (xing s t (xingKey d into)).last) ∧
  (∀ (s : State) (t : Twin) (d : Fin 9) (into : Bool), TabsOk s → (xing s t (xingKey d into)).dead = true → ∃ u, exec
    (.crossingRehandshake t d) s = .next u ∧ (xing u t (xingKey d into)).dead = false ∧ (xing u t (xingKey d
    into)).notReady = false ∧ ((xing s t (xingKey d into)).rdrReset = true → (xing u t (xingKey d into)).last =
    0#32))

/-- The interlock and the twin states that hang on it (R16, R131 to R135, R149). -/
def Obligations.InterlockCommandsComplete : Prop :=
  (∀ (s : State) (t : Twin) (x y : BitVec 5), RegsOk s → s.ilk.holder = none → ilkReq s t = true → flag s t
    R.TWN_STATE_ARB_REACH = true → (twState s t = tsFollowing ∨ twState s t = tsIsolated ∨ twState s t = tsLeading ∨
    (twState s t = tsBoot ∧ (s.tw t).pwr.bootDone = true ∧ twOther s t ≠ tsLeading)) → ∃ u, exec (.interlockGrant t
    ⟨x, y⟩) s = .next u ∧ u.ilk.holder = some t ∧ ilkReq u t = false ∧ twState u t = tsLeading ∧ flag u t
    R.TWN_STATE_HOLDS = true ∧ rd u t R.TWN_CLAIM = BitVec.ofNat 32 (2 * (max (max ((rd s t R.TWN_CLAIM).toNat / 2)
    ((rd s t R.TWN_CLAIM_OTHER).toNat / 2)) (max (rf s t R.TWN_EPOCH_BASE_BASE) (s.tw t).twn.bootBase) + 1) + t.bit)) ∧
  (∀ (s : State) (t : Twin) (x y : BitVec 5), s.ilk.holder = none → ilkReq s t = true → flag s t
    R.TWN_STATE_ARB_REACH = false → ∃ u, exec (.interlockGrant t ⟨x, y⟩) s = .next u ∧ u = s) ∧
  (∀ (s : State) (t : Twin), s.ilk.holder = some t → twState s t = tsLeading → s.ilk.pins ≠ some t → ∃ u, exec
    (.sharedPinSwitch t) s = .next u ∧ u.ilk.pins = some t ∧ u.ilk.holder = some t) ∧
  (∀ (s : State) (t : Twin), RegsOk s → s.ilk.holder = some t → ∃ u, exec (.interlockRelease t false) s = .next u ∧
    u.ilk.holder = none ∧ u.ilk.pins = none ∧ flag u t R.TWN_STATE_HOLDS = false) ∧
  (∀ (s : State) (t : Twin), RegsOk s → s.ilk.holder = some t → twState s t = tsLeading → ∃ u, exec
    (.interlockRelease t true) s = .next u ∧ u.ilk.holder = none ∧ u.ilk.pins = none ∧ twState u t = tsWithdrawn ∧ rf
    u t R.TWN_STATE_CAUSE = 8) ∧
  (∀ (s : State) (t : Twin), RegsOk s → twState s t = tsFollowing → s.ilk.holder ≠ some t → ∃ u, exec (.keepaliveSend
    t true) s = .next u ∧ flag u t R.TWN_STATE_ARB_REACH = true ∧ flag u t R.TWN_STATE_HOLDS = false ∧ ilkReq u t =
    true ∧ (u.tw t).twn.kaSent = (s.tw t).twn.kaSent + 1) ∧
  (∀ (s : State) (t : Twin), RegsOk s → twState s t = tsLeading → s.ilk.holder = some t → ilkLapsed s t = false → ∃
    u, exec (.keepaliveSend t true) s = .next u ∧ flag u t R.TWN_STATE_ARB_REACH = true ∧ flag u t R.TWN_STATE_HOLDS
    = true ∧ twState u t = tsLeading ∧ u.ilk.holder = some t ∧ (u.tw t).twn.kaSent = (s.tw t).twn.kaSent + 1) ∧
  (∀ (s : State) (t : Twin), RegsOk s → twState s t = tsLeading → s.ilk.holder ≠ some t → ilkLapsed s t = true → flag
    s t R.TWN_STATE_ARB_REACH = true → ∃ u, exec (.keepaliveSend t true) s = .next u ∧ twState u t = tsWithdrawn ∧ rf
    u t R.TWN_STATE_CAUSE = 8 ∧ flag u t R.TWN_STATE_HOLDS = false ∧ ilkLapsed u t = false) ∧
  (∀ (s : State) (t : Twin), wantsInterlock s t = true → ∃ u, exec (.keepaliveSend t false) s = .next u ∧ (u.tw
    t).twn.kaSent = (s.tw t).twn.kaSent + 1 ∧ SameRegs s u t [] ∧ u.ilk = s.ilk) ∧
  (∀ (s : State) (t : Twin), RegsOk s → s.ilk.holder = some t → ∃ u, exec (.keepaliveLapse t) s = .next u ∧
    u.ilk.holder = none ∧ u.ilk.pins = none ∧ ilkLapsed u t = true ∧ flag u t R.TWN_STATE_HOLDS = flag s t
    R.TWN_STATE_HOLDS) ∧
  (∀ (s : State) (t : Twin), s.ilk.holder ≠ some t → ∃ u, exec (.keepaliveLapse t) s = .next u ∧ ilkReq u t = false ∧
    u.ilk.holder = s.ilk.holder) ∧
  (∀ (s : State) (t : Twin), RegsOk s → wantsInterlock s t = true → ∃ u, exec (.arbiterUnreachable t) s = .next u ∧
    flag u t R.TWN_STATE_ARB_REACH = false ∧ flag u t R.TWN_EVENT_ARB_UNREACHABLE = true ∧ twState u t = twState s t) ∧
  (∀ (s : State) (t : Twin), RegsOk s → twState s t = tsFollowing → twOther s t = tsLost → s.ilk.holder ≠ some t → ∃
    u, exec (.isolate t) s = .next u ∧ twState u t = tsIsolated) ∧
  (∀ (s : State) (t : Twin), RegsOk s → twState s t = tsIsolated → twOther s t = tsLeading → ∃ u, exec
    (.isolatedRejoin t) s = .next u ∧ twState u t = tsJoining ∧ twOther u t = tsLeading ∧ ilkReq u t = false ∧
    (twState s t.other = tsLeading → devTime u t = devTime s t.other))

/-- Heartbeats, withdrawal and rejoin (R132, R143 to R148). -/
def Obligations.TwinHealthCommandsComplete : Prop :=
  (∀ (s : State) (t : Twin), twState s t ≠ tsReset → ∃ u, exec (.heartbeatSend t) s = .next u ∧ ((u.tw
    t).twn.hbOut.map (fun h => (h.state.val, h.claim, h.cause.val))) = some (twState s t % 8, rd s t R.TWN_CLAIM, rf
    s t R.TWN_STATE_CAUSE % 16) ∧ (¬(twState s t = tsWithdrawn ∧ rf s t R.TWN_STATE_CAUSE = 10) → SameRegs s u t [])) ∧
  (∀ (s : State) (t : Twin), RegsOk s → twState s t = tsWithdrawn → rf s t R.TWN_STATE_CAUSE = 10 → ∃ u, exec
    (.heartbeatSend t) s = .next u ∧ twState u t = tsReset ∧ rf u t R.SYS_STATUS_CAUSE = 5) ∧
  (∀ (s : State) (t : Twin) (hb : Heartbeat), RegsOk s → twState s t ≠ tsReset → twState s t ≠ tsBoot → ¬(twState s t
    = tsLeading ∧ hb.state.val = tsLeading ∧ (rd s t R.TWN_CLAIM).toNat < hb.claim.toNat) → ∃ u, exec
    (.heartbeatReceive t hb) s = .next u ∧ twOther u t = hb.state.val ∧ rd u t R.TWN_CLAIM_OTHER = hb.claim ∧ flag u
    t R.TWN_STATE_OTHER_ARB_REACH = hb.arbReach ∧ (u.tw t).twn.hbFit = hb.fit ∧ (u.tw t).twn.hbCause = hb.cause.val ∧
    twState u t = twState s t) ∧
  (∀ (s : State) (t : Twin) (hb : Heartbeat), RegsOk s → twState s t = tsBoot → (s.tw t).pwr.bootDone = true → (s.tw
    t).twn.rejoining = false → hb.state.val = tsLeading → rf s t R.SYS_STATUS_CAUSE ≠ 5 → ∃ u, exec
    (.heartbeatReceive t hb) s = .next u ∧ twState u t = tsJoining ∧ twOther u t = tsLeading ∧ ilkReq u t = false) ∧
  (∀ (s : State) (t : Twin) (hb : Heartbeat), RegsOk s → twState s t = tsLeading → hb.state.val = tsLeading → (rd s t
    R.TWN_CLAIM).toNat < hb.claim.toNat → ∃ u, exec (.heartbeatReceive t hb) s = .next u ∧ twState u t = tsWithdrawn
    ∧ rf u t R.TWN_STATE_CAUSE = 12) ∧
  (∀ (s : State) (t : Twin), RegsOk s → twState s t ≠ tsReset → twOther s t ≠ tsLost → ∃ u, exec (.otherLost t) s =
    .next u ∧ twOther u t = tsLost ∧ flag u t R.TWN_EVENT_HB_LOST = true) ∧
  (∀ (s : State) (t : Twin), RegsOk s → twState s t ≠ tsReset → twState s t ≠ tsWithdrawn → twState s t ≠ tsLeading →
    ∃ u, exec (.withdraw t) s = .next u ∧ twState u t = tsWithdrawn ∧ rf u t R.TWN_STATE_CAUSE = 1 ∧ ilkReq u t =
    false ∧ u.report = Rc.OK) ∧
  (∀ (s : State) (t : Twin), RegsOk s → twState s t = tsLeading → ∃ u, exec (.withdraw t) s = .next u ∧ twState u t =
    tsLeading ∧ rf u t R.TWN_STATE_PEND_CAUSE = 1 ∧ u.ilk.holder = s.ilk.holder) ∧
  (∀ (s : State) (t : Twin), RegsOk s → twState s t = tsWithdrawn → causeHolds s t (rf s t R.TWN_STATE_CAUSE) = false
    → s.pfail = false → 1400 ≤ headroom s t → ∃ u, exec (.rejoin t) s = .next u ∧ u.report = Rc.OK ∧ (u.tw
    t).twn.rejoining = true ∧ (leaveHeld u 1 t = true ∨ leaveWaits u 1 t = true)) ∧
  (∀ (s : State) (t : Twin), RegsOk s → twState s t = tsWithdrawn → flag s t R.TWN_CFG_AUTO_REJOIN = true → rf s t
    R.TWN_STATE_CAUSE ∈ [3, 4, 7, 8, 12] → causeHolds s t (rf s t R.TWN_STATE_CAUSE) = false → (s.tw t).twn.rejoining
    = false → (recentAuto s t).length < 3 → s.pfail = false → 1400 ≤ headroom s t → ∃ u, exec (.autoRejoin t) s =
    .next u ∧ (u.tw t).twn.rejoining = true ∧ (leaveHeld u 1 t = true ∨ leaveWaits u 1 t = true)) ∧
  (∀ (s : State) (t : Twin), RegsOk s → (twState s t = tsWithdrawn ∨ (twState s t = tsBoot ∧ twOther s t =
    tsLeading)) → (s.tw t).twn.rejoining = true → (s.tw t).pwr.fullTest = true → ∃ u, exec (.fullSelftestComplete t
    true) s = .next u ∧ twState u t = tsJoining ∧ (u.tw t).twn.rejoining = false ∧ (u.tw t).twn.fullTested = true ∧
    (u.tw t).pwr.fullTest = false) ∧
  (∀ (s : State) (t : Twin), RegsOk s → twState s t = tsWithdrawn → (s.tw t).twn.rejoining = true → (s.tw
    t).pwr.fullTest = true → ∃ u, exec (.fullSelftestComplete t false) s = .next u ∧ twState u t = tsWithdrawn ∧
    (u.tw t).twn.rejoining = false ∧ (u.tw t).twn.fullTested = false ∧ (u.tw t).pwr.fullTest = false) ∧
  (∀ (s : State) (l : Twin) (x y : BitVec 16), RegsOk s → s.a.twn.stScheduled = true → s.b.twn.stScheduled = true →
    paired s l = true → ∃ u, exec (.fastSelftestComplete (if l = .a then true else false) (if l = .a then false else
    true) x y) s = .next u ∧ twState u l.other = tsWithdrawn ∧ rf u l.other R.TWN_STATE_CAUSE = 2 ∧ twState u l =
    tsLeading ∧ flag u l R.TWN_ST_RESULT_ST_OWN = true ∧ flag u l R.TWN_ST_RESULT_ST_OTHER = false) ∧
  (∀ (s : State) (l : Twin) (x y : BitVec 16), RegsOk s → s.a.twn.stScheduled = true → s.b.twn.stScheduled = true →
    paired s l = true → ∃ u, exec (.fastSelftestComplete true true x y) s = .next u ∧ twState u l.other = tsWithdrawn
    ∧ rf u l.other R.TWN_STATE_CAUSE = 3 ∧ twState u l = tsLeading ∧ flag u l R.TWN_EVENT_DISAGREE_UNRESOLVED = true) ∧
  (∀ (s : State) (l : Twin) (x y : BitVec 16), RegsOk s → s.a.twn.stScheduled = true → s.b.twn.stScheduled = true →
    paired s l = true → ∃ u, exec (.fastSelftestComplete (if l = .a then false else true) (if l = .a then true else
    false) x y) s = .next u ∧ twState u l = tsWithdrawn ∧ rf u l R.TWN_STATE_CAUSE = 2 ∧ twState u l.other =
    tsFollowing) ∧
  (∀ (s : State) (l : Twin) (x y : BitVec 16), RegsOk s → s.a.twn.stScheduled = true → s.b.twn.stScheduled = true →
    paired s l = true → ∃ u, exec (.fastSelftestComplete false false x y) s = .next u ∧ twState u l = tsWithdrawn ∧
    rf u l R.TWN_STATE_CAUSE = 2 ∧ twState u l.other = tsWithdrawn ∧ rf u l.other R.TWN_STATE_CAUSE = 2) ∧
  (∀ (s : State) (t : Twin) (x : BitVec 16), RegsOk s → ∃ u, exec (.dieOvertemp t x) s = .next u ∧ rf u t
    R.PWR_MEAS_TDIE = x.toNat ∧ (1280 < x.toInt ∧ twState s t ≠ tsReset ∧ twState s t ≠ tsWithdrawn ∧ twState s t ≠
    tsLeading → twState u t = tsWithdrawn ∧ rf u t R.TWN_STATE_CAUSE = 7) ∧ (1280 < x.toInt ∧ twState s t = tsLeading
    → twState u t = tsLeading ∧ rf u t R.TWN_STATE_PEND_CAUSE = 7) ∧ (x.toInt ≤ 1280 → twState u t = twState s t)) ∧
  (∀ (s : State) (t : Twin) (g : Fin 4), RegsOk s → twState s t ≠ tsReset → twState s t ≠ tsWithdrawn → (rd s t
    R.HLT_ECC_UNCORR).toNat < 4294967294 → ∃ u, exec (.uncorrectableEcc t g) s = .next u ∧ twState u t = tsWithdrawn
    ∧ rf u t R.TWN_STATE_CAUSE = 11 ∧ rd u t R.HLT_ECC_UNCORR = rd s t R.HLT_ECC_UNCORR + 1)

/-- Hand-over and rotation (R155, R157), boot and join (R159, R160, R451), Contact sheet (R162), digests (R142). -/
def Obligations.HandoverAndJoinCommandsComplete : Prop :=
  (∀ (s : State) (l : Twin) (x : W64), leader s = some l → handoverDue s l = true → handoverFit s l = true → (s.tw
    l).twn.handAfter ≤ (s.tw l).tb.toNat → (s.tw l).tb.toNat + 100000 ≤ x.toNat → ∃ u, exec (.handoverName x) s =
    .next u ∧ (u.tw l).twn.handover = some x.toNat ∧ SameRegs s u l []) ∧
  (∀ (s : State) (l : Twin), RegsOk s → leader s = some l → (s.tw l).twn.handover ≠ none → handoverFit s l = true →
    s.ilk.holder = some l → rf s l R.TWN_STATE_PEND_CAUSE = 0 → ∃ u, exec (.handover false) s = .next u ∧
    u.ilk.holder = some l.other ∧ u.ilk.pins = some l.other ∧ twState u l = tsFollowing ∧ twState u l.other =
    tsLeading ∧ (u.tw l).twn.handover = none) ∧
  (∀ (s : State) (l : Twin), RegsOk s → leader s = some l → (s.tw l).twn.handover ≠ none → handoverFit s l = true →
    s.ilk.holder = some l → rf s l R.TWN_STATE_PEND_CAUSE ≠ 0 → ∃ u, exec (.handover false) s = .next u ∧
    u.ilk.holder = some l.other ∧ u.ilk.pins = some l.other ∧ twState u l = tsWithdrawn ∧ rf u l R.TWN_STATE_CAUSE =
    rf s l R.TWN_STATE_PEND_CAUSE ∧ twState u l.other = tsLeading) ∧
  (∀ (s : State) (l : Twin), leader s = some l → (s.tw l).twn.handover ≠ none → ∃ u, exec (.handover true) s = .next
    u ∧ (u.tw l).twn.handover = none ∧ SameRegs s u l [] ∧ u.ilk = s.ilk) ∧
  (∀ (s : State) (l : Twin), RegsOk s → leader s = some l → handoverDue s l = true → (rd s l
    R.TWN_ROT_POSTPONED).toNat < 4294967294 → ∃ u, exec (.handoverPostpone) s = .next u ∧ (u.tw l).twn.handover =
    none ∧ (u.tw l).twn.handAfter = (s.tw l).tb.toNat + 60000000000 ∧ rd u l R.TWN_ROT_POSTPONED = rd s l
    R.TWN_ROT_POSTPONED + 1 ∧ SameRegs s u l (withOvf R.TWN_ROT_POSTPONED)) ∧
  (∀ (s : State) (t : Twin), RegsOk s → rf s t R.TWN_CFG_ROT_HOURS = 0 → ∃ u, exec (.rotationDue t) s = .next u ∧
    flag u t R.HLT_SUMMARY_ROT_OFF = true ∧ SameRegs s u t [R.HLT_SUMMARY_ROT_OFF.addr]) ∧
  (∀ (s : State) (t : Twin), RegsOk s → rf s t R.TWN_CFG_ROT_HOURS ≠ 0 → twState s t = tsLeading → rotationFit s t =
    true → ∃ u, exec (.rotationDue t) s = .next u ∧ (u.tw t).twn.rotating = true ∧ flag u t R.HLT_SUMMARY_ROT_OFF =
    false) ∧
  (∀ (s : State) (t : Twin), twState s t = tsLeading → rotationFit s t = true → ∃ u, exec (.rotateNow t) s = .next u
    ∧ (u.tw t).twn.rotating = true ∧ u.report = Rc.OK ∧ SameRegs s u t []) ∧
  (∀ (s : State) (t : Twin) (i : Fin 6) (x : W32) (y : Fin 101), RegsOk s → sliceRuns s t i.val = true → (rd s t
    R.HLT_ECC_CORR).toNat + x.toNat < 4294967295 → ∃ u, exec (.backgroundSelftestSlice t i x false true y) s = .next
    u ∧ (u.tw t).twn.bgPass = (s.tw t).twn.bgPass ||| 2 ^ i.val ∧ (rd u t R.HLT_ECC_CORR = if i.val = 0 then rd s t
    R.HLT_ECC_CORR + x else rd s t R.HLT_ECC_CORR) ∧ (u.tw t).twn.cover = tabPut true (s.tw t).twn.cover i.val y.val
    ∧ SameRegs s u t [R.HLT_ECC_CORR]) ∧
  (∀ (s : State) (t : Twin), RegsOk s → twState s t = tsJoining → twState s t.other = tsLeading → twOther s t =
    tsLeading → twOther s t.other ≠ tsLost → (s.tw t).twn.linkFailed = false → (s.tw t.other).twn.linkFailed = false
    → (s.tw t).twn.joinFailed = false → (s.tw t.other).law.img.map (·.inputHash) = (s.tw t).law.img.map (·.inputHash)
    → ∃ u, exec (.joinComplete t) s = .next u ∧ twState u t = tsFollowing ∧ twState u t.other = tsLeading ∧ twOther u
    t = tsLeading ∧ twOther u t.other = tsFollowing ∧ (u.tw t).can = (s.tw t.other).can) ∧
  (∀ (s : State) (t : Twin), RegsOk s → twState s t = tsJoining → (s.tw t).twn.joinFailed = false → ∃ u, exec
    (.joinTimeout t) s = .next u ∧ (u.tw t).twn.joinFailed = true ∧ flag u t R.TWN_EVENT_JOIN_FAIL = true ∧ twState u
    t = tsJoining) ∧
  (∀ (s : State) (t : Twin), twState s t = tsJoining → ∃ u, exec (.joinRetry t) s = .next u ∧ (u.tw t).twn.joinFailed
    = false ∧ SameRegs s u t []) ∧
  (∀ (s : State) (t : Twin), RegsOk s → twState s t = tsFollowing → (s.tw t).twn.updated = true → twState s t.other =
    tsLeading → (s.tw t.other).twn.updated = false → ∃ u, exec (.soakEnd t) s = .next u ∧ rf u t.other
    R.TWN_STATE_PEND_CAUSE = 10 ∧ twState u t.other = tsLeading) ∧
  (∀ (s : State) (t : Twin) (x : Bool) (ms : BitVec 16), RegsOk s → twState s t = tsBoot → (s.tw t).pwr.bootDone =
    false → ∃ u, exec (.bootComplete t x ms) s = .next u ∧ (u.tw t).pwr.bootDone = (x && [0, 1, 2, 3].all (fun ty =>
    (bootSlot s t ty).isSome))) ∧
  (∀ (s : State) (t : Twin) (m : HealthMeas), RegsOk s → twState s t ≠ tsReset → ∃ u, exec (.contactSheetRefresh t m)
    s = .next u ∧ rf u t R.HLT_REG_VCORE_MARGIN = m.vcore.toNat ∧ (u.tw t).twn.snapAt = devNs s t ∧ (u.tw t).twn.uvlo
    = 0) ∧
  (∀ (s : State) (t : Twin) (m : HealthMeas), RegsOk s → twState s t ≠ tsReset → ∃ u, exec (.snap t m) s = .next u ∧
    u.report = Rc.OK ∧ rf u t R.HLT_REG_VIO_MARGIN = m.vio.toNat ∧ (u.tw t).twn.snapAt = devNs s t) ∧
  (∀ (s : State) (t : Twin) (k : Fin 4) (n : W32) (x y : DigRec), RegsOk s → s.a.twn.dig.find? (fun e => e.1 == 4 *
    n.toNat + k.val) = some (4 * n.toNat + k.val, x) → s.b.twn.dig.find? (fun e => e.1 == 4 * n.toNat + k.val) = some
    (4 * n.toNat + k.val, y) → x.d ≠ y.d → flag s .a R.TWN_STATE_COMPARE = true → flag s .b R.TWN_STATE_COMPARE =
    true → s.a.twn.stScheduled = false → s.b.twn.stScheduled = false → ∃ u, exec (.digestCompare k n) s = .next u ∧
    flag u t R.TWN_EVENT_MISMATCH = true ∧ (u.tw t).twn.stScheduled = true ∧ (u.tw t).twn.mismatchAt = some (s.tw
    t).tb.toNat)

/-- Law-engine commands (R37, R173 to R191). -/
def Obligations.LawCommandsComplete : Prop :=
  (∀ (s : State) (tg : Target) (t : Twin), RegsOk s → (tg = .both ∨ tg = .one t) → (targetCode tg (fun t => if
    loadAllowed s t then Rc.OK else Rc.GRAPH_ACTIVE) = Rc.OK) → leaveFree s (asker s) 2 0 = true → ∃ u, exec (.load
    tg) s = .next u ∧ (u.report = targetCode tg (fun t => if imageCheck s t 1 (activeGraph s t) = 0 then Rc.OK else
    Rc.IMAGE (imageCheck s t 1 (activeGraph s t)))) ∧ (targetCode tg (fun t => if imageCheck s t 1 (activeGraph s t)
    = 0 then Rc.OK else Rc.IMAGE (imageCheck s t 1 (activeGraph s t))) ≠ Rc.OK → (u.tw t).law = (s.tw t).law ∧
    (imageCheck s t 1 (activeGraph s t) ≠ 0 → rf u t R.LAW_REFUSE_REFUSE = imageCheck s t 1 (activeGraph s t) % 16 ∧
    flag u t R.LAW_EVENT_IMAGE_REFUSED = true)) ∧ (targetCode tg (fun t => if imageCheck s t 1 (activeGraph s t) = 0
    then Rc.OK else Rc.IMAGE (imageCheck s t 1 (activeGraph s t))) = Rc.OK → graph u t = some (graphImage
    (activeGraph s t)))) ∧
  (∀ (s : State) (tg : Target), (targetCode tg (fun t => if loadAllowed s t then Rc.OK else Rc.GRAPH_ACTIVE) ≠ Rc.OK)
    → ∃ u, exec (.load tg) s = .next u ∧ u = { s with report := Rc.GRAPH_ACTIVE }) ∧
  (∀ (s : State) (t : Twin) (b : Fin 4096) (i : Fin 16) (v : W32), RegsOk s → coefCode s .a b.val i.val v = Rc.OK →
    coefCode s .b b.val i.val v = Rc.OK → ∃ u, exec (.coefWrite .both b i v) s = .next u ∧ u.report = Rc.OK ∧ rd u t
    (R.LAW_BLK_LAT + 256 * b.val + 4 * i.val) = v ∧ SameRegs s u t [R.LAW_BLK_LAT + 256 * b.val + 4 * i.val]) ∧
  (∀ (s : State) (t : Twin) (b : Fin 4096) (i : Fin 16) (v : W32), ∃ u, exec (.coefWrite (.one t) b i v) s = .next u
    ∧ u = { s with report := Rc.AGREED_ONLY }) ∧
  (∀ (s : State) (tg : Target) (t : Twin) (g : GraphImg) (b : Nat), RegsOk s → (tg = .both ∨ tg = .one t) → graph s t
    = some g → targetCode tg (swapCode s) = Rc.OK → b ∈ swapMap s t g → ∃ u, exec (.swap tg) s = .next u ∧ u.report =
    Rc.OK ∧ b ∈ (u.tw t).law.swapSet ∧ flag u t R.LAW_STATUS_SWAP_PENDING = true) ∧
  (∀ (s : State) (tg : Target), targetCode tg (swapCode s) ≠ Rc.OK → ∃ u, exec (.swap tg) s = .next u ∧ u =
    { s with report := Rc.COEF_INVALID }) ∧
  (∀ (s : State) (t : Twin) (k : Fin 4) (g : GraphImg) (x : GBlock) (b : Nat) (i : Fin 16), RegsOk s → graph s t =
    some g → g.blocks.length ≤ 4096 → ((groupBlocks g k.val).map (·.2)).Nodup → (x, b) ∈ groupBlocks g k.val → b ∈
    (s.tw t).law.swapSet → ∃ u, exec (.swapDevelop t k) s = .next u ∧ (u.tw t).law.swapSet = (s.tw
    t).law.swapSet.filter (fun c => !(((groupBlocks g k.val).map (·.2)).contains c)) ∧ ((u.tw t).law.swapSet = [] →
    flag u t R.LAW_EVENT_SWAP_DONE = true ∧ flag u t R.LAW_STATUS_SWAP_PENDING = false) ∧ rd u t (R.LAW_BLK_DEV + 256
    * b + 4 * i.val) = rd s t (R.LAW_BLK_LAT + 256 * b + 4 * i.val) ∧ rd u t (R.LAW_BLK_LAT + 256 * b + 4 * i.val) =
    rd s t (R.LAW_BLK_DEV + 256 * b + 4 * i.val)) ∧
  (∀ (s : State) (t : Twin) (b : Fin 4096) (g : GraphImg), RegsOk s → graph s t = some g → (g.blocks[b.val]?).map
    (·.type) = some 0x29 → rf s t (bf R.LAW_BLK_STATUS_PHASE b.val) = 1 → ∃ u, exec (.handoverForced t b) s = .next u
    ∧ rf u t (bf R.LAW_BLK_STATUS_PHASE b.val) = 2 ∧ flag u t R.LAW_EVENT_HANDOVER_FORCED = true) ∧
  (∀ (s : State) (t : Twin) (k : Fin 3) (x : BitVec 12) (r : RgRec), tabWf (fun _ => []) (s.tw t).law.queue = true →
    rgRec s t (k.val + 1) = some r → computing s t = true → rgDue s t (k.val + 1) r = true → ∃ u, exec (.rgTrigger t
    k x) s = .next u ∧ (rgQueue u t (k.val + 1)).length = (rgQueue s t (k.val + 1)).length + 1 ∧ (rgQueue u t (k.val
    + 1)).take (rgQueue s t (k.val + 1)).length = rgQueue s t (k.val + 1) ∧ ((rgQueue u t (k.val + 1)).getLast?).map
    (·.snap) = some (s.tw t).law.copies) ∧
  (∀ (s : State) (t : Twin) (k : Fin 3) (r : RgRun), RegsOk s → tabWf (fun _ => []) (s.tw t).law.queue = true →
    (rgQueue s t (k.val + 1)).find? (fun r => !r.done) = some r → r.closed = false → sampled s t (k.val + 1) r.tau =
    true → ∃ u, exec (.rgRunStart t k) s = .next u ∧ rgQueue u t (k.val + 1) = modFirst (fun r => !r.done) (fun r =>
    { r with closed := true }) (rgQueue s t (k.val + 1)) ∧ biti u t R.LAW_STATUS_RUNNING (k.val + 1) = true) ∧
  (∀ (s : State) (t : Twin) (k : Fin 3) (x : BitVec 16) (r : RgRun), RegsOk s → tabWf (fun _ => []) (s.tw
    t).law.queue = true → (rgQueue s t (k.val + 1)).find? (fun r => !r.done) = some r → r.closed = true → ∃ u, exec
    (.rgRunComplete t k x) s = .next u ∧ rgQueue u t (k.val + 1) = sweep (modFirst (fun r => !r.done) (fun r =>
    { r with done := true }) (rgQueue s t (k.val + 1))) ∧ rf u t (fo R.LAW_RG_TIME_MEASURED (16 * (k.val + 1))) = max
    (rf s t (fo R.LAW_RG_TIME_MEASURED (16 * (k.val + 1)))) x.toNat ∧ biti u t R.LAW_STATUS_RUNNING (k.val + 1) =
    (rgQueue u t (k.val + 1)).any (fun r => !r.done)) ∧
  (∀ (s : State) (t : Twin) (k : Fin 3) (r : RgRun), tabWf (fun _ => []) (s.tw t).law.queue = true → tabWf (fun _ =>
    0) (s.tw t).law.ovrRun = true → (rgQueue s t (k.val + 1)).find? (fun r => !r.late) = some r → r.done = true → ∃
    u, exec (.rgDeadline t k) s = .next u ∧ rgQueue u t (k.val + 1) = sweep (modFirst (fun r => !r.late) (fun r =>
    { r with late := true }) (rgQueue s t (k.val + 1))) ∧ tabGet 0 (u.tw t).law.ovrRun (k.val + 1) = 0) ∧
  (∀ (s : State) (t : Twin) (k : Fin 3) (r : RgRun), RegsOk s → tabWf (fun _ => []) (s.tw t).law.queue = true →
    (rgQueue s t (k.val + 1)).find? (fun r => !r.late) = some r → r.done = false → (rd s t (R.LAW_RG_OVR + 16 *
    (k.val + 1))).toNat < 4294967294 → ∃ u, exec (.rgDeadline t k) s = .next u ∧ rgQueue u t (k.val + 1) = modFirst
    (fun r => !r.late) (fun r => { r with late := true }) (rgQueue s t (k.val + 1)) ∧ biti u t R.LAW_EVENT_OVR_RG
    (k.val + 1) = true ∧ tabGet 0 (u.tw t).law.ovrRun (k.val + 1) = tabGet 0 (s.tw t).law.ovrRun (k.val + 1) + 1 ∧ rd
    u t (R.LAW_RG_OVR + 16 * (k.val + 1)) = rd s t (R.LAW_RG_OVR + 16 * (k.val + 1)) + 1) ∧
  (∀ (s : State) (t : Twin) (k : Fin 3) (r : RgRun), RegsOk s → (rgQueue s t (k.val + 1)).find? (fun r => !r.late) =
    some r → r.done = false → tabGet 0 (s.tw t).law.ovrRun (k.val + 1) = 2 → twState s t = tsFollowing → ∃ u, exec
    (.rgDeadline t k) s = .next u ∧ twState u t = tsWithdrawn ∧ rf u t R.TWN_STATE_CAUSE = 4) ∧
  (∀ (s : State) (t : Twin) (e : Fin 8), RegsOk s → twState s t ≠ tsReset → e.val ∉ (s.tw t).arr.engBad → ∃ u, exec
    (.lawEngineFail t e) s = .next u ∧ rf u t R.LAW_STATUS_ENGINES = rf s t R.LAW_STATUS_ENGINES - 1 ∧ e.val ∈ (u.tw
    t).arr.engBad ∧ (u.tw t).arr.engFailed = true ∧ SameRegs s u t [R.LAW_STATUS_ENGINES.addr])

/-- The array cycle (R29 to R35), start and stop (R46, R485), the mapping table (R41). -/
def Obligations.CycleCommandsComplete : Prop :=
  (∀ (s : State) (t : Twin) (n : W32), RegsOk s → computing s t = true → twState s t ≠ tsJoining → n.toNat = (s.tw
    t).arr.n + 1 → (s.tw t).arr.dispatched = true → (s.tw t).arr.engFailed = false → ∃ u, exec (.cycleStart t n) s =
    .next u ∧ (u.tw t).arr.n = n.toNat ∧ (u.tw t).arr.cur = (s.tw t).arr.next ∧ (u.tw t).arr.next = [] ∧ (u.tw
    t).arr.hold = false ∧ (u.tw t).arr.dispatched = false) ∧
  (∀ (s : State) (t : Twin) (x : BitVec 12), RegsOk s → computing s t = true → (s.tw t).arr.inRun = false → setEnded
    s t ((s.tw t).arr.runN + 1) = true → otherReady s t ((s.tw t).arr.runN + 1) = true → sampled s t 0 (cycleStartNs
    s t ((s.tw t).arr.runN + 1) * 16) = true → ∃ u, exec (.agreementClose t x) s = .next u ∧ (u.tw t).arr.runN =
    (s.tw t).arr.runN + 1 ∧ (u.tw t).arr.inRun = true ∧ biti u t R.LAW_STATUS_RUNNING 0 = true) ∧
  (∀ (s : State) (t : Twin) (x : BitVec 16), RegsOk s → computing s t = true → (s.tw t).arr.inRun = true → (s.tw
    t).arr.runN = (s.tw t).arr.n → (s.tw t).arr.hold = false → ∃ u, exec (.rg0RunComplete t x) s = .next u ∧ (u.tw
    t).arr.inRun = false ∧ (u.tw t).arr.dispatched = true ∧ (u.tw t).twn.overrunRun = 0 ∧ (u.tw t).twn.missRun = 0 ∧
    biti u t R.LAW_STATUS_RUNNING 0 = false) ∧
  (∀ (s : State) (t : Twin) (x : BitVec 16), RegsOk s → computing s t = true → (s.tw t).arr.inRun = true → ¬((s.tw
    t).arr.runN = (s.tw t).arr.n ∧ (s.tw t).arr.hold = false) → ∃ u, exec (.rg0RunComplete t x) s = .next u ∧ (u.tw
    t).arr.inRun = false ∧ (u.tw t).arr.next = [] ∧ biti u t R.LAW_STATUS_RUNNING 0 = false) ∧
  (∀ (s : State) (t : Twin), RegsOk s → computing s t = true → (s.tw t).arr.dispatched = false → (s.tw t).arr.hold =
    false → (s.tw t).twn.overrunRun < 2 → (s.tw t).twn.missRun < 7 → ∃ u, exec (.dispatchDeadline t) s = .next u ∧
    (u.tw t).arr.hold = true ∧ (u.tw t).arr.overN = some (s.tw t).arr.n ∧ (u.tw t).twn.overrunRun = (s.tw
    t).twn.overrunRun + 1 ∧ biti u t R.LAW_EVENT_OVR_RG 0 = true ∧ twState u t = twState s t) ∧
  (∀ (s : State) (t : Twin), RegsOk s → twState s t = tsFollowing → (s.tw t).arr.dispatched = false → (s.tw
    t).arr.hold = false → 2 ≤ (s.tw t).twn.overrunRun → ∃ u, exec (.dispatchDeadline t) s = .next u ∧ twState u t =
    tsWithdrawn ∧ rf u t R.TWN_STATE_CAUSE = 4) ∧
  (∀ (s : State) (t : Twin), RegsOk s → enableCode (budget s) (asker (budget s)) = Rc.OK → (budget s).pfail = false →
    1200 ≤ headroom (budget s) (asker (budget s)) → flag (budget s) (asker (budget s)) R.ARR_CTRL_ENABLE = false → ∃
    u, exec (.arrayEnable) s = .next u ∧ u.report = Rc.OK ∧ flag u t R.ARR_CTRL_ENABLE = true ∧ (u.tw t).arr.phase =
    1) ∧
  (∀ (s : State) (t : Twin) (n : W32), RegsOk s → ringsReady s = true → computing s t = true → (s.tw t).arr.phase = 1
    → n ≠ 0#32 → ∃ u, exec (.arrayFirstFrame n) s = .next u ∧ flag u t R.ARR_STATUS_RUNNING = true ∧ (u.tw
    t).arr.phase = 2 ∧ (u.tw t).arr.n + 1 = n.toNat ∧ (u.tw t).arr.dispatched = true) ∧
  (∀ (s : State) (t : Twin) (k : Fin 192), RegsOk s → flag s (asker s) R.ARR_CTRL_ENABLE = true → ∃ u, exec
    (.arrayStop) s = .next u ∧ flag u t R.ARR_CTRL_ENABLE = false ∧ flag u t R.ARR_STATUS_RUNNING = false ∧ flag u t
    R.ARR_STATUS_BLOCKED = false ∧ (u.tw t).arr.phase = 0 ∧ cellSt u t k.val = cellSt s t k.val) ∧
  (∀ (s : State) (t : Twin) (k : Fin 192) (v : W32), RegsOk s → mapEntryCode s (asker s) k.val v = Rc.OK → ∃ u, exec
    (.mapEntryWrite k v) s = .next u ∧ u.report = Rc.OK ∧ rd u t (R.ARR_MAP + 4 * k.val) = v &&& 0xFFFFF000#32 ∧
    SameRegs s u t [R.ARR_MAP + 4 * k.val])

/-- Rotation, wear and Oxbow (R59 to R74). -/
def Obligations.ArrayCommandsComplete : Prop :=
  (∀ (s : State) (t : Twin) (i : Fin 6), computing s t = true → (rf s t (sf R.ARR_S_CFG_ROT_MODE i.val) = 1 ∨ rf s t
    (sf R.ARR_S_CFG_ROT_MODE i.val) = 2) → rf s t R.ARR_CTRL_ROT_EN ≠ 0 → (strX s t i.val).rotAt + rf s t (sf
    R.ARR_S_CFG_ROT_K i.val) ≤ (s.tw t).arr.n + 2 → ∃ u, exec (.carrierRotation i) s = .next u ∧ (strX u t
    i.val).ranks = rotated s t i.val ∧ (rf s t (sf R.ARR_S_CFG_ROT_MODE i.val) = 1 → (strX u t i.val).ranks = (strX s
    t i.val).ranks.getLast?.toList ++ (strX s t i.val).ranks.dropLast) ∧ (strX u t i.val).rotAt = (s.tw t).arr.n + 2
    ∧ (rf s t (sf R.ARR_S_CFG_ROT_MODE i.val) = 2 → (strX u t i.val).stress = [])) ∧
  (∀ (s : State) (t : Twin) (i : Fin 6), (rf s t (sf R.ARR_S_CFG_ROT_MODE i.val) = 0 ∨ rf s t R.ARR_CTRL_ROT_EN = 0 ∨
    (s.tw t).arr.n + 2 < (strX s t i.val).rotAt + rf s t (sf R.ARR_S_CFG_ROT_K i.val)) → ∃ u, exec (.carrierRotation
    i) s = .next u ∧ (strX u t i.val).ranks = (strX s t i.val).ranks ∧ (strX u t i.val).rotAt = (strX s t
    i.val).rotAt) ∧
  (∀ (s : State) (t : Twin) (k : Fin 192) (i : Fin 6), RegsOk s → tabWf (fun _ => ({} : CellX)) (s.tw t).arr.cells =
    true → i.val < stringsUsed s t → k.val ∈ strIn s t i.val [csActive, csInserting] → ∃ u, exec (.thermalUpdate t) s
    = .next u ∧ (cellX u t k.val).dT1 = F32.add (cellX s t k.val).dT1 (F32.mul (F32.sub F32.one (F32.exp (F32.div
    (F32.neg (F32.mul (F32.ofInt (rf s t R.ARR_TH_CFG_TH_DIV)) (tcycF s t))) (cw s t R.CELL_TAU1 k.val)))) (F32.sub
    (F32.mul (cw s t R.CELL_RTH1 k.val) (F32.div (F32.add (cellX s t k.val).condSum (cellX s t k.val).swSum) (F32.mul
    (F32.ofInt (rf s t R.ARR_TH_CFG_TH_DIV)) (tcycF s t)))) (cellX s t k.val).dT1)) ∧ (cellX u t k.val).dT2 = F32.add
    (cellX s t k.val).dT2 (F32.mul (F32.sub F32.one (F32.exp (F32.div (F32.neg (F32.mul (F32.ofInt (rf s t
    R.ARR_TH_CFG_TH_DIV)) (tcycF s t))) (cw s t R.CELL_TAU2 k.val)))) (F32.sub (F32.mul (cw s t R.CELL_RTH2 k.val)
    (F32.div (F32.add (cellX s t k.val).condSum (cellX s t k.val).swSum) (F32.mul (F32.ofInt (rf s t
    R.ARR_TH_CFG_TH_DIV)) (tcycF s t)))) (cellX s t k.val).dT2)) ∧ rd u t (R.CELL_TJ + 256 * k.val) = F32.add
    (F32.add (cw s t R.CELL_TEMP1 k.val) (cellX u t k.val).dT1) (cellX u t k.val).dT2 ∧ (cellX u t k.val).condSum = 0
    ∧ (cellX u t k.val).swSum = 0 ∧ cellX u t k.val = cellX (thermalCell s t k.val) t k.val ∧ damage u t k.val =
    damage (thermalCell s t k.val) t k.val ∧ rd u t (R.CELL_TCYCLES + 256 * k.val) = rd (thermalCell s t k.val) t
    (R.CELL_TCYCLES + 256 * k.val)) ∧
  (∀ (s : State) (t : Twin) (k : Fin 192), RegsOk s → tabWf (fun _ => ({} : CellX)) (s.tw t).arr.cells = true → (∀ i
    : Fin 6, k.val ∉ strIn s t i.val [csActive, csInserting]) → ∃ u, exec (.thermalUpdate t) s = .next u ∧ cellX u t
    k.val = cellX s t k.val ∧ rd u t (R.CELL_TJ + 256 * k.val) = rd s t (R.CELL_TJ + 256 * k.val) ∧ damage u t k.val
    = damage s t k.val) ∧
  (∀ (s : State) (t : Twin) (k : Fin 192) (i : Fin 6) (v : W32), RegsOk s → i.val < stringsUsed s t → (k.val, v) ∈
    weights s t i.val → ∃ u, exec (.weightUpdate t) s = .next u ∧ rd u t (R.CELL_WEIGHT + 256 * k.val) = v ∧ SameRegs
    s u t ((List.range 192).map (fun j => R.CELL_WEIGHT + 256 * j))) ∧
  (∀ (s : State) (t : Twin) (k : Fin 192) (i : Fin 6), RegsOk s → i.val < stringsUsed s t → k.val ∈ strIn s t i.val
    [csActive] → rf s t R.ARR_CTRL_WEAR_EN = 0 → ∃ u, exec (.weightUpdate t) s = .next u ∧ rd u t (R.CELL_WEIGHT +
    256 * k.val) = F32.one) ∧
  (∀ (s : State) (t : Twin), leaveFree s t 5 4 = true → ∃ u, exec (.wearRecordSave t true) s = .next u ∧ (u.tw
    t).flash.wear = wearRecord s t ∧ (leaveHeldFor s 5 t 4 = false → u.sluice = s.sluice)) ∧
  (∀ (s : State) (t : Twin), RegsOk s → leaveFree s t 5 4 = true → ∃ u, exec (.wearRecordSave t false) s = .next u ∧
    (u.tw t).flash.wear = (s.tw t).flash.wear ∧ flag u t R.ARR_EVENT_WEAR_SAVE = true) ∧
  (∀ (s : State) (t : Twin) (x : Bool), RegsOk s → s.report = Rc.OK → (s.pfail = true ∨ headroom s t < leaveCost 5 4)
    → ∃ u, exec (.wearRecordSave t x) s = .next u ∧ (u.tw t).flash = (s.tw t).flash ∧ flag u t R.ARR_EVENT_WEAR_SAVE
    = true ∧ u.sluice = s.sluice) ∧
  (∀ (s : State) (t : Twin) (k : Fin 192) (i : Fin 6), RegsOk s → tabWf (fun _ => ({} : CellX)) (s.tw t).arr.cells =
    true → rf s t R.ARR_CTRL_EST_EN ≠ 0 → k.val ∈ strIn s t i.val [csActive] → ∃ u, exec (.estimatorResult t i) s =
    .next u ∧ cellX u t k.val = cellX (estCell s t k.val (strRef s t i.val).omega) t k.val ∧ (cellX u t k.val).iRe =
    0 ∧ (cellX u t k.val).vRe = 0 ∧ (cellX u t k.val).samples = 0 ∧ cw u t R.CELL_CAP k.val = cw (estCell s t k.val
    (strRef s t i.val).omega) t R.CELL_CAP k.val ∧ cw u t R.CELL_ESR k.val = cw (estCell s t k.val (strRef s t
    i.val).omega) t R.CELL_ESR k.val ∧ cw u t R.CELL_EST_VALID.addr k.val = cw (estCell s t k.val (strRef s t
    i.val).omega) t R.CELL_EST_VALID.addr k.val) ∧
  (∀ (s : State) (t : Twin) (i : Fin 6), rf s t R.ARR_CTRL_EST_EN = 0 → ∃ u, exec (.estimatorResult t i) s = .next u
    ∧ u = s) ∧
  (∀ (s : State) (t : Twin) (k : Fin 192), RegsOk s → computing s t = true → cellSt s t k.val = csActive → rf s t
    R.ARR_PLAUS_DEV_CYCLES ≤ (cellX s t k.val).dev → ∃ u, exec (.imbalanceDetected k) s = .next u ∧ cellSt u t k.val
    = csBypassing ∧ rf u t (fo R.CELL_STATE_CAUSE (256 * k.val)) = 5 ∧ flag u t R.ARR_EVENT_CELL_BYPASSED = true) ∧
  (∀ (s : State) (t : Twin) (k : Fin 192), RegsOk s → computing s t = true → judged s t k.val = true → rf s t
    R.ARR_TIMING_CMDLOSS + 2 ≤ (cellX s t k.val).miss → ∃ u, exec (.cellLostDetected k) s = .next u ∧ cellSt u t
    k.val = csBypassed ∧ rf u t (fo R.CELL_STATE_CAUSE (256 * k.val)) = 7 ∧ flag u t R.ARR_EVENT_CELL_LOST = true) ∧
  (∀ (s : State) (t : Twin) (k : Fin 192), RegsOk s → computing s t = true → judged s t k.val = true → ∃ u, exec
    (.cellBypass k) s = .next u ∧ u.report = Rc.OK ∧ cellSt u t k.val = csBypassing ∧ rf u t (fo R.CELL_STATE_CAUSE
    (256 * k.val)) = 1 ∧ flag u t R.ARR_EVENT_CELL_BYPASSED = true) ∧
  (∀ (s : State) (t : Twin) (k : Fin 192) (i : Nat), RegsOk s → computing s t = true → cellSt s t k.val = csBypassing
    → (cellX s t k.val).bypAt = some i → i + 1 + rf s t R.ARR_OXB_CONFIRM ≤ (s.tw t).arr.n → ∃ u, exec
    (.bypassUnconfirmed k) s = .next u ∧ flag u t R.ARR_STATUS_BLOCKED = true ∧ flag u t
    R.ARR_EVENT_BYPASS_UNCONFIRMED = true) ∧
  (∀ (s : State) (t : Twin) (k : Fin 192), RegsOk s → computing s t = true → insertCode s (asker s) k.val = Rc.OK →
    cellSt s t k.val = csStandby → ∃ u, exec (.cellInsert k) s = .next u ∧ cellSt u t k.val = csInserting) ∧
  (∀ (s : State) (k : Fin 192), insertCode s (asker s) k.val ≠ Rc.OK → ∃ u, exec (.cellInsert k) s = .next u ∧ u =
    { s with report := insertCode s (asker s) k.val }) ∧
  (∀ (s : State) (k : Fin 192), readmitCode s (asker s) k.val ≠ Rc.OK → ∃ u, exec (.cellReadmit k) s = .next u ∧ u =
    { s with report := readmitCode s (asker s) k.val }) ∧
  (∀ (s : State) (t : Twin) (k : Fin 192), RegsOk s → computing s t = true → (cellX s t k.val).waits = true →
    (ringLive s .a (mapChain (rd s t (R.ARR_MAP + 4 * k.val))) = true ∨ ringLive s .b (mapChain (rd s t (R.ARR_MAP +
    4 * k.val))) = true) → flag s t R.ARR_STATUS_BLOCKED = false → safeBlocked s t = false → ∃ u, exec
    (.spareInsertStart k) s = .next u ∧ cellSt u t k.val = csInserting) ∧
  (∀ (s : State) (t : Twin) (k : Fin 192), RegsOk s → computing s t = true → cellSt s t k.val = csInserting → (strRef
    s t (mapString (rd s t (R.ARR_MAP + 4 * k.val)))).run = true → ∃ u, exec (.insertTimeout k) s = .next u ∧ cellSt
    u t k.val = csBypassing ∧ rf u t (fo R.CELL_STATE_CAUSE (256 * k.val)) = 8 ∧ flag u t R.ARR_EVENT_INSERT_TIMEOUT
    = true) ∧
  (∀ (s : State) (t : Twin) (k : Fin 192), RegsOk s → readmitCode s (asker s) k.val = Rc.OK → ∃ u, exec (.cellReadmit
    k) s = .next u ∧ u.report = Rc.OK ∧ mapRole (rd u t (R.ARR_MAP + 4 * k.val)) = 2 ∧ (cellSt u t k.val = csStandby
    ∨ cellSt u t k.val = csCold))

/-- Ring start-up (R123), returned frames (R122, R126) and probes (R103 to R106, R128). -/
def Obligations.RingCommandsComplete : Prop :=
  (∀ (s : State) (t : Twin) (c : Fin 12), RegsOk s → TabsOk s → ringSt s t c.val = 2 → ∃ u, exec (.ringRxSync t c) s
    = .next u ∧ ringSt u t c.val = 3 ∧ flag u t (tf R.TRB_STATE_RX_SYNC c.val) = true ∧ flag u t (tf
    R.TRB_STATE_WRAPPED c.val) = false ∧ (ringX u t c.val).returns = 0 ∧ (ringX u t c.val).awaited = false) ∧
  (∀ (s : State) (t : Twin) (c : Fin 12), RegsOk s → (ringSt s t c.val = 2 ∨ ringSt s t c.val = 3) → ∃ u, exec
    (.ringStartTimeout t c) s = .next u ∧ ringSt u t c.val = 6 ∧ flag u t (tf R.TRB_EVENT_START_FAIL c.val) = true) ∧
  (∀ (s : State) (t : Twin) (c : Fin 12), RegsOk s → TabsOk s → ringSt s t c.val = 6 → sends s t = true → (trainPaid
    s c.val = true ∨ leaveFree s (asker s) 0 (2 ^ c.val) = true) → ∃ u, exec (.ringRetry t c) s = .next u ∧ ringSt u
    t c.val = 2 ∧ trainPaid u c.val = true) ∧
  (∀ (s : State) (t : Twin) (c : Fin 12), RegsOk s → TabsOk s → ringSt s t c.val = 6 → sends s t = true → s.pfail =
    false → trainPaid s c.val = false → 100 ≤ headroom s (asker s) → headroom s (asker s) < inUse s (asker s) + 100 →
    sameLedger s (asker s) s.sluice.queue = [] → ∃ u, exec (.ringRetry t c) s = .next u ∧ ringSt u t c.val = 6 ∧
    leaveWaits u 0 (asker s) = true ∧ (ringX u t c.val).wake = true) ∧
  (∀ (s : State) (t : Twin) (c : Fin 12), RegsOk s → TabsOk s → sends s t = true → 0 < chainLen s t c.val →
    (chainCold s t c.val = false ∨ ringWarm s t c.val = true) → (trainPaid s c.val = true ∨ leaveFree s (asker s) 0
    (2 ^ c.val) = true) → ∃ u, exec (.restart t c) s = .next u ∧ ringSt u t c.val = 2 ∧ u.report = Rc.OK) ∧
  (∀ (s : State) (t : Twin) (c : Fin 12), RegsOk s → TabsOk s → 3 ≤ ringSt s t c.val → ringSt s t c.val ≠ 6 → ∃ u,
    exec (.ringRxSyncLost t c) s = .next u ∧ flag u t (tf R.TRB_EVENT_LOS c.val) = true ∧ flag u t (tf
    R.TRB_STATE_RX_SYNC c.val) = false ∧ (ringSt u t c.val = 1 ∨ ringSt u t c.val = 2) ∧ (ringX u t c.val).awaited =
    false) ∧
  (∀ (s : State) (t : Twin) (c : Fin 12), ∃ u, exec (.probeNow t c) s = .next u ∧ u.report = Rc.OK ∧ c.val ∈ (u.tw
    t).arr.probe ∧ SameRegs s u t []) ∧
  (∀ (s : State) (t : Twin) (c : Fin 12), RegsOk s → ringLive s t c.val = true → (s.tw t).arr.phase = 2 → ∃ u, exec
    (.probeCycle) s = .next u ∧ c.val ∈ (u.tw t).arr.probe) ∧
  (∀ (s : State) (t : Twin) (c : Fin 12), RegsOk s → 2 ≤ ringSt s t c.val → ∃ u, exec (.probeStale t c) s = .next u ∧
    flag u t (tf R.TRB_EVENT_PROBE_STALE c.val) = true ∧ SameRegs s u t [(tf R.TRB_EVENT_PROBE_STALE c.val).addr]) ∧
  (∀ (s : State) (t : Twin) (c : Fin 12) (b : List Byte) (y : BitVec 16) (x : BitVec 52), RegsOk s → TabsOk s → (xing
    s t (xingKey 3 true)).dead = false → Frame.wrapped b = false → (ringX s t c.val).awaited = true → Frame.lengthOk
    b = true → Frame.hcrcOk b = true → Frame.fcrcOk b = true → (Frame.get b 0 1 = 1 ∨ Frame.get b 0 1 = 2) → ownFrame
    t c.val b = true → Frame.get b 2 2 = (ringX s t c.val).seq → (rd s t (ta R.TRB_RX_CODE c.val)).toNat + y.toNat <
    4294967295 → (rd s t (ta R.TRB_RX_OK c.val)).toNat < 4294967294 → ∃ u, exec (.frameReturn t c b y true x) s =
    .next u ∧ rd u t (ta R.TRB_RX_OK c.val) = rd s t (ta R.TRB_RX_OK c.val) + 1 ∧ (ringX u t c.val).awaited = false ∧
    (rd u t (ta R.TRB_RX_CODE c.val)).toNat = (rd s t (ta R.TRB_RX_CODE c.val)).toNat + y.toNat) ∧
  (∀ (s : State) (t : Twin) (c : Fin 12) (b : List Byte) (y : BitVec 16) (x : BitVec 52), RegsOk s → TabsOk s → (xing
    s t (xingKey 3 true)).dead = false → Frame.wrapped b = false → (ringX s t c.val).awaited = true → Frame.lengthOk
    b = true → Frame.hcrcOk b = false → (rd s t (ta R.TRB_RX_CODE c.val)).toNat + y.toNat < 4294967295 → (rd s t (ta
    R.TRB_RX_HCRC c.val)).toNat < 4294967294 → ∃ u, exec (.frameReturn t c b y true x) s = .next u ∧ rd u t (ta
    R.TRB_RX_HCRC c.val) = rd s t (ta R.TRB_RX_HCRC c.val) + 1 ∧ rd u t (ta R.TRB_RX_OK c.val) = rd s t (ta
    R.TRB_RX_OK c.val) ∧ (rd u t (ta R.TRB_RX_CODE c.val)).toNat = (rd s t (ta R.TRB_RX_CODE c.val)).toNat + y.toNat
    ∧ (ringX u t c.val).awaited = false) ∧
  (∀ (s : State) (t : Twin) (c : Fin 12) (b : List Byte) (y : BitVec 16) (x : BitVec 52), RegsOk s → TabsOk s → (xing
    s t (xingKey 3 true)).dead = false → Frame.wrapped b = false → (ringX s t c.val).awaited = true → Frame.lengthOk
    b = true → Frame.hcrcOk b = true → Frame.fcrcOk b = false → ownFrame t c.val b = true → Frame.get b 2 2 = (ringX
    s t c.val).seq → (rd s t (ta R.TRB_RX_FCRC c.val)).toNat < 4294967294 → ∃ u, exec (.frameReturn t c b y true x) s
    = .next u ∧ rd u t (ta R.TRB_RX_FCRC c.val) = rd s t (ta R.TRB_RX_FCRC c.val) + 1 ∧ rd u t (ta R.TRB_RX_OK c.val)
    = rd s t (ta R.TRB_RX_OK c.val) ∧ (ringX u t c.val).awaited = false) ∧
  (∀ (s : State) (t : Twin) (c : Fin 12) (b : List Byte) (y : BitVec 16) (x : Bool) (z : BitVec 52), RegsOk s →
    TabsOk s → (xing s t (xingKey 3 true)).dead = true → (rd s t (R.CLK_XING_DROPPED_AT_RESET + 24)).toNat <
    4294967294 → ∃ u, exec (.frameReturn t c b y x z) s = .next u ∧ rd u t (R.CLK_XING_DROPPED_AT_RESET + 24) = rd s
    t (R.CLK_XING_DROPPED_AT_RESET + 24) + 1 ∧ ringX u t c.val = ringX s t c.val) ∧
  (∀ (s : State) (t : Twin) (c : Fin 12) (b : List Byte), RegsOk s → TabsOk s → (s.tw t).twn.linkFailed = false →
    Frame.wrapped b = true → (ringX s t.other c.val).awaited = true → Frame.lengthOk b = true → Frame.hcrcOk b = true
    → Frame.fcrcOk b = true → (Frame.get b 0 1 = 1 ∨ Frame.get b 0 1 = 2) → ownFrame t.other c.val b = true →
    Frame.get b 2 2 = (ringX s t.other c.val).seq → (rd s t.other (ta R.TRB_RX_OK c.val)).toNat < 4294967294 → ∃ u,
    exec (.wrappedFrameRelay t c b) s = .next u ∧ rd u t.other (ta R.TRB_RX_OK c.val) = rd s t.other (ta R.TRB_RX_OK
    c.val) + 1 ∧ (ringX u t.other c.val).awaited = false ∧ flag u t (tf R.TRB_EVENT_WRAP c.val) = true ∧ flag u t (tf
    R.TRB_STATE_WRAPPED c.val) = true) ∧
  (∀ (s : State) (t : Twin) (c : Fin 12), RegsOk s → TabsOk s → (ringX s t c.val).awaited = true → (rd s t (ta
    R.TRB_RX_MISSING c.val)).toNat < 4294967294 → ∃ u, exec (.returnDeadline t c) s = .next u ∧ (ringX u t
    c.val).awaited = false ∧ rd u t (ta R.TRB_RX_MISSING c.val) = rd s t (ta R.TRB_RX_MISSING c.val) + 1 ∧ SameRegs s
    u t [ta R.TRB_RX_MISSING c.val]) ∧
  (∀ (s : State) (t : Twin) (c : Fin 12) (x : Fin 17) (t1 t4 : BitVec 40) (y : BitVec 24), RegsOk s → TabsOk s → 0 <
    x.val → x.val < chainLen s .a c.val → nbit (Frame.get (tabGet [] s.a.arr.sent c.val ++ tabGet [] s.b.arr.sent
    c.val) 21 1) 5 = true → pairAlive s c.val (chainLen s .a c.val) x.val = true → ∃ u, exec (.delayExchange c x t1
    t4 y) s = .next u ∧ (cell u c.val x.val).linkA = (tribDiff t4.toNat t1.toNat - y.toNat) * 2048 + cellAsym s c.val
    x.val true / 2 ∧ (cell u c.val (x.val - 1)).linkB = (tribDiff t4.toNat t1.toNat - y.toNat) * 2048 - cellAsym s
    c.val (x.val - 1) false / 2 ∧ (cell u c.val x.val).probedA = true ∧ x.val ∈ (ringX u t c.val).pairs) ∧
  (∀ (s : State) (t : Twin) (c : Fin 12) (x : Fin 17) (t1 t4 : BitVec 40) (y : BitVec 24), RegsOk s → TabsOk s →
    x.val = 0 → 0 < chainLen s .a c.val → nbit (Frame.get (tabGet [] s.a.arr.sent c.val ++ tabGet [] s.b.arr.sent
    c.val) 21 1) 5 = true → pairAlive s c.val (chainLen s .a c.val) x.val = true → ∃ u, exec (.delayExchange c x t1
    t4 y) s = .next u ∧ (cell u c.val 0).linkA = (tribDiff t4.toNat t1.toNat - y.toNat) * 2048 + cellAsym s c.val 0
    true / 2 ∧ rd u .b (ta R.TRB_LASTHOP c.val) = BitVec.ofInt 32 ((tribDiff t4.toNat t1.toNat - y.toNat) * 2048 -
    (rd s .a (R.TRB_ASYM_FIRST + 4096 * c.val)).toInt / 2) ∧ x.val ∈ (ringX u t c.val).pairs) ∧
  (∀ (s : State) (t : Twin) (c : Fin 12) (x : Fin 17) (t1 t4 : BitVec 40) (y : BitVec 24), RegsOk s → TabsOk s →
    x.val = chainLen s .a c.val → 0 < x.val → nbit (Frame.get (tabGet [] s.a.arr.sent c.val ++ tabGet [] s.b.arr.sent
    c.val) 21 1) 5 = true → pairAlive s c.val (chainLen s .a c.val) x.val = true → ∃ u, exec (.delayExchange c x t1
    t4 y) s = .next u ∧ (cell u c.val (x.val - 1)).linkB = (tribDiff t4.toNat t1.toNat - y.toNat) * 2048 - cellAsym s
    c.val (x.val - 1) false / 2 ∧ rd u .a (ta R.TRB_LASTHOP c.val) = BitVec.ofInt 32 ((tribDiff t4.toNat t1.toNat -
    y.toNat) * 2048 + (rd s .a (R.TRB_ASYM_LAST + 4096 * c.val)).toInt / 2) ∧ x.val ∈ (ringX u t c.val).pairs)

/-- A cell's copies and windows (R102 to R118) and its faults (R97). -/
def Obligations.CellWindowCommandsComplete : Prop :=
  (∀ (s : State) (c : Fin 12) (p : Fin 16) (i : Bool) (b : List Byte) (e : List Nat) (r : BitVec 24) (m : CellMeas),
    TabsOk s → (cell s c.val p.val).dead = false → portSt (cell s c.val p.val) i = 3 → (if i then sideWrapU (if
    !(Frame.wrapped b) && Frame.hcrcOk b then learnEnds (cell s c.val p.val) i (Frame.get b 23 1) (Frame.nslots b)
    else cell s c.val p.val) else sideWrapD (if !(Frame.wrapped b) && Frame.hcrcOk b then learnEnds (cell s c.val
    p.val) i (Frame.get b 23 1) (Frame.nslots b) else cell s c.val p.val)) = false → ((if i then sideWrapD (if
    !(Frame.wrapped b) && Frame.hcrcOk b then learnEnds (cell s c.val p.val) i (Frame.get b 23 1) (Frame.nslots b)
    else cell s c.val p.val) else sideWrapU (if !(Frame.wrapped b) && Frame.hcrcOk b then learnEnds (cell s c.val
    p.val) i (Frame.get b 23 1) (Frame.nslots b) else cell s c.val p.val)) && Frame.wrapped b) = false → ∃ u, exec
    (.cellFrameForward c p i b e r m) s = .next u ∧ cell u c.val p.val = sendOn (if !(Frame.wrapped b) &&
    Frame.hcrcOk b then learnEnds (cell s c.val p.val) i (Frame.get b 23 1) (Frame.nslots b) else cell s c.val p.val)
    (i != (if i then sideWrapD (if !(Frame.wrapped b) && Frame.hcrcOk b then learnEnds (cell s c.val p.val) i
    (Frame.get b 23 1) (Frame.nslots b) else cell s c.val p.val) else sideWrapU (if !(Frame.wrapped b) &&
    Frame.hcrcOk b then learnEnds (cell s c.val p.val) i (Frame.get b 23 1) (Frame.nslots b) else cell s c.val
    p.val))) (forwarded (if !(Frame.wrapped b) && Frame.hcrcOk b then learnEnds (cell s c.val p.val) i (Frame.get b
    23 1) (Frame.nslots b) else cell s c.val p.val) i (if i then sideWrapD (if !(Frame.wrapped b) && Frame.hcrcOk b
    then learnEnds (cell s c.val p.val) i (Frame.get b 23 1) (Frame.nslots b) else cell s c.val p.val) else sideWrapU
    (if !(Frame.wrapped b) && Frame.hcrcOk b then learnEnds (cell s c.val p.val) i (Frame.get b 23 1) (Frame.nslots
    b) else cell s c.val p.val)) r.toNat m b) e ∧ ((if i then sideWrapD (if !(Frame.wrapped b) && Frame.hcrcOk b then
    learnEnds (cell s c.val p.val) i (Frame.get b 23 1) (Frame.nslots b) else cell s c.val p.val) else sideWrapU (if
    !(Frame.wrapped b) && Frame.hcrcOk b then learnEnds (cell s c.val p.val) i (Frame.get b 23 1) (Frame.nslots b)
    else cell s c.val p.val)) = false ∧ i = true → (cell u c.val p.val).outB = (cell s c.val p.val).outB ∧ (cell u
    c.val p.val).badA = e)) ∧
  (∀ (s : State) (c : Fin 12) (p : Fin 16) (i : Bool) (b : List Byte) (e : List Nat) (r : BitVec 24) (m : CellMeas),
    TabsOk s → (cell s c.val p.val).dead = false → portSt (cell s c.val p.val) i = 3 → (if i then sideWrapU (if
    !(Frame.wrapped b) && Frame.hcrcOk b then learnEnds (cell s c.val p.val) i (Frame.get b 23 1) (Frame.nslots b)
    else cell s c.val p.val) else sideWrapD (if !(Frame.wrapped b) && Frame.hcrcOk b then learnEnds (cell s c.val
    p.val) i (Frame.get b 23 1) (Frame.nslots b) else cell s c.val p.val)) = true → (if i then sideWrapD (if
    !(Frame.wrapped b) && Frame.hcrcOk b then learnEnds (cell s c.val p.val) i (Frame.get b 23 1) (Frame.nslots b)
    else cell s c.val p.val) else sideWrapU (if !(Frame.wrapped b) && Frame.hcrcOk b then learnEnds (cell s c.val
    p.val) i (Frame.get b 23 1) (Frame.nslots b) else cell s c.val p.val)) = false → ∃ u, exec (.cellFrameForward c p
    i b e r m) s = .next u ∧ cell u c.val p.val = (if !(Frame.wrapped b) && Frame.hcrcOk b then learnEnds (cell s
    c.val p.val) i (Frame.get b 23 1) (Frame.nslots b) else cell s c.val p.val)) ∧
  (∀ (s : State) (c : Fin 12) (p : Fin 16) (i : Bool) (b : List Byte) (e : List Nat) (r : BitVec 24) (m : CellMeas),
    TabsOk s → (cell s c.val p.val).dead = false → portSt (cell s c.val p.val) i = 3 → (if i then sideWrapU (if
    !(Frame.wrapped b) && Frame.hcrcOk b then learnEnds (cell s c.val p.val) i (Frame.get b 23 1) (Frame.nslots b)
    else cell s c.val p.val) else sideWrapD (if !(Frame.wrapped b) && Frame.hcrcOk b then learnEnds (cell s c.val
    p.val) i (Frame.get b 23 1) (Frame.nslots b) else cell s c.val p.val)) = false → (if i then sideWrapD (if
    !(Frame.wrapped b) && Frame.hcrcOk b then learnEnds (cell s c.val p.val) i (Frame.get b 23 1) (Frame.nslots b)
    else cell s c.val p.val) else sideWrapU (if !(Frame.wrapped b) && Frame.hcrcOk b then learnEnds (cell s c.val
    p.val) i (Frame.get b 23 1) (Frame.nslots b) else cell s c.val p.val)) = true → Frame.wrapped b = true → ∃ u,
    exec (.cellFrameForward c p i b e r m) s = .next u ∧ cell u c.val p.val = sendOn (cell s c.val p.val) (!i) [] []) ∧
  (∀ (s : State) (c : Fin 12) (p : Fin 16) (i : Bool) (b : List Byte) (ok : Bool) (x y : BitVec 40), TabsOk s → (cell
    s c.val p.val).dead = false → Frame.wrapped b = false → copyValid (cell s c.val p.val) c.val i ok b = false → ∃
    u, exec (.cellCopyJudge c p i b ok x y) s = .next u ∧ (if i then (cell u c.val p.val).crcA else (cell u c.val
    p.val).crcB) = (if i then (cell s c.val p.val).crcA else (cell s c.val p.val).crcB) + 1 ∧ (cell u c.val
    p.val).candA = (cell s c.val p.val).candA ∧ (cell u c.val p.val).candB = (cell s c.val p.val).candB ∧ (cell u
    c.val p.val).highest = (cell s c.val p.val).highest ∧ (cell u c.val p.val).reject = ((cell s c.val p.val).reject
    || copyChecks (cell s c.val p.val) c.val i ok b)) ∧
  (∀ (s : State) (c : Fin 12) (p : Fin 16) (i : Bool) (b : List Byte) (ok : Bool) (x y : BitVec 40), TabsOk s → (cell
    s c.val p.val).dead = false → Frame.wrapped b = false → copyValid (cell s c.val p.val) c.val i ok b = true →
    Frame.get b 0 1 = 1 → (cell s c.val p.val).highest.toNat ≤ (BitVec.ofNat 32 (Frame.get b 4 4)).toNat → ∃ u, exec
    (.cellCopyJudge c p i b ok x y) s = .next u ∧ (cell u c.val p.val).highest = BitVec.ofNat 32 (Frame.get b 4 4) ∧
    (if i then (cell u c.val p.val).seqA else (cell u c.val p.val).seqB) = some (Frame.get b 2 2) ∧ (if i then (cell
    u c.val p.val).ofsA else (cell u c.val p.val).ofsB) = arrivalOffset (cell s c.val p.val) i b x.toNat ∧ (cell u
    c.val p.val).crcA = (cell s c.val p.val).crcA ∧ (cell u c.val p.val).crcB = (cell s c.val p.val).crcB) ∧
  (∀ (s : State) (c : Fin 12) (p : Fin 16) (i : Bool) (b : List Byte) (ok : Bool) (x y : BitVec 40), TabsOk s → (cell
    s c.val p.val).dead = false → Frame.wrapped b = false → copyValid (cell s c.val p.val) c.val i ok b = true →
    (BitVec.ofNat 32 (Frame.get b 4 4)).toNat < (cell s c.val p.val).highest.toNat → ∃ u, exec (.cellCopyJudge c p i
    b ok x y) s = .next u ∧ (cell u c.val p.val).highest = (cell s c.val p.val).highest ∧ (if i then (cell u c.val
    p.val).seqA else (cell u c.val p.val).seqB) = some (Frame.get b 2 2) ∧ (cell u c.val p.val).candA = (cell s c.val
    p.val).candA ∧ (cell u c.val p.val).candB = (cell s c.val p.val).candB ∧ (cell u c.val p.val).cfg = (cell s c.val
    p.val).cfg) ∧
  (∀ (s : State) (c : Fin 12) (p : Fin 16) (y : Copy), TabsOk s → (cell s c.val p.val).dead = false → chosen (cell s
    c.val p.val) = some y → y.hold = false → ∃ u, exec (.cellAcceptanceDeadline c p) s = .next u ∧ (cell u c.val
    p.val).win = some (copyWin y) ∧ (cell u c.val p.val).m = 0 ∧ (cell u c.val p.val).holds = 0 ∧ (cell u c.val
    p.val).candA = none ∧ (cell u c.val p.val).candB = none ∧ (cell u c.val p.val).echoSeq = y.seq) ∧
  (∀ (s : State) (c : Fin 12) (p : Fin 16) (y : Copy) (w : CWin), TabsOk s → (cell s c.val p.val).dead = false →
    chosen (cell s c.val p.val) = some y → y.hold = true → (cell s c.val p.val).holds < 8 → lastWin (cell s c.val
    p.val) = some w → ∃ u, exec (.cellAcceptanceDeadline c p) s = .next u ∧ (cell u c.val p.val).win = some
    { repeatWin w y.blockAll with apply := y.apply } ∧ (cell u c.val p.val).m = (cell s c.val p.val).m ∧ (cell u
    c.val p.val).holds = (cell s c.val p.val).holds + 1 ∧ (cell u c.val p.val).candA = none) ∧
  (∀ (s : State) (c : Fin 12) (p : Fin 16) (y : CWin), TabsOk s → (cell s c.val p.val).dead = false → chosen (cell s
    c.val p.val) = none → idleNow (cell s c.val p.val) = false → lastWin (cell s c.val p.val) = some y → ∃ u, exec
    (.cellAcceptanceDeadline c p) s = .next u ∧ (cell u c.val p.val).m = (cell s c.val p.val).m + 1 ∧ (cell u c.val
    p.val).miss = (cell s c.val p.val).miss + 1 ∧ (cell u c.val p.val).holds = 0) ∧
  (∀ (s : State) (c : Fin 12) (p : Fin 16), TabsOk s → (cell s c.val p.val).dead = false → chosen (cell s c.val
    p.val) = none → idleNow (cell s c.val p.val) = true → ∃ u, exec (.cellAcceptanceDeadline c p) s = .next u ∧ cell
    u c.val p.val = { cell s c.val p.val with candA := none, candB := none }) ∧
  (∀ (s : State) (c : Fin 12) (p : Fin 16) (g : BitVec 5) (w : CWin), TabsOk s → (cell s c.val p.val).dead = false →
    (cell s c.val p.val).win = some w → w.mode ≤ 2 → idleNow (cell s c.val p.val) = false → ∃ u, exec
    (.cellWindowApply c p g) s = .next u ∧ ((cell u c.val p.val).mode = if cellFault
    { (if w.faultReset then faultReset (if w.lost then { cell s c.val p.val with lostCmd := true, heardCopy := false } else cell s c.val p.val) g else (if w.lost then { cell s c.val p.val with lostCmd := true, heardCopy := false } else cell s c.val p.val)) with noLockRun := w.mode == 1 && !(cell s c.val p.val).timeLock }
    then 2 else w.mode) ∧ (cell u c.val p.val).cur = some w ∧ (cell u c.val p.val).win = none ∧ (cell u c.val
    p.val).isoBlocked = w.isoBlock ∧ (cell u c.val p.val).reject = w.reject ∧ (cell u c.val p.val).bypass = ((cell u
    c.val p.val).mode == 2) ∧ ((cell u c.val p.val).mode = 1 → (cell u c.val p.val).legs = (if (cell s c.val
    p.val).mode = 1 then (cell s c.val p.val).legs else w.start) ∧ (cell u c.val p.val).todo = w.events)) ∧
  (∀ (s : State) (c : Fin 12) (p : Fin 16) (g : BitVec 5) (w : CWin), TabsOk s → (cell s c.val p.val).dead = false →
    (cell s c.val p.val).win = some w → w.lost = false → w.faultReset = false → w.mode ≤ 2 → idleNow (cell s c.val
    p.val) = false → cellFault { cell s c.val p.val with noLockRun := w.mode == 1 && !(cell s c.val p.val).timeLock }
    = false → ∃ u, exec (.cellWindowApply c p g) s = .next u ∧ (cell u c.val p.val).mode = w.mode ∧ (w.mode = 1 →
    (cell u c.val p.val).legs = (if (cell s c.val p.val).mode = 1 then (cell s c.val p.val).legs else w.start) ∧
    (cell u c.val p.val).todo = w.events)) ∧
  (∀ (s : State) (c : Fin 12) (p : Fin 16) (g : BitVec 5) (w : CWin), TabsOk s → (cell s c.val p.val).dead = false →
    (cell s c.val p.val).win = some w → idleNow (cell s c.val p.val) = true → ∃ u, exec (.cellWindowApply c p g) s =
    .next u ∧ cell u c.val p.val = { cell s c.val p.val with cur := some w, win := none }) ∧
  (∀ (s : State) (c : Fin 12) (p : Fin 16) (e : Nat × Nat) (r : List (Nat × Nat)), TabsOk s → (cell s c.val
    p.val).dead = false → (cell s c.val p.val).mode = 1 → (cell s c.val p.val).todo = e :: r → ∃ u, exec
    (.cellEventExecute c p) s = .next u ∧ cell u c.val p.val = { cell s c.val p.val with legs := e.2, todo := r }) ∧
  (∀ (s : State) (c : Fin 12) (p : Fin 16), TabsOk s → (cell s c.val p.val).bypass = true → (cell s c.val
    p.val).closed = false → ∃ u, exec (.cellBypassTimeout c p) s = .next u ∧ cell u c.val p.val =
    { cell s c.val p.val with bypFail := true }) ∧
  (∀ (s : State) (c : Fin 12) (p : Fin 16), TabsOk s → (cell s c.val p.val).bypass = true → ∃ u, exec
    (.cellBypassClosed c p) s = .next u ∧ cell u c.val p.val = { cell s c.val p.val with closed := true }) ∧
  (∀ (s : State) (c : Fin 12) (p : Fin 16), TabsOk s → ∃ u, exec (.cellOwnFault c p 0) s = .next u ∧ cell u c.val
    p.val = { cell s c.val p.val with desat := true, legs := 0, todo := [] }) ∧
  (∀ (s : State) (c : Fin 12) (p : Fin 16) (i : Fin 5), TabsOk s → ∃ u, exec (.cellOwnFault c p i) s = .next u ∧
    cellFault (cell u c.val p.val) = true ∧ (cell u c.val p.val).mode = (cell s c.val p.val).mode)

/-- A cell's ports and sides (R85 to R92, R120, R127). -/
def Obligations.CellPortCommandsComplete : Prop :=
  (∀ (s : State) (c : Fin 12) (p : Fin 16), TabsOk s → ((cell s c.val p.val).stA = 2 ∨ (cell s c.val p.val).stA = 4)
    → ∃ u, exec (.cellSyncAcquired c p true) s = .next u ∧ cell u c.val p.val =
    { cell s c.val p.val with stA := 3, k3A := false, seqA := none, everA := true }) ∧
  (∀ (s : State) (c : Fin 12) (p : Fin 16), TabsOk s → ((cell s c.val p.val).stB = 2 ∨ (cell s c.val p.val).stB = 4)
    → ∃ u, exec (.cellSyncAcquired c p false) s = .next u ∧ cell u c.val p.val =
    { cell s c.val p.val with stB := 3, k3B := false, seqB := none, everB := true }) ∧
  (∀ (s : State) (c : Fin 12) (p : Fin 16) (x : Bool), TabsOk s → portSt (cell s c.val p.val) x = 3 → ∃ u, exec
    (.cellSyncLost c p x) s = .next u ∧ portSt (cell u c.val p.val) x = 4 ∧ cell u c.val p.val = idleSafe (setPort
    (cell s c.val p.val) x 4 false)) ∧
  (∀ (s : State) (c : Fin 12) (p : Fin 16) (x : Bool), TabsOk s → portSt (cell s c.val p.val) x = 3 → ∃ u, exec
    (.cellEidleEntry c p x) s = .next u ∧ portSt (cell u c.val p.val) x = 1 ∧ cell u c.val p.val = idleSafe (setPort
    (cell s c.val p.val) x 1 true)) ∧
  (∀ (s : State) (c : Fin 12) (p : Fin 16), TabsOk s → (cell s c.val p.val).stA ≠ 3 → (cell s c.val p.val).stB ≠ 3 →
    ((cell s c.val p.val).k3A = true ∨ (cell s c.val p.val).k3B = true) → ∃ u, exec (.cellTimeLockClear c p) s =
    .next u ∧ cell u c.val p.val = { cell s c.val p.val with timeLock := false, locking := 0, loose := 0 }) ∧
  (∀ (s : State) (c : Fin 12) (p : Fin 16) (x : Bool), TabsOk s → portSt (cell s c.val p.val) x = 1 → portSt (cell s
    c.val p.val) (!x) ≠ 3 → ∃ u, exec (.cellEidleExit c p x) s = .next u ∧ cell u c.val p.val =
    { setPort (cell s c.val p.val) x 2 false with stepNext := true, fastLock := true, locking := 0, loose := 0 }) ∧
  (∀ (s : State) (c : Fin 12) (p : Fin 16) (x : Bool), TabsOk s → ((portSt (cell s c.val p.val) x = 1 ∧ portSt (cell
    s c.val p.val) (!x) = 3) ∨ (portSt (cell s c.val p.val) x = 0 ∧ (cell s c.val p.val).powered = true)) → ∃ u, exec
    (.cellEidleExit c p x) s = .next u ∧ cell u c.val p.val = setPort (cell s c.val p.val) x 2 false) ∧
  (∀ (s : State) (c : Fin 12) (p : Fin 16) (x : Bool), TabsOk s → portSt (cell s c.val p.val) x = 4 → ∃ u, exec
    (.cellLosIdle c p x) s = .next u ∧ cell u c.val p.val = setPort (cell s c.val p.val) x 1 false) ∧
  (∀ (s : State) (c : Fin 12) (p : Fin 16), TabsOk s → ((cell s c.val p.val).stB ≠ 3 ∨ (cell s c.val p.val).noticeD =
    true) → (cell s c.val p.val).endD ≠ some true → ∃ u, exec (.cellSideDown c p true) s = .next u ∧ cell u c.val
    p.val = { cell s c.val p.val with downD := true }) ∧
  (∀ (s : State) (c : Fin 12) (p : Fin 16), TabsOk s → ((cell s c.val p.val).stA ≠ 3 ∨ (cell s c.val p.val).noticeU =
    true) → (cell s c.val p.val).endU ≠ some true → ∃ u, exec (.cellSideDown c p false) s = .next u ∧ cell u c.val
    p.val = { cell s c.val p.val with downU := true }) ∧
  (∀ (s : State) (c : Fin 12) (p : Fin 16), TabsOk s → (cell s c.val p.val).stB = 3 → ∃ u, exec (.cellSideUp c p
    true) s = .next u ∧ cell u c.val p.val = { cell s c.val p.val with downD := false, noticeD := false }) ∧
  (∀ (s : State) (c : Fin 12) (p : Fin 16), TabsOk s → (cell s c.val p.val).stA = 3 → ∃ u, exec (.cellSideUp c p
    false) s = .next u ∧ cell u c.val p.val = { cell s c.val p.val with downU := false, noticeU := false }) ∧
  (∀ (s : State) (c : Fin 12) (p : Fin 16), TabsOk s → (cell s c.val p.val).dead = false → (cell s c.val p.val).downD
    = true → p.val < 15 → ∃ u, exec (.linkDownNotice c p true) s = .next u ∧ cell u c.val (p.val + 1) =
    { cell s c.val (p.val + 1) with noticeU := (cell s c.val (p.val + 1)).noticeU || (cell s c.val (p.val + 1)).stA == 3 }) ∧
  (∀ (s : State) (c : Fin 12) (p : Fin 16), TabsOk s → (cell s c.val p.val).dead = false → (cell s c.val p.val).downU
    = true → 0 < p.val → ∃ u, exec (.linkDownNotice c p false) s = .next u ∧ cell u c.val (p.val - 1) =
    { cell s c.val (p.val - 1) with noticeD := (cell s c.val (p.val - 1)).noticeD || (cell s c.val (p.val - 1)).stB == 3 }) ∧
  (∀ (s : State) (c : Fin 12) (p : Fin 16), TabsOk s → ∃ u, exec (.cellHardwareBypass c p) s = .next u ∧ (cell u
    c.val p.val).dead = true ∧ (cell u c.val p.val).mode = 2 ∧ (cell u c.val p.val).legs = 0 ∧ (cell u c.val
    p.val).bypass = true ∧ (cell u c.val p.val).stA = 0 ∧ (cell u c.val p.val).stB = 0) ∧
  (∀ (s : State) (c : Fin 12) (p : Fin 16) (i : CellId) (x y : Bool), TabsOk s → ∃ u, exec (.cellPowerUp c p ⟨i, x,
    y⟩) s = .next u ∧ (cell u c.val p.val =
    { ({} : CellSt) with ident := i, powered := true, stA := if x then 2 else 0, stB := if y then 2 else 0, closed := (cell s c.val p.val).closed })) ∧
  (∀ (s : State) (c : Fin 12) (p : Fin 16), TabsOk s → ∃ u, exec (.cellPowerLoss c p) s = .next u ∧ cell u c.val
    p.val =
    { ({} : CellSt) with ident := (cell s c.val p.val).ident, closed := (cell s c.val p.val).closed, bypass := (cell s c.val p.val).bypass })

/-- Triggers and conversions (R274 to R299). -/
def Obligations.AdcSequenceCommandsComplete : Prop :=
  (∀ (s : State) (t : Twin) (q : Fin 4), RegsOk s → seqOn s t q.val false = true → flag s t R.ADC_STATUS_AD_UNLOCK =
    false → ((seqSt s t q.val false).delay || (seqSt s t q.val false).run || (seqSt s t q.val false).due) = false →
    seqDue s t q.val false = true → ∃ u, exec (.adcTrigger t q) s = .next u ∧ (seqSt u t q.val false).delay = true ∧
    biti u t R.ADC_STATUS_REG_BUSY q.val = true) ∧
  (∀ (s : State) (t : Twin) (q : Fin 4), RegsOk s → seqOn s t q.val false = true → flag s t R.ADC_STATUS_AD_UNLOCK =
    false → seqBusy s t q.val false = true → seqDue s t q.val false = true → (rd s t (ca R.ADC_C_TRIG_OVR
    q.val)).toNat < 4294967294 → ∃ u, exec (.adcTrigger t q) s = .next u ∧ rd u t (ca R.ADC_C_TRIG_OVR q.val) = rd s
    t (ca R.ADC_C_TRIG_OVR q.val) + 1 ∧ biti u t R.ADC_EVENT_TRIG_OVR q.val = true ∧ conv u t q.val = conv s t q.val) ∧
  (∀ (s : State) (t : Twin) (q : Fin 4), RegsOk s → seqOn s t q.val true = true → flag s t R.ADC_STATUS_AD_UNLOCK =
    false → seqBusy s t q.val true = true → seqDue s t q.val true = true → (rd s t (ca R.ADC_C_TRIG_OVR q.val)).toNat
    < 4294967294 → ∃ u, exec (.injectedTrigger t q) s = .next u ∧ rd u t (ca R.ADC_C_TRIG_OVR q.val) = rd s t (ca
    R.ADC_C_TRIG_OVR q.val) + 1 ∧ biti u t R.ADC_EVENT_TRIG_OVR q.val = true ∧ conv u t q.val = conv s t q.val) ∧
  (∀ (s : State) (t : Twin) (q : Fin 4), RegsOk s → seqOn s t q.val false = true → flag s t R.ADC_STATUS_AD_UNLOCK =
    true → seqDue s t q.val false = true → (rd s t (ca R.ADC_C_TRIG_OVR q.val)).toNat < 4294967294 → ∃ u, exec
    (.adcTrigger t q) s = .next u ∧ rd u t (ca R.ADC_C_TRIG_OVR q.val) = rd s t (ca R.ADC_C_TRIG_OVR q.val) + 1 ∧
    conv u t q.val = conv s t q.val) ∧
  (∀ (s : State) (t : Twin) (q : Fin 4), RegsOk s → seqOn s t q.val true = true → flag s t R.ADC_STATUS_AD_UNLOCK =
    false → ((seqSt s t q.val true).delay || (seqSt s t q.val true).run || (seqSt s t q.val true).due) = false →
    seqDue s t q.val true = true → ∃ u, exec (.injectedTrigger t q) s = .next u ∧ (seqSt u t q.val true).delay = true
    ∧ biti u t R.ADC_STATUS_INJ_BUSY q.val = false) ∧
  (∀ (s : State) (t : Twin) (q : Fin 4) (inj : Bool), RegsOk s → seqOn s t q.val inj = true → flag s t
    R.ADC_STATUS_AD_UNLOCK = false → ((seqSt s t q.val inj).delay || (seqSt s t q.val inj).run || (seqSt s t q.val
    inj).due) = false → seqSrc s t q.val inj = 1 → ∃ u, exec (.adcTimerFire t q inj) s = .next u ∧ (seqSt u t q.val
    inj).delay = true) ∧
  (∀ (s : State) (t : Twin) (q : Fin 4), RegsOk s → seqOn s t q.val false = true → flag s t R.ADC_STATUS_AD_UNLOCK =
    false → ((seqSt s t q.val false).delay || (seqSt s t q.val false).run || (seqSt s t q.val false).due) = false →
    seqSrc s t q.val false = 5 → ∃ u, exec (.rsw t q) s = .next u ∧ u.report = Rc.OK ∧ (seqSt u t q.val false).delay
    = true ∧ biti u t R.ADC_STATUS_REG_BUSY q.val = true) ∧
  (∀ (s : State) (t : Twin) (q : Fin 4), RegsOk s → seqOn s t q.val true = true → flag s t R.ADC_STATUS_AD_UNLOCK =
    false → ((seqSt s t q.val true).delay || (seqSt s t q.val true).run || (seqSt s t q.val true).due) = false →
    seqSrc s t q.val true = 5 → ∃ u, exec (.isw t q) s = .next u ∧ u.report = Rc.OK ∧ (seqSt u t q.val true).delay =
    true ∧ biti u t R.ADC_STATUS_INJ_BUSY q.val = false) ∧
  (∀ (s : State) (t : Twin) (q : Fin 4) (inj : Bool), RegsOk s → flag s t R.ADC_STATUS_AD_UNLOCK = false → (seqSt s t
    q.val inj).delay = true → (conv s t q.val).inFlight = 0 → ∃ u, exec (.acquisitionStart t q inj) s = .next u ∧
    (seqSt u t q.val inj).run = true ∧ (seqSt u t q.val inj).delay = false ∧ ((conv u t q.val).inFlight = if inj then
    2 else 1)) ∧
  (∀ (s : State) (t : Twin) (q : Fin 4) (inj : Bool) (x : BitVec 16) (p : Nat × Nat), RegsOk s → (xing s t (xingKey 1
    true)).dead = false → interleaved s t q.val = false → ((conv s t q.val).inFlight = if inj then 2 else 1) → (seqSt
    s t q.val inj).avg = false → (runList s t q.val inj)[(seqSt s t q.val inj).entry]? = some p → ∃ u, exec
    (.conversionComplete t q x ⟨false⟩) s = .next u ∧ rd u t (resAddr p.1 p.2) = rd s t (resAddr p.1 p.2) ∧ (conv u t
    p.1).unset.contains p.2 = true) ∧
  (∀ (s : State) (t : Twin) (q : Fin 4) (inj : Bool) (x : BitVec 16) (p : Nat × Nat), RegsOk s → (xing s t (xingKey 1
    true)).dead = false → interleaved s t q.val = false → ((conv s t q.val).inFlight = if inj then 2 else 1) → (seqSt
    s t q.val inj).avg = false → (runList s t q.val inj)[(seqSt s t q.val inj).entry]? = some p → ∃ u, exec
    (.conversionComplete t q x ⟨true⟩) s = .next u ∧ (rd u t (resAddr p.1 p.2)).toNat % 16777216 = (correct (seqSt s
    t q.val inj).cal (bits (entryWord s t p.1 p.2) 28 24) x.toNat).1) ∧
  (∀ (s : State) (t : Twin) (q : Fin 4) (inj : Bool) (x : BitVec 16) (p : Nat × Nat), RegsOk s → (xing s t (xingKey 1
    true)).dead = false → interleaved s t q.val = false → ((conv s t q.val).inFlight = if inj then 2 else 1) → (seqSt
    s t q.val inj).avg = true → (seqSt s t q.val inj).cut = false → (runList s t q.val inj)[(seqSt s t q.val
    inj).entry]? = some p → (seqSt s t q.val inj).conv + 1 < 2 ^ min 8 (bits (entryWord s t p.1 p.2) 17 14) → ∃ u,
    exec (.conversionComplete t q x ⟨true⟩) s = .next u ∧ (seqSt u t q.val inj).conv = (seqSt s t q.val inj).conv + 1
    ∧ (seqSt u t q.val inj).sum = (seqSt s t q.val inj).sum + (correct (seqSt s t q.val inj).cal (bits (entryWord s t
    p.1 p.2) 28 24) x.toNat).1 ∧ (seqSt u t q.val inj).entry = (seqSt s t q.val inj).entry) ∧
  (∀ (s : State) (t : Twin) (q : Fin 4) (x : BitVec 16), RegsOk s → (xing s t (xingKey 1 true)).dead = false → (conv
    s t q.val).inFlight = 3 → ∃ u, exec (.checkConversion t q x) s = .next u ∧ rd u t (ca R.ADC_C_CHK q.val) =
    BitVec.ofNat 32 (bit (x.toNat == 0 || x.toNat == 65535) * 1073741824 + x.toNat)) ∧
  (∀ (s : State) (t : Twin), RegsOk s → ∃ u, exec (.adUnlock t) s = .next u ∧ flag u t R.ADC_STATUS_AD_UNLOCK = true
    ∧ flag u t R.ADC_EVENT_AD_UNLOCK = true ∧ SameRegs s u t ([R.ADC_STATUS_AD_UNLOCK.addr, R.ADC_EVENT] ++
    (List.range 4).flatMap (fun q => (List.range 32).map (resAddr q)))) ∧
  (∀ (s : State) (t : Twin) (q : Fin 4), RegsOk s → ∃ u, exec (.adcDisable t q) s = .next u ∧ u.report = Rc.OK ∧ flag
    u t (cf R.ADC_C_CTRL_EN q.val) = false ∧ biti u t R.ADC_STATUS_ENABLED q.val = false ∧ biti u t
    R.ADC_STATUS_REG_BUSY q.val = false ∧ biti u t R.ADC_STATUS_INJ_BUSY q.val = false) ∧
  (∀ (s : State) (t : Twin) (q : Fin 4), RegsOk s → ∃ u, exec (.injDisable t q) s = .next u ∧ u.report = Rc.OK ∧ flag
    u t (cf R.ADC_C_CTRL_INJ_EN q.val) = false ∧ ((conv u t q.val).inFlight = if (conv s t q.val).inFlight = 2 then 4
    else (conv s t q.val).inFlight) ∧ (conv u t q.val).reg = (conv s t q.val).reg) ∧
  (∀ (s : State) (t : Twin) (q : Fin 4) (x : Bool), RegsOk s → (x || (conv s t q.val).chkBad.any (fun e => decide (3
    ≤ e.2))) = true → biti s t R.ADC_STATUS_FAILED q.val = false → ∃ u, exec (.converterFail t q x) s = .next u ∧
    biti u t R.ADC_STATUS_FAILED q.val = true ∧ biti u t R.ADC_EVENT_FAILED q.val = true) ∧
  (∀ (s : State) (t : Twin), RegsOk s → rf s t R.ADC_GCFG_AVG_EN = 1 → avgEnds s t = true → ∃ u, exec (.avgOff t) s =
    .next u ∧ rf u t R.ADC_GCFG_AVG_EN = 0 ∧ flag u t R.ADC_EVENT_AVG_OFF = true ∧ SameRegs s u t [R.ADC_GCFG,
    R.ADC_EVENT]) ∧
  (∀ (s : State) (t : Twin) (q : Fin 4) (inj : Bool), seqBind s t q.val inj ≠ 0 → seqBusy s t q.val inj = true → ∃ u,
    exec (.agreementWaitLimit t ⟨q, inj⟩) s = .next u ∧ (conv u t q.val).staleRun = (conv s t q.val).staleRun ++
    toConvert s t q.val inj)

/-- Calibration (R291, R292) under leave (R443). -/
def Obligations.CalibrationCommandsComplete : Prop :=
  (∀ (s : State) (t : Twin), RegsOk s → leaveFree s t 3 0 = true → (calMask s t).all (fun q => !(biti s t
    R.ADC_STATUS_ENABLED q)) = true → ∃ u, exec (.stepZero t) s = .next u ∧ u.report = Rc.OK ∧ (u.tw t).adc.step = 1
    ∧ rf u t R.ADC_CAL_STATUS_BUSY = 1 ∧ leaveHeld u 3 t = true) ∧
  (∀ (s : State) (t : Twin), RegsOk s → flag s t R.ADC_CAL_STATUS_HAVE_ZERO = true → leaveFree s t 3 0 = true →
    (calMask s t).all (fun q => !(biti s t R.ADC_STATUS_ENABLED q)) = true → ∃ u, exec (.stepFull t) s = .next u ∧
    u.report = Rc.OK ∧ (u.tw t).adc.step = 2 ∧ rf u t R.ADC_CAL_STATUS_BUSY = 1 ∧ leaveHeld u 3 t = true) ∧
  (∀ (s : State) (t : Twin), RegsOk s → leaveFree s t 3 0 = true → (calMask s t).all (fun q => !(biti s t
    R.ADC_STATUS_ENABLED q)) = true → ∃ u, exec (.skew t) s = .next u ∧ u.report = Rc.OK ∧ (u.tw t).adc.step = 3 ∧ rf
    u t R.ADC_CAL_STATUS_BUSY = 1 ∧ rf u t R.ADC_TESTV_MODE = 1 ∧ leaveHeld u 3 t = true) ∧
  (∀ (s : State) (t : Twin), RegsOk s → (calMask s t).any (fun q => biti s t R.ADC_STATUS_ENABLED q) = true → ∃ u,
    exec (.stepZero t) s = .next u ∧ u.report = Rc.CAL_BUSY ∧ rf u t R.ADC_CAL_STATUS_RESULT = 2 ∧ (u.tw t).adc.step
    = (s.tw t).adc.step) ∧
  (∀ (s : State) (t : Twin) (d : List (List W32)), RegsOk s → (xing s t (xingKey 1 true)).dead = false → rf s t
    R.ADC_CAL_STATUS_BUSY = 1 → (s.tw t).adc.step = 1 → ∃ u, exec (.calMeasureEnd t d false) s = .next u ∧ rf u t
    R.ADC_CAL_STATUS_BUSY = 0 ∧ rf u t R.ADC_CAL_STATUS_RESULT = 0 ∧ flag u t R.ADC_CAL_STATUS_HAVE_ZERO = true ∧
    (u.tw t).adc.step = 0) ∧
  (∀ (s : State) (t : Twin) (d : List (List W32)), RegsOk s → (xing s t (xingKey 1 true)).dead = false → rf s t
    R.ADC_CAL_STATUS_BUSY = 1 → (s.tw t).adc.step = 2 → ((calMask s t).zip d).all (fun p => (calCoef s t (tabGet 0
    (s.tw t).adc.zero p.1) (p.2.headD 0).toNat).isSome) = true → ∃ u, exec (.calMeasureEnd t d false) s = .next u ∧
    rf u t R.ADC_CAL_STATUS_BUSY = 0 ∧ rf u t R.ADC_CAL_STATUS_PENDING = 1 ∧ flag u t R.ADC_EVENT_CAL_DONE = true ∧
    (u.tw t).adc.step = 0) ∧
  (∀ (s : State) (t : Twin) (d : List (List W32)), RegsOk s → (xing s t (xingKey 1 true)).dead = false → rf s t
    R.ADC_CAL_STATUS_BUSY = 1 → ((s.tw t).adc.step = 1 ∨ (s.tw t).adc.step = 2) → ∃ u, exec (.calMeasureEnd t d true)
    s = .next u ∧ rf u t R.ADC_CAL_STATUS_RESULT = 1 ∧ rf u t R.ADC_CAL_STATUS_PENDING = 0 ∧ u.report = Rc.CAL_RANGE
    ∧ flag u t R.ADC_EVENT_CAL_FAIL = true ∧ (u.tw t).adc.lat = []) ∧
  (∀ (s : State) (t : Twin), RegsOk s → rf s t R.ADC_CAL_STATUS_PENDING = 1 → leaveFree s t 5 2 = true → ∃ u, exec
    (.commit t true) s = .next u ∧ u.report = Rc.OK ∧ rf u t R.ADC_CAL_STATUS_PENDING = 0 ∧ (u.tw t).flash.cal =
    calFlash u t ∧ (u.tw t).adc.lat = [] ∧ (leaveHeldFor s 5 t 2 = false → u.sluice = s.sluice)) ∧
  (∀ (s : State) (t : Twin), RegsOk s → rf s t R.ADC_CAL_STATUS_PENDING = 1 → leaveFree s t 5 2 = true → ∃ u, exec
    (.commit t false) s = .next u ∧ u.report = Rc.FLASH_FAIL ∧ rf u t R.ADC_CAL_STATUS_PENDING = 0 ∧ (u.tw
    t).flash.cal = (s.tw t).flash.cal ∧ (leaveHeldFor s 5 t 2 = false → u.sluice = s.sluice)) ∧
  (∀ (s : State) (t : Twin) (d : List (List W32)) (x : Bool), RegsOk s → (xing s t (xingKey 1 true)).dead = false →
    rf s t R.ADC_CAL_STATUS_BUSY = 1 → (s.tw t).adc.step = 3 → ((maskPairs s t).zip d).all (fun p => (skewOf
    p.2).isSome) = true → ∃ u, exec (.calMeasureEnd t d x) s = .next u ∧ rf u t R.ADC_CAL_STATUS_BUSY = 0 ∧ rf u t
    R.ADC_CAL_STATUS_RESULT = 0 ∧ rf u t R.ADC_CAL_STATUS_PENDING = 1 ∧ rd u t R.ADC_EVENT = rd s t R.ADC_EVENT ∧
    (u.tw t).adc.step = 0) ∧
  (∀ (s : State) (t : Twin) (d : List (List W32)) (x : Bool), RegsOk s → (xing s t (xingKey 1 true)).dead = false →
    rf s t R.ADC_CAL_STATUS_BUSY = 1 → (s.tw t).adc.step = 3 → ((maskPairs s t).zip d).any (fun p => (skewOf
    p.2).isNone) = true → ∃ u, exec (.calMeasureEnd t d x) s = .next u ∧ rf u t R.ADC_CAL_STATUS_BUSY = 0 ∧ rf u t
    R.ADC_CAL_STATUS_RESULT = 4 ∧ u.report = Rc.SKEW_RANGE ∧ flag u t R.ADC_EVENT_CAL_FAIL = true ∧ (u.tw t).adc.step
    = 0) ∧
  (∀ (s : State) (t : Twin) (d : List (List W32)) (x : Bool), RegsOk s → (xing s t (xingKey 1 true)).dead = true → rf
    s t R.ADC_CAL_STATUS_BUSY = 1 → (rd s t (R.CLK_XING_DROPPED_AT_RESET + 8)).toNat < 4294967294 → ∃ u, exec
    (.calMeasureEnd t d x) s = .next u ∧ rd u t (R.CLK_XING_DROPPED_AT_RESET + 8) = rd s t
    (R.CLK_XING_DROPPED_AT_RESET + 8) + 1 ∧ SameRegs s u t [R.CLK_XING_DROPPED_AT_RESET + 8]) ∧
  (∀ (s : State) (t : Twin), RegsOk s → (calMask s t).all (fun q => !(biti s t R.ADC_STATUS_ENABLED q)) = true → flag
    s t R.ADC_CAL_STATUS_HAVE_ZERO = false → ∃ u, exec (.stepFull t) s = .next u ∧ u.report = Rc.CAL_RANGE ∧ rf u t
    R.ADC_CAL_STATUS_RESULT = 1 ∧ (u.tw t).adc.step = (s.tw t).adc.step) ∧
  (∀ (s : State) (t : Twin) (x : Bool), rf s t R.ADC_CAL_STATUS_PENDING = 0 → ∃ u, exec (.commit t x) s = .next u ∧ u
    = { s with report := Rc.OK }) ∧
  (∀ (s : State) (t : Twin), RegsOk s → (s.tw t).adc.step ≠ 0 → ∃ u, exec (.abort t) s = .next u ∧ u.report = Rc.OK ∧
    (u.tw t).adc.step = 0 ∧ rf u t R.ADC_CAL_STATUS_BUSY = 0 ∧ rf u t R.ADC_CAL_STATUS_RESULT = 3) ∧
  (∀ (s : State) (t : Twin), (s.tw t).adc.step = 0 → ∃ u, exec (.abort t) s = .next u ∧ u =
    { s with report := Rc.OK })

/-- Exposures (R194 to R200). -/
def Obligations.NegativeCommandsComplete : Prop :=
  (∀ (s : State) (tg : Target) (t : Twin) (e : Fin 4), RegsOk s → TabsOk s → (tg = .both ∨ tg = .one t) → targetCode
    tg (fun t => armCode s t e.val) = Rc.OK → ∃ u, exec (.negArm tg e) s = .next u ∧ u.report = Rc.OK ∧ (expSt u t
    e.val = if rd s t (ea R.NEG_EXP_PRE e.val) = 0 then 2 else 1) ∧ rd u t (ea R.NEG_EXP_ROWS e.val) = 0 ∧ rd u t (ea
    R.NEG_EXP_FIRST e.val) = BitVec.ofNat 32 (rf s t (ef R.NEG_EXP_REGION_BASE e.val) * 4096) ∧ rf u t (ef
    R.NEG_EXP_ROWSIZE_ROWSIZE e.val) = rowSize s t e.val ∧ expX u t e.val =
    { base := rf s t (ef R.NEG_EXP_REGION_BASE e.val), pages := rf s t (ef R.NEG_EXP_REGION_SIZE e.val) }) ∧
  (∀ (s : State) (tg : Target) (t : Twin) (e : Fin 4), RegsOk s → TabsOk s → (tg = .both ∨ tg = .one t) → (targetCode
    tg (fun t => if expSt s t e.val = 0 then Rc.NEG_NOT_ARMED else Rc.OK) = Rc.OK) → (expSt s t e.val = 1 ∨ expSt s t
    e.val = 2) → ∃ u, exec (.negFix tg e) s = .next u ∧ u.report = Rc.OK ∧ (expX u t e.val).fixReq = true ∧ SameRegs
    s u t []) ∧
  (∀ (s : State) (t : Twin) (e : Fin 4), expSt s t e.val = 0 → ∃ u, exec (.negFix (.one t) e) s = .next u ∧ u =
    { s with report := Rc.NEG_NOT_ARMED }) ∧
  (∀ (s : State) (tg : Target) (t : Twin) (e : Fin 4), RegsOk s → TabsOk s → (tg = .both ∨ tg = .one t) → ∃ u, exec
    (.negDisarm tg e) s = .next u ∧ u.report = Rc.OK ∧ expSt u t e.val = 0 ∧ rd u t (ea R.NEG_EXP_ROWS e.val) = 0 ∧
    expX u t e.val = {}) ∧
  (∀ (s : State) (t : Twin) (e : Fin 4) (d : W64) (l : Bool), RegsOk s → TabsOk s → expSt s t e.val = 1 → regionRows
    s t e.val ≠ 0 → (expX s t e.val).fixReq = false → (expX s t e.val).chained = none → negTrigger s t e.val (rowNode
    s t (rf s t (ef R.NEG_EXP_CFG_SRC e.val)) (rf s t (ef R.NEG_EXP_TRIG_NODE e.val))) (expX s t e.val).prev = false
    → ∃ u, exec (.negRowWrite t e d l) s = .next u ∧ (expX u t e.val).total = (expX s t e.val).total + 1 ∧ rd u t (ea
    R.NEG_EXP_ROWS e.val) = BitVec.ofNat 32 (min (rd s t (ea R.NEG_EXP_PRE e.val)).toNat ((rd s t (ea R.NEG_EXP_ROWS
    e.val)).toNat + 1)) ∧ (expSt u t e.val = if min (rd s t (ea R.NEG_EXP_PRE e.val)).toNat ((rd s t (ea
    R.NEG_EXP_ROWS e.val)).toNat + 1) = (rd s t (ea R.NEG_EXP_PRE e.val)).toNat then 2 else 1) ∧ tabGet 0#32 (u.tw
    t).neg ((rf s t (ef R.NEG_EXP_REGION_BASE e.val) * 4096 + (expX s t e.val).total % regionRows s t e.val * rowSize
    s t e.val) / 4) = BitVec.ofNat 32 (d.toNat / 1000000000) ∧ tabGet 0#32 (u.tw t).neg ((rf s t (ef
    R.NEG_EXP_REGION_BASE e.val) * 4096 + (expX s t e.val).total % regionRows s t e.val * rowSize s t e.val) / 4 + 1)
    = BitVec.ofNat 32 (d.toNat % 1000000000) ∧ (∀ i : Fin 64, i.val < (expProbes s t e.val).length → tabGet 0#32
    (u.tw t).neg ((rf s t (ef R.NEG_EXP_REGION_BASE e.val) * 4096 + (expX s t e.val).total % regionRows s t e.val *
    rowSize s t e.val) / 4 + 3 + i.val) = probeValue s t (rf s t (ef R.NEG_EXP_CFG_SRC e.val)) ((expProbes s t
    e.val).getD i.val 0))) ∧
  (∀ (s : State) (t : Twin) (e : Fin 4) (d : W64) (l : Bool), RegsOk s → TabsOk s → (expSt s t e.val = 1 ∨ expSt s t
    e.val = 2) → (expX s t e.val).fixReq = true → ∃ u, exec (.negRowWrite t e d l) s = .next u ∧ rd u t (ea
    R.NEG_EXP_FIXROW e.val) = rd s t (ea R.NEG_EXP_ROWS e.val) ∧ rd u t (ea R.NEG_EXP_FIXTIME_S e.val) = BitVec.ofNat
    32 (d.toNat / 1000000000) ∧ rd u t (ea R.NEG_EXP_FIXTIME_NS e.val) = BitVec.ofNat 32 (d.toNat % 1000000000) ∧
    (expSt u t e.val = if (rd s t (ea R.NEG_EXP_POST e.val)).toNat ≤ 1 then 4 else 3) ∧ (expX u t e.val).fixReq =
    false) ∧
  (∀ (s : State) (t : Twin) (e : Fin 4) (d : W64) (l : Bool) (w : Nat), RegsOk s → TabsOk s → (w < (rf s t (ef
    R.NEG_EXP_REGION_BASE e.val) * 4096 + (if regionRows s t e.val = 0 then 0 else (expX s t e.val).total %
    regionRows s t e.val) * rowSize s t e.val) / 4 ∨ (rf s t (ef R.NEG_EXP_REGION_BASE e.val) * 4096 + (if regionRows
    s t e.val = 0 then 0 else (expX s t e.val).total % regionRows s t e.val) * rowSize s t e.val) / 4 + rowSize s t
    e.val / 4 ≤ w) → ∃ u, exec (.negRowWrite t e d l) s = .next u ∧ tabGet 0#32 (u.tw t).neg w = tabGet 0#32 (s.tw
    t).neg w) ∧
  (∀ (s : State) (t : Twin) (e : Fin 4) (b : BitVec 11) (i : Fin 10), RegsOk s → TabsOk s → (expSt s t e.val = 1 ∨
    expSt s t e.val = 2) → b.getLsbD i.val = true → biti s t (ef R.NEG_EXP_EVENTS_EVENTS e.val) i.val = true → ∃ u,
    exec (.negEventFix t b) s = .next u ∧ (expX u t e.val).fixReq = true ∧ rf u t R.NEG_EVT_EVT = b.toNat) ∧
  (∀ (s : State) (t : Twin) (e : Fin 4) (b : BitVec 11) (i : Fin 10), RegsOk s → TabsOk s → (expSt s t e.val = 1 ∨
    expSt s t e.val = 2) → b.getLsbD i.val = true → biti s t (ef R.NEG_EXP_EVENTS_EVENTS e.val) i.val = true → ∃ u,
    exec (.negRemoteFix t b) s = .next u ∧ (expX u t e.val).fixReq = true ∧ SameRegs s u t [])

/-- Stream queues (R416 to R423). -/
def Obligations.StreamQueueCommandsComplete : Prop :=
  (∀ (s : State) (t : Twin) (q : Fin 6) (x : StreamUnit), RegsOk s → TabsOk s → rf s t (qf R.STQ_Q_CFG_EN q.val) = 1
    → rf s t (qf R.STQ_Q_CFG_SINK q.val) ≠ 2 → (queue s t q.val).closed = false → (queue s t q.val).fillPos +
    (padUnit x.bytes).length ≤ bankSize s t q.val → ∃ u, exec (.queueUnitWrite t q x) s = .next u ∧ queue u t q.val =
    { queue s t q.val with fill := (queue s t q.val).fill ++ spoil x.bad (padUnit x.bytes), fillPos := (queue s t q.val).fillPos + (padUnit x.bytes).length }) ∧
  (∀ (s : State) (t : Twin) (q : Fin 6) (x : StreamUnit), RegsOk s → TabsOk s → rf s t (qf R.STQ_Q_CFG_EN q.val) = 1
    → rf s t (qf R.STQ_Q_CFG_SINK q.val) = 2 → (queue s t q.val).closed = false → (queue s t q.val).fillPos +
    (padUnit x.bytes).length ≤ bankSize s t q.val → ∃ u, exec (.queueUnitWrite t q x) s = .next u ∧ queue u t q.val =
    { queue s t q.val with fill := [], dropped := false, fillPos := (queue s t q.val).fillPos + (padUnit x.bytes).length }
    ∧ rd u t (qa R.STQ_Q_SEQ q.val) = rd s t (qa R.STQ_Q_SEQ q.val) + BitVec.ofNat 32 (wordsOf ((queue s t
    q.val).fill ++ padUnit x.bytes).length)) ∧
  (∀ (s : State) (t : Twin) (q : Fin 6) (x : StreamUnit), RegsOk s → TabsOk s → rf s t (qf R.STQ_Q_CFG_EN q.val) = 1
    → (queue s t q.val).closed = true → (queue s t q.val).drain ≠ [] → (rd s t (qa R.STQ_Q_UNITS_DROPPED
    q.val)).toNat < 4294967294 → ∃ u, exec (.queueUnitWrite t q x) s = .next u ∧ rd u t (qa R.STQ_Q_UNITS_DROPPED
    q.val) = rd s t (qa R.STQ_Q_UNITS_DROPPED q.val) + 1 ∧ flag u t (qf R.STQ_Q_EVENT_DROP q.val) = true ∧ queue u t
    q.val = { queue s t q.val with dropped := true }) ∧
  (∀ (s : State) (t : Twin) (q : Fin 6), RegsOk s → TabsOk s → (queue s t q.val).dump = [] → (queue s t q.val).closed
    = true → (queue s t q.val).drain = [] → ∃ u, exec (.bankExchange t q) s = .next u ∧ queue u t q.val =
    { queue s t q.val with drain := (queue s t q.val).fill, fill := [], fillPos := 0, closed := false } ∧ rf u t (qf
    R.STQ_Q_STATUS_DRAIN q.val) = 1 - rf s t (qf R.STQ_Q_STATUS_DRAIN q.val)) ∧
  (∀ (s : State) (t : Twin) (q : Fin 6) (x : List Byte), RegsOk s → TabsOk s → (queue s t q.val).dump = [x] → (queue
    s t q.val).closed = true → (queue s t q.val).drain = [] → rf s t (qf R.STQ_Q_CFG_EN q.val) = 1 → rf s t (qf
    R.STQ_Q_CFG_SINK q.val) ≠ 2 → (padUnit x).length ≤ bankSize s t q.val → ∃ u, exec (.bankExchange t q) s = .next u
    ∧ queue u t q.val =
    { queue s t q.val with drain := (queue s t q.val).fill, fill := padUnit x, fillPos := (padUnit x).length, closed := false, dump := [] }
    ∧ rf u t (qf R.STQ_Q_STATUS_DRAIN q.val) = 1 - rf s t (qf R.STQ_Q_STATUS_DRAIN q.val)) ∧
  (∀ (s : State) (t : Twin) (q : Fin 6), RegsOk s → TabsOk s → (queue s t q.val).drain = [] → (queue s t q.val).fill
    ≠ [] → rf s t (qf R.STQ_Q_CFG_FLUSH_T q.val) ≠ 0 → (rd s t (qa R.STQ_Q_FLUSHES q.val)).toNat < 4294967294 → ∃ u,
    exec (.flushed t q) s = .next u ∧ rd u t (qa R.STQ_Q_FLUSHES q.val) = rd s t (qa R.STQ_Q_FLUSHES q.val) + 1 ∧
    flag u t (qf R.STQ_Q_EVENT_FLUSHED q.val) = true ∧ (queue u t q.val).drain = (queue s t q.val).fill ∧ (queue u t
    q.val).fill = []) ∧
  (∀ (s : State) (t : Twin) (q : Fin 6), RegsOk s → TabsOk s → rf s t (qf R.STQ_Q_CFG_EN q.val) = 1 → rf s t (qf
    R.STQ_Q_CFG_SINK q.val) = 1 → (queue s t q.val).drain ≠ [] → netOn s = true → inPair s t = true → ∃ u, exec
    (.streamData t q) s = .next u ∧ rd u t (qa R.STQ_Q_DGRAM q.val) = rd s t (qa R.STQ_Q_DGRAM q.val) + 1 ∧ rd u t
    (qa R.STQ_Q_SEQ q.val) = rd s t (qa R.STQ_Q_SEQ q.val) + BitVec.ofNat 32 (min 80 (wordsOf (queue s t
    q.val).drain.length)) ∧ (queue u t q.val).out = ecpBytes (tabGet 0 (s.tw t).flash.keys (rf s t (qf
    R.STQ_Q_DEST_CTX q.val))) (rf s t (qf R.STQ_Q_DEST_CTX q.val)) 0x5F 0x80 (((rd s t (qa R.STQ_Q_DGRAM
    q.val)).toNat + 1) % 4294967296) 0 0 (deliverWords s t q.val 80 false).1) ∧
  (∀ (s : State) (t : Twin) (q : Fin 6), RegsOk s → TabsOk s → rf s t (qf R.STQ_Q_CFG_EN q.val) = 1 → rf s t (qf
    R.STQ_Q_CFG_SINK q.val) = 1 → (queue s t q.val).drain = [] → (queue s t q.val).closed = false → (queue s t
    q.val).dump = [] → rf s t (qf R.STQ_Q_CUT_CUT q.val) ≠ 0 → rf s t (qf R.STQ_Q_CUT_CUT q.val) ≤ (queue s t
    q.val).fill.length / 16 → netOn s = true → inPair s t = true → ∃ u, exec (.streamData t q) s = .next u ∧ rd u t
    (qa R.STQ_Q_DGRAM q.val) = rd s t (qa R.STQ_Q_DGRAM q.val) + 1 ∧ (queue u t q.val).fill = (takeWords (min 80
    ((queue s t q.val).fill.length / 16)) false (queue s t q.val).fill).2.2 ∧ (queue u t q.val).out = ecpBytes
    (tabGet 0 (s.tw t).flash.keys (rf s t (qf R.STQ_Q_DEST_CTX q.val))) (rf s t (qf R.STQ_Q_DEST_CTX q.val)) 0x5F
    0x80 (((rd s t (qa R.STQ_Q_DGRAM q.val)).toNat + 1) % 4294967296) 0 0 (deliverWords s t q.val (min 80 ((queue s t
    q.val).fill.length / 16)) true).1) ∧
  (∀ (s : State) (t : Twin) (q : Fin 6), RegsOk s → TabsOk s → (rd s t (qa R.STQ_Q_DISCARDED q.val)).toNat +
    queueLevel (queue s t q.val) < 4294967295 → ∃ u, exec (.queueDisable t q) s = .next u ∧ u.report = Rc.OK ∧ queue
    u t q.val = {} ∧ rf u t (qf R.STQ_Q_CFG_EN q.val) = 0 ∧ rf u t (qf R.STQ_Q_STATUS_ACTIVE q.val) = 0 ∧ flag u t
    (qf R.STQ_Q_EVENT_DISCARD q.val) = true ∧ (rd u t (qa R.STQ_Q_DISCARDED q.val)).toNat = (rd s t (qa
    R.STQ_Q_DISCARDED q.val)).toNat + queueLevel (queue s t q.val))

/-- PWM pairs (R244 to R251). The set of one twin's registers is that of both (R242). -/
def Obligations.PwmCommandsComplete : Prop :=
  (∀ (s : State) (t : Twin) (p : Fin 8), RegsOk s → twState s t ≠ tsReset → rf s (edgeTwin s) R.PWM_GCFG_DT_LOCK = 1
    → 1600 ≤ pw s R.PWM_P_DEV p.val → 0 ≤ nowSub s (edgeTwin s) → nowSub s (edgeTwin s) + 16000 ≤ startTime s p.val +
    devPhase s p.val → ∃ u, exec (.pwmStart .both p) s = .next u ∧ u.report = Rc.OK ∧ rf u t (pf
    R.PWM_P_STATUS_RUNNING p.val) = 1 ∧ rf u t (pf R.PWM_P_STATUS_RLD_SEQ p.val) = 0 ∧ (pwm u p.val).nb = startTime s
    p.val + devPhase s p.val ∧ (pwm u p.val).begun = false) ∧
  (∀ (s : State) (t : Twin) (p : Fin 8), RegsOk s → twState s t ≠ tsReset → ∃ u, exec (.pwmStop .both p) s = .next u
    ∧ u.report = Rc.OK ∧ rf u t (pf R.PWM_P_STATUS_RUNNING p.val) = 0) ∧
  (∀ (s : State) (t : Twin) (p : Fin 8), RegsOk s → running s p.val = true → twState s t ≠ tsReset → ∃ u, exec
    (.pwmArm .both p) s = .next u ∧ u.report = Rc.OK ∧ (pwm u p.val).pend = some (latentSet s (edgeTwin s) p.val) ∧
    rf u t (pf R.PWM_P_RLD_PENDING p.val) = 1) ∧
  (∀ (s : State) (t : Twin) (p : Fin 8), RegsOk s → running s p.val = false → twState s t ≠ tsReset → ∃ u, exec
    (.pwmArm .both p) s = .next u ∧ u.report = Rc.OK ∧ rd u t (R.PWM_P_DEV + 128 * p.val) = BitVec.ofNat 32 (clampSet
    (latentSet s (edgeTwin s) p.val)).period ∧ rd u t (R.PWM_P_DEV + 128 * p.val + 4) = BitVec.ofNat 32 (clampSet
    (latentSet s (edgeTwin s) p.val)).cmpA ∧ rd u t (R.PWM_P_DEV + 128 * p.val + 8) = BitVec.ofNat 32 (clampSet
    (latentSet s (edgeTwin s) p.val)).cmpB ∧ rd u t (R.PWM_P_DEV + 128 * p.val + 12) = BitVec.ofInt 32 (clampSet
    (latentSet s (edgeTwin s) p.val)).phase) ∧
  (∀ (s : State) (p : Fin 8) (q : PwmSet), RegsOk s → running s p.val = true → (pwm s p.val).pend = some q → (pwm s
    p.val).com = none → (pwm s p.val).now = false → ps s R.PWM_P_CFG_RELOAD p.val ≠ 3 → ∃ u, exec (.reloadCutoff p) s
    = .next u ∧ (pwm u p.val).com = some (clampSet q) ∧ (pwm u p.val).pend = none) ∧
  (∀ (s : State) (t : Twin) (p : Fin 8) (q : PwmSet), RegsOk s → twState s t ≠ tsReset → running s p.val = true →
    (selects s p.val).1 = true → ps s R.PWM_P_CFG_RLD_DIV p.val ≤ (pwm s p.val).div → (pwm s p.val).com = some q →
    (pwm s p.val).pend = none → ∃ u, exec (.reload p 0) s = .next u ∧ rd u t (R.PWM_P_DEV + 128 * p.val) =
    BitVec.ofNat 32 q.period ∧ rd u t (R.PWM_P_DEV + 128 * p.val + 4) = BitVec.ofNat 32 q.cmpA ∧ rd u t (R.PWM_P_DEV
    + 128 * p.val + 8) = BitVec.ofNat 32 q.cmpB ∧ rd u t (R.PWM_P_DEV + 128 * p.val + 12) = BitVec.ofInt 32 q.phase ∧
    rf u t (pf R.PWM_P_RLD_PENDING p.val) = 0) ∧
  (∀ (s : State) (t : Twin) (p : Fin 8) (q : PwmSet), RegsOk s → twState s t ≠ tsReset → running s p.val = true →
    (selects s p.val).2 = true → (pwm s p.val).begun = true → ps s R.PWM_P_CFG_RLD_DIV p.val ≤ (pwm s p.val).div →
    (pwm s p.val).com = some q → (pwm s p.val).pend = none → ∃ u, exec (.reload p 1) s = .next u ∧ rd u t
    (R.PWM_P_DEV + 128 * p.val) = BitVec.ofNat 32 q.period ∧ rd u t (R.PWM_P_DEV + 128 * p.val + 4) = BitVec.ofNat 32
    q.cmpA ∧ rd u t (R.PWM_P_DEV + 128 * p.val + 8) = BitVec.ofNat 32 q.cmpB ∧ rd u t (R.PWM_P_DEV + 128 * p.val +
    12) = BitVec.ofInt 32 q.phase ∧ rf u t (pf R.PWM_P_RLD_PENDING p.val) = 0) ∧
  (∀ (s : State) (p : Fin 8) (k : Fin 3), running s p.val = true → (k.val = 0 ∧ (selects s p.val).1 = true ∨ k.val =
    1 ∧ (selects s p.val).2 = true ∧ (pwm s p.val).begun = true) → (pwm s p.val).div < ps s R.PWM_P_CFG_RLD_DIV p.val
    → ∃ u, exec (.reload p k) s = .next u ∧ pwm u p.val = { pwm s p.val with div := (pwm s p.val).div + 1 } ∧
    SameRegs s u .a [] ∧ SameRegs s u .b []) ∧
  (∀ (s : State) (t : Twin) (p : Fin 8) (q : PwmSet), RegsOk s → twState s t ≠ tsReset → running s p.val = true →
    ((pwm s p.val).now = true ∨ ps s R.PWM_P_CFG_RELOAD p.val = 3) → (pwm s p.val).pend = some q → (pwm s p.val).com
    = none → ∃ u, exec (.reload p 2) s = .next u ∧ rd u t (R.PWM_P_DEV + 128 * p.val) = BitVec.ofNat 32 (clampSet
    q).period ∧ rd u t (R.PWM_P_DEV + 128 * p.val + 4) = BitVec.ofNat 32 (clampSet q).cmpA ∧ rf u t (pf
    R.PWM_P_RLD_PENDING p.val) = 0) ∧
  (∀ (s : State) (p : Fin 8), RegsOk s → running s p.val = true → ∃ u, exec (.periodBoundary p) s = .next u ∧ (pwm u
    p.val).begun = true ∧ (pwm u p.val).b = (pwm s p.val).nb ∧ (pwm u p.val).wA = 0 ∧ ((pwm u p.val).fA = if (pwm s
    p.val).wA = 0 then (pwm s p.val).fA else (pwm s p.val).wA)) ∧
  (∀ (s : State) (p : Fin 8) (i : Fin 4), running s p.val = true → (pwm s p.val).begun = true → (pwm s p.val).xFrom ≤
    ((pwm s p.val).x.getD i.val 0 : Nat) → (pwm s p.val).x.getD i.val 0 < pw s R.PWM_P_DEV p.val → i.val ∉ (pwm s
    p.val).xDone → ∃ u, exec (.compareEvent p i) s = .next u ∧ (pwm u p.val).xDone = i.val :: (pwm s p.val).xDone) ∧
  (∀ (s : State) (p : Fin 8) (b r : Bool), running s p.val = true → (pwm s p.val).begun = true → ∃ u, exec (.pwmEdge
    false p b r) s = .next u ∧ (if b then (pwm u p.val).sB else (pwm u p.val).sA) = r) ∧
  (∀ (s : State) (p : Fin 8) (b r : Bool), (gen s p.val).run = true → ∃ u, exec (.pwmEdge true p b r) s = .next u ∧
    (gen u p.val).s = r) ∧
  (∀ (s : State) (k : Fin 16) (b : Bool), choose s k.val (bit b) = (1, true) → (choose s k.val (bit (!b))).1 = 0 →
    noDrive s k.val (bit b) = false → (if b then (outs s k.val).waitB else (outs s k.val).waitA) = false → (if b then
    (outs s k.val).a else (outs s k.val).b) = 0 → (if b then (outs s k.val).wantA else (outs s k.val).wantB) = false
    → ∃ u, exec (.deadTimeEnd k b) s = .next u ∧ (if b then (outs u k.val).b else (outs u k.val).a) = 1 ∧ (if b then
    (outs u k.val).a else (outs u k.val).b) ≠ 1) ∧
  (∀ (s : State) (t : Twin) (p : Fin 8) (fa fb : Fin 4) (x : Bool), RegsOk s → twState s t ≠ tsReset → ¬(fa.val = 2 ∧
    fb.val = 2) → ∃ u, exec (.pwmForce .both p fa fb x) s = .next u ∧ u.report = Rc.OK ∧ rf u t (pf R.PWM_P_FORCE_FA
    p.val) = fa.val ∧ rf u t (pf R.PWM_P_FORCE_FB p.val) = fb.val ∧ rf u t (pf R.PWM_P_FORCE_AT_BOUNDARY p.val) = bit
    x ∧ (fa.val ≠ 0 → x = false → (pwm u p.val).fA = fa.val)) ∧
  (∀ (s : State) (tg : Target) (t : Twin), RegsOk s → twState s t ≠ tsReset → (tg = .both ∨ tg = .one t) → ∃ u, exec
    (.dtLock tg) s = .next u ∧ u.report = Rc.OK ∧ rf u t R.PWM_GCFG_DT_LOCK = 1)

/-- The rows that R248, R268 and the register of the drive and R188 make agreed changes; the model gives every such refusal the code AGREED_ONLY. -/
def Obligations.AgreedOnlyRowsRefuseOneTwin : Prop :=
  (∀ (s : State) (t : Twin) (p : Fin 8), ∃ u, exec (.pwmStart (.one t) p) s = .next u ∧ u =
    { s with report := Rc.AGREED_ONLY }) ∧
  (∀ (s : State) (t : Twin) (p : Fin 8), ∃ u, exec (.pwmStop (.one t) p) s = .next u ∧ u =
    { s with report := Rc.AGREED_ONLY }) ∧
  (∀ (s : State) (t : Twin) (p : Fin 8), ∃ u, exec (.pwmArm (.one t) p) s = .next u ∧ u =
    { s with report := Rc.AGREED_ONLY }) ∧
  (∀ (s : State) (t : Twin) (p : Fin 8) (fa fb : Fin 4) (x : Bool), ∃ u, exec (.pwmForce (.one t) p fa fb x) s =
    .next u ∧ u = { s with report := Rc.AGREED_ONLY }) ∧
  (∀ (s : State) (t : Twin), ∃ u, exec (.gpbRun (.one t) ) s = .next u ∧ u = { s with report := Rc.AGREED_ONLY }) ∧
  (∀ (s : State) (t : Twin) (m : BitVec 16) (i : Fin 4), ∃ u, exec (.gdDiagStart (.one t) m i) s = .next u ∧ u =
    { s with report := Rc.AGREED_ONLY }) ∧
  (∀ (s : State) (t : Twin) (v : Bool), ∃ u, exec (.driveEnable (.one t) v) s = .next u ∧ u =
    { s with report := Rc.AGREED_ONLY }) ∧
  (∀ (s : State) (t : Twin) (d : Fin 2) (v : Bool), ∃ u, exec (.channelRun (.one t) d v) s = .next u ∧ u =
    { s with report := Rc.AGREED_ONLY }) ∧
  (∀ (s : State) (t : Twin), ∃ u, exec (.discharge (.one t) ) s = .next u ∧ u = { s with report := Rc.AGREED_ONLY }) ∧
  (∀ (s : State) (t : Twin), ∃ u, exec (.clear (.one t) ) s = .next u ∧ u = { s with report := Rc.AGREED_ONLY }) ∧
  (∀ (s : State) (t : Twin) (b : Fin 4096) (i : Fin 16) (v : W32), ∃ u, exec (.coefWrite (.one t) b i v) s = .next u
    ∧ u = { s with report := Rc.AGREED_ONLY })

/-- Gate drives (R252 to R258, R370). -/
def Obligations.GateDriveCommandsComplete : Prop :=
  (∀ (s : State) (g : Fin 8) (x : Bool) (q : Nat × Nat), q = (if bridgeMode s g.val then (rf s (edgeTwin s)
    R.GD_GPB_PERIOD * 160, bridgeOnTime s g.val (gen s g.val).count) else (gen s g.val).seq.getD (if (gen s
    g.val).written && x then ((rd s (edgeTwin s) (R.GD_P_GEN_PERIOD + 64 * g.val)).toNat, (rd s (edgeTwin s)
    (R.GD_P_GEN_ON + 64 * g.val)).toNat) else ((gen s g.val).period, (gen s g.val).on))) → (if bridgeMode s g.val
    then (gen s g.val).bridge = true ∧ s.edge.bridgeOn = true else (gen s g.val).seq.isSome = true ∨ gdSrc s g.val =
    1) → ∃ u, exec (.generatorBoundary g x) s = .next u ∧ (gen u g.val).run = decide (0 < q.1) ∧ (gen u g.val).period
    = q.1 ∧ (gen u g.val).on = min q.2 q.1 ∧ (gen u g.val).s = (decide (0 < q.2) && decide (0 < q.1)) ∧ (gen u
    g.val).count = (gen s g.val).count + 1 ∧ (gen u g.val).written = ((gen s g.val).written && (bridgeMode s g.val ||
    (gen s g.val).seq.isSome || !x))) ∧
  (∀ (s : State) (t : Twin) (g : Fin 8), RegsOk s → twState s t ≠ tsReset → (rd s t (R.GD_P_UVLO_CNT + 64 *
    g.val)).toNat < 4294967294 → ∃ u, exec (.gateUvlo g false) s = .next u ∧ rf u t (gf R.GD_P_STATUS_UV_P g.val) = 1
    ∧ biti u t R.GD_EVENT_UVLO g.val = true ∧ rd u t (R.GD_P_UVLO_CNT + 64 * g.val) = rd s t (R.GD_P_UVLO_CNT + 64 *
    g.val) + 1 ∧ (gen u g.val).lock = true) ∧
  (∀ (s : State) (t : Twin) (g : Fin 8), RegsOk s → twState s t ≠ tsReset → gs s R.GD_P_UVLO_VDRVN g.val ≠ 0 → ∃ u,
    exec (.gateUvlo g true) s = .next u ∧ rf u t (gf R.GD_P_STATUS_UV_N g.val) = 1 ∧ biti u t R.GD_EVENT_UVLO g.val =
    true ∧ (gen u g.val).lock = true) ∧
  (∀ (s : State) (t : Twin) (g : Fin 8) (n : Bool), RegsOk s → twState s t ≠ tsReset → (gen s g.val).lock = true →
    (gen s g.val).run = true → ∃ u, exec (.uvloRecover g n) s = .next u ∧ rf u t (gf (if n then R.GD_P_STATUS_UV_N
    else R.GD_P_STATUS_UV_P) g.val) = 0 ∧ (t = edgeTwin s → gs s (if n then R.GD_P_STATUS_UV_P else
    R.GD_P_STATUS_UV_N) g.val = 0 → (gen u g.val).lock = false)) ∧
  (∀ (s : State) (g : Fin 8), 6 ≤ g.val → (outs s (8 + g.val)).a = 1 → heldOn s g.val = false → ∃ u, exec
    (.bootstrapRefresh ⟨g, false⟩) s = .next u ∧ gen u g.val = { gen s g.val with sched := true } ∧ u.edge.pwm =
    s.edge.pwm) ∧
  (∀ (s : State) (g : Fin 8), (gen s g.val).sched = true → (gen s g.val).run = true → ∃ u, exec (.bootstrapRefresh
    ⟨g, true⟩) s = .next u ∧ gen u g.val = { gen s g.val with sched := false } ∧ u.edge.pwm = s.edge.pwm) ∧
  (∀ (s : State) (t : Twin) (g : Fin 8), RegsOk s → twState s t ≠ tsReset → 6 ≤ g.val → (outs s (8 + g.val)).a = 1 →
    ∃ u, exec (.forcedRefresh g) s = .next u ∧ rf u t (gf R.GD_P_STATUS_UV_BST g.val) = 1 ∧ biti u t R.GD_EVENT_BST
    (g.val - 6) = true ∧ (gen u g.val).refresh = true) ∧
  (∀ (s : State) (t : Twin) (g : Fin 8), RegsOk s → twState s t ≠ tsReset → (gen s g.val).refresh = true → (gen s
    g.val).run = true → ∃ u, exec (.forcedRefreshEnd g) s = .next u ∧ rf u t (gf R.GD_P_STATUS_UV_BST g.val) = 0 ∧
    (gen u g.val).refresh = false) ∧
  (∀ (s : State) (t : Twin), RegsOk s → twState s t ≠ tsReset → safelight s = false → flag s (edgeTwin s)
    R.GD_GPB_BRIDGE = true → s.edge.bridgeOn = false → stoNow s = false → ∃ u, exec (.gpbRun .both) s = .next u ∧
    u.report = Rc.OK ∧ rf u t R.GD_GPB_RUN = 1 ∧ u.edge.testA = true ∧ u.edge.testB = true ∧ u.edge.testBad = false) ∧
  (∀ (s : State) (t : Twin), RegsOk s → twState s t ≠ tsReset → safelight s = false → (flag s (edgeTwin s)
    R.GD_GPB_BRIDGE = false ∨ s.edge.bridgeOn = true ∨ stoNow s = true) → ∃ u, exec (.gpbRun .both) s = .next u ∧
    u.report = Rc.OK ∧ rf u t R.GD_GPB_RUN = 1 ∧ u.edge = s.edge) ∧
  (∀ (s : State) (t : Twin), RegsOk s → twState s t ≠ tsReset → s.edge.testA = true → s.edge.testB = false →
    s.edge.testBad = false → stoNow s = false → ∃ u, exec (.bridgeStartTest .a true) s = .next u ∧ u.edge.bridgeOn =
    true ∧ u.edge.testA = false ∧ (gen u 6).bridge = true ∧ (gen u 7).bridge = true ∧ rf u t R.GD_GPB_STOPPED = 0) ∧
  (∀ (s : State) (t : Twin), RegsOk s → twState s t ≠ tsReset → s.edge.testB = true → s.edge.testA = true → ∃ u, exec
    (.bridgeStartTest .b true) s = .next u ∧ u.edge.testB = false ∧ u.edge.testA = true ∧ u.edge.bridgeOn =
    s.edge.bridgeOn) ∧
  (∀ (s : State) (t : Twin) (x : Bool), RegsOk s → twState s t ≠ tsReset → s.edge.testB = true → s.edge.testA = false
    → (s.edge.testBad = true ∨ x = false) → ∃ u, exec (.bridgeStartTest .b x) s = .next u ∧ u.edge.testB = false ∧
    u.edge.bridgeOn = false ∧ flag u t R.SAF_EVENT_BRIDGE_TEST = true ∧ rf u t R.GD_GPB_STOPPED = 1) ∧
  (∀ (s : State) (t : Twin) (x : Bool), RegsOk s → twState s t ≠ tsReset → s.edge.testA = true → s.edge.testB = false
    → (s.edge.testBad = true ∨ x = false) → ∃ u, exec (.bridgeStartTest .a x) s = .next u ∧ u.edge.testA = false ∧
    u.edge.bridgeOn = false ∧ flag u t R.SAF_EVENT_BRIDGE_TEST = true ∧ rf u t R.GD_GPB_STOPPED = 1) ∧
  (∀ (s : State) (t : Twin) (m : BitVec 16) (i : Fin 4), RegsOk s → leader s = some t → (List.range 16).all (fun c =>
    !(nbit m.toNat c) || channelOff s c) = true → s.edge.diag = [] → m ≠ 0 → leaveHeld s 4 t = false → leaveFree s t
    4 0 = true → ∃ u, exec (.gdDiagStart .both m i) s = .next u ∧ u.report = Rc.OK ∧ u.edge.diag = (List.range
    16).filter (fun c => nbit m.toNat c) ∧ rf u t R.GD_DIAG_STATUS_BUSY = 1 ∧ leaveHeld u 4 t = true) ∧
  (∀ (s : State) (m : BitVec 16) (i : Fin 4), (List.range 16).any (fun c => nbit m.toNat c && !(channelOff s c)) =
    true → ∃ u, exec (.gdDiagStart .both m i) s = .next u ∧ u = { s with report := Rc.GD_ACTIVE }) ∧
  (∀ (s : State) (t : Twin) (v w x : W32) (c : Fin 16), RegsOk s → twState s t ≠ tsReset → s.edge.diag = [c.val] →
    x.toInt - 300 ≤ v.toInt → ∃ u, exec (.gdDiagChannelEnd v w x) s = .next u ∧ rf u t ⟨R.GD_DIAG_RES, 2 * c.val + 1,
    2 * c.val⟩ = 1 ∧ u.edge.diag = [] ∧ rf u t R.GD_DIAG_STATUS_BUSY = 0 ∧ flag u t R.GD_DIAG_STATUS_DONE = true) ∧
  (∀ (s : State) (t : Twin) (v w x : W32) (c : Fin 16) (r : List Nat), RegsOk s → twState s t ≠ tsReset → s.edge.diag
    = c.val :: r → r ≠ [] → v.toInt < x.toInt - 300 → (w.toInt - v.toInt) * 10 < (bits (rd s (edgeTwin s) ((if c.val
    % 2 = 0 then R.GD_P_RMAX_A else R.GD_P_RMAX_B) + 64 * (c.val / 2))) 15 0 : Nat) * (2 * testCurrent (rf s
    (edgeTwin s) R.GD_DIAG_CTRL_ITEST) : Nat) → ∃ u, exec (.gdDiagChannelEnd v w x) s = .next u ∧ rf u t
    ⟨R.GD_DIAG_RES, 2 * c.val + 1, 2 * c.val⟩ = 2 ∧ u.edge.diag = r) ∧
  (∀ (s : State) (t : Twin) (v w x : W32) (c : Fin 16) (r : List Nat), RegsOk s → twState s t ≠ tsReset → s.edge.diag
    = c.val :: r → r ≠ [] → v.toInt < x.toInt - 300 → (bits (rd s (edgeTwin s) ((if c.val % 2 = 0 then R.GD_P_RMAX_A
    else R.GD_P_RMAX_B) + 64 * (c.val / 2))) 15 0 : Nat) * (2 * testCurrent (rf s (edgeTwin s) R.GD_DIAG_CTRL_ITEST)
    : Nat) ≤ (w.toInt - v.toInt) * 10 → (bits (rd s (edgeTwin s) ((if c.val % 2 = 0 then R.GD_P_RMAX_A else
    R.GD_P_RMAX_B) + 64 * (c.val / 2))) 31 16 = 65535 ∨ (w.toInt - v.toInt) * 10 ≤ (bits (rd s (edgeTwin s) ((if
    c.val % 2 = 0 then R.GD_P_RMAX_A else R.GD_P_RMAX_B) + 64 * (c.val / 2))) 31 16 : Nat) * (2 * testCurrent (rf s
    (edgeTwin s) R.GD_DIAG_CTRL_ITEST) : Nat)) → ∃ u, exec (.gdDiagChannelEnd v w x) s = .next u ∧ rf u t
    ⟨R.GD_DIAG_RES, 2 * c.val + 1, 2 * c.val⟩ = 0 ∧ u.edge.diag = r) ∧
  (∀ (s : State) (t : Twin) (v w x : W32) (c : Fin 16) (r : List Nat), RegsOk s → twState s t ≠ tsReset → s.edge.diag
    = c.val :: r → r ≠ [] → v.toInt < x.toInt - 300 → (bits (rd s (edgeTwin s) ((if c.val % 2 = 0 then R.GD_P_RMAX_A
    else R.GD_P_RMAX_B) + 64 * (c.val / 2))) 15 0 : Nat) * (2 * testCurrent (rf s (edgeTwin s) R.GD_DIAG_CTRL_ITEST)
    : Nat) ≤ (w.toInt - v.toInt) * 10 → bits (rd s (edgeTwin s) ((if c.val % 2 = 0 then R.GD_P_RMAX_A else
    R.GD_P_RMAX_B) + 64 * (c.val / 2))) 31 16 ≠ 65535 → (bits (rd s (edgeTwin s) ((if c.val % 2 = 0 then
    R.GD_P_RMAX_A else R.GD_P_RMAX_B) + 64 * (c.val / 2))) 31 16 : Nat) * (2 * testCurrent (rf s (edgeTwin s)
    R.GD_DIAG_CTRL_ITEST) : Nat) < (w.toInt - v.toInt) * 10 → ∃ u, exec (.gdDiagChannelEnd v w x) s = .next u ∧ rf u
    t ⟨R.GD_DIAG_RES, 2 * c.val + 1, 2 * c.val⟩ = 3 ∧ u.edge.diag = r) ∧
  (∀ (s : State) (t : Twin) (c : Fin 16), RegsOk s → twState s t ≠ tsReset → s.edge.diag = [c.val] → ∃ u, exec
    (.gdDiagAbort) s = .next u ∧ flag u t R.GD_DIAG_STATUS_ABORTED = true ∧ flag u t R.GD_DIAG_STATUS_DONE = true ∧
    rf u t ⟨R.GD_DIAG_RES, 2 * c.val + 1, 2 * c.val⟩ = 3 ∧ u.edge.diag = [])

/-- Trips (R259 to R264). -/
def Obligations.TripCommandsComplete : Prop :=
  (∀ (s : State) (t : Twin) (i : Fin 8) (x y : Bool), RegsOk s → (match t with | .a => x | .b => y) = true → flag s t
    (fo R.TRIP_IN_EN (4 * i.val)) = true → biti s t R.TRIP_LATCH_IN i.val = false → (rd s t (R.TRIP_IN_CNT + 4 *
    i.val)).toNat < 4294967294 → ∃ u, exec (.tripLatch i x y) s = .next u ∧ biti u t R.TRIP_LATCH_IN i.val = true ∧
    biti u t R.TRIP_EVENT_IN i.val = true ∧ biti u t R.TRIP_LIVE_IN_ACTIVE i.val = true ∧ rd u t (R.TRIP_IN_CNT + 4 *
    i.val) = rd s t (R.TRIP_IN_CNT + 4 * i.val) + 1) ∧
  (∀ (s : State) (i : Fin 8), RegsOk s → biti s .a R.TRIP_LATCH_IN i.val = true → biti s .b R.TRIP_LATCH_IN i.val =
    false → ∃ u, exec (.tripSideDiff) s = .next u ∧ biti u .b R.TRIP_LATCH_IN i.val = true ∧ flag u .b
    R.TRIP_EVENT_SIDE_DIFF = true ∧ biti u .a R.TRIP_LATCH_IN i.val = true) ∧
  (∀ (s : State) (t : Twin) (i c x y : Byte), RegsOk s → i &&& x = 0 → c &&& y = 0 → ∃ u, exec (.tripClear i c x y) s
    = .next u ∧ u.report = Rc.OK ∧ rf u t R.TRIP_LATCH_IN = rf s t R.TRIP_LATCH_IN &&& (255 - i.toNat) ∧ rf u t
    R.TRIP_LATCH_SC = rf s t R.TRIP_LATCH_SC &&& (255 - c.toNat)) ∧
  (∀ (s : State) (t : Twin) (i c x y : Byte), RegsOk s → rf s t R.TRIP_LATCH_IN &&& i.toNat &&& x.toNat ≠ 0 → ∃ u,
    exec (.tripClear i c x y) s = .next u ∧ u.report = Rc.SOURCE_ACTIVE ∧ flag u t R.TRIP_EVENT_CLEAR_REFUSED = true
    ∧ rf u t R.TRIP_LATCH_IN = rf s t R.TRIP_LATCH_IN &&& (255 - (i.toNat &&& (255 - x.toNat))) ∧ rf u t
    R.TRIP_LATCH_SC = rf s t R.TRIP_LATCH_SC &&& (255 - (c.toNat &&& (255 - y.toNat)))) ∧
  (∀ (s : State) (tg : Target) (t : Twin), RegsOk s → twState s t ≠ tsReset → (tg = .both ∨ tg = .one t) → ∃ u, exec
    (.tripLock tg) s = .next u ∧ u.report = Rc.OK ∧ rf u t R.TRIP_GCFG_LOCK = 1) ∧
  (∀ (s : State) (t : Twin) (k : Fin 8) (x y : Bool), RegsOk s → (match t with | .a => x | .b => y) = true →
    dsnWatched s t k.val = true → biti s t R.TRIP_LATCH_SC k.val = false → ∃ u, exec (.dsnTh2 ⟨k, x, y⟩) s = .next u
    ∧ biti u t R.TRIP_LATCH_SC k.val = true ∧ biti u t R.TRIP_EVENT_SC k.val = true ∧ biti u t R.TRIP_LATCH_EARLY
    k.val = false) ∧
  (∀ (s : State) (t : Twin) (k : Fin 8) (x y : Bool), RegsOk s → (match t with | .a => x | .b => y) = true →
    dsnWatched s t k.val = true → (outs s (dsnPair s k.val)).blank = true → ∃ u, exec (.dsnTh1 ⟨k, x, y⟩) s = .next u
    ∧ biti u t R.TRIP_LATCH_EARLY k.val = true ∧ biti u t R.TRIP_LIVE_DSN_ABOVE k.val = true ∧ rf u t R.TRIP_LATCH_SC
    = rf s t R.TRIP_LATCH_SC) ∧
  (∀ (s : State) (t : Twin) (k : Fin 8) (x y : Bool), RegsOk s → (match t with | .a => x | .b => y) = true →
    dsnWatched s t k.val = true → (outs s (dsnPair s k.val)).blank = false → biti s t R.TRIP_LATCH_SC k.val = false →
    ∃ u, exec (.dsnTh1 ⟨k, x, y⟩) s = .next u ∧ biti u t R.TRIP_LATCH_SC k.val = true ∧ biti u t R.TRIP_EVENT_SC
    k.val = true) ∧
  (∀ (s : State) (t : Twin) (k : Fin 8), RegsOk s → dsnWatched s t k.val = true → biti s t R.TRIP_LATCH_EARLY k.val =
    true → biti s t R.TRIP_LATCH_SC k.val = false → ∃ u, exec (.dsnBlankingEnd k true) s = .next u ∧ biti u t
    R.TRIP_LATCH_SC k.val = true) ∧
  (∀ (s : State) (t : Twin) (k : Fin 8), RegsOk s → biti s t R.TRIP_LATCH_EARLY k.val = true → ∃ u, exec
    (.dsnBlankingEnd k false) s = .next u ∧ biti u t R.TRIP_LATCH_EARLY k.val = false ∧ biti u t
    R.TRIP_EVENT_EARLY_CLEARED k.val = true ∧ rf u t R.TRIP_LATCH_SC = rf s t R.TRIP_LATCH_SC) ∧
  (∀ (s : State) (t : Twin) (g : Fin 8), RegsOk s → twState s t ≠ tsReset → (outs s (8 + g.val)).a = 0 → choose s (8
    + g.val) 0 = (0, false) → noDrive s (8 + g.val) 0 = false → ∃ u, exec (.softTurnOffEnd g) s = .next u ∧ rf u t
    (gf R.GD_P_STATUS_SOFT_ACTIVE g.val) = 0) ∧
  (∀ (s : State) (g : Fin 8), ∃ u, exec (.softTurnOffEnd g) s = .next u ∧ u.edge.gen = s.edge.gen ∧ u.edge.pwm =
    s.edge.pwm ∧ u.report = s.report)

/-- Drive channels (R206 to R225). -/
def Obligations.DriveChannelCommandsComplete : Prop :=
  (∀ (s : State) (t : Twin) (v : Bool), RegsOk s → (targetCode .both (fun t => if v && !(drvBound s t) then
    Rc.DRV_BINDING else Rc.OK) = Rc.OK) → ∃ u, exec (.driveEnable .both v) s = .next u ∧ u.report = Rc.OK ∧ flag u t
    R.DRV_CTRL_ENABLE = v) ∧
  (∀ (s : State), (drvBound s .a = false ∨ drvBound s .b = false) → ∃ u, exec (.driveEnable .both true) s = .next u ∧
    u = { s with report := Rc.DRV_BINDING }) ∧
  (∀ (s : State) (t : Twin) (d : Fin 2) (v : Bool), RegsOk s → (v = false ∨ safelight s = false) → ∃ u, exec
    (.channelRun .both d v) s = .next u ∧ u.report = Rc.OK ∧ flag u t (df R.DRV_D_CTRL_RUN d.val) = v) ∧
  (∀ (s : State) (d : Fin 2), safelight s = true → ∃ u, exec (.channelRun .both d true) s = .next u ∧ u =
    { s with report := Rc.SAFELIGHT_ACTIVE }) ∧
  (∀ (s : State) (d : Fin 2) (p : Nat), d.val ∈ channels s (edgeTwin s) → p ∈ chanPairs s (edgeTwin s) d.val → ((chan
    s (edgeTwin s) d.val).mode ≠ 1 ∨ (pwm s p).begun = true) → ∃ u, exec (.sequencerOutputApply) s = .next u ∧ ((pwm
    u p).qA = if (chan s (edgeTwin s) d.val).mode = 1 then 0 else if (chan s (edgeTwin s) d.val).mode = 2 ∧ flag s
    (edgeTwin s) R.DRV_CFG_ASC_SIDE = true then 2 else 1) ∧ ((pwm u p).qB = if (chan s (edgeTwin s) d.val).mode = 1
    then 0 else if (chan s (edgeTwin s) d.val).mode = 2 ∧ flag s (edgeTwin s) R.DRV_CFG_ASC_SIDE = false then 2 else
    1)) ∧
  (∀ (s : State) (t : Twin) (d : Fin 2), computing s t = true → ∃ u, exec (.xoHoldEnd d) s = .next u ∧ (u.tw
    t).drv.ch = tabMod {} (s.tw t).drv.ch d.val (fun c => { c with xoHold := false }) ∧ SameRegs s u t []) ∧
  (∀ (s : State) (t : Twin) (d : Fin 2), RegsOk s → computing s t = true → chSt s t d.val = 2 → stoNow s = false →
    chanTrip s t d.val = false → stage s t < 4 → discharging s t = false → enabled s t = true → runReq s t d.val =
    true → (chan s t d.val).done = false → (chan s t d.val).fails + 0 ≤ rf s t (df R.DRV_D_TIMING1_CATCH_RETRY d.val)
    → (chan s t d.val).phase = 1 → catchRuns s t d.val ≤ (chan s t d.val).n → (chan s t d.val).n ≠ 0 → F32.lt
    (F32.div (chan s t d.val).sumE (F32.ofInt (chan s t d.val).n)) (dw s t R.DRV_D_CATCH_EMIN d.val) = true → ∃ u,
    exec (.catchMeasureEnd d) s = .next u ∧ (chan u t d.val).phase = 2 ∧ (chan u t d.val).mode = 1 ∧ (chan u t
    d.val).ang = role s t d.val roTh ∧ (chan u t d.val).peakP = 0#32 ∧ (chan u t d.val).peakN = 0#32 ∧ (chan u t
    d.val).wFound = 0#32) ∧
  (∀ (s : State) (t : Twin) (d : Fin 2), RegsOk s → computing s t = true → chSt s t d.val = 2 → stoNow s = false →
    chanTrip s t d.val = false → stage s t < 4 → discharging s t = false → enabled s t = true → runReq s t d.val =
    true → (chan s t d.val).done = false → (chan s t d.val).fails + 1 ≤ rf s t (df R.DRV_D_TIMING1_CATCH_RETRY d.val)
    → (chan s t d.val).phase = 1 → catchRuns s t d.val ≤ (chan s t d.val).n → (chan s t d.val).n ≠ 0 → F32.lt
    (F32.div (chan s t d.val).sumE (F32.ofInt (chan s t d.val).n)) (dw s t R.DRV_D_CATCH_EMIN d.val) = false → F32.le
    (F32.abs (F32.sub (F32.div (chan s t d.val).sumE (F32.ofInt (chan s t d.val).n)) (F32.mul (dw s t R.DRV_D_PSIM
    d.val) (F32.abs (chan s t d.val).wFound)))) (F32.mul (F32.mul (dw s t R.DRV_D_CATCH_TOL d.val) (dw s t
    R.DRV_D_PSIM d.val)) (F32.abs (chan s t d.val).wFound)) = false → ∃ u, exec (.catchMeasureEnd d) s = .next u ∧
    (chan u t d.val).phase = 8 ∧ (chan u t d.val).fails = (chan s t d.val).fails + 1 ∧ (chan u t d.val).mode = 0 ∧
    (chan u t d.val).wFound = 0#32) ∧
  (∀ (s : State) (t : Twin) (d : Fin 2), RegsOk s → computing s t = true → chSt s t d.val = 2 → stoNow s = false →
    chanTrip s t d.val = false → stage s t < 4 → discharging s t = false → enabled s t = true → runReq s t d.val =
    true → (chan s t d.val).done = false → (chan s t d.val).fails + 0 ≤ rf s t (df R.DRV_D_TIMING1_CATCH_RETRY d.val)
    → ((chan s t d.val).phase = 2 ∨ (chan s t d.val).phase = 3) → ∃ u, exec (.polarityTest d) s = .next u ∧ (chan u t
    d.val).phase = (chan s t d.val).phase + 1 ∧ (chan u t d.val).mode = (chan s t d.val).mode) ∧
  (∀ (s : State) (t : Twin) (d : Fin 2), RegsOk s → computing s t = true → chSt s t d.val = 2 → stoNow s = false →
    chanTrip s t d.val = false → stage s t < 4 → discharging s t = false → enabled s t = true → runReq s t d.val =
    true → (chan s t d.val).done = false → (chan s t d.val).fails + 1 ≤ rf s t (df R.DRV_D_TIMING1_CATCH_RETRY d.val)
    → (chan s t d.val).phase = 4 → F32.lt (F32.mul 0x3F866666#32 (chan s t d.val).peakP) (chan s t d.val).peakN =
    false → F32.lt (F32.mul 0x3F866666#32 (chan s t d.val).peakN) (chan s t d.val).peakP = false → ∃ u, exec
    (.polarityTest d) s = .next u ∧ (chan u t d.val).phase = 8 ∧ (chan u t d.val).fails = (chan s t d.val).fails + 1
    ∧ (chan u t d.val).mode = 0 ∧ (chan u t d.val).wFound = 0#32) ∧
  (∀ (s : State) (t : Twin) (d : Fin 2), RegsOk s → computing s t = true → (chan s t d.val).phase = 8 → (chan s t
    d.val).fails ≤ rf s t (df R.DRV_D_TIMING1_CATCH_RETRY d.val) → ∃ u, exec (.catchRetry d) s = .next u ∧ ((chan u t
    d.val).phase = if machine s t = false then 0 else if induction s t d.val then 6 else 1) ∧ (chan u t d.val).done =
    !(machine s t) ∧ (chan u t d.val).n = 0 ∧ (chan u t d.val).fails = (chan s t d.val).fails) ∧
  (∀ (s : State) (t : Twin) (d : Fin 2), RegsOk s → computing s t = true → lossDue s t d.val = true → chSt s t d.val
    = 3 → stoNow s = false → chanTrip s t d.val = false → discharging s t = false → (rd s t (R.DRV_D_OBS_LOSSES + 256
    * d.val)).toNat < 4294967294 → ∃ u, exec (.observerLoss d) s = .next u ∧ (chSt u t d.val = if fast s t d.val then
    6 else 4) ∧ (rf u t (df R.DRV_D_STATE_REASON d.val) = if 4 ≤ stage s t then 3 else 2) ∧ flag u t (df
    R.DRV_D_EVENT_OBS_LOST d.val) = true ∧ rd u t (R.DRV_D_OBS_LOSSES + 256 * d.val) = rd s t (R.DRV_D_OBS_LOSSES +
    256 * d.val) + 1) ∧
  (∀ (s : State) (t : Twin) (d : Fin 2), RegsOk s → computing s t = true → chSt s t d.val = 6 → (F32.lt (chan s t
    d.val).imag (dw s t R.DRV_D_ASC_IMIN d.val) = true ∨ F32.lt (F32.abs (chan s t d.val).wsc) (F32.mul (dw s t
    R.DRV_D_W_ASC d.val) (F32.sub F32.one (dw s t R.DRV_D_ASC_HYST d.val))) = true) → F32.lt (vdc s t) (rd s t
    R.DRV_V_S4) = true → discharging s t = false → ∃ u, exec (.ascExit d) s = .next u ∧ chSt u t d.val = 5 ∧ rf u t
    (df R.DRV_D_STATE_REASON d.val) = rf s t (df R.DRV_D_STATE_REASON d.val)) ∧
  (∀ (s : State) (t : Twin) (d : Fin 2), RegsOk s → machine s t = true → monJudges s t = true → (chan s t
    d.val).badCmd = true → (rd s t (R.DRV_D_TMON_VIOL + 256 * d.val)).toNat < 4294967294 → ∃ u, exec (.tmonCmd t d) s
    = .next u ∧ flag u t (df R.DRV_D_EVENT_TMON_CMD d.val) = true ∧ rd u t (R.DRV_D_TMON_VIOL + 256 * d.val) = rd s t
    (R.DRV_D_TMON_VIOL + 256 * d.val) + 1 ∧ (flag s t (df R.DRV_D_TMON_SRC_REACT d.val) = true → biti u t
    R.SAF_STATUS_INT 0 = true)) ∧
  (∀ (s : State) (t : Twin) (d : Fin 2), RegsOk s → machine s t = true → monJudges s t = true → (chan s t
    d.val).badEst = true → (chan s t d.val).badCmd = false → ∃ u, exec (.tmonEst t d) s = .next u ∧ flag u t (df
    R.DRV_D_EVENT_TMON_EST d.val) = true ∧ SameRegs s u t [(df R.DRV_D_EVENT_TMON_EST d.val).addr])

/-- Spillway and discharge (R227 to R230), position decoders (R232 to R234). -/
def Obligations.SpillwayAndDischargeCommandsComplete : Prop :=
  (∀ (s : State) (t : Twin), computing s t = true → discharging s t = false → ∃ u, exec (.discharge .both) s = .next
    u ∧ u.report = Rc.OK ∧ (u.tw t).drv.dis = 1 ∧ (u.tw t).arr.feedStop = true) ∧
  (∀ (s : State) (t : Twin), RegsOk s → computing s t = true → (s.tw t).drv.dis = 1 → noFeed s t = true → ∃ u, exec
    (.dischargeStart) s = .next u ∧ (u.tw t).drv.dis = 2 ∧ (u.tw t).drv.v0 = vdc s t ∧ rf u t
    R.DRV_STATUS_DISCHARGING = 1) ∧
  (∀ (s : State) (t : Twin), RegsOk s → computing s t = true → (s.tw (asker s)).drv.dis = 1 → noFeed s (asker s) =
    false → ∃ u, exec (.disRefused) s = .next u ∧ u.report = Rc.ARRAY_FEEDING ∧ (u.tw t).drv.dis = 0 ∧ (u.tw
    t).arr.feedStop = false ∧ flag u t R.DRV_EVENT_DIS_REFUSED = true) ∧
  (∀ (s : State) (t : Twin), RegsOk s → computing s t = true → (s.tw t).drv.dis = 2 → F32.lt (vdc s t) (F32.mul
    0x3F666666#32 (s.tw t).drv.v0) = false → ∃ u, exec (.disStuck) s = .next u ∧ (u.tw t).drv.dis = 0 ∧ flag u t
    R.DRV_EVENT_DIS_STUCK = true ∧ rf u t R.DRV_STATUS_DISCHARGING = 0) ∧
  (∀ (s : State) (t : Twin), RegsOk s → computing s t = true → ((s.tw t).drv.dis = 2 ∨ (s.tw t).drv.dis = 4) → F32.lt
    (vdc s t) 0x42700000#32 = true → ∃ u, exec (.disDone) s = .next u ∧ ((u.tw t).drv.dis = if flag s t
    R.DRV_DIS_KEEP_DIS_KEEP then 3 else 0) ∧ (u.tw t).drv.kept = flag s t R.DRV_DIS_KEEP_DIS_KEEP ∧ rf u t
    R.DRV_STATUS_DISCHARGED = 1 ∧ rf u t R.DRV_STATUS_DISCHARGING = 0 ∧ flag u t R.DRV_EVENT_DIS_DONE = true) ∧
  (∀ (s : State) (t : Twin), RegsOk s → computing s t = true → (s.tw t).drv.dis = 2 → F32.lt (vdc s t) 0x42700000#32
    = false → ∃ u, exec (.disFail) s = .next u ∧ (u.tw t).drv.dis = 4 ∧ flag u t R.DRV_EVENT_DIS_FAIL = true) ∧
  (∀ (s : State) (t : Twin), RegsOk s → computing s t = true → (s.tw t).drv.dis = 4 → ∃ u, exec (.dischargeEnd) s =
    .next u ∧ (u.tw t).drv.dis = 0 ∧ rf u t R.DRV_STATUS_DISCHARGING = 0 ∧ (u.tw t).arr.feedStop = false) ∧
  (∀ (s : State) (t : Twin), RegsOk s → computing s t = true → 0 < stage s t → (roleNode s t 0 roIchop).isSome = true
    → F32.le 0x3E800000#32 (s.tw t).drv.duty = true → F32.lt (role s t 0 roIchop) (F32.mul (rd s t R.DRV_ICH_MIN)
    (s.tw t).drv.duty) = true → ∃ u, exec (.chopperFail) s = .next u ∧ rf u t R.DRV_STATUS_CHOPPER_FAIL = 1 ∧ flag u
    t R.DRV_EVENT_CHOPPER_FAIL = true ∧ (u.tw t).drv.falling = true) ∧
  (∀ (s : State) (t : Twin), RegsOk s → computing s t = true → 0 < stage s t → F32.le (rd s t R.DRV_VCH_HI) (vdc s t)
    = true → (s.tw t).drv.falling = false → ∃ u, exec (.stage2) s = .next u ∧ (u.tw t).drv.falling = true ∧ 2 ≤ stage
    u t ∧ flag u t R.DRV_EVENT_STAGE2 = true) ∧
  (∀ (s : State) (t : Twin), RegsOk s → computing s t = true → 0 < stage s t → stage s t < 5 → (F32.le (rd s t
    R.DRV_V_S4) (vdc s t) = true ∨ F32.le (rd s t R.DRV_V_TRIP) (vdc s t) = true) → (rd s t R.DRV_SPILL_TRIPS).toNat
    < 4294967294 → ∃ u, exec (.spillTrip) s = .next u ∧ stage u t = 5 ∧ rf u t R.DRV_STATUS_SPILL_TRIP = 1 ∧ flag u t
    R.DRV_EVENT_SPILL_TRIP = true ∧ rd u t R.DRV_SPILL_TRIPS = rd s t R.DRV_SPILL_TRIPS + 1 ∧ biti u t
    R.SAF_STATUS_INT 3 = true) ∧
  (∀ (s : State) (t : Twin), RegsOk s → computing s t = true → 0 < stage s t → F32.lt (vdc s t) (rd s t R.DRV_VCH_LO)
    = true → ∃ u, exec (.spillwayExit) s = .next u ∧ stage u t = 0 ∧ (u.tw t).drv.duty = 0#32 ∧ (u.tw t).drv.falling
    = false ∧ (u.tw t).drv.rising = false ∧ rf u t R.DRV_STATUS_SPILL_TRIP = rf s t R.DRV_STATUS_SPILL_TRIP) ∧
  (∀ (s : State) (t : Twin), RegsOk s → (targetCode .both (fun t => if computing s t ∧ F32.le (rd s t R.DRV_VCH_LO)
    (vdc s t) then Rc.SOURCE_ACTIVE else Rc.OK) = Rc.OK) → ∃ u, exec (.clear .both) s = .next u ∧ u.report = Rc.OK ∧
    rf u t R.DRV_STATUS_SPILL_TRIP = 0 ∧ rf u t R.DRV_STATUS_CHOPPER_FAIL = 0) ∧
  (∀ (s : State) (t : Twin), computing s t = true → F32.le (rd s t R.DRV_VCH_LO) (vdc s t) = true → ∃ u, exec (.clear
    .both) s = .next u ∧ u = { s with report := Rc.SOURCE_ACTIVE }) ∧
  (∀ (s : State) (t : Twin) (a b z : Bool) (x : W64), RegsOk s → twState s t ≠ tsReset → flag s t R.DRV_ENC_CFG_EN =
    true → (quadPlace a b + 4 - quadPlace (nbit (rf s t R.DRV_ENC_STATUS_LEVELS) 0) (nbit (rf s t
    R.DRV_ENC_STATUS_LEVELS) 1)) % 4 % 2 = 1 → ∃ u, exec (.encoderCount a b z x) s = .next u ∧ ((u.tw
    t).drv.pos.now.c = if (((quadPlace a b + 4 - quadPlace (nbit (rf s t R.DRV_ENC_STATUS_LEVELS) 0) (nbit (rf s t
    R.DRV_ENC_STATUS_LEVELS) 1)) % 4 == 1) != flag s t R.DRV_ENC_CFG_DIR) = true then (s.tw t).drv.pos.now.c + 1 else
    (s.tw t).drv.pos.now.c - 1) ∧ (u.tw t).drv.pos.now.ce = (u.tw t).drv.pos.now.c ∧ (u.tw t).drv.pos.now.te =
    x.toNat ∧ (u.tw t).drv.pos.now.counted = true ∧ rf u t R.DRV_ENC_STATUS_LEVELS = 4 * bit z + 2 * bit b + bit a) ∧
  (∀ (s : State) (t : Twin) (a b z : Bool) (x : W64), RegsOk s → twState s t ≠ tsReset → flag s t R.DRV_ENC_CFG_EN =
    true → (quadPlace a b + 4 - quadPlace (nbit (rf s t R.DRV_ENC_STATUS_LEVELS) 0) (nbit (rf s t
    R.DRV_ENC_STATUS_LEVELS) 1)) % 4 = 0 → ∃ u, exec (.encoderCount a b z x) s = .next u ∧ (u.tw t).drv = (s.tw
    t).drv ∧ rf u t R.DRV_ENC_STATUS_LEVELS = 4 * bit z + 2 * bit b + bit a) ∧
  (∀ (s : State) (t : Twin), RegsOk s → twState s t ≠ tsReset → flag s t R.DRV_ENC_CFG_EN = true → nbit (rf s t
    R.DRV_ENC_STATUS_LEVELS) 0 = true → nbit (rf s t R.DRV_ENC_STATUS_LEVELS) 1 = true → ∃ u, exec (.encoderIndex) s
    = .next u ∧ rd u t R.DRV_ENC_INDEX = (s.tw t).drv.pos.now.c ∧ flag u t R.DRV_ENC_STATUS_INDEXED = true ∧ (flag s
    t R.DRV_ENC_STATUS_INDEXED = false → flag u t R.DRV_POS_EVENT_INDEX = true) ∧ (u.tw t).drv.pos.now.indexed = true
    ∧ ((u.tw t).drv.pos.now.c = if rf s t R.DRV_ENC_CFG_INDEX_MODE = 1 ∨ rf s t R.DRV_ENC_CFG_INDEX_MODE = 2 ∧ flag s
    t R.DRV_ENC_STATUS_INDEXED = false then 0#32 else (s.tw t).drv.pos.now.c)) ∧
  (∀ (s : State) (t : Twin) (h : Fin 8) (x : W64), RegsOk s → twState s t ≠ tsReset → flag s t R.DRV_HALL_CFG_EN =
    true → h.val ≠ 0 → h.val ≠ 7 → ((rf s t R.DRV_HALL_CFG_SECTOR / 8 ^ (h.val - 1) % 8 + 6 - (s.tw t).drv.pos.hall)
    % 6 = 1 ∨ (rf s t R.DRV_HALL_CFG_SECTOR / 8 ^ (h.val - 1) % 8 + 6 - (s.tw t).drv.pos.hall) % 6 = 5) → ∃ u, exec
    (.hallChange h x) s = .next u ∧ rf u t R.DRV_HALL_STATUS_STATE = h.val ∧ rf u t R.DRV_HALL_STATUS_SECTOR = rf s t
    R.DRV_HALL_CFG_SECTOR / 8 ^ (h.val - 1) % 8 ∧ ((u.tw t).drv.pos.now.dir = if (rf s t R.DRV_HALL_CFG_SECTOR / 8 ^
    (h.val - 1) % 8 + 6 - (s.tw t).drv.pos.hall) % 6 = 1 then 1 else -1) ∧ (u.tw t).drv.pos.now.h1 = x.toNat ∧ (u.tw
    t).drv.pos.now.h0 = (s.tw t).drv.pos.now.h1) ∧
  (∀ (s : State) (t : Twin) (h : Fin 8) (x : W64), RegsOk s → twState s t ≠ tsReset → flag s t R.DRV_HALL_CFG_EN =
    true → (h.val = 0 ∨ h.val = 7) → (rd s t R.DRV_HALL_ERR).toNat < 4294967294 → ∃ u, exec (.hallChange h x) s =
    .next u ∧ rf u t R.DRV_HALL_STATUS_SECTOR = 6 ∧ rd u t R.DRV_HALL_ERR = rd s t R.DRV_HALL_ERR + 1 ∧ flag u t
    R.DRV_POS_EVENT_HALL_ERR = true)

/-- Safety functions (R362 to R372, R382). -/
def Obligations.SafetyFunctionCommandsComplete : Prop :=
  (∀ (s : State) (t : Twin) (k : Fin 4), RegsOk s → flag s t (fo R.SAF_F_CFG_EN (4 * k.val)) = true → (fnSt s t k.val
    = 2 ∨ fnSt s t k.val = 3) → chanRead s t k.val ≠ 0 → (rd s t (R.SAF_DEMANDS + 4 * k.val)).toNat < 4294967294 → ∃
    u, exec (.safetyScan t) s = .next u ∧ fnSt u t k.val = 1 ∧ flag u t R.SAF_EVENT_DEMAND = true ∧ rd u t
    (R.SAF_DEMANDS + 4 * k.val) = rd s t (R.SAF_DEMANDS + 4 * k.val) + 1) ∧
  (∀ (s : State) (t : Twin) (k : Fin 4), RegsOk s → flag s t (fo R.SAF_F_CFG_EN (4 * k.val)) = false → ∃ u, exec
    (.safetyScan t) s = .next u ∧ fnSt u t k.val = 0) ∧
  (∀ (s : State) (t : Twin), RegsOk s → flag s t R.SAF_STATUS_LOCKED = false → ∃ u, exec (.safetyScan t) s = .next u
    ∧ flag u t R.SAF_STATUS_STO = true ∧ flag u t R.SAF_STATUS_SAB = true ∧ flag u t R.SAF_STATUS_P0_ON = false ∧
    flag u t R.SAF_STATUS_P1_ON = false ∧ u.edge.bridgeOn = false) ∧
  (∀ (s : State) (t : Twin) (n : Fin 8) (x : Bool), ∃ u, exec (.sinFilterChange t n x) s = .next u ∧ (u.tw t).saf.sin
    = setBit (s.tw t).saf.sin n.val x ∧ SameRegs s u .a [] ∧ SameRegs s u .b []) ∧
  (∀ (s : State) (t : Twin) (k : Fin 4), RegsOk s → flag s t (fo R.SAF_F_CFG_EN (4 * k.val)) = true → chanRead s t
    k.val = 2 → fnSt s t k.val = 1 → (rd s t R.SAF_DISC).toNat < 4294967294 → ∃ u, exec (.discrepancyFault t k) s =
    .next u ∧ fnSt u t k.val = 4 ∧ flag u t R.SAF_EVENT_DISCREPANCY = true ∧ rd u t R.SAF_DISC = rd s t R.SAF_DISC +
    1) ∧
  (∀ (s : State) (t : Twin) (m : BitVec 4) (k : Fin 4), RegsOk s → (List.range 4).all (fun k => !(nbit m.toNat k) ||
    (ackable s .a k && ackable s .b k)) = true → m.getLsbD k.val = true → ∃ u, exec (.ack .both m) s = .next u ∧
    u.report = Rc.OK ∧ fnSt u t k.val = 3) ∧
  (∀ (s : State) (m : BitVec 4) (k : Fin 4), m.getLsbD k.val = true → (ackable s .a k.val && ackable s .b k.val) =
    false → ∃ u, exec (.ack .both m) s = .next u ∧ u.report = Rc.SOURCE_ACTIVE) ∧
  (∀ (s : State) (t : Twin) (k : Fin 4), RegsOk s → rf s t R.SAF_GCFG_DEMAND_AGE ≠ 0 → flag s t (fo R.SAF_F_CFG_EN (4
    * k.val)) = true → ((rf s t R.SAF_GCFG_DEMAND_AGE * 86400 : Nat) : Int) ≤ ((devNs s t / 1000000000) % 4294967296
    - (rd s t (R.SAF_F_LAST + 4 * k.val)).toNat) % 4294967296 → ∃ u, exec (.demandAge t k) s = .next u ∧ flag u t
    R.SAF_EVENT_DEMAND_AGE = true ∧ SameRegs s u t [R.SAF_EVENT_DEMAND_AGE.addr]) ∧
  (∀ (s : State) (t : Twin) (k : Fin 4), ((devNs s t / 1000000000) % 4294967296 - (rd s t (R.SAF_F_LAST + 4 *
    k.val)).toNat) % 4294967296 < ((rf s t R.SAF_GCFG_DEMAND_AGE * 86400 : Nat) : Int) → ∃ u, exec (.demandAge t k) s
    = .next u ∧ u = s) ∧
  (∀ (s : State) (t : Twin) (k : Fin 8), RegsOk s → twState s t ≠ tsReset → ∃ u, exec (.internalDemand t k) s = .next
    u ∧ biti u t R.SAF_STATUS_INT k.val = true ∧ flag u t R.SAF_EVENT_INTERNAL = true) ∧
  (∀ (s : State) (t : Twin) (k : Fin 8), RegsOk s → k.val ∈ goneLatches s t → ∃ u, exec (.ackInt .both) s = .next u ∧
    u.report = Rc.OK ∧ biti u t R.SAF_STATUS_INT k.val = false) ∧
  (∀ (s : State), goneLatches s .a = [] → goneLatches s .b = [] → ∃ u, exec (.ackInt .both) s = .next u ∧ u =
    { s with report := Rc.SOURCE_ACTIVE }) ∧
  (∀ (s : State) (t : Twin) (m : BitVec 4), ∃ u, exec (.ack (.one t) m) s = .next u ∧ u =
    { s with report := Rc.AGREED_ONLY }) ∧
  (∀ (s : State) (t : Twin), ∃ u, exec (.ackInt (.one t)) s = .next u ∧ u = { s with report := Rc.AGREED_ONLY }) ∧
  (∀ (s : State) (t : Twin) (d : Fin 2), RegsOk s → twState s t ≠ tsReset → (flag s t R.SAF_STATUS_STO = true ∨
    ((s.tw t).twn.linkFailed = false ∧ flag s t.other R.SAF_STATUS_STO = true)) → d.val ∈ channels s t → ∃ u, exec
    (.safetyStateRead t) s = .next u ∧ chSt u t d.val = 0 ∧ rf u t (df R.DRV_D_STATE_REASON d.val) = 5) ∧
  (∀ (s : State) (t : Twin), twState s t ≠ tsReset → ∃ u, exec (.safetyStateRead t) s = .next u ∧ (u.tw
    t).arr.safeBlock = (flag s t R.SAF_STATUS_SAB || (!((s.tw t).twn.linkFailed) && flag s t.other
    R.SAF_STATUS_SAB)))

/-- Safety outputs (R372 to R375) and checks (R376, R377). -/
def Obligations.SafetyOutputAndCheckCommandsComplete : Prop :=
  (∀ (s : State) (t : Twin) (p : Fin 2), RegsOk s → chanOn s t p.val = true → (rd s t R.SAF_OUT_FAULTS).toNat <
    4294967294 → ∃ u, exec (.soutOvercurrent t p) s = .next u ∧ rf u t ⟨R.SAF_OUT, 4 * ownChan t p.val + 3, 4 *
    ownChan t p.val⟩ = 3 ∧ biti u .a R.SAF_OUT_PAIR_FAULT p.val = true ∧ biti u .b R.SAF_OUT_PAIR_FAULT p.val = true
    ∧ rd u t R.SAF_OUT_FAULTS = rd s t R.SAF_OUT_FAULTS + 1 ∧ flag u t R.SAF_EVENT_OUT_FAULT = true) ∧
  (∀ (s : State) (t : Twin) (p : Fin 2), RegsOk s → chanOn s t p.val = true → ∃ u, exec (.soutOffPulse t p false) s =
    .next u ∧ nbit (u.tw t).saf.pulse p.val = true ∧ biti u t R.SAF_OUT_RB (ownChan t p.val) = false) ∧
  (∀ (s : State) (t : Twin) (p : Fin 2), RegsOk s → chanOn s t p.val = true → ∃ u, exec (.soutOffPulse t p true) s =
    .next u ∧ rf u t ⟨R.SAF_OUT, 4 * ownChan t p.val + 3, 4 * ownChan t p.val⟩ = 1 ∧ biti u .a R.SAF_OUT_PAIR_FAULT
    p.val = true ∧ biti u .b R.SAF_OUT_PAIR_FAULT p.val = true) ∧
  (∀ (s : State) (t : Twin) (p : Fin 2), RegsOk s → nbit (s.tw t).saf.pulse p.val = true → ∃ u, exec
    (.soutOffPulseEnd t p) s = .next u ∧ nbit (u.tw t).saf.pulse p.val = false ∧ biti u t R.SAF_OUT_RB (ownChan t
    p.val) = chanOn s t p.val) ∧
  (∀ (s : State) (t : Twin) (p : Fin 2) (h : Bool), RegsOk s → nbit (s.tw t).saf.pulse p.val = false → chanOn s t
    p.val = !h → ∃ u, exec (.soutReadbackFault t p h) s = .next u ∧ (rf u t ⟨R.SAF_OUT, 4 * ownChan t p.val + 3, 4 *
    ownChan t p.val⟩ = if h then 1 else 2) ∧ biti u .a R.SAF_OUT_PAIR_FAULT p.val = true ∧ biti u .b
    R.SAF_OUT_PAIR_FAULT p.val = true) ∧
  (∀ (s : State) (t : Twin) (l : BitVec 2) (p : Fin 2), RegsOk s → l.getLsbD p.val = true → (biti s .a
    R.SAF_OUT_PAIR_FAULT p.val || biti s .b R.SAF_OUT_PAIR_FAULT p.val) = true → ∃ u, exec (.ackOut .both l) s =
    .next u ∧ u.report = Rc.OK ∧ biti u t R.SAF_OUT_PAIR_FAULT p.val = false) ∧
  (∀ (s : State) (t : Twin) (l : BitVec 2), ∃ u, exec (.ackOut (.one t) l) s = .next u ∧ u =
    { s with report := Rc.AGREED_ONLY }) ∧
  (∀ (s : State) (t : Twin), RegsOk s → twState s t ≠ tsReset → ∃ u, exec (.crossCheck t) s = .next u ∧ flag u t
    R.SAF_STATUS_XCHK_OFF = !(twOther s t == tsFollowing || twOther s t == tsLeading) ∧ (u.tw t).saf.diff = ((twOther
    s t == tsFollowing || twOther s t == tsLeading) && sideVector s .a != sideVector s .b)) ∧
  (∀ (s : State) (t : Twin), RegsOk s → twState s t ≠ tsReset → ((s.tw t).saf.diff = true ∨ flag s .a
    R.SAF_STATUS_LOCKED = true ∧ flag s .b R.SAF_STATUS_LOCKED = true ∧ rd s .a R.SAF_PCRC ≠ rd s .b R.SAF_PCRC) → ∃
    u, exec (.smDiff t) s = .next u ∧ biti u t R.SAF_STATUS_INT 4 = true ∧ flag u t R.SAF_EVENT_SM_DIFF = true) ∧
  (∀ (s : State) (t : Twin), RegsOk s → twState s t ≠ tsReset → flag s t R.SAF_STATUS_XCHK_OFF = true → rf s t
    R.SAF_GCFG_SOLO_T ≠ 0 → ∃ u, exec (.solo t) s = .next u ∧ biti u t R.SAF_STATUS_INT 7 = true) ∧
  (∀ (s : State) (t : Twin), RegsOk s → ∃ u, exec (.paramCheck t) s = .next u ∧ rd u t R.SAF_PCRC = pcrc s t ∧ (flag
    s t R.SAF_STATUS_LOCKED = true → rd s t R.SAF_PCRC_LOCK ≠ pcrc s t → biti u t R.SAF_STATUS_INT 5 = true)) ∧
  (∀ (s : State) (t : Twin) (z : BitVec 16), RegsOk s → twState s t ≠ tsReset → ∃ u, exec (.oscCheck t z) s = .next u
    ∧ rf u t R.SAF_OSC_OSC = z.toNat ∧ (z.toNat < 15200 ∨ 16800 < z.toNat → 2 ≤ (s.tw t).saf.oscBad → biti u t
    R.SAF_STATUS_INT 6 = true) ∧ (15200 ≤ z.toNat → z.toNat ≤ 16800 → (u.tw t).saf.oscBad = 0))

/-- Safety parameters (R379 to R383); the nonce is a free value. -/
def Obligations.SafetyParameterCommandsComplete : Prop :=
  (∀ (s : State) (tg : Target) (t : Twin) (h : Fin 4) (a v : W32), RegsOk s → safetyParam a.toNat = true → groupOwner
    s 4 = some h.val → t ∈ writeTwins s tg → (twinsCode (writeTwins s tg) (fun t => if absent s t then Rc.TWIN_ABSENT
    else paramCode s t a.toNat v) = Rc.OK) → ∃ u, exec (.safetyParamWrite tg h a v) s = .next u ∧ u.report =
    Rc.CONFIRM_NEEDED ∧ (u.tw t).saf.pend.map (fun p => (p.ctx, p.addr, p.value)) = some (h.val, a.toNat, v) ∧ rd u t
    R.SAF_PEND_ADDR = a ∧ rd u t R.SAF_PEND_VAL = v ∧ rd u t a.toNat = rd s t a.toNat ∧ u.free = s.free + 1) ∧
  (∀ (s : State) (t : Twin) (h : Fin 4) (c : BitVec 16) (p : SafPend), RegsOk s → pendOf s h.val = some p →
    safetyParam p.addr = true → p.addr ≠ R.SAF_GCFG → t ∈ ((if p.a then [Twin.a] else []) ++ (if p.b then [Twin.b]
    else [])) → (twinsCode ((if p.a then [Twin.a] else []) ++ (if p.b then [Twin.b] else [])) (fun t => if absent s t
    then Rc.TWIN_ABSENT else paramCode s t p.addr p.value) = Rc.OK) → c.toNat = confirmCode p.addr p.value.toNat
    p.nonce.toNat → (findRow p.addr).isSome = true → ∃ u, exec (.safetyConfirm h c) s = .next u ∧ u.report = Rc.OK ∧
    some (rd u t p.addr) = (findRow p.addr).map (fun r => paramWord r (rd s t p.addr) p.value) ∧ (u.tw t).saf.pend ≠
    some p) ∧
  (∀ (s : State) (t : Twin) (h : Fin 4) (c : BitVec 16) (p : SafPend), RegsOk s → pendOf s h.val = some p → (s.tw
    t).saf.pend = some p → c.toNat ≠ confirmCode p.addr p.value.toNat p.nonce.toNat → ∃ u, exec (.safetyConfirm h c)
    s = .next u ∧ u.report = Rc.CONFIRM_MISMATCH ∧ (u.tw t).saf.pend = none ∧ rd u t R.SAF_PEND_ADDR = 0 ∧ flag u t
    R.SAF_EVENT_CONF_MISMATCH = true) ∧
  (∀ (s : State) (h : Fin 4) (c : BitVec 16), pendOf s h.val = none → ∃ u, exec (.safetyConfirm h c) s = .next u ∧ u
    = { s with report := Rc.NOTHING_PENDING }) ∧
  (∀ (s : State) (t : Twin), RegsOk s → (s.tw t).saf.pend ≠ none → ∃ u, exec (.confTimeout t) s = .next u ∧ (u.tw
    t).saf.pend = none ∧ ((s.tw t.other).saf.pend = (s.tw t).saf.pend → (u.tw t.other).saf.pend = none) ∧ flag u t
    R.SAF_EVENT_CONF_TIMEOUT = true ∧ rd u t R.SAF_PEND_ADDR = 0 ∧ rd u t R.SAF_PEND_VAL = 0) ∧
  (∀ (s : State) (t : Twin), RegsOk s → twState s t ≠ tsReset → (s.tw t).saf.loaded = false → ∃ u, exec
    (.safetyParamLoad t) s = .next u ∧ (u.tw t).saf.loaded = true ∧ rd u t R.SAF_PCRC = pcrc u t)

/-- Ports and redundancy (R301 to R311), ARP and echo (R334). -/
def Obligations.NetworkPortCommandsComplete : Prop :=
  (∀ (s : State) (t : Twin) (p : Fin 4) (f : NetFrame) (x : Int) (r : NetRoute), RegsOk s → twState s t ≠ tsReset →
    netOn s = true → twState s (portTwin p.val) ≠ tsReset → (xing s (portTwin p.val) (xingKey 4 true)).dead = false →
    f.fcs = true → 64 ≤ f.len → f.len ≤ 1536 → f.ether ≠ 0x8808#16 → serving s p.val = true → hsr s = false → routeOf
    s f = some r → (f.seq = none ∨ r = .sv ∨ r = .goose ∨ r = .ptp) → r ≠ .ip → (t = portTwin p.val ∨ (s.tw
    t).twn.linkFailed = false) → (rd s (portTwin p.val) (R.NET_P_RX_OK + 64 * p.val)).toNat < 4294967294 → ∃ u, exec
    (.netFrameReceive p f x) s = .next u ∧ u.net.route = some r ∧ rd u t (R.NET_P_RX_OK + 64 * p.val) = rd s
    (portTwin p.val) (R.NET_P_RX_OK + 64 * p.val) + 1 ∧ u.net.dd = s.net.dd) ∧
  (∀ (s : State) (t : Twin) (p : Fin 4) (f : NetFrame) (x : Int) (r : NetRoute) (q : BitVec 16) (e : DdEntry), RegsOk
    s → twState s t ≠ tsReset → netOn s = true → twState s (portTwin p.val) ≠ tsReset → (xing s (portTwin p.val)
    (xingKey 4 true)).dead = false → f.fcs = true → 64 ≤ f.len → f.len ≤ 1536 → f.ether ≠ 0x8808#16 → serving s p.val
    = true → hsr s = false → routeOf s f = some r → (r = .arp ∨ r = .ip ∨ r = .supervision) → f.seq = some q →
    s.net.dd.find? (fun e => e.src == f.src) = some e → (ddJudge e.a q.toNat).1 = 1 → (rd s t R.NET_DD_DUP).toNat <
    4294967294 → ∃ u, exec (.netFrameReceive p f x) s = .next u ∧ u.net.route = some .dropped ∧ rd u t R.NET_DD_DUP =
    rd s t R.NET_DD_DUP + 1) ∧
  (∀ (s : State) (t : Twin) (p : Fin 4) (f : NetFrame) (x : Int), RegsOk s → twState s t ≠ tsReset → netOn s = true →
    twState s (portTwin p.val) ≠ tsReset → (xing s (portTwin p.val) (xingKey 4 true)).dead = false → f.fcs = false →
    (t = portTwin p.val ∨ (s.tw t).twn.linkFailed = false) → (rd s (portTwin p.val) (R.NET_P_RX_FCS + 64 *
    p.val)).toNat < 4294967294 → ∃ u, exec (.netFrameReceive p f x) s = .next u ∧ u.net.route = some .dropped ∧ rd u
    t (R.NET_P_RX_FCS + 64 * p.val) = rd s (portTwin p.val) (R.NET_P_RX_FCS + 64 * p.val) + 1 ∧ rd u t (R.NET_P_RX_OK
    + 64 * p.val) = rd s (portTwin p.val) (R.NET_P_RX_OK + 64 * p.val)) ∧
  (∀ (s : State) (t : Twin) (p : Fin 4) (f : OutFrame) (r : List (Twin × OutFrame)), s.net.relay = (t, f) :: r →
    leader s = some t → portTwin p.val ≠ t → lanPort s 1 = some p.val → inPair s (portTwin p.val) = true → portLink s
    p.val = true → (xing s (portTwin p.val) (xingKey 4 false)).dead = false → ∃ u, exec (.prpCopyRelay) s = .next u ∧
    u.net.relay = r ∧ (p.val, f) ∈ u.net.tx) ∧
  (∀ (s : State) (t : Twin) (x : Fin 2), RegsOk s → twState s t ≠ tsReset → mayTakeOver s x.val = true → ∃ u, exec
    (.portTakeover x) s = .next u ∧ lanPort u x.val = some (backPort x.val) ∧ flag u t R.NET_EVENT_PORT_TAKEOVER =
    true ∧ u.net.seq = (s.net.seq + 1) % 65536) ∧
  (∀ (s : State) (t : Twin) (x : Fin 2), RegsOk s → twState s t ≠ tsReset → lanPort s x.val = some (backPort x.val) →
    inPair s (portTwin (ownPort x.val)) = true → portLink s (ownPort x.val) = true → ∃ u, exec (.portReturn x) s =
    .next u ∧ lanPort u x.val = some (ownPort x.val) ∧ flag u t R.NET_EVENT_PORT_RETURN = true) ∧
  (∀ (s : State) (x : BitVec 48), ∃ u, exec (.ddEntryForget x) s = .next u ∧ u.net.dd = s.net.dd.filter (fun e =>
    e.src != x)) ∧
  (∀ (s : State) (p : Fin 4), lanPort s 0 = some p.val → inPair s (portTwin p.val) = true → portLink s p.val = true →
    (xing s (portTwin p.val) (xingKey 4 false)).dead = false → ∃ u, exec (.supervisionFrame) s = .next u ∧ (p.val,
    { kind := .supervision, seq := some s.net.seq }) ∈ u.net.tx ∧ u.net.seq = (s.net.seq + 1) % 65536) ∧
  (∀ (s : State) (t : Twin) (p : Fin 4) (x y z h : Bool) (m : Fin 3) (c : BitVec 16), RegsOk s → twState s t ≠
    tsReset → twState s (portTwin p.val) ≠ tsReset → (t = portTwin p.val ∨ (s.tw t).twn.linkFailed = false) → (flag s
    (netTwin s) (npf R.NET_P_CFG_SGMII p.val) = false ∨ m.val = 2) → ∃ u, exec (.portLinkChange p x y z h m c) s =
    .next u ∧ portLink u p.val = (x && y && !h) ∧ rf u t (npf R.NET_P_STATUS_LINK p.val) = bit (x && y && !h) ∧ rf u
    t (npf R.NET_P_STATUS_SYNC p.val) = bit y ∧ rf u t (npf R.NET_P_STATUS_AN_DONE p.val) = bit z) ∧
  (∀ (s : State) (p : Fin 4) (w x : W32) (m : BitVec 48), netOn s = true → w = rd s (netTwin s) R.NET_IP → leader s =
    some (portTwin p.val) → (xing s (netTwin s) (xingKey 4 true)).dead = false → lanPort s 0 = some p.val → inPair s
    (portTwin p.val) = true → portLink s p.val = true → (xing s (portTwin p.val) (xingKey 4 false)).dead = false → ∃
    u, exec (.arpRequest w x m) s = .next u ∧ u.net.arp.head? = some (x, m) ∧ (p.val,
    { kind := .arp, seq := some s.net.seq, words := [x, BitVec.ofNat 32 (m.toNat / 4294967296), BitVec.ofNat 32 m.toNat] })
    ∈ u.net.tx ∧ ((lanPort s 1).any (fun o => decide (portTwin o = portTwin p.val)) = false → u.net.tx = s.net.tx ++
    [(p.val,
    { kind := .arp, seq := some s.net.seq, words := [x, BitVec.ofNat 32 (m.toNat / 4294967296), BitVec.ofNat 32 m.toNat] })])) ∧
  (∀ (s : State) (p : Fin 4) (x : W32) (b : List Byte), netOn s = true → b.length ≤ 1472 → (s.net.echo.filter (fun e
    => decide (devNs s (netTwin s) - e < 1000000000))).length < 10 → leader s = some (portTwin p.val) → (xing s
    (netTwin s) (xingKey 4 true)).dead = false → lanPort s 0 = some p.val → inPair s (portTwin p.val) = true →
    portLink s p.val = true → (xing s (portTwin p.val) (xingKey 4 false)).dead = false → ∃ u, exec (.icmpEcho x b) s
    = .next u ∧ u.net.echo.head? = some (devNs s (netTwin s)) ∧ (p.val,
    { kind := .echo, seq := some s.net.seq, words := x :: arpMac s x, bytes := b }) ∈ u.net.tx ∧ ((lanPort s 1).any
    (fun o => decide (portTwin o = portTwin p.val)) = false → u.net.tx = s.net.tx ++ [(p.val,
    { kind := .echo, seq := some s.net.seq, words := x :: arpMac s x, bytes := b })])) ∧
  (∀ (s : State) (x : W32), ∃ u, exec (.arpEntryExpire x) s = .next u ∧ u.net.arp = s.net.arp.filter (fun e => e.1 !=
    x))

/-- Sampled values (R312 to R316) and GOOSE (R317 to R319). -/
def Obligations.SampledValueAndGooseCommandsComplete : Prop :=
  (∀ (s : State) (t : Twin) (i : Fin 8) (x : Fin 2) (m : SvMsg), RegsOk s → takesLan s t x.val = true → (xing s
    (lanTwin s x.val) (xingKey 4 true)).dead = false → svMatches s t i.val m = true → m.asdus ≠ [] → (rd s t
    (R.NET_SVS_MSGS + 32 * i.val)).toNat < 4294967294 → ∃ u, exec (.svReceive t i x m) s = .next u ∧ rd u t
    (R.NET_SVS_MSGS + 32 * i.val) = rd s t (R.NET_SVS_MSGS + 32 * i.val) + 1 ∧ rf u t (svf R.NET_SVS_STAT_STATE
    i.val) = 1 ∧ tabGet [] (u.tw t).net.sv (2 * i.val + x.val) = ((m.asdus.map (svCopyOf s t i.val)).reverse ++
    tabGet [] (s.tw t).net.sv (2 * i.val + x.val)).take 64) ∧
  (∀ (s : State) (t : Twin) (i : Fin 8) (x : Fin 2) (m : SvMsg), RegsOk s → takesLan s t x.val = true → (xing s
    (lanTwin s x.val) (xingKey 4 true)).dead = false → svMatches s t i.val m = false → (rd s t (R.NET_SVS_REJECT + 32
    * i.val)).toNat < 4294967294 → ∃ u, exec (.svReceive t i x m) s = .next u ∧ rd u t (R.NET_SVS_REJECT + 32 *
    i.val) = rd s t (R.NET_SVS_REJECT + 32 * i.val) + 1 ∧ u.net = s.net ∧ (u.tw t).net = (s.tw t).net) ∧
  (∀ (s : State) (t : Twin) (i : Fin 8), RegsOk s → computing s t = true → rf s t (svf R.NET_SVS_STAT_STATE i.val) ≠
    3 → ∃ u, exec (.svLost i) s = .next u ∧ rf u t (svf R.NET_SVS_STAT_STATE i.val) = 3 ∧ flag u t
    R.NET_EVENT_SV_LOST = true) ∧
  (∀ (s : State) (t l : Twin) (j : Fin 4) (x : BitVec 16), RegsOk s → computing s t = true → leader s = some l →
    netOn s = true → svChans s l (svPubBase j.val) ≠ 0 → x.toNat < svRate s l (svPubBase j.val) → (rd s t
    (R.NET_SVP_MSGS + 32 * j.val)).toNat < 4294967294 → ∃ u, exec (.svPublish j x) s = .next u ∧ rd u t
    (R.NET_SVP_MSGS + 32 * j.val) = rd s t (R.NET_SVP_MSGS + 32 * j.val) + 1 ∧ rf u t (svf R.NET_SVP_STAT_STATE
    j.val) = 1 ∧ rf u t (svf R.NET_SVP_STAT_LAST_CNT j.val) = (x.toNat + svAsdus s l (svPubBase j.val) - 1) % svRate
    s l (svPubBase j.val) ∧ u.net.seq = (s.net.seq + 1) % 65536) ∧
  (∀ (s : State) (t : Twin) (i : Fin 32) (x : Fin 2) (m : GooseMsg), RegsOk s → takesLan s t x.val = true → (xing s
    (lanTwin s x.val) (xingKey 4 true)).dead = false → gooseMatches s t i.val m = true → gooseLayout s t i.val m =
    true → ∃ u, exec (.gooseReceive t i x m) s = .next u ∧ rf u t (gsf R.NET_GS_STATE_STATE i.val) = 1 ∧ (u.tw
    t).net.gs = tabPut true (s.tw t).net.gs (2 * i.val + x.val) ⟨m.stNum, m.sqNum, devNs s t + (m.tal * 1000000 :
    Nat), gooseVals m.items⟩) ∧
  (∀ (s : State) (t : Twin) (i : Fin 32) (x : Fin 2) (m : GooseMsg), RegsOk s → takesLan s t x.val = true → (xing s
    (lanTwin s x.val) (xingKey 4 true)).dead = false → gooseLayout s t i.val m = false → (rd s t (R.NET_GS_REJECT +
    16 * i.val)).toNat < 4294967294 → ∃ u, exec (.gooseReceive t i x m) s = .next u ∧ rd u t (R.NET_GS_REJECT + 16 *
    i.val) = rd s t (R.NET_GS_REJECT + 16 * i.val) + 1 ∧ flag u t R.NET_EVENT_GOOSE_LAYOUT = true ∧ (u.tw t).net =
    (s.tw t).net) ∧
  (∀ (s : State) (t : Twin) (i : Fin 32) (x : Fin 2) (m : GooseMsg), RegsOk s → takesLan s t x.val = true → (xing s
    (lanTwin s x.val) (xingKey 4 true)).dead = false → gooseMatches s t i.val m = false → gooseLayout s t i.val m =
    true → (rd s t (R.NET_GS_REJECT + 16 * i.val)).toNat < 4294967294 → ∃ u, exec (.gooseReceive t i x m) s = .next u
    ∧ rd u t (R.NET_GS_REJECT + 16 * i.val) = rd s t (R.NET_GS_REJECT + 16 * i.val) + 1 ∧ (u.tw t).net = (s.tw t).net
    ∧ SameRegs s u t [R.NET_GS_REJECT + 16 * i.val]) ∧
  (∀ (s : State) (t : Twin) (i : Fin 32), RegsOk s → computing s t = true → gooseAt s t i.val (devNs s t) = none → rf
    s t (gsf R.NET_GS_STATE_STATE i.val) ≠ 2 → ∃ u, exec (.gooseLost i) s = .next u ∧ rf u t (gsf
    R.NET_GS_STATE_STATE i.val) = 2 ∧ flag u t R.NET_EVENT_GOOSE_LOST = true) ∧
  (∀ (s : State) (t : Twin) (j : Fin 8), RegsOk s → computing s t = true → (tabGet {} (s.tw t).net.gp j.val).last ≠
    none → ∃ u, exec (.gooseRepeat j) s = .next u ∧ rd u t (R.NET_GP_SQNUM + 16 * j.val) = gooseNext (rd s t
    (R.NET_GP_SQNUM + 16 * j.val)) ∧ rd u t (R.NET_GP_STNUM + 16 * j.val) = rd s t (R.NET_GP_STNUM + 16 * j.val))

/-- PTP (R323 to R330). -/
def Obligations.PtpCommandsComplete : Prop :=
  (∀ (s : State) (t : Twin) (x : Fin 2) (m : PtpMsg), RegsOk s → computing s t = true → ptpTakes s x.val m.domain =
    true → fromSelected s x.val m = true → (xing s (lanTwin s x.val) (xingKey 4 true)).dead = false → m.twoStep =
    true → ∃ u, exec (.ptpSyncReceive x m) s = .next u ∧ (u.tw t).tm.wait = some m) ∧
  (∀ (s : State) (t : Twin) (x : Fin 2) (m : PtpMsg), RegsOk s → computing s t = true → ptpTakes s x.val m.domain =
    true → fromSelected s x.val m = true → (xing s (lanTwin s x.val) (xingKey 4 true)).dead = false → m.twoStep =
    false → rf s (lanTwin s x.val) R.TIME_CFG_SRC = 0 → ∃ u, exec (.ptpSyncReceive x m) s = .next u ∧ rd u t
    R.TIME_OFFSET = sat32 ((m.origin + m.corr + lanDelay s x.val - m.stamp).tdiv nsU)) ∧
  (∀ (s : State) (t : Twin) (p : Fin 4) (x : Fin 2) (m w : PtpMsg), RegsOk s → computing s t = true → ptpTakes s
    x.val m.domain = true → fromSelected s x.val m = true → (xing s (lanTwin s x.val) (xingKey 4 true)).dead = false
    → (xing s (portTwin p.val) (xingKey 4 true)).dead = false → lanPort s x.val = some p.val → (x.val = 1 → lanPort s
    0 ≠ some p.val) → rf s (lanTwin s x.val) R.TIME_CFG_SRC = 0 → (s.tw (netTwin s)).tm.wait = some w → w.seq = m.seq
    → ∃ u, exec (.followUpReceive false p m) s = .next u ∧ rd u t R.TIME_OFFSET = sat32 ((m.origin + w.corr + m.corr
    + lanDelay s x.val - w.stamp).tdiv nsU) ∧ (u.tw t).tm.wait = none) ∧
  (∀ (s : State) (p : Fin 4) (m : PtpMsg) (v : Int), (xing s (portTwin p.val) (xingKey 4 true)).dead = false →
    inDomain s m.domain = true → (tabGet {} (s.tw (portTwin p.val)).tm.pdelay p.val).wait = some (m.seq.toNat, v) → ∃
    u, exec (.followUpReceive true p m) s = .next u ∧ (u.tw (portTwin p.val)).tm.pdelay = tabMod {} (s.tw (portTwin
    p.val)).tm.pdelay p.val (fun y => { y with sent := none, wait := none, delay := (v - m.origin - m.corr) / 2 })) ∧
  (∀ (s : State) (t : Twin) (x : Fin 2) (m : Announce), RegsOk s → (xing s (lanTwin s x.val) (xingKey 4 true)).dead =
    false → computing s t = true → ptpTakes s x.val m.domain = true → m.sender ≠ clockId s → (foreign s x.val).all
    (fun b => b.sender == m.sender || better m b) = true → (rd s (lanTwin s x.val) R.TIME_ANN_RX).toNat < 4294967294
    → ∃ u, exec (.ptpAnnounceReceive x m) s = .next u ∧ tabGet none (u.tw t).tm.masters x.val = some m ∧ rd u
    (lanTwin s x.val) R.TIME_ANN_RX = rd s (lanTwin s x.val) R.TIME_ANN_RX + 1) ∧
  (∀ (s : State) (t : Twin) (x : Fin 2) (m b : Announce), RegsOk s → (xing s (lanTwin s x.val) (xingKey 4 true)).dead
    = false → computing s t = true → ptpTakes s x.val m.domain = true → m.sender ≠ clockId s → foreign s x.val = some
    b → b.sender ≠ m.sender → better m b = false → (rd s (lanTwin s x.val) R.TIME_ANN_RX).toNat < 4294967294 → ∃ u,
    exec (.ptpAnnounceReceive x m) s = .next u ∧ (u.tw t).tm.masters = (s.tw t).tm.masters ∧ rd u (lanTwin s x.val)
    R.TIME_ANN_RX = rd s (lanTwin s x.val) R.TIME_ANN_RX + 1) ∧
  (∀ (s : State) (p : Fin 4), serving s p.val = true → rf s (netTwin s) R.TIME_CFG_ROLE ≠ 2 → inPair s (portTwin
    p.val) = true → portLink s p.val = true → (xing s (portTwin p.val) (xingKey 4 false)).dead = false → ∃ u, exec
    (.pdelayReqSend p) s = .next u ∧ (u.tw (portTwin p.val)).tm.pdelay = tabMod {} (s.tw (portTwin p.val)).tm.pdelay
    p.val (fun y =>
    { y with next := (y.next + 1) % 65536, sent := some (y.next, devTime s (portTwin p.val)), wait := none }) ∧
    u.net.tx = s.net.tx ++ [(p.val, ptpFrame s p.val
    { kind := .pdelayReq, words := [BitVec.ofNat 32 (tabGet {} (s.tw (portTwin p.val)).tm.pdelay p.val).next] })]) ∧
  (∀ (s : State) (p : Fin 4) (q : PdelayReq) (n : Nat), (xing s (portTwin p.val) (xingKey 4 true)).dead = false →
    (xing s (portTwin p.val) (xingKey 4 false)).dead = false → inDomain s q.domain = true → serving s p.val = true →
    rf s (netTwin s) R.TIME_CFG_ROLE ≠ 2 → inPair s (portTwin p.val) = true → portLink s p.val = true → ∃ u, exec
    (.pdelayReqReceive p q n) s = .next u ∧ u.net.tx = s.net.tx ++ [(p.val, ptpFrame s p.val
    { kind := .pdelayResp, words := [BitVec.ofNat 32 q.seq.toNat, 0#32], corr := n })]) ∧
  (∀ (s : State) (p : Fin 4) (m : PtpMsg) (v : Int), (xing s (portTwin p.val) (xingKey 4 true)).dead = false →
    inDomain s m.domain = true → (tabGet {} (s.tw (portTwin p.val)).tm.pdelay p.val).sent = some (m.seq.toNat, v) → ∃
    u, exec (.pdelayRespReceive p m) s = .next u ∧ (m.twoStep = false → (u.tw (portTwin p.val)).tm.pdelay = tabMod {}
    (s.tw (portTwin p.val)).tm.pdelay p.val (fun y =>
    { y with sent := none, wait := none, delay := (m.stamp - v - m.corr) / 2 })) ∧ (m.twoStep = true → (u.tw
    (portTwin p.val)).tm.pdelay = tabMod {} (s.tw (portTwin p.val)).tm.pdelay p.val (fun y =>
    { y with sent := none, wait := some (m.seq.toNat, m.stamp - v + m.origin - m.corr) }))) ∧
  (∀ (s : State) (p : Fin 4), RegsOk s → ((tabGet {} (s.tw (portTwin p.val)).tm.pdelay p.val).sent ≠ none ∨ (tabGet
    {} (s.tw (portTwin p.val)).tm.pdelay p.val).wait ≠ none) → (rd s (portTwin p.val) R.TIME_PDELAY_TO).toNat <
    4294967294 → ∃ u, exec (.pdelayTimeout p) s = .next u ∧ (u.tw (portTwin p.val)).tm.pdelay = tabMod {} (s.tw
    (portTwin p.val)).tm.pdelay p.val (fun y => { y with sent := none, wait := none }) ∧ rd u (portTwin p.val)
    R.TIME_PDELAY_TO = rd s (portTwin p.val) R.TIME_PDELAY_TO + 1) ∧
  (∀ (s : State) (t : Twin) (x : Fin 2), RegsOk s → computing s t = true → rf s (netTwin s) R.TIME_CFG_SRC = 0 →
    clkState s ≠ 0 → clkState s < 4 → ∃ u, exec (.ptpHoldover false x) s = .next u ∧ rf u t R.TIME_STATUS_STATE = 4 ∧
    flag u t R.TIME_EVENT_LOST = true) ∧
  (∀ (s : State) (t : Twin) (x : Fin 2), RegsOk s → computing s t = true → bestLan (selectMaster (modTms s (fun y =>
    { y with masters := tabSet none y.masters x.val none })) true) = none → rf s (netTwin s) R.TIME_CFG_SRC = 0 →
    clkState s ≠ 0 → clkState s < 4 → ∃ u, exec (.ptpHoldover true x) s = .next u ∧ rf u t R.TIME_STATUS_STATE = 4 ∧
    flag u t R.TIME_EVENT_LOST = true) ∧
  (∀ (s : State) (t : Twin) (x : Fin 2), RegsOk s → (bestLan (selectMaster (modTms s (fun y =>
    { y with masters := tabSet none y.masters x.val none })) true) ≠ none ∨ rf s (netTwin s) R.TIME_CFG_SRC ≠ 0) → ∃
    u, exec (.ptpHoldover true x) s = .next u ∧ rf u t R.TIME_STATUS_STATE = rf s t R.TIME_STATUS_STATE ∧ flag u t
    R.TIME_EVENT_LOST = flag s t R.TIME_EVENT_LOST ∧ u.net = s.net) ∧
  (∀ (s : State) (x : Fin 2), (rf s (netTwin s) R.TIME_CFG_SRC ≠ 0 ∨ clkState s = 0 ∨ clkState s = 4 ∨ clkState s =
    5) → ∃ u, exec (.ptpHoldover false x) s = .next u ∧ u = s) ∧
  (∀ (s : State) (t : Twin), RegsOk s → computing s t = true → clkState s = 4 → ∃ u, exec (.ptpFreerun) s = .next u ∧
    rf u t R.TIME_STATUS_STATE = 5 ∧ flag u t R.TIME_EVENT_FREERUN = true) ∧
  (∀ (s : State) (p : Fin 4), flag s (netTwin s) R.TIME_STATUS_MASTER = true → serving s p.val = true → inPair s
    (portTwin p.val) = true → portLink s p.val = true → (xing s (portTwin p.val) (xingKey 4 false)).dead = false → ∃
    u, exec (.ptpMasterSend p) s = .next u ∧ u.net.tx.map (fun e => (e.1, e.2.kind, e.2.port)) = s.net.tx.map (fun e
    => (e.1, e.2.kind, e.2.port)) ++ [(p.val, .announce, ptpPort s p.val), (p.val, .sync, ptpPort s p.val)] ∧
    u.net.tx.getLast?.map (·.2.corr) = some (devTime s (portTwin p.val) % nsU) ∧ u.net.tx.getLast?.map (·.2.words) =
    some [BitVec.ofInt 32 (devTime s (portTwin p.val) / secU / 4294967296 % 65536), BitVec.ofInt 32 (devTime s
    (portTwin p.val) / secU), BitVec.ofInt 32 (devTime s (portTwin p.val) % secU / nsU)]) ∧
  (∀ (s : State) (t : Twin), RegsOk s → computing s t = true → flag s t R.TIME_UTC_LEAP61 = true → ∃ u, exec (.leap)
    s = .next u ∧ rf u t R.TIME_UTC_UTC = (rf s t R.TIME_UTC_UTC + 1) % 65536 ∧ flag u t R.TIME_EVENT_LEAP = true) ∧
  (∀ (s : State) (t : Twin), RegsOk s → computing s t = true → flag s t R.TIME_UTC_LEAP61 = false → flag s t
    R.TIME_UTC_LEAP59 = true → ∃ u, exec (.leap) s = .next u ∧ rf u t R.TIME_UTC_UTC = (rf s t R.TIME_UTC_UTC +
    65535) % 65536 ∧ flag u t R.TIME_EVENT_LEAP = true)

/-- Device time (R320 to R322, R331, R332, R337). -/
def Obligations.DeviceTimeCommandsComplete : Prop :=
  (∀ (s : State) (t : Twin) (w : W32), RegsOk s → (s.tw t).tm.next = some w → ∃ u, exec (.rateChange t) s = .next u ∧
    rd u t R.TIME_RATE = w ∧ (u.tw t).ofs = ((s.tw t).ofs * 16777216 + ((s.tw t).tb.toNat : Int) * ((rd s t
    R.TIME_RATE).toInt - w.toInt)).tdiv 16777216 ∧ (u.tw t).tm.next = none ∧ (u.tw t).tm.rates = (w :: (s.tw
    t).tm.rates).take 16) ∧
  (∀ (s : State) (l : Twin) (r : Fin 19), RegsOk s → leader s = some l → tsBoot ≤ twState s l.other → twState s
    l.other ≤ tsFollowing → ∃ u, exec (.twinTimeAlign r) s = .next u ∧ devTime u l.other - devTime u l = (r.val :
    Int) - 9 ∧ rd u l.other R.TIME_RATE = rd s l R.TIME_RATE ∧ devTime u l = devTime s l) ∧
  (∀ (s : State) (t : Twin) (w : W32), RegsOk s → ∃ u, exec (.twinAlign t w) s = .next u ∧ rd u t R.TIME_TWIN_DIFF =
    w ∧ (1000 < w.toInt.natAbs → flag u t R.TIME_EVENT_TWIN_ALIGN = true)) ∧
  (∀ (s : State) (t : Twin), RegsOk s → computing s t = true → timeIdle s = true → ∃ u, exec (.step .both) s = .next
    u ∧ u.report = Rc.OK ∧ devTime u t = setTarget s t ∧ flag u t R.TIME_EVENT_STEPPED = true) ∧
  (∀ (s : State), timeIdle s = false → ∃ u, exec (.step .both) s = .next u ∧ u = { s with report := Rc.TIME_ACTIVE }) ∧
  (∀ (s : State) (t : Twin), ∃ u, exec (.step (.one t)) s = .next u ∧ u = { s with report := Rc.AGREED_ONLY }) ∧
  (∀ (s : State) (t : Twin), RegsOk s → ∃ u, exec (.timeSnap t) s = .next u ∧ u.report = Rc.OK ∧ rd u t R.TIME_SEC_LO
    = BitVec.ofInt 32 (devTime s t / secU) ∧ rf u t R.TIME_SEC_HI_SEC_HI = (devTime s t / secU / 4294967296 %
    65536).toNat ∧ rd u t R.TIME_NS = BitVec.ofInt 32 (devTime s t % secU / nsU) ∧ rf u t R.TIME_FRAC_FRAC = (devTime
    s t % nsU).toNat ∧ rd u t R.TIME_CNT_LO = BitVec.ofNat 32 (s.tw t).tb.toNat ∧ rd u t R.TIME_CNT_HI = BitVec.ofNat
    32 ((s.tw t).tb.toNat / 4294967296)) ∧
  (∀ (s : State) (t : Twin) (z : Int), RegsOk s → computing s t = true → flag s (netTwin s) R.TIME_PPS_IN_IN_EN =
    true → ∃ u, exec (.ppsInEdge z) s = .next u ∧ rd u t R.TIME_IN_STAMP = BitVec.ofInt 32 ((z - (rf s (netTwin s)
    R.TIME_PPS_IN_CABLE : Int) * nsU) % secU / nsU) ∧ (rf s (netTwin s) R.TIME_CFG_SRC = 1 → rd u t R.TIME_PPS_SEC =
    rd s t R.TIME_PPS_SEC + 1)) ∧
  (∀ (s : State) (t : Twin), RegsOk s → computing s t = true → flag s t R.TIME_PPS_IN_IN_EN = true → (rd s t
    R.TIME_PPS_MISS).toNat < 4294967294 → ∃ u, exec (.ppsMiss) s = .next u ∧ rd u t R.TIME_PPS_MISS = rd s t
    R.TIME_PPS_MISS + 1) ∧
  (∀ (s : State) (t : Twin) (x : Bool), s.ilk.pins = some t → ∃ u, exec (.ppsOutPulse x) s = .next u ∧ u =
    { s with net := { s.net with ppsOut := x && flag s t R.TIME_PPS_OUT_OUT_EN && decide (rf s t R.TIME_STATUS_STATE ≠ 0) } }) ∧
  (∀ (s : State) (x : Bool), s.ilk.pins = none → ∃ u, exec (.ppsOutPulse x) s = .next u ∧ u =
    { s with net := { s.net with ppsOut := false } } ∧ ppsLevel u = none)

/-- Reception (R342 to R346), receive errors (R352), transports (R356), time master (R355). -/
def Obligations.CanReceptionCommandsComplete : Prop :=
  (∀ (s : State) (t : Twin) (b : Fin 2) (f : CanFrame) (x : BitVec 40), RegsOk s → TabsOk s → twState s t ≠ tsReset →
    (xing s t (xingKey 5 true)).dead = false → (canState s t b.val = 1 ∨ canState s t b.val = 2) → (f.fdf = false ∨
    flag s t (bfld R.CAN_B_CTRL_FD_EN b.val) = true) → hpMatches s t b.val f = false → (List.range 128).find?
    (objMatches s t b.val f) = none → (rd s t (R.CAN_B_RX_UNMATCHED + 65536 * b.val)).toNat < 4294967294 → ∃ u, exec
    (.canFrameReceive b f x) s = .next u ∧ rd u t (R.CAN_B_RX_UNMATCHED + 65536 * b.val) = rd s t
    (R.CAN_B_RX_UNMATCHED + 65536 * b.val) + 1) ∧
  (∀ (s : State) (t : Twin) (b : Fin 2) (f : CanFrame) (m : Fin 128) (x : BitVec 40), RegsOk s → TabsOk s → twState s
    t ≠ tsReset → (xing s t (xingKey 5 true)).dead = false → (canState s t b.val = 1 ∨ canState s t b.val = 2) →
    (f.fdf = false ∨ flag s t (bfld R.CAN_B_CTRL_FD_EN b.val) = true) → (can s t b.val).active = none → hpMatches s t
    b.val f = false → (List.range 128).find? (objMatches s t b.val f) = some m.val → flag s t (ofld
    R.CAN_B_OBJ_CTL_LOCKED b.val m.val) = false → (rd s t (R.CAN_B_RX_OK + 65536 * b.val)).toNat < 4294967294 → ∃ u,
    exec (.canFrameReceive b f x) s = .next u ∧ rd u t (R.CAN_B_RX_OK + 65536 * b.val) = rd s t (R.CAN_B_RX_OK +
    65536 * b.val) + 1 ∧ objStat u t b.val m.val = 1 ∧ rf u t (ofld R.CAN_B_OBJ_ID_ID b.val m.val) = f.id.toNat ∧ rf
    u t (ofld R.CAN_B_OBJ_CTL_DLC b.val m.val) = f.dlc.val ∧ rd u t (objAddr R.CAN_B_OBJ_STAMP_LO b.val m.val) =
    BitVec.ofNat 32 x.toNat ∧ (flag s t (ofld R.CAN_B_OBJ_MASK_NOTIFY b.val m.val) = true → flag u t (bfld
    R.CAN_B_EVENT_RX b.val) = true)) ∧
  (∀ (s : State) (t : Twin) (b : Fin 2) (f : CanFrame) (x : BitVec 40), RegsOk s → TabsOk s → twState s t ≠ tsReset →
    (xing s t (xingKey 5 true)).dead = false → (canState s t b.val = 1 ∨ canState s t b.val = 2) → (f.fdf = false ∨
    flag s t (bfld R.CAN_B_CTRL_FD_EN b.val) = true) → (can s t b.val).active = none → hpMatches s t b.val f = true →
    flag s t (ofld R.CAN_B_OBJ_CTL_LOCKED b.val 128) = false → (rd s t (R.CAN_B_RX_OK + 65536 * b.val)).toNat <
    4294967294 → ∃ u, exec (.canFrameReceive b f x) s = .next u ∧ rd u t (R.CAN_B_RX_OK + 65536 * b.val) = rd s t
    (R.CAN_B_RX_OK + 65536 * b.val) + 1 ∧ objStat u t b.val 128 = 1 ∧ rf u t (ofld R.CAN_B_OBJ_ID_ID b.val 128) =
    f.id.toNat ∧ rf u t (ofld R.CAN_B_OBJ_CTL_DLC b.val 128) = f.dlc.val ∧ rd u t (objAddr R.CAN_B_OBJ_STAMP_LO b.val
    128) = BitVec.ofNat 32 x.toNat) ∧
  (∀ (s : State) (t : Twin) (b : Fin 2) (f : CanFrame) (m : Fin 129) (x : BitVec 40), RegsOk s → TabsOk s → twState s
    t ≠ tsReset → (xing s t (xingKey 5 true)).dead = false → (canState s t b.val = 1 ∨ canState s t b.val = 2) →
    (f.fdf = false ∨ flag s t (bfld R.CAN_B_CTRL_FD_EN b.val) = true) → (can s t b.val).active = none → (m.val = 128
    ∧ hpMatches s t b.val f = true ∨ hpMatches s t b.val f = false ∧ (List.range 128).find? (objMatches s t b.val f)
    = some m.val) → flag s t (ofld R.CAN_B_OBJ_CTL_LOCKED b.val m.val) = true → ∃ u, exec (.canFrameReceive b f x) s
    = .next u ∧ tabGet
    ({ id := 0, ide := false, rtr := false, fdf := false, brs := false, esi := false, dlc := 0, data := [] }, 0) (can
    u t b.val).hold m.val = (f, x.toNat) ∧ flag u t (ofld R.CAN_B_OBJ_CTL_HELD b.val m.val) = true ∧ objStat u t
    b.val m.val = objStat s t b.val m.val) ∧
  (∀ (s : State) (t : Twin) (b : Fin 2) (f : CanFrame) (x : BitVec 40), RegsOk s → TabsOk s → twState s t ≠ tsReset →
    (xing s t (xingKey 5 true)).dead = false → (canState s t b.val = 1 ∨ canState s t b.val = 2) → f.fdf = true →
    flag s t (bfld R.CAN_B_CTRL_FD_EN b.val) = false → (can s t b.val).closing = false → wasArriving s t b.val
    x.toNat = false → (rd s t (R.CAN_B_PEX + 65536 * b.val)).toNat < 4294967294 → ∃ u, exec (.canFrameReceive b f x)
    s = .next u ∧ rd u t (R.CAN_B_PEX + 65536 * b.val) = rd s t (R.CAN_B_PEX + 65536 * b.val) + 1 ∧ canState u t
    b.val = 5 ∧ flag u t (bfld R.CAN_B_EVENT_PEX b.val) = true) ∧
  (∀ (s : State) (t : Twin) (b : Fin 2) (f : CanFrame) (x : BitVec 40), RegsOk s → TabsOk s → twState s t ≠ tsReset →
    (xing s t (xingKey 5 true)).dead = false → f.fdf = true → flag s t (bfld R.CAN_B_CTRL_FD_EN b.val) = false →
    wasArriving s t b.val x.toNat = true → (rd s t (R.CAN_B_PEX + 65536 * b.val)).toNat < 4294967294 → ∃ u, exec
    (.canFrameReceive b f x) s = .next u ∧ rd u t (R.CAN_B_PEX + 65536 * b.val) = rd s t (R.CAN_B_PEX + 65536 *
    b.val) + 1 ∧ canState u t b.val = 0 ∧ flag u t (bfld R.CAN_B_EVENT_PEX b.val) = true) ∧
  (∀ (s : State) (t : Twin) (b : Fin 2) (m : Fin 129), RegsOk s → (m.val = 128 ∨ flag s t (ofld R.CAN_B_OBJ_ID_DIR
    b.val m.val) = false) → ∃ u, exec (.canCtlRead t b m) s = .next u ∧ u.report = Rc.OK ∧ flag u t (ofld
    R.CAN_B_OBJ_CTL_LOCKED b.val m.val) = true ∧ u.readOut = [rd u t (objAddr R.CAN_B_OBJ_CTL b.val m.val)]) ∧
  (∀ (s : State) (t : Twin) (b : Fin 2) (m : Fin 129), RegsOk s → flag s t (ofld R.CAN_B_OBJ_CTL_LOCKED b.val m.val)
    = true → (can s t b.val).hold.find? (fun e => e.1 == m.val) = none → ∃ u, exec (.canLastWordRead t b m) s = .next
    u ∧ u.report = Rc.OK ∧ u.readOut = [rd s t (lastWord s t b.val m.val)] ∧ flag u t (ofld R.CAN_B_OBJ_CTL_LOCKED
    b.val m.val) = false ∧ objStat u t b.val m.val = 2) ∧
  (∀ (s : State) (t : Twin) (b : Fin 2) (m : Fin 129), RegsOk s → flag s t (ofld R.CAN_B_OBJ_CTL_LOCKED b.val m.val)
    = true → (can s t b.val).hold.find? (fun e => e.1 == m.val) = none → ∃ u, exec (.lockTimeout t b m) s = .next u ∧
    flag u t (ofld R.CAN_B_OBJ_CTL_LOCKED b.val m.val) = false ∧ objStat u t b.val m.val = 2 ∧ flag u t (bfld
    R.CAN_B_EVENT_LOCK_TIMEOUT b.val) = true) ∧
  (∀ (s : State) (t : Twin) (b : Fin 2) (z : Fin 7) (y : Bool) (x : DomBits), RegsOk s → TabsOk s → (canState s t
    b.val = 1 ∨ canState s t b.val = 2) → (xing s t (xingKey 5 true)).dead = false → (rd s t (R.CAN_B_ERRORS + 65536
    * b.val)).toNat < 4294967294 → ∃ u, exec (.canRxError t b false z y x) s = .next u ∧ rd u t (R.CAN_B_ERRORS +
    65536 * b.val) = rd s t (R.CAN_B_ERRORS + 65536 * b.val) + 1 ∧ rf u t (bfld R.CAN_B_LEC_CODE b.val) = z.val ∧
    (can u t b.val).rxErr = (can s t b.val).rxErr + 1 + (if x.first then 8 else 0) + 8 * x.runs.toNat) ∧
  (∀ (s : State) (t : Twin) (b : Fin 2) (z : Fin 7) (y : Bool) (x : DomBits), RegsOk s → TabsOk s → (canState s t
    b.val = 1 ∨ canState s t b.val = 2) → (xing s t (xingKey 5 true)).dead = false → (can s t b.val).closing = false
    → (rd s t (R.CAN_B_PEX + 65536 * b.val)).toNat < 4294967294 → ∃ u, exec (.canRxError t b true z y x) s = .next u
    ∧ rd u t (R.CAN_B_PEX + 65536 * b.val) = rd s t (R.CAN_B_PEX + 65536 * b.val) + 1 ∧ canState u t b.val = 5 ∧ flag
    u t (bfld R.CAN_B_EVENT_PEX b.val) = true) ∧
  (∀ (s : State) (t : Twin) (b : Fin 2) (h : Fin 4) (d : List Byte) (n : Fin 8), TabsOk s → computing s t = true →
    (xing s t (xingKey 5 true)).dead = false → flag s t (fo R.CAN_B_ECP_REQ_EN (65536 * b.val + 8 * h.val)) = true →
    (d.getD 0 0).toNat = n.val → 0 < n.val → n.val < d.length → ∃ u, exec (.isotpReceive b h d) s = .next u ∧ (iso u
    t b.val h.val).message = (d.drop 1).take n.val) ∧
  (∀ (s : State) (t : Twin) (b : Fin 2) (h : Fin 4) (d : List Byte) (n : Nat), TabsOk s → computing s t = true →
    (xing s t (xingKey 5 true)).dead = false → flag s t (fo R.CAN_B_ECP_REQ_EN (65536 * b.val + 8 * h.val)) = true →
    (d.getD 0 0).toNat / 16 = 1 → n = (d.getD 0 0).toNat % 16 * 256 + (d.getD 1 0).toNat → n ≠ 0 → ∃ u, exec
    (.isotpReceive b h d) s = .next u ∧ (iso u t b.val h.val).rx = some ⟨n, (d.drop 2).take n, 1, rf s t (bfld
    R.CAN_B_TPT_BS b.val)⟩) ∧
  (∀ (s : State) (t : Twin) (b : Fin 2) (h : Fin 4) (d : List Byte) (r : IsoRx), TabsOk s → computing s t = true →
    (xing s t (xingKey 5 true)).dead = false → flag s t (fo R.CAN_B_ECP_REQ_EN (65536 * b.val + 8 * h.val)) = true →
    (d.getD 0 0).toNat / 16 = 2 → (iso s t b.val h.val).rx = some r → (d.getD 0 0).toNat % 16 = r.sn → (r.got ++
    (d.drop 1).take (r.total - r.got.length)).length < r.total → r.left ≠ 1 → ∃ u, exec (.isotpReceive b h d) s =
    .next u ∧ (iso u t b.val h.val).rx = some ⟨r.total, r.got ++ (d.drop 1).take (r.total - r.got.length), (r.sn + 1)
    % 16, r.left - 1⟩) ∧
  (∀ (s : State) (t : Twin) (b : Fin 2) (h : Fin 4) (d : List Byte) (r : IsoRx), RegsOk s → TabsOk s → computing s t
    = true → (xing s t (xingKey 5 true)).dead = false → flag s t (fo R.CAN_B_ECP_REQ_EN (65536 * b.val + 8 * h.val))
    = true → (d.getD 0 0).toNat / 16 = 2 → (iso s t b.val h.val).rx = some r → (d.getD 0 0).toNat % 16 ≠ r.sn → (rd s
    t (R.CAN_B_ISOTP_ERR + 65536 * b.val)).toNat < 4294967294 → ∃ u, exec (.isotpReceive b h d) s = .next u ∧ rd u t
    (R.CAN_B_ISOTP_ERR + 65536 * b.val) = rd s t (R.CAN_B_ISOTP_ERR + 65536 * b.val) + 1 ∧ flag u t (bfld
    R.CAN_B_EVENT_ISOTP b.val) = true) ∧
  (∀ (s : State) (t : Twin) (b : Fin 2) (h : Fin 4) (d : List Byte), RegsOk s → TabsOk s → computing s t = true →
    (xing s t (xingKey 5 true)).dead = false → flag s t (fo R.CAN_B_ECP_REQ_EN (65536 * b.val + 8 * h.val)) = true →
    (d.getD 0 0).toNat / 16 = 3 → (iso s t b.val h.val).waitFc = true → 2 ≤ (d.getD 0 0).toNat % 16 → (rd s t
    (R.CAN_B_ISOTP_ERR + 65536 * b.val)).toNat < 4294967294 → ∃ u, exec (.isotpReceive b h d) s = .next u ∧ rd u t
    (R.CAN_B_ISOTP_ERR + 65536 * b.val) = rd s t (R.CAN_B_ISOTP_ERR + 65536 * b.val) + 1 ∧ flag u t (bfld
    R.CAN_B_EVENT_ISOTP b.val) = true) ∧
  (∀ (s : State) (t : Twin) (b : Fin 2) (h : Fin 4) (x : Bool), RegsOk s → computing s t = true → (if x then (iso s t
    b.val h.val).waitFc = true else (iso s t b.val h.val).rx ≠ none) → (rd s t (R.CAN_B_ISOTP_ERR + 65536 *
    b.val)).toNat < 4294967294 → ∃ u, exec (.isotpTimeout b h x) s = .next u ∧ rd u t (R.CAN_B_ISOTP_ERR + 65536 *
    b.val) = rd s t (R.CAN_B_ISOTP_ERR + 65536 * b.val) + 1 ∧ flag u t (bfld R.CAN_B_EVENT_ISOTP b.val) = true) ∧
  (∀ (s : State) (t : Twin) (b : Fin 2), RegsOk s → TabsOk s → twState s t ≠ tsReset → flag s t (bfld R.CAN_B_TM_EN
    b.val) = true → flag s t (bfld R.CAN_B_CTRL_EN b.val) = true → ∃ u, exec (.referenceDue b) s = .next u ∧ (can u t
    b.val).refPend = true ∧ (can u t b.val).refCount = ((can s t b.val).refCount + 1) % 2 ^ rf s t (bfld
    R.CAN_B_TM_PER_CYC b.val))

/-- Transmission (R348 to R350), error states and enable (R352 to R354), ECP objects (R357). -/
def Obligations.CanTransmissionCommandsComplete : Prop :=
  (∀ (s : State) (t : Twin) (b : Fin 2) (m : Fin 128), RegsOk s → twState s t ≠ tsReset → enableEnds s b.val = false
    → ecpObject s (netTwin s) b.val m.val = false → flag s (netTwin s) (bfld R.CAN_B_CTRL_EN b.val) = true → isTx s
    (netTwin s) b.val m.val = true → objStat s (netTwin s) b.val m.val ≠ 1 → objStat s (netTwin s) b.val m.val ≠ 2 →
    ∃ u, exec (.txreq .both b m) s = .next u ∧ u.report = Rc.OK ∧ objStat u t b.val m.val = 1) ∧
  (∀ (s : State) (t : Twin) (b : Fin 2) (m : Fin 129) (k : Nat), RegsOk s → TabsOk s → canDriver s b.val = some t →
    (xing s t (xingKey 5 false)).dead = false → (canState s t b.val = 1 ∨ canState s t b.val = 2) → (can s t
    b.val).active = none → (can s t b.val).closing = false → winner (pendingFrames s t b.val) = some (k, m.val) →
    beforeHandover s t b.val m.val = false → ∃ u, exec (.canArbitration b) s = .next u ∧ (can u t b.val).active =
    some m.val ∧ (m.val < 128 → objStat u t b.val m.val = 2) ∧ (m.val = 128 → (can u t b.val).refPend = false ∧ (can
    u t b.val).refAct = (can s t b.val).refCount)) ∧
  (∀ (s : State) (t : Twin) (b : Fin 2) (m : Fin 129) (k : Nat), canDriver s b.val = some t → winner (pendingFrames s
    t b.val) = some (k, m.val) → beforeHandover s t b.val m.val = true → ∃ u, exec (.canArbitration b) s = .next u ∧
    u = s) ∧
  (∀ (s : State) (t : Twin) (b : Fin 2) (m : Fin 128) (x : BitVec 40), RegsOk s → TabsOk s → canDriver s b.val = some
    t → (xing s t (xingKey 5 true)).dead = false → (can s t b.val).active = some m.val → (rd s t (R.CAN_B_TX_OK +
    65536 * b.val)).toNat < 4294967294 → ∃ u, exec (.txDone b x) s = .next u ∧ rd u t (R.CAN_B_TX_OK + 65536 * b.val)
    = rd s t (R.CAN_B_TX_OK + 65536 * b.val) + 1 ∧ ((ecpObject s t b.val m.val && m.val % 2 == 0) = false → objStat u
    t b.val m.val = if (can s t b.val).cancel.contains m.val then 5 else 3) ∧ (can u t b.val).active = none ∧ rd u t
    (objAddr R.CAN_B_OBJ_STAMP_LO b.val m.val) = BitVec.ofNat 32 x.toNat ∧ rf u t ⟨R.CAN_B_TXDONE + 65536 * b.val + 4
    * (m.val / 32), m.val % 32, m.val % 32⟩ = 1 ∧ flag u t (bfld R.CAN_B_EVENT_TX_DONE b.val) = true) ∧
  (∀ (s : State) (t : Twin) (b : Fin 2) (m : Fin 129) (x : BitVec 40), RegsOk s → TabsOk s → canDriver s b.val = some
    t → (xing s t (xingKey 5 true)).dead = false → (can s t b.val).active = some m.val → hearsBus s t.other b.val =
    true → (xing s t.other (xingKey 5 true)).dead = false → hpMatches s t.other b.val (sentFrame s t b.val m.val) =
    false → (List.range 128).find? (objMatches s t.other b.val (sentFrame s t b.val m.val)) = none → (rd s t.other
    (R.CAN_B_RX_UNMATCHED + 65536 * b.val)).toNat < 4294967294 → ∃ u, exec (.txDone b x) s = .next u ∧ rd u t.other
    (R.CAN_B_RX_UNMATCHED + 65536 * b.val) = rd s t.other (R.CAN_B_RX_UNMATCHED + 65536 * b.val) + 1) ∧
  (∀ (s : State) (t : Twin) (b : Fin 2) (x : BitVec 40), RegsOk s → TabsOk s → canDriver s b.val = some t → (xing s t
    (xingKey 5 true)).dead = false → (can s t b.val).active = some 128 → (rd s t (R.CAN_B_TX_OK + 65536 *
    b.val)).toNat < 4294967294 → ∃ u, exec (.txDone b x) s = .next u ∧ rd u t (R.CAN_B_TX_OK + 65536 * b.val) = rd s
    t (R.CAN_B_TX_OK + 65536 * b.val) + 1 ∧ (can u t b.val).active = none ∧ rd u t (R.CAN_B_TM_STAMP + 65536 * b.val)
    = BitVec.ofNat 32 x.toNat ∧ rf u t (bfld R.CAN_B_TM_STAT_COUNT b.val) = (can s t b.val).refAct % 64 ∧ flag u t
    (bfld R.CAN_B_EVENT_TX_DONE b.val) = true) ∧
  (∀ (s : State) (t : Twin) (b : Fin 2) (m : Fin 128) (z : Fin 7) (y a : Bool) (d : DomBits), RegsOk s → TabsOk s →
    canDriver s b.val = some t → (xing s t (xingKey 5 true)).dead = false → (can s t b.val).active = some m.val →
    (can s t b.val).closing = false → (rd s t (R.CAN_B_ERRORS + 65536 * b.val)).toNat < 4294967294 → ∃ u, exec
    (.canAttemptError b z y d a) s = .next u ∧ rd u t (R.CAN_B_ERRORS + 65536 * b.val) = rd s t (R.CAN_B_ERRORS +
    65536 * b.val) + 1 ∧ (objStat u t b.val m.val = if (can s t b.val).cancel.contains m.val then 4 else 1) ∧ rf u t
    (bfld R.CAN_B_LEC_CODE b.val) = z.val ∧ (can u t b.val).active = none ∧ (can u t b.val).tec = attemptTec (can s t
    b.val) (canState s t b.val == 2) z.val d a) ∧
  (∀ (s : State) (t : Twin) (b : Fin 2) (z : Fin 7) (y a : Bool) (d : DomBits), RegsOk s → TabsOk s → canDriver s
    b.val = some t → (xing s t (xingKey 5 true)).dead = false → (can s t b.val).active = some 128 → (can s t
    b.val).closing = false → (rd s t (R.CAN_B_ERRORS + 65536 * b.val)).toNat < 4294967294 → ∃ u, exec
    (.canAttemptError b z y d a) s = .next u ∧ rd u t (R.CAN_B_ERRORS + 65536 * b.val) = rd s t (R.CAN_B_ERRORS +
    65536 * b.val) + 1 ∧ rf u t (bfld R.CAN_B_LEC_CODE b.val) = z.val ∧ (can u t b.val).active = none ∧ (can u t
    b.val).refPend = true ∧ (can u t b.val).tec = attemptTec (can s t b.val) (canState s t b.val == 2) z.val d a) ∧
  (∀ (s : State) (t : Twin) (b : Fin 2) (m : Fin 128), RegsOk s → twState s t ≠ tsReset → ecpObject s (netTwin s)
    b.val m.val = false → flag s t (ofld R.CAN_B_OBJ_ID_DIR b.val m.val) = true → objStat s t b.val m.val = 1 → ∃ u,
    exec (.cancel .both b m) s = .next u ∧ u.report = Rc.OK ∧ objStat u t b.val m.val = 4) ∧
  (∀ (s : State) (l : Twin) (b : Fin 2) (m : Fin 128), RegsOk s → TabsOk s → leader s = some l → twState s l.other =
    tsFollowing → isTx s l.other b.val m.val = true → ∃ u, exec (.canAttemptReport b) s = .next u ∧ objStat u l.other
    b.val m.val = objStat s l b.val m.val ∧ (can u l.other b.val).tec = (can s l b.val).tec ∧ (can u l.other
    b.val).iso = (can s l b.val).iso) ∧
  (∀ (s : State) (t : Twin) (b : Fin 2), RegsOk s → s.ilk.pins = some t → ∃ u, exec (.canDriveSwitch b) s = .next u ∧
    flag u t (bfld R.CAN_B_STATUS_DRIVING b.val) = true) ∧
  (∀ (s : State) (t : Twin) (b : Fin 2), RegsOk s → canDriver s b.val = some t → (canState s t b.val = 1 ∨ canState s
    t b.val = 2) → 256 ≤ (can s t b.val).tec → (rd s t (R.CAN_B_BUS_OFF + 65536 * b.val)).toNat < 4294967294 → ∃ u,
    exec (.busOff b) s = .next u ∧ canState u t b.val = 3 ∧ rd u t (R.CAN_B_BUS_OFF + 65536 * b.val) = rd s t
    (R.CAN_B_BUS_OFF + 65536 * b.val) + 1 ∧ flag u t (bfld R.CAN_B_EVENT_BUS_OFF b.val) = true) ∧
  (∀ (s : State) (t : Twin) (b : Fin 2), RegsOk s → twState s t ≠ tsReset → canState s (netTwin s) b.val = 3 → ∃ u,
    exec (.recover .both b) s = .next u ∧ u.report = Rc.OK ∧ canState u t b.val = 4) ∧
  (∀ (s : State) (b : Fin 2), canState s (netTwin s) b.val ≠ 3 → ∃ u, exec (.recover .both b) s = .next u ∧ u =
    { s with report := Rc.NOT_BUS_OFF }) ∧
  (∀ (s : State) (t : Twin) (b : Fin 2), RegsOk s → TabsOk s → twState s t ≠ tsReset → canState s t b.val = 4 → ∃ u,
    exec (.recovered b) s = .next u ∧ canState u t b.val = 1 ∧ (can u t b.val).tec = 0 ∧ (can u t b.val).rxErr = 0 ∧
    flag u t (bfld R.CAN_B_EVENT_RECOVERED b.val) = true) ∧
  (∀ (s : State) (t : Twin) (b : Fin 2), RegsOk s → TabsOk s → twState s t ≠ tsReset → flag s t (bfld R.CAN_B_CTRL_EN
    b.val) = false → ∃ u, exec (.canEnable .both b true) s = .next u ∧ u.report = Rc.OK ∧ flag u t (bfld
    R.CAN_B_CTRL_EN b.val) = true ∧ canState u t b.val = 5 ∧ (can u t b.val).tec = 0 ∧ (can u t b.val).rxErr = 0) ∧
  (∀ (s : State) (t : Twin) (b : Fin 2), RegsOk s → TabsOk s → twState s t ≠ tsReset → flag s t (bfld R.CAN_B_CTRL_EN
    b.val) = true → (can s t b.val).active = none → ∃ u, exec (.canEnable .both b false) s = .next u ∧ u.report =
    Rc.OK ∧ flag u t (bfld R.CAN_B_CTRL_EN b.val) = false ∧ canState u t b.val = 0) ∧
  (∀ (s : State) (t : Twin) (b : Fin 2), RegsOk s → TabsOk s → twState s t ≠ tsReset → flag s t (bfld R.CAN_B_CTRL_EN
    b.val) = true → (can s t b.val).active ≠ none → ∃ u, exec (.canEnable .both b false) s = .next u ∧ u.report =
    Rc.OK ∧ flag u t (bfld R.CAN_B_CTRL_EN b.val) = false ∧ (can u t b.val).closing = true ∧ canState u t b.val =
    canState s t b.val) ∧
  (∀ (s : State) (t : Twin) (b : Fin 2), RegsOk s → twState s t ≠ tsReset → canState s t b.val = 5 → ∃ u, exec
    (.canIntegrated b) s = .next u ∧ (canState u t b.val = if 128 ≤ (can s t b.val).tec ∨ 128 ≤ (can s t b.val).rxErr
    then 2 else 1)) ∧
  (∀ (s : State) (t : Twin) (b : Fin 2) (h : Fin 4), RegsOk s → twState s t ≠ tsReset → flag s (netTwin s) (fo
    R.CAN_B_ECP_REQ_EN (65536 * b.val + 8 * h.val)) = false → flag s (netTwin s) (ofld R.CAN_B_OBJ_ID_EN b.val (127 -
    2 * h.val)) = false → flag s (netTwin s) (ofld R.CAN_B_OBJ_ID_EN b.val (126 - 2 * h.val)) = false → ∃ u, exec
    (.ecpCanEnable .both b h true) s = .next u ∧ u.report = Rc.OK ∧ flag u t (fo R.CAN_B_ECP_REQ_EN (65536 * b.val +
    8 * h.val)) = true ∧ flag u t (ofld R.CAN_B_OBJ_ID_EN b.val (127 - 2 * h.val)) = true ∧ isTx u t b.val (126 - 2 *
    h.val) = true) ∧
  (∀ (s : State) (t : Twin) (b : Fin 2) (h : Fin 4), RegsOk s → twState s t ≠ tsReset → flag s (netTwin s) (fo
    R.CAN_B_ECP_REQ_EN (65536 * b.val + 8 * h.val)) = true → ∃ u, exec (.ecpCanEnable .both b h false) s = .next u ∧
    u.report = Rc.OK ∧ flag u t (fo R.CAN_B_ECP_REQ_EN (65536 * b.val + 8 * h.val)) = false ∧ flag u t (ofld
    R.CAN_B_OBJ_ID_EN b.val (127 - 2 * h.val)) = false ∧ flag u t (ofld R.CAN_B_OBJ_ID_EN b.val (126 - 2 * h.val)) =
    false) ∧
  (∀ (s : State) (t : Twin) (b : Fin 2) (m : Fin 128), ∃ u, exec (.txreq (.one t) b m) s = .next u ∧ u =
    { s with report := Rc.AGREED_ONLY }) ∧
  (∀ (s : State) (t : Twin) (b : Fin 2) (m : Fin 128), ∃ u, exec (.cancel (.one t) b m) s = .next u ∧ u =
    { s with report := Rc.AGREED_ONLY }) ∧
  (∀ (s : State) (t : Twin) (b : Fin 2), ∃ u, exec (.recover (.one t) b) s = .next u ∧ u =
    { s with report := Rc.AGREED_ONLY }) ∧
  (∀ (s : State) (t : Twin) (b : Fin 2) (x : Bool), ∃ u, exec (.canEnable (.one t) b x) s = .next u ∧ u =
    { s with report := Rc.AGREED_ONLY }) ∧
  (∀ (s : State) (t : Twin) (b : Fin 2) (h : Fin 4) (x : Bool), ∃ u, exec (.ecpCanEnable (.one t) b h x) s = .next u
    ∧ u = { s with report := Rc.AGREED_ONLY })

/-- A register write and its refusals (R44, R188, R412, R483, R484). ADDR_INVALID for addresses outside the blocks follows R407's table; reserved offsets inside a block are the model's reading (DEDUCED, log entry 11). -/
def Obligations.RegisterWriteTakesOrRefuses : Prop :=
  (∀ (s : State) (n : Fin 4096) (v : W32), RegsOk s → writeTwins s .both ≠ [] → (writeTwins s .both).all (fun t =>
    ((graph s t).bind (fun g => g.nodes[n.val]?)).any (fun x => x.kind == 2)) = true → F32.isNan v = false → ∃ u,
    exec (.registerWrite .both (BitVec.ofNat 32 (R.LAW_NODE + 4 * n.val)) v) s = .next u ∧ u.report = Rc.OK ∧
    (writeTwins s .both).all (fun t => rd u t (R.LAW_NODE + 4 * n.val) == v) = true) ∧
  (∀ (s : State) (n : Fin 4096) (v : W32), writeTwins s .both ≠ [] → (writeTwins s .both).all (fun t => ((graph s
    t).bind (fun g => g.nodes[n.val]?)).any (fun x => x.kind == 2)) = false → ((writeTwins s .both).head?.bind (fun t
    => (graph s t).bind (fun g => g.nodes[n.val]?))).any (fun x => x.kind == 2) = false → ∃ u, exec (.registerWrite
    .both (BitVec.ofNat 32 (R.LAW_NODE + 4 * n.val)) v) s = .next u ∧ u = { s with report := Rc.NODE_RO }) ∧
  (∀ (s : State) (tg : Target) (t : Twin) (x v : W32), RegsOk s → x.toNat ∈ [R.ARR_INS_RAMP, R.ARR_INS_KEEP,
    R.ARR_DMG_A, R.ARR_S_VNOM, R.CELL_A_COND, R.CELL_TMAX, R.NEG_EXP_PRE, R.NEG_EXP_LEVEL, R.PWM_P_START_S,
    R.ADC_C_SCALE, R.NET_IP, R.NET_MASK, R.TIME_KP, R.STQ_Q_DEST_IP, R.TWN_CELL_TOL, R.DRV_VCH_HI, R.DRV_D_LS,
    R.DRV_ENC_OFS] → (if tg = .both then (findRow x.toNat).any (fun r => oneTwinWord r.base v) else (findRow
    x.toNat).any (fun r => agreedWrite s r x.toNat v)) = false → t ∈ writeTwins s tg → (writeTwins s tg).all (fun t
    => !(absent s t)) = true → twinsCode (writeTwins s tg) (fun t => (findRow x.toNat).elim 0 (fun r => judge s t r
    x.toNat v)) = Rc.OK → ∃ u, exec (.registerWrite tg x v) s = .next u ∧ u.report = Rc.OK ∧ rd u t x.toNat = v ∧
    SameRegs s u t [x.toNat]) ∧
  (∀ (s : State) (tg : Target) (x v : W32) (r : RegRow), findRow x.toNat = some r → x.toNat / 65536 ≠ 0x150 → (if tg
    = .both then oneTwinWord r.base v else agreedWrite s r x.toNat v) = false → writeTwins s tg ≠ [] → (writeTwins s
    tg).all (fun t => reaches s t r.base) = true → twinsCode (writeTwins s tg) (fun t => judge s t r x.toNat v) ≠
    Rc.OK → ∃ u, exec (.registerWrite tg x v) s = .next u ∧ u =
    { s with report := twinsCode (writeTwins s tg) (fun t => judge s t r x.toNat v) }) ∧
  (∀ (s : State) (t : Twin) (x v : W32) (r : RegRow), findRow x.toNat = some r → agreedWrite s r x.toNat v = true → ∃
    u, exec (.registerWrite (.one t) x v) s = .next u ∧ u = { s with report := Rc.AGREED_ONLY }) ∧
  (∀ (s : State) (x v : W32) (r : RegRow), findRow x.toNat = some r → oneTwinWord r.base v = true → ∃ u, exec
    (.registerWrite .both x v) s = .next u ∧ u = { s with report := Rc.PARAM_ORDER }) ∧
  (∀ (s : State) (tg : Target) (x v : W32), inBlocks x.toNat = false → ∃ u, exec (.registerWrite tg x v) s = .next u
    ∧ u = { s with report := Rc.ADDR_INVALID }) ∧
  (∀ (s : State) (n : Fin 4096) (v : W32), writeTwins s .both = [] → ∃ u, exec (.registerWrite .both (BitVec.ofNat 32
    (R.LAW_NODE + 4 * n.val)) v) s = .next u ∧ u = { s with report := Rc.TWIN_ABSENT })

/-- Packets (R391, R392), the serial port (R388, R389), queues and turns (R403 to R405). A command waiting is here a NOP. -/
def Obligations.PacketCommandsComplete : Prop :=
  (∀ (s : State) (y : Transport) (h : Fin 4) (p : List Byte) (x : IpPair) (z : PortPair) (t : Twin) (n : Nat) (tag :
    BitVec 128), RegsOk s → TabsOk s → forUs s y x.dst z.dst = true → (xing s (asker s) (xingKey y.domain true)).dead
    = false → leader s ≠ none → p.length = 32 + n → n ≤ 1440 → beAt p 0 1 = 1 → beAt p 1 1 = h.val → beAt p 3 1 / 16
    < 8 → beAt p 3 1 % 16 = 0 → beAt p 8 2 = n → (rd s (asker s) (ha R.HST_H_CFG h.val)).getLsbD 31 = true → (rd s
    (asker s) (ha R.HST_H_CFG h.val)).getLsbD (27 + y.index) = true → (hctx s h.val).rolled = none → BitVec.ofNat 128
    (beAt p (16 + n) 16) = tag → tagOk (ctxKey s h.val) p (16 + n) = true → (hctx s h.val).kept.all (fun k =>
    k.counter != beAt p 4 4 || k.tag != tag) = true → highCtr s h.val < beAt p 4 4 → 0 < credits s h.val → twState s
    t ≠ tsReset → ∃ u, exec (.ecpPacketReceive y p x z) s = .next u ∧ (hctx u h.val).queue.map (fun q => (q.counter,
    q.opcode, q.params)) = (hctx s h.val).queue.map (fun q => (q.counter, q.opcode, q.params)) ++ [(beAt p 4 4, beAt
    p 2 1, (p.drop 16).take n)] ∧ rd u t (ha R.HST_H_HIGH_CTR h.val) = BitVec.ofNat 32 (beAt p 4 4) ∧ (hctx u
    h.val).kept.head?.map (fun k => (k.counter, k.tag)) = some (beAt p 4 4, tag) ∧ (highCtr s h.val ≤ 0xF0000000 ∧
    0xF0000000 < beAt p 4 4 → flag u t (hf R.HST_H_EVENT_CTR_LOW h.val) = true)) ∧
  (∀ (s : State) (y : Transport) (h : Fin 4) (p : List Byte) (x : IpPair) (z : PortPair) (t : Twin), RegsOk s → forUs
    s y x.dst z.dst = true → (xing s (asker s) (xingKey y.domain true)).dead = false → leader s ≠ none → 2 ≤ p.length
    → beAt p 1 1 % 4 = h.val → p.length ≠ 32 + beAt p 8 2 → twState s t ≠ tsReset → (rd s t (ha R.HST_H_AUTH_FAIL
    h.val)).toNat < 4294967294 → ∃ u, exec (.ecpPacketReceive y p x z) s = .next u ∧ rd u t (ha R.HST_H_AUTH_FAIL
    h.val) = rd s t (ha R.HST_H_AUTH_FAIL h.val) + 1 ∧ u.host = s.host) ∧
  (∀ (s : State) (n : BitVec 16) (p : List Byte) (c : BitVec 16), 32 ≤ n.toNat → n.toNat ≤ 1472 → p.length = n.toNat
    → crc16 (beBytes 2 n.toNat ++ p) = c.toNat → s.ilk.pins ≠ none → (xing s (asker s) (xingKey 7 true)).dead = false
    → ∃ u, exec (.put n p c ⟨1, true⟩) s = .next u ∧ u = receive
    { hsClock s with host := { s.host with serOut := List.replicate (4 + n.toNat) 0#8 } } .serial p 0#32 0) ∧
  (∀ (s : State) (t : Twin) (n : BitVec 16) (p : List Byte) (c : BitVec 16) (x : Bool), RegsOk s → (x = false ∨
    n.toNat < 32 ∨ 1472 < n.toNat ∨ p.length ≠ n.toNat ∨ crc16 (beBytes 2 n.toNat ++ p) ≠ c.toNat) → twState s t ≠
    tsReset → (xing s (asker s) (xingKey 7 true)).dead = false → (rd s t R.HST_SER).toNat < 4294967294 → ∃ u, exec
    (.put n p c ⟨1, x⟩) s = .next u ∧ rd u t R.HST_SER = rd s t R.HST_SER + 1 ∧ u.host.serErrs = min 255
    (s.host.serErrs + 1) ∧ u.host.ctx = s.host.ctx) ∧
  (∀ (s : State) (r : Reply) (l : List Reply) (c : Nat), s.ilk.pins ≠ none → (xing s (asker s) (xingKey 7
    false)).dead = false → s.host.serial = r :: l → crc16 (beBytes 2 r.bytes.length ++ r.bytes) = c → ∃ u, exec (.get
    true) s = .next u ∧ u.host.serOut = [0xA5#8] ++ beBytes 2 r.bytes.length ++ r.bytes ++ beBytes 2 c ∧
    u.host.serial = l) ∧
  (∀ (s : State), s.ilk.pins ≠ none → (xing s (asker s) (xingKey 7 false)).dead = false → s.host.serial = [] → ∃ u,
    exec (.get true) s = .next u ∧ u.host.serOut = [0xA5#8, 0, 0] ++ beBytes 2 (crc16 [0, 0]) ∧ u.host.serial = []) ∧
  (∀ (s : State) (n : BitVec 16) (p : List Byte) (c : BitVec 16) (r : Reply) (l : List Reply) (k : Nat), s.ilk.pins ≠
    none → (xing s (asker s) (xingKey 7 false)).dead = false → s.host.serial = r :: l → crc16 (beBytes 2
    r.bytes.length ++ r.bytes) = k → ∃ u, exec (.put n p c ⟨2, true⟩) s = .next u ∧ u.host.serOut = [0xA5#8] ++
    beBytes 2 r.bytes.length ++ r.bytes ++ beBytes 2 k ∧ u.host.serial = l) ∧
  (∀ (s : State) (n : BitVec 16) (p : List Byte) (c : BitVec 16) (x : Bool), s.ilk.pins ≠ none → ∃ u, exec (.put n p
    c ⟨3, x⟩) s = .next u ∧ u.host.serOut = [BitVec.ofNat 8 s.host.serial.length, BitVec.ofNat 8 s.host.serErrs, 0,
    0] ∧ u.host.serErrs = 0 ∧ u.host.serial = s.host.serial) ∧
  (∀ (s : State) (t : Twin) (n : BitVec 16) (p : List Byte) (c : BitVec 16) (k : Byte) (x : Bool), RegsOk s → k ≠ 1 →
    k ≠ 2 → k ≠ 3 → twState s t ≠ tsReset → (xing s (asker s) (xingKey 7 true)).dead = false → (rd s t
    R.HST_SER).toNat < 4294967294 → ∃ u, exec (.put n p c ⟨k, x⟩) s = .next u ∧ rd u t R.HST_SER = rd s t R.HST_SER +
    1 ∧ u.host.ctx = s.host.ctx ∧ u.host.serErrs = s.host.serErrs) ∧
  (∀ (s : State), s.ilk.pins ≠ none → ∃ u, exec (.stat) s = .next u ∧ u.host.serOut = [BitVec.ofNat 8
    s.host.serial.length, BitVec.ofNat 8 s.host.serErrs, 0, 0] ∧ u.host.serErrs = 0 ∧ u.host.serial = s.host.serial) ∧
  (∀ (s : State) (h : Fin 4) (n : Fin 101) (q : Queued) (l : List Queued), RegsOk s → TabsOk s → leader s ≠ none →
    n.val < 70 → s.host.turn = h.val → (hctx s h.val).queue = q :: l → l.length < 24 → q.opcode = 0 → q.params = [] →
    q.ctx = h.val → ∃ u, exec (.commandExecute n) s = .next u ∧ u.report = Rc.OK ∧ u.host.lastReply.map (fun r =>
    (r.ctx, r.opcode, r.data)) = some (h.val, 0x00, []) ∧ (hctx u h.val).queue = l ∧ u.host.turn = (h.val + 1) % 4) ∧
  (∀ (s : State) (h : Fin 4) (q : Queued) (l : List Queued), RegsOk s → TabsOk s → leader s ≠ none → (hctx s
    h.val).queue = q :: l → q.low = true → q.deferred = true → q.opcode = 0 → q.params = [] → q.ctx = h.val → ∃ u,
    exec (.lowWaitLimit h) s = .next u ∧ u.report = Rc.OK ∧ u.host.lastReply.map (fun r => (r.ctx, r.opcode, r.data))
    = some (h.val, 0x00, []) ∧ (hctx u h.val).queue = l) ∧
  (∀ (s : State) (n : Fin 101) (h : Fin 4) (i : Nat), leader s ≠ none → ([0, 1, 2, 3].map (fun k => (([0, 1, 2,
    3].foldl deferLow (showLoad s n.val)).host.turn + k) % 4)).find? (fun k => (serveIdx ([0, 1, 2, 3].foldl deferLow
    (showLoad s n.val)) k).isSome) = some h.val → serveIdx ([0, 1, 2, 3].foldl deferLow (showLoad s n.val)) h.val =
    some i → ∃ u, exec (.commandExecute n) s = .next u ∧ u = serveCmd (modHost ([0, 1, 2, 3].foldl deferLow (showLoad
    s n.val)) (fun x => { x with turn := (h.val + 1) % 4 })) h.val i) ∧
  (∀ (s : State) (n : Fin 101), leader s ≠ none → ([0, 1, 2, 3]).all (fun h => (serveIdx ([0, 1, 2, 3].foldl deferLow
    (showLoad s n.val)) h).isNone) = true → ∃ u, exec (.commandExecute n) s = .next u ∧ u = ([0, 1, 2, 3].foldl
    deferLow (showLoad s n.val))) ∧
  (∀ (s : State) (h : Fin 4) (i : Nat), leader s ≠ none → (hctx s h.val).queue.findIdx? (fun c => c.low &&
    c.deferred) = some i → ∃ u, exec (.lowWaitLimit h) s = .next u ∧ u = serveCmd s h.val i)

/-- The information opcodes (R397, R408, R413); the serial number of IDENTIFY is a free value of Config. -/
def Obligations.InformationCommandsComplete : Prop :=
  (∀ (s : State) (h : Fin 4), leader s ≠ none → ∃ u, exec (.nop h) s = .next u ∧ u.report = Rc.OK ∧
    u.host.lastReply.map (fun r => (r.ctx, r.opcode, r.data)) = some (h.val, 0x00, [])) ∧
  (∀ (s : State) (h : Fin 4), leader s ≠ none → ∃ u, exec (.identify h) s = .next u ∧ u.report = Rc.OK ∧
    u.host.lastReply.map (fun r => (r.ctx, r.opcode, r.data.take 4)) = some (h.val, 0x01, [0x00#8, 0xC0#8,
    BitVec.ofNat 8 (rf s .a R.SYS_ID_DIE_REV), BitVec.ofNat 8 (rf s .b R.SYS_ID_DIE_REV)]) ∧ u.host.lastReply.map
    (fun r => (r.data.drop 6).take 16) = some (wordBytes [rd s .a R.SYS_VERSION, rd s .b R.SYS_VERSION, rd s .a
    (R.SYS_VERSION + 4), rd s .b (R.SYS_VERSION + 4)]) ∧ u.host.lastReply.map (fun r => r.data.drop 22) = some
    (beBytes 6 (macAddr s).toNat ++ [0, 0] ++ beBytes 8 Config.serialNumber.toNat)) ∧
  (∀ (s : State) (h : Fin 4) (t : Twin), leader s = some t → ∃ u, exec (.status h) s = .next u ∧ u.report = Rc.OK ∧
    u.host.lastReply.map (fun r => (r.ctx, r.opcode, r.data)) = some (h.val, 0x02, wordBytes [readWord s .a
    R.TWN_STATE, readWord s .a R.TWN_CLAIM, readWord s .b R.TWN_STATE, readWord s .b R.TWN_CLAIM, readWord s t
    R.TIME_STATUS, readWord s t R.ARR_STATUS, readWord s t R.SAF_STATUS, readWord s t R.HST_OWNER])) ∧
  (∀ (s : State) (h : Fin 4), leader s ≠ none → ∃ u, exec (.credits h) s = .next u ∧ u.report = Rc.OK ∧
    u.host.lastReply.map (fun r => (r.ctx, r.opcode, r.data)) = some (h.val, 0x04, beBytes 1 (credits s h.val - 1) ++
    beBytes 1 (hctx s h.val).queue.length ++ beBytes 1 (deferring s h.val) ++ [0] ++ beBytes 4 (highCtr s h.val))) ∧
  (∀ (s : State) (h : Fin 4), leader s ≠ none → ∃ u, exec (.events h) s = .next u ∧ u.report = Rc.OK ∧
    u.host.lastReply.map (fun r => (r.ctx, r.opcode, r.data)) = some (h.val, 0x41, [Twin.a, Twin.b].flatMap (fun t =>
    [6, 5, 4, 3, 2, 1].flatMap (fun a => beBytes 4 (attnBlocks s t a))))) ∧
  (∀ (s : State) (h : Fin 4) (y x z : Byte), leader s ≠ none → y.toNat ≤ 1 → x.toNat ≤ 191 → z.toNat ≤ 64 → x.toNat +
    z.toNat ≤ 192 → absent s (if y.toNat = 0 then Twin.a else Twin.b) = false → ∃ u, exec (.report h y x z) s = .next
    u ∧ u.report = Rc.OK ∧ u.host.lastReply.map (fun r => (r.ctx, r.opcode, r.data)) = some (h.val, 0x40, beBytes 4
    ((s.tw (if y.toNat = 0 then Twin.a else Twin.b)).twn.snapAt / 1000000000 % 4294967296).toNat ++ beBytes 4 ((s.tw
    (if y.toNat = 0 then Twin.a else Twin.b)).twn.snapAt % 1000000000).toNat ++ wordBytes ((List.range 16).map (fun i
    => readWord s (if y.toNat = 0 then Twin.a else Twin.b) (R.HLT_CTRL + 4 + 4 * i)) ++ (List.range (4 *
    z.toNat)).map (fun i => readWord s (if y.toNat = 0 then Twin.a else Twin.b) (R.HLT_CELL_CAP_REL + 16 * x.toNat +
    4 * i))))) ∧
  (∀ (s : State) (h : Fin 4), leader s ≠ none → ∃ u, exec (.owners h) s = .next u ∧ u.report = Rc.OK ∧
    u.host.lastReply.map (fun r => (r.ctx, r.opcode, r.data)) = some (h.val, 0x22, (List.range 5).map (ownerByte s)
    ++ (List.range 5).flatMap (fun g => beBytes 2 (leaseLeft s g)))) ∧
  (∀ (s : State) (h : Fin 4), leader s ≠ none → ∃ u, exec (.listChanges h) s = .next u ∧ u.report = Rc.OK ∧
    u.host.lastReply.map (fun r => (r.ctx, r.opcode, r.data)) = some (h.val, 0x15, beBytes 1 s.host.changes.length ++
    [0, 0, 0] ++ s.host.changes.flatMap (fun c => beBytes 2 c.id ++ beBytes 1 c.cmd.ctx ++ beBytes 1 (targetNumber
    c.target) ++ beBytes 4 c.cycle ++ beBytes 2 c.entries.length ++ [0, 0]))) ∧
  (∀ (s : State) (h : Fin 4) (y : Byte) (n : BitVec 16) (x : W32) (t : Twin), leader s ≠ none → readTwin s y.toNat =
    some t → 0 < n.toNat → n.toNat ≤ 256 → x.toNat % 4 = 0 → blockOf x.toNat ≠ none → blockOf (x.toNat + 4 * (n.toNat
    - 1)) = blockOf x.toNat → x.toNat / 65536 ≠ 0x150 → (List.range n.toNat).any (fun i => negMemBusy s t (x.toNat +
    4 * i)) = false → absent s t = false → ∃ u, exec (.read h y n x) s = .next u ∧ u.report = Rc.OK ∧
    u.host.lastReply.map (fun r => (r.ctx, r.opcode, r.data)) = some (h.val, 0x10, wordBytes u.readOut) ∧
    u.readOut.length = n.toNat ∧ u.readOut.head? = some (hostWord (sampleLive s t x.toNat n.toNat) t x.toNat))

/-- Changes (R407 to R412). A change is judged by running its entries on a state that is given up. -/
def Obligations.ChangeCommandsComplete : Prop :=
  (∀ (s : State) (h : Fin 4) (tg : Target) (y : Byte) (v : W32) (z x : Bool) (n : Int) (a : W32) (d : List W32),
    leader s ≠ none → writeTarget y.toNat = some tg → d ≠ [] → d.length ≤ 256 → confirmOf (writeEntries a.toNat d) =
    none → (writeEntries a.toNat d).all (fun e => mayWrite (say (hostCnt s R.HST_H_COMMANDS h.val) Rc.OK) h.val e &&
    inBlocks e.addr.toNat && !(safetyParam e.addr.toNat)) = true → (runEntries tg h.val (say (hostCnt s
    R.HST_H_COMMANDS h.val) Rc.OK) true (writeEntries a.toNat d) (say (hostCnt s R.HST_H_COMMANDS h.val) Rc.OK)).2 =
    none → (if z then (firstCycle s : Int) else namedCycle s v) = n → 0 ≤ n → devTime s (asker s) + leadNs s * 65536
    ≤ (originNs s (asker s) + n * (cycNs s (asker s) : Int)) * 65536 → s.host.changes.length < 64 → ∃ u, exec (.write
    h y v z x a d) s = .next u ∧ u.host.changes.length = s.host.changes.length + 1 ∧ u.host.changes.map (fun c =>
    (c.cmd.ctx, c.target, c.entries, c.cycle)) = s.host.changes.map (fun c => (c.cmd.ctx, c.target, c.entries,
    c.cycle)) ++ [(h.val, tg, (writeEntries a.toNat d), n.toNat)] ∧ u.edge = s.edge ∧ u.a.law = s.a.law ∧ u.b.law =
    s.b.law ∧ (otherAgrees s = false ∧ x = false → u.report = Rc.OK)) ∧
  (∀ (s : State) (h : Fin 4) (tg : Target) (y : Byte) (v : W32) (z x : Bool) (n : Int) (a m d : W32), leader s ≠ none
    → writeTarget y.toNat = some tg → confirmOf [⟨a, m, d⟩] = none → [⟨a, m, d⟩].all (fun e => mayWrite (say (hostCnt
    s R.HST_H_COMMANDS h.val) Rc.OK) h.val e && inBlocks e.addr.toNat && !(safetyParam e.addr.toNat)) = true →
    (runEntries tg h.val (say (hostCnt s R.HST_H_COMMANDS h.val) Rc.OK) true [⟨a, m, d⟩] (say (hostCnt s
    R.HST_H_COMMANDS h.val) Rc.OK)).2 = none → (if z then (firstCycle s : Int) else namedCycle s v) = n → 0 ≤ n →
    devTime s (asker s) + leadNs s * 65536 ≤ (originNs s (asker s) + n * (cycNs s (asker s) : Int)) * 65536 →
    s.host.changes.length < 64 → ∃ u, exec (.modify h y v z x a m d) s = .next u ∧ u.host.changes.length =
    s.host.changes.length + 1 ∧ u.host.changes.map (fun c => (c.cmd.ctx, c.target, c.entries, c.cycle)) =
    s.host.changes.map (fun c => (c.cmd.ctx, c.target, c.entries, c.cycle)) ++ [(h.val, tg, [⟨a, m, d⟩], n.toNat)] ∧
    u.edge = s.edge ∧ u.a.law = s.a.law ∧ u.b.law = s.b.law ∧ (otherAgrees s = false ∧ x = false → u.report = Rc.OK)) ∧
  (∀ (s : State) (h : Fin 4) (tg : Target) (y : Byte) (v : W32) (z x : Bool) (n : Int) (es : List Entry), leader s ≠
    none → writeTarget y.toNat = some tg → es ≠ [] → es.length ≤ 64 → confirmOf es = none → es.all (fun e => mayWrite
    (say (hostCnt s R.HST_H_COMMANDS h.val) Rc.OK) h.val e && inBlocks e.addr.toNat && !(safetyParam e.addr.toNat)) =
    true → (runEntries tg h.val (say (hostCnt s R.HST_H_COMMANDS h.val) Rc.OK) true es (say (hostCnt s
    R.HST_H_COMMANDS h.val) Rc.OK)).2 = none → (if z then (firstCycle s : Int) else namedCycle s v) = n → 0 ≤ n →
    devTime s (asker s) + leadNs s * 65536 ≤ (originNs s (asker s) + n * (cycNs s (asker s) : Int)) * 65536 →
    s.host.changes.length < 64 → ∃ u, exec (.changeSet h y v z x es) s = .next u ∧ u.host.changes.length =
    s.host.changes.length + 1 ∧ u.host.changes.map (fun c => (c.cmd.ctx, c.target, c.entries, c.cycle)) =
    s.host.changes.map (fun c => (c.cmd.ctx, c.target, c.entries, c.cycle)) ++ [(h.val, tg, es, n.toNat)] ∧ u.edge =
    s.edge ∧ u.a.law = s.a.law ∧ u.b.law = s.b.law ∧ (otherAgrees s = false ∧ x = false → u.report = Rc.OK)) ∧
  (∀ (s : State) (n : BitVec 16) (c : Change), findChange s n.toNat = some c → c.agreed = false → c.cmd.waitDev =
    false → otherAgrees s = true → ∃ u, exec (.changeAgreed n) s = .next u ∧ u.report = Rc.OK ∧ u.host.lastReply.map
    (fun r => (r.ctx, r.opcode, r.data)) = some (c.cmd.ctx, c.cmd.opcode, changeIdent c) ∧ (u.host.changes =
    s.host.changes.map (fun d => if d.id = c.id then { c with agreed := true, replied := true } else d))) ∧
  (∀ (s : State) (n : BitVec 16) (k : Fin 4096) (c : Change) (v : W32), RegsOk s → findChange s n.toNat = some c →
    earlierChanges s c = [] → c.agreed = true → c.replied = true → c.param = none → c.target = .both → c.entries =
    [⟨BitVec.ofNat 32 (R.LAW_NODE + 4 * k.val), 0xFFFFFFFF#32, v⟩] → writeTwins s .both ≠ [] → (writeTwins s
    .both).all (fun t => ((graph s t).bind (fun g => g.nodes[k.val]?)).any (fun x => x.kind == 2)) = true → F32.isNan
    v = false → ∃ u, exec (.changeDevelop n) s = .next u ∧ u.host.changes = s.host.changes.filter (fun d => d.id !=
    c.id) ∧ (writeTwins s .both).all (fun t => rd u t (R.LAW_NODE + 4 * k.val) == v) = true) ∧
  (∀ (s : State) (t : Twin) (n : BitVec 16) (c : Change) (x v : W32), RegsOk s → findChange s n.toNat = some c →
    earlierChanges s c = [] → (c.agreed = true ∨ otherAgrees s = false) → c.replied = true → c.param = none →
    c.entries = [⟨x, 0xFFFFFFFF#32, v⟩] → x.toNat ∈ [R.ARR_INS_RAMP, R.ARR_INS_KEEP, R.ARR_DMG_A, R.ARR_S_VNOM,
    R.CELL_A_COND, R.CELL_TMAX, R.NEG_EXP_PRE, R.NEG_EXP_LEVEL, R.PWM_P_START_S, R.ADC_C_SCALE, R.NET_IP, R.NET_MASK,
    R.TIME_KP, R.STQ_Q_DEST_IP, R.TWN_CELL_TOL, R.DRV_VCH_HI, R.DRV_D_LS, R.DRV_ENC_OFS] → (if c.target = .both then
    (findRow x.toNat).any (fun r => oneTwinWord r.base v) else (findRow x.toNat).any (fun r => agreedWrite s r
    x.toNat v)) = false → t ∈ writeTwins s c.target → (writeTwins s c.target).all (fun t => !(absent s t)) = true →
    twinsCode (writeTwins s c.target) (fun t => (findRow x.toNat).elim 0 (fun r => judge s t r x.toNat v)) = Rc.OK →
    ∃ u, exec (.changeDevelop n) s = .next u ∧ u.host.changes = s.host.changes.filter (fun d => d.id != c.id) ∧ rd u
    t x.toNat = v) ∧
  (∀ (s : State) (t : Twin) (n : BitVec 16) (c : Change) (x m v : W32) (h : Fin 4), RegsOk s → twState s t ≠ tsReset
    → findChange s n.toNat = some c → earlierChanges s c = [] → (c.agreed = true ∨ otherAgrees s = false) → c.replied
    = true → c.param = none → c.cmd.ctx = h.val → c.entries = [⟨x, m, v⟩] → inBlocks x.toNat = false → findRow
    x.toNat = none → ∃ u, exec (.changeDevelop n) s = .next u ∧ u.host.changes = s.host.changes.filter (fun d => d.id
    != c.id) ∧ flag u t (hf R.HST_H_EVENT_DEV_FAILED h.val) = true ∧ rf u t (hf R.HST_H_DEV_RESULT_CHANGE_ID h.val) =
    c.id % 65536 ∧ rf u t (hf R.HST_H_DEV_RESULT_CODE h.val) = Rc.ADDR_INVALID) ∧
  (∀ (s : State) (n : BitVec 16) (c : Change), findChange s n.toNat = some c → c.agreed = false → otherAgrees s =
    true → ∃ u, exec (.changeDevelop n) s = .next u ∧ u = s) ∧
  (∀ (s : State) (h : Fin 4) (n : BitVec 16) (c : Change), leader s ≠ none → findChange s n.toNat = some c →
    c.cmd.ctx = h.val → devTime s (asker s) < (c.due - leadNs s) * 65536 → ∃ u, exec (.cancelChange h n) s = .next u
    ∧ u.report = Rc.OK ∧ u.host.lastReply.map (fun r => (r.ctx, r.opcode, r.data)) = some (h.val, 0x14, []) ∧
    u.host.changes = s.host.changes.filter (fun d => d.id != c.id))

/-- Ownership (R400 to R402). -/
def Obligations.OwnershipCommandsComplete : Prop :=
  (∀ (s : State) (h : Fin 4) (y x : Byte), RegsOk s → leader s ≠ none → (List.range 5).all (fun g => !(nbit y.toNat
    g) || (groupOwner s g).isNone || groupOwner s g == some h.val) = true → ∃ u, exec (.take h y x) s = .next u ∧
    u.report = Rc.OK ∧ (∀ g : Fin 5, groupOwner u g.val = if nbit y.toNat g.val then some h.val else groupOwner s
    g.val) ∧ u.host.lastReply.map (fun r => r.data.take 1) = some [BitVec.ofNat 8 (groupsOf u h.val)]) ∧
  (∀ (s : State) (h : Fin 4) (y x : Byte) (g : Fin 5) (k : Nat), RegsOk s → leader s ≠ none → nbit y.toNat g.val =
    true → groupOwner s g.val = some k → k ≠ h.val → x ≠ 1 → ∃ u, exec (.take h y x) s = .next u ∧ u.report =
    Rc.OWNED ∧ groupOwner u g.val = some k) ∧
  (∀ (s : State) (h : Fin 4) (y : Byte) (g : Fin 5) (k : Fin 4), RegsOk s → leader s ≠ none → nbit y.toNat g.val =
    true → groupOwner s g.val = some k.val → k ≠ h → rf s (asker s) (hf R.HST_H_CFG_RANK h.val) < rf s (asker s) (hf
    R.HST_H_CFG_RANK k.val) → ∃ u, exec (.take h y 1#8) s = .next u ∧ groupOwner u g.val = some h.val ∧ flag u (asker
    s) (hf R.HST_H_EVENT_OWNER_LOST k.val) = true) ∧
  (∀ (s : State) (h : Fin 4) (y : Byte), RegsOk s → leader s ≠ none → ∃ u, exec (.release h y) s = .next u ∧ u.report
    = Rc.OK ∧ (∀ g : Fin 5, groupOwner u g.val = if nbit y.toNat g.val && groupOwner s g.val == some h.val then none
    else groupOwner s g.val) ∧ u.host.lastReply.map (fun r => (r.ctx, r.opcode, r.data)) = some (h.val, 0x21,
    [BitVec.ofNat 8 (groupsOf u h.val)])) ∧
  (∀ (s : State) (h : Fin 4), RegsOk s → leader s ≠ none → ∃ u, exec (.leaseLapse h) s = .next u ∧ (∀ g : Fin 5,
    groupOwner u g.val = if groupOwner s g.val = some h.val then none else groupOwner s g.val) ∧ (groupsOf s h.val ≠
    0 → flag u (asker s) (hf R.HST_H_EVENT_OWNER_LOST h.val) = true))

/-- Key rolls (R399), sessions (R414, R447) and UPDATE (R160, R414). That a key roll's flash writes succeed is its operand; the image's checks are those of its type. -/
def Obligations.FlashCommandsComplete : Prop :=
  (∀ (s : State) (h : Fin 4) (y : BitVec 128) (t : Twin), RegsOk s → leader s = some t → flashReady s = true →
    leaveFree s t 5 (8 + h.val) = true → ∃ u, exec (.keyRoll h y true) s = .next u ∧ u.report = Rc.OK ∧
    u.a.flash.keys = tabSet 0 s.a.flash.keys h.val (rolledKey (ctxKey s h.val) y) ∧ u.b.flash.keys = tabSet 0
    s.b.flash.keys h.val (rolledKey (ctxKey s h.val) y) ∧ highCtr u h.val = 0 ∧ flag u t (hf R.HST_H_EVENT_KEY_ROLLED
    h.val) = true ∧ (leaveHeldFor s 5 t (8 + h.val) = false → u.sluice = s.sluice)) ∧
  (∀ (s : State) (h : Fin 4) (y : BitVec 128) (t : Twin) (x : Bool), RegsOk s → leader s = some t → (x = false ∨
    flashReady s = false) → leaveFree s t 5 (8 + h.val) = true → ∃ u, exec (.keyRoll h y x) s = .next u ∧ u.report =
    Rc.FLASH_FAIL ∧ u.a.flash.keys = s.a.flash.keys ∧ u.b.flash.keys = s.b.flash.keys ∧ highCtr u h.val = highCtr s
    h.val ∧ (leaveHeldFor s 5 t (8 + h.val) = false → u.sluice = s.sluice)) ∧
  (∀ (s : State) (h : Fin 4), TabsOk s → ∃ u, exec (.keyRollGraceEnd h) s = .next u ∧ (hctx u h.val).rolled = none ∧
    (hctx u h.val).kept = (hctx s h.val).kept ∧ (hctx u h.val).queue = (hctx s h.val).queue) ∧
  (∀ (s : State) (h : Fin 4) (t : Twin) (y x : Byte) (v : W32), RegsOk s → leader s ≠ none → y.toNat = t.index →
    x.toNat ≤ 3 → v.toNat ≤ slotSize x.toNat → ownsAll s h.val (typeGroups x.toNat) = true → twState s t ≠ tsReset →
    (s.tw t).flash.session = none → leaveFree s t 5 0 = true → ∃ u, exec (.flashOpen h y x v) s = .next u ∧ u.report
    = Rc.OK ∧ u.host.lastReply.map (fun r => (r.ctx, r.opcode, r.data)) = some (h.val, 0x30, beBytes 2 ((s.tw
    t).flash.nextSession * 2 + t.index)) ∧ (u.tw t).flash.session = some ((s.tw t).flash.nextSession * 2 + t.index) ∧
    (u.tw t).flash.sessType = x.toNat ∧ (u.tw t).flash.sessLen = v.toNat ∧ (u.tw t).flash.sessGranted = true ∧ nbit
    (u.tw t).flash.verified x.toNat = false) ∧
  (∀ (s : State) (h : Fin 4) (t : Twin) (z : BitVec 16) (v : W32) (d : List Byte) (k : Nat), leader s ≠ none →
    sessionTwin s z.toNat = some t → ownsAll s h.val (typeGroups (s.tw t).flash.sessType) = true → d.length = 4 * k →
    0 < k → k ≤ 256 → v.toNat % 4 = 0 → v.toNat < (s.tw t).flash.sessLen → v.toNat + d.length ≤ ((s.tw
    t).flash.sessLen + 3) / 4 * 4 → (s.tw t).flash.sessGranted = true → ∃ u, exec (.flashWrite h z v d) s = .next u ∧
    u.report = Rc.OK ∧ u.host.lastReply.map (fun r => (r.ctx, r.opcode, r.data)) = some (h.val, 0x31, []) ∧ (k = 1 →
    (u.tw t).flash.sessWords = tabSet none (s.tw t).flash.sessWords (v.toNat / 4) (some (BitVec.ofNat 32 (beNat d))))
    ∧ (u.tw t).flash.sessWords = ((wordsOfBytes d).zip (List.range k)).foldl (fun m p => tabSet none m (v.toNat / 4 +
    p.2) (some p.1)) (s.tw t).flash.sessWords) ∧
  (∀ (s : State) (h : Fin 4) (t : Twin) (z : BitVec 16) (v : W32) (d : List Byte), leader s ≠ none → sessionTwin s
    z.toNat = some t → ownsAll s h.val (typeGroups (s.tw t).flash.sessType) = true → d.length = 4 → v.toNat % 4 = 0 →
    v.toNat + 4 ≤ (s.tw t).flash.sessLen → (s.tw t).flash.sessGranted = false → ∃ u, exec (.flashWrite h z v d) s =
    .next u ∧ u.report = Rc.LEAVE_WAIT ∧ (u.tw t).flash.sessWords = (s.tw t).flash.sessWords) ∧
  (∀ (s : State) (h : Fin 4) (t : Twin) (z : BitVec 16) (p : List Byte), leader s ≠ none → sessionTwin s z.toNat =
    some t → ownsAll s h.val (typeGroups (s.tw t).flash.sessType) = true → sessionImage (s.tw t).flash = some p → p ≠
    [] → ∃ u, exec (.flashClose h z) s = .next u ∧ u.report = Rc.OK ∧ (u.tw t).flash.session = none ∧ (u.tw
    t).flash.images = tabSet [] (s.tw t).flash.images (2 * (s.tw t).flash.sessType + (1 - bit (nbit (s.tw
    t).flash.active (s.tw t).flash.sessType))) p ∧ ((u.host.lastReply.map (fun r => r.data) = some [0#8]) ↔ (nbit
    (u.tw t).flash.verified (s.tw t).flash.sessType = true))) ∧
  (∀ (s : State) (h : Fin 4) (t : Twin) (z : BitVec 16), leader s ≠ none → sessionTwin s z.toNat = some t → ownsAll s
    h.val (typeGroups (s.tw t).flash.sessType) = true → ∃ u, exec (.flashAbort h z) s = .next u ∧ u.report = Rc.OK ∧
    u.host.lastReply.map (fun r => (r.ctx, r.opcode, r.data)) = some (h.val, 0x33, []) ∧ (u.tw t).flash.session =
    none ∧ (u.tw t).flash.images = (s.tw t).flash.images) ∧
  (∀ (s : State) (t : Twin), (s.tw t).flash.session ≠ none → ∃ u, exec (.flashSessionTimeout t) s = .next u ∧ (u.tw
    t).flash.session = none ∧ (u.tw t).flash.sessGranted = false ∧ (s.sluice.held = [⟨5, 250, t, true, 0, false⟩] →
    u.sluice.held = [])) ∧
  (∀ (s : State) (h : Fin 4) (t : Twin), RegsOk s → leader s = some t → groupOwner s 4 = some h.val → twState s
    t.other = tsFollowing → (s.tw t.other).flash.verified ≠ 0 → ∃ u, exec (.update h) s = .next u ∧ u.report = Rc.OK
    ∧ u.host.lastReply.map (fun r => (r.ctx, r.opcode, r.data)) = some (h.val, 0x34, []) ∧ twState u t.other =
    tsWithdrawn ∧ rf u t.other R.TWN_STATE_CAUSE = 10)

/-- Streams (R416 to R421) and dumps (R201, R414). -/
def Obligations.TraceCommandsComplete : Prop :=
  (∀ (s : State) (h : Fin 4) (t : Twin) (y x : Byte) (n : BitVec 16) (q : Fin 6), RegsOk s → TabsOk s → leader s ≠
    none → groupOwner s 3 = some h.val → y.toNat = t.index → x.toNat = q.val → 0 < n.toNat → n.toNat ≤ 80 → absent s
    t = false → rf s t (qf R.STQ_Q_CFG_EN q.val) = 1 → rf s t (qf R.STQ_Q_CFG_SINK q.val) = 0 → ∃ u, exec
    (.streamRead h y x n) s = .next u ∧ u.report = Rc.OK ∧ u.host.lastReply.map (fun r => (r.ctx, r.opcode,
    r.data.length, (r.data.drop 4).take 4)) = some (h.val, 0x50, 12 + 17 * (min n.toNat (((queue s t
    q.val).drain.length + 15) / 16)), beBytes 4 (rd s t (qa R.STQ_Q_SEQ q.val)).toNat) ∧ rd u t (qa R.STQ_Q_SEQ
    q.val) = rd s t (qa R.STQ_Q_SEQ q.val) + BitVec.ofNat 32 (min n.toNat (((queue s t q.val).drain.length + 15) /
    16)) ∧ (16 * n.toNat < (queue s t q.val).drain.length → (queue u t q.val).drain = (queue s t q.val).drain.drop
    (16 * n.toNat))) ∧
  (∀ (s : State) (h : Fin 4) (t : Twin) (y x : Byte) (q : Fin 6), RegsOk s → TabsOk s → leader s ≠ none → groupOwner
    s 3 = some h.val → y.toNat = t.index → x.toNat = q.val → absent s t = false → ∃ u, exec (.streamFlush h y x) s =
    .next u ∧ u.report = Rc.OK ∧ u.host.lastReply.map (fun r => (r.ctx, r.opcode, r.data)) = some (h.val, 0x51, []) ∧
    ((queue s t q.val).fill = [] → queue u t q.val = queue s t q.val) ∧ ((queue s t q.val).fill ≠ [] ∧ (queue s t
    q.val).drain ≠ [] → (queue u t q.val).closed = true) ∧ ((queue s t q.val).fill ≠ [] ∧ (queue s t q.val).drain =
    [] → (queue u t q.val).drain = (queue s t q.val).fill ∧ (queue u t q.val).fill = [])) ∧
  (∀ (s : State) (h : Fin 4) (t : Twin) (y x : Byte) (e : Fin 4), RegsOk s → leader s ≠ none → groupOwner s 3 = some
    h.val → y.toNat = t.index → x.toNat = e.val → absent s t = false → expSt s t e.val = 4 → leaveFree s t 7 e.val =
    true → ∃ u, exec (.negDump h y x) s = .next u ∧ u.report = Rc.OK ∧ u.host.lastReply.map (fun r => (r.ctx,
    r.opcode, r.data)) = some (h.val, 0x52, beBytes 4 (rd s t (ea R.NEG_EXP_ROWS e.val)).toNat) ∧ leaveHeldFor u 7 t
    e.val = true ∧ rd u t (ea R.NEG_EXP_ROWS e.val) = rd s t (ea R.NEG_EXP_ROWS e.val))

/-- Power-up (R429), rails (R431, R432), resets (R433, R435) and over-temperature (R475). -/
def Obligations.ResetAndRailCommandsComplete : Prop :=
  (∀ (s : State) (t : Twin), RegsOk s → biti s .a R.PWR_STATUS_GOOD 0 = false → ∃ u, exec (.vinRise) s = .next u ∧ rf
    u t R.PWR_STATUS_GOOD = 1 ∧ rf u t R.SYS_STATUS_CAUSE = 1) ∧
  (∀ (s : State) (t : Twin), RegsOk s → biti s .a R.PWR_STATUS_GOOD 0 = true → s.overTemp = false → ∃ u, exec
    (.railsGood) s = .next u ∧ rf u t R.PWR_STATUS_GOOD = 255 ∧ rf u t R.CLK_STATUS_XTAL = rf s t R.CLK_STATUS_XTAL) ∧
  (∀ (s : State), (s.overTemp = true ∨ biti s .a R.PWR_STATUS_GOOD 0 = false) → ∃ u, exec (.railsGood) s = .next u ∧
    u = s) ∧
  (∀ (s : State) (t : Twin), RegsOk s → twState s t = tsReset → ∃ u, exec (.xtalFail t) s = .next u ∧ rf u t
    R.PWR_STATUS_XTAL_FAIL = 1 ∧ rf u t R.CLK_STATUS_XTAL = 0 ∧ (u.tw t).pwr.xtalFail = true) ∧
  (∀ (s : State) (t : Twin), RegsOk s → ∃ u, exec (.brownOut) s = .next u ∧ twState u t = tsReset ∧ rf u t
    R.SYS_STATUS_CAUSE = 1 ∧ rd u t R.SYS_RESETS = 0#32 ∧ u.ilk = {} ∧ u.host = {} ∧ u.sluice.held = [] ∧
    u.sluice.queue = [] ∧ rf u t R.PWR_STATUS_GOOD = 0 ∧ (u.tw t).pwr.xtalFail = false ∧ u.overTemp = s.overTemp) ∧
  (∀ (s : State) (t : Twin), RegsOk s → (rd s t R.SYS_RESETS).toNat < 4294967294 → ∃ u, exec (.resetN) s = .next u ∧
    twState u t = tsReset ∧ rf u t R.SYS_STATUS_CAUSE = 2 ∧ rd u t R.SYS_RESETS = rd s t R.SYS_RESETS + 1 ∧ u.ilk =
    {} ∧ u.host = {} ∧ u.sluice.held = [] ∧ u.sluice.queue = [] ∧ rf u t R.PWR_STATUS_GOOD = rf s t R.PWR_STATUS_GOOD
    ∧ u.overTemp = s.overTemp) ∧
  (∀ (s : State) (t : Twin), RegsOk s → s.overTemp = false → ∃ u, exec (.overTemperature) s = .next u ∧ twState u t =
    tsReset ∧ rf u t R.SYS_STATUS_CAUSE = 7 ∧ rd u t R.SYS_RESETS = 0#32 ∧ u.ilk = {} ∧ u.host = {} ∧ u.sluice.held =
    [] ∧ u.sluice.queue = [] ∧ u.overTemp = true ∧ rf u t R.PWR_STATUS_GOOD = bit (biti s .a R.PWR_STATUS_GOOD 0)) ∧
  (∀ (s : State) (t : Twin), RegsOk s → s.overTemp = true → ∃ u, exec (.overTempRestart) s = .next u ∧ u.overTemp =
    false ∧ rf u t R.SYS_STATUS_CAUSE = 7 ∧ rf u t R.PWR_STATUS_GOOD = rf s t R.PWR_STATUS_GOOD) ∧
  (∀ (s : State) (t : Twin), RegsOk s → (rd s t R.SYS_RESETS).toNat < 4294967294 → ∃ u, exec (.coreRailFault t) s =
    .next u ∧ twState u t = tsReset ∧ rf u t R.SYS_STATUS_CAUSE = 3 ∧ rd u t R.SYS_RESETS = rd s t R.SYS_RESETS + 1 ∧
    rd u t.other R.TWN_STATE = rd s t.other R.TWN_STATE ∧ biti u t R.PWR_STATUS_GOOD (6 + t.index) = false) ∧
  (∀ (s : State) (t : Twin), RegsOk s → (rd s t R.SYS_RESETS).toNat < 4294967294 → s.lockedLife = false → ∃ u, exec
    (.debugReset t) s = .next u ∧ u.report = Rc.OK ∧ twState u t = tsReset ∧ rf u t R.SYS_STATUS_CAUSE = 6 ∧ rd u t
    R.SYS_RESETS = rd s t R.SYS_RESETS + 1 ∧ rd u t.other R.TWN_STATE = rd s t.other R.TWN_STATE) ∧
  (∀ (s : State) (t : Twin), s.lockedLife = true → ∃ u, exec (.debugReset t) s = .next u ∧ u =
    { s with report := Rc.LIFECYCLE_LOCKED }) ∧
  (∀ (s : State) (t : Twin), RegsOk s → (rd s t R.SYS_RESETS).toNat < 4294967294 → twState s t = tsWithdrawn → ∃ u,
    exec (.resetTwin t) s = .next u ∧ u.report = Rc.OK ∧ twState u t = tsReset ∧ rf u t R.SYS_STATUS_CAUSE = 4 ∧ rd u
    t R.SYS_RESETS = rd s t R.SYS_RESETS + 1 ∧ rd u t.other R.TWN_STATE = rd s t.other R.TWN_STATE) ∧
  (∀ (s : State) (t : Twin), twState s t ≠ tsWithdrawn → ∃ u, exec (.resetTwin t) s = .next u ∧ u =
    { s with report := Rc.NOT_WITHDRAWN }) ∧
  (∀ (s : State) (t : Twin), RegsOk s → twState s t = tsFollowing → ∃ u, exec (.coreRailWindow t) s = .next u ∧
    twState u t = tsWithdrawn ∧ rf u t R.TWN_STATE_CAUSE = 6 ∧ biti u t R.PWR_STATUS_GOOD (6 + t.index) = false ∧
    u.ilk.holder ≠ some t) ∧
  (∀ (s : State) (l : Twin), RegsOk s → leader s = some l → twState s l.other = tsFollowing → ∃ u, exec (.vioWindow)
    s = .next u ∧ twState u l = tsWithdrawn ∧ twState u l.other = tsWithdrawn ∧ rf u l R.TWN_STATE_CAUSE = 6 ∧ rf u
    l.other R.TWN_STATE_CAUSE = 6 ∧ biti u l R.SAF_STATUS_INT 2 = true ∧ biti u l R.PWR_STATUS_GOOD 1 = false) ∧
  (∀ (s : State) (t : Twin), RegsOk s → twState s t ≠ tsReset → ∃ u, exec (.mpWdt t) s = .next u ∧ flag u t
    R.SYS_EVENT_MP_WDT = true ∧ twState u t = twState s t) ∧
  (∀ (s : State) (t : Twin) (x : BitVec 4), RegsOk s → twState s t = tsReset → rf s t R.PWR_STATUS_GOOD = 255 → (s.tw
    t).pwr.xtalFail = false → ∃ u, exec (.twinResetRelease t x) s = .next u ∧ twState u t = tsBoot ∧ rf u t
    R.SYS_STATUS_CFG = x.toNat ∧ rf u t R.CLK_STATUS_XTAL = 1 ∧ (twState s t.other = tsReset → flag u t
    R.SYS_STATUS_SAFELIGHT = x.getLsbD 2) ∧ (twState s t.other ≠ tsReset → flag u t R.SYS_STATUS_SAFELIGHT = flag s
    t.other R.SYS_STATUS_SAFELIGHT) ∧ flag u t R.SYS_CTRL_SAFELIGHT = flag u t R.SYS_STATUS_SAFELIGHT ∧ (u.tw t).tb =
    0 ∧ biti u t R.CLK_STATUS_LOCK 0 = true) ∧
  (∀ (s : State) (t : Twin), RegsOk s → twState s t ≠ tsReset → ∃ u, exec (.pfail) s = .next u ∧ u.pfail = true ∧
    flag u t R.PWR_EVENT_PFAIL = true ∧ flag u t R.PWR_STATUS_ORDERLY_DONE = true ∧ (u.tw t).flash.session = none) ∧
  (∀ (s : State), ∃ u, exec (.vinReturn) s = .next u ∧ u = { s with pfail := false })

/-- The loop (R436, R437), loss of lock (R442, R277) and ramps (R441). Whether a wait is over is the model's count of 10 µs runs. -/
def Obligations.ClockCommandsComplete : Prop :=
  (∀ (s : State) (t : Twin) (n x y : BitVec 16), RegsOk s → twState s t ≠ tsReset → n.toInt < 100 → (s.tw
    t).pwr.bootDone = true → (flag s t R.PWR_VCORE_MODE && flag s t R.SYS_STATUS_SAFELIGHT) = false → ∃ u, exec
    (.vcoreLoop t n x y) s = .next u ∧ rf u t R.PWR_VCORE_SETPOINT = min 850 (rf s t R.PWR_VCORE_SETPOINT + 20) ∧
    flag u t R.PWR_EVENT_SLACK_LOW = true ∧ rf u t R.PWR_SLACK_SLACK = n.toNat ∧ rf u t R.PWR_MEAS_VIN = x.toNat ∧ rf
    u t R.PWR_MEAS_TDIE = y.toNat) ∧
  (∀ (s : State) (t : Twin) (n x y : BitVec 16), RegsOk s → twState s t ≠ tsReset → 100 ≤ n.toInt → n.toInt < rf s t
    R.PWR_SLACK_TGT → (s.tw t).pwr.bootDone = true → (flag s t R.PWR_VCORE_MODE && flag s t R.SYS_STATUS_SAFELIGHT) =
    false → ∃ u, exec (.vcoreLoop t n x y) s = .next u ∧ rf u t R.PWR_VCORE_SETPOINT = min 850 (rf s t
    R.PWR_VCORE_SETPOINT + 5) ∧ rf u t R.PWR_SLACK_SLACK = n.toNat ∧ rf u t R.PWR_MEAS_VIN = x.toNat ∧ rf u t
    R.PWR_MEAS_TDIE = y.toNat) ∧
  (∀ (s : State) (t : Twin) (n x y : BitVec 16), RegsOk s → twState s t ≠ tsReset → 100 ≤ n.toInt → rf s t
    R.PWR_SLACK_TGT + 100 < n.toInt → (s.tw t).pwr.downWait ≤ 1 → (s.tw t).pwr.bootDone = true → (flag s t
    R.PWR_VCORE_MODE && flag s t R.SYS_STATUS_SAFELIGHT) = false → ∃ u, exec (.vcoreLoop t n x y) s = .next u ∧ rf u
    t R.PWR_VCORE_SETPOINT = max 650 (rf s t R.PWR_VCORE_SETPOINT - 5) ∧ (u.tw t).pwr.downWait = 100 ∧ rf u t
    R.PWR_SLACK_SLACK = n.toNat ∧ rf u t R.PWR_MEAS_VIN = x.toNat ∧ rf u t R.PWR_MEAS_TDIE = y.toNat) ∧
  (∀ (s : State) (t : Twin) (n x y : BitVec 16), RegsOk s → twState s t ≠ tsReset → 100 ≤ n.toInt → rf s t
    R.PWR_SLACK_TGT ≤ n.toInt → n.toInt ≤ rf s t R.PWR_SLACK_TGT + 100 → (s.tw t).pwr.bootDone = true → (flag s t
    R.PWR_VCORE_MODE && flag s t R.SYS_STATUS_SAFELIGHT) = false → ∃ u, exec (.vcoreLoop t n x y) s = .next u ∧ rf u
    t R.PWR_VCORE_SETPOINT = rf s t R.PWR_VCORE_SETPOINT ∧ (u.tw t).pwr.downWait = (s.tw t).pwr.downWait - 1 ∧ rf u t
    R.PWR_SLACK_SLACK = n.toNat ∧ rf u t R.PWR_MEAS_VIN = x.toNat ∧ rf u t R.PWR_MEAS_TDIE = y.toNat) ∧
  (∀ (s : State) (t : Twin) (n x y : BitVec 16), RegsOk s → twState s t ≠ tsReset → (s.tw t).pwr.bootDone = false → ∃
    u, exec (.vcoreLoop t n x y) s = .next u ∧ rf u t R.PWR_VCORE_SETPOINT = 800 ∧ rf u t R.PWR_SLACK_SLACK = n.toNat
    ∧ rf u t R.PWR_MEAS_VIN = x.toNat ∧ rf u t R.PWR_MEAS_TDIE = y.toNat) ∧
  (∀ (s : State) (t : Twin) (n x y : BitVec 16), RegsOk s → twState s t ≠ tsReset → (s.tw t).pwr.bootDone = true →
    flag s t R.PWR_VCORE_MODE = true → flag s t R.SYS_STATUS_SAFELIGHT = true → ∃ u, exec (.vcoreLoop t n x y) s =
    .next u ∧ rf u t R.PWR_VCORE_SETPOINT = rf s t R.PWR_VCORE_FIXED ∧ rf u t R.PWR_SLACK_SLACK = n.toNat ∧ rf u t
    R.PWR_MEAS_VIN = x.toNat ∧ rf u t R.PWR_MEAS_TDIE = y.toNat) ∧
  (∀ (s : State) (t : Twin), RegsOk s → twState s t = tsFollowing → rf s t R.PWR_VCORE_SETPOINT = 850 → (BitVec.ofNat
    16 (rf s t R.PWR_SLACK_SLACK)).toInt < 0 → ∃ u, exec (.slackError t) s = .next u ∧ twState u t = tsWithdrawn ∧ rf
    u t R.TWN_STATE_CAUSE = 2) ∧
  (∀ (s : State) (t : Twin) (k : Fin 6), RegsOk s → twState s t ≠ tsReset → k ≠ 0 → k ≠ 5 → biti s t
    R.CLK_STATUS_LOCK k.val = true → ∃ u, exec (.pllLockLoss t k) s = .next u ∧ biti u t R.CLK_STATUS_LOCK k.val =
    false ∧ biti u t R.CLK_EVENT_UNLOCK k.val = true ∧ (k = 1 → flag u t R.ADC_STATUS_AD_UNLOCK = true) ∧ (k = 2 → ∀
    c : Fin 12, ringSt u t c.val = 0) ∧ (k = 4 → flag u t R.CLK_STATUS_MP_RC = true ∧ rd u t R.CLK_MP_FREQ = 50000 ∧
    (u.tw t).pwr.lastFreq = mpFreq s t)) ∧
  (∀ (s : State) (t : Twin), RegsOk s → twState s t = tsFollowing → biti s t R.CLK_STATUS_LOCK 0 = true → ∃ u, exec
    (.pllLockLoss t 0) s = .next u ∧ biti u t R.CLK_STATUS_LOCK 0 = false ∧ twState u t = tsWithdrawn ∧ rf u t
    R.TWN_STATE_CAUSE = 5 ∧ rf u t R.CLK_STATUS_XTAL = rf s t R.CLK_STATUS_XTAL) ∧
  (∀ (s : State) (t : Twin), RegsOk s → twState s t = tsFollowing → biti s t R.CLK_STATUS_LOCK 0 = true → ∃ u, exec
    (.pllLockLoss t 5) s = .next u ∧ biti u t R.CLK_STATUS_LOCK 0 = false ∧ twState u t = tsWithdrawn ∧ rf u t
    R.TWN_STATE_CAUSE = 5 ∧ rf u t R.CLK_STATUS_XTAL = 0) ∧
  (∀ (s : State) (t : Twin), RegsOk s → twState s t ≠ tsReset → biti s t R.CLK_STATUS_LOCK 0 = false → ∃ u, exec
    (.pllLockLoss t 5) s = .next u ∧ u = wf s t R.CLK_STATUS_XTAL 0) ∧
  (∀ (s : State) (t : Twin) (k : Fin 5), RegsOk s → twState s t ≠ tsReset → ∃ u, exec (.pllRelock t k) s = .next u ∧
    biti u t R.CLK_STATUS_LOCK k.val = true ∧ (k = 0 → rf u t R.CLK_STATUS_XTAL = 1) ∧ (k = 1 → flag u t
    R.ADC_STATUS_AD_UNLOCK = false) ∧ (k = 4 ∧ flag s t R.CLK_STATUS_MP_RC = true ∧ (s.tw t).pwr.lastFreq ≠ 0 → rd u
    t R.CLK_MP_FREQ = BitVec.ofNat 32 (s.tw t).pwr.lastFreq ∧ flag u t R.CLK_STATUS_MP_RC = false)) ∧
  (∀ (s : State) (t : Twin), RegsOk s → rampValid s t = true → leaveFree s t 6 0 = true → ∃ u, exec (.rampStart t) s
    = .next u ∧ u.report = Rc.OK ∧ flag u t R.CLK_STATUS_RAMPING = true ∧ leaveHeld u 6 t = true ∧ (u.tw
    t).pwr.rampFrom = mpFreq s t ∧ (u.tw t).pwr.rampAt = (s.tw t).tb ∧ (u.tw t).pwr.rampPts = rampProfile s t) ∧
  (∀ (s : State) (t : Twin), rampValid s t = false → ∃ u, exec (.rampStart t) s = .next u ∧ u =
    { s with report := Rc.RAMP_INVALID }) ∧
  (∀ (s : State) (t : Twin) (n : BitVec 4), RegsOk s → 1 ≤ n.toNat → n.toNat ≤ 8 → flag s t R.CLK_STATUS_RAMPING =
    true → ∃ u, exec (.rampAbort t n) s = .next u ∧ u.report = Rc.OK ∧ rf u t R.CLK_RAMP_CTRL_NPTS = n.toNat ∧ flag u
    t R.CLK_STATUS_RAMPING = false ∧ rd u t R.CLK_MP_FREQ = BitVec.ofNat 32 (mpFreq s t) ∧ (s.sluice.held = [⟨6, 350,
    t, true, 0, false⟩] → u.sluice.held = [])) ∧
  (∀ (s : State) (t : Twin) (n : BitVec 4), 1 ≤ n.toNat → n.toNat ≤ 8 → flag s t R.CLK_STATUS_RAMPING = false → ∃ u,
    exec (.rampAbort t n) s = .next u ∧ u = wf { s with report := Rc.OK } t R.CLK_RAMP_CTRL_NPTS n.toNat) ∧
  (∀ (s : State) (t : Twin) (n : BitVec 4), n.toNat = 0 → ∃ u, exec (.rampAbort t n) s = .next u ∧ u =
    { s with report := Rc.RAMP_INVALID }) ∧
  (∀ (s : State) (t : Twin) (n : BitVec 4), 8 < n.toNat → ∃ u, exec (.rampAbort t n) s = .next u ∧ u =
    { s with report := rangeCode R.CLK_RAMP_CTRL (n.zeroExtend 32) } ∧ u.report ≠ Rc.OK) ∧
  (∀ (s : State) (t : Twin) (x : Nat) (y : Nat × Nat) (l : List (Nat × Nat × Nat)), RegsOk s → flag s t
    R.CLK_STATUS_RAMPING = true → (s.tw t).pwr.rampPts = l ++ [(x, y)] → ∃ u, exec (.rampEnd t) s = .next u ∧ flag u
    t R.CLK_STATUS_RAMPING = false ∧ rd u t R.CLK_MP_FREQ = BitVec.ofNat 32 (1000 * x))

/-- Sluice leave (R443 to R446). -/
def Obligations.LeaveCommandsComplete : Prop :=
  (∀ (s : State) (t : Twin) (r : LeaveReq) (l : List LeaveReq), sameLedger s t s.sluice.queue = r :: l → headFits s t
    = true → s.pfail = false → (r.op = 1 ∨ r.op = 3 ∨ r.op = 4 ∨ r.op = 6 ∨ (r.op = 5 ∧ r.arg = 0) ∨ (r.op = 7 ∧
    expSt s r.twin r.arg = 4)) → ∃ u, exec (.sluiceGrant t) s = .next u ∧ u.sluice =
    { queue := s.sluice.queue.erase r, held := s.sluice.held ++ [r] } ∧ (r.op = 1 → (u.tw r.twin).pwr.fullTest =
    true) ∧ (r.op = 5 → (u.tw r.twin).flash.sessGranted = (s.tw r.twin).flash.session.isSome) ∧ (r.op = 6 → (u.tw
    r.twin).pwr.rampAt = (s.tw r.twin).tb) ∧ (r.op = 4 → u.edge.diag = (List.range 16).filter (fun c => biti s r.twin
    R.GD_DIAG_CTRL_MASK c))) ∧
  (∀ (s : State) (t : Twin) (r : LeaveReq) (l : List LeaveReq), sameLedger s t s.sluice.queue = r :: l → headFits s t
    = true → s.pfail = false → (r.op = 0 ∨ r.op = 2 ∨ (r.op = 5 ∧ (r.arg = 2 ∨ r.arg = 4))) → ∃ u, exec (.sluiceGrant
    t) s = .next u ∧ u.sluice.queue = s.sluice.queue.erase r ∧ (r.op = 0 → u.sluice.held = s.sluice.held ++ [r]) ∧
    (r.op = 5 ∧ r.arg = 2 → (u.tw r.twin).flash.cal = calFlash s r.twin) ∧ (r.op = 5 ∧ r.arg = 4 → (u.tw
    r.twin).flash.wear = wearRecord s r.twin)) ∧
  (∀ (s : State) (t : Twin) (r : LeaveReq) (l : List LeaveReq), RegsOk s → sameLedger s t s.sluice.queue = r :: l →
    headFits s t = true → s.pfail = false → s.host.waits.find? (fun w => w.op == r.op && w.twin == r.twin && w.arg ==
    r.arg) = none → ∃ u, exec (.sluiceGrant t) s = .next u ∧ u.sluice.queue = s.sluice.queue.erase r ∧ (r.op = 6 →
    flag u r.twin R.CLK_STATUS_RAMPING = true) ∧ (r.op = 3 → rf u r.twin R.ADC_CAL_STATUS_BUSY = 1) ∧ (r.waited =
    true ∧ (r.op = 1 ∨ r.op = 3 ∨ r.op = 6) → flag u r.twin R.PWR_EVENT_SLU_GRANT = true)) ∧
  (∀ (s : State) (t : Twin), (headFits s t = false ∨ s.pfail = true) → ∃ u, exec (.sluiceGrant t) s = .next u ∧ u =
    s) ∧
  (∀ (s : State) (t : Twin) (o : Fin 8) (r : LeaveReq), RegsOk s → s.sluice.held.find? (fun q => q.op == o.val &&
    q.twin == t) = some r → ∃ u, exec (.sluiceRelease t o) s = .next u ∧ u.sluice.held = s.sluice.held.erase r ∧
    u.sluice.queue = s.sluice.queue) ∧
  (∀ (s : State) (t : Twin) (o : Fin 8), RegsOk s → leaveWaits s o.val t = true → s.host.waits = [] → (rd s t
    R.PWR_WAITS).toNat < 4294967294 → ∃ u, exec (.leaveWait t o) s = .next u ∧ u.report = Rc.LEAVE_WAIT ∧ rd u t
    R.PWR_WAITS = rd s t R.PWR_WAITS + 1 ∧ (u.sluice.queue = s.sluice.queue.map (fun q => if q.op == o.val && q.twin
    == t then { q with waited := true } else q)) ∧ u.sluice.held = s.sluice.held) ∧
  (∀ (s : State) (t : Twin) (o : Fin 8), leaveWaits s o.val t = true → ∃ u, exec (.leaveWait t o) s = .next u ∧
    u.report = Rc.LEAVE_WAIT ∧ (u.sluice.queue = s.sluice.queue.map (fun q => if q.op == o.val && q.twin == t then
    { q with waited := true } else q)) ∧ u.host.waits.length = s.host.waits.length) ∧
  (∀ (s : State) (t : Twin) (o : Fin 8), leaveWaits s o.val t = false → (s.host.waits.filter (fun w => w.op == o.val
    && w.twin == t && !w.replied)) = [] → ∃ u, exec (.leaveWait t o) s = .next u ∧ u = s) ∧
  (∀ (s : State) (t : Twin) (o : Fin 8) (r : LeaveReq), RegsOk s → s.sluice.queue.find? (fun q => q.op == o.val &&
    q.twin == t && q.host) = some r → (rd s t R.PWR_TIMEOUTS).toNat < 4294967294 → ∃ u, exec (.sluTimeout t o) s =
    .next u ∧ u.sluice.queue = s.sluice.queue.erase r ∧ u.sluice.held = s.sluice.held ∧ rd u t R.PWR_TIMEOUTS = rd s
    t R.PWR_TIMEOUTS + 1 ∧ flag u t R.PWR_EVENT_SLU_TIMEOUT = true ∧ rd u t R.PWR_SLU_LAST = BitVec.ofNat 32 (o.val *
    4096 + t.index * 256 + Rc.LEAVE_TIMEOUT)) ∧
  (∀ (s : State) (t : Twin) (o : Fin 8), s.sluice.queue.find? (fun q => q.op == o.val && q.twin == t && q.host) =
    none → ∃ u, exec (.sluTimeout t o) s = .next u ∧ u = s)

/-- One-time memory (R449, R450), the lifecycle (R453, R398) and Safelight (R454, R455). -/
def Obligations.LifecycleAndSafelightCommandsComplete : Prop :=
  (∀ (s : State) (t : Twin) (x : BitVec 4) (k : Fin 4), RegsOk s → x = BitVec.ofNat 4 (2 ^ k.val) → ratchetCheck s
    k.val = Rc.OK → ratchetMoves s t k.val = true → ∃ u, exec (.ratchet x) s = .next u ∧ u.report = Rc.OK ∧ rd u t
    (R.SYS_VERCNT + 4 * k.val) = rd s t (R.SYS_VERSION + 4 * k.val) ∧ advLeft u t k.val = advLeft s t k.val - 1) ∧
  (∀ (s : State) (x : BitVec 4) (k : Fin 4), x = BitVec.ofNat 4 (2 ^ k.val) → ratchetCheck s k.val ≠ Rc.OK → ∃ u,
    exec (.ratchet x) s = .next u ∧ u = { s with report := ratchetCheck s k.val }) ∧
  (∀ (s : State) (t : Twin) (x y : BitVec 4), RegsOk s → (rf s t R.SYS_KEYREV_OWNER ||| x.toNat ≠ 15 ∨ x = 0) → (rf s
    t R.SYS_KEYREV_BEYLOS ||| y.toNat ≠ 15 ∨ y = 0) → ∃ u, exec (.keyRevoke t x y) s = .next u ∧ u.report = Rc.OK ∧
    rf u t R.SYS_KEYREV_OWNER = rf s t R.SYS_KEYREV_OWNER ||| x.toNat ∧ rf u t R.SYS_KEYREV_BEYLOS = rf s t
    R.SYS_KEYREV_BEYLOS ||| y.toNat) ∧
  (∀ (s : State) (t : Twin) (x y : BitVec 4), ((rf s t R.SYS_KEYREV_OWNER ||| x.toNat = 15 ∧ x ≠ 0) ∨ (rf s t
    R.SYS_KEYREV_BEYLOS ||| y.toNat = 15 ∧ y ≠ 0)) → ∃ u, exec (.keyRevoke t x y) s = .next u ∧ u =
    { s with report := Rc.PARAM_ORDER }) ∧
  (∀ (s : State) (t : Twin), RegsOk s → ∃ u, exec (.lifecycleLock 0x4C4F434B#32) s = .next u ∧ u.report = Rc.OK ∧
    u.lockedLife = true ∧ rf u t R.SYS_STATUS_LIFE = 1) ∧
  (∀ (s : State) (w : W32), w ≠ 0x4C4F434B#32 → ∃ u, exec (.lifecycleLock w) s = .next u ∧ u =
    { s with report := Rc.PARAM_ORDER }) ∧
  (∀ (s : State) (t : Twin) (h : Fin 4) (v : BitVec 384), s.lockedLife = false → ∃ u, exec (.debugKeyInstall false h
    v) s = .next u ∧ u.report = Rc.OK ∧ (u.tw t).flash.keys = tabSet 0 (s.tw t).flash.keys h.val (BitVec.ofNat 256
    v.toNat)) ∧
  (∀ (s : State) (x : Bool) (h : Fin 4) (v : BitVec 384), s.lockedLife = true → ∃ u, exec (.debugKeyInstall x h v) s
    = .next u ∧ u = { s with report := Rc.LIFECYCLE_LOCKED }) ∧
  (∀ (s : State) (t : Twin), RegsOk s → leader s ≠ none → safelight s = false → safelightRefused s = false →
    computing s t = true → ∃ u, exec (.safelightEnter) s = .next u ∧ u.report = Rc.OK ∧ flag u t R.SYS_CTRL_SAFELIGHT
    = true ∧ flag u t R.SYS_STATUS_SAFELIGHT = true ∧ safelight u = true) ∧
  (∀ (s : State), safelight s = false → safelightRefused s = true → ∃ u, exec (.safelightEnter) s = .next u ∧ u =
    { s with report := Rc.SAFELIGHT_REFUSED }) ∧
  (∀ (s : State) (t : Twin), RegsOk s → leader s ≠ none → safelight s = true → computing s t = true → ∃ u, exec
    (.safelightExit) s = .next u ∧ u.report = Rc.OK ∧ flag u t R.SYS_CTRL_SAFELIGHT = false ∧ flag u t
    R.SYS_STATUS_SAFELIGHT = false ∧ flag u t R.PWR_VCORE_MODE = false)
end

