-- ==== Sys2Proof/Laws/State.lean ====
section
/-! SUPPORT. One lemma per field of State per update: what replacing one twin's state leaves alone, and what the
register, report and hidden-state updates change. -/

namespace Sys2Proof.Machine

@[simp] theorem Twin.other_other (t : Twin) : t.other.other = t := by cases t <;> rfl
@[simp] theorem Twin.other_ne (t : Twin) : t.other ≠ t := by cases t <;> simp [Twin.other]
@[simp] theorem Twin.ne_other (t : Twin) : t ≠ t.other := by cases t <;> simp [Twin.other]

@[simp] theorem setTw_tw (s : State) (t : Twin) (x : TwinSt) : (s.setTw t x).tw t = x := by cases t <;> rfl
theorem setTw_tw_ne (s : State) {t u : Twin} (h : u ≠ t) (x : TwinSt) : (s.setTw t x).tw u = s.tw u := by
  cases t <;> cases u <;> first | rfl | exact absurd rfl h
@[simp] theorem setTw_tw_other (s : State) (t : Twin) (x : TwinSt) : (s.setTw t x).tw t.other = s.tw t.other := by
  cases t <;> rfl
@[simp] theorem setTw_tw_of_other (s : State) (t : Twin) (x : TwinSt) : (s.setTw t.other x).tw t = s.tw t := by
  cases t <;> rfl
@[simp] theorem setTw_pending (s : State) (t : Twin) (x : TwinSt) : (s.setTw t x).pending = s.pending := by cases t <;> rfl
@[simp] theorem setTw_ilk (s : State) (t : Twin) (x : TwinSt) : (s.setTw t x).ilk = s.ilk := by cases t <;> rfl
@[simp] theorem setTw_sluice (s : State) (t : Twin) (x : TwinSt) : (s.setTw t x).sluice = s.sluice := by cases t <;> rfl
@[simp] theorem setTw_host (s : State) (t : Twin) (x : TwinSt) : (s.setTw t x).host = s.host := by cases t <;> rfl
@[simp] theorem setTw_edge (s : State) (t : Twin) (x : TwinSt) : (s.setTw t x).edge = s.edge := by cases t <;> rfl
@[simp] theorem setTw_net (s : State) (t : Twin) (x : TwinSt) : (s.setTw t x).net = s.net := by cases t <;> rfl
@[simp] theorem setTw_cells (s : State) (t : Twin) (x : TwinSt) : (s.setTw t x).cells = s.cells := by cases t <;> rfl
@[simp] theorem setTw_report (s : State) (t : Twin) (x : TwinSt) : (s.setTw t x).report = s.report := by cases t <;> rfl
@[simp] theorem setTw_readOut (s : State) (t : Twin) (x : TwinSt) : (s.setTw t x).readOut = s.readOut := by cases t <;> rfl
@[simp] theorem setTw_pfail (s : State) (t : Twin) (x : TwinSt) : (s.setTw t x).pfail = s.pfail := by cases t <;> rfl
@[simp] theorem setTw_overTemp (s : State) (t : Twin) (x : TwinSt) : (s.setTw t x).overTemp = s.overTemp := by cases t <;> rfl
@[simp] theorem setTw_lockedLife (s : State) (t : Twin) (x : TwinSt) : (s.setTw t x).lockedLife = s.lockedLife := by cases t <;> rfl
@[simp] theorem setTw_free (s : State) (t : Twin) (x : TwinSt) : (s.setTw t x).free = s.free := by cases t <;> rfl

@[simp] theorem wr_pending (s : State) (t : Twin) (a : Nat) (v : W32) : (wr s t a v).pending = s.pending := setTw_pending ..
@[simp] theorem wr_ilk (s : State) (t : Twin) (a : Nat) (v : W32) : (wr s t a v).ilk = s.ilk := setTw_ilk ..
@[simp] theorem wr_sluice (s : State) (t : Twin) (a : Nat) (v : W32) : (wr s t a v).sluice = s.sluice := setTw_sluice ..
@[simp] theorem wr_host (s : State) (t : Twin) (a : Nat) (v : W32) : (wr s t a v).host = s.host := setTw_host ..
@[simp] theorem wr_edge (s : State) (t : Twin) (a : Nat) (v : W32) : (wr s t a v).edge = s.edge := setTw_edge ..
@[simp] theorem wr_net (s : State) (t : Twin) (a : Nat) (v : W32) : (wr s t a v).net = s.net := setTw_net ..
@[simp] theorem wr_cells (s : State) (t : Twin) (a : Nat) (v : W32) : (wr s t a v).cells = s.cells := setTw_cells ..
@[simp] theorem wr_report (s : State) (t : Twin) (a : Nat) (v : W32) : (wr s t a v).report = s.report := setTw_report ..
@[simp] theorem wr_readOut (s : State) (t : Twin) (a : Nat) (v : W32) : (wr s t a v).readOut = s.readOut := setTw_readOut ..
@[simp] theorem wr_pfail (s : State) (t : Twin) (a : Nat) (v : W32) : (wr s t a v).pfail = s.pfail := setTw_pfail ..
@[simp] theorem wr_overTemp (s : State) (t : Twin) (a : Nat) (v : W32) : (wr s t a v).overTemp = s.overTemp := setTw_overTemp ..
@[simp] theorem wr_lockedLife (s : State) (t : Twin) (a : Nat) (v : W32) : (wr s t a v).lockedLife = s.lockedLife := setTw_lockedLife ..
@[simp] theorem wr_free (s : State) (t : Twin) (a : Nat) (v : W32) : (wr s t a v).free = s.free := setTw_free ..
@[simp] theorem wr_tw_other (s : State) (t : Twin) (a : Nat) (v : W32) : (wr s t a v).tw t.other = s.tw t.other := setTw_tw_other ..

@[simp] theorem wf_pending (s : State) (t : Twin) (f : Fld) (v : Nat) : (wf s t f v).pending = s.pending := wr_pending ..
@[simp] theorem wf_ilk (s : State) (t : Twin) (f : Fld) (v : Nat) : (wf s t f v).ilk = s.ilk := wr_ilk ..
@[simp] theorem wf_sluice (s : State) (t : Twin) (f : Fld) (v : Nat) : (wf s t f v).sluice = s.sluice := wr_sluice ..
@[simp] theorem wf_host (s : State) (t : Twin) (f : Fld) (v : Nat) : (wf s t f v).host = s.host := wr_host ..
@[simp] theorem wf_edge (s : State) (t : Twin) (f : Fld) (v : Nat) : (wf s t f v).edge = s.edge := wr_edge ..
@[simp] theorem wf_net (s : State) (t : Twin) (f : Fld) (v : Nat) : (wf s t f v).net = s.net := wr_net ..
@[simp] theorem wf_cells (s : State) (t : Twin) (f : Fld) (v : Nat) : (wf s t f v).cells = s.cells := wr_cells ..
@[simp] theorem wf_report (s : State) (t : Twin) (f : Fld) (v : Nat) : (wf s t f v).report = s.report := wr_report ..
@[simp] theorem wf_readOut (s : State) (t : Twin) (f : Fld) (v : Nat) : (wf s t f v).readOut = s.readOut := wr_readOut ..
@[simp] theorem wf_pfail (s : State) (t : Twin) (f : Fld) (v : Nat) : (wf s t f v).pfail = s.pfail := wr_pfail ..
@[simp] theorem wf_overTemp (s : State) (t : Twin) (f : Fld) (v : Nat) : (wf s t f v).overTemp = s.overTemp := wr_overTemp ..
@[simp] theorem wf_lockedLife (s : State) (t : Twin) (f : Fld) (v : Nat) : (wf s t f v).lockedLife = s.lockedLife := wr_lockedLife ..
@[simp] theorem wf_free (s : State) (t : Twin) (f : Fld) (v : Nat) : (wf s t f v).free = s.free := wr_free ..
@[simp] theorem wf_tw_other (s : State) (t : Twin) (f : Fld) (v : Nat) : (wf s t f v).tw t.other = s.tw t.other := wr_tw_other ..

@[simp] theorem modTwn_pending (s : State) (t : Twin) (f : TwnSt → TwnSt) : (modTwn s t f).pending = s.pending := setTw_pending ..
@[simp] theorem modTwn_ilk (s : State) (t : Twin) (f : TwnSt → TwnSt) : (modTwn s t f).ilk = s.ilk := setTw_ilk ..
@[simp] theorem modTwn_sluice (s : State) (t : Twin) (f : TwnSt → TwnSt) : (modTwn s t f).sluice = s.sluice := setTw_sluice ..
@[simp] theorem modTwn_host (s : State) (t : Twin) (f : TwnSt → TwnSt) : (modTwn s t f).host = s.host := setTw_host ..
@[simp] theorem modTwn_edge (s : State) (t : Twin) (f : TwnSt → TwnSt) : (modTwn s t f).edge = s.edge := setTw_edge ..
@[simp] theorem modTwn_net (s : State) (t : Twin) (f : TwnSt → TwnSt) : (modTwn s t f).net = s.net := setTw_net ..
@[simp] theorem modTwn_cells (s : State) (t : Twin) (f : TwnSt → TwnSt) : (modTwn s t f).cells = s.cells := setTw_cells ..
@[simp] theorem modTwn_report (s : State) (t : Twin) (f : TwnSt → TwnSt) : (modTwn s t f).report = s.report := setTw_report ..
@[simp] theorem modTwn_readOut (s : State) (t : Twin) (f : TwnSt → TwnSt) : (modTwn s t f).readOut = s.readOut := setTw_readOut ..
@[simp] theorem modTwn_pfail (s : State) (t : Twin) (f : TwnSt → TwnSt) : (modTwn s t f).pfail = s.pfail := setTw_pfail ..
@[simp] theorem modTwn_overTemp (s : State) (t : Twin) (f : TwnSt → TwnSt) : (modTwn s t f).overTemp = s.overTemp := setTw_overTemp ..
@[simp] theorem modTwn_lockedLife (s : State) (t : Twin) (f : TwnSt → TwnSt) : (modTwn s t f).lockedLife = s.lockedLife := setTw_lockedLife ..
@[simp] theorem modTwn_free (s : State) (t : Twin) (f : TwnSt → TwnSt) : (modTwn s t f).free = s.free := setTw_free ..
@[simp] theorem modTwn_tw_other (s : State) (t : Twin) (f : TwnSt → TwnSt) : (modTwn s t f).tw t.other = s.tw t.other := setTw_tw_other ..

@[simp] theorem modFlash_pending (s : State) (t : Twin) (f : FlashSt → FlashSt) : (modFlash s t f).pending = s.pending := setTw_pending ..
@[simp] theorem modFlash_ilk (s : State) (t : Twin) (f : FlashSt → FlashSt) : (modFlash s t f).ilk = s.ilk := setTw_ilk ..
@[simp] theorem modFlash_sluice (s : State) (t : Twin) (f : FlashSt → FlashSt) : (modFlash s t f).sluice = s.sluice := setTw_sluice ..
@[simp] theorem modFlash_host (s : State) (t : Twin) (f : FlashSt → FlashSt) : (modFlash s t f).host = s.host := setTw_host ..
@[simp] theorem modFlash_edge (s : State) (t : Twin) (f : FlashSt → FlashSt) : (modFlash s t f).edge = s.edge := setTw_edge ..
@[simp] theorem modFlash_net (s : State) (t : Twin) (f : FlashSt → FlashSt) : (modFlash s t f).net = s.net := setTw_net ..
@[simp] theorem modFlash_cells (s : State) (t : Twin) (f : FlashSt → FlashSt) : (modFlash s t f).cells = s.cells := setTw_cells ..
@[simp] theorem modFlash_report (s : State) (t : Twin) (f : FlashSt → FlashSt) : (modFlash s t f).report = s.report := setTw_report ..
@[simp] theorem modFlash_readOut (s : State) (t : Twin) (f : FlashSt → FlashSt) : (modFlash s t f).readOut = s.readOut := setTw_readOut ..
@[simp] theorem modFlash_pfail (s : State) (t : Twin) (f : FlashSt → FlashSt) : (modFlash s t f).pfail = s.pfail := setTw_pfail ..
@[simp] theorem modFlash_overTemp (s : State) (t : Twin) (f : FlashSt → FlashSt) : (modFlash s t f).overTemp = s.overTemp := setTw_overTemp ..
@[simp] theorem modFlash_lockedLife (s : State) (t : Twin) (f : FlashSt → FlashSt) : (modFlash s t f).lockedLife = s.lockedLife := setTw_lockedLife ..
@[simp] theorem modFlash_free (s : State) (t : Twin) (f : FlashSt → FlashSt) : (modFlash s t f).free = s.free := setTw_free ..
@[simp] theorem modFlash_tw_other (s : State) (t : Twin) (f : FlashSt → FlashSt) : (modFlash s t f).tw t.other = s.tw t.other := setTw_tw_other ..

@[simp] theorem modPwr_pending (s : State) (t : Twin) (f : PwrSt → PwrSt) : (modPwr s t f).pending = s.pending := setTw_pending ..
@[simp] theorem modPwr_ilk (s : State) (t : Twin) (f : PwrSt → PwrSt) : (modPwr s t f).ilk = s.ilk := setTw_ilk ..
@[simp] theorem modPwr_sluice (s : State) (t : Twin) (f : PwrSt → PwrSt) : (modPwr s t f).sluice = s.sluice := setTw_sluice ..
@[simp] theorem modPwr_host (s : State) (t : Twin) (f : PwrSt → PwrSt) : (modPwr s t f).host = s.host := setTw_host ..
@[simp] theorem modPwr_edge (s : State) (t : Twin) (f : PwrSt → PwrSt) : (modPwr s t f).edge = s.edge := setTw_edge ..
@[simp] theorem modPwr_net (s : State) (t : Twin) (f : PwrSt → PwrSt) : (modPwr s t f).net = s.net := setTw_net ..
@[simp] theorem modPwr_cells (s : State) (t : Twin) (f : PwrSt → PwrSt) : (modPwr s t f).cells = s.cells := setTw_cells ..
@[simp] theorem modPwr_report (s : State) (t : Twin) (f : PwrSt → PwrSt) : (modPwr s t f).report = s.report := setTw_report ..
@[simp] theorem modPwr_readOut (s : State) (t : Twin) (f : PwrSt → PwrSt) : (modPwr s t f).readOut = s.readOut := setTw_readOut ..
@[simp] theorem modPwr_pfail (s : State) (t : Twin) (f : PwrSt → PwrSt) : (modPwr s t f).pfail = s.pfail := setTw_pfail ..
@[simp] theorem modPwr_overTemp (s : State) (t : Twin) (f : PwrSt → PwrSt) : (modPwr s t f).overTemp = s.overTemp := setTw_overTemp ..
@[simp] theorem modPwr_lockedLife (s : State) (t : Twin) (f : PwrSt → PwrSt) : (modPwr s t f).lockedLife = s.lockedLife := setTw_lockedLife ..
@[simp] theorem modPwr_free (s : State) (t : Twin) (f : PwrSt → PwrSt) : (modPwr s t f).free = s.free := setTw_free ..
@[simp] theorem modPwr_tw_other (s : State) (t : Twin) (f : PwrSt → PwrSt) : (modPwr s t f).tw t.other = s.tw t.other := setTw_tw_other ..

@[simp] theorem ev_pending (s : State) (t : Twin) (f : Fld) : (ev s t f).pending = s.pending := wf_pending ..
@[simp] theorem ev_ilk (s : State) (t : Twin) (f : Fld) : (ev s t f).ilk = s.ilk := wf_ilk ..
@[simp] theorem ev_sluice (s : State) (t : Twin) (f : Fld) : (ev s t f).sluice = s.sluice := wf_sluice ..
@[simp] theorem ev_host (s : State) (t : Twin) (f : Fld) : (ev s t f).host = s.host := wf_host ..
@[simp] theorem ev_edge (s : State) (t : Twin) (f : Fld) : (ev s t f).edge = s.edge := wf_edge ..
@[simp] theorem ev_net (s : State) (t : Twin) (f : Fld) : (ev s t f).net = s.net := wf_net ..
@[simp] theorem ev_cells (s : State) (t : Twin) (f : Fld) : (ev s t f).cells = s.cells := wf_cells ..
@[simp] theorem ev_report (s : State) (t : Twin) (f : Fld) : (ev s t f).report = s.report := wf_report ..
@[simp] theorem ev_readOut (s : State) (t : Twin) (f : Fld) : (ev s t f).readOut = s.readOut := wf_readOut ..
@[simp] theorem ev_pfail (s : State) (t : Twin) (f : Fld) : (ev s t f).pfail = s.pfail := wf_pfail ..
@[simp] theorem ev_overTemp (s : State) (t : Twin) (f : Fld) : (ev s t f).overTemp = s.overTemp := wf_overTemp ..
@[simp] theorem ev_lockedLife (s : State) (t : Twin) (f : Fld) : (ev s t f).lockedLife = s.lockedLife := wf_lockedLife ..
@[simp] theorem ev_free (s : State) (t : Twin) (f : Fld) : (ev s t f).free = s.free := wf_free ..
@[simp] theorem ev_tw_other (s : State) (t : Twin) (f : Fld) : (ev s t f).tw t.other = s.tw t.other := wf_tw_other ..

@[simp] theorem evi_pending (s : State) (t : Twin) (f : Fld) (i : Nat) : (evi s t f i).pending = s.pending := wr_pending ..
@[simp] theorem evi_ilk (s : State) (t : Twin) (f : Fld) (i : Nat) : (evi s t f i).ilk = s.ilk := wr_ilk ..
@[simp] theorem evi_sluice (s : State) (t : Twin) (f : Fld) (i : Nat) : (evi s t f i).sluice = s.sluice := wr_sluice ..
@[simp] theorem evi_host (s : State) (t : Twin) (f : Fld) (i : Nat) : (evi s t f i).host = s.host := wr_host ..
@[simp] theorem evi_edge (s : State) (t : Twin) (f : Fld) (i : Nat) : (evi s t f i).edge = s.edge := wr_edge ..
@[simp] theorem evi_net (s : State) (t : Twin) (f : Fld) (i : Nat) : (evi s t f i).net = s.net := wr_net ..
@[simp] theorem evi_cells (s : State) (t : Twin) (f : Fld) (i : Nat) : (evi s t f i).cells = s.cells := wr_cells ..
@[simp] theorem evi_report (s : State) (t : Twin) (f : Fld) (i : Nat) : (evi s t f i).report = s.report := wr_report ..
@[simp] theorem evi_readOut (s : State) (t : Twin) (f : Fld) (i : Nat) : (evi s t f i).readOut = s.readOut := wr_readOut ..
@[simp] theorem evi_pfail (s : State) (t : Twin) (f : Fld) (i : Nat) : (evi s t f i).pfail = s.pfail := wr_pfail ..
@[simp] theorem evi_overTemp (s : State) (t : Twin) (f : Fld) (i : Nat) : (evi s t f i).overTemp = s.overTemp := wr_overTemp ..
@[simp] theorem evi_lockedLife (s : State) (t : Twin) (f : Fld) (i : Nat) : (evi s t f i).lockedLife = s.lockedLife := wr_lockedLife ..
@[simp] theorem evi_free (s : State) (t : Twin) (f : Fld) (i : Nat) : (evi s t f i).free = s.free := wr_free ..
@[simp] theorem evi_tw_other (s : State) (t : Twin) (f : Fld) (i : Nat) : (evi s t f i).tw t.other = s.tw t.other := wr_tw_other ..

@[simp] theorem clri_pending (s : State) (t : Twin) (f : Fld) (i : Nat) : (clri s t f i).pending = s.pending := wr_pending ..
@[simp] theorem clri_ilk (s : State) (t : Twin) (f : Fld) (i : Nat) : (clri s t f i).ilk = s.ilk := wr_ilk ..
@[simp] theorem clri_sluice (s : State) (t : Twin) (f : Fld) (i : Nat) : (clri s t f i).sluice = s.sluice := wr_sluice ..
@[simp] theorem clri_host (s : State) (t : Twin) (f : Fld) (i : Nat) : (clri s t f i).host = s.host := wr_host ..
@[simp] theorem clri_edge (s : State) (t : Twin) (f : Fld) (i : Nat) : (clri s t f i).edge = s.edge := wr_edge ..
@[simp] theorem clri_net (s : State) (t : Twin) (f : Fld) (i : Nat) : (clri s t f i).net = s.net := wr_net ..
@[simp] theorem clri_cells (s : State) (t : Twin) (f : Fld) (i : Nat) : (clri s t f i).cells = s.cells := wr_cells ..
@[simp] theorem clri_report (s : State) (t : Twin) (f : Fld) (i : Nat) : (clri s t f i).report = s.report := wr_report ..
@[simp] theorem clri_readOut (s : State) (t : Twin) (f : Fld) (i : Nat) : (clri s t f i).readOut = s.readOut := wr_readOut ..
@[simp] theorem clri_pfail (s : State) (t : Twin) (f : Fld) (i : Nat) : (clri s t f i).pfail = s.pfail := wr_pfail ..
@[simp] theorem clri_overTemp (s : State) (t : Twin) (f : Fld) (i : Nat) : (clri s t f i).overTemp = s.overTemp := wr_overTemp ..
@[simp] theorem clri_lockedLife (s : State) (t : Twin) (f : Fld) (i : Nat) : (clri s t f i).lockedLife = s.lockedLife := wr_lockedLife ..
@[simp] theorem clri_free (s : State) (t : Twin) (f : Fld) (i : Nat) : (clri s t f i).free = s.free := wr_free ..
@[simp] theorem clri_tw_other (s : State) (t : Twin) (f : Fld) (i : Nat) : (clri s t f i).tw t.other = s.tw t.other := wr_tw_other ..

@[simp] theorem setOvf_pending (s : State) (t : Twin) (a : Nat) : (setOvf s t a).pending = s.pending := by
  unfold setOvf; split <;> simp
@[simp] theorem setOvf_ilk (s : State) (t : Twin) (a : Nat) : (setOvf s t a).ilk = s.ilk := by
  unfold setOvf; split <;> simp
@[simp] theorem setOvf_sluice (s : State) (t : Twin) (a : Nat) : (setOvf s t a).sluice = s.sluice := by
  unfold setOvf; split <;> simp
@[simp] theorem setOvf_host (s : State) (t : Twin) (a : Nat) : (setOvf s t a).host = s.host := by
  unfold setOvf; split <;> simp
@[simp] theorem setOvf_edge (s : State) (t : Twin) (a : Nat) : (setOvf s t a).edge = s.edge := by
  unfold setOvf; split <;> simp
@[simp] theorem setOvf_net (s : State) (t : Twin) (a : Nat) : (setOvf s t a).net = s.net := by
  unfold setOvf; split <;> simp
@[simp] theorem setOvf_cells (s : State) (t : Twin) (a : Nat) : (setOvf s t a).cells = s.cells := by
  unfold setOvf; split <;> simp
@[simp] theorem setOvf_report (s : State) (t : Twin) (a : Nat) : (setOvf s t a).report = s.report := by
  unfold setOvf; split <;> simp
@[simp] theorem setOvf_readOut (s : State) (t : Twin) (a : Nat) : (setOvf s t a).readOut = s.readOut := by
  unfold setOvf; split <;> simp
@[simp] theorem setOvf_pfail (s : State) (t : Twin) (a : Nat) : (setOvf s t a).pfail = s.pfail := by
  unfold setOvf; split <;> simp
@[simp] theorem setOvf_overTemp (s : State) (t : Twin) (a : Nat) : (setOvf s t a).overTemp = s.overTemp := by
  unfold setOvf; split <;> simp
@[simp] theorem setOvf_lockedLife (s : State) (t : Twin) (a : Nat) : (setOvf s t a).lockedLife = s.lockedLife := by
  unfold setOvf; split <;> simp
@[simp] theorem setOvf_free (s : State) (t : Twin) (a : Nat) : (setOvf s t a).free = s.free := by
  unfold setOvf; split <;> simp
@[simp] theorem setOvf_tw_other (s : State) (t : Twin) (a : Nat) : (setOvf s t a).tw t.other = s.tw t.other := by
  unfold setOvf; split <;> simp

@[simp] theorem clearOvf_pending (s : State) (t : Twin) (a : Nat) : (clearOvf s t a).pending = s.pending := by
  unfold clearOvf; split <;> simp
@[simp] theorem clearOvf_ilk (s : State) (t : Twin) (a : Nat) : (clearOvf s t a).ilk = s.ilk := by
  unfold clearOvf; split <;> simp
@[simp] theorem clearOvf_sluice (s : State) (t : Twin) (a : Nat) : (clearOvf s t a).sluice = s.sluice := by
  unfold clearOvf; split <;> simp
@[simp] theorem clearOvf_host (s : State) (t : Twin) (a : Nat) : (clearOvf s t a).host = s.host := by
  unfold clearOvf; split <;> simp
@[simp] theorem clearOvf_edge (s : State) (t : Twin) (a : Nat) : (clearOvf s t a).edge = s.edge := by
  unfold clearOvf; split <;> simp
@[simp] theorem clearOvf_net (s : State) (t : Twin) (a : Nat) : (clearOvf s t a).net = s.net := by
  unfold clearOvf; split <;> simp
@[simp] theorem clearOvf_cells (s : State) (t : Twin) (a : Nat) : (clearOvf s t a).cells = s.cells := by
  unfold clearOvf; split <;> simp
@[simp] theorem clearOvf_report (s : State) (t : Twin) (a : Nat) : (clearOvf s t a).report = s.report := by
  unfold clearOvf; split <;> simp
@[simp] theorem clearOvf_readOut (s : State) (t : Twin) (a : Nat) : (clearOvf s t a).readOut = s.readOut := by
  unfold clearOvf; split <;> simp
@[simp] theorem clearOvf_pfail (s : State) (t : Twin) (a : Nat) : (clearOvf s t a).pfail = s.pfail := by
  unfold clearOvf; split <;> simp
@[simp] theorem clearOvf_overTemp (s : State) (t : Twin) (a : Nat) : (clearOvf s t a).overTemp = s.overTemp := by
  unfold clearOvf; split <;> simp
@[simp] theorem clearOvf_lockedLife (s : State) (t : Twin) (a : Nat) : (clearOvf s t a).lockedLife = s.lockedLife := by
  unfold clearOvf; split <;> simp
@[simp] theorem clearOvf_free (s : State) (t : Twin) (a : Nat) : (clearOvf s t a).free = s.free := by
  unfold clearOvf; split <;> simp
@[simp] theorem clearOvf_tw_other (s : State) (t : Twin) (a : Nat) : (clearOvf s t a).tw t.other = s.tw t.other := by
  unfold clearOvf; split <;> simp

@[simp] theorem cntBy_pending (s : State) (t : Twin) (a k : Nat) : (cntBy s t a k).pending = s.pending := by
  unfold cntBy; split <;> simp
@[simp] theorem cntBy_ilk (s : State) (t : Twin) (a k : Nat) : (cntBy s t a k).ilk = s.ilk := by
  unfold cntBy; split <;> simp
@[simp] theorem cntBy_sluice (s : State) (t : Twin) (a k : Nat) : (cntBy s t a k).sluice = s.sluice := by
  unfold cntBy; split <;> simp
@[simp] theorem cntBy_host (s : State) (t : Twin) (a k : Nat) : (cntBy s t a k).host = s.host := by
  unfold cntBy; split <;> simp
@[simp] theorem cntBy_edge (s : State) (t : Twin) (a k : Nat) : (cntBy s t a k).edge = s.edge := by
  unfold cntBy; split <;> simp
@[simp] theorem cntBy_net (s : State) (t : Twin) (a k : Nat) : (cntBy s t a k).net = s.net := by
  unfold cntBy; split <;> simp
@[simp] theorem cntBy_cells (s : State) (t : Twin) (a k : Nat) : (cntBy s t a k).cells = s.cells := by
  unfold cntBy; split <;> simp
@[simp] theorem cntBy_report (s : State) (t : Twin) (a k : Nat) : (cntBy s t a k).report = s.report := by
  unfold cntBy; split <;> simp
@[simp] theorem cntBy_readOut (s : State) (t : Twin) (a k : Nat) : (cntBy s t a k).readOut = s.readOut := by
  unfold cntBy; split <;> simp
@[simp] theorem cntBy_pfail (s : State) (t : Twin) (a k : Nat) : (cntBy s t a k).pfail = s.pfail := by
  unfold cntBy; split <;> simp
@[simp] theorem cntBy_overTemp (s : State) (t : Twin) (a k : Nat) : (cntBy s t a k).overTemp = s.overTemp := by
  unfold cntBy; split <;> simp
@[simp] theorem cntBy_lockedLife (s : State) (t : Twin) (a k : Nat) : (cntBy s t a k).lockedLife = s.lockedLife := by
  unfold cntBy; split <;> simp
@[simp] theorem cntBy_free (s : State) (t : Twin) (a k : Nat) : (cntBy s t a k).free = s.free := by
  unfold cntBy; split <;> simp
@[simp] theorem cntBy_tw_other (s : State) (t : Twin) (a k : Nat) : (cntBy s t a k).tw t.other = s.tw t.other := by
  unfold cntBy; split <;> simp

@[simp] theorem cnt_pending (s : State) (t : Twin) (a : Nat) : (cnt s t a).pending = s.pending := cntBy_pending ..
@[simp] theorem cnt_ilk (s : State) (t : Twin) (a : Nat) : (cnt s t a).ilk = s.ilk := cntBy_ilk ..
@[simp] theorem cnt_sluice (s : State) (t : Twin) (a : Nat) : (cnt s t a).sluice = s.sluice := cntBy_sluice ..
@[simp] theorem cnt_host (s : State) (t : Twin) (a : Nat) : (cnt s t a).host = s.host := cntBy_host ..
@[simp] theorem cnt_edge (s : State) (t : Twin) (a : Nat) : (cnt s t a).edge = s.edge := cntBy_edge ..
@[simp] theorem cnt_net (s : State) (t : Twin) (a : Nat) : (cnt s t a).net = s.net := cntBy_net ..
@[simp] theorem cnt_cells (s : State) (t : Twin) (a : Nat) : (cnt s t a).cells = s.cells := cntBy_cells ..
@[simp] theorem cnt_report (s : State) (t : Twin) (a : Nat) : (cnt s t a).report = s.report := cntBy_report ..
@[simp] theorem cnt_readOut (s : State) (t : Twin) (a : Nat) : (cnt s t a).readOut = s.readOut := cntBy_readOut ..
@[simp] theorem cnt_pfail (s : State) (t : Twin) (a : Nat) : (cnt s t a).pfail = s.pfail := cntBy_pfail ..
@[simp] theorem cnt_overTemp (s : State) (t : Twin) (a : Nat) : (cnt s t a).overTemp = s.overTemp := cntBy_overTemp ..
@[simp] theorem cnt_lockedLife (s : State) (t : Twin) (a : Nat) : (cnt s t a).lockedLife = s.lockedLife := cntBy_lockedLife ..
@[simp] theorem cnt_free (s : State) (t : Twin) (a : Nat) : (cnt s t a).free = s.free := cntBy_free ..
@[simp] theorem cnt_tw_other (s : State) (t : Twin) (a : Nat) : (cnt s t a).tw t.other = s.tw t.other := cntBy_tw_other ..

@[simp] theorem say_pending (s : State) (c : Nat) : (say s c).pending = s.pending := rfl
@[simp] theorem freeTick_pending (s : State) : (freeTick s).pending = s.pending := rfl
@[simp] theorem say_ilk (s : State) (c : Nat) : (say s c).ilk = s.ilk := rfl
@[simp] theorem freeTick_ilk (s : State) : (freeTick s).ilk = s.ilk := rfl
@[simp] theorem say_sluice (s : State) (c : Nat) : (say s c).sluice = s.sluice := rfl
@[simp] theorem freeTick_sluice (s : State) : (freeTick s).sluice = s.sluice := rfl
@[simp] theorem say_host (s : State) (c : Nat) : (say s c).host = s.host := rfl
@[simp] theorem freeTick_host (s : State) : (freeTick s).host = s.host := rfl
@[simp] theorem say_edge (s : State) (c : Nat) : (say s c).edge = s.edge := rfl
@[simp] theorem freeTick_edge (s : State) : (freeTick s).edge = s.edge := rfl
@[simp] theorem say_net (s : State) (c : Nat) : (say s c).net = s.net := rfl
@[simp] theorem freeTick_net (s : State) : (freeTick s).net = s.net := rfl
@[simp] theorem say_cells (s : State) (c : Nat) : (say s c).cells = s.cells := rfl
@[simp] theorem freeTick_cells (s : State) : (freeTick s).cells = s.cells := rfl
@[simp] theorem freeTick_report (s : State) : (freeTick s).report = s.report := rfl
@[simp] theorem say_readOut (s : State) (c : Nat) : (say s c).readOut = s.readOut := rfl
@[simp] theorem freeTick_readOut (s : State) : (freeTick s).readOut = s.readOut := rfl
@[simp] theorem say_pfail (s : State) (c : Nat) : (say s c).pfail = s.pfail := rfl
@[simp] theorem freeTick_pfail (s : State) : (freeTick s).pfail = s.pfail := rfl
@[simp] theorem say_overTemp (s : State) (c : Nat) : (say s c).overTemp = s.overTemp := rfl
@[simp] theorem freeTick_overTemp (s : State) : (freeTick s).overTemp = s.overTemp := rfl
@[simp] theorem say_lockedLife (s : State) (c : Nat) : (say s c).lockedLife = s.lockedLife := rfl
@[simp] theorem freeTick_lockedLife (s : State) : (freeTick s).lockedLife = s.lockedLife := rfl
@[simp] theorem say_free (s : State) (c : Nat) : (say s c).free = s.free := rfl
@[simp] theorem say_tw (s : State) (c : Nat) (t : Twin) : (say s c).tw t = s.tw t := by cases t <;> rfl
@[simp] theorem say_report (s : State) (c : Nat) : (say s c).report = c := rfl
@[simp] theorem freeTick_tw (s : State) (t : Twin) : (freeTick s).tw t = s.tw t := by cases t <;> rfl
@[simp] theorem freeTick_free (s : State) : (freeTick s).free = s.free + 1 := rfl

end Sys2Proof.Machine
end

