-- ==== Sys2Proof/Laws/Tab.lean ====
section
/-! SUPPORT. The laws of sparse tables: what a read after a write gives, and that every write keeps the canonical
form. -/

namespace Sys2Proof

variable {α : Type}

theorem tabAbove_cons (k : Nat) (e : Nat × α) (t : Tab α) :
    tabAbove k (e :: t) = (decide (k < e.1) && tabAbove k t) := rfl

theorem tabAbove_mono {j k : Nat} (h : j ≤ k) {t : Tab α} (ht : tabAbove k t = true) : tabAbove j t = true := by
  simp only [tabAbove, List.all_eq_true, decide_eq_true_eq] at ht ⊢
  intro e he
  have := ht e he
  omega

/-- Below every listed key a table reads as its default. -/
theorem tabGet_of_above (d : α) {k : Nat} {t : Tab α} (h : tabAbove k t = true) : tabGet d t k = d := by
  cases t with
  | nil => rfl
  | cons e r =>
    simp only [tabAbove_cons, Bool.and_eq_true, decide_eq_true_eq] at h
    simp [tabGet, show ¬ e.1 = k by omega, h.1]

theorem tabAbove_tabPut (keep : Bool) {j k : Nat} (h : j < k) (v : α) {t : Tab α} (ht : tabAbove j t = true) :
    tabAbove j (tabPut keep t k v) = true := by
  induction t with
  | nil => cases keep <;> simp [tabPut, tabAbove, h]
  | cons e r ih =>
    simp only [tabAbove_cons, Bool.and_eq_true, decide_eq_true_eq] at ht
    simp only [tabPut]
    split
    · cases keep <;> simp [tabAbove_cons, h, ht.2]
    · split
      · cases keep <;> simp [tabAbove_cons, h, ht.1, ht.2]
      · simp [tabAbove_cons, ht.1, ih ht.2]

theorem tabWf_cons [DecidableEq α] (d : Nat → α) (k : Nat) (v : α) (r : Tab α) :
    tabWf d ((k, v) :: r) = (decide (v ≠ d k) && tabAbove k r && tabWf d r) := rfl

/-- A write keeps the canonical form. -/
theorem tabWf_tabSet [DecidableEq α] (d : Nat → α) {t : Tab α} (ht : tabWf d t = true) (k : Nat) (v : α) :
    tabWf d (tabSet (d k) t k v) = true := by
  induction t with
  | nil => by_cases hv : v = d k <;> simp [tabSet, tabPut, tabWf, tabAbove, hv]
  | cons e r ih =>
    obtain ⟨j, w⟩ := e
    simp only [tabWf_cons, Bool.and_eq_true, decide_eq_true_eq] at ht
    obtain ⟨⟨hw, ha⟩, hr⟩ := ht
    have ih := ih hr
    simp only [tabSet, tabPut] at ih ⊢
    by_cases hj : j = k
    · subst hj
      by_cases hv : v = d j <;> simp [hv, tabWf_cons, hr, ha]
    · by_cases hlt : k < j
      · have hk : tabAbove k r = true := tabAbove_mono (Nat.le_of_lt hlt) ha
        by_cases hv : v = d k <;> simp [hj, hlt, hv, tabWf_cons, tabAbove_cons, hr, ha, hw, hk]
      · simp only [hj, hlt, if_false, tabWf_cons, Bool.and_eq_true, decide_eq_true_eq]
        exact ⟨⟨hw, tabAbove_tabPut _ (by omega) _ ha⟩, ih⟩

theorem tabAbove_filter {k : Nat} {t : Tab α} (h : tabAbove k t = true) (p : Nat × α → Bool) :
    tabAbove k (t.filter p) = true := by
  simp only [tabAbove, List.all_eq_true, List.mem_filter] at h ⊢
  exact fun e he => h e he.1

/-- Taking entries out keeps the canonical form. -/
theorem tabWf_filter [DecidableEq α] (d : Nat → α) {t : Tab α} (h : tabWf d t = true) (p : Nat × α → Bool) :
    tabWf d (t.filter p) = true := by
  induction t with
  | nil => rfl
  | cons e r ih =>
    obtain ⟨k, v⟩ := e
    simp only [tabWf_cons, Bool.and_eq_true] at h
    rw [List.filter_cons]
    split
    · simp only [tabWf_cons, Bool.and_eq_true]
      exact ⟨⟨h.1.1, tabAbove_filter h.1.2 p⟩, ih h.2⟩
    · exact ih h.2

/-- Reading the key just written gives the value written. -/
theorem tabGet_tabSet_same [DecidableEq α] (d : Nat → α) {t : Tab α} (ht : tabWf d t = true) (k : Nat) (v : α) :
    tabGet (d k) (tabSet (d k) t k v) k = v := by
  induction t with
  | nil => by_cases hv : v = d k <;> simp [tabSet, tabPut, tabGet, hv]
  | cons e r ih =>
    obtain ⟨j, w⟩ := e
    simp only [tabWf_cons, Bool.and_eq_true, decide_eq_true_eq] at ht
    obtain ⟨⟨hw, ha⟩, hr⟩ := ht
    have ih := ih hr
    simp only [tabSet, tabPut] at ih ⊢
    by_cases hj : j = k
    · subst hj
      by_cases hv : v = d j
      · simp [hv, tabGet_of_above _ ha]
      · simp [hv, tabGet]
    · by_cases hlt : k < j
      · by_cases hv : v = d k <;> simp [hj, hlt, hv, tabGet]
      · simp only [hj, hlt, if_false, tabGet]
        exact ih

/-- Reading another key gives what it gave before. -/
theorem tabGet_tabSet_ne [DecidableEq α] (d : Nat → α) {t : Tab α} (ht : tabWf d t = true) {k i : Nat} (h : i ≠ k) (v : α) :
    tabGet (d i) (tabSet (d k) t k v) i = tabGet (d i) t i := by
  induction t with
  | nil =>
    by_cases hv : v = d k <;> simp [tabSet, tabPut, tabGet, hv, Ne.symm h]
  | cons e r ih =>
    obtain ⟨j, w⟩ := e
    simp only [tabWf_cons, Bool.and_eq_true, decide_eq_true_eq] at ht
    obtain ⟨⟨hw, ha⟩, hr⟩ := ht
    have ih := ih hr
    simp only [tabSet, tabPut] at ih ⊢
    by_cases hj : j = k
    · subst hj
      have below : ∀ i, i < j → tabGet (d i) r i = d i := fun i hi =>
        tabGet_of_above _ (tabAbove_mono (Nat.le_of_lt hi) ha)
      by_cases hv : v = d j
      · by_cases hi : i < j <;> simp [hv, tabGet, Ne.symm h, hi, below]
      · simp [hv, tabGet, Ne.symm h]
    · by_cases hlt : k < j
      · by_cases hv : v = d k
        · simp [hj, hlt, hv]
        · by_cases hi : i < k
          · simp [hj, hlt, hv, tabGet, Ne.symm h, hi, show ¬ j = i by omega, show i < j by omega]
          · simp [hj, hlt, hv, tabGet, Ne.symm h, hi]
      · simp only [hj, hlt, if_false, tabGet]
        split
        · rfl
        · split
          · rfl
          · exact ih

end Sys2Proof
end

