-- ==== Sys2Proof/Laws/Regs.lean ====
section
/-! SUPPORT. The laws of registers and fields: a read after a write, what a write leaves alone, and that every write
keeps the register maps canonical. -/

namespace Sys2Proof.Machine

variable {s : State} {t u : Twin}

theorem rd_eq (s : State) (t : Twin) (a : Nat) : rd s t a = tabGet (resetWord a) (s.tw t).regs a := rfl

/-- A word just written reads as written. -/
theorem rd_wr_same (h : RegsOk s) (a : Nat) (v : W32) : rd (wr s t a v) t a = v := by
  simp only [rd_eq, wr, setTw_tw]
  exact tabGet_tabSet_same resetWord (h t) a v

/-- A write leaves every other word alone. -/
theorem rd_wr_ne (h : RegsOk s) {a b : Nat} (hab : b ≠ a) (v : W32) : rd (wr s t a v) t b = rd s t b := by
  simp only [rd_eq, wr, setTw_tw]
  exact tabGet_tabSet_ne resetWord (h t) hab v

/-- A write leaves the other twin's words alone. -/
theorem rd_wr_twin (hu : u ≠ t) (a b : Nat) (v : W32) : rd (wr s t a v) u b = rd s u b := by
  simp only [rd_eq, wr, setTw_tw_ne _ hu]

/-- What a word reads as after a write. -/
theorem rd_wr (h : RegsOk s) (a b : Nat) (v : W32) :
    rd (wr s t a v) u b = if u = t ∧ b = a then v else rd s u b := by
  by_cases hu : u = t
  · subst hu
    by_cases hb : b = a
    · subst hb; simp [rd_wr_same h]
    · simp [hb, rd_wr_ne h hb]
  · simp [hu, rd_wr_twin hu]

/-- Replacing a twin's state by one with the same registers keeps the maps canonical. -/
theorem RegsOk.setTw (h : RegsOk s) {x : TwinSt} (hx : tabWf resetWord x.regs = true) : RegsOk (s.setTw t x) := by
  intro u
  by_cases hu : u = t
  · subst hu; simpa using hx
  · rw [setTw_tw_ne _ hu]; exact h u

theorem RegsOk.wr (h : RegsOk s) (a : Nat) (v : W32) : RegsOk (wr s t a v) :=
  h.setTw (tabWf_tabSet resetWord (h t) a v)

theorem RegsOk.wf (h : RegsOk s) (f : Fld) (v : Nat) : RegsOk (wf s t f v) := RegsOk.wr h _ _

theorem regsOk_reset : RegsOk State.reset := by
  intro t; cases t <;> rfl

/-- Bits just put into a word are there. -/
theorem bits_putBits (w : W32) {hi lo : Nat} (h : hi < 32) (hl : lo ≤ hi) (v : Nat) :
    bits (putBits w hi lo v) hi lo = v % 2 ^ (hi + 1 - lo) := by
  have hw : w.toNat < 2 ^ 32 := w.isLt
  obtain ⟨n, hn⟩ : ∃ n, hi + 1 - lo = n := ⟨_, rfl⟩
  have hp : (2 : Nat) ^ 32 = 2 ^ lo * 2 ^ n * 2 ^ (31 - hi) := by
    rw [← pow_add, ← pow_add]; congr 1; omega
  simp only [bits, putBits, BitVec.toNat_ofNat, hn]
  generalize w.toNat = x at hw ⊢
  have hP : 0 < 2 ^ lo := Nat.two_pow_pos lo
  have hN : 0 < 2 ^ n := Nat.two_pow_pos n
  generalize 2 ^ lo = p at *
  generalize 2 ^ n = q at *
  generalize 2 ^ (31 - hi) = r at *
  have h1 : x / p % q * p ≤ x := by
    calc x / p % q * p ≤ x / p * p := Nat.mul_le_mul_right _ (Nat.mod_le _ _)
      _ ≤ x := Nat.div_mul_le_self _ _
  have hv : v % q < q := Nat.mod_lt _ hN
  have e1 : x = p * (q * (x / p / q) + x / p % q) + x % p := by
    rw [Nat.div_add_mod, Nat.div_add_mod]
  have e2 : x - x / p % q * p + v % q * p = p * (q * (x / p / q) + v % q) + x % p := by
    have : x - x / p % q * p = p * (q * (x / p / q)) + x % p := by
      conv_lhs => rw [e1]
      have e3 : (p * (q * (x / p / q) + x / p % q) + x % p) / p % q = x / p % q := by rw [← e1]
      rw [e3, Nat.mul_add, Nat.mul_comm (x / p % q) p]
      omega
    rw [this, Nat.mul_add, Nat.mul_comm (v % q) p]
    omega
  rw [e2, hp]
  have hpq : p * q ∣ p * q * r := ⟨r, rfl⟩
  have e4 : (p * (q * (x / p / q) + v % q) + x % p) % (p * q * r) / p % q = v % q := by
    rw [← Nat.mod_mul_right_div_self, Nat.mod_mod_of_dvd _ hpq, Nat.mod_mul_right_div_self,
      Nat.mul_add_div hP, Nat.div_eq_of_lt (Nat.mod_lt _ hP), Nat.add_zero, Nat.mul_add_mod,
      Nat.mod_eq_of_lt hv]
  exact e4

/-- Bits put into a word leave the bits above and below alone. -/
theorem bits_putBits_ne (w : W32) {hi lo i j : Nat} (hl : lo ≤ hi) (hd : hi < j ∨ i < lo) (hj : j ≤ i)
    (v : Nat) : bits (putBits w hi lo v) i j = bits w i j := by
  have hw : w.toNat < 2 ^ 32 := w.isLt
  have key : ∀ k, (j ≤ k ∧ k ≤ i) →
      (putBits w hi lo v).toNat / 2 ^ k % 2 = w.toNat / 2 ^ k % 2 := by
    intro k hk
    obtain ⟨n, hn⟩ : ∃ n, hi + 1 - lo = n := ⟨_, rfl⟩
    simp only [putBits, BitVec.toNat_ofNat, hn]
    generalize w.toNat = x at hw ⊢
    have h1 : x / 2 ^ lo % 2 ^ n * 2 ^ lo ≤ x :=
      Nat.le_trans (Nat.mul_le_mul_right _ (Nat.mod_le _ _)) (Nat.div_mul_le_self _ _)
    have e1 : x = 2 ^ lo * (2 ^ n * (x / 2 ^ lo / 2 ^ n) + x / 2 ^ lo % 2 ^ n) + x % 2 ^ lo := by
      rw [Nat.div_add_mod, Nat.div_add_mod]
    have e2 : x - x / 2 ^ lo % 2 ^ n * 2 ^ lo + v % 2 ^ n * 2 ^ lo =
        2 ^ lo * (2 ^ n * (x / 2 ^ lo / 2 ^ n) + v % 2 ^ n) + x % 2 ^ lo := by
      have hx : x = 2 ^ lo * (2 ^ n * (x / 2 ^ lo / 2 ^ n)) + x % 2 ^ lo + x / 2 ^ lo % 2 ^ n * 2 ^ lo := by
        conv_lhs => rw [e1]
        rw [Nat.mul_add, Nat.mul_comm (2 ^ lo) (x / 2 ^ lo % 2 ^ n)]; omega
      rw [Nat.mul_add, Nat.mul_comm (2 ^ lo) (v % 2 ^ n)]; omega
    have hk32 : k < 32 ∨ 32 ≤ k := by omega
    have t1 : ∀ y, y % 2 ^ 32 / 2 ^ k % 2 = if k < 32 then y / 2 ^ k % 2 else 0 := by
      intro y
      rw [← Nat.toNat_testBit, ← Nat.toNat_testBit, Nat.testBit_mod_two_pow]
      split <;> simp [*]
    rw [t1, e2]
    rcases hk32 with hk32 | hk32
    · rw [if_pos hk32]
      conv_rhs => rw [e1]
      have hm : x % 2 ^ lo < 2 ^ lo := Nat.mod_lt _ (Nat.two_pow_pos lo)
      have hv : v % 2 ^ n < 2 ^ n := Nat.mod_lt _ (Nat.two_pow_pos n)
      have hx' : x / 2 ^ lo % 2 ^ n < 2 ^ n := Nat.mod_lt _ (Nat.two_pow_pos n)
      simp only [← Nat.toNat_testBit]
      rw [Nat.testBit_two_pow_mul_add _ hm, Nat.testBit_two_pow_mul_add _ hm,
        Nat.testBit_two_pow_mul_add _ hv, Nat.testBit_two_pow_mul_add _ hx']
      by_cases hkl : k < lo
      · simp [hkl]
      · simp only [hkl, if_false]
        rw [if_neg (by omega), if_neg (by omega)]
    · rw [if_neg (by omega), Nat.div_eq_of_lt (Nat.lt_of_lt_of_le hw (Nat.pow_le_pow_right (by omega) hk32))]
  have ext : ∀ x y m, (∀ k, k < m → x / 2 ^ (j + k) % 2 = y / 2 ^ (j + k) % 2) →
      x / 2 ^ j % 2 ^ m = y / 2 ^ j % 2 ^ m := by
    intro x y m hxy
    apply Nat.eq_of_testBit_eq
    intro k
    simp only [Nat.testBit_mod_two_pow, Nat.testBit_div_two_pow]
    by_cases hk : k < m
    · have := hxy k hk
      rw [← Nat.toNat_testBit, ← Nat.toNat_testBit] at this
      simp only [hk, decide_true, Bool.true_and, Nat.add_comm k j]
      cases h1 : x.testBit (j + k) <;> cases h2 : y.testBit (j + k) <;> simp_all
    · simp [hk]
  exact ext _ _ _ fun k hk => key (j + k) ⟨by omega, by omega⟩

/-- A field just written reads as the low bits of the value. -/
theorem rf_wf_same (h : RegsOk s) (f : Fld) (h32 : f.hi < 32) (hl : f.lo ≤ f.hi) (v : Nat) :
    rf (wf s t f v) t f = v % 2 ^ (f.hi + 1 - f.lo) := by
  simp only [rf, wf, rd_wr_same h, bits_putBits _ h32 hl]

/-- A field write leaves the fields of other words alone. -/
theorem rf_wf_ne (h : RegsOk s) {f g : Fld} (hfg : g.addr ≠ f.addr) (v : Nat) : rf (wf s t f v) t g = rf s t g := by
  simp only [rf, wf, rd_wr_ne h hfg]

/-- A field write leaves the other fields of its word alone. -/
theorem rf_wf_disjoint (h : RegsOk s) {f g : Fld} (hl : f.lo ≤ f.hi) (hg : g.lo ≤ g.hi)
    (hd : f.hi < g.lo ∨ g.hi < f.lo) (v : Nat) : rf (wf s t f v) t g = rf s t g := by
  by_cases ha : g.addr = f.addr
  · simp only [rf, wf, ha, rd_wr_same h, bits_putBits_ne _ hl hd hg]
  · exact rf_wf_ne h ha v

end Sys2Proof.Machine
end

