-- ==== Sys2Proof/Laws/Fields.lean ====
section
/-! SUPPORT. What the register updates and the updates of a twin's hidden state leave alone, field by field, and that they
keep the register maps canonical. -/

namespace Sys2Proof.Machine

variable {s : State} {t u : Twin}

@[simp] theorem wr_tb (s : State) (t u : Twin) (a : Nat) (v : W32) : ((wr s t a v).tw u).tb = (s.tw u).tb := by
  cases t <;> cases u <;> rfl
@[simp] theorem wr_ofs (s : State) (t u : Twin) (a : Nat) (v : W32) : ((wr s t a v).tw u).ofs = (s.tw u).ofs := by
  cases t <;> cases u <;> rfl
@[simp] theorem wr_twn (s : State) (t u : Twin) (a : Nat) (v : W32) : ((wr s t a v).tw u).twn = (s.tw u).twn := by
  cases t <;> cases u <;> rfl
@[simp] theorem wr_flash (s : State) (t u : Twin) (a : Nat) (v : W32) : ((wr s t a v).tw u).flash = (s.tw u).flash := by
  cases t <;> cases u <;> rfl
@[simp] theorem wr_pwr (s : State) (t u : Twin) (a : Nat) (v : W32) : ((wr s t a v).tw u).pwr = (s.tw u).pwr := by
  cases t <;> cases u <;> rfl
@[simp] theorem wr_arr (s : State) (t u : Twin) (a : Nat) (v : W32) : ((wr s t a v).tw u).arr = (s.tw u).arr := by
  cases t <;> cases u <;> rfl
@[simp] theorem wr_law (s : State) (t u : Twin) (a : Nat) (v : W32) : ((wr s t a v).tw u).law = (s.tw u).law := by
  cases t <;> cases u <;> rfl
@[simp] theorem wr_rings (s : State) (t u : Twin) (a : Nat) (v : W32) : ((wr s t a v).tw u).rings = (s.tw u).rings := by
  cases t <;> cases u <;> rfl
@[simp] theorem wr_uplinks (s : State) (t u : Twin) (a : Nat) (v : W32) : ((wr s t a v).tw u).uplinks = (s.tw u).uplinks := by
  cases t <;> cases u <;> rfl
@[simp] theorem wr_upOld (s : State) (t u : Twin) (a : Nat) (v : W32) : ((wr s t a v).tw u).upOld = (s.tw u).upOld := by
  cases t <;> cases u <;> rfl
@[simp] theorem wr_exps (s : State) (t u : Twin) (a : Nat) (v : W32) : ((wr s t a v).tw u).exps = (s.tw u).exps := by
  cases t <;> cases u <;> rfl
@[simp] theorem wr_adc (s : State) (t u : Twin) (a : Nat) (v : W32) : ((wr s t a v).tw u).adc = (s.tw u).adc := by
  cases t <;> cases u <;> rfl
@[simp] theorem wr_drv (s : State) (t u : Twin) (a : Nat) (v : W32) : ((wr s t a v).tw u).drv = (s.tw u).drv := by
  cases t <;> cases u <;> rfl
@[simp] theorem wr_saf (s : State) (t u : Twin) (a : Nat) (v : W32) : ((wr s t a v).tw u).saf = (s.tw u).saf := by
  cases t <;> cases u <;> rfl
@[simp] theorem wr_netTw (s : State) (t u : Twin) (a : Nat) (v : W32) : ((wr s t a v).tw u).net = (s.tw u).net := by
  cases t <;> cases u <;> rfl
@[simp] theorem wr_tm (s : State) (t u : Twin) (a : Nat) (v : W32) : ((wr s t a v).tw u).tm = (s.tw u).tm := by
  cases t <;> cases u <;> rfl
@[simp] theorem wr_can (s : State) (t u : Twin) (a : Nat) (v : W32) : ((wr s t a v).tw u).can = (s.tw u).can := by
  cases t <;> cases u <;> rfl
@[simp] theorem wr_neg (s : State) (t u : Twin) (a : Nat) (v : W32) : ((wr s t a v).tw u).neg = (s.tw u).neg := by
  cases t <;> cases u <;> rfl
@[simp] theorem wr_xings (s : State) (t u : Twin) (a : Nat) (v : W32) : ((wr s t a v).tw u).xings = (s.tw u).xings := by
  cases t <;> cases u <;> rfl
@[simp] theorem wr_queues (s : State) (t u : Twin) (a : Nat) (v : W32) : ((wr s t a v).tw u).queues = (s.tw u).queues := by
  cases t <;> cases u <;> rfl

@[simp] theorem wf_tb (s : State) (t u : Twin) (f : Fld) (v : Nat) : ((wf s t f v).tw u).tb = (s.tw u).tb := wr_tb ..
@[simp] theorem wf_ofs (s : State) (t u : Twin) (f : Fld) (v : Nat) : ((wf s t f v).tw u).ofs = (s.tw u).ofs := wr_ofs ..
@[simp] theorem wf_twn (s : State) (t u : Twin) (f : Fld) (v : Nat) : ((wf s t f v).tw u).twn = (s.tw u).twn := wr_twn ..
@[simp] theorem wf_flash (s : State) (t u : Twin) (f : Fld) (v : Nat) : ((wf s t f v).tw u).flash = (s.tw u).flash := wr_flash ..
@[simp] theorem wf_pwr (s : State) (t u : Twin) (f : Fld) (v : Nat) : ((wf s t f v).tw u).pwr = (s.tw u).pwr := wr_pwr ..
@[simp] theorem wf_arr (s : State) (t u : Twin) (f : Fld) (v : Nat) : ((wf s t f v).tw u).arr = (s.tw u).arr := wr_arr ..
@[simp] theorem wf_law (s : State) (t u : Twin) (f : Fld) (v : Nat) : ((wf s t f v).tw u).law = (s.tw u).law := wr_law ..
@[simp] theorem wf_rings (s : State) (t u : Twin) (f : Fld) (v : Nat) : ((wf s t f v).tw u).rings = (s.tw u).rings := wr_rings ..
@[simp] theorem wf_uplinks (s : State) (t u : Twin) (f : Fld) (v : Nat) : ((wf s t f v).tw u).uplinks = (s.tw u).uplinks := wr_uplinks ..
@[simp] theorem wf_upOld (s : State) (t u : Twin) (f : Fld) (v : Nat) : ((wf s t f v).tw u).upOld = (s.tw u).upOld := wr_upOld ..
@[simp] theorem wf_exps (s : State) (t u : Twin) (f : Fld) (v : Nat) : ((wf s t f v).tw u).exps = (s.tw u).exps := wr_exps ..
@[simp] theorem wf_adc (s : State) (t u : Twin) (f : Fld) (v : Nat) : ((wf s t f v).tw u).adc = (s.tw u).adc := wr_adc ..
@[simp] theorem wf_drv (s : State) (t u : Twin) (f : Fld) (v : Nat) : ((wf s t f v).tw u).drv = (s.tw u).drv := wr_drv ..
@[simp] theorem wf_saf (s : State) (t u : Twin) (f : Fld) (v : Nat) : ((wf s t f v).tw u).saf = (s.tw u).saf := wr_saf ..
@[simp] theorem wf_netTw (s : State) (t u : Twin) (f : Fld) (v : Nat) : ((wf s t f v).tw u).net = (s.tw u).net := wr_netTw ..
@[simp] theorem wf_tm (s : State) (t u : Twin) (f : Fld) (v : Nat) : ((wf s t f v).tw u).tm = (s.tw u).tm := wr_tm ..
@[simp] theorem wf_can (s : State) (t u : Twin) (f : Fld) (v : Nat) : ((wf s t f v).tw u).can = (s.tw u).can := wr_can ..
@[simp] theorem wf_neg (s : State) (t u : Twin) (f : Fld) (v : Nat) : ((wf s t f v).tw u).neg = (s.tw u).neg := wr_neg ..
@[simp] theorem wf_xings (s : State) (t u : Twin) (f : Fld) (v : Nat) : ((wf s t f v).tw u).xings = (s.tw u).xings := wr_xings ..
@[simp] theorem wf_queues (s : State) (t u : Twin) (f : Fld) (v : Nat) : ((wf s t f v).tw u).queues = (s.tw u).queues := wr_queues ..

@[simp] theorem ev_tb (s : State) (t u : Twin) (f : Fld) : ((ev s t f).tw u).tb = (s.tw u).tb := wf_tb ..
@[simp] theorem ev_ofs (s : State) (t u : Twin) (f : Fld) : ((ev s t f).tw u).ofs = (s.tw u).ofs := wf_ofs ..
@[simp] theorem ev_twn (s : State) (t u : Twin) (f : Fld) : ((ev s t f).tw u).twn = (s.tw u).twn := wf_twn ..
@[simp] theorem ev_flash (s : State) (t u : Twin) (f : Fld) : ((ev s t f).tw u).flash = (s.tw u).flash := wf_flash ..
@[simp] theorem ev_pwr (s : State) (t u : Twin) (f : Fld) : ((ev s t f).tw u).pwr = (s.tw u).pwr := wf_pwr ..
@[simp] theorem ev_arr (s : State) (t u : Twin) (f : Fld) : ((ev s t f).tw u).arr = (s.tw u).arr := wf_arr ..
@[simp] theorem ev_law (s : State) (t u : Twin) (f : Fld) : ((ev s t f).tw u).law = (s.tw u).law := wf_law ..
@[simp] theorem ev_rings (s : State) (t u : Twin) (f : Fld) : ((ev s t f).tw u).rings = (s.tw u).rings := wf_rings ..
@[simp] theorem ev_uplinks (s : State) (t u : Twin) (f : Fld) : ((ev s t f).tw u).uplinks = (s.tw u).uplinks := wf_uplinks ..
@[simp] theorem ev_upOld (s : State) (t u : Twin) (f : Fld) : ((ev s t f).tw u).upOld = (s.tw u).upOld := wf_upOld ..
@[simp] theorem ev_exps (s : State) (t u : Twin) (f : Fld) : ((ev s t f).tw u).exps = (s.tw u).exps := wf_exps ..
@[simp] theorem ev_adc (s : State) (t u : Twin) (f : Fld) : ((ev s t f).tw u).adc = (s.tw u).adc := wf_adc ..
@[simp] theorem ev_drv (s : State) (t u : Twin) (f : Fld) : ((ev s t f).tw u).drv = (s.tw u).drv := wf_drv ..
@[simp] theorem ev_saf (s : State) (t u : Twin) (f : Fld) : ((ev s t f).tw u).saf = (s.tw u).saf := wf_saf ..
@[simp] theorem ev_netTw (s : State) (t u : Twin) (f : Fld) : ((ev s t f).tw u).net = (s.tw u).net := wf_netTw ..
@[simp] theorem ev_tm (s : State) (t u : Twin) (f : Fld) : ((ev s t f).tw u).tm = (s.tw u).tm := wf_tm ..
@[simp] theorem ev_can (s : State) (t u : Twin) (f : Fld) : ((ev s t f).tw u).can = (s.tw u).can := wf_can ..
@[simp] theorem ev_neg (s : State) (t u : Twin) (f : Fld) : ((ev s t f).tw u).neg = (s.tw u).neg := wf_neg ..
@[simp] theorem ev_xings (s : State) (t u : Twin) (f : Fld) : ((ev s t f).tw u).xings = (s.tw u).xings := wf_xings ..
@[simp] theorem ev_queues (s : State) (t u : Twin) (f : Fld) : ((ev s t f).tw u).queues = (s.tw u).queues := wf_queues ..

@[simp] theorem evi_tb (s : State) (t u : Twin) (f : Fld) (i : Nat) : ((evi s t f i).tw u).tb = (s.tw u).tb := wr_tb ..
@[simp] theorem evi_ofs (s : State) (t u : Twin) (f : Fld) (i : Nat) : ((evi s t f i).tw u).ofs = (s.tw u).ofs := wr_ofs ..
@[simp] theorem evi_twn (s : State) (t u : Twin) (f : Fld) (i : Nat) : ((evi s t f i).tw u).twn = (s.tw u).twn := wr_twn ..
@[simp] theorem evi_flash (s : State) (t u : Twin) (f : Fld) (i : Nat) : ((evi s t f i).tw u).flash = (s.tw u).flash := wr_flash ..
@[simp] theorem evi_pwr (s : State) (t u : Twin) (f : Fld) (i : Nat) : ((evi s t f i).tw u).pwr = (s.tw u).pwr := wr_pwr ..
@[simp] theorem evi_arr (s : State) (t u : Twin) (f : Fld) (i : Nat) : ((evi s t f i).tw u).arr = (s.tw u).arr := wr_arr ..
@[simp] theorem evi_law (s : State) (t u : Twin) (f : Fld) (i : Nat) : ((evi s t f i).tw u).law = (s.tw u).law := wr_law ..
@[simp] theorem evi_rings (s : State) (t u : Twin) (f : Fld) (i : Nat) : ((evi s t f i).tw u).rings = (s.tw u).rings := wr_rings ..
@[simp] theorem evi_uplinks (s : State) (t u : Twin) (f : Fld) (i : Nat) : ((evi s t f i).tw u).uplinks = (s.tw u).uplinks := wr_uplinks ..
@[simp] theorem evi_upOld (s : State) (t u : Twin) (f : Fld) (i : Nat) : ((evi s t f i).tw u).upOld = (s.tw u).upOld := wr_upOld ..
@[simp] theorem evi_exps (s : State) (t u : Twin) (f : Fld) (i : Nat) : ((evi s t f i).tw u).exps = (s.tw u).exps := wr_exps ..
@[simp] theorem evi_adc (s : State) (t u : Twin) (f : Fld) (i : Nat) : ((evi s t f i).tw u).adc = (s.tw u).adc := wr_adc ..
@[simp] theorem evi_drv (s : State) (t u : Twin) (f : Fld) (i : Nat) : ((evi s t f i).tw u).drv = (s.tw u).drv := wr_drv ..
@[simp] theorem evi_saf (s : State) (t u : Twin) (f : Fld) (i : Nat) : ((evi s t f i).tw u).saf = (s.tw u).saf := wr_saf ..
@[simp] theorem evi_netTw (s : State) (t u : Twin) (f : Fld) (i : Nat) : ((evi s t f i).tw u).net = (s.tw u).net := wr_netTw ..
@[simp] theorem evi_tm (s : State) (t u : Twin) (f : Fld) (i : Nat) : ((evi s t f i).tw u).tm = (s.tw u).tm := wr_tm ..
@[simp] theorem evi_can (s : State) (t u : Twin) (f : Fld) (i : Nat) : ((evi s t f i).tw u).can = (s.tw u).can := wr_can ..
@[simp] theorem evi_neg (s : State) (t u : Twin) (f : Fld) (i : Nat) : ((evi s t f i).tw u).neg = (s.tw u).neg := wr_neg ..
@[simp] theorem evi_xings (s : State) (t u : Twin) (f : Fld) (i : Nat) : ((evi s t f i).tw u).xings = (s.tw u).xings := wr_xings ..
@[simp] theorem evi_queues (s : State) (t u : Twin) (f : Fld) (i : Nat) : ((evi s t f i).tw u).queues = (s.tw u).queues := wr_queues ..

@[simp] theorem clri_tb (s : State) (t u : Twin) (f : Fld) (i : Nat) : ((clri s t f i).tw u).tb = (s.tw u).tb := wr_tb ..
@[simp] theorem clri_ofs (s : State) (t u : Twin) (f : Fld) (i : Nat) : ((clri s t f i).tw u).ofs = (s.tw u).ofs := wr_ofs ..
@[simp] theorem clri_twn (s : State) (t u : Twin) (f : Fld) (i : Nat) : ((clri s t f i).tw u).twn = (s.tw u).twn := wr_twn ..
@[simp] theorem clri_flash (s : State) (t u : Twin) (f : Fld) (i : Nat) : ((clri s t f i).tw u).flash = (s.tw u).flash := wr_flash ..
@[simp] theorem clri_pwr (s : State) (t u : Twin) (f : Fld) (i : Nat) : ((clri s t f i).tw u).pwr = (s.tw u).pwr := wr_pwr ..
@[simp] theorem clri_arr (s : State) (t u : Twin) (f : Fld) (i : Nat) : ((clri s t f i).tw u).arr = (s.tw u).arr := wr_arr ..
@[simp] theorem clri_law (s : State) (t u : Twin) (f : Fld) (i : Nat) : ((clri s t f i).tw u).law = (s.tw u).law := wr_law ..
@[simp] theorem clri_rings (s : State) (t u : Twin) (f : Fld) (i : Nat) : ((clri s t f i).tw u).rings = (s.tw u).rings := wr_rings ..
@[simp] theorem clri_uplinks (s : State) (t u : Twin) (f : Fld) (i : Nat) : ((clri s t f i).tw u).uplinks = (s.tw u).uplinks := wr_uplinks ..
@[simp] theorem clri_upOld (s : State) (t u : Twin) (f : Fld) (i : Nat) : ((clri s t f i).tw u).upOld = (s.tw u).upOld := wr_upOld ..
@[simp] theorem clri_exps (s : State) (t u : Twin) (f : Fld) (i : Nat) : ((clri s t f i).tw u).exps = (s.tw u).exps := wr_exps ..
@[simp] theorem clri_adc (s : State) (t u : Twin) (f : Fld) (i : Nat) : ((clri s t f i).tw u).adc = (s.tw u).adc := wr_adc ..
@[simp] theorem clri_drv (s : State) (t u : Twin) (f : Fld) (i : Nat) : ((clri s t f i).tw u).drv = (s.tw u).drv := wr_drv ..
@[simp] theorem clri_saf (s : State) (t u : Twin) (f : Fld) (i : Nat) : ((clri s t f i).tw u).saf = (s.tw u).saf := wr_saf ..
@[simp] theorem clri_netTw (s : State) (t u : Twin) (f : Fld) (i : Nat) : ((clri s t f i).tw u).net = (s.tw u).net := wr_netTw ..
@[simp] theorem clri_tm (s : State) (t u : Twin) (f : Fld) (i : Nat) : ((clri s t f i).tw u).tm = (s.tw u).tm := wr_tm ..
@[simp] theorem clri_can (s : State) (t u : Twin) (f : Fld) (i : Nat) : ((clri s t f i).tw u).can = (s.tw u).can := wr_can ..
@[simp] theorem clri_neg (s : State) (t u : Twin) (f : Fld) (i : Nat) : ((clri s t f i).tw u).neg = (s.tw u).neg := wr_neg ..
@[simp] theorem clri_xings (s : State) (t u : Twin) (f : Fld) (i : Nat) : ((clri s t f i).tw u).xings = (s.tw u).xings := wr_xings ..
@[simp] theorem clri_queues (s : State) (t u : Twin) (f : Fld) (i : Nat) : ((clri s t f i).tw u).queues = (s.tw u).queues := wr_queues ..

@[simp] theorem setOvf_tb (s : State) (t u : Twin) (a : Nat) : ((setOvf s t a).tw u).tb = (s.tw u).tb := by
  unfold setOvf; split <;> simp
@[simp] theorem setOvf_ofs (s : State) (t u : Twin) (a : Nat) : ((setOvf s t a).tw u).ofs = (s.tw u).ofs := by
  unfold setOvf; split <;> simp
@[simp] theorem setOvf_twn (s : State) (t u : Twin) (a : Nat) : ((setOvf s t a).tw u).twn = (s.tw u).twn := by
  unfold setOvf; split <;> simp
@[simp] theorem setOvf_flash (s : State) (t u : Twin) (a : Nat) : ((setOvf s t a).tw u).flash = (s.tw u).flash := by
  unfold setOvf; split <;> simp
@[simp] theorem setOvf_pwr (s : State) (t u : Twin) (a : Nat) : ((setOvf s t a).tw u).pwr = (s.tw u).pwr := by
  unfold setOvf; split <;> simp
@[simp] theorem setOvf_arr (s : State) (t u : Twin) (a : Nat) : ((setOvf s t a).tw u).arr = (s.tw u).arr := by
  unfold setOvf; split <;> simp
@[simp] theorem setOvf_law (s : State) (t u : Twin) (a : Nat) : ((setOvf s t a).tw u).law = (s.tw u).law := by
  unfold setOvf; split <;> simp
@[simp] theorem setOvf_rings (s : State) (t u : Twin) (a : Nat) : ((setOvf s t a).tw u).rings = (s.tw u).rings := by
  unfold setOvf; split <;> simp
@[simp] theorem setOvf_uplinks (s : State) (t u : Twin) (a : Nat) : ((setOvf s t a).tw u).uplinks = (s.tw u).uplinks := by
  unfold setOvf; split <;> simp
@[simp] theorem setOvf_upOld (s : State) (t u : Twin) (a : Nat) : ((setOvf s t a).tw u).upOld = (s.tw u).upOld := by
  unfold setOvf; split <;> simp
@[simp] theorem setOvf_exps (s : State) (t u : Twin) (a : Nat) : ((setOvf s t a).tw u).exps = (s.tw u).exps := by
  unfold setOvf; split <;> simp
@[simp] theorem setOvf_adc (s : State) (t u : Twin) (a : Nat) : ((setOvf s t a).tw u).adc = (s.tw u).adc := by
  unfold setOvf; split <;> simp
@[simp] theorem setOvf_drv (s : State) (t u : Twin) (a : Nat) : ((setOvf s t a).tw u).drv = (s.tw u).drv := by
  unfold setOvf; split <;> simp
@[simp] theorem setOvf_saf (s : State) (t u : Twin) (a : Nat) : ((setOvf s t a).tw u).saf = (s.tw u).saf := by
  unfold setOvf; split <;> simp
@[simp] theorem setOvf_netTw (s : State) (t u : Twin) (a : Nat) : ((setOvf s t a).tw u).net = (s.tw u).net := by
  unfold setOvf; split <;> simp
@[simp] theorem setOvf_tm (s : State) (t u : Twin) (a : Nat) : ((setOvf s t a).tw u).tm = (s.tw u).tm := by
  unfold setOvf; split <;> simp
@[simp] theorem setOvf_can (s : State) (t u : Twin) (a : Nat) : ((setOvf s t a).tw u).can = (s.tw u).can := by
  unfold setOvf; split <;> simp
@[simp] theorem setOvf_neg (s : State) (t u : Twin) (a : Nat) : ((setOvf s t a).tw u).neg = (s.tw u).neg := by
  unfold setOvf; split <;> simp
@[simp] theorem setOvf_xings (s : State) (t u : Twin) (a : Nat) : ((setOvf s t a).tw u).xings = (s.tw u).xings := by
  unfold setOvf; split <;> simp
@[simp] theorem setOvf_queues (s : State) (t u : Twin) (a : Nat) : ((setOvf s t a).tw u).queues = (s.tw u).queues := by
  unfold setOvf; split <;> simp

@[simp] theorem clearOvf_tb (s : State) (t u : Twin) (a : Nat) : ((clearOvf s t a).tw u).tb = (s.tw u).tb := by
  unfold clearOvf; split <;> simp
@[simp] theorem clearOvf_ofs (s : State) (t u : Twin) (a : Nat) : ((clearOvf s t a).tw u).ofs = (s.tw u).ofs := by
  unfold clearOvf; split <;> simp
@[simp] theorem clearOvf_twn (s : State) (t u : Twin) (a : Nat) : ((clearOvf s t a).tw u).twn = (s.tw u).twn := by
  unfold clearOvf; split <;> simp
@[simp] theorem clearOvf_flash (s : State) (t u : Twin) (a : Nat) : ((clearOvf s t a).tw u).flash = (s.tw u).flash := by
  unfold clearOvf; split <;> simp
@[simp] theorem clearOvf_pwr (s : State) (t u : Twin) (a : Nat) : ((clearOvf s t a).tw u).pwr = (s.tw u).pwr := by
  unfold clearOvf; split <;> simp
@[simp] theorem clearOvf_arr (s : State) (t u : Twin) (a : Nat) : ((clearOvf s t a).tw u).arr = (s.tw u).arr := by
  unfold clearOvf; split <;> simp
@[simp] theorem clearOvf_law (s : State) (t u : Twin) (a : Nat) : ((clearOvf s t a).tw u).law = (s.tw u).law := by
  unfold clearOvf; split <;> simp
@[simp] theorem clearOvf_rings (s : State) (t u : Twin) (a : Nat) : ((clearOvf s t a).tw u).rings = (s.tw u).rings := by
  unfold clearOvf; split <;> simp
@[simp] theorem clearOvf_uplinks (s : State) (t u : Twin) (a : Nat) : ((clearOvf s t a).tw u).uplinks = (s.tw u).uplinks := by
  unfold clearOvf; split <;> simp
@[simp] theorem clearOvf_upOld (s : State) (t u : Twin) (a : Nat) : ((clearOvf s t a).tw u).upOld = (s.tw u).upOld := by
  unfold clearOvf; split <;> simp
@[simp] theorem clearOvf_exps (s : State) (t u : Twin) (a : Nat) : ((clearOvf s t a).tw u).exps = (s.tw u).exps := by
  unfold clearOvf; split <;> simp
@[simp] theorem clearOvf_adc (s : State) (t u : Twin) (a : Nat) : ((clearOvf s t a).tw u).adc = (s.tw u).adc := by
  unfold clearOvf; split <;> simp
@[simp] theorem clearOvf_drv (s : State) (t u : Twin) (a : Nat) : ((clearOvf s t a).tw u).drv = (s.tw u).drv := by
  unfold clearOvf; split <;> simp
@[simp] theorem clearOvf_saf (s : State) (t u : Twin) (a : Nat) : ((clearOvf s t a).tw u).saf = (s.tw u).saf := by
  unfold clearOvf; split <;> simp
@[simp] theorem clearOvf_netTw (s : State) (t u : Twin) (a : Nat) : ((clearOvf s t a).tw u).net = (s.tw u).net := by
  unfold clearOvf; split <;> simp
@[simp] theorem clearOvf_tm (s : State) (t u : Twin) (a : Nat) : ((clearOvf s t a).tw u).tm = (s.tw u).tm := by
  unfold clearOvf; split <;> simp
@[simp] theorem clearOvf_can (s : State) (t u : Twin) (a : Nat) : ((clearOvf s t a).tw u).can = (s.tw u).can := by
  unfold clearOvf; split <;> simp
@[simp] theorem clearOvf_neg (s : State) (t u : Twin) (a : Nat) : ((clearOvf s t a).tw u).neg = (s.tw u).neg := by
  unfold clearOvf; split <;> simp
@[simp] theorem clearOvf_xings (s : State) (t u : Twin) (a : Nat) : ((clearOvf s t a).tw u).xings = (s.tw u).xings := by
  unfold clearOvf; split <;> simp
@[simp] theorem clearOvf_queues (s : State) (t u : Twin) (a : Nat) : ((clearOvf s t a).tw u).queues = (s.tw u).queues := by
  unfold clearOvf; split <;> simp

@[simp] theorem cntBy_tb (s : State) (t u : Twin) (a k : Nat) : ((cntBy s t a k).tw u).tb = (s.tw u).tb := by
  unfold cntBy; split <;> simp
@[simp] theorem cntBy_ofs (s : State) (t u : Twin) (a k : Nat) : ((cntBy s t a k).tw u).ofs = (s.tw u).ofs := by
  unfold cntBy; split <;> simp
@[simp] theorem cntBy_twn (s : State) (t u : Twin) (a k : Nat) : ((cntBy s t a k).tw u).twn = (s.tw u).twn := by
  unfold cntBy; split <;> simp
@[simp] theorem cntBy_flash (s : State) (t u : Twin) (a k : Nat) : ((cntBy s t a k).tw u).flash = (s.tw u).flash := by
  unfold cntBy; split <;> simp
@[simp] theorem cntBy_pwr (s : State) (t u : Twin) (a k : Nat) : ((cntBy s t a k).tw u).pwr = (s.tw u).pwr := by
  unfold cntBy; split <;> simp
@[simp] theorem cntBy_arr (s : State) (t u : Twin) (a k : Nat) : ((cntBy s t a k).tw u).arr = (s.tw u).arr := by
  unfold cntBy; split <;> simp
@[simp] theorem cntBy_law (s : State) (t u : Twin) (a k : Nat) : ((cntBy s t a k).tw u).law = (s.tw u).law := by
  unfold cntBy; split <;> simp
@[simp] theorem cntBy_rings (s : State) (t u : Twin) (a k : Nat) : ((cntBy s t a k).tw u).rings = (s.tw u).rings := by
  unfold cntBy; split <;> simp
@[simp] theorem cntBy_uplinks (s : State) (t u : Twin) (a k : Nat) : ((cntBy s t a k).tw u).uplinks = (s.tw u).uplinks := by
  unfold cntBy; split <;> simp
@[simp] theorem cntBy_upOld (s : State) (t u : Twin) (a k : Nat) : ((cntBy s t a k).tw u).upOld = (s.tw u).upOld := by
  unfold cntBy; split <;> simp
@[simp] theorem cntBy_exps (s : State) (t u : Twin) (a k : Nat) : ((cntBy s t a k).tw u).exps = (s.tw u).exps := by
  unfold cntBy; split <;> simp
@[simp] theorem cntBy_adc (s : State) (t u : Twin) (a k : Nat) : ((cntBy s t a k).tw u).adc = (s.tw u).adc := by
  unfold cntBy; split <;> simp
@[simp] theorem cntBy_drv (s : State) (t u : Twin) (a k : Nat) : ((cntBy s t a k).tw u).drv = (s.tw u).drv := by
  unfold cntBy; split <;> simp
@[simp] theorem cntBy_saf (s : State) (t u : Twin) (a k : Nat) : ((cntBy s t a k).tw u).saf = (s.tw u).saf := by
  unfold cntBy; split <;> simp
@[simp] theorem cntBy_netTw (s : State) (t u : Twin) (a k : Nat) : ((cntBy s t a k).tw u).net = (s.tw u).net := by
  unfold cntBy; split <;> simp
@[simp] theorem cntBy_tm (s : State) (t u : Twin) (a k : Nat) : ((cntBy s t a k).tw u).tm = (s.tw u).tm := by
  unfold cntBy; split <;> simp
@[simp] theorem cntBy_can (s : State) (t u : Twin) (a k : Nat) : ((cntBy s t a k).tw u).can = (s.tw u).can := by
  unfold cntBy; split <;> simp
@[simp] theorem cntBy_neg (s : State) (t u : Twin) (a k : Nat) : ((cntBy s t a k).tw u).neg = (s.tw u).neg := by
  unfold cntBy; split <;> simp
@[simp] theorem cntBy_xings (s : State) (t u : Twin) (a k : Nat) : ((cntBy s t a k).tw u).xings = (s.tw u).xings := by
  unfold cntBy; split <;> simp
@[simp] theorem cntBy_queues (s : State) (t u : Twin) (a k : Nat) : ((cntBy s t a k).tw u).queues = (s.tw u).queues := by
  unfold cntBy; split <;> simp

@[simp] theorem cnt_tb (s : State) (t u : Twin) (a : Nat) : ((cnt s t a).tw u).tb = (s.tw u).tb := cntBy_tb ..
@[simp] theorem cnt_ofs (s : State) (t u : Twin) (a : Nat) : ((cnt s t a).tw u).ofs = (s.tw u).ofs := cntBy_ofs ..
@[simp] theorem cnt_twn (s : State) (t u : Twin) (a : Nat) : ((cnt s t a).tw u).twn = (s.tw u).twn := cntBy_twn ..
@[simp] theorem cnt_flash (s : State) (t u : Twin) (a : Nat) : ((cnt s t a).tw u).flash = (s.tw u).flash := cntBy_flash ..
@[simp] theorem cnt_pwr (s : State) (t u : Twin) (a : Nat) : ((cnt s t a).tw u).pwr = (s.tw u).pwr := cntBy_pwr ..
@[simp] theorem cnt_arr (s : State) (t u : Twin) (a : Nat) : ((cnt s t a).tw u).arr = (s.tw u).arr := cntBy_arr ..
@[simp] theorem cnt_law (s : State) (t u : Twin) (a : Nat) : ((cnt s t a).tw u).law = (s.tw u).law := cntBy_law ..
@[simp] theorem cnt_rings (s : State) (t u : Twin) (a : Nat) : ((cnt s t a).tw u).rings = (s.tw u).rings := cntBy_rings ..
@[simp] theorem cnt_uplinks (s : State) (t u : Twin) (a : Nat) : ((cnt s t a).tw u).uplinks = (s.tw u).uplinks := cntBy_uplinks ..
@[simp] theorem cnt_upOld (s : State) (t u : Twin) (a : Nat) : ((cnt s t a).tw u).upOld = (s.tw u).upOld := cntBy_upOld ..
@[simp] theorem cnt_exps (s : State) (t u : Twin) (a : Nat) : ((cnt s t a).tw u).exps = (s.tw u).exps := cntBy_exps ..
@[simp] theorem cnt_adc (s : State) (t u : Twin) (a : Nat) : ((cnt s t a).tw u).adc = (s.tw u).adc := cntBy_adc ..
@[simp] theorem cnt_drv (s : State) (t u : Twin) (a : Nat) : ((cnt s t a).tw u).drv = (s.tw u).drv := cntBy_drv ..
@[simp] theorem cnt_saf (s : State) (t u : Twin) (a : Nat) : ((cnt s t a).tw u).saf = (s.tw u).saf := cntBy_saf ..
@[simp] theorem cnt_netTw (s : State) (t u : Twin) (a : Nat) : ((cnt s t a).tw u).net = (s.tw u).net := cntBy_netTw ..
@[simp] theorem cnt_tm (s : State) (t u : Twin) (a : Nat) : ((cnt s t a).tw u).tm = (s.tw u).tm := cntBy_tm ..
@[simp] theorem cnt_can (s : State) (t u : Twin) (a : Nat) : ((cnt s t a).tw u).can = (s.tw u).can := cntBy_can ..
@[simp] theorem cnt_neg (s : State) (t u : Twin) (a : Nat) : ((cnt s t a).tw u).neg = (s.tw u).neg := cntBy_neg ..
@[simp] theorem cnt_xings (s : State) (t u : Twin) (a : Nat) : ((cnt s t a).tw u).xings = (s.tw u).xings := cntBy_xings ..
@[simp] theorem cnt_queues (s : State) (t u : Twin) (a : Nat) : ((cnt s t a).tw u).queues = (s.tw u).queues := cntBy_queues ..

@[simp] theorem modTwn_twn (s : State) (t : Twin) (f : TwnSt → TwnSt) : ((modTwn s t f).tw t).twn = f (s.tw t).twn := by
  cases t <;> rfl
@[simp] theorem modTwn_regs (s : State) (t u : Twin) (f : TwnSt → TwnSt) : ((modTwn s t f).tw u).regs = (s.tw u).regs := by
  cases t <;> cases u <;> rfl
@[simp] theorem modTwn_tb (s : State) (t u : Twin) (f : TwnSt → TwnSt) : ((modTwn s t f).tw u).tb = (s.tw u).tb := by
  cases t <;> cases u <;> rfl
@[simp] theorem modTwn_ofs (s : State) (t u : Twin) (f : TwnSt → TwnSt) : ((modTwn s t f).tw u).ofs = (s.tw u).ofs := by
  cases t <;> cases u <;> rfl
@[simp] theorem modTwn_flash (s : State) (t u : Twin) (f : TwnSt → TwnSt) : ((modTwn s t f).tw u).flash = (s.tw u).flash := by
  cases t <;> cases u <;> rfl
@[simp] theorem modTwn_pwr (s : State) (t u : Twin) (f : TwnSt → TwnSt) : ((modTwn s t f).tw u).pwr = (s.tw u).pwr := by
  cases t <;> cases u <;> rfl
@[simp] theorem modTwn_arr (s : State) (t u : Twin) (f : TwnSt → TwnSt) : ((modTwn s t f).tw u).arr = (s.tw u).arr := by
  cases t <;> cases u <;> rfl
@[simp] theorem modTwn_law (s : State) (t u : Twin) (f : TwnSt → TwnSt) : ((modTwn s t f).tw u).law = (s.tw u).law := by
  cases t <;> cases u <;> rfl
@[simp] theorem modTwn_rings (s : State) (t u : Twin) (f : TwnSt → TwnSt) : ((modTwn s t f).tw u).rings = (s.tw u).rings := by
  cases t <;> cases u <;> rfl
@[simp] theorem modTwn_uplinks (s : State) (t u : Twin) (f : TwnSt → TwnSt) : ((modTwn s t f).tw u).uplinks = (s.tw u).uplinks := by
  cases t <;> cases u <;> rfl
@[simp] theorem modTwn_upOld (s : State) (t u : Twin) (f : TwnSt → TwnSt) : ((modTwn s t f).tw u).upOld = (s.tw u).upOld := by
  cases t <;> cases u <;> rfl
@[simp] theorem modTwn_exps (s : State) (t u : Twin) (f : TwnSt → TwnSt) : ((modTwn s t f).tw u).exps = (s.tw u).exps := by
  cases t <;> cases u <;> rfl
@[simp] theorem modTwn_adc (s : State) (t u : Twin) (f : TwnSt → TwnSt) : ((modTwn s t f).tw u).adc = (s.tw u).adc := by
  cases t <;> cases u <;> rfl
@[simp] theorem modTwn_drv (s : State) (t u : Twin) (f : TwnSt → TwnSt) : ((modTwn s t f).tw u).drv = (s.tw u).drv := by
  cases t <;> cases u <;> rfl
@[simp] theorem modTwn_saf (s : State) (t u : Twin) (f : TwnSt → TwnSt) : ((modTwn s t f).tw u).saf = (s.tw u).saf := by
  cases t <;> cases u <;> rfl
@[simp] theorem modTwn_netTw (s : State) (t u : Twin) (f : TwnSt → TwnSt) : ((modTwn s t f).tw u).net = (s.tw u).net := by
  cases t <;> cases u <;> rfl
@[simp] theorem modTwn_tm (s : State) (t u : Twin) (f : TwnSt → TwnSt) : ((modTwn s t f).tw u).tm = (s.tw u).tm := by
  cases t <;> cases u <;> rfl
@[simp] theorem modTwn_can (s : State) (t u : Twin) (f : TwnSt → TwnSt) : ((modTwn s t f).tw u).can = (s.tw u).can := by
  cases t <;> cases u <;> rfl
@[simp] theorem modTwn_neg (s : State) (t u : Twin) (f : TwnSt → TwnSt) : ((modTwn s t f).tw u).neg = (s.tw u).neg := by
  cases t <;> cases u <;> rfl
@[simp] theorem modTwn_xings (s : State) (t u : Twin) (f : TwnSt → TwnSt) : ((modTwn s t f).tw u).xings = (s.tw u).xings := by
  cases t <;> cases u <;> rfl
@[simp] theorem modTwn_queues (s : State) (t u : Twin) (f : TwnSt → TwnSt) : ((modTwn s t f).tw u).queues = (s.tw u).queues := by
  cases t <;> cases u <;> rfl
@[simp] theorem rd_modTwn (s : State) (t u : Twin) (f : TwnSt → TwnSt) (a : Nat) : rd (modTwn s t f) u a = rd s u a := by
  simp [rd]
@[simp] theorem rf_modTwn (s : State) (t u : Twin) (f : TwnSt → TwnSt) (g : Fld) : rf (modTwn s t f) u g = rf s u g := by
  simp [rf]
@[simp] theorem regsOk_modTwn (f : TwnSt → TwnSt) : RegsOk (modTwn s t f) ↔ RegsOk s := by simp [RegsOk]

@[simp] theorem modFlash_flash (s : State) (t : Twin) (f : FlashSt → FlashSt) : ((modFlash s t f).tw t).flash = f (s.tw t).flash := by
  cases t <;> rfl
@[simp] theorem modFlash_regs (s : State) (t u : Twin) (f : FlashSt → FlashSt) : ((modFlash s t f).tw u).regs = (s.tw u).regs := by
  cases t <;> cases u <;> rfl
@[simp] theorem modFlash_tb (s : State) (t u : Twin) (f : FlashSt → FlashSt) : ((modFlash s t f).tw u).tb = (s.tw u).tb := by
  cases t <;> cases u <;> rfl
@[simp] theorem modFlash_ofs (s : State) (t u : Twin) (f : FlashSt → FlashSt) : ((modFlash s t f).tw u).ofs = (s.tw u).ofs := by
  cases t <;> cases u <;> rfl
@[simp] theorem modFlash_twn (s : State) (t u : Twin) (f : FlashSt → FlashSt) : ((modFlash s t f).tw u).twn = (s.tw u).twn := by
  cases t <;> cases u <;> rfl
@[simp] theorem modFlash_pwr (s : State) (t u : Twin) (f : FlashSt → FlashSt) : ((modFlash s t f).tw u).pwr = (s.tw u).pwr := by
  cases t <;> cases u <;> rfl
@[simp] theorem modFlash_arr (s : State) (t u : Twin) (f : FlashSt → FlashSt) : ((modFlash s t f).tw u).arr = (s.tw u).arr := by
  cases t <;> cases u <;> rfl
@[simp] theorem modFlash_law (s : State) (t u : Twin) (f : FlashSt → FlashSt) : ((modFlash s t f).tw u).law = (s.tw u).law := by
  cases t <;> cases u <;> rfl
@[simp] theorem modFlash_rings (s : State) (t u : Twin) (f : FlashSt → FlashSt) : ((modFlash s t f).tw u).rings = (s.tw u).rings := by
  cases t <;> cases u <;> rfl
@[simp] theorem modFlash_uplinks (s : State) (t u : Twin) (f : FlashSt → FlashSt) : ((modFlash s t f).tw u).uplinks = (s.tw u).uplinks := by
  cases t <;> cases u <;> rfl
@[simp] theorem modFlash_upOld (s : State) (t u : Twin) (f : FlashSt → FlashSt) : ((modFlash s t f).tw u).upOld = (s.tw u).upOld := by
  cases t <;> cases u <;> rfl
@[simp] theorem modFlash_exps (s : State) (t u : Twin) (f : FlashSt → FlashSt) : ((modFlash s t f).tw u).exps = (s.tw u).exps := by
  cases t <;> cases u <;> rfl
@[simp] theorem modFlash_adc (s : State) (t u : Twin) (f : FlashSt → FlashSt) : ((modFlash s t f).tw u).adc = (s.tw u).adc := by
  cases t <;> cases u <;> rfl
@[simp] theorem modFlash_drv (s : State) (t u : Twin) (f : FlashSt → FlashSt) : ((modFlash s t f).tw u).drv = (s.tw u).drv := by
  cases t <;> cases u <;> rfl
@[simp] theorem modFlash_saf (s : State) (t u : Twin) (f : FlashSt → FlashSt) : ((modFlash s t f).tw u).saf = (s.tw u).saf := by
  cases t <;> cases u <;> rfl
@[simp] theorem modFlash_netTw (s : State) (t u : Twin) (f : FlashSt → FlashSt) : ((modFlash s t f).tw u).net = (s.tw u).net := by
  cases t <;> cases u <;> rfl
@[simp] theorem modFlash_tm (s : State) (t u : Twin) (f : FlashSt → FlashSt) : ((modFlash s t f).tw u).tm = (s.tw u).tm := by
  cases t <;> cases u <;> rfl
@[simp] theorem modFlash_can (s : State) (t u : Twin) (f : FlashSt → FlashSt) : ((modFlash s t f).tw u).can = (s.tw u).can := by
  cases t <;> cases u <;> rfl
@[simp] theorem modFlash_neg (s : State) (t u : Twin) (f : FlashSt → FlashSt) : ((modFlash s t f).tw u).neg = (s.tw u).neg := by
  cases t <;> cases u <;> rfl
@[simp] theorem modFlash_xings (s : State) (t u : Twin) (f : FlashSt → FlashSt) : ((modFlash s t f).tw u).xings = (s.tw u).xings := by
  cases t <;> cases u <;> rfl
@[simp] theorem modFlash_queues (s : State) (t u : Twin) (f : FlashSt → FlashSt) : ((modFlash s t f).tw u).queues = (s.tw u).queues := by
  cases t <;> cases u <;> rfl
@[simp] theorem rd_modFlash (s : State) (t u : Twin) (f : FlashSt → FlashSt) (a : Nat) : rd (modFlash s t f) u a = rd s u a := by
  simp [rd]
@[simp] theorem rf_modFlash (s : State) (t u : Twin) (f : FlashSt → FlashSt) (g : Fld) : rf (modFlash s t f) u g = rf s u g := by
  simp [rf]
@[simp] theorem regsOk_modFlash (f : FlashSt → FlashSt) : RegsOk (modFlash s t f) ↔ RegsOk s := by simp [RegsOk]

@[simp] theorem modPwr_pwr (s : State) (t : Twin) (f : PwrSt → PwrSt) : ((modPwr s t f).tw t).pwr = f (s.tw t).pwr := by
  cases t <;> rfl
@[simp] theorem modPwr_regs (s : State) (t u : Twin) (f : PwrSt → PwrSt) : ((modPwr s t f).tw u).regs = (s.tw u).regs := by
  cases t <;> cases u <;> rfl
@[simp] theorem modPwr_tb (s : State) (t u : Twin) (f : PwrSt → PwrSt) : ((modPwr s t f).tw u).tb = (s.tw u).tb := by
  cases t <;> cases u <;> rfl
@[simp] theorem modPwr_ofs (s : State) (t u : Twin) (f : PwrSt → PwrSt) : ((modPwr s t f).tw u).ofs = (s.tw u).ofs := by
  cases t <;> cases u <;> rfl
@[simp] theorem modPwr_twn (s : State) (t u : Twin) (f : PwrSt → PwrSt) : ((modPwr s t f).tw u).twn = (s.tw u).twn := by
  cases t <;> cases u <;> rfl
@[simp] theorem modPwr_flash (s : State) (t u : Twin) (f : PwrSt → PwrSt) : ((modPwr s t f).tw u).flash = (s.tw u).flash := by
  cases t <;> cases u <;> rfl
@[simp] theorem modPwr_arr (s : State) (t u : Twin) (f : PwrSt → PwrSt) : ((modPwr s t f).tw u).arr = (s.tw u).arr := by
  cases t <;> cases u <;> rfl
@[simp] theorem modPwr_law (s : State) (t u : Twin) (f : PwrSt → PwrSt) : ((modPwr s t f).tw u).law = (s.tw u).law := by
  cases t <;> cases u <;> rfl
@[simp] theorem modPwr_rings (s : State) (t u : Twin) (f : PwrSt → PwrSt) : ((modPwr s t f).tw u).rings = (s.tw u).rings := by
  cases t <;> cases u <;> rfl
@[simp] theorem modPwr_uplinks (s : State) (t u : Twin) (f : PwrSt → PwrSt) : ((modPwr s t f).tw u).uplinks = (s.tw u).uplinks := by
  cases t <;> cases u <;> rfl
@[simp] theorem modPwr_upOld (s : State) (t u : Twin) (f : PwrSt → PwrSt) : ((modPwr s t f).tw u).upOld = (s.tw u).upOld := by
  cases t <;> cases u <;> rfl
@[simp] theorem modPwr_exps (s : State) (t u : Twin) (f : PwrSt → PwrSt) : ((modPwr s t f).tw u).exps = (s.tw u).exps := by
  cases t <;> cases u <;> rfl
@[simp] theorem modPwr_adc (s : State) (t u : Twin) (f : PwrSt → PwrSt) : ((modPwr s t f).tw u).adc = (s.tw u).adc := by
  cases t <;> cases u <;> rfl
@[simp] theorem modPwr_drv (s : State) (t u : Twin) (f : PwrSt → PwrSt) : ((modPwr s t f).tw u).drv = (s.tw u).drv := by
  cases t <;> cases u <;> rfl
@[simp] theorem modPwr_saf (s : State) (t u : Twin) (f : PwrSt → PwrSt) : ((modPwr s t f).tw u).saf = (s.tw u).saf := by
  cases t <;> cases u <;> rfl
@[simp] theorem modPwr_netTw (s : State) (t u : Twin) (f : PwrSt → PwrSt) : ((modPwr s t f).tw u).net = (s.tw u).net := by
  cases t <;> cases u <;> rfl
@[simp] theorem modPwr_tm (s : State) (t u : Twin) (f : PwrSt → PwrSt) : ((modPwr s t f).tw u).tm = (s.tw u).tm := by
  cases t <;> cases u <;> rfl
@[simp] theorem modPwr_can (s : State) (t u : Twin) (f : PwrSt → PwrSt) : ((modPwr s t f).tw u).can = (s.tw u).can := by
  cases t <;> cases u <;> rfl
@[simp] theorem modPwr_neg (s : State) (t u : Twin) (f : PwrSt → PwrSt) : ((modPwr s t f).tw u).neg = (s.tw u).neg := by
  cases t <;> cases u <;> rfl
@[simp] theorem modPwr_xings (s : State) (t u : Twin) (f : PwrSt → PwrSt) : ((modPwr s t f).tw u).xings = (s.tw u).xings := by
  cases t <;> cases u <;> rfl
@[simp] theorem modPwr_queues (s : State) (t u : Twin) (f : PwrSt → PwrSt) : ((modPwr s t f).tw u).queues = (s.tw u).queues := by
  cases t <;> cases u <;> rfl
@[simp] theorem rd_modPwr (s : State) (t u : Twin) (f : PwrSt → PwrSt) (a : Nat) : rd (modPwr s t f) u a = rd s u a := by
  simp [rd]
@[simp] theorem rf_modPwr (s : State) (t u : Twin) (f : PwrSt → PwrSt) (g : Fld) : rf (modPwr s t f) u g = rf s u g := by
  simp [rf]
@[simp] theorem regsOk_modPwr (f : PwrSt → PwrSt) : RegsOk (modPwr s t f) ↔ RegsOk s := by simp [RegsOk]

@[simp] theorem rd_say (s : State) (c : Nat) (u : Twin) (a : Nat) : rd (say s c) u a = rd s u a := by simp [rd]
@[simp] theorem rf_say (s : State) (c : Nat) (u : Twin) (g : Fld) : rf (say s c) u g = rf s u g := by simp [rf]
@[simp] theorem regsOk_say (c : Nat) : RegsOk (say s c) ↔ RegsOk s := by simp [RegsOk]
theorem regsOk_wr (h : RegsOk s) (a : Nat) (v : W32) : RegsOk (wr s t a v) := RegsOk.wr h a v
theorem regsOk_wf (h : RegsOk s) (f : Fld) (v : Nat) : RegsOk (wf s t f v) := RegsOk.wf h f v
theorem regsOk_ev (h : RegsOk s) (f : Fld) : RegsOk (ev s t f) := RegsOk.wf h f 1
theorem regsOk_evi (h : RegsOk s) (f : Fld) (i : Nat) : RegsOk (evi s t f i) := RegsOk.wr h _ _
theorem regsOk_clri (h : RegsOk s) (f : Fld) (i : Nat) : RegsOk (clri s t f i) := RegsOk.wr h _ _
theorem regsOk_setOvf (h : RegsOk s) (a : Nat) : RegsOk (setOvf s t a) := by
  unfold setOvf; split
  · exact RegsOk.wr h _ _
  · exact h
theorem regsOk_cnt (h : RegsOk s) (a : Nat) : RegsOk (cnt s t a) := by
  unfold cnt cntBy; split
  · exact RegsOk.wr h _ _
  · exact regsOk_setOvf (RegsOk.wr h _ _) _

end Sys2Proof.Machine
end

