-- ==== Sys2Proof/Laws/Keeps.lean ====
section
/-! SUPPORT. What every operation of the model keeps, said once: the queue of commands, a LOCKED lifecycle, the canonical
register maps, the count of free values, which never falls, and every part of the device that the operation does not
work on. The lemmas of the files Keep* carry it through each operation: `Keeps P s0 s` reads "from s0 the device has come
to s, with the parts in P as they were". -/

namespace Sys2Proof.Machine

/-- From `s` the device has come to `s'` with its queue as it was, a LOCKED lifecycle still LOCKED, the register maps
canonical if they were, no free value drawn twice, and the parts in `P` unchanged. -/
structure Keeps (P : Part → Prop) (s s' : State) : Prop where
  pending : s'.pending = s.pending
  life : s.lockedLife = true → s'.lockedLife = true
  free : s.free ≤ s'.free
  regs : RegsOk s → RegsOk s'
  tabs : TabsOk s → TabsOk s'
  same : ∀ p, P p → p.same s s'

/-- The same of a meaning's answer, where it is a next state. -/
def OutKeeps (P : Part → Prop) (s : State) : Out → Prop
  | .next s' => Keeps P s s'
  | _ => True

variable {P : Part → Prop} {s0 s : State}

theorem TwinField.same_refl (f : TwinField) (x : TwinSt) : f.same x x := by cases f <;> rfl

theorem TwinField.same_trans {f : TwinField} {x y z : TwinSt} (h : f.same x y) (h' : f.same y z) : f.same x z := by
  cases f <;> exact Eq.trans h' h

theorem Part.same_refl (p : Part) (s : State) : p.same s s := by
  cases p <;> first | rfl | exact TwinField.same_refl ..

theorem Part.same_trans {p : Part} {x y z : State} (h : p.same x y) (h' : p.same y z) : p.same x z := by
  cases p <;> first | exact Eq.trans h' h | exact TwinField.same_trans h h'

theorem Keeps.refl (P : Part → Prop) (s : State) : Keeps P s s := ⟨rfl, id, Nat.le_refl _, id, id, fun p _ => p.same_refl s⟩

theorem regsOk_iff (s : State) :
    RegsOk s ↔ tabWf resetWord s.a.regs = true ∧ tabWf resetWord s.b.regs = true :=
  ⟨fun h => ⟨h .a, h .b⟩, fun h t => by cases t; exacts [h.1, h.2]⟩

/-- A twin's tables are canonical where each is as another twin's were. -/
theorem TwinTabs.same {x y : TwinSt} (k : TwinTabs y) (h1 : x.rings = y.rings) (h2 : x.uplinks = y.uplinks)
    (h3 : x.upOld = y.upOld) (h4 : x.exps = y.exps) (h5 : x.can = y.can) (h6 : x.neg = y.neg) (h7 : x.xings = y.xings)
    (h8 : x.queues = y.queues) : TwinTabs x :=
  ⟨h1 ▸ k.rings, h2 ▸ k.uplinks, h3 ▸ k.upOld, h4 ▸ k.exps, h5 ▸ k.can, h6 ▸ k.neg, h7 ▸ k.xings, h8 ▸ k.queues⟩

/-- A table of constant default stays canonical under a change of one entry. -/
theorem tabWf_tabMod {α : Type} [DecidableEq α] (d : α) {t : Tab α} (h : tabWf (fun _ => d) t = true) (k : Nat)
    (f : α → α) : tabWf (fun _ => d) (tabMod d t k f) = true := tabWf_tabSet (fun _ => d) h k _

/-- And under a run over a list each of whose steps keeps it. -/
theorem tabWf_foldl {α β : Type} [DecidableEq α] {d : Nat → α} (f : Tab α → β → Tab α) (l : List β)
    (hf : ∀ t, tabWf d t = true → ∀ x, tabWf d (f t x) = true) {t : Tab α} (h : tabWf d t = true) :
    tabWf d (l.foldl f t) = true := by
  induction l generalizing t with
  | nil => exact h
  | cons x l ih => exact ih (hf t h x)

theorem tabsOk_iff (s : State) : TabsOk s ↔ TwinTabs s.a ∧ TwinTabs s.b ∧ tabWf (fun _ => ({} : CellSt)) s.cells = true ∧
    tabWf (fun _ => ({} : CtxSt)) s.host.ctx = true :=
  ⟨fun h => ⟨h.tw .a, h.tw .b, h.cells, h.ctx⟩, fun h => ⟨fun t => by cases t; exacts [h.1, h.2.1], h.2.2.1, h.2.2.2⟩⟩

/-- A record update of what the twins share. -/
theorem Keeps.fields (h : Keeps P s0 s) (ilk : IlkSt) (sluice : SluiceSt) (host : HostSt) (edge : EdgeSt) (net : NetSt)
    (cells : Tab CellSt) (report : Nat) (readOut : List W32) (pfail overTemp : Bool) (h1 : P .ilk → ilk = s.ilk)
    (h2 : P .sluice → sluice = s.sluice) (h3 : P .host → host = s.host) (h4 : P .edge → edge = s.edge)
    (h5 : P .net → net = s.net) (h6 : P .cells → cells = s.cells) (h7 : P .pfail → pfail = s.pfail)
    (h8 : P .overTemp → overTemp = s.overTemp)
    (h9 : TabsOk s → tabWf (fun _ => ({} : CellSt)) cells = true)
    (h10 : TabsOk s → tabWf (fun _ => ({} : CtxSt)) host.ctx = true) :
    Keeps P s0 ⟨s.pending, s.a, s.b, ilk, sluice, host, edge, net, cells, report, readOut, pfail, overTemp,
      s.lockedLife, s.free⟩ :=
  ⟨h.pending, h.life, h.free, fun k => (regsOk_iff _).2 ((regsOk_iff s).1 (h.regs k)),
    fun k => (tabsOk_iff _).2 ⟨(h.tabs k).tw .a, (h.tabs k).tw .b, h9 (h.tabs k), h10 (h.tabs k)⟩, fun p hp =>
    Part.same_trans (h.same p hp) (by
      cases p with
      | ilk => exact h1 hp
      | sluice => exact h2 hp
      | host => exact h3 hp
      | edge => exact h4 hp
      | net => exact h5 hp
      | cells => exact h6 hp
      | pfail => exact h7 hp
      | overTemp => exact h8 hp
      | life => rfl
      | tw t f => cases t <;> exact f.same_refl _)⟩

/-- A twin's state replaced. -/
theorem Keeps.setTw {t : Twin} {x : TwinSt} (h : Keeps P s0 s)
    (hx : tabWf resetWord (s.tw t).regs = true → tabWf resetWord x.regs = true) (ht : TabsOk s → TwinTabs x)
    (hs : ∀ f, P (.tw t f) → f.same (s.tw t) x) : Keeps P s0 (s.setTw t x) :=
  ⟨(setTw_pending ..).trans h.pending, fun k => (setTw_lockedLife ..).trans (h.life k),
    (setTw_free s t x).symm ▸ h.free, fun k => (h.regs k).setTw (hx (h.regs k t)),
    fun k => ⟨fun u => by
        by_cases hu : u = t
        · subst hu; simpa using ht (h.tabs k)
        · rw [setTw_tw_ne s hu x]; exact (h.tabs k).tw u,
      (setTw_cells s t x).symm ▸ (h.tabs k).cells, (setTw_host s t x).symm ▸ (h.tabs k).ctx⟩, fun p hp =>
    Part.same_trans (h.same p hp) (by
      cases p with
      | tw u f =>
        by_cases hu : u = t
        · subst hu; simpa [Part.same] using hs f hp
        · simpa [Part.same, setTw_tw_ne s hu x] using f.same_refl _
      | _ => simp [Part.same])⟩

/-- A twin's state replaced by one with the same registers. -/
theorem Keeps.setTwRegs {t : Twin} {x : TwinSt} (h : Keeps P s0 s) (hx : x.regs = (s.tw t).regs)
    (ht : TabsOk s → TwinTabs x) (hs : ∀ f, P (.tw t f) → f.same (s.tw t) x) : Keeps P s0 (s.setTw t x) :=
  h.setTw (by rw [hx]; exact id) ht hs

theorem Keeps.foldl {β : Type} {f : State → β → State} (hf : ∀ s x, Keeps P s0 s → Keeps P s0 (f s x)) (l : List β)
    (h : Keeps P s0 s) : Keeps P s0 (l.foldl f s) := by
  induction l generalizing s with
  | nil => exact h
  | cons x l ih => exact ih (hf s x h)

theorem Keeps.foldl₁ {β γ : Type} {f : State × γ → β → State × γ}
    (hf : ∀ p x, Keeps P s0 p.1 → Keeps P s0 (f p x).1) (l : List β) (p : State × γ)
    (h : Keeps P s0 p.1) : Keeps P s0 (l.foldl f p).1 := by
  induction l generalizing p with
  | nil => exact h
  | cons x l ih => exact ih _ (hf p x h)

theorem Keeps.foldl₂ {β γ : Type} {f : γ × State → β → γ × State}
    (hf : ∀ p x, Keeps P s0 p.2 → Keeps P s0 (f p x).2) (l : List β) (p : γ × State)
    (h : Keeps P s0 p.2) : Keeps P s0 (l.foldl f p).2 := by
  induction l generalizing p with
  | nil => exact h
  | cons x l ih => exact ih _ (hf p x h)

theorem Keeps.dite {c : Prop} [Decidable c] {a b : State} (ha : Keeps P s0 a) (hb : Keeps P s0 b) :
    Keeps P s0 (if c then a else b) := by split; exacts [ha, hb]

theorem OutKeeps.next (h : Keeps P s0 s) : OutKeeps P s0 (.next s) := h

theorem OutKeeps.dite {c : Prop} [Decidable c] {a b : Out} (ha : OutKeeps P s0 a) (hb : OutKeeps P s0 b) :
    OutKeeps P s0 (if c then a else b) := by split; exacts [ha, hb]

theorem wr_keeps (h : Keeps P s0 s) (t : Twin) (a : Nat) (v : W32) (p_regs : ¬ P (.tw t .regs)) :
    Keeps P s0 (wr s t a v) :=
  h.setTw (fun k => tabWf_tabSet resetWord k a v) (fun k => (k.tw t).same rfl rfl rfl rfl rfl rfl rfl rfl) fun f hf => by
    cases f <;> first | rfl | exact absurd hf p_regs

end Sys2Proof.Machine
end

