-- ==== Sys2Proof/Laws/KeepOps.lean ====
section
/-! SUPPORT. What Laws/Keeps.lean says is kept by the register, power-edge, network, budget and ledger operations. -/

namespace Sys2Proof.Machine

/-! Machine/RegOps.lean. -/

theorem wf_keeps {P : Part → Prop} {s00 : State} {s : State} (hk : Keeps P s00 s) (t : Twin) (f : Fld) (v : Nat)
    (q_regs : ¬ P (.tw t .regs)) :
    Keeps P s00 (wf s t f v) := by
  unfold wf
  repeat' with_reducible first | assumption | apply q_regs | intro _ | apply wr_keeps

theorem ev_keeps {P : Part → Prop} {s00 : State} {s : State} (hk : Keeps P s00 s) (t : Twin) (f : Fld) (q_regs : ¬ P (.tw t .regs))
    :
    Keeps P s00 (ev s t f) := by
  unfold ev
  repeat' with_reducible first | assumption | apply q_regs | intro _ | apply wf_keeps

theorem evi_keeps {P : Part → Prop} {s00 : State} {s : State} (hk : Keeps P s00 s) (t : Twin) (f : Fld) (i : Nat)
    (q_regs : ¬ P (.tw t .regs)) :
    Keeps P s00 (evi s t f i) := by
  unfold evi
  repeat' with_reducible first | assumption | apply q_regs | intro _ | apply wr_keeps

theorem clri_keeps {P : Part → Prop} {s00 : State} {s : State} (hk : Keeps P s00 s) (t : Twin) (f : Fld) (i : Nat)
    (q_regs : ¬ P (.tw t .regs)) :
    Keeps P s00 (clri s t f i) := by
  unfold clri
  repeat' with_reducible first | assumption | apply q_regs | intro _ | apply wr_keeps

theorem setOvf_keeps {P : Part → Prop} {s00 : State} {s : State} (hk : Keeps P s00 s) (t : Twin) (a : Nat) (q_regs : ¬ P (.tw t .regs))
    :
    Keeps P s00 (setOvf s t a) := by
  unfold setOvf
  repeat' with_reducible first | assumption | apply q_regs | intro _ | apply wr_keeps | apply Keeps.dite | split

theorem clearOvf_keeps {P : Part → Prop} {s00 : State} {s : State} (hk : Keeps P s00 s) (t : Twin) (a : Nat)
    (q_regs : ¬ P (.tw t .regs)) :
    Keeps P s00 (clearOvf s t a) := by
  unfold clearOvf
  repeat' with_reducible first | assumption | apply q_regs | intro _ | apply wr_keeps | apply Keeps.dite | split

theorem cntBy_keeps {P : Part → Prop} {s00 : State} {s : State} (hk : Keeps P s00 s) (t : Twin) (a : Nat) (k : Nat)
    (q_regs : ¬ P (.tw t .regs)) :
    Keeps P s00 (cntBy s t a k) := by
  unfold cntBy
  repeat' with_reducible first
    | assumption | apply q_regs | intro _ | apply wr_keeps | apply setOvf_keeps | apply Keeps.dite

theorem cnt_keeps {P : Part → Prop} {s00 : State} {s : State} (hk : Keeps P s00 s) (t : Twin) (a : Nat) (q_regs : ¬ P (.tw t .regs))
    :
    Keeps P s00 (cnt s t a) := by
  unfold cnt
  repeat' with_reducible first | assumption | apply q_regs | intro _ | apply cntBy_keeps

theorem rcClear_keeps {P : Part → Prop} {s00 : State} {s : State} (hk : Keeps P s00 s) (t : Twin) (a : Nat)
    (q_regs : ¬ P (.tw t .regs)) :
    Keeps P s00 (rcClear s t a) := by
  unfold rcClear
  repeat' with_reducible first
    | assumption | apply q_regs | intro _ | apply clearOvf_keeps | apply wr_keeps | apply Keeps.dite
    | apply Keeps.foldl | apply Keeps.foldl₁ | apply Keeps.foldl₂ | split

theorem say_keeps {P : Part → Prop} {s00 : State} {s : State} (hk : Keeps P s00 s) (code : Nat) :
    Keeps P s00 (say s code) := by
  unfold say
  repeat' with_reducible first
    | assumption | intro _ | apply Keeps.dite | split
    | refine Keeps.fields ?_ _ _ _ _ _ _ _ _ _ _ ?_ ?_ ?_ ?_ ?_ ?_ ?_ ?_ (fun k => k.cells) (fun k => k.ctx) | exact rfl

theorem freeTick_keeps {P : Part → Prop} {s00 s : State} (hk : Keeps P s00 s) : Keeps P s00 (freeTick s) :=
  ⟨hk.pending, hk.life, Nat.le_succ_of_le hk.free, hk.regs,
    fun k => (tabsOk_iff _).2 ((tabsOk_iff s).1 (hk.tabs k)), fun p hp => Part.same_trans (hk.same p hp) (by
    cases p with
    | tw t f => cases t <;> exact f.same_refl _
    | _ => rfl)⟩

theorem onBoth_keeps {P : Part → Prop} {s00 s : State} (hk : Keeps P s00 s) (f : State → Twin → State)
    (hf : ∀ s t, Keeps P s00 s → Keeps P s00 (f s t)) : Keeps P s00 (onBoth f s) := hf _ _ (hf _ _ hk)

theorem onTarget_keeps {P : Part → Prop} {s00 s : State} (hk : Keeps P s00 s) (tg : Target) (f : State → Twin → State)
    (hf : ∀ s t, Keeps P s00 s → Keeps P s00 (f s t)) : Keeps P s00 (onTarget tg f s) := by
  cases tg
  · exact hf _ _ hk
  · exact hf _ _ (hf _ _ hk)

theorem modTwn_keeps {P : Part → Prop} {s00 : State} {s : State} (hk : Keeps P s00 s) (t : Twin) (f : TwnSt → TwnSt)
    (q_twn : ¬ P (.tw t .twn)) :
    Keeps P s00 (modTwn s t f) := by
  unfold modTwn
  repeat' first
    | (cases ‹TwinField› <;> first | rfl | exact absurd ‹_› (by solve_by_elim))
    | with_reducible first
      | assumption | apply q_twn | intro _ | apply Keeps.dite | split | refine Keeps.setTwRegs ?_ rfl (fun k => (k.tw _).same rfl rfl rfl rfl rfl rfl rfl rfl) fun f hf => ?_

theorem modFlash_keeps {P : Part → Prop} {s00 : State} {s : State} (hk : Keeps P s00 s) (t : Twin) (f : FlashSt → FlashSt)
    (q_flash : ¬ P (.tw t .flash)) :
    Keeps P s00 (modFlash s t f) := by
  unfold modFlash
  repeat' first
    | (cases ‹TwinField› <;> first | rfl | exact absurd ‹_› (by solve_by_elim))
    | with_reducible first
      | assumption | apply q_flash | intro _ | apply Keeps.dite | split
      | refine Keeps.setTwRegs ?_ rfl (fun k => (k.tw _).same rfl rfl rfl rfl rfl rfl rfl rfl) fun f hf => ?_

theorem modPwr_keeps {P : Part → Prop} {s00 : State} {s : State} (hk : Keeps P s00 s) (t : Twin) (f : PwrSt → PwrSt)
    (q_pwr : ¬ P (.tw t .pwr)) :
    Keeps P s00 (modPwr s t f) := by
  unfold modPwr
  repeat' first
    | (cases ‹TwinField› <;> first | rfl | exact absurd ‹_› (by solve_by_elim))
    | with_reducible first
      | assumption | apply q_pwr | intro _ | apply Keeps.dite | split | refine Keeps.setTwRegs ?_ rfl (fun k => (k.tw _).same rfl rfl rfl rfl rfl rfl rfl rfl) fun f hf => ?_

theorem onComputing_keeps {P : Part → Prop} {s00 s : State} (hk : Keeps P s00 s) (f : State → Twin → State)
    (hf : ∀ s t, Keeps P s00 s → Keeps P s00 (f s t)) : Keeps P s00 (onComputing f s) :=
  onBoth_keeps hk _ fun s t h => Keeps.dite (hf s t h) h

theorem sampleLive_keeps {P : Part → Prop} {s00 : State} {s : State} (hk : Keeps P s00 s) (t : Twin) (a n : Nat) (q_regs : ¬ P (.tw t .regs)) :
    Keeps P s00 (sampleLive s t a n) := by
  unfold sampleLive
  try extract_lets
  repeat' with_reducible first | assumption | apply q_regs | intro _ | apply wf_keeps | apply freeTick_keeps | apply Keeps.dite | split | dsimp only

theorem setXing_keeps {P : Part → Prop} {s00 : State} {s : State} (hk : Keeps P s00 s) (t : Twin) (k : Nat) (x : Xing)
    (q_xings : ¬ P (.tw t .xings)) :
    Keeps P s00 (setXing s t k x) :=
  hk.setTwRegs rfl (fun k => ⟨(k.tw t).rings, (k.tw t).uplinks, (k.tw t).upOld, (k.tw t).exps, (k.tw t).can, (k.tw t).neg, tabWf_tabSet (fun _ => Xing.init) (k.tw t).xings _ x, (k.tw t).queues⟩)
    fun g hg => by cases g <;> first | rfl | exact absurd hg q_xings

theorem xingLost_keeps {P : Part → Prop} {s00 : State} {s : State} (hk : Keeps P s00 s) (t : Twin) (d : Fin 9) (into : Bool) (q_regs : ¬ P (.tw t .regs)) (q_xings : ¬ P (.tw t .xings)) :
    Keeps P s00 (xingLost s t d into) := by
  unfold xingLost
  try extract_lets
  repeat' with_reducible first | assumption | apply q_regs | apply q_xings | intro _ | apply cnt_keeps | apply setXing_keeps | apply Keeps.dite | split | dsimp only

theorem accept_keeps {P : Part → Prop} {s00 : State} {s : State} (hk : Keeps P s00 s) (t : Twin) (d : Fin 9) (into : Bool) (samples : List W32) (q_regs : ¬ P (.tw t .regs)) (q_xings : ¬ P (.tw t .xings)) :
    Keeps P s00 (accept t d into s samples) := by
  unfold accept
  try extract_lets
  repeat' with_reducible first | assumption | apply q_regs | apply q_xings | intro _ | apply setXing_keeps | apply cnt_keeps | apply Keeps.dite | split | dsimp only

theorem deliver_keeps {P : Part → Prop} {s00 : State} {s : State} (hk : Keeps P s00 s) (t : Twin) (d : Fin 9) (q_regs : ¬ P (.tw t .regs)) (q_xings : ¬ P (.tw t .xings)) :
    Keeps P s00 (deliver s t d) := by
  unfold deliver
  try extract_lets
  repeat' with_reducible first | assumption | apply q_regs | apply q_xings | intro _ | apply accept_keeps | apply setXing_keeps | apply Keeps.dite | apply Keeps.foldl | apply Keeps.foldl₁ | apply Keeps.foldl₂ | split | dsimp only

theorem gate_keeps {P : Part → Prop} {s00 : State} {s : State} (hk : Keeps P s00 s) (t : Twin) (d : Fin 9) (q_pwr : ¬ P (.tw t .pwr)) :
    Keeps P s00 (gate s t d) := by
  unfold gate
  try extract_lets
  repeat' with_reducible first | assumption | apply q_pwr | intro _ | apply modPwr_keeps | apply Keeps.dite | split | dsimp only

theorem ungate_keeps {P : Part → Prop} {s00 : State} {s : State} (hk : Keeps P s00 s) (t : Twin) (d : Fin 9) (q_pwr : ¬ P (.tw t .pwr)) (q_regs : ¬ P (.tw t .regs)) (q_xings : ¬ P (.tw t .xings)) :
    Keeps P s00 (ungate s t d) := by
  unfold ungate
  try extract_lets
  repeat' with_reducible first | assumption | apply q_pwr | apply q_regs | apply q_xings | intro _ | apply modPwr_keeps | apply deliver_keeps | apply Keeps.dite | split | dsimp only

theorem crossIn_keeps {P : Part → Prop} {s00 s : State} (hk : Keeps P s00 s) (t : Twin) (d : Fin 9) (f : State → State)
    (hf : ∀ s, Keeps P s00 s → Keeps P s00 (f s)) (q_regs : ¬ P (.tw t .regs)) (q_xings : ¬ P (.tw t .xings)) : Keeps P s00 (crossIn s t d f) := by
  unfold crossIn; split
  · apply xingLost_keeps hk <;> solve_by_elim
  · exact hf _ hk

theorem crossOut_keeps {P : Part → Prop} {s00 s : State} (hk : Keeps P s00 s) (t : Twin) (d : Fin 9) (f : State → State)
    (hf : ∀ s, Keeps P s00 s → Keeps P s00 (f s)) (q_regs : ¬ P (.tw t .regs)) (q_xings : ¬ P (.tw t .xings)) : Keeps P s00 (crossOut s t d f) := by
  unfold crossOut; split
  · apply xingLost_keeps hk <;> solve_by_elim
  · exact hf _ hk

theorem setRate_keeps {P : Part → Prop} {s00 : State} {s : State} (hk : Keeps P s00 s) (t : Twin) (r : W32) (q_ofs : ¬ P (.tw t .ofs))
    (q_regs : ¬ P (.tw t .regs)) :
    Keeps P s00 (setRate s t r) := by
  unfold setRate
  extract_lets
  repeat' first
    | (cases ‹TwinField› <;> first | rfl | exact absurd ‹_› (by solve_by_elim))
    | with_reducible first
      | assumption | apply q_ofs | apply q_regs | intro _ | apply wr_keeps | apply Keeps.dite | split
      | refine Keeps.setTwRegs ?_ rfl (fun k => (k.tw _).same rfl rfl rfl rfl rfl rfl rfl rfl) fun f hf => ?_

/-! Machine/Edge.lean. -/

theorem onLive_keeps {P : Part → Prop} {s00 s : State} (hk : Keeps P s00 s) (f : State → Twin → State)
    (hf : ∀ s t, Keeps P s00 s → Keeps P s00 (f s t)) : Keeps P s00 (onLive f s) :=
  onBoth_keeps hk _ fun s t h => Keeps.dite h (hf s t h)

theorem modEdge_keeps {P : Part → Prop} {s00 : State} {s : State} (hk : Keeps P s00 s) (f : EdgeSt → EdgeSt)
    (p_edge : ¬ P .edge) :
    Keeps P s00 (modEdge s f) := by
  unfold modEdge
  repeat' with_reducible first
    | assumption | apply p_edge | intro _ | apply Keeps.dite | split
    | refine Keeps.fields ?_ _ _ _ _ _ _ _ _ _ _ ?_ ?_ ?_ ?_ ?_ ?_ ?_ ?_ (fun k => k.cells) (fun k => k.ctx) | exact rfl
    | exact absurd ‹_› (by assumption)

theorem modPwm_keeps {P : Part → Prop} {s00 : State} {s : State} (hk : Keeps P s00 s) (p : Nat) (f : PwmX → PwmX)
    (p_edge : ¬ P .edge) :
    Keeps P s00 (modPwm s p f) := by
  unfold modPwm
  repeat' with_reducible first | assumption | apply p_edge | intro _ | apply modEdge_keeps

theorem modGen_keeps {P : Part → Prop} {s00 : State} {s : State} (hk : Keeps P s00 s) (g : Nat) (f : GenX → GenX)
    (p_edge : ¬ P .edge) :
    Keeps P s00 (modGen s g f) := by
  unfold modGen
  repeat' with_reducible first | assumption | apply p_edge | intro _ | apply modEdge_keeps

theorem modOut_keeps {P : Part → Prop} {s00 : State} {s : State} (hk : Keeps P s00 s) (k : Nat) (f : OutPair → OutPair)
    (p_edge : ¬ P .edge) :
    Keeps P s00 (modOut s k f) := by
  unfold modOut
  repeat' with_reducible first | assumption | apply p_edge | intro _ | apply modEdge_keeps

theorem showOut_keeps {P : Part → Prop} {s00 : State} {s : State} (hk : Keeps P s00 s) (k : Nat) (t : Twin)
    (q_regs : ¬ P (.tw t .regs)) :
    Keeps P s00 (showOut k s t) := by
  unfold showOut
  extract_lets
  repeat' with_reducible first
    | assumption | apply q_regs | intro _ | apply evi_keeps | apply clri_keeps | apply wf_keeps | apply Keeps.dite

theorem settleFed_keeps {P : Part → Prop} {s00 : State} {s : State} (hk : Keeps P s00 s) (k : Nat) (fed : Bool × Bool) (p_edge : ¬ P .edge) (q_regs : ∀ u, ¬ P (.tw u .regs)) :
    Keeps P s00 (settleFed s k fed) := by
  unfold settleFed
  try extract_lets
  repeat' with_reducible first | assumption | apply p_edge | apply q_regs | intro _ | apply modOut_keeps | apply onLive_keeps | apply showOut_keeps | apply Keeps.dite | split | dsimp only

theorem settle1_keeps {P : Part → Prop} {s00 : State} {s : State} (hk : Keeps P s00 s) (k : Nat) (p_edge : ¬ P .edge) (q_regs : ∀ u, ¬ P (.tw u .regs)) :
    Keeps P s00 (settle1 s k) := by
  unfold settle1
  try extract_lets
  repeat' with_reducible first | assumption | apply p_edge | apply q_regs | intro _ | apply settleFed_keeps | apply Keeps.dite | split | dsimp only

theorem settlePair_keeps {P : Part → Prop} {s00 : State} {s : State} (hk : Keeps P s00 s) (k : Nat) (p_edge : ¬ P .edge) (q_regs : ∀ u, ¬ P (.tw u .regs)) :
    Keeps P s00 (settlePair s k) := by
  unfold settlePair
  try extract_lets
  repeat' with_reducible first | assumption | apply p_edge | apply q_regs | intro _ | apply settle1_keeps | apply settleFed_keeps | apply Keeps.dite | apply Keeps.foldl | apply Keeps.foldl₁ | apply Keeps.foldl₂ | split | dsimp only

theorem settleAll_keeps {P : Part → Prop} {s00 : State} {s : State} (hk : Keeps P s00 s) (p_edge : ¬ P .edge)
    (q_regs : ∀ u, ¬ P (.tw u .regs)) :
    Keeps P s00 (settleAll s) := by
  unfold settleAll
  repeat' with_reducible first
    | assumption | apply p_edge | apply q_regs | intro _ | apply settle1_keeps | apply Keeps.dite
    | apply Keeps.foldl

theorem waitBut_keeps {P : Part → Prop} {s00 : State} {s : State} (hk : Keeps P s00 s) (spared : Nat → Bool) (p_edge : ¬ P .edge) (q_regs : ∀ u, ¬ P (.tw u .regs)) :
    Keeps P s00 (waitBut spared s) := by
  unfold waitBut
  try extract_lets
  repeat' with_reducible first | assumption | apply p_edge | apply q_regs | intro _ | apply settleAll_keeps | apply modOut_keeps | apply Keeps.dite | apply Keeps.foldl | apply Keeps.foldl₁ | apply Keeps.foldl₂ | split | dsimp only

theorem waitAll_keeps {P : Part → Prop} {s00 : State} {s : State} (hk : Keeps P s00 s) (p_edge : ¬ P .edge) (q_regs : ∀ u, ¬ P (.tw u .regs)) :
    Keeps P s00 (waitAll s) := by
  unfold waitAll
  try extract_lets
  repeat' with_reducible first | assumption | apply p_edge | apply q_regs | intro _ | apply waitBut_keeps | apply Keeps.dite | split | dsimp only

theorem takePins_keeps {P : Part → Prop} {s00 : State} {s : State} (hk : Keeps P s00 s) (p_edge : ¬ P .edge) (q_regs : ∀ u, ¬ P (.tw u .regs)) :
    Keeps P s00 (takePins s) := by
  unfold takePins
  try extract_lets
  repeat' with_reducible first | assumption | apply p_edge | apply q_regs | intro _ | apply waitBut_keeps | apply Keeps.dite | split | dsimp only

theorem bridgeHalt_keeps {P : Part → Prop} {s00 : State} {s : State} (hk : Keeps P s00 s) (p_edge : ¬ P .edge) (q_regs : ∀ u, ¬ P (.tw u .regs)) :
    Keeps P s00 (bridgeHalt s) := by
  unfold bridgeHalt
  try extract_lets
  repeat' with_reducible first | assumption | apply p_edge | apply q_regs | intro _ | apply modEdge_keeps | apply modGen_keeps | apply settle1_keeps | apply Keeps.dite | apply Keeps.foldl | apply Keeps.foldl₁ | apply Keeps.foldl₂ | split | dsimp only

theorem bridgeStop_keeps {P : Part → Prop} {s00 : State} {s : State} (hk : Keeps P s00 s) (p_edge : ¬ P .edge) (q_regs : ∀ u, ¬ P (.tw u .regs)) :
    Keeps P s00 (bridgeStop s) := by
  unfold bridgeStop
  try extract_lets
  repeat' with_reducible first | assumption | apply p_edge | apply q_regs | intro _ | apply bridgeHalt_keeps | apply onLive_keeps | apply wf_keeps | apply Keeps.dite | split | dsimp only

theorem canQuiet_keeps {P : Part → Prop} {s00 : State} {s : State} (hk : Keeps P s00 s) (t : Twin) (q_regs : ¬ P (.tw t .regs))
    :
    Keeps P s00 (canQuiet s t) := by
  unfold canQuiet
  repeat' with_reducible first | assumption | apply q_regs | intro _ | apply wf_keeps

theorem setPins_keeps {P : Part → Prop} {s00 : State} {s : State} (hk : Keeps P s00 s) (p : Option Twin) (p_edge : ¬ P .edge)
    (p_ilk : ¬ P .ilk) (q_regs : ∀ u, ¬ P (.tw u .regs)) :
    Keeps P s00 (setPins s p) := by
  unfold setPins
  extract_lets
  repeat' with_reducible first
    | assumption | apply p_edge | apply p_ilk | apply q_regs | intro _ | apply canQuiet_keeps
    | apply settleAll_keeps | apply Keeps.dite | apply Keeps.foldl | apply Keeps.foldl₁ | apply Keeps.foldl₂ | split
    | refine Keeps.fields ?_ _ _ _ _ _ _ _ _ _ _ ?_ ?_ ?_ ?_ ?_ ?_ ?_ ?_ (fun k => k.cells) (fun k => k.ctx) | exact rfl
    | exact absurd ‹_› (by assumption)

/-! Machine/NetOps.lean. -/

theorem modNet_keeps {P : Part → Prop} {s00 : State} {s : State} (hk : Keeps P s00 s) (f : NetSt → NetSt) (p_net : ¬ P .net)
    :
    Keeps P s00 (modNet s f) := by
  unfold modNet
  repeat' with_reducible first
    | assumption | apply p_net | intro _ | apply Keeps.dite | split
    | refine Keeps.fields ?_ _ _ _ _ _ _ _ _ _ _ ?_ ?_ ?_ ?_ ?_ ?_ ?_ ?_ (fun k => k.cells) (fun k => k.ctx) | exact rfl
    | exact absurd ‹_› (by assumption)

theorem modNetTw_keeps {P : Part → Prop} {s00 : State} {s : State} (hk : Keeps P s00 s) (t : Twin) (f : NetTw → NetTw)
    (q_net : ¬ P (.tw t .net)) :
    Keeps P s00 (modNetTw s t f) := by
  unfold modNetTw
  repeat' first
    | (cases ‹TwinField› <;> first | rfl | exact absurd ‹_› (by solve_by_elim))
    | with_reducible first
      | assumption | apply q_net | intro _ | apply Keeps.dite | split | refine Keeps.setTwRegs ?_ rfl (fun k => (k.tw _).same rfl rfl rfl rfl rfl rfl rfl rfl) fun f hf => ?_

theorem showPort_keeps {P : Part → Prop} {s00 : State} {s : State} (hk : Keeps P s00 s) (p : Nat) (q_regs : ∀ u, ¬ P (.tw u .regs)) :
    Keeps P s00 (showPort s p) := by
  unfold showPort
  try extract_lets
  repeat' with_reducible first | assumption | apply q_regs | intro _ | apply wr_keeps | apply Keeps.dite | apply Keeps.foldl | apply Keeps.foldl₁ | apply Keeps.foldl₂ | split | dsimp only

theorem onPort_keeps {P : Part → Prop} {s00 s : State} (hk : Keeps P s00 s) (p : Nat) (f : State → Twin → State)
    (hf : ∀ s t, Keeps P s00 s → Keeps P s00 (f s t)) (q_regs : ∀ u, ¬ P (.tw u .regs)) : Keeps P s00 (onPort p f s) := by
  unfold onPort
  split
  · exact hk
  · apply showPort_keeps (hf _ _ hk) <;> solve_by_elim

theorem lanIn_keeps {P : Part → Prop} {s00 s : State} (hk : Keeps P s00 s) (lan : Nat) (f : State → State)
    (hf : ∀ s, Keeps P s00 s → Keeps P s00 (f s)) (q_regs : ∀ u, ¬ P (.tw u .regs)) (q_xings : ∀ u, ¬ P (.tw u .xings)) : Keeps P s00 (lanIn s lan f) := by
  unfold lanIn; apply crossIn_keeps hk _ _ f hf <;> solve_by_elim

theorem showServe_keeps {P : Part → Prop} {s00 : State} {s : State} (hk : Keeps P s00 s) (t : Twin) (q_regs : ¬ P (.tw t .regs)) :
    Keeps P s00 (showServe s t) := by
  unfold showServe
  try extract_lets
  repeat' with_reducible first | assumption | apply q_regs | intro _ | apply wf_keeps | apply Keeps.dite | apply Keeps.foldl | apply Keeps.foldl₁ | apply Keeps.foldl₂ | split | dsimp only

theorem netServe_keeps {P : Part → Prop} {s00 : State} {s : State} (hk : Keeps P s00 s) (p_net : ¬ P .net) (q_regs : ∀ u, ¬ P (.tw u .regs))
    :
    Keeps P s00 (netServe s) := by
  unfold netServe
  extract_lets
  repeat' with_reducible first
    | assumption | apply p_net | apply q_regs | intro _ | apply modNet_keeps | apply onLive_keeps
    | apply showServe_keeps

theorem transmit_keeps {P : Part → Prop} {s00 : State} {s : State} (hk : Keeps P s00 s) (f : OutFrame) (p : Nat) (p_net : ¬ P .net) (q_regs : ∀ u, ¬ P (.tw u .regs)) (q_xings : ∀ u, ¬ P (.tw u .xings)) :
    Keeps P s00 (transmit s f p) := by
  unfold transmit
  try extract_lets
  repeat' with_reducible first | assumption | apply p_net | apply q_regs | apply q_xings | intro _ | apply crossOut_keeps | apply modNet_keeps | apply onPort_keeps | apply cnt_keeps | apply Keeps.dite | split | dsimp only

theorem takeSeq_keeps {P : Part → Prop} {s00 : State} {s : State} (hk : Keeps P s00 s) (f : OutFrame) (p_net : ¬ P .net) (q_net : ∀ u, ¬ P (.tw u .net)) :
    Keeps P s00 (takeSeq s f).1 := by
  unfold takeSeq
  try extract_lets
  repeat' with_reducible first | assumption | apply p_net | apply q_net | intro _ | apply onLive_keeps | apply modNetTw_keeps | apply modNet_keeps | apply Keeps.dite | split | dsimp only

theorem sendBoth_keeps {P : Part → Prop} {s00 : State} {s : State} (hk : Keeps P s00 s) (f : OutFrame) (p_net : ¬ P .net) (q_net : ∀ u, ¬ P (.tw u .net)) (q_regs : ∀ u, ¬ P (.tw u .regs)) (q_xings : ∀ u, ¬ P (.tw u .xings)) :
    Keeps P s00 (sendBoth s f) := by
  unfold sendBoth
  try extract_lets
  repeat' with_reducible first | assumption | apply p_net | apply q_net | apply q_regs | apply q_xings | intro _ | apply takeSeq_keeps | apply transmit_keeps | apply Keeps.dite | apply Keeps.foldl | apply Keeps.foldl₁ | apply Keeps.foldl₂ | split | dsimp only

theorem sendFrom_keeps {P : Part → Prop} {s00 : State} {s : State} (hk : Keeps P s00 s) (l : Twin) (f : OutFrame) (p_net : ¬ P .net) (q_net : ∀ u, ¬ P (.tw u .net)) (q_regs : ∀ u, ¬ P (.tw u .regs)) (q_xings : ∀ u, ¬ P (.tw u .xings)) :
    Keeps P s00 (sendFrom s l f) := by
  unfold sendFrom
  try extract_lets
  repeat' with_reducible first | assumption | apply p_net | apply q_net | apply q_regs | apply q_xings | intro _ | apply takeSeq_keeps | apply transmit_keeps | apply modNet_keeps | apply Keeps.dite | apply Keeps.foldl | apply Keeps.foldl₁ | apply Keeps.foldl₂ | split | dsimp only

theorem sendLead_keeps {P : Part → Prop} {s00 : State} {s : State} (hk : Keeps P s00 s) (f : OutFrame) (p_net : ¬ P .net) (q_net : ∀ u, ¬ P (.tw u .net)) (q_regs : ∀ u, ¬ P (.tw u .regs)) (q_xings : ∀ u, ¬ P (.tw u .xings)) :
    Keeps P s00 (sendLead s f) := by
  unfold sendLead
  try extract_lets
  repeat' with_reducible first | assumption | apply p_net | apply q_net | apply q_regs | apply q_xings | intro _ | apply sendFrom_keeps | apply Keeps.dite | split | dsimp only

/-! Machine/Budget.lean. -/

theorem budget_keeps {P : Part → Prop} {s00 : State} {s : State} (hk : Keeps P s00 s) (q_regs : ∀ u, ¬ P (.tw u .regs)) :
    Keeps P s00 (budget s) := by
  unfold budget
  try extract_lets
  repeat' with_reducible first | assumption | apply q_regs | intro _ | apply onLive_keeps | apply wf_keeps | apply ev_keeps | apply Keeps.dite | split | dsimp only

/-! Machine/Ops.lean. -/

theorem twnFlags_keeps {P : Part → Prop} {s00 : State} {s : State} (hk : Keeps P s00 s) (t : Twin) (q_regs : ¬ P (.tw t .regs)) :
    Keeps P s00 (twnFlags s t) := by
  unfold twnFlags
  try extract_lets
  repeat' with_reducible first | assumption | apply q_regs | intro _ | apply wf_keeps | apply Keeps.dite | split | dsimp only

theorem setTwState_keeps {P : Part → Prop} {s00 : State} {s : State} (hk : Keeps P s00 s) (t : Twin) (st : Nat) (p_net : ¬ P .net) (q_regs : ∀ u, ¬ P (.tw u .regs)) :
    Keeps P s00 (setTwState s t st) := by
  unfold setTwState
  try extract_lets
  repeat' with_reducible first | assumption | apply p_net | apply q_regs | intro _ | apply budget_keeps | apply netServe_keeps | apply twnFlags_keeps | apply wf_keeps | apply Keeps.dite | split | dsimp only

theorem setIlkReq_keeps {P : Part → Prop} {s00 : State} {s : State} (hk : Keeps P s00 s) (t : Twin) (v : Bool)
    (p_ilk : ¬ P .ilk) :
    Keeps P s00 (setIlkReq s t v) := by
  unfold setIlkReq
  repeat' with_reducible first
    | assumption | apply p_ilk | intro _ | apply Keeps.dite | split
    | refine Keeps.fields ?_ _ _ _ _ _ _ _ _ _ _ ?_ ?_ ?_ ?_ ?_ ?_ ?_ ?_ (fun k => k.cells) (fun k => k.ctx) | exact rfl
    | exact absurd ‹_› (by assumption)

theorem setIlkLapsed_keeps {P : Part → Prop} {s00 : State} {s : State} (hk : Keeps P s00 s) (t : Twin) (v : Bool)
    (p_ilk : ¬ P .ilk) :
    Keeps P s00 (setIlkLapsed s t v) := by
  unfold setIlkLapsed
  repeat' with_reducible first
    | assumption | apply p_ilk | intro _ | apply Keeps.dite | split
    | refine Keeps.fields ?_ _ _ _ _ _ _ _ _ _ _ ?_ ?_ ?_ ?_ ?_ ?_ ?_ ?_ (fun k => k.cells) (fun k => k.ctx) | exact rfl
    | exact absurd ‹_› (by assumption)

theorem ilkFree_keeps {P : Part → Prop} {s00 : State} {s : State} (hk : Keeps P s00 s) (t : Twin) (p_edge : ¬ P .edge) (p_ilk : ¬ P .ilk) (q_regs : ∀ u, ¬ P (.tw u .regs)) :
    Keeps P s00 (ilkFree s t) := by
  unfold ilkFree
  try extract_lets
  repeat' with_reducible first | assumption | apply p_edge | apply p_ilk | apply q_regs | intro _ | apply setPins_keeps | apply Keeps.dite | split | refine Keeps.fields ?_ _ _ _ _ _ _ _ _ _ _ ?_ ?_ ?_ ?_ ?_ ?_ ?_ ?_ (fun k => k.cells) (fun k => k.ctx) | exact rfl | exact absurd ‹_› (by assumption) | dsimp only

theorem ilkRelease_keeps {P : Part → Prop} {s00 : State} {s : State} (hk : Keeps P s00 s) (t : Twin) (p_edge : ¬ P .edge) (p_ilk : ¬ P .ilk) (q_regs : ∀ u, ¬ P (.tw u .regs)) :
    Keeps P s00 (ilkRelease s t) := by
  unfold ilkRelease
  try extract_lets
  repeat' with_reducible first | assumption | apply p_edge | apply p_ilk | apply q_regs | intro _ | apply wf_keeps | apply ilkFree_keeps | apply Keeps.dite | split | dsimp only

theorem demand_keeps {P : Part → Prop} {s00 : State} {s : State} (hk : Keeps P s00 s) (t : Twin) (k : Nat) (q_regs : ¬ P (.tw t .regs)) (q_twn : ∀ u, ¬ P (.tw u .twn)) :
    Keeps P s00 (demand s t k) := by
  unfold demand
  try extract_lets
  repeat' with_reducible first | assumption | apply q_regs | apply q_twn | intro _ | apply onBoth_keeps | apply modTwn_keeps | apply ev_keeps | apply evi_keeps | apply Keeps.dite | split | dsimp only

theorem safeStop_keeps {P : Part → Prop} {s00 : State} {s : State} (hk : Keeps P s00 s) (t : Twin) (q_regs : ¬ P (.tw t .regs)) (q_twn : ∀ u, ¬ P (.tw u .twn)) :
    Keeps P s00 (safeStop s t) := by
  unfold safeStop
  try extract_lets
  repeat' with_reducible first | assumption | apply q_regs | apply q_twn | intro _ | apply demand_keeps | apply Keeps.dite | split | dsimp only

theorem showLedger_keeps {P : Part → Prop} {s00 : State} {s : State} (hk : Keeps P s00 s) (t : Twin) (q_regs : ¬ P (.tw t .regs)) :
    Keeps P s00 (showLedger s t) := by
  unfold showLedger
  try extract_lets
  repeat' with_reducible first | assumption | apply q_regs | intro _ | apply act_keeps | apply wr_keeps | apply wf_keeps | apply Keeps.dite | apply Keeps.foldl | apply Keeps.foldl₁ | apply Keeps.foldl₂ | split | dsimp only

theorem grantHead_keeps {P : Part → Prop} {s00 : State} {s : State} (hk : Keeps P s00 s) (t : Twin) (q_regs : ∀ u, ¬ P (.tw u .regs))
    (p_sluice : ¬ P .sluice) :
    Keeps P s00 (grantHead s t) := by
  unfold grantHead
  repeat' with_reducible first
    | assumption | apply q_regs | apply p_sluice | intro _ | apply onBoth_keeps | apply showLedger_keeps
    | apply ev_keeps | apply Keeps.dite | split | refine Keeps.fields ?_ _ _ _ _ _ _ _ _ _ _ ?_ ?_ ?_ ?_ ?_ ?_ ?_ ?_ (fun k => k.cells) (fun k => k.ctx)
    | exact rfl | exact absurd ‹_› (by assumption)

theorem leaveAsk_keeps {P : Part → Prop} {s00 : State} {s : State} (hk : Keeps P s00 s) (op : Nat) (t : Twin) (host : Bool) (arg : Nat) (q_regs : ∀ u, ¬ P (.tw u .regs)) (p_sluice : ¬ P .sluice) :
    Keeps P s00 (leaveAsk s op t host arg) := by
  unfold leaveAsk
  try extract_lets
  repeat' with_reducible first | assumption | apply q_regs | apply p_sluice | intro _ | apply say_keeps | apply onBoth_keeps | apply wr_keeps | apply showLedger_keeps | apply grantHead_keeps | apply Keeps.dite | split | refine Keeps.fields ?_ _ _ _ _ _ _ _ _ _ _ ?_ ?_ ?_ ?_ ?_ ?_ ?_ ?_ (fun k => k.cells) (fun k => k.ctx) | exact rfl | exact absurd ‹_› (by assumption) | dsimp only

theorem leaveEnd_keeps {P : Part → Prop} {s00 : State} {s : State} (hk : Keeps P s00 s) (op : Nat) (t : Twin)
    (q_regs : ∀ u, ¬ P (.tw u .regs)) (p_sluice : ¬ P .sluice) :
    Keeps P s00 (leaveEnd s op t) := by
  unfold leaveEnd
  extract_lets
  repeat' with_reducible first
    | assumption | apply q_regs | apply p_sluice | intro _ | apply onBoth_keeps | apply showLedger_keeps
    | apply Keeps.dite | split | refine Keeps.fields ?_ _ _ _ _ _ _ _ _ _ _ ?_ ?_ ?_ ?_ ?_ ?_ ?_ ?_ (fun k => k.cells) (fun k => k.ctx) | exact rfl
    | exact absurd ‹_› (by assumption)

theorem leaveEndFor_keeps {P : Part → Prop} {s00 : State} {s : State} (hk : Keeps P s00 s) (op : Nat) (t : Twin) (arg : Nat) (q_regs : ∀ u, ¬ P (.tw u .regs)) (p_sluice : ¬ P .sluice) :
    Keeps P s00 (leaveEndFor s op t arg) := by
  unfold leaveEndFor
  try extract_lets
  repeat' with_reducible first | assumption | apply q_regs | apply p_sluice | intro _ | apply onBoth_keeps | apply showLedger_keeps | apply Keeps.dite | split | refine Keeps.fields ?_ _ _ _ _ _ _ _ _ _ _ ?_ ?_ ?_ ?_ ?_ ?_ ?_ ?_ (fun k => k.cells) (fun k => k.ctx) | exact rfl | exact absurd ‹_› (by assumption) | dsimp only

theorem tick_keeps {P : Part → Prop} {s00 : State} {s : State} (hk : Keeps P s00 s) (t : Twin) (q_tb : ¬ P (.tw t .tb))
    :
    Keeps P s00 (tick s t) := by
  unfold tick
  repeat' first
    | (cases ‹TwinField› <;> first | rfl | exact absurd ‹_› (by solve_by_elim))
    | with_reducible first
      | assumption | apply q_tb | intro _ | apply Keeps.dite | split | refine Keeps.setTwRegs ?_ rfl (fun k => (k.tw _).same rfl rfl rfl rfl rfl rfl rfl rfl) fun f hf => ?_

theorem idleTick_keeps {P : Part → Prop} {s00 : State} {s : State} (hk : Keeps P s00 s) (q_tb : ∀ u, ¬ P (.tw u .tb))
    :
    Keeps P s00 (idleTick s) := by
  unfold idleTick
  repeat' with_reducible first | assumption | apply q_tb | intro _ | apply onBoth_keeps | apply tick_keeps

theorem afterReset_keeps {P : Part → Prop} {s00 : State} {s : State} (hk : Keeps P s00 s) (t : Twin) (cause : Nat) (p_edge : ¬ P .edge) (p_ilk : ¬ P .ilk) (p_net : ¬ P .net) (q_regs : ∀ u, ¬ P (.tw u .regs)) (p_sluice : ¬ P .sluice) :
    Keeps P s00 (afterReset s t cause) := by
  unfold afterReset
  try extract_lets
  repeat' with_reducible first | assumption | apply p_edge | apply p_ilk | apply p_net | apply q_regs | apply p_sluice | intro _ | apply setIlkLapsed_keeps | apply setIlkReq_keeps | apply ilkRelease_keeps | apply cnt_keeps | apply wf_keeps | apply budget_keeps | apply netServe_keeps | apply onBoth_keeps | apply showLedger_keeps | apply Keeps.dite | split | refine Keeps.fields ?_ _ _ _ _ _ _ _ _ _ _ ?_ ?_ ?_ ?_ ?_ ?_ ?_ ?_ (fun k => k.cells) (fun k => k.ctx) | exact rfl | exact absurd ‹_› (by assumption) | dsimp only

theorem resetTwin_keeps {P : Part → Prop} {s00 : State} {s : State} (hk : Keeps P s00 s) (t : Twin) (cause : Nat) (q_adc : ¬ P (.tw t .adc)) (q_arr : ¬ P (.tw t .arr)) (q_can : ¬ P (.tw t .can)) (q_drv : ¬ P (.tw t .drv)) (p_edge : ¬ P .edge) (q_exps : ¬ P (.tw t .exps)) (q_flash : ¬ P (.tw t .flash)) (p_ilk : ¬ P .ilk) (q_law : ¬ P (.tw t .law)) (q_neg : ¬ P (.tw t .neg)) (p_net : ¬ P .net) (q_net : ¬ P (.tw t .net)) (q_ofs : ¬ P (.tw t .ofs)) (q_pwr : ¬ P (.tw t .pwr)) (q_queues : ¬ P (.tw t .queues)) (q_regs : ∀ u, ¬ P (.tw u .regs)) (q_rings : ¬ P (.tw t .rings)) (q_saf : ¬ P (.tw t .saf)) (p_sluice : ¬ P .sluice) (q_tb : ¬ P (.tw t .tb)) (q_tm : ¬ P (.tw t .tm)) (q_twn : ¬ P (.tw t .twn)) (q_upOld : ¬ P (.tw t .upOld)) (q_uplinks : ¬ P (.tw t .uplinks)) (q_xings : ¬ P (.tw t .xings)) :
    Keeps P s00 (resetTwin s t cause) := by
  have h1 : Keeps P s00 (ilkRelease s t) := by apply ilkRelease_keeps hk <;> solve_by_elim
  unfold resetTwin
  apply afterReset_keeps
  · apply wf_keeps
    · refine h1.setTw (fun k => tabWf_filter resetWord k _) (fun _ => ⟨rfl, rfl, rfl, rfl, rfl, rfl, rfl, rfl⟩) fun f hf => ?_
      cases f <;> exact absurd hf (by solve_by_elim)
    · exact q_regs t
  all_goals solve_by_elim

theorem dropTrial_keeps {P : Part → Prop} {s00 : State} {s : State} (hk : Keeps P s00 s) (t : Twin) (q_flash : ¬ P (.tw t .flash))
    (q_regs : ¬ P (.tw t .regs)) :
    Keeps P s00 (dropTrial s t) := by
  unfold dropTrial
  repeat' with_reducible first
    | assumption | apply q_flash | apply q_regs | intro _ | apply modFlash_keeps | apply wf_keeps

theorem updateReset_keeps {P : Part → Prop} {s00 : State} {s : State} (hk : Keeps P s00 s) (t : Twin) (q_adc : ¬ P (.tw t .adc))
    (q_arr : ¬ P (.tw t .arr)) (q_can : ¬ P (.tw t .can)) (q_drv : ¬ P (.tw t .drv)) (p_edge : ¬ P .edge) (q_exps : ¬ P (.tw t .exps))
    (q_flash : ¬ P (.tw t .flash)) (p_ilk : ¬ P .ilk) (q_law : ¬ P (.tw t .law)) (q_neg : ¬ P (.tw t .neg)) (p_net : ¬ P .net)
    (q_net : ¬ P (.tw t .net)) (q_ofs : ¬ P (.tw t .ofs)) (q_pwr : ¬ P (.tw t .pwr)) (q_queues : ¬ P (.tw t .queues))
    (q_regs : ∀ u, ¬ P (.tw u .regs)) (q_rings : ¬ P (.tw t .rings)) (q_saf : ¬ P (.tw t .saf)) (p_sluice : ¬ P .sluice)
    (q_tb : ¬ P (.tw t .tb)) (q_tm : ¬ P (.tw t .tm)) (q_twn : ¬ P (.tw t .twn)) (q_upOld : ¬ P (.tw t .upOld))
    (q_uplinks : ¬ P (.tw t .uplinks)) (q_xings : ¬ P (.tw t .xings)) :
    Keeps P s00 (updateReset s t) := by
  unfold updateReset
  repeat' first
    | (cases ‹TwinField› <;> first | rfl | exact absurd ‹_› (by solve_by_elim))
    | with_reducible first
      | assumption | apply q_adc | apply q_arr | apply q_can | apply q_drv | apply p_edge | apply q_exps
      | apply q_flash | apply p_ilk | apply q_law | apply q_neg | apply p_net | apply q_net | apply q_ofs
      | apply q_pwr | apply q_queues | apply q_regs | apply q_rings | apply q_saf | apply p_sluice | apply q_tb
      | apply q_tm | apply q_twn | apply q_upOld | apply q_uplinks | apply q_xings | intro _ | apply resetTwin_keeps
      | apply modFlash_keeps

theorem enterJoining_keeps {P : Part → Prop} {s00 : State} {s : State} (hk : Keeps P s00 s) (t : Twin) (p_ilk : ¬ P .ilk) (p_net : ¬ P .net) (q_ofs : ¬ P (.tw t .ofs)) (q_regs : ∀ u, ¬ P (.tw u .regs)) :
    Keeps P s00 (enterJoining s t) := by
  unfold enterJoining
  try extract_lets
  repeat' first
    | (cases ‹TwinField› <;> first | rfl | exact absurd ‹_› (by solve_by_elim))
    | with_reducible first | assumption | apply p_ilk | apply p_net | apply q_ofs | apply q_regs | intro _ | apply wr_keeps | apply setTwState_keeps | apply setIlkReq_keeps | apply Keeps.dite | split | refine Keeps.setTwRegs ?_ rfl (fun k => (k.tw _).same rfl rfl rfl rfl rfl rfl rfl rfl) fun f hf => ?_ | dsimp only

theorem withdrawNow_keeps {P : Part → Prop} {s00 : State} {s : State} (hk : Keeps P s00 s) (t : Twin) (cause : Nat) (p_edge : ¬ P .edge) (q_flash : ¬ P (.tw t .flash)) (p_ilk : ¬ P .ilk) (p_net : ¬ P .net) (q_regs : ∀ u, ¬ P (.tw u .regs)) (q_twn : ¬ P (.tw t .twn)) :
    Keeps P s00 (withdrawNow s t cause) := by
  unfold withdrawNow
  try extract_lets
  repeat' first
    | (cases ‹TwinField› <;> first | rfl | exact absurd ‹_› (by solve_by_elim))
    | with_reducible first | assumption | apply p_edge | apply q_flash | apply p_ilk | apply p_net | apply q_regs | apply q_twn | intro _ | apply ilkRelease_keeps | apply setIlkReq_keeps | apply setIlkLapsed_keeps | apply wf_keeps | apply modTwn_keeps | apply dropTrial_keeps | apply setTwState_keeps | apply Keeps.dite | split | refine Keeps.setTwRegs ?_ rfl (fun k => (k.tw _).same rfl rfl rfl rfl rfl rfl rfl rfl) fun f hf => ?_ | dsimp only

theorem leaveLead_keeps {P : Part → Prop} {s00 : State} {s : State} (hk : Keeps P s00 s) (t : Twin) (cause : Nat) (p_edge : ¬ P .edge) (q_flash : ¬ P (.tw t .flash)) (p_ilk : ¬ P .ilk) (p_net : ¬ P .net) (q_regs : ∀ u, ¬ P (.tw u .regs)) (q_twn : ∀ u, ¬ P (.tw u .twn)) :
    Keeps P s00 (leaveLead s t cause) := by
  unfold leaveLead
  try extract_lets
  repeat' with_reducible first | assumption | apply p_edge | apply q_flash | apply p_ilk | apply p_net | apply q_regs | apply q_twn | intro _ | apply modTwn_keeps | apply withdrawNow_keeps | apply safeStop_keeps | apply Keeps.dite | split | dsimp only

theorem withdraw_keeps {P : Part → Prop} {s00 : State} {s : State} (hk : Keeps P s00 s) (t : Twin) (cause : Nat) (p_edge : ¬ P .edge) (q_flash : ¬ P (.tw t .flash)) (p_ilk : ¬ P .ilk) (p_net : ¬ P .net) (q_regs : ∀ u, ¬ P (.tw u .regs)) (q_twn : ∀ u, ¬ P (.tw u .twn)) :
    Keeps P s00 (withdraw s t cause) := by
  unfold withdraw
  try extract_lets
  repeat' with_reducible first | assumption | apply p_edge | apply q_flash | apply p_ilk | apply p_net | apply q_regs | apply q_twn | intro _ | apply withdrawNow_keeps | apply safeStop_keeps | apply leaveLead_keeps | apply wf_keeps | apply Keeps.dite | split | dsimp only

theorem showRate_keeps {P : Part → Prop} {s00 : State} {s : State} (hk : Keeps P s00 s) (t : Twin) (q_regs : ¬ P (.tw t .regs))
    :
    Keeps P s00 (showRate s t) := by
  unfold showRate
  repeat' with_reducible first | assumption | apply q_regs | intro _ | apply wr_keeps

end Sys2Proof.Machine
end

