-- ==== Sys2Proof/Laws/KeepUnits.lean ====
section
/-! SUPPORT. What Laws/Keeps.lean says is kept by the operations of PWM, CAN, the array, the stream queues and the converters. -/

namespace Sys2Proof.Machine

/-! Machine/Pwm.lean. -/

theorem agreedOnly_keeps {P : Part → Prop} {s00 s : State} (hk : Keeps P s00 s) (tg : Target) (f : State → State)
    (hf : ∀ s, Keeps P s00 s → Keeps P s00 (f s)) : Keeps P s00 (agreedOnly tg s f) := by
  cases tg
  · exact say_keeps hk _
  · exact hf _ (say_keeps hk _)

theorem showPending_keeps {P : Part → Prop} {s00 : State} {s : State} (hk : Keeps P s00 s) (p : Nat) (q_regs : ∀ u, ¬ P (.tw u .regs))
    :
    Keeps P s00 (showPending s p) := by
  unfold showPending
  repeat' with_reducible first | assumption | apply q_regs | intro _ | apply onLive_keeps | apply wf_keeps

theorem commitSet_keeps {P : Part → Prop} {s00 : State} {s : State} (hk : Keeps P s00 s) (p : Nat) (q : PwmSet)
    (q_regs : ∀ u, ¬ P (.tw u .regs)) :
    Keeps P s00 (commitSet s p q) := by
  unfold commitSet
  repeat' with_reducible first
    | assumption | apply q_regs | intro _ | apply onLive_keeps | apply evi_keeps | apply Keeps.dite

theorem developSet_keeps {P : Part → Prop} {s00 : State} {s : State} (hk : Keeps P s00 s) (p : Nat) (q : PwmSet) (seq : Nat) (late : Bool) (p_edge : ¬ P .edge) (q_regs : ∀ u, ¬ P (.tw u .regs)) :
    Keeps P s00 (developSet s p q seq late) := by
  unfold developSet
  try extract_lets
  repeat' with_reducible first | assumption | apply p_edge | apply q_regs | intro _ | apply onLive_keeps | apply wr_keeps | apply wf_keeps | apply showRate_keeps | apply evi_keeps | apply cnt_keeps | apply modPwm_keeps | apply Keeps.dite | split | dsimp only

theorem layPeriod_keeps {P : Part → Prop} {s00 : State} {s : State} (hk : Keeps P s00 s) (p : Nat) (delta t : Int) (now : Bool) (p_edge : ¬ P .edge) :
    Keeps P s00 (layPeriod s p delta t now) := by
  unfold layPeriod
  try extract_lets
  repeat' with_reducible first | assumption | apply p_edge | intro _ | apply modPwm_keeps | apply Keeps.dite | split | dsimp only

theorem layHalf_keeps {P : Part → Prop} {s00 : State} {s : State} (hk : Keeps P s00 s) (p : Nat) (delta : Int) (p_edge : ¬ P .edge) :
    Keeps P s00 (layHalf s p delta) := by
  unfold layHalf
  try extract_lets
  repeat' with_reducible first | assumption | apply p_edge | intro _ | apply modPwm_keeps | apply Keeps.dite | split | dsimp only

theorem signalTo_keeps {P : Part → Prop} {s00 : State} {s : State} (hk : Keeps P s00 s) (p : Nat) (own v : Bool)
    (t : Int) (p_edge : ¬ P .edge) :
    Keeps P s00 (signalTo s p own v t) := by
  unfold signalTo
  extract_lets
  repeat' with_reducible first | assumption | apply p_edge | intro _ | apply modPwm_keeps | apply Keeps.dite

theorem levelsAt_keeps {P : Part → Prop} {s00 : State} {s : State} (hk : Keeps P s00 s) (p : Nat) (t : Int)
    (p_edge : ¬ P .edge) (q_regs : ∀ u, ¬ P (.tw u .regs)) :
    Keeps P s00 (levelsAt s p t) := by
  unfold levelsAt
  extract_lets
  repeat' with_reducible first
    | assumption | apply p_edge | apply q_regs | intro _ | apply signalTo_keeps | apply settlePair_keeps

theorem pwmStart_keeps {P : Part → Prop} {s00 : State} {s : State} (hk : Keeps P s00 s) (p : Nat) (p_edge : ¬ P .edge) (q_regs : ∀ u, ¬ P (.tw u .regs)) :
    Keeps P s00 (pwmStart s p) := by
  unfold pwmStart
  try extract_lets
  repeat' with_reducible first | assumption | apply p_edge | apply q_regs | intro _ | apply say_keeps | apply onLive_keeps | apply wf_keeps | apply modPwm_keeps | apply settlePair_keeps | apply Keeps.dite | split | dsimp only

theorem execPwmStart_keeps {P : Part → Prop} {s00 : State} {s : State} (hk : Keeps P s00 s) (tg : Target) (p : Fin 8)
    (p_edge : ¬ P .edge) (q_regs : ∀ u, ¬ P (.tw u .regs)) :
    OutKeeps P s00 (execPwmStart tg p s) := by
  unfold execPwmStart
  repeat' with_reducible first
    | assumption | apply p_edge | apply q_regs | intro _ | apply OutKeeps.next | apply OutKeeps.dite
    | apply agreedOnly_keeps | apply pwmStart_keeps

theorem pwmStop_keeps {P : Part → Prop} {s00 : State} {s : State} (hk : Keeps P s00 s) (p : Nat) (p_edge : ¬ P .edge) (q_regs : ∀ u, ¬ P (.tw u .regs)) :
    Keeps P s00 (pwmStop s p) := by
  unfold pwmStop
  try extract_lets
  repeat' with_reducible first | assumption | apply p_edge | apply q_regs | intro _ | apply onLive_keeps | apply wf_keeps | apply settlePair_keeps | apply modOut_keeps | apply modPwm_keeps | apply Keeps.dite | split | dsimp only

theorem execPwmStop_keeps {P : Part → Prop} {s00 : State} {s : State} (hk : Keeps P s00 s) (tg : Target) (p : Fin 8)
    (p_edge : ¬ P .edge) (q_regs : ∀ u, ¬ P (.tw u .regs)) :
    OutKeeps P s00 (execPwmStop tg p s) := by
  unfold execPwmStop
  repeat' with_reducible first
    | assumption | apply p_edge | apply q_regs | intro _ | apply OutKeeps.next | apply OutKeeps.dite
    | apply agreedOnly_keeps | apply pwmStop_keeps

theorem countReplaced_keeps {P : Part → Prop} {s00 : State} {s : State} (hk : Keeps P s00 s) (p : Nat) (q_regs : ∀ u, ¬ P (.tw u .regs)) :
    Keeps P s00 (countReplaced s p) := by
  unfold countReplaced
  try extract_lets
  repeat' with_reducible first | assumption | apply q_regs | intro _ | apply onLive_keeps | apply evi_keeps | apply cnt_keeps | apply Keeps.dite | split | dsimp only

theorem pendSet_keeps {P : Part → Prop} {s00 : State} {s : State} (hk : Keeps P s00 s) (p : Nat) (q : PwmSet) (now : Bool) (p_edge : ¬ P .edge) (q_regs : ∀ u, ¬ P (.tw u .regs)) :
    Keeps P s00 (pendSet s p q now) := by
  unfold pendSet
  try extract_lets
  repeat' with_reducible first | assumption | apply p_edge | apply q_regs | intro _ | apply showPending_keeps | apply modPwm_keeps | apply countReplaced_keeps | apply Keeps.dite | split | dsimp only

theorem armSet_keeps {P : Part → Prop} {s00 : State} {s : State} (hk : Keeps P s00 s) (p : Nat) (q : PwmSet) (now : Bool) (p_edge : ¬ P .edge) (q_regs : ∀ u, ¬ P (.tw u .regs)) :
    Keeps P s00 (armSet s p q now) := by
  unfold armSet
  try extract_lets
  repeat' with_reducible first | assumption | apply p_edge | apply q_regs | intro _ | apply pendSet_keeps | apply modPwm_keeps | apply countReplaced_keeps | apply developSet_keeps | apply commitSet_keeps | apply showPending_keeps | apply Keeps.dite | split | dsimp only

theorem pwmArm_keeps {P : Part → Prop} {s00 : State} {s : State} (hk : Keeps P s00 s) (p : Nat) (p_edge : ¬ P .edge)
    (q_regs : ∀ u, ¬ P (.tw u .regs)) :
    Keeps P s00 (pwmArm s p) := by
  unfold pwmArm
  repeat' with_reducible first | assumption | apply p_edge | apply q_regs | intro _ | apply armSet_keeps

theorem execPwmArm_keeps {P : Part → Prop} {s00 : State} {s : State} (hk : Keeps P s00 s) (tg : Target) (p : Fin 8)
    (p_edge : ¬ P .edge) (q_regs : ∀ u, ¬ P (.tw u .regs)) :
    OutKeeps P s00 (execPwmArm tg p s) := by
  unfold execPwmArm
  repeat' with_reducible first
    | assumption | apply p_edge | apply q_regs | intro _ | apply OutKeeps.next | apply OutKeeps.dite
    | apply agreedOnly_keeps | apply pwmArm_keeps

theorem execReloadCutoff_keeps {P : Part → Prop} {s00 : State} {s : State} (hk : Keeps P s00 s) (p : Fin 8)
    (p_edge : ¬ P .edge) (q_regs : ∀ u, ¬ P (.tw u .regs)) :
    OutKeeps P s00 (execReloadCutoff p s) := by
  unfold execReloadCutoff
  extract_lets
  repeat' with_reducible first
    | assumption | apply p_edge | apply q_regs | intro _ | apply OutKeeps.next | apply OutKeeps.dite
    | apply commitSet_keeps | apply modPwm_keeps | apply Keeps.dite | split

theorem countReload_keeps {P : Part → Prop} {s00 : State} {s : State} (hk : Keeps P s00 s) (p : Nat) (q_regs : ∀ u, ¬ P (.tw u .regs))
    :
    Keeps P s00 (countReload s p) := by
  unfold countReload
  repeat' with_reducible first | assumption | apply q_regs | intro _ | apply onLive_keeps | apply wf_keeps

theorem reloadEvent_keeps {P : Part → Prop} {s00 : State} {s : State} (hk : Keeps P s00 s) (p : Nat) (centre : Bool)
    (p_edge : ¬ P .edge) (q_regs : ∀ u, ¬ P (.tw u .regs)) :
    Keeps P s00 (reloadEvent s p centre) := by
  unfold reloadEvent
  extract_lets
  repeat' with_reducible first
    | assumption | apply p_edge | apply q_regs | intro _ | apply modPwm_keeps | apply countReload_keeps
    | apply developSet_keeps | apply showPending_keeps | apply levelsAt_keeps | apply layHalf_keeps
    | apply Keeps.dite | split

theorem reloadNow_keeps {P : Part → Prop} {s00 : State} {s : State} (hk : Keeps P s00 s) (p : Nat) (p_edge : ¬ P .edge) (q_regs : ∀ u, ¬ P (.tw u .regs)) :
    Keeps P s00 (reloadNow s p) := by
  unfold reloadNow
  try extract_lets
  repeat' with_reducible first | assumption | apply p_edge | apply q_regs | intro _ | apply countReload_keeps | apply commitSet_keeps | apply developSet_keeps | apply showPending_keeps | apply modPwm_keeps | apply levelsAt_keeps | apply layPeriod_keeps | apply Keeps.dite | split | dsimp only

theorem execReload_keeps {P : Part → Prop} {s00 : State} {s : State} (hk : Keeps P s00 s) (p : Fin 8) (kind : Fin 3)
    (p_edge : ¬ P .edge) (q_regs : ∀ u, ¬ P (.tw u .regs)) :
    OutKeeps P s00 (execReload p kind s) := by
  unfold execReload
  repeat' with_reducible first
    | assumption | apply p_edge | apply q_regs | intro _ | apply OutKeeps.next | apply OutKeeps.dite
    | apply reloadNow_keeps | apply reloadEvent_keeps | apply Keeps.dite

theorem leaveHold_keeps {P : Part → Prop} {s00 : State} {s : State} (hk : Keeps P s00 s) (k : Nat) (p_edge : ¬ P .edge)
    :
    Keeps P s00 (leaveHold s k) := by
  unfold leaveHold
  repeat' with_reducible first | assumption | apply p_edge | intro _ | apply modOut_keeps

theorem execPeriodBoundary_keeps {P : Part → Prop} {s00 : State} {s : State} (hk : Keeps P s00 s) (p : Fin 8) (p_edge : ¬ P .edge) (q_regs : ∀ u, ¬ P (.tw u .regs)) :
    OutKeeps P s00 (execPeriodBoundary p s) := by
  unfold execPeriodBoundary
  try extract_lets
  repeat' with_reducible first | assumption | apply p_edge | apply q_regs | intro _ | apply OutKeeps.next | apply OutKeeps.dite | apply modPwm_keeps | apply leaveHold_keeps | apply layPeriod_keeps | apply levelsAt_keeps | apply Keeps.dite | apply Keeps.foldl | apply Keeps.foldl₁ | apply Keeps.foldl₂ | split | dsimp only

theorem execCompareEvent_keeps {P : Part → Prop} {s00 : State} {s : State} (hk : Keeps P s00 s) (p : Fin 8) (i : Fin 4) (p_edge : ¬ P .edge) :
    OutKeeps P s00 (execCompareEvent p i s) := by
  unfold execCompareEvent
  try extract_lets
  repeat' with_reducible first | assumption | apply p_edge | intro _ | apply OutKeeps.next | apply OutKeeps.dite | apply modPwm_keeps | apply Keeps.dite | split | dsimp only

theorem execPwmEdge_keeps {P : Part → Prop} {s00 : State} {s : State} (hk : Keeps P s00 s) (gd : Bool) (p : Fin 8)
    (outB rise : Bool) (p_edge : ¬ P .edge) (q_regs : ∀ u, ¬ P (.tw u .regs)) :
    OutKeeps P s00 (execPwmEdge gd p outB rise s) := by
  unfold execPwmEdge
  extract_lets
  repeat' with_reducible first
    | assumption | apply p_edge | apply q_regs | intro _ | apply OutKeeps.next | apply OutKeeps.dite
    | apply settlePair_keeps | apply modGen_keeps | apply signalTo_keeps | apply Keeps.dite

theorem endTied_keeps {P : Part → Prop} {s00 : State} {s : State} (hk : Keeps P s00 s) (p : Nat) (outB : Bool) (p_edge : ¬ P .edge) :
    Keeps P s00 (endTied s p outB) := by
  unfold endTied
  try extract_lets
  repeat' with_reducible first | assumption | apply p_edge | intro _ | apply modOut_keeps | apply Keeps.dite | apply Keeps.foldl | apply Keeps.foldl₁ | apply Keeps.foldl₂ | split | dsimp only

theorem execDeadTimeEnd_keeps {P : Part → Prop} {s00 : State} {s : State} (hk : Keeps P s00 s) (k : Fin 16) (outB : Bool) (p_edge : ¬ P .edge) (q_regs : ∀ u, ¬ P (.tw u .regs)) :
    OutKeeps P s00 (execDeadTimeEnd k outB s) := by
  unfold execDeadTimeEnd
  try extract_lets
  repeat' with_reducible first | assumption | apply p_edge | apply q_regs | intro _ | apply OutKeeps.next | apply OutKeeps.dite | apply endTied_keeps | apply settlePair_keeps | apply modOut_keeps | apply Keeps.dite | split | dsimp only

theorem pwmForce_keeps {P : Part → Prop} {s00 : State} {s : State} (hk : Keeps P s00 s) (p fa fb : Nat) (atB : Bool) (p_edge : ¬ P .edge) (q_regs : ∀ u, ¬ P (.tw u .regs)) :
    Keeps P s00 (pwmForce s p fa fb atB) := by
  unfold pwmForce
  try extract_lets
  repeat' with_reducible first | assumption | apply p_edge | apply q_regs | intro _ | apply say_keeps | apply onLive_keeps | apply wf_keeps | apply settlePair_keeps | apply modPwm_keeps | apply Keeps.dite | split | dsimp only

theorem execPwmForce_keeps {P : Part → Prop} {s00 : State} {s : State} (hk : Keeps P s00 s) (tg : Target) (p : Fin 8)
    (fa fb : Fin 4) (atB : Bool) (p_edge : ¬ P .edge) (q_regs : ∀ u, ¬ P (.tw u .regs)) :
    OutKeeps P s00 (execPwmForce tg p fa fb atB s) := by
  unfold execPwmForce
  repeat' with_reducible first
    | assumption | apply p_edge | apply q_regs | intro _ | apply OutKeeps.next | apply OutKeeps.dite
    | apply agreedOnly_keeps | apply pwmForce_keeps

theorem dtLock_keeps {P : Part → Prop} {s00 : State} {s : State} (hk : Keeps P s00 s) (t : Twin) (q_regs : ¬ P (.tw t .regs))
    :
    Keeps P s00 (dtLock s t) := by
  unfold dtLock
  repeat' with_reducible first | assumption | apply q_regs | intro _ | apply wf_keeps

theorem execDtLock_keeps {P : Part → Prop} {s00 : State} {s : State} (hk : Keeps P s00 s) (tg : Target) (q_regs : ∀ u, ¬ P (.tw u .regs))
    :
    OutKeeps P s00 (execDtLock tg s) := by
  unfold execDtLock
  repeat' with_reducible first
    | assumption | apply q_regs | intro _ | apply OutKeeps.next | apply OutKeeps.dite | apply onLive_keeps
    | apply dtLock_keeps | apply say_keeps | apply Keeps.dite | split

/-! Machine/Can.lean. -/

theorem modCan_keeps {P : Part → Prop} {s00 : State} {s : State} (hk : Keeps P s00 s) (t : Twin) (b : Nat) (f : CanSt → CanSt)
    (q_can : ¬ P (.tw t .can)) :
    Keeps P s00 (modCan s t b f) :=
  hk.setTwRegs rfl (fun k => ⟨(k.tw t).rings, (k.tw t).uplinks, (k.tw t).upOld, (k.tw t).exps, tabWf_tabMod {} (k.tw t).can b f, (k.tw t).neg, (k.tw t).xings, (k.tw t).queues⟩)
    fun g hg => by cases g <;> first | rfl | exact absurd hg q_can

theorem cev_keeps {P : Part → Prop} {s00 : State} {s : State} (hk : Keeps P s00 s) (t : Twin) (f : Fld) (b : Nat)
    (q_regs : ¬ P (.tw t .regs)) :
    Keeps P s00 (cev s t f b) := by
  unfold cev
  repeat' with_reducible first | assumption | apply q_regs | intro _ | apply ev_keeps

theorem setStat_keeps {P : Part → Prop} {s00 : State} {s : State} (hk : Keeps P s00 s) (t : Twin) (b m v : Nat)
    (q_regs : ¬ P (.tw t .regs)) :
    Keeps P s00 (setStat s t b m v) := by
  unfold setStat
  repeat' with_reducible first | assumption | apply q_regs | intro _ | apply wf_keeps

theorem showErr_keeps {P : Part → Prop} {s00 : State} {s : State} (hk : Keeps P s00 s) (t : Twin) (b : Nat)
    (q_regs : ¬ P (.tw t .regs)) :
    Keeps P s00 (showErr s t b) := by
  unfold showErr
  extract_lets
  repeat' with_reducible first
    | assumption | apply q_regs | intro _ | apply wf_keeps | apply cev_keeps | apply Keeps.dite

theorem putData_keeps {P : Part → Prop} {s00 : State} {s : State} (hk : Keeps P s00 s) (t : Twin) (b m : Nat) (d : List Byte)
    (q_regs : ¬ P (.tw t .regs)) :
    Keeps P s00 (putData s t b m d) := by
  unfold putData
  repeat' with_reducible first
    | assumption | apply q_regs | intro _ | apply wr_keeps | apply Keeps.dite | apply Keeps.foldl

theorem putStamp_keeps {P : Part → Prop} {s00 : State} {s : State} (hk : Keeps P s00 s) (t : Twin) (b m stamp : Nat)
    (q_regs : ¬ P (.tw t .regs)) :
    Keeps P s00 (putStamp s t b m stamp) := by
  unfold putStamp
  repeat' with_reducible first | assumption | apply q_regs | intro _ | apply wf_keeps | apply wr_keeps

theorem setNew_keeps {P : Part → Prop} {s00 : State} {s : State} (hk : Keeps P s00 s) (t : Twin) (b m : Nat) (v : Bool)
    (q_regs : ¬ P (.tw t .regs)) :
    Keeps P s00 (setNew s t b m v) := by
  unfold setNew
  repeat' with_reducible first | assumption | apply q_regs | intro _ | apply wf_keeps | apply Keeps.dite

theorem storeFrame_keeps {P : Part → Prop} {s00 : State} {s : State} (hk : Keeps P s00 s) (t : Twin) (b m : Nat)
    (f : CanFrame) (stamp : Nat) (lost : Bool) (q_regs : ¬ P (.tw t .regs)) :
    Keeps P s00 (storeFrame s t b m f stamp lost) := by
  unfold storeFrame
  extract_lets
  repeat' with_reducible first
    | assumption | apply q_regs | intro _ | apply wf_keeps | apply setNew_keeps | apply setStat_keeps
    | apply putStamp_keeps | apply putData_keeps | apply cnt_keeps | apply cev_keeps | apply Keeps.dite

theorem msgLost_keeps {P : Part → Prop} {s00 : State} {s : State} (hk : Keeps P s00 s) (t : Twin) (b : Nat)
    (q_regs : ¬ P (.tw t .regs)) :
    Keeps P s00 (msgLost s t b) := by
  unfold msgLost
  repeat' with_reducible first | assumption | apply q_regs | intro _ | apply cev_keeps | apply cnt_keeps

theorem takeFrame_keeps {P : Part → Prop} {s00 : State} {s : State} (hk : Keeps P s00 s) (t : Twin) (b m : Nat) (f : CanFrame)
    (stamp : Nat) (q_can : ¬ P (.tw t .can)) (q_regs : ¬ P (.tw t .regs)) :
    Keeps P s00 (takeFrame s t b m f stamp) := by
  unfold takeFrame
  extract_lets
  repeat' with_reducible first
    | assumption | apply q_can | apply q_regs | intro _ | apply msgLost_keeps | apply modCan_keeps | apply wf_keeps
    | apply storeFrame_keeps | apply Keeps.dite

theorem unlock_keeps {P : Part → Prop} {s00 : State} {s : State} (hk : Keeps P s00 s) (t : Twin) (b m : Nat)
    (q_can : ¬ P (.tw t .can)) (q_regs : ¬ P (.tw t .regs)) :
    Keeps P s00 (unlock s t b m) := by
  unfold unlock
  extract_lets
  repeat' with_reducible first
    | assumption | apply q_can | apply q_regs | intro _ | apply setNew_keeps | apply setStat_keeps | apply wf_keeps
    | apply modCan_keeps | apply storeFrame_keeps | apply Keeps.dite | split

theorem canClose_keeps {P : Part → Prop} {s00 : State} {s : State} (hk : Keeps P s00 s) (t : Twin) (b : Nat) (q_can : ¬ P (.tw t .can)) (q_pwr : ¬ P (.tw t .pwr)) (q_regs : ¬ P (.tw t .regs)) :
    Keeps P s00 (canClose s t b) := by
  unfold canClose
  try extract_lets
  repeat' with_reducible first | assumption | apply q_can | apply q_pwr | apply q_regs | intro _ | apply wf_keeps | apply modCan_keeps | apply gate_keeps | apply Keeps.dite | split | dsimp only

theorem loseArbitration_keeps {P : Part → Prop} {s00 : State} {s : State} (hk : Keeps P s00 s) (t : Twin) (b : Nat) (q_can : ¬ P (.tw t .can)) (q_pwr : ¬ P (.tw t .pwr)) (q_regs : ¬ P (.tw t .regs)) :
    Keeps P s00 (loseArbitration s t b) := by
  unfold loseArbitration
  try extract_lets
  repeat' with_reducible first | assumption | apply q_can | apply q_pwr | apply q_regs | intro _ | apply modCan_keeps | apply canClose_keeps | apply setStat_keeps | apply Keeps.dite | split | dsimp only

theorem placeFrame_keeps {P : Part → Prop} {s00 : State} {s : State} (hk : Keeps P s00 s) (t : Twin) (b : Nat) (f : CanFrame) (stamp : Nat) (q_can : ¬ P (.tw t .can)) (q_regs : ¬ P (.tw t .regs)) :
    Keeps P s00 (placeFrame s t b f stamp) := by
  unfold placeFrame
  try extract_lets
  repeat' with_reducible first | assumption | apply q_can | apply q_regs | intro _ | apply modCan_keeps | apply showErr_keeps | apply takeFrame_keeps | apply cnt_keeps | apply Keeps.dite | split | dsimp only

theorem execCanFrameReceive_keeps {P : Part → Prop} {s00 : State} {s : State} (hk : Keeps P s00 s) (b : Fin 2) (f : CanFrame) (stamp : BitVec 40) (q_can : ∀ u, ¬ P (.tw u .can)) (q_pwr : ∀ u, ¬ P (.tw u .pwr)) (q_regs : ∀ u, ¬ P (.tw u .regs)) (q_xings : ∀ u, ¬ P (.tw u .xings)) :
    OutKeeps P s00 (execCanFrameReceive b f stamp s) := by
  unfold execCanFrameReceive
  try extract_lets
  repeat' with_reducible first | assumption | apply q_can | apply q_pwr | apply q_regs | apply q_xings | intro _ | apply OutKeeps.next | apply OutKeeps.dite | apply onLive_keeps | apply crossIn_keeps | apply loseArbitration_keeps | apply wf_keeps | apply cev_keeps | apply cnt_keeps | apply modCan_keeps | apply placeFrame_keeps | apply freeTick_keeps | apply Keeps.dite | split | dsimp only

theorem ctlRead_keeps {P : Part → Prop} {s00 : State} {s : State} (hk : Keeps P s00 s) (t : Twin) (b m : Nat)
    (q_regs : ¬ P (.tw t .regs)) :
    Keeps P s00 (ctlRead s t b m) := by
  unfold ctlRead
  extract_lets
  repeat' with_reducible first
    | assumption | apply q_regs | intro _ | apply wf_keeps | apply Keeps.dite | split
    | refine Keeps.fields ?_ _ _ _ _ _ _ _ _ _ _ ?_ ?_ ?_ ?_ ?_ ?_ ?_ ?_ (fun k => k.cells) (fun k => k.ctx) | exact rfl

theorem execCanCtlRead_keeps {P : Part → Prop} {s00 : State} {s : State} (hk : Keeps P s00 s) (t : Twin) (b : Fin 2)
    (m : Fin 129) (q_regs : ¬ P (.tw t .regs)) :
    OutKeeps P s00 (execCanCtlRead t b m s) := by
  unfold execCanCtlRead
  repeat' with_reducible first
    | assumption | apply q_regs | intro _ | apply OutKeeps.next | apply OutKeeps.dite | apply ctlRead_keeps
    | apply say_keeps

theorem execCanLastWordRead_keeps {P : Part → Prop} {s00 : State} {s : State} (hk : Keeps P s00 s) (t : Twin) (b : Fin 2)
    (m : Fin 129) (q_can : ¬ P (.tw t .can)) (q_regs : ¬ P (.tw t .regs)) :
    OutKeeps P s00 (execCanLastWordRead t b m s) := by
  unfold execCanLastWordRead
  repeat' with_reducible first
    | assumption | apply q_can | apply q_regs | intro _ | apply OutKeeps.next | apply OutKeeps.dite
    | apply unlock_keeps | apply say_keeps | apply Keeps.dite | split
    | refine Keeps.fields ?_ _ _ _ _ _ _ _ _ _ _ ?_ ?_ ?_ ?_ ?_ ?_ ?_ ?_ (fun k => k.cells) (fun k => k.ctx) | exact rfl

theorem execLockTimeout_keeps {P : Part → Prop} {s00 : State} {s : State} (hk : Keeps P s00 s) (t : Twin) (b : Fin 2)
    (m : Fin 129) (q_can : ¬ P (.tw t .can)) (q_regs : ¬ P (.tw t .regs)) :
    OutKeeps P s00 (execLockTimeout t b m s) := by
  unfold execLockTimeout
  repeat' with_reducible first
    | assumption | apply q_can | apply q_regs | intro _ | apply OutKeeps.next | apply OutKeeps.dite
    | apply cev_keeps | apply unlock_keeps | apply Keeps.dite

theorem txReq_keeps {P : Part → Prop} {s00 : State} {s : State} (hk : Keeps P s00 s) (b m : Nat) (q_regs : ∀ u, ¬ P (.tw u .regs)) :
    Keeps P s00 (txReq s b m) := by
  unfold txReq
  try extract_lets
  repeat' with_reducible first | assumption | apply q_regs | intro _ | apply say_keeps | apply onLive_keeps | apply setStat_keeps | apply Keeps.dite | split | dsimp only

theorem execTxreq_keeps {P : Part → Prop} {s00 : State} {s : State} (hk : Keeps P s00 s) (tg : Target) (b : Fin 2)
    (m : Fin 128) (q_regs : ∀ u, ¬ P (.tw u .regs)) :
    OutKeeps P s00 (execTxreq tg b m s) := by
  unfold execTxreq
  repeat' with_reducible first
    | assumption | apply q_regs | intro _ | apply OutKeeps.next | apply OutKeeps.dite | apply agreedOnly_keeps
    | apply txReq_keeps

theorem execCanArbitration_keeps {P : Part → Prop} {s00 : State} {s : State} (hk : Keeps P s00 s) (b : Fin 2) (q_can : ∀ u, ¬ P (.tw u .can)) (q_regs : ∀ u, ¬ P (.tw u .regs)) (q_xings : ∀ u, ¬ P (.tw u .xings)) :
    OutKeeps P s00 (execCanArbitration b s) := by
  unfold execCanArbitration
  try extract_lets
  repeat' with_reducible first | assumption | apply q_can | apply q_regs | apply q_xings | intro _ | apply OutKeeps.next | apply OutKeeps.dite | apply crossOut_keeps | apply modCan_keeps | apply setStat_keeps | apply Keeps.dite | split | dsimp only

theorem modIso_keeps {P : Part → Prop} {s00 : State} {s : State} (hk : Keeps P s00 s) (t : Twin) (b h : Nat) (f : IsoSt → IsoSt)
    (q_can : ¬ P (.tw t .can)) :
    Keeps P s00 (modIso s t b h f) := by
  unfold modIso
  repeat' with_reducible first | assumption | apply q_can | intro _ | apply modCan_keeps

theorem isoSend_keeps {P : Part → Prop} {s00 : State} {s : State} (hk : Keeps P s00 s) (t : Twin) (b h : Nat)
    (q_can : ¬ P (.tw t .can)) (q_regs : ¬ P (.tw t .regs)) :
    Keeps P s00 (isoSend s t b h) := by
  unfold isoSend
  extract_lets
  repeat' with_reducible first
    | assumption | apply q_can | apply q_regs | intro _ | apply modIso_keeps | apply putData_keeps
    | apply setStat_keeps | apply wf_keeps | apply Keeps.dite | split

theorem isoQueue_keeps {P : Part → Prop} {s00 : State} {s : State} (hk : Keeps P s00 s) (t : Twin) (b h : Nat) (d : List Byte)
    (q_can : ¬ P (.tw t .can)) (q_regs : ¬ P (.tw t .regs)) :
    Keeps P s00 (isoQueue s t b h d) := by
  unfold isoQueue
  repeat' with_reducible first
    | assumption | apply q_can | apply q_regs | intro _ | apply isoSend_keeps | apply modIso_keeps

theorem isoError_keeps {P : Part → Prop} {s00 : State} {s : State} (hk : Keeps P s00 s) (t : Twin) (b : Nat)
    (q_regs : ¬ P (.tw t .regs)) :
    Keeps P s00 (isoError s t b) := by
  unfold isoError
  repeat' with_reducible first | assumption | apply q_regs | intro _ | apply cev_keeps | apply cnt_keeps

theorem isoStart_keeps {P : Part → Prop} {s00 : State} {s : State} (hk : Keeps P s00 s) (t : Twin) (b h : Nat) (d : List Byte)
    (q_can : ¬ P (.tw t .can)) (q_regs : ¬ P (.tw t .regs)) :
    Keeps P s00 (isoStart s t b h d) := by
  unfold isoStart
  extract_lets
  repeat' with_reducible first
    | assumption | apply q_can | apply q_regs | intro _ | apply modIso_keeps | apply reply_keeps
    | apply isoQueue_keeps | apply Keeps.dite

theorem isoReply_keeps {P : Part → Prop} {s00 : State} {s : State} (hk : Keeps P s00 s) (t : Twin) (b h : Nat) (d : List Byte)
    (q_can : ¬ P (.tw t .can)) (q_regs : ¬ P (.tw t .regs)) :
    Keeps P s00 (isoReply s t b h d) := by
  unfold isoReply
  repeat' with_reducible first
    | assumption | apply q_can | apply q_regs | intro _ | apply isoStart_keeps | apply modIso_keeps
    | apply Keeps.dite

theorem isoFree_keeps {P : Part → Prop} {s00 : State} {s : State} (hk : Keeps P s00 s) (t : Twin) (b h : Nat)
    (q_can : ¬ P (.tw t .can)) (q_regs : ¬ P (.tw t .regs)) :
    Keeps P s00 (isoFree s t b h) := by
  unfold isoFree
  dsimp only
  repeat' with_reducible first
    | assumption | apply q_can | apply q_regs | intro _ | apply modIso_keeps | apply reply_keeps
    | apply isoStart_keeps | apply Keeps.dite | split

theorem isoNext_keeps {P : Part → Prop} {s00 : State} {s : State} (hk : Keeps P s00 s) (t : Twin) (b h : Nat)
    (q_can : ¬ P (.tw t .can)) (q_regs : ¬ P (.tw t .regs)) :
    Keeps P s00 (isoNext s t b h) := by
  unfold isoNext
  extract_lets
  repeat' with_reducible first
    | assumption | apply q_can | apply q_regs | intro _ | apply isoFree_keeps | apply modIso_keeps
    | apply isoQueue_keeps | apply Keeps.dite

theorem isoDone_keeps {P : Part → Prop} {s00 : State} {s : State} (hk : Keeps P s00 s) (t : Twin) (b h : Nat) (d : List Byte)
    (q_can : ¬ P (.tw t .can)) :
    Keeps P s00 (isoDone s t b h d) := by
  unfold isoDone
  repeat' with_reducible first | assumption | apply q_can | intro _ | apply modIso_keeps

theorem isoAbortRx_keeps {P : Part → Prop} {s00 : State} {s : State} (hk : Keeps P s00 s) (t : Twin) (b h : Nat)
    (q_can : ¬ P (.tw t .can)) (q_regs : ¬ P (.tw t .regs)) :
    Keeps P s00 (isoAbortRx s t b h) := by
  unfold isoAbortRx
  repeat' with_reducible first
    | assumption | apply q_can | apply q_regs | intro _ | apply isoError_keeps | apply modIso_keeps
    | apply Keeps.dite

theorem isoFrame_keeps {P : Part → Prop} {s00 : State} {s : State} (hk : Keeps P s00 s) (t : Twin) (b h : Nat) (data : List Byte) (q_can : ¬ P (.tw t .can)) (q_regs : ¬ P (.tw t .regs)) :
    Keeps P s00 (isoFrame s t b h data) := by
  unfold isoFrame
  try extract_lets
  repeat' with_reducible first | assumption | apply q_can | apply q_regs | intro _ | apply isoAbortRx_keeps | apply isoDone_keeps | apply isoQueue_keeps | apply modIso_keeps | apply isoError_keeps | apply isoNext_keeps | apply isoFree_keeps | apply Keeps.dite | split | dsimp only

theorem execIsotpReceive_keeps {P : Part → Prop} {s00 : State} {s : State} (hk : Keeps P s00 s) (b : Fin 2) (h : Fin 4) (data : List Byte) (q_can : ∀ u, ¬ P (.tw u .can)) (q_regs : ∀ u, ¬ P (.tw u .regs)) (q_xings : ∀ u, ¬ P (.tw u .xings)) :
    OutKeeps P s00 (execIsotpReceive b h data s) := by
  unfold execIsotpReceive
  try extract_lets
  repeat' with_reducible first | assumption | apply q_can | apply q_regs | apply q_xings | intro _ | apply OutKeeps.next | apply OutKeeps.dite | apply onComputing_keeps | apply crossIn_keeps | apply isoFrame_keeps | apply Keeps.dite | split | dsimp only

theorem execIsotpTimeout_keeps {P : Part → Prop} {s00 : State} {s : State} (hk : Keeps P s00 s) (b : Fin 2) (h : Fin 4)
    (sender : Bool) (q_can : ∀ u, ¬ P (.tw u .can)) (q_regs : ∀ u, ¬ P (.tw u .regs)) :
    OutKeeps P s00 (execIsotpTimeout b h sender s) := by
  unfold execIsotpTimeout
  repeat' with_reducible first
    | assumption | apply q_can | apply q_regs | intro _ | apply OutKeeps.next | apply OutKeeps.dite
    | apply onComputing_keeps | apply isoError_keeps | apply isoFree_keeps | apply modIso_keeps | apply Keeps.dite

theorem stampSent_keeps {P : Part → Prop} {s00 : State} {s : State} (hk : Keeps P s00 s) (t : Twin) (b m count stamp : Nat) (q_regs : ¬ P (.tw t .regs)) :
    Keeps P s00 (stampSent s t b m count stamp) := by
  unfold stampSent
  try extract_lets
  repeat' with_reducible first | assumption | apply q_regs | intro _ | apply wr_keeps | apply wf_keeps | apply putStamp_keeps | apply Keeps.dite | split | dsimp only

theorem monitorFrame_keeps {P : Part → Prop} {s00 : State} {s : State} (hk : Keeps P s00 s) (t : Twin) (b m count stamp : Nat) (f : CanFrame) (q_can : ¬ P (.tw t .can)) (q_regs : ¬ P (.tw t .regs)) (q_xings : ¬ P (.tw t .xings)) :
    Keeps P s00 (monitorFrame s t b m count stamp f) := by
  unfold monitorFrame
  try extract_lets
  repeat' with_reducible first | assumption | apply q_can | apply q_regs | apply q_xings | intro _ | apply crossIn_keeps | apply placeFrame_keeps | apply stampSent_keeps | apply Keeps.dite | split | dsimp only

theorem execTxDone_keeps {P : Part → Prop} {s00 : State} {s : State} (hk : Keeps P s00 s) (b : Fin 2) (stamp : BitVec 40) (q_can : ∀ u, ¬ P (.tw u .can)) (q_pwr : ∀ u, ¬ P (.tw u .pwr)) (q_regs : ∀ u, ¬ P (.tw u .regs)) (q_xings : ∀ u, ¬ P (.tw u .xings)) :
    OutKeeps P s00 (execTxDone b stamp s) := by
  unfold execTxDone
  try extract_lets
  repeat' with_reducible first | assumption | apply q_can | apply q_pwr | apply q_regs | apply q_xings | intro _ | apply OutKeeps.next | apply OutKeeps.dite | apply crossIn_keeps | apply modCan_keeps | apply showErr_keeps | apply wf_keeps | apply cev_keeps | apply cnt_keeps | apply monitorFrame_keeps | apply freeTick_keeps | apply stampSent_keeps | apply setStat_keeps | apply isoNext_keeps | apply isoSend_keeps | apply canClose_keeps | apply Keeps.dite | split | dsimp only

theorem execCanAttemptError_keeps {P : Part → Prop} {s00 : State} {s : State} (hk : Keeps P s00 s) (b : Fin 2) (code : Fin 7) (dataPhase : Bool) (dom : DomBits) (arbStuff : Bool) (q_can : ∀ u, ¬ P (.tw u .can)) (q_pwr : ∀ u, ¬ P (.tw u .pwr)) (q_regs : ∀ u, ¬ P (.tw u .regs)) (q_xings : ∀ u, ¬ P (.tw u .xings)) :
    OutKeeps P s00 (execCanAttemptError b code dataPhase dom arbStuff s) := by
  unfold execCanAttemptError
  try extract_lets
  repeat' with_reducible first | assumption | apply q_can | apply q_pwr | apply q_regs | apply q_xings | intro _ | apply OutKeeps.next | apply OutKeeps.dite | apply crossIn_keeps | apply modCan_keeps | apply cnt_keeps | apply wf_keeps | apply cev_keeps | apply setStat_keeps | apply canClose_keeps | apply showErr_keeps | apply Keeps.dite | split | dsimp only

theorem canCancel_keeps {P : Part → Prop} {s00 : State} {s : State} (hk : Keeps P s00 s) (b m : Nat) (q_can : ∀ u, ¬ P (.tw u .can))
    (q_regs : ∀ u, ¬ P (.tw u .regs)) :
    Keeps P s00 (canCancel s b m) := by
  unfold canCancel
  extract_lets
  repeat' with_reducible first
    | assumption | apply q_can | apply q_regs | intro _ | apply say_keeps | apply onLive_keeps | apply setStat_keeps
    | apply modCan_keeps | apply Keeps.dite

theorem execCancel_keeps {P : Part → Prop} {s00 : State} {s : State} (hk : Keeps P s00 s) (tg : Target) (b : Fin 2)
    (m : Fin 128) (q_can : ∀ u, ¬ P (.tw u .can)) (q_regs : ∀ u, ¬ P (.tw u .regs)) :
    OutKeeps P s00 (execCancel tg b m s) := by
  unfold execCancel
  repeat' with_reducible first
    | assumption | apply q_can | apply q_regs | intro _ | apply OutKeeps.next | apply OutKeeps.dite
    | apply agreedOnly_keeps | apply canCancel_keeps

theorem execCanAttemptReport_keeps {P : Part → Prop} {s00 : State} {s : State} (hk : Keeps P s00 s) (b : Fin 2) (q_can : ∀ u, ¬ P (.tw u .can)) (q_regs : ∀ u, ¬ P (.tw u .regs)) :
    OutKeeps P s00 (execCanAttemptReport b s) := by
  unfold execCanAttemptReport
  try extract_lets
  repeat' with_reducible first | assumption | apply q_can | apply q_regs | intro _ | apply OutKeeps.next | apply OutKeeps.dite | apply modCan_keeps | apply wr_keeps | apply wf_keeps | apply setStat_keeps | apply showErr_keeps | apply Keeps.dite | apply Keeps.foldl | apply Keeps.foldl₁ | apply Keeps.foldl₂ | split | dsimp only

theorem canRepend_keeps {P : Part → Prop} {s00 : State} {s : State} (hk : Keeps P s00 s) (t : Twin) (q_can : ¬ P (.tw t .can))
    (q_regs : ¬ P (.tw t .regs)) :
    Keeps P s00 (canRepend s t) := by
  unfold canRepend
  repeat' with_reducible first
    | assumption | apply q_can | apply q_regs | intro _ | apply modCan_keeps | apply setStat_keeps
    | apply isoStart_keeps | apply modIso_keeps | apply Keeps.dite | apply Keeps.foldl

theorem execCanDriveSwitch_keeps {P : Part → Prop} {s00 : State} {s : State} (hk : Keeps P s00 s) (b : Fin 2)
    (q_regs : ∀ u, ¬ P (.tw u .regs)) :
    OutKeeps P s00 (execCanDriveSwitch b s) := by
  unfold execCanDriveSwitch
  repeat' with_reducible first
    | assumption | apply q_regs | intro _ | apply OutKeeps.next | apply OutKeeps.dite | apply wf_keeps
    | apply Keeps.dite | split

theorem execBusOff_keeps {P : Part → Prop} {s00 : State} {s : State} (hk : Keeps P s00 s) (b : Fin 2) (q_regs : ∀ u, ¬ P (.tw u .regs))
    :
    OutKeeps P s00 (execBusOff b s) := by
  unfold execBusOff
  extract_lets
  repeat' with_reducible first
    | assumption | apply q_regs | intro _ | apply OutKeeps.next | apply OutKeeps.dite | apply wf_keeps
    | apply cev_keeps | apply cnt_keeps | apply Keeps.dite | split

theorem canRecover_keeps {P : Part → Prop} {s00 : State} {s : State} (hk : Keeps P s00 s) (b : Nat) (q_regs : ∀ u, ¬ P (.tw u .regs)) :
    Keeps P s00 (canRecover s b) := by
  unfold canRecover
  try extract_lets
  repeat' with_reducible first | assumption | apply q_regs | intro _ | apply onLive_keeps | apply wf_keeps | apply say_keeps | apply Keeps.dite | split | dsimp only

theorem execRecover_keeps {P : Part → Prop} {s00 : State} {s : State} (hk : Keeps P s00 s) (tg : Target) (b : Fin 2)
    (q_regs : ∀ u, ¬ P (.tw u .regs)) :
    OutKeeps P s00 (execRecover tg b s) := by
  unfold execRecover
  repeat' with_reducible first
    | assumption | apply q_regs | intro _ | apply OutKeeps.next | apply OutKeeps.dite | apply agreedOnly_keeps
    | apply canRecover_keeps

theorem execRecovered_keeps {P : Part → Prop} {s00 : State} {s : State} (hk : Keeps P s00 s) (b : Fin 2) (q_can : ∀ u, ¬ P (.tw u .can))
    (q_regs : ∀ u, ¬ P (.tw u .regs)) :
    OutKeeps P s00 (execRecovered b s) := by
  unfold execRecovered
  repeat' with_reducible first
    | assumption | apply q_can | apply q_regs | intro _ | apply OutKeeps.next | apply OutKeeps.dite
    | apply onLive_keeps | apply modCan_keeps | apply showErr_keeps | apply wf_keeps | apply cev_keeps
    | apply Keeps.dite

theorem canEnable_keeps {P : Part → Prop} {s00 : State} {s : State} (hk : Keeps P s00 s) (b : Nat) (v : Bool) (q_can : ∀ u, ¬ P (.tw u .can)) (q_pwr : ∀ u, ¬ P (.tw u .pwr)) (q_regs : ∀ u, ¬ P (.tw u .regs)) (q_xings : ∀ u, ¬ P (.tw u .xings)) :
    Keeps P s00 (canEnable s b v) := by
  unfold canEnable
  try extract_lets
  repeat' with_reducible first | assumption | apply q_can | apply q_pwr | apply q_regs | apply q_xings | intro _ | apply onLive_keeps | apply wf_keeps | apply modCan_keeps | apply ungate_keeps | apply showErr_keeps | apply setStat_keeps | apply canClose_keeps | apply Keeps.dite | apply Keeps.foldl | apply Keeps.foldl₁ | apply Keeps.foldl₂ | split | dsimp only

theorem execCanEnable_keeps {P : Part → Prop} {s00 : State} {s : State} (hk : Keeps P s00 s) (tg : Target) (b : Fin 2) (v : Bool) (q_can : ∀ u, ¬ P (.tw u .can)) (q_pwr : ∀ u, ¬ P (.tw u .pwr)) (q_regs : ∀ u, ¬ P (.tw u .regs)) (q_xings : ∀ u, ¬ P (.tw u .xings)) :
    OutKeeps P s00 (execCanEnable tg b v s) := by
  unfold execCanEnable
  try extract_lets
  repeat' with_reducible first | assumption | apply q_can | apply q_pwr | apply q_regs | apply q_xings | intro _ | apply OutKeeps.next | apply OutKeeps.dite | apply agreedOnly_keeps | apply canEnable_keeps | apply Keeps.dite | split | dsimp only

theorem execCanIntegrated_keeps {P : Part → Prop} {s00 : State} {s : State} (hk : Keeps P s00 s) (b : Fin 2)
    (q_regs : ∀ u, ¬ P (.tw u .regs)) :
    OutKeeps P s00 (execCanIntegrated b s) := by
  unfold execCanIntegrated
  repeat' with_reducible first
    | assumption | apply q_regs | intro _ | apply OutKeeps.next | apply OutKeeps.dite | apply onLive_keeps
    | apply showErr_keeps | apply wf_keeps | apply Keeps.dite

theorem execCanRxError_keeps {P : Part → Prop} {s00 : State} {s : State} (hk : Keeps P s00 s) (t : Twin) (b : Fin 2) (pex : Bool) (code : Fin 7) (dataPhase : Bool) (dom : DomBits) (q_can : ¬ P (.tw t .can)) (q_pwr : ¬ P (.tw t .pwr)) (q_regs : ¬ P (.tw t .regs)) (q_xings : ¬ P (.tw t .xings)) :
    OutKeeps P s00 (execCanRxError t b pex code dataPhase dom s) := by
  unfold execCanRxError
  try extract_lets
  repeat' with_reducible first | assumption | apply q_can | apply q_pwr | apply q_regs | apply q_xings | intro _ | apply OutKeeps.next | apply OutKeeps.dite | apply crossIn_keeps | apply loseArbitration_keeps | apply wf_keeps | apply cev_keeps | apply cnt_keeps | apply modCan_keeps | apply showErr_keeps | apply Keeps.dite | split | dsimp only

theorem execReferenceDue_keeps {P : Part → Prop} {s00 : State} {s : State} (hk : Keeps P s00 s) (b : Fin 2) (q_can : ∀ u, ¬ P (.tw u .can))
    (q_regs : ∀ u, ¬ P (.tw u .regs)) :
    OutKeeps P s00 (execReferenceDue b s) := by
  unfold execReferenceDue
  extract_lets
  repeat' with_reducible first
    | assumption | apply q_can | apply q_regs | intro _ | apply OutKeeps.next | apply OutKeeps.dite
    | apply onLive_keeps | apply cev_keeps | apply cnt_keeps | apply modCan_keeps | apply Keeps.dite

theorem ecpObjects_keeps {P : Part → Prop} {s00 : State} {s : State} (hk : Keeps P s00 s) (t : Twin) (b h : Nat)
    (q_regs : ¬ P (.tw t .regs)) :
    Keeps P s00 (ecpObjects t b h s) := by
  unfold ecpObjects
  extract_lets
  repeat' with_reducible first | assumption | apply q_regs | intro _ | apply wf_keeps | apply setStat_keeps

theorem ecpEnable_keeps {P : Part → Prop} {s00 : State} {s : State} (hk : Keeps P s00 s) (b h : Nat) (v : Bool)
    (q_can : ∀ u, ¬ P (.tw u .can)) (q_regs : ∀ u, ¬ P (.tw u .regs)) :
    Keeps P s00 (ecpEnable s b h v) := by
  unfold ecpEnable
  extract_lets
  repeat' with_reducible first
    | assumption | apply q_can | apply q_regs | intro _ | apply say_keeps | apply onLive_keeps | apply modIso_keeps
    | apply wf_keeps | apply ecpObjects_keeps | apply Keeps.dite

theorem execEcpCanEnable_keeps {P : Part → Prop} {s00 : State} {s : State} (hk : Keeps P s00 s) (tg : Target) (b : Fin 2)
    (h : Fin 4) (v : Bool) (q_can : ∀ u, ¬ P (.tw u .can)) (q_regs : ∀ u, ¬ P (.tw u .regs)) :
    OutKeeps P s00 (execEcpCanEnable tg b h v s) := by
  unfold execEcpCanEnable
  repeat' with_reducible first
    | assumption | apply q_can | apply q_regs | intro _ | apply OutKeeps.next | apply OutKeeps.dite
    | apply agreedOnly_keeps | apply ecpEnable_keeps

/-! Machine/ArrayOps.lean. -/

theorem setCellSt_keeps {P : Part → Prop} {s00 : State} {s : State} (hk : Keeps P s00 s) (t : Twin) (k v : Nat)
    (q_regs : ¬ P (.tw t .regs)) :
    Keeps P s00 (setCellSt s t k v) := by
  unfold setCellSt
  repeat' with_reducible first | assumption | apply q_regs | intro _ | apply wf_keeps

theorem modArr_keeps {P : Part → Prop} {s00 : State} {s : State} (hk : Keeps P s00 s) (t : Twin) (f : ArrSt → ArrSt)
    (q_arr : ¬ P (.tw t .arr)) :
    Keeps P s00 (modArr s t f) := by
  unfold modArr
  repeat' first
    | (cases ‹TwinField› <;> first | rfl | exact absurd ‹_› (by solve_by_elim))
    | with_reducible first
      | assumption | apply q_arr | intro _ | apply Keeps.dite | split | refine Keeps.setTwRegs ?_ rfl (fun k => (k.tw _).same rfl rfl rfl rfl rfl rfl rfl rfl) fun f hf => ?_

theorem modCellX_keeps {P : Part → Prop} {s00 : State} {s : State} (hk : Keeps P s00 s) (t : Twin) (k : Nat) (f : CellX → CellX)
    (q_arr : ¬ P (.tw t .arr)) :
    Keeps P s00 (modCellX s t k f) := by
  unfold modCellX
  repeat' with_reducible first | assumption | apply q_arr | intro _ | apply modArr_keeps

theorem modStrX_keeps {P : Part → Prop} {s00 : State} {s : State} (hk : Keeps P s00 s) (t : Twin) (st : Nat) (f : StrX → StrX)
    (q_arr : ¬ P (.tw t .arr)) :
    Keeps P s00 (modStrX s t st f) := by
  unfold modStrX
  repeat' with_reducible first | assumption | apply q_arr | intro _ | apply modArr_keeps

theorem modRingX_keeps {P : Part → Prop} {s00 : State} {s : State} (hk : Keeps P s00 s) (t : Twin) (c : Nat) (f : RingX → RingX)
    (q_rings : ¬ P (.tw t .rings)) :
    Keeps P s00 (modRingX s t c f) :=
  hk.setTwRegs rfl (fun k => ⟨tabWf_tabMod {} (k.tw t).rings c f, (k.tw t).uplinks, (k.tw t).upOld, (k.tw t).exps, (k.tw t).can, (k.tw t).neg, (k.tw t).xings, (k.tw t).queues⟩)
    fun g hg => by cases g <;> first | rfl | exact absurd hg q_rings

theorem setRing_keeps {P : Part → Prop} {s00 : State} {s : State} (hk : Keeps P s00 s) (t : Twin) (c v : Nat) (q_regs : ¬ P (.tw t .regs)) (q_rings : ¬ P (.tw t .rings)) :
    Keeps P s00 (setRing s t c v) := by
  unfold setRing
  try extract_lets
  repeat' with_reducible first | assumption | apply q_regs | apply q_rings | intro _ | apply wf_keeps | apply modRingX_keeps | apply ev_keeps | apply Keeps.dite | split | dsimp only

theorem setDamage_keeps {P : Part → Prop} {s00 : State} {s : State} (hk : Keeps P s00 s) (t : Twin) (k v : Nat) (q_regs : ¬ P (.tw t .regs)) :
    Keeps P s00 (setDamage s t k v) := by
  unfold setDamage
  try extract_lets
  repeat' with_reducible first | assumption | apply q_regs | intro _ | apply wr_keeps | apply Keeps.dite | split | dsimp only

theorem showString_keeps {P : Part → Prop} {s00 : State} {s : State} (hk : Keeps P s00 s) (t : Twin) (st : Nat)
    (q_regs : ¬ P (.tw t .regs)) :
    Keeps P s00 (showString s t st) := by
  unfold showString
  extract_lets
  repeat' with_reducible first | assumption | apply q_regs | intro _ | apply wf_keeps

theorem showRanks_keeps {P : Part → Prop} {s00 : State} {s : State} (hk : Keeps P s00 s) (t : Twin) (st : Nat)
    (q_regs : ¬ P (.tw t .regs)) :
    Keeps P s00 (showRanks s t st) := by
  unfold showRanks
  repeat' with_reducible first
    | assumption | apply q_regs | intro _ | apply wf_keeps | apply Keeps.dite | apply Keeps.foldl

theorem rerank_keeps {P : Part → Prop} {s00 : State} {s : State} (hk : Keeps P s00 s) (t : Twin) (st : Nat) (q_arr : ¬ P (.tw t .arr))
    (q_regs : ¬ P (.tw t .regs)) :
    Keeps P s00 (rerank s t st) := by
  unfold rerank
  extract_lets
  repeat' with_reducible first
    | assumption | apply q_arr | apply q_regs | intro _ | apply showString_keeps | apply showRanks_keeps
    | apply modStrX_keeps

theorem startTraining_keeps {P : Part → Prop} {s00 : State} {s : State} (hk : Keeps P s00 s) (m : Nat) (q_regs : ∀ u, ¬ P (.tw u .regs)) (q_rings : ∀ u, ¬ P (.tw u .rings)) :
    Keeps P s00 (startTraining s m) := by
  unfold startTraining
  try extract_lets
  repeat' with_reducible first | assumption | apply q_regs | apply q_rings | intro _ | apply onBoth_keeps | apply modRingX_keeps | apply setRing_keeps | apply Keeps.dite | apply Keeps.foldl | apply Keeps.foldl₁ | apply Keeps.foldl₂ | split | dsimp only

theorem trainLeave_keeps {P : Part → Prop} {s00 : State} {s : State} (hk : Keeps P s00 s) (m : Nat) (host : Bool) (q_regs : ∀ u, ¬ P (.tw u .regs)) (q_rings : ∀ u, ¬ P (.tw u .rings)) (p_sluice : ¬ P .sluice) :
    Keeps P s00 (trainLeave s m host) := by
  unfold trainLeave
  try extract_lets
  repeat' with_reducible first | assumption | apply q_regs | apply q_rings | apply p_sluice | intro _ | apply startTraining_keeps | apply leaveAsk_keeps | apply Keeps.dite | split | dsimp only

theorem trainChains_keeps {P : Part → Prop} {s00 : State} {s : State} (hk : Keeps P s00 s) (cs : List Nat) (m : Nat) (host : Bool) (q_regs : ∀ u, ¬ P (.tw u .regs)) (q_rings : ∀ u, ¬ P (.tw u .rings)) (p_sluice : ¬ P .sluice) :
    Keeps P s00 (trainChains s cs m host) := by
  unfold trainChains
  try extract_lets
  repeat' with_reducible first | assumption | apply q_regs | apply q_rings | apply p_sluice | intro _ | apply trainLeave_keeps | apply onBoth_keeps | apply modRingX_keeps | apply Keeps.dite | apply Keeps.foldl | apply Keeps.foldl₁ | apply Keeps.foldl₂ | split | dsimp only

theorem dropTraining_keeps {P : Part → Prop} {s00 : State} {s : State} (hk : Keeps P s00 s) (done : Nat → Bool) (q_regs : ∀ u, ¬ P (.tw u .regs)) (p_sluice : ¬ P .sluice) :
    Keeps P s00 (dropTraining s done) := by
  unfold dropTraining
  try extract_lets
  repeat' with_reducible first | assumption | apply q_regs | apply p_sluice | intro _ | apply onBoth_keeps | apply showLedger_keeps | apply Keeps.dite | split | refine Keeps.fields ?_ _ _ _ _ _ _ _ _ _ _ ?_ ?_ ?_ ?_ ?_ ?_ ?_ ?_ (fun k => k.cells) (fun k => k.ctx) | exact rfl | exact absurd ‹_› (by assumption) | dsimp only

theorem dropInserting_keeps {P : Part → Prop} {s00 : State} {s : State} (hk : Keeps P s00 s) (t : Twin) (q_arr : ¬ P (.tw t .arr))
    (q_regs : ¬ P (.tw t .regs)) :
    Keeps P s00 (dropInserting s t) := by
  unfold dropInserting
  repeat' with_reducible first
    | assumption | apply q_arr | apply q_regs | intro _ | apply rerank_keeps | apply setCellSt_keeps
    | apply Keeps.dite | apply Keeps.foldl

theorem blockArray_keeps {P : Part → Prop} {s00 : State} {s : State} (hk : Keeps P s00 s) (t : Twin) (evt : Fld) (q_arr : ¬ P (.tw t .arr)) (q_regs : ¬ P (.tw t .regs)) (q_twn : ∀ u, ¬ P (.tw u .twn)) :
    Keeps P s00 (blockArray s t evt) := by
  unfold blockArray
  try extract_lets
  repeat' with_reducible first | assumption | apply q_arr | apply q_regs | apply q_twn | intro _ | apply ev_keeps | apply wf_keeps | apply demand_keeps | apply dropInserting_keeps | apply showString_keeps | apply setCellSt_keeps | apply Keeps.dite | apply Keeps.foldl | apply Keeps.foldl₁ | apply Keeps.foldl₂ | split | dsimp only

theorem insertStart_keeps {P : Part → Prop} {s00 : State} {s : State} (hk : Keeps P s00 s) (t : Twin) (k : Nat) (repl : Option Nat) (q_arr : ¬ P (.tw t .arr)) (q_regs : ¬ P (.tw t .regs)) :
    Keeps P s00 (insertStart s t k repl) := by
  unfold insertStart
  try extract_lets
  repeat' with_reducible first | assumption | apply q_arr | apply q_regs | intro _ | apply modCellX_keeps | apply setCellSt_keeps | apply modStrX_keeps | apply Keeps.dite | split | dsimp only

theorem insertSpare_keeps {P : Part → Prop} {s00 : State} {s : State} (hk : Keeps P s00 s) (t : Twin) (k : Nat) (repl : Option Nat) (q_arr : ¬ P (.tw t .arr)) (q_regs : ∀ u, ¬ P (.tw u .regs)) (q_rings : ∀ u, ¬ P (.tw u .rings)) (p_sluice : ¬ P .sluice) :
    Keeps P s00 (insertSpare s t k repl) := by
  unfold insertSpare
  try extract_lets
  repeat' with_reducible first | assumption | apply q_arr | apply q_regs | apply q_rings | apply p_sluice | intro _ | apply trainChains_keeps | apply modCellX_keeps | apply insertStart_keeps | apply Keeps.dite | split | dsimp only

theorem bypassOne_keeps {P : Part → Prop} {s00 : State} {s : State} (hk : Keeps P s00 s) (t : Twin) (k cause : Nat)
    (q_arr : ¬ P (.tw t .arr)) (q_regs : ¬ P (.tw t .regs)) :
    Keeps P s00 (bypassOne s t k cause) := by
  unfold bypassOne
  extract_lets
  repeat' with_reducible first
    | assumption | apply q_arr | apply q_regs | intro _ | apply wf_keeps | apply setCellSt_keeps
    | apply modCellX_keeps | apply ev_keeps | apply Keeps.dite

theorem noteSpare_keeps {P : Part → Prop} {s00 : State} {s : State} (hk : Keeps P s00 s) (t : Twin) (k : Nat) (rank : Bool) (p : Option Nat) (q_arr : ¬ P (.tw t .arr)) :
    Keeps P s00 (noteSpare s t k rank p) := by
  unfold noteSpare
  try extract_lets
  repeat' with_reducible first | assumption | apply q_arr | intro _ | apply modArr_keeps | apply Keeps.dite | split | dsimp only

theorem replaceOne_keeps {P : Part → Prop} {s00 : State} {s : State} (hk : Keeps P s00 s) (t : Twin) (k : Nat) (q_arr : ¬ P (.tw t .arr)) (q_regs : ∀ u, ¬ P (.tw u .regs)) (q_rings : ∀ u, ¬ P (.tw u .rings)) (p_sluice : ¬ P .sluice) :
    Keeps P s00 (replaceOne s t k) := by
  unfold replaceOne
  try extract_lets
  repeat' with_reducible first | assumption | apply q_arr | apply q_regs | apply q_rings | apply p_sluice | intro _ | apply noteSpare_keeps | apply insertSpare_keeps | apply ev_keeps | apply Keeps.dite | split | dsimp only

theorem assignRanks_keeps {P : Part → Prop} {s00 : State} {s : State} (hk : Keeps P s00 s) (t : Twin) (st : Nat) (q_arr : ¬ P (.tw t .arr)) :
    Keeps P s00 (assignRanks s t st) := by
  unfold assignRanks
  try extract_lets
  repeat' with_reducible first | assumption | apply q_arr | intro _ | apply modStrX_keeps | apply Keeps.dite | apply Keeps.foldl | apply Keeps.foldl₁ | apply Keeps.foldl₂ | split | dsimp only

theorem keepRanks_keeps {P : Part → Prop} {s00 : State} {s : State} (hk : Keeps P s00 s) (t : Twin) (st : Nat) (q_arr : ¬ P (.tw t .arr)) :
    Keeps P s00 (keepRanks t s st) := by
  unfold keepRanks
  try extract_lets
  repeat' with_reducible first | assumption | apply q_arr | intro _ | apply modArr_keeps | apply Keeps.dite | split | dsimp only

theorem insertAlone_keeps {P : Part → Prop} {s00 : State} {s : State} (hk : Keeps P s00 s) (t : Twin) (k : Nat)
    (q_arr : ¬ P (.tw t .arr)) (q_regs : ∀ u, ¬ P (.tw u .regs)) (q_rings : ∀ u, ¬ P (.tw u .rings)) (p_sluice : ¬ P .sluice)
    :
    Keeps P s00 (insertAlone s t k) := by
  unfold insertAlone
  repeat' with_reducible first
    | assumption | apply q_arr | apply q_regs | apply q_rings | apply p_sluice | intro _ | apply rerank_keeps
    | apply insertSpare_keeps

theorem bypassCells_keeps {P : Part → Prop} {s00 : State} {s : State} (hk : Keeps P s00 s) (t : Twin) (l : List (Nat × Nat)) (q_arr : ¬ P (.tw t .arr)) (q_regs : ∀ u, ¬ P (.tw u .regs)) (q_rings : ∀ u, ¬ P (.tw u .rings)) (p_sluice : ¬ P .sluice) (q_twn : ∀ u, ¬ P (.tw u .twn)) :
    Keeps P s00 (bypassCells s t l) := by
  unfold bypassCells
  try extract_lets
  repeat' with_reducible first | assumption | apply q_arr | apply q_regs | apply q_rings | apply p_sluice | apply q_twn | intro _ | apply keepRanks_keeps | apply bypassOne_keeps | apply replaceOne_keeps | apply rerank_keeps | apply assignRanks_keeps | apply blockArray_keeps | apply Keeps.dite | apply Keeps.foldl | apply Keeps.foldl₁ | apply Keeps.foldl₂ | split | dsimp only

theorem bypassCell_keeps {P : Part → Prop} {s00 : State} {s : State} (hk : Keeps P s00 s) (t : Twin) (k cause : Nat) (q_arr : ¬ P (.tw t .arr)) (q_regs : ∀ u, ¬ P (.tw u .regs)) (q_rings : ∀ u, ¬ P (.tw u .rings)) (p_sluice : ¬ P .sluice) (q_twn : ∀ u, ¬ P (.tw u .twn)) :
    Keeps P s00 (bypassCell s t k cause) := by
  unfold bypassCell
  try extract_lets
  repeat' with_reducible first | assumption | apply q_arr | apply q_regs | apply q_rings | apply p_sluice | apply q_twn | intro _ | apply bypassCells_keeps | apply Keeps.dite | split | dsimp only

/-! Machine/DispatchOps.lean. -/

theorem enterActive_keeps {P : Part → Prop} {s00 : State} {s : State} (hk : Keeps P s00 s) (t : Twin) (k : Nat) (q_arr : ¬ P (.tw t .arr)) (q_regs : ¬ P (.tw t .regs)) :
    Keeps P s00 (enterActive s t k) := by
  unfold enterActive
  try extract_lets
  repeat' with_reducible first | assumption | apply q_arr | apply q_regs | intro _ | apply modCellX_keeps | apply wr_keeps | apply setCellSt_keeps | apply Keeps.dite | split | dsimp only

theorem applyRun_keeps {P : Part → Prop} {s00 : State} {s : State} (hk : Keeps P s00 s) (t : Twin) (st : Nat) (q_arr : ¬ P (.tw t .arr)) (q_regs : ¬ P (.tw t .regs)) :
    Keeps P s00 (applyRun s t st) := by
  unfold applyRun
  try extract_lets
  repeat' with_reducible first | assumption | apply q_arr | apply q_regs | intro _ | apply modCellX_keeps | apply enterActive_keeps | apply showString_keeps | apply rerank_keeps | apply modStrX_keeps | apply setCellSt_keeps | apply Keeps.dite | apply Keeps.foldl | apply Keeps.foldl₁ | apply Keeps.foldl₂ | split | dsimp only

theorem rampTarget_keeps {P : Part → Prop} {s00 : State} {s : State} (hk : Keeps P s00 s) (t : Twin) (k : Nat)
    (mean : W32) (q_arr : ¬ P (.tw t .arr)) :
    Keeps P s00 (rampTarget s t k mean) := by
  unfold rampTarget
  extract_lets
  repeat' with_reducible first | assumption | apply q_arr | intro _ | apply modCellX_keeps

theorem insertions_keeps {P : Part → Prop} {s00 : State} {s : State} (hk : Keeps P s00 s) (t : Twin) (st : Nat) (q_arr : ¬ P (.tw t .arr)) (q_regs : ¬ P (.tw t .regs)) :
    Keeps P s00 (insertions s t st) := by
  unfold insertions
  try extract_lets
  repeat' with_reducible first | assumption | apply q_arr | apply q_regs | intro _ | apply rampTarget_keeps | apply showString_keeps | apply enterActive_keeps | apply Keeps.dite | apply Keeps.foldl | apply Keeps.foldl₁ | apply Keeps.foldl₂ | split | dsimp only

theorem derate_keeps {P : Part → Prop} {s00 : State} {s : State} (hk : Keeps P s00 s) (t : Twin) (st : Nat) (q_arr : ¬ P (.tw t .arr))
    (q_regs : ¬ P (.tw t .regs)) :
    Keeps P s00 (derate s t st) := by
  unfold derate
  extract_lets
  repeat' with_reducible first
    | assumption | apply q_arr | apply q_regs | intro _ | apply modStrX_keeps | apply wr_keeps | apply evi_keeps
    | apply clri_keeps | apply ev_keeps | apply Keeps.dite

theorem putSlot_keeps {P : Part → Prop} {s00 : State} {s : State} (hk : Keeps P s00 s) (t : Twin) (k : Nat) (x : Slot)
    (m : ModSt) (q_arr : ¬ P (.tw t .arr)) :
    Keeps P s00 (putSlot s t k x m) := by
  unfold putSlot
  repeat' with_reducible first | assumption | apply q_arr | intro _ | apply modArr_keeps

theorem runSlot_keeps {P : Part → Prop} {s00 : State} {s : State} (hk : Keeps P s00 s) (t : Twin) (st k n : Nat) (ms : W32) (trims : List (Nat × W32)) (q_arr : ¬ P (.tw t .arr)) (q_regs : ¬ P (.tw t .regs)) :
    Keeps P s00 (runSlot s t st k n ms trims) := by
  unfold runSlot
  try extract_lets
  repeat' with_reducible first | assumption | apply q_arr | apply q_regs | intro _ | apply wr_keeps | apply putSlot_keeps | apply modCellX_keeps | apply modArr_keeps | apply cntBy_keeps | apply Keeps.dite | split | dsimp only

theorem stillSlot_keeps {P : Part → Prop} {s00 : State} {s : State} (hk : Keeps P s00 s) (t : Twin) (st k mode : Nat)
    (phase : Int) (isoBlock faultReset : Bool) (q_arr : ¬ P (.tw t .arr)) :
    Keeps P s00 (stillSlot s t st k mode phase isoBlock faultReset) := by
  unfold stillSlot
  extract_lets
  repeat' with_reducible first | assumption | apply q_arr | intro _ | apply modCellX_keeps | apply putSlot_keeps

theorem cellSlot_keeps {P : Part → Prop} {s00 : State} {s : State} (hk : Keeps P s00 s) (t : Twin) (st n : Nat) (ms : W32) (trims : List (Nat × W32)) (k : Nat) (q_arr : ¬ P (.tw t .arr)) (q_regs : ¬ P (.tw t .regs)) :
    Keeps P s00 (cellSlot s t st n ms trims k) := by
  unfold cellSlot
  try extract_lets
  repeat' with_reducible first | assumption | apply q_arr | apply q_regs | intro _ | apply stillSlot_keeps | apply runSlot_keeps | apply Keeps.dite | split | dsimp only

theorem cycleSums_keeps {P : Part → Prop} {s00 : State} {s : State} (hk : Keeps P s00 s) (t : Twin) (st : Nat) (q_arr : ¬ P (.tw t .arr)) :
    Keeps P s00 (cycleSums s t st) := by
  unfold cycleSums
  try extract_lets
  repeat' with_reducible first | assumption | apply q_arr | intro _ | apply modCellX_keeps | apply modStrX_keeps | apply Keeps.dite | apply Keeps.foldl | apply Keeps.foldl₁ | apply Keeps.foldl₂ | split | dsimp only

theorem stringUpdate_keeps {P : Part → Prop} {s00 : State} {s : State} (hk : Keeps P s00 s) (t : Twin) (st : Nat)
    (q_arr : ¬ P (.tw t .arr)) (q_regs : ¬ P (.tw t .regs)) :
    Keeps P s00 (stringUpdate s t st) := by
  unfold stringUpdate
  repeat' with_reducible first
    | assumption | apply q_arr | apply q_regs | intro _ | apply derate_keeps | apply cycleSums_keeps
    | apply insertions_keeps | apply applyRun_keeps

theorem stringSlots_keeps {P : Part → Prop} {s00 : State} {s : State} (hk : Keeps P s00 s) (t : Twin) (n st : Nat)
    (q_arr : ¬ P (.tw t .arr)) (q_regs : ¬ P (.tw t .regs)) :
    Keeps P s00 (stringSlots s t n st) := by
  unfold stringSlots
  extract_lets
  repeat' with_reducible first
    | assumption | apply q_arr | apply q_regs | intro _ | apply cellSlot_keeps | apply Keeps.dite
    | apply Keeps.foldl

theorem dispatch_keeps {P : Part → Prop} {s00 : State} {s : State} (hk : Keeps P s00 s) (t : Twin) (n : Nat) (q_arr : ¬ P (.tw t .arr)) (q_regs : ¬ P (.tw t .regs)) :
    Keeps P s00 (dispatch s t n) := by
  unfold dispatch
  try extract_lets
  repeat' with_reducible first | assumption | apply q_arr | apply q_regs | intro _ | apply stringUpdate_keeps | apply modArr_keeps | apply stringSlots_keeps | apply Keeps.dite | apply Keeps.foldl | apply Keeps.foldl₁ | apply Keeps.foldl₂ | split | dsimp only

theorem countEdges_keeps {P : Part → Prop} {s00 : State} {s : State} (hk : Keeps P s00 s) (t : Twin) (q_arr : ¬ P (.tw t .arr)) :
    Keeps P s00 (countEdges s t) := by
  unfold countEdges
  try extract_lets
  repeat' with_reducible first | assumption | apply q_arr | intro _ | apply modArr_keeps | apply modStrX_keeps | apply modCellX_keeps | apply Keeps.dite | apply Keeps.foldl | apply Keeps.foldl₁ | apply Keeps.foldl₂ | split | dsimp only

theorem commitMods_keeps {P : Part → Prop} {s00 : State} {s : State} (hk : Keeps P s00 s) (t : Twin) (q_arr : ¬ P (.tw t .arr)) :
    Keeps P s00 (commitMods s t) := by
  unfold commitMods
  try extract_lets
  repeat' with_reducible first | assumption | apply q_arr | intro _ | apply modArr_keeps | apply countEdges_keeps | apply Keeps.dite | apply Keeps.foldl | apply Keeps.foldl₁ | apply Keeps.foldl₂ | split | refine Keeps.fields ?_ _ _ _ _ _ _ _ _ _ _ ?_ ?_ ?_ ?_ ?_ ?_ ?_ ?_ (fun k => k.cells) (fun k => k.ctx) | exact rfl | exact absurd ‹_› (by assumption) | dsimp only

theorem repeatMods_keeps {P : Part → Prop} {s00 : State} {s : State} (hk : Keeps P s00 s) (t : Twin) (q_arr : ¬ P (.tw t .arr)) :
    Keeps P s00 (repeatMods s t) := by
  unfold repeatMods
  try extract_lets
  repeat' with_reducible first | assumption | apply q_arr | intro _ | apply modArr_keeps | apply Keeps.dite | apply Keeps.foldl | apply Keeps.foldl₁ | apply Keeps.foldl₂ | split | refine Keeps.fields ?_ _ _ _ _ _ _ _ _ _ _ ?_ ?_ ?_ ?_ ?_ ?_ ?_ ?_ (fun k => k.cells) (fun k => k.ctx) | exact rfl | exact absurd ‹_› (by assumption) | dsimp only

/-! Machine/Array.lean. -/

theorem arrayEnable_keeps {P : Part → Prop} {s00 : State} {s : State} (hk : Keeps P s00 s) (q_arr : ∀ u, ¬ P (.tw u .arr)) (q_regs : ∀ u, ¬ P (.tw u .regs)) (q_rings : ∀ u, ¬ P (.tw u .rings)) (p_sluice : ¬ P .sluice) :
    Keeps P s00 (arrayEnable s) := by
  unfold arrayEnable
  try extract_lets
  repeat' with_reducible first | assumption | apply q_arr | apply q_regs | apply q_rings | apply p_sluice | intro _ | apply budget_keeps | apply say_keeps | apply leaveAsk_keeps | apply onBoth_keeps | apply modArr_keeps | apply wf_keeps | apply setRing_keeps | apply trainChains_keeps | apply Keeps.dite | apply Keeps.foldl | apply Keeps.foldl₁ | apply Keeps.foldl₂ | split | dsimp only

theorem execArrayEnable_keeps {P : Part → Prop} {s00 : State} {s : State} (hk : Keeps P s00 s) (q_arr : ∀ u, ¬ P (.tw u .arr))
    (q_regs : ∀ u, ¬ P (.tw u .regs)) (q_rings : ∀ u, ¬ P (.tw u .rings)) (p_sluice : ¬ P .sluice) :
    OutKeeps P s00 (execArrayEnable s) := by
  unfold execArrayEnable
  repeat' with_reducible first
    | assumption | apply q_arr | apply q_regs | apply q_rings | apply p_sluice | intro _ | apply OutKeeps.next
    | apply OutKeeps.dite | apply arrayEnable_keeps

theorem arrayStop_keeps {P : Part → Prop} {s00 : State} {s : State} (hk : Keeps P s00 s) (q_arr : ∀ u, ¬ P (.tw u .arr)) (q_regs : ∀ u, ¬ P (.tw u .regs)) (q_rings : ∀ u, ¬ P (.tw u .rings)) (p_sluice : ¬ P .sluice) :
    Keeps P s00 (arrayStop s) := by
  unfold arrayStop
  try extract_lets
  repeat' with_reducible first | assumption | apply q_arr | apply q_regs | apply q_rings | apply p_sluice | intro _ | apply onBoth_keeps | apply wf_keeps | apply modRingX_keeps | apply setRing_keeps | apply ran_keeps | apply modArr_keeps | apply dropTraining_keeps | apply Keeps.dite | apply Keeps.foldl | apply Keeps.foldl₁ | apply Keeps.foldl₂ | split | dsimp only

theorem execArrayStop_keeps {P : Part → Prop} {s00 : State} {s : State} (hk : Keeps P s00 s) (q_arr : ∀ u, ¬ P (.tw u .arr))
    (q_regs : ∀ u, ¬ P (.tw u .regs)) (q_rings : ∀ u, ¬ P (.tw u .rings)) (p_sluice : ¬ P .sluice) :
    OutKeeps P s00 (execArrayStop s) := by
  unfold execArrayStop
  repeat' with_reducible first
    | assumption | apply q_arr | apply q_regs | apply q_rings | apply p_sluice | intro _ | apply OutKeeps.next
    | apply OutKeeps.dite | apply arrayStop_keeps | apply Keeps.dite

theorem mapEntryWrite_keeps {P : Part → Prop} {s00 : State} {s : State} (hk : Keeps P s00 s) (k : Nat) (v : W32)
    (q_regs : ∀ u, ¬ P (.tw u .regs)) :
    Keeps P s00 (mapEntryWrite s k v) := by
  unfold mapEntryWrite
  extract_lets
  repeat' with_reducible first
    | assumption | apply q_regs | intro _ | apply say_keeps | apply onBoth_keeps | apply wr_keeps | apply Keeps.dite

theorem execMapEntryWrite_keeps {P : Part → Prop} {s00 : State} {s : State} (hk : Keeps P s00 s) (k : Fin 192) (v : W32)
    (q_regs : ∀ u, ¬ P (.tw u .regs)) :
    OutKeeps P s00 (execMapEntryWrite k v s) := by
  unfold execMapEntryWrite
  repeat' with_reducible first
    | assumption | apply q_regs | intro _ | apply OutKeeps.next | apply OutKeeps.dite | apply mapEntryWrite_keeps

theorem rotate_keeps {P : Part → Prop} {s00 : State} {s : State} (hk : Keeps P s00 s) (t : Twin) (st : Nat) (q_arr : ¬ P (.tw t .arr))
    (q_regs : ¬ P (.tw t .regs)) :
    Keeps P s00 (rotate s t st) := by
  unfold rotate
  extract_lets
  repeat' with_reducible first
    | assumption | apply q_arr | apply q_regs | intro _ | apply modStrX_keeps | apply showRanks_keeps
    | apply Keeps.dite

theorem execCarrierRotation_keeps {P : Part → Prop} {s00 : State} {s : State} (hk : Keeps P s00 s) (st : Fin 6)
    (q_arr : ∀ u, ¬ P (.tw u .arr)) (q_regs : ∀ u, ¬ P (.tw u .regs)) :
    OutKeeps P s00 (execCarrierRotation st s) := by
  unfold execCarrierRotation
  repeat' with_reducible first
    | assumption | apply q_arr | apply q_regs | intro _ | apply OutKeeps.next | apply OutKeeps.dite
    | apply onComputing_keeps | apply rotate_keeps

theorem addDamage_keeps {P : Part → Prop} {s00 : State} {s : State} (hk : Keeps P s00 s) (t : Twin) (k : Nat) (range mean : W32) (half : Bool) (q_regs : ¬ P (.tw t .regs)) :
    Keeps P s00 (addDamage s t k range mean half) := by
  unfold addDamage
  try extract_lets
  repeat' with_reducible first | assumption | apply q_regs | intro _ | apply cnt_keeps | apply setDamage_keeps | apply Keeps.dite | split | dsimp only

theorem pushTurn_keeps {P : Part → Prop} {s00 : State} {s : State} (hk : Keeps P s00 s) (t : Twin) (k : Nat) (v : W32)
    (q_arr : ¬ P (.tw t .arr)) (q_regs : ¬ P (.tw t .regs)) :
    Keeps P s00 (pushTurn s t k v) := by
  unfold pushTurn
  extract_lets
  repeat' with_reducible first
    | assumption | apply q_arr | apply q_regs | intro _ | apply addDamage_keeps | apply modCellX_keeps
    | apply Keeps.dite | apply Keeps.foldl

theorem rainflow_keeps {P : Part → Prop} {s00 : State} {s : State} (hk : Keeps P s00 s) (t : Twin) (k : Nat) (tj : W32)
    (q_arr : ¬ P (.tw t .arr)) (q_regs : ¬ P (.tw t .regs)) :
    Keeps P s00 (rainflow s t k tj) := by
  unfold rainflow
  extract_lets
  repeat' with_reducible first
    | assumption | apply q_arr | apply q_regs | intro _ | apply pushTurn_keeps | apply modCellX_keeps
    | apply Keeps.dite | split

theorem thermalCell_keeps {P : Part → Prop} {s00 : State} {s : State} (hk : Keeps P s00 s) (t : Twin) (k : Nat)
    (q_arr : ¬ P (.tw t .arr)) (q_regs : ¬ P (.tw t .regs)) :
    Keeps P s00 (thermalCell s t k) := by
  unfold thermalCell
  extract_lets
  repeat' with_reducible first
    | assumption | apply q_arr | apply q_regs | intro _ | apply modCellX_keeps | apply rainflow_keeps
    | apply wr_keeps

theorem execThermalUpdate_keeps {P : Part → Prop} {s00 : State} {s : State} (hk : Keeps P s00 s) (t : Twin) (q_arr : ¬ P (.tw t .arr))
    (q_regs : ¬ P (.tw t .regs)) :
    OutKeeps P s00 (execThermalUpdate t s) := by
  unfold execThermalUpdate
  repeat' with_reducible first
    | assumption | apply q_arr | apply q_regs | intro _ | apply OutKeeps.next | apply OutKeeps.dite
    | apply thermalCell_keeps | apply Keeps.dite | apply Keeps.foldl

theorem holdWeights_keeps {P : Part → Prop} {s00 : State} {s : State} (hk : Keeps P s00 s) (t : Twin) (q_regs : ¬ P (.tw t .regs)) :
    Keeps P s00 (holdWeights s t) := by
  unfold holdWeights
  try extract_lets
  repeat' with_reducible first | assumption | apply q_regs | intro _ | apply wr_keeps | apply Keeps.dite | apply Keeps.foldl | apply Keeps.foldl₁ | apply Keeps.foldl₂ | split | dsimp only

theorem execWeightUpdate_keeps {P : Part → Prop} {s00 : State} {s : State} (hk : Keeps P s00 s) (t : Twin) (q_regs : ¬ P (.tw t .regs))
    :
    OutKeeps P s00 (execWeightUpdate t s) := by
  unfold execWeightUpdate
  repeat' with_reducible first
    | assumption | apply q_regs | intro _ | apply OutKeeps.next | apply OutKeeps.dite | apply wr_keeps
    | apply Keeps.dite | apply Keeps.foldl

theorem wearWrite_keeps {P : Part → Prop} {s00 : State} {s : State} (hk : Keeps P s00 s) (t : Twin) (ok : Bool) (q_flash : ¬ P (.tw t .flash)) (q_regs : ¬ P (.tw t .regs)) :
    Keeps P s00 (wearWrite s t ok) := by
  unfold wearWrite
  try extract_lets
  repeat' with_reducible first | assumption | apply q_flash | apply q_regs | intro _ | apply modFlash_keeps | apply ev_keeps | apply Keeps.dite | split | dsimp only

theorem execWearRecordSave_keeps {P : Part → Prop} {s00 : State} {s : State} (hk : Keeps P s00 s) (t : Twin) (ok : Bool)
    (q_flash : ¬ P (.tw t .flash)) (q_regs : ∀ u, ¬ P (.tw u .regs)) (p_sluice : ¬ P .sluice) :
    OutKeeps P s00 (execWearRecordSave t ok s) := by
  unfold execWearRecordSave
  extract_lets
  repeat' with_reducible first
    | assumption | apply q_flash | apply q_regs | apply p_sluice | intro _ | apply OutKeeps.next
    | apply OutKeeps.dite | apply leaveAsk_keeps | apply ev_keeps | apply leaveEndFor_keeps | apply wearWrite_keeps
    | apply Keeps.dite

theorem estCell_keeps {P : Part → Prop} {s00 : State} {s : State} (hk : Keeps P s00 s) (t : Twin) (k : Nat) (omega : W32) (q_arr : ¬ P (.tw t .arr)) (q_regs : ¬ P (.tw t .regs)) :
    Keeps P s00 (estCell s t k omega) := by
  unfold estCell
  try extract_lets
  repeat' with_reducible first | assumption | apply q_arr | apply q_regs | intro _ | apply modCellX_keeps | apply wf_keeps | apply wr_keeps | apply Keeps.dite | split | dsimp only

theorem execEstimatorResult_keeps {P : Part → Prop} {s00 : State} {s : State} (hk : Keeps P s00 s) (t : Twin) (st : Fin 6) (q_arr : ¬ P (.tw t .arr)) (q_regs : ¬ P (.tw t .regs)) :
    OutKeeps P s00 (execEstimatorResult t st s) := by
  unfold execEstimatorResult
  try extract_lets
  repeat' with_reducible first | assumption | apply q_arr | apply q_regs | intro _ | apply OutKeeps.next | apply OutKeeps.dite | apply modStrX_keeps | apply estCell_keeps | apply Keeps.dite | apply Keeps.foldl | apply Keeps.foldl₁ | apply Keeps.foldl₂ | split | dsimp only

theorem execImbalanceDetected_keeps {P : Part → Prop} {s00 : State} {s : State} (hk : Keeps P s00 s) (k : Fin 192) (q_arr : ∀ u, ¬ P (.tw u .arr)) (q_regs : ∀ u, ¬ P (.tw u .regs)) (q_rings : ∀ u, ¬ P (.tw u .rings)) (p_sluice : ¬ P .sluice) (q_twn : ∀ u, ¬ P (.tw u .twn)) :
    OutKeeps P s00 (execImbalanceDetected k s) := by
  unfold execImbalanceDetected
  try extract_lets
  repeat' with_reducible first | assumption | apply q_arr | apply q_regs | apply q_rings | apply p_sluice | apply q_twn | intro _ | apply OutKeeps.next | apply OutKeeps.dite | apply onComputing_keeps | apply bypassCell_keeps | apply Keeps.dite | split | dsimp only

theorem execCellLostDetected_keeps {P : Part → Prop} {s00 : State} {s : State} (hk : Keeps P s00 s) (k : Fin 192) (q_arr : ∀ u, ¬ P (.tw u .arr)) (q_regs : ∀ u, ¬ P (.tw u .regs)) (q_rings : ∀ u, ¬ P (.tw u .rings)) (p_sluice : ¬ P .sluice) (q_twn : ∀ u, ¬ P (.tw u .twn)) :
    OutKeeps P s00 (execCellLostDetected k s) := by
  unfold execCellLostDetected
  try extract_lets
  repeat' with_reducible first | assumption | apply q_arr | apply q_regs | apply q_rings | apply p_sluice | apply q_twn | intro _ | apply OutKeeps.next | apply OutKeeps.dite | apply onComputing_keeps | apply bypassCell_keeps | apply Keeps.dite | split | dsimp only

theorem cellBypass_keeps {P : Part → Prop} {s00 : State} {s : State} (hk : Keeps P s00 s) (k : Nat) (q_arr : ∀ u, ¬ P (.tw u .arr)) (q_regs : ∀ u, ¬ P (.tw u .regs)) (q_rings : ∀ u, ¬ P (.tw u .rings)) (p_sluice : ¬ P .sluice) (q_twn : ∀ u, ¬ P (.tw u .twn)) :
    Keeps P s00 (cellBypass s k) := by
  unfold cellBypass
  try extract_lets
  repeat' with_reducible first | assumption | apply q_arr | apply q_regs | apply q_rings | apply p_sluice | apply q_twn | intro _ | apply say_keeps | apply onComputing_keeps | apply bypassCell_keeps | apply Keeps.dite | split | dsimp only

theorem execCellBypass_keeps {P : Part → Prop} {s00 : State} {s : State} (hk : Keeps P s00 s) (k : Fin 192) (q_arr : ∀ u, ¬ P (.tw u .arr)) (q_regs : ∀ u, ¬ P (.tw u .regs)) (q_rings : ∀ u, ¬ P (.tw u .rings)) (p_sluice : ¬ P .sluice) (q_twn : ∀ u, ¬ P (.tw u .twn)) :
    OutKeeps P s00 (execCellBypass k s) := by
  unfold execCellBypass
  try extract_lets
  repeat' with_reducible first | assumption | apply q_arr | apply q_regs | apply q_rings | apply p_sluice | apply q_twn | intro _ | apply OutKeeps.next | apply OutKeeps.dite | apply cellBypass_keeps | apply Keeps.dite | split | dsimp only

theorem execBypassUnconfirmed_keeps {P : Part → Prop} {s00 : State} {s : State} (hk : Keeps P s00 s) (k : Fin 192) (q_arr : ∀ u, ¬ P (.tw u .arr)) (q_regs : ∀ u, ¬ P (.tw u .regs)) (q_twn : ∀ u, ¬ P (.tw u .twn)) :
    OutKeeps P s00 (execBypassUnconfirmed k s) := by
  unfold execBypassUnconfirmed
  try extract_lets
  repeat' with_reducible first | assumption | apply q_arr | apply q_regs | apply q_twn | intro _ | apply OutKeeps.next | apply OutKeeps.dite | apply onComputing_keeps | apply blockArray_keeps | apply Keeps.dite | split | dsimp only

theorem cellInsert_keeps {P : Part → Prop} {s00 : State} {s : State} (hk : Keeps P s00 s) (k : Nat) (q_arr : ∀ u, ¬ P (.tw u .arr))
    (q_regs : ∀ u, ¬ P (.tw u .regs)) (q_rings : ∀ u, ¬ P (.tw u .rings)) (p_sluice : ¬ P .sluice) :
    Keeps P s00 (cellInsert s k) := by
  unfold cellInsert
  extract_lets
  repeat' with_reducible first
    | assumption | apply q_arr | apply q_regs | apply q_rings | apply p_sluice | intro _ | apply say_keeps
    | apply onComputing_keeps | apply insertAlone_keeps | apply Keeps.dite

theorem execCellInsert_keeps {P : Part → Prop} {s00 : State} {s : State} (hk : Keeps P s00 s) (k : Fin 192) (q_arr : ∀ u, ¬ P (.tw u .arr))
    (q_regs : ∀ u, ¬ P (.tw u .regs)) (q_rings : ∀ u, ¬ P (.tw u .rings)) (p_sluice : ¬ P .sluice) :
    OutKeeps P s00 (execCellInsert k s) := by
  unfold execCellInsert
  repeat' with_reducible first
    | assumption | apply q_arr | apply q_regs | apply q_rings | apply p_sluice | intro _ | apply OutKeeps.next
    | apply OutKeeps.dite | apply cellInsert_keeps

theorem execSpareInsertStart_keeps {P : Part → Prop} {s00 : State} {s : State} (hk : Keeps P s00 s) (k : Fin 192)
    (q_arr : ∀ u, ¬ P (.tw u .arr)) (q_regs : ∀ u, ¬ P (.tw u .regs)) :
    OutKeeps P s00 (execSpareInsertStart k s) := by
  unfold execSpareInsertStart
  repeat' with_reducible first
    | assumption | apply q_arr | apply q_regs | intro _ | apply OutKeeps.next | apply OutKeeps.dite
    | apply onComputing_keeps | apply rerank_keeps | apply insertStart_keeps | apply Keeps.dite

theorem execInsertTimeout_keeps {P : Part → Prop} {s00 : State} {s : State} (hk : Keeps P s00 s) (k : Fin 192) (q_arr : ∀ u, ¬ P (.tw u .arr)) (q_regs : ∀ u, ¬ P (.tw u .regs)) (q_rings : ∀ u, ¬ P (.tw u .rings)) (p_sluice : ¬ P .sluice) (q_twn : ∀ u, ¬ P (.tw u .twn)) :
    OutKeeps P s00 (execInsertTimeout k s) := by
  unfold execInsertTimeout
  try extract_lets
  repeat' with_reducible first | assumption | apply q_arr | apply q_regs | apply q_rings | apply p_sluice | apply q_twn | intro _ | apply OutKeeps.next | apply OutKeeps.dite | apply onComputing_keeps | apply bypassCell_keeps | apply ev_keeps | apply Keeps.dite | split | dsimp only

theorem readmitOne_keeps {P : Part → Prop} {s00 : State} {s : State} (hk : Keeps P s00 s) (t : Twin) (k : Nat) (q_arr : ¬ P (.tw t .arr)) (q_regs : ¬ P (.tw t .regs)) :
    Keeps P s00 (readmitOne s t k) := by
  unfold readmitOne
  try extract_lets
  repeat' with_reducible first | assumption | apply q_arr | apply q_regs | intro _ | apply wr_keeps | apply setCellSt_keeps | apply showString_keeps | apply modCellX_keeps | apply Keeps.dite | split | dsimp only

theorem cellReadmit_keeps {P : Part → Prop} {s00 : State} {s : State} (hk : Keeps P s00 s) (k : Nat) (q_arr : ∀ u, ¬ P (.tw u .arr))
    (q_regs : ∀ u, ¬ P (.tw u .regs)) :
    Keeps P s00 (cellReadmit s k) := by
  unfold cellReadmit
  extract_lets
  repeat' with_reducible first
    | assumption | apply q_arr | apply q_regs | intro _ | apply say_keeps | apply onBoth_keeps
    | apply readmitOne_keeps | apply Keeps.dite

theorem execCellReadmit_keeps {P : Part → Prop} {s00 : State} {s : State} (hk : Keeps P s00 s) (k : Fin 192)
    (q_arr : ∀ u, ¬ P (.tw u .arr)) (q_regs : ∀ u, ¬ P (.tw u .regs)) :
    OutKeeps P s00 (execCellReadmit k s) := by
  unfold execCellReadmit
  repeat' with_reducible first
    | assumption | apply q_arr | apply q_regs | intro _ | apply OutKeeps.next | apply OutKeeps.dite
    | apply cellReadmit_keeps

theorem execDispatchDeadline_keeps {P : Part → Prop} {s00 : State} {s : State} (hk : Keeps P s00 s) (t : Twin) (q_arr : ¬ P (.tw t .arr)) (p_edge : ¬ P .edge) (q_flash : ¬ P (.tw t .flash)) (p_ilk : ¬ P .ilk) (p_net : ¬ P .net) (q_regs : ∀ u, ¬ P (.tw u .regs)) (q_twn : ∀ u, ¬ P (.tw u .twn)) :
    OutKeeps P s00 (execDispatchDeadline t s) := by
  unfold execDispatchDeadline
  try extract_lets
  repeat' with_reducible first | assumption | apply q_arr | apply p_edge | apply q_flash | apply p_ilk | apply p_net | apply q_regs | apply q_twn | intro _ | apply OutKeeps.next | apply OutKeeps.dite | apply modArr_keeps | apply evi_keeps | apply cnt_keeps | apply modTwn_keeps | apply safeStop_keeps | apply withdraw_keeps | apply Keeps.dite | split | dsimp only

/-! Machine/Streams.lean. -/

theorem setQueue_keeps {P : Part → Prop} {s00 : State} {s : State} (hk : Keeps P s00 s) (t : Twin) (q : Nat) (x : QueueSt)
    (q_queues : ¬ P (.tw t .queues)) :
    Keeps P s00 (setQueue s t q x) :=
  hk.setTwRegs rfl (fun k => ⟨(k.tw t).rings, (k.tw t).uplinks, (k.tw t).upOld, (k.tw t).exps, (k.tw t).can, (k.tw t).neg, (k.tw t).xings, tabWf_tabSet (fun _ => {}) (k.tw t).queues q x⟩)
    fun g hg => by cases g <;> first | rfl | exact absurd hg q_queues

theorem putQueue_keeps {P : Part → Prop} {s00 : State} {s : State} (hk : Keeps P s00 s) (t : Twin) (q : Nat) (x : QueueSt)
    (q_queues : ¬ P (.tw t .queues)) (q_regs : ¬ P (.tw t .regs)) :
    Keeps P s00 (putQueue s t q x) := by
  unfold putQueue
  extract_lets
  repeat' with_reducible first
    | assumption | apply q_queues | apply q_regs | intro _ | apply setQueue_keeps | apply wf_keeps | apply ev_keeps
    | apply Keeps.dite

theorem exchange_keeps {P : Part → Prop} {s00 : State} {s : State} (hk : Keeps P s00 s) (t : Twin) (q : Nat)
    (q_queues : ¬ P (.tw t .queues)) (q_regs : ¬ P (.tw t .regs)) :
    Keeps P s00 (exchange s t q) := by
  unfold exchange
  extract_lets
  repeat' with_reducible first
    | assumption | apply q_queues | apply q_regs | intro _ | apply wf_keeps | apply putQueue_keeps
    | apply Keeps.dite

theorem closeFill_keeps {P : Part → Prop} {s00 : State} {s : State} (hk : Keeps P s00 s) (t : Twin) (q : Nat)
    (q_queues : ¬ P (.tw t .queues)) (q_regs : ¬ P (.tw t .regs)) :
    Keeps P s00 (closeFill s t q) := by
  unfold closeFill
  repeat' with_reducible first
    | assumption | apply q_queues | apply q_regs | intro _ | apply exchange_keeps | apply putQueue_keeps

theorem svTake_keeps {P : Part → Prop} {s00 : State} {s : State} (hk : Keeps P s00 s) (t : Twin) (q : Nat) (q_queues : ¬ P (.tw t .queues)) (q_regs : ¬ P (.tw t .regs)) :
    Keeps P s00 (svTake s t q) := by
  unfold svTake
  try extract_lets
  repeat' with_reducible first | assumption | apply q_queues | apply q_regs | intro _ | apply wr_keeps | apply ev_keeps | apply cntBy_keeps | apply putQueue_keeps | apply Keeps.dite | split | dsimp only

theorem queuePut_keeps {P : Part → Prop} {s00 : State} {s : State} (hk : Keeps P s00 s) (t : Twin) (q : Nat) (p : List (Byte × Bool)) (q_queues : ¬ P (.tw t .queues)) (q_regs : ¬ P (.tw t .regs)) :
    Keeps P s00 (queuePut s t q p) := by
  unfold queuePut
  try extract_lets
  repeat' with_reducible first | assumption | apply q_queues | apply q_regs | intro _ | apply svTake_keeps | apply putQueue_keeps | apply closeFill_keeps | apply cnt_keeps | apply setQueue_keeps | apply ev_keeps | apply Keeps.dite | split | dsimp only

theorem queueUnit_keeps {P : Part → Prop} {s00 : State} {s : State} (hk : Keeps P s00 s) (t : Twin) (q : Nat) (u : List Byte) (q_queues : ¬ P (.tw t .queues)) (q_regs : ¬ P (.tw t .regs)) :
    Keeps P s00 (queueUnit s t q u) := by
  unfold queueUnit
  try extract_lets
  repeat' with_reducible first | assumption | apply q_queues | apply q_regs | intro _ | apply queuePut_keeps | apply Keeps.dite | split | dsimp only

theorem execQueueUnitWrite_keeps {P : Part → Prop} {s00 : State} {s : State} (hk : Keeps P s00 s) (t : Twin) (q : Fin 6) (unit : StreamUnit) (q_queues : ¬ P (.tw t .queues)) (q_regs : ¬ P (.tw t .regs)) :
    OutKeeps P s00 (execQueueUnitWrite t q unit s) := by
  unfold execQueueUnitWrite
  try extract_lets
  repeat' with_reducible first | assumption | apply q_queues | apply q_regs | intro _ | apply OutKeeps.next | apply OutKeeps.dite | apply queuePut_keeps | apply Keeps.dite | split | dsimp only

theorem dumpRows_keeps {P : Part → Prop} {s00 s : State} (hk : Keeps P s00 s) (t : Twin) (q : Nat) (l : List (List Byte)) (q_queues : ¬ P (.tw t .queues)) (q_regs : ¬ P (.tw t .regs)) :
    Keeps P s00 (dumpRows t q l s) := by
  induction l generalizing s with
  | nil => exact setQueue_keeps hk _ _ _ q_queues
  | cons u r ih =>
    unfold dumpRows
    split
    · exact ih (by apply queueUnit_keeps hk <;> assumption)
    · apply setQueue_keeps _ _ _ _ q_queues
      split
      · exact hk
      · apply closeFill_keeps hk <;> assumption

theorem dumpGo_keeps {P : Part → Prop} {s00 : State} {s : State} (hk : Keeps P s00 s) (t : Twin) (q : Nat) (q_queues : ¬ P (.tw t .queues)) (q_regs : ¬ P (.tw t .regs)) :
    Keeps P s00 (dumpGo s t q) := by
  unfold dumpGo
  try extract_lets
  repeat' with_reducible first | assumption | apply q_queues | apply q_regs | intro _ | apply dumpRows_keeps | apply Keeps.dite | split | dsimp only

theorem execBankExchange_keeps {P : Part → Prop} {s00 : State} {s : State} (hk : Keeps P s00 s) (t : Twin) (q : Fin 6) (q_queues : ¬ P (.tw t .queues)) (q_regs : ¬ P (.tw t .regs)) :
    OutKeeps P s00 (execBankExchange t q s) := by
  unfold execBankExchange
  try extract_lets
  repeat' with_reducible first | assumption | apply q_queues | apply q_regs | intro _ | apply OutKeeps.next | apply OutKeeps.dite | apply dumpGo_keeps | apply exchange_keeps | apply Keeps.dite | split | dsimp only

theorem execFlushed_keeps {P : Part → Prop} {s00 : State} {s : State} (hk : Keeps P s00 s) (t : Twin) (q : Fin 6)
    (q_queues : ¬ P (.tw t .queues)) (q_regs : ¬ P (.tw t .regs)) :
    OutKeeps P s00 (execFlushed t q s) := by
  unfold execFlushed
  extract_lets
  repeat' with_reducible first
    | assumption | apply q_queues | apply q_regs | intro _ | apply OutKeeps.next | apply OutKeeps.dite
    | apply closeFill_keeps | apply cnt_keeps | apply ev_keeps | apply Keeps.dite

theorem deliverWords_keeps {P : Part → Prop} {s00 : State} {s : State} (hk : Keeps P s00 s) (t : Twin) (q n : Nat) (cut : Bool) (q_queues : ¬ P (.tw t .queues)) (q_regs : ¬ P (.tw t .regs)) :
    Keeps P s00 (deliverWords s t q n cut).2 := by
  unfold deliverWords
  try extract_lets
  repeat' with_reducible first | assumption | apply q_queues | apply q_regs | intro _ | apply cntBy_keeps | apply wr_keeps | apply ev_keeps | apply putQueue_keeps | apply dumpGo_keeps | apply exchange_keeps | apply Keeps.dite | split | dsimp only

theorem queueDisable_keeps {P : Part → Prop} {s00 : State} {s : State} (hk : Keeps P s00 s) (t : Twin) (q : Nat)
    (q_queues : ¬ P (.tw t .queues)) (q_regs : ¬ P (.tw t .regs)) :
    Keeps P s00 (queueDisable s t q) := by
  unfold queueDisable
  extract_lets
  repeat' with_reducible first
    | assumption | apply q_queues | apply q_regs | intro _ | apply cntBy_keeps | apply ev_keeps | apply wf_keeps
    | apply putQueue_keeps | apply Keeps.dite

theorem execQueueDisable_keeps {P : Part → Prop} {s00 : State} {s : State} (hk : Keeps P s00 s) (t : Twin) (q : Fin 6)
    (q_queues : ¬ P (.tw t .queues)) (q_regs : ¬ P (.tw t .regs)) :
    OutKeeps P s00 (execQueueDisable t q s) := by
  unfold execQueueDisable
  repeat' with_reducible first
    | assumption | apply q_queues | apply q_regs | intro _ | apply OutKeeps.next | apply OutKeeps.dite
    | apply queueDisable_keeps | apply say_keeps

theorem queueEnable_keeps {P : Part → Prop} {s00 : State} {s : State} (hk : Keeps P s00 s) (t : Twin) (q : Nat)
    (q_queues : ¬ P (.tw t .queues)) (q_regs : ¬ P (.tw t .regs)) :
    Keeps P s00 (queueEnable s t q) := by
  unfold queueEnable
  extract_lets
  repeat' with_reducible first
    | assumption | apply q_queues | apply q_regs | intro _ | apply wf_keeps | apply wr_keeps | apply putQueue_keeps

/-! Machine/Adc.lean. -/

theorem modAdc_keeps {P : Part → Prop} {s00 : State} {s : State} (hk : Keeps P s00 s) (t : Twin) (f : AdcSt → AdcSt)
    (q_adc : ¬ P (.tw t .adc)) :
    Keeps P s00 (modAdc s t f) := by
  unfold modAdc
  repeat' first
    | (cases ‹TwinField› <;> first | rfl | exact absurd ‹_› (by solve_by_elim))
    | with_reducible first
      | assumption | apply q_adc | intro _ | apply Keeps.dite | split | refine Keeps.setTwRegs ?_ rfl (fun k => (k.tw _).same rfl rfl rfl rfl rfl rfl rfl rfl) fun f hf => ?_

theorem modConv_keeps {P : Part → Prop} {s00 : State} {s : State} (hk : Keeps P s00 s) (t : Twin) (q : Nat) (f : ConvSt → ConvSt)
    (q_adc : ¬ P (.tw t .adc)) :
    Keeps P s00 (modConv s t q f) := by
  unfold modConv
  repeat' with_reducible first | assumption | apply q_adc | intro _ | apply modAdc_keeps

theorem modSeq_keeps {P : Part → Prop} {s00 : State} {s : State} (hk : Keeps P s00 s) (t : Twin) (q : Nat) (inj : Bool)
    (f : SeqSt → SeqSt) (q_adc : ¬ P (.tw t .adc)) :
    Keeps P s00 (modSeq s t q inj f) := by
  unfold modSeq
  repeat' with_reducible first | assumption | apply q_adc | intro _ | apply modConv_keeps

theorem markRes_keeps {P : Part → Prop} {s00 : State} {s : State} (hk : Keeps P s00 s) (t : Twin) (p : Nat × Nat) (m : W32) (q_adc : ∀ u, ¬ P (.tw u .adc)) (q_regs : ∀ u, ¬ P (.tw u .regs)) :
    Keeps P s00 (markRes s t p m) := by
  unfold markRes
  try extract_lets
  repeat' with_reducible first | assumption | apply q_adc | apply q_regs | intro _ | apply modConv_keeps | apply wr_keeps | apply Keeps.dite | split | dsimp only

theorem markStale_keeps {P : Part → Prop} {s00 : State} {s : State} (hk : Keeps P s00 s) (t : Twin) (p : Nat × Nat) (q_adc : ∀ u, ¬ P (.tw u .adc)) (q_regs : ∀ u, ¬ P (.tw u .regs)) :
    Keeps P s00 (markStale s t p) := by
  unfold markStale
  try extract_lets
  repeat' with_reducible first | assumption | apply q_adc | apply q_regs | intro _ | apply markRes_keeps | apply Keeps.dite | split | dsimp only

theorem setFlight_keeps {P : Part → Prop} {s00 : State} {s : State} (hk : Keeps P s00 s) (t : Twin) (q k : Nat) (start : Int) (acq : Nat) (q_adc : ¬ P (.tw t .adc)) :
    Keeps P s00 (setFlight s t q k start acq) := by
  unfold setFlight
  try extract_lets
  repeat' with_reducible first | assumption | apply q_adc | intro _ | apply modConv_keeps | apply Keeps.dite | split | dsimp only

theorem showBusy_keeps {P : Part → Prop} {s00 : State} {s : State} (hk : Keeps P s00 s) (t : Twin) (q : Nat) (inj : Bool) (q_regs : ¬ P (.tw t .regs)) :
    Keeps P s00 (showBusy s t q inj) := by
  unfold showBusy
  try extract_lets
  repeat' with_reducible first | assumption | apply q_regs | intro _ | apply evi_keeps | apply clri_keeps | apply Keeps.dite | split | dsimp only

theorem adcTrigger_keeps {P : Part → Prop} {s00 : State} {s : State} (hk : Keeps P s00 s) (t : Twin) (q : Nat) (inj : Bool) (q_adc : ∀ u, ¬ P (.tw u .adc)) (q_regs : ∀ u, ¬ P (.tw u .regs)) :
    Keeps P s00 (adcTrigger s t q inj) := by
  unfold adcTrigger
  try extract_lets
  repeat' with_reducible first | assumption | apply q_adc | apply q_regs | intro _ | apply markStale_keeps | apply cnt_keeps | apply evi_keeps | apply modSeq_keeps | apply showBusy_keeps | apply modConv_keeps | apply Keeps.dite | apply Keeps.foldl | apply Keeps.foldl₁ | apply Keeps.foldl₂ | split | dsimp only

theorem execAdcTrigger_keeps {P : Part → Prop} {s00 : State} {s : State} (hk : Keeps P s00 s) (t : Twin) (q : Fin 4) (q_adc : ∀ u, ¬ P (.tw u .adc)) (q_regs : ∀ u, ¬ P (.tw u .regs)) :
    OutKeeps P s00 (execAdcTrigger t q s) := by
  unfold execAdcTrigger
  try extract_lets
  repeat' with_reducible first | assumption | apply q_adc | apply q_regs | intro _ | apply OutKeeps.next | apply OutKeeps.dite | apply adcTrigger_keeps | apply Keeps.dite | split | dsimp only

theorem execInjectedTrigger_keeps {P : Part → Prop} {s00 : State} {s : State} (hk : Keeps P s00 s) (t : Twin) (q : Fin 4) (q_adc : ∀ u, ¬ P (.tw u .adc)) (q_regs : ∀ u, ¬ P (.tw u .regs)) :
    OutKeeps P s00 (execInjectedTrigger t q s) := by
  unfold execInjectedTrigger
  try extract_lets
  repeat' with_reducible first | assumption | apply q_adc | apply q_regs | intro _ | apply OutKeeps.next | apply OutKeeps.dite | apply adcTrigger_keeps | apply Keeps.dite | split | dsimp only

theorem execAdcTimerFire_keeps {P : Part → Prop} {s00 : State} {s : State} (hk : Keeps P s00 s) (t : Twin) (q : Fin 4) (inj : Bool) (q_adc : ∀ u, ¬ P (.tw u .adc)) (q_regs : ∀ u, ¬ P (.tw u .regs)) :
    OutKeeps P s00 (execAdcTimerFire t q inj s) := by
  unfold execAdcTimerFire
  try extract_lets
  repeat' with_reducible first | assumption | apply q_adc | apply q_regs | intro _ | apply OutKeeps.next | apply OutKeeps.dite | apply adcTrigger_keeps | apply Keeps.dite | split | dsimp only

theorem adcSoft_keeps {P : Part → Prop} {s00 : State} {s : State} (hk : Keeps P s00 s) (t : Twin) (q : Nat) (inj : Bool) (q_adc : ∀ u, ¬ P (.tw u .adc)) (q_regs : ∀ u, ¬ P (.tw u .regs)) :
    Keeps P s00 (adcSoft s t q inj) := by
  unfold adcSoft
  try extract_lets
  repeat' with_reducible first | assumption | apply q_adc | apply q_regs | intro _ | apply adcTrigger_keeps | apply Keeps.dite | split | dsimp only

theorem execRsw_keeps {P : Part → Prop} {s00 : State} {s : State} (hk : Keeps P s00 s) (t : Twin) (q : Fin 4) (q_adc : ∀ u, ¬ P (.tw u .adc)) (q_regs : ∀ u, ¬ P (.tw u .regs)) :
    OutKeeps P s00 (execRsw t q s) := by
  unfold execRsw
  try extract_lets
  repeat' with_reducible first | assumption | apply q_adc | apply q_regs | intro _ | apply OutKeeps.next | apply OutKeeps.dite | apply adcSoft_keeps | apply say_keeps | apply Keeps.dite | split | dsimp only

theorem execIsw_keeps {P : Part → Prop} {s00 : State} {s : State} (hk : Keeps P s00 s) (t : Twin) (q : Fin 4) (q_adc : ∀ u, ¬ P (.tw u .adc)) (q_regs : ∀ u, ¬ P (.tw u .regs)) :
    OutKeeps P s00 (execIsw t q s) := by
  unfold execIsw
  try extract_lets
  repeat' with_reducible first | assumption | apply q_adc | apply q_regs | intro _ | apply OutKeeps.next | apply OutKeeps.dite | apply adcSoft_keeps | apply say_keeps | apply Keeps.dite | split | dsimp only

theorem developCal_keeps {P : Part → Prop} {s00 : State} {s : State} (hk : Keeps P s00 s) (t : Twin) (q : Nat) (inj : Bool) (q_adc : ¬ P (.tw t .adc)) (q_regs : ¬ P (.tw t .regs)) :
    Keeps P s00 (developCal s t q inj) := by
  unfold developCal
  try extract_lets
  repeat' with_reducible first | assumption | apply q_adc | apply q_regs | intro _ | apply wr_keeps | apply modSeq_keeps | apply modConv_keeps | apply Keeps.dite | apply Keeps.foldl | apply Keeps.foldl₁ | apply Keeps.foldl₂ | split | dsimp only

theorem avgOff_keeps {P : Part → Prop} {s00 : State} {s : State} (hk : Keeps P s00 s) (t : Twin) (q_regs : ¬ P (.tw t .regs))
    :
    Keeps P s00 (avgOff s t) := by
  unfold avgOff
  repeat' with_reducible first
    | assumption | apply q_regs | intro _ | apply ev_keeps | apply wf_keeps | apply Keeps.dite

theorem execAvgOff_keeps {P : Part → Prop} {s00 : State} {s : State} (hk : Keeps P s00 s) (t : Twin) (q_regs : ¬ P (.tw t .regs)) :
    OutKeeps P s00 (execAvgOff t s) := by
  unfold execAvgOff
  try extract_lets
  repeat' with_reducible first | assumption | apply q_regs | intro _ | apply OutKeeps.next | apply OutKeeps.dite | apply avgOff_keeps | apply Keeps.dite | split | dsimp only

theorem beginRun_keeps {P : Part → Prop} {s00 : State} {s : State} (hk : Keeps P s00 s) (t : Twin) (q : Nat) (inj late : Bool) (start : Int) (q_adc : ¬ P (.tw t .adc)) (q_regs : ¬ P (.tw t .regs)) :
    Keeps P s00 (beginRun s t q inj late start) := by
  unfold beginRun
  try extract_lets
  repeat' with_reducible first | assumption | apply q_adc | apply q_regs | intro _ | apply avgOff_keeps | apply developCal_keeps | apply modSeq_keeps | apply showBusy_keeps | apply setFlight_keeps | apply Keeps.dite | split | dsimp only

theorem startSeq_keeps {P : Part → Prop} {s00 : State} {s : State} (hk : Keeps P s00 s) (t : Twin) (q : Nat) (inj : Bool) (q_adc : ¬ P (.tw t .adc)) (q_regs : ¬ P (.tw t .regs)) :
    Keeps P s00 (startSeq s t q inj) := by
  unfold startSeq
  try extract_lets
  repeat' with_reducible first | assumption | apply q_adc | apply q_regs | intro _ | apply beginRun_keeps | apply modSeq_keeps | apply Keeps.dite | split | dsimp only

theorem execAcquisitionStart_keeps {P : Part → Prop} {s00 : State} {s : State} (hk : Keeps P s00 s) (t : Twin) (q : Fin 4)
    (inj : Bool) (q_adc : ¬ P (.tw t .adc)) (q_regs : ¬ P (.tw t .regs)) :
    OutKeeps P s00 (execAcquisitionStart t q inj s) := by
  unfold execAcquisitionStart
  repeat' with_reducible first
    | assumption | apply q_adc | apply q_regs | intro _ | apply OutKeeps.next | apply OutKeeps.dite
    | apply startSeq_keeps | apply Keeps.dite

theorem nextFlight_keeps {P : Part → Prop} {s00 : State} {s : State} (hk : Keeps P s00 s) (t : Twin) (q : Nat) (q_adc : ¬ P (.tw t .adc)) (q_regs : ¬ P (.tw t .regs)) :
    Keeps P s00 (nextFlight s t q) := by
  unfold nextFlight
  try extract_lets
  repeat' with_reducible first | assumption | apply q_adc | apply q_regs | intro _ | apply modSeq_keeps | apply beginRun_keeps | apply setFlight_keeps | apply modConv_keeps | apply Keeps.dite | split | dsimp only

theorem noteConv_keeps {P : Part → Prop} {s00 : State} {s : State} (hk : Keeps P s00 s) (t : Twin) (p : Nat × Nat) (inst : Nat) (w : W32) (q_adc : ¬ P (.tw t .adc)) :
    Keeps P s00 (noteConv s t p inst w) := by
  unfold noteConv
  try extract_lets
  repeat' with_reducible first | assumption | apply q_adc | intro _ | apply modConv_keeps | apply Keeps.dite | split | dsimp only

theorem unsettledResult_keeps {P : Part → Prop} {s00 : State} {s : State} (hk : Keeps P s00 s) (t : Twin) (p : Nat × Nat) (inst : Nat) (q_adc : ∀ u, ¬ P (.tw u .adc)) (q_regs : ∀ u, ¬ P (.tw u .regs)) :
    Keeps P s00 (unsettledResult s t p inst) := by
  unfold unsettledResult
  try extract_lets
  repeat' with_reducible first | assumption | apply q_adc | apply q_regs | intro _ | apply cnt_keeps | apply noteConv_keeps | apply modConv_keeps | apply Keeps.dite | split | dsimp only

theorem writeResult_keeps {P : Part → Prop} {s00 : State} {s : State} (hk : Keeps P s00 s) (t : Twin) (p : Nat × Nat) (code : Nat) (lim avg remap none late : Bool) (inst : Nat) (q_adc : ¬ P (.tw t .adc)) (q_regs : ¬ P (.tw t .regs)) :
    Keeps P s00 (writeResult s t p code lim avg remap none late inst) := by
  unfold writeResult
  try extract_lets
  repeat' with_reducible first | assumption | apply q_adc | apply q_regs | intro _ | apply wr_keeps | apply noteConv_keeps | apply modConv_keeps | apply wf_keeps | apply evi_keeps | apply Keeps.dite | split | dsimp only

theorem seqEnd_keeps {P : Part → Prop} {s00 : State} {s : State} (hk : Keeps P s00 s) (t : Twin) (q : Nat) (inj : Bool)
    (q_adc : ¬ P (.tw t .adc)) (q_queues : ¬ P (.tw t .queues)) (q_regs : ¬ P (.tw t .regs)) :
    Keeps P s00 (seqEnd s t q inj) := by
  unfold seqEnd
  extract_lets
  repeat' with_reducible first
    | assumption | apply q_adc | apply q_queues | apply q_regs | intro _ | apply wr_keeps | apply wf_keeps
    | apply queueUnit_keeps | apply modSeq_keeps | apply nextFlight_keeps | apply showBusy_keeps
    | apply modConv_keeps | apply Keeps.dite

theorem takeConversion_keeps {P : Part → Prop} {s00 : State} {s : State} (hk : Keeps P s00 s) (t : Twin) (q : Nat) (inj : Bool) (raw inst : Nat) (settled : Bool) (q_adc : ∀ u, ¬ P (.tw u .adc)) (q_queues : ¬ P (.tw t .queues)) (q_regs : ∀ u, ¬ P (.tw u .regs)) :
    Keeps P s00 (takeConversion s t q inj raw inst settled) := by
  unfold takeConversion
  try extract_lets
  repeat' with_reducible first | assumption | apply q_adc | apply q_queues | apply q_regs | intro _ | apply seqEnd_keeps | apply nextFlight_keeps | apply showBusy_keeps | apply modSeq_keeps | apply markStale_keeps | apply writeResult_keeps | apply unsettledResult_keeps | apply Keeps.dite | split | dsimp only

theorem takeInterleaved_keeps {P : Part → Prop} {s00 : State} {s : State} (hk : Keeps P s00 s) (t : Twin) (q e raw : Nat) (settled : Bool) (q_adc : ∀ u, ¬ P (.tw u .adc)) (q_queues : ¬ P (.tw t .queues)) (q_regs : ∀ u, ¬ P (.tw u .regs)) :
    Keeps P s00 (takeInterleaved s t q e raw settled) := by
  unfold takeInterleaved
  try extract_lets
  repeat' with_reducible first | assumption | apply q_adc | apply q_queues | apply q_regs | intro _ | apply writeResult_keeps | apply unsettledResult_keeps | apply modSeq_keeps | apply seqEnd_keeps | apply nextFlight_keeps | apply showBusy_keeps | apply modConv_keeps | apply Keeps.dite | split | dsimp only

theorem execConversionComplete_keeps {P : Part → Prop} {s00 : State} {s : State} (hk : Keeps P s00 s) (t : Twin) (q : Fin 4) (raw : BitVec 16) (at' : SampleAt) (q_adc : ∀ u, ¬ P (.tw u .adc)) (q_queues : ¬ P (.tw t .queues)) (q_regs : ∀ u, ¬ P (.tw u .regs)) (q_xings : ¬ P (.tw t .xings)) :
    OutKeeps P s00 (execConversionComplete t q raw at' s) := by
  unfold execConversionComplete
  try extract_lets
  repeat' with_reducible first | assumption | apply q_adc | apply q_queues | apply q_regs | apply q_xings | intro _ | apply OutKeeps.next | apply OutKeeps.dite | apply crossIn_keeps | apply takeInterleaved_keeps | apply takeConversion_keeps | apply nextFlight_keeps | apply Keeps.dite | split | dsimp only

theorem execCheckConversion_keeps {P : Part → Prop} {s00 : State} {s : State} (hk : Keeps P s00 s) (t : Twin) (q : Fin 4) (raw : BitVec 16) (q_adc : ¬ P (.tw t .adc)) (q_regs : ¬ P (.tw t .regs)) (q_xings : ¬ P (.tw t .xings)) :
    OutKeeps P s00 (execCheckConversion t q raw s) := by
  unfold execCheckConversion
  try extract_lets
  repeat' with_reducible first | assumption | apply q_adc | apply q_regs | apply q_xings | intro _ | apply OutKeeps.next | apply OutKeeps.dite | apply crossIn_keeps | apply wr_keeps | apply modConv_keeps | apply nextFlight_keeps | apply Keeps.dite | split | dsimp only

theorem cutSeq_keeps {P : Part → Prop} {s00 : State} {s : State} (hk : Keeps P s00 s) (t : Twin) (q : Nat) (inj : Bool) (q_adc : ∀ u, ¬ P (.tw u .adc)) (q_regs : ∀ u, ¬ P (.tw u .regs)) :
    Keeps P s00 (cutSeq s t q inj) := by
  unfold cutSeq
  try extract_lets
  repeat' with_reducible first | assumption | apply q_adc | apply q_regs | intro _ | apply markStale_keeps | apply modSeq_keeps | apply showBusy_keeps | apply Keeps.dite | apply Keeps.foldl | apply Keeps.foldl₁ | apply Keeps.foldl₂ | split | dsimp only

theorem adUnlock_keeps {P : Part → Prop} {s00 : State} {s : State} (hk : Keeps P s00 s) (t : Twin) (q_adc : ∀ u, ¬ P (.tw u .adc)) (q_regs : ∀ u, ¬ P (.tw u .regs)) :
    Keeps P s00 (adUnlock s t) := by
  unfold adUnlock
  try extract_lets
  repeat' with_reducible first | assumption | apply q_adc | apply q_regs | intro _ | apply ev_keeps | apply wf_keeps | apply modConv_keeps | apply cutSeq_keeps | apply Keeps.dite | apply Keeps.foldl | apply Keeps.foldl₁ | apply Keeps.foldl₂ | split | dsimp only

theorem execAdUnlock_keeps {P : Part → Prop} {s00 : State} {s : State} (hk : Keeps P s00 s) (t : Twin) (q_adc : ∀ u, ¬ P (.tw u .adc)) (q_regs : ∀ u, ¬ P (.tw u .regs)) :
    OutKeeps P s00 (execAdUnlock t s) := by
  unfold execAdUnlock
  try extract_lets
  repeat' with_reducible first | assumption | apply q_adc | apply q_regs | intro _ | apply OutKeeps.next | apply OutKeeps.dite | apply adUnlock_keeps | apply Keeps.dite | split | dsimp only

theorem abandonSeq_keeps {P : Part → Prop} {s00 : State} {s : State} (hk : Keeps P s00 s) (t : Twin) (q : Nat) (inj : Bool) (q_adc : ∀ u, ¬ P (.tw u .adc)) (q_regs : ∀ u, ¬ P (.tw u .regs)) :
    Keeps P s00 (abandonSeq s t q inj) := by
  unfold abandonSeq
  try extract_lets
  repeat' with_reducible first | assumption | apply q_adc | apply q_regs | intro _ | apply markRes_keeps | apply evi_keeps | apply cnt_keeps | apply markStale_keeps | apply showBusy_keeps | apply modSeq_keeps | apply Keeps.dite | apply Keeps.foldl | apply Keeps.foldl₁ | apply Keeps.foldl₂ | split | dsimp only

theorem adcDisable_keeps {P : Part → Prop} {s00 : State} {s : State} (hk : Keeps P s00 s) (t : Twin) (q : Nat) (q_adc : ∀ u, ¬ P (.tw u .adc)) (q_regs : ∀ u, ¬ P (.tw u .regs)) :
    Keeps P s00 (adcDisable s t q) := by
  unfold adcDisable
  try extract_lets
  repeat' with_reducible first | assumption | apply q_adc | apply q_regs | intro _ | apply abandonSeq_keeps | apply modConv_keeps | apply clri_keeps | apply wf_keeps | apply Keeps.dite | split | dsimp only

theorem execAdcDisable_keeps {P : Part → Prop} {s00 : State} {s : State} (hk : Keeps P s00 s) (t : Twin) (q : Fin 4) (q_adc : ∀ u, ¬ P (.tw u .adc)) (q_regs : ∀ u, ¬ P (.tw u .regs)) :
    OutKeeps P s00 (execAdcDisable t q s) := by
  unfold execAdcDisable
  try extract_lets
  repeat' with_reducible first | assumption | apply q_adc | apply q_regs | intro _ | apply OutKeeps.next | apply OutKeeps.dite | apply adcDisable_keeps | apply say_keeps | apply Keeps.dite | split | dsimp only

theorem injDisable_keeps {P : Part → Prop} {s00 : State} {s : State} (hk : Keeps P s00 s) (t : Twin) (q : Nat) (q_adc : ∀ u, ¬ P (.tw u .adc)) (q_regs : ∀ u, ¬ P (.tw u .regs)) :
    Keeps P s00 (injDisable s t q) := by
  unfold injDisable
  try extract_lets
  repeat' with_reducible first | assumption | apply q_adc | apply q_regs | intro _ | apply wf_keeps | apply abandonSeq_keeps | apply modConv_keeps | apply Keeps.dite | split | dsimp only

theorem execInjDisable_keeps {P : Part → Prop} {s00 : State} {s : State} (hk : Keeps P s00 s) (t : Twin) (q : Fin 4) (q_adc : ∀ u, ¬ P (.tw u .adc)) (q_regs : ∀ u, ¬ P (.tw u .regs)) :
    OutKeeps P s00 (execInjDisable t q s) := by
  unfold execInjDisable
  try extract_lets
  repeat' with_reducible first | assumption | apply q_adc | apply q_regs | intro _ | apply OutKeeps.next | apply OutKeeps.dite | apply injDisable_keeps | apply say_keeps | apply Keeps.dite | split | dsimp only

theorem execConverterFail_keeps {P : Part → Prop} {s00 : State} {s : State} (hk : Keeps P s00 s) (t : Twin) (q : Fin 4) (timeout : Bool) (q_adc : ∀ u, ¬ P (.tw u .adc)) (q_regs : ∀ u, ¬ P (.tw u .regs)) :
    OutKeeps P s00 (execConverterFail t q timeout s) := by
  unfold execConverterFail
  try extract_lets
  repeat' with_reducible first | assumption | apply q_adc | apply q_regs | intro _ | apply OutKeeps.next | apply OutKeeps.dite | apply markStale_keeps | apply evi_keeps | apply modConv_keeps | apply modSeq_keeps | apply showBusy_keeps | apply clri_keeps | apply Keeps.dite | apply Keeps.foldl | apply Keeps.foldl₁ | apply Keeps.foldl₂ | split | dsimp only

theorem execAgreementWaitLimit_keeps {P : Part → Prop} {s00 : State} {s : State} (hk : Keeps P s00 s) (t : Twin) (q : SeqPoint) (q_adc : ¬ P (.tw t .adc)) :
    OutKeeps P s00 (execAgreementWaitLimit t q s) := by
  unfold execAgreementWaitLimit
  try extract_lets
  repeat' with_reducible first | assumption | apply q_adc | intro _ | apply OutKeeps.next | apply OutKeeps.dite | apply modConv_keeps | apply Keeps.dite | apply Keeps.foldl | apply Keeps.foldl₁ | apply Keeps.foldl₂ | split | dsimp only

theorem calFail_keeps {P : Part → Prop} {s00 : State} {s : State} (hk : Keeps P s00 s) (t : Twin) (result code : Nat)
    (q_regs : ¬ P (.tw t .regs)) :
    Keeps P s00 (calFail s t result code) := by
  unfold calFail
  repeat' with_reducible first
    | assumption | apply q_regs | intro _ | apply say_keeps | apply ev_keeps | apply wf_keeps

theorem calRange_keeps {P : Part → Prop} {s00 : State} {s : State} (hk : Keeps P s00 s) (t : Twin) (q_adc : ¬ P (.tw t .adc)) (q_regs : ¬ P (.tw t .regs)) :
    Keeps P s00 (calRange s t) := by
  unfold calRange
  try extract_lets
  repeat' with_reducible first | assumption | apply q_adc | apply q_regs | intro _ | apply modAdc_keeps | apply wf_keeps | apply calFail_keeps | apply Keeps.dite | split | dsimp only

theorem calRun_keeps {P : Part → Prop} {s00 : State} {s : State} (hk : Keeps P s00 s) (t : Twin) (q_regs : ¬ P (.tw t .regs)) :
    Keeps P s00 (calRun s t) := by
  unfold calRun
  try extract_lets
  repeat' with_reducible first | assumption | apply q_regs | intro _ | apply wf_keeps | apply Keeps.dite | split | dsimp only

theorem calStep_keeps {P : Part → Prop} {s00 : State} {s : State} (hk : Keeps P s00 s) (t : Twin) (step : Nat) (q_adc : ¬ P (.tw t .adc)) (q_regs : ∀ u, ¬ P (.tw u .regs)) (p_sluice : ¬ P .sluice) :
    Keeps P s00 (calStep s t step) := by
  unfold calStep
  try extract_lets
  repeat' with_reducible first | assumption | apply q_adc | apply q_regs | apply p_sluice | intro _ | apply say_keeps | apply wf_keeps | apply calRange_keeps | apply leaveAsk_keeps | apply modAdc_keeps | apply calRun_keeps | apply Keeps.dite | split | dsimp only

theorem execStepZero_keeps {P : Part → Prop} {s00 : State} {s : State} (hk : Keeps P s00 s) (t : Twin) (q_adc : ¬ P (.tw t .adc))
    (q_regs : ∀ u, ¬ P (.tw u .regs)) (p_sluice : ¬ P .sluice) :
    OutKeeps P s00 (execStepZero t s) := by
  unfold execStepZero
  repeat' with_reducible first
    | assumption | apply q_adc | apply q_regs | apply p_sluice | intro _ | apply OutKeeps.next | apply OutKeeps.dite
    | apply calStep_keeps

theorem execStepFull_keeps {P : Part → Prop} {s00 : State} {s : State} (hk : Keeps P s00 s) (t : Twin) (q_adc : ¬ P (.tw t .adc))
    (q_regs : ∀ u, ¬ P (.tw u .regs)) (p_sluice : ¬ P .sluice) :
    OutKeeps P s00 (execStepFull t s) := by
  unfold execStepFull
  repeat' with_reducible first
    | assumption | apply q_adc | apply q_regs | apply p_sluice | intro _ | apply OutKeeps.next | apply OutKeeps.dite
    | apply calStep_keeps

theorem execSkew_keeps {P : Part → Prop} {s00 : State} {s : State} (hk : Keeps P s00 s) (t : Twin) (q_adc : ¬ P (.tw t .adc)) (q_regs : ∀ u, ¬ P (.tw u .regs)) (p_sluice : ¬ P .sluice) :
    OutKeeps P s00 (execSkew t s) := by
  unfold execSkew
  try extract_lets
  repeat' with_reducible first | assumption | apply q_adc | apply q_regs | apply p_sluice | intro _ | apply OutKeeps.next | apply OutKeeps.dite | apply calStep_keeps | apply Keeps.dite | split | dsimp only

theorem execCalMeasureEnd_keeps {P : Part → Prop} {s00 : State} {s : State} (hk : Keeps P s00 s) (t : Twin) (data : List (List W32)) (clipped : Bool) (q_adc : ¬ P (.tw t .adc)) (q_regs : ∀ u, ¬ P (.tw u .regs)) (p_sluice : ¬ P .sluice) (q_xings : ¬ P (.tw t .xings)) :
    OutKeeps P s00 (execCalMeasureEnd t data clipped s) := by
  unfold execCalMeasureEnd
  try extract_lets
  repeat' with_reducible first | assumption | apply q_adc | apply q_regs | apply p_sluice | apply q_xings | intro _ | apply OutKeeps.next | apply OutKeeps.dite | apply crossIn_keeps | apply modAdc_keeps | apply leaveEnd_keeps | apply wf_keeps | apply calFail_keeps | apply calRange_keeps | apply ev_keeps | apply Keeps.dite | apply Keeps.foldl | apply Keeps.foldl₁ | apply Keeps.foldl₂ | split | dsimp only

theorem calWrite_keeps {P : Part → Prop} {s00 : State} {s : State} (hk : Keeps P s00 s) (t : Twin) (q_flash : ¬ P (.tw t .flash))
    :
    Keeps P s00 (calWrite s t) := by
  unfold calWrite
  repeat' with_reducible first | assumption | apply q_flash | intro _ | apply modFlash_keeps

theorem execCommit_keeps {P : Part → Prop} {s00 : State} {s : State} (hk : Keeps P s00 s) (t : Twin) (flashOk : Bool)
    (q_adc : ¬ P (.tw t .adc)) (q_flash : ¬ P (.tw t .flash)) (q_regs : ∀ u, ¬ P (.tw u .regs)) (p_sluice : ¬ P .sluice)
    :
    OutKeeps P s00 (execCommit t flashOk s) := by
  unfold execCommit
  extract_lets
  repeat' with_reducible first
    | assumption | apply q_adc | apply q_flash | apply q_regs | apply p_sluice | intro _ | apply OutKeeps.next
    | apply OutKeeps.dite | apply say_keeps | apply modConv_keeps | apply wf_keeps | apply modAdc_keeps
    | apply leaveAsk_keeps | apply leaveEndFor_keeps | apply calWrite_keeps | apply Keeps.dite | apply Keeps.foldl

theorem execAbort_keeps {P : Part → Prop} {s00 : State} {s : State} (hk : Keeps P s00 s) (t : Twin) (q_adc : ¬ P (.tw t .adc))
    (q_regs : ∀ u, ¬ P (.tw u .regs)) (p_sluice : ¬ P .sluice) :
    OutKeeps P s00 (execAbort t s) := by
  unfold execAbort
  extract_lets
  repeat' with_reducible first
    | assumption | apply q_adc | apply q_regs | apply p_sluice | intro _ | apply OutKeeps.next | apply OutKeeps.dite
    | apply say_keeps | apply modAdc_keeps | apply leaveEnd_keeps | apply wf_keeps | apply Keeps.dite

theorem adcTrim_keeps {P : Part → Prop} {s00 : State} {s : State} (hk : Keeps P s00 s) (t : Twin) (q : Nat)
    (q_regs : ¬ P (.tw t .regs)) :
    Keeps P s00 (adcTrim s t q) := by
  unfold adcTrim
  extract_lets
  repeat' with_reducible first
    | assumption | apply q_regs | intro _ | apply wr_keeps | apply Keeps.dite | apply Keeps.foldl

end Sys2Proof.Machine
end

