-- ==== Sys2Proof/Laws/KeepDrive.lean ====
section
/-! SUPPORT. What Laws/Keeps.lean says is kept by the operations of the law-engine blocks, gate drive, trips and drive control. -/

namespace Sys2Proof.Machine

/-! Machine/LawOps.lean. -/

theorem modLaw_keeps {P : Part → Prop} {s00 : State} {s : State} (hk : Keeps P s00 s) (t : Twin) (f : LawSt → LawSt)
    (q_law : ¬ P (.tw t .law)) :
    Keeps P s00 (modLaw s t f) := by
  unfold modLaw
  repeat' first
    | (cases ‹TwinField› <;> first | rfl | exact absurd ‹_› (by solve_by_elim))
    | with_reducible first
      | assumption | apply q_law | intro _ | apply Keeps.dite | split | refine Keeps.setTwRegs ?_ rfl (fun k => (k.tw _).same rfl rfl rfl rfl rfl rfl rfl rfl) fun f hf => ?_

theorem setNode_keeps {P : Part → Prop} {s00 : State} {s : State} (hk : Keeps P s00 s) (t : Twin) (n : Nat) (v : W32)
    (q_law : ¬ P (.tw t .law)) (q_regs : ¬ P (.tw t .regs)) :
    Keeps P s00 (setNode s t n v) := by
  unfold setNode
  repeat' with_reducible first
    | assumption | apply q_law | apply q_regs | intro _ | apply modLaw_keeps | apply wr_keeps

theorem nodeInvalid_keeps {P : Part → Prop} {s00 : State} {s : State} (hk : Keeps P s00 s) (t : Twin) (n : Nat)
    (q_law : ¬ P (.tw t .law)) :
    Keeps P s00 (nodeInvalid s t n) := by
  unfold nodeInvalid
  repeat' with_reducible first | assumption | apply q_law | intro _ | apply modLaw_keeps

theorem setBlkWords_keeps {P : Part → Prop} {s00 : State} {s : State} (hk : Keeps P s00 s) (t : Twin) (base b : Nat)
    (l : List W32) (q_regs : ¬ P (.tw t .regs)) :
    Keeps P s00 (setBlkWords s t base b l) := by
  unfold setBlkWords
  repeat' with_reducible first
    | assumption | apply q_regs | intro _ | apply wr_keeps | apply Keeps.dite | apply Keeps.foldl

theorem blockFault_keeps {P : Part → Prop} {s00 : State} {s : State} (hk : Keeps P s00 s) (t : Twin) (b : Nat)
    (q_law : ¬ P (.tw t .law)) (q_regs : ¬ P (.tw t .regs)) :
    Keeps P s00 (blockFault s t b) := by
  unfold blockFault
  extract_lets
  repeat' with_reducible first
    | assumption | apply q_law | apply q_regs | intro _ | apply ev_keeps | apply wf_keeps | apply modLaw_keeps
    | apply Keeps.dite

theorem cellDispatch_keeps {P : Part → Prop} {s00 : State} {s : State} (hk : Keeps P s00 s) (t : Twin) (str : Nat)
    (x : List W32) (q_arr : ¬ P (.tw t .arr)) :
    Keeps P s00 (cellDispatch s t str x) := by
  unfold cellDispatch
  extract_lets
  repeat' with_reducible first | assumption | apply q_arr | intro _ | apply modArr_keeps | apply Keeps.dite

theorem selectorTracks_keeps {P : Part → Prop} {s00 : State} {s : State} (hk : Keeps P s00 s) (t : Twin) (g : GraphImg)
    (blk : GBlock) (o : BlkOut) (q_law : ∀ u, ¬ P (.tw u .law)) :
    Keeps P s00 (selectorTracks s t g blk o) := by
  unfold selectorTracks
  extract_lets
  repeat' with_reducible first
    | assumption | apply q_law | intro _ | apply modLaw_keeps | apply Keeps.dite | apply Keeps.foldl

theorem runBlock_keeps {P : Part → Prop} {s00 : State} {s0 : State} {s : State} (hk : Keeps P s00 s0) (hk1 : Keeps P s00 s) (t : Twin) (g : GraphImg) (k : Nat) (ts : W32) (p : GBlock × Nat) (q_arr : ¬ P (.tw t .arr)) (q_law : ∀ u, ¬ P (.tw u .law)) (q_regs : ¬ P (.tw t .regs)) :
    Keeps P s00 (runBlock s0 t g k ts s p) := by
  unfold runBlock
  try extract_lets
  repeat' with_reducible first | assumption | apply q_arr | apply q_law | apply q_regs | intro _ | apply cellDispatch_keeps | apply blockFault_keeps | apply setNode_keeps | apply setBlkWords_keeps | apply wf_keeps | apply modLaw_keeps | apply selectorTracks_keeps | apply Keeps.dite | apply Keeps.foldl | apply Keeps.foldl₁ | apply Keeps.foldl₂ | split | dsimp only

theorem swapBlock_keeps {P : Part → Prop} {s00 : State} {s : State} (hk : Keeps P s00 s) (t : Twin) (blk : GBlock)
    (b : Nat) (q_regs : ¬ P (.tw t .regs)) :
    Keeps P s00 (swapBlock s t blk b) := by
  unfold swapBlock
  dsimp only
  repeat' with_reducible first
    | assumption | apply q_regs | intro _ | apply setBlkWords_keeps | apply wr_keeps | apply wf_keeps
    | apply Keeps.dite | split

theorem swapGroup_keeps {P : Part → Prop} {s00 : State} {s : State} (hk : Keeps P s00 s) (t : Twin) (g : GraphImg)
    (k : Nat) (q_law : ¬ P (.tw t .law)) (q_regs : ¬ P (.tw t .regs)) :
    Keeps P s00 (swapGroup s t g k) := by
  unfold swapGroup
  extract_lets
  repeat' with_reducible first
    | assumption | apply q_law | apply q_regs | intro _ | apply swapBlock_keeps | apply modLaw_keeps
    | apply wf_keeps | apply ev_keeps | apply Keeps.dite | apply Keeps.foldl

theorem startTs_keeps {P : Part → Prop} {s00 : State} {s : State} (hk : Keeps P s00 s) (t : Twin) (k : Nat) (q_law : ¬ P (.tw t .law)) :
    Keeps P s00 (startTs s t k) := by
  unfold startTs
  try extract_lets
  repeat' with_reducible first | assumption | apply q_law | intro _ | apply modLaw_keeps | apply Keeps.dite | split | dsimp only

theorem runGroup_keeps {P : Part → Prop} {s00 : State} {s : State} (hk : Keeps P s00 s) (t : Twin) (k : Nat) (q_arr : ¬ P (.tw t .arr)) (q_law : ∀ u, ¬ P (.tw u .law)) (q_regs : ¬ P (.tw t .regs)) :
    Keeps P s00 (runGroup s t k) := by
  unfold runGroup
  try extract_lets
  repeat' with_reducible first | assumption | apply q_arr | apply q_law | apply q_regs | intro _ | apply runBlock_keeps | apply Keeps.dite | apply Keeps.foldl | apply Keeps.foldl₁ | apply Keeps.foldl₂ | split | dsimp only

theorem leaveCopies_keeps {P : Part → Prop} {s00 : State} {s : State} (hk : Keeps P s00 s) (t : Twin) (k : Nat)
    (q_law : ¬ P (.tw t .law)) :
    Keeps P s00 (leaveCopies s t k) := by
  unfold leaveCopies
  repeat' with_reducible first | assumption | apply q_law | intro _ | apply modLaw_keeps | apply Keeps.dite | split

theorem developCopies_keeps {P : Part → Prop} {s00 : State} {s : State} (hk : Keeps P s00 s) (t : Twin) (k : Nat)
    (q_law : ¬ P (.tw t .law)) :
    Keeps P s00 (developCopies s t k) := by
  unfold developCopies
  repeat' with_reducible first | assumption | apply q_law | intro _ | apply modLaw_keeps

theorem snapCopies_keeps {P : Part → Prop} {s00 : State} {s : State} (hk : Keeps P s00 s) (t : Twin) (k : Nat)
    (q_law : ¬ P (.tw t .law)) :
    Keeps P s00 (snapCopies s t k) := by
  unfold snapCopies
  repeat' with_reducible first | assumption | apply q_law | intro _ | apply modLaw_keeps

theorem formDigest_keeps {P : Part → Prop} {s00 : State} {s : State} (hk : Keeps P s00 s) (t : Twin) (k r : Nat)
    (extra : List (Nat × W32)) (q_regs : ¬ P (.tw t .regs)) (q_twn : ¬ P (.tw t .twn)) :
    Keeps P s00 (formDigest s t k r extra) := by
  unfold formDigest
  repeat' with_reducible first
    | assumption | apply q_regs | apply q_twn | intro _ | apply wr_keeps | apply modTwn_keeps | apply Keeps.dite
    | split

theorem loadBlock_keeps {P : Part → Prop} {s00 : State} {s : State} (hk : Keeps P s00 s) (t : Twin) (p : GBlock × Nat)
    (q_regs : ¬ P (.tw t .regs)) :
    Keeps P s00 (loadBlock t s p) := by
  unfold loadBlock
  extract_lets
  repeat' with_reducible first | assumption | apply q_regs | intro _ | apply wr_keeps | apply setBlkWords_keeps

theorem clearGraph_keeps {P : Part → Prop} {s00 : State} {s : State} (hk : Keeps P s00 s) (t : Twin) (q_regs : ¬ P (.tw t .regs)) :
    Keeps P s00 (clearGraph s t) := by
  unfold clearGraph
  dsimp only
  refine Keeps.foldl (fun s k h => ?_) _ ?_
  · repeat' with_reducible first | assumption | apply wr_keeps | apply wf_keeps
  · refine hk.setTw (fun k => tabWf_filter resetWord k _) (fun k => (k.tw t).same rfl rfl rfl rfl rfl rfl rfl rfl) fun f hf => ?_
    cases f <;> first | rfl | exact absurd hf q_regs

theorem loadGroup_keeps {P : Part → Prop} {s00 : State} {s : State} (hk : Keeps P s00 s) (t : Twin) (g : GraphImg)
    (sched : Nat) (p : RgRec × Nat) (q_regs : ¬ P (.tw t .regs)) :
    Keeps P s00 (loadGroup t g sched s p) := by
  unfold loadGroup
  extract_lets
  repeat' with_reducible first | assumption | apply q_regs | intro _ | apply wr_keeps | apply wf_keeps

theorem loadGraph_keeps {P : Part → Prop} {s00 : State} {s : State} (hk : Keeps P s00 s) (t : Twin) (g : GraphImg)
    (q_law : ¬ P (.tw t .law)) (q_regs : ¬ P (.tw t .regs)) :
    Keeps P s00 (loadGraph s t g) := by
  unfold loadGraph
  extract_lets
  repeat' with_reducible first
    | assumption | apply q_law | apply q_regs | intro _ | apply clearGraph_keeps | apply wr_keeps
    | apply loadBlock_keeps | apply loadGroup_keeps | apply wf_keeps | apply modLaw_keeps | apply Keeps.dite
    | apply Keeps.foldl

/-! Machine/Gd.lean. -/

theorem execGeneratorBoundary_keeps {P : Part → Prop} {s00 : State} {s : State} (hk : Keeps P s00 s) (g : Fin 8)
    (settled : Bool) (p_edge : ¬ P .edge) (q_regs : ∀ u, ¬ P (.tw u .regs)) :
    OutKeeps P s00 (execGeneratorBoundary g settled s) := by
  unfold execGeneratorBoundary
  extract_lets
  repeat' with_reducible first
    | assumption | apply p_edge | apply q_regs | intro _ | apply OutKeeps.next | apply OutKeeps.dite
    | apply modGen_keeps | apply settlePair_keeps | apply leaveHold_keeps | apply Keeps.dite | split

theorem execGateUvlo_keeps {P : Part → Prop} {s00 : State} {s : State} (hk : Keeps P s00 s) (g : Fin 8) (neg : Bool)
    (p_edge : ¬ P .edge) (q_regs : ∀ u, ¬ P (.tw u .regs)) (q_twn : ∀ u, ¬ P (.tw u .twn)) :
    OutKeeps P s00 (execGateUvlo g neg s) := by
  unfold execGateUvlo
  extract_lets
  repeat' with_reducible first
    | assumption | apply p_edge | apply q_regs | apply q_twn | intro _ | apply OutKeeps.next | apply OutKeeps.dite
    | apply onLive_keeps | apply wf_keeps | apply modTwn_keeps | apply evi_keeps | apply cnt_keeps
    | apply settlePair_keeps | apply modGen_keeps | apply Keeps.dite

theorem execUvloRecover_keeps {P : Part → Prop} {s00 : State} {s : State} (hk : Keeps P s00 s) (g : Fin 8) (neg : Bool)
    (p_edge : ¬ P .edge) (q_regs : ∀ u, ¬ P (.tw u .regs)) :
    OutKeeps P s00 (execUvloRecover g neg s) := by
  unfold execUvloRecover
  extract_lets
  repeat' with_reducible first
    | assumption | apply p_edge | apply q_regs | intro _ | apply OutKeeps.next | apply OutKeeps.dite
    | apply onLive_keeps | apply wf_keeps | apply modGen_keeps | apply settlePair_keeps | apply modOut_keeps
    | apply Keeps.dite

theorem execBootstrapRefresh_keeps {P : Part → Prop} {s00 : State} {s : State} (hk : Keeps P s00 s) (r : RefreshPoint) (p_edge : ¬ P .edge) (q_regs : ∀ u, ¬ P (.tw u .regs)) :
    OutKeeps P s00 (execBootstrapRefresh r s) := by
  unfold execBootstrapRefresh
  try extract_lets
  repeat' with_reducible first | assumption | apply p_edge | apply q_regs | intro _ | apply OutKeeps.next | apply OutKeeps.dite | apply settlePair_keeps | apply modGen_keeps | apply Keeps.dite | split | dsimp only

theorem execForcedRefresh_keeps {P : Part → Prop} {s00 : State} {s : State} (hk : Keeps P s00 s) (g : Fin 8)
    (p_edge : ¬ P .edge) (q_regs : ∀ u, ¬ P (.tw u .regs)) :
    OutKeeps P s00 (execForcedRefresh g s) := by
  unfold execForcedRefresh
  extract_lets
  repeat' with_reducible first
    | assumption | apply p_edge | apply q_regs | intro _ | apply OutKeeps.next | apply OutKeeps.dite
    | apply onLive_keeps | apply evi_keeps | apply wf_keeps | apply settlePair_keeps | apply modGen_keeps
    | apply Keeps.dite

theorem execForcedRefreshEnd_keeps {P : Part → Prop} {s00 : State} {s : State} (hk : Keeps P s00 s) (g : Fin 8)
    (p_edge : ¬ P .edge) (q_regs : ∀ u, ¬ P (.tw u .regs)) :
    OutKeeps P s00 (execForcedRefreshEnd g s) := by
  unfold execForcedRefreshEnd
  extract_lets
  repeat' with_reducible first
    | assumption | apply p_edge | apply q_regs | intro _ | apply OutKeeps.next | apply OutKeeps.dite
    | apply onLive_keeps | apply wf_keeps | apply modGen_keeps | apply settlePair_keeps | apply modOut_keeps
    | apply Keeps.dite

theorem gpbRun_keeps {P : Part → Prop} {s00 : State} {s : State} (hk : Keeps P s00 s) (p_edge : ¬ P .edge) (q_regs : ∀ u, ¬ P (.tw u .regs))
    :
    Keeps P s00 (gpbRun s) := by
  unfold gpbRun
  extract_lets
  repeat' with_reducible first
    | assumption | apply p_edge | apply q_regs | intro _ | apply say_keeps | apply onLive_keeps | apply wf_keeps
    | apply modEdge_keeps | apply Keeps.dite

theorem execGpbRun_keeps {P : Part → Prop} {s00 : State} {s : State} (hk : Keeps P s00 s) (tg : Target) (p_edge : ¬ P .edge)
    (q_regs : ∀ u, ¬ P (.tw u .regs)) :
    OutKeeps P s00 (execGpbRun tg s) := by
  unfold execGpbRun
  repeat' with_reducible first
    | assumption | apply p_edge | apply q_regs | intro _ | apply OutKeeps.next | apply OutKeeps.dite
    | apply agreedOnly_keeps | apply gpbRun_keeps

theorem execBridgeStartTest_keeps {P : Part → Prop} {s00 : State} {s : State} (hk : Keeps P s00 s) (t : Twin)
    (pass : Bool) (p_edge : ¬ P .edge) (q_regs : ∀ u, ¬ P (.tw u .regs)) :
    OutKeeps P s00 (execBridgeStartTest t pass s) := by
  unfold execBridgeStartTest
  extract_lets
  repeat' with_reducible first
    | assumption | apply p_edge | apply q_regs | intro _ | apply OutKeeps.next | apply OutKeeps.dite
    | apply modEdge_keeps | apply onLive_keeps | apply ev_keeps | apply bridgeStop_keeps | apply modGen_keeps
    | apply wf_keeps | apply Keeps.dite | apply Keeps.foldl

theorem gdDiagBegin_keeps {P : Part → Prop} {s00 : State} {s : State} (hk : Keeps P s00 s) (t : Twin) (p_edge : ¬ P .edge)
    (q_regs : ∀ u, ¬ P (.tw u .regs)) :
    Keeps P s00 (gdDiagBegin s t) := by
  unfold gdDiagBegin
  extract_lets
  repeat' with_reducible first
    | assumption | apply p_edge | apply q_regs | intro _ | apply modEdge_keeps | apply onLive_keeps | apply wf_keeps

theorem gdDiagStart_keeps {P : Part → Prop} {s00 : State} {s : State} (hk : Keeps P s00 s) (mask itest : Nat)
    (p_edge : ¬ P .edge) (q_regs : ∀ u, ¬ P (.tw u .regs)) (p_sluice : ¬ P .sluice) :
    Keeps P s00 (gdDiagStart s mask itest) := by
  unfold gdDiagStart
  extract_lets
  repeat' with_reducible first
    | assumption | apply p_edge | apply q_regs | apply p_sluice | intro _ | apply say_keeps | apply onLive_keeps
    | apply wf_keeps | apply leaveAsk_keeps | apply gdDiagBegin_keeps | apply Keeps.dite

theorem execGdDiagStart_keeps {P : Part → Prop} {s00 : State} {s : State} (hk : Keeps P s00 s) (tg : Target) (mask : BitVec 16)
    (itest : Fin 4) (p_edge : ¬ P .edge) (q_regs : ∀ u, ¬ P (.tw u .regs)) (p_sluice : ¬ P .sluice) :
    OutKeeps P s00 (execGdDiagStart tg mask itest s) := by
  unfold execGdDiagStart
  repeat' with_reducible first
    | assumption | apply p_edge | apply q_regs | apply p_sluice | intro _ | apply OutKeeps.next
    | apply OutKeeps.dite | apply agreedOnly_keeps | apply gdDiagStart_keeps

theorem diagResult_keeps {P : Part → Prop} {s00 : State} {s : State} (hk : Keeps P s00 s) (res : Nat) (p_edge : ¬ P .edge)
    (q_regs : ∀ u, ¬ P (.tw u .regs)) (p_sluice : ¬ P .sluice) :
    Keeps P s00 (diagResult s res) := by
  unfold diagResult
  repeat' with_reducible first
    | assumption | apply p_edge | apply q_regs | apply p_sluice | intro _ | apply onLive_keeps | apply wf_keeps
    | apply modEdge_keeps | apply ev_keeps | apply leaveEnd_keeps | apply Keeps.dite | split

theorem execGdDiagChannelEnd_keeps {P : Part → Prop} {s00 : State} {s : State} (hk : Keeps P s00 s) (v1 v2 vp : W32)
    (p_edge : ¬ P .edge) (q_regs : ∀ u, ¬ P (.tw u .regs)) (p_sluice : ¬ P .sluice) :
    OutKeeps P s00 (execGdDiagChannelEnd v1 v2 vp s) := by
  unfold execGdDiagChannelEnd
  extract_lets
  repeat' with_reducible first
    | assumption | apply p_edge | apply q_regs | apply p_sluice | intro _ | apply OutKeeps.next
    | apply OutKeeps.dite | apply diagResult_keeps | apply Keeps.dite | split

theorem execGdDiagAbort_keeps {P : Part → Prop} {s00 : State} {s : State} (hk : Keeps P s00 s) (p_edge : ¬ P .edge)
    (q_regs : ∀ u, ¬ P (.tw u .regs)) (p_sluice : ¬ P .sluice) :
    OutKeeps P s00 (execGdDiagAbort s) := by
  unfold execGdDiagAbort
  repeat' with_reducible first
    | assumption | apply p_edge | apply q_regs | apply p_sluice | intro _ | apply OutKeeps.next
    | apply OutKeeps.dite | apply diagResult_keeps | apply onLive_keeps | apply ev_keeps | apply Keeps.dite

/-! Machine/Trip.lean. -/

theorem latchIn_keeps {P : Part → Prop} {s00 : State} {s : State} (hk : Keeps P s00 s) (t : Twin) (i : Nat)
    (q_regs : ¬ P (.tw t .regs)) :
    Keeps P s00 (latchIn s t i) := by
  unfold latchIn
  extract_lets
  repeat' with_reducible first
    | assumption | apply q_regs | intro _ | apply evi_keeps | apply cnt_keeps | apply Keeps.dite

theorem execTripLatch_keeps {P : Part → Prop} {s00 : State} {s : State} (hk : Keeps P s00 s) (i : Fin 8) (onA onB : Bool)
    (p_edge : ¬ P .edge) (q_regs : ∀ u, ¬ P (.tw u .regs)) :
    OutKeeps P s00 (execTripLatch i onA onB s) := by
  unfold execTripLatch
  extract_lets
  repeat' with_reducible first
    | assumption | apply p_edge | apply q_regs | intro _ | apply OutKeeps.next | apply OutKeeps.dite
    | apply latchIn_keeps | apply settleAll_keeps | apply Keeps.dite

theorem settleSoft_keeps {P : Part → Prop} {s00 : State} {before : State} {s : State} (hk : Keeps P s00 before) (hk1 : Keeps P s00 s) (p_edge : ¬ P .edge) (q_regs : ∀ u, ¬ P (.tw u .regs)) :
    Keeps P s00 (settleSoft before s) := by
  unfold settleSoft
  try extract_lets
  repeat' with_reducible first | assumption | apply p_edge | apply q_regs | intro _ | apply onLive_keeps | apply evi_keeps | apply modOut_keeps | apply settleAll_keeps | apply Keeps.dite | apply Keeps.foldl | apply Keeps.foldl₁ | apply Keeps.foldl₂ | split | dsimp only

theorem sideDiff_keeps {P : Part → Prop} {s00 : State} {s : State} (hk : Keeps P s00 s) (t : Twin) (inO scO : Nat)
    (q_regs : ¬ P (.tw t .regs)) :
    Keeps P s00 (sideDiff s t inO scO) := by
  unfold sideDiff
  extract_lets
  repeat' with_reducible first
    | assumption | apply q_regs | intro _ | apply wf_keeps | apply ev_keeps | apply Keeps.dite

theorem execTripSideDiff_keeps {P : Part → Prop} {s00 : State} {s : State} (hk : Keeps P s00 s) (p_edge : ¬ P .edge) (q_regs : ∀ u, ¬ P (.tw u .regs)) :
    OutKeeps P s00 (execTripSideDiff s) := by
  unfold execTripSideDiff
  try extract_lets
  repeat' with_reducible first | assumption | apply p_edge | apply q_regs | intro _ | apply OutKeeps.next | apply OutKeeps.dite | apply settleSoft_keeps | apply sideDiff_keeps | apply Keeps.dite | split | dsimp only

theorem keepHold_keeps {P : Part → Prop} {s00 : State} {before : State} {s : State} (hk : Keeps P s00 before) (hk1 : Keeps P s00 s)
    (k : Nat) (p_edge : ¬ P .edge) :
    Keeps P s00 (keepHold before s k) := by
  unfold keepHold
  extract_lets
  repeat' with_reducible first | assumption | apply p_edge | intro _ | apply modOut_keeps | apply Keeps.dite

theorem tripClear_keeps {P : Part → Prop} {s00 : State} {s : State} (hk : Keeps P s00 s) (ins scs active above : Nat)
    (p_edge : ¬ P .edge) (q_regs : ∀ u, ¬ P (.tw u .regs)) :
    Keeps P s00 (tripClear s ins scs active above) := by
  unfold tripClear
  extract_lets
  repeat' with_reducible first
    | assumption | apply p_edge | apply q_regs | intro _ | apply onBoth_keeps | apply wf_keeps | apply refused_keeps
    | apply say_keeps | apply ev_keeps | apply settleAll_keeps | apply keepHold_keeps | apply Keeps.dite
    | apply Keeps.foldl

theorem execTripClear_keeps {P : Part → Prop} {s00 : State} {s : State} (hk : Keeps P s00 s) (ins scs active above : Byte)
    (p_edge : ¬ P .edge) (q_regs : ∀ u, ¬ P (.tw u .regs)) :
    OutKeeps P s00 (execTripClear ins scs active above s) := by
  unfold execTripClear
  repeat' with_reducible first
    | assumption | apply p_edge | apply q_regs | intro _ | apply OutKeeps.next | apply OutKeeps.dite
    | apply tripClear_keeps | apply say_keeps

theorem tripLock_keeps {P : Part → Prop} {s00 : State} {s : State} (hk : Keeps P s00 s) (t : Twin) (q_regs : ¬ P (.tw t .regs))
    :
    Keeps P s00 (tripLock s t) := by
  unfold tripLock
  repeat' with_reducible first | assumption | apply q_regs | intro _ | apply wf_keeps

theorem execTripLock_keeps {P : Part → Prop} {s00 : State} {s : State} (hk : Keeps P s00 s) (tg : Target) (q_regs : ∀ u, ¬ P (.tw u .regs))
    :
    OutKeeps P s00 (execTripLock tg s) := by
  unfold execTripLock
  repeat' with_reducible first
    | assumption | apply q_regs | intro _ | apply OutKeeps.next | apply OutKeeps.dite | apply onLive_keeps
    | apply tripLock_keeps | apply say_keeps | apply Keeps.dite | split

theorem latchSc_keeps {P : Part → Prop} {s00 : State} {s : State} (hk : Keeps P s00 s) (t : Twin) (k : Nat) (q_regs : ¬ P (.tw t .regs)) :
    Keeps P s00 (latchSc s t k) := by
  unfold latchSc
  try extract_lets
  repeat' with_reducible first | assumption | apply q_regs | intro _ | apply clri_keeps | apply evi_keeps | apply cnt_keeps | apply Keeps.dite | split | dsimp only

theorem onSides_keeps {P : Part → Prop} {s00 s : State} (hk : Keeps P s00 s) (onA onB : Bool) (f : State → Twin → State)
    (hf : ∀ s t, Keeps P s00 s → Keeps P s00 (f s t)) : Keeps P s00 (onSides onA onB f s) := by
  have h1 : Keeps P s00 (if onA then f s .a else s) := Keeps.dite (hf _ _ hk) hk
  exact Keeps.dite (hf _ _ h1) h1

theorem scTrip_keeps {P : Part → Prop} {s00 : State} {s : State} (hk : Keeps P s00 s) (k : Nat) (onA onB : Bool) (p_edge : ¬ P .edge) (q_regs : ∀ u, ¬ P (.tw u .regs)) :
    Keeps P s00 (scTrip s k onA onB) := by
  unfold scTrip
  try extract_lets
  repeat' with_reducible first | assumption | apply p_edge | apply q_regs | intro _ | apply settleSoft_keeps | apply onSides_keeps | apply latchSc_keeps | apply Keeps.dite | split | dsimp only

theorem execDsnTh2_keeps {P : Part → Prop} {s00 : State} {s : State} (hk : Keeps P s00 s) (d : DsnPoint) (p_edge : ¬ P .edge) (q_regs : ∀ u, ¬ P (.tw u .regs)) :
    OutKeeps P s00 (execDsnTh2 d s) := by
  unfold execDsnTh2
  try extract_lets
  repeat' with_reducible first | assumption | apply p_edge | apply q_regs | intro _ | apply OutKeeps.next | apply OutKeeps.dite | apply scTrip_keeps | apply Keeps.dite | split | dsimp only

theorem execDsnTh1_keeps {P : Part → Prop} {s00 : State} {s : State} (hk : Keeps P s00 s) (d : DsnPoint) (p_edge : ¬ P .edge) (q_regs : ∀ u, ¬ P (.tw u .regs)) :
    OutKeeps P s00 (execDsnTh1 d s) := by
  unfold execDsnTh1
  try extract_lets
  repeat' with_reducible first | assumption | apply p_edge | apply q_regs | intro _ | apply OutKeeps.next | apply OutKeeps.dite | apply onSides_keeps | apply evi_keeps | apply scTrip_keeps | apply Keeps.dite | split | dsimp only

theorem execDsnBlankingEnd_keeps {P : Part → Prop} {s00 : State} {s : State} (hk : Keeps P s00 s) (k : Fin 8) (above : Bool) (p_edge : ¬ P .edge) (q_regs : ∀ u, ¬ P (.tw u .regs)) :
    OutKeeps P s00 (execDsnBlankingEnd k above s) := by
  unfold execDsnBlankingEnd
  try extract_lets
  repeat' with_reducible first | assumption | apply p_edge | apply q_regs | intro _ | apply OutKeeps.next | apply OutKeeps.dite | apply modOut_keeps | apply onSides_keeps | apply evi_keeps | apply clri_keeps | apply scTrip_keeps | apply Keeps.dite | split | dsimp only

theorem execSoftTurnOffEnd_keeps {P : Part → Prop} {s00 : State} {s : State} (hk : Keeps P s00 s) (g : Fin 8)
    (p_edge : ¬ P .edge) (q_regs : ∀ u, ¬ P (.tw u .regs)) :
    OutKeeps P s00 (execSoftTurnOffEnd g s) := by
  unfold execSoftTurnOffEnd
  repeat' with_reducible first
    | assumption | apply p_edge | apply q_regs | intro _ | apply OutKeeps.next | apply OutKeeps.dite
    | apply settlePair_keeps | apply modOut_keeps

/-! Machine/Drive.lean. -/

theorem setRole_keeps {P : Part → Prop} {s00 : State} {s : State} (hk : Keeps P s00 s) (t : Twin) (d r : Nat) (v : W32)
    (q_law : ¬ P (.tw t .law)) (q_regs : ¬ P (.tw t .regs)) :
    Keeps P s00 (setRole s t d r v) := by
  unfold setRole
  repeat' with_reducible first
    | assumption | apply q_law | apply q_regs | intro _ | apply setNode_keeps | apply Keeps.dite | split

theorem modDrv_keeps {P : Part → Prop} {s00 : State} {s : State} (hk : Keeps P s00 s) (t : Twin) (f : DrvSt → DrvSt)
    (q_drv : ¬ P (.tw t .drv)) :
    Keeps P s00 (modDrv s t f) := by
  unfold modDrv
  repeat' first
    | (cases ‹TwinField› <;> first | rfl | exact absurd ‹_› (by solve_by_elim))
    | with_reducible first
      | assumption | apply q_drv | intro _ | apply Keeps.dite | split | refine Keeps.setTwRegs ?_ rfl (fun k => (k.tw _).same rfl rfl rfl rfl rfl rfl rfl rfl) fun f hf => ?_

theorem modChan_keeps {P : Part → Prop} {s00 : State} {s : State} (hk : Keeps P s00 s) (t : Twin) (d : Nat) (f : DrvCh → DrvCh)
    (q_drv : ¬ P (.tw t .drv)) :
    Keeps P s00 (modChan s t d f) := by
  unfold modChan
  repeat' with_reducible first | assumption | apply q_drv | intro _ | apply modDrv_keeps

theorem showWasc_keeps {P : Part → Prop} {s00 : State} {s : State} (hk : Keeps P s00 s) (t : Twin) (d : Nat)
    (q_regs : ¬ P (.tw t .regs)) :
    Keeps P s00 (showWasc s t d) := by
  unfold showWasc
  repeat' with_reducible first | assumption | apply q_regs | intro _ | apply wr_keeps

theorem catchStart_keeps {P : Part → Prop} {s00 : State} {s : State} (hk : Keeps P s00 s) (t : Twin) (d : Nat) (q_drv : ¬ P (.tw t .drv)) :
    Keeps P s00 (catchStart s t d) := by
  unfold catchStart
  try extract_lets
  repeat' with_reducible first | assumption | apply q_drv | intro _ | apply modChan_keeps | apply Keeps.dite | split | dsimp only

theorem chEnter_keeps {P : Part → Prop} {s00 : State} {s : State} (hk : Keeps P s00 s) (t : Twin) (d st : Nat) (reason : Option Nat) (q_drv : ¬ P (.tw t .drv)) (q_regs : ¬ P (.tw t .regs)) :
    Keeps P s00 (chEnter s t d st reason) := by
  unfold chEnter
  dsimp only
  repeat' with_reducible first | assumption | apply q_drv | apply q_regs | intro _ | apply wf_keeps | apply modChan_keeps | apply catchStart_keeps | apply ev_keeps | apply cnt_keeps | apply Keeps.dite | split | dsimp only

theorem noteLoss_keeps {P : Part → Prop} {s00 : State} {s : State} (hk : Keeps P s00 s) (t : Twin) (d : Nat) (q_drv : ¬ P (.tw t .drv)) (q_regs : ¬ P (.tw t .regs)) :
    Keeps P s00 (noteLoss s t d) := by
  unfold noteLoss
  try extract_lets
  repeat' with_reducible first | assumption | apply q_drv | apply q_regs | intro _ | apply modChan_keeps | apply cnt_keeps | apply ev_keeps | apply Keeps.dite | split | dsimp only

theorem firstRow_keeps {P : Part → Prop} {s00 : State} {s : State} (hk : Keeps P s00 s) (t : Twin) (d : Nat) (loss : Bool) (q_drv : ¬ P (.tw t .drv)) (q_regs : ¬ P (.tw t .regs)) :
    Keeps P s00 (firstRow s t d loss) := by
  unfold firstRow
  try extract_lets
  repeat' with_reducible first | assumption | apply q_drv | apply q_regs | intro _ | apply chEnter_keeps | apply ev_keeps | apply cnt_keeps | apply modChan_keeps | apply Keeps.dite | split | dsimp only

theorem transition_keeps {P : Part → Prop} {s00 : State} {s : State} (hk : Keeps P s00 s) (t : Twin) (d : Nat) (q_drv : ¬ P (.tw t .drv)) (q_regs : ¬ P (.tw t .regs)) :
    Keeps P s00 (transition s t d) := by
  unfold transition
  try extract_lets
  repeat' with_reducible first | assumption | apply q_drv | apply q_regs | intro _ | apply firstRow_keeps | apply noteLoss_keeps | apply Keeps.dite | split | dsimp only

theorem catchFail_keeps {P : Part → Prop} {s00 : State} {s : State} (hk : Keeps P s00 s) (t : Twin) (d : Nat)
    (q_drv : ¬ P (.tw t .drv)) (q_regs : ¬ P (.tw t .regs)) :
    Keeps P s00 (catchFail s t d) := by
  unfold catchFail
  repeat' with_reducible first
    | assumption | apply q_drv | apply q_regs | intro _ | apply modChan_keeps | apply ev_keeps

theorem catchSeed_keeps {P : Part → Prop} {s00 : State} {s : State} (hk : Keeps P s00 s) (t : Twin) (d : Nat) (ths w : W32)
    (q_drv : ¬ P (.tw t .drv)) (q_law : ¬ P (.tw t .law)) (q_regs : ¬ P (.tw t .regs)) :
    Keeps P s00 (catchSeed s t d ths w) := by
  unfold catchSeed
  dsimp only
  repeat' with_reducible first
    | assumption | apply q_drv | apply q_law | apply q_regs | intro _ | apply wr_keeps | apply modChan_keeps
    | apply setRole_keeps | apply Keeps.dite | split

theorem catchRun_keeps {P : Part → Prop} {s00 : State} {s : State} (hk : Keeps P s00 s) (t : Twin) (d : Nat) (q_drv : ¬ P (.tw t .drv)) (q_law : ¬ P (.tw t .law)) (q_regs : ¬ P (.tw t .regs)) :
    Keeps P s00 (catchRun s t d) := by
  unfold catchRun
  try extract_lets
  repeat' with_reducible first | assumption | apply q_drv | apply q_law | apply q_regs | intro _ | apply modChan_keeps | apply setRole_keeps | apply Keeps.dite | split | dsimp only

theorem crossOver_keeps {P : Part → Prop} {s00 : State} {s : State} (hk : Keeps P s00 s) (t : Twin) (d : Nat)
    (q_drv : ¬ P (.tw t .drv)) :
    Keeps P s00 (crossOver s t d) := by
  unfold crossOver
  extract_lets
  repeat' with_reducible first | assumption | apply q_drv | intro _ | apply modChan_keeps | apply Keeps.dite

theorem ascEstimate_keeps {P : Part → Prop} {s00 : State} {s : State} (hk : Keeps P s00 s) (t : Twin) (d : Nat)
    (q_drv : ¬ P (.tw t .drv)) :
    Keeps P s00 (ascEstimate s t d) := by
  unfold ascEstimate
  extract_lets
  repeat' with_reducible first | assumption | apply q_drv | intro _ | apply modChan_keeps

theorem heldSpeed_keeps {P : Part → Prop} {s00 : State} {s : State} (hk : Keeps P s00 s) (t : Twin) (d : Nat)
    (q_regs : ¬ P (.tw t .regs)) :
    Keeps P s00 (heldSpeed s t d) := by
  unfold heldSpeed
  extract_lets
  repeat' with_reducible first | assumption | apply q_regs | intro _ | apply wr_keeps | apply Keeps.dite | split

theorem lossCount_keeps {P : Part → Prop} {s00 : State} {s : State} (hk : Keeps P s00 s) (t : Twin) (d : Nat)
    (q_drv : ∀ u, ¬ P (.tw u .drv)) :
    Keeps P s00 (lossCount s t d) := by
  unfold lossCount
  extract_lets
  repeat' with_reducible first | assumption | apply q_drv | intro _ | apply modChan_keeps

theorem torqueScale_keeps {P : Part → Prop} {s00 : State} {s : State} (hk : Keeps P s00 s) (t : Twin) (d : Nat)
    (q_regs : ¬ P (.tw t .regs)) :
    Keeps P s00 (torqueScale s t d) := by
  unfold torqueScale
  extract_lets
  repeat' with_reducible first | assumption | apply q_regs | intro _ | apply wr_keeps

theorem torqueMonitor_keeps {P : Part → Prop} {s00 : State} {s : State} (hk : Keeps P s00 s) (t : Twin) (d : Nat)
    (q_drv : ¬ P (.tw t .drv)) (q_regs : ¬ P (.tw t .regs)) :
    Keeps P s00 (torqueMonitor s t d) := by
  unfold torqueMonitor
  extract_lets
  repeat' with_reducible first
    | assumption | apply q_drv | apply q_regs | intro _ | apply act_keeps | apply wr_keeps | apply wf_keeps
    | apply modChan_keeps

theorem chanOutputs_keeps {P : Part → Prop} {s00 : State} {s : State} (hk : Keeps P s00 s) (t : Twin) (d : Nat)
    (q_law : ¬ P (.tw t .law)) (q_regs : ¬ P (.tw t .regs)) :
    Keeps P s00 (chanOutputs s t d) := by
  unfold chanOutputs
  extract_lets
  repeat' with_reducible first
    | assumption | apply q_law | apply q_regs | intro _ | apply setRole_keeps | apply wf_keeps | apply Keeps.dite
    | apply Keeps.foldl

theorem chanRun_keeps {P : Part → Prop} {s00 : State} {s : State} (hk : Keeps P s00 s) (t : Twin) (d : Nat) (q_drv : ∀ u, ¬ P (.tw u .drv)) (q_law : ¬ P (.tw t .law)) (q_regs : ¬ P (.tw t .regs)) :
    Keeps P s00 (chanRun t s d) := by
  unfold chanRun
  try extract_lets
  repeat' with_reducible first | assumption | apply q_drv | apply q_law | apply q_regs | intro _ | apply crossOver_keeps | apply catchRun_keeps | apply ascEstimate_keeps | apply heldSpeed_keeps | apply lossCount_keeps | apply torqueScale_keeps | apply transition_keeps | apply chanOutputs_keeps | apply torqueMonitor_keeps | apply Keeps.dite | split | dsimp only

theorem raiseStage_keeps {P : Part → Prop} {s00 : State} {s : State} (hk : Keeps P s00 s) (t : Twin) (n : Nat)
    (q_regs : ¬ P (.tw t .regs)) :
    Keeps P s00 (raiseStage s t n) := by
  unfold raiseStage
  repeat' with_reducible first | assumption | apply q_regs | intro _ | apply wf_keeps | apply Keeps.dite

theorem stage2_keeps {P : Part → Prop} {s00 : State} {s : State} (hk : Keeps P s00 s) (t : Twin) (q_drv : ¬ P (.tw t .drv))
    (q_regs : ¬ P (.tw t .regs)) :
    Keeps P s00 (stage2 s t) := by
  unfold stage2
  extract_lets
  repeat' with_reducible first
    | assumption | apply q_drv | apply q_regs | intro _ | apply modDrv_keeps | apply raiseStage_keeps
    | apply ev_keeps | apply Keeps.dite

theorem spillTrip_keeps {P : Part → Prop} {s00 : State} {s : State} (hk : Keeps P s00 s) (t : Twin) (q_regs : ¬ P (.tw t .regs)) (q_twn : ∀ u, ¬ P (.tw u .twn)) :
    Keeps P s00 (spillTrip s t) := by
  unfold spillTrip
  try extract_lets
  repeat' with_reducible first | assumption | apply q_regs | apply q_twn | intro _ | apply wf_keeps | apply raiseStage_keeps | apply demand_keeps | apply cnt_keeps | apply ev_keeps | apply Keeps.dite | split | dsimp only

theorem spillRun_keeps {P : Part → Prop} {s00 : State} {s : State} (hk : Keeps P s00 s) (t : Twin) (q_drv : ¬ P (.tw t .drv)) (q_regs : ¬ P (.tw t .regs)) (q_twn : ∀ u, ¬ P (.tw u .twn)) :
    Keeps P s00 (spillRun s t) := by
  unfold spillRun
  try extract_lets
  repeat' with_reducible first | assumption | apply q_drv | apply q_regs | apply q_twn | intro _ | apply wf_keeps | apply cnt_keeps | apply ev_keeps | apply stage2_keeps | apply modDrv_keeps | apply raiseStage_keeps | apply spillTrip_keeps | apply wr_keeps | apply Keeps.dite | split | dsimp only

theorem sequencerRun_keeps {P : Part → Prop} {s00 : State} {s : State} (hk : Keeps P s00 s) (t : Twin) (q_drv : ∀ u, ¬ P (.tw u .drv)) (q_law : ¬ P (.tw t .law)) (q_regs : ¬ P (.tw t .regs)) (q_twn : ∀ u, ¬ P (.tw u .twn)) :
    Keeps P s00 (sequencerRun s t) := by
  unfold sequencerRun
  try extract_lets
  repeat' with_reducible first | assumption | apply q_drv | apply q_law | apply q_regs | apply q_twn | intro _ | apply spillRun_keeps | apply wf_keeps | apply setRole_keeps | apply chanRun_keeps | apply Keeps.dite | apply Keeps.foldl | apply Keeps.foldl₁ | apply Keeps.foldl₂ | split | dsimp only

/-! Machine/DriveRows.lean. -/

theorem chanForces_keeps {P : Part → Prop} {s00 : State} {s : State} (hk : Keeps P s00 s) (t : Twin) (d : Nat)
    (p_edge : ¬ P .edge) (q_regs : ∀ u, ¬ P (.tw u .regs)) :
    Keeps P s00 (chanForces s t d) := by
  unfold chanForces
  extract_lets
  repeat' with_reducible first
    | assumption | apply p_edge | apply q_regs | intro _ | apply settlePair_keeps | apply modPwm_keeps
    | apply Keeps.dite | apply Keeps.foldl

theorem chopperSet_keeps {P : Part → Prop} {s00 : State} {s : State} (hk : Keeps P s00 s) (t : Twin) (q_drv : ¬ P (.tw t .drv))
    (p_edge : ¬ P .edge) (q_regs : ∀ u, ¬ P (.tw u .regs)) :
    Keeps P s00 (chopperSet s t) := by
  unfold chopperSet
  extract_lets
  repeat' with_reducible first
    | assumption | apply q_drv | apply p_edge | apply q_regs | intro _ | apply modDrv_keeps | apply armSet_keeps
    | apply Keeps.dite

theorem dischargeGen_keeps {P : Part → Prop} {s00 : State} {s : State} (hk : Keeps P s00 s) (t : Twin) (p_edge : ¬ P .edge) (q_regs : ∀ u, ¬ P (.tw u .regs)) :
    Keeps P s00 (dischargeGen s t) := by
  unfold dischargeGen
  try extract_lets
  repeat' with_reducible first | assumption | apply p_edge | apply q_regs | intro _ | apply modGen_keeps | apply settlePair_keeps | apply Keeps.dite | split | dsimp only

theorem topoSet_keeps {P : Part → Prop} {s00 : State} {s : State} (hk : Keeps P s00 s) (old new : Nat) (p_edge : ¬ P .edge) (q_regs : ∀ u, ¬ P (.tw u .regs)) :
    Keeps P s00 (topoSet s old new) := by
  unfold topoSet
  try extract_lets
  repeat' with_reducible first | assumption | apply p_edge | apply q_regs | intro _ | apply settlePair_keeps | apply modPwm_keeps | apply Keeps.dite | apply Keeps.foldl | apply Keeps.foldl₁ | apply Keeps.foldl₂ | split | dsimp only

theorem applySequencer_keeps {P : Part → Prop} {s00 : State} {s : State} (hk : Keeps P s00 s) (q_drv : ∀ u, ¬ P (.tw u .drv))
    (p_edge : ¬ P .edge) (q_regs : ∀ u, ¬ P (.tw u .regs)) :
    Keeps P s00 (applySequencer s) := by
  unfold applySequencer
  extract_lets
  repeat' with_reducible first
    | assumption | apply q_drv | apply p_edge | apply q_regs | intro _ | apply dischargeGen_keeps
    | apply chopperSet_keeps | apply chanForces_keeps | apply Keeps.dite | apply Keeps.foldl

theorem execSequencerOutputApply_keeps {P : Part → Prop} {s00 : State} {s : State} (hk : Keeps P s00 s) (q_drv : ∀ u, ¬ P (.tw u .drv))
    (p_edge : ¬ P .edge) (q_regs : ∀ u, ¬ P (.tw u .regs)) :
    OutKeeps P s00 (execSequencerOutputApply s) := by
  unfold execSequencerOutputApply
  repeat' with_reducible first
    | assumption | apply q_drv | apply p_edge | apply q_regs | intro _ | apply OutKeeps.next | apply OutKeeps.dite
    | apply applySequencer_keeps

theorem driveEnable_keeps {P : Part → Prop} {s00 : State} {s : State} (hk : Keeps P s00 s) (tg : Target) (v : Bool) (q_drv : ∀ u, ¬ P (.tw u .drv)) (q_regs : ∀ u, ¬ P (.tw u .regs)) :
    Keeps P s00 (driveEnable tg s v) := by
  unfold driveEnable
  try extract_lets
  repeat' with_reducible first | assumption | apply q_drv | apply q_regs | intro _ | apply say_keeps | apply onTarget_keeps | apply wf_keeps | apply modDrv_keeps | apply Keeps.dite | split | dsimp only

theorem execDriveEnable_keeps {P : Part → Prop} {s00 : State} {s : State} (hk : Keeps P s00 s) (tg : Target) (v : Bool) (q_drv : ∀ u, ¬ P (.tw u .drv)) (q_regs : ∀ u, ¬ P (.tw u .regs)) :
    OutKeeps P s00 (execDriveEnable tg v s) := by
  unfold execDriveEnable
  try extract_lets
  repeat' with_reducible first | assumption | apply q_drv | apply q_regs | intro _ | apply OutKeeps.next | apply OutKeeps.dite | apply agreedOnly_keeps | apply driveEnable_keeps | apply Keeps.dite | split | dsimp only

theorem channelRun_keeps {P : Part → Prop} {s00 : State} {s : State} (hk : Keeps P s00 s) (tg : Target) (d : Nat)
    (v : Bool) (q_drv : ∀ u, ¬ P (.tw u .drv)) (q_regs : ∀ u, ¬ P (.tw u .regs)) :
    Keeps P s00 (channelRun tg s d v) := by
  unfold channelRun
  repeat' with_reducible first
    | assumption | apply q_drv | apply q_regs | intro _ | apply say_keeps | apply onTarget_keeps | apply wf_keeps
    | apply modChan_keeps | apply Keeps.dite

theorem execChannelRun_keeps {P : Part → Prop} {s00 : State} {s : State} (hk : Keeps P s00 s) (tg : Target) (d : Fin 2) (v : Bool) (q_drv : ∀ u, ¬ P (.tw u .drv)) (q_regs : ∀ u, ¬ P (.tw u .regs)) :
    OutKeeps P s00 (execChannelRun tg d v s) := by
  unfold execChannelRun
  try extract_lets
  repeat' with_reducible first | assumption | apply q_drv | apply q_regs | intro _ | apply OutKeeps.next | apply OutKeeps.dite | apply agreedOnly_keeps | apply channelRun_keeps | apply Keeps.dite | split | dsimp only

theorem execXoHoldEnd_keeps {P : Part → Prop} {s00 : State} {s : State} (hk : Keeps P s00 s) (d : Fin 2) (q_drv : ∀ u, ¬ P (.tw u .drv))
    :
    OutKeeps P s00 (execXoHoldEnd d s) := by
  unfold execXoHoldEnd
  repeat' with_reducible first
    | assumption | apply q_drv | intro _ | apply OutKeeps.next | apply OutKeeps.dite | apply onComputing_keeps
    | apply modChan_keeps

theorem catchMeasured_keeps {P : Part → Prop} {s00 : State} {s : State} (hk : Keeps P s00 s) (t : Twin) (d : Nat)
    (q_drv : ¬ P (.tw t .drv)) (q_law : ¬ P (.tw t .law)) (q_regs : ¬ P (.tw t .regs)) :
    Keeps P s00 (catchMeasured s t d) := by
  unfold catchMeasured
  extract_lets
  repeat' with_reducible first
    | assumption | apply q_drv | apply q_law | apply q_regs | intro _ | apply modChan_keeps | apply catchSeed_keeps
    | apply catchFail_keeps | apply Keeps.dite

theorem catchShow_keeps {P : Part → Prop} {s00 : State} {s : State} (hk : Keeps P s00 s) (t : Twin) (d : Nat) (q_drv : ¬ P (.tw t .drv)) (q_law : ¬ P (.tw t .law)) (q_regs : ¬ P (.tw t .regs)) :
    Keeps P s00 (catchShow s t d) := by
  unfold catchShow
  try extract_lets
  repeat' with_reducible first | assumption | apply q_drv | apply q_law | apply q_regs | intro _ | apply chanOutputs_keeps | apply transition_keeps | apply Keeps.dite | split | dsimp only

theorem execCatchMeasureEnd_keeps {P : Part → Prop} {s00 : State} {s : State} (hk : Keeps P s00 s) (d : Fin 2) (q_drv : ∀ u, ¬ P (.tw u .drv)) (q_law : ∀ u, ¬ P (.tw u .law)) (q_regs : ∀ u, ¬ P (.tw u .regs)) :
    OutKeeps P s00 (execCatchMeasureEnd d s) := by
  unfold execCatchMeasureEnd
  try extract_lets
  repeat' with_reducible first | assumption | apply q_drv | apply q_law | apply q_regs | intro _ | apply OutKeeps.next | apply OutKeeps.dite | apply onComputing_keeps | apply catchShow_keeps | apply catchMeasured_keeps | apply Keeps.dite | split | dsimp only

theorem polarityNext_keeps {P : Part → Prop} {s00 : State} {s : State} (hk : Keeps P s00 s) (t : Twin) (d : Nat)
    (q_drv : ¬ P (.tw t .drv)) (q_law : ¬ P (.tw t .law)) (q_regs : ¬ P (.tw t .regs)) :
    Keeps P s00 (polarityNext s t d) := by
  unfold polarityNext
  extract_lets
  repeat' with_reducible first
    | assumption | apply q_drv | apply q_law | apply q_regs | intro _ | apply modChan_keeps | apply catchSeed_keeps
    | apply catchFail_keeps | apply Keeps.dite

theorem execPolarityTest_keeps {P : Part → Prop} {s00 : State} {s : State} (hk : Keeps P s00 s) (d : Fin 2) (q_drv : ∀ u, ¬ P (.tw u .drv)) (q_law : ∀ u, ¬ P (.tw u .law)) (q_regs : ∀ u, ¬ P (.tw u .regs)) :
    OutKeeps P s00 (execPolarityTest d s) := by
  unfold execPolarityTest
  try extract_lets
  repeat' with_reducible first | assumption | apply q_drv | apply q_law | apply q_regs | intro _ | apply OutKeeps.next | apply OutKeeps.dite | apply onComputing_keeps | apply catchShow_keeps | apply polarityNext_keeps | apply Keeps.dite | split | dsimp only

theorem execCatchRetry_keeps {P : Part → Prop} {s00 : State} {s : State} (hk : Keeps P s00 s) (d : Fin 2) (q_drv : ∀ u, ¬ P (.tw u .drv))
    :
    OutKeeps P s00 (execCatchRetry d s) := by
  unfold execCatchRetry
  repeat' with_reducible first
    | assumption | apply q_drv | intro _ | apply OutKeeps.next | apply OutKeeps.dite | apply onComputing_keeps
    | apply catchStart_keeps | apply Keeps.dite

theorem observerLoss_keeps {P : Part → Prop} {s00 : State} {s : State} (hk : Keeps P s00 s) (t : Twin) (d : Nat) (q_drv : ¬ P (.tw t .drv)) (q_regs : ¬ P (.tw t .regs)) :
    Keeps P s00 (observerLoss s t d) := by
  unfold observerLoss
  try extract_lets
  repeat' with_reducible first | assumption | apply q_drv | apply q_regs | intro _ | apply transition_keeps | apply Keeps.dite | split | dsimp only

theorem execObserverLoss_keeps {P : Part → Prop} {s00 : State} {s : State} (hk : Keeps P s00 s) (d : Fin 2) (q_drv : ∀ u, ¬ P (.tw u .drv))
    (q_regs : ∀ u, ¬ P (.tw u .regs)) :
    OutKeeps P s00 (execObserverLoss d s) := by
  unfold execObserverLoss
  repeat' with_reducible first
    | assumption | apply q_drv | apply q_regs | intro _ | apply OutKeeps.next | apply OutKeeps.dite
    | apply onComputing_keeps | apply observerLoss_keeps

theorem ascExit_keeps {P : Part → Prop} {s00 : State} {s : State} (hk : Keeps P s00 s) (t : Twin) (d : Nat) (q_drv : ¬ P (.tw t .drv))
    (q_regs : ¬ P (.tw t .regs)) :
    Keeps P s00 (ascExit s t d) := by
  unfold ascExit
  extract_lets
  repeat' with_reducible first
    | assumption | apply q_drv | apply q_regs | intro _ | apply chEnter_keeps | apply Keeps.dite

theorem execAscExit_keeps {P : Part → Prop} {s00 : State} {s : State} (hk : Keeps P s00 s) (d : Fin 2) (q_drv : ∀ u, ¬ P (.tw u .drv))
    (q_regs : ∀ u, ¬ P (.tw u .regs)) :
    OutKeeps P s00 (execAscExit d s) := by
  unfold execAscExit
  repeat' with_reducible first
    | assumption | apply q_drv | apply q_regs | intro _ | apply OutKeeps.next | apply OutKeeps.dite
    | apply onComputing_keeps | apply ascExit_keeps

theorem execTmonCmd_keeps {P : Part → Prop} {s00 : State} {s : State} (hk : Keeps P s00 s) (t : Twin) (d : Fin 2) (q_regs : ∀ u, ¬ P (.tw u .regs)) (q_twn : ∀ u, ¬ P (.tw u .twn)) :
    OutKeeps P s00 (execTmonCmd t d s) := by
  unfold execTmonCmd
  try extract_lets
  repeat' with_reducible first | assumption | apply q_regs | apply q_twn | intro _ | apply OutKeeps.next | apply OutKeeps.dite | apply onLive_keeps | apply cnt_keeps | apply ev_keeps | apply demand_keeps | apply Keeps.dite | split | dsimp only

theorem execTmonEst_keeps {P : Part → Prop} {s00 : State} {s : State} (hk : Keeps P s00 s) (t : Twin) (d : Fin 2) (q_regs : ¬ P (.tw t .regs)) :
    OutKeeps P s00 (execTmonEst t d s) := by
  unfold execTmonEst
  try extract_lets
  repeat' with_reducible first | assumption | apply q_regs | intro _ | apply OutKeeps.next | apply OutKeeps.dite | apply ev_keeps | apply Keeps.dite | split | dsimp only

theorem feedStop_keeps {P : Part → Prop} {s00 : State} {s : State} (hk : Keeps P s00 s) (t : Twin) (v : Bool)
    (q_arr : ¬ P (.tw t .arr)) :
    Keeps P s00 (feedStop s t v) := by
  unfold feedStop
  repeat' with_reducible first | assumption | apply q_arr | intro _ | apply modArr_keeps

theorem discharge_keeps {P : Part → Prop} {s00 : State} {s : State} (hk : Keeps P s00 s) (tg : Target) (q_arr : ∀ u, ¬ P (.tw u .arr))
    (q_drv : ∀ u, ¬ P (.tw u .drv)) :
    Keeps P s00 (discharge tg s) := by
  unfold discharge
  repeat' with_reducible first
    | assumption | apply q_arr | apply q_drv | intro _ | apply onTarget_keeps | apply feedStop_keeps
    | apply modDrv_keeps | apply say_keeps | apply Keeps.dite

theorem execDischarge_keeps {P : Part → Prop} {s00 : State} {s : State} (hk : Keeps P s00 s) (tg : Target) (q_arr : ∀ u, ¬ P (.tw u .arr)) (q_drv : ∀ u, ¬ P (.tw u .drv)) :
    OutKeeps P s00 (execDischarge tg s) := by
  unfold execDischarge
  try extract_lets
  repeat' with_reducible first | assumption | apply q_arr | apply q_drv | intro _ | apply OutKeeps.next | apply OutKeeps.dite | apply agreedOnly_keeps | apply discharge_keeps | apply Keeps.dite | split | dsimp only

theorem execDischargeStart_keeps {P : Part → Prop} {s00 : State} {s : State} (hk : Keeps P s00 s) (q_drv : ∀ u, ¬ P (.tw u .drv))
    (q_regs : ∀ u, ¬ P (.tw u .regs)) :
    OutKeeps P s00 (execDischargeStart s) := by
  unfold execDischargeStart
  repeat' with_reducible first
    | assumption | apply q_drv | apply q_regs | intro _ | apply OutKeeps.next | apply OutKeeps.dite
    | apply onComputing_keeps | apply wf_keeps | apply modDrv_keeps | apply Keeps.dite

theorem disEnd_keeps {P : Part → Prop} {s00 : State} {s : State} (hk : Keeps P s00 s) (t : Twin) (next : Nat) (kept : Bool) (q_arr : ¬ P (.tw t .arr)) (q_drv : ¬ P (.tw t .drv)) (q_regs : ¬ P (.tw t .regs)) :
    Keeps P s00 (disEnd s t next kept) := by
  unfold disEnd
  try extract_lets
  repeat' with_reducible first | assumption | apply q_arr | apply q_drv | apply q_regs | intro _ | apply feedStop_keeps | apply wf_keeps | apply modDrv_keeps | apply Keeps.dite | split | dsimp only

theorem execDisRefused_keeps {P : Part → Prop} {s00 : State} {s : State} (hk : Keeps P s00 s) (q_arr : ∀ u, ¬ P (.tw u .arr)) (q_drv : ∀ u, ¬ P (.tw u .drv)) (q_regs : ∀ u, ¬ P (.tw u .regs)) :
    OutKeeps P s00 (execDisRefused s) := by
  unfold execDisRefused
  try extract_lets
  repeat' with_reducible first | assumption | apply q_arr | apply q_drv | apply q_regs | intro _ | apply OutKeeps.next | apply OutKeeps.dite | apply onComputing_keeps | apply ev_keeps | apply disEnd_keeps | apply say_keeps | apply Keeps.dite | split | dsimp only

theorem execDisStuck_keeps {P : Part → Prop} {s00 : State} {s : State} (hk : Keeps P s00 s) (q_arr : ∀ u, ¬ P (.tw u .arr)) (q_drv : ∀ u, ¬ P (.tw u .drv)) (q_regs : ∀ u, ¬ P (.tw u .regs)) :
    OutKeeps P s00 (execDisStuck s) := by
  unfold execDisStuck
  try extract_lets
  repeat' with_reducible first | assumption | apply q_arr | apply q_drv | apply q_regs | intro _ | apply OutKeeps.next | apply OutKeeps.dite | apply onComputing_keeps | apply ev_keeps | apply disEnd_keeps | apply Keeps.dite | split | dsimp only

theorem execDisDone_keeps {P : Part → Prop} {s00 : State} {s : State} (hk : Keeps P s00 s) (q_arr : ∀ u, ¬ P (.tw u .arr)) (q_drv : ∀ u, ¬ P (.tw u .drv)) (q_regs : ∀ u, ¬ P (.tw u .regs)) :
    OutKeeps P s00 (execDisDone s) := by
  unfold execDisDone
  try extract_lets
  repeat' with_reducible first | assumption | apply q_arr | apply q_drv | apply q_regs | intro _ | apply OutKeeps.next | apply OutKeeps.dite | apply onComputing_keeps | apply wf_keeps | apply ev_keeps | apply disEnd_keeps | apply Keeps.dite | split | dsimp only

theorem execDisFail_keeps {P : Part → Prop} {s00 : State} {s : State} (hk : Keeps P s00 s) (q_drv : ∀ u, ¬ P (.tw u .drv))
    (q_regs : ∀ u, ¬ P (.tw u .regs)) :
    OutKeeps P s00 (execDisFail s) := by
  unfold execDisFail
  repeat' with_reducible first
    | assumption | apply q_drv | apply q_regs | intro _ | apply OutKeeps.next | apply OutKeeps.dite
    | apply onComputing_keeps | apply ev_keeps | apply modDrv_keeps | apply Keeps.dite

theorem execDischargeEnd_keeps {P : Part → Prop} {s00 : State} {s : State} (hk : Keeps P s00 s) (q_arr : ∀ u, ¬ P (.tw u .arr)) (q_drv : ∀ u, ¬ P (.tw u .drv)) (q_regs : ∀ u, ¬ P (.tw u .regs)) :
    OutKeeps P s00 (execDischargeEnd s) := by
  unfold execDischargeEnd
  try extract_lets
  repeat' with_reducible first | assumption | apply q_arr | apply q_drv | apply q_regs | intro _ | apply OutKeeps.next | apply OutKeeps.dite | apply onComputing_keeps | apply disEnd_keeps | apply Keeps.dite | split | dsimp only

theorem execChopperFail_keeps {P : Part → Prop} {s00 : State} {s : State} (hk : Keeps P s00 s) (q_drv : ∀ u, ¬ P (.tw u .drv))
    (q_regs : ∀ u, ¬ P (.tw u .regs)) :
    OutKeeps P s00 (execChopperFail s) := by
  unfold execChopperFail
  repeat' with_reducible first
    | assumption | apply q_drv | apply q_regs | intro _ | apply OutKeeps.next | apply OutKeeps.dite
    | apply onComputing_keeps | apply stage2_keeps | apply wf_keeps | apply ev_keeps | apply Keeps.dite

theorem execStage2_keeps {P : Part → Prop} {s00 : State} {s : State} (hk : Keeps P s00 s) (q_drv : ∀ u, ¬ P (.tw u .drv))
    (q_regs : ∀ u, ¬ P (.tw u .regs)) :
    OutKeeps P s00 (execStage2 s) := by
  unfold execStage2
  repeat' with_reducible first
    | assumption | apply q_drv | apply q_regs | intro _ | apply OutKeeps.next | apply OutKeeps.dite
    | apply onComputing_keeps | apply stage2_keeps | apply Keeps.dite

theorem execSpillTrip_keeps {P : Part → Prop} {s00 : State} {s : State} (hk : Keeps P s00 s) (q_regs : ∀ u, ¬ P (.tw u .regs)) (q_twn : ∀ u, ¬ P (.tw u .twn)) :
    OutKeeps P s00 (execSpillTrip s) := by
  unfold execSpillTrip
  try extract_lets
  repeat' with_reducible first | assumption | apply q_regs | apply q_twn | intro _ | apply OutKeeps.next | apply OutKeeps.dite | apply onComputing_keeps | apply spillTrip_keeps | apply Keeps.dite | split | dsimp only

theorem execSpillwayExit_keeps {P : Part → Prop} {s00 : State} {s : State} (hk : Keeps P s00 s) (q_drv : ∀ u, ¬ P (.tw u .drv))
    (q_regs : ∀ u, ¬ P (.tw u .regs)) :
    OutKeeps P s00 (execSpillwayExit s) := by
  unfold execSpillwayExit
  repeat' with_reducible first
    | assumption | apply q_drv | apply q_regs | intro _ | apply OutKeeps.next | apply OutKeeps.dite
    | apply onComputing_keeps | apply modDrv_keeps | apply wf_keeps | apply Keeps.dite

theorem drvClear_keeps {P : Part → Prop} {s00 : State} {s : State} (hk : Keeps P s00 s) (tg : Target) (q_regs : ∀ u, ¬ P (.tw u .regs)) :
    Keeps P s00 (drvClear tg s) := by
  unfold drvClear
  try extract_lets
  repeat' with_reducible first | assumption | apply q_regs | intro _ | apply say_keeps | apply onTarget_keeps | apply wf_keeps | apply Keeps.dite | split | dsimp only

theorem execClear_keeps {P : Part → Prop} {s00 : State} {s : State} (hk : Keeps P s00 s) (tg : Target) (q_regs : ∀ u, ¬ P (.tw u .regs)) :
    OutKeeps P s00 (execClear tg s) := by
  unfold execClear
  try extract_lets
  repeat' with_reducible first | assumption | apply q_regs | intro _ | apply OutKeeps.next | apply OutKeeps.dite | apply agreedOnly_keeps | apply drvClear_keeps | apply Keeps.dite | split | dsimp only

theorem modPos_keeps {P : Part → Prop} {s00 : State} {s : State} (hk : Keeps P s00 s) (t : Twin) (f : PosSt → PosSt)
    (q_drv : ¬ P (.tw t .drv)) :
    Keeps P s00 (modPos s t f) := by
  unfold modPos
  repeat' with_reducible first | assumption | apply q_drv | intro _ | apply modDrv_keeps

theorem encError_keeps {P : Part → Prop} {s00 : State} {s : State} (hk : Keeps P s00 s) (t : Twin) (q_regs : ¬ P (.tw t .regs))
    :
    Keeps P s00 (encError s t) := by
  unfold encError
  repeat' with_reducible first | assumption | apply q_regs | intro _ | apply ev_keeps | apply cnt_keeps

theorem encoderStep_keeps {P : Part → Prop} {s00 : State} {s : State} (hk : Keeps P s00 s) (t : Twin) (a b z : Bool)
    (stamp : Int) (q_drv : ¬ P (.tw t .drv)) (q_regs : ¬ P (.tw t .regs)) :
    Keeps P s00 (encoderStep s t a b z stamp) := by
  unfold encoderStep
  extract_lets
  repeat' with_reducible first
    | assumption | apply q_drv | apply q_regs | intro _ | apply wf_keeps | apply encError_keeps | apply modPos_keeps
    | apply Keeps.dite

theorem execEncoderCount_keeps {P : Part → Prop} {s00 : State} {s : State} (hk : Keeps P s00 s) (a b z : Bool)
    (stamp : W64) (q_drv : ∀ u, ¬ P (.tw u .drv)) (q_regs : ∀ u, ¬ P (.tw u .regs)) :
    OutKeeps P s00 (execEncoderCount a b z stamp s) := by
  unfold execEncoderCount
  repeat' with_reducible first
    | assumption | apply q_drv | apply q_regs | intro _ | apply OutKeeps.next | apply OutKeeps.dite
    | apply onLive_keeps | apply encoderStep_keeps

theorem encoderIndex_keeps {P : Part → Prop} {s00 : State} {s : State} (hk : Keeps P s00 s) (t : Twin) (q_drv : ¬ P (.tw t .drv))
    (q_regs : ¬ P (.tw t .regs)) :
    Keeps P s00 (encoderIndex s t) := by
  unfold encoderIndex
  extract_lets
  repeat' with_reducible first
    | assumption | apply q_drv | apply q_regs | intro _ | apply wf_keeps | apply wr_keeps | apply modPos_keeps
    | apply ev_keeps | apply Keeps.dite

theorem execEncoderIndex_keeps {P : Part → Prop} {s00 : State} {s : State} (hk : Keeps P s00 s) (q_drv : ∀ u, ¬ P (.tw u .drv))
    (q_regs : ∀ u, ¬ P (.tw u .regs)) :
    OutKeeps P s00 (execEncoderIndex s) := by
  unfold execEncoderIndex
  repeat' with_reducible first
    | assumption | apply q_drv | apply q_regs | intro _ | apply OutKeeps.next | apply OutKeeps.dite
    | apply onLive_keeps | apply encoderIndex_keeps

theorem hallError_keeps {P : Part → Prop} {s00 : State} {s : State} (hk : Keeps P s00 s) (t : Twin) (q_regs : ¬ P (.tw t .regs))
    :
    Keeps P s00 (hallError s t) := by
  unfold hallError
  repeat' with_reducible first | assumption | apply q_regs | intro _ | apply ev_keeps | apply cnt_keeps

theorem hallStart_keeps {P : Part → Prop} {s00 : State} {s : State} (hk : Keeps P s00 s) (t : Twin) (q_drv : ¬ P (.tw t .drv)) (q_regs : ¬ P (.tw t .regs)) :
    Keeps P s00 (hallStart s t) := by
  unfold hallStart
  try extract_lets
  repeat' with_reducible first | assumption | apply q_drv | apply q_regs | intro _ | apply hallError_keeps | apply wf_keeps | apply modPos_keeps | apply Keeps.dite | split | dsimp only

theorem hallStep_keeps {P : Part → Prop} {s00 : State} {s : State} (hk : Keeps P s00 s) (t : Twin) (h : Nat) (stamp : Int) (q_drv : ¬ P (.tw t .drv)) (q_regs : ¬ P (.tw t .regs)) :
    Keeps P s00 (hallStep s t h stamp) := by
  unfold hallStep
  try extract_lets
  repeat' with_reducible first | assumption | apply q_drv | apply q_regs | intro _ | apply wf_keeps | apply hallError_keeps | apply modPos_keeps | apply Keeps.dite | split | dsimp only

theorem execHallChange_keeps {P : Part → Prop} {s00 : State} {s : State} (hk : Keeps P s00 s) (h : Fin 8) (stamp : W64)
    (q_drv : ∀ u, ¬ P (.tw u .drv)) (q_regs : ∀ u, ¬ P (.tw u .regs)) :
    OutKeeps P s00 (execHallChange h stamp s) := by
  unfold execHallChange
  repeat' with_reducible first
    | assumption | apply q_drv | apply q_regs | intro _ | apply OutKeeps.next | apply OutKeeps.dite
    | apply onLive_keeps | apply hallStep_keeps

end Sys2Proof.Machine
end

