-- ==== Sys2Proof/Laws/KeepLink.lean ====
section
/-! SUPPORT. What Laws/Keeps.lean says is kept by the operations of the network, the Tributary rings and the agreement of inputs. -/

namespace Sys2Proof.Machine

/-! Machine/Net.lean. -/

theorem showDd_keeps {P : Part → Prop} {s00 : State} {s : State} (hk : Keeps P s00 s) (q_regs : ∀ u, ¬ P (.tw u .regs))
    :
    Keeps P s00 (showDd s) := by
  unfold showDd
  repeat' with_reducible first | assumption | apply q_regs | intro _ | apply onLive_keeps | apply wf_keeps

theorem ddFrame_keeps {P : Part → Prop} {s00 : State} {s : State} (hk : Keeps P s00 s) (src : BitVec 48) (q : Nat)
    (dirB : Bool) (p_net : ¬ P .net) (q_regs : ∀ u, ¬ P (.tw u .regs)) :
    Keeps P s00 (ddFrame s src q dirB).1 := by
  unfold ddFrame
  extract_lets
  repeat' with_reducible first
    | assumption | apply p_net | apply q_regs | intro _ | apply modNet_keeps | apply onLive_keeps | apply ev_keeps
    | apply cnt_keeps | apply showDd_keeps | apply Keeps.dite

theorem execDdEntryForget_keeps {P : Part → Prop} {s00 : State} {s : State} (hk : Keeps P s00 s) (src : BitVec 48)
    (p_net : ¬ P .net) (q_regs : ∀ u, ¬ P (.tw u .regs)) :
    OutKeeps P s00 (execDdEntryForget src s) := by
  unfold execDdEntryForget
  repeat' with_reducible first
    | assumption | apply p_net | apply q_regs | intro _ | apply OutKeeps.next | apply OutKeeps.dite
    | apply showDd_keeps | apply modNet_keeps

theorem netDeliver_keeps {P : Part → Prop} {s00 : State} {s : State} (hk : Keeps P s00 s) (r : NetRoute) (f : NetFrame)
    (p_net : ¬ P .net) (q_regs : ∀ u, ¬ P (.tw u .regs)) :
    Keeps P s00 (netDeliver s r f) := by
  unfold netDeliver
  repeat' with_reducible first
    | assumption | apply p_net | apply q_regs | intro _ | apply modNet_keeps | apply onLive_keeps | apply cnt_keeps
    | apply Keeps.dite

theorem hsrForward_keeps {P : Part → Prop} {s00 : State} {s : State} (hk : Keeps P s00 s) (p : Nat) (f : NetFrame) (resid : Int) (p_net : ¬ P .net) (q_regs : ∀ u, ¬ P (.tw u .regs)) (q_xings : ∀ u, ¬ P (.tw u .xings)) :
    Keeps P s00 (hsrForward s p f resid) := by
  unfold hsrForward
  try extract_lets
  repeat' with_reducible first | assumption | apply p_net | apply q_regs | apply q_xings | intro _ | apply modNet_keeps | apply transmit_keeps | apply Keeps.dite | split | dsimp only

theorem hsrFrame_keeps {P : Part → Prop} {s00 : State} {s : State} (hk : Keeps P s00 s) (p : Nat) (f : NetFrame) (resid : Int) (p_net : ¬ P .net) (q_regs : ∀ u, ¬ P (.tw u .regs)) (q_xings : ∀ u, ¬ P (.tw u .xings)) :
    Keeps P s00 (hsrFrame s p f resid) := by
  unfold hsrFrame
  extract_lets r multi
  clear_value r multi
  repeat' with_reducible first | assumption | apply p_net | apply q_regs | apply q_xings | intro _ | apply ddFrame_keeps | apply netDeliver_keeps | apply onLive_keeps | apply cnt_keeps | apply modNet_keeps | apply hsrForward_keeps | apply Keeps.dite | split | dsimp only

theorem prpFrame_keeps {P : Part → Prop} {s00 : State} {s : State} (hk : Keeps P s00 s) (f : NetFrame) (p_net : ¬ P .net) (q_regs : ∀ u, ¬ P (.tw u .regs)) :
    Keeps P s00 (prpFrame s f) := by
  unfold prpFrame
  try extract_lets
  repeat' with_reducible first | assumption | apply p_net | apply q_regs | intro _ | apply onLive_keeps | apply cnt_keeps | apply netDeliver_keeps | apply ddFrame_keeps | apply Keeps.dite | split | dsimp only

theorem execNetFrameReceive_keeps {P : Part → Prop} {s00 : State} {s : State} (hk : Keeps P s00 s) (p : Fin 4) (f : NetFrame) (resid : Int) (p_net : ¬ P .net) (q_regs : ∀ u, ¬ P (.tw u .regs)) (q_xings : ∀ u, ¬ P (.tw u .xings)) :
    OutKeeps P s00 (execNetFrameReceive p f resid s) := by
  unfold execNetFrameReceive
  try extract_lets
  repeat' with_reducible first | assumption | apply p_net | apply q_regs | apply q_xings | intro _ | apply OutKeeps.next | apply OutKeeps.dite | apply crossIn_keeps | apply modNet_keeps | apply onPort_keeps | apply cnt_keeps | apply onLive_keeps | apply hsrFrame_keeps | apply prpFrame_keeps | apply Keeps.dite | split | dsimp only

theorem execPrpCopyRelay_keeps {P : Part → Prop} {s00 : State} {s : State} (hk : Keeps P s00 s) (p_net : ¬ P .net) (q_regs : ∀ u, ¬ P (.tw u .regs)) (q_xings : ∀ u, ¬ P (.tw u .xings)) :
    OutKeeps P s00 (execPrpCopyRelay s) := by
  unfold execPrpCopyRelay
  try extract_lets
  repeat' with_reducible first | assumption | apply p_net | apply q_regs | apply q_xings | intro _ | apply OutKeeps.next | apply OutKeeps.dite | apply modNet_keeps | apply transmit_keeps | apply Keeps.dite | apply Keeps.foldl | apply Keeps.foldl₁ | apply Keeps.foldl₂ | split | dsimp only

theorem execPortTakeover_keeps {P : Part → Prop} {s00 : State} {s : State} (hk : Keeps P s00 s) (lan : Fin 2) (p_net : ¬ P .net) (q_net : ∀ u, ¬ P (.tw u .net)) (q_regs : ∀ u, ¬ P (.tw u .regs)) (q_xings : ∀ u, ¬ P (.tw u .xings)) :
    OutKeeps P s00 (execPortTakeover lan s) := by
  unfold execPortTakeover
  try extract_lets
  repeat' with_reducible first | assumption | apply p_net | apply q_net | apply q_regs | apply q_xings | intro _ | apply OutKeeps.next | apply OutKeeps.dite | apply modNet_keeps | apply onLive_keeps | apply ev_keeps | apply showServe_keeps | apply takeSeq_keeps | apply transmit_keeps | apply Keeps.dite | split | dsimp only

theorem execPortReturn_keeps {P : Part → Prop} {s00 : State} {s : State} (hk : Keeps P s00 s) (lan : Fin 2) (p_net : ¬ P .net)
    (q_regs : ∀ u, ¬ P (.tw u .regs)) :
    OutKeeps P s00 (execPortReturn lan s) := by
  unfold execPortReturn
  extract_lets
  repeat' with_reducible first
    | assumption | apply p_net | apply q_regs | intro _ | apply OutKeeps.next | apply OutKeeps.dite
    | apply modNet_keeps | apply onLive_keeps | apply ev_keeps | apply showServe_keeps | apply Keeps.dite

theorem execSupervisionFrame_keeps {P : Part → Prop} {s00 : State} {s : State} (hk : Keeps P s00 s) (p_net : ¬ P .net) (q_net : ∀ u, ¬ P (.tw u .net)) (q_regs : ∀ u, ¬ P (.tw u .regs)) (q_xings : ∀ u, ¬ P (.tw u .xings)) :
    OutKeeps P s00 (execSupervisionFrame s) := by
  unfold execSupervisionFrame
  try extract_lets
  repeat' with_reducible first | assumption | apply p_net | apply q_net | apply q_regs | apply q_xings | intro _ | apply OutKeeps.next | apply OutKeeps.dite | apply sendBoth_keeps | apply Keeps.dite | split | dsimp only

theorem portLinkSet_keeps {P : Part → Prop} {s00 : State} {s : State} (hk : Keeps P s00 s) (p : Nat) (carrier sync an half : Bool) (mbps codes : Nat) (p_net : ¬ P .net) (q_regs : ∀ u, ¬ P (.tw u .regs)) :
    Keeps P s00 (portLinkSet s p carrier sync an half mbps codes) := by
  unfold portLinkSet
  try extract_lets
  repeat' with_reducible first | assumption | apply p_net | apply q_regs | intro _ | apply modNet_keeps | apply onPort_keeps | apply wf_keeps | apply cntBy_keeps | apply onLive_keeps | apply ev_keeps | apply Keeps.dite | split | dsimp only

theorem execPortLinkChange_keeps {P : Part → Prop} {s00 : State} {s : State} (hk : Keeps P s00 s) (p : Fin 4)
    (carrier sync an half : Bool) (mbps : Fin 3) (codes : BitVec 16) (p_net : ¬ P .net) (q_regs : ∀ u, ¬ P (.tw u .regs))
    :
    OutKeeps P s00 (execPortLinkChange p carrier sync an half mbps codes s) := by
  unfold execPortLinkChange
  repeat' with_reducible first
    | assumption | apply p_net | apply q_regs | intro _ | apply OutKeeps.next | apply OutKeeps.dite
    | apply portLinkSet_keeps

theorem execSvReceive_keeps {P : Part → Prop} {s00 : State} {s : State} (hk : Keeps P s00 s) (t : Twin) (i : Fin 8) (lan : Fin 2) (m : SvMsg) (q_net : ¬ P (.tw t .net)) (q_regs : ∀ u, ¬ P (.tw u .regs)) (q_xings : ∀ u, ¬ P (.tw u .xings)) :
    OutKeeps P s00 (execSvReceive t i lan m s) := by
  unfold execSvReceive
  try extract_lets
  repeat' with_reducible first | assumption | apply q_net | apply q_regs | apply q_xings | intro _ | apply OutKeeps.next | apply OutKeeps.dite | apply lanIn_keeps | apply modNetTw_keeps | apply wf_keeps | apply cnt_keeps | apply Keeps.dite | split | dsimp only

theorem svLost_keeps {P : Part → Prop} {s00 : State} {s : State} (hk : Keeps P s00 s) (t : Twin) (i : Nat) (q_regs : ¬ P (.tw t .regs))
    :
    Keeps P s00 (svLost s t i) := by
  unfold svLost
  repeat' with_reducible first
    | assumption | apply q_regs | intro _ | apply ev_keeps | apply wf_keeps | apply Keeps.dite

theorem execSvLost_keeps {P : Part → Prop} {s00 : State} {s : State} (hk : Keeps P s00 s) (i : Fin 8) (q_regs : ∀ u, ¬ P (.tw u .regs))
    :
    OutKeeps P s00 (execSvLost i s) := by
  unfold execSvLost
  repeat' with_reducible first
    | assumption | apply q_regs | intro _ | apply OutKeeps.next | apply OutKeeps.dite | apply onComputing_keeps
    | apply svLost_keeps

theorem svAgree_keeps {P : Part → Prop} {s00 : State} {s : State} (hk : Keeps P s00 s) (t : Twin) (g : GraphImg) (k : Nat) (tau : Int) (i : Nat) (q_law : ¬ P (.tw t .law)) (q_net : ¬ P (.tw t .net)) (q_regs : ¬ P (.tw t .regs)) :
    Keeps P s00 (svAgree s t g k tau i) := by
  unfold svAgree
  try extract_lets
  repeat' with_reducible first | assumption | apply q_law | apply q_net | apply q_regs | intro _ | apply cnt_keeps | apply wf_keeps | apply modNetTw_keeps | apply setNode_keeps | apply nodeInvalid_keeps | apply svLost_keeps | apply Keeps.dite | apply Keeps.foldl | apply Keeps.foldl₁ | apply Keeps.foldl₂ | split | dsimp only

theorem svRecord_keeps {P : Part → Prop} {s00 : State} {s : State} (hk : Keeps P s00 s) (t : Twin) (k : Nat) (from_ : Int) (q_net : ¬ P (.tw t .net)) :
    Keeps P s00 (svRecord s t k from_) := by
  unfold svRecord
  try extract_lets
  repeat' with_reducible first | assumption | apply q_net | intro _ | apply modNetTw_keeps | apply Keeps.dite | apply Keeps.foldl | apply Keeps.foldl₁ | apply Keeps.foldl₂ | split | dsimp only

theorem execSvPublish_keeps {P : Part → Prop} {s00 : State} {s : State} (hk : Keeps P s00 s) (j : Fin 4) (first : BitVec 16) (p_net : ¬ P .net) (q_net : ∀ u, ¬ P (.tw u .net)) (q_queues : ∀ u, ¬ P (.tw u .queues)) (q_regs : ∀ u, ¬ P (.tw u .regs)) (q_xings : ∀ u, ¬ P (.tw u .xings)) :
    OutKeeps P s00 (execSvPublish j first s) := by
  unfold execSvPublish
  try extract_lets
  repeat' with_reducible first | assumption | apply p_net | apply q_net | apply q_queues | apply q_regs | apply q_xings | intro _ | apply OutKeeps.next | apply OutKeeps.dite | apply sendBoth_keeps | apply onComputing_keeps | apply queueUnit_keeps | apply wf_keeps | apply cnt_keeps | apply Keeps.dite | split | dsimp only

theorem execGooseReceive_keeps {P : Part → Prop} {s00 : State} {s : State} (hk : Keeps P s00 s) (t : Twin) (i : Fin 32) (lan : Fin 2) (m : GooseMsg) (q_net : ¬ P (.tw t .net)) (q_regs : ∀ u, ¬ P (.tw u .regs)) (q_xings : ∀ u, ¬ P (.tw u .xings)) :
    OutKeeps P s00 (execGooseReceive t i lan m s) := by
  unfold execGooseReceive
  try extract_lets
  repeat' with_reducible first | assumption | apply q_net | apply q_regs | apply q_xings | intro _ | apply OutKeeps.next | apply OutKeeps.dite | apply lanIn_keeps | apply wf_keeps | apply modNetTw_keeps | apply cnt_keeps | apply ev_keeps | apply Keeps.dite | split | dsimp only

theorem gooseAgree_keeps {P : Part → Prop} {s00 : State} {s : State} (hk : Keeps P s00 s) (t : Twin) (g : GraphImg) (k : Nat) (tau : Int) (i : Nat) (q_law : ¬ P (.tw t .law)) (q_regs : ¬ P (.tw t .regs)) :
    Keeps P s00 (gooseAgree s t g k tau i) := by
  unfold gooseAgree
  try extract_lets
  repeat' with_reducible first | assumption | apply q_law | apply q_regs | intro _ | apply wr_keeps | apply wf_keeps | apply setNode_keeps | apply nodeInvalid_keeps | apply Keeps.dite | apply Keeps.foldl | apply Keeps.foldl₁ | apply Keeps.foldl₂ | split | dsimp only

theorem execGooseLost_keeps {P : Part → Prop} {s00 : State} {s : State} (hk : Keeps P s00 s) (i : Fin 32) (q_regs : ∀ u, ¬ P (.tw u .regs))
    :
    OutKeeps P s00 (execGooseLost i s) := by
  unfold execGooseLost
  repeat' with_reducible first
    | assumption | apply q_regs | intro _ | apply OutKeeps.next | apply OutKeeps.dite | apply onComputing_keeps
    | apply ev_keeps | apply wf_keeps | apply Keeps.dite

theorem gooseChange_keeps {P : Part → Prop} {s00 : State} {s : State} (hk : Keeps P s00 s) (t : Twin) (j : Nat)
    (items : List W32) (tau : Int) (q_net : ¬ P (.tw t .net)) (q_regs : ¬ P (.tw t .regs)) :
    Keeps P s00 (gooseChange s t j items tau) := by
  unfold gooseChange
  extract_lets
  repeat' with_reducible first
    | assumption | apply q_net | apply q_regs | intro _ | apply wr_keeps | apply wf_keeps | apply modNetTw_keeps

theorem gooseRun_keeps {P : Part → Prop} {s00 : State} {s : State} (hk : Keeps P s00 s) (t : Twin) (k : Nat) (tau : Int) (p_net : ¬ P .net) (q_net : ∀ u, ¬ P (.tw u .net)) (q_regs : ∀ u, ¬ P (.tw u .regs)) (q_xings : ∀ u, ¬ P (.tw u .xings)) :
    Keeps P s00 (gooseRun s t k tau) := by
  unfold gooseRun
  try extract_lets
  repeat' with_reducible first | assumption | apply p_net | apply q_net | apply q_regs | apply q_xings | intro _ | apply gooseChange_keeps | apply sendBoth_keeps | apply Keeps.dite | apply Keeps.foldl | apply Keeps.foldl₁ | apply Keeps.foldl₂ | split | dsimp only

theorem execGooseRepeat_keeps {P : Part → Prop} {s00 : State} {s : State} (hk : Keeps P s00 s) (j : Fin 8) (p_net : ¬ P .net) (q_net : ∀ u, ¬ P (.tw u .net)) (q_regs : ∀ u, ¬ P (.tw u .regs)) (q_xings : ∀ u, ¬ P (.tw u .xings)) :
    OutKeeps P s00 (execGooseRepeat j s) := by
  unfold execGooseRepeat
  try extract_lets
  repeat' with_reducible first | assumption | apply p_net | apply q_net | apply q_regs | apply q_xings | intro _ | apply OutKeeps.next | apply OutKeeps.dite | apply onComputing_keeps | apply wr_keeps | apply modNetTw_keeps | apply sendBoth_keeps | apply Keeps.dite | split | dsimp only

theorem arpLearn_keeps {P : Part → Prop} {s00 : State} {s : State} (hk : Keeps P s00 s) (ip : W32) (mac : BitVec 48)
    (p_net : ¬ P .net) :
    Keeps P s00 (arpLearn s ip mac) := by
  unfold arpLearn
  repeat' with_reducible first | assumption | apply p_net | intro _ | apply modNet_keeps

theorem execArpRequest_keeps {P : Part → Prop} {s00 : State} {s : State} (hk : Keeps P s00 s) (target sender : W32) (mac : BitVec 48) (p_net : ¬ P .net) (q_net : ∀ u, ¬ P (.tw u .net)) (q_regs : ∀ u, ¬ P (.tw u .regs)) (q_xings : ∀ u, ¬ P (.tw u .xings)) :
    OutKeeps P s00 (execArpRequest target sender mac s) := by
  unfold execArpRequest
  try extract_lets
  repeat' with_reducible first | assumption | apply p_net | apply q_net | apply q_regs | apply q_xings | intro _ | apply OutKeeps.next | apply OutKeeps.dite | apply crossIn_keeps | apply sendLead_keeps | apply arpLearn_keeps | apply Keeps.dite | split | dsimp only

theorem execIcmpEcho_keeps {P : Part → Prop} {s00 : State} {s : State} (hk : Keeps P s00 s) (src : W32) (payload : List Byte) (p_net : ¬ P .net) (q_net : ∀ u, ¬ P (.tw u .net)) (q_regs : ∀ u, ¬ P (.tw u .regs)) (q_xings : ∀ u, ¬ P (.tw u .xings)) :
    OutKeeps P s00 (execIcmpEcho src payload s) := by
  unfold execIcmpEcho
  try extract_lets
  repeat' with_reducible first | assumption | apply p_net | apply q_net | apply q_regs | apply q_xings | intro _ | apply OutKeeps.next | apply OutKeeps.dite | apply crossIn_keeps | apply sendLead_keeps | apply modNet_keeps | apply Keeps.dite | split | dsimp only

theorem execArpEntryExpire_keeps {P : Part → Prop} {s00 : State} {s : State} (hk : Keeps P s00 s) (ip : W32)
    (p_net : ¬ P .net) :
    OutKeeps P s00 (execArpEntryExpire ip s) := by
  unfold execArpEntryExpire
  repeat' with_reducible first
    | assumption | apply p_net | intro _ | apply OutKeeps.next | apply OutKeeps.dite | apply modNet_keeps

/-! Machine/Trib.lean. -/

theorem endTraining_keeps {P : Part → Prop} {s00 : State} {s : State} (hk : Keeps P s00 s) (q_regs : ∀ u, ¬ P (.tw u .regs)) (p_sluice : ¬ P .sluice) :
    Keeps P s00 (endTraining s) := by
  unfold endTraining
  try extract_lets
  repeat' with_reducible first | assumption | apply q_regs | apply p_sluice | intro _ | apply dropTraining_keeps | apply Keeps.dite | split | dsimp only

theorem trainRing_keeps {P : Part → Prop} {s00 : State} {s : State} (hk : Keeps P s00 s) (t : Twin) (c : Nat) (q_regs : ∀ u, ¬ P (.tw u .regs)) (q_rings : ∀ u, ¬ P (.tw u .rings)) (p_sluice : ¬ P .sluice) :
    Keeps P s00 (trainRing s t c) := by
  unfold trainRing
  try extract_lets
  repeat' with_reducible first | assumption | apply q_regs | apply q_rings | apply p_sluice | intro _ | apply trainLeave_keeps | apply modRingX_keeps | apply Keeps.dite | split | dsimp only

theorem execRingRxSync_keeps {P : Part → Prop} {s00 : State} {s : State} (hk : Keeps P s00 s) (t : Twin) (c : Fin 12) (q_regs : ¬ P (.tw t .regs)) (q_rings : ¬ P (.tw t .rings)) :
    OutKeeps P s00 (execRingRxSync t c s) := by
  unfold execRingRxSync
  try extract_lets
  repeat' with_reducible first | assumption | apply q_regs | apply q_rings | intro _ | apply OutKeeps.next | apply OutKeeps.dite | apply wf_keeps | apply setRing_keeps | apply modRingX_keeps | apply Keeps.dite | split | dsimp only

theorem execRingStartTimeout_keeps {P : Part → Prop} {s00 : State} {s : State} (hk : Keeps P s00 s) (t : Twin) (c : Fin 12) (q_regs : ∀ u, ¬ P (.tw u .regs)) (q_rings : ¬ P (.tw t .rings)) (p_sluice : ¬ P .sluice) :
    OutKeeps P s00 (execRingStartTimeout t c s) := by
  unfold execRingStartTimeout
  try extract_lets
  repeat' with_reducible first | assumption | apply q_regs | apply q_rings | apply p_sluice | intro _ | apply OutKeeps.next | apply OutKeeps.dite | apply endTraining_keeps | apply ev_keeps | apply setRing_keeps | apply Keeps.dite | split | dsimp only

theorem execRingRetry_keeps {P : Part → Prop} {s00 : State} {s : State} (hk : Keeps P s00 s) (t : Twin) (c : Fin 12)
    (q_regs : ∀ u, ¬ P (.tw u .regs)) (q_rings : ∀ u, ¬ P (.tw u .rings)) (p_sluice : ¬ P .sluice) :
    OutKeeps P s00 (execRingRetry t c s) := by
  unfold execRingRetry
  repeat' with_reducible first
    | assumption | apply q_regs | apply q_rings | apply p_sluice | intro _ | apply OutKeeps.next
    | apply OutKeeps.dite | apply trainRing_keeps | apply Keeps.dite

theorem ringRestart_keeps {P : Part → Prop} {s00 : State} {s : State} (hk : Keeps P s00 s) (t : Twin) (c : Nat) (q_regs : ∀ u, ¬ P (.tw u .regs)) (q_rings : ∀ u, ¬ P (.tw u .rings)) (p_sluice : ¬ P .sluice) :
    Keeps P s00 (ringRestart s t c) := by
  unfold ringRestart
  try extract_lets
  repeat' with_reducible first | assumption | apply q_regs | apply q_rings | apply p_sluice | intro _ | apply trainRing_keeps | apply setRing_keeps | apply Keeps.dite | split | dsimp only

theorem execRestart_keeps {P : Part → Prop} {s00 : State} {s : State} (hk : Keeps P s00 s) (t : Twin) (c : Fin 12)
    (q_regs : ∀ u, ¬ P (.tw u .regs)) (q_rings : ∀ u, ¬ P (.tw u .rings)) (p_sluice : ¬ P .sluice) :
    OutKeeps P s00 (execRestart t c s) := by
  unfold execRestart
  repeat' with_reducible first
    | assumption | apply q_regs | apply q_rings | apply p_sluice | intro _ | apply OutKeeps.next
    | apply OutKeeps.dite | apply ringRestart_keeps | apply say_keeps

theorem probeNow_keeps {P : Part → Prop} {s00 : State} {s : State} (hk : Keeps P s00 s) (t : Twin) (c : Nat)
    (q_arr : ¬ P (.tw t .arr)) :
    Keeps P s00 (probeNow s t c) := by
  unfold probeNow
  repeat' with_reducible first | assumption | apply q_arr | intro _ | apply modArr_keeps

theorem execProbeNow_keeps {P : Part → Prop} {s00 : State} {s : State} (hk : Keeps P s00 s) (t : Twin) (c : Fin 12)
    (q_arr : ¬ P (.tw t .arr)) :
    OutKeeps P s00 (execProbeNow t c s) := by
  unfold execProbeNow
  repeat' with_reducible first
    | assumption | apply q_arr | intro _ | apply OutKeeps.next | apply OutKeeps.dite | apply probeNow_keeps
    | apply say_keeps

theorem execProbeCycle_keeps {P : Part → Prop} {s00 : State} {s : State} (hk : Keeps P s00 s) (q_arr : ∀ u, ¬ P (.tw u .arr)) (q_regs : ∀ u, ¬ P (.tw u .regs)) :
    OutKeeps P s00 (execProbeCycle s) := by
  unfold execProbeCycle
  try extract_lets
  repeat' with_reducible first | assumption | apply q_arr | apply q_regs | intro _ | apply OutKeeps.next | apply OutKeeps.dite | apply budget_keeps | apply onBoth_keeps | apply probeNow_keeps | apply Keeps.dite | apply Keeps.foldl | apply Keeps.foldl₁ | apply Keeps.foldl₂ | split | dsimp only

theorem execProbeStale_keeps {P : Part → Prop} {s00 : State} {s : State} (hk : Keeps P s00 s) (t : Twin) (c : Fin 12)
    (q_regs : ¬ P (.tw t .regs)) :
    OutKeeps P s00 (execProbeStale t c s) := by
  unfold execProbeStale
  repeat' with_reducible first
    | assumption | apply q_regs | intro _ | apply OutKeeps.next | apply OutKeeps.dite | apply ev_keeps
    | apply Keeps.dite

theorem execRingRxSyncLost_keeps {P : Part → Prop} {s00 : State} {s : State} (hk : Keeps P s00 s) (t : Twin) (c : Fin 12) (q_regs : ∀ u, ¬ P (.tw u .regs)) (q_rings : ∀ u, ¬ P (.tw u .rings)) (p_sluice : ¬ P .sluice) :
    OutKeeps P s00 (execRingRxSyncLost t c s) := by
  unfold execRingRxSyncLost
  try extract_lets
  repeat' with_reducible first | assumption | apply q_regs | apply q_rings | apply p_sluice | intro _ | apply OutKeeps.next | apply OutKeeps.dite | apply wf_keeps | apply ev_keeps | apply modRingX_keeps | apply ringRestart_keeps | apply setRing_keeps | apply Keeps.dite | split | dsimp only

theorem diffCount_keeps {P : Part → Prop} {s00 : State} {s : State} (hk : Keeps P s00 s) (t : Twin) (a last v : Nat)
    (q_regs : ¬ P (.tw t .regs)) :
    Keeps P s00 (diffCount s t a last v) := by
  unfold diffCount
  repeat' with_reducible first | assumption | apply q_regs | intro _ | apply cntBy_keeps | apply Keeps.dite

theorem bypassConfirmed_keeps {P : Part → Prop} {s00 : State} {s : State} (hk : Keeps P s00 s) (k : Nat) (q_arr : ∀ u, ¬ P (.tw u .arr))
    (q_regs : ∀ u, ¬ P (.tw u .regs)) :
    Keeps P s00 (bypassConfirmed s k) := by
  unfold bypassConfirmed
  repeat' with_reducible first
    | assumption | apply q_arr | apply q_regs | intro _ | apply onComputing_keeps | apply modCellX_keeps
    | apply setCellSt_keeps | apply Keeps.dite

theorem noteLock_keeps {P : Part → Prop} {s00 : State} {s : State} (hk : Keeps P s00 s) (t : Twin) (c i : Nat) (on : Bool) (q_rings : ¬ P (.tw t .rings)) :
    Keeps P s00 (noteLock s t c i on) := by
  unfold noteLock
  try extract_lets
  repeat' with_reducible first | assumption | apply q_rings | intro _ | apply modRingX_keeps | apply Keeps.dite | split | dsimp only

theorem takeCycle_keeps {P : Part → Prop} {s00 : State} {s : State} (hk : Keeps P s00 s) (t : Twin) (c i : Nat) (up : List Byte) (q_arr : ∀ u, ¬ P (.tw u .arr)) (q_regs : ∀ u, ¬ P (.tw u .regs)) (q_rings : ¬ P (.tw t .rings)) (q_uplinks : ¬ P (.tw t .uplinks)) :
    Keeps P s00 (takeCycle s t c i up) := by
  unfold takeCycle
  try extract_lets
  repeat' first
    | (cases ‹TwinField› <;> first | rfl | exact absurd ‹_› (by solve_by_elim))
    | with_reducible first | assumption | apply q_arr | apply q_regs | apply q_rings | apply q_uplinks | intro _ | apply wr_keeps | apply wf_keeps | apply diffCount_keeps | apply modRingX_keeps | apply noteLock_keeps | apply bypassConfirmed_keeps | apply Keeps.dite | split | refine Keeps.setTwRegs ?_ rfl (fun k => ⟨(k.tw _).rings, tabWf_tabSet (fun _ => Uplink.none) (k.tw _).uplinks _ _, (k.tw _).upOld, (k.tw _).exps, (k.tw _).can, (k.tw _).neg, (k.tw _).xings, (k.tw _).queues⟩) fun f hf => ?_ | dsimp only

theorem takeConfig_keeps {P : Part → Prop} {s00 : State} {s : State} (hk : Keeps P s00 s) (t : Twin) (c i : Nat) (up : List Byte) (q_regs : ¬ P (.tw t .regs)) (q_rings : ¬ P (.tw t .rings)) :
    Keeps P s00 (takeConfig s t c i up) := by
  unfold takeConfig
  try extract_lets
  repeat' with_reducible first | assumption | apply q_regs | apply q_rings | intro _ | apply wr_keeps | apply wf_keeps | apply noteLock_keeps | apply ev_keeps | apply modRingX_keeps | apply Keeps.dite | split | dsimp only

theorem takeSlot_keeps {P : Part → Prop} {s00 : State} {s : State} (hk : Keeps P s00 s) (t : Twin) (c : Nat) (b : List Byte)
    (i : Nat) (q_arr : ∀ u, ¬ P (.tw u .arr)) (q_regs : ∀ u, ¬ P (.tw u .regs)) (q_rings : ¬ P (.tw t .rings))
    (q_uplinks : ¬ P (.tw t .uplinks)) :
    Keeps P s00 (takeSlot s t c b i) := by
  unfold takeSlot
  repeat' with_reducible first
    | assumption | apply q_arr | apply q_regs | apply q_rings | apply q_uplinks | intro _ | apply cnt_keeps
    | apply takeCycle_keeps | apply takeConfig_keeps | apply Keeps.dite

theorem showRing_keeps {P : Part → Prop} {s00 : State} {s : State} (hk : Keeps P s00 s) (t : Twin) (c : Nat)
    (q_regs : ¬ P (.tw t .regs)) :
    Keeps P s00 (showRing s t c) := by
  unfold showRing
  extract_lets
  repeat' with_reducible first | assumption | apply q_regs | intro _ | apply wf_keeps

theorem warmChain_keeps {P : Part → Prop} {s00 : State} {s : State} (hk : Keeps P s00 s) (c : Nat) (q_regs : ∀ u, ¬ P (.tw u .regs))
    :
    Keeps P s00 (warmChain s c) := by
  unfold warmChain
  repeat' with_reducible first
    | assumption | apply q_regs | intro _ | apply onBoth_keeps | apply showString_keeps | apply setCellSt_keeps
    | apply Keeps.dite | apply Keeps.foldl

theorem ringReady_keeps {P : Part → Prop} {s00 : State} {s : State} (hk : Keeps P s00 s) (t : Twin) (c : Nat) (q_regs : ∀ u, ¬ P (.tw u .regs)) (q_rings : ¬ P (.tw t .rings)) (p_sluice : ¬ P .sluice) :
    Keeps P s00 (ringReady s t c) := by
  unfold ringReady
  try extract_lets
  repeat' with_reducible first | assumption | apply q_regs | apply q_rings | apply p_sluice | intro _ | apply endTraining_keeps | apply warmChain_keeps | apply ev_keeps | apply setRing_keeps | apply Keeps.dite | split | dsimp only

theorem showTfib_keeps {P : Part → Prop} {s00 : State} {s : State} (hk : Keeps P s00 s) (t : Twin) (c : Nat) (q_regs : ∀ u, ¬ P (.tw u .regs)) :
    Keeps P s00 (showTfib s t c) := by
  unfold showTfib
  try extract_lets
  repeat' with_reducible first | assumption | apply q_regs | intro _ | apply budget_keeps | apply wr_keeps | apply Keeps.dite | split | dsimp only

theorem closureCheck_keeps {P : Part → Prop} {s00 : State} {s : State} (hk : Keeps P s00 s) (t : Twin) (c : Nat) (b : List Byte) (arrival : Nat) (q_regs : ¬ P (.tw t .regs)) :
    Keeps P s00 (closureCheck s t c b arrival) := by
  unfold closureCheck
  try extract_lets
  repeat' with_reducible first | assumption | apply q_regs | intro _ | apply wr_keeps | apply ev_keeps | apply Keeps.dite | split | dsimp only

theorem showWrap_keeps {P : Part → Prop} {s00 : State} {s : State} (hk : Keeps P s00 s) (t : Twin) (c : Nat) (b : List Byte) (q_regs : ¬ P (.tw t .regs)) (q_rings : ¬ P (.tw t .rings)) :
    Keeps P s00 (showWrap s t c b) := by
  unfold showWrap
  try extract_lets
  repeat' with_reducible first | assumption | apply q_regs | apply q_rings | intro _ | apply ev_keeps | apply modRingX_keeps | apply wf_keeps | apply Keeps.dite | split | dsimp only

theorem takeSlots_keeps {P : Part → Prop} {s00 : State} {s : State} (hk : Keeps P s00 s) (t : Twin) (c : Nat) (b : List Byte) (q_arr : ∀ u, ¬ P (.tw u .arr)) (q_regs : ∀ u, ¬ P (.tw u .regs)) (q_rings : ¬ P (.tw t .rings)) (q_uplinks : ¬ P (.tw t .uplinks)) :
    Keeps P s00 (takeSlots s t c b) := by
  unfold takeSlots
  try extract_lets
  repeat' with_reducible first | assumption | apply q_arr | apply q_regs | apply q_rings | apply q_uplinks | intro _ | apply showRing_keeps | apply takeSlot_keeps | apply Keeps.dite | apply Keeps.foldl | apply Keeps.foldl₁ | apply Keeps.foldl₂ | split | dsimp only

theorem ringReturn_keeps {P : Part → Prop} {s00 : State} {s : State} (hk : Keeps P s00 s) (t : Twin) (c : Nat) (b : List Byte) (framed : Bool) (arrival : Option Nat) (q_arr : ∀ u, ¬ P (.tw u .arr)) (q_regs : ∀ u, ¬ P (.tw u .regs)) (q_rings : ∀ u, ¬ P (.tw u .rings)) (p_sluice : ¬ P .sluice) (q_uplinks : ∀ u, ¬ P (.tw u .uplinks)) :
    Keeps P s00 (ringReturn s t c b framed arrival) := by
  unfold ringReturn
  dsimp only
  repeat' with_reducible first | assumption | apply q_arr | apply q_regs | apply q_rings | apply p_sluice | apply q_uplinks | intro _ | apply modRingX_keeps | apply cnt_keeps | apply takeSlots_keeps | apply ev_keeps | apply showWrap_keeps | apply closureCheck_keeps | apply budget_keeps | apply showTfib_keeps | apply onBoth_keeps | apply ringReady_keeps | apply Keeps.dite | split | dsimp only

theorem relayWrapped_keeps {P : Part → Prop} {s00 : State} {s : State} (hk : Keeps P s00 s) (t : Twin) (c : Nat) (b : List Byte) (framed : Bool) (q_arr : ∀ u, ¬ P (.tw u .arr)) (q_regs : ∀ u, ¬ P (.tw u .regs)) (q_rings : ∀ u, ¬ P (.tw u .rings)) (p_sluice : ¬ P .sluice) (q_uplinks : ∀ u, ¬ P (.tw u .uplinks)) :
    Keeps P s00 (relayWrapped s t c b framed) := by
  unfold relayWrapped
  try extract_lets
  repeat' with_reducible first | assumption | apply q_arr | apply q_regs | apply q_rings | apply p_sluice | apply q_uplinks | intro _ | apply ev_keeps | apply ringReturn_keeps | apply wf_keeps | apply Keeps.dite | split | dsimp only

theorem execFrameReturn_keeps {P : Part → Prop} {s00 : State} {s : State} (hk : Keeps P s00 s) (t : Twin) (c : Fin 12) (bytes : List Byte) (codeErrs : BitVec 16) (framed : Bool) (arrival : BitVec 52) (q_arr : ∀ u, ¬ P (.tw u .arr)) (q_regs : ∀ u, ¬ P (.tw u .regs)) (q_rings : ∀ u, ¬ P (.tw u .rings)) (p_sluice : ¬ P .sluice) (q_uplinks : ∀ u, ¬ P (.tw u .uplinks)) (q_xings : ¬ P (.tw t .xings)) :
    OutKeeps P s00 (execFrameReturn t c bytes codeErrs framed arrival s) := by
  unfold execFrameReturn
  try extract_lets
  repeat' with_reducible first | assumption | apply q_arr | apply q_regs | apply q_rings | apply p_sluice | apply q_uplinks | apply q_xings | intro _ | apply OutKeeps.next | apply OutKeeps.dite | apply crossIn_keeps | apply cntBy_keeps | apply relayWrapped_keeps | apply ringReturn_keeps | apply Keeps.dite | split | dsimp only

theorem execWrappedFrameRelay_keeps {P : Part → Prop} {s00 : State} {s : State} (hk : Keeps P s00 s) (t : Twin) (c : Fin 12) (bytes : List Byte) (q_arr : ∀ u, ¬ P (.tw u .arr)) (q_regs : ∀ u, ¬ P (.tw u .regs)) (q_rings : ∀ u, ¬ P (.tw u .rings)) (p_sluice : ¬ P .sluice) (q_uplinks : ∀ u, ¬ P (.tw u .uplinks)) :
    OutKeeps P s00 (execWrappedFrameRelay t c bytes s) := by
  unfold execWrappedFrameRelay
  try extract_lets
  repeat' with_reducible first | assumption | apply q_arr | apply q_regs | apply q_rings | apply p_sluice | apply q_uplinks | intro _ | apply OutKeeps.next | apply OutKeeps.dite | apply relayWrapped_keeps | apply Keeps.dite | split | dsimp only

theorem execReturnDeadline_keeps {P : Part → Prop} {s00 : State} {s : State} (hk : Keeps P s00 s) (t : Twin) (c : Fin 12)
    (q_regs : ¬ P (.tw t .regs)) (q_rings : ¬ P (.tw t .rings)) :
    OutKeeps P s00 (execReturnDeadline t c s) := by
  unfold execReturnDeadline
  repeat' with_reducible first
    | assumption | apply q_regs | apply q_rings | intro _ | apply OutKeeps.next | apply OutKeeps.dite
    | apply cnt_keeps | apply modRingX_keeps | apply Keeps.dite

theorem setCellLink_keeps {P : Part → Prop} {s00 : State} {s : State} (hk : Keeps P s00 s) (c p : Nat) (portA : Bool)
    (v : Int) (p_cells : ¬ P .cells) :
    Keeps P s00 (setCellLink s c p portA v) := by
  unfold setCellLink
  extract_lets k
  exact hk.fields _ _ _ _ _ _ _ _ _ _ (fun _ => rfl) (fun _ => rfl) (fun _ => rfl) (fun _ => rfl) (fun _ => rfl)
    (fun h => absurd h p_cells) (fun _ => rfl) (fun _ => rfl) (fun j => tabWf_tabMod _ j.cells _ _) (fun j => j.ctx)

theorem setLastHop_keeps {P : Part → Prop} {s00 : State} {s : State} (hk : Keeps P s00 s) (t : Twin) (c : Nat) (v : Int) (q_regs : ¬ P (.tw t .regs)) (q_rings : ¬ P (.tw t .rings)) :
    Keeps P s00 (setLastHop s t c v) := by
  unfold setLastHop
  try extract_lets
  repeat' with_reducible first | assumption | apply q_regs | apply q_rings | intro _ | apply modRingX_keeps | apply wr_keeps | apply Keeps.dite | split | dsimp only

theorem execDelayExchange_keeps {P : Part → Prop} {s00 : State} {s : State} (hk : Keeps P s00 s) (c : Fin 12) (pair : Fin 17) (t1 t4 : BitVec 40) (ta : BitVec 24) (p_cells : ¬ P .cells) (q_regs : ∀ u, ¬ P (.tw u .regs)) (q_rings : ∀ u, ¬ P (.tw u .rings)) :
    OutKeeps P s00 (execDelayExchange c pair t1 t4 ta s) := by
  unfold execDelayExchange
  try extract_lets
  repeat' with_reducible first | assumption | apply p_cells | apply q_regs | apply q_rings | intro _ | apply OutKeeps.next | apply OutKeeps.dite | apply setCellLink_keeps | apply setLastHop_keeps | apply budget_keeps | apply onBoth_keeps | apply modRingX_keeps | apply Keeps.dite | split | dsimp only

/-! Machine/Agree.lean. -/

theorem sensorDiscrepancy_keeps {P : Part → Prop} {s00 : State} {s : State} (hk : Keeps P s00 s) (t : Twin) (what : Option (Bool × Nat))
    (q_regs : ¬ P (.tw t .regs)) :
    Keeps P s00 (sensorDiscrepancy s t what) := by
  unfold sensorDiscrepancy
  extract_lets
  repeat' with_reducible first
    | assumption | apply q_regs | intro _ | apply cnt_keeps | apply ev_keeps | apply wf_keeps | apply Keeps.dite
    | split

theorem agreeCell_keeps {P : Part → Prop} {s00 : State} {s : State} (hk : Keeps P s00 s) (t : Twin) (n k : Nat)
    (q_arr : ¬ P (.tw t .arr)) (q_regs : ¬ P (.tw t .regs)) :
    Keeps P s00 (agreeCell s t n k) := by
  unfold agreeCell
  extract_lets
  repeat' with_reducible first
    | assumption | apply q_arr | apply q_regs | intro _ | apply wr_keeps | apply modCellX_keeps
    | apply sensorDiscrepancy_keeps | apply Keeps.dite | apply Keeps.foldl

theorem countDeviation_keeps {P : Part → Prop} {s00 : State} {s : State} (hk : Keeps P s00 s) (t : Twin) (st : Nat)
    (q_arr : ¬ P (.tw t .arr)) :
    Keeps P s00 (countDeviation s t st) := by
  unfold countDeviation
  extract_lets
  repeat' with_reducible first
    | assumption | apply q_arr | intro _ | apply act_keeps | apply modCellX_keeps | apply Keeps.dite
    | apply Keeps.foldl

theorem lowerCause_keeps {P : Part → Prop} {s00 : State} {s : State} (hk : Keeps P s00 s) (t : Twin) (k : Nat) (q_regs : ¬ P (.tw t .regs)) :
    Keeps P s00 (lowerCause s t k) := by
  unfold lowerCause
  try extract_lets
  repeat' with_reducible first | assumption | apply q_regs | intro _ | apply wf_keeps | apply ev_keeps | apply setCellSt_keeps | apply Keeps.dite | split | dsimp only

theorem agreeCells_keeps {P : Part → Prop} {s00 : State} {s : State} (hk : Keeps P s00 s) (t : Twin) (n : Nat) (q_arr : ¬ P (.tw t .arr)) (q_regs : ∀ u, ¬ P (.tw u .regs)) (q_rings : ∀ u, ¬ P (.tw u .rings)) (p_sluice : ¬ P .sluice) (q_twn : ∀ u, ¬ P (.tw u .twn)) :
    Keeps P s00 (agreeCells s t n) := by
  unfold agreeCells
  try extract_lets
  repeat' with_reducible first | assumption | apply q_arr | apply q_regs | apply q_rings | apply p_sluice | apply q_twn | intro _ | apply agreeCell_keeps | apply countDeviation_keeps | apply lowerCause_keeps | apply bypassCells_keeps | apply Keeps.dite | apply Keeps.foldl | apply Keeps.foldl₁ | apply Keeps.foldl₂ | split | dsimp only

theorem posCompare_keeps {P : Part → Prop} {s00 : State} {s : State} (hk : Keeps P s00 s) (t : Twin) (k : Nat)
    (q_drv : ¬ P (.tw t .drv)) (q_regs : ¬ P (.tw t .regs)) :
    Keeps P s00 (posCompare s t k) := by
  unfold posCompare
  extract_lets
  repeat' with_reducible first
    | assumption | apply q_drv | apply q_regs | intro _ | apply modPos_keeps | apply sensorDiscrepancy_keeps
    | apply Keeps.dite

theorem showPos_keeps {P : Part → Prop} {s00 : State} {s : State} (hk : Keeps P s00 s) (t : Twin) (k : Nat) (p : PosRec)
    (q_regs : ¬ P (.tw t .regs)) :
    Keeps P s00 (showPos s t k p) := by
  unfold showPos
  extract_lets
  repeat' with_reducible first
    | assumption | apply q_regs | intro _ | apply wr_keeps | apply evi_keeps | apply clri_keeps | apply Keeps.dite
    | apply Keeps.foldl

theorem agreePosition_keeps {P : Part → Prop} {s00 : State} {s : State} (hk : Keeps P s00 s) (t : Twin) (g : GraphImg)
    (k : Nat) (q_drv : ¬ P (.tw t .drv)) (q_law : ¬ P (.tw t .law)) (q_regs : ¬ P (.tw t .regs)) :
    Keeps P s00 (agreePosition s t g k) := by
  unfold agreePosition
  extract_lets
  repeat' with_reducible first
    | assumption | apply q_drv | apply q_law | apply q_regs | intro _ | apply posCompare_keeps | apply modPos_keeps
    | apply setNode_keeps | apply nodeInvalid_keeps | apply showPos_keeps | apply Keeps.dite | apply Keeps.foldl
    | apply Keeps.foldl₁ | apply Keeps.foldl₂ | split

theorem agreeEntry_keeps {P : Part → Prop} {s00 : State} {s : State} (hk : Keeps P s00 s) (t : Twin) (g : GraphImg)
    (k trig : Nat) (e : AgrRec × Nat) (q_law : ¬ P (.tw t .law)) (q_regs : ¬ P (.tw t .regs)) :
    Keeps P s00 (agreeEntry t g k trig s e) := by
  unfold agreeEntry
  dsimp only
  repeat' with_reducible first
    | assumption | apply q_law | apply q_regs | intro _ | apply setNode_keeps | apply sensorDiscrepancy_keeps
    | apply nodeInvalid_keeps | apply Keeps.dite | split

theorem copyAgreed_keeps {P : Part → Prop} {s00 : State} {s : State} (hk : Keeps P s00 s) (l t : Twin) (k : Nat) (q_arr : ¬ P (.tw t .arr)) (q_law : ¬ P (.tw t .law)) (q_regs : ¬ P (.tw t .regs)) :
    Keeps P s00 (copyAgreed s l t k) := by
  unfold copyAgreed
  try extract_lets
  repeat' with_reducible first | assumption | apply q_arr | apply q_law | apply q_regs | intro _ | apply wr_keeps | apply modCellX_keeps | apply nodeInvalid_keeps | apply setNode_keeps | apply Keeps.dite | apply Keeps.foldl | apply Keeps.foldl₁ | apply Keeps.foldl₂ | split | dsimp only

theorem agreeInputs_keeps {P : Part → Prop} {s00 : State} {s : State} (hk : Keeps P s00 s) (t : Twin) (k : Nat) (tau : Int) (q_arr : ¬ P (.tw t .arr)) (q_drv : ¬ P (.tw t .drv)) (q_law : ¬ P (.tw t .law)) (q_net : ¬ P (.tw t .net)) (q_regs : ∀ u, ¬ P (.tw u .regs)) (q_rings : ∀ u, ¬ P (.tw u .rings)) (p_sluice : ¬ P .sluice) (q_twn : ∀ u, ¬ P (.tw u .twn)) :
    Keeps P s00 (agreeInputs s t k tau) := by
  unfold agreeInputs
  try extract_lets
  repeat' with_reducible first | assumption | apply q_arr | apply q_drv | apply q_law | apply q_net | apply q_regs | apply q_rings | apply p_sluice | apply q_twn | intro _ | apply copyAgreed_keeps | apply agreeCells_keeps | apply svAgree_keeps | apply gooseAgree_keeps | apply agreePosition_keeps | apply agreeEntry_keeps | apply Keeps.dite | apply Keeps.foldl | apply Keeps.foldl₁ | apply Keeps.foldl₂ | split | dsimp only

end Sys2Proof.Machine
end

