-- ==== Sys2Proof/Laws/KeepLaw.lean ====
section
/-! SUPPORT. What Laws/Keeps.lean says is kept by the operations of images, Negative and the law engines. -/

namespace Sys2Proof.Machine

/-! Machine/Images.lean. -/

theorem recordRefusal_keeps {P : Part → Prop} {s00 : State} {s : State} (hk : Keeps P s00 s) (t : Twin) (n : Nat)
    (q_regs : ¬ P (.tw t .regs)) :
    Keeps P s00 (recordRefusal s t n) := by
  unfold recordRefusal
  repeat' with_reducible first
    | assumption | apply q_regs | intro _ | apply ev_keeps | apply wf_keeps | apply Keeps.dite

/-! Machine/Neg.lean. -/

theorem modExp_keeps {P : Part → Prop} {s00 : State} {s : State} (hk : Keeps P s00 s) (t : Twin) (e : Nat) (f : ExpX → ExpX)
    (q_exps : ¬ P (.tw t .exps)) :
    Keeps P s00 (modExp s t e f) :=
  hk.setTwRegs rfl (fun k => ⟨(k.tw t).rings, (k.tw t).uplinks, (k.tw t).upOld, tabWf_tabMod {} (k.tw t).exps e f, (k.tw t).can, (k.tw t).neg, (k.tw t).xings, (k.tw t).queues⟩)
    fun g hg => by cases g <;> first | rfl | exact absurd hg q_exps

theorem setExpSt_keeps {P : Part → Prop} {s00 : State} {s : State} (hk : Keeps P s00 s) (t : Twin) (e v : Nat)
    (q_regs : ¬ P (.tw t .regs)) :
    Keeps P s00 (setExpSt s t e v) := by
  unfold setExpSt
  repeat' with_reducible first | assumption | apply q_regs | intro _ | apply wf_keeps

theorem armOne_keeps {P : Part → Prop} {s00 : State} {s : State} (hk : Keeps P s00 s) (e : Nat) (t : Twin) (q_exps : ¬ P (.tw t .exps)) (q_regs : ¬ P (.tw t .regs)) :
    Keeps P s00 (armOne e s t) := by
  unfold armOne
  try extract_lets
  repeat' with_reducible first | assumption | apply q_exps | apply q_regs | intro _ | apply modExp_keeps | apply wr_keeps | apply wf_keeps | apply showRate_keeps | apply setExpSt_keeps | apply Keeps.dite | split | dsimp only

theorem execNegArm_keeps {P : Part → Prop} {s00 : State} {s : State} (hk : Keeps P s00 s) (tg : Target) (e : Fin 4)
    (q_exps : ∀ u, ¬ P (.tw u .exps)) (q_regs : ∀ u, ¬ P (.tw u .regs)) :
    OutKeeps P s00 (execNegArm tg e s) := by
  unfold execNegArm
  extract_lets
  repeat' with_reducible first
    | assumption | apply q_exps | apply q_regs | intro _ | apply OutKeeps.next | apply OutKeeps.dite
    | apply say_keeps | apply onTarget_keeps | apply armOne_keeps | apply Keeps.dite

theorem fixNext_keeps {P : Part → Prop} {s00 : State} {s : State} (hk : Keeps P s00 s) (t : Twin) (e : Nat)
    (q_exps : ¬ P (.tw t .exps)) :
    Keeps P s00 (fixNext s t e) := by
  unfold fixNext
  repeat' with_reducible first | assumption | apply q_exps | intro _ | apply modExp_keeps | apply Keeps.dite

theorem execNegFix_keeps {P : Part → Prop} {s00 : State} {s : State} (hk : Keeps P s00 s) (tg : Target) (e : Fin 4)
    (q_exps : ∀ u, ¬ P (.tw u .exps)) :
    OutKeeps P s00 (execNegFix tg e s) := by
  unfold execNegFix
  extract_lets
  repeat' with_reducible first
    | assumption | apply q_exps | intro _ | apply OutKeeps.next | apply OutKeeps.dite | apply say_keeps
    | apply onTarget_keeps | apply fixNext_keeps | apply Keeps.dite

theorem expIdle_keeps {P : Part → Prop} {s00 : State} {s : State} (hk : Keeps P s00 s) (t : Twin) (e : Nat)
    (q_exps : ¬ P (.tw t .exps)) (q_regs : ¬ P (.tw t .regs)) :
    Keeps P s00 (expIdle s t e) := by
  unfold expIdle
  extract_lets
  repeat' with_reducible first
    | assumption | apply q_exps | apply q_regs | intro _ | apply modExp_keeps | apply setExpSt_keeps
    | apply showRate_keeps | apply wf_keeps | apply wr_keeps

theorem execNegDisarm_keeps {P : Part → Prop} {s00 : State} {s : State} (hk : Keeps P s00 s) (tg : Target) (e : Fin 4)
    (q_exps : ∀ u, ¬ P (.tw u .exps)) (q_regs : ∀ u, ¬ P (.tw u .regs)) :
    OutKeeps P s00 (execNegDisarm tg e s) := by
  unfold execNegDisarm
  repeat' with_reducible first
    | assumption | apply q_exps | apply q_regs | intro _ | apply OutKeeps.next | apply OutKeeps.dite
    | apply onTarget_keeps | apply expIdle_keeps | apply say_keeps

theorem negWrite_keeps {P : Part → Prop} {s00 : State} {s : State} (hk : Keeps P s00 s) (t : Twin) (off : Nat) (ws : List W32)
    (q_neg : ¬ P (.tw t .neg)) :
    Keeps P s00 (negWrite s t off ws) :=
  hk.setTwRegs rfl (fun k => ⟨(k.tw t).rings, (k.tw t).uplinks, (k.tw t).upOld, (k.tw t).exps, (k.tw t).can, tabWf_foldl _ _ (fun _ h _ => tabWf_tabSet (fun _ => 0#32) h _ _) (k.tw t).neg, (k.tw t).xings, (k.tw t).queues⟩)
    fun g hg => by cases g <;> first | rfl | exact absurd hg q_neg

theorem chainFix_keeps {P : Part → Prop} {s00 : State} {s : State} (hk : Keeps P s00 s) (t : Twin) (e src time : Nat) (q_exps : ¬ P (.tw t .exps)) :
    Keeps P s00 (chainFix s t e src time) := by
  unfold chainFix
  try extract_lets
  repeat' with_reducible first | assumption | apply q_exps | intro _ | apply modExp_keeps | apply Keeps.dite | apply Keeps.foldl | apply Keeps.foldl₁ | apply Keeps.foldl₂ | split | dsimp only

theorem freeze_keeps {P : Part → Prop} {s00 : State} {s : State} (hk : Keeps P s00 s) (t : Twin) (e : Nat) (q_regs : ¬ P (.tw t .regs))
    :
    Keeps P s00 (freeze s t e) := by
  unfold freeze
  repeat' with_reducible first
    | assumption | apply q_regs | intro _ | apply showRate_keeps | apply evi_keeps | apply setExpSt_keeps

theorem execNegRowWrite_keeps {P : Part → Prop} {s00 : State} {s : State} (hk : Keeps P s00 s) (t : Twin) (e : Fin 4) (time : W64) (lost : Bool) (q_exps : ∀ u, ¬ P (.tw u .exps)) (q_neg : ∀ u, ¬ P (.tw u .neg)) (q_regs : ∀ u, ¬ P (.tw u .regs)) :
    OutKeeps P s00 (execNegRowWrite t e time lost s) := by
  unfold execNegRowWrite
  try extract_lets
  repeat' with_reducible first | assumption | apply q_exps | apply q_neg | apply q_regs | intro _ | apply OutKeeps.next | apply OutKeeps.dite | apply negWrite_keeps | apply evi_keeps | apply modExp_keeps | apply wr_keeps | apply wf_keeps | apply chainFix_keeps | apply freeze_keeps | apply setExpSt_keeps | apply Keeps.dite | split | dsimp only

theorem negEvents_keeps {P : Part → Prop} {s00 : State} {s : State} (hk : Keeps P s00 s) (t : Twin) (bits : Nat)
    (q_exps : ¬ P (.tw t .exps)) :
    Keeps P s00 (negEvents s t bits) := by
  unfold negEvents
  repeat' with_reducible first
    | assumption | apply q_exps | intro _ | apply fixNext_keeps | apply Keeps.dite | apply Keeps.foldl

theorem execNegEventFix_keeps {P : Part → Prop} {s00 : State} {s : State} (hk : Keeps P s00 s) (t : Twin) (bits : BitVec 11)
    (q_exps : ¬ P (.tw t .exps)) (q_regs : ¬ P (.tw t .regs)) :
    OutKeeps P s00 (execNegEventFix t bits s) := by
  unfold execNegEventFix
  repeat' with_reducible first
    | assumption | apply q_exps | apply q_regs | intro _ | apply OutKeeps.next | apply OutKeeps.dite
    | apply negEvents_keeps | apply wf_keeps

theorem execNegRemoteFix_keeps {P : Part → Prop} {s00 : State} {s : State} (hk : Keeps P s00 s) (t : Twin) (bits : BitVec 11)
    (q_exps : ¬ P (.tw t .exps)) :
    OutKeeps P s00 (execNegRemoteFix t bits s) := by
  unfold execNegRemoteFix
  repeat' with_reducible first
    | assumption | apply q_exps | intro _ | apply OutKeeps.next | apply OutKeeps.dite | apply negEvents_keeps

/-! Machine/Law.lean. -/

theorem idleNodeProbes_keeps {P : Part → Prop} {s00 : State} {s : State} (hk : Keeps P s00 s) (t : Twin) (q_regs : ¬ P (.tw t .regs))
    :
    Keeps P s00 (idleNodeProbes s t) := by
  unfold idleNodeProbes
  repeat' with_reducible first
    | assumption | apply q_regs | intro _ | apply showRate_keeps | apply setExpSt_keeps | apply Keeps.dite
    | apply Keeps.foldl

theorem loadTwin_keeps {P : Part → Prop} {s00 : State} {s : State} (hk : Keeps P s00 s) (t : Twin) (q_drv : ¬ P (.tw t .drv)) (q_law : ¬ P (.tw t .law)) (q_regs : ¬ P (.tw t .regs)) :
    Keeps P s00 (loadTwin s t) := by
  unfold loadTwin
  try extract_lets
  repeat' with_reducible first | assumption | apply q_drv | apply q_law | apply q_regs | intro _ | apply showRate_keeps | apply idleNodeProbes_keeps | apply loadGraph_keeps | apply modPos_keeps | apply Keeps.dite | split | dsimp only

theorem loadRun_keeps {P : Part → Prop} {s00 : State} {s : State} (hk : Keeps P s00 s) (t : Twin) (arg : Nat) (q_drv : ∀ u, ¬ P (.tw u .drv)) (q_law : ∀ u, ¬ P (.tw u .law)) (q_regs : ∀ u, ¬ P (.tw u .regs)) (p_sluice : ¬ P .sluice) :
    Keeps P s00 (loadRun s t arg) := by
  unfold loadRun
  try extract_lets
  repeat' with_reducible first | assumption | apply q_drv | apply q_law | apply q_regs | apply p_sluice | intro _ | apply leaveEndFor_keeps | apply say_keeps | apply budget_keeps | apply onTarget_keeps | apply loadTwin_keeps | apply Keeps.dite | split | dsimp only

theorem lawLoad_keeps {P : Part → Prop} {s00 : State} {s : State} (hk : Keeps P s00 s) (tg : Target) (q_drv : ∀ u, ¬ P (.tw u .drv)) (q_law : ∀ u, ¬ P (.tw u .law)) (q_regs : ∀ u, ¬ P (.tw u .regs)) (p_sluice : ¬ P .sluice) :
    Keeps P s00 (lawLoad tg s) := by
  unfold lawLoad
  try extract_lets
  repeat' with_reducible first | assumption | apply q_drv | apply q_law | apply q_regs | apply p_sluice | intro _ | apply say_keeps | apply onTarget_keeps | apply recordRefusal_keeps | apply leaveAsk_keeps | apply loadRun_keeps | apply Keeps.dite | split | dsimp only

theorem execLoad_keeps {P : Part → Prop} {s00 : State} {s : State} (hk : Keeps P s00 s) (tg : Target) (q_drv : ∀ u, ¬ P (.tw u .drv))
    (q_law : ∀ u, ¬ P (.tw u .law)) (q_regs : ∀ u, ¬ P (.tw u .regs)) (p_sluice : ¬ P .sluice) :
    OutKeeps P s00 (execLoad tg s) := by
  unfold execLoad
  repeat' with_reducible first
    | assumption | apply q_drv | apply q_law | apply q_regs | apply p_sluice | intro _ | apply OutKeeps.next
    | apply OutKeeps.dite | apply lawLoad_keeps

theorem coefWrite_keeps {P : Part → Prop} {s00 : State} {s : State} (hk : Keeps P s00 s) (tg : Target) (b i : Nat)
    (v : W32) (q_regs : ∀ u, ¬ P (.tw u .regs)) :
    Keeps P s00 (coefWrite tg b i v s) := by
  unfold coefWrite
  extract_lets
  repeat' with_reducible first
    | assumption | apply q_regs | intro _ | apply say_keeps | apply onTarget_keeps | apply wr_keeps
    | apply Keeps.dite

theorem execCoefWrite_keeps {P : Part → Prop} {s00 : State} {s : State} (hk : Keeps P s00 s) (tg : Target) (b : Fin 4096) (i : Fin 16) (v : W32) (q_regs : ∀ u, ¬ P (.tw u .regs)) :
    OutKeeps P s00 (execCoefWrite tg b i v s) := by
  unfold execCoefWrite
  try extract_lets
  repeat' with_reducible first | assumption | apply q_regs | intro _ | apply OutKeeps.next | apply OutKeeps.dite | apply agreedOnly_keeps | apply coefWrite_keeps | apply Keeps.dite | split | dsimp only

theorem swapPend_keeps {P : Part → Prop} {s00 : State} {s : State} (hk : Keeps P s00 s) (t : Twin) (q_law : ¬ P (.tw t .law))
    (q_regs : ¬ P (.tw t .regs)) :
    Keeps P s00 (swapPend s t) := by
  unfold swapPend
  repeat' with_reducible first
    | assumption | apply q_law | apply q_regs | intro _ | apply wf_keeps | apply modLaw_keeps | apply Keeps.dite
    | split

theorem lawSwap_keeps {P : Part → Prop} {s00 : State} {s : State} (hk : Keeps P s00 s) (tg : Target) (q_law : ∀ u, ¬ P (.tw u .law))
    (q_regs : ∀ u, ¬ P (.tw u .regs)) :
    Keeps P s00 (lawSwap tg s) := by
  unfold lawSwap
  extract_lets
  repeat' with_reducible first
    | assumption | apply q_law | apply q_regs | intro _ | apply say_keeps | apply onTarget_keeps
    | apply swapPend_keeps | apply Keeps.dite

theorem execSwap_keeps {P : Part → Prop} {s00 : State} {s : State} (hk : Keeps P s00 s) (tg : Target) (q_law : ∀ u, ¬ P (.tw u .law))
    (q_regs : ∀ u, ¬ P (.tw u .regs)) :
    OutKeeps P s00 (execSwap tg s) := by
  unfold execSwap
  repeat' with_reducible first
    | assumption | apply q_law | apply q_regs | intro _ | apply OutKeeps.next | apply OutKeeps.dite
    | apply lawSwap_keeps

theorem execSwapDevelop_keeps {P : Part → Prop} {s00 : State} {s : State} (hk : Keeps P s00 s) (t : Twin) (k : Fin 4)
    (q_law : ¬ P (.tw t .law)) (q_regs : ¬ P (.tw t .regs)) :
    OutKeeps P s00 (execSwapDevelop t k s) := by
  unfold execSwapDevelop
  repeat' with_reducible first
    | assumption | apply q_law | apply q_regs | intro _ | apply OutKeeps.next | apply OutKeeps.dite
    | apply swapGroup_keeps | apply Keeps.dite | split

theorem execHandoverForced_keeps {P : Part → Prop} {s00 : State} {s : State} (hk : Keeps P s00 s) (t : Twin) (b : Fin 4096)
    (q_law : ¬ P (.tw t .law)) (q_regs : ¬ P (.tw t .regs)) :
    OutKeeps P s00 (execHandoverForced t b s) := by
  unfold execHandoverForced
  extract_lets
  repeat' with_reducible first
    | assumption | apply q_law | apply q_regs | intro _ | apply OutKeeps.next | apply OutKeeps.dite | apply ev_keeps
    | apply wf_keeps | apply modLaw_keeps | apply Keeps.dite

theorem execLawEngineFail_keeps {P : Part → Prop} {s00 : State} {s : State} (hk : Keeps P s00 s) (t : Twin) (e : Fin 8)
    (q_arr : ¬ P (.tw t .arr)) (q_regs : ¬ P (.tw t .regs)) :
    OutKeeps P s00 (execLawEngineFail t e s) := by
  unfold execLawEngineFail
  extract_lets
  repeat' with_reducible first
    | assumption | apply q_arr | apply q_regs | intro _ | apply OutKeeps.next | apply OutKeeps.dite
    | apply modArr_keeps | apply wf_keeps | apply Keeps.dite

theorem scheduleSwitch_keeps {P : Part → Prop} {s00 : State} {s : State} (hk : Keeps P s00 s) (t : Twin) (q_arr : ¬ P (.tw t .arr)) (p_edge : ¬ P .edge) (q_flash : ¬ P (.tw t .flash)) (p_ilk : ¬ P .ilk) (p_net : ¬ P .net) (q_regs : ∀ u, ¬ P (.tw u .regs)) (q_twn : ∀ u, ¬ P (.tw u .twn)) :
    Keeps P s00 (scheduleSwitch s t) := by
  unfold scheduleSwitch
  try extract_lets
  repeat' with_reducible first | assumption | apply q_arr | apply p_edge | apply q_flash | apply p_ilk | apply p_net | apply q_regs | apply q_twn | intro _ | apply modArr_keeps | apply ev_keeps | apply wf_keeps | apply withdraw_keeps | apply budget_keeps | apply Keeps.dite | apply Keeps.foldl | apply Keeps.foldl₁ | apply Keeps.foldl₂ | split | dsimp only

theorem armBindings_keeps {P : Part → Prop} {s00 : State} {s : State} (hk : Keeps P s00 s) (t : Twin) (bs : List BindRec)
    (p_edge : ¬ P .edge) (q_regs : ∀ u, ¬ P (.tw u .regs)) :
    Keeps P s00 (armBindings s t bs) := by
  unfold armBindings
  extract_lets
  repeat' with_reducible first
    | assumption | apply p_edge | apply q_regs | intro _ | apply wr_keeps | apply pwmArm_keeps | apply Keeps.dite
    | apply Keeps.foldl

theorem gpioBindings_keeps {P : Part → Prop} {s00 : State} {s : State} (hk : Keeps P s00 s) (t : Twin) (bs : List BindRec)
    (q_drv : ¬ P (.tw t .drv)) :
    Keeps P s00 (gpioBindings s t bs) := by
  unfold gpioBindings
  repeat' with_reducible first
    | assumption | apply q_drv | intro _ | apply modDrv_keeps | apply Keeps.dite | apply Keeps.foldl

theorem runOutputs_keeps {P : Part → Prop} {s00 : State} {s : State} (hk : Keeps P s00 s) (t : Twin) (k : Nat)
    (q_drv : ¬ P (.tw t .drv)) (p_edge : ¬ P .edge) (q_regs : ∀ u, ¬ P (.tw u .regs)) :
    Keeps P s00 (runOutputs s t k) := by
  unfold runOutputs
  repeat' with_reducible first
    | assumption | apply q_drv | apply p_edge | apply q_regs | intro _ | apply armBindings_keeps
    | apply gpioBindings_keeps | apply Keeps.dite | split

theorem setRuns_keeps {P : Part → Prop} {s00 : State} {s : State} (hk : Keeps P s00 s) (t : Twin) (k : Nat) (l : List RgRun)
    (q_drv : ¬ P (.tw t .drv)) (q_law : ¬ P (.tw t .law)) (q_regs : ¬ P (.tw t .regs)) :
    Keeps P s00 (setRuns s t k l) := by
  unfold setRuns
  extract_lets
  repeat' with_reducible first
    | assumption | apply q_drv | apply q_law | apply q_regs | intro _ | apply modLaw_keeps | apply clri_keeps
    | apply modPos_keeps | apply evi_keeps | apply Keeps.dite | split

theorem rgTrigger_keeps {P : Part → Prop} {s00 : State} {s : State} (hk : Keeps P s00 s) (t : Twin) (k gpio : Nat) (r : RgRec) (q_drv : ¬ P (.tw t .drv)) (q_law : ¬ P (.tw t .law)) (q_regs : ¬ P (.tw t .regs)) :
    Keeps P s00 (rgTrigger s t k gpio r) := by
  unfold rgTrigger
  try extract_lets
  repeat' with_reducible first | assumption | apply q_drv | apply q_law | apply q_regs | intro _ | apply setRuns_keeps | apply modLaw_keeps | apply Keeps.dite | split | dsimp only

theorem execRgTrigger_keeps {P : Part → Prop} {s00 : State} {s : State} (hk : Keeps P s00 s) (t : Twin) (k : Fin 3) (gpio : BitVec 12) (q_drv : ¬ P (.tw t .drv)) (q_law : ¬ P (.tw t .law)) (q_regs : ¬ P (.tw t .regs)) :
    OutKeeps P s00 (execRgTrigger t k gpio s) := by
  unfold execRgTrigger
  try extract_lets
  repeat' with_reducible first | assumption | apply q_drv | apply q_law | apply q_regs | intro _ | apply OutKeeps.next | apply OutKeeps.dite | apply rgTrigger_keeps | apply Keeps.dite | split | dsimp only

theorem execRgRunStart_keeps {P : Part → Prop} {s00 : State} {s : State} (hk : Keeps P s00 s) (t : Twin) (k : Fin 3) (q_arr : ¬ P (.tw t .arr)) (q_drv : ¬ P (.tw t .drv)) (q_law : ¬ P (.tw t .law)) (q_net : ¬ P (.tw t .net)) (q_regs : ∀ u, ¬ P (.tw u .regs)) (q_rings : ∀ u, ¬ P (.tw u .rings)) (p_sluice : ¬ P .sluice) (q_twn : ∀ u, ¬ P (.tw u .twn)) :
    OutKeeps P s00 (execRgRunStart t k s) := by
  unfold execRgRunStart
  try extract_lets
  repeat' with_reducible first | assumption | apply q_arr | apply q_drv | apply q_law | apply q_net | apply q_regs | apply q_rings | apply p_sluice | apply q_twn | intro _ | apply OutKeeps.next | apply OutKeeps.dite | apply modLaw_keeps | apply agreeInputs_keeps | apply startTs_keeps | apply setRuns_keeps | apply Keeps.dite | split | dsimp only

theorem measured_keeps {P : Part → Prop} {s00 : State} {s : State} (hk : Keeps P s00 s) (t : Twin) (k time : Nat)
    (q_regs : ¬ P (.tw t .regs)) :
    Keeps P s00 (measured s t k time) := by
  unfold measured
  repeat' with_reducible first | assumption | apply q_regs | intro _ | apply wf_keeps

theorem runBody_keeps {P : Part → Prop} {s00 : State} {s : State} (hk : Keeps P s00 s) (t : Twin) (k run : Nat) (tau : Int) (late : Bool) (q_arr : ¬ P (.tw t .arr)) (q_drv : ∀ u, ¬ P (.tw u .drv)) (q_law : ∀ u, ¬ P (.tw u .law)) (p_net : ¬ P .net) (q_net : ∀ u, ¬ P (.tw u .net)) (q_regs : ∀ u, ¬ P (.tw u .regs)) (q_twn : ∀ u, ¬ P (.tw u .twn)) (q_xings : ∀ u, ¬ P (.tw u .xings)) :
    Keeps P s00 (runBody s t k run tau late) := by
  unfold runBody
  try extract_lets
  repeat' with_reducible first | assumption | apply q_arr | apply q_drv | apply q_law | apply p_net | apply q_net | apply q_regs | apply q_twn | apply q_xings | intro _ | apply runGroup_keeps | apply sequencerRun_keeps | apply formDigest_keeps | apply leaveCopies_keeps | apply gooseRun_keeps | apply Keeps.dite | split | dsimp only

theorem execRgRunComplete_keeps {P : Part → Prop} {s00 : State} {s : State} (hk : Keeps P s00 s) (t : Twin) (k : Fin 3) (time : BitVec 16) (q_arr : ¬ P (.tw t .arr)) (q_drv : ∀ u, ¬ P (.tw u .drv)) (q_law : ∀ u, ¬ P (.tw u .law)) (p_net : ¬ P .net) (q_net : ∀ u, ¬ P (.tw u .net)) (q_regs : ∀ u, ¬ P (.tw u .regs)) (q_twn : ∀ u, ¬ P (.tw u .twn)) (q_xings : ∀ u, ¬ P (.tw u .xings)) :
    OutKeeps P s00 (execRgRunComplete t k time s) := by
  unfold execRgRunComplete
  try extract_lets
  repeat' with_reducible first | assumption | apply q_arr | apply q_drv | apply q_law | apply p_net | apply q_net | apply q_regs | apply q_twn | apply q_xings | intro _ | apply OutKeeps.next | apply OutKeeps.dite | apply measured_keeps | apply runBody_keeps | apply setRuns_keeps | apply Keeps.dite | split | dsimp only

theorem rgOverrun_keeps {P : Part → Prop} {s00 : State} {s : State} (hk : Keeps P s00 s) (t : Twin) (k : Nat) (p_edge : ¬ P .edge) (q_flash : ¬ P (.tw t .flash)) (p_ilk : ¬ P .ilk) (q_law : ¬ P (.tw t .law)) (p_net : ¬ P .net) (q_regs : ∀ u, ¬ P (.tw u .regs)) (q_twn : ∀ u, ¬ P (.tw u .twn)) :
    Keeps P s00 (rgOverrun s t k) := by
  unfold rgOverrun
  try extract_lets
  repeat' with_reducible first | assumption | apply p_edge | apply q_flash | apply p_ilk | apply q_law | apply p_net | apply q_regs | apply q_twn | intro _ | apply evi_keeps | apply cnt_keeps | apply modLaw_keeps | apply withdraw_keeps | apply Keeps.dite | split | dsimp only

theorem execRgDeadline_keeps {P : Part → Prop} {s00 : State} {s : State} (hk : Keeps P s00 s) (t : Twin) (k : Fin 3) (q_drv : ¬ P (.tw t .drv)) (p_edge : ¬ P .edge) (q_flash : ¬ P (.tw t .flash)) (p_ilk : ¬ P .ilk) (q_law : ¬ P (.tw t .law)) (p_net : ¬ P .net) (q_net : ¬ P (.tw t .net)) (q_regs : ∀ u, ¬ P (.tw u .regs)) (q_twn : ∀ u, ¬ P (.tw u .twn)) :
    OutKeeps P s00 (execRgDeadline t k s) := by
  unfold execRgDeadline
  try extract_lets
  repeat' with_reducible first | assumption | apply q_drv | apply p_edge | apply q_flash | apply p_ilk | apply q_law | apply p_net | apply q_net | apply q_regs | apply q_twn | intro _ | apply OutKeeps.next | apply OutKeeps.dite | apply svRecord_keeps | apply developCopies_keeps | apply setRuns_keeps | apply runOutputs_keeps | apply modLaw_keeps | apply rgOverrun_keeps | apply Keeps.dite | split | dsimp only

theorem recordItems_keeps {P : Part → Prop} {s00 : State} {s : State} (hk : Keeps P s00 s) (t : Twin) (cycle : Nat)
    (l : List DigItem) (q_regs : ¬ P (.tw t .regs)) :
    Keeps P s00 (recordItems s t cycle l) := by
  unfold recordItems
  extract_lets
  repeat' with_reducible first
    | assumption | apply q_regs | intro _ | apply wr_keeps | apply Keeps.dite | apply Keeps.foldl

theorem mismatch_keeps {P : Part → Prop} {s00 : State} {s : State} (hk : Keeps P s00 s) (cycle : Nat) (p q : List DigItem) (q_regs : ∀ u, ¬ P (.tw u .regs)) (q_twn : ∀ u, ¬ P (.tw u .twn)) :
    Keeps P s00 (mismatch s cycle p q) := by
  unfold mismatch
  try extract_lets
  repeat' with_reducible first | assumption | apply q_regs | apply q_twn | intro _ | apply onBoth_keeps | apply cnt_keeps | apply ev_keeps | apply modTwn_keeps | apply recordItems_keeps | apply Keeps.dite | split | dsimp only

theorem execDigestCompare_keeps {P : Part → Prop} {s00 : State} {s : State} (hk : Keeps P s00 s) (k : Fin 4) (n : W32)
    (q_regs : ∀ u, ¬ P (.tw u .regs)) (q_twn : ∀ u, ¬ P (.tw u .twn)) :
    OutKeeps P s00 (execDigestCompare k n s) := by
  unfold execDigestCompare
  extract_lets
  repeat' with_reducible first
    | assumption | apply q_regs | apply q_twn | intro _ | apply OutKeeps.next | apply OutKeeps.dite
    | apply onBoth_keeps | apply modTwn_keeps | apply mismatch_keeps | apply Keeps.dite | split

end Sys2Proof.Machine
end

