-- ==== Sys2Proof/Laws/KeepTwins.lean ====
section
/-! SUPPORT. What Laws/Keeps.lean says is kept by the operations of the safety monitor, the array cycle, the crossings and the twins. -/

namespace Sys2Proof.Machine

/-! Machine/Saf.lean. -/

theorem modSaf_keeps {P : Part → Prop} {s00 : State} {s : State} (hk : Keeps P s00 s) (t : Twin) (f : SafSt → SafSt)
    (q_saf : ¬ P (.tw t .saf)) :
    Keeps P s00 (modSaf s t f) := by
  unfold modSaf
  repeat' first
    | (cases ‹TwinField› <;> first | rfl | exact absurd ‹_› (by solve_by_elim))
    | with_reducible first
      | assumption | apply q_saf | intro _ | apply Keeps.dite | split | refine Keeps.setTwRegs ?_ rfl (fun k => (k.tw _).same rfl rfl rfl rfl rfl rfl rfl rfl) fun f hf => ?_

theorem fnDemand_keeps {P : Part → Prop} {s00 : State} {s : State} (hk : Keeps P s00 s) (t : Twin) (k : Nat)
    (q_regs : ¬ P (.tw t .regs)) :
    Keeps P s00 (fnDemand s t k) := by
  unfold fnDemand
  repeat' with_reducible first
    | assumption | apply q_regs | intro _ | apply ev_keeps | apply cnt_keeps | apply wf_keeps

theorem fnFull_keeps {P : Part → Prop} {s00 : State} {s : State} (hk : Keeps P s00 s) (t : Twin) (k : Nat) (q_regs : ¬ P (.tw t .regs))
    (q_saf : ¬ P (.tw t .saf)) :
    Keeps P s00 (fnFull s t k) := by
  unfold fnFull
  extract_lets
  repeat' with_reducible first
    | assumption | apply q_regs | apply q_saf | intro _ | apply wr_keeps | apply modSaf_keeps | apply Keeps.dite

theorem fnScan_keeps {P : Part → Prop} {s00 : State} {s0 : State} (hk : Keeps P s00 s0) (t : Twin) (k : Nat)
    (q_regs : ¬ P (.tw t .regs)) (q_saf : ¬ P (.tw t .saf)) :
    Keeps P s00 (fnScan t s0 k) := by
  unfold fnScan
  extract_lets
  repeat' with_reducible first
    | assumption | apply q_regs | apply q_saf | intro _ | apply fnFull_keeps | apply wf_keeps | apply fnDemand_keeps
    | apply modSaf_keeps | apply Keeps.dite

theorem readback_keeps {P : Part → Prop} {s00 : State} {s : State} (hk : Keeps P s00 s) (t : Twin) (p : Nat) (high : Bool) (q_regs : ¬ P (.tw t .regs)) (q_saf : ¬ P (.tw t .saf)) :
    Keeps P s00 (readback s t p high) := by
  unfold readback
  try extract_lets
  repeat' with_reducible first | assumption | apply q_regs | apply q_saf | intro _ | apply evi_keeps | apply modSaf_keeps | apply clri_keeps | apply Keeps.dite | split | dsimp only

theorem setOut_keeps {P : Part → Prop} {s00 : State} {s : State} (hk : Keeps P s00 s) (t : Twin) (p : Nat) (v : Bool) (q_regs : ¬ P (.tw t .regs)) (q_saf : ¬ P (.tw t .saf)) :
    Keeps P s00 (setOut s t p v) := by
  unfold setOut
  try extract_lets
  repeat' with_reducible first | assumption | apply q_regs | apply q_saf | intro _ | apply readback_keeps | apply evi_keeps | apply clri_keeps | apply Keeps.dite | split | dsimp only

theorem sideOutputs_keeps {P : Part → Prop} {s00 : State} {s : State} (hk : Keeps P s00 s) (t : Twin) (p_edge : ¬ P .edge) (q_regs : ∀ u, ¬ P (.tw u .regs)) (q_saf : ¬ P (.tw t .saf)) :
    Keeps P s00 (sideOutputs s t) := by
  unfold sideOutputs
  try extract_lets
  repeat' with_reducible first | assumption | apply p_edge | apply q_regs | apply q_saf | intro _ | apply wf_keeps | apply setOut_keeps | apply bridgeStop_keeps | apply settle1_keeps | apply Keeps.dite | apply Keeps.foldl | apply Keeps.foldl₁ | apply Keeps.foldl₂ | split | dsimp only

theorem execSafetyScan_keeps {P : Part → Prop} {s00 : State} {s : State} (hk : Keeps P s00 s) (t : Twin) (p_edge : ¬ P .edge)
    (q_regs : ∀ u, ¬ P (.tw u .regs)) (q_saf : ¬ P (.tw t .saf)) :
    OutKeeps P s00 (execSafetyScan t s) := by
  unfold execSafetyScan
  repeat' with_reducible first
    | assumption | apply p_edge | apply q_regs | apply q_saf | intro _ | apply OutKeeps.next | apply OutKeeps.dite
    | apply sideOutputs_keeps | apply fnScan_keeps | apply Keeps.dite | apply Keeps.foldl

theorem execSinFilterChange_keeps {P : Part → Prop} {s00 : State} {s : State} (hk : Keeps P s00 s) (t : Twin) (n : Fin 8)
    (high : Bool) (q_saf : ¬ P (.tw t .saf)) :
    OutKeeps P s00 (execSinFilterChange t n high s) := by
  unfold execSinFilterChange
  repeat' with_reducible first
    | assumption | apply q_saf | intro _ | apply OutKeeps.next | apply OutKeeps.dite | apply modSaf_keeps

theorem execDiscrepancyFault_keeps {P : Part → Prop} {s00 : State} {s : State} (hk : Keeps P s00 s) (t : Twin) (k : Fin 4)
    (p_edge : ¬ P .edge) (q_regs : ∀ u, ¬ P (.tw u .regs)) (q_saf : ¬ P (.tw t .saf)) :
    OutKeeps P s00 (execDiscrepancyFault t k s) := by
  unfold execDiscrepancyFault
  extract_lets
  repeat' with_reducible first
    | assumption | apply p_edge | apply q_regs | apply q_saf | intro _ | apply OutKeeps.next | apply OutKeeps.dite
    | apply ev_keeps | apply cnt_keeps | apply wf_keeps | apply sideOutputs_keeps | apply modSaf_keeps
    | apply Keeps.dite

theorem safAck_keeps {P : Part → Prop} {s00 : State} {s : State} (hk : Keeps P s00 s) (m : Nat) (p_edge : ¬ P .edge)
    (q_regs : ∀ u, ¬ P (.tw u .regs)) (q_saf : ∀ u, ¬ P (.tw u .saf)) :
    Keeps P s00 (safAck s m) := by
  unfold safAck
  extract_lets
  repeat' with_reducible first
    | assumption | apply p_edge | apply q_regs | apply q_saf | intro _ | apply say_keeps | apply onBoth_keeps
    | apply sideOutputs_keeps | apply modSaf_keeps | apply wf_keeps | apply Keeps.dite | apply Keeps.foldl

theorem execAck_keeps {P : Part → Prop} {s00 : State} {s : State} (hk : Keeps P s00 s) (tg : Target) (m : BitVec 4)
    (p_edge : ¬ P .edge) (q_regs : ∀ u, ¬ P (.tw u .regs)) (q_saf : ∀ u, ¬ P (.tw u .saf)) :
    OutKeeps P s00 (execAck tg m s) := by
  unfold execAck
  repeat' with_reducible first
    | assumption | apply p_edge | apply q_regs | apply q_saf | intro _ | apply OutKeeps.next | apply OutKeeps.dite
    | apply agreedOnly_keeps | apply safAck_keeps

theorem execDemandAge_keeps {P : Part → Prop} {s00 : State} {s : State} (hk : Keeps P s00 s) (t : Twin) (k : Fin 4) (q_regs : ¬ P (.tw t .regs)) :
    OutKeeps P s00 (execDemandAge t k s) := by
  unfold execDemandAge
  try extract_lets
  repeat' with_reducible first | assumption | apply q_regs | intro _ | apply OutKeeps.next | apply OutKeeps.dite | apply ev_keeps | apply Keeps.dite | split | dsimp only

theorem execInternalDemand_keeps {P : Part → Prop} {s00 : State} {s : State} (hk : Keeps P s00 s) (t : Twin) (k : Fin 8) (q_regs : ¬ P (.tw t .regs)) (q_twn : ∀ u, ¬ P (.tw u .twn)) :
    OutKeeps P s00 (execInternalDemand t k s) := by
  unfold execInternalDemand
  try extract_lets
  repeat' with_reducible first | assumption | apply q_regs | apply q_twn | intro _ | apply OutKeeps.next | apply OutKeeps.dite | apply demand_keeps | apply Keeps.dite | split | dsimp only

theorem safAckInt_keeps {P : Part → Prop} {s00 : State} {s : State} (hk : Keeps P s00 s) (p_edge : ¬ P .edge) (q_regs : ∀ u, ¬ P (.tw u .regs)) (q_saf : ∀ u, ¬ P (.tw u .saf)) :
    Keeps P s00 (safAckInt s) := by
  unfold safAckInt
  try extract_lets
  repeat' with_reducible first | assumption | apply p_edge | apply q_regs | apply q_saf | intro _ | apply say_keeps | apply onBoth_keeps | apply sideOutputs_keeps | apply clri_keeps | apply Keeps.dite | apply Keeps.foldl | apply Keeps.foldl₁ | apply Keeps.foldl₂ | split | dsimp only

theorem execAckInt_keeps {P : Part → Prop} {s00 : State} {s : State} (hk : Keeps P s00 s) (tg : Target) (p_edge : ¬ P .edge) (q_regs : ∀ u, ¬ P (.tw u .regs)) (q_saf : ∀ u, ¬ P (.tw u .saf)) :
    OutKeeps P s00 (execAckInt tg s) := by
  unfold execAckInt
  try extract_lets
  repeat' with_reducible first | assumption | apply p_edge | apply q_regs | apply q_saf | intro _ | apply OutKeeps.next | apply OutKeeps.dite | apply agreedOnly_keeps | apply safAckInt_keeps | apply Keeps.dite | split | dsimp only

theorem outFault_keeps {P : Part → Prop} {s00 : State} {s : State} (hk : Keeps P s00 s) (t : Twin) (p code : Nat) (p_edge : ¬ P .edge) (q_regs : ∀ u, ¬ P (.tw u .regs)) (q_saf : ∀ u, ¬ P (.tw u .saf)) :
    Keeps P s00 (outFault s t p code) := by
  unfold outFault
  try extract_lets
  repeat' with_reducible first | assumption | apply p_edge | apply q_regs | apply q_saf | intro _ | apply wf_keeps | apply ev_keeps | apply cnt_keeps | apply readback_keeps | apply onBoth_keeps | apply sideOutputs_keeps | apply evi_keeps | apply Keeps.dite | split | dsimp only

theorem execSoutOvercurrent_keeps {P : Part → Prop} {s00 : State} {s : State} (hk : Keeps P s00 s) (t : Twin) (p : Fin 2) (p_edge : ¬ P .edge) (q_regs : ∀ u, ¬ P (.tw u .regs)) (q_saf : ∀ u, ¬ P (.tw u .saf)) :
    OutKeeps P s00 (execSoutOvercurrent t p s) := by
  unfold execSoutOvercurrent
  try extract_lets
  repeat' with_reducible first | assumption | apply p_edge | apply q_regs | apply q_saf | intro _ | apply OutKeeps.next | apply OutKeeps.dite | apply outFault_keeps | apply Keeps.dite | split | dsimp only

theorem execSoutOffPulse_keeps {P : Part → Prop} {s00 : State} {s : State} (hk : Keeps P s00 s) (t : Twin) (p : Fin 2) (high : Bool) (p_edge : ¬ P .edge) (q_regs : ∀ u, ¬ P (.tw u .regs)) (q_saf : ∀ u, ¬ P (.tw u .saf)) :
    OutKeeps P s00 (execSoutOffPulse t p high s) := by
  unfold execSoutOffPulse
  try extract_lets
  repeat' with_reducible first | assumption | apply p_edge | apply q_regs | apply q_saf | intro _ | apply OutKeeps.next | apply OutKeeps.dite | apply readback_keeps | apply modSaf_keeps | apply outFault_keeps | apply Keeps.dite | split | dsimp only

theorem execSoutOffPulseEnd_keeps {P : Part → Prop} {s00 : State} {s : State} (hk : Keeps P s00 s) (t : Twin) (p : Fin 2)
    (q_regs : ¬ P (.tw t .regs)) (q_saf : ¬ P (.tw t .saf)) :
    OutKeeps P s00 (execSoutOffPulseEnd t p s) := by
  unfold execSoutOffPulseEnd
  repeat' with_reducible first
    | assumption | apply q_regs | apply q_saf | intro _ | apply OutKeeps.next | apply OutKeeps.dite
    | apply readback_keeps | apply modSaf_keeps | apply Keeps.dite

theorem execSoutReadbackFault_keeps {P : Part → Prop} {s00 : State} {s : State} (hk : Keeps P s00 s) (t : Twin) (p : Fin 2) (high : Bool) (p_edge : ¬ P .edge) (q_regs : ∀ u, ¬ P (.tw u .regs)) (q_saf : ∀ u, ¬ P (.tw u .saf)) :
    OutKeeps P s00 (execSoutReadbackFault t p high s) := by
  unfold execSoutReadbackFault
  try extract_lets
  repeat' with_reducible first | assumption | apply p_edge | apply q_regs | apply q_saf | intro _ | apply OutKeeps.next | apply OutKeeps.dite | apply readback_keeps | apply outFault_keeps | apply Keeps.dite | split | dsimp only

theorem safAckOut_keeps {P : Part → Prop} {s00 : State} {s : State} (hk : Keeps P s00 s) (low : Nat) (p_edge : ¬ P .edge) (q_regs : ∀ u, ¬ P (.tw u .regs)) (q_saf : ∀ u, ¬ P (.tw u .saf)) :
    Keeps P s00 (safAckOut s low) := by
  unfold safAckOut
  try extract_lets
  repeat' with_reducible first | assumption | apply p_edge | apply q_regs | apply q_saf | intro _ | apply say_keeps | apply onBoth_keeps | apply sideOutputs_keeps | apply wf_keeps | apply clri_keeps | apply Keeps.dite | apply Keeps.foldl | apply Keeps.foldl₁ | apply Keeps.foldl₂ | split | dsimp only

theorem execAckOut_keeps {P : Part → Prop} {s00 : State} {s : State} (hk : Keeps P s00 s) (tg : Target) (low : BitVec 2) (p_edge : ¬ P .edge) (q_regs : ∀ u, ¬ P (.tw u .regs)) (q_saf : ∀ u, ¬ P (.tw u .saf)) :
    OutKeeps P s00 (execAckOut tg low s) := by
  unfold execAckOut
  try extract_lets
  repeat' with_reducible first | assumption | apply p_edge | apply q_regs | apply q_saf | intro _ | apply OutKeeps.next | apply OutKeeps.dite | apply agreedOnly_keeps | apply safAckOut_keeps | apply Keeps.dite | split | dsimp only

theorem execCrossCheck_keeps {P : Part → Prop} {s00 : State} {s : State} (hk : Keeps P s00 s) (t : Twin) (q_regs : ¬ P (.tw t .regs)) (q_saf : ¬ P (.tw t .saf)) :
    OutKeeps P s00 (execCrossCheck t s) := by
  unfold execCrossCheck
  try extract_lets
  repeat' with_reducible first | assumption | apply q_regs | apply q_saf | intro _ | apply OutKeeps.next | apply OutKeeps.dite | apply wf_keeps | apply ev_keeps | apply modSaf_keeps | apply Keeps.dite | split | dsimp only

theorem execSmDiff_keeps {P : Part → Prop} {s00 : State} {s : State} (hk : Keeps P s00 s) (t : Twin) (q_regs : ¬ P (.tw t .regs)) (q_twn : ∀ u, ¬ P (.tw u .twn)) :
    OutKeeps P s00 (execSmDiff t s) := by
  unfold execSmDiff
  try extract_lets
  repeat' with_reducible first | assumption | apply q_regs | apply q_twn | intro _ | apply OutKeeps.next | apply OutKeeps.dite | apply ev_keeps | apply demand_keeps | apply Keeps.dite | split | dsimp only

theorem execSolo_keeps {P : Part → Prop} {s00 : State} {s : State} (hk : Keeps P s00 s) (t : Twin) (q_regs : ¬ P (.tw t .regs)) (q_twn : ∀ u, ¬ P (.tw u .twn)) :
    OutKeeps P s00 (execSolo t s) := by
  unfold execSolo
  try extract_lets
  repeat' with_reducible first | assumption | apply q_regs | apply q_twn | intro _ | apply OutKeeps.next | apply OutKeeps.dite | apply demand_keeps | apply Keeps.dite | split | dsimp only

theorem execParamCheck_keeps {P : Part → Prop} {s00 : State} {s : State} (hk : Keeps P s00 s) (t : Twin) (q_regs : ¬ P (.tw t .regs)) (q_twn : ∀ u, ¬ P (.tw u .twn)) :
    OutKeeps P s00 (execParamCheck t s) := by
  unfold execParamCheck
  try extract_lets
  repeat' with_reducible first | assumption | apply q_regs | apply q_twn | intro _ | apply OutKeeps.next | apply OutKeeps.dite | apply wr_keeps | apply demand_keeps | apply Keeps.dite | split | dsimp only

theorem execOscCheck_keeps {P : Part → Prop} {s00 : State} {s : State} (hk : Keeps P s00 s) (t : Twin) (khz : BitVec 16) (q_regs : ¬ P (.tw t .regs)) (q_saf : ¬ P (.tw t .saf)) (q_twn : ∀ u, ¬ P (.tw u .twn)) :
    OutKeeps P s00 (execOscCheck t khz s) := by
  unfold execOscCheck
  try extract_lets
  repeat' with_reducible first | assumption | apply q_regs | apply q_saf | apply q_twn | intro _ | apply OutKeeps.next | apply OutKeeps.dite | apply wf_keeps | apply modSaf_keeps | apply demand_keeps | apply Keeps.dite | split | dsimp only

theorem execSafetyStateRead_keeps {P : Part → Prop} {s00 : State} {s : State} (hk : Keeps P s00 s) (t : Twin) (q_arr : ¬ P (.tw t .arr)) (q_drv : ¬ P (.tw t .drv)) (p_edge : ¬ P .edge) (q_regs : ∀ u, ¬ P (.tw u .regs)) :
    OutKeeps P s00 (execSafetyStateRead t s) := by
  unfold execSafetyStateRead
  try extract_lets
  repeat' with_reducible first | assumption | apply q_arr | apply q_drv | apply p_edge | apply q_regs | intro _ | apply OutKeeps.next | apply OutKeeps.dite | apply modArr_keeps | apply dropInserting_keeps | apply chEnter_keeps | apply chanForces_keeps | apply Keeps.dite | apply Keeps.foldl | apply Keeps.foldl₁ | apply Keeps.foldl₂ | split | dsimp only

/-! Machine/Cycle.lean. -/

theorem sendFrame_keeps {P : Part → Prop} {s00 : State} {s : State} (hk : Keeps P s00 s) (t : Twin) (n c type flags : Nat) (downs : List (List Byte)) (q_arr : ¬ P (.tw t .arr)) (q_regs : ¬ P (.tw t .regs)) (q_rings : ¬ P (.tw t .rings)) (q_xings : ¬ P (.tw t .xings)) :
    Keeps P s00 (sendFrame s t n c type flags downs) := by
  unfold sendFrame
  try extract_lets
  repeat' with_reducible first | assumption | apply q_arr | apply q_regs | apply q_rings | apply q_xings | intro _ | apply modRingX_keeps | apply crossOut_keeps | apply cnt_keeps | apply modArr_keeps | apply Keeps.dite | split | dsimp only

theorem ringFrame_keeps {P : Part → Prop} {s00 : State} {s : State} (hk : Keeps P s00 s) (t : Twin) (n : Nat) (hold : Bool) (c : Nat) (q_arr : ∀ u, ¬ P (.tw u .arr)) (q_regs : ∀ u, ¬ P (.tw u .regs)) (q_rings : ∀ u, ¬ P (.tw u .rings)) (q_xings : ∀ u, ¬ P (.tw u .xings)) :
    Keeps P s00 (ringFrame t n hold s c) := by
  unfold ringFrame
  try extract_lets
  repeat' with_reducible first | assumption | apply q_arr | apply q_regs | apply q_rings | apply q_xings | intro _ | apply modArr_keeps | apply setRing_keeps | apply sendFrame_keeps | apply Keeps.dite | split | dsimp only

theorem followWindow_keeps {P : Part → Prop} {s00 : State} {s : State} (hk : Keeps P s00 s) (t : Twin) (m : Nat) (q_arr : ¬ P (.tw t .arr)) :
    Keeps P s00 (followWindow s t m) := by
  unfold followWindow
  try extract_lets
  repeat' with_reducible first | assumption | apply q_arr | intro _ | apply modArr_keeps | apply repeatMods_keeps | apply commitMods_keeps | apply Keeps.dite | split | dsimp only

theorem rg0Deadline_keeps {P : Part → Prop} {s00 : State} {s : State} (hk : Keeps P s00 s) (t : Twin) (q_drv : ¬ P (.tw t .drv))
    (p_edge : ¬ P .edge) (q_law : ¬ P (.tw t .law)) (q_regs : ∀ u, ¬ P (.tw u .regs)) :
    Keeps P s00 (rg0Deadline s t) := by
  unfold rg0Deadline
  extract_lets
  repeat' with_reducible first
    | assumption | apply q_drv | apply p_edge | apply q_law | apply q_regs | intro _ | apply developCopies_keeps
    | apply runOutputs_keeps | apply Keeps.dite

theorem enterCycle_keeps {P : Part → Prop} {s00 : State} {s : State} (hk : Keeps P s00 s) (t : Twin) (n : Nat)
    (hold : Bool) (q_arr : ¬ P (.tw t .arr)) (q_drv : ¬ P (.tw t .drv)) (q_upOld : ¬ P (.tw t .upOld)) (q_uplinks : ¬ P (.tw t .uplinks))
    :
    Keeps P s00 (enterCycle s t n hold) := by
  unfold enterCycle
  extract_lets
  repeat' first
    | (cases ‹TwinField› <;> first | rfl | exact absurd ‹_› (by solve_by_elim))
    | with_reducible first
      | assumption | apply q_arr | apply q_drv | apply q_upOld | apply q_uplinks | intro _ | apply modPos_keeps
      | apply modArr_keeps | apply Keeps.dite | split | refine Keeps.setTwRegs ?_ rfl (fun k => ⟨(k.tw _).rings, rfl, tabWf_filter _ (tabWf_tabSet (fun _ => []) (k.tw _).upOld _ _) _, (k.tw _).exps, (k.tw _).can, (k.tw _).neg, (k.tw _).xings, (k.tw _).queues⟩) fun f hf => ?_

theorem cycleStart_keeps {P : Part → Prop} {s00 : State} {s : State} (hk : Keeps P s00 s) (t : Twin) (n : Nat) (q_arr : ∀ u, ¬ P (.tw u .arr)) (q_drv : ¬ P (.tw t .drv)) (p_edge : ¬ P .edge) (q_flash : ¬ P (.tw t .flash)) (p_ilk : ¬ P .ilk) (q_law : ¬ P (.tw t .law)) (p_net : ¬ P .net) (q_regs : ∀ u, ¬ P (.tw u .regs)) (q_rings : ∀ u, ¬ P (.tw u .rings)) (q_twn : ∀ u, ¬ P (.tw u .twn)) (q_upOld : ¬ P (.tw t .upOld)) (q_uplinks : ¬ P (.tw t .uplinks)) (q_xings : ∀ u, ¬ P (.tw u .xings)) :
    Keeps P s00 (cycleStart s t n) := by
  unfold cycleStart
  try extract_lets
  repeat' with_reducible first | assumption | apply q_arr | apply q_drv | apply p_edge | apply q_flash | apply p_ilk | apply q_law | apply p_net | apply q_regs | apply q_rings | apply q_twn | apply q_upOld | apply q_uplinks | apply q_xings | intro _ | apply clri_keeps | apply modArr_keeps | apply rg0Deadline_keeps | apply followWindow_keeps | apply ringFrame_keeps | apply scheduleSwitch_keeps | apply enterCycle_keeps | apply Keeps.dite | apply Keeps.foldl | apply Keeps.foldl₁ | apply Keeps.foldl₂ | split | dsimp only

theorem execCycleStart_keeps {P : Part → Prop} {s00 : State} {s : State} (hk : Keeps P s00 s) (t : Twin) (n : W32) (q_arr : ∀ u, ¬ P (.tw u .arr)) (q_drv : ¬ P (.tw t .drv)) (p_edge : ¬ P .edge) (q_flash : ¬ P (.tw t .flash)) (p_ilk : ¬ P .ilk) (q_law : ¬ P (.tw t .law)) (p_net : ¬ P .net) (q_regs : ∀ u, ¬ P (.tw u .regs)) (q_rings : ∀ u, ¬ P (.tw u .rings)) (q_twn : ∀ u, ¬ P (.tw u .twn)) (q_upOld : ¬ P (.tw t .upOld)) (q_uplinks : ¬ P (.tw t .uplinks)) (q_xings : ∀ u, ¬ P (.tw u .xings)) :
    OutKeeps P s00 (execCycleStart t n s) := by
  unfold execCycleStart
  try extract_lets
  repeat' with_reducible first | assumption | apply q_arr | apply q_drv | apply p_edge | apply q_flash | apply p_ilk | apply q_law | apply p_net | apply q_regs | apply q_rings | apply q_twn | apply q_upOld | apply q_uplinks | apply q_xings | intro _ | apply OutKeeps.next | apply OutKeeps.dite | apply cycleStart_keeps | apply Keeps.dite | split | dsimp only

theorem firstFrame_keeps {P : Part → Prop} {s00 : State} {s : State} (hk : Keeps P s00 s) (t : Twin) (q_arr : ¬ P (.tw t .arr)) (q_regs : ¬ P (.tw t .regs)) :
    Keeps P s00 (firstFrame s t) := by
  unfold firstFrame
  try extract_lets
  repeat' with_reducible first | assumption | apply q_arr | apply q_regs | intro _ | apply modArr_keeps | apply wf_keeps | apply modCellX_keeps | apply setCellSt_keeps | apply stillSlot_keeps | apply rerank_keeps | apply Keeps.dite | apply Keeps.foldl | apply Keeps.foldl₁ | apply Keeps.foldl₂ | split | dsimp only

theorem execArrayFirstFrame_keeps {P : Part → Prop} {s00 : State} {s : State} (hk : Keeps P s00 s) (n0 : W32)
    (q_arr : ∀ u, ¬ P (.tw u .arr)) (q_regs : ∀ u, ¬ P (.tw u .regs)) :
    OutKeeps P s00 (execArrayFirstFrame n0 s) := by
  unfold execArrayFirstFrame
  repeat' with_reducible first
    | assumption | apply q_arr | apply q_regs | intro _ | apply OutKeeps.next | apply OutKeeps.dite
    | apply onComputing_keeps | apply modArr_keeps | apply firstFrame_keeps | apply Keeps.dite

theorem execAgreementClose_keeps {P : Part → Prop} {s00 : State} {s : State} (hk : Keeps P s00 s) (t : Twin) (gpio : BitVec 12) (q_arr : ¬ P (.tw t .arr)) (q_drv : ¬ P (.tw t .drv)) (q_law : ¬ P (.tw t .law)) (q_net : ¬ P (.tw t .net)) (q_regs : ∀ u, ¬ P (.tw u .regs)) (q_rings : ∀ u, ¬ P (.tw u .rings)) (p_sluice : ¬ P .sluice) (q_twn : ∀ u, ¬ P (.tw u .twn)) :
    OutKeeps P s00 (execAgreementClose t gpio s) := by
  unfold execAgreementClose
  try extract_lets
  repeat' with_reducible first | assumption | apply q_arr | apply q_drv | apply q_law | apply q_net | apply q_regs | apply q_rings | apply p_sluice | apply q_twn | intro _ | apply OutKeeps.next | apply OutKeeps.dite | apply modArr_keeps | apply modPos_keeps | apply evi_keeps | apply agreeInputs_keeps | apply startTs_keeps | apply snapCopies_keeps | apply Keeps.dite | split | dsimp only

theorem dispatchRun_keeps {P : Part → Prop} {s00 : State} {s : State} (hk : Keeps P s00 s) (t : Twin) (m : Nat)
    (q_arr : ¬ P (.tw t .arr)) (q_regs : ¬ P (.tw t .regs)) :
    Keeps P s00 (dispatchRun s t m) := by
  unfold dispatchRun
  repeat' with_reducible first
    | assumption | apply q_arr | apply q_regs | intro _ | apply dispatch_keeps | apply Keeps.dite

theorem dispatchEnd_keeps {P : Part → Prop} {s00 : State} {s : State} (hk : Keeps P s00 s) (t : Twin) (m : Nat) (q_arr : ¬ P (.tw t .arr)) (q_twn : ¬ P (.tw t .twn)) :
    Keeps P s00 (dispatchEnd s t m) := by
  unfold dispatchEnd
  try extract_lets
  repeat' with_reducible first | assumption | apply q_arr | apply q_twn | intro _ | apply modTwn_keeps | apply modArr_keeps | apply commitMods_keeps | apply Keeps.dite | split | dsimp only

theorem execRg0RunComplete_keeps {P : Part → Prop} {s00 : State} {s : State} (hk : Keeps P s00 s) (t : Twin) (time : BitVec 16) (q_arr : ¬ P (.tw t .arr)) (q_law : ∀ u, ¬ P (.tw u .law)) (p_net : ¬ P .net) (q_net : ∀ u, ¬ P (.tw u .net)) (q_regs : ∀ u, ¬ P (.tw u .regs)) (q_twn : ¬ P (.tw t .twn)) (q_xings : ∀ u, ¬ P (.tw u .xings)) :
    OutKeeps P s00 (execRg0RunComplete t time s) := by
  unfold execRg0RunComplete
  try extract_lets
  repeat' with_reducible first | assumption | apply q_arr | apply q_law | apply p_net | apply q_net | apply q_regs | apply q_twn | apply q_xings | intro _ | apply OutKeeps.next | apply OutKeeps.dite | apply dispatchRun_keeps | apply runGroup_keeps | apply formDigest_keeps | apply leaveCopies_keeps | apply svRecord_keeps | apply gooseRun_keeps | apply measured_keeps | apply modArr_keeps | apply dispatchEnd_keeps | apply clri_keeps | apply Keeps.dite | split | dsimp only

/-! Machine/Arch.lean. -/

theorem execRcRead_keeps {P : Part → Prop} {s00 : State} {s : State} (hk : Keeps P s00 s) (t : Twin) (addr : W32) (meets : Bool) (q_regs : ¬ P (.tw t .regs)) :
    OutKeeps P s00 (execRcRead t addr meets s) := by
  unfold execRcRead
  try extract_lets
  repeat' with_reducible first | assumption | apply q_regs | intro _ | apply OutKeeps.next | apply OutKeeps.dite | apply say_keeps | apply sampleLive_keeps | apply rcClear_keeps | apply cnt_keeps | apply Keeps.dite | split | refine Keeps.fields ?_ _ _ _ _ _ _ _ _ _ _ ?_ ?_ ?_ ?_ ?_ ?_ ?_ ?_ (fun k => k.cells) (fun k => k.ctx) | exact rfl | exact absurd ‹_› (by assumption) | dsimp only

theorem execSharedPinSwitch_keeps {P : Part → Prop} {s00 : State} {s : State} (hk : Keeps P s00 s) (t : Twin) (p_edge : ¬ P .edge) (p_ilk : ¬ P .ilk) (q_regs : ∀ u, ¬ P (.tw u .regs)) :
    OutKeeps P s00 (execSharedPinSwitch t s) := by
  unfold execSharedPinSwitch
  try extract_lets
  repeat' with_reducible first | assumption | apply p_edge | apply p_ilk | apply q_regs | intro _ | apply OutKeeps.next | apply OutKeeps.dite | apply takePins_keeps | apply Keeps.dite | split | refine Keeps.fields ?_ _ _ _ _ _ _ _ _ _ _ ?_ ?_ ?_ ?_ ?_ ?_ ?_ ?_ (fun k => k.cells) (fun k => k.ctx) | exact rfl | exact absurd ‹_› (by assumption) | dsimp only

theorem execInterlockRelease_keeps {P : Part → Prop} {s00 : State} {s : State} (hk : Keeps P s00 s) (t : Twin) (lost : Bool) (p_edge : ¬ P .edge) (q_flash : ¬ P (.tw t .flash)) (p_ilk : ¬ P .ilk) (p_net : ¬ P .net) (q_regs : ∀ u, ¬ P (.tw u .regs)) (q_twn : ∀ u, ¬ P (.tw u .twn)) :
    OutKeeps P s00 (execInterlockRelease t lost s) := by
  unfold execInterlockRelease
  try extract_lets
  repeat' with_reducible first | assumption | apply p_edge | apply q_flash | apply p_ilk | apply p_net | apply q_regs | apply q_twn | intro _ | apply OutKeeps.next | apply OutKeeps.dite | apply ilkRelease_keeps | apply withdraw_keeps | apply setIlkReq_keeps | apply Keeps.dite | split | dsimp only

theorem execLinkWordReceive_keeps {P : Part → Prop} {s00 : State} {s : State} (hk : Keeps P s00 s) (t : Twin)
    (groups : List (BitVec 4)) (q_twn : ¬ P (.tw t .twn)) :
    OutKeeps P s00 (execLinkWordReceive t groups s) := by
  unfold execLinkWordReceive
  repeat' with_reducible first
    | assumption | apply q_twn | intro _ | apply OutKeeps.next | apply OutKeeps.dite | apply modTwn_keeps
    | apply Keeps.dite | split

theorem otherLost_keeps {P : Part → Prop} {s00 : State} {s : State} (hk : Keeps P s00 s) (t : Twin) (q_regs : ∀ u, ¬ P (.tw u .regs)) :
    Keeps P s00 (otherLost s t) := by
  unfold otherLost
  try extract_lets
  repeat' with_reducible first | assumption | apply q_regs | intro _ | apply twnFlags_keeps | apply cnt_keeps | apply ev_keeps | apply wf_keeps | apply onBoth_keeps | apply Keeps.dite | split | dsimp only

theorem execLinkHandshakeTimeout_keeps {P : Part → Prop} {s00 : State} {s : State} (hk : Keeps P s00 s) (t : Twin) (q_regs : ∀ u, ¬ P (.tw u .regs)) (q_twn : ¬ P (.tw t .twn)) :
    OutKeeps P s00 (execLinkHandshakeTimeout t s) := by
  unfold execLinkHandshakeTimeout
  try extract_lets
  repeat' with_reducible first | assumption | apply q_regs | apply q_twn | intro _ | apply OutKeeps.next | apply OutKeeps.dite | apply modTwn_keeps | apply ev_keeps | apply twnFlags_keeps | apply otherLost_keeps | apply Keeps.dite | split | dsimp only

theorem execCrossingTransfer_keeps {P : Part → Prop} {s00 : State} {s : State} (hk : Keeps P s00 s) (t : Twin) (d : Fin 9) (into : Bool) (samples : List W32) (q_regs : ¬ P (.tw t .regs)) (q_xings : ¬ P (.tw t .xings)) :
    OutKeeps P s00 (execCrossingTransfer t d into samples s) := by
  unfold execCrossingTransfer
  dsimp only
  repeat' with_reducible first | assumption | apply q_regs | apply q_xings | intro _ | apply OutKeeps.next | apply OutKeeps.dite | apply xingLost_keeps | apply setXing_keeps | apply accept_keeps | apply Keeps.dite | split | refine Keeps.fields ?_ _ _ _ _ _ _ _ _ _ _ ?_ ?_ ?_ ?_ ?_ ?_ ?_ ?_ (fun k => k.cells) (fun k => k.ctx) | exact rfl | exact absurd ‹_› (by assumption) | dsimp only

theorem execDomainWake_keeps {P : Part → Prop} {s00 : State} {s : State} (hk : Keeps P s00 s) (t : Twin) (d : Fin 9) (q_pwr : ¬ P (.tw t .pwr)) (q_regs : ¬ P (.tw t .regs)) (q_xings : ¬ P (.tw t .xings)) :
    OutKeeps P s00 (execDomainWake t d s) := by
  unfold execDomainWake
  try extract_lets
  repeat' with_reducible first | assumption | apply q_pwr | apply q_regs | apply q_xings | intro _ | apply OutKeeps.next | apply OutKeeps.dite | apply ungate_keeps | apply Keeps.dite | split | dsimp only

theorem xingDrop_keeps {P : Part → Prop} {s00 : State} {s : State} (hk : Keeps P s00 s) (t : Twin) (d : Fin 9) (into fabric : Bool) (q_regs : ¬ P (.tw t .regs)) (q_xings : ¬ P (.tw t .xings)) :
    Keeps P s00 (xingDrop s t d into fabric) := by
  unfold xingDrop
  try extract_lets
  repeat' with_reducible first | assumption | apply q_regs | apply q_xings | intro _ | apply cntBy_keeps | apply setXing_keeps | apply Keeps.dite | split | dsimp only

theorem execCrossingSideReset_keeps {P : Part → Prop} {s00 : State} {s : State} (hk : Keeps P s00 s) (t : Twin) (d : Fin 9)
    (fabric : Bool) (q_regs : ¬ P (.tw t .regs)) (q_xings : ¬ P (.tw t .xings)) :
    OutKeeps P s00 (execCrossingSideReset t d fabric s) := by
  unfold execCrossingSideReset
  repeat' with_reducible first
    | assumption | apply q_regs | apply q_xings | intro _ | apply OutKeeps.next | apply OutKeeps.dite
    | apply xingDrop_keeps

theorem xingResume_keeps {P : Part → Prop} {s00 : State} {s : State} (hk : Keeps P s00 s) (t : Twin) (d : Fin 9)
    (into : Bool) (q_xings : ¬ P (.tw t .xings)) :
    Keeps P s00 (xingResume s t d into) := by
  unfold xingResume
  extract_lets
  repeat' with_reducible first | assumption | apply q_xings | intro _ | apply setXing_keeps | apply Keeps.dite

theorem execCrossingRehandshake_keeps {P : Part → Prop} {s00 : State} {s : State} (hk : Keeps P s00 s) (t : Twin)
    (d : Fin 9) (q_xings : ¬ P (.tw t .xings)) :
    OutKeeps P s00 (execCrossingRehandshake t d s) := by
  unfold execCrossingRehandshake
  repeat' with_reducible first
    | assumption | apply q_xings | intro _ | apply OutKeeps.next | apply OutKeeps.dite | apply xingResume_keeps

/-! Machine/Twins.lean. -/

theorem execHeartbeatSend_keeps {P : Part → Prop} {s00 : State} {s : State} (hk : Keeps P s00 s) (t : Twin) (q_adc : ¬ P (.tw t .adc)) (q_arr : ¬ P (.tw t .arr)) (q_can : ¬ P (.tw t .can)) (q_drv : ¬ P (.tw t .drv)) (p_edge : ¬ P .edge) (q_exps : ¬ P (.tw t .exps)) (q_flash : ¬ P (.tw t .flash)) (p_ilk : ¬ P .ilk) (q_law : ¬ P (.tw t .law)) (q_neg : ¬ P (.tw t .neg)) (p_net : ¬ P .net) (q_net : ¬ P (.tw t .net)) (q_ofs : ¬ P (.tw t .ofs)) (q_pwr : ¬ P (.tw t .pwr)) (q_queues : ¬ P (.tw t .queues)) (q_regs : ∀ u, ¬ P (.tw u .regs)) (q_rings : ¬ P (.tw t .rings)) (q_saf : ¬ P (.tw t .saf)) (p_sluice : ¬ P .sluice) (q_tb : ¬ P (.tw t .tb)) (q_tm : ¬ P (.tw t .tm)) (q_twn : ¬ P (.tw t .twn)) (q_upOld : ¬ P (.tw t .upOld)) (q_uplinks : ¬ P (.tw t .uplinks)) (q_xings : ¬ P (.tw t .xings)) :
    OutKeeps P s00 (execHeartbeatSend t s) := by
  unfold execHeartbeatSend
  try extract_lets
  repeat' with_reducible first | assumption | apply q_adc | apply q_arr | apply q_can | apply q_drv | apply p_edge | apply q_exps | apply q_flash | apply p_ilk | apply q_law | apply q_neg | apply p_net | apply q_net | apply q_ofs | apply q_pwr | apply q_queues | apply q_regs | apply q_rings | apply q_saf | apply p_sluice | apply q_tb | apply q_tm | apply q_twn | apply q_upOld | apply q_uplinks | apply q_xings | intro _ | apply OutKeeps.next | apply OutKeeps.dite | apply updateReset_keeps | apply modTwn_keeps | apply Keeps.dite | split | dsimp only

theorem hearHeartbeat_keeps {P : Part → Prop} {s00 : State} {s : State} (hk : Keeps P s00 s) (t : Twin) (hb : Heartbeat)
    (q_regs : ¬ P (.tw t .regs)) (q_twn : ¬ P (.tw t .twn)) :
    Keeps P s00 (hearHeartbeat s t hb) := by
  unfold hearHeartbeat
  extract_lets
  repeat' with_reducible first
    | assumption | apply q_regs | apply q_twn | intro _ | apply wf_keeps | apply wr_keeps | apply modTwn_keeps

theorem startRejoin_keeps {P : Part → Prop} {s00 : State} {s : State} (hk : Keeps P s00 s) (t : Twin) (h : Bool)
    (q_pwr : ¬ P (.tw t .pwr)) (q_regs : ∀ u, ¬ P (.tw u .regs)) (p_sluice : ¬ P .sluice) (q_twn : ¬ P (.tw t .twn))
    :
    Keeps P s00 (startRejoin s t h) := by
  unfold startRejoin
  extract_lets
  repeat' with_reducible first
    | assumption | apply q_pwr | apply q_regs | apply p_sluice | apply q_twn | intro _ | apply leaveAsk_keeps
    | apply say_keeps | apply modPwr_keeps | apply modTwn_keeps | apply Keeps.dite

theorem bootJoin_keeps {P : Part → Prop} {s00 : State} {s : State} (hk : Keeps P s00 s) (t : Twin) (p_ilk : ¬ P .ilk)
    (p_net : ¬ P .net) (q_ofs : ¬ P (.tw t .ofs)) (q_pwr : ¬ P (.tw t .pwr)) (q_regs : ∀ u, ¬ P (.tw u .regs))
    (p_sluice : ¬ P .sluice) (q_twn : ¬ P (.tw t .twn)) :
    Keeps P s00 (bootJoin s t) := by
  unfold bootJoin
  extract_lets
  repeat' with_reducible first
    | assumption | apply p_ilk | apply p_net | apply q_ofs | apply q_pwr | apply q_regs | apply p_sluice
    | apply q_twn | intro _ | apply setIlkReq_keeps | apply startRejoin_keeps | apply enterJoining_keeps
    | apply Keeps.dite

theorem execHeartbeatReceive_keeps {P : Part → Prop} {s00 : State} {s : State} (hk : Keeps P s00 s) (t : Twin) (hb : Heartbeat) (p_edge : ¬ P .edge) (q_flash : ¬ P (.tw t .flash)) (p_ilk : ¬ P .ilk) (p_net : ¬ P .net) (q_ofs : ¬ P (.tw t .ofs)) (q_pwr : ¬ P (.tw t .pwr)) (q_regs : ∀ u, ¬ P (.tw u .regs)) (p_sluice : ¬ P .sluice) (q_twn : ∀ u, ¬ P (.tw u .twn)) :
    OutKeeps P s00 (execHeartbeatReceive t hb s) := by
  unfold execHeartbeatReceive
  try extract_lets
  repeat' with_reducible first | assumption | apply p_edge | apply q_flash | apply p_ilk | apply p_net | apply q_ofs | apply q_pwr | apply q_regs | apply p_sluice | apply q_twn | intro _ | apply OutKeeps.next | apply OutKeeps.dite | apply hearHeartbeat_keeps | apply ev_keeps | apply twnFlags_keeps | apply withdraw_keeps | apply bootJoin_keeps | apply Keeps.dite | split | dsimp only

theorem execOtherLost_keeps {P : Part → Prop} {s00 : State} {s : State} (hk : Keeps P s00 s) (t : Twin) (q_regs : ∀ u, ¬ P (.tw u .regs)) :
    OutKeeps P s00 (execOtherLost t s) := by
  unfold execOtherLost
  try extract_lets
  repeat' with_reducible first | assumption | apply q_regs | intro _ | apply OutKeeps.next | apply OutKeeps.dite | apply otherLost_keeps | apply Keeps.dite | split | dsimp only

theorem execKeepaliveSend_keeps {P : Part → Prop} {s00 : State} {s : State} (hk : Keeps P s00 s) (t : Twin) (acked : Bool) (p_edge : ¬ P .edge) (q_flash : ¬ P (.tw t .flash)) (p_ilk : ¬ P .ilk) (p_net : ¬ P .net) (q_regs : ∀ u, ¬ P (.tw u .regs)) (q_twn : ∀ u, ¬ P (.tw u .twn)) :
    OutKeeps P s00 (execKeepaliveSend t acked s) := by
  unfold execKeepaliveSend
  try extract_lets
  repeat' with_reducible first | assumption | apply p_edge | apply q_flash | apply p_ilk | apply p_net | apply q_regs | apply q_twn | intro _ | apply OutKeeps.next | apply OutKeeps.dite | apply modTwn_keeps | apply wf_keeps | apply twnFlags_keeps | apply setIlkLapsed_keeps | apply withdraw_keeps | apply setIlkReq_keeps | apply Keeps.dite | split | dsimp only

theorem execKeepaliveLapse_keeps {P : Part → Prop} {s00 : State} {s : State} (hk : Keeps P s00 s) (t : Twin) (p_edge : ¬ P .edge) (p_ilk : ¬ P .ilk) (q_regs : ∀ u, ¬ P (.tw u .regs)) :
    OutKeeps P s00 (execKeepaliveLapse t s) := by
  unfold execKeepaliveLapse
  try extract_lets
  repeat' with_reducible first | assumption | apply p_edge | apply p_ilk | apply q_regs | intro _ | apply OutKeeps.next | apply OutKeeps.dite | apply setIlkLapsed_keeps | apply ilkFree_keeps | apply setIlkReq_keeps | apply Keeps.dite | split | dsimp only

theorem execArbiterUnreachable_keeps {P : Part → Prop} {s00 : State} {s : State} (hk : Keeps P s00 s) (t : Twin)
    (q_regs : ¬ P (.tw t .regs)) :
    OutKeeps P s00 (execArbiterUnreachable t s) := by
  unfold execArbiterUnreachable
  repeat' with_reducible first
    | assumption | apply q_regs | intro _ | apply OutKeeps.next | apply OutKeeps.dite | apply twnFlags_keeps
    | apply ev_keeps | apply wf_keeps

theorem execIsolate_keeps {P : Part → Prop} {s00 : State} {s : State} (hk : Keeps P s00 s) (t : Twin) (p_net : ¬ P .net)
    (q_regs : ∀ u, ¬ P (.tw u .regs)) :
    OutKeeps P s00 (execIsolate t s) := by
  unfold execIsolate
  repeat' first
    | (cases ‹TwinField› <;> first | rfl | exact absurd ‹_› (by solve_by_elim))
    | with_reducible first
      | assumption | apply p_net | apply q_regs | intro _ | apply OutKeeps.next | apply OutKeeps.dite
      | apply setTwState_keeps | apply Keeps.dite

theorem execIsolatedRejoin_keeps {P : Part → Prop} {s00 : State} {s : State} (hk : Keeps P s00 s) (t : Twin) (p_ilk : ¬ P .ilk) (p_net : ¬ P .net) (q_ofs : ¬ P (.tw t .ofs)) (q_regs : ∀ u, ¬ P (.tw u .regs)) (q_twn : ¬ P (.tw t .twn)) :
    OutKeeps P s00 (execIsolatedRejoin t s) := by
  unfold execIsolatedRejoin
  try extract_lets
  repeat' with_reducible first | assumption | apply p_ilk | apply p_net | apply q_ofs | apply q_regs | apply q_twn | intro _ | apply OutKeeps.next | apply OutKeeps.dite | apply modTwn_keeps | apply enterJoining_keeps | apply setIlkReq_keeps | apply Keeps.dite | split | dsimp only

theorem stResult_keeps {P : Part → Prop} {s00 : State} {s : State} (hk : Keeps P s00 s) (t : Twin) (own : Bool) (other : Option Bool) (unit : Nat) (q_regs : ¬ P (.tw t .regs)) (q_twn : ¬ P (.tw t .twn)) :
    Keeps P s00 (stResult s t own other unit) := by
  unfold stResult
  dsimp only
  repeat' with_reducible first | assumption | apply q_regs | apply q_twn | intro _ | apply wf_keeps | apply modTwn_keeps | apply Keeps.dite | split | dsimp only

theorem stDecide_keeps {P : Part → Prop} {s00 : State} {s : State} (hk : Keeps P s00 s) (l : Twin) (lp fp : Bool) (p_edge : ¬ P .edge) (q_flash : ∀ u, ¬ P (.tw u .flash)) (p_ilk : ¬ P .ilk) (p_net : ¬ P .net) (q_regs : ∀ u, ¬ P (.tw u .regs)) (q_twn : ∀ u, ¬ P (.tw u .twn)) :
    Keeps P s00 (stDecide s l lp fp) := by
  unfold stDecide
  try extract_lets
  repeat' with_reducible first | assumption | apply p_edge | apply q_flash | apply p_ilk | apply p_net | apply q_regs | apply q_twn | intro _ | apply withdraw_keeps | apply onBoth_keeps | apply ev_keeps | apply withdrawNow_keeps | apply safeStop_keeps | apply Keeps.dite | split | dsimp only

theorem stAlone_keeps {P : Part → Prop} {s00 : State} {s : State} (hk : Keeps P s00 s) (t : Twin) (pass ran : Bool) (p_edge : ¬ P .edge) (q_flash : ¬ P (.tw t .flash)) (p_ilk : ¬ P .ilk) (p_net : ¬ P .net) (q_regs : ∀ u, ¬ P (.tw u .regs)) (q_twn : ∀ u, ¬ P (.tw u .twn)) :
    Keeps P s00 (stAlone s t pass ran) := by
  unfold stAlone
  try extract_lets
  repeat' with_reducible first | assumption | apply p_edge | apply q_flash | apply p_ilk | apply p_net | apply q_regs | apply q_twn | intro _ | apply ran_keeps | apply withdraw_keeps | apply Keeps.dite | split | dsimp only

theorem execFastSelftestComplete_keeps {P : Part → Prop} {s00 : State} {s : State} (hk : Keeps P s00 s) (passA passB : Bool) (unitA unitB : BitVec 16) (p_edge : ¬ P .edge) (q_flash : ∀ u, ¬ P (.tw u .flash)) (p_ilk : ¬ P .ilk) (p_net : ¬ P .net) (q_regs : ∀ u, ¬ P (.tw u .regs)) (q_twn : ∀ u, ¬ P (.tw u .twn)) :
    OutKeeps P s00 (execFastSelftestComplete passA passB unitA unitB s) := by
  unfold execFastSelftestComplete
  try extract_lets
  repeat' with_reducible first | assumption | apply p_edge | apply q_flash | apply p_ilk | apply p_net | apply q_regs | apply q_twn | intro _ | apply OutKeeps.next | apply OutKeeps.dite | apply stResult_keeps | apply stDecide_keeps | apply stAlone_keeps | apply Keeps.dite | split | dsimp only

theorem execWithdraw_keeps {P : Part → Prop} {s00 : State} {s : State} (hk : Keeps P s00 s) (t : Twin) (p_edge : ¬ P .edge) (q_flash : ¬ P (.tw t .flash)) (p_ilk : ¬ P .ilk) (p_net : ¬ P .net) (q_regs : ∀ u, ¬ P (.tw u .regs)) (q_twn : ∀ u, ¬ P (.tw u .twn)) :
    OutKeeps P s00 (execWithdraw t s) := by
  unfold execWithdraw
  try extract_lets
  repeat' with_reducible first | assumption | apply p_edge | apply q_flash | apply p_ilk | apply p_net | apply q_regs | apply q_twn | intro _ | apply OutKeeps.next | apply OutKeeps.dite | apply withdraw_keeps | apply say_keeps | apply Keeps.dite | split | dsimp only

theorem execRejoin_keeps {P : Part → Prop} {s00 : State} {s : State} (hk : Keeps P s00 s) (t : Twin) (q_pwr : ¬ P (.tw t .pwr))
    (q_regs : ∀ u, ¬ P (.tw u .regs)) (p_sluice : ¬ P .sluice) (q_twn : ¬ P (.tw t .twn)) :
    OutKeeps P s00 (execRejoin t s) := by
  unfold execRejoin
  repeat' with_reducible first
    | assumption | apply q_pwr | apply q_regs | apply p_sluice | apply q_twn | intro _ | apply OutKeeps.next
    | apply OutKeeps.dite | apply say_keeps | apply startRejoin_keeps

theorem execAutoRejoin_keeps {P : Part → Prop} {s00 : State} {s : State} (hk : Keeps P s00 s) (t : Twin) (q_pwr : ¬ P (.tw t .pwr))
    (q_regs : ∀ u, ¬ P (.tw u .regs)) (p_sluice : ¬ P .sluice) (q_twn : ¬ P (.tw t .twn)) :
    OutKeeps P s00 (execAutoRejoin t s) := by
  unfold execAutoRejoin
  extract_lets
  repeat' with_reducible first
    | assumption | apply q_pwr | apply q_regs | apply p_sluice | apply q_twn | intro _ | apply OutKeeps.next
    | apply OutKeeps.dite | apply startRejoin_keeps | apply modTwn_keeps | apply Keeps.dite

theorem execFullSelftestComplete_keeps {P : Part → Prop} {s00 : State} {s : State} (hk : Keeps P s00 s) (t : Twin) (pass : Bool) (q_arr : ∀ u, ¬ P (.tw u .arr)) (p_edge : ¬ P .edge) (q_flash : ∀ u, ¬ P (.tw u .flash)) (p_ilk : ¬ P .ilk) (p_net : ¬ P .net) (q_ofs : ∀ u, ¬ P (.tw u .ofs)) (q_pwr : ∀ u, ¬ P (.tw u .pwr)) (q_regs : ∀ u, ¬ P (.tw u .regs)) (p_sluice : ¬ P .sluice) (q_twn : ∀ u, ¬ P (.tw u .twn)) :
    OutKeeps P s00 (execFullSelftestComplete t pass s) := by
  unfold execFullSelftestComplete
  try extract_lets
  repeat' first
    | (cases ‹TwinField› <;> first | rfl | exact absurd ‹_› (by solve_by_elim))
    | with_reducible first | assumption | apply q_arr | apply p_edge | apply q_flash | apply p_ilk | apply p_net | apply q_ofs | apply q_pwr | apply q_regs | apply p_sluice | apply q_twn | intro _ | apply OutKeeps.next | apply OutKeeps.dite | apply modPwr_keeps | apply leaveEnd_keeps | apply modTwn_keeps | apply wf_keeps | apply enterJoining_keeps | apply withdraw_keeps | apply Keeps.dite | split | refine Keeps.setTwRegs ?_ rfl (fun k => (k.tw _).same rfl rfl rfl rfl rfl rfl rfl rfl) fun f hf => ?_ | dsimp only

theorem execDieOvertemp_keeps {P : Part → Prop} {s00 : State} {s : State} (hk : Keeps P s00 s) (t : Twin) (tdie : BitVec 16) (p_edge : ¬ P .edge) (q_flash : ¬ P (.tw t .flash)) (p_ilk : ¬ P .ilk) (p_net : ¬ P .net) (q_regs : ∀ u, ¬ P (.tw u .regs)) (q_twn : ∀ u, ¬ P (.tw u .twn)) :
    OutKeeps P s00 (execDieOvertemp t tdie s) := by
  unfold execDieOvertemp
  try extract_lets
  repeat' with_reducible first | assumption | apply p_edge | apply q_flash | apply p_ilk | apply p_net | apply q_regs | apply q_twn | intro _ | apply OutKeeps.next | apply OutKeeps.dite | apply wf_keeps | apply withdraw_keeps | apply Keeps.dite | split | dsimp only

theorem execHandoverName_keeps {P : Part → Prop} {s00 : State} {s : State} (hk : Keeps P s00 s) (th : W64) (q_twn : ∀ u, ¬ P (.tw u .twn)) :
    OutKeeps P s00 (execHandoverName th s) := by
  unfold execHandoverName
  try extract_lets
  repeat' with_reducible first | assumption | apply q_twn | intro _ | apply OutKeeps.next | apply OutKeeps.dite | apply modTwn_keeps | apply Keeps.dite | split | dsimp only

theorem saveEpoch_keeps {P : Part → Prop} {s00 : State} {s : State} (hk : Keeps P s00 s) (t : Twin) (q_flash : ¬ P (.tw t .flash)) (q_regs : ¬ P (.tw t .regs)) :
    Keeps P s00 (saveEpoch s t) := by
  unfold saveEpoch
  try extract_lets
  repeat' with_reducible first | assumption | apply q_flash | apply q_regs | intro _ | apply modFlash_keeps | apply wr_keeps | apply Keeps.dite | split | dsimp only

theorem takeEpoch_keeps {P : Part → Prop} {s00 : State} {s : State} (hk : Keeps P s00 s) (t : Twin) (q_regs : ¬ P (.tw t .regs)) (q_twn : ¬ P (.tw t .twn)) :
    Keeps P s00 (takeEpoch s t) := by
  unfold takeEpoch
  try extract_lets
  repeat' with_reducible first | assumption | apply q_regs | apply q_twn | intro _ | apply modTwn_keeps | apply wr_keeps | apply ev_keeps | apply Keeps.dite | split | dsimp only

theorem writeReserve_keeps {P : Part → Prop} {s00 : State} {s : State} (hk : Keeps P s00 s) (t : Twin) (q_flash : ∀ u, ¬ P (.tw u .flash))
    (q_regs : ∀ u, ¬ P (.tw u .regs)) :
    Keeps P s00 (writeReserve s t) := by
  unfold writeReserve
  extract_lets
  repeat' with_reducible first
    | assumption | apply q_flash | apply q_regs | intro _ | apply onBoth_keeps | apply modFlash_keeps
    | apply wr_keeps

theorem reserveCheck_keeps {P : Part → Prop} {s00 : State} {s : State} (hk : Keeps P s00 s) (t : Twin) (q_flash : ∀ u, ¬ P (.tw u .flash))
    (q_regs : ∀ u, ¬ P (.tw u .regs)) (p_sluice : ¬ P .sluice) :
    Keeps P s00 (reserveCheck s t) := by
  unfold reserveCheck
  extract_lets
  repeat' with_reducible first
    | assumption | apply q_flash | apply q_regs | apply p_sluice | intro _ | apply leaveAsk_keeps
    | apply leaveEndFor_keeps | apply writeReserve_keeps | apply Keeps.dite

theorem execHandover_keeps {P : Part → Prop} {s00 : State} {s : State} (hk : Keeps P s00 s) (replyBusy : Bool) (p_edge : ¬ P .edge) (q_flash : ∀ u, ¬ P (.tw u .flash)) (p_ilk : ¬ P .ilk) (p_net : ¬ P .net) (q_regs : ∀ u, ¬ P (.tw u .regs)) (p_sluice : ¬ P .sluice) (q_twn : ∀ u, ¬ P (.tw u .twn)) :
    OutKeeps P s00 (execHandover replyBusy s) := by
  unfold execHandover
  try extract_lets
  repeat' first
    | (cases ‹TwinField› <;> first | rfl | exact absurd ‹_› (by solve_by_elim))
    | with_reducible first | assumption | apply p_edge | apply q_flash | apply p_ilk | apply p_net | apply q_regs | apply p_sluice | apply q_twn | intro _ | apply OutKeeps.next | apply OutKeeps.dite | apply modTwn_keeps | apply setIlkReq_keeps | apply setPins_keeps | apply wf_keeps | apply takeEpoch_keeps | apply saveEpoch_keeps | apply setTwState_keeps | apply onBoth_keeps | apply ev_keeps | apply cnt_keeps | apply reserveCheck_keeps | apply withdraw_keeps | apply Keeps.dite | split | refine Keeps.setTwRegs ?_ rfl (fun k => (k.tw _).same rfl rfl rfl rfl rfl rfl rfl rfl) fun f hf => ?_ | refine Keeps.fields ?_ _ _ _ _ _ _ _ _ _ _ ?_ ?_ ?_ ?_ ?_ ?_ ?_ ?_ (fun k => k.cells) (fun k => k.ctx) | exact rfl | exact absurd ‹_› (by assumption) | dsimp only

theorem execHandoverPostpone_keeps {P : Part → Prop} {s00 : State} {s : State} (hk : Keeps P s00 s) (q_regs : ∀ u, ¬ P (.tw u .regs)) (q_twn : ∀ u, ¬ P (.tw u .twn)) :
    OutKeeps P s00 (execHandoverPostpone s) := by
  unfold execHandoverPostpone
  try extract_lets
  repeat' with_reducible first | assumption | apply q_regs | apply q_twn | intro _ | apply OutKeeps.next | apply OutKeeps.dite | apply cnt_keeps | apply modTwn_keeps | apply Keeps.dite | split | dsimp only

theorem execRotationDue_keeps {P : Part → Prop} {s00 : State} {s : State} (hk : Keeps P s00 s) (t : Twin) (q_regs : ¬ P (.tw t .regs))
    (q_twn : ¬ P (.tw t .twn)) :
    OutKeeps P s00 (execRotationDue t s) := by
  unfold execRotationDue
  extract_lets
  repeat' with_reducible first
    | assumption | apply q_regs | apply q_twn | intro _ | apply OutKeeps.next | apply OutKeeps.dite | apply wf_keeps
    | apply modTwn_keeps | apply Keeps.dite

theorem execRotateNow_keeps {P : Part → Prop} {s00 : State} {s : State} (hk : Keeps P s00 s) (t : Twin) (q_twn : ¬ P (.tw t .twn))
    :
    OutKeeps P s00 (execRotateNow t s) := by
  unfold execRotateNow
  repeat' with_reducible first
    | assumption | apply q_twn | intro _ | apply OutKeeps.next | apply OutKeeps.dite | apply modTwn_keeps
    | apply say_keeps

theorem execBackgroundSelftestSlice_keeps {P : Part → Prop} {s00 : State} {s : State} (hk : Keeps P s00 s) (t : Twin) (item : Fin 6) (corrected : W32) (uncorrectable passDone : Bool) (coverage : Fin 101) (p_edge : ¬ P .edge) (q_flash : ¬ P (.tw t .flash)) (p_ilk : ¬ P .ilk) (p_net : ¬ P .net) (q_regs : ∀ u, ¬ P (.tw u .regs)) (q_twn : ∀ u, ¬ P (.tw u .twn)) :
    OutKeeps P s00 (execBackgroundSelftestSlice t item corrected uncorrectable passDone coverage s) := by
  unfold execBackgroundSelftestSlice
  try extract_lets
  repeat' with_reducible first | assumption | apply p_edge | apply q_flash | apply p_ilk | apply p_net | apply q_regs | apply q_twn | intro _ | apply OutKeeps.next | apply OutKeeps.dite | apply cntBy_keeps | apply modTwn_keeps | apply withdraw_keeps | apply cnt_keeps | apply Keeps.dite | split | dsimp only

theorem execJoinTimeout_keeps {P : Part → Prop} {s00 : State} {s : State} (hk : Keeps P s00 s) (t : Twin) (q_regs : ¬ P (.tw t .regs))
    (q_twn : ¬ P (.tw t .twn)) :
    OutKeeps P s00 (execJoinTimeout t s) := by
  unfold execJoinTimeout
  repeat' with_reducible first
    | assumption | apply q_regs | apply q_twn | intro _ | apply OutKeeps.next | apply OutKeeps.dite
    | apply modTwn_keeps | apply ev_keeps | apply Keeps.dite

theorem execJoinRetry_keeps {P : Part → Prop} {s00 : State} {s : State} (hk : Keeps P s00 s) (t : Twin) (q_twn : ¬ P (.tw t .twn))
    :
    OutKeeps P s00 (execJoinRetry t s) := by
  unfold execJoinRetry
  repeat' with_reducible first
    | assumption | apply q_twn | intro _ | apply OutKeeps.next | apply OutKeeps.dite | apply modTwn_keeps
    | apply Keeps.dite

theorem execSoakEnd_keeps {P : Part → Prop} {s00 : State} {s : State} (hk : Keeps P s00 s) (t : Twin) (p_edge : ¬ P .edge) (q_flash : ∀ u, ¬ P (.tw u .flash)) (p_ilk : ¬ P .ilk) (p_net : ¬ P .net) (q_regs : ∀ u, ¬ P (.tw u .regs)) (q_twn : ∀ u, ¬ P (.tw u .twn)) :
    OutKeeps P s00 (execSoakEnd t s) := by
  unfold execSoakEnd
  try extract_lets
  repeat' with_reducible first | assumption | apply p_edge | apply q_flash | apply p_ilk | apply p_net | apply q_regs | apply q_twn | intro _ | apply OutKeeps.next | apply OutKeeps.dite | apply withdraw_keeps | apply Keeps.dite | split | dsimp only

theorem execUncorrectableEcc_keeps {P : Part → Prop} {s00 : State} {s : State} (hk : Keeps P s00 s) (t : Twin) (_region : Fin 4) (p_edge : ¬ P .edge) (q_flash : ¬ P (.tw t .flash)) (p_ilk : ¬ P .ilk) (p_net : ¬ P .net) (q_regs : ∀ u, ¬ P (.tw u .regs)) (q_twn : ∀ u, ¬ P (.tw u .twn)) :
    OutKeeps P s00 (execUncorrectableEcc t _region s) := by
  unfold execUncorrectableEcc
  try extract_lets
  repeat' with_reducible first | assumption | apply p_edge | apply q_flash | apply p_ilk | apply p_net | apply q_regs | apply q_twn | intro _ | apply OutKeeps.next | apply OutKeeps.dite | apply withdraw_keeps | apply cnt_keeps | apply Keeps.dite | split | dsimp only

/-! Machine/Health.lean. -/

theorem cellRecord_keeps {P : Part → Prop} {s00 : State} {s : State} (hk : Keeps P s00 s) (t : Twin) (k : Nat)
    (q_regs : ¬ P (.tw t .regs)) :
    Keeps P s00 (cellRecord t s k) := by
  unfold cellRecord
  extract_lets
  repeat' with_reducible first
    | assumption | apply q_regs | intro _ | apply wr_keeps | apply wf_keeps | apply ev_keeps | apply Keeps.dite

theorem laneRecord_keeps {P : Part → Prop} {s00 : State} {s : State} (hk : Keeps P s00 s) (t : Twin) (m : HealthMeas)
    (q_regs : ¬ P (.tw t .regs)) :
    Keeps P s00 (laneRecord s t m) := by
  unfold laneRecord
  extract_lets
  repeat' with_reducible first
    | assumption | apply q_regs | intro _ | apply wr_keeps | apply wf_keeps | apply Keeps.dite | apply Keeps.foldl
    | apply Keeps.foldl₁ | apply Keeps.foldl₂ | split

theorem gdRecord_keeps {P : Part → Prop} {s00 : State} {s : State} (hk : Keeps P s00 s) (t : Twin) (q_regs : ¬ P (.tw t .regs))
    (q_twn : ¬ P (.tw t .twn)) :
    Keeps P s00 (gdRecord s t) := by
  unfold gdRecord
  extract_lets
  repeat' with_reducible first
    | assumption | apply q_regs | apply q_twn | intro _ | apply wf_keeps | apply modTwn_keeps

theorem contactSheet_keeps {P : Part → Prop} {s00 : State} {s : State} (hk : Keeps P s00 s) (t : Twin) (m : HealthMeas) (q_regs : ¬ P (.tw t .regs)) (q_twn : ¬ P (.tw t .twn)) :
    Keeps P s00 (contactSheet s t m) := by
  unfold contactSheet
  try extract_lets
  repeat' with_reducible first | assumption | apply q_regs | apply q_twn | intro _ | apply wf_keeps | apply modTwn_keeps | apply gdRecord_keeps | apply laneRecord_keeps | apply wr_keeps | apply cellRecord_keeps | apply Keeps.dite | apply Keeps.foldl | apply Keeps.foldl₁ | apply Keeps.foldl₂ | split | dsimp only

theorem execContactSheetRefresh_keeps {P : Part → Prop} {s00 : State} {s : State} (hk : Keeps P s00 s) (t : Twin)
    (m : HealthMeas) (q_regs : ¬ P (.tw t .regs)) (q_twn : ¬ P (.tw t .twn)) :
    OutKeeps P s00 (execContactSheetRefresh t m s) := by
  unfold execContactSheetRefresh
  repeat' with_reducible first
    | assumption | apply q_regs | apply q_twn | intro _ | apply OutKeeps.next | apply OutKeeps.dite
    | apply contactSheet_keeps | apply Keeps.dite

theorem execSnap_keeps {P : Part → Prop} {s00 : State} {s : State} (hk : Keeps P s00 s) (t : Twin) (m : HealthMeas)
    (q_regs : ¬ P (.tw t .regs)) (q_twn : ¬ P (.tw t .twn)) :
    OutKeeps P s00 (execSnap t m s) := by
  unfold execSnap
  repeat' with_reducible first
    | assumption | apply q_regs | apply q_twn | intro _ | apply OutKeeps.next | apply OutKeeps.dite
    | apply contactSheet_keeps | apply say_keeps | apply Keeps.dite

end Sys2Proof.Machine
end

