-- ==== Sys2Proof/Laws/KeepPower.lean ====
section
/-! SUPPORT. What Laws/Keeps.lean says is kept by the operations of power, safety parameters, replies, Safelight and time. -/

namespace Sys2Proof.Machine

/-! Machine/Power.lean. -/

theorem resetWhole_keeps {P : Part → Prop} {s00 : State} {s : State} (hk : Keeps P s00 s) (cause : Nat) (railsUp : Bool) (q_adc : ∀ u, ¬ P (.tw u .adc)) (q_arr : ∀ u, ¬ P (.tw u .arr)) (q_can : ∀ u, ¬ P (.tw u .can)) (q_drv : ∀ u, ¬ P (.tw u .drv)) (p_edge : ¬ P .edge) (q_exps : ∀ u, ¬ P (.tw u .exps)) (q_flash : ∀ u, ¬ P (.tw u .flash)) (p_host : ¬ P .host) (p_ilk : ¬ P .ilk) (q_law : ∀ u, ¬ P (.tw u .law)) (q_neg : ∀ u, ¬ P (.tw u .neg)) (p_net : ¬ P .net) (q_net : ∀ u, ¬ P (.tw u .net)) (q_ofs : ∀ u, ¬ P (.tw u .ofs)) (p_pfail : ¬ P .pfail) (q_pwr : ∀ u, ¬ P (.tw u .pwr)) (q_queues : ∀ u, ¬ P (.tw u .queues)) (q_regs : ∀ u, ¬ P (.tw u .regs)) (q_rings : ∀ u, ¬ P (.tw u .rings)) (q_saf : ∀ u, ¬ P (.tw u .saf)) (p_sluice : ¬ P .sluice) (q_tb : ∀ u, ¬ P (.tw u .tb)) (q_tm : ∀ u, ¬ P (.tw u .tm)) (q_twn : ∀ u, ¬ P (.tw u .twn)) (q_upOld : ∀ u, ¬ P (.tw u .upOld)) (q_uplinks : ∀ u, ¬ P (.tw u .uplinks)) (q_xings : ∀ u, ¬ P (.tw u .xings)) :
    Keeps P s00 (resetWhole s cause railsUp) := by
  unfold resetWhole
  extract_lets s1 s2
  have h1 : Keeps P s00 s1 := ⟨hk.pending, hk.life, hk.free, fun k => (regsOk_iff _).2
      ⟨tabWf_filter resetWord (hk.regs k .a) _, tabWf_filter resetWord (hk.regs k .b) _⟩,
      fun k => (tabsOk_iff _).2 ⟨⟨rfl, rfl, rfl, rfl, rfl, rfl, rfl, rfl⟩, ⟨rfl, rfl, rfl, rfl, rfl, rfl, rfl, rfl⟩,
        (hk.tabs k).cells, rfl⟩, fun p hp => by
        cases p with
        | life => exact hk.same .life hp
        | tw t f => cases f <;> exact absurd hp (by solve_by_elim)
        | cells => exact hk.same .cells hp
        | overTemp => exact hk.same .overTemp hp
        | _ => exact absurd hp (by assumption)⟩
  have h2 : Keeps P s00 s2 := by
    apply afterReset_keeps
    · apply afterReset_keeps h1
      all_goals solve_by_elim
    all_goals solve_by_elim
  clear_value s2
  repeat' with_reducible first | assumption | apply q_regs | apply q_pwr | intro _ | apply onBoth_keeps | apply modPwr_keeps | apply wr_keeps | apply Keeps.dite

theorem execVinRise_keeps {P : Part → Prop} {s00 : State} {s : State} (hk : Keeps P s00 s) (q_regs : ∀ u, ¬ P (.tw u .regs)) :
    OutKeeps P s00 (execVinRise s) := by
  unfold execVinRise
  try extract_lets
  repeat' with_reducible first | assumption | apply q_regs | intro _ | apply OutKeeps.next | apply OutKeeps.dite | apply onBoth_keeps | apply wf_keeps | apply Keeps.dite | split | dsimp only

theorem execRailsGood_keeps {P : Part → Prop} {s00 : State} {s : State} (hk : Keeps P s00 s) (q_regs : ∀ u, ¬ P (.tw u .regs)) :
    OutKeeps P s00 (execRailsGood s) := by
  unfold execRailsGood
  try extract_lets
  repeat' with_reducible first | assumption | apply q_regs | intro _ | apply OutKeeps.next | apply OutKeeps.dite | apply onBoth_keeps | apply wf_keeps | apply Keeps.dite | split | dsimp only

theorem execXtalFail_keeps {P : Part → Prop} {s00 : State} {s : State} (hk : Keeps P s00 s) (t : Twin) (q_pwr : ¬ P (.tw t .pwr))
    (q_regs : ¬ P (.tw t .regs)) :
    OutKeeps P s00 (execXtalFail t s) := by
  unfold execXtalFail
  repeat' with_reducible first
    | assumption | apply q_pwr | apply q_regs | intro _ | apply OutKeeps.next | apply OutKeeps.dite
    | apply modPwr_keeps | apply wf_keeps | apply Keeps.dite

theorem execBrownOut_keeps {P : Part → Prop} {s00 : State} {s : State} (hk : Keeps P s00 s) (q_adc : ∀ u, ¬ P (.tw u .adc)) (q_arr : ∀ u, ¬ P (.tw u .arr)) (q_can : ∀ u, ¬ P (.tw u .can)) (q_drv : ∀ u, ¬ P (.tw u .drv)) (p_edge : ¬ P .edge) (q_exps : ∀ u, ¬ P (.tw u .exps)) (q_flash : ∀ u, ¬ P (.tw u .flash)) (p_host : ¬ P .host) (p_ilk : ¬ P .ilk) (q_law : ∀ u, ¬ P (.tw u .law)) (q_neg : ∀ u, ¬ P (.tw u .neg)) (p_net : ¬ P .net) (q_net : ∀ u, ¬ P (.tw u .net)) (q_ofs : ∀ u, ¬ P (.tw u .ofs)) (p_pfail : ¬ P .pfail) (q_pwr : ∀ u, ¬ P (.tw u .pwr)) (q_queues : ∀ u, ¬ P (.tw u .queues)) (q_regs : ∀ u, ¬ P (.tw u .regs)) (q_rings : ∀ u, ¬ P (.tw u .rings)) (q_saf : ∀ u, ¬ P (.tw u .saf)) (p_sluice : ¬ P .sluice) (q_tb : ∀ u, ¬ P (.tw u .tb)) (q_tm : ∀ u, ¬ P (.tw u .tm)) (q_twn : ∀ u, ¬ P (.tw u .twn)) (q_upOld : ∀ u, ¬ P (.tw u .upOld)) (q_uplinks : ∀ u, ¬ P (.tw u .uplinks)) (q_xings : ∀ u, ¬ P (.tw u .xings)) :
    OutKeeps P s00 (execBrownOut s) := by
  unfold execBrownOut
  try extract_lets
  repeat' with_reducible first | assumption | apply q_adc | apply q_arr | apply q_can | apply q_drv | apply p_edge | apply q_exps | apply q_flash | apply p_host | apply p_ilk | apply q_law | apply q_neg | apply p_net | apply q_net | apply q_ofs | apply p_pfail | apply q_pwr | apply q_queues | apply q_regs | apply q_rings | apply q_saf | apply p_sluice | apply q_tb | apply q_tm | apply q_twn | apply q_upOld | apply q_uplinks | apply q_xings | intro _ | apply OutKeeps.next | apply OutKeeps.dite | apply resetWhole_keeps | apply Keeps.dite | split | dsimp only

theorem execCoreRailFault_keeps {P : Part → Prop} {s00 : State} {s : State} (hk : Keeps P s00 s) (t : Twin) (q_adc : ¬ P (.tw t .adc)) (q_arr : ¬ P (.tw t .arr)) (q_can : ¬ P (.tw t .can)) (q_drv : ¬ P (.tw t .drv)) (p_edge : ¬ P .edge) (q_exps : ¬ P (.tw t .exps)) (q_flash : ¬ P (.tw t .flash)) (p_ilk : ¬ P .ilk) (q_law : ¬ P (.tw t .law)) (q_neg : ¬ P (.tw t .neg)) (p_net : ¬ P .net) (q_net : ¬ P (.tw t .net)) (q_ofs : ¬ P (.tw t .ofs)) (q_pwr : ¬ P (.tw t .pwr)) (q_queues : ¬ P (.tw t .queues)) (q_regs : ∀ u, ¬ P (.tw u .regs)) (q_rings : ¬ P (.tw t .rings)) (q_saf : ¬ P (.tw t .saf)) (p_sluice : ¬ P .sluice) (q_tb : ¬ P (.tw t .tb)) (q_tm : ¬ P (.tw t .tm)) (q_twn : ¬ P (.tw t .twn)) (q_upOld : ¬ P (.tw t .upOld)) (q_uplinks : ¬ P (.tw t .uplinks)) (q_xings : ¬ P (.tw t .xings)) :
    OutKeeps P s00 (execCoreRailFault t s) := by
  unfold execCoreRailFault
  try extract_lets
  repeat' first
    | (cases ‹TwinField› <;> first | rfl | exact absurd ‹_› (by solve_by_elim))
    | with_reducible first | assumption | apply q_adc | apply q_arr | apply q_can | apply q_drv | apply p_edge | apply q_exps | apply q_flash | apply p_ilk | apply q_law | apply q_neg | apply p_net | apply q_net | apply q_ofs | apply q_pwr | apply q_queues | apply q_regs | apply q_rings | apply q_saf | apply p_sluice | apply q_tb | apply q_tm | apply q_twn | apply q_upOld | apply q_uplinks | apply q_xings | intro _ | apply OutKeeps.next | apply OutKeeps.dite | apply onBoth_keeps | apply clri_keeps | apply resetTwin_keeps | apply Keeps.dite | split | refine Keeps.setTwRegs ?_ rfl (fun k => (k.tw _).same rfl rfl rfl rfl rfl rfl rfl rfl) fun f hf => ?_ | dsimp only

theorem execCoreRailWindow_keeps {P : Part → Prop} {s00 : State} {s : State} (hk : Keeps P s00 s) (t : Twin) (p_edge : ¬ P .edge) (q_flash : ¬ P (.tw t .flash)) (p_ilk : ¬ P .ilk) (p_net : ¬ P .net) (q_regs : ∀ u, ¬ P (.tw u .regs)) (q_twn : ∀ u, ¬ P (.tw u .twn)) :
    OutKeeps P s00 (execCoreRailWindow t s) := by
  unfold execCoreRailWindow
  try extract_lets
  repeat' with_reducible first | assumption | apply p_edge | apply q_flash | apply p_ilk | apply p_net | apply q_regs | apply q_twn | intro _ | apply OutKeeps.next | apply OutKeeps.dite | apply withdraw_keeps | apply onBoth_keeps | apply clri_keeps | apply Keeps.dite | split | dsimp only

theorem execVioWindow_keeps {P : Part → Prop} {s00 : State} {s : State} (hk : Keeps P s00 s) (p_edge : ¬ P .edge) (q_flash : ∀ u, ¬ P (.tw u .flash)) (p_ilk : ¬ P .ilk) (p_net : ¬ P .net) (q_regs : ∀ u, ¬ P (.tw u .regs)) (q_twn : ∀ u, ¬ P (.tw u .twn)) :
    OutKeeps P s00 (execVioWindow s) := by
  unfold execVioWindow
  try extract_lets
  repeat' with_reducible first | assumption | apply p_edge | apply q_flash | apply p_ilk | apply p_net | apply q_regs | apply q_twn | intro _ | apply OutKeeps.next | apply OutKeeps.dite | apply onBoth_keeps | apply clri_keeps | apply withdraw_keeps | apply withdrawNow_keeps | apply safeStop_keeps | apply Keeps.dite | split | dsimp only

theorem execResetN_keeps {P : Part → Prop} {s00 : State} {s : State} (hk : Keeps P s00 s) (q_adc : ∀ u, ¬ P (.tw u .adc)) (q_arr : ∀ u, ¬ P (.tw u .arr)) (q_can : ∀ u, ¬ P (.tw u .can)) (q_drv : ∀ u, ¬ P (.tw u .drv)) (p_edge : ¬ P .edge) (q_exps : ∀ u, ¬ P (.tw u .exps)) (q_flash : ∀ u, ¬ P (.tw u .flash)) (p_host : ¬ P .host) (p_ilk : ¬ P .ilk) (q_law : ∀ u, ¬ P (.tw u .law)) (q_neg : ∀ u, ¬ P (.tw u .neg)) (p_net : ¬ P .net) (q_net : ∀ u, ¬ P (.tw u .net)) (q_ofs : ∀ u, ¬ P (.tw u .ofs)) (p_pfail : ¬ P .pfail) (q_pwr : ∀ u, ¬ P (.tw u .pwr)) (q_queues : ∀ u, ¬ P (.tw u .queues)) (q_regs : ∀ u, ¬ P (.tw u .regs)) (q_rings : ∀ u, ¬ P (.tw u .rings)) (q_saf : ∀ u, ¬ P (.tw u .saf)) (p_sluice : ¬ P .sluice) (q_tb : ∀ u, ¬ P (.tw u .tb)) (q_tm : ∀ u, ¬ P (.tw u .tm)) (q_twn : ∀ u, ¬ P (.tw u .twn)) (q_upOld : ∀ u, ¬ P (.tw u .upOld)) (q_uplinks : ∀ u, ¬ P (.tw u .uplinks)) (q_xings : ∀ u, ¬ P (.tw u .xings)) :
    OutKeeps P s00 (execResetN s) := by
  unfold execResetN
  try extract_lets
  repeat' with_reducible first | assumption | apply q_adc | apply q_arr | apply q_can | apply q_drv | apply p_edge | apply q_exps | apply q_flash | apply p_host | apply p_ilk | apply q_law | apply q_neg | apply p_net | apply q_net | apply q_ofs | apply p_pfail | apply q_pwr | apply q_queues | apply q_regs | apply q_rings | apply q_saf | apply p_sluice | apply q_tb | apply q_tm | apply q_twn | apply q_upOld | apply q_uplinks | apply q_xings | intro _ | apply OutKeeps.next | apply OutKeeps.dite | apply resetWhole_keeps | apply Keeps.dite | split | dsimp only

theorem execResetTwin_keeps {P : Part → Prop} {s00 : State} {s : State} (hk : Keeps P s00 s) (t : Twin) (q_adc : ¬ P (.tw t .adc))
    (q_arr : ¬ P (.tw t .arr)) (q_can : ¬ P (.tw t .can)) (q_drv : ¬ P (.tw t .drv)) (p_edge : ¬ P .edge) (q_exps : ¬ P (.tw t .exps))
    (q_flash : ¬ P (.tw t .flash)) (p_ilk : ¬ P .ilk) (q_law : ¬ P (.tw t .law)) (q_neg : ¬ P (.tw t .neg)) (p_net : ¬ P .net)
    (q_net : ¬ P (.tw t .net)) (q_ofs : ¬ P (.tw t .ofs)) (q_pwr : ¬ P (.tw t .pwr)) (q_queues : ¬ P (.tw t .queues))
    (q_regs : ∀ u, ¬ P (.tw u .regs)) (q_rings : ¬ P (.tw t .rings)) (q_saf : ¬ P (.tw t .saf)) (p_sluice : ¬ P .sluice)
    (q_tb : ¬ P (.tw t .tb)) (q_tm : ¬ P (.tw t .tm)) (q_twn : ¬ P (.tw t .twn)) (q_upOld : ¬ P (.tw t .upOld))
    (q_uplinks : ¬ P (.tw t .uplinks)) (q_xings : ¬ P (.tw t .xings)) :
    OutKeeps P s00 (execResetTwin t s) := by
  unfold execResetTwin
  repeat' first
    | (cases ‹TwinField› <;> first | rfl | exact absurd ‹_› (by solve_by_elim))
    | with_reducible first
      | assumption | apply q_adc | apply q_arr | apply q_can | apply q_drv | apply p_edge | apply q_exps
      | apply q_flash | apply p_ilk | apply q_law | apply q_neg | apply p_net | apply q_net | apply q_ofs
      | apply q_pwr | apply q_queues | apply q_regs | apply q_rings | apply q_saf | apply p_sluice | apply q_tb
      | apply q_tm | apply q_twn | apply q_upOld | apply q_uplinks | apply q_xings | intro _ | apply OutKeeps.next
      | apply OutKeeps.dite | apply resetTwin_keeps | apply say_keeps

theorem execDebugReset_keeps {P : Part → Prop} {s00 : State} {s : State} (hk : Keeps P s00 s) (t : Twin) (q_adc : ¬ P (.tw t .adc))
    (q_arr : ¬ P (.tw t .arr)) (q_can : ¬ P (.tw t .can)) (q_drv : ¬ P (.tw t .drv)) (p_edge : ¬ P .edge) (q_exps : ¬ P (.tw t .exps))
    (q_flash : ¬ P (.tw t .flash)) (p_ilk : ¬ P .ilk) (q_law : ¬ P (.tw t .law)) (q_neg : ¬ P (.tw t .neg)) (p_net : ¬ P .net)
    (q_net : ¬ P (.tw t .net)) (q_ofs : ¬ P (.tw t .ofs)) (q_pwr : ¬ P (.tw t .pwr)) (q_queues : ¬ P (.tw t .queues))
    (q_regs : ∀ u, ¬ P (.tw u .regs)) (q_rings : ¬ P (.tw t .rings)) (q_saf : ¬ P (.tw t .saf)) (p_sluice : ¬ P .sluice)
    (q_tb : ¬ P (.tw t .tb)) (q_tm : ¬ P (.tw t .tm)) (q_twn : ¬ P (.tw t .twn)) (q_upOld : ¬ P (.tw t .upOld))
    (q_uplinks : ¬ P (.tw t .uplinks)) (q_xings : ¬ P (.tw t .xings)) :
    OutKeeps P s00 (execDebugReset t s) := by
  unfold execDebugReset
  repeat' first
    | (cases ‹TwinField› <;> first | rfl | exact absurd ‹_› (by solve_by_elim))
    | with_reducible first
      | assumption | apply q_adc | apply q_arr | apply q_can | apply q_drv | apply p_edge | apply q_exps
      | apply q_flash | apply p_ilk | apply q_law | apply q_neg | apply p_net | apply q_net | apply q_ofs
      | apply q_pwr | apply q_queues | apply q_regs | apply q_rings | apply q_saf | apply p_sluice | apply q_tb
      | apply q_tm | apply q_twn | apply q_upOld | apply q_uplinks | apply q_xings | intro _ | apply OutKeeps.next
      | apply OutKeeps.dite | apply say_keeps | apply resetTwin_keeps

theorem execMpWdt_keeps {P : Part → Prop} {s00 : State} {s : State} (hk : Keeps P s00 s) (t : Twin) (q_regs : ¬ P (.tw t .regs))
    :
    OutKeeps P s00 (execMpWdt t s) := by
  unfold execMpWdt
  repeat' with_reducible first
    | assumption | apply q_regs | intro _ | apply OutKeeps.next | apply OutKeeps.dite | apply ev_keeps
    | apply Keeps.dite

theorem execTwinResetRelease_keeps {P : Part → Prop} {s00 : State} {s : State} (hk : Keeps P s00 s) (t : Twin) (cfg : BitVec 4) (p_net : ¬ P .net) (q_pwr : ¬ P (.tw t .pwr)) (q_regs : ∀ u, ¬ P (.tw u .regs)) (q_tb : ¬ P (.tw t .tb)) (q_xings : ¬ P (.tw t .xings)) :
    OutKeeps P s00 (execTwinResetRelease t cfg s) := by
  unfold execTwinResetRelease
  try extract_lets
  repeat' first
    | (cases ‹TwinField› <;> first | rfl | exact absurd ‹_› (by solve_by_elim))
    | with_reducible first | assumption | apply p_net | apply q_pwr | apply q_regs | apply q_tb | apply q_xings | intro _ | apply OutKeeps.next | apply OutKeeps.dite | apply wf_keeps | apply evi_keeps | apply modPwr_keeps | apply setTwState_keeps | apply Keeps.dite | split | refine Keeps.setTwRegs ?_ rfl (fun k => ⟨(k.tw _).rings, (k.tw _).uplinks, (k.tw _).upOld, (k.tw _).exps, (k.tw _).can, (k.tw _).neg, rfl, (k.tw _).queues⟩) fun f hf => ?_ | dsimp only

theorem execVcoreLoop_keeps {P : Part → Prop} {s00 : State} {s : State} (hk : Keeps P s00 s) (t : Twin) (slack vin tdie : BitVec 16) (q_pwr : ¬ P (.tw t .pwr)) (q_regs : ¬ P (.tw t .regs)) :
    OutKeeps P s00 (execVcoreLoop t slack vin tdie s) := by
  unfold execVcoreLoop
  try extract_lets
  repeat' with_reducible first | assumption | apply q_pwr | apply q_regs | intro _ | apply OutKeeps.next | apply OutKeeps.dite | apply wf_keeps | apply ev_keeps | apply modPwr_keeps | apply Keeps.dite | split | dsimp only

theorem execSlackError_keeps {P : Part → Prop} {s00 : State} {s : State} (hk : Keeps P s00 s) (t : Twin) (p_edge : ¬ P .edge) (q_flash : ¬ P (.tw t .flash)) (p_ilk : ¬ P .ilk) (p_net : ¬ P .net) (q_regs : ∀ u, ¬ P (.tw u .regs)) (q_twn : ∀ u, ¬ P (.tw u .twn)) :
    OutKeeps P s00 (execSlackError t s) := by
  unfold execSlackError
  try extract_lets
  repeat' with_reducible first | assumption | apply p_edge | apply q_flash | apply p_ilk | apply p_net | apply q_regs | apply q_twn | intro _ | apply OutKeeps.next | apply OutKeeps.dite | apply withdraw_keeps | apply Keeps.dite | split | dsimp only

theorem rampRun_keeps {P : Part → Prop} {s00 : State} {s : State} (hk : Keeps P s00 s) (t : Twin) (q_pwr : ¬ P (.tw t .pwr)) (q_regs : ¬ P (.tw t .regs)) :
    Keeps P s00 (rampRun s t) := by
  unfold rampRun
  try extract_lets
  repeat' with_reducible first | assumption | apply q_pwr | apply q_regs | intro _ | apply modPwr_keeps | apply wf_keeps | apply Keeps.dite | split | dsimp only

theorem execRampStart_keeps {P : Part → Prop} {s00 : State} {s : State} (hk : Keeps P s00 s) (t : Twin) (q_pwr : ¬ P (.tw t .pwr)) (q_regs : ∀ u, ¬ P (.tw u .regs)) (p_sluice : ¬ P .sluice) :
    OutKeeps P s00 (execRampStart t s) := by
  unfold execRampStart
  try extract_lets
  repeat' with_reducible first | assumption | apply q_pwr | apply q_regs | apply p_sluice | intro _ | apply OutKeeps.next | apply OutKeeps.dite | apply say_keeps | apply rampRun_keeps | apply leaveAsk_keeps | apply Keeps.dite | split | dsimp only

theorem rampStop_keeps {P : Part → Prop} {s00 : State} {s : State} (hk : Keeps P s00 s) (t : Twin) (q_regs : ∀ u, ¬ P (.tw u .regs))
    (p_sluice : ¬ P .sluice) :
    Keeps P s00 (rampStop s t) := by
  unfold rampStop
  repeat' with_reducible first
    | assumption | apply q_regs | apply p_sluice | intro _ | apply leaveEnd_keeps | apply wf_keeps

theorem execRampAbort_keeps {P : Part → Prop} {s00 : State} {s : State} (hk : Keeps P s00 s) (t : Twin) (npts : BitVec 4) (q_regs : ∀ u, ¬ P (.tw u .regs)) (p_sluice : ¬ P .sluice) :
    OutKeeps P s00 (execRampAbort t npts s) := by
  unfold execRampAbort
  try extract_lets
  repeat' with_reducible first | assumption | apply q_regs | apply p_sluice | intro _ | apply OutKeeps.next | apply OutKeeps.dite | apply say_keeps | apply wf_keeps | apply wr_keeps | apply rampStop_keeps | apply Keeps.dite | split | dsimp only

theorem execRampEnd_keeps {P : Part → Prop} {s00 : State} {s : State} (hk : Keeps P s00 s) (t : Twin) (q_regs : ∀ u, ¬ P (.tw u .regs)) (p_sluice : ¬ P .sluice) :
    OutKeeps P s00 (execRampEnd t s) := by
  unfold execRampEnd
  try extract_lets
  repeat' with_reducible first | assumption | apply q_regs | apply p_sluice | intro _ | apply OutKeeps.next | apply OutKeeps.dite | apply wr_keeps | apply rampStop_keeps | apply Keeps.dite | split | dsimp only

theorem ratchetOne_keeps {P : Part → Prop} {s00 : State} {s : State} (hk : Keeps P s00 s) (ty : Nat) (t : Twin)
    (q_regs : ¬ P (.tw t .regs)) :
    Keeps P s00 (ratchetOne ty s t) := by
  unfold ratchetOne
  extract_lets
  repeat' with_reducible first
    | assumption | apply q_regs | intro _ | apply wr_keeps | apply wf_keeps | apply Keeps.dite

theorem execRatchet_keeps {P : Part → Prop} {s00 : State} {s : State} (hk : Keeps P s00 s) (types : BitVec 4)
    (q_regs : ∀ u, ¬ P (.tw u .regs)) :
    OutKeeps P s00 (execRatchet types s) := by
  unfold execRatchet
  extract_lets
  repeat' with_reducible first
    | assumption | apply q_regs | intro _ | apply OutKeeps.next | apply OutKeeps.dite | apply say_keeps
    | apply onBoth_keeps | apply ratchetOne_keeps | apply Keeps.dite | apply Keeps.foldl | apply Keeps.foldl₁
    | apply Keeps.foldl₂ | split

theorem execKeyRevoke_keeps {P : Part → Prop} {s00 : State} {s : State} (hk : Keeps P s00 s) (t : Twin) (owner beylos : BitVec 4)
    (q_pwr : ¬ P (.tw t .pwr)) (q_regs : ¬ P (.tw t .regs)) :
    OutKeeps P s00 (execKeyRevoke t owner beylos s) := by
  unfold execKeyRevoke
  extract_lets
  repeat' with_reducible first
    | assumption | apply q_pwr | apply q_regs | intro _ | apply OutKeeps.next | apply OutKeeps.dite
    | apply say_keeps | apply modPwr_keeps | apply wf_keeps

theorem execLifecycleLock_keeps {P : Part → Prop} {s00 : State} {s : State} (hk : Keeps P s00 s) (v : W32) (p_life : ¬ P .life)
    (q_regs : ∀ u, ¬ P (.tw u .regs)) :
    OutKeeps P s00 (execLifecycleLock v s) := by
  unfold execLifecycleLock
  split
  · refine OutKeeps.next (onBoth_keeps ?_ _ fun s t h => wf_keeps h _ _ _ (q_regs _))
    have h := say_keeps hk Rc.OK
    exact ⟨h.pending, fun _ => rfl, h.free, fun k => (regsOk_iff _).2 ((regsOk_iff _).1 (h.regs k)),
      fun k => (tabsOk_iff _).2 ((tabsOk_iff (say s Rc.OK)).1 (h.tabs k)), fun p hp => by
      cases p with
      | life => exact absurd hp p_life
      | tw t f => cases t <;> exact h.same _ hp
      | _ => exact h.same _ hp⟩
  · exact OutKeeps.next (say_keeps hk _)

theorem execDebugKeyInstall_keeps {P : Part → Prop} {s00 : State} {s : State} (hk : Keeps P s00 s) (hash : Bool)
    (slot : Fin 4) (value : BitVec 384) (q_flash : ∀ u, ¬ P (.tw u .flash)) (q_pwr : ∀ u, ¬ P (.tw u .pwr)) :
    OutKeeps P s00 (execDebugKeyInstall hash slot value s) := by
  unfold execDebugKeyInstall
  repeat' with_reducible first
    | assumption | apply q_flash | apply q_pwr | intro _ | apply OutKeeps.next | apply OutKeeps.dite
    | apply say_keeps | apply onBoth_keeps | apply modPwr_keeps | apply modFlash_keeps

/-! Machine/SafParam.lean. -/

theorem showPend_keeps {P : Part → Prop} {s00 : State} {s : State} (hk : Keeps P s00 s) (t : Twin) (q_regs : ¬ P (.tw t .regs)) :
    Keeps P s00 (showPend s t) := by
  unfold showPend
  try extract_lets
  repeat' with_reducible first | assumption | apply q_regs | intro _ | apply wf_keeps | apply wr_keeps | apply Keeps.dite | split | dsimp only

theorem setPend_keeps {P : Part → Prop} {s00 : State} {s : State} (hk : Keeps P s00 s) (t : Twin) (p : Option SafPend)
    (q_regs : ¬ P (.tw t .regs)) (q_saf : ¬ P (.tw t .saf)) :
    Keeps P s00 (setPend s t p) := by
  unfold setPend
  repeat' with_reducible first
    | assumption | apply q_regs | apply q_saf | intro _ | apply showPend_keeps | apply modSaf_keeps

theorem paramWrite_keeps {P : Part → Prop} {s00 : State} {s : State} (hk : Keeps P s00 s) (tg : Target) (h a : Nat) (v : W32) (q_regs : ∀ u, ¬ P (.tw u .regs)) (q_saf : ∀ u, ¬ P (.tw u .saf)) :
    Keeps P s00 (paramWrite s tg h a v) := by
  unfold paramWrite
  try extract_lets
  repeat' with_reducible first | assumption | apply q_regs | apply q_saf | intro _ | apply say_keeps | apply onBoth_keeps | apply setPend_keeps | apply freeTick_keeps | apply Keeps.dite | split | dsimp only

theorem execSafetyParamWrite_keeps {P : Part → Prop} {s00 : State} {s : State} (hk : Keeps P s00 s) (tg : Target)
    (h : Fin 4) (addr v : W32) (q_regs : ∀ u, ¬ P (.tw u .regs)) (q_saf : ∀ u, ¬ P (.tw u .saf)) :
    OutKeeps P s00 (execSafetyParamWrite tg h addr v s) := by
  unfold execSafetyParamWrite
  repeat' with_reducible first
    | assumption | apply q_regs | apply q_saf | intro _ | apply OutKeeps.next | apply OutKeeps.dite
    | apply paramWrite_keeps

theorem lockSide_keeps {P : Part → Prop} {s00 : State} {s : State} (hk : Keeps P s00 s) (t : Twin) (p_edge : ¬ P .edge) (q_regs : ∀ u, ¬ P (.tw u .regs)) (q_saf : ¬ P (.tw t .saf)) :
    Keeps P s00 (lockSide s t) := by
  unfold lockSide
  try extract_lets
  repeat' with_reducible first | assumption | apply p_edge | apply q_regs | apply q_saf | intro _ | apply wf_keeps | apply sideOutputs_keeps | apply wr_keeps | apply Keeps.dite | split | dsimp only

theorem autoLock_keeps {P : Part → Prop} {s00 : State} {s : State} (hk : Keeps P s00 s) (p_edge : ¬ P .edge) (q_regs : ∀ u, ¬ P (.tw u .regs)) (q_saf : ∀ u, ¬ P (.tw u .saf)) :
    Keeps P s00 (autoLock s) := by
  unfold autoLock
  try extract_lets
  repeat' with_reducible first | assumption | apply p_edge | apply q_regs | apply q_saf | intro _ | apply onBoth_keeps | apply lockSide_keeps | apply Keeps.dite | split | dsimp only

theorem paramDevelop_keeps {P : Part → Prop} {s00 : State} {s : State} (hk : Keeps P s00 s) (p : SafPend) (p_edge : ¬ P .edge) (q_regs : ∀ u, ¬ P (.tw u .regs)) (q_saf : ∀ u, ¬ P (.tw u .saf)) :
    Keeps P s00 (paramDevelop s p) := by
  unfold paramDevelop
  dsimp only
  repeat' with_reducible first | assumption | apply p_edge | apply q_regs | apply q_saf | intro _ | apply wr_keeps | apply sideOutputs_keeps | apply say_keeps | apply onBoth_keeps | apply lockSide_keeps | apply autoLock_keeps | apply Keeps.dite | apply Keeps.foldl | apply Keeps.foldl₁ | apply Keeps.foldl₂ | split | dsimp only

theorem dropPend_keeps {P : Part → Prop} {s00 : State} {s : State} (hk : Keeps P s00 s) (p : SafPend) (q_regs : ∀ u, ¬ P (.tw u .regs))
    (q_saf : ∀ u, ¬ P (.tw u .saf)) :
    Keeps P s00 (dropPend s p) := by
  unfold dropPend
  repeat' with_reducible first
    | assumption | apply q_regs | apply q_saf | intro _ | apply onBoth_keeps | apply setPend_keeps
    | apply Keeps.dite

theorem safetyConfirm_keeps {P : Part → Prop} {s00 : State} {s : State} (hk : Keeps P s00 s) (h code : Nat)
    (p_edge : ¬ P .edge) (q_regs : ∀ u, ¬ P (.tw u .regs)) (q_saf : ∀ u, ¬ P (.tw u .saf)) :
    Keeps P s00 (safetyConfirm s h code) := by
  unfold safetyConfirm
  repeat' with_reducible first
    | assumption | apply p_edge | apply q_regs | apply q_saf | intro _ | apply say_keeps | apply dropPend_keeps
    | apply ev_keeps | apply paramDevelop_keeps | apply Keeps.dite | apply Keeps.foldl | apply Keeps.foldl₁
    | apply Keeps.foldl₂ | split

theorem execSafetyConfirm_keeps {P : Part → Prop} {s00 : State} {s : State} (hk : Keeps P s00 s) (h : Fin 4) (code : BitVec 16)
    (p_edge : ¬ P .edge) (q_regs : ∀ u, ¬ P (.tw u .regs)) (q_saf : ∀ u, ¬ P (.tw u .saf)) :
    OutKeeps P s00 (execSafetyConfirm h code s) := by
  unfold execSafetyConfirm
  repeat' with_reducible first
    | assumption | apply p_edge | apply q_regs | apply q_saf | intro _ | apply OutKeeps.next | apply OutKeeps.dite
    | apply safetyConfirm_keeps

theorem execConfTimeout_keeps {P : Part → Prop} {s00 : State} {s : State} (hk : Keeps P s00 s) (t : Twin) (q_regs : ∀ u, ¬ P (.tw u .regs)) (q_saf : ∀ u, ¬ P (.tw u .saf)) :
    OutKeeps P s00 (execConfTimeout t s) := by
  unfold execConfTimeout
  try extract_lets
  repeat' with_reducible first | assumption | apply q_regs | apply q_saf | intro _ | apply OutKeeps.next | apply OutKeeps.dite | apply ev_keeps | apply dropPend_keeps | apply Keeps.dite | apply Keeps.foldl | apply Keeps.foldl₁ | apply Keeps.foldl₂ | split | dsimp only

theorem execSafetyParamLoad_keeps {P : Part → Prop} {s00 : State} {s : State} (hk : Keeps P s00 s) (t : Twin) (p_edge : ¬ P .edge) (q_regs : ∀ u, ¬ P (.tw u .regs)) (q_saf : ∀ u, ¬ P (.tw u .saf)) :
    OutKeeps P s00 (execSafetyParamLoad t s) := by
  unfold execSafetyParamLoad
  try extract_lets
  repeat' with_reducible first | assumption | apply p_edge | apply q_regs | apply q_saf | intro _ | apply OutKeeps.next | apply OutKeeps.dite | apply wr_keeps | apply modSaf_keeps | apply autoLock_keeps | apply Keeps.dite | apply Keeps.foldl | apply Keeps.foldl₁ | apply Keeps.foldl₂ | split | dsimp only

/-! Machine/Reply.lean. -/

theorem modHost_keeps {P : Part → Prop} {s00 : State} {s : State} (hk : Keeps P s00 s) (f : HostSt → HostSt)
    (hf : tabWf (fun _ => ({} : CtxSt)) s.host.ctx = true → tabWf (fun _ => ({} : CtxSt)) (f s.host).ctx = true)
    (p_host : ¬ P .host) :
    Keeps P s00 (modHost s f) := by
  unfold modHost
  repeat' with_reducible first
    | assumption | apply p_host | intro _ | apply Keeps.dite | split
    | refine Keeps.fields ?_ _ _ _ _ _ _ _ _ _ _ ?_ ?_ ?_ ?_ ?_ ?_ ?_ ?_ (fun k => k.cells) (fun k => hf k.ctx) | exact rfl
    | exact absurd ‹_› (by assumption)

theorem modCtx_keeps {P : Part → Prop} {s00 : State} {s : State} (hk : Keeps P s00 s) (h : Nat) (f : CtxSt → CtxSt)
    (p_host : ¬ P .host) :
    Keeps P s00 (modCtx s h f) := by
  unfold modCtx
  exact modHost_keeps hk _ (fun k => tabWf_tabMod {} k h f) p_host

theorem hostEv_keeps {P : Part → Prop} {s00 : State} {s : State} (hk : Keeps P s00 s) (f : Fld) (h : Nat) (q_regs : ∀ u, ¬ P (.tw u .regs))
    :
    Keeps P s00 (hostEv s f h) := by
  unfold hostEv
  repeat' with_reducible first | assumption | apply q_regs | intro _ | apply onLive_keeps | apply ev_keeps

theorem hostCnt_keeps {P : Part → Prop} {s00 : State} {s : State} (hk : Keeps P s00 s) (a h : Nat) (q_regs : ∀ u, ¬ P (.tw u .regs))
    :
    Keeps P s00 (hostCnt s a h) := by
  unfold hostCnt
  repeat' with_reducible first | assumption | apply q_regs | intro _ | apply onLive_keeps | apply cnt_keeps

theorem showCtx_keeps {P : Part → Prop} {s00 : State} {s : State} (hk : Keeps P s00 s) (h : Nat) (q_regs : ∀ u, ¬ P (.tw u .regs))
    :
    Keeps P s00 (showCtx s h) := by
  unfold showCtx
  extract_lets
  repeat' with_reducible first | assumption | apply q_regs | intro _ | apply onLive_keeps | apply wf_keeps

theorem emit_keeps {P : Part → Prop} {s00 : State} {s : State} (hk : Keeps P s00 s) (via : Option Transport) (ip : W32) (port h : Nat) (r : Reply) (q_can : ∀ u, ¬ P (.tw u .can)) (p_host : ¬ P .host) (p_net : ¬ P .net) (q_net : ∀ u, ¬ P (.tw u .net)) (q_regs : ∀ u, ¬ P (.tw u .regs)) (q_xings : ∀ u, ¬ P (.tw u .xings)) :
    Keeps P s00 (emit s via ip port h r) := by
  unfold emit
  try extract_lets
  repeat' with_reducible first | assumption | apply q_can | apply p_host | apply p_net | apply q_net | apply q_regs | apply q_xings | intro _ | apply sendLead_keeps | apply modHost_keeps | apply onComputing_keeps | apply isoReply_keeps | exact id | apply Keeps.dite | split | dsimp only

theorem replyWith_keeps {P : Part → Prop} {s00 : State} {s : State} (hk : Keeps P s00 s) (key : BitVec 256) (q : Queued) (code : Nat) (busy : Bool) (data : List Byte) (q_can : ∀ u, ¬ P (.tw u .can)) (p_host : ¬ P .host) (p_net : ¬ P .net) (q_net : ∀ u, ¬ P (.tw u .net)) (q_regs : ∀ u, ¬ P (.tw u .regs)) (q_xings : ∀ u, ¬ P (.tw u .xings)) :
    Keeps P s00 (replyWith key s q code busy data) := by
  unfold replyWith
  try extract_lets
  repeat' with_reducible first | assumption | apply q_can | apply p_host | apply p_net | apply q_net | apply q_regs | apply q_xings | intro _ | apply reply_keeps | apply modCtx_keeps | apply modHost_keeps | apply say_keeps | apply showCtx_keeps | apply emit_keeps | exact id | apply Keeps.dite | split | dsimp only

theorem reply_keeps {P : Part → Prop} {s00 : State} {s : State} (hk : Keeps P s00 s) (q : Queued) (code : Nat) (data : List Byte) (q_can : ∀ u, ¬ P (.tw u .can)) (p_host : ¬ P .host) (p_net : ¬ P .net) (q_net : ∀ u, ¬ P (.tw u .net)) (q_regs : ∀ u, ¬ P (.tw u .regs)) (q_xings : ∀ u, ¬ P (.tw u .xings)) :
    Keeps P s00 (reply s q code data) := by
  unfold reply
  try extract_lets
  repeat' with_reducible first | assumption | apply q_can | apply p_host | apply p_net | apply q_net | apply q_regs | apply q_xings | intro _ | apply replyWith_keeps | apply Keeps.dite | split | dsimp only

theorem setOwner_keeps {P : Part → Prop} {s00 : State} {s : State} (hk : Keeps P s00 s) (g : Nat) (h : Option Nat)
    (q_regs : ∀ u, ¬ P (.tw u .regs)) :
    Keeps P s00 (setOwner s g h) := by
  unfold setOwner
  repeat' with_reducible first | assumption | apply q_regs | intro _ | apply onLive_keeps | apply wf_keeps

theorem dropChange_keeps {P : Part → Prop} {s00 : State} {s : State} (hk : Keeps P s00 s) (c : Change) (q_can : ∀ u, ¬ P (.tw u .can)) (p_host : ¬ P .host) (p_net : ¬ P .net) (q_net : ∀ u, ¬ P (.tw u .net)) (q_regs : ∀ u, ¬ P (.tw u .regs)) (q_xings : ∀ u, ¬ P (.tw u .xings)) :
    Keeps P s00 (dropChange s c) := by
  unfold dropChange
  try extract_lets
  repeat' with_reducible first | assumption | apply q_can | apply p_host | apply p_net | apply q_net | apply q_regs | apply q_xings | intro _ | apply modHost_keeps | apply showCtx_keeps | apply reply_keeps | exact id | apply Keeps.dite | split | dsimp only

theorem loseGroups_keeps {P : Part → Prop} {s00 : State} {s : State} (hk : Keeps P s00 s) (h groups : Nat) (q_can : ∀ u, ¬ P (.tw u .can)) (p_host : ¬ P .host) (p_net : ¬ P .net) (q_net : ∀ u, ¬ P (.tw u .net)) (q_regs : ∀ u, ¬ P (.tw u .regs)) (q_xings : ∀ u, ¬ P (.tw u .xings)) :
    Keeps P s00 (loseGroups s h groups) := by
  unfold loseGroups
  try extract_lets
  repeat' with_reducible first | assumption | apply q_can | apply p_host | apply p_net | apply q_net | apply q_regs | apply q_xings | intro _ | apply hostEv_keeps | apply showCtx_keeps | apply dropChange_keeps | apply Keeps.dite | apply Keeps.foldl | apply Keeps.foldl₁ | apply Keeps.foldl₂ | split | dsimp only

theorem lapse_keeps {P : Part → Prop} {s00 : State} {s : State} (hk : Keeps P s00 s) (h : Nat) (q_can : ∀ u, ¬ P (.tw u .can)) (p_host : ¬ P .host) (p_net : ¬ P .net) (q_net : ∀ u, ¬ P (.tw u .net)) (q_regs : ∀ u, ¬ P (.tw u .regs)) (q_xings : ∀ u, ¬ P (.tw u .xings)) :
    Keeps P s00 (lapse s h) := by
  unfold lapse
  try extract_lets
  repeat' with_reducible first | assumption | apply q_can | apply p_host | apply p_net | apply q_net | apply q_regs | apply q_xings | intro _ | apply loseGroups_keeps | apply setOwner_keeps | apply Keeps.dite | apply Keeps.foldl | apply Keeps.foldl₁ | apply Keeps.foldl₂ | split | dsimp only

/-! Machine/Safelight.lean. -/

theorem showSafelight_keeps {P : Part → Prop} {s00 : State} {s : State} (hk : Keeps P s00 s) (v : Bool) (q_regs : ∀ u, ¬ P (.tw u .regs)) :
    Keeps P s00 (showSafelight s v) := by
  unfold showSafelight
  try extract_lets
  repeat' with_reducible first | assumption | apply q_regs | intro _ | apply onLive_keeps | apply wf_keeps | apply Keeps.dite | split | dsimp only

theorem safelightEnter_keeps {P : Part → Prop} {s00 : State} {s : State} (hk : Keeps P s00 s) (p_edge : ¬ P .edge)
    (q_regs : ∀ u, ¬ P (.tw u .regs)) :
    Keeps P s00 (safelightEnter s) := by
  unfold safelightEnter
  repeat' with_reducible first
    | assumption | apply p_edge | apply q_regs | intro _ | apply say_keeps | apply bridgeStop_keeps
    | apply settleAll_keeps | apply showSafelight_keeps | apply Keeps.dite

theorem safelightExit_keeps {P : Part → Prop} {s00 : State} {s : State} (hk : Keeps P s00 s) (p_edge : ¬ P .edge) (q_regs : ∀ u, ¬ P (.tw u .regs)) :
    Keeps P s00 (safelightExit s) := by
  unfold safelightExit
  try extract_lets
  repeat' with_reducible first | assumption | apply p_edge | apply q_regs | intro _ | apply say_keeps | apply showSafelight_keeps | apply waitAll_keeps | apply onBoth_keeps | apply wf_keeps | apply Keeps.dite | split | dsimp only

theorem execSafelightEnter_keeps {P : Part → Prop} {s00 : State} {s : State} (hk : Keeps P s00 s) (p_edge : ¬ P .edge)
    (q_regs : ∀ u, ¬ P (.tw u .regs)) :
    OutKeeps P s00 (execSafelightEnter s) := by
  unfold execSafelightEnter
  repeat' with_reducible first
    | assumption | apply p_edge | apply q_regs | intro _ | apply OutKeeps.next | apply OutKeeps.dite
    | apply safelightEnter_keeps

theorem execSafelightExit_keeps {P : Part → Prop} {s00 : State} {s : State} (hk : Keeps P s00 s) (p_edge : ¬ P .edge)
    (q_regs : ∀ u, ¬ P (.tw u .regs)) :
    OutKeeps P s00 (execSafelightExit s) := by
  unfold execSafelightExit
  repeat' with_reducible first
    | assumption | apply p_edge | apply q_regs | intro _ | apply OutKeeps.next | apply OutKeeps.dite
    | apply safelightExit_keeps

/-! Machine/Time.lean. -/

theorem modTm_keeps {P : Part → Prop} {s00 : State} {s : State} (hk : Keeps P s00 s) (t : Twin) (f : TimeSt → TimeSt)
    (q_tm : ¬ P (.tw t .tm)) :
    Keeps P s00 (modTm s t f) := by
  unfold modTm
  repeat' first
    | (cases ‹TwinField› <;> first | rfl | exact absurd ‹_› (by solve_by_elim))
    | with_reducible first
      | assumption | apply q_tm | intro _ | apply Keeps.dite | split | refine Keeps.setTwRegs ?_ rfl (fun k => (k.tw _).same rfl rfl rfl rfl rfl rfl rfl rfl) fun f hf => ?_

theorem modTms_keeps {P : Part → Prop} {s00 : State} {s : State} (hk : Keeps P s00 s) (f : TimeSt → TimeSt) (q_tm : ∀ u, ¬ P (.tw u .tm))
    :
    Keeps P s00 (modTms s f) := by
  unfold modTms
  repeat' with_reducible first | assumption | apply q_tm | intro _ | apply onComputing_keeps | apply modTm_keeps

theorem execRateChange_keeps {P : Part → Prop} {s00 : State} {s : State} (hk : Keeps P s00 s) (t : Twin) (q_ofs : ¬ P (.tw t .ofs))
    (q_regs : ¬ P (.tw t .regs)) (q_tm : ¬ P (.tw t .tm)) :
    OutKeeps P s00 (execRateChange t s) := by
  unfold execRateChange
  repeat' with_reducible first
    | assumption | apply q_ofs | apply q_regs | apply q_tm | intro _ | apply OutKeeps.next | apply OutKeeps.dite
    | apply modTm_keeps | apply setRate_keeps | apply Keeps.dite | split

theorem stepBy_keeps {P : Part → Prop} {s00 : State} {s : State} (hk : Keeps P s00 s) (e : Int) (q_ofs : ∀ u, ¬ P (.tw u .ofs))
    (q_regs : ∀ u, ¬ P (.tw u .regs)) :
    Keeps P s00 (stepBy s e) := by
  unfold stepBy
  repeat' first
    | (cases ‹TwinField› <;> first | rfl | exact absurd ‹_› (by solve_by_elim))
    | with_reducible first
      | assumption | apply q_ofs | apply q_regs | intro _ | apply onComputing_keeps | apply ev_keeps
      | apply Keeps.dite | split | refine Keeps.setTwRegs ?_ rfl (fun k => (k.tw _).same rfl rfl rfl rfl rfl rfl rfl rfl) fun f hf => ?_

theorem execTwinTimeAlign_keeps {P : Part → Prop} {s00 : State} {s : State} (hk : Keeps P s00 s) (resid : Fin 19)
    (q_ofs : ∀ u, ¬ P (.tw u .ofs)) (q_regs : ∀ u, ¬ P (.tw u .regs)) (q_tm : ∀ u, ¬ P (.tw u .tm)) :
    OutKeeps P s00 (execTwinTimeAlign resid s) := by
  unfold execTwinTimeAlign
  repeat' first
    | (cases ‹TwinField› <;> first | rfl | exact absurd ‹_› (by solve_by_elim))
    | with_reducible first
      | assumption | apply q_ofs | apply q_regs | apply q_tm | intro _ | apply OutKeeps.next | apply OutKeeps.dite
      | apply wr_keeps | apply setRate_keeps | apply modTm_keeps | apply Keeps.dite | apply Keeps.foldl
      | apply Keeps.foldl₁ | apply Keeps.foldl₂ | split | refine Keeps.setTwRegs ?_ rfl (fun k => (k.tw _).same rfl rfl rfl rfl rfl rfl rfl rfl) fun f hf => ?_

theorem execTwinAlign_keeps {P : Part → Prop} {s00 : State} {s : State} (hk : Keeps P s00 s) (t : Twin) (diff : W32)
    (q_regs : ¬ P (.tw t .regs)) :
    OutKeeps P s00 (execTwinAlign t diff s) := by
  unfold execTwinAlign
  extract_lets
  repeat' with_reducible first
    | assumption | apply q_regs | intro _ | apply OutKeeps.next | apply OutKeeps.dite | apply wr_keeps
    | apply ev_keeps | apply Keeps.dite

theorem timeStep_keeps {P : Part → Prop} {s00 : State} {s : State} (hk : Keeps P s00 s) (q_ofs : ∀ u, ¬ P (.tw u .ofs))
    (q_regs : ∀ u, ¬ P (.tw u .regs)) :
    Keeps P s00 (timeStep s) := by
  unfold timeStep
  repeat' first
    | (cases ‹TwinField› <;> first | rfl | exact absurd ‹_› (by solve_by_elim))
    | with_reducible first
      | assumption | apply q_ofs | apply q_regs | intro _ | apply onComputing_keeps | apply ev_keeps
      | apply say_keeps | apply Keeps.dite | split | refine Keeps.setTwRegs ?_ rfl (fun k => (k.tw _).same rfl rfl rfl rfl rfl rfl rfl rfl) fun f hf => ?_

theorem execStep_keeps {P : Part → Prop} {s00 : State} {s : State} (hk : Keeps P s00 s) (tg : Target) (q_ofs : ∀ u, ¬ P (.tw u .ofs))
    (q_regs : ∀ u, ¬ P (.tw u .regs)) :
    OutKeeps P s00 (execStep tg s) := by
  unfold execStep
  repeat' with_reducible first
    | assumption | apply q_ofs | apply q_regs | intro _ | apply OutKeeps.next | apply OutKeeps.dite
    | apply agreedOnly_keeps | apply timeStep_keeps

theorem timeSnap_keeps {P : Part → Prop} {s00 : State} {s : State} (hk : Keeps P s00 s) (t : Twin) (q_regs : ¬ P (.tw t .regs))
    :
    Keeps P s00 (timeSnap s t) := by
  unfold timeSnap
  extract_lets
  repeat' with_reducible first | assumption | apply q_regs | intro _ | apply wr_keeps | apply wf_keeps

theorem execTimeSnap_keeps {P : Part → Prop} {s00 : State} {s : State} (hk : Keeps P s00 s) (t : Twin) (q_regs : ¬ P (.tw t .regs))
    :
    OutKeeps P s00 (execTimeSnap t s) := by
  unfold execTimeSnap
  repeat' with_reducible first
    | assumption | apply q_regs | intro _ | apply OutKeeps.next | apply OutKeeps.dite | apply timeSnap_keeps
    | apply say_keeps

theorem setClk_keeps {P : Part → Prop} {s00 : State} {s : State} (hk : Keeps P s00 s) (st : Nat) (q_regs : ∀ u, ¬ P (.tw u .regs))
    :
    Keeps P s00 (setClk s st) := by
  unfold setClk
  repeat' with_reducible first | assumption | apply q_regs | intro _ | apply onComputing_keeps | apply wf_keeps

theorem clkEvent_keeps {P : Part → Prop} {s00 : State} {s : State} (hk : Keeps P s00 s) (f : Fld) (q_regs : ∀ u, ¬ P (.tw u .regs))
    :
    Keeps P s00 (clkEvent s f) := by
  unfold clkEvent
  repeat' with_reducible first | assumption | apply q_regs | intro _ | apply onComputing_keeps | apply ev_keeps

theorem servo_keeps {P : Part → Prop} {s00 : State} {s : State} (hk : Keeps P s00 s) (t : Twin) (e whole : Int)
    (q_ofs : ∀ u, ¬ P (.tw u .ofs)) (q_regs : ∀ u, ¬ P (.tw u .regs)) (q_tm : ∀ u, ¬ P (.tw u .tm)) :
    Keeps P s00 (servo s t e whole) := by
  unfold servo
  extract_lets
  repeat' with_reducible first
    | assumption | apply q_ofs | apply q_regs | apply q_tm | intro _ | apply onComputing_keeps | apply wr_keeps
    | apply setClk_keeps | apply modTms_keeps | apply stepBy_keeps | apply clkEvent_keeps | apply Keeps.dite

theorem holdover_keeps {P : Part → Prop} {s00 : State} {s : State} (hk : Keeps P s00 s) (q_regs : ∀ u, ¬ P (.tw u .regs))
    (q_tm : ∀ u, ¬ P (.tw u .tm)) :
    Keeps P s00 (holdover s) := by
  unfold holdover
  extract_lets
  repeat' with_reducible first
    | assumption | apply q_regs | apply q_tm | intro _ | apply modTms_keeps | apply clkEvent_keeps
    | apply setClk_keeps | apply Keeps.dite

theorem showGm_keeps {P : Part → Prop} {s00 : State} {s : State} (hk : Keeps P s00 s) (id : W64) (q_regs : ∀ u, ¬ P (.tw u .regs))
    :
    Keeps P s00 (showGm s id) := by
  unfold showGm
  extract_lets
  repeat' with_reducible first
    | assumption | apply q_regs | intro _ | apply onComputing_keeps | apply ev_keeps | apply wr_keeps
    | apply Keeps.dite

theorem showUtc_keeps {P : Part → Prop} {s00 : State} {s : State} (hk : Keeps P s00 s) (m : Announce) (q_regs : ∀ u, ¬ P (.tw u .regs))
    :
    Keeps P s00 (showUtc s m) := by
  unfold showUtc
  repeat' with_reducible first
    | assumption | apply q_regs | intro _ | apply onComputing_keeps | apply wf_keeps | apply ev_keeps
    | apply Keeps.dite

theorem selectMaster_keeps {P : Part → Prop} {s00 : State} {s : State} (hk : Keeps P s00 s) (timeout : Bool) (q_regs : ∀ u, ¬ P (.tw u .regs)) (q_tm : ∀ u, ¬ P (.tw u .tm)) :
    Keeps P s00 (selectMaster s timeout) := by
  unfold selectMaster
  try extract_lets
  repeat' with_reducible first | assumption | apply q_regs | apply q_tm | intro _ | apply onComputing_keeps | apply wf_keeps | apply modTms_keeps | apply showGm_keeps | apply wr_keeps | apply showUtc_keeps | apply Keeps.dite | split | dsimp only

theorem execPtpAnnounceReceive_keeps {P : Part → Prop} {s00 : State} {s : State} (hk : Keeps P s00 s) (lan : Fin 2) (m : Announce) (q_regs : ∀ u, ¬ P (.tw u .regs)) (q_tm : ∀ u, ¬ P (.tw u .tm)) (q_xings : ∀ u, ¬ P (.tw u .xings)) :
    OutKeeps P s00 (execPtpAnnounceReceive lan m s) := by
  unfold execPtpAnnounceReceive
  try extract_lets
  repeat' with_reducible first | assumption | apply q_regs | apply q_tm | apply q_xings | intro _ | apply OutKeeps.next | apply OutKeeps.dite | apply lanIn_keeps | apply cnt_keeps | apply modTms_keeps | apply selectMaster_keeps | apply Keeps.dite | split | dsimp only

theorem takeSync_keeps {P : Part → Prop} {s00 : State} {s : State} (hk : Keeps P s00 s) (lan : Nat) (t : Twin)
    (master stamp : Int) (q_ofs : ∀ u, ¬ P (.tw u .ofs)) (q_regs : ∀ u, ¬ P (.tw u .regs)) (q_tm : ∀ u, ¬ P (.tw u .tm))
    :
    Keeps P s00 (takeSync s lan t master stamp) := by
  unfold takeSync
  extract_lets
  repeat' with_reducible first
    | assumption | apply q_ofs | apply q_regs | apply q_tm | intro _ | apply servo_keeps | apply Keeps.dite

theorem execPtpSyncReceive_keeps {P : Part → Prop} {s00 : State} {s : State} (hk : Keeps P s00 s) (lan : Fin 2) (m : PtpMsg) (q_ofs : ∀ u, ¬ P (.tw u .ofs)) (q_regs : ∀ u, ¬ P (.tw u .regs)) (q_tm : ∀ u, ¬ P (.tw u .tm)) (q_xings : ∀ u, ¬ P (.tw u .xings)) :
    OutKeeps P s00 (execPtpSyncReceive lan m s) := by
  unfold execPtpSyncReceive
  try extract_lets
  repeat' with_reducible first | assumption | apply q_ofs | apply q_regs | apply q_tm | apply q_xings | intro _ | apply OutKeeps.next | apply OutKeeps.dite | apply lanIn_keeps | apply cnt_keeps | apply modTms_keeps | apply takeSync_keeps | apply Keeps.dite | split | dsimp only

theorem modPd_keeps {P : Part → Prop} {s00 : State} {s : State} (hk : Keeps P s00 s) (p : Nat) (f : PdelaySt → PdelaySt)
    (q_tm : ∀ u, ¬ P (.tw u .tm)) :
    Keeps P s00 (modPd s p f) := by
  unfold modPd
  repeat' with_reducible first | assumption | apply q_tm | intro _ | apply modTm_keeps

theorem newDelay_keeps {P : Part → Prop} {s00 : State} {s : State} (hk : Keeps P s00 s) (p : Nat) (d : Int)
    (q_regs : ∀ u, ¬ P (.tw u .regs)) (q_tm : ∀ u, ¬ P (.tw u .tm)) :
    Keeps P s00 (newDelay s p d) := by
  unfold newDelay
  extract_lets
  repeat' with_reducible first
    | assumption | apply q_regs | apply q_tm | intro _ | apply modPd_keeps | apply onComputing_keeps
    | apply wr_keeps | apply Keeps.dite | split

theorem execFollowUpReceive_keeps {P : Part → Prop} {s00 : State} {s : State} (hk : Keeps P s00 s) (pdelay : Bool) (p : Fin 4) (m : PtpMsg) (q_ofs : ∀ u, ¬ P (.tw u .ofs)) (q_regs : ∀ u, ¬ P (.tw u .regs)) (q_tm : ∀ u, ¬ P (.tw u .tm)) (q_xings : ∀ u, ¬ P (.tw u .xings)) :
    OutKeeps P s00 (execFollowUpReceive pdelay p m s) := by
  unfold execFollowUpReceive
  try extract_lets
  repeat' with_reducible first | assumption | apply q_ofs | apply q_regs | apply q_tm | apply q_xings | intro _ | apply OutKeeps.next | apply OutKeeps.dite | apply crossIn_keeps | apply newDelay_keeps | apply takeSync_keeps | apply modTms_keeps | apply Keeps.dite | split | dsimp only

theorem execPdelayReqSend_keeps {P : Part → Prop} {s00 : State} {s : State} (hk : Keeps P s00 s) (p : Fin 4) (p_net : ¬ P .net) (q_regs : ∀ u, ¬ P (.tw u .regs)) (q_tm : ∀ u, ¬ P (.tw u .tm)) (q_xings : ∀ u, ¬ P (.tw u .xings)) :
    OutKeeps P s00 (execPdelayReqSend p s) := by
  unfold execPdelayReqSend
  try extract_lets
  repeat' with_reducible first | assumption | apply p_net | apply q_regs | apply q_tm | apply q_xings | intro _ | apply OutKeeps.next | apply OutKeeps.dite | apply modPd_keeps | apply transmit_keeps | apply Keeps.dite | split | dsimp only

theorem execPdelayReqReceive_keeps {P : Part → Prop} {s00 : State} {s : State} (hk : Keeps P s00 s) (p : Fin 4) (req : PdelayReq) (turn : Nat) (p_net : ¬ P .net) (q_regs : ∀ u, ¬ P (.tw u .regs)) (q_xings : ∀ u, ¬ P (.tw u .xings)) :
    OutKeeps P s00 (execPdelayReqReceive p req turn s) := by
  unfold execPdelayReqReceive
  try extract_lets
  repeat' with_reducible first | assumption | apply p_net | apply q_regs | apply q_xings | intro _ | apply OutKeeps.next | apply OutKeeps.dite | apply crossIn_keeps | apply transmit_keeps | apply Keeps.dite | split | dsimp only

theorem execPdelayRespReceive_keeps {P : Part → Prop} {s00 : State} {s : State} (hk : Keeps P s00 s) (p : Fin 4) (m : PtpMsg) (q_regs : ∀ u, ¬ P (.tw u .regs)) (q_tm : ∀ u, ¬ P (.tw u .tm)) (q_xings : ∀ u, ¬ P (.tw u .xings)) :
    OutKeeps P s00 (execPdelayRespReceive p m s) := by
  unfold execPdelayRespReceive
  try extract_lets
  repeat' with_reducible first | assumption | apply q_regs | apply q_tm | apply q_xings | intro _ | apply OutKeeps.next | apply OutKeeps.dite | apply crossIn_keeps | apply modPd_keeps | apply newDelay_keeps | apply Keeps.dite | split | dsimp only

theorem execPdelayTimeout_keeps {P : Part → Prop} {s00 : State} {s : State} (hk : Keeps P s00 s) (p : Fin 4) (q_regs : ∀ u, ¬ P (.tw u .regs)) (q_tm : ∀ u, ¬ P (.tw u .tm)) :
    OutKeeps P s00 (execPdelayTimeout p s) := by
  unfold execPdelayTimeout
  try extract_lets
  repeat' with_reducible first | assumption | apply q_regs | apply q_tm | intro _ | apply OutKeeps.next | apply OutKeeps.dite | apply cnt_keeps | apply modPd_keeps | apply Keeps.dite | split | dsimp only

theorem execPtpHoldover_keeps {P : Part → Prop} {s00 : State} {s : State} (hk : Keeps P s00 s) (announce : Bool)
    (lan : Fin 2) (q_regs : ∀ u, ¬ P (.tw u .regs)) (q_tm : ∀ u, ¬ P (.tw u .tm)) :
    OutKeeps P s00 (execPtpHoldover announce lan s) := by
  unfold execPtpHoldover
  extract_lets
  repeat' with_reducible first
    | assumption | apply q_regs | apply q_tm | intro _ | apply OutKeeps.next | apply OutKeeps.dite
    | apply selectMaster_keeps | apply modTms_keeps | apply holdover_keeps | apply Keeps.dite

theorem execPtpFreerun_keeps {P : Part → Prop} {s00 : State} {s : State} (hk : Keeps P s00 s) (q_regs : ∀ u, ¬ P (.tw u .regs))
    :
    OutKeeps P s00 (execPtpFreerun s) := by
  unfold execPtpFreerun
  repeat' with_reducible first
    | assumption | apply q_regs | intro _ | apply OutKeeps.next | apply OutKeeps.dite | apply clkEvent_keeps
    | apply setClk_keeps | apply Keeps.dite

theorem execPtpMasterSend_keeps {P : Part → Prop} {s00 : State} {s : State} (hk : Keeps P s00 s) (p : Fin 4) (p_net : ¬ P .net) (q_regs : ∀ u, ¬ P (.tw u .regs)) (q_xings : ∀ u, ¬ P (.tw u .xings)) :
    OutKeeps P s00 (execPtpMasterSend p s) := by
  unfold execPtpMasterSend
  try extract_lets
  repeat' with_reducible first | assumption | apply p_net | apply q_regs | apply q_xings | intro _ | apply OutKeeps.next | apply OutKeeps.dite | apply transmit_keeps | apply Keeps.dite | split | dsimp only

theorem execLeap_keeps {P : Part → Prop} {s00 : State} {s : State} (hk : Keeps P s00 s) (q_regs : ∀ u, ¬ P (.tw u .regs))
    :
    OutKeeps P s00 (execLeap s) := by
  unfold execLeap
  repeat' with_reducible first
    | assumption | apply q_regs | intro _ | apply OutKeeps.next | apply OutKeeps.dite | apply onComputing_keeps
    | apply ev_keeps | apply wf_keeps | apply Keeps.dite

theorem execPpsInEdge_keeps {P : Part → Prop} {s00 : State} {s : State} (hk : Keeps P s00 s) (stamp : Int) (q_ofs : ∀ u, ¬ P (.tw u .ofs))
    (q_regs : ∀ u, ¬ P (.tw u .regs)) (q_tm : ∀ u, ¬ P (.tw u .tm)) :
    OutKeeps P s00 (execPpsInEdge stamp s) := by
  unfold execPpsInEdge
  extract_lets
  repeat' with_reducible first
    | assumption | apply q_ofs | apply q_regs | apply q_tm | intro _ | apply OutKeeps.next | apply OutKeeps.dite
    | apply onComputing_keeps | apply wr_keeps | apply servo_keeps | apply Keeps.dite

theorem execPpsMiss_keeps {P : Part → Prop} {s00 : State} {s : State} (hk : Keeps P s00 s) (q_regs : ∀ u, ¬ P (.tw u .regs))
    (q_tm : ∀ u, ¬ P (.tw u .tm)) :
    OutKeeps P s00 (execPpsMiss s) := by
  unfold execPpsMiss
  extract_lets
  repeat' with_reducible first
    | assumption | apply q_regs | apply q_tm | intro _ | apply OutKeeps.next | apply OutKeeps.dite
    | apply onComputing_keeps | apply cnt_keeps | apply holdover_keeps | apply Keeps.dite

theorem execPpsOutPulse_keeps {P : Part → Prop} {s00 : State} {s : State} (hk : Keeps P s00 s) (start : Bool)
    (p_net : ¬ P .net) :
    OutKeeps P s00 (execPpsOutPulse start s) := by
  unfold execPpsOutPulse
  repeat' with_reducible first
    | assumption | apply p_net | intro _ | apply OutKeeps.next | apply OutKeeps.dite | apply modNet_keeps
    | apply Keeps.dite | split

end Sys2Proof.Machine
end

