-- ==== Sys2Proof/Laws/KeepHost.lean ====
section
/-! SUPPORT. What Laws/Keeps.lean says is kept by the operations of register access, cells, changes, the host interface, leave and take-over. -/

namespace Sys2Proof.Machine

/-! Machine/Access.lean. -/

theorem ran_keeps {P : Part → Prop} {s00 s : State} (hk : Keeps P s00 s) (o : Out) (ho : OutKeeps P s00 o) : Keeps
    P s00 (ran s o) := by
  unfold ran; split
  · exact ho
  · exact hk

theorem onReq_keeps {P : Part → Prop} {s00 s : State} (hk : Keeps P s00 s) (c : Bool) (f : State → State)
    (hf : ∀ s, Keeps P s00 s → Keeps P s00 (f s)) : Keeps P s00 (onReq c f s) := by
  unfold onReq; split
  · exact hf _ hk
  · exact hk

theorem storeDamage_keeps {P : Part → Prop} {s00 : State} {s : State} (hk : Keeps P s00 s) (t : Twin) (k : Nat) (hi : Bool) (v : W32) (q_arr : ¬ P (.tw t .arr)) (q_regs : ¬ P (.tw t .regs)) :
    Keeps P s00 (storeDamage s t k hi v) := by
  unfold storeDamage
  try extract_lets
  repeat' with_reducible first | assumption | apply q_arr | apply q_regs | intro _ | apply modCellX_keeps | apply setDamage_keeps | apply Keeps.dite | split | dsimp only

theorem storeWord_keeps {P : Part → Prop} {s00 : State} {s : State} (hk : Keeps P s00 s) (r : RegRow) (a : Nat) (v : W32) (t : Twin) (q_arr : ¬ P (.tw t .arr)) (q_regs : ¬ P (.tw t .regs)) :
    Keeps P s00 (storeWord r a v s t) := by
  unfold storeWord
  try extract_lets
  repeat' with_reducible first | assumption | apply q_arr | apply q_regs | intro _ | apply storeDamage_keeps | apply wr_keeps | apply Keeps.dite | apply Keeps.foldl | apply Keeps.foldl₁ | apply Keeps.foldl₂ | split | dsimp only

theorem sysAct_keeps {P : Part → Prop} {s00 : State} {s : State} (hk : Keeps P s00 s) (tg : Target) (ts : List Twin) (b : Nat) (old v : W32) (q_adc : ∀ u, ¬ P (.tw u .adc)) (q_arr : ∀ u, ¬ P (.tw u .arr)) (q_can : ∀ u, ¬ P (.tw u .can)) (q_drv : ∀ u, ¬ P (.tw u .drv)) (p_edge : ¬ P .edge) (q_exps : ∀ u, ¬ P (.tw u .exps)) (q_flash : ∀ u, ¬ P (.tw u .flash)) (p_ilk : ¬ P .ilk) (q_law : ∀ u, ¬ P (.tw u .law)) (p_life : ¬ P .life) (q_neg : ∀ u, ¬ P (.tw u .neg)) (p_net : ¬ P .net) (q_net : ∀ u, ¬ P (.tw u .net)) (q_ofs : ∀ u, ¬ P (.tw u .ofs)) (q_pwr : ∀ u, ¬ P (.tw u .pwr)) (q_queues : ∀ u, ¬ P (.tw u .queues)) (q_regs : ∀ u, ¬ P (.tw u .regs)) (q_rings : ∀ u, ¬ P (.tw u .rings)) (q_saf : ∀ u, ¬ P (.tw u .saf)) (p_sluice : ¬ P .sluice) (q_tb : ∀ u, ¬ P (.tw u .tb)) (q_tm : ∀ u, ¬ P (.tw u .tm)) (q_twn : ∀ u, ¬ P (.tw u .twn)) (q_upOld : ∀ u, ¬ P (.tw u .upOld)) (q_uplinks : ∀ u, ¬ P (.tw u .uplinks)) (q_xings : ∀ u, ¬ P (.tw u .xings)) :
    Keeps P s00 (sysAct s tg ts b old v) := by
  unfold sysAct
  dsimp only
  repeat' first
    | (cases ‹TwinField› <;> first | rfl | exact absurd ‹_› (by solve_by_elim))
    | with_reducible first | assumption | apply q_adc | apply q_arr | apply q_can | apply q_drv | apply p_edge | apply q_exps | apply q_flash | apply p_ilk | apply q_law | apply p_life | apply q_neg | apply p_net | apply q_net | apply q_ofs | apply q_pwr | apply q_queues | apply q_regs | apply q_rings | apply q_saf | apply p_sluice | apply q_tb | apply q_tm | apply q_twn | apply q_upOld | apply q_uplinks | apply q_xings | intro _ | apply onReq_keeps | apply ran_keeps | apply safelightEnter_keeps | apply safelightExit_keeps | apply execResetTwin_keeps | apply execRatchet_keeps | apply execLifecycleLock_keeps | apply execKeyRevoke_keeps | apply execRampStart_keeps | apply execRampAbort_keeps | apply onBoth_keeps | apply wr_keeps | apply execWithdraw_keeps | apply execRejoin_keeps | apply execRotateNow_keeps | apply Keeps.dite | apply Keeps.foldl | apply Keeps.foldl₁ | apply Keeps.foldl₂ | split | refine Keeps.setTwRegs ?_ rfl (fun k => (k.tw _).same rfl rfl rfl rfl rfl rfl rfl rfl) fun f hf => ?_ | dsimp only

theorem arrAct_keeps {P : Part → Prop} {s00 : State} {s : State} (hk : Keeps P s00 s) (ts : List Twin) (b k : Nat) (old v : W32) (q_arr : ∀ u, ¬ P (.tw u .arr)) (q_regs : ∀ u, ¬ P (.tw u .regs)) (q_rings : ∀ u, ¬ P (.tw u .rings)) (p_sluice : ¬ P .sluice) (q_twn : ∀ u, ¬ P (.tw u .twn)) :
    Keeps P s00 (arrAct s ts b k old v) := by
  unfold arrAct
  try extract_lets
  repeat' with_reducible first | assumption | apply q_arr | apply q_regs | apply q_rings | apply p_sluice | apply q_twn | intro _ | apply onReq_keeps | apply ringRestart_keeps | apply probeNow_keeps | apply holdWeights_keeps | apply arrayEnable_keeps | apply arrayStop_keeps | apply showRate_keeps | apply mapEntryWrite_keeps | apply cellBypass_keeps | apply cellInsert_keeps | apply cellReadmit_keeps | apply Keeps.dite | apply Keeps.foldl | apply Keeps.foldl₁ | apply Keeps.foldl₂ | split | dsimp only

theorem lawAct_keeps {P : Part → Prop} {s00 : State} {s : State} (hk : Keeps P s00 s) (tg : Target) (ts : List Twin)
    (b k j : Nat) (v : W32) (q_drv : ∀ u, ¬ P (.tw u .drv)) (q_exps : ∀ u, ¬ P (.tw u .exps)) (q_law : ∀ u, ¬ P (.tw u .law))
    (q_regs : ∀ u, ¬ P (.tw u .regs)) (p_sluice : ¬ P .sluice) :
    Keeps P s00 (lawAct s tg ts b k j v) := by
  unfold lawAct
  dsimp only
  repeat' with_reducible first
    | assumption | apply q_drv | apply q_exps | apply q_law | apply q_regs | apply p_sluice | intro _
    | apply onReq_keeps | apply ran_keeps | apply lawLoad_keeps | apply lawSwap_keeps | apply coefWrite_keeps
    | apply wr_keeps | apply execNegDisarm_keeps | apply execNegFix_keeps | apply execNegArm_keeps
    | apply Keeps.dite | apply Keeps.foldl

theorem edgeAct_keeps {P : Part → Prop} {s00 : State} {s : State} (hk : Keeps P s00 s) (ts : List Twin) (b k : Nat) (v : W32) (p_edge : ¬ P .edge) (q_regs : ∀ u, ¬ P (.tw u .regs)) (p_sluice : ¬ P .sluice) :
    Keeps P s00 (edgeAct s ts b k v) := by
  unfold edgeAct
  try extract_lets
  repeat' with_reducible first | assumption | apply p_edge | apply q_regs | apply p_sluice | intro _ | apply onReq_keeps | apply dtLock_keeps | apply pwmArm_keeps | apply pwmStart_keeps | apply pwmStop_keeps | apply pwmForce_keeps | apply settlePair_keeps | apply gdDiagStart_keeps | apply gpbRun_keeps | apply bridgeHalt_keeps | apply wf_keeps | apply modGen_keeps | apply settle1_keeps | apply tripLock_keeps | apply tripClear_keeps | apply freeTick_keeps | apply settleAll_keeps | apply Keeps.dite | apply Keeps.foldl | apply Keeps.foldl₁ | apply Keeps.foldl₂ | split | dsimp only

theorem convCtrl_keeps {P : Part → Prop} {s00 : State} {s : State} (hk : Keeps P s00 s) (t : Twin) (q : Nat) (v : W32) (q_adc : ∀ u, ¬ P (.tw u .adc)) (q_regs : ∀ u, ¬ P (.tw u .regs)) :
    Keeps P s00 (convCtrl s t q v) := by
  unfold convCtrl
  try extract_lets
  repeat' with_reducible first | assumption | apply q_adc | apply q_regs | intro _ | apply adcDisable_keeps | apply injDisable_keeps | apply wf_keeps | apply evi_keeps | apply Keeps.dite | split | dsimp only

theorem adcAct_keeps {P : Part → Prop} {s00 : State} {s : State} (hk : Keeps P s00 s) (ts : List Twin) (b q j : Nat)
    (v : W32) (q_adc : ∀ u, ¬ P (.tw u .adc)) (q_flash : ∀ u, ¬ P (.tw u .flash)) (q_regs : ∀ u, ¬ P (.tw u .regs))
    (p_sluice : ¬ P .sluice) :
    Keeps P s00 (adcAct s ts b q j v) := by
  unfold adcAct
  dsimp only
  repeat' with_reducible first
    | assumption | apply q_adc | apply q_flash | apply q_regs | apply p_sluice | intro _ | apply onReq_keeps
    | apply convCtrl_keeps | apply adcSoft_keeps | apply adcTrim_keeps | apply wr_keeps | apply calStep_keeps
    | apply ran_keeps | apply execSkew_keeps | apply execCommit_keeps | apply execAbort_keeps | apply Keeps.dite
    | apply Keeps.foldl

theorem netAct_keeps {P : Part → Prop} {s00 : State} {s : State} (hk : Keeps P s00 s) (ts : List Twin) (b k j : Nat) (old v : W32) (q_can : ∀ u, ¬ P (.tw u .can)) (p_net : ¬ P .net) (q_ofs : ∀ u, ¬ P (.tw u .ofs)) (q_pwr : ∀ u, ¬ P (.tw u .pwr)) (q_regs : ∀ u, ¬ P (.tw u .regs)) (q_tm : ∀ u, ¬ P (.tw u .tm)) (q_xings : ∀ u, ¬ P (.tw u .xings)) :
    Keeps P s00 (netAct s ts b k j old v) := by
  unfold netAct
  try extract_lets
  repeat' with_reducible first | assumption | apply q_can | apply p_net | apply q_ofs | apply q_pwr | apply q_regs | apply q_tm | apply q_xings | intro _ | apply netServe_keeps | apply selectMaster_keeps | apply setClk_keeps | apply setRate_keeps | apply onReq_keeps | apply timeStep_keeps | apply timeSnap_keeps | apply canEnable_keeps | apply canRecover_keeps | apply txReq_keeps | apply canCancel_keeps | apply ecpEnable_keeps | apply Keeps.dite | apply Keeps.foldl | apply Keeps.foldl₁ | apply Keeps.foldl₂ | split | dsimp only

theorem safAct_keeps {P : Part → Prop} {s00 : State} {s : State} (hk : Keeps P s00 s) (ts : List Twin) (h b q : Nat) (old v : W32) (q_can : ∀ u, ¬ P (.tw u .can)) (p_edge : ¬ P .edge) (p_host : ¬ P .host) (p_net : ¬ P .net) (q_net : ∀ u, ¬ P (.tw u .net)) (q_queues : ∀ u, ¬ P (.tw u .queues)) (q_regs : ∀ u, ¬ P (.tw u .regs)) (q_saf : ∀ u, ¬ P (.tw u .saf)) (q_twn : ∀ u, ¬ P (.tw u .twn)) (q_xings : ∀ u, ¬ P (.tw u .xings)) :
    Keeps P s00 (safAct s ts h b q old v) := by
  unfold safAct
  try extract_lets
  repeat' with_reducible first | assumption | apply q_can | apply p_edge | apply p_host | apply p_net | apply q_net | apply q_queues | apply q_regs | apply q_saf | apply q_twn | apply q_xings | intro _ | apply onReq_keeps | apply safAck_keeps | apply safAckInt_keeps | apply safAckOut_keeps | apply safetyConfirm_keeps | apply say_keeps | apply lapse_keeps | apply queueEnable_keeps | apply queueDisable_keeps | apply putQueue_keeps | apply contactSheet_keeps | apply freeTick_keeps | apply Keeps.dite | apply Keeps.foldl | apply Keeps.foldl₁ | apply Keeps.foldl₂ | split | dsimp only

theorem drvAct_keeps {P : Part → Prop} {s00 : State} {s : State} (hk : Keeps P s00 s) (tg : Target) (ts : List Twin) (b d : Nat) (old v : W32) (q_arr : ∀ u, ¬ P (.tw u .arr)) (q_drv : ∀ u, ¬ P (.tw u .drv)) (p_edge : ¬ P .edge) (q_regs : ∀ u, ¬ P (.tw u .regs)) :
    Keeps P s00 (drvAct s tg ts b d old v) := by
  unfold drvAct
  try extract_lets
  repeat' with_reducible first | assumption | apply q_arr | apply q_drv | apply p_edge | apply q_regs | intro _ | apply onReq_keeps | apply driveEnable_keeps | apply discharge_keeps | apply drvClear_keeps | apply topoSet_keeps | apply channelRun_keeps | apply showWasc_keeps | apply wf_keeps | apply modPos_keeps | apply hallStart_keeps | apply Keeps.dite | apply Keeps.foldl | apply Keeps.foldl₁ | apply Keeps.foldl₂ | split | dsimp only

theorem act_keeps {P : Part → Prop} {s00 : State} {s : State} (hk : Keeps P s00 s) (tg : Target) (ts : List Twin)
    (h : Nat) (r : RegRow) (a : Nat) (old v : W32) (q_adc : ∀ u, ¬ P (.tw u .adc)) (q_arr : ∀ u, ¬ P (.tw u .arr))
    (q_can : ∀ u, ¬ P (.tw u .can)) (q_drv : ∀ u, ¬ P (.tw u .drv)) (p_edge : ¬ P .edge) (q_exps : ∀ u, ¬ P (.tw u .exps))
    (q_flash : ∀ u, ¬ P (.tw u .flash)) (p_host : ¬ P .host) (p_ilk : ¬ P .ilk) (q_law : ∀ u, ¬ P (.tw u .law))
    (p_life : ¬ P .life) (q_neg : ∀ u, ¬ P (.tw u .neg)) (p_net : ¬ P .net) (q_net : ∀ u, ¬ P (.tw u .net)) (q_ofs : ∀ u, ¬ P (.tw u .ofs))
    (q_pwr : ∀ u, ¬ P (.tw u .pwr)) (q_queues : ∀ u, ¬ P (.tw u .queues)) (q_regs : ∀ u, ¬ P (.tw u .regs))
    (q_rings : ∀ u, ¬ P (.tw u .rings)) (q_saf : ∀ u, ¬ P (.tw u .saf)) (p_sluice : ¬ P .sluice) (q_tb : ∀ u, ¬ P (.tw u .tb))
    (q_tm : ∀ u, ¬ P (.tw u .tm)) (q_twn : ∀ u, ¬ P (.tw u .twn)) (q_upOld : ∀ u, ¬ P (.tw u .upOld)) (q_uplinks : ∀ u, ¬ P (.tw u .uplinks))
    (q_xings : ∀ u, ¬ P (.tw u .xings)) :
    Keeps P s00 (act s tg ts h r a old v) := by
  unfold act
  extract_lets
  repeat' with_reducible first
    | assumption | apply q_adc | apply q_arr | apply q_can | apply q_drv | apply p_edge | apply q_exps
    | apply q_flash | apply p_host | apply p_ilk | apply q_law | apply p_life | apply q_neg | apply p_net
    | apply q_net | apply q_ofs | apply q_pwr | apply q_queues | apply q_regs | apply q_rings | apply q_saf
    | apply p_sluice | apply q_tb | apply q_tm | apply q_twn | apply q_upOld | apply q_uplinks | apply q_xings
    | intro _ | apply sysAct_keeps | apply arrAct_keeps | apply edgeAct_keeps | apply adcAct_keeps
    | apply netAct_keeps | apply safAct_keeps | apply drvAct_keeps | apply lawAct_keeps | apply Keeps.dite | split

theorem refused_keeps {P : Part → Prop} {s00 : State} {s : State} {s1 : State} (hk : Keeps P s00 s) (hk1 : Keeps P s00 s1) (b : Nat) (q_regs : ∀ u, ¬ P (.tw u .regs)) :
    Keeps P s00 (refused s s1 b) := by
  unfold refused
  try extract_lets
  repeat' with_reducible first | assumption | apply q_regs | intro _ | apply say_keeps | apply onBoth_keeps | apply wr_keeps | apply Keeps.dite | split | dsimp only

theorem writeEach_keeps {P : Part → Prop} {s00 : State} {s : State} (hk : Keeps P s00 s) (tg : Target) (h a : Nat) (f : Twin → W32) (q_adc : ∀ u, ¬ P (.tw u .adc)) (q_arr : ∀ u, ¬ P (.tw u .arr)) (q_can : ∀ u, ¬ P (.tw u .can)) (q_drv : ∀ u, ¬ P (.tw u .drv)) (p_edge : ¬ P .edge) (q_exps : ∀ u, ¬ P (.tw u .exps)) (q_flash : ∀ u, ¬ P (.tw u .flash)) (p_host : ¬ P .host) (p_ilk : ¬ P .ilk) (q_law : ∀ u, ¬ P (.tw u .law)) (p_life : ¬ P .life) (q_neg : ∀ u, ¬ P (.tw u .neg)) (p_net : ¬ P .net) (q_net : ∀ u, ¬ P (.tw u .net)) (q_ofs : ∀ u, ¬ P (.tw u .ofs)) (q_pwr : ∀ u, ¬ P (.tw u .pwr)) (q_queues : ∀ u, ¬ P (.tw u .queues)) (q_regs : ∀ u, ¬ P (.tw u .regs)) (q_rings : ∀ u, ¬ P (.tw u .rings)) (q_saf : ∀ u, ¬ P (.tw u .saf)) (p_sluice : ¬ P .sluice) (q_tb : ∀ u, ¬ P (.tw u .tb)) (q_tm : ∀ u, ¬ P (.tw u .tm)) (q_twn : ∀ u, ¬ P (.tw u .twn)) (q_upOld : ∀ u, ¬ P (.tw u .upOld)) (q_uplinks : ∀ u, ¬ P (.tw u .uplinks)) (q_xings : ∀ u, ¬ P (.tw u .xings)) :
    Keeps P s00 (writeEach s tg h a f) := by
  unfold writeEach
  try extract_lets
  repeat' with_reducible first | assumption | apply q_adc | apply q_arr | apply q_can | apply q_drv | apply p_edge | apply q_exps | apply q_flash | apply p_host | apply p_ilk | apply q_law | apply p_life | apply q_neg | apply p_net | apply q_net | apply q_ofs | apply q_pwr | apply q_queues | apply q_regs | apply q_rings | apply q_saf | apply p_sluice | apply q_tb | apply q_tm | apply q_twn | apply q_upOld | apply q_uplinks | apply q_xings | intro _ | apply say_keeps | apply storeWord_keeps | apply refused_keeps | apply act_keeps | apply Keeps.dite | apply Keeps.foldl | apply Keeps.foldl₁ | apply Keeps.foldl₂ | split | dsimp only

theorem writeWord_keeps {P : Part → Prop} {s00 : State} {s : State} (hk : Keeps P s00 s) (tg : Target) (h a : Nat)
    (v : W32) (q_adc : ∀ u, ¬ P (.tw u .adc)) (q_arr : ∀ u, ¬ P (.tw u .arr)) (q_can : ∀ u, ¬ P (.tw u .can))
    (q_drv : ∀ u, ¬ P (.tw u .drv)) (p_edge : ¬ P .edge) (q_exps : ∀ u, ¬ P (.tw u .exps)) (q_flash : ∀ u, ¬ P (.tw u .flash))
    (p_host : ¬ P .host) (p_ilk : ¬ P .ilk) (q_law : ∀ u, ¬ P (.tw u .law)) (p_life : ¬ P .life) (q_neg : ∀ u, ¬ P (.tw u .neg))
    (p_net : ¬ P .net) (q_net : ∀ u, ¬ P (.tw u .net)) (q_ofs : ∀ u, ¬ P (.tw u .ofs)) (q_pwr : ∀ u, ¬ P (.tw u .pwr))
    (q_queues : ∀ u, ¬ P (.tw u .queues)) (q_regs : ∀ u, ¬ P (.tw u .regs)) (q_rings : ∀ u, ¬ P (.tw u .rings))
    (q_saf : ∀ u, ¬ P (.tw u .saf)) (p_sluice : ¬ P .sluice) (q_tb : ∀ u, ¬ P (.tw u .tb)) (q_tm : ∀ u, ¬ P (.tw u .tm))
    (q_twn : ∀ u, ¬ P (.tw u .twn)) (q_upOld : ∀ u, ¬ P (.tw u .upOld)) (q_uplinks : ∀ u, ¬ P (.tw u .uplinks))
    (q_xings : ∀ u, ¬ P (.tw u .xings)) :
    Keeps P s00 (writeWord s tg h a v) := by
  unfold writeWord
  repeat' with_reducible first
    | assumption | apply q_adc | apply q_arr | apply q_can | apply q_drv | apply p_edge | apply q_exps
    | apply q_flash | apply p_host | apply p_ilk | apply q_law | apply p_life | apply q_neg | apply p_net
    | apply q_net | apply q_ofs | apply q_pwr | apply q_queues | apply q_regs | apply q_rings | apply q_saf
    | apply p_sluice | apply q_tb | apply q_tm | apply q_twn | apply q_upOld | apply q_uplinks | apply q_xings
    | intro _ | apply writeEach_keeps

theorem execRegisterWrite_keeps {P : Part → Prop} {s00 : State} {s : State} (hk : Keeps P s00 s) (tg : Target)
    (addr v : W32) (q_adc : ∀ u, ¬ P (.tw u .adc)) (q_arr : ∀ u, ¬ P (.tw u .arr)) (q_can : ∀ u, ¬ P (.tw u .can))
    (q_drv : ∀ u, ¬ P (.tw u .drv)) (p_edge : ¬ P .edge) (q_exps : ∀ u, ¬ P (.tw u .exps)) (q_flash : ∀ u, ¬ P (.tw u .flash))
    (p_host : ¬ P .host) (p_ilk : ¬ P .ilk) (q_law : ∀ u, ¬ P (.tw u .law)) (p_life : ¬ P .life) (q_neg : ∀ u, ¬ P (.tw u .neg))
    (p_net : ¬ P .net) (q_net : ∀ u, ¬ P (.tw u .net)) (q_ofs : ∀ u, ¬ P (.tw u .ofs)) (q_pwr : ∀ u, ¬ P (.tw u .pwr))
    (q_queues : ∀ u, ¬ P (.tw u .queues)) (q_regs : ∀ u, ¬ P (.tw u .regs)) (q_rings : ∀ u, ¬ P (.tw u .rings))
    (q_saf : ∀ u, ¬ P (.tw u .saf)) (p_sluice : ¬ P .sluice) (q_tb : ∀ u, ¬ P (.tw u .tb)) (q_tm : ∀ u, ¬ P (.tw u .tm))
    (q_twn : ∀ u, ¬ P (.tw u .twn)) (q_upOld : ∀ u, ¬ P (.tw u .upOld)) (q_uplinks : ∀ u, ¬ P (.tw u .uplinks))
    (q_xings : ∀ u, ¬ P (.tw u .xings)) :
    OutKeeps P s00 (execRegisterWrite tg addr v s) := by
  unfold execRegisterWrite
  repeat' with_reducible first
    | assumption | apply q_adc | apply q_arr | apply q_can | apply q_drv | apply p_edge | apply q_exps
    | apply q_flash | apply p_host | apply p_ilk | apply q_law | apply p_life | apply q_neg | apply p_net
    | apply q_net | apply q_ofs | apply q_pwr | apply q_queues | apply q_regs | apply q_rings | apply q_saf
    | apply p_sluice | apply q_tb | apply q_tm | apply q_twn | apply q_upOld | apply q_uplinks | apply q_xings
    | intro _ | apply OutKeeps.next | apply OutKeeps.dite | apply writeWord_keeps

/-! Machine/Cells.lean. -/

theorem modCell_keeps {P : Part → Prop} {s00 : State} {s : State} (hk : Keeps P s00 s) (c p : Nat) (f : CellSt → CellSt)
    (p_cells : ¬ P .cells) :
    Keeps P s00 (modCell s c p f) :=
  hk.fields _ _ _ _ _ _ _ _ _ _ (fun _ => rfl) (fun _ => rfl) (fun _ => rfl) (fun _ => rfl) (fun _ => rfl)
    (fun h => absurd h p_cells) (fun _ => rfl) (fun _ => rfl) (fun k => tabWf_tabMod {} k.cells _ f) (fun k => k.ctx)

theorem execCellFrameForward_keeps {P : Part → Prop} {s00 : State} {s : State} (hk : Keeps P s00 s) (c : Fin 12) (p : Fin 16) (portA : Bool) (bytes : List Byte) (bad : List Nat) (r : BitVec 24) (m : CellMeas) (p_cells : ¬ P .cells) :
    OutKeeps P s00 (execCellFrameForward c p portA bytes bad r m s) := by
  unfold execCellFrameForward
  try extract_lets
  repeat' with_reducible first | assumption | apply p_cells | intro _ | apply OutKeeps.next | apply OutKeeps.dite | apply modCell_keeps | apply Keeps.dite | split | dsimp only

theorem execCellCopyJudge_keeps {P : Part → Prop} {s00 : State} {s : State} (hk : Keeps P s00 s) (c : Fin 12) (p : Fin 16) (portA : Bool) (bytes : List Byte) (ok : Bool) (ref now : BitVec 40) (p_cells : ¬ P .cells) :
    OutKeeps P s00 (execCellCopyJudge c p portA bytes ok ref now s) := by
  unfold execCellCopyJudge
  try extract_lets
  repeat' with_reducible first | assumption | apply p_cells | intro _ | apply OutKeeps.next | apply OutKeeps.dite | apply modCell_keeps | apply Keeps.dite | split | dsimp only

theorem execCellAcceptanceDeadline_keeps {P : Part → Prop} {s00 : State} {s : State} (hk : Keeps P s00 s) (c : Fin 12) (p : Fin 16) (p_cells : ¬ P .cells) :
    OutKeeps P s00 (execCellAcceptanceDeadline c p s) := by
  unfold execCellAcceptanceDeadline
  try extract_lets
  repeat' with_reducible first | assumption | apply p_cells | intro _ | apply OutKeeps.next | apply OutKeeps.dite | apply modCell_keeps | apply Keeps.dite | split | dsimp only

theorem execCellWindowApply_keeps {P : Part → Prop} {s00 : State} {s : State} (hk : Keeps P s00 s) (c : Fin 12) (p : Fin 16) (gone : BitVec 5) (p_cells : ¬ P .cells) :
    OutKeeps P s00 (execCellWindowApply c p gone s) := by
  unfold execCellWindowApply
  try extract_lets
  repeat' with_reducible first | assumption | apply p_cells | intro _ | apply OutKeeps.next | apply OutKeeps.dite | apply modCell_keeps | apply Keeps.dite | split | dsimp only

theorem execCellEventExecute_keeps {P : Part → Prop} {s00 : State} {s : State} (hk : Keeps P s00 s) (c : Fin 12)
    (p : Fin 16) (p_cells : ¬ P .cells) :
    OutKeeps P s00 (execCellEventExecute c p s) := by
  unfold execCellEventExecute
  repeat' with_reducible first
    | assumption | apply p_cells | intro _ | apply OutKeeps.next | apply OutKeeps.dite | apply modCell_keeps

theorem execCellBypassTimeout_keeps {P : Part → Prop} {s00 : State} {s : State} (hk : Keeps P s00 s) (c : Fin 12)
    (p : Fin 16) (p_cells : ¬ P .cells) :
    OutKeeps P s00 (execCellBypassTimeout c p s) := by
  unfold execCellBypassTimeout
  repeat' with_reducible first
    | assumption | apply p_cells | intro _ | apply OutKeeps.next | apply OutKeeps.dite | apply modCell_keeps

theorem execCellBypassClosed_keeps {P : Part → Prop} {s00 : State} {s : State} (hk : Keeps P s00 s) (c : Fin 12)
    (p : Fin 16) (p_cells : ¬ P .cells) :
    OutKeeps P s00 (execCellBypassClosed c p s) := by
  unfold execCellBypassClosed
  repeat' with_reducible first
    | assumption | apply p_cells | intro _ | apply OutKeeps.next | apply OutKeeps.dite | apply modCell_keeps

theorem execCellOwnFault_keeps {P : Part → Prop} {s00 : State} {s : State} (hk : Keeps P s00 s) (c : Fin 12) (p : Fin 16)
    (kind : Fin 5) (p_cells : ¬ P .cells) :
    OutKeeps P s00 (execCellOwnFault c p kind s) := by
  unfold execCellOwnFault
  repeat' with_reducible first
    | assumption | apply p_cells | intro _ | apply OutKeeps.next | apply OutKeeps.dite | apply modCell_keeps

theorem execCellSyncAcquired_keeps {P : Part → Prop} {s00 : State} {s : State} (hk : Keeps P s00 s) (c : Fin 12)
    (p : Fin 16) (portA : Bool) (p_cells : ¬ P .cells) :
    OutKeeps P s00 (execCellSyncAcquired c p portA s) := by
  unfold execCellSyncAcquired
  repeat' with_reducible first
    | assumption | apply p_cells | intro _ | apply OutKeeps.next | apply OutKeeps.dite | apply modCell_keeps

theorem execCellSyncLost_keeps {P : Part → Prop} {s00 : State} {s : State} (hk : Keeps P s00 s) (c : Fin 12) (p : Fin 16)
    (portA : Bool) (p_cells : ¬ P .cells) :
    OutKeeps P s00 (execCellSyncLost c p portA s) := by
  unfold execCellSyncLost
  repeat' with_reducible first
    | assumption | apply p_cells | intro _ | apply OutKeeps.next | apply OutKeeps.dite | apply modCell_keeps

theorem execCellEidleEntry_keeps {P : Part → Prop} {s00 : State} {s : State} (hk : Keeps P s00 s) (c : Fin 12) (p : Fin 16)
    (portA : Bool) (p_cells : ¬ P .cells) :
    OutKeeps P s00 (execCellEidleEntry c p portA s) := by
  unfold execCellEidleEntry
  repeat' with_reducible first
    | assumption | apply p_cells | intro _ | apply OutKeeps.next | apply OutKeeps.dite | apply modCell_keeps

theorem execCellTimeLockClear_keeps {P : Part → Prop} {s00 : State} {s : State} (hk : Keeps P s00 s) (c : Fin 12)
    (p : Fin 16) (p_cells : ¬ P .cells) :
    OutKeeps P s00 (execCellTimeLockClear c p s) := by
  unfold execCellTimeLockClear
  repeat' with_reducible first
    | assumption | apply p_cells | intro _ | apply OutKeeps.next | apply OutKeeps.dite | apply modCell_keeps

theorem execCellEidleExit_keeps {P : Part → Prop} {s00 : State} {s : State} (hk : Keeps P s00 s) (c : Fin 12) (p : Fin 16) (portA : Bool) (p_cells : ¬ P .cells) :
    OutKeeps P s00 (execCellEidleExit c p portA s) := by
  unfold execCellEidleExit
  try extract_lets
  repeat' with_reducible first | assumption | apply p_cells | intro _ | apply OutKeeps.next | apply OutKeeps.dite | apply modCell_keeps | apply Keeps.dite | split | dsimp only

theorem execCellLosIdle_keeps {P : Part → Prop} {s00 : State} {s : State} (hk : Keeps P s00 s) (c : Fin 12) (p : Fin 16)
    (portA : Bool) (p_cells : ¬ P .cells) :
    OutKeeps P s00 (execCellLosIdle c p portA s) := by
  unfold execCellLosIdle
  repeat' with_reducible first
    | assumption | apply p_cells | intro _ | apply OutKeeps.next | apply OutKeeps.dite | apply modCell_keeps

theorem execCellSideDown_keeps {P : Part → Prop} {s00 : State} {s : State} (hk : Keeps P s00 s) (c : Fin 12) (p : Fin 16)
    (sideD : Bool) (p_cells : ¬ P .cells) :
    OutKeeps P s00 (execCellSideDown c p sideD s) := by
  unfold execCellSideDown
  repeat' with_reducible first
    | assumption | apply p_cells | intro _ | apply OutKeeps.next | apply OutKeeps.dite | apply modCell_keeps

theorem execCellSideUp_keeps {P : Part → Prop} {s00 : State} {s : State} (hk : Keeps P s00 s) (c : Fin 12) (p : Fin 16)
    (sideD : Bool) (p_cells : ¬ P .cells) :
    OutKeeps P s00 (execCellSideUp c p sideD s) := by
  unfold execCellSideUp
  repeat' with_reducible first
    | assumption | apply p_cells | intro _ | apply OutKeeps.next | apply OutKeeps.dite | apply modCell_keeps

theorem execLinkDownNotice_keeps {P : Part → Prop} {s00 : State} {s : State} (hk : Keeps P s00 s) (c : Fin 12) (p : Fin 16) (sideD : Bool) (p_cells : ¬ P .cells) :
    OutKeeps P s00 (execLinkDownNotice c p sideD s) := by
  unfold execLinkDownNotice
  try extract_lets
  repeat' with_reducible first | assumption | apply p_cells | intro _ | apply OutKeeps.next | apply OutKeeps.dite | apply modCell_keeps | apply Keeps.dite | split | dsimp only

theorem execCellHardwareBypass_keeps {P : Part → Prop} {s00 : State} {s : State} (hk : Keeps P s00 s) (c : Fin 12)
    (p : Fin 16) (p_cells : ¬ P .cells) :
    OutKeeps P s00 (execCellHardwareBypass c p s) := by
  unfold execCellHardwareBypass
  repeat' with_reducible first
    | assumption | apply p_cells | intro _ | apply OutKeeps.next | apply OutKeeps.dite | apply modCell_keeps

theorem execCellPowerUp_keeps {P : Part → Prop} {s00 : State} {s : State} (hk : Keeps P s00 s) (c : Fin 12) (p : Fin 16) (w : CellPower) (p_cells : ¬ P .cells) :
    OutKeeps P s00 (execCellPowerUp c p w s) := by
  unfold execCellPowerUp
  try extract_lets
  repeat' with_reducible first | assumption | apply p_cells | intro _ | apply OutKeeps.next | apply OutKeeps.dite | apply modCell_keeps | apply Keeps.dite | split | dsimp only

theorem execCellPowerLoss_keeps {P : Part → Prop} {s00 : State} {s : State} (hk : Keeps P s00 s) (c : Fin 12) (p : Fin 16)
    (p_cells : ¬ P .cells) :
    OutKeeps P s00 (execCellPowerLoss c p s) := by
  unfold execCellPowerLoss
  repeat' with_reducible first
    | assumption | apply p_cells | intro _ | apply OutKeeps.next | apply OutKeeps.dite | apply modCell_keeps

/-! Machine/Changes.lean. -/

theorem runCmd_keeps {P : Part → Prop} {s00 s : State} (hk : Keeps P s00 s) (q : Queued) (f : State → State × Res)
    (hf : ∀ s, Keeps P s00 s → Keeps P s00 (f s).1) (q_can : ∀ u, ¬ P (.tw u .can)) (p_host : ¬ P .host) (p_net : ¬ P .net) (q_net : ∀ u, ¬ P (.tw u .net)) (q_regs : ∀ u, ¬ P (.tw u .regs)) (q_xings : ∀ u, ¬ P (.tw u .xings)) :
    Keeps P s00 (runCmd q f s) := by
  have hr := hf _ (say_keeps (hostCnt_keeps hk R.HST_H_COMMANDS q.ctx q_regs) Rc.OK)
  unfold runCmd
  split
  · exact hk
  · dsimp only
    split
    · apply reply_keeps hr <;> assumption
    · apply replyWith_keeps hr <;> assumption
    · exact showCtx_keeps (modHost_keeps hr _ id p_host) _ q_regs
    · exact showCtx_keeps hr _ q_regs

theorem readEffect_keeps {P : Part → Prop} {s00 : State} {s : State} (hk : Keeps P s00 s) (t : Twin) (a : Nat) (q_can : ¬ P (.tw t .can)) (q_regs : ¬ P (.tw t .regs)) :
    Keeps P s00 (readEffect s t a) := by
  unfold readEffect
  try extract_lets
  repeat' with_reducible first | assumption | apply q_can | apply q_regs | intro _ | apply ctlRead_keeps | apply unlock_keeps | apply rcClear_keeps | apply Keeps.dite | split | dsimp only

theorem readGroup_keeps {P : Part → Prop} {s00 : State} {s : State} (hk : Keeps P s00 s) (t : Twin) (n a : Nat) (q_can : ¬ P (.tw t .can)) (q_regs : ¬ P (.tw t .regs)) :
    Keeps P s00 (readGroup t n a s).2 := by
  unfold readGroup
  try extract_lets
  repeat' with_reducible first | assumption | apply q_can | apply q_regs | intro _ | apply readEffect_keeps | apply Keeps.dite | apply Keeps.foldl | apply Keeps.foldl₁ | apply Keeps.foldl₂ | split | dsimp only

theorem readGroups_keeps {P : Part → Prop} {s00 s : State} (hk : Keeps P s00 s) (t : Twin) (g n a : Nat) (q_can : ¬ P (.tw t .can)) (q_regs : ¬ P (.tw t .regs)) :
    Keeps P s00 (readGroups t g n a s).2 := by
  induction g generalizing n a s with
  | zero => exact hk
  | succ g ih => exact ih (by apply readGroup_keeps hk <;> assumption) _ _

theorem readWords_keeps {P : Part → Prop} {s00 s : State} (hk : Keeps P s00 s) (t : Twin) (n a : Nat) (q_can : ¬ P (.tw t .can)) (q_regs : ¬ P (.tw t .regs)) :
    Keeps P s00 (readWords t n a s).2 := by
  unfold readWords; apply readGroups_keeps hk <;> assumption

theorem opRead_keeps {P : Part → Prop} {s00 : State} {s : State} (hk : Keeps P s00 s) (target count a : Nat) (q_can : ∀ u, ¬ P (.tw u .can)) (q_regs : ∀ u, ¬ P (.tw u .regs)) :
    Keeps P s00 (opRead target count a s).1 := by
  unfold opRead
  try extract_lets
  repeat' with_reducible first | assumption | apply q_can | apply q_regs | intro _ | apply readWords_keeps | apply sampleLive_keeps | apply Keeps.dite | split | refine Keeps.fields ?_ _ _ _ _ _ _ _ _ _ _ ?_ ?_ ?_ ?_ ?_ ?_ ?_ ?_ (fun k => k.cells) (fun k => k.ctx) | exact rfl | exact absurd ‹_› (by assumption) | dsimp only

theorem execRead_keeps {P : Part → Prop} {s00 : State} {s : State} (hk : Keeps P s00 s) (h : Fin 4) (target : Byte) (count : BitVec 16) (addr : W32) (q_can : ∀ u, ¬ P (.tw u .can)) (p_host : ¬ P .host) (p_net : ¬ P .net) (q_net : ∀ u, ¬ P (.tw u .net)) (q_regs : ∀ u, ¬ P (.tw u .regs)) (q_xings : ∀ u, ¬ P (.tw u .xings)) :
    OutKeeps P s00 (execRead h target count addr s) := by
  unfold execRead
  try extract_lets
  repeat' with_reducible first | assumption | apply q_can | apply p_host | apply p_net | apply q_net | apply q_regs | apply q_xings | intro _ | apply OutKeeps.next | apply OutKeeps.dite | apply runCmd_keeps | apply opRead_keeps | apply Keeps.dite | split | dsimp only

theorem runEntries_keeps {P : Part → Prop} {s00 s0 s : State} (hk0 : Keeps P s00 s0) (hk : Keeps P s00 s) (tg : Target)
    (h : Nat)
    (first : Bool) (es : List Entry) (q_adc : ∀ u, ¬ P (.tw u .adc)) (q_arr : ∀ u, ¬ P (.tw u .arr)) (q_can : ∀ u, ¬ P (.tw u .can)) (q_drv : ∀ u, ¬ P (.tw u .drv)) (p_edge : ¬ P .edge) (q_exps : ∀ u, ¬ P (.tw u .exps)) (q_flash : ∀ u, ¬ P (.tw u .flash)) (p_host : ¬ P .host) (p_ilk : ¬ P .ilk) (q_law : ∀ u, ¬ P (.tw u .law)) (p_life : ¬ P .life) (q_neg : ∀ u, ¬ P (.tw u .neg)) (p_net : ¬ P .net) (q_net : ∀ u, ¬ P (.tw u .net)) (q_ofs : ∀ u, ¬ P (.tw u .ofs)) (q_pwr : ∀ u, ¬ P (.tw u .pwr)) (q_queues : ∀ u, ¬ P (.tw u .queues)) (q_regs : ∀ u, ¬ P (.tw u .regs)) (q_rings : ∀ u, ¬ P (.tw u .rings)) (q_saf : ∀ u, ¬ P (.tw u .saf)) (p_sluice : ¬ P .sluice) (q_tb : ∀ u, ¬ P (.tw u .tb)) (q_tm : ∀ u, ¬ P (.tw u .tm)) (q_twn : ∀ u, ¬ P (.tw u .twn)) (q_upOld : ∀ u, ¬ P (.tw u .upOld)) (q_uplinks : ∀ u, ¬ P (.tw u .uplinks)) (q_xings : ∀ u, ¬ P (.tw u .xings)) :
    Keeps P s00 (runEntries tg h s0 first es s).1 := by
  induction es generalizing first s with
  | nil => exact hk
  | cons e r ih =>
    have hw : Keeps P s00 (writeEach (say s Rc.OK) tg h e.addr.toNat (fun t => entryValue s t e)) := by
      apply writeEach_keeps (say_keeps hk Rc.OK) <;> assumption
    simp only [runEntries]
    split
    · exact ih hw _
    · cases first
      · exact say_keeps hk0 _
      · exact hw

theorem judgeChange_keeps {P : Part → Prop} {s00 : State} {s : State} (hk : Keeps P s00 s) (tg : Target) (h : Nat) (es : List Entry) (q_adc : ∀ u, ¬ P (.tw u .adc)) (q_arr : ∀ u, ¬ P (.tw u .arr)) (q_can : ∀ u, ¬ P (.tw u .can)) (q_drv : ∀ u, ¬ P (.tw u .drv)) (p_edge : ¬ P .edge) (q_exps : ∀ u, ¬ P (.tw u .exps)) (q_flash : ∀ u, ¬ P (.tw u .flash)) (p_host : ¬ P .host) (p_ilk : ¬ P .ilk) (q_law : ∀ u, ¬ P (.tw u .law)) (p_life : ¬ P .life) (q_neg : ∀ u, ¬ P (.tw u .neg)) (p_net : ¬ P .net) (q_net : ∀ u, ¬ P (.tw u .net)) (q_ofs : ∀ u, ¬ P (.tw u .ofs)) (q_pwr : ∀ u, ¬ P (.tw u .pwr)) (q_queues : ∀ u, ¬ P (.tw u .queues)) (q_regs : ∀ u, ¬ P (.tw u .regs)) (q_rings : ∀ u, ¬ P (.tw u .rings)) (q_saf : ∀ u, ¬ P (.tw u .saf)) (p_sluice : ¬ P .sluice) (q_tb : ∀ u, ¬ P (.tw u .tb)) (q_tm : ∀ u, ¬ P (.tw u .tm)) (q_twn : ∀ u, ¬ P (.tw u .twn)) (q_upOld : ∀ u, ¬ P (.tw u .upOld)) (q_uplinks : ∀ u, ¬ P (.tw u .uplinks)) (q_xings : ∀ u, ¬ P (.tw u .xings)) :
    Keeps P s00 (judgeChange s tg h es).1 := by
  unfold judgeChange
  try extract_lets
  repeat' with_reducible first | assumption | apply q_adc | apply q_arr | apply q_can | apply q_drv | apply p_edge | apply q_exps | apply q_flash | apply p_host | apply p_ilk | apply q_law | apply p_life | apply q_neg | apply p_net | apply q_net | apply q_ofs | apply q_pwr | apply q_queues | apply q_regs | apply q_rings | apply q_saf | apply p_sluice | apply q_tb | apply q_tm | apply q_twn | apply q_upOld | apply q_uplinks | apply q_xings | intro _ | apply safetyConfirm_keeps | apply paramDevelop_keeps | apply dropPend_keeps | apply runEntries_keeps | apply Keeps.dite | split | dsimp only

theorem holdChange_keeps {P : Part → Prop} {s00 : State} {s : State} (hk : Keeps P s00 s) (q : Queued) (tg : Target) (n : Nat) (es : List Entry) (p : Option SafPend) (p_host : ¬ P .host) :
    Keeps P s00 (holdChange s q tg n es p).1 := by
  unfold holdChange
  try extract_lets
  repeat' with_reducible first | assumption | apply p_host | intro _ | apply modHost_keeps | exact id | apply Keeps.dite | split | dsimp only

theorem opChange_keeps {P : Part → Prop} {s00 : State} {s : State} (hk : Keeps P s00 s) (q : Queued) (target : Nat)
    (cycle : W32) (whole : Bool) (es : List Entry) (q_adc : ∀ u, ¬ P (.tw u .adc)) (q_arr : ∀ u, ¬ P (.tw u .arr))
    (q_can : ∀ u, ¬ P (.tw u .can)) (q_drv : ∀ u, ¬ P (.tw u .drv)) (p_edge : ¬ P .edge) (q_exps : ∀ u, ¬ P (.tw u .exps))
    (q_flash : ∀ u, ¬ P (.tw u .flash)) (p_host : ¬ P .host) (p_ilk : ¬ P .ilk) (q_law : ∀ u, ¬ P (.tw u .law))
    (p_life : ¬ P .life) (q_neg : ∀ u, ¬ P (.tw u .neg)) (p_net : ¬ P .net) (q_net : ∀ u, ¬ P (.tw u .net)) (q_ofs : ∀ u, ¬ P (.tw u .ofs))
    (q_pwr : ∀ u, ¬ P (.tw u .pwr)) (q_queues : ∀ u, ¬ P (.tw u .queues)) (q_regs : ∀ u, ¬ P (.tw u .regs))
    (q_rings : ∀ u, ¬ P (.tw u .rings)) (q_saf : ∀ u, ¬ P (.tw u .saf)) (p_sluice : ¬ P .sluice) (q_tb : ∀ u, ¬ P (.tw u .tb))
    (q_tm : ∀ u, ¬ P (.tw u .tm)) (q_twn : ∀ u, ¬ P (.tw u .twn)) (q_upOld : ∀ u, ¬ P (.tw u .upOld)) (q_uplinks : ∀ u, ¬ P (.tw u .uplinks))
    (q_xings : ∀ u, ¬ P (.tw u .xings)) :
    Keeps P s00 (opChange q target cycle whole es s).1 := by
  unfold opChange
  extract_lets
  repeat' with_reducible first
    | assumption | apply q_adc | apply q_arr | apply q_can | apply q_drv | apply p_edge | apply q_exps
    | apply q_flash | apply p_host | apply p_ilk | apply q_law | apply p_life | apply q_neg | apply p_net
    | apply q_net | apply q_ofs | apply q_pwr | apply q_queues | apply q_regs | apply q_rings | apply q_saf
    | apply p_sluice | apply q_tb | apply q_tm | apply q_twn | apply q_upOld | apply q_uplinks | apply q_xings
    | intro _ | apply paramWrite_keeps | apply judgeChange_keeps | apply holdChange_keeps | apply Keeps.dite | split
    | dsimp only

theorem opWrite_keeps {P : Part → Prop} {s00 : State} {s : State} (hk : Keeps P s00 s) (q : Queued) (target : Nat)
    (cycle addr : W32) (vs : List W32) (q_adc : ∀ u, ¬ P (.tw u .adc)) (q_arr : ∀ u, ¬ P (.tw u .arr)) (q_can : ∀ u, ¬ P (.tw u .can))
    (q_drv : ∀ u, ¬ P (.tw u .drv)) (p_edge : ¬ P .edge) (q_exps : ∀ u, ¬ P (.tw u .exps)) (q_flash : ∀ u, ¬ P (.tw u .flash))
    (p_host : ¬ P .host) (p_ilk : ¬ P .ilk) (q_law : ∀ u, ¬ P (.tw u .law)) (p_life : ¬ P .life) (q_neg : ∀ u, ¬ P (.tw u .neg))
    (p_net : ¬ P .net) (q_net : ∀ u, ¬ P (.tw u .net)) (q_ofs : ∀ u, ¬ P (.tw u .ofs)) (q_pwr : ∀ u, ¬ P (.tw u .pwr))
    (q_queues : ∀ u, ¬ P (.tw u .queues)) (q_regs : ∀ u, ¬ P (.tw u .regs)) (q_rings : ∀ u, ¬ P (.tw u .rings))
    (q_saf : ∀ u, ¬ P (.tw u .saf)) (p_sluice : ¬ P .sluice) (q_tb : ∀ u, ¬ P (.tw u .tb)) (q_tm : ∀ u, ¬ P (.tw u .tm))
    (q_twn : ∀ u, ¬ P (.tw u .twn)) (q_upOld : ∀ u, ¬ P (.tw u .upOld)) (q_uplinks : ∀ u, ¬ P (.tw u .uplinks))
    (q_xings : ∀ u, ¬ P (.tw u .xings)) :
    Keeps P s00 (opWrite q target cycle addr vs s).1 := by
  unfold opWrite
  repeat' with_reducible first
    | assumption | apply q_adc | apply q_arr | apply q_can | apply q_drv | apply p_edge | apply q_exps
    | apply q_flash | apply p_host | apply p_ilk | apply q_law | apply p_life | apply q_neg | apply p_net
    | apply q_net | apply q_ofs | apply q_pwr | apply q_queues | apply q_regs | apply q_rings | apply q_saf
    | apply p_sluice | apply q_tb | apply q_tm | apply q_twn | apply q_upOld | apply q_uplinks | apply q_xings
    | intro _ | apply opChange_keeps | apply Keeps.dite | split

theorem opChangeSet_keeps {P : Part → Prop} {s00 : State} {s : State} (hk : Keeps P s00 s) (q : Queued) (target : Nat)
    (cycle : W32) (es : List Entry) (q_adc : ∀ u, ¬ P (.tw u .adc)) (q_arr : ∀ u, ¬ P (.tw u .arr)) (q_can : ∀ u, ¬ P (.tw u .can))
    (q_drv : ∀ u, ¬ P (.tw u .drv)) (p_edge : ¬ P .edge) (q_exps : ∀ u, ¬ P (.tw u .exps)) (q_flash : ∀ u, ¬ P (.tw u .flash))
    (p_host : ¬ P .host) (p_ilk : ¬ P .ilk) (q_law : ∀ u, ¬ P (.tw u .law)) (p_life : ¬ P .life) (q_neg : ∀ u, ¬ P (.tw u .neg))
    (p_net : ¬ P .net) (q_net : ∀ u, ¬ P (.tw u .net)) (q_ofs : ∀ u, ¬ P (.tw u .ofs)) (q_pwr : ∀ u, ¬ P (.tw u .pwr))
    (q_queues : ∀ u, ¬ P (.tw u .queues)) (q_regs : ∀ u, ¬ P (.tw u .regs)) (q_rings : ∀ u, ¬ P (.tw u .rings))
    (q_saf : ∀ u, ¬ P (.tw u .saf)) (p_sluice : ¬ P .sluice) (q_tb : ∀ u, ¬ P (.tw u .tb)) (q_tm : ∀ u, ¬ P (.tw u .tm))
    (q_twn : ∀ u, ¬ P (.tw u .twn)) (q_upOld : ∀ u, ¬ P (.tw u .upOld)) (q_uplinks : ∀ u, ¬ P (.tw u .uplinks))
    (q_xings : ∀ u, ¬ P (.tw u .xings)) :
    Keeps P s00 (opChangeSet q target cycle es s).1 := by
  unfold opChangeSet
  repeat' with_reducible first
    | assumption | apply q_adc | apply q_arr | apply q_can | apply q_drv | apply p_edge | apply q_exps
    | apply q_flash | apply p_host | apply p_ilk | apply q_law | apply p_life | apply q_neg | apply p_net
    | apply q_net | apply q_ofs | apply q_pwr | apply q_queues | apply q_regs | apply q_rings | apply q_saf
    | apply p_sluice | apply q_tb | apply q_tm | apply q_twn | apply q_upOld | apply q_uplinks | apply q_xings
    | intro _ | apply opChange_keeps | apply Keeps.dite | split

theorem execWrite_keeps {P : Part → Prop} {s00 : State} {s : State} (hk : Keeps P s00 s) (h : Fin 4) (target : Byte) (cycle : W32) (asap waitDev : Bool) (addr : W32) (values : List W32) (q_adc : ∀ u, ¬ P (.tw u .adc)) (q_arr : ∀ u, ¬ P (.tw u .arr)) (q_can : ∀ u, ¬ P (.tw u .can)) (q_drv : ∀ u, ¬ P (.tw u .drv)) (p_edge : ¬ P .edge) (q_exps : ∀ u, ¬ P (.tw u .exps)) (q_flash : ∀ u, ¬ P (.tw u .flash)) (p_host : ¬ P .host) (p_ilk : ¬ P .ilk) (q_law : ∀ u, ¬ P (.tw u .law)) (p_life : ¬ P .life) (q_neg : ∀ u, ¬ P (.tw u .neg)) (p_net : ¬ P .net) (q_net : ∀ u, ¬ P (.tw u .net)) (q_ofs : ∀ u, ¬ P (.tw u .ofs)) (q_pwr : ∀ u, ¬ P (.tw u .pwr)) (q_queues : ∀ u, ¬ P (.tw u .queues)) (q_regs : ∀ u, ¬ P (.tw u .regs)) (q_rings : ∀ u, ¬ P (.tw u .rings)) (q_saf : ∀ u, ¬ P (.tw u .saf)) (p_sluice : ¬ P .sluice) (q_tb : ∀ u, ¬ P (.tw u .tb)) (q_tm : ∀ u, ¬ P (.tw u .tm)) (q_twn : ∀ u, ¬ P (.tw u .twn)) (q_upOld : ∀ u, ¬ P (.tw u .upOld)) (q_uplinks : ∀ u, ¬ P (.tw u .uplinks)) (q_xings : ∀ u, ¬ P (.tw u .xings)) :
    OutKeeps P s00 (execWrite h target cycle asap waitDev addr values s) := by
  unfold execWrite
  try extract_lets
  repeat' with_reducible first | assumption | apply q_adc | apply q_arr | apply q_can | apply q_drv | apply p_edge | apply q_exps | apply q_flash | apply p_host | apply p_ilk | apply q_law | apply p_life | apply q_neg | apply p_net | apply q_net | apply q_ofs | apply q_pwr | apply q_queues | apply q_regs | apply q_rings | apply q_saf | apply p_sluice | apply q_tb | apply q_tm | apply q_twn | apply q_upOld | apply q_uplinks | apply q_xings | intro _ | apply OutKeeps.next | apply OutKeeps.dite | apply runCmd_keeps | apply opWrite_keeps | apply Keeps.dite | split | dsimp only

theorem execModify_keeps {P : Part → Prop} {s00 : State} {s : State} (hk : Keeps P s00 s) (h : Fin 4) (target : Byte) (cycle : W32) (asap waitDev : Bool) (addr mask value : W32) (q_adc : ∀ u, ¬ P (.tw u .adc)) (q_arr : ∀ u, ¬ P (.tw u .arr)) (q_can : ∀ u, ¬ P (.tw u .can)) (q_drv : ∀ u, ¬ P (.tw u .drv)) (p_edge : ¬ P .edge) (q_exps : ∀ u, ¬ P (.tw u .exps)) (q_flash : ∀ u, ¬ P (.tw u .flash)) (p_host : ¬ P .host) (p_ilk : ¬ P .ilk) (q_law : ∀ u, ¬ P (.tw u .law)) (p_life : ¬ P .life) (q_neg : ∀ u, ¬ P (.tw u .neg)) (p_net : ¬ P .net) (q_net : ∀ u, ¬ P (.tw u .net)) (q_ofs : ∀ u, ¬ P (.tw u .ofs)) (q_pwr : ∀ u, ¬ P (.tw u .pwr)) (q_queues : ∀ u, ¬ P (.tw u .queues)) (q_regs : ∀ u, ¬ P (.tw u .regs)) (q_rings : ∀ u, ¬ P (.tw u .rings)) (q_saf : ∀ u, ¬ P (.tw u .saf)) (p_sluice : ¬ P .sluice) (q_tb : ∀ u, ¬ P (.tw u .tb)) (q_tm : ∀ u, ¬ P (.tw u .tm)) (q_twn : ∀ u, ¬ P (.tw u .twn)) (q_upOld : ∀ u, ¬ P (.tw u .upOld)) (q_uplinks : ∀ u, ¬ P (.tw u .uplinks)) (q_xings : ∀ u, ¬ P (.tw u .xings)) :
    OutKeeps P s00 (execModify h target cycle asap waitDev addr mask value s) := by
  unfold execModify
  try extract_lets
  repeat' with_reducible first | assumption | apply q_adc | apply q_arr | apply q_can | apply q_drv | apply p_edge | apply q_exps | apply q_flash | apply p_host | apply p_ilk | apply q_law | apply p_life | apply q_neg | apply p_net | apply q_net | apply q_ofs | apply q_pwr | apply q_queues | apply q_regs | apply q_rings | apply q_saf | apply p_sluice | apply q_tb | apply q_tm | apply q_twn | apply q_upOld | apply q_uplinks | apply q_xings | intro _ | apply OutKeeps.next | apply OutKeeps.dite | apply runCmd_keeps | apply opChange_keeps | apply Keeps.dite | split | dsimp only

theorem execChangeSet_keeps {P : Part → Prop} {s00 : State} {s : State} (hk : Keeps P s00 s) (h : Fin 4) (target : Byte) (cycle : W32) (asap waitDev : Bool) (entries : List Entry) (q_adc : ∀ u, ¬ P (.tw u .adc)) (q_arr : ∀ u, ¬ P (.tw u .arr)) (q_can : ∀ u, ¬ P (.tw u .can)) (q_drv : ∀ u, ¬ P (.tw u .drv)) (p_edge : ¬ P .edge) (q_exps : ∀ u, ¬ P (.tw u .exps)) (q_flash : ∀ u, ¬ P (.tw u .flash)) (p_host : ¬ P .host) (p_ilk : ¬ P .ilk) (q_law : ∀ u, ¬ P (.tw u .law)) (p_life : ¬ P .life) (q_neg : ∀ u, ¬ P (.tw u .neg)) (p_net : ¬ P .net) (q_net : ∀ u, ¬ P (.tw u .net)) (q_ofs : ∀ u, ¬ P (.tw u .ofs)) (q_pwr : ∀ u, ¬ P (.tw u .pwr)) (q_queues : ∀ u, ¬ P (.tw u .queues)) (q_regs : ∀ u, ¬ P (.tw u .regs)) (q_rings : ∀ u, ¬ P (.tw u .rings)) (q_saf : ∀ u, ¬ P (.tw u .saf)) (p_sluice : ¬ P .sluice) (q_tb : ∀ u, ¬ P (.tw u .tb)) (q_tm : ∀ u, ¬ P (.tw u .tm)) (q_twn : ∀ u, ¬ P (.tw u .twn)) (q_upOld : ∀ u, ¬ P (.tw u .upOld)) (q_uplinks : ∀ u, ¬ P (.tw u .uplinks)) (q_xings : ∀ u, ¬ P (.tw u .xings)) :
    OutKeeps P s00 (execChangeSet h target cycle asap waitDev entries s) := by
  unfold execChangeSet
  try extract_lets
  repeat' with_reducible first | assumption | apply q_adc | apply q_arr | apply q_can | apply q_drv | apply p_edge | apply q_exps | apply q_flash | apply p_host | apply p_ilk | apply q_law | apply p_life | apply q_neg | apply p_net | apply q_net | apply q_ofs | apply q_pwr | apply q_queues | apply q_regs | apply q_rings | apply q_saf | apply p_sluice | apply q_tb | apply q_tm | apply q_twn | apply q_upOld | apply q_uplinks | apply q_xings | intro _ | apply OutKeeps.next | apply OutKeeps.dite | apply runCmd_keeps | apply opChangeSet_keeps | apply Keeps.dite | split | dsimp only

theorem opCancel_keeps {P : Part → Prop} {s00 : State} {s : State} (hk : Keeps P s00 s) (q : Queued) (id : Nat) (q_can : ∀ u, ¬ P (.tw u .can)) (p_host : ¬ P .host) (p_net : ¬ P .net) (q_net : ∀ u, ¬ P (.tw u .net)) (q_regs : ∀ u, ¬ P (.tw u .regs)) (q_xings : ∀ u, ¬ P (.tw u .xings)) :
    Keeps P s00 (opCancel q id s).1 := by
  unfold opCancel
  try extract_lets
  repeat' with_reducible first | assumption | apply q_can | apply p_host | apply p_net | apply q_net | apply q_regs | apply q_xings | intro _ | apply dropChange_keeps | apply Keeps.dite | split | dsimp only

theorem execCancelChange_keeps {P : Part → Prop} {s00 : State} {s : State} (hk : Keeps P s00 s) (h : Fin 4) (id : BitVec 16) (q_can : ∀ u, ¬ P (.tw u .can)) (p_host : ¬ P .host) (p_net : ¬ P .net) (q_net : ∀ u, ¬ P (.tw u .net)) (q_regs : ∀ u, ¬ P (.tw u .regs)) (q_xings : ∀ u, ¬ P (.tw u .xings)) :
    OutKeeps P s00 (execCancelChange h id s) := by
  unfold execCancelChange
  try extract_lets
  repeat' with_reducible first | assumption | apply q_can | apply p_host | apply p_net | apply q_net | apply q_regs | apply q_xings | intro _ | apply OutKeeps.next | apply OutKeeps.dite | apply runCmd_keeps | apply opCancel_keeps | apply Keeps.dite | split | dsimp only

theorem opListChanges_keeps {P : Part → Prop} {s00 : State} {s : State} (hk : Keeps P s00 s) :
    Keeps P s00 (opListChanges s).1 := by
  unfold opListChanges
  extract_lets
  repeat' with_reducible assumption

theorem execListChanges_keeps {P : Part → Prop} {s00 : State} {s : State} (hk : Keeps P s00 s) (h : Fin 4) (q_can : ∀ u, ¬ P (.tw u .can)) (p_host : ¬ P .host) (p_net : ¬ P .net) (q_net : ∀ u, ¬ P (.tw u .net)) (q_regs : ∀ u, ¬ P (.tw u .regs)) (q_xings : ∀ u, ¬ P (.tw u .xings)) :
    OutKeeps P s00 (execListChanges h s) := by
  unfold execListChanges
  try extract_lets
  repeat' with_reducible first | assumption | apply q_can | apply p_host | apply p_net | apply q_net | apply q_regs | apply q_xings | intro _ | apply OutKeeps.next | apply OutKeeps.dite | apply runCmd_keeps | apply opListChanges_keeps | apply Keeps.dite | split | dsimp only

theorem putChange_keeps {P : Part → Prop} {s00 : State} {s : State} (hk : Keeps P s00 s) (c : Change) (p_host : ¬ P .host)
    :
    Keeps P s00 (putChange s c) := by
  unfold putChange
  repeat' with_reducible first | assumption | apply p_host | intro _ | apply modHost_keeps | exact id

theorem execChangeAgreed_keeps {P : Part → Prop} {s00 : State} {s : State} (hk : Keeps P s00 s) (id : BitVec 16) (q_can : ∀ u, ¬ P (.tw u .can)) (p_host : ¬ P .host) (p_net : ¬ P .net) (q_net : ∀ u, ¬ P (.tw u .net)) (q_regs : ∀ u, ¬ P (.tw u .regs)) (q_xings : ∀ u, ¬ P (.tw u .xings)) :
    OutKeeps P s00 (execChangeAgreed id s) := by
  unfold execChangeAgreed
  try extract_lets
  repeat' with_reducible first | assumption | apply q_can | apply p_host | apply p_net | apply q_net | apply q_regs | apply q_xings | intro _ | apply OutKeeps.next | apply OutKeeps.dite | apply putChange_keeps | apply reply_keeps | apply Keeps.dite | split | dsimp only

theorem developChange_keeps {P : Part → Prop} {s00 : State} {s : State} (hk : Keeps P s00 s) (c : Change) (q_adc : ∀ u, ¬ P (.tw u .adc))
    (q_arr : ∀ u, ¬ P (.tw u .arr)) (q_can : ∀ u, ¬ P (.tw u .can)) (q_drv : ∀ u, ¬ P (.tw u .drv)) (p_edge : ¬ P .edge)
    (q_exps : ∀ u, ¬ P (.tw u .exps)) (q_flash : ∀ u, ¬ P (.tw u .flash)) (p_host : ¬ P .host) (p_ilk : ¬ P .ilk)
    (q_law : ∀ u, ¬ P (.tw u .law)) (p_life : ¬ P .life) (q_neg : ∀ u, ¬ P (.tw u .neg)) (p_net : ¬ P .net) (q_net : ∀ u, ¬ P (.tw u .net))
    (q_ofs : ∀ u, ¬ P (.tw u .ofs)) (q_pwr : ∀ u, ¬ P (.tw u .pwr)) (q_queues : ∀ u, ¬ P (.tw u .queues)) (q_regs : ∀ u, ¬ P (.tw u .regs))
    (q_rings : ∀ u, ¬ P (.tw u .rings)) (q_saf : ∀ u, ¬ P (.tw u .saf)) (p_sluice : ¬ P .sluice) (q_tb : ∀ u, ¬ P (.tw u .tb))
    (q_tm : ∀ u, ¬ P (.tw u .tm)) (q_twn : ∀ u, ¬ P (.tw u .twn)) (q_upOld : ∀ u, ¬ P (.tw u .upOld)) (q_uplinks : ∀ u, ¬ P (.tw u .uplinks))
    (q_xings : ∀ u, ¬ P (.tw u .xings)) :
    Keeps P s00 (developChange s c).1 := by
  unfold developChange
  repeat' with_reducible first
    | assumption | apply q_adc | apply q_arr | apply q_can | apply q_drv | apply p_edge | apply q_exps
    | apply q_flash | apply p_host | apply p_ilk | apply q_law | apply p_life | apply q_neg | apply p_net
    | apply q_net | apply q_ofs | apply q_pwr | apply q_queues | apply q_regs | apply q_rings | apply q_saf
    | apply p_sluice | apply q_tb | apply q_tm | apply q_twn | apply q_upOld | apply q_uplinks | apply q_xings
    | intro _ | apply paramDevelop_keeps | apply say_keeps | apply runEntries_keeps | apply Keeps.dite | split
    | dsimp only

theorem devFailed_keeps {P : Part → Prop} {s00 : State} {s : State} (hk : Keeps P s00 s) (c : Change) (code : Nat)
    (q_regs : ∀ u, ¬ P (.tw u .regs)) :
    Keeps P s00 (devFailed s c code) := by
  unfold devFailed
  extract_lets
  repeat' with_reducible first
    | assumption | apply q_regs | intro _ | apply onLive_keeps | apply wf_keeps | apply ev_keeps

theorem tellOwners_keeps {P : Part → Prop} {s00 : State} {s : State} (hk : Keeps P s00 s) (c : Change) (q_regs : ∀ u, ¬ P (.tw u .regs))
    :
    Keeps P s00 (tellOwners s c) := by
  unfold tellOwners
  extract_lets
  repeat' with_reducible first
    | assumption | apply q_regs | intro _ | apply hostEv_keeps | apply Keeps.dite | apply Keeps.foldl

theorem answerDeveloped_keeps {P : Part → Prop} {s00 : State} {s0 : State} {s : State} (hk : Keeps P s00 s0) (hk1 : Keeps P s00 s) (c : Change) (q_can : ∀ u, ¬ P (.tw u .can)) (p_host : ¬ P .host) (p_net : ¬ P .net) (q_net : ∀ u, ¬ P (.tw u .net)) (q_regs : ∀ u, ¬ P (.tw u .regs)) (q_xings : ∀ u, ¬ P (.tw u .xings)) :
    Keeps P s00 (answerDeveloped s0 s c) := by
  unfold answerDeveloped
  try extract_lets
  repeat' with_reducible first | assumption | apply q_can | apply p_host | apply p_net | apply q_net | apply q_regs | apply q_xings | intro _ | apply reply_keeps | apply showCtx_keeps | apply modHost_keeps | exact id | apply Keeps.dite | split | dsimp only

theorem developOne_keeps {P : Part → Prop} {s00 : State} {s : State} (hk : Keeps P s00 s) (c : Change) (q_adc : ∀ u, ¬ P (.tw u .adc)) (q_arr : ∀ u, ¬ P (.tw u .arr)) (q_can : ∀ u, ¬ P (.tw u .can)) (q_drv : ∀ u, ¬ P (.tw u .drv)) (p_edge : ¬ P .edge) (q_exps : ∀ u, ¬ P (.tw u .exps)) (q_flash : ∀ u, ¬ P (.tw u .flash)) (p_host : ¬ P .host) (p_ilk : ¬ P .ilk) (q_law : ∀ u, ¬ P (.tw u .law)) (p_life : ¬ P .life) (q_neg : ∀ u, ¬ P (.tw u .neg)) (p_net : ¬ P .net) (q_net : ∀ u, ¬ P (.tw u .net)) (q_ofs : ∀ u, ¬ P (.tw u .ofs)) (q_pwr : ∀ u, ¬ P (.tw u .pwr)) (q_queues : ∀ u, ¬ P (.tw u .queues)) (q_regs : ∀ u, ¬ P (.tw u .regs)) (q_rings : ∀ u, ¬ P (.tw u .rings)) (q_saf : ∀ u, ¬ P (.tw u .saf)) (p_sluice : ¬ P .sluice) (q_tb : ∀ u, ¬ P (.tw u .tb)) (q_tm : ∀ u, ¬ P (.tw u .tm)) (q_twn : ∀ u, ¬ P (.tw u .twn)) (q_upOld : ∀ u, ¬ P (.tw u .upOld)) (q_uplinks : ∀ u, ¬ P (.tw u .uplinks)) (q_xings : ∀ u, ¬ P (.tw u .xings)) :
    Keeps P s00 (developOne s c) := by
  unfold developOne
  dsimp only
  repeat' with_reducible first | assumption | apply q_adc | apply q_arr | apply q_can | apply q_drv | apply p_edge | apply q_exps | apply q_flash | apply p_host | apply p_ilk | apply q_law | apply p_life | apply q_neg | apply p_net | apply q_net | apply q_ofs | apply q_pwr | apply q_queues | apply q_regs | apply q_rings | apply q_saf | apply p_sluice | apply q_tb | apply q_tm | apply q_twn | apply q_upOld | apply q_uplinks | apply q_xings | intro _ | apply developChange_keeps | apply modHost_keeps | apply devFailed_keeps | apply tellOwners_keeps | apply showCtx_keeps | apply reply_keeps | apply answerDeveloped_keeps | exact id | apply Keeps.dite | split | dsimp only

theorem developById_keeps {P : Part → Prop} {s00 : State} {s : State} (hk : Keeps P s00 s) (id : Nat) (q_adc : ∀ u, ¬ P (.tw u .adc)) (q_arr : ∀ u, ¬ P (.tw u .arr)) (q_can : ∀ u, ¬ P (.tw u .can)) (q_drv : ∀ u, ¬ P (.tw u .drv)) (p_edge : ¬ P .edge) (q_exps : ∀ u, ¬ P (.tw u .exps)) (q_flash : ∀ u, ¬ P (.tw u .flash)) (p_host : ¬ P .host) (p_ilk : ¬ P .ilk) (q_law : ∀ u, ¬ P (.tw u .law)) (p_life : ¬ P .life) (q_neg : ∀ u, ¬ P (.tw u .neg)) (p_net : ¬ P .net) (q_net : ∀ u, ¬ P (.tw u .net)) (q_ofs : ∀ u, ¬ P (.tw u .ofs)) (q_pwr : ∀ u, ¬ P (.tw u .pwr)) (q_queues : ∀ u, ¬ P (.tw u .queues)) (q_regs : ∀ u, ¬ P (.tw u .regs)) (q_rings : ∀ u, ¬ P (.tw u .rings)) (q_saf : ∀ u, ¬ P (.tw u .saf)) (p_sluice : ¬ P .sluice) (q_tb : ∀ u, ¬ P (.tw u .tb)) (q_tm : ∀ u, ¬ P (.tw u .tm)) (q_twn : ∀ u, ¬ P (.tw u .twn)) (q_upOld : ∀ u, ¬ P (.tw u .upOld)) (q_uplinks : ∀ u, ¬ P (.tw u .uplinks)) (q_xings : ∀ u, ¬ P (.tw u .xings)) :
    Keeps P s00 (developById s id) := by
  unfold developById
  try extract_lets
  repeat' with_reducible first | assumption | apply q_adc | apply q_arr | apply q_can | apply q_drv | apply p_edge | apply q_exps | apply q_flash | apply p_host | apply p_ilk | apply q_law | apply p_life | apply q_neg | apply p_net | apply q_net | apply q_ofs | apply q_pwr | apply q_queues | apply q_regs | apply q_rings | apply q_saf | apply p_sluice | apply q_tb | apply q_tm | apply q_twn | apply q_upOld | apply q_uplinks | apply q_xings | intro _ | apply developOne_keeps | apply Keeps.dite | split | dsimp only

theorem execChangeDevelop_keeps {P : Part → Prop} {s00 : State} {s : State} (hk : Keeps P s00 s) (id : BitVec 16) (q_adc : ∀ u, ¬ P (.tw u .adc)) (q_arr : ∀ u, ¬ P (.tw u .arr)) (q_can : ∀ u, ¬ P (.tw u .can)) (q_drv : ∀ u, ¬ P (.tw u .drv)) (p_edge : ¬ P .edge) (q_exps : ∀ u, ¬ P (.tw u .exps)) (q_flash : ∀ u, ¬ P (.tw u .flash)) (p_host : ¬ P .host) (p_ilk : ¬ P .ilk) (q_law : ∀ u, ¬ P (.tw u .law)) (p_life : ¬ P .life) (q_neg : ∀ u, ¬ P (.tw u .neg)) (p_net : ¬ P .net) (q_net : ∀ u, ¬ P (.tw u .net)) (q_ofs : ∀ u, ¬ P (.tw u .ofs)) (q_pwr : ∀ u, ¬ P (.tw u .pwr)) (q_queues : ∀ u, ¬ P (.tw u .queues)) (q_regs : ∀ u, ¬ P (.tw u .regs)) (q_rings : ∀ u, ¬ P (.tw u .rings)) (q_saf : ∀ u, ¬ P (.tw u .saf)) (p_sluice : ¬ P .sluice) (q_tb : ∀ u, ¬ P (.tw u .tb)) (q_tm : ∀ u, ¬ P (.tw u .tm)) (q_twn : ∀ u, ¬ P (.tw u .twn)) (q_upOld : ∀ u, ¬ P (.tw u .upOld)) (q_uplinks : ∀ u, ¬ P (.tw u .uplinks)) (q_xings : ∀ u, ¬ P (.tw u .xings)) :
    OutKeeps P s00 (execChangeDevelop id s) := by
  unfold execChangeDevelop
  try extract_lets
  repeat' with_reducible first | assumption | apply q_adc | apply q_arr | apply q_can | apply q_drv | apply p_edge | apply q_exps | apply q_flash | apply p_host | apply p_ilk | apply q_law | apply p_life | apply q_neg | apply p_net | apply q_net | apply q_ofs | apply q_pwr | apply q_queues | apply q_regs | apply q_rings | apply q_saf | apply p_sluice | apply q_tb | apply q_tm | apply q_twn | apply q_upOld | apply q_uplinks | apply q_xings | intro _ | apply OutKeeps.next | apply OutKeeps.dite | apply developById_keeps | apply Keeps.dite | apply Keeps.foldl | apply Keeps.foldl₁ | apply Keeps.foldl₂ | split | dsimp only

theorem takeOne_keeps {P : Part → Prop} {s00 : State} {s : State} (hk : Keeps P s00 s) (h : Nat) (force : Bool) (g : Nat) (q_can : ∀ u, ¬ P (.tw u .can)) (p_host : ¬ P .host) (p_net : ¬ P .net) (q_net : ∀ u, ¬ P (.tw u .net)) (q_regs : ∀ u, ¬ P (.tw u .regs)) (q_xings : ∀ u, ¬ P (.tw u .xings)) :
    Keeps P s00 (takeOne h force s g) := by
  unfold takeOne
  try extract_lets
  repeat' with_reducible first | assumption | apply q_can | apply p_host | apply p_net | apply q_net | apply q_regs | apply q_xings | intro _ | apply setOwner_keeps | apply loseGroups_keeps | apply Keeps.dite | split | dsimp only

theorem opTake_keeps {P : Part → Prop} {s00 : State} {s : State} (hk : Keeps P s00 s) (h groups : Nat) (force : Bool) (q_can : ∀ u, ¬ P (.tw u .can)) (p_host : ¬ P .host) (p_net : ¬ P .net) (q_net : ∀ u, ¬ P (.tw u .net)) (q_regs : ∀ u, ¬ P (.tw u .regs)) (q_xings : ∀ u, ¬ P (.tw u .xings)) :
    Keeps P s00 (opTake h groups force s).1 := by
  unfold opTake
  try extract_lets
  repeat' with_reducible first | assumption | apply q_can | apply p_host | apply p_net | apply q_net | apply q_regs | apply q_xings | intro _ | apply takeOne_keeps | apply showCtx_keeps | apply Keeps.dite | apply Keeps.foldl | apply Keeps.foldl₁ | apply Keeps.foldl₂ | split | dsimp only

theorem execTake_keeps {P : Part → Prop} {s00 : State} {s : State} (hk : Keeps P s00 s) (h : Fin 4) (groups force : Byte) (q_can : ∀ u, ¬ P (.tw u .can)) (p_host : ¬ P .host) (p_net : ¬ P .net) (q_net : ∀ u, ¬ P (.tw u .net)) (q_regs : ∀ u, ¬ P (.tw u .regs)) (q_xings : ∀ u, ¬ P (.tw u .xings)) :
    OutKeeps P s00 (execTake h groups force s) := by
  unfold execTake
  try extract_lets
  repeat' with_reducible first | assumption | apply q_can | apply p_host | apply p_net | apply q_net | apply q_regs | apply q_xings | intro _ | apply OutKeeps.next | apply OutKeeps.dite | apply runCmd_keeps | apply opTake_keeps | apply Keeps.dite | split | dsimp only

theorem opRelease_keeps {P : Part → Prop} {s00 : State} {s : State} (hk : Keeps P s00 s) (h groups : Nat) (q_regs : ∀ u, ¬ P (.tw u .regs))
    :
    Keeps P s00 (opRelease h groups s).1 := by
  unfold opRelease
  extract_lets
  repeat' with_reducible first
    | assumption | apply q_regs | intro _ | apply showCtx_keeps | apply setOwner_keeps | apply Keeps.dite
    | apply Keeps.foldl

theorem execRelease_keeps {P : Part → Prop} {s00 : State} {s : State} (hk : Keeps P s00 s) (h : Fin 4) (groups : Byte) (q_can : ∀ u, ¬ P (.tw u .can)) (p_host : ¬ P .host) (p_net : ¬ P .net) (q_net : ∀ u, ¬ P (.tw u .net)) (q_regs : ∀ u, ¬ P (.tw u .regs)) (q_xings : ∀ u, ¬ P (.tw u .xings)) :
    OutKeeps P s00 (execRelease h groups s) := by
  unfold execRelease
  try extract_lets
  repeat' with_reducible first | assumption | apply q_can | apply p_host | apply p_net | apply q_net | apply q_regs | apply q_xings | intro _ | apply OutKeeps.next | apply OutKeeps.dite | apply runCmd_keeps | apply opRelease_keeps | apply Keeps.dite | split | dsimp only

theorem opOwners_keeps {P : Part → Prop} {s00 : State} {s : State} (hk : Keeps P s00 s) :
    Keeps P s00 (opOwners s).1 := by
  unfold opOwners
  repeat' with_reducible assumption

theorem execOwners_keeps {P : Part → Prop} {s00 : State} {s : State} (hk : Keeps P s00 s) (h : Fin 4) (q_can : ∀ u, ¬ P (.tw u .can)) (p_host : ¬ P .host) (p_net : ¬ P .net) (q_net : ∀ u, ¬ P (.tw u .net)) (q_regs : ∀ u, ¬ P (.tw u .regs)) (q_xings : ∀ u, ¬ P (.tw u .xings)) :
    OutKeeps P s00 (execOwners h s) := by
  unfold execOwners
  try extract_lets
  repeat' with_reducible first | assumption | apply q_can | apply p_host | apply p_net | apply q_net | apply q_regs | apply q_xings | intro _ | apply OutKeeps.next | apply OutKeeps.dite | apply runCmd_keeps | apply opOwners_keeps | apply Keeps.dite | split | dsimp only

theorem execLeaseLapse_keeps {P : Part → Prop} {s00 : State} {s : State} (hk : Keeps P s00 s) (h : Fin 4) (q_can : ∀ u, ¬ P (.tw u .can)) (p_host : ¬ P .host) (p_net : ¬ P .net) (q_net : ∀ u, ¬ P (.tw u .net)) (q_regs : ∀ u, ¬ P (.tw u .regs)) (q_xings : ∀ u, ¬ P (.tw u .xings)) :
    OutKeeps P s00 (execLeaseLapse h s) := by
  unfold execLeaseLapse
  try extract_lets
  repeat' with_reducible first | assumption | apply q_can | apply p_host | apply p_net | apply q_net | apply q_regs | apply q_xings | intro _ | apply OutKeeps.next | apply OutKeeps.dite | apply lapse_keeps | apply Keeps.dite | split | dsimp only

theorem execNop_keeps {P : Part → Prop} {s00 : State} {s : State} (hk : Keeps P s00 s) (h : Fin 4) (q_can : ∀ u, ¬ P (.tw u .can)) (p_host : ¬ P .host) (p_net : ¬ P .net) (q_net : ∀ u, ¬ P (.tw u .net)) (q_regs : ∀ u, ¬ P (.tw u .regs)) (q_xings : ∀ u, ¬ P (.tw u .xings)) :
    OutKeeps P s00 (execNop h s) := by
  unfold execNop
  try extract_lets
  repeat' with_reducible first | assumption | apply q_can | apply p_host | apply p_net | apply q_net | apply q_regs | apply q_xings | intro _ | apply OutKeeps.next | apply OutKeeps.dite | apply runCmd_keeps | apply Keeps.dite | split | dsimp only

theorem opIdentify_keeps {P : Part → Prop} {s00 : State} {s : State} (hk : Keeps P s00 s) :
    Keeps P s00 (opIdentify s).1 := by
  unfold opIdentify
  extract_lets
  repeat' with_reducible assumption

theorem execIdentify_keeps {P : Part → Prop} {s00 : State} {s : State} (hk : Keeps P s00 s) (h : Fin 4) (q_can : ∀ u, ¬ P (.tw u .can)) (p_host : ¬ P .host) (p_net : ¬ P .net) (q_net : ∀ u, ¬ P (.tw u .net)) (q_regs : ∀ u, ¬ P (.tw u .regs)) (q_xings : ∀ u, ¬ P (.tw u .xings)) :
    OutKeeps P s00 (execIdentify h s) := by
  unfold execIdentify
  try extract_lets
  repeat' with_reducible first | assumption | apply q_can | apply p_host | apply p_net | apply q_net | apply q_regs | apply q_xings | intro _ | apply OutKeeps.next | apply OutKeeps.dite | apply runCmd_keeps | apply opIdentify_keeps | apply Keeps.dite | split | dsimp only

theorem opStatus_keeps {P : Part → Prop} {s00 : State} {s : State} (hk : Keeps P s00 s) :
    Keeps P s00 (opStatus s).1 := by
  unfold opStatus
  extract_lets
  repeat' with_reducible assumption

theorem execStatus_keeps {P : Part → Prop} {s00 : State} {s : State} (hk : Keeps P s00 s) (h : Fin 4) (q_can : ∀ u, ¬ P (.tw u .can)) (p_host : ¬ P .host) (p_net : ¬ P .net) (q_net : ∀ u, ¬ P (.tw u .net)) (q_regs : ∀ u, ¬ P (.tw u .regs)) (q_xings : ∀ u, ¬ P (.tw u .xings)) :
    OutKeeps P s00 (execStatus h s) := by
  unfold execStatus
  try extract_lets
  repeat' with_reducible first | assumption | apply q_can | apply p_host | apply p_net | apply q_net | apply q_regs | apply q_xings | intro _ | apply OutKeeps.next | apply OutKeeps.dite | apply runCmd_keeps | apply opStatus_keeps | apply Keeps.dite | split | dsimp only

theorem opCredits_keeps {P : Part → Prop} {s00 : State} {s : State} (hk : Keeps P s00 s) (h : Nat) :
    Keeps P s00 (opCredits h s).1 := by
  unfold opCredits
  repeat' with_reducible assumption

theorem execCredits_keeps {P : Part → Prop} {s00 : State} {s : State} (hk : Keeps P s00 s) (h : Fin 4) (q_can : ∀ u, ¬ P (.tw u .can)) (p_host : ¬ P .host) (p_net : ¬ P .net) (q_net : ∀ u, ¬ P (.tw u .net)) (q_regs : ∀ u, ¬ P (.tw u .regs)) (q_xings : ∀ u, ¬ P (.tw u .xings)) :
    OutKeeps P s00 (execCredits h s) := by
  unfold execCredits
  try extract_lets
  repeat' with_reducible first | assumption | apply q_can | apply p_host | apply p_net | apply q_net | apply q_regs | apply q_xings | intro _ | apply OutKeeps.next | apply OutKeeps.dite | apply runCmd_keeps | apply opCredits_keeps | apply Keeps.dite | split | dsimp only

theorem opEvents_keeps {P : Part → Prop} {s00 : State} {s : State} (hk : Keeps P s00 s) :
    Keeps P s00 (opEvents s).1 := by
  unfold opEvents
  repeat' with_reducible assumption

theorem execEvents_keeps {P : Part → Prop} {s00 : State} {s : State} (hk : Keeps P s00 s) (h : Fin 4) (q_can : ∀ u, ¬ P (.tw u .can)) (p_host : ¬ P .host) (p_net : ¬ P .net) (q_net : ∀ u, ¬ P (.tw u .net)) (q_regs : ∀ u, ¬ P (.tw u .regs)) (q_xings : ∀ u, ¬ P (.tw u .xings)) :
    OutKeeps P s00 (execEvents h s) := by
  unfold execEvents
  try extract_lets
  repeat' with_reducible first | assumption | apply q_can | apply p_host | apply p_net | apply q_net | apply q_regs | apply q_xings | intro _ | apply OutKeeps.next | apply OutKeeps.dite | apply runCmd_keeps | apply opEvents_keeps | apply Keeps.dite | split | dsimp only

theorem opReport_keeps {P : Part → Prop} {s00 : State} {s : State} (hk : Keeps P s00 s) (twin first count : Nat) :
    Keeps P s00 (opReport twin first count s).1 := by
  unfold opReport
  extract_lets
  repeat' with_reducible first | assumption | intro _ | apply Keeps.dite | split

theorem execReport_keeps {P : Part → Prop} {s00 : State} {s : State} (hk : Keeps P s00 s) (h : Fin 4) (twin first count : Byte) (q_can : ∀ u, ¬ P (.tw u .can)) (p_host : ¬ P .host) (p_net : ¬ P .net) (q_net : ∀ u, ¬ P (.tw u .net)) (q_regs : ∀ u, ¬ P (.tw u .regs)) (q_xings : ∀ u, ¬ P (.tw u .xings)) :
    OutKeeps P s00 (execReport h twin first count s) := by
  unfold execReport
  try extract_lets
  repeat' with_reducible first | assumption | apply q_can | apply p_host | apply p_net | apply q_net | apply q_regs | apply q_xings | intro _ | apply OutKeeps.next | apply OutKeeps.dite | apply runCmd_keeps | apply opReport_keeps | apply Keeps.dite | split | dsimp only

/-! Machine/HostFlash.lean. -/

theorem keyRoll_keeps {P : Part → Prop} {s00 : State} {s : State} (hk : Keeps P s00 s) (q : Queued) (salt : BitVec 128) (flashOk : Bool) (q_flash : ∀ u, ¬ P (.tw u .flash)) (p_host : ¬ P .host) (q_regs : ∀ u, ¬ P (.tw u .regs)) :
    Keeps P s00 (keyRoll s q salt flashOk) := by
  unfold keyRoll
  try extract_lets
  repeat' with_reducible first | assumption | apply q_flash | apply p_host | apply q_regs | intro _ | apply say_keeps | apply onBoth_keeps | apply modFlash_keeps | apply modCtx_keeps | apply onLive_keeps | apply wf_keeps | apply wr_keeps | apply hostEv_keeps | apply Keeps.dite | split | dsimp only

theorem opKeyRoll_keeps {P : Part → Prop} {s00 : State} {s : State} (hk : Keeps P s00 s) (q : Queued) (salt : BitVec 128) (flashOk : Bool) (q_flash : ∀ u, ¬ P (.tw u .flash)) (p_host : ¬ P .host) (q_regs : ∀ u, ¬ P (.tw u .regs)) (p_sluice : ¬ P .sluice) :
    Keeps P s00 (opKeyRoll q salt flashOk s).1 := by
  unfold opKeyRoll
  try extract_lets
  repeat' with_reducible first | assumption | apply q_flash | apply p_host | apply q_regs | apply p_sluice | intro _ | apply leaveAsk_keeps | apply keyRoll_keeps | apply leaveEndFor_keeps | apply Keeps.dite | split | dsimp only

theorem execKeyRoll_keeps {P : Part → Prop} {s00 : State} {s : State} (hk : Keeps P s00 s) (h : Fin 4) (salt : BitVec 128) (flashOk : Bool) (q_can : ∀ u, ¬ P (.tw u .can)) (q_flash : ∀ u, ¬ P (.tw u .flash)) (p_host : ¬ P .host) (p_net : ¬ P .net) (q_net : ∀ u, ¬ P (.tw u .net)) (q_regs : ∀ u, ¬ P (.tw u .regs)) (p_sluice : ¬ P .sluice) (q_xings : ∀ u, ¬ P (.tw u .xings)) :
    OutKeeps P s00 (execKeyRoll h salt flashOk s) := by
  unfold execKeyRoll
  try extract_lets
  repeat' with_reducible first | assumption | apply q_can | apply q_flash | apply p_host | apply p_net | apply q_net | apply q_regs | apply p_sluice | apply q_xings | intro _ | apply OutKeeps.next | apply OutKeeps.dite | apply runCmd_keeps | apply opKeyRoll_keeps | apply Keeps.dite | split | dsimp only

theorem execKeyRollGraceEnd_keeps {P : Part → Prop} {s00 : State} {s : State} (hk : Keeps P s00 s) (h : Fin 4) (p_host : ¬ P .host) :
    OutKeeps P s00 (execKeyRollGraceEnd h s) := by
  unfold execKeyRollGraceEnd
  try extract_lets
  repeat' with_reducible first | assumption | apply p_host | intro _ | apply OutKeeps.next | apply OutKeeps.dite | apply modCtx_keeps | apply Keeps.dite | split | dsimp only

theorem sessionEnd_keeps {P : Part → Prop} {s00 : State} {s : State} (hk : Keeps P s00 s) (t : Twin) (q_flash : ¬ P (.tw t .flash))
    (q_regs : ∀ u, ¬ P (.tw u .regs)) (p_sluice : ¬ P .sluice) :
    Keeps P s00 (sessionEnd s t) := by
  unfold sessionEnd
  extract_lets
  repeat' with_reducible first
    | assumption | apply q_flash | apply q_regs | apply p_sluice | intro _ | apply modFlash_keeps
    | apply leaveEndFor_keeps

theorem opFlashOpen_keeps {P : Part → Prop} {s00 : State} {s : State} (hk : Keeps P s00 s) (q : Queued) (twin ty len : Nat) (q_flash : ∀ u, ¬ P (.tw u .flash)) (q_regs : ∀ u, ¬ P (.tw u .regs)) (p_sluice : ¬ P .sluice) :
    Keeps P s00 (opFlashOpen q twin ty len s).1 := by
  unfold opFlashOpen
  try extract_lets
  repeat' with_reducible first | assumption | apply q_flash | apply q_regs | apply p_sluice | intro _ | apply leaveAsk_keeps | apply modFlash_keeps | apply Keeps.dite | split | dsimp only

theorem execFlashOpen_keeps {P : Part → Prop} {s00 : State} {s : State} (hk : Keeps P s00 s) (h : Fin 4) (twin type : Byte) (length : W32) (q_can : ∀ u, ¬ P (.tw u .can)) (q_flash : ∀ u, ¬ P (.tw u .flash)) (p_host : ¬ P .host) (p_net : ¬ P .net) (q_net : ∀ u, ¬ P (.tw u .net)) (q_regs : ∀ u, ¬ P (.tw u .regs)) (p_sluice : ¬ P .sluice) (q_xings : ∀ u, ¬ P (.tw u .xings)) :
    OutKeeps P s00 (execFlashOpen h twin type length s) := by
  unfold execFlashOpen
  try extract_lets
  repeat' with_reducible first | assumption | apply q_can | apply q_flash | apply p_host | apply p_net | apply q_net | apply q_regs | apply p_sluice | apply q_xings | intro _ | apply OutKeeps.next | apply OutKeeps.dite | apply runCmd_keeps | apply opFlashOpen_keeps | apply Keeps.dite | split | dsimp only

theorem opFlashWrite_keeps {P : Part → Prop} {s00 : State} {s : State} (hk : Keeps P s00 s) (h id off : Nat) (d : List Byte)
    (q_flash : ∀ u, ¬ P (.tw u .flash)) :
    Keeps P s00 (opFlashWrite h id off d s).1 := by
  unfold opFlashWrite
  extract_lets
  repeat' with_reducible first
    | assumption | apply q_flash | intro _ | apply modFlash_keeps | apply Keeps.dite | apply Keeps.foldl
    | apply Keeps.foldl₁ | apply Keeps.foldl₂ | split

theorem execFlashWrite_keeps {P : Part → Prop} {s00 : State} {s : State} (hk : Keeps P s00 s) (h : Fin 4) (session : BitVec 16) (offset : W32) (data : List Byte) (q_can : ∀ u, ¬ P (.tw u .can)) (q_flash : ∀ u, ¬ P (.tw u .flash)) (p_host : ¬ P .host) (p_net : ¬ P .net) (q_net : ∀ u, ¬ P (.tw u .net)) (q_regs : ∀ u, ¬ P (.tw u .regs)) (q_xings : ∀ u, ¬ P (.tw u .xings)) :
    OutKeeps P s00 (execFlashWrite h session offset data s) := by
  unfold execFlashWrite
  try extract_lets
  repeat' with_reducible first | assumption | apply q_can | apply q_flash | apply p_host | apply p_net | apply q_net | apply q_regs | apply q_xings | intro _ | apply OutKeeps.next | apply OutKeeps.dite | apply runCmd_keeps | apply opFlashWrite_keeps | apply Keeps.dite | split | dsimp only

theorem opFlashClose_keeps {P : Part → Prop} {s00 : State} {s : State} (hk : Keeps P s00 s) (h id : Nat) (q_flash : ∀ u, ¬ P (.tw u .flash)) (q_regs : ∀ u, ¬ P (.tw u .regs)) (p_sluice : ¬ P .sluice) :
    Keeps P s00 (opFlashClose h id s).1 := by
  unfold opFlashClose
  try extract_lets
  repeat' with_reducible first | assumption | apply q_flash | apply q_regs | apply p_sluice | intro _ | apply recordRefusal_keeps | apply modFlash_keeps | apply sessionEnd_keeps | apply Keeps.dite | split | dsimp only

theorem execFlashClose_keeps {P : Part → Prop} {s00 : State} {s : State} (hk : Keeps P s00 s) (h : Fin 4) (session : BitVec 16) (q_can : ∀ u, ¬ P (.tw u .can)) (q_flash : ∀ u, ¬ P (.tw u .flash)) (p_host : ¬ P .host) (p_net : ¬ P .net) (q_net : ∀ u, ¬ P (.tw u .net)) (q_regs : ∀ u, ¬ P (.tw u .regs)) (p_sluice : ¬ P .sluice) (q_xings : ∀ u, ¬ P (.tw u .xings)) :
    OutKeeps P s00 (execFlashClose h session s) := by
  unfold execFlashClose
  try extract_lets
  repeat' with_reducible first | assumption | apply q_can | apply q_flash | apply p_host | apply p_net | apply q_net | apply q_regs | apply p_sluice | apply q_xings | intro _ | apply OutKeeps.next | apply OutKeeps.dite | apply runCmd_keeps | apply opFlashClose_keeps | apply Keeps.dite | split | dsimp only

theorem opFlashAbort_keeps {P : Part → Prop} {s00 : State} {s : State} (hk : Keeps P s00 s) (h id : Nat) (q_flash : ∀ u, ¬ P (.tw u .flash))
    (q_regs : ∀ u, ¬ P (.tw u .regs)) (p_sluice : ¬ P .sluice) :
    Keeps P s00 (opFlashAbort h id s).1 := by
  unfold opFlashAbort
  extract_lets
  repeat' with_reducible first
    | assumption | apply q_flash | apply q_regs | apply p_sluice | intro _ | apply sessionEnd_keeps
    | apply Keeps.dite | split

theorem execFlashAbort_keeps {P : Part → Prop} {s00 : State} {s : State} (hk : Keeps P s00 s) (h : Fin 4) (session : BitVec 16) (q_can : ∀ u, ¬ P (.tw u .can)) (q_flash : ∀ u, ¬ P (.tw u .flash)) (p_host : ¬ P .host) (p_net : ¬ P .net) (q_net : ∀ u, ¬ P (.tw u .net)) (q_regs : ∀ u, ¬ P (.tw u .regs)) (p_sluice : ¬ P .sluice) (q_xings : ∀ u, ¬ P (.tw u .xings)) :
    OutKeeps P s00 (execFlashAbort h session s) := by
  unfold execFlashAbort
  try extract_lets
  repeat' with_reducible first | assumption | apply q_can | apply q_flash | apply p_host | apply p_net | apply q_net | apply q_regs | apply p_sluice | apply q_xings | intro _ | apply OutKeeps.next | apply OutKeeps.dite | apply runCmd_keeps | apply opFlashAbort_keeps | apply Keeps.dite | split | dsimp only

theorem execFlashSessionTimeout_keeps {P : Part → Prop} {s00 : State} {s : State} (hk : Keeps P s00 s) (t : Twin)
    (q_flash : ¬ P (.tw t .flash)) (q_regs : ∀ u, ¬ P (.tw u .regs)) (p_sluice : ¬ P .sluice) :
    OutKeeps P s00 (execFlashSessionTimeout t s) := by
  unfold execFlashSessionTimeout
  repeat' with_reducible first
    | assumption | apply q_flash | apply q_regs | apply p_sluice | intro _ | apply OutKeeps.next
    | apply OutKeeps.dite | apply sessionEnd_keeps | apply Keeps.dite

theorem opUpdate_keeps {P : Part → Prop} {s00 : State} {s : State} (hk : Keeps P s00 s) (h : Nat) (p_edge : ¬ P .edge) (q_flash : ∀ u, ¬ P (.tw u .flash)) (p_ilk : ¬ P .ilk) (p_net : ¬ P .net) (q_regs : ∀ u, ¬ P (.tw u .regs)) (q_twn : ∀ u, ¬ P (.tw u .twn)) :
    Keeps P s00 (opUpdate h s).1 := by
  unfold opUpdate
  try extract_lets
  repeat' with_reducible first | assumption | apply p_edge | apply q_flash | apply p_ilk | apply p_net | apply q_regs | apply q_twn | intro _ | apply withdraw_keeps | apply Keeps.dite | split | dsimp only

theorem execUpdate_keeps {P : Part → Prop} {s00 : State} {s : State} (hk : Keeps P s00 s) (h : Fin 4) (q_can : ∀ u, ¬ P (.tw u .can)) (p_edge : ¬ P .edge) (q_flash : ∀ u, ¬ P (.tw u .flash)) (p_host : ¬ P .host) (p_ilk : ¬ P .ilk) (p_net : ¬ P .net) (q_net : ∀ u, ¬ P (.tw u .net)) (q_regs : ∀ u, ¬ P (.tw u .regs)) (q_twn : ∀ u, ¬ P (.tw u .twn)) (q_xings : ∀ u, ¬ P (.tw u .xings)) :
    OutKeeps P s00 (execUpdate h s) := by
  unfold execUpdate
  try extract_lets
  repeat' with_reducible first | assumption | apply q_can | apply p_edge | apply q_flash | apply p_host | apply p_ilk | apply p_net | apply q_net | apply q_regs | apply q_twn | apply q_xings | intro _ | apply OutKeeps.next | apply OutKeeps.dite | apply runCmd_keeps | apply opUpdate_keeps | apply Keeps.dite | split | dsimp only

theorem opStreamRead_keeps {P : Part → Prop} {s00 : State} {s : State} (hk : Keeps P s00 s) (h twin q n : Nat)
    (q_queues : ∀ u, ¬ P (.tw u .queues)) (q_regs : ∀ u, ¬ P (.tw u .regs)) :
    Keeps P s00 (opStreamRead h twin q n s).1 := by
  unfold opStreamRead
  extract_lets
  repeat' with_reducible first
    | assumption | apply q_queues | apply q_regs | intro _ | apply deliverWords_keeps | apply Keeps.dite | split

theorem execStreamRead_keeps {P : Part → Prop} {s00 : State} {s : State} (hk : Keeps P s00 s) (h : Fin 4) (twin queue : Byte) (maxWords : BitVec 16) (q_can : ∀ u, ¬ P (.tw u .can)) (p_host : ¬ P .host) (p_net : ¬ P .net) (q_net : ∀ u, ¬ P (.tw u .net)) (q_queues : ∀ u, ¬ P (.tw u .queues)) (q_regs : ∀ u, ¬ P (.tw u .regs)) (q_xings : ∀ u, ¬ P (.tw u .xings)) :
    OutKeeps P s00 (execStreamRead h twin queue maxWords s) := by
  unfold execStreamRead
  try extract_lets
  repeat' with_reducible first | assumption | apply q_can | apply p_host | apply p_net | apply q_net | apply q_queues | apply q_regs | apply q_xings | intro _ | apply OutKeeps.next | apply OutKeeps.dite | apply runCmd_keeps | apply opStreamRead_keeps | apply Keeps.dite | split | dsimp only

theorem execStreamData_keeps {P : Part → Prop} {s00 : State} {s : State} (hk : Keeps P s00 s) (t : Twin) (q : Fin 6) (p_net : ¬ P .net) (q_net : ∀ u, ¬ P (.tw u .net)) (q_queues : ¬ P (.tw t .queues)) (q_regs : ∀ u, ¬ P (.tw u .regs)) (q_xings : ∀ u, ¬ P (.tw u .xings)) :
    OutKeeps P s00 (execStreamData t q s) := by
  unfold execStreamData
  try extract_lets
  repeat' with_reducible first | assumption | apply p_net | apply q_net | apply q_queues | apply q_regs | apply q_xings | intro _ | apply OutKeeps.next | apply OutKeeps.dite | apply deliverWords_keeps | apply wr_keeps | apply setQueue_keeps | apply sendFrom_keeps | apply Keeps.dite | split | dsimp only

theorem opStreamFlush_keeps {P : Part → Prop} {s00 : State} {s : State} (hk : Keeps P s00 s) (h twin q : Nat) (q_queues : ∀ u, ¬ P (.tw u .queues)) (q_regs : ∀ u, ¬ P (.tw u .regs)) :
    Keeps P s00 (opStreamFlush h twin q s).1 := by
  unfold opStreamFlush
  try extract_lets
  repeat' with_reducible first | assumption | apply q_queues | apply q_regs | intro _ | apply closeFill_keeps | apply Keeps.dite | split | dsimp only

theorem execStreamFlush_keeps {P : Part → Prop} {s00 : State} {s : State} (hk : Keeps P s00 s) (h : Fin 4) (twin queue : Byte) (q_can : ∀ u, ¬ P (.tw u .can)) (p_host : ¬ P .host) (p_net : ¬ P .net) (q_net : ∀ u, ¬ P (.tw u .net)) (q_queues : ∀ u, ¬ P (.tw u .queues)) (q_regs : ∀ u, ¬ P (.tw u .regs)) (q_xings : ∀ u, ¬ P (.tw u .xings)) :
    OutKeeps P s00 (execStreamFlush h twin queue s) := by
  unfold execStreamFlush
  try extract_lets
  repeat' with_reducible first | assumption | apply q_can | apply p_host | apply p_net | apply q_net | apply q_queues | apply q_regs | apply q_xings | intro _ | apply OutKeeps.next | apply OutKeeps.dite | apply runCmd_keeps | apply opStreamFlush_keeps | apply Keeps.dite | split | dsimp only

theorem dumpRun_keeps {P : Part → Prop} {s00 : State} {s : State} (hk : Keeps P s00 s) (t : Twin) (e : Nat) (q_queues : ¬ P (.tw t .queues)) (q_regs : ∀ u, ¬ P (.tw u .regs)) (p_sluice : ¬ P .sluice) :
    Keeps P s00 (dumpRun s t e) := by
  unfold dumpRun
  try extract_lets
  repeat' with_reducible first | assumption | apply q_queues | apply q_regs | apply p_sluice | intro _ | apply leaveEndFor_keeps | apply dumpGo_keeps | apply setQueue_keeps | apply Keeps.dite | split | dsimp only

theorem opNegDump_keeps {P : Part → Prop} {s00 : State} {s : State} (hk : Keeps P s00 s) (h twin e : Nat) (q_queues : ∀ u, ¬ P (.tw u .queues)) (q_regs : ∀ u, ¬ P (.tw u .regs)) (p_sluice : ¬ P .sluice) :
    Keeps P s00 (opNegDump h twin e s).1 := by
  unfold opNegDump
  try extract_lets
  repeat' with_reducible first | assumption | apply q_queues | apply q_regs | apply p_sluice | intro _ | apply leaveAsk_keeps | apply dumpRun_keeps | apply Keeps.dite | split | dsimp only

theorem execNegDump_keeps {P : Part → Prop} {s00 : State} {s : State} (hk : Keeps P s00 s) (h : Fin 4) (twin exposure : Byte) (q_can : ∀ u, ¬ P (.tw u .can)) (p_host : ¬ P .host) (p_net : ¬ P .net) (q_net : ∀ u, ¬ P (.tw u .net)) (q_queues : ∀ u, ¬ P (.tw u .queues)) (q_regs : ∀ u, ¬ P (.tw u .regs)) (p_sluice : ¬ P .sluice) (q_xings : ∀ u, ¬ P (.tw u .xings)) :
    OutKeeps P s00 (execNegDump h twin exposure s) := by
  unfold execNegDump
  try extract_lets
  repeat' with_reducible first | assumption | apply q_can | apply p_host | apply p_net | apply q_net | apply q_queues | apply q_regs | apply p_sluice | apply q_xings | intro _ | apply OutKeeps.next | apply OutKeeps.dite | apply runCmd_keeps | apply opNegDump_keeps | apply Keeps.dite | split | dsimp only

/-! Machine/Host.lean. -/

theorem opFromPacket_keeps {P : Part → Prop} {s00 : State} {s : State} (hk : Keeps P s00 s) (q : Queued) (q_adc : ∀ u, ¬ P (.tw u .adc))
    (q_arr : ∀ u, ¬ P (.tw u .arr)) (q_can : ∀ u, ¬ P (.tw u .can)) (q_drv : ∀ u, ¬ P (.tw u .drv)) (p_edge : ¬ P .edge)
    (q_exps : ∀ u, ¬ P (.tw u .exps)) (q_flash : ∀ u, ¬ P (.tw u .flash)) (p_host : ¬ P .host) (p_ilk : ¬ P .ilk)
    (q_law : ∀ u, ¬ P (.tw u .law)) (p_life : ¬ P .life) (q_neg : ∀ u, ¬ P (.tw u .neg)) (p_net : ¬ P .net) (q_net : ∀ u, ¬ P (.tw u .net))
    (q_ofs : ∀ u, ¬ P (.tw u .ofs)) (q_pwr : ∀ u, ¬ P (.tw u .pwr)) (q_queues : ∀ u, ¬ P (.tw u .queues)) (q_regs : ∀ u, ¬ P (.tw u .regs))
    (q_rings : ∀ u, ¬ P (.tw u .rings)) (q_saf : ∀ u, ¬ P (.tw u .saf)) (p_sluice : ¬ P .sluice) (q_tb : ∀ u, ¬ P (.tw u .tb))
    (q_tm : ∀ u, ¬ P (.tw u .tm)) (q_twn : ∀ u, ¬ P (.tw u .twn)) (q_upOld : ∀ u, ¬ P (.tw u .upOld)) (q_uplinks : ∀ u, ¬ P (.tw u .uplinks))
    (q_xings : ∀ u, ¬ P (.tw u .xings)) :
    Keeps P s00 (opFromPacket q s).1 := by
  unfold opFromPacket
  extract_lets
  repeat' with_reducible first
    | assumption | apply q_adc | apply q_arr | apply q_can | apply q_drv | apply p_edge | apply q_exps
    | apply q_flash | apply p_host | apply p_ilk | apply q_law | apply p_life | apply q_neg | apply p_net
    | apply q_net | apply q_ofs | apply q_pwr | apply q_queues | apply q_regs | apply q_rings | apply q_saf
    | apply p_sluice | apply q_tb | apply q_tm | apply q_twn | apply q_upOld | apply q_uplinks | apply q_xings
    | intro _ | apply opIdentify_keeps | apply opStatus_keeps | apply opKeyRoll_keeps | apply opCredits_keeps
    | apply opRead_keeps | apply opWrite_keeps | apply opChange_keeps | apply opChangeSet_keeps
    | apply opCancel_keeps | apply opListChanges_keeps | apply opTake_keeps | apply opRelease_keeps
    | apply opOwners_keeps | apply opFlashOpen_keeps | apply opFlashWrite_keeps | apply opFlashClose_keeps
    | apply opFlashAbort_keeps | apply opUpdate_keeps | apply opReport_keeps | apply opEvents_keeps
    | apply opStreamRead_keeps | apply opStreamFlush_keeps | apply opNegDump_keeps | apply Keeps.dite | split

theorem acceptCounter_keeps {P : Part → Prop} {s00 : State} {s : State} (hk : Keeps P s00 s) (h c : Nat) (tag : BitVec 128)
    (p_host : ¬ P .host) (q_regs : ∀ u, ¬ P (.tw u .regs)) :
    Keeps P s00 (acceptCounter s h c tag) := by
  unfold acceptCounter
  extract_lets
  repeat' with_reducible first
    | assumption | apply p_host | apply q_regs | intro _ | apply modCtx_keeps | apply onLive_keeps | apply wf_keeps
    | apply wr_keeps | apply hostEv_keeps | apply Keeps.dite

theorem enqueue_keeps {P : Part → Prop} {s00 : State} {s : State} (hk : Keeps P s00 s) (q : Queued) (q_can : ∀ u, ¬ P (.tw u .can)) (p_host : ¬ P .host) (p_net : ¬ P .net) (q_net : ∀ u, ¬ P (.tw u .net)) (q_pwr : ∀ u, ¬ P (.tw u .pwr)) (q_regs : ∀ u, ¬ P (.tw u .regs)) (q_xings : ∀ u, ¬ P (.tw u .xings)) :
    Keeps P s00 (enqueue s q) := by
  unfold enqueue
  try extract_lets
  repeat' with_reducible first | assumption | apply q_can | apply p_host | apply p_net | apply q_net | apply q_pwr | apply q_regs | apply q_xings | intro _ | apply replyWith_keeps | apply hostCnt_keeps | apply showCtx_keeps | apply modCtx_keeps | apply onLive_keeps | apply ungate_keeps | apply Keeps.dite | split | dsimp only

theorem receive_keeps {P : Part → Prop} {s00 : State} {s : State} (hk : Keeps P s00 s) (via : Transport) (bytes : List Byte) (ip : W32) (port : Nat) (q_can : ∀ u, ¬ P (.tw u .can)) (p_host : ¬ P .host) (p_net : ¬ P .net) (q_net : ∀ u, ¬ P (.tw u .net)) (q_pwr : ∀ u, ¬ P (.tw u .pwr)) (q_regs : ∀ u, ¬ P (.tw u .regs)) (q_xings : ∀ u, ¬ P (.tw u .xings)) :
    Keeps P s00 (receive s via bytes ip port) := by
  unfold receive
  dsimp only
  repeat' with_reducible first | assumption | apply q_can | apply p_host | apply p_net | apply q_net | apply q_pwr | apply q_regs | apply q_xings | intro _ | apply hostCnt_keeps | apply emit_keeps | apply acceptCounter_keeps | apply reply_keeps | apply enqueue_keeps | apply Keeps.dite | split | dsimp only

theorem execEcpPacketReceive_keeps {P : Part → Prop} {s00 : State} {s : State} (hk : Keeps P s00 s) (via : Transport) (bytes : List Byte) (ip : IpPair) (port : PortPair) (q_can : ∀ u, ¬ P (.tw u .can)) (p_host : ¬ P .host) (p_net : ¬ P .net) (q_net : ∀ u, ¬ P (.tw u .net)) (q_pwr : ∀ u, ¬ P (.tw u .pwr)) (q_regs : ∀ u, ¬ P (.tw u .regs)) (q_xings : ∀ u, ¬ P (.tw u .xings)) :
    OutKeeps P s00 (execEcpPacketReceive via bytes ip port s) := by
  unfold execEcpPacketReceive
  try extract_lets
  repeat' with_reducible first | assumption | apply q_can | apply p_host | apply p_net | apply q_net | apply q_pwr | apply q_regs | apply q_xings | intro _ | apply OutKeeps.next | apply OutKeeps.dite | apply crossIn_keeps | apply receive_keeps | apply Keeps.dite | split | dsimp only

theorem hsClock_keeps {P : Part → Prop} {s00 : State} {s : State} (hk : Keeps P s00 s) (q_regs : ∀ u, ¬ P (.tw u .regs)) (q_xings : ∀ u, ¬ P (.tw u .xings)) :
    Keeps P s00 (hsClock s) := by
  unfold hsClock
  try extract_lets
  repeat' with_reducible first | assumption | apply q_regs | apply q_xings | intro _ | apply onBoth_keeps | apply deliver_keeps | apply Keeps.dite | split | dsimp only

theorem miso_keeps {P : Part → Prop} {s00 : State} {s : State} (hk : Keeps P s00 s) (l : List Byte) (p_host : ¬ P .host) (q_regs : ∀ u, ¬ P (.tw u .regs)) (q_xings : ∀ u, ¬ P (.tw u .xings)) :
    Keeps P s00 (miso s l) := by
  unfold miso
  try extract_lets
  repeat' with_reducible first | assumption | apply p_host | apply q_regs | apply q_xings | intro _ | apply modHost_keeps | apply hsClock_keeps | exact id | apply Keeps.dite | split | dsimp only

theorem putError_keeps {P : Part → Prop} {s00 : State} {s : State} (hk : Keeps P s00 s) (p_host : ¬ P .host)
    (q_regs : ∀ u, ¬ P (.tw u .regs)) :
    Keeps P s00 (putError s) := by
  unfold putError
  repeat' with_reducible first
    | assumption | apply p_host | apply q_regs | intro _ | apply modHost_keeps | exact id | apply onLive_keeps
    | apply cnt_keeps

theorem execGet_keeps {P : Part → Prop} {s00 : State} {s : State} (hk : Keeps P s00 s) (complete : Bool) (p_host : ¬ P .host) (q_regs : ∀ u, ¬ P (.tw u .regs)) (q_xings : ∀ u, ¬ P (.tw u .xings)) :
    OutKeeps P s00 (execGet complete s) := by
  unfold execGet
  try extract_lets
  repeat' with_reducible first | assumption | apply p_host | apply q_regs | apply q_xings | intro _ | apply OutKeeps.next | apply OutKeeps.dite | apply xingLost_keeps | apply miso_keeps | apply modHost_keeps | exact id | apply Keeps.dite | split | dsimp only

theorem execStat_keeps {P : Part → Prop} {s00 : State} {s : State} (hk : Keeps P s00 s) (p_host : ¬ P .host) (q_regs : ∀ u, ¬ P (.tw u .regs)) (q_xings : ∀ u, ¬ P (.tw u .xings)) :
    OutKeeps P s00 (execStat s) := by
  unfold execStat
  try extract_lets
  repeat' with_reducible first | assumption | apply p_host | apply q_regs | apply q_xings | intro _ | apply OutKeeps.next | apply OutKeeps.dite | apply miso_keeps | apply modHost_keeps | exact id | apply Keeps.dite | split | dsimp only

theorem putPacket_keeps {P : Part → Prop} {s00 : State} {s : State} (hk : Keeps P s00 s) (len : BitVec 16) (bytes : List Byte) (crc : BitVec 16) (complete : Bool) (q_can : ∀ u, ¬ P (.tw u .can)) (p_host : ¬ P .host) (p_net : ¬ P .net) (q_net : ∀ u, ¬ P (.tw u .net)) (q_pwr : ∀ u, ¬ P (.tw u .pwr)) (q_regs : ∀ u, ¬ P (.tw u .regs)) (q_xings : ∀ u, ¬ P (.tw u .xings)) :
    Keeps P s00 (putPacket len bytes crc complete s) := by
  unfold putPacket
  try extract_lets
  repeat' with_reducible first | assumption | apply q_can | apply p_host | apply p_net | apply q_net | apply q_pwr | apply q_regs | apply q_xings | intro _ | apply crossIn_keeps | apply miso_keeps | apply receive_keeps | apply putError_keeps | apply Keeps.dite | split | dsimp only

theorem execPut_keeps {P : Part → Prop} {s00 : State} {s : State} (hk : Keeps P s00 s) (len : BitVec 16) (bytes : List Byte) (crc : BitVec 16) (fin : SerEnd) (q_can : ∀ u, ¬ P (.tw u .can)) (p_host : ¬ P .host) (p_net : ¬ P .net) (q_net : ∀ u, ¬ P (.tw u .net)) (q_pwr : ∀ u, ¬ P (.tw u .pwr)) (q_regs : ∀ u, ¬ P (.tw u .regs)) (q_xings : ∀ u, ¬ P (.tw u .xings)) :
    OutKeeps P s00 (execPut len bytes crc fin s) := by
  unfold execPut
  try extract_lets
  repeat' with_reducible first | assumption | apply q_can | apply p_host | apply p_net | apply q_net | apply q_pwr | apply q_regs | apply q_xings | intro _ | apply OutKeeps.next | apply OutKeeps.dite | apply putPacket_keeps | apply execGet_keeps | apply execStat_keeps | apply crossIn_keeps | apply miso_keeps | apply onLive_keeps | apply cnt_keeps | apply Keeps.dite | split | dsimp only

theorem deferLow_keeps {P : Part → Prop} {s00 : State} {s : State} (hk : Keeps P s00 s) (h : Nat) (p_host : ¬ P .host) (q_regs : ∀ u, ¬ P (.tw u .regs)) :
    Keeps P s00 (deferLow s h) := by
  unfold deferLow
  try extract_lets
  repeat' with_reducible first | assumption | apply p_host | apply q_regs | intro _ | apply showCtx_keeps | apply onLive_keeps | apply cntBy_keeps | apply modCtx_keeps | apply Keeps.dite | split | dsimp only

theorem serveCmd_keeps {P : Part → Prop} {s00 : State} {s : State} (hk : Keeps P s00 s) (h i : Nat) (q_adc : ∀ u, ¬ P (.tw u .adc)) (q_arr : ∀ u, ¬ P (.tw u .arr)) (q_can : ∀ u, ¬ P (.tw u .can)) (q_drv : ∀ u, ¬ P (.tw u .drv)) (p_edge : ¬ P .edge) (q_exps : ∀ u, ¬ P (.tw u .exps)) (q_flash : ∀ u, ¬ P (.tw u .flash)) (p_host : ¬ P .host) (p_ilk : ¬ P .ilk) (q_law : ∀ u, ¬ P (.tw u .law)) (p_life : ¬ P .life) (q_neg : ∀ u, ¬ P (.tw u .neg)) (p_net : ¬ P .net) (q_net : ∀ u, ¬ P (.tw u .net)) (q_ofs : ∀ u, ¬ P (.tw u .ofs)) (q_pwr : ∀ u, ¬ P (.tw u .pwr)) (q_queues : ∀ u, ¬ P (.tw u .queues)) (q_regs : ∀ u, ¬ P (.tw u .regs)) (q_rings : ∀ u, ¬ P (.tw u .rings)) (q_saf : ∀ u, ¬ P (.tw u .saf)) (p_sluice : ¬ P .sluice) (q_tb : ∀ u, ¬ P (.tw u .tb)) (q_tm : ∀ u, ¬ P (.tw u .tm)) (q_twn : ∀ u, ¬ P (.tw u .twn)) (q_upOld : ∀ u, ¬ P (.tw u .upOld)) (q_uplinks : ∀ u, ¬ P (.tw u .uplinks)) (q_xings : ∀ u, ¬ P (.tw u .xings)) :
    Keeps P s00 (serveCmd s h i) := by
  unfold serveCmd
  try extract_lets
  repeat' with_reducible first | assumption | apply q_adc | apply q_arr | apply q_can | apply q_drv | apply p_edge | apply q_exps | apply q_flash | apply p_host | apply p_ilk | apply q_law | apply p_life | apply q_neg | apply p_net | apply q_net | apply q_ofs | apply q_pwr | apply q_queues | apply q_regs | apply q_rings | apply q_saf | apply p_sluice | apply q_tb | apply q_tm | apply q_twn | apply q_upOld | apply q_uplinks | apply q_xings | intro _ | apply runCmd_keeps | apply opFromPacket_keeps | apply modCtx_keeps | apply onLive_keeps | apply gate_keeps | apply Keeps.dite | split | dsimp only

theorem showLoad_keeps {P : Part → Prop} {s00 : State} {s : State} (hk : Keeps P s00 s) (load : Nat) (q_regs : ∀ u, ¬ P (.tw u .regs))
    :
    Keeps P s00 (showLoad s load) := by
  unfold showLoad
  extract_lets
  repeat' with_reducible first | assumption | apply q_regs | intro _ | apply onLive_keeps | apply wf_keeps

theorem execCommandExecute_keeps {P : Part → Prop} {s00 : State} {s : State} (hk : Keeps P s00 s) (load : Fin 101)
    (q_adc : ∀ u, ¬ P (.tw u .adc)) (q_arr : ∀ u, ¬ P (.tw u .arr)) (q_can : ∀ u, ¬ P (.tw u .can)) (q_drv : ∀ u, ¬ P (.tw u .drv))
    (p_edge : ¬ P .edge) (q_exps : ∀ u, ¬ P (.tw u .exps)) (q_flash : ∀ u, ¬ P (.tw u .flash)) (p_host : ¬ P .host)
    (p_ilk : ¬ P .ilk) (q_law : ∀ u, ¬ P (.tw u .law)) (p_life : ¬ P .life) (q_neg : ∀ u, ¬ P (.tw u .neg)) (p_net : ¬ P .net)
    (q_net : ∀ u, ¬ P (.tw u .net)) (q_ofs : ∀ u, ¬ P (.tw u .ofs)) (q_pwr : ∀ u, ¬ P (.tw u .pwr)) (q_queues : ∀ u, ¬ P (.tw u .queues))
    (q_regs : ∀ u, ¬ P (.tw u .regs)) (q_rings : ∀ u, ¬ P (.tw u .rings)) (q_saf : ∀ u, ¬ P (.tw u .saf))
    (p_sluice : ¬ P .sluice) (q_tb : ∀ u, ¬ P (.tw u .tb)) (q_tm : ∀ u, ¬ P (.tw u .tm)) (q_twn : ∀ u, ¬ P (.tw u .twn))
    (q_upOld : ∀ u, ¬ P (.tw u .upOld)) (q_uplinks : ∀ u, ¬ P (.tw u .uplinks)) (q_xings : ∀ u, ¬ P (.tw u .xings))
    :
    OutKeeps P s00 (execCommandExecute load s) := by
  unfold execCommandExecute
  extract_lets
  repeat' with_reducible first
    | assumption | apply q_adc | apply q_arr | apply q_can | apply q_drv | apply p_edge | apply q_exps
    | apply q_flash | apply p_host | apply p_ilk | apply q_law | apply p_life | apply q_neg | apply p_net
    | apply q_net | apply q_ofs | apply q_pwr | apply q_queues | apply q_regs | apply q_rings | apply q_saf
    | apply p_sluice | apply q_tb | apply q_tm | apply q_twn | apply q_upOld | apply q_uplinks | apply q_xings
    | intro _ | apply OutKeeps.next | apply OutKeeps.dite | apply deferLow_keeps | apply showLoad_keeps
    | apply serveCmd_keeps | apply modHost_keeps | exact id | apply Keeps.dite | apply Keeps.foldl | apply Keeps.foldl₁
    | apply Keeps.foldl₂ | split

theorem execLowWaitLimit_keeps {P : Part → Prop} {s00 : State} {s : State} (hk : Keeps P s00 s) (h : Fin 4) (q_adc : ∀ u, ¬ P (.tw u .adc))
    (q_arr : ∀ u, ¬ P (.tw u .arr)) (q_can : ∀ u, ¬ P (.tw u .can)) (q_drv : ∀ u, ¬ P (.tw u .drv)) (p_edge : ¬ P .edge)
    (q_exps : ∀ u, ¬ P (.tw u .exps)) (q_flash : ∀ u, ¬ P (.tw u .flash)) (p_host : ¬ P .host) (p_ilk : ¬ P .ilk)
    (q_law : ∀ u, ¬ P (.tw u .law)) (p_life : ¬ P .life) (q_neg : ∀ u, ¬ P (.tw u .neg)) (p_net : ¬ P .net) (q_net : ∀ u, ¬ P (.tw u .net))
    (q_ofs : ∀ u, ¬ P (.tw u .ofs)) (q_pwr : ∀ u, ¬ P (.tw u .pwr)) (q_queues : ∀ u, ¬ P (.tw u .queues)) (q_regs : ∀ u, ¬ P (.tw u .regs))
    (q_rings : ∀ u, ¬ P (.tw u .rings)) (q_saf : ∀ u, ¬ P (.tw u .saf)) (p_sluice : ¬ P .sluice) (q_tb : ∀ u, ¬ P (.tw u .tb))
    (q_tm : ∀ u, ¬ P (.tw u .tm)) (q_twn : ∀ u, ¬ P (.tw u .twn)) (q_upOld : ∀ u, ¬ P (.tw u .upOld)) (q_uplinks : ∀ u, ¬ P (.tw u .uplinks))
    (q_xings : ∀ u, ¬ P (.tw u .xings)) :
    OutKeeps P s00 (execLowWaitLimit h s) := by
  unfold execLowWaitLimit
  repeat' with_reducible first
    | assumption | apply q_adc | apply q_arr | apply q_can | apply q_drv | apply p_edge | apply q_exps
    | apply q_flash | apply p_host | apply p_ilk | apply q_law | apply p_life | apply q_neg | apply p_net
    | apply q_net | apply q_ofs | apply q_pwr | apply q_queues | apply q_regs | apply q_rings | apply q_saf
    | apply p_sluice | apply q_tb | apply q_tm | apply q_twn | apply q_upOld | apply q_uplinks | apply q_xings
    | intro _ | apply OutKeeps.next | apply OutKeeps.dite | apply serveCmd_keeps | apply Keeps.dite | split

/-! Machine/Leave.lean. -/

theorem dropWait_keeps {P : Part → Prop} {s00 : State} {s : State} (hk : Keeps P s00 s) (w : HostWait) (p_host : ¬ P .host)
    :
    Keeps P s00 (dropWait s w) := by
  unfold dropWait
  repeat' with_reducible first | assumption | apply p_host | intro _ | apply modHost_keeps | exact id

theorem flashOp_keeps {P : Part → Prop} {s00 : State} {s : State} (hk : Keeps P s00 s) (r : LeaveReq) (q_flash : ∀ u, ¬ P (.tw u .flash)) (p_host : ¬ P .host) (q_regs : ∀ u, ¬ P (.tw u .regs)) (p_sluice : ¬ P .sluice) :
    Keeps P s00 (flashOp s r) := by
  unfold flashOp
  try extract_lets
  repeat' with_reducible first | assumption | apply q_flash | apply p_host | apply q_regs | apply p_sluice | intro _ | apply leaveEndFor_keeps | apply modFlash_keeps | apply writeReserve_keeps | apply calWrite_keeps | apply wearWrite_keeps | apply keyRoll_keeps | apply Keeps.dite | split | dsimp only

theorem startOp_keeps {P : Part → Prop} {s00 : State} {s : State} (hk : Keeps P s00 s) (r : LeaveReq) (q_drv : ∀ u, ¬ P (.tw u .drv)) (p_edge : ¬ P .edge) (q_flash : ∀ u, ¬ P (.tw u .flash)) (p_host : ¬ P .host) (q_law : ∀ u, ¬ P (.tw u .law)) (q_pwr : ∀ u, ¬ P (.tw u .pwr)) (q_queues : ∀ u, ¬ P (.tw u .queues)) (q_regs : ∀ u, ¬ P (.tw u .regs)) (q_rings : ∀ u, ¬ P (.tw u .rings)) (p_sluice : ¬ P .sluice) :
    Keeps P s00 (startOp s r) := by
  unfold startOp
  try extract_lets
  repeat' with_reducible first | assumption | apply q_drv | apply p_edge | apply q_flash | apply p_host | apply q_law | apply q_pwr | apply q_queues | apply q_regs | apply q_rings | apply p_sluice | intro _ | apply startTraining_keeps | apply modPwr_keeps | apply loadRun_keeps | apply calRun_keeps | apply gdDiagBegin_keeps | apply flashOp_keeps | apply rampRun_keeps | apply dumpRun_keeps | apply Keeps.dite | split | dsimp only

theorem answerWait_keeps {P : Part → Prop} {s00 : State} {before : State} {s : State} (hk : Keeps P s00 before) (hk1 : Keeps P s00 s) (r : LeaveReq) (q_can : ∀ u, ¬ P (.tw u .can)) (p_host : ¬ P .host) (p_net : ¬ P .net) (q_net : ∀ u, ¬ P (.tw u .net)) (q_regs : ∀ u, ¬ P (.tw u .regs)) (q_xings : ∀ u, ¬ P (.tw u .xings)) :
    Keeps P s00 (answerWait before s r) := by
  unfold answerWait
  try extract_lets
  repeat' with_reducible first | assumption | apply q_can | apply p_host | apply p_net | apply q_net | apply q_regs | apply q_xings | intro _ | apply dropWait_keeps | apply replyWith_keeps | apply reply_keeps | apply Keeps.dite | split | dsimp only

theorem execSluiceGrant_keeps {P : Part → Prop} {s00 : State} {s : State} (hk : Keeps P s00 s) (t : Twin) (q_can : ∀ u, ¬ P (.tw u .can)) (q_drv : ∀ u, ¬ P (.tw u .drv)) (p_edge : ¬ P .edge) (q_flash : ∀ u, ¬ P (.tw u .flash)) (p_host : ¬ P .host) (q_law : ∀ u, ¬ P (.tw u .law)) (p_net : ¬ P .net) (q_net : ∀ u, ¬ P (.tw u .net)) (q_pwr : ∀ u, ¬ P (.tw u .pwr)) (q_queues : ∀ u, ¬ P (.tw u .queues)) (q_regs : ∀ u, ¬ P (.tw u .regs)) (q_rings : ∀ u, ¬ P (.tw u .rings)) (p_sluice : ¬ P .sluice) (q_xings : ∀ u, ¬ P (.tw u .xings)) :
    OutKeeps P s00 (execSluiceGrant t s) := by
  unfold execSluiceGrant
  try extract_lets
  repeat' with_reducible first | assumption | apply q_can | apply q_drv | apply p_edge | apply q_flash | apply p_host | apply q_law | apply p_net | apply q_net | apply q_pwr | apply q_queues | apply q_regs | apply q_rings | apply p_sluice | apply q_xings | intro _ | apply OutKeeps.next | apply OutKeeps.dite | apply answerWait_keeps | apply startOp_keeps | apply grantHead_keeps | apply say_keeps | apply Keeps.dite | split | dsimp only

theorem execSluiceRelease_keeps {P : Part → Prop} {s00 : State} {s : State} (hk : Keeps P s00 s) (t : Twin) (op : Fin 8)
    (q_regs : ∀ u, ¬ P (.tw u .regs)) (p_sluice : ¬ P .sluice) :
    OutKeeps P s00 (execSluiceRelease t op s) := by
  unfold execSluiceRelease
  repeat' with_reducible first
    | assumption | apply q_regs | apply p_sluice | intro _ | apply OutKeeps.next | apply OutKeeps.dite
    | apply leaveEnd_keeps | apply Keeps.dite

theorem execLeaveWait_keeps {P : Part → Prop} {s00 : State} {s : State} (hk : Keeps P s00 s) (t : Twin) (op : Fin 8) (q_can : ∀ u, ¬ P (.tw u .can)) (p_host : ¬ P .host) (p_net : ¬ P .net) (q_net : ∀ u, ¬ P (.tw u .net)) (q_regs : ∀ u, ¬ P (.tw u .regs)) (p_sluice : ¬ P .sluice) (q_xings : ∀ u, ¬ P (.tw u .xings)) :
    OutKeeps P s00 (execLeaveWait t op s) := by
  unfold execLeaveWait
  try extract_lets
  repeat' with_reducible first | assumption | apply q_can | apply p_host | apply p_net | apply q_net | apply q_regs | apply p_sluice | apply q_xings | intro _ | apply OutKeeps.next | apply OutKeeps.dite | apply say_keeps | apply cnt_keeps | apply reply_keeps | apply modHost_keeps | apply dropWait_keeps | exact id | apply Keeps.dite | apply Keeps.foldl | apply Keeps.foldl₁ | apply Keeps.foldl₂ | split | refine Keeps.fields ?_ _ _ _ _ _ _ _ _ _ _ ?_ ?_ ?_ ?_ ?_ ?_ ?_ ?_ (fun k => k.cells) (fun k => k.ctx) | exact rfl | exact absurd ‹_› (by assumption) | dsimp only

theorem giveUp_keeps {P : Part → Prop} {s00 : State} {s : State} (hk : Keeps P s00 s) (r : LeaveReq) (q_adc : ∀ u, ¬ P (.tw u .adc))
    (q_flash : ∀ u, ¬ P (.tw u .flash)) (p_host : ¬ P .host) (q_twn : ∀ u, ¬ P (.tw u .twn)) :
    Keeps P s00 (giveUp s r) := by
  unfold giveUp
  dsimp only
  repeat' with_reducible first
    | assumption | apply q_adc | apply q_flash | apply p_host | apply q_twn | intro _ | apply dropWait_keeps
    | apply modTwn_keeps | apply modAdc_keeps | apply modFlash_keeps | apply Keeps.dite | split

theorem execSluTimeout_keeps {P : Part → Prop} {s00 : State} {s : State} (hk : Keeps P s00 s) (t : Twin) (op : Fin 8)
    (q_adc : ∀ u, ¬ P (.tw u .adc)) (q_flash : ∀ u, ¬ P (.tw u .flash)) (p_host : ¬ P .host) (q_regs : ∀ u, ¬ P (.tw u .regs))
    (p_sluice : ¬ P .sluice) (q_twn : ∀ u, ¬ P (.tw u .twn)) :
    OutKeeps P s00 (execSluTimeout t op s) := by
  unfold execSluTimeout
  extract_lets
  repeat' with_reducible first
    | assumption | apply q_adc | apply q_flash | apply p_host | apply q_regs | apply p_sluice | apply q_twn
    | intro _ | apply OutKeeps.next | apply OutKeeps.dite | apply giveUp_keeps | apply onBoth_keeps | apply wr_keeps
    | apply showLedger_keeps | apply cnt_keeps | apply ev_keeps | apply Keeps.dite | split
    | refine Keeps.fields ?_ _ _ _ _ _ _ _ _ _ _ ?_ ?_ ?_ ?_ ?_ ?_ ?_ ?_ (fun k => k.cells) (fun k => k.ctx) | exact rfl
    | exact absurd ‹_› (by assumption)

theorem showFallback_keeps {P : Part → Prop} {s00 : State} {s : State} (hk : Keeps P s00 s) (q_regs : ∀ u, ¬ P (.tw u .regs))
    :
    Keeps P s00 (showFallback s) := by
  unfold showFallback
  extract_lets
  repeat' with_reducible first | assumption | apply q_regs | intro _ | apply onLive_keeps | apply wf_keeps

theorem systemUnlock_keeps {P : Part → Prop} {s00 : State} {s : State} (hk : Keeps P s00 s) (t : Twin) (q_pwr : ¬ P (.tw t .pwr)) (q_regs : ∀ u, ¬ P (.tw u .regs)) (p_sluice : ¬ P .sluice) :
    Keeps P s00 (systemUnlock s t) := by
  unfold systemUnlock
  try extract_lets
  repeat' with_reducible first | assumption | apply q_pwr | apply q_regs | apply p_sluice | intro _ | apply modPwr_keeps | apply wr_keeps | apply wf_keeps | apply showFallback_keeps | apply ev_keeps | apply rampStop_keeps | apply Keeps.dite | split | dsimp only

theorem systemRelock_keeps {P : Part → Prop} {s00 : State} {s : State} (hk : Keeps P s00 s) (t : Twin) (q_regs : ∀ u, ¬ P (.tw u .regs))
    :
    Keeps P s00 (systemRelock s t) := by
  unfold systemRelock
  extract_lets
  repeat' with_reducible first
    | assumption | apply q_regs | intro _ | apply freeTick_keeps | apply showFallback_keeps | apply wr_keeps
    | apply wf_keeps | apply Keeps.dite

theorem crystalLost_keeps {P : Part → Prop} {s00 : State} {s : State} (hk : Keeps P s00 s) (t : Twin) (q_regs : ¬ P (.tw t .regs)) :
    Keeps P s00 (crystalLost s t) := by
  unfold crystalLost
  try extract_lets
  repeat' with_reducible first | assumption | apply q_regs | intro _ | apply wf_keeps | apply Keeps.dite | split | dsimp only

theorem execPllLockLoss_keeps {P : Part → Prop} {s00 : State} {s : State} (hk : Keeps P s00 s) (t : Twin) (x : Fin 6) (q_adc : ∀ u, ¬ P (.tw u .adc)) (p_edge : ¬ P .edge) (q_flash : ¬ P (.tw t .flash)) (p_ilk : ¬ P .ilk) (p_net : ¬ P .net) (q_pwr : ¬ P (.tw t .pwr)) (q_regs : ∀ u, ¬ P (.tw u .regs)) (q_rings : ¬ P (.tw t .rings)) (p_sluice : ¬ P .sluice) (q_twn : ∀ u, ¬ P (.tw u .twn)) :
    OutKeeps P s00 (execPllLockLoss t x s) := by
  unfold execPllLockLoss
  try extract_lets
  repeat' with_reducible first | assumption | apply q_adc | apply p_edge | apply q_flash | apply p_ilk | apply p_net | apply q_pwr | apply q_regs | apply q_rings | apply p_sluice | apply q_twn | intro _ | apply OutKeeps.next | apply OutKeeps.dite | apply crystalLost_keeps | apply evi_keeps | apply clri_keeps | apply withdraw_keeps | apply adUnlock_keeps | apply setRing_keeps | apply portLinkSet_keeps | apply systemUnlock_keeps | apply Keeps.dite | apply Keeps.foldl | apply Keeps.foldl₁ | apply Keeps.foldl₂ | split | dsimp only

theorem clockResumes_keeps {P : Part → Prop} {s00 : State} {s : State} (hk : Keeps P s00 s) (t : Twin) (p : Nat) (q_regs : ¬ P (.tw t .regs)) (q_xings : ¬ P (.tw t .xings)) :
    Keeps P s00 (clockResumes s t p) := by
  unfold clockResumes
  try extract_lets
  repeat' with_reducible first | assumption | apply q_regs | apply q_xings | intro _ | apply deliver_keeps | apply Keeps.dite | apply Keeps.foldl | apply Keeps.foldl₁ | apply Keeps.foldl₂ | split | dsimp only

theorem execPllRelock_keeps {P : Part → Prop} {s00 : State} {s : State} (hk : Keeps P s00 s) (t : Twin) (p : Fin 5) (q_regs : ∀ u, ¬ P (.tw u .regs)) (q_rings : ∀ u, ¬ P (.tw u .rings)) (p_sluice : ¬ P .sluice) (q_xings : ¬ P (.tw t .xings)) :
    OutKeeps P s00 (execPllRelock t p s) := by
  unfold execPllRelock
  try extract_lets
  repeat' with_reducible first | assumption | apply q_regs | apply q_rings | apply p_sluice | apply q_xings | intro _ | apply OutKeeps.next | apply OutKeeps.dite | apply wf_keeps | apply clockResumes_keeps | apply evi_keeps | apply trainRing_keeps | apply systemRelock_keeps | apply Keeps.dite | apply Keeps.foldl | apply Keeps.foldl₁ | apply Keeps.foldl₂ | split | dsimp only

theorem execPfail_keeps {P : Part → Prop} {s00 : State} {s : State} (hk : Keeps P s00 s) (q_flash : ∀ u, ¬ P (.tw u .flash)) (p_pfail : ¬ P .pfail) (q_regs : ∀ u, ¬ P (.tw u .regs)) (p_sluice : ¬ P .sluice) :
    OutKeeps P s00 (execPfail s) := by
  unfold execPfail
  try extract_lets
  repeat' with_reducible first | assumption | apply q_flash | apply p_pfail | apply q_regs | apply p_sluice | intro _ | apply OutKeeps.next | apply OutKeeps.dite | apply onLive_keeps | apply ev_keeps | apply onBoth_keeps | apply sessionEnd_keeps | apply wearWrite_keeps | apply wf_keeps | apply Keeps.dite | apply Keeps.foldl | apply Keeps.foldl₁ | apply Keeps.foldl₂ | split | refine Keeps.fields ?_ _ _ _ _ _ _ _ _ _ _ ?_ ?_ ?_ ?_ ?_ ?_ ?_ ?_ (fun k => k.cells) (fun k => k.ctx) | exact rfl | exact absurd ‹_› (by assumption) | dsimp only

theorem execVinReturn_keeps {P : Part → Prop} {s00 : State} {s : State} (hk : Keeps P s00 s) (p_pfail : ¬ P .pfail)
    :
    OutKeeps P s00 (execVinReturn s) := by
  unfold execVinReturn
  repeat' with_reducible first
    | assumption | apply p_pfail | intro _ | apply OutKeeps.next | apply OutKeeps.dite | apply Keeps.dite | split
    | refine Keeps.fields ?_ _ _ _ _ _ _ _ _ _ _ ?_ ?_ ?_ ?_ ?_ ?_ ?_ ?_ (fun k => k.cells) (fun k => k.ctx) | exact rfl
    | exact absurd ‹_› (by assumption)

theorem execOverTemperature_keeps {P : Part → Prop} {s00 : State} {s : State} (hk : Keeps P s00 s) (q_adc : ∀ u, ¬ P (.tw u .adc)) (q_arr : ∀ u, ¬ P (.tw u .arr)) (q_can : ∀ u, ¬ P (.tw u .can)) (q_drv : ∀ u, ¬ P (.tw u .drv)) (p_edge : ¬ P .edge) (q_exps : ∀ u, ¬ P (.tw u .exps)) (q_flash : ∀ u, ¬ P (.tw u .flash)) (p_host : ¬ P .host) (p_ilk : ¬ P .ilk) (q_law : ∀ u, ¬ P (.tw u .law)) (q_neg : ∀ u, ¬ P (.tw u .neg)) (p_net : ¬ P .net) (q_net : ∀ u, ¬ P (.tw u .net)) (q_ofs : ∀ u, ¬ P (.tw u .ofs)) (p_overTemp : ¬ P .overTemp) (p_pfail : ¬ P .pfail) (q_pwr : ∀ u, ¬ P (.tw u .pwr)) (q_queues : ∀ u, ¬ P (.tw u .queues)) (q_regs : ∀ u, ¬ P (.tw u .regs)) (q_rings : ∀ u, ¬ P (.tw u .rings)) (q_saf : ∀ u, ¬ P (.tw u .saf)) (p_sluice : ¬ P .sluice) (q_tb : ∀ u, ¬ P (.tw u .tb)) (q_tm : ∀ u, ¬ P (.tw u .tm)) (q_twn : ∀ u, ¬ P (.tw u .twn)) (q_upOld : ∀ u, ¬ P (.tw u .upOld)) (q_uplinks : ∀ u, ¬ P (.tw u .uplinks)) (q_xings : ∀ u, ¬ P (.tw u .xings)) :
    OutKeeps P s00 (execOverTemperature s) := by
  unfold execOverTemperature
  try extract_lets
  repeat' with_reducible first | assumption | apply q_adc | apply q_arr | apply q_can | apply q_drv | apply p_edge | apply q_exps | apply q_flash | apply p_host | apply p_ilk | apply q_law | apply q_neg | apply p_net | apply q_net | apply q_ofs | apply p_overTemp | apply p_pfail | apply q_pwr | apply q_queues | apply q_regs | apply q_rings | apply q_saf | apply p_sluice | apply q_tb | apply q_tm | apply q_twn | apply q_upOld | apply q_uplinks | apply q_xings | intro _ | apply OutKeeps.next | apply OutKeeps.dite | apply onBoth_keeps | apply wf_keeps | apply resetWhole_keeps | apply Keeps.dite | split | refine Keeps.fields ?_ _ _ _ _ _ _ _ _ _ _ ?_ ?_ ?_ ?_ ?_ ?_ ?_ ?_ (fun k => k.cells) (fun k => k.ctx) | exact rfl | exact absurd ‹_› (by assumption) | dsimp only

theorem execOverTempRestart_keeps {P : Part → Prop} {s00 : State} {s : State} (hk : Keeps P s00 s) (p_overTemp : ¬ P .overTemp) (q_regs : ∀ u, ¬ P (.tw u .regs)) :
    OutKeeps P s00 (execOverTempRestart s) := by
  unfold execOverTempRestart
  try extract_lets
  repeat' with_reducible first | assumption | apply p_overTemp | apply q_regs | intro _ | apply OutKeeps.next | apply OutKeeps.dite | apply onBoth_keeps | apply wf_keeps | apply Keeps.dite | split | refine Keeps.fields ?_ _ _ _ _ _ _ _ _ _ _ ?_ ?_ ?_ ?_ ?_ ?_ ?_ ?_ (fun k => k.cells) (fun k => k.ctx) | exact rfl | exact absurd ‹_› (by assumption) | dsimp only

/-! Machine/Takeover.lean. -/

theorem loadImageRegs_keeps {P : Part → Prop} {s00 : State} {s : State} (hk : Keeps P s00 s) (t : Twin) (link : Bool) (b : List Byte) (q_regs : ¬ P (.tw t .regs)) :
    Keeps P s00 (loadImageRegs s t link b) := by
  unfold loadImageRegs
  try extract_lets
  repeat' with_reducible first | assumption | apply q_regs | intro _ | apply wr_keeps | apply Keeps.dite | apply Keeps.foldl | apply Keeps.foldl₁ | apply Keeps.foldl₂ | split | dsimp only

theorem loadWear_keeps {P : Part → Prop} {s00 : State} {s : State} (hk : Keeps P s00 s) (t : Twin) (q_regs : ¬ P (.tw t .regs))
    :
    Keeps P s00 (loadWear s t) := by
  unfold loadWear
  extract_lets
  repeat' with_reducible first
    | assumption | apply q_regs | intro _ | apply wr_keeps | apply Keeps.dite | apply Keeps.foldl
    | apply Keeps.foldl₁ | apply Keeps.foldl₂ | split

theorem loadCal_keeps {P : Part → Prop} {s00 : State} {s : State} (hk : Keeps P s00 s) (t : Twin) (q_regs : ¬ P (.tw t .regs))
    :
    Keeps P s00 (loadCal s t) := by
  unfold loadCal
  repeat' with_reducible first
    | assumption | apply q_regs | intro _ | apply wr_keeps | apply wf_keeps | apply Keeps.dite | apply Keeps.foldl

theorem loadEpoch_keeps {P : Part → Prop} {s00 : State} {s : State} (hk : Keeps P s00 s) (t : Twin) (q_regs : ¬ P (.tw t .regs)) (q_twn : ∀ u, ¬ P (.tw u .twn)) :
    Keeps P s00 (loadEpoch s t) := by
  unfold loadEpoch
  try extract_lets
  repeat' with_reducible first | assumption | apply q_regs | apply q_twn | intro _ | apply modTwn_keeps | apply wr_keeps | apply Keeps.dite | split | dsimp only

theorem loadImages_keeps {P : Part → Prop} {s00 : State} {s : State} (hk : Keeps P s00 s) (t : Twin) (slots : List Nat) (q_law : ¬ P (.tw t .law)) (q_regs : ¬ P (.tw t .regs)) (q_twn : ∀ u, ¬ P (.tw u .twn)) :
    Keeps P s00 (loadImages s t slots) := by
  unfold loadImages
  try extract_lets
  repeat' with_reducible first | assumption | apply q_law | apply q_regs | apply q_twn | intro _ | apply wr_keeps | apply wf_keeps | apply modTwn_keeps | apply loadImageRegs_keeps | apply loadGraph_keeps | apply loadEpoch_keeps | apply loadCal_keeps | apply loadWear_keeps | apply Keeps.dite | apply Keeps.foldl | apply Keeps.foldl₁ | apply Keeps.foldl₂ | split | dsimp only

theorem execBootComplete_keeps {P : Part → Prop} {s00 : State} {s : State} (hk : Keeps P s00 s) (t : Twin) (selfTest : Bool) (ms : BitVec 16) (q_flash : ¬ P (.tw t .flash)) (p_ilk : ¬ P .ilk) (q_law : ¬ P (.tw t .law)) (p_net : ¬ P .net) (q_ofs : ¬ P (.tw t .ofs)) (q_pwr : ¬ P (.tw t .pwr)) (q_regs : ∀ u, ¬ P (.tw u .regs)) (p_sluice : ¬ P .sluice) (q_twn : ∀ u, ¬ P (.tw u .twn)) :
    OutKeeps P s00 (execBootComplete t selfTest ms s) := by
  unfold execBootComplete
  try extract_lets
  repeat' with_reducible first | assumption | apply q_flash | apply p_ilk | apply q_law | apply p_net | apply q_ofs | apply q_pwr | apply q_regs | apply p_sluice | apply q_twn | intro _ | apply OutKeeps.next | apply OutKeeps.dite | apply ev_keeps | apply modFlash_keeps | apply wf_keeps | apply dropTrial_keeps | apply loadImages_keeps | apply modPwr_keeps | apply bootJoin_keeps | apply Keeps.dite | split | dsimp only

theorem pendAgain_keeps {P : Part → Prop} {s00 : State} {s : State} (hk : Keeps P s00 s) (c : Change) (q_regs : ∀ u, ¬ P (.tw u .regs)) (q_saf : ∀ u, ¬ P (.tw u .saf)) :
    Keeps P s00 (pendAgain s c) := by
  unfold pendAgain
  try extract_lets
  repeat' with_reducible first | assumption | apply q_regs | apply q_saf | intro _ | apply onBoth_keeps | apply setPend_keeps | apply Keeps.dite | split | dsimp only

theorem reexecute_keeps {P : Part → Prop} {s00 : State} {s : State} (hk : Keeps P s00 s) (n : Nat) (p_host : ¬ P .host) (q_regs : ∀ u, ¬ P (.tw u .regs)) (q_saf : ∀ u, ¬ P (.tw u .saf)) :
    Keeps P s00 (reexecute s n) := by
  unfold reexecute
  try extract_lets
  repeat' with_reducible first | assumption | apply p_host | apply q_regs | apply q_saf | intro _ | apply modHost_keeps | apply showCtx_keeps | apply modCtx_keeps | apply pendAgain_keeps | exact id | apply Keeps.dite | apply Keeps.foldl | apply Keeps.foldl₁ | apply Keeps.foldl₂ | split | dsimp only

theorem resendReplies_keeps {P : Part → Prop} {s00 : State} {s : State} (hk : Keeps P s00 s) (n : Nat) (q_can : ∀ u, ¬ P (.tw u .can)) (p_host : ¬ P .host) (p_net : ¬ P .net) (q_net : ∀ u, ¬ P (.tw u .net)) (q_regs : ∀ u, ¬ P (.tw u .regs)) (q_xings : ∀ u, ¬ P (.tw u .xings)) :
    Keeps P s00 (resendReplies s n) := by
  unfold resendReplies
  try extract_lets
  repeat' with_reducible first | assumption | apply q_can | apply p_host | apply p_net | apply q_net | apply q_regs | apply q_xings | intro _ | apply emit_keeps | apply Keeps.dite | apply Keeps.foldl | apply Keeps.foldl₁ | apply Keeps.foldl₂ | split | dsimp only

theorem takeLead_keeps {P : Part → Prop} {s00 : State} {s : State} (hk : Keeps P s00 s) (t : Twin) (resend rerun : Nat) (q_can : ∀ u, ¬ P (.tw u .can)) (q_flash : ∀ u, ¬ P (.tw u .flash)) (p_host : ¬ P .host) (p_net : ¬ P .net) (q_net : ∀ u, ¬ P (.tw u .net)) (q_regs : ∀ u, ¬ P (.tw u .regs)) (q_saf : ∀ u, ¬ P (.tw u .saf)) (p_sluice : ¬ P .sluice) (q_twn : ¬ P (.tw t .twn)) (q_xings : ∀ u, ¬ P (.tw u .xings)) :
    Keeps P s00 (takeLead s t resend rerun) := by
  unfold takeLead
  try extract_lets
  repeat' first
    | (cases ‹TwinField› <;> first | rfl | exact absurd ‹_› (by solve_by_elim))
    | with_reducible first | assumption | apply q_can | apply q_flash | apply p_host | apply p_net | apply q_net | apply q_regs | apply q_saf | apply p_sluice | apply q_twn | apply q_xings | intro _ | apply setTwState_keeps | apply takeEpoch_keeps | apply saveEpoch_keeps | apply cnt_keeps | apply ev_keeps | apply modNet_keeps | apply canRepend_keeps | apply resendReplies_keeps | apply reexecute_keeps | apply reserveCheck_keeps | apply Keeps.dite | split | refine Keeps.setTwRegs ?_ rfl (fun k => (k.tw _).same rfl rfl rfl rfl rfl rfl rfl rfl) fun f hf => ?_ | dsimp only

theorem dropRejoin_keeps {P : Part → Prop} {s00 : State} {s : State} (hk : Keeps P s00 s) (t : Twin) (q_pwr : ¬ P (.tw t .pwr)) (q_regs : ∀ u, ¬ P (.tw u .regs)) (p_sluice : ¬ P .sluice) (q_twn : ¬ P (.tw t .twn)) :
    Keeps P s00 (dropRejoin s t) := by
  unfold dropRejoin
  try extract_lets
  repeat' with_reducible first | assumption | apply q_pwr | apply q_regs | apply p_sluice | apply q_twn | intro _ | apply modPwr_keeps | apply modTwn_keeps | apply leaveEnd_keeps | apply Keeps.dite | split | dsimp only

theorem execInterlockGrant_keeps {P : Part → Prop} {s00 : State} {s : State} (hk : Keeps P s00 s) (t : Twin) (again : GrantAgain) (q_can : ∀ u, ¬ P (.tw u .can)) (q_flash : ∀ u, ¬ P (.tw u .flash)) (p_host : ¬ P .host) (p_ilk : ¬ P .ilk) (p_net : ¬ P .net) (q_net : ∀ u, ¬ P (.tw u .net)) (q_pwr : ¬ P (.tw t .pwr)) (q_regs : ∀ u, ¬ P (.tw u .regs)) (q_saf : ∀ u, ¬ P (.tw u .saf)) (p_sluice : ¬ P .sluice) (q_twn : ¬ P (.tw t .twn)) (q_xings : ∀ u, ¬ P (.tw u .xings)) :
    OutKeeps P s00 (execInterlockGrant t again s) := by
  unfold execInterlockGrant
  try extract_lets
  repeat' with_reducible first | assumption | apply q_can | apply q_flash | apply p_host | apply p_ilk | apply p_net | apply q_net | apply q_pwr | apply q_regs | apply q_saf | apply p_sluice | apply q_twn | apply q_xings | intro _ | apply OutKeeps.next | apply OutKeeps.dite | apply setIlkReq_keeps | apply takeLead_keeps | apply wf_keeps | apply dropRejoin_keeps | apply Keeps.dite | split | refine Keeps.fields ?_ _ _ _ _ _ _ _ _ _ _ ?_ ?_ ?_ ?_ ?_ ?_ ?_ ?_ (fun k => k.cells) (fun k => k.ctx) | exact rfl | exact absurd ‹_› (by assumption) | dsimp only

theorem joinWord_keeps {P : Part → Prop} {s00 : State} {s : State} (hk : Keeps P s00 s) (l t : Twin) (same : Bool) (a : Nat) (q_regs : ∀ u, ¬ P (.tw u .regs)) :
    Keeps P s00 (joinWord l t same s a) := by
  unfold joinWord
  try extract_lets
  repeat' with_reducible first | assumption | apply q_regs | intro _ | apply wr_keeps | apply Keeps.dite | apply Keeps.foldl | apply Keeps.foldl₁ | apply Keeps.foldl₂ | split | dsimp only

theorem migrateGraph_keeps {P : Part → Prop} {s00 : State} {s : State} (hk : Keeps P s00 s) (l t : Twin) (g : GraphImg) (q_law : ¬ P (.tw t .law)) (q_regs : ¬ P (.tw t .regs)) :
    Keeps P s00 (migrateGraph l t g s) := by
  unfold migrateGraph
  try extract_lets
  repeat' with_reducible first | assumption | apply q_law | apply q_regs | intro _ | apply modLaw_keeps | apply setBlkWords_keeps | apply Keeps.dite | apply Keeps.foldl | apply Keeps.foldl₁ | apply Keeps.foldl₂ | split | dsimp only

theorem loadJoin_keeps {P : Part → Prop} {s00 : State} {s : State} (hk : Keeps P s00 s) (l t : Twin) (same : Bool) (q_arr : ¬ P (.tw t .arr)) (q_can : ¬ P (.tw t .can)) (q_drv : ¬ P (.tw t .drv)) (q_law : ¬ P (.tw t .law)) (q_net : ¬ P (.tw t .net)) (q_ofs : ¬ P (.tw t .ofs)) (q_regs : ∀ u, ¬ P (.tw u .regs)) (q_tm : ¬ P (.tw t .tm)) :
    Keeps P s00 (loadJoin s l t same) := by
  unfold loadJoin
  dsimp only
  repeat' first
    | (cases ‹TwinField› <;> first | rfl | exact absurd ‹_› (by solve_by_elim))
    | with_reducible first | assumption | apply q_arr | apply q_can | apply q_drv | apply q_law | apply q_net | apply q_ofs | apply q_regs | apply q_tm | intro _ | apply joinWord_keeps | apply migrateGraph_keeps | apply wf_keeps | apply setRate_keeps | apply wr_keeps | apply Keeps.dite | apply Keeps.foldl | apply Keeps.foldl₁ | apply Keeps.foldl₂ | split | refine Keeps.setTwRegs ?_ rfl (fun k => ⟨(k.tw _).rings, (k.tw _).uplinks, (k.tw _).upOld, (k.tw _).exps, (k.tw l).can, (k.tw _).neg, (k.tw _).xings, (k.tw _).queues⟩) fun f hf => ?_ | dsimp only

theorem keepTrial_keeps {P : Part → Prop} {s00 : State} {s : State} (hk : Keeps P s00 s) (t : Twin) (q_flash : ¬ P (.tw t .flash)) (q_regs : ¬ P (.tw t .regs)) :
    Keeps P s00 (keepTrial s t) := by
  unfold keepTrial
  try extract_lets
  repeat' with_reducible first | assumption | apply q_flash | apply q_regs | intro _ | apply modFlash_keeps | apply wf_keeps | apply Keeps.dite | split | dsimp only

theorem updateOver_keeps {P : Part → Prop} {s00 : State} {s : State} (hk : Keeps P s00 s) (q_twn : ∀ u, ¬ P (.tw u .twn)) :
    Keeps P s00 (updateOver s) := by
  unfold updateOver
  try extract_lets
  repeat' with_reducible first | assumption | apply q_twn | intro _ | apply onBoth_keeps | apply modTwn_keeps | apply Keeps.dite | split | dsimp only

theorem joinRings_keeps {P : Part → Prop} {s00 : State} {s : State} (hk : Keeps P s00 s) (t : Twin) (q_regs : ∀ u, ¬ P (.tw u .regs)) (q_rings : ∀ u, ¬ P (.tw u .rings)) (p_sluice : ¬ P .sluice) :
    Keeps P s00 (joinRings s t) := by
  unfold joinRings
  try extract_lets
  repeat' with_reducible first | assumption | apply q_regs | apply q_rings | apply p_sluice | intro _ | apply trainRing_keeps | apply Keeps.dite | apply Keeps.foldl | apply Keeps.foldl₁ | apply Keeps.foldl₂ | split | dsimp only

theorem execJoinComplete_keeps {P : Part → Prop} {s00 : State} {s : State} (hk : Keeps P s00 s) (t : Twin) (q_arr : ¬ P (.tw t .arr)) (q_can : ¬ P (.tw t .can)) (q_drv : ¬ P (.tw t .drv)) (q_flash : ¬ P (.tw t .flash)) (q_law : ¬ P (.tw t .law)) (p_net : ¬ P .net) (q_net : ¬ P (.tw t .net)) (q_ofs : ¬ P (.tw t .ofs)) (q_regs : ∀ u, ¬ P (.tw u .regs)) (q_rings : ∀ u, ¬ P (.tw u .rings)) (p_sluice : ¬ P .sluice) (q_tm : ¬ P (.tw t .tm)) (q_twn : ∀ u, ¬ P (.tw u .twn)) :
    OutKeeps P s00 (execJoinComplete t s) := by
  unfold execJoinComplete
  try extract_lets
  repeat' first
    | (cases ‹TwinField› <;> first | rfl | exact absurd ‹_› (by solve_by_elim))
    | with_reducible first | assumption | apply q_arr | apply q_can | apply q_drv | apply q_flash | apply q_law | apply p_net | apply q_net | apply q_ofs | apply q_regs | apply q_rings | apply p_sluice | apply q_tm | apply q_twn | intro _ | apply OutKeeps.next | apply OutKeeps.dite | apply modTwn_keeps | apply ev_keeps | apply say_keeps | apply keepTrial_keeps | apply loadJoin_keeps | apply updateOver_keeps | apply wf_keeps | apply joinRings_keeps | apply twnFlags_keeps | apply setTwState_keeps | apply Keeps.dite | split | refine Keeps.setTwRegs ?_ rfl (fun k => (k.tw _).same rfl rfl rfl rfl rfl rfl rfl rfl) fun f hf => ?_ | dsimp only

end Sys2Proof.Machine
end

