-- ==== Sys2Proof/Tests/Slice0.lean ====
section
/-! SUPPORT. Checks of the author's own work: ill-formed commands that WellFormed refuses, single steps on small states
against the spec's worked values, and states that meet the hypotheses of the statements. -/

namespace Sys2Proof.Tests

open Sys2Proof.Machine

set_option Elab.async false
set_option linter.unusedVariables false

/-! Ill-formed commands. -/

theorem test_wf_link_word : (Instr.linkWordReceive .a [1#4]).wf = false := by decide
theorem test_wf_crossing : (Instr.crossingTransfer .a 0 true [1#32]).wf = false := by decide
theorem test_wf_contact_sheet : (Instr.contactSheetRefresh .a ⟨[(12, 0#32)], 0, 0, 0, []⟩).wf = false := by decide
theorem test_wf_snap : (Instr.snap .a ⟨[], 0, 0, 0, [0#32, 0#32, 0#32, 0#32, 0#32]⟩).wf = false := by decide
theorem test_wf_put : (Instr.put 2 [0#8] 0 ⟨1#8, true⟩).wf = false := by decide
theorem test_wf_packet : (Instr.ecpPacketReceive .udp (List.replicate 65536 0#8) ⟨0, 0⟩ ⟨0, 0⟩).wf = false := by decide +kernel
theorem test_wf_change_set : (Instr.changeSet 0 0 0 false false []).wf = false := by decide
theorem test_wf_can_frame :
    (Instr.canFrameReceive 0 ⟨0, false, false, false, false, false, 3, [1#8]⟩ 0).wf = false := by decide
theorem test_wf_can_remote_fd :
    (Instr.canFrameReceive 0 ⟨0, false, true, true, false, false, 0, []⟩ 0).wf = false := by decide
theorem test_wf_isotp : (Instr.isotpReceive 0 0 []).wf = false := by decide
theorem test_wf_calibration : (Instr.calMeasureEnd .a [[], [], [], [], []] false).wf = false := by decide
theorem test_wf_well_formed : (Instr.canFrameReceive 1 ⟨5, false, false, true, true, false, 9, List.replicate 12 0#8⟩ 0).wf =
    true := by decide

/-! Small states, built from the machine after reset. -/

/-- Twin `t` in state `st`, which has last heard the other twin in state `ot`; both reach the arbiter. -/
def twinAs (t : Twin) (st ot : Nat) (s : State) : State :=
  let s := wf (wf s t R.TWN_STATE_STATE st) t R.TWN_STATE_OTHER ot
  wf (wf (wf s t R.TWN_STATE_ARB_REACH 1) t R.TWN_STATE_OTHER_ARB_REACH 1) t R.TWN_STATE_HOLDS 0

/-- Twin A leads and holds the interlock and the pins, twin B follows and asks for them; their PLLs are locked, their rails
good, and they compare digests. -/
def pair : State :=
  let s := wf (twinAs .b tsFollowing tsLeading (twinAs .a tsLeading tsFollowing State.reset)) .a R.TWN_STATE_HOLDS 1
  let s := onBoth (fun s t => wf (wf (wf s t R.CLK_STATUS_LOCK 31) t R.PWR_STATUS_GOOD 255) t R.TWN_STATE_COMPARE 1) s
  { s with ilk := { holder := some .a, pins := some .a, reqB := true } }

theorem regsOk_of {s : State} (h : (tabWf resetWord s.a.regs && tabWf resetWord s.b.regs) = true) : RegsOk s := by
  rw [Bool.and_eq_true] at h
  intro t; cases t
  · exact h.1
  · exact h.2

/-- Whether the tables of TwinTabs are canonical. -/
def tabsWf (x : TwinSt) : Bool :=
  tabWf (fun _ => ({} : RingX)) x.rings && tabWf (fun _ => Uplink.none) x.uplinks && tabWf (fun _ => []) x.upOld
    && tabWf (fun _ => ({} : ExpX)) x.exps && tabWf (fun _ => ({} : CanSt)) x.can && tabWf (fun _ => 0#32) x.neg
    && tabWf (fun _ => Xing.init) x.xings && tabWf (fun _ => ({} : QueueSt)) x.queues

theorem twinTabs_of {x : TwinSt} (h : tabsWf x = true) : TwinTabs x := by
  simp only [tabsWf, Bool.and_eq_true] at h
  obtain ⟨⟨⟨⟨⟨⟨⟨h1, h2⟩, h3⟩, h4⟩, h5⟩, h6⟩, h7⟩, h8⟩ := h
  exact ⟨h1, h2, h3, h4, h5, h6, h7, h8⟩

theorem tabsOk_of {s : State} (h : (tabsWf s.a && tabsWf s.b && tabWf (fun _ => ({} : CellSt)) s.cells
    && tabWf (fun _ => ({} : CtxSt)) s.host.ctx) = true) : TabsOk s := by
  simp only [Bool.and_eq_true] at h
  obtain ⟨⟨⟨h1, h2⟩, h3⟩, h4⟩ := h
  exact ⟨fun t => by cases t; exacts [twinTabs_of h1, twinTabs_of h2], h3, h4⟩

/-- A small array in both twins: one string on chain 0 with the ACTIVE cells 0 and 1 and the warm spare 2, its rings in RUN
and frames running at cycle 10. -/
def arr0 : State :=
  onBoth (fun s t =>
    let m := fun role sp => BitVec.ofNat 32 (role * 1073741824 + sp * 2097152 + sp * 8192)
    let s := wr (wr (wr s t R.ARR_MAP (m 1 0)) t (R.ARR_MAP + 4) (m 1 1)) t (R.ARR_MAP + 8) (m 2 2)
    let s := setCellSt (setCellSt (setCellSt s t 0 csActive) t 1 csActive) t 2 csStandby
    let s := wf (wf (wf s t R.ARR_CTRL_TOPO 2) t R.ARR_CTRL_ENABLE 1) t R.ARR_STATUS_RUNNING 1
    let s := wr (wf s t (sf R.ARR_S_CFG_NMIN 0) 1) t R.ARR_S_VNOM 0x44480000#32
    let s := wf s t (fo R.TRB_STATE_RING 0) 5
    modArr s t (fun a => { a with
      phase := 2, n := 10, runN := 9, dispatched := true, safeBlock := false, strs := [(0, { ranks := [0, 1] })] })) pair

/-- A graph image of two groups: a mode selector in RG1 and a block of RG0, with three nodes. -/
def graph0 : GraphImg :=
  { version := 1#32, buildId := 0#32, hash := 7#32, inputHash := [], engMin := 1,
    rgs := [⟨0, 0, 0, 0, 1, 1000#32, 0⟩, ⟨1, 0, 0, 0, 1, 1000#32, 0⟩],
    blocks := [⟨0x29, 1, [], 0, 1, [], [], [], []⟩, ⟨0x0A, 0, [(2, false)], 1, 1, [], [], [], []⟩],
    nodes := [⟨0, 1, 0#32, 0, 0#32⟩, ⟨0, 0, 0#32, 0, 0#32⟩, ⟨2, 0, 0#32, 0, 0#32⟩],
    stated := [], place := [], agree := [], outs := [[1], [0]],
    binds := [], migrate := [], presets := [], tables := [] }

/-- Both twins with that graph; `q` are the runs of RG1 in flight and `sw` the pending swap set. -/
def law0 (q : List RgRun) (sw : List Nat) : State :=
  onBoth (fun s t => modLaw s t (fun l => { l with
    img := some graph0, swapSet := sw, queue := if q.isEmpty then [] else [(1, q)] })) arr0

/-- A run of RG1 in flight. -/
def run0 : RgRun := { tau := 160, snap := [], pos := {} }
/-- A CYCLE frame of twin `t` on chain 0 for `n` cells, with sequence number 5 and a claim of that twin. -/
def frame0 (t : Twin) (n : Nat) : List Byte :=
  Frame.build ⟨1, 0, t.bit, 5, 6 + t.bit, 0, 100, 0, 0⟩ (List.replicate n (List.replicate 32 0#8))

/-- The same frame after it was wrapped. -/
def frameW (t : Twin) (n : Nat) : List Byte :=
  Frame.rehead (frame0 t n) (Frame.put ((frame0 t n).take 30) 29 [0x80#8])

/-- A ring of `arr0` in state `st`, its frame awaited. -/
def ring0 (st : Nat) : State :=
  onBoth (fun s t =>
    let s := setXing s t (xingKey 3 true) { Xing.init with dead := false }
    modRingX (wf s t (fo R.TRB_STATE_RING 0) st) t 0 (fun r => { r with awaited := true, seq := 5 })) arr0

/-- A cell at chain 0, position 2, in state `x`. -/
def cell0 (x : CellSt) : State := { arr0 with cells := [(2, x)] }

/-- What a cell measures for one uplink. -/
def meas0 : CellMeas := ⟨1#32, 2#32, 3#32, 4#32, 5#32, 6#32, 0#8, 0#80, 0#8, false⟩

/-- Converter 0 of both twins enabled with one entry in each sequence, both with source `src`, in state `c`. -/
def adc0 (src : Nat) (c : ConvSt) : State :=
  onBoth (fun s t =>
    let s := wf (wf (wf s t (cf R.ADC_C_CTRL_EN 0) 1) t (cf R.ADC_C_CTRL_INJ_EN 0) 1) t (cf R.ADC_C_RCFG_LEN 0) 1
    let s := wf (wf (wf s t (cf R.ADC_C_RCFG_SRC 0) src) t (cf R.ADC_C_ICFG_SRC 0) src) t R.ADC_STATUS_ENABLED 1
    modAdc s t (fun a => { a with convs := [(0, c)] })) pair

/-- The same with the crossing out of the AD domain live. -/
def adx (s : State) : State := onBoth (fun s t => setXing s t (xingKey 1 true) { Xing.init with dead := false }) s

/-- Headroom for every operation. -/
def cal0 : State := onBoth (fun s t => wf s t R.PWR_SLU_CFG_HEADROOM 60000) pair

/-- Exposure 0 in state `st` with one probe, one page at 0x1000, 5 rows before a Fix and 10 after, and bit 3 selected. -/
def neg0 (st : Nat) (x : ExpX) : State :=
  onBoth (fun s t =>
    let s := wf (wf s t (ef R.NEG_EXP_REGION_SIZE 0) 1) t (ef R.NEG_EXP_REGION_BASE 0) 1
    let s := wr (wr s t (ea R.NEG_EXP_PRE 0) 5#32) t (ea R.NEG_EXP_POST 0) 10#32
    let s := wr (wf (wf s t (ef R.NEG_EXP_CFG_SRC 0) 4) t (ef R.NEG_EXP_CFG_DECIM 0) 100) t (ea R.NEG_EXP_EVENTS 0) 8#32
    modExp (wf (wf s t R.NEG_PROBE_EN 1) t (ef R.NEG_EXP_STATUS_STATE 0) st) t 0 (fun _ => x)) pair

/-- Queue 0 enabled with banks of 1 KiB, holding `x`. -/
def stq0 (x : QueueSt) : State :=
  onBoth (fun s t => setQueue (wf (wf s t (qf R.STQ_Q_CFG_EN 0) 1) t (qf R.STQ_Q_CFG_BANK 0) 1) t 0 x) pair

/-- The network switched on in both twins. -/
def modNetOn (s : State) : State := onBoth (fun s t => wf s t R.NET_CTRL_EN 1) s

/-- PWM pair 0 with developed PERIOD 10 000 and DT_LOCK set in both twins, RUNNING as `run`, its carrier and outputs as
given; its start lies at 1 s. -/
def pwm0 (run : Nat) (x : PwmX) (o : OutPair) : State :=
  let s := onBoth (fun s t =>
    let s := wf (wr s t R.PWM_P_DEV 10000#32) t R.PWM_GCFG_DT_LOCK 1
    let s := wr (wr s t R.PWM_P_PERIOD 20000#32) t R.PWM_P_START_S 1#32
    wf s t (pf R.PWM_P_STATUS_RUNNING 0) run) pair
  { s with edge := { s.edge with pwm := if x = {} then [] else [(0, x)], out := if o = {} then [] else [(0, o)] } }

/-- A set of latent values. -/
def set0 : PwmSet := { period := 16000, cmpA := 4000, cmpB := 5000, phase := -3, x := [1, 2, 3, 4] }

/-- Gate-drive pairs 0 and 6 with a generator and outputs in the states given. -/
def gd0 (x : GenX) (o : OutPair) : State :=
  { pair with edge := { gen := if x = {} then [] else [(0, x), (6, x)], out := if o = {} then [] else [(8, o), (14, o)] } }

/-- Sense input 0 enabled on PWM pair 0, whose output A is on, with blanking as `x`. -/
def dsn0 (x : Bool) : State :=
  { onBoth (fun s t => wf s t (fo R.TRIP_DSN_EN 0) 1) pair with edge := { out := [(0, { a := 1, b := 0, blank := x })] } }

/-- Both sides out of safe torque off. -/
def sto0 : State := onBoth (fun s t => wf s t R.SAF_STATUS_STO 0) pair

/-- Arrangement `topo` with channel 0 in state `st` and sequencer state `c` in both twins; VDC, bound to node 0, is `v`,
and ICHOP, bound to node 1, is 0. -/
def drv0 (topo st : Nat) (v : W32) (c : DrvCh) : State :=
  onBoth (fun s t =>
    let s := wr (wf (wf s t R.DRV_CFG_TOPO topo) t (df R.DRV_D_STATE_STATE 0) st) t R.LAW_NODE v
    let s := modLaw s t (fun l => { l with img := some { graph0 with binds := [⟨4, 0, 0, 0⟩, ⟨4, 0, 15, 1⟩] } })
    if c = {} then s else modDrv s t (fun x => { x with ch := [(0, c)] })) pair

/-- That drive enabled and asked to run channel 0, out of safe torque off, with two attempts allowed. -/
def catchable (s : State) (t : Twin) : State :=
  let s := onBoth (fun s t => modLaw (wf s t R.SAF_STATUS_STO 0) t (fun l => { l with ts := [(1, 0x3F800000#32)] })) s
  let s := wf (wf s t R.DRV_CTRL_ENABLE 1) t (df R.DRV_D_CTRL_RUN 0) 1
  let s := wf (wf s t (df R.DRV_D_TIMING1_CATCH_RETRY 0) 2) t (df R.DRV_D_TIMING1_CATCH_T 0) 0
  wr s t R.DRV_D_CATCH_EMIN 0x3F800000#32

/-- The same with a discharge in state `n`. -/
def dis0 (n : Nat) (v : W32) : State := onBoth (fun s t => modDrv s t (fun x => { x with dis := n })) (drv0 1 5 v {})

/-- Function 0 enabled in both sides in state `st`, its channel levels `lv`, both sides locked. -/
def saf0 (st lv : Nat) : State :=
  onBoth (fun s t =>
    let s := wf (wf (wf s t (fo R.SAF_F_CFG_EN 0) 1) t (fnField 0) st) t R.SAF_STATUS_LOCKED 1
    modSaf s t (fun x => { x with sin := lv, loaded := true })) pair

/-- The safety outputs on in both sides. -/
def sout0 : State := onBoth (fun s t => wf s t R.SAF_OUT_ON 15) (saf0 3 3)

/-- The network on in PRP mode in both twins, NA0 serving LAN A and NB1 LAN B, both with link. -/
def net0 : State :=
  let on := fun s t => wf (wf s t R.NET_CTRL_EN 1) t R.NET_CFG_MODE 1
  { onBoth (fun s t => setXing (setXing (on s t) t (xingKey 4 true) { Xing.init with dead := false }) t (xingKey 4 false)
      { Xing.init with dead := false }) pair with
    net := { lanA := some 0, lanB := some 3, link := [0, 3] } }

/-- A broadcast ARP frame. -/
def nf0 : NetFrame := ⟨0xFFFFFFFFFFFF, 7, 64, true, 0x0806, 0, none, false, 28, false, false, 0, false, 0⟩

/-- An Announce of clock 9 on port 1 in domain 0. -/
def ann0 : Announce := ⟨0, 1, 6, 0x20, 100, 128, 9, 0, 9, 1, 37, true, false, false⟩

/-- That network with PTP in domain 0; with `sel` clock 9 on LAN A is the selected master in both twins. -/
def ptp0 (sel : Bool) : State :=
  let s := onBoth (fun s t => wf (wf s t R.TIME_CFG_DOMAIN 0) t R.TIME_CFG_ROLE 0) net0
  if sel then modTms s (fun m => { m with masters := [(0, some ann0)], sel := some 0 }) else s

/-- A state with the crossing out of the CB domain live in both twins. -/
def canx (s : State) : State :=
  onBoth (fun s t => setXing (setXing s t (xingKey 5 true) { Xing.init with dead := false }) t (xingKey 5 false)
    { Xing.init with dead := false }) s

/-- CAN bus 0 enabled and error-active in both twins; twin A drives it. -/
def can0 : State :=
  wf (canx (onBoth (fun s t => wf (wf s t R.CAN_B_CTRL_EN 1) t R.CAN_B_STATUS_STATE 1) pair)) .a R.CAN_B_STATUS_DRIVING 1

/-- The same with transmit object 3 enabled, its STAT `x`. -/
def canTx (x : Nat) : State :=
  onBoth (fun s t => setStat (wf (wf s t (ofld R.CAN_B_OBJ_ID_EN 0 3) 1) t (ofld R.CAN_B_OBJ_ID_DIR 0 3) 1) t 0 3 x) can0

/-- The pair with context 0, which owns every group and is enabled on every transport. -/
def host0 : State :=
  onBoth (fun s t =>
    let s := wr (wr s t (ha R.HST_H_CFG 0) 0xF800003C#32) t R.HST_OWNER 0#32
    wf s t R.PWR_SLU_CFG_HEADROOM 60000) pair

/-- A state with the crossing out of the HS domain live in both twins. -/
def hsx (s : State) : State :=
  onBoth (fun s t => setXing (setXing s t (xingKey 7 true) { Xing.init with dead := false }) t (xingKey 7 false)
    { Xing.init with dead := false }) s

/-- A NOP that waits in context 0's queue. -/
def nop0 : Queued := { rowCmd 0 0 with counter := 5 }

/-- A reply of two bytes. -/
def reply0 : Reply := ⟨0, 5, 0, 0, 0, [], [1, 2]⟩

/-- The ECP packet of a NOP of context 0 with a counter, under the key 0. -/
def nopPacket (c : Nat) : List Byte := ecpBytes 0 0 0 0 c 0 0 []

/-- Both twins with `graph0` and a fourth node, 1, that the host writes. -/
def nodes0 : State :=
  onBoth (fun s t => modLaw s t (fun l => { l with
    img := some { graph0 with nodes := [⟨0, 1, 0#32, 0, 0#32⟩, ⟨2, 0, 0#32, 0, 0#32⟩] } })) host0

/-- Context 0's change 7 of node 1 at cycle 100, agreed and answered as given. -/
def change7 (agreed : Bool) : Change :=
  ⟨7, rowCmd 0 0x12, .both, 100, 5000000, [⟨BitVec.ofNat 32 (R.LAW_NODE + 4), 0xFFFFFFFF#32, 0x40000000#32⟩], none,
    agreed, agreed⟩

/-- `nodes0` with that change pending. -/
def change0 (agreed : Bool) : State := modHost nodes0 (fun x => { x with changes := [change7 agreed] })

/-- Twin B's granted session 3 of a structural image of 8 bytes, with the words given. -/
def sess0 (w : List (Nat × Option W32)) : State :=
  let r : LeaveReq := ⟨5, 250, .b, true, 0, false⟩
  modFlash { host0 with sluice := { held := [r] } } .b (fun f => { f with
    session := some 3, sessType := 3, sessLen := 8, sessGranted := true, sessWords := w, nextSession := 2 })

/-- A ramp profile of one point at 200 MHz in both twins. -/
def ramp0 : State :=
  onBoth (fun s t => wf (wf (wf s t R.CLK_RAMP_CTRL_NPTS 1) t R.CLK_RAMP_TARGET 200) t R.CLK_RAMP_SLOPE 10) host0

/-! States and operands that meet the hypotheses of the statements. -/

theorem witness_StepRunsTheFrontCommand : ∃ (s : State) (c : Instr) (rest : List Instr), s.pending = c :: rest :=
  ⟨{ pair with pending := [.stat, .vinRise] }, .stat, [.vinRise], rfl⟩
theorem witness_EmptyQueueIsOneTick : ∃ s : State, s.pending = [] ∧ biti s .a R.CLK_STATUS_LOCK 0 = true :=
  ⟨pair, by decide +kernel⟩
theorem witness_RegisterMapsStayCanonical : ∃ s u : State, RegsOk s ∧ step s = .next u :=
  ⟨{ pair with pending := [.vinReturn] }, _, regsOk_of (by decide +kernel), by rfl⟩
theorem witness_TablesStayCanonical : ∃ s u : State, TabsOk s ∧ step s = .next u :=
  ⟨{ pair with pending := [.vinReturn] }, _, tabsOk_of (by decide +kernel), by rfl⟩
theorem witness_OnlyTheHolderDrivesThePins : ∃ s u : State, PinsOk s ∧ s.ilk.pins = some .a ∧ step s = .next u :=
  ⟨{ pair with pending := [.vinReturn] }, _, fun t h => h, rfl, by rfl⟩
theorem witness_TheLockedLifecycleStaysLocked : ∃ s u : State, s.lockedLife = true ∧ step s = .next u :=
  ⟨{ pair with pending := [.vinReturn], lockedLife := true }, _, rfl, by rfl⟩
theorem witness_CommandsLeaveOtherPartsAlone : ∃ (c : Instr) (s u : State) (p : Part), exec c s = .next u ∧
    p ∉ partsOf c := ⟨.vinReturn, pair, _, .ilk, rfl, by decide +kernel⟩
theorem witness_ArrayRowsKeepOtherRegisters : ∃ (c : Instr) (l : List Nat) (s u : State) (a : Nat), RegsOk s ∧ arrayRowBlocks c = some l ∧
    exec c s = .next u ∧ ∀ b, blockOf a = some b → b ∉ l :=
  ⟨.joinRetry .a, [], pair, _, 0x1A00000, regsOk_of (by decide +kernel), rfl, rfl, fun b h => by
    have e : blockOf 0x1A00000 = none := by decide +kernel
    rw [e] at h; cases h⟩
theorem witness_EdgeAndDriveRowsKeepOtherRegisters : ∃ (c : Instr) (l : List Nat) (s u : State) (a : Nat), RegsOk s ∧ edgeRowBlocks c = some l ∧
    exec c s = .next u ∧ ∀ b, blockOf a = some b → b ∉ l :=
  ⟨.compareEvent 0 0, [7, 8, 9], pair, _, 0x1A00000, regsOk_of (by decide +kernel), rfl, rfl, fun b h => by
    have e : blockOf 0x1A00000 = none := by decide +kernel
    rw [e] at h; cases h⟩
theorem witness_MonitorRowsKeepOtherRegisters : ∃ (c : Instr) (l : List Nat) (s u : State) (a : Nat), RegsOk s ∧ monitorRowBlocks c = some l ∧
    exec c s = .next u ∧ ∀ b, blockOf a = some b → b ∉ l :=
  ⟨.negRemoteFix .a 0, [6], pair, _, 0x1A00000, regsOk_of (by decide +kernel), rfl, rfl, fun b h => by
    have e : blockOf 0x1A00000 = none := by decide +kernel
    rw [e] at h; cases h⟩
theorem witness_SystemRowsKeepOtherRegisters : ∃ (c : Instr) (l : List Nat) (s u : State) (a : Nat), RegsOk s ∧ systemRowBlocks c = some l ∧
    exec c s = .next u ∧ ∀ b, blockOf a = some b → b ∉ l :=
  ⟨.vinReturn, [1], pair, _, 0x1A00000, regsOk_of (by decide +kernel), rfl, rfl, fun b h => by
    have e : blockOf 0x1A00000 = none := by decide +kernel
    rw [e] at h; cases h⟩
theorem witness_CellCommandsTouchOneCell : ∃ (c : Instr) (k j : Nat) (s u : State), TabsOk s ∧ cellOf c = some k ∧
    j ≠ k ∧ exec c s = .next u :=
  ⟨.cellTimeLockClear 0 2, 2, 3, cell0 { timeLock := true }, _, tabsOk_of (by decide +kernel), rfl, by decide, rfl⟩
theorem witness_AtMostOneInterlockPinIsHigh : ∃ (s : State) (t : Twin), biti s .a R.PWR_STATUS_GOOD 0 = true ∧
    s.ilk.holder = some t := ⟨pair, .a, by decide +kernel⟩
theorem witness_AtMostOneInterlockPinIsHigh_low : ∃ s : State, biti s .a R.PWR_STATUS_GOOD 0 = true ∧ s.ilk.holder = none :=
  ⟨{ pair with ilk := {} }, by decide +kernel⟩
theorem witness_CountersAreAcceptedOnce : ∃ (s : State) (t : Twin) (h : Fin 4) (y : Transport) (p : List Byte) (x :
  IpPair) (z : PortPair) (n c : Nat), forUs s y x.dst z.dst = true ∧ (xing s (asker s) (xingKey y.domain true)).dead
  = false ∧ RegsOk s ∧ TabsOk s ∧ leader s ≠ none ∧ p.length = 32 + n ∧ n ≤ 1440 ∧ beAt p 1 1 % 4 = h.val ∧ beAt p 3
  1 < 128 ∧ beAt p 8 2 = n ∧ (rd s (asker s) (ha R.HST_H_CFG h.val)).getLsbD 31 = true ∧ (rd s (asker s) (ha
  R.HST_H_CFG h.val)).getLsbD (27 + y.index) = true ∧ (hctx s h.val).rolled = none ∧ tagOk (ctxKey s h.val) p (16 +
  n) = true ∧ (hctx s h.val).kept.all (fun k => k.counter != beAt p 4 4 || k.tag != BitVec.ofNat 128 (beAt p (16 + n)
  16)) = true ∧ twState s t ≠ tsReset ∧ beAt p 4 4 = c ∧ (rd s t (ha R.HST_H_REPLAY h.val)).toNat < 4294967294 ∧
  highCtr s h.val < c :=
  ⟨(hsx host0), .a, 0, .serial, nopPacket 5, ⟨7, 7⟩, ⟨80, 80⟩, 0, 5, by decide +kernel, by decide +kernel, regsOk_of
    (by decide +kernel), tabsOk_of (by decide +kernel), by decide +kernel⟩
theorem witness_CountersAreAcceptedOnce_window : ∃ (s : State) (t : Twin) (h : Fin 4) (y : Transport) (p : List Byte)
  (x : IpPair) (z : PortPair) (n c : Nat), forUs s y x.dst z.dst = true ∧ (xing s (asker s) (xingKey y.domain
  true)).dead = false ∧ RegsOk s ∧ TabsOk s ∧ leader s ≠ none ∧ p.length = 32 + n ∧ n ≤ 1440 ∧ beAt p 1 1 % 4 = h.val
  ∧ beAt p 3 1 < 128 ∧ beAt p 8 2 = n ∧ (rd s (asker s) (ha R.HST_H_CFG h.val)).getLsbD 31 = true ∧ (rd s (asker s)
  (ha R.HST_H_CFG h.val)).getLsbD (27 + y.index) = true ∧ (hctx s h.val).rolled = none ∧ tagOk (ctxKey s h.val) p (16
  + n) = true ∧ (hctx s h.val).kept.all (fun k => k.counter != beAt p 4 4 || k.tag != BitVec.ofNat 128 (beAt p (16 +
  n) 16)) = true ∧ twState s t ≠ tsReset ∧ beAt p 4 4 = c ∧ (rd s t (ha R.HST_H_REPLAY h.val)).toNat < 4294967294 ∧ c
  < highCtr s h.val :=
  ⟨onBoth (fun s t => wr s t (ha R.HST_H_HIGH_CTR 0) 20#32) (hsx host0), .a, 0, .serial, nopPacket 5, ⟨7, 7⟩, ⟨80,
    80⟩, 0, 5, by decide +kernel, by decide +kernel, regsOk_of (by decide +kernel), tabsOk_of (by decide +kernel), by
    decide +kernel⟩
theorem witness_CountersAreAcceptedOnce_replay : ∃ (s : State) (t : Twin) (h : Fin 4) (y : Transport) (p : List Byte)
  (x : IpPair) (z : PortPair) (n c : Nat), forUs s y x.dst z.dst = true ∧ (xing s (asker s) (xingKey y.domain
  true)).dead = false ∧ RegsOk s ∧ TabsOk s ∧ leader s ≠ none ∧ p.length = 32 + n ∧ n ≤ 1440 ∧ beAt p 1 1 % 4 = h.val
  ∧ beAt p 3 1 < 128 ∧ beAt p 8 2 = n ∧ (rd s (asker s) (ha R.HST_H_CFG h.val)).getLsbD 31 = true ∧ (rd s (asker s)
  (ha R.HST_H_CFG h.val)).getLsbD (27 + y.index) = true ∧ (hctx s h.val).rolled = none ∧ tagOk (ctxKey s h.val) p (16
  + n) = true ∧ (hctx s h.val).kept.all (fun k => k.counter != beAt p 4 4 || k.tag != BitVec.ofNat 128 (beAt p (16 +
  n) 16)) = true ∧ twState s t ≠ tsReset ∧ beAt p 4 4 = c ∧ (rd s t (ha R.HST_H_REPLAY h.val)).toNat < 4294967294 ∧ c
  = 0 :=
  ⟨(hsx host0), .a, 0, .serial, nopPacket 0, ⟨7, 7⟩, ⟨80, 80⟩, 0, 0, by decide +kernel, by decide +kernel, regsOk_of
    (by decide +kernel), tabsOk_of (by decide +kernel), by decide +kernel⟩
theorem witness_CancelActsByTheObjectsState : ∃ (s : State) (t : Twin) (b : Fin 2) (m : Fin 128), RegsOk s ∧ TabsOk s ∧
    twState s t ≠ tsReset ∧ ecpObject s (netTwin s) b.val m.val = false ∧ ecpObject s t b.val m.val = false ∧
    flag s t (ofld R.CAN_B_OBJ_ID_DIR b.val m.val) = true ∧ objStat s t b.val m.val = 2 ∧
    canDriver s b.val = some t ∧ (can s t b.val).active = some m.val ∧ (can s t b.val).closing = false ∧
    (xing s t (xingKey 5 true)).dead = false ∧ canState s t b.val = 1 :=
  ⟨modCan (canTx 2) .a 0 (fun c => { c with active := some 3 }), .a, 0, 3, regsOk_of (by decide +kernel),
    tabsOk_of (by decide +kernel), by decide +kernel⟩
theorem witness_CountersSequencesAndTimesFollowTheCommonRules : ∃ (s : State) (t : Twin) (a k : Nat), RegsOk s ∧
    4294967295 ≤ (rd s t a).toNat + k ∧ (∀ w b, counterOvf a = some (w, b) → w ≠ a) ∧ counterOvf a ≠ none :=
  ⟨wr pair .a R.TWN_ROTATIONS 0xFFFFFFFE#32, .a, R.TWN_ROTATIONS, 1, regsOk_of (by decide +kernel), by decide +kernel,
    fun w b h => by
      have e : counterOvf R.TWN_ROTATIONS = some (24117308, 3) := by decide +kernel
      rw [e] at h; injection h with h; injection h with h1 _; rw [← h1]; decide, by decide +kernel⟩

theorem witness_CountersSequencesAndTimesFollowTheCommonRules_seq : ∃ l got d : Nat, l < 65536 ∧ got < 65536 ∧ 1 ≤ d ∧
    d ≤ 256 ∧ (l + d) % 65536 = got := ⟨65535, 255, 256, by decide⟩
theorem witness_FramesMatchReceiveObjectsByIdentifierMask : ∃ (s : State) (t : Twin) (b : Fin 2) (m : Fin 128),
    flag s t (ofld R.CAN_B_OBJ_ID_EN b.val m.val) = true ∧ flag s t (ofld R.CAN_B_OBJ_ID_DIR b.val m.val) = false :=
  ⟨onBoth (fun s t => wf s t (ofld R.CAN_B_OBJ_ID_EN 0 3) 1) can0, .a, 0, 3, by decide +kernel⟩
theorem witness_ArchitectureCommandsComplete_rcRead : ∃ (s : State) (t : Twin) (w : W32), RegsOk s ∧ w.toNat ∈
  [R.TWN_TAKEOVERS, R.TWN_ROTATIONS, R.TWN_HB_MISS, R.SYS_RESETS, R.NET_P_TX_OK] :=
  ⟨cnt pair .a R.TWN_TAKEOVERS, .a, BitVec.ofNat 32 R.TWN_TAKEOVERS, regsOk_of (by decide +kernel), by
    decide +kernel⟩
theorem witness_ArchitectureCommandsComplete_rcRead2 : ∃ (s : State) (t : Twin) (w : W32), RegsOk s ∧ w.toNat ∈
  [R.TWN_TAKEOVERS, R.TWN_ROTATIONS, R.TWN_HB_MISS, R.SYS_RESETS, R.NET_P_TX_OK] :=
  ⟨cnt pair .b R.SYS_RESETS, .b, BitVec.ofNat 32 R.SYS_RESETS, regsOk_of (by decide +kernel), by decide +kernel⟩
theorem witness_ArchitectureCommandsComplete_linkWordReceive : ∃ (s : State) (t : Twin) (g : List (BitVec 4)) (v :
  Nat), groupsWord g = some v :=
  ⟨pair, .b, [1#4, 8#4], 12, by decide +kernel⟩
theorem witness_ArchitectureCommandsComplete_linkWordReceive2 : ∃ (s : State) (t : Twin) (g : List (BitVec 4)),
  groupsWord g = none ∧ (s.tw t).twn.linkErrors < 4294967295 :=
  ⟨pair, .b, [1#4, 3#4], by decide +kernel⟩
theorem witness_ArchitectureCommandsComplete_linkHandshakeTimeout : ∃ (s : State) (t : Twin), RegsOk s ∧ twState s t
  ≠ tsReset :=
  ⟨pair, .b, regsOk_of (by decide +kernel), by decide +kernel⟩
theorem witness_ArchitectureCommandsComplete_crossingTransfer : ∃ (s : State) (t : Twin) (d : Fin 9) (into : Bool) (l
  : List W32) (v : W32), TabsOk s ∧ (xing s t (xingKey d into)).dead = false ∧ (into = true ∨ domainWaits s t d =
  false) ∧ settle 4 l = some v :=
  ⟨setXing pair .a (xingKey 8 false) { Xing.init with dead := false }, .a, 8, false, [5#32, 6#32, 6#32], 6#32,
    tabsOk_of (by decide +kernel), by decide +kernel⟩
theorem witness_ArchitectureCommandsComplete_crossingTransfer2 : ∃ (s : State) (t : Twin) (d : Fin 9) (into : Bool)
  (l : List W32), RegsOk s ∧ TabsOk s ∧ (xing s t (xingKey d into)).dead = false ∧ (into = true ∨ domainWaits s t d =
  false) ∧ settle 4 l = none ∧ 5 ≤ l.length ∧ (rd s t (R.CLK_XING_UNSETTLED + 8 * d.val)).toNat < 4294967294 :=
  ⟨setXing pair .a (xingKey 8 true) { Xing.init with dead := false }, .a, 8, true, [1#32, 2#32, 3#32, 4#32, 5#32],
    regsOk_of (by decide +kernel), tabsOk_of (by decide +kernel), by decide +kernel⟩
theorem witness_ArchitectureCommandsComplete_crossingTransfer3 : ∃ (s : State) (t : Twin) (d : Fin 9) (l : List W32),
  TabsOk s ∧ (xing s t (xingKey d false)).dead = false ∧ domainWaits s t d = true :=
  ⟨setXing pair .a (xingKey 7 false) { Xing.init with dead := false }, .a, 7, [5#32, 6#32, 6#32], tabsOk_of (by
    decide +kernel), by decide +kernel⟩
theorem witness_ArchitectureCommandsComplete_domainWake : ∃ (s : State) (t : Twin) (d : Fin 9), TabsOk s ∧ d.val ∈
  (s.tw t).pwr.gated ∧ (s.tw t).pwr.gated.Nodup ∧ (xing s t (xingKey d false)).offered ≠ [] ∧ domainWaits (modPwr s t
  (fun p => { p with gated := p.gated.erase d.val })) t d = false :=
  ⟨setXing pair .a (xingKey 5 false) { Xing.init with dead := false, offered := [[1#32, 7#32, 7#32]] }, .a, 5,
    tabsOk_of (by decide +kernel), by decide +kernel⟩
theorem witness_ArchitectureCommandsComplete_crossingSideReset : ∃ (s : State) (t : Twin) (d : Fin 9) (fabric into :
  Bool), TabsOk s ∧ (xing s t (xingKey d into)).dead = false :=
  ⟨setXing pair .a (xingKey 3 false) { Xing.init with dead := false }, .a, 3, true, false, tabsOk_of (by
    decide +kernel), by decide +kernel⟩
theorem witness_ArchitectureCommandsComplete_crossingRehandshake : ∃ (s : State) (t : Twin) (d : Fin 9) (into :
  Bool), TabsOk s ∧ (xing s t (xingKey d into)).dead = true :=
  ⟨xingDrop pair .a 3 true true, .a, 3, true, tabsOk_of (by decide +kernel), by decide +kernel⟩
theorem witness_InterlockCommandsComplete_interlockGrant : ∃ (s : State) (t : Twin) (x y : BitVec 5), RegsOk s ∧
  s.ilk.holder = none ∧ ilkReq s t = true ∧ flag s t R.TWN_STATE_ARB_REACH = true ∧ (twState s t = tsFollowing ∨
  twState s t = tsIsolated ∨ twState s t = tsLeading ∨ (twState s t = tsBoot ∧ (s.tw t).pwr.bootDone = true ∧ twOther
  s t ≠ tsLeading)) :=
  ⟨{ pair with ilk := { reqB := true } }, .b, 1, 0, regsOk_of (by decide +kernel), by decide +kernel⟩
theorem witness_InterlockCommandsComplete_interlockGrant2 : ∃ (s : State) (t : Twin) (x y : BitVec 5), s.ilk.holder =
  none ∧ ilkReq s t = true ∧ flag s t R.TWN_STATE_ARB_REACH = false :=
  ⟨wf { pair with ilk := { reqB := true } } .b R.TWN_STATE_ARB_REACH 0, .b, 1, 0, by decide +kernel⟩
theorem witness_InterlockCommandsComplete_sharedPinSwitch : ∃ (s : State) (t : Twin), s.ilk.holder = some t ∧ twState
  s t = tsLeading ∧ s.ilk.pins ≠ some t :=
  ⟨{ pair with ilk := { holder := some .a } }, .a, by decide +kernel⟩
theorem witness_InterlockCommandsComplete_interlockRelease : ∃ (s : State) (t : Twin), RegsOk s ∧ s.ilk.holder = some
  t :=
  ⟨pair, .a, regsOk_of (by decide +kernel), by decide +kernel⟩
theorem witness_InterlockCommandsComplete_interlockRelease2 : ∃ (s : State) (t : Twin), RegsOk s ∧ s.ilk.holder =
  some t ∧ twState s t = tsLeading :=
  ⟨pair, .a, regsOk_of (by decide +kernel), by decide +kernel⟩
theorem witness_InterlockCommandsComplete_keepaliveSend : ∃ (s : State) (t : Twin), RegsOk s ∧ twState s t =
  tsFollowing ∧ s.ilk.holder ≠ some t :=
  ⟨pair, .b, regsOk_of (by decide +kernel), by decide +kernel⟩
theorem witness_InterlockCommandsComplete_keepaliveSend2 : ∃ (s : State) (t : Twin), RegsOk s ∧ twState s t =
  tsLeading ∧ s.ilk.holder = some t ∧ ilkLapsed s t = false :=
  ⟨pair, .a, regsOk_of (by decide +kernel), by decide +kernel⟩
theorem witness_InterlockCommandsComplete_keepaliveSend3 : ∃ (s : State) (t : Twin), RegsOk s ∧ twState s t =
  tsLeading ∧ s.ilk.holder ≠ some t ∧ ilkLapsed s t = true ∧ flag s t R.TWN_STATE_ARB_REACH = true :=
  ⟨setIlkLapsed { pair with ilk := {} } .a true, .a, regsOk_of (by decide +kernel), by decide +kernel⟩
theorem witness_InterlockCommandsComplete_keepaliveSend4 : ∃ (s : State) (t : Twin), wantsInterlock s t = true :=
  ⟨pair, .a, by decide +kernel⟩
theorem witness_InterlockCommandsComplete_keepaliveLapse : ∃ (s : State) (t : Twin), RegsOk s ∧ s.ilk.holder = some t
  :=
  ⟨pair, .a, regsOk_of (by decide +kernel), by decide +kernel⟩
theorem witness_InterlockCommandsComplete_keepaliveLapse2 : ∃ (s : State) (t : Twin), s.ilk.holder ≠ some t :=
  ⟨pair, .b, by decide +kernel⟩
theorem witness_InterlockCommandsComplete_arbiterUnreachable : ∃ (s : State) (t : Twin), RegsOk s ∧ wantsInterlock s
  t = true :=
  ⟨pair, .b, regsOk_of (by decide +kernel), by decide +kernel⟩
theorem witness_InterlockCommandsComplete_isolate : ∃ (s : State) (t : Twin), RegsOk s ∧ twState s t = tsFollowing ∧
  twOther s t = tsLost ∧ s.ilk.holder ≠ some t :=
  ⟨otherLost pair .b, .b, regsOk_of (by decide +kernel), by decide +kernel⟩
theorem witness_InterlockCommandsComplete_isolatedRejoin : ∃ (s : State) (t : Twin), RegsOk s ∧ twState s t =
  tsIsolated ∧ twOther s t = tsLeading :=
  ⟨twinAs .b tsIsolated tsLeading pair, .b, regsOk_of (by decide +kernel), by decide +kernel⟩
theorem witness_TwinHealthCommandsComplete_heartbeatSend : ∃ (s : State) (t : Twin), twState s t ≠ tsReset :=
  ⟨pair, .a, by decide +kernel⟩
theorem witness_TwinHealthCommandsComplete_heartbeatSend2 : ∃ (s : State) (t : Twin), RegsOk s ∧ twState s t =
  tsWithdrawn ∧ rf s t R.TWN_STATE_CAUSE = 10 :=
  ⟨wf (twinAs .a tsWithdrawn tsLeading pair) .a R.TWN_STATE_CAUSE 10, .a, regsOk_of (by decide +kernel), by
    decide +kernel⟩
theorem witness_TwinHealthCommandsComplete_heartbeatReceive : ∃ (s : State) (t : Twin) (hb : Heartbeat), RegsOk s ∧
  twState s t ≠ tsReset ∧ twState s t ≠ tsBoot ∧ ¬(twState s t = tsLeading ∧ hb.state.val = tsLeading ∧ (rd s t
  R.TWN_CLAIM).toNat < hb.claim.toNat) :=
  ⟨pair, .b, ⟨6, 9#32, true, 5#32, 3, true⟩, regsOk_of (by decide +kernel), by decide +kernel⟩
theorem witness_TwinHealthCommandsComplete_heartbeatReceive2 : ∃ (s : State) (t : Twin) (hb : Heartbeat), RegsOk s ∧
  twState s t = tsBoot ∧ (s.tw t).pwr.bootDone = true ∧ (s.tw t).twn.rejoining = false ∧ hb.state.val = tsLeading ∧
  rf s t R.SYS_STATUS_CAUSE ≠ 5 :=
  ⟨modPwr (twinAs .b tsBoot tsLost pair) .b (fun p => { p with bootDone := true }), .b, ⟨4, 9#32, true, 5#32, 3,
    true⟩, regsOk_of (by decide +kernel), by decide +kernel⟩
theorem witness_TwinHealthCommandsComplete_heartbeatReceive3 : ∃ (s : State) (t : Twin) (hb : Heartbeat), RegsOk s ∧
  twState s t = tsLeading ∧ hb.state.val = tsLeading ∧ (rd s t R.TWN_CLAIM).toNat < hb.claim.toNat :=
  ⟨pair, .a, ⟨4, 9#32, true, 5#32, 3, true⟩, regsOk_of (by decide +kernel), by decide +kernel⟩
theorem witness_TwinHealthCommandsComplete_otherLost : ∃ (s : State) (t : Twin), RegsOk s ∧ twState s t ≠ tsReset ∧
  twOther s t ≠ tsLost :=
  ⟨pair, .b, regsOk_of (by decide +kernel), by decide +kernel⟩
theorem witness_TwinHealthCommandsComplete_withdraw : ∃ (s : State) (t : Twin), RegsOk s ∧ twState s t ≠ tsReset ∧
  twState s t ≠ tsWithdrawn ∧ twState s t ≠ tsLeading :=
  ⟨pair, .b, regsOk_of (by decide +kernel), by decide +kernel⟩
theorem witness_TwinHealthCommandsComplete_withdraw2 : ∃ (s : State) (t : Twin), RegsOk s ∧ twState s t = tsLeading
  :=
  ⟨pair, .a, regsOk_of (by decide +kernel), by decide +kernel⟩
theorem witness_TwinHealthCommandsComplete_rejoin : ∃ (s : State) (t : Twin), RegsOk s ∧ twState s t = tsWithdrawn ∧
  causeHolds s t (rf s t R.TWN_STATE_CAUSE) = false ∧ s.pfail = false ∧ 1400 ≤ headroom s t :=
  ⟨twinAs .b tsWithdrawn tsLeading pair, .b, regsOk_of (by decide +kernel), by decide +kernel⟩
theorem witness_TwinHealthCommandsComplete_autoRejoin : ∃ (s : State) (t : Twin), RegsOk s ∧ twState s t =
  tsWithdrawn ∧ flag s t R.TWN_CFG_AUTO_REJOIN = true ∧ rf s t R.TWN_STATE_CAUSE ∈ [3, 4, 7, 8, 12] ∧ causeHolds s t
  (rf s t R.TWN_STATE_CAUSE) = false ∧ (s.tw t).twn.rejoining = false ∧ (recentAuto s t).length < 3 ∧ s.pfail = false
  ∧ 1400 ≤ headroom s t :=
  ⟨wf (wf (twinAs .b tsWithdrawn tsLeading pair) .b R.TWN_STATE_CAUSE 3) .b R.TWN_CFG_AUTO_REJOIN 1, .b, regsOk_of
    (by decide +kernel), by decide +kernel⟩
theorem witness_TwinHealthCommandsComplete_fullSelftestComplete : ∃ (s : State) (t : Twin), RegsOk s ∧ (twState s t =
  tsWithdrawn ∨ (twState s t = tsBoot ∧ twOther s t = tsLeading)) ∧ (s.tw t).twn.rejoining = true ∧ (s.tw
  t).pwr.fullTest = true :=
  ⟨startRejoin (twinAs .b tsWithdrawn tsLeading pair) .b true, .b, regsOk_of (by decide +kernel), by decide +kernel⟩
theorem witness_TwinHealthCommandsComplete_fullSelftestComplete2 : ∃ (s : State) (t : Twin), RegsOk s ∧ twState s t =
  tsWithdrawn ∧ (s.tw t).twn.rejoining = true ∧ (s.tw t).pwr.fullTest = true :=
  ⟨startRejoin (twinAs .b tsWithdrawn tsLeading pair) .b true, .b, regsOk_of (by decide +kernel), by decide +kernel⟩
theorem witness_TwinHealthCommandsComplete_fastSelftestComplete : ∃ (s : State) (l : Twin) (x y : BitVec 16), RegsOk
  s ∧ s.a.twn.stScheduled = true ∧ s.b.twn.stScheduled = true ∧ paired s l = true :=
  ⟨onBoth (fun s t => modTwn s t (fun x => { x with stScheduled := true })) pair, .a, 0, 3, regsOk_of (by
    decide +kernel), by decide +kernel⟩
theorem witness_TwinHealthCommandsComplete_fastSelftestComplete2 : ∃ (s : State) (l : Twin) (x y : BitVec 16), RegsOk
  s ∧ s.a.twn.stScheduled = true ∧ s.b.twn.stScheduled = true ∧ paired s l = true :=
  ⟨onBoth (fun s t => modTwn s t (fun x => { x with stScheduled := true })) pair, .a, 0, 3, regsOk_of (by
    decide +kernel), by decide +kernel⟩
theorem witness_TwinHealthCommandsComplete_fastSelftestComplete3 : ∃ (s : State) (l : Twin) (x y : BitVec 16), RegsOk
  s ∧ s.a.twn.stScheduled = true ∧ s.b.twn.stScheduled = true ∧ paired s l = true :=
  ⟨onBoth (fun s t => modTwn s t (fun x => { x with stScheduled := true })) pair, .a, 0, 3, regsOk_of (by
    decide +kernel), by decide +kernel⟩
theorem witness_TwinHealthCommandsComplete_fastSelftestComplete4 : ∃ (s : State) (l : Twin) (x y : BitVec 16), RegsOk
  s ∧ s.a.twn.stScheduled = true ∧ s.b.twn.stScheduled = true ∧ paired s l = true :=
  ⟨onBoth (fun s t => modTwn s t (fun x => { x with stScheduled := true })) pair, .a, 0, 3, regsOk_of (by
    decide +kernel), by decide +kernel⟩
theorem witness_TwinHealthCommandsComplete_dieOvertemp : ∃ (s : State) (t : Twin) (x : BitVec 16), RegsOk s :=
  ⟨pair, .b, 1300, regsOk_of (by decide +kernel)⟩
theorem witness_TwinHealthCommandsComplete_uncorrectableEcc : ∃ (s : State) (t : Twin) (g : Fin 4), RegsOk s ∧
  twState s t ≠ tsReset ∧ twState s t ≠ tsWithdrawn ∧ (rd s t R.HLT_ECC_UNCORR).toNat < 4294967294 :=
  ⟨pair, .b, 1, regsOk_of (by decide +kernel), by decide +kernel⟩
theorem witness_HandoverAndJoinCommandsComplete_handoverName : ∃ (s : State) (l : Twin) (x : W64), leader s = some l
  ∧ handoverDue s l = true ∧ handoverFit s l = true ∧ (s.tw l).twn.handAfter ≤ (s.tw l).tb.toNat ∧ (s.tw l).tb.toNat
  + 100000 ≤ x.toNat :=
  ⟨modTwn pair .a (fun x => { x with rotating := true }), .a, 200000, by decide +kernel⟩
theorem witness_HandoverAndJoinCommandsComplete_handover : ∃ (s : State) (l : Twin), RegsOk s ∧ leader s = some l ∧
  (s.tw l).twn.handover ≠ none ∧ handoverFit s l = true ∧ s.ilk.holder = some l ∧ rf s l R.TWN_STATE_PEND_CAUSE = 0
  :=
  ⟨modTwn pair .a (fun x => { x with rotating := true, handover := some 5 }), .a, regsOk_of (by decide +kernel), by
    decide +kernel⟩
theorem witness_HandoverAndJoinCommandsComplete_handover2 : ∃ (s : State) (l : Twin), RegsOk s ∧ leader s = some l ∧
  (s.tw l).twn.handover ≠ none ∧ handoverFit s l = true ∧ s.ilk.holder = some l ∧ rf s l R.TWN_STATE_PEND_CAUSE ≠ 0
  :=
  ⟨wf (modTwn pair .a (fun x => { x with handover := some 5 })) .a R.TWN_STATE_PEND_CAUSE 1, .a, regsOk_of (by
    decide +kernel), by decide +kernel⟩
theorem witness_HandoverAndJoinCommandsComplete_handover3 : ∃ (s : State) (l : Twin), leader s = some l ∧ (s.tw
  l).twn.handover ≠ none :=
  ⟨modTwn pair .a (fun x => { x with rotating := true, handover := some 5 }), .a, by decide +kernel⟩
theorem witness_HandoverAndJoinCommandsComplete_handoverPostpone : ∃ (s : State) (l : Twin), RegsOk s ∧ leader s =
  some l ∧ handoverDue s l = true ∧ (rd s l R.TWN_ROT_POSTPONED).toNat < 4294967294 :=
  ⟨modTwn pair .a (fun x => { x with rotating := true, handover := some 5 }), .a, regsOk_of (by decide +kernel), by
    decide +kernel⟩
theorem witness_HandoverAndJoinCommandsComplete_rotationDue : ∃ (s : State) (t : Twin), RegsOk s ∧ rf s t
  R.TWN_CFG_ROT_HOURS = 0 :=
  ⟨wf pair .a R.TWN_CFG_ROT_HOURS 0, .a, regsOk_of (by decide +kernel), by decide +kernel⟩
theorem witness_HandoverAndJoinCommandsComplete_rotationDue2 : ∃ (s : State) (t : Twin), RegsOk s ∧ rf s t
  R.TWN_CFG_ROT_HOURS ≠ 0 ∧ twState s t = tsLeading ∧ rotationFit s t = true :=
  ⟨modTwn (wf pair .a R.TWN_CFG_ROT_HOURS 24) .b (fun x => { x with bgPass := 63 }), .a, regsOk_of (by
    decide +kernel), by decide +kernel⟩
theorem witness_HandoverAndJoinCommandsComplete_rotateNow : ∃ (s : State) (t : Twin), twState s t = tsLeading ∧
  rotationFit s t = true :=
  ⟨modTwn pair .b (fun x => { x with bgPass := 63 }), .a, by decide +kernel⟩
theorem witness_HandoverAndJoinCommandsComplete_backgroundSelftestSlice : ∃ (s : State) (t : Twin) (i : Fin 6) (x :
  W32) (y : Fin 101), RegsOk s ∧ sliceRuns s t i.val = true ∧ (rd s t R.HLT_ECC_CORR).toNat + x.toNat < 4294967295 :=
  ⟨pair, .a, 0, 7#32, 99, regsOk_of (by decide +kernel), by decide +kernel⟩
theorem witness_HandoverAndJoinCommandsComplete_joinComplete : ∃ (s : State) (t : Twin), RegsOk s ∧ twState s t =
  tsJoining ∧ twState s t.other = tsLeading ∧ twOther s t = tsLeading ∧ twOther s t.other ≠ tsLost ∧ (s.tw
  t).twn.linkFailed = false ∧ (s.tw t.other).twn.linkFailed = false ∧ (s.tw t).twn.joinFailed = false ∧ (s.tw
  t.other).law.img.map (·.inputHash) = (s.tw t).law.img.map (·.inputHash) :=
  ⟨wf (twinAs .b tsJoining tsLeading pair) .a R.TWN_STATE_OTHER tsJoining, .b, regsOk_of (by decide +kernel), by
    decide +kernel⟩
theorem witness_HandoverAndJoinCommandsComplete_joinTimeout : ∃ (s : State) (t : Twin), RegsOk s ∧ twState s t =
  tsJoining ∧ (s.tw t).twn.joinFailed = false :=
  ⟨twinAs .b tsJoining tsLeading pair, .b, regsOk_of (by decide +kernel), by decide +kernel⟩
theorem witness_HandoverAndJoinCommandsComplete_joinRetry : ∃ (s : State) (t : Twin), twState s t = tsJoining :=
  ⟨twinAs .b tsJoining tsLeading pair, .b, by decide +kernel⟩
theorem witness_HandoverAndJoinCommandsComplete_soakEnd : ∃ (s : State) (t : Twin), RegsOk s ∧ twState s t =
  tsFollowing ∧ (s.tw t).twn.updated = true ∧ twState s t.other = tsLeading ∧ (s.tw t.other).twn.updated = false :=
  ⟨modTwn pair .b (fun x => { x with updated := true }), .b, regsOk_of (by decide +kernel), by decide +kernel⟩
theorem witness_HandoverAndJoinCommandsComplete_bootComplete : ∃ (s : State) (t : Twin) (x : Bool) (ms : BitVec 16),
  RegsOk s ∧ twState s t = tsBoot ∧ (s.tw t).pwr.bootDone = false :=
  ⟨twinAs .b tsBoot tsLeading pair, .b, true, 30, regsOk_of (by decide +kernel), by decide +kernel⟩
theorem witness_HandoverAndJoinCommandsComplete_contactSheetRefresh : ∃ (s : State) (t : Twin) (m : HealthMeas),
  RegsOk s ∧ twState s t ≠ tsReset :=
  ⟨pair, .a, ⟨[(3, 7#32)], 2, 0x20, 1, [0#32]⟩, regsOk_of (by decide +kernel), by decide +kernel⟩
theorem witness_HandoverAndJoinCommandsComplete_snap : ∃ (s : State) (t : Twin) (m : HealthMeas), RegsOk s ∧ twState
  s t ≠ tsReset :=
  ⟨pair, .a, ⟨[(3, 7#32)], 2, 0x20, 1, [0#32]⟩, regsOk_of (by decide +kernel), by decide +kernel⟩
theorem witness_HandoverAndJoinCommandsComplete_digestCompare : ∃ (s : State) (t : Twin) (k : Fin 4) (n : W32) (x y :
  DigRec), RegsOk s ∧ s.a.twn.dig.find? (fun e => e.1 == 4 * n.toNat + k.val) = some (4 * n.toNat + k.val, x) ∧
  s.b.twn.dig.find? (fun e => e.1 == 4 * n.toNat + k.val) = some (4 * n.toNat + k.val, y) ∧ x.d ≠ y.d ∧ flag s .a
  R.TWN_STATE_COMPARE = true ∧ flag s .b R.TWN_STATE_COMPARE = true ∧ s.a.twn.stScheduled = false ∧
  s.b.twn.stScheduled = false :=
  ⟨onBoth (fun s t => modTwn s t (fun x => { x with dig := [(37, ⟨9, BitVec.ofNat 64 t.index, []⟩)] })) pair, .b, 1,
    9#32, ⟨9, 0, []⟩, ⟨9, 1, []⟩, regsOk_of (by decide +kernel), by decide +kernel⟩
theorem witness_LawCommandsComplete_load : ∃ (s : State) (tg : Target) (t : Twin), RegsOk s ∧ (tg = .both ∨ tg = .one
  t) ∧ (targetCode tg (fun t => if loadAllowed s t then Rc.OK else Rc.GRAPH_ACTIVE) = Rc.OK) ∧ leaveFree s (asker s)
  2 0 = true :=
  ⟨pair, .both, .a, regsOk_of (by decide +kernel), by decide +kernel⟩
theorem witness_LawCommandsComplete_load2 : ∃ (s : State) (tg : Target), (targetCode tg (fun t => if loadAllowed s t
  then Rc.OK else Rc.GRAPH_ACTIVE) ≠ Rc.OK) :=
  ⟨wf pair .a R.ARR_CTRL_ENABLE 1, .both, by decide +kernel⟩
theorem witness_LawCommandsComplete_coefWrite : ∃ (s : State) (t : Twin) (b : Fin 4096) (i : Fin 16) (v : W32),
  RegsOk s ∧ coefCode s .a b.val i.val v = Rc.OK ∧ coefCode s .b b.val i.val v = Rc.OK :=
  ⟨law0 [] [], .b, 1, 3, 0x3F800000#32, regsOk_of (by decide +kernel), by decide +kernel⟩
theorem witness_LawCommandsComplete_swap : ∃ (s : State) (tg : Target) (t : Twin) (g : GraphImg) (b : Nat), RegsOk s
  ∧ (tg = .both ∨ tg = .one t) ∧ graph s t = some g ∧ targetCode tg (swapCode s) = Rc.OK ∧ b ∈ swapMap s t g :=
  ⟨onBoth (fun s t => wr s t R.LAW_SWAP_MAP 2#32) (law0 [] []), .both, .a, graph0, 1, regsOk_of (by decide +kernel),
    by decide +kernel⟩
theorem witness_LawCommandsComplete_swap2 : ∃ (s : State) (tg : Target), targetCode tg (swapCode s) ≠ Rc.OK :=
  ⟨onBoth (fun s t => wr (wr s t R.LAW_SWAP_MAP 2#32) t (R.LAW_BLK_LAT + 256) 0x3F800000#32) (law0 [] []), .both, by
    decide +kernel⟩
theorem witness_LawCommandsComplete_swapDevelop : ∃ (s : State) (t : Twin) (k : Fin 4) (g : GraphImg) (x : GBlock) (b
  : Nat) (i : Fin 16), RegsOk s ∧ graph s t = some g ∧ g.blocks.length ≤ 4096 ∧ ((groupBlocks g k.val).map
  (·.2)).Nodup ∧ (x, b) ∈ groupBlocks g k.val ∧ b ∈ (s.tw t).law.swapSet :=
  ⟨wr (law0 [] [1]) .a (R.LAW_BLK_LAT + 256) 5#32, .a, 0, graph0, ⟨0x0A, 0, [(2, false)], 1, 1, [], [], [], []⟩, 1,
    0, regsOk_of (by decide +kernel), by decide +kernel⟩
theorem witness_LawCommandsComplete_handoverForced : ∃ (s : State) (t : Twin) (b : Fin 4096) (g : GraphImg), RegsOk s
  ∧ graph s t = some g ∧ (g.blocks[b.val]?).map (·.type) = some 0x29 ∧ rf s t (bf R.LAW_BLK_STATUS_PHASE b.val) = 1
  :=
  ⟨wf (law0 [] []) .a (bf R.LAW_BLK_STATUS_PHASE 0) 1, .a, 0, graph0, regsOk_of (by decide +kernel), by
    decide +kernel⟩
theorem witness_LawCommandsComplete_rgTrigger : ∃ (s : State) (t : Twin) (k : Fin 3) (x : BitVec 12) (r : RgRec),
  tabWf (fun _ => []) (s.tw t).law.queue = true ∧ rgRec s t (k.val + 1) = some r ∧ computing s t = true ∧ rgDue s t
  (k.val + 1) r = true :=
  ⟨wf { law0 [run0] [] with edge := { pwm := [(0, { perN := 1 })] } } .a (pf R.PWM_P_STATUS_RUNNING 0) 1, .a, 0, 5,
    ⟨1, 0, 0, 0, 1, 1000#32, 0⟩, by decide +kernel⟩
theorem witness_LawCommandsComplete_rgRunStart : ∃ (s : State) (t : Twin) (k : Fin 3) (r : RgRun), RegsOk s ∧ tabWf
  (fun _ => []) (s.tw t).law.queue = true ∧ (rgQueue s t (k.val + 1)).find? (fun r => !r.done) = some r ∧ r.closed =
  false ∧ sampled s t (k.val + 1) r.tau = true :=
  ⟨law0 [run0] [], .a, 0, run0, regsOk_of (by decide +kernel), by decide +kernel⟩
theorem witness_LawCommandsComplete_rgRunComplete : ∃ (s : State) (t : Twin) (k : Fin 3) (x : BitVec 16) (r : RgRun),
  RegsOk s ∧ tabWf (fun _ => []) (s.tw t).law.queue = true ∧ (rgQueue s t (k.val + 1)).find? (fun r => !r.done) =
  some r ∧ r.closed = true :=
  ⟨law0 [{ run0 with closed := true }] [], .a, 0, 77, { run0 with closed := true }, regsOk_of (by decide +kernel), by
    decide +kernel⟩
theorem witness_LawCommandsComplete_rgDeadline : ∃ (s : State) (t : Twin) (k : Fin 3) (r : RgRun), tabWf (fun _ =>
  []) (s.tw t).law.queue = true ∧ tabWf (fun _ => 0) (s.tw t).law.ovrRun = true ∧ (rgQueue s t (k.val + 1)).find?
  (fun r => !r.late) = some r ∧ r.done = true :=
  ⟨law0 [{ run0 with closed := true, done := true }] [], .a, 0, { run0 with closed := true, done := true }, by
    decide +kernel⟩
theorem witness_LawCommandsComplete_rgDeadline2 : ∃ (s : State) (t : Twin) (k : Fin 3) (r : RgRun), RegsOk s ∧ tabWf
  (fun _ => []) (s.tw t).law.queue = true ∧ (rgQueue s t (k.val + 1)).find? (fun r => !r.late) = some r ∧ r.done =
  false ∧ (rd s t (R.LAW_RG_OVR + 16 * (k.val + 1))).toNat < 4294967294 :=
  ⟨law0 [run0] [], .a, 0, run0, regsOk_of (by decide +kernel), by decide +kernel⟩
theorem witness_LawCommandsComplete_rgDeadline3 : ∃ (s : State) (t : Twin) (k : Fin 3) (r : RgRun), RegsOk s ∧
  (rgQueue s t (k.val + 1)).find? (fun r => !r.late) = some r ∧ r.done = false ∧ tabGet 0 (s.tw t).law.ovrRun (k.val
  + 1) = 2 ∧ twState s t = tsFollowing :=
  ⟨modLaw (law0 [run0] []) .b (fun l => { l with ovrRun := [(1, 2)] }), .b, 0, run0, regsOk_of (by decide +kernel),
    by decide +kernel⟩
theorem witness_LawCommandsComplete_lawEngineFail : ∃ (s : State) (t : Twin) (e : Fin 8), RegsOk s ∧ twState s t ≠
  tsReset ∧ e.val ∉ (s.tw t).arr.engBad :=
  ⟨pair, .a, 3, regsOk_of (by decide +kernel), by decide +kernel⟩
theorem witness_CycleCommandsComplete_cycleStart : ∃ (s : State) (t : Twin) (n : W32), RegsOk s ∧ computing s t =
  true ∧ twState s t ≠ tsJoining ∧ n.toNat = (s.tw t).arr.n + 1 ∧ (s.tw t).arr.dispatched = true ∧ (s.tw
  t).arr.engFailed = false :=
  ⟨arr0, .a, 11#32, regsOk_of (by decide +kernel), by decide +kernel⟩
theorem witness_CycleCommandsComplete_agreementClose : ∃ (s : State) (t : Twin) (x : BitVec 12), RegsOk s ∧ computing
  s t = true ∧ (s.tw t).arr.inRun = false ∧ setEnded s t ((s.tw t).arr.runN + 1) = true ∧ otherReady s t ((s.tw
  t).arr.runN + 1) = true ∧ sampled s t 0 (cycleStartNs s t ((s.tw t).arr.runN + 1) * 16) = true :=
  ⟨arr0, .a, 0, regsOk_of (by decide +kernel), by decide +kernel⟩
theorem witness_CycleCommandsComplete_rg0RunComplete : ∃ (s : State) (t : Twin) (x : BitVec 16), RegsOk s ∧ computing
  s t = true ∧ (s.tw t).arr.inRun = true ∧ (s.tw t).arr.runN = (s.tw t).arr.n ∧ (s.tw t).arr.hold = false :=
  ⟨modArr (law0 [] []) .a (fun a => { a with inRun := true, runN := 10 }), .a, 9, regsOk_of (by decide +kernel), by
    decide +kernel⟩
theorem witness_CycleCommandsComplete_rg0RunComplete2 : ∃ (s : State) (t : Twin) (x : BitVec 16), RegsOk s ∧
  computing s t = true ∧ (s.tw t).arr.inRun = true ∧ ¬((s.tw t).arr.runN = (s.tw t).arr.n ∧ (s.tw t).arr.hold =
  false) :=
  ⟨modArr (law0 [] []) .a (fun a => { a with inRun := true, runN := 10, hold := true }), .a, 9, regsOk_of (by
    decide +kernel), by decide +kernel⟩
theorem witness_CycleCommandsComplete_dispatchDeadline : ∃ (s : State) (t : Twin), RegsOk s ∧ computing s t = true ∧
  (s.tw t).arr.dispatched = false ∧ (s.tw t).arr.hold = false ∧ (s.tw t).twn.overrunRun < 2 ∧ (s.tw t).twn.missRun <
  7 :=
  ⟨modArr arr0 .a (fun a => { a with dispatched := false }), .a, regsOk_of (by decide +kernel), by decide +kernel⟩
theorem witness_CycleCommandsComplete_dispatchDeadline2 : ∃ (s : State) (t : Twin), RegsOk s ∧ twState s t =
  tsFollowing ∧ (s.tw t).arr.dispatched = false ∧ (s.tw t).arr.hold = false ∧ 2 ≤ (s.tw t).twn.overrunRun :=
  ⟨modTwn (modArr arr0 .b (fun a => { a with dispatched := false })) .b (fun x => { x with overrunRun := 2 }), .b,
    regsOk_of (by decide +kernel), by decide +kernel⟩
theorem witness_CycleCommandsComplete_arrayEnable : ∃ (s : State) (t : Twin), RegsOk s ∧ enableCode (budget s) (asker
  (budget s)) = Rc.OK ∧ (budget s).pfail = false ∧ 1200 ≤ headroom (budget s) (asker (budget s)) ∧ flag (budget s)
  (asker (budget s)) R.ARR_CTRL_ENABLE = false :=
  ⟨onBoth (fun s t => wf (wf s t R.ARR_CTRL_ENABLE 0) t R.ARR_CYCLE_LEN 4095) arr0, .b, regsOk_of (by
    decide +kernel), by decide +kernel⟩
theorem witness_CycleCommandsComplete_arrayFirstFrame : ∃ (s : State) (t : Twin) (n : W32), RegsOk s ∧ ringsReady s =
  true ∧ computing s t = true ∧ (s.tw t).arr.phase = 1 ∧ n ≠ 0#32 :=
  ⟨onBoth (fun s t => modArr s t (fun a => { a with phase := 1 })) arr0, .a, 50#32, regsOk_of (by decide +kernel), by
    decide +kernel⟩
theorem witness_CycleCommandsComplete_arrayStop : ∃ (s : State) (t : Twin) (k : Fin 192), RegsOk s ∧ flag s (asker s)
  R.ARR_CTRL_ENABLE = true :=
  ⟨arr0, .b, 1, regsOk_of (by decide +kernel), by decide +kernel⟩
theorem witness_CycleCommandsComplete_mapEntryWrite : ∃ (s : State) (t : Twin) (k : Fin 192) (v : W32), RegsOk s ∧
  mapEntryCode s (asker s) k.val v = Rc.OK :=
  ⟨pair, .b, 7, 0x40020000#32, regsOk_of (by decide +kernel), by decide +kernel⟩
theorem witness_ArrayCommandsComplete_carrierRotation : ∃ (s : State) (t : Twin) (i : Fin 6), computing s t = true ∧
  (rf s t (sf R.ARR_S_CFG_ROT_MODE i.val) = 1 ∨ rf s t (sf R.ARR_S_CFG_ROT_MODE i.val) = 2) ∧ rf s t
  R.ARR_CTRL_ROT_EN ≠ 0 ∧ (strX s t i.val).rotAt + rf s t (sf R.ARR_S_CFG_ROT_K i.val) ≤ (s.tw t).arr.n + 2 :=
  ⟨wf (wf (wf arr0 .a (sf R.ARR_S_CFG_ROT_MODE 0) 1) .a R.ARR_CTRL_ROT_EN 1) .a (sf R.ARR_S_CFG_ROT_K 0) 4, .a, 0, by
    decide +kernel⟩
theorem witness_ArrayCommandsComplete_carrierRotation2 : ∃ (s : State) (t : Twin) (i : Fin 6), (rf s t (sf
  R.ARR_S_CFG_ROT_MODE i.val) = 0 ∨ rf s t R.ARR_CTRL_ROT_EN = 0 ∨ (s.tw t).arr.n + 2 < (strX s t i.val).rotAt + rf s
  t (sf R.ARR_S_CFG_ROT_K i.val)) :=
  ⟨arr0, .a, 0, by decide +kernel⟩
theorem witness_ArrayCommandsComplete_thermalUpdate : ∃ (s : State) (t : Twin) (k : Fin 192) (i : Fin 6), RegsOk s ∧
  tabWf (fun _ => ({} : CellX)) (s.tw t).arr.cells = true ∧ i.val < stringsUsed s t ∧ k.val ∈ strIn s t i.val
  [csActive, csInserting] :=
  ⟨arr0, .a, 1, 0, regsOk_of (by decide +kernel), by decide +kernel⟩
theorem witness_ArrayCommandsComplete_thermalUpdate2 : ∃ (s : State) (t : Twin) (k : Fin 192), RegsOk s ∧ tabWf (fun
  _ => ({} : CellX)) (s.tw t).arr.cells = true ∧ (∀ i : Fin 6, k.val ∉ strIn s t i.val [csActive, csInserting]) :=
  ⟨arr0, .a, 2, regsOk_of (by decide +kernel), by decide +kernel⟩
theorem witness_ArrayCommandsComplete_weightUpdate : ∃ (s : State) (t : Twin) (k : Fin 192) (i : Fin 6) (v : W32),
  RegsOk s ∧ i.val < stringsUsed s t ∧ (k.val, v) ∈ weights s t i.val :=
  ⟨wf arr0 .a R.ARR_CTRL_WEAR_EN 1, .a, 1, 0, 0x3F800000#32, regsOk_of (by decide +kernel), by decide +kernel⟩
theorem witness_ArrayCommandsComplete_weightUpdate2 : ∃ (s : State) (t : Twin) (k : Fin 192) (i : Fin 6), RegsOk s ∧
  i.val < stringsUsed s t ∧ k.val ∈ strIn s t i.val [csActive] ∧ rf s t R.ARR_CTRL_WEAR_EN = 0 :=
  ⟨wf arr0 .a R.ARR_CTRL_WEAR_EN 0, .a, 1, 0, regsOk_of (by decide +kernel), by decide +kernel⟩
theorem witness_ArrayCommandsComplete_wearRecordSave : ∃ (s : State) (t : Twin), leaveFree s t 5 4 = true :=
  ⟨arr0, .a, by decide +kernel⟩
theorem witness_ArrayCommandsComplete_wearRecordSave2 : ∃ (s : State) (t : Twin), RegsOk s ∧ leaveFree s t 5 4 = true
  :=
  ⟨arr0, .a, regsOk_of (by decide +kernel), by decide +kernel⟩
theorem witness_ArrayCommandsComplete_wearRecordSave3 : ∃ (s : State) (t : Twin) (x : Bool), RegsOk s ∧ s.report =
  Rc.OK ∧ (s.pfail = true ∨ headroom s t < leaveCost 5 4) :=
  ⟨{ arr0 with pfail := true }, .a, true, regsOk_of (by decide +kernel), by decide +kernel⟩
theorem witness_ArrayCommandsComplete_estimatorResult : ∃ (s : State) (t : Twin) (k : Fin 192) (i : Fin 6), RegsOk s
  ∧ tabWf (fun _ => ({} : CellX)) (s.tw t).arr.cells = true ∧ rf s t R.ARR_CTRL_EST_EN ≠ 0 ∧ k.val ∈ strIn s t i.val
  [csActive] :=
  ⟨wf arr0 .a R.ARR_CTRL_EST_EN 1, .a, 1, 0, regsOk_of (by decide +kernel), by decide +kernel⟩
theorem witness_ArrayCommandsComplete_estimatorResult2 : ∃ (s : State) (t : Twin) (i : Fin 6), rf s t
  R.ARR_CTRL_EST_EN = 0 :=
  ⟨wf arr0 .a R.ARR_CTRL_EST_EN 0, .a, 0, by decide +kernel⟩
theorem witness_ArrayCommandsComplete_imbalanceDetected : ∃ (s : State) (t : Twin) (k : Fin 192), RegsOk s ∧
  computing s t = true ∧ cellSt s t k.val = csActive ∧ rf s t R.ARR_PLAUS_DEV_CYCLES ≤ (cellX s t k.val).dev :=
  ⟨modCellX arr0 .a 1 (fun x => { x with dev := 300 }), .a, 1, regsOk_of (by decide +kernel), by decide +kernel⟩
theorem witness_ArrayCommandsComplete_cellLostDetected : ∃ (s : State) (t : Twin) (k : Fin 192), RegsOk s ∧ computing
  s t = true ∧ judged s t k.val = true ∧ rf s t R.ARR_TIMING_CMDLOSS + 2 ≤ (cellX s t k.val).miss :=
  ⟨modCellX arr0 .a 1 (fun x => { x with miss := 300 }), .a, 1, regsOk_of (by decide +kernel), by decide +kernel⟩
theorem witness_ArrayCommandsComplete_cellBypass : ∃ (s : State) (t : Twin) (k : Fin 192), RegsOk s ∧ computing s t =
  true ∧ judged s t k.val = true :=
  ⟨arr0, .b, 0, regsOk_of (by decide +kernel), by decide +kernel⟩
theorem witness_ArrayCommandsComplete_bypassUnconfirmed : ∃ (s : State) (t : Twin) (k : Fin 192) (i : Nat), RegsOk s
  ∧ computing s t = true ∧ cellSt s t k.val = csBypassing ∧ (cellX s t k.val).bypAt = some i ∧ i + 1 + rf s t
  R.ARR_OXB_CONFIRM ≤ (s.tw t).arr.n :=
  ⟨wf (modCellX (setCellSt arr0 .a 1 csBypassing) .a 1 (fun x => { x with bypAt := some 1 })) .a R.ARR_OXB_CONFIRM 2,
    .a, 1, 1, regsOk_of (by decide +kernel), by decide +kernel⟩
theorem witness_ArrayCommandsComplete_cellInsert : ∃ (s : State) (t : Twin) (k : Fin 192), RegsOk s ∧ computing s t =
  true ∧ insertCode s (asker s) k.val = Rc.OK ∧ cellSt s t k.val = csStandby :=
  ⟨arr0, .b, 2, regsOk_of (by decide +kernel), by decide +kernel⟩
theorem witness_ArrayCommandsComplete_cellInsert2 : ∃ (s : State) (k : Fin 192), insertCode s (asker s) k.val ≠ Rc.OK
  :=
  ⟨arr0, 0, by decide +kernel⟩
theorem witness_ArrayCommandsComplete_cellReadmit : ∃ (s : State) (k : Fin 192), readmitCode s (asker s) k.val ≠
  Rc.OK :=
  ⟨arr0, 0, by decide +kernel⟩
theorem witness_ArrayCommandsComplete_spareInsertStart : ∃ (s : State) (t : Twin) (k : Fin 192), RegsOk s ∧ computing
  s t = true ∧ (cellX s t k.val).waits = true ∧ (ringLive s .a (mapChain (rd s t (R.ARR_MAP + 4 * k.val))) = true ∨
  ringLive s .b (mapChain (rd s t (R.ARR_MAP + 4 * k.val))) = true) ∧ flag s t R.ARR_STATUS_BLOCKED = false ∧
  safeBlocked s t = false :=
  ⟨modCellX arr0 .a 2 (fun x => { x with waits := true }), .a, 2, regsOk_of (by decide +kernel), by decide +kernel⟩
theorem witness_ArrayCommandsComplete_insertTimeout : ∃ (s : State) (t : Twin) (k : Fin 192), RegsOk s ∧ computing s
  t = true ∧ cellSt s t k.val = csInserting ∧ (strRef s t (mapString (rd s t (R.ARR_MAP + 4 * k.val)))).run = true :=
  ⟨modArr (setCellSt arr0 .a 2 csInserting) .a (fun a => { a with refs := [(0, { run := true })] }), .a, 2, regsOk_of
    (by decide +kernel), by decide +kernel⟩
theorem witness_ArrayCommandsComplete_cellReadmit2 : ∃ (s : State) (t : Twin) (k : Fin 192), RegsOk s ∧ readmitCode s
  (asker s) k.val = Rc.OK :=
  ⟨onBoth (fun s t => setCellSt s t 1 csBypassed) arr0, .b, 1, regsOk_of (by decide +kernel), by decide +kernel⟩
theorem witness_RingCommandsComplete_ringRxSync : ∃ (s : State) (t : Twin) (c : Fin 12), RegsOk s ∧ TabsOk s ∧ ringSt
  s t c.val = 2 :=
  ⟨ring0 2, .a, 0, regsOk_of (by decide +kernel), tabsOk_of (by decide +kernel), by decide +kernel⟩
theorem witness_RingCommandsComplete_ringStartTimeout : ∃ (s : State) (t : Twin) (c : Fin 12), RegsOk s ∧ (ringSt s t
  c.val = 2 ∨ ringSt s t c.val = 3) :=
  ⟨ring0 3, .b, 0, regsOk_of (by decide +kernel), by decide +kernel⟩
theorem witness_RingCommandsComplete_ringRetry : ∃ (s : State) (t : Twin) (c : Fin 12), RegsOk s ∧ TabsOk s ∧ ringSt
  s t c.val = 6 ∧ sends s t = true ∧ (trainPaid s c.val = true ∨ leaveFree s (asker s) 0 (2 ^ c.val) = true) :=
  ⟨ring0 6, .b, 0, regsOk_of (by decide +kernel), tabsOk_of (by decide +kernel), by decide +kernel⟩
theorem witness_RingCommandsComplete_ringRetry2 : ∃ (s : State) (t : Twin) (c : Fin 12), RegsOk s ∧ TabsOk s ∧ ringSt
  s t c.val = 6 ∧ sends s t = true ∧ s.pfail = false ∧ trainPaid s c.val = false ∧ 100 ≤ headroom s (asker s) ∧
  headroom s (asker s) < inUse s (asker s) + 100 ∧ sameLedger s (asker s) s.sluice.queue = [] :=
  ⟨onBoth (fun s t => wf s t R.PWR_SLU_CFG_HEADROOM 1450)
    { ring0 6 with sluice := { held := [⟨1, 1400, .a, true, 0, false⟩] } }, .b, 0, regsOk_of (by decide +kernel),
    tabsOk_of (by decide +kernel), by decide +kernel⟩
theorem witness_RingCommandsComplete_restart : ∃ (s : State) (t : Twin) (c : Fin 12), RegsOk s ∧ TabsOk s ∧ sends s t
  = true ∧ 0 < chainLen s t c.val ∧ (chainCold s t c.val = false ∨ ringWarm s t c.val = true) ∧ (trainPaid s c.val =
  true ∨ leaveFree s (asker s) 0 (2 ^ c.val) = true) :=
  ⟨ring0 5, .a, 0, regsOk_of (by decide +kernel), tabsOk_of (by decide +kernel), by decide +kernel⟩
theorem witness_RingCommandsComplete_ringRxSyncLost : ∃ (s : State) (t : Twin) (c : Fin 12), RegsOk s ∧ TabsOk s ∧ 3
  ≤ ringSt s t c.val ∧ ringSt s t c.val ≠ 6 :=
  ⟨ring0 5, .a, 0, regsOk_of (by decide +kernel), tabsOk_of (by decide +kernel), by decide +kernel⟩
theorem witness_RingCommandsComplete_probeCycle : ∃ (s : State) (t : Twin) (c : Fin 12), RegsOk s ∧ ringLive s t
  c.val = true ∧ (s.tw t).arr.phase = 2 :=
  ⟨arr0, .b, 0, regsOk_of (by decide +kernel), by decide +kernel⟩
theorem witness_RingCommandsComplete_probeStale : ∃ (s : State) (t : Twin) (c : Fin 12), RegsOk s ∧ 2 ≤ ringSt s t
  c.val :=
  ⟨arr0, .a, 0, regsOk_of (by decide +kernel), by decide +kernel⟩
theorem witness_RingCommandsComplete_frameReturn : ∃ (s : State) (t : Twin) (c : Fin 12) (b : List Byte) (y : BitVec
  16) (x : BitVec 52), RegsOk s ∧ TabsOk s ∧ (xing s t (xingKey 3 true)).dead = false ∧ Frame.wrapped b = false ∧
  (ringX s t c.val).awaited = true ∧ Frame.lengthOk b = true ∧ Frame.hcrcOk b = true ∧ Frame.fcrcOk b = true ∧
  (Frame.get b 0 1 = 1 ∨ Frame.get b 0 1 = 2) ∧ ownFrame t c.val b = true ∧ Frame.get b 2 2 = (ringX s t c.val).seq ∧
  (rd s t (ta R.TRB_RX_CODE c.val)).toNat + y.toNat < 4294967295 ∧ (rd s t (ta R.TRB_RX_OK c.val)).toNat < 4294967294
  :=
  ⟨ring0 5, .a, 0, frame0 .a 3, 2, 77, regsOk_of (by decide +kernel), tabsOk_of (by decide +kernel), by
    decide +kernel⟩
theorem witness_RingCommandsComplete_frameReturn2 : ∃ (s : State) (t : Twin) (c : Fin 12) (b : List Byte) (y : BitVec
  16) (x : BitVec 52), RegsOk s ∧ TabsOk s ∧ (xing s t (xingKey 3 true)).dead = false ∧ Frame.wrapped b = false ∧
  (ringX s t c.val).awaited = true ∧ Frame.lengthOk b = true ∧ Frame.hcrcOk b = false ∧ (rd s t (ta R.TRB_RX_CODE
  c.val)).toNat + y.toNat < 4294967295 ∧ (rd s t (ta R.TRB_RX_HCRC c.val)).toNat < 4294967294 :=
  ⟨ring0 5, .a, 0, Frame.put (frame0 .a 3) 4 [0xFF#8], 2, 77, regsOk_of (by decide +kernel), tabsOk_of (by
    decide +kernel), by decide +kernel⟩
theorem witness_RingCommandsComplete_frameReturn3 : ∃ (s : State) (t : Twin) (c : Fin 12) (b : List Byte) (y : BitVec
  16) (x : BitVec 52), RegsOk s ∧ TabsOk s ∧ (xing s t (xingKey 3 true)).dead = false ∧ Frame.wrapped b = false ∧
  (ringX s t c.val).awaited = true ∧ Frame.lengthOk b = true ∧ Frame.hcrcOk b = true ∧ Frame.fcrcOk b = false ∧
  ownFrame t c.val b = true ∧ Frame.get b 2 2 = (ringX s t c.val).seq ∧ (rd s t (ta R.TRB_RX_FCRC c.val)).toNat <
  4294967294 :=
  ⟨ring0 5, .a, 0, Frame.put (frame0 .a 3) 40 [0xFF#8], 0, 77, regsOk_of (by decide +kernel), tabsOk_of (by
    decide +kernel), by decide +kernel⟩
theorem witness_RingCommandsComplete_frameReturn4 : ∃ (s : State) (t : Twin) (c : Fin 12) (b : List Byte) (y : BitVec
  16) (x : Bool) (z : BitVec 52), RegsOk s ∧ TabsOk s ∧ (xing s t (xingKey 3 true)).dead = true ∧ (rd s t
  (R.CLK_XING_DROPPED_AT_RESET + 24)).toNat < 4294967294 :=
  ⟨arr0, .a, 0, frame0 .a 3, 2, true, 77, regsOk_of (by decide +kernel), tabsOk_of (by decide +kernel), by
    decide +kernel⟩
theorem witness_RingCommandsComplete_wrappedFrameRelay : ∃ (s : State) (t : Twin) (c : Fin 12) (b : List Byte),
  RegsOk s ∧ TabsOk s ∧ (s.tw t).twn.linkFailed = false ∧ Frame.wrapped b = true ∧ (ringX s t.other c.val).awaited =
  true ∧ Frame.lengthOk b = true ∧ Frame.hcrcOk b = true ∧ Frame.fcrcOk b = true ∧ (Frame.get b 0 1 = 1 ∨ Frame.get b
  0 1 = 2) ∧ ownFrame t.other c.val b = true ∧ Frame.get b 2 2 = (ringX s t.other c.val).seq ∧ (rd s t.other (ta
  R.TRB_RX_OK c.val)).toNat < 4294967294 :=
  ⟨ring0 5, .b, 0, frameW .a 3, regsOk_of (by decide +kernel), tabsOk_of (by decide +kernel), by decide +kernel⟩
theorem witness_RingCommandsComplete_returnDeadline : ∃ (s : State) (t : Twin) (c : Fin 12), RegsOk s ∧ TabsOk s ∧
  (ringX s t c.val).awaited = true ∧ (rd s t (ta R.TRB_RX_MISSING c.val)).toNat < 4294967294 :=
  ⟨ring0 5, .a, 0, regsOk_of (by decide +kernel), tabsOk_of (by decide +kernel), by decide +kernel⟩
theorem witness_RingCommandsComplete_delayExchange : ∃ (s : State) (t : Twin) (c : Fin 12) (x : Fin 17) (t1 t4 :
  BitVec 40) (y : BitVec 24), RegsOk s ∧ TabsOk s ∧ 0 < x.val ∧ x.val < chainLen s .a c.val ∧ nbit (Frame.get (tabGet
  [] s.a.arr.sent c.val ++ tabGet [] s.b.arr.sent c.val) 21 1) 5 = true ∧ pairAlive s c.val (chainLen s .a c.val)
  x.val = true :=
  ⟨modArr arr0 .a (fun a => { a with sent := [(0, Frame.build ⟨1, 0, 0, 5, 6, 0, 100, 32, 0⟩ [])] }), .b, 0, 1, 10,
    500, 30, regsOk_of (by decide +kernel), tabsOk_of (by decide +kernel), by decide +kernel⟩
theorem witness_RingCommandsComplete_delayExchange2 : ∃ (s : State) (t : Twin) (c : Fin 12) (x : Fin 17) (t1 t4 :
  BitVec 40) (y : BitVec 24), RegsOk s ∧ TabsOk s ∧ x.val = 0 ∧ 0 < chainLen s .a c.val ∧ nbit (Frame.get (tabGet []
  s.a.arr.sent c.val ++ tabGet [] s.b.arr.sent c.val) 21 1) 5 = true ∧ pairAlive s c.val (chainLen s .a c.val) x.val
  = true :=
  ⟨modArr arr0 .a (fun a => { a with sent := [(0, Frame.build ⟨1, 0, 0, 5, 6, 0, 100, 32, 0⟩ [])] }), .b, 0, 0, 10,
    500, 30, regsOk_of (by decide +kernel), tabsOk_of (by decide +kernel), by decide +kernel⟩
theorem witness_RingCommandsComplete_delayExchange3 : ∃ (s : State) (t : Twin) (c : Fin 12) (x : Fin 17) (t1 t4 :
  BitVec 40) (y : BitVec 24), RegsOk s ∧ TabsOk s ∧ x.val = chainLen s .a c.val ∧ 0 < x.val ∧ nbit (Frame.get (tabGet
  [] s.a.arr.sent c.val ++ tabGet [] s.b.arr.sent c.val) 21 1) 5 = true ∧ pairAlive s c.val (chainLen s .a c.val)
  x.val = true :=
  ⟨modArr arr0 .a (fun a => { a with sent := [(0, Frame.build ⟨1, 0, 0, 5, 6, 0, 100, 32, 0⟩ [])] }), .b, 0, 3, 10,
    500, 30, regsOk_of (by decide +kernel), tabsOk_of (by decide +kernel), by decide +kernel⟩
theorem witness_CellWindowCommandsComplete_cellFrameForward : ∃ (s : State) (c : Fin 12) (p : Fin 16) (i : Bool) (b :
  List Byte) (e : List Nat) (r : BitVec 24) (m : CellMeas), TabsOk s ∧ (cell s c.val p.val).dead = false ∧ portSt
  (cell s c.val p.val) i = 3 ∧ (if i then sideWrapU (if !(Frame.wrapped b) && Frame.hcrcOk b then learnEnds (cell s
  c.val p.val) i (Frame.get b 23 1) (Frame.nslots b) else cell s c.val p.val) else sideWrapD (if !(Frame.wrapped b)
  && Frame.hcrcOk b then learnEnds (cell s c.val p.val) i (Frame.get b 23 1) (Frame.nslots b) else cell s c.val
  p.val)) = false ∧ ((if i then sideWrapD (if !(Frame.wrapped b) && Frame.hcrcOk b then learnEnds (cell s c.val
  p.val) i (Frame.get b 23 1) (Frame.nslots b) else cell s c.val p.val) else sideWrapU (if !(Frame.wrapped b) &&
  Frame.hcrcOk b then learnEnds (cell s c.val p.val) i (Frame.get b 23 1) (Frame.nslots b) else cell s c.val p.val))
  && Frame.wrapped b) = false :=
  ⟨cell0 { stA := 3, stB := 3 }, 0, 2, true, frame0 .a 3, [7], 7, meas0, tabsOk_of (by decide +kernel), by
    decide +kernel⟩
theorem witness_CellWindowCommandsComplete_cellFrameForward2 : ∃ (s : State) (c : Fin 12) (p : Fin 16) (i : Bool) (b
  : List Byte) (e : List Nat) (r : BitVec 24) (m : CellMeas), TabsOk s ∧ (cell s c.val p.val).dead = false ∧ portSt
  (cell s c.val p.val) i = 3 ∧ (if i then sideWrapU (if !(Frame.wrapped b) && Frame.hcrcOk b then learnEnds (cell s
  c.val p.val) i (Frame.get b 23 1) (Frame.nslots b) else cell s c.val p.val) else sideWrapD (if !(Frame.wrapped b)
  && Frame.hcrcOk b then learnEnds (cell s c.val p.val) i (Frame.get b 23 1) (Frame.nslots b) else cell s c.val
  p.val)) = true ∧ (if i then sideWrapD (if !(Frame.wrapped b) && Frame.hcrcOk b then learnEnds (cell s c.val p.val)
  i (Frame.get b 23 1) (Frame.nslots b) else cell s c.val p.val) else sideWrapU (if !(Frame.wrapped b) &&
  Frame.hcrcOk b then learnEnds (cell s c.val p.val) i (Frame.get b 23 1) (Frame.nslots b) else cell s c.val p.val))
  = false :=
  ⟨cell0 { stA := 3, stB := 3, downU := true, endU := some false }, 0, 2, true, frameW .a 3, [], 7, meas0, tabsOk_of
    (by decide +kernel), by decide +kernel⟩
theorem witness_CellWindowCommandsComplete_cellFrameForward3 : ∃ (s : State) (c : Fin 12) (p : Fin 16) (i : Bool) (b
  : List Byte) (e : List Nat) (r : BitVec 24) (m : CellMeas), TabsOk s ∧ (cell s c.val p.val).dead = false ∧ portSt
  (cell s c.val p.val) i = 3 ∧ (if i then sideWrapU (if !(Frame.wrapped b) && Frame.hcrcOk b then learnEnds (cell s
  c.val p.val) i (Frame.get b 23 1) (Frame.nslots b) else cell s c.val p.val) else sideWrapD (if !(Frame.wrapped b)
  && Frame.hcrcOk b then learnEnds (cell s c.val p.val) i (Frame.get b 23 1) (Frame.nslots b) else cell s c.val
  p.val)) = false ∧ (if i then sideWrapD (if !(Frame.wrapped b) && Frame.hcrcOk b then learnEnds (cell s c.val p.val)
  i (Frame.get b 23 1) (Frame.nslots b) else cell s c.val p.val) else sideWrapU (if !(Frame.wrapped b) &&
  Frame.hcrcOk b then learnEnds (cell s c.val p.val) i (Frame.get b 23 1) (Frame.nslots b) else cell s c.val p.val))
  = true ∧ Frame.wrapped b = true :=
  ⟨cell0 { stA := 3, stB := 3, downD := true, endD := some false }, 0, 2, true, frameW .a 3, [], 7, meas0, tabsOk_of
    (by decide +kernel), by decide +kernel⟩
theorem witness_CellWindowCommandsComplete_cellCopyJudge : ∃ (s : State) (c : Fin 12) (p : Fin 16) (i : Bool) (b :
  List Byte) (ok : Bool) (x y : BitVec 40), TabsOk s ∧ (cell s c.val p.val).dead = false ∧ Frame.wrapped b = false ∧
  copyValid (cell s c.val p.val) c.val i ok b = false :=
  ⟨cell0 { stA := 3, stB := 3 }, 0, 2, true, frame0 .a 3, false, 7, 8, tabsOk_of (by decide +kernel), by
    decide +kernel⟩
theorem witness_CellWindowCommandsComplete_cellCopyJudge2 : ∃ (s : State) (c : Fin 12) (p : Fin 16) (i : Bool) (b :
  List Byte) (ok : Bool) (x y : BitVec 40), TabsOk s ∧ (cell s c.val p.val).dead = false ∧ Frame.wrapped b = false ∧
  copyValid (cell s c.val p.val) c.val i ok b = true ∧ Frame.get b 0 1 = 1 ∧ (cell s c.val p.val).highest.toNat ≤
  (BitVec.ofNat 32 (Frame.get b 4 4)).toNat :=
  ⟨cell0 { stA := 3, stB := 3 }, 0, 2, true, Frame.build ⟨1, 0, 1, 5, 7, 0, 100, 0, 0⟩ [List.replicate 32 0#8], true,
    7, 8, tabsOk_of (by decide +kernel), by decide +kernel⟩
theorem witness_CellWindowCommandsComplete_cellCopyJudge3 : ∃ (s : State) (c : Fin 12) (p : Fin 16) (i : Bool) (b :
  List Byte) (ok : Bool) (x y : BitVec 40), TabsOk s ∧ (cell s c.val p.val).dead = false ∧ Frame.wrapped b = false ∧
  copyValid (cell s c.val p.val) c.val i ok b = true ∧ (BitVec.ofNat 32 (Frame.get b 4 4)).toNat < (cell s c.val
  p.val).highest.toNat :=
  ⟨cell0 { stA := 3, stB := 3, highest := 9 }, 0, 2, true, Frame.build ⟨1, 0, 1, 5, 7, 0, 100, 0, 0⟩ [List.replicate
    32 0#8], true, 7, 8, tabsOk_of (by decide +kernel), by decide +kernel⟩
theorem witness_CellWindowCommandsComplete_cellAcceptanceDeadline : ∃ (s : State) (c : Fin 12) (p : Fin 16) (y :
  Copy), TabsOk s ∧ (cell s c.val p.val).dead = false ∧ chosen (cell s c.val p.val) = some y ∧ y.hold = false :=
  ⟨cell0
    { candA := some ⟨5#32, 3, true, false, false, 100, 4000, 1, 2, false, false, false, ⟨0, 0, 0, false⟩, [], 0#32⟩ },
    0, 2, ⟨5#32, 3, true, false, false, 100, 4000, 1, 2, false, false, false, ⟨0, 0, 0, false⟩, [], 0#32⟩, tabsOk_of
    (by decide +kernel), by decide +kernel⟩
theorem witness_CellWindowCommandsComplete_cellAcceptanceDeadline2 : ∃ (s : State) (c : Fin 12) (p : Fin 16) (y :
  Copy) (w : CWin), TabsOk s ∧ (cell s c.val p.val).dead = false ∧ chosen (cell s c.val p.val) = some y ∧ y.hold =
  true ∧ (cell s c.val p.val).holds < 8 ∧ lastWin (cell s c.val p.val) = some w :=
  ⟨cell0
    { candA := some ⟨5#32, 3, true, true, false, 100, 4000, 1, 2, false, false, false, ⟨0, 0, 0, false⟩, [], 0#32⟩, cur := some ⟨100, 4000, 1, 2, false, false, false, [], 0#32, false⟩ },
    0, 2, ⟨5#32, 3, true, true, false, 100, 4000, 1, 2, false, false, false, ⟨0, 0, 0, false⟩, [], 0#32⟩, ⟨100, 4000,
    1, 2, false, false, false, [], 0#32, false⟩, tabsOk_of (by decide +kernel), by decide +kernel⟩
theorem witness_CellWindowCommandsComplete_cellAcceptanceDeadline3 : ∃ (s : State) (c : Fin 12) (p : Fin 16) (y :
  CWin), TabsOk s ∧ (cell s c.val p.val).dead = false ∧ chosen (cell s c.val p.val) = none ∧ idleNow (cell s c.val
  p.val) = false ∧ lastWin (cell s c.val p.val) = some y :=
  ⟨cell0 { cur := some ⟨100, 4000, 1, 2, false, false, false, [], 0#32, false⟩ }, 0, 2, ⟨100, 4000, 1, 2, false,
    false, false, [], 0#32, false⟩, tabsOk_of (by decide +kernel), by decide +kernel⟩
theorem witness_CellWindowCommandsComplete_cellAcceptanceDeadline4 : ∃ (s : State) (c : Fin 12) (p : Fin 16), TabsOk
  s ∧ (cell s c.val p.val).dead = false ∧ chosen (cell s c.val p.val) = none ∧ idleNow (cell s c.val p.val) = true :=
  ⟨cell0 { k3A := true }, 0, 2, tabsOk_of (by decide +kernel), by decide +kernel⟩
theorem witness_CellWindowCommandsComplete_cellWindowApply : ∃ (s : State) (c : Fin 12) (p : Fin 16) (g : BitVec 5)
  (w : CWin), TabsOk s ∧ (cell s c.val p.val).dead = false ∧ (cell s c.val p.val).win = some w ∧ w.mode ≤ 2 ∧ idleNow
  (cell s c.val p.val) = false :=
  ⟨cell0 { timeLock := true, win := some ⟨100, 4000, 1, 2, false, true, false, [], 0#32, false⟩ }, 0, 2, 0, ⟨100,
    4000, 1, 2, false, true, false, [], 0#32, false⟩, tabsOk_of (by decide +kernel), by decide +kernel⟩
theorem witness_CellWindowCommandsComplete_cellWindowApply2 : ∃ (s : State) (c : Fin 12) (p : Fin 16) (g : BitVec 5)
  (w : CWin), TabsOk s ∧ (cell s c.val p.val).dead = false ∧ (cell s c.val p.val).win = some w ∧ w.lost = false ∧
  w.faultReset = false ∧ w.mode ≤ 2 ∧ idleNow (cell s c.val p.val) = false ∧ cellFault
  { cell s c.val p.val with noLockRun := w.mode == 1 && !(cell s c.val p.val).timeLock } = false :=
  ⟨cell0 { timeLock := true, win := some ⟨100, 4000, 1, 2, false, false, false, [], 0#32, false⟩ }, 0, 2, 0, ⟨100,
    4000, 1, 2, false, false, false, [], 0#32, false⟩, tabsOk_of (by decide +kernel), by decide +kernel⟩
theorem witness_CellWindowCommandsComplete_cellWindowApply3 : ∃ (s : State) (c : Fin 12) (p : Fin 16) (g : BitVec 5)
  (w : CWin), TabsOk s ∧ (cell s c.val p.val).dead = false ∧ (cell s c.val p.val).win = some w ∧ idleNow (cell s
  c.val p.val) = true :=
  ⟨cell0 { k3A := true, win := some ⟨100, 4000, 1, 2, false, false, false, [], 0#32, false⟩ }, 0, 2, 0, ⟨100, 4000,
    1, 2, false, false, false, [], 0#32, false⟩, tabsOk_of (by decide +kernel), by decide +kernel⟩
theorem witness_CellWindowCommandsComplete_cellEventExecute : ∃ (s : State) (c : Fin 12) (p : Fin 16) (e : Nat × Nat)
  (r : List (Nat × Nat)), TabsOk s ∧ (cell s c.val p.val).dead = false ∧ (cell s c.val p.val).mode = 1 ∧ (cell s
  c.val p.val).todo = e :: r :=
  ⟨cell0 { mode := 1, todo := [(7, 5)] }, 0, 2, (7, 5), [], tabsOk_of (by decide +kernel), by decide +kernel⟩
theorem witness_CellWindowCommandsComplete_cellBypassTimeout : ∃ (s : State) (c : Fin 12) (p : Fin 16), TabsOk s ∧
  (cell s c.val p.val).bypass = true ∧ (cell s c.val p.val).closed = false :=
  ⟨cell0 { stA := 3 }, 0, 2, tabsOk_of (by decide +kernel), by decide +kernel⟩
theorem witness_CellWindowCommandsComplete_cellBypassClosed : ∃ (s : State) (c : Fin 12) (p : Fin 16), TabsOk s ∧
  (cell s c.val p.val).bypass = true :=
  ⟨cell0 { stA := 3 }, 0, 2, tabsOk_of (by decide +kernel), by decide +kernel⟩
theorem witness_CellWindowCommandsComplete_cellOwnFault : ∃ (s : State) (c : Fin 12) (p : Fin 16), TabsOk s :=
  ⟨cell0 { legs := 3 }, 0, 2, tabsOk_of (by decide +kernel)⟩
theorem witness_CellWindowCommandsComplete_cellOwnFault2 : ∃ (s : State) (c : Fin 12) (p : Fin 16) (i : Fin 5),
  TabsOk s :=
  ⟨cell0 { legs := 3 }, 0, 2, 4, tabsOk_of (by decide +kernel)⟩
theorem witness_CellPortCommandsComplete_cellSyncAcquired : ∃ (s : State) (c : Fin 12) (p : Fin 16), TabsOk s ∧
  ((cell s c.val p.val).stA = 2 ∨ (cell s c.val p.val).stA = 4) :=
  ⟨cell0 { stA := 2 }, 0, 2, tabsOk_of (by decide +kernel), by decide +kernel⟩
theorem witness_CellPortCommandsComplete_cellSyncAcquired2 : ∃ (s : State) (c : Fin 12) (p : Fin 16), TabsOk s ∧
  ((cell s c.val p.val).stB = 2 ∨ (cell s c.val p.val).stB = 4) :=
  ⟨cell0 { stB := 4 }, 0, 2, tabsOk_of (by decide +kernel), by decide +kernel⟩
theorem witness_CellPortCommandsComplete_cellSyncLost : ∃ (s : State) (c : Fin 12) (p : Fin 16) (x : Bool), TabsOk s
  ∧ portSt (cell s c.val p.val) x = 3 :=
  ⟨cell0 { stB := 3 }, 0, 2, false, tabsOk_of (by decide +kernel), by decide +kernel⟩
theorem witness_CellPortCommandsComplete_cellEidleEntry : ∃ (s : State) (c : Fin 12) (p : Fin 16) (x : Bool), TabsOk
  s ∧ portSt (cell s c.val p.val) x = 3 :=
  ⟨cell0 { stA := 3 }, 0, 2, true, tabsOk_of (by decide +kernel), by decide +kernel⟩
theorem witness_CellPortCommandsComplete_cellTimeLockClear : ∃ (s : State) (c : Fin 12) (p : Fin 16), TabsOk s ∧
  (cell s c.val p.val).stA ≠ 3 ∧ (cell s c.val p.val).stB ≠ 3 ∧ ((cell s c.val p.val).k3A = true ∨ (cell s c.val
  p.val).k3B = true) :=
  ⟨cell0 { k3A := true, timeLock := true }, 0, 2, tabsOk_of (by decide +kernel), by decide +kernel⟩
theorem witness_CellPortCommandsComplete_cellEidleExit : ∃ (s : State) (c : Fin 12) (p : Fin 16) (x : Bool), TabsOk s
  ∧ portSt (cell s c.val p.val) x = 1 ∧ portSt (cell s c.val p.val) (!x) ≠ 3 :=
  ⟨cell0 { stA := 1 }, 0, 2, true, tabsOk_of (by decide +kernel), by decide +kernel⟩
theorem witness_CellPortCommandsComplete_cellEidleExit2 : ∃ (s : State) (c : Fin 12) (p : Fin 16) (x : Bool), TabsOk
  s ∧ ((portSt (cell s c.val p.val) x = 1 ∧ portSt (cell s c.val p.val) (!x) = 3) ∨ (portSt (cell s c.val p.val) x =
  0 ∧ (cell s c.val p.val).powered = true)) :=
  ⟨cell0 { powered := true }, 0, 2, true, tabsOk_of (by decide +kernel), by decide +kernel⟩
theorem witness_CellPortCommandsComplete_cellLosIdle : ∃ (s : State) (c : Fin 12) (p : Fin 16) (x : Bool), TabsOk s ∧
  portSt (cell s c.val p.val) x = 4 :=
  ⟨cell0 { stA := 4 }, 0, 2, true, tabsOk_of (by decide +kernel), by decide +kernel⟩
theorem witness_CellPortCommandsComplete_cellSideDown : ∃ (s : State) (c : Fin 12) (p : Fin 16), TabsOk s ∧ ((cell s
  c.val p.val).stB ≠ 3 ∨ (cell s c.val p.val).noticeD = true) ∧ (cell s c.val p.val).endD ≠ some true :=
  ⟨cell0 { stA := 3 }, 0, 2, tabsOk_of (by decide +kernel), by decide +kernel⟩
theorem witness_CellPortCommandsComplete_cellSideDown2 : ∃ (s : State) (c : Fin 12) (p : Fin 16), TabsOk s ∧ ((cell s
  c.val p.val).stA ≠ 3 ∨ (cell s c.val p.val).noticeU = true) ∧ (cell s c.val p.val).endU ≠ some true :=
  ⟨cell0 { stA := 3, noticeU := true }, 0, 2, tabsOk_of (by decide +kernel), by decide +kernel⟩
theorem witness_CellPortCommandsComplete_cellSideUp : ∃ (s : State) (c : Fin 12) (p : Fin 16), TabsOk s ∧ (cell s
  c.val p.val).stB = 3 :=
  ⟨cell0 { stB := 3, downD := true }, 0, 2, tabsOk_of (by decide +kernel), by decide +kernel⟩
theorem witness_CellPortCommandsComplete_cellSideUp2 : ∃ (s : State) (c : Fin 12) (p : Fin 16), TabsOk s ∧ (cell s
  c.val p.val).stA = 3 :=
  ⟨cell0 { stA := 3, downU := true }, 0, 2, tabsOk_of (by decide +kernel), by decide +kernel⟩
theorem witness_CellPortCommandsComplete_linkDownNotice : ∃ (s : State) (c : Fin 12) (p : Fin 16), TabsOk s ∧ (cell s
  c.val p.val).dead = false ∧ (cell s c.val p.val).downD = true ∧ p.val < 15 :=
  ⟨{ arr0 with cells := [(2, { downD := true }), (3, { stA := 3 })] }, 0, 2, tabsOk_of (by decide +kernel), by
    decide +kernel⟩
theorem witness_CellPortCommandsComplete_linkDownNotice2 : ∃ (s : State) (c : Fin 12) (p : Fin 16), TabsOk s ∧ (cell
  s c.val p.val).dead = false ∧ (cell s c.val p.val).downU = true ∧ 0 < p.val :=
  ⟨{ arr0 with cells := [(1, { stB := 3 }), (2, { downU := true })] }, 0, 2, tabsOk_of (by decide +kernel), by
    decide +kernel⟩
theorem witness_CellPortCommandsComplete_cellHardwareBypass : ∃ (s : State) (c : Fin 12) (p : Fin 16), TabsOk s :=
  ⟨cell0 { stA := 3 }, 0, 2, tabsOk_of (by decide +kernel)⟩
theorem witness_CellPortCommandsComplete_cellPowerUp : ∃ (s : State) (c : Fin 12) (p : Fin 16) (i : CellId) (x y :
  Bool), TabsOk s :=
  ⟨cell0 { stA := 3, closed := true }, 0, 2, ⟨1#32, 2, 3#32, 4#32⟩, true, false, tabsOk_of (by decide +kernel)⟩
theorem witness_CellPortCommandsComplete_cellPowerLoss : ∃ (s : State) (c : Fin 12) (p : Fin 16), TabsOk s :=
  ⟨cell0 { stA := 3, closed := true }, 0, 2, tabsOk_of (by decide +kernel)⟩
theorem witness_AdcSequenceCommandsComplete_adcTrigger : ∃ (s : State) (t : Twin) (q : Fin 4), RegsOk s ∧ seqOn s t
  q.val false = true ∧ flag s t R.ADC_STATUS_AD_UNLOCK = false ∧ ((seqSt s t q.val false).delay || (seqSt s t q.val
  false).run || (seqSt s t q.val false).due) = false ∧ seqDue s t q.val false = true :=
  ⟨adc0 2 {}, .a, 0, regsOk_of (by decide +kernel), by decide +kernel⟩
theorem witness_AdcSequenceCommandsComplete_adcTrigger2 : ∃ (s : State) (t : Twin) (q : Fin 4), RegsOk s ∧ seqOn s t
  q.val false = true ∧ flag s t R.ADC_STATUS_AD_UNLOCK = false ∧ seqBusy s t q.val false = true ∧ seqDue s t q.val
  false = true ∧ (rd s t (ca R.ADC_C_TRIG_OVR q.val)).toNat < 4294967294 :=
  ⟨adc0 2 { reg := { run := true } }, .a, 0, regsOk_of (by decide +kernel), by decide +kernel⟩
theorem witness_AdcSequenceCommandsComplete_injectedTrigger : ∃ (s : State) (t : Twin) (q : Fin 4), RegsOk s ∧ seqOn
  s t q.val true = true ∧ flag s t R.ADC_STATUS_AD_UNLOCK = false ∧ seqBusy s t q.val true = true ∧ seqDue s t q.val
  true = true ∧ (rd s t (ca R.ADC_C_TRIG_OVR q.val)).toNat < 4294967294 :=
  ⟨adc0 2 { inj := { run := true } }, .a, 0, regsOk_of (by decide +kernel), by decide +kernel⟩
theorem witness_AdcSequenceCommandsComplete_adcTrigger3 : ∃ (s : State) (t : Twin) (q : Fin 4), RegsOk s ∧ seqOn s t
  q.val false = true ∧ flag s t R.ADC_STATUS_AD_UNLOCK = true ∧ seqDue s t q.val false = true ∧ (rd s t (ca
  R.ADC_C_TRIG_OVR q.val)).toNat < 4294967294 :=
  ⟨wf (adc0 2 {}) .a R.ADC_STATUS_AD_UNLOCK 1, .a, 0, regsOk_of (by decide +kernel), by decide +kernel⟩
theorem witness_AdcSequenceCommandsComplete_injectedTrigger2 : ∃ (s : State) (t : Twin) (q : Fin 4), RegsOk s ∧ seqOn
  s t q.val true = true ∧ flag s t R.ADC_STATUS_AD_UNLOCK = false ∧ ((seqSt s t q.val true).delay || (seqSt s t q.val
  true).run || (seqSt s t q.val true).due) = false ∧ seqDue s t q.val true = true :=
  ⟨adc0 2 {}, .a, 0, regsOk_of (by decide +kernel), by decide +kernel⟩
theorem witness_AdcSequenceCommandsComplete_adcTimerFire : ∃ (s : State) (t : Twin) (q : Fin 4) (inj : Bool), RegsOk
  s ∧ seqOn s t q.val inj = true ∧ flag s t R.ADC_STATUS_AD_UNLOCK = false ∧ ((seqSt s t q.val inj).delay || (seqSt s
  t q.val inj).run || (seqSt s t q.val inj).due) = false ∧ seqSrc s t q.val inj = 1 :=
  ⟨adc0 1 {}, .a, 0, true, regsOk_of (by decide +kernel), by decide +kernel⟩
theorem witness_AdcSequenceCommandsComplete_rsw : ∃ (s : State) (t : Twin) (q : Fin 4), RegsOk s ∧ seqOn s t q.val
  false = true ∧ flag s t R.ADC_STATUS_AD_UNLOCK = false ∧ ((seqSt s t q.val false).delay || (seqSt s t q.val
  false).run || (seqSt s t q.val false).due) = false ∧ seqSrc s t q.val false = 5 :=
  ⟨adc0 5 {}, .a, 0, regsOk_of (by decide +kernel), by decide +kernel⟩
theorem witness_AdcSequenceCommandsComplete_isw : ∃ (s : State) (t : Twin) (q : Fin 4), RegsOk s ∧ seqOn s t q.val
  true = true ∧ flag s t R.ADC_STATUS_AD_UNLOCK = false ∧ ((seqSt s t q.val true).delay || (seqSt s t q.val true).run
  || (seqSt s t q.val true).due) = false ∧ seqSrc s t q.val true = 5 :=
  ⟨adc0 5 {}, .a, 0, regsOk_of (by decide +kernel), by decide +kernel⟩
theorem witness_AdcSequenceCommandsComplete_acquisitionStart : ∃ (s : State) (t : Twin) (q : Fin 4) (inj : Bool),
  RegsOk s ∧ flag s t R.ADC_STATUS_AD_UNLOCK = false ∧ (seqSt s t q.val inj).delay = true ∧ (conv s t q.val).inFlight
  = 0 :=
  ⟨adc0 2 { inj := { delay := true } }, .a, 0, true, regsOk_of (by decide +kernel), by decide +kernel⟩
theorem witness_AdcSequenceCommandsComplete_conversionComplete : ∃ (s : State) (t : Twin) (q : Fin 4) (inj : Bool) (x
  : BitVec 16) (p : Nat × Nat), RegsOk s ∧ (xing s t (xingKey 1 true)).dead = false ∧ interleaved s t q.val = false ∧
  ((conv s t q.val).inFlight = if inj then 2 else 1) ∧ (seqSt s t q.val inj).avg = false ∧ (runList s t q.val
  inj)[(seqSt s t q.val inj).entry]? = some p :=
  ⟨adx (adc0 2 { inj := { run := true }, inFlight := 2 }), .a, 0, true, 1234, (0, 16), regsOk_of (by decide +kernel),
    by decide +kernel⟩
theorem witness_AdcSequenceCommandsComplete_conversionComplete2 : ∃ (s : State) (t : Twin) (q : Fin 4) (inj : Bool)
  (x : BitVec 16) (p : Nat × Nat), RegsOk s ∧ (xing s t (xingKey 1 true)).dead = false ∧ interleaved s t q.val =
  false ∧ ((conv s t q.val).inFlight = if inj then 2 else 1) ∧ (seqSt s t q.val inj).avg = false ∧ (runList s t q.val
  inj)[(seqSt s t q.val inj).entry]? = some p :=
  ⟨adx (adc0 2 { inj := { run := true }, inFlight := 2 }), .a, 0, true, 1234, (0, 16), regsOk_of (by decide +kernel),
    by decide +kernel⟩
theorem witness_AdcSequenceCommandsComplete_conversionComplete3 : ∃ (s : State) (t : Twin) (q : Fin 4) (inj : Bool)
  (x : BitVec 16) (p : Nat × Nat), RegsOk s ∧ (xing s t (xingKey 1 true)).dead = false ∧ interleaved s t q.val =
  false ∧ ((conv s t q.val).inFlight = if inj then 2 else 1) ∧ (seqSt s t q.val inj).avg = true ∧ (seqSt s t q.val
  inj).cut = false ∧ (runList s t q.val inj)[(seqSt s t q.val inj).entry]? = some p ∧ (seqSt s t q.val inj).conv + 1
  < 2 ^ min 8 (bits (entryWord s t p.1 p.2) 17 14) :=
  ⟨wr (adx (adc0 2 { reg := { run := true, avg := true }, inFlight := 1 })) .a (ca R.ADC_C_REG 0) 0x4000#32, .a, 0,
    false, 1234, (0, 0), regsOk_of (by decide +kernel), by decide +kernel⟩
theorem witness_AdcSequenceCommandsComplete_checkConversion : ∃ (s : State) (t : Twin) (q : Fin 4) (x : BitVec 16),
  RegsOk s ∧ (xing s t (xingKey 1 true)).dead = false ∧ (conv s t q.val).inFlight = 3 :=
  ⟨adx (adc0 2 { inFlight := 3 }), .a, 0, 1234, regsOk_of (by decide +kernel), by decide +kernel⟩
theorem witness_AdcSequenceCommandsComplete_adUnlock : ∃ (s : State) (t : Twin), RegsOk s :=
  ⟨adc0 2 { reg := { run := true }, inFlight := 1 }, .a, regsOk_of (by decide +kernel)⟩
theorem witness_AdcSequenceCommandsComplete_adcDisable : ∃ (s : State) (t : Twin) (q : Fin 4), RegsOk s :=
  ⟨adc0 2 { reg := { run := true }, inFlight := 1 }, .a, 0, regsOk_of (by decide +kernel)⟩
theorem witness_AdcSequenceCommandsComplete_injDisable : ∃ (s : State) (t : Twin) (q : Fin 4), RegsOk s :=
  ⟨adc0 2 { inj := { run := true }, inFlight := 2 }, .a, 0, regsOk_of (by decide +kernel)⟩
theorem witness_AdcSequenceCommandsComplete_converterFail : ∃ (s : State) (t : Twin) (q : Fin 4) (x : Bool), RegsOk s
  ∧ (x || (conv s t q.val).chkBad.any (fun e => decide (3 ≤ e.2))) = true ∧ biti s t R.ADC_STATUS_FAILED q.val =
  false :=
  ⟨adc0 2 { chkBad := [(0, 3)] }, .a, 0, false, regsOk_of (by decide +kernel), by decide +kernel⟩
theorem witness_AdcSequenceCommandsComplete_avgOff : ∃ (s : State) (t : Twin), RegsOk s ∧ rf s t R.ADC_GCFG_AVG_EN =
  1 ∧ avgEnds s t = true :=
  ⟨wf arr0 .a R.ADC_GCFG_AVG_EN 1, .a, regsOk_of (by decide +kernel), by decide +kernel⟩
theorem witness_AdcSequenceCommandsComplete_agreementWaitLimit : ∃ (s : State) (t : Twin) (q : Fin 4) (inj : Bool),
  seqBind s t q.val inj ≠ 0 ∧ seqBusy s t q.val inj = true :=
  ⟨wf (adc0 2 { inj := { due := true } }) .a (cf R.ADC_C_ICFG_BIND 0) 1, .a, 0, true, by decide +kernel⟩
theorem witness_CalibrationCommandsComplete_stepZero : ∃ (s : State) (t : Twin), RegsOk s ∧ leaveFree s t 3 0 = true
  ∧ (calMask s t).all (fun q => !(biti s t R.ADC_STATUS_ENABLED q)) = true :=
  ⟨cal0, .a, regsOk_of (by decide +kernel), by decide +kernel⟩
theorem witness_CalibrationCommandsComplete_stepFull : ∃ (s : State) (t : Twin), RegsOk s ∧ flag s t
  R.ADC_CAL_STATUS_HAVE_ZERO = true ∧ leaveFree s t 3 0 = true ∧ (calMask s t).all (fun q => !(biti s t
  R.ADC_STATUS_ENABLED q)) = true :=
  ⟨wf cal0 .a R.ADC_CAL_STATUS_HAVE_ZERO 1, .a, regsOk_of (by decide +kernel), by decide +kernel⟩
theorem witness_CalibrationCommandsComplete_skew : ∃ (s : State) (t : Twin), RegsOk s ∧ leaveFree s t 3 0 = true ∧
  (calMask s t).all (fun q => !(biti s t R.ADC_STATUS_ENABLED q)) = true :=
  ⟨cal0, .a, regsOk_of (by decide +kernel), by decide +kernel⟩
theorem witness_CalibrationCommandsComplete_stepZero2 : ∃ (s : State) (t : Twin), RegsOk s ∧ (calMask s t).any (fun q
  => biti s t R.ADC_STATUS_ENABLED q) = true :=
  ⟨wf (wf cal0 .a R.ADC_STATUS_ENABLED 1) .a R.ADC_CAL_CTRL_MASK 3, .a, regsOk_of (by decide +kernel), by
    decide +kernel⟩
theorem witness_CalibrationCommandsComplete_calMeasureEnd : ∃ (s : State) (t : Twin) (d : List (List W32)), RegsOk s
  ∧ (xing s t (xingKey 1 true)).dead = false ∧ rf s t R.ADC_CAL_STATUS_BUSY = 1 ∧ (s.tw t).adc.step = 1 :=
  ⟨adx (modAdc (wf cal0 .a R.ADC_CAL_STATUS_BUSY 1) .a (fun a => { a with step := 1 })), .a, [[100#32]], regsOk_of
    (by decide +kernel), by decide +kernel⟩
theorem witness_CalibrationCommandsComplete_calMeasureEnd2 : ∃ (s : State) (t : Twin) (d : List (List W32)), RegsOk s
  ∧ (xing s t (xingKey 1 true)).dead = false ∧ rf s t R.ADC_CAL_STATUS_BUSY = 1 ∧ (s.tw t).adc.step = 2 ∧ ((calMask s
  t).zip d).all (fun p => (calCoef s t (tabGet 0 (s.tw t).adc.zero p.1) (p.2.headD 0).toNat).isSome) = true :=
  ⟨adx (modAdc (wf (wf cal0 .a R.ADC_CAL_STATUS_BUSY 1) .a R.ADC_CAL_CTRL_MASK 1) .a (fun a =>
    { a with step := 2, zero := [(0, 524288)] })), .a, [[15728640#32]], regsOk_of (by decide +kernel), by
    decide +kernel⟩
theorem witness_CalibrationCommandsComplete_calMeasureEnd3 : ∃ (s : State) (t : Twin) (d : List (List W32)), RegsOk s
  ∧ (xing s t (xingKey 1 true)).dead = false ∧ rf s t R.ADC_CAL_STATUS_BUSY = 1 ∧ ((s.tw t).adc.step = 1 ∨ (s.tw
  t).adc.step = 2) :=
  ⟨adx (modAdc (wf cal0 .a R.ADC_CAL_STATUS_BUSY 1) .a (fun a => { a with step := 1 })), .a, [[100#32]], regsOk_of
    (by decide +kernel), by decide +kernel⟩
theorem witness_CalibrationCommandsComplete_commit : ∃ (s : State) (t : Twin), RegsOk s ∧ rf s t
  R.ADC_CAL_STATUS_PENDING = 1 ∧ leaveFree s t 5 2 = true :=
  ⟨wf cal0 .a R.ADC_CAL_STATUS_PENDING 1, .a, regsOk_of (by decide +kernel), by decide +kernel⟩
theorem witness_CalibrationCommandsComplete_commit2 : ∃ (s : State) (t : Twin), RegsOk s ∧ rf s t
  R.ADC_CAL_STATUS_PENDING = 1 ∧ leaveFree s t 5 2 = true :=
  ⟨wf cal0 .a R.ADC_CAL_STATUS_PENDING 1, .a, regsOk_of (by decide +kernel), by decide +kernel⟩
theorem witness_CalibrationCommandsComplete_calMeasureEnd4 : ∃ (s : State) (t : Twin) (d : List (List W32)) (x :
  Bool), RegsOk s ∧ (xing s t (xingKey 1 true)).dead = false ∧ rf s t R.ADC_CAL_STATUS_BUSY = 1 ∧ (s.tw t).adc.step =
  3 ∧ ((maskPairs s t).zip d).all (fun p => (skewOf p.2).isSome) = true :=
  ⟨adx (modAdc (wf (wf cal0 .a R.ADC_CAL_STATUS_BUSY 1) .a R.ADC_CAL_CTRL_MASK 3) .a (fun a =>
    { a with step := 3 })), .a, [[0#32, 10#32, 20#32, 30#32]], false, regsOk_of (by decide +kernel), by
    decide +kernel⟩
theorem witness_CalibrationCommandsComplete_calMeasureEnd5 : ∃ (s : State) (t : Twin) (d : List (List W32)) (x :
  Bool), RegsOk s ∧ (xing s t (xingKey 1 true)).dead = false ∧ rf s t R.ADC_CAL_STATUS_BUSY = 1 ∧ (s.tw t).adc.step =
  3 ∧ ((maskPairs s t).zip d).any (fun p => (skewOf p.2).isNone) = true :=
  ⟨adx (modAdc (wf (wf cal0 .a R.ADC_CAL_STATUS_BUSY 1) .a R.ADC_CAL_CTRL_MASK 3) .a (fun a =>
    { a with step := 3 })), .a, [[5#32, 5#32, 5#32, 5#32]], false, regsOk_of (by decide +kernel), by decide +kernel⟩
theorem witness_CalibrationCommandsComplete_calMeasureEnd6 : ∃ (s : State) (t : Twin) (d : List (List W32)) (x :
  Bool), RegsOk s ∧ (xing s t (xingKey 1 true)).dead = true ∧ rf s t R.ADC_CAL_STATUS_BUSY = 1 ∧ (rd s t
  (R.CLK_XING_DROPPED_AT_RESET + 8)).toNat < 4294967294 :=
  ⟨wf cal0 .a R.ADC_CAL_STATUS_BUSY 1, .a, [[100#32]], true, regsOk_of (by decide +kernel), by decide +kernel⟩
theorem witness_CalibrationCommandsComplete_stepFull2 : ∃ (s : State) (t : Twin), RegsOk s ∧ (calMask s t).all (fun q
  => !(biti s t R.ADC_STATUS_ENABLED q)) = true ∧ flag s t R.ADC_CAL_STATUS_HAVE_ZERO = false :=
  ⟨cal0, .a, regsOk_of (by decide +kernel), by decide +kernel⟩
theorem witness_CalibrationCommandsComplete_commit3 : ∃ (s : State) (t : Twin) (x : Bool), rf s t
  R.ADC_CAL_STATUS_PENDING = 0 :=
  ⟨cal0, .a, true, by decide +kernel⟩
theorem witness_CalibrationCommandsComplete_abort : ∃ (s : State) (t : Twin), RegsOk s ∧ (s.tw t).adc.step ≠ 0 :=
  ⟨modAdc (wf cal0 .a R.ADC_CAL_STATUS_BUSY 1) .a (fun a => { a with step := 1 }), .a, regsOk_of (by decide +kernel),
    by decide +kernel⟩
theorem witness_CalibrationCommandsComplete_abort2 : ∃ (s : State) (t : Twin), (s.tw t).adc.step = 0 :=
  ⟨cal0, .a, by decide +kernel⟩
theorem witness_NegativeCommandsComplete_negArm : ∃ (s : State) (tg : Target) (t : Twin) (e : Fin 4), RegsOk s ∧
  TabsOk s ∧ (tg = .both ∨ tg = .one t) ∧ targetCode tg (fun t => armCode s t e.val) = Rc.OK :=
  ⟨neg0 0 {}, .both, .b, 0, regsOk_of (by decide +kernel), tabsOk_of (by decide +kernel), by decide +kernel⟩
theorem witness_NegativeCommandsComplete_negFix : ∃ (s : State) (tg : Target) (t : Twin) (e : Fin 4), RegsOk s ∧
  TabsOk s ∧ (tg = .both ∨ tg = .one t) ∧ (targetCode tg (fun t => if expSt s t e.val = 0 then Rc.NEG_NOT_ARMED else
  Rc.OK) = Rc.OK) ∧ (expSt s t e.val = 1 ∨ expSt s t e.val = 2) :=
  ⟨neg0 1 {}, .both, .a, 0, regsOk_of (by decide +kernel), tabsOk_of (by decide +kernel), by decide +kernel⟩
theorem witness_NegativeCommandsComplete_negFix2 : ∃ (s : State) (t : Twin) (e : Fin 4), expSt s t e.val = 0 :=
  ⟨neg0 0 {}, .a, 0, by decide +kernel⟩
theorem witness_NegativeCommandsComplete_negDisarm : ∃ (s : State) (tg : Target) (t : Twin) (e : Fin 4), RegsOk s ∧
  TabsOk s ∧ (tg = .both ∨ tg = .one t) :=
  ⟨neg0 3 { total := 4 }, .both, .a, 0, regsOk_of (by decide +kernel), tabsOk_of (by decide +kernel), by
    decide +kernel⟩
theorem witness_NegativeCommandsComplete_negRowWrite : ∃ (s : State) (t : Twin) (e : Fin 4) (d : W64) (l : Bool),
  RegsOk s ∧ TabsOk s ∧ expSt s t e.val = 1 ∧ regionRows s t e.val ≠ 0 ∧ (expX s t e.val).fixReq = false ∧ (expX s t
  e.val).chained = none ∧ negTrigger s t e.val (rowNode s t (rf s t (ef R.NEG_EXP_CFG_SRC e.val)) (rf s t (ef
  R.NEG_EXP_TRIG_NODE e.val))) (expX s t e.val).prev = false :=
  ⟨neg0 1 { total := 4 }, .a, 0, 5000000123, true, regsOk_of (by decide +kernel), tabsOk_of (by decide +kernel), by
    decide +kernel⟩
theorem witness_NegativeCommandsComplete_negRowWrite2 : ∃ (s : State) (t : Twin) (e : Fin 4) (d : W64) (l : Bool),
  RegsOk s ∧ TabsOk s ∧ (expSt s t e.val = 1 ∨ expSt s t e.val = 2) ∧ (expX s t e.val).fixReq = true :=
  ⟨neg0 2 { total := 4, fixReq := true }, .a, 0, 5000000123, false, regsOk_of (by decide +kernel), tabsOk_of (by
    decide +kernel), by decide +kernel⟩
theorem witness_NegativeCommandsComplete_negRowWrite3 : ∃ (s : State) (t : Twin) (e : Fin 4) (d : W64) (l : Bool) (w
  : Nat), RegsOk s ∧ TabsOk s ∧ (w < (rf s t (ef R.NEG_EXP_REGION_BASE e.val) * 4096 + (if regionRows s t e.val = 0
  then 0 else (expX s t e.val).total % regionRows s t e.val) * rowSize s t e.val) / 4 ∨ (rf s t (ef
  R.NEG_EXP_REGION_BASE e.val) * 4096 + (if regionRows s t e.val = 0 then 0 else (expX s t e.val).total % regionRows
  s t e.val) * rowSize s t e.val) / 4 + rowSize s t e.val / 4 ≤ w) :=
  ⟨neg0 1 { total := 4 }, .a, 0, 5000000123, true, 900000, regsOk_of (by decide +kernel), tabsOk_of (by
    decide +kernel), by decide +kernel⟩
theorem witness_NegativeCommandsComplete_negEventFix : ∃ (s : State) (t : Twin) (e : Fin 4) (b : BitVec 11) (i : Fin
  10), RegsOk s ∧ TabsOk s ∧ (expSt s t e.val = 1 ∨ expSt s t e.val = 2) ∧ b.getLsbD i.val = true ∧ biti s t (ef
  R.NEG_EXP_EVENTS_EVENTS e.val) i.val = true :=
  ⟨neg0 2 {}, .a, 0, 9, 3, regsOk_of (by decide +kernel), tabsOk_of (by decide +kernel), by decide +kernel⟩
theorem witness_NegativeCommandsComplete_negRemoteFix : ∃ (s : State) (t : Twin) (e : Fin 4) (b : BitVec 11) (i : Fin
  10), RegsOk s ∧ TabsOk s ∧ (expSt s t e.val = 1 ∨ expSt s t e.val = 2) ∧ b.getLsbD i.val = true ∧ biti s t (ef
  R.NEG_EXP_EVENTS_EVENTS e.val) i.val = true :=
  ⟨neg0 2 {}, .a, 0, 9, 3, regsOk_of (by decide +kernel), tabsOk_of (by decide +kernel), by decide +kernel⟩
theorem witness_StreamQueueCommandsComplete_queueUnitWrite : ∃ (s : State) (t : Twin) (q : Fin 6) (x : StreamUnit),
  RegsOk s ∧ TabsOk s ∧ rf s t (qf R.STQ_Q_CFG_EN q.val) = 1 ∧ rf s t (qf R.STQ_Q_CFG_SINK q.val) ≠ 2 ∧ (queue s t
  q.val).closed = false ∧ (queue s t q.val).fillPos + (padUnit x.bytes).length ≤ bankSize s t q.val :=
  ⟨stq0 {}, .a, 0, ⟨[1, 2, 3], [0]⟩, regsOk_of (by decide +kernel), tabsOk_of (by decide +kernel), by decide +kernel⟩
theorem witness_StreamQueueCommandsComplete_queueUnitWrite2 : ∃ (s : State) (t : Twin) (q : Fin 6) (x : StreamUnit),
  RegsOk s ∧ TabsOk s ∧ rf s t (qf R.STQ_Q_CFG_EN q.val) = 1 ∧ rf s t (qf R.STQ_Q_CFG_SINK q.val) = 2 ∧ (queue s t
  q.val).closed = false ∧ (queue s t q.val).fillPos + (padUnit x.bytes).length ≤ bankSize s t q.val :=
  ⟨wf (stq0 {}) .a (qf R.STQ_Q_CFG_SINK 0) 2, .a, 0, ⟨[1, 2, 3], [0]⟩, regsOk_of (by decide +kernel), tabsOk_of (by
    decide +kernel), by decide +kernel⟩
theorem witness_StreamQueueCommandsComplete_queueUnitWrite3 : ∃ (s : State) (t : Twin) (q : Fin 6) (x : StreamUnit),
  RegsOk s ∧ TabsOk s ∧ rf s t (qf R.STQ_Q_CFG_EN q.val) = 1 ∧ (queue s t q.val).closed = true ∧ (queue s t
  q.val).drain ≠ [] ∧ (rd s t (qa R.STQ_Q_UNITS_DROPPED q.val)).toNat < 4294967294 :=
  ⟨stq0 { closed := true, drain := [(1, false)], fill := [(1, false)], fillPos := 1 }, .a, 0, ⟨[1, 2, 3], [0]⟩,
    regsOk_of (by decide +kernel), tabsOk_of (by decide +kernel), by decide +kernel⟩
theorem witness_StreamQueueCommandsComplete_bankExchange : ∃ (s : State) (t : Twin) (q : Fin 6), RegsOk s ∧ TabsOk s
  ∧ (queue s t q.val).dump = [] ∧ (queue s t q.val).closed = true ∧ (queue s t q.val).drain = [] :=
  ⟨stq0 { closed := true, fill := [(1, false)], fillPos := 1 }, .a, 0, regsOk_of (by decide +kernel), tabsOk_of (by
    decide +kernel), by decide +kernel⟩
theorem witness_StreamQueueCommandsComplete_bankExchange2 : ∃ (s : State) (t : Twin) (q : Fin 6) (x : List Byte),
  RegsOk s ∧ TabsOk s ∧ (queue s t q.val).dump = [x] ∧ (queue s t q.val).closed = true ∧ (queue s t q.val).drain = []
  ∧ rf s t (qf R.STQ_Q_CFG_EN q.val) = 1 ∧ rf s t (qf R.STQ_Q_CFG_SINK q.val) ≠ 2 ∧ (padUnit x).length ≤ bankSize s t
  q.val :=
  ⟨stq0 { closed := true, fill := [(1, false)], fillPos := 1, dump := [[7, 8]] }, .a, 0, [7, 8], regsOk_of (by
    decide +kernel), tabsOk_of (by decide +kernel), by decide +kernel⟩
theorem witness_StreamQueueCommandsComplete_flushed : ∃ (s : State) (t : Twin) (q : Fin 6), RegsOk s ∧ TabsOk s ∧
  (queue s t q.val).drain = [] ∧ (queue s t q.val).fill ≠ [] ∧ rf s t (qf R.STQ_Q_CFG_FLUSH_T q.val) ≠ 0 ∧ (rd s t
  (qa R.STQ_Q_FLUSHES q.val)).toNat < 4294967294 :=
  ⟨wf (stq0 { fill := [(1, false)], fillPos := 1 }) .a (qf R.STQ_Q_CFG_FLUSH_T 0) 5, .a, 0, regsOk_of (by
    decide +kernel), tabsOk_of (by decide +kernel), by decide +kernel⟩
theorem witness_StreamQueueCommandsComplete_streamData : ∃ (s : State) (t : Twin) (q : Fin 6), RegsOk s ∧ TabsOk s ∧
  rf s t (qf R.STQ_Q_CFG_EN q.val) = 1 ∧ rf s t (qf R.STQ_Q_CFG_SINK q.val) = 1 ∧ (queue s t q.val).drain ≠ [] ∧
  netOn s = true ∧ inPair s t = true :=
  ⟨modNetOn (wf (stq0 { drain := List.replicate 20 (7, false) }) .a (qf R.STQ_Q_CFG_SINK 0) 1), .a, 0, regsOk_of (by
    decide +kernel), tabsOk_of (by decide +kernel), by decide +kernel⟩
theorem witness_StreamQueueCommandsComplete_streamData2 : ∃ (s : State) (t : Twin) (q : Fin 6), RegsOk s ∧ TabsOk s ∧
  rf s t (qf R.STQ_Q_CFG_EN q.val) = 1 ∧ rf s t (qf R.STQ_Q_CFG_SINK q.val) = 1 ∧ (queue s t q.val).drain = [] ∧
  (queue s t q.val).closed = false ∧ (queue s t q.val).dump = [] ∧ rf s t (qf R.STQ_Q_CUT_CUT q.val) ≠ 0 ∧ rf s t (qf
  R.STQ_Q_CUT_CUT q.val) ≤ (queue s t q.val).fill.length / 16 ∧ netOn s = true ∧ inPair s t = true :=
  ⟨modNetOn (wf (wf (stq0 { fill := List.replicate 20 (7, false) }) .a (qf R.STQ_Q_CFG_SINK 0) 1) .a (qf
    R.STQ_Q_CUT_CUT 0) 1), .a, 0, regsOk_of (by decide +kernel), tabsOk_of (by decide +kernel), by decide +kernel⟩
theorem witness_StreamQueueCommandsComplete_queueDisable : ∃ (s : State) (t : Twin) (q : Fin 6), RegsOk s ∧ TabsOk s
  ∧ (rd s t (qa R.STQ_Q_DISCARDED q.val)).toNat + queueLevel (queue s t q.val) < 4294967295 :=
  ⟨stq0 { drain := List.replicate 20 (7, false) }, .a, 0, regsOk_of (by decide +kernel), tabsOk_of (by
    decide +kernel), by decide +kernel⟩
theorem witness_PwmCommandsComplete_pwmStart : ∃ (s : State) (t : Twin) (p : Fin 8), RegsOk s ∧ twState s t ≠ tsReset
  ∧ rf s (edgeTwin s) R.PWM_GCFG_DT_LOCK = 1 ∧ 1600 ≤ pw s R.PWM_P_DEV p.val ∧ 0 ≤ nowSub s (edgeTwin s) ∧ nowSub s
  (edgeTwin s) + 16000 ≤ startTime s p.val + devPhase s p.val :=
  ⟨pwm0 0 {} {}, .a, 0, regsOk_of (by decide +kernel), by decide +kernel⟩
theorem witness_PwmCommandsComplete_pwmStop : ∃ (s : State) (t : Twin) (p : Fin 8), RegsOk s ∧ twState s t ≠ tsReset
  :=
  ⟨pwm0 1 {} {}, .a, 0, regsOk_of (by decide +kernel), by decide +kernel⟩
theorem witness_PwmCommandsComplete_pwmArm : ∃ (s : State) (t : Twin) (p : Fin 8), RegsOk s ∧ running s p.val = true
  ∧ twState s t ≠ tsReset :=
  ⟨pwm0 1 {} {}, .a, 0, regsOk_of (by decide +kernel), by decide +kernel⟩
theorem witness_PwmCommandsComplete_pwmArm2 : ∃ (s : State) (t : Twin) (p : Fin 8), RegsOk s ∧ running s p.val =
  false ∧ twState s t ≠ tsReset :=
  ⟨pwm0 0 {} {}, .a, 0, regsOk_of (by decide +kernel), by decide +kernel⟩
theorem witness_PwmCommandsComplete_reloadCutoff : ∃ (s : State) (p : Fin 8) (q : PwmSet), RegsOk s ∧ running s p.val
  = true ∧ (pwm s p.val).pend = some q ∧ (pwm s p.val).com = none ∧ (pwm s p.val).now = false ∧ ps s
  R.PWM_P_CFG_RELOAD p.val ≠ 3 :=
  ⟨pwm0 1 { pend := some set0 } {}, 0, set0, regsOk_of (by decide +kernel), by decide +kernel⟩
theorem witness_PwmCommandsComplete_reload : ∃ (s : State) (t : Twin) (p : Fin 8) (q : PwmSet), RegsOk s ∧ twState s
  t ≠ tsReset ∧ running s p.val = true ∧ (selects s p.val).1 = true ∧ ps s R.PWM_P_CFG_RLD_DIV p.val ≤ (pwm s
  p.val).div ∧ (pwm s p.val).com = some q ∧ (pwm s p.val).pend = none :=
  ⟨pwm0 1 { com := some set0 } {}, .a, 0, set0, regsOk_of (by decide +kernel), by decide +kernel⟩
theorem witness_PwmCommandsComplete_reload2 : ∃ (s : State) (t : Twin) (p : Fin 8) (q : PwmSet), RegsOk s ∧ twState s
  t ≠ tsReset ∧ running s p.val = true ∧ (selects s p.val).2 = true ∧ (pwm s p.val).begun = true ∧ ps s
  R.PWM_P_CFG_RLD_DIV p.val ≤ (pwm s p.val).div ∧ (pwm s p.val).com = some q ∧ (pwm s p.val).pend = none :=
  ⟨wf (pwm0 1 { com := some set0, begun := true } {}) .a (pf R.PWM_P_CFG_RELOAD 0) 1, .a, 0, set0, regsOk_of (by
    decide +kernel), by decide +kernel⟩
theorem witness_PwmCommandsComplete_reload3 : ∃ (s : State) (p : Fin 8) (k : Fin 3), running s p.val = true ∧ (k.val
  = 0 ∧ (selects s p.val).1 = true ∨ k.val = 1 ∧ (selects s p.val).2 = true ∧ (pwm s p.val).begun = true) ∧ (pwm s
  p.val).div < ps s R.PWM_P_CFG_RLD_DIV p.val :=
  ⟨wf (pwm0 1 { com := some set0 } {}) .a (pf R.PWM_P_CFG_RLD_DIV 0) 1, 0, 0, by decide +kernel⟩
theorem witness_PwmCommandsComplete_reload4 : ∃ (s : State) (t : Twin) (p : Fin 8) (q : PwmSet), RegsOk s ∧ twState s
  t ≠ tsReset ∧ running s p.val = true ∧ ((pwm s p.val).now = true ∨ ps s R.PWM_P_CFG_RELOAD p.val = 3) ∧ (pwm s
  p.val).pend = some q ∧ (pwm s p.val).com = none :=
  ⟨pwm0 1 { pend := some set0, now := true } {}, .a, 0, set0, regsOk_of (by decide +kernel), by decide +kernel⟩
theorem witness_PwmCommandsComplete_periodBoundary : ∃ (s : State) (p : Fin 8), RegsOk s ∧ running s p.val = true :=
  ⟨pwm0 1 { nb := 100000, wA := 1 } {}, 0, regsOk_of (by decide +kernel), by decide +kernel⟩
theorem witness_PwmCommandsComplete_compareEvent : ∃ (s : State) (p : Fin 8) (i : Fin 4), running s p.val = true ∧
  (pwm s p.val).begun = true ∧ (pwm s p.val).xFrom ≤ ((pwm s p.val).x.getD i.val 0 : Nat) ∧ (pwm s p.val).x.getD
  i.val 0 < pw s R.PWM_P_DEV p.val ∧ i.val ∉ (pwm s p.val).xDone :=
  ⟨pwm0 1 { begun := true, x := [5, 6] } {}, 0, 1, by decide +kernel⟩
theorem witness_PwmCommandsComplete_pwmEdge : ∃ (s : State) (p : Fin 8) (b r : Bool), running s p.val = true ∧ (pwm s
  p.val).begun = true :=
  ⟨pwm0 1 { begun := true } {}, 0, false, true, by decide +kernel⟩
theorem witness_PwmCommandsComplete_pwmEdge2 : ∃ (s : State) (p : Fin 8) (b r : Bool), (gen s p.val).run = true :=
  ⟨gd0 { run := true } {}, 0, false, true, by decide +kernel⟩
theorem witness_PwmCommandsComplete_deadTimeEnd : ∃ (s : State) (k : Fin 16) (b : Bool), choose s k.val (bit b) = (1,
  true) ∧ (choose s k.val (bit (!b))).1 = 0 ∧ noDrive s k.val (bit b) = false ∧ (if b then (outs s k.val).waitB else
  (outs s k.val).waitA) = false ∧ (if b then (outs s k.val).a else (outs s k.val).b) = 0 ∧ (if b then (outs s
  k.val).wantA else (outs s k.val).wantB) = false :=
  ⟨pwm0 1 { begun := true, sB := true, gB := true } { a := 0, b := 0, wantB := true, deadB := true }, 0, true, by
    decide +kernel⟩
theorem witness_PwmCommandsComplete_pwmForce : ∃ (s : State) (t : Twin) (p : Fin 8) (fa fb : Fin 4) (x : Bool),
  RegsOk s ∧ twState s t ≠ tsReset ∧ ¬(fa.val = 2 ∧ fb.val = 2) :=
  ⟨pwm0 1 {} {}, .a, 0, 1, 3, true, regsOk_of (by decide +kernel), by decide +kernel⟩
theorem witness_PwmCommandsComplete_dtLock : ∃ (s : State) (tg : Target) (t : Twin), RegsOk s ∧ twState s t ≠ tsReset
  ∧ (tg = .both ∨ tg = .one t) :=
  ⟨pair, .both, .b, regsOk_of (by decide +kernel), by decide +kernel⟩
theorem witness_GateDriveCommandsComplete_generatorBoundary : ∃ (s : State) (g : Fin 8) (x : Bool) (q : Nat × Nat), q
  = (if bridgeMode s g.val then (rf s (edgeTwin s) R.GD_GPB_PERIOD * 160, bridgeOnTime s g.val (gen s g.val).count)
  else (gen s g.val).seq.getD (if (gen s g.val).written && x then ((rd s (edgeTwin s) (R.GD_P_GEN_PERIOD + 64 *
  g.val)).toNat, (rd s (edgeTwin s) (R.GD_P_GEN_ON + 64 * g.val)).toNat) else ((gen s g.val).period, (gen s
  g.val).on))) ∧ (if bridgeMode s g.val then (gen s g.val).bridge = true ∧ s.edge.bridgeOn = true else (gen s
  g.val).seq.isSome = true ∨ gdSrc s g.val = 1) :=
  ⟨wr (wr (wf (gd0 { written := true } {}) .a (gf R.GD_P_CFG_SRC 0) 1) .a R.GD_P_GEN_PERIOD 5000#32) .a R.GD_P_GEN_ON
    100#32, 0, true, (5000, 100), by decide +kernel⟩
theorem witness_GateDriveCommandsComplete_gateUvlo : ∃ (s : State) (t : Twin) (g : Fin 8), RegsOk s ∧ twState s t ≠
  tsReset ∧ (rd s t (R.GD_P_UVLO_CNT + 64 * g.val)).toNat < 4294967294 :=
  ⟨gd0 {} {}, .a, 0, regsOk_of (by decide +kernel), by decide +kernel⟩
theorem witness_GateDriveCommandsComplete_gateUvlo2 : ∃ (s : State) (t : Twin) (g : Fin 8), RegsOk s ∧ twState s t ≠
  tsReset ∧ gs s R.GD_P_UVLO_VDRVN g.val ≠ 0 :=
  ⟨wf (gd0 {} {}) .a (gf R.GD_P_UVLO_VDRVN 0) 1, .a, 0, regsOk_of (by decide +kernel), by decide +kernel⟩
theorem witness_GateDriveCommandsComplete_uvloRecover : ∃ (s : State) (t : Twin) (g : Fin 8) (n : Bool), RegsOk s ∧
  twState s t ≠ tsReset ∧ (gen s g.val).lock = true ∧ (gen s g.val).run = true :=
  ⟨wf (gd0 { lock := true, run := true } {}) .a (gf R.GD_P_STATUS_UV_P 0) 1, .a, 0, false, regsOk_of (by
    decide +kernel), by decide +kernel⟩
theorem witness_GateDriveCommandsComplete_bootstrapRefresh : ∃ (s : State) (g : Fin 8), 6 ≤ g.val ∧ (outs s (8 +
  g.val)).a = 1 ∧ heldOn s g.val = false :=
  ⟨gd0 {} { a := 1 }, 6, by decide +kernel⟩
theorem witness_GateDriveCommandsComplete_bootstrapRefresh2 : ∃ (s : State) (g : Fin 8), (gen s g.val).sched = true ∧
  (gen s g.val).run = true :=
  ⟨gd0 { run := true, sched := true } {}, 6, by decide +kernel⟩
theorem witness_GateDriveCommandsComplete_forcedRefresh : ∃ (s : State) (t : Twin) (g : Fin 8), RegsOk s ∧ twState s
  t ≠ tsReset ∧ 6 ≤ g.val ∧ (outs s (8 + g.val)).a = 1 :=
  ⟨gd0 {} { a := 1 }, .a, 6, regsOk_of (by decide +kernel), by decide +kernel⟩
theorem witness_GateDriveCommandsComplete_forcedRefreshEnd : ∃ (s : State) (t : Twin) (g : Fin 8), RegsOk s ∧ twState
  s t ≠ tsReset ∧ (gen s g.val).refresh = true ∧ (gen s g.val).run = true :=
  ⟨gd0 { refresh := true, run := true } {}, .a, 6, regsOk_of (by decide +kernel), by decide +kernel⟩
theorem witness_GateDriveCommandsComplete_gpbRun : ∃ (s : State) (t : Twin), RegsOk s ∧ twState s t ≠ tsReset ∧
  safelight s = false ∧ flag s (edgeTwin s) R.GD_GPB_BRIDGE = true ∧ s.edge.bridgeOn = false ∧ stoNow s = false :=
  ⟨wf sto0 .a R.GD_GPB_BRIDGE 1, .a, regsOk_of (by decide +kernel), by decide +kernel⟩
theorem witness_GateDriveCommandsComplete_gpbRun2 : ∃ (s : State) (t : Twin), RegsOk s ∧ twState s t ≠ tsReset ∧
  safelight s = false ∧ (flag s (edgeTwin s) R.GD_GPB_BRIDGE = false ∨ s.edge.bridgeOn = true ∨ stoNow s = true) :=
  ⟨pair, .a, regsOk_of (by decide +kernel), by decide +kernel⟩
theorem witness_GateDriveCommandsComplete_bridgeStartTest : ∃ (s : State) (t : Twin), RegsOk s ∧ twState s t ≠
  tsReset ∧ s.edge.testA = true ∧ s.edge.testB = false ∧ s.edge.testBad = false ∧ stoNow s = false :=
  ⟨{ sto0 with edge := { testA := true } }, .a, regsOk_of (by decide +kernel), by decide +kernel⟩
theorem witness_GateDriveCommandsComplete_bridgeStartTest2 : ∃ (s : State) (t : Twin), RegsOk s ∧ twState s t ≠
  tsReset ∧ s.edge.testB = true ∧ s.edge.testA = true :=
  ⟨{ pair with edge := { testA := true, testB := true } }, .a, regsOk_of (by decide +kernel), by decide +kernel⟩
theorem witness_GateDriveCommandsComplete_bridgeStartTest3 : ∃ (s : State) (t : Twin) (x : Bool), RegsOk s ∧ twState
  s t ≠ tsReset ∧ s.edge.testB = true ∧ s.edge.testA = false ∧ (s.edge.testBad = true ∨ x = false) :=
  ⟨{ sto0 with edge := { testB := true } }, .a, false, regsOk_of (by decide +kernel), by decide +kernel⟩
theorem witness_GateDriveCommandsComplete_bridgeStartTest4 : ∃ (s : State) (t : Twin) (x : Bool), RegsOk s ∧ twState
  s t ≠ tsReset ∧ s.edge.testA = true ∧ s.edge.testB = false ∧ (s.edge.testBad = true ∨ x = false) :=
  ⟨{ sto0 with edge := { testA := true } }, .a, false, regsOk_of (by decide +kernel), by decide +kernel⟩
theorem witness_GateDriveCommandsComplete_gdDiagStart : ∃ (s : State) (t : Twin) (m : BitVec 16) (i : Fin 4), RegsOk
  s ∧ leader s = some t ∧ (List.range 16).all (fun c => !(nbit m.toNat c) || channelOff s c) = true ∧ s.edge.diag =
  [] ∧ m ≠ 0 ∧ leaveHeld s 4 t = false ∧ leaveFree s t 4 0 = true :=
  ⟨cal0, .a, 5, 1, regsOk_of (by decide +kernel), by decide +kernel⟩
theorem witness_GateDriveCommandsComplete_gdDiagStart2 : ∃ (s : State) (m : BitVec 16) (i : Fin 4), (List.range
  16).any (fun c => nbit m.toNat c && !(channelOff s c)) = true :=
  ⟨gd0 {} { a := 1 }, 1, 1, by decide +kernel⟩
theorem witness_GateDriveCommandsComplete_gdDiagChannelEnd : ∃ (s : State) (t : Twin) (v w x : W32) (c : Fin 16),
  RegsOk s ∧ twState s t ≠ tsReset ∧ s.edge.diag = [c.val] ∧ x.toInt - 300 ≤ v.toInt :=
  ⟨{ pair with edge := { diag := [3] } }, .a, 10000, 10100, 10100, 3, regsOk_of (by decide +kernel), by
    decide +kernel⟩
theorem witness_GateDriveCommandsComplete_gdDiagChannelEnd2 : ∃ (s : State) (t : Twin) (v w x : W32) (c : Fin 16) (r
  : List Nat), RegsOk s ∧ twState s t ≠ tsReset ∧ s.edge.diag = c.val :: r ∧ r ≠ [] ∧ v.toInt < x.toInt - 300 ∧
  (w.toInt - v.toInt) * 10 < (bits (rd s (edgeTwin s) ((if c.val % 2 = 0 then R.GD_P_RMAX_A else R.GD_P_RMAX_B) + 64
  * (c.val / 2))) 15 0 : Nat) * (2 * testCurrent (rf s (edgeTwin s) R.GD_DIAG_CTRL_ITEST) : Nat) :=
  ⟨{ wr pair .a R.GD_P_RMAX_A 100#32 with edge := { diag := [0, 3] } }, .a, 1000, 1100, 10100, 0, [3], regsOk_of (by
    decide +kernel), by decide +kernel⟩
theorem witness_GateDriveCommandsComplete_gdDiagChannelEnd3 : ∃ (s : State) (t : Twin) (v w x : W32) (c : Fin 16) (r
  : List Nat), RegsOk s ∧ twState s t ≠ tsReset ∧ s.edge.diag = c.val :: r ∧ r ≠ [] ∧ v.toInt < x.toInt - 300 ∧ (bits
  (rd s (edgeTwin s) ((if c.val % 2 = 0 then R.GD_P_RMAX_A else R.GD_P_RMAX_B) + 64 * (c.val / 2))) 15 0 : Nat) * (2
  * testCurrent (rf s (edgeTwin s) R.GD_DIAG_CTRL_ITEST) : Nat) ≤ (w.toInt - v.toInt) * 10 ∧ (bits (rd s (edgeTwin s)
  ((if c.val % 2 = 0 then R.GD_P_RMAX_A else R.GD_P_RMAX_B) + 64 * (c.val / 2))) 31 16 = 65535 ∨ (w.toInt - v.toInt)
  * 10 ≤ (bits (rd s (edgeTwin s) ((if c.val % 2 = 0 then R.GD_P_RMAX_A else R.GD_P_RMAX_B) + 64 * (c.val / 2))) 31
  16 : Nat) * (2 * testCurrent (rf s (edgeTwin s) R.GD_DIAG_CTRL_ITEST) : Nat)) :=
  ⟨{ wr pair .a R.GD_P_RMAX_A 0xFFFF0001#32 with edge := { diag := [0, 3] } }, .a, 1000, 1100, 10100, 0, [3],
    regsOk_of (by decide +kernel), by decide +kernel⟩
theorem witness_GateDriveCommandsComplete_gdDiagChannelEnd4 : ∃ (s : State) (t : Twin) (v w x : W32) (c : Fin 16) (r
  : List Nat), RegsOk s ∧ twState s t ≠ tsReset ∧ s.edge.diag = c.val :: r ∧ r ≠ [] ∧ v.toInt < x.toInt - 300 ∧ (bits
  (rd s (edgeTwin s) ((if c.val % 2 = 0 then R.GD_P_RMAX_A else R.GD_P_RMAX_B) + 64 * (c.val / 2))) 15 0 : Nat) * (2
  * testCurrent (rf s (edgeTwin s) R.GD_DIAG_CTRL_ITEST) : Nat) ≤ (w.toInt - v.toInt) * 10 ∧ bits (rd s (edgeTwin s)
  ((if c.val % 2 = 0 then R.GD_P_RMAX_A else R.GD_P_RMAX_B) + 64 * (c.val / 2))) 31 16 ≠ 65535 ∧ (bits (rd s
  (edgeTwin s) ((if c.val % 2 = 0 then R.GD_P_RMAX_A else R.GD_P_RMAX_B) + 64 * (c.val / 2))) 31 16 : Nat) * (2 *
  testCurrent (rf s (edgeTwin s) R.GD_DIAG_CTRL_ITEST) : Nat) < (w.toInt - v.toInt) * 10 :=
  ⟨{ wr pair .a R.GD_P_RMAX_A 0x00020001#32 with edge := { diag := [0, 3] } }, .a, 1000, 1100, 10100, 0, [3],
    regsOk_of (by decide +kernel), by decide +kernel⟩
theorem witness_GateDriveCommandsComplete_gdDiagAbort : ∃ (s : State) (t : Twin) (c : Fin 16), RegsOk s ∧ twState s t
  ≠ tsReset ∧ s.edge.diag = [c.val] :=
  ⟨{ pair with edge := { diag := [3] } }, .a, 3, regsOk_of (by decide +kernel), by decide +kernel⟩
theorem witness_TripCommandsComplete_tripLatch : ∃ (s : State) (t : Twin) (i : Fin 8) (x y : Bool), RegsOk s ∧ (match
  t with | .a => x | .b => y) = true ∧ flag s t (fo R.TRIP_IN_EN (4 * i.val)) = true ∧ biti s t R.TRIP_LATCH_IN i.val
  = false ∧ (rd s t (R.TRIP_IN_CNT + 4 * i.val)).toNat < 4294967294 :=
  ⟨wf pair .a (fo R.TRIP_IN_EN 8) 1, .a, 2, true, false, regsOk_of (by decide +kernel), by decide +kernel⟩
theorem witness_TripCommandsComplete_tripSideDiff : ∃ (s : State) (i : Fin 8), RegsOk s ∧ biti s .a R.TRIP_LATCH_IN
  i.val = true ∧ biti s .b R.TRIP_LATCH_IN i.val = false :=
  ⟨wf pair .a R.TRIP_LATCH_IN 4, 2, regsOk_of (by decide +kernel), by decide +kernel⟩
theorem witness_TripCommandsComplete_tripClear : ∃ (s : State) (t : Twin) (i c x y : Byte), RegsOk s ∧ i &&& x = 0 ∧
  c &&& y = 0 :=
  ⟨wf pair .a R.TRIP_LATCH_IN 4, .a, 4, 0, 1, 1, regsOk_of (by decide +kernel), by decide +kernel⟩
theorem witness_TripCommandsComplete_tripClear2 : ∃ (s : State) (t : Twin) (i c x y : Byte), RegsOk s ∧ rf s t
  R.TRIP_LATCH_IN &&& i.toNat &&& x.toNat ≠ 0 :=
  ⟨wf pair .a R.TRIP_LATCH_IN 4, .a, 4, 0, 5, 1, regsOk_of (by decide +kernel), by decide +kernel⟩
theorem witness_TripCommandsComplete_tripLock : ∃ (s : State) (tg : Target) (t : Twin), RegsOk s ∧ twState s t ≠
  tsReset ∧ (tg = .both ∨ tg = .one t) :=
  ⟨pair, .both, .b, regsOk_of (by decide +kernel), by decide +kernel⟩
theorem witness_TripCommandsComplete_dsnTh2 : ∃ (s : State) (t : Twin) (k : Fin 8) (x y : Bool), RegsOk s ∧ (match t
  with | .a => x | .b => y) = true ∧ dsnWatched s t k.val = true ∧ biti s t R.TRIP_LATCH_SC k.val = false :=
  ⟨dsn0 false, .a, 0, true, true, regsOk_of (by decide +kernel), by decide +kernel⟩
theorem witness_TripCommandsComplete_dsnTh1 : ∃ (s : State) (t : Twin) (k : Fin 8) (x y : Bool), RegsOk s ∧ (match t
  with | .a => x | .b => y) = true ∧ dsnWatched s t k.val = true ∧ (outs s (dsnPair s k.val)).blank = true :=
  ⟨dsn0 true, .a, 0, true, true, regsOk_of (by decide +kernel), by decide +kernel⟩
theorem witness_TripCommandsComplete_dsnTh12 : ∃ (s : State) (t : Twin) (k : Fin 8) (x y : Bool), RegsOk s ∧ (match t
  with | .a => x | .b => y) = true ∧ dsnWatched s t k.val = true ∧ (outs s (dsnPair s k.val)).blank = false ∧ biti s
  t R.TRIP_LATCH_SC k.val = false :=
  ⟨dsn0 false, .a, 0, true, true, regsOk_of (by decide +kernel), by decide +kernel⟩
theorem witness_TripCommandsComplete_dsnBlankingEnd : ∃ (s : State) (t : Twin) (k : Fin 8), RegsOk s ∧ dsnWatched s t
  k.val = true ∧ biti s t R.TRIP_LATCH_EARLY k.val = true ∧ biti s t R.TRIP_LATCH_SC k.val = false :=
  ⟨wf (dsn0 true) .a R.TRIP_LATCH_EARLY 1, .a, 0, regsOk_of (by decide +kernel), by decide +kernel⟩
theorem witness_TripCommandsComplete_dsnBlankingEnd2 : ∃ (s : State) (t : Twin) (k : Fin 8), RegsOk s ∧ biti s t
  R.TRIP_LATCH_EARLY k.val = true :=
  ⟨wf (dsn0 true) .a R.TRIP_LATCH_EARLY 1, .a, 0, regsOk_of (by decide +kernel), by decide +kernel⟩
theorem witness_TripCommandsComplete_softTurnOffEnd : ∃ (s : State) (t : Twin) (g : Fin 8), RegsOk s ∧ twState s t ≠
  tsReset ∧ (outs s (8 + g.val)).a = 0 ∧ choose s (8 + g.val) 0 = (0, false) ∧ noDrive s (8 + g.val) 0 = false :=
  ⟨wf (wf (gd0 { lock := true } { a := 0, soft := true }) .a R.GD_P_CFG_SRC 2) .a (gf R.GD_P_DRIVE_ISRC_A 0) 1, .a,
    0, regsOk_of (by decide +kernel), by decide +kernel⟩
theorem witness_DriveChannelCommandsComplete_driveEnable : ∃ (s : State) (t : Twin) (v : Bool), RegsOk s ∧
  (targetCode .both (fun t => if v && !(drvBound s t) then Rc.DRV_BINDING else Rc.OK) = Rc.OK) :=
  ⟨pair, .a, true, regsOk_of (by decide +kernel), by decide +kernel⟩
theorem witness_DriveChannelCommandsComplete_driveEnable2 : ∃ (s : State), (drvBound s .a = false ∨ drvBound s .b =
  false) :=
  ⟨drv0 1 5 0#32 {}, by decide +kernel⟩
theorem witness_DriveChannelCommandsComplete_channelRun : ∃ (s : State) (t : Twin) (d : Fin 2) (v : Bool), RegsOk s ∧
  (v = false ∨ safelight s = false) :=
  ⟨pair, .a, 1, true, regsOk_of (by decide +kernel), by decide +kernel⟩
theorem witness_DriveChannelCommandsComplete_channelRun2 : ∃ (s : State) (d : Fin 2), safelight s = true :=
  ⟨wf pair .a R.SYS_STATUS_SAFELIGHT 1, 1, by decide +kernel⟩
theorem witness_DriveChannelCommandsComplete_sequencerOutputApply : ∃ (s : State) (d : Fin 2) (p : Nat), d.val ∈
  channels s (edgeTwin s) ∧ p ∈ chanPairs s (edgeTwin s) d.val ∧ ((chan s (edgeTwin s) d.val).mode ≠ 1 ∨ (pwm s
  p).begun = true) :=
  ⟨drv0 1 5 0#32 {}, 0, 1, by decide +kernel⟩
theorem witness_DriveChannelCommandsComplete_xoHoldEnd : ∃ (s : State) (t : Twin) (d : Fin 2), computing s t = true
  :=
  ⟨drv0 1 3 0#32 { hfi := true, xoReq := false, xoHold := true }, .a, 0, by decide +kernel⟩
theorem witness_DriveChannelCommandsComplete_catchMeasureEnd : ∃ (s : State) (t : Twin) (d : Fin 2), RegsOk s ∧
  computing s t = true ∧ chSt s t d.val = 2 ∧ stoNow s = false ∧ chanTrip s t d.val = false ∧ stage s t < 4 ∧
  discharging s t = false ∧ enabled s t = true ∧ runReq s t d.val = true ∧ (chan s t d.val).done = false ∧ (chan s t
  d.val).fails + 0 ≤ rf s t (df R.DRV_D_TIMING1_CATCH_RETRY d.val) ∧ (chan s t d.val).phase = 1 ∧ catchRuns s t d.val
  ≤ (chan s t d.val).n ∧ (chan s t d.val).n ≠ 0 ∧ F32.lt (F32.div (chan s t d.val).sumE (F32.ofInt (chan s t
  d.val).n)) (dw s t R.DRV_D_CATCH_EMIN d.val) = true :=
  ⟨catchable (drv0 1 2 0#32 { phase := 1, n := 3000, sumE := 0x3F800000#32 }) .a, .a, 0, regsOk_of (by
    decide +kernel), by decide +kernel⟩
theorem witness_DriveChannelCommandsComplete_catchMeasureEnd2 : ∃ (s : State) (t : Twin) (d : Fin 2), RegsOk s ∧
  computing s t = true ∧ chSt s t d.val = 2 ∧ stoNow s = false ∧ chanTrip s t d.val = false ∧ stage s t < 4 ∧
  discharging s t = false ∧ enabled s t = true ∧ runReq s t d.val = true ∧ (chan s t d.val).done = false ∧ (chan s t
  d.val).fails + 1 ≤ rf s t (df R.DRV_D_TIMING1_CATCH_RETRY d.val) ∧ (chan s t d.val).phase = 1 ∧ catchRuns s t d.val
  ≤ (chan s t d.val).n ∧ (chan s t d.val).n ≠ 0 ∧ F32.lt (F32.div (chan s t d.val).sumE (F32.ofInt (chan s t
  d.val).n)) (dw s t R.DRV_D_CATCH_EMIN d.val) = false ∧ F32.le (F32.abs (F32.sub (F32.div (chan s t d.val).sumE
  (F32.ofInt (chan s t d.val).n)) (F32.mul (dw s t R.DRV_D_PSIM d.val) (F32.abs (chan s t d.val).wFound)))) (F32.mul
  (F32.mul (dw s t R.DRV_D_CATCH_TOL d.val) (dw s t R.DRV_D_PSIM d.val)) (F32.abs (chan s t d.val).wFound)) = false
  :=
  ⟨catchable (drv0 1 2 0#32 { phase := 1, n := 3000, sumE := 0x4F800000#32 }) .a, .a, 0, regsOk_of (by
    decide +kernel), by decide +kernel⟩
theorem witness_DriveChannelCommandsComplete_polarityTest : ∃ (s : State) (t : Twin) (d : Fin 2), RegsOk s ∧
  computing s t = true ∧ chSt s t d.val = 2 ∧ stoNow s = false ∧ chanTrip s t d.val = false ∧ stage s t < 4 ∧
  discharging s t = false ∧ enabled s t = true ∧ runReq s t d.val = true ∧ (chan s t d.val).done = false ∧ (chan s t
  d.val).fails + 0 ≤ rf s t (df R.DRV_D_TIMING1_CATCH_RETRY d.val) ∧ ((chan s t d.val).phase = 2 ∨ (chan s t
  d.val).phase = 3) :=
  ⟨catchable (drv0 1 2 0#32 { phase := 3 }) .a, .a, 0, regsOk_of (by decide +kernel), by decide +kernel⟩
theorem witness_DriveChannelCommandsComplete_polarityTest2 : ∃ (s : State) (t : Twin) (d : Fin 2), RegsOk s ∧
  computing s t = true ∧ chSt s t d.val = 2 ∧ stoNow s = false ∧ chanTrip s t d.val = false ∧ stage s t < 4 ∧
  discharging s t = false ∧ enabled s t = true ∧ runReq s t d.val = true ∧ (chan s t d.val).done = false ∧ (chan s t
  d.val).fails + 1 ≤ rf s t (df R.DRV_D_TIMING1_CATCH_RETRY d.val) ∧ (chan s t d.val).phase = 4 ∧ F32.lt (F32.mul
  0x3F866666#32 (chan s t d.val).peakP) (chan s t d.val).peakN = false ∧ F32.lt (F32.mul 0x3F866666#32 (chan s t
  d.val).peakN) (chan s t d.val).peakP = false :=
  ⟨catchable (drv0 1 2 0#32 { phase := 4 }) .a, .a, 0, regsOk_of (by decide +kernel), by decide +kernel⟩
theorem witness_DriveChannelCommandsComplete_catchRetry : ∃ (s : State) (t : Twin) (d : Fin 2), RegsOk s ∧ computing
  s t = true ∧ (chan s t d.val).phase = 8 ∧ (chan s t d.val).fails ≤ rf s t (df R.DRV_D_TIMING1_CATCH_RETRY d.val) :=
  ⟨wf (drv0 1 2 0#32 { phase := 8, fails := 1 }) .a R.DRV_D_TIMING1_CATCH_RETRY 2, .a, 0, regsOk_of (by
    decide +kernel), by decide +kernel⟩
theorem witness_DriveChannelCommandsComplete_observerLoss : ∃ (s : State) (t : Twin) (d : Fin 2), RegsOk s ∧
  computing s t = true ∧ lossDue s t d.val = true ∧ chSt s t d.val = 3 ∧ stoNow s = false ∧ chanTrip s t d.val =
  false ∧ discharging s t = false ∧ (rd s t (R.DRV_D_OBS_LOSSES + 256 * d.val)).toNat < 4294967294 :=
  ⟨catchable (drv0 1 3 0#32 { mode := 1, loss := 300 }) .a, .a, 0, regsOk_of (by decide +kernel), by decide +kernel⟩
theorem witness_DriveChannelCommandsComplete_ascExit : ∃ (s : State) (t : Twin) (d : Fin 2), RegsOk s ∧ computing s t
  = true ∧ chSt s t d.val = 6 ∧ (F32.lt (chan s t d.val).imag (dw s t R.DRV_D_ASC_IMIN d.val) = true ∨ F32.lt
  (F32.abs (chan s t d.val).wsc) (F32.mul (dw s t R.DRV_D_W_ASC d.val) (F32.sub F32.one (dw s t R.DRV_D_ASC_HYST
  d.val))) = true) ∧ F32.lt (vdc s t) (rd s t R.DRV_V_S4) = true ∧ discharging s t = false :=
  ⟨wr (wr (drv0 1 6 0#32 { mode := 2 }) .a R.DRV_D_ASC_IMIN 0x3F800000#32) .a R.DRV_V_S4 0x3F800000#32, .a, 0,
    regsOk_of (by decide +kernel), by decide +kernel⟩
theorem witness_DriveChannelCommandsComplete_tmonCmd : ∃ (s : State) (t : Twin) (d : Fin 2), RegsOk s ∧ machine s t =
  true ∧ monJudges s t = true ∧ (chan s t d.val).badCmd = true ∧ (rd s t (R.DRV_D_TMON_VIOL + 256 * d.val)).toNat <
  4294967294 :=
  ⟨wf (drv0 1 3 0#32 { badCmd := true }) .b (df R.DRV_D_TMON_SRC_REACT 0) 1, .b, 0, regsOk_of (by decide +kernel), by
    decide +kernel⟩
theorem witness_DriveChannelCommandsComplete_tmonEst : ∃ (s : State) (t : Twin) (d : Fin 2), RegsOk s ∧ machine s t =
  true ∧ monJudges s t = true ∧ (chan s t d.val).badEst = true ∧ (chan s t d.val).badCmd = false :=
  ⟨drv0 1 3 0#32 { badEst := true }, .b, 0, regsOk_of (by decide +kernel), by decide +kernel⟩
theorem witness_SpillwayAndDischargeCommandsComplete_discharge : ∃ (s : State) (t : Twin), computing s t = true ∧
  discharging s t = false :=
  ⟨pair, .a, by decide +kernel⟩
theorem witness_SpillwayAndDischargeCommandsComplete_dischargeStart : ∃ (s : State) (t : Twin), RegsOk s ∧ computing
  s t = true ∧ (s.tw t).drv.dis = 1 ∧ noFeed s t = true :=
  ⟨dis0 1 0#32, .a, regsOk_of (by decide +kernel), by decide +kernel⟩
theorem witness_SpillwayAndDischargeCommandsComplete_disRefused : ∃ (s : State) (t : Twin), RegsOk s ∧ computing s t
  = true ∧ (s.tw (asker s)).drv.dis = 1 ∧ noFeed s (asker s) = false :=
  ⟨onBoth (fun s t => wf s t R.ARR_STATUS_RUNNING 1) (dis0 1 0#32), .a, regsOk_of (by decide +kernel), by
    decide +kernel⟩
theorem witness_SpillwayAndDischargeCommandsComplete_disStuck : ∃ (s : State) (t : Twin), RegsOk s ∧ computing s t =
  true ∧ (s.tw t).drv.dis = 2 ∧ F32.lt (vdc s t) (F32.mul 0x3F666666#32 (s.tw t).drv.v0) = false :=
  ⟨dis0 2 0#32, .a, regsOk_of (by decide +kernel), by decide +kernel⟩
theorem witness_SpillwayAndDischargeCommandsComplete_disDone : ∃ (s : State) (t : Twin), RegsOk s ∧ computing s t =
  true ∧ ((s.tw t).drv.dis = 2 ∨ (s.tw t).drv.dis = 4) ∧ F32.lt (vdc s t) 0x42700000#32 = true :=
  ⟨dis0 2 0#32, .a, regsOk_of (by decide +kernel), by decide +kernel⟩
theorem witness_SpillwayAndDischargeCommandsComplete_disFail : ∃ (s : State) (t : Twin), RegsOk s ∧ computing s t =
  true ∧ (s.tw t).drv.dis = 2 ∧ F32.lt (vdc s t) 0x42700000#32 = false :=
  ⟨dis0 2 0x43000000#32, .a, regsOk_of (by decide +kernel), by decide +kernel⟩
theorem witness_SpillwayAndDischargeCommandsComplete_dischargeEnd : ∃ (s : State) (t : Twin), RegsOk s ∧ computing s
  t = true ∧ (s.tw t).drv.dis = 4 :=
  ⟨dis0 4 0#32, .a, regsOk_of (by decide +kernel), by decide +kernel⟩
theorem witness_SpillwayAndDischargeCommandsComplete_chopperFail : ∃ (s : State) (t : Twin), RegsOk s ∧ computing s t
  = true ∧ 0 < stage s t ∧ (roleNode s t 0 roIchop).isSome = true ∧ F32.le 0x3E800000#32 (s.tw t).drv.duty = true ∧
  F32.lt (role s t 0 roIchop) (F32.mul (rd s t R.DRV_ICH_MIN) (s.tw t).drv.duty) = true :=
  ⟨modDrv (wr (wf (dis0 0 0#32) .a R.DRV_STATUS_SPILL 1) .a R.DRV_ICH_MIN 0x3F800000#32) .a (fun x =>
    { x with duty := 0x3F800000#32 }), .a, regsOk_of (by decide +kernel), by decide +kernel⟩
theorem witness_SpillwayAndDischargeCommandsComplete_stage2 : ∃ (s : State) (t : Twin), RegsOk s ∧ computing s t =
  true ∧ 0 < stage s t ∧ F32.le (rd s t R.DRV_VCH_HI) (vdc s t) = true ∧ (s.tw t).drv.falling = false :=
  ⟨wr (wf (dis0 0 0x43000000#32) .a R.DRV_STATUS_SPILL 1) .a R.DRV_VCH_HI 0x42000000#32, .a, regsOk_of (by
    decide +kernel), by decide +kernel⟩
theorem witness_SpillwayAndDischargeCommandsComplete_spillTrip : ∃ (s : State) (t : Twin), RegsOk s ∧ computing s t =
  true ∧ 0 < stage s t ∧ stage s t < 5 ∧ (F32.le (rd s t R.DRV_V_S4) (vdc s t) = true ∨ F32.le (rd s t R.DRV_V_TRIP)
  (vdc s t) = true) ∧ (rd s t R.DRV_SPILL_TRIPS).toNat < 4294967294 :=
  ⟨wr (wf (dis0 0 0x43000000#32) .a R.DRV_STATUS_SPILL 1) .a R.DRV_V_S4 0x42000000#32, .a, regsOk_of (by
    decide +kernel), by decide +kernel⟩
theorem witness_SpillwayAndDischargeCommandsComplete_spillwayExit : ∃ (s : State) (t : Twin), RegsOk s ∧ computing s
  t = true ∧ 0 < stage s t ∧ F32.lt (vdc s t) (rd s t R.DRV_VCH_LO) = true :=
  ⟨wr (wf (dis0 0 0#32) .a R.DRV_STATUS_SPILL 1) .a R.DRV_VCH_LO 0x42000000#32, .a, regsOk_of (by decide +kernel), by
    decide +kernel⟩
theorem witness_SpillwayAndDischargeCommandsComplete_clear : ∃ (s : State) (t : Twin), RegsOk s ∧ (targetCode .both
  (fun t => if computing s t ∧ F32.le (rd s t R.DRV_VCH_LO) (vdc s t) then Rc.SOURCE_ACTIVE else Rc.OK) = Rc.OK) :=
  ⟨onBoth (fun s t => wr s t R.DRV_VCH_LO 0x42000000#32) (dis0 0 0#32), .a, regsOk_of (by decide +kernel), by
    decide +kernel⟩
theorem witness_SpillwayAndDischargeCommandsComplete_clear2 : ∃ (s : State) (t : Twin), computing s t = true ∧ F32.le
  (rd s t R.DRV_VCH_LO) (vdc s t) = true :=
  ⟨wr (dis0 0 0x43000000#32) .a R.DRV_VCH_LO 0x42000000#32, .a, by decide +kernel⟩
theorem witness_SpillwayAndDischargeCommandsComplete_encoderCount : ∃ (s : State) (t : Twin) (a b z : Bool) (x :
  W64), RegsOk s ∧ twState s t ≠ tsReset ∧ flag s t R.DRV_ENC_CFG_EN = true ∧ (quadPlace a b + 4 - quadPlace (nbit
  (rf s t R.DRV_ENC_STATUS_LEVELS) 0) (nbit (rf s t R.DRV_ENC_STATUS_LEVELS) 1)) % 4 % 2 = 1 :=
  ⟨wf pair .a R.DRV_ENC_CFG_EN 1, .a, false, true, true, 77, regsOk_of (by decide +kernel), by decide +kernel⟩
theorem witness_SpillwayAndDischargeCommandsComplete_encoderCount2 : ∃ (s : State) (t : Twin) (a b z : Bool) (x :
  W64), RegsOk s ∧ twState s t ≠ tsReset ∧ flag s t R.DRV_ENC_CFG_EN = true ∧ (quadPlace a b + 4 - quadPlace (nbit
  (rf s t R.DRV_ENC_STATUS_LEVELS) 0) (nbit (rf s t R.DRV_ENC_STATUS_LEVELS) 1)) % 4 = 0 :=
  ⟨wf pair .a R.DRV_ENC_CFG_EN 1, .a, false, false, true, 77, regsOk_of (by decide +kernel), by decide +kernel⟩
theorem witness_SpillwayAndDischargeCommandsComplete_encoderIndex : ∃ (s : State) (t : Twin), RegsOk s ∧ twState s t
  ≠ tsReset ∧ flag s t R.DRV_ENC_CFG_EN = true ∧ nbit (rf s t R.DRV_ENC_STATUS_LEVELS) 0 = true ∧ nbit (rf s t
  R.DRV_ENC_STATUS_LEVELS) 1 = true :=
  ⟨wf (wf pair .a R.DRV_ENC_CFG_EN 1) .a R.DRV_ENC_STATUS_LEVELS 3, .a, regsOk_of (by decide +kernel), by
    decide +kernel⟩
theorem witness_SpillwayAndDischargeCommandsComplete_hallChange : ∃ (s : State) (t : Twin) (h : Fin 8) (x : W64),
  RegsOk s ∧ twState s t ≠ tsReset ∧ flag s t R.DRV_HALL_CFG_EN = true ∧ h.val ≠ 0 ∧ h.val ≠ 7 ∧ ((rf s t
  R.DRV_HALL_CFG_SECTOR / 8 ^ (h.val - 1) % 8 + 6 - (s.tw t).drv.pos.hall) % 6 = 1 ∨ (rf s t R.DRV_HALL_CFG_SECTOR /
  8 ^ (h.val - 1) % 8 + 6 - (s.tw t).drv.pos.hall) % 6 = 5) :=
  ⟨wf (wf pair .a R.DRV_HALL_CFG_EN 1) .a R.DRV_HALL_CFG_SECTOR 1, .a, 1, 77, regsOk_of (by decide +kernel), by
    decide +kernel⟩
theorem witness_SpillwayAndDischargeCommandsComplete_hallChange2 : ∃ (s : State) (t : Twin) (h : Fin 8) (x : W64),
  RegsOk s ∧ twState s t ≠ tsReset ∧ flag s t R.DRV_HALL_CFG_EN = true ∧ (h.val = 0 ∨ h.val = 7) ∧ (rd s t
  R.DRV_HALL_ERR).toNat < 4294967294 :=
  ⟨wf pair .a R.DRV_HALL_CFG_EN 1, .a, 7, 77, regsOk_of (by decide +kernel), by decide +kernel⟩
theorem witness_SafetyFunctionCommandsComplete_safetyScan : ∃ (s : State) (t : Twin) (k : Fin 4), RegsOk s ∧ flag s t
  (fo R.SAF_F_CFG_EN (4 * k.val)) = true ∧ (fnSt s t k.val = 2 ∨ fnSt s t k.val = 3) ∧ chanRead s t k.val ≠ 0 ∧ (rd s
  t (R.SAF_DEMANDS + 4 * k.val)).toNat < 4294967294 :=
  ⟨saf0 3 0, .a, 0, regsOk_of (by decide +kernel), by decide +kernel⟩
theorem witness_SafetyFunctionCommandsComplete_safetyScan2 : ∃ (s : State) (t : Twin) (k : Fin 4), RegsOk s ∧ flag s
  t (fo R.SAF_F_CFG_EN (4 * k.val)) = false :=
  ⟨saf0 3 0, .a, 1, regsOk_of (by decide +kernel), by decide +kernel⟩
theorem witness_SafetyFunctionCommandsComplete_safetyScan3 : ∃ (s : State) (t : Twin), RegsOk s ∧ flag s t
  R.SAF_STATUS_LOCKED = false :=
  ⟨sto0, .a, regsOk_of (by decide +kernel), by decide +kernel⟩
theorem witness_SafetyFunctionCommandsComplete_discrepancyFault : ∃ (s : State) (t : Twin) (k : Fin 4), RegsOk s ∧
  flag s t (fo R.SAF_F_CFG_EN (4 * k.val)) = true ∧ chanRead s t k.val = 2 ∧ fnSt s t k.val = 1 ∧ (rd s t
  R.SAF_DISC).toNat < 4294967294 :=
  ⟨saf0 1 1, .a, 0, regsOk_of (by decide +kernel), by decide +kernel⟩
theorem witness_SafetyFunctionCommandsComplete_ack : ∃ (s : State) (t : Twin) (m : BitVec 4) (k : Fin 4), RegsOk s ∧
  (List.range 4).all (fun k => !(nbit m.toNat k) || (ackable s .a k && ackable s .b k)) = true ∧ m.getLsbD k.val =
  true :=
  ⟨saf0 2 3, .a, 1, 0, regsOk_of (by decide +kernel), by decide +kernel⟩
theorem witness_SafetyFunctionCommandsComplete_ack2 : ∃ (s : State) (m : BitVec 4) (k : Fin 4), m.getLsbD k.val =
  true ∧ (ackable s .a k.val && ackable s .b k.val) = false :=
  ⟨saf0 1 3, 1, 0, by decide +kernel⟩
theorem witness_SafetyFunctionCommandsComplete_demandAge : ∃ (s : State) (t : Twin) (k : Fin 4), RegsOk s ∧ rf s t
  R.SAF_GCFG_DEMAND_AGE ≠ 0 ∧ flag s t (fo R.SAF_F_CFG_EN (4 * k.val)) = true ∧ ((rf s t R.SAF_GCFG_DEMAND_AGE *
  86400 : Nat) : Int) ≤ ((devNs s t / 1000000000) % 4294967296 - (rd s t (R.SAF_F_LAST + 4 * k.val)).toNat) %
  4294967296 :=
  ⟨wr (wf (saf0 3 0) .a R.SAF_GCFG_DEMAND_AGE 5) .a R.SAF_F_LAST 4294467296#32, .a, 0, regsOk_of (by decide +kernel),
    by decide +kernel⟩
theorem witness_SafetyFunctionCommandsComplete_demandAge2 : ∃ (s : State) (t : Twin) (k : Fin 4), ((devNs s t /
  1000000000) % 4294967296 - (rd s t (R.SAF_F_LAST + 4 * k.val)).toNat) % 4294967296 < ((rf s t R.SAF_GCFG_DEMAND_AGE
  * 86400 : Nat) : Int) :=
  ⟨wf (saf0 3 0) .a R.SAF_GCFG_DEMAND_AGE 5, .a, 0, by decide +kernel⟩
theorem witness_SafetyFunctionCommandsComplete_internalDemand : ∃ (s : State) (t : Twin) (k : Fin 8), RegsOk s ∧
  twState s t ≠ tsReset :=
  ⟨pair, .a, 2, regsOk_of (by decide +kernel), by decide +kernel⟩
theorem witness_SafetyFunctionCommandsComplete_ackInt : ∃ (s : State) (t : Twin) (k : Fin 8), RegsOk s ∧ k.val ∈
  goneLatches s t :=
  ⟨wf pair .a R.SAF_STATUS_INT 16, .a, 4, regsOk_of (by decide +kernel), by decide +kernel⟩
theorem witness_SafetyFunctionCommandsComplete_ackInt2 : ∃ (s : State), goneLatches s .a = [] ∧ goneLatches s .b = []
  :=
  ⟨pair, by decide +kernel⟩
theorem witness_SafetyFunctionCommandsComplete_safetyStateRead : ∃ (s : State) (t : Twin) (d : Fin 2), RegsOk s ∧
  twState s t ≠ tsReset ∧ (flag s t R.SAF_STATUS_STO = true ∨ ((s.tw t).twn.linkFailed = false ∧ flag s t.other
  R.SAF_STATUS_STO = true)) ∧ d.val ∈ channels s t :=
  ⟨drv0 1 3 0#32 { mode := 1 }, .a, 0, regsOk_of (by decide +kernel), by decide +kernel⟩
theorem witness_SafetyFunctionCommandsComplete_safetyStateRead2 : ∃ (s : State) (t : Twin), twState s t ≠ tsReset :=
  ⟨wf pair .a R.SAF_STATUS_SAB 1, .a, by decide +kernel⟩
theorem witness_SafetyOutputAndCheckCommandsComplete_soutOvercurrent : ∃ (s : State) (t : Twin) (p : Fin 2), RegsOk s
  ∧ chanOn s t p.val = true ∧ (rd s t R.SAF_OUT_FAULTS).toNat < 4294967294 :=
  ⟨sout0, .b, 1, regsOk_of (by decide +kernel), by decide +kernel⟩
theorem witness_SafetyOutputAndCheckCommandsComplete_soutOffPulse : ∃ (s : State) (t : Twin) (p : Fin 2), RegsOk s ∧
  chanOn s t p.val = true :=
  ⟨sout0, .b, 1, regsOk_of (by decide +kernel), by decide +kernel⟩
theorem witness_SafetyOutputAndCheckCommandsComplete_soutOffPulse2 : ∃ (s : State) (t : Twin) (p : Fin 2), RegsOk s ∧
  chanOn s t p.val = true :=
  ⟨sout0, .b, 1, regsOk_of (by decide +kernel), by decide +kernel⟩
theorem witness_SafetyOutputAndCheckCommandsComplete_soutOffPulseEnd : ∃ (s : State) (t : Twin) (p : Fin 2), RegsOk s
  ∧ nbit (s.tw t).saf.pulse p.val = true :=
  ⟨modSaf sout0 .b (fun x => { x with pulse := 2 }), .b, 1, regsOk_of (by decide +kernel), by decide +kernel⟩
theorem witness_SafetyOutputAndCheckCommandsComplete_soutReadbackFault : ∃ (s : State) (t : Twin) (p : Fin 2) (h :
  Bool), RegsOk s ∧ nbit (s.tw t).saf.pulse p.val = false ∧ chanOn s t p.val = !h :=
  ⟨sout0, .b, 1, false, regsOk_of (by decide +kernel), by decide +kernel⟩
theorem witness_SafetyOutputAndCheckCommandsComplete_ackOut : ∃ (s : State) (t : Twin) (l : BitVec 2) (p : Fin 2),
  RegsOk s ∧ l.getLsbD p.val = true ∧ (biti s .a R.SAF_OUT_PAIR_FAULT p.val || biti s .b R.SAF_OUT_PAIR_FAULT p.val)
  = true :=
  ⟨wf pair .a R.SAF_OUT_PAIR_FAULT 2, .a, 2, 1, regsOk_of (by decide +kernel), by decide +kernel⟩
theorem witness_SafetyOutputAndCheckCommandsComplete_crossCheck : ∃ (s : State) (t : Twin), RegsOk s ∧ twState s t ≠
  tsReset :=
  ⟨pair, .a, regsOk_of (by decide +kernel), by decide +kernel⟩
theorem witness_SafetyOutputAndCheckCommandsComplete_smDiff : ∃ (s : State) (t : Twin), RegsOk s ∧ twState s t ≠
  tsReset ∧ ((s.tw t).saf.diff = true ∨ flag s .a R.SAF_STATUS_LOCKED = true ∧ flag s .b R.SAF_STATUS_LOCKED = true ∧
  rd s .a R.SAF_PCRC ≠ rd s .b R.SAF_PCRC) :=
  ⟨modSaf pair .a (fun x => { x with diff := true }), .a, regsOk_of (by decide +kernel), by decide +kernel⟩
theorem witness_SafetyOutputAndCheckCommandsComplete_solo : ∃ (s : State) (t : Twin), RegsOk s ∧ twState s t ≠
  tsReset ∧ flag s t R.SAF_STATUS_XCHK_OFF = true ∧ rf s t R.SAF_GCFG_SOLO_T ≠ 0 :=
  ⟨wf (wf pair .a R.SAF_STATUS_XCHK_OFF 1) .a R.SAF_GCFG_SOLO_T 3, .a, regsOk_of (by decide +kernel), by
    decide +kernel⟩
theorem witness_SafetyOutputAndCheckCommandsComplete_paramCheck : ∃ (s : State) (t : Twin), RegsOk s :=
  ⟨pair, .a, regsOk_of (by decide +kernel)⟩
theorem witness_SafetyOutputAndCheckCommandsComplete_oscCheck : ∃ (s : State) (t : Twin) (z : BitVec 16), RegsOk s ∧
  twState s t ≠ tsReset :=
  ⟨pair, .a, 16000, regsOk_of (by decide +kernel), by decide +kernel⟩
theorem witness_SafetyParameterCommandsComplete_safetyParamWrite : ∃ (s : State) (tg : Target) (t : Twin) (h : Fin 4)
  (a v : W32), RegsOk s ∧ safetyParam a.toNat = true ∧ groupOwner s 4 = some h.val ∧ t ∈ writeTwins s tg ∧ (twinsCode
  (writeTwins s tg) (fun t => if absent s t then Rc.TWIN_ABSENT else paramCode s t a.toNat v) = Rc.OK) :=
  ⟨onBoth (fun s t => wf s t ⟨R.HST_OWNER, 14, 12⟩ 2) pair, .both, .a, 2, BitVec.ofNat 32 R.SAF_F_CFG, 67764224#32,
    regsOk_of (by decide +kernel), by decide +kernel⟩
theorem witness_SafetyParameterCommandsComplete_safetyConfirm : ∃ (s : State) (t : Twin) (h : Fin 4) (c : BitVec 16)
  (p : SafPend), RegsOk s ∧ pendOf s h.val = some p ∧ safetyParam p.addr = true ∧ p.addr ≠ R.SAF_GCFG ∧ t ∈ ((if p.a
  then [Twin.a] else []) ++ (if p.b then [Twin.b] else [])) ∧ (twinsCode ((if p.a then [Twin.a] else []) ++ (if p.b
  then [Twin.b] else [])) (fun t => if absent s t then Rc.TWIN_ABSENT else paramCode s t p.addr p.value) = Rc.OK) ∧
  c.toNat = confirmCode p.addr p.value.toNat p.nonce.toNat ∧ (findRow p.addr).isSome = true :=
  ⟨modSaf pair .a (fun x => { x with pend := some ⟨true, false, 2, R.SAF_F_CFG, 67764224#32, 77⟩ }), .a, 2,
    BitVec.ofNat 16 (confirmCode R.SAF_F_CFG 67764224 77), ⟨true, false, 2, R.SAF_F_CFG, 67764224#32, 77⟩, regsOk_of
    (by decide +kernel), by decide +kernel⟩
theorem witness_SafetyParameterCommandsComplete_safetyConfirm2 : ∃ (s : State) (t : Twin) (h : Fin 4) (c : BitVec 16)
  (p : SafPend), RegsOk s ∧ pendOf s h.val = some p ∧ (s.tw t).saf.pend = some p ∧ c.toNat ≠ confirmCode p.addr
  p.value.toNat p.nonce.toNat :=
  ⟨modSaf pair .a (fun x => { x with pend := some ⟨true, false, 2, R.SAF_F_CFG, 67764224#32, 77⟩ }), .a, 2,
    BitVec.ofNat 16 (confirmCode R.SAF_F_CFG 67764224 77 + 1), ⟨true, false, 2, R.SAF_F_CFG, 67764224#32, 77⟩,
    regsOk_of (by decide +kernel), by decide +kernel⟩
theorem witness_SafetyParameterCommandsComplete_safetyConfirm3 : ∃ (s : State) (h : Fin 4) (c : BitVec 16), pendOf s
  h.val = none :=
  ⟨pair, 2, 3, by decide +kernel⟩
theorem witness_SafetyParameterCommandsComplete_confTimeout : ∃ (s : State) (t : Twin), RegsOk s ∧ (s.tw t).saf.pend
  ≠ none :=
  ⟨modSaf pair .a (fun x => { x with pend := some ⟨true, false, 2, R.SAF_F_CFG, 67764224#32, 77⟩ }), .a, regsOk_of
    (by decide +kernel), by decide +kernel⟩
theorem witness_SafetyParameterCommandsComplete_safetyParamLoad : ∃ (s : State) (t : Twin), RegsOk s ∧ twState s t ≠
  tsReset ∧ (s.tw t).saf.loaded = false :=
  ⟨modSaf pair .a (fun x => { x with loaded := false }), .a, regsOk_of (by decide +kernel), by decide +kernel⟩
theorem witness_NetworkPortCommandsComplete_netFrameReceive : ∃ (s : State) (t : Twin) (p : Fin 4) (f : NetFrame) (x
  : Int) (r : NetRoute), RegsOk s ∧ twState s t ≠ tsReset ∧ netOn s = true ∧ twState s (portTwin p.val) ≠ tsReset ∧
  (xing s (portTwin p.val) (xingKey 4 true)).dead = false ∧ f.fcs = true ∧ 64 ≤ f.len ∧ f.len ≤ 1536 ∧ f.ether ≠
  0x8808#16 ∧ serving s p.val = true ∧ hsr s = false ∧ routeOf s f = some r ∧ (f.seq = none ∨ r = .sv ∨ r = .goose ∨
  r = .ptp) ∧ r ≠ .ip ∧ (t = portTwin p.val ∨ (s.tw t).twn.linkFailed = false) ∧ (rd s (portTwin p.val)
  (R.NET_P_RX_OK + 64 * p.val)).toNat < 4294967294 :=
  ⟨net0, .a, 0, nf0, 0, .arp, regsOk_of (by decide +kernel), by decide +kernel⟩
theorem witness_NetworkPortCommandsComplete_netFrameReceive2 : ∃ (s : State) (t : Twin) (p : Fin 4) (f : NetFrame) (x
  : Int) (r : NetRoute) (q : BitVec 16) (e : DdEntry), RegsOk s ∧ twState s t ≠ tsReset ∧ netOn s = true ∧ twState s
  (portTwin p.val) ≠ tsReset ∧ (xing s (portTwin p.val) (xingKey 4 true)).dead = false ∧ f.fcs = true ∧ 64 ≤ f.len ∧
  f.len ≤ 1536 ∧ f.ether ≠ 0x8808#16 ∧ serving s p.val = true ∧ hsr s = false ∧ routeOf s f = some r ∧ (r = .arp ∨ r
  = .ip ∨ r = .supervision) ∧ f.seq = some q ∧ s.net.dd.find? (fun e => e.src == f.src) = some e ∧ (ddJudge e.a
  q.toNat).1 = 1 ∧ (rd s t R.NET_DD_DUP).toNat < 4294967294 :=
  ⟨{ net0 with net := { net0.net with dd := [⟨7, { seen := true, h := 5, map := 1 }, {}⟩] } }, .a, 0,
    { nf0 with seq := some 5 }, 0, .arp, 5, ⟨7, { seen := true, h := 5, map := 1 }, {}⟩, regsOk_of (by
    decide +kernel), by decide +kernel⟩
theorem witness_NetworkPortCommandsComplete_netFrameReceive3 : ∃ (s : State) (t : Twin) (p : Fin 4) (f : NetFrame) (x
  : Int), RegsOk s ∧ twState s t ≠ tsReset ∧ netOn s = true ∧ twState s (portTwin p.val) ≠ tsReset ∧ (xing s
  (portTwin p.val) (xingKey 4 true)).dead = false ∧ f.fcs = false ∧ (t = portTwin p.val ∨ (s.tw t).twn.linkFailed =
  false) ∧ (rd s (portTwin p.val) (R.NET_P_RX_FCS + 64 * p.val)).toNat < 4294967294 :=
  ⟨net0, .a, 0, { nf0 with fcs := false }, 0, regsOk_of (by decide +kernel), by decide +kernel⟩
theorem witness_NetworkPortCommandsComplete_prpCopyRelay : ∃ (s : State) (t : Twin) (p : Fin 4) (f : OutFrame) (r :
  List (Twin × OutFrame)), s.net.relay = (t, f) :: r ∧ leader s = some t ∧ portTwin p.val ≠ t ∧ lanPort s 1 = some
  p.val ∧ inPair s (portTwin p.val) = true ∧ portLink s p.val = true ∧ (xing s (portTwin p.val) (xingKey 4
  false)).dead = false :=
  ⟨{ net0 with net := { net0.net with relay := [(.a, { kind := .arp })] } }, .a, 3, { kind := .arp }, [], by
    decide +kernel⟩
theorem witness_NetworkPortCommandsComplete_portTakeover : ∃ (s : State) (t : Twin) (x : Fin 2), RegsOk s ∧ twState s
  t ≠ tsReset ∧ mayTakeOver s x.val = true :=
  ⟨{ net0 with net := { net0.net with link := [2, 3] } }, .a, 0, regsOk_of (by decide +kernel), by decide +kernel⟩
theorem witness_NetworkPortCommandsComplete_portReturn : ∃ (s : State) (t : Twin) (x : Fin 2), RegsOk s ∧ twState s t
  ≠ tsReset ∧ lanPort s x.val = some (backPort x.val) ∧ inPair s (portTwin (ownPort x.val)) = true ∧ portLink s
  (ownPort x.val) = true :=
  ⟨{ net0 with net := { net0.net with lanA := some 2 } }, .a, 0, regsOk_of (by decide +kernel), by decide +kernel⟩
theorem witness_NetworkPortCommandsComplete_supervisionFrame : ∃ (s : State) (p : Fin 4), lanPort s 0 = some p.val ∧
  inPair s (portTwin p.val) = true ∧ portLink s p.val = true ∧ (xing s (portTwin p.val) (xingKey 4 false)).dead =
  false :=
  ⟨net0, 0, by decide +kernel⟩
theorem witness_NetworkPortCommandsComplete_portLinkChange : ∃ (s : State) (t : Twin) (p : Fin 4) (x y z h : Bool) (m
  : Fin 3) (c : BitVec 16), RegsOk s ∧ twState s t ≠ tsReset ∧ twState s (portTwin p.val) ≠ tsReset ∧ (t = portTwin
  p.val ∨ (s.tw t).twn.linkFailed = false) ∧ (flag s (netTwin s) (npf R.NET_P_CFG_SGMII p.val) = false ∨ m.val = 2)
  :=
  ⟨net0, .a, 0, true, true, true, false, 2, 0, regsOk_of (by decide +kernel), by decide +kernel⟩
theorem witness_NetworkPortCommandsComplete_arpRequest : ∃ (s : State) (p : Fin 4) (w x : W32) (m : BitVec 48), netOn
  s = true ∧ w = rd s (netTwin s) R.NET_IP ∧ leader s = some (portTwin p.val) ∧ (xing s (netTwin s) (xingKey 4
  true)).dead = false ∧ lanPort s 0 = some p.val ∧ inPair s (portTwin p.val) = true ∧ portLink s p.val = true ∧ (xing
  s (portTwin p.val) (xingKey 4 false)).dead = false :=
  ⟨net0, 0, rd net0 .a R.NET_IP, 5, 77, by decide +kernel⟩
theorem witness_NetworkPortCommandsComplete_icmpEcho : ∃ (s : State) (p : Fin 4) (x : W32) (b : List Byte), netOn s =
  true ∧ b.length ≤ 1472 ∧ (s.net.echo.filter (fun e => decide (devNs s (netTwin s) - e < 1000000000))).length < 10 ∧
  leader s = some (portTwin p.val) ∧ (xing s (netTwin s) (xingKey 4 true)).dead = false ∧ lanPort s 0 = some p.val ∧
  inPair s (portTwin p.val) = true ∧ portLink s p.val = true ∧ (xing s (portTwin p.val) (xingKey 4 false)).dead =
  false :=
  ⟨net0, 0, 5, [1, 2], by decide +kernel⟩
theorem witness_SampledValueAndGooseCommandsComplete_svReceive : ∃ (s : State) (t : Twin) (i : Fin 8) (x : Fin 2) (m
  : SvMsg), RegsOk s ∧ takesLan s t x.val = true ∧ (xing s (lanTwin s x.val) (xingKey 4 true)).dead = false ∧
  svMatches s t i.val m = true ∧ m.asdus ≠ [] ∧ (rd s t (R.NET_SVS_MSGS + 32 * i.val)).toNat < 4294967294 :=
  ⟨wr net0 .a (R.NET_TAB + 8) 0x01000000#32, .a, 0, 0, ⟨0, 0, [], 0, false, [⟨5, 2, [(7, 0)]⟩, ⟨6, 2, [(8, 0)]⟩]⟩,
    regsOk_of (by decide +kernel), by decide +kernel⟩
theorem witness_SampledValueAndGooseCommandsComplete_svReceive2 : ∃ (s : State) (t : Twin) (i : Fin 8) (x : Fin 2) (m
  : SvMsg), RegsOk s ∧ takesLan s t x.val = true ∧ (xing s (lanTwin s x.val) (xingKey 4 true)).dead = false ∧
  svMatches s t i.val m = false ∧ (rd s t (R.NET_SVS_REJECT + 32 * i.val)).toNat < 4294967294 :=
  ⟨net0, .a, 0, 0, ⟨9, 0, [], 0, false, []⟩, regsOk_of (by decide +kernel), by decide +kernel⟩
theorem witness_SampledValueAndGooseCommandsComplete_svLost : ∃ (s : State) (t : Twin) (i : Fin 8), RegsOk s ∧
  computing s t = true ∧ rf s t (svf R.NET_SVS_STAT_STATE i.val) ≠ 3 :=
  ⟨net0, .a, 0, regsOk_of (by decide +kernel), by decide +kernel⟩
theorem witness_SampledValueAndGooseCommandsComplete_svPublish : ∃ (s : State) (t l : Twin) (j : Fin 4) (x : BitVec
  16), RegsOk s ∧ computing s t = true ∧ leader s = some l ∧ netOn s = true ∧ svChans s l (svPubBase j.val) ≠ 0 ∧
  x.toNat < svRate s l (svPubBase j.val) ∧ (rd s t (R.NET_SVP_MSGS + 32 * j.val)).toNat < 4294967294 :=
  ⟨wr net0 .a (R.NET_TAB + 0x408) 0x01000000#32, .b, .a, 0, 7, regsOk_of (by decide +kernel), by decide +kernel⟩
theorem witness_SampledValueAndGooseCommandsComplete_gooseReceive : ∃ (s : State) (t : Twin) (i : Fin 32) (x : Fin 2)
  (m : GooseMsg), RegsOk s ∧ takesLan s t x.val = true ∧ (xing s (lanTwin s x.val) (xingKey 4 true)).dead = false ∧
  gooseMatches s t i.val m = true ∧ gooseLayout s t i.val m = true :=
  ⟨wr net0 .a (R.NET_TAB + 0x1008) 0x00010000#32, .a, 0, 0, ⟨[], 0, false, false, 1, 2, 100, [⟨0, 3, 1⟩]⟩, regsOk_of
    (by decide +kernel), by decide +kernel⟩
theorem witness_SampledValueAndGooseCommandsComplete_gooseReceive2 : ∃ (s : State) (t : Twin) (i : Fin 32) (x : Fin
  2) (m : GooseMsg), RegsOk s ∧ takesLan s t x.val = true ∧ (xing s (lanTwin s x.val) (xingKey 4 true)).dead = false
  ∧ gooseLayout s t i.val m = false ∧ (rd s t (R.NET_GS_REJECT + 16 * i.val)).toNat < 4294967294 :=
  ⟨net0, .a, 0, 0, ⟨[], 0, false, false, 1, 2, 100, [⟨0, 3, 1⟩]⟩, regsOk_of (by decide +kernel), by decide +kernel⟩
theorem witness_SampledValueAndGooseCommandsComplete_gooseReceive3 : ∃ (s : State) (t : Twin) (i : Fin 32) (x : Fin
  2) (m : GooseMsg), RegsOk s ∧ takesLan s t x.val = true ∧ (xing s (lanTwin s x.val) (xingKey 4 true)).dead = false
  ∧ gooseMatches s t i.val m = false ∧ gooseLayout s t i.val m = true ∧ (rd s t (R.NET_GS_REJECT + 16 * i.val)).toNat
  < 4294967294 :=
  ⟨wr net0 .a (R.NET_TAB + 0x1008) 0x00010000#32, .a, 0, 0, ⟨[7], 0, false, false, 1, 2, 100, [⟨0, 3, 1⟩]⟩, regsOk_of
    (by decide +kernel), by decide +kernel⟩
theorem witness_SampledValueAndGooseCommandsComplete_gooseLost : ∃ (s : State) (t : Twin) (i : Fin 32), RegsOk s ∧
  computing s t = true ∧ gooseAt s t i.val (devNs s t) = none ∧ rf s t (gsf R.NET_GS_STATE_STATE i.val) ≠ 2 :=
  ⟨net0, .a, 0, regsOk_of (by decide +kernel), by decide +kernel⟩
theorem witness_SampledValueAndGooseCommandsComplete_gooseRepeat : ∃ (s : State) (t : Twin) (j : Fin 8), RegsOk s ∧
  computing s t = true ∧ (tabGet {} (s.tw t).net.gp j.val).last ≠ none :=
  ⟨modNetTw net0 .a (fun n => { n with gp := [(0, { last := some [] })] }), .a, 0, regsOk_of (by decide +kernel), by
    decide +kernel⟩
theorem witness_PtpCommandsComplete_ptpSyncReceive : ∃ (s : State) (t : Twin) (x : Fin 2) (m : PtpMsg), RegsOk s ∧
  computing s t = true ∧ ptpTakes s x.val m.domain = true ∧ fromSelected s x.val m = true ∧ (xing s (lanTwin s x.val)
  (xingKey 4 true)).dead = false ∧ m.twoStep = true :=
  ⟨ptp0 true, .a, 0, ⟨0, 9, 5, true, 0, 0, 0⟩, regsOk_of (by decide +kernel), by decide +kernel⟩
theorem witness_PtpCommandsComplete_ptpSyncReceive2 : ∃ (s : State) (t : Twin) (x : Fin 2) (m : PtpMsg), RegsOk s ∧
  computing s t = true ∧ ptpTakes s x.val m.domain = true ∧ fromSelected s x.val m = true ∧ (xing s (lanTwin s x.val)
  (xingKey 4 true)).dead = false ∧ m.twoStep = false ∧ rf s (lanTwin s x.val) R.TIME_CFG_SRC = 0 :=
  ⟨ptp0 true, .a, 0, ⟨0, 9, 5, false, 1000000, 0, 0⟩, regsOk_of (by decide +kernel), by decide +kernel⟩
theorem witness_PtpCommandsComplete_followUpReceive : ∃ (s : State) (t : Twin) (p : Fin 4) (x : Fin 2) (m w :
  PtpMsg), RegsOk s ∧ computing s t = true ∧ ptpTakes s x.val m.domain = true ∧ fromSelected s x.val m = true ∧ (xing
  s (lanTwin s x.val) (xingKey 4 true)).dead = false ∧ (xing s (portTwin p.val) (xingKey 4 true)).dead = false ∧
  lanPort s x.val = some p.val ∧ (x.val = 1 → lanPort s 0 ≠ some p.val) ∧ rf s (lanTwin s x.val) R.TIME_CFG_SRC = 0 ∧
  (s.tw (netTwin s)).tm.wait = some w ∧ w.seq = m.seq :=
  ⟨modTms (ptp0 true) (fun x => { x with wait := some ⟨0, 9, 5, true, 0, 0, 0⟩ }), .a, 0, 0, ⟨0, 9, 5, false,
    1000000, 0, 0⟩, ⟨0, 9, 5, true, 0, 0, 0⟩, regsOk_of (by decide +kernel), by decide +kernel⟩
theorem witness_PtpCommandsComplete_followUpReceive2 : ∃ (s : State) (p : Fin 4) (m : PtpMsg) (v : Int), (xing s
  (portTwin p.val) (xingKey 4 true)).dead = false ∧ inDomain s m.domain = true ∧ (tabGet {} (s.tw (portTwin
  p.val)).tm.pdelay p.val).wait = some (m.seq.toNat, v) :=
  ⟨modPd (ptp0 true) 0 (fun x => { x with wait := some (5, 700) }), 0, ⟨0, 9, 5, false, 100, 0, 0⟩, 700, by
    decide +kernel⟩
theorem witness_PtpCommandsComplete_ptpAnnounceReceive : ∃ (s : State) (t : Twin) (x : Fin 2) (m : Announce), RegsOk
  s ∧ (xing s (lanTwin s x.val) (xingKey 4 true)).dead = false ∧ computing s t = true ∧ ptpTakes s x.val m.domain =
  true ∧ m.sender ≠ clockId s ∧ (foreign s x.val).all (fun b => b.sender == m.sender || better m b) = true ∧ (rd s
  (lanTwin s x.val) R.TIME_ANN_RX).toNat < 4294967294 :=
  ⟨ptp0 false, .a, 0, ann0, regsOk_of (by decide +kernel), by decide +kernel⟩
theorem witness_PtpCommandsComplete_ptpAnnounceReceive2 : ∃ (s : State) (t : Twin) (x : Fin 2) (m b : Announce),
  RegsOk s ∧ (xing s (lanTwin s x.val) (xingKey 4 true)).dead = false ∧ computing s t = true ∧ ptpTakes s x.val
  m.domain = true ∧ m.sender ≠ clockId s ∧ foreign s x.val = some b ∧ b.sender ≠ m.sender ∧ better m b = false ∧ (rd
  s (lanTwin s x.val) R.TIME_ANN_RX).toNat < 4294967294 :=
  ⟨ptp0 true, .a, 0, { ann0 with sender := 11, steps := 3 }, ann0, regsOk_of (by decide +kernel), by decide +kernel⟩
theorem witness_PtpCommandsComplete_pdelayReqSend : ∃ (s : State) (p : Fin 4), serving s p.val = true ∧ rf s (netTwin
  s) R.TIME_CFG_ROLE ≠ 2 ∧ inPair s (portTwin p.val) = true ∧ portLink s p.val = true ∧ (xing s (portTwin p.val)
  (xingKey 4 false)).dead = false :=
  ⟨ptp0 true, 0, by decide +kernel⟩
theorem witness_PtpCommandsComplete_pdelayReqReceive : ∃ (s : State) (p : Fin 4) (q : PdelayReq) (n : Nat), (xing s
  (portTwin p.val) (xingKey 4 true)).dead = false ∧ (xing s (portTwin p.val) (xingKey 4 false)).dead = false ∧
  inDomain s q.domain = true ∧ serving s p.val = true ∧ rf s (netTwin s) R.TIME_CFG_ROLE ≠ 2 ∧ inPair s (portTwin
  p.val) = true ∧ portLink s p.val = true :=
  ⟨ptp0 true, 0, ⟨0, 5⟩, 77, by decide +kernel⟩
theorem witness_PtpCommandsComplete_pdelayRespReceive : ∃ (s : State) (p : Fin 4) (m : PtpMsg) (v : Int), (xing s
  (portTwin p.val) (xingKey 4 true)).dead = false ∧ inDomain s m.domain = true ∧ (tabGet {} (s.tw (portTwin
  p.val)).tm.pdelay p.val).sent = some (m.seq.toNat, v) :=
  ⟨modPd (ptp0 true) 0 (fun x => { x with sent := some (5, 700) }), 0, ⟨0, 9, 5, false, 100, 0, 9000⟩, 700, by
    decide +kernel⟩
theorem witness_PtpCommandsComplete_pdelayTimeout : ∃ (s : State) (p : Fin 4), RegsOk s ∧ ((tabGet {} (s.tw (portTwin
  p.val)).tm.pdelay p.val).sent ≠ none ∨ (tabGet {} (s.tw (portTwin p.val)).tm.pdelay p.val).wait ≠ none) ∧ (rd s
  (portTwin p.val) R.TIME_PDELAY_TO).toNat < 4294967294 :=
  ⟨modPd (ptp0 true) 0 (fun x => { x with sent := some (5, 700) }), 0, regsOk_of (by decide +kernel), by
    decide +kernel⟩
theorem witness_PtpCommandsComplete_ptpHoldover : ∃ (s : State) (t : Twin) (x : Fin 2), RegsOk s ∧ computing s t =
  true ∧ rf s (netTwin s) R.TIME_CFG_SRC = 0 ∧ clkState s ≠ 0 ∧ clkState s < 4 :=
  ⟨wf (ptp0 true) .a R.TIME_STATUS_STATE 3, .a, 0, regsOk_of (by decide +kernel), by decide +kernel⟩
theorem witness_PtpCommandsComplete_ptpHoldover2 : ∃ (s : State) (t : Twin) (x : Fin 2), RegsOk s ∧ computing s t =
  true ∧ bestLan (selectMaster (modTms s (fun y => { y with masters := tabSet none y.masters x.val none })) true) =
  none ∧ rf s (netTwin s) R.TIME_CFG_SRC = 0 ∧ clkState s ≠ 0 ∧ clkState s < 4 :=
  ⟨wf (ptp0 true) .a R.TIME_STATUS_STATE 3, .a, 0, regsOk_of (by decide +kernel), by decide +kernel⟩
theorem witness_PtpCommandsComplete_ptpHoldover3 : ∃ (s : State) (t : Twin) (x : Fin 2), RegsOk s ∧ (bestLan
  (selectMaster (modTms s (fun y => { y with masters := tabSet none y.masters x.val none })) true) ≠ none ∨ rf s
  (netTwin s) R.TIME_CFG_SRC ≠ 0) :=
  ⟨wf (ptp0 true) .a R.TIME_STATUS_STATE 3, .a, 1, regsOk_of (by decide +kernel), by decide +kernel⟩
theorem witness_PtpCommandsComplete_ptpHoldover4 : ∃ (s : State) (x : Fin 2), (rf s (netTwin s) R.TIME_CFG_SRC ≠ 0 ∨
  clkState s = 0 ∨ clkState s = 4 ∨ clkState s = 5) :=
  ⟨ptp0 true, 0, by decide +kernel⟩
theorem witness_PtpCommandsComplete_ptpFreerun : ∃ (s : State) (t : Twin), RegsOk s ∧ computing s t = true ∧ clkState
  s = 4 :=
  ⟨wf (ptp0 true) .a R.TIME_STATUS_STATE 4, .a, regsOk_of (by decide +kernel), by decide +kernel⟩
theorem witness_PtpCommandsComplete_ptpMasterSend : ∃ (s : State) (p : Fin 4), flag s (netTwin s)
  R.TIME_STATUS_MASTER = true ∧ serving s p.val = true ∧ inPair s (portTwin p.val) = true ∧ portLink s p.val = true ∧
  (xing s (portTwin p.val) (xingKey 4 false)).dead = false :=
  ⟨wf (ptp0 true) .a R.TIME_STATUS_MASTER 1, 0, by decide +kernel⟩
theorem witness_PtpCommandsComplete_leap : ∃ (s : State) (t : Twin), RegsOk s ∧ computing s t = true ∧ flag s t
  R.TIME_UTC_LEAP61 = true :=
  ⟨wf pair .a R.TIME_UTC_LEAP61 1, .a, regsOk_of (by decide +kernel), by decide +kernel⟩
theorem witness_PtpCommandsComplete_leap2 : ∃ (s : State) (t : Twin), RegsOk s ∧ computing s t = true ∧ flag s t
  R.TIME_UTC_LEAP61 = false ∧ flag s t R.TIME_UTC_LEAP59 = true :=
  ⟨wf pair .a R.TIME_UTC_LEAP59 1, .a, regsOk_of (by decide +kernel), by decide +kernel⟩
theorem witness_DeviceTimeCommandsComplete_rateChange : ∃ (s : State) (t : Twin) (w : W32), RegsOk s ∧ (s.tw
  t).tm.next = some w :=
  ⟨modTm pair .a (fun m => { m with next := some 5#32 }), .a, 5, regsOk_of (by decide +kernel), by decide +kernel⟩
theorem witness_DeviceTimeCommandsComplete_twinTimeAlign : ∃ (s : State) (l : Twin) (r : Fin 19), RegsOk s ∧ leader s
  = some l ∧ tsBoot ≤ twState s l.other ∧ twState s l.other ≤ tsFollowing :=
  ⟨pair, .a, 3, regsOk_of (by decide +kernel), by decide +kernel⟩
theorem witness_DeviceTimeCommandsComplete_twinAlign : ∃ (s : State) (t : Twin) (w : W32), RegsOk s :=
  ⟨pair, .a, 5000, regsOk_of (by decide +kernel)⟩
theorem witness_DeviceTimeCommandsComplete_step : ∃ (s : State) (t : Twin), RegsOk s ∧ computing s t = true ∧
  timeIdle s = true :=
  ⟨pair, .a, regsOk_of (by decide +kernel), by decide +kernel⟩
theorem witness_DeviceTimeCommandsComplete_step2 : ∃ (s : State), timeIdle s = false :=
  ⟨wf pair .a R.ARR_CTRL_ENABLE 1, by decide +kernel⟩
theorem witness_DeviceTimeCommandsComplete_timeSnap : ∃ (s : State) (t : Twin), RegsOk s :=
  ⟨pair, .a, regsOk_of (by decide +kernel)⟩
theorem witness_DeviceTimeCommandsComplete_ppsInEdge : ∃ (s : State) (t : Twin) (z : Int), RegsOk s ∧ computing s t =
  true ∧ flag s (netTwin s) R.TIME_PPS_IN_IN_EN = true :=
  ⟨wf pair .a R.TIME_PPS_IN_IN_EN 1, .a, 77, regsOk_of (by decide +kernel), by decide +kernel⟩
theorem witness_DeviceTimeCommandsComplete_ppsMiss : ∃ (s : State) (t : Twin), RegsOk s ∧ computing s t = true ∧ flag
  s t R.TIME_PPS_IN_IN_EN = true ∧ (rd s t R.TIME_PPS_MISS).toNat < 4294967294 :=
  ⟨wf pair .a R.TIME_PPS_IN_IN_EN 1, .a, regsOk_of (by decide +kernel), by decide +kernel⟩
theorem witness_DeviceTimeCommandsComplete_ppsOutPulse : ∃ (s : State) (t : Twin) (x : Bool), s.ilk.pins = some t :=
  ⟨pair, .a, true, by decide +kernel⟩
theorem witness_DeviceTimeCommandsComplete_ppsOutPulse2 : ∃ (s : State) (x : Bool), s.ilk.pins = none :=
  ⟨State.reset, true, by decide +kernel⟩
theorem witness_CanReceptionCommandsComplete_canFrameReceive : ∃ (s : State) (t : Twin) (b : Fin 2) (f : CanFrame) (x
  : BitVec 40), RegsOk s ∧ TabsOk s ∧ twState s t ≠ tsReset ∧ (xing s t (xingKey 5 true)).dead = false ∧ (canState s
  t b.val = 1 ∨ canState s t b.val = 2) ∧ (f.fdf = false ∨ flag s t (bfld R.CAN_B_CTRL_FD_EN b.val) = true) ∧
  hpMatches s t b.val f = false ∧ (List.range 128).find? (objMatches s t b.val f) = none ∧ (rd s t
  (R.CAN_B_RX_UNMATCHED + 65536 * b.val)).toNat < 4294967294 :=
  ⟨canx can0, .a, 0, ⟨5, false, false, false, false, false, 1, [7]⟩, 77, regsOk_of (by decide +kernel), tabsOk_of (by
    decide +kernel), by decide +kernel⟩
theorem witness_CanReceptionCommandsComplete_canFrameReceive2 : ∃ (s : State) (t : Twin) (b : Fin 2) (f : CanFrame)
  (m : Fin 128) (x : BitVec 40), RegsOk s ∧ TabsOk s ∧ twState s t ≠ tsReset ∧ (xing s t (xingKey 5 true)).dead =
  false ∧ (canState s t b.val = 1 ∨ canState s t b.val = 2) ∧ (f.fdf = false ∨ flag s t (bfld R.CAN_B_CTRL_FD_EN
  b.val) = true) ∧ (can s t b.val).active = none ∧ hpMatches s t b.val f = false ∧ (List.range 128).find? (objMatches
  s t b.val f) = some m.val ∧ flag s t (ofld R.CAN_B_OBJ_CTL_LOCKED b.val m.val) = false ∧ (rd s t (R.CAN_B_RX_OK +
  65536 * b.val)).toNat < 4294967294 :=
  ⟨onBoth (fun s t => wf s t (ofld R.CAN_B_OBJ_ID_EN 0 3) 1) (canx can0), .a, 0, ⟨5, false, false, false, false,
    false, 1, [7]⟩, 3, 77, regsOk_of (by decide +kernel), tabsOk_of (by decide +kernel), by decide +kernel⟩
theorem witness_CanReceptionCommandsComplete_canFrameReceive3 : ∃ (s : State) (t : Twin) (b : Fin 2) (f : CanFrame)
  (x : BitVec 40), RegsOk s ∧ TabsOk s ∧ twState s t ≠ tsReset ∧ (xing s t (xingKey 5 true)).dead = false ∧ (canState
  s t b.val = 1 ∨ canState s t b.val = 2) ∧ (f.fdf = false ∨ flag s t (bfld R.CAN_B_CTRL_FD_EN b.val) = true) ∧ (can
  s t b.val).active = none ∧ hpMatches s t b.val f = true ∧ flag s t (ofld R.CAN_B_OBJ_CTL_LOCKED b.val 128) = false
  ∧ (rd s t (R.CAN_B_RX_OK + 65536 * b.val)).toNat < 4294967294 :=
  ⟨onBoth (fun s t => wf s t (fo R.CAN_B_HPF_ID_EN 0) 1) (canx can0), .a, 0, ⟨5, false, false, false, false, false,
    1, [7]⟩, 77, regsOk_of (by decide +kernel), tabsOk_of (by decide +kernel), by decide +kernel⟩
theorem witness_CanReceptionCommandsComplete_canFrameReceive4 : ∃ (s : State) (t : Twin) (b : Fin 2) (f : CanFrame)
  (m : Fin 129) (x : BitVec 40), RegsOk s ∧ TabsOk s ∧ twState s t ≠ tsReset ∧ (xing s t (xingKey 5 true)).dead =
  false ∧ (canState s t b.val = 1 ∨ canState s t b.val = 2) ∧ (f.fdf = false ∨ flag s t (bfld R.CAN_B_CTRL_FD_EN
  b.val) = true) ∧ (can s t b.val).active = none ∧ (m.val = 128 ∧ hpMatches s t b.val f = true ∨ hpMatches s t b.val
  f = false ∧ (List.range 128).find? (objMatches s t b.val f) = some m.val) ∧ flag s t (ofld R.CAN_B_OBJ_CTL_LOCKED
  b.val m.val) = true :=
  ⟨onBoth (fun s t => wf (wf s t (ofld R.CAN_B_OBJ_ID_EN 0 3) 1) t (ofld R.CAN_B_OBJ_CTL_LOCKED 0 3) 1) (canx can0),
    .a, 0, ⟨5, false, false, false, false, false, 1, [7]⟩, 3, 77, regsOk_of (by decide +kernel), tabsOk_of (by
    decide +kernel), by decide +kernel⟩
theorem witness_CanReceptionCommandsComplete_canFrameReceive5 : ∃ (s : State) (t : Twin) (b : Fin 2) (f : CanFrame)
  (x : BitVec 40), RegsOk s ∧ TabsOk s ∧ twState s t ≠ tsReset ∧ (xing s t (xingKey 5 true)).dead = false ∧ (canState
  s t b.val = 1 ∨ canState s t b.val = 2) ∧ f.fdf = true ∧ flag s t (bfld R.CAN_B_CTRL_FD_EN b.val) = false ∧ (can s
  t b.val).closing = false ∧ wasArriving s t b.val x.toNat = false ∧ (rd s t (R.CAN_B_PEX + 65536 * b.val)).toNat <
  4294967294 :=
  ⟨wf (canx can0) .a R.CAN_B_CTRL_FD_EN 0, .a, 0, ⟨5, false, false, true, false, false, 1, [7]⟩, 77, regsOk_of (by
    decide +kernel), tabsOk_of (by decide +kernel), by decide +kernel⟩
theorem witness_CanReceptionCommandsComplete_canFrameReceive6 : ∃ (s : State) (t : Twin) (b : Fin 2) (f : CanFrame)
  (x : BitVec 40), RegsOk s ∧ TabsOk s ∧ twState s t ≠ tsReset ∧ (xing s t (xingKey 5 true)).dead = false ∧ f.fdf =
  true ∧ flag s t (bfld R.CAN_B_CTRL_FD_EN b.val) = false ∧ wasArriving s t b.val x.toNat = true ∧ (rd s t
  (R.CAN_B_PEX + 65536 * b.val)).toNat < 4294967294 :=
  ⟨modCan (wf (wf can0 .a R.CAN_B_CTRL_FD_EN 0) .a R.CAN_B_STATUS_STATE 0) .a 0 (fun c =>
    { c with closedAt := some 5 }), .a, 0, ⟨5, false, false, true, false, false, 1, [7]⟩, 1, regsOk_of (by
    decide +kernel), tabsOk_of (by decide +kernel), by decide +kernel⟩
theorem witness_CanReceptionCommandsComplete_canCtlRead : ∃ (s : State) (t : Twin) (b : Fin 2) (m : Fin 129), RegsOk
  s ∧ (m.val = 128 ∨ flag s t (ofld R.CAN_B_OBJ_ID_DIR b.val m.val) = false) :=
  ⟨can0, .a, 0, 3, regsOk_of (by decide +kernel), by decide +kernel⟩
theorem witness_CanReceptionCommandsComplete_canLastWordRead : ∃ (s : State) (t : Twin) (b : Fin 2) (m : Fin 129),
  RegsOk s ∧ flag s t (ofld R.CAN_B_OBJ_CTL_LOCKED b.val m.val) = true ∧ (can s t b.val).hold.find? (fun e => e.1 ==
  m.val) = none :=
  ⟨wf can0 .a (ofld R.CAN_B_OBJ_CTL_LOCKED 0 3) 1, .a, 0, 3, regsOk_of (by decide +kernel), by decide +kernel⟩
theorem witness_CanReceptionCommandsComplete_lockTimeout : ∃ (s : State) (t : Twin) (b : Fin 2) (m : Fin 129), RegsOk
  s ∧ flag s t (ofld R.CAN_B_OBJ_CTL_LOCKED b.val m.val) = true ∧ (can s t b.val).hold.find? (fun e => e.1 == m.val)
  = none :=
  ⟨wf can0 .a (ofld R.CAN_B_OBJ_CTL_LOCKED 0 3) 1, .a, 0, 3, regsOk_of (by decide +kernel), by decide +kernel⟩
theorem witness_CanReceptionCommandsComplete_canRxError : ∃ (s : State) (t : Twin) (b : Fin 2) (z : Fin 7) (y : Bool)
  (x : DomBits), RegsOk s ∧ TabsOk s ∧ (canState s t b.val = 1 ∨ canState s t b.val = 2) ∧ (xing s t (xingKey 5
  true)).dead = false ∧ (rd s t (R.CAN_B_ERRORS + 65536 * b.val)).toNat < 4294967294 :=
  ⟨can0, .a, 0, 2, false, ⟨true, 2⟩, regsOk_of (by decide +kernel), tabsOk_of (by decide +kernel), by decide +kernel⟩
theorem witness_CanReceptionCommandsComplete_canRxError2 : ∃ (s : State) (t : Twin) (b : Fin 2) (z : Fin 7) (y :
  Bool) (x : DomBits), RegsOk s ∧ TabsOk s ∧ (canState s t b.val = 1 ∨ canState s t b.val = 2) ∧ (xing s t (xingKey 5
  true)).dead = false ∧ (can s t b.val).closing = false ∧ (rd s t (R.CAN_B_PEX + 65536 * b.val)).toNat < 4294967294
  :=
  ⟨can0, .a, 0, 2, false, ⟨true, 2⟩, regsOk_of (by decide +kernel), tabsOk_of (by decide +kernel), by decide +kernel⟩
theorem witness_CanReceptionCommandsComplete_isotpReceive : ∃ (s : State) (t : Twin) (b : Fin 2) (h : Fin 4) (d :
  List Byte) (n : Fin 8), TabsOk s ∧ computing s t = true ∧ (xing s t (xingKey 5 true)).dead = false ∧ flag s t (fo
  R.CAN_B_ECP_REQ_EN (65536 * b.val + 8 * h.val)) = true ∧ (d.getD 0 0).toNat = n.val ∧ 0 < n.val ∧ n.val < d.length
  :=
  ⟨wf can0 .a (fo R.CAN_B_ECP_REQ_EN 0) 1, .a, 0, 0, [3, 1, 2, 3], 3, tabsOk_of (by decide +kernel), by
    decide +kernel⟩
theorem witness_CanReceptionCommandsComplete_isotpReceive2 : ∃ (s : State) (t : Twin) (b : Fin 2) (h : Fin 4) (d :
  List Byte) (n : Nat), TabsOk s ∧ computing s t = true ∧ (xing s t (xingKey 5 true)).dead = false ∧ flag s t (fo
  R.CAN_B_ECP_REQ_EN (65536 * b.val + 8 * h.val)) = true ∧ (d.getD 0 0).toNat / 16 = 1 ∧ n = (d.getD 0 0).toNat % 16
  * 256 + (d.getD 1 0).toNat ∧ n ≠ 0 :=
  ⟨wf can0 .a (fo R.CAN_B_ECP_REQ_EN 0) 1, .a, 0, 0, [0x10, 20, 1, 2, 3, 4, 5, 6], 20, tabsOk_of (by decide +kernel),
    by decide +kernel⟩
theorem witness_CanReceptionCommandsComplete_isotpReceive3 : ∃ (s : State) (t : Twin) (b : Fin 2) (h : Fin 4) (d :
  List Byte) (r : IsoRx), TabsOk s ∧ computing s t = true ∧ (xing s t (xingKey 5 true)).dead = false ∧ flag s t (fo
  R.CAN_B_ECP_REQ_EN (65536 * b.val + 8 * h.val)) = true ∧ (d.getD 0 0).toNat / 16 = 2 ∧ (iso s t b.val h.val).rx =
  some r ∧ (d.getD 0 0).toNat % 16 = r.sn ∧ (r.got ++ (d.drop 1).take (r.total - r.got.length)).length < r.total ∧
  r.left ≠ 1 :=
  ⟨modIso (wf can0 .a (fo R.CAN_B_ECP_REQ_EN 0) 1) .a 0 0 (fun i => { i with rx := some ⟨20, [], 1, 0⟩ }), .a, 0, 0,
    [0x21, 1, 2, 3], ⟨20, [], 1, 0⟩, tabsOk_of (by decide +kernel), by decide +kernel⟩
theorem witness_CanReceptionCommandsComplete_isotpReceive4 : ∃ (s : State) (t : Twin) (b : Fin 2) (h : Fin 4) (d :
  List Byte) (r : IsoRx), RegsOk s ∧ TabsOk s ∧ computing s t = true ∧ (xing s t (xingKey 5 true)).dead = false ∧
  flag s t (fo R.CAN_B_ECP_REQ_EN (65536 * b.val + 8 * h.val)) = true ∧ (d.getD 0 0).toNat / 16 = 2 ∧ (iso s t b.val
  h.val).rx = some r ∧ (d.getD 0 0).toNat % 16 ≠ r.sn ∧ (rd s t (R.CAN_B_ISOTP_ERR + 65536 * b.val)).toNat <
  4294967294 :=
  ⟨modIso (wf can0 .a (fo R.CAN_B_ECP_REQ_EN 0) 1) .a 0 0 (fun i => { i with rx := some ⟨20, [], 1, 0⟩ }), .a, 0, 0,
    [0x22, 1, 2, 3], ⟨20, [], 1, 0⟩, regsOk_of (by decide +kernel), tabsOk_of (by decide +kernel), by decide +kernel⟩
theorem witness_CanReceptionCommandsComplete_isotpReceive5 : ∃ (s : State) (t : Twin) (b : Fin 2) (h : Fin 4) (d :
  List Byte), RegsOk s ∧ TabsOk s ∧ computing s t = true ∧ (xing s t (xingKey 5 true)).dead = false ∧ flag s t (fo
  R.CAN_B_ECP_REQ_EN (65536 * b.val + 8 * h.val)) = true ∧ (d.getD 0 0).toNat / 16 = 3 ∧ (iso s t b.val h.val).waitFc
  = true ∧ 2 ≤ (d.getD 0 0).toNat % 16 ∧ (rd s t (R.CAN_B_ISOTP_ERR + 65536 * b.val)).toNat < 4294967294 :=
  ⟨modIso (wf can0 .a (fo R.CAN_B_ECP_REQ_EN 0) 1) .a 0 0 (fun i => { i with waitFc := true }), .a, 0, 0, [0x32, 0,
    0], regsOk_of (by decide +kernel), tabsOk_of (by decide +kernel), by decide +kernel⟩
theorem witness_CanReceptionCommandsComplete_isotpTimeout : ∃ (s : State) (t : Twin) (b : Fin 2) (h : Fin 4) (x :
  Bool), RegsOk s ∧ computing s t = true ∧ (if x then (iso s t b.val h.val).waitFc = true else (iso s t b.val
  h.val).rx ≠ none) ∧ (rd s t (R.CAN_B_ISOTP_ERR + 65536 * b.val)).toNat < 4294967294 :=
  ⟨modIso can0 .a 0 1 (fun i => { i with rx := some ⟨20, [], 1, 0⟩ }), .a, 0, 1, false, regsOk_of (by
    decide +kernel), by decide +kernel⟩
theorem witness_CanReceptionCommandsComplete_referenceDue : ∃ (s : State) (t : Twin) (b : Fin 2), RegsOk s ∧ TabsOk s
  ∧ twState s t ≠ tsReset ∧ flag s t (bfld R.CAN_B_TM_EN b.val) = true ∧ flag s t (bfld R.CAN_B_CTRL_EN b.val) = true
  :=
  ⟨wf can0 .a (bfld R.CAN_B_TM_EN 0) 1, .a, 0, regsOk_of (by decide +kernel), tabsOk_of (by decide +kernel), by
    decide +kernel⟩
theorem witness_CanTransmissionCommandsComplete_txreq : ∃ (s : State) (t : Twin) (b : Fin 2) (m : Fin 128), RegsOk s
  ∧ twState s t ≠ tsReset ∧ enableEnds s b.val = false ∧ ecpObject s (netTwin s) b.val m.val = false ∧ flag s
  (netTwin s) (bfld R.CAN_B_CTRL_EN b.val) = true ∧ isTx s (netTwin s) b.val m.val = true ∧ objStat s (netTwin s)
  b.val m.val ≠ 1 ∧ objStat s (netTwin s) b.val m.val ≠ 2 :=
  ⟨canTx 0, .a, 0, 3, regsOk_of (by decide +kernel), by decide +kernel⟩
theorem witness_CanTransmissionCommandsComplete_canArbitration : ∃ (s : State) (t : Twin) (b : Fin 2) (m : Fin 129)
  (k : Nat), RegsOk s ∧ TabsOk s ∧ canDriver s b.val = some t ∧ (xing s t (xingKey 5 false)).dead = false ∧ (canState
  s t b.val = 1 ∨ canState s t b.val = 2) ∧ (can s t b.val).active = none ∧ (can s t b.val).closing = false ∧ winner
  (pendingFrames s t b.val) = some (k, m.val) ∧ beforeHandover s t b.val m.val = false :=
  ⟨canTx 1, .a, 0, 3, 0, regsOk_of (by decide +kernel), tabsOk_of (by decide +kernel), by decide +kernel⟩
theorem witness_CanTransmissionCommandsComplete_canArbitration2 : ∃ (s : State) (t : Twin) (b : Fin 2) (m : Fin 129)
  (k : Nat), canDriver s b.val = some t ∧ winner (pendingFrames s t b.val) = some (k, m.val) ∧ beforeHandover s t
  b.val m.val = true :=
  ⟨modTwn (canTx 1) .a (fun x => { x with handover := some 0 }), .a, 0, 3, 0, by decide +kernel⟩
theorem witness_CanTransmissionCommandsComplete_txDone : ∃ (s : State) (t : Twin) (b : Fin 2) (m : Fin 128) (x :
  BitVec 40), RegsOk s ∧ TabsOk s ∧ canDriver s b.val = some t ∧ (xing s t (xingKey 5 true)).dead = false ∧ (can s t
  b.val).active = some m.val ∧ (rd s t (R.CAN_B_TX_OK + 65536 * b.val)).toNat < 4294967294 :=
  ⟨modCan (canTx 2) .a 0 (fun c => { c with active := some 3 }), .a, 0, 3, 77, regsOk_of (by decide +kernel),
    tabsOk_of (by decide +kernel), by decide +kernel⟩
theorem witness_CanTransmissionCommandsComplete_txDone2 : ∃ (s : State) (t : Twin) (b : Fin 2) (m : Fin 129) (x :
  BitVec 40), RegsOk s ∧ TabsOk s ∧ canDriver s b.val = some t ∧ (xing s t (xingKey 5 true)).dead = false ∧ (can s t
  b.val).active = some m.val ∧ hearsBus s t.other b.val = true ∧ (xing s t.other (xingKey 5 true)).dead = false ∧
  hpMatches s t.other b.val (sentFrame s t b.val m.val) = false ∧ (List.range 128).find? (objMatches s t.other b.val
  (sentFrame s t b.val m.val)) = none ∧ (rd s t.other (R.CAN_B_RX_UNMATCHED + 65536 * b.val)).toNat < 4294967294 :=
  ⟨modCan (canTx 2) .a 0 (fun c => { c with active := some 3 }), .a, 0, 3, 77, regsOk_of (by decide +kernel),
    tabsOk_of (by decide +kernel), by decide +kernel⟩
theorem witness_CanTransmissionCommandsComplete_txDone3 : ∃ (s : State) (t : Twin) (b : Fin 2) (x : BitVec 40),
  RegsOk s ∧ TabsOk s ∧ canDriver s b.val = some t ∧ (xing s t (xingKey 5 true)).dead = false ∧ (can s t
  b.val).active = some 128 ∧ (rd s t (R.CAN_B_TX_OK + 65536 * b.val)).toNat < 4294967294 :=
  ⟨modCan (canTx 2) .a 0 (fun c => { c with active := some 128, refAct := 5 }), .a, 0, 77, regsOk_of (by
    decide +kernel), tabsOk_of (by decide +kernel), by decide +kernel⟩
theorem witness_CanTransmissionCommandsComplete_canAttemptError : ∃ (s : State) (t : Twin) (b : Fin 2) (m : Fin 128)
  (z : Fin 7) (y a : Bool) (d : DomBits), RegsOk s ∧ TabsOk s ∧ canDriver s b.val = some t ∧ (xing s t (xingKey 5
  true)).dead = false ∧ (can s t b.val).active = some m.val ∧ (can s t b.val).closing = false ∧ (rd s t
  (R.CAN_B_ERRORS + 65536 * b.val)).toNat < 4294967294 :=
  ⟨modCan (canTx 2) .a 0 (fun c => { c with active := some 3 }), .a, 0, 3, 2, false, false, ⟨true, 1⟩, regsOk_of (by
    decide +kernel), tabsOk_of (by decide +kernel), by decide +kernel⟩
theorem witness_CanTransmissionCommandsComplete_canAttemptError2 : ∃ (s : State) (t : Twin) (b : Fin 2) (z : Fin 7)
  (y a : Bool) (d : DomBits), RegsOk s ∧ TabsOk s ∧ canDriver s b.val = some t ∧ (xing s t (xingKey 5 true)).dead =
  false ∧ (can s t b.val).active = some 128 ∧ (can s t b.val).closing = false ∧ (rd s t (R.CAN_B_ERRORS + 65536 *
  b.val)).toNat < 4294967294 :=
  ⟨modCan (canTx 2) .a 0 (fun c => { c with active := some 128 }), .a, 0, 2, false, false, ⟨true, 1⟩, regsOk_of (by
    decide +kernel), tabsOk_of (by decide +kernel), by decide +kernel⟩
theorem witness_CanTransmissionCommandsComplete_cancel : ∃ (s : State) (t : Twin) (b : Fin 2) (m : Fin 128), RegsOk s
  ∧ twState s t ≠ tsReset ∧ ecpObject s (netTwin s) b.val m.val = false ∧ flag s t (ofld R.CAN_B_OBJ_ID_DIR b.val
  m.val) = true ∧ objStat s t b.val m.val = 1 :=
  ⟨canTx 1, .a, 0, 3, regsOk_of (by decide +kernel), by decide +kernel⟩
theorem witness_CanTransmissionCommandsComplete_canAttemptReport : ∃ (s : State) (l : Twin) (b : Fin 2) (m : Fin
  128), RegsOk s ∧ TabsOk s ∧ leader s = some l ∧ twState s l.other = tsFollowing ∧ isTx s l.other b.val m.val = true
  :=
  ⟨canTx 1, .a, 0, 3, regsOk_of (by decide +kernel), tabsOk_of (by decide +kernel), by decide +kernel⟩
theorem witness_CanTransmissionCommandsComplete_canDriveSwitch : ∃ (s : State) (t : Twin) (b : Fin 2), RegsOk s ∧
  s.ilk.pins = some t :=
  ⟨pair, .a, 0, regsOk_of (by decide +kernel), by decide +kernel⟩
theorem witness_CanTransmissionCommandsComplete_busOff : ∃ (s : State) (t : Twin) (b : Fin 2), RegsOk s ∧ canDriver s
  b.val = some t ∧ (canState s t b.val = 1 ∨ canState s t b.val = 2) ∧ 256 ≤ (can s t b.val).tec ∧ (rd s t
  (R.CAN_B_BUS_OFF + 65536 * b.val)).toNat < 4294967294 :=
  ⟨modCan can0 .a 0 (fun c => { c with tec := 260 }), .a, 0, regsOk_of (by decide +kernel), by decide +kernel⟩
theorem witness_CanTransmissionCommandsComplete_recover : ∃ (s : State) (t : Twin) (b : Fin 2), RegsOk s ∧ twState s
  t ≠ tsReset ∧ canState s (netTwin s) b.val = 3 :=
  ⟨wf can0 .a (bfld R.CAN_B_STATUS_STATE 0) 3, .a, 0, regsOk_of (by decide +kernel), by decide +kernel⟩
theorem witness_CanTransmissionCommandsComplete_recover2 : ∃ (s : State) (b : Fin 2), canState s (netTwin s) b.val ≠
  3 :=
  ⟨can0, 0, by decide +kernel⟩
theorem witness_CanTransmissionCommandsComplete_recovered : ∃ (s : State) (t : Twin) (b : Fin 2), RegsOk s ∧ TabsOk s
  ∧ twState s t ≠ tsReset ∧ canState s t b.val = 4 :=
  ⟨wf can0 .a (bfld R.CAN_B_STATUS_STATE 0) 4, .a, 0, regsOk_of (by decide +kernel), tabsOk_of (by decide +kernel),
    by decide +kernel⟩
theorem witness_CanTransmissionCommandsComplete_canEnable : ∃ (s : State) (t : Twin) (b : Fin 2), RegsOk s ∧ TabsOk s
  ∧ twState s t ≠ tsReset ∧ flag s t (bfld R.CAN_B_CTRL_EN b.val) = false :=
  ⟨pair, .a, 0, regsOk_of (by decide +kernel), tabsOk_of (by decide +kernel), by decide +kernel⟩
theorem witness_CanTransmissionCommandsComplete_canEnable2 : ∃ (s : State) (t : Twin) (b : Fin 2), RegsOk s ∧ TabsOk
  s ∧ twState s t ≠ tsReset ∧ flag s t (bfld R.CAN_B_CTRL_EN b.val) = true ∧ (can s t b.val).active = none :=
  ⟨can0, .a, 0, regsOk_of (by decide +kernel), tabsOk_of (by decide +kernel), by decide +kernel⟩
theorem witness_CanTransmissionCommandsComplete_canEnable3 : ∃ (s : State) (t : Twin) (b : Fin 2), RegsOk s ∧ TabsOk
  s ∧ twState s t ≠ tsReset ∧ flag s t (bfld R.CAN_B_CTRL_EN b.val) = true ∧ (can s t b.val).active ≠ none :=
  ⟨modCan can0 .a 0 (fun c => { c with active := some 3 }), .a, 0, regsOk_of (by decide +kernel), tabsOk_of (by
    decide +kernel), by decide +kernel⟩
theorem witness_CanTransmissionCommandsComplete_canIntegrated : ∃ (s : State) (t : Twin) (b : Fin 2), RegsOk s ∧
  twState s t ≠ tsReset ∧ canState s t b.val = 5 :=
  ⟨wf can0 .a (bfld R.CAN_B_STATUS_STATE 0) 5, .a, 0, regsOk_of (by decide +kernel), by decide +kernel⟩
theorem witness_CanTransmissionCommandsComplete_ecpCanEnable : ∃ (s : State) (t : Twin) (b : Fin 2) (h : Fin 4),
  RegsOk s ∧ twState s t ≠ tsReset ∧ flag s (netTwin s) (fo R.CAN_B_ECP_REQ_EN (65536 * b.val + 8 * h.val)) = false ∧
  flag s (netTwin s) (ofld R.CAN_B_OBJ_ID_EN b.val (127 - 2 * h.val)) = false ∧ flag s (netTwin s) (ofld
  R.CAN_B_OBJ_ID_EN b.val (126 - 2 * h.val)) = false :=
  ⟨can0, .a, 0, 1, regsOk_of (by decide +kernel), by decide +kernel⟩
theorem witness_CanTransmissionCommandsComplete_ecpCanEnable2 : ∃ (s : State) (t : Twin) (b : Fin 2) (h : Fin 4),
  RegsOk s ∧ twState s t ≠ tsReset ∧ flag s (netTwin s) (fo R.CAN_B_ECP_REQ_EN (65536 * b.val + 8 * h.val)) = true :=
  ⟨wf can0 .a (fo R.CAN_B_ECP_REQ_EN 8) 1, .a, 0, 1, regsOk_of (by decide +kernel), by decide +kernel⟩
theorem witness_RegisterWriteTakesOrRefuses_registerWrite : ∃ (s : State) (n : Fin 4096) (v : W32), RegsOk s ∧
  writeTwins s .both ≠ [] ∧ (writeTwins s .both).all (fun t => ((graph s t).bind (fun g => g.nodes[n.val]?)).any (fun
  x => x.kind == 2)) = true ∧ F32.isNan v = false :=
  ⟨nodes0, 1, 0x40000000#32, regsOk_of (by decide +kernel), by decide +kernel⟩
theorem witness_RegisterWriteTakesOrRefuses_registerWrite2 : ∃ (s : State) (n : Fin 4096) (v : W32), writeTwins s
  .both ≠ [] ∧ (writeTwins s .both).all (fun t => ((graph s t).bind (fun g => g.nodes[n.val]?)).any (fun x => x.kind
  == 2)) = false ∧ ((writeTwins s .both).head?.bind (fun t => (graph s t).bind (fun g => g.nodes[n.val]?))).any (fun
  x => x.kind == 2) = false :=
  ⟨nodes0, 0, 0x40000000#32, by decide +kernel⟩
theorem witness_RegisterWriteTakesOrRefuses_registerWrite3 : ∃ (s : State) (tg : Target) (t : Twin) (x v : W32),
  RegsOk s ∧ x.toNat ∈ [R.ARR_INS_RAMP, R.ARR_INS_KEEP, R.ARR_DMG_A, R.ARR_S_VNOM, R.CELL_A_COND, R.CELL_TMAX,
  R.NEG_EXP_PRE, R.NEG_EXP_LEVEL, R.PWM_P_START_S, R.ADC_C_SCALE, R.NET_IP, R.NET_MASK, R.TIME_KP, R.STQ_Q_DEST_IP,
  R.TWN_CELL_TOL, R.DRV_VCH_HI, R.DRV_D_LS, R.DRV_ENC_OFS] ∧ (if tg = .both then (findRow x.toNat).any (fun r =>
  oneTwinWord r.base v) else (findRow x.toNat).any (fun r => agreedWrite s r x.toNat v)) = false ∧ t ∈ writeTwins s
  tg ∧ (writeTwins s tg).all (fun t => !(absent s t)) = true ∧ twinsCode (writeTwins s tg) (fun t => (findRow
  x.toNat).elim 0 (fun r => judge s t r x.toNat v)) = Rc.OK :=
  ⟨nodes0, .both, .b, BitVec.ofNat 32 R.ARR_S_VNOM, 0x40000000#32, regsOk_of (by decide +kernel), by decide +kernel⟩
theorem witness_RegisterWriteTakesOrRefuses_registerWrite4 : ∃ (s : State) (tg : Target) (x v : W32) (r : RegRow),
  findRow x.toNat = some r ∧ x.toNat / 65536 ≠ 0x150 ∧ (if tg = .both then oneTwinWord r.base v else agreedWrite s r
  x.toNat v) = false ∧ writeTwins s tg ≠ [] ∧ (writeTwins s tg).all (fun t => reaches s t r.base) = true ∧ twinsCode
  (writeTwins s tg) (fun t => judge s t r x.toNat v) ≠ Rc.OK :=
  ⟨nodes0, .one .a, BitVec.ofNat 32 R.NEG_EXP_REGION_SIZE.addr, 0xFFFFFFFF#32, (findRow
    R.NEG_EXP_REGION_SIZE.addr).getD ⟨0, [], []⟩, by decide +kernel⟩
theorem witness_RegisterWriteTakesOrRefuses_registerWrite5 : ∃ (s : State) (t : Twin) (x v : W32) (r : RegRow),
  findRow x.toNat = some r ∧ agreedWrite s r x.toNat v = true :=
  ⟨nodes0, .a, BitVec.ofNat 32 R.ARR_S_VNOM, 5, (findRow R.ARR_S_VNOM).getD ⟨0, [], []⟩, by decide +kernel⟩
theorem witness_RegisterWriteTakesOrRefuses_registerWrite6 : ∃ (s : State) (x v : W32) (r : RegRow), findRow x.toNat
  = some r ∧ oneTwinWord r.base v = true :=
  ⟨nodes0, BitVec.ofNat 32 R.STQ_Q_DEST_IP, 5, (findRow R.STQ_Q_DEST_IP).getD ⟨0, [], []⟩, by decide +kernel⟩
theorem witness_RegisterWriteTakesOrRefuses_registerWrite7 : ∃ (s : State) (tg : Target) (x v : W32), inBlocks
  x.toNat = false :=
  ⟨pair, .both, 0x01A00000#32, 1, by decide +kernel⟩
theorem witness_RegisterWriteTakesOrRefuses_registerWrite8 : ∃ (s : State) (n : Fin 4096) (v : W32), writeTwins s
  .both = [] :=
  ⟨State.reset, 1, 2, by decide +kernel⟩
theorem witness_PacketCommandsComplete_ecpPacketReceive : ∃ (s : State) (y : Transport) (h : Fin 4) (p : List Byte)
  (x : IpPair) (z : PortPair) (t : Twin) (n : Nat) (tag : BitVec 128), RegsOk s ∧ TabsOk s ∧ forUs s y x.dst z.dst =
  true ∧ (xing s (asker s) (xingKey y.domain true)).dead = false ∧ leader s ≠ none ∧ p.length = 32 + n ∧ n ≤ 1440 ∧
  beAt p 0 1 = 1 ∧ beAt p 1 1 = h.val ∧ beAt p 3 1 / 16 < 8 ∧ beAt p 3 1 % 16 = 0 ∧ beAt p 8 2 = n ∧ (rd s (asker s)
  (ha R.HST_H_CFG h.val)).getLsbD 31 = true ∧ (rd s (asker s) (ha R.HST_H_CFG h.val)).getLsbD (27 + y.index) = true ∧
  (hctx s h.val).rolled = none ∧ BitVec.ofNat 128 (beAt p (16 + n) 16) = tag ∧ tagOk (ctxKey s h.val) p (16 + n) =
  true ∧ (hctx s h.val).kept.all (fun k => k.counter != beAt p 4 4 || k.tag != tag) = true ∧ highCtr s h.val < beAt p
  4 4 ∧ 0 < credits s h.val ∧ twState s t ≠ tsReset :=
  ⟨hsx host0, .serial, 0, nopPacket 5, ⟨7, 7⟩, ⟨80, 80⟩, .a, 0, BitVec.ofNat 128 (beAt (nopPacket 5) 16 16),
    regsOk_of (by decide +kernel), tabsOk_of (by decide +kernel), by decide +kernel⟩
theorem witness_PacketCommandsComplete_ecpPacketReceive2 : ∃ (s : State) (y : Transport) (h : Fin 4) (p : List Byte)
  (x : IpPair) (z : PortPair) (t : Twin), RegsOk s ∧ forUs s y x.dst z.dst = true ∧ (xing s (asker s) (xingKey
  y.domain true)).dead = false ∧ leader s ≠ none ∧ 2 ≤ p.length ∧ beAt p 1 1 % 4 = h.val ∧ p.length ≠ 32 + beAt p 8 2
  ∧ twState s t ≠ tsReset ∧ (rd s t (ha R.HST_H_AUTH_FAIL h.val)).toNat < 4294967294 :=
  ⟨hsx host0, .serial, 1, [1, 1, 0], ⟨7, 7⟩, ⟨80, 80⟩, .a, regsOk_of (by decide +kernel), by decide +kernel⟩
theorem witness_PacketCommandsComplete_put : ∃ (s : State) (n : BitVec 16) (p : List Byte) (c : BitVec 16), 32 ≤
  n.toNat ∧ n.toNat ≤ 1472 ∧ p.length = n.toNat ∧ crc16 (beBytes 2 n.toNat ++ p) = c.toNat ∧ s.ilk.pins ≠ none ∧
  (xing s (asker s) (xingKey 7 true)).dead = false :=
  ⟨hsx host0, 32, nopPacket 5, BitVec.ofNat 16 (crc16 (beBytes 2 32 ++ nopPacket 5)), by decide +kernel⟩
theorem witness_PacketCommandsComplete_put2 : ∃ (s : State) (t : Twin) (n : BitVec 16) (p : List Byte) (c : BitVec
  16) (x : Bool), RegsOk s ∧ (x = false ∨ n.toNat < 32 ∨ 1472 < n.toNat ∨ p.length ≠ n.toNat ∨ crc16 (beBytes 2
  n.toNat ++ p) ≠ c.toNat) ∧ twState s t ≠ tsReset ∧ (xing s (asker s) (xingKey 7 true)).dead = false ∧ (rd s t
  R.HST_SER).toNat < 4294967294 :=
  ⟨hsx host0, .a, 32, [1], 0, true, regsOk_of (by decide +kernel), by decide +kernel⟩
theorem witness_PacketCommandsComplete_get : ∃ (s : State) (r : Reply) (l : List Reply) (c : Nat), s.ilk.pins ≠ none
  ∧ (xing s (asker s) (xingKey 7 false)).dead = false ∧ s.host.serial = r :: l ∧ crc16 (beBytes 2 r.bytes.length ++
  r.bytes) = c :=
  ⟨{ hsx host0 with host := { host0.host with serial := [reply0] } }, reply0, [], crc16 (beBytes 2 2 ++ [1, 2]), by
    decide +kernel⟩
theorem witness_PacketCommandsComplete_get2 : ∃ (s : State), s.ilk.pins ≠ none ∧ (xing s (asker s) (xingKey 7
  false)).dead = false ∧ s.host.serial = [] :=
  ⟨hsx host0, by decide +kernel⟩
theorem witness_PacketCommandsComplete_put3 : ∃ (s : State) (n : BitVec 16) (p : List Byte) (c : BitVec 16) (r :
  Reply) (l : List Reply) (k : Nat), s.ilk.pins ≠ none ∧ (xing s (asker s) (xingKey 7 false)).dead = false ∧
  s.host.serial = r :: l ∧ crc16 (beBytes 2 r.bytes.length ++ r.bytes) = k :=
  ⟨{ hsx host0 with host := { host0.host with serial := [reply0] } }, 0, [], 0, reply0, [], crc16 (beBytes 2 2 ++ [1,
    2]), by decide +kernel⟩
theorem witness_PacketCommandsComplete_put4 : ∃ (s : State) (n : BitVec 16) (p : List Byte) (c : BitVec 16) (x :
  Bool), s.ilk.pins ≠ none :=
  ⟨host0, 0, [], 0, true, by decide +kernel⟩
theorem witness_PacketCommandsComplete_put5 : ∃ (s : State) (t : Twin) (n : BitVec 16) (p : List Byte) (c : BitVec
  16) (k : Byte) (x : Bool), RegsOk s ∧ k ≠ 1 ∧ k ≠ 2 ∧ k ≠ 3 ∧ twState s t ≠ tsReset ∧ (xing s (asker s) (xingKey 7
  true)).dead = false ∧ (rd s t R.HST_SER).toNat < 4294967294 :=
  ⟨hsx host0, .a, 0, [], 0, 9, true, regsOk_of (by decide +kernel), by decide +kernel⟩
theorem witness_PacketCommandsComplete_stat : ∃ (s : State), s.ilk.pins ≠ none :=
  ⟨host0, by decide +kernel⟩
theorem witness_PacketCommandsComplete_commandExecute : ∃ (s : State) (h : Fin 4) (n : Fin 101) (q : Queued) (l :
  List Queued), RegsOk s ∧ TabsOk s ∧ leader s ≠ none ∧ n.val < 70 ∧ s.host.turn = h.val ∧ (hctx s h.val).queue = q
  :: l ∧ l.length < 24 ∧ q.opcode = 0 ∧ q.params = [] ∧ q.ctx = h.val :=
  ⟨modCtx host0 0 (fun x => { x with queue := [nop0] }), 0, 20, nop0, [], regsOk_of (by decide +kernel), tabsOk_of
    (by decide +kernel), by decide +kernel⟩
theorem witness_PacketCommandsComplete_lowWaitLimit : ∃ (s : State) (h : Fin 4) (q : Queued) (l : List Queued),
  RegsOk s ∧ TabsOk s ∧ leader s ≠ none ∧ (hctx s h.val).queue = q :: l ∧ q.low = true ∧ q.deferred = true ∧ q.opcode
  = 0 ∧ q.params = [] ∧ q.ctx = h.val :=
  ⟨modCtx host0 0 (fun x => { x with queue := [{ nop0 with low := true, deferred := true }] }), 0,
    { nop0 with low := true, deferred := true }, [], regsOk_of (by decide +kernel), tabsOk_of (by decide +kernel), by
    decide +kernel⟩
theorem witness_PacketCommandsComplete_commandExecute2 : ∃ (s : State) (n : Fin 101) (h : Fin 4) (i : Nat), leader s
  ≠ none ∧ ([0, 1, 2, 3].map (fun k => (([0, 1, 2, 3].foldl deferLow (showLoad s n.val)).host.turn + k) % 4)).find?
  (fun k => (serveIdx ([0, 1, 2, 3].foldl deferLow (showLoad s n.val)) k).isSome) = some h.val ∧ serveIdx ([0, 1, 2,
  3].foldl deferLow (showLoad s n.val)) h.val = some i :=
  ⟨modCtx host0 0 (fun x => { x with queue := [nop0] }), 20, 0, 0, by decide +kernel⟩
theorem witness_PacketCommandsComplete_commandExecute3 : ∃ (s : State) (n : Fin 101), leader s ≠ none ∧ ([0, 1, 2,
  3]).all (fun h => (serveIdx ([0, 1, 2, 3].foldl deferLow (showLoad s n.val)) h).isNone) = true :=
  ⟨host0, 20, by decide +kernel⟩
theorem witness_PacketCommandsComplete_lowWaitLimit2 : ∃ (s : State) (h : Fin 4) (i : Nat), leader s ≠ none ∧ (hctx s
  h.val).queue.findIdx? (fun c => c.low && c.deferred) = some i :=
  ⟨modCtx host0 0 (fun x => { x with queue := [{ nop0 with low := true, deferred := true }] }), 0, 0, by
    decide +kernel⟩
theorem witness_InformationCommandsComplete_nop : ∃ (s : State) (h : Fin 4), leader s ≠ none :=
  ⟨host0, 0, by decide +kernel⟩
theorem witness_InformationCommandsComplete_identify : ∃ (s : State) (h : Fin 4), leader s ≠ none :=
  ⟨host0, 0, by decide +kernel⟩
theorem witness_InformationCommandsComplete_status : ∃ (s : State) (h : Fin 4) (t : Twin), leader s = some t :=
  ⟨host0, 0, .a, by decide +kernel⟩
theorem witness_InformationCommandsComplete_credits : ∃ (s : State) (h : Fin 4), leader s ≠ none :=
  ⟨host0, 0, by decide +kernel⟩
theorem witness_InformationCommandsComplete_events : ∃ (s : State) (h : Fin 4), leader s ≠ none :=
  ⟨host0, 0, by decide +kernel⟩
theorem witness_InformationCommandsComplete_report : ∃ (s : State) (h : Fin 4) (y x z : Byte), leader s ≠ none ∧
  y.toNat ≤ 1 ∧ x.toNat ≤ 191 ∧ z.toNat ≤ 64 ∧ x.toNat + z.toNat ≤ 192 ∧ absent s (if y.toNat = 0 then Twin.a else
  Twin.b) = false :=
  ⟨host0, 0, 1, 2, 3, by decide +kernel⟩
theorem witness_InformationCommandsComplete_owners : ∃ (s : State) (h : Fin 4), leader s ≠ none :=
  ⟨host0, 0, by decide +kernel⟩
theorem witness_InformationCommandsComplete_listChanges : ∃ (s : State) (h : Fin 4), leader s ≠ none :=
  ⟨change0 false, 0, by decide +kernel⟩
theorem witness_InformationCommandsComplete_read : ∃ (s : State) (h : Fin 4) (y : Byte) (n : BitVec 16) (x : W32) (t
  : Twin), leader s ≠ none ∧ readTwin s y.toNat = some t ∧ 0 < n.toNat ∧ n.toNat ≤ 256 ∧ x.toNat % 4 = 0 ∧ blockOf
  x.toNat ≠ none ∧ blockOf (x.toNat + 4 * (n.toNat - 1)) = blockOf x.toNat ∧ x.toNat / 65536 ≠ 0x150 ∧ (List.range
  n.toNat).any (fun i => negMemBusy s t (x.toNat + 4 * i)) = false ∧ absent s t = false :=
  ⟨host0, 0, 1, 4, BitVec.ofNat 32 R.TWN_STATE, .b, by decide +kernel⟩
theorem witness_ChangeCommandsComplete_write : ∃ (s : State) (h : Fin 4) (tg : Target) (y : Byte) (v : W32) (z x :
  Bool) (n : Int) (a : W32) (d : List W32), leader s ≠ none ∧ writeTarget y.toNat = some tg ∧ d ≠ [] ∧ d.length ≤ 256
  ∧ confirmOf (writeEntries a.toNat d) = none ∧ (writeEntries a.toNat d).all (fun e => mayWrite (say (hostCnt s
  R.HST_H_COMMANDS h.val) Rc.OK) h.val e && inBlocks e.addr.toNat && !(safetyParam e.addr.toNat)) = true ∧
  (runEntries tg h.val (say (hostCnt s R.HST_H_COMMANDS h.val) Rc.OK) true (writeEntries a.toNat d) (say (hostCnt s
  R.HST_H_COMMANDS h.val) Rc.OK)).2 = none ∧ (if z then (firstCycle s : Int) else namedCycle s v) = n ∧ 0 ≤ n ∧
  devTime s (asker s) + leadNs s * 65536 ≤ (originNs s (asker s) + n * (cycNs s (asker s) : Int)) * 65536 ∧
  s.host.changes.length < 64 :=
  ⟨nodes0, 0, .both, 2, 1000, false, false, 1000, BitVec.ofNat 32 (R.LAW_NODE + 4), [0x40000000#32], by
    decide +kernel⟩
theorem witness_ChangeCommandsComplete_modify : ∃ (s : State) (h : Fin 4) (tg : Target) (y : Byte) (v : W32) (z x :
  Bool) (n : Int) (a m d : W32), leader s ≠ none ∧ writeTarget y.toNat = some tg ∧ confirmOf [⟨a, m, d⟩] = none ∧
  [⟨a, m, d⟩].all (fun e => mayWrite (say (hostCnt s R.HST_H_COMMANDS h.val) Rc.OK) h.val e && inBlocks e.addr.toNat
  && !(safetyParam e.addr.toNat)) = true ∧ (runEntries tg h.val (say (hostCnt s R.HST_H_COMMANDS h.val) Rc.OK) true
  [⟨a, m, d⟩] (say (hostCnt s R.HST_H_COMMANDS h.val) Rc.OK)).2 = none ∧ (if z then (firstCycle s : Int) else
  namedCycle s v) = n ∧ 0 ≤ n ∧ devTime s (asker s) + leadNs s * 65536 ≤ (originNs s (asker s) + n * (cycNs s (asker
  s) : Int)) * 65536 ∧ s.host.changes.length < 64 :=
  ⟨nodes0, 0, .both, 2, 1000, false, false, 1000, BitVec.ofNat 32 (R.LAW_NODE + 4), 0xFFFFFFFF#32, 0x40000000#32, by
    decide +kernel⟩
theorem witness_ChangeCommandsComplete_changeSet : ∃ (s : State) (h : Fin 4) (tg : Target) (y : Byte) (v : W32) (z x
  : Bool) (n : Int) (es : List Entry), leader s ≠ none ∧ writeTarget y.toNat = some tg ∧ es ≠ [] ∧ es.length ≤ 64 ∧
  confirmOf es = none ∧ es.all (fun e => mayWrite (say (hostCnt s R.HST_H_COMMANDS h.val) Rc.OK) h.val e && inBlocks
  e.addr.toNat && !(safetyParam e.addr.toNat)) = true ∧ (runEntries tg h.val (say (hostCnt s R.HST_H_COMMANDS h.val)
  Rc.OK) true es (say (hostCnt s R.HST_H_COMMANDS h.val) Rc.OK)).2 = none ∧ (if z then (firstCycle s : Int) else
  namedCycle s v) = n ∧ 0 ≤ n ∧ devTime s (asker s) + leadNs s * 65536 ≤ (originNs s (asker s) + n * (cycNs s (asker
  s) : Int)) * 65536 ∧ s.host.changes.length < 64 :=
  ⟨nodes0, 0, .both, 2, 1000, false, false, 1000, [⟨BitVec.ofNat 32 (R.LAW_NODE + 4), 0xFFFFFFFF#32, 0x40000000#32⟩],
    by decide +kernel⟩
theorem witness_ChangeCommandsComplete_changeAgreed : ∃ (s : State) (n : BitVec 16) (c : Change), findChange s
  n.toNat = some c ∧ c.agreed = false ∧ c.cmd.waitDev = false ∧ otherAgrees s = true :=
  ⟨change0 false, 7, change7 false, by decide +kernel⟩
theorem witness_ChangeCommandsComplete_changeDevelop : ∃ (s : State) (n : BitVec 16) (k : Fin 4096) (c : Change) (v :
  W32), RegsOk s ∧ findChange s n.toNat = some c ∧ earlierChanges s c = [] ∧ c.agreed = true ∧ c.replied = true ∧
  c.param = none ∧ c.target = .both ∧ c.entries = [⟨BitVec.ofNat 32 (R.LAW_NODE + 4 * k.val), 0xFFFFFFFF#32, v⟩] ∧
  writeTwins s .both ≠ [] ∧ (writeTwins s .both).all (fun t => ((graph s t).bind (fun g => g.nodes[k.val]?)).any (fun
  x => x.kind == 2)) = true ∧ F32.isNan v = false :=
  ⟨change0 true, 7, 1, change7 true, 0x40000000#32, regsOk_of (by decide +kernel), by decide +kernel⟩
theorem witness_ChangeCommandsComplete_changeDevelop2 : ∃ (s : State) (t : Twin) (n : BitVec 16) (c : Change) (x v :
  W32), RegsOk s ∧ findChange s n.toNat = some c ∧ earlierChanges s c = [] ∧ (c.agreed = true ∨ otherAgrees s =
  false) ∧ c.replied = true ∧ c.param = none ∧ c.entries = [⟨x, 0xFFFFFFFF#32, v⟩] ∧ x.toNat ∈ [R.ARR_INS_RAMP,
  R.ARR_INS_KEEP, R.ARR_DMG_A, R.ARR_S_VNOM, R.CELL_A_COND, R.CELL_TMAX, R.NEG_EXP_PRE, R.NEG_EXP_LEVEL,
  R.PWM_P_START_S, R.ADC_C_SCALE, R.NET_IP, R.NET_MASK, R.TIME_KP, R.STQ_Q_DEST_IP, R.TWN_CELL_TOL, R.DRV_VCH_HI,
  R.DRV_D_LS, R.DRV_ENC_OFS] ∧ (if c.target = .both then (findRow x.toNat).any (fun r => oneTwinWord r.base v) else
  (findRow x.toNat).any (fun r => agreedWrite s r x.toNat v)) = false ∧ t ∈ writeTwins s c.target ∧ (writeTwins s
  c.target).all (fun t => !(absent s t)) = true ∧ twinsCode (writeTwins s c.target) (fun t => (findRow x.toNat).elim
  0 (fun r => judge s t r x.toNat v)) = Rc.OK :=
  ⟨modHost (change0 true) (fun x =>
    { x with changes := [{ change7 true with entries := [⟨BitVec.ofNat 32 R.ARR_S_VNOM, 0xFFFFFFFF#32, 5#32⟩] }] }),
    .b, 7, { change7 true with entries := [⟨BitVec.ofNat 32 R.ARR_S_VNOM, 0xFFFFFFFF#32, 5#32⟩] }, BitVec.ofNat 32
    R.ARR_S_VNOM, 5, regsOk_of (by decide +kernel), by decide +kernel⟩
theorem witness_ChangeCommandsComplete_changeDevelop3 : ∃ (s : State) (t : Twin) (n : BitVec 16) (c : Change) (x m v
  : W32) (h : Fin 4), RegsOk s ∧ twState s t ≠ tsReset ∧ findChange s n.toNat = some c ∧ earlierChanges s c = [] ∧
  (c.agreed = true ∨ otherAgrees s = false) ∧ c.replied = true ∧ c.param = none ∧ c.cmd.ctx = h.val ∧ c.entries =
  [⟨x, m, v⟩] ∧ inBlocks x.toNat = false ∧ findRow x.toNat = none :=
  ⟨modHost (change0 true) (fun x =>
    { x with changes := [{ change7 true with entries := [⟨0x01A00000#32, 0xFFFFFFFF#32, 5#32⟩] }] }), .b, 7,
    { change7 true with entries := [⟨0x01A00000#32, 0xFFFFFFFF#32, 5#32⟩] }, 0x01A00000#32, 0xFFFFFFFF#32, 5, 0,
    regsOk_of (by decide +kernel), by decide +kernel⟩
theorem witness_ChangeCommandsComplete_changeDevelop4 : ∃ (s : State) (n : BitVec 16) (c : Change), findChange s
  n.toNat = some c ∧ c.agreed = false ∧ otherAgrees s = true :=
  ⟨change0 false, 7, change7 false, by decide +kernel⟩
theorem witness_ChangeCommandsComplete_cancelChange : ∃ (s : State) (h : Fin 4) (n : BitVec 16) (c : Change), leader
  s ≠ none ∧ findChange s n.toNat = some c ∧ c.cmd.ctx = h.val ∧ devTime s (asker s) < (c.due - leadNs s) * 65536 :=
  ⟨change0 false, 0, 7, change7 false, by decide +kernel⟩
theorem witness_OwnershipCommandsComplete_take : ∃ (s : State) (h : Fin 4) (y x : Byte), RegsOk s ∧ leader s ≠ none ∧
  (List.range 5).all (fun g => !(nbit y.toNat g) || (groupOwner s g).isNone || groupOwner s g == some h.val) = true
  :=
  ⟨wf (wf host0 .a ⟨R.HST_OWNER, 5, 3⟩ 7) .b ⟨R.HST_OWNER, 5, 3⟩ 7, 2, 2, 0, regsOk_of (by decide +kernel), by
    decide +kernel⟩
theorem witness_OwnershipCommandsComplete_take2 : ∃ (s : State) (h : Fin 4) (y x : Byte) (g : Fin 5) (k : Nat),
  RegsOk s ∧ leader s ≠ none ∧ nbit y.toNat g.val = true ∧ groupOwner s g.val = some k ∧ k ≠ h.val ∧ x ≠ 1 :=
  ⟨host0, 2, 2, 0, 1, 0, regsOk_of (by decide +kernel), by decide +kernel⟩
theorem witness_OwnershipCommandsComplete_take3 : ∃ (s : State) (h : Fin 4) (y : Byte) (g : Fin 5) (k : Fin 4),
  RegsOk s ∧ leader s ≠ none ∧ nbit y.toNat g.val = true ∧ groupOwner s g.val = some k.val ∧ k ≠ h ∧ rf s (asker s)
  (hf R.HST_H_CFG_RANK h.val) < rf s (asker s) (hf R.HST_H_CFG_RANK k.val) :=
  ⟨onBoth (fun s t => wf s t (hf R.HST_H_CFG_RANK 0) 3) host0, 2, 2, 1, 0, regsOk_of (by decide +kernel), by
    decide +kernel⟩
theorem witness_OwnershipCommandsComplete_release : ∃ (s : State) (h : Fin 4) (y : Byte), RegsOk s ∧ leader s ≠ none
  :=
  ⟨host0, 0, 3, regsOk_of (by decide +kernel), by decide +kernel⟩
theorem witness_OwnershipCommandsComplete_leaseLapse : ∃ (s : State) (h : Fin 4), RegsOk s ∧ leader s ≠ none :=
  ⟨host0, 0, regsOk_of (by decide +kernel), by decide +kernel⟩
theorem witness_FlashCommandsComplete_keyRoll : ∃ (s : State) (h : Fin 4) (y : BitVec 128) (t : Twin), RegsOk s ∧
  leader s = some t ∧ flashReady s = true ∧ leaveFree s t 5 (8 + h.val) = true :=
  ⟨host0, 0, 5, .a, regsOk_of (by decide +kernel), by decide +kernel⟩
theorem witness_FlashCommandsComplete_keyRoll2 : ∃ (s : State) (h : Fin 4) (y : BitVec 128) (t : Twin) (x : Bool),
  RegsOk s ∧ leader s = some t ∧ (x = false ∨ flashReady s = false) ∧ leaveFree s t 5 (8 + h.val) = true :=
  ⟨host0, 0, 5, .a, false, regsOk_of (by decide +kernel), by decide +kernel⟩
theorem witness_FlashCommandsComplete_keyRollGraceEnd : ∃ (s : State) (h : Fin 4), TabsOk s :=
  ⟨host0, 0, tabsOk_of (by decide +kernel)⟩
theorem witness_FlashCommandsComplete_flashOpen : ∃ (s : State) (h : Fin 4) (t : Twin) (y x : Byte) (v : W32), RegsOk
  s ∧ leader s ≠ none ∧ y.toNat = t.index ∧ x.toNat ≤ 3 ∧ v.toNat ≤ slotSize x.toNat ∧ ownsAll s h.val (typeGroups
  x.toNat) = true ∧ twState s t ≠ tsReset ∧ (s.tw t).flash.session = none ∧ leaveFree s t 5 0 = true :=
  ⟨host0, 0, .b, 1, 3, 100, regsOk_of (by decide +kernel), by decide +kernel⟩
theorem witness_FlashCommandsComplete_flashWrite : ∃ (s : State) (h : Fin 4) (t : Twin) (z : BitVec 16) (v : W32) (d
  : List Byte) (k : Nat), leader s ≠ none ∧ sessionTwin s z.toNat = some t ∧ ownsAll s h.val (typeGroups (s.tw
  t).flash.sessType) = true ∧ d.length = 4 * k ∧ 0 < k ∧ k ≤ 256 ∧ v.toNat % 4 = 0 ∧ v.toNat < (s.tw t).flash.sessLen
  ∧ v.toNat + d.length ≤ ((s.tw t).flash.sessLen + 3) / 4 * 4 ∧ (s.tw t).flash.sessGranted = true :=
  ⟨sess0 [], 0, .b, 3, 4, [1, 2, 3, 4], 1, by decide +kernel⟩
theorem witness_FlashCommandsComplete_flashWrite2 : ∃ (s : State) (h : Fin 4) (t : Twin) (z : BitVec 16) (v : W32) (d
  : List Byte), leader s ≠ none ∧ sessionTwin s z.toNat = some t ∧ ownsAll s h.val (typeGroups (s.tw
  t).flash.sessType) = true ∧ d.length = 4 ∧ v.toNat % 4 = 0 ∧ v.toNat + 4 ≤ (s.tw t).flash.sessLen ∧ (s.tw
  t).flash.sessGranted = false :=
  ⟨modFlash (sess0 []) .b (fun f => { f with sessGranted := false }), 0, .b, 3, 4, [1, 2, 3, 4], by decide +kernel⟩
theorem witness_FlashCommandsComplete_flashClose : ∃ (s : State) (h : Fin 4) (t : Twin) (z : BitVec 16) (p : List
  Byte), leader s ≠ none ∧ sessionTwin s z.toNat = some t ∧ ownsAll s h.val (typeGroups (s.tw t).flash.sessType) =
  true ∧ sessionImage (s.tw t).flash = some p ∧ p ≠ [] :=
  ⟨sess0 [(0, some 1#32), (1, some 2#32)], 0, .b, 3, [0, 0, 0, 1, 0, 0, 0, 2], by decide +kernel⟩
theorem witness_FlashCommandsComplete_flashAbort : ∃ (s : State) (h : Fin 4) (t : Twin) (z : BitVec 16), leader s ≠
  none ∧ sessionTwin s z.toNat = some t ∧ ownsAll s h.val (typeGroups (s.tw t).flash.sessType) = true :=
  ⟨sess0 [], 0, .b, 3, by decide +kernel⟩
theorem witness_FlashCommandsComplete_flashSessionTimeout : ∃ (s : State) (t : Twin), (s.tw t).flash.session ≠ none
  :=
  ⟨sess0 [], .b, by decide +kernel⟩
theorem witness_FlashCommandsComplete_update : ∃ (s : State) (h : Fin 4) (t : Twin), RegsOk s ∧ leader s = some t ∧
  groupOwner s 4 = some h.val ∧ twState s t.other = tsFollowing ∧ (s.tw t.other).flash.verified ≠ 0 :=
  ⟨modFlash host0 .b (fun f => { f with verified := 8 }), 0, .a, regsOk_of (by decide +kernel), by decide +kernel⟩
theorem witness_TraceCommandsComplete_streamRead : ∃ (s : State) (h : Fin 4) (t : Twin) (y x : Byte) (n : BitVec 16)
  (q : Fin 6), RegsOk s ∧ TabsOk s ∧ leader s ≠ none ∧ groupOwner s 3 = some h.val ∧ y.toNat = t.index ∧ x.toNat =
  q.val ∧ 0 < n.toNat ∧ n.toNat ≤ 80 ∧ absent s t = false ∧ rf s t (qf R.STQ_Q_CFG_EN q.val) = 1 ∧ rf s t (qf
  R.STQ_Q_CFG_SINK q.val) = 0 :=
  ⟨onBoth (fun s t => setQueue (wf s t (qf R.STQ_Q_CFG_EN 0) 1) t 0 { drain := List.replicate 50 (7#8, false) })
    host0, 0, .b, 1, 0, 2, 0, regsOk_of (by decide +kernel), tabsOk_of (by decide +kernel), by decide +kernel⟩
theorem witness_TraceCommandsComplete_streamFlush : ∃ (s : State) (h : Fin 4) (t : Twin) (y x : Byte) (q : Fin 6),
  RegsOk s ∧ TabsOk s ∧ leader s ≠ none ∧ groupOwner s 3 = some h.val ∧ y.toNat = t.index ∧ x.toNat = q.val ∧ absent
  s t = false :=
  ⟨onBoth (fun s t => setQueue (wf s t (qf R.STQ_Q_CFG_EN 0) 1) t 0
    { fill := List.replicate 5 (7#8, false), fillPos := 5 }) host0, 0, .b, 1, 0, 0, regsOk_of (by decide +kernel),
    tabsOk_of (by decide +kernel), by decide +kernel⟩
theorem witness_TraceCommandsComplete_negDump : ∃ (s : State) (h : Fin 4) (t : Twin) (y x : Byte) (e : Fin 4), RegsOk
  s ∧ leader s ≠ none ∧ groupOwner s 3 = some h.val ∧ y.toNat = t.index ∧ x.toNat = e.val ∧ absent s t = false ∧
  expSt s t e.val = 4 ∧ leaveFree s t 7 e.val = true :=
  ⟨onBoth (fun s t => wf s t (ef R.NEG_EXP_STATUS_STATE 0) 4) host0, 0, .b, 1, 0, 0, regsOk_of (by decide +kernel),
    by decide +kernel⟩
theorem witness_ResetAndRailCommandsComplete_vinRise : ∃ (s : State) (t : Twin), RegsOk s ∧ biti s .a
  R.PWR_STATUS_GOOD 0 = false :=
  ⟨State.reset, .b, regsOk_of (by decide +kernel), by decide +kernel⟩
theorem witness_ResetAndRailCommandsComplete_railsGood : ∃ (s : State) (t : Twin), RegsOk s ∧ biti s .a
  R.PWR_STATUS_GOOD 0 = true ∧ s.overTemp = false :=
  ⟨onBoth (fun s t => wf s t R.PWR_STATUS_GOOD 1) State.reset, .b, regsOk_of (by decide +kernel), by decide +kernel⟩
theorem witness_ResetAndRailCommandsComplete_railsGood2 : ∃ (s : State), (s.overTemp = true ∨ biti s .a
  R.PWR_STATUS_GOOD 0 = false) :=
  ⟨{ State.reset with overTemp := true }, by decide +kernel⟩
theorem witness_ResetAndRailCommandsComplete_xtalFail : ∃ (s : State) (t : Twin), RegsOk s ∧ twState s t = tsReset :=
  ⟨State.reset, .b, regsOk_of (by decide +kernel), by decide +kernel⟩
theorem witness_ResetAndRailCommandsComplete_brownOut : ∃ (s : State) (t : Twin), RegsOk s :=
  ⟨pair, .a, regsOk_of (by decide +kernel)⟩
theorem witness_ResetAndRailCommandsComplete_resetN : ∃ (s : State) (t : Twin), RegsOk s ∧ (rd s t
  R.SYS_RESETS).toNat < 4294967294 :=
  ⟨pair, .a, regsOk_of (by decide +kernel), by decide +kernel⟩
theorem witness_ResetAndRailCommandsComplete_overTemperature : ∃ (s : State) (t : Twin), RegsOk s ∧ s.overTemp =
  false :=
  ⟨pair, .a, regsOk_of (by decide +kernel), by decide +kernel⟩
theorem witness_ResetAndRailCommandsComplete_overTempRestart : ∃ (s : State) (t : Twin), RegsOk s ∧ s.overTemp = true
  :=
  ⟨{ State.reset with overTemp := true }, .a, regsOk_of (by decide +kernel), by decide +kernel⟩
theorem witness_ResetAndRailCommandsComplete_coreRailFault : ∃ (s : State) (t : Twin), RegsOk s ∧ (rd s t
  R.SYS_RESETS).toNat < 4294967294 :=
  ⟨pair, .b, regsOk_of (by decide +kernel), by decide +kernel⟩
theorem witness_ResetAndRailCommandsComplete_debugReset : ∃ (s : State) (t : Twin), RegsOk s ∧ (rd s t
  R.SYS_RESETS).toNat < 4294967294 ∧ s.lockedLife = false :=
  ⟨pair, .b, regsOk_of (by decide +kernel), by decide +kernel⟩
theorem witness_ResetAndRailCommandsComplete_debugReset2 : ∃ (s : State) (t : Twin), s.lockedLife = true :=
  ⟨{ pair with lockedLife := true }, .b, by decide +kernel⟩
theorem witness_ResetAndRailCommandsComplete_resetTwin : ∃ (s : State) (t : Twin), RegsOk s ∧ (rd s t
  R.SYS_RESETS).toNat < 4294967294 ∧ twState s t = tsWithdrawn :=
  ⟨setTwState pair .b tsWithdrawn, .b, regsOk_of (by decide +kernel), by decide +kernel⟩
theorem witness_ResetAndRailCommandsComplete_resetTwin2 : ∃ (s : State) (t : Twin), twState s t ≠ tsWithdrawn :=
  ⟨pair, .b, by decide +kernel⟩
theorem witness_ResetAndRailCommandsComplete_coreRailWindow : ∃ (s : State) (t : Twin), RegsOk s ∧ twState s t =
  tsFollowing :=
  ⟨pair, .b, regsOk_of (by decide +kernel), by decide +kernel⟩
theorem witness_ResetAndRailCommandsComplete_vioWindow : ∃ (s : State) (l : Twin), RegsOk s ∧ leader s = some l ∧
  twState s l.other = tsFollowing :=
  ⟨pair, .a, regsOk_of (by decide +kernel), by decide +kernel⟩
theorem witness_ResetAndRailCommandsComplete_mpWdt : ∃ (s : State) (t : Twin), RegsOk s ∧ twState s t ≠ tsReset :=
  ⟨pair, .a, regsOk_of (by decide +kernel), by decide +kernel⟩
theorem witness_ResetAndRailCommandsComplete_twinResetRelease : ∃ (s : State) (t : Twin) (x : BitVec 4), RegsOk s ∧
  twState s t = tsReset ∧ rf s t R.PWR_STATUS_GOOD = 255 ∧ (s.tw t).pwr.xtalFail = false :=
  ⟨onBoth (fun s t => wf s t R.PWR_STATUS_GOOD 255) State.reset, .a, 5, regsOk_of (by decide +kernel), by
    decide +kernel⟩
theorem witness_ResetAndRailCommandsComplete_pfail : ∃ (s : State) (t : Twin), RegsOk s ∧ twState s t ≠ tsReset :=
  ⟨sess0 [], .b, regsOk_of (by decide +kernel), by decide +kernel⟩
theorem witness_ClockCommandsComplete_vcoreLoop : ∃ (s : State) (t : Twin) (n x y : BitVec 16), RegsOk s ∧ twState s
  t ≠ tsReset ∧ n.toInt < 100 ∧ (s.tw t).pwr.bootDone = true ∧ (flag s t R.PWR_VCORE_MODE && flag s t
  R.SYS_STATUS_SAFELIGHT) = false :=
  ⟨modPwr (wf pair .a R.PWR_VCORE_SETPOINT 700) .a (fun p => { p with bootDone := true }), .a, 50, 5, 7, regsOk_of
    (by decide +kernel), by decide +kernel⟩
theorem witness_ClockCommandsComplete_vcoreLoop2 : ∃ (s : State) (t : Twin) (n x y : BitVec 16), RegsOk s ∧ twState s
  t ≠ tsReset ∧ 100 ≤ n.toInt ∧ n.toInt < rf s t R.PWR_SLACK_TGT ∧ (s.tw t).pwr.bootDone = true ∧ (flag s t
  R.PWR_VCORE_MODE && flag s t R.SYS_STATUS_SAFELIGHT) = false :=
  ⟨modPwr (wf pair .a R.PWR_VCORE_SETPOINT 700) .a (fun p => { p with bootDone := true }), .a, 120, 5, 7, regsOk_of
    (by decide +kernel), by decide +kernel⟩
theorem witness_ClockCommandsComplete_vcoreLoop3 : ∃ (s : State) (t : Twin) (n x y : BitVec 16), RegsOk s ∧ twState s
  t ≠ tsReset ∧ 100 ≤ n.toInt ∧ rf s t R.PWR_SLACK_TGT + 100 < n.toInt ∧ (s.tw t).pwr.downWait ≤ 1 ∧ (s.tw
  t).pwr.bootDone = true ∧ (flag s t R.PWR_VCORE_MODE && flag s t R.SYS_STATUS_SAFELIGHT) = false :=
  ⟨modPwr (wf pair .a R.PWR_VCORE_SETPOINT 700) .a (fun p => { p with bootDone := true }), .a, 900, 5, 7, regsOk_of
    (by decide +kernel), by decide +kernel⟩
theorem witness_ClockCommandsComplete_vcoreLoop4 : ∃ (s : State) (t : Twin) (n x y : BitVec 16), RegsOk s ∧ twState s
  t ≠ tsReset ∧ 100 ≤ n.toInt ∧ rf s t R.PWR_SLACK_TGT ≤ n.toInt ∧ n.toInt ≤ rf s t R.PWR_SLACK_TGT + 100 ∧ (s.tw
  t).pwr.bootDone = true ∧ (flag s t R.PWR_VCORE_MODE && flag s t R.SYS_STATUS_SAFELIGHT) = false :=
  ⟨modPwr (wf pair .a R.PWR_VCORE_SETPOINT 700) .a (fun p => { p with bootDone := true }), .a, 260, 5, 7, regsOk_of
    (by decide +kernel), by decide +kernel⟩
theorem witness_ClockCommandsComplete_vcoreLoop5 : ∃ (s : State) (t : Twin) (n x y : BitVec 16), RegsOk s ∧ twState s
  t ≠ tsReset ∧ (s.tw t).pwr.bootDone = false :=
  ⟨pair, .a, 50, 5, 7, regsOk_of (by decide +kernel), by decide +kernel⟩
theorem witness_ClockCommandsComplete_vcoreLoop6 : ∃ (s : State) (t : Twin) (n x y : BitVec 16), RegsOk s ∧ twState s
  t ≠ tsReset ∧ (s.tw t).pwr.bootDone = true ∧ flag s t R.PWR_VCORE_MODE = true ∧ flag s t R.SYS_STATUS_SAFELIGHT =
  true :=
  ⟨wf (wf (modPwr (wf pair .a R.PWR_VCORE_SETPOINT 700) .a (fun p => { p with bootDone := true })) .a
    R.PWR_VCORE_MODE 1) .a R.SYS_STATUS_SAFELIGHT 1, .a, 50, 5, 7, regsOk_of (by decide +kernel), by decide +kernel⟩
theorem witness_ClockCommandsComplete_slackError : ∃ (s : State) (t : Twin), RegsOk s ∧ twState s t = tsFollowing ∧
  rf s t R.PWR_VCORE_SETPOINT = 850 ∧ (BitVec.ofNat 16 (rf s t R.PWR_SLACK_SLACK)).toInt < 0 :=
  ⟨wf (wf pair .b R.PWR_VCORE_SETPOINT 850) .b R.PWR_SLACK_SLACK 65000, .b, regsOk_of (by decide +kernel), by
    decide +kernel⟩
theorem witness_ClockCommandsComplete_pllLockLoss : ∃ (s : State) (t : Twin) (k : Fin 6), RegsOk s ∧ twState s t ≠
  tsReset ∧ k ≠ 0 ∧ k ≠ 5 ∧ biti s t R.CLK_STATUS_LOCK k.val = true :=
  ⟨pair, .a, 4, regsOk_of (by decide +kernel), by decide +kernel⟩
theorem witness_ClockCommandsComplete_pllLockLoss2 : ∃ (s : State) (t : Twin), RegsOk s ∧ twState s t = tsFollowing ∧
  biti s t R.CLK_STATUS_LOCK 0 = true :=
  ⟨pair, .b, regsOk_of (by decide +kernel), by decide +kernel⟩
theorem witness_ClockCommandsComplete_pllLockLoss3 : ∃ (s : State) (t : Twin), RegsOk s ∧ twState s t = tsFollowing ∧
  biti s t R.CLK_STATUS_LOCK 0 = true :=
  ⟨pair, .b, regsOk_of (by decide +kernel), by decide +kernel⟩
theorem witness_ClockCommandsComplete_pllLockLoss4 : ∃ (s : State) (t : Twin), RegsOk s ∧ twState s t ≠ tsReset ∧
  biti s t R.CLK_STATUS_LOCK 0 = false :=
  ⟨wf pair .b R.CLK_STATUS_LOCK 30, .b, regsOk_of (by decide +kernel), by decide +kernel⟩
theorem witness_ClockCommandsComplete_pllRelock : ∃ (s : State) (t : Twin) (k : Fin 5), RegsOk s ∧ twState s t ≠
  tsReset :=
  ⟨wf pair .a R.CLK_STATUS_LOCK 3, .a, 4, regsOk_of (by decide +kernel), by decide +kernel⟩
theorem witness_ClockCommandsComplete_rampStart : ∃ (s : State) (t : Twin), RegsOk s ∧ rampValid s t = true ∧
  leaveFree s t 6 0 = true :=
  ⟨ramp0, .a, regsOk_of (by decide +kernel), by decide +kernel⟩
theorem witness_ClockCommandsComplete_rampStart2 : ∃ (s : State) (t : Twin), rampValid s t = false :=
  ⟨wf pair .a R.CLK_RAMP_CTRL_NPTS 0, .a, by decide +kernel⟩
theorem witness_ClockCommandsComplete_rampAbort : ∃ (s : State) (t : Twin) (n : BitVec 4), RegsOk s ∧ 1 ≤ n.toNat ∧
  n.toNat ≤ 8 ∧ flag s t R.CLK_STATUS_RAMPING = true :=
  ⟨modPwr (wf ramp0 .a R.CLK_STATUS_RAMPING 1) .a (fun p =>
    { p with rampFrom := 100000, rampPts := [(200, 10, 0)] }), .a, 3, regsOk_of (by decide +kernel), by
    decide +kernel⟩
theorem witness_ClockCommandsComplete_rampAbort2 : ∃ (s : State) (t : Twin) (n : BitVec 4), 1 ≤ n.toNat ∧ n.toNat ≤ 8
  ∧ flag s t R.CLK_STATUS_RAMPING = false :=
  ⟨pair, .a, 3, by decide +kernel⟩
theorem witness_ClockCommandsComplete_rampAbort3 : ∃ (s : State) (t : Twin) (n : BitVec 4), n.toNat = 0 :=
  ⟨pair, .a, 0, by decide +kernel⟩
theorem witness_ClockCommandsComplete_rampAbort4 : ∃ (s : State) (t : Twin) (n : BitVec 4), 8 < n.toNat :=
  ⟨pair, .a, 9, by decide +kernel⟩
theorem witness_ClockCommandsComplete_rampEnd : ∃ (s : State) (t : Twin) (x : Nat) (y : Nat × Nat) (l : List (Nat ×
  Nat × Nat)), RegsOk s ∧ flag s t R.CLK_STATUS_RAMPING = true ∧ (s.tw t).pwr.rampPts = l ++ [(x, y)] :=
  ⟨modPwr (wf ramp0 .a R.CLK_STATUS_RAMPING 1) .a (fun p =>
    { p with rampFrom := 100000, rampPts := [(200, 10, 0)] }), .a, 200, (10, 0), [], regsOk_of (by decide +kernel),
    by decide +kernel⟩
theorem witness_LeaveCommandsComplete_sluiceGrant : ∃ (s : State) (t : Twin) (r : LeaveReq) (l : List LeaveReq),
  sameLedger s t s.sluice.queue = r :: l ∧ headFits s t = true ∧ s.pfail = false ∧ (r.op = 1 ∨ r.op = 3 ∨ r.op = 4 ∨
  r.op = 6 ∨ (r.op = 5 ∧ r.arg = 0) ∨ (r.op = 7 ∧ expSt s r.twin r.arg = 4)) :=
  ⟨{ host0 with sluice := { queue := [⟨6, 350, .b, true, 0, true⟩, ⟨1, 1400, .a, true, 0, false⟩] } }, .a, ⟨6, 350,
    .b, true, 0, true⟩, [⟨1, 1400, .a, true, 0, false⟩], by decide +kernel⟩
theorem witness_LeaveCommandsComplete_sluiceGrant2 : ∃ (s : State) (t : Twin) (r : LeaveReq) (l : List LeaveReq),
  sameLedger s t s.sluice.queue = r :: l ∧ headFits s t = true ∧ s.pfail = false ∧ (r.op = 0 ∨ r.op = 2 ∨ (r.op = 5 ∧
  (r.arg = 2 ∨ r.arg = 4))) :=
  ⟨{ host0 with sluice := { queue := [⟨5, 250, .b, true, 4, true⟩, ⟨1, 1400, .a, true, 0, false⟩] } }, .a, ⟨5, 250,
    .b, true, 4, true⟩, [⟨1, 1400, .a, true, 0, false⟩], by decide +kernel⟩
theorem witness_LeaveCommandsComplete_sluiceGrant3 : ∃ (s : State) (t : Twin) (r : LeaveReq) (l : List LeaveReq),
  RegsOk s ∧ sameLedger s t s.sluice.queue = r :: l ∧ headFits s t = true ∧ s.pfail = false ∧ s.host.waits.find? (fun
  w => w.op == r.op && w.twin == r.twin && w.arg == r.arg) = none :=
  ⟨{ host0 with sluice := { queue := [⟨6, 350, .a, true, 0, true⟩] } }, .a, ⟨6, 350, .a, true, 0, true⟩, [],
    regsOk_of (by decide +kernel), by decide +kernel⟩
theorem witness_LeaveCommandsComplete_sluiceGrant4 : ∃ (s : State) (t : Twin), (headFits s t = false ∨ s.pfail =
  true) :=
  ⟨pair, .a, by decide +kernel⟩
theorem witness_LeaveCommandsComplete_sluiceRelease : ∃ (s : State) (t : Twin) (o : Fin 8) (r : LeaveReq), RegsOk s ∧
  s.sluice.held.find? (fun q => q.op == o.val && q.twin == t) = some r :=
  ⟨{ host0 with sluice := { held := [⟨6, 350, .a, true, 0, true⟩] } }, .a, 6, ⟨6, 350, .a, true, 0, true⟩, regsOk_of
    (by decide +kernel), by decide +kernel⟩
theorem witness_LeaveCommandsComplete_leaveWait : ∃ (s : State) (t : Twin) (o : Fin 8), RegsOk s ∧ leaveWaits s o.val
  t = true ∧ s.host.waits = [] ∧ (rd s t R.PWR_WAITS).toNat < 4294967294 :=
  ⟨{ host0 with sluice := { queue := [⟨6, 350, .a, true, 0, false⟩] } }, .a, 6, regsOk_of (by decide +kernel), by
    decide +kernel⟩
theorem witness_LeaveCommandsComplete_leaveWait2 : ∃ (s : State) (t : Twin) (o : Fin 8), leaveWaits s o.val t = true
  :=
  ⟨{ host0 with sluice := { queue := [⟨6, 350, .a, true, 0, false⟩] }, host := { host0.host with waits := [⟨6, .a, 0, nop0, [], false, true⟩] } },
    .a, 6, by decide +kernel⟩
theorem witness_LeaveCommandsComplete_leaveWait3 : ∃ (s : State) (t : Twin) (o : Fin 8), leaveWaits s o.val t = false
  ∧ (s.host.waits.filter (fun w => w.op == o.val && w.twin == t && !w.replied)) = [] :=
  ⟨pair, .a, 6, by decide +kernel⟩
theorem witness_LeaveCommandsComplete_sluTimeout : ∃ (s : State) (t : Twin) (o : Fin 8) (r : LeaveReq), RegsOk s ∧
  s.sluice.queue.find? (fun q => q.op == o.val && q.twin == t && q.host) = some r ∧ (rd s t R.PWR_TIMEOUTS).toNat <
  4294967294 :=
  ⟨{ host0 with sluice := { queue := [⟨6, 350, .a, true, 0, false⟩] } }, .a, 6, ⟨6, 350, .a, true, 0, false⟩,
    regsOk_of (by decide +kernel), by decide +kernel⟩
theorem witness_LeaveCommandsComplete_sluTimeout2 : ∃ (s : State) (t : Twin) (o : Fin 8), s.sluice.queue.find? (fun q
  => q.op == o.val && q.twin == t && q.host) = none :=
  ⟨pair, .a, 6, by decide +kernel⟩
theorem witness_LifecycleAndSafelightCommandsComplete_ratchet : ∃ (s : State) (t : Twin) (x : BitVec 4) (k : Fin 4),
  RegsOk s ∧ x = BitVec.ofNat 4 (2 ^ k.val) ∧ ratchetCheck s k.val = Rc.OK ∧ ratchetMoves s t k.val = true :=
  ⟨onBoth (fun s t => wr (wr s t (R.SYS_VERSION + 4) 5) t R.SYS_ADV_LEFT 0x04040404#32) pair, .a, 2, 1, regsOk_of (by
    decide +kernel), by decide +kernel⟩
theorem witness_LifecycleAndSafelightCommandsComplete_ratchet2 : ∃ (s : State) (x : BitVec 4) (k : Fin 4), x =
  BitVec.ofNat 4 (2 ^ k.val) ∧ ratchetCheck s k.val ≠ Rc.OK :=
  ⟨wr pair .a (R.SYS_VERSION + 4) 5, 2, 1, by decide +kernel⟩
theorem witness_LifecycleAndSafelightCommandsComplete_keyRevoke : ∃ (s : State) (t : Twin) (x y : BitVec 4), RegsOk s
  ∧ (rf s t R.SYS_KEYREV_OWNER ||| x.toNat ≠ 15 ∨ x = 0) ∧ (rf s t R.SYS_KEYREV_BEYLOS ||| y.toNat ≠ 15 ∨ y = 0) :=
  ⟨pair, .a, 1, 2, regsOk_of (by decide +kernel), by decide +kernel⟩
theorem witness_LifecycleAndSafelightCommandsComplete_keyRevoke2 : ∃ (s : State) (t : Twin) (x y : BitVec 4), ((rf s
  t R.SYS_KEYREV_OWNER ||| x.toNat = 15 ∧ x ≠ 0) ∨ (rf s t R.SYS_KEYREV_BEYLOS ||| y.toNat = 15 ∧ y ≠ 0)) :=
  ⟨pair, .a, 15, 0, by decide +kernel⟩
theorem witness_LifecycleAndSafelightCommandsComplete_lifecycleLock : ∃ (s : State) (t : Twin), RegsOk s :=
  ⟨pair, .a, regsOk_of (by decide +kernel)⟩
theorem witness_LifecycleAndSafelightCommandsComplete_lifecycleLock2 : ∃ (s : State) (w : W32), w ≠ 0x4C4F434B#32 :=
  ⟨pair, 1, by decide +kernel⟩
theorem witness_LifecycleAndSafelightCommandsComplete_debugKeyInstall : ∃ (s : State) (t : Twin) (h : Fin 4) (v :
  BitVec 384), s.lockedLife = false :=
  ⟨pair, .a, 1, 7, by decide +kernel⟩
theorem witness_LifecycleAndSafelightCommandsComplete_debugKeyInstall2 : ∃ (s : State) (x : Bool) (h : Fin 4) (v :
  BitVec 384), s.lockedLife = true :=
  ⟨{ pair with lockedLife := true }, true, 0, 7, by decide +kernel⟩
theorem witness_LifecycleAndSafelightCommandsComplete_safelightEnter : ∃ (s : State) (t : Twin), RegsOk s ∧ leader s
  ≠ none ∧ safelight s = false ∧ safelightRefused s = false ∧ computing s t = true :=
  ⟨pair, .a, regsOk_of (by decide +kernel), by decide +kernel⟩
theorem witness_LifecycleAndSafelightCommandsComplete_safelightEnter2 : ∃ (s : State), safelight s = false ∧
  safelightRefused s = true :=
  ⟨arr0, by decide +kernel⟩
theorem witness_LifecycleAndSafelightCommandsComplete_safelightExit : ∃ (s : State) (t : Twin), RegsOk s ∧ leader s ≠
  none ∧ safelight s = true ∧ computing s t = true :=
  ⟨onBoth (fun s t => wf (wf s t R.SYS_STATUS_SAFELIGHT 1) t R.SYS_CTRL_SAFELIGHT 1) pair, .a, regsOk_of (by
    decide +kernel), by decide +kernel⟩

/-! Worked values of the spec and check values of the published standards it names. -/

/-- R4's worked example: the event lies 512 units ahead. -/
theorem test_time_difference : tribDiff 0x0000000100 0xFFFFFFFF00 = 512 := by decide

/-- R5: beyond half the range an event reads as past. -/
theorem test_time_past : tribDiff 0x8000000000 0 = -549755813888 := by decide

/-- R10: 256 ahead is accepted, 257 is outside the window, 0 is a duplicate. -/
theorem test_sequence_window :
    [seqJudge (some 65535) 255, seqJudge (some 65535) 256, seqJudge (some 7) 7, seqJudge none 9] = [1, 2, 0, 1] := by decide

/-- R54's worked example: rank 1 of 30 cells lies 266 666 units after rank 0. -/
theorem test_carrier_phase : Modulator.phase 1 30 16000000 0 = 266666 := by decide

/-- R55's worked example: for m = 0.3 leg A turns off 5 199 999 units after the valley, leg B 2 800 000. -/
theorem test_carrier_edges :
    (Modulator.valleyEdges ⟨16000000, 0, 0, 160000, 0, 0⟩ ((8388608 + 2516582) * 16000000 / 33554432)
      ((8388608 - 2516582) * 16000000 / 33554432) 0).map (·.t) = [5199999, 10800001, 2800000, 13200000] := by decide

/-- The check value of CRC-16 with 0x1021 and start 0xFFFF. -/
theorem test_crc16 : crc16 [49#8, 50#8, 51#8, 52#8, 53#8, 54#8, 55#8, 56#8, 57#8] = 0x29B1 := by decide +kernel

/-- The check value of CRC-32C. -/
theorem test_crc32c : crc32c [49#8, 50#8, 51#8, 52#8, 53#8, 54#8, 55#8, 56#8, 57#8] = 0xE3069283 := by decide +kernel

/-- FIPS 180's example: the first word of SHA-256 of "abc". -/
theorem test_sha256 : (sha256 [97#8, 98#8, 99#8]).take 4 = [0xBA#8, 0x78#8, 0x16#8, 0xBF#8] := by decide +kernel

/-- FIPS 180's example: the first word of SHA-384 of "abc". -/
theorem test_sha384 : (sha384 [97#8, 98#8, 99#8]).take 4 = [0xCB#8, 0x00#8, 0x75#8, 0x3F#8] := by decide +kernel

/-- 0.1 + 0.2 in binary32, rounded to nearest even. -/
theorem test_binary32_add : F32.add 0x3DCCCCCD#32 0x3E4CCCCD#32 = 0x3E99999A#32 := by decide +kernel

/-- 1 ÷ 3 and the square root of 2 in binary32. -/
theorem test_binary32_div_sqrt : (F32.div 0x3F800000#32 0x40400000#32, F32.sqrt 0x40000000#32) =
    (0x3EAAAAAB#32, 0x3FB504F3#32) := by decide +kernel

/-- R443's table: the costs of lane training and of a full self-test at reset, the same in both twins. -/
theorem test_reset_reads : [rd State.reset .a 0x10130, rd State.reset .b 0x10134] = [1200#32, 1400#32] := by decide +kernel

end Sys2Proof.Tests
end

/-! What every command keeps, and the canonical form of the register maps (O4). -/

namespace Sys2Proof.Machine

/-! The parts that a command can change, part by part. -/

theorem forall_mem_ofTwin {t : Twin} {l : List TwinField} {Q : Part → Prop} :
    (∀ p ∈ ofTwin t l, Q p) ↔ ∀ f ∈ l, Q (.tw t f) := by
  simp [ofTwin]

theorem forall_mem_ofBoth {l : List TwinField} {Q : Part → Prop} :
    (∀ p ∈ ofBoth l, Q p) ↔ ∀ f ∈ l, ∀ t, Q (.tw t f) := by
  simp only [ofBoth, List.forall_mem_append, forall_mem_ofTwin, ← forall_and]
  exact forall₂_congr fun f _ => ⟨fun h t => by cases t; exacts [h.1, h.2], fun h => ⟨h .a, h .b⟩⟩

/-- Every command keeps what `Keeps` names, with every part as it was that `partsOf` does not give it: the case of a command
is the law of its meaning, whose side conditions are the parts it works on. -/
theorem exec_keeps {P : Part → Prop} (c : Instr) (s : State) (h : ∀ p ∈ partsOf c, ¬ P p) :
    OutKeeps P s (exec c s) := by
  have hk := Keeps.refl P s
  cases c
  all_goals simp only [partsOf, allFields, List.forall_mem_append, List.forall_mem_cons, forall_mem_ofTwin,
    forall_mem_ofBoth] at h
  case' rcRead => apply execRcRead_keeps hk
  case' registerWrite => apply execRegisterWrite_keeps hk
  case' interlockGrant => apply execInterlockGrant_keeps hk
  case' sharedPinSwitch => apply execSharedPinSwitch_keeps hk
  case' interlockRelease => apply execInterlockRelease_keeps hk
  case' linkWordReceive => apply execLinkWordReceive_keeps hk
  case' linkHandshakeTimeout => apply execLinkHandshakeTimeout_keeps hk
  case' crossingTransfer => apply execCrossingTransfer_keeps hk
  case' domainWake => apply execDomainWake_keeps hk
  case' crossingSideReset => apply execCrossingSideReset_keeps hk
  case' crossingRehandshake => apply execCrossingRehandshake_keeps hk
  case' cycleStart => apply execCycleStart_keeps hk
  case' agreementClose => apply execAgreementClose_keeps hk
  case' rg0RunComplete => apply execRg0RunComplete_keeps hk
  case' digestCompare => apply execDigestCompare_keeps hk
  case' dispatchDeadline => apply execDispatchDeadline_keeps hk
  case' lawEngineFail => apply execLawEngineFail_keeps hk
  case' arrayEnable => apply execArrayEnable_keeps hk
  case' arrayFirstFrame => apply execArrayFirstFrame_keeps hk
  case' arrayStop => apply execArrayStop_keeps hk
  case' mapEntryWrite => apply execMapEntryWrite_keeps hk
  case' carrierRotation => apply execCarrierRotation_keeps hk
  case' thermalUpdate => apply execThermalUpdate_keeps hk
  case' weightUpdate => apply execWeightUpdate_keeps hk
  case' wearRecordSave => apply execWearRecordSave_keeps hk
  case' estimatorResult => apply execEstimatorResult_keeps hk
  case' imbalanceDetected => apply execImbalanceDetected_keeps hk
  case' cellLostDetected => apply execCellLostDetected_keeps hk
  case' cellBypass => apply execCellBypass_keeps hk
  case' bypassUnconfirmed => apply execBypassUnconfirmed_keeps hk
  case' cellInsert => apply execCellInsert_keeps hk
  case' spareInsertStart => apply execSpareInsertStart_keeps hk
  case' insertTimeout => apply execInsertTimeout_keeps hk
  case' cellReadmit => apply execCellReadmit_keeps hk
  case' ringRxSync => apply execRingRxSync_keeps hk
  case' ringStartTimeout => apply execRingStartTimeout_keeps hk
  case' ringRetry => apply execRingRetry_keeps hk
  case' restart => apply execRestart_keeps hk
  case' probeNow => apply execProbeNow_keeps hk
  case' frameReturn => apply execFrameReturn_keeps hk
  case' returnDeadline => apply execReturnDeadline_keeps hk
  case' wrappedFrameRelay => apply execWrappedFrameRelay_keeps hk
  case' probeCycle => apply execProbeCycle_keeps hk
  case' probeStale => apply execProbeStale_keeps hk
  case' delayExchange => apply execDelayExchange_keeps hk
  case' cellFrameForward => apply execCellFrameForward_keeps hk
  case' cellCopyJudge => apply execCellCopyJudge_keeps hk
  case' cellAcceptanceDeadline => apply execCellAcceptanceDeadline_keeps hk
  case' cellWindowApply => apply execCellWindowApply_keeps hk
  case' cellEventExecute => apply execCellEventExecute_keeps hk
  case' cellBypassTimeout => apply execCellBypassTimeout_keeps hk
  case' cellSyncAcquired => apply execCellSyncAcquired_keeps hk
  case' cellSyncLost => apply execCellSyncLost_keeps hk
  case' cellEidleEntry => apply execCellEidleEntry_keeps hk
  case' cellTimeLockClear => apply execCellTimeLockClear_keeps hk
  case' cellEidleExit => apply execCellEidleExit_keeps hk
  case' cellSideDown => apply execCellSideDown_keeps hk
  case' cellSideUp => apply execCellSideUp_keeps hk
  case' linkDownNotice => apply execLinkDownNotice_keeps hk
  case' cellLosIdle => apply execCellLosIdle_keeps hk
  case' cellHardwareBypass => apply execCellHardwareBypass_keeps hk
  case' heartbeatSend => apply execHeartbeatSend_keeps hk
  case' heartbeatReceive => apply execHeartbeatReceive_keeps hk
  case' otherLost => apply execOtherLost_keeps hk
  case' keepaliveSend => apply execKeepaliveSend_keeps hk
  case' keepaliveLapse => apply execKeepaliveLapse_keeps hk
  case' arbiterUnreachable => apply execArbiterUnreachable_keeps hk
  case' isolate => apply execIsolate_keeps hk
  case' isolatedRejoin => apply execIsolatedRejoin_keeps hk
  case' fastSelftestComplete => apply execFastSelftestComplete_keeps hk
  case' withdraw => apply execWithdraw_keeps hk
  case' rejoin => apply execRejoin_keeps hk
  case' autoRejoin => apply execAutoRejoin_keeps hk
  case' fullSelftestComplete => apply execFullSelftestComplete_keeps hk
  case' dieOvertemp => apply execDieOvertemp_keeps hk
  case' handoverName => apply execHandoverName_keeps hk
  case' handover => apply execHandover_keeps hk
  case' handoverPostpone => apply execHandoverPostpone_keeps hk
  case' rotationDue => apply execRotationDue_keeps hk
  case' rotateNow => apply execRotateNow_keeps hk
  case' backgroundSelftestSlice => apply execBackgroundSelftestSlice_keeps hk
  case' joinComplete => apply execJoinComplete_keeps hk
  case' joinTimeout => apply execJoinTimeout_keeps hk
  case' joinRetry => apply execJoinRetry_keeps hk
  case' soakEnd => apply execSoakEnd_keeps hk
  case' contactSheetRefresh => apply execContactSheetRefresh_keeps hk
  case' snap => apply execSnap_keeps hk
  case' rgTrigger => apply execRgTrigger_keeps hk
  case' rgRunStart => apply execRgRunStart_keeps hk
  case' rgRunComplete => apply execRgRunComplete_keeps hk
  case' rgDeadline => apply execRgDeadline_keeps hk
  case' load => apply execLoad_keeps hk
  case' coefWrite => apply execCoefWrite_keeps hk
  case' swap => apply execSwap_keeps hk
  case' swapDevelop => apply execSwapDevelop_keeps hk
  case' handoverForced => apply execHandoverForced_keeps hk
  case' negArm => apply execNegArm_keeps hk
  case' negFix => apply execNegFix_keeps hk
  case' negDisarm => apply execNegDisarm_keeps hk
  case' negRowWrite => apply execNegRowWrite_keeps hk
  case' negEventFix => apply execNegEventFix_keeps hk
  case' negRemoteFix => apply execNegRemoteFix_keeps hk
  case' sequencerOutputApply => apply execSequencerOutputApply_keeps hk
  case' driveEnable => apply execDriveEnable_keeps hk
  case' channelRun => apply execChannelRun_keeps hk
  case' xoHoldEnd => apply execXoHoldEnd_keeps hk
  case' catchMeasureEnd => apply execCatchMeasureEnd_keeps hk
  case' polarityTest => apply execPolarityTest_keeps hk
  case' catchRetry => apply execCatchRetry_keeps hk
  case' observerLoss => apply execObserverLoss_keeps hk
  case' ascExit => apply execAscExit_keeps hk
  case' tmonCmd => apply execTmonCmd_keeps hk
  case' tmonEst => apply execTmonEst_keeps hk
  case' discharge => apply execDischarge_keeps hk
  case' dischargeStart => apply execDischargeStart_keeps hk
  case' disRefused => apply execDisRefused_keeps hk
  case' disStuck => apply execDisStuck_keeps hk
  case' disDone => apply execDisDone_keeps hk
  case' disFail => apply execDisFail_keeps hk
  case' dischargeEnd => apply execDischargeEnd_keeps hk
  case' chopperFail => apply execChopperFail_keeps hk
  case' stage2 => apply execStage2_keeps hk
  case' spillTrip => apply execSpillTrip_keeps hk
  case' spillwayExit => apply execSpillwayExit_keeps hk
  case' clear => apply execClear_keeps hk
  case' encoderCount => apply execEncoderCount_keeps hk
  case' encoderIndex => apply execEncoderIndex_keeps hk
  case' hallChange => apply execHallChange_keeps hk
  case' pwmStart => apply execPwmStart_keeps hk
  case' pwmStop => apply execPwmStop_keeps hk
  case' pwmArm => apply execPwmArm_keeps hk
  case' reloadCutoff => apply execReloadCutoff_keeps hk
  case' reload => apply execReload_keeps hk
  case' periodBoundary => apply execPeriodBoundary_keeps hk
  case' compareEvent => apply execCompareEvent_keeps hk
  case' pwmEdge => apply execPwmEdge_keeps hk
  case' deadTimeEnd => apply execDeadTimeEnd_keeps hk
  case' pwmForce => apply execPwmForce_keeps hk
  case' dtLock => apply execDtLock_keeps hk
  case' generatorBoundary => apply execGeneratorBoundary_keeps hk
  case' gateUvlo => apply execGateUvlo_keeps hk
  case' uvloRecover => apply execUvloRecover_keeps hk
  case' bootstrapRefresh => apply execBootstrapRefresh_keeps hk
  case' forcedRefresh => apply execForcedRefresh_keeps hk
  case' gpbRun => apply execGpbRun_keeps hk
  case' bridgeStartTest => apply execBridgeStartTest_keeps hk
  case' gdDiagStart => apply execGdDiagStart_keeps hk
  case' gdDiagChannelEnd => apply execGdDiagChannelEnd_keeps hk
  case' gdDiagAbort => apply execGdDiagAbort_keeps hk
  case' tripLatch => apply execTripLatch_keeps hk
  case' tripSideDiff => apply execTripSideDiff_keeps hk
  case' tripClear => apply execTripClear_keeps hk
  case' tripLock => apply execTripLock_keeps hk
  case' dsnTh2 => apply execDsnTh2_keeps hk
  case' dsnBlankingEnd => apply execDsnBlankingEnd_keeps hk
  case' dsnTh1 => apply execDsnTh1_keeps hk
  case' softTurnOffEnd => apply execSoftTurnOffEnd_keeps hk
  case' adcTrigger => apply execAdcTrigger_keeps hk
  case' adcTimerFire => apply execAdcTimerFire_keeps hk
  case' acquisitionStart => apply execAcquisitionStart_keeps hk
  case' conversionComplete => apply execConversionComplete_keeps hk
  case' checkConversion => apply execCheckConversion_keeps hk
  case' injectedTrigger => apply execInjectedTrigger_keeps hk
  case' rsw => apply execRsw_keeps hk
  case' isw => apply execIsw_keeps hk
  case' adUnlock => apply execAdUnlock_keeps hk
  case' adcDisable => apply execAdcDisable_keeps hk
  case' injDisable => apply execInjDisable_keeps hk
  case' converterFail => apply execConverterFail_keeps hk
  case' avgOff => apply execAvgOff_keeps hk
  case' agreementWaitLimit => apply execAgreementWaitLimit_keeps hk
  case' stepZero => apply execStepZero_keeps hk
  case' stepFull => apply execStepFull_keeps hk
  case' calMeasureEnd => apply execCalMeasureEnd_keeps hk
  case' commit => apply execCommit_keeps hk
  case' abort => apply execAbort_keeps hk
  case' skew => apply execSkew_keeps hk
  case' netFrameReceive => apply execNetFrameReceive_keeps hk
  case' prpCopyRelay => apply execPrpCopyRelay_keeps hk
  case' portTakeover => apply execPortTakeover_keeps hk
  case' portReturn => apply execPortReturn_keeps hk
  case' ddEntryForget => apply execDdEntryForget_keeps hk
  case' supervisionFrame => apply execSupervisionFrame_keeps hk
  case' svReceive => apply execSvReceive_keeps hk
  case' svLost => apply execSvLost_keeps hk
  case' svPublish => apply execSvPublish_keeps hk
  case' gooseReceive => apply execGooseReceive_keeps hk
  case' gooseLost => apply execGooseLost_keeps hk
  case' gooseRepeat => apply execGooseRepeat_keeps hk
  case' rateChange => apply execRateChange_keeps hk
  case' twinTimeAlign => apply execTwinTimeAlign_keeps hk
  case' twinAlign => apply execTwinAlign_keeps hk
  case' step => apply execStep_keeps hk
  case' timeSnap => apply execTimeSnap_keeps hk
  case' ptpSyncReceive => apply execPtpSyncReceive_keeps hk
  case' ptpAnnounceReceive => apply execPtpAnnounceReceive_keeps hk
  case' pdelayReqSend => apply execPdelayReqSend_keeps hk
  case' pdelayReqReceive => apply execPdelayReqReceive_keeps hk
  case' pdelayRespReceive => apply execPdelayRespReceive_keeps hk
  case' pdelayTimeout => apply execPdelayTimeout_keeps hk
  case' ptpHoldover => apply execPtpHoldover_keeps hk
  case' ptpFreerun => apply execPtpFreerun_keeps hk
  case' ptpMasterSend => apply execPtpMasterSend_keeps hk
  case' leap => apply execLeap_keeps hk
  case' ppsInEdge => apply execPpsInEdge_keeps hk
  case' ppsMiss => apply execPpsMiss_keeps hk
  case' ppsOutPulse => apply execPpsOutPulse_keeps hk
  case' arpRequest => apply execArpRequest_keeps hk
  case' icmpEcho => apply execIcmpEcho_keeps hk
  case' arpEntryExpire => apply execArpEntryExpire_keeps hk
  case' canFrameReceive => apply execCanFrameReceive_keeps hk
  case' canDriveSwitch => apply execCanDriveSwitch_keeps hk
  case' txreq => apply execTxreq_keeps hk
  case' canArbitration => apply execCanArbitration_keeps hk
  case' txDone => apply execTxDone_keeps hk
  case' canAttemptError => apply execCanAttemptError_keeps hk
  case' cancel => apply execCancel_keeps hk
  case' canAttemptReport => apply execCanAttemptReport_keeps hk
  case' busOff => apply execBusOff_keeps hk
  case' recover => apply execRecover_keeps hk
  case' recovered => apply execRecovered_keeps hk
  case' canEnable => apply execCanEnable_keeps hk
  case' canCtlRead => apply execCanCtlRead_keeps hk
  case' canLastWordRead => apply execCanLastWordRead_keeps hk
  case' lockTimeout => apply execLockTimeout_keeps hk
  case' referenceDue => apply execReferenceDue_keeps hk
  case' isotpReceive => apply execIsotpReceive_keeps hk
  case' isotpTimeout => apply execIsotpTimeout_keeps hk
  case' ecpCanEnable => apply execEcpCanEnable_keeps hk
  case' safetyScan => apply execSafetyScan_keeps hk
  case' sinFilterChange => apply execSinFilterChange_keeps hk
  case' discrepancyFault => apply execDiscrepancyFault_keeps hk
  case' safetyStateRead => apply execSafetyStateRead_keeps hk
  case' ack => apply execAck_keeps hk
  case' demandAge => apply execDemandAge_keeps hk
  case' internalDemand => apply execInternalDemand_keeps hk
  case' ackInt => apply execAckInt_keeps hk
  case' soutOvercurrent => apply execSoutOvercurrent_keeps hk
  case' soutOffPulse => apply execSoutOffPulse_keeps hk
  case' soutReadbackFault => apply execSoutReadbackFault_keeps hk
  case' ackOut => apply execAckOut_keeps hk
  case' crossCheck => apply execCrossCheck_keeps hk
  case' smDiff => apply execSmDiff_keeps hk
  case' solo => apply execSolo_keeps hk
  case' paramCheck => apply execParamCheck_keeps hk
  case' oscCheck => apply execOscCheck_keeps hk
  case' safetyParamWrite => apply execSafetyParamWrite_keeps hk
  case' safetyConfirm => apply execSafetyConfirm_keeps hk
  case' confTimeout => apply execConfTimeout_keeps hk
  case' safetyParamLoad => apply execSafetyParamLoad_keeps hk
  case' ecpPacketReceive => apply execEcpPacketReceive_keeps hk
  case' put => apply execPut_keeps hk
  case' get => apply execGet_keeps hk
  case' stat => apply execStat_keeps hk
  case' commandExecute => apply execCommandExecute_keeps hk
  case' lowWaitLimit => apply execLowWaitLimit_keeps hk
  case' nop => apply execNop_keeps hk
  case' identify => apply execIdentify_keeps hk
  case' status => apply execStatus_keeps hk
  case' keyRoll => apply execKeyRoll_keeps hk
  case' keyRollGraceEnd => apply execKeyRollGraceEnd_keeps hk
  case' credits => apply execCredits_keeps hk
  case' read => apply execRead_keeps hk
  case' write => apply execWrite_keeps hk
  case' modify => apply execModify_keeps hk
  case' changeSet => apply execChangeSet_keeps hk
  case' cancelChange => apply execCancelChange_keeps hk
  case' listChanges => apply execListChanges_keeps hk
  case' changeAgreed => apply execChangeAgreed_keeps hk
  case' changeDevelop => apply execChangeDevelop_keeps hk
  case' take => apply execTake_keeps hk
  case' release => apply execRelease_keeps hk
  case' owners => apply execOwners_keeps hk
  case' leaseLapse => apply execLeaseLapse_keeps hk
  case' flashOpen => apply execFlashOpen_keeps hk
  case' flashWrite => apply execFlashWrite_keeps hk
  case' flashClose => apply execFlashClose_keeps hk
  case' flashAbort => apply execFlashAbort_keeps hk
  case' flashSessionTimeout => apply execFlashSessionTimeout_keeps hk
  case' update => apply execUpdate_keeps hk
  case' report => apply execReport_keeps hk
  case' events => apply execEvents_keeps hk
  case' streamRead => apply execStreamRead_keeps hk
  case' streamFlush => apply execStreamFlush_keeps hk
  case' negDump => apply execNegDump_keeps hk
  case' streamData => apply execStreamData_keeps hk
  case' queueUnitWrite => apply execQueueUnitWrite_keeps hk
  case' bankExchange => apply execBankExchange_keeps hk
  case' flushed => apply execFlushed_keeps hk
  case' queueDisable => apply execQueueDisable_keeps hk
  case' vinRise => apply execVinRise_keeps hk
  case' railsGood => apply execRailsGood_keeps hk
  case' xtalFail => apply execXtalFail_keeps hk
  case' pfail => apply execPfail_keeps hk
  case' brownOut => apply execBrownOut_keeps hk
  case' coreRailFault => apply execCoreRailFault_keeps hk
  case' coreRailWindow => apply execCoreRailWindow_keeps hk
  case' vioWindow => apply execVioWindow_keeps hk
  case' resetN => apply execResetN_keeps hk
  case' resetTwin => apply execResetTwin_keeps hk
  case' mpWdt => apply execMpWdt_keeps hk
  case' twinResetRelease => apply execTwinResetRelease_keeps hk
  case' bootComplete => apply execBootComplete_keeps hk
  case' vcoreLoop => apply execVcoreLoop_keeps hk
  case' slackError => apply execSlackError_keeps hk
  case' pllLockLoss => apply execPllLockLoss_keeps hk
  case' pllRelock => apply execPllRelock_keeps hk
  case' rampStart => apply execRampStart_keeps hk
  case' rampAbort => apply execRampAbort_keeps hk
  case' rampEnd => apply execRampEnd_keeps hk
  case' sluiceGrant => apply execSluiceGrant_keeps hk
  case' sluiceRelease => apply execSluiceRelease_keeps hk
  case' leaveWait => apply execLeaveWait_keeps hk
  case' sluTimeout => apply execSluTimeout_keeps hk
  case' ratchet => apply execRatchet_keeps hk
  case' keyRevoke => apply execKeyRevoke_keeps hk
  case' lifecycleLock => apply execLifecycleLock_keeps hk
  case' safelightEnter => apply execSafelightEnter_keeps hk
  case' safelightExit => apply execSafelightExit_keeps hk
  case' overTemperature => apply execOverTemperature_keeps hk
  case' overTempRestart => apply execOverTempRestart_keeps hk
  case' ringRxSyncLost => apply execRingRxSyncLost_keeps hk
  case' portLinkChange => apply execPortLinkChange_keeps hk
  case' vinReturn => apply execVinReturn_keeps hk
  case' forcedRefreshEnd => apply execForcedRefreshEnd_keeps hk
  case' soutOffPulseEnd => apply execSoutOffPulseEnd_keeps hk
  case' cellBypassClosed => apply execCellBypassClosed_keeps hk
  case' cellOwnFault => apply execCellOwnFault_keeps hk
  case' cellPowerUp => apply execCellPowerUp_keeps hk
  case' cellPowerLoss => apply execCellPowerLoss_keeps hk
  case' debugReset => apply execDebugReset_keeps hk
  case' debugKeyInstall => apply execDebugKeyInstall_keeps hk
  case' uncorrectableEcc t region => apply execUncorrectableEcc_keeps hk t region
  case' canRxError => apply execCanRxError_keeps hk
  case' canIntegrated => apply execCanIntegrated_keeps hk
  case' followUpReceive => apply execFollowUpReceive_keeps hk
  all_goals simp only [h, not_false_eq_true, implies_true]

/-- What a step keeps of every part: the queue loses its front command, and the rest is as `Keeps` says. -/
theorem step_keeps {s u : State} (h : step s = .next u) :
    Keeps (fun _ => False) { s with pending := s.pending.tail } u := by
  unfold step at h
  split at h
  next hp =>
    have hs : { s with pending := s.pending.tail } = s := by rw [hp, List.tail_nil, ← hp]
    cases h
    rw [hs]
    exact idleTick_keeps (Keeps.refl _ s) fun _ => id
  next c rest hp =>
    rw [hp, List.tail_cons]
    have hc := exec_keeps (P := fun _ => False) c { s with pending := rest } fun _ _ => id
    rwa [h] at hc

/-- Settles O4: the register maps are among what every step keeps. -/
theorem registerMapsStayCanonical : Obligations.RegisterMapsStayCanonical := by
  intro s u hs h
  have hq : RegsOk { s with pending := s.pending.tail } := (regsOk_iff _).2 ((regsOk_iff s).1 hs)
  exact (step_keeps h).regs hq

end Sys2Proof.Machine

/-! The idle tick (O2), Tributary times (O19), and counters, sequence numbers and time differences (O18). -/

namespace Sys2Proof.Machine

variable {s : State} {t : Twin}

/-! The idle tick. -/

theorem tick_tb (s : State) (t : Twin) :
    ((tick s t).tw t).tb = if biti s t R.CLK_STATUS_LOCK 0 then (s.tw t).tb + 1 else (s.tw t).tb := by
  unfold tick
  split <;> simp

theorem tick_tw_ne (s : State) {t u : Twin} (h : u ≠ t) : (tick s t).tw u = s.tw u := by
  unfold tick
  split
  · exact setTw_tw_ne s h _
  · rfl

theorem tick_report (s : State) (t : Twin) : (tick s t).report = s.report := by
  unfold tick
  split <;> simp

theorem tick_free (s : State) (t : Twin) : (tick s t).free = s.free := by
  unfold tick
  split <;> simp

/-- A bit of a register depends on the twin's state alone. -/
theorem biti_congr {s u : State} {t : Twin} (h : u.tw t = s.tw t) (f : Fld) (i : Nat) : biti u t f i = biti s t f i := by
  simp only [biti, rf, rd, h]

theorem idleTick_tb (s : State) (t : Twin) :
    ((idleTick s).tw t).tb = if biti s t R.CLK_STATUS_LOCK 0 then (s.tw t).tb + 1 else (s.tw t).tb := by
  unfold idleTick onBoth
  cases t with
  | a => rw [tick_tw_ne _ (by decide), tick_tb]
  | b =>
    have hb : (tick s .a).tw .b = s.tw .b := tick_tw_ne s (by decide)
    rw [tick_tb, biti_congr hb, hb]

/-- Settles O2: what the idle tick keeps is `idleTick_keeps` with the TB counters left out. -/
theorem emptyQueueIsOneTick : Obligations.EmptyQueueIsOneTick := by
  intro s hs
  have hk : Keeps (fun p => ∀ t : Twin, p ≠ .tw t .tb) s (idleTick s) :=
    idleTick_keeps (Keeps.refl _ s) fun t h => h t rfl
  refine ⟨idleTick s, by simp only [step, hs], idleTick_tb s, hk.same, hk.pending.trans hs, ?_, ?_⟩
  · simp only [idleTick, onBoth, tick_report]
  · simp only [idleTick, onBoth, tick_free]

/-- Settles O19: integer division and remainder of a device time that is not negative are those of the naturals. -/
theorem tributaryTimesTruncate : Obligations.TributaryTimesTruncate := by
  intro s n f
  unfold tribTime
  omega

/-! Counters. -/

/-- Below saturation a counter adds (R8). -/
theorem rd_cntBy_of_lt (h : RegsOk s) {a k : Nat} (hk : (rd s t a).toNat + k < 4294967295) :
    rd (cntBy s t a k) t a = rd s t a + BitVec.ofNat 32 k := by
  rw [cntBy, if_pos hk, rd_wr_same h, BitVec.ofNat_add, BitVec.ofNat_toNat, BitVec.setWidth_eq]

theorem rd_setOvf (h : RegsOk s) {a b : Nat} (hb : ∀ w i, counterOvf a = some (w, i) → w ≠ b) :
    rd (setOvf s t a) t b = rd s t b := by
  unfold setOvf
  split
  next w i hw => exact rd_wr_ne h (hb w i hw).symm _
  next => rfl

/-- At saturation a counter stands at its greatest value, where its flag lies in another word (R8). -/
theorem rd_cntBy_of_le (h : RegsOk s) {a k : Nat} (hk : 4294967295 ≤ (rd s t a).toNat + k)
    (ha : ∀ w i, counterOvf a = some (w, i) → w ≠ a) : rd (cntBy s t a k) t a = 0xFFFFFFFF#32 := by
  rw [cntBy, if_neg (by omega), rd_setOvf (RegsOk.wr h _ _) ha, rd_wr_same h]

/-- And its overflow flag is set (R8). -/
theorem ovf_cntBy_of_le (h : RegsOk s) {a k w b : Nat} (hk : 4294967295 ≤ (rd s t a).toNat + k)
    (hw : counterOvf a = some (w, b)) (hb : b < 32) : (rd (cntBy s t a k) t w).getLsbD b = true := by
  rw [cntBy, if_neg (by omega), setOvf, hw]
  simp only [rd_wr_same (RegsOk.wr h _ _), BitVec.getLsbD_or, BitVec.getLsbD_ofNat, hb, Nat.testBit_two_pow_self,
    decide_true, Bool.and_self, Bool.or_true]

theorem regsOk_cntBy (h : RegsOk s) (a k : Nat) : RegsOk (cntBy s t a k) :=
  (cntBy_keeps (P := fun _ => False) (Keeps.refl _ s) t a k id).regs h

/-! Sequence numbers and time differences. -/

theorem seqJudge_some_eq_zero {l got : Nat} (hl : l < 65536) (hg : got < 65536) :
    seqJudge (some l) got = 0 ↔ got = l := by
  simp only [seqJudge]
  split
  · omega
  · split <;> omega

theorem seqJudge_some_eq_one {l got : Nat} (hl : l < 65536) (hg : got < 65536) :
    seqJudge (some l) got = 1 ↔ ∃ d, 1 ≤ d ∧ d ≤ 256 ∧ (l + d) % 65536 = got := by
  simp only [seqJudge]
  constructor
  · intro h
    refine ⟨(got + 65536 - l) % 65536, ?_⟩
    split at h
    · omega
    · split at h <;> omega
  · rintro ⟨d, h1, h256, rfl⟩
    rw [if_neg (by omega), if_pos (by omega)]

/-- The difference is the representative of least magnitude of the difference modulo 2^40 (R4). -/
theorem tribDiff_spec (e n : Nat) :
    -549755813888 ≤ tribDiff e n ∧ tribDiff e n < 549755813888 ∧
      (tribDiff e n - ((e : Int) - (n : Int))) % 1099511627776 = 0 := by
  simp only [tribDiff]
  split <;> omega

/-- Settles O18. -/
theorem countersSequencesAndTimesFollowTheCommonRules :
    Obligations.CountersSequencesAndTimesFollowTheCommonRules := by
  refine ⟨fun s t a k j h => ⟨rd_cntBy_of_lt h, fun hk ha => ?_⟩, fun _ => rfl, fun l got hl hg =>
    ⟨seqJudge_some_eq_zero hl hg, seqJudge_some_eq_one hl hg⟩, fun e n _ _ => tribDiff_spec e n⟩
  have hmax : rd (cntBy s t a k) t a = 0xFFFFFFFF#32 := rd_cntBy_of_le h hk ha
  refine ⟨hmax, rd_cntBy_of_le (regsOk_cntBy h a k) ?_ ha, fun w b hw hb => ovf_cntBy_of_le h hk hw hb⟩
  rw [hmax, BitVec.toNat_ofNat]
  omega

end Sys2Proof.Machine

/-! RC reads, the inter-twin link and the crossing cells (O21). -/

namespace Sys2Proof.Machine

variable {s : State} {t u : Twin}

/-! RC reads (R9). -/

/-- The one field of a word that is a counter which clears when read. -/
def rcField : RegField := ⟨31, 0, .rc, 0, 0, 4294967295, false⟩

/-- The word at `a` is one counter that clears when read: its flag lies in another word, and its read samples no pins. -/
structure RcCounter (a : Nat) : Prop where
  fields : (findRow a).map (·.fields) = some [rcField]
  ovf : ∀ w i, counterOvf a = some (w, i) → w ≠ a
  live : ¬(a ≤ R.TRIP_LIVE_IN_ACTIVE.addr ∧ R.TRIP_LIVE_IN_ACTIVE.addr < a + 4 * 1)

theorem rcCounter_of_mem {a : Nat}
    (ha : a ∈ [R.TWN_TAKEOVERS, R.TWN_ROTATIONS, R.TWN_HB_MISS, R.SYS_RESETS, R.NET_P_TX_OK]) : RcCounter a := by
  have hf : ∀ a ∈ [R.TWN_TAKEOVERS, R.TWN_ROTATIONS, R.TWN_HB_MISS, R.SYS_RESETS, R.NET_P_TX_OK],
      (findRow a).map (·.fields) = some [rcField] ∧ ((counterOvf a).all fun p => p.1 != a) = true ∧
      ¬(a ≤ R.TRIP_LIVE_IN_ACTIVE.addr ∧ R.TRIP_LIVE_IN_ACTIVE.addr < a + 4 * 1) := by decide +kernel
  obtain ⟨hfields, hovf, hlive⟩ := hf a ha
  refine ⟨hfields, fun w i hw => ?_, hlive⟩
  simpa [hw] using hovf

theorem RcCounter.exists_row {a : Nat} (h : RcCounter a) : ∃ r, findRow a = some r ∧ r.fields = [rcField] :=
  Option.map_eq_some_iff.1 h.fields

/-- A field of all 32 bits is the word. -/
theorem putBits_bits_full (v w : W32) : putBits v 31 0 (bits w 31 0) = w := by
  apply BitVec.eq_of_toNat_eq
  simp only [putBits, bits, BitVec.toNat_ofNat]
  omega

theorem putBits_zero_full (w : W32) : putBits w 31 0 0 = 0#32 := by
  apply BitVec.eq_of_toNat_eq
  simp only [putBits, BitVec.toNat_ofNat]
  omega

theorem readWord_rcCounter {a : Nat} (h : RcCounter a) (s : State) (t : Twin) : readWord s t a = rd s t a := by
  obtain ⟨r, hr, hf⟩ := h.exists_row
  simp [readWord, hr, hf, rcField, putBits_bits_full]

theorem rd_clearOvf (h : RegsOk s) {a b : Nat} (hb : ∀ w i, counterOvf a = some (w, i) → w ≠ b) :
    rd (clearOvf s t a) t b = rd s t b := by
  unfold clearOvf
  split
  next w i hw => exact rd_wr_ne h (hb w i hw).symm _
  next => rfl

theorem rcClear_rcCounter {a : Nat} (h : RcCounter a) (s : State) (t : Twin) :
    rcClear s t a = clearOvf (wr s t a 0#32) t a := by
  obtain ⟨r, hr, hf⟩ := h.exists_row
  simp [rcClear, hr, hf, rcField, putBits_zero_full]

theorem rd_rcClear_rcCounter (hs : RegsOk s) {a : Nat} (h : RcCounter a) : rd (rcClear s t a) t a = 0#32 := by
  rw [rcClear_rcCounter h, rd_clearOvf (RegsOk.wr hs _ _) h.ovf, rd_wr_same hs]

theorem regsOk_rcClear (hs : RegsOk s) (a : Nat) : RegsOk (rcClear s t a) :=
  (rcClear_keeps (P := fun _ => False) (Keeps.refl _ s) t a id).regs hs

theorem regsOk_readOut (hs : RegsOk s) (l : List W32) : RegsOk { s with readOut := l } :=
  (regsOk_iff _).2 ((regsOk_iff s).1 hs)

/-- RC_READ of a counter returns its value and clears it; an increment that meets the clear counts from 0. -/
theorem execRcRead_rcCounter (hs : RegsOk s) (t : Twin) {w : W32} (h : RcCounter w.toNat) (meets : Bool) :
    ∃ u, execRcRead t w meets s = .next u ∧ u.readOut = [rd s t w.toNat] ∧ u.report = Rc.OK ∧
      rd u t w.toNat = if meets then 1#32 else 0#32 := by
  obtain ⟨r, hr, hf⟩ := h.exists_row
  have hlive : sampleLive s t w.toNat 1 = s := if_neg h.live
  have hany : r.fields.any (fun f => f.acc == .rc) = true := by rw [hf]; decide
  have ho : RegsOk { say s Rc.OK with readOut := [readWord s t w.toNat] } := regsOk_readOut ((regsOk_say _).2 hs) _
  have h0 := rd_rcClear_rcCounter (t := t) ho h
  cases meets with
  | false =>
    refine ⟨_, by simp only [execRcRead, hr, hlive, Bool.false_and]; rfl, ?_, ?_, by simpa using h0⟩
    · rw [rcClear_rcCounter h]; simp [readWord_rcCounter h]
    · rw [rcClear_rcCounter h]; simp [say]
  | true =>
    refine ⟨_, by simp only [execRcRead, hr, hlive, hany, Bool.true_and, if_true]; rfl, ?_, ?_, ?_⟩
    · rw [rcClear_rcCounter h]; simp [readWord_rcCounter h]
    · rw [rcClear_rcCounter h]; simp [say]
    · rw [cnt, rd_cntBy_of_lt (regsOk_rcClear ho _) (by rw [h0]; decide), h0]
      rfl

/-! The inter-twin link (R20). -/

theorem execLinkWordReceive_some (s : State) (t : Twin) {g : List (BitVec 4)} {v : Nat} (hg : groupsWord g = some v) :
    ∃ u, execLinkWordReceive t g s = .next u ∧ (u.tw t).twn.linkIn = BitVec.ofNat 64 v ∧
      (u.tw t).twn.linkErrors = (s.tw t).twn.linkErrors :=
  ⟨_, by simp only [execLinkWordReceive, hg]; rfl, by simp, by simp⟩

theorem execLinkWordReceive_none (t : Twin) {g : List (BitVec 4)} (hg : groupsWord g = none)
    (hl : (s.tw t).twn.linkErrors < 4294967295) :
    ∃ u, execLinkWordReceive t g s = .next u ∧ (u.tw t).twn.linkIn = (s.tw t).twn.linkIn ∧
      (u.tw t).twn.linkErrors = (s.tw t).twn.linkErrors + 1 ∧
      (u.tw t).twn.linkAgain = (s.tw t).twn.linkAgain + 1 := by
  refine ⟨_, by simp only [execLinkWordReceive, hg]; rfl, by simp, ?_, by simp⟩
  rw [modTwn_twn]
  exact Nat.min_eq_left hl

/-- A field write of any twin leaves a field alone that shares no bit with it. -/
theorem rf_wf_apart (h : RegsOk s) {f g : Fld} (hf : f.lo ≤ f.hi) (hg : g.lo ≤ g.hi)
    (hd : g.addr ≠ f.addr ∨ f.hi < g.lo ∨ g.hi < f.lo) (v : Nat) : rf (wf s t f v) u g = rf s u g := by
  by_cases hu : u = t
  · subst hu
    rcases hd with ha | hd
    · exact rf_wf_ne h ha v
    · exact rf_wf_disjoint h hf hg hd v
  · simp only [rf, wf, rd_wr_twin hu]

/-- STATE and OTHER are fields of TWN_STATE below its live flags. -/
structure StateField (g : Fld) : Prop where
  addr : g.addr = R.TWN_STATE
  le : g.lo ≤ g.hi
  hi : g.hi < 8

theorem stateField_state : StateField R.TWN_STATE_STATE := ⟨rfl, by decide, by decide⟩
theorem stateField_other : StateField R.TWN_STATE_OTHER := ⟨rfl, by decide, by decide⟩

/-- The live flags leave STATE and OTHER of both twins alone. -/
theorem rf_twnFlags (h : RegsOk s) {g : Fld} (hg : StateField g) : rf (twnFlags s t) u g = rf s u g := by
  have hd : ∀ {f : Fld}, 8 ≤ f.lo → g.addr ≠ f.addr ∨ f.hi < g.lo ∨ g.hi < f.lo :=
    fun hf => .inr (.inr (Nat.lt_of_lt_of_le hg.hi hf))
  have h1 := h.wf (t := t) R.TWN_STATE_LAST_TWIN
  simp only [twnFlags]
  rw [rf_wf_apart ((((h1 _).wf _ _).wf _ _).wf _ _) (by decide) hg.le (hd (by decide)),
    rf_wf_apart (((h1 _).wf _ _).wf _ _) (by decide) hg.le (hd (by decide)),
    rf_wf_apart ((h1 _).wf _ _) (by decide) hg.le (hd (by decide)),
    rf_wf_apart (h1 _) (by decide) hg.le (hd (by decide)),
    rf_wf_apart h (by decide) hg.le (hd (by decide))]

theorem flag_split_twnFlags (h : RegsOk s) :
    flag (twnFlags s t) t R.TWN_STATE_SPLIT = ((s.tw t).twn.linkFailed || bothLost s) := by
  have h1 := h.wf (t := t) R.TWN_STATE_LAST_TWIN
  simp only [flag, twnFlags]
  rw [rf_wf_apart ((((h1 _).wf _ _).wf _ _).wf _ _) (by decide) (by decide) (by decide),
    rf_wf_apart (((h1 _).wf _ _).wf _ _) (by decide) (by decide) (by decide),
    rf_wf_apart ((h1 _).wf _ _) (by decide) (by decide) (by decide),
    rf_wf_same (h1 _) _ (by decide) (by decide)]
  cases ((s.tw t).twn.linkFailed || bothLost s) <;> rfl

theorem regsOk_twnFlags (h : RegsOk s) : RegsOk (twnFlags s t) :=
  (twnFlags_keeps (P := fun _ => False) (Keeps.refl _ s) t id).regs h

theorem twnFlags_twn (s : State) (t u : Twin) : ((twnFlags s t).tw u).twn = (s.tw u).twn := by
  simp [twnFlags]

/-- An event bit of TWN_EVENT leaves STATE and OTHER alone. -/
theorem rf_ev_event (h : RegsOk s) {g : Fld} (hg : StateField g) (f : Fld) (hf : f.addr = R.TWN_EVENT) (hl : f.lo ≤ f.hi) :
    rf (ev s t f) u g = rf s u g :=
  rf_wf_apart h hl hg.le (.inl (by rw [hg.addr, hf]; decide)) 1

/-- Counting a missed heartbeat leaves STATE and OTHER alone. -/
theorem rf_cnt_hbMiss (h : RegsOk s) {g : Fld} (hg : StateField g) :
    rf (cnt s t R.TWN_HB_MISS) t g = rf s t g := by
  have hovf : ∀ w i, counterOvf R.TWN_HB_MISS = some (w, i) → w ≠ R.TWN_STATE := by
    have hall : ((counterOvf R.TWN_HB_MISS).all fun p => p.1 != R.TWN_STATE) = true := by decide +kernel
    intro w i hw
    simpa [hw] using hall
  have hne : R.TWN_STATE ≠ R.TWN_HB_MISS := by decide
  simp only [rf, cnt, cntBy, hg.addr]
  split
  · rw [rd_wr_ne h hne]
  · rw [rd_setOvf (RegsOk.wr h _ _) hovf, rd_wr_ne h hne]

/-- The split marked in both twins (R152) leaves STATE and OTHER alone. -/
theorem rf_splitBoth (h : RegsOk s) {g : Fld} (hg : StateField g) :
    rf (onBoth (fun s u => twnFlags (ev s u R.TWN_EVENT_SPLIT) u) s) t g = rf s t g := by
  have ha : RegsOk (twnFlags (ev s .a R.TWN_EVENT_SPLIT) .a) := regsOk_twnFlags (regsOk_ev h _)
  simp only [onBoth]
  rw [rf_twnFlags (regsOk_ev ha _) hg, rf_ev_event ha hg _ rfl (by decide), rf_twnFlags (regsOk_ev h _) hg,
    rf_ev_event h hg _ rfl (by decide)]

/-- A twin that declares the other lost changes nothing of STATE and OTHER but what it writes into OTHER (R132). -/
theorem rf_otherLost (h : RegsOk s) (hn : ¬(twState s t = tsReset ∨ twOther s t = tsLost)) {g : Fld} (hg : StateField g) :
    rf (otherLost s t) t g = rf (wf s t R.TWN_STATE_OTHER tsLost) t g := by
  have h1 : RegsOk (wf s t R.TWN_STATE_OTHER tsLost) := h.wf _ _
  have h2 := regsOk_ev (t := t) h1 R.TWN_EVENT_HB_LOST
  have h3 := regsOk_cnt (t := t) h2 R.TWN_HB_MISS
  have hone : rf (twnFlags (cnt (ev (wf s t R.TWN_STATE_OTHER tsLost) t R.TWN_EVENT_HB_LOST) t R.TWN_HB_MISS) t) t g =
      rf (wf s t R.TWN_STATE_OTHER tsLost) t g := by
    rw [rf_twnFlags h3 hg, rf_cnt_hbMiss h2 hg, rf_ev_event h1 hg _ rfl (by decide)]
  simp only [otherLost, if_neg hn]
  split
  · exact (rf_splitBoth (regsOk_twnFlags h3) hg).trans hone
  · exact hone

theorem twState_otherLost (h : RegsOk s) : twState (otherLost s t) t = twState s t := by
  by_cases hn : twState s t = tsReset ∨ twOther s t = tsLost
  · rw [otherLost, if_pos hn]
  · rw [twState, rf_otherLost h hn stateField_state, rf_wf_apart h (by decide) (by decide) (by decide)]
    rfl

theorem twOther_otherLost (h : RegsOk s) (hr : twState s t ≠ tsReset) : twOther (otherLost s t) t = tsLost := by
  by_cases hn : twState s t = tsReset ∨ twOther s t = tsLost
  · rw [otherLost, if_pos hn]
    exact hn.resolve_left hr
  · rw [twOther, rf_otherLost h hn stateField_other, rf_wf_same h _ (by decide) (by decide)]
    rfl

theorem regsOk_otherLost (h : RegsOk s) : RegsOk (otherLost s t) :=
  (otherLost_keeps (P := fun _ => False) (Keeps.refl _ s) t fun _ => id).regs h

theorem otherLost_twn (s : State) (t u : Twin) : ((otherLost s t).tw u).twn = (s.tw u).twn :=
  (otherLost_keeps (P := (· = .tw u .twn)) (Keeps.refl _ s) t nofun).same (.tw u .twn) rfl

/-- The twin's flags after it has lost the other over a failed link (R20, R132, R152). -/
theorem twnFlags_otherLost (h : RegsOk s) (hr : twState s t ≠ tsReset) (hl : (s.tw t).twn.linkFailed = true) :
    ((twnFlags (otherLost s t) t).tw t).twn.linkFailed = true ∧ twOther (twnFlags (otherLost s t) t) t = tsLost ∧
      twState (twnFlags (otherLost s t) t) t = twState s t ∧
      flag (twnFlags (otherLost s t) t) t R.TWN_STATE_SPLIT = true := by
  have ho := regsOk_otherLost (t := t) h
  refine ⟨by rw [twnFlags_twn, otherLost_twn, hl], (rf_twnFlags ho stateField_other).trans (twOther_otherLost h hr),
    (rf_twnFlags ho stateField_state).trans (twState_otherLost h), ?_⟩
  rw [flag_split_twnFlags ho, otherLost_twn, hl, Bool.true_or]

theorem execLinkHandshakeTimeout_running (h : RegsOk s) (hr : twState s t ≠ tsReset) :
    ∃ u, execLinkHandshakeTimeout t s = .next u ∧ (u.tw t).twn.linkFailed = true ∧ twOther u t = tsLost ∧
      twState u t = twState s t ∧ flag u t R.TWN_STATE_SPLIT = true := by
  have h0 : RegsOk (modTwn s t fun x => { x with linkFailed := true }) := (regsOk_modTwn _).2 h
  have hst : twState (modTwn s t fun x => { x with linkFailed := true }) t = twState s t := rf_modTwn ..
  have hlf : ((modTwn s t fun x => { x with linkFailed := true }).tw t).twn.linkFailed = true := by rw [modTwn_twn]
  simp only [execLinkHandshakeTimeout, if_neg hr]
  refine ⟨_, rfl, ?_⟩
  split
  · have hev : twState (ev (modTwn s t fun x => { x with linkFailed := true }) t R.TWN_EVENT_SPLIT) t = twState s t :=
      (rf_ev_event h0 stateField_state _ rfl (by decide)).trans hst
    rw [← hev]
    exact twnFlags_otherLost (regsOk_ev h0 _) (hev ▸ hr) (by rw [ev_twn, hlf])
  · rw [← hst]
    exact twnFlags_otherLost h0 (hst ▸ hr) hlf

/-! Crossing cells (R23 to R28). -/

theorem xing_setXing_same (h : TabsOk s) (k : Nat) (x : Xing) : xing (setXing s t k x) t k = x := by
  simp only [xing, setXing, setTw_tw]
  exact tabGet_tabSet_same (fun _ => Xing.init) (h.tw t).xings k x

theorem xing_setXing_ne (h : TabsOk s) {j k : Nat} (hjk : j ≠ k) (x : Xing) :
    xing (setXing s t k x) t j = xing s t j := by
  simp only [xing, setXing, setTw_tw]
  exact tabGet_tabSet_ne (fun _ => Xing.init) (h.tw t).xings hjk x

@[simp] theorem xing_cntBy (s : State) (t u : Twin) (a n k : Nat) : xing (cntBy s u a n) t k = xing s t k := by
  simp [xing]

@[simp] theorem xing_cnt (s : State) (t u : Twin) (a k : Nat) : xing (cnt s u a) t k = xing s t k := xing_cntBy ..

@[simp] theorem xing_modPwr (s : State) (t u : Twin) (f : PwrSt → PwrSt) (k : Nat) :
    xing (modPwr s u f) t k = xing s t k := by
  simp [xing]

theorem xing_readOut (s : State) (l : List W32) (t : Twin) (k : Nat) : xing { s with readOut := l } t k = xing s t k := by
  cases t <;> rfl

theorem rd_readOut (s : State) (l : List W32) (t : Twin) (a : Nat) : rd { s with readOut := l } t a = rd s t a := by
  cases t <;> rfl

theorem rd_setXing (s : State) (t u : Twin) (k : Nat) (x : Xing) (a : Nat) : rd (setXing s t k x) u a = rd s u a := by
  cases t <;> cases u <;> rfl

theorem regsOk_setXing (h : RegsOk s) (k : Nat) (x : Xing) : RegsOk (setXing s t k x) := h.setTw (h t)

theorem tabsOk_setXing (h : TabsOk s) (k : Nat) (x : Xing) : TabsOk (setXing s t k x) :=
  (setXing_keeps (P := fun _ => False) (Keeps.refl _ s) t k x id).tabs h

theorem tabsOk_accept (h : TabsOk s) (d : Fin 9) (into : Bool) (l : List W32) : TabsOk (accept t d into s l) :=
  (accept_keeps (P := fun _ => False) (Keeps.refl _ s) t d into l id id).tabs h

theorem tabsOk_cntBy (h : TabsOk s) (a k : Nat) : TabsOk (cntBy s t a k) :=
  (cntBy_keeps (P := fun _ => False) (Keeps.refl _ s) t a k id).tabs h

theorem xingKey_ne (d : Fin 9) (into : Bool) : xingKey d into ≠ xingKey d (!into) := by
  cases into <;> simp [xingKey, bit]

theorem accept_some (s : State) (t : Twin) (d : Fin 9) (into : Bool) {l : List W32} {v : W32}
    (hl : settle 4 l = some v) : accept t d into s l = setXing s t (xingKey d into)
      { xing s t (xingKey d into) with last := v, unsettled := false, notReady := false } := by
  simp only [accept, hl]

theorem accept_none (s : State) (t : Twin) (d : Fin 9) (into : Bool) {l : List W32} (hl : settle 4 l = none)
    (h5 : 5 ≤ l.length) : accept t d into s l = cnt (setXing s t (xingKey d into)
      { xing s t (xingKey d into) with unsettled := true }) t (R.CLK_XING_UNSETTLED + 8 * d.val) := by
  simp only [accept, hl, if_neg (Nat.not_lt.2 h5)]

/-- What a judged transfer does to its crossing: the value agreed on is the last one, and no other transfer leaves. -/
theorem xing_accept (h : TabsOk s) (d : Fin 9) (into : Bool) (l : List W32) :
    (xing (accept t d into s l) t (xingKey d into)).offered = (xing s t (xingKey d into)).offered ∧
      (xing (accept t d into s l) t (xingKey d into)).last =
        (settle 4 l).getD (xing s t (xingKey d into)).last := by
  cases hl : settle 4 l with
  | some v => rw [accept_some s t d into hl, xing_setXing_same h]; exact ⟨rfl, rfl⟩
  | none =>
    by_cases h5 : 5 ≤ l.length
    · rw [accept_none s t d into hl h5, xing_cnt, xing_setXing_same h]; exact ⟨rfl, rfl⟩
    · simp [accept, hl, Nat.not_le.1 h5]

/-- Transfers judged one after another: the last value agreed on is the last value. -/
theorem xing_foldl_accept (h : TabsOk s) (d : Fin 9) (into : Bool) (ls : List (List W32)) :
    (xing (ls.foldl (accept t d into) s) t (xingKey d into)).offered = (xing s t (xingKey d into)).offered ∧
      (xing (ls.foldl (accept t d into) s) t (xingKey d into)).last =
        (ls.filterMap (settle 4)).getLastD (xing s t (xingKey d into)).last := by
  induction ls generalizing s with
  | nil => exact ⟨rfl, rfl⟩
  | cons l ls ih =>
    obtain ⟨ho, hl⟩ := ih (tabsOk_accept (t := t) h d into l)
    obtain ⟨hao, hal⟩ := xing_accept (t := t) h d into l
    rw [List.foldl_cons, ho, hl, hao, hal]
    refine ⟨rfl, ?_⟩
    cases hv : settle 4 l with
    | some v => rw [List.filterMap_cons_some hv, List.getLastD_cons, Option.getD_some]
    | none => rw [List.filterMap_cons_none hv, Option.getD_none]

/-- A delivery empties what waits, and its last value is the last one agreed on. -/
theorem xing_deliver (h : TabsOk s) (t : Twin) (d : Fin 9) :
    (xing (deliver s t d) t (xingKey d false)).offered = [] ∧
      (xing (deliver s t d) t (xingKey d false)).last =
        ((xing s t (xingKey d false)).offered.filterMap (settle 4)).getLastD (xing s t (xingKey d false)).last := by
  have hf := xing_foldl_accept (t := t) (tabsOk_setXing (t := t) h (xingKey d false)
    { xing s t (xingKey d false) with offered := [] }) d false (xing s t (xingKey d false)).offered
  rwa [xing_setXing_same h] at hf

theorem deliver_pwr (s : State) (t : Twin) (d : Fin 9) : ((deliver s t d).tw t).pwr = (s.tw t).pwr :=
  (deliver_keeps (P := (· = .tw t .pwr)) (Keeps.refl _ s) t d nofun nofun).same (.tw t .pwr) rfl

section Transfer

variable {d : Fin 9} {into : Bool} {l : List W32}

/-- A transfer that its reading side judges: it lives, does not wait, and its samples settle or are all there. -/
theorem execCrossingTransfer_judged (hx : (xing s t (xingKey d into)).dead = false)
    (hw : into = true ∨ domainWaits s t d = false) (hl : settle 4 l ≠ none ∨ 5 ≤ l.length) :
    execCrossingTransfer t d into l s =
      .next { accept t d into s l with readOut := [(xing (accept t d into s l) t (xingKey d into)).last] } := by
  have hwait : (!into && domainWaits s t d) = false := by rcases hw with rfl | hw <;> simp [*]
  have hall : ((settle 4 l).isNone && decide (l.length < 5)) = false := by
    rcases hl with hl | hl
    · simp [hl]
    · simp [Nat.not_lt.2 hl]
  simp only [execCrossingTransfer, hx, hwait, hall, Bool.false_eq_true, if_false]

theorem execCrossingTransfer_settled {v : W32} (h : TabsOk s) (hx : (xing s t (xingKey d into)).dead = false)
    (hw : into = true ∨ domainWaits s t d = false) (hl : settle 4 l = some v) :
    ∃ u, execCrossingTransfer t d into l s = .next u ∧ u.readOut = [v] ∧ xing u t (xingKey d into) =
      { xing s t (xingKey d into) with last := v, unsettled := false, notReady := false } := by
  refine ⟨_, execCrossingTransfer_judged hx hw (.inl (by simp [hl])), ?_, ?_⟩
  · rw [accept_some s t d into hl, xing_setXing_same h]
  · rw [xing_readOut, accept_some s t d into hl, xing_setXing_same h]

theorem execCrossingTransfer_unsettled (hs : RegsOk s) (h : TabsOk s) (hx : (xing s t (xingKey d into)).dead = false)
    (hw : into = true ∨ domainWaits s t d = false) (hl : settle 4 l = none) (h5 : 5 ≤ l.length)
    (hc : (rd s t (R.CLK_XING_UNSETTLED + 8 * d.val)).toNat < 4294967294) :
    ∃ u, execCrossingTransfer t d into l s = .next u ∧ u.readOut = [(xing s t (xingKey d into)).last] ∧
      xing u t (xingKey d into) = { xing s t (xingKey d into) with unsettled := true } ∧
      rd u t (R.CLK_XING_UNSETTLED + 8 * d.val) = rd s t (R.CLK_XING_UNSETTLED + 8 * d.val) + 1 := by
  refine ⟨_, execCrossingTransfer_judged hx hw (.inr h5), ?_, ?_, ?_⟩
  · rw [accept_none s t d into hl h5, xing_cnt, xing_setXing_same h]
  · rw [xing_readOut, accept_none s t d into hl h5, xing_cnt, xing_setXing_same h]
  · rw [rd_readOut, accept_none s t d into hl h5, cnt, rd_cntBy_of_lt (regsOk_setXing hs _ _) (by rw [rd_setXing]; omega),
      rd_setXing]
    rfl

theorem execCrossingTransfer_waits (h : TabsOk s) (hx : (xing s t (xingKey d false)).dead = false)
    (hw : domainWaits s t d = true) :
    ∃ u, execCrossingTransfer t d false l s = .next u ∧ xing u t (xingKey d false) =
      { xing s t (xingKey d false) with offered := (xing s t (xingKey d false)).offered ++ [l] } := by
  refine ⟨_, ?_, xing_setXing_same h ..⟩
  rw [execCrossingTransfer]
  dsimp only
  rw [if_neg (by simp [hx]), if_pos (by simp [hw])]

end Transfer

theorem execDomainWake_wakes {d : Fin 9} (h : TabsOk s) (hg : d.val ∈ (s.tw t).pwr.gated)
    (hn : (s.tw t).pwr.gated.Nodup) (ho : (xing s t (xingKey d false)).offered ≠ [])
    (hw : domainWaits (modPwr s t (fun p => { p with gated := p.gated.erase d.val })) t d = false) :
    ∃ u, execDomainWake t d s = .next u ∧ d.val ∉ (u.tw t).pwr.gated ∧ (xing u t (xingKey d false)).offered = [] ∧
      (xing u t (xingKey d false)).last =
        ((xing s t (xingKey d false)).offered.filterMap (settle 4)).getLastD (xing s t (xingKey d false)).last := by
  have hwake : ungate s t d = deliver (modPwr s t (fun p => { p with gated := p.gated.erase d.val })) t d := by
    simp only [ungate, hw, Bool.false_eq_true, if_false]
  have htabs : TabsOk (modPwr s t fun p => { p with gated := p.gated.erase d.val }) :=
    (modPwr_keeps (P := fun _ => False) (Keeps.refl _ s) t _ id).tabs h
  obtain ⟨hoff, hlast⟩ := xing_deliver htabs t d
  rw [xing_modPwr] at hlast
  refine ⟨_, by simp only [execDomainWake, List.contains_iff_mem.2 hg, List.isEmpty_eq_false_iff.2 ho, Bool.not_false,
    Bool.and_self, if_true, hwake], ?_, hoff, hlast⟩
  rw [deliver_pwr, modPwr_pwr]
  exact hn.not_mem_erase

/-- The side that enters reset drops what its crossing holds, and the last value stays (R28). -/
theorem xing_xingDrop_same (h : TabsOk s) (d : Fin 9) (into fabric : Bool) :
    xing (xingDrop s t d into fabric) t (xingKey d into) = { xing s t (xingKey d into) with
      offered := [], notReady := true, dead := true,
      rdrReset := (xing s t (xingKey d into)).rdrReset || into == fabric } := by
  rw [xingDrop, xing_cntBy, xing_setXing_same h]

theorem xing_xingDrop_other (h : TabsOk s) (d : Fin 9) (into fabric : Bool) :
    xing (xingDrop s t d (!into) fabric) t (xingKey d into) = xing s t (xingKey d into) := by
  rw [xingDrop, xing_cntBy, xing_setXing_ne h (xingKey_ne d into)]

theorem tabsOk_xingDrop (h : TabsOk s) (d : Fin 9) (into fabric : Bool) : TabsOk (xingDrop s t d into fabric) :=
  tabsOk_cntBy (tabsOk_setXing h _ _) _ _

theorem execCrossingSideReset_drops (h : TabsOk s) (t : Twin) (d : Fin 9) (fabric into : Bool) :
    ∃ u, execCrossingSideReset t d fabric s = .next u ∧ (xing u t (xingKey d into)).dead = true ∧
      (xing u t (xingKey d into)).notReady = true ∧ (xing u t (xingKey d into)).offered = [] ∧
      (xing u t (xingKey d into)).last = (xing s t (xingKey d into)).last := by
  have h1 := tabsOk_xingDrop (t := t) h d true fabric
  refine ⟨_, rfl, ?_⟩
  cases into with
  | false =>
    rw [xing_xingDrop_same h1, show xing (xingDrop s t d true fabric) t (xingKey d false) = xing s t (xingKey d false) from
      xing_xingDrop_other h d false fabric]
    exact ⟨rfl, rfl, rfl, rfl⟩
  | true =>
    rw [show ∀ u, TabsOk u → xing (xingDrop u t d false fabric) t (xingKey d true) = xing u t (xingKey d true) from
      fun u hu => xing_xingDrop_other hu d true fabric, xing_xingDrop_same h]
    exacts [⟨rfl, rfl, rfl, rfl⟩, h1]

/-- A direction that was in reset resumes, a reader that was in reset with the reset value (R28). -/
theorem xing_xingResume_same (h : TabsOk s) {d : Fin 9} {into : Bool} (hx : (xing s t (xingKey d into)).dead = true) :
    xing (xingResume s t d into) t (xingKey d into) = { xing s t (xingKey d into) with
      dead := false, notReady := false, rdrReset := false,
      last := if (xing s t (xingKey d into)).rdrReset then 0#32 else (xing s t (xingKey d into)).last } := by
  simp only [xingResume, hx, if_true]
  exact xing_setXing_same h ..

theorem xing_xingResume_other (h : TabsOk s) (d : Fin 9) (into : Bool) :
    xing (xingResume s t d (!into)) t (xingKey d into) = xing s t (xingKey d into) := by
  simp only [xingResume]
  split
  · exact xing_setXing_ne h (xingKey_ne d into) _
  · rfl

theorem tabsOk_xingResume (h : TabsOk s) (d : Fin 9) (into : Bool) : TabsOk (xingResume s t d into) := by
  simp only [xingResume]
  split
  · exact tabsOk_setXing h _ _
  · exact h

theorem execCrossingRehandshake_resumes (h : TabsOk s) {d : Fin 9} {into : Bool}
    (hx : (xing s t (xingKey d into)).dead = true) :
    ∃ u, execCrossingRehandshake t d s = .next u ∧ (xing u t (xingKey d into)).dead = false ∧
      (xing u t (xingKey d into)).notReady = false ∧
      ((xing s t (xingKey d into)).rdrReset = true → (xing u t (xingKey d into)).last = 0#32) := by
  have h1 := tabsOk_xingResume (t := t) h d true
  refine ⟨_, rfl, ?_⟩
  cases into with
  | false =>
    have hkeep : xing (xingResume s t d true) t (xingKey d false) = xing s t (xingKey d false) :=
      xing_xingResume_other h d false
    rw [xing_xingResume_same h1 (hkeep ▸ hx), hkeep]
    exact ⟨rfl, rfl, fun hr => if_pos hr⟩
  | true =>
    have hkeep : xing (xingResume (xingResume s t d true) t d false) t (xingKey d true) =
        xing (xingResume s t d true) t (xingKey d true) := xing_xingResume_other h1 d true
    rw [hkeep, xing_xingResume_same h hx]
    exact ⟨rfl, rfl, fun hr => if_pos hr⟩

/-- Settles O21, clause by clause from the lemma of its row. -/
theorem architectureCommandsComplete : Obligations.ArchitectureCommandsComplete := by
  refine ⟨fun s t w hs hw => execRcRead_rcCounter hs t (rcCounter_of_mem hw) false, fun s t w hs hw => ?_,
    fun s t _ _ hg => execLinkWordReceive_some s t hg, fun _ t _ hg hl => execLinkWordReceive_none t hg hl,
    fun _ _ hs hr => execLinkHandshakeTimeout_running hs hr,
    fun _ _ _ _ _ _ h hx hw hl => execCrossingTransfer_settled h hx hw hl,
    fun _ _ _ _ _ hs h hx hw hl h5 hc => execCrossingTransfer_unsettled hs h hx hw hl h5 hc,
    fun _ _ _ _ h hx hw => execCrossingTransfer_waits h hx hw,
    fun _ _ _ h hg hn ho hw => execDomainWake_wakes h hg hn ho hw,
    fun _ t d fabric into h _ => execCrossingSideReset_drops h t d fabric into,
    fun _ _ _ _ h hx => execCrossingRehandshake_resumes h hx⟩
  obtain ⟨u, hu, hout, -, hrd⟩ := execRcRead_rcCounter hs t (rcCounter_of_mem hw) true
  exact ⟨u, hu, hout, hrd⟩

end Sys2Proof.Machine

/-! What every command leaves alone (O8), and the pins that show the interlock's holder (O14). -/

namespace Sys2Proof.Machine

/-- Settles O8: among what `exec_keeps` says a command keeps are the parts that `partsOf` does not give it. -/
theorem commandsLeaveOtherPartsAlone : Obligations.CommandsLeaveOtherPartsAlone := by
  intro c s u p h hp
  have hk := exec_keeps (P := (· ∉ partsOf c)) c s fun _ hq hn => hn hq
  rw [h] at hk
  exact hk.same p hp

theorem intlkObs_of_vin {s : State} (h : biti s .a R.PWR_STATUS_GOOD 0 = true) (t : Twin) :
    intlkObs s t = some (decide (s.ilk.holder = some t)) := by
  simp [intlkObs, vinGood, h]

theorem intlkObs_of_not_vin {s : State} (h : biti s .a R.PWR_STATUS_GOOD 0 = false) (t : Twin) :
    intlkObs s t = none := by
  simp [intlkObs, vinGood, h]

/-- A pin is high only for the holder (R18). -/
theorem holder_of_intlkObs {s : State} {t : Twin} (h : intlkObs s t = some true) : s.ilk.holder = some t := by
  cases hv : biti s .a R.PWR_STATUS_GOOD 0 with
  | false => simp [intlkObs_of_not_vin hv] at h
  | true => simpa [intlkObs_of_vin hv] using h

/-- Settles O14: a high pin names the holder, and there is at most one. -/
theorem atMostOneInterlockPinIsHigh : Obligations.AtMostOneInterlockPinIsHigh := by
  intro s
  refine ⟨fun t hv => ?_, fun ⟨ha, hb⟩ => ?_, fun hv hn => ?_, fun hv =>
    ⟨intlkObs_of_not_vin hv .a, intlkObs_of_not_vin hv .b⟩⟩
  · rw [intlkObs_of_vin hv]
    exact ⟨fun h => by simp [h], fun h => by simp [h]⟩
  · have hab := (holder_of_intlkObs ha).symm.trans (holder_of_intlkObs hb)
    simp at hab
  · simp [intlkObs_of_vin hv, hn]

end Sys2Proof.Machine

/-! The shared pins follow the interlock's holder (O6): each operation that changes the interlock keeps it so; the others
leave the interlock alone. -/

namespace Sys2Proof.Machine

variable {s s' : State} {t : Twin}

/-- What an answer of a meaning leaves, where it is a next state, meets R17. -/
def OutPinsOk : Out → Prop
  | .next s => PinsOk s
  | _ => True

theorem PinsOk.of_ilk (h : PinsOk s) (hi : s'.ilk = s.ilk) : PinsOk s' := by
  intro t ht
  rw [hi] at ht ⊢
  exact h t ht

/-- Nothing has been done yet, and the interlock is as it was. -/
theorem keepsIlk (s : State) : Keeps (· = .ilk) s s := Keeps.refl _ s

/-- An operation that leaves the interlock alone keeps R17. -/
theorem PinsOk.keep (h : PinsOk s) (hk : Keeps (· = .ilk) s s') : PinsOk s' := h.of_ilk (hk.same .ilk rfl)

theorem pinsOk_of_pins_none (h : s.ilk.pins = none) : PinsOk s := fun t ht => by simp [h] at ht

/-- Without a holder no twin drives the pins. -/
theorem PinsOk.pins_none (h : PinsOk s) (hn : s.ilk.holder = none) : s.ilk.pins = none := by
  cases hp : s.ilk.pins with
  | none => rfl
  | some t => simpa [hn] using h t hp

theorem PinsOk.foldl {β : Type} {f : State → β → State} (hf : ∀ s x, PinsOk s → PinsOk (f s x)) (l : List β)
    (h : PinsOk s) : PinsOk (l.foldl f s) := by
  induction l generalizing s with
  | nil => exact h
  | cons x l ih => exact ih (hf s x h)

theorem onBoth_pinsOk (h : PinsOk s) {f : State → Twin → State} (hf : ∀ s t, PinsOk s → PinsOk (f s t)) :
    PinsOk (onBoth f s) := hf _ _ (hf _ _ h)

/-! The interlock's own operations (R16, R17). -/

theorem setPins_ilk (s : State) (p : Option Twin) : (setPins s p).ilk = { s.ilk with pins := p } := by
  have hq : (canQuiet s .a).ilk = s.ilk ∧ (canQuiet s .b).ilk = s.ilk ∧ (canQuiet (canQuiet s .a) .b).ilk = s.ilk := by
    simp [canQuiet]
  have hset : ∀ u, (settleAll u).ilk = u.ilk := fun u =>
    (settleAll_keeps (keepsIlk u) nofun nofun).same .ilk rfl
  obtain ⟨ha, hb, hab⟩ := hq
  cases p with
  | none => simp [setPins, hset, hab]
  | some t => cases t <;> simp [setPins, hset, ha, hb]

theorem setIlkReq_pinsOk (h : PinsOk s) (t : Twin) (v : Bool) : PinsOk (setIlkReq s t v) := by cases t <;> exact h

theorem setIlkLapsed_pinsOk (h : PinsOk s) (t : Twin) (v : Bool) : PinsOk (setIlkLapsed s t v) := by cases t <;> exact h

theorem ilkFree_pinsOk (h : PinsOk s) (t : Twin) : PinsOk (ilkFree s t) := by
  unfold ilkFree
  split
  · exact pinsOk_of_pins_none (by rw [setPins_ilk])
  · exact h

theorem ilkRelease_pinsOk (h : PinsOk s) (t : Twin) : PinsOk (ilkRelease s t) :=
  (ilkFree_pinsOk h t).of_ilk (wf_ilk ..)

theorem execSharedPinSwitch_pinsOk (h : PinsOk s) (t : Twin) : OutPinsOk (execSharedPinSwitch t s) := by
  unfold execSharedPinSwitch
  split
  next hh =>
    split
    · exact h
    · have hp : PinsOk { s with ilk := { s.ilk with pins := some t } } := fun u hu => hh.1.trans hu
      exact hp.keep (takePins_keeps (keepsIlk _) nofun nofun)
  next => exact h

/-! Resets of a twin (R433) and joining (R131). -/

theorem afterReset_pinsOk (h : PinsOk s) (t : Twin) (cause : Nat) : PinsOk (afterReset s t cause) := by
  refine (setIlkLapsed_pinsOk (setIlkReq_pinsOk (ilkRelease_pinsOk h t) t false) t false).keep ?_
  unfold afterReset
  extract_lets s1 s2 s2' s3
  have h3 : Keeps (· = .ilk) s1 s3 := by
    have h2 : Keeps (· = .ilk) s1 s2' := by
      repeat' with_reducible first | exact keepsIlk _ | simp only [reduceCtorEq, not_false_eq_true] | apply wf_keeps | apply cnt_keeps
    exact h2.fields _ _ _ _ _ _ _ _ _ _ (fun _ => rfl) (by simp) (fun _ => rfl) (fun _ => rfl) (fun _ => rfl) (fun _ => rfl)
      (fun _ => rfl) (fun _ => rfl) (fun k => k.cells) (fun k => k.ctx)
  exact budget_keeps (netServe_keeps (onBoth_keeps h3 _ fun _ t k => showLedger_keeps k t nofun) nofun nofun) nofun

theorem resetTwin_pinsOk (h : PinsOk s) (t : Twin) (cause : Nat) : PinsOk (resetTwin s t cause) :=
  afterReset_pinsOk ((ilkRelease_pinsOk h t).of_ilk (by simp)) t cause

theorem updateReset_pinsOk (h : PinsOk s) (t : Twin) : PinsOk (updateReset s t) :=
  resetTwin_pinsOk (h.of_ilk (modFlash_ilk ..)) t 5

/-- A whole reset leaves no holder and no pins (R433). -/
theorem resetWhole_pinsOk (s : State) (cause : Nat) (railsUp : Bool) : PinsOk (resetWhole s cause railsUp) := by
  unfold resetWhole
  extract_lets s1 s2
  have h2 : PinsOk s2 := afterReset_pinsOk (afterReset_pinsOk (pinsOk_of_pins_none rfl) .a cause) .b cause
  split
  · exact h2
  · exact onBoth_pinsOk h2 fun u t hu => hu.of_ilk (by simp)

theorem safeStop_pinsOk (h : PinsOk s) (t : Twin) : PinsOk (safeStop s t) :=
  h.keep (safeStop_keeps (keepsIlk s) t nofun nofun)

theorem setTwState_pinsOk (h : PinsOk s) (t : Twin) (st : Nat) : PinsOk (setTwState s t st) :=
  h.keep (setTwState_keeps (keepsIlk s) t st nofun nofun)

theorem enterJoining_pinsOk (h : PinsOk s) (t : Twin) : PinsOk (enterJoining s t) := by
  unfold enterJoining
  refine setTwState_pinsOk (setIlkReq_pinsOk ?_ t false) t tsJoining
  dsimp only
  split
  · exact h.of_ilk (by simp)
  · exact h

theorem bootJoin_pinsOk (h : PinsOk s) (t : Twin) : PinsOk (bootJoin s t) := by
  have hr := setIlkReq_pinsOk h t false
  unfold bootJoin
  extract_lets
  split
  · exact hr.keep (startRejoin_keeps (keepsIlk _) t false nofun nofun nofun nofun)
  · exact enterJoining_pinsOk hr t

/-! Withdrawal (R144 to R147). -/

theorem withdrawNow_pinsOk (h : PinsOk s) (t : Twin) (cause : Nat) : PinsOk (withdrawNow s t cause) := by
  have hr := ilkRelease_pinsOk (setIlkReq_pinsOk (setIlkLapsed_pinsOk h t false) t false) t
  unfold withdrawNow
  extract_lets
  split
  · exact h
  · refine setTwState_pinsOk (hr.keep ?_) t tsWithdrawn
    repeat' with_reducible first
      | exact keepsIlk _ | simp only [reduceCtorEq, not_false_eq_true] | apply Keeps.dite | apply dropTrial_keeps | apply modTwn_keeps | apply wf_keeps

theorem leaveLead_pinsOk (h : PinsOk s) (t : Twin) (cause : Nat) : PinsOk (leaveLead s t cause) := by
  unfold leaveLead
  extract_lets
  split
  · exact (withdrawNow_pinsOk h t cause).of_ilk (modTwn_ilk ..)
  · exact withdrawNow_pinsOk (safeStop_pinsOk h t) t cause

theorem withdraw_pinsOk (h : PinsOk s) (t : Twin) (cause : Nat) : PinsOk (withdraw s t cause) := by
  unfold withdraw
  split
  · exact h
  · split
    · refine withdrawNow_pinsOk ?_ t cause
      split
      exacts [safeStop_pinsOk h _, h]
    · split
      · exact withdrawNow_pinsOk h t cause
      · split
        exacts [leaveLead_pinsOk h t cause, h.of_ilk (wf_ilk ..)]

/-- Withdrawing a twin where a cause arises, and else leaving it, keeps R17. -/
theorem withdraw_ite_pinsOk {c : Prop} [Decidable c] (h : PinsOk s) (t : Twin) (cause : Nat) :
    PinsOk (if c then withdraw s t cause else s) := by
  split
  exacts [withdraw_pinsOk h t cause, h]

/-! The array cycle and the rate groups (R33, R37, R176). -/

theorem execDispatchDeadline_pinsOk (h : PinsOk s) (t : Twin) : OutPinsOk (execDispatchDeadline t s) := by
  unfold execDispatchDeadline
  split
  · exact h
  · extract_lets n s1 s2 s3 last s4
    have h3 : PinsOk s3 := h.keep (modTwn_keeps (evi_keeps (cnt_keeps (cnt_keeps (modArr_keeps (keepsIlk s) t _ nofun)
      t _ nofun) t _ nofun) t _ 0 nofun) t _ nofun)
    have h4 : PinsOk s4 := by
      unfold s4
      split
      exacts [safeStop_pinsOk h3 t, h3]
    exact withdraw_ite_pinsOk h4 t 4

theorem rgOverrun_pinsOk (h : PinsOk s) (t : Twin) (k : Nat) : PinsOk (rgOverrun s t k) := by
  unfold rgOverrun
  exact withdraw_ite_pinsOk (h.keep (modLaw_keeps (evi_keeps (cnt_keeps (keepsIlk s) t _ nofun) t _ k nofun) t _ nofun)) t 4

theorem execRgDeadline_pinsOk (h : PinsOk s) (t : Twin) (k : Fin 3) : OutPinsOk (execRgDeadline t k s) := by
  unfold execRgDeadline
  extract_lets k
  split
  · exact h
  next s1 s2 _ r _ =>
    have h2 : PinsOk s2 := h.keep (setRuns_keeps (svRecord_keeps (developCopies_keeps (keepsIlk s) t k nofun) t k _ nofun)
      t k _ nofun nofun nofun)
    show PinsOk _
    split
    · exact h2.keep (runOutputs_keeps (modLaw_keeps (keepsIlk s2) t _ nofun) t k nofun nofun nofun)
    · exact rgOverrun_pinsOk h2 t k

theorem scheduleSwitch_pinsOk (h : PinsOk s) (t : Twin) : PinsOk (scheduleSwitch s t) := by
  have h1 := h.keep (modArr_keeps (keepsIlk s) t (fun a => { a with engFailed := false }) nofun)
  unfold scheduleSwitch
  split
  · exact h
  · extract_lets n s1
    split
    · exact h1.of_ilk (by simp [s1])
    · split
      · exact withdraw_pinsOk h1 t 9
      · exact h1.keep (budget_keeps (Keeps.foldl (fun u k hu => wf_keeps hu t _ _ nofun) _
          (ev_keeps (wf_keeps (keepsIlk s1) t _ n nofun) t _ nofun)) nofun)

theorem cycleStart_pinsOk (h : PinsOk s) (t : Twin) (n : Nat) : PinsOk (cycleStart s t n) := by
  unfold cycleStart
  extract_lets a next s1 hold s2 s3
  have h1 : Keeps (· = .ilk) s s1 := by
    unfold s1
    split
    exacts [keepsIlk s, clri_keeps (modArr_keeps (keepsIlk s) t _ nofun) t _ 0 nofun]
  have h2 : Keeps (· = .ilk) s s2 := rg0Deadline_keeps (followWindow_keeps h1 t _ nofun) t nofun nofun nofun nofun
  have h3 : Keeps (· = .ilk) s s3 :=
    Keeps.foldl (fun u c hu => ringFrame_keeps hu t n hold c nofun nofun nofun nofun) _ h2
  exact scheduleSwitch_pinsOk (h.keep (enterCycle_keeps h3 t n hold nofun nofun nofun nofun)) t

theorem execCycleStart_pinsOk (h : PinsOk s) (t : Twin) (n : W32) : OutPinsOk (execCycleStart t n s) := by
  unfold execCycleStart
  split
  exacts [cycleStart_pinsOk h t n.toNat, h]

/-! The interlock's rows and heartbeats (R16, R132 to R134, R149). -/

theorem execInterlockGrant_pinsOk (h : PinsOk s) (t : Twin) (again : GrantAgain) :
    OutPinsOk (execInterlockGrant t again s) := by
  unfold execInterlockGrant
  split
  · exact h
  next hg =>
    simp only [not_or, Option.not_isSome_iff_eq_none] at hg
    have h1 := setIlkReq_pinsOk h t false
    have hn : (setIlkReq s t false).ilk.holder = none := by cases t <;> exact hg.1
    extract_lets st wants s1
    show PinsOk _
    split
    · have hd : (dropRejoin s1 t).ilk = s1.ilk :=
        (dropRejoin_keeps (keepsIlk s1) t nofun nofun nofun nofun).same .ilk rfl
      have hp : PinsOk { dropRejoin s1 t with ilk := { s1.ilk with holder := some t } } :=
        pinsOk_of_pins_none (h1.pins_none hn)
      exact hp.keep (takeLead_keeps (wf_keeps (keepsIlk _) t _ 1 nofun) t _ _ nofun nofun nofun nofun nofun nofun nofun
        nofun nofun nofun)
    · exact h1

theorem execInterlockRelease_pinsOk (h : PinsOk s) (t : Twin) (lost : Bool) :
    OutPinsOk (execInterlockRelease t lost s) := by
  have h1 := ilkRelease_pinsOk h t
  have h2 := setIlkReq_pinsOk h1 t false
  unfold execInterlockRelease
  extract_lets
  show PinsOk _
  split
  · split
    exacts [withdraw_pinsOk h2 t 8, h2]
  · exact h1

theorem execKeepaliveSend_pinsOk (h : PinsOk s) (t : Twin) (acked : Bool) : OutPinsOk (execKeepaliveSend t acked s) := by
  have h1 : PinsOk (modTwn s t fun x => { x with kaSent := x.kaSent + 1 }) := h.of_ilk (modTwn_ilk ..)
  unfold execKeepaliveSend
  split
  · exact h
  · extract_lets s1 holds s2 s3
    split
    · exact h1
    · have h2 : PinsOk s2 := h1.of_ilk (by simp [s2, s1])
      have h3 : PinsOk s3 :=
        (setIlkLapsed_pinsOk h2 t false).keep (twnFlags_keeps (keepsIlk _) t nofun)
      show PinsOk _
      split
      · exact withdraw_pinsOk h3 t 8
      · split
        · exact withdraw_pinsOk h3 t 12
        · split
          exacts [h3, setIlkReq_pinsOk h3 t true]

theorem execKeepaliveLapse_pinsOk (h : PinsOk s) (t : Twin) : OutPinsOk (execKeepaliveLapse t s) := by
  unfold execKeepaliveLapse
  split
  exacts [setIlkLapsed_pinsOk (ilkFree_pinsOk h t) t true, setIlkReq_pinsOk h t false]

theorem execHeartbeatSend_pinsOk (h : PinsOk s) (t : Twin) : OutPinsOk (execHeartbeatSend t s) := by
  unfold execHeartbeatSend
  split
  · exact h
  · refine PinsOk.of_ilk ?_ (modTwn_ilk ..)
    split
    exacts [updateReset_pinsOk h t, h]

theorem execHeartbeatReceive_pinsOk (h : PinsOk s) (t : Twin) (hb : Heartbeat) :
    OutPinsOk (execHeartbeatReceive t hb s) := by
  unfold execHeartbeatReceive
  split
  · exact h
  · extract_lets old s1 s2 s3 booted
    have h1 : Keeps (· = .ilk) s s1 := hearHeartbeat_keeps (keepsIlk s) t hb nofun nofun
    have h3 : PinsOk s3 := h.keep (twnFlags_keeps (Keeps.dite (ev_keeps h1 t _ nofun) h1) t nofun)
    show PinsOk _
    split
    · exact withdraw_pinsOk h3 t 12
    · split
      exacts [bootJoin_pinsOk h3 t, h3]

theorem execIsolatedRejoin_pinsOk (h : PinsOk s) (t : Twin) : OutPinsOk (execIsolatedRejoin t s) := by
  unfold execIsolatedRejoin
  split
  · exact enterJoining_pinsOk (setIlkReq_pinsOk (h.of_ilk (modTwn_ilk ..)) t false) t
  · exact h

/-! Self-tests, hand-over and the update (R143, R148, R155, R158, R160). -/

theorem stDecide_pinsOk (h : PinsOk s) (l : Twin) (lp fp : Bool) : PinsOk (stDecide s l lp fp) := by
  unfold stDecide
  split
  · exact withdraw_pinsOk h l.other 2
  · exact withdraw_pinsOk h l 2
  · exact withdraw_pinsOk (onBoth_pinsOk h fun u t hu => hu.of_ilk (ev_ilk ..)) l.other 3
  · exact withdrawNow_pinsOk (safeStop_pinsOk (withdraw_pinsOk h l.other 2) l) l 2

theorem execFastSelftestComplete_pinsOk (h : PinsOk s) (passA passB : Bool) (unitA unitB : BitVec 16) :
    OutPinsOk (execFastSelftestComplete passA passB unitA unitB s) := by
  unfold execFastSelftestComplete
  extract_lets ranA ranB told s1 s2
  have h1 : Keeps (· = .ilk) s s1 := Keeps.dite (stResult_keeps (keepsIlk s) .a _ _ _ nofun nofun) (keepsIlk s)
  have h2 : PinsOk s2 := h.keep (Keeps.dite (stResult_keeps h1 .b _ _ _ nofun nofun) h1)
  show PinsOk _
  split
  · exact stDecide_pinsOk h2 .a passA passB
  · split
    · exact stDecide_pinsOk h2 .b passB passA
    · exact withdraw_ite_pinsOk (withdraw_ite_pinsOk h2 .a 2) .b 2

theorem execFullSelftestComplete_pinsOk (h : PinsOk s) (t : Twin) (pass : Bool) :
    OutPinsOk (execFullSelftestComplete t pass s) := by
  unfold execFullSelftestComplete
  extract_lets st
  split
  · exact h
  next s1 s2 s3 _ _ s4 s5 _ =>
    have h2 : PinsOk s2 := h.keep (modTwn_keeps (modPwr_keeps (leaveEnd_keeps (keepsIlk s) 1 t nofun nofun) t _ nofun)
      t _ nofun)
    have h5 : PinsOk s5 := h2.of_ilk (by simp [s5, s4, s3])
    show PinsOk _
    split
    · split
      exacts [h5, enterJoining_pinsOk h5 t]
    · exact withdraw_ite_pinsOk h2 t 2

theorem execHandover_pinsOk (h : PinsOk s) (busy : Bool) : OutPinsOk (execHandover busy s) := by
  unfold execHandover
  split
  · exact h
  next l _ =>
    split
    · exact h
    · split
      · exact h.of_ilk (modTwn_ilk ..)
      · split
        · extract_lets rot cause s1 ilk s2 s3 s4 s5 s6 s7 s8 s9
          have h2 : PinsOk s2 := by
            intro u hu
            simp only [s2, setPins_ilk] at hu ⊢
            exact hu
          have h5 : Keeps (· = .ilk) s2 s5 := by
            unfold s5 s4 s3
            repeat' with_reducible first
              | exact keepsIlk _ | simp only [reduceCtorEq, not_false_eq_true] | apply takeEpoch_keeps
              | apply saveEpoch_keeps | apply modTwn_keeps | apply wf_keeps
          have h7 : Keeps (· = .ilk) s2 s7 := setTwState_keeps (setTwState_keeps (wf_keeps (wf_keeps h5 l _ _ nofun) l.other _ _
            nofun) l _ nofun nofun) l.other _ nofun nofun
          have h8 : Keeps (· = .ilk) s2 s8 := Keeps.dite (onBoth_keeps h7 _ fun u t hu => modTwn_keeps (ev_keeps
            (cnt_keeps hu t _ nofun) t _ nofun) t _ nofun) h7
          exact withdraw_ite_pinsOk (h2.keep (reserveCheck_keeps h8 l.other nofun nofun nofun)) l cause
        · exact h.of_ilk (modTwn_ilk ..)

theorem execBackgroundSelftestSlice_pinsOk (h : PinsOk s) (t : Twin) (item : Fin 6) (corrected : W32)
    (uncorrectable passDone : Bool) (coverage : Fin 101) :
    OutPinsOk (execBackgroundSelftestSlice t item corrected uncorrectable passDone coverage s) := by
  unfold execBackgroundSelftestSlice
  split
  · exact h
  · extract_lets s1 s2
    have h1 : Keeps (· = .ilk) s s1 := Keeps.dite (cntBy_keeps (keepsIlk s) t _ _ nofun) (keepsIlk s)
    have h2 : Keeps (· = .ilk) s s2 := Keeps.dite (modTwn_keeps h1 t _ nofun) h1
    show PinsOk _
    split
    · exact withdraw_pinsOk (h.keep (Keeps.dite (cnt_keeps h2 t _ nofun) h2)) t 2
    · exact h.keep h2

/-! Supplies and clocks (R431, R442, R451). -/

theorem goodCleared_pinsOk (h : PinsOk s) (i : Nat) : PinsOk (onBoth (fun s u => clri s u R.PWR_STATUS_GOOD i) s) :=
  onBoth_pinsOk h fun _ _ hu => hu.of_ilk (clri_ilk ..)

theorem execVioWindow_pinsOk (h : PinsOk s) : OutPinsOk (execVioWindow s) := by
  have h1 := goodCleared_pinsOk h 1
  unfold execVioWindow
  extract_lets s1
  show PinsOk _
  split
  next l _ =>
    have h2 := withdraw_pinsOk h1 l.other 6
    extract_lets s2
    split
    exacts [withdrawNow_pinsOk (safeStop_pinsOk h2 l) l 6, withdraw_pinsOk h2 l 6]
  · exact onBoth_pinsOk h1 fun u t hu => withdraw_pinsOk hu t 6

theorem execPllLockLoss_pinsOk (h : PinsOk s) (t : Twin) (x : Fin 6) : OutPinsOk (execPllLockLoss t x s) := by
  unfold execPllLockLoss
  extract_lets p s0
  have h0 : PinsOk s0 := h.keep (Keeps.dite (crystalLost_keeps (keepsIlk s) t nofun) (keepsIlk s))
  split
  · exact h0
  next s1 _ =>
    have h1 : PinsOk s1 := h0.of_ilk (by simp [s1])
    show PinsOk _
    split
    · exact withdraw_pinsOk h1 t 5
    · exact h1.keep (adUnlock_keeps (keepsIlk s1) t nofun nofun)
    · exact h1.keep (Keeps.foldl (fun u c hu => setRing_keeps hu t c 0 nofun nofun) _ (keepsIlk s1))
    · exact h1.keep (Keeps.foldl (fun u k hu => portLinkSet_keeps hu _ _ _ _ _ _ _ nofun nofun) _ (keepsIlk s1))
    · exact h1.keep (systemUnlock_keeps (keepsIlk s1) t nofun nofun nofun)

theorem execBootComplete_pinsOk (h : PinsOk s) (t : Twin) (selfTest : Bool) (ms : BitVec 16) :
    OutPinsOk (execBootComplete t selfTest ms s) := by
  unfold execBootComplete
  split
  · exact h
  · extract_lets pick fell lost s1 s2 s3 s4 s5 s6
    have h1 : Keeps (· = .ilk) s s1 := Keeps.dite (ev_keeps (keepsIlk s) t _ nofun) (keepsIlk s)
    have h3 : Keeps (· = .ilk) s s3 := wf_keeps (modFlash_keeps h1 t _ nofun) t _ _ nofun
    have h4 : Keeps (· = .ilk) s s4 := loadImages_keeps h3 t _ nofun nofun nofun
    have h5 : Keeps (· = .ilk) s s5 := Keeps.dite (modFlash_keeps (dropTrial_keeps h4 t nofun nofun) t _ nofun) h4
    have h6 : PinsOk s6 := h.keep (modPwr_keeps h5 t _ nofun)
    have hf := wf_keeps h3 t R.SYS_STATUS_BOOT_FAIL 1 nofun
    show PinsOk _
    split
    · exact h.keep (Keeps.dite (dropTrial_keeps hf t nofun nofun) hf)
    · split
      · exact h.keep (Keeps.dite h5 (dropTrial_keeps h5 t nofun nofun))
      · split
        exacts [bootJoin_pinsOk h6 t, h6]

end Sys2Proof.Machine

/-! What a stored register word and the host's commands do with the interlock, and every command together (O6). -/

namespace Sys2Proof.Machine

variable {s s' : State} {t : Twin}

/-! What a stored word starts (R11, R407, R483). -/

theorem ran_pinsOk (h : PinsOk s) {o : Out} (ho : OutPinsOk o) : PinsOk (ran s o) := by
  unfold ran
  split
  exacts [ho, h]

theorem onReq_pinsOk (h : PinsOk s) (c : Bool) {f : State → State} (hf : ∀ s, PinsOk s → PinsOk (f s)) :
    PinsOk (onReq c f s) := by
  unfold onReq
  split
  exacts [hf s h, h]

theorem OutPinsOk.keep {o : Out} (h : PinsOk s) (ho : OutKeeps (· = .ilk) s o) : OutPinsOk o := by
  cases o with
  | next u => exact h.keep ho
  | fault | refused => trivial

theorem execWithdraw_pinsOk (h : PinsOk s) (t : Twin) : OutPinsOk (execWithdraw t s) :=
  withdraw_pinsOk (h.of_ilk (say_ilk ..)) t 1

theorem execResetTwin_pinsOk (h : PinsOk s) (t : Twin) : OutPinsOk (execResetTwin t s) := by
  unfold execResetTwin
  split
  exacts [resetTwin_pinsOk (h.of_ilk (say_ilk ..)) t 4, h.of_ilk (say_ilk ..)]

/-- A request carried to each twin that is addressed, one after another. -/
theorem eachTwin_pinsOk (h : PinsOk s) (c : Bool) (ts : List Twin) {f : Twin → State → Out}
    (hf : ∀ t s, PinsOk s → OutPinsOk (f t s)) :
    PinsOk (onReq c (fun s => ts.foldl (fun s t => onReq true (fun s => ran s (f t s)) s) s) s) :=
  onReq_pinsOk h c fun _ hs =>
    PinsOk.foldl (fun _ t hs => onReq_pinsOk hs true fun u hu => ran_pinsOk hu (hf t u hu)) ts hs

theorem sysAct_pinsOk (h : PinsOk s) (tg : Target) (ts : List Twin) (b : Nat) (old v : W32) :
    PinsOk (sysAct s tg ts b old v) := by
  unfold sysAct
  dsimp only
  split
  · refine onReq_pinsOk (eachTwin_pinsOk (onReq_pinsOk (onReq_pinsOk h _ fun u hu => ?_) _ fun u hu => ?_) _ ts
      fun t u hu => execResetTwin_pinsOk hu t) _ fun u hu => ran_pinsOk hu ?_
    · exact hu.keep (safelightEnter_keeps (keepsIlk u) nofun nofun)
    · exact hu.keep (safelightExit_keeps (keepsIlk u) nofun nofun)
    · exact .keep hu (execRatchet_keeps (keepsIlk u) _ nofun)
  · split
    · exact ran_pinsOk h (.keep h (execLifecycleLock_keeps (keepsIlk s) v nofun nofun))
    · split
      · exact PinsOk.foldl (fun _ t hs => onReq_pinsOk hs true fun u hu => ran_pinsOk hu
          (.keep hu (execKeyRevoke_keeps (keepsIlk u) t _ _ nofun nofun))) ts h
      · split
        · exact eachTwin_pinsOk (eachTwin_pinsOk h _ ts fun t u hu =>
            .keep hu (execRampStart_keeps (keepsIlk u) t nofun nofun nofun)) _ ts fun t u hu =>
            .keep hu (execRampAbort_keeps (keepsIlk u) t _ nofun nofun)
        · split
          · refine onBoth_pinsOk h fun u t hu => ?_
            split
            exacts [hu, hu.of_ilk (wr_ilk ..)]
          · split
            · exact onReq_pinsOk (eachTwin_pinsOk (eachTwin_pinsOk h _ ts fun t u hu => execWithdraw_pinsOk hu t) _ ts
                fun t u hu => .keep hu (execRejoin_keeps (keepsIlk u) t nofun nofun nofun nofun)) _ fun u hu =>
                ran_pinsOk hu (.keep hu (execRotateNow_keeps (keepsIlk u) _ nofun))
            · exact h

theorem act_pinsOk (h : PinsOk s) (tg : Target) (ts : List Twin) (ctx : Nat) (r : RegRow) (a : Nat) (old v : W32) :
    PinsOk (act s tg ts ctx r a old v) := by
  unfold act
  extract_lets ix k j
  have harr := h.keep (arrAct_keeps (keepsIlk s) ts r.base k old v nofun nofun nofun nofun nofun)
  have hedge := h.keep (edgeAct_keeps (keepsIlk s) ts r.base k v nofun nofun nofun)
  have hadc := h.keep (adcAct_keeps (keepsIlk s) ts r.base k j v nofun nofun nofun nofun)
  have hnet := h.keep (netAct_keeps (keepsIlk s) ts r.base k j old v nofun nofun nofun nofun nofun nofun nofun)
  have hsaf := h.keep (safAct_keeps (keepsIlk s) ts ctx r.base k old v nofun nofun nofun nofun nofun nofun nofun nofun
    nofun nofun)
  have hdrv := h.keep (drvAct_keeps (keepsIlk s) tg ts r.base k old v nofun nofun nofun nofun)
  have hlaw := h.keep (lawAct_keeps (keepsIlk s) tg ts r.base k j v nofun nofun nofun nofun nofun)
  have hsys := sysAct_pinsOk h tg ts r.base old v
  split
  all_goals first | assumption | (split <;> assumption)

theorem refused_pinsOk (h : PinsOk s) (h' : PinsOk s') (b : Nat) : PinsOk (refused s s' b) := by
  unfold refused
  extract_lets
  split
  · exact h'
  · split
    exacts [h', PinsOk.of_ilk (onBoth_pinsOk h fun u t hu => hu.of_ilk (wr_ilk ..)) (say_ilk ..)]

theorem writeEach_pinsOk (h : PinsOk s) (tg : Target) (ctx a : Nat) (f : Twin → W32) :
    PinsOk (writeEach s tg ctx a f) := by
  have hsay : ∀ code, PinsOk (say s code) := fun code => h.of_ilk (say_ilk ..)
  have hstore : ∀ r, PinsOk ((writeTwins s tg).foldl (fun s t => storeWord r a (f t) s t) (say s Rc.OK)) := fun r =>
    (hsay Rc.OK).keep (Keeps.foldl (fun u t hu => storeWord_keeps hu r a (f t) t nofun nofun) _ (keepsIlk _))
  unfold writeEach
  extract_lets ts v
  split
  · exact hsay _
  next r _ =>
    extract_lets
    split
    · exact hsay _
    · split
      exacts [hsay _, refused_pinsOk h (act_pinsOk (hstore r) tg ts ctx r a _ v) r.base]

/-! Changes and commands of the host (R404 to R412). -/

theorem runEntries_pinsOk {s0 : State} (h0 : PinsOk s0) (h : PinsOk s) (tg : Target) (ctx : Nat) (first : Bool)
    (es : List Entry) : PinsOk (runEntries tg ctx s0 first es s).1 := by
  induction es generalizing first s with
  | nil => exact h
  | cons e r ih =>
    have hw := writeEach_pinsOk (h.of_ilk (say_ilk s Rc.OK)) tg ctx e.addr.toNat fun t => entryValue s t e
    simp only [runEntries]
    split
    · exact ih hw _
    · cases first with
      | true => exact hw
      | false => exact h0.of_ilk (say_ilk ..)

theorem judgeChange_pinsOk (h : PinsOk s) (tg : Target) (ctx : Nat) (es : List Entry) :
    PinsOk (judgeChange s tg ctx es).1 := by
  have hd : ∀ p, PinsOk (dropPend s p) := fun p => h.keep (dropPend_keeps (keepsIlk s) p nofun nofun)
  unfold judgeChange
  split
  · split
    · exact h
    · split
      · exact h
      · split
        · exact h.keep (safetyConfirm_keeps (keepsIlk s) ctx _ nofun nofun nofun)
        · dsimp only
          split
          exacts [hd _, h]
  · dsimp only
    split
    exacts [runEntries_pinsOk h h tg ctx true es, h]

theorem opChange_pinsOk (h : PinsOk s) (q : Queued) (target : Nat) (cycle : W32) (whole : Bool) (es : List Entry) :
    PinsOk (opChange q target cycle whole es s).1 := by
  unfold opChange
  split
  · exact h
  next tg _ =>
    have hj := judgeChange_pinsOk h tg q.ctx es
    split
    · exact h
    · split
      · exact h.keep (paramWrite_keeps (keepsIlk s) tg q.ctx _ _ nofun nofun)
      · extract_lets n t due j
        split
        · exact hj
        · split
          · exact h
          · split
            exacts [h, hj.keep (holdChange_keeps (keepsIlk _) q tg _ es _ nofun)]

theorem opWrite_pinsOk (h : PinsOk s) (q : Queued) (target : Nat) (cycle addr : W32) (vs : List W32) :
    PinsOk (opWrite q target cycle addr vs s).1 := by
  unfold opWrite
  split
  exacts [h, opChange_pinsOk h q target cycle true _]

theorem opChangeSet_pinsOk (h : PinsOk s) (q : Queued) (target : Nat) (cycle : W32) (es : List Entry) :
    PinsOk (opChangeSet q target cycle es s).1 := by
  unfold opChangeSet
  split
  exacts [h, opChange_pinsOk h q target cycle false es]

theorem opUpdate_pinsOk (h : PinsOk s) (ctx : Nat) : PinsOk (opUpdate ctx s).1 := by
  unfold opUpdate
  extract_lets o
  split
  · exact h
  · split
    · exact h
    · split
      exacts [h, withdraw_pinsOk h o 10]

theorem opFromPacket_pinsOk (h : PinsOk s) (q : Queued) : PinsOk (opFromPacket q s).1 := by
  have hs := keepsIlk s
  unfold opFromPacket
  extract_lets p ctx n w bad
  split
  · exact h
  · split
    · exact h
    · exact h.keep (opIdentify_keeps hs)
    · exact h.keep (opStatus_keeps hs)
    · exact h.keep (opKeyRoll_keeps hs q _ true nofun nofun nofun nofun)
    · exact h.keep (opCredits_keeps hs ctx)
    · exact h.keep (opRead_keeps hs _ _ _ nofun nofun)
    · split
      exacts [h, opWrite_pinsOk h q _ _ _ _]
    · exact opChange_pinsOk h q _ _ false _
    · split
      exacts [h, opChangeSet_pinsOk h q _ _ _]
    · exact h.keep (opCancel_keeps hs q _ nofun nofun nofun nofun nofun nofun)
    · exact h.keep (opListChanges_keeps hs)
    · exact h.keep (opTake_keeps hs ctx _ _ nofun nofun nofun nofun nofun nofun)
    · exact h.keep (opRelease_keeps hs ctx _ nofun)
    · exact h.keep (opOwners_keeps hs)
    · exact h.keep (opFlashOpen_keeps hs q _ _ _ nofun nofun nofun)
    · split
      exacts [h, h.keep (opFlashWrite_keeps hs ctx _ _ _ nofun)]
    · exact h.keep (opFlashClose_keeps hs ctx _ nofun nofun nofun)
    · exact h.keep (opFlashAbort_keeps hs ctx _ nofun nofun nofun)
    · exact opUpdate_pinsOk h ctx
    · exact h.keep (opReport_keeps hs _ _ _)
    · exact h.keep (opEvents_keeps hs)
    · exact h.keep (opStreamRead_keeps hs ctx _ _ _ nofun nofun)
    · exact h.keep (opStreamFlush_keeps hs ctx _ _ nofun nofun)
    · exact h.keep (opNegDump_keeps hs ctx _ _ nofun nofun nofun)
    · split <;> exact h

theorem reply_pinsOk (h : PinsOk s) (q : Queued) (code : Nat) (data : List Byte) : PinsOk (reply s q code data) :=
  h.keep (reply_keeps (keepsIlk s) q code data nofun nofun nofun nofun nofun nofun)

theorem runCmd_pinsOk (h : PinsOk s) (q : Queued) {f : State → State × Res} (hf : ∀ s, PinsOk s → PinsOk (f s).1) :
    PinsOk (runCmd q f s) := by
  unfold runCmd
  split
  · exact h
  · extract_lets r
    have hr : PinsOk r.1 := hf _ (h.keep (say_keeps (hostCnt_keeps (keepsIlk s) _ q.ctx nofun) Rc.OK))
    split
    · exact reply_pinsOk hr q _ _
    · exact hr.keep (replyWith_keeps (keepsIlk _) _ q _ _ _ nofun nofun nofun nofun nofun nofun)
    · exact hr.keep (showCtx_keeps (modHost_keeps (keepsIlk _) _ id nofun) q.ctx nofun)
    · exact hr.keep (showCtx_keeps (keepsIlk _) q.ctx nofun)

theorem serveCmd_pinsOk (h : PinsOk s) (ctx i : Nat) : PinsOk (serveCmd s ctx i) := by
  unfold serveCmd
  split
  · exact h
  next q _ =>
    extract_lets s1
    have h1 : PinsOk s1 := runCmd_pinsOk (h.keep (modCtx_keeps (keepsIlk s) ctx _ nofun)) q
      fun u hu => opFromPacket_pinsOk hu q
    split
    exacts [h1.keep (onLive_keeps (keepsIlk s1) _ fun u t hu => gate_keeps hu t 6 nofun), h1]

theorem execCommandExecute_pinsOk (h : PinsOk s) (load : Fin 101) : OutPinsOk (execCommandExecute load s) := by
  unfold execCommandExecute
  show PinsOk _
  split
  · exact h
  · extract_lets s1
    have h1 : PinsOk s1 := h.keep (Keeps.foldl (fun u k hu => deferLow_keeps hu k nofun nofun) _
      (showLoad_keeps (keepsIlk s) load.val nofun))
    split
    · exact h1
    · exact serveCmd_pinsOk (h1.keep (modHost_keeps (keepsIlk s1) _ id nofun)) _ _

theorem execLowWaitLimit_pinsOk (h : PinsOk s) (ctx : Fin 4) : OutPinsOk (execLowWaitLimit ctx s) := by
  unfold execLowWaitLimit
  show PinsOk _
  split
  · exact h
  · split
    exacts [serveCmd_pinsOk h ctx.val _, h]

theorem developChange_pinsOk (h : PinsOk s) (c : Change) : PinsOk (developChange s c).1 := by
  unfold developChange
  split
  next p _ =>
    have h1 := h.keep (paramDevelop_keeps (keepsIlk s) p nofun nofun nofun)
    dsimp only
    split
    exacts [h1, h.of_ilk (say_ilk ..)]
  · exact runEntries_pinsOk h h c.target c.cmd.ctx true c.entries

theorem answerDeveloped_pinsOk (s0 : State) (h : PinsOk s) (c : Change) : PinsOk (answerDeveloped s0 s c) := by
  unfold answerDeveloped
  split
  · exact reply_pinsOk h c.cmd Rc.OK _
  · exact h.keep (showCtx_keeps (modHost_keeps (keepsIlk s) _ id nofun) c.cmd.ctx nofun)

theorem developOne_pinsOk (h : PinsOk s) (c : Change) : PinsOk (developOne s c) := by
  have hd := developChange_pinsOk h c
  unfold developOne
  extract_lets d s0 s1 s2
  have h0 : Keeps (· = .ilk) d.1 s0 := modHost_keeps (keepsIlk d.1) _ id nofun
  have h1 : Keeps (· = .ilk) d.1 s1 := by
    unfold s1
    split
    exacts [devFailed_keeps h0 c _ nofun, h0]
  have h2 : PinsOk s2 := hd.keep (tellOwners_keeps h1 c nofun)
  split
  · exact h2.keep (showCtx_keeps (keepsIlk s2) c.cmd.ctx nofun)
  · split
    · exact reply_pinsOk h2 c.cmd Rc.OK _
    · split
      · exact reply_pinsOk h2 c.cmd _ _
      · exact answerDeveloped_pinsOk s h2 c

theorem developById_pinsOk (h : PinsOk s) (id : Nat) : PinsOk (developById s id) := by
  unfold developById
  split
  · exact h
  · split
    exacts [developOne_pinsOk h _, h]

theorem execChangeDevelop_pinsOk (h : PinsOk s) (id : BitVec 16) : OutPinsOk (execChangeDevelop id s) := by
  unfold execChangeDevelop
  show PinsOk _
  split
  · exact h
  · split
    exacts [developById_pinsOk (PinsOk.foldl (fun u k hu => developById_pinsOk hu k) _ h) _, h]

/-! Every command and every step. -/

theorem pinsOk_overTemp (h : PinsOk s) (v : Bool) : PinsOk { s with overTemp := v } := h

theorem execOverTemperature_pinsOk (h : PinsOk s) : OutPinsOk (execOverTemperature s) := by
  unfold execOverTemperature
  show PinsOk _
  split
  · exact h
  · exact onBoth_pinsOk (pinsOk_overTemp (resetWhole_pinsOk s 7 false) true) fun u t hu => hu.of_ilk (wf_ilk ..)

theorem execDebugReset_pinsOk (h : PinsOk s) (t : Twin) : OutPinsOk (execDebugReset t s) := by
  unfold execDebugReset
  split
  exacts [h.of_ilk (say_ilk ..), resetTwin_pinsOk (h.of_ilk (say_ilk ..)) t 6]

theorem execUncorrectableEcc_pinsOk (h : PinsOk s) (t : Twin) (region : Fin 4) :
    OutPinsOk (execUncorrectableEcc t region s) := by
  unfold execUncorrectableEcc
  split
  exacts [h, withdraw_pinsOk (h.of_ilk (cnt_ilk ..)) t 11]

theorem ilk_notMem_ofTwin (t : Twin) (l : List TwinField) : Part.ilk ∉ ofTwin t l := by simp [ofTwin]

theorem ilk_notMem_ofBoth (l : List TwinField) : Part.ilk ∉ ofBoth l := by simp [ofBoth, ofTwin]

/-- A command that works on the interlock keeps R17 by the lemma of its row; one that does not leaves the interlock alone. -/
theorem exec_pinsOk (h : PinsOk s) (c : Instr) : OutPinsOk (exec c s) := by
  by_cases hc : Part.ilk ∈ partsOf c
  · cases c
    all_goals simp only [partsOf, List.mem_append, List.mem_cons, List.not_mem_nil, reduceCtorEq, ilk_notMem_ofTwin,
      ilk_notMem_ofBoth, or_self] at hc
    case registerWrite tg a v => exact writeEach_pinsOk h tg _ a.toNat _
    case interlockGrant t again => exact execInterlockGrant_pinsOk h t again
    case sharedPinSwitch t => exact execSharedPinSwitch_pinsOk h t
    case interlockRelease t lost => exact execInterlockRelease_pinsOk h t lost
    case cycleStart t n => exact execCycleStart_pinsOk h t n
    case dispatchDeadline t => exact execDispatchDeadline_pinsOk h t
    case heartbeatSend t => exact execHeartbeatSend_pinsOk h t
    case heartbeatReceive t hb => exact execHeartbeatReceive_pinsOk h t hb
    case keepaliveSend t acked => exact execKeepaliveSend_pinsOk h t acked
    case keepaliveLapse t => exact execKeepaliveLapse_pinsOk h t
    case isolatedRejoin t => exact execIsolatedRejoin_pinsOk h t
    case fastSelftestComplete pa pb ua ub => exact execFastSelftestComplete_pinsOk h pa pb ua ub
    case withdraw t => exact execWithdraw_pinsOk h t
    case fullSelftestComplete t pass => exact execFullSelftestComplete_pinsOk h t pass
    case dieOvertemp t tdie => exact withdraw_ite_pinsOk (h.of_ilk (wf_ilk ..)) t 7
    case handover busy => exact execHandover_pinsOk h busy
    case backgroundSelftestSlice t item k u d v => exact execBackgroundSelftestSlice_pinsOk h t item k u d v
    case soakEnd t => exact withdraw_ite_pinsOk h t.other 10
    case rgDeadline t k => exact execRgDeadline_pinsOk h t k
    case commandExecute load => exact execCommandExecute_pinsOk h load
    case lowWaitLimit ctx => exact execLowWaitLimit_pinsOk h ctx
    case write ctx tg n a w addr vs => exact runCmd_pinsOk h _ fun u hu => opWrite_pinsOk hu _ _ _ _ _
    case modify ctx tg n a w addr m v => exact runCmd_pinsOk h _ fun u hu => opChange_pinsOk hu _ _ _ _ _
    case changeSet ctx tg n a w es => exact runCmd_pinsOk h _ fun u hu => opChangeSet_pinsOk hu _ _ _ _
    case changeDevelop id => exact execChangeDevelop_pinsOk h id
    case update ctx => exact runCmd_pinsOk h _ fun u hu => opUpdate_pinsOk hu ctx.val
    case brownOut => exact resetWhole_pinsOk s 1 false
    case coreRailFault t => exact goodCleared_pinsOk (resetTwin_pinsOk h t 3) _
    case coreRailWindow t => exact withdraw_pinsOk (goodCleared_pinsOk h _) t 6
    case vioWindow => exact execVioWindow_pinsOk h
    case resetN => exact resetWhole_pinsOk s 2 true
    case resetTwin t => exact execResetTwin_pinsOk h t
    case bootComplete t pass ms => exact execBootComplete_pinsOk h t pass ms
    case slackError t => exact withdraw_ite_pinsOk h t 2
    case pllLockLoss t x => exact execPllLockLoss_pinsOk h t x
    case overTemperature => exact execOverTemperature_pinsOk h
    case debugReset t => exact execDebugReset_pinsOk h t
    case uncorrectableEcc t region => exact execUncorrectableEcc_pinsOk h t region
  · exact .keep h (exec_keeps c s fun p hp hi => hc (hi ▸ hp))

/-- Settles O6: the idle tick leaves the interlock alone, and a command keeps R17 by `exec_pinsOk`. -/
theorem onlyTheHolderDrivesThePins : Obligations.OnlyTheHolderDrivesThePins := by
  intro s u h hu
  unfold step at hu
  split at hu
  · cases hu
    exact h.keep (idleTick_keeps (keepsIlk s) nofun)
  next c rest _ =>
    have hc : OutPinsOk (exec c { s with pending := rest }) :=
      exec_pinsOk (s := { s with pending := rest }) (h.of_ilk rfl) c
    rwa [hu] at hc

end Sys2Proof.Machine

/-! The statement on loading, coefficients, swaps, rate-group runs and engine loss (O25) is false: a deadline also
sweeps from a group's queue the runs that were completed and late before it. -/

namespace Sys2Proof.Machine

/-- A run in flight. -/
def runInFlight : RgRun := { tau := 160, snap := [], pos := {} }

/-- A run that has completed and whose deadline has passed. -/
def runOver : RgRun := { runInFlight with done := true, late := true }

/-- The state after reset, but RG1 of twin A still holds a run that is over, before a run in flight. -/
def lawUnswept : State := modLaw State.reset .a (fun l => { l with queue := [(1, [runOver, runInFlight])] })

theorem regsOk_lawUnswept : RegsOk lawUnswept := fun t => by cases t <;> rfl

/-- The deadline of the run in flight takes the run that was over off the queue. -/
theorem rgDeadline_lawUnswept {u : State} (h : exec (.rgDeadline .a 0) lawUnswept = .next u) :
    rgQueue u .a 1 = [{ runInFlight with late := true }] := by
  cases h
  decide +kernel

/-- What the statement names as the queue after that deadline still has both runs. -/
theorem modFirst_lawUnswept : modFirst (fun r => !r.late) (fun r => { r with late := true }) (rgQueue lawUnswept .a 1) =
    [runOver, { runInFlight with late := true }] := by
  decide +kernel

/-- Refutes O25: of a queue [a run over, a run in flight] of RG1 the deadline leaves one run, for it sweeps the queue
(`execRgDeadline`), while the statement names the two runs that were there. -/
theorem not_lawCommandsComplete : ¬ Obligations.LawCommandsComplete := by
  intro h
  obtain ⟨-, -, -, -, -, -, -, -, -, -, -, -, hdeadline, -⟩ := h
  obtain ⟨u, hu, hqueue, -⟩ := hdeadline lawUnswept .a 0 runInFlight regsOk_lawUnswept (by decide +kernel)
    (by decide +kernel) rfl (by decide +kernel)
  have hrun := (rgDeadline_lawUnswept hu).symm.trans (hqueue.trans modFirst_lawUnswept)
  simp at hrun

end Sys2Proof.Machine

/-! The statement on the interlock (O22) is false: at a take-over the replies last sent go out again, and a reply on a CAN
bus sends what its transport still holds. A frame there that is far longer than a CAN frame runs, written into the data
words of its transmit object, over the words behind it up to TWN_STATE. -/

namespace Sys2Proof.Machine

variable {s : State} {t u : Twin}

/-! The data words of an object. -/

theorem putBits_zero_toNat (w : W32) (hi lo : Nat) :
    (putBits w hi lo 0).toNat = w.toNat - w.toNat / 2 ^ lo % 2 ^ (hi + 1 - lo) * 2 ^ lo := by
  rw [putBits, BitVec.toNat_ofNat, Nat.zero_mod, Nat.zero_mul, Nat.add_zero]
  exact Nat.mod_eq_of_lt (Nat.lt_of_le_of_lt (Nat.sub_le _ _) w.isLt)

/-- A word into which four bytes 0 go is 0. -/
theorem dataWord_zero (w : W32) {d : List Byte} {j : Nat} (hd : ∀ i < 4, d[4 * j + i]? = some 0#8) :
    dataWord w d j = 0#32 := by
  have hrange : List.range 4 = [0, 1, 2, 3] := rfl
  apply BitVec.eq_of_toNat_eq
  simp only [dataWord, hrange, List.foldl_cons, List.foldl_nil, hd 0 (by decide), hd 1 (by decide), hd 2 (by decide),
    hd 3 (by decide), BitVec.toNat_zero, putBits_zero_toNat]
  have := w.isLt
  omega

/-- Data bytes of `n` words written into words from address `base` on. -/
def putWords (s : State) (t : Twin) (base : Nat) (d : List Byte) (n : Nat) : State :=
  (List.range n).foldl (fun s j => wr s t (base + 4 * j) (dataWord (rd s t (base + 4 * j)) d j)) s

theorem putData_eq (s : State) (t : Twin) (b m : Nat) (d : List Byte) :
    putData s t b m d = putWords s t (objAddr R.CAN_B_OBJ_DATA b m) d ((d.length + 3) / 4) := rfl

theorem putWords_succ (s : State) (t : Twin) (base : Nat) (d : List Byte) (n : Nat) :
    putWords s t base d (n + 1) = wr (putWords s t base d n) t (base + 4 * n)
      (dataWord (rd (putWords s t base d n) t (base + 4 * n)) d n) := by
  simp only [putWords, List.range_succ, List.foldl_append, List.foldl_cons, List.foldl_nil]

theorem regsOk_putWords (h : RegsOk s) (base : Nat) (d : List Byte) (n : Nat) : RegsOk (putWords s t base d n) := by
  induction n with
  | zero => exact h
  | succ n ih => rw [putWords_succ]; exact ih.wr _ _

/-- A word at or after the end of those written is as it was. -/
theorem rd_putWords_after (h : RegsOk s) {base a n : Nat} (d : List Byte) (ha : base + 4 * n ≤ a) :
    rd (putWords s t base d n) t a = rd s t a := by
  induction n with
  | zero => rfl
  | succ n ih =>
    rw [putWords_succ, rd_wr_ne (regsOk_putWords h base d n) (by omega), ih (by omega)]

/-- The last word written holds its bytes. -/
theorem rd_putWords_last (h : RegsOk s) (base : Nat) (d : List Byte) (n : Nat) :
    rd (putWords s t base d (n + 1)) t (base + 4 * n) = dataWord (rd s t (base + 4 * n)) d n := by
  rw [putWords_succ, rd_wr_same (regsOk_putWords h base d n), rd_putWords_after h d (Nat.le_refl _)]

/-! The transport's queue of frames. -/

theorem can_modCan (h : TabsOk s) (b c : Nat) (f : CanSt → CanSt) :
    can (modCan s t b f) t c = if c = b then f (can s t c) else can s t c := by
  simp only [can, modCan, setTw_tw, tabMod]
  split
  next hc =>
    subst hc
    exact tabGet_tabSet_same (fun _ => ({} : CanSt)) (h.tw t).can _ _
  next hc => exact tabGet_tabSet_ne (fun _ => ({} : CanSt)) (h.tw t).can hc _

theorem iso_modIso (h : TabsOk s) (b i : Nat) (hb : tabWf (fun _ => ({} : IsoSt)) (can s t b).iso = true)
    (f : IsoSt → IsoSt) : iso (modIso s t b i f) t b i = f (iso s t b i) := by
  simp only [iso, modIso, can_modCan h, if_true, tabMod]
  exact tabGet_tabSet_same (fun _ => ({} : IsoSt)) hb _ _

/-! The counterexample: a take-over of an isolated twin. -/

/-- The state in which a twin that is granted the interlock takes the lead (R149). -/
def granted (s : State) (t : Twin) : State :=
  let s1 := setIlkReq s t false
  wf { dropRejoin s1 t with ilk := { s1.ilk with holder := some t } } t R.TWN_STATE_HOLDS 1

/-- A take-over up to the replies that go out again (R149, R154, R305, R351). -/
def takenOver (s : State) (t : Twin) (rerun : Nat) : State :=
  let s1 := cnt (ev (setTwState (takeEpoch (saveEpoch s t) t) t tsLeading) t R.TWN_EVENT_TAKEOVER) t R.TWN_TAKEOVERS
  reexecute (modNet (canRepend s1 t) (fun n => { n with seq := ((s1.tw t).net.seqHeard + 1024) % 65536 })) rerun

/-- Bytes 0 that fill the words from the data of object 126 of CAN bus 0 up to TWN_STATE. -/
@[irreducible] def longFrame : List Byte := List.replicate (4 * 1043507) 0#8

/-- A command of context 0 that came over CAN bus 0. -/
def canQueued : Queued :=
  { ctx := 0, counter := 0, tag := 0, opcode := 0, low := false, waitDev := false, asap := false, params := [],
    via := some .can0, ip := 0, port := 0, deferred := false, execAt := none }

/-- An empty reply to it. -/
def canReplied : Reply := { ctx := 0, counter := 0, opcode := 0, status := 0, info := 0, data := [], bytes := [] }

/-- Twin A is isolated, reaches the arbiter and asks for the interlock; its transport of context 0 holds the long frame,
and one reply has been sent. -/
def longIsolated : State :=
  let s := wf (wf State.reset .a R.TWN_STATE_STATE tsIsolated) .a R.TWN_STATE_ARB_REACH 1
  let s := modIso s .a 0 0 (fun i => { i with out := [longFrame] })
  { s with ilk := { reqA := true }, host := { sent := [(canQueued, canReplied)] } }

/-- It has taken over; what is left are the replies that go out again. -/
def longRepends : State := takenOver (granted longIsolated .a) .a 0

theorem longRepends_facts : longRepends.host.sent = [(canQueued, canReplied)] ∧ computing longRepends .a = true ∧
    objStat longRepends .a 0 126 = 0 ∧ (iso longRepends .a 0 0).reply = [] ∧
    (rd longRepends .a R.TWN_CLAIM).toNat / 2 + 1024 < (rd longRepends .a R.TWN_EPOCH_RES).toNat := by
  decide +kernel

/-! The transports at a take-over. -/

/-- From `s` the transports of a twin have stayed as they were, none with a reply in progress. -/
structure IsoIdle (t : Twin) (s s' : State) : Prop where
  tabs : TabsOk s'
  isos : ∀ b, (can s' t b).iso = (can s t b).iso
  idle : ∀ b h, h < 4 → (iso s t b h).reply = []

theorem IsoIdle.reply {s s' : State} (h : IsoIdle t s s') (b : Nat) {i : Nat} (hi : i < 4) : (iso s' t b i).reply = [] := by
  rw [iso, h.isos]
  exact h.idle b i hi

theorem IsoIdle.keep {s s' s'' : State} (h : IsoIdle t s s') (hk : Keeps (· = .tw t .can) s' s'') : IsoIdle t s s'' := by
  refine ⟨hk.tabs h.tabs, fun b => ?_, h.idle⟩
  have hc : (s''.tw t).can = (s'.tw t).can := hk.same (.tw t .can) rfl
  rw [← h.isos, can, can, hc]

theorem IsoIdle.modCan {s s' : State} (h : IsoIdle t s s') (b : Nat) {f : CanSt → CanSt} (hf : ∀ x, (f x).iso = x.iso) :
    IsoIdle t s (modCan s' t b f) := by
  refine ⟨(modCan_keeps (P := fun _ => False) (Keeps.refl _ s') t b f id).tabs h.tabs, fun c => ?_, h.idle⟩
  rw [← h.isos, can_modCan h.tabs]
  split
  · rw [hf]
  · rfl

/-- Without a reply in progress a take-over leaves the transports alone (R358). -/
theorem IsoIdle.canRepend {s s' : State} (h : IsoIdle t s s') : IsoIdle t s (canRepend s' t) := by
  unfold Machine.canRepend
  refine List.foldlRecOn [0, 1] _ h fun s1 h1 b _ => ?_
  refine List.foldlRecOn [0, 1, 2, 3] _ (?_ : IsoIdle t s _) fun s2 h2 i hi => ?_
  · refine List.foldlRecOn (List.range 128) _ (h1.modCan b fun _ => rfl) fun s3 h3 m _ => ?_
    split
    · exact h3.keep (setStat_keeps (Keeps.refl _ s3) t b m stPending nofun)
    · exact h3
  · have hlt : i < 4 := by simp at hi; omega
    simp only [h2.reply b hlt, List.isEmpty_nil, if_true]
    exact h2

/-- Two frames wait in the transport of a context, the one that stood there and the reply's. -/
theorem isoReply_eq (ht : TabsOk s) {b i : Nat} {d : List Byte} (hw : tabWf (fun _ => ({} : IsoSt)) (can s t b).iso = true)
    (hr : (iso s t b i).reply = []) (ho : (iso s t b i).out = [d]) (hs : objStat s t b (126 - 2 * i) = 0) :
    ∃ s', Keeps (· = .tw t .regs) s s' ∧ isoReply s t b i [] =
      setStat (wf (putData s' t b (126 - 2 * i) (d ++ List.replicate (dlcBytes (dlcFor d.length) true - d.length) 0xCC#8)) t
        (ofld R.CAN_B_OBJ_CTL_DLC b (126 - 2 * i)) (dlcFor d.length)) t b (126 - 2 * i) stPending := by
  have hkeep : ∀ {s1 : State} (f), Keeps (· = .tw t .regs) s s1 → Keeps (· = .tw t .regs) s (modIso s1 t b i f) :=
    fun f hk => modIso_keeps hk t b i f nofun
  obtain ⟨s1, hs1⟩ : ∃ s1, s1 = modIso s t b i (fun x => { x with reply := [], rest := [], waitFc := false }) := ⟨_, rfl⟩
  obtain ⟨s2, hs2⟩ : ∃ s2, s2 = modIso s1 t b i (fun x => { x with out := x.out ++ [[0#8]] }) := ⟨_, rfl⟩
  have hk1 : Keeps (· = .tw t .regs) s s1 := hs1 ▸ hkeep _ (Keeps.refl _ s)
  have hk2 : Keeps (· = .tw t .regs) s s2 := hs2 ▸ hkeep _ hk1
  have hw1 : tabWf (fun _ => ({} : IsoSt)) (can s1 t b).iso = true := by
    rw [hs1, modIso, can_modCan ht, if_pos rfl]
    have hm := tabWf_tabMod ({} : IsoSt) hw i (fun x => { x with reply := [], rest := [], waitFc := false })
    exact hm
  have hout : (iso s2 t b i).out = [d, [0#8]] := by
    rw [hs2, iso_modIso (hk1.tabs ht) b i hw1, hs1, iso_modIso ht b i hw, ho]
    rfl
  have hstat : objStat s2 t b (126 - 2 * i) = 0 := by
    have hregs : (s2.tw t).regs = (s.tw t).regs := hk2.same (.tw t .regs) rfl
    simpa only [objStat, rf, rd, hregs] using hs
  have hstart : isoReply s t b i [] = isoSend s2 t b i := by
    simp only [isoReply, hr, List.isEmpty_nil, if_true, isoStart, List.length_nil, Nat.zero_le, isoQueue, hs2, hs1]
  refine ⟨_, hkeep (fun x => { x with out := [[0#8]] }) hk2, ?_⟩
  rw [hstart, isoSend]
  simp only [hstat, hout]
  rfl

theorem tabsOk_reset : TabsOk State.reset :=
  ⟨fun t => by cases t <;> exact ⟨rfl, rfl, rfl, rfl, rfl, rfl, rfl, rfl⟩, rfl, rfl⟩

theorem regsOk_longIsolated : RegsOk longIsolated :=
  (regsOk_iff _).2 (by decide +kernel)

theorem can_longIsolated (b : Nat) : (can longIsolated .a b).iso = if b = 0 then [(0, { out := [longFrame] })] else [] := by
  split
  next hb => subst hb; rfl
  next hb =>
    rw [can, show (longIsolated.tw .a).can = [(0, { iso := [(0, { out := [longFrame] })] })] from rfl, tabGet, if_neg (Ne.symm hb)]
    split <;> rfl

theorem isoIdle_longIsolated : IsoIdle .a longIsolated longIsolated := by
  refine ⟨(tabsOk_iff _).2 ?_, fun _ => rfl, fun b h _ => ?_⟩
  · obtain ⟨ha, hb, hc, hh⟩ := (tabsOk_iff _).1 (modIso_keeps (P := fun _ => False) (Keeps.refl _ State.reset) .a 0 0
      (fun i => { i with out := [longFrame] }) id |>.tabs tabsOk_reset)
    exact ⟨ha.same rfl rfl rfl rfl rfl rfl rfl rfl, hb, hc, rfl⟩
  · rw [iso, can_longIsolated]
    split
    · cases h <;> rfl
    · rfl

theorem IsoIdle.ilk {s s' : State} (h : IsoIdle t s s') (x : IlkSt) : IsoIdle t s { s' with ilk := x } :=
  ⟨(tabsOk_iff _).2 ((tabsOk_iff s').1 h.tabs), fun b => (h.isos b : _), h.idle⟩

theorem IsoIdle.takenOver {s s' : State} (h : IsoIdle t s s') (rerun : Nat) : IsoIdle t s (takenOver s' t rerun) := by
  have h1 := h.keep (takeEpoch_keeps (saveEpoch_keeps (Keeps.refl _ s') t nofun nofun) t nofun nofun)
  have h2 := h1.keep (setTwState_keeps (Keeps.refl _ _) t tsLeading nofun nofun)
  have h3 := h2.keep (cnt_keeps (ev_keeps (Keeps.refl _ _) t R.TWN_EVENT_TAKEOVER nofun) t R.TWN_TAKEOVERS nofun)
  unfold Machine.takenOver
  exact h3.canRepend.keep (reexecute_keeps (modNet_keeps (Keeps.refl _ _) _ nofun) rerun nofun nofun nofun)

theorem IsoIdle.granted {s s' : State} (h : IsoIdle t s s') : IsoIdle t s (granted s' t) := by
  have h1 := h.keep (dropRejoin_keeps (setIlkReq_keeps (Keeps.refl _ s') t false nofun) t nofun nofun nofun nofun)
  exact (h1.ilk _).keep (wf_keeps (Keeps.refl _ _) t R.TWN_STATE_HOLDS 1 nofun)

theorem isoIdle_longRepends : IsoIdle .a longIsolated longRepends := isoIdle_longIsolated.granted.takenOver 0

theorem regsOk_longRepends : RegsOk longRepends :=
  (regsOk_iff _).2 (by decide +kernel)

/-! The take-over, up to the replies. -/

/-- An isolated twin that asks and reaches the arbiter is granted the interlock. -/
theorem execInterlockGrant_isolated (again : GrantAgain) (hn : s.ilk.holder = none) (hr : ilkReq s t = true)
    (ha : flag s t R.TWN_STATE_ARB_REACH = true) (hs : twState s t = tsIsolated) :
    execInterlockGrant t again s = .next (takeLead (granted s t) t again.resend.toNat again.rerun.toNat) := by
  have hw : (tsIsolated == tsFollowing || tsIsolated == tsIsolated || tsIsolated == tsLeading
    || (tsIsolated == tsBoot && (s.tw t).pwr.bootDone && twOther s t != tsLeading)) = true := rfl
  rw [execInterlockGrant, if_neg (by simp [hn, hr, ha])]
  simp only [hs, hw, if_true, granted]

/-- And so takes over (R149). -/
theorem takeLead_isolated (hs : twState s t = tsIsolated) (resend rerun : Nat) :
    takeLead s t resend rerun = reserveCheck (resendReplies (takenOver s t rerun) resend) t := by
  have ho : twState s t = tsFollowing ∨ twState s t = tsIsolated := .inr hs
  simp only [takeLead, if_pos ho, takenOver]

theorem exec_interlockGrant_longIsolated :
    exec (.interlockGrant .a ⟨1, 0⟩) longIsolated = .next (reserveCheck (resendReplies longRepends 1) .a) := by
  have hg := execInterlockGrant_isolated (s := longIsolated) (t := .a) ⟨1, 0⟩ rfl rfl (by decide +kernel) (by decide +kernel)
  rw [takeLead_isolated (by decide +kernel)] at hg
  exact hg

/-- The reply that went out over CAN bus 0 goes out again, in twin A first. -/
theorem resendReplies_longRepends : resendReplies longRepends 1 =
    onComputing (fun s t => isoReply s t 0 0 []) longRepends := by
  have hsent := longRepends_facts.1
  rw [resendReplies, hsent, List.take_succ_cons, List.take_zero, List.reverse_singleton, List.foldl_cons, List.foldl_nil]
  rfl

/-! What the reply leaves in the registers. -/

theorem length_longFrame : longFrame.length = 4 * 1043507 := by
  rw [longFrame, List.length_replicate]

theorem can_longRepends : (can longRepends .a 0).iso = [(0, { out := [longFrame] })] :=
  (isoIdle_longRepends.isos 0).trans (can_longIsolated 0)

/-- What the reply's sending writes: the long frame as data of object 126, then the object's control word. -/
theorem isoReply_longRepends : ∃ s', (s'.tw .a).regs = (longRepends.tw .a).regs ∧ RegsOk s' ∧
    isoReply longRepends .a 0 0 [] =
      setStat (wf (putWords s' .a 0x1304F40 longFrame (1043506 + 1)) .a (ofld R.CAN_B_OBJ_CTL_DLC 0 126) 15) .a 0 126
        stPending := by
  obtain ⟨-, -, hstat, hreply, -⟩ := longRepends_facts
  have hiso := can_longRepends
  obtain ⟨s', hk, hs'⟩ := isoReply_eq isoIdle_longRepends.tabs (b := 0) (i := 0) (d := longFrame) (by rw [hiso]; rfl) hreply
    (by rw [iso, hiso]; rfl) hstat
  have hpad : dlcBytes (dlcFor (4 * 1043507)) true - 4 * 1043507 = 0 := by decide
  have hdlc : dlcFor (4 * 1043507) = 15 := by decide
  have hwords : (4 * 1043507 + 3) / 4 = 1043506 + 1 := by norm_num
  have hbase : objAddr R.CAN_B_OBJ_DATA 0 (126 - 2 * 0) = 0x1304F40 := by decide
  refine ⟨s', hk.same (.tw .a .regs) rfl, hk.regs regsOk_longRepends, ?_⟩
  rw [hs', length_longFrame, hpad, hdlc, List.replicate_zero, List.append_nil, putData_eq, length_longFrame, hwords, hbase]

/-- From TWN_STATE on nothing else writes. -/
theorem rd_isoReply_longRepends {a : Nat} (ha : a = R.TWN_STATE ∨ R.TWN_STATE + 4 ≤ a) : rd (isoReply longRepends .a 0 0 []) .a a =
    if a = R.TWN_STATE then 0#32 else rd longRepends .a a := by
  obtain ⟨s', hregs, hok, hs'⟩ := isoReply_longRepends
  have hw := regsOk_putWords (t := .a) hok 0x1304F40 longFrame (1043506 + 1)
  have hctl : ∀ f : Fld, f.addr = R.CAN_B_OBJ_CTL → a ≠ (ofld f 0 126).addr := by
    intro f hf
    have : (ofld f 0 126).addr = 0x1304F08 := by rw [ofld, hf]; rfl
    have : R.TWN_STATE = 0x1700008 := rfl
    omega
  rw [hs', setStat, wf, rd_wr_ne (hw.wf _ _) (hctl _ rfl), wf, rd_wr_ne hw (hctl _ rfl)]
  split
  next h =>
    have hbytes : ∀ i < 4, longFrame[4 * 1043506 + i]? = some 0#8 := fun i hi => by
      rw [longFrame, List.getElem?_replicate, if_pos (by omega)]
    have haddr : 0x1304F40 + 4 * 1043506 = R.TWN_STATE := by norm_num [R.TWN_STATE]
    have hlast := rd_putWords_last (t := .a) hok 0x1304F40 longFrame 1043506
    rw [dataWord_zero _ hbytes, haddr] at hlast
    rw [h, hlast]
  next h =>
    have : R.TWN_STATE = 0x1700008 := rfl
    have hafter := ha.resolve_left h
    rw [rd_putWords_after hok longFrame (by omega), rd, hregs, rd]

/-- What twin B does in its own registers leaves twin A's alone. -/
theorem rd_onComputing_a {f : State → Twin → State} (hf : ∀ s, Keeps (· = .tw .a .regs) s (f s .b))
    (hc : computing s .a = true) (a : Nat) : rd (onComputing f s) .a a = rd (f s .a) .a a := by
  have hb : ∀ s', ((if computing s' .b = true then f s' .b else s').tw .a).regs = (s'.tw .a).regs := fun s' => by
    split
    · exact (hf s').same (.tw .a .regs) rfl
    · rfl
  rw [onComputing, onBoth, if_pos hc, rd, hb, rd]

theorem rd_resendReplies_longRepends (a : Nat) :
    rd (resendReplies longRepends 1) .a a = rd (isoReply longRepends .a 0 0 []) .a a := by
  rw [resendReplies_longRepends]
  exact rd_onComputing_a (f := fun s t => isoReply s t 0 0 [])
    (fun s => isoReply_keeps (Keeps.refl _ s) .b 0 0 [] nofun nofun) longRepends_facts.2.1 a

/-- Refutes O22: twin A takes over from ISOLATED while its transport of context 0 on CAN bus 0 holds a frame of four
million bytes 0, and one reply goes out again; the frame's data leave TWN_STATE at 0 (RESET), not LEADING. -/
theorem not_interlockCommandsComplete : ¬ Obligations.InterlockCommandsComplete := by
  intro h
  obtain ⟨hgrant, -⟩ := h
  obtain ⟨u, hu, -, -, hlead, -⟩ := hgrant longIsolated .a 1 0 regsOk_longIsolated rfl rfl (by decide +kernel)
    (.inr (.inl (by decide +kernel)))
  have hres : ¬ (rd (resendReplies longRepends 1) .a R.TWN_EPOCH_RES).toNat ≤
      (rd (resendReplies longRepends 1) .a R.TWN_CLAIM).toNat / 2 + 1024 := by
    obtain ⟨-, -, -, -, hclaim⟩ := longRepends_facts
    rw [rd_resendReplies_longRepends, rd_resendReplies_longRepends, rd_isoReply_longRepends (.inr (by decide)),
      rd_isoReply_longRepends (.inr (by decide)), if_neg (by decide), if_neg (by decide)]
    exact Nat.not_le.2 hclaim
  have hword : rd (resendReplies longRepends 1) .a R.TWN_STATE = 0#32 := by
    rw [rd_resendReplies_longRepends, rd_isoReply_longRepends (.inl rfl), if_pos rfl]
  have hstate : twState (resendReplies longRepends 1) .a = 0 := by
    rw [twState, rf, show R.TWN_STATE_STATE.addr = R.TWN_STATE from rfl, hword]
    rfl
  have hnext := exec_interlockGrant_longIsolated.symm.trans hu
  rw [reserveCheck, if_neg hres] at hnext
  injection hnext with hnext
  rw [← hnext, hstate] at hlead
  exact absurd hlead (by decide)

end Sys2Proof.Machine

/-! The words of the registers that an operation leaves alone, for the statement on the array cycle (O26). -/

namespace Sys2Proof.Machine

variable {K : Nat → Prop} {s0 s s' : State} {t u : Twin}

/-- From `s` the registers have stayed canonical, and the words in `K` of both twins as they were. -/
structure RegsKept (K : Nat → Prop) (s s' : State) : Prop where
  ok : RegsOk s'
  same : ∀ u a, K a → rd s' u a = rd s u a

/-- The registers of either twin. -/
def IsRegs : Part → Prop
  | .tw _ .regs => True
  | _ => False

namespace RegsKept

theorem refl (h : RegsOk s) : RegsKept K s s := ⟨h, fun _ _ _ => rfl⟩

theorem rf (h : RegsKept K s0 s) {f : Fld} (hf : K f.addr) : Machine.rf s u f = Machine.rf s0 u f := by
  rw [Machine.rf, Machine.rf, h.same u _ hf]

theorem flag (h : RegsKept K s0 s) {f : Fld} (hf : K f.addr) : Machine.flag s u f = Machine.flag s0 u f := by
  rw [Machine.flag, Machine.flag, h.rf hf]

/-- An operation that touches no register. -/
theorem keep (h : RegsKept K s0 s) (hk : Keeps IsRegs s s') : RegsKept K s0 s' :=
  ⟨hk.regs h.ok, fun u a ha => by
    have hr : (s'.tw u).regs = (s.tw u).regs := hk.same (.tw u .regs) trivial
    rw [← h.same u a ha, rd, rd, hr]⟩

theorem wr (h : RegsKept K s0 s) {a : Nat} (ha : ¬ K a) (v : W32) : RegsKept K s0 (wr s t a v) :=
  ⟨h.ok.wr a v, fun u b hb => by
    rw [rd_wr h.ok, if_neg (fun (e : u = t ∧ b = a) => ha (e.2 ▸ hb)), h.same u b hb]⟩

theorem wf (h : RegsKept K s0 s) {f : Fld} (hf : ¬ K f.addr) (v : Nat) : RegsKept K s0 (wf s t f v) := h.wr hf _

theorem ev (h : RegsKept K s0 s) {f : Fld} (hf : ¬ K f.addr) : RegsKept K s0 (ev s t f) := h.wf hf 1

theorem evi (h : RegsKept K s0 s) {f : Fld} (hf : ¬ K f.addr) (i : Nat) : RegsKept K s0 (evi s t f i) := h.wr hf _

theorem clri (h : RegsKept K s0 s) {f : Fld} (hf : ¬ K f.addr) (i : Nat) : RegsKept K s0 (clri s t f i) := h.wr hf _

/-- Counting writes the counter and, at saturation, its overflow word (R8). -/
theorem cnt (h : RegsKept K s0 s) {a : Nat} (ha : ¬ K a) (ho : ∀ w i, counterOvf a = some (w, i) → ¬ K w) :
    RegsKept K s0 (cnt s t a) := by
  unfold Machine.cnt cntBy
  split
  · exact h.wr ha _
  · unfold setOvf
    split
    next w i hw => exact (h.wr ha _).wr (ho w i hw) _
    next => exact h.wr ha _

theorem foldl {β : Type} {f : State → β → State} {l : List β} (h : RegsKept K s0 s)
    (hf : ∀ s x, x ∈ l → RegsKept K s0 s → RegsKept K s0 (f s x)) : RegsKept K s0 (l.foldl f s) :=
  List.foldlRecOn l f h fun s hs x hx => hf s x hx hs

theorem ite {c : Prop} [Decidable c] (h : RegsKept K s0 s) (h' : RegsKept K s0 s') :
    RegsKept K s0 (if c then s else s') := by
  split
  · exact h
  · exact h'

theorem onBoth {f : State → Twin → State} (h : RegsKept K s0 s) (hf : ∀ s t, RegsKept K s0 s → RegsKept K s0 (f s t)) :
    RegsKept K s0 (onBoth f s) := hf _ _ (hf _ _ h)

theorem onLive {f : State → Twin → State} (h : RegsKept K s0 s) (hf : ∀ s t, RegsKept K s0 s → RegsKept K s0 (f s t)) :
    RegsKept K s0 (onLive f s) := h.onBoth fun s t hs => hs.ite (hf s t hs)

end RegsKept

/-! TWN_STATE: who serves, the budget and a demand leave it alone. -/

/-- TWN_STATE is kept. -/
abbrev StateKept := RegsKept (· = R.TWN_STATE)

theorem stateKept_budget (h : StateKept s0 s) : StateKept s0 (budget s) := by
  refine h.onLive fun s t hs => ?_
  have hb := (hs.wf (t := t) (f := R.ARR_BUDGET_MIN_LEN) (by decide) (minLen s t)).wf (t := t) (f := R.ARR_BUDGET_RG0_TIME)
    (by decide) (tRg0Used s t)
  exact (hb.ev (f := R.ARR_EVENT_BUDGET) (by decide)).ite hb

theorem stateKept_showServe (h : StateKept s0 s) (t : Twin) : StateKept s0 (showServe s t) := by
  unfold showServe
  refine RegsKept.foldl ?_ fun s p hp hs => ?_
  · exact ((((h.wf (by decide) _).wf (by decide) _).wf (by decide) _).wf (by decide) _).wf (by decide) _
  · refine hs.wf ?_ _
    simp [npf, fo, R.NET_P_STATUS_SERVING, R.TWN_STATE]
    omega

theorem stateKept_netServe (h : StateKept s0 s) : StateKept s0 (netServe s) :=
  (h.keep (modNet_keeps (Keeps.refl _ s) _ id)).onLive fun _ t hs => stateKept_showServe hs t

theorem stateKept_demand (h : StateKept s0 s) (t : Twin) (k : Nat) : StateKept s0 (demand s t k) := by
  unfold demand
  refine ((RegsKept.ite ?_ h).evi (by decide) k).ev (by decide)
  exact h.keep (onBoth_keeps (Keeps.refl _ s) _ fun s t hs => modTwn_keeps hs t _ id)

end Sys2Proof.Machine

/-! A withdrawal, and the deadline of dispatch (R33, R35, R144). -/

namespace Sys2Proof.Machine

variable {s : State} {t : Twin}

/-- The live flags leave CAUSE alone. -/
theorem cause_twnFlags (h : RegsOk s) : rf (twnFlags s t) t R.TWN_STATE_CAUSE = rf s t R.TWN_STATE_CAUSE := by
  have h1 := h.wf (t := t) R.TWN_STATE_LAST_TWIN
  simp only [twnFlags]
  rw [rf_wf_apart ((((h1 _).wf _ _).wf _ _).wf _ _) (by decide) (by decide) (by decide),
    rf_wf_apart (((h1 _).wf _ _).wf _ _) (by decide) (by decide) (by decide),
    rf_wf_apart ((h1 _).wf _ _) (by decide) (by decide) (by decide),
    rf_wf_apart (h1 _) (by decide) (by decide) (by decide),
    rf_wf_apart h (by decide) (by decide) (by decide)]

/-- Beyond its live flags a change of state writes STATE alone into TWN_STATE. -/
theorem stateKept_setTwState (h : RegsOk s) (t : Twin) (st : Nat) :
    StateKept (twnFlags (wf s t R.TWN_STATE_STATE st) t) (setTwState s t st) :=
  stateKept_budget (stateKept_netServe (RegsKept.refl (regsOk_twnFlags (h.wf _ _))))

theorem twState_setTwState (h : RegsOk s) {st : Nat} (hst : st < 8) : twState (setTwState s t st) t = st := by
  rw [twState, (stateKept_setTwState h t st).rf rfl, rf_twnFlags (h.wf _ _) stateField_state,
    rf_wf_same h _ (by decide) (by decide)]
  exact Nat.mod_eq_of_lt hst

theorem cause_setTwState (h : RegsOk s) (st : Nat) :
    rf (setTwState s t st) t R.TWN_STATE_CAUSE = rf s t R.TWN_STATE_CAUSE := by
  rw [(stateKept_setTwState h t st).rf rfl, cause_twnFlags (h.wf _ _),
    rf_wf_apart h (by decide) (by decide) (by decide)]

theorem cause_dropTrial (h : RegsOk s) : rf (dropTrial s t) t R.TWN_STATE_CAUSE = rf s t R.TWN_STATE_CAUSE := by
  rw [dropTrial, rf_modFlash, rf_wf_apart h (by decide) (by decide) (by decide)]

theorem regsOk_dropTrial (h : RegsOk s) : RegsOk (dropTrial s t) := (regsOk_modFlash _).2 (h.wf _ _)

/-- A twin that is not in RESET withdraws with the cause (R144). -/
theorem withdrawNow_state (h : RegsOk s) (hr : twState s t ≠ tsReset) {cause : Nat} (hc : cause < 16) :
    twState (withdrawNow s t cause) t = tsWithdrawn ∧ rf (withdrawNow s t cause) t R.TWN_STATE_CAUSE = cause := by
  simp only [withdrawNow, if_neg hr]
  obtain ⟨s1, hs1⟩ : ∃ s1, s1 = ilkRelease (setIlkReq (setIlkLapsed s t false) t false) t := ⟨_, rfl⟩
  have h1 : RegsOk s1 := hs1 ▸ (ilkRelease_keeps (P := fun _ => False) (setIlkReq_keeps (setIlkLapsed_keeps
    (Keeps.refl _ s) t false id) t false id) t id id fun _ => id).regs h
  rw [← hs1]
  have hw : ∀ f, RegsOk (modTwn (wf (wf s1 t R.TWN_STATE_CAUSE cause) t R.TWN_STATE_PEND_CAUSE 0) t f) :=
    fun f => (regsOk_modTwn f).2 ((h1.wf _ _).wf _ _)
  have hcause : ∀ f, rf (modTwn (wf (wf s1 t R.TWN_STATE_CAUSE cause) t R.TWN_STATE_PEND_CAUSE 0) t f) t
      R.TWN_STATE_CAUSE = cause := fun f => by
    rw [rf_modTwn, rf_wf_apart (h1.wf _ _) (by decide) (by decide) (by decide), rf_wf_same h1 _ (by decide) (by decide)]
    exact Nat.mod_eq_of_lt hc
  split
  · exact ⟨twState_setTwState (regsOk_dropTrial (hw _)) (by decide),
      (cause_setTwState (regsOk_dropTrial (hw _)) _).trans ((cause_dropTrial (hw _)).trans (hcause _))⟩
  · exact ⟨twState_setTwState (hw _) (by decide), (cause_setTwState (hw _) _).trans (hcause _)⟩

/-- A follower withdraws at once (R144, R146). -/
theorem withdraw_following (h : RegsOk s) (hf : twState s t = tsFollowing) {cause : Nat} (hc : cause < 16) :
    twState (withdraw s t cause) t = tsWithdrawn ∧ rf (withdraw s t cause) t R.TWN_STATE_CAUSE = cause := by
  have hstop := stateKept_demand (RegsKept.refl h) t.other 2
  have hr : ¬ twState (safeStop s t.other) t = tsReset := by
    rw [twState, safeStop, hstop.rf rfl, ← twState, hf]
    decide
  rw [withdraw, if_neg (by rw [hf]; decide), if_pos (by rw [hf]; decide)]
  split
  · exact withdrawNow_state hstop.ok hr hc
  · exact withdrawNow_state h (hf ▸ by decide) hc

/-! Bits of registers. -/

/-- A bit of a field is a bit of its word. -/
theorem nbit_bits (w : W32) {hi lo i : Nat} (hi' : lo + i ≤ hi) : nbit (bits w hi lo) i = w.getLsbD (lo + i) := by
  rw [nbit, bits, beq_eq_decide, ← Nat.testBit_eq_decide_div_mod_eq, Nat.testBit_mod_two_pow, Nat.testBit_div_two_pow,
    decide_eq_true (by omega), Bool.true_and, BitVec.getLsbD, Nat.add_comm]

theorem getLsbD_two_pow {i j : Nat} (hi : i < 32) : (BitVec.ofNat 32 (2 ^ i)).getLsbD j = decide (i = j) := by
  rw [BitVec.getLsbD_ofNat, Nat.testBit_two_pow]
  by_cases hj : i = j
  · simp [hj, hj ▸ hi]
  · simp [hj]

theorem biti_evi_same (h : RegsOk s) {f : Fld} {i : Nat} (hi : f.lo + i ≤ f.hi) (h32 : f.hi < 32) :
    biti (evi s t f i) t f i = true := by
  rw [biti, rf, evi, rd_wr_same h, nbit_bits _ hi, BitVec.getLsbD_or, getLsbD_two_pow (by omega)]
  simp

theorem biti_clri_same (h : RegsOk s) {f : Fld} {i : Nat} (hi : f.lo + i ≤ f.hi) (h32 : f.hi < 32) :
    biti (clri s t f i) t f i = false := by
  rw [biti, rf, clri, rd_wr_same h, nbit_bits _ hi, BitVec.getLsbD_and, BitVec.getLsbD_not, getLsbD_two_pow (by omega)]
  simp

/-! The deadline of dispatch. -/

/-- The overrun of dispatch is noted: HOLD for the next frame, and the counts (R33, R35). -/
def dispatchOverrun (s : State) (t : Twin) : State :=
  let s1 := modArr s t (fun a => { a with hold := true, overN := some (s.tw t).arr.n })
  let s2 := evi (cnt (cnt s1 t R.TWN_OVERRUNS) t R.LAW_RG_OVR) t R.LAW_EVENT_OVR_RG 0
  modTwn s2 t (fun x => { x with overrunRun := x.overrunRun + 1, missRun := x.missRun + 1 })

/-- The word of an overflow flag is not TWN_STATE, where the counter's block says so. -/
theorem counterOvf_ne {a b : Nat} (h : ((counterOvf a).all fun p => p.1 != b) = true) :
    ∀ w i, counterOvf a = some (w, i) → ¬ w = b := by
  intro w i hw
  simpa [hw] using h

theorem regsOk_modArr (h : RegsOk s) (f : ArrSt → ArrSt) : RegsOk (modArr s t f) :=
  (modArr_keeps (P := fun _ => False) (Keeps.refl _ s) t f id).regs h

theorem stateKept_dispatchOverrun (h : RegsOk s) : StateKept s (dispatchOverrun s t) := by
  have h1 := ((RegsKept.refl (K := (· = R.TWN_STATE)) h).keep (modArr_keeps (Keeps.refl _ s) t
    (fun a => { a with hold := true, overN := some (s.tw t).arr.n }) id)).cnt (t := t) (a := R.TWN_OVERRUNS) (by decide)
    (counterOvf_ne (by decide +kernel))
  have h2 := (h1.cnt (t := t) (a := R.LAW_RG_OVR) (by decide) (counterOvf_ne (by decide +kernel))).evi (t := t)
    (f := R.LAW_EVENT_OVR_RG) (by decide) 0
  unfold dispatchOverrun
  exact h2.keep (modTwn_keeps (Keeps.refl _ _) t _ id)

theorem biti_dispatchOverrun (h : RegsOk s) : biti (dispatchOverrun s t) t R.LAW_EVENT_OVR_RG 0 = true := by
  rw [dispatchOverrun, biti, rf_modTwn]
  exact biti_evi_same (regsOk_cnt (regsOk_cnt (regsOk_modArr h _) _) _) (by decide) (by decide)

theorem dispatchOverrun_arr (s : State) (t : Twin) : ((dispatchOverrun s t).tw t).arr =
    { (s.tw t).arr with hold := true, overN := some (s.tw t).arr.n } := by
  simp [dispatchOverrun, modArr]

theorem dispatchOverrun_twn (s : State) (t : Twin) : ((dispatchOverrun s t).tw t).twn =
    { (s.tw t).twn with overrunRun := (s.tw t).twn.overrunRun + 1, missRun := (s.tw t).twn.missRun + 1 } := by
  simp [dispatchOverrun, modArr]

/-- A dispatch that is late without having been held runs into its deadline (R33, R147). -/
theorem execDispatchDeadline_late (hc : computing s t = true) (hd : (s.tw t).arr.dispatched = false)
    (hh : (s.tw t).arr.hold = false) : execDispatchDeadline t s =
      let s3 := dispatchOverrun s t
      let last := twState s t == tsLeading && twOther s t != tsFollowing
      let s4 := if last ∧ 8 ≤ (s3.tw t).twn.missRun then safeStop s3 t else s3
      .next (if 3 ≤ (s3.tw t).twn.overrunRun then withdraw s4 t 4 else s4) := by
  rw [execDispatchDeadline, if_neg (by simp [hc, hd, hh])]
  rfl

/-- The first two overruns in a row (R33, R35). -/
theorem execDispatchDeadline_counts (h : RegsOk s) (hc : computing s t = true) (hd : (s.tw t).arr.dispatched = false)
    (hh : (s.tw t).arr.hold = false) (ho : (s.tw t).twn.overrunRun < 2) (hm : (s.tw t).twn.missRun < 7) :
    ∃ u, execDispatchDeadline t s = .next u ∧ (u.tw t).arr.hold = true ∧ (u.tw t).arr.overN = some (s.tw t).arr.n ∧
      (u.tw t).twn.overrunRun = (s.tw t).twn.overrunRun + 1 ∧ biti u t R.LAW_EVENT_OVR_RG 0 = true ∧
      twState u t = twState s t := by
  refine ⟨dispatchOverrun s t, ?_, by rw [dispatchOverrun_arr], by rw [dispatchOverrun_arr], by rw [dispatchOverrun_twn],
    biti_dispatchOverrun h, (stateKept_dispatchOverrun h).rf rfl⟩
  rw [execDispatchDeadline_late hc hd hh]
  simp only [dispatchOverrun_twn]
  rw [if_neg (by omega), if_neg (by omega)]

/-- The third in a row withdraws a follower with cause 4 (R35). -/
theorem execDispatchDeadline_withdraws (h : RegsOk s) (hf : twState s t = tsFollowing)
    (hd : (s.tw t).arr.dispatched = false) (hh : (s.tw t).arr.hold = false) (ho : 2 ≤ (s.tw t).twn.overrunRun) :
    ∃ u, execDispatchDeadline t s = .next u ∧ twState u t = tsWithdrawn ∧ rf u t R.TWN_STATE_CAUSE = 4 := by
  have hk := stateKept_dispatchOverrun (t := t) h
  have hc : computing s t = true := by rw [computing, hf]; decide
  have hw := withdraw_following hk.ok ((hk.rf rfl).trans hf) (cause := 4) (by decide)
  refine ⟨_, ?_, hw⟩
  rw [execDispatchDeadline_late hc hd hh, hf]
  simp only [dispatchOverrun_twn]
  rw [if_pos (by omega), if_neg (by simp [tsFollowing, tsLeading])]

end Sys2Proof.Machine

/-! What the operations of the array leave alone of a twin's array cycle (R29 to R35): agreement, a run and dispatch change
neither the cycle nor what is known of its run, its dispatch and HOLD. -/

namespace Sys2Proof.Machine

variable {α : Type} {g : ArrSt → α} {s0 s s' : State} {t : Twin}

/-- From `s` the part `g` of either twin's array control has stayed as it was. -/
def ArrKept (g : ArrSt → α) (s s' : State) : Prop := ∀ u, g (s'.tw u).arr = g (s.tw u).arr

/-- The array control of either twin. -/
def IsArr : Part → Prop
  | .tw _ .arr => True
  | _ => False

namespace ArrKept

theorem refl (s : State) : ArrKept g s s := fun _ => rfl

/-- An operation that touches no array control. -/
theorem keep (h : ArrKept g s0 s) (hk : Keeps IsArr s s') : ArrKept g s0 s' := fun u => by
  have ha : (s'.tw u).arr = (s.tw u).arr := hk.same (.tw u .arr) trivial
  rw [ha, h u]

/-- A change of the array control that leaves the part alone. -/
theorem modArr (h : ArrKept g s0 s) {f : ArrSt → ArrSt} (hf : ∀ a, g (f a) = g a) : ArrKept g s0 (modArr s t f) := fun u => by
  by_cases hu : u = t
  · subst hu
    rw [Machine.modArr, setTw_tw]
    exact (hf _).trans (h u)
  · rw [Machine.modArr, setTw_tw_ne s hu]
    exact h u

theorem foldl {β : Type} {f : State → β → State} (h : ArrKept g s0 s) (l : List β)
    (hf : ∀ s x, ArrKept g s0 s → ArrKept g s0 (f s x)) : ArrKept g s0 (l.foldl f s) :=
  List.foldlRecOn l f h fun s hs x _ => hf s x hs

theorem ite {c : Prop} [Decidable c] (h : ArrKept g s0 s) (h' : ArrKept g s0 s') : ArrKept g s0 (if c then s else s') := by
  split
  · exact h
  · exact h'

theorem modCellX (hg : ∀ a c, g { a with cells := c } = g a) (h : ArrKept g s0 s) (t : Twin) (k : Nat) (f : CellX → CellX) :
    ArrKept g s0 (modCellX s t k f) := h.modArr fun a => hg a _

theorem modStrX (hg : ∀ a st, g { a with strs := st } = g a) (h : ArrKept g s0 s) (t : Twin) (st : Nat) (f : StrX → StrX) :
    ArrKept g s0 (modStrX s t st f) := h.modArr fun a => hg a _

end ArrKept

/-- The cycle of a twin's array control: its number, the run in progress, its dispatch, HOLD and the phase. -/
def cyclePart (a : ArrSt) : Nat × Nat × Bool × Bool × Bool × Nat := (a.n, a.runN, a.inRun, a.dispatched, a.hold, a.phase)

/-- The cycle is as it was. -/
abbrev CycleKept := ArrKept cyclePart

/-- The window dispatched, and an engine lost since the last cycle start. -/
def windowPart (a : ArrSt) : Tab Slot × Bool := (a.next, a.engFailed)

/-- The window is as it was. -/
abbrev WindowKept := ArrKept windowPart

/-- Emitting a window changes the cells, the strings, the edges and the modulator states (R55, R60). -/
theorem arrKept_commitMods (hg : ∀ a c st e m, g { a with cells := c, strs := st, edges := e, cand := m } = g a)
    (h : ArrKept g s0 s) (t : Twin) : ArrKept g s0 (commitMods s t) := by
  have hcount : ArrKept g s0 (countEdges s t) := (h.foldl _ fun _ _ hs => (hs.modCellX (fun a c => hg a c _ _ _) t _ _).modStrX
    (fun a st => hg a _ st _ _) t _ _).modArr fun a => hg a _ _ _ _
  exact hcount.modArr fun a => hg a _ _ _ _

section
variable (h : CycleKept s0 s) (t : Twin)
include h

theorem cycleKept_modCellX (k : Nat) (f : CellX → CellX) : CycleKept s0 (modCellX s t k f) :=
  h.modCellX (fun _ _ => rfl) t k f

theorem cycleKept_modStrX (st : Nat) (f : StrX → StrX) : CycleKept s0 (modStrX s t st f) :=
  h.modStrX (fun _ _ => rfl) t st f

theorem cycleKept_rerank (st : Nat) : CycleKept s0 (rerank s t st) :=
  (cycleKept_modStrX h t st _).keep (showString_keeps (showRanks_keeps (Keeps.refl _ _) t st id) t st id)

/-! Agreement of a cycle's inputs. -/

theorem cycleKept_dropInserting : CycleKept s0 (dropInserting s t) :=
  h.foldl _ fun _ st hs => cycleKept_rerank (hs.foldl _ fun s k hk => hk.keep (setCellSt_keeps (Keeps.refl _ s) t k _ id)) t st

theorem cycleKept_blockArray (evt : Fld) : CycleKept s0 (blockArray s t evt) := by
  have hd := (cycleKept_dropInserting (h.keep (ev_keeps (wf_keeps (Keeps.refl _ s) t R.ARR_STATUS_BLOCKED 1 id) t evt id)) t).keep
    (demand_keeps (Keeps.refl _ _) t 1 id fun _ => id)
  exact hd.foldl _ fun _ st hs =>
    (hs.foldl _ fun s k hk => hk.keep (setCellSt_keeps (Keeps.refl _ s) t k _ id)).keep (showString_keeps (Keeps.refl _ _) t st id)

theorem cycleKept_insertSpare (k : Nat) (repl : Option Nat) : CycleKept s0 (insertSpare s t k repl) := by
  unfold insertSpare
  split
  · exact (cycleKept_modCellX h t k _).keep (trainChains_keeps (Keeps.refl _ _) _ _ false (fun _ => id) (fun _ => id) id)
  · exact cycleKept_modStrX (cycleKept_modCellX (h.keep (setCellSt_keeps (Keeps.refl _ s) t k _ id)) t k _) t _ _

theorem cycleKept_bypassOne (k cause : Nat) : CycleKept s0 (bypassOne s t k cause) := by
  unfold bypassOne
  have hb := fun v => (cycleKept_modCellX (h.keep (wf_keeps (setCellSt_keeps (Keeps.refl _ s) t k v id) t
    (fo R.CELL_STATE_CAUSE (256 * k)) cause id)) t k (fun x => { x with bypAt := some (s.tw t).arr.n, waits := false })).keep
    (ev_keeps (Keeps.refl _ _) t R.ARR_EVENT_CELL_BYPASSED id)
  exact ((hb _).keep (ev_keeps (Keeps.refl _ _) t R.ARR_EVENT_CELL_LOST id)).ite (hb _)

theorem cycleKept_noteSpare (k : Nat) (rank : Bool) (p : Option Nat) : CycleKept s0 (noteSpare s t k rank p) :=
  h.ite (h.modArr fun _ => rfl)

theorem cycleKept_replaceOne (k : Nat) : CycleKept s0 (replaceOne s t k) := by
  unfold replaceOne
  extract_lets st
  refine h.ite ?_
  split
  · exact cycleKept_noteSpare (cycleKept_insertSpare h t _ _) t _ _ _
  · exact cycleKept_noteSpare (h.keep (ev_keeps (Keeps.refl _ s) t _ id)) t _ _ _

theorem cycleKept_bypassCells (l : List (Nat × Nat)) : CycleKept s0 (bypassCells s t l) := by
  unfold bypassCells
  extract_lets strs s1 s2 s3 s4
  have h1 : CycleKept s0 s1 := h.foldl _ fun _ _ hs => hs.modArr fun _ => rfl
  have h2 : CycleKept s0 s2 := h1.foldl _ fun _ p hs => cycleKept_bypassOne hs t p.1 p.2
  have h3 : CycleKept s0 s3 := h2.foldl _ fun _ p hs => cycleKept_replaceOne hs t p.1
  have h4 : CycleKept s0 s4 := h3.foldl _ fun _ _ hs => cycleKept_rerank (cycleKept_modStrX hs t _ _) t _
  exact (cycleKept_blockArray h4 t _).ite h4

theorem cycleKept_agreeCell (n k : Nat) : CycleKept s0 (agreeCell s t n k) := by
  unfold agreeCell
  extract_lets
  refine ArrKept.foldl ?_ _ fun s r hs => (hs.keep (sensorDiscrepancy_keeps (Keeps.refl _ s) t _ id)).ite hs
  exact cycleKept_modCellX (h.keep (wr_keeps (wr_keeps (wr_keeps (wr_keeps (Keeps.refl _ s) t _ _ id) t _ _ id) t _ _ id)
    t _ _ id)) t k _

theorem cycleKept_agreeCells (n : Nat) : CycleKept s0 (agreeCells s t n) := by
  unfold agreeCells
  extract_lets ks s1 s2 s3 l
  have h1 : CycleKept s0 s1 := h.foldl _ fun _ k hs => cycleKept_agreeCell hs t n k
  have h2 : CycleKept s0 s2 := h1.foldl _ fun _ st hs => hs.foldl _ fun _ k hk => cycleKept_modCellX hk t k _
  have h3 : CycleKept s0 s3 := h2.foldl _ fun s k hs => hs.keep (lowerCause_keeps (Keeps.refl _ s) t k id)
  exact h3.ite (cycleKept_bypassCells h3 t l)

theorem cycleKept_copyAgreed (l : Twin) (k : Nat) : CycleKept s0 (copyAgreed s l t k) := by
  unfold copyAgreed
  extract_lets s1
  have h1 : CycleKept s0 s1 := by
    refine ArrKept.ite (h.foldl _ fun s c hs => ?_) h
    exact cycleKept_modCellX (hs.foldl _ fun s a ha => ha.keep (wr_keeps (Keeps.refl _ s) t _ _ id)) t c _
  split
  · exact h1
  · refine h1.foldl _ fun s p hs => ArrKept.ite (hs.keep ?_) (hs.keep ?_)
    · exact nodeInvalid_keeps (wr_keeps (Keeps.refl _ s) t _ _ id) t _ id
    · exact setNode_keeps (Keeps.refl _ s) t _ _ id id

theorem cycleKept_agreeInputs (k : Nat) (tau : Int) : CycleKept s0 (agreeInputs s t k tau) := by
  unfold agreeInputs
  refine (cycleKept_copyAgreed h t _ k).ite ?_
  extract_lets s1
  have h1 : CycleKept s0 s1 := (cycleKept_agreeCells h t _).ite h
  split
  · exact h1
  next g _ =>
    have h2 := h1.foldl (List.range 8) fun s i hs => hs.keep (svAgree_keeps (Keeps.refl _ s) t g k tau i id id id)
    have h3 := h2.foldl (List.range 32) fun s i hs => hs.keep (gooseAgree_keeps (Keeps.refl _ s) t g k tau i id id)
    have h4 := h3.keep (agreePosition_keeps (Keeps.refl _ _) t g k id id id)
    exact h4.foldl _ fun s e hs => hs.keep (agreeEntry_keeps (Keeps.refl _ s) t g k _ e id id)

/-! A run and the dispatch after it. -/

theorem cycleKept_enterActive (k : Nat) : CycleKept s0 (enterActive s t k) :=
  cycleKept_modCellX (h.keep (wr_keeps (setCellSt_keeps (Keeps.refl _ s) t k _ id) t _ _ id)) t k _

theorem cycleKept_applyRun (st : Nat) : CycleKept s0 (applyRun s t st) := by
  unfold applyRun
  refine h.ite (ArrKept.ite ?_ ?_)
  · extract_lets s1
    have h1 : CycleKept s0 s1 := h.foldl _ fun _ k hs => cycleKept_modCellX (cycleKept_enterActive hs t k) t k _
    exact (h1.keep (showString_keeps (Keeps.refl _ _) t st id)).ite (cycleKept_rerank (cycleKept_modStrX h1 t st _) t st)
  · exact (h.foldl _ fun s k hk => hk.keep (setCellSt_keeps (Keeps.refl _ s) t k _ id)).keep
      (showString_keeps (Keeps.refl _ _) t st id)

theorem cycleKept_insertions (st : Nat) : CycleKept s0 (insertions s t st) := by
  unfold insertions
  extract_lets mean tol
  refine h.foldl _ fun s k hs => ?_
  have h1 : CycleKept s0 (rampTarget s t k mean) := cycleKept_modCellX hs t k _
  exact ((cycleKept_enterActive h1 t k).keep (showString_keeps (Keeps.refl _ _) t st id)).ite h1

theorem cycleKept_cycleSums (st : Nat) : CycleKept s0 (cycleSums s t st) :=
  (cycleKept_modStrX h t st _).foldl _ fun _ k hs => cycleKept_modCellX hs t k _

theorem cycleKept_derate (st : Nat) : CycleKept s0 (derate s t st) := by
  unfold derate
  extract_lets win hist margin vreq d old s1 low s2 s3
  have h1 : CycleKept s0 s1 := cycleKept_modStrX h t st _
  have h2 : CycleKept s0 s2 := h1.keep (wr_keeps (Keeps.refl _ s1) t _ _ id)
  have h3 : CycleKept s0 s3 := (h2.keep (evi_keeps (Keeps.refl _ s2) t _ _ id)).ite (h2.keep (clri_keeps (Keeps.refl _ s2) t _ _ id))
  exact h1.ite ((h3.keep (ev_keeps (Keeps.refl _ s3) t _ id)).ite h3)

theorem cycleKept_stringUpdate (st : Nat) : CycleKept s0 (stringUpdate s t st) :=
  cycleKept_derate (cycleKept_cycleSums (cycleKept_insertions (cycleKept_applyRun h t st) t st) t st) t st

theorem cycleKept_putSlot (k : Nat) (x : Slot) (m : ModSt) : CycleKept s0 (putSlot s t k x m) := h.modArr fun _ => rfl

theorem cycleKept_stillSlot (st k mode : Nat) (phase : Int) (isoBlock faultReset : Bool) :
    CycleKept s0 (stillSlot s t st k mode phase isoBlock faultReset) :=
  cycleKept_modCellX (cycleKept_putSlot h t k _ _) t k _

theorem cycleKept_runSlot (st k n : Nat) (ms : W32) (trims : List (Nat × W32)) :
    CycleKept s0 (runSlot s t st k n ms trims) := by
  have h1 := fun x m v => (cycleKept_putSlot h t k x m).keep (wr_keeps (Keeps.refl _ _) t (R.CELL_MREF + 256 * k) v id)
  have h2 := fun x m v f e => ArrKept.modArr (t := t) (f := fun a => { a with edges := a.edges ++ e })
    (cycleKept_modCellX (h1 x m v) t k f) fun _ => rfl
  exact (h2 _ _ _ _ _).ite ((h2 _ _ _ _ _).keep (cntBy_keeps (Keeps.refl _ _) t _ _ id))

theorem cycleKept_cellSlot (st n : Nat) (ms : W32) (trims : List (Nat × W32)) (k : Nat) :
    CycleKept s0 (cellSlot s t st n ms trims k) := by
  have hstill := cycleKept_stillSlot h t st k
  exact h.ite ((hstill _ _ _ _).ite ((hstill _ _ _ _).ite ((hstill _ _ _ _).ite ((hstill _ _ _ _).ite
    ((cycleKept_runSlot h t st k n ms trims).ite ((hstill _ _ _ _).ite (hstill _ _ _ _)))))))

theorem cycleKept_stringSlots (n st : Nat) : CycleKept s0 (stringSlots s t n st) :=
  h.foldl _ fun _ k hk => cycleKept_cellSlot hk t st n _ _ k

theorem cycleKept_dispatch (n : Nat) : CycleKept s0 (dispatch s t n) := by
  unfold dispatch
  extract_lets sts s1
  have h1 : CycleKept s0 s1 := h.foldl _ fun _ st hs => cycleKept_stringUpdate hs t st
  have h2 := h1.foldl sts fun _ st hs => cycleKept_stringSlots hs t n st
  exact h2.modArr fun _ => rfl

theorem cycleKept_dispatchRun (m : Nat) : CycleKept s0 (dispatchRun s t m) := (cycleKept_dispatch h t m).ite h

theorem cycleKept_cellDispatch (str : Nat) (x : List W32) : CycleKept s0 (cellDispatch s t str x) :=
  h.ite (h.modArr fun _ => rfl)

end

theorem cycleKept_runBlock (h : CycleKept s0 s) (t : Twin) (b0 : State) (g : GraphImg) (k : Nat) (ts : W32)
    (p : GBlock × Nat) : CycleKept s0 (runBlock b0 t g k ts s p) := by
  unfold runBlock
  extract_lets blk b x c l yp o s1 s2 s3 s4 s5
  have h1 : Keeps IsArr s s1 := Keeps.foldl (fun s q hs => setNode_keeps hs t _ _ id id) _ (Keeps.refl _ s)
  have h2 : Keeps IsArr s s2 := setBlkWords_keeps h1 t _ b _ id
  have h3 : Keeps IsArr s s3 := wf_keeps (wf_keeps h2 t _ _ id) t _ _ id
  have h4 : Keeps IsArr s s4 := wf_keeps h3 t _ _ id
  have h5 : Keeps IsArr s s5 := modLaw_keeps h4 t _ id
  have h6 := fun f => modLaw_keeps (wf_keeps (wf_keeps (wf_keeps h5 t (bf R.LAW_BLK_STATUS_PHASE b) o.phase id) t
    (bf R.LAW_BLK_STATUS_ACTIVE b) o.active id) t (bf R.LAW_BLK_STATUS_TARGET b) o.target id) t f id
  refine (cycleKept_cellDispatch h t _ _).ite (h.keep (Keeps.dite ?_ (Keeps.dite ?_ h5)))
  · exact blockFault_keeps (Keeps.refl _ s) t b id id
  · exact selectorTracks_keeps (h6 _) t g blk o fun _ => id

theorem cycleKept_runGroup (h : CycleKept s0 s) (t : Twin) (k : Nat) : CycleKept s0 (runGroup s t k) := by
  unfold runGroup
  split
  · exact h
  · exact h.foldl _ fun _ p hs => cycleKept_runBlock hs t _ _ _ _ p

end Sys2Proof.Machine

/-! The array cycle (R29 to R35): agreement closes, RG0's run completes, and the next cycle starts. -/

namespace Sys2Proof.Machine

variable {s0 s s' : State} {t u : Twin}

theorem rf_modArr (s : State) (t u : Twin) (f : ArrSt → ArrSt) (g : Fld) : rf (modArr s t f) u g = rf s u g := by
  have hregs : ((modArr s t f).tw u).regs = (s.tw u).regs :=
    (modArr_keeps (P := IsRegs) (Keeps.refl _ s) t f id).same (.tw u .regs) trivial
  rw [rf, rd, hregs, rf, rd]

/-! What CycleKept says, field by field. -/

theorem n_of_cycleKept (h : CycleKept s s') (u : Twin) : (s'.tw u).arr.n = (s.tw u).arr.n := congrArg (·.1) (h u)

theorem runN_of_cycleKept (h : CycleKept s s') (u : Twin) : (s'.tw u).arr.runN = (s.tw u).arr.runN :=
  congrArg (·.2.1) (h u)

theorem inRun_of_cycleKept (h : CycleKept s s') (u : Twin) : (s'.tw u).arr.inRun = (s.tw u).arr.inRun :=
  congrArg (·.2.2.1) (h u)

theorem dispatched_of_cycleKept (h : CycleKept s s') (u : Twin) : (s'.tw u).arr.dispatched = (s.tw u).arr.dispatched :=
  congrArg (·.2.2.2.1) (h u)

theorem hold_of_cycleKept (h : CycleKept s s') (u : Twin) : (s'.tw u).arr.hold = (s.tw u).arr.hold :=
  congrArg (·.2.2.2.2.1) (h u)

theorem phase_of_cycleKept (h : CycleKept s s') (u : Twin) : (s'.tw u).arr.phase = (s.tw u).arr.phase :=
  congrArg (·.2.2.2.2.2) (h u)

/-! Agreement closes (R139). -/

/-- What AGREEMENT_CLOSE does in a twin, up to the bit of the run that it starts. -/
def agreementClosed (s : State) (t : Twin) (gpio : Nat) : State :=
  let m := (s.tw t).arr.runN + 1
  let tau := cycleStartNs s t m * 16
  let s1 := modArr s t (fun a => { a with runN := m, inRun := true })
  let s2 := modPos s1 t (fun p => { p with
    cap := tabSet {} p.cap 0 (capture s t m true tau gpio), starts := p.starts.filter (fun e => decide (m ≤ e.1)) })
  agreeInputs (startTs (snapCopies s2 t 0) t 0) t 0 tau

theorem regsOk_agreementClosed (h : RegsOk s) (gpio : Nat) : RegsOk (agreementClosed s t gpio) :=
  (agreeInputs_keeps (P := fun _ => False) (startTs_keeps (snapCopies_keeps (modPos_keeps (modArr_keeps (Keeps.refl _ s) t _ id)
    t _ id) t 0 id) t 0 id) t 0 _ id id id id (fun _ => id) (fun _ => id) id fun _ => id).regs h

theorem agreementClosed_arr (s : State) (t : Twin) (gpio : Nat) :
    ((agreementClosed s t gpio).tw t).arr.runN = (s.tw t).arr.runN + 1 ∧
      ((agreementClosed s t gpio).tw t).arr.inRun = true := by
  have h1 : CycleKept (modArr s t (fun a => { a with runN := (s.tw t).arr.runN + 1, inRun := true }))
      (agreementClosed s t gpio) := by
    unfold agreementClosed
    extract_lets m tau s1 s2
    exact cycleKept_agreeInputs ((ArrKept.refl s1).keep (startTs_keeps (snapCopies_keeps (modPos_keeps (Keeps.refl _ s1) t _ id)
      t 0 id) t 0 id)) t 0 _
  rw [runN_of_cycleKept h1, inRun_of_cycleKept h1, modArr, setTw_tw]
  exact ⟨rfl, rfl⟩

theorem execAgreementClose_closes (h : RegsOk s) (gpio : BitVec 12) (hc : computing s t = true)
    (hi : (s.tw t).arr.inRun = false) (hset : setEnded s t ((s.tw t).arr.runN + 1) = true)
    (hother : otherReady s t ((s.tw t).arr.runN + 1) = true)
    (hsampled : sampled s t 0 (cycleStartNs s t ((s.tw t).arr.runN + 1) * 16) = true) :
    ∃ u, execAgreementClose t gpio s = .next u ∧ (u.tw t).arr.runN = (s.tw t).arr.runN + 1 ∧ (u.tw t).arr.inRun = true ∧
      biti u t R.LAW_STATUS_RUNNING 0 = true := by
  obtain ⟨hrunN, hinRun⟩ := agreementClosed_arr s t gpio.toNat
  refine ⟨evi (agreementClosed s t gpio.toNat) t R.LAW_STATUS_RUNNING 0, ?_, ?_, ?_,
    biti_evi_same (regsOk_agreementClosed h _) (by decide) (by decide)⟩
  · rw [execAgreementClose, if_neg (by simp [hc, hi, hset, hother, hsampled])]
    rfl
  · rw [evi, wr_arr, hrunN]
  · rw [evi, wr_arr, hinRun]

/-! RG0's run completes (R30, R34, R142). -/

/-- What RG0_RUN_COMPLETE does in a twin before the end of dispatch. -/
def rg0Completed (s : State) (t : Twin) (time : Nat) : State :=
  let m := (s.tw t).arr.runN
  let s1 := dispatchRun (runGroup s t 0) t m
  let s2 := formDigest (leaveCopies s1 t 0) t 0 m []
  let s3 := svRecord (gooseRun s2 t 0 (cycleStartNs s2 t m)) t 0 (cycleStartNs s2 t m * 16)
  clri (measured (modArr s3 t (fun a => { a with inRun := false })) t 0 time) t R.LAW_STATUS_RUNNING 0

theorem execRg0RunComplete_running (time : BitVec 16) (hc : computing s t = true) (hi : (s.tw t).arr.inRun = true) :
    execRg0RunComplete t time s = .next (dispatchEnd (rg0Completed s t time.toNat) t (s.tw t).arr.runN) := by
  rw [execRg0RunComplete, if_neg (by simp [hc, hi])]
  rfl

/-- The run leaves the cycle alone but for its own end (R30, R142). -/
theorem rg0Completed_cycle (s : State) (t : Twin) (time : Nat) : ∃ s3, CycleKept s s3 ∧ (RegsOk s → RegsOk s3) ∧
    rg0Completed s t time = clri (measured (modArr s3 t (fun a => { a with inRun := false })) t 0 time) t
      R.LAW_STATUS_RUNNING 0 := by
  have hrun := cycleKept_dispatchRun (cycleKept_runGroup (ArrKept.refl s) t 0) t (s.tw t).arr.runN
  have hrunRegs := dispatchRun_keeps (P := fun _ => False) (runGroup_keeps (Keeps.refl _ s) t 0 id (fun _ => id) id) t
    (s.tw t).arr.runN id id
  unfold rg0Completed
  extract_lets m s1 s2 s3
  have hrest : ∀ P : Part → Prop, (∀ u, ¬ P (.tw u .law)) → (∀ u, ¬ P (.tw u .regs)) → (∀ u, ¬ P (.tw u .twn)) →
      ¬ P .net → (∀ u, ¬ P (.tw u .net)) → (∀ u, ¬ P (.tw u .xings)) → Keeps P s1 s3 :=
    fun P hlaw hregs htwn hnet hnets hxings => svRecord_keeps (gooseRun_keeps (formDigest_keeps (leaveCopies_keeps
      (Keeps.refl _ s1) t 0 (hlaw t)) t 0 m [] (hregs t) (htwn t)) t 0 _ hnet hnets hregs hxings) t 0 _ (hnets t)
  exact ⟨s3, hrun.keep (hrest _ (fun _ => id) (fun _ => id) (fun _ => id) id (fun _ => id) fun _ => id),
    fun hs => (hrest (fun _ => False) (fun _ => id) (fun _ => id) (fun _ => id) id (fun _ => id) fun _ => id).regs
      (hrunRegs.regs hs), rfl⟩

theorem rg0Completed_arr (s : State) (t : Twin) (time : Nat) : ((rg0Completed s t time).tw t).arr.n = (s.tw t).arr.n ∧
    ((rg0Completed s t time).tw t).arr.hold = (s.tw t).arr.hold ∧ ((rg0Completed s t time).tw t).arr.inRun = false := by
  obtain ⟨s3, h3, -, heq⟩ := rg0Completed_cycle s t time
  rw [heq, clri, wr_arr, measured, wf_arr, modArr, setTw_tw]
  exact ⟨n_of_cycleKept h3 t, hold_of_cycleKept h3 t, rfl⟩

theorem biti_rg0Completed (h : RegsOk s) (time : Nat) : biti (rg0Completed s t time) t R.LAW_STATUS_RUNNING 0 = false := by
  obtain ⟨s3, -, h3, heq⟩ := rg0Completed_cycle s t time
  rw [heq]
  exact biti_clri_same ((regsOk_modArr (h3 h) _).wf _ _) (by decide) (by decide)

/-- Dispatch ends in time (R33, R35). -/
theorem dispatchEnd_inTime {m : Nat} (hn : (s.tw t).arr.n = m) (hh : (s.tw t).arr.hold = false) :
    dispatchEnd s t m = modTwn (modArr s t (fun a => { a with dispatched := true })) t
      (fun x => { x with overrunRun := 0, missRun := 0 }) := by
  rw [dispatchEnd]
  simp [hn, hh]

/-- Or late, when what it dispatched goes (R34). -/
theorem dispatchEnd_late {m : Nat} (hl : ¬((s.tw t).arr.n = m ∧ (s.tw t).arr.hold = false)) :
    dispatchEnd s t m = modArr (if leaderHeld s t m then s else commitMods s t) t
      (fun a => { a with next := [], cand := [], edges := [] }) := by
  rw [dispatchEnd]
  simp only [Bool.not_eq_true']
  rw [if_neg hl]

theorem execRg0RunComplete_inTime (h : RegsOk s) (time : BitVec 16) (hc : computing s t = true)
    (hi : (s.tw t).arr.inRun = true) (hn : (s.tw t).arr.runN = (s.tw t).arr.n) (hh : (s.tw t).arr.hold = false) :
    ∃ u, execRg0RunComplete t time s = .next u ∧ (u.tw t).arr.inRun = false ∧ (u.tw t).arr.dispatched = true ∧
      (u.tw t).twn.overrunRun = 0 ∧ (u.tw t).twn.missRun = 0 ∧ biti u t R.LAW_STATUS_RUNNING 0 = false := by
  obtain ⟨hcn, hch, hci⟩ := rg0Completed_arr s t time.toNat
  have hend := dispatchEnd_inTime (hcn.trans hn.symm) (hch.trans hh)
  refine ⟨_, execRg0RunComplete_running time hc hi, ?_⟩
  rw [hend]
  refine ⟨?_, ?_, ?_, ?_, ?_⟩
  · rw [modTwn_arr, modArr, setTw_tw]
    exact hci
  · rw [modTwn_arr, modArr, setTw_tw]
  · rw [modTwn_twn]
  · rw [modTwn_twn]
  · rw [biti, rf_modTwn, rf_modArr]
    exact biti_rg0Completed h time.toNat

theorem execRg0RunComplete_late (h : RegsOk s) (time : BitVec 16) (hc : computing s t = true)
    (hi : (s.tw t).arr.inRun = true) (hl : ¬((s.tw t).arr.runN = (s.tw t).arr.n ∧ (s.tw t).arr.hold = false)) :
    ∃ u, execRg0RunComplete t time s = .next u ∧ (u.tw t).arr.inRun = false ∧ (u.tw t).arr.next = [] ∧
      biti u t R.LAW_STATUS_RUNNING 0 = false := by
  obtain ⟨hcn, hch, hci⟩ := rg0Completed_arr s t time.toNat
  have hk : CycleKept (rg0Completed s t time.toNat) (dispatchEnd (rg0Completed s t time.toNat) t (s.tw t).arr.runN) := by
    rw [dispatchEnd_late (by rw [hcn, hch]; exact fun e => hl ⟨e.1.symm, e.2⟩)]
    exact ((ArrKept.refl _).ite (arrKept_commitMods (fun _ _ _ _ _ => rfl) (ArrKept.refl _) t)).modArr fun _ => rfl
  refine ⟨_, execRg0RunComplete_running time hc hi, (inRun_of_cycleKept hk t).trans hci, ?_, ?_⟩
  · rw [dispatchEnd_late (by rw [hcn, hch]; exact fun e => hl ⟨e.1.symm, e.2⟩), modArr, setTw_tw]
  · have hregs : ((dispatchEnd (rg0Completed s t time.toNat) t (s.tw t).arr.runN).tw t).regs =
        ((rg0Completed s t time.toNat).tw t).regs :=
      (dispatchEnd_keeps (P := (· = .tw t .regs)) (Keeps.refl _ _) t _ nofun nofun).same (.tw t .regs) rfl
    rw [biti, rf, rd, hregs]
    exact biti_rg0Completed h time.toNat

end Sys2Proof.Machine

/-! The start of a cycle (R29, R33) and of the array (R46). -/

namespace Sys2Proof.Machine

variable {s0 s s' : State} {t : Twin}

theorem windowKept_followWindow (h : WindowKept s0 s) (t : Twin) (m : Nat) : WindowKept s0 (followWindow s t m) := by
  have hrepeat : WindowKept s0 (repeatMods s t) := h.modArr fun _ => rfl
  unfold followWindow
  exact ArrKept.ite (hrepeat.modArr fun _ => rfl) (arrKept_commitMods (fun _ _ _ _ _ => rfl) h t)

theorem windowKept_sendFrame (h : WindowKept s0 s) (t : Twin) (n c type flags : Nat) (downs : List (List Byte)) :
    WindowKept s0 (sendFrame s t n c type flags downs) := by
  unfold sendFrame
  extract_lets seq tn tx apply b s1
  have h1 : WindowKept s0 s1 := h.keep (modRingX_keeps (Keeps.refl _ s) t c _ id)
  unfold crossOut
  refine ArrKept.ite (h1.keep (xingLost_keeps (Keeps.refl _ s1) t 2 false id id)) ?_
  have h2 : WindowKept s0 (modArr s1 t fun a => { a with sent := tabSet [] a.sent c b }) := h1.modArr fun _ => rfl
  exact h2.keep (cnt_keeps (Keeps.refl _ _) t _ id)

theorem windowKept_ringFrame (h : WindowKept s0 s) (t : Twin) (n : Nat) (hold : Bool) (c : Nat) :
    WindowKept s0 (ringFrame t n hold s c) := by
  unfold ringFrame
  extract_lets cells st blk probe flags s1 probe' s2
  have h1 : WindowKept s0 s1 := ((h.keep (setRing_keeps (Keeps.refl _ s) t c 5 id id)).ite h).modArr fun _ => rfl
  have h2 : WindowKept s0 s2 := h.modArr fun _ => rfl
  exact h.ite ((windowKept_sendFrame h1 t n c 1 flags _).ite ((windowKept_sendFrame h2 t n c 2 _ _).ite h))

/-- The array control moves to the cycle, with the window dispatched unless HOLD repeats the last (R29, R33). -/
theorem enterCycle_arr (s : State) (t : Twin) (n : Nat) (hold : Bool) :
    ((enterCycle s t n hold).tw t).arr.n = n ∧
      ((enterCycle s t n hold).tw t).arr.cur = (if hold then (s.tw t).arr.cur else (s.tw t).arr.next) ∧
      ((enterCycle s t n hold).tw t).arr.next = [] ∧ ((enterCycle s t n hold).tw t).arr.hold = false ∧
      ((enterCycle s t n hold).tw t).arr.dispatched = false ∧
      ((enterCycle s t n hold).tw t).arr.engFailed = (s.tw t).arr.engFailed := by
  simp [enterCycle, modArr, modPos, modDrv]

/-- Without an engine lost the schedule stays. -/
theorem scheduleSwitch_of_not_failed (h : (s.tw t).arr.engFailed = false) : scheduleSwitch s t = s := by
  rw [scheduleSwitch, h]
  rfl

theorem execCycleStart_next {n : W32} (hc : computing s t = true) (hj : twState s t ≠ tsJoining)
    (hn : n.toNat = (s.tw t).arr.n + 1) (hd : (s.tw t).arr.dispatched = true) (he : (s.tw t).arr.engFailed = false) :
    ∃ u, execCycleStart t n s = .next u ∧ (u.tw t).arr.n = n.toNat ∧ (u.tw t).arr.cur = (s.tw t).arr.next ∧
      (u.tw t).arr.next = [] ∧ (u.tw t).arr.hold = false ∧ (u.tw t).arr.dispatched = false := by
  obtain ⟨s1, hs1⟩ : ∃ s1, s1 = (List.range 12).foldl (ringFrame t n.toNat false)
    (rg0Deadline (followWindow s t (n.toNat - 1)) t) := ⟨_, rfl⟩
  have hk : WindowKept s s1 := hs1 ▸ ((windowKept_followWindow (ArrKept.refl s) t _).keep
    (rg0Deadline_keeps (Keeps.refl _ _) t id id id fun _ => id)).foldl _ fun _ c hs => windowKept_ringFrame hs t _ _ c
  have hnext : (s1.tw t).arr.next = (s.tw t).arr.next := congrArg (·.1) (hk t)
  have heng : (s1.tw t).arr.engFailed = (s.tw t).arr.engFailed := congrArg (·.2) (hk t)
  obtain ⟨hcn, hccur, hcnext, hchold, hcdisp, hceng⟩ := enterCycle_arr s1 t n.toNat false
  have hstart : cycleStart s t n.toNat = enterCycle s1 t n.toNat false := by
    have hj' : (twState s t == tsJoining) = false := by simpa using hj
    rw [cycleStart]
    simp only [hn, decide_true, if_true, hd, hj', Bool.not_true, Bool.or_false]
    rw [← hn, ← hs1]
    exact scheduleSwitch_of_not_failed (hceng.trans (heng.trans he))
  refine ⟨cycleStart s t n.toNat, by rw [execCycleStart, if_pos hc], ?_⟩
  rw [hstart]
  exact ⟨hcn, hccur.trans hnext, hcnext, hchold, hcdisp⟩

/-! The first frame of the array (R46). -/

/-- ARR_STATUS, with RUNNING, is kept. -/
abbrev RunningKept := RegsKept (· = R.ARR_STATUS)

theorem runningKept_showRanks (h : RunningKept s0 s) (t : Twin) (st : Nat) : RunningKept s0 (showRanks s t st) :=
  h.foldl fun s p _ hs => hs.wf (by simp only [fo, R.CELL_STATE_RANK, R.ARR_STATUS]; omega) _

theorem runningKept_showString (h : RunningKept s0 s) (t : Twin) (st : Nat) : RunningKept s0 (showString s t st) := by
  have hstr : ¬ 0x200130 + 64 * st = R.ARR_STATUS := by
    simp only [R.ARR_STATUS]
    omega
  exact ((h.wf (f := sf R.ARR_S_STATUS_NACT st) hstr _).wf (f := sf R.ARR_S_STATUS_NINS st) hstr _).wf
    (f := sf R.ARR_S_STATUS_NSPARE st) hstr _

theorem runningKept_rerank (h : RunningKept s0 s) (t : Twin) (st : Nat) : RunningKept s0 (rerank s t st) :=
  runningKept_showString (runningKept_showRanks (h.keep (modStrX_keeps (Keeps.refl _ s) t st _ id)) t st) t st

/-- What the first frame does first. -/
def startArray (s : State) (t : Twin) : State :=
  modArr (wf s t R.ARR_STATUS_RUNNING 1) t (fun a => { a with
    phase := 2, dispatched := true, hold := false, cand := [], edges := [], cur := [], next := [] })

/-- RUNNING and the cycle are kept. -/
structure StartKept (s s' : State) : Prop where
  running : RunningKept s s'
  cycle : CycleKept s s'

theorem StartKept.stillSlot (h : StartKept s0 s) (t : Twin) (st k mode : Nat) (phase : Int) (isoBlock faultReset : Bool) :
    StartKept s0 (stillSlot s t st k mode phase isoBlock faultReset) :=
  ⟨h.running.keep (stillSlot_keeps (Keeps.refl _ s) t st k mode phase isoBlock faultReset id),
    cycleKept_stillSlot h.cycle t st k mode phase isoBlock faultReset⟩

/-- The cells' first states and slots, and the ranks, leave RUNNING and the cycle alone. -/
theorem startKept_firstFrame (h : RegsOk s) (t : Twin) : StartKept (startArray s t) (firstFrame s t) := by
  have hcell : ∀ k, ¬ (fo R.CELL_STATE_STATE (256 * k)).addr = R.ARR_STATUS := fun k => by
    simp only [fo, R.CELL_STATE_STATE, R.ARR_STATUS]
    omega
  have h0 : StartKept (startArray s t) (startArray s t) := ⟨RegsKept.refl (regsOk_modArr (h.wf _ _) _), ArrKept.refl _⟩
  refine List.foldlRecOn (motive := StartKept (startArray s t)) _ _ (List.foldlRecOn (motive := StartKept (startArray s t)) _ _
    h0 fun s1 h1 e _ => ?_) fun s1 h1 st _ => ⟨runningKept_rerank h1.running t st, cycleKept_rerank h1.cycle t st⟩
  extract_lets s2
  have h2 : StartKept (startArray s t) s2 :=
    ⟨(h1.running.wf (hcell e.1) _).keep (modCellX_keeps (Keeps.refl _ _) t e.1 _ id),
      cycleKept_modCellX (h1.cycle.keep (setCellSt_keeps (Keeps.refl _ s1) t e.1 _ id)) t e.1 _⟩
  split
  · exact h2.stillSlot t _ _ _ _ _ _
  · split
    · exact h2.stillSlot t _ _ _ _ _ _
    · exact h2

/-- The array runs in a twin from its first frame on, which is that of cycle `n0` (R46). -/
def firstFrameOf (n0 : Nat) (s : State) (t : Twin) : State :=
  modArr (firstFrame s t) t (fun a => if a.n + 1 = n0 then a else { a with n := n0 - 1, runN := n0 - 1, inRun := false })

theorem firstFrameOf_runs (h : RegsOk s) {n0 : Nat} (hn : n0 ≠ 0) : flag (firstFrameOf n0 s t) t R.ARR_STATUS_RUNNING = true ∧
    ((firstFrameOf n0 s t).tw t).arr.phase = 2 ∧ ((firstFrameOf n0 s t).tw t).arr.n + 1 = n0 ∧
    ((firstFrameOf n0 s t).tw t).arr.dispatched = true := by
  obtain ⟨hr, hc⟩ := startKept_firstFrame h t
  have hphase := phase_of_cycleKept hc t
  have hdisp := dispatched_of_cycleKept hc t
  rw [startArray, modArr, setTw_tw] at hphase hdisp
  rw [firstFrameOf, flag, rf_modArr, hr.rf rfl, startArray, rf_modArr, rf_wf_same h _ (by decide) (by decide), modArr, setTw_tw]
  dsimp only
  split
  next heq => exact ⟨rfl, hphase, heq, hdisp⟩
  next => exact ⟨rfl, hphase, by dsimp only; omega, hdisp⟩

/-! What is done in each twin, seen from one of them. -/

/-- The registers and the array control of a twin. -/
def IsRegsOrArr (t : Twin) (p : Part) : Prop := p = .tw t .regs ∨ p = .tw t .arr

/-- Where what is done in one twin leaves the other's registers and array control alone, a twin finds its own as they
were. -/
theorem onBoth_at {f : State → Twin → State} (hf : ∀ s t, Keeps (IsRegsOrArr t.other) s (f s t)) (s : State) (t : Twin) :
    ∃ s1, (RegsOk s → RegsOk s1) ∧ (s1.tw t).regs = (s.tw t).regs ∧ (s1.tw t).arr = (s.tw t).arr ∧
      ((onBoth f s).tw t).regs = ((f s1 t).tw t).regs ∧ ((onBoth f s).tw t).arr = ((f s1 t).tw t).arr := by
  cases t with
  | a =>
    have hb := hf (f s .a) .b
    exact ⟨s, id, rfl, rfl, hb.same (.tw .a .regs) (.inl rfl), hb.same (.tw .a .arr) (.inr rfl)⟩
  | b =>
    have ha := hf s .a
    exact ⟨f s .a, ha.regs, ha.same (.tw .b .regs) (.inl rfl), ha.same (.tw .b .arr) (.inr rfl), rfl, rfl⟩

theorem not_isRegsOrArr_other (t : Twin) (f : TwinField) : ¬ IsRegsOrArr t.other (.tw t f) := by
  simp [IsRegsOrArr]

theorem rf_congr (h : (s'.tw t).regs = (s.tw t).regs) (g : Fld) : rf s' t g = rf s t g := by rw [rf, rd, h, rf, rd]

/-- What ARRAY_FIRST_FRAME does in a twin: it starts the array where the twin computes and brings its rings up. -/
def firstFrameIn (n0 : Nat) (s : State) (t : Twin) : State :=
  if computing s t then (if (s.tw t).arr.phase = 1 then firstFrameOf n0 s t else s) else s

theorem firstFrameIn_keeps (n0 : Nat) (s : State) (t : Twin) : Keeps (IsRegsOrArr t.other) s (firstFrameIn n0 s t) := by
  have hother := not_isRegsOrArr_other t
  exact Keeps.dite (Keeps.dite (modArr_keeps (firstFrame_keeps (Keeps.refl _ s) t (hother _) (hother _)) t _ (hother _))
    (Keeps.refl _ s)) (Keeps.refl _ s)

theorem execArrayFirstFrame_ready (n : W32) (hready : ringsReady s = true) :
    execArrayFirstFrame n s = .next (onBoth (firstFrameIn n.toNat) s) := by
  rw [execArrayFirstFrame, if_pos hready]
  rfl

theorem execArrayFirstFrame_runs {n : W32} (h : RegsOk s) (hready : ringsReady s = true) (hc : computing s t = true)
    (hp : (s.tw t).arr.phase = 1) (hn : n ≠ 0#32) : ∃ u, execArrayFirstFrame n s = .next u ∧
      flag u t R.ARR_STATUS_RUNNING = true ∧ (u.tw t).arr.phase = 2 ∧ (u.tw t).arr.n + 1 = n.toNat ∧
      (u.tw t).arr.dispatched = true := by
  have hn' : n.toNat ≠ 0 := fun e => hn (BitVec.eq_of_toNat_eq e)
  obtain ⟨s1, hok, hregs, harr, hregs', harr'⟩ := onBoth_at (firstFrameIn_keeps n.toNat) s t
  have hc1 : computing s1 t = true := by
    rw [← hc, computing, computing, twState, twState, rf_congr hregs]
  have hone : firstFrameIn n.toNat s1 t = firstFrameOf n.toNat s1 t := by
    rw [firstFrameIn, if_pos hc1, harr, if_pos hp]
  refine ⟨_, execArrayFirstFrame_ready n hready, ?_⟩
  rw [flag, rf_congr hregs', harr', hone]
  exact firstFrameOf_runs (hok h) hn'

end Sys2Proof.Machine

/-! The start and the stop of the array, and its mapping table (R41, R46, R485). -/

namespace Sys2Proof.Machine

variable {K : Nat → Prop} {s0 s s' : State} {t : Twin}

/-! The rings and the ledger: the words they write lie below the array's. -/

theorem regsKept_setRing (hK : ∀ a, K a → a < 0x100000 ∨ 0x200000 ≤ a) (h : RegsKept K s0 s) (t : Twin) {c : Nat}
    (hc : c < 12) (v : Nat) : RegsKept K s0 (setRing s t c v) := by
  have hword : ∀ b, 0x10000C ≤ b → b ≤ 0x100010 → ¬ K (b + 4096 * c) := fun b hb hb' hk => by
    have := hK _ hk
    omega
  unfold setRing
  extract_lets o s1 s2
  have h1 : RegsKept K s0 s1 := h.wf (f := fo R.TRB_STATE_RING (4096 * c)) (hword 0x10000C (by decide) (by decide)) v
  have h2 : RegsKept K s0 s2 := by
    refine RegsKept.ite ?_ h1
    exact (h1.wf (f := fo R.TRB_STATE_RX_SYNC (4096 * c)) (hword 0x10000C (by decide) (by decide)) 0).keep
      (modRingX_keeps (Keeps.refl _ _) t c _ id)
  exact (h2.ev (f := fo R.TRB_EVENT_DOWN (4096 * c)) (hword 0x100010 (by decide) (by decide))).ite h2

theorem modRingX_report (s : State) (t : Twin) (c : Nat) (f : RingX → RingX) : (modRingX s t c f).report = s.report :=
  setTw_report ..

theorem setRing_report (s : State) (t : Twin) (c v : Nat) : (setRing s t c v).report = s.report := by
  unfold setRing
  extract_lets o s1 s2
  have h2 : s2.report = s.report := by
    simp only [s2, s1]
    split
    · rw [modRingX_report, wf_report, wf_report]
    · rw [wf_report]
  split
  · rw [ev_report, h2]
  · exact h2

/-! The headroom for leave. -/

/-- The words that the headroom of the asking twin depends on. -/
def HeadroomWord (a : Nat) : Prop := a = R.TWN_STATE ∨ a = R.PWR_SLU_CFG

theorem headroom_asker_of_kept (h : RegsKept HeadroomWord s s') (ht : ∀ u, (s'.tw u).twn = (s.tw u).twn) :
    headroom s' (asker s') = headroom s (asker s) := by
  have hl : leader s' = leader s := by 
    have hstate : ∀ u, twState s' u = twState s u := fun u => h.rf (.inl rfl)
    rw [leader, hstate, hstate, ← leader]
  have hsplit : splitLedger s' = splitLedger s := by
    rw [splitLedger, show s'.a.twn = s.a.twn from ht .a, show s'.b.twn = s.b.twn from ht .b, ← splitLedger]
  simp only [headroom, keeper, asker, hl, hsplit, h.rf (f := R.PWR_SLU_CFG_HEADROOM) (.inr rfl)]

/-- The words of the array, its cells and what lies above them, and the report. -/
structure ArrayKept (s s' : State) : Prop where
  words : RegsKept (0x200000 ≤ ·) s s'
  report : s'.report = s.report

namespace ArrayKept

theorem refl (h : RegsOk s) : ArrayKept s s := ⟨RegsKept.refl h, rfl⟩

theorem foldl {β : Type} {f : State → β → State} {l : List β} (h : ArrayKept s0 s)
    (hf : ∀ s x, x ∈ l → ArrayKept s0 s → ArrayKept s0 (f s x)) : ArrayKept s0 (l.foldl f s) :=
  List.foldlRecOn l f h fun s hs x hx => hf s x hx hs

theorem ite {c : Prop} [Decidable c] (h : ArrayKept s0 s) (h' : ArrayKept s0 s') : ArrayKept s0 (if c then s else s') := by
  split
  · exact h
  · exact h'

theorem onBoth {f : State → Twin → State} (h : ArrayKept s0 s) (hf : ∀ s t, ArrayKept s0 s → ArrayKept s0 (f s t)) :
    ArrayKept s0 (onBoth f s) := hf _ _ (hf _ _ h)

theorem modRingX (h : ArrayKept s0 s) (t : Twin) (c : Nat) (f : RingX → RingX) : ArrayKept s0 (modRingX s t c f) :=
  ⟨h.words.keep (modRingX_keeps (Keeps.refl _ s) t c f id), (setTw_report ..).trans h.report⟩

theorem setRing (h : ArrayKept s0 s) (t : Twin) {c : Nat} (hc : c < 12) (v : Nat) : ArrayKept s0 (setRing s t c v) := by
  refine ⟨regsKept_setRing (fun _ => .inr) h.words t hc v, ?_⟩
  rw [setRing_report, h.report]

theorem sluice (h : ArrayKept s0 s) (x : SluiceSt) : ArrayKept s0 { s with sluice := x } :=
  ⟨⟨(regsOk_iff _).2 ((regsOk_iff s).1 h.words.ok), fun u a ha => (by cases u <;> rfl : _ = rd s u a).trans
    (h.words.same u a ha)⟩, h.report⟩

theorem showLedger (h : ArrayKept s0 s) (t : Twin) : ArrayKept s0 (showLedger s t) := by
  refine ⟨?_, by simp [Machine.showLedger, h.report]⟩
  unfold Machine.showLedger
  extract_lets held act s1 s2 s3
  have h1 : RegsKept (0x200000 ≤ ·) s0 s1 := h.words.wr (by decide) _
  have h2 : RegsKept (0x200000 ≤ ·) s0 s2 := h1.wf (by decide) _
  have h3 : RegsKept (0x200000 ≤ ·) s0 s3 := h2.wf (by decide) _
  exact h3.wf (by decide) _

theorem showLedgers (h : ArrayKept s0 s) : ArrayKept s0 (Machine.onBoth Machine.showLedger s) :=
  h.onBoth fun _ t hs => hs.showLedger t

theorem grantHead (h : ArrayKept s0 s) (t : Twin) : ArrayKept s0 (grantHead s t) := by
  unfold Machine.grantHead
  split
  · exact h
  next q _ _ =>
    have h1 := h.sluice { queue := s.sluice.queue.erase q, held := s.sluice.held ++ [q] }
    have h2 := fun u => (⟨h1.words.ev (t := u) (f := R.PWR_EVENT_SLU_GRANT) (by decide), (ev_report ..).trans h1.report⟩ :
      ArrayKept s0 _)
    exact ArrayKept.ite ((h2 q.twin).ite h1).showLedgers h

/-- Leave that is not refused is asked for without a report (R444). -/
theorem leaveAsk (h : ArrayKept s0 s) (op : Nat) (t : Twin) (host : Bool) (arg : Nat) (hp : s.pfail = false)
    (hh : leaveCost op arg ≤ headroom s t) : ArrayKept s0 (leaveAsk s op t host arg) := by
  unfold Machine.leaveAsk
  extract_lets r code x s1
  have hcode : code = Rc.OK := by
    simp only [code, hp, r]
    rw [if_neg (by decide), if_neg (by omega)]
  have h1 : ArrayKept s0 s1 := (h.sluice _).showLedgers
  rw [if_neg (not_not_intro hcode)]
  exact (h1.grantHead t).ite h1

theorem startTraining (h : ArrayKept s0 s) (m : Nat) : ArrayKept s0 (startTraining s m) :=
  h.onBoth fun _ t hs => hs.foldl fun _ c hc hs' =>
    ((hs'.setRing t (List.mem_range.1 hc) 2).modRingX t c _).ite hs'

/-- So is lane training (R443). -/
theorem trainChains (h : ArrayKept s0 s) (cs : List Nat) (m : Nat) (host : Bool) (hp : s.pfail = false)
    (hh : leaveCost 0 m ≤ headroom s (asker s)) : ArrayKept s0 (trainChains s cs m host) := by
  obtain ⟨s1, hs1⟩ : ∃ s1, s1 = Machine.onBoth (fun s t => cs.foldl (fun s c =>
    Machine.modRingX s t c (fun r => { r with wake := true })) s) s := ⟨_, rfl⟩
  have hk : ∀ P : Part → Prop, (∀ u, ¬ P (.tw u .rings)) → Keeps P s s1 := fun P hP => hs1 ▸
    onBoth_keeps (Keeps.refl _ s) _ fun _ t hs => Keeps.foldl (fun _ c hs' => modRingX_keeps hs' t c _ (hP t)) cs hs
  have h1 : ArrayKept s0 s1 := hs1 ▸ h.onBoth fun _ t hs => hs.foldl fun _ c _ hs' => hs'.modRingX t c _
  have hp1 : s1.pfail = false := ((hk (· = .pfail) nofun).same .pfail rfl).trans hp
  have hh1 : leaveCost 0 m ≤ headroom s1 (asker s1) := by
    rw [headroom_asker_of_kept ((RegsKept.refl h.words.ok).keep (hk _ fun _ => id)) fun u =>
      (hk (· = .tw u .twn) nofun).same (.tw u .twn) rfl]
    exact hh
  have h2 := h1.leaveAsk 0 (asker s1) host m hp1 hh1
  rw [Machine.trainChains, ← hs1, trainLeave]
  exact (h1.startTraining m).ite ((h2.startTraining m).ite h2)

end ArrayKept

/-! ENABLE = 1 (R46). -/

/-- What ENABLE = 1 does in a twin: it is set, and the rings of the chains that stay cold enter electrical idle. -/
def enableIn (live : List Nat) (n : Nat) (s : State) (t : Twin) : State :=
  (List.range 12).foldl (fun s c => if live.contains c then s else setRing s t c 1)
    (modArr (wf s t R.ARR_CTRL_ENABLE 1) t (fun a => { a with phase := 1, strs := [], refs := a.refs, enAt := some n }))

theorem enableIn_keeps {P : Part → Prop} (h : Keeps P s0 s) (live : List Nat) (n : Nat) (t : Twin)
    (harr : ¬ P (.tw t .arr)) (hregs : ¬ P (.tw t .regs)) (hrings : ¬ P (.tw t .rings)) :
    Keeps P s0 (enableIn live n s t) :=
  Keeps.foldl (fun _ c hs => Keeps.dite hs (setRing_keeps hs t c 1 hregs hrings)) _
    (modArr_keeps (wf_keeps h t _ 1 hregs) t _ harr)

theorem headroomKept_enableIn (h : RegsKept HeadroomWord s0 s) (live : List Nat) (n : Nat) (t : Twin) :
    RegsKept HeadroomWord s0 (enableIn live n s t) := by
  have hword : ∀ a, HeadroomWord a → a < 0x100000 ∨ 0x200000 ≤ a := by
    rintro a (rfl | rfl) <;> decide
  have hctrl : ¬ HeadroomWord R.ARR_CTRL_ENABLE.addr := by
    rintro (h | h) <;> exact absurd h (by decide)
  refine RegsKept.foldl ((h.wf hctrl 1).keep (modArr_keeps (Keeps.refl _ _) t _ id)) fun s c hc hs => ?_
  exact hs.ite (regsKept_setRing hword hs t (List.mem_range.1 hc) 1)

/-- It leaves ENABLE set and the rings being brought up. -/
theorem enableIn_enabled (h : RegsOk s) (live : List Nat) (n : Nat) (t : Twin) :
    flag (enableIn live n s t) t R.ARR_CTRL_ENABLE = true ∧ ((enableIn live n s t).tw t).arr.phase = 1 := by
  obtain ⟨s1, hs1⟩ : ∃ s1, s1 = modArr (wf s t R.ARR_CTRL_ENABLE 1) t
    (fun a => { a with phase := 1, strs := [], refs := a.refs, enAt := some n }) := ⟨_, rfl⟩
  have h1 : RegsOk s1 := hs1 ▸ regsOk_modArr (h.wf _ _) _
  have hk : ArrayKept s1 (enableIn live n s t) := by
    rw [enableIn, ← hs1]
    exact (ArrayKept.refl h1).foldl fun s c hc hs => hs.ite (hs.setRing t (List.mem_range.1 hc) 1)
  have harr : ((enableIn live n s t).tw t).arr = (s1.tw t).arr := by
    rw [enableIn, ← hs1]
    exact (Keeps.foldl (P := IsArr) (fun _ c hs => Keeps.dite hs (setRing_keeps hs t c 1 id id)) _ (Keeps.refl _ s1)).same
      (.tw t .arr) trivial
  rw [hk.words.flag (by decide), harr, hs1, flag, rf_modArr, rf_wf_same h _ (by decide) (by decide), modArr, setTw_tw]
  exact ⟨rfl, rfl⟩

/-- ENABLE = 1 passes its checks and is paid for. -/
theorem arrayEnable_enables (hcode : enableCode (budget s) (asker (budget s)) = Rc.OK) (hp : (budget s).pfail = false)
    (hh : 1200 ≤ headroom (budget s) (asker (budget s)))
    (he : flag (budget s) (asker (budget s)) R.ARR_CTRL_ENABLE = false) : ∃ live n, arrayEnable s =
      trainChains (say (onBoth (enableIn live n) (budget s)) Rc.OK) live 4095 true := by
  have hcost : leaveCost 0 4095 = 1200 := by decide
  refine ⟨liveChains (budget s) (asker (budget s)), cycleNow (budget s) (asker (budget s)), ?_⟩
  rw [arrayEnable]
  dsimp only
  rw [if_neg (not_not_intro hcode), if_neg (by rw [hp, hcost]; simp; omega), if_neg (by simp [he])]
  rfl

theorem execArrayEnable_enables (h : RegsOk s) (hcode : enableCode (budget s) (asker (budget s)) = Rc.OK)
    (hp : (budget s).pfail = false) (hh : 1200 ≤ headroom (budget s) (asker (budget s)))
    (he : flag (budget s) (asker (budget s)) R.ARR_CTRL_ENABLE = false) (t : Twin) :
    ∃ u, execArrayEnable s = .next u ∧ u.report = Rc.OK ∧ flag u t R.ARR_CTRL_ENABLE = true ∧ (u.tw t).arr.phase = 1 := by
  obtain ⟨live, n, henable⟩ := arrayEnable_enables hcode hp hh he
  have hb : RegsOk (budget s) := (budget_keeps (P := fun _ => False) (Keeps.refl _ s) fun _ => id).regs h
  obtain ⟨s1, hok, -, -, hregs, harr⟩ := onBoth_at (f := enableIn live n) (fun s t => enableIn_keeps (Keeps.refl _ s) live n t
    (not_isRegsOrArr_other t _) (not_isRegsOrArr_other t _) (by simp [IsRegsOrArr])) (budget s) t
  obtain ⟨hflag, hphase⟩ := enableIn_enabled (hok hb) live n t
  have hboth : ∀ P : Part → Prop, (∀ u, ¬ P (.tw u .arr)) → (∀ u, ¬ P (.tw u .regs)) → (∀ u, ¬ P (.tw u .rings)) →
      Keeps P (budget s) (say (onBoth (enableIn live n) (budget s)) Rc.OK) := fun P ha hr hg =>
    say_keeps (onBoth_keeps (Keeps.refl _ _) _ fun _ t hs => enableIn_keeps hs live n t (ha t) (hr t) (hg t)) _
  have hkept : RegsKept HeadroomWord (budget s) (say (onBoth (enableIn live n) (budget s)) Rc.OK) :=
    ((RegsKept.refl hb).onBoth fun _ t hs => headroomKept_enableIn hs live n t).keep (say_keeps (Keeps.refl _ _) _)
  have htrain := (ArrayKept.refl hkept.ok).trainChains live 4095 true
    (((hboth (· = .pfail) nofun nofun nofun).same .pfail rfl).trans hp) (by
      rw [headroom_asker_of_kept hkept fun u => (hboth (· = .tw u .twn) nofun nofun nofun).same (.tw u .twn) rfl]
      exact hh)
  refine ⟨arrayEnable s, rfl, ?_⟩
  rw [henable, htrain.report, htrain.words.flag (by decide)]
  refine ⟨say_report _ _, ?_, ?_⟩
  · rw [flag, rf_say, rf_congr hregs]
    exact hflag
  · have hend : ((trainChains (say (onBoth (enableIn live n) (budget s)) Rc.OK) live 4095 true).tw t).arr =
        ((onBoth (enableIn live n) (budget s)).tw t).arr :=
      (trainChains_keeps (P := IsArr) (say_keeps (Keeps.refl _ _) _) live 4095 true (fun _ => id) (fun _ => id) id).same
        (.tw t .arr) trivial
    rw [hend, harr]
    exact hphase

/-! ENABLE = 0 (R485). -/

/-- What ENABLE = 0 does in a twin. -/
def stopIn (s0 : State) (t : Twin) : State :=
  let s := wf (wf (wf s0 t R.ARR_CTRL_ENABLE 0) t R.ARR_STATUS_RUNNING 0) t R.ARR_STATUS_BLOCKED 0
  let s := (List.range 12).foldl (fun s c =>
    let s := modRingX s t c (fun r => { r with wake := false, awaited := false })
    if ringSt s t c = 0 then s else setRing s t c 1) s
  let ran := if flag s0 t R.ARR_STATUS_RUNNING then some (s0.tw t).arr.n else (s0.tw t).arr.ranAt
  modArr s t (fun a => { a with
    ranAt := ran, phase := 0, next := [], cand := [], edges := [], cur := [], sent := [], hold := false
    cells := a.cells.map (fun e => (e.1, { e.2 with mod := {} })) })

theorem arrayStop_eq (s : State) : arrayStop s = dropTraining (onBoth stopIn s) (fun _ => true) := rfl

theorem stopIn_keeps {P : Part → Prop} (h : Keeps P s0 s) (t : Twin) (harr : ¬ P (.tw t .arr)) (hregs : ¬ P (.tw t .regs))
    (hrings : ¬ P (.tw t .rings)) : Keeps P s0 (stopIn s t) := by
  unfold stopIn
  extract_lets s1 s2 ran
  have h1 : Keeps P s0 s1 := wf_keeps (wf_keeps (wf_keeps h t _ 0 hregs) t _ 0 hregs) t _ 0 hregs
  have h2 : Keeps P s0 s2 := Keeps.foldl (fun s c hs => Keeps.dite (modRingX_keeps hs t c _ hrings)
    (setRing_keeps (modRingX_keeps hs t c _ hrings) t c 1 hregs hrings)) _ h1
  exact modArr_keeps h2 t _ harr

/-- It leaves the array stopped, and the cells' states alone. -/
theorem stopIn_stopped (h : RegsOk s) (t : Twin) (k : Nat) : flag (stopIn s t) t R.ARR_CTRL_ENABLE = false ∧
    flag (stopIn s t) t R.ARR_STATUS_RUNNING = false ∧ flag (stopIn s t) t R.ARR_STATUS_BLOCKED = false ∧
    ((stopIn s t).tw t).arr.phase = 0 ∧ cellSt (stopIn s t) t k = cellSt s t k := by
  obtain ⟨s1, hs1⟩ : ∃ s1, s1 = wf (wf (wf s t R.ARR_CTRL_ENABLE 0) t R.ARR_STATUS_RUNNING 0) t R.ARR_STATUS_BLOCKED 0 :=
    ⟨_, rfl⟩
  have hb1 := h.wf (t := t) R.ARR_CTRL_ENABLE 0
  have hb2 := hb1.wf (t := t) R.ARR_STATUS_RUNNING 0
  have hk : RegsKept (0x200000 ≤ ·) s1 (stopIn s t) := by
    have h1 : ArrayKept s1 s1 := ArrayKept.refl (hs1 ▸ hb2.wf _ _)
    unfold stopIn
    rw [← hs1]
    refine (h1.foldl fun s c hc hs => ?_).words.keep (modArr_keeps (Keeps.refl _ _) t _ id)
    exact (hs.modRingX t c _).ite ((hs.modRingX t c _).setRing t (List.mem_range.1 hc) 1)
  have hcell : 0x200000 ≤ (fo R.CELL_STATE_STATE (256 * k)).addr := by
    simp only [fo, R.CELL_STATE_STATE]
    omega
  have hne : ∀ f : Fld, f.addr ≤ R.ARR_STATUS → (fo R.CELL_STATE_STATE (256 * k)).addr ≠ f.addr := by
    intro f hf
    simp only [fo, R.CELL_STATE_STATE, R.ARR_STATUS] at hf ⊢
    omega
  refine ⟨?_, ?_, ?_, ?_, ?_⟩
  · rw [hk.flag (by decide), hs1, flag, rf_wf_apart hb2 (by decide) (by decide) (by decide),
      rf_wf_apart hb1 (by decide) (by decide) (by decide), rf_wf_same h _ (by decide) (by decide)]
    rfl
  · rw [hk.flag (by decide), hs1, flag, rf_wf_apart hb2 (by decide) (by decide) (by decide),
      rf_wf_same hb1 _ (by decide) (by decide)]
    rfl
  · rw [hk.flag (by decide), hs1, flag, rf_wf_same hb2 _ (by decide) (by decide)]
    rfl
  · rw [stopIn, modArr, setTw_tw]
  · rw [cellSt, hk.rf hcell, hs1, rf_wf_ne hb2 (hne _ (by decide)), rf_wf_ne hb1 (hne _ (by decide)),
      rf_wf_ne h (hne _ (by decide)), cellSt]

theorem execArrayStop_stops (h : RegsOk s) (he : flag s (asker s) R.ARR_CTRL_ENABLE = true) (t : Twin) (k : Nat) :
    ∃ u, execArrayStop s = .next u ∧ flag u t R.ARR_CTRL_ENABLE = false ∧ flag u t R.ARR_STATUS_RUNNING = false ∧
      flag u t R.ARR_STATUS_BLOCKED = false ∧ (u.tw t).arr.phase = 0 ∧ cellSt u t k = cellSt s t k := by
  obtain ⟨s1, hok, hregs1, -, hregs, harr⟩ := onBoth_at (f := stopIn) (fun s t => stopIn_keeps (Keeps.refl _ s) t
    (not_isRegsOrArr_other t _) (not_isRegsOrArr_other t _) (by simp [IsRegsOrArr])) s t
  obtain ⟨henable, hrunning, hblocked, hphase, hcell⟩ := stopIn_stopped (hok h) t k
  have hb : RegsOk (onBoth stopIn s) := (onBoth_keeps (P := fun _ => False) (Keeps.refl _ s) stopIn fun _ t hs =>
    stopIn_keeps hs t id id id).regs h
  have hk : ArrayKept (onBoth stopIn s) (arrayStop s) := by
    rw [arrayStop_eq]
    exact ((ArrayKept.refl hb).sluice _).showLedgers
  have hflag : ∀ f : Fld, 0x200000 ≤ f.addr → flag (arrayStop s) t f = flag (stopIn s1 t) t f := fun f hf => by
    rw [hk.words.flag hf, flag, flag, rf_congr hregs]
  have hend : ((arrayStop s).tw t).arr = ((onBoth stopIn s).tw t).arr := by
    rw [arrayStop_eq]
    exact (dropTraining_keeps (P := IsArr) (Keeps.refl _ _) _ (fun _ => id) id).same (.tw t .arr) trivial
  refine ⟨arrayStop s, by rw [execArrayStop, if_pos he], (hflag _ (by decide)).trans henable,
    (hflag _ (by decide)).trans hrunning, (hflag _ (by decide)).trans hblocked, by rw [hend, harr, hphase], ?_⟩
  have hword : 0x200000 ≤ (fo R.CELL_STATE_STATE (256 * k)).addr := by
    simp only [fo, R.CELL_STATE_STATE]
    omega
  rw [cellSt, hk.words.rf hword, rf_congr hregs, ← cellSt, hcell, cellSt, rf_congr hregs1, ← cellSt]

/-! The mapping table (R41). -/

theorem execMapEntryWrite_writes (h : RegsOk s) (k : Fin 192) (v : W32) (hcode : mapEntryCode s (asker s) k.val v = Rc.OK)
    (t : Twin) : ∃ u, execMapEntryWrite k v s = .next u ∧ u.report = Rc.OK ∧
      rd u t (R.ARR_MAP + 4 * k.val) = v &&& 0xFFFFF000#32 ∧ SameRegs s u t [R.ARR_MAP + 4 * k.val] := by
  have hrd : ∀ a, rd (onBoth (fun s t => wr s t (R.ARR_MAP + 4 * k.val) (v &&& 0xFFFFF000#32)) s) t a =
      if a = R.ARR_MAP + 4 * k.val then v &&& 0xFFFFF000#32 else rd s t a := fun a => by
    rw [onBoth, rd_wr (h.wr _ _), rd_wr h]
    cases t <;> simp
  refine ⟨mapEntryWrite s k.val v, rfl, ?_⟩
  rw [mapEntryWrite, if_neg (not_not_intro hcode)]
  refine ⟨say_report _ _, by rw [rd_say, hrd, if_pos rfl], fun a ha => ?_⟩
  rw [rd_say, hrd, if_neg fun e => ha (by simp [e])]

/-- Settles O26, command by command. -/
theorem cycleCommandsComplete : Obligations.CycleCommandsComplete := by
  refine ⟨?_, ?_, ?_, ?_, ?_, ?_, ?_, ?_, ?_, ?_⟩
  · exact fun s t n _ hc hj hn hd he => execCycleStart_next hc hj hn hd he
  · exact fun s t x h hc hi hset hother hsampled => execAgreementClose_closes h x hc hi hset hother hsampled
  · exact fun s t x h hc hi hn hh => execRg0RunComplete_inTime h x hc hi hn hh
  · exact fun s t x h hc hi hl => execRg0RunComplete_late h x hc hi hl
  · exact fun s t h hc hd hh ho hm => execDispatchDeadline_counts h hc hd hh ho hm
  · exact fun s t h hf hd hh ho => execDispatchDeadline_withdraws h hf hd hh ho
  · exact fun s t h hcode hp hh he => execArrayEnable_enables h hcode hp hh he t
  · exact fun s t n h hready hc hp hn => execArrayFirstFrame_runs h hready hc hp hn
  · exact fun s t k h he => execArrayStop_stops h he t k.val
  · exact fun s t k v h hcode => execMapEntryWrite_writes h k v hcode t

end Sys2Proof.Machine

/-! What reset leaves (O3). -/

namespace Sys2Proof.Machine

/-- After reset a word of either twin reads as its reset value. -/
theorem rd_reset (t : Twin) (a : Nat) : rd State.reset t a = resetWord a := by
  cases t <;> rfl

/-- So does a field. -/
theorem rf_reset (t : Twin) (f : Fld) : rf State.reset t f = bits (resetWord f.addr) f.hi f.lo := by
  rw [rf, rd_reset]

/-- Settles O3: no map or table lists an entry at reset, so every word is its reset word, and the named fields are those of
their rows. -/
theorem resetLeavesTheResetValues : Obligations.ResetLeavesTheResetValues := by
  have hstate : ∀ t, twState State.reset t = tsReset := fun t => by
    rw [twState, rf_reset]
    decide +kernel
  refine ⟨regsOk_reset, tabsOk_reset, pinsOk_of_pins_none rfl, rd_reset, hstate, rfl, rfl, rfl, rfl, rfl, rfl, rfl, rfl,
    fun t => ⟨?_, ?_, ?_⟩⟩
  · rw [rd_reset]
    decide +kernel
  · rw [rf_reset]
    decide +kernel
  · rw [cycNs, rf_reset]
    decide +kernel

end Sys2Proof.Machine

/-! The statement on the array's cells (O27) is false: it does not ask for canonical registers where a wear record is to be
saved under leave that is free. The request for leave shows the ledger in the twin's PWR_ words, and in a register list that
is out of order this may bring out another HEADROOM, so that the request is not granted and nothing is saved. -/

namespace Sys2Proof.Machine

/-- Twin A's register list is out of order: an IN_USE of 1 in front of a HEADROOM of 0, which it hides, so HEADROOM reads as
at reset. Its boot flash holds a wear record of one cell. -/
def wearUnordered : State :=
  { a := { regs := [(R.PWR_SLU_STATUS_IN_USE.addr, 0x10000#32), (R.PWR_SLU_CFG, 0#32)], flash := { wear := [(0, [])] } } }

/-- Leave for a wear record is free there. -/
theorem leaveFree_wearUnordered : leaveFree wearUnordered .a 5 4 = true := by
  decide +kernel

/-- But it is not granted: IN_USE is shown as 0, the reset value, and its entry no longer hides the HEADROOM of 0. -/
theorem leaveAsk_wearUnordered : (leaveAsk wearUnordered 5 .a false 4).report = Rc.OK ∧
    leaveHeldFor (leaveAsk wearUnordered 5 .a false 4) 5 .a 4 = false := by
  decide +kernel

/-- So the save does not run. -/
theorem exec_wearRecordSave_wearUnordered :
    exec (.wearRecordSave .a true) wearUnordered = .next (leaveAsk wearUnordered 5 .a false 4) := by
  obtain ⟨hreport, hheld⟩ := leaveAsk_wearUnordered
  have hexec : exec (.wearRecordSave .a true) wearUnordered = execWearRecordSave .a true wearUnordered := rfl
  rw [hexec, execWearRecordSave]
  simp only [hreport, hheld, ne_eq, not_true_eq_false, false_and, if_false, Bool.false_eq_true]

theorem leaveAsk_flash (s : State) (op : Nat) (t u : Twin) (host : Bool) (arg : Nat) :
    ((leaveAsk s op t host arg).tw u).flash = (s.tw u).flash :=
  (leaveAsk_keeps (P := (· = .tw u .flash)) (Keeps.refl _ s) op t host arg nofun nofun).same (.tw u .flash) rfl

/-- Refutes O27: twin A's registers list an IN_USE of 1 before a HEADROOM of 0. Leave for a wear record reads as free, the
request is yet not granted, and the flash keeps the record of one cell where the twin's own record is empty. -/
theorem not_arrayCommandsComplete : ¬ Obligations.ArrayCommandsComplete := by
  intro h
  obtain ⟨-, -, -, -, -, -, hsave, -⟩ := h
  obtain ⟨u, hu, hwear, -⟩ := hsave wearUnordered .a leaveFree_wearUnordered
  have hrecord : wearRecord wearUnordered .a = [] := by decide +kernel
  have hnext := exec_wearRecordSave_wearUnordered.symm.trans hu
  injection hnext with hnext
  rw [← hnext, leaveAsk_flash, hrecord] at hwear
  simp [wearUnordered, State.tw] at hwear

end Sys2Proof.Machine

/-! Where the words of a register row lie (R14), for the statement on register writes (O50). -/

namespace Sys2Proof

/-- The bytes that a row's words lie within, from its base on. -/
def rowSpan : List (Nat × Nat) → Nat
  | [] => 1
  | (st, n) :: _ => n * st

theorem lt_rowSpan_of_offsetFits {d : List (Nat × Nat)} (hd : ∀ p ∈ d, 0 < p.1) {o : Nat} (h : offsetFits d o = true) :
    o < rowSpan d := by
  cases d with
  | nil =>
    rw [offsetFits, beq_iff_eq] at h
    rw [h, rowSpan]
    exact Nat.one_pos
  | cons p r =>
    have hlt : o / p.1 < p.2 := by
      by_contra hn
      simp [offsetFits, hn] at h
    exact (Nat.div_lt_iff_lt_mul (hd p List.mem_cons_self)).1 hlt

theorem mod_four_of_offsetFits {d : List (Nat × Nat)} (hd : ∀ p ∈ d, p.1 % 4 = 0) {o : Nat} (h : offsetFits d o = true) :
    o % 4 = 0 := by
  induction d generalizing o with
  | nil =>
    rw [offsetFits, beq_iff_eq] at h
    rw [h]
  | cons p r ih =>
    have hrest : offsetFits r (o % p.1) = true := by
      by_cases hlt : o / p.1 < p.2
      · simpa [offsetFits, hlt] using h
      · simp [offsetFits, hlt] at h
    rw [← Nat.mod_mod_of_dvd o (Nat.dvd_of_mod_eq_zero (hd p List.mem_cons_self))]
    exact ih (fun q hq => hd q (List.mem_cons_of_mem p hq)) hrest

theorem rowHas_iff {r : RegRow} {a : Nat} : rowHas r a = true ↔ r.base ≤ a ∧ offsetFits r.dims (a - r.base) = true := by
  rw [rowHas]
  split
  next h => simp [Nat.not_le.2 h]
  next h => simp [Nat.not_lt.1 h]

/-- A row found is one of the map's, and has the word. -/
theorem findRow_some {a : Nat} {r : RegRow} (h : findRow a = some r) : (∃ b ∈ regBlocks, r ∈ b.2) ∧ rowHas r a = true := by
  have hmem : r ∈ blockRows a := List.mem_of_find?_eq_some h
  refine ⟨?_, List.find?_some (p := fun r => rowHas r a) h⟩
  rw [blockRows] at hmem
  split at hmem
  next b hb => exact ⟨b, List.mem_of_find?_eq_some hb, hmem⟩
  next => simp at hmem

/-- Every row of the map is aligned to words and ends within the blocks. -/
theorem regBlocks_within : ∀ b ∈ regBlocks, ∀ r ∈ b.2, r.base % 4 = 0 ∧ (∀ p ∈ r.dims, 0 < p.1 ∧ p.1 % 4 = 0) ∧
    r.base + rowSpan r.dims ≤ 0x1A00000 := by
  decide +kernel

/-- Only words in the blocks have a row (R14). -/
theorem inBlocks_of_findRow {a : Nat} {r : RegRow} (h : findRow a = some r) : Machine.inBlocks a = true := by
  obtain ⟨⟨b, hb, hr⟩, hhas⟩ := findRow_some h
  obtain ⟨hbase, hdims, hend⟩ := regBlocks_within b hb r hr
  obtain ⟨hle, hfits⟩ := rowHas_iff.1 hhas
  have hspan := lt_rowSpan_of_offsetFits (fun p hp => (hdims p hp).1) hfits
  have hmod := mod_four_of_offsetFits (fun p hp => (hdims p hp).2) hfits
  have hlt : a < 0x1A00000 := by omega
  have ha : a % 4 = 0 := by omega
  simp [Machine.inBlocks, Machine.blockOf, ha, hlt]

theorem lawNode_eq : R.LAW_NODE = 0x480000 := rfl

/-- The row of the input nodes of a graph. -/
def nodeRow : RegRow := ⟨R.LAW_NODE, [(4, 4096)], [fld 31 0 .rw]⟩

/-- The rows of the law engines below the nodes end there. -/
theorem rowsLaw_split : ∃ l l', rowsLaw = l ++ nodeRow :: l' ∧
    ∀ r ∈ l, (∀ p ∈ r.dims, 0 < p.1) ∧ r.base + rowSpan r.dims ≤ R.LAW_NODE :=
  ⟨rowsLaw.take 15, rowsLaw.drop 16, rfl, by decide +kernel⟩

/-- The block of the law engines comes after those that lie above it. -/
theorem regBlocks_split : ∃ l l', regBlocks = l ++ (0x400000, rowsLaw) :: l' ∧ ∀ b ∈ l, 0x800000 ≤ b.1 :=
  ⟨regBlocks.take 14, regBlocks.drop 15, rfl, by decide +kernel⟩

theorem blockRows_law {a : Nat} (h : 0x400000 ≤ a) (h' : a < 0x800000) : blockRows a = rowsLaw := by
  obtain ⟨l, l', hl, habove⟩ := regBlocks_split
  have hfind : regBlocks.find? (fun b => decide (b.1 ≤ a)) = some (0x400000, rowsLaw) := by
    refine List.find?_eq_some_iff_append.2 ⟨decide_eq_true h, l, l', hl, fun b hb => ?_⟩
    have := habove b hb
    simp
    omega
  rw [blockRows, hfind]

theorem findRow_node {n : Nat} (hn : n < 4096) : findRow (R.LAW_NODE + 4 * n) = some nodeRow := by
  have hbase := lawNode_eq
  obtain ⟨l, l', hl, hbelow⟩ := rowsLaw_split
  rw [findRow, blockRows_law (by omega) (by omega)]
  refine List.find?_eq_some_iff_append.2 ⟨rowHas_iff.2 ⟨Nat.le_add_right _ _, ?_⟩, l, l', hl, fun r hr => ?_⟩
  · simp [nodeRow, offsetFits, hn]
  · obtain ⟨hpos, hend⟩ := hbelow r hr
    rw [Bool.not_eq_true', Bool.eq_false_iff]
    intro hhas
    have := lt_rowSpan_of_offsetFits hpos (rowHas_iff.1 hhas).2
    omega

end Sys2Proof

/-! What a register write stores, and how it is refused (O50; R44, R188, R412, R483, R484). -/

namespace Sys2Proof.Machine

variable {s : State} {t : Twin} {tg : Target} {a c n : Nat} {v : W32} {r : RegRow}

/-! Plain words: a write stores the whole of its value and starts nothing. -/

/-- The words of which a store leaves bits as they are, or holds them back. -/
def heldWords : List Nat := [R.CELL_DAMAGE_LO, R.CELL_DAMAGE_HI, R.NEG_PROBE, R.SYS_CTRL, R.ARR_CTRL, R.PWM_GCFG,
  R.TRIP_GCFG, R.DRV_CTRL, R.DRV_D_CTRL, R.CAN_B_CTRL, R.GD_GPB, R.ADC_C_CTRL, R.CAN_B_ECP_REQ, R.STQ_Q_CFG,
  R.CAN_B_HPB_ID, R.NEG_EXP_EVENTS, R.PWM_P_FORCE, R.TIME_RATE, R.ARR_MAP, R.LAW_BLK_LAT, R.SYS_KEYREV,
  R.CAN_B_HPB_DATA, R.CAN_B_OBJ_DATA]

/-- The words of which a store starts something, but those of the trips. -/
def actingWords : List Nat := [R.SYS_CTRL, R.SYS_LIFE, R.SYS_KEYREV, R.CLK_RAMP_CTRL, R.PWR_SLU_CFG, R.TWN_CTRL,
  R.TRB_CTRL, R.ARR_CTRL, R.ARR_CYCLE_LEN.addr, R.ARR_MAP, R.CELL_CTRL, R.LAW_CTRL, R.LAW_BLK_LAT, R.LAW_EVENT,
  R.NEG_CTRL, R.PWM_GCFG, R.PWM_P_CTRL, R.PWM_P_FORCE, R.PWM_P_CFG, R.GD_DIAG_CTRL, R.GD_GPB, R.GD_P_GEN_ON,
  R.GD_P_CFG, R.GD_P_DRIVE, R.TRIP_GCFG, R.TRIP_CLEAR, R.ADC_C_CTRL, R.ADC_C_RCFG, R.ADC_C_ICFG, R.ADC_C_REG,
  R.ADC_C_INJ, R.ADC_CAL_CTRL, R.NET_CTRL, R.NET_CFG, R.TIME_CFG, R.TIME_RATE, R.TIME_STEP, R.TIME_SNAP,
  R.CAN_B_CTRL, R.CAN_B_OBJ_CMD, R.CAN_B_HPB_CMD, R.CAN_B_ECP_REQ, R.SAF_CTRL, R.SAF_CONFIRM, R.HST_H_CFG,
  R.STQ_Q_CFG, R.STQ_Q_MARKS, R.HLT_CTRL, R.DRV_CTRL, R.DRV_CFG, R.DRV_D_CTRL, R.DRV_D_ASC_MARGIN,
  R.DRV_D_ASC_VLIM, R.DRV_D_PSIM, R.DRV_ENC_CFG, R.DRV_HALL_CFG]

/-- A row of plain words: one RW field of all 32 bits. -/
structure PlainRow (r : RegRow) : Prop where
  fields : r.fields.map (fun f => (f.hi, f.lo, f.acc)) = [(31, 0, .rw)]
  stored : r.base ∉ heldWords
  quiet : r.base ∉ actingWords
  noTrip : ¬(R.TRIP_IN ≤ r.base ∧ r.base ≤ R.TRIP_DSN_GROUP)

theorem plainRow_node : PlainRow nodeRow := ⟨rfl, by decide, by decide, by decide⟩

/-- The plain words of nine chapters. -/
def plainWords : List Nat := [R.ARR_INS_RAMP, R.ARR_INS_KEEP, R.ARR_DMG_A, R.ARR_S_VNOM, R.CELL_A_COND, R.CELL_TMAX,
  R.NEG_EXP_PRE, R.NEG_EXP_LEVEL, R.PWM_P_START_S, R.ADC_C_SCALE, R.NET_IP, R.NET_MASK, R.TIME_KP, R.STQ_Q_DEST_IP,
  R.TWN_CELL_TOL, R.DRV_VCH_HI, R.DRV_D_LS, R.DRV_ENC_OFS]

/-- Each has a plain row, and lies outside the host's block. -/
theorem exists_plainRow (ha : a ∈ plainWords) : ∃ r, findRow a = some r ∧ PlainRow r ∧ a / 65536 ≠ 0x150 := by
  have hall : ∀ a ∈ plainWords, (findRow a).any (fun r => r.fields.map (fun f => (f.hi, f.lo, f.acc)) == [(31, 0, .rw)] &&
      !(heldWords.contains r.base) && !(actingWords.contains r.base) &&
      !(decide (R.TRIP_IN ≤ r.base) && decide (r.base ≤ R.TRIP_DSN_GROUP))) = true ∧ a / 65536 ≠ 0x150 := by
    decide +kernel
  obtain ⟨hrow, hblock⟩ := hall a ha
  obtain ⟨r, hr, hp⟩ := (Option.any_eq_true ..).1 hrow
  simp only [Bool.and_eq_true, beq_iff_eq, Bool.not_eq_true', List.contains_eq_mem, decide_eq_false_iff_not,
    Bool.and_eq_false_iff] at hp
  obtain ⟨⟨⟨hfields, hstored⟩, hquiet⟩, htrip⟩ := hp
  exact ⟨r, hr, ⟨hfields, hstored, hquiet, fun h => htrip.elim (fun h1 => h1 h.1) fun h2 => h2 h.2⟩, hblock⟩

/-- A plain word is stored whole. -/
theorem storeWord_plain (h : PlainRow r) : storeWord r a v s t = wr s t a v := by
  obtain ⟨f, hf, hhi⟩ := List.map_eq_singleton_iff.1 h.fields
  obtain ⟨hhi, hlo, hacc⟩ : f.hi = 31 ∧ f.lo = 0 ∧ f.acc = .rw := by simpa using hhi
  have hs := h.stored
  simp only [heldWords, List.mem_cons, List.not_mem_nil, or_false, not_or] at hs
  have hmask : ∀ k j, heldMask s t r.base k j = 0#32 := fun k j => by simp [heldMask, hs]
  have hstore : storable r.base v = v := by simp [storable, hs]
  have hones : v &&& 4294967295#32 = v := BitVec.and_allOnes
  simp [storeWord, hs, hmask, hstore, hf, storeField, hacc, hhi, hlo, putBits_bits_full, hones]

/-- It starts nothing: the requests of every block are those of acting words. -/
theorem act_plain (h : PlainRow r) (ts : List Twin) (old : W32) : act s tg ts c r a old v = s := by
  have hq := h.quiet
  have htrip := h.noTrip
  simp only [actingWords, List.mem_cons, List.not_mem_nil, or_false, not_or] at hq
  unfold act
  split <;> simp [sysAct, arrAct, edgeAct, adcAct, netAct, safAct, drvAct, lawAct, hq, htrip]

/-! The value in each twin. -/

/-- The value written into each of some twins. -/
def storeEach (ts : List Twin) (a : Nat) (v : W32) (s : State) : State := ts.foldl (fun s t => wr s t a v) s

theorem storeEach_report (ts : List Twin) (s : State) : (storeEach ts a v s).report = s.report :=
  List.foldlRecOn (motive := fun u : State => u.report = s.report) ts _ rfl fun _ hu _ _ => (wr_report ..).trans hu

theorem rd_storeEach (h : RegsOk s) (ts : List Twin) (t : Twin) (b : Nat) :
    rd (storeEach ts a v s) t b = if t ∈ ts ∧ b = a then v else rd s t b := by
  induction ts generalizing s with
  | nil => simp [storeEach]
  | cons u ts ih =>
    have hrest : storeEach (u :: ts) a v s = storeEach ts a v (wr s u a v) := rfl
    rw [hrest, ih (h.wr a v), rd_wr h]
    by_cases hb : b = a
    · by_cases ht : t ∈ ts
      · simp [hb, ht]
      · simp [hb, ht]
    · simp [hb]

/-! A write of one value: its form, its presence, its judgement and its store. -/

theorem twinsCode_eq_ok {l : List Twin} {f : Twin → Nat} (h : ∀ t ∈ l, f t = Rc.OK) : twinsCode l f = Rc.OK := by
  have hnone : (l.map f).find? (· != Rc.OK) = none := by
    simpa [List.find?_eq_none] using h
  rw [twinsCode, hnone, Option.getD_none]

theorem twinsCode_of_head {l : List Twin} {f : Twin → Nat} (ht : l.head? = some t) (h : f t ≠ Rc.OK) :
    twinsCode l f = f t := by
  obtain ⟨r, rfl⟩ := List.head?_eq_some_iff.1 ht
  rw [twinsCode, List.map_cons, List.find?_cons_of_pos (by simpa using h), Option.getD_some]

/-- A context is one of eight. -/
theorem groupOwner_lt (s : State) (g : Nat) : (groupOwner s g).getD 0 < 8 := by
  have hbits : ∀ w : W32, bits w (3 * g + 2) (3 * g) < 8 := fun w => by
    have h3 : 3 * g + 2 + 1 - 3 * g = 3 := by omega
    rw [bits, h3]
    exact Nat.mod_lt _ (by decide)
  rw [groupOwner]
  split
  · decide
  · exact hbits _

theorem writeWord_reserved (hr : findRow a = none) (hb : inBlocks a = false) :
    writeWord s tg c a v = say s Rc.ADDR_INVALID := by
  simp [writeWord, writeEach, hr, firstCode, hb]

theorem writeWord_agreedOnly (hr : findRow a = some r) (hw : agreedWrite s r a v = true) :
    writeWord s (.one t) c a v = say s Rc.AGREED_ONLY := by
  have hcode : Rc.AGREED_ONLY ≠ Rc.OK := by decide
  simp [writeWord, writeEach, hr, firstCode, hw, hcode]

theorem writeWord_oneTwin (hr : findRow a = some r) (hw : oneTwinWord r.base v = true) :
    writeWord s .both c a v = say s Rc.PARAM_ORDER := by
  have hcode : Rc.PARAM_ORDER ≠ Rc.OK := by decide
  simp [writeWord, writeEach, hr, firstCode, hw, hcode]

/-- The word may be written in the twins addressed: an agreed word in both, a word of one twin in one (R188, R412). -/
def formOk (s : State) (tg : Target) (r : RegRow) (a : Nat) (v : W32) : Prop :=
  (if tg = .both then oneTwinWord r.base v else agreedWrite s r a v) = false

/-- What a write leaves that passes its checks: the value stored in each twin, and what that starts. -/
def writeDone (s : State) (tg : Target) (c : Nat) (r : RegRow) (a : Nat) (v : W32) : State :=
  let ts := writeTwins s tg
  refused s (act (ts.foldl (fun s t => storeWord r a v s t) (say s Rc.OK)) tg ts c r a (rd s (ts.headD .a) a) v) r.base

/-- A write of the right form, to a word outside the host's block, is judged by who is there and then in each twin. -/
theorem writeWord_formOk (hr : findRow a = some r) (hf : formOk s tg r a v) (ha : a / 65536 ≠ 0x150) (hc : c < 8) :
    writeWord s tg c a v =
      if (writeTwins s tg).isEmpty || (writeTwins s tg).any fun t => !(reaches s t r.base) then say s Rc.TWIN_ABSENT
      else if twinsCode (writeTwins s tg) (fun t => judge s t r a v) ≠ Rc.OK then
        say s (twinsCode (writeTwins s tg) fun t => judge s t r a v)
      else writeDone s tg c r a v := by
  have hown : ¬ a = Machine.ha R.HST_H_CFG c := by
    have hcfg : R.HST_H_CFG = 0x1500100 := rfl
    rw [Machine.ha]
    omega
  have habsent : Rc.TWIN_ABSENT ≠ Rc.OK := by decide
  by_cases hx : ((writeTwins s tg).isEmpty || (writeTwins s tg).any fun t => !(reaches s t r.base)) = true
  · cases tg <;> simp only [formOk, reduceCtorEq, if_true, if_false] at hf <;>
      simp [writeWord, writeEach, hr, firstCode, hf, hown, habsent, hx]
  · cases tg <;> simp only [formOk, reduceCtorEq, if_true, if_false] at hf <;>
      simp [writeWord, writeEach, hr, firstCode, hf, hown, writeDone, hx]

section
variable (hr : findRow a = some r) (hf : formOk s tg r a v) (ha : a / 65536 ≠ 0x150) (hc : c < 8)
include hr hf ha hc

theorem writeWord_absent (hts : writeTwins s tg = []) : writeWord s tg c a v = say s Rc.TWIN_ABSENT := by
  rw [writeWord_formOk hr hf ha hc, if_pos (by simp [hts])]

theorem writeWord_present (hts : writeTwins s tg ≠ []) (hreach : ∀ t ∈ writeTwins s tg, reaches s t r.base = true) :
    writeWord s tg c a v =
      if twinsCode (writeTwins s tg) (fun t => judge s t r a v) ≠ Rc.OK then
        say s (twinsCode (writeTwins s tg) fun t => judge s t r a v)
      else writeDone s tg c r a v := by
  rw [writeWord_formOk hr hf ha hc, if_neg (by simpa [hts] using hreach)]

end

theorem refused_of_ok {s1 : State} {b : Nat} (h : s1.report = Rc.OK) : refused s s1 b = s1 := by
  rw [refused, if_pos (.inl h)]

/-- A write to a plain word leaves its value in each twin, and OK. -/
theorem writeDone_plain (h : PlainRow r) : writeDone s tg c r a v = storeEach (writeTwins s tg) a v (say s Rc.OK) := by
  have hstore : (writeTwins s tg).foldl (fun s t => storeWord r a v s t) (say s Rc.OK) =
      storeEach (writeTwins s tg) a v (say s Rc.OK) := by
    simp only [storeWord_plain h, storeEach]
  rw [writeDone, hstore, act_plain h]
  exact refused_of_ok (storeEach_report _ _)

/-- What a write to a plain word does that passes its checks. -/
theorem writeWord_plain (hs : RegsOk s) (hr : findRow a = some r) (hp : PlainRow r) (hf : formOk s tg r a v)
    (ha : a / 65536 ≠ 0x150) (hc : c < 8) (hts : writeTwins s tg ≠ [])
    (hreach : ∀ t ∈ writeTwins s tg, reaches s t r.base = true)
    (hok : twinsCode (writeTwins s tg) (fun t => judge s t r a v) = Rc.OK) :
    (writeWord s tg c a v).report = Rc.OK ∧ ∀ t b, rd (writeWord s tg c a v) t b =
      if t ∈ writeTwins s tg ∧ b = a then v else rd s t b := by
  have hdone : writeWord s tg c a v = storeEach (writeTwins s tg) a v (say s Rc.OK) := by
    rw [writeWord_present hr hf ha hc hts hreach, if_neg (not_not_intro hok), writeDone_plain hp]
  rw [hdone]
  refine ⟨storeEach_report _ _, fun t b => ?_⟩
  rw [rd_storeEach ((regsOk_say _).2 hs), rd_say]

/-! The input nodes of a graph. -/

/-- Node `n` of the graph that a twin runs is one that the host writes (R188). -/
def hostNode (s : State) (t : Twin) (n : Nat) : Bool :=
  ((graph s t).bind (fun g => g.nodes[n]?)).any (fun x => x.kind == 2)

theorem toNat_node (hn : n < 4096) : (BitVec.ofNat 32 (R.LAW_NODE + 4 * n)).toNat = R.LAW_NODE + 4 * n := by
  rw [BitVec.toNat_ofNat, lawNode_eq]
  omega

theorem node_block (hn : n < 4096) : (R.LAW_NODE + 4 * n) / 0x10000 = 0x48 := by
  rw [lawNode_eq]
  omega

/-- The safety parameters lie above the law engines. -/
theorem safetyParam_of_lt (h : a < 0x800000) : safetyParam a = false := by
  have hne : ∀ b, 0x800000 ≤ b → ¬ b ≤ a ∧ ¬ a = b := fun b hb => by omega
  have hkt : ¬ R.DRV_D_KT + 256 ≤ a := (hne _ (by decide)).1
  simp [safetyParam, hne R.SAF_GCFG (by decide), hne R.SAF_OUTCFG (by decide), hne R.SAF_F_CFG (by decide),
    hne R.TWN_EPOCH_BASE (by decide), hne R.DRV_D_KT (by decide), hkt]

/-- No word of a node is locked, idle only or bound to a range. -/
theorem genericCode_node (s : State) (t : Twin) (a : Nat) (v : W32) : genericCode s t nodeRow a v = Rc.OK := by
  have hmax : bits v 31 0 ≤ 4294967295 := by
    have := v.isLt
    simp only [bits]
    omega
  simp [genericCode, firstCode, rwlChange, nodeRow, fld, hmax]

theorem judge_node (s : State) (t : Twin) (hn : n < 4096) (v : W32) : judge s t nodeRow (R.LAW_NODE + 4 * n) v =
    if hostNode s t n = true then (if F32.isNan v = true then Rc.PARAM_ORDER else Rc.OK) else Rc.NODE_RO := by
  have hlt : R.LAW_NODE + 4 * n < 0x800000 := by
    have hblock := node_block hn
    omega
  have hidx : rowIdx nodeRow.dims (R.LAW_NODE + 4 * n - nodeRow.base) = [n] := by
    simp [rowIdx, nodeRow]
  rw [judge, genericCode_node, if_neg (not_not_intro rfl), safetyParam_of_lt hlt, hidx, node_block hn]
  simp only [List.getD_cons_zero, lawCode, nodeRow, if_true, firstCode]
  cases h : hostNode s t n <;> rw [hostNode] at h <;> simp [h]

theorem formOk_node (s : State) (a : Nat) (v : W32) : formOk s .both nodeRow a v := by
  have hbase : nodeRow.base = 0x480000 := rfl
  simp [formOk, oneTwinWord, hbase, R.SYS_CTRL, R.TWN_CTRL]

/-- A twin that a both-agreed write develops in takes it (R412). -/
theorem reaches_of_mem_both (ht : t ∈ writeTwins s .both) (b : Nat) : reaches s t b = true := by
  have hst : absent s t = false := by
    simp only [writeTwins, List.mem_filter, inPair, Bool.or_eq_true, beq_iff_eq] at ht
    obtain ⟨-, (h | h) | h⟩ := ht <;> rw [absent, h] <;> decide
  rw [reaches, hst]
  rfl

theorem exec_registerWrite (s : State) (tg : Target) (x v : W32) : ∃ c < 8,
    exec (.registerWrite tg x v) s = .next (writeWord s tg c x.toNat v) :=
  ⟨_, groupOwner_lt s 4, rfl⟩

/-- A both-agreed write of a number to a host input node. -/
theorem exec_registerWrite_node (h : RegsOk s) (hn : n < 4096) (hts : writeTwins s .both ≠ [])
    (hhost : ∀ t ∈ writeTwins s .both, hostNode s t n = true) (hv : F32.isNan v = false) :
    ∃ u, exec (.registerWrite .both (BitVec.ofNat 32 (R.LAW_NODE + 4 * n)) v) s = .next u ∧ u.report = Rc.OK ∧
      ∀ t ∈ writeTwins s .both, rd u t (R.LAW_NODE + 4 * n) = v := by
  obtain ⟨c, hc, hexec⟩ := exec_registerWrite s .both (BitVec.ofNat 32 (R.LAW_NODE + 4 * n)) v
  rw [toNat_node hn] at hexec
  have hok : twinsCode (writeTwins s .both) (fun t => judge s t nodeRow (R.LAW_NODE + 4 * n) v) = Rc.OK :=
    twinsCode_eq_ok fun t ht => by rw [judge_node s t hn, if_pos (hhost t ht), if_neg (by simp [hv])]
  obtain ⟨hreport, hrd⟩ := writeWord_plain h (findRow_node hn) plainRow_node (formOk_node s _ v)
    (by rw [node_block hn]; decide) hc hts (fun t ht => reaches_of_mem_both ht _) hok
  exact ⟨_, hexec, hreport, fun t ht => by rw [hrd, if_pos ⟨ht, rfl⟩]⟩

/-- And to a node that the host does not write (R188). -/
theorem exec_registerWrite_readOnly (hn : n < 4096) (ht : (writeTwins s .both).head? = some t)
    (hhost : hostNode s t n = false) :
    exec (.registerWrite .both (BitVec.ofNat 32 (R.LAW_NODE + 4 * n)) v) s = .next (say s Rc.NODE_RO) := by
  obtain ⟨c, hc, hexec⟩ := exec_registerWrite s .both (BitVec.ofNat 32 (R.LAW_NODE + 4 * n)) v
  have hro : judge s t nodeRow (R.LAW_NODE + 4 * n) v = Rc.NODE_RO := by
    rw [judge_node s t hn, if_neg (by simp [hhost])]
  have hcode : Rc.NODE_RO ≠ Rc.OK := by decide
  have hts : writeTwins s .both ≠ [] := fun e => by simp [e] at ht
  rw [hexec, toNat_node hn, writeWord_present (findRow_node hn) (formOk_node s _ v) (by rw [node_block hn]; decide) hc hts
    fun u hu => reaches_of_mem_both hu _, twinsCode_of_head ht (by rw [hro]; exact hcode), hro, if_pos hcode]

theorem exec_registerWrite_noTwin (hn : n < 4096) (hts : writeTwins s .both = []) :
    exec (.registerWrite .both (BitVec.ofNat 32 (R.LAW_NODE + 4 * n)) v) s = .next (say s Rc.TWIN_ABSENT) := by
  obtain ⟨c, hc, hexec⟩ := exec_registerWrite s .both (BitVec.ofNat 32 (R.LAW_NODE + 4 * n)) v
  rw [hexec, toNat_node hn, writeWord_absent (findRow_node hn) (formOk_node s _ v) (by rw [node_block hn]; decide) hc hts]

/-! The words of the statement. -/

/-- A write to one of the plain words that every twin takes. -/
theorem exec_registerWrite_plain {x : W32} (h : RegsOk s) (hx : x.toNat ∈ plainWords)
    (hform : ∀ r, findRow x.toNat = some r → formOk s tg r x.toNat v) (ht : t ∈ writeTwins s tg)
    (hall : ∀ t ∈ writeTwins s tg, absent s t = false)
    (hok : ∀ r, findRow x.toNat = some r → twinsCode (writeTwins s tg) (fun t => judge s t r x.toNat v) = Rc.OK) :
    ∃ u, exec (.registerWrite tg x v) s = .next u ∧ u.report = Rc.OK ∧ rd u t x.toNat = v ∧
      SameRegs s u t [x.toNat] := by
  obtain ⟨c, hc, hexec⟩ := exec_registerWrite s tg x v
  obtain ⟨r, hr, hp, hblock⟩ := exists_plainRow hx
  obtain ⟨hreport, hrd⟩ := writeWord_plain h hr hp (hform r hr) hblock hc (List.ne_nil_of_mem ht)
    (fun u hu => by rw [reaches, hall u hu]; rfl) (hok r hr)
  refine ⟨_, hexec, hreport, by rw [hrd, if_pos ⟨ht, rfl⟩], fun b hb => ?_⟩
  rw [hrd, if_neg fun e => hb (by simp [e.2])]

/-- Settles O50, clause by clause. -/
theorem registerWriteTakesOrRefuses : Obligations.RegisterWriteTakesOrRefuses := by
  refine ⟨fun s n v h hts hhost hv => ?_, fun s n v hts _ hhost => ?_, fun s tg t x v h hx hform ht hall hok => ?_,
    fun s tg x v r hr hblock hform hts hreach hcode => ?_, fun s t x v r hr hw => ?_, fun s x v r hr hw => ?_,
    fun s tg x v hx => ?_, fun s n v hts => ⟨_, exec_registerWrite_noTwin n.isLt hts, rfl⟩⟩
  · obtain ⟨u, hu, hreport, hrd⟩ := exec_registerWrite_node h n.isLt hts (List.all_eq_true.1 hhost) hv
    exact ⟨u, hu, hreport, List.all_eq_true.2 fun t ht => by rw [hrd t ht, beq_self_eq_true]⟩
  · obtain ⟨t, ht⟩ := Option.isSome_iff_exists.1 (List.isSome_head?.2 hts)
    rw [ht, Option.bind_some] at hhost
    exact ⟨_, exec_registerWrite_readOnly n.isLt ht hhost, rfl⟩
  · refine exec_registerWrite_plain h hx (fun r hr => ?_) ht (fun u hu => ?_) fun r hr => ?_
    · simpa only [formOk, hr, Option.any_some] using hform
    · simpa using List.all_eq_true.1 hall u hu
    · simpa only [hr, Option.elim_some] using hok
  · obtain ⟨c, hc, hexec⟩ := exec_registerWrite s tg x v
    refine ⟨_, hexec, ?_⟩
    rw [writeWord_present hr hform hblock hc hts (List.all_eq_true.1 hreach), if_pos hcode]
    rfl
  · obtain ⟨c, -, hexec⟩ := exec_registerWrite s (.one t) x v
    exact ⟨_, hexec, writeWord_agreedOnly hr hw⟩
  · obtain ⟨c, -, hexec⟩ := exec_registerWrite s .both x v
    exact ⟨_, hexec, writeWord_oneTwin hr hw⟩
  · obtain ⟨c, -, hexec⟩ := exec_registerWrite s tg x v
    refine ⟨_, hexec, writeWord_reserved (Option.eq_none_iff_forall_ne_some.2 fun r hr => ?_) hx⟩
    simp [inBlocks_of_findRow hr] at hx

end Sys2Proof.Machine

/-! The blocks of R14 that an operation works on, and those it leaves alone (O9). -/

namespace Sys2Proof.Machine

variable {K : Nat → Prop} {l : List Nat} {s0 s s' : State} {t : Twin}

/-- The address lies in one of the blocks of the list. -/
def inside (l : List Nat) (a : Nat) : Bool := (blockOf a).any l.contains

/-- The words outside the blocks of the list are as they were. -/
abbrev OutsideKept (l : List Nat) := RegsKept (fun a => inside l a = false)

theorem not_outside {a : Nat} (h : inside l a = true) : ¬ inside l a = false := by
  rw [h]
  decide

theorem inside_eq_false {a : Nat} (h : ∀ b, blockOf a = some b → b ∉ l) : inside l a = false := by
  rw [inside]
  cases hb : blockOf a with
  | none => rfl
  | some b => simpa using h b hb

theorem inside_of_blockOf {a b : Nat} (h : blockOf a = some b) (hb : b ∈ l) : inside l a = true := by
  simp [inside, h, hb]

/-- An address from the base of a block up to the next one lies in it. -/
theorem blockOf_between {n lo hi a : Nat} (hlo : ∀ b ∈ blockBases.take (n + 1), b ≤ lo)
    (hhi : ∀ b ∈ blockBases.drop (n + 1), hi ≤ b) (hn : n < 20) (hend : hi ≤ 0x1A00000) (h : lo ≤ a) (h' : a < hi) :
    blockOf a = some n := by
  have hbelow : (blockBases.take (n + 1)).filter (fun b => decide (b ≤ a)) = blockBases.take (n + 1) :=
    List.filter_eq_self.2 fun b hb => decide_eq_true (Nat.le_trans (hlo b hb) h)
  have habove : (blockBases.drop (n + 1)).filter (fun b => decide (b ≤ a)) = [] :=
    List.filter_eq_nil_iff.2 fun b hb => by
      have := hhi b hb
      simp
      omega
  have hlength : (blockBases.take (n + 1)).length = n + 1 := by
    rw [List.length_take, show blockBases.length = 20 from rfl]
    omega
  rw [blockOf, if_pos (Nat.lt_of_lt_of_le h' hend), ← List.take_append_drop (n + 1) blockBases, List.filter_append, hbelow,
    habove, List.append_nil, hlength, Nat.add_sub_cancel]

theorem blockOf_array {a : Nat} (h : 0x200000 ≤ a) (h' : a < 0x300000) : blockOf a = some 3 :=
  blockOf_between (by decide) (by decide) (by decide) (by decide) h h'

theorem blockOf_cells {a : Nat} (h : 0x300000 ≤ a) (h' : a < 0x400000) : blockOf a = some 4 :=
  blockOf_between (by decide) (by decide) (by decide) (by decide) h h'

theorem blockOf_rings {a : Nat} (h : 0x100000 ≤ a) (h' : a < 0x200000) : blockOf a = some 2 :=
  blockOf_between (by decide) (by decide) (by decide) (by decide) h h'

/-- A counter of the blocks is counted, with an overflow flag that lies there too (R8). -/
theorem outsideKept_cnt (h : OutsideKept l s0 s) {a : Nat} (ha : inside l a = true)
    (ho : ((counterOvf a).all fun p => inside l p.1) = true) : OutsideKept l s0 (cnt s t a) :=
  h.cnt (not_outside ha) fun w i hw => not_outside (by simpa [hw] using ho)

theorem regsKept_twnFlags (h : RegsKept K s0 s) (hK : ¬ K R.TWN_STATE) (t : Twin) : RegsKept K s0 (twnFlags s t) :=
  ((((h.wf hK _).wf hK _).wf hK _).wf hK _).wf hK _

/-! Cells: their index in the mapping table bounds their words. -/

theorem lt_of_mem_mapList {e : Nat × W32} (h : e ∈ mapList s t) : e.1 < 192 := by
  obtain ⟨x, hx, rfl⟩ := List.mem_map.1 (List.mem_of_mem_filter h)
  have hin := (List.mem_filter.1 hx).2
  simp only [Bool.and_eq_true, decide_eq_true_eq] at hin
  dsimp only
  omega

theorem lt_of_mem_strIn {st k : Nat} {codes : List Nat} (h : k ∈ strIn s t st codes) : k < 192 := by
  obtain ⟨e, he, rfl⟩ := List.mem_map.1 (List.mem_of_mem_filter h)
  exact lt_of_mem_mapList (List.mem_of_mem_filter he)

theorem regsKept_modCellX (h : RegsKept K s0 s) (k : Nat) (f : CellX → CellX) : RegsKept K s0 (modCellX s t k f) :=
  h.keep (modCellX_keeps (Keeps.refl _ s) t k f id)

section
variable (hcell : ∀ a, 0x300000 ≤ a → a < 0x400000 → ¬ K a)
include hcell

/-- A word of a cell's block is written. -/
theorem regsKept_cellWord (h : RegsKept K s0 s) {a k : Nat} (ha : 0x300000 ≤ a) (ha' : a < 0x300100) (hk : k < 192) (v : W32) :
    RegsKept K s0 (wr s t (a + 256 * k) v) :=
  h.wr (hcell _ (by omega) (by omega)) v

theorem regsKept_cellField (h : RegsKept K s0 s) {f : Fld} {k : Nat} (hf : 0x300000 ≤ f.addr) (hf' : f.addr < 0x300100)
    (hk : k < 192) (v : Nat) : RegsKept K s0 (wf s t (fo f (256 * k)) v) :=
  regsKept_cellWord hcell h hf hf' hk _

theorem regsKept_setCellSt (h : RegsKept K s0 s) {k : Nat} (hk : k < 192) (v : Nat) : RegsKept K s0 (setCellSt s t k v) :=
  regsKept_cellField hcell h (by decide) (by decide) hk v

theorem regsKept_addDamage (h : RegsKept K s0 s) {k : Nat} (hk : k < 192) (range mean : W32) (half : Bool) :
    RegsKept K s0 (addDamage s t k range mean half) := by
  have hovf : ∀ k < 192, counterOvf (R.CELL_TCYCLES + 256 * k) = none := by decide +kernel
  have haddr : R.CELL_TCYCLES = 0x300038 := rfl
  have h1 : RegsKept K s0 (cnt s t (R.CELL_TCYCLES + 256 * k)) :=
    h.cnt (hcell _ (by omega) (by omega)) (by simp [hovf k hk])
  unfold addDamage
  exact h1.ite (regsKept_cellWord hcell (regsKept_cellWord hcell h1 (by decide) (by decide) hk _) (by decide) (by decide) hk _)

theorem regsKept_pushTurn (h : RegsKept K s0 s) {k : Nat} (hk : k < 192) (v : W32) : RegsKept K s0 (pushTurn s t k v) := by
  unfold pushTurn
  extract_lets st full x1 x2 s1 r s2
  have h1 : RegsKept K s0 s1 := (regsKept_addDamage hcell h hk _ _ _).ite h
  exact (regsKept_modCellX h1 k _).foldl fun _ _ _ hs => regsKept_addDamage hcell hs hk _ _ _

/-- Whichever way a temperature turns, the cell's own words take it (R61). -/
theorem regsKept_rainflow (h : RegsKept K s0 s) {k : Nat} (hk : k < 192) (tj : W32) : RegsKept K s0 (rainflow s t k tj) := by
  unfold rainflow
  extract_lets x hyst up down turn
  have hturn : ∀ d, RegsKept K s0 (turn d) := fun d =>
    regsKept_pushTurn hcell (regsKept_modCellX h k _) hk _
  have hmove : ∀ f, RegsKept K s0 (modCellX s t k f) := regsKept_modCellX h k
  split
  · exact (hturn 1).ite ((hturn 2).ite h)
  · exact (hmove _).ite ((hturn 2).ite h)
  · exact (hmove _).ite ((hturn 1).ite h)

theorem regsKept_thermalCell (h : RegsKept K s0 s) {k : Nat} (hk : k < 192) : RegsKept K s0 (thermalCell s t k) := by
  unfold thermalCell
  extract_lets x tth p al st d1 d2 tj s1
  have h1 : RegsKept K s0 s1 := regsKept_modCellX h k _
  exact regsKept_rainflow hcell (regsKept_cellWord hcell h1 (by decide) (by decide) hk _) hk _

theorem regsKept_estCell (h : RegsKept K s0 s) {k : Nat} (hk : k < 192) (omega : W32) :
    RegsKept K s0 (estCell s t k omega) := by
  unfold estCell
  extract_lets x whole den re im amp good s1 c tw tau seeded put s2 s3
  have h1 : RegsKept K s0 s1 := regsKept_modCellX h k _
  have h2 : RegsKept K s0 s2 := regsKept_cellWord hcell (regsKept_cellWord hcell h1 (by decide) (by decide) hk _)
    (by decide) (by decide) hk _
  have h3 : RegsKept K s0 s3 := h2.ite (regsKept_modCellX h2 k _)
  refine h1.ite (RegsKept.ite ?_ ?_)
  · exact regsKept_cellField hcell h1 (by decide) (by decide) hk 1
  · exact regsKept_cellField hcell (regsKept_cellField hcell h3 (by decide) (by decide) hk 0) (by decide) (by decide) hk 1

/-- The ranks of a string are shown in its cells. -/
theorem regsKept_showRanks (h : RegsKept K s0 s) {st : Nat} (hr : ∀ k ∈ (strX s t st).ranks, k < 192) :
    RegsKept K s0 (showRanks s t st) := by
  refine h.foldl fun s p hp hs => ?_
  exact regsKept_cellField hcell hs (by decide) (by decide) (hr _ (List.of_mem_zip (a := p.1) (b := p.2) hp).1) p.2

end

section
variable (harr : ∀ a, 0x200000 ≤ a → a < 0x300000 → ¬ K a)
include harr

theorem regsKept_showString (h : RegsKept K s0 s) {st : Nat} (hst : st < 8) : RegsKept K s0 (showString s t st) := by
  have hword : ¬ K (0x200130 + 64 * st) := harr _ (by omega) (by omega)
  exact ((h.wf (f := sf R.ARR_S_STATUS_NACT st) hword _).wf (f := sf R.ARR_S_STATUS_NINS st) hword _).wf
    (f := sf R.ARR_S_STATUS_NSPARE st) hword _

end

theorem mapString_lt (w : W32) : mapString w < 8 := Nat.mod_lt _ (by decide)

/-- A value other than the default reads back from any table. -/
theorem tabGet_tabSet_of_ne {α : Type} [DecidableEq α] {d v : α} (hv : v ≠ d) (l : Tab α) (k : Nat) :
    tabGet d (tabSet d l k v) k = v := by
  induction l with
  | nil => simp [tabSet, tabPut, tabGet, hv]
  | cons e r ih =>
    simp only [tabSet, tabPut, hv, ne_eq, not_false_eq_true, decide_true, if_true] at ih ⊢
    split
    · simp [tabGet]
    · split
      · simp [tabGet]
      next hne hlt => simp [tabGet, hne, hlt, ih]

theorem strX_modStrX {st : Nat} {f : StrX → StrX} (hf : f (strX s t st) ≠ {}) :
    strX (modStrX s t st f) t st = f (strX s t st) := by
  rw [strX, modStrX, modArr, setTw_tw]
  exact tabGet_tabSet_of_ne hf _ st

/-- The ranks of a string whose rotation count runs are those of its cells in use, whatever they were (R486). -/
theorem regsKept_rerank (hcell : ∀ a, 0x300000 ≤ a → a < 0x400000 → ¬ K a) (harr : ∀ a, 0x200000 ≤ a → a < 0x300000 → ¬ K a)
    (h : RegsKept K s0 s) {st : Nat} (hst : st < 8) (hrot : (strX s t st).rotAt ≠ 0) : RegsKept K s0 (rerank s t st) := by
  unfold rerank
  extract_lets live kept fresh
  refine regsKept_showString harr (regsKept_showRanks hcell (h.keep (modStrX_keeps (Keeps.refl _ s) t st _ id)) ?_) hst
  rw [strX_modStrX fun he => hrot (congrArg StrX.rotAt he)]
  intro k hk
  obtain hk | hk := List.mem_append.1 hk
  · exact lt_of_mem_strIn (List.contains_iff_mem.1 (List.mem_filter.1 hk).2)
  · exact lt_of_mem_strIn (List.mem_of_mem_filter hk)

/-- A spare that enters INSERTING restarts the rotation count of its string (R70, R73). -/
theorem rotAt_insertStart (s : State) (t : Twin) (k : Nat) (repl : Option Nat) :
    (strX (insertStart s t k repl) t (mapString (rd s t (R.ARR_MAP + 4 * k)))).rotAt ≠ 0 := by
  unfold insertStart
  extract_lets st n s1
  rw [strX_modStrX fun he => by simpa using congrArg StrX.rotAt he]
  exact Nat.succ_ne_zero _

end Sys2Proof.Machine

/-! The array, ring, law-engine and twin commands work on their own blocks (O9). -/

namespace Sys2Proof.Machine

variable {l : List Nat} {s0 s u : State} {t : Twin}

/-- Of a meaning's answer: the words outside the blocks of the list are as they were. -/
def OutOutside (l : List Nat) (s : State) : Out → Prop
  | .next u => OutsideKept l s u
  | _ => True

/-! The rings. -/

theorem outsideKept_setRing (h : OutsideKept [2] s0 s) (t : Twin) (c : Fin 12) (v : Nat) :
    OutsideKept [2] s0 (setRing s t c.val v) := by
  refine regsKept_setRing (fun a ha => ?_) h t c.isLt v
  by_contra hin
  simp only [not_or, Nat.not_lt, Nat.not_le] at hin
  exact not_outside (inside_of_blockOf (blockOf_rings hin.1 hin.2) List.mem_cons_self) ha

theorem inside_ringWords (c : Fin 12) : inside [2] (tf R.TRB_STATE_RX_SYNC c.val).addr = true ∧
    inside [2] (tf R.TRB_EVENT_PROBE_STALE c.val).addr = true ∧ inside [2] (ta R.TRB_RX_MISSING c.val) = true ∧
    ((counterOvf (ta R.TRB_RX_MISSING c.val)).all fun p => inside [2] p.1) = true := by
  revert c
  decide +kernel

theorem execRingRxSync_outside (h : RegsOk s) (t : Twin) (c : Fin 12) : OutOutside [2] s (execRingRxSync t c s) := by
  have hword := not_outside (inside_ringWords c).1
  have h0 : OutsideKept [2] s s := RegsKept.refl h
  refine RegsKept.ite (RegsKept.keep ?_ (modRingX_keeps (Keeps.refl _ _) t c.val _ id)) h0
  exact (((outsideKept_setRing h0 t c 3).wf (f := tf R.TRB_STATE_RX_SYNC c.val) hword 1).wf
    (f := tf R.TRB_STATE_WRAPPED c.val) hword 0).wf (f := tf R.TRB_STATE_WRAP_POS c.val) hword 0

theorem execReturnDeadline_outside (h : RegsOk s) (t : Twin) (c : Fin 12) : OutOutside [2] s (execReturnDeadline t c s) := by
  obtain ⟨-, -, hword, hovf⟩ := inside_ringWords c
  have h0 : OutsideKept [2] s s := RegsKept.refl h
  exact (outsideKept_cnt (h0.keep (modRingX_keeps (Keeps.refl _ s) t c.val _ id)) hword hovf).ite h0

theorem execProbeStale_outside (h : RegsOk s) (t : Twin) (c : Fin 12) : OutOutside [2] s (execProbeStale t c s) := by
  have h0 : OutsideKept [2] s s := RegsKept.refl h
  exact h0.ite (h0.ev (not_outside (inside_ringWords c).2.1))

/-! The mapping table and the cells. -/

theorem cellWords_inside (hl : 4 ∈ l) : ∀ a, 0x300000 ≤ a → a < 0x400000 → ¬ inside l a = false :=
  fun _ ha ha' => not_outside (inside_of_blockOf (blockOf_cells ha ha') hl)

theorem arrayWords_inside (hl : 3 ∈ l) : ∀ a, 0x200000 ≤ a → a < 0x300000 → ¬ inside l a = false :=
  fun _ ha ha' => not_outside (inside_of_blockOf (blockOf_array ha ha') hl)

/-- The mapping table lies in the array's block. -/
theorem mapWord_inside (hl : 3 ∈ l) (k : Fin 192) : ¬ inside l (R.ARR_MAP + 4 * k.val) = false :=
  arrayWords_inside hl _ (by simp only [R.ARR_MAP]; omega) (by simp only [R.ARR_MAP]; omega)

theorem execMapEntryWrite_outside (h : RegsOk s) (k : Fin 192) (v : W32) : OutOutside [3] s (execMapEntryWrite k v s) := by
  have h0 : OutsideKept [3] s s := RegsKept.refl h
  refine RegsKept.ite (h0.keep (say_keeps (Keeps.refl _ s) _)) (RegsKept.keep ?_ (say_keeps (Keeps.refl _ _) _))
  exact h0.onBoth fun _ _ hs => hs.wr (mapWord_inside List.mem_cons_self k) _

theorem execThermalUpdate_outside (h : RegsOk s) (t : Twin) : OutOutside [4] s (execThermalUpdate t s) :=
  (RegsKept.refl h).foldl fun _ _ _ hs => hs.foldl fun _ _ hk hs' =>
    regsKept_thermalCell (cellWords_inside List.mem_cons_self) hs' (lt_of_mem_strIn hk)

theorem lt_of_mem_weights {st : Nat} {p : Nat × W32} (h : p ∈ weights s t st) : p.1 < 192 := by
  have hact : p.1 ∈ strIn s t st [csActive] := by
    unfold weights at h
    extract_lets at h
    split at h
    · obtain ⟨k, hk, rfl⟩ := List.mem_map.1 h
      exact hk
    · exact (List.of_mem_zip (a := p.1) (b := p.2) h).1
  exact lt_of_mem_strIn hact

theorem execWeightUpdate_outside (h : RegsOk s) (t : Twin) : OutOutside [4] s (execWeightUpdate t s) :=
  (RegsKept.refl h).foldl fun _ _ _ hs => hs.foldl fun _ _ hp hs' =>
    regsKept_cellWord (cellWords_inside List.mem_cons_self) hs' (by decide) (by decide) (lt_of_mem_weights hp) _

theorem execEstimatorResult_outside (h : RegsOk s) (t : Twin) (st : Fin 6) :
    OutOutside [4] s (execEstimatorResult t st s) := by
  have h0 : OutsideKept [4] s s := RegsKept.refl h
  refine h0.ite (RegsKept.keep (h0.foldl fun _ _ hk hs => ?_) (modStrX_keeps (Keeps.refl _ _) t st.val _ id))
  exact regsKept_estCell (cellWords_inside List.mem_cons_self) hs (lt_of_mem_strIn hk) _

theorem outsideKept_insertStart (h : OutsideKept [3, 4] s0 s) (t : Twin) (k : Fin 192) (repl : Option Nat) :
    OutsideKept [3, 4] s0 (insertStart s t k.val repl) := by
  have hcell := cellWords_inside (l := [3, 4]) (by decide)
  unfold insertStart
  extract_lets st n s1
  exact (regsKept_modCellX (regsKept_setCellSt hcell h k.isLt csInserting) k.val _).keep
    (modStrX_keeps (Keeps.refl _ _) t st _ id)

theorem execSpareInsertStart_outside (h : RegsOk s) (k : Fin 192) : OutOutside [3, 4] s (execSpareInsertStart k s) := by
  refine (RegsKept.refl h).onBoth fun s' t hs => RegsKept.ite (RegsKept.ite ?_ hs) hs
  exact regsKept_rerank (cellWords_inside (by decide)) (arrayWords_inside (by decide)) (outsideKept_insertStart hs t k none)
    (mapString_lt _) (rotAt_insertStart s' t k.val none)

theorem outsideKept_readmitOne (h : OutsideKept [3, 4] s0 s) (t : Twin) (k : Fin 192) :
    OutsideKept [3, 4] s0 (readmitOne s t k.val) := by
  unfold readmitOne
  extract_lets w s1 cold s2
  have h1 : OutsideKept [3, 4] s0 s1 := h.wr (mapWord_inside (by decide) k) _
  have h2 : OutsideKept [3, 4] s0 s2 := regsKept_setCellSt (cellWords_inside (by decide)) h1 k.isLt _
  exact regsKept_showString (arrayWords_inside (by decide)) (regsKept_modCellX h2 k.val _) (mapString_lt w)

theorem execCellReadmit_outside (h : RegsOk s) (k : Fin 192) : OutOutside [3, 4] s (execCellReadmit k s) := by
  have hsay : ∀ code, OutsideKept [3, 4] s (say s code) := fun code => (RegsKept.refl h).keep (say_keeps (Keeps.refl _ s) code)
  exact RegsKept.ite (hsay _) ((hsay _).onBoth fun _ t hs => outsideKept_readmitOne hs t k)

theorem execLawEngineFail_outside (h : RegsOk s) (t : Twin) (e : Fin 8) : OutOutside [5] s (execLawEngineFail t e s) := by
  have h0 : OutsideKept [5] s s := RegsKept.refl h
  exact h0.ite ((h0.keep (modArr_keeps (Keeps.refl _ s) t _ id)).wf (not_outside (by decide +kernel)) _)

/-! The twins. -/

theorem outsideKept_twnFlags (h : OutsideKept [17] s0 s) (t : Twin) : OutsideKept [17] s0 (twnFlags s t) :=
  regsKept_twnFlags h (not_outside (by decide +kernel)) t

/-- Both twins, each alone, set SPLIT (R152). -/
theorem outsideKept_setSplit (h : OutsideKept [17] s0 s) :
    OutsideKept [17] s0 (onBoth (fun s u => twnFlags (ev s u R.TWN_EVENT_SPLIT) u) s) :=
  h.onBoth fun _ t hs => outsideKept_twnFlags (hs.ev (not_outside (by decide +kernel))) t

theorem outsideKept_otherLost (h : OutsideKept [17] s0 s) (t : Twin) : OutsideKept [17] s0 (otherLost s t) := by
  unfold otherLost
  extract_lets s1
  have h1 : OutsideKept [17] s0 s1 := outsideKept_twnFlags (outsideKept_cnt
    ((h.wf (not_outside (by decide +kernel)) _).ev (not_outside (by decide +kernel))) (by decide +kernel) (by decide +kernel)) t
  exact h.ite ((outsideKept_setSplit h1).ite h1)

theorem execLinkHandshakeTimeout_outside (h : RegsOk s) (t : Twin) : OutOutside [17] s (execLinkHandshakeTimeout t s) := by
  have h0 : OutsideKept [17] s s := RegsKept.refl h
  unfold execLinkHandshakeTimeout
  split
  · exact h0
  · have h1 := fun f => h0.keep (modTwn_keeps (Keeps.refl _ s) t f id)
    exact outsideKept_twnFlags (outsideKept_otherLost (RegsKept.ite ((h1 _).ev (not_outside (by decide +kernel))) (h1 _)) t) t

theorem outsideKept_recordItems (h : OutsideKept [17] s0 s) (t : Twin) (n : Nat) (items : List DigItem) :
    OutsideKept [17] s0 (recordItems s t n items) := by
  have hnodes : ∀ i < 8, inside [17] (R.TWN_DIS_NODE + 4 * i) = true := by decide +kernel
  refine RegsKept.foldl (h.wr (not_outside (by decide +kernel)) _) fun _ i hi hs => ?_
  exact hs.wr (not_outside (hnodes i (List.mem_range.1 hi))) _

theorem outsideKept_mismatch (h : OutsideKept [17] s0 s) (n : Nat) (p q : List DigItem) :
    OutsideKept [17] s0 (mismatch s n p q) := by
  unfold mismatch
  extract_lets testing
  refine h.onBoth fun s t hs => ?_
  have h1 := fun f => (outsideKept_cnt (t := t) (hs.ev (t := t) (f := R.TWN_EVENT_MISMATCH) (not_outside (by decide +kernel)))
    (a := R.TWN_MISMATCH) (by decide +kernel) (by decide +kernel)).keep (modTwn_keeps (Keeps.refl _ _) t f id)
  exact (h1 _).ite ((outsideKept_recordItems (h1 _) t _ _).keep (modTwn_keeps (Keeps.refl _ _) t _ id))

theorem execDigestCompare_outside (h : RegsOk s) (k : Fin 4) (n : W32) : OutOutside [17] s (execDigestCompare k n s) := by
  have h0 : OutsideKept [17] s s := RegsKept.refl h
  unfold execDigestCompare
  have h1 : ∀ key, OutsideKept [17] s (onBoth (fun s t => modTwn s t fun x =>
      { x with dig := x.dig.filter (fun e => e.1 != key) }) s) := fun key =>
    h0.onBoth fun _ t hs => hs.keep (modTwn_keeps (Keeps.refl _ _) t _ id)
  extract_lets key
  split
  · exact (outsideKept_mismatch (h1 _) _ _ _).ite (h1 _)
  · exact h0

theorem execArbiterUnreachable_outside (h : RegsOk s) (t : Twin) : OutOutside [17] s (execArbiterUnreachable t s) := by
  have h0 : OutsideKept [17] s s := RegsKept.refl h
  unfold execArbiterUnreachable
  split
  · exact h0
  · exact outsideKept_twnFlags ((h0.wf (not_outside (by decide +kernel)) _).ev (not_outside (by decide +kernel))) t

theorem execHandoverPostpone_outside (h : RegsOk s) : OutOutside [17] s (execHandoverPostpone s) := by
  have h0 : OutsideKept [17] s s := RegsKept.refl h
  unfold execHandoverPostpone
  split
  · exact h0
  next t _ =>
    exact (outsideKept_cnt (h0.keep (modTwn_keeps (Keeps.refl _ s) t _ id)) (by decide +kernel) (by decide +kernel)).ite h0

theorem execJoinTimeout_outside (h : RegsOk s) (t : Twin) : OutOutside [17] s (execJoinTimeout t s) := by
  have h0 : OutsideKept [17] s s := RegsKept.refl h
  exact ((h0.ev (not_outside (by decide +kernel))).keep (modTwn_keeps (Keeps.refl _ _) t _ id)).ite h0

theorem execRotationDue_outside (h : RegsOk s) (t : Twin) : OutOutside [19] s (execRotationDue t s) := by
  have hoff : ∀ v, OutsideKept [19] s (wf s t R.HLT_SUMMARY_ROT_OFF v) :=
    (RegsKept.refl h).wf (not_outside (by decide +kernel))
  unfold execRotationDue
  split
  · exact hoff 1
  · exact ((hoff 0).keep (modTwn_keeps (Keeps.refl _ _) t _ id)).ite (hoff 0)

/-! Crossings. -/

theorem outsideKept_accept (h : OutsideKept [1] s0 s) (t : Twin) (d : Fin 9) (samples : List W32) :
    OutsideKept [1] s0 (accept t d false s samples) := by
  have hcount : ∀ d : Fin 9, inside [1] (R.CLK_XING_UNSETTLED + 8 * d.val) = true ∧
      ((counterOvf (R.CLK_XING_UNSETTLED + 8 * d.val)).all fun p => inside [1] p.1) = true := by decide +kernel
  unfold accept
  extract_lets k x
  split
  · exact h.keep (setXing_keeps (Keeps.refl _ s) t k _ id)
  · exact h.ite (outsideKept_cnt (h.keep (setXing_keeps (Keeps.refl _ s) t k _ id)) (hcount d).1 (hcount d).2)

theorem execDomainWake_outside (h : RegsOk s) (t : Twin) (d : Fin 9) : OutOutside [1] s (execDomainWake t d s) := by
  have h0 : OutsideKept [1] s s := RegsKept.refl h
  have h1 := fun f => h0.keep (modPwr_keeps (Keeps.refl _ s) t f id)
  refine RegsKept.ite (RegsKept.ite (h1 _) ?_) h0
  exact ((h1 _).keep (setXing_keeps (Keeps.refl _ _) t _ _ id)).foldl fun _ x _ hs => outsideKept_accept hs t d x

/-- A command without registers among its parts leaves every word alone. -/
theorem exec_outside_of_not_mem (c : Instr) (h : RegsOk s) (hp : ∀ t, .tw t .regs ∉ partsOf c) :
    OutOutside [] s (exec c s) := by
  have hk := exec_keeps (P := IsRegs) c s fun p hp' hr => by
    cases p with
    | tw t f =>
      cases f with
      | regs => exact hp t hp'
      | _ => exact hr
    | _ => exact hr
  cases hu : exec c s with
  | next u =>
    rw [hu] at hk
    exact (RegsKept.refl h).keep hk
  | _ => trivial

/-- The law of each command's meaning, by the blocks that the table gives it. -/
theorem exec_arrayRow_outside {c : Instr} (h : RegsOk s) (hc : arrayRowBlocks c = some l) : OutOutside l s (exec c s) := by
  cases c with
  | ringRxSync t c => cases hc; exact execRingRxSync_outside h t c
  | returnDeadline t c => cases hc; exact execReturnDeadline_outside h t c
  | probeStale t c => cases hc; exact execProbeStale_outside h t c
  | mapEntryWrite k v => cases hc; exact execMapEntryWrite_outside h k v
  | thermalUpdate t => cases hc; exact execThermalUpdate_outside h t
  | weightUpdate t => cases hc; exact execWeightUpdate_outside h t
  | estimatorResult t st => cases hc; exact execEstimatorResult_outside h t st
  | spareInsertStart k => cases hc; exact execSpareInsertStart_outside h k
  | cellReadmit k => cases hc; exact execCellReadmit_outside h k
  | lawEngineFail t e => cases hc; exact execLawEngineFail_outside h t e
  | linkHandshakeTimeout t => cases hc; exact execLinkHandshakeTimeout_outside h t
  | digestCompare k n => cases hc; exact execDigestCompare_outside h k n
  | otherLost t => cases hc; exact outsideKept_otherLost (RegsKept.refl h) t
  | arbiterUnreachable t => cases hc; exact execArbiterUnreachable_outside h t
  | handoverPostpone => cases hc; exact execHandoverPostpone_outside h
  | joinTimeout t => cases hc; exact execJoinTimeout_outside h t
  | rotationDue t => cases hc; exact execRotationDue_outside h t
  | domainWake t d => cases hc; exact execDomainWake_outside h t d
  | linkWordReceive | crossingRehandshake | probeNow | handoverName | rotateNow | joinRetry =>
    cases hc
    exact exec_outside_of_not_mem _ h (by simp [partsOf, ofTwin, ofBoth])
  | _ => cases hc

/-- Settles O9: a word outside a command's blocks is among those its meaning keeps. -/
theorem arrayRowsKeepOtherRegisters : Obligations.ArrayRowsKeepOtherRegisters := by
  intro c l s u t a h hc hu ha
  have hk := exec_arrayRow_outside h hc
  rw [hu] at hk
  exact hk.same t a (inside_eq_false ha)

end Sys2Proof.Machine

/-! A command of one cell changes that cell alone (O13). -/

namespace Sys2Proof.Machine

variable {s : State} {c p : Nat}

/-- A cell just changed reads as changed. -/
theorem cell_modCell (h : TabsOk s) (f : CellSt → CellSt) : cell (modCell s c p f) c p = f (cell s c p) :=
  tabGet_tabSet_same (fun _ => ({} : CellSt)) h.cells _ _

theorem modCell_cells (s : State) (c p : Nat) (f : CellSt → CellSt) :
    (modCell s c p f).cells = tabMod {} s.cells (16 * c + p) f := rfl

/-- A change of one cell leaves every other one alone. -/
theorem tabGet_tabMod_ne {α : Type} [DecidableEq α] {d : α} {l : Tab α} (h : tabWf (fun _ => d) l = true) {j k : Nat}
    (hj : j ≠ k) (f : α → α) : tabGet d (tabMod d l k f) j = tabGet d l j :=
  tabGet_tabSet_ne (fun _ => d) h hj _

/-- What a frame shows a cell of its sides before it goes on (R120). -/
def sawFrame (x : CellSt) (portA : Bool) (b : List Byte) : CellSt :=
  if !(Frame.wrapped b) && Frame.hcrcOk b then learnEnds x portA (Frame.get b 23 1) (Frame.nslots b) else x

/-- The side that the port's traffic feeds is wrapped. -/
def turnsBack (x : CellSt) (portA : Bool) : Bool := if portA then sideWrapD x else sideWrapU x

/-- The side of the port itself is wrapped. -/
def takenAway (x : CellSt) (portA : Bool) : Bool := if portA then sideWrapU x else sideWrapD x

/-- A frame leaves a cell that knows its sides (R102, R121). -/
def forwardCell (x : CellSt) (portA : Bool) (b : List Byte) (bad : List Nat) (r : Nat) (m : CellMeas) : CellSt :=
  if takenAway x portA && turnsBack x portA then sendOn (sendOn x true [] []) false [] []
  else if takenAway x portA then x
  else if turnsBack x portA && Frame.wrapped b then sendOn x (!portA) [] []
  else sendOn x (portA != turnsBack x portA) (forwarded x portA (turnsBack x portA) r m b) bad

theorem execCellFrameForward_eq (c : Fin 12) (p : Fin 16) (portA : Bool) (b : List Byte) (bad : List Nat) (r : BitVec 24)
    (m : CellMeas) (s : State) : execCellFrameForward c p portA b bad r m s =
      if (cell s c.val p.val).dead || portSt (cell s c.val p.val) portA != 3 then .next s
      else .next (modCell s c.val p.val fun _ => forwardCell (sawFrame (cell s c.val p.val) portA b) portA b bad r.toNat m) :=
  rfl

/-- What a copy at the tail pad leaves in a cell (R109). -/
def judgedCell (x : CellSt) (c rate : Nat) (portA : Bool) (b : List Byte) (ok : Bool) (ref now : Nat) : CellSt :=
  if !(copyValid x c portA ok b) then refuseCopy x portA (copyChecks x c portA ok b)
  else if (BitVec.ofNat 32 (Frame.get b 4 4)).toNat < x.highest.toNat then (heard x portA b ref).1
  else
    let y := { (heard x portA b ref).1 with highest := BitVec.ofNat 32 (Frame.get b 4 4) }
    if Frame.get b 0 1 = 2 then judgeConfig y portA b rate (heard x portA b ref).2
    else judgeCycle y portA b (ownTime y now) (heard x portA b ref).2

theorem execCellCopyJudge_eq (c : Fin 12) (p : Fin 16) (portA : Bool) (b : List Byte) (ok : Bool) (ref now : BitVec 40)
    (s : State) : execCellCopyJudge c p portA b ok ref now s =
      if (cell s c.val p.val).dead || Frame.wrapped b then .next s
      else .next (modCell s c.val p.val fun x => judgedCell x c.val
        (rf s (if portA then .a else .b) (fo R.TRB_CFG_RATE (4096 * c.val))) portA b ok ref.toNat now.toNat) := rfl

/-- A command of the cell numbered `k` leaves the cells as they are or changes that one. -/
theorem exec_cells_of_cellOf {i : Instr} {k : Nat} {u : State} (h : cellOf i = some k) (hu : exec i s = .next u) :
    u.cells = s.cells ∨ ∃ f, u.cells = tabMod {} s.cells k f := by
  unfold cellOf at h
  split at h
  case h_1 c p portA b bad r m =>
    cases h
    have hu := (execCellFrameForward_eq ..).symm.trans hu
    split at hu
    · cases hu
      exact .inl rfl
    · cases hu
      exact .inr ⟨_, modCell_cells ..⟩
  case h_2 c p portA b ok ref now =>
    cases h
    have hu := (execCellCopyJudge_eq ..).symm.trans hu
    split at hu
    · cases hu
      exact .inl rfl
    · cases hu
      exact .inr ⟨_, modCell_cells ..⟩
  case h_20 => cases h
  all_goals
    cases h
    cases hu
    exact .inr ⟨_, modCell_cells ..⟩

/-- Settles O13: a change of one entry of a canonical table leaves the others alone. -/
theorem cellCommandsTouchOneCell : Obligations.CellCommandsTouchOneCell := by
  intro i k j s u hs hk hj hu
  obtain hsame | ⟨f, hf⟩ := exec_cells_of_cellOf hk hu
  · rw [hsame]
  · rw [hf]
    exact tabGet_tabMod_ne hs.cells hj f

end Sys2Proof.Machine

/-! A cell's ports, sides and power (O30; R85 to R92, R120, R127). -/

namespace Sys2Proof.Machine

variable {s : State} {c : Fin 12} {p : Fin 16} {x : Bool}

/-- A command that changes one cell leaves that cell as the change says. -/
theorem exists_modCell (h : TabsOk s) {c p : Nat} {f : CellSt → CellSt} {y : CellSt} (hf : f (cell s c p) = y) :
    ∃ u, (Host.Outcome.next (modCell s c p f) : Out) = .next u ∧ cell u c p = y :=
  ⟨_, rfl, (cell_modCell h f).trans hf⟩

theorem portSt_setPort (x : CellSt) (portA : Bool) (st : Nat) (k3 : Bool) :
    portSt (setPort x portA st k3) portA = st := by
  cases portA <;> rfl

theorem portSt_idleSafe (x : CellSt) (portA : Bool) : portSt (idleSafe x) portA = portSt x portA := by
  unfold idleSafe
  split <;> rfl

theorem execCellSyncAcquired_portA (h : TabsOk s) (hp : (cell s c.val p.val).stA = 2 ∨ (cell s c.val p.val).stA = 4) :
    ∃ u, execCellSyncAcquired c p true s = .next u ∧
      cell u c.val p.val = { cell s c.val p.val with stA := 3, k3A := false, seqA := none, everA := true } :=
  exists_modCell h (if_pos hp)

theorem execCellSyncAcquired_portB (h : TabsOk s) (hp : (cell s c.val p.val).stB = 2 ∨ (cell s c.val p.val).stB = 4) :
    ∃ u, execCellSyncAcquired c p false s = .next u ∧
      cell u c.val p.val = { cell s c.val p.val with stB := 3, k3B := false, seqB := none, everB := true } :=
  exists_modCell h (if_pos hp)

theorem execCellSyncLost_sync (h : TabsOk s) (hp : portSt (cell s c.val p.val) x = 3) :
    ∃ u, execCellSyncLost c p x s = .next u ∧ cell u c.val p.val = idleSafe (setPort (cell s c.val p.val) x 4 false) :=
  exists_modCell h (if_pos hp)

theorem execCellEidleEntry_sync (h : TabsOk s) (hp : portSt (cell s c.val p.val) x = 3) :
    ∃ u, execCellEidleEntry c p x s = .next u ∧ cell u c.val p.val = idleSafe (setPort (cell s c.val p.val) x 1 true) :=
  exists_modCell h (if_pos hp)

theorem execCellTimeLockClear_idle (h : TabsOk s) (ha : (cell s c.val p.val).stA ≠ 3) (hb : (cell s c.val p.val).stB ≠ 3)
    (hk : (cell s c.val p.val).k3A = true ∨ (cell s c.val p.val).k3B = true) :
    ∃ u, execCellTimeLockClear c p s = .next u ∧
      cell u c.val p.val = { cell s c.val p.val with timeLock := false, locking := 0, loose := 0 } :=
  exists_modCell h (if_pos (by simp [ha, hb, hk]))

/-- The last port in sync leaves electrical idle: the cell's time is to step to the first valid frame (R92). -/
theorem execCellEidleExit_wakes (h : TabsOk s) (hp : portSt (cell s c.val p.val) x = 1)
    (ho : portSt (cell s c.val p.val) (!x) ≠ 3) :
    ∃ u, execCellEidleExit c p x s = .next u ∧ cell u c.val p.val =
      { setPort (cell s c.val p.val) x 2 false with stepNext := true, fastLock := true, locking := 0, loose := 0 } :=
  exists_modCell h ((if_pos hp).trans (if_neg ho))

/-- A port beside one in sync, or one that signal finds in OFF, trains without that. -/
theorem execCellEidleExit_trains (h : TabsOk s) (hp : (portSt (cell s c.val p.val) x = 1 ∧
      portSt (cell s c.val p.val) (!x) = 3) ∨ (portSt (cell s c.val p.val) x = 0 ∧ (cell s c.val p.val).powered = true)) :
    ∃ u, execCellEidleExit c p x s = .next u ∧ cell u c.val p.val = setPort (cell s c.val p.val) x 2 false := by
  refine exists_modCell h ?_
  obtain ⟨hp, ho⟩ | hoff := hp
  · exact (if_pos hp).trans (if_pos ho)
  · exact (if_neg (by rw [hoff.1]; decide)).trans (if_pos hoff)

theorem execCellLosIdle_los (h : TabsOk s) (hp : portSt (cell s c.val p.val) x = 4) :
    ∃ u, execCellLosIdle c p x s = .next u ∧ cell u c.val p.val = setPort (cell s c.val p.val) x 1 false :=
  exists_modCell h (if_pos hp)

theorem execCellSideDown_sideD (h : TabsOk s) (hp : (cell s c.val p.val).stB ≠ 3 ∨ (cell s c.val p.val).noticeD = true)
    (he : (cell s c.val p.val).endD ≠ some true) :
    ∃ u, execCellSideDown c p true s = .next u ∧ cell u c.val p.val = { cell s c.val p.val with downD := true } :=
  exists_modCell h ((if_pos rfl).trans (if_pos (by simp [hp, he])))

theorem execCellSideDown_sideU (h : TabsOk s) (hp : (cell s c.val p.val).stA ≠ 3 ∨ (cell s c.val p.val).noticeU = true)
    (he : (cell s c.val p.val).endU ≠ some true) :
    ∃ u, execCellSideDown c p false s = .next u ∧ cell u c.val p.val = { cell s c.val p.val with downU := true } :=
  exists_modCell h ((if_neg Bool.false_ne_true).trans (if_pos (by simp [hp, he])))

theorem execCellSideUp_sideD (h : TabsOk s) (hp : (cell s c.val p.val).stB = 3) :
    ∃ u, execCellSideUp c p true s = .next u ∧
      cell u c.val p.val = { cell s c.val p.val with downD := false, noticeD := false } :=
  exists_modCell h (if_pos hp)

theorem execCellSideUp_sideU (h : TabsOk s) (hp : (cell s c.val p.val).stA = 3) :
    ∃ u, execCellSideUp c p false s = .next u ∧
      cell u c.val p.val = { cell s c.val p.val with downU := false, noticeU := false } :=
  exists_modCell h (if_pos hp)

/-- A cell whose port faces the notice hears it where the port is in sync (R85). -/
theorem hearsNoticeU (y : CellSt) :
    (if y.stA = 3 then { y with noticeU := true } else y) = { y with noticeU := y.noticeU || y.stA == 3 } := by
  split
  next hs => rw [hs, beq_self_eq_true, Bool.or_true]
  next hs => rw [beq_false_of_ne hs, Bool.or_false]

theorem hearsNoticeD (y : CellSt) :
    (if y.stB = 3 then { y with noticeD := true } else y) = { y with noticeD := y.noticeD || y.stB == 3 } := by
  split
  next hs => rw [hs, beq_self_eq_true, Bool.or_true]
  next hs => rw [beq_false_of_ne hs, Bool.or_false]

theorem execLinkDownNotice_sideD (h : TabsOk s) (hd : (cell s c.val p.val).dead = false)
    (hdown : (cell s c.val p.val).downD = true) (hp : p.val < 15) :
    ∃ u, execLinkDownNotice c p true s = .next u ∧ cell u c.val (p.val + 1) = { cell s c.val (p.val + 1) with
      noticeU := (cell s c.val (p.val + 1)).noticeU || (cell s c.val (p.val + 1)).stA == 3 } := by
  rw [execLinkDownNotice, if_pos rfl, if_pos ⟨by simp [hd], hdown, hp⟩]
  exact exists_modCell h (hearsNoticeU _)

theorem execLinkDownNotice_sideU (h : TabsOk s) (hd : (cell s c.val p.val).dead = false)
    (hdown : (cell s c.val p.val).downU = true) (hp : 0 < p.val) :
    ∃ u, execLinkDownNotice c p false s = .next u ∧ cell u c.val (p.val - 1) = { cell s c.val (p.val - 1) with
      noticeD := (cell s c.val (p.val - 1)).noticeD || (cell s c.val (p.val - 1)).stB == 3 } := by
  rw [execLinkDownNotice, if_neg Bool.false_ne_true, if_pos ⟨by simp [hd], hdown, hp⟩]
  exact exists_modCell h (hearsNoticeD _)

theorem execCellHardwareBypass_off (h : TabsOk s) : ∃ u, execCellHardwareBypass c p s = .next u ∧
    (cell u c.val p.val).dead = true ∧ (cell u c.val p.val).mode = 2 ∧ (cell u c.val p.val).legs = 0 ∧
    (cell u c.val p.val).bypass = true ∧ (cell u c.val p.val).stA = 0 ∧ (cell u c.val p.val).stB = 0 := by
  refine ⟨_, rfl, ?_⟩
  rw [cell_modCell h]
  exact ⟨rfl, rfl, rfl, rfl, rfl, rfl⟩

/-- A port with signal trains at power-up, one without stays OFF (R127). -/
theorem two_mul_bit (b : Bool) : 2 * bit b = if b then 2 else 0 := by
  cases b <;> rfl

theorem execCellPowerUp_up (h : TabsOk s) (i : CellId) (x y : Bool) : ∃ u, execCellPowerUp c p ⟨i, x, y⟩ s = .next u ∧
    cell u c.val p.val = { ({} : CellSt) with
      ident := i, powered := true, stA := if x then 2 else 0, stB := if y then 2 else 0, closed := (cell s c.val p.val).closed } := by
  refine exists_modCell h ?_
  dsimp only
  rw [two_mul_bit, two_mul_bit]

theorem execCellPowerLoss_off (h : TabsOk s) : ∃ u, execCellPowerLoss c p s = .next u ∧ cell u c.val p.val =
    { ({} : CellSt) with
      ident := (cell s c.val p.val).ident, closed := (cell s c.val p.val).closed, bypass := (cell s c.val p.val).bypass } :=
  exists_modCell h rfl

/-- Settles O30, command by command. -/
theorem cellPortCommandsComplete : Obligations.CellPortCommandsComplete := by
  refine ⟨?_, ?_, ?_, ?_, ?_, ?_, ?_, ?_, ?_, ?_, ?_, ?_, ?_, ?_, ?_, ?_, ?_⟩
  · exact fun s c p h hp => execCellSyncAcquired_portA h hp
  · exact fun s c p h hp => execCellSyncAcquired_portB h hp
  · intro s c p x h hp
    obtain ⟨u, hu, hcell⟩ := execCellSyncLost_sync h hp
    exact ⟨u, hu, by rw [hcell, portSt_idleSafe, portSt_setPort], hcell⟩
  · intro s c p x h hp
    obtain ⟨u, hu, hcell⟩ := execCellEidleEntry_sync h hp
    exact ⟨u, hu, by rw [hcell, portSt_idleSafe, portSt_setPort], hcell⟩
  · exact fun s c p h ha hb hk => execCellTimeLockClear_idle h ha hb hk
  · exact fun s c p x h hp ho => execCellEidleExit_wakes h hp ho
  · exact fun s c p x h hp => execCellEidleExit_trains h hp
  · exact fun s c p x h hp => execCellLosIdle_los h hp
  · exact fun s c p h hp he => execCellSideDown_sideD h hp he
  · exact fun s c p h hp he => execCellSideDown_sideU h hp he
  · exact fun s c p h hp => execCellSideUp_sideD h hp
  · exact fun s c p h hp => execCellSideUp_sideU h hp
  · exact fun s c p h hd hdown hp => execLinkDownNotice_sideD h hd hdown hp
  · exact fun s c p h hd hdown hp => execLinkDownNotice_sideU h hd hdown hp
  · exact fun s c p h => execCellHardwareBypass_off h
  · exact fun s c p i x y h => execCellPowerUp_up h i x y
  · exact fun s c p h => execCellPowerLoss_off h

end Sys2Proof.Machine

/-! What a cell sends on, and what a copy at the tail pad leaves in it (R102, R109, R120, R121). -/

namespace Sys2Proof.Machine

variable {s : State} {c : Fin 12} {p : Fin 16} {x : CellSt} {portA : Bool} {b : List Byte}

/-! Frames on their way. -/

theorem forwardCell_sends {bad : List Nat} {r : Nat} {m : CellMeas} (htaken : takenAway x portA = false)
    (hwrap : (turnsBack x portA && Frame.wrapped b) = false) : forwardCell x portA b bad r m =
      sendOn x (portA != turnsBack x portA) (forwarded x portA (turnsBack x portA) r m b) bad := by
  simp only [forwardCell, htaken, hwrap, Bool.false_and, Bool.false_eq_true, if_false]

theorem forwardCell_silent {bad : List Nat} {r : Nat} {m : CellMeas} (htaken : takenAway x portA = true)
    (hturn : turnsBack x portA = false) : forwardCell x portA b bad r m = x := by
  simp only [forwardCell, htaken, hturn, Bool.and_false, Bool.false_eq_true, if_false, if_true]

/-- A frame that was wrapped before is not wrapped again: idle goes out in its place. -/
theorem forwardCell_discards {bad : List Nat} {r : Nat} {m : CellMeas} (htaken : takenAway x portA = false)
    (hturn : turnsBack x portA = true) (hwrap : Frame.wrapped b = true) :
    forwardCell x portA b bad r m = sendOn x (!portA) [] [] := by
  simp only [forwardCell, htaken, hturn, hwrap, Bool.false_and, Bool.true_and, Bool.false_eq_true, if_false, if_true]

theorem sawFrame_outB (x : CellSt) (portA : Bool) (b : List Byte) : (sawFrame x portA b).outB = x.outB := by
  unfold sawFrame
  split <;> rfl

theorem sawFrame_wrapped (hwrap : Frame.wrapped b = true) : sawFrame x portA b = x := by
  simp only [sawFrame, hwrap, Bool.not_true, Bool.false_and, Bool.false_eq_true, if_false]

/-- A cell in sync passes a frame on by the sides it knows after it. -/
theorem execCellFrameForward_sync (h : TabsOk s) (hd : (cell s c.val p.val).dead = false)
    (hp : portSt (cell s c.val p.val) portA = 3) (bad : List Nat) (r : BitVec 24) (m : CellMeas) :
    ∃ u, execCellFrameForward c p portA b bad r m s = .next u ∧
      cell u c.val p.val = forwardCell (sawFrame (cell s c.val p.val) portA b) portA b bad r.toNat m := by
  rw [execCellFrameForward_eq, if_neg (by simp [hd, hp])]
  exact exists_modCell h rfl

/-! Copies at the tail pad. -/

theorem execCellCopyJudge_unwrapped (h : TabsOk s) (hd : (cell s c.val p.val).dead = false)
    (hwrap : Frame.wrapped b = false) (ok : Bool) (ref now : BitVec 40) :
    ∃ u rate, execCellCopyJudge c p portA b ok ref now s = .next u ∧
      cell u c.val p.val = judgedCell (cell s c.val p.val) c.val rate portA b ok ref.toNat now.toNat := by
  rw [execCellCopyJudge_eq, if_neg (by simp [hd, hwrap])]
  obtain ⟨u, hu, hcell⟩ := exists_modCell h rfl
  exact ⟨u, _, hu, hcell⟩

theorem judgedCell_refused {c rate ref now : Nat} {ok : Bool} (hv : copyValid x c portA ok b = false) :
    judgedCell x c rate portA b ok ref now = refuseCopy x portA (copyChecks x c portA ok b) := by
  rw [judgedCell, hv]
  rfl

theorem refuseCopy_crc (x : CellSt) (portA torn : Bool) :
    (if portA then (refuseCopy x portA torn).crcA else (refuseCopy x portA torn).crcB) =
      (if portA then x.crcA else x.crcB) + 1 := by
  cases portA <;> rfl

/-- A refused copy moves the counter of its port and EVENT_REJECT alone. -/
theorem refuseCopy_keeps (x : CellSt) (portA torn : Bool) : (refuseCopy x portA torn).candA = x.candA ∧
    (refuseCopy x portA torn).candB = x.candB ∧ (refuseCopy x portA torn).highest = x.highest ∧
    (refuseCopy x portA torn).reject = (x.reject || torn) := by
  cases portA <;> exact ⟨rfl, rfl, rfl, rfl⟩

/-- What a valid copy leaves of its arrival, whatever its claim: its sequence number and its offset (R107). -/
structure Arrived (x y : CellSt) (portA : Bool) (b : List Byte) (ofs : Int) : Prop where
  seq : (if portA then y.seqA else y.seqB) = some (Frame.get b 2 2)
  ofs : (if portA then y.ofsA else y.ofsB) = ofs
  crcA : y.crcA = x.crcA
  crcB : y.crcB = x.crcB

theorem heard_arrived (x : CellSt) (portA : Bool) (b : List Byte) (ref : Nat) :
    Arrived x (heard x portA b ref).1 portA b (arrivalOffset x portA b ref) := by
  cases portA
  case false =>
    refine ⟨(if_neg Bool.false_ne_true).trans ?_, (if_neg Bool.false_ne_true).trans ?_, ?_, ?_⟩
    all_goals
      unfold heard
      cases x.stepNext <;> cases x.fastLock <;> rfl
  case true =>
    refine ⟨(if_pos rfl).trans ?_, (if_pos rfl).trans ?_, ?_, ?_⟩
    all_goals
      unfold heard
      cases x.stepNext <;> cases x.fastLock <;> rfl

/-- It leaves the candidates, the configuration and the highest claim alone. -/
theorem heard_keeps (x : CellSt) (portA : Bool) (b : List Byte) (ref : Nat) :
    (heard x portA b ref).1.candA = x.candA ∧ (heard x portA b ref).1.candB = x.candB ∧
      (heard x portA b ref).1.cfg = x.cfg ∧ (heard x portA b ref).1.highest = x.highest := by
  unfold heard
  cases portA <;> cases x.stepNext <;> cases x.fastLock <;> exact ⟨rfl, rfl, rfl, rfl⟩

/-- A CYCLE copy judged by its APPLY moves the candidates and the count of late events alone. -/
theorem judgeCycle_keeps {x y : CellSt} {portA : Bool} {b : List Byte} {ofs : Int} {now : Nat}
    {h : Heard} (hy : Arrived x y portA b ofs) : Arrived x (judgeCycle y portA b now h) portA b ofs ∧
      (judgeCycle y portA b now h).highest = y.highest := by
  unfold judgeCycle
  split
  · exact ⟨hy, rfl⟩
  · dsimp only
    split
    · exact ⟨⟨hy.seq, hy.ofs, hy.crcA, hy.crcB⟩, rfl⟩
    · split
      · exact ⟨⟨hy.seq, hy.ofs, hy.crcA, hy.crcB⟩, rfl⟩
      · exact ⟨⟨hy.seq, hy.ofs, hy.crcA, hy.crcB⟩, rfl⟩

theorem judgedCell_cycle {c rate ref now : Nat} {ok : Bool} (hv : copyValid x c portA ok b = true)
    (htype : Frame.get b 0 1 = 1) (hclaim : x.highest.toNat ≤ (BitVec.ofNat 32 (Frame.get b 4 4)).toNat) :
    Arrived x (judgedCell x c rate portA b ok ref now) portA b (arrivalOffset x portA b ref) ∧
      (judgedCell x c rate portA b ok ref now).highest = BitVec.ofNat 32 (Frame.get b 4 4) := by
  have hheard := heard_arrived x portA b ref
  have hy : Arrived x { (heard x portA b ref).1 with highest := BitVec.ofNat 32 (Frame.get b 4 4) } portA b
      (arrivalOffset x portA b ref) := ⟨hheard.seq, hheard.ofs, hheard.crcA, hheard.crcB⟩
  rw [judgedCell, if_neg (by simp [hv]), if_neg (by omega)]
  dsimp only
  rw [if_neg (by omega)]
  exact judgeCycle_keeps hy

theorem judgedCell_lowClaim {c rate ref now : Nat} {ok : Bool} (hv : copyValid x c portA ok b = true)
    (hclaim : (BitVec.ofNat 32 (Frame.get b 4 4)).toNat < x.highest.toNat) :
    judgedCell x c rate portA b ok ref now = (heard x portA b ref).1 := by
  rw [judgedCell, if_neg (by simp [hv]), if_pos hclaim]

end Sys2Proof.Machine

/-! A cell's windows, events and faults (O29; R97, R110 to R118). -/

namespace Sys2Proof.Machine

variable {s : State} {c : Fin 12} {p : Fin 16} {x : CellSt}

/-! The acceptance deadline. -/

/-- The discipline of the cell's time leaves its windows and its counts alone. -/
theorem takeTime_keeps (x : CellSt) (h : Heard) : lastWin (takeTime x h) = lastWin x ∧ (takeTime x h).m = x.m ∧
    (takeTime x h).holds = x.holds := by
  unfold takeTime
  split <;> exact ⟨rfl, rfl, rfl⟩

theorem acceptCopy_window {y : Copy} (hh : y.hold = false) : (acceptCopy x y).win = some (copyWin y) ∧
    (acceptCopy x y).m = 0 ∧ (acceptCopy x y).holds = 0 ∧ (acceptCopy x y).echoSeq = y.seq := by
  simp only [acceptCopy, hh, Bool.false_eq_true, if_false, true_and]

/-- A HOLD copy repeats the last window, up to the eighth in a row (R111). -/
theorem acceptCopy_hold {y : Copy} {w : CWin} (hh : y.hold = true) (hn : x.holds < 8) (hw : lastWin x = some w) :
    (acceptCopy x y).win = some { repeatWin w y.blockAll with apply := y.apply } ∧ (acceptCopy x y).m = x.m ∧
      (acceptCopy x y).holds = x.holds + 1 := by
  obtain ⟨hlast, hm, hholds⟩ := takeTime_keeps x y.heard
  have hfew : ¬ 8 ≤ x.holds := by omega
  simp only [acceptCopy, hh, hlast, hw, hm, hholds, hfew, if_true, if_false, true_and]

theorem execCellAcceptanceDeadline_chosen (h : TabsOk s) (hd : (cell s c.val p.val).dead = false) {y : Copy}
    (hc : chosen (cell s c.val p.val) = some y) : ∃ u, execCellAcceptanceDeadline c p s = .next u ∧
      cell u c.val p.val = { acceptCopy (cell s c.val p.val) y with candA := none, candB := none } := by
  refine exists_modCell h ?_
  dsimp only
  rw [if_neg (by simp [hd]), hc]

theorem execCellAcceptanceDeadline_none (h : TabsOk s) (hd : (cell s c.val p.val).dead = false)
    (hc : chosen (cell s c.val p.val) = none) : ∃ u, execCellAcceptanceDeadline c p s = .next u ∧
      cell u c.val p.val = { (if idleNow (cell s c.val p.val) then cell s c.val p.val
        else { commandLoss (cell s c.val p.val) false with holds := 0 }) with candA := none, candB := none } := by
  refine exists_modCell h ?_
  dsimp only
  rw [if_neg (by simp [hd]), hc]

theorem commandLoss_counts {w : CWin} (hw : lastWin x = some w) (blocked : Bool) :
    (commandLoss x blocked).m = x.m + 1 ∧ (commandLoss x blocked).miss = x.miss + 1 := by
  simp only [commandLoss, hw, true_and]

/-! A window at APPLY. -/

/-- The cell's latched bits at APPLY, before the window's mode is judged (R97, R112). -/
def clearedCell (x : CellSt) (w : CWin) (gone : BitVec 5) : CellSt :=
  if w.faultReset then faultReset (if w.lost then { x with lostCmd := true, heardCopy := false } else x) gone
  else if w.lost then { x with lostCmd := true, heardCopy := false } else x

/-- The cell as the window finds it: what decides whether it faults. -/
def judgedWindow (x : CellSt) (w : CWin) (gone : BitVec 5) : CellSt :=
  { clearedCell x w gone with
    noLockRun := w.mode == 1 && !(clearedCell x w gone).timeLock, reject := w.reject, cur := some w, win := none }

theorem clearedCell_keeps (x : CellSt) (w : CWin) (gone : BitVec 5) :
    (clearedCell x w gone).timeLock = x.timeLock ∧ (clearedCell x w gone).mode = x.mode ∧
      (clearedCell x w gone).legs = x.legs := by
  unfold clearedCell
  split <;> split <;> exact ⟨rfl, rfl, rfl⟩

/-- Whether the cell faults in a window to run turns on the TIME_LOCK that it had (R97). -/
theorem cellFault_judgedWindow (x : CellSt) (w : CWin) (gone : BitVec 5) : cellFault (judgedWindow x w gone) =
    cellFault { clearedCell x w gone with noLockRun := w.mode == 1 && !x.timeLock } := by
  rw [judgedWindow, (clearedCell_keeps x w gone).1]
  rfl

theorem clearedCell_plain {w : CWin} {gone : BitVec 5} (hl : w.lost = false) (hr : w.faultReset = false) :
    clearedCell x w gone = x := by
  simp only [clearedCell, hl, hr, Bool.false_eq_true, if_false]

/-- The mode, the bypass and the legs that a window sets (R114, R115, R117). -/
theorem applyMode_sets {mode : Nat} (hm : mode ≤ 2) (w : CWin) : (applyMode x mode w).mode = mode ∧
    (applyMode x mode w).bypass = (mode == 2) ∧
    (mode = 1 → (applyMode x mode w).legs = (if x.mode = 1 then x.legs else w.start) ∧ (applyMode x mode w).todo = w.events) := by
  obtain rfl | rfl | rfl : mode = 0 ∨ mode = 1 ∨ mode = 2 := by omega
  · exact ⟨rfl, rfl, nofun⟩
  · refine ⟨rfl, rfl, fun _ => ⟨?_, rfl⟩⟩
    simp only [applyMode, if_true, beq_iff_eq]
  · exact ⟨rfl, rfl, nofun⟩

theorem applyMode_keeps (x : CellSt) (mode : Nat) (w : CWin) : (applyMode x mode w).cur = x.cur ∧
    (applyMode x mode w).win = x.win ∧ (applyMode x mode w).reject = x.reject := by
  unfold applyMode
  split
  · exact ⟨rfl, rfl, rfl⟩
  · split <;> exact ⟨rfl, rfl, rfl⟩

/-- The part of a cell that its isolation stage leaves alone. -/
def legPart (x : CellSt) : Nat × Option CWin × Option CWin × Bool × Bool × Nat × List (Nat × Nat) :=
  (x.mode, x.cur, x.win, x.reject, x.bypass, x.legs, x.todo)

theorem isoReach_keeps (x : CellSt) (t : Nat) : legPart (isoReach x t) = legPart x ∧
    (isoReach x t).isoBlocked = x.isoBlocked := by
  unfold isoReach
  split
  · split <;> exact ⟨rfl, rfl⟩
  · exact ⟨rfl, rfl⟩

/-- The isolation stage is blocked as the window says, and nothing else of these moves (R118). -/
theorem isoApply_keeps (x : CellSt) (w : CWin) : legPart (isoApply x w) = legPart x ∧ (isoApply x w).isoBlocked = w.isoBlock := by
  obtain ⟨hleg, hblocked⟩ := isoReach_keeps x w.apply
  unfold isoApply
  split
  next hw => exact ⟨rfl, hw.symm⟩
  next hw =>
    have hw : w.isoBlock = false := by simpa using hw
    split
    · exact ⟨rfl, hw.symm⟩
    next hx =>
      have hx : x.isoBlocked = false := by simpa using hx
      dsimp only
      split <;> exact ⟨hleg, hblocked.trans (hx.trans hw.symm)⟩

/-- A decided window applies to a cell that is not in electrical idle (R114). -/
theorem execCellWindowApply_applies (h : TabsOk s) (hd : (cell s c.val p.val).dead = false) {w : CWin}
    (hw : (cell s c.val p.val).win = some w) (hi : idleNow (cell s c.val p.val) = false) (gone : BitVec 5) :
    ∃ u, execCellWindowApply c p gone s = .next u ∧ cell u c.val p.val =
      isoApply (applyMode (judgedWindow (cell s c.val p.val) w gone)
        (if cellFault (judgedWindow (cell s c.val p.val) w gone) then 2 else w.mode) w) w := by
  refine exists_modCell h ?_
  dsimp only
  split
  next hn => simp [hn] at hw
  next w' hw' =>
    obtain rfl : w' = w := Option.some.inj (hw'.symm.trans hw)
    rw [if_neg (by simp [hd]), if_neg (by simp [hi])]
    rfl

/-- What a decided window of a mode the cell knows leaves in it. -/
structure WindowApplied (x : CellSt) (w : CWin) (mode : Nat) (y : CellSt) : Prop where
  mode : y.mode = mode
  cur : y.cur = some w
  win : y.win = none
  isoBlocked : y.isoBlocked = w.isoBlock
  reject : y.reject = w.reject
  bypass : y.bypass = (y.mode == 2)
  run : y.mode = 1 → y.legs = (if x.mode = 1 then x.legs else w.start) ∧ y.todo = w.events

theorem windowApplied (x : CellSt) (w : CWin) (gone : BitVec 5) {mode : Nat} (hm : mode ≤ 2) :
    WindowApplied x w mode (isoApply (applyMode (judgedWindow x w gone) mode w) w) := by
  obtain ⟨hleg, hblocked⟩ := isoApply_keeps (applyMode (judgedWindow x w gone) mode w) w
  simp only [legPart, Prod.mk.injEq] at hleg
  obtain ⟨hmode, hcur, hwin, hreject, hbypass, hlegs, htodo⟩ := hleg
  obtain ⟨hsetMode, hsetBypass, hrun⟩ := applyMode_sets (x := judgedWindow x w gone) hm w
  obtain ⟨hkeepCur, hkeepWin, hkeepReject⟩ := applyMode_keeps (judgedWindow x w gone) mode w
  obtain ⟨-, hclearMode, hclearLegs⟩ := clearedCell_keeps x w gone
  refine ⟨hmode.trans hsetMode, hcur.trans hkeepCur, hwin.trans hkeepWin, hblocked, hreject.trans hkeepReject, ?_, fun h1 => ?_⟩
  · rw [hbypass, hsetBypass, hmode, hsetMode]
  · obtain ⟨hl, ht⟩ := hrun (hsetMode.symm.trans (hmode.symm.trans h1))
    rw [hlegs, hl, htodo, ht]
    simp only [judgedWindow, hclearMode, hclearLegs, and_true]

theorem execCellWindowApply_idle (h : TabsOk s) (hd : (cell s c.val p.val).dead = false) {w : CWin}
    (hw : (cell s c.val p.val).win = some w) (hi : idleNow (cell s c.val p.val) = true) (gone : BitVec 5) :
    ∃ u, execCellWindowApply c p gone s = .next u ∧
      cell u c.val p.val = { cell s c.val p.val with cur := some w, win := none } := by
  refine exists_modCell h ?_
  dsimp only
  rw [hw]
  dsimp only
  rw [if_neg (by simp [hd]), if_pos hi]

/-! Events, the bypass and faults of the cell's own. -/

theorem execCellEventExecute_next (h : TabsOk s) (hd : (cell s c.val p.val).dead = false)
    (hm : (cell s c.val p.val).mode = 1) {e : Nat × Nat} {r : List (Nat × Nat)} (ht : (cell s c.val p.val).todo = e :: r) :
    ∃ u, execCellEventExecute c p s = .next u ∧ cell u c.val p.val = { cell s c.val p.val with legs := e.2, todo := r } := by
  refine exists_modCell h ?_
  dsimp only
  rw [ht]
  exact if_pos ⟨hm, by simp [hd]⟩

theorem execCellBypassTimeout_open (h : TabsOk s) (hb : (cell s c.val p.val).bypass = true)
    (hc : (cell s c.val p.val).closed = false) : ∃ u, execCellBypassTimeout c p s = .next u ∧
      cell u c.val p.val = { cell s c.val p.val with bypFail := true } :=
  exists_modCell h (if_pos (by simp [hb, hc]))

theorem execCellBypassClosed_closes (h : TabsOk s) (hb : (cell s c.val p.val).bypass = true) :
    ∃ u, execCellBypassClosed c p s = .next u ∧ cell u c.val p.val = { cell s c.val p.val with closed := true } :=
  exists_modCell h (if_pos hb)

/-- Each latched bit of a cell's own fault is among those of FAULT (R97). -/
theorem execCellOwnFault_faults (h : TabsOk s) (i : Fin 5) : ∃ u, execCellOwnFault c p i s = .next u ∧
    cellFault (cell u c.val p.val) = true ∧ (cell u c.val p.val).mode = (cell s c.val p.val).mode := by
  refine ⟨_, rfl, ?_⟩
  rw [cell_modCell h]
  fin_cases i <;> simp [cellFault]

/-- Settles O29, command by command. -/
theorem cellWindowCommandsComplete : Obligations.CellWindowCommandsComplete := by
  refine ⟨?_, ?_, ?_, ?_, ?_, ?_, ?_, ?_, ?_, ?_, ?_, ?_, ?_, ?_, ?_, ?_, ?_, ?_⟩
  · intro s c p i b e r m h hd hp htaken hwrap
    obtain ⟨u, hu, hcell⟩ := execCellFrameForward_sync (b := b) h hd hp e r m
    have hsent := hcell.trans (forwardCell_sends htaken hwrap)
    refine ⟨u, hu, hsent, ?_⟩
    rintro ⟨hturn, rfl⟩
    have hback : turnsBack (sawFrame (cell s c.val p.val) true b) true = false := hturn
    rw [hsent, hback]
    exact ⟨sawFrame_outB .., rfl⟩
  · intro s c p i b e r m h hd hp htaken hturn
    obtain ⟨u, hu, hcell⟩ := execCellFrameForward_sync (b := b) h hd hp e r m
    exact ⟨u, hu, hcell.trans (forwardCell_silent htaken hturn)⟩
  · intro s c p i b e r m h hd hp htaken hturn hwrap
    obtain ⟨u, hu, hcell⟩ := execCellFrameForward_sync (b := b) h hd hp e r m
    have hsent := forwardCell_discards (x := sawFrame (cell s c.val p.val) i b) (bad := e) (r := r.toNat) (m := m) htaken hturn
      hwrap
    exact ⟨u, hu, by rw [hcell, hsent, sawFrame_wrapped hwrap]⟩
  · intro s c p i b ok x y h hd hwrap hv
    obtain ⟨u, rate, hu, hcell⟩ := execCellCopyJudge_unwrapped h hd hwrap ok x y
    refine ⟨u, hu, ?_⟩
    rw [hcell, judgedCell_refused hv]
    exact ⟨refuseCopy_crc .., refuseCopy_keeps ..⟩
  · intro s c p i b ok x y h hd hwrap hv htype hclaim
    obtain ⟨u, rate, hu, hcell⟩ := execCellCopyJudge_unwrapped h hd hwrap ok x y
    obtain ⟨⟨hseq, hofs, hcrcA, hcrcB⟩, hhigh⟩ := judgedCell_cycle (rate := rate) (ref := x.toNat) (now := y.toNat) hv htype hclaim
    refine ⟨u, hu, ?_⟩
    rw [hcell]
    exact ⟨hhigh, hseq, hofs, hcrcA, hcrcB⟩
  · intro s c p i b ok x y h hd hwrap hv hclaim
    obtain ⟨u, rate, hu, hcell⟩ := execCellCopyJudge_unwrapped h hd hwrap ok x y
    obtain ⟨hcandA, hcandB, hcfg, hhigh⟩ := heard_keeps (cell s c.val p.val) i b x.toNat
    refine ⟨u, hu, ?_⟩
    rw [hcell, judgedCell_lowClaim hv hclaim]
    exact ⟨hhigh, (heard_arrived ..).seq, hcandA, hcandB, hcfg⟩
  · intro s c p y h hd hc hh
    obtain ⟨u, hu, hcell⟩ := execCellAcceptanceDeadline_chosen h hd hc
    obtain ⟨hwin, hm, hholds, hecho⟩ := acceptCopy_window (x := cell s c.val p.val) hh
    refine ⟨u, hu, ?_⟩
    rw [hcell]
    exact ⟨hwin, hm, hholds, rfl, rfl, hecho⟩
  · intro s c p y w h hd hc hh hn hw
    obtain ⟨u, hu, hcell⟩ := execCellAcceptanceDeadline_chosen h hd hc
    obtain ⟨hwin, hm, hholds⟩ := acceptCopy_hold hh hn hw
    refine ⟨u, hu, ?_⟩
    rw [hcell]
    exact ⟨hwin, hm, hholds, rfl⟩
  · intro s c p y h hd hc hi hw
    obtain ⟨u, hu, hcell⟩ := execCellAcceptanceDeadline_none h hd hc
    obtain ⟨hm, hmiss⟩ := commandLoss_counts hw false
    refine ⟨u, hu, ?_⟩
    rw [hcell, if_neg (by simp [hi])]
    exact ⟨hm, hmiss, rfl⟩
  · intro s c p h hd hc hi
    obtain ⟨u, hu, hcell⟩ := execCellAcceptanceDeadline_none h hd hc
    exact ⟨u, hu, by rw [hcell, if_pos hi]⟩
  · intro s c p g w h hd hw hm hi
    obtain ⟨u, hu, hcell⟩ := execCellWindowApply_applies h hd hw hi g
    have hmode : (if cellFault (judgedWindow (cell s c.val p.val) w g) then 2 else w.mode) ≤ 2 := by
      split <;> omega
    obtain ⟨happlied, hcur, hwin, hiso, hreject, hbypass, hrun⟩ := windowApplied (cell s c.val p.val) w g hmode
    rw [← hcell] at happlied hcur hwin hiso hreject hbypass hrun
    rw [cellFault_judgedWindow] at happlied
    exact ⟨u, hu, happlied, hcur, hwin, hiso, hreject, hbypass, hrun⟩
  · intro s c p g w h hd hw hl hr hm hi hf
    obtain ⟨u, hu, hcell⟩ := execCellWindowApply_applies h hd hw hi g
    have hfault : cellFault (judgedWindow (cell s c.val p.val) w g) = false := by
      rw [cellFault_judgedWindow, clearedCell_plain hl hr]
      exact hf
    rw [if_neg (by simp [hfault])] at hcell
    obtain ⟨happlied, -, -, -, -, -, hrun⟩ := windowApplied (cell s c.val p.val) w g hm
    rw [← hcell] at happlied hrun
    exact ⟨u, hu, happlied, fun h1 => hrun (happlied.trans h1)⟩
  · exact fun s c p g w h hd hw hi => execCellWindowApply_idle h hd hw hi g
  · exact fun s c p e r h hd hm ht => execCellEventExecute_next h hd hm ht
  · exact fun s c p h hb hc => execCellBypassTimeout_open h hb hc
  · exact fun s c p h hb => execCellBypassClosed_closes h hb
  · exact fun s c p h => exists_modCell h rfl
  · exact fun s c p i h => execCellOwnFault_faults h i

end Sys2Proof.Machine

/-! The statement on the rings' commands (O28) is false: it has every frame with a failing CRC-32C count in RX_FCRC, and a
frame of an unknown TYPE is discarded before its CRC-32C is looked at (R94). -/

namespace Sys2Proof.Machine

/-- Twin B's ring of chain 0 awaits a frame, and its crossings are out of reset; all else is as after reset. -/
def ringAwaiting : State := { b := { rings := [(0, { awaited := true })], xings := [] } }

/-- A frame of the unknown TYPE 0 without slots, of twin B's ring on chain 0, with a correct HCRC and a CRC-32C of 0. -/
def frameUnknownType : List Byte := List.replicate 30 0#8 ++ [0x2A#8, 0x45#8] ++ List.replicate 4 0#8

theorem regsOk_ringAwaiting : RegsOk ringAwaiting := (regsOk_iff _).2 ⟨rfl, rfl⟩

theorem tabsOk_ringAwaiting : TabsOk ringAwaiting :=
  (tabsOk_iff _).2 ⟨tabsOk_reset.tw .a, ⟨rfl, rfl, rfl, rfl, rfl, rfl, rfl, rfl⟩, rfl, rfl⟩

/-- The twin's ring takes it for its own awaited frame, with a correct HCRC and a failing CRC-32C. -/
theorem frameUnknownType_checks : Frame.wrapped frameUnknownType = false ∧ Frame.lengthOk frameUnknownType = true ∧
    Frame.hcrcOk frameUnknownType = true ∧ Frame.fcrcOk frameUnknownType = false ∧
    ownFrame .b 0 frameUnknownType = true ∧ Frame.get frameUnknownType 2 2 = (ringX ringAwaiting .b 0).seq := by
  decide +kernel

/-- It is discarded: the ring goes on awaiting its frame. -/
theorem ringReturn_frameUnknownType (arrival : Option Nat) :
    ringReturn ringAwaiting .b 0 frameUnknownType true arrival = ringAwaiting := by
  obtain ⟨-, -, hhcrc, -, hown, hseq⟩ := frameUnknownType_checks
  have hawaited : (ringX ringAwaiting .b 0).awaited = true := rfl
  have hlen : ¬ frameUnknownType.length < 32 := by decide
  have htype : Frame.get frameUnknownType 0 1 ≠ 1 ∧ Frame.get frameUnknownType 0 1 ≠ 2 := by decide
  rw [ringReturn]
  dsimp only
  rw [if_neg (by simp [hawaited, hhcrc, hown, hseq]), if_neg hlen, if_neg (by simp [hhcrc]), if_pos htype]

theorem exec_frameReturn_frameUnknownType (x : BitVec 52) :
    exec (.frameReturn .b 0 frameUnknownType 0 true x) ringAwaiting = .next ringAwaiting := by
  have hexec : exec (.frameReturn .b 0 frameUnknownType 0 true x) ringAwaiting =
      execFrameReturn .b 0 frameUnknownType 0 true x ringAwaiting := rfl
  have hdead : (xing ringAwaiting .b (xingKey 3 true)).dead = false := rfl
  rw [hexec, execFrameReturn, crossIn, if_neg (by simp [hdead])]
  dsimp only
  rw [if_pos rfl, if_neg (by simp [frameUnknownType_checks.1])]
  exact congrArg _ (ringReturn_frameUnknownType _)

/-- Refutes O28: its clause on a frame that fails its CRC-32C does not ask for a known TYPE. The frame of TYPE 0 leaves the
state as it is, so RX_FCRC does not count it and the ring still awaits one. -/
theorem not_ringCommandsComplete : ¬ Obligations.RingCommandsComplete := by
  intro h
  obtain ⟨-, -, -, -, -, -, -, -, -, -, -, hfcrc, -⟩ := h
  obtain ⟨hwrapped, hlength, hhcrc, hfail, hown, hseq⟩ := frameUnknownType_checks
  obtain ⟨u, hu, -, -, hawaited⟩ := hfcrc ringAwaiting .b 0 frameUnknownType 0 0 regsOk_ringAwaiting tabsOk_ringAwaiting rfl
    hwrapped rfl hlength hhcrc hfail hown hseq (by decide +kernel)
  have hnext := (exec_frameReturn_frameUnknownType 0).symm.trans hu
  injection hnext with hnext
  rw [← hnext] at hawaited
  exact absurd hawaited (by decide)

end Sys2Proof.Machine

/-! The statement on hand-over, boot and join (O24) is false: it has the leader name any tick at least 100 µs ahead, and a
hand-over may not fall inside a CAN frame (R155, R351). -/

namespace Sys2Proof.Machine

variable {s : State} {l : Twin}

/-- While an attempt on a bus lasts beyond the tick, the leader does not name it (R155, R351). -/
theorem execHandoverName_onBus {th : W64} (hl : leader s = some l) (hbus : attemptsOver s l th.toNat = false) :
    execHandoverName th s = .next s := by
  have hnot : ¬ (handoverDue s l ∧ handoverFit s l ∧ (s.tw l).twn.handAfter ≤ (s.tw l).tb.toNat
      ∧ (s.tw l).tb.toNat + 100000 ≤ th.toNat ∧ attemptsOver s l th.toNat) := by
    rintro ⟨-, -, -, -, hover⟩
    exact Bool.false_ne_true (hbus.symm.trans hover)
  simp only [execHandoverName, hl, if_neg hnot]

/-- Twin A leads and is due to rotate, twin B follows and requests the interlock, and both reach the arbiter; an attempt of
twin A's first CAN controller lasts until TB tick 100 001. -/
def leaderOnBus : State :=
  { a := { regs := [(R.TWN_STATE, 0x834#32)], twn := { rotating := true }, can := [(0, { active := some 0, ends := 100001 })] },
    b := { regs := [(R.TWN_STATE, 0x843#32)] }, ilk := { reqB := true } }

/-- Refutes O24: nothing in its clause on HANDOVER_NAME keeps a CAN attempt from lasting beyond the tick. At tick 100 000
twin A's attempt is still on the bus, so no tick is named. -/
theorem not_handoverAndJoinCommandsComplete : ¬ Obligations.HandoverAndJoinCommandsComplete := by
  intro h
  obtain ⟨hname, -⟩ := h
  have hlead : leader leaderOnBus = some .a := by decide +kernel
  obtain ⟨u, hu, hnamed, -⟩ := hname leaderOnBus .a 100000 hlead (by decide +kernel) (by decide +kernel) (by decide +kernel)
    (by decide +kernel)
  have hnext := (execHandoverName_onBus (th := 100000) hlead (by decide +kernel)).symm.trans hu
  injection hnext with hnext
  rw [← hnext] at hnamed
  exact absurd hnamed (by decide)

end Sys2Proof.Machine

/-! What a change of a twin's state, a release of the interlock and a withdrawal leave alone (R17, R131, R144 to R146). -/

namespace Sys2Proof.Machine

variable {K : Nat → Prop} {s0 s s' : State} {t u : Twin} {a : Nat}

/-! Words that the operations which show the array's budget, the network's service and the shared pins do not write. -/

/-- A word below those of the array, or from those of the safety monitors up. -/
abbrev OuterWord (a : Nat) : Prop := a < 0x200000 ∨ 0x1400000 ≤ a

theorem RegsKept.ilk (h : RegsKept K s0 s) (x : IlkSt) : RegsKept K s0 { s with ilk := x } :=
  ⟨(regsOk_iff _).2 ((regsOk_iff s).1 h.ok), fun u a ha => (by cases u <;> rfl : _ = rd s u a).trans (h.same u a ha)⟩

section

variable (hK : ∀ a, K a → OuterWord a)
include hK

theorem regsKept_budget (h : RegsKept K s0 s) : RegsKept K s0 (budget s) := by
  refine h.onLive fun s t hs => ?_
  have hb := (hs.wf (t := t) (f := R.ARR_BUDGET_MIN_LEN) (mt (hK _) (by decide)) (minLen s t)).wf (t := t)
    (f := R.ARR_BUDGET_RG0_TIME) (mt (hK _) (by decide)) (tRg0Used s t)
  exact (hb.ev (f := R.ARR_EVENT_BUDGET) (mt (hK _) (by decide))).ite hb

theorem regsKept_showServe (h : RegsKept K s0 s) (t : Twin) : RegsKept K s0 (showServe s t) := by
  have hport : ∀ p < 4, ¬ OuterWord (npf R.NET_P_STATUS_SERVING p).addr := by decide
  have hn : ∀ f ∈ [R.NET_STATUS_LAN_A, R.NET_STATUS_LAN_B, R.NET_STATUS_RING_OPEN, R.NET_EVENT_RING_OPEN,
      R.TIME_STATUS_TC_ON], ¬ K f.addr := fun f hf => mt (hK _) (by revert f; decide)
  unfold showServe
  refine RegsKept.foldl ?_ fun s p hp hs => hs.wf (mt (hK _) (hport p ?_)) _
  · exact ((((h.wf (hn _ (by decide)) _).wf (hn _ (by decide)) _).wf (hn _ (by decide)) _).wf (hn _ (by decide)) _).wf
      (hn _ (by decide)) _
  · exact List.mem_range.1 (List.mem_of_mem_filter (p := _) (l := List.range 4) hp)

theorem regsKept_netServe (h : RegsKept K s0 s) : RegsKept K s0 (netServe s) :=
  (h.keep (modNet_keeps (Keeps.refl _ s) _ id)).onLive fun _ t hs => regsKept_showServe hK hs t

theorem regsKept_setTwState (h : RegsKept K s0 s) (hs : ¬ K R.TWN_STATE) (t : Twin) (st : Nat) :
    RegsKept K s0 (setTwState s t st) :=
  regsKept_budget hK (regsKept_netServe hK (regsKept_twnFlags (h.wf hs _) hs t))

theorem regsKept_showOut {k : Nat} (hk : k < 16) (h : RegsKept K s0 s) (t : Twin) : RegsKept K s0 (showOut k s t) := by
  have hpairs : ∀ p : Prop, [Decidable p] → ¬ K (if p then R.TRIP_PAIRS_PWM_PAIRS else R.TRIP_PAIRS_GD_PAIRS).addr :=
    fun p _ => mt (hK _) (by split <;> decide)
  have hpwm : ∀ f ∈ [R.PWM_P_STATUS_A_ON, R.PWM_P_STATUS_B_ON, R.PWM_P_STATUS_TRIPPED, R.PWM_P_STATUS_FORCED], ∀ k < 8,
      ¬ OuterWord (pf f k).addr := by decide
  have hgd : ∀ f ∈ [R.GD_P_STATUS_A_ON, R.GD_P_STATUS_B_ON, R.GD_P_STATUS_SOFT_ACTIVE], ∀ k < 8,
      ¬ OuterWord (gf f k).addr := by decide
  unfold showOut
  extract_lets o tr pr s1
  have h1 : RegsKept K s0 s1 := (h.evi (hpairs _) _).ite (h.clri (hpairs _) _)
  split
  next hk8 =>
    have hw := fun f hf => mt (hK _) (hpwm f hf k hk8)
    exact (((h1.wf (hw _ (by decide)) _).wf (hw _ (by decide)) _).wf (hw _ (by decide)) _).wf (hw _ (by decide)) _
  next hk8 =>
    have hw := fun f hf => mt (hK _) (hgd f hf (k - 8) (by omega))
    exact ((h1.wf (hw _ (by decide)) _).wf (hw _ (by decide)) _).wf (hw _ (by decide)) _

theorem regsKept_settleAll (h : RegsKept K s0 s) : RegsKept K s0 (settleAll s) :=
  h.foldl fun _ _ hk hs => (hs.keep (modOut_keeps (Keeps.refl _ _) _ _ id)).onLive fun _ t hs' =>
    regsKept_showOut hK (List.mem_range.1 hk) hs' t

theorem regsKept_canQuiet (h : RegsKept K s0 s) (t : Twin) : RegsKept K s0 (canQuiet s t) :=
  (h.wf (mt (hK _) (by decide)) _).wf (mt (hK _) (by decide)) _

theorem regsKept_setPins (h : RegsKept K s0 s) (p : Option Twin) : RegsKept K s0 (setPins s p) :=
  regsKept_settleAll hK (RegsKept.ilk (h.foldl fun _ t _ hs => hs.ite (regsKept_canQuiet hK hs t)) _)

theorem regsKept_ilkFree (h : RegsKept K s0 s) (t : Twin) : RegsKept K s0 (ilkFree s t) :=
  RegsKept.ite (regsKept_setPins hK (h.ilk _) none) h

/-- A withdrawal writes TWN_STATE and SYS_STATUS beside the words that show its consequences (R144, R145, R452). -/
theorem regsKept_withdrawNow (h : RegsKept K s0 s) (hs : ¬ K R.TWN_STATE) (hsys : ¬ K R.SYS_STATUS_TRIAL.addr) (t : Twin)
    (cause : Nat) : RegsKept K s0 (withdrawNow s t cause) := by
  unfold withdrawNow
  extract_lets unjoined fell s1 s2 s3 s4
  have h1 : RegsKept K s0 s1 := (regsKept_ilkFree hK (h.keep (setIlkReq_keeps (setIlkLapsed_keeps (Keeps.refl _ s) t false id)
    t false id)) t).wf hs _
  have h3 : RegsKept K s0 s3 := ((h1.wf hs _).wf hs _).keep (modTwn_keeps (Keeps.refl _ _) t _ id)
  have h4 : RegsKept K s0 s4 := RegsKept.ite ((h3.wf hsys _).keep (modFlash_keeps (Keeps.refl _ _) t _ id)) h3
  exact h.ite (regsKept_setTwState hK h4 hs t _)

end

end Sys2Proof.Machine

/-! Withdrawals (R144 to R146): the twin's own state and cause, and what they leave alone of both twins. -/

namespace Sys2Proof.Machine

variable {K : Nat → Prop} {s0 s s' : State} {t u : Twin} {a cause : Nat}

theorem regsKept_demand (h : RegsKept K s0 s) (hi : ¬ K R.SAF_STATUS_INT.addr) (he : ¬ K R.SAF_EVENT_INTERNAL.addr)
    (t : Twin) (k : Nat) : RegsKept K s0 (demand s t k) := by
  unfold demand
  refine ((RegsKept.ite ?_ h).evi hi k).ev he
  exact h.keep (onBoth_keeps (Keeps.refl _ s) _ fun s t hs => modTwn_keeps hs t _ id)

/-- What a withdrawal writes of a twin: where a safe stop comes first, its demand too. -/
theorem regsKept_withdraw (hK : ∀ a, K a → OuterWord a) (h : RegsKept K s0 s) (hs : ¬ K R.TWN_STATE)
    (hsys : ¬ K R.SYS_STATUS_TRIAL.addr) (hi : ¬ K R.SAF_STATUS_INT.addr) (he : ¬ K R.SAF_EVENT_INTERNAL.addr) (t : Twin)
    (cause : Nat) : RegsKept K s0 (withdraw s t cause) := by
  have hnow := fun {s1 : State} (h1 : RegsKept K s0 s1) => regsKept_withdrawNow hK h1 hs hsys t cause
  have hstop := fun u => regsKept_demand h hi he u 2
  unfold withdraw
  refine h.ite (RegsKept.ite (hnow ((hstop _).ite h)) (RegsKept.ite (hnow h) (RegsKept.ite ?_ (h.wf hs _))))
  exact RegsKept.ite ((hnow h).keep (modTwn_keeps (Keeps.refl _ _) t _ id)) (hnow (hstop t))

/-! The other twin. -/

theorem rd_wf_twin (hu : u ≠ t) (f : Fld) (v a : Nat) : rd (wf s t f v) u a = rd s u a := rd_wr_twin hu ..

theorem rd_twnFlags_twin (hu : u ≠ t) (a : Nat) : rd (twnFlags s t) u a = rd s u a := by
  simp only [twnFlags, rd_wf_twin hu]

theorem rd_setTwState_twin (h : RegsOk s) (hu : u ≠ t) (ha : OuterWord a) (st : Nat) :
    rd (setTwState s t st) u a = rd s u a := by
  have hk : RegsKept OuterWord (twnFlags (wf s t R.TWN_STATE_STATE st) t) (setTwState s t st) :=
    regsKept_budget (fun _ => id) (regsKept_netServe (fun _ => id) (RegsKept.refl (regsOk_twnFlags (h.wf _ _))))
  rw [hk.same u a ha, rd_twnFlags_twin hu, rd_wf_twin hu]

/-- The interlock is released, before the twin writes that it withdraws (R144). -/
def released (s : State) (t : Twin) : State := ilkRelease (setIlkReq (setIlkLapsed s t false) t false) t

theorem regsOk_released (h : RegsOk s) (t : Twin) : RegsOk (released s t) :=
  (ilkRelease_keeps (P := fun _ => False) (setIlkReq_keeps (setIlkLapsed_keeps (Keeps.refl _ s) t false id) t false id) t id id
    fun _ => id).regs h

theorem rd_released_twin (h : RegsOk s) (hu : u ≠ t) (ha : OuterWord a) : rd (released s t) u a = rd s u a := by
  have hk : RegsKept OuterWord s (ilkFree (setIlkReq (setIlkLapsed s t false) t false) t) :=
    regsKept_ilkFree (fun _ => id) ((RegsKept.refl h).keep (setIlkReq_keeps (setIlkLapsed_keeps (Keeps.refl _ s) t false id)
      t false id)) t
  exact (rd_wf_twin hu ..).trans (hk.same u a ha)

/-- What a twin that withdraws forgets of its work as a twin, and the cycle in which it fell from FOLLOWING. -/
def fallen (s : State) (t : Twin) (x : TwnSt) : TwnSt :=
  { x with
    fellAt := if twState s t = tsFollowing then some (cycleNow s t) else (s.tw t).twn.fellAt
    handover := none, rotating := false, stScheduled := false, rejoining := false, overrunRun := 0, missRun := 0 }

/-- A twin's interlock is released, its cause written and its work forgotten; the change of state is to come. -/
def leaving (s : State) (t : Twin) (cause : Nat) : State :=
  modTwn (wf (wf (released s t) t R.TWN_STATE_CAUSE cause) t R.TWN_STATE_PEND_CAUSE 0) t (fallen s t)

theorem regsOk_leaving (h : RegsOk s) (t : Twin) (cause : Nat) : RegsOk (leaving s t cause) :=
  (regsOk_modTwn _).2 (((regsOk_released h t).wf _ _).wf _ _)

/-- A twin that is not in RESET leaves so; one that has not joined drops the trial mark of its boot (R145, R452). -/
theorem withdrawNow_live (hr : twState s t ≠ tsReset) (cause : Nat) :
    withdrawNow s t cause = setTwState (leaving s t cause) t tsWithdrawn ∨
      withdrawNow s t cause = setTwState (dropTrial (leaving s t cause) t) t tsWithdrawn := by
  have heq : withdrawNow s t cause = setTwState (if twState s t = tsJoining ∨ twState s t = tsBoot then
      dropTrial (leaving s t cause) t else leaving s t cause) t tsWithdrawn := if_neg hr
  rw [heq]
  split
  · exact .inr rfl
  · exact .inl rfl

/-- A withdrawal leaves the other twin's outer words alone. -/
theorem rd_withdrawNow_twin (h : RegsOk s) (hu : u ≠ t) (ha : OuterWord a) (cause : Nat) :
    rd (withdrawNow s t cause) u a = rd s u a := by
  by_cases hr : twState s t = tsReset
  · rw [withdrawNow, if_pos hr]
  have h1 := regsOk_leaving h t cause
  have hrd : rd (leaving s t cause) u a = rd s u a := by
    rw [leaving, rd_modTwn, rd_wf_twin hu, rd_wf_twin hu, rd_released_twin h hu ha]
  rcases withdrawNow_live hr cause with hnow | hnow
  · rw [hnow, rd_setTwState_twin h1 hu ha, hrd]
  · rw [hnow, rd_setTwState_twin (regsOk_dropTrial h1) hu ha, dropTrial, rd_modFlash, rd_wf_twin hu, hrd]

/-- What a cause of withdrawal does to a twin: nothing, or it is held, or the twin withdraws, which a safe stop may precede and
the cycle may be noted with. -/
theorem withdraw_cases (s : State) (t : Twin) (cause : Nat) : withdraw s t cause = s ∨
    withdraw s t cause = wf s t R.TWN_STATE_PEND_CAUSE cause ∨
    ∃ s1, (s1 = s ∨ ∃ v, s1 = safeStop s v) ∧ (withdraw s t cause = withdrawNow s1 t cause ∨
      ∃ f, withdraw s t cause = modTwn (withdrawNow s1 t cause) t f) := by
  have hlead : ∃ s1, (s1 = s ∨ ∃ v, s1 = safeStop s v) ∧ (leaveLead s t cause = withdrawNow s1 t cause ∨
      ∃ f, leaveLead s t cause = modTwn (withdrawNow s1 t cause) t f) := by
    rw [leaveLead]
    split
    · exact ⟨s, .inl rfl, .inr ⟨_, rfl⟩⟩
    · exact ⟨_, .inr ⟨t, rfl⟩, .inl rfl⟩
  have hfollow : ∃ s1, (s1 = s ∨ ∃ v, s1 = safeStop s v) ∧
      withdrawNow (if leftThisCycle s t then safeStop s t.other else s) t cause = withdrawNow s1 t cause := by
    split
    · exact ⟨_, .inr ⟨_, rfl⟩, rfl⟩
    · exact ⟨s, .inl rfl, rfl⟩
  by_cases hgone : twState s t = tsReset ∨ twState s t = tsWithdrawn
  · exact .inl (if_pos hgone)
  rw [withdraw, if_neg hgone]
  by_cases hl : twState s t = tsLeading
  · rw [if_neg (not_not_intro hl)]
    by_cases hlost : cause = 8 ∨ cause = 12
    · rw [if_pos hlost]
      exact .inr (.inr ⟨s, .inl rfl, .inl rfl⟩)
    rw [if_neg hlost]
    by_cases hi : immediateCause cause = true
    · rw [if_pos hi]
      exact .inr (.inr hlead)
    · rw [if_neg hi]
      exact .inr (.inl rfl)
  · rw [if_pos hl]
    obtain ⟨s1, hs1, heq⟩ := hfollow
    exact .inr (.inr ⟨s1, hs1, .inl heq⟩)

/-- A word of the twins or beyond, but none that a safe stop writes. -/
structure CalmWord (a : Nat) : Prop where
  outer : OuterWord a
  int : a ≠ R.SAF_STATUS_INT.addr
  event : a ≠ R.SAF_EVENT_INTERNAL.addr

theorem calmWord_twinState : CalmWord R.TWN_STATE := ⟨by decide, by decide, by decide⟩

theorem regsKept_safeStop (h : RegsOk s) (t : Twin) : RegsKept CalmWord s (safeStop s t) :=
  regsKept_demand (RegsKept.refl h) (fun ha => ha.int rfl) (fun ha => ha.event rfl) t 2

theorem twState_safeStop (h : RegsOk s) (t u : Twin) : twState (safeStop s t) u = twState s u :=
  (regsKept_safeStop h t).rf calmWord_twinState

/-- So does one that a safe stop precedes. -/
theorem rd_withdraw_twin (h : RegsOk s) (hu : u ≠ t) (ha : CalmWord a) (cause : Nat) :
    rd (withdraw s t cause) u a = rd s u a := by
  rcases withdraw_cases s t cause with heq | heq | ⟨s1, hs1, heq⟩
  · rw [heq]
  · rw [heq, rd_wf_twin hu]
  have h1 : RegsKept CalmWord s s1 := by
    rcases hs1 with rfl | ⟨v, rfl⟩
    · exact RegsKept.refl h
    · exact regsKept_safeStop h v
  have hrd : rd (withdrawNow s1 t cause) u a = rd s u a := (rd_withdrawNow_twin h1.ok hu ha.outer cause).trans (h1.same u a ha)
  rcases heq with heq | ⟨f, heq⟩
  · rw [heq, hrd]
  · rw [heq, rd_modTwn, hrd]

/-! The twin's own state and cause. -/

theorem withdraw_notLeading (h : RegsOk s) (hr : twState s t ≠ tsReset) (hw : twState s t ≠ tsWithdrawn)
    (hl : twState s t ≠ tsLeading) (hc : cause < 16) :
    twState (withdraw s t cause) t = tsWithdrawn ∧ rf (withdraw s t cause) t R.TWN_STATE_CAUSE = cause := by
  rw [withdraw, if_neg (by simp [hr, hw]), if_pos hl]
  split
  · exact withdrawNow_state (regsKept_safeStop h _).ok (by rwa [twState_safeStop h]) hc
  · exact withdrawNow_state h hr hc

theorem ne_of_leading (hl : twState s t = tsLeading) : twState s t ≠ tsReset ∧ twState s t ≠ tsWithdrawn := by
  rw [hl]
  decide

theorem leaveLead_state (h : RegsOk s) (hl : twState s t = tsLeading) (hc : cause < 16) :
    twState (leaveLead s t cause) t = tsWithdrawn ∧ rf (leaveLead s t cause) t R.TWN_STATE_CAUSE = cause := by
  have hr := (ne_of_leading hl).1
  unfold leaveLead
  extract_lets n
  split
  · rw [twState, rf_modTwn, rf_modTwn]
    exact withdrawNow_state h hr hc
  · exact withdrawNow_state (regsKept_safeStop h t).ok (by rwa [twState_safeStop h]) hc

/-- A leading twin withdraws at once with a cause that does not wait for a hand-over, and where it has lost the interlock
(R144 to R146). -/
theorem withdraw_leading (h : RegsOk s) (hl : twState s t = tsLeading)
    (hi : cause = 8 ∨ cause = 12 ∨ immediateCause cause = true) (hc : cause < 16) :
    twState (withdraw s t cause) t = tsWithdrawn ∧ rf (withdraw s t cause) t R.TWN_STATE_CAUSE = cause := by
  obtain ⟨hr, hw⟩ := ne_of_leading hl
  rw [withdraw, if_neg (by simp [hr, hw]), if_neg (by simp [hl])]
  split
  next => exact withdrawNow_state h hr hc
  next hn =>
    rw [if_pos (by simpa [not_or.1 hn] using hi)]
    exact leaveLead_state h hl hc

/-- A leading twin holds an orderly cause in PEND_CAUSE (R145). -/
theorem withdraw_pends (hl : twState s t = tsLeading) (hi : immediateCause cause = false) (h8 : cause ≠ 8)
    (h12 : cause ≠ 12) : withdraw s t cause = wf s t R.TWN_STATE_PEND_CAUSE cause := by
  obtain ⟨hr, hw⟩ := ne_of_leading hl
  rw [withdraw, if_neg (by simp [hr, hw]), if_neg (by simp [hl]), if_neg (by simp [h8, h12]), if_neg (by simp [hi])]

end Sys2Proof.Machine

/-! A withdrawal leaves the report to the command's sender alone and drops the twin's request for the interlock (R144). -/

namespace Sys2Proof.Machine

variable {s s' : State} {t : Twin} {cause : Nat}

/-! Reports. -/

theorem onBoth_report {f : State → Twin → State} (hf : ∀ s t, (f s t).report = s.report) (s : State) :
    (onBoth f s).report = s.report := (hf _ _).trans (hf _ _)

theorem onLive_report {f : State → Twin → State} (hf : ∀ s t, (f s t).report = s.report) (s : State) :
    (onLive f s).report = s.report :=
  onBoth_report (fun s t => by split; exacts [rfl, hf s t]) s

theorem foldl_report {β : Type} {f : State → β → State} (hf : ∀ s x, (f s x).report = s.report) (l : List β)
    (s : State) : (l.foldl f s).report = s.report :=
  List.foldlRecOn (motive := fun u : State => u.report = s.report) l f rfl fun u hu x _ => (hf u x).trans hu

theorem budget_report (s : State) : (budget s).report = s.report :=
  onLive_report (fun s t => by dsimp only; split <;> simp) s

theorem netServe_report (s : State) : (netServe s).report = s.report :=
  onLive_report (fun s t => (foldl_report (fun _ _ => wf_report ..) _ _).trans (by simp)) _

theorem twnFlags_report (s : State) (t : Twin) : (twnFlags s t).report = s.report := by simp [twnFlags]

theorem setTwState_report (s : State) (t : Twin) (st : Nat) : (setTwState s t st).report = s.report := by
  rw [setTwState, budget_report, netServe_report, twnFlags_report, wf_report]

theorem showOut_report (k : Nat) (s : State) (t : Twin) : (showOut k s t).report = s.report := by
  unfold showOut
  extract_lets o tr pr s1 s2 s3 g s4
  have h1 : s1.report = s.report := by
    simp only [s1]
    split <;> simp
  split
  · simp [s2, s3, h1]
  · simp [s4, h1]

theorem settle1_report (s : State) (k : Nat) : (settle1 s k).report = s.report := by
  rw [settle1, settleFed, onLive_report (showOut_report k)]
  rfl

theorem settleAll_report (s : State) : (settleAll s).report = s.report := foldl_report settle1_report _ s

theorem setPins_report (s : State) (p : Option Twin) : (setPins s p).report = s.report := by
  have hquiet : ∀ s t, (if p = some t then s else canQuiet s t).report = s.report := fun s t => by
    split
    · rfl
    · simp [canQuiet]
  exact (settleAll_report _).trans (foldl_report hquiet _ s)

theorem demand_report (s : State) (t : Twin) (k : Nat) : (demand s t k).report = s.report := by
  unfold demand
  split <;> simp [onBoth]

theorem setIlkReq_report (s : State) (t : Twin) (v : Bool) : (setIlkReq s t v).report = s.report := by cases t <;> rfl

theorem setIlkLapsed_report (s : State) (t : Twin) (v : Bool) : (setIlkLapsed s t v).report = s.report := by
  cases t <;> rfl

theorem released_report (s : State) (t : Twin) : (released s t).report = s.report := by
  have hfree : ∀ s : State, (ilkFree s t).report = s.report := fun s => by
    unfold ilkFree
    split
    · exact setPins_report ..
    · rfl
  rw [released, ilkRelease, wf_report, hfree, setIlkReq_report, setIlkLapsed_report]

theorem withdrawNow_report (s : State) (t : Twin) (cause : Nat) : (withdrawNow s t cause).report = s.report := by
  have hleave : (leaving s t cause).report = s.report := by
    rw [leaving, modTwn_report, wf_report, wf_report, released_report]
  by_cases hr : twState s t = tsReset
  · rw [withdrawNow, if_pos hr]
  rcases withdrawNow_live hr cause with hnow | hnow
  · rw [hnow, setTwState_report, hleave]
  · rw [hnow, setTwState_report, dropTrial, modFlash_report, wf_report, hleave]

theorem withdraw_report (s : State) (t : Twin) (cause : Nat) : (withdraw s t cause).report = s.report := by
  have hstop : ∀ s1, (s1 = s ∨ ∃ v, s1 = safeStop s v) → s1.report = s.report := by
    rintro s1 (rfl | ⟨v, rfl⟩)
    · rfl
    · exact demand_report ..
  rcases withdraw_cases s t cause with heq | heq | ⟨s1, hs1, heq | ⟨f, heq⟩⟩
  · rw [heq]
  · rw [heq, wf_report]
  · rw [heq, withdrawNow_report, hstop s1 hs1]
  · rw [heq, modTwn_report, withdrawNow_report, hstop s1 hs1]

/-! The request for the interlock. -/

theorem setTwState_ilk (s : State) (t : Twin) (st : Nat) : (setTwState s t st).ilk = s.ilk :=
  (setTwState_keeps (P := (· = .ilk)) (Keeps.refl _ s) t st nofun nofun).same .ilk rfl

theorem ilkReq_congr (h : s'.ilk = s.ilk) (t : Twin) : ilkReq s' t = ilkReq s t := by cases t <;> simp [ilkReq, h]

theorem ilkReq_setIlkReq (s : State) (t : Twin) (v : Bool) : ilkReq (setIlkReq s t v) t = v := by cases t <;> rfl

theorem ilkReq_ilkFree (s : State) (t u : Twin) : ilkReq (ilkFree s t) u = ilkReq s u := by
  unfold ilkFree
  split
  · cases u <;> simp [ilkReq, setPins_ilk]
  · rfl

theorem ilkReq_leaving (s : State) (t : Twin) (cause : Nat) : ilkReq (leaving s t cause) t = false := by
  have hilk : (leaving s t cause).ilk = (ilkFree (setIlkReq (setIlkLapsed s t false) t false) t).ilk := by
    simp only [leaving, released, ilkRelease, modTwn_ilk, wf_ilk]
  rw [ilkReq_congr hilk, ilkReq_ilkFree, ilkReq_setIlkReq]

theorem ilkReq_withdrawNow (hr : twState s t ≠ tsReset) (cause : Nat) : ilkReq (withdrawNow s t cause) t = false := by
  rcases withdrawNow_live hr cause with hnow | hnow
  · rw [hnow, ilkReq_congr (setTwState_ilk ..), ilkReq_leaving]
  · rw [hnow, ilkReq_congr (setTwState_ilk ..), ilkReq_congr (by rw [dropTrial, modFlash_ilk, wf_ilk] :
      (dropTrial (leaving s t cause) t).ilk = (leaving s t cause).ilk), ilkReq_leaving]

end Sys2Proof.Machine

/-! A twin's reset and its entry into JOINING (R131, R433), and heartbeats (R132, R144, R152). -/

namespace Sys2Proof.Machine

variable {K : Nat → Prop} {s0 s s' : State} {t u : Twin} {cause : Nat}

/-! A reset of one twin. -/

theorem RegsKept.sluice (h : RegsKept K s0 s) (x : SluiceSt) : RegsKept K s0 { s with sluice := x } :=
  ⟨(regsOk_iff _).2 ((regsOk_iff s).1 h.ok), fun u a ha => (by cases u <;> rfl : _ = rd s u a).trans (h.same u a ha)⟩

theorem regsKept_showLedger (h : RegsKept K s0 s) (hcfg : ¬ K R.PWR_SLU_CFG) (hst : ¬ K R.PWR_SLU_STATUS_IN_USE.addr)
    (t : Twin) : RegsKept K s0 (showLedger s t) := by
  unfold showLedger
  extract_lets held act s1 s2 s3
  have h1 : RegsKept K s0 s1 := h.wr hcfg _
  have h2 : RegsKept K s0 s2 := h1.wf (f := R.PWR_SLU_STATUS_IN_USE) hst _
  have h3 : RegsKept K s0 s3 := h2.wf (f := R.PWR_SLU_STATUS_QUEUED) hst _
  exact h3.wf (f := R.PWR_SLU_STATUS_ACTIVE) hst _

/-- An entry that a filter takes out reads as its default. -/
theorem tabGet_filter_of_not {α : Type} {d : α} {keep : Nat → Bool} {k : Nat} (hk : keep k = false) (l : Tab α) :
    tabGet d (l.filter fun e => keep e.1) k = d := by
  induction l with
  | nil => rfl
  | cons e r ih =>
    rw [List.filter_cons]
    split
    next he =>
      have hne : ¬ e.1 = k := fun h => by simp [h, hk] at he
      simp only [tabGet, if_neg hne, ih, ite_self]
    next => exact ih

/-- The words that tell of a reset: the twin's state and the cause. -/
abbrev ResetTells (a : Nat) : Prop := a = R.TWN_STATE ∨ a = R.SYS_STATUS_CAUSE.addr

theorem outer_of_resetTells : ∀ a, ResetTells a → OuterWord a := by
  rintro a (rfl | rfl) <;> decide

/-- A reset twin without the interlock whose SYS_STATUS tells of its reset. -/
def resetTold (s : State) (t : Twin) (cause : Nat) : State :=
  wf (wf (setIlkLapsed (setIlkReq (ilkRelease s t) t false) t false) t R.SYS_STATUS_CAUSE cause) t R.SYS_STATUS_LIFE
    (bit s.lockedLife)

/-- What every reset of a twin leaves beyond that leaves its words alone. -/
theorem regsKept_afterReset (h : RegsOk (resetTold s t cause)) :
    RegsKept ResetTells (resetTold s t cause) (afterReset s t cause) := by
  have hovf : ((counterOvf R.SYS_RESETS).all fun p => !decide (ResetTells p.1)) = true := by decide +kernel
  have hcnt := (RegsKept.refl (K := ResetTells) h).cnt (t := t) (a := R.SYS_RESETS) (by decide) (fun w i hw => by
    simpa [hw] using hovf)
  have hclk := (((hcnt.wf (t := t) (f := R.CLK_STATUS_RAMPING) (by decide) 0).wf (t := t) (f := R.CLK_STATUS_MP_RC)
    (by decide) 1).wf (t := t) (f := R.PWR_STATUS_ORDERLY_DONE) (by decide) 0)
  exact regsKept_budget outer_of_resetTells (regsKept_netServe outer_of_resetTells
    ((hclk.sluice _).onBoth fun _ t hs => regsKept_showLedger hs (by decide) (by decide) t))

/-- After a reset of a twin its STATE is as before, and CAUSE tells why. -/
theorem afterReset_state (h : RegsOk s) (hc : cause < 16) :
    twState (afterReset s t cause) t = twState s t ∧ rf (afterReset s t cause) t R.SYS_STATUS_CAUSE = cause := by
  obtain ⟨s1, hs1⟩ : ∃ s1, s1 = setIlkLapsed (setIlkReq (ilkRelease s t) t false) t false := ⟨_, rfl⟩
  have hfree : RegsKept ResetTells s (ilkFree s t) := regsKept_ilkFree outer_of_resetTells (RegsKept.refl h) t
  have h1 : RegsKept ResetTells (ilkRelease s t) s1 := hs1 ▸ (RegsKept.refl (hfree.ok.wf _ _)).keep
    (setIlkLapsed_keeps (setIlkReq_keeps (Keeps.refl _ _) t false id) t false id)
  have htold : resetTold s t cause = wf (wf s1 t R.SYS_STATUS_CAUSE cause) t R.SYS_STATUS_LIFE (bit s.lockedLife) := by
    rw [hs1, resetTold]
  have hk := regsKept_afterReset (htold ▸ (h1.ok.wf _ _).wf _ _ : RegsOk (resetTold s t cause))
  constructor
  · rw [twState, hk.rf (.inl rfl), htold, rf_wf_apart (h1.ok.wf _ _) (by decide) (by decide) (by decide),
      rf_wf_apart h1.ok (by decide) (by decide) (by decide), h1.rf (.inl rfl), ilkRelease,
      rf_wf_apart hfree.ok (by decide) (by decide) (by decide), hfree.rf (.inl rfl), ← twState]
  · rw [hk.rf (.inr rfl), htold, rf_wf_apart (h1.ok.wf _ _) (by decide) (by decide) (by decide),
      rf_wf_same h1.ok _ (by decide) (by decide)]
    exact Nat.mod_eq_of_lt hc

/-- A reset puts a twin in RESET and tells its cause (R433). -/
theorem resetTwin_state (h : RegsOk s) (hc : cause < 16) :
    twState (resetTwin s t cause) t = tsReset ∧ rf (resetTwin s t cause) t R.SYS_STATUS_CAUSE = cause := by
  obtain ⟨s1, hs1⟩ : ∃ s1, s1 = ilkRelease s t := ⟨_, rfl⟩
  have h1 : RegsOk s1 := hs1 ▸ (ilkRelease_keeps (P := fun _ => False) (Keeps.refl _ s) t id id fun _ => id).regs h
  obtain ⟨s2, hs2⟩ : ∃ s2, s2 = s1.setTw t { freshTwin (s1.tw t) keptOnTwinReset with
    saf := { (s1.tw t).saf with pend := none } } := ⟨_, rfl⟩
  have h2 : RegsOk s2 := hs2 ▸ h1.setTw (tabWf_filter resetWord (h1 t) _)
  have hreset : twState s2 t = tsReset := by
    have hword : rd s2 t R.TWN_STATE = resetWord R.TWN_STATE := by
      rw [hs2, rd_eq, setTw_tw]
      exact tabGet_filter_of_not (by decide) _
    rw [twState, rf, show R.TWN_STATE_STATE.addr = R.TWN_STATE from rfl, hword]
    decide +kernel
  have hpend : twState (wf s2 t R.SAF_STATUS_PENDING 0) t = twState s2 t :=
    rf_wf_apart h2 (by decide) (by decide) (by decide) 0
  have heq : resetTwin s t cause = afterReset (wf s2 t R.SAF_STATUS_PENDING 0) t cause := by rw [hs2, hs1]; rfl
  obtain ⟨hstate, hcause⟩ := afterReset_state (t := t) (h2.wf (t := t) R.SAF_STATUS_PENDING 0) hc
  rw [heq]
  exact ⟨hstate.trans (hpend.trans hreset), hcause⟩

/-! JOINING. -/

theorem twOther_setTwState (h : RegsOk s) (st : Nat) : twOther (setTwState s t st) t = twOther s t := by
  rw [twOther, (stateKept_setTwState h t st).rf rfl, rf_twnFlags (h.wf _ _) stateField_other,
    rf_wf_apart h (by decide) (by decide) (by decide), ← twOther]

theorem enterJoining_twin (s : State) (t : Twin) : ((enterJoining s t).tw t).twn = (s.tw t).twn ∧
    ((enterJoining s t).tw t).pwr = (s.tw t).pwr :=
  ⟨(enterJoining_keeps (P := (· = .tw t .twn)) (Keeps.refl _ s) t nofun nofun nofun nofun).same (.tw t .twn) rfl,
    (enterJoining_keeps (P := (· = .tw t .pwr)) (Keeps.refl _ s) t nofun nofun nofun nofun).same (.tw t .pwr) rfl⟩

/-- A twin that enters JOINING drops its request and goes on seeing the other as it did (R131). -/
theorem enterJoining_state (h : RegsOk s) : twState (enterJoining s t) t = tsJoining ∧
    twOther (enterJoining s t) t = twOther s t ∧ ilkReq (enterJoining s t) t = false := by
  obtain ⟨s1, hs1⟩ : ∃ s1, s1 = if twState s t.other = tsLeading then
      (wr s t R.TIME_RATE (rd s t.other R.TIME_RATE)).setTw t { (wr s t R.TIME_RATE (rd s t.other R.TIME_RATE)).tw t with
        ofs := ((wr s t R.TIME_RATE (rd s t.other R.TIME_RATE)).tw t).ofs +
          (devTime (wr s t R.TIME_RATE (rd s t.other R.TIME_RATE)) t.other -
            devTime (wr s t R.TIME_RATE (rd s t.other R.TIME_RATE)) t) } else s := ⟨_, rfl⟩
  have hofs : ∀ s' : State, ∀ x : TwinSt, x.regs = (s'.tw t).regs → StateKept s s' → StateKept s (s'.setTw t x) :=
    fun s' x hx hs' => ⟨hs'.ok.setTw (hx ▸ hs'.ok t), fun u a ha => by
      rw [← hs'.same u a ha]
      by_cases hu : u = t
      · rw [hu, rd_eq, rd_eq, setTw_tw, hx]
      · rw [rd_eq, rd_eq, setTw_tw_ne _ hu]⟩
  have h1 : StateKept s (setIlkReq s1 t false) := by
    refine RegsKept.keep ?_ (setIlkReq_keeps (Keeps.refl _ _) t false id)
    rw [hs1]
    exact RegsKept.ite (hofs _ _ rfl ((RegsKept.refl h).wr (by decide) _)) (RegsKept.refl h)
  have heq : enterJoining s t = setTwState (setIlkReq s1 t false) t tsJoining := by rw [hs1]; rfl
  rw [heq]
  refine ⟨twState_setTwState h1.ok (by decide), ?_, ?_⟩
  · rw [twOther_setTwState h1.ok, twOther, h1.rf rfl, ← twOther]
  · rw [ilkReq_congr (setTwState_ilk ..), ilkReq_setIlkReq]

end Sys2Proof.Machine

/-! Heartbeats and what a twin hears from them (R132, R144, R152). -/

namespace Sys2Proof.Machine

variable {K : Nat → Prop} {s s' : State} {t u : Twin} {hb : Heartbeat}

/-! Sent heartbeats. -/

theorem execHeartbeatSend_live (hr : twState s t ≠ tsReset) : ∃ u hb, execHeartbeatSend t s = .next u ∧
    (hb.state.val, hb.claim, hb.cause.val) = (twState s t % 8, rd s t R.TWN_CLAIM, rf s t R.TWN_STATE_CAUSE % 16) ∧
    u = modTwn (if twState s t = tsWithdrawn ∧ rf s t R.TWN_STATE_CAUSE = 10 then updateReset s t else s) t
      (fun x => { x with hbOut := some hb }) :=
  ⟨_, ⟨Fin.ofNat 8 (twState s t), rd s t R.TWN_CLAIM, rf s t R.TWN_STATE_PEND_CAUSE == 0, BitVec.ofNat 32 (cycleNow s t),
    Fin.ofNat 16 (rf s t R.TWN_STATE_CAUSE), flag s t R.TWN_STATE_ARB_REACH⟩, if_neg hr, rfl, rfl⟩

theorem execHeartbeatSend_tells (hr : twState s t ≠ tsReset) : ∃ u, execHeartbeatSend t s = .next u ∧
    ((u.tw t).twn.hbOut.map (fun h => (h.state.val, h.claim, h.cause.val))) =
      some (twState s t % 8, rd s t R.TWN_CLAIM, rf s t R.TWN_STATE_CAUSE % 16) ∧
    (¬(twState s t = tsWithdrawn ∧ rf s t R.TWN_STATE_CAUSE = 10) → SameRegs s u t []) := by
  obtain ⟨u, hb, hu, htold, heq⟩ := execHeartbeatSend_live hr
  refine ⟨u, hu, by simp [heq, ← htold], fun hn a _ => ?_⟩
  rw [heq, if_neg hn, rd_modTwn]

/-- A twin withdrawn for an update resets once its heartbeat has told of it (R148, R160). -/
theorem execHeartbeatSend_update (h : RegsOk s) (hs : twState s t = tsWithdrawn) (hc : rf s t R.TWN_STATE_CAUSE = 10) :
    ∃ u, execHeartbeatSend t s = .next u ∧ twState u t = tsReset ∧ rf u t R.SYS_STATUS_CAUSE = 5 := by
  obtain ⟨u, hb, hu, -, heq⟩ := execHeartbeatSend_live (s := s) (t := t) (by rw [hs]; decide)
  refine ⟨u, hu, ?_⟩
  rw [heq, if_pos ⟨hs, hc⟩, twState, rf_modTwn, rf_modTwn, updateReset]
  exact resetTwin_state ((regsOk_modFlash _).2 h) (by decide)

/-! Heard heartbeats. -/

/-- The live flags leave every other field alone. -/
theorem rf_twnFlags_apart (h : RegsOk s) {g : Fld} (hg : g.lo ≤ g.hi) (hd : ∀ f ∈ [R.TWN_STATE_LAST_TWIN, R.TWN_STATE_SPLIT,
      R.TWN_STATE_REDUCED_FT, R.TWN_STATE_COMPARE, R.TWN_STATE_LEADER],
      g.addr ≠ f.addr ∨ f.hi < g.lo ∨ g.hi < f.lo) : rf (twnFlags s t) u g = rf s u g := by
  have h1 := h.wf (t := t) R.TWN_STATE_LAST_TWIN
  simp only [twnFlags]
  rw [rf_wf_apart ((((h1 _).wf _ _).wf _ _).wf _ _) (by decide) hg (hd _ (by decide)),
    rf_wf_apart (((h1 _).wf _ _).wf _ _) (by decide) hg (hd _ (by decide)),
    rf_wf_apart ((h1 _).wf _ _) (by decide) hg (hd _ (by decide)), rf_wf_apart (h1 _) (by decide) hg (hd _ (by decide)),
    rf_wf_apart h (by decide) hg (hd _ (by decide))]

/-- A one-bit field just written shows the bit. -/
theorem flag_wf_same (h : RegsOk s) (f : Fld) (h32 : f.hi < 32) (hl : f.lo = f.hi) (b : Bool) :
    flag (wf s t f (bit b)) t f = b := by
  rw [flag, rf_wf_same h f h32 hl.le, hl, Nat.add_sub_cancel_left]
  cases b <;> rfl

/-- What a twin keeps of a heartbeat, beside what it does about it (R132). -/
structure HeartbeatHeard (s : State) (t : Twin) (hb : Heartbeat) (s' : State) : Prop where
  ok : RegsOk s'
  state : twState s' t = twState s t
  other : twOther s' t = hb.state.val
  claim : rd s' t R.TWN_CLAIM_OTHER = hb.claim
  reach : flag s' t R.TWN_STATE_OTHER_ARB_REACH = hb.arbReach
  fit : (s'.tw t).twn.hbFit = hb.fit
  cause : (s'.tw t).twn.hbCause = hb.cause.val
  update : rf s' t R.SYS_STATUS_CAUSE = rf s t R.SYS_STATUS_CAUSE

theorem heard_hearHeartbeat (h : RegsOk s) (t : Twin) (hb : Heartbeat) : HeartbeatHeard s t hb (hearHeartbeat s t hb) := by
  have h1 := h.wr (t := t) R.TWN_CLAIM_OTHER hb.claim
  have h2 := h1.wf (t := t) R.TWN_STATE_OTHER hb.state.val
  have hother : hb.state.val % 2 ^ 3 = hb.state.val := Nat.mod_eq_of_lt hb.state.isLt
  have hword : ∀ g : Fld, g.addr ≠ R.TWN_CLAIM_OTHER →
      rf (wr s t R.TWN_CLAIM_OTHER hb.claim) t g = rf s t g := fun g hg => by
    rw [rf, rd_wr_ne h hg, ← rf]
  refine ⟨(regsOk_modTwn _).2 (h2.wf _ _), ?_, ?_, ?_, ?_, ?_, ?_, ?_⟩
  all_goals simp only [hearHeartbeat, twState, twOther, flag, rf_modTwn, rd_modTwn, modTwn_twn]
  · rw [rf_wf_apart h2 (by decide) (by decide) (by decide), rf_wf_apart h1 (by decide) (by decide) (by decide),
      hword _ (by decide)]
  · rw [rf_wf_apart h2 (by decide) (by decide) (by decide), rf_wf_same h1 _ (by decide) (by decide)]
    exact hother
  · rw [wf, rd_wr_ne h2 (by decide), wf, rd_wr_ne h1 (by decide), rd_wr_same h]
  · exact flag_wf_same h2 _ (by decide) rfl hb.arbReach
  · rw [rf_wf_apart h2 (by decide) (by decide) (by decide), rf_wf_apart h1 (by decide) (by decide) (by decide),
      hword _ (by decide)]

/-- The event that a withdrawal was heard leaves what was heard alone. -/
theorem HeartbeatHeard.ev (h : HeartbeatHeard s t hb s') : HeartbeatHeard s t hb (ev s' t R.TWN_EVENT_WITHDRAWN) := by
  have hk : RegsKept (· ≠ R.TWN_EVENT) s' (Machine.ev s' t R.TWN_EVENT_WITHDRAWN) :=
    (RegsKept.refl h.ok).ev (not_not_intro rfl)
  refine ⟨hk.ok, (hk.rf (by decide)).trans h.state, (hk.rf (by decide)).trans h.other,
    (hk.same _ _ (by decide)).trans h.claim, (hk.flag (by decide)).trans h.reach, ?_, ?_, (hk.rf (by decide)).trans h.update⟩
  · rw [ev_twn, h.fit]
  · rw [ev_twn, h.cause]

/-- So do the live flags. -/
theorem HeartbeatHeard.twnFlags (h : HeartbeatHeard s t hb s') : HeartbeatHeard s t hb (twnFlags s' t) := by
  have hk : RegsKept (· ≠ R.TWN_STATE) s' (Machine.twnFlags s' t) :=
    regsKept_twnFlags (RegsKept.refl h.ok) (not_not_intro rfl) t
  refine ⟨hk.ok, (rf_twnFlags h.ok stateField_state).trans h.state, (rf_twnFlags h.ok stateField_other).trans h.other,
    (hk.same _ _ (by decide)).trans h.claim, ?_, ?_, ?_, (hk.rf (by decide)).trans h.update⟩
  · rw [flag, rf_twnFlags_apart h.ok (by decide) (by decide), ← flag, h.reach]
  · rw [twnFlags_twn, h.fit]
  · rw [twnFlags_twn, h.cause]

/-- A twin that is not in RESET takes a heartbeat, and may then withdraw or join. -/
theorem execHeartbeatReceive_takes (h : RegsOk s) (hr : twState s t ≠ tsReset) : ∃ s1, HeartbeatHeard s t hb s1 ∧
    execHeartbeatReceive t hb s = .next
      (if twState s t = tsLeading ∧ hb.state.val = tsLeading ∧ (rd s t R.TWN_CLAIM).toNat < hb.claim.toNat then
          withdraw s1 t 12
        else if (twState s t == tsBoot && (s.tw t).pwr.bootDone && !(s.tw t).twn.rejoining) ∧ hb.state.val = tsLeading then
          bootJoin s1 t
        else s1) := by
  refine ⟨twnFlags (if hb.state.val = tsWithdrawn ∧ twOther s t ≠ tsWithdrawn then
    ev (hearHeartbeat s t hb) t R.TWN_EVENT_WITHDRAWN else hearHeartbeat s t hb) t, HeartbeatHeard.twnFlags ?_, if_neg hr⟩
  split
  · exact (heard_hearHeartbeat h t hb).ev
  · exact heard_hearHeartbeat h t hb

theorem execHeartbeatReceive_running (h : RegsOk s) (hr : twState s t ≠ tsReset) (hboot : twState s t ≠ tsBoot)
    (hn : ¬(twState s t = tsLeading ∧ hb.state.val = tsLeading ∧ (rd s t R.TWN_CLAIM).toNat < hb.claim.toNat)) :
    ∃ u, execHeartbeatReceive t hb s = .next u ∧ twOther u t = hb.state.val ∧ rd u t R.TWN_CLAIM_OTHER = hb.claim ∧
      flag u t R.TWN_STATE_OTHER_ARB_REACH = hb.arbReach ∧ (u.tw t).twn.hbFit = hb.fit ∧
      (u.tw t).twn.hbCause = hb.cause.val ∧ twState u t = twState s t := by
  obtain ⟨s1, hs1, heq⟩ := execHeartbeatReceive_takes (hb := hb) h hr
  refine ⟨s1, ?_, hs1.other, hs1.claim, hs1.reach, hs1.fit, hs1.cause, hs1.state⟩
  rw [heq, if_neg hn, if_neg (by simp [hboot])]

/-- A booted twin that hears a leader joins (R131). -/
theorem execHeartbeatReceive_booted (h : RegsOk s) (hboot : twState s t = tsBoot) (hdone : (s.tw t).pwr.bootDone = true)
    (hre : (s.tw t).twn.rejoining = false) (hlead : hb.state.val = tsLeading) (hc : rf s t R.SYS_STATUS_CAUSE ≠ 5) :
    ∃ u, execHeartbeatReceive t hb s = .next u ∧ twState u t = tsJoining ∧ twOther u t = tsLeading ∧
      ilkReq u t = false := by
  obtain ⟨s1, hs1, heq⟩ := execHeartbeatReceive_takes (hb := hb) h (by rw [hboot]; decide : twState s t ≠ tsReset)
  have hreq : RegsKept (fun _ => True) s1 (setIlkReq s1 t false) :=
    (RegsKept.refl hs1.ok).keep (setIlkReq_keeps (Keeps.refl _ s1) t false id)
  have hupdate : ¬ rf (setIlkReq s1 t false) t R.SYS_STATUS_CAUSE = 5 := by rwa [hreq.rf trivial, hs1.update]
  have hnext : execHeartbeatReceive t hb s = .next (enterJoining (setIlkReq s1 t false) t) := by
    rw [heq, if_neg (by rw [hboot]; exact fun hl => absurd hl.1 (by decide)), if_pos ⟨by simp [hboot, hdone, hre], hlead⟩,
      bootJoin]
    exact congrArg _ (if_neg fun hn => hupdate hn.1)
  obtain ⟨hstate, hother, hilk⟩ := enterJoining_state (t := t) hreq.ok
  refine ⟨_, hnext, hstate, ?_, hilk⟩
  rw [hother, twOther, hreq.rf trivial, ← twOther, hs1.other, hlead]

/-- A leader that hears a leader with a higher claim has lost the arbiter (R144, R152). -/
theorem execHeartbeatReceive_higherClaim (h : RegsOk s) (hl : twState s t = tsLeading) (hlead : hb.state.val = tsLeading)
    (hc : (rd s t R.TWN_CLAIM).toNat < hb.claim.toNat) :
    ∃ u, execHeartbeatReceive t hb s = .next u ∧ twState u t = tsWithdrawn ∧ rf u t R.TWN_STATE_CAUSE = 12 := by
  obtain ⟨s1, hs1, heq⟩ := execHeartbeatReceive_takes (hb := hb) h (ne_of_leading hl).1
  refine ⟨_, by rw [heq, if_pos ⟨hl, hlead, hc⟩], ?_⟩
  exact withdraw_leading hs1.ok (hs1.state.trans hl) (.inr (.inl rfl)) (by decide)

/-! A lost twin. -/

/-- Marking a split leaves a field alone that is none of the live flags and no event of a split. -/
theorem rf_splitBoth_apart (h : RegsOk s) {g : Fld} (hg : g.lo ≤ g.hi) (hd : ∀ f ∈ [R.TWN_STATE_LAST_TWIN,
      R.TWN_STATE_SPLIT, R.TWN_STATE_REDUCED_FT, R.TWN_STATE_COMPARE, R.TWN_STATE_LEADER],
      g.addr ≠ f.addr ∨ f.hi < g.lo ∨ g.hi < f.lo)
    (he : g.addr ≠ R.TWN_EVENT_SPLIT.addr ∨ R.TWN_EVENT_SPLIT.hi < g.lo ∨ g.hi < R.TWN_EVENT_SPLIT.lo) :
    rf (onBoth (fun s u => twnFlags (ev s u R.TWN_EVENT_SPLIT) u) s) t g = rf s t g := by
  have hone : ∀ {s : State}, RegsOk s → ∀ u, rf (twnFlags (ev s u R.TWN_EVENT_SPLIT) u) t g = rf s t g := fun hs u => by
    rw [rf_twnFlags_apart (regsOk_ev hs _) hg hd, ev, rf_wf_apart hs (by decide) hg he]
  exact (hone (regsOk_twnFlags (regsOk_ev h _)) .b).trans (hone h .a)

/-- A twin that declares the other lost sets HB_LOST (R132). -/
theorem flag_otherLost (h : RegsOk s) (hr : twState s t ≠ tsReset) (ho : twOther s t ≠ tsLost) :
    flag (otherLost s t) t R.TWN_EVENT_HB_LOST = true := by
  have h1 : RegsOk (wf s t R.TWN_STATE_OTHER tsLost) := h.wf _ _
  have h2 := regsOk_ev (t := t) h1 R.TWN_EVENT_HB_LOST
  have hcnt : RegsKept (· = R.TWN_EVENT) (ev (wf s t R.TWN_STATE_OTHER tsLost) t R.TWN_EVENT_HB_LOST)
      (cnt (ev (wf s t R.TWN_STATE_OTHER tsLost) t R.TWN_EVENT_HB_LOST) t R.TWN_HB_MISS) :=
    (RegsKept.refl h2).cnt (by decide) (counterOvf_ne (by decide +kernel))
  have hset : rf (twnFlags (cnt (ev (wf s t R.TWN_STATE_OTHER tsLost) t R.TWN_EVENT_HB_LOST) t R.TWN_HB_MISS) t) t
      R.TWN_EVENT_HB_LOST = 1 := by
    rw [rf_twnFlags_apart hcnt.ok (by decide) (by decide), hcnt.rf rfl, ev, rf_wf_same h1 _ (by decide) (by decide)]
    decide
  rw [otherLost, if_neg (by simp [hr, ho]), flag, beq_iff_eq]
  dsimp only
  split
  · rw [rf_splitBoth_apart (regsOk_twnFlags hcnt.ok) (by decide) (by decide) (by decide), hset]
  · exact hset

end Sys2Proof.Machine

/-! Leave of the Sluice ledger (R443, R444): a request that is not refused waits or is granted. -/

namespace Sys2Proof.Machine

variable {K : Nat → Prop} {s0 s s' : State} {t u : Twin} {op arg : Nat} {host : Bool}

theorem showLedger_sluice (s : State) (t : Twin) : (showLedger s t).sluice = s.sluice := by simp [showLedger]

theorem showLedgers_sluice (s : State) : (onBoth showLedger s).sluice = s.sluice := by
  rw [onBoth, showLedger_sluice, showLedger_sluice]

theorem mem_leaveInsert_self (r : LeaveReq) (l : List LeaveReq) : r ∈ leaveInsert r l := by
  induction l with
  | nil => exact List.mem_singleton_self r
  | cons q rest ih =>
    rw [leaveInsert]
    split
    · exact List.mem_cons_self
    · exact List.mem_cons_of_mem q ih

/-- The request that asks for leave for an operation. -/
def leaveReq (op : Nat) (t : Twin) (host : Bool) (arg : Nat) : LeaveReq := ⟨op, leaveCost op arg, t, host, arg, false⟩

/-- The request has joined the queue. -/
def leaveQueued (s : State) (r : LeaveReq) : State :=
  onBoth showLedger { s with sluice := { s.sluice with queue := leaveInsert r s.sluice.queue } }

/-- A request whose cost is within the headroom, outside a power fail, is not refused. -/
theorem leaveAsk_eq (hp : s.pfail = false) (hh : leaveCost op arg ≤ headroom s t) : leaveAsk s op t host arg =
    if (sameLedger (leaveQueued s (leaveReq op t host arg)) t (leaveQueued s (leaveReq op t host arg)).sluice.queue).head? =
        some (leaveReq op t host arg) then grantHead (leaveQueued s (leaveReq op t host arg)) t
    else leaveQueued s (leaveReq op t host arg) := by
  have hcode : (if s.pfail then Rc.PARAM_ORDER else if headroom s t < leaveCost op arg then Rc.SLUICE_TOO_LARGE
      else Rc.OK) = Rc.OK := by
    rw [hp, if_neg (by decide), if_neg (by omega)]
  exact if_neg (not_not_intro hcode)

theorem leaveQueued_sluice (s : State) (r : LeaveReq) :
    (leaveQueued s r).sluice = { s.sluice with queue := leaveInsert r s.sluice.queue } := by
  rw [leaveQueued, showLedgers_sluice]

/-- The head of a ledger is granted where it fits, and waits on where it does not. -/
theorem grantHead_sluice {q : LeaveReq} (hq : (sameLedger s t s.sluice.queue).head? = some q) :
    (grantHead s t).sluice = if headFits s t then { queue := s.sluice.queue.erase q, held := s.sluice.held ++ [q] }
      else s.sluice := by
  obtain ⟨rest, hl⟩ := List.head?_eq_some_iff.1 hq
  rw [grantHead, hl]
  dsimp only
  split
  · rw [showLedgers_sluice]
    split
    · rw [ev_sluice]
    · rfl
  · rfl

/-- Leave that is not refused is granted or waited for (R444). -/
theorem leaveAsk_holds_or_waits (hp : s.pfail = false) (hh : leaveCost op arg ≤ headroom s t) :
    leaveHeld (leaveAsk s op t host arg) op t = true ∨ leaveWaits (leaveAsk s op t host arg) op t = true := by
  obtain ⟨r, hr⟩ : ∃ r, r = leaveReq op t host arg := ⟨_, rfl⟩
  have hwaits : leaveWaits (leaveQueued s r) op t = true := by
    rw [leaveWaits, leaveQueued_sluice, List.any_eq_true]
    exact ⟨r, mem_leaveInsert_self r _, by simp [hr, leaveReq]⟩
  rw [leaveAsk_eq hp hh, ← hr]
  split
  next hhead =>
    rw [leaveHeld, leaveWaits, grantHead_sluice hhead]
    split
    · exact .inl (by simp [hr, leaveReq])
    · exact .inr hwaits
  next => exact .inr hwaits

theorem grantHead_report (s : State) (t : Twin) : (grantHead s t).report = s.report := by
  have hshow : ∀ s : State, (onBoth showLedger s).report = s.report := onBoth_report fun s t => by simp [showLedger]
  rw [grantHead]
  split
  · rfl
  · split
    · rw [hshow]
      split
      · rw [ev_report]
      · rfl
    · rfl

theorem leaveQueued_report (s : State) (r : LeaveReq) : (leaveQueued s r).report = s.report :=
  onBoth_report (fun s t => by simp [showLedger]) _

theorem leaveAsk_report (hp : s.pfail = false) (hh : leaveCost op arg ≤ headroom s t) :
    (leaveAsk s op t host arg).report = s.report := by
  rw [leaveAsk_eq hp hh]
  split
  · rw [grantHead_report, leaveQueued_report]
  · rw [leaveQueued_report]

/-! A rejoin (R148). -/

theorem headroom_say (s : State) (c : Nat) (t : Twin) : headroom (say s c) t = headroom s t := by
  have hrd : ∀ u, ((say s c).tw u).regs = (s.tw u).regs := fun u => by cases u <;> rfl
  simp only [headroom, keeper, splitLedger, leader, twState, rf, rd, hrd]
  rfl

/-- The full self-test of a rejoin asks for leave. -/
theorem startRejoin_asks (hp : s.pfail = false) (hh : 1400 ≤ headroom s t) :
    (startRejoin s t host).report = Rc.OK ∧ ((startRejoin s t host).tw t).twn.rejoining = true ∧
    (leaveHeld (startRejoin s t host) 1 t = true ∨ leaveWaits (startRejoin s t host) 1 t = true) := by
  have hcost : leaveCost 1 0 ≤ headroom (say s Rc.OK) t := (headroom_say s _ t).symm ▸ hh
  have hreport : (leaveAsk (say s Rc.OK) 1 t host 0).report = Rc.OK := leaveAsk_report hp hcost
  have heq : startRejoin s t host = modPwr (modTwn (leaveAsk (say s Rc.OK) 1 t host 0) t
      (fun x => { x with rejoining := true })) t
      (fun p => { p with fullTest := leaveHeld (leaveAsk (say s Rc.OK) 1 t host 0) 1 t }) := if_pos hreport
  rw [heq]
  refine ⟨by rw [modPwr_report, modTwn_report, hreport], by simp, ?_⟩
  rw [leaveHeld, leaveWaits, modPwr_sluice, modTwn_sluice]
  exact leaveAsk_holds_or_waits hp hcost

theorem execRejoin_withdrawn (hs : twState s t = tsWithdrawn) (hc : causeHolds s t (rf s t R.TWN_STATE_CAUSE) = false)
    (hp : s.pfail = false) (hh : 1400 ≤ headroom s t) : ∃ u, execRejoin t s = .next u ∧ u.report = Rc.OK ∧
    (u.tw t).twn.rejoining = true ∧ (leaveHeld u 1 t = true ∨ leaveWaits u 1 t = true) :=
  ⟨_, by rw [execRejoin, if_neg (not_not_intro hs), if_neg (by simp [hc])], startRejoin_asks hp hh⟩

theorem headroom_autoAt (s : State) (t : Twin) (l : List Nat) :
    headroom (modTwn s t (fun x => { x with autoAt := l })) t = headroom s t := by
  have hsplit : splitLedger (modTwn s t (fun x => { x with autoAt := l })) = splitLedger s := by cases t <;> rfl
  simp only [headroom, keeper, leader, twState, rf_modTwn, hsplit]
  rfl

theorem execAutoRejoin_withdrawn (hs : twState s t = tsWithdrawn) (hauto : flag s t R.TWN_CFG_AUTO_REJOIN = true)
    (hl : rf s t R.TWN_STATE_CAUSE ∈ [3, 4, 7, 8, 12]) (hc : causeHolds s t (rf s t R.TWN_STATE_CAUSE) = false)
    (hre : (s.tw t).twn.rejoining = false) (hn : (recentAuto s t).length < 3) (hp : s.pfail = false)
    (hh : 1400 ≤ headroom s t) : ∃ u, execAutoRejoin t s = .next u ∧ (u.tw t).twn.rejoining = true ∧
    (leaveHeld u 1 t = true ∨ leaveWaits u 1 t = true) :=
  ⟨startRejoin (modTwn s t (fun x => { x with autoAt := (s.tw t).tb.toNat :: recentAuto s t })) t false,
    congrArg Host.Outcome.next (if_pos (by simp [hs, hauto, hl, hc, hre, hn])),
    (startRejoin_asks (by rwa [modTwn_pfail]) (by rwa [headroom_autoAt])).2⟩

end Sys2Proof.Machine

/-! What makes a twin withdraw: WITHDRAW, the die sensor and an uncorrectable ECC error (R144). -/

namespace Sys2Proof.Machine

variable {s s' : State} {t : Twin} {cause : Nat}

theorem twState_say (s : State) (c : Nat) (t : Twin) : twState (say s c) t = twState s t := rf_say ..

/-- A twin that withdraws at once requests the interlock no more (R144). -/
theorem ilkReq_withdraw_notLeading (h : RegsOk s) (hr : twState s t ≠ tsReset) (hw : twState s t ≠ tsWithdrawn)
    (hl : twState s t ≠ tsLeading) : ilkReq (withdraw s t cause) t = false := by
  rw [withdraw, if_neg (by simp [hr, hw]), if_pos hl]
  split
  · exact ilkReq_withdrawNow (by rwa [twState_safeStop h]) cause
  · exact ilkReq_withdrawNow hr cause

theorem execWithdraw_notLeading (h : RegsOk s) (hr : twState s t ≠ tsReset) (hw : twState s t ≠ tsWithdrawn)
    (hl : twState s t ≠ tsLeading) : ∃ u, execWithdraw t s = .next u ∧ twState u t = tsWithdrawn ∧
    rf u t R.TWN_STATE_CAUSE = 1 ∧ ilkReq u t = false ∧ u.report = Rc.OK := by
  have h1 : RegsOk (say s Rc.OK) := (regsOk_say _).2 h
  obtain ⟨hstate, hcause⟩ := withdraw_notLeading (cause := 1) h1 (by rwa [twState_say]) (by rwa [twState_say])
    (by rwa [twState_say]) (by decide)
  exact ⟨_, rfl, hstate, hcause, ilkReq_withdraw_notLeading h1 (by rwa [twState_say]) (by rwa [twState_say])
    (by rwa [twState_say]), withdraw_report ..⟩

/-- A leading twin holds an orderly cause, and leads on. -/
theorem withdraw_pends_state (h : RegsOk s) (hl : twState s t = tsLeading) (hi : immediateCause cause = false)
    (h8 : cause ≠ 8) (h12 : cause ≠ 12) (hc : cause < 16) : twState (withdraw s t cause) t = tsLeading ∧
    rf (withdraw s t cause) t R.TWN_STATE_PEND_CAUSE = cause := by
  rw [withdraw_pends hl hi h8 h12, twState, rf_wf_apart h (by decide) (by decide) (by decide),
    rf_wf_same h _ (by decide) (by decide)]
  exact ⟨hl, Nat.mod_eq_of_lt hc⟩

theorem execWithdraw_leading (h : RegsOk s) (hl : twState s t = tsLeading) : ∃ u, execWithdraw t s = .next u ∧
    twState u t = tsLeading ∧ rf u t R.TWN_STATE_PEND_CAUSE = 1 ∧ u.ilk.holder = s.ilk.holder := by
  have hl1 : twState (say s Rc.OK) t = tsLeading := by rwa [twState_say]
  obtain ⟨hstate, hpend⟩ := withdraw_pends_state (cause := 1) ((regsOk_say Rc.OK).2 h) hl1 rfl (by decide)
    (by decide) (by decide)
  refine ⟨_, rfl, hstate, hpend, ?_⟩
  rw [withdraw_pends hl1 rfl (by decide) (by decide), wf_ilk]
  rfl

/-! The die sensor. -/

theorem execDieOvertemp_state (h : RegsOk s) (x : BitVec 16) : ∃ u, execDieOvertemp t x s = .next u ∧
    rf u t R.PWR_MEAS_TDIE = x.toNat ∧
    (1280 < x.toInt ∧ twState s t ≠ tsReset ∧ twState s t ≠ tsWithdrawn ∧ twState s t ≠ tsLeading →
      twState u t = tsWithdrawn ∧ rf u t R.TWN_STATE_CAUSE = 7) ∧
    (1280 < x.toInt ∧ twState s t = tsLeading → twState u t = tsLeading ∧ rf u t R.TWN_STATE_PEND_CAUSE = 7) ∧
    (x.toInt ≤ 1280 → twState u t = twState s t) := by
  obtain ⟨s1, hs1⟩ : ∃ s1, s1 = wf s t R.PWR_MEAS_TDIE x.toNat := ⟨_, rfl⟩
  have h1 : RegsOk s1 := hs1 ▸ h.wf _ _
  have hstate : twState s1 t = twState s t := hs1 ▸ rf_wf_apart h (by decide) (by decide) (by decide) _
  have htdie : rf s1 t R.PWR_MEAS_TDIE = x.toNat := by
    rw [hs1, rf_wf_same h _ (by decide) (by decide)]
    exact Nat.mod_eq_of_lt x.isLt
  have hkept : RegsKept (· = R.PWR_MEAS) s1 (withdraw s1 t 7) :=
    regsKept_withdraw (by rintro a rfl; decide) (RegsKept.refl h1) (by decide) (by decide) (by decide) (by decide) t 7
  have heq : execDieOvertemp t x s = .next (if x.toInt > 1280 then withdraw s1 t 7 else s1) := by rw [hs1]; rfl
  rw [heq]
  by_cases hx : 1280 < x.toInt
  · rw [if_pos hx]
    refine ⟨_, rfl, (hkept.rf (f := R.PWR_MEAS_TDIE) rfl).trans htdie, fun ⟨_, hr, hw, hl⟩ => ?_, fun ⟨_, hl⟩ => ?_,
      fun hn => ?_⟩
    · exact withdraw_notLeading h1 (by rwa [hstate]) (by rwa [hstate]) (by rwa [hstate]) (by decide)
    · exact withdraw_pends_state h1 (hstate.trans hl) rfl (by decide) (by decide) (by decide)
    · omega
  · rw [if_neg hx]
    exact ⟨_, rfl, htdie, fun hn => absurd hn.1 hx, fun hn => absurd hn.1 hx, fun _ => hstate⟩

/-! Uncorrectable ECC errors. -/

theorem execUncorrectableEcc_state (h : RegsOk s) (hr : twState s t ≠ tsReset) (hw : twState s t ≠ tsWithdrawn)
    (hn : (rd s t R.HLT_ECC_UNCORR).toNat < 4294967294) (g : Fin 4) : ∃ u, execUncorrectableEcc t g s = .next u ∧
    twState u t = tsWithdrawn ∧ rf u t R.TWN_STATE_CAUSE = 11 ∧ rd u t R.HLT_ECC_UNCORR = rd s t R.HLT_ECC_UNCORR + 1 := by
  obtain ⟨s1, hs1⟩ : ∃ s1, s1 = cnt s t R.HLT_ECC_UNCORR := ⟨_, rfl⟩
  have hk : RegsKept (· = R.TWN_STATE) s s1 :=
    hs1 ▸ (RegsKept.refl h).cnt (by decide) (counterOvf_ne (by decide +kernel))
  have hstate : twState s1 t = twState s t := hk.rf rfl
  have hcount : rd s1 t R.HLT_ECC_UNCORR = rd s t R.HLT_ECC_UNCORR + 1 := hs1 ▸ rd_cntBy_of_lt h (by omega)
  have hkept : RegsKept (· = R.HLT_ECC_UNCORR) s1 (withdraw s1 t 11) :=
    regsKept_withdraw (by rintro a rfl; decide) (RegsKept.refl hk.ok) (by decide) (by decide) (by decide) (by decide) t 11
  have hleft : twState (withdraw s1 t 11) t = tsWithdrawn ∧ rf (withdraw s1 t 11) t R.TWN_STATE_CAUSE = 11 := by
    by_cases hl : twState s1 t = tsLeading
    · exact withdraw_leading hk.ok hl (.inr (.inr rfl)) (by decide)
    · exact withdraw_notLeading hk.ok (by rwa [hstate]) (by rwa [hstate]) hl (by decide)
  refine ⟨_, by rw [execUncorrectableEcc, if_neg hr, ← hs1], hleft.1, hleft.2, ?_⟩
  rw [hkept.same t _ rfl, hcount]

end Sys2Proof.Machine

/-! What the self-tests decide about a twin (R143, R148). -/

namespace Sys2Proof.Machine

variable {K : Nat → Prop} {s0 s s' : State} {t u l : Twin} {pass : Twin → Bool}

/-! The full self-test. -/

/-- The full self-test of a rejoin is over: its leave returns and its result stands. -/
def selftestEnded (s : State) (t : Twin) (pass : Bool) : State :=
  modTwn (modPwr (leaveEnd s 1 t) t (fun p => { p with fullTest := false })) t (fun x => { x with
    rejoining := false, joinFailed := false, fullTested := pass, testedSince := x.testedSince || pass })

/-- A twin that passed it has every converter and law engine back (R148, R296). -/
def refitted (s : State) (t : Twin) : State :=
  let s1 := wf (wf s t R.ADC_STATUS_FAILED 0) t R.ADC_STATUS_REMAPPED 0
  let s2 := s1.setTw t { s1.tw t with arr := { (s1.tw t).arr with engBad := [], engFailed := false } }
  wf (wf s2 t R.LAW_STATUS_ENGINES 8) t R.LAW_STATUS_SCHED 8

theorem execFullSelftestComplete_eq {b : Bool} (hs : twState s t = tsWithdrawn ∨ twState s t = tsBoot)
    (hre : (s.tw t).twn.rejoining = true) (hfull : (s.tw t).pwr.fullTest = true) :
    execFullSelftestComplete t b s = .next
      (if b then (if twState s t = tsBoot ∧ twOther s t ≠ tsLeading then refitted (selftestEnded s t b) t
          else enterJoining (refitted (selftestEnded s t b) t) t)
        else if twState s t = tsBoot then withdraw (selftestEnded s t b) t 2 else selftestEnded s t b) :=
  if_neg (by rcases hs with hs | hs <;> simp [hre, hfull, hs])

theorem regsKept_leaveEnd (h : RegsKept K s0 s) (hcfg : ¬ K R.PWR_SLU_CFG) (hst : ¬ K R.PWR_SLU_STATUS_IN_USE.addr)
    (op : Nat) (t : Twin) : RegsKept K s0 (leaveEnd s op t) := by
  have hend : ∀ {s1 : State}, RegsKept K s0 s1 → RegsKept K s0 (onBoth showLedger s1) := fun h1 =>
    h1.onBoth fun _ t hs => regsKept_showLedger hs hcfg hst t
  unfold leaveEnd
  split
  · exact hend (h.sluice _)
  · split
    · exact hend (h.sluice _)
    · exact hend h

theorem regsKept_selftestEnded (h : RegsOk s) (t : Twin) (b : Bool) :
    RegsKept (· = R.TWN_STATE) s (selftestEnded s t b) :=
  ((regsKept_leaveEnd (RegsKept.refl h) (by decide) (by decide) 1 t).keep (modPwr_keeps (Keeps.refl _ _) t _ id)).keep
    (modTwn_keeps (Keeps.refl _ _) t _ id)

theorem selftestEnded_twin (s : State) (t : Twin) (b : Bool) : ((selftestEnded s t b).tw t).twn.rejoining = false ∧
    ((selftestEnded s t b).tw t).twn.fullTested = b ∧ ((selftestEnded s t b).tw t).pwr.fullTest = false := by
  simp [selftestEnded]

theorem regsOk_refitted (h : RegsOk s) (t : Twin) : RegsOk (refitted s t) := by
  have h1 : RegsOk (wf (wf s t R.ADC_STATUS_FAILED 0) t R.ADC_STATUS_REMAPPED 0) := (h.wf _ _).wf _ _
  exact ((h1.setTw (x := { (wf (wf s t R.ADC_STATUS_FAILED 0) t R.ADC_STATUS_REMAPPED 0).tw t with
    arr := { ((wf (wf s t R.ADC_STATUS_FAILED 0) t R.ADC_STATUS_REMAPPED 0).tw t).arr with engBad := [], engFailed := false } })
    (h1 t)).wf _ _).wf _ _

theorem refitted_twin (s : State) (t : Twin) : ((refitted s t).tw t).twn = (s.tw t).twn ∧
    ((refitted s t).tw t).pwr = (s.tw t).pwr := by
  simp [refitted]

theorem execFullSelftestComplete_pass (h : RegsOk s)
    (hs : twState s t = tsWithdrawn ∨ (twState s t = tsBoot ∧ twOther s t = tsLeading))
    (hre : (s.tw t).twn.rejoining = true) (hfull : (s.tw t).pwr.fullTest = true) :
    ∃ u, execFullSelftestComplete t true s = .next u ∧ twState u t = tsJoining ∧ (u.tw t).twn.rejoining = false ∧
      (u.tw t).twn.fullTested = true ∧ (u.tw t).pwr.fullTest = false := by
  have hjoins : ¬(twState s t = tsBoot ∧ twOther s t ≠ tsLeading) := by
    rintro ⟨hboot, hother⟩
    rcases hs with hs | ⟨-, hl⟩
    · exact absurd (hs.symm.trans hboot) (by decide)
    · exact hother hl
  obtain ⟨htwn, hpwr⟩ := enterJoining_twin (refitted (selftestEnded s t true) t) t
  obtain ⟨htwn', hpwr'⟩ := refitted_twin (selftestEnded s t true) t
  obtain ⟨hended, htested, htest⟩ := selftestEnded_twin s t true
  refine ⟨enterJoining (refitted (selftestEnded s t true) t) t, ?_, ?_, ?_, ?_, ?_⟩
  · rw [execFullSelftestComplete_eq (hs.imp_right And.left) hre hfull, if_pos rfl, if_neg hjoins]
  · exact (enterJoining_state (regsOk_refitted (regsKept_selftestEnded h t true).ok t)).1
  · rw [htwn, htwn', hended]
  · rw [htwn, htwn', htested]
  · rw [hpwr, hpwr', htest]

theorem execFullSelftestComplete_fail (h : RegsOk s) (hs : twState s t = tsWithdrawn)
    (hre : (s.tw t).twn.rejoining = true) (hfull : (s.tw t).pwr.fullTest = true) :
    ∃ u, execFullSelftestComplete t false s = .next u ∧ twState u t = tsWithdrawn ∧ (u.tw t).twn.rejoining = false ∧
      (u.tw t).twn.fullTested = false ∧ (u.tw t).pwr.fullTest = false := by
  refine ⟨selftestEnded s t false, ?_, ?_, selftestEnded_twin s t false⟩
  · rw [execFullSelftestComplete_eq (.inl hs) hre hfull, if_neg (by decide), if_neg (by rw [hs]; decide)]
  · exact ((regsKept_selftestEnded h t false).rf rfl).trans hs

/-! The fast self-test. -/

theorem regsKept_stResult (h : RegsKept (· ≠ R.TWN_ST_RESULT_ST_OWN.addr) s0 s) (t : Twin) (own : Bool)
    (other : Option Bool) (n : Nat) : RegsKept (· ≠ R.TWN_ST_RESULT_ST_OWN.addr) s0 (stResult s t own other n) := by
  have h1 := h.wf (t := t) (f := R.TWN_ST_RESULT_ST_UNIT) (not_not_intro rfl) (if own then 0 else n)
  cases other with
  | none =>
    have h2 := h1.wf (t := t) (f := R.TWN_ST_RESULT_ST_OWN) (not_not_intro rfl) (bit own)
    exact h2.keep (modTwn_keeps (Keeps.refl _ _) t (fun x => { x with stScheduled := false }) id)
  | some o =>
    have h2 := h1.wf (t := t) (f := R.TWN_ST_RESULT_ST_OTHER) (not_not_intro rfl) (bit o)
    have h3 := h2.wf (t := t) (f := R.TWN_ST_RESULT_ST_OWN) (not_not_intro rfl) (bit own)
    exact h3.keep (modTwn_keeps (Keeps.refl _ _) t (fun x => { x with stScheduled := false }) id)

/-- The results that a twin shows once they have been exchanged. -/
theorem flags_stResult (h : RegsOk s) (t : Twin) (own o : Bool) (n : Nat) :
    flag (stResult s t own (some o) n) t R.TWN_ST_RESULT_ST_OWN = own ∧
    flag (stResult s t own (some o) n) t R.TWN_ST_RESULT_ST_OTHER = o := by
  have h1 := h.wf (t := t) R.TWN_ST_RESULT_ST_UNIT (if own then 0 else n)
  have h2 := h1.wf (t := t) R.TWN_ST_RESULT_ST_OTHER (bit o)
  have hother := flag_wf_same (t := t) h1 R.TWN_ST_RESULT_ST_OTHER (by decide) rfl o
  constructor
  · rw [flag, stResult, rf_modTwn, ← flag, flag_wf_same h2 _ (by decide) rfl]
  · rw [flag, stResult, rf_modTwn, rf_wf_apart h2 (by decide) (by decide) (by decide), ← flag, hother]

theorem rd_stResult_twin (hu : u ≠ t) (own o : Bool) (n a : Nat) : rd (stResult s t own (some o) n) u a = rd s u a := by
  rw [stResult, rd_modTwn, rd_wf_twin hu, rd_wf_twin hu, rd_wf_twin hu]

/-- Both twins show both results, and are as they were otherwise. -/
structure StTold (s : State) (pass : Twin → Bool) (s' : State) : Prop where
  ok : RegsOk s'
  state : ∀ u, twState s' u = twState s u
  own : ∀ u, flag s' u R.TWN_ST_RESULT_ST_OWN = pass u
  other : ∀ u, flag s' u R.TWN_ST_RESULT_ST_OTHER = pass u.other

theorem stTold_stResult (h : RegsOk s) (pass : Twin → Bool) (x y : Nat) : StTold s pass
    (stResult (stResult s .a (pass .a) (some (pass .b)) x) .b (pass .b) (some (pass .a)) y) := by
  have ha := regsKept_stResult (RegsKept.refl h) .a (pass .a) (some (pass .b)) x
  have hb := regsKept_stResult ha .b (pass .b) (some (pass .a)) y
  obtain ⟨howna, hothera⟩ := flags_stResult h .a (pass .a) (pass .b) x
  obtain ⟨hownb, hotherb⟩ := flags_stResult ha.ok .b (pass .b) (pass .a) y
  have hshows : ∀ f, flag (stResult (stResult s .a (pass .a) (some (pass .b)) x) .b (pass .b) (some (pass .a)) y) .a f =
      flag (stResult s .a (pass .a) (some (pass .b)) x) .a f := fun f => by
    rw [flag, rf, rd_stResult_twin (by decide), ← rf, ← flag]
  refine ⟨hb.ok, fun u => hb.rf (by decide), fun u => ?_, fun u => ?_⟩
  · cases u with
    | a => exact (hshows _).trans howna
    | b => exact hownb
  · cases u with
    | a => exact (hshows _).trans hothera
    | b => exact hotherb

/-- What a pair of twins is: a leader and a follower that each know so. -/
theorem paired_iff : paired s l = true ↔ twState s l = tsLeading ∧ twOther s l = tsFollowing ∧
    twState s l.other = tsFollowing ∧ twOther s l.other = tsLeading := by
  simp [paired, and_assoc]

/-- The decision table is applied to the results of a leader and a follower that both ran the test (R143). -/
theorem execFastSelftestComplete_paired (h : RegsOk s) (ha : s.a.twn.stScheduled = true) (hb : s.b.twn.stScheduled = true)
    (hp : paired s l = true) (pass : Twin → Bool) (x y : BitVec 16) : ∃ s', StTold s pass s' ∧
    execFastSelftestComplete (pass .a) (pass .b) x y s = .next (stDecide s' l (pass l) (pass l.other)) := by
  refine ⟨_, stTold_stResult h pass x.toNat y.toNat, ?_⟩
  rw [execFastSelftestComplete]
  cases l with
  | a => simp [ha, hb, hp, Twin.other]
  | b =>
    have hna : paired s .a = false := by
      obtain ⟨hlead, -, -, -⟩ := paired_iff.1 hp
      refine Bool.eq_false_iff.2 fun hpa => ?_
      obtain ⟨-, -, hfollow, -⟩ := paired_iff.1 hpa
      exact absurd (hlead.symm.trans hfollow) (by decide)
    simp [ha, hb, hp, hna, Twin.other]

theorem other_ne (l : Twin) : l.other ≠ l := by cases l <;> decide

theorem calmWord_result : CalmWord R.TWN_ST_RESULT_ST_OWN.addr := ⟨by decide, by decide, by decide⟩

theorem calmWord_event : CalmWord R.TWN_EVENT := ⟨by decide, by decide, by decide⟩

theorem rf_withdraw_twin (h : RegsOk s) (hu : u ≠ t) {f : Fld} (hf : CalmWord f.addr) (cause : Nat) :
    rf (withdraw s t cause) u f = rf s u f := by
  rw [rf, rd_withdraw_twin h hu hf, ← rf]

/-- The follower withdraws and the leader stays as it is. -/
theorem withdraw_follower (h : RegsOk s) (hl : twState s l = tsLeading) (hf : twState s l.other = tsFollowing) {cause : Nat}
    (hc : cause < 16) : RegsOk (withdraw s l.other cause) ∧ twState (withdraw s l.other cause) l.other = tsWithdrawn ∧
    rf (withdraw s l.other cause) l.other R.TWN_STATE_CAUSE = cause ∧ twState (withdraw s l.other cause) l = tsLeading := by
  obtain ⟨hstate, hcause⟩ := withdraw_following h hf hc
  have hk : RegsKept (fun _ => False) s (withdraw s l.other cause) :=
    regsKept_withdraw (fun _ => False.elim) (RegsKept.refl h) id id id id l.other cause
  refine ⟨hk.ok, hstate, hcause, ?_⟩
  exact (rf_withdraw_twin h (other_ne l).symm calmWord_twinState cause).trans hl

/-- The follower fails: it withdraws with cause 2. -/
theorem execFastSelftestComplete_follower (h : RegsOk s) (ha : s.a.twn.stScheduled = true) (hb : s.b.twn.stScheduled = true)
    (hp : paired s l = true) (x y : BitVec 16) : ∃ u, execFastSelftestComplete (if l = .a then true else false)
      (if l = .a then false else true) x y s = .next u ∧ twState u l.other = tsWithdrawn ∧
      rf u l.other R.TWN_STATE_CAUSE = 2 ∧ twState u l = tsLeading ∧ flag u l R.TWN_ST_RESULT_ST_OWN = true ∧
      flag u l R.TWN_ST_RESULT_ST_OTHER = false := by
  obtain ⟨s', hs', heq⟩ := execFastSelftestComplete_paired h ha hb hp (· == l) x y
  obtain ⟨hl, -, hf, -⟩ := paired_iff.1 hp
  obtain ⟨-, hstate, hcause, hlead⟩ := withdraw_follower (cause := 2) hs'.ok ((hs'.state l).trans hl)
    ((hs'.state l.other).trans hf) (by decide)
  have hresult : ∀ f : Fld, CalmWord f.addr → flag (withdraw s' l.other 2) l f = flag s' l f := fun f hf => by
    rw [flag, rf_withdraw_twin hs'.ok (other_ne l).symm hf, ← flag]
  refine ⟨withdraw s' l.other 2, ?_, hstate, hcause, hlead, ?_, ?_⟩
  · cases l <;> exact heq
  · rw [hresult R.TWN_ST_RESULT_ST_OWN calmWord_result, hs'.own, beq_self_eq_true]
  · rw [hresult R.TWN_ST_RESULT_ST_OTHER calmWord_result, hs'.other, beq_eq_false_iff_ne.2 (other_ne l)]

/-- Both pass after a disagreement: the follower withdraws with cause 3, and DISAGREE_UNRESOLVED stands. -/
theorem execFastSelftestComplete_bothPass (h : RegsOk s) (ha : s.a.twn.stScheduled = true) (hb : s.b.twn.stScheduled = true)
    (hp : paired s l = true) (x y : BitVec 16) : ∃ u, execFastSelftestComplete true true x y s = .next u ∧
      twState u l.other = tsWithdrawn ∧ rf u l.other R.TWN_STATE_CAUSE = 3 ∧ twState u l = tsLeading ∧
      flag u l R.TWN_EVENT_DISAGREE_UNRESOLVED = true := by
  obtain ⟨s', hs', heq⟩ := execFastSelftestComplete_paired h ha hb hp (fun _ => true) x y
  obtain ⟨hl, -, hf, -⟩ := paired_iff.1 hp
  obtain ⟨s1, hs1⟩ : ∃ s1, s1 = onBoth (fun s t => ev s t R.TWN_EVENT_DISAGREE_UNRESOLVED) s' := ⟨_, rfl⟩
  have hk : RegsKept (· = R.TWN_STATE) s' s1 := hs1 ▸ (RegsKept.refl hs'.ok).onBoth fun _ _ hs => hs.ev (by decide)
  have hset : flag s1 l R.TWN_EVENT_DISAGREE_UNRESOLVED = true := by
    rw [hs1, onBoth]
    cases l with
    | a => rw [flag, rf, ev, rd_wf_twin (by decide), ← rf, ← flag]; exact flag_wf_same hs'.ok _ (by decide) rfl true
    | b => exact flag_wf_same (regsOk_ev hs'.ok _) _ (by decide) rfl true
  obtain ⟨-, hstate, hcause, hlead⟩ := withdraw_follower (cause := 3) hk.ok ((hk.rf rfl).trans ((hs'.state l).trans hl))
    ((hk.rf rfl).trans ((hs'.state l.other).trans hf)) (by decide)
  refine ⟨withdraw s1 l.other 3, by rw [heq, hs1]; rfl, hstate, hcause, hlead, ?_⟩
  rw [flag, rf_withdraw_twin hk.ok (other_ne l).symm calmWord_event, ← flag, hset]

/-- The leader fails: it withdraws with cause 2 at once. -/
theorem execFastSelftestComplete_leader (h : RegsOk s) (ha : s.a.twn.stScheduled = true) (hb : s.b.twn.stScheduled = true)
    (hp : paired s l = true) (x y : BitVec 16) : ∃ u, execFastSelftestComplete (if l = .a then false else true)
      (if l = .a then true else false) x y s = .next u ∧ twState u l = tsWithdrawn ∧ rf u l R.TWN_STATE_CAUSE = 2 ∧
      twState u l.other = tsFollowing := by
  obtain ⟨s', hs', heq⟩ := execFastSelftestComplete_paired h ha hb hp (· != l) x y
  obtain ⟨hl, -, hf, -⟩ := paired_iff.1 hp
  obtain ⟨hstate, hcause⟩ := withdraw_leading (cause := 2) hs'.ok ((hs'.state l).trans hl) (.inr (.inr rfl)) (by decide)
  refine ⟨withdraw s' l 2, ?_, hstate, hcause, ?_⟩
  · cases l <;> exact heq
  · exact (rf_withdraw_twin hs'.ok (other_ne l) calmWord_twinState 2).trans ((hs'.state _).trans hf)

/-- Both fail: both withdraw with cause 2. -/
theorem execFastSelftestComplete_bothFail (h : RegsOk s) (ha : s.a.twn.stScheduled = true) (hb : s.b.twn.stScheduled = true)
    (hp : paired s l = true) (x y : BitVec 16) : ∃ u, execFastSelftestComplete false false x y s = .next u ∧
      twState u l = tsWithdrawn ∧ rf u l R.TWN_STATE_CAUSE = 2 ∧ twState u l.other = tsWithdrawn ∧
      rf u l.other R.TWN_STATE_CAUSE = 2 := by
  obtain ⟨s', hs', heq⟩ := execFastSelftestComplete_paired h ha hb hp (fun _ => false) x y
  obtain ⟨hl, -, hf, -⟩ := paired_iff.1 hp
  obtain ⟨hok, hstate, hcause, hlead⟩ := withdraw_follower (cause := 2) hs'.ok ((hs'.state l).trans hl)
    ((hs'.state l.other).trans hf) (by decide)
  have hk := regsKept_safeStop hok l
  obtain ⟨hown, howncause⟩ := withdrawNow_state (cause := 2) hk.ok
    (by rw [twState_safeStop hok, hlead]; decide : twState (safeStop (withdraw s' l.other 2) l) l ≠ tsReset) (by decide)
  have hother : ∀ f : Fld, CalmWord f.addr →
      rf (withdrawNow (safeStop (withdraw s' l.other 2) l) l 2) l.other f = rf (withdraw s' l.other 2) l.other f :=
      fun f hf => by
    rw [rf, rd_withdrawNow_twin hk.ok (other_ne l) hf.outer, ← rf, hk.rf hf]
  exact ⟨_, heq, hown, howncause, (hother _ calmWord_twinState).trans hstate, (hother _ calmWord_twinState).trans hcause⟩

end Sys2Proof.Machine

/-! The commands on a twin's health are complete (O23). -/

namespace Sys2Proof.Machine

/-- Settles O23, each command by the lemma that says what it does in the situation described. -/
theorem twinHealthCommandsComplete : Obligations.TwinHealthCommandsComplete :=
  ⟨fun _ _ => execHeartbeatSend_tells,
    fun _ _ => execHeartbeatSend_update,
    fun _ _ _ => execHeartbeatReceive_running,
    fun _ _ _ => execHeartbeatReceive_booted,
    fun _ _ _ => execHeartbeatReceive_higherClaim,
    fun _ _ h hr ho => ⟨_, rfl, twOther_otherLost h hr, flag_otherLost h hr ho⟩,
    fun _ _ => execWithdraw_notLeading,
    fun _ _ => execWithdraw_leading,
    fun _ _ _ => execRejoin_withdrawn,
    fun _ _ _ => execAutoRejoin_withdrawn,
    fun _ _ => execFullSelftestComplete_pass,
    fun _ _ => execFullSelftestComplete_fail,
    fun _ _ x y h ha hb hp => execFastSelftestComplete_follower h ha hb hp x y,
    fun _ _ x y h ha hb hp => execFastSelftestComplete_bothPass h ha hb hp x y,
    fun _ _ x y h ha hb hp => execFastSelftestComplete_leader h ha hb hp x y,
    fun _ _ x y h ha hb hp => execFastSelftestComplete_bothFail h ha hb hp x y,
    fun _ _ x h => execDieOvertemp_state h x,
    fun _ _ g h hr hw hn => execUncorrectableEcc_state h hr hw hn g⟩

end Sys2Proof.Machine

/-! Leave that is free is granted at once, and returns as it was (R443, R444). -/

namespace Sys2Proof.Machine

variable {s s' : State} {t u : Twin} {op arg : Nat} {host : Bool}

/-! The headroom. -/

theorem leader_congr (h : ∀ u, twState s' u = twState s u) : leader s' = leader s := by
  rw [leader, h, h, ← leader]

theorem splitLedger_congr (h : ∀ u, (s'.tw u).twn = (s.tw u).twn) : splitLedger s' = splitLedger s := by
  rw [splitLedger, show s'.a.twn = s.a.twn from h .a, show s'.b.twn = s.b.twn from h .b, ← splitLedger]

theorem keeper_congr (hs : ∀ u, twState s' u = twState s u) (ht : ∀ u, (s'.tw u).twn = (s.tw u).twn) (t : Twin) :
    keeper s' t = keeper s t := by
  rw [keeper, splitLedger_congr ht, leader_congr hs, ← keeper]

theorem headroom_congr (hs : ∀ u, twState s' u = twState s u) (ht : ∀ u, (s'.tw u).twn = (s.tw u).twn)
    (hc : rd s' (keeper s t) R.PWR_SLU_CFG = rd s (keeper s t) R.PWR_SLU_CFG) : headroom s' t = headroom s t := by
  have hfield : rf s' (keeper s t) R.PWR_SLU_CFG_HEADROOM = rf s (keeper s t) R.PWR_SLU_CFG_HEADROOM := by
    rw [rf, rf, show R.PWR_SLU_CFG_HEADROOM.addr = R.PWR_SLU_CFG from rfl, hc]
  simp only [headroom, keeper_congr hs ht, splitLedger_congr ht, hfield]

theorem keeper_keeper (s : State) (t : Twin) : keeper s (keeper s t) = keeper s t := by
  unfold keeper
  split
  · rfl
  · cases leader s <;> rfl

/-- Showing a ledger leaves the settings of a twin that keeps one as they are. -/
theorem rd_showLedger_keeper (h : RegsOk s) {k : Twin} (hk : keeper s k = k) (u : Twin) :
    rd (showLedger s u) k R.PWR_SLU_CFG = rd s k R.PWR_SLU_CFG := by
  obtain ⟨s1, hs1⟩ : ∃ s1, s1 = wr s u R.PWR_SLU_CFG (rd s (keeper s u) R.PWR_SLU_CFG) := ⟨_, rfl⟩
  have hk1 : RegsKept (· = R.PWR_SLU_CFG) s1 s1 := RegsKept.refl (hs1 ▸ h.wr _ _)
  have hk2 := hk1.wf (t := u) (f := R.PWR_SLU_STATUS_IN_USE) (by decide) (inUse s1 u)
  have hshow : rd (showLedger s u) k R.PWR_SLU_CFG = rd s1 k R.PWR_SLU_CFG := by
    rw [hs1] at hk2 ⊢
    exact ((hk2.wf (t := u) (f := R.PWR_SLU_STATUS_QUEUED) (by decide) _).wf (t := u) (f := R.PWR_SLU_STATUS_ACTIVE)
      (by decide) _).same k _ rfl
  rw [hshow, hs1, rd_wr h]
  split
  next he => rw [← he.1, hk]
  next => rfl

theorem twState_showLedger (h : RegsOk s) (t u : Twin) : twState (showLedger s t) u = twState s u :=
  (regsKept_showLedger (K := (· = R.TWN_STATE)) (RegsKept.refl h) (by decide) (by decide) t).rf rfl

theorem showLedger_twn (s : State) (t u : Twin) : ((showLedger s t).tw u).twn = (s.tw u).twn := by simp [showLedger]

theorem headroom_showLedger (h : RegsOk s) (u t : Twin) : headroom (showLedger s u) t = headroom s t :=
  headroom_congr (twState_showLedger h u) (showLedger_twn s u) (rd_showLedger_keeper h (keeper_keeper s t) u)

/-! A request at the head of its ledger. -/

theorem regsOk_sluice (h : RegsOk s) (x : SluiceSt) : RegsOk { s with sluice := x } := (regsOk_iff _).2 ((regsOk_iff s).1 h)

theorem headroom_leaveQueued (h : RegsOk s) (r : LeaveReq) (t : Twin) : headroom (leaveQueued s r) t = headroom s t := by
  have h1 := regsOk_sluice h { s.sluice with queue := leaveInsert r s.sluice.queue }
  have h2 : RegsOk (showLedger { s with sluice := { s.sluice with queue := leaveInsert r s.sluice.queue } } .a) :=
    (regsKept_showLedger (K := fun _ => False) (RegsKept.refl h1) id id .a).ok
  have htw : ∀ u, ({ s with sluice := { s.sluice with queue := leaveInsert r s.sluice.queue } } : State).tw u = s.tw u :=
    fun u => by cases u <;> rfl
  rw [leaveQueued, onBoth, headroom_showLedger h2, headroom_showLedger h1]
  exact headroom_congr (fun u => by rw [twState, rf, rd, htw, ← rd, ← rf, ← twState]) (fun u => by rw [htw])
    (by rw [rd, htw, ← rd])

theorem sameLedger_leaveQueued (s : State) (r : LeaveReq) (t : Twin) (l : List LeaveReq) :
    sameLedger (leaveQueued s r) t l = sameLedger s t l := by
  have htwn : ∀ u, ((leaveQueued s r).tw u).twn = (s.tw u).twn := fun u => by
    rw [leaveQueued, onBoth, showLedger_twn, showLedger_twn]
    cases u <;> rfl
  rw [sameLedger, splitLedger_congr htwn, ← sameLedger]

/-- A request is alone in its ledger where none waited. -/
theorem sameLedger_leaveInsert {r : LeaveReq} {l : List LeaveReq} (hr : r.twin = t) (hl : sameLedger s t l = []) :
    sameLedger s t (leaveInsert r l) = [r] := by
  rw [sameLedger] at hl ⊢
  split
  next hsplit =>
    rw [if_pos hsplit] at hl
    induction l with
    | nil => simp [leaveInsert, hr]
    | cons q rest ih =>
      obtain ⟨hq, hrest⟩ := List.forall_mem_cons.1 (List.filter_eq_nil_iff.1 hl)
      rw [leaveInsert]
      split
      · rw [List.filter_cons_of_pos (by simpa using hr), hl]
      · rw [List.filter_cons_of_neg (p := fun r : LeaveReq => r.twin == t) hq, ih (List.filter_eq_nil_iff.2 hrest)]
  next hsplit =>
    rw [if_neg hsplit] at hl
    rw [hl]
    rfl

theorem erase_leaveInsert {r : LeaveReq} {l : List LeaveReq} (hr : r ∉ l) : (leaveInsert r l).erase r = l := by
  induction l with
  | nil => simp [leaveInsert]
  | cons q rest ih =>
    obtain ⟨hq, hrest⟩ := List.ne_and_not_mem_of_not_mem_cons hr
    rw [leaveInsert]
    split
    · exact List.erase_cons_head ..
    · rw [List.erase_cons_tail (by simpa using Ne.symm hq), ih hrest]

/-- A request that would be in the ledger does not wait where none does. -/
theorem not_mem_of_sameLedger {r : LeaveReq} {l : List LeaveReq} (hr : r.twin = t) (hl : sameLedger s t l = []) : r ∉ l := by
  intro hmem
  rw [sameLedger] at hl
  split at hl
  · exact List.filter_eq_nil_iff.1 hl r hmem (by simpa using hr)
  · simp [hl] at hmem

theorem leaveFree_iff : leaveFree s t op arg = true ↔
    s.pfail = false ∧ sameLedger s t s.sluice.queue = [] ∧ inUse s t + leaveCost op arg ≤ headroom s t := by
  simp [leaveFree, and_assoc]

/-- Leave that is free is granted at once. -/
theorem leaveAsk_granted (h : RegsOk s) (hf : leaveFree s t op arg = true) : (leaveAsk s op t host arg).sluice =
    { s.sluice with held := s.sluice.held ++ [leaveReq op t host arg] } := by
  obtain ⟨hp, hq, hfits⟩ := leaveFree_iff.1 hf
  obtain ⟨r, hr⟩ : ∃ r, r = leaveReq op t host arg := ⟨_, rfl⟩
  have htwin : r.twin = t := hr ▸ rfl
  have halone : sameLedger (leaveQueued s r) t (leaveQueued s r).sluice.queue = [r] := by
    rw [sameLedger_leaveQueued, leaveQueued_sluice, sameLedger_leaveInsert htwin hq]
  have hhead : (sameLedger (leaveQueued s r) t (leaveQueued s r).sluice.queue).head? = some r := by rw [halone]; rfl
  have hgrant : headFits (leaveQueued s r) t = true := by
    have huse : inUse (leaveQueued s r) t = inUse s t := by
      rw [inUse, sameLedger_leaveQueued, leaveQueued_sluice, ← inUse]
    rw [headFits, halone, huse, headroom_leaveQueued h]
    exact decide_eq_true (hr ▸ hfits)
  rw [leaveAsk_eq hp (Nat.le_of_add_left_le hfits), ← hr, if_pos hhead, grantHead_sluice hhead,
    if_pos hgrant, leaveQueued_sluice]
  simp only [erase_leaveInsert (not_mem_of_sameLedger htwin hq)]

theorem leaveHeldFor_granted (h : RegsOk s) (hf : leaveFree s t op arg = true) :
    leaveHeldFor (leaveAsk s op t host arg) op t arg = true := by
  rw [leaveHeldFor, leaveAsk_granted h hf]
  simp [leaveReq, leaveIs]

/-- It returns as it was, where the operation held none before. -/
theorem leaveEndFor_granted (h : RegsOk s) (hf : leaveFree s t op arg = true) (hn : leaveHeldFor s op t arg = false) :
    (leaveEndFor (leaveAsk s op t host arg) op t arg).sluice = s.sluice := by
  obtain ⟨s1, hs1⟩ : ∃ s1, s1 = leaveAsk s op t host arg := ⟨_, rfl⟩
  have hsl : s1.sluice = { s.sluice with held := s.sluice.held ++ [leaveReq op t host arg] } := hs1 ▸ leaveAsk_granted h hf
  have hnone : ∀ r ∈ s.sluice.held, leaveIs op t arg r = false := by simpa [leaveHeldFor] using hn
  have hself : leaveIs op t arg (leaveReq op t host arg) = true := by simp [leaveReq, leaveIs]
  have hfind : s1.sluice.held.find? (leaveIs op t arg) = some (leaveReq op t host arg) := by
    rw [hsl, List.find?_append, List.find?_eq_none.2 (by simpa using hnone)]
    simp [hself]
  have hmem : leaveReq op t host arg ∉ s.sluice.held := fun hm => by simp [hnone _ hm] at hself
  rw [← hs1, leaveEndFor, hfind]
  dsimp only
  rw [showLedgers_sluice, hsl]
  simp [List.erase_append_right, hmem]

theorem regsKept_leaveEndFor {K : Nat → Prop} {s0 : State} (h : RegsKept K s0 s) (hcfg : ¬ K R.PWR_SLU_CFG)
    (hst : ¬ K R.PWR_SLU_STATUS_IN_USE.addr) (op : Nat) (t : Twin) (arg : Nat) : RegsKept K s0 (leaveEndFor s op t arg) := by
  have hend : ∀ {s1 : State}, RegsKept K s0 s1 → RegsKept K s0 (onBoth showLedger s1) := fun h1 =>
    h1.onBoth fun _ t hs => regsKept_showLedger hs hcfg hst t
  unfold leaveEndFor
  split
  · exact hend (h.sluice _)
  · split
    · exact hend (h.sluice _)
    · exact hend h

end Sys2Proof.Machine

/-! How a command of a context that comes as a row runs: it is counted, takes effect and is answered (R404, R394). -/

namespace Sys2Proof.Machine

variable {s s' s1 : State} {t u : Twin} {a : Nat} {q : Queued}

/-! A word counted or written in any register map, in order or not, leaves the other words alone where its value is not
the reset value. -/

theorem tabGet_tabSet_apart {α : Type} [DecidableEq α] {d d' v : α} (hv : v ≠ d) {k i : Nat} (hi : i ≠ k) (l : Tab α) :
    tabGet d' (tabSet d l k v) i = tabGet d' l i := by
  have hput : tabSet d l k v = tabPut true l k v := by simp [tabSet, hv]
  rw [hput]
  clear hput
  induction l with
  | nil => simp [tabPut, tabGet, hi.symm]
  | cons e r ih =>
    rw [tabPut]
    split
    next hk => simp [tabGet, hk, hi.symm]
    split
    next hk =>
      simp only [if_true, tabGet, if_neg hi.symm]
      split
      · rw [if_neg (by omega), if_pos (by omega)]
      · rfl
    next => rw [tabGet, tabGet, ih]

theorem rd_wr_apart {v : W32} (hv : v ≠ resetWord a) {b : Nat} (hb : b ≠ a) : rd (wr s t a v) u b = rd s u b := by
  by_cases hu : u = t
  · rw [hu, rd_eq, rd_eq, wr, setTw_tw]
    exact tabGet_tabSet_apart hv hb _
  · exact rd_wr_twin hu ..

/-- A counter that resets to 0, as does the word of its overflow flag. -/
structure CountsFrom0 (a w i : Nat) : Prop where
  ovf : counterOvf a = some (w, i)
  bit : i < 32
  counter : resetWord a = 0#32
  flags : resetWord w = 0#32

theorem rd_cnt_apart {w i : Nat} (h : CountsFrom0 a w i) {b : Nat} (hb : b ≠ a) (hw : b ≠ w) :
    rd (cnt s t a) u b = rd s u b := by
  unfold cnt cntBy
  split
  next hlt =>
    refine rd_wr_apart ?_ hb
    rw [h.counter]
    intro h0
    have := congrArg BitVec.toNat h0
    rw [BitVec.toNat_ofNat, BitVec.toNat_ofNat] at this
    omega
  next =>
    have hset : rd (wr s t a 0xFFFFFFFF#32) t w ||| BitVec.ofNat 32 (2 ^ i) ≠ resetWord w := by
      rw [h.flags]
      intro h0
      have hbit : (rd (wr s t a 0xFFFFFFFF#32) t w ||| BitVec.ofNat 32 (2 ^ i)).getLsbD i = true := by
        rw [BitVec.getLsbD_or, BitVec.getLsbD_ofNat, Nat.testBit_two_pow_self, decide_eq_true h.bit, Bool.true_and,
          Bool.or_true]
      rw [h0] at hbit
      simp at hbit
    rw [setOvf, h.ovf]
    exact (rd_wr_apart hset hw).trans (rd_wr_apart (by rw [h.counter]; decide) hb)

theorem countsFrom0_commands : ∀ h : Fin 4, CountsFrom0 (ha R.HST_H_COMMANDS h) (ha 0x1500128 h) 0 := fun h =>
  ⟨by revert h; decide +kernel, by decide, by revert h; decide +kernel, by revert h; decide +kernel⟩

/-! A command starts. -/

/-- A command of a context starts: it is counted, and nothing is reported of it yet. -/
def started (s : State) (h : Nat) : State := say (hostCnt s R.HST_H_COMMANDS h) Rc.OK

/-- A word that counting a command does not write. -/
abbrev StartWord (a : Nat) : Prop := ∀ h : Fin 4, a ≠ ha R.HST_H_COMMANDS h ∧ a ≠ ha 0x1500128 h

theorem rd_started (h : Fin 4) (hw : StartWord a) : rd (started s h) u a = rd s u a := by
  have hone : ∀ (s : State) (t : Twin),
      rd (if twState s t = tsReset then s else cnt s t (ha R.HST_H_COMMANDS h)) u a = rd s u a := fun s t => by
    split
    · rfl
    · exact rd_cnt_apart (countsFrom0_commands h) (hw h).1 (hw h).2
  rw [started, rd_say]
  exact (hone _ .b).trans (hone s .a)

theorem rf_started (h : Fin 4) {f : Fld} (hw : StartWord f.addr) : rf (started s h) u f = rf s u f := by
  rw [rf, rd_started h hw, ← rf]

theorem started_keeps (s : State) (h : Nat) : Keeps (fun p => ¬ IsRegs p) s (started s h) :=
  say_keeps (hostCnt_keeps (Keeps.refl _ s) _ h fun _ hp => hp trivial) _

theorem started_flash (s : State) (h : Nat) (t : Twin) : ((started s h).tw t).flash = (s.tw t).flash :=
  (started_keeps s h).same (.tw t .flash) id

theorem started_twn (s : State) (h : Nat) (t : Twin) : ((started s h).tw t).twn = (s.tw t).twn :=
  (started_keeps s h).same (.tw t .twn) id

theorem started_sluice (s : State) (h : Nat) : (started s h).sluice = s.sluice := (started_keeps s h).same .sluice id

theorem started_pfail (s : State) (h : Nat) : (started s h).pfail = s.pfail := (started_keeps s h).same .pfail id

theorem started_report (s : State) (h : Nat) : (started s h).report = Rc.OK := rfl

theorem regsOk_started (hs : RegsOk s) (h : Nat) : RegsOk (started s h) := (started_keeps s h).regs hs

theorem twState_started (s : State) (h : Fin 4) (t : Twin) : twState (started s h) t = twState s t :=
  rf_started h (by decide)

theorem leader_started (s : State) (h : Fin 4) : leader (started s h) = leader s := leader_congr (twState_started s h)

theorem asker_started (s : State) (h : Fin 4) : asker (started s h) = asker s := by rw [asker, leader_started, ← asker]

theorem groupOwner_started (s : State) (h : Fin 4) (g : Nat) : groupOwner (started s h) g = groupOwner s g := by
  have howner := rf_started (s := s) (u := asker s) h (f := ⟨R.HST_OWNER, 3 * g + 2, 3 * g⟩)
    (by decide : StartWord R.HST_OWNER)
  simp only [groupOwner, asker_started, howner]

theorem ownsAll_started (s : State) (h : Fin 4) (c m : Nat) : ownsAll (started s h) c m = ownsAll s c m := by
  simp only [ownsAll, groupOwner_started]

theorem leaveFree_started (s : State) (h : Fin 4) (t : Twin) (op arg : Nat) :
    leaveFree (started s h) t op arg = leaveFree s t op arg := by
  have hheadroom : headroom (started s h) t = headroom s t :=
    headroom_congr (twState_started s h) (started_twn s h) (rd_started h (by decide))
  have hledger : ∀ l, sameLedger (started s h) t l = sameLedger s t l := fun l => by
    rw [sameLedger, splitLedger_congr (started_twn s h), ← sameLedger]
  simp only [leaveFree, inUse, hledger, started_sluice, started_pfail, hheadroom]
  rfl

/-! And is answered. -/

theorem Keeps.mono {P Q : Part → Prop} (h : Keeps P s s') (hQ : ∀ p, Q p → P p) : Keeps Q s s' :=
  ⟨h.pending, h.life, h.free, h.regs, h.tabs, fun p hp => h.same p (hQ p hp)⟩

/-- The words that show a context's state. -/
abbrev ShownWord (h : Nat) (a : Nat) : Prop := a = (hf R.HST_H_STATE_QUEUED h).addr ∨ a = R.HST_CHANGES_PENDING.addr

theorem regsKept_showCtx {K : Nat → Prop} {s0 : State} (h : RegsKept K s0 s) {c : Nat}
    (hK : ∀ a, ShownWord c a → ¬ K a) : RegsKept K s0 (showCtx s c) :=
  h.onLive fun _ t hs => ((((hs.wf (t := t) (f := hf R.HST_H_STATE_QUEUED c) (hK _ (.inl rfl)) _).wf (t := t)
    (f := hf R.HST_H_STATE_CREDITS c) (hK _ (.inl rfl)) _).wf (t := t) (f := hf R.HST_H_STATE_DEFERRING c)
    (hK _ (.inl rfl)) _).wf (t := t) (f := hf R.HST_H_STATE_GROUPS c) (hK _ (.inl rfl)) _).wf (t := t)
    (f := R.HST_CHANGES_PENDING) (hK _ (.inr rfl)) _

theorem showCtx_report (s : State) (c : Nat) : (showCtx s c).report = s.report := onLive_report (fun _ _ => by simp) s

/-- Beside the host contexts, a command's state `s` has become `u` by a reply of code `code` and data `data` alone. -/
structure Answered (q : Queued) (code : Nat) (data : List Byte) (s u : State) : Prop where
  report : u.report = code
  last : u.host.lastReply.map (fun r => (r.ctx, r.opcode, r.data)) = some (q.ctx, q.opcode, data)
  keeps : Keeps (fun p => ¬ IsRegs p ∧ p ≠ .host) s u
  words : RegsOk s → RegsKept (fun a => ¬ ShownWord q.ctx a) s u

theorem Answered.flash {code : Nat} {data : List Byte} (h : Answered q code data s u') (t : Twin) :
    (u'.tw t).flash = (s.tw t).flash := h.keeps.same (.tw t .flash) ⟨id, nofun⟩

theorem Answered.sluice {code : Nat} {data : List Byte} (h : Answered q code data s u') : u'.sluice = s.sluice :=
  h.keeps.same .sluice ⟨id, nofun⟩

/-- A reply that leaves over no transport. -/
theorem answered_replyWith (hv : q.via = none) (key : BitVec 256) (s : State) (code : Nat) (busy : Bool) (data : List Byte) :
    Answered q code data s (replyWith key s q code busy data) := by
  unfold replyWith
  extract_lets status info r keep s1 s2
  have hemit : emit s2 q.via q.ip q.port q.ctx r = s2 := by rw [hv]; rfl
  have hk : Keeps (· ≠ .host) s s2 :=
    modHost_keeps (say_keeps (modCtx_keeps (Keeps.refl _ s) _ _ (not_not_intro rfl)) code) _ id (not_not_intro rfl)
  have hshow : (showCtx s2 q.ctx).host = s2.host :=
    (showCtx_keeps (P := (· = .host)) (Keeps.refl _ s2) q.ctx nofun).same .host rfl
  rw [hemit]
  refine ⟨showCtx_report .., by rw [hshow]; rfl, ?_, fun hs => ?_⟩
  · exact showCtx_keeps (hk.mono fun _ hp => hp.2) q.ctx fun _ hp => hp.1 trivial
  · exact regsKept_showCtx ((RegsKept.refl hs).keep (hk.mono fun p hp hn => by rw [hn] at hp; exact hp))
      fun _ ha => not_not_intro ha

/-- A command with an immediate result runs where a twin leads. -/
theorem runCmd_done {f : State → State × Res} {code : Nat} {data : List Byte} (hl : leader s ≠ none) (hv : q.via = none)
    (hf : f (started s q.ctx) = (s1, .done code data)) : ∃ u, runCmd q f s = u ∧ Answered q code data s1 u := by
  refine ⟨_, rfl, ?_⟩
  have hrun : runCmd q f s = reply s1 q code data := by
    rw [started] at hf
    rw [runCmd, if_neg (by simpa using hl), hf]
  rw [hrun]
  exact answered_replyWith hv ..

/-- So does one that is answered under an old key (R399). -/
theorem runCmd_keyed {f : State → State × Res} {key : BitVec 256} {code : Nat} (hl : leader s ≠ none) (hv : q.via = none)
    (hf : f (started s q.ctx) = (s1, .keyed key code)) : ∃ u, runCmd q f s = u ∧ Answered q code [] s1 u := by
  refine ⟨_, rfl, ?_⟩
  have hrun : runCmd q f s = replyWith key s1 q code (ctxBusy s1 q.ctx) [] := by
    rw [started] at hf
    rw [runCmd, if_neg (by simpa using hl), hf]
  rw [hrun]
  exact answered_replyWith hv ..

end Sys2Proof.Machine

/-! Boot-flash sessions: FLASH_OPEN, FLASH_WRITE, FLASH_CLOSE, FLASH_ABORT and the time-out (R414, R447). -/

namespace Sys2Proof.Machine

variable {s s' : State} {t u : Twin} {h : Fin 4} {z : BitVec 16} {v : W32} {d : List Byte}

/-! Bits of a mask. -/

/-- A bit changed reads so. -/
theorem nbit_setBit (m k : Nat) (b : Bool) : nbit (setBit m k b) k = b := by
  have hpos : 0 < 2 ^ k := Nat.two_pow_pos k
  rw [setBit]
  split
  next hb => exact hb
  next hb =>
    cases b with
    | true =>
      have h0 : m / 2 ^ k % 2 ≠ 1 := by simpa [nbit] using hb
      rw [if_pos rfl, nbit, Nat.add_div_right m hpos, beq_iff_eq]
      omega
    | false =>
      have h1 : m / 2 ^ k % 2 = 1 := by simpa [nbit] using hb
      have hsub : (m - 2 ^ k) / 2 ^ k = m / 2 ^ k - 1 := by simpa using Nat.sub_mul_div m (2 ^ k) 1
      rw [if_neg (by decide), nbit, hsub, beq_eq_false_iff_ne]
      omega

/-! The session named. -/

theorem sessionTwin_started (s : State) (c id : Nat) : sessionTwin (started s c) id = sessionTwin s id := by
  have ha : (started s c).a.flash = s.a.flash := started_flash s c .a
  have hb : (started s c).b.flash = s.b.flash := started_flash s c .b
  rw [sessionTwin, ha, hb, ← sessionTwin]

/-- A context that owns the groups of an open session may work on it. -/
theorem sessionFor_started {id c : Nat} (ht : sessionTwin s id = some t)
    (ho : ownsAll s c (typeGroups (s.tw t).flash.sessType) = true) : sessionFor (started s h) c id = (t, Rc.OK) := by
  rw [sessionFor, sessionTwin_started, ht]
  simp [ownsAll_started, started_flash, ho]

/-- The words of `k` fours of bytes. -/
theorem length_wordsOfBytes {k : Nat} (hd : d.length = 4 * k) : (wordsOfBytes d).length = k := by
  have hpieces : ∀ (n : Nat) (l : List Byte), (pieces 4 n l).length = n := fun n => by
    induction n with
    | zero => exact fun _ => rfl
    | succ n ih => exact fun l => congrArg (· + 1) (ih _)
  rw [wordsOfBytes, List.length_map, hpieces, hd, Nat.mul_div_cancel_left k (by decide)]

theorem wordsOfBytes_four (hd : d.length = 4) : wordsOfBytes d = [BitVec.ofNat 32 (beNat d)] := by
  rw [wordsOfBytes, hd, ← hd]
  simp [hd, pieces, List.take_of_length_le hd.le]

/-! FLASH_WRITE. -/

/-- Words stored in a session from a word offset on. -/
def storedWords (ws : List W32) (n off : Nat) (m : Tab (Option W32)) : Tab (Option W32) :=
  (ws.zip (List.range n)).foldl (fun m p => tabSet none m (off + p.2) (some p.1)) m

theorem storedWords_one (w : W32) (off : Nat) (m : Tab (Option W32)) :
    storedWords [w] 1 off m = tabSet none m off (some w) := rfl

/-- One to 256 words are a length that FLASH_WRITE takes. -/
theorem writeLength_ok {k : Nat} (hd : d.length = 4 * k) (hk : 0 < k) (hk' : k ≤ 256) :
    ¬(d.length % 4 ≠ 0 ∨ d.isEmpty = true ∨ 1024 < d.length) := by
  rintro (hmod | hempty | hlong)
  · omega
  · rw [List.isEmpty_iff.1 hempty, List.length_nil] at hd
    omega
  · omega

theorem execFlashWrite_granted {k : Nat} (hl : leader s ≠ none) (ht : sessionTwin s z.toNat = some t)
    (ho : ownsAll s h.val (typeGroups (s.tw t).flash.sessType) = true) (hd : d.length = 4 * k) (hk : 0 < k) (hk' : k ≤ 256)
    (hv : v.toNat % 4 = 0) (hlt : v.toNat < (s.tw t).flash.sessLen)
    (hend : v.toNat + d.length ≤ ((s.tw t).flash.sessLen + 3) / 4 * 4) (hg : (s.tw t).flash.sessGranted = true) :
    ∃ u, execFlashWrite h z v d s = .next u ∧ u.report = Rc.OK ∧
      u.host.lastReply.map (fun r => (r.ctx, r.opcode, r.data)) = some (h.val, 0x31, []) ∧
      (u.tw t).flash.sessWords = storedWords (wordsOfBytes d) k (v.toNat / 4) (s.tw t).flash.sessWords := by
  have hplace : ¬(v.toNat % 4 ≠ 0 ∨ (s.tw t).flash.sessLen ≤ v.toNat ∨
      ((s.tw t).flash.sessLen + 3) / 4 * 4 < v.toNat + d.length) := by omega
  have hop : opFlashWrite h.val z.toNat v.toNat d (started s h) = (modFlash (started s h) t (fun y => { y with
      sessWords := storedWords (wordsOfBytes d) k (v.toNat / 4) (s.tw t).flash.sessWords }), .done Rc.OK []) := by
    rw [opFlashWrite, if_neg (writeLength_ok hd hk hk')]
    simp only [sessionFor_started ht ho, started_flash, if_neg hplace, hg, length_wordsOfBytes hd]
    rfl
  obtain ⟨u, hu, hans⟩ := runCmd_done (q := rowCmd h 0x31) hl rfl hop
  refine ⟨u, congrArg _ hu, hans.report, hans.last, ?_⟩
  rw [hans.flash, modFlash_flash]

theorem execFlashWrite_waits (hl : leader s ≠ none) (ht : sessionTwin s z.toNat = some t)
    (ho : ownsAll s h.val (typeGroups (s.tw t).flash.sessType) = true) (hd : d.length = 4) (hv : v.toNat % 4 = 0)
    (hend : v.toNat + 4 ≤ (s.tw t).flash.sessLen) (hg : (s.tw t).flash.sessGranted = false) :
    ∃ u, execFlashWrite h z v d s = .next u ∧ u.report = Rc.LEAVE_WAIT ∧
      (u.tw t).flash.sessWords = (s.tw t).flash.sessWords := by
  have hplace : ¬(v.toNat % 4 ≠ 0 ∨ (s.tw t).flash.sessLen ≤ v.toNat ∨
      ((s.tw t).flash.sessLen + 3) / 4 * 4 < v.toNat + d.length) := by omega
  have hop : opFlashWrite h.val z.toNat v.toNat d (started s h) = (started s h, .done Rc.LEAVE_WAIT []) := by
    rw [opFlashWrite, if_neg (writeLength_ok (k := 1) hd (by decide) (by decide))]
    simp only [sessionFor_started ht ho, started_flash, if_neg hplace, hg]
    rfl
  obtain ⟨u, hu, hans⟩ := runCmd_done (q := rowCmd h 0x31) hl rfl hop
  refine ⟨u, congrArg _ hu, hans.report, ?_⟩
  rw [hans.flash, started_flash]

/-! The end of a session. -/

theorem sessionEnd_flash (s : State) (t : Twin) : ((sessionEnd s t).tw t).flash =
    { (s.tw t).flash with session := none, sessGranted := false, sessWords := [] } := by
  have hend : ∀ s : State, ((leaveEndFor s 5 t 0).tw t).flash = (s.tw t).flash := fun s =>
    (leaveEndFor_keeps (P := (· = .tw t .flash)) (Keeps.refl _ s) 5 t 0 nofun nofun).same (.tw t .flash) rfl
  rw [sessionEnd, hend, modFlash_flash]

theorem execFlashAbort_ends (hl : leader s ≠ none) (ht : sessionTwin s z.toNat = some t)
    (ho : ownsAll s h.val (typeGroups (s.tw t).flash.sessType) = true) : ∃ u, execFlashAbort h z s = .next u ∧
      u.report = Rc.OK ∧ u.host.lastReply.map (fun r => (r.ctx, r.opcode, r.data)) = some (h.val, 0x33, []) ∧
      (u.tw t).flash.session = none ∧ (u.tw t).flash.images = (s.tw t).flash.images := by
  have hop : opFlashAbort h.val z.toNat (started s h) = (sessionEnd (started s h) t, .done Rc.OK []) := by
    simp only [opFlashAbort, sessionFor_started ht ho]
    rfl
  obtain ⟨u, hu, hans⟩ := runCmd_done (q := rowCmd h 0x33) hl rfl hop
  refine ⟨u, congrArg _ hu, hans.report, hans.last, ?_, ?_⟩
  · rw [hans.flash, sessionEnd_flash]
  · rw [hans.flash, sessionEnd_flash, started_flash]

theorem leaveEndFor_held {op arg : Nat} {r : LeaveReq} (hr : leaveIs op t arg r = true) (hs : s.sluice.held = [r]) :
    (leaveEndFor s op t arg).sluice.held = [] := by
  have hfind : s.sluice.held.find? (leaveIs op t arg) = some r := by
    rw [hs]
    exact List.find?_cons_of_pos hr
  rw [leaveEndFor, hfind]
  dsimp only
  rw [showLedgers_sluice, hs]
  simp

theorem execFlashSessionTimeout_ends (hs : (s.tw t).flash.session ≠ none) : ∃ u, execFlashSessionTimeout t s = .next u ∧
    (u.tw t).flash.session = none ∧ (u.tw t).flash.sessGranted = false ∧
    (s.sluice.held = [⟨5, 250, t, true, 0, false⟩] → u.sluice.held = []) := by
  refine ⟨sessionEnd s t, congrArg Host.Outcome.next (if_pos (Option.isSome_iff_ne_none.2 hs)), ?_, ?_, fun hheld => ?_⟩
  · rw [sessionEnd_flash]
  · rw [sessionEnd_flash]
  · exact leaveEndFor_held (r := ⟨5, 250, t, true, 0, false⟩) (by simp [leaveIs]) (by rwa [modFlash_sluice])

/-! FLASH_CLOSE. -/

/-- An image has eight checks. -/
theorem imageCheck_le (s : State) (t : Twin) (ty : Nat) (b : List Byte) : imageCheck s t ty b ≤ 8 := by
  have hboard := (Config.boardRefusal b).isLt
  unfold imageCheck
  extract_lets g
  repeat' split
  all_goals omega

/-- The answer to FLASH_CLOSE tells whether the checks passed. -/
theorem closeData_iff {bad : Nat} (hb : bad ≤ 8) :
    beBytes 1 (if bad = 0 then 0 else Rc.IMAGE bad) = [0#8] ↔ (bad == 0) = true := by
  interval_cases bad <;> decide

theorem recordRefusal_flash (s : State) (t u : Twin) (n : Nat) : ((recordRefusal s t n).tw u).flash = (s.tw u).flash :=
  (recordRefusal_keeps (P := (· = .tw u .flash)) (Keeps.refl _ s) t n nofun).same (.tw u .flash) rfl

/-- A session closes with an image that has been judged. -/
def sessionClosed (s : State) (t : Twin) (im : List Byte) (bad : Nat) : State :=
  modFlash (sessionEnd (if (s.tw t).flash.sessType = 1 then recordRefusal s t bad else s) t) t (fun y => { y with
    images := tabSet [] y.images (2 * (s.tw t).flash.sessType + (1 - bit (nbit y.active (s.tw t).flash.sessType))) im
    verified := setBit y.verified (s.tw t).flash.sessType (bad == 0) })

theorem sessionClosed_flash (s : State) (t : Twin) (im : List Byte) (bad : Nat) : ((sessionClosed s t im bad).tw t).flash =
    { (s.tw t).flash with
      session := none, sessGranted := false, sessWords := []
      images := tabSet [] (s.tw t).flash.images
        (2 * (s.tw t).flash.sessType + (1 - bit (nbit (s.tw t).flash.active (s.tw t).flash.sessType))) im
      verified := setBit (s.tw t).flash.verified (s.tw t).flash.sessType (bad == 0) } := by
  have hrecord : ((if (s.tw t).flash.sessType = 1 then recordRefusal s t bad else s).tw t).flash = (s.tw t).flash := by
    split
    · exact recordRefusal_flash ..
    · rfl
  rw [sessionClosed, modFlash_flash, sessionEnd_flash, hrecord]

theorem execFlashClose_closes {p : List Byte} (hl : leader s ≠ none) (ht : sessionTwin s z.toNat = some t)
    (ho : ownsAll s h.val (typeGroups (s.tw t).flash.sessType) = true) (hp : sessionImage (s.tw t).flash = some p) :
    ∃ u, execFlashClose h z s = .next u ∧ u.report = Rc.OK ∧ (u.tw t).flash.session = none ∧
      (u.tw t).flash.images = tabSet [] (s.tw t).flash.images
        (2 * (s.tw t).flash.sessType + (1 - bit (nbit (s.tw t).flash.active (s.tw t).flash.sessType))) p ∧
      ((u.host.lastReply.map (fun r => r.data) = some [0#8]) ↔
        (nbit (u.tw t).flash.verified (s.tw t).flash.sessType = true)) := by
  obtain ⟨bad, hbad⟩ : ∃ bad, bad = imageCheck (started s h) t (s.tw t).flash.sessType p := ⟨_, rfl⟩
  have hop : opFlashClose h.val z.toNat (started s h) = (sessionClosed (started s h) t p bad,
      .done Rc.OK (beBytes 1 (if bad = 0 then 0 else Rc.IMAGE bad))) := by
    rw [hbad, ← started_flash s h t]
    rw [← started_flash s h t] at hp
    simp only [opFlashClose, sessionFor_started ht ho, hp, sessionClosed]
    rfl
  obtain ⟨u, hu, hans⟩ := runCmd_done (q := rowCmd h 0x32) hl rfl hop
  have hdata : u.host.lastReply.map (fun r => r.data) = some (beBytes 1 (if bad = 0 then 0 else Rc.IMAGE bad)) := by
    simpa [Option.map_map] using congrArg (Option.map (fun x => x.2.2)) hans.last
  have hflash := (hans.flash t).trans (sessionClosed_flash ..)
  rw [started_flash] at hflash
  refine ⟨u, congrArg _ hu, hans.report, by rw [hflash], by rw [hflash], ?_⟩
  rw [hdata, hflash, nbit_setBit, Option.some_inj]
  exact closeData_iff (hbad ▸ imageCheck_le ..)

/-! FLASH_OPEN. -/

theorem execFlashOpen_opens {y x : Byte} (hs : RegsOk s) (hl : leader s ≠ none) (hy : y.toNat = t.index) (hx : x.toNat ≤ 3)
    (hv : v.toNat ≤ slotSize x.toNat) (ho : ownsAll s h.val (typeGroups x.toNat) = true) (hr : twState s t ≠ tsReset)
    (hn : (s.tw t).flash.session = none) (hf : leaveFree s t 5 0 = true) : ∃ u, execFlashOpen h y x v s = .next u ∧
      u.report = Rc.OK ∧ u.host.lastReply.map (fun r => (r.ctx, r.opcode, r.data)) =
        some (h.val, 0x30, beBytes 2 ((s.tw t).flash.nextSession * 2 + t.index)) ∧
      (u.tw t).flash.session = some ((s.tw t).flash.nextSession * 2 + t.index) ∧ (u.tw t).flash.sessType = x.toNat ∧
      (u.tw t).flash.sessLen = v.toNat ∧ (u.tw t).flash.sessGranted = true ∧
      nbit (u.tw t).flash.verified x.toNat = false := by
  obtain ⟨s1, hs1⟩ : ∃ s1, s1 = leaveAsk (started s h) 5 t true 0 := ⟨_, rfl⟩
  obtain ⟨id, hid⟩ : ∃ id, id = (s.tw t).flash.nextSession * 2 + t.index := ⟨_, rfl⟩
  have hfree : leaveFree (started s h) t 5 0 = true := by rwa [leaveFree_started]
  obtain ⟨hp, -, hfits⟩ := leaveFree_iff.1 hfree
  have hreport : s1.report = Rc.OK := hs1 ▸ leaveAsk_report hp (Nat.le_of_add_left_le hfits)
  have hheld : leaveHeldFor s1 5 t 0 = true := hs1 ▸ leaveHeldFor_granted (regsOk_started hs h) hfree
  have hflash : (s1.tw t).flash = (s.tw t).flash := by rw [hs1, leaveAsk_flash, started_flash]
  have htwin : (if y.toNat = 0 then Twin.a else Twin.b) = t := by cases t <;> simp [hy, Twin.index]
  have hform : ¬(1 < y.toNat ∨ 3 < x.toNat ∨ slotSize x.toNat < v.toNat) := by
    have : t.index ≤ 1 := by cases t <;> decide
    omega
  have hop : opFlashOpen (rowCmd h 0x30) y.toNat x.toNat v.toNat (started s h) = (modFlash s1 t (fun f => { f with
      session := some id, sessType := x.toNat, sessLen := v.toNat, sessGranted := true, sessWords := []
      nextSession := f.nextSession % 32767 + 1
      verified := setBit f.verified x.toNat false
      images := tabSet [] f.images (2 * x.toNat + (1 - bit (nbit f.active x.toNat))) [] }), .done Rc.OK (beBytes 2 id)) := by
    rw [opFlashOpen]
    simp only [htwin, if_neg hform, ownsAll_started, show (rowCmd h 0x30).ctx = h.val from rfl, ho, twState_started, if_neg hr,
      started_flash, hn, ← hs1, hreport, hheld, ← hid]
    rfl
  obtain ⟨u, hu, hans⟩ := runCmd_done (q := rowCmd h 0x30) hl rfl hop
  have hfl := hans.flash t
  rw [modFlash_flash, hflash] at hfl
  rw [← hid]
  exact ⟨u, congrArg _ hu, hans.report, hans.last, by rw [hfl], by rw [hfl], by rw [hfl], by rw [hfl],
    by rw [hfl, nbit_setBit]⟩

end Sys2Proof.Machine

/-! KEY_ROLL and the end of its grace time, UPDATE, and the opcodes under Sluice leave as a whole (R160, R399, R414). -/

namespace Sys2Proof.Machine

variable {K : Nat → Prop} {s s' : State} {t u : Twin} {h : Fin 4} {a : Nat}

/-! The grace time. -/

theorem hctx_modCtx (hs : TabsOk s) (c : Nat) (f : CtxSt → CtxSt) : hctx (modCtx s c f) c = f (hctx s c) :=
  tabGet_tabSet_same (fun _ => ({} : CtxSt)) hs.ctx c _

theorem execKeyRollGraceEnd_forgets (hs : TabsOk s) : ∃ u, execKeyRollGraceEnd h s = .next u ∧
    (hctx u h.val).rolled = none ∧ (hctx u h.val).kept = (hctx s h.val).kept ∧
    (hctx u h.val).queue = (hctx s h.val).queue := by
  refine ⟨_, rfl, ?_, ?_, ?_⟩ <;> rw [hctx_modCtx hs]

/-! The leading twin. -/

theorem leads_of_leader (hl : leader s = some t) : twState s t = tsLeading := by
  rw [leader] at hl
  split at hl
  next ha => exact Option.some_inj.1 hl ▸ ha
  split at hl
  next hb => exact Option.some_inj.1 hl ▸ hb
  next => exact nomatch hl

theorem asker_of_leader (hl : leader s = some t) : asker s = t := by rw [asker, hl, Option.getD_some]

theorem highCtr_congr {c : Nat} (hs : ∀ u, twState s' u = twState s u)
    (hc : ∀ u, rd s' u (ha R.HST_H_HIGH_CTR c) = rd s u (ha R.HST_H_HIGH_CTR c)) : highCtr s' c = highCtr s c := by
  rw [highCtr, asker, leader_congr hs, ← asker, hc, ← highCtr]

/-! The words of a context are words of their own. -/

theorem shown_twinState : ∀ h : Fin 4, ¬ ShownWord h R.TWN_STATE := by decide

theorem shown_highCtr : ∀ h : Fin 4, ¬ ShownWord h (ha R.HST_H_HIGH_CTR h) := by decide

theorem shown_event : ∀ h : Fin 4, ¬ ShownWord h (hf R.HST_H_EVENT_KEY_ROLLED h).addr := by decide

/-- A word that neither counting a command nor leave for it writes. -/
abbrev CommandWord (a : Nat) : Prop := StartWord a ∧ 0x200000 ≤ a

theorem commandWord_twinState : CommandWord R.TWN_STATE := by decide

theorem commandWord_highCtr : ∀ h : Fin 4, CommandWord (ha R.HST_H_HIGH_CTR h) := by decide

theorem ne_twinState_of_context : ∀ h : Fin 4, ha R.HST_H_HIGH_CTR h ≠ R.TWN_STATE ∧
    (hf R.HST_H_STATE_KEY_EXHAUSTED h).addr ≠ R.TWN_STATE ∧ (hf R.HST_H_EVENT_KEY_ROLLED h).addr ≠ R.TWN_STATE ∧
    (hf R.HST_H_EVENT_KEY_ROLLED h).addr ≠ ha R.HST_H_HIGH_CTR h := by decide

/-! Leave that a command asks for, gets and gives back. -/

/-- The state of a command for which leave for boot-flash programming came and went. -/
def leaveSpent (s : State) (h : Nat) (t : Twin) (arg : Nat) : State :=
  leaveEndFor (leaveAsk (started s h) 5 t true arg) 5 t arg

theorem leaveAsk_started (hs : RegsOk s) {arg : Nat} (hf : leaveFree s t 5 arg = true) :
    ArrayKept (started s h) (leaveAsk (started s h) 5 t true arg) ∧
      leaveHeldFor (leaveAsk (started s h) 5 t true arg) 5 t arg = true := by
  have hs1 := regsOk_started hs h
  have hfree : leaveFree (started s h) t 5 arg = true := by rwa [leaveFree_started]
  obtain ⟨hp, -, hfits⟩ := leaveFree_iff.1 hfree
  exact ⟨(ArrayKept.refl hs1).leaveAsk 5 t true arg hp (Nat.le_of_add_left_le hfits), leaveHeldFor_granted hs1 hfree⟩

theorem regsKept_leaveSpent (hs : RegsOk s) {arg : Nat} (hf : leaveFree s t 5 arg = true) :
    RegsKept CommandWord s (leaveSpent s h t arg) := by
  have hk := regsKept_leaveEndFor (leaveAsk_started (h := h) hs hf).1.words (by decide) (by decide) 5 t arg
  exact ⟨hk.ok, fun u a ha => (hk.same u a ha.2).trans (rd_started h ha.1)⟩

theorem leaveSpent_flash (s : State) (c : Nat) (t u : Twin) (arg : Nat) :
    ((leaveSpent s c t arg).tw u).flash = (s.tw u).flash := by
  have hend : ∀ s : State, ((leaveEndFor s 5 t arg).tw u).flash = (s.tw u).flash := fun s =>
    (leaveEndFor_keeps (P := (· = .tw u .flash)) (Keeps.refl _ s) 5 t arg nofun nofun).same (.tw u .flash) rfl
  rw [leaveSpent, hend, leaveAsk_flash, started_flash]

theorem leaveSpent_sluice (hs : RegsOk s) {arg : Nat} (hf : leaveFree s t 5 arg = true)
    (hn : leaveHeldFor s 5 t arg = false) : (leaveSpent s h t arg).sluice = s.sluice := by
  have hfree : leaveFree (started s h) t 5 arg = true := by rwa [leaveFree_started]
  have hnone : leaveHeldFor (started s h) 5 t arg = false := by rwa [leaveHeldFor, started_sluice, ← leaveHeldFor]
  rw [leaveSpent, leaveEndFor_granted (regsOk_started hs h) hfree hnone, started_sluice]

/-! KEY_ROLL. -/

/-- The command of a KEY_ROLL as a row. -/
abbrev keyRollCmd (h : Fin 4) (y : BitVec 128) : Queued := { rowCmd h 0x03 with params := beBytes 16 y.toNat }

/-- A KEY_ROLL whose leave is free runs, and is answered under the old key. -/
theorem execKeyRoll_runs (hs : RegsOk s) (hl : leader s = some t) (hf : leaveFree s t 5 (8 + h.val) = true)
    (y : BitVec 128) (x : Bool) : ∃ u, execKeyRoll h y x s = .next u ∧
      Answered (keyRollCmd h y) (keyRoll (leaveSpent s h t (8 + h.val)) (rowCmd h 0x03) y x).report []
        (keyRoll (leaveSpent s h t (8 + h.val)) (rowCmd h 0x03) y x) u := by
  obtain ⟨hkept, hheld⟩ := leaveAsk_started (h := h) hs hf
  have hasker : asker (started s h) = t := (asker_started s h).trans (asker_of_leader hl)
  have hreport : (leaveAsk (started s h) 5 t true (8 + h.val)).report = Rc.OK := hkept.report.trans (started_report s h)
  have hop : opKeyRoll (rowCmd h 0x03) y x (started s h) =
      (keyRoll (leaveSpent s h t (8 + h.val)) (rowCmd h 0x03) y x,
        .keyed (ctxKey (started s h) h) (keyRoll (leaveSpent s h t (8 + h.val)) (rowCmd h 0x03) y x).report) := by
    simp only [opKeyRoll, hasker, show (rowCmd h 0x03).ctx = h.val from rfl, hreport, hheld]
    rfl
  obtain ⟨u, hu, hans⟩ := runCmd_keyed (s := s) (q := keyRollCmd h y) (f := fun s => opKeyRoll (rowCmd h 0x03) y x s)
    (by rw [hl]; nofun) rfl hop
  exact ⟨u, congrArg _ hu, hans⟩

theorem flashReady_congr (hs : ∀ u, twState s' u = twState s u) : flashReady s' = flashReady s := by
  rw [flashReady, hs, hs, ← flashReady]

theorem keyRoll_sluice (s : State) (q : Queued) (y : BitVec 128) (x : Bool) : (keyRoll s q y x).sluice = s.sluice :=
  (keyRoll_keeps (P := (· = .sluice)) (Keeps.refl _ s) q y x nofun nofun nofun).same .sluice rfl

/-- Neither flash takes the key where one of the writes fails. -/
theorem execKeyRoll_fails (hs : RegsOk s) (hl : leader s = some t) {y : BitVec 128} {x : Bool}
    (hx : x = false ∨ flashReady s = false) (hf : leaveFree s t 5 (8 + h.val) = true) : ∃ u,
      execKeyRoll h y x s = .next u ∧ u.report = Rc.FLASH_FAIL ∧ u.a.flash.keys = s.a.flash.keys ∧
      u.b.flash.keys = s.b.flash.keys ∧
      highCtr u h.val = highCtr s h.val ∧ (leaveHeldFor s 5 t (8 + h.val) = false → u.sluice = s.sluice) := by
  have hk : RegsKept CommandWord s (leaveSpent s h t (8 + h.val)) := regsKept_leaveSpent hs hf
  have hready : flashReady (leaveSpent s h t (8 + h.val)) = flashReady s :=
    flashReady_congr fun u => hk.rf commandWord_twinState
  have hroll : keyRoll (leaveSpent s h t (8 + h.val)) (rowCmd h 0x03) y x = say (leaveSpent s h t (8 + h.val)) Rc.FLASH_FAIL :=
    if_pos (by rw [hready]; simpa using hx)
  obtain ⟨u, hu, hans⟩ := execKeyRoll_runs (h := h) hs hl hf y x
  rw [hroll] at hans
  have hflash : ∀ t', (u.tw t').flash = (s.tw t').flash := fun t' => by rw [hans.flash, say_tw, leaveSpent_flash]
  have hall : RegsKept (fun a => ¬ ShownWord h a ∧ CommandWord a) s u :=
    have hwords := hans.words ((regsOk_say _).2 hk.ok)
    ⟨hwords.ok, fun t' a ha => by rw [hwords.same t' a ha.1, rd_say, hk.same t' a ha.2]⟩
  refine ⟨u, hu, hans.report, by rw [show u.a.flash = s.a.flash from hflash .a],
    by rw [show u.b.flash = s.b.flash from hflash .b], ?_, fun hn => ?_⟩
  · exact highCtr_congr (fun t' => hall.rf ⟨shown_twinState h, commandWord_twinState⟩)
      fun t' => hall.same t' _ ⟨shown_highCtr h, commandWord_highCtr h⟩
  · rw [hans.sluice, say_sluice, leaveSpent_sluice hs hf hn]

/-- What an operation on each live twin makes of a word of one of them. -/
theorem onLive_sets {f : State → Twin → State} {p : W32 → Prop} (hs : RegsOk s) (hr : twState s t ≠ tsReset)
    (hok : ∀ s u, RegsOk s → RegsOk (f s u)) (hother : ∀ s u v b, v ≠ u → rd (f s u) v b = rd s v b)
    (hset : ∀ s, RegsOk s → p (rd (f s t) t a)) : p (rd (onLive f s) t a) := by
  obtain ⟨s1, hs1⟩ : ∃ s1, s1 = if twState s .a = tsReset then s else f s .a := ⟨_, rfl⟩
  have heq : onLive f s = if twState s1 .b = tsReset then s1 else f s1 .b := by rw [hs1]; rfl
  have hok1 : RegsOk s1 := by
    rw [hs1]
    split
    · exact hs
    · exact hok _ _ hs
  have hb : twState s1 .b = twState s .b := by
    rw [hs1]
    split
    · rfl
    · rw [twState, rf, hother _ _ _ _ (by decide), ← rf, ← twState]
  rw [heq]
  cases t with
  | a =>
    have ha : rd (if twState s1 .b = tsReset then s1 else f s1 .b) .a a = rd s1 .a a := by
      split
      · rfl
      · exact hother _ _ _ _ (by decide)
    rw [ha, hs1, if_neg hr]
    exact hset s hs
  | b =>
    rw [if_neg (by rwa [hb])]
    exact hset s1 hok1

/-- Both flashes take a key. -/
def keysWritten (s : State) (c : Nat) (k : BitVec 256) : State :=
  onBoth (fun s t => modFlash s t (fun f => { f with keys := tabSet 0 f.keys c k })) s

theorem keysWritten_keys (s : State) (c : Nat) (k : BitVec 256) (t : Twin) :
    ((keysWritten s c k).tw t).flash.keys = tabSet 0 (s.tw t).flash.keys c k := by cases t <;> rfl

/-- The counter window of a context restarts at 0. -/
def counterRestarted (s : State) (c : Nat) : State :=
  onLive (fun s t => wf (wr s t (ha R.HST_H_HIGH_CTR c) 0) t (hf R.HST_H_STATE_KEY_EXHAUSTED c) 0) s

theorem keyRoll_eq (hr : flashReady s = true) (q : Queued) (y : BitVec 128) : ∃ f, keyRoll s q y true =
    say (hostEv (counterRestarted (modCtx (keysWritten s q.ctx (rolledKey (ctxKey s q.ctx) y)) q.ctx f) q.ctx)
      R.HST_H_EVENT_KEY_ROLLED q.ctx) Rc.OK :=
  ⟨_, if_neg (by simp [hr])⟩

theorem regsKept_counterRestarted {s0 : State} (hk : RegsKept K s0 s) {c : Nat} (hhigh : ¬ K (ha R.HST_H_HIGH_CTR c))
    (hstate : ¬ K (hf R.HST_H_STATE_KEY_EXHAUSTED c).addr) : RegsKept K s0 (counterRestarted s c) :=
  hk.onLive fun _ t hs => (hs.wr (t := t) hhigh 0).wf (f := hf R.HST_H_STATE_KEY_EXHAUSTED c) hstate 0

theorem rd_counterRestarted (hs : RegsOk s) (hr : twState s t ≠ tsReset) (c : Nat) :
    rd (counterRestarted s c) t (ha R.HST_H_HIGH_CTR c) = 0#32 := by
  refine onLive_sets (p := (· = 0#32)) hs hr (fun _ _ hs => (hs.wr _ _).wf _ _) (fun s u v b hv => ?_) fun s hs => ?_
  · rw [rd_wf_twin hv, rd_wr_twin hv]
  · rw [wf, rd_wr_ne (hs.wr _ _) (by simp [ha, hf, fo, R.HST_H_HIGH_CTR, R.HST_H_STATE_KEY_EXHAUSTED]), rd_wr_same hs]
    rfl

theorem regsKept_hostEv {s0 : State} (hk : RegsKept K s0 s) {f : Fld} {c : Nat} (hf' : ¬ K (hf f c).addr) :
    RegsKept K s0 (hostEv s f c) := hk.onLive fun _ t hs => hs.ev (t := t) (f := hf f c) hf'

theorem flag_hostEv (hs : RegsOk s) (hr : twState s t ≠ tsReset) (c : Nat) :
    flag (hostEv s R.HST_H_EVENT_KEY_ROLLED c) t (hf R.HST_H_EVENT_KEY_ROLLED c) = true := by
  refine onLive_sets (p := fun w => (bits w 4 4 == 1) = true) hs hr (fun _ _ hs => regsOk_ev hs _)
    (fun s u v b hv => rd_wf_twin hv ..) fun s hs => ?_
  exact flag_wf_same hs (hf R.HST_H_EVENT_KEY_ROLLED c) (by decide : (4 : Nat) < 32) rfl true

/-- What a key roll whose flash writes succeed leaves, in registers that are in order. -/
structure KeyRolled (s : State) (c : Nat) (k : BitVec 256) (t : Twin) (s' : State) : Prop where
  ok : RegsOk s'
  report : s'.report = Rc.OK
  keys : ∀ u, (s'.tw u).flash.keys = tabSet 0 (s.tw u).flash.keys c k
  state : ∀ u, twState s' u = twState s u
  counter : rd s' t (ha R.HST_H_HIGH_CTR c) = 0#32
  event : flag s' t (hf R.HST_H_EVENT_KEY_ROLLED c) = true

theorem keyRolled_keyRoll (hs : RegsOk s) (hr : flashReady s = true) (ht : twState s t ≠ tsReset) {q : Queued}
    (hq : q.ctx < 4) (y : BitVec 128) : KeyRolled s q.ctx (rolledKey (ctxKey s q.ctx) y) t (keyRoll s q y true) := by
  obtain ⟨f, heq⟩ := keyRoll_eq hr q y
  obtain ⟨c, hc⟩ : ∃ c : Fin 4, c.val = q.ctx := ⟨⟨q.ctx, hq⟩, rfl⟩
  obtain ⟨hhigh, hstate, hevent, hcounter⟩ := ne_twinState_of_context c
  rw [heq, ← hc]
  obtain ⟨s1, hs1⟩ : ∃ s1, s1 = modCtx (keysWritten s c (rolledKey (ctxKey s c) y)) c f := ⟨_, rfl⟩
  rw [← hs1]
  have h1 : RegsKept (fun _ => True) s s1 := hs1 ▸ (RegsKept.refl hs).keep (modCtx_keeps
    (onBoth_keeps (Keeps.refl _ s) _ fun _ t hs => modFlash_keeps hs t _ id) c f id)
  have hstate1 : ∀ u, twState s1 u = twState s u := fun u => h1.rf trivial
  have h2 : RegsKept (· = R.TWN_STATE) s1 (counterRestarted s1 c) :=
    regsKept_counterRestarted (RegsKept.refl h1.ok) hhigh hstate
  have hlive : twState (counterRestarted s1 c) t ≠ tsReset := by rwa [twState, h2.rf rfl, ← twState, hstate1]
  have h3 : RegsKept (fun a => a = R.TWN_STATE ∨ a = ha R.HST_H_HIGH_CTR c) (counterRestarted s1 c)
      (hostEv (counterRestarted s1 c) R.HST_H_EVENT_KEY_ROLLED c) :=
    regsKept_hostEv (RegsKept.refl h2.ok) (not_or.2 ⟨hevent, hcounter⟩)
  have hflash : ∀ u, ((hostEv (counterRestarted s1 c) R.HST_H_EVENT_KEY_ROLLED c).tw u).flash = (s1.tw u).flash := fun u =>
    (hostEv_keeps (P := (· = .tw u .flash)) (onLive_keeps (Keeps.refl _ s1) _ fun _ t hs =>
      wf_keeps (wr_keeps hs t _ _ nofun) t _ _ nofun) _ c nofun).same (.tw u .flash) rfl
  refine ⟨(regsOk_say _).2 h3.ok, rfl, fun u => ?_, fun u => ?_, ?_, ?_⟩
  · rw [say_tw, hflash, hs1, ← keysWritten_keys s c _ u]
    cases u <;> rfl
  · rw [twState_say, twState, h3.rf (.inl rfl), h2.rf rfl, ← twState, hstate1]
  · rw [rd_say, h3.same _ _ (.inr rfl), rd_counterRestarted h1.ok (by rwa [hstate1])]
  · rw [flag, rf_say, ← flag, flag_hostEv h2.ok hlive]

theorem execKeyRoll_rolls (hs : RegsOk s) (hl : leader s = some t) (hr : flashReady s = true)
    (hf : leaveFree s t 5 (8 + h.val) = true) (y : BitVec 128) : ∃ u,
      execKeyRoll h y true s = .next u ∧ u.report = Rc.OK ∧
      u.a.flash.keys = tabSet 0 s.a.flash.keys h.val (rolledKey (ctxKey s h.val) y) ∧
      u.b.flash.keys = tabSet 0 s.b.flash.keys h.val (rolledKey (ctxKey s h.val) y) ∧ highCtr u h.val = 0 ∧
      flag u t (Machine.hf R.HST_H_EVENT_KEY_ROLLED h.val) = true ∧
      (leaveHeldFor s 5 t (8 + h.val) = false → u.sluice = s.sluice) := by
  obtain ⟨s2, hs2⟩ : ∃ s2, s2 = leaveSpent s h t (8 + h.val) := ⟨_, rfl⟩
  have hk : RegsKept CommandWord s s2 := hs2 ▸ regsKept_leaveSpent hs hf
  have hstate : ∀ u, twState s2 u = twState s u := fun u => hk.rf commandWord_twinState
  have hflash : ∀ u, (s2.tw u).flash = (s.tw u).flash := fun u => hs2 ▸ leaveSpent_flash ..
  have hkey : ctxKey s2 h = ctxKey s h := by rw [ctxKey, asker, leader_congr hstate, ← asker, hflash, ← ctxKey]
  have hlive : twState s2 t ≠ tsReset := by rw [hstate, leads_of_leader hl]; decide
  have hroll := keyRolled_keyRoll (q := rowCmd h 0x03) hk.ok ((flashReady_congr hstate).trans hr) hlive h.isLt y
  rw [show (rowCmd h 0x03).ctx = h.val from rfl, hkey] at hroll
  obtain ⟨u, hu, hans⟩ := execKeyRoll_runs (h := h) hs hl hf y true
  rw [← hs2] at hans
  have hwords := hans.words hroll.ok
  have hkeys : ∀ t', (u.tw t').flash.keys = tabSet 0 (s.tw t').flash.keys h.val (rolledKey (ctxKey s h.val) y) := fun t' => by
    rw [hans.flash, hroll.keys, hflash]
  have hasker : asker u = t := by
    rw [asker, leader_congr (s := s) fun t' => (hwords.rf (shown_twinState h)).trans ((hroll.state t').trans (hstate t')), hl,
      Option.getD_some]
  refine ⟨u, hu, hans.report.trans hroll.report, hkeys .a, hkeys .b, ?_, ?_, fun hn => ?_⟩
  · rw [highCtr, hasker, hwords.same t _ (shown_highCtr h), hroll.counter]
    rfl
  · rw [hwords.flag (shown_event h), hroll.event]
  · rw [hans.sluice, keyRoll_sluice, hs2, leaveSpent_sluice hs hf hn]

/-! UPDATE. -/

theorem execUpdate_withdraws (hs : RegsOk s) (hl : leader s = some t) (ho : groupOwner s 4 = some h.val)
    (hf : twState s t.other = tsFollowing) (hv : (s.tw t.other).flash.verified ≠ 0) : ∃ u, execUpdate h s = .next u ∧
      u.report = Rc.OK ∧ u.host.lastReply.map (fun r => (r.ctx, r.opcode, r.data)) = some (h.val, 0x34, []) ∧
      twState u t.other = tsWithdrawn ∧ rf u t.other R.TWN_STATE_CAUSE = 10 := by
  have hs1 := regsOk_started hs h
  have hother : (asker (started s h)).other = t.other := by rw [asker_started, asker_of_leader hl]
  have hop : opUpdate h.val (started s h) = (withdraw (started s h) t.other 10, .done Rc.OK []) := by
    simp only [opUpdate, hother, groupOwner_started, ho, twState_started, hf, started_flash, if_neg hv, ne_eq,
      not_true_eq_false, if_false]
  obtain ⟨u, hu, hans⟩ := runCmd_done (q := rowCmd h 0x34) (by rw [hl]; nofun) rfl hop
  have hok : RegsOk (withdraw (started s h) t.other 10) :=
    (regsKept_withdraw (K := fun _ => False) (fun _ => False.elim) (RegsKept.refl hs1) id id id id t.other 10).ok
  obtain ⟨hstate, hcause⟩ := withdraw_following hs1 ((twState_started s h _).trans hf) (by decide : 10 < 16)
  exact ⟨u, congrArg _ hu, hans.report, hans.last, ((hans.words hok).rf (shown_twinState h)).trans hstate,
    ((hans.words hok).rf (shown_twinState h)).trans hcause⟩

/-- Settles O55, each command by the lemma that says what it does in the situation described. -/
theorem flashCommandsComplete : Obligations.FlashCommandsComplete := by
  refine ⟨fun _ _ y _ hs hl hr hf => execKeyRoll_rolls hs hl hr hf y,
    fun _ _ _ _ _ hs hl hx hf => execKeyRoll_fails hs hl hx hf,
    fun _ _ hs => execKeyRollGraceEnd_forgets hs,
    fun _ _ _ _ _ _ hs hl hy hx hv ho hr hn hf => execFlashOpen_opens hs hl hy hx hv ho hr hn hf, ?_,
    fun _ _ _ _ _ _ hl ht ho hd hv hend hg => execFlashWrite_waits hl ht ho hd hv hend hg,
    fun _ _ _ _ _ hl ht ho hp _ => execFlashClose_closes hl ht ho hp,
    fun _ _ _ _ hl ht ho => execFlashAbort_ends hl ht ho, fun _ _ hs => execFlashSessionTimeout_ends hs,
    fun _ _ _ hs hl ho hf hv => execUpdate_withdraws hs hl ho hf hv⟩
  intro s h t z v d k hl ht ho hd hk hk' hv hlt hend hg
  obtain ⟨u, hu, hreport, hlast, hwords⟩ := execFlashWrite_granted (h := h) hl ht ho hd hk hk' hv hlt hend hg
  refine ⟨u, hu, hreport, hlast, fun h1 => ?_, hwords⟩
  rw [hwords, h1, wordsOfBytes_four (by omega), storedWords_one]

end Sys2Proof.Machine

/-! The sparse tables stay canonical along every step (O5). -/

namespace Sys2Proof.Machine

/-- Settles O5: the tables are among what every step keeps, and they do not hold the queue of commands. -/
theorem tablesStayCanonical : Obligations.TablesStayCanonical := by
  intro s u hs h
  have hq : TabsOk { s with pending := s.pending.tail } := (tabsOk_iff _).2 ((tabsOk_iff s).1 hs)
  exact (step_keeps h).tabs hq

end Sys2Proof.Machine

/-! The statement on the registers that the safety-monitor, Negative, stream-queue and device-time commands leave alone (O11)
is false: it lets any number stand for the port that serves a LAN. A datagram of a stream queue that leaves over the port
counts in the TX_OK word at NET_Pp's place for that number, which from port 1020 on lies in the block TIME_. -/

namespace Sys2Proof.Machine

/-- Twin B leads, with the network on and LAN A served by a port numbered 1020 that has link and whose crossing is ready; its
queue 0 goes to UDP and has a byte in the drain bank. -/
def lanAtFarPort : State :=
  let s := wf (wf State.reset .b R.TWN_STATE_STATE tsLeading) .b R.NET_CTRL_EN 1
  let s := wf (wf s .b (qf R.STQ_Q_CFG_EN 0) 1) .b (qf R.STQ_Q_CFG_SINK 0) 1
  setXing (setQueue { s with net := { lanA := some 1020, link := [1020] } } .b 0 { drain := [(0#8, false)] }) .b
    (xingKey 4 false) Xing.init

theorem regsOk_lanAtFarPort : RegsOk lanAtFarPort := fun t => by cases t <;> rfl

theorem execStreamData_next (t : Twin) (q : Fin 6) (s : State) : ∃ u, execStreamData t q s = .next u := by
  unfold execStreamData
  extract_lets
  split
  · exact ⟨_, rfl⟩
  · exact ⟨_, rfl⟩

/-- The datagram counts at the place of the port's TX_OK word. -/
theorem txOk_execStreamData_lanAtFarPort {u : State} (h : execStreamData .b 0 lanAtFarPort = .next u) :
    rd u .b (R.NET_P_TX_OK + 64 * 1020) = rd lanAtFarPort .b (R.NET_P_TX_OK + 64 * 1020) + 1#32 := by
  cases h
  decide +kernel

/-- Refutes O11: STREAM_DATA over a LAN whose port is numbered 1020 counts in a word of block 12, TIME_SEC_HI, while the
statement has it work in blocks 1, 11 and 16 alone. -/
theorem not_monitorRowsKeepOtherRegisters : ¬ Obligations.MonitorRowsKeepOtherRegisters := by
  intro h
  obtain ⟨u, hu⟩ := execStreamData_next .b 0 lanAtFarPort
  have hblock : blockOf (R.NET_P_TX_OK + 64 * 1020) = some 12 := by decide
  have hkept : rd u .b (R.NET_P_TX_OK + 64 * 1020) = rd lanAtFarPort .b (R.NET_P_TX_OK + 64 * 1020) :=
    h (.streamData .b 0) [1, 11, 16] lanAtFarPort u .b _ regsOk_lanAtFarPort rfl hu fun b hb => by
      rw [hblock] at hb
      cases hb
      decide
  rw [txOk_execStreamData_lanAtFarPort hu] at hkept
  simp at hkept

end Sys2Proof.Machine

/-! The stream queues (R417 to R422): what their operations hold, and which words they leave alone. -/

namespace Sys2Proof.Machine

variable {K : Nat → Prop} {s0 s s' : State} {t : Twin} {q : Fin 6} {a : Nat} {d : List (Byte × Bool)}

/-! What a queue holds. -/

theorem queue_congr (h : (s'.tw t).queues = (s.tw t).queues) (q : Nat) : queue s' t q = queue s t q := by
  rw [queue, h, ← queue]

theorem queue_setQueue (h : TabsOk s) (t : Twin) (q : Nat) (x : QueueSt) : queue (setQueue s t q x) t q = x := by
  rw [queue, setQueue, setTw_tw]
  exact tabGet_tabSet_same (fun _ => ({} : QueueSt)) (h.tw t).queues q x

/-- Showing a queue's level does not change it. -/
theorem queue_putQueue (h : TabsOk s) (t : Twin) (q : Nat) (x : QueueSt) : queue (putQueue s t q x) t q = x := by
  refine (queue_congr ?_ q).trans (queue_setQueue h t q x)
  simp only [putQueue]
  split <;> split <;> simp

theorem exchange_of_drain (h : (queue s t q).drain ≠ []) : exchange s t q = s := by
  simp [exchange, h]

theorem closeFill_of_drain (h : TabsOk s) (hd : (queue s t q).drain ≠ []) :
    closeFill s t q = putQueue s t q { queue s t q with closed := true } :=
  exchange_of_drain (by rwa [queue_putQueue h])

/-- A fill bank that closes on an empty drain bank takes its place, and the other bank is filled next (R417). -/
theorem queue_closeFill_of_empty (h : TabsOk s) (hd : (queue s t q).drain = []) : queue (closeFill s t q) t q =
    { queue s t q with drain := (queue s t q).fill, fill := [], fillPos := 0, closed := false } := by
  obtain ⟨x, hx⟩ : ∃ x, x = { queue s t q with closed := true } := ⟨_, rfl⟩
  obtain ⟨s1, hs1⟩ : ∃ s1, s1 = putQueue s t q x := ⟨_, rfl⟩
  have hq : queue s1 t q = x := hs1 ▸ queue_putQueue h t q x
  have hok : TabsOk s1 := hs1 ▸ (putQueue_keeps (P := fun _ => False) (Keeps.refl _ s) t q x id id).tabs h
  have hturn : ∀ v, TabsOk (wf s1 t (qf R.STQ_Q_STATUS_DRAIN q) v) := fun v =>
    (wf_keeps (P := fun _ => False) (Keeps.refl _ s1) t _ v id).tabs hok
  have hends : (x.closed && x.drain.isEmpty) = true := by simp [hx, hd]
  rw [closeFill, ← hx, ← hs1, exchange, hq]
  simp only [hends, if_true]
  rw [queue_putQueue (hturn _), hx]

/-! The words that show a queue. -/

/-- The words of a queue that show its level, its events and what it counts with the overflow flags (R422); the sequence
number is not among them. -/
abbrev ShownQueueWord (q : Fin 6) (a : Nat) : Prop :=
  a = (qf R.STQ_Q_STATUS_LEVEL q).addr ∨ a = (qf R.STQ_Q_EVENT_HI q).addr ∨
    (qa R.STQ_Q_WORDS_OUT q ≤ a ∧ a < qa R.STQ_Q_DGRAM q)

theorem RegsKept.cntBy (h : RegsKept K s0 s) (ha : ¬ K a) (ho : ∀ w i, counterOvf a = some (w, i) → ¬ K w) (k : Nat) :
    RegsKept K s0 (cntBy s t a k) := by
  unfold Machine.cntBy setOvf
  split
  · exact h.wr ha _
  · split
    next w i hw => exact (h.wr ha _).wr (ho w i hw) _
    next => exact h.wr ha _

/-- The counters of a queue. -/
def queueCounters : List Nat := [R.STQ_Q_WORDS_OUT, R.STQ_Q_UNITS_DROPPED, R.STQ_Q_POISON]

theorem shown_queueCounters : ∀ q : Fin 6, ∀ a ∈ queueCounters, ShownQueueWord q (qa a q) ∧
    ((counterOvf (qa a q)).all fun p => decide (ShownQueueWord q p.1)) = true := by decide +kernel

section
variable (hK : ∀ a, ShownQueueWord q a → ¬ K a)
include hK

theorem regsKept_queueCount (h : RegsKept K s0 s) (t : Twin) (ha : a ∈ queueCounters) (k : Nat) :
    RegsKept K s0 (cntBy s t (qa a q) k) := by
  obtain ⟨hword, hovf⟩ := shown_queueCounters q a ha
  exact h.cntBy (hK _ hword) (fun w i hw => hK w (by simpa [hw] using hovf)) k

theorem regsKept_putQueue (h : RegsKept K s0 s) (t : Twin) (x : QueueSt) : RegsKept K s0 (putQueue s t q x) := by
  have hstatus : ¬ K (qf R.STQ_Q_STATUS_LEVEL q).addr := hK _ (.inl rfl)
  have hevent : ¬ K (qf R.STQ_Q_EVENT_HI q).addr := hK _ (.inr (.inl rfl))
  have hset := h.keep (setQueue_keeps (Keeps.refl _ s) t q x id)
  unfold putQueue
  extract_lets old new hi lo s1 s2 s3 s4
  have h3 : RegsKept K s0 s3 := (((hset.wf (f := qf R.STQ_Q_STATUS_LEVEL q) hstatus _).wf (f := qf R.STQ_Q_STATUS_CLOSED_WAIT q)
    hstatus _).wf (f := qf R.STQ_Q_STATUS_HI_LIVE q) hstatus _).wf (f := qf R.STQ_Q_STATUS_LO_LIVE q) hstatus _
  have h4 : RegsKept K s0 s4 := (h3.ev (f := qf R.STQ_Q_EVENT_HI q) hevent).ite h3
  exact (h4.ev (f := qf R.STQ_Q_EVENT_LO q) hevent).ite h4

theorem regsKept_exchange (h : RegsKept K s0 s) (t : Twin) : RegsKept K s0 (exchange s t q) :=
  RegsKept.ite (regsKept_putQueue hK (h.wf (f := qf R.STQ_Q_STATUS_DRAIN q) (hK _ (.inl rfl)) _) t _) h

theorem regsKept_closeFill (h : RegsKept K s0 s) (t : Twin) : RegsKept K s0 (closeFill s t q) :=
  regsKept_exchange hK (regsKept_putQueue hK h t _) t

variable (hsv : ∀ s, RegsKept K s0 s → RegsKept K s0 (svTake s t q))
include hsv

theorem regsKept_queuePut (h : RegsKept K s0 s) (p : List (Byte × Bool)) : RegsKept K s0 (queuePut s t q p) := by
  have hdropped : R.STQ_Q_UNITS_DROPPED ∈ queueCounters := by decide
  unfold queuePut
  extract_lets size add x s1 y s2
  have hadd : ∀ s, RegsKept K s0 s → RegsKept K s0 (add s) := fun s hs => hsv _ (regsKept_putQueue hK hs t _)
  have h1 : RegsKept K s0 s1 := h.ite (regsKept_closeFill hK h t)
  have h2 : RegsKept K s0 s2 := regsKept_queueCount hK (h1.keep (setQueue_keeps (Keeps.refl _ s1) t q _ id)) t hdropped 1
  exact h.ite ((hadd _ h).ite ((hadd _ h1).ite (h2.ev (f := qf R.STQ_Q_EVENT_DROP q) (hK _ (.inr (.inl rfl))))))

theorem regsKept_dumpRows (h : RegsKept K s0 s) (l : List (List Byte)) : RegsKept K s0 (dumpRows t q l s) := by
  have hset : ∀ {s x}, RegsKept K s0 s → RegsKept K s0 (setQueue s t q x) := fun hs =>
    hs.keep (setQueue_keeps (Keeps.refl _ _) t q _ id)
  induction l generalizing s with
  | nil => exact hset h
  | cons r l ih =>
    rw [dumpRows]
    exact (ih (regsKept_queuePut hK hsv h _)).ite (hset (h.ite (regsKept_closeFill hK h t)))

theorem regsKept_dumpGo (h : RegsKept K s0 s) : RegsKept K s0 (dumpGo s t q) := h.ite (regsKept_dumpRows hK hsv h _)

end

/-! While the drain bank holds words, units that are written leave it as it is. -/

theorem svTake_of_sink (h : rf s t (qf R.STQ_Q_CFG_SINK q) ≠ 2) : svTake s t q = s := if_pos h

/-- The words of a queue that hold its settings and its sequence number. -/
abbrev SetQueueWord (q : Fin 6) (a : Nat) : Prop := a = (qf R.STQ_Q_CFG_EN q).addr ∨ a = qa R.STQ_Q_SEQ q

theorem not_setQueueWord (h : ShownQueueWord q a) : ¬ SetQueueWord q a := by
  have hcfg : (qf R.STQ_Q_CFG_EN q).addr = 0x1600100 + 64 * q := rfl
  have hstatus : (qf R.STQ_Q_STATUS_LEVEL q).addr = 0x1600114 + 64 * q := rfl
  have hevent : (qf R.STQ_Q_EVENT_HI q).addr = 0x1600118 + 64 * q := rfl
  simp only [ShownQueueWord, SetQueueWord, hcfg, hstatus, hevent, qa, R.STQ_Q_SEQ, R.STQ_Q_WORDS_OUT, R.STQ_Q_DGRAM] at h ⊢
  omega

/-- From `s` an enabled queue that no sampled-value publisher drains has kept its settings and its sequence number, and its
drain bank holds `d`. -/
structure Draining (t : Twin) (q : Fin 6) (d : List (Byte × Bool)) (s s' : State) : Prop where
  regs : RegsKept (SetQueueWord q) s s'
  tabs : TabsOk s'
  drain : (queue s' t q).drain = d

theorem Draining.of_putQueue (h : Draining t q d s0 s) {x : QueueSt} (hx : x.drain = d) :
    Draining t q d s0 (putQueue s t q x) :=
  ⟨regsKept_putQueue (fun _ => not_setQueueWord) h.regs t x,
    (putQueue_keeps (P := fun _ => False) (Keeps.refl _ s) t q x id id).tabs h.tabs, by rw [queue_putQueue h.tabs, hx]⟩

theorem Draining.of_setQueue (h : Draining t q d s0 s) {x : QueueSt} (hx : x.drain = d) :
    Draining t q d s0 (setQueue s t q x) :=
  ⟨h.regs.keep (setQueue_keeps (Keeps.refl _ s) t q x id),
    (setQueue_keeps (P := fun _ => False) (Keeps.refl _ s) t q x id).tabs h.tabs, by rw [queue_setQueue h.tabs, hx]⟩

section
variable (hen : rf s0 t (qf R.STQ_Q_CFG_EN q) = 1) (hsink : rf s0 t (qf R.STQ_Q_CFG_SINK q) ≠ 2) (hd : d ≠ [])

include hsink in
theorem svTake_of_kept (h : RegsKept (SetQueueWord q) s0 s) : svTake s t q = s :=
  svTake_of_sink (by rwa [h.rf (f := qf R.STQ_Q_CFG_SINK q) (.inl rfl)])

include hen hsink hd in
/-- A unit for which there is room goes into the fill bank. -/
theorem Draining.of_queueUnit (h : Draining t q d s0 s) {u : List Byte} (hroom : hasRoom s t q u = true) :
    Draining t q d s0 (queueUnit s t q u) := by
  have hen' : rf s t (qf R.STQ_Q_CFG_EN q) = 1 := (h.regs.rf (f := qf R.STQ_Q_CFG_EN q) (.inl rfl)).trans hen
  have hfits : (!(queue s t q).closed && decide ((queue s t q).fillPos + (padUnit u).length ≤ bankSize s t q)) = true := by
    simpa [hasRoom, h.drain, hd, hen'] using hroom
  have hput := h.of_putQueue (x := { queue s t q with fill := (queue s t q).fill ++ padUnit u
                                                      fillPos := (queue s t q).fillPos + (padUnit u).length }) h.drain
  rw [queueUnit, queuePut, if_neg (by rw [hen']; decide)]
  simp only [hfits, if_true]
  rw [svTake_of_kept hsink hput.regs]
  exact hput

include hen hsink hd in
theorem Draining.of_dumpRows (h : Draining t q d s0 s) (l : List (List Byte)) : Draining t q d s0 (dumpRows t q l s) := by
  induction l generalizing s with
  | nil => exact h.of_setQueue h.drain
  | cons u l ih =>
    rw [dumpRows]
    split
    next hroom => exact ih (h.of_queueUnit hen hsink hd hroom)
    next =>
      have hclose : Draining t q d s0 (if (queue s t q).closed then s else closeFill s t q) := by
        split
        · exact h
        · rw [closeFill_of_drain h.tabs (by rw [h.drain]; exact hd)]
          exact h.of_putQueue h.drain
      exact hclose.of_setQueue hclose.drain

include hen hsink hd in
theorem Draining.of_dumpGo (h : Draining t q d s0 s) : Draining t q d s0 (dumpGo s t q) := by
  unfold dumpGo
  split
  · exact h
  · exact h.of_dumpRows hen hsink hd _

end

/-! Words read out of a bank (R418). -/

theorem length_readUnit {w : List (Byte × Bool)} (hw : w.length ≤ 16) (last : Bool) : (readUnit w last).1.length = 17 := by
  simp [readUnit]
  omega

/-- Each word of up to 16 bytes is read as 17. -/
theorem length_takeWords (n : Nat) (closed : Bool) (l : List (Byte × Bool)) :
    (takeWords n closed l).1.length = 17 * min n ((l.length + 15) / 16) := by
  induction n generalizing l with
  | zero => simp [takeWords]
  | succ n ih =>
    cases l with
    | nil => simp [takeWords]
    | cons b l =>
      have htake : ((b :: l).take 16).length ≤ 16 := List.length_take_le ..
      simp only [takeWords, List.isEmpty_cons, Bool.false_eq_true, if_false, List.length_append, length_readUnit htake, ih,
        List.length_drop, List.length_cons]
      omega

theorem takeWords_rest (n : Nat) (closed : Bool) (l : List (Byte × Bool)) : (takeWords n closed l).2.2 = l.drop (16 * n) := by
  induction n generalizing l with
  | zero => rfl
  | succ n ih =>
    cases l with
    | nil => simp [takeWords]
    | cons b l =>
      simp only [takeWords, List.isEmpty_cons, Bool.false_eq_true, if_false, ih, List.drop_drop]
      congr 1
      omega

end Sys2Proof.Machine

/-! STREAM_READ, STREAM_FLUSH and NEG_DUMP for the owner of TRACE (O56; R201, R414, R417, R421). -/

namespace Sys2Proof.Machine

variable {K : Nat → Prop} {s0 s : State} {t : Twin} {h : Fin 4} {q : Fin 6} {e : Fin 4} {y x : Byte} {n : Nat}

/-! The judgement of the command, and the state in which it takes effect. -/

theorem twin_of_index (t : Twin) : (if t.index = 0 then Twin.a else .b) = t := by cases t <;> rfl

theorem index_le_one (t : Twin) : t.index ≤ 1 := by cases t <;> decide

theorem traceCode_started {m : Nat} (ho : groupOwner s 3 = some h.val) (hn : n ≤ m) (ha : absent s t = false) :
    traceCode (started s h) h t.index n m t = Rc.OK := by
  have habsent : absent (started s h) t = false := by rwa [absent, twState_started, ← absent]
  simp [traceCode, groupOwner_started, ho, habsent, index_le_one t, hn, firstCode]

theorem queue_started (s : State) (c : Nat) (t : Twin) (q : Nat) : queue (started s c) t q = queue s t q :=
  queue_congr ((started_keeps s c).same (.tw t .queues) id) q

theorem tabsOk_started (hs : TabsOk s) (c : Nat) : TabsOk (started s c) := (started_keeps s c).tabs hs

theorem startWord_queue : ∀ q : Fin 6, StartWord (qf R.STQ_Q_CFG_EN q).addr ∧ StartWord (qa R.STQ_Q_SEQ q) := by decide

theorem Answered.queue {c : Queued} {code : Nat} {data : List Byte} {u : State} (hans : Answered c code data s u) (t : Twin)
    (q : Nat) : queue u t q = queue s t q :=
  queue_congr (hans.keeps.same (.tw t .queues) ⟨id, nofun⟩) q

/-! STREAM_READ. -/

/-- The words that a read of up to `n` takes out of the drain bank. -/
def readCount (s : State) (t : Twin) (q n : Nat) : Nat := min n (((queue s t q).drain.length + 15) / 16)

/-- The sequence number of a queue counts on by `k`. -/
def seqCounted (s : State) (t : Twin) (q k : Nat) : State :=
  wr s t (qa R.STQ_Q_SEQ q) (rd s t (qa R.STQ_Q_SEQ q) + BitVec.ofNat 32 k)

theorem length_readWords (s : State) (t : Twin) (q n : Nat) :
    (takeWords n true (queue s t q).drain).1.length / 17 = readCount s t q n := by
  rw [length_takeWords, Nat.mul_div_cancel_left _ (by decide), ← readCount]

/-- A stream record has twelve bytes before its words, from the fifth on its sequence number (R421). -/
theorem deliverWords_record (s : State) (t : Twin) (q n : Nat) :
    (deliverWords s t q n false).1.length = 12 + 17 * readCount s t q n ∧
      ((deliverWords s t q n false).1.drop 4).take 4 = beBytes 4 (rd s t (qa R.STQ_Q_SEQ q)).toNat := by
  have hwords : (takeWords n true (queue s t q).drain).1.length = 17 * readCount s t q n := length_takeWords ..
  constructor
  · simp [deliverWords, beBytes, hwords]
    omega
  · simp [deliverWords, beBytes]

/-- The words read are out of the drain bank before the banks may exchange. -/
theorem deliverWords_draining (hs : RegsOk s) (ht : TabsOk s) (q : Fin 6) (n : Nat) : ∃ s3,
    (deliverWords s t q n false).2 = dumpGo (exchange s3 t q) t q ∧
      Draining t q ((queue s t q).drain.drop (16 * n)) (seqCounted s t q (readCount s t q n)) s3 := by
  unfold deliverWords
  extract_lets x src r k seq y s1 s2 s3 flags record
  refine ⟨s3, rfl, ?_⟩
  have hshown : ∀ a, ShownQueueWord q a → ¬ SetQueueWord q a := fun _ => not_setQueueWord
  have hk : k = readCount s t q n := length_readWords s t q n
  have h0 : RegsKept (SetQueueWord q) (seqCounted s t q k) (seqCounted s t q k) := RegsKept.refl (hs.wr _ _)
  have h1 : RegsKept (SetQueueWord q) (seqCounted s t q k) s1 := regsKept_queueCount hshown h0 t (by decide) k
  have h2 : RegsKept (SetQueueWord q) (seqCounted s t q k) s2 :=
    h1.ite ((regsKept_queueCount hshown h1 t (by decide) r.2.1).ev (f := qf R.STQ_Q_EVENT_POISON q)
      (hshown _ (.inr (.inl rfl))))
  have hk1 : Keeps (fun _ => False) s s1 := cntBy_keeps (wr_keeps (Keeps.refl _ s) t _ _ id) t _ k id
  have hk2 : Keeps (fun _ => False) s s2 := Keeps.dite hk1 (ev_keeps (cntBy_keeps hk1 t _ r.2.1 id) t _ id)
  have hrest : y.drain = (queue s t q).drain.drop (16 * n) := takeWords_rest ..
  rw [← hk]
  exact ⟨regsKept_putQueue hshown h2 t y, (putQueue_keeps hk2 t q y id id).tabs ht, by
    rw [queue_putQueue (hk2.tabs ht), hrest]⟩

/-- What STREAM_READ leaves of a queue that no sampled-value publisher drains. -/
theorem deliverWords_reads (hs : RegsOk s) (ht : TabsOk s) (hen : rf s t (qf R.STQ_Q_CFG_EN q) = 1)
    (hsink : rf s t (qf R.STQ_Q_CFG_SINK q) ≠ 2) (n : Nat) :
    RegsOk (deliverWords s t q n false).2 ∧
      rd (deliverWords s t q n false).2 t (qa R.STQ_Q_SEQ q) =
        rd s t (qa R.STQ_Q_SEQ q) + BitVec.ofNat 32 (readCount s t q n) ∧
      (16 * n < (queue s t q).drain.length →
        (queue (deliverWords s t q n false).2 t q).drain = (queue s t q).drain.drop (16 * n)) := by
  obtain ⟨s3, hstate, hdrain⟩ := deliverWords_draining (t := t) hs ht q n
  obtain ⟨s1, hs1⟩ : ∃ s1, s1 = seqCounted s t q (readCount s t q n) := ⟨_, rfl⟩
  rw [← hs1] at hdrain
  have hcfg : ∀ f : Fld, (qf f q).addr = (qf R.STQ_Q_CFG_EN q).addr → rf s1 t (qf f q) = rf s t (qf f q) := fun f hf => by
    have hne : (qf f q).addr ≠ qa R.STQ_Q_SEQ q := by
      rw [hf]
      simp [qf, fo, qa, R.STQ_Q_CFG_EN, R.STQ_Q_SEQ]
    rw [hs1, seqCounted, rf, rf, rd_wr_ne hs hne]
  have hen1 := (hcfg R.STQ_Q_CFG_EN rfl).trans hen
  have hsink1 : rf s1 t (qf R.STQ_Q_CFG_SINK q) ≠ 2 := by rwa [hcfg R.STQ_Q_CFG_SINK rfl]
  have hshown : ∀ a, ShownQueueWord q a → ¬ SetQueueWord q a := fun _ => not_setQueueWord
  have hkept : RegsKept (SetQueueWord q) s1 (deliverWords s t q n false).2 := by
    rw [hstate]
    exact regsKept_dumpGo hshown (fun s hs => by rwa [svTake_of_kept hsink1 hs]) (regsKept_exchange hshown hdrain.regs t)
  refine ⟨hkept.ok, ?_, fun hlong => ?_⟩
  · rw [hkept.same t _ (.inr rfl), hs1, seqCounted, rd_wr_same hs]
  · have hne : (queue s t q).drain.drop (16 * n) ≠ [] := by simpa using hlong
    rw [hstate, exchange_of_drain (by rwa [hdrain.drain])]
    exact (hdrain.of_dumpGo hen1 hsink1 hne).drain

theorem shown_queueWord : ∀ (h : Fin 4) (q : Fin 6), ¬ ShownWord h (qa R.STQ_Q_SEQ q) := by decide

theorem execStreamRead_reads {n : BitVec 16} (hs : RegsOk s) (ht : TabsOk s) (hl : leader s ≠ none)
    (ho : groupOwner s 3 = some h.val) (hy : y.toNat = t.index) (hx : x.toNat = q.val) (hn : 0 < n.toNat)
    (hn' : n.toNat ≤ 80) (ha : absent s t = false) (hen : rf s t (qf R.STQ_Q_CFG_EN q) = 1)
    (hsink : rf s t (qf R.STQ_Q_CFG_SINK q) = 0) : ∃ u, execStreamRead h y x n s = .next u ∧ u.report = Rc.OK ∧
      u.host.lastReply.map (fun r => (r.ctx, r.opcode, r.data.length, (r.data.drop 4).take 4)) =
        some (h.val, 0x50, 12 + 17 * readCount s t q n.toNat, beBytes 4 (rd s t (qa R.STQ_Q_SEQ q)).toNat) ∧
      rd u t (qa R.STQ_Q_SEQ q) = rd s t (qa R.STQ_Q_SEQ q) + BitVec.ofNat 32 (readCount s t q n.toNat) ∧
      (16 * n.toNat < (queue s t q).drain.length →
        (queue u t q).drain = (queue s t q).drain.drop (16 * n.toNat)) := by
  obtain ⟨hcfg, hseq⟩ := startWord_queue q
  obtain ⟨s1, hs1⟩ : ∃ s1, s1 = started s h := ⟨_, rfl⟩
  have hen1 : rf s1 t (qf R.STQ_Q_CFG_EN q) = 1 := by rwa [hs1, rf_started h (f := qf R.STQ_Q_CFG_EN q) hcfg]
  have hsink1 : rf s1 t (qf R.STQ_Q_CFG_SINK q) = 0 := by rwa [hs1, rf_started h (f := qf R.STQ_Q_CFG_SINK q) hcfg]
  have hqueue : queue s1 t q = queue s t q := hs1 ▸ queue_started s h t q
  have hcount : readCount s1 t q n.toNat = readCount s t q n.toNat := by rw [readCount, hqueue, ← readCount]
  have hseq1 : rd s1 t (qa R.STQ_Q_SEQ q) = rd s t (qa R.STQ_Q_SEQ q) := hs1 ▸ rd_started h hseq
  have hop : opStreamRead h.val y.toNat x.toNat n.toNat s1 =
      ((deliverWords s1 t q n.toNat false).2, .done Rc.OK (deliverWords s1 t q n.toNat false).1) := by
    have hcode : traceCode s1 h t.index q 5 t = Rc.OK := hs1 ▸ traceCode_started ho (by omega) ha
    rw [opStreamRead, hy, hx, twin_of_index, hcode]
    simp only [hen1, hsink1, show ¬(n.toNat = 0 ∨ 80 < n.toNat) by omega, if_false, ne_eq, not_true_eq_false, one_ne_zero,
      or_self]
  obtain ⟨u, hu, hans⟩ := runCmd_done (q := rowCmd h 0x50) hl rfl (hs1 ▸ hop)
  rw [← hs1] at hans
  obtain ⟨hlength, hfrom⟩ := deliverWords_record s1 t q n.toNat
  obtain ⟨hok, hcounted, hdrain⟩ := deliverWords_reads (hs1 ▸ regsOk_started hs h) (hs1 ▸ tabsOk_started ht h) hen1
    (by rw [hsink1]; decide) n.toNat
  rw [hcount] at hlength hcounted
  rw [hseq1] at hfrom hcounted
  rw [hqueue] at hdrain
  refine ⟨u, congrArg _ hu, hans.report, ?_, ?_, fun hlong => ?_⟩
  · have hlast := congrArg (Option.map fun r : Nat × Nat × List Byte => (r.1, r.2.1, r.2.2.length, (r.2.2.drop 4).take 4))
      hans.last
    rw [Option.map_map] at hlast
    simpa [Function.comp_def, hlength, hfrom, rowCmd] using hlast
  · rw [(hans.words hok).same t _ (shown_queueWord h q), hcounted]
  · rw [hans.queue, hdrain hlong]

/-! STREAM_FLUSH. -/

theorem execStreamFlush_closes (hl : leader s ≠ none) (ho : groupOwner s 3 = some h.val)
    (hy : y.toNat = t.index) (hx : x.toNat = q.val) (ha : absent s t = false) : ∃ u,
      execStreamFlush h y x s = .next u ∧ u.report = Rc.OK ∧
      u.host.lastReply.map (fun r => (r.ctx, r.opcode, r.data)) = some (h.val, 0x51, []) ∧
      queue u t q = queue (if (queue s t q).fill.isEmpty then started s h else closeFill (started s h) t q) t q := by
  have hop : opStreamFlush h.val y.toNat x.toNat (started s h) =
      (if (queue s t q).fill.isEmpty then started s h else closeFill (started s h) t q, .done Rc.OK []) := by
    have hcode : traceCode (started s h) h t.index q 5 t = Rc.OK := traceCode_started ho (by omega) ha
    rw [opStreamFlush, hy, hx, twin_of_index, hcode]
    simp only [queue_started, ne_eq, not_true_eq_false, if_false]
  obtain ⟨u, hu, hans⟩ := runCmd_done (q := rowCmd h 0x51) hl rfl hop
  exact ⟨u, congrArg _ hu, hans.report, hans.last, hans.queue t q⟩

/-! NEG_DUMP. -/

theorem regsKept_svTake (hK : ∀ a, ShownQueueWord q a → ¬ K a) (hseq : ¬ K (qa R.STQ_Q_SEQ q)) (h : RegsKept K s0 s)
    (t : Twin) : RegsKept K s0 (svTake s t q) := by
  unfold svTake
  extract_lets x k s1 bad s2
  have h1 : RegsKept K s0 s1 := h.wr hseq _
  have h2 : RegsKept K s0 s2 := h1.ite ((regsKept_queueCount hK h1 t (by decide) bad).ev
    (f := qf R.STQ_Q_EVENT_POISON q) (hK _ (.inr (.inl rfl))))
  exact h.ite (regsKept_putQueue hK (regsKept_queueCount hK h2 t (by decide) k) t _)

/-- A granted dump of a FROZEN Exposure works on the stream queues' words. -/
theorem regsKept_dumpRun (hs : RegsOk s) (hf : expSt s t e = 4) : RegsKept (· < 0x1600000) s (dumpRun s t e) := by
  have hK : ∀ a, ShownQueueWord 4 a → ¬ a < 0x1600000 := fun a ha => by
    simp only [ShownQueueWord, qf, fo, qa, R.STQ_Q_STATUS_LEVEL, R.STQ_Q_EVENT_HI, R.STQ_Q_WORDS_OUT] at ha
    omega
  rw [dumpRun, if_neg (not_not_intro hf)]
  exact regsKept_dumpGo (q := 4) hK (fun s hs => regsKept_svTake hK (by decide) hs t)
    ((RegsKept.refl hs).keep (setQueue_keeps (Keeps.refl _ s) t 4 _ id))

theorem dumpRun_sluice (hf : expSt s t e = 4) : (dumpRun s t e).sluice = s.sluice := by
  rw [dumpRun, if_neg (not_not_intro hf)]
  exact (dumpGo_keeps (P := (· = .sluice)) (setQueue_keeps (Keeps.refl _ s) t 4 _ nofun) t 4 nofun nofun).same .sluice rfl

/-- A word of an Exposure, which neither the start of a command nor its answer, leave or a stream queue writes. -/
theorem exposureWords : ∀ e : Fin 4, ∀ a ∈ [(ef R.NEG_EXP_STATUS_STATE e).addr, ea R.NEG_EXP_ROWS e],
    StartWord a ∧ 0x200000 ≤ a ∧ a < 0x1600000 ∧ ∀ h : Fin 4, ¬ ShownWord h a := by decide

theorem execNegDump_holds (hs : RegsOk s) (hl : leader s ≠ none) (ho : groupOwner s 3 = some h.val)
    (hy : y.toNat = t.index) (hx : x.toNat = e.val) (ha : absent s t = false) (hf : expSt s t e = 4)
    (hfree : leaveFree s t 7 e = true) : ∃ u, execNegDump h y x s = .next u ∧ u.report = Rc.OK ∧
      u.host.lastReply.map (fun r => (r.ctx, r.opcode, r.data)) =
        some (h.val, 0x52, beBytes 4 (rd s t (ea R.NEG_EXP_ROWS e)).toNat) ∧
      leaveHeldFor u 7 t e = true ∧ rd u t (ea R.NEG_EXP_ROWS e) = rd s t (ea R.NEG_EXP_ROWS e) := by
  obtain ⟨hstStart, hstLeave, -, -⟩ := exposureWords e _ List.mem_cons_self
  obtain ⟨hrowsStart, hrowsLeave, hrowsQueue, hrowsShown⟩ := exposureWords e (ea R.NEG_EXP_ROWS e) (by simp)
  have hok := regsOk_started hs h
  have hfree1 : leaveFree (started s h) t 7 e = true := by rwa [leaveFree_started]
  obtain ⟨hp, -, hfits⟩ := leaveFree_iff.1 hfree1
  obtain ⟨s1, hs1⟩ : ∃ s1, s1 = leaveAsk (started s h) 7 t true e := ⟨_, rfl⟩
  have hkept : ArrayKept (started s h) s1 :=
    hs1 ▸ (ArrayKept.refl hok).leaveAsk 7 t true e hp (Nat.le_of_add_left_le hfits)
  have hheld : leaveHeldFor s1 7 t e = true := hs1 ▸ leaveHeldFor_granted hok hfree1
  have hreport : s1.report = Rc.OK := hkept.report.trans (started_report s h)
  have hst : expSt (started s h) t e = 4 := by rwa [expSt, rf_started h hstStart, ← expSt]
  have hst1 : expSt s1 t e = 4 := by rwa [expSt, hkept.words.rf hstLeave, ← expSt]
  have hrows : rd (started s h) t (ea R.NEG_EXP_ROWS e) = rd s t (ea R.NEG_EXP_ROWS e) := rd_started h hrowsStart
  have hop : opNegDump h.val y.toNat x.toNat (started s h) =
      (dumpRun s1 t e, .done Rc.OK (beBytes 4 (rd s t (ea R.NEG_EXP_ROWS e)).toNat)) := by
    have hcode : traceCode (started s h) h t.index e 3 t = Rc.OK := traceCode_started ho (by omega) ha
    rw [opNegDump, hy, hx, twin_of_index, hcode]
    simp only [hst, ← hs1, hreport, hheld, hrows, ne_eq, not_true_eq_false, if_false, if_true]
  obtain ⟨u, hu, hans⟩ := runCmd_done (q := rowCmd h 0x52) hl rfl hop
  have hrun := regsKept_dumpRun hkept.words.ok hst1
  refine ⟨u, congrArg _ hu, hans.report, hans.last, ?_, ?_⟩
  · rwa [leaveHeldFor, hans.sluice, dumpRun_sluice hst1, ← leaveHeldFor]
  · rw [(hans.words hrun.ok).same t _ (hrowsShown h), hrun.same t _ hrowsQueue, hkept.words.same t _ hrowsLeave, hrows]

/-- Settles O56, each command by the lemma that says what it does in the situation described. -/
theorem traceCommandsComplete : Obligations.TraceCommandsComplete := by
  refine ⟨fun s h t y x n q hs ht hl ho hy hx hn hn' ha hen hsink =>
      execStreamRead_reads hs ht hl ho hy hx hn hn' ha hen hsink, ?_,
    fun s h t y x e hs hl ho hy hx ha hf hfree => execNegDump_holds hs hl ho hy hx ha hf hfree⟩
  intro s h t y x q hs ht hl ho hy hx ha
  obtain ⟨u, hu, hreport, hlast, hqueue⟩ := execStreamFlush_closes (h := h) hl ho hy hx ha
  refine ⟨u, hu, hreport, hlast, fun hfill => ?_, fun ⟨hfill, hdrain⟩ => ?_, fun ⟨hfill, hdrain⟩ => ?_⟩
  · rw [hqueue, hfill, if_pos List.isEmpty_nil, queue_started]
  · rw [hqueue, if_neg (by simpa using hfill), closeFill_of_drain (tabsOk_started ht h) (by rwa [queue_started]),
      queue_putQueue (tabsOk_started ht h)]
  · rw [hqueue, if_neg (by simpa using hfill), queue_closeFill_of_empty (tabsOk_started ht h) (by rwa [queue_started]),
      queue_started]
    exact ⟨rfl, rfl⟩

end Sys2Proof.Machine

/-! Exposures: what a command makes of them in each twin that it addresses (R196 to R200). -/

namespace Sys2Proof.Machine

variable {K : Nat → Prop} {s0 s s' : State} {t : Twin} {e : Fin 4} {tg : Target} {a : Nat}

/-! The hidden state of an Exposure. -/

theorem expX_congr (h : (s'.tw t).exps = (s.tw t).exps) (e : Nat) : expX s' t e = expX s t e := by rw [expX, h, ← expX]

theorem expX_modExp (h : TabsOk s) (t : Twin) (e : Nat) (f : ExpX → ExpX) : expX (modExp s t e f) t e = f (expX s t e) := by
  rw [expX, modExp, setTw_tw]
  exact tabGet_tabSet_same (fun _ => ({} : ExpX)) (h.tw t).exps e _

theorem expX_modExp_ne (h : TabsOk s) (t : Twin) {e i : Nat} (hi : i ≠ e) (f : ExpX → ExpX) :
    expX (modExp s t e f) t i = expX s t i := by
  rw [expX, modExp, setTw_tw]
  exact tabGet_tabSet_ne (fun _ => ({} : ExpX)) (h.tw t).exps hi _

theorem rd_modExp (s : State) (t u : Twin) (e a : Nat) (f : ExpX → ExpX) : rd (modExp s t e f) u a = rd s u a := by
  cases t <;> cases u <;> rfl

theorem regsOk_modExp (h : RegsOk s) (t : Twin) (e : Nat) (f : ExpX → ExpX) : RegsOk (modExp s t e f) :=
  (modExp_keeps (P := fun _ => False) (Keeps.refl _ s) t e f id).regs h

theorem tabsOk_modExp (h : TabsOk s) (t : Twin) (e : Nat) (f : ExpX → ExpX) : TabsOk (modExp s t e f) :=
  (modExp_keeps (P := fun _ => False) (Keeps.refl _ s) t e f id).tabs h

/-- A row's size depends on the twin's registers alone. -/
theorem rowSize_congr (h : ∀ a, 0x801000 ≤ a → rd s' t a = rd s t a) (e : Nat) : rowSize s' t e = rowSize s t e := by
  have hprobe : ∀ (f : Fld) (i : Nat), f.addr = R.NEG_PROBE → rf s' t (fo f (4 * i)) = rf s t (fo f (4 * i)) := fun f i hf => by
    rw [rf, rf, h _ (by simp [fo, hf, R.NEG_PROBE])]
  simp only [rowSize, expProbes, flag, hprobe R.NEG_PROBE_EN _ rfl, hprobe R.NEG_PROBE_EXP _ rfl]

/-! What is done in the twins that a write addresses, seen from one of them. -/

/-- A part of a twin. -/
def IsOf (t : Twin) (p : Part) : Prop := ∃ f, p = .tw t f

theorem not_isOf_other (t : Twin) (f : TwinField) : ¬ IsOf t.other (.tw t f) := by
  simp [IsOf]

/-- Where what is done in one twin leaves the other alone, a twin addressed finds itself as it was. -/
theorem onTarget_at {f : State → Twin → State} (hf : ∀ s0 s v, Keeps (IsOf v.other) s0 s → Keeps (IsOf v.other) s0 (f s v))
    (hs : RegsOk s) (ht : TabsOk s) (htg : tg = .both ∨ tg = .one t) (c : Nat) :
    ∃ s1, RegsOk s1 ∧ TabsOk s1 ∧ (∀ g : TwinField, g.same (s.tw t) (s1.tw t)) ∧
      ∀ g : TwinField, g.same ((f s1 t).tw t) ((onTarget tg f (say s c)).tw t) := by
  have hown : ∀ x : TwinSt, ∀ g : TwinField, g.same x x := fun x g => g.same_refl x
  have hsay : Keeps (IsOf t) s (say s c) := say_keeps (Keeps.refl _ s) c
  have h1 := hsay.regs hs
  have h2 := hsay.tabs ht
  have hfields : ∀ g : TwinField, g.same (s.tw t) ((say s c).tw t) := fun g => hsay.same (.tw t g) ⟨g, rfl⟩
  obtain rfl | rfl := htg
  · cases t with
    | a => exact ⟨say s c, h1, h2, hfields, fun g => (hf _ _ .b (Keeps.refl _ (f (say s c) .a))).same (.tw .a g) ⟨g, rfl⟩⟩
    | b =>
      have hf' := hf s (say s c) .a hsay
      exact ⟨f (say s c) .a, hf'.regs hs, hf'.tabs ht, fun g => hf'.same (.tw .b g) ⟨g, rfl⟩, hown _⟩
  · exact ⟨say s c, h1, h2, hfields, hown _⟩

theorem onTarget_report {f : State → Twin → State} (hf : ∀ s v, (f s v).report = s.report) (tg : Target) (s : State) :
    (onTarget tg f s).report = s.report := by
  cases tg with
  | one t => exact hf s t
  | both => exact onBoth_report hf s

theorem rd_of_regs (h : (s'.tw t).regs = (s.tw t).regs) (a : Nat) : rd s' t a = rd s t a := by rw [rd, h, ← rd]

/-! The words of an Exposure. -/

theorem modExp_report (s : State) (t : Twin) (e : Nat) (f : ExpX → ExpX) : (modExp s t e f).report = s.report :=
  setTw_report ..

theorem showRate_report (s : State) (t : Twin) : (showRate s t).report = s.report := wr_report ..

theorem rd_showRate (h : RegsOk s) (ha : a ≠ R.NEG_RATE) : rd (showRate s t) t a = rd s t a := rd_wr_ne h ha _

theorem expX_showRate (s : State) (t : Twin) (e : Nat) : expX (showRate s t) t e = expX s t e := expX_congr (wr_exps ..) e

/-- An Exposure just put into a state is in it. -/
theorem expSt_setExpSt (h : RegsOk s) (t : Twin) (e : Nat) {v : Nat} (hv : v < 8) : expSt (setExpSt s t e v) t e = v := by
  rw [expSt, setExpSt, rf_wf_same h (ef R.NEG_EXP_STATUS_STATE e) (by decide : 2 < 32) (by decide : 0 ≤ 2)]
  exact Nat.mod_eq_of_lt hv

theorem expSt_showRate (h : RegsOk s) (t : Twin) (e : Nat) : expSt (showRate s t) t e = expSt s t e := by
  rw [expSt, rf, rd_showRate h (by simp [ef, fo, R.NEG_EXP_STATUS_STATE, R.NEG_RATE]; omega), ← rf, ← expSt]

theorem ea_ge {b : Nat} (hb : 0x800100 ≤ b) (e : Nat) : 0x800100 ≤ ea b e := Nat.le_add_right_of_le hb

/-- A word from the Exposures on that is none of the words `l` of Exposure `e`. -/
abbrev AwayFrom (l : List Nat) (e a : Nat) : Prop := 0x800100 ≤ a ∧ ∀ b ∈ l, a ≠ ea b e

theorem awayFrom_ea {l : List Nat} {b : Nat} (hb : 0x800100 ≤ b ∧ b ∉ l) (e : Nat) : AwayFrom l e (ea b e) :=
  ⟨ea_ge hb.1 e, fun c hc h => hb.2 (by rwa [Nat.add_right_cancel h])⟩

theorem not_awayFrom_ea {l : List Nat} {b : Nat} (hb : b ∈ l) (e : Nat) : ¬ AwayFrom l e (ea b e) := fun h => h.2 b hb rfl

theorem ea_apart (e : Nat) {b c : Nat} (hbc : b ≠ c) : ea b e ≠ ea c e := fun h => hbc (Nat.add_right_cancel h)

/-- The probes stand after the words of every Exposure. -/
theorem awayFrom_of_probe {l : List Nat} (hl : ∀ b ∈ l, b < 0x800140) (e : Fin 4) (ha : 0x801000 ≤ a) :
    AwayFrom l e.val a := by
  refine ⟨by omega, fun b hb h => ?_⟩
  have := hl b hb
  rw [ea] at h
  omega

theorem regsKept_showRate (h : RegsKept K s0 s) (hK : ∀ a, K a → 0x800100 ≤ a) (t : Twin) : RegsKept K s0 (showRate s t) :=
  h.wr (fun hr => absurd (hK _ hr) (by decide)) _

end Sys2Proof.Machine


/-! ARM, FIX and DISARM (R196 to R200). -/

namespace Sys2Proof.Machine

variable {s s' : State} {t : Twin} {e : Fin 4} {tg : Target}

/-- What ARM leaves of an Exposure: FILLING, or PRIMED where PRE is 0, empty at the start of its region. -/
structure Armed (t : Twin) (e : Nat) (s s' : State) : Prop where
  state : expSt s' t e = if rd s t (ea R.NEG_EXP_PRE e) = 0 then 2 else 1
  rows : rd s' t (ea R.NEG_EXP_ROWS e) = 0
  first : rd s' t (ea R.NEG_EXP_FIRST e) = BitVec.ofNat 32 (rf s t (ef R.NEG_EXP_REGION_BASE e) * 4096)
  rowSize : rf s' t (ef R.NEG_EXP_ROWSIZE_ROWSIZE e) = rowSize s t e
  hidden : expX s' t e =
    { base := rf s t (ef R.NEG_EXP_REGION_BASE e), pages := rf s t (ef R.NEG_EXP_REGION_SIZE e) }

theorem Armed.congr {s1 s2 : State} (h : Armed t e s1 s2) (h1 : (s1.tw t).regs = (s.tw t).regs)
    (h2 : (s'.tw t).regs = (s2.tw t).regs) (hx : (s'.tw t).exps = (s2.tw t).exps) : Armed t e s s' := by
  have hr1 := rd_of_regs h1
  have hr2 := rd_of_regs h2
  have hrf1 : ∀ f, rf s1 t f = rf s t f := fun f => by rw [rf, hr1, ← rf]
  have hrf2 : ∀ f, rf s' t f = rf s2 t f := fun f => by rw [rf, hr2, ← rf]
  obtain ⟨hstate, hrows, hfirst, hsize, hhidden⟩ := h
  rw [rowSize_congr fun a _ => hr1 a] at hsize
  rw [hrf1] at hfirst
  rw [hrf1, hrf1] at hhidden
  rw [hr1] at hstate
  exact ⟨by rw [expSt, hrf2, ← expSt, hstate], by rw [hr2, hrows], by rw [hr2, hfirst], by rw [hrf2, hsize],
    by rw [expX_congr hx, hhidden]⟩

theorem expProbes_length_le (s : State) (t : Twin) (e : Nat) : (expProbes s t e).length ≤ 64 := by
  simpa [expProbes] using List.length_filter_le
    (fun i => flag s t (fo R.NEG_PROBE_EN (4 * i)) && rf s t (fo R.NEG_PROBE_EXP (4 * i)) == e) (List.range 64)

/-- The words where ARM says where the rows are. -/
abbrev placeWords : List Nat := [R.NEG_EXP_ROWS, R.NEG_EXP_FIRST, R.NEG_EXP_FIXROW]

/-- The words that ARM writes after them. -/
abbrev shapeWords : List Nat := [R.NEG_EXP_ROWSIZE_ROWSIZE.addr, R.NEG_EXP_STATUS_STATE.addr]

theorem armOne_arms (hs : RegsOk s) (ht : TabsOk s) (t : Twin) : Armed t e.val s (armOne e.val s t) := by
  unfold armOne
  extract_lets s1 s2 s3
  have h1 : RegsOk s1 := regsOk_modExp hs t e _
  have hrd1 : ∀ a, rd s1 t a = rd s t a := fun a => rd_modExp s t t e a _
  have hplace : RegsKept (AwayFrom placeWords e) s1 s2 :=
    (((RegsKept.refl h1).wr (not_awayFrom_ea (by simp) e) _).wr (not_awayFrom_ea (by simp) e) _).wr
      (not_awayFrom_ea (by simp) e) _
  have h2 : RegsOk s2 := hplace.ok
  have hshape : RegsKept (AwayFrom shapeWords e) s2 s3 :=
    ((RegsKept.refl h2).wf (f := ef R.NEG_EXP_ROWSIZE_ROWSIZE e) (not_awayFrom_ea (by simp) e) _).wf
      (f := ef R.NEG_EXP_STATUS_PRE_SHORT e) (not_awayFrom_ea (by decide) e) _
  have h3 : RegsOk s3 := hshape.ok
  have hpre : rd s3 t (ea R.NEG_EXP_PRE e) = rd s t (ea R.NEG_EXP_PRE e) := by
    rw [hshape.same t _ (awayFrom_ea (by decide) e), hplace.same t _ (awayFrom_ea (by decide) e), hrd1]
  rw [hpre]
  obtain ⟨v, hv, hv8⟩ : ∃ v, v = (if rd s t (ea R.NEG_EXP_PRE e) = 0 then 2 else 1) ∧ v < 8 :=
    ⟨_, rfl, by split <;> decide⟩
  rw [← hv]
  have hset : RegsOk (setExpSt s3 t e v) := regsOk_wf h3 _ _
  have hend : RegsKept (AwayFrom [R.NEG_EXP_STATUS_STATE.addr] e) s3 (showRate (setExpSt s3 t e v) t) :=
    regsKept_showRate ((RegsKept.refl h3).wf (f := ef R.NEG_EXP_STATUS_STATE e) (not_awayFrom_ea (by simp) e) _)
      (fun _ h => h.1) t
  have hlate : ∀ b ∈ placeWords, rd (showRate (setExpSt s3 t e v) t) t (ea b e) = rd s2 t (ea b e) := fun b hb => by
    have hb' : (0x800100 ≤ b ∧ b ∉ [R.NEG_EXP_STATUS_STATE.addr]) ∧ 0x800100 ≤ b ∧ b ∉ shapeWords := by
      revert b
      decide
    rw [hend.same t _ (awayFrom_ea hb'.1 e), hshape.same t _ (awayFrom_ea hb'.2 e)]
  refine ⟨?_, ?_, ?_, ?_, ?_⟩
  · rw [expSt_showRate hset, expSt_setExpSt h3 t e hv8, hv]
  · rw [hlate _ (by simp), rd_wr_ne (regsOk_wr (regsOk_wr h1 _ _) _ _) (ea_apart e (by decide)),
      rd_wr_ne (regsOk_wr h1 _ _) (ea_apart e (by decide)), rd_wr_same h1]
  · rw [hlate _ (by simp), rd_wr_ne (regsOk_wr (regsOk_wr h1 _ _) _ _) (ea_apart e (by decide)),
      rd_wr_same (regsOk_wr h1 _ _), rf, hrd1, ← rf]
  · have hprobe : ∀ a, 0x801000 ≤ a → rd s2 t a = rd s t a := fun a ha => by
      rw [hplace.same t a (awayFrom_of_probe (by decide) e ha), hrd1]
    have hle := expProbes_length_le s t e
    rw [hend.rf (awayFrom_ea (by decide) e), rf_wf_ne (regsOk_wf h2 _ _) (ea_apart e (by decide)),
      rf_wf_same h2 _ (by decide : 15 < 32) (by decide : 0 ≤ 15), rowSize_congr hprobe, rowSize]
    exact Nat.mod_eq_of_lt (by simp only [ef, fo, R.NEG_EXP_ROWSIZE_ROWSIZE]; omega)
  · rw [expX_showRate, expX_congr (s := s1) (by simp only [setExpSt, wf_exps, wr_exps, s3, s2])]
    exact expX_modExp ht t e _

theorem armOne_report (e : Nat) (s : State) (t : Twin) : (armOne e s t).report = s.report := by
  simp [armOne, showRate_report, setExpSt, modExp_report]

/-- ARM of an Exposure that may be armed. -/
theorem execNegArm_arms (hs : RegsOk s) (ht : TabsOk s) (htg : tg = .both ∨ tg = .one t)
    (hok : targetCode tg (fun t => armCode s t e.val) = Rc.OK) :
    ∃ u, execNegArm tg e s = .next u ∧ u.report = Rc.OK ∧ Armed t e.val s u := by
  refine ⟨onTarget tg (armOne e.val) (say s Rc.OK),
    by rw [execNegArm]; exact congrArg _ (if_neg (not_not_intro hok)), ?_, ?_⟩
  · rw [onTarget_report (armOne_report e.val), say_report]
  · obtain ⟨s1, hr1, ht1, h1, hu⟩ := onTarget_at (f := armOne e.val)
      (fun _ _ v hk => armOne_keeps hk e.val v (not_isOf_other _ _) (not_isOf_other _ _)) hs ht htg Rc.OK
    exact (armOne_arms hr1 ht1 t).congr (h1 .regs) (hu .regs) (hu .exps)

/-- A Fix arrives at a FILLING or PRIMED Exposure. -/
theorem fixReq_fixNext (ht : TabsOk s) {t : Twin} {e : Nat} (hst : expSt s t e = 1 ∨ expSt s t e = 2) :
    (expX (fixNext s t e) t e).fixReq = true := by
  rw [fixNext, if_pos hst, expX_modExp ht]

theorem rd_fixNext (s : State) (t u : Twin) (e a : Nat) : rd (fixNext s t e) u a = rd s u a := by
  rw [fixNext, apply_ite (rd · u a), rd_modExp, ite_self]

theorem fixNext_report (s : State) (t : Twin) (e : Nat) : (fixNext s t e).report = s.report := by
  rw [fixNext, apply_ite State.report, modExp_report, ite_self]

theorem expSt_congr (h : (s'.tw t).regs = (s.tw t).regs) (e : Nat) : expSt s' t e = expSt s t e := by
  rw [expSt, rf, rd_of_regs h, ← rf, ← expSt]

/-- FIX of an Exposure that is FILLING or PRIMED. -/
theorem execNegFix_fixes (hs : RegsOk s) (ht : TabsOk s) (htg : tg = .both ∨ tg = .one t)
    (hok : targetCode tg (fun t => if expSt s t e.val = 0 then Rc.NEG_NOT_ARMED else Rc.OK) = Rc.OK)
    (hst : expSt s t e.val = 1 ∨ expSt s t e.val = 2) :
    ∃ u, execNegFix tg e s = .next u ∧ u.report = Rc.OK ∧ (expX u t e.val).fixReq = true ∧ SameRegs s u t [] := by
  refine ⟨onTarget tg (fun s t => fixNext s t e.val) (say s Rc.OK),
    by rw [execNegFix]; exact congrArg _ (if_neg (not_not_intro hok)), ?_, ?_⟩
  · rw [onTarget_report (fun s t => fixNext_report s t e.val), say_report]
  · obtain ⟨s1, hr1, ht1, h1, hu⟩ := onTarget_at (f := fun s t => fixNext s t e.val)
      (fun _ _ v hk => fixNext_keeps hk v e.val (not_isOf_other _ _)) hs ht htg Rc.OK
    refine ⟨?_, fun a _ => ?_⟩
    · rw [expX_congr (hu .exps)]
      exact fixReq_fixNext ht1 (by rwa [expSt_congr (h1 .regs)])
    · rw [rd_of_regs (hu .regs), rd_fixNext, rd_of_regs (h1 .regs)]

/-- An Exposure in IDLE, without rows. -/
structure Idle (t : Twin) (e : Nat) (s : State) : Prop where
  state : expSt s t e = 0
  rows : rd s t (ea R.NEG_EXP_ROWS e) = 0
  hidden : expX s t e = {}

theorem expIdle_idle (hs : RegsOk s) (ht : TabsOk s) (t : Twin) (e : Nat) : Idle t e (expIdle s t e) := by
  unfold expIdle
  extract_lets s1
  have h0 : RegsOk (setExpSt s t e 0) := regsOk_wf hs _ _
  have ht0 : TabsOk (setExpSt s t e 0) := (setExpSt_keeps (P := fun _ => False) (Keeps.refl _ s) t e 0 id).tabs ht
  have h1 : RegsOk s1 := regsOk_modExp h0 t e _
  have h2 : RegsOk (wr s1 t (ea R.NEG_EXP_ROWS e) 0) := regsOk_wr h1 _ _
  have h3 := regsOk_wf h2 (t := t) (ef R.NEG_EXP_STATUS_PRE_SHORT e) 0
  have hrows : RegsKept (AwayFrom [R.NEG_EXP_ROWS] e) s1 (wr s1 t (ea R.NEG_EXP_ROWS e) 0) :=
    (RegsKept.refl h1).wr (not_awayFrom_ea (by simp) e) _
  have hshort := regsKept_showRate ((RegsKept.refl (K := AwayFrom [R.NEG_EXP_STATUS_PRE_SHORT.addr] e) h2).wf (t := t)
    (f := ef R.NEG_EXP_STATUS_PRE_SHORT e) (not_awayFrom_ea (by simp) e) 0) (fun _ h => h.1) t
  refine ⟨?_, ?_, ?_⟩
  · rw [expSt_showRate h3, expSt, rf_wf_disjoint h2 (f := ef R.NEG_EXP_STATUS_PRE_SHORT e)
      (g := ef R.NEG_EXP_STATUS_STATE e) (by decide : 4 ≤ 4) (by decide : 0 ≤ 2) (.inr (by decide : 2 < 4)),
      hrows.rf (awayFrom_ea (by decide) e), rf, rd_modExp, ← rf, ← expSt, expSt_setExpSt hs t e (by decide)]
  · rw [hshort.same t _ (awayFrom_ea (by decide) e), rd_wr_same h1]
  · rw [expX_showRate, expX_congr (s := s1) (by simp only [wf_exps, wr_exps])]
    exact expX_modExp ht0 t e _

theorem expIdle_report (s : State) (t : Twin) (e : Nat) : (expIdle s t e).report = s.report := by
  simp [expIdle, showRate_report, setExpSt, modExp_report]

/-- DISARM. -/
theorem execNegDisarm_idles (hs : RegsOk s) (ht : TabsOk s) (htg : tg = .both ∨ tg = .one t) :
    ∃ u, execNegDisarm tg e s = .next u ∧ u.report = Rc.OK ∧ Idle t e.val u := by
  refine ⟨onTarget tg (fun s t => expIdle s t e.val) (say s Rc.OK), rfl, ?_, ?_⟩
  · rw [onTarget_report (fun s t => expIdle_report s t e.val), say_report]
  · obtain ⟨s1, hr1, ht1, h1, hu⟩ := onTarget_at (f := fun s t => expIdle s t e.val)
      (fun _ _ v hk => expIdle_keeps hk v e.val (not_isOf_other _ _) (not_isOf_other _ _)) hs ht htg Rc.OK
    obtain ⟨hstate, hrows, hhidden⟩ := expIdle_idle hr1 ht1 t e.val
    exact ⟨by rw [expSt_congr (hu .regs), hstate], by rw [rd_of_regs (hu .regs), hrows],
      by rw [expX_congr (hu .exps), hhidden]⟩

end Sys2Proof.Machine


/-! A row of an Exposure (R195, R197 to R199): the words, the counts, the Fix. -/

namespace Sys2Proof.Machine

variable {s s0 s' : State} {t : Twin} {e : Fin 4} {time : W64} {lost : Bool}

/-! The words of a row in Negative memory. -/

theorem tabGet_storeWords (b : Nat) (ws : List W32) (i w : Nat) {m : Tab W32} (hm : tabWf (fun _ => 0#32) m = true) :
    tabGet 0#32 ((ws.zip (List.range' i ws.length)).foldl (fun m p => tabSet 0#32 m (b + p.2) p.1) m) w =
      if b + i ≤ w ∧ w < b + i + ws.length then ws.getD (w - (b + i)) 0#32 else tabGet 0#32 m w := by
  induction ws generalizing i m with
  | nil =>
    rw [if_neg (by simp only [List.length_nil]; omega)]
    rfl
  | cons v ws ih =>
    rw [List.length_cons, List.range'_succ, List.zip_cons_cons, List.foldl_cons,
      ih (i + 1) (tabWf_tabSet (fun _ => 0#32) hm (b + i) v)]
    by_cases hw : w = b + i
    · rw [if_neg (by omega), if_pos (by omega), hw, Nat.sub_self]
      exact tabGet_tabSet_same (fun _ => 0#32) hm (b + i) v
    · rw [tabGet_tabSet_ne (fun _ => 0#32) hm hw v]
      by_cases hin : b + (i + 1) ≤ w ∧ w < b + (i + 1) + ws.length
      · rw [if_pos hin, if_pos (by omega), show w - (b + i) = w - (b + (i + 1)) + 1 by omega, List.getD_cons_succ]
      · rw [if_neg hin, if_neg (by omega)]

/-- What Negative memory holds after words are written to it. -/
theorem tabGet_negWrite (ht : TabsOk s) (t : Twin) (off : Nat) (ws : List W32) (w : Nat) :
    tabGet 0#32 ((negWrite s t off ws).tw t).neg w =
      if off / 4 ≤ w ∧ w < off / 4 + ws.length then ws.getD (w - off / 4) 0#32 else tabGet 0#32 (s.tw t).neg w := by
  rw [negWrite, setTw_tw, List.range_eq_range']
  exact tabGet_storeWords (off / 4) ws 0 w (ht.tw t).neg

/-! The parts of NEG_ROW_WRITE, of which the first is seen by the others as `s0`, the state before the row. -/

/-- Where the next row goes in Negative memory (R195). -/
def rowPlace (s : State) (t : Twin) (e : Nat) : Nat :=
  rf s t (ef R.NEG_EXP_REGION_BASE e) * 4096 +
    (if regionRows s t e = 0 then 0 else (expX s t e).total % regionRows s t e) * rowSize s t e

/-- The value of the trigger node in this row. -/
def triggerValue (s : State) (t : Twin) (e : Nat) : W32 :=
  rowNode s t (rf s t (ef R.NEG_EXP_CFG_SRC e)) (rf s t (ef R.NEG_EXP_TRIG_NODE e))

/-- Whether the row carries a Fix (R198, R199). -/
def rowFixes (s : State) (t : Twin) (e : Nat) (time : W64) : Bool :=
  expSt s t e != 3 && ((expX s t e).fixReq ||
    (match (expX s t e).chained with
      | some c => !(c.1 == rf s t (ef R.NEG_EXP_CFG_SRC e) && c.2 == time.toNat)
      | none => false) ||
    negTrigger s t e (triggerValue s t e) (expX s t e).prev)

/-- The third word of a row: its number, its flags and the number of its values. -/
def rowMark (s : State) (t : Twin) (e : Nat) (time : W64) (lost : Bool) : W32 :=
  BitVec.ofNat 32 ((expX s t e).total % 65536 +
    (bit (rowFixes s t e time) * 128 + bit lost * 64 + bit (probeHeld s t (expProbes s t e)) * 32) * 65536 +
    (expProbes s t e).length * 16777216)

/-- The words of a row (R195). -/
def rowWords (s : State) (t : Twin) (e : Nat) (time : W64) (lost : Bool) : List W32 :=
  [BitVec.ofNat 32 (time.toNat / 1000000000), BitVec.ofNat 32 (time.toNat % 1000000000), rowMark s t e time lost] ++
    (expProbes s t e).map (probeValue s t (rf s t (ef R.NEG_EXP_CFG_SRC e)))

/-- The row stands in Negative memory, and a gap before it is told. -/
def rowWritten (s : State) (t : Twin) (e : Nat) (time : W64) (lost : Bool) : State :=
  let s' := negWrite s t (rowPlace s t e) (rowWords s t e time lost)
  if lost then evi s' t R.NEG_EVENT_GAP e else s'

/-- The rows that the Exposure holds with this one: before the Fix no more than PRE of them. -/
def rowsAfter (s0 s : State) (t : Twin) (e : Nat) (time : W64) : Nat :=
  let held := (rd s t (ea R.NEG_EXP_ROWS e)).toNat
  if rowFixes s0 t e time || expSt s0 t e == 3 then held + 1 else min (rd s0 t (ea R.NEG_EXP_PRE e)).toNat (held + 1)

/-- What the twin notes of the row beside the registers. -/
def rowNoted (s0 : State) (t : Twin) (e : Nat) (time : W64) (x : ExpX) : ExpX :=
  let fix := rowFixes s0 t e time
  { x with
    total := x.total + 1, prev := some (triggerValue s0 t e), fixReq := x.fixReq && !fix && expSt s0 t e != 3
    chained := if fix then none else x.chained
    postLeft := if fix then (rd s0 t (ea R.NEG_EXP_POST e)).toNat - 1 else x.postLeft - 1 }

/-- The row is counted. -/
def rowCounted (s0 s : State) (t : Twin) (e : Nat) (time : W64) : State :=
  let n := regionRows s0 t e
  let s' := modExp s t e (rowNoted s0 t e time)
  wr (wr s' t (ea R.NEG_EXP_ROWS e) (BitVec.ofNat 32 (rowsAfter s0 s t e time))) t (ea R.NEG_EXP_FIRST e)
    (BitVec.ofNat 32 (rf s0 t (ef R.NEG_EXP_REGION_BASE e) * 4096 +
      (if n = 0 then 0 else ((expX s0 t e).total + 1 + n - rowsAfter s0 s t e time % n) % n) * rowSize s0 t e))

/-- The Fix is recorded with the number `held` of the rows before it, and the other Exposures learn of it (R198). -/
def fixRecorded (s0 s : State) (t : Twin) (e : Nat) (time : W64) (held : Nat) : State :=
  let s := wr (wr s t (ea R.NEG_EXP_FIXTIME_S e) (BitVec.ofNat 32 (time.toNat / 1000000000))) t
    (ea R.NEG_EXP_FIXTIME_NS e) (BitVec.ofNat 32 (time.toNat % 1000000000))
  let s := wf (wr s t (ea R.NEG_EXP_FIXROW e) (BitVec.ofNat 32 held)) t (ef R.NEG_EXP_STATUS_PRE_SHORT e)
    (bit (decide (held < (rd s0 t (ea R.NEG_EXP_PRE e)).toNat)))
  chainFix s t e (rf s0 t (ef R.NEG_EXP_CFG_SRC e)) time.toNat

/-- The Exposure goes to the state that follows from the row. -/
def rowEnded (s0 s1 s : State) (t : Twin) (e : Nat) (time : W64) : State :=
  if rowFixes s0 t e time then
    let s := fixRecorded s0 s t e time (rd s1 t (ea R.NEG_EXP_ROWS e)).toNat
    if (rd s0 t (ea R.NEG_EXP_POST e)).toNat ≤ 1 then freeze s t e else setExpSt s t e 3
  else if expSt s0 t e = 3 then (if (expX s0 t e).postLeft ≤ 1 then freeze s t e else s)
  else if rowsAfter s0 s1 t e time = (rd s0 t (ea R.NEG_EXP_PRE e)).toNat then setExpSt s t e 2 else s

theorem execNegRowWrite_idle (h : expSt s t e.val = 0 ∨ expSt s t e.val = 4) : execNegRowWrite t e time lost s = .next s :=
  if_pos h

theorem execNegRowWrite_live (h : ¬ (expSt s t e.val = 0 ∨ expSt s t e.val = 4)) :
    execNegRowWrite t e time lost s = .next (rowEnded s (rowWritten s t e.val time lost)
      (rowCounted s (rowWritten s t e.val time lost) t e.val time) t e.val time) :=
  if_neg h

/-! What each part leaves of the registers, of the hidden state and of Negative memory. -/

theorem rowSize_eq_length (s : State) (t : Twin) (e : Nat) (time : W64) (lost : Bool) :
    rowSize s t e / 4 = (rowWords s t e time lost).length := by
  simp [rowSize, rowWords]
  omega

theorem rowWritten_neg (s : State) (t : Twin) (e : Nat) (time : W64) (lost : Bool) :
    ((rowWritten s t e time lost).tw t).neg = ((negWrite s t (rowPlace s t e) (rowWords s t e time lost)).tw t).neg := by
  cases lost
  · rfl
  · exact wr_neg ..

theorem rowWritten_exps (s : State) (t : Twin) (e : Nat) (time : W64) (lost : Bool) :
    ((rowWritten s t e time lost).tw t).exps = (s.tw t).exps := by
  have hneg : ((negWrite s t (rowPlace s t e) (rowWords s t e time lost)).tw t).exps = (s.tw t).exps := by
    rw [negWrite, setTw_tw]
  cases lost
  · exact hneg
  · exact (wr_exps ..).trans hneg

theorem rowWritten_tabs (ht : TabsOk s) (t : Twin) (e : Nat) (time : W64) (lost : Bool) :
    TabsOk (rowWritten s t e time lost) := by
  have hneg := negWrite_keeps (P := fun _ => False) (Keeps.refl _ s) t (rowPlace s t e) (rowWords s t e time lost) id
  cases lost
  · exact hneg.tabs ht
  · exact (evi_keeps hneg t R.NEG_EVENT_GAP e id).tabs ht

theorem rowWritten_kept (hs : RegsOk s) (t : Twin) (e : Nat) (time : W64) (lost : Bool) :
    RegsKept (0x800100 ≤ ·) s (rowWritten s t e time lost) := by
  have hneg := (RegsKept.refl (K := (0x800100 ≤ ·)) hs).keep
    (negWrite_keeps (Keeps.refl _ s) t (rowPlace s t e) (rowWords s t e time lost) id)
  cases lost
  · exact hneg
  · exact hneg.evi (f := R.NEG_EVENT_GAP) (by decide) e

theorem rowCounted_keeps {P : Part → Prop} (hk : Keeps P s' s) (s0 : State) (t : Twin) (e : Nat) (time : W64)
    (hexps : ¬ P (.tw t .exps)) (hregs : ¬ P (.tw t .regs)) : Keeps P s' (rowCounted s0 s t e time) :=
  wr_keeps (wr_keeps (modExp_keeps hk t e _ hexps) t _ _ hregs) t _ _ hregs

theorem rowCounted_kept (hs : RegsOk s) (s0 : State) (t : Twin) (e : Nat) (time : W64) :
    RegsKept (AwayFrom [R.NEG_EXP_ROWS, R.NEG_EXP_FIRST] e) s (rowCounted s0 s t e time) :=
  (((RegsKept.refl hs).keep (modExp_keeps (Keeps.refl _ s) t e _ id)).wr (not_awayFrom_ea (by simp) e) _).wr
    (not_awayFrom_ea (by simp) e) _

theorem rows_rowCounted (hs : RegsOk s) (s0 : State) (t : Twin) (e : Nat) (time : W64) :
    rd (rowCounted s0 s t e time) t (ea R.NEG_EXP_ROWS e) = BitVec.ofNat 32 (rowsAfter s0 s t e time) := by
  have h1 := regsOk_modExp hs t e
  rw [rowCounted, rd_wr_ne (regsOk_wr (h1 _) _ _) (ea_apart e (by decide)), rd_wr_same (h1 _)]

theorem expX_rowCounted (ht : TabsOk s) (s0 : State) (t : Twin) (e : Nat) (time : W64) :
    expX (rowCounted s0 s t e time) t e = rowNoted s0 t e time (expX s t e) := by
  rw [expX_congr (s := modExp s t e (rowNoted s0 t e time)) (by rw [rowCounted, wr_exps, wr_exps]), expX_modExp ht]

end Sys2Proof.Machine


/-! The end of a row: the Fix, the freezing and the state that follows (R197 to R199). -/

namespace Sys2Proof.Machine

variable {s s0 s1 s' : State} {t : Twin} {time : W64} {lost : Bool}

theorem freeze_kept (hs : RegsOk s) (t : Twin) (e : Nat) :
    RegsKept (AwayFrom [R.NEG_EXP_STATUS_STATE.addr] e) s (freeze s t e) :=
  regsKept_showRate (((RegsKept.refl hs).wf (f := ef R.NEG_EXP_STATUS_STATE e) (not_awayFrom_ea (by simp) e) 4).evi
    (f := R.NEG_EVENT_FROZEN) (fun h => absurd h.1 (by decide)) e) (fun _ h => h.1) t

theorem expSt_freeze (hs : RegsOk s) (t : Twin) (e : Nat) : expSt (freeze s t e) t e = 4 := by
  have hset : RegsOk (setExpSt s t e 4) := regsOk_wf hs _ _
  have hevent : RegsKept (0x800100 ≤ ·) (setExpSt s t e 4) (evi (setExpSt s t e 4) t R.NEG_EVENT_FROZEN e) :=
    (RegsKept.refl hset).evi (f := R.NEG_EVENT_FROZEN) (by decide) e
  rw [freeze, expSt_showRate hevent.ok, expSt, hevent.rf (ea_ge (by decide) e), ← expSt,
    expSt_setExpSt hs t e (by decide)]

theorem freeze_exps (s : State) (t : Twin) (e : Nat) : ((freeze s t e).tw t).exps = (s.tw t).exps := by
  simp [freeze, showRate, setExpSt, evi]

/-- A chained Fix waits in other Exposures than the one that it starts from. -/
theorem expX_chainFix (ht : TabsOk s) (t : Twin) (e src time : Nat) : expX (chainFix s t e src time) t e = expX s t e := by
  have hstep : TabsOk (chainFix s t e src time) ∧ expX (chainFix s t e src time) t e = expX s t e := by
    refine List.foldlRecOn (motive := fun x : State => TabsOk x ∧ expX x t e = expX s t e) _ _ ⟨ht, rfl⟩ ?_
    rintro x ⟨hx, hsame⟩ f -
    split
    next hf => exact ⟨tabsOk_modExp hx t f _, by rw [expX_modExp_ne hx t (Ne.symm hf.1), hsame]⟩
    next => exact ⟨hx, hsame⟩
  exact hstep.2

/-- What a Fix leaves in the words of its Exposure. -/
structure FixRecorded (t : Twin) (e : Nat) (time : W64) (held : Nat) (s : State) : Prop where
  row : rd s t (ea R.NEG_EXP_FIXROW e) = BitVec.ofNat 32 held
  sec : rd s t (ea R.NEG_EXP_FIXTIME_S e) = BitVec.ofNat 32 (time.toNat / 1000000000)
  ns : rd s t (ea R.NEG_EXP_FIXTIME_NS e) = BitVec.ofNat 32 (time.toNat % 1000000000)

theorem FixRecorded.kept {e held : Nat} (h : FixRecorded t e time held s)
    (hk : RegsKept (AwayFrom [R.NEG_EXP_STATUS_STATE.addr] e) s s') : FixRecorded t e time held s' :=
  ⟨by rw [hk.same t _ (awayFrom_ea (by decide) e), h.row], by rw [hk.same t _ (awayFrom_ea (by decide) e), h.sec],
    by rw [hk.same t _ (awayFrom_ea (by decide) e), h.ns]⟩

theorem fixRecorded_records (hs : RegsOk s) (s0 : State) (t : Twin) (e : Nat) (time : W64) (held : Nat) :
    RegsOk (fixRecorded s0 s t e time held) ∧ FixRecorded t e time held (fixRecorded s0 s t e time held) := by
  unfold fixRecorded
  extract_lets s1 s2
  have h1 : RegsOk (wr s t (ea R.NEG_EXP_FIXTIME_S e) (BitVec.ofNat 32 (time.toNat / 1000000000))) := regsOk_wr hs _ _
  have h2 : RegsOk s1 := regsOk_wr h1 _ _
  have h3 : RegsOk (wr s1 t (ea R.NEG_EXP_FIXROW e) (BitVec.ofNat 32 held)) := regsOk_wr h2 _ _
  have hlate : RegsKept (AwayFrom [R.NEG_EXP_STATUS_STATE.addr] e) (wr s1 t (ea R.NEG_EXP_FIXROW e) (BitVec.ofNat 32 held))
      (chainFix s2 t e (rf s0 t (ef R.NEG_EXP_CFG_SRC e)) time.toNat) :=
    ((RegsKept.refl h3).wf (f := ef R.NEG_EXP_STATUS_PRE_SHORT e) (not_awayFrom_ea (by decide) e) _).keep
      (chainFix_keeps (Keeps.refl _ _) t e _ _ id)
  refine ⟨hlate.ok, FixRecorded.kept ⟨?_, ?_, ?_⟩ hlate⟩
  · rw [rd_wr_same h2]
  · rw [rd_wr_ne h2 (ea_apart e (by decide)), rd_wr_ne h1 (ea_apart e (by decide)), rd_wr_same hs]
  · rw [rd_wr_ne h2 (ea_apart e (by decide)), rd_wr_same h1]

theorem expX_fixRecorded (ht : TabsOk s) (s0 : State) (t : Twin) (e : Nat) (time : W64) (held : Nat) :
    expX (fixRecorded s0 s t e time held) t e = expX s t e := by
  unfold fixRecorded
  extract_lets s1 s2
  have hwords : Keeps (fun p => p = .tw t .exps) s s2 :=
    wf_keeps (wr_keeps (wr_keeps (wr_keeps (Keeps.refl _ s) t _ _ nofun) t _ _ nofun) t _ _ nofun) t _ _ nofun
  rw [expX_chainFix (hwords.tabs ht), expX_congr (hwords.same (.tw t .exps) rfl)]

theorem rowEnded_keeps {P : Part → Prop} (hk : Keeps P s' s) (s0 s1 : State) (t : Twin) (e : Nat) (time : W64)
    (hexps : ¬ P (.tw t .exps)) (hregs : ¬ P (.tw t .regs)) : Keeps P s' (rowEnded s0 s1 s t e time) := by
  have hfix : ∀ held, Keeps P s' (fixRecorded s0 s t e time held) := fun held =>
    chainFix_keeps (wf_keeps (wr_keeps (wr_keeps (wr_keeps hk t _ _ hregs) t _ _ hregs) t _ _ hregs) t _ _ hregs) t e _ _ hexps
  unfold rowEnded
  split
  · split
    · exact freeze_keeps (hfix _) t e hregs
    · exact setExpSt_keeps (hfix _) t e 3 hregs
  · split
    · split
      · exact freeze_keeps hk t e hregs
      · exact hk
    · split
      · exact setExpSt_keeps hk t e 2 hregs
      · exact hk

/-- The row with a Fix: recorded, and the Exposure in POST, or FROZEN with one POST row. -/
theorem rowEnded_fixed (hs : RegsOk s) (ht : TabsOk s) {e : Nat} (hfix : rowFixes s0 t e time = true) :
    FixRecorded t e time (rd s1 t (ea R.NEG_EXP_ROWS e)).toNat (rowEnded s0 s1 s t e time) ∧
      expSt (rowEnded s0 s1 s t e time) t e = (if (rd s0 t (ea R.NEG_EXP_POST e)).toNat ≤ 1 then 4 else 3) ∧
      expX (rowEnded s0 s1 s t e time) t e = expX s t e := by
  obtain ⟨hok, hrec⟩ := fixRecorded_records hs s0 t e time (rd s1 t (ea R.NEG_EXP_ROWS e)).toNat
  have hx := expX_fixRecorded ht s0 t e time (rd s1 t (ea R.NEG_EXP_ROWS e)).toNat
  rw [rowEnded, if_pos hfix]
  dsimp only
  split
  · exact ⟨hrec.kept (freeze_kept hok t e), expSt_freeze hok t e, (expX_congr (freeze_exps ..) e).trans hx⟩
  · exact ⟨hrec.kept ((RegsKept.refl hok).wf (f := ef R.NEG_EXP_STATUS_STATE e) (not_awayFrom_ea (by simp) e) 3),
      expSt_setExpSt hok t e (by decide), (expX_congr (wf_exps ..) e).trans hx⟩

/-- A row of a FILLING Exposure without a Fix: PRIMED with the last row of PRE. -/
theorem rowEnded_filling (hs : RegsOk s) {e : Nat} (hfix : rowFixes s0 t e time = false) (h0 : expSt s0 t e = 1)
    (h : expSt s t e = 1) :
    RegsKept (AwayFrom [R.NEG_EXP_STATUS_STATE.addr] e) s (rowEnded s0 s1 s t e time) ∧
      expSt (rowEnded s0 s1 s t e time) t e =
        (if rowsAfter s0 s1 t e time = (rd s0 t (ea R.NEG_EXP_PRE e)).toNat then 2 else 1) ∧
      expX (rowEnded s0 s1 s t e time) t e = expX s t e := by
  rw [rowEnded, if_neg (by simp [hfix]), if_neg (by simp [h0])]
  split
  · exact ⟨(RegsKept.refl hs).wf (f := ef R.NEG_EXP_STATUS_STATE e) (not_awayFrom_ea (by simp) e) 2,
      expSt_setExpSt hs t e (by decide), expX_congr (wf_exps ..) e⟩
  · exact ⟨RegsKept.refl hs, h, rfl⟩

end Sys2Proof.Machine


/-! NEG_ROW_WRITE and the Fix events, seen as a whole (R195 to R200). -/

namespace Sys2Proof.Machine

variable {s s' : State} {t : Twin} {e : Fin 4} {time : W64} {lost : Bool}

/-- The state after the row is written and counted. -/
abbrev afterRow (s : State) (t : Twin) (e : Fin 4) (time : W64) (lost : Bool) : State :=
  rowCounted s (rowWritten s t e.val time lost) t e.val time

theorem rows_rowWritten (hs : RegsOk s) (t : Twin) (e : Nat) (time : W64) (lost : Bool) :
    rd (rowWritten s t e time lost) t (ea R.NEG_EXP_ROWS e) = rd s t (ea R.NEG_EXP_ROWS e) :=
  (rowWritten_kept hs t e time lost).same t _ (ea_ge (by decide) e)

theorem expSt_afterRow (hs : RegsOk s) (t : Twin) (e : Fin 4) (time : W64) (lost : Bool) :
    expSt (afterRow s t e time lost) t e.val = expSt s t e.val := by
  have hw := rowWritten_kept hs t e.val time lost
  rw [expSt, (rowCounted_kept hw.ok s t e.val time).rf (awayFrom_ea (by decide) e),
    hw.rf (ea_ge (by decide) e), ← expSt]

theorem afterRow_tabs (ht : TabsOk s) (t : Twin) (e : Fin 4) (time : W64) (lost : Bool) :
    TabsOk (afterRow s t e time lost) :=
  (rowCounted_keeps (P := fun _ => False) (Keeps.refl _ _) s t e.val time id id).tabs (rowWritten_tabs ht t e.val time lost)

/-- A row stores its words at its place, and no other. -/
theorem rowEnded_neg (ht : TabsOk s) (t : Twin) (e : Fin 4) (time : W64) (lost : Bool) (w : Nat) :
    tabGet 0#32 ((rowEnded s (rowWritten s t e.val time lost) (afterRow s t e time lost) t e.val time).tw t).neg w =
      if rowPlace s t e.val / 4 ≤ w ∧ w < rowPlace s t e.val / 4 + rowSize s t e.val / 4
      then (rowWords s t e.val time lost).getD (w - rowPlace s t e.val / 4) 0#32 else tabGet 0#32 (s.tw t).neg w := by
  have hk : Keeps (fun p => p = .tw t .neg) (rowWritten s t e.val time lost)
      (rowEnded s (rowWritten s t e.val time lost) (afterRow s t e time lost) t e.val time) :=
    rowEnded_keeps (rowCounted_keeps (Keeps.refl _ _) s t e.val time nofun nofun) s _ t e.val time nofun nofun
  have hneg := hk.same (.tw t .neg) rfl
  rw [show ((rowEnded s _ _ t e.val time).tw t).neg = _ from hneg, rowWritten_neg, tabGet_negWrite ht,
    rowSize_eq_length s t e.val time lost]

/-- The words of a row are at its place. -/
theorem rowEnded_word (ht : TabsOk s) (t : Twin) (e : Fin 4) (time : W64) (lost : Bool) {i : Nat}
    (hi : i < (rowWords s t e.val time lost).length) :
    tabGet 0#32 ((rowEnded s (rowWritten s t e.val time lost) (afterRow s t e time lost) t e.val time).tw t).neg
      (rowPlace s t e.val / 4 + i) = (rowWords s t e.val time lost).getD i 0#32 := by
  rw [rowEnded_neg ht, if_pos (by rw [rowSize_eq_length s t e.val time lost]; omega), Nat.add_sub_cancel_left]

theorem rowFixes_of_fixReq (hst : expSt s t e.val = 1 ∨ expSt s t e.val = 2) (hreq : (expX s t e.val).fixReq = true)
    (time : W64) : rowFixes s t e.val time = true := by
  have h3 : (expSt s t e.val != 3) = true := by simp; omega
  rw [rowFixes, h3, hreq]
  rfl

theorem rowFixes_eq_false (hreq : (expX s t e.val).fixReq = false) (hch : (expX s t e.val).chained = none)
    (htrig : negTrigger s t e.val (triggerValue s t e.val) (expX s t e.val).prev = false) (time : W64) :
    rowFixes s t e.val time = false := by
  simp only [rowFixes, hreq, hch, htrig, Bool.or_false, Bool.and_false]

theorem execNegRowWrite_fixed (hs : RegsOk s) (ht : TabsOk s) (hst : expSt s t e.val = 1 ∨ expSt s t e.val = 2)
    (hreq : (expX s t e.val).fixReq = true) :
    ∃ u, execNegRowWrite t e time lost s = .next u ∧ FixRecorded t e.val time (rd s t (ea R.NEG_EXP_ROWS e.val)).toNat u ∧
      expSt u t e.val = (if (rd s t (ea R.NEG_EXP_POST e.val)).toNat ≤ 1 then 4 else 3) ∧
      (expX u t e.val).fixReq = false := by
  have hfix := rowFixes_of_fixReq hst hreq time
  have hw := rowWritten_kept hs t e.val time lost
  have hwt := rowWritten_tabs ht t e.val time lost
  obtain ⟨hrec, hend, hx⟩ := rowEnded_fixed (s1 := rowWritten s t e.val time lost)
    (rowCounted_kept hw.ok s t e.val time).ok (afterRow_tabs ht t e time lost) hfix
  rw [rows_rowWritten hs] at hrec
  refine ⟨_, execNegRowWrite_live (by omega), hrec, hend, ?_⟩
  rw [hx, expX_rowCounted hwt, rowNoted, hfix, Bool.not_true, Bool.and_false, Bool.false_and]

/-- The row of a FILLING Exposure without a Fix. -/
theorem execNegRowWrite_filling (hs : RegsOk s) (ht : TabsOk s) (hst : expSt s t e.val = 1)
    (hfix : rowFixes s t e.val time = false) {rows : Nat}
    (hrows : rows = min (rd s t (ea R.NEG_EXP_PRE e.val)).toNat ((rd s t (ea R.NEG_EXP_ROWS e.val)).toNat + 1)) :
    ∃ u, execNegRowWrite t e time lost s = .next u ∧ (expX u t e.val).total = (expX s t e.val).total + 1 ∧
      rd u t (ea R.NEG_EXP_ROWS e.val) = BitVec.ofNat 32 rows ∧
      expSt u t e.val = (if rows = (rd s t (ea R.NEG_EXP_PRE e.val)).toNat then 2 else 1) ∧
      ∀ i < (rowWords s t e.val time lost).length,
        tabGet 0#32 (u.tw t).neg (rowPlace s t e.val / 4 + i) = (rowWords s t e.val time lost).getD i 0#32 := by
  have hw := rowWritten_kept hs t e.val time lost
  have hafter : rowsAfter s (rowWritten s t e.val time lost) t e.val time = rows := by
    rw [rowsAfter, rows_rowWritten hs, hfix, hst, hrows]
    rfl
  obtain ⟨hkept, hend, hx⟩ := rowEnded_filling (s1 := rowWritten s t e.val time lost)
    (rowCounted_kept hw.ok s t e.val time).ok hfix hst ((expSt_afterRow hs t e time lost).trans hst)
  refine ⟨_, execNegRowWrite_live (by omega), ?_, ?_, ?_, fun i hi => rowEnded_word ht t e time lost hi⟩
  · rw [hx, expX_rowCounted (rowWritten_tabs ht t e.val time lost), expX_congr (rowWritten_exps ..)]
    rfl
  · rw [hkept.same t _ (awayFrom_ea (by decide) e), rows_rowCounted hw.ok, hafter]
  · rw [hend, hafter]

theorem execNegRowWrite_elsewhere (ht : TabsOk s) {w : Nat}
    (hw : w < rowPlace s t e.val / 4 ∨ rowPlace s t e.val / 4 + rowSize s t e.val / 4 ≤ w) :
    ∃ u, execNegRowWrite t e time lost s = .next u ∧ tabGet 0#32 (u.tw t).neg w = tabGet 0#32 (s.tw t).neg w := by
  by_cases hst : expSt s t e.val = 0 ∨ expSt s t e.val = 4
  · exact ⟨s, execNegRowWrite_idle hst, rfl⟩
  · exact ⟨_, execNegRowWrite_live hst, by rw [rowEnded_neg ht, if_neg (by omega)]⟩

/-! The Fix events. -/

theorem fixReq_fixNext_of_fixReq (ht : TabsOk s) {i j : Nat} (h : (expX s t i).fixReq = true) :
    (expX (fixNext s t j) t i).fixReq = true := by
  rw [fixNext]
  split
  · by_cases hij : i = j
    · rw [hij, expX_modExp ht]
    · rw [expX_modExp_ne ht t hij, h]
  · exact h

theorem rd_negEvents (s : State) (t u : Twin) (bits a : Nat) : rd (negEvents s t bits) u a = rd s u a :=
  rd_of_regs ((negEvents_keeps (P := IsRegs) (Keeps.refl _ s) t bits id).same (.tw u .regs) trivial) a

/-- Whether one of the Fix events of `bits` is selected by Exposure `e` (R198). -/
def eventFixes (s : State) (t : Twin) (bits e : Nat) : Bool :=
  (List.range 10).any (fun i => nbit bits i && biti s t (ef R.NEG_EXP_EVENTS_EVENTS e) i)

/-- A fold that passes `a` reaches what the step of `a` sets up and the other steps keep. -/
theorem foldl_of_mem {α β : Type} {f : β → α → β} {P Q : β → Prop} {l : List α} {a : α} {b : β} (ha : a ∈ l)
    (hb : P b) (hP : ∀ b x, P b → P (f b x)) (hat : ∀ b, P b → Q (f b a)) (hQ : ∀ b x, P b → Q b → Q (f b x)) :
    Q (l.foldl f b) := by
  obtain ⟨l1, l2, rfl⟩ := List.append_of_mem ha
  rw [List.foldl_append, List.foldl_cons]
  have h1 : P (l1.foldl f b) := List.foldlRecOn l1 f hb fun b hb x _ => hP b x hb
  exact (List.foldlRecOn (motive := fun b => P b ∧ Q b) l2 f ⟨hP _ a h1, hat _ h1⟩
    fun b hb x _ => ⟨hP b x hb.1, hQ b x hb.1 hb.2⟩).2

/-- The Fix events take effect on the next row of each FILLING or PRIMED Exposure that selects one of them. -/
theorem fixReq_negEvents (ht : TabsOk s) {bits : Nat} (hsel : eventFixes s t bits e.val = true)
    (hst : expSt s t e.val = 1 ∨ expSt s t e.val = 2) : (expX (negEvents s t bits) t e.val).fixReq = true := by
  rw [negEvents]
  refine foldl_of_mem (P := fun x => TabsOk x ∧ ∀ a, rd x t a = rd s t a) (Q := fun x => (expX x t e.val).fixReq = true)
    (List.mem_range.2 e.isLt) ⟨ht, fun _ => rfl⟩ ?_ ?_ ?_
  · rintro x f ⟨hx, hr⟩
    have hk := fixNext_keeps (P := fun _ => False) (Keeps.refl _ x) t f id
    split
    · exact ⟨hk.tabs hx, fun a => by rw [rd_fixNext, hr]⟩
    · exact ⟨hx, hr⟩
  · rintro x ⟨hx, hr⟩
    have hsel' : eventFixes x t bits e.val = true := by
      simpa only [eventFixes, biti, rf, hr] using hsel
    split
    next => exact fixReq_fixNext hx (by simpa only [expSt, rf, hr] using hst)
    next hnot => exact absurd hsel' hnot
  · rintro x f ⟨hx, -⟩ hfix
    split
    · exact fixReq_fixNext_of_fixReq hx hfix
    · exact hfix

theorem eventFixes_of_selected {b : BitVec 11} (i : Fin 10) (hb : b.getLsbD i.val = true)
    (hsel : biti s t (ef R.NEG_EXP_EVENTS_EVENTS e.val) i.val = true) : eventFixes s t b.toNat e.val = true := by
  refine List.any_eq_true.2 ⟨i.val, List.mem_range.2 i.isLt, ?_⟩
  rw [hsel, Bool.and_true, ← hb, BitVec.getLsbD, Nat.testBit_eq_decide_div_mod_eq]
  rfl

theorem execNegEventFix_fixes (hs : RegsOk s) (ht : TabsOk s) {b : BitVec 11}
    (hst : expSt s t e.val = 1 ∨ expSt s t e.val = 2) (hsel : eventFixes s t b.toNat e.val = true) :
    ∃ u, execNegEventFix t b s = .next u ∧ (expX u t e.val).fixReq = true ∧ rf u t R.NEG_EVT_EVT = b.toNat := by
  have hb := b.isLt
  have hlive : ∀ f : Fld, 0x800100 ≤ f.addr → rf (wf s t R.NEG_EVT_EVT b.toNat) t (ef f e) = rf s t (ef f e) := fun f hf =>
    RegsKept.rf (K := (0x800100 ≤ ·)) ((RegsKept.refl hs).wf (f := R.NEG_EVT_EVT) (by decide) _) (Nat.le_add_right_of_le hf)
  refine ⟨_, rfl, fixReq_negEvents ((wf_keeps (P := fun _ => False) (Keeps.refl _ s) t _ _ id).tabs ht) ?_ ?_, ?_⟩
  · simpa only [eventFixes, biti, hlive R.NEG_EXP_EVENTS_EVENTS (by decide)] using hsel
  · rwa [expSt, hlive _ (by decide), ← expSt]
  · rw [rf, rd_negEvents, ← rf, rf_wf_same hs R.NEG_EVT_EVT (by decide) (by decide)]
    exact Nat.mod_eq_of_lt hb

theorem execNegRemoteFix_fixes (ht : TabsOk s) {b : BitVec 11}
    (hst : expSt s t e.val = 1 ∨ expSt s t e.val = 2) (hsel : eventFixes s t b.toNat e.val = true) :
    ∃ u, execNegRemoteFix t b s = .next u ∧ (expX u t e.val).fixReq = true ∧ SameRegs s u t [] :=
  ⟨_, rfl, fixReq_negEvents ht hsel hst, fun a _ => rd_negEvents s t t _ a⟩

/-- FIX of one Exposure in IDLE is refused. -/
theorem execNegFix_refused (h : expSt s t e.val = 0) :
    execNegFix (.one t) e s = .next { s with report := Rc.NEG_NOT_ARMED } := by
  have hcode : targetCode (.one t) (fun t => if expSt s t e.val = 0 then Rc.NEG_NOT_ARMED else Rc.OK) = Rc.NEG_NOT_ARMED :=
    if_pos h
  rw [execNegFix, hcode]
  rfl

/-- The words of a row: its time, and its probes' values from the fourth on. -/
theorem rowWords_probe (s : State) (t : Twin) (e : Nat) (time : W64) (lost : Bool) {i : Nat}
    (hi : i < (expProbes s t e).length) :
    (rowWords s t e time lost).getD (3 + i) 0#32 =
      probeValue s t (rf s t (ef R.NEG_EXP_CFG_SRC e)) ((expProbes s t e).getD i 0) := by
  rw [rowWords, List.getD_append_right _ _ _ _ (by simp), List.getD_eq_getElem _ _ (by simpa using hi),
    List.getD_eq_getElem _ _ hi]
  simp

/-- Settles O33: a lemma for each command, the row's by the parts of NEG_ROW_WRITE. -/
theorem negativeCommandsComplete : Obligations.NegativeCommandsComplete := by
  refine ⟨?_, ?_, ?_, ?_, ?_, ?_, ?_, ?_, ?_⟩
  · intro s tg t e hs ht htg hok
    obtain ⟨u, hu, hreport, hstate, hrows, hfirst, hsize, hhidden⟩ := execNegArm_arms hs ht htg hok
    exact ⟨u, hu, hreport, hstate, hrows, hfirst, hsize, hhidden⟩
  · intro s tg t e hs ht htg hok hst
    exact execNegFix_fixes hs ht htg hok hst
  · intro s t e h
    exact ⟨_, execNegFix_refused h, rfl⟩
  · intro s tg t e hs ht htg
    obtain ⟨u, hu, hreport, hstate, hrows, hhidden⟩ := execNegDisarm_idles hs ht htg
    exact ⟨u, hu, hreport, hstate, hrows, hhidden⟩
  · intro s t e d l hs ht hst hn hreq hch htrig
    obtain ⟨u, hu, htotal, hrows, hstate, hword⟩ := execNegRowWrite_filling (lost := l) hs ht hst
      (rowFixes_eq_false hreq hch htrig d) rfl
    have hlen : (rowWords s t e.val d l).length = 3 + (expProbes s t e.val).length := by simp [rowWords]; omega
    rw [rowPlace, if_neg hn] at hword
    refine ⟨u, hu, htotal, hrows, hstate, hword 0 (by omega), hword 1 (by omega), fun i hi => ?_⟩
    rw [Nat.add_assoc, hword (3 + i) (by omega), rowWords_probe s t e.val d l hi]
  · intro s t e d l hs ht hst hreq
    obtain ⟨u, hu, ⟨hrow, hsec, hns⟩, hstate, hfix⟩ := execNegRowWrite_fixed (time := d) (lost := l) hs ht hst hreq
    exact ⟨u, hu, by rw [hrow, BitVec.ofNat_toNat, BitVec.setWidth_eq], hsec, hns, hstate, hfix⟩
  · intro s t e d l w hs ht hw
    exact execNegRowWrite_elsewhere ht hw
  · intro s t e b i hs ht hst hb hsel
    exact execNegEventFix_fixes hs ht hst (eventFixes_of_selected i hb hsel)
  · intro s t e b i hs ht hst hb hsel
    exact execNegRemoteFix_fixes ht hst (eventFixes_of_selected i hb hsel)

end Sys2Proof.Machine

/-! The power edge's operations work on its own words (O10; R239 to R264). -/

namespace Sys2Proof.Machine

variable {K : Nat → Prop} {s0 s s' : State} {t : Twin}

/-- The kept words leave out the addresses from `lo` up to `hi`. -/
def Open (lo hi : Nat) (K : Nat → Prop) : Prop := ∀ a, lo ≤ a → a < hi → ¬ K a

theorem Open.addr {lo hi : Nat} (hK : Open lo hi K) {a : Nat} (ha : lo ≤ a ∧ a < hi) : ¬ K a := hK a ha.1 ha.2

/-- A unit's word, where the block has room for the units after it. -/
theorem Open.unit {lo hi : Nat} (hK : Open lo hi K) {a m : Nat} (ha : lo ≤ a ∧ a + 0x1000 < hi) (hm : m ≤ 0x1000) :
    ¬ K (a + m) := hK _ (by omega) (by omega)

theorem Open.counted {lo hi : Nat} (hK : Open lo hi K) (h : RegsKept K s0 s) {a : Nat} (ha : lo ≤ a ∧ a < hi)
    (ho : ((counterOvf a).all fun p => decide (lo ≤ p.1 ∧ p.1 < hi)) = true) : RegsKept K s0 (cnt s t a) :=
  h.cnt (hK.addr ha) fun w i hw => hK.addr (by simpa [hw] using ho)

theorem RegsKept.say (h : RegsKept K s0 s) (c : Nat) : RegsKept K s0 (say s c) := h.keep (say_keeps (Keeps.refl _ s) c)

theorem RegsKept.agreedOnly (h : RegsKept K s0 s) (tg : Target) {f : State → State}
    (hf : ∀ s, RegsKept K s0 s → RegsKept K s0 (f s)) : RegsKept K s0 (agreedOnly tg s f) := by
  cases tg with
  | both => exact hf _ (h.say _)
  | one t => exact h.say _

theorem RegsKept.modPwm (h : RegsKept K s0 s) (p : Nat) (f : PwmX → PwmX) : RegsKept K s0 (modPwm s p f) :=
  h.keep (modPwm_keeps (Keeps.refl _ s) p f id)

theorem RegsKept.modOut (h : RegsKept K s0 s) (k : Nat) (f : OutPair → OutPair) : RegsKept K s0 (modOut s k f) :=
  h.keep (modOut_keeps (Keeps.refl _ s) k f id)

theorem RegsKept.modGen (h : RegsKept K s0 s) (g : Nat) (f : GenX → GenX) : RegsKept K s0 (modGen s g f) :=
  h.keep (modGen_keeps (Keeps.refl _ s) g f id)

theorem RegsKept.leaveHold (h : RegsKept K s0 s) (k : Nat) : RegsKept K s0 (leaveHold s k) := h.modOut k _

/-- The words of the blocks of PWM, gate drives and trips are free to change. -/
abbrev EdgeOpen (K : Nat → Prop) : Prop := Open 0x1000000 0x1100000 K

/-- The counters of a pair and their overflow flags lie in the power edge's blocks (R8). -/
theorem ovf_pairCounters : ∀ p < 8, ∀ a ∈ [R.PWM_P_REPLACED + 128 * p, R.PWM_P_LATE + 128 * p,
    R.GD_P_UVLO_CNT + 64 * p, R.TRIP_IN_CNT + 4 * p, R.TRIP_SC_CNT + 4 * p], (0x1000000 ≤ a ∧ a < 0x1100000) ∧
    ((counterOvf a).all fun q => decide (0x1000000 ≤ q.1 ∧ q.1 < 0x1100000)) = true := by
  decide +kernel

section
variable (hK : EdgeOpen K)
include hK

/-- A field of a PWM pair. -/
theorem open_pf {p : Nat} (hp : p < 16) (f : Fld) (hf : 0x1000000 ≤ f.addr ∧ f.addr + 0x1000 < 0x1100000) :
    ¬ K (pf f p).addr := hK.unit hf (by omega)

/-- A field of a gate-drive pair. -/
theorem open_gf {g : Nat} (hg : g < 16) (f : Fld) (hf : 0x1000000 ≤ f.addr ∧ f.addr + 0x1000 < 0x1100000) :
    ¬ K (gf f g).addr := hK.unit hf (by omega)

/-! Outputs. -/

theorem edgeKept_showOut (h : RegsKept K s0 s) {k : Nat} (hk : k < 16) (t : Twin) : RegsKept K s0 (showOut k s t) := by
  unfold showOut
  extract_lets o tr pr s1 s2 s3 g s4
  have hpr : ¬ K pr.addr := by
    unfold pr
    split <;> exact hK.addr (by decide)
  have h1 : RegsKept K s0 s1 := (h.evi hpr _).ite (h.clri hpr _)
  refine RegsKept.ite ?_ ?_
  · exact (((h1.wf (open_pf hK hk _ (by decide)) _).wf (open_pf hK hk _ (by decide)) _).wf
      (open_pf hK hk _ (by decide)) _).wf (open_pf hK hk _ (by decide)) _
  · have hg : g < 16 := by omega
    exact ((h1.wf (open_gf hK hg _ (by decide)) _).wf (open_gf hK hg _ (by decide)) _).wf (open_gf hK hg _ (by decide)) _

theorem edgeKept_settleFed (h : RegsKept K s0 s) {k : Nat} (hk : k < 16) (fed : Bool × Bool) :
    RegsKept K s0 (settleFed s k fed) :=
  (h.modOut k _).onLive fun _ t hs => edgeKept_showOut hK hs hk t

theorem edgeKept_settle1 (h : RegsKept K s0 s) {k : Nat} (hk : k < 16) : RegsKept K s0 (settle1 s k) :=
  edgeKept_settleFed hK h hk _

theorem edgeKept_settlePair (h : RegsKept K s0 s) {k : Nat} (hk : k < 16) : RegsKept K s0 (settlePair s k) := by
  have h1 := edgeKept_settle1 hK h hk
  refine RegsKept.ite (h1.foldl fun s g hg hs => ?_) h1
  have hg : g < 8 := List.mem_range.1 hg
  exact (edgeKept_settleFed hK hs (by omega) _).ite hs

theorem edgeKept_settleAll (h : RegsKept K s0 s) : RegsKept K s0 (settleAll s) :=
  h.foldl fun _ _ hk hs => edgeKept_settle1 hK hs (List.mem_range.1 hk)

theorem edgeKept_takePins (h : RegsKept K s0 s) : RegsKept K s0 (takePins s) := by
  unfold takePins waitBut
  exact edgeKept_settleAll hK (h.foldl fun _ k _ hs => hs.ite (hs.modOut k _))

/-! The carriers and their sets. -/

theorem edgeKept_showPending (h : RegsKept K s0 s) {p : Nat} (hp : p < 8) : RegsKept K s0 (showPending s p) :=
  h.onLive fun _ _ hs => hs.wf (open_pf hK (by omega) R.PWM_P_RLD_PENDING (by decide)) _

theorem edgeKept_pwmStart (h : RegsKept K s0 s) {p : Nat} (hp : p < 8) : RegsKept K s0 (pwmStart s p) := by
  have hp' : p < 16 := by omega
  unfold pwmStart
  extract_lets b0 s1
  have h1 : RegsKept K s0 s1 := h.onLive fun _ _ hs =>
    (hs.wf (open_pf hK hp' R.PWM_P_STATUS_RUNNING (by decide)) _).wf (open_pf hK hp' R.PWM_P_STATUS_RLD_SEQ (by decide)) _
  exact (h.say _).ite ((h.say _).ite ((h.say _).ite (edgeKept_settlePair hK (h1.modPwm p _) hp')))

theorem edgeKept_pwmStop (h : RegsKept K s0 s) {p : Nat} (hp : p < 8) : RegsKept K s0 (pwmStop s p) := by
  have h1 : RegsKept K s0 (onLive (fun s t => wf s t (pf R.PWM_P_STATUS_RUNNING p) 0) s) :=
    h.onLive fun _ _ hs => hs.wf (open_pf hK (by omega) R.PWM_P_STATUS_RUNNING (by decide)) _
  exact edgeKept_settlePair hK ((h1.modPwm p _).modOut p _) (by omega)

theorem edgeKept_pairCnt (h : RegsKept K s0 s) {p a : Nat} (hp : p < 8) (ha : a ∈ [R.PWM_P_REPLACED + 128 * p,
    R.PWM_P_LATE + 128 * p, R.GD_P_UVLO_CNT + 64 * p, R.TRIP_IN_CNT + 4 * p, R.TRIP_SC_CNT + 4 * p]) :
    RegsKept K s0 (cnt s t a) :=
  have hc := ovf_pairCounters p hp a ha
  hK.counted h hc.1 hc.2

theorem edgeKept_countReplaced (h : RegsKept K s0 s) {p : Nat} (hp : p < 8) : RegsKept K s0 (countReplaced s p) := by
  refine RegsKept.ite (h.onLive fun _ _ hs => ?_) h
  exact (edgeKept_pairCnt hK hs hp (by simp)).evi (hK.addr (by decide)) p

theorem edgeKept_pendSet (h : RegsKept K s0 s) {p : Nat} (hp : p < 8) (q : PwmSet) (now : Bool) :
    RegsKept K s0 (pendSet s p q now) :=
  edgeKept_showPending hK ((edgeKept_countReplaced hK h hp).modPwm p _) hp

theorem edgeKept_commitSet (h : RegsKept K s0 s) (p : Nat) (q : PwmSet) : RegsKept K s0 (commitSet s p q) :=
  h.ite (h.onLive fun _ _ hs => hs.evi (hK.addr (by decide)) p)

theorem edgeKept_countReload (h : RegsKept K s0 s) {p : Nat} (hp : p < 8) : RegsKept K s0 (countReload s p) :=
  h.onLive fun _ _ hs => hs.wf (open_pf hK (by omega) R.PWM_P_STATUS_RLD_SEQ (by decide)) _

theorem edgeKept_levelsAt (h : RegsKept K s0 s) {p : Nat} (hp : p < 8) (at_ : Int) : RegsKept K s0 (levelsAt s p at_) := by
  have hsig : ∀ {s}, RegsKept K s0 s → ∀ own v, RegsKept K s0 (signalTo s p own v at_) := fun hs own v =>
    hs.keep (signalTo_keeps (Keeps.refl _ _) p own v at_ id)
  exact edgeKept_settlePair hK (hsig (hsig h _ _) _ _) (by omega)

/-- A set that develops also shows the sample rate of the Exposures that its pair times (R196). -/
theorem edgeKept_developSet (hrate : ¬ K R.NEG_RATE) (h : RegsKept K s0 s) {p : Nat} (hp : p < 8) (q : PwmSet) (seq : Nat)
    (late : Bool) : RegsKept K s0 (developSet s p q seq late) := by
  have hdev : ∀ i ≤ 12, ¬ K (R.PWM_P_DEV + 128 * p + i) := fun i hi => by
    have haddr : R.PWM_P_DEV = 0x1000140 := rfl
    exact hK _ (by omega) (by omega)
  have hp' : p < 16 := by omega
  refine (h.onLive fun s t hs => ?_).modPwm p _
  extract_lets a s1 s2 s3
  have h1 : RegsKept K s0 s1 := (hs.wr (hdev 0 (by omega)) _).wr (hdev 4 (by omega)) _
  have h2 : RegsKept K s0 s2 := (h1.wr (hdev 8 (by omega)) _).wr (hdev 12 (by omega)) _
  have h3 : RegsKept K s0 s3 := ((h2.wr hrate _).wf (open_pf hK hp' R.PWM_P_RLD_DEV_SEQ (by decide)) _).wf
    (open_pf hK hp' R.PWM_P_RLD_LATE (by decide)) _
  exact ((edgeKept_pairCnt hK h3 hp (by simp)).evi (hK.addr (by decide)) p).ite h3

theorem edgeKept_armSet (hrate : ¬ K R.NEG_RATE) (h : RegsKept K s0 s) {p : Nat} (hp : p < 8) (q : PwmSet) (now : Bool) :
    RegsKept K s0 (armSet s p q now) := by
  refine (edgeKept_pendSet hK h hp q now).ite ?_
  exact edgeKept_developSet hK hrate (edgeKept_commitSet hK
    (edgeKept_showPending hK ((edgeKept_countReplaced hK h hp).modPwm p _) hp) p q) hp _ _ _

theorem edgeKept_reloadEvent (hrate : ¬ K R.NEG_RATE) (h : RegsKept K s0 s) {p : Nat} (hp : p < 8) (centre : Bool) :
    RegsKept K s0 (reloadEvent s p centre) := by
  unfold reloadEvent
  extract_lets x s1
  have h1 : RegsKept K s0 s1 := (edgeKept_countReload hK h hp).modPwm p _
  refine (h.modPwm p _).ite ?_
  split
  · exact h1
  · extract_lets delta s2 s3
    have h3 : RegsKept K s0 s3 := edgeKept_showPending hK ((edgeKept_developSet hK hrate h1 hp _ _ _).modPwm p _) hp
    exact (edgeKept_levelsAt hK (h3.modPwm p _) hp _).ite (h3.modPwm p _)

theorem edgeKept_reloadNow (hrate : ¬ K R.NEG_RATE) (h : RegsKept K s0 s) {p : Nat} (hp : p < 8) :
    RegsKept K s0 (reloadNow s p) := by
  unfold reloadNow
  extract_lets x
  split
  · exact h
  · extract_lets q delta s1 s2 s3 at_
    have h1 : RegsKept K s0 s1 := edgeKept_countReload hK (edgeKept_commitSet hK h p _) hp
    have h3 : RegsKept K s0 s3 := edgeKept_showPending hK ((edgeKept_developSet hK hrate h1 hp _ _ _).modPwm p _) hp
    exact (edgeKept_levelsAt hK (h3.modPwm p _) hp _).ite (h3.modPwm p _)

end

end Sys2Proof.Machine

/-! The commands of PWM, gate drives and trips work on their own blocks (O10). -/

namespace Sys2Proof.Machine

variable {K : Nat → Prop} {l : List Nat} {s0 s s' : State} {t : Twin}

theorem edgeOpen_outside (h7 : 7 ∈ l) (h8 : 8 ∈ l) (h9 : 9 ∈ l) : EdgeOpen (fun a => inside l a = false) := by
  intro a ha ha'
  refine not_outside ?_
  by_cases h1 : a < 0x1010000
  · exact inside_of_blockOf (blockOf_between (by decide) (by decide) (by decide) (by decide) ha h1) h7
  · by_cases h2 : a < 0x1020000
    · exact inside_of_blockOf (blockOf_between (by decide) (by decide) (by decide) (by decide) (Nat.not_lt.1 h1) h2) h8
    · exact inside_of_blockOf (blockOf_between (by decide) (by decide) (by decide) (by decide) (Nat.not_lt.1 h2) ha') h9

theorem RegsKept.keepHold (h : RegsKept K s0 s) (before : State) (k : Nat) : RegsKept K s0 (keepHold before s k) :=
  (h.modOut k _).ite ((h.modOut k _).ite h)

theorem RegsKept.onSides {f : State → Twin → State} (h : RegsKept K s0 s) (onA onB : Bool)
    (hf : ∀ s t, RegsKept K s0 s → RegsKept K s0 (f s t)) : RegsKept K s0 (onSides onA onB f s) := by
  have h1 := (hf s .a h).ite (c := onA = true) h
  exact (hf _ .b h1).ite h1

section
variable (hK : EdgeOpen K)
include hK

/-! Trips. -/

theorem edgeKept_latchIn (h : RegsKept K s0 s) (t : Twin) (i : Fin 8) : RegsKept K s0 (latchIn s t i.val) := by
  unfold latchIn
  extract_lets s1
  have h1 : RegsKept K s0 s1 := h.evi (hK.addr (by decide)) i.val
  exact h1.ite (edgeKept_pairCnt hK ((h1.evi (hK.addr (by decide)) i.val).evi (hK.addr (by decide)) i.val) i.isLt (by simp))

theorem edgeKept_settleSoft (h : RegsKept K s0 s) (before : State) : RegsKept K s0 (settleSoft before s) := by
  refine edgeKept_settleAll hK (h.foldl fun s g _ hs => RegsKept.ite ?_ hs)
  exact (hs.modOut _ _).onLive fun _ _ hs => hs.evi (hK.addr (by decide)) g

theorem edgeKept_sideDiff (h : RegsKept K s0 s) (t : Twin) (inO scO : Nat) : RegsKept K s0 (sideDiff s t inO scO) :=
  h.ite (((h.wf (hK.addr (by decide)) _).wf (hK.addr (by decide)) _).ev (hK.addr (by decide)))

theorem edgeKept_tripClear (h : RegsKept K s0 s) (ins scs active above : Nat) :
    RegsKept K s0 (tripClear s ins scs active above) := by
  unfold tripClear
  extract_lets x0 s1 latIn latSc refused s2 okIn okSc s3
  have h1 : RegsKept K s0 s1 := h.onBoth fun _ _ hs => (hs.wf (hK.addr (by decide)) _).wf (hK.addr (by decide)) _
  have h2 : RegsKept K s0 s2 := ((h1.onBoth fun _ _ hs => hs.ev (hK.addr (by decide))).say _).ite h1
  have h3 : RegsKept K s0 s3 := h2.onBoth fun _ _ hs => (hs.wf (hK.addr (by decide)) _).wf (hK.addr (by decide)) _
  exact edgeKept_settleAll hK (h3.foldl fun _ k _ hs => hs.keepHold x0 k)

theorem edgeKept_latchSc (h : RegsKept K s0 s) (t : Twin) (k : Fin 8) : RegsKept K s0 (latchSc s t k.val) := by
  unfold latchSc
  extract_lets s1
  have h1 : RegsKept K s0 s1 := (h.evi (hK.addr (by decide)) k.val).clri (hK.addr (by decide)) k.val
  exact h1.ite (edgeKept_pairCnt hK ((h1.evi (hK.addr (by decide)) k.val).evi (hK.addr (by decide)) k.val) k.isLt (by simp))

theorem edgeKept_scTrip (h : RegsKept K s0 s) (k : Fin 8) (onA onB : Bool) : RegsKept K s0 (scTrip s k.val onA onB) :=
  edgeKept_settleSoft hK (h.onSides onA onB fun _ t hs => edgeKept_latchSc hK hs t k) s

end

theorem execCompareEvent_outside (h : RegsOk s) (p : Fin 8) (i : Fin 4) : OutOutside l s (execCompareEvent p i s) := by
  have h0 : OutsideKept l s s := RegsKept.refl h
  exact (h0.modPwm p.val _).ite h0

section
variable (hK : EdgeOpen (fun a => inside l a = false)) (h : RegsOk s)
include hK h

/-! PWM. -/

theorem execSharedPinSwitch_outside (t : Twin) : OutOutside l s (execSharedPinSwitch t s) := by
  have h0 : OutsideKept l s s := RegsKept.refl h
  exact RegsKept.ite (h0.ite (edgeKept_takePins hK (h0.ilk _))) h0

theorem execReloadCutoff_outside (p : Fin 8) : OutOutside l s (execReloadCutoff p s) := by
  have h0 : OutsideKept l s s := RegsKept.refl h
  unfold execReloadCutoff
  extract_lets x
  split
  · exact h0.ite ((edgeKept_commitSet hK h0 p.val _).modPwm p.val _)
  · exact h0

theorem execReload_outside (hrate : inside l R.NEG_RATE = true) (p : Fin 8) (kind : Fin 3) :
    OutOutside l s (execReload p kind s) := by
  have h0 : OutsideKept l s s := RegsKept.refl h
  have hnow := edgeKept_reloadNow hK (not_outside hrate) h0 p.isLt
  have hevent := edgeKept_reloadEvent hK (not_outside hrate) h0 p.isLt
  exact h0.ite (RegsKept.ite (hnow.ite h0) (RegsKept.ite ((hevent false).ite h0) ((hevent true).ite h0)))

theorem execPeriodBoundary_outside (p : Fin 8) : OutOutside l s (execPeriodBoundary p s) := by
  have h0 : OutsideKept l s s := RegsKept.refl h
  refine h0.ite (edgeKept_levelsAt hK (RegsKept.foldl ?_ fun _ g _ hs => (hs.leaveHold _).ite hs) p.isLt _)
  exact ((h0.modPwm p.val _).modPwm p.val _).leaveHold p.val

theorem execPwmEdge_outside (gd : Bool) (p : Fin 8) (outB rise : Bool) : OutOutside l s (execPwmEdge gd p outB rise s) := by
  have h0 : OutsideKept l s s := RegsKept.refl h
  have hp := p.isLt
  unfold execPwmEdge
  split
  · exact (edgeKept_settlePair hK (h0.modGen p.val _) (by omega)).ite h0
  · exact (edgeKept_settlePair hK (h0.keep (signalTo_keeps (Keeps.refl _ s) p.val outB rise _ id)) (by omega)).ite h0

theorem execDeadTimeEnd_outside (k : Fin 16) (outB : Bool) : OutOutside l s (execDeadTimeEnd k outB s) := by
  have h0 : OutsideKept l s s := RegsKept.refl h
  have h1 : OutsideKept l s (endTied s k.val outB) := h0.foldl fun _ g _ hs => (hs.modOut _ _).ite hs
  exact edgeKept_settlePair hK ((h1.ite h0).modOut k.val _) k.isLt

theorem execPwmForce_outside (tg : Target) (p : Fin 8) (fa fb : Fin 4) (atB : Bool) :
    OutOutside l s (execPwmForce tg p fa fb atB s) := by
  have hp : p.val < 16 := by omega
  refine (RegsKept.refl h).agreedOnly tg fun s1 h1 => RegsKept.ite (h1.say _) ?_
  refine edgeKept_settlePair hK (RegsKept.modPwm (h1.onLive fun _ _ hs => ?_) _ _) hp
  exact ((hs.wf (open_pf hK hp R.PWM_P_FORCE_FA (by decide)) _).wf (open_pf hK hp R.PWM_P_FORCE_FB (by decide)) _).wf
    (open_pf hK hp R.PWM_P_FORCE_AT_BOUNDARY (by decide)) _

theorem execDtLock_outside (tg : Target) : OutOutside l s (execDtLock tg s) := by
  have hlock : ∀ s1 u, OutsideKept l s s1 → OutsideKept l s (dtLock s1 u) := fun _ _ hs => hs.wf (hK.addr (by decide)) _
  have h1 : OutsideKept l s (say s Rc.OK) := (RegsKept.refl h).say _
  cases tg with
  | both => exact h1.onLive hlock
  | one t => exact hlock _ t h1

/-! Gate drives. -/

theorem execGeneratorBoundary_outside (g : Fin 8) (settled : Bool) : OutOutside l s (execGeneratorBoundary g settled s) := by
  have h0 : OutsideKept l s s := RegsKept.refl h
  unfold execGeneratorBoundary
  extract_lets go x
  have hgo : ∀ s1, OutsideKept l s s1 → ∀ per on, OutsideKept l s (go s1 per on) := fun _ hs _ _ =>
    edgeKept_settlePair hK ((hs.modGen g.val _).leaveHold _) (by omega)
  refine RegsKept.ite ((hgo s h0 _ _).ite h0) ?_
  split
  · exact hgo s h0 _ _
  · exact h0.ite ((hgo _ (h0.modGen g.val _) _ _).ite (hgo s h0 _ _))

theorem execGateUvlo_outside (g : Fin 8) (neg : Bool) : OutOutside l s (execGateUvlo g neg s) := by
  have h0 : OutsideKept l s s := RegsKept.refl h
  have hflag : ¬ inside l (gf (if neg then R.GD_P_STATUS_UV_N else R.GD_P_STATUS_UV_P) g.val).addr = false :=
    open_gf hK (by omega) _ (by split <;> decide)
  refine h0.ite (edgeKept_settlePair hK (RegsKept.modGen (h0.onLive fun s1 t hs => ?_) g.val _) (by omega))
  extract_lets s2 s3
  have h1 : OutsideKept l s s3 := (hs.wf hflag 1).keep (modTwn_keeps (Keeps.refl _ s2) t _ id)
  exact (edgeKept_pairCnt hK h1 g.isLt (by simp)).evi (hK.addr (by decide)) g.val

theorem execUvloRecover_outside (g : Fin 8) (neg : Bool) : OutOutside l s (execUvloRecover g neg s) := by
  have hflag : ¬ inside l (gf (if neg then R.GD_P_STATUS_UV_N else R.GD_P_STATUS_UV_P) g.val).addr = false :=
    open_gf hK (by omega) _ (by split <;> decide)
  have h1 : OutsideKept l s (onLive (fun s t => wf s t
      (gf (if neg then R.GD_P_STATUS_UV_N else R.GD_P_STATUS_UV_P) g.val) 0) s) :=
    (RegsKept.refl h).onLive fun _ _ hs => hs.wf hflag 0
  exact (edgeKept_settlePair hK ((h1.modGen g.val _).modOut _ _) (by omega)).ite h1

theorem execBootstrapRefresh_outside (r : RefreshPoint) : OutOutside l s (execBootstrapRefresh r s) := by
  have h0 : OutsideKept l s s := RegsKept.refl h
  have hset : ∀ f, OutsideKept l s (settlePair (modGen s r.pair.val f) (8 + r.pair.val)) := fun f =>
    edgeKept_settlePair hK (h0.modGen r.pair.val f) (by omega)
  exact RegsKept.ite ((hset _).ite h0) ((hset _).ite h0)

theorem execForcedRefresh_outside (g : Fin 8) : OutOutside l s (execForcedRefresh g s) := by
  have h0 : OutsideKept l s s := RegsKept.refl h
  refine RegsKept.ite (edgeKept_settlePair hK (RegsKept.modGen (h0.onLive fun _ _ hs => ?_) g.val _) (by omega)) h0
  exact (hs.wf (open_gf hK (by omega) R.GD_P_STATUS_UV_BST (by decide)) 1).evi (hK.addr (by decide)) _

theorem execForcedRefreshEnd_outside (g : Fin 8) : OutOutside l s (execForcedRefreshEnd g s) := by
  have h0 : OutsideKept l s s := RegsKept.refl h
  have h1 : OutsideKept l s (onLive (fun s t => wf s t (gf R.GD_P_STATUS_UV_BST g.val) 0) s) :=
    h0.onLive fun _ _ hs => hs.wf (open_gf hK (by omega) R.GD_P_STATUS_UV_BST (by decide)) 0
  exact (edgeKept_settlePair hK ((h1.modGen g.val _).modOut _ _) (by omega)).ite h0

theorem execGpbRun_outside (tg : Target) : OutOutside l s (execGpbRun tg s) := by
  refine (RegsKept.refl h).agreedOnly tg fun s1 h1 => (h1.say _).ite ?_
  have h2 : OutsideKept l s (onLive (fun s t => wf s t R.GD_GPB_RUN 1) s1) :=
    h1.onLive fun _ _ hs => hs.wf (hK.addr (by decide)) 1
  exact (h2.keep (modEdge_keeps (Keeps.refl _ _) _ id)).ite h2

/-! Trips and sense inputs. -/

theorem execTripLatch_outside (i : Fin 8) (onA onB : Bool) : OutOutside l s (execTripLatch i onA onB s) := by
  have h0 : OutsideKept l s s := RegsKept.refl h
  have h1 := (edgeKept_latchIn hK h0 .a i).ite (c := onA = true) h0
  exact edgeKept_settleAll hK ((edgeKept_latchIn hK h1 .b i).ite h1)

theorem execTripSideDiff_outside : OutOutside l s (execTripSideDiff s) :=
  edgeKept_settleSoft hK (edgeKept_sideDiff hK (edgeKept_sideDiff hK (RegsKept.refl h) .a _ _) .b _ _) s

theorem execTripClear_outside (ins scs active above : Byte) : OutOutside l s (execTripClear ins scs active above s) :=
  edgeKept_tripClear hK ((RegsKept.refl h).say _) _ _ _ _

theorem execTripLock_outside (tg : Target) : OutOutside l s (execTripLock tg s) := by
  have hlock : ∀ s1 u, OutsideKept l s s1 → OutsideKept l s (tripLock s1 u) := fun _ _ hs => hs.wf (hK.addr (by decide)) _
  have h1 : OutsideKept l s (say s Rc.OK) := (RegsKept.refl h).say _
  cases tg with
  | both => exact h1.onLive hlock
  | one t => exact hlock _ t h1

theorem execDsnTh2_outside (d : DsnPoint) : OutOutside l s (execDsnTh2 d s) :=
  edgeKept_scTrip hK (RegsKept.refl h) d.chan _ _

theorem execDsnTh1_outside (d : DsnPoint) : OutOutside l s (execDsnTh1 d s) := by
  have h0 : OutsideKept l s s := RegsKept.refl h
  refine RegsKept.ite (h0.onSides _ _ fun _ _ hs => ?_) (edgeKept_scTrip hK h0 d.chan _ _)
  exact (hs.evi (hK.addr (by decide)) _).evi (hK.addr (by decide)) _

theorem execDsnBlankingEnd_outside (k : Fin 8) (above : Bool) : OutOutside l s (execDsnBlankingEnd k above s) := by
  unfold execDsnBlankingEnd
  extract_lets early trips s1 s2
  have h1 : OutsideKept l s s1 := (RegsKept.refl h).modOut _ _
  have h2 : OutsideKept l s s2 := h1.onSides _ _ fun _ _ hs =>
    ((hs.clri (hK.addr (by decide)) _).clri (hK.addr (by decide)) _).evi (hK.addr (by decide)) _
  exact (edgeKept_scTrip hK h2 k _ _).ite h2

theorem execSoftTurnOffEnd_outside (g : Fin 8) : OutOutside l s (execSoftTurnOffEnd g s) :=
  edgeKept_settlePair hK ((RegsKept.refl h).modOut _ _) (by omega)

end

end Sys2Proof.Machine

/-! The commands of the drive work on its own block, and the sequencer's outputs on the power edge's too (O10). -/

namespace Sys2Proof.Machine

variable {K : Nat → Prop} {l : List Nat} {s0 s s' : State} {t : Twin}

theorem RegsKept.onComputing {f : State → Twin → State} (h : RegsKept K s0 s)
    (hf : ∀ s t, RegsKept K s0 s → RegsKept K s0 (f s t)) : RegsKept K s0 (onComputing f s) :=
  h.onBoth fun s t hs => (hf s t hs).ite hs

theorem RegsKept.onTarget {f : State → Twin → State} (h : RegsKept K s0 s) (tg : Target)
    (hf : ∀ s t, RegsKept K s0 s → RegsKept K s0 (f s t)) : RegsKept K s0 (onTarget tg f s) := by
  cases tg with
  | both => exact h.onBoth hf
  | one t => exact hf s t h

theorem RegsKept.modDrv (h : RegsKept K s0 s) (t : Twin) (f : DrvSt → DrvSt) : RegsKept K s0 (modDrv s t f) :=
  h.keep (modDrv_keeps (Keeps.refl _ s) t f id)

theorem RegsKept.modChan (h : RegsKept K s0 s) (t : Twin) (d : Nat) (f : DrvCh → DrvCh) : RegsKept K s0 (modChan s t d f) :=
  h.modDrv t _

theorem RegsKept.modPos (h : RegsKept K s0 s) (t : Twin) (f : PosSt → PosSt) : RegsKept K s0 (modPos s t f) := h.modDrv t _

theorem RegsKept.feedStop (h : RegsKept K s0 s) (t : Twin) (v : Bool) : RegsKept K s0 (feedStop s t v) :=
  h.keep (feedStop_keeps (Keeps.refl _ s) t v id)

theorem RegsKept.catchStart (h : RegsKept K s0 s) (t : Twin) (d : Nat) : RegsKept K s0 (catchStart s t d) := h.modChan t d _

/-- The words of the drive's block are free to change. -/
abbrev DrvOpen (K : Nat → Prop) : Prop := Open 0x1800000 0x1900000 K

theorem drvOpen_outside (h : 18 ∈ l) : DrvOpen (fun a => inside l a = false) := fun _ ha ha' =>
  not_outside (inside_of_blockOf (blockOf_between (by decide) (by decide) (by decide) (by decide) ha ha') h)

/-- The drive's counters have their overflow flags in its block (R8). -/
theorem ovf_drvCounters : (∀ d : Fin 2, ∀ a ∈ [R.DRV_D_OBS_LOSSES, R.DRV_D_ASCS, R.DRV_D_CATCHES, R.DRV_D_TMON_VIOL],
    (0x1800000 ≤ a + 256 * d.val ∧ a + 256 * d.val < 0x1900000) ∧
    ((counterOvf (a + 256 * d.val)).all fun q => decide (0x1800000 ≤ q.1 ∧ q.1 < 0x1900000)) = true) ∧
    ∀ a ∈ [R.DRV_SPILLS, R.DRV_SPILL_TRIPS, R.DRV_ENC_ERR, R.DRV_HALL_ERR], (0x1800000 ≤ a ∧ a < 0x1900000) ∧
    ((counterOvf a).all fun q => decide (0x1800000 ≤ q.1 ∧ q.1 < 0x1900000)) = true := by
  decide +kernel

section
variable (hK : DrvOpen K)
include hK

/-- A field of a drive channel. -/
theorem open_df (d : Fin 2) (f : Fld) (hf : 0x1800000 ≤ f.addr ∧ f.addr + 0x1000 < 0x1900000) : ¬ K (df f d.val).addr :=
  hK.unit hf (by omega)

theorem drvKept_chanCnt (h : RegsKept K s0 s) (t : Twin) (d : Fin 2) {a : Nat}
    (ha : a ∈ [R.DRV_D_OBS_LOSSES, R.DRV_D_ASCS, R.DRV_D_CATCHES, R.DRV_D_TMON_VIOL]) :
    RegsKept K s0 (cnt s t (a + 256 * d.val)) :=
  have hc := ovf_drvCounters.1 d a ha
  hK.counted h hc.1 hc.2

theorem drvKept_cnt (h : RegsKept K s0 s) (t : Twin) {a : Nat}
    (ha : a ∈ [R.DRV_SPILLS, R.DRV_SPILL_TRIPS, R.DRV_ENC_ERR, R.DRV_HALL_ERR]) : RegsKept K s0 (cnt s t a) :=
  have hc := ovf_drvCounters.2 a ha
  hK.counted h hc.1 hc.2

/-! Channel states (R209, R210). -/

theorem drvKept_chEnter (h : RegsKept K s0 s) (t : Twin) (d : Fin 2) (st : Nat) (reason : Option Nat) :
    RegsKept K s0 (chEnter s t d.val st reason) := by
  unfold chEnter
  extract_lets held s1 s2 s3 s4
  have h1 : RegsKept K s0 s1 := h.wf (open_df hK d R.DRV_D_STATE_STATE (by decide)) _
  have h2 : RegsKept K s0 s2 := by
    unfold s2
    split
    · exact (h1.wf (open_df hK d R.DRV_D_STATE_REASON (by decide)) _).modChan t d.val _
    · exact h1
  have h3 : RegsKept K s0 s3 := h2.modChan t d.val _
  have h4 : RegsKept K s0 s4 :=
    (drvKept_chanCnt hK h3 t d (by simp)).ev (open_df hK d R.DRV_D_EVENT_ASC (by decide))
  exact ((h3.modChan t d.val _).catchStart t d.val).ite ((h3.modChan t d.val _).ite ((h4.modChan t d.val _).ite h3))

theorem drvKept_noteLoss (h : RegsKept K s0 s) (t : Twin) (d : Fin 2) : RegsKept K s0 (noteLoss s t d.val) :=
  (drvKept_chanCnt hK (h.ev (open_df hK d R.DRV_D_EVENT_OBS_LOST (by decide))) t d (by simp)).modChan t d.val _

/-- Whichever row of the transition table applies, the channel at most enters a state. -/
theorem drvKept_firstRow (h : RegsKept K s0 s) (t : Twin) (d : Fin 2) (loss : Bool) :
    RegsKept K s0 (firstRow s t d.val loss) := by
  have henter : ∀ {s1}, RegsKept K s0 s1 → ∀ st reason, RegsKept K s0 (chEnter s1 t d.val st reason) := fun hs =>
    drvKept_chEnter hK hs t d
  have hdone : ∀ f, RegsKept K s0 (ev (cnt (modChan s t d.val f) t (R.DRV_D_CATCHES + 256 * d.val)) t
      (df R.DRV_D_EVENT_CATCH_DONE d.val)) := fun f =>
    (drvKept_chanCnt hK (h.modChan t d.val f) t d (by simp)).ev (open_df hK d R.DRV_D_EVENT_CATCH_DONE (by decide))
  unfold firstRow
  extract_lets
  exact (h.ite (henter h _ _)).ite <| (henter h _ _).ite <| (henter h _ _).ite <| (henter h _ _).ite <|
    (henter h _ _).ite <| (henter h _ _).ite <| (henter h _ _).ite <| (henter (hdone _) _ _).ite <|
    (henter (h.modChan t d.val _) _ _).ite <| (henter h _ _).ite <| (henter h _ _).ite <|
    (henter (h.modChan t d.val _) _ _).ite <| (henter h _ _).ite <| (henter h _ _).ite <| (henter h _ _).ite <|
    (henter h _ _).ite h

theorem drvKept_transition (h : RegsKept K s0 s) (t : Twin) (d : Fin 2) : RegsKept K s0 (transition s t d.val) :=
  (drvKept_firstRow hK (drvKept_noteLoss hK h t d) t d true).ite (drvKept_firstRow hK h t d false)

/-! Spillway (R229). -/

theorem drvKept_raiseStage (h : RegsKept K s0 s) (t : Twin) (n : Nat) : RegsKept K s0 (raiseStage s t n) :=
  (h.wf (hK.addr (by decide)) _).ite h

theorem drvKept_stage2 (h : RegsKept K s0 s) (t : Twin) : RegsKept K s0 (stage2 s t) := by
  unfold stage2
  extract_lets s1
  have h1 : RegsKept K s0 s1 := (drvKept_raiseStage hK (h.ev (hK.addr (by decide))) t 2).modDrv t _
  exact h.ite (((drvKept_raiseStage hK h1 t 3).modDrv t _).ite (h1.ev (hK.addr (by decide))))

theorem drvKept_disEnd (h : RegsKept K s0 s) (t : Twin) (next : Nat) (kept : Bool) : RegsKept K s0 (disEnd s t next kept) :=
  ((h.modDrv t _).wf (hK.addr (by decide)) _).feedStop t _

end

/-! The sequencer's outputs (R206, R212, R228, R229). -/

/-- The pairs of a channel are the first six (R204). -/
theorem lt_of_mem_chanPairs {d p : Nat} (hp : p ∈ chanPairs s t d) : p < 6 := by
  unfold chanPairs at hp
  split at hp
  · split at hp <;> simp at hp <;> omega
  · simp at hp; omega
  · simp at hp; omega

theorem rf_lt (s : State) (t : Twin) (f : Fld) : rf s t f < 2 ^ (f.hi + 1 - f.lo) := Nat.mod_lt _ (Nat.two_pow_pos _)

theorem edgeKept_chanForces (hK : EdgeOpen K) (h : RegsKept K s0 s) (t : Twin) (d : Nat) :
    RegsKept K s0 (chanForces s t d) := by
  unfold chanForces
  extract_lets m upper qa qb
  refine h.foldl fun _ p hp hs => edgeKept_settlePair hK (hs.modPwm p _) ?_
  have := lt_of_mem_chanPairs hp
  omega

theorem edgeKept_chopperSet (hK : EdgeOpen K) (hrate : ¬ K R.NEG_RATE) (h : RegsKept K s0 s) (t : Twin) :
    RegsKept K s0 (chopperSet s t) :=
  h.ite ((edgeKept_armSet hK hrate h (rf_lt s t R.DRV_CFG_BRK_PWM) _ true).modDrv t _)

theorem edgeKept_dischargeGen (hK : EdgeOpen K) (h : RegsKept K s0 s) (t : Twin) : RegsKept K s0 (dischargeGen s t) := by
  have hg : rf s t R.DRV_CFG_DIS_GD < 8 := rf_lt s t R.DRV_CFG_DIS_GD
  exact (h.modGen _ _).ite ((edgeKept_settlePair hK (h.modGen _ _) (by omega)).ite h)

end Sys2Proof.Machine

/-! Each command of PWM, gate drives, trips and the drive, by the blocks that its row of the table names (O10). -/

namespace Sys2Proof.Machine

variable {l : List Nat} {s : State}

theorem execSequencerOutputApply_outside (hK : EdgeOpen (fun a => inside l a = false)) (hrate : inside l R.NEG_RATE = true)
    (h : RegsOk s) : OutOutside l s (execSequencerOutputApply s) := by
  have h1 : OutsideKept l s ((channels s (edgeTwin s)).foldl (fun s1 d => chanForces s1 (edgeTwin s) d) s) :=
    (RegsKept.refl h).foldl fun _ d _ hs => edgeKept_chanForces hK hs _ d
  exact edgeKept_dischargeGen hK (edgeKept_chopperSet hK (not_outside hrate) h1 _) _

section
variable (hK : DrvOpen (fun a => inside l a = false)) (h : RegsOk s)
include hK h

/-! Channels. -/

theorem execDriveEnable_outside (tg : Target) (v : Bool) : OutOutside l s (execDriveEnable tg v s) := by
  refine (RegsKept.refl h).agreedOnly tg fun s1 h1 => (h1.say _).ite ((h1.say _).onTarget tg fun s2 t h2 => ?_)
  have h3 : OutsideKept l s (wf s2 t R.DRV_CTRL_ENABLE (bit v)) := h2.wf (hK.addr (by decide)) _
  exact (h3.modDrv t _).ite h3

theorem execChannelRun_outside (tg : Target) (d : Fin 2) (v : Bool) : OutOutside l s (execChannelRun tg d v s) := by
  refine (RegsKept.refl h).agreedOnly tg fun s1 h1 => (h1.say _).ite ((h1.say _).onTarget tg fun s2 t h2 => ?_)
  have h3 : OutsideKept l s (wf s2 t (df R.DRV_D_CTRL_RUN d.val) (bit v)) := h2.wf (open_df hK d _ (by decide)) _
  exact h3.ite (h3.modChan t d.val _)

theorem execObserverLoss_outside (d : Fin 2) : OutOutside l s (execObserverLoss d s) :=
  (RegsKept.refl h).onComputing fun _ t hs => (drvKept_transition hK hs t d).ite hs

theorem execAscExit_outside (d : Fin 2) : OutOutside l s (execAscExit d s) :=
  (RegsKept.refl h).onComputing fun _ t hs => (drvKept_chEnter hK hs t d 5 none).ite hs

theorem execTmonEst_outside (t : Twin) (d : Fin 2) : OutOutside l s (execTmonEst t d s) := by
  have h0 : OutsideKept l s s := RegsKept.refl h
  exact (h0.ev (open_df hK d R.DRV_D_EVENT_TMON_EST (by decide))).ite h0

theorem execTmonCmd_outside (hsaf : inside l R.SAF_STATUS_INT.addr = true) (hev : inside l R.SAF_EVENT_INTERNAL.addr = true)
    (t : Twin) (d : Fin 2) : OutOutside l s (execTmonCmd t d s) := by
  have h0 : OutsideKept l s s := RegsKept.refl h
  unfold execTmonCmd
  extract_lets s1
  have h1 : OutsideKept l s s1 := h0.onLive fun _ u hs =>
    drvKept_chanCnt hK (hs.ev (open_df hK d R.DRV_D_EVENT_TMON_CMD (by decide))) u d (by simp)
  exact RegsKept.ite ((regsKept_demand h1 (not_outside hsaf) (not_outside hev) t 0).ite h1) h0

/-! Discharge and Spillway. -/

theorem execDischargeStart_outside : OutOutside l s (execDischargeStart s) :=
  (RegsKept.refl h).onComputing fun _ t hs => ((hs.modDrv t _).wf (hK.addr (by decide)) _).ite hs

theorem execDisRefused_outside : OutOutside l s (execDisRefused s) := by
  have h0 : OutsideKept l s s := RegsKept.refl h
  exact RegsKept.ite ((h0.say _).onComputing fun _ t hs => (drvKept_disEnd hK hs t _ _).ev (hK.addr (by decide))) h0

theorem execDisStuck_outside : OutOutside l s (execDisStuck s) :=
  (RegsKept.refl h).onComputing fun _ t hs => ((drvKept_disEnd hK hs t 0 false).ev (hK.addr (by decide))).ite hs

theorem execDisDone_outside : OutOutside l s (execDisDone s) := by
  refine (RegsKept.refl h).onComputing fun s1 t hs => RegsKept.ite ?_ hs
  exact drvKept_disEnd hK ((hs.ev (hK.addr (by decide))).wf (hK.addr (by decide)) _) t _ _

theorem execDisFail_outside : OutOutside l s (execDisFail s) :=
  (RegsKept.refl h).onComputing fun _ t hs => ((hs.modDrv t _).ev (hK.addr (by decide))).ite hs

theorem execDischargeEnd_outside : OutOutside l s (execDischargeEnd s) :=
  (RegsKept.refl h).onComputing fun _ t hs => (drvKept_disEnd hK hs t 0 false).ite hs

theorem execChopperFail_outside : OutOutside l s (execChopperFail s) := by
  refine (RegsKept.refl h).onComputing fun s1 t hs => RegsKept.ite ?_ hs
  exact drvKept_stage2 hK ((hs.ev (hK.addr (by decide))).wf (hK.addr (by decide)) _) t

theorem execStage2_outside : OutOutside l s (execStage2 s) :=
  (RegsKept.refl h).onComputing fun _ t hs => (drvKept_stage2 hK hs t).ite hs

theorem execSpillTrip_outside (hsaf : inside l R.SAF_STATUS_INT.addr = true)
    (hev : inside l R.SAF_EVENT_INTERNAL.addr = true) : OutOutside l s (execSpillTrip s) := by
  refine (RegsKept.refl h).onComputing fun s1 t hs => (hs.ite ?_).ite hs
  exact regsKept_demand (drvKept_cnt hK (((drvKept_raiseStage hK hs t 5).wf (hK.addr (by decide)) _).ev
    (hK.addr (by decide))) t (by simp)) (not_outside hsaf) (not_outside hev) t 3

theorem execSpillwayExit_outside : OutOutside l s (execSpillwayExit s) :=
  (RegsKept.refl h).onComputing fun _ t hs => ((hs.wf (hK.addr (by decide)) 0).modDrv t _).ite hs

theorem execClear_outside (tg : Target) : OutOutside l s (execClear tg s) :=
  (RegsKept.refl h).agreedOnly tg fun _ h1 => (h1.say _).ite ((h1.say _).onTarget tg fun _ _ h2 =>
    (h2.wf (hK.addr (by decide)) 0).wf (hK.addr (by decide)) 0)

/-! Position decoders. -/

theorem execEncoderCount_outside (a b z : Bool) (stamp : W64) : OutOutside l s (execEncoderCount a b z stamp s) := by
  refine (RegsKept.refl h).onLive fun s1 t hs => ?_
  have h1 : OutsideKept l s (wf s1 t R.DRV_ENC_STATUS_LEVELS (4 * bit z + 2 * bit b + bit a)) :=
    hs.wf (hK.addr (by decide)) _
  have herr := (drvKept_cnt hK h1 t (a := R.DRV_ENC_ERR) (by simp)).ev (t := t) (f := R.DRV_POS_EVENT_ENC_ERR)
    (hK.addr (by decide))
  exact h1.ite (herr.ite (h1.modPos t _))

theorem execEncoderIndex_outside : OutOutside l s (execEncoderIndex s) := by
  refine (RegsKept.refl h).onLive fun s1 t hs => ?_
  unfold encoderIndex
  extract_lets lv first mode s2 s3 s4
  have h2 : OutsideKept l s s2 := (hs.wr (hK.addr (by decide)) _).wf (hK.addr (by decide)) _
  have h4 : OutsideKept l s s4 := ((h2.modPos t _).ite h2).modPos t _
  exact hs.ite (((h4.wf (hK.addr (by decide)) 1).ev (hK.addr (by decide))).ite h4)

theorem execHallChange_outside (i : Fin 8) (stamp : W64) : OutOutside l s (execHallChange i stamp s) := by
  refine (RegsKept.refl h).onLive fun s1 t hs => ?_
  have herr : ∀ s2, OutsideKept l s s2 → OutsideKept l s (hallError s2 t) := fun _ h2 =>
    (drvKept_cnt hK h2 t (by simp)).ev (hK.addr (by decide))
  unfold hallStep
  extract_lets s2 old sec d s3
  have h2 : OutsideKept l s s2 := hs.wf (hK.addr (by decide)) _
  have h3 : OutsideKept l s s3 := (h2.wf (hK.addr (by decide)) _).modPos t _
  exact h2.ite ((herr _ (h2.wf (hK.addr (by decide)) 6)).ite (h3.ite ((h3.modPos t _).ite (herr _ h3))))

end

theorem edgeOpen_edge : EdgeOpen (fun a => inside [7, 8, 9] a = false) :=
  edgeOpen_outside (by decide) (by decide) (by decide)

theorem edgeOpen_rate : EdgeOpen (fun a => inside [6, 7, 8, 9] a = false) :=
  edgeOpen_outside (by decide) (by decide) (by decide)

theorem inside_rate : inside [6, 7, 8, 9] R.NEG_RATE = true := by decide

theorem drvOpen_drive : DrvOpen (fun a => inside [18] a = false) := drvOpen_outside (by decide)

theorem drvOpen_safety : DrvOpen (fun a => inside [14, 18] a = false) := drvOpen_outside (by decide)

/-- The law of each command's meaning, by the blocks that the table gives it. -/
theorem exec_edgeRow_outside {c : Instr} (h : RegsOk s) (hc : edgeRowBlocks c = some l) : OutOutside l s (exec c s) := by
  have h0 := fun l => RegsKept.refl (K := fun a => inside l a = false) h
  cases c with
  | sharedPinSwitch t => cases hc; exact execSharedPinSwitch_outside edgeOpen_edge h t
  | pwmStart tg p => cases hc; exact (h0 _).agreedOnly tg fun _ hs => edgeKept_pwmStart edgeOpen_edge hs p.isLt
  | pwmStop tg p => cases hc; exact (h0 _).agreedOnly tg fun _ hs => edgeKept_pwmStop edgeOpen_edge hs p.isLt
  | reloadCutoff p => cases hc; exact execReloadCutoff_outside edgeOpen_edge h p
  | periodBoundary p => cases hc; exact execPeriodBoundary_outside edgeOpen_edge h p
  | compareEvent p i => cases hc; exact execCompareEvent_outside h p i
  | pwmEdge gd p outB rise => cases hc; exact execPwmEdge_outside edgeOpen_edge h gd p outB rise
  | deadTimeEnd k outB => cases hc; exact execDeadTimeEnd_outside edgeOpen_edge h k outB
  | pwmForce tg p fa fb atB => cases hc; exact execPwmForce_outside edgeOpen_edge h tg p fa fb atB
  | dtLock tg => cases hc; exact execDtLock_outside edgeOpen_edge h tg
  | generatorBoundary g settled => cases hc; exact execGeneratorBoundary_outside edgeOpen_edge h g settled
  | gateUvlo g neg => cases hc; exact execGateUvlo_outside edgeOpen_edge h g neg
  | uvloRecover g neg => cases hc; exact execUvloRecover_outside edgeOpen_edge h g neg
  | bootstrapRefresh r => cases hc; exact execBootstrapRefresh_outside edgeOpen_edge h r
  | forcedRefresh g => cases hc; exact execForcedRefresh_outside edgeOpen_edge h g
  | forcedRefreshEnd g => cases hc; exact execForcedRefreshEnd_outside edgeOpen_edge h g
  | gpbRun tg => cases hc; exact execGpbRun_outside edgeOpen_edge h tg
  | tripLatch i onA onB => cases hc; exact execTripLatch_outside edgeOpen_edge h i onA onB
  | tripSideDiff => cases hc; exact execTripSideDiff_outside edgeOpen_edge h
  | tripClear ins scs active above => cases hc; exact execTripClear_outside edgeOpen_edge h ins scs active above
  | tripLock tg => cases hc; exact execTripLock_outside edgeOpen_edge h tg
  | dsnTh2 d => cases hc; exact execDsnTh2_outside edgeOpen_edge h d
  | dsnBlankingEnd k above => cases hc; exact execDsnBlankingEnd_outside edgeOpen_edge h k above
  | dsnTh1 d => cases hc; exact execDsnTh1_outside edgeOpen_edge h d
  | softTurnOffEnd g => cases hc; exact execSoftTurnOffEnd_outside edgeOpen_edge h g
  | pwmArm tg p =>
    cases hc
    exact (h0 _).agreedOnly tg fun _ hs => edgeKept_armSet edgeOpen_rate (not_outside inside_rate) hs p.isLt _ _
  | reload p kind => cases hc; exact execReload_outside edgeOpen_rate h inside_rate p kind
  | sequencerOutputApply => cases hc; exact execSequencerOutputApply_outside edgeOpen_rate inside_rate h
  | driveEnable tg v => cases hc; exact execDriveEnable_outside drvOpen_drive h tg v
  | channelRun tg d v => cases hc; exact execChannelRun_outside drvOpen_drive h tg d v
  | observerLoss d => cases hc; exact execObserverLoss_outside drvOpen_drive h d
  | ascExit d => cases hc; exact execAscExit_outside drvOpen_drive h d
  | tmonEst t d => cases hc; exact execTmonEst_outside drvOpen_drive h t d
  | dischargeStart => cases hc; exact execDischargeStart_outside drvOpen_drive h
  | disRefused => cases hc; exact execDisRefused_outside drvOpen_drive h
  | disStuck => cases hc; exact execDisStuck_outside drvOpen_drive h
  | disDone => cases hc; exact execDisDone_outside drvOpen_drive h
  | disFail => cases hc; exact execDisFail_outside drvOpen_drive h
  | dischargeEnd => cases hc; exact execDischargeEnd_outside drvOpen_drive h
  | chopperFail => cases hc; exact execChopperFail_outside drvOpen_drive h
  | stage2 => cases hc; exact execStage2_outside drvOpen_drive h
  | spillwayExit => cases hc; exact execSpillwayExit_outside drvOpen_drive h
  | clear tg => cases hc; exact execClear_outside drvOpen_drive h tg
  | encoderCount a b z stamp => cases hc; exact execEncoderCount_outside drvOpen_drive h a b z stamp
  | encoderIndex => cases hc; exact execEncoderIndex_outside drvOpen_drive h
  | hallChange i stamp => cases hc; exact execHallChange_outside drvOpen_drive h i stamp
  | xoHoldEnd d => cases hc; exact (h0 _).onComputing fun _ t hs => hs.modChan t d.val _
  | catchRetry d => cases hc; exact (h0 _).onComputing fun _ t hs => (hs.catchStart t d.val).ite hs
  | discharge tg =>
    cases hc
    exact (h0 _).agreedOnly tg fun _ hs => (hs.say _).onTarget tg fun _ t h1 => h1.ite ((h1.modDrv t _).feedStop t true)
  | tmonCmd t d => cases hc; exact execTmonCmd_outside drvOpen_safety h (by decide) (by decide) t d
  | spillTrip => cases hc; exact execSpillTrip_outside drvOpen_safety h (by decide) (by decide)
  | _ => cases hc

/-- Settles O10: a word outside a command's blocks is among those its meaning keeps. -/
theorem edgeAndDriveRowsKeepOtherRegisters : Obligations.EdgeAndDriveRowsKeepOtherRegisters := by
  intro c l s u t a h hc hu ha
  have hk := exec_edgeRow_outside h hc
  rw [hu] at hk
  exact hk.same t a (inside_eq_false ha)

end Sys2Proof.Machine

/-! The statement on the drive channels (O39) is false: it lets any number stand for the node that a graph binds to a role of
a channel. The sequencer of the twin that comes first then writes its torque scale over that twin's SAF_STATUS, whose STO bit
stops the channels of both twins. -/

namespace Sys2Proof.Machine

/-- Channel 0 of the twin runs and is in the first phase of its polarity test, safe torque off not in force. -/
def inPolarityTest (s : State) (t : Twin) : State :=
  let s := wf (wf (wf s t R.DRV_CFG_TOPO 1) t R.DRV_CTRL_ENABLE 1) t (df R.DRV_D_CTRL_RUN 0) 1
  let s := wf (wf s t (df R.DRV_D_STATE_STATE 0) 2) t R.SAF_STATUS_STO 0
  modDrv s t (fun x => { x with ch := [(0, { phase := 2, mode := 1 })] })

/-- Both twins are in the polarity test, twin A leading. Its graph binds channel 0's torque scale to a node numbered
0x3E0008, whose word is SAF_STATUS, and in that scale the bit is set that stands at STO's place. -/
def scaleAtFarNode : State :=
  let s := onBoth inPolarityTest (wf (wf State.reset .a R.TWN_STATE_STATE tsLeading) .b R.TWN_STATE_STATE tsFollowing)
  modLaw (wr s .a R.DRV_D_TQ_SCALE 0x02000000#32) .a
    (fun l => { l with img := some { (default : GraphImg) with binds := [⟨4, 0, roTqScale, 0x3E0008⟩] } })

theorem regsOk_scaleAtFarNode : RegsOk scaleAtFarNode := fun t => by cases t <;> decide +kernel

/-- Twin A's outputs put safe torque off in force, and twin B's catch ends. -/
theorem phase_execPolarityTest_scaleAtFarNode {u : State} (h : execPolarityTest 0 scaleAtFarNode = .next u) :
    (chan u .b 0).phase = 0 := by
  cases h
  decide +kernel

/-- Refutes O39: after POLARITY_TEST twin B's channel is in no phase of a catch, where the statement has it in the next phase
of the polarity test. -/
theorem not_driveChannelCommandsComplete : ¬ Obligations.DriveChannelCommandsComplete := by
  rintro ⟨-, -, -, -, -, -, -, -, hpolarity, -⟩
  obtain ⟨u, hu, hphase, -⟩ := hpolarity scaleAtFarNode .b 0 regsOk_scaleAtFarNode (by decide +kernel) (by decide +kernel)
    (by decide +kernel) (by decide +kernel) (by decide +kernel) (by decide +kernel) (by decide +kernel) (by decide +kernel)
    (by decide +kernel) (by decide +kernel) (.inl (by decide +kernel))
  have hbefore : (chan scaleAtFarNode .b 0).phase = 2 := by decide +kernel
  have hafter := phase_execPolarityTest_scaleAtFarNode hu
  exact absurd (hafter.symm.trans (hphase.trans (congrArg (· + 1) hbefore))) (by decide)

end Sys2Proof.Machine

/-! A twin's drive state under the operations of 06_drive_control (O40; R227 to R234). -/

namespace Sys2Proof.Machine

variable {s s' : State} {t u : Twin} {f : State → Twin → State} {Q : State → Prop}

/-! What is done in each twin, seen from one of them. -/

/-- The parts of a twin that its drive control reads and changes. -/
def IsDrive (t : Twin) (p : Part) : Prop := p = .tw t .regs ∨ p = .tw t .arr ∨ p = .tw t .law ∨ p = .tw t .drv

theorem not_isDrive_other (t : Twin) (g : TwinField) : ¬ IsDrive t.other (.tw t g) := by simp [IsDrive]

theorem not_isDrive_twn (t u : Twin) : ¬ IsDrive t (.tw u .twn) := by simp [IsDrive]

/-- The parts of a twin that its drive control reads are in `s'` as in `s`. -/
structure DriveSame (t : Twin) (s s' : State) : Prop where
  regs : (s'.tw t).regs = (s.tw t).regs
  arr : (s'.tw t).arr = (s.tw t).arr
  law : (s'.tw t).law = (s.tw t).law
  drv : (s'.tw t).drv = (s.tw t).drv

theorem DriveSame.of_tw (h : s'.tw t = s.tw t) : DriveSame t s s' := by constructor <;> rw [h]

theorem Keeps.driveSame (h : Keeps (IsDrive t) s s') : DriveSame t s s' :=
  ⟨h.same (.tw t .regs) (by simp [IsDrive]), h.same (.tw t .arr) (by simp [IsDrive]),
    h.same (.tw t .law) (by simp [IsDrive]), h.same (.tw t .drv) (by simp [IsDrive])⟩

namespace DriveSame
variable (h : DriveSame t s s')
include h

theorem rd (a : Nat) : rd s' t a = Machine.rd s t a := rd_of_regs h.regs a
theorem rf (g : Fld) : rf s' t g = Machine.rf s t g := rf_congr h.regs g
theorem flag (g : Fld) : flag s' t g = Machine.flag s t g := by rw [Machine.flag, h.rf, ← Machine.flag]
theorem biti (g : Fld) (i : Nat) : biti s' t g i = Machine.biti s t g i := by rw [Machine.biti, h.rf, ← Machine.biti]
theorem twState : twState s' t = Machine.twState s t := h.rf _
theorem computing : computing s' t = Machine.computing s t := by simp only [Machine.computing, h.twState]
theorem stage : stage s' t = Machine.stage s t := h.rf _
theorem roleNode (d r : Nat) : roleNode s' t d r = Machine.roleNode s t d r := by
  simp only [Machine.roleNode, graph, h.law]
theorem role (d r : Nat) : role s' t d r = Machine.role s t d r := by
  simp only [Machine.role, h.roleNode, nodeVal, h.rd]
theorem vdc : vdc s' t = Machine.vdc s t := h.role _ _
theorem noFeed : noFeed s' t = Machine.noFeed s t := by simp only [Machine.noFeed, arrayRested, h.flag, h.rf, h.arr]
theorem discharging : discharging s' t = Machine.discharging s t := by simp only [Machine.discharging, h.drv]

end DriveSame

/-- Where what is done in one twin leaves the drive of the other alone, a twin finds its own as it was. -/
theorem onBoth_drive (hf : ∀ s v, Keeps (IsDrive v.other) s (f s v)) (s : State) (t : Twin) :
    ∃ s1, (RegsOk s → RegsOk s1) ∧ DriveSame t s s1 ∧ DriveSame t (f s1 t) (onBoth f s) := by
  cases t with
  | a => exact ⟨s, id, .of_tw rfl, (hf (f s .a) .b).driveSame⟩
  | b => exact ⟨f s .a, (hf s .a).regs, (hf s .a).driveSame, .of_tw rfl⟩

/-- A fact about a twin's drive holds after an operation on both where it holds of the twin's own. -/
theorem onBoth_sees (hf : ∀ s v, Keeps (IsDrive v.other) s (f s v)) (hQ : ∀ u u', DriveSame t u u' → Q u → Q u')
    (h : ∀ s1, (RegsOk s → RegsOk s1) → DriveSame t s s1 → Q (f s1 t)) : Q (onBoth f s) := by
  obtain ⟨s1, hok, h1, hu⟩ := onBoth_drive hf s t
  exact hQ _ _ hu (h s1 hok h1)

/-- The same of an operation on the twins that compute. -/
theorem onComputing_sees (hc : computing s t = true) (hf : ∀ s v, Keeps (IsDrive v.other) s (f s v))
    (hQ : ∀ u u', DriveSame t u u' → Q u → Q u')
    (h : ∀ s1, (RegsOk s → RegsOk s1) → DriveSame t s s1 → Q (f s1 t)) : Q (onComputing f s) :=
  onBoth_sees (fun s v => Keeps.dite (hf s v) (Keeps.refl _ s)) hQ fun s1 hok h1 => by
    rw [if_pos (by rwa [h1.computing])]
    exact h s1 hok h1

/-- The same of an operation on the twins out of RESET. -/
theorem onLive_sees (hr : twState s t ≠ tsReset) (hf : ∀ s v, Keeps (IsDrive v.other) s (f s v))
    (hQ : ∀ u u', DriveSame t u u' → Q u → Q u')
    (h : ∀ s1, (RegsOk s → RegsOk s1) → DriveSame t s s1 → Q (f s1 t)) : Q (onLive f s) :=
  onBoth_sees (fun s v => Keeps.dite (Keeps.refl _ s) (hf s v)) hQ fun s1 hok h1 => by
    rw [if_neg (by rwa [h1.twState])]
    exact h s1 hok h1

/-- An operation on the twins that compute is a row's whole effect. -/
theorem onComputing_next (hc : computing s t = true) (hf : ∀ s v, Keeps (IsDrive v.other) s (f s v))
    (hQ : ∀ u u', DriveSame t u u' → Q u → Q u')
    (h : ∀ s1, (RegsOk s → RegsOk s1) → DriveSame t s s1 → Q (f s1 t)) :
    ∃ u, (.next (onComputing f s) : Out) = .next u ∧ Q u := ⟨_, rfl, onComputing_sees hc hf hQ h⟩

/-- An operation on the twins out of RESET is a row's whole effect. -/
theorem onLive_next (hr : twState s t ≠ tsReset) (hf : ∀ s v, Keeps (IsDrive v.other) s (f s v))
    (hQ : ∀ u u', DriveSame t u u' → Q u → Q u')
    (h : ∀ s1, (RegsOk s → RegsOk s1) → DriveSame t s s1 → Q (f s1 t)) :
    ∃ u, (.next (onLive f s) : Out) = .next u ∧ Q u := ⟨_, rfl, onLive_sees hr hf hQ h⟩

theorem onComputing_report (hf : ∀ s t, (f s t).report = s.report) (s : State) : (onComputing f s).report = s.report :=
  onBoth_report (fun s t => by split; exacts [hf s t, rfl]) s

/-! Fields of a twin's registers under an event, a counter and the hidden state. -/

/-- Two fields that share no bit. -/
abbrev Apart (f g : Fld) : Prop := f.lo ≤ f.hi ∧ g.lo ≤ g.hi ∧ (g.addr ≠ f.addr ∨ f.hi < g.lo ∨ g.hi < f.lo)

theorem Apart.rf {f g : Fld} (h : Apart f g) (hs : RegsOk s) (v : Nat) : rf (wf s t f v) u g = Machine.rf s u g :=
  rf_wf_apart hs h.1 h.2.1 h.2.2 v

theorem Apart.flag {f g : Fld} (h : Apart f g) (hs : RegsOk s) (v : Nat) : flag (wf s t f v) u g = Machine.flag s u g := by
  rw [Machine.flag, h.rf hs, ← Machine.flag]

theorem rd_wf_ne (hs : RegsOk s) {a : Nat} {f : Fld} (ha : a ≠ f.addr) (v : Nat) : rd (wf s t f v) t a = rd s t a :=
  rd_wr_ne hs ha _

theorem flag_ev_same (hs : RegsOk s) (f : Fld) (h32 : f.hi < 32) (hl : f.lo = f.hi) : flag (ev s t f) t f = true :=
  flag_wf_same hs f h32 hl true

/-- A field other than a counter and its flag's word. -/
theorem rf_cnt_ne (hs : RegsOk s) {a : Nat} {g : Fld} (ha : g.addr ≠ a)
    (ho : ((counterOvf a).all fun p => p.1 != g.addr) = true) : rf (cnt s t a) t g = rf s t g := by
  rw [rf, cnt, cntBy]
  split
  · rw [rd_wr_ne hs ha, ← rf]
  · rw [rd_setOvf (RegsOk.wr hs _ _) (counterOvf_ne ho), rd_wr_ne hs ha, ← rf]

theorem rd_cnt_same (hs : RegsOk s) {a : Nat} (ha : (rd s t a).toNat < 4294967294) : rd (cnt s t a) t a = rd s t a + 1 :=
  rd_cntBy_of_lt hs (by omega)

theorem drv_modDrv (s : State) (t : Twin) (f : DrvSt → DrvSt) : ((modDrv s t f).tw t).drv = f (s.tw t).drv := by
  rw [modDrv, setTw_tw]

theorem rd_modDrv (s : State) (t : Twin) (f : DrvSt → DrvSt) (a : Nat) : rd (modDrv s t f) t a = rd s t a :=
  rd_of_regs (by rw [modDrv, setTw_tw]) a

theorem rf_modDrv (s : State) (t : Twin) (f : DrvSt → DrvSt) (g : Fld) : rf (modDrv s t f) t g = rf s t g :=
  rf_congr (by rw [modDrv, setTw_tw]) g

theorem flag_modDrv (s : State) (t : Twin) (f : DrvSt → DrvSt) (g : Fld) : flag (modDrv s t f) t g = flag s t g := by
  rw [flag, rf_modDrv, ← flag]

theorem regsOk_modDrv (hs : RegsOk s) (f : DrvSt → DrvSt) : RegsOk (modDrv s t f) :=
  (modDrv_keeps (P := fun _ => False) (Keeps.refl _ s) t f id).regs hs

theorem regsOk_feedStop (hs : RegsOk s) (v : Bool) : RegsOk (feedStop s t v) := regsOk_modArr hs _

theorem drv_feedStop (s : State) (t : Twin) (v : Bool) : ((feedStop s t v).tw t).drv = (s.tw t).drv := by
  rw [feedStop, modArr, setTw_tw]

theorem feedStop_feedStop (s : State) (t : Twin) (v : Bool) : ((feedStop s t v).tw t).arr.feedStop = v := by
  rw [feedStop, modArr, setTw_tw]

end Sys2Proof.Machine

/-! Discharge (O40; R227, R228). -/

namespace Sys2Proof.Machine

variable {s s' : State} {t : Twin}

/-! The end of a discharge. -/

theorem drv_disEnd (s : State) (t : Twin) (n : Nat) (k : Bool) :
    ((disEnd s t n k).tw t).drv = { (s.tw t).drv with dis := n, kept := k } := by
  rw [disEnd, drv_feedStop, wf_drv, drv_modDrv]

theorem feedStop_disEnd (s : State) (t : Twin) (n : Nat) (k : Bool) : ((disEnd s t n k).tw t).arr.feedStop = false :=
  feedStop_feedStop _ _ _

theorem regsOk_disEnd (hs : RegsOk s) (n : Nat) (k : Bool) : RegsOk (disEnd s t n k) :=
  regsOk_feedStop (RegsOk.wf (regsOk_modDrv hs _) _ _) _

theorem discharging_disEnd (hs : RegsOk s) (n : Nat) (k : Bool) : rf (disEnd s t n k) t R.DRV_STATUS_DISCHARGING = 0 := by
  rw [disEnd, feedStop, rf_modArr, rf_wf_same (regsOk_modDrv hs _) _ (by decide) (by decide)]
  rfl

theorem rf_disEnd_apart (hs : RegsOk s) {g : Fld} (hg : Apart R.DRV_STATUS_DISCHARGING g) (n : Nat) (k : Bool) :
    rf (disEnd s t n k) t g = rf s t g := by
  rw [disEnd, feedStop, rf_modArr, hg.rf (regsOk_modDrv hs _), rf_modDrv]

theorem disEnd_keepsOther (s : State) (t : Twin) (n : Nat) (k : Bool) : Keeps (IsDrive t.other) s (disEnd s t n k) :=
  disEnd_keeps (Keeps.refl _ s) t n k (not_isDrive_other t _) (not_isDrive_other t _) (not_isDrive_other t _)

/-- A discharge that ends with an event. -/
theorem disEnd_ev (hs : RegsOk s) (n : Nat) (k : Bool) {f : Fld} (hf : f.lo = f.hi ∧ f.hi < 32)
    (ha : Apart f R.DRV_STATUS_DISCHARGING) : ((ev (disEnd s t n k) t f).tw t).drv.dis = n ∧
      ((ev (disEnd s t n k) t f).tw t).arr.feedStop = false ∧ flag (ev (disEnd s t n k) t f) t f = true ∧
      rf (ev (disEnd s t n k) t f) t R.DRV_STATUS_DISCHARGING = 0 := by
  have hs1 : RegsOk (disEnd s t n k) := regsOk_disEnd hs n k
  refine ⟨?_, ?_, flag_ev_same hs1 f hf.2 hf.1, ?_⟩
  · rw [ev, wf_drv, drv_disEnd]
  · rw [ev, wf_arr, feedStop_disEnd]
  · rw [ev, ha.rf hs1, discharging_disEnd hs]

/-! The rows. -/

theorem execDischarge_requests (hc : computing s t = true) (hd : discharging s t = false) :
    ∃ u, exec (.discharge .both) s = .next u ∧ u.report = Rc.OK ∧ (u.tw t).drv.dis = 1 ∧ (u.tw t).arr.feedStop = true := by
  refine ⟨_, rfl, (onBoth_report (fun s v => ?_) _).trans rfl, onBoth_sees (t := t)
    (Q := fun u => (u.tw t).drv.dis = 1 ∧ (u.tw t).arr.feedStop = true) (fun s v => ?_) (fun u u' e => ?_) fun s1 _ h1 => ?_⟩
  · split
    · rfl
    · exact (setTw_report ..).trans (setTw_report ..)
  · exact Keeps.dite (Keeps.refl _ s) (feedStop_keeps (modDrv_keeps (Keeps.refl _ s) v _ (not_isDrive_other v _)) v true
      (not_isDrive_other v _))
  · rw [e.drv, e.arr]
    exact id
  · have hcond : ¬((!computing s1 t) = true ∨ discharging s1 t = true) := by
      rw [h1.computing, h1.discharging, computing, twState, rf_say, rf_say, ← twState, ← computing, hc, discharging, say_tw,
        say_tw, ← discharging, hd]
      decide
    rw [if_neg hcond]
    exact ⟨by rw [drv_feedStop, drv_modDrv], feedStop_feedStop _ _ _⟩

theorem execDischargeStart_starts (hs : RegsOk s) (hc : computing s t = true) (hd : (s.tw t).drv.dis = 1)
    (hn : noFeed s t = true) : ∃ u, exec .dischargeStart s = .next u ∧ (u.tw t).drv.dis = 2 ∧
      (u.tw t).drv.v0 = vdc s t ∧ rf u t R.DRV_STATUS_DISCHARGING = 1 := by
  refine onComputing_next hc (fun s v => ?_) (fun u u' e => ?_) fun s1 hok h1 => ?_
  · exact Keeps.dite (wf_keeps (modDrv_keeps (Keeps.refl _ s) v _ (not_isDrive_other v _)) v _ _ (not_isDrive_other v _))
      (Keeps.refl _ s)
  · rw [e.drv, e.rf]
    exact id
  · rw [if_pos ⟨h1.drv ▸ hd, h1.noFeed ▸ hn⟩, wf_drv, drv_modDrv, ← h1.vdc]
    exact ⟨rfl, rfl, rf_wf_same (regsOk_modDrv (hok hs) _) _ (by decide) (by decide) 1⟩

theorem execDisRefused_refuses (hs : RegsOk s) (hc : computing s t = true) (hd : (s.tw (asker s)).drv.dis = 1)
    (hn : noFeed s (asker s) = false) : ∃ u, exec .disRefused s = .next u ∧ u.report = Rc.ARRAY_FEEDING ∧
      (u.tw t).drv.dis = 0 ∧ (u.tw t).arr.feedStop = false ∧ flag u t R.DRV_EVENT_DIS_REFUSED = true := by
  have hsay : DriveSame t s (say s Rc.ARRAY_FEEDING) := .of_tw (say_tw ..)
  have hcode : exec .disRefused s = .next (onComputing
      (fun s t => ev (disEnd s t 0 (s.tw t).drv.kept) t R.DRV_EVENT_DIS_REFUSED) (say s Rc.ARRAY_FEEDING)) :=
    congrArg Host.Outcome.next (if_pos ⟨hd, by simp [hn]⟩)
  refine ⟨_, hcode, onComputing_report (fun s v => ?_) _, onComputing_sees (t := t)
    (Q := fun u => (u.tw t).drv.dis = 0 ∧ (u.tw t).arr.feedStop = false ∧ flag u t R.DRV_EVENT_DIS_REFUSED = true)
    (by rwa [hsay.computing]) (fun s v => ?_) (fun u u' e => ?_) fun s1 hok h1 => ?_⟩
  · simp [disEnd, feedStop, modArr, modDrv]
  · exact ev_keeps (disEnd_keepsOther s v _ _) v _ (not_isDrive_other v _)
  · rw [e.drv, e.arr, e.flag]
    exact id
  · obtain ⟨hdis, hfeed, hev, -⟩ := disEnd_ev (t := t) (f := R.DRV_EVENT_DIS_REFUSED) (hok ((regsOk_say _).2 hs)) 0
      (s1.tw t).drv.kept (by decide) (by decide)
    exact ⟨hdis, hfeed, hev⟩

theorem execDisStuck_stops (hs : RegsOk s) (hc : computing s t = true) (hd : (s.tw t).drv.dis = 2)
    (hv : F32.lt (vdc s t) (F32.mul 0x3F666666#32 (s.tw t).drv.v0) = false) : ∃ u, exec .disStuck s = .next u ∧
      (u.tw t).drv.dis = 0 ∧ flag u t R.DRV_EVENT_DIS_STUCK = true ∧ rf u t R.DRV_STATUS_DISCHARGING = 0 := by
  refine onComputing_next hc (fun s v => ?_) (fun u u' e => ?_) fun s1 hok h1 => ?_
  · exact Keeps.dite (ev_keeps (disEnd_keepsOther s v _ _) v _ (not_isDrive_other v _)) (Keeps.refl _ s)
  · rw [e.drv, e.flag, e.rf]
    exact id
  · rw [← h1.drv, ← h1.vdc] at hv
    obtain ⟨hdis, -, hev, hstatus⟩ := disEnd_ev (t := t) (f := R.DRV_EVENT_DIS_STUCK) (hok hs) 0 false (by decide) (by decide)
    rw [if_pos ⟨h1.drv ▸ hd, by simp [hv]⟩]
    exact ⟨hdis, hev, hstatus⟩

theorem execDisDone_ends (hs : RegsOk s) (hc : computing s t = true) (hd : (s.tw t).drv.dis = 2 ∨ (s.tw t).drv.dis = 4)
    (hv : F32.lt (vdc s t) 0x42700000#32 = true) : ∃ u, exec .disDone s = .next u ∧
      ((u.tw t).drv.dis = if flag s t R.DRV_DIS_KEEP_DIS_KEEP then 3 else 0) ∧
      (u.tw t).drv.kept = flag s t R.DRV_DIS_KEEP_DIS_KEEP ∧ rf u t R.DRV_STATUS_DISCHARGED = 1 ∧
      rf u t R.DRV_STATUS_DISCHARGING = 0 ∧ flag u t R.DRV_EVENT_DIS_DONE = true := by
  refine onComputing_next hc (fun s v => ?_) (fun u u' e => ?_) fun s1 hok h1 => ?_
  · exact Keeps.dite (disEnd_keeps (wf_keeps (ev_keeps (Keeps.refl _ s) v _ (not_isDrive_other v _)) v _ _
      (not_isDrive_other v _)) v _ _ (not_isDrive_other v _) (not_isDrive_other v _) (not_isDrive_other v _))
      (Keeps.refl _ s)
  · rw [e.drv, e.rf, e.rf, e.flag]
    exact id
  · have hs1 := hok hs
    have hs2 : RegsOk (ev s1 t R.DRV_EVENT_DIS_DONE) := regsOk_ev hs1 _
    have hs3 : RegsOk (wf (ev s1 t R.DRV_EVENT_DIS_DONE) t R.DRV_STATUS_DISCHARGED 1) := RegsOk.wf hs2 _ _
    have hkeep : flag (wf (ev s1 t R.DRV_EVENT_DIS_DONE) t R.DRV_STATUS_DISCHARGED 1) t R.DRV_DIS_KEEP_DIS_KEEP =
        flag s t R.DRV_DIS_KEEP_DIS_KEEP := by
      rw [Apart.flag (by decide) hs2, ev, Apart.flag (by decide) hs1, h1.flag]
    rw [if_pos ⟨h1.drv ▸ hd, h1.vdc ▸ hv⟩]
    dsimp only
    rw [hkeep]
    refine ⟨by rw [drv_disEnd], by rw [drv_disEnd], ?_, discharging_disEnd hs3 _ _, ?_⟩
    · rw [rf_disEnd_apart hs3 (by decide), rf_wf_same hs2 _ (by decide) (by decide)]
      rfl
    · rw [flag, rf_disEnd_apart hs3 (by decide), ← flag, Apart.flag (by decide) hs2,
        flag_ev_same hs1 _ (by decide) (by decide)]

theorem execDisFail_fails (hs : RegsOk s) (hc : computing s t = true) (hd : (s.tw t).drv.dis = 2)
    (hv : F32.lt (vdc s t) 0x42700000#32 = false) : ∃ u, exec .disFail s = .next u ∧ (u.tw t).drv.dis = 4 ∧
      flag u t R.DRV_EVENT_DIS_FAIL = true := by
  refine onComputing_next hc (fun s v => ?_) (fun u u' e => ?_) fun s1 hok h1 => ?_
  · exact Keeps.dite (ev_keeps (modDrv_keeps (Keeps.refl _ s) v _ (not_isDrive_other v _)) v _ (not_isDrive_other v _))
      (Keeps.refl _ s)
  · rw [e.drv, e.flag]
    exact id
  · rw [← h1.vdc] at hv
    rw [if_pos ⟨h1.drv ▸ hd, by simp [hv]⟩]
    exact ⟨by rw [ev, wf_drv, drv_modDrv], flag_ev_same (regsOk_modDrv (hok hs) _) _ (by decide) (by decide)⟩

theorem execDischargeEnd_ends (hs : RegsOk s) (hc : computing s t = true) (hd : (s.tw t).drv.dis = 4) :
    ∃ u, exec .dischargeEnd s = .next u ∧ (u.tw t).drv.dis = 0 ∧ rf u t R.DRV_STATUS_DISCHARGING = 0 ∧
      (u.tw t).arr.feedStop = false := by
  refine onComputing_next hc (fun s v => ?_) (fun u u' e => ?_) fun s1 hok h1 => ?_
  · exact Keeps.dite (disEnd_keepsOther s v _ _) (Keeps.refl _ s)
  · rw [e.drv, e.rf, e.arr]
    exact id
  · rw [if_pos (h1.drv ▸ hd), drv_disEnd]
    exact ⟨rfl, discharging_disEnd (hok hs) _ _, feedStop_disEnd _ _ _ _⟩

end Sys2Proof.Machine

/-! Spillway (O40; R229, R230). -/

namespace Sys2Proof.Machine

variable {s s' : State} {t : Twin}

/-! Stages. -/

theorem rf_raiseStage_apart (hs : RegsOk s) {g : Fld} (hg : Apart R.DRV_STATUS_SPILL g) (n : Nat) :
    rf (raiseStage s t n) t g = rf s t g := by
  unfold raiseStage
  split
  · exact hg.rf hs n
  · rfl

theorem rd_raiseStage_ne (hs : RegsOk s) {a : Nat} (ha : a ≠ R.DRV_STATUS_SPILL.addr) (n : Nat) :
    rd (raiseStage s t n) t a = rd s t a := by
  unfold raiseStage
  split
  · exact rd_wf_ne hs ha n
  · rfl

theorem regsOk_raiseStage (hs : RegsOk s) (n : Nat) : RegsOk (raiseStage s t n) := by
  unfold raiseStage
  split
  · exact RegsOk.wf hs _ _
  · exact hs

theorem drv_raiseStage (s : State) (t : Twin) (n : Nat) : ((raiseStage s t n).tw t).drv = (s.tw t).drv := by
  unfold raiseStage
  split
  · exact wf_drv ..
  · rfl

/-- A stage raised is the higher of the two. -/
theorem stage_raiseStage (hs : RegsOk s) {n : Nat} (hn : n < 8) : stage (raiseStage s t n) t = max (stage s t) n := by
  unfold raiseStage
  split
  next h =>
    rw [stage, rf_wf_same hs _ (by decide) (by decide), max_eq_right (Nat.le_of_lt h)]
    exact Nat.mod_eq_of_lt hn
  next h => rw [max_eq_left (Nat.le_of_not_lt h)]

/-- What stage 2 leaves in force where the limits do not fall yet. -/
structure StageTwo (s : State) (t : Twin) (s' : State) : Prop where
  falling : (s'.tw t).drv.falling = true
  stage : 2 ≤ stage s' t
  event : flag s' t R.DRV_EVENT_STAGE2 = true

theorem stage2_enters (hs : RegsOk s) (hf : (s.tw t).drv.falling = false) : StageTwo s t (stage2 s t) := by
  have hs1 : RegsOk (ev s t R.DRV_EVENT_STAGE2) := regsOk_ev hs _
  rw [stage2, if_neg (by simp [hf])]
  extract_lets s2
  have hs2 : RegsOk s2 := regsOk_modDrv (regsOk_raiseStage hs1 2) _
  have hfall : (s2.tw t).drv.falling = true := by rw [drv_modDrv]
  have hstage : 2 ≤ stage s2 t := by
    rw [stage, rf_modDrv, ← stage, stage_raiseStage hs1 (by decide)]
    exact le_max_right _ _
  have hev : flag s2 t R.DRV_EVENT_STAGE2 = true := by
    rw [flag_modDrv, flag, rf_raiseStage_apart hs1 (by decide), ← flag, flag_ev_same hs _ (by decide) (by decide)]
  split
  · refine ⟨by rw [drv_modDrv, drv_raiseStage, hfall], ?_, ?_⟩
    · rw [stage, rf_modDrv, ← stage, stage_raiseStage hs2 (by decide)]
      exact hstage.trans (le_max_left _ _)
    · rw [flag_modDrv, flag, rf_raiseStage_apart hs2 (by decide), ← flag, hev]
  · refine ⟨by rw [ev, wf_drv, hfall], ?_, ?_⟩
    · rwa [stage, ev, Apart.rf (by decide) hs2, ← stage]
    · rwa [ev, Apart.flag (by decide) hs2]

theorem falling_stage2 (s : State) (t : Twin) : ((stage2 s t).tw t).drv.falling = true := by
  unfold stage2
  split
  next h => exact h
  next =>
    extract_lets s2
    have hfall : (s2.tw t).drv.falling = true := by rw [drv_modDrv]
    split
    · rw [drv_modDrv, drv_raiseStage, hfall]
    · rw [ev, wf_drv, hfall]

/-- Stage 2 leaves the fields alone that are neither SPILL nor its events. -/
theorem rf_stage2_apart (hs : RegsOk s) {g : Fld} (hspill : Apart R.DRV_STATUS_SPILL g) (hev : Apart R.DRV_EVENT_STAGE2 g)
    (hskip : Apart R.DRV_EVENT_RETURN_SKIPPED g) : rf (stage2 s t) t g = rf s t g := by
  unfold stage2
  split
  · rfl
  · have hs1 : RegsOk (ev s t R.DRV_EVENT_STAGE2) := regsOk_ev hs _
    extract_lets s2
    have hs2 : RegsOk s2 := regsOk_modDrv (regsOk_raiseStage hs1 2) _
    have hg : rf s2 t g = rf s t g := by rw [rf_modDrv, rf_raiseStage_apart hs1 hspill, ev, hev.rf hs]
    split
    · rw [rf_modDrv, rf_raiseStage_apart hs2 hspill, hg]
    · rw [ev, hskip.rf hs2, hg]

/-! The rows. -/

theorem execChopperFail_latches (hs : RegsOk s) (hc : computing s t = true) (hst : 0 < stage s t)
    (hb : (roleNode s t 0 roIchop).isSome = true) (hd : F32.le 0x3E800000#32 (s.tw t).drv.duty = true)
    (hi : F32.lt (role s t 0 roIchop) (F32.mul (rd s t R.DRV_ICH_MIN) (s.tw t).drv.duty) = true) :
    ∃ u, exec .chopperFail s = .next u ∧ rf u t R.DRV_STATUS_CHOPPER_FAIL = 1 ∧
      flag u t R.DRV_EVENT_CHOPPER_FAIL = true ∧ (u.tw t).drv.falling = true := by
  refine onComputing_next hc (fun s v => ?_) (fun u u' e => ?_) fun s1 hok h1 => ?_
  · exact Keeps.dite (stage2_keeps (wf_keeps (ev_keeps (Keeps.refl _ s) v _ (not_isDrive_other v _)) v _ _
      (not_isDrive_other v _)) v (not_isDrive_other v _) (not_isDrive_other v _)) (Keeps.refl _ s)
  · rw [e.rf, e.flag, e.drv]
    exact id
  · have hs2 : RegsOk (ev s1 t R.DRV_EVENT_CHOPPER_FAIL) := regsOk_ev (hok hs) _
    have hs3 : RegsOk (wf (ev s1 t R.DRV_EVENT_CHOPPER_FAIL) t R.DRV_STATUS_CHOPPER_FAIL 1) := RegsOk.wf hs2 _ _
    rw [← h1.drv, ← h1.role, ← h1.rd] at hi
    rw [if_pos ⟨h1.stage ▸ hst, h1.roleNode .. ▸ hb, h1.drv ▸ hd, hi⟩]
    refine ⟨?_, ?_, falling_stage2 _ t⟩
    · rw [rf_stage2_apart hs3 (by decide) (by decide) (by decide), rf_wf_same hs2 _ (by decide) (by decide)]
      rfl
    · rw [flag, rf_stage2_apart hs3 (by decide) (by decide) (by decide), ← flag, Apart.flag (by decide) hs2,
        flag_ev_same (hok hs) _ (by decide) (by decide)]

theorem execStage2_enters (hs : RegsOk s) (hc : computing s t = true) (hst : 0 < stage s t)
    (hv : F32.le (rd s t R.DRV_VCH_HI) (vdc s t) = true) (hf : (s.tw t).drv.falling = false) :
    ∃ u, exec .stage2 s = .next u ∧ (u.tw t).drv.falling = true ∧ 2 ≤ stage u t ∧ flag u t R.DRV_EVENT_STAGE2 = true := by
  refine onComputing_next hc (fun s v => ?_) (fun u u' e => ?_) fun s1 hok h1 => ?_
  · exact Keeps.dite (stage2_keeps (Keeps.refl _ s) v (not_isDrive_other v _) (not_isDrive_other v _)) (Keeps.refl _ s)
  · rw [e.drv, e.stage, e.flag]
    exact id
  · rw [← h1.rd, ← h1.vdc] at hv
    obtain ⟨hfall, hstage, hev⟩ := stage2_enters (hok hs) (h1.drv ▸ hf)
    rw [if_pos ⟨h1.stage ▸ hst, hv⟩]
    exact ⟨hfall, hstage, hev⟩

/-- What the trip leaves in force. -/
structure Tripped (s : State) (t : Twin) (s' : State) : Prop where
  stage : stage s' t = 5
  latch : rf s' t R.DRV_STATUS_SPILL_TRIP = 1
  event : flag s' t R.DRV_EVENT_SPILL_TRIP = true
  counted : rd s' t R.DRV_SPILL_TRIPS = rd s t R.DRV_SPILL_TRIPS + 1
  demand : biti s' t R.SAF_STATUS_INT 3 = true

/-- Internal demand 3 is shown, and words outside the safety block stay. -/
theorem rd_demand3 (hs : RegsOk s) {a : Nat} (hint : a ≠ R.SAF_STATUS_INT.addr) (hev : a ≠ R.SAF_EVENT_INTERNAL.addr) :
    rd (demand s t 3) t a = rd s t a := by
  rw [demand, if_neg (by decide), ev, rd_wf_ne (regsOk_evi hs _ _) hev, evi, rd_wr_ne hs hint]

theorem biti_demand3 (hs : RegsOk s) : biti (demand s t 3) t R.SAF_STATUS_INT 3 = true := by
  rw [demand, if_neg (by decide), biti, ev, Apart.rf (by decide) (regsOk_evi hs _ _), ← biti,
    biti_evi_same hs (by decide) (by decide)]

theorem spillTrip_trips (hs : RegsOk s) (hst : stage s t < 5) (hn : (rd s t R.DRV_SPILL_TRIPS).toNat < 4294967294) :
    Tripped s t (spillTrip s t) := by
  have hs1 : RegsOk (raiseStage s t 5) := regsOk_raiseStage hs 5
  rw [spillTrip, if_neg (by omega)]
  extract_lets s2
  have hs2 : RegsOk s2 := RegsOk.wf hs1 _ _
  have hs3 : RegsOk (ev s2 t R.DRV_EVENT_SPILL_TRIP) := regsOk_ev hs2 _
  have hs4 : RegsOk (cnt (ev s2 t R.DRV_EVENT_SPILL_TRIP) t R.DRV_SPILL_TRIPS) := regsOk_cnt hs3 _
  -- a field of STATUS or EVENT passes the demand and the counter
  have hpass : ∀ g : Fld, g.addr = R.DRV_STATUS_SPILL.addr ∨ g.addr = R.DRV_EVENT_SPILL_TRIP.addr →
      rf (demand (cnt (ev s2 t R.DRV_EVENT_SPILL_TRIP) t R.DRV_SPILL_TRIPS) t 3) t g =
        rf (ev s2 t R.DRV_EVENT_SPILL_TRIP) t g := fun g hg => by
    rw [rf, rd_demand3 hs4, ← rf, rf_cnt_ne hs3] <;> obtain h | h := hg <;> rw [h] <;> decide +kernel
  refine ⟨?_, ?_, ?_, ?_, biti_demand3 hs4⟩
  · rw [stage, hpass _ (.inl rfl), ev, Apart.rf (by decide) hs2, Apart.rf (by decide) hs1, ← stage,
      stage_raiseStage hs (by decide), max_eq_right hst.le]
  · rw [hpass R.DRV_STATUS_SPILL_TRIP (.inl rfl), ev, Apart.rf (by decide) hs2, rf_wf_same hs1 _ (by decide) (by decide)]
    rfl
  · rw [flag, hpass _ (.inr rfl), ← flag, flag_ev_same hs2 _ (by decide) (by decide)]
  · have hword : rd (ev s2 t R.DRV_EVENT_SPILL_TRIP) t R.DRV_SPILL_TRIPS = rd s t R.DRV_SPILL_TRIPS := by
      rw [ev, rd_wf_ne hs2 (by decide), rd_wf_ne hs1 (by decide), rd_raiseStage_ne hs (by decide)]
    rw [rd_demand3 hs4 (by decide) (by decide), rd_cnt_same hs3 (by rwa [hword]), hword]

theorem execSpillTrip_trips (hs : RegsOk s) (hc : computing s t = true) (hst : 0 < stage s t) (hst5 : stage s t < 5)
    (hv : F32.le (rd s t R.DRV_V_S4) (vdc s t) = true ∨ F32.le (rd s t R.DRV_V_TRIP) (vdc s t) = true)
    (hn : (rd s t R.DRV_SPILL_TRIPS).toNat < 4294967294) : ∃ u, exec .spillTrip s = .next u ∧ stage u t = 5 ∧
      rf u t R.DRV_STATUS_SPILL_TRIP = 1 ∧ flag u t R.DRV_EVENT_SPILL_TRIP = true ∧
      rd u t R.DRV_SPILL_TRIPS = rd s t R.DRV_SPILL_TRIPS + 1 ∧ biti u t R.SAF_STATUS_INT 3 = true := by
  refine onComputing_next hc (fun s v => ?_) (fun u u' e => ?_) fun s1 hok h1 => ?_
  · exact Keeps.dite (spillTrip_keeps (Keeps.refl _ s) v (not_isDrive_other v _) fun _ => not_isDrive_twn _ _)
      (Keeps.refl _ s)
  · rw [e.stage, e.rf, e.flag, e.rd, e.biti]
    exact id
  · rw [← h1.rd, ← h1.rd, ← h1.vdc] at hv
    have htrip := spillTrip_trips (hok hs) (h1.stage ▸ hst5) (h1.rd _ ▸ hn)
    rw [if_pos ⟨h1.stage ▸ hst, hv⟩]
    exact ⟨htrip.stage, htrip.latch, htrip.event, htrip.counted.trans (by rw [h1.rd]), htrip.demand⟩

theorem execSpillwayExit_exits (hs : RegsOk s) (hc : computing s t = true) (hst : 0 < stage s t)
    (hv : F32.lt (vdc s t) (rd s t R.DRV_VCH_LO) = true) : ∃ u, exec .spillwayExit s = .next u ∧ stage u t = 0 ∧
      (u.tw t).drv.duty = 0#32 ∧ (u.tw t).drv.falling = false ∧ (u.tw t).drv.rising = false ∧
      rf u t R.DRV_STATUS_SPILL_TRIP = rf s t R.DRV_STATUS_SPILL_TRIP := by
  refine onComputing_next hc (fun s v => ?_) (fun u u' e => ?_) fun s1 hok h1 => ?_
  · exact Keeps.dite (modDrv_keeps (wf_keeps (Keeps.refl _ s) v _ _ (not_isDrive_other v _)) v _ (not_isDrive_other v _))
      (Keeps.refl _ s)
  · rw [e.stage, e.drv, e.rf]
    exact id
  · rw [← h1.vdc, ← h1.rd] at hv
    rw [if_pos ⟨h1.stage ▸ hst, hv⟩, drv_modDrv, stage, rf_modDrv, rf_modDrv]
    refine ⟨rf_wf_same (hok hs) _ (by decide) (by decide) 0, rfl, rfl, rfl, ?_⟩
    rw [Apart.rf (by decide) (hok hs), h1.rf]

/-- The code of CLEAR in each twin (R230). -/
def clearCode (s : State) (t : Twin) : Nat :=
  if computing s t ∧ F32.le (rd s t R.DRV_VCH_LO) (vdc s t) then Rc.SOURCE_ACTIVE else Rc.OK

theorem clearCode_congr (h : DriveSame t s s') : clearCode s' t = clearCode s t := by
  simp only [clearCode, h.computing, h.rd, h.vdc]

/-- CLEAR judges by the twins' own states and clears both latches in each. -/
theorem exec_clear (s : State) : exec (.clear .both) s = .next (if targetCode .both (clearCode s) ≠ Rc.OK
    then say (say s Rc.OK) (targetCode .both (clearCode s))
    else onBoth (fun s t => wf (wf s t R.DRV_STATUS_SPILL_TRIP 0) t R.DRV_STATUS_CHOPPER_FAIL 0) (say (say s Rc.OK) Rc.OK)) := by
  have hcode : clearCode (say s Rc.OK) = clearCode s := funext fun t => clearCode_congr (.of_tw (say_tw ..))
  rw [← hcode]
  rfl

theorem execClear_clears (hs : RegsOk s) (hcode : targetCode .both (clearCode s) = Rc.OK) :
    ∃ u, exec (.clear .both) s = .next u ∧ u.report = Rc.OK ∧ rf u t R.DRV_STATUS_SPILL_TRIP = 0 ∧
      rf u t R.DRV_STATUS_CHOPPER_FAIL = 0 := by
  refine ⟨_, (exec_clear s).trans (congrArg Host.Outcome.next (if_neg (not_not_intro hcode))),
    onBoth_report (fun s v => by simp) _, onBoth_sees (t := t)
    (Q := fun u => rf u t R.DRV_STATUS_SPILL_TRIP = 0 ∧ rf u t R.DRV_STATUS_CHOPPER_FAIL = 0)
    (fun s v => ?_) (fun u u' e => ?_) fun s1 hok _ => ?_⟩
  · exact wf_keeps (wf_keeps (Keeps.refl _ s) v _ _ (not_isDrive_other v _)) v _ _ (not_isDrive_other v _)
  · rw [e.rf, e.rf]
    exact id
  · have hs1 : RegsOk s1 := hok (by simpa using hs)
    have hs2 : RegsOk (wf s1 t R.DRV_STATUS_SPILL_TRIP 0) := RegsOk.wf hs1 _ _
    rw [Apart.rf (by decide) hs2, rf_wf_same hs1 _ (by decide) (by decide), rf_wf_same hs2 _ (by decide) (by decide)]
    exact ⟨rfl, rfl⟩

theorem execClear_refuses (hc : computing s t = true) (hv : F32.le (rd s t R.DRV_VCH_LO) (vdc s t) = true) :
    ∃ u, exec (.clear .both) s = .next u ∧ u = { s with report := Rc.SOURCE_ACTIVE } := by
  have hown : ∀ v, clearCode s v = Rc.OK ∨ clearCode s v = Rc.SOURCE_ACTIVE := fun v => by
    unfold clearCode
    split
    · exact .inr rfl
    · exact .inl rfl
  have ht : clearCode s t = Rc.SOURCE_ACTIVE := if_pos ⟨hc, hv⟩
  have hcode : targetCode .both (clearCode s) = Rc.SOURCE_ACTIVE := by
    cases t with
    | a => rw [targetCode, ht, if_pos (by decide)]
    | b =>
      obtain ha | ha := hown .a
      · rw [targetCode, ha, if_neg (by decide), ht]
      · rw [targetCode, ha, if_pos (by decide)]
  refine ⟨_, exec_clear s, ?_⟩
  rw [hcode, if_pos (by decide)]
  rfl

end Sys2Proof.Machine

/-! Position decoders (O40; R232 to R234). -/

namespace Sys2Proof.Machine

variable {s s' : State} {t : Twin} {a b z : Bool}

/-! What a change of the decoder's record leaves. -/

theorem pos_modPos (s : State) (t : Twin) (f : PosSt → PosSt) : ((modPos s t f).tw t).drv.pos = f (s.tw t).drv.pos := by
  rw [modPos, drv_modDrv]

theorem rf_modPos (s : State) (t : Twin) (f : PosSt → PosSt) (g : Fld) : rf (modPos s t f) t g = rf s t g := rf_modDrv _ _ _ g

theorem rd_modPos (s : State) (t : Twin) (f : PosSt → PosSt) (a : Nat) : rd (modPos s t f) t a = rd s t a := rd_modDrv _ _ _ a

theorem flag_modPos (s : State) (t : Twin) (f : PosSt → PosSt) (g : Fld) : flag (modPos s t f) t g = flag s t g :=
  flag_modDrv _ _ _ g

theorem regsOk_modPos (hs : RegsOk s) (f : PosSt → PosSt) : RegsOk (modPos s t f) := regsOk_modDrv hs _

/-! The incremental encoder. -/

/-- The steps of the forward sequence from the levels shown to the levels A and B (R233). -/
def quadSteps (s : State) (t : Twin) (a b : Bool) : Nat :=
  (quadPlace a b + 4 - quadPlace (nbit (rf s t R.DRV_ENC_STATUS_LEVELS) 0) (nbit (rf s t R.DRV_ENC_STATUS_LEVELS) 1)) % 4

/-- The decoder with its levels shown. -/
def levelsShown (s : State) (t : Twin) (a b z : Bool) : State :=
  wf s t R.DRV_ENC_STATUS_LEVELS (4 * bit z + 2 * bit b + bit a)

theorem levels_levelsShown (hs : RegsOk s) : rf (levelsShown s t a b z) t R.DRV_ENC_STATUS_LEVELS =
    4 * bit z + 2 * bit b + bit a := by
  rw [levelsShown, rf_wf_same hs _ (by decide) (by decide)]
  cases a <;> cases b <;> cases z <;> rfl

theorem flag_levelsShown (hs : RegsOk s) {g : Fld} (hg : Apart R.DRV_ENC_STATUS_LEVELS g) :
    flag (levelsShown s t a b z) t g = flag s t g := hg.flag hs _

/-- The record after one step, up or down. -/
def stepped (up : Bool) (stamp : Int) (p : PosSt) : PosSt :=
  { p with now := { p.now with
    c := if up then p.now.c + 1 else p.now.c - 1
    ce := if up then p.now.c + 1 else p.now.c - 1
    te := stamp
    counted := true } }

theorem encoderStep_of_step (hs : RegsOk s) (hen : flag s t R.DRV_ENC_CFG_EN = true) (hd : quadSteps s t a b % 2 = 1)
    (stamp : Int) : encoderStep s t a b z stamp = modPos (levelsShown s t a b z) t
      (stepped ((quadSteps s t a b == 1) != flag s t R.DRV_ENC_CFG_DIR) stamp) := by
  have hshown : ∀ g, Apart R.DRV_ENC_STATUS_LEVELS g → flag (levelsShown s t a b z) t g = flag s t g :=
    fun g hg => flag_levelsShown hs hg
  have hstep : ¬((!flag (levelsShown s t a b z) t R.DRV_ENC_CFG_EN) = true ∨ quadSteps s t a b = 0) := by
    rw [hshown _ (by decide), hen]
    rintro (h | h)
    · cases h
    · omega
  rw [← hshown R.DRV_ENC_CFG_DIR (by decide)]
  exact (if_neg hstep).trans (if_neg (by change quadSteps s t a b ≠ 2; omega))

theorem encoderStep_of_still (hd : quadSteps s t a b = 0) (stamp : Int) :
    encoderStep s t a b z stamp = levelsShown s t a b z := if_pos (.inr hd)

theorem encoderStep_keepsOther (s : State) (t : Twin) (a b z : Bool) (stamp : Int) :
    Keeps (IsDrive t.other) s (encoderStep s t a b z stamp) :=
  encoderStep_keeps (Keeps.refl _ s) t a b z stamp (not_isDrive_other t _) (not_isDrive_other t _)

theorem DriveSame.quadSteps (h : DriveSame t s s') : quadSteps s' t a b = Machine.quadSteps s t a b := by
  simp only [Machine.quadSteps, h.rf]

theorem execEncoderCount_counts {x : W64} (hs : RegsOk s) (hr : twState s t ≠ tsReset)
    (hen : flag s t R.DRV_ENC_CFG_EN = true) (hd : quadSteps s t a b % 2 = 1) :
    ∃ u, exec (.encoderCount a b z x) s = .next u ∧
      ((u.tw t).drv.pos.now.c = if ((quadSteps s t a b == 1) != flag s t R.DRV_ENC_CFG_DIR) = true
        then (s.tw t).drv.pos.now.c + 1 else (s.tw t).drv.pos.now.c - 1) ∧
      (u.tw t).drv.pos.now.ce = (u.tw t).drv.pos.now.c ∧ (u.tw t).drv.pos.now.te = x.toNat ∧
      (u.tw t).drv.pos.now.counted = true ∧ rf u t R.DRV_ENC_STATUS_LEVELS = 4 * bit z + 2 * bit b + bit a := by
  refine onLive_next hr (fun s v => encoderStep_keepsOther s v a b z _) (fun u u' e => ?_) fun s1 hok h1 => ?_
  · rw [e.drv, e.rf]
    exact id
  · rw [encoderStep_of_step (hok hs) (h1.flag _ ▸ hen) (h1.quadSteps ▸ hd), pos_modPos, rf_modPos, levels_levelsShown (hok hs),
      levelsShown, wf_drv, h1.drv, h1.quadSteps, h1.flag]
    exact ⟨rfl, rfl, rfl, rfl, rfl⟩

theorem execEncoderCount_still {x : W64} (hs : RegsOk s) (hr : twState s t ≠ tsReset) (hd : quadSteps s t a b = 0) :
    ∃ u, exec (.encoderCount a b z x) s = .next u ∧ (u.tw t).drv = (s.tw t).drv ∧
      rf u t R.DRV_ENC_STATUS_LEVELS = 4 * bit z + 2 * bit b + bit a := by
  refine onLive_next hr (fun s v => encoderStep_keepsOther s v a b z _) (fun u u' e => ?_) fun s1 hok h1 => ?_
  · rw [e.drv, e.rf]
    exact id
  · rw [encoderStep_of_still (h1.quadSteps ▸ hd), levels_levelsShown (hok hs), levelsShown, wf_drv, h1.drv]
    exact ⟨rfl, rfl⟩

/-! The index. -/

/-- What an index at A and B high leaves in a decoder (R233). -/
structure IndexTaken (s : State) (t : Twin) (s' : State) : Prop where
  word : rd s' t R.DRV_ENC_INDEX = (s.tw t).drv.pos.now.c
  shown : flag s' t R.DRV_ENC_STATUS_INDEXED = true
  event : flag s t R.DRV_ENC_STATUS_INDEXED = false → flag s' t R.DRV_POS_EVENT_INDEX = true
  mark : (s'.tw t).drv.pos.now.indexed = true
  count : (s'.tw t).drv.pos.now.c = if rf s t R.DRV_ENC_CFG_INDEX_MODE = 1 ∨ rf s t R.DRV_ENC_CFG_INDEX_MODE = 2 ∧
    flag s t R.DRV_ENC_STATUS_INDEXED = false then 0#32 else (s.tw t).drv.pos.now.c

theorem encoderIndex_takes (hs : RegsOk s) (hen : flag s t R.DRV_ENC_CFG_EN = true)
    (ha : nbit (rf s t R.DRV_ENC_STATUS_LEVELS) 0 = true) (hb : nbit (rf s t R.DRV_ENC_STATUS_LEVELS) 1 = true) :
    IndexTaken s t (encoderIndex s t) := by
  unfold encoderIndex
  extract_lets lv first mode s1 s2 s3
  rw [if_neg (by simp [hen, lv, ha, hb])]
  have hw : RegsOk (wr s t R.DRV_ENC_INDEX (s.tw t).drv.pos.now.c) := RegsOk.wr hs _ _
  have hs1 : RegsOk s1 := RegsOk.wf hw _ _
  have hdrv1 : (s1.tw t).drv = (s.tw t).drv := by rw [wf_drv, wr_drv]
  have hword1 : rd s1 t R.DRV_ENC_INDEX = (s.tw t).drv.pos.now.c := by rw [rd_wf_ne hw (by decide), rd_wr_same hs]
  have hshown1 : flag s1 t R.DRV_ENC_STATUS_INDEXED = flag s t R.DRV_ENC_STATUS_INDEXED := by
    rw [Apart.flag (by decide) hw, flag, rf, rd_wr_ne hs (by decide), ← rf, ← flag]
  have hs2 : RegsOk s2 := by
    unfold s2
    split
    · exact regsOk_modPos hs1 _
    · exact hs1
  have hword2 : ∀ a, rd s2 t a = rd s1 t a := fun a => by
    unfold s2
    split
    · exact rd_modPos _ _ _ a
    · rfl
  have hcount2 : (s2.tw t).drv.pos.now.c = if rf s t R.DRV_ENC_CFG_INDEX_MODE = 1 ∨
      rf s t R.DRV_ENC_CFG_INDEX_MODE = 2 ∧ flag s t R.DRV_ENC_STATUS_INDEXED = false then 0#32
      else (s.tw t).drv.pos.now.c := by
    simp only [s2, mode, first, Bool.not_eq_true']
    split
    · rw [pos_modPos]
    · rw [hdrv1]
  have hs3 : RegsOk s3 := regsOk_modPos hs2 _
  have hword3 : rd s3 t R.DRV_ENC_INDEX = (s.tw t).drv.pos.now.c := by rw [rd_modPos, hword2, hword1]
  have hmark3 : (s3.tw t).drv.pos.now.indexed = true := by rw [pos_modPos]
  have hcount3 : (s3.tw t).drv.pos.now.c = (s2.tw t).drv.pos.now.c := by rw [pos_modPos]
  split
  · have hs4 : RegsOk (wf s3 t R.DRV_ENC_STATUS_INDEXED 1) := RegsOk.wf hs3 _ _
    refine ⟨?_, ?_, fun _ => flag_ev_same hs4 _ (by decide) (by decide), ?_, ?_⟩
    · rw [ev, rd_wf_ne hs4 (by decide), rd_wf_ne hs3 (by decide), hword3]
    · rw [ev, Apart.flag (by decide) hs4]
      exact flag_ev_same hs3 _ (by decide) (by decide)
    · rw [ev, wf_drv, wf_drv, hmark3]
    · rw [ev, wf_drv, wf_drv, hcount3, hcount2]
  next hfirst =>
    have hold : flag s t R.DRV_ENC_STATUS_INDEXED = true := by simpa [first] using hfirst
    refine ⟨hword3, ?_, fun h => absurd (hold.symm.trans h) (by decide), hmark3, hcount3.trans hcount2⟩
    rw [flag_modPos, flag, rf, hword2, ← rf, ← flag, hshown1, hold]

theorem execEncoderIndex_takes (hs : RegsOk s) (hr : twState s t ≠ tsReset) (hen : flag s t R.DRV_ENC_CFG_EN = true)
    (ha : nbit (rf s t R.DRV_ENC_STATUS_LEVELS) 0 = true) (hb : nbit (rf s t R.DRV_ENC_STATUS_LEVELS) 1 = true) :
    ∃ u, exec .encoderIndex s = .next u ∧ IndexTaken s t u := by
  refine onLive_next hr (fun s v => encoderIndex_keeps (Keeps.refl _ s) v (not_isDrive_other v _) (not_isDrive_other v _))
    (fun u u' e h => ?_) fun s1 hok h1 => ?_
  · exact ⟨by rw [e.rd, h.word], by rw [e.flag, h.shown], fun h0 => by rw [e.flag, h.event h0], by rw [e.drv, h.mark],
      by rw [e.drv, h.count]⟩
  · have h := encoderIndex_takes (hok hs) (h1.flag _ ▸ hen) (h1.rf _ ▸ ha) (h1.rf _ ▸ hb)
    exact ⟨by rw [h.word, h1.drv], h.shown, fun h0 => h.event (h1.flag _ ▸ h0), h.mark,
      by rw [h.count, h1.rf, h1.flag, h1.drv]⟩

/-! Hall states. -/

/-- The decoder with its Hall state shown. -/
def hallShown (s : State) (t : Twin) (h : Nat) : State := wf s t R.DRV_HALL_STATUS_STATE h

theorem regsOk_hallShown (hs : RegsOk s) (h : Nat) : RegsOk (hallShown s t h) := RegsOk.wf hs _ _

theorem hallShown_enabled (hs : RegsOk s) (hen : flag s t R.DRV_HALL_CFG_EN = true) (h : Nat) :
    ¬(!flag (hallShown s t h) t R.DRV_HALL_CFG_EN) = true := by
  rw [hallShown, Apart.flag (by decide) hs, hen]
  decide

theorem hallSector_hallShown (hs : RegsOk s) (h : Nat) : hallSector (hallShown s t h) t h = hallSector s t h := by
  rw [hallSector, hallShown, Apart.rf (by decide) hs, ← hallSector]

/-- The sectors from the one before to that of a Hall state (R234). -/
def hallSteps (s : State) (t : Twin) (h : Nat) : Nat := (hallSector s t h + 6 - (s.tw t).drv.pos.hall) % 6

theorem hallSteps_hallShown (hs : RegsOk s) (h : Nat) : hallSteps (hallShown s t h) t h = hallSteps s t h := by
  rw [hallSteps, hallSector_hallShown hs, hallShown, wf_drv, ← hallSteps]

theorem DriveSame.hallSector (h : DriveSame t s s') (n : Nat) : hallSector s' t n = Machine.hallSector s t n := by
  simp only [Machine.hallSector, h.rf]

theorem DriveSame.hallSteps (h : DriveSame t s s') (n : Nat) : hallSteps s' t n = Machine.hallSteps s t n := by
  simp only [Machine.hallSteps, h.hallSector, h.drv]

/-- The record after a change of sector by one, forward or back, at a stamp. -/
def sectorTurned (steps : Nat) (stamp : Int) (p : PosSt) : PosSt :=
  { p with now := { p.now with
    dir := if steps = 1 then 1 else -1
    h0 := p.now.h1
    h1 := stamp
    changes := p.now.changes + 1 } }

variable {h : Nat}

theorem hallStep_of_valid (hs : RegsOk s) (hen : flag s t R.DRV_HALL_CFG_EN = true) (h0 : h ≠ 0) (h7 : h ≠ 7)
    (hd : hallSteps s t h = 1 ∨ hallSteps s t h = 5) (stamp : Int) : hallStep s t h stamp =
      modPos (modPos (wf (hallShown s t h) t R.DRV_HALL_STATUS_SECTOR (hallSector s t h)) t
        fun p => { p with hall := hallSector s t h }) t (sectorTurned (hallSteps s t h) stamp) := by
  have hen' := hallShown_enabled hs hen h
  rw [← hallSteps_hallShown hs] at hd ⊢
  rw [← hallSector_hallShown hs]
  have hmoved : ¬hallSteps (hallShown s t h) t h = 0 := by omega
  exact (if_neg hen').trans ((if_neg (by omega)).trans ((if_neg hmoved).trans (if_pos hd)))

theorem hallStep_of_invalid (hs : RegsOk s) (hen : flag s t R.DRV_HALL_CFG_EN = true) (hh : h = 0 ∨ h = 7) (stamp : Int) :
    hallStep s t h stamp = hallError (wf (hallShown s t h) t R.DRV_HALL_STATUS_SECTOR 6) t := by
  have hen' := hallShown_enabled hs hen h
  exact (if_neg hen').trans (if_pos hh)

theorem hallStep_keepsOther (s : State) (t : Twin) (h : Nat) (stamp : Int) :
    Keeps (IsDrive t.other) s (hallStep s t h stamp) :=
  hallStep_keeps (Keeps.refl _ s) t h stamp (not_isDrive_other t _) (not_isDrive_other t _)

theorem execHallChange_turns {h : Fin 8} {x : W64} (hs : RegsOk s) (hr : twState s t ≠ tsReset)
    (hen : flag s t R.DRV_HALL_CFG_EN = true) (h0 : h.val ≠ 0) (h7 : h.val ≠ 7)
    (hd : hallSteps s t h.val = 1 ∨ hallSteps s t h.val = 5) : ∃ u, exec (.hallChange h x) s = .next u ∧
      rf u t R.DRV_HALL_STATUS_STATE = h.val ∧ rf u t R.DRV_HALL_STATUS_SECTOR = hallSector s t h.val ∧
      ((u.tw t).drv.pos.now.dir = if hallSteps s t h.val = 1 then 1 else -1) ∧ (u.tw t).drv.pos.now.h1 = x.toNat ∧
      (u.tw t).drv.pos.now.h0 = (s.tw t).drv.pos.now.h1 := by
  refine onLive_next hr (fun s v => hallStep_keepsOther s v h.val _) (fun u u' e => ?_) fun s1 hok h1 => ?_
  · rw [e.rf, e.rf, e.drv]
    exact id
  · have hs1 := hok hs
    have hs2 : RegsOk (wf s1 t R.DRV_HALL_STATUS_STATE h.val) := RegsOk.wf hs1 _ _
    rw [hallStep_of_valid hs1 (h1.flag _ ▸ hen) h0 h7 (h1.hallSteps _ ▸ hd), rf_modPos, rf_modPos, rf_modPos, rf_modPos,
      h1.hallSector, h1.hallSteps, pos_modPos, pos_modPos, wf_drv, hallShown, wf_drv, h1.drv]
    refine ⟨?_, ?_, rfl, rfl, rfl⟩
    · rw [Apart.rf (by decide) hs2, rf_wf_same hs1 _ (by decide) (by decide)]
      exact Nat.mod_eq_of_lt h.isLt
    · rw [rf_wf_same hs2 _ (by decide) (by decide)]
      exact Nat.mod_mod _ _

theorem execHallChange_counts {h : Fin 8} {x : W64} (hs : RegsOk s) (hr : twState s t ≠ tsReset)
    (hen : flag s t R.DRV_HALL_CFG_EN = true) (hh : h.val = 0 ∨ h.val = 7)
    (hn : (rd s t R.DRV_HALL_ERR).toNat < 4294967294) : ∃ u, exec (.hallChange h x) s = .next u ∧
      rf u t R.DRV_HALL_STATUS_SECTOR = 6 ∧ rd u t R.DRV_HALL_ERR = rd s t R.DRV_HALL_ERR + 1 ∧
      flag u t R.DRV_POS_EVENT_HALL_ERR = true := by
  refine onLive_next hr (fun s v => hallStep_keepsOther s v h.val _) (fun u u' e => ?_) fun s1 hok h1 => ?_
  · rw [e.rf, e.rd, e.flag]
    exact id
  · have hs1 := hok hs
    have hs2 : RegsOk (hallShown s1 t h.val) := regsOk_hallShown hs1 _
    rw [hallStep_of_invalid hs1 (h1.flag _ ▸ hen) hh]
    obtain ⟨s3, hs3⟩ : ∃ s3, s3 = wf (hallShown s1 t h.val) t R.DRV_HALL_STATUS_SECTOR 6 := ⟨_, rfl⟩
    have hok3 : RegsOk s3 := hs3 ▸ RegsOk.wf hs2 _ _
    have hok4 : RegsOk (cnt s3 t R.DRV_HALL_ERR) := regsOk_cnt hok3 _
    have hword : rd s3 t R.DRV_HALL_ERR = rd s t R.DRV_HALL_ERR := by
      rw [hs3, rd_wf_ne hs2 (by decide), hallShown, rd_wf_ne hs1 (by decide), h1.rd]
    rw [← hs3, hallError]
    refine ⟨?_, ?_, flag_ev_same hok4 _ (by decide) (by decide)⟩
    · rw [ev, Apart.rf (by decide) hok4, rf_cnt_ne hok3 (by decide) (by decide +kernel), hs3,
        rf_wf_same hs2 _ (by decide) (by decide)]
      rfl
    · rw [ev, rd_wf_ne hok4 (by decide), rd_cnt_same hok3 (by rwa [hword]), hword]

end Sys2Proof.Machine

/-! The statement on Spillway, discharge and position decoders (O40). -/

namespace Sys2Proof.Machine

/-- Settles O40: each clause is the effect of its row in one twin, seen after the row has run in both. -/
theorem spillwayAndDischargeCommandsComplete : Obligations.SpillwayAndDischargeCommandsComplete := by
  refine ⟨fun _ _ hc hd => execDischarge_requests hc hd,
    fun _ _ hs hc hd hn => execDischargeStart_starts hs hc hd hn,
    fun _ _ hs hc hd hn => execDisRefused_refuses hs hc hd hn,
    fun _ _ hs hc hd hv => execDisStuck_stops hs hc hd hv,
    fun _ _ hs hc hd hv => execDisDone_ends hs hc hd hv,
    fun _ _ hs hc hd hv => execDisFail_fails hs hc hd hv,
    fun _ _ hs hc hd => execDischargeEnd_ends hs hc hd,
    fun _ _ hs hc hst hb hd hi => execChopperFail_latches hs hc hst hb hd hi,
    fun _ _ hs hc hst hv hf => execStage2_enters hs hc hst hv hf,
    fun _ _ hs hc hst hst5 hv hn => execSpillTrip_trips hs hc hst hst5 hv hn,
    fun _ _ hs hc hst hv => execSpillwayExit_exits hs hc hst hv,
    fun _ _ hs hcode => execClear_clears hs hcode,
    fun _ _ hc hv => execClear_refuses hc hv,
    fun _ _ _ _ _ _ hs hr hen hd => execEncoderCount_counts hs hr hen hd,
    fun _ _ _ _ _ _ hs hr _ hd => execEncoderCount_still hs hr hd,
    fun _ _ hs hr hen ha hb => ?_,
    fun _ _ _ _ hs hr hen h0 h7 hd => execHallChange_turns hs hr hen h0 h7 hd,
    fun _ _ _ _ hs hr hen hh hn => execHallChange_counts hs hr hen hh hn⟩
  obtain ⟨u, hu, htaken⟩ := execEncoderIndex_takes hs hr hen ha hb
  exact ⟨u, hu, htaken.word, htaken.shown, htaken.event, htaken.mark, htaken.count⟩

end Sys2Proof.Machine

/-! The rows that both twins must agree on, the statement on PWM pairs and that on gate drives (O35, O36, O37). -/

namespace Sys2Proof.Machine

/-- A write of such a row to one twin does nothing but report AGREED_ONLY. -/
theorem agreedOnly_one (t : Twin) (s : State) (f : State → State) :
    agreedOnly (.one t) s f = { s with report := Rc.AGREED_ONLY } := rfl

/-- Settles O36: each of these rows is an agreed change (`agreedOnly`; R248, R268, and assumption log entry 183 for the
others' code). -/
theorem agreedOnlyRowsRefuseOneTwin : Obligations.AgreedOnlyRowsRefuseOneTwin :=
  ⟨fun _ _ _ => ⟨_, rfl, agreedOnly_one ..⟩, fun _ _ _ => ⟨_, rfl, agreedOnly_one ..⟩,
    fun _ _ _ => ⟨_, rfl, agreedOnly_one ..⟩, fun _ _ _ _ _ _ => ⟨_, rfl, agreedOnly_one ..⟩,
    fun _ _ => ⟨_, rfl, agreedOnly_one ..⟩, fun _ _ _ _ => ⟨_, rfl, agreedOnly_one ..⟩,
    fun _ _ _ => ⟨_, rfl, agreedOnly_one ..⟩, fun _ _ _ _ => ⟨_, rfl, agreedOnly_one ..⟩,
    fun _ _ => ⟨_, rfl, agreedOnly_one ..⟩, fun _ _ => ⟨_, rfl, agreedOnly_one ..⟩,
    fun _ _ _ _ _ => ⟨_, rfl, agreedOnly_one ..⟩⟩

/-! The statement on PWM pairs (O35) is false: it asks for canonical registers, and of the carriers' table for nothing. At
a reload the committed set leaves the carrier, and a carrier that is then as after reset leaves the table; where the table
lists its pair twice, the entry that comes out may have a pending set. -/

/-- Twin A leads and PWM pair 0 runs. Its carrier, in the table's first entry, has a committed set, and the entry that this
one hides a pending set. -/
def carrierTwice : State :=
  { wf (wf State.reset .a R.TWN_STATE_STATE tsLeading) .a (pf R.PWM_P_STATUS_RUNNING 0) 1 with
    edge := { pwm := [(0, { com := some {} }), (0, { pend := some {} })] } }

theorem regsOk_carrierTwice : RegsOk carrierTwice := fun t => by cases t <;> rfl

/-- The reload at the boundary develops the committed set and shows the other as pending. -/
theorem pending_execReload_carrierTwice {u : State} (h : execReload 0 0 carrierTwice = .next u) :
    rf u .a (pf R.PWM_P_RLD_PENDING 0) = 1 := by
  cases h
  decide +kernel

/-- Refutes O35: in a table of carriers that lists pair 0 twice, the reload of its committed set leaves
PWM_P0_RLD.PENDING = 1, where the statement has 0. -/
theorem not_pwmCommandsComplete : ¬ Obligations.PwmCommandsComplete := by
  rintro ⟨-, -, -, -, -, hreload, -⟩
  obtain ⟨u, hu, -, -, -, -, hpending⟩ := hreload carrierTwice .a 0 {} regsOk_carrierTwice (by decide +kernel)
    (by decide +kernel) (by decide +kernel) (by decide +kernel) rfl rfl
  exact absurd (hpending.symm.trans (pending_execReload_carrierTwice hu)) (by decide)

/-! The statement on gate drives (O37) is false: it asks of the generators' table for nothing. Where the values written
develop, the generator is first marked as having none; if it is then as after reset it leaves the table, and where the table
lists its pair twice the boundary goes on with the entry that comes out. -/

/-- Gate-drive pair 0 has its generator as source. The generator, in the table's first entry, has counted no boundary and
has values written; the entry that this one hides has counted five. -/
def generatorTwice : State :=
  { wf State.reset .a (gf R.GD_P_CFG_SRC 0) 1 with
    edge := { gen := [(0, { written := true }), (0, { count := 5 })] } }

theorem count_execGeneratorBoundary_generatorTwice {u : State}
    (h : execGeneratorBoundary 0 true generatorTwice = .next u) : (gen u 0).count = 6 := by
  cases h
  decide +kernel

/-- Refutes O37: in a table of generators that lists pair 0 twice, the boundary counts on from the hidden entry, to 6 where
the statement has 1. -/
theorem not_gateDriveCommandsComplete : ¬ Obligations.GateDriveCommandsComplete := by
  rintro ⟨hboundary, -⟩
  obtain ⟨u, hu, -, -, -, -, hcount, -⟩ := hboundary generatorTwice 0 true _ rfl (by decide +kernel)
  exact absurd (hcount.symm.trans (count_execGeneratorBoundary_generatorTwice hu)) (by decide)

end Sys2Proof.Machine

/-! Bits of a field under an event and a clear of one bit, and the words of the trip block that settled outputs leave alone
(O38; R259 to R264). -/

namespace Sys2Proof.Machine

variable {s s' s0 : State} {t : Twin} {f g : Fld} {a : Nat}

/-! One bit of a field, and the other fields. -/

theorem nbit_eq_testBit (x i : Nat) : nbit x i = x.testBit i := by
  rw [nbit, beq_eq_decide, ← Nat.testBit_eq_decide_div_mod_eq]

theorem bits_congr {v w : W32} {hi lo : Nat} (h : ∀ j, lo ≤ j → j ≤ hi → v.getLsbD j = w.getLsbD j) :
    bits v hi lo = bits w hi lo := by
  refine Nat.eq_of_testBit_eq fun j => ?_
  rw [bits, bits, Nat.testBit_mod_two_pow, Nat.testBit_mod_two_pow, Nat.testBit_div_two_pow, Nat.testBit_div_two_pow]
  by_cases hj : j < hi + 1 - lo
  · exact congrArg _ (h (j + lo) (by omega) (by omega))
  · simp [hj]

/-- A field with one bit for each of eight inputs or pairs. -/
abbrev Lanes (f : Fld) : Prop := f.hi = f.lo + 7 ∧ f.hi < 32

theorem biti_evi_lane (hs : RegsOk s) (hf : Lanes f) (i : Fin 8) : biti (evi s t f i.val) t f i.val = true :=
  biti_evi_same hs (by omega) hf.2

theorem biti_clri_lane (hs : RegsOk s) (hf : Lanes f) (i : Fin 8) : biti (clri s t f i.val) t f i.val = false :=
  biti_clri_same hs (by omega) hf.2

theorem rf_evi_lane (hs : RegsOk s) (hf : Lanes f) (h : Apart f g) (i : Fin 8) : rf (evi s t f i.val) t g = rf s t g := by
  obtain ⟨-, -, ha | hd⟩ := h
  · rw [rf, evi, rd_wr_ne hs ha, ← rf]
  · rw [rf, evi, rd_wr hs, rf]
    split
    next hg =>
      refine bits_congr fun j hj hj' => ?_
      rw [BitVec.getLsbD_or, getLsbD_two_pow (by omega), decide_eq_false (by omega), Bool.or_false, hg.2]
    next => rfl

theorem rf_clri_lane (hs : RegsOk s) (hf : Lanes f) (h : Apart f g) (i : Fin 8) : rf (clri s t f i.val) t g = rf s t g := by
  obtain ⟨-, -, ha | hd⟩ := h
  · rw [rf, clri, rd_wr_ne hs ha, ← rf]
  · rw [rf, clri, rd_wr hs, rf]
    split
    next hg =>
      refine bits_congr fun j hj hj' => ?_
      have hne : f.lo + i.val ≠ j := by omega
      rw [BitVec.getLsbD_and, BitVec.getLsbD_not, getLsbD_two_pow (by omega), hg.2]
      by_cases hj32 : j < 32
      · simp [hne, hj32]
      · simp [BitVec.getLsbD_of_ge _ _ (Nat.not_lt.1 hj32)]
    next => rfl

theorem biti_of_rf (h : rf s' t g = rf s t g) (i : Nat) : biti s' t g i = biti s t g i := by rw [biti, h, ← biti]

theorem flag_of_rf (h : rf s' t g = rf s t g) : flag s' t g = flag s t g := by rw [flag, h, ← flag]

/-! A latch, its event and its count. -/

/-- A latch bit is set with its event, and counted. -/
def noted (s : State) (t : Twin) (l e : Fld) (a i : Nat) : State := cnt (evi (evi s t l i) t e i) t a

/-- Counting at `a` leaves the word of field `g` alone. -/
abbrev Uncounted (a : Nat) (g : Fld) : Prop := g.addr ≠ a ∧ ((counterOvf a).all fun p => p.1 != g.addr) = true

section
variable {l e : Fld} (hs : RegsOk s)
include hs

theorem rf_noted_apart (hl : Lanes l) (he : Lanes e) (hg : Uncounted a g) (hlg : Apart l g) (heg : Apart e g) (i : Fin 8) :
    rf (noted s t l e a i.val) t g = rf s t g := by
  rw [noted, rf_cnt_ne (regsOk_evi (regsOk_evi hs _ _) _ _) hg.1 hg.2, rf_evi_lane (regsOk_evi hs _ _) he heg,
    rf_evi_lane hs hl hlg]

theorem biti_noted_latch (hl : Lanes l) (he : Lanes e) (hc : Uncounted a l) (hel : Apart e l) (i : Fin 8) :
    biti (noted s t l e a i.val) t l i.val = true := by
  have hcnt : rf (noted s t l e a i.val) t l = rf (evi s t l i.val) t l := by
    rw [noted, rf_cnt_ne (regsOk_evi (regsOk_evi hs _ _) _ _) hc.1 hc.2, rf_evi_lane (regsOk_evi hs _ _) he hel]
  rw [biti_of_rf hcnt, biti_evi_lane hs hl]

theorem biti_noted_event (he : Lanes e) (hc : Uncounted a e) (i : Fin 8) :
    biti (noted s t l e a i.val) t e i.val = true := by
  have hcnt : rf (noted s t l e a i.val) t e = rf (evi (evi s t l i.val) t e i.val) t e :=
    rf_cnt_ne (regsOk_evi (regsOk_evi hs _ _) _ _) hc.1 hc.2
  rw [biti_of_rf hcnt, biti_evi_lane (regsOk_evi hs _ _) he]

theorem rd_noted_count (hal : a ≠ l.addr) (hae : a ≠ e.addr) (ha : (rd s t a).toNat < 4294967294) (i : Nat) :
    rd (noted s t l e a i) t a = rd s t a + 1 := by
  have hrd : rd (evi (evi s t l i) t e i) t a = rd s t a := by
    rw [evi, rd_wr_ne (regsOk_evi hs _ _) hae, evi, rd_wr_ne hs hal]
  rw [noted, rd_cnt_same (regsOk_evi (regsOk_evi hs _ _) _ _) (by rwa [hrd]), hrd]

end

/-! The trip block's words under the settling of outputs. -/

/-- A word from the trip block on, other than the one that shows the tripped pairs. -/
abbrev TripWord (a : Nat) : Prop := 0x1020000 ≤ a ∧ a ≠ R.TRIP_PAIRS_PWM_PAIRS.addr

theorem not_tripWord_pf {k : Nat} (hk : k < 16) (hf : f.addr + 0x1000 < 0x1020000) : ¬ TripWord (pf f k).addr := by
  show ¬ TripWord (f.addr + 128 * k)
  omega

theorem not_tripWord_gf {k : Nat} (hk : k < 16) (hf : f.addr + 0x1000 < 0x1020000) : ¬ TripWord (gf f k).addr := by
  show ¬ TripWord (f.addr + 64 * k)
  omega

theorem tripKept_showOut (h : RegsKept TripWord s0 s) {k : Nat} (hk : k < 16) (t : Twin) :
    RegsKept TripWord s0 (showOut k s t) := by
  unfold showOut
  extract_lets o tr pr s1 s2 s3 g s4
  have hpr : ¬ TripWord pr.addr := by
    unfold pr
    split <;> decide
  have h1 : RegsKept TripWord s0 s1 := (h.evi hpr _).ite (h.clri hpr _)
  have hg : g < 16 := by omega
  refine RegsKept.ite ?_ ?_
  · exact (((h1.wf (not_tripWord_pf hk (by decide)) _).wf (not_tripWord_pf hk (by decide)) _).wf
      (not_tripWord_pf hk (by decide)) _).wf (not_tripWord_pf hk (by decide)) _
  · exact ((h1.wf (not_tripWord_gf hg (by decide)) _).wf (not_tripWord_gf hg (by decide)) _).wf
      (not_tripWord_gf hg (by decide)) _

theorem tripKept_settleAll (h : RegsKept TripWord s0 s) : RegsKept TripWord s0 (settleAll s) :=
  h.foldl fun _ k hk hs => (hs.modOut k _).onLive fun _ t hs => tripKept_showOut hs (List.mem_range.1 hk) t

theorem tripKept_settleSoft (h : RegsKept TripWord s0 s) (before : State) : RegsKept TripWord s0 (settleSoft before s) := by
  refine tripKept_settleAll (h.foldl fun s g _ hs => RegsKept.ite ?_ hs)
  exact (hs.modOut _ _).onLive fun _ _ hs => hs.evi (by decide) g

/-- Twin `t`'s words of the trip block, but the one that shows the tripped pairs, are in `s'` as in `s`. -/
structure TripSame (t : Twin) (s s' : State) : Prop where
  rd : ∀ a, TripWord a → rd s' t a = rd s t a

namespace TripSame

theorem refl (t : Twin) (s : State) : TripSame t s s := ⟨fun _ _ => rfl⟩

theorem of_regs (h : (s'.tw t).regs = (s.tw t).regs) : TripSame t s s' := ⟨fun a _ => rd_of_regs h a⟩

theorem of_kept (h : RegsKept TripWord s s') (t : Twin) : TripSame t s s' := ⟨fun a ha => h.same t a ha⟩

theorem trans (h : TripSame t s0 s) (h' : TripSame t s s') : TripSame t s0 s' :=
  ⟨fun a ha => (h'.rd a ha).trans (h.rd a ha)⟩

theorem rf (h : TripSame t s s') (hg : TripWord g.addr) : rf s' t g = Machine.rf s t g := by
  rw [Machine.rf, h.rd _ hg, ← Machine.rf]

theorem flag (h : TripSame t s s') (hg : TripWord g.addr) : flag s' t g = Machine.flag s t g := flag_of_rf (h.rf hg)

theorem biti (h : TripSame t s s') (hg : TripWord g.addr) (i : Nat) : biti s' t g i = Machine.biti s t g i :=
  biti_of_rf (h.rf hg) i

end TripSame

theorem tripSame_settleAll (hs : RegsOk s) (t : Twin) : TripSame t s (settleAll s) :=
  .of_kept (tripKept_settleAll (RegsKept.refl hs)) t

theorem tripSame_settleSoft (hs : RegsOk s) (before : State) (t : Twin) : TripSame t s (settleSoft before s) :=
  .of_kept (tripKept_settleSoft (RegsKept.refl hs) before) t

/-! What the sides that saw something do, each for itself (R261). -/

/-- Of what each of the two sides saw, the part of one. -/
def sideOf (t : Twin) (onA onB : Bool) : Bool :=
  match t with
  | .a => onA
  | .b => onB

theorem sideOf_both (t : Twin) : sideOf t true true = true := by cases t <;> rfl

theorem sideOf_apply (t : Twin) (p : Twin → Bool) : sideOf t (p .a) (p .b) = p t := by cases t <;> rfl

/-- The registers of the other twin. -/
abbrev OtherRegs (t : Twin) (p : Part) : Prop := p = .tw t.other .regs

theorem not_otherRegs (t : Twin) (x : TwinField) : ¬ OtherRegs t (.tw t x) := by
  simp [OtherRegs]

section
variable {F : State → Twin → State} (hF : ∀ s v, Keeps (OtherRegs v) s (F s v)) {onA onB : Bool}
include hF

/-- A side that saw it finds its own registers as they were. -/
theorem onSides_at (ht : sideOf t onA onB = true) (s : State) : ∃ s1, (RegsOk s → RegsOk s1) ∧ TripSame t s s1 ∧
    TripSame t (F s1 t) (onSides onA onB F s) := by
  cases t with
  | a =>
    have honA : onA = true := ht
    refine ⟨s, id, .refl _ s, .of_regs ?_⟩
    rw [onSides, if_pos honA]
    split
    · exact (hF (F s .a) .b).same (.tw .a .regs) rfl
    · rfl
  | b =>
    have honB : onB = true := ht
    obtain ⟨s1, hs1⟩ : ∃ s1, s1 = if onA then F s .a else s := ⟨_, rfl⟩
    have hk : Keeps (OtherRegs .a) s s1 := hs1 ▸ Keeps.dite (hF s .a) (Keeps.refl _ s)
    refine ⟨s1, hk.regs, .of_regs (hk.same (.tw .b .regs) rfl), ?_⟩
    rw [onSides, ← hs1, if_pos honB]
    exact .refl _ _

/-- A side that did not is left alone. -/
theorem onSides_idle (ht : sideOf t onA onB = false) (s : State) : TripSame t s (onSides onA onB F s) := by
  cases t with
  | a =>
    have honA : onA = false := ht
    subst honA
    exact .of_regs ((Keeps.dite (hF s .b) (Keeps.refl _ s)).same (.tw .a .regs) rfl)
  | b =>
    have honB : onB = false := ht
    rw [onSides, if_neg (by simp [honB])]
    exact .of_regs ((Keeps.dite (hF s .a) (Keeps.refl _ s)).same (.tw .b .regs) rfl)

end

theorem regsOk_onSides {F : State → Twin → State} (hF : ∀ s v, RegsOk s → RegsOk (F s v)) (hs : RegsOk s)
    (onA onB : Bool) : RegsOk (onSides onA onB F s) := by
  have h1 : RegsOk (if onA then F s .a else s) := by
    split
    exacts [hF _ _ hs, hs]
  rw [onSides]
  split
  exacts [hF _ _ h1, h1]

end Sys2Proof.Machine

/-! Trip inputs, side differences, clears and the lock: what each leaves in the trip block of a twin (O38; R259 to R262). -/

namespace Sys2Proof.Machine

variable {s : State} {t : Twin} {i : Fin 8}

/-! Latching. -/

/-- The counters of the trip block and their overflow flags are words of their own (R8). -/
theorem uncounted_trip : ∀ i : Fin 8, ∀ a ∈ [R.TRIP_IN_CNT + 4 * i.val, R.TRIP_SC_CNT + 4 * i.val],
    ∀ g ∈ [R.TRIP_LATCH_IN, R.TRIP_LATCH_SC, R.TRIP_LATCH_EARLY, R.TRIP_EVENT_IN, R.TRIP_EVENT_SC,
      R.TRIP_LIVE_IN_ACTIVE], Uncounted a g := by
  decide +kernel

/-- A side that is enabled and has not latched does so (R259). -/
theorem latchIn_eq (hs : RegsOk s) (hen : flag s t (fo R.TRIP_IN_EN (4 * i.val)) = true)
    (hl : biti s t R.TRIP_LATCH_IN i.val = false) : latchIn s t i.val = noted (evi s t R.TRIP_LIVE_IN_ACTIVE i.val) t
      R.TRIP_LATCH_IN R.TRIP_EVENT_IN (R.TRIP_IN_CNT + 4 * i.val) i.val := by
  have hen' : flag (evi s t R.TRIP_LIVE_IN_ACTIVE i.val) t (fo R.TRIP_IN_EN (4 * i.val)) = true := by
    have hapart : ∀ i : Fin 8, Apart R.TRIP_LIVE_IN_ACTIVE (fo R.TRIP_IN_EN (4 * i.val)) := by decide
    rw [flag_of_rf (rf_evi_lane hs (by decide) (hapart i) i), hen]
  have hl' : biti (evi s t R.TRIP_LIVE_IN_ACTIVE i.val) t R.TRIP_LATCH_IN i.val = false := by
    rw [biti_of_rf (rf_evi_lane hs (by decide) (by decide) i), hl]
  rw [latchIn, if_neg (by simp [hen', hl']), noted]

/-- What a trip input leaves in a side that latches it. -/
structure InLatched (s : State) (t : Twin) (i : Fin 8) (s' : State) : Prop where
  latch : biti s' t R.TRIP_LATCH_IN i.val = true
  event : biti s' t R.TRIP_EVENT_IN i.val = true
  live : biti s' t R.TRIP_LIVE_IN_ACTIVE i.val = true
  count : rd s' t (R.TRIP_IN_CNT + 4 * i.val) = rd s t (R.TRIP_IN_CNT + 4 * i.val) + 1

theorem inLatched_latchIn (hs : RegsOk s) (hen : flag s t (fo R.TRIP_IN_EN (4 * i.val)) = true)
    (hl : biti s t R.TRIP_LATCH_IN i.val = false) (hn : (rd s t (R.TRIP_IN_CNT + 4 * i.val)).toNat < 4294967294) :
    InLatched s t i (latchIn s t i.val) := by
  have hs1 : RegsOk (evi s t R.TRIP_LIVE_IN_ACTIVE i.val) := regsOk_evi hs _ _
  have hc := uncounted_trip i _ (List.mem_cons_self ..)
  have hrd : rd (evi s t R.TRIP_LIVE_IN_ACTIVE i.val) t (R.TRIP_IN_CNT + 4 * i.val) = rd s t (R.TRIP_IN_CNT + 4 * i.val) :=
    rd_wr_ne hs (hc R.TRIP_LIVE_IN_ACTIVE (by simp)).1.symm _
  rw [latchIn_eq hs hen hl]
  constructor
  · exact biti_noted_latch hs1 (by decide) (by decide) (hc _ (by simp)) (by decide) i
  · exact biti_noted_event hs1 (by decide) (hc _ (by simp)) i
  · rw [biti_of_rf (rf_noted_apart hs1 (by decide) (by decide) (hc _ (by simp)) (by decide) (by decide) i),
      biti_evi_lane hs (by decide)]
  · rw [rd_noted_count hs1 (hc R.TRIP_LATCH_IN (by simp)).1.symm (hc R.TRIP_EVENT_IN (by simp)).1.symm (by rwa [hrd]), hrd]

theorem execTripLatch_latches {x y : Bool} (hs : RegsOk s) (ht : sideOf t x y = true)
    (hen : flag s t (fo R.TRIP_IN_EN (4 * i.val)) = true) (hl : biti s t R.TRIP_LATCH_IN i.val = false)
    (hn : (rd s t (R.TRIP_IN_CNT + 4 * i.val)).toNat < 4294967294) :
    ∃ u, exec (.tripLatch i x y) s = .next u ∧ InLatched s t i u := by
  have hF : ∀ s v, Keeps (OtherRegs v) s (latchIn s v i.val) := fun s v =>
    latchIn_keeps (Keeps.refl _ s) v i.val (not_otherRegs v _)
  obtain ⟨s1, hok, h1, h2⟩ := onSides_at hF ht s
  have hs2 := regsOk_onSides (fun s v => (hF s v).regs) hs x y
  have h3 := h2.trans (tripSame_settleAll hs2 t)
  have hcnt : TripWord (R.TRIP_IN_CNT + 4 * i.val) := by
    show 0x1020000 ≤ 0x1020090 + 4 * i.val ∧ 0x1020090 + 4 * i.val ≠ 0x1020084
    omega
  have hen' : TripWord (fo R.TRIP_IN_EN (4 * i.val)).addr := by
    show 0x1020000 ≤ 0x1020010 + 4 * i.val ∧ 0x1020010 + 4 * i.val ≠ 0x1020084
    omega
  have hlatched := inLatched_latchIn (hok hs) ((h1.flag hen').trans hen) ((h1.biti (by decide) _).trans hl)
    (by rwa [h1.rd _ hcnt])
  refine ⟨_, rfl, (h3.biti (by decide) _).trans hlatched.latch, (h3.biti (by decide) _).trans hlatched.event,
    (h3.biti (by decide) _).trans hlatched.live, ?_⟩
  rw [← h1.rd _ hcnt, ← hlatched.count]
  exact h3.rd _ hcnt

/-! Side differences (R261). -/

theorem testBit_complement {x i : Nat} (hx : x < 256) (hi : i < 8) : (255 - x).testBit i = !(x.testBit i) := by
  have h := Nat.testBit_two_pow_sub_succ (n := 8) hx i
  rw [decide_eq_true hi, Bool.true_and] at h
  rw [← h]
  congr 1
  omega

theorem latchIn_lt (s : State) (t : Twin) : rf s t R.TRIP_LATCH_IN < 256 := Nat.mod_lt _ (by decide)

theorem latchSc_lt (s : State) (t : Twin) : rf s t R.TRIP_LATCH_SC < 256 := Nat.mod_lt _ (by decide)

/-- A difference is taken over (R261). -/
theorem sideDiff_eq {inO scO : Nat} (h : ¬ (inO &&& (255 - rf s t R.TRIP_LATCH_IN) = 0 ∧
    scO &&& (255 - rf s t R.TRIP_LATCH_SC) = 0)) : ∃ v w, sideDiff s t inO scO =
      ev (wf (wf s t R.TRIP_LATCH_IN (rf s t R.TRIP_LATCH_IN ||| v)) t R.TRIP_LATCH_SC w) t R.TRIP_EVENT_SIDE_DIFF ∧
      v = inO &&& (255 - rf s t R.TRIP_LATCH_IN) :=
  ⟨_, _, if_neg h, rfl⟩

theorem biti_latchIn_or (hs : RegsOk s) (v w : Nat) (i : Fin 8) :
    biti (ev (wf (wf s t R.TRIP_LATCH_IN (rf s t R.TRIP_LATCH_IN ||| v)) t R.TRIP_LATCH_SC w) t R.TRIP_EVENT_SIDE_DIFF) t
      R.TRIP_LATCH_IN i.val = (biti s t R.TRIP_LATCH_IN i.val || v.testBit i.val) := by
  rw [biti, ev, Apart.rf (by decide) ((hs.wf _ _).wf _ _), Apart.rf (by decide) (hs.wf _ _),
    rf_wf_same hs _ (by decide) (by decide), nbit_eq_testBit, Nat.testBit_mod_two_pow, Nat.testBit_or, biti, nbit_eq_testBit,
    decide_eq_true (show i.val < R.TRIP_LATCH_IN.hi + 1 - R.TRIP_LATCH_IN.lo from i.isLt), Bool.true_and]

/-- A latch stays. -/
theorem biti_sideDiff_latched (hs : RegsOk s) (hl : biti s t R.TRIP_LATCH_IN i.val = true) (inO scO : Nat) :
    biti (sideDiff s t inO scO) t R.TRIP_LATCH_IN i.val = true := by
  by_cases h : inO &&& (255 - rf s t R.TRIP_LATCH_IN) = 0 ∧ scO &&& (255 - rf s t R.TRIP_LATCH_SC) = 0
  · rw [sideDiff]
    dsimp only
    rwa [if_pos h]
  · obtain ⟨v, w, heq, -⟩ := sideDiff_eq h
    rw [heq, biti_latchIn_or hs, hl, Bool.true_or]

/-- A latch of the other side alone is set here. -/
theorem sideDiff_takes {inO : Nat} (hs : RegsOk s) (hi : nbit inO i.val = true)
    (hl : biti s t R.TRIP_LATCH_IN i.val = false) (scO : Nat) :
    biti (sideDiff s t inO scO) t R.TRIP_LATCH_IN i.val = true ∧
      flag (sideDiff s t inO scO) t R.TRIP_EVENT_SIDE_DIFF = true := by
  have hnew : (inO &&& (255 - rf s t R.TRIP_LATCH_IN)).testBit i.val = true := by
    rw [biti, nbit_eq_testBit] at hl
    rw [Nat.testBit_and, testBit_complement (latchIn_lt s t) i.isLt, hl, ← nbit_eq_testBit, hi]
    rfl
  have hdiff : ¬ (inO &&& (255 - rf s t R.TRIP_LATCH_IN) = 0 ∧ scO &&& (255 - rf s t R.TRIP_LATCH_SC) = 0) := by
    rintro ⟨h0, -⟩
    rw [h0, Nat.zero_testBit] at hnew
    exact Bool.false_ne_true hnew
  obtain ⟨v, w, heq, hv⟩ := sideDiff_eq hdiff
  rw [heq]
  exact ⟨by rw [biti_latchIn_or hs, hv, hnew, Bool.or_true], flag_ev_same ((hs.wf _ _).wf _ _) _ (by decide) rfl⟩

theorem execTripSideDiff_takes (hs : RegsOk s) (ha : biti s .a R.TRIP_LATCH_IN i.val = true)
    (hb : biti s .b R.TRIP_LATCH_IN i.val = false) : ∃ u, exec .tripSideDiff s = .next u ∧
      biti u .b R.TRIP_LATCH_IN i.val = true ∧ flag u .b R.TRIP_EVENT_SIDE_DIFF = true ∧
      biti u .a R.TRIP_LATCH_IN i.val = true := by
  obtain ⟨s1, hs1⟩ : ∃ s1, s1 = sideDiff s .a (rf s .b R.TRIP_LATCH_IN) (rf s .b R.TRIP_LATCH_SC) := ⟨_, rfl⟩
  obtain ⟨s2, hs2⟩ : ∃ s2, s2 = sideDiff s1 .b (rf s .a R.TRIP_LATCH_IN) (rf s .a R.TRIP_LATCH_SC) := ⟨_, rfl⟩
  have hk1 : Keeps (OtherRegs .a) s s1 := hs1 ▸ sideDiff_keeps (Keeps.refl _ s) .a _ _ (not_otherRegs _ _)
  have hk2 : Keeps (OtherRegs .b) s1 s2 := hs2 ▸ sideDiff_keeps (Keeps.refl _ s1) .b _ _ (not_otherRegs _ _)
  have hb1 : TripSame .b s s1 := .of_regs (hk1.same (.tw .b .regs) rfl)
  have ha2 : TripSame .a s1 s2 := .of_regs (hk2.same (.tw .a .regs) rfl)
  have hu := tripSame_settleSoft (hk2.regs (hk1.regs hs)) s
  have hlatchA : biti s1 .a R.TRIP_LATCH_IN i.val = true := hs1 ▸ biti_sideDiff_latched hs ha _ _
  obtain ⟨hlatchB, hdiff⟩ : biti s2 .b R.TRIP_LATCH_IN i.val = true ∧ flag s2 .b R.TRIP_EVENT_SIDE_DIFF = true :=
    hs2 ▸ sideDiff_takes (hk1.regs hs) ha ((hb1.biti (by decide) _).trans hb) _
  refine ⟨settleSoft s s2, by rw [hs2, hs1]; rfl, ((hu .b).biti (by decide) _).trans hlatchB,
    ((hu .b).flag (by decide)).trans hdiff, ?_⟩
  exact ((ha2.trans (hu .a)).biti (by decide) _).trans hlatchA

/-! Clears (R262). -/

/-- The latches named clear in one side. -/
def latchesCleared (okIn okSc : Nat) (s : State) (t : Twin) : State :=
  let s := wf s t R.TRIP_LATCH_IN (rf s t R.TRIP_LATCH_IN &&& (255 - okIn))
  wf s t R.TRIP_LATCH_SC (rf s t R.TRIP_LATCH_SC &&& (255 - okSc))

theorem rf_latchesCleared (hs : RegsOk s) (okIn okSc : Nat) :
    rf (latchesCleared okIn okSc s t) t R.TRIP_LATCH_IN = rf s t R.TRIP_LATCH_IN &&& (255 - okIn) ∧
      rf (latchesCleared okIn okSc s t) t R.TRIP_LATCH_SC = rf s t R.TRIP_LATCH_SC &&& (255 - okSc) := by
  have hin : R.TRIP_LATCH_IN.hi + 1 - R.TRIP_LATCH_IN.lo = 8 := rfl
  have hsc : R.TRIP_LATCH_SC.hi + 1 - R.TRIP_LATCH_SC.lo = 8 := rfl
  constructor
  · rw [latchesCleared, Apart.rf (by decide) (hs.wf _ _), rf_wf_same hs _ (by decide) (by decide), hin]
    exact Nat.mod_eq_of_lt (Nat.lt_of_le_of_lt Nat.and_le_left (latchIn_lt s t))
  · rw [latchesCleared, rf_wf_same (hs.wf _ _) _ (by decide) (by decide), Apart.rf (by decide) hs, hsc]
    exact Nat.mod_eq_of_lt (Nat.lt_of_le_of_lt Nat.and_le_left (latchSc_lt s t))

theorem latchesCleared_keeps (okIn okSc : Nat) (s : State) (t : Twin) :
    Keeps (OtherRegs t) s (latchesCleared okIn okSc s t) :=
  wf_keeps (wf_keeps (Keeps.refl _ s) t _ _ (not_otherRegs t _)) t _ _ (not_otherRegs t _)

/-- The latches named clear on both sides and the outputs are settled; `before` is the state before the clear. -/
def cleared (before : State) (okIn okSc : Nat) (s : State) : State :=
  settleAll ((List.range 16).foldl (keepHold before) (onBoth (latchesCleared okIn okSc) s))

theorem tripSame_cleared (hs : RegsOk s) (before : State) (okIn okSc : Nat) (t : Twin) :
    TripSame t (onBoth (latchesCleared okIn okSc) s) (cleared before okIn okSc s) := by
  have hboth : RegsOk (onBoth (latchesCleared okIn okSc) s) :=
    (latchesCleared_keeps okIn okSc _ .b).regs ((latchesCleared_keeps okIn okSc s .a).regs hs)
  exact .of_kept (tripKept_settleAll ((RegsKept.refl hboth).foldl fun _ k _ hk => hk.keepHold before k)) t

theorem rf_cleared (hs : RegsOk s) (before : State) (okIn okSc : Nat) (t : Twin) :
    rf (cleared before okIn okSc s) t R.TRIP_LATCH_IN = rf s t R.TRIP_LATCH_IN &&& (255 - okIn) ∧
      rf (cleared before okIn okSc s) t R.TRIP_LATCH_SC = rf s t R.TRIP_LATCH_SC &&& (255 - okSc) := by
  obtain ⟨s1, hok, h1, h2⟩ := onSides_at (latchesCleared_keeps okIn okSc) (onA := true) (onB := true)
    (sideOf_both t) s
  have h3 := h2.trans (tripSame_cleared hs before okIn okSc t)
  obtain ⟨hin, hsc⟩ := rf_latchesCleared (t := t) (hok hs) okIn okSc
  exact ⟨by rw [h3.rf (by decide), hin, h1.rf (by decide)], by rw [h3.rf (by decide), hsc, h1.rf (by decide)]⟩

theorem flag_cleared (hs : RegsOk s) (before : State) (okIn okSc : Nat) (t : Twin) :
    flag (cleared before okIn okSc s) t R.TRIP_EVENT_CLEAR_REFUSED = flag s t R.TRIP_EVENT_CLEAR_REFUSED := by
  rw [(tripSame_cleared hs before okIn okSc t).flag (by decide)]
  have hk : RegsKept (· = R.TRIP_EVENT) s (onBoth (latchesCleared okIn okSc) s) :=
    (RegsKept.refl hs).onBoth fun _ _ h => (h.wf (by decide) _).wf (by decide) _
  exact hk.flag rfl

theorem keepHold_report (before s : State) (k : Nat) : (keepHold before s k).report = s.report := by
  unfold keepHold
  extract_lets
  split
  · rfl
  · split <;> rfl

theorem cleared_report (before : State) (okIn okSc : Nat) (s : State) : (cleared before okIn okSc s).report = s.report := by
  rw [cleared, settleAll_report, foldl_report (keepHold_report before), onBoth_report fun s t => by simp [latchesCleared]]

/-- The inputs' levels at the clear are shown on both sides. -/
def inputsShown (active above : Nat) (s : State) : State :=
  onBoth (fun s t => wf (wf s t R.TRIP_LIVE_IN_ACTIVE active) t R.TRIP_LIVE_DSN_ABOVE above) s

theorem inputsShown_kept (hs : RegsOk s) (active above : Nat) :
    RegsKept (· = R.TRIP_LATCH_IN.addr) s (inputsShown active above s) :=
  (RegsKept.refl hs).onBoth fun _ _ h => (h.wf (by decide) _).wf (by decide) _

/-- A latch named has an active source in some side (R262). -/
abbrev ClearRefused (s : State) (ins scs active above : Nat) : Prop :=
  ins &&& (rf s .a R.TRIP_LATCH_IN ||| rf s .b R.TRIP_LATCH_IN) &&& active ≠ 0 ∨
    scs &&& (rf s .a R.TRIP_LATCH_SC ||| rf s .b R.TRIP_LATCH_SC) &&& above ≠ 0

theorem clearRefused_inputsShown (hs : RegsOk s) (ins scs active above : Nat) :
    ClearRefused (inputsShown active above s) ins scs active above ↔ ClearRefused s ins scs active above := by
  have hk := inputsShown_kept hs active above
  simp only [ClearRefused, hk.rf (f := R.TRIP_LATCH_IN) rfl, hk.rf (f := R.TRIP_LATCH_SC) rfl]

theorem tripClear_of_refused {ins scs active above : Nat} (hs : RegsOk s) (h : ClearRefused s ins scs active above) :
    tripClear s ins scs active above = cleared s (ins &&& (255 - active)) (scs &&& (255 - above))
      (say (onBoth (fun s t => ev s t R.TRIP_EVENT_CLEAR_REFUSED) (inputsShown active above s)) Rc.SOURCE_ACTIVE) := by
  have h' := (clearRefused_inputsShown hs ins scs active above).2 h
  exact congrArg (cleared s (ins &&& (255 - active)) (scs &&& (255 - above))) (if_pos h')

theorem tripClear_of_not_refused {ins scs active above : Nat} (hs : RegsOk s) (h : ¬ ClearRefused s ins scs active above) :
    tripClear s ins scs active above =
      cleared s (ins &&& (255 - active)) (scs &&& (255 - above)) (inputsShown active above s) := by
  have h' := mt (clearRefused_inputsShown hs ins scs active above).1 h
  exact congrArg (cleared s (ins &&& (255 - active)) (scs &&& (255 - above))) (if_neg h')

/-- Bits of a byte none of which are in another byte are those outside it. -/
theorem and_complement {x y : Byte} (h : x &&& y = 0) : x.toNat &&& (255 - y.toNat) = x.toNat := by
  refine Nat.eq_of_testBit_eq fun j => ?_
  rw [Nat.testBit_and]
  by_cases hj : j < 8
  · have hxy : (x.toNat.testBit j && y.toNat.testBit j) = false := by
      rw [← Nat.testBit_and, ← BitVec.toNat_and, h]
      exact Nat.zero_testBit j
    rw [testBit_complement y.isLt hj]
    revert hxy
    cases x.toNat.testBit j <;> simp
  · rw [Nat.testBit_lt_two_pow (Nat.lt_of_lt_of_le x.isLt (Nat.pow_le_pow_right (by decide) (Nat.not_lt.1 hj)))]
    rfl

theorem and_latch_and {x y : Byte} (h : x &&& y = 0) (l : Nat) : x.toNat &&& l &&& y.toNat = 0 := by
  have hxy : x.toNat &&& y.toNat = 0 := by rw [← BitVec.toNat_and, h]; rfl
  rw [Nat.and_right_comm, hxy, Nat.zero_and]

theorem execTripClear_clears {ins scs x y : Byte} (hs : RegsOk s) (hin : ins &&& x = 0) (hsc : scs &&& y = 0) :
    ∃ u, exec (.tripClear ins scs x y) s = .next u ∧ u.report = Rc.OK ∧
      rf u t R.TRIP_LATCH_IN = rf s t R.TRIP_LATCH_IN &&& (255 - ins.toNat) ∧
      rf u t R.TRIP_LATCH_SC = rf s t R.TRIP_LATCH_SC &&& (255 - scs.toNat) := by
  have hs0 : RegsOk (say s Rc.OK) := (regsOk_say _).2 hs
  have hfree : ¬ ClearRefused (say s Rc.OK) ins.toNat scs.toNat x.toNat y.toNat := by
    rintro (h | h)
    exacts [h (and_latch_and hin _), h (and_latch_and hsc _)]
  have hk := inputsShown_kept hs0 x.toNat y.toNat
  obtain ⟨hlatchIn, hlatchSc⟩ := rf_cleared hk.ok (say s Rc.OK) ins.toNat scs.toNat t
  refine ⟨_, congrArg Host.Outcome.next (tripClear_of_not_refused hs0 hfree), ?_, ?_, ?_⟩
  · rw [cleared_report, inputsShown, onBoth_report fun s t => by simp]
    rfl
  · rw [and_complement hin, and_complement hsc, hlatchIn, hk.rf rfl, rf_say]
  · rw [and_complement hin, and_complement hsc, hlatchSc, hk.rf (f := R.TRIP_LATCH_SC) rfl, rf_say]

theorem clearRefused_of_latched {ins scs active above : Nat} (h : rf s t R.TRIP_LATCH_IN &&& ins &&& active ≠ 0) :
    ClearRefused s ins scs active above := by
  refine .inl fun h0 => h ?_
  rw [Nat.and_or_distrib_left, Nat.and_or_distrib_right, Nat.or_eq_zero_iff] at h0
  obtain ⟨ha, hb⟩ := h0
  rw [Nat.and_comm (rf s t _)]
  cases t with
  | a => exact ha
  | b => exact hb

theorem execTripClear_refuses {ins scs x y : Byte} (hs : RegsOk s)
    (h : rf s t R.TRIP_LATCH_IN &&& ins.toNat &&& x.toNat ≠ 0) : ∃ u, exec (.tripClear ins scs x y) s = .next u ∧
      u.report = Rc.SOURCE_ACTIVE ∧ flag u t R.TRIP_EVENT_CLEAR_REFUSED = true ∧
      rf u t R.TRIP_LATCH_IN = rf s t R.TRIP_LATCH_IN &&& (255 - (ins.toNat &&& (255 - x.toNat))) ∧
      rf u t R.TRIP_LATCH_SC = rf s t R.TRIP_LATCH_SC &&& (255 - (scs.toNat &&& (255 - y.toNat))) := by
  have hs0 : RegsOk (say s Rc.OK) := (regsOk_say _).2 hs
  have hrefused : ClearRefused (say s Rc.OK) ins.toNat scs.toNat x.toNat y.toNat :=
    clearRefused_of_latched (t := t) (by rwa [rf_say])
  have hF : ∀ s v, Keeps (OtherRegs v) s (ev s v R.TRIP_EVENT_CLEAR_REFUSED) := fun s v =>
    ev_keeps (Keeps.refl _ s) v _ (not_otherRegs v _)
  have hk : RegsKept (· = R.TRIP_LATCH_IN.addr) (say s Rc.OK) (say (onBoth (fun s t => ev s t R.TRIP_EVENT_CLEAR_REFUSED)
      (inputsShown x.toNat y.toNat (say s Rc.OK))) Rc.SOURCE_ACTIVE) :=
    ((inputsShown_kept hs0 _ _).onBoth fun _ _ h => h.ev (by decide)).say _
  obtain ⟨hlatchIn, hlatchSc⟩ := rf_cleared hk.ok (say s Rc.OK) (ins.toNat &&& (255 - x.toNat))
    (scs.toNat &&& (255 - y.toNat)) t
  refine ⟨_, congrArg Host.Outcome.next (tripClear_of_refused hs0 hrefused), ?_, ?_, ?_, ?_⟩
  · rw [cleared_report]
    rfl
  · obtain ⟨s1, hok, -, h2⟩ := onSides_at hF (onA := true) (onB := true) (sideOf_both t)
      (inputsShown x.toNat y.toNat (say s Rc.OK))
    rw [flag_cleared hk.ok, flag_of_rf (rf_say _ _ _ _)]
    exact (h2.flag (by decide)).trans (flag_ev_same (hok (inputsShown_kept hs0 _ _).ok) _ (by decide) rfl)
  · rw [hlatchIn, hk.rf rfl, rf_say]
  · rw [hlatchSc, hk.rf (f := R.TRIP_LATCH_SC) rfl, rf_say]

theorem execTripLock_locks {tg : Target} (hs : RegsOk s) (hr : twState s t ≠ tsReset) (htg : tg = .both ∨ tg = .one t) :
    ∃ u, exec (.tripLock tg) s = .next u ∧ u.report = Rc.OK ∧ rf u t R.TRIP_GCFG_LOCK = 1 := by
  have hs0 : RegsOk (say s Rc.OK) := (regsOk_say _).2 hs
  have hlock : ∀ s, RegsOk s → rf (tripLock s t) t R.TRIP_GCFG_LOCK = 1 := fun s hs =>
    rf_wf_same hs _ (by decide) (by decide) 1
  rcases htg with rfl | rfl
  · refine ⟨_, rfl, ?_, ?_⟩
    · rw [onLive_report fun s t => by simp [tripLock]]
      rfl
    · exact onLive_sets (p := fun w => bits w 0 0 = 1) hs0 (by rwa [twState, rf_say]) (fun _ _ h => h.wf _ _)
        (fun s v w b hv => rd_wf_twin hv ..) hlock
  · exact ⟨_, rfl, by simp [tripLock], hlock _ hs0⟩

end Sys2Proof.Machine

/-! Short-circuit sense inputs and soft turn-off (O38; R253, R263, R264). -/

namespace Sys2Proof.Machine

variable {s : State} {t : Twin} {k g : Fin 8}

/-! Sense inputs. -/

/-- A side that has not latched the short circuit does so, and EARLY goes (R263, R264). -/
theorem latchSc_eq (hs : RegsOk s) (hl : biti s t R.TRIP_LATCH_SC k.val = false) : latchSc s t k.val =
    noted (clri (evi s t R.TRIP_LIVE_DSN_ABOVE k.val) t R.TRIP_LATCH_EARLY k.val) t R.TRIP_LATCH_SC R.TRIP_EVENT_SC
      (R.TRIP_SC_CNT + 4 * k.val) k.val := by
  have hl' : biti (clri (evi s t R.TRIP_LIVE_DSN_ABOVE k.val) t R.TRIP_LATCH_EARLY k.val) t R.TRIP_LATCH_SC k.val = false := by
    rw [biti_of_rf (rf_clri_lane (regsOk_evi hs _ _) (by decide) (by decide) k),
      biti_of_rf (rf_evi_lane hs (by decide) (by decide) k), hl]
  rw [latchSc, if_neg (by simp [hl']), noted]

/-- What a short circuit leaves in a side that latches it. -/
structure ScLatched (t : Twin) (k : Fin 8) (s' : State) : Prop where
  latch : biti s' t R.TRIP_LATCH_SC k.val = true
  event : biti s' t R.TRIP_EVENT_SC k.val = true
  early : biti s' t R.TRIP_LATCH_EARLY k.val = false

theorem scLatched_latchSc (hs : RegsOk s) (hl : biti s t R.TRIP_LATCH_SC k.val = false) :
    ScLatched t k (latchSc s t k.val) := by
  have hs1 : RegsOk (evi s t R.TRIP_LIVE_DSN_ABOVE k.val) := regsOk_evi hs _ _
  have hs2 : RegsOk (clri (evi s t R.TRIP_LIVE_DSN_ABOVE k.val) t R.TRIP_LATCH_EARLY k.val) := regsOk_clri hs1 _ _
  have hc := uncounted_trip k (R.TRIP_SC_CNT + 4 * k.val) (by simp)
  rw [latchSc_eq hs hl]
  constructor
  · exact biti_noted_latch hs2 (by decide) (by decide) (hc _ (by simp)) (by decide) k
  · exact biti_noted_event hs2 (by decide) (hc _ (by simp)) k
  · rw [biti_of_rf (rf_noted_apart hs2 (by decide) (by decide) (hc _ (by simp)) (by decide) (by decide) k),
      biti_clri_lane hs1 (by decide)]

/-- A trip of a sense input in the sides that saw it (R261, R264). -/
theorem scLatched_scTrip {onA onB : Bool} (hs : RegsOk s) (ht : sideOf t onA onB = true)
    (hl : biti s t R.TRIP_LATCH_SC k.val = false) : ScLatched t k (scTrip s k.val onA onB) := by
  have hF : ∀ s v, Keeps (OtherRegs v) s (latchSc s v k.val) := fun s v =>
    latchSc_keeps (Keeps.refl _ s) v k.val (not_otherRegs v _)
  obtain ⟨s1, hok, h1, h2⟩ := onSides_at hF ht s
  have h3 := h2.trans (tripSame_settleSoft (regsOk_onSides (fun s v => (hF s v).regs) hs onA onB) s t)
  have hlatched := scLatched_latchSc (hok hs) ((h1.biti (by decide) _).trans hl)
  exact ⟨(h3.biti (by decide) _).trans hlatched.latch, (h3.biti (by decide) _).trans hlatched.event,
    (h3.biti (by decide) _).trans hlatched.early⟩

/-- A side that saw an input and watches it. -/
theorem sideOf_watched {x y : Bool} (ht : sideOf t x y = true) (hw : dsnWatched s t k.val = true) :
    sideOf t (x && dsnWatched s .a k.val) (y && dsnWatched s .b k.val) = true := by
  cases t with
  | a => exact Bool.and_eq_true_iff.2 ⟨ht, hw⟩
  | b => exact Bool.and_eq_true_iff.2 ⟨ht, hw⟩

theorem execDsnTh2_latches {x y : Bool} (hs : RegsOk s) (ht : sideOf t x y = true) (hw : dsnWatched s t k.val = true)
    (hl : biti s t R.TRIP_LATCH_SC k.val = false) : ∃ u, exec (.dsnTh2 ⟨k, x, y⟩) s = .next u ∧ ScLatched t k u :=
  ⟨_, rfl, scLatched_scTrip hs (sideOf_watched ht hw) hl⟩

theorem execDsnTh1_latches {x y : Bool} (hs : RegsOk s) (ht : sideOf t x y = true) (hw : dsnWatched s t k.val = true)
    (hb : (outs s (dsnPair s k.val)).blank = false) (hl : biti s t R.TRIP_LATCH_SC k.val = false) :
    ∃ u, exec (.dsnTh1 ⟨k, x, y⟩) s = .next u ∧ ScLatched t k u :=
  ⟨_, congrArg Host.Outcome.next (if_neg (by simp [hb])), scLatched_scTrip hs (sideOf_watched ht hw) hl⟩

/-- A side notes an input at TH1 during blanking (R263). -/
def earlySet (k : Nat) (s : State) (t : Twin) : State := evi (evi s t R.TRIP_LIVE_DSN_ABOVE k) t R.TRIP_LATCH_EARLY k

theorem execDsnTh1_early {x y : Bool} (hs : RegsOk s) (ht : sideOf t x y = true) (hw : dsnWatched s t k.val = true)
    (hb : (outs s (dsnPair s k.val)).blank = true) : ∃ u, exec (.dsnTh1 ⟨k, x, y⟩) s = .next u ∧
      biti u t R.TRIP_LATCH_EARLY k.val = true ∧ biti u t R.TRIP_LIVE_DSN_ABOVE k.val = true ∧
      rf u t R.TRIP_LATCH_SC = rf s t R.TRIP_LATCH_SC := by
  have hF : ∀ s v, Keeps (OtherRegs v) s (earlySet k.val s v) := fun s v =>
    evi_keeps (evi_keeps (Keeps.refl _ s) v _ _ (not_otherRegs v _)) v _ _ (not_otherRegs v _)
  obtain ⟨s1, hok, h1, h2⟩ := onSides_at hF (sideOf_watched ht hw) s
  have hs1 := hok hs
  have hs2 : RegsOk (evi s1 t R.TRIP_LIVE_DSN_ABOVE k.val) := regsOk_evi hs1 _ _
  refine ⟨_, congrArg Host.Outcome.next (if_pos hb), (h2.biti (by decide) _).trans (biti_evi_lane hs2 (by decide) k),
    (h2.biti (by decide) _).trans ?_, (h2.rf (by decide)).trans ?_⟩
  · rw [earlySet, biti_of_rf (rf_evi_lane hs2 (by decide) (by decide) k), biti_evi_lane hs1 (by decide)]
  · rw [earlySet, rf_evi_lane hs2 (by decide) (by decide), rf_evi_lane hs1 (by decide) (by decide), h1.rf (by decide)]

/-- A side whose input has fallen by the end of blanking (R263). -/
def earlyOver (k : Nat) (s : State) (t : Twin) : State :=
  evi (clri (clri s t R.TRIP_LIVE_DSN_ABOVE k) t R.TRIP_LATCH_EARLY k) t R.TRIP_EVENT_EARLY_CLEARED k

theorem earlyOver_keeps (k : Nat) (s : State) (t : Twin) : Keeps (OtherRegs t) s (earlyOver k s t) :=
  evi_keeps (clri_keeps (clri_keeps (Keeps.refl _ s) t _ _ (not_otherRegs t _)) t _ _ (not_otherRegs t _)) t _ _
    (not_otherRegs t _)

/-- Whether the input trips in side `t` at the end of blanking. -/
def blankTrips (s : State) (k : Nat) (above : Bool) (t : Twin) : Bool :=
  biti s t R.TRIP_LATCH_EARLY k && above && dsnWatched s t k

/-- Whether EARLY goes there. -/
def blankClears (s : State) (k : Nat) (above : Bool) (t : Twin) : Bool :=
  biti s t R.TRIP_LATCH_EARLY k && !(blankTrips s k above t)

/-- Blanking ends, and EARLY goes in the sides where it does. -/
def blankEnded (s : State) (k : Nat) (above : Bool) : State :=
  onSides (blankClears s k above .a) (blankClears s k above .b) (earlyOver k)
    (modOut s (dsnPair s k) fun o => { o with blank := false })

theorem execDsnBlankingEnd_eq (above : Bool) : exec (.dsnBlankingEnd k above) s =
    .next (if blankTrips s k.val above .a || blankTrips s k.val above .b then
      scTrip (blankEnded s k.val above) k.val (blankTrips s k.val above .a) (blankTrips s k.val above .b)
    else blankEnded s k.val above) := rfl

theorem tripSame_modOut (s : State) (j : Nat) (f : OutPair → OutPair) (t : Twin) : TripSame t s (modOut s j f) := by
  cases t <;> exact .of_regs rfl

theorem regsOk_modOut (hs : RegsOk s) (j : Nat) (f : OutPair → OutPair) : RegsOk (modOut s j f) :=
  ((RegsKept.refl (K := TripWord) hs).modOut j f).ok

theorem execDsnBlankingEnd_latches (hs : RegsOk s) (hw : dsnWatched s t k.val = true)
    (he : biti s t R.TRIP_LATCH_EARLY k.val = true) (hl : biti s t R.TRIP_LATCH_SC k.val = false) :
    ∃ u, exec (.dsnBlankingEnd k true) s = .next u ∧ biti u t R.TRIP_LATCH_SC k.val = true := by
  have htrips : blankTrips s k.val true t = true := by simp [blankTrips, he, hw]
  have hclears : blankClears s k.val true t = false := by simp [blankClears, htrips]
  have hsome : (blankTrips s k.val true .a || blankTrips s k.val true .b) = true := by
    cases t <;> simp [htrips]
  have hs1 := regsOk_modOut hs (dsnPair s k.val) fun o => { o with blank := false }
  have h2 : TripSame t s (blankEnded s k.val true) := (tripSame_modOut s _ _ t).trans
    (onSides_idle (earlyOver_keeps k.val) ((sideOf_apply t (blankClears s k.val true)).trans hclears) _)
  have hs2 : RegsOk (blankEnded s k.val true) := regsOk_onSides (fun s v => (earlyOver_keeps k.val s v).regs) hs1 _ _
  rw [execDsnBlankingEnd_eq, if_pos hsome]
  exact ⟨_, rfl, (scLatched_scTrip hs2 ((sideOf_apply t _).trans htrips) ((h2.biti (by decide) _).trans hl)).latch⟩

theorem execDsnBlankingEnd_clears (hs : RegsOk s) (he : biti s t R.TRIP_LATCH_EARLY k.val = true) :
    ∃ u, exec (.dsnBlankingEnd k false) s = .next u ∧ biti u t R.TRIP_LATCH_EARLY k.val = false ∧
      biti u t R.TRIP_EVENT_EARLY_CLEARED k.val = true ∧ rf u t R.TRIP_LATCH_SC = rf s t R.TRIP_LATCH_SC := by
  have hnone : ∀ v, blankTrips s k.val false v = false := fun v => by simp [blankTrips]
  have hclears : blankClears s k.val false t = true := by simp [blankClears, hnone, he]
  obtain ⟨s1, hok, h1, h2⟩ := onSides_at (earlyOver_keeps k.val)
    ((sideOf_apply t (blankClears s k.val false)).trans hclears)
    (modOut s (dsnPair s k.val) fun o => { o with blank := false })
  have hs1 := hok (regsOk_modOut hs _ _)
  have hs2 : RegsOk (clri s1 t R.TRIP_LIVE_DSN_ABOVE k.val) := regsOk_clri hs1 _ _
  have hs3 : RegsOk (clri (clri s1 t R.TRIP_LIVE_DSN_ABOVE k.val) t R.TRIP_LATCH_EARLY k.val) := regsOk_clri hs2 _ _
  rw [execDsnBlankingEnd_eq, if_neg (by simp [hnone])]
  refine ⟨_, rfl, (h2.biti (by decide) _).trans ?_, (h2.biti (by decide) _).trans (biti_evi_lane hs3 (by decide) k),
    (h2.rf (by decide)).trans ?_⟩
  · rw [earlyOver, biti_of_rf (rf_evi_lane hs3 (by decide) (by decide) k), biti_clri_lane hs2 (by decide)]
  · rw [earlyOver, rf_evi_lane hs3 (by decide) (by decide), rf_clri_lane hs2 (by decide) (by decide),
      rf_clri_lane hs1 (by decide) (by decide), h1.rf (by decide), (tripSame_modOut s _ _ t).rf (by decide)]

/-! Soft turn-off. -/

variable {f : OutPair → OutPair} {j : Nat}

theorem outs_modOut_same (hf : f (outs s j) ≠ {}) : outs (modOut s j f) j = f (outs s j) := tabGet_tabSet_of_ne hf _ _

theorem outs_modOut_ne (hf : f (outs s j) ≠ {}) {i : Nat} (hi : i ≠ j) : outs (modOut s j f) i = outs s i :=
  tabGet_tabSet_apart hf hi _

/-- The sources of R242 look at no more of the outputs than their states and the trip states they keep. -/
theorem choose_modOut (ho : ∀ i, (outs (modOut s j f) i).a = (outs s i).a ∧ (outs (modOut s j f) i).b = (outs s i).b ∧
    (outs (modOut s j f) i).hold = (outs s i).hold) (k x : Nat) : choose (modOut s j f) k x = choose s k x := by
  obtain ⟨-, -, hhold⟩ := ho k
  have htrip : tripped (modOut s j f) k = tripped s k := by
    rw [tripped, hhold]
    rfl
  have hlevel : modLevel (modOut s j f) k x = modLevel s k x := by
    obtain ⟨ha, hb, -⟩ := ho (gdPair s (k - 8))
    by_cases hk : k < 8
    · rw [modLevel, modLevel, if_pos hk, if_pos hk]
      rfl
    · rw [modLevel, modLevel, if_neg hk, if_neg hk]
      dsimp only
      rw [show gdPair (modOut s j f) (k - 8) = gdPair s (k - 8) from rfl, ha, hb]
      rfl
  rw [choose, htrip, hlevel, hhold]
  rfl

/-- The code that an output of a pair takes: high impedance where its channel's currents are 0 (R253). -/
def outputCode (s : State) (k x : Nat) : Nat × Bool :=
  let v := choose s k x
  if v.1 ≠ 2 ∧ noDrive s k x then (2, false) else v

theorem settleFed_eq (s : State) (k : Nat) (fed : Bool × Bool) : settleFed s k fed = onLive (showOut k)
    (modOut s k fun o => settleOut o (outputCode s k 0) (outputCode s k 1) fed (slewOf s k)) := rfl

theorem settleOut_off (o : OutPair) (cb : Nat × Bool) (fed : Bool × Bool) (slew : Nat) :
    (settleOut o (0, false) cb fed slew).a = 0 ∧ (settleOut o (0, false) cb fed slew).soft = o.soft := by
  simp [settleOut, waited]

theorem ne_default_of_off {o : OutPair} (h : o.a = 0) : o ≠ {} := by
  rintro rfl
  exact absurd h (by decide)

theorem rf_showOut_soft (hs : RegsOk s) (g : Fin 8) : rf (showOut (8 + g.val) s t) t (gf R.GD_P_STATUS_SOFT_ACTIVE g.val) =
    bit (outs s (8 + g.val)).soft := by
  unfold showOut
  extract_lets o tr pr s1 s2 s3 g' s4
  have hs1 : RegsOk s1 := by
    unfold s1
    split
    exacts [regsOk_evi hs _ _, regsOk_clri hs _ _]
  have hg : g' = g.val := Nat.add_sub_cancel_left ..
  rw [if_neg (by omega), hg, rf_wf_same ((hs1.wf _ _).wf _ _) _ (by show 2 < 32; decide) (Nat.le_refl 2)]
  show bit o.soft % 2 = bit o.soft
  cases o.soft <;> rfl

/-- What is done in each twin that is not in RESET, seen from one of them, where it leaves the power edge and the other
twin's registers alone. -/
theorem onLive_at {F : State → Twin → State} (hF : ∀ s v, Keeps (fun p => p = .edge ∨ OtherRegs v p) s (F s v))
    (hr : twState s t ≠ tsReset) : ∃ s1, (RegsOk s → RegsOk s1) ∧ s1.edge = s.edge ∧
      ((onLive F s).tw t).regs = ((F s1 t).tw t).regs := by
  have hF' : ∀ s v, Keeps (fun p => p = .edge ∨ OtherRegs v p) s (if twState s v = tsReset then s else F s v) := fun s v =>
    Keeps.dite (Keeps.refl _ s) (hF s v)
  cases t with
  | a =>
    exact ⟨s, id, rfl, ((hF' _ .b).same (.tw .a .regs) (.inr rfl)).trans
      (congrArg (fun v => (State.tw v .a).regs) (if_neg hr))⟩
  | b =>
    have hk := hF' s .a
    have hregs := hk.same (.tw .b .regs) (.inr rfl)
    refine ⟨_, hk.regs, hk.same .edge (.inl rfl), congrArg (fun v => (State.tw v .b).regs) (if_neg ?_)⟩
    rwa [twState, rf_congr hregs, ← twState]

/-- A gate-drive pair whose output A settles to off shows whether its soft turn-off goes on (R253). -/
theorem rf_settle1_soft (hs : RegsOk s) (hr : twState s t ≠ tsReset) (hc : outputCode s (8 + g.val) 0 = (0, false)) :
    rf (settle1 s (8 + g.val)) t (gf R.GD_P_STATUS_SOFT_ACTIVE g.val) = bit (outs s (8 + g.val)).soft := by
  obtain ⟨s1, hs1⟩ : ∃ s1, s1 = modOut s (8 + g.val) fun o => settleOut o (0, false)
    (outputCode s (8 + g.val) 1) (false, false) (slewOf s (8 + g.val)) := ⟨_, rfl⟩
  obtain ⟨hoff, hsoft⟩ := settleOut_off (outs s (8 + g.val)) (outputCode s (8 + g.val) 1) (false, false)
    (slewOf s (8 + g.val))
  have hout : (outs s1 (8 + g.val)).soft = (outs s (8 + g.val)).soft := by
    rw [hs1, outs_modOut_same (ne_default_of_off hoff), hsoft]
  have hok1 : RegsOk s1 := hs1 ▸ regsOk_modOut hs _ _
  have hr1 : twState s1 t ≠ tsReset := by
    rw [hs1]
    cases t <;> exact hr
  obtain ⟨s2, hok, hedge, hregs⟩ := onLive_at (F := showOut (8 + g.val))
    (fun s v => showOut_keeps (Keeps.refl _ s) _ v (by simp [OtherRegs])) hr1
  rw [settle1, settleFed_eq, hc, ← hs1, rf_congr hregs, rf_showOut_soft (hok hok1), outs, hedge, ← outs, hout]

/-- Settling an output changes no carrier and no generator. -/
theorem settle1_edge (s : State) (k : Nat) :
    (settle1 s k).edge.gen = s.edge.gen ∧ (settle1 s k).edge.pwm = s.edge.pwm := by
  have hedge : (settle1 s k).edge = (modOut s k fun o => settleOut o (outputCode s k 0) (outputCode s k 1) (false, false)
      (slewOf s k)).edge :=
    (onLive_keeps (P := (· = .edge)) (Keeps.refl _ _) _ fun _ v h => showOut_keeps h _ v nofun).same .edge rfl
  rw [hedge]
  exact ⟨rfl, rfl⟩

/-- The soft turn-off of a gate-drive pair is over. -/
def softEnded (s : State) (g : Nat) : State := modOut s (8 + g) fun o => { o with soft := false }

theorem execSoftTurnOffEnd_eq (s : State) (g : Fin 8) :
    exec (.softTurnOffEnd g) s = .next (settle1 (softEnded s g.val) (8 + g.val)) :=
  congrArg Host.Outcome.next (if_neg (by omega))

theorem outs_softEnded (ha : (outs s (8 + g.val)).a = 0) :
    outs (softEnded s g.val) (8 + g.val) = { outs s (8 + g.val) with soft := false } :=
  outs_modOut_same (f := fun o => { o with soft := false }) (ne_default_of_off ha)

theorem choose_softEnded (ha : (outs s (8 + g.val)).a = 0) (k x : Nat) :
    choose (softEnded s g.val) k x = choose s k x := by
  refine choose_modOut (fun i => ?_) k x
  by_cases hi : i = 8 + g.val
  · rw [hi, ← softEnded, outs_softEnded ha]
    exact ⟨rfl, rfl, rfl⟩
  · rw [outs_modOut_ne (f := fun o => { o with soft := false }) (ne_default_of_off ha) hi]
    exact ⟨rfl, rfl, rfl⟩

theorem execSoftTurnOffEnd_ends (hs : RegsOk s) (hr : twState s t ≠ tsReset) (ha : (outs s (8 + g.val)).a = 0)
    (hc : choose s (8 + g.val) 0 = (0, false)) (hn : noDrive s (8 + g.val) 0 = false) :
    ∃ u, exec (.softTurnOffEnd g) s = .next u ∧ rf u t (gf R.GD_P_STATUS_SOFT_ACTIVE g.val) = 0 := by
  have hcode : outputCode (softEnded s g.val) (8 + g.val) 0 = (0, false) := by
    have hn' : noDrive (softEnded s g.val) (8 + g.val) 0 = false := hn
    rw [outputCode, hn', choose_softEnded ha, hc]
    rfl
  have hs' : RegsOk (softEnded s g.val) := regsOk_modOut hs _ _
  have hr' : twState (softEnded s g.val) t ≠ tsReset := by cases t <;> exact hr
  refine ⟨_, execSoftTurnOffEnd_eq s g, ?_⟩
  rw [rf_settle1_soft hs' hr' hcode, outs_softEnded ha]
  rfl

theorem execSoftTurnOffEnd_keeps_edge (s : State) (g : Fin 8) : ∃ u, exec (.softTurnOffEnd g) s = .next u ∧
    u.edge.gen = s.edge.gen ∧ u.edge.pwm = s.edge.pwm ∧ u.report = s.report := by
  obtain ⟨hgen, hpwm⟩ := settle1_edge (softEnded s g.val) (8 + g.val)
  exact ⟨_, execSoftTurnOffEnd_eq s g, hgen, hpwm, settle1_report _ _⟩

/-- Settles O38: each clause is the effect of its row in the trip block of one twin, which the settling of the outputs that
follows leaves alone (`tripKept_settleAll`). -/
theorem tripCommandsComplete : Obligations.TripCommandsComplete := by
  refine ⟨fun _ t _ x y hs hside hen hl hn => ?_, fun _ _ hs ha hb => execTripSideDiff_takes hs ha hb,
    fun _ _ _ _ _ _ hs hin hsc => execTripClear_clears hs hin hsc, fun _ _ _ _ _ _ hs h => execTripClear_refuses hs h,
    fun _ _ _ hs hr htg => execTripLock_locks hs hr htg, fun _ t _ x y hs hside hw hl => ?_,
    fun _ t _ x y hs hside hw hb => execDsnTh1_early (t := t) hs hside hw hb, fun _ t _ x y hs hside hw hb hl => ?_,
    fun _ _ _ hs hw he hl => execDsnBlankingEnd_latches hs hw he hl,
    fun _ _ _ hs he => execDsnBlankingEnd_clears hs he,
    fun _ _ _ hs hr ha hc hn => execSoftTurnOffEnd_ends hs hr ha hc hn, execSoftTurnOffEnd_keeps_edge⟩
  · obtain ⟨u, hu, hlatched⟩ := execTripLatch_latches (t := t) (x := x) (y := y) hs hside hen hl hn
    exact ⟨u, hu, hlatched.latch, hlatched.event, hlatched.live, hlatched.count⟩
  · obtain ⟨u, hu, hlatched⟩ := execDsnTh2_latches (t := t) (x := x) (y := y) hs hside hw hl
    exact ⟨u, hu, hlatched.latch, hlatched.event, hlatched.early⟩
  · obtain ⟨u, hu, hlatched⟩ := execDsnTh1_latches (t := t) (x := x) (y := y) hs hside hw hb hl
    exact ⟨u, hu, hlatched.latch, hlatched.event⟩

end Sys2Proof.Machine

/-! The statement on triggers, sequences and conversions (O31) is false: it has a trigger that meets a run leave the
converter's state as it was, and the trigger marks the entries of that run STALE, in the latest conversions on record too
(R280, R283). -/

namespace Sys2Proof.Machine

/-- Converter 0 of twin A is enabled; its regular sequence of one entry takes the array cycle start and runs, and the entry
has a conversion of code 5 on record. All else is as after reset. -/
def runOnRecord : State :=
  { a := { regs := [(R.ADC_STATUS_REG_BUSY.addr, 0x101#32), (R.ADC_C_CTRL, 1#32), (R.ADC_C_RCFG, 0x40000001#32)],
           adc := { convs := [(0, { reg := { run := true }, inFlight := 1, hist := [(0, [(0, 5#32)])] })] } } }

theorem regsOk_runOnRecord : RegsOk runOnRecord := (regsOk_iff _).2 ⟨by decide +kernel, by decide +kernel⟩

/-- The array cycle start reaches the running sequence. -/
theorem runOnRecord_triggered : seqOn runOnRecord .a 0 false = true ∧ flag runOnRecord .a R.ADC_STATUS_AD_UNLOCK = false ∧
    seqBusy runOnRecord .a 0 false = true ∧ seqDue runOnRecord .a 0 false = true ∧
    (rd runOnRecord .a (ca R.ADC_C_TRIG_OVR 0)).toNat < 4294967294 := by
  decide +kernel

/-- The conversion on record takes the flag STALE. -/
theorem hist_adcTrigger_runOnRecord :
    (conv (adcTrigger runOnRecord .a 0 false) .a 0).hist = [(0, [(0, 0x80000005#32)])] := by
  decide +kernel

theorem exec_adcTrigger_runOnRecord (hdue : seqDue runOnRecord .a 0 false = true) :
    exec (.adcTrigger .a 0) runOnRecord = .next (adcTrigger runOnRecord .a 0 false) :=
  congrArg Host.Outcome.next (if_pos hdue)

/-- Refutes O31: its clause on an ADC trigger that meets a busy sequence leaves the whole converter as it was. The entry of the
running sequence has a conversion on record, and the trigger that is lost marks that one STALE. -/
theorem not_adcSequenceCommandsComplete : ¬ Obligations.AdcSequenceCommandsComplete := by
  intro h
  obtain ⟨-, hbusy, -⟩ := h
  obtain ⟨hon, hlock, hrun, hdue, hcount⟩ := runOnRecord_triggered
  obtain ⟨u, hu, -, -, hconv⟩ := hbusy runOnRecord .a 0 regsOk_runOnRecord hon hlock hrun hdue hcount
  have hnext := (exec_adcTrigger_runOnRecord hdue).symm.trans hu
  injection hnext with hnext
  have hhist := hist_adcTrigger_runOnRecord
  rw [hnext] at hhist
  exact absurd ((congrArg ConvSt.hist hconv).symm.trans hhist) (by decide)

end Sys2Proof.Machine

/-! The Sluice ledger as a request for leave and its return leave it, for any words outside the block of the power
registers, and what free leave gives (R443, R444). -/

namespace Sys2Proof.Machine

variable {K : Nat → Prop} {s0 s s' : State} {t u : Twin} {op arg : Nat} {host : Bool}

/-- The words of the power registers, which show the ledger, are free to change. -/
abbrev LedgerOpen (K : Nat → Prop) : Prop := Open 0x10100 0x10200 K

theorem regsKept_showLedgers (hK : LedgerOpen K) (h : RegsKept K s0 s) : RegsKept K s0 (onBoth showLedger s) :=
  h.onBoth fun _ t hs => regsKept_showLedger hs (hK.addr (by decide)) (hK.addr (by decide)) t

theorem regsKept_grantHead (hK : LedgerOpen K) (h : RegsKept K s0 s) (t : Twin) : RegsKept K s0 (grantHead s t) := by
  unfold grantHead
  split
  · exact h
  next q _ _ =>
    have h1 := h.sluice { queue := s.sluice.queue.erase q, held := s.sluice.held ++ [q] }
    have h2 := h1.ev (t := q.twin) (f := R.PWR_EVENT_SLU_GRANT) (hK.addr (by decide))
    exact RegsKept.ite (regsKept_showLedgers hK (h2.ite h1)) h

theorem regsKept_leaveAsk (hK : LedgerOpen K) (h : RegsKept K s0 s) (op : Nat) (t : Twin) (host : Bool) (arg : Nat) :
    RegsKept K s0 (leaveAsk s op t host arg) := by
  unfold leaveAsk
  extract_lets r code x s1
  have h1 : RegsKept K s0 s1 := regsKept_showLedgers hK (h.sluice _)
  exact RegsKept.ite ((h.onBoth fun _ u hs => hs.wr (hK.addr (by decide)) _).say _) ((regsKept_grantHead hK h1 t).ite h1)

theorem regsKept_leaveReturned (hK : LedgerOpen K) (h : RegsKept K s0 s) (op : Nat) (t : Twin) :
    RegsKept K s0 (leaveEnd s op t) :=
  regsKept_leaveEnd h (hK.addr (by decide)) (hK.addr (by decide)) op t

/-! Leave that returns. -/

theorem leaveEnd_report (s : State) (op : Nat) (t : Twin) : (leaveEnd s op t).report = s.report := by
  have hshow : ∀ s : State, (onBoth showLedger s).report = s.report := onBoth_report fun s t => by simp [showLedger]
  unfold leaveEnd
  rw [hshow]
  split
  · rfl
  · split
    · rfl
    · rfl

theorem leaveEndFor_report (s : State) (op : Nat) (t : Twin) (arg : Nat) : (leaveEndFor s op t arg).report = s.report := by
  have hshow : ∀ s : State, (onBoth showLedger s).report = s.report := onBoth_report fun s t => by simp [showLedger]
  unfold leaveEndFor
  rw [hshow]
  split
  · rfl
  · split
    · rfl
    · rfl

/-- What is left of the ledger depends on the ledger alone. -/
theorem leaveEndFor_sluice_congr (h : s'.sluice = s.sluice) (op : Nat) (t : Twin) (arg : Nat) :
    (leaveEndFor s' op t arg).sluice = (leaveEndFor s op t arg).sluice := by
  unfold leaveEndFor
  rw [showLedgers_sluice, showLedgers_sluice, h]
  split
  · rfl
  · split
    · rfl
    · exact h

/-- An operation that alone holds leave leaves none held. -/
theorem leaveEnd_held {r : LeaveReq} (hr : (r.op == op && r.twin == t) = true) (hs : s.sluice.held = [r]) :
    (leaveEnd s op t).sluice.held = [] := by
  have hfind : s.sluice.held.find? (fun r => r.op == op && r.twin == t) = some r := by
    rw [hs]
    exact List.find?_cons_of_pos hr
  rw [leaveEnd, hfind]
  dsimp only
  rw [showLedgers_sluice, hs]
  simp

/-! Free leave. -/

theorem leaveFree_congr (hk : RegsKept HeadroomWord s s') (htwn : ∀ u, (s'.tw u).twn = (s.tw u).twn)
    (hsluice : s'.sluice = s.sluice) (hpfail : s'.pfail = s.pfail) : leaveFree s' t op arg = leaveFree s t op arg := by
  have hheadroom : headroom s' t = headroom s t := headroom_congr (fun _ => hk.rf (.inl rfl)) htwn (hk.same _ _ (.inr rfl))
  have hledger : ∀ l, sameLedger s' t l = sameLedger s t l := fun l => by
    rw [sameLedger, splitLedger_congr htwn, ← sameLedger]
  simp only [leaveFree, inUse, hledger, hsluice, hpfail, hheadroom]
  rfl

theorem leaveFree_say (h : RegsOk s) (c : Nat) : leaveFree (say s c) t op arg = leaveFree s t op arg :=
  leaveFree_congr ((RegsKept.refl h).say c) (fun u => by rw [say_tw]) rfl rfl

theorem leaveAsk_report_granted (hf : leaveFree s t op arg = true) : (leaveAsk s op t host arg).report = s.report := by
  obtain ⟨hp, -, hfits⟩ := leaveFree_iff.1 hf
  exact leaveAsk_report hp (Nat.le_of_add_left_le hfits)

theorem leaveHeld_granted (h : RegsOk s) (hf : leaveFree s t op arg = true) :
    leaveHeld (leaveAsk s op t host arg) op t = true := by
  rw [leaveHeld, leaveAsk_granted h hf]
  simp [leaveReq]

theorem leaveHeld_congr (h : s'.sluice = s.sluice) (op : Nat) (t : Twin) : leaveHeld s' op t = leaveHeld s op t := by
  rw [leaveHeld, h, ← leaveHeld]

end Sys2Proof.Machine

/-! Calibration: the measuring steps and their end, COMMIT and ABORT (O32; R291, R292, R443). -/

namespace Sys2Proof.Machine

variable {K : Nat → Prop} {s0 s s' : State} {t u : Twin} {f g : Fld} {n c : Nat} {d : List (List W32)} {x : Bool}

/-! The measurement state of a twin. -/

theorem adc_modAdc (s : State) (t : Twin) (f : AdcSt → AdcSt) : ((modAdc s t f).tw t).adc = f (s.tw t).adc := by
  rw [modAdc, setTw_tw]

theorem rf_modAdc (s : State) (t u : Twin) (f : AdcSt → AdcSt) (g : Fld) : rf (modAdc s t f) u g = rf s u g :=
  rf_congr (by cases t <;> cases u <;> rfl) g

theorem modAdc_report (s : State) (t : Twin) (f : AdcSt → AdcSt) : (modAdc s t f).report = s.report := setTw_report ..

theorem modAdc_sluice (s : State) (t : Twin) (f : AdcSt → AdcSt) : (modAdc s t f).sluice = s.sluice := setTw_sluice ..

theorem RegsKept.modAdc (h : RegsKept K s0 s) (t : Twin) (f : AdcSt → AdcSt) : RegsKept K s0 (modAdc s t f) :=
  h.keep (modAdc_keeps (Keeps.refl _ s) t f id)

theorem RegsKept.modConv (h : RegsKept K s0 s) (t : Twin) (q : Nat) (f : ConvSt → ConvSt) :
    RegsKept K s0 (modConv s t q f) := h.modAdc t _

theorem leaveAsk_adc (s : State) (op : Nat) (t u : Twin) (host : Bool) (arg : Nat) :
    ((leaveAsk s op t host arg).tw u).adc = (s.tw u).adc :=
  (leaveAsk_keeps (P := (· = .tw u .adc)) (Keeps.refl _ s) op t host arg nofun nofun).same (.tw u .adc) rfl

theorem leaveEnd_adc (s : State) (op : Nat) (t u : Twin) : ((leaveEnd s op t).tw u).adc = (s.tw u).adc :=
  (leaveEnd_keeps (P := (· = .tw u .adc)) (Keeps.refl _ s) op t nofun nofun).same (.tw u .adc) rfl

theorem leaveEndFor_adc (s : State) (op : Nat) (t u : Twin) (arg : Nat) :
    ((leaveEndFor s op t arg).tw u).adc = (s.tw u).adc :=
  (leaveEndFor_keeps (P := (· = .tw u .adc)) (Keeps.refl _ s) op t arg nofun nofun).same (.tw u .adc) rfl

theorem leaveEndFor_flash (s : State) (op : Nat) (t u : Twin) (arg : Nat) :
    ((leaveEndFor s op t arg).tw u).flash = (s.tw u).flash :=
  (leaveEndFor_keeps (P := (· = .tw u .flash)) (Keeps.refl _ s) op t arg nofun nofun).same (.tw u .flash) rfl

/-! A step that fails. -/

theorem calFail_shows (hs : RegsOk s) {result : Nat} (hr : result < 16) (code : Nat) :
    (calFail s t result code).report = code ∧ rf (calFail s t result code) t R.ADC_CAL_STATUS_RESULT = result ∧
    flag (calFail s t result code) t R.ADC_EVENT_CAL_FAIL = true ∧
    ((calFail s t result code).tw t).adc = (s.tw t).adc := by
  have hresult : rf (wf s t R.ADC_CAL_STATUS_RESULT result) t R.ADC_CAL_STATUS_RESULT = result := by
    rw [rf_wf_same hs _ (by decide) (by decide)]
    exact Nat.mod_eq_of_lt hr
  refine ⟨rfl, ?_, ?_, ?_⟩
  · rw [calFail, rf_say, ev, Apart.rf (by decide) (hs.wf _ _), hresult]
  · rw [calFail, flag_of_rf (rf_say ..), flag_ev_same (hs.wf _ _) _ (by decide) rfl]
  · rw [calFail, say_tw, ev_adc, wf_adc]

theorem rf_calFail (hs : RegsOk s) (hr : Apart R.ADC_CAL_STATUS_RESULT g) (he : Apart R.ADC_EVENT_CAL_FAIL g)
    (result code : Nat) : rf (calFail s t result code) t g = rf s t g := by
  rw [calFail, rf_say, ev, he.rf (hs.wf _ _), hr.rf hs]

theorem calRange_shows (hs : RegsOk s) : (calRange s t).report = Rc.CAL_RANGE ∧
    rf (calRange s t) t R.ADC_CAL_STATUS_RESULT = 1 ∧ rf (calRange s t) t R.ADC_CAL_STATUS_PENDING = 0 ∧
    flag (calRange s t) t R.ADC_EVENT_CAL_FAIL = true ∧
    ((calRange s t).tw t).adc = { (s.tw t).adc with lat := [], latSkew := [] } := by
  obtain ⟨s1, hs1⟩ : ∃ s1, s1 = modAdc (wf s t R.ADC_CAL_STATUS_PENDING 0) t
    (fun a => { a with lat := [], latSkew := [] }) :=
    ⟨_, rfl⟩
  have h1 : RegsOk s1 := hs1 ▸ ((RegsKept.refl (K := fun _ => False) (hs.wf _ _)).modAdc t _).ok
  have hpending : rf s1 t R.ADC_CAL_STATUS_PENDING = 0 := by
    rw [hs1, rf_modAdc, rf_wf_same hs _ (by decide) (by decide)]
    rfl
  have heq : calRange s t = calFail s1 t 1 Rc.CAL_RANGE := by rw [hs1, calRange]
  obtain ⟨hreport, hresult, hevent, hadc⟩ := calFail_shows (t := t) h1 (result := 1) (by decide) Rc.CAL_RANGE
  rw [heq]
  refine ⟨hreport, hresult, ?_, hevent, ?_⟩
  · rw [rf_calFail h1 (by decide) (by decide), hpending]
  · rw [hadc, hs1, adc_modAdc, wf_adc]

/-! A step that is asked for. -/

/-- Leave for a measuring step is granted (R443). -/
def stepGranted (s : State) (t : Twin) (n : Nat) : State :=
  modAdc (leaveAsk (say s Rc.OK) 3 t true 0) t (fun a => { a with step := n })

theorem calRun_shows (hs : RegsOk s) : (calRun s t).report = s.report ∧ (calRun s t).sluice = s.sluice ∧
    ((calRun s t).tw t).adc = (s.tw t).adc ∧ rf (calRun s t) t R.ADC_CAL_STATUS_BUSY = 1 ∧
    ((s.tw t).adc.step = 3 → rf (calRun s t) t R.ADC_TESTV_MODE = 1) := by
  have hbusy : rf (wf s t R.ADC_CAL_STATUS_BUSY 1) t R.ADC_CAL_STATUS_BUSY = 1 :=
    rf_wf_same hs _ (by decide) (by decide) 1
  rw [calRun, wf_adc]
  split
  · refine ⟨by simp, by simp, by simp, ?_, fun _ => rf_wf_same (hs.wf _ _) _ (by decide) (by decide) 1⟩
    rw [Apart.rf (by decide) (hs.wf _ _), hbusy]
  next hstep => exact ⟨by simp, by simp, by simp, hbusy, fun h => absurd h hstep⟩

/-- With the converters of MASK off, and zero measured where full scale needs it, a step holds leave that is free and
runs. -/
theorem calStep_runs (hs : RegsOk s) (hf : leaveFree s t 3 0 = true)
    (hoff : (calMask s t).all (fun q => !(biti s t R.ADC_STATUS_ENABLED q)) = true)
    (hzero : n = 2 → flag s t R.ADC_CAL_STATUS_HAVE_ZERO = true) :
    (calStep s t n).report = Rc.OK ∧ ((calStep s t n).tw t).adc.step = n ∧
    rf (calStep s t n) t R.ADC_CAL_STATUS_BUSY = 1 ∧ leaveHeld (calStep s t n) 3 t = true ∧
    (n = 3 → rf (calStep s t n) t R.ADC_TESTV_MODE = 1) := by
  have hfree : leaveFree (say s Rc.OK) t 3 0 = true := (leaveFree_say hs _).trans hf
  have hs1 : RegsOk (say s Rc.OK) := (regsOk_say _).2 hs
  have hreport : (leaveAsk (say s Rc.OK) 3 t true 0).report = Rc.OK := leaveAsk_report_granted hfree
  have hs2 : RegsOk (stepGranted s t n) :=
    ((regsKept_leaveAsk (K := fun _ => False) (fun _ _ _ => id) (RegsKept.refl hs1) 3 t true 0).modAdc t _).ok
  have hheld : leaveHeld (stepGranted s t n) 3 t = true :=
    (leaveHeld_congr (modAdc_sluice ..) 3 t).trans (leaveHeld_granted hs1 hfree)
  have hany : ¬ (calMask s t).any (fun q => biti s t R.ADC_STATUS_ENABLED q) = true := by simpa using hoff
  have hstep : ((stepGranted s t n).tw t).adc.step = n := by rw [stepGranted, adc_modAdc]
  have heq : calStep s t n = calRun (stepGranted s t n) t := by
    rw [calStep, if_neg hany, if_neg (by simpa using hzero)]
    dsimp only
    rw [if_neg (not_not_intro hreport), ← stepGranted, if_pos hheld]
  obtain ⟨hrep, hsluice, hadc, hbusy, htestv⟩ := calRun_shows (t := t) hs2
  rw [heq]
  refine ⟨?_, ?_, hbusy, (leaveHeld_congr hsluice 3 t).trans hheld, fun h3 => htestv (hstep.trans h3)⟩
  · rw [hrep, stepGranted, modAdc_report, hreport]
  · rw [hadc, hstep]

theorem calStep_busy (hs : RegsOk s) (hon : (calMask s t).any (fun q => biti s t R.ADC_STATUS_ENABLED q) = true) :
    (calStep s t n).report = Rc.CAL_BUSY ∧ rf (calStep s t n) t R.ADC_CAL_STATUS_RESULT = 2 ∧
    ((calStep s t n).tw t).adc.step = (s.tw t).adc.step := by
  rw [calStep, if_pos hon]
  refine ⟨rfl, ?_, by rw [say_tw, wf_adc]⟩
  rw [rf_say, rf_wf_same hs _ (by decide) (by decide)]
  rfl

theorem calStep_noZero (hs : RegsOk s) (hoff : (calMask s t).all (fun q => !(biti s t R.ADC_STATUS_ENABLED q)) = true)
    (hzero : flag s t R.ADC_CAL_STATUS_HAVE_ZERO = false) : (calStep s t 2).report = Rc.CAL_RANGE ∧
    rf (calStep s t 2) t R.ADC_CAL_STATUS_RESULT = 1 ∧ ((calStep s t 2).tw t).adc.step = (s.tw t).adc.step := by
  obtain ⟨hreport, hresult, -, -, hadc⟩ := calRange_shows (t := t) hs
  have heq : calStep s t 2 = calRange s t := by
    rw [calStep, if_neg (by simpa using hoff), if_pos (by simp [hzero])]
  rw [heq]
  exact ⟨hreport, hresult, by rw [hadc]⟩


/-! The end of a measurement. -/

/-- The measurement is over: its step has ended and its leave returned, and what was measured is still to be judged. -/
def calMeasured (s : State) (t : Twin) : State :=
  modAdc (leaveEnd (wf s t R.ADC_CAL_STATUS_BUSY 0) 3 t) t (fun a => { a with step := 0 })

theorem regsKept_calMeasured (hs : RegsOk s) (t : Twin) :
    RegsKept (fun a => 0x1100000 ≤ a ∧ a ≠ R.ADC_CAL_STATUS_BUSY.addr) s (calMeasured s t) :=
  (regsKept_leaveReturned (fun _ _ hlt hk => absurd hk.1 (by omega)) ((RegsKept.refl hs).wf (by decide) 0) 3 t).modAdc t _

theorem calMeasured_adc (s : State) (t : Twin) : ((calMeasured s t).tw t).adc = { (s.tw t).adc with step := 0 } := by
  rw [calMeasured, adc_modAdc, leaveEnd_adc, wf_adc]

theorem busy_calMeasured (hs : RegsOk s) : rf (calMeasured s t) t R.ADC_CAL_STATUS_BUSY = 0 := by
  have hkept : RegsKept (· = R.ADC_CAL_STATUS_BUSY.addr) (wf s t R.ADC_CAL_STATUS_BUSY 0) (calMeasured s t) :=
    (regsKept_leaveReturned (fun _ _ hlt hk => absurd (hk ▸ hlt) (by decide))
      (RegsKept.refl (hs.wf _ _)) 3 t).modAdc t _
  rw [hkept.rf rfl, rf_wf_same hs _ (by decide) (by decide)]
  rfl

/-- The settings of calibration are as they were before. -/
theorem rf_calMeasured (hs : RegsOk s) (hg : g.addr = R.ADC_CAL_CTRL ∨ g.addr = R.ADC_CAL_TGT_FULL.addr) :
    rf (calMeasured s t) u g = rf s u g :=
  (regsKept_calMeasured hs t).rf (by rcases hg with hg | hg <;> rw [hg] <;> decide)

theorem calMask_calMeasured (hs : RegsOk s) : calMask (calMeasured s t) t = calMask s t :=
  List.filter_congr fun q _ => biti_of_rf (rf_calMeasured hs (.inl rfl)) q

theorem maskPairs_calMeasured (hs : RegsOk s) : maskPairs (calMeasured s t) t = maskPairs s t := by
  rw [maskPairs, calMask_calMeasured hs, ← maskPairs]

theorem calCoef_calMeasured (hs : RegsOk s) (mz mf : Nat) : calCoef (calMeasured s t) t mz mf = calCoef s t mz mf := by
  rw [calCoef, rf_calMeasured hs (.inr rfl), rf_calMeasured hs (g := R.ADC_CAL_TGT_ZERO) (.inr rfl), ← calCoef]

/-- The sums of a zero measurement. -/
def zeroNoted (s : State) (t : Twin) (d : List (List W32)) (a : AdcSt) : AdcSt :=
  { a with zero := ((calMask s t).zip d).foldl (fun l p => tabPut true l p.1 (p.2.headD 0).toNat) [] }

/-- The coefficients of a full measurement, one for each converter of MASK. -/
def coefFound (s : State) (t : Twin) (d : List (List W32)) : List (Nat × Option W32) :=
  ((calMask s t).zip d).map fun p => (p.1, calCoef s t (tabGet 0 (s.tw t).adc.zero p.1) (p.2.headD 0).toNat)

def coefNoted (s : State) (t : Twin) (d : List (List W32)) (a : AdcSt) : AdcSt :=
  let i := rf s t R.ADC_CAL_CTRL_INPUT
  { a with lat := (coefFound s t d).foldl (fun l p => tabPut true l (16 * p.1 + i) (p.2.getD 0)) a.lat }

/-- The values of a skew measurement, one for each pair of MASK. -/
def skewFound (s : State) (t : Twin) (d : List (List W32)) : List (Nat × Option W32) :=
  ((maskPairs s t).zip d).map fun p => (p.1 + 1, skewOf p.2)

def skewNoted (s : State) (t : Twin) (d : List (List W32)) (a : AdcSt) : AdcSt :=
  { a with latSkew := (skewFound s t d).foldl (fun l p => tabPut true l p.1 (p.2.getD 0)) a.latSkew }

/-- A measurement whose crossing works is judged, step by step (R291, R292). -/
theorem execCalMeasureEnd_live (hx : (xing s t (xingKey 1 true)).dead = false) (hb : rf s t R.ADC_CAL_STATUS_BUSY = 1) :
    execCalMeasureEnd t d x s = .next (
      if (s.tw t).adc.step = 3 then
        if (skewFound (calMeasured s t) t d).any (fun p => p.2.isNone) then calFail (calMeasured s t) t 4 Rc.SKEW_RANGE
        else wf (wf (modAdc (calMeasured s t) t (skewNoted (calMeasured s t) t d)) t R.ADC_CAL_STATUS_RESULT 0) t
          R.ADC_CAL_STATUS_PENDING 1
      else if x then calRange (calMeasured s t) t
      else if (s.tw t).adc.step = 1 then
        wf (wf (modAdc (calMeasured s t) t (zeroNoted (calMeasured s t) t d)) t R.ADC_CAL_STATUS_RESULT 0) t
          R.ADC_CAL_STATUS_HAVE_ZERO 1
      else if (coefFound (calMeasured s t) t d).any (fun p => p.2.isNone) then calRange (calMeasured s t) t
      else ev (wf (wf (modAdc (calMeasured s t) t (coefNoted (calMeasured s t) t d)) t R.ADC_CAL_STATUS_RESULT 0) t
        R.ADC_CAL_STATUS_PENDING 1) t R.ADC_EVENT_CAL_DONE) := by
  rw [execCalMeasureEnd, if_neg (by rw [hb]; decide), crossIn, if_neg (by simp [hx])]
  rfl

theorem any_skewFound (hs : RegsOk s) : (skewFound (calMeasured s t) t d).any (fun p => p.2.isNone) =
    ((maskPairs s t).zip d).any (fun p => (skewOf p.2).isNone) := by
  rw [skewFound, maskPairs_calMeasured hs, List.any_map]
  rfl

theorem any_coefFound (hs : RegsOk s) : (coefFound (calMeasured s t) t d).any (fun p => p.2.isNone) =
    ((calMask s t).zip d).any (fun p => (calCoef s t (tabGet 0 (s.tw t).adc.zero p.1) (p.2.headD 0).toNat).isNone) := by
  simp only [coefFound, calMask_calMeasured hs, calCoef_calMeasured hs, calMeasured_adc, List.any_map]
  rfl

/-- Where every value is found none is out of range. -/
theorem any_isNone_eq_false {α β : Type} {l : List α} {f : α → Option β} (h : l.all (fun p => (f p).isSome) = true) :
    ¬ l.any (fun p => (f p).isNone) = true := by
  simpa [Option.isSome_iff_ne_none] using h

theorem execCalMeasureEnd_dead (hs : RegsOk s) (hx : (xing s t (xingKey 1 true)).dead = true)
    (hb : rf s t R.ADC_CAL_STATUS_BUSY = 1) (hc : (rd s t (R.CLK_XING_DROPPED_AT_RESET + 8)).toNat < 4294967294) :
    ∃ u, execCalMeasureEnd t d x s = .next u ∧
    rd u t (R.CLK_XING_DROPPED_AT_RESET + 8) = rd s t (R.CLK_XING_DROPPED_AT_RESET + 8) + 1 ∧
    SameRegs s u t [R.CLK_XING_DROPPED_AT_RESET + 8] := by
  obtain ⟨s1, hs1⟩ : ∃ s1, s1 = setXing s t (xingKey 1 true) { xing s t (xingKey 1 true) with notReady := true } := ⟨_, rfl⟩
  have h1 : RegsOk s1 := hs1 ▸ regsOk_setXing hs _ _
  have hrd : ∀ a, rd s1 t a = rd s t a := fun a => by rw [hs1, rd_setXing]
  have hc1 : (rd s1 t (R.CLK_XING_DROPPED_AT_RESET + 8)).toNat < 4294967294 := by rwa [hrd]
  refine ⟨cnt s1 t (R.CLK_XING_DROPPED_AT_RESET + 8), ?_, ?_, fun a ha => ?_⟩
  · rw [execCalMeasureEnd, if_neg (by rw [hb]; decide), crossIn, if_pos hx, hs1]
    rfl
  · rw [rd_cnt_same h1 hc1, hrd]
  · rw [cnt, cntBy, if_pos (by omega), rd_wr_ne h1 (by simpa using ha), hrd]

/-- A measurement whose values are noted is over, with RESULT 0 and the bit `g` of CAL_STATUS set. -/
def resultShown (s : State) (t : Twin) (f : AdcSt → AdcSt) (g : Fld) : State :=
  wf (wf (modAdc (calMeasured s t) t f) t R.ADC_CAL_STATUS_RESULT 0) t g 1

theorem regsOk_resultShown (hs : RegsOk s) (f : AdcSt → AdcSt) (g : Fld) : RegsOk (resultShown s t f g) :=
  (((regsKept_calMeasured hs t).modAdc t f).ok.wf _ _).wf _ _

theorem resultShown_shows (hs : RegsOk s) {f : AdcSt → AdcSt} (hf : ∀ a, (f a).step = a.step)
    (hg : g ∈ [R.ADC_CAL_STATUS_PENDING, R.ADC_CAL_STATUS_HAVE_ZERO]) :
    rf (resultShown s t f g) t R.ADC_CAL_STATUS_BUSY = 0 ∧ rf (resultShown s t f g) t R.ADC_CAL_STATUS_RESULT = 0 ∧
    rf (resultShown s t f g) t g = 1 ∧ ((resultShown s t f g).tw t).adc.step = 0 := by
  have hfield : ∀ g ∈ [R.ADC_CAL_STATUS_PENDING, R.ADC_CAL_STATUS_HAVE_ZERO], Apart g R.ADC_CAL_STATUS_BUSY ∧
      Apart g R.ADC_CAL_STATUS_RESULT ∧ g.hi < 32 ∧ g.lo = g.hi := by decide
  obtain ⟨hbusy, hresult, h32, hone⟩ := hfield g hg
  have h1 : RegsOk (modAdc (calMeasured s t) t f) := ((regsKept_calMeasured hs t).modAdc t f).ok
  have h2 := h1.wf (t := t) R.ADC_CAL_STATUS_RESULT 0
  refine ⟨?_, ?_, ?_, ?_⟩
  · rw [resultShown, hbusy.rf h2, Apart.rf (by decide) h1, rf_modAdc, busy_calMeasured hs]
  · rw [resultShown, hresult.rf h2, rf_wf_same h1 _ (by decide) (by decide)]
    rfl
  · rw [resultShown, rf_wf_same h2 g h32 hone.le, hone, Nat.add_sub_cancel_left]
    rfl
  · rw [resultShown, wf_adc, wf_adc, adc_modAdc, hf, calMeasured_adc]

section
variable (hs : RegsOk s) (hx : (xing s t (xingKey 1 true)).dead = false) (hb : rf s t R.ADC_CAL_STATUS_BUSY = 1)
include hs hx hb

theorem execCalMeasureEnd_zero (h1 : (s.tw t).adc.step = 1) : ∃ u, execCalMeasureEnd t d false s = .next u ∧
    rf u t R.ADC_CAL_STATUS_BUSY = 0 ∧ rf u t R.ADC_CAL_STATUS_RESULT = 0 ∧ flag u t R.ADC_CAL_STATUS_HAVE_ZERO = true ∧
    (u.tw t).adc.step = 0 := by
  obtain ⟨hbusy, hresult, hzero, hstep⟩ := resultShown_shows (t := t) hs (f := zeroNoted (calMeasured s t) t d)
    (g := R.ADC_CAL_STATUS_HAVE_ZERO) (fun _ => rfl) (by decide)
  refine ⟨_, ?_, hbusy, hresult, beq_iff_eq.2 hzero, hstep⟩
  rw [execCalMeasureEnd_live hx hb, if_neg (by rw [h1]; decide), if_neg (by decide), if_pos h1, resultShown]

theorem execCalMeasureEnd_full (h2 : (s.tw t).adc.step = 2) (hin : ((calMask s t).zip d).all (fun p =>
      (calCoef s t (tabGet 0 (s.tw t).adc.zero p.1) (p.2.headD 0).toNat).isSome) = true) :
    ∃ u, execCalMeasureEnd t d false s = .next u ∧ rf u t R.ADC_CAL_STATUS_BUSY = 0 ∧
    rf u t R.ADC_CAL_STATUS_PENDING = 1 ∧ flag u t R.ADC_EVENT_CAL_DONE = true ∧ (u.tw t).adc.step = 0 := by
  obtain ⟨hbusy, -, hpending, hstep⟩ := resultShown_shows (t := t) hs (f := coefNoted (calMeasured s t) t d)
    (g := R.ADC_CAL_STATUS_PENDING) (fun _ => rfl) (by decide)
  have h1 := regsOk_resultShown (t := t) hs (coefNoted (calMeasured s t) t d) R.ADC_CAL_STATUS_PENDING
  refine ⟨ev (resultShown s t (coefNoted (calMeasured s t) t d) R.ADC_CAL_STATUS_PENDING) t R.ADC_EVENT_CAL_DONE,
    ?_, ?_, ?_, flag_ev_same h1 _ (by decide) rfl, ?_⟩
  · rw [execCalMeasureEnd_live hx hb, h2, if_neg (by decide), if_neg (by decide), if_neg (by decide), any_coefFound hs,
      if_neg (any_isNone_eq_false hin), resultShown]
  · rw [ev, Apart.rf (by decide) h1, hbusy]
  · rw [ev, Apart.rf (by decide) h1, hpending]
  · rw [ev_adc, hstep]

theorem execCalMeasureEnd_clipped (h12 : (s.tw t).adc.step = 1 ∨ (s.tw t).adc.step = 2) :
    ∃ u, execCalMeasureEnd t d true s = .next u ∧ rf u t R.ADC_CAL_STATUS_RESULT = 1 ∧
    rf u t R.ADC_CAL_STATUS_PENDING = 0 ∧ u.report = Rc.CAL_RANGE ∧ flag u t R.ADC_EVENT_CAL_FAIL = true ∧
    (u.tw t).adc.lat = [] := by
  obtain ⟨hreport, hresult, hpending, hevent, hadc⟩ := calRange_shows (t := t) (regsKept_calMeasured hs t).ok
  refine ⟨calRange (calMeasured s t) t, ?_, hresult, hpending, hreport, hevent, by rw [hadc]⟩
  rw [execCalMeasureEnd_live hx hb, if_neg (by omega), if_pos rfl]

theorem execCalMeasureEnd_skew (h3 : (s.tw t).adc.step = 3)
    (hin : ((maskPairs s t).zip d).all (fun p => (skewOf p.2).isSome) = true) :
    ∃ u, execCalMeasureEnd t d x s = .next u ∧ rf u t R.ADC_CAL_STATUS_BUSY = 0 ∧ rf u t R.ADC_CAL_STATUS_RESULT = 0 ∧
    rf u t R.ADC_CAL_STATUS_PENDING = 1 ∧ rd u t R.ADC_EVENT = rd s t R.ADC_EVENT ∧ (u.tw t).adc.step = 0 := by
  obtain ⟨hbusy, hresult, hpending, hstep⟩ := resultShown_shows (t := t) hs (f := skewNoted (calMeasured s t) t d)
    (g := R.ADC_CAL_STATUS_PENDING) (fun _ => rfl) (by decide)
  refine ⟨_, ?_, hbusy, hresult, hpending, ?_, hstep⟩
  · rw [execCalMeasureEnd_live hx hb, if_pos h3, any_skewFound hs, if_neg (any_isNone_eq_false hin), resultShown]
  · exact ((((regsKept_calMeasured hs t).modAdc t _).wf (by decide) 0).wf (by decide) 1).same t _ (by decide)

theorem execCalMeasureEnd_skewOut (h3 : (s.tw t).adc.step = 3)
    (hout : ((maskPairs s t).zip d).any (fun p => (skewOf p.2).isNone) = true) :
    ∃ u, execCalMeasureEnd t d x s = .next u ∧ rf u t R.ADC_CAL_STATUS_BUSY = 0 ∧ rf u t R.ADC_CAL_STATUS_RESULT = 4 ∧
    u.report = Rc.SKEW_RANGE ∧ flag u t R.ADC_EVENT_CAL_FAIL = true ∧ (u.tw t).adc.step = 0 := by
  have h1 := (regsKept_calMeasured hs t).ok
  obtain ⟨hreport, hresult, hevent, hadc⟩ := calFail_shows (t := t) h1 (result := 4) (by decide) Rc.SKEW_RANGE
  refine ⟨calFail (calMeasured s t) t 4 Rc.SKEW_RANGE, ?_, ?_, hresult, hreport, hevent, by rw [hadc, calMeasured_adc]⟩
  · rw [execCalMeasureEnd_live hx hb, if_pos h3, any_skewFound hs, if_pos hout]
  · rw [rf_calFail h1 (by decide) (by decide), busy_calMeasured hs]

end

/-! COMMIT. -/

/-- The latent values develop, and the checks' references are taken (R291 step 4, R292, R295). -/
def calDeveloped (s : State) (t : Twin) : State :=
  let s1 := (s.tw t).adc.lat.foldl (fun s e => modConv s t (e.1 / 16) (fun c => { c with
    commit := tabPut true c.commit (e.1 % 16) e.2 })) s
  let s2 := (s.tw t).adc.latSkew.foldl (fun s e =>
    wf s t (if e.1 = 1 then R.ADC_SKEW_SKEW1 else R.ADC_SKEW_SKEW3) e.2.toNat) s1
  (List.range 4).foldl (fun s q => modConv s t q (fun c => { c with
    chkRef := c.chkLast.foldl (fun l e => tabSet 0 l e.1 e.2) c.chkRef, chkBad := [] })) s2

/-- Nothing is latent any more. -/
def calCommitted (s : State) (t : Twin) : State :=
  modAdc (wf (calDeveloped s t) t R.ADC_CAL_STATUS_PENDING 0) t (fun a => { a with lat := [], latSkew := [] })

/-- The twin asks for leave to write its boot flash (R291 step 4, R443). -/
def commitAsked (s : State) (t : Twin) : State := leaveAsk (say (calCommitted s t) Rc.OK) 5 t true 2

theorem execCommit_pending (hp : rf s t R.ADC_CAL_STATUS_PENDING = 1) : execCommit t x s = .next (
    if leaveHeldFor (commitAsked s t) 5 t 2 then
      (if x then leaveEndFor (calWrite (commitAsked s t) t) 5 t 2
        else say (leaveEndFor (commitAsked s t) 5 t 2) Rc.FLASH_FAIL)
    else commitAsked s t) := by
  rw [execCommit, if_neg (by rw [hp]; decide)]
  rfl

/-- The parts of the device that a commitment leaves alone: all but registers and the twin's measurement state. -/
abbrev CommitAside (t : Twin) (p : Part) : Prop := ¬ (IsRegs p ∨ p = .tw t .adc)

theorem calDeveloped_keeps (s : State) (t : Twin) : Keeps (CommitAside t) s (calDeveloped s t) := by
  unfold calDeveloped
  extract_lets s1 s2
  have h1 : Keeps (CommitAside t) s s1 :=
    Keeps.foldl (fun _ _ h => modConv_keeps h t _ _ fun hn => hn (.inr rfl)) _ (Keeps.refl _ s)
  have h2 : Keeps (CommitAside t) s s2 := Keeps.foldl (fun _ _ h => wf_keeps h t _ _ fun hn => hn (.inl trivial)) _ h1
  exact Keeps.foldl (fun _ _ h => modConv_keeps h t _ _ fun hn => hn (.inr rfl)) _ h2

theorem calCommitted_keeps (s : State) (t : Twin) : Keeps (CommitAside t) s (calCommitted s t) :=
  modAdc_keeps (wf_keeps (calDeveloped_keeps s t) t _ _ fun hn => hn (.inl trivial)) t _ fun hn => hn (.inr rfl)

/-- Of the registers it writes SKEW alone, before it clears PENDING. -/
theorem regsKept_calDeveloped (hs : RegsOk s) (t : Twin) : RegsKept (· ≠ R.ADC_SKEW) s (calDeveloped s t) := by
  unfold calDeveloped
  extract_lets s1 s2
  have h1 : RegsKept (· ≠ R.ADC_SKEW) s s1 := (RegsKept.refl hs).foldl fun _ _ _ h => h.modConv t _ _
  have h2 : RegsKept (· ≠ R.ADC_SKEW) s s2 := h1.foldl fun _ e _ h =>
    h.wf (f := if e.1 = 1 then R.ADC_SKEW_SKEW1 else R.ADC_SKEW_SKEW3) (by split <;> decide) _
  exact h2.foldl fun _ _ _ h => h.modConv t _ _

theorem regsOk_calCommitted (hs : RegsOk s) (t : Twin) : RegsOk (calCommitted s t) := (calCommitted_keeps s t).regs hs

theorem pending_calCommitted (hs : RegsOk s) : rf (calCommitted s t) t R.ADC_CAL_STATUS_PENDING = 0 := by
  rw [calCommitted, rf_modAdc, rf_wf_same (regsKept_calDeveloped hs t).ok _ (by decide) (by decide)]
  rfl

theorem lat_calCommitted (s : State) (t : Twin) : ((calCommitted s t).tw t).adc.lat = [] := by
  rw [calCommitted, adc_modAdc]

theorem leaveFree_calCommitted (hs : RegsOk s) (op arg : Nat) :
    leaveFree (say (calCommitted s t) Rc.OK) t op arg = leaveFree s t op arg := by
  have hk := calCommitted_keeps s t
  have hwords : RegsKept HeadroomWord s (calCommitted s t) := by
    refine RegsKept.modAdc (RegsKept.wf ⟨(regsKept_calDeveloped hs t).ok, fun u a ha => ?_⟩
      (by unfold HeadroomWord; decide) 0) t _
    exact (regsKept_calDeveloped hs t).same u a (by rcases ha with rfl | rfl <;> decide)
  exact (leaveFree_say hwords.ok _).trans (leaveFree_congr hwords (fun u => hk.same (.tw u .twn) (by simp [IsRegs]))
    (hk.same .sluice (by simp [IsRegs])) (hk.same .pfail (by simp [IsRegs])))

theorem calFlash_congr (hr : ∀ a, 0x1100000 ≤ a → rd s' t a = rd s t a) (ha : (s'.tw t).adc = (s.tw t).adc) :
    calFlash s' t = calFlash s t := by
  have hskew : ∀ f ∈ [R.ADC_SKEW_SKEW1, R.ADC_SKEW_SKEW3], rf s' t f = rf s t f := fun f hf => by
    rw [rf, hr _ (by revert f; decide), ← rf]
  have hcal : ∀ k, rd s' t (R.ADC_CAL + 64 * (k / 16) + 4 * (k % 16)) = rd s t (R.ADC_CAL + 64 * (k / 16) + 4 * (k % 16)) :=
    fun k => hr _ (by rw [Nat.add_assoc]; exact Nat.le_add_right_of_le (by decide))
  simp only [calFlash, conv, hcal, ha, hskew R.ADC_SKEW_SKEW1 (by decide), hskew R.ADC_SKEW_SKEW3 (by decide)]

theorem commitAsked_granted (hs : RegsOk s) (hf : leaveFree s t 5 2 = true) :
    leaveHeldFor (commitAsked s t) 5 t 2 = true ∧ (commitAsked s t).report = Rc.OK ∧
    (leaveHeldFor s 5 t 2 = false → (leaveEndFor (commitAsked s t) 5 t 2).sluice = s.sluice) := by
  have hfree : leaveFree (say (calCommitted s t) Rc.OK) t 5 2 = true := (leaveFree_calCommitted hs 5 2).trans hf
  have hok : RegsOk (say (calCommitted s t) Rc.OK) := (regsOk_say _).2 (regsOk_calCommitted hs t)
  have hsluice : (say (calCommitted s t) Rc.OK).sluice = s.sluice :=
    (calCommitted_keeps s t).same .sluice (by simp [IsRegs])
  refine ⟨leaveHeldFor_granted hok hfree, leaveAsk_report_granted hfree, fun hn => ?_⟩
  rw [commitAsked, leaveEndFor_granted hok hfree (by rw [leaveHeldFor, hsluice, ← leaveHeldFor, hn]), hsluice]

theorem regsKept_commitAsked (hs : RegsOk s) (t : Twin) : RegsKept (0x1100000 ≤ ·) (calCommitted s t) (commitAsked s t) :=
  regsKept_leaveAsk (fun _ _ hlt hk => absurd hk (by omega)) ((RegsKept.refl (regsOk_calCommitted hs t)).say _) 5 t true 2

theorem lat_commitAsked (s : State) (t : Twin) : ((commitAsked s t).tw t).adc.lat = [] := by
  rw [commitAsked, leaveAsk_adc, say_tw, lat_calCommitted]

theorem execCommit_writes (hs : RegsOk s) (hp : rf s t R.ADC_CAL_STATUS_PENDING = 1) (hf : leaveFree s t 5 2 = true) :
    ∃ u, execCommit t true s = .next u ∧ u.report = Rc.OK ∧ rf u t R.ADC_CAL_STATUS_PENDING = 0 ∧
    (u.tw t).flash.cal = calFlash u t ∧ (u.tw t).adc.lat = [] ∧ (leaveHeldFor s 5 t 2 = false → u.sluice = s.sluice) := by
  obtain ⟨hheld, hreport, hsluice⟩ := commitAsked_granted hs hf
  have hk := regsKept_commitAsked hs t
  have hend : RegsKept (0x1100000 ≤ ·) (commitAsked s t) (leaveEndFor (calWrite (commitAsked s t) t) 5 t 2) :=
    regsKept_leaveEndFor ⟨(regsOk_modFlash _).2 hk.ok, fun u a _ => rd_modFlash _ _ _ _ a⟩ (by decide) (by decide) 5 t 2
  have hadc : ((leaveEndFor (calWrite (commitAsked s t) t) 5 t 2).tw t).adc = ((commitAsked s t).tw t).adc := by
    rw [leaveEndFor_adc, calWrite, modFlash_adc]
  refine ⟨_, by rw [execCommit_pending hp, if_pos hheld, if_pos rfl], ?_, ?_, ?_, ?_, fun hn => ?_⟩
  · rw [leaveEndFor_report, calWrite, modFlash_report, hreport]
  · rw [hend.rf (by decide), hk.rf (by decide), pending_calCommitted hs]
  · rw [leaveEndFor_flash, calFlash_congr (fun a ha => hend.same t a ha) hadc, calWrite, modFlash_flash]
  · rw [hadc, lat_commitAsked]
  · exact (leaveEndFor_sluice_congr (s := commitAsked s t) (s' := calWrite (commitAsked s t) t) (modFlash_sluice ..)
      5 t 2).trans (hsluice hn)

theorem execCommit_fails (hs : RegsOk s) (hp : rf s t R.ADC_CAL_STATUS_PENDING = 1) (hf : leaveFree s t 5 2 = true) :
    ∃ u, execCommit t false s = .next u ∧ u.report = Rc.FLASH_FAIL ∧ rf u t R.ADC_CAL_STATUS_PENDING = 0 ∧
    (u.tw t).flash.cal = (s.tw t).flash.cal ∧ (leaveHeldFor s 5 t 2 = false → u.sluice = s.sluice) := by
  obtain ⟨hheld, -, hsluice⟩ := commitAsked_granted hs hf
  have hend := regsKept_leaveEndFor (regsKept_commitAsked hs t) (by decide) (by decide) 5 t 2
  have hflash : ((calCommitted s t).tw t).flash = (s.tw t).flash :=
    (calCommitted_keeps s t).same (.tw t .flash) (by simp [IsRegs])
  refine ⟨say (leaveEndFor (commitAsked s t) 5 t 2) Rc.FLASH_FAIL,
    by rw [execCommit_pending hp, if_pos hheld, if_neg (by decide)], say_report .., ?_, ?_,
    fun hn => (say_sluice ..).trans (hsluice hn)⟩
  · rw [rf_say, hend.rf (by decide), pending_calCommitted hs]
  · rw [say_tw, leaveEndFor_flash, commitAsked, leaveAsk_flash, say_tw, hflash]

/-! ABORT. -/

theorem execAbort_ends (hs : RegsOk s) (h0 : (s.tw t).adc.step ≠ 0) : ∃ u, execAbort t s = .next u ∧ u.report = Rc.OK ∧
    (u.tw t).adc.step = 0 ∧ rf u t R.ADC_CAL_STATUS_BUSY = 0 ∧ rf u t R.ADC_CAL_STATUS_RESULT = 3 := by
  obtain ⟨s1, hs1⟩ : ∃ s1, s1 = modAdc (leaveEnd (say s Rc.OK) 3 t) t (fun a => { a with step := 0 }) := ⟨_, rfl⟩
  have h1 : RegsOk s1 := hs1 ▸ ((regsKept_leaveReturned (K := fun _ => False) (fun _ _ _ => id)
    ((RegsKept.refl hs).say Rc.OK) 3 t).modAdc t _).ok
  have h2 := h1.wf (t := t) R.ADC_CAL_STATUS_BUSY 0
  refine ⟨wf (wf s1 t R.ADC_CAL_STATUS_BUSY 0) t R.ADC_CAL_STATUS_RESULT 3,
    by rw [execAbort, if_neg h0, hs1], ?_, ?_, ?_, ?_⟩
  · rw [wf_report, wf_report, hs1, modAdc_report, leaveEnd_report, say_report]
  · rw [wf_adc, wf_adc, hs1, adc_modAdc]
  · rw [Apart.rf (by decide) h2, rf_wf_same h1 _ (by decide) (by decide)]
    rfl
  · rw [rf_wf_same h2 _ (by decide) (by decide)]
    rfl

/-- Settles O32: a step runs as `calStep_runs` says, its end is judged as `execCalMeasureEnd_live` says, and a commitment and
an abort end with their leave returned. -/
theorem calibrationCommandsComplete : Obligations.CalibrationCommandsComplete := by
  refine ⟨fun s t hs hf hoff => ?_, fun s t hs hz hf hoff => ?_, fun s t hs hf hoff => ?_,
    fun s t hs hon => ⟨_, rfl, calStep_busy hs hon⟩, fun s t d hs hx hb h1 => execCalMeasureEnd_zero hs hx hb h1,
    fun s t d hs hx hb h2 hin => execCalMeasureEnd_full hs hx hb h2 hin,
    fun s t d hs hx hb h12 => execCalMeasureEnd_clipped hs hx hb h12, fun s t hs hp hf => execCommit_writes hs hp hf,
    fun s t hs hp hf => execCommit_fails hs hp hf, fun s t d x hs hx hb h3 hin => execCalMeasureEnd_skew hs hx hb h3 hin,
    fun s t d x hs hx hb h3 hout => execCalMeasureEnd_skewOut hs hx hb h3 hout,
    fun s t d x hs hx hb hc => execCalMeasureEnd_dead hs hx hb hc,
    fun s t hs hoff hz => ⟨_, rfl, calStep_noZero hs hoff hz⟩, fun s t x hp => ⟨_, ?_, rfl⟩,
    fun s t hs h0 => execAbort_ends hs h0, fun s t h0 => ⟨_, ?_, rfl⟩⟩
  · obtain ⟨hreport, hstep, hbusy, hheld, -⟩ := calStep_runs (n := 1) hs hf hoff fun h => absurd h (by decide)
    exact ⟨_, rfl, hreport, hstep, hbusy, hheld⟩
  · obtain ⟨hreport, hstep, hbusy, hheld, -⟩ := calStep_runs (n := 2) hs hf hoff fun _ => hz
    exact ⟨_, rfl, hreport, hstep, hbusy, hheld⟩
  · obtain ⟨hreport, hstep, hbusy, hheld, htestv⟩ := calStep_runs (n := 3) hs hf hoff fun h => absurd h (by decide)
    exact ⟨_, rfl, hreport, hstep, hbusy, htestv rfl, hheld⟩
  · exact if_pos hp
  · exact congrArg Host.Outcome.next (if_pos h0)

end Sys2Proof.Machine

/-! The words of the clock block under one bit's event or clear, and what leave and the crossings keep of them (O58; R25,
R441, R442). -/

namespace Sys2Proof.Machine

variable {K : Nat → Prop} {s0 s s' : State} {t u : Twin} {f g : Fld} {a i k : Nat}

/-! One bit of a field of any width, and the fields apart from it. -/

theorem rf_wr_bits (hs : RegsOk s) {v : W32} (h : g.addr = a → bits v g.hi g.lo = bits (rd s t a) g.hi g.lo) :
    rf (wr s t a v) t g = rf s t g := by
  by_cases ha : g.addr = a
  · rw [rf, ha, rd_wr_same hs, h ha, rf, ha]
  · rw [rf, rd_wr_ne hs ha, ← rf]

theorem rf_evi_apart (hs : RegsOk s) (hg : Apart f g) (hi : f.lo + i ≤ f.hi) (h32 : f.hi < 32) :
    rf (evi s t f i) t g = rf s t g := by
  refine rf_wr_bits hs fun ha => bits_congr fun j hj hj' => ?_
  have hne : f.lo + i ≠ j := by
    have := hg.2.2.resolve_left (not_not_intro ha)
    omega
  rw [BitVec.getLsbD_or, getLsbD_two_pow (by omega), decide_eq_false hne, Bool.or_false]

theorem rf_clri_apart (hs : RegsOk s) (hg : Apart f g) (hi : f.lo + i ≤ f.hi) (h32 : f.hi < 32) (hg32 : g.hi < 32) :
    rf (clri s t f i) t g = rf s t g := by
  refine rf_wr_bits hs fun ha => bits_congr fun j hj hj' => ?_
  have hne : f.lo + i ≠ j := by
    have := hg.2.2.resolve_left (not_not_intro ha)
    omega
  rw [BitVec.getLsbD_and, BitVec.getLsbD_not, getLsbD_two_pow (by omega), decide_eq_false hne]
  simp [show j < 32 by omega]

/-! The hidden state of the clocks. -/

theorem RegsKept.modPwr (h : RegsKept K s0 s) (t : Twin) (f : PwrSt → PwrSt) : RegsKept K s0 (modPwr s t f) :=
  h.keep (modPwr_keeps (Keeps.refl _ s) t f id)

theorem leaveAsk_pwr (s : State) (op : Nat) (t u : Twin) (host : Bool) (arg : Nat) :
    ((leaveAsk s op t host arg).tw u).pwr = (s.tw u).pwr :=
  (leaveAsk_keeps (P := (· = .tw u .pwr)) (Keeps.refl _ s) op t host arg nofun nofun).same (.tw u .pwr) rfl

theorem leaveAsk_tb (s : State) (op : Nat) (t u : Twin) (host : Bool) (arg : Nat) :
    ((leaveAsk s op t host arg).tw u).tb = (s.tw u).tb :=
  (leaveAsk_keeps (P := (· = .tw u .tb)) (Keeps.refl _ s) op t host arg nofun nofun).same (.tw u .tb) rfl

theorem mpFreq_congr (hr : flag s' t R.CLK_STATUS_RAMPING = flag s t R.CLK_STATUS_RAMPING)
    (hf : rd s' t R.CLK_MP_FREQ = rd s t R.CLK_MP_FREQ) (hp : (s'.tw t).pwr = (s.tw t).pwr)
    (ht : (s'.tw t).tb = (s.tw t).tb) : mpFreq s' t = mpFreq s t := by
  rw [mpFreq, hr, hf, hp, ht, ← mpFreq]

/-! A ramp's end and its start. -/

/-- The words below the power registers, which do not show the ledger. -/
theorem ledgerOpen_below : LedgerOpen (· < 0x10100) := fun _ hlo _ hk => absurd hk (Nat.not_lt.2 hlo)

theorem regsKept_rampStop (hK : LedgerOpen K) (hst : ¬ K R.CLK_STATUS) (h : RegsKept K s0 s) (t : Twin) :
    RegsKept K s0 (rampStop s t) := regsKept_leaveReturned hK (h.wf hst 0) 6 t

theorem flag_rampStop (hs : RegsOk s) : flag (rampStop s t) t R.CLK_STATUS_RAMPING = false := by
  rw [rampStop, (regsKept_leaveReturned ledgerOpen_below (RegsKept.refl (hs.wf _ _)) 6 t).flag (by decide)]
  exact flag_wf_same hs _ (by decide) rfl false

theorem rf_rampStop (hs : RegsOk s) (hg : Apart R.CLK_STATUS_RAMPING g) (ha : g.addr < 0x10100) :
    rf (rampStop s t) t g = rf s t g := by
  rw [rampStop, (regsKept_leaveReturned ledgerOpen_below (RegsKept.refl (hs.wf _ _)) 6 t).rf ha, hg.rf hs]

theorem rampStop_report (s : State) (t : Twin) : (rampStop s t).report = s.report := by
  rw [rampStop, leaveEnd_report, wf_report]

theorem rampStop_pwr (s : State) (t u : Twin) : ((rampStop s t).tw u).pwr = (s.tw u).pwr :=
  (rampStop_keeps (P := (· = .tw u .pwr)) (Keeps.refl _ s) t nofun nofun).same (.tw u .pwr) rfl

/-- A ramp that stops leaves its frequency set, and the twin no longer ramps. -/
theorem rampStop_set (hs : RegsOk s) (v : W32) : flag (wr (rampStop s t) t R.CLK_MP_FREQ v) t R.CLK_STATUS_RAMPING = false ∧
    rd (wr (rampStop s t) t R.CLK_MP_FREQ v) t R.CLK_MP_FREQ = v := by
  have hok : RegsOk (rampStop s t) := (regsKept_rampStop (K := fun _ => False) (fun _ _ _ => id) id (RegsKept.refl hs) t).ok
  refine ⟨?_, rd_wr_same hok _ _⟩
  rw [flag, rf, rd_wr_ne hok (by decide), ← rf, ← flag, flag_rampStop hs]

theorem rampProfile_congr (h : RegsKept (· < 0x10100) s s') : rampProfile s' t = rampProfile s t := by
  have hn : rf s' t R.CLK_RAMP_CTRL_NPTS = rf s t R.CLK_RAMP_CTRL_NPTS := h.rf (by decide)
  have h16 : rf s t R.CLK_RAMP_CTRL_NPTS < 16 := rf_lt s t R.CLK_RAMP_CTRL_NPTS
  rw [rampProfile, rampProfile, hn]
  refine List.map_congr_left fun i hi => ?_
  have hword : R.CLK_RAMP + 4 * i < 0x10100 := by
    have := List.mem_range.1 hi
    simp only [R.CLK_RAMP]
    omega
  rw [h.rf (f := fo R.CLK_RAMP_TARGET (4 * i)) hword, h.rf (f := fo R.CLK_RAMP_SLOPE (4 * i)) hword,
    h.rf (f := fo R.CLK_RAMP_HOLD (4 * i)) hword]

/-- A ramp under leave starts from the present frequency and instant. -/
structure RampStarted (s u : State) (t : Twin) : Prop where
  report : u.report = Rc.OK
  ramping : flag u t R.CLK_STATUS_RAMPING = true
  leave : leaveHeld u 6 t = true
  rampFrom : (u.tw t).pwr.rampFrom = mpFreq s t
  rampAt : (u.tw t).pwr.rampAt = (s.tw t).tb
  rampPts : (u.tw t).pwr.rampPts = rampProfile s t

theorem rampRun_starts (h : RegsKept (· < 0x10100) s s') (hp : (s'.tw t).pwr = (s.tw t).pwr)
    (ht : (s'.tw t).tb = (s.tw t).tb) (hreport : s'.report = Rc.OK) (hheld : leaveHeld s' 6 t = true) :
    RampStarted s (rampRun s' t) t where
  report := by rw [rampRun, modPwr_report, wf_report, hreport]
  ramping := by
    rw [rampRun, flag_of_rf (rf_modPwr ..)]
    exact flag_wf_same h.ok _ (by decide) rfl true
  leave := (leaveHeld_congr (by rw [rampRun, modPwr_sluice, wf_sluice]) 6 t).trans hheld
  rampFrom := by
    rw [rampRun, modPwr_pwr]
    exact mpFreq_congr (h.flag (by decide)) (h.same t _ (by decide)) hp ht
  rampAt := by
    rw [rampRun, modPwr_pwr]
    exact ht
  rampPts := by
    rw [rampRun, modPwr_pwr]
    exact rampProfile_congr h

theorem execRampStart_starts (hs : RegsOk s) (hv : rampValid s t = true) (hf : leaveFree s t 6 0 = true) :
    ∃ u, execRampStart t s = .next u ∧ RampStarted s u t := by
  have hs1 : RegsOk (say s Rc.OK) := (regsOk_say _).2 hs
  have hsay : RegsKept (· < 0x10100) s (say s Rc.OK) := (RegsKept.refl hs).say _
  have hfree : leaveFree (say s Rc.OK) t 6 0 = true := (leaveFree_say hs _).trans hf
  have hheld : leaveHeld (leaveAsk (say s Rc.OK) 6 t true 0) 6 t = true := leaveHeld_granted hs1 hfree
  rw [execRampStart, if_neg (by simp [hv])]
  split
  next h6 => exact ⟨_, rfl, rampRun_starts hsay (by rw [say_tw]) (by rw [say_tw]) (say_report ..) h6⟩
  next =>
    dsimp only
    rw [if_pos hheld]
    exact ⟨_, rfl, rampRun_starts (regsKept_leaveAsk ledgerOpen_below hsay 6 t true 0)
      (by rw [leaveAsk_pwr, say_tw]) (by rw [leaveAsk_tb, say_tw]) (leaveAsk_report_granted hfree) hheld⟩

theorem execRampAbort_stops (hs : RegsOk s) {n : BitVec 4} (hn : ¬ (n.toNat = 0 ∨ 8 < n.toNat))
    (hr : flag s t R.CLK_STATUS_RAMPING = true) : ∃ u, execRampAbort t n s = .next u ∧ u.report = Rc.OK ∧
    rf u t R.CLK_RAMP_CTRL_NPTS = n.toNat ∧ flag u t R.CLK_STATUS_RAMPING = false ∧
    rd u t R.CLK_MP_FREQ = BitVec.ofNat 32 (mpFreq s t) ∧
    (s.sluice.held = [⟨6, 350, t, true, 0, false⟩] → u.sluice.held = []) := by
  obtain ⟨s1, hs1⟩ : ∃ s1, s1 = wf (say s Rc.OK) t R.CLK_RAMP_CTRL_NPTS n.toNat := ⟨_, rfl⟩
  have hsay : RegsOk (say s Rc.OK) := (regsOk_say _).2 hs
  have hok : RegsOk s1 := hs1 ▸ hsay.wf _ _
  obtain ⟨hramping, hfreq⟩ := rampStop_set (t := t) hok (BitVec.ofNat 32 (mpFreq s t))
  have hnpts : rf s1 t R.CLK_RAMP_CTRL_NPTS = n.toNat := by
    rw [hs1, rf_wf_same hsay _ (by decide) (by decide)]
    exact Nat.mod_eq_of_lt n.isLt
  have hk : RegsKept (· = R.CLK_RAMP_CTRL) s1 (wr (rampStop s1 t) t R.CLK_MP_FREQ (BitVec.ofNat 32 (mpFreq s t))) :=
    (regsKept_rampStop (fun a hlo _ hk => absurd hlo (by subst hk; decide)) (by decide) (RegsKept.refl hok) t).wr
      (by decide) _
  refine ⟨wr (rampStop s1 t) t R.CLK_MP_FREQ (BitVec.ofNat 32 (mpFreq s t)), ?_, ?_, (hk.rf rfl).trans hnpts, hramping,
    hfreq, fun hheld => ?_⟩
  · rw [execRampAbort, if_neg hn, ← hs1]
    dsimp only
    rw [if_pos hr]
  · rw [wr_report, rampStop_report, hs1, wf_report, say_report]
  · rw [wr_sluice]
    refine leaveEnd_held (r := ⟨6, 350, t, true, 0, false⟩) (by simp) ?_
    rw [wf_sluice, hs1, wf_sluice, say_sluice, hheld]

theorem execRampEnd_ends (hs : RegsOk s) (hr : flag s t R.CLK_STATUS_RAMPING = true) {x : Nat} {y : Nat × Nat}
    {l : List (Nat × Nat × Nat)} (hp : (s.tw t).pwr.rampPts = l ++ [(x, y)]) : ∃ u, execRampEnd t s = .next u ∧
    flag u t R.CLK_STATUS_RAMPING = false ∧ rd u t R.CLK_MP_FREQ = BitVec.ofNat 32 (1000 * x) := by
  refine ⟨_, ?_, rampStop_set (t := t) hs (BitVec.ofNat 32 (1000 * x))⟩
  rw [execRampEnd, hp, List.getLast?_concat]
  exact congrArg Host.Outcome.next (if_pos hr)

/-- No value of NPTS out of range passes as OK. -/
theorem rangeCode_ne_ok (a : Nat) (v : W32) : rangeCode a v ≠ Rc.OK := by
  unfold rangeCode
  split
  · decide
  · decide

end Sys2Proof.Machine

/-! The core-voltage loop (O58; R436, R437). -/

namespace Sys2Proof.Machine

variable {s : State} {t : Twin} {g : Fld} {n x y : BitVec 16} {v w m : Nat}

/-- What the loop measures is shown. -/
def slackWords (s : State) (t : Twin) (n x y : BitVec 16) : State :=
  wf (wf (wf s t R.PWR_MEAS_VIN x.toNat) t R.PWR_MEAS_TDIE y.toNat) t R.PWR_SLACK_SLACK n.toNat

/-- Below SLACK_MIN with its event. -/
def slackMeasured (s : State) (t : Twin) (n x y : BitVec 16) : State :=
  if n.toInt < 100 then ev (slackWords s t n x y) t R.PWR_EVENT_SLACK_LOW else slackWords s t n x y

/-- A setpoint with the slack, the input voltage and the temperature measured. -/
structure SlackShown (u : State) (t : Twin) (n x y : BitVec 16) (v : Nat) : Prop where
  setpoint : rf u t R.PWR_VCORE_SETPOINT = v
  low : n.toInt < 100 → flag u t R.PWR_EVENT_SLACK_LOW = true
  slack : rf u t R.PWR_SLACK_SLACK = n.toNat
  vin : rf u t R.PWR_MEAS_VIN = x.toNat
  tdie : rf u t R.PWR_MEAS_TDIE = y.toNat

theorem regsOk_slackWords (hs : RegsOk s) : RegsOk (slackWords s t n x y) := ((hs.wf _ _).wf _ _).wf _ _

theorem regsOk_slackMeasured (hs : RegsOk s) : RegsOk (slackMeasured s t n x y) := by
  unfold slackMeasured
  split
  · exact (regsOk_slackWords hs).wf _ _
  · exact regsOk_slackWords hs

theorem rf_slackMeasured (hs : RegsOk s) (hg : Apart R.PWR_EVENT_SLACK_LOW g) :
    rf (slackMeasured s t n x y) t g = rf (slackWords s t n x y) t g := by
  unfold slackMeasured
  split
  · exact hg.rf (regsOk_slackWords hs) 1
  · rfl

theorem slackShown_setpoint (hs : RegsOk s) (hv : v < 1024) :
    SlackShown (wf (slackMeasured s t n x y) t R.PWR_VCORE_SETPOINT v) t n x y v := by
  have h3 := regsOk_slackMeasured (t := t) (n := n) (x := x) (y := y) hs
  have h1 := hs.wf (t := t) R.PWR_MEAS_VIN x.toNat
  have h2 := h1.wf (t := t) R.PWR_MEAS_TDIE y.toNat
  refine ⟨?_, fun hn => ?_, ?_, ?_, ?_⟩
  · rw [rf_wf_same h3 _ (by decide) (by decide)]
    exact Nat.mod_eq_of_lt hv
  · rw [Apart.flag (by decide) h3, slackMeasured, if_pos hn]
    exact flag_ev_same (regsOk_slackWords hs) _ (by decide) rfl
  · rw [Apart.rf (by decide) h3, rf_slackMeasured hs (by decide), slackWords, rf_wf_same h2 _ (by decide) (by decide)]
    exact Nat.mod_eq_of_lt n.isLt
  · rw [Apart.rf (by decide) h3, rf_slackMeasured hs (by decide), slackWords, Apart.rf (by decide) h2,
      Apart.rf (by decide) h1, rf_wf_same hs _ (by decide) (by decide)]
    exact Nat.mod_eq_of_lt x.isLt
  · rw [Apart.rf (by decide) h3, rf_slackMeasured hs (by decide), slackWords, Apart.rf (by decide) h2,
      rf_wf_same h1 _ (by decide) (by decide)]
    exact Nat.mod_eq_of_lt y.isLt

theorem SlackShown.modPwr {u : State} (h : SlackShown u t n x y v) (f : PwrSt → PwrSt) :
    SlackShown (modPwr u t f) t n x y v where
  setpoint := (rf_modPwr ..).trans h.setpoint
  low hn := (flag_of_rf (rf_modPwr ..)).trans (h.low hn)
  slack := (rf_modPwr ..).trans h.slack
  vin := (rf_modPwr ..).trans h.vin
  tdie := (rf_modPwr ..).trans h.tdie

/-! The next setpoint. -/

theorem vcoreNext_lt {z : Int} (hv : v < 1024) : (vcoreNext v w m z).1 < 1024 := by
  unfold vcoreNext
  split
  · omega
  split
  · omega
  split
  · omega
  · exact hv

section
variable (hs : RegsOk s) (hr : twState s t ≠ tsReset)
include hs hr

theorem execVcoreLoop_boot (hb : (s.tw t).pwr.bootDone = false) :
    ∃ u, execVcoreLoop t n x y s = .next u ∧ SlackShown u t n x y 800 := by
  refine ⟨_, ?_, slackShown_setpoint hs (by decide)⟩
  rw [execVcoreLoop, if_neg hr, hb]
  rfl

theorem execVcoreLoop_fixed (hb : (s.tw t).pwr.bootDone = true) (hm : flag s t R.PWR_VCORE_MODE = true)
    (hsafe : flag s t R.SYS_STATUS_SAFELIGHT = true) :
    ∃ u, execVcoreLoop t n x y s = .next u ∧ SlackShown u t n x y (rf s t R.PWR_VCORE_FIXED) := by
  refine ⟨_, ?_, slackShown_setpoint hs (rf_lt s t R.PWR_VCORE_FIXED)⟩
  rw [execVcoreLoop, if_neg hr, hb, hm, hsafe]
  rfl

/-- The loop runs: the setpoint and the wait are the next ones. -/
theorem execVcoreLoop_next (hb : (s.tw t).pwr.bootDone = true)
    (hfix : (flag s t R.PWR_VCORE_MODE && flag s t R.SYS_STATUS_SAFELIGHT) = false) {p : Nat × Nat}
    (hp : vcoreNext (rf s t R.PWR_VCORE_SETPOINT) ((s.tw t).pwr.downWait - 1) (rf s t R.PWR_SLACK_TGT) n.toInt = p) :
    ∃ u, execVcoreLoop t n x y s = .next u ∧ SlackShown u t n x y p.1 ∧ (u.tw t).pwr.downWait = p.2 := by
  have hlt : p.1 < 1024 := hp ▸ vcoreNext_lt (rf_lt s t R.PWR_VCORE_SETPOINT)
  refine ⟨_, ?_, (slackShown_setpoint hs hlt).modPwr fun z => { z with downWait := p.2 }, by rw [modPwr_pwr]⟩
  rw [execVcoreLoop, if_neg hr, hb, hfix, hp]
  rfl

end

end Sys2Proof.Machine

/-! A lock that is lost (O58; R277, R442). -/

namespace Sys2Proof.Machine

variable {K : Nat → Prop} {s0 s s' : State} {t : Twin} {f g : Fld} {v k q : Nat} {inj : Bool}

/-- The lock of PLL `k` shows lost, with its event. -/
def lockLost (s : State) (t : Twin) (k : Nat) : State := evi (clri s t R.CLK_STATUS_LOCK k) t R.CLK_EVENT_UNLOCK k

/-- From `s` on the fields of locks show what they showed. -/
structure LocksKept (t : Twin) (s s' : State) : Prop where
  lock : rf s' t R.CLK_STATUS_LOCK = rf s t R.CLK_STATUS_LOCK
  unlock : rf s' t R.CLK_EVENT_UNLOCK = rf s t R.CLK_EVENT_UNLOCK

/-- The words of the locks and their events. -/
abbrev LockWord (a : Nat) : Prop := a = R.CLK_STATUS ∨ a = R.CLK_EVENT

theorem RegsKept.locksKept (h : RegsKept LockWord s s') (t : Twin) : LocksKept t s s' := ⟨h.rf (.inl rfl), h.rf (.inr rfl)⟩

theorem regsOk_lockLost (hs : RegsOk s) : RegsOk (lockLost s t k) := (RegsOk.wr hs _ _).wr _ _

/-- What follows on a loss leaves the lock lost and the event set. -/
theorem LocksKept.lost (h : LocksKept t (lockLost s t k) s') (hs : RegsOk s) (hk : k < 5) :
    biti s' t R.CLK_STATUS_LOCK k = false ∧ biti s' t R.CLK_EVENT_UNLOCK k = true := by
  have h1 : RegsOk (clri s t R.CLK_STATUS_LOCK k) := RegsOk.wr hs _ _
  have hi : 0 + k ≤ 4 := by omega
  refine ⟨?_, ?_⟩
  · rw [biti_of_rf h.lock, lockLost, biti_of_rf (rf_evi_apart h1 (by decide) hi (by decide)),
      biti_clri_same hs hi (by decide)]
  · rw [biti_of_rf h.unlock, lockLost, biti_evi_same h1 hi (by decide)]

/-- A loss changes CLK_STATUS in the lock's bit alone. -/
theorem rf_lockLost (hs : RegsOk s) (hk : k < 5) (hg : Apart R.CLK_STATUS_LOCK g) (hg32 : g.hi < 32)
    (he : Apart R.CLK_EVENT_UNLOCK g) : rf (lockLost s t k) t g = rf s t g := by
  have h1 : RegsOk (clri s t R.CLK_STATUS_LOCK k) := RegsOk.wr hs _ _
  have hi : 0 + k ≤ 4 := by omega
  rw [lockLost, rf_evi_apart h1 he hi (by decide), rf_clri_apart hs hg hi (by decide) hg32]

theorem regsKept_lockLost (hs : RegsOk s) (t : Twin) (k : Nat) : RegsKept (fun a => ¬ LockWord a) s (lockLost s t k) :=
  ((RegsKept.refl hs).clri (not_not_intro (.inl rfl)) k).evi (not_not_intro (.inr rfl)) k

/-- What the loss of the TB, AD, cell-lane, network-lane or system PLL does beside its event (R144, R277, R442). -/
def lossTaken (s : State) (t : Twin) (k : Nat) : State :=
  match k with
  | 0 => withdraw s t 5
  | 1 => adUnlock s t
  | 2 => (List.range 12).foldl (fun s c => setRing s t c 0) s
  | 3 => [0, 1].foldl (fun s k => portLinkSet s (2 * t.index + k) false false false false 2 0) s
  | _ => systemUnlock s t

theorem lossTaken_ad (s : State) (t : Twin) : lossTaken s t (1 : Fin 6).val = adUnlock s t := rfl

theorem lossTaken_lanes (s : State) (t : Twin) :
    lossTaken s t (2 : Fin 6).val = (List.range 12).foldl (fun s c => setRing s t c 0) s := rfl

theorem lossTaken_ports (s : State) (t : Twin) : lossTaken s t (3 : Fin 6).val =
    [0, 1].foldl (fun s k => portLinkSet s (2 * t.index + k) false false false false 2 0) s := rfl

theorem lossTaken_system (s : State) (t : Twin) : lossTaken s t (4 : Fin 6).val = systemUnlock s t := rfl

theorem execPllLockLoss_locked {i : Fin 6} (hr : twState s t ≠ tsReset) (h5 : i ≠ 5)
    (hl : biti s t R.CLK_STATUS_LOCK i.val = true) :
    execPllLockLoss t i s = .next (lossTaken (lockLost s t i.val) t i.val) := by
  have hlt : i.val < 5 := by
    have : i.val ≠ 5 := fun h => h5 (Fin.ext h)
    omega
  have hmod : i.val % 5 = i.val := Nat.mod_eq_of_lt hlt
  have hcrystal : ¬ (i.val = 5 ∧ twState s t ≠ tsReset) := fun h => hlt.ne h.1
  simp only [execPllLockLoss, hmod, if_neg hcrystal]
  exact (if_neg (by simp [hr, hl])).trans rfl

/-! The AD PLL: the runs are cut. -/

/-- A twin's registers stay canonical and one field shows `v`. -/
def FieldIs (t : Twin) (g : Fld) (v : Nat) (s : State) : Prop := RegsOk s ∧ rf s t g = v

theorem FieldIs.wf (hf : Apart f g) (h : FieldIs t g v s) (x : Nat) : FieldIs t g v (wf s t f x) :=
  ⟨h.1.wf _ _, (hf.rf h.1 x).trans h.2⟩

theorem RegsKept.modRingX (h : RegsKept K s0 s) (t : Twin) (c : Nat) (f : RingX → RingX) :
    RegsKept K s0 (modRingX s t c f) := h.keep (modRingX_keeps (Keeps.refl _ s) t c f id)

theorem FieldIs.modRingX (h : FieldIs t g v s) (c : Nat) (f : RingX → RingX) : FieldIs t g v (modRingX s t c f) :=
  ⟨((RegsKept.refl (K := fun _ => False) h.1).modRingX t c f).ok,
    ((RegsKept.refl (K := fun _ => True) h.1).modRingX t c f |>.rf trivial).trans h.2⟩

/-- A field below the results, apart from the busy bits. -/
structure OffSequences (g : Fld) : Prop where
  results : g.addr < R.ADC_C_RES
  regular : Apart R.ADC_STATUS_REG_BUSY g
  injected : Apart R.ADC_STATUS_INJ_BUSY g
  bits : g.hi < 32

theorem FieldIs.ite {c : Prop} [Decidable c] (h : FieldIs t g v s) (h' : FieldIs t g v s') :
    FieldIs t g v (if c then s else s') := by
  split
  · exact h
  · exact h'

theorem FieldIs.modConv (h : FieldIs t g v s) (q : Nat) (f : ConvSt → ConvSt) : FieldIs t g v (modConv s t q f) :=
  ⟨((RegsKept.refl (K := fun _ => False) h.1).modConv t q f).ok, (rf_modAdc ..).trans h.2⟩

theorem FieldIs.markStale (hg : OffSequences g) (h : FieldIs t g v s) (p : Nat × Nat) : FieldIs t g v (markStale s t p) := by
  unfold Machine.markStale markRes
  refine FieldIs.modConv ⟨h.1.wr _ _, ?_⟩ p.1 _
  rw [rf_wr_bits h.1 fun ha => absurd hg.results ?_, h.2]
  rw [ha, resAddr, ca, Nat.add_assoc]
  exact Nat.not_lt.2 (Nat.le_add_right _ _)

theorem FieldIs.showBusy (hg : OffSequences g) (h : FieldIs t g v s) (hq : q < 4) : FieldIs t g v (showBusy s t q inj) := by
  unfold Machine.showBusy
  extract_lets x f
  obtain ⟨hf, hi, h32⟩ : Apart f g ∧ f.lo + q ≤ f.hi ∧ f.hi < 32 := by
    cases inj
    · exact ⟨hg.regular, show 8 + q ≤ 11 by omega, by decide⟩
    · exact ⟨hg.injected, show 12 + q ≤ 15 by omega, by decide⟩
  split
  · exact ⟨h.1.wr _ _, (rf_evi_apart h.1 hf hi h32).trans h.2⟩
  · exact ⟨h.1.wr _ _, (rf_clri_apart h.1 hf hi h32 hg.bits).trans h.2⟩

theorem FieldIs.cutSeq (hg : OffSequences g) (h : FieldIs t g v s) (hq : q < 4) : FieldIs t g v (cutSeq s t q inj) := by
  unfold Machine.cutSeq
  extract_lets c x l stale
  have hstale : ∀ l, FieldIs t g v (stale l) := fun l => List.foldlRecOn l _ h fun _ hs p _ => hs.markStale hg p
  exact FieldIs.ite ((hstale _).modConv q _) (FieldIs.ite (((hstale _).modConv q _).showBusy hg hq) h)

/-- The AD PLL out of lock, before the runs are cut. -/
def adUnlockShown (s : State) (t : Twin) : State := ev (wf s t R.ADC_STATUS_AD_UNLOCK 1) t R.ADC_EVENT_AD_UNLOCK

theorem rf_adUnlock (hg : OffSequences g) (hs : RegsOk s) : rf (adUnlock s t) t g = rf (adUnlockShown s t) t g := by
  have h1 : FieldIs t g (rf (adUnlockShown s t) t g) (adUnlockShown s t) := ⟨(hs.wf _ _).wf _ _, rfl⟩
  have hcut : FieldIs t g (rf (adUnlockShown s t) t g) (adUnlock s t) := by
    unfold adUnlock
    refine List.foldlRecOn _ _ h1 fun s1 h q hq => ?_
    have hq4 := List.mem_range.1 hq
    exact ((h.cutSeq hg hq4).cutSeq hg hq4).modConv q _
  exact hcut.2

theorem locksKept_adUnlock (hs : RegsOk s) (t : Twin) : LocksKept t s (adUnlock s t) := by
  have hk : RegsKept LockWord s (adUnlockShown s t) := ((RegsKept.refl hs).wf (by decide) 1).ev (by decide)
  exact ⟨(rf_adUnlock ⟨by decide, by decide, by decide, by decide⟩ hs).trans (hk.locksKept t).lock,
    (rf_adUnlock ⟨by decide, by decide, by decide, by decide⟩ hs).trans (hk.locksKept t).unlock⟩

theorem flag_adUnlock (hs : RegsOk s) : flag (adUnlock s t) t R.ADC_STATUS_AD_UNLOCK = true := by
  rw [flag_of_rf (rf_adUnlock ⟨by decide, by decide, by decide, by decide⟩ hs), adUnlockShown, ev,
    Apart.flag (by decide) (hs.wf _ _)]
  exact flag_wf_same hs _ (by decide) rfl true

/-! The cell-lane PLL: the rings are off. -/

theorem ringSt_setRing_same (hs : RegsOk s) (t : Twin) (c : Nat) : ringSt (setRing s t c 0) t c = 0 := by
  have hsync : Apart (fo R.TRB_STATE_RX_SYNC (4096 * c)) (fo R.TRB_STATE_RING (4096 * c)) :=
    ⟨Nat.le_refl 10, Nat.zero_le 2, .inr (.inr (show 2 < 10 by decide))⟩
  have hdown : Apart (fo R.TRB_EVENT_DOWN (4096 * c)) (fo R.TRB_STATE_RING (4096 * c)) :=
    ⟨Nat.le_refl 0, Nat.zero_le 2, .inl (by simp [fo, R.TRB_STATE_RING, R.TRB_EVENT_DOWN])⟩
  unfold setRing
  extract_lets o s1 s2
  have h1 : FieldIs t (fo R.TRB_STATE_RING (4096 * c)) 0 s1 :=
    ⟨hs.wf _ _, rf_wf_same hs (fo R.TRB_STATE_RING (4096 * c)) (show 2 < 32 by decide) (Nat.zero_le 2) 0⟩
  have h2 : FieldIs t (fo R.TRB_STATE_RING (4096 * c)) 0 s2 :=
    FieldIs.ite ((FieldIs.wf hsync h1 0).modRingX c _) h1
  exact (FieldIs.ite (FieldIs.wf hdown h2 1) h2).2

theorem ringSt_setRing_ne (hs : RegsOk s) (t : Twin) {c d : Nat} (hcd : c ≠ d) (v : Nat) :
    ringSt (setRing s t d v) t c = ringSt s t c := by
  have hstate : ¬ R.TRB_STATE_RING.addr + 4096 * d = R.TRB_STATE_RING.addr + 4096 * c := by omega
  have hevent : ¬ R.TRB_EVENT_DOWN.addr + 4096 * d = R.TRB_STATE_RING.addr + 4096 * c := by
    simp only [R.TRB_EVENT_DOWN, R.TRB_STATE_RING]
    omega
  unfold setRing
  extract_lets o s1 s2
  have h1 : RegsKept (· = R.TRB_STATE_RING.addr + 4096 * c) s s1 := (RegsKept.refl hs).wf hstate v
  have h2 : RegsKept (· = R.TRB_STATE_RING.addr + 4096 * c) s s2 :=
    RegsKept.ite ((h1.wf hstate 0).modRingX t d _) h1
  exact ((h2.ev hevent).ite h2).rf rfl

theorem ringSt_ringsOff (hs : RegsOk s) (t : Twin) {c : Nat} (hc : c < 12) :
    ringSt ((List.range 12).foldl (fun s c => setRing s t c 0) s) t c = 0 := by
  have hok : ∀ (s : State) (d : Nat), RegsOk s → RegsOk (setRing s t d 0) := fun s d h =>
    (setRing_keeps (P := fun _ => False) (Keeps.refl _ s) t d 0 id id).regs h
  refine foldl_of_mem (P := RegsOk) (Q := fun s => ringSt s t c = 0) (List.mem_range.2 hc) hs hok
    (fun s h => ringSt_setRing_same h t c) fun s d h h0 => ?_
  by_cases hd : c = d
  · exact hd ▸ ringSt_setRing_same h t c
  · rw [ringSt_setRing_ne h t hd, h0]

theorem regsKept_ringsOff (h : RegsKept LockWord s0 s) (t : Twin) :
    RegsKept LockWord s0 ((List.range 12).foldl (fun s c => setRing s t c 0) s) :=
  h.foldl fun _ c hc hs => regsKept_setRing (fun a ha => by rcases ha with rfl | rfl <;> decide) hs t (List.mem_range.1 hc) 0

/-! The network-lane PLL: the twin's ports lose their links. -/

theorem regsKept_portLinkSet (hK : ∀ a, K a → a < 0x1200000) (h : RegsKept K s0 s) {p : Nat} (hp : p < 4)
    (carrier sync an half : Bool) (mbps codes : Nat) : RegsKept K s0 (portLinkSet s p carrier sync an half mbps codes) := by
  have hword : ∀ {a}, 0x1200000 ≤ a → ¬ K a := fun ha hk => absurd (hK _ hk) (Nat.not_lt.2 ha)
  have hport : ∀ {a}, 0x1200000 ≤ a → ¬ K (a + 64 * p) := fun ha => hword (Nat.le_add_right_of_le ha)
  have hovf : ∀ p < 4, ((counterOvf (R.NET_P_RX_CODE + 64 * p)).all fun w => decide (0x1200000 ≤ w.1)) = true := by
    decide +kernel
  have hshow : ∀ {s}, RegsKept K s0 s → RegsKept K s0 (showPort s p) := fun hs => by
    unfold showPort
    refine hs.ite (hs.foldl fun _ a ha hs' => hs'.wr (hport ?_) _)
    obtain ⟨i, -, rfl⟩ := List.mem_map.1 ha
    exact Nat.le_add_right_of_le (by decide)
  unfold portLinkSet
  extract_lets slow up lost link s1 s2
  have h1 : RegsKept K s0 s1 := h.keep (modNet_keeps (Keeps.refl _ s) _ id)
  have h2 : RegsKept K s0 s2 := by
    refine h1.ite (hshow (RegsKept.cntBy ?_ (hport (by decide)) (fun w i hw => hword ?_) codes))
    · exact ((h1.wf (hport (by decide)) _).wf (hport (by decide)) _).wf (hport (by decide)) _
    · simpa [hw] using hovf p hp
  refine h2.onLive fun s t hs => ?_
  extract_lets s3
  have h3 : RegsKept K s0 s3 := (hs.ev (hword (by decide))).ite hs
  exact (h3.ev (hword (by decide))).ite h3

/-! The system PLL: the processor runs on its oscillator. -/

/-- The processor runs at 50 MHz and its frequency is held for the next lock. -/
def oscillatorRuns (s : State) (t : Twin) : State :=
  wr (wf (modPwr s t (fun p => { p with lastFreq := mpFreq s t })) t R.CLK_STATUS_MP_RC 1) t R.CLK_MP_FREQ 50000#32

theorem regsKept_showFallback (h : RegsKept K s0 s) (hK : ¬ K R.HST_G_STATUS_FALLBACK.addr) :
    RegsKept K s0 (showFallback s) :=
  h.onLive fun _ _ hs => hs.wf hK _

theorem showFallback_pwr (s : State) (t : Twin) : ((showFallback s).tw t).pwr = (s.tw t).pwr :=
  (showFallback_keeps (P := (· = .tw t .pwr)) (Keeps.refl _ s) nofun).same (.tw t .pwr) rfl

theorem systemUnlock_eq (s : State) (t : Twin) : systemUnlock s t = showFallback (if flag s t R.CLK_STATUS_RAMPING then
    ev (rampStop (oscillatorRuns s t) t) t R.CLK_EVENT_RAMP_ABORT else oscillatorRuns s t) := rfl

theorem regsOk_oscillatorRuns (hs : RegsOk s) : RegsOk (oscillatorRuns s t) := (((regsOk_modPwr _).2 hs).wf _ _).wr _ _

theorem rf_oscillatorRuns (hs : RegsOk s) (hg : Apart R.CLK_STATUS_MP_RC g) (ha : g.addr ≠ R.CLK_MP_FREQ) :
    rf (oscillatorRuns s t) t g = rf s t g := by
  have h1 : RegsOk (modPwr s t (fun p => { p with lastFreq := mpFreq s t })) := (regsOk_modPwr _).2 hs
  rw [oscillatorRuns, rf, rd_wr_ne (h1.wf _ _) ha, ← rf, hg.rf h1, rf_modPwr]

/-- A ramp's end and what the host is shown of the oscillator leave the other fields of the clocks alone. -/
theorem rf_systemUnlock (hs : RegsOk s) (hg : Apart R.CLK_STATUS_RAMPING g) (he : Apart R.CLK_EVENT_RAMP_ABORT g)
    (ha : g.addr < 0x10100) : rf (systemUnlock s t) t g = rf (oscillatorRuns s t) t g := by
  have h1 := regsOk_oscillatorRuns (t := t) hs
  have h2 : RegsOk (rampStop (oscillatorRuns s t) t) :=
    (regsKept_rampStop (K := fun _ => False) (fun _ _ _ => id) id (RegsKept.refl h1) t).ok
  rw [systemUnlock_eq]
  split
  · have h3 : RegsOk (ev (rampStop (oscillatorRuns s t) t) t R.CLK_EVENT_RAMP_ABORT) := h2.wf _ _
    rw [(regsKept_showFallback (K := (· < 0x10100)) (RegsKept.refl h3) (by decide)).rf ha, ev, he.rf h2,
      rf_rampStop h1 hg ha]
  · exact (regsKept_showFallback (K := (· < 0x10100)) (RegsKept.refl h1) (by decide)).rf ha

theorem locksKept_systemUnlock (hs : RegsOk s) (t : Twin) : LocksKept t s (systemUnlock s t) :=
  ⟨(rf_systemUnlock hs (by decide) (by decide) (by decide)).trans (rf_oscillatorRuns hs (by decide) (by decide)),
    (rf_systemUnlock hs (by decide) (by decide) (by decide)).trans (rf_oscillatorRuns hs (by decide) (by decide))⟩

theorem systemUnlock_shows (hs : RegsOk s) (t : Twin) : flag (systemUnlock s t) t R.CLK_STATUS_MP_RC = true ∧
    rd (systemUnlock s t) t R.CLK_MP_FREQ = 50000#32 ∧ ((systemUnlock s t).tw t).pwr.lastFreq = mpFreq s t := by
  have h0 : RegsOk (modPwr s t (fun p => { p with lastFreq := mpFreq s t })) := (regsOk_modPwr _).2 hs
  have h1 := regsOk_oscillatorRuns (t := t) hs
  have hfreq : rd (oscillatorRuns s t) t R.CLK_MP_FREQ = 50000#32 := rd_wr_same (h0.wf _ _) _ _
  have hpwr : ((oscillatorRuns s t).tw t).pwr.lastFreq = mpFreq s t := by rw [oscillatorRuns, wr_pwr, wf_pwr, modPwr_pwr]
  have hstop : RegsKept (· = R.CLK_MP_FREQ) (oscillatorRuns s t) (rampStop (oscillatorRuns s t) t) :=
    regsKept_rampStop (fun a hlo _ hk => absurd hlo (by subst hk; decide)) (by decide) (RegsKept.refl h1) t
  refine ⟨?_, ?_, ?_⟩
  · rw [flag_of_rf (rf_systemUnlock hs (by decide) (by decide) (by decide)), oscillatorRuns, flag, rf,
      rd_wr_ne (h0.wf _ _) (by decide), ← rf, ← flag]
    exact flag_wf_same h0 _ (by decide) rfl true
  · rw [← hfreq, systemUnlock_eq]
    exact (regsKept_showFallback ((hstop.ev (by decide)).ite (RegsKept.refl h1)) (by decide)).same t _ rfl
  · rw [systemUnlock_eq, showFallback_pwr, ← hpwr]
    split
    · rw [ev_pwr, rampStop_pwr]
    · rfl

theorem mpFreq_lockLost (hs : RegsOk s) (hk : k < 5) : mpFreq (lockLost s t k) t = mpFreq s t := by
  refine mpFreq_congr (flag_of_rf (rf_lockLost hs hk (by decide) (by decide) (by decide))) ?_ ?_ ?_
  · exact (regsKept_lockLost hs t k).same t _ (by decide)
  · rw [lockLost, evi_pwr, clri_pwr]
  · rw [lockLost, evi_tb, clri_tb]

/-! The TB PLL and the crystal: the follower withdraws. -/

theorem lockLost_withdraws (hs : RegsOk s) (hf : twState s t = tsFollowing) :
    biti (withdraw (lockLost s t 0) t 5) t R.CLK_STATUS_LOCK 0 = false ∧
    twState (withdraw (lockLost s t 0) t 5) t = tsWithdrawn ∧ rf (withdraw (lockLost s t 0) t 5) t R.TWN_STATE_CAUSE = 5 ∧
    rf (withdraw (lockLost s t 0) t 5) t R.CLK_STATUS_XTAL = rf s t R.CLK_STATUS_XTAL := by
  have hk : RegsKept LockWord (lockLost s t 0) (withdraw (lockLost s t 0) t 5) :=
    regsKept_withdraw (fun a ha => by rcases ha with rfl | rfl <;> decide) (RegsKept.refl (regsOk_lockLost hs)) (by decide)
      (by decide) (by decide) (by decide) t 5
  have hf' : twState (lockLost s t 0) t = tsFollowing := by
    rw [twState, (regsKept_lockLost hs t 0).rf (by decide), ← twState, hf]
  obtain ⟨hstate, hcause⟩ := withdraw_following (regsOk_lockLost hs) hf' (cause := 5) (by decide)
  refine ⟨((hk.locksKept t).lost hs (by decide)).1, hstate, hcause, ?_⟩
  rw [hk.rf (.inl rfl), rf_lockLost hs (by decide) (by decide) (by decide) (by decide)]

section
variable (hs : RegsOk s) (hr : twState s t ≠ tsReset)
include hs hr

theorem execPllLockLoss_crystal : execPllLockLoss t 5 s = .next (if biti s t R.CLK_STATUS_LOCK 0 then
    withdraw (lockLost (crystalLost s t) t 0) t 5 else crystalLost s t) := by
  have hx : RegsKept (· = R.TWN_STATE) s (crystalLost s t) := (RegsKept.refl hs).wf (by decide) 0
  have hr' : twState (crystalLost s t) t ≠ tsReset := by rwa [twState, hx.rf rfl, ← twState]
  have hl : biti (crystalLost s t) t R.CLK_STATUS_LOCK 0 = biti s t R.CLK_STATUS_LOCK 0 :=
    biti_of_rf (Apart.rf (by decide) hs 0) 0
  have h5 : (5 : Fin 6).val = 5 ∧ twState s t ≠ tsReset := ⟨rfl, hr⟩
  have hcond : (twState (crystalLost s t) t = tsReset ∨ (!(biti (crystalLost s t) t R.CLK_STATUS_LOCK 0)) = true) ↔
      ¬ biti s t R.CLK_STATUS_LOCK 0 = true := by simp [hr', hl]
  simp only [execPllLockLoss, if_pos h5]
  by_cases hb : biti s t R.CLK_STATUS_LOCK 0 = true
  · exact (if_neg fun h => hcond.1 h hb).trans (by rw [if_pos hb]; rfl)
  · exact (if_pos (hcond.2 hb)).trans (by rw [if_neg hb])

end

end Sys2Proof.Machine

/-! A lock that returns (O58; R36, R123, R442). -/

namespace Sys2Proof.Machine

variable {K : Nat → Prop} {s0 s : State} {t : Twin} {k : Nat}

/-! The crossings deliver, and rings train: CLK_STATUS stays as it is. -/

theorem RegsKept.setXing (h : RegsKept K s0 s) (t : Twin) (k : Nat) (x : Xing) : RegsKept K s0 (setXing s t k x) :=
  h.keep (setXing_keeps (Keeps.refl _ s) t k x id)

/-- The words that crossings count into are free to change. -/
abbrev XingOpen (K : Nat → Prop) : Prop := Open 0x10040 0x100C0 K

theorem regsKept_accept (hK : XingOpen K) (h : RegsKept K s0 s) (t : Twin) (d : Fin 9) (into : Bool) (l : List W32) :
    RegsKept K s0 (accept t d into s l) := by
  have hcount : ∀ d : Fin 9, (0x10040 ≤ R.CLK_XING_UNSETTLED + 8 * d.val ∧ R.CLK_XING_UNSETTLED + 8 * d.val < 0x100C0) ∧
      ((counterOvf (R.CLK_XING_UNSETTLED + 8 * d.val)).all fun p => decide (0x10040 ≤ p.1 ∧ p.1 < 0x100C0)) = true := by
    decide +kernel
  unfold accept
  split
  · exact h.setXing t _ _
  · exact h.ite (hK.counted (h.setXing t _ _) (hcount d).1 (hcount d).2)

theorem regsKept_clockResumes (hK : XingOpen K) (h : RegsKept K s0 s) (t : Twin) (p : Nat) :
    RegsKept K s0 (clockResumes s t p) :=
  h.foldl fun _ d _ hs => RegsKept.ite
    ((hs.setXing t _ _).foldl fun _ l _ hs' => regsKept_accept hK hs' t d false l) hs

theorem clockResumes_pwr (s : State) (t : Twin) (p : Nat) : ((clockResumes s t p).tw t).pwr = (s.tw t).pwr :=
  (clockResumes_keeps (P := (· = .tw t .pwr)) (Keeps.refl _ s) t p nofun nofun).same (.tw t .pwr) rfl

theorem regsKept_startTraining (hK : ∀ a, K a → a < 0x10100) (h : RegsKept K s0 s) (m : Nat) :
    RegsKept K s0 (startTraining s m) :=
  h.onBoth fun _ t ht => ht.foldl fun _ c hc hs => RegsKept.ite (RegsKept.modRingX
    (regsKept_setRing (fun a ha => .inl (Nat.lt_trans (hK a ha) (by decide))) hs t (List.mem_range.1 hc) 2) t c _) hs

theorem regsKept_trainLeave (hK : ∀ a, K a → a < 0x10100) (h : RegsKept K s0 s) (m : Nat) (host : Bool) :
    RegsKept K s0 (trainLeave s m host) := by
  have hledger : LedgerOpen K := fun a hlo _ ha => absurd (hK a ha) (Nat.not_lt.2 hlo)
  have h1 := regsKept_leaveAsk hledger h 0 (asker s) host m
  exact (regsKept_startTraining hK h m).ite ((regsKept_startTraining hK h1 m).ite h1)

theorem regsKept_trainRing (hK : ∀ a, K a → a < 0x10100) (h : RegsKept K s0 s) (t : Twin) (c : Nat) :
    RegsKept K s0 (trainRing s t c) := regsKept_trainLeave hK (h.modRingX t c _) _ _

/-! The lock, and what follows on it. -/

/-- The lock shows, on a running crystal for the TB PLL, and the waiting transfers complete. -/
def lockBack (s : State) (t : Twin) (k : Nat) : State :=
  clockResumes (evi (if k = 0 then wf s t R.CLK_STATUS_XTAL 1 else s) t R.CLK_STATUS_LOCK k) t k

/-- What follows for the AD, cell-lane and system PLL (R277, R442). -/
def lockFollowed (s : State) (t : Twin) (k : Nat) : State :=
  match k with
  | 1 => wf s t R.ADC_STATUS_AD_UNLOCK 0
  | 2 =>
    if flag s t R.ARR_CTRL_ENABLE then
      (liveChains s t).foldl (fun s c => if ringSt s t c = 0 then trainRing s t c else s) s
    else s
  | 4 => systemRelock s t
  | _ => s

theorem execPllRelock_eq {i : Fin 5} (hr : twState s t ≠ tsReset) :
    execPllRelock t i s = .next (lockFollowed (lockBack s t i.val) t i.val) := (if_neg hr).trans rfl

theorem clockStatusOpen : XingOpen (· = R.CLK_STATUS) := fun _ hlo _ ha => absurd hlo (by subst ha; decide)

theorem lockBack_shows (hs : RegsOk s) (hk : k < 5) (t : Twin) : RegsOk (lockBack s t k) ∧
    biti (lockBack s t k) t R.CLK_STATUS_LOCK k = true ∧ (k = 0 → rf (lockBack s t k) t R.CLK_STATUS_XTAL = 1) ∧
    flag (lockBack s t k) t R.CLK_STATUS_MP_RC = flag s t R.CLK_STATUS_MP_RC ∧
    ((lockBack s t k).tw t).pwr = (s.tw t).pwr := by
  obtain ⟨s1, hs1⟩ : ∃ s1, s1 = if k = 0 then wf s t R.CLK_STATUS_XTAL 1 else s := ⟨_, rfl⟩
  have hi : 0 + k ≤ 4 := by omega
  have h1 : RegsOk s1 := by
    rw [hs1]
    split
    · exact hs.wf _ _
    · exact hs
  have hxtal : k = 0 → rf s1 t R.CLK_STATUS_XTAL = 1 := fun h0 => by
    rw [hs1, if_pos h0]
    exact rf_wf_same hs _ (by decide) (by decide) 1
  have hrc : rf s1 t R.CLK_STATUS_MP_RC = rf s t R.CLK_STATUS_MP_RC := by
    rw [hs1]
    split
    · exact Apart.rf (by decide) hs 1
    · rfl
  have hpwr : (s1.tw t).pwr = (s.tw t).pwr := by
    rw [hs1]
    split
    · exact wf_pwr ..
    · rfl
  have hk' : RegsKept (· = R.CLK_STATUS) (evi s1 t R.CLK_STATUS_LOCK k) (lockBack s t k) := by
    rw [lockBack, ← hs1]
    exact regsKept_clockResumes clockStatusOpen (RegsKept.refl (h1.wr _ _)) t k
  refine ⟨hk'.ok, ?_, fun h0 => ?_, ?_, ?_⟩
  · rw [biti_of_rf (hk'.rf rfl), biti_evi_same h1 hi (by decide)]
  · rw [hk'.rf rfl, rf_evi_apart h1 (by decide) hi (by decide), hxtal h0]
  · rw [flag_of_rf (hk'.rf rfl), flag_of_rf (rf_evi_apart h1 (by decide) hi (by decide)), flag_of_rf hrc]
  · rw [lockBack, clockResumes_pwr, evi_pwr, ← hs1, hpwr]

/-- The processor returns to the frequency held, where one is held. -/
theorem systemRelock_shows (hs : RegsOk s) (t : Twin) :
    rf (systemRelock s t) t R.CLK_STATUS_LOCK = rf s t R.CLK_STATUS_LOCK ∧
    (flag s t R.CLK_STATUS_MP_RC = true → (s.tw t).pwr.lastFreq ≠ 0 →
      rd (systemRelock s t) t R.CLK_MP_FREQ = BitVec.ofNat 32 (s.tw t).pwr.lastFreq ∧
      flag (systemRelock s t) t R.CLK_STATUS_MP_RC = false) := by
  have hset : ∀ {s1 : State} (v : W32), RegsOk s1 → RegsKept (fun a => a < 0x10100)
      (wr (wf s1 t R.CLK_STATUS_MP_RC 0) t R.CLK_MP_FREQ v)
      (showFallback (wr (wf s1 t R.CLK_STATUS_MP_RC 0) t R.CLK_MP_FREQ v)) := fun v h1 =>
    regsKept_showFallback (RegsKept.refl ((h1.wf _ _).wr _ _)) (by decide)
  unfold systemRelock
  extract_lets f v s1
  have hk : RegsKept (fun _ => True) s s1 :=
    ((RegsKept.refl hs).keep (freeTick_keeps (Keeps.refl _ s))).ite (RegsKept.refl hs)
  split
  next hrc => exact ⟨rfl, fun h => absurd h (by simpa using hrc)⟩
  next =>
    refine ⟨?_, fun _ h0 => ⟨?_, ?_⟩⟩
    · rw [(hset v hk.ok).rf (by decide), rf, rd_wr_ne (hk.ok.wf _ _) (by decide), ← rf, Apart.rf (by decide) hk.ok,
        hk.rf trivial]
    · rw [(hset v hk.ok).same t _ (by decide), rd_wr_same (hk.ok.wf _ _)]
      exact if_neg h0
    · rw [(hset v hk.ok).flag (by decide), flag, rf, rd_wr_ne (hk.ok.wf _ _) (by decide), ← rf, ← flag]
      exact flag_wf_same hk.ok _ (by decide) rfl false

theorem rf_lock_lockFollowed (hs : RegsOk s) (t : Twin) (k : Nat) :
    rf (lockFollowed s t k) t R.CLK_STATUS_LOCK = rf s t R.CLK_STATUS_LOCK ∧
    (k = 0 → rf (lockFollowed s t k) t R.CLK_STATUS_XTAL = rf s t R.CLK_STATUS_XTAL) := by
  have hk : RegsKept (· = R.CLK_STATUS) s s := RegsKept.refl hs
  unfold lockFollowed
  split
  · exact ⟨(hk.wf (by decide) 0).rf rfl, nofun⟩
  · refine ⟨RegsKept.rf (RegsKept.ite (hk.foldl fun _ c _ h => ?_) hk) rfl, nofun⟩
    exact (regsKept_trainRing (fun a ha => by subst ha; decide) h t c).ite h
  · exact ⟨(systemRelock_shows hs t).1, nofun⟩
  · exact ⟨rfl, fun _ => rfl⟩

theorem execPllRelock_shows (hs : RegsOk s) (hr : twState s t ≠ tsReset) (i : Fin 5) : ∃ u,
    execPllRelock t i s = .next u ∧ biti u t R.CLK_STATUS_LOCK i.val = true ∧ (i = 0 → rf u t R.CLK_STATUS_XTAL = 1) ∧
    (i = 1 → flag u t R.ADC_STATUS_AD_UNLOCK = false) ∧
    (i = 4 ∧ flag s t R.CLK_STATUS_MP_RC = true ∧ (s.tw t).pwr.lastFreq ≠ 0 →
      rd u t R.CLK_MP_FREQ = BitVec.ofNat 32 (s.tw t).pwr.lastFreq ∧ flag u t R.CLK_STATUS_MP_RC = false) := by
  obtain ⟨hok, hlock, hxtal, hrc, hpwr⟩ := lockBack_shows (k := i.val) hs i.isLt t
  obtain ⟨hlock', hxtal'⟩ := rf_lock_lockFollowed hok t i.val
  refine ⟨_, execPllRelock_eq hr, (biti_of_rf hlock' _).trans hlock, ?_, ?_, ?_⟩
  · rintro rfl
    exact (hxtal' rfl).trans (hxtal rfl)
  · rintro rfl
    exact flag_wf_same hok _ (by decide) rfl false
  · rintro ⟨rfl, hmp, hlast⟩
    rw [← hpwr]
    exact (systemRelock_shows hok t).2 (hrc.trans hmp) (by rwa [hpwr])

end Sys2Proof.Machine

/-! The statement on the core-voltage loop, the PLLs and the ramps (O58). -/

namespace Sys2Proof.Machine

variable {s : State} {t : Twin}

theorem execSlackError_withdraws (hs : RegsOk s) (hf : twState s t = tsFollowing)
    (hv : rf s t R.PWR_VCORE_SETPOINT = 850) (hn : (BitVec.ofNat 16 (rf s t R.PWR_SLACK_SLACK)).toInt < 0) :
    ∃ u, execSlackError t s = .next u ∧ twState u t = tsWithdrawn ∧ rf u t R.TWN_STATE_CAUSE = 2 :=
  ⟨_, congrArg Host.Outcome.next (if_pos ⟨hv, hn⟩), withdraw_following hs hf (by decide)⟩

/-- Each PLL's loss but TB's shows beside what it stops. -/
theorem execPllLockLoss_shows (hs : RegsOk s) (hr : twState s t ≠ tsReset) {k : Fin 6} (h0 : k ≠ 0) (h5 : k ≠ 5)
    (hl : biti s t R.CLK_STATUS_LOCK k.val = true) : ∃ u, execPllLockLoss t k s = .next u ∧
    biti u t R.CLK_STATUS_LOCK k.val = false ∧ biti u t R.CLK_EVENT_UNLOCK k.val = true ∧
    (k = 1 → flag u t R.ADC_STATUS_AD_UNLOCK = true) ∧ (k = 2 → ∀ c : Fin 12, ringSt u t c.val = 0) ∧
    (k = 4 → flag u t R.CLK_STATUS_MP_RC = true ∧ rd u t R.CLK_MP_FREQ = 50000 ∧
      (u.tw t).pwr.lastFreq = mpFreq s t) := by
  have hlost := regsOk_lockLost (t := t) (k := k.val) hs
  have hk : RegsKept LockWord (lockLost s t k.val) (lockLost s t k.val) := RegsKept.refl hlost
  have hlock : ∀ a, LockWord a → a < 0x1200000 := fun a ha => by rcases ha with rfl | rfl <;> decide
  refine ⟨_, execPllLockLoss_locked hr h5 hl, ?_⟩
  have hcases : ∀ k : Fin 6, k ≠ 0 → k ≠ 5 → k = 1 ∨ k = 2 ∨ k = 3 ∨ k = 4 := by decide
  obtain rfl | rfl | rfl | rfl := hcases k h0 h5
  · rw [lossTaken_ad]
    obtain ⟨hl, hu⟩ := (locksKept_adUnlock hlost t).lost hs (by decide)
    exact ⟨hl, hu, fun _ => flag_adUnlock hlost, nofun, nofun⟩
  · rw [lossTaken_lanes]
    obtain ⟨hl, hu⟩ := ((regsKept_ringsOff hk t).locksKept t).lost hs (by decide)
    exact ⟨hl, hu, nofun, fun _ c => ringSt_ringsOff hlost t c.isLt, nofun⟩
  · rw [lossTaken_ports]
    have hports := hk.foldl (l := [0, 1]) fun _ j hj h => regsKept_portLinkSet hlock h
      (p := 2 * t.index + j) (by cases t <;> simp [Twin.index] at hj ⊢ <;> omega) false false false false 2 0
    obtain ⟨hl, hu⟩ := (hports.locksKept t).lost hs (by decide)
    exact ⟨hl, hu, nofun, nofun, nofun⟩
  · rw [lossTaken_system]
    obtain ⟨hl, hu⟩ := (locksKept_systemUnlock hlost t).lost hs (by decide)
    obtain ⟨hrc, hfreq, hlast⟩ := systemUnlock_shows hlost t
    exact ⟨hl, hu, nofun, nofun, fun _ => ⟨hrc, hfreq, hlast.trans (mpFreq_lockLost hs (by decide))⟩⟩

/-- Settles O58: each row by its lemma, the loop by the case of `vcoreNext` that the slack falls in. -/
theorem clockCommandsComplete : Obligations.ClockCommandsComplete := by
  refine ⟨fun s t n x y hs hr hlow hb hfix => ?_, fun s t n x y hs hr hmin htgt hb hfix => ?_,
    fun s t n x y hs hr hmin htgt hw hb hfix => ?_, fun s t n x y hs hr hmin hlo hhi hb hfix => ?_,
    fun s t n x y hs hr hb => ?_, fun s t n x y hs hr hb hm hsafe => ?_,
    fun s t hs hf hv hn => execSlackError_withdraws hs hf hv hn,
    fun s t k hs hr h0 h5 hl => execPllLockLoss_shows hs hr h0 h5 hl, fun s t hs hf hl => ?_, fun s t hs hf hl => ?_,
    fun s t hs hr hl => ⟨_, (execPllLockLoss_crystal hs hr).trans (by rw [hl]; rfl), rfl⟩,
    fun s t k hs hr => execPllRelock_shows hs hr k, fun s t hs hv hf => ?_, fun s t hv => ⟨_, if_pos (by simp [hv]), rfl⟩,
    fun s t n hs h1 h8 hr => execRampAbort_stops hs (by omega) hr, fun s t n h1 h8 hr => ⟨_, ?_, rfl⟩,
    fun s t n h0 => ⟨_, if_pos (.inl h0), ?_⟩, fun s t n h8 => ⟨_, if_pos (.inr h8), rfl, rangeCode_ne_ok _ _⟩,
    fun s t x y l hs hr hp => execRampEnd_ends hs hr hp⟩
  · obtain ⟨u, hu, hshown, -⟩ := execVcoreLoop_next (n := n) (x := x) (y := y) hs hr hb hfix (if_pos hlow)
    exact ⟨u, hu, hshown.setpoint, hshown.low hlow, hshown.slack, hshown.vin, hshown.tdie⟩
  · obtain ⟨u, hu, hshown, -⟩ := execVcoreLoop_next (n := n) (x := x) (y := y) hs hr hb hfix
      ((if_neg (by omega)).trans (if_pos htgt))
    exact ⟨u, hu, hshown.setpoint, hshown.slack, hshown.vin, hshown.tdie⟩
  · obtain ⟨u, hu, hshown, hwait⟩ := execVcoreLoop_next (n := n) (x := x) (y := y) hs hr hb hfix
      ((if_neg (by omega)).trans ((if_neg (by omega)).trans (if_pos ⟨htgt, by omega⟩)))
    exact ⟨u, hu, hshown.setpoint, hwait, hshown.slack, hshown.vin, hshown.tdie⟩
  · obtain ⟨u, hu, hshown, hwait⟩ := execVcoreLoop_next (n := n) (x := x) (y := y) hs hr hb hfix
      ((if_neg (by omega)).trans ((if_neg (by omega)).trans (if_neg fun h => absurd h.1 (by omega))))
    exact ⟨u, hu, hshown.setpoint, hwait, hshown.slack, hshown.vin, hshown.tdie⟩
  · obtain ⟨u, hu, hshown⟩ := execVcoreLoop_boot (n := n) (x := x) (y := y) hs hr hb
    exact ⟨u, hu, hshown.setpoint, hshown.slack, hshown.vin, hshown.tdie⟩
  · obtain ⟨u, hu, hshown⟩ := execVcoreLoop_fixed (n := n) (x := x) (y := y) hs hr hb hm hsafe
    exact ⟨u, hu, hshown.setpoint, hshown.slack, hshown.vin, hshown.tdie⟩
  · refine ⟨_, execPllLockLoss_locked (by rw [hf]; decide) (by decide) hl, lockLost_withdraws hs hf⟩
  · have hx : RegsKept (· = R.TWN_STATE) s (crystalLost s t) := (RegsKept.refl hs).wf (by decide) 0
    have hxtal : rf (crystalLost s t) t R.CLK_STATUS_XTAL = 0 := rf_wf_same hs _ (by decide) (by decide) 0
    obtain ⟨hlock, hstate, hcause, hkept⟩ := lockLost_withdraws (t := t) hx.ok (by rw [twState, hx.rf rfl, ← twState, hf])
    exact ⟨_, (execPllLockLoss_crystal hs (by rw [hf]; decide)).trans (by rw [if_pos hl]), hlock, hstate, hcause,
      hkept.trans hxtal⟩
  · obtain ⟨u, hu, h⟩ := execRampStart_starts hs hv hf
    exact ⟨u, hu, h.report, h.ramping, h.leave, h.rampFrom, h.rampAt, h.rampPts⟩
  · refine (if_neg (by omega)).trans (congrArg Host.Outcome.next (if_neg ?_))
    rw [hr]
    decide
  · have hn : n = 0#4 := BitVec.eq_of_toNat_eq h0
    subst hn
    rfl

end Sys2Proof.Machine
